-- ==== Sys2Proof/Word.lean ====
section
/-! DEFINITION. The words of the P3236: bytes, 32-bit registers and the indices the spec counts with. -/

namespace Sys2Proof

/-- A byte of memory, of a descriptor or of a packet (R7, R8). -/
abbrev Byte := BitVec 8

/-- A register: every register is 32 bits wide (R11). -/
abbrev Word := BitVec 32

end Sys2Proof
end

