-- ==== Sys2Proof/Syntax.lean ====
section
/-! DEFINITION. The commands of the P3236: what a sender may present to it, one constructor for each row of the table of what it does,
and the records that carry their operands. -/
namespace Sys2Proof

/-- A descriptor as the P3236 reads it from a ring (R400, R402, R403): header, operand bytes, extension blocks and the
operand buffers the command names for reading. -/
structure Desc where
  /-- The ring it is read from. -/
  ring : Nat
  /-- Byte 0 is an opcode of the ring's kind. One that is unknown there comes with NOP on a CMD ring, with DLV_FRAME on a DLV ring. -/
  known : Bool := true
  /-- Byte 1. -/
  flags : Byte := 0
  /-- Bytes 2–3. -/
  tag : BitVec 16 := 0
  /-- Bytes 4–7. -/
  target : BitVec 32 := 0
  /-- Bytes 8 to 63; bytes 56 to 63 are NEXT when CHAIN is 1. -/
  ops : List Byte := List.replicate 56 0
  /-- Extension blocks in the chain; 17 stands for a chain whose 16th block has a next. -/
  blocks : Nat := 0
  /-- The operand bytes of the blocks read, 56 a block. -/
  ext : List Byte := []
  /-- What the operand buffers of the command held when it was taken. -/
  buf : List Byte := []
  deriving DecidableEq, Repr

/-- What the receiver's adaptation asks for during a training frame (R133, R134): it has finished; a request for the far
transmitter as (REQ_CMD, REQ_TAP, REQ_PRESET); the lane's skew in ns against the lanes of its link (R129). -/
structure Adapt where
  ready : Bool := false
  req : Option (Nat × Nat × Nat) := none
  skewNs : Nat := 0
  deriving DecidableEq, Repr

/-- The grandmaster data of an Announce message that the best master clock algorithm compares (R55). -/
structure Master where
  priority1 : Nat := 255
  clockClass : Nat := 255
  accuracy : Nat := 255
  variance : Nat := 65535
  priority2 : Nat := 255
  gmId : Nat := 0
  steps : Nat := 0
  deriving DecidableEq, Repr

/-- The synchronisation metadata TLV of SMPTE ST 2059-2 (R58). -/
structure SmTlv where
  rateNum : Nat := 0
  rateDen : Nat := 0
  locking : Nat := 0
  addressFlags : Nat := 0
  localOffset : Int := 0
  nextJam : Nat := 0
  prevOffset : Int := 0
  daylight : Nat := 0
  deriving DecidableEq, Repr

/-- The kinds of PTP message that a slave-only clock acts on (IEEE 1588-2019). -/
inductive PtpKind where
  | sync | followUp | delayResp | pdelayReq | pdelayResp | pdelayRespFup | announce
  deriving DecidableEq, Repr

/-- A PTP message received on a timing port. Times are in units of 2^−16 ns: `time` is the timestamp it carries (Sync's
departure, Delay_Resp's receipt, a two-step Pdelay_Resp's receipt of the request, Pdelay_Resp_Follow_Up's departure of the
response), `corr` its correction field. -/
structure PtpMsg where
  kind : PtpKind
  /-- Where in the 4 ns clock the message arrives, in ns (R57). -/
  ns : Nat := 0
  domain : Nat := 0
  transport : Nat := 1
  twoStep : Bool := false
  time : Int := 0
  corr : Int := 0
  master : Master := {}
  /-- logAnnounceInterval of an Announce, logSyncInterval of a Sync. -/
  logInterval : Int := 0
  utc : Option Int := none
  sm : Option SmTlv := none
  deriving DecidableEq, Repr

/-- A lane-management message (R159). -/
structure LaneMsg where
  opcode : Nat
  subject : Nat := 0
  seq : Nat := 0
  arg : Nat := 0
  block : Nat := 0
  mask : Nat := 0
  deriving DecidableEq, Repr

/-- A packet of the link stream (R162, R163): header fields, type fields in bytes 8–15, payload. -/
structure Pkt where
  ptype : Nat
  vc : Nat := 0
  slot : Nat := 0
  length : Nat := 0
  vcPos : Nat := 0
  fields : List Byte := []
  payload : List Byte := []
  deriving DecidableEq, Repr

/-- An OPEN-only segment of a TORN magazine as its drives show it to a walk (R340–R349). -/
structure TornSeg where
  /-- Bytes of the segment's directory block and of its last OPEN or CHECKPOINT entry. -/
  dir : List Byte
  entry : List Byte
  /-- Its last index block, by INDEX_NO and position, if it has one. -/
  lastIndex : Option (Nat × Nat) := none
  /-- The stream's blocks from position `base` on: the start of a row at or before the start of the walk. -/
  base : Nat := 0
  stream : List Byte := []
  deriving DecidableEq, Repr

/-- What a drive answers to a command (R287–R294): an error with DNR, and by command the facts it returns. -/
structure DrvReply where
  error : Bool := false
  dnr : Bool := false
  /-- Identify: namespace 1 is active with 4,096-byte blocks and no metadata; MDTS in bytes; I/O queue pairs of 256 entries;
  blocks; serial number; an enabled volatile write cache. -/
  lbaOk : Bool := false
  mdts : Nat := 0
  queues : Nat := 0
  blocks : Nat := 0
  serial : Nat := 0
  vwc : Bool := false
  /-- SMART / health log. -/
  temp : Nat := 0
  pct : Nat := 0
  warn : Nat := 0
  /-- Superblock and copy (R331), journal entries and directory slots used, next free claim, OPEN-only segments. -/
  sb0 : List Byte := []
  sb1 : List Byte := []
  journal : Nat := 0
  dirs : Nat := 0
  nextClaim : Nat := 0
  openSegs : Nat := 0
  /-- MAG_READ and MAG_REPAIR. -/
  data : List Byte := []
  torn : List TornSeg := []
  deriving DecidableEq, Repr

/-- The commands of the P3236: one for each row of the table, in the table's order, those without operands last. Of the operands, `d : Desc` is the descriptor of a ring command; `p` a
host port; `n` a ring or lane; `l` a head link; `st` a stream; `r` a rig; `b` a bay; `m` a magazine set; `ch` a motion channel; `u`,
`k`, `e`, `i`, `w` and `c` the unit, channel, engine, input, window or pseudo-channel that the command is about; `off` a BAR0 offset;
`v` the value written. -/
inductive Instr where
  /-- Command that does nothing and completes DONE (R411). -/
  | nop (d : Desc)
  /-- Rig-mode command that admits every stream of an IDLE rig and takes it to LIVE at its mode-change boundary (R38). -/
  | rigStart (d : Desc)
  /-- Rig-mode command that takes a LIVE or ARMED rig to IDLE, cancelling triggers for frames exposing at or after the boundary
  (R634). -/
  | rigStop (d : Desc)
  /-- Rig-mode command that admits the pre-roll span and takes a LIVE rig to ARMED (R38). -/
  | rigArm (d : Desc)
  /-- Rig-mode command that releases pre-roll holders and takes an ARMED rig to LIVE (R38). -/
  | rigDisarm (d : Desc)
  /-- Rig-mode command that checks the take floor, admits seal and record, derives the take key and starts a take at the
  mode-change boundary (R412). -/
  | takeStart (d : Desc)
  /-- Rig-mode command that ends a take at its mode-change boundary and returns the rig to ARMED or LIVE (R40). -/
  | takeStop (d : Desc)
  /-- Rig-mode command that turns pre-count ring frames into burst frames and takes the rig to BURST (R258). -/
  | burstStart (d : Desc)
  /-- Rig-mode command that ends capture into the burst buffer and takes the rig to OFFLOAD (R38). -/
  | burstStop (d : Desc)
  /-- Rig-mode command that releases burst holders of frames not yet offloaded and returns the rig to LIVE (R38). -/
  | offloadAbort (d : Desc)
  /-- Rig-mode command that bypasses conditioning for the rig's streams and enters CALIBRATE (R231). -/
  | calStart (d : Desc)
  /-- Rig-mode command that restores conditioning and returns the rig to LIVE (R231). -/
  | calStop (d : Desc)
  /-- Command that starts a planned relay of the rig's take to the next admitted magazine set (R309). -/
  | magRelay (d : Desc)
  /-- Command that copies the pending set, validates it and checks it with the planner for activation two ticks later (R527). -/
  | configCommit (d : Desc)
  /-- Command that, with every rig IDLE, takes the device from OPERATIONAL to STANDBY two ticks later (R631). -/
  | configClear (d : Desc)
  /-- Command that activates PREVIOUS or FACTORY two ticks later, or copies it to pending in STANDBY (R543). -/
  | configFallback (d : Desc)
  /-- Command that makes the pending set equal to the active set or to FACTORY (R530). -/
  | configDiscard (d : Desc)
  /-- Command that decides a pending refused step so that it applies at boundary B (R61). -/
  | timeStepAccept (d : Desc)
  /-- Command that sets a pending step to an absolute device time and decides it (R62). -/
  | timeSet (d : Desc)
  /-- Command that schedules a settings packet for a target frame, or reports it late or slips it (R180). -/
  | settingsPost (d : Desc)
  /-- Command that sends a REG_WRITE or REG_READ to a head at once and completes on its REG_COMPLETION (R183). -/
  | sensorReg (d : Desc)
  /-- Command that starts a planned swap of a lane to its port's spare and completes when the swap is done (R412). -/
  | laneSwap (d : Desc)
  /-- Command that releases a bay, relaying first when it is IN_USE (R316). -/
  | magRelease (d : Desc)
  /-- Command that lays out every drive of a magazine set and writes its superblocks (R330). -/
  | magFormat (d : Desc)
  /-- Command that recovers open segments of a TORN bay and closes them RECOVERED (R350). -/
  | magRepair (d : Desc)
  /-- Command that crypto-erases every READY drive of a bay (R323). -/
  | magSanitize (d : Desc)
  /-- Command that copies an extent of a drive to a host buffer as class E work (R323). -/
  | magRead (d : Desc)
  /-- Command from a CO ring that zeroises the device (R516). -/
  | zeroize (d : Desc)
  /-- Command that takes a ZEROIZED device to PROVISION (R492). -/
  | provisionBegin (d : Desc)
  /-- Command that writes the owner partition, erases E_d and enters STANDBY (R493). -/
  | provisionClose (d : Desc)
  /-- Command that writes a fresh authentication nonce to the host (R486). -/
  | secAuthBegin (d : Desc)
  /-- Command that verifies a signed challenge and authorises the ring for a role (R486). -/
  | secAuthProve (d : Desc)
  /-- Command that ends the ring's role authorisation (R487). -/
  | secLogout (d : Desc)
  /-- Command that installs a CO public key while no CO key is held (R491). -/
  | secCoEnrol (d : Desc)
  /-- Command that replaces or erases a role public key (R510). -/
  | secKeyReplace (d : Desc)
  /-- Command that generates E_d and returns its FAK-signed public key (R495). -/
  | secEcdhBegin (d : Desc)
  /-- Command that derives a KEK by ECDH and unwraps the owner key (R496). -/
  | secOwnerSet (d : Desc)
  /-- Command that generates DIK and issues its FAK-signed certificate (R494). -/
  | secIdentityGen (d : Desc)
  /-- Command that writes DIK public key, DIK_ID and the certificate chain to the host (R510). -/
  | secGetIdentity (d : Desc)
  /-- Command that returns a take key wrapped under OWK (R510). -/
  | secTakeKey (d : Desc)
  /-- Command that writes a DIK-signed attestation statement over a host nonce (R510). -/
  | secAttest (d : Desc)
  /-- Command that verifies a firmware image, writes it to the inactive slot and sets PENDING (R509). -/
  | secFwInstall (d : Desc)
  /-- Command that runs the crypto engine KAT rotation over every engine at once (R513). `fails`: engines that fail, each with
  its test. -/
  | secSelftest (d : Desc) (fails : List (Nat × Nat))
  /-- Command that drains a unit, bringing in a spare, and completes when the unit is OFFLINE (R553). -/
  | unitDrain (d : Desc)
  /-- Command that runs the QUICK or FULL test set on a unit (R554). -/
  | unitTest (d : Desc)
  /-- Command that returns an OFFLINE unit to SPARE or ACTIVE (R555). -/
  | unitReturn (d : Desc)
  /-- Command that retires a unit and writes it into the persistent log (R555). -/
  | unitRetire (d : Desc)
  /-- Delivery descriptor that posts up to four buffers for one frame of a subscription (R424). -/
  | dlvFrame (d : Desc)
  /-- Delivery descriptor that gathers payload elements through an index table (R433). -/
  | dlvGather (d : Desc)
  /-- Write of a ring doorbell that is checked and stored as the producer or consumer count (R395). -/
  | doorbellWrite (p : Nat) (n : Nat) (v : Word)
  /-- Write of 1 to RING_CTRL.ENABLE that starts a ring when its setup is valid (R390). -/
  | ringEnable (p : Nat) (n : Nat) (v : Word)
  /-- Write of 0 to RING_CTRL.ENABLE that aborts a ring (R391). -/
  | ringAbort (p : Nat) (n : Nat) (v : Word)
  /-- Write of 1 to RESUME that returns a paused ring to RUNNING and retakes or re-executes its descriptor (R406). -/
  | ringResume (p : Nat) (n : Nat) (v : Word)
  /-- A record waiting in ring staging is written once its EVT ring has room or runs again (R398). -/
  | stagedRecordWrite (n : Nat)
  /-- A descriptor, extension or operand read fails, leaving the descriptor untaken and pausing the ring (R406). `n`: ring;
  `cmd`: the TAG of the taken command whose write failed, or none for a descriptor read. -/
  | ringBusError (n : Nat) (addr : Nat) (cmd : Option Nat)
  /-- Write of STEW_CTRL.CLAIM that makes a live port steward when there is none (R374). -/
  | claim (p : Nat)
  /-- Write of STEW_CTRL.RELEASE by the steward that starts a shift change (R376). -/
  | release (p : Nat)
  /-- Write of HEARTBEAT that keeps the writing port live (R375). -/
  | heartbeat (p : Nat)
  /-- A port stops being live after three heartbeat periods without a heartbeat (R375). -/
  | portLivenessExpiry (p : Nat)
  /-- Write of LANE_TRAIN_CTRL.RETRAIN that starts training of a lane (R134). -/
  | retrain (p : Nat) (n : Nat) (v : Word)
  /-- Write of LANE_INJ_CTRL.GO that starts error injection on a transmitter (R151). -/
  | injectionGo (p : Nat) (n : Nat) (v : Word)
  /-- Write of LANE_INJ_CTRL.STOP that ends a RATE injection (R151). -/
  | injectionStop (p : Nat) (n : Nat) (v : Word)
  /-- Write of PLN_RES_SEL that captures a resource instance's planner values for the port (R113). -/
  | plnResSelWrite (p : Nat) (v : Word)
  /-- Write of STORE_FR_SEL that captures a frame's Tally and location for the port (R276). -/
  | storeFrSelWrite (p : Nat) (v : Word)
  /-- Write of CFG_PEEK_ADDR that captures a register's ACTIVE or PREVIOUS value for the port (R548). -/
  | cfgPeekAddrWrite (p : Nat) (v : Word)
  /-- Write of TOBJ_DIR_DIGEST that captures a sealed object's digest for the port (R549). -/
  | tobjDirDigestWrite (p : Nat) (i : Nat)
  /-- Write of SVC_TELEM_SEL that captures a telemetry value for the port (R572). -/
  | svcTelemSelWrite (p : Nat) (v : Word)
  /-- Write of SVC_LOG_SEL that captures a service or persistent log entry for the port (R575). -/
  | svcLogSelWrite (p : Nat) (v : Word)
  /-- Table object operation that allocates and zeroes heap units and returns a handle (R536). -/
  | tobjAlloc (p : Nat)
  /-- Table object operation that starts digesting an object against the expected digest (R536). -/
  | tobjSeal (p : Nat)
  /-- Table object operation that returns an unreferenced object's units to the heap (R536). -/
  | tobjFree (p : Nat)
  /-- Write of SVC_CTRL.GO that arms a service transfer on a channel (R444). -/
  | svcGo (p : Nat) (k : Nat) (v : Word)
  /-- Write of SVC_CTRL.ABORT that stops a service transfer with ABORTED (R445). -/
  | svcAbort (p : Nat) (k : Nat) (v : Word)
  /-- An armed service transfer starts at its boundary, compare firing or channel completion (R444). -/
  | svcTransferStart (k : Nat)
  /-- A service transfer ends and reports its status (R445). `data`: what the transfer's reads returned. -/
  | svcTransferDone (k : Nat) (data : List Byte)
  /-- Read of TIME_SNAP_LIN_LO that captures device time for the port (R48). -/
  | timeSnapLinLoRead (p : Nat)
  /-- Read of MCH_POS_LO that snapshots position, speed and status of a channel (R481). -/
  | mchPosLoRead (p : Nat) (ch : Nat)
  /-- Read of PRB_TIME_LO that snapshots every latch register of a probe (R465). -/
  | prbTimeLoRead (p : Nat) (k : Nat)
  /-- Read of the low half of a 64-bit pair that captures the whole pair for the port (R590). `n`: bytes. -/
  | regPairLoRead (p : Nat) (off : Nat) (n : Nat)
  /-- Write of the low half of a writable pair that the port holds until the high half (R590). -/
  | regPairLoWrite (p : Nat) (off : Nat) (v : Word)
  /-- Write of the high half of a pair that applies all 64 bits with the held low half (R590). -/
  | regPairHiWrite (p : Nat) (off : Nat) (v : Word)
  /-- Read of an RC register that returns and clears it (R589). `n`: bytes. -/
  | rcRegisterRead (p : Nat) (off : Nat) (n : Nat)
  /-- Read of ACCESS_STATUS that clears the port's copies of ACCESS_STATUS and ACCESS_ADDR (R580). -/
  | accessStatusRead (p : Nat)
  /-- Write to a group or ALL alias that reaches every member of the group (R546). -/
  | aliasWrite (p : Nat) (off : Nat) (v : Word)
  /-- Read from an alias that returns the lowest member's value and flags differing members (R547). `n`: bytes. -/
  | aliasRead (p : Nat) (off : Nat) (n : Nat)
  /-- Write of TCMP_TARGET_HI that replaces a time compare target at once (R85). -/
  | tcmpTargetHiWrite (p : Nat) (u : Nat) (v : Word)
  /-- Write of CMP_TARGET_HI that applies a new position compare target from the next clock (R482). -/
  | cmpTargetHiWrite (p : Nat) (u : Nat) (v : Word)
  /-- Write setting CMP_CTRL.EN that arms a position compare unit or sets BAD_SETUP (R467). -/
  | cmpEnable (p : Nat) (u : Nat) (v : Word)
  /-- Write of MCH_SET_POS_HI that sets a channel's position and marks it referenced (R459). -/
  | mchSetPosHiWrite (p : Nat) (ch : Nat) (v : Word)
  /-- Write of 1 to PRB_STATUS.VALID that clears VALID and MISSED (R465). -/
  | probeValidClear (p : Nat) (k : Nat)
  /-- Clearing a function or vector mask sends the message of a pending vector (R364). `vec`: the vector whose mask is written,
  or none for MSI-X Enable and the function mask. -/
  | msixUnmask (p : Nat) (vec : Option Nat) (enable : Bool) (mask : Bool)
  /-- Write to a register with no row of its own, acting by its field access types (R12). `off`: BAR0 offset; `n`: bytes; `v`:
  value. -/
  | registerWrite (p : Nat) (off : Nat) (n : Nat) (v : Word)
  /-- A register wake does not complete within 2 µs, so the read returns 0 or the write is dropped (R594). `write`: the access
  is a write. -/
  | wakeFail (p : Nat) (off : Nat) (write : Bool)
  /-- SPI service-port READ command that returns a BAR0 register with the guest view (R618). -/
  | svcPortRead (off : Nat)
  /-- SPI service-port IMAGE command that delivers firmware image bytes to the boot ROM (R618). `data`: up to 4,096 bytes of
  the image. -/
  | svcPortImage (data : List Byte)
  /-- JTAG instruction that samples or preloads the boundary cells (R620). `cells`: the boundary cells shifted in. -/
  | samplePreload (cells : List Bool)
  /-- JTAG unlock by Skovile challenge signature that zeroises and opens debug access (R520). `valid`: the signature verifies. -/
  | unlockChallenge (valid : Bool)
  /-- Internal reset releases once rails and clocks are good and PORST# is high, and boot begins (R609). `bifurc`, `bootSrc`:
  the straps as sampled. -/
  | internalResetRelease (bifurc : Nat) (bootSrc : Bool)
  /-- A boot stage completes and the next stage starts (R622). `detail`: the failure the stage met, as BOOT_STATUS.DETAIL has
  it, else 0; `data`: what the boot flash held; `bad`: engines or pseudo-channels that failed; `badUnits`: units, by kind and
  index, that failed their test. -/
  | bootStageEnd (detail : Nat) (data : List Byte) (bad : List Nat) (badUnits : List (Nat × Nat))
  /-- ZEROIZE# held low for 1 µs triggers zeroisation (R516). `low`: the pin has been low for 1 µs, or has risen. -/
  | zeroizePin (low : Bool)
  /-- A TAMPER input active for its filter time alerts or zeroises by its mode (R519). `i`: input; `high`: the level that has
  stood for the filter time. -/
  | tamperInput (i : Nat) (high : Bool)
  /-- Release of PX_PERST# starts link training on a host port (R624). -/
  | pxPerstRelease (p : Nat)
  /-- A host port link reaches L0 (R624). `mps`, `noSnoop`, `relaxed`: the Device Control settings that the host gives the
  port. -/
  | hostLinkUp (p : Nat) (rate : Nat) (width : Nat) (flit : Bool) (mps : Nat) (noSnoop : Bool) (relaxed : Bool)
  /-- FLR, hot reset, link down, PX_PERST# or D3hot-to-D0 resets one host port (R361). `kind`: 0 function-level reset, 1 hot
  reset, 2 link down, 3 PX_PERST# low, 4 D3hot to D0. -/
  | hostPortReset (p : Nat) (kind : Nat)
  /-- A port entering D3hot stops decoding and its movers (R362). -/
  | d3hotEntry (p : Nat)
  /-- A host port retrains to another width or rate and its capacity changes at the next boundary (R354). -/
  | widthChange (p : Nat) (rate : Nat) (width : Nat) (flit : Bool)
  /-- A read on a host port receives no completion within HP_CPL_TIMEOUT (R384). `mover`, `ring`: whose read it was, if one of
  theirs. -/
  | cplTimeout (p : Nat) (mover : Option Nat) (ring : Option Nat) (addr : Nat)
  /-- A received TLP fails its IDE check, is dropped and its stream becomes Insecure (R367). `n`: selective stream. -/
  | ideIntegrityFail (p : Nat) (n : Nat)
  /-- An IDE_KM message over the port's DOE mailbox establishes or refreshes IDE keys (R366). `n`: selective stream; `key`: its
  key set; `lo`, `hi`: its address association range. -/
  | ideKm (p : Nat) (n : Nat) (key : Nat) (lo : Nat) (hi : Nat)
  /-- At a mode-change boundary the rig applies its pending commands and automatic transitions and completes them (R39). -/
  | rigModeChange (r : Nat)
  /-- A PTP message received on a timing port is timestamped and may yield a servo measurement (R57). `p`: timing port. -/
  | ptpMessage (p : Nat) (m : PtpMsg)
  /-- Three announce intervals pass without a qualified Announce and the servo loses its source (R52). `p`: timing port. -/
  | ptpSourceLost (p : Nat)
  /-- Three REF_IN edges missing or far off set REF_LOST and the timer runs on device time (R74). -/
  | refLost (r : Nat)
  /-- A decoded LTC_IN frame sets the timecode label (R78). `ok`: the sync word was good. -/
  | ltcInFrame (hours : Nat) (minutes : Nat) (seconds : Nat) (frames : Nat) (drop : Bool) (ok : Bool)
  /-- A time compare unit fires when device time reaches its target (R82). -/
  | tcmpFire (u : Nat)
  /-- At the trigger job a record slot is reserved and a TRIGGER is sent TRIG_LEAD ticks ahead (R72). -/
  | triggerSend (r : Nat)
  /-- At tick S(F) the settings packets for frame F are sent or recorded as unsent (R180). -/
  | settingsSend (l : Nat)
  /-- Once per block the device sends BEACON with the departure times of the next commas (R171). `tNext`, `tAfter`: when the
  commas of the next two blocks leave, in 2^−16 ns of device time. -/
  | beaconSend (l : Nat) (tNext : Int) (tAfter : Int)
  /-- The device sends CREDIT after FREED changes or every 100 µs (R166). -/
  | creditSend (l : Nat)
  /-- A CREDIT packet received updates FREED for VC1 and VC2 (R165). -/
  | credit (l : Nat) (p : Pkt)
  /-- A BEACON_ECHO received updates the cable delay and the head's TIME_LOCK state (R172). `at_`: the arrival of the comma of
  TX_BLOCK, in 2^−16 ns. -/
  | beaconEcho (l : Nat) (p : Pkt) (at_ : Int)
  /-- A CAPABILITY packet received records the head's properties (R168). -/
  | capability (l : Nat) (p : Pkt)
  /-- A TRIGGER_NAK received ends the frame's input so it closes TIMEOUT (R179). -/
  | triggerNak (l : Nat) (p : Pkt)
  /-- A SETTINGS_ACK received, with a NAK status posting SETTINGS_NAK (R182). -/
  | settingsAck (l : Nat) (p : Pkt)
  /-- A REG_COMPLETION received completes a SENSOR_REG command (R183). -/
  | regCompletion (l : Nat) (p : Pkt)
  /-- A register transaction gets no completion within HL_REG_TIMEOUT (R183). -/
  | regTimeout (l : Nat)
  /-- A FRAME_START received opens its frame's record or is discarded (R184). -/
  | frameStart (l : Nat) (p : Pkt)
  /-- A LINE packet received writes its lines into frame pages or discards them (R185). -/
  | line (l : Nat) (p : Pkt)
  /-- A FRAME_END received ends the frame's input (R187). -/
  | frameEnd (l : Nat) (p : Pkt)
  /-- No FRAME_START within ST_FS_WINDOW of T ends the frame's input as TIMEOUT (R188). -/
  | canaryFsTimeout (st : Nat)
  /-- No FRAME_END within ST_FE_WINDOW of FRAME_START ends the frame's input as TIMEOUT (R188). -/
  | canaryFeTimeout (st : Nat)
  /-- A pipeline unit takes a line from a stream buffer and conditions, measures and previews it (R196). -/
  | puLineProcess (u : Nat)
  /-- At a boundary after its input ends the frame closes, completing its record and statistics (R244). -/
  | frameClose (st : Nat)
  /-- A stream's page cache at 16 pages or fewer is refilled to 32 from the free lists (R238). -/
  | pageCacheRefill (st : Nat)
  /-- A page-out's closing read completes and the frame is marked SPILLED (R265). -/
  | spillPageOutDone (w : Nat)
  /-- A page-out write or closing read fails and the window is marked FAILED (R268). -/
  | spillFail (w : Nat)
  /-- A frame in a disabled or moved window is paged back in or abandoned (R267). `w`: window; `data`: what the host buffer
  held. -/
  | spillPageIn (w : Nat) (data : List Byte)
  /-- A corrected memory error is counted toward row repair (R271). `c`: pseudo-channel; `page`: the frame page that holds the
  row, if one does. -/
  | eccCorrected (c : Nat) (row : Nat) (page : Option Nat)
  /-- An uncorrectable error damages a frame or fails a reader and withholds the page (R273). `c`: pseudo-channel; `page`: the
  frame page that holds the row, if one does. -/
  | eccUncorrectable (c : Nat) (row : Nat) (page : Option Nat)
  /-- A withheld row holding no live frame is soft-repaired by post-package repair (R272). -/
  | rowRepair (c : Nat)
  /-- A crypto engine digests a frame page once ingest has written it or at close (R498). -/
  | pageDigest (e : Nat)
  /-- A frame's GCM tag and chain value are computed and written into its record (R502). -/
  | frameSeal (st : Nat)
  /-- A sealed frame whose predecessors are placed is appended to the segment's data stream (R297). -/
  | framePlace (r : Nat)
  /-- A full or aged chunk is written to its drive (R299). -/
  | chunkWrite (m : Nat)
  /-- Every CKPT_MS the engine writes partial chunks, a journal entry and Flushes the set (R300). -/
  | checkpoint (m : Nat)
  /-- An NVMe command completes, retried on error or releasing record holders (R293). `slot`: drive slot; `id`: the command;
  `r`: what the drive answers. -/
  | driveCommandComplete (slot : Nat) (id : Nat) (r : DrvReply)
  /-- An NVMe command not complete after MB_CMD_TIMEOUT fails the drive (R311). -/
  | driveCommandTimeout (d : Nat)
  /-- A drive link goes down while the magazine is present (R311). -/
  | driveLinkDown (d : Nat)
  /-- A drive controller reports CSTS.CFS (R311). -/
  | controllerFatalStatus (d : Nat)
  /-- Every 10 s the service core reads each drive's SMART log and acts on warnings (R291). `temp`, `pct`, `warn`: Composite
  Temperature in °C, Percentage Used, Critical Warning. -/
  | smartPoll (d : Nat) (temp : Nat) (pct : Nat) (warn : Nat)
  /-- A drive is declared FAILED and the set degrades or relays by its layout (R312). -/
  | driveFailure (d : Nat)
  /-- At the relay boundary frames exposing from then on go to the new segment (R309). -/
  | relayBoundary (r : Nat)
  /-- Once its last Write completes the old segment is closed with its closing items (R309). -/
  | segmentClose (m : Nat)
  /-- Once every frame is written the take's manifests and closing entries are written (R305). -/
  | takeClose (r : Nat)
  /-- After zeroisation and outstanding commands, an unsealed-end entry closes each open segment (R321). -/
  | unsealedEnd (m : Nat)
  /-- MBb_PRSNT# low for 100 ms starts bay bring-up and drive identification (R288). `page`: what the identity EEPROM holds. -/
  | bayInsert (b : Nat) (page : List Byte)
  /-- A slot unresolved 10 s after debounce is REJECTED with TIMEOUT (R288). -/
  | identifyTimeout (d : Nat)
  /-- MBb_PRSNT# goes high and the bay's drives are failed or abandoned (R314). -/
  | surprise (b : Nat)
  /-- MBb_EJECT# asserted releases, relays or refuses by bay state (R316). -/
  | ejectReq (b : Nat)
  /-- A CLOSING bay waits for its commands, shuts its drives down and becomes released (R310). -/
  | bayRelease (b : Nat)
  /-- A bound delivery descriptor's last write is issued and its barrier and completion are written (R429). `n`: delivery ring;
  `denied`: a write that the port's rights dropped: mover, address, parts, bytes. -/
  | delivery (n : Nat) (denied : Option (Nat × Nat × Nat × Nat))
  /-- A mover read fails, halting the mover and pausing the descriptor's ring (R439). `m`: mover; `kind`: 1 no completion in
  time, 2 Unsupported Request, 3 Completer Abort, 4 poisoned data. -/
  | moverBusError (m : Nat) (kind : Nat) (addr : Nat)
  /-- An incremental decoder changes a channel's position by one count (R451). `a`, `b`: the filtered levels of A and B. -/
  | positionCount (ch : Nat) (a : Bool) (b : Bool)
  /-- An index event references or checks the position against its expected value (R464). `z`: the filtered level of Z. -/
  | indexEvent (ch : Nat) (z : Bool)
  /-- A BiSS-C or SSI read completes and updates the position (R455). `raw`: the bits shifted in; `ack`: Ack came in time;
  `crc`: the CRC bits as sent; `nE`, `nW`: error and warning bits; `high`: the line is high at the end; `ago`: clocks since the
  first clock edge. -/
  | serialRead (ch : Nat) (raw : Nat) (ack : Bool) (crc : Nat) (nE : Bool) (nW : Bool) (high : Bool) (ago : Nat)
  /-- A sine-cosine ADC sample updates the position and amplitude check (R456). `a`, `b`: the corrected ADC samples. -/
  | sincosSample (ch : Nat) (a : Int) (b : Int)
  /-- No position change for STILL_US sets STILL and zero speed (R460). -/
  | speedStill (ch : Nat)
  /-- An echo output makes one step toward zero pending (R471). -/
  | echoStep (k : Nat)
  /-- A probe edge latches device time and two channel positions (R465). `k`: probe; `rise`: a rising edge. -/
  | probeEdge (k : Nat) (rise : Bool)
  /-- A TRIG_IN edge registers a frame or burst event (R473). `k`: pin; `rise`: a rising edge. -/
  | trigInEdge (k : Nat) (rise : Bool)
  /-- At a frame's sample point the selected channels are sampled into its record (R477). `r`: rig. -/
  | motionSample (r : Nat)
  /-- A codeword is decoded and its cells pass to the link stream or are discarded (R156). `n`: lane; `levels`: its 2,720 PAM4
  levels. -/
  | codewordReceive (n : Nat) (levels : List Nat)
  /-- The comma at a block start is checked and its variant decides what follows (R128). `levels`: the 64 symbols at the
  expected position; `snr`: the receiver's measure. -/
  | alignmentComma (n : Nat) (levels : List Nat) (snr : Nat)
  /-- Four consecutive commas missing return the receiver to SEARCH (R128). -/
  | lockLost (n : Nat)
  /-- Lock not regained within 10 ms makes the lane retrain (R128). -/
  | relockTimeout (n : Nat)
  /-- A training frame received answers or makes an FFE request and may end training (R131). `n`: lane; `w`: the frame's 48-bit
  word; `a`: what the receiver's adaptation asks for. -/
  | trainingFrame (n : Nat) (w : BitVec 48) (a : Adapt)
  /-- Training exceeding TRAIN_TIMEOUT ends with TRAIN_FAIL (R134). -/
  | trainTimeout (n : Nat)
  /-- 10 ms after a TRAIN_FAIL the lane tries training again (R134). -/
  | trainRetry (n : Nat)
  /-- A wake burst received relocks the lane or starts training (R138). -/
  | wakeBurst (n : Nat)
  /-- Eight uncorrectable codewords or 100 ns without signal fail a receive lane (R147). `noSignal`: absence of signal for 100
  ns, else 8 uncorrectable codewords. -/
  | laneFailure (n : Nat) (noSignal : Bool)
  /-- Both directions have passed block B and the swap completes (R146). `p`: head port, whose spare serves the swap. -/
  | swapDone (p : Nat)
  /-- A SWAP_PROPOSE received from the head is answered with agree or refuse (R159). -/
  | swapPropose (n : Nat) (m : LaneMsg)
  /-- A SWAP_AGREE received sets the agreement instant of a planned swap (R145). -/
  | swapAgree (n : Nat) (m : LaneMsg)
  /-- A SWAP_REFUSE received abandons a proposed swap (R159). -/
  | swapRefuse (n : Nat) (m : LaneMsg)
  /-- A SWAP_REQUEST received after a failure moves a logical lane to the spare (R147). -/
  | swapRequest (n : Nat) (m : LaneMsg)
  /-- A RESTRIPE_ACK received fixes the block at which the new lane set starts (R161). -/
  | restripeAck (n : Nat) (m : LaneMsg)
  /-- An EIDLE_ACK received lets the link enter electrical idle (R136). -/
  | eidleAck (n : Nat) (m : LaneMsg)
  /-- A LOOPBACK_ACK received confirms far-end loopback of a lane (R159). -/
  | loopbackAck (n : Nat) (m : LaneMsg)
  /-- A central lockstep pair mismatches and is halted, reloaded and replayed (R561). `u`: central unit. -/
  | lockstepMismatch (u : Nat)
  /-- A failure detected in a unit makes it FAILED (R556). `cause`: SVC_USTATE.CAUSE. -/
  | unitFailure (kind : Nat) (i : Nat) (cause : Nat)
  /-- At the first boundary after a failure the lowest SPARE enters ACTIVE (R556). -/
  | spareReplacement (kind : Nat)
  /-- A DRAINING unit holding no work enters OFFLINE (R551). -/
  | drainComplete (kind : Nat) (i : Nat)
  /-- A unit's test ends and the unit takes its new state (R554). `step`: the step that failed; `errs`: errors in it. -/
  | testComplete (kind : Nat) (i : Nat) (pass : Bool) (step : Nat) (errs : Nat)
  /-- Every ROTATE_S a tested spare is exchanged with the longest-ACTIVE unit (R559). `kind`: the class; `pass`, `test`: the
  result of the spare's test. -/
  | spareRotation (kind : Nat) (pass : Bool) (test : Nat)
  /-- Every KAT_PERIOD_S each SPARE crypto engine runs its KAT set (R513). `fails`: engines that fail, each with its test. -/
  | spareKat (fails : List (Nat × Nat))
  /-- Every 1 s up to three times the start-up test is repeated while the DRBG is blocked (R514). -/
  | entropyRetest (pass : Bool)
  /-- Every 1 ms each sensor is read and the thermal levels are updated (R569). `t`: the readings of the sensors, in 0.125 °C. -/
  | thermalSample (t : List Int)
  /-- A receiver in SEARCH finds three consecutive commas at the block or training spacing, locks and sets LOCK_GAINED (R127).
  `commas`: the three commas found. -/
  | lockGained (n : Nat) (commas : List (List Nat))
  /-- A lane's PRBS checker locks itself after 128 error-free bits and sets CHK_LOCKED (R150). `bits`: the bits received. -/
  | prbsCheckerLock (n : Nat) (bits : List Bool)
  /-- A and B of a quadrature channel change in the same motion clock, so the position holds and QUAD_ERR and SUSPECT are set
  (R452). -/
  | quadErr (ch : Nat)
  /-- In a motion clock without a position change, a valid speed above the bound for the clocks elapsed decays toward
  standstill (R460). -/
  | speedDecay (ch : Nat)
  /-- MBb_EJECT# is released, ending the eject-refused indication and the asserted EJECT status of the bay (R316). -/
  | ejectRelease (b : Nat)
  /-- A drive link finishes training, is checked against R282 and the slot's controller is enabled, or the slot is rejected for
  LINK or reads EMPTY (R288). `d`: drive slot; `gen`, `width`: the rate and width reached. -/
  | driveLinkUp (d : Nat) (gen : Nat) (width : Nat)
  /-- A drive controller reports CSTS.RDY and the service core proceeds with Identify and queue creation (R288). -/
  | controllerReady (d : Nat)
  /-- A timing port's Ethernet link comes up or goes down, changing TP_STATUS.LINK_UP and, at first link-up, testing the port
  (R87). `p`: timing port. -/
  | tpLinkState (p : Nat) (up : Bool)
  /-- A non-PTP frame reaches a timing port's MAC, which answers ARP, ICMP echo or neighbour solicitation or drops it and
  counts it in TP_RX_DROP_CNT (R87). `p`: timing port; `kind`: 0 ARP request, 1 ICMP echo request, 2 neighbour solicitation, 3
  ICMPv6 echo request, else another; `addr`: the address it asks for; `fields`: what the answer repeats. -/
  | tpMacFrame (p : Nat) (kind : Nat) (addr : Nat) (fields : List Nat)
  /-- A host port idle for 16 µs with nothing outstanding and no job in the tick enters ASPM L1 (R363). -/
  | aspmL1Entry (p : Nat)
  /-- An SPDM request over the port's DOE mailbox is answered, establishing the session authenticated by DIK in which IDE_KM
  runs (R366). `kind`: 1 ends the authenticated handshake, 2 ends the session, else another request. -/
  | spdmRequest (p : Nat) (kind : Nat)
  /-- A BAR0 read that is misaligned, denied, made during BOOT, held by a lockstep recovery or to a clock-gated block returns
  its defined value and sets ACCESS_STATUS and ACCESS_ADDR (R11). `n`: bytes. -/
  | flaggedRegisterRead (p : Nat) (off : Nat) (n : Nat)
  /-- Stewardship passes down the succession list and the pending set is discarded (R377). -/
  | shiftChange
  /-- The digest of a sealing object completes and the object becomes SEALED or stays OPEN with INTEGRITY (R537). -/
  | tobjSealDone
  /-- A woken block gates its clock again 1 µs after its last access (R592). -/
  | clockRegate
  /-- SPI service-port STATUS command that returns image and boot status (R618). -/
  | svcPortStatus
  /-- JTAG instruction for boundary-scan external test while PORST# is low (R620). -/
  | extest
  /-- JTAG instruction that selects the IDCODE register (R620). -/
  | idcode
  /-- JTAG instruction that floats outputs while PORST# is low (R620). -/
  | highz
  /-- JTAG instruction that clamps outputs while PORST# is low (R620). -/
  | clamp
  /-- IEEE 1149.6 AC test instruction while PORST# is low (R620). -/
  | extestPulse
  /-- IEEE 1149.6 AC train test instruction while PORST# is low (R620). -/
  | extestTrain
  /-- JTAG instruction that selects the bypass register (R620). -/
  | bypass
  /-- PORST# driven low resets the whole device (R33). -/
  | porstAssert
  /-- A rail below its minimum for 10 µs asserts the internal reset (R609). -/
  | supplyDrop
  /-- No image begins on the service port within 600 s and boot fails (R622). -/
  | bootImageTimeout
  /-- The firmware does not report ready within 250 ms and boot fails (R623). -/
  | firmwareReadyTimeout
  /-- A planning-tick boundary increments TICK_NUM, measures carry-over and releases the planned job set (R99). -/
  | tickBoundary
  /-- A unit drain, return or rotation takes effect at its tick boundary (R553). -/
  | unitStateBoundary
  /-- A committed set becomes active at its boundary and starts probation (R529). -/
  | commitBoundary
  /-- A commanded or automatic fallback activates PREVIOUS or FACTORY at its boundary (R542). -/
  | configFallbackBoundary
  /-- The device leaves OPERATIONAL and the rings take their bootstrap assignment (R631). -/
  | configClearBoundary
  /-- The probation count of a committed set runs out and the set passes (R540). -/
  | probationEnd
  /-- A PPS_IN rising edge is timestamped and used as a phase measurement (R77). -/
  | ppsInEdge
  /-- Three PPS_IN edges are missing or misplaced and the EXTERNAL source is lost (R52). -/
  | ppsInLost
  /-- CLK10M_IN shows no edge for 1 µs and the time unit switches to the local oscillator (R54). -/
  | clk10mLost
  /-- A REF_IN edge is timestamped and the frame timer origin is nudged toward it (R73). -/
  | refInEdge
  /-- Four LTC_IN frames missing or bad start flywheel labelling (R79). -/
  | ltcInLost
  /-- At S the step's Δ is fixed, STEP_NOTICE is sent and triggers are re-sent in the new epoch (R63). -/
  | timeStepFix
  /-- At B Δ is added to device time and frame timer origins and TIME_STEPPED is posted (R63). -/
  | timeStepApply
  /-- PPS_OUT rises at a whole second of device time (R76). -/
  | ppsOutPulse
  /-- LTC_OUT sends a generated timecode frame at its grid instant (R81). -/
  | ltcOutFrame
  /-- A frame whose Tally reached zero returns its pages and slots at the next boundary (R252). -/
  | pagesFree
  /-- The page manager starts paging an eligible frame out to a host spill window (R264). -/
  | spillPageOut
  /-- After two recovery ticks the pair resumes and queued work is applied (R561). -/
  | lockstepResume
  /-- An entropy health test failure blocks the DRBG (R514). -/
  | entropyHealthFail
  /-- 60 s after a lockout SEC_AUTH_BEGIN is accepted again (R488). -/
  | lockoutExpiry
  /-- A die sensor far above the grade maximum for 100 µs stops every clock (R571). -/
  | thermtrip
  /-- The width of a TRIG_OUT pulse from a compare unit, or of PPS_OUT, runs out and the pin falls (R469). -/
  | pulseEnd
  deriving DecidableEq, Repr

end Sys2Proof
end

