-- ==== Sys2Proof/Machine/Balls.lean ====
section
/-! DEFINITION. The ball map, and the boundary-scan chain that follows it (R23, R153, R598–R603, R620). -/

namespace Sys2Proof.Machine

/-- A ball: its row and its column, 1 to 52 (R23). -/
structure Ball where
  row : Nat
  col : Nat
  deriving DecidableEq, Repr

/-- The row letters: I, O, Q, R, S, X and Z name no row. -/
def rowLetters : List String :=
  ["A", "B", "C", "D", "E", "F", "G", "H", "J", "K"] ++ ["L", "M", "N", "P", "T", "U", "V", "W", "Y"]

/-- The name of a ball: its row letters, then its column. -/
def Ball.name (b : Ball) : String :=
  let i := b.row - 1
  (["", "A", "B"].getD (i / 19) "") ++ rowLetters.getD (i % 19) "" ++ toString b.col

/-- A signal: its name and its number among the signals of that name. Pairs of a port or a bay are numbered through the device:
lane 9p + n, bay lane 16b + n, drive 4b + d. -/
structure Sig where
  name : String
  index : Nat
  deriving DecidableEq, Repr

/-- A site of a region, by the place of its _P ball and of its _N ball (R599). -/
def siteT (s : Nat) : Ball × Ball :=
  let r := [2, 4, 6, 8, 10].getD (s / 17) 0
  (⟨r, 3 * (s % 17) + 2⟩, ⟨r, 3 * (s % 17) + 3⟩)
def siteL (s : Nat) : Ball × Ball := (⟨3 * (s % 10) + 12, 2 * (s / 10) + 2⟩, ⟨3 * (s % 10) + 13, 2 * (s / 10) + 2⟩)
def siteR (s : Nat) : Ball × Ball := (⟨3 * (s % 10) + 12, 51 - 2 * (s / 10)⟩, ⟨3 * (s % 10) + 13, 51 - 2 * (s / 10)⟩)
def siteM (s : Nat) : Ball × Ball :=
  let r := [41, 43, 45, 47, 49, 51].getD (s / 7) 0
  (⟨r, 3 * (s % 7) + 32⟩, ⟨r, 3 * (s % 7) + 33⟩)

/-- The signals of a bay block of 36 sites, from site `s0` (R600). -/
def bayBlock (site : Nat → Ball × Ball) (s0 b : Nat) : List (Sig × Ball × Ball) :=
  (List.range 16).map (fun n => (⟨"MB_RX", 16 * b + n⟩, site (s0 + n)))
    ++ (List.range 16).map (fun n => (⟨"MB_TX", 16 * b + n⟩, site (s0 + 16 + n)))
    ++ (List.range 4).map (fun d => (⟨"MB_REFCLK", 4 * b + d⟩, site (s0 + 32 + d)))

/-- The pairs of the lanes and of their reference clocks (R600). -/
def acPairs : List (Sig × Ball × Ball) :=
  (List.range 36).map (fun s => (⟨"HP_RX", s⟩, siteT s)) ++ [(⟨"SERDES_REFCLK", 0⟩, siteT 36)]
    ++ [(⟨"TP_RX", 0⟩, siteT 37), (⟨"TP_TX", 0⟩, siteT 38), (⟨"TP_RX", 1⟩, siteT 39), (⟨"TP_TX", 1⟩, siteT 40)]
    ++ (List.range 36).map (fun s => (⟨"HP_TX", s⟩, siteT (49 + s)))
    ++ (List.range 16).map (fun n => (⟨"PX_RX", n⟩, siteL n)) ++ (List.range 16).map (fun n => (⟨"PX_TX", n⟩, siteL (16 + n)))
    ++ (List.range 4).map (fun p => (⟨"PX_REFCLK", p⟩, siteL (32 + p)))
    ++ bayBlock siteL 36 0 ++ bayBlock siteR 0 1 ++ bayBlock siteR 36 2 ++ bayBlock siteM 0 3

/-- Pair position q of a row of region S (R601). -/
def siteS (row q : Nat) : Ball × Ball :=
  let c := 5 * (q / 2) + 2 * (q % 2) + 1
  (⟨row, c⟩, ⟨row, c + 1⟩)

/-- The motion and echo pairs (R601). -/
def motionPairs : List (Sig × Ball × Ball) :=
  (List.range 24).flatMap (fun c =>
      (["MCH_A", "MCH_B", "MCH_Z"].zipIdx).map (fun e => (⟨e.1, c⟩, siteS (47 + c / 4) (3 * (c % 4) + e.2))))
    ++ (List.range 16).map (fun n => (⟨if n % 2 = 0 then "ECHO_A" else "ECHO_B", n / 2⟩, siteS (45 + n / 12) (n % 12)))

/-- `n` signals of a name, from number `i` on. -/
def sigs (name : String) (i n : Nat) : List Sig := (List.range n).map (fun k => ⟨name, i + k⟩)

/-- The ten sideband signals of a bay (R602). -/
def sideband (b : Nat) : List Sig :=
  [⟨"MB_PRSNT#", b⟩, ⟨"MB_EJECT#", b⟩, ⟨"MB_LED_G", b⟩, ⟨"MB_LED_A", b⟩] ++ sigs "MB_PERST#" (4 * b) 4
    ++ [⟨"MB_SMB_SCL", b⟩, ⟨"MB_SMB_SDA", b⟩]

/-- The signals of rows BC to BF, slot by slot (R602). -/
def slotRows : List (Nat × List Sig) :=
  [(41, sigs "TRIG_OUT" 0 16 ++ sigs "TRIG_IN" 0 8 ++ [⟨"PPS_IN", 0⟩, ⟨"PPS_OUT", 0⟩, ⟨"REF_IN", 0⟩]),
   (42, sigs "PROBE" 0 8 ++ [⟨"CLK10M_IN", 0⟩, ⟨"LTC_IN", 0⟩, ⟨"LTC_OUT", 0⟩, ⟨"OSC_IN", 0⟩] ++ sigs "PX_PERST#" 0 4
     ++ sigs "PX_CLKREQ#" 0 4 ++ [⟨"PORST#", 0⟩] ++ sigs "BIFURC" 0 2 ++ [⟨"BOOT_SRC", 0⟩, ⟨"ZEROIZE#", 0⟩] ++ sigs "TAMPER" 0 2),
   (43, sideband 0 ++ sideband 1 ++ [⟨"XSPI_CLK", 0⟩, ⟨"XSPI_DQS", 0⟩, ⟨"XSPI_CS#", 0⟩, ⟨"XSPI_RESET#", 0⟩] ++ sigs "XSPI_DQ" 0 3),
   (44, sideband 2 ++ sideband 3 ++ sigs "XSPI_DQ" 3 5)]

/-- The single-ended signals with their balls: slot k of a row lies in column k + 1, k + 2 or k + 3; row BH names its columns. -/
def singles : List (Sig × Ball) :=
  slotRows.flatMap (fun e => (e.2.zipIdx).map (fun x => (x.1, ⟨e.1, x.2 + 1 + x.2 / 9⟩)))
    ++ (([⟨"SVC_SCK", 0⟩, ⟨"SVC_MOSI", 0⟩, ⟨"SVC_MISO", 0⟩, ⟨"SVC_CS#", 0⟩, ⟨"SVC_IRQ#", 0⟩, ⟨"TCK", 0⟩, ⟨"TMS", 0⟩, ⟨"TDI", 0⟩,
      ⟨"TDO", 0⟩, ⟨"TRST#", 0⟩, ⟨"THERM_ALERT#", 0⟩, ⟨"THERMTRIP#", 0⟩] : List Sig).zip
      [11, 12, 13, 14, 16, 17, 18, 19, 21, 22, 23, 24]).map (fun e => (e.1, ⟨46, e.2⟩))

/-- The supply rails, in the order of R607. -/
inductive Rail where
  | core | sram | serA | serH | hbm | hbmQ | v18 | v33
  deriving DecidableEq, Repr

/-- What a ball carries: one side of a pair, a single-ended signal, a rail, or VSS. -/
inductive BallUse where
  | pair (s : Sig) (positive : Bool)
  | single (s : Sig)
  | rail (r : Rail)
  | vss
  deriving DecidableEq, Repr

/-- The rail of a ball of region C (R603). -/
def railAt (b : Ball) : Option Rail :=
  if b.col < 17 ∨ 36 < b.col then none
  else if b.row = 11 ∨ b.row = 12 then some .serA
  else if b.row = 13 then some .serH
  else if b.row = 15 ∨ b.row = 16 then some .sram
  else if 17 ≤ b.row ∧ b.row ≤ 34 then (if b.col % 3 = 1 ∧ 19 ≤ b.col ∧ b.col ≤ 34 then none else some .core)
  else if b.row = 35 ∨ b.row = 36 then some .hbm
  else if b.row = 37 ∨ b.row = 38 then some .hbmQ
  else if b.row = 39 then some (if b.col ≤ 26 then .v18 else .v33)
  else none

/-- What a ball carries; one that no rule names is VSS (R598). -/
def ballUse (b : Ball) : BallUse :=
  match (acPairs ++ motionPairs).find? (fun e => decide (e.2.1 = b) || decide (e.2.2 = b)) with
  | some e => .pair e.1 (decide (e.2.1 = b))
  | none => match singles.find? (fun e => decide (e.2 = b)) with
    | some e => .single e.1
    | none => match railAt b with
      | some r => .rail r
      | none => .vss

/-! ### The boundary-scan chain (R620) -/

/-- A cell of the chain: its signal, the ball that places it, and whether it is an IEEE 1149.6 cell. -/
structure ScanCell where
  sig : Sig
  ball : Ball
  ac : Bool
  deriving DecidableEq, Repr

/-- The balls without a cell. -/
def jtagBalls : List String := ["TCK", "TMS", "TDI", "TDO", "TRST#"]

/-- Every cell: one for each pair, at its _P ball, and one for each single-ended ball (log 138). -/
def scanCells : List ScanCell :=
  acPairs.map (fun e => ⟨e.1, e.2.1, true⟩) ++ motionPairs.map (fun e => ⟨e.1, e.2.1, false⟩)
    ++ (singles.filter (fun e => !jtagBalls.contains e.1.name)).map (fun e => ⟨e.1, e.2, false⟩)

/-- The place of a signal's cell in the chain, 0 next to TDI: in ascending row, then column. -/
def scanPlace (x : ScanCell) : Nat :=
  (scanCells.filter (fun y => decide (y.ball.row < x.ball.row) || (decide (y.ball.row = x.ball.row) && decide (y.ball.col < x.ball.col)))).length

/-- The P3236 drives the signal. -/
def Sig.driven (s : Sig) : Bool :=
  ["HP_TX", "TP_TX", "PX_TX", "MB_TX", "MB_REFCLK", "ECHO_A", "ECHO_B", "TRIG_OUT", "PPS_OUT", "LTC_OUT", "PX_CLKREQ#"].contains s.name
    || ["MB_LED_G", "MB_LED_A", "MB_PERST#", "MB_SMB_SCL", "MB_SMB_SDA", "XSPI_CLK", "XSPI_CS#", "XSPI_RESET#", "XSPI_DQ", "XSPI_DQS"].contains s.name
    || ["SVC_MISO", "SVC_IRQ#", "THERM_ALERT#", "THERMTRIP#"].contains s.name

end Sys2Proof.Machine
end

