-- ==== Sys2Proof/Config.lean ====
section
/-! DEFINITION. What an implementation fixes and the values the spec leaves open: opaque constants, so that no
proof can lean on a value (the assumption log names each). -/

namespace Sys2Proof

/-- Grade fused at manufacture: true for the P3236-E (R4). -/
opaque Config.gradeE : Bool
/-- The 48-bit device serial fused at manufacture (R356). -/
opaque Config.serial : BitVec 48
/-- The MAC address fused for each timing port (R87). -/
opaque Config.tpMac : Nat → BitVec 48

/-- The cryptographic functions the spec names by their standards (R485–R520): SHA-384, the AES-256-GCM tag over
additional data with no plaintext, AES-256-CMAC, AES key wrap and unwrap, ECDSA over P-384 and ECDH over P-384. -/
opaque Config.sha384 : List Byte → BitVec 384
opaque Config.gcmTag (key iv aad : List Byte) : BitVec 128
opaque Config.cmac (key msg : List Byte) : BitVec 128
opaque Config.keyWrap (key data : List Byte) : List Byte
opaque Config.keyUnwrap (key data : List Byte) : Option (List Byte)
opaque Config.ecdsaVerify (pub digest sig : List Byte) : Bool
opaque Config.ecdsaSign (priv digest : List Byte) : BitVec 768
opaque Config.ecPublic (priv : List Byte) : BitVec 768
opaque Config.ecdh (priv pub : List Byte) : Option (BitVec 384)

/-- FAK's private key and the certificates of SPDM slot 0 (R490, R494): the FAK certificate, the Skovile root certificate, and the
certificate that FAK signs for a DIK public key, DER. -/
opaque Config.fak : List Byte
opaque Config.fakCert : List Byte
opaque Config.rootCert : List Byte
opaque Config.dikCert : List Byte → List Byte
/-- The firmware key hashes in fuses, and which are revoked (R490, R506). -/
opaque Config.fwKeyHash : Nat → BitVec 384
opaque Config.fwRevoked : Nat → Bool

/-- The row repairs that each pseudo-channel's repair resources allow (PC_STATUS.REPAIRS_LEFT). -/
opaque Config.pcRepairs : Nat → BitVec 16

/-- Max Read Request Size of a host port, which its root port negotiates (R355). -/
opaque Config.maxRead : Nat → Nat

/-- Values the spec leaves open, one for each count of the model's free-value counter. -/
opaque Config.freeInt : Nat → Int
opaque Config.freeBits (w : Nat) : Nat → BitVec w

/-- The fixed input delay of R450 in ns, for a filter setting (R465, R473). -/
opaque Config.inputDelayRaw : Nat → Nat
/-- The fixed input delay keeps the bound that R450 sets. -/
def Config.inputDelay (filt : Nat) : Nat := min (12 + 4 * filt) (Config.inputDelayRaw filt)

def Config.serialLo : Word := Config.serial.setWidth 32
def Config.serialHi : Word := (Config.serial >>> 32).setWidth 32
def Config.tpMacLo (p : Nat) : Word := (Config.tpMac p).setWidth 32
def Config.tpMacHi (p : Nat) : Word := ((Config.tpMac p) >>> 32).setWidth 32
def Config.devRev : Word := if Config.gradeE then 0x110 else 0x10
/-- The reset value of SVC_THERM_DIE: THROT_PCT 10 and the thresholds of the grade. -/
def Config.thermDieReset : Word := if Config.gradeE then 0x0A6E6964 else 0x0A69645F

end Sys2Proof
end

