-- ==== Sys2Proof/Machine/Bits.lean ====
section
/-! DEFINITION. Bit fields of registers (R7), little-endian byte strings (R8) and two's-complement numbers (R9). -/

namespace Sys2Proof.Machine

/-- Bits [hi:lo] of a register, as a number (R7). -/
def fld (v : Word) (hi lo : Nat) : Nat := (v.toNat >>> lo) % 2 ^ (hi + 1 - lo)

/-- Bit `b` of a register. -/
def bit (v : Word) (b : Nat) : Bool := v.getLsbD b

/-- The mask of bits [hi:lo]. -/
def maskOf (hi lo : Nat) : Word := BitVec.ofNat 32 ((2 ^ (hi + 1 - lo) - 1) <<< lo)

/-- A register with bits [hi:lo] replaced by `x` (taken modulo the field's width). -/
def setFld (v : Word) (hi lo : Nat) (x : Nat) : Word :=
  (v &&& ~~~ maskOf hi lo) ||| BitVec.ofNat 32 ((x % 2 ^ (hi + 1 - lo)) <<< lo)

/-- A register with bit `b` set or cleared. -/
def setBit (v : Word) (b : Nat) (x : Bool) : Word := setFld v b b (if x then 1 else 0)

/-- The register with exactly the bits of a list set. -/
def bitsOf (l : List Nat) : Word := l.foldl (fun w b => w ||| BitVec.ofNat 32 (2 ^ b)) 0

/-- 0 or 1. -/
def b2n (b : Bool) : Nat := if b then 1 else 0

/-- `n` little-endian bytes of a number (R8). -/
def leBytes : Nat → Nat → List Byte
  | 0, _ => []
  | n + 1, x => BitVec.ofNat 8 x :: leBytes n (x / 256)

/-- The number that little-endian bytes spell (R8). -/
def leNat : List Byte → Nat
  | [] => 0
  | b :: t => b.toNat + 256 * leNat t

/-- The number that big-endian bytes spell. -/
def beNat (l : List Byte) : Nat := leNat l.reverse

/-- `n` big-endian bytes of a number. -/
def beBytes (n x : Nat) : List Byte := (leBytes n x).reverse

/-- Bytes `off` to `off + n - 1` of a byte string; bytes past its end read 0. -/
def sliceBytes (l : List Byte) (off n : Nat) : List Byte :=
  let t := (l.drop off).take n
  t ++ List.replicate (n - t.length) 0

/-- The little-endian number in bytes `off` to `off + n - 1` of a byte string. -/
def leAt (l : List Byte) (off n : Nat) : Nat := leNat ((l.drop off).take n)

/-- Replace the bytes from `off` on by `x`. -/
def patchBytes (l : List Byte) (off : Nat) (x : List Byte) : List Byte :=
  l.take off ++ x ++ l.drop (off + x.length)

/-- The two's-complement number that `w` bits hold (R9). -/
def toSigned (w n : Nat) : Int :=
  let m := n % 2 ^ w
  if 2 * m < 2 ^ w then (m : Int) else (m : Int) - (2 ^ w : Nat)

/-- The `w`-bit two's-complement encoding of an integer (R9). -/
def ofSigned (w : Nat) (x : Int) : Nat := (x % ((2 ^ w : Nat) : Int)).toNat

/-- Limit an integer to a range. -/
def clampInt (lo hi x : Int) : Int := if x < lo then lo else if hi < x then hi else x

/-- A saturating sum: a counter that stops at `top`. -/
def satAdd (top a n : Nat) : Nat := min top (a + n)

/-- Ceiling division. -/
def ceilDiv (a b : Nat) : Nat := if b = 0 then 0 else (a + b - 1) / b

/-- Round up to a multiple of `b`. -/
def roundUp (a b : Nat) : Nat := ceilDiv a b * b

/-- The number of set bits among the first `n`. -/
def popCount (v n : Nat) : Nat := ((List.range n).filter (fun i => v.testBit i)).length

/-- The set bits among the first `n`, in rising order. -/
def setBits (v n : Nat) : List Nat := (List.range n).filter (fun i => v.testBit i)

/-- SHA-384 of a byte string, first byte of the digest first. -/
def sha384 (l : List Byte) : List Byte := beBytes 48 (Config.sha384 l).toNat

/-- Lay fields (offset, bytes) over `n` zero bytes. -/
def layout (n : Nat) (fs : List (Nat × List Byte)) : List Byte :=
  fs.foldl (fun l f => patchBytes l f.1 f.2) (List.replicate n 0)

end Sys2Proof.Machine
end

