-- ==== Sys2Proof/Machine/StCore.lean ====
section
/-! DEFINITION. The state types of the device as a whole: modes, rings, host ports, configuration sets, and the
boundary queue (chapters The P3236 at work; Rings, commands and events; Host ports; Configuration sets). -/

namespace Sys2Proof.Machine

/-- The device mode (R32). -/
inductive DevMode where
  | boot | provision | standby | operational | zeroized
  deriving DecidableEq, Repr

/-- The encoding of R32. -/
def DevMode.code : DevMode → Nat
  | .boot => 0 | .provision => 1 | .standby => 2 | .operational => 3 | .zeroized => 4

/-- The rig mode (R37). -/
inductive RigMode where
  | idle | live | armed | record | burst | offload | calibrate
  deriving DecidableEq, Repr

/-- The encoding of R37. -/
def RigMode.code : RigMode → Nat
  | .idle => 0 | .live => 1 | .armed => 2 | .record => 3 | .burst => 4 | .offload => 5 | .calibrate => 6

/-- A ring's state (RING_STATUS.STATE and CAUSE); HELD is computed from its EVT ring (R398). -/
inductive RingState where
  | disabled | running | pausedBus | pausedEvt
  deriving DecidableEq, Repr

/-- A security role of a ring (R485). -/
inductive Role where
  | co | operator
  deriving DecidableEq, Repr

/-- An event record without its flags byte (R414): payload holds bytes 16 to 30. -/
structure Rec where
  etype : Nat
  status : Nat := 0
  tag : Nat := 0
  source : Nat := 0
  tick : Nat := 0
  payload : List Byte := []
  deriving DecidableEq, Repr

/-- A completion waiting in ring staging (R392, R398): the ring that made it, whether its IRQ flag is set, and whether a rule names
its tick (R39, R61, R323) rather than R408. -/
structure Staged where
  ring : Nat
  record : Rec
  irq : Bool
  named : Bool := false
  deriving DecidableEq, Repr

/-- What a ring holds beside its configuration registers (R389–R398, R487). -/
structure RingSt where
  state : RingState := .disabled
  /-- RING_DEV_CNT (R394). -/
  dev : BitVec 32 := 0
  /-- RING_DB_CNT (R395). -/
  db : BitVec 32 := 0
  /-- The base taken when ENABLE changed from 0 to 1 (R389). -/
  base : Nat := 0
  /-- The EVT ring named at that moment, which takes the ring's completions (R390, R391). -/
  evt : Nat := 0
  /-- Descriptors taken and not completed (R404, RING_STATUS.OUTSTANDING). -/
  outstanding : Nat := 0
  /-- A taken BARRIER descriptor has not completed (R404). -/
  barrier : Bool := false
  /-- The next record carries LOST (R398). -/
  lost : Bool := false
  /-- EVT ring: records waiting in staging, oldest first. -/
  staged : List Staged := []
  /-- The ring's role authorisation (R486, R487). -/
  role : Option Role := none
  /-- A RING_ABORT waits for completions before the ring enters DISABLED (R391). -/
  aborting : Bool := false
  /-- How often the ring has been disabled under R393: tickets of an earlier life write no record. -/
  gen : Nat := 0
  deriving DecidableEq, Repr

/-- What a completion needs of its descriptor (R407). -/
structure Ticket where
  ring : Nat
  tag : Nat
  target : Nat
  opcode : Nat
  irq : Bool
  barrier : Bool
  gen : Nat := 0
  deriving DecidableEq, Repr

/-- One selective IDE stream of a host port (R366). -/
structure IdeStream where
  secure : Bool := false
  /-- The address association range, inclusive. -/
  lo : Nat := 0
  hi : Nat := 0
  /-- The key set established by IDE_KM; key material. -/
  key : Nat := 0
  deriving DecidableEq, Repr

/-- What a host port holds beside its registers (R361–R367, R375, R580, R590, R591). -/
structure PortSt where
  /-- Service clock of the last heartbeat, if any since reset (R375). -/
  beatAt : Option Nat := none
  /-- Memory decoding is enabled; cleared in D3hot (R362). -/
  d3hot : Bool := false
  /-- PX_PERST# is low (R605). -/
  perst : Bool := true
  /-- In ASPM L1 (R363). -/
  l1 : Bool := false
  msixOn : Bool := false
  /-- The MSI-X function mask (R364). -/
  funcMask : Bool := false
  /-- Vectors whose own mask is clear; every vector is masked at reset as PCIe gives. -/
  unmasked : List Nat := []
  /-- The pending bit array (R364). -/
  pba : List Nat := []
  /-- Device Control: Enable No Snoop, Enable Relaxed Ordering (R379, R382). -/
  noSnoop : Bool := false
  relaxed : Bool := false
  /-- Max Payload Size in bytes (R355); 128 at reset, as PCIe gives. -/
  mps : Nat := 128
  ide : List IdeStream := []
  /-- An SPDM session authenticated by DIK is up (R366). -/
  spdm : Bool := false
  /-- Received TLPs that failed their IDE check, reported through AER (R367). -/
  aerIde : Nat := 0
  /-- The port's ACCESS_STATUS and ACCESS_ADDR (R580, R581). -/
  accStatus : Word := 0
  accAddr : Word := 0
  /-- Upper halves captured by reads of name_LO, by the BAR0 offset of name_LO (R590). -/
  snapHi : Tab Word := []
  /-- Lower halves written to name_LO and held, by the BAR0 offset of name_LO (R590). -/
  heldLo : Tab Word := []
  /-- Registers of the captured groups, by BAR0 offset (R591). -/
  cap : Tab (Option Word) := []
  deriving DecidableEq, Repr

/-- A configuration set: the RW fields that differ from FACTORY, by BAR0 offset (R523, R525). -/
abbrev RegSet := Tab Word

/-- A set in a slot, with its version and whether it passed probation. -/
structure Slot where
  regs : RegSet := []
  version : Nat := 0
  passed : Bool := false
  /-- The set came from a fallback. -/
  fallback : Bool := false
  deriving DecidableEq, Repr

/-- The configuration-set state (R525, R526, R540–R543). -/
structure CfgState where
  pending : RegSet := []
  active : Option Slot := none
  previous : Option Slot := none
  /-- Highest version issued since PORST# release (R526). -/
  lastVersion : Nat := 0
  /-- Ticks of probation remaining; none when no set is on probation. -/
  probation : Option Nat := none
  failedVersion : Nat := 0
  /-- CFG_FB_CAUSE (R548). -/
  fbCause : Nat := 0
  /-- What a health failure has replaced: the pending set, the probation, CFG_FAILED_VER and CFG_FB_CAUSE, kept while the failure
  can still be discarded (R544). -/
  undo : Option (RegSet × Option Nat × Nat × Nat) := none
  deriving DecidableEq, Repr

/-- How a rig-mode change came about (R38, R415 byte 18). -/
inductive RigCause where
  | command (opcode : Nat)
  | trigger
  | countReached
  | drained
  | takeEnd (reason : Nat)
  | left
  deriving DecidableEq, Repr

/-- A change that waits for its boundary (R39, R41, R529, R542, R543, R631). -/
inductive BoundKind where
  /-- A rig-mode change to a mode, with the parameters the command gave. -/
  | rig (rig : Nat) (cause : RigCause) (dest : RigMode) (pre post take list : Nat)
  | commit (regs : RegSet)
  /-- A fallback to PREVIOUS (false) or FACTORY (true); commanded, or for the failing bit of R541. -/
  | fallback (factory : Bool) (commanded : Bool) (cause : Nat)
  | clear
  deriving DecidableEq, Repr

/-- One entry of the boundary queue: the tick it takes effect at, and whose completion it owes. -/
structure Bound where
  tick : Nat
  ticket : Option Ticket
  kind : BoundKind
  deriving DecidableEq, Repr

/-- A rig's mode record (R37, R582). -/
structure RigSt where
  mode : RigMode := .idle
  prev : RigMode := .idle
  cause : Nat := 0
  changes : Nat := 0
  /-- The take or burst it holds, and the mode to return to at its end (R38, R40). -/
  back : RigMode := .live
  deriving DecidableEq, Repr

/-- The device-wide state: mode, stewardship and the boundary queue. -/
structure DevState where
  mode : DevMode := .boot
  prevMode : DevMode := .boot
  cause : Nat := 0
  changes : Nat := 0
  rigs : Tab RigSt := []
  steward : Option Nat := none
  shiftCnt : Nat := 0
  /-- The cause of a shift change that has not happened yet (R376, R415 byte 18). -/
  shift : Option Nat := none
  /-- Rig-mode changes, commits and fallbacks waiting, in the order of R41. -/
  bound : List Bound := []
  deriving DecidableEq, Repr

end Sys2Proof.Machine
end

