-- ==== Sys2Proof/Machine/StLane.lean ====
section
/-! DEFINITION. The state of the lanes and head links, and what crosses them (chapters Head Link lanes; Head Link
protocol and ingest). -/

namespace Sys2Proof.Machine

/-- LANE_STATUS.LSTATE. -/
inductive LaneMode where
  | off | training | search | locked | eidle | wake | spareRun | loopback | prbsTest | failed
  deriving DecidableEq, Repr

def LaneMode.code : LaneMode → Nat
  | .off => 0 | .training => 1 | .search => 2 | .locked => 3 | .eidle => 4 | .wake => 5 | .spareRun => 6
  | .loopback => 7 | .prbsTest => 8 | .failed => 9

/-- The four taps of a transmit FFE, in steps of 1/64 (R132). -/
structure Ffe where
  m2 : Int := 0
  m1 : Int := -6
  c0 : Int := 58
  p1 : Int := 0
  deriving DecidableEq, Repr

/-- A training control word (R131). -/
structure Control where
  rxReady : Bool := false
  precodeReq : Bool := false
  precodeOn : Bool := false
  rate : Nat := 2
  linkTag : Nat := 0
  logical : Nat := 15
  reqCmd : Nat := 0
  reqTap : Nat := 0
  reqPreset : Nat := 0
  reqSeq : Nat := 0
  rspSeq : Nat := 0
  rspTap : Nat := 0
  rspStatus : Nat := 0
  deriving DecidableEq, Repr

/-- The comma variants (R126). -/
inductive Comma where
  | normal | swap | idle
  deriving DecidableEq, Repr

/-- What a lane's transmitter sends from now on, or once (R116, R130, R136, R137, R143, R145). -/
inductive LaneTx where
  /-- Training frames with a control word: this many, or without end for 0. -/
  | training (c : Control) (count : Nat := 0)
  /-- From a block on, the SWAP comma and the lane's codewords on both lanes, then on the spare alone (R145); or, after
  a failure, on the spare alone (R147). -/
  | takeOver (logical block : Nat) (bridge : Bool)
  | wakeBurst
  | comma (v : Comma)
  /-- Codewords of a logical lane, with a seed (R122, R123). -/
  | data (logical : Nat)
  | spareBlocks
  | electricalIdle
  | pattern (pat : Nat)
  | loop (far : Bool)
  | off
  /-- Error injection of a kind at a point (R151). -/
  | inject (kind point len exp : Nat)
  | injectStop
  deriving DecidableEq, Repr

/-- A planned or failure swap in progress on a port (R144–R148). -/
structure Swap where
  /-- The lane swapped, within the device; the spare lane; the logical lane. -/
  lane : Nat
  spare : Nat
  logical : Nat
  /-- A swap after a failure: no bridge is sent (R147). -/
  failure : Bool := false
  /-- Transmit block B of each direction, once agreed; blocks count from the lane's training. -/
  txBlock : Option Nat := none
  rxBlock : Option Nat := none
  txDone : Bool := false
  rxDone : Bool := false
  /-- The receiver of lane a failed in the bridge, or the spare lost lock in it (R148). -/
  laneFailed : Bool := false
  spareLost : Bool := false
  /-- The clock at which this end proposed it (R148). -/
  at_ : Nat := 0
  /-- In block B: the codeword of the block that one of the two lanes could not decode (R145). -/
  bad : Option Nat := none
  /-- The command that asked for it. -/
  ticket : Option Ticket := none
  deriving DecidableEq, Repr

/-- An error injection in progress (R151). -/
structure Inject where
  kind : Nat
  point : Nat
  len : Nat
  exp : Nat
  deriving DecidableEq, Repr

/-- A lane (R115–R155). -/
structure LaneSt where
  mode : LaneMode := .off
  trainTemp : Int := 0
  link : Option Nat := none
  /-- Logical lane within the link, 15 for a spare or an unassigned lane. -/
  logical : Nat := 15
  spare : Bool := false
  spareReady : Bool := false
  rxPre : Bool := false
  txPre : Bool := false
  marginLow : Bool := false
  deskewOk : Bool := false
  /-- Arrival of the latest comma in units of 2^−48 ns, for deskew (R129). -/
  commaAt : Option Nat := none
  ffe : Ffe := {}
  far : Ffe := {}
  /-- In training: clock of its start, and the counts of R134. -/
  trainAt : Nat := 0
  farReady : Nat := 0
  mismatch : Nat := 0
  /-- The receiver of this lane has finished adapting. -/
  ready : Bool := false
  /-- Frames with RX_READY = 1 that the head still sends before its data (R134). -/
  tail : Option Nat := none
  fails : Nat := 0
  failAt : Option Nat := none
  /-- This receiver's request, and whether it waits for its answer (R133). -/
  reqSeq : Nat := 0
  reqWait : Bool := false
  reqTap : Nat := 0
  reqCmd : Nat := 0
  reqPreset : Nat := 0
  /-- The last request of the head applied here. -/
  rspSeq : Nat := 0
  rspTap : Nat := 0
  rspStatus : Nat := 0
  /-- Training was entered from data mode. -/
  wasData : Bool := false
  retrainReq : Bool := false
  /-- Commas missing in a row, and matches in a row in SEARCH (R127, R128). -/
  commaMiss : Nat := 0
  match_ : Nat := 0
  lockLostAt : Option Nat := none
  /-- Descrambler and precoder state, the seed index, and the codeword within the block (R118, R122). -/
  scr : BitVec 31 := 0
  prevP : Nat := 0
  cw : Nat := 0
  rxBlock : Nat := 0
  txBlock : Nat := 0
  /-- The comma variant that opened the present block. -/
  variant : Comma := .normal
  /-- Consecutive uncorrectable codewords (R147), and codewords being lost in a failure. -/
  uncorr : Nat := 0
  losing : Bool := false
  snrLow : Nat := 0
  snrHigh : Nat := 0
  /-- Bits and errors of the spare run within the last 1 s window, and the clock at which it began (R143). -/
  spareBits : Nat := 0
  spareErrs : Nat := 0
  spareAt : Nat := 0
  /-- The error ratio of the window before this one was within the limit (R143). -/
  spareKept : Bool := false
  /-- The clock of the head's IDLE comma, and of this transmitter's own (R136, R137). -/
  idleAt : Nat := 0
  txIdleAt : Option Nat := none
  /-- Freed by a swap, it has yet to become SPARE_READY in the spare role (R146). -/
  freed : Bool := false
  /-- The last bits of the PRBS checker, newest first. -/
  prbs : List Bool := []
  inject : Option Inject := none
  drained : Bool := false
  deriving DecidableEq, Repr

/-- HL_STATUS.LSTATE. -/
inductive LinkMode where
  | down | training | capability | up | eidle | restriped
  deriving DecidableEq, Repr

def LinkMode.code : LinkMode → Nat
  | .down => 0 | .training => 1 | .capability => 2 | .up => 3 | .eidle => 4 | .restriped => 5

/-- The head's properties from CAPABILITY (R168). -/
structure Cap where
  vendor : Nat := 0
  model : Nat := 0
  serial : Nat := 0
  version : Nat := 0
  k : Nat := 0
  streams : Nat := 0
  depths : Nat := 0
  minLead : Nat := 0
  immLatency : Nat := 0
  vc1Limit : Nat := 0
  queue : Nat := 0
  features : Nat := 0
  linePeriods : List Nat := []
  deriving DecidableEq, Repr

/-- A beacon sent: its block and the two comma departures in units of 2^−16 ns (R171, R173). -/
structure Beacon where
  block : Nat
  next : Int
  after : Int
  deriving DecidableEq, Repr

/-- A register transaction outstanding on a link (R183). -/
structure Txn where
  txn : Nat
  ticket : Ticket
  isRead : Bool
  words : Nat
  /-- Where read data go in the issuer's memory. -/
  data : Nat
  at_ : Nat
  deriving DecidableEq, Repr

/-- A settings packet waiting for its tick S(F), or sent (R180, R181). -/
structure Settings where
  stream : Nat
  /-- The rig's run, the target frame and the frame that SETTINGS_POST named. -/
  run : Nat
  frame : Nat
  posted : Nat
  tag : Nat
  entries : List Byte
  sendTick : Nat
  slipped : Bool := false
  deriving DecidableEq, Repr

/-- A head link (R156–R193). -/
structure LinkSt where
  mode : LinkMode := .down
  /-- Logical lanes of the link stream (R157, R161). -/
  mask : Nat := 0
  cap : Option Cap := none
  /-- The last CAPABILITY received, which a link start does not clear (R91, R193). -/
  capLast : Option Cap := none
  timeLock : Bool := false
  /-- Cells sent and freed of VC1, and the head's limit; none before the first CREDIT (R165). -/
  sent1 : Nat := 0
  headFreed1 : Option Nat := none
  burst1 : Bool := false
  /-- VC1 packets that wait for credit, oldest first (R165). -/
  wait1 : List Pkt := []
  /-- Cells sent on VC0 (R162). -/
  sent0 : Nat := 0
  /-- FREED of this receiver and the expected VC_POS, by VC (R165). -/
  freed1 : Nat := 0
  freed2 : Nat := 0
  pos0 : Nat := 0
  pos1 : Nat := 0
  pos2 : Nat := 0
  creditAt : Nat := 0
  creditDue : Bool := false
  /-- Expected CW_SEQ, and whether cells are discarded up to the next FIRST_SOP (R158). -/
  cwSeq : Nat := 0
  resync : Bool := true
  /-- Cells of the packet being received, and packets received and not yet handled. -/
  cells : List (List Byte) := []
  rx : List Pkt := []
  /-- Lane-management messages received and not yet handled. -/
  mrx : List LaneMsg := []
  /-- The transmit block of logical lane 0, the beacons sent, and the last 16 delays (R171, R172). -/
  block : Nat := 0
  beaconBlock : Option Nat := none
  beacons : List Beacon := []
  delays : List Int := []
  delay : Int := 0
  delayValid : Bool := false
  txns : List Txn := []
  nextTxn : Nat := 0
  settings : List Settings := []
  /-- Settings packets sent since the link came UP, oldest first. -/
  sentSettings : List Settings := []
  /-- Lane-management sequence numbers, ours and the last one handled. -/
  msgSeq : Nat := 0
  lastSeq : Option Nat := none
  /-- A RESTRIPE that waits for its answer, and the block at which its set starts (R161). -/
  restripe : Option Nat := none
  restripeBlock : Option Nat := none
  /-- A set agreed for the receive direction: the clock of RESTRIPE_ACK and the set (R161). -/
  restripeGo : Option (Nat × Nat) := none
  /-- Codewords that came before their turn in the link stream: CW_SEQ, and the message unless it is lost (R129, R157). -/
  early : List (Nat × Option (List Bool)) := []
  /-- FREED of VC1 and VC2 in the last CREDIT sent (R165, R166). -/
  credited : Option (Nat × Nat) := none
  eidleReq : Bool := false
  /-- A VC2 packet was discarded since the open frames' inputs opened (R188). -/
  vc2Loss : Nat := 0
  deriving DecidableEq, Repr

/-- The lanes, head ports and head links. -/
structure LinkState where
  lanes : Tab LaneSt := []
  links : Tab LinkSt := []
  /-- HDP_STATUS.SPARE_NOW by port, 15 for none (R146). -/
  spareNow : Tab Nat := []
  /-- The swap in progress, by head port. -/
  swaps : Tab (Option Swap) := []
  deriving DecidableEq, Repr

end Sys2Proof.Machine
end

