-- ==== Sys2Proof/Machine/StOut.lean ====
section
/-! DEFINITION. What the device emits: host writes, messages, packets, drive commands and pins, oldest first. -/

namespace Sys2Proof.Machine

/-- The NVMe commands the device issues (R292). -/
inductive DrvOp where
  | identify | logPage | createQueues | deleteQueues | format | sanitize
  | write (fua : Bool)
  | read | flush | writeZeroes
  /-- The normal shutdown notification, and a controller reset. -/
  | shutdown | reset
  deriving DecidableEq, Repr

/-- The outputs of the device. -/
inductive Out where
  /-- The completion of a register read on a host port. -/
  | readData (port : Nat) (value : Word)
  /-- A memory write into a host's memory, with its No Snoop and Relaxed Ordering attributes (R379, R382). -/
  | hostWrite (port addr : Nat) (data : List Byte) (noSnoop relaxed : Bool)
  /-- A memory read from a host's memory that a spill, a page-in or a mover issues. -/
  | hostRead (port addr len : Nat)
  /-- A mover copies bytes of a host's memory to a host's memory through the device (R266). -/
  | hostCopy (fromPort src toPort dst len : Nat)
  /-- An MSI-X message (R364). -/
  | msix (port vector : Nat)
  /-- The answer to an SPDM request over the DOE mailbox: its kind, and whether it was accepted (R366). -/
  | spdm (port kind : Nat) (accepted : Bool)
  /-- A packet to a head (R163). -/
  | head (link : Nat) (p : Pkt)
  /-- A lane-management message on a lane, in 4 consecutive codewords of it (R159). -/
  | mgmt (lane : Nat) (m : LaneMsg)
  /-- What a lane's transmitter does. -/
  | lane (lane : Nat) (t : LaneTx)
  /-- An Ethernet frame on a timing port, by kind: 0 Delay_Req, 1 Pdelay_Req, 2 Pdelay_Resp, 3 ARP reply,
  4 ICMP echo reply, 5 neighbour advertisement, 6 ICMPv6 echo reply; with its fields. -/
  | eth (tp kind : Nat) (fields : List Nat)
  /-- An NVMe command to a drive slot: queue (0 is the admin queue), command, first block, blocks, data. -/
  | drive (slot queue : Nat) (op : DrvOp) (lba blocks : Nat) (data : List Byte)
  /-- A level change of a pin. -/
  | pin (name : String) (index : Nat) (high : Bool)
  /-- Bytes on SVC_MISO (R618), and what a JTAG data register shifts out (R620). -/
  | spi (data : List Byte)
  | tdo (width value : Nat)
  /-- An LTC frame on LTC_OUT (R81). -/
  | ltc (hours minutes seconds frames : Nat) (drop : Bool)
  deriving DecidableEq, Repr

end Sys2Proof.Machine
end

