-- ==== Sys2Proof/Machine/StMag.lean ====
section
/-! DEFINITION. The state of the magazine engine: bays, drives, sets, segments, relays and drive commands (chapters
Recording to magazines; Parura Magazine Format). -/

namespace Sys2Proof.Machine

/-- BAY_STATUS.BSTATE. -/
inductive BayMode where
  | empty | inserting | identify | ready | inUse | closing | failed | rejected
  deriving DecidableEq, Repr

def BayMode.code : BayMode → Nat
  | .empty => 0 | .inserting => 1 | .identify => 2 | .ready => 3 | .inUse => 4 | .closing => 5 | .failed => 6
  | .rejected => 7

/-- MBS_STATUS.SSTATE. -/
inductive SlotMode where
  | empty | link | identify | ready | inUse | failed | rejected
  deriving DecidableEq, Repr

def SlotMode.code : SlotMode → Nat
  | .empty => 0 | .link => 1 | .identify => 2 | .ready => 3 | .inUse => 4 | .failed => 5 | .rejected => 6

/-- A valid superblock (R332), by its fields. -/
structure Super where
  prot : Nat := 0
  mask : Nat := 0
  magId : Nat := 0
  uuid : Nat := 0
  partner : Nat := 0
  slot : Nat := 0
  side : Nat := 0
  setClaims : Nat := 0
  driveClaims : Nat := 0
  /-- Serial numbers of MEMBERS as (side, slot, serial). -/
  members : List (Nat × Nat × Nat) := []
  deriving DecidableEq, Repr

/-- What the journal and directory of a drive show at identification: entries used, directory slots taken, the next free
claim, and a segment left open (R289, R340, R343, R346). -/
structure MediaInfo where
  journal : Nat := 0
  dirs : Nat := 0
  nextClaim : Nat := 0
  openSegs : Nat := 0
  deriving DecidableEq, Repr

/-- The valid part of an identity page (R329). -/
structure IdPage where
  slots : Nat := 0
  magId : Nat := 0
  rates : List Nat := []
  deriving DecidableEq, Repr

structure BaySt where
  mode : BayMode := .empty
  /-- MBb_PRSNT# is low, since which clock; and the debounced state. -/
  pin : Bool := false
  pinAt : Nat := 0
  present : Bool := false
  eject : Bool := false
  /-- The clock of t0 (R288). -/
  t0 : Nat := 0
  released : Bool := false
  content : Nat := 0
  breason : Nat := 0
  idPage : Option IdPage := none
  /-- The bytes that the identity EEPROM of the present magazine holds. -/
  page : List Byte := []
  set : Option Nat := none
  refused : Bool := false
  /-- A release is due once the bay's segment is closed, and the command that asked for it (R309, R316). -/
  releaseDue : Bool := false
  ticket : Option Ticket := none
  closingAt : Nat := 0
  deriving DecidableEq, Repr

structure DriveSt where
  mode : SlotMode := .empty
  reason : Nat := 0
  width : Nat := 0
  gen : Nat := 0
  /-- An enabled volatile write cache: every Write carries FUA (R293). -/
  fua : Bool := false
  serial : Nat := 0
  super : Option Super := none
  media : MediaInfo := {}
  /-- The chunk queue to use next, 1 to 3 (R293). -/
  queue : Nat := 1
  /-- The critical warning byte of the latest SMART log. -/
  warn : Nat := 0
  /-- Failed or returned during the take, and not rejoined (R314). -/
  outOfSet : Bool := false
  /-- Declared FAILED, and the effect on its set (R312) is still to come. -/
  failDue : Bool := false
  deriving DecidableEq, Repr

/-- What a drive command is for. -/
inductive DrvKind where
  | identify | superblock
  /-- A Write of a segment's stream blocks, from and up to a position. -/
  | data (seg lo hi : Nat)
  /-- Journal, directory or Flush of a segment. -/
  | meta_ (seg : Nat)
  | release
  | smart
  | job (job : Nat)
  deriving DecidableEq, Repr

/-- A command outstanding on a drive (R292–R294). -/
structure DrvCmd where
  id : Nat
  slot : Nat
  kind : DrvKind
  op : DrvOp
  lba : Nat := 0
  blocks : Nat := 0
  queue : Nat := 4
  data : List Byte := []
  at_ : Nat := 0
  retried : Bool := false
  deriving DecidableEq, Repr

/-- A frame of a segment: stream position and blocks, frame and stream number, and index flags (R336). -/
structure Placed where
  id : Nat
  frame : Nat
  stream : Nat
  pos : Nat
  blocks : Nat
  flags : Nat
  chain : List Byte
  deriving DecidableEq, Repr

/-- A segment that is open or being closed (R297, R304). -/
structure Seg where
  id : Nat
  take : Nat
  rig : Nat
  number : Nat
  set : Nat
  offload : Bool := false
  /-- It takes frames from this number on, and below this one once a relay bounds it. -/
  from_ : Nat := 0
  below : Option Nat := none
  /-- SET_UUID of its set, and of the sets before and after it in the take. -/
  uuid : Nat := 0
  prevSet : Nat := 0
  nextSet : Nat := 0
  opened : Bool := false
  openTime : Nat := 0
  firstClaim : Nat := 0
  dirSlot : Nat := 0
  /-- Stream position of the next item, position up to which Writes were issued, the bytes between them, and in PARITY the
  bytes of the present row before `written`. -/
  pos : Nat := 0
  written : Nat := 0
  tail : List Byte := []
  row : List Byte := []
  /-- Stream, first block and end of the frame items whose Writes are not yet work for the planner. -/
  unasked : List (Nat × Nat × Nat) := []
  /-- The tick since which the present chunk holds data. -/
  ageTick : Nat := 0
  placed : List Placed := []
  sinceIndex : List Placed := []
  indexNo : Nat := 0
  lastIndex : Option Nat := none
  /-- By stream of the take, before the segment: last frame + 1 and its chain value (R341, R504). -/
  lastIn : Tab Nat := []
  chainIn : Tab (List Byte) := []
  /-- Checkpoint in progress: 0 none, 1 data, 2 entry, 3 Flush; its position; when the latest began (R300). -/
  ckpt : Nat := 0
  ckptTo : Nat := 0
  ckptTick : Nat := 0
  ckptPos : Nat := 0
  /-- END_KIND once it ends, END_FRAME and END_STREAM, and how far the end has come: 1 last data, 2 checkpoint entry,
  3 Flush, 4 manifests, 5 close entry, 6 Flush, 7 waits for the boundary of tick `endTick`, 8 ended. -/
  endKind : Nat := 0
  endFrame : Nat := 0
  endStream : Nat := 0xFF
  stage : Nat := 0
  endTick : Nat := 0
  last : Bool := false
  manPos : Option Nat := none
  takePos : Option Nat := none
  manDigest : List Byte := []
  deriving DecidableEq, Repr

structure SetSt where
  /-- The rig of the take that uses the set. -/
  rig : Option Nat := none
  degraded : Bool := false
  /-- MSET_CTRL as it stood when the take began to use the set: a set in use keeps it though no set is active (R321, R533). -/
  ctrl : Option Word := none
  deriving DecidableEq, Repr

/-- A planned relay pending on a take (R309, R317). -/
structure Relay where
  reason : Nat
  set : Nat
  entry : Nat
  /-- The tick of B, and whom a MAG_RELAY owes its completion. -/
  tick : Nat
  ticket : Option Ticket := none
  deriving DecidableEq, Repr

/-- An emergency relay that waits for its reservation's first jobs: E, set, entry, reason, tick (R313). -/
structure Emerg where
  frame : Nat
  set : Nat
  entry : Nat
  reason : Nat
  tick : Nat
  oldSet : Nat := 0xF
  ticket : Option Ticket := none
  deriving DecidableEq, Repr

/-- What the magazine engine holds for a take. -/
structure RecSt where
  rig : Nat := 0
  /-- The current set and the list entry it was taken from; an offload's first set is from no entry. -/
  set : Option Nat := none
  entry : Option Nat := none
  seg : Option Nat := none
  nextSeg : Nat := 0
  segFirst : Nat := 0
  /-- The tick from which the recording counts its checkpoints. -/
  tick0 : Nat := 0
  lastWritten : Nat := 0
  offload : Bool := false
  relay : Option Relay := none
  emerg : Option Emerg := none
  /-- RELAY_FAILED of reason FULL was posted in this segment. -/
  fullPosted : Bool := false
  /-- Device time in ns of the last backlog relay. -/
  backlogAt : Option Nat := none
  /-- Frames from this number on are given up (R313). -/
  gaveUp : Option Nat := none
  closed : Bool := false
  deriving DecidableEq, Repr

/-- A magazine command in execution: opcode, TARGET index, its ticket and progress. -/
structure MagJob where
  id : Nat
  opcode : Nat
  target : Nat
  ticket : Ticket
  stage : Nat := 0
  slot : Nat := 0
  lba : Nat := 0
  blocks : Nat := 0
  addr : Nat := 0
  done : Nat := 0
  uuid : Nat := 0
  /-- A run read from the drive that waits for its grant (MAG_READ). -/
  data : List Byte := []
  /-- Segments repaired (MAG_REPAIR). -/
  segs : Nat := 0
  /-- A command of it failed. -/
  failed : Bool := false
  count : Nat := 0
  deriving DecidableEq, Repr

structure MagState where
  bays : Tab BaySt := []
  drives : Tab DriveSt := []
  sets : Tab SetSt := []
  segs : List Seg := []
  nextSeg : Nat := 0
  /-- By take. -/
  recs : Tab RecSt := []
  cmds : List DrvCmd := []
  nextCmd : Nat := 0
  jobs : List MagJob := []
  nextJob : Nat := 0
  deriving DecidableEq, Repr

end Sys2Proof.Machine
end

