-- ==== Sys2Proof/Machine/StMotion.lean ====
section
/-! DEFINITION. The state of the motion ports (chapter Motion ports). -/

namespace Sys2Proof.Machine

/-- A position: a 48-bit two's-complement count (R459). -/
abbrev Pos := BitVec 48

/-- What an incremental, sine or serial channel holds beside its registers. -/
structure MchSt where
  pos : Pos := 0
  /-- Filtered levels of the A, B and Z pairs. -/
  a : Bool := false
  b : Bool := false
  z : Bool := false
  referenced : Bool := false
  suspect : Bool := false
  ampBad : Bool := false
  still : Bool := false
  /-- SPEED_VALID and the signed 32.16 speed (R460). -/
  valid : Bool := false
  speed : Int := 0
  /-- DIR, true for negative, and the hysteresis position Hp (R462). -/
  dirNeg : Bool := false
  hp : Pos := 0
  /-- The speed run, oldest first: latch time in clocks of the service core's counter, and position (R460). -/
  run : List (Nat × Pos) := []
  runNeg : Bool := false
  /-- Latch time, in clocks, of the last position change (R460). -/
  changeAt : Nat := 0
  /-- Clock of the last write of MCH_SET_POS_HI, plus 1 (R480). -/
  setAt : Nat := 0
  /-- A position written while the channel is powered down takes effect when it is powered again (R593). -/
  setDue : Bool := false
  /-- The condition of an index event held in the last clock (R463). -/
  indexOn : Bool := false
  /-- Serial: the value of the last good read (R455). -/
  last : Option Nat := none
  /-- SINCOS: the vector (cosine, sine) of the last sample used, scaled by 2^15, and consecutive samples outside the amplitude
  window while AMP_BAD is clear, or inside it while AMP_BAD is set (R456, R457). -/
  vec : Option (Int × Int) := none
  ampRun : Nat := 0
  /-- Serial and SINCOS: latch time in 2^−16 ns of device time and position of the last read (R477). -/
  read : Option (Int × Pos) := none
  /-- Alarms raised, and by rig the number already reported in a motion sample (R478). -/
  alarms : Nat := 0
  told : Tab Nat := []
  deriving DecidableEq, Repr

/-- A motion sample or a probe position that waits for a channel's next read (R465, R477): the instant, in 2^−16 ns, and the last
read at or before it. -/
structure PosWait where
  channel : Nat
  /-- The frame and the sample point, or the probe and its position register. -/
  forProbe : Bool
  owner : Nat
  index : Nat
  at_ : Int
  before : Option (Int × Pos)
  deriving DecidableEq, Repr

/-- A position compare unit. -/
structure CmpSt where
  /-- The table object it holds (R468), 0 for none. -/
  table : Nat := 0
  /-- TABLE: its last entry has fired or been passed. -/
  ended : Bool := false
  /-- A target written in some clock is compared from the next: that clock plus 1, and the target before it (R480). -/
  wroteAt : Nat := 0
  oldTarget : Pos := 0
  deriving DecidableEq, Repr

/-- An echo output (R470, R471). -/
structure EchoSt where
  acc : Int := 0
  pending : Int := 0
  overrun : Bool := false
  /-- Position in the cycle 00, 10, 11, 01 of AB. -/
  phase : Nat := 0
  /-- Clock of its last step. -/
  stepAt : Option Nat := none
  deriving DecidableEq, Repr

structure MotionState where
  chans : Tab MchSt := []
  cmps : Tab CmpSt := []
  echoes : Tab EchoSt := []
  waits : List PosWait := []
  deriving DecidableEq, Repr

end Sys2Proof.Machine
end

