-- ==== Sys2Proof/Machine/StMover.lean ====
section
/-! DEFINITION. The state of the movers: subscriptions, delivery descriptors, movers and service channels (chapter Movers). -/

namespace Sys2Proof.Machine

/-- What a subscription holds beside its registers. -/
structure SubSt where
  /-- Frames pending and not bound, by id, in the order they became pending (R422). -/
  pend : List Nat := []
  credits : Nat := 0
  /-- Frames abandoned since the previous DELIVERY (R429). -/
  skipped : Nat := 0
  /-- It takes no frame until its port enables its delivery ring again (R361). -/
  blocked : Bool := false
  deriving DecidableEq, Repr

/-- A delivery descriptor that has been taken and not completed (R424, R431). -/
structure Dlv where
  ring : Nat
  sub : Nat
  ticket : Ticket
  descNo : Nat
  gather : Bool := false
  payload : Nat := 0
  stats : Nat := 0
  preview : Nat := 0
  record : Nat := 0
  payloadCap : Nat := 0
  stride : Nat := 0
  signal : Nat := 0
  previewCap : Nat := 0
  index : Nat := 0
  first : Nat := 0
  count : Nat := 0
  noSnoop : Bool := false
  /-- The frame it is bound to (R426). -/
  frame : Option Nat := none
  /-- Parts of the byte space, its length, and how many bytes jobs have covered (R427, R436). -/
  parts : Nat := 0
  total : Nat := 0
  given : Nat := 0
  redelivered : Bool := false
  halted : Bool := false
  /-- The preview was abandoned after binding (R430). -/
  pvLost : Bool := false
  /-- A write was blocked by IDE (R367, R440); parts in which writes were, and payload bytes not written. -/
  sec : Bool := false
  cutParts : Nat := 0
  cutBytes : Nat := 0
  /-- Ranges of a failed mover that are released again: offset and length (R441). -/
  redo : List (Nat × Nat) := []
  deriving DecidableEq, Repr

/-- What a mover does in the present tick: 0 none, 1 subscription, 2 service channel, 3 spill; RUN of MV_STATUS; the
subscription or channel, and the descriptor by its ticket's ring and number; `ring` is the window of a spill. -/
structure MoverSt where
  work : Nat := 0
  run : Nat := 0
  id : Nat := 0
  ring : Nat := 0
  descNo : Nat := 0
  /-- Read requests outstanding, the port that they are on, and those that wait for one to complete or for a tag (R419). -/
  outstanding : Nat := 0
  readPort : Nat := 0
  readWait : Nat := 0
  /-- The clock at which it halted (R442). -/
  haltClk : Nat := 0
  /-- The ranges of descriptors it was given in the present tick: ring, descriptor, offset, length. -/
  held : List (Nat × Nat × Nat × Nat) := []
  deriving DecidableEq, Repr

/-- A service channel (R444, R445). -/
structure ChanSt where
  /-- Its transfer waits or runs: SVC_CTRL.GO reads 1. -/
  busy : Bool := false
  /-- The compare firing or channel completion that its pace waits for has come; the tick of GO. -/
  ready : Bool := false
  goTick : Nat := 0
  started : Bool := false
  halted : Bool := false
  /-- The port that wrote GO, and the transfer as its registers stood then. -/
  port : Nat := 0
  toHost : Bool := false
  pace : Nat := 0
  paceSel : Nat := 0
  noSnoop : Bool := false
  host : Nat := 0
  obj : Nat := 0
  offset : Nat := 0
  len : Nat := 0
  status : Nat := 0
  /-- Bytes that jobs have moved. -/
  done : Nat := 0
  /-- A write was blocked by IDE (R367). -/
  sec : Bool := false
  deriving DecidableEq, Repr

/-- A page-out (R265): frame id, window, bytes that jobs have still to cover, and whether its closing read is issued. -/
structure SpillOp where
  id : Nat
  window : Nat
  left : Nat
  reading : Bool := false
  deriving DecidableEq, Repr

structure MoverState where
  subs : Tab SubSt := []
  dlv : List Dlv := []
  movers : Tab MoverSt := []
  chans : Tab ChanSt := []
  spills : List SpillOp := []
  deriving DecidableEq, Repr

end Sys2Proof.Machine
end

