-- ==== Sys2Proof/Machine/StPlan.lean ====
section
/-! DEFINITION. The state of the tick planner: reservations, pending work, released jobs, carry-over
(chapter The tick planner). -/

namespace Sys2Proof.Machine

/-- An activity that holds reservations (R91). -/
inductive Act where
  | stream (st : Nat)
  | preroll (rig : Nat)
  | burst (rig : Nat)
  | seal (st : Nat)
  | record (st set : Nat)
  | sub (s : Nat)
  | offload (rig set : Nat)
  | spill (w : Nat)
  | service
  deriving DecidableEq, Repr

/-- The classes A to E (R91). -/
inductive Cls where
  | a | b | c | d | e
  deriving DecidableEq, Repr

/-- Byte 16 of RES_SUSPENDED (R415). -/
def Cls.code : Cls → Nat
  | .a => 0 | .b => 1 | .c => 2 | .d => 3 | .e => 4

/-- A per-tick or standing amount of one resource instance (R88). -/
structure Amount where
  res : Nat
  inst : Nat
  amount : Nat
  deriving DecidableEq, Repr

/-- The reservations of one admitted activity. -/
structure Resv where
  act : Act
  cls : Cls
  amounts : List Amount
  suspended : Bool := false
  /-- The rig's mode-change boundary at which it starts to hold (R91); 0 when it holds already. -/
  fromTick : Nat := 0
  /-- The boundary at which it is released, once a command releases it (R96). -/
  until_ : Option Nat := none
  /-- A command admitted before the activity's latest one has it end at its boundary (R38). -/
  leaving : Bool := false
  deriving DecidableEq, Repr

/-- A released job: work of one reservation on one instance that is not yet done (R99, R100). -/
structure Job where
  act : Act
  cls : Cls
  res : Nat
  inst : Nat
  left : Nat
  surplus : Bool := false
  tick : Nat := 0
  deriving DecidableEq, Repr

/-- Work waiting for a job. -/
structure Work where
  act : Act
  res : Nat
  inst : Nat
  amount : Nat
  deriving DecidableEq, Repr

structure PlanState where
  /-- In order of admission, oldest first. -/
  resvs : List Resv := []
  /-- Pending work, oldest first. -/
  work : List Work := []
  jobs : List Job := []
  /-- The last job set built, which a lockstep recovery repeats (R112). -/
  lastSet : List Job := []
  /-- Work done in the present tick and in the last full tick, by resource × 65,536 + instance (R113). -/
  usedNow : Tab Nat := []
  used : Tab Nat := []
  /-- Carry-over at the latest boundary (R102). -/
  carry : Tab Nat := []
  /-- Work of the present tick beyond the jobs released for it, by the same key (R105). -/
  beyond : Tab Nat := []
  /-- The units of each kind that were ACTIVE at the latest boundary (R31). -/
  units : Tab (List Nat) := []
  /-- The jobs of this tick wait for a change of the set or of a unit at the same boundary (R30, R31). -/
  held : Bool := false
  /-- Consecutive boundaries with, and without, SLACK_EXCEEDED (R106). -/
  slackRun : Nat := 0
  slackFree : Nat := 0
  overload : Bool := false
  /-- Percent of capacity by which a thermal level lowers what new admissions see; 0 but inside an admission (R570). -/
  cut : Nat := 0
  degraded : Bool := false
  deriving DecidableEq, Repr

end Sys2Proof.Machine
end

