-- ==== Sys2Proof/Machine/RegTable.lean ====
section
/-! DEFINITION. The register map of BAR0 (R577, R583): one row for every register the spec's register tables give,
with its window, offset, unit counts and strides, reset value, and the bits of each access type (R12).
Bits that no access type lists are RSV. -/

namespace Sys2Proof.Machine

/-- Half of a 64-bit pair (R17), or a register on its own. -/
inductive Half where
  | whole | lo | hi
  deriving DecidableEq, Repr

/-- How a read-only register gets its value: stored in the register file, computed from the state,
or captured for the reading port (R591). -/
inductive View where
  | stored | computed | captured
  deriving DecidableEq, Repr

/-- One register, or a family of registers repeated over one or two indices. -/
structure RegRow where
  /-- The spec's name of the register. -/
  name : String
  /-- The class window, 0 to 15 (R577). -/
  win : Nat
  /-- The offset in the window of the register of indices 0, 0. -/
  base : Nat
  /-- How many units the first index has, and its stride. -/
  n1 : Nat := 1
  s1 : Nat := 0
  /-- How many registers the second index has, and its stride. -/
  n2 : Nat := 1
  s2 : Nat := 0
  /-- The Reset column (R16). -/
  reset : Word := 0
  rw : Word := 0
  rwi : Word := 0
  ro : Word := 0
  rc : Word := 0
  w1c : Word := 0
  w1s : Word := 0
  wo : Word := 0
  half : Half := .whole
  view : View := .stored
  deriving DecidableEq, Repr

/-- The BAR0 offset of a register of a family. -/
def RegRow.addr (r : RegRow) (i : Nat := 0) (j : Nat := 0) : Nat :=
  r.win * 0x100000 + r.base + i * r.s1 + j * r.s2

namespace Reg

/-! GLOBAL window -/
def STEW_STATUS : RegRow := { name := "STEW_STATUS", win := 0, base := 0x100, reset := 0xf, ro := 0xff0fff, view := .computed }
def STEW_CTRL : RegRow := { name := "STEW_CTRL", win := 0, base := 0x104, w1s := 0x3 }
def HEARTBEAT : RegRow := { name := "HEARTBEAT", win := 0, base := 0x108, wo := 0xffffffff }
def STEW_SUCC : RegRow := { name := "STEW_SUCC", win := 0, base := 0x10c, reset := 0xffff, rw := 0xffff }
def HB_PERIOD : RegRow := { name := "HB_PERIOD", win := 0, base := 0x110, reset := 0x1f4, rw := 0xffff }
def DEV_ID : RegRow := { name := "DEV_ID", win := 0, base := 0x0, reset := 0x32361fd4, ro := 0xffffffff }
def DEV_REV : RegRow := { name := "DEV_REV", win := 0, base := 0x4, reset := Config.devRev, ro := 0xfff }
def BOOT_STATUS : RegRow := { name := "BOOT_STATUS", win := 0, base := 0x10, ro := 0xf800ffff }
def DEVICE_MODE : RegRow := { name := "DEVICE_MODE", win := 0, base := 0x14, ro := 0xffffffff, view := .computed }
def DEV_STATUS : RegRow := { name := "DEV_STATUS", win := 0, base := 0x18, ro := 0xf000ffff, view := .computed }
def ACCESS_STATUS : RegRow := { name := "ACCESS_STATUS", win := 0, base := 0x20, rc := 0xff, view := .computed }
def DEV_SERIAL_LO : RegRow := { name := "DEV_SERIAL_LO", win := 0, base := 0x8, reset := Config.serialLo, ro := 0xffffffff, half := .lo }
def DEV_SERIAL_HI : RegRow := { name := "DEV_SERIAL_HI", win := 0, base := 0xc, reset := Config.serialHi, ro := 0xffff, half := .hi }
def DEV_FW_VERSION : RegRow := { name := "DEV_FW_VERSION", win := 0, base := 0x1c, ro := 0xffffffff }
def ACCESS_ADDR : RegRow := { name := "ACCESS_ADDR", win := 0, base := 0x24, ro := 0x83ffffff, view := .computed }
def CDC_OVF : RegRow := { name := "CDC_OVF", win := 0, base := 0x28, w1c := 0xffff }
def RIG_STATUS : RegRow := { name := "RIG_STATUS", win := 0, base := 0x40, n1 := 16, s1 := 0x4, ro := 0xff01ffff, view := .computed }

/-! HOSTPORT window -/
def HP_CTRL : RegRow := { name := "HP_CTRL", win := 1, base := 0x0, n1 := 4, s1 := 0x1000, rw := 0x1ffff }
def HP_STATUS : RegRow := { name := "HP_STATUS", win := 1, base := 0x4, n1 := 4, s1 := 0x1000, ro := 0xe30f1f07 }
def HP_EVENTS : RegRow := { name := "HP_EVENTS", win := 1, base := 0x8, n1 := 4, s1 := 0x1000, w1c := 0x3ff }
def HP_CPL_TIMEOUT : RegRow := { name := "HP_CPL_TIMEOUT", win := 1, base := 0x10, n1 := 4, s1 := 0x1000, reset := 0x32, rw := 0xffffffff }
def HP_DB_FOREIGN_CNT : RegRow := { name := "HP_DB_FOREIGN_CNT", win := 1, base := 0x20, n1 := 4, s1 := 0x1000, rc := 0xffffffff }
def HP_RIGHTS_CNT : RegRow := { name := "HP_RIGHTS_CNT", win := 1, base := 0x24, n1 := 4, s1 := 0x1000, rc := 0xffffffff }
def HP_DENIED_CNT : RegRow := { name := "HP_DENIED_CNT", win := 1, base := 0x28, n1 := 4, s1 := 0x1000, rc := 0xffffffff }
def HP_CPL_TO_CNT : RegRow := { name := "HP_CPL_TO_CNT", win := 1, base := 0x2c, n1 := 4, s1 := 0x1000, rc := 0xffffffff }
def HP_RESET_CNT : RegRow := { name := "HP_RESET_CNT", win := 1, base := 0x30, n1 := 4, s1 := 0x1000, rc := 0xffffffff }
def HP_TX_BYTES_LO : RegRow := { name := "HP_TX_BYTES_LO", win := 1, base := 0x40, n1 := 4, s1 := 0x1000, ro := 0xffffffff, half := .lo }
def HP_TX_BYTES_HI : RegRow := { name := "HP_TX_BYTES_HI", win := 1, base := 0x44, n1 := 4, s1 := 0x1000, ro := 0xffffffff, half := .hi }
def HP_RX_BYTES_LO : RegRow := { name := "HP_RX_BYTES_LO", win := 1, base := 0x48, n1 := 4, s1 := 0x1000, ro := 0xffffffff, half := .lo }
def HP_RX_BYTES_HI : RegRow := { name := "HP_RX_BYTES_HI", win := 1, base := 0x4c, n1 := 4, s1 := 0x1000, ro := 0xffffffff, half := .hi }

/-! RING window -/
def RING_OWN : RegRow := { name := "RING_OWN", win := 2, base := 0x0, n1 := 1024, s1 := 0x40, reset := 0x40000, rw := 0x331f0001 }
def RING_CTRL : RegRow := { name := "RING_CTRL", win := 2, base := 0x4, n1 := 1024, s1 := 0x40, rwi := 0xb3ff07ff, w1s := 0x40000000 }
def RING_STATUS : RegRow := { name := "RING_STATUS", win := 2, base := 0x10, n1 := 1024, s1 := 0x40, ro := 0xffff00ff }
def RING_EVENTS : RegRow := { name := "RING_EVENTS", win := 2, base := 0x14, n1 := 1024, s1 := 0x40, w1c := 0x1f }
def RING_BASE_LO : RegRow := { name := "RING_BASE_LO", win := 2, base := 0x8, n1 := 1024, s1 := 0x40, rwi := 0xffffffff, half := .lo }
def RING_BASE_HI : RegRow := { name := "RING_BASE_HI", win := 2, base := 0xc, n1 := 1024, s1 := 0x40, rwi := 0xffffffff, half := .hi }
def RING_DEV_CNT : RegRow := { name := "RING_DEV_CNT", win := 2, base := 0x18, n1 := 1024, s1 := 0x40, ro := 0xffffffff }
def RING_DB_CNT : RegRow := { name := "RING_DB_CNT", win := 2, base := 0x1c, n1 := 1024, s1 := 0x40, ro := 0xffffffff }
def RING_EVT_MASK : RegRow := { name := "RING_EVT_MASK", win := 2, base := 0x20, n1 := 1024, s1 := 0x40, rwi := 0x7ff }
def RING_ERR_ADDR_LO : RegRow := { name := "RING_ERR_ADDR_LO", win := 2, base := 0x28, n1 := 1024, s1 := 0x40, ro := 0xffffffff, half := .lo }
def RING_ERR_ADDR_HI : RegRow := { name := "RING_ERR_ADDR_HI", win := 2, base := 0x2c, n1 := 1024, s1 := 0x40, ro := 0xffffffff, half := .hi }
def RING_EVT_LOST_CNT : RegRow := { name := "RING_EVT_LOST_CNT", win := 2, base := 0x30, n1 := 1024, s1 := 0x40, rc := 0xffffffff }
def RING_DB_BAD_CNT : RegRow := { name := "RING_DB_BAD_CNT", win := 2, base := 0x34, n1 := 1024, s1 := 0x40, rc := 0xffffffff }

/-! PLANNER window -/
def PLN_CTRL : RegRow := { name := "PLN_CTRL", win := 3, base := 0x0, reset := 0x4b100a, rw := 0xffff3f }
def PLN_STATUS : RegRow := { name := "PLN_STATUS", win := 3, base := 0x4, ro := 0x37fff }
def PLN_EVENTS : RegRow := { name := "PLN_EVENTS", win := 3, base := 0x8, w1c := 0x7f }
def PLN_RES_SEL : RegRow := { name := "PLN_RES_SEL", win := 3, base := 0x10, rwi := 0xffffff }
def PLN_RES_CAP_LO : RegRow := { name := "PLN_RES_CAP_LO", win := 3, base := 0x18, ro := 0xffffffff, half := .lo, view := .captured }
def PLN_RES_CAP_HI : RegRow := { name := "PLN_RES_CAP_HI", win := 3, base := 0x1c, ro := 0xffffffff, half := .hi, view := .captured }
def PLN_RES_ADMIT_LO : RegRow := { name := "PLN_RES_ADMIT_LO", win := 3, base := 0x20, ro := 0xffffffff, half := .lo, view := .captured }
def PLN_RES_ADMIT_HI : RegRow := { name := "PLN_RES_ADMIT_HI", win := 3, base := 0x24, ro := 0xffffffff, half := .hi, view := .captured }
def PLN_RES_RSVD_LO : RegRow := { name := "PLN_RES_RSVD_LO", win := 3, base := 0x28, ro := 0xffffffff, half := .lo, view := .captured }
def PLN_RES_RSVD_HI : RegRow := { name := "PLN_RES_RSVD_HI", win := 3, base := 0x2c, ro := 0xffffffff, half := .hi, view := .captured }
def PLN_RES_USED_LO : RegRow := { name := "PLN_RES_USED_LO", win := 3, base := 0x30, ro := 0xffffffff, half := .lo, view := .captured }
def PLN_RES_USED_HI : RegRow := { name := "PLN_RES_USED_HI", win := 3, base := 0x34, ro := 0xffffffff, half := .hi, view := .captured }
def PLN_RES_CARRY_LO : RegRow := { name := "PLN_RES_CARRY_LO", win := 3, base := 0x38, ro := 0xffffffff, half := .lo, view := .captured }
def PLN_RES_CARRY_HI : RegRow := { name := "PLN_RES_CARRY_HI", win := 3, base := 0x3c, ro := 0xffffffff, half := .hi, view := .captured }
def PLN_OVERRUN_CNT : RegRow := { name := "PLN_OVERRUN_CNT", win := 3, base := 0x40, rc := 0xffffffff }
def PLN_SHED_E_CNT : RegRow := { name := "PLN_SHED_E_CNT", win := 3, base := 0x44, rc := 0xffffffff }
def PLN_SHED_D_CNT : RegRow := { name := "PLN_SHED_D_CNT", win := 3, base := 0x48, rc := 0xffffffff }
def PLN_DEFER_C_CNT : RegRow := { name := "PLN_DEFER_C_CNT", win := 3, base := 0x4c, rc := 0xffffffff }
def PLN_REFUSE_CNT : RegRow := { name := "PLN_REFUSE_CNT", win := 3, base := 0x50, rc := 0xffffffff }
def PLN_SVC_RATE : RegRow := { name := "PLN_SVC_RATE", win := 3, base := 0x54, reset := 0x7d0, rw := 0xffffffff }

/-! LANE window -/
def LANE_CTRL : RegRow := { name := "LANE_CTRL", win := 4, base := 0x0, n1 := 36, s1 := 0x1000, reset := 0x64, rw := 0x77 }
def LANE_STATUS : RegRow := { name := "LANE_STATUS", win := 4, base := 0x4, n1 := 36, s1 := 0x1000, reset := 0xf0000, ro := 0xff0f3e0f }
def LANE_EVENTS : RegRow := { name := "LANE_EVENTS", win := 4, base := 0x8, n1 := 36, s1 := 0x1000, w1c := 0x3ff }
def LANE_TX_FFE : RegRow := { name := "LANE_TX_FFE", win := 4, base := 0x10, n1 := 36, s1 := 0x1000, reset := 0x3afa00, ro := 0xffffffff }
def LANE_TRAIN_CTRL : RegRow := { name := "LANE_TRAIN_CTRL", win := 4, base := 0x18, n1 := 36, s1 := 0x1000, reset := 0x320004, rw := 0xffff000c, w1s := 0x1 }
def LANE_EQ_CTRL : RegRow := { name := "LANE_EQ_CTRL", win := 4, base := 0x40, n1 := 36, s1 := 0x1000, reset := 0xb40a00, rw := 0xffff00, rwi := 0x1 }
def LANE_PRBS_CTRL : RegRow := { name := "LANE_PRBS_CTRL", win := 4, base := 0x60, n1 := 36, s1 := 0x1000, reset := 0xa00, rwi := 0xf36, ro := 0x8 }
def LANE_INJ_CTRL : RegRow := { name := "LANE_INJ_CTRL", win := 4, base := 0x64, n1 := 36, s1 := 0x1000, reset := 0x1000000, rwi := 0xfff0003c, w1s := 0x3 }
def LANE_SNR : RegRow := { name := "LANE_SNR", win := 4, base := 0x44, n1 := 36, s1 := 0x1000, ro := 0xffff }
def LANE_CW_CNT_LO : RegRow := { name := "LANE_CW_CNT_LO", win := 4, base := 0x80, n1 := 36, s1 := 0x1000, ro := 0xffffffff, half := .lo }
def LANE_CW_CNT_HI : RegRow := { name := "LANE_CW_CNT_HI", win := 4, base := 0x84, n1 := 36, s1 := 0x1000, ro := 0xffffffff, half := .hi }
def LANE_CORR_SYM_LO : RegRow := { name := "LANE_CORR_SYM_LO", win := 4, base := 0x88, n1 := 36, s1 := 0x1000, ro := 0xffffffff, half := .lo }
def LANE_CORR_SYM_HI : RegRow := { name := "LANE_CORR_SYM_HI", win := 4, base := 0x8c, n1 := 36, s1 := 0x1000, ro := 0xffffffff, half := .hi }
def LANE_UNCORR_CNT_LO : RegRow := { name := "LANE_UNCORR_CNT_LO", win := 4, base := 0x90, n1 := 36, s1 := 0x1000, ro := 0xffffffff, half := .lo }
def LANE_UNCORR_CNT_HI : RegRow := { name := "LANE_UNCORR_CNT_HI", win := 4, base := 0x94, n1 := 36, s1 := 0x1000, ro := 0xffffffff, half := .hi }
def LANE_PRBS_BITS_LO : RegRow := { name := "LANE_PRBS_BITS_LO", win := 4, base := 0x98, n1 := 36, s1 := 0x1000, ro := 0xffffffff, half := .lo }
def LANE_PRBS_BITS_HI : RegRow := { name := "LANE_PRBS_BITS_HI", win := 4, base := 0x9c, n1 := 36, s1 := 0x1000, ro := 0xffffffff, half := .hi }
def LANE_PRBS_ERR_LO : RegRow := { name := "LANE_PRBS_ERR_LO", win := 4, base := 0xa0, n1 := 36, s1 := 0x1000, ro := 0xffffffff, half := .lo }
def LANE_PRBS_ERR_HI : RegRow := { name := "LANE_PRBS_ERR_HI", win := 4, base := 0xa4, n1 := 36, s1 := 0x1000, ro := 0xffffffff, half := .hi }
def LANE_SWAP_CNT : RegRow := { name := "LANE_SWAP_CNT", win := 4, base := 0xa8, n1 := 36, s1 := 0x1000, ro := 0xffffffff }
def LANE_LOST_CW : RegRow := { name := "LANE_LOST_CW", win := 4, base := 0xac, n1 := 36, s1 := 0x1000, rc := 0xffffffff }
def HDP_CTRL : RegRow := { name := "HDP_CTRL", win := 4, base := 0xd0000, n1 := 4, s1 := 0x100, reset := 0x10008, rw := 0x11f0f }
def LANE_FAR_FFE : RegRow := { name := "LANE_FAR_FFE", win := 4, base := 0x14, n1 := 36, s1 := 0x1000, reset := 0x3afa00, ro := 0xffffffff }
def HDP_STATUS : RegRow := { name := "HDP_STATUS", win := 4, base := 0xd0004, n1 := 4, s1 := 0x100, reset := 0xf, ro := 0xf }
def CLS_INFO_LANE : RegRow := { name := "CLS_INFO", win := 4, base := 0xc0000, reset := 0x24, ro := 0xff }
def GRP_MASK_LANE : RegRow := { name := "GRP_MASKg_Ww", win := 4, base := 0xc0100, n1 := 8, s1 := 0x10, n2 := 4, s2 := 4, rwi := 0xffffffff }

/-! HEADLINK window -/
def HL_CTRL : RegRow := { name := "HL_CTRL", win := 5, base := 0x0, n1 := 32, s1 := 0x1000, rw := 0xc001ff03 }
def HL_STATUS : RegRow := { name := "HL_STATUS", win := 5, base := 0x4, n1 := 32, s1 := 0x1000, ro := 0xffffff77 }
def HL_EVENTS : RegRow := { name := "HL_EVENTS", win := 5, base := 0x8, n1 := 32, s1 := 0x1000, w1c := 0x3ff }
def HL_DELAY : RegRow := { name := "HL_DELAY", win := 5, base := 0x10, n1 := 32, s1 := 0x1000, ro := 0xffffffff }
def HL_ASYM : RegRow := { name := "HL_ASYM", win := 5, base := 0x14, n1 := 32, s1 := 0x1000, rw := 0xffffffff }
def HL_REG_TIMEOUT : RegRow := { name := "HL_REG_TIMEOUT", win := 5, base := 0x18, n1 := 32, s1 := 0x1000, reset := 0x3e8, rw := 0xffffffff }
def HL_CAP_ID : RegRow := { name := "HL_CAP_ID", win := 5, base := 0x1c, n1 := 32, s1 := 0x1000, ro := 0xffffffff }
def HL_CAP_SERIAL_LO : RegRow := { name := "HL_CAP_SERIAL_LO", win := 5, base := 0x20, n1 := 32, s1 := 0x1000, ro := 0xffffffff, half := .lo }
def HL_CAP_SERIAL_HI : RegRow := { name := "HL_CAP_SERIAL_HI", win := 5, base := 0x24, n1 := 32, s1 := 0x1000, ro := 0xffffffff, half := .hi }
def HL_MIN_LEAD : RegRow := { name := "HL_MIN_LEAD", win := 5, base := 0x28, n1 := 32, s1 := 0x1000, ro := 0xffffffff }
def HL_CRC_ERR_CNT : RegRow := { name := "HL_CRC_ERR_CNT", win := 5, base := 0x40, n1 := 32, s1 := 0x1000, rc := 0xffffffff }
def HL_LOST_CELL_CNT : RegRow := { name := "HL_LOST_CELL_CNT", win := 5, base := 0x44, n1 := 32, s1 := 0x1000, rc := 0xffffffff }
def HL_CREDIT_ERR_CNT : RegRow := { name := "HL_CREDIT_ERR_CNT", win := 5, base := 0x48, n1 := 32, s1 := 0x1000, rc := 0xffffffff }
def HL_TRIG_NAK_CNT : RegRow := { name := "HL_TRIG_NAK_CNT", win := 5, base := 0x4c, n1 := 32, s1 := 0x1000, rc := 0xffffffff }
def HL_SETTINGS_NAK_CNT : RegRow := { name := "HL_SETTINGS_NAK_CNT", win := 5, base := 0x50, n1 := 32, s1 := 0x1000, rc := 0xffffffff }
def HL_REG_TIMEOUT_CNT : RegRow := { name := "HL_REG_TIMEOUT_CNT", win := 5, base := 0x54, n1 := 32, s1 := 0x1000, rc := 0xffffffff }
def HL_UNEXPECTED_CNT : RegRow := { name := "HL_UNEXPECTED_CNT", win := 5, base := 0x58, n1 := 32, s1 := 0x1000, rc := 0xffffffff }
def HL_CAP_TL_LO : RegRow := { name := "HL_CAP_TL_LO", win := 5, base := 0x60, n1 := 32, s1 := 0x1000, n2 := 4, s2 := 0x8, ro := 0xffffffff, half := .lo }
def HL_CAP_TL_HI : RegRow := { name := "HL_CAP_TL_HI", win := 5, base := 0x64, n1 := 32, s1 := 0x1000, n2 := 4, s2 := 0x8, ro := 0xffffffff, half := .hi }
def CLS_INFO_HEADLINK : RegRow := { name := "CLS_INFO", win := 5, base := 0xc0000, reset := 0x20, ro := 0xff }
def GRP_MASK_HEADLINK : RegRow := { name := "GRP_MASKg_Ww", win := 5, base := 0xc0100, n1 := 8, s1 := 0x10, n2 := 4, s2 := 4, rwi := 0xffffffff }

/-! STREAM window -/
def ST_CTRL : RegRow := { name := "ST_CTRL", win := 6, base := 0x0, n1 := 64, s1 := 0x1000, rw := 0x31f0f01 }
def ST_FMT : RegRow := { name := "ST_FMT", win := 6, base := 0x4, n1 := 64, s1 := 0x1000, reset := 0x2, rw := 0xffff0007 }
def ST_GEOM : RegRow := { name := "ST_GEOM", win := 6, base := 0x8, n1 := 64, s1 := 0x1000, rw := 0xffffffff }
def ST_CANARY : RegRow := { name := "ST_CANARY", win := 6, base := 0xc, n1 := 64, s1 := 0x1000, reset := 0x8, rw := 0xff }
def ST_STATUS : RegRow := { name := "ST_STATUS", win := 6, base := 0x18, n1 := 64, s1 := 0x1000, reset := 0x3, ro := 0xff000003 }
def ST_EVENTS : RegRow := { name := "ST_EVENTS", win := 6, base := 0x1c, n1 := 64, s1 := 0x1000, w1c := 0x1ff }
def ST_FS_WINDOW : RegRow := { name := "ST_FS_WINDOW", win := 6, base := 0x10, n1 := 64, s1 := 0x1000, reset := 0x186a0, rw := 0xffffffff }
def ST_FE_WINDOW : RegRow := { name := "ST_FE_WINDOW", win := 6, base := 0x14, n1 := 64, s1 := 0x1000, reset := 0x186a0, rw := 0xffffffff }
def ST_LATE_PKT_CNT : RegRow := { name := "ST_LATE_PKT_CNT", win := 6, base := 0x20, n1 := 64, s1 := 0x1000, rc := 0xffffffff }
def ST_DUP_LINE_CNT : RegRow := { name := "ST_DUP_LINE_CNT", win := 6, base := 0x24, n1 := 64, s1 := 0x1000, rc := 0xffffffff }
def ST_LAST_FRAME : RegRow := { name := "ST_LAST_FRAME", win := 6, base := 0x28, n1 := 64, s1 := 0x1000, ro := 0xffffffff }
def ST_PIPE : RegRow := { name := "ST_PIPE", win := 6, base := 0x80, n1 := 64, s1 := 0x1000, reset := 0x3000000, rw := 0xfff00fd9 }
def ST_BLACK : RegRow := { name := "ST_BLACK", win := 6, base := 0x84, n1 := 64, s1 := 0x1000, reset := 0x1000000, rw := 0xffffffff }
def ST_OB : RegRow := { name := "ST_OB", win := 6, base := 0x88, n1 := 64, s1 := 0x1000, rw := 0x3f }
def ST_LEVELS : RegRow := { name := "ST_LEVELS", win := 6, base := 0x8c, n1 := 64, s1 := 0x1000, reset := 0xffff0000, rw := 0xffffffff }
def ST_PV_SCALE : RegRow := { name := "ST_PV_SCALE", win := 6, base := 0x9c, n1 := 64, s1 := 0x1000, reset := 0x101, rw := 0xf0f }
def ST_PIPE_STATUS : RegRow := { name := "ST_PIPE_STATUS", win := 6, base := 0xc0, n1 := 64, s1 := 0x1000, ro := 0x7ffff }
def ST_PIPE_EVENTS : RegRow := { name := "ST_PIPE_EVENTS", win := 6, base := 0xc4, n1 := 64, s1 := 0x1000, w1c := 0xf }
def ST_DEFECT_TBL : RegRow := { name := "ST_DEFECT_TBL", win := 6, base := 0x90, n1 := 64, s1 := 0x1000, rw := 0xffffffff }
def ST_DEFECT_CONST : RegRow := { name := "ST_DEFECT_CONST", win := 6, base := 0x94, n1 := 64, s1 := 0x1000, rw := 0xffff }
def ST_FLAT_TBL : RegRow := { name := "ST_FLAT_TBL", win := 6, base := 0x98, n1 := 64, s1 := 0x1000, rw := 0xffffffff }
def ST_PV_CCM0 : RegRow := { name := "ST_PV_CCM0", win := 6, base := 0xa0, n1 := 64, s1 := 0x1000, reset := 0x1000, rw := 0xffffffff }
def ST_PV_CCM1 : RegRow := { name := "ST_PV_CCM1", win := 6, base := 0xa4, n1 := 64, s1 := 0x1000, rw := 0xffffffff }
def ST_PV_CCM2 : RegRow := { name := "ST_PV_CCM2", win := 6, base := 0xa8, n1 := 64, s1 := 0x1000, reset := 0x1000, rw := 0xffffffff }
def ST_PV_CCM3 : RegRow := { name := "ST_PV_CCM3", win := 6, base := 0xac, n1 := 64, s1 := 0x1000, rw := 0xffffffff }
def ST_PV_CCM4 : RegRow := { name := "ST_PV_CCM4", win := 6, base := 0xb0, n1 := 64, s1 := 0x1000, reset := 0x1000, rw := 0xffff }
def ST_LINEBUF_DROP_CNT : RegRow := { name := "ST_LINEBUF_DROP_CNT", win := 6, base := 0xc8, n1 := 64, s1 := 0x1000, rc := 0xffffffff }
def ST_PV_SHED_CNT : RegRow := { name := "ST_PV_SHED_CNT", win := 6, base := 0xcc, n1 := 64, s1 := 0x1000, rc := 0xffffffff }
def ST_STORE : RegRow := { name := "ST_STORE", win := 6, base := 0x100, n1 := 64, s1 := 0x1000, reset := 0x4, rw := 0x7f }
def ST_STORE_STATUS : RegRow := { name := "ST_STORE_STATUS", win := 6, base := 0x104, n1 := 64, s1 := 0x1000, ro := 0xffff003f }
def ST_STARVED_CNT : RegRow := { name := "ST_STARVED_CNT", win := 6, base := 0x108, n1 := 64, s1 := 0x1000, rc := 0xffffffff }
def CLS_INFO_STREAM : RegRow := { name := "CLS_INFO", win := 6, base := 0xc0000, reset := 0x40, ro := 0xff }
def GRP_MASK_STREAM : RegRow := { name := "GRP_MASKg_Ww", win := 6, base := 0xc0100, n1 := 8, s1 := 0x10, n2 := 4, s2 := 4, rwi := 0xffffffff }

/-! PU window -/
def PU_STATUS : RegRow := { name := "PU_STATUS", win := 7, base := 0x0, n1 := 16, s1 := 0x1000, ro := 0xff000007 }
def PU_LINES_LO : RegRow := { name := "PU_LINES_LO", win := 7, base := 0x8, n1 := 16, s1 := 0x1000, ro := 0xffffffff, half := .lo }
def PU_LINES_HI : RegRow := { name := "PU_LINES_HI", win := 7, base := 0xc, n1 := 16, s1 := 0x1000, ro := 0xffffffff, half := .hi }
def PU_BUSY_LO : RegRow := { name := "PU_BUSY_LO", win := 7, base := 0x10, n1 := 16, s1 := 0x1000, ro := 0xffffffff, half := .lo }
def PU_BUSY_HI : RegRow := { name := "PU_BUSY_HI", win := 7, base := 0x14, n1 := 16, s1 := 0x1000, ro := 0xffffffff, half := .hi }
def PU_TICK_CYCLES : RegRow := { name := "PU_TICK_CYCLES", win := 7, base := 0x18, n1 := 16, s1 := 0x1000, ro := 0xffffffff }
def PU_STREAM_MAP_LO : RegRow := { name := "PU_STREAM_MAP_LO", win := 7, base := 0x20, n1 := 16, s1 := 0x1000, ro := 0xffffffff, half := .lo }
def PU_STREAM_MAP_HI : RegRow := { name := "PU_STREAM_MAP_HI", win := 7, base := 0x24, n1 := 16, s1 := 0x1000, ro := 0xffffffff, half := .hi }
def PV_LOOK_CTRL : RegRow := { name := "PV_LOOK_CTRL", win := 7, base := 0xd0000, n1 := 4, s1 := 0x100, rw := 0x3 }
def PV_LOOK_1D : RegRow := { name := "PV_LOOK_1D", win := 7, base := 0xd0004, n1 := 4, s1 := 0x100, rw := 0xffffffff }
def PV_LOOK_3D : RegRow := { name := "PV_LOOK_3D", win := 7, base := 0xd0008, n1 := 4, s1 := 0x100, rw := 0xffffffff }
def CLS_INFO_PU : RegRow := { name := "CLS_INFO", win := 7, base := 0xc0000, reset := 0x10, ro := 0xff }
def GRP_MASK_PU : RegRow := { name := "GRP_MASKg_Ww", win := 7, base := 0xc0100, n1 := 8, s1 := 0x10, n2 := 4, s2 := 4, rwi := 0xffffffff }

/-! STORE window -/
def STORE_CTRL : RegRow := { name := "STORE_CTRL", win := 8, base := 0xd0000, reset := 0xfa00006, rw := 0xffff0006 }
def STORE_STATUS : RegRow := { name := "STORE_STATUS", win := 8, base := 0xd0004, ro := 0xf }
def STORE_EVENTS : RegRow := { name := "STORE_EVENTS", win := 8, base := 0xd0008, w1c := 0xfff }
def STORE_POOL_PAGES : RegRow := { name := "STORE_POOL_PAGES", win := 8, base := 0xd0010, ro := 0xffffffff }
def STORE_FREE_PAGES : RegRow := { name := "STORE_FREE_PAGES", win := 8, base := 0xd0014, ro := 0xffffffff }
def STORE_LIVE_RECORDS : RegRow := { name := "STORE_LIVE_RECORDS", win := 8, base := 0xd0018, ro := 0xffffffff }
def STORE_RETIRED_PAGES : RegRow := { name := "STORE_RETIRED_PAGES", win := 8, base := 0xd001c, ro := 0xffffffff }
def STORE_WM_SPILL : RegRow := { name := "STORE_WM_SPILL", win := 8, base := 0xd0020, reset := 0x28000, rw := 0xffffffff }
def STORE_WM_BACKLOG : RegRow := { name := "STORE_WM_BACKLOG", win := 8, base := 0xd0024, reset := 0x18000, rw := 0xffffffff }
def STORE_WM_CRIT : RegRow := { name := "STORE_WM_CRIT", win := 8, base := 0xd0028, reset := 0x8000, rw := 0xffffffff }
def STORE_HEAP_FREE : RegRow := { name := "STORE_HEAP_FREE", win := 8, base := 0xd002c, ro := 0xffffffff }
def STORE_ROW_THRESH : RegRow := { name := "STORE_ROW_THRESH", win := 8, base := 0xd0030, reset := 0x4, rw := 0xffffffff }
def STORE_STARVED_CNT : RegRow := { name := "STORE_STARVED_CNT", win := 8, base := 0xd0040, rc := 0xffffffff }
def STORE_REC_MISS_CNT : RegRow := { name := "STORE_REC_MISS_CNT", win := 8, base := 0xd0044, rc := 0xffffffff }
def STORE_SPILL_OUT_CNT : RegRow := { name := "STORE_SPILL_OUT_CNT", win := 8, base := 0xd0048, rc := 0xffffffff }
def STORE_SPILL_IN_CNT : RegRow := { name := "STORE_SPILL_IN_CNT", win := 8, base := 0xd004c, rc := 0xffffffff }
def STORE_SPILL_FAIL_CNT : RegRow := { name := "STORE_SPILL_FAIL_CNT", win := 8, base := 0xd0050, rc := 0xffffffff }
def STORE_CE_CNT : RegRow := { name := "STORE_CE_CNT", win := 8, base := 0xd0054, rc := 0xffffffff }
def STORE_UE_CNT : RegRow := { name := "STORE_UE_CNT", win := 8, base := 0xd0058, rc := 0xffffffff }
def STORE_FR_SEL : RegRow := { name := "STORE_FR_SEL", win := 8, base := 0xd0060, rwi := 0x3f }
def STORE_FR_FRAME : RegRow := { name := "STORE_FR_FRAME", win := 8, base := 0xd0064, rwi := 0xffffffff }
def STORE_FR_INFO : RegRow := { name := "STORE_FR_INFO", win := 8, base := 0xd0068, ro := 0xffffffff, view := .captured }
def STORE_FR_SLOT : RegRow := { name := "STORE_FR_SLOT", win := 8, base := 0xd006c, ro := 0xffffffff, view := .captured }
def PC_STATUS : RegRow := { name := "PC_STATUS", win := 8, base := 0x0, n1 := 128, s1 := 0x1000, ro := 0xffff0007 }
def PC_FREE_PAGES : RegRow := { name := "PC_FREE_PAGES", win := 8, base := 0x4, n1 := 128, s1 := 0x1000, ro := 0xffffffff }
def PC_LIVE_PAGES : RegRow := { name := "PC_LIVE_PAGES", win := 8, base := 0x8, n1 := 128, s1 := 0x1000, ro := 0xffffffff }
def PC_CE_CNT : RegRow := { name := "PC_CE_CNT", win := 8, base := 0xc, n1 := 128, s1 := 0x1000, rc := 0xffffffff }
def PC_UE_CNT : RegRow := { name := "PC_UE_CNT", win := 8, base := 0x10, n1 := 128, s1 := 0x1000, rc := 0xffffffff }
def PC_RETIRED_PAGES : RegRow := { name := "PC_RETIRED_PAGES", win := 8, base := 0x14, n1 := 128, s1 := 0x1000, ro := 0xffffffff }
def PC_BYTES_LO : RegRow := { name := "PC_BYTES_LO", win := 8, base := 0x18, n1 := 128, s1 := 0x1000, ro := 0xffffffff, half := .lo }
def PC_BYTES_HI : RegRow := { name := "PC_BYTES_HI", win := 8, base := 0x1c, n1 := 128, s1 := 0x1000, ro := 0xffffffff, half := .hi }
def SPW_CTRL : RegRow := { name := "SPW_CTRL", win := 8, base := 0xd1000, n1 := 16, s1 := 0x40, rw := 0x31 }
def SPW_BASE_LO : RegRow := { name := "SPW_BASE_LO", win := 8, base := 0xd1004, n1 := 16, s1 := 0x40, rw := 0xffffffff, half := .lo }
def SPW_BASE_HI : RegRow := { name := "SPW_BASE_HI", win := 8, base := 0xd1008, n1 := 16, s1 := 0x40, rw := 0xffffffff, half := .hi }
def SPW_PAGES : RegRow := { name := "SPW_PAGES", win := 8, base := 0xd100c, n1 := 16, s1 := 0x40, rw := 0xffffffff }
def SPW_RATE : RegRow := { name := "SPW_RATE", win := 8, base := 0xd1010, n1 := 16, s1 := 0x40, reset := 0xfa0, rw := 0xffffffff }
def SPW_STATUS : RegRow := { name := "SPW_STATUS", win := 8, base := 0xd1014, n1 := 16, s1 := 0x40, ro := 0x80ffffff }
def SPW_FRAMES : RegRow := { name := "SPW_FRAMES", win := 8, base := 0xd1018, n1 := 16, s1 := 0x40, ro := 0xffffffff }
def RIG_PREROLL : RegRow := { name := "RIG_PREROLL", win := 8, base := 0xd2000, n1 := 16, s1 := 0x40, rw := 0xffff }
def RIG_BURST_PAGES : RegRow := { name := "RIG_BURST_PAGES", win := 8, base := 0xd2004, n1 := 16, s1 := 0x40, rw := 0xffffffff }
def RIG_PREROLL_HELD : RegRow := { name := "RIG_PREROLL_HELD", win := 8, base := 0xd2010, n1 := 16, s1 := 0x40, ro := 0xffffffff }
def RIG_BURST_USED : RegRow := { name := "RIG_BURST_USED", win := 8, base := 0xd2014, n1 := 16, s1 := 0x40, ro := 0xffffffff }
def RIG_BURST_OVF : RegRow := { name := "RIG_BURST_OVF", win := 8, base := 0xd2018, n1 := 16, s1 := 0x40, rc := 0xffffffff }
def CLS_INFO_STORE : RegRow := { name := "CLS_INFO", win := 8, base := 0xc0000, reset := 0x80, ro := 0xff }
def GRP_MASK_STORE : RegRow := { name := "GRP_MASKg_Ww", win := 8, base := 0xc0100, n1 := 8, s1 := 0x10, n2 := 4, s2 := 4, rwi := 0xffffffff }

/-! MAGAZINE window -/
def MB_CTRL : RegRow := { name := "MB_CTRL", win := 9, base := 0xd0000, reset := 0x80fa000, rw := 0xfffffc00 }
def MB_CMD_TIMEOUT : RegRow := { name := "MB_CMD_TIMEOUT", win := 9, base := 0xd0004, reset := 0x1f4, rw := 0xffffffff }
def MB_RELAY_CNT : RegRow := { name := "MB_RELAY_CNT", win := 9, base := 0xd0010, rc := 0xffffffff }
def MB_EMERG_CNT : RegRow := { name := "MB_EMERG_CNT", win := 9, base := 0xd0014, rc := 0xffffffff }
def MB_RETRY_CNT : RegRow := { name := "MB_RETRY_CNT", win := 9, base := 0xd0018, rc := 0xffffffff }
def BAY_CTRL : RegRow := { name := "BAY_CTRL", win := 9, base := 0xd1000, n1 := 4, s1 := 0x100, reset := 0x3, rw := 0x3, rwi := 0xc0 }
def BAY_STATUS : RegRow := { name := "BAY_STATUS", win := 9, base := 0xd1004, n1 := 4, s1 := 0x100, reset := 0xf00000, ro := 0xffff0707 }
def BAY_EVENTS : RegRow := { name := "BAY_EVENTS", win := 9, base := 0xd1008, n1 := 4, s1 := 0x100, w1c := 0x7f }
def MBS_STATUS : RegRow := { name := "MBS_STATUS", win := 9, base := 0x0, n1 := 16, s1 := 0x1000, ro := 0xf07f0087 }
def MBS_EVENTS : RegRow := { name := "MBS_EVENTS", win := 9, base := 0x4, n1 := 16, s1 := 0x1000, w1c := 0x1f }
def MBS_RATE : RegRow := { name := "MBS_RATE", win := 9, base := 0x8, n1 := 16, s1 := 0x1000, ro := 0xffffffff }
def MBS_RATE_CAP : RegRow := { name := "MBS_RATE_CAP", win := 9, base := 0xc, n1 := 16, s1 := 0x1000, rw := 0xffffffff }
def MBS_BLOCKS_LO : RegRow := { name := "MBS_BLOCKS_LO", win := 9, base := 0x10, n1 := 16, s1 := 0x1000, ro := 0xffffffff, half := .lo }
def MBS_BLOCKS_HI : RegRow := { name := "MBS_BLOCKS_HI", win := 9, base := 0x14, n1 := 16, s1 := 0x1000, ro := 0xffffffff, half := .hi }
def MBS_WR_BYTES_LO : RegRow := { name := "MBS_WR_BYTES_LO", win := 9, base := 0x18, n1 := 16, s1 := 0x1000, ro := 0xffffffff, half := .lo }
def MBS_WR_BYTES_HI : RegRow := { name := "MBS_WR_BYTES_HI", win := 9, base := 0x1c, n1 := 16, s1 := 0x1000, ro := 0xffffffff, half := .hi }
def MBS_ERR_CNT : RegRow := { name := "MBS_ERR_CNT", win := 9, base := 0x20, n1 := 16, s1 := 0x1000, rc := 0xffffffff }
def MBS_TEMP : RegRow := { name := "MBS_TEMP", win := 9, base := 0x24, n1 := 16, s1 := 0x1000, ro := 0xffff }
def MBS_PCT_USED : RegRow := { name := "MBS_PCT_USED", win := 9, base := 0x28, n1 := 16, s1 := 0x1000, ro := 0xff }
def MSET_CTRL : RegRow := { name := "MSET_CTRL", win := 9, base := 0xd2000, n1 := 8, s1 := 0x40, rw := 0xf3331 }
def MSET_STATUS : RegRow := { name := "MSET_STATUS", win := 9, base := 0xd2004, n1 := 8, s1 := 0x40, ro := 0xef000000 }
def MSET_CLAIMS : RegRow := { name := "MSET_CLAIMS", win := 9, base := 0xd2008, n1 := 8, s1 := 0x40, ro := 0xffffffff }
def MSET_FREE_CLAIMS : RegRow := { name := "MSET_FREE_CLAIMS", win := 9, base := 0xd200c, n1 := 8, s1 := 0x40, ro := 0xffffffff }
def RREC_CTRL : RegRow := { name := "RREC_CTRL", win := 9, base := 0xd3000, n1 := 16, s1 := 0x40, reset := 0xffff0a00, rw := 0xffffff01 }
def RREC_OFFLOAD : RegRow := { name := "RREC_OFFLOAD", win := 9, base := 0xd3004, n1 := 16, s1 := 0x40, reset := 0xf0000, rw := 0xfffff }
def RREC_STATUS : RegRow := { name := "RREC_STATUS", win := 9, base := 0xd3008, n1 := 16, s1 := 0x40, reset := 0xf0000, ro := 0xfff07 }
def RREC_SEG_FIRST : RegRow := { name := "RREC_SEG_FIRST", win := 9, base := 0xd300c, n1 := 16, s1 := 0x40, ro := 0xffffffff }
def RREC_TAKE_ID : RegRow := { name := "RREC_TAKE_ID", win := 9, base := 0xd3010, n1 := 16, s1 := 0x40, n2 := 4, s2 := 0x4, ro := 0xffffffff }
def RREC_LAST_WRITTEN : RegRow := { name := "RREC_LAST_WRITTEN", win := 9, base := 0xd3020, n1 := 16, s1 := 0x40, ro := 0xffffffff }
def RREC_BACKLOG : RegRow := { name := "RREC_BACKLOG", win := 9, base := 0xd3024, n1 := 16, s1 := 0x40, ro := 0xffffffff }
def RREC_LOST_FRAMES : RegRow := { name := "RREC_LOST_FRAMES", win := 9, base := 0xd3028, n1 := 16, s1 := 0x40, rc := 0xffffffff }
def CLS_INFO_MAGAZINE : RegRow := { name := "CLS_INFO", win := 9, base := 0xc0000, reset := 0x10, ro := 0xff }
def GRP_MASK_MAGAZINE : RegRow := { name := "GRP_MASKg_Ww", win := 9, base := 0xc0100, n1 := 8, s1 := 0x10, n2 := 4, s2 := 4, rwi := 0xffffffff }

/-! MOVER window -/
def MV_STATUS : RegRow := { name := "MV_STATUS", win := 10, base := 0x0, n1 := 64, s1 := 0x1000, ro := 0x1ff0337 }
def MV_ERR_INFO : RegRow := { name := "MV_ERR_INFO", win := 10, base := 0x8, n1 := 64, s1 := 0x1000, ro := 0xf3ff107, w1c := 0x80000000 }
def MV_ERR_ADDR_LO : RegRow := { name := "MV_ERR_ADDR_LO", win := 10, base := 0x10, n1 := 64, s1 := 0x1000, ro := 0xffffffff, half := .lo }
def MV_ERR_ADDR_HI : RegRow := { name := "MV_ERR_ADDR_HI", win := 10, base := 0x14, n1 := 64, s1 := 0x1000, ro := 0xffffffff, half := .hi }
def MV_BYTES_LO : RegRow := { name := "MV_BYTES_LO", win := 10, base := 0x18, n1 := 64, s1 := 0x1000, ro := 0xffffffff, half := .lo }
def MV_BYTES_HI : RegRow := { name := "MV_BYTES_HI", win := 10, base := 0x1c, n1 := 64, s1 := 0x1000, ro := 0xffffffff, half := .hi }
def MV_WORK_ID : RegRow := { name := "MV_WORK_ID", win := 10, base := 0x20, n1 := 64, s1 := 0x1000, ro := 0xffffffff }
def MV_ERR_CNT : RegRow := { name := "MV_ERR_CNT", win := 10, base := 0x24, n1 := 64, s1 := 0x1000, rc := 0xffffffff }
def SUB_CTRL : RegRow := { name := "SUB_CTRL", win := 10, base := 0x80000, n1 := 128, s1 := 0x40, rw := 0xfffbffff }
def SUB_STREAMS_LO : RegRow := { name := "SUB_STREAMS_LO", win := 10, base := 0x80004, n1 := 128, s1 := 0x40, rw := 0xffffffff, half := .lo }
def SUB_STREAMS_HI : RegRow := { name := "SUB_STREAMS_HI", win := 10, base := 0x80008, n1 := 128, s1 := 0x40, rw := 0xffffffff, half := .hi }
def SUB_PAYLOAD_BYTES : RegRow := { name := "SUB_PAYLOAD_BYTES", win := 10, base := 0x8000c, n1 := 128, s1 := 0x40, rw := 0xffffffff }
def SUB_STATUS : RegRow := { name := "SUB_STATUS", win := 10, base := 0x80010, n1 := 128, s1 := 0x40, ro := 0xffffff03 }
def SUB_EVENTS : RegRow := { name := "SUB_EVENTS", win := 10, base := 0x80014, n1 := 128, s1 := 0x40, w1c := 0x1 }
def SUB_SKIP_CNT : RegRow := { name := "SUB_SKIP_CNT", win := 10, base := 0x80018, n1 := 128, s1 := 0x40, rc := 0xffffffff }
def SUB_DELIVERED_CNT : RegRow := { name := "SUB_DELIVERED_CNT", win := 10, base := 0x8001c, n1 := 128, s1 := 0x40, rc := 0xffffffff }
def SVCCH_CTRL : RegRow := { name := "SVC_CTRL", win := 10, base := 0xd1000, n1 := 8, s1 := 0x40, rwi := 0x3fe00000, w1s := 0xc0000000 }
def SVCCH_HOST_LO : RegRow := { name := "SVC_HOST_LO", win := 10, base := 0xd1004, n1 := 8, s1 := 0x40, rwi := 0xffffffff, half := .lo }
def SVCCH_HOST_HI : RegRow := { name := "SVC_HOST_HI", win := 10, base := 0xd1008, n1 := 8, s1 := 0x40, rwi := 0xffffffff, half := .hi }
def SVCCH_OBJ : RegRow := { name := "SVC_OBJ", win := 10, base := 0xd100c, n1 := 8, s1 := 0x40, rwi := 0xffffffff }
def SVCCH_OFFSET : RegRow := { name := "SVC_OFFSET", win := 10, base := 0xd1010, n1 := 8, s1 := 0x40, rwi := 0xffffffff }
def SVCCH_LEN : RegRow := { name := "SVC_LEN", win := 10, base := 0xd1014, n1 := 8, s1 := 0x40, rwi := 0xffffffff }
def SVCCH_STATUS : RegRow := { name := "SVC_STATUS", win := 10, base := 0xd1018, n1 := 8, s1 := 0x40, ro := 0x300000ff }
def SVCCH_EVENTS : RegRow := { name := "SVC_EVENTS", win := 10, base := 0xd101c, n1 := 8, s1 := 0x40, w1c := 0x1 }
def SVCCH_DONE_BYTES : RegRow := { name := "SVC_DONE_BYTES", win := 10, base := 0xd1020, n1 := 8, s1 := 0x40, ro := 0xffffffff }
def CLS_INFO_MOVER : RegRow := { name := "CLS_INFO", win := 10, base := 0xc0000, reset := 0x40, ro := 0xff }
def GRP_MASK_MOVER : RegRow := { name := "GRP_MASKg_Ww", win := 10, base := 0xc0100, n1 := 8, s1 := 0x10, n2 := 4, s2 := 4, rwi := 0xffffffff }

/-! TIME window -/
def TIME_CTRL : RegRow := { name := "TIME_CTRL", win := 11, base := 0x0, reset := 0x640400, rw := 0xff0f33 }
def TIME_STATUS : RegRow := { name := "TIME_STATUS", win := 11, base := 0x4, reset := 0x300, ro := 0xffff0f1b }
def TIME_EVENTS : RegRow := { name := "TIME_EVENTS", win := 11, base := 0x8, w1c := 0x1ff }
def TICK_PERIOD : RegRow := { name := "TICK_PERIOD", win := 11, base := 0x40, reset := 0x3d090, rw := 0x3fffff }
def TIME_STEP_LIMIT : RegRow := { name := "TIME_STEP_LIMIT", win := 11, base := 0xc, reset := 0x3e8, rw := 0xffffffff }
def TIME_SNAP_LIN_LO : RegRow := { name := "TIME_SNAP_LIN_LO", win := 11, base := 0x10, ro := 0xffffffff, half := .lo, view := .captured }
def TIME_SNAP_LIN_HI : RegRow := { name := "TIME_SNAP_LIN_HI", win := 11, base := 0x14, ro := 0xffffffff, half := .hi, view := .captured }
def TIME_SNAP_SEC_LO : RegRow := { name := "TIME_SNAP_SEC_LO", win := 11, base := 0x18, ro := 0xffffffff, half := .lo, view := .captured }
def TIME_SNAP_SEC_HI : RegRow := { name := "TIME_SNAP_SEC_HI", win := 11, base := 0x1c, ro := 0xffff, half := .hi, view := .captured }
def TIME_SNAP_NS : RegRow := { name := "TIME_SNAP_NS", win := 11, base := 0x20, ro := 0xffffffff, view := .captured }
def TIME_SNAP_FRAC : RegRow := { name := "TIME_SNAP_FRAC", win := 11, base := 0x24, ro := 0xffff, view := .captured }
def TIME_PENDING_OFFSET_LO : RegRow := { name := "TIME_PENDING_OFFSET_LO", win := 11, base := 0x28, ro := 0xffffffff, half := .lo }
def TIME_PENDING_OFFSET_HI : RegRow := { name := "TIME_PENDING_OFFSET_HI", win := 11, base := 0x2c, ro := 0xffffffff, half := .hi }
def TIME_FREQ_ADJ : RegRow := { name := "TIME_FREQ_ADJ", win := 11, base := 0x30, ro := 0xffffffff }
def TIME_UTC : RegRow := { name := "TIME_UTC", win := 11, base := 0x34, ro := 0xffff }
def SLEW_MAX : RegRow := { name := "SLEW_MAX", win := 11, base := 0x38, reset := 0x64, rw := 0xffffffff }
def TICK_NUM_LO : RegRow := { name := "TICK_NUM_LO", win := 11, base := 0x44, ro := 0xffffffff, half := .lo }
def TICK_NUM_HI : RegRow := { name := "TICK_NUM_HI", win := 11, base := 0x48, ro := 0xffffffff, half := .hi }
def TICK_PHASE_ERR : RegRow := { name := "TICK_PHASE_ERR", win := 11, base := 0x4c, ro := 0xffffffff }
def PPS_WIDTH : RegRow := { name := "PPS_WIDTH", win := 11, base := 0x50, reset := 0x5f5e100, rw := 0xffffffff }
def PPS_IN_DELAY : RegRow := { name := "PPS_IN_DELAY", win := 11, base := 0x54, rw := 0xffffffff }
def REF_IN_DELAY : RegRow := { name := "REF_IN_DELAY", win := 11, base := 0x58, rw := 0xffffffff }
def TC_CTRL : RegRow := { name := "TC_CTRL", win := 11, base := 0x60, rw := 0x197 }
def TC_LOCAL_OFFSET : RegRow := { name := "TC_LOCAL_OFFSET", win := 11, base := 0x64, rw := 0xffffffff }
def TP_DOMAIN : RegRow := { name := "TP_DOMAIN", win := 11, base := 0x68, rw := 0x17f }
def TP_SM_STATUS : RegRow := { name := "TP_SM_STATUS", win := 11, base := 0x70, ro := 0x80ffffff }
def TP_SM_LOCAL_OFFSET : RegRow := { name := "TP_SM_LOCAL_OFFSET", win := 11, base := 0x74, ro := 0xffffffff }
def TP_SM_NEXT_JAM_LO : RegRow := { name := "TP_SM_NEXT_JAM_LO", win := 11, base := 0x78, ro := 0xffffffff, half := .lo }
def TP_SM_NEXT_JAM_HI : RegRow := { name := "TP_SM_NEXT_JAM_HI", win := 11, base := 0x7c, ro := 0xffff, half := .hi }
def TP_SM_PREV_JAM_OFFSET : RegRow := { name := "TP_SM_PREV_JAM_OFFSET", win := 11, base := 0x80, ro := 0xffffffff }
def TP_SM_RATE_NUM : RegRow := { name := "TP_SM_RATE_NUM", win := 11, base := 0x84, ro := 0xffffffff }
def TP_SM_RATE_DEN : RegRow := { name := "TP_SM_RATE_DEN", win := 11, base := 0x88, ro := 0xffffffff }
def RTMR_CTRL : RegRow := { name := "RTMR_CTRL", win := 11, base := 0x10000, n1 := 16, s1 := 0x100, reset := 0x20000, rw := 0xfff0003 }
def TCMP_CTRL : RegRow := { name := "TCMP_CTRL", win := 11, base := 0x20000, n1 := 16, s1 := 0x100, reset := 0x10000, rwi := 0xff0f73 }
def TP_CTRL : RegRow := { name := "TP_CTRL", win := 11, base := 0x30000, n1 := 2, s1 := 0x1000, reset := 0x10, rw := 0x233 }
def TP_ASYM_NS : RegRow := { name := "TP_ASYM_NS", win := 11, base := 0x30004, n1 := 2, s1 := 0x1000, rw := 0xffffffff }
def TP_STATUS : RegRow := { name := "TP_STATUS", win := 11, base := 0x30008, n1 := 2, s1 := 0x1000, reset := 0x3, ro := 0xc000000f }
def TP_IPV4 : RegRow := { name := "TP_IPV4", win := 11, base := 0x3000c, n1 := 2, s1 := 0x1000, rw := 0xffffffff }
def TP_IPV6 : RegRow := { name := "TP_IPV6", win := 11, base := 0x30010, n1 := 2, s1 := 0x1000, n2 := 4, s2 := 0x4, rw := 0xffffffff }
def TP0_MAC_LO : RegRow := { name := "TP0_MAC_LO", win := 11, base := 0x30020, reset := Config.tpMacLo 0, rw := 0xffffffff, half := .lo }
def TP0_MAC_HI : RegRow := { name := "TP0_MAC_HI", win := 11, base := 0x30024, reset := Config.tpMacHi 0, rw := 0xffff, half := .hi }
def TP1_MAC_LO : RegRow := { name := "TP1_MAC_LO", win := 11, base := 0x31020, reset := Config.tpMacLo 1, rw := 0xffffffff, half := .lo }
def TP1_MAC_HI : RegRow := { name := "TP1_MAC_HI", win := 11, base := 0x31024, reset := Config.tpMacHi 1, rw := 0xffff, half := .hi }
def TP_GM_ID_LO : RegRow := { name := "TP_GM_ID_LO", win := 11, base := 0x30028, n1 := 2, s1 := 0x1000, ro := 0xffffffff, half := .lo }
def TP_GM_ID_HI : RegRow := { name := "TP_GM_ID_HI", win := 11, base := 0x3002c, n1 := 2, s1 := 0x1000, ro := 0xffffffff, half := .hi }
def TP_OFFSET_LO : RegRow := { name := "TP_OFFSET_LO", win := 11, base := 0x30030, n1 := 2, s1 := 0x1000, ro := 0xffffffff, half := .lo }
def TP_OFFSET_HI : RegRow := { name := "TP_OFFSET_HI", win := 11, base := 0x30034, n1 := 2, s1 := 0x1000, ro := 0xffffffff, half := .hi }
def TP_MEAN_DELAY : RegRow := { name := "TP_MEAN_DELAY", win := 11, base := 0x30038, n1 := 2, s1 := 0x1000, ro := 0xffffffff }
def TP_RX_PTP_CNT : RegRow := { name := "TP_RX_PTP_CNT", win := 11, base := 0x30040, n1 := 2, s1 := 0x1000, rc := 0xffffffff }
def TP_RX_DROP_CNT : RegRow := { name := "TP_RX_DROP_CNT", win := 11, base := 0x30044, n1 := 2, s1 := 0x1000, rc := 0xffffffff }
def TP_ANN_TO_CNT : RegRow := { name := "TP_ANN_TO_CNT", win := 11, base := 0x30048, n1 := 2, s1 := 0x1000, rc := 0xffffffff }
def RTMR_NUM : RegRow := { name := "RTMR_NUM", win := 11, base := 0x10004, n1 := 16, s1 := 0x100, reset := 0x1, rw := 0xffffffff }
def RTMR_DEN : RegRow := { name := "RTMR_DEN", win := 11, base := 0x10008, n1 := 16, s1 := 0x100, reset := 0x18, rw := 0xffffffff }
def RTMR_OFFSET : RegRow := { name := "RTMR_OFFSET", win := 11, base := 0x1000c, n1 := 16, s1 := 0x100, rw := 0xffffffff }
def RTMR_STATUS : RegRow := { name := "RTMR_STATUS", win := 11, base := 0x10010, n1 := 16, s1 := 0x100, ro := 0x3 }
def RTMR_ALIGN_ERR : RegRow := { name := "RTMR_ALIGN_ERR", win := 11, base := 0x10014, n1 := 16, s1 := 0x100, ro := 0xffffffff }
def RTMR_FRAME : RegRow := { name := "RTMR_FRAME", win := 11, base := 0x10018, n1 := 16, s1 := 0x100, ro := 0xffffffff }
def RTMR_NEXT_LO : RegRow := { name := "RTMR_NEXT_LO", win := 11, base := 0x10020, n1 := 16, s1 := 0x100, ro := 0xffffffff, half := .lo }
def RTMR_NEXT_HI : RegRow := { name := "RTMR_NEXT_HI", win := 11, base := 0x10024, n1 := 16, s1 := 0x100, ro := 0xffffffff, half := .hi }
def TCMP_TARGET_LO : RegRow := { name := "TCMP_TARGET_LO", win := 11, base := 0x20004, n1 := 16, s1 := 0x100, rwi := 0xffffffff, half := .lo }
def TCMP_TARGET_HI : RegRow := { name := "TCMP_TARGET_HI", win := 11, base := 0x20008, n1 := 16, s1 := 0x100, rwi := 0xffffffff, half := .hi }
def TCMP_PERIOD_LO : RegRow := { name := "TCMP_PERIOD_LO", win := 11, base := 0x2000c, n1 := 16, s1 := 0x100, rwi := 0xffffffff, half := .lo }
def TCMP_PERIOD_HI : RegRow := { name := "TCMP_PERIOD_HI", win := 11, base := 0x20010, n1 := 16, s1 := 0x100, rwi := 0xffffffff, half := .hi }
def TCMP_STATUS : RegRow := { name := "TCMP_STATUS", win := 11, base := 0x20014, n1 := 16, s1 := 0x100, ro := 0xffff0000, w1c := 0x3 }

/-! MOTION window -/
def MCH_CTRL : RegRow := { name := "MCH_CTRL", win := 12, base := 0x0, n1 := 24, s1 := 0x1000, reset := 0x200, rw := 0x8ff73f1f }
def MCH_STATUS : RegRow := { name := "MCH_STATUS", win := 12, base := 0x20, n1 := 24, s1 := 0x1000, ro := 0x3fe7 }
def MCH_TIMING : RegRow := { name := "MCH_TIMING", win := 12, base := 0x4, n1 := 24, s1 := 0x1000, reset := 0x6402710, rw := 0xffffffff }
def MCH_SERIAL : RegRow := { name := "MCH_SERIAL", win := 12, base := 0x8, n1 := 24, s1 := 0x1000, reset := 0x640a18, rw := 0xffffff3f }
def MCH_SINCOS : RegRow := { name := "MCH_SINCOS", win := 12, base := 0xc, n1 := 24, s1 := 0x1000, reset := 0x4000000c, rw := 0xffff000f }
def MCH_AMP_WIN : RegRow := { name := "MCH_AMP_WIN", win := 12, base := 0x10, n1 := 24, s1 := 0x1000, reset := 0x64001000, rw := 0xffffffff }
def MCH_SIN_OFS : RegRow := { name := "MCH_SIN_OFS", win := 12, base := 0x14, n1 := 24, s1 := 0x1000, rw := 0xffffffff }
def MCH_COS_GAIN : RegRow := { name := "MCH_COS_GAIN", win := 12, base := 0x18, n1 := 24, s1 := 0x1000, reset := 0x8000, rw := 0xffff }
def MCH_EVENTS : RegRow := { name := "MCH_EVENTS", win := 12, base := 0x24, n1 := 24, s1 := 0x1000, w1c := 0xff }
def MCH_POS_LO : RegRow := { name := "MCH_POS_LO", win := 12, base := 0x28, n1 := 24, s1 := 0x1000, ro := 0xffffffff, half := .lo }
def MCH_POS_HI : RegRow := { name := "MCH_POS_HI", win := 12, base := 0x2c, n1 := 24, s1 := 0x1000, ro := 0xffffffff, half := .hi }
def MCH_SPEED_LO : RegRow := { name := "MCH_SPEED_LO", win := 12, base := 0x30, n1 := 24, s1 := 0x1000, ro := 0xffffffff, half := .lo }
def MCH_SPEED_HI : RegRow := { name := "MCH_SPEED_HI", win := 12, base := 0x34, n1 := 24, s1 := 0x1000, ro := 0xffff, half := .hi }
def MCH_SET_POS_LO : RegRow := { name := "MCH_SET_POS_LO", win := 12, base := 0x38, n1 := 24, s1 := 0x1000, rwi := 0xffffffff, half := .lo }
def MCH_SET_POS_HI : RegRow := { name := "MCH_SET_POS_HI", win := 12, base := 0x3c, n1 := 24, s1 := 0x1000, rwi := 0xffffffff, half := .hi }
def MCH_INDEX_POS_LO : RegRow := { name := "MCH_INDEX_POS_LO", win := 12, base := 0x40, n1 := 24, s1 := 0x1000, rw := 0xffffffff, half := .lo }
def MCH_INDEX_POS_HI : RegRow := { name := "MCH_INDEX_POS_HI", win := 12, base := 0x44, n1 := 24, s1 := 0x1000, rw := 0xffffffff, half := .hi }
def MCH_INDEX_PERIOD : RegRow := { name := "MCH_INDEX_PERIOD", win := 12, base := 0x48, n1 := 24, s1 := 0x1000, rw := 0xffffffff }
def MCH_IDX_DIFF : RegRow := { name := "MCH_IDX_DIFF", win := 12, base := 0x4c, n1 := 24, s1 := 0x1000, ro := 0xffffffff }
def MCH_OFFSET_LO : RegRow := { name := "MCH_OFFSET_LO", win := 12, base := 0x50, n1 := 24, s1 := 0x1000, rw := 0xffffffff, half := .lo }
def MCH_OFFSET_HI : RegRow := { name := "MCH_OFFSET_HI", win := 12, base := 0x54, n1 := 24, s1 := 0x1000, rw := 0xffffffff, half := .hi }
def MCH_LATCH_DELAY : RegRow := { name := "MCH_LATCH_DELAY", win := 12, base := 0x58, n1 := 24, s1 := 0x1000, rw := 0xffffffff }
def MCH_ERR_CNT : RegRow := { name := "MCH_ERR_CNT", win := 12, base := 0x5c, n1 := 24, s1 := 0x1000, rc := 0xffffffff }
def CMP_CTRL : RegRow := { name := "CMP_CTRL", win := 12, base := 0xd0000, n1 := 32, s1 := 0x100, reset := 0x1000010, rwi := 0xfff11f37 }
def CMP_TARGET_LO : RegRow := { name := "CMP_TARGET_LO", win := 12, base := 0xd0004, n1 := 32, s1 := 0x100, rwi := 0xffffffff, half := .lo }
def CMP_TARGET_HI : RegRow := { name := "CMP_TARGET_HI", win := 12, base := 0xd0008, n1 := 32, s1 := 0x100, rwi := 0xffffffff, half := .hi }
def CMP_PERIOD_LO : RegRow := { name := "CMP_PERIOD_LO", win := 12, base := 0xd000c, n1 := 32, s1 := 0x100, rwi := 0xffffffff, half := .lo }
def CMP_PERIOD_HI : RegRow := { name := "CMP_PERIOD_HI", win := 12, base := 0xd0010, n1 := 32, s1 := 0x100, rwi := 0xffffffff, half := .hi }
def CMP_TABLE : RegRow := { name := "CMP_TABLE", win := 12, base := 0xd0014, n1 := 32, s1 := 0x100, rwi := 0xffffffff }
def CMP_TBL_IDX : RegRow := { name := "CMP_TBL_IDX", win := 12, base := 0xd0018, n1 := 32, s1 := 0x100, ro := 0xffffffff }
def CMP_STATUS : RegRow := { name := "CMP_STATUS", win := 12, base := 0xd001c, n1 := 32, s1 := 0x100, ro := 0xffff0000, w1c := 0x7 }
def CMP_FIRE_CNT : RegRow := { name := "CMP_FIRE_CNT", win := 12, base := 0xd0020, n1 := 32, s1 := 0x100, rc := 0xffffffff }
def ECHO_CTRL : RegRow := { name := "ECHO_CTRL", win := 12, base := 0xd2000, n1 := 8, s1 := 0x40, reset := 0x500, rw := 0x1fff03 }
def ECHO_RATIO : RegRow := { name := "ECHO_RATIO", win := 12, base := 0xd2004, n1 := 8, s1 := 0x40, reset := 0x10001, rw := 0xffffffff }
def ECHO_STATUS : RegRow := { name := "ECHO_STATUS", win := 12, base := 0xd2008, n1 := 8, s1 := 0x40, ro := 0x8001ffff }
def ECHO_LOST_CNT : RegRow := { name := "ECHO_LOST_CNT", win := 12, base := 0xd200c, n1 := 8, s1 := 0x40, rc := 0xffffffff }
def PRB_CTRL : RegRow := { name := "PRB_CTRL", win := 12, base := 0xd3000, n1 := 8, s1 := 0x40, rwi := 0x1f1f0f }
def PRB_STATUS : RegRow := { name := "PRB_STATUS", win := 12, base := 0xd3004, n1 := 8, s1 := 0x40, ro := 0xff, w1c := 0x80000000 }
def PRB_TIME_LO : RegRow := { name := "PRB_TIME_LO", win := 12, base := 0xd3008, n1 := 8, s1 := 0x40, ro := 0xffffffff, half := .lo }
def PRB_TIME_HI : RegRow := { name := "PRB_TIME_HI", win := 12, base := 0xd300c, n1 := 8, s1 := 0x40, ro := 0xffffffff, half := .hi }
def PRB_POS0_LO : RegRow := { name := "PRB_POS0_LO", win := 12, base := 0xd3010, n1 := 8, s1 := 0x40, ro := 0xffffffff, half := .lo }
def PRB_POS0_HI : RegRow := { name := "PRB_POS0_HI", win := 12, base := 0xd3014, n1 := 8, s1 := 0x40, ro := 0xffffffff, half := .hi }
def PRB_POS1_LO : RegRow := { name := "PRB_POS1_LO", win := 12, base := 0xd3018, n1 := 8, s1 := 0x40, ro := 0xffffffff, half := .lo }
def PRB_POS1_HI : RegRow := { name := "PRB_POS1_HI", win := 12, base := 0xd301c, n1 := 8, s1 := 0x40, ro := 0xffffffff, half := .hi }
def RIG_TRIG : RegRow := { name := "RIG_TRIG", win := 12, base := 0xd4000, n1 := 16, s1 := 0x40, reset := 0x3f003f, rw := 0x3f013f }
def RIG_TRIG_PRE : RegRow := { name := "RIG_TRIG_PRE", win := 12, base := 0xd4004, n1 := 16, s1 := 0x40, rw := 0xffff }
def RIG_TRIG_POST : RegRow := { name := "RIG_TRIG_POST", win := 12, base := 0xd4008, n1 := 16, s1 := 0x40, rw := 0xffffffff }
def RIG_TRIG_STATUS : RegRow := { name := "RIG_TRIG_STATUS", win := 12, base := 0xd400c, n1 := 16, s1 := 0x40, ro := 0x1 }
def RIG_TRIG_SKIP_CNT : RegRow := { name := "RIG_TRIG_SKIP_CNT", win := 12, base := 0xd4010, n1 := 16, s1 := 0x40, rc := 0xffffffff }
def RIG_BURST_IGN_CNT : RegRow := { name := "RIG_BURST_IGN_CNT", win := 12, base := 0xd4014, n1 := 16, s1 := 0x40, rc := 0xffffffff }
def RIG_MS_CTRL : RegRow := { name := "RIG_MS_CTRL", win := 12, base := 0xd4018, n1 := 16, s1 := 0x40, reset := 0x10, rw := 0x1f }
def RIG_MS_CHMASK : RegRow := { name := "RIG_MS_CHMASK", win := 12, base := 0xd401c, n1 := 16, s1 := 0x40, rw := 0xffffff }
def RIG_MS_OFFSET : RegRow := { name := "RIG_MS_OFFSET", win := 12, base := 0xd4020, n1 := 16, s1 := 0x40, rw := 0xffffffff }
def RIG_MS_SPAN : RegRow := { name := "RIG_MS_SPAN", win := 12, base := 0xd4024, n1 := 16, s1 := 0x40, rw := 0xffffffff }
def TRIG_IN_EDGE : RegRow := { name := "TRIG_IN_EDGE", win := 12, base := 0xd5000, rw := 0xffffffff }
def TRIG_IN_FILT : RegRow := { name := "TRIG_IN_FILT", win := 12, base := 0xd5004, reset := 0x2, rw := 0xf }
def TRIG_OUT_POL : RegRow := { name := "TRIG_OUT_POL", win := 12, base := 0xd5008, rw := 0xffff }
def CLS_INFO_MOTION : RegRow := { name := "CLS_INFO", win := 12, base := 0xc0000, reset := 0x18, ro := 0xff }
def GRP_MASK_MOTION : RegRow := { name := "GRP_MASKg_Ww", win := 12, base := 0xc0100, n1 := 8, s1 := 0x10, n2 := 4, s2 := 4, rwi := 0xffffffff }

/-! CRYPTO window -/
def CE_STATUS : RegRow := { name := "CE_STATUS", win := 13, base := 0x0, n1 := 18, s1 := 0x1000, ro := 0xff000087 }
def SEC_STATUS : RegRow := { name := "SEC_STATUS", win := 13, base := 0xd0000, reset := 0x40000000, ro := 0xf3ff01ff }
def SEC_EVENTS : RegRow := { name := "SEC_EVENTS", win := 13, base := 0xd0004, w1c := 0x1ff }
def SEC_TAMPER_CTRL : RegRow := { name := "SEC_TAMPER_CTRL", win := 13, base := 0xd0008, reset := 0xa0a0000, rwi := 0xffff00f3 }
def CE_BYTES_LO : RegRow := { name := "CE_BYTES_LO", win := 13, base := 0x4, n1 := 18, s1 := 0x1000, ro := 0xffffffff, half := .lo }
def CE_BYTES_HI : RegRow := { name := "CE_BYTES_HI", win := 13, base := 0x8, n1 := 18, s1 := 0x1000, ro := 0xffffffff, half := .hi }
def CE_KAT_CNT : RegRow := { name := "CE_KAT_CNT", win := 13, base := 0xc, n1 := 18, s1 := 0x1000, ro := 0xffffffff }
def SEC_SELFTEST_CTRL : RegRow := { name := "SEC_SELFTEST_CTRL", win := 13, base := 0xd000c, reset := 0xa0258, rwi := 0xffffff }
def SEC_AUTH_FAIL_CNT : RegRow := { name := "SEC_AUTH_FAIL_CNT", win := 13, base := 0xd0010, rc := 0xffffffff }
def SEC_ZEROIZE_CNT : RegRow := { name := "SEC_ZEROIZE_CNT", win := 13, base := 0xd0014, ro := 0xffffffff }
def SEC_SVN_FLOOR : RegRow := { name := "SEC_SVN_FLOOR", win := 13, base := 0xd0018, ro := 0xffffffff }
def SEC_FW_VERSION_A : RegRow := { name := "SEC_FW_VERSION_A", win := 13, base := 0xd001c, ro := 0xffffffff }
def SEC_FW_VERSION_B : RegRow := { name := "SEC_FW_VERSION_B", win := 13, base := 0xd0020, ro := 0xffffffff }
def SEC_TAKE_FLOOR : RegRow := { name := "SEC_TAKE_FLOOR", win := 13, base := 0xd0024, n1 := 3, s1 := 0x4, ro := 0xffffffff }
def SEC_DIK_ID : RegRow := { name := "SEC_DIK_ID", win := 13, base := 0xd0040, n1 := 12, s1 := 0x4, ro := 0xffffffff }
def SEC_OWK_ID : RegRow := { name := "SEC_OWK_ID", win := 13, base := 0xd0080, n1 := 12, s1 := 0x4, ro := 0xffffffff }
def CLS_INFO_CRYPTO : RegRow := { name := "CLS_INFO", win := 13, base := 0xc0000, reset := 0x12, ro := 0xff }
def GRP_MASK_CRYPTO : RegRow := { name := "GRP_MASKg_Ww", win := 13, base := 0xc0100, n1 := 8, s1 := 0x10, n2 := 4, s2 := 4, rwi := 0xffffffff }

/-! CONFIG window -/
def CFG_STATUS : RegRow := { name := "CFG_STATUS", win := 14, base := 0x0, ro := 0x3f }
def CFG_PROB_CTRL : RegRow := { name := "CFG_PROB_CTRL", win := 14, base := 0x10, reset := 0xfa0804f, rw := 0xffff80ff }
def TOBJ_CTRL : RegRow := { name := "TOBJ_CTRL", win := 14, base := 0x10000, rwi := 0xf000000, w1s := 0x80000000 }
def CFG_ACTIVE_VER : RegRow := { name := "CFG_ACTIVE_VER", win := 14, base := 0x4, ro := 0xffffffff }
def CFG_PREV_VER : RegRow := { name := "CFG_PREV_VER", win := 14, base := 0x8, ro := 0xffffffff }
def CFG_FAILED_VER : RegRow := { name := "CFG_FAILED_VER", win := 14, base := 0xc, ro := 0xffffffff }
def CFG_PROB_LEFT : RegRow := { name := "CFG_PROB_LEFT", win := 14, base := 0x14, ro := 0xffffffff }
def CFG_FB_CAUSE : RegRow := { name := "CFG_FB_CAUSE", win := 14, base := 0x18, ro := 0x1ff }
def CFG_PEEK_ADDR : RegRow := { name := "CFG_PEEK_ADDR", win := 14, base := 0x20, rwi := 0x80fffffc }
def CFG_PEEK_DATA : RegRow := { name := "CFG_PEEK_DATA", win := 14, base := 0x24, ro := 0xffffffff, view := .captured }
def CFG_COMMIT_CNT : RegRow := { name := "CFG_COMMIT_CNT", win := 14, base := 0x30, rc := 0xffffffff }
def CFG_INVALID_CNT : RegRow := { name := "CFG_INVALID_CNT", win := 14, base := 0x34, rc := 0xffffffff }
def CFG_FALLBACK_CNT : RegRow := { name := "CFG_FALLBACK_CNT", win := 14, base := 0x38, rc := 0xffffffff }
def TOBJ_HANDLE : RegRow := { name := "TOBJ_HANDLE", win := 14, base := 0x10004, rwi := 0xffffffff }
def TOBJ_SIZE : RegRow := { name := "TOBJ_SIZE", win := 14, base := 0x10008, rwi := 0xffffffff }
def TOBJ_RESULT : RegRow := { name := "TOBJ_RESULT", win := 14, base := 0x1000c, ro := 0xff }
def TOBJ_RESULT_HANDLE : RegRow := { name := "TOBJ_RESULT_HANDLE", win := 14, base := 0x10010, ro := 0xffffffff }
def TOBJ_HEAP_FREE : RegRow := { name := "TOBJ_HEAP_FREE", win := 14, base := 0x10014, ro := 0xffffffff }
def TOBJ_DIGEST : RegRow := { name := "TOBJ_DIGEST", win := 14, base := 0x10040, n1 := 12, s1 := 0x4, rwi := 0xffffffff }
def TOBJ_DIR_INFO : RegRow := { name := "TOBJ_DIR_INFO", win := 14, base := 0x20000, n1 := 4096, s1 := 0x10, ro := 0xffff0013 }
def TOBJ_DIR_SIZE : RegRow := { name := "TOBJ_DIR_SIZE", win := 14, base := 0x20004, n1 := 4096, s1 := 0x10, ro := 0xffffffff }
def TOBJ_DIR_DIGEST : RegRow := { name := "TOBJ_DIR_DIGEST", win := 14, base := 0x20008, n1 := 4096, s1 := 0x10, wo := 0xffffffff }

/-! SERVICE window -/
def SVC_CTRL : RegRow := { name := "SVC_CTRL", win := 15, base := 0x0, reset := 0x2580201, rw := 0xffffff03 }
def SVC_SPARES : RegRow := { name := "SVC_SPARES", win := 15, base := 0x4, reset := 0x422, rw := 0xfff }
def SVC_HEALTH : RegRow := { name := "SVC_HEALTH", win := 15, base := 0x8, ro := 0x80ffffff }
def SVC_EVENTS : RegRow := { name := "SVC_EVENTS", win := 15, base := 0xc, w1c := 0x3f }
def SVC_THERM_DIE : RegRow := { name := "SVC_THERM_DIE", win := 15, base := 0x10, reset := Config.thermDieReset, rw := 0xffffffff }
def SVC_THERM_HBM : RegRow := { name := "SVC_THERM_HBM", win := 15, base := 0x14, reset := 0x5f5a55, rw := 0xffffff }
def SVC_USTATE : RegRow := { name := "SVC_USTATE", win := 15, base := 0x10000, n1 := 19, s1 := 0x200, n2 := 128, s2 := 0x4, ro := 0xffff0007 }
def SVC_THERM_STATUS : RegRow := { name := "SVC_THERM_STATUS", win := 15, base := 0x18, ro := 0xffff1f0f }
def SVC_TEMP : RegRow := { name := "SVC_TEMP", win := 15, base := 0x40, n1 := 32, s1 := 0x4, ro := 0xffff }
def SVC_TELEM_SEL : RegRow := { name := "SVC_TELEM_SEL", win := 15, base := 0xc0, rwi := 0xffffffff }
def SVC_TELEM_DATA : RegRow := { name := "SVC_TELEM_DATA", win := 15, base := 0xc4, ro := 0xffffffff }
def SVC_LOG_HEAD : RegRow := { name := "SVC_LOG_HEAD", win := 15, base := 0x100, ro := 0xffffffff }
def SVC_LOG_SEL : RegRow := { name := "SVC_LOG_SEL", win := 15, base := 0x104, rwi := 0xffffffff }
def SVC_LOG_INFO : RegRow := { name := "SVC_LOG_INFO", win := 15, base := 0x108, ro := 0x80000000 }
def SVC_LOG_DATA : RegRow := { name := "SVC_LOG_DATA", win := 15, base := 0x120, n1 := 8, s1 := 0x4, ro := 0xffffffff }
def SVC_LOCKSTEP_CNT : RegRow := { name := "SVC_LOCKSTEP_CNT", win := 15, base := 0x140, rc := 0xffffffff }
def SVC_FATAL_CNT : RegRow := { name := "SVC_FATAL_CNT", win := 15, base := 0x144, ro := 0xffffffff }

end Reg

/-- The registers of each window. -/
def windowRows : Nat → List RegRow
  | 0 =>
    [Reg.STEW_STATUS, Reg.STEW_CTRL, Reg.HEARTBEAT, Reg.STEW_SUCC, Reg.HB_PERIOD, Reg.DEV_ID, Reg.DEV_REV, Reg.BOOT_STATUS, Reg.DEVICE_MODE, Reg.DEV_STATUS, Reg.ACCESS_STATUS, Reg.DEV_SERIAL_LO] ++
    [Reg.DEV_SERIAL_HI, Reg.DEV_FW_VERSION, Reg.ACCESS_ADDR, Reg.CDC_OVF, Reg.RIG_STATUS]
  | 1 =>
    [Reg.HP_CTRL, Reg.HP_STATUS, Reg.HP_EVENTS, Reg.HP_CPL_TIMEOUT, Reg.HP_DB_FOREIGN_CNT, Reg.HP_RIGHTS_CNT, Reg.HP_DENIED_CNT, Reg.HP_CPL_TO_CNT, Reg.HP_RESET_CNT, Reg.HP_TX_BYTES_LO, Reg.HP_TX_BYTES_HI, Reg.HP_RX_BYTES_LO] ++
    [Reg.HP_RX_BYTES_HI]
  | 2 =>
    [Reg.RING_OWN, Reg.RING_CTRL, Reg.RING_STATUS, Reg.RING_EVENTS, Reg.RING_BASE_LO, Reg.RING_BASE_HI, Reg.RING_DEV_CNT, Reg.RING_DB_CNT, Reg.RING_EVT_MASK, Reg.RING_ERR_ADDR_LO, Reg.RING_ERR_ADDR_HI, Reg.RING_EVT_LOST_CNT] ++
    [Reg.RING_DB_BAD_CNT]
  | 3 =>
    [Reg.PLN_CTRL, Reg.PLN_STATUS, Reg.PLN_EVENTS, Reg.PLN_RES_SEL, Reg.PLN_RES_CAP_LO, Reg.PLN_RES_CAP_HI, Reg.PLN_RES_ADMIT_LO, Reg.PLN_RES_ADMIT_HI, Reg.PLN_RES_RSVD_LO, Reg.PLN_RES_RSVD_HI, Reg.PLN_RES_USED_LO, Reg.PLN_RES_USED_HI] ++
    [Reg.PLN_RES_CARRY_LO, Reg.PLN_RES_CARRY_HI, Reg.PLN_OVERRUN_CNT, Reg.PLN_SHED_E_CNT, Reg.PLN_SHED_D_CNT, Reg.PLN_DEFER_C_CNT, Reg.PLN_REFUSE_CNT, Reg.PLN_SVC_RATE]
  | 4 =>
    [Reg.LANE_CTRL, Reg.LANE_STATUS, Reg.LANE_EVENTS, Reg.LANE_TX_FFE, Reg.LANE_TRAIN_CTRL, Reg.LANE_EQ_CTRL, Reg.LANE_PRBS_CTRL, Reg.LANE_INJ_CTRL, Reg.LANE_SNR, Reg.LANE_CW_CNT_LO, Reg.LANE_CW_CNT_HI, Reg.LANE_CORR_SYM_LO] ++
    [Reg.LANE_CORR_SYM_HI, Reg.LANE_UNCORR_CNT_LO, Reg.LANE_UNCORR_CNT_HI, Reg.LANE_PRBS_BITS_LO, Reg.LANE_PRBS_BITS_HI, Reg.LANE_PRBS_ERR_LO, Reg.LANE_PRBS_ERR_HI, Reg.LANE_SWAP_CNT, Reg.LANE_LOST_CW, Reg.HDP_CTRL, Reg.LANE_FAR_FFE, Reg.HDP_STATUS] ++
    [Reg.CLS_INFO_LANE, Reg.GRP_MASK_LANE]
  | 5 =>
    [Reg.HL_CTRL, Reg.HL_STATUS, Reg.HL_EVENTS, Reg.HL_DELAY, Reg.HL_ASYM, Reg.HL_REG_TIMEOUT, Reg.HL_CAP_ID, Reg.HL_CAP_SERIAL_LO, Reg.HL_CAP_SERIAL_HI, Reg.HL_MIN_LEAD, Reg.HL_CRC_ERR_CNT, Reg.HL_LOST_CELL_CNT] ++
    [Reg.HL_CREDIT_ERR_CNT, Reg.HL_TRIG_NAK_CNT, Reg.HL_SETTINGS_NAK_CNT, Reg.HL_REG_TIMEOUT_CNT, Reg.HL_UNEXPECTED_CNT, Reg.HL_CAP_TL_LO, Reg.HL_CAP_TL_HI, Reg.CLS_INFO_HEADLINK, Reg.GRP_MASK_HEADLINK]
  | 6 =>
    [Reg.ST_CTRL, Reg.ST_FMT, Reg.ST_GEOM, Reg.ST_CANARY, Reg.ST_STATUS, Reg.ST_EVENTS, Reg.ST_FS_WINDOW, Reg.ST_FE_WINDOW, Reg.ST_LATE_PKT_CNT, Reg.ST_DUP_LINE_CNT, Reg.ST_LAST_FRAME, Reg.ST_PIPE] ++
    [Reg.ST_BLACK, Reg.ST_OB, Reg.ST_LEVELS, Reg.ST_PV_SCALE, Reg.ST_PIPE_STATUS, Reg.ST_PIPE_EVENTS, Reg.ST_DEFECT_TBL, Reg.ST_DEFECT_CONST, Reg.ST_FLAT_TBL, Reg.ST_PV_CCM0, Reg.ST_PV_CCM1, Reg.ST_PV_CCM2] ++
    [Reg.ST_PV_CCM3, Reg.ST_PV_CCM4, Reg.ST_LINEBUF_DROP_CNT, Reg.ST_PV_SHED_CNT, Reg.ST_STORE, Reg.ST_STORE_STATUS, Reg.ST_STARVED_CNT, Reg.CLS_INFO_STREAM, Reg.GRP_MASK_STREAM]
  | 7 =>
    [Reg.PU_STATUS, Reg.PU_LINES_LO, Reg.PU_LINES_HI, Reg.PU_BUSY_LO, Reg.PU_BUSY_HI, Reg.PU_TICK_CYCLES, Reg.PU_STREAM_MAP_LO, Reg.PU_STREAM_MAP_HI, Reg.PV_LOOK_CTRL, Reg.PV_LOOK_1D, Reg.PV_LOOK_3D, Reg.CLS_INFO_PU] ++
    [Reg.GRP_MASK_PU]
  | 8 =>
    [Reg.STORE_CTRL, Reg.STORE_STATUS, Reg.STORE_EVENTS, Reg.STORE_POOL_PAGES, Reg.STORE_FREE_PAGES, Reg.STORE_LIVE_RECORDS, Reg.STORE_RETIRED_PAGES, Reg.STORE_WM_SPILL, Reg.STORE_WM_BACKLOG, Reg.STORE_WM_CRIT, Reg.STORE_HEAP_FREE, Reg.STORE_ROW_THRESH] ++
    [Reg.STORE_STARVED_CNT, Reg.STORE_REC_MISS_CNT, Reg.STORE_SPILL_OUT_CNT, Reg.STORE_SPILL_IN_CNT, Reg.STORE_SPILL_FAIL_CNT, Reg.STORE_CE_CNT, Reg.STORE_UE_CNT, Reg.STORE_FR_SEL, Reg.STORE_FR_FRAME, Reg.STORE_FR_INFO, Reg.STORE_FR_SLOT, Reg.PC_STATUS] ++
    [Reg.PC_FREE_PAGES, Reg.PC_LIVE_PAGES, Reg.PC_CE_CNT, Reg.PC_UE_CNT, Reg.PC_RETIRED_PAGES, Reg.PC_BYTES_LO, Reg.PC_BYTES_HI, Reg.SPW_CTRL, Reg.SPW_BASE_LO, Reg.SPW_BASE_HI, Reg.SPW_PAGES, Reg.SPW_RATE] ++
    [Reg.SPW_STATUS, Reg.SPW_FRAMES, Reg.RIG_PREROLL, Reg.RIG_BURST_PAGES, Reg.RIG_PREROLL_HELD, Reg.RIG_BURST_USED, Reg.RIG_BURST_OVF, Reg.CLS_INFO_STORE, Reg.GRP_MASK_STORE]
  | 9 =>
    [Reg.MB_CTRL, Reg.MB_CMD_TIMEOUT, Reg.MB_RELAY_CNT, Reg.MB_EMERG_CNT, Reg.MB_RETRY_CNT, Reg.BAY_CTRL, Reg.BAY_STATUS, Reg.BAY_EVENTS, Reg.MBS_STATUS, Reg.MBS_EVENTS, Reg.MBS_RATE, Reg.MBS_RATE_CAP] ++
    [Reg.MBS_BLOCKS_LO, Reg.MBS_BLOCKS_HI, Reg.MBS_WR_BYTES_LO, Reg.MBS_WR_BYTES_HI, Reg.MBS_ERR_CNT, Reg.MBS_TEMP, Reg.MBS_PCT_USED, Reg.MSET_CTRL, Reg.MSET_STATUS, Reg.MSET_CLAIMS, Reg.MSET_FREE_CLAIMS, Reg.RREC_CTRL] ++
    [Reg.RREC_OFFLOAD, Reg.RREC_STATUS, Reg.RREC_SEG_FIRST, Reg.RREC_TAKE_ID, Reg.RREC_LAST_WRITTEN, Reg.RREC_BACKLOG, Reg.RREC_LOST_FRAMES, Reg.CLS_INFO_MAGAZINE, Reg.GRP_MASK_MAGAZINE]
  | 10 =>
    [Reg.MV_STATUS, Reg.MV_ERR_INFO, Reg.MV_ERR_ADDR_LO, Reg.MV_ERR_ADDR_HI, Reg.MV_BYTES_LO, Reg.MV_BYTES_HI, Reg.MV_WORK_ID, Reg.MV_ERR_CNT, Reg.SUB_CTRL, Reg.SUB_STREAMS_LO, Reg.SUB_STREAMS_HI, Reg.SUB_PAYLOAD_BYTES] ++
    [Reg.SUB_STATUS, Reg.SUB_EVENTS, Reg.SUB_SKIP_CNT, Reg.SUB_DELIVERED_CNT, Reg.SVCCH_CTRL, Reg.SVCCH_HOST_LO, Reg.SVCCH_HOST_HI, Reg.SVCCH_OBJ, Reg.SVCCH_OFFSET, Reg.SVCCH_LEN, Reg.SVCCH_STATUS, Reg.SVCCH_EVENTS] ++
    [Reg.SVCCH_DONE_BYTES, Reg.CLS_INFO_MOVER, Reg.GRP_MASK_MOVER]
  | 11 =>
    [Reg.TIME_CTRL, Reg.TIME_STATUS, Reg.TIME_EVENTS, Reg.TICK_PERIOD, Reg.TIME_STEP_LIMIT, Reg.TIME_SNAP_LIN_LO, Reg.TIME_SNAP_LIN_HI, Reg.TIME_SNAP_SEC_LO, Reg.TIME_SNAP_SEC_HI, Reg.TIME_SNAP_NS, Reg.TIME_SNAP_FRAC, Reg.TIME_PENDING_OFFSET_LO] ++
    [Reg.TIME_PENDING_OFFSET_HI, Reg.TIME_FREQ_ADJ, Reg.TIME_UTC, Reg.SLEW_MAX, Reg.TICK_NUM_LO, Reg.TICK_NUM_HI, Reg.TICK_PHASE_ERR, Reg.PPS_WIDTH, Reg.PPS_IN_DELAY, Reg.REF_IN_DELAY, Reg.TC_CTRL, Reg.TC_LOCAL_OFFSET] ++
    [Reg.TP_DOMAIN, Reg.TP_SM_STATUS, Reg.TP_SM_LOCAL_OFFSET, Reg.TP_SM_NEXT_JAM_LO, Reg.TP_SM_NEXT_JAM_HI, Reg.TP_SM_PREV_JAM_OFFSET, Reg.TP_SM_RATE_NUM, Reg.TP_SM_RATE_DEN, Reg.RTMR_CTRL, Reg.TCMP_CTRL, Reg.TP_CTRL, Reg.TP_ASYM_NS] ++
    [Reg.TP_STATUS, Reg.TP_IPV4, Reg.TP_IPV6, Reg.TP0_MAC_LO, Reg.TP0_MAC_HI, Reg.TP1_MAC_LO, Reg.TP1_MAC_HI, Reg.TP_GM_ID_LO, Reg.TP_GM_ID_HI, Reg.TP_OFFSET_LO, Reg.TP_OFFSET_HI, Reg.TP_MEAN_DELAY] ++
    [Reg.TP_RX_PTP_CNT, Reg.TP_RX_DROP_CNT, Reg.TP_ANN_TO_CNT, Reg.RTMR_NUM, Reg.RTMR_DEN, Reg.RTMR_OFFSET, Reg.RTMR_STATUS, Reg.RTMR_ALIGN_ERR, Reg.RTMR_FRAME, Reg.RTMR_NEXT_LO, Reg.RTMR_NEXT_HI, Reg.TCMP_TARGET_LO] ++
    [Reg.TCMP_TARGET_HI, Reg.TCMP_PERIOD_LO, Reg.TCMP_PERIOD_HI, Reg.TCMP_STATUS]
  | 12 =>
    [Reg.MCH_CTRL, Reg.MCH_STATUS, Reg.MCH_TIMING, Reg.MCH_SERIAL, Reg.MCH_SINCOS, Reg.MCH_AMP_WIN, Reg.MCH_SIN_OFS, Reg.MCH_COS_GAIN, Reg.MCH_EVENTS, Reg.MCH_POS_LO, Reg.MCH_POS_HI, Reg.MCH_SPEED_LO] ++
    [Reg.MCH_SPEED_HI, Reg.MCH_SET_POS_LO, Reg.MCH_SET_POS_HI, Reg.MCH_INDEX_POS_LO, Reg.MCH_INDEX_POS_HI, Reg.MCH_INDEX_PERIOD, Reg.MCH_IDX_DIFF, Reg.MCH_OFFSET_LO, Reg.MCH_OFFSET_HI, Reg.MCH_LATCH_DELAY, Reg.MCH_ERR_CNT, Reg.CMP_CTRL] ++
    [Reg.CMP_TARGET_LO, Reg.CMP_TARGET_HI, Reg.CMP_PERIOD_LO, Reg.CMP_PERIOD_HI, Reg.CMP_TABLE, Reg.CMP_TBL_IDX, Reg.CMP_STATUS, Reg.CMP_FIRE_CNT, Reg.ECHO_CTRL, Reg.ECHO_RATIO, Reg.ECHO_STATUS, Reg.ECHO_LOST_CNT] ++
    [Reg.PRB_CTRL, Reg.PRB_STATUS, Reg.PRB_TIME_LO, Reg.PRB_TIME_HI, Reg.PRB_POS0_LO, Reg.PRB_POS0_HI, Reg.PRB_POS1_LO, Reg.PRB_POS1_HI, Reg.RIG_TRIG, Reg.RIG_TRIG_PRE, Reg.RIG_TRIG_POST, Reg.RIG_TRIG_STATUS] ++
    [Reg.RIG_TRIG_SKIP_CNT, Reg.RIG_BURST_IGN_CNT, Reg.RIG_MS_CTRL, Reg.RIG_MS_CHMASK, Reg.RIG_MS_OFFSET, Reg.RIG_MS_SPAN, Reg.TRIG_IN_EDGE, Reg.TRIG_IN_FILT, Reg.TRIG_OUT_POL, Reg.CLS_INFO_MOTION, Reg.GRP_MASK_MOTION]
  | 13 =>
    [Reg.CE_STATUS, Reg.SEC_STATUS, Reg.SEC_EVENTS, Reg.SEC_TAMPER_CTRL, Reg.CE_BYTES_LO, Reg.CE_BYTES_HI, Reg.CE_KAT_CNT, Reg.SEC_SELFTEST_CTRL, Reg.SEC_AUTH_FAIL_CNT, Reg.SEC_ZEROIZE_CNT, Reg.SEC_SVN_FLOOR, Reg.SEC_FW_VERSION_A] ++
    [Reg.SEC_FW_VERSION_B, Reg.SEC_TAKE_FLOOR, Reg.SEC_DIK_ID, Reg.SEC_OWK_ID, Reg.CLS_INFO_CRYPTO, Reg.GRP_MASK_CRYPTO]
  | 14 =>
    [Reg.CFG_STATUS, Reg.CFG_PROB_CTRL, Reg.TOBJ_CTRL, Reg.CFG_ACTIVE_VER, Reg.CFG_PREV_VER, Reg.CFG_FAILED_VER, Reg.CFG_PROB_LEFT, Reg.CFG_FB_CAUSE, Reg.CFG_PEEK_ADDR, Reg.CFG_PEEK_DATA, Reg.CFG_COMMIT_CNT, Reg.CFG_INVALID_CNT] ++
    [Reg.CFG_FALLBACK_CNT, Reg.TOBJ_HANDLE, Reg.TOBJ_SIZE, Reg.TOBJ_RESULT, Reg.TOBJ_RESULT_HANDLE, Reg.TOBJ_HEAP_FREE, Reg.TOBJ_DIGEST, Reg.TOBJ_DIR_INFO, Reg.TOBJ_DIR_SIZE, Reg.TOBJ_DIR_DIGEST]
  | 15 =>
    [Reg.SVC_CTRL, Reg.SVC_SPARES, Reg.SVC_HEALTH, Reg.SVC_EVENTS, Reg.SVC_THERM_DIE, Reg.SVC_THERM_HBM, Reg.SVC_USTATE, Reg.SVC_THERM_STATUS, Reg.SVC_TEMP, Reg.SVC_TELEM_SEL, Reg.SVC_TELEM_DATA, Reg.SVC_LOG_HEAD] ++
    [Reg.SVC_LOG_SEL, Reg.SVC_LOG_INFO, Reg.SVC_LOG_DATA, Reg.SVC_LOCKSTEP_CNT, Reg.SVC_FATAL_CNT]
  | _ => []

/-- The indices at which a row answers to an offset in its window, if it does. -/
def RegRow.match? (r : RegRow) (off : Nat) : Option (RegRow × Nat × Nat) :=
  if off < r.base then none
  else
    let d := off - r.base
    let i := if r.s1 = 0 then 0 else d / r.s1
    let e := d - i * r.s1
    let j := if r.s2 = 0 then 0 else e / r.s2
    if i < r.n1 ∧ j < r.n2 ∧ e = j * r.s2 then some (r, i, j) else none

/-- The register at a BAR0 offset; `none` where the map lists nothing, which behaves as RSV (R14). -/
def findReg (off : Nat) : Option (RegRow × Nat × Nat) :=
  (windowRows (off / 0x100000)).findSome? (fun r => r.match? (off % 0x100000))

/-- Units with a page of their own in each window with aliases (R583); 0 where the window has none. -/
def classUnits : Nat → Nat
  | 4 => 36 | 5 => 32 | 6 => 64 | 7 => 16 | 8 => 128 | 9 => 16 | 10 => 64 | 12 => 24 | 13 => 18
  | _ => 0

end Sys2Proof.Machine
end

