-- ==== Sys2Proof/Machine/StRegs.lean ====
section
/-! DEFINITION. The register file: the bits of every register that are not RW, by class window and BAR0 offset.
The RW bits live in the configuration sets (R12, R523). -/

namespace Sys2Proof.Machine

/-- One table per class window (R577); a register not listed holds its reset value. -/
structure RegFile where
  global : Tab Word := []
  hostport : Tab Word := []
  ring : Tab Word := []
  planner : Tab Word := []
  lane : Tab Word := []
  headlink : Tab Word := []
  stream : Tab Word := []
  pu : Tab Word := []
  store : Tab Word := []
  magazine : Tab Word := []
  mover : Tab Word := []
  time : Tab Word := []
  motion : Tab Word := []
  crypto : Tab Word := []
  config : Tab Word := []
  service : Tab Word := []
  deriving DecidableEq, Repr

/-- The table of a window. -/
def RegFile.win (f : RegFile) : Nat → Tab Word
  | 0 => f.global | 1 => f.hostport | 2 => f.ring | 3 => f.planner | 4 => f.lane | 5 => f.headlink
  | 6 => f.stream | 7 => f.pu | 8 => f.store | 9 => f.magazine | 10 => f.mover | 11 => f.time
  | 12 => f.motion | 13 => f.crypto | 14 => f.config | 15 => f.service
  | _ => []

/-- Replace the table of a window. -/
def RegFile.setWin (f : RegFile) (w : Nat) (t : Tab Word) : RegFile :=
  match w with
  | 0 => { f with global := t } | 1 => { f with hostport := t } | 2 => { f with ring := t }
  | 3 => { f with planner := t } | 4 => { f with lane := t } | 5 => { f with headlink := t }
  | 6 => { f with stream := t } | 7 => { f with pu := t } | 8 => { f with store := t }
  | 9 => { f with magazine := t } | 10 => { f with mover := t } | 11 => { f with time := t }
  | 12 => { f with motion := t } | 13 => { f with crypto := t } | 14 => { f with config := t }
  | 15 => { f with service := t }
  | _ => f

/-- The value of a register. -/
def RegFile.get (f : RegFile) (r : RegRow) (i j : Nat) : Word :=
  (f.win r.win).get r.reset (r.addr i j)

/-- Write a register. -/
def RegFile.set (f : RegFile) (r : RegRow) (i j : Nat) (v : Word) : RegFile :=
  f.setWin r.win ((f.win r.win).put r.reset (r.addr i j) v)

end Sys2Proof.Machine
end

