-- ==== Sys2Proof/Machine/StSec.lean ====
section
/-! DEFINITION. The state of the security unit (chapter Security unit): what the key store, the fuses and the boot flash keep,
and what is volatile. -/

namespace Sys2Proof.Machine

/-- A challenge given to a ring (R486): the nonce, its role and slot, and the clock at which it was given. -/
structure Nonce where
  bytes : List Byte
  role : Nat
  slot : Nat
  at_ : Nat
  deriving DecidableEq, Repr

/-- The security unit. -/
structure SecState where
  /-- Public partition: the CO and User public keys by slot (R486). -/
  coKeys : Tab (List Byte) := []
  userKeys : Tab (List Byte) := []
  /-- Owner partition: OWK and DIK's private key as PROVISION_CLOSE wrote them (R490, R493). -/
  ownerOwk : Option (List Byte) := none
  ownerDik : Option (List Byte) := none
  /-- The take floor, which survives zeroisation (R500). -/
  floorSecs : Nat := 0
  floorSeq : Nat := 0
  /-- Zeroisations since manufacture (R522). -/
  zeroizeCnt : Nat := 0
  /-- The SVN floor in fuses (R506). -/
  svnFloor : Nat := 0
  /-- The firmware images of slots A and B, the ACTIVE slot, the PENDING slot with RAISE_SVN (R507, R509). -/
  slotA : List Byte := []
  slotB : List Byte := []
  fwActive : Nat := 0
  fwPending : Option (Nat × Bool) := none
  /-- SEC_TAMPER_CTRL and SEC_SELFTEST_CTRL as the key store holds them (R519). -/
  tamperCtrl : Word := 0x0A0A0000
  selftestCtrl : Word := 0x000A0258
  /-- OWK and DIK's private key in use, and E_d's. -/
  owk : Option (List Byte) := none
  dik : Option (List Byte) := none
  ed : Option (List Byte) := none
  nonces : Tab (Option Nonce) := []
  /-- Consecutive failed proofs, and the clock at which a lockout began (R488). -/
  fails : Nat := 0
  lockAt : Option Nat := none
  /-- The DRBG is blocked: start-up tests repeated so far, and the clock of the last (R514). -/
  drbgBlocked : Bool := false
  retests : Nat := 0
  retestAt : Nat := 0
  /-- The JTAG port is unlocked (R520). -/
  jtagOpen : Bool := false
  /-- The running image: its slot, FW_VERSION and SVN. -/
  bootSlot : Nat := 0
  fwVersion : Nat := 0
  fwSvn : Nat := 0
  /-- Engines whose last KAT set passed, and whether the power-up tests have passed. -/
  katOk : List Nat := []
  selfTested : Bool := false
  /-- TAMPER inputs that are high, ZEROIZE# is low. -/
  tamperHigh : List Nat := []
  zeroizeLow : Bool := false
  /-- The clock of the last KAT round of the spares (R513). -/
  katAt : Nat := 0
  /-- Boot: the slots to try, the present one first; the SVN that a first successful boot raises the floor to; the image received on
  the service port, and whether it failed (R506, R507, R618). -/
  tries : List Nat := []
  raiseTo : Option Nat := none
  svcImage : List Byte := []
  imageErr : Bool := false
  /-- A zeroisation trigger came while the device was held in reset or booting, with its cause: boot ends in ZEROIZED (R517, R606). -/
  bootZero : Option Nat := none
  deriving DecidableEq, Repr

/-- What survives a device reset: the key store, the fuses and the boot flash, the levels of the always-on pins, and an unlock of
the JTAG port until PORST#. -/
def SecState.survive (q : SecState) : SecState :=
  { coKeys := q.coKeys, userKeys := q.userKeys, ownerOwk := q.ownerOwk, ownerDik := q.ownerDik, floorSecs := q.floorSecs,
    floorSeq := q.floorSeq, zeroizeCnt := q.zeroizeCnt, svnFloor := q.svnFloor, slotA := q.slotA, slotB := q.slotB,
    fwActive := q.fwActive, fwPending := q.fwPending, tamperCtrl := q.tamperCtrl, selftestCtrl := q.selftestCtrl,
    jtagOpen := q.jtagOpen, tamperHigh := q.tamperHigh, zeroizeLow := q.zeroizeLow, bootZero := q.bootZero }

end Sys2Proof.Machine
end

