-- ==== Sys2Proof/Machine/StStore.lean ====
section
/-! DEFINITION. The state of streams, frames, the frame store and its page manager, and of rig runs and takes (chapters
Head Link protocol and ingest; Image pipeline; Frame store and page manager; The P3236 at work). -/

namespace Sys2Proof.Machine

/-- A pipeline unit's partial statistics of a frame (R214, R215); tables by channel, bin or zone. -/
structure Stats where
  lines : Nat := 0
  /-- Σ m(l), and the lines that have an m(l). -/
  obSum : Nat := 0
  obLines : Nat := 0
  /-- By channel × 256 + bin. -/
  hist : Tab Nat := []
  /-- By (zy × 32 + zx) × 4 + channel. -/
  zoneSum : Tab Nat := []
  zoneCnt : Tab Nat := []
  /-- By zy × 32 + zx. -/
  focSum : Tab Nat := []
  focCnt : Tab Nat := []
  clipLow : Tab Nat := []
  clipHigh : Tab Nat := []
  /-- By channel: 65,535 − minimum, so that an unlisted channel has none counted; maximum; Σ v; Σ v². -/
  chMin : Tab Nat := []
  chMax : Tab Nat := []
  chSum : Tab Nat := []
  chSq : Tab Nat := []
  deriving DecidableEq, Repr

/-- Where a frame stands (R184, R189, R243, R244, R634). -/
inductive FPhase where
  /-- Its trigger was sent and its slot reserved. -/
  | triggered
  /-- A triggered frame of a LOST stream. -/
  | candidate
  /-- No record slot was free. -/
  | missed
  | cancelled
  | opened
  /-- Its input has ended. -/
  | ended
  | closed
  deriving DecidableEq, Repr

/-- What ended a frame's input (R187, R188, R244, R634). -/
inductive FEnd where
  | frameEnd | nextStart | fsWindow | feWindow | nak | zeroised
  deriving DecidableEq, Repr

/-- Where a closed frame lies (R276). -/
inductive FLoc where
  | resident
  | pagingOut (window : Nat) (pages : List Nat)
  | spilled (window : Nat) (pages : List Nat)
  deriving DecidableEq, Repr

/-- The holders of a frame (R251); its Tally is their number. -/
structure Holders where
  preview : Bool := false
  sealing : Bool := false
  record : Bool := false
  preroll : Bool := false
  burst : Bool := false
  subs : List Nat := []
  deriving DecidableEq, Repr

/-- A triggered frame of the present run and every frame that still has a record slot. -/
structure FrameSt where
  id : Nat
  stream : Nat
  rig : Nat
  frame : Nat
  run : Nat
  phase : FPhase := .triggered
  slot : Option Nat := none
  /-- T in units of 2^−16 ns, its epoch, and the exposure start in device time as it now runs: before B the start first
  sent, after B moved by Δ (R63). -/
  t : Int := 0
  epoch : Nat := 0
  t0 : Int := 0
  /-- The configuration set latched at the open and its version (R227). -/
  latch : RegSet := []
  version : Nat := 0
  calib : Bool := false
  /-- The head's identity, serial number and K as its CAPABILITY stood at the open, and the link and slot (R227, R245). -/
  capId : Nat := 0
  capSerial : Nat := 0
  capK : Nat := 0
  link : Nat := 0
  headSlot : Nat := 0
  /-- Only its preview and statistics are delivered: it does not fit its burst, or exposes in OFFLOAD (R37, R259). -/
  pvOnly : Bool := false
  /-- FRAME_START: clock of arrival, echoed tag and CRC, IMMEDIATE. -/
  fsAt : Option Nat := none
  echo : Option (Nat × Nat) := none
  imm : Bool := false
  expStart : Int := 0
  expEnd : Int := 0
  /-- Lines received and stored, lines dropped for want of pages or buffer, lines lost to a memory error. -/
  lines : List Nat := []
  dropped : List Nat := []
  damagedLines : List Nat := []
  /-- Lines stored and not yet processed. -/
  waiting : Nat := 0
  linesSent : Option Nat := none
  headFlags : Nat := 0
  lastLine : Int := 0
  /-- Arrival of FRAME_END in linear ns (R63 item 6). -/
  endedAt : Int := 0
  /-- STATUS of R246. -/
  status : Word := 0
  endTick : Nat := 0
  endCause : FEnd := .frameEnd
  /-- The link's count of discarded VC2 packets when the input opened; once it has ended, how many were discarded while it
  was open (R188). -/
  vc2At : Nat := 0
  /-- The frame's pages: payload page number to frame page + 1. -/
  pages : Tab Nat := []
  /-- Partial statistics by pipeline unit, and whether some were lost (R198, R200). -/
  stats : Tab Stats := []
  statLost : Bool := false
  /-- Preview sums by preview pixel × 3 + colour, counts by pixel, and lines that wait for the other line of their quads. -/
  pvSum : Tab Nat := []
  pvCnt : Tab Nat := []
  pvWait : Tab (List Nat) := []
  pvImage : List Byte := []
  pvGone : Bool := false
  /-- The record and the statistics block, from the close on (R245, R215). -/
  record : List Byte := []
  block : List Byte := []
  closeTick : Nat := 0
  hold : Holders := {}
  loc : FLoc := .resident
  /-- RIG_MS_CTRL.POINTS, RIG_MS_CHMASK, MS_OFFSET and MS_SPAN (ns) as latched at the trigger job, and the next sample
  point (R476). -/
  msPoints : Nat := 0
  msMask : Nat := 0
  msOffset : Nat := 0
  msSpan : Nat := 0
  msNext : Nat := 0
  /-- How far time steps have moved the points not yet taken (R476). -/
  msShift : Int := 0
  /-- Motion samples by channel × 16 + sample point: the 8 bytes as a number (R248). -/
  motion : Tab Nat := []
  /-- Timecode stamp as a number. -/
  stamp : Nat := 0
  /-- The take's number in the list of takes, once the frame belongs to one. -/
  take : Option Nat := none
  /-- Page digests by payload page (R498), and whether the seal is written. -/
  digests : Tab (List Byte) := []
  sealed : Bool := false
  /-- Placed by the magazine engine, and how many Writes of its bytes are outstanding. -/
  placed : Bool := false
  /-- A subscription that holds it has had jobs deferred since it closed (R264). -/
  deferred : Bool := false
  /-- Transactions and drive commands that still read its pages (R252). -/
  readers : Nat := 0
  /-- An uncorrectable word was found in it after the close (R273). -/
  bad : Bool := false
  /-- The boundary at which its pages and slots rejoin the free lists, once its Tally is 0 (R252). -/
  freeAt : Option Nat := none
  /-- Pages freed by a page-out; the record slot stays (R265). -/
  pagesOut : Bool := false
  /-- Frames sent to every destination of an offload (R260). -/
  offMag : Bool := false
  deriving DecidableEq, Repr

/-- A received line waiting in a stream's line buffer (R195). -/
structure LineIn where
  stream : Nat
  id : Nat
  line : Nat
  bytes : List Byte
  /-- Device time of arrival. -/
  at_ : Nat
  deriving DecidableEq, Repr

/-- What a stream holds beside its registers (R180, R189, R190, R197, R238, R247). -/
structure StreamSt where
  lost : Bool := false
  consec : Nat := 0
  /-- TIMEOUT of the last 16 frames, newest first. -/
  history : List Bool := []
  lastFrame : Nat := 0
  /-- Units it is placed on, in member order. -/
  members : List Nat := []
  cache : List Nat := []
  /-- Bytes used of its line buffer. -/
  buffered : Nat := 0
  /-- The stream has drained while disabled or idle, and its cache returns at the next boundary (R242). -/
  stopping : Bool := false
  /-- SETTINGS_DIGEST so far, the triggered frames (run and number) that it does not hold yet, and D of frames that it holds and
  that have not closed (R247). -/
  digest : List Byte := List.replicate 48 0
  trig : List (Nat × Nat) := []
  digests : List (Nat × Nat × List Byte) := []
  /-- Frames that closed at a boundary whose rig-mode changes are still to come: their effect on the ring follows those (R254). -/
  leave : List Nat := []
  deriving DecidableEq, Repr

/-- The free list of a pseudo-channel: indices from `fresh` on were never handed out; `back` was returned, oldest first. -/
structure PcSt where
  fresh : Nat := 0
  back : List Nat := []
  live : Nat := 0
  /-- Its table slice lies in frame pages taken from the pool (R274). -/
  moved : List Nat := []
  /-- Corrected errors by row, rows that await repair with the pages withheld for them, and uncorrectable errors since BOOT. -/
  rowErrs : Tab Nat := []
  rows : List (Nat × Nat) := []
  ues : Nat := 0
  deriving DecidableEq, Repr

/-- A spill window (R262–R268). -/
structure SpwSt where
  failed : Bool := false
  /-- Window pages in use. -/
  used : List Nat := []
  /-- The window as it stood when a commit took it away, while frames are paged in: port and base. -/
  old : Option (Nat × Nat) := none
  deriving DecidableEq, Repr

/-- An addition or release held back during a page-manager recovery (R255): frame id, holder code, added. -/
structure HoldOp where
  id : Nat
  holder : Nat
  add : Bool := false
  deriving DecidableEq, Repr

structure StoreState where
  /-- HBM is trained and the free lists are built. -/
  ready : Bool := false
  pcs : Tab PcSt := []
  lastPc : Nat := 127
  frames : List FrameSt := []
  nextId : Nat := 0
  /-- Free record slots: never used from `slotFresh` on, and returned ones. -/
  slotFresh : Nat := 0
  slotBack : List Nat := []
  lbuf : List LineIn := []
  streams : Tab StreamSt := []
  spws : Tab SpwSt := []
  /-- Pages withheld from allocation (R272, R273), repairs made since BOOT (pc, row), pages retired. -/
  withheld : List Nat := []
  /-- The looks that pipeline units hold, by handle: loaded at commit (R226). -/
  looks : Tab (List Byte) := []
  repairs : List (Nat × Nat) := []
  retired : List Nat := []
  belowSpill : Bool := false
  belowBacklog : Bool := false
  belowCrit : Bool := false
  /-- The backlog watermark was crossed, and the rigs' policies are still to start (R319). -/
  backlogDue : Bool := false
  /-- The tick at which a page-manager recovery ends, and the releases it holds back. -/
  recovery : Option Nat := none
  queued : List HoldOp := []
  deriving DecidableEq, Repr

/-- A take or a burst (R38, R40, R43, R322). -/
structure Take where
  id : Nat
  rig : Nat
  burst : Bool := false
  seq : Nat
  secs : Nat
  /-- First frame (pre-roll included), first live frame, last frame once the end is known. -/
  first : Nat
  live : Nat
  last : Option Nat := none
  streams : List Nat
  /-- Its mode-change boundary has come. -/
  started : Bool := false
  fromArmed : Bool := false
  /-- The list entry that named the current set. -/
  entry : Nat := 0
  /-- Post-count of a burst, 0 for none. -/
  post : Nat := 0
  /-- The reason of an automatic end, for TAKE_END. -/
  reason : Nat := 0
  /-- TK (R499), empty once erased. -/
  key : List Byte := []
  /-- WRAPPED_TK and OWK_ID as of the derivation (R496, R504). -/
  wrapped : List Byte := []
  owkId : List Byte := []
  segments : Nat := 0
  closed : Bool := false
  lost : Nat := 0
  /-- Latest chain value by stream. -/
  chains : Tab (List Byte) := []
  /-- Frames sealed by stream: the next frame to seal. -/
  sealNext : Tab Nat := []
  /-- How many frames of each stream were sealed, with the first and last of them. -/
  counts : Tab Nat := []
  deriving DecidableEq, Repr

/-- What a rig's run holds (R69, R184, R241, R256, R258, R259). -/
structure RigRun where
  run : Nat := 0
  running : Bool := false
  /-- The rig enters IDLE and its frames still finish (R634). -/
  finishing : Bool := false
  /-- Pre-roll ring: the first frame it holds. -/
  ring : Option Nat := none
  /-- Pages charged to the burst allotment, and the frame numbers latest decided, newest first (R241, R258). -/
  burstUsed : Nat := 0
  burstDecided : List Nat := []
  /-- The allotment is full: OFFLOAD at this tick (R259). -/
  burstFull : Option Nat := none
  /-- Frame numbers of the burst decided not to fit. -/
  burstMiss : List Nat := []
  deriving DecidableEq, Repr

structure TakeState where
  takes : List Take := []
  nextTake : Nat := 0
  runs : Tab RigRun := []
  /-- Takes started since PORST# release (R412). -/
  started : Nat := 0
  deriving DecidableEq, Repr

end Sys2Proof.Machine
end

