-- ==== Sys2Proof/Machine/StSvc.lean ====
section
/-! DEFINITION. The state of the service core: unit states, tests and drains, the service log, lockstep recovery, thermal
state (chapter Service, repair and self-management). -/

namespace Sys2Proof.Machine

/-- An entry of the service log (R573–R575). -/
structure LogEntry where
  seq : Nat := 0
  code : Nat
  tick : Nat
  time : Nat
  source : Nat
  detail : Nat
  deriving DecidableEq, Repr

/-- A unit under test (R554): its kind and index, the state it came from, and the command that asked. -/
structure UnitTest where
  kind : Nat
  index : Nat
  from_ : Nat
  ticket : Option Ticket := none
  deriving DecidableEq, Repr

/-- A unit state change that waits for its boundary (R551, R553, R555, R559): the unit, the state it takes, and, for a drain or a
rotation, the SPARE unit that enters ACTIVE with it. -/
structure UnitDue where
  tick : Nat
  kind : Nat
  index : Nat
  to_ : Nat
  spare : Option Nat := none
  ticket : Option Ticket := none
  deriving DecidableEq, Repr

/-- Why the device does nothing until it is reset (R563, R571, R609). -/
inductive Stop where
  /-- PORST# is low or the internal reset is asserted. -/
  | reset
  /-- A fatal error with FATAL_ACTION HALT. -/
  | halt
  /-- A thermal trip has stopped every clock. -/
  | therm
  deriving DecidableEq, Repr

structure SvcState where
  /-- Unit states by kind × 65,536 + index, in the encoding of R550; OFFLINE at reset (R551). -/
  units : Tab Nat := []
  /-- SVC_USTATE.CAUSE and TESTS_FAILED, by the same key. -/
  causes : Tab Nat := []
  testsFailed : Tab Nat := []
  /-- The clock at which a unit last passed a test, and at which it last entered ACTIVE (R559, R513). -/
  passedAt : Tab Nat := []
  activeAt : Tab Nat := []
  tests : List UnitTest := []
  /-- Drains in progress, by unit key, with the command that asked. -/
  drains : List (Nat × Option Ticket) := []
  due : List UnitDue := []
  /-- ACTIVE units that failed and whose place a SPARE is to take: kind, tick of the failure, index (R556). -/
  replace : List (Nat × Nat × Nat) := []
  /-- The clock of the latest rotation by class (R559, R513). -/
  rotatedAt : Tab Nat := []
  /-- Units retired at the end of BOOT, by class (R564). -/
  bootRetired : Tab Nat := []
  /-- The running log, newest first, at most 4,096 entries, and the number ever written. -/
  log : List LogEntry := []
  logHead : Nat := 0
  /-- The persistent log in the boot flash, newest first, and the number ever written (R573); the units it lists as retired
  by key, the soft row repairs (pseudo-channel, row), and the fatal errors (R563). -/
  plog : List LogEntry := []
  plogHead : Nat := 0
  retired : List Nat := []
  softRepairs : List (Nat × Nat) := []
  fatals : Nat := 0
  /-- Central units in recovery, with the tick M of their mismatch; the tick of each unit's last mismatch plus 1, and its count
  (R561, R562). -/
  recov : List (Nat × Nat) := []
  lastMismatch : Tab Nat := []
  recovCnt : Tab Nat := []
  /-- Register writes queued during a recovery, oldest first: port, BAR0 offset, value (R596). -/
  queued : List (Nat × Nat × Word) := []
  /-- Gated blocks that an access has woken, by unit key, with the clock of the last access plus 1 (R592). -/
  woken : Tab Nat := []
  /-- Die and HBM thermal levels, and by level × 3 + threshold the consecutive readings at least 2 °C below it (R569). -/
  dieLevel : Nat := 0
  hbmLevel : Nat := 0
  cool : Tab Nat := []
  /-- Peaks of the sensors since PORST#, in 0.125 °C (R572). -/
  peaks : Tab Int := []
  /-- Streams whose HEALTH read WARN and LOST at the latest boundary (R565). -/
  warnStreams : Nat := 0
  lostStreams : Nat := 0
  stopped : Option Stop := some .reset
  /-- PORST# is low. -/
  porstLow : Bool := true
  /-- BIFURC[1:0] and BOOT_SRC as sampled at PORST# release (R352, R604). -/
  bifurc : Nat := 0
  bootSrc : Bool := false
  /-- The clock at which the present boot stage began (R622). -/
  stageAt : Nat := 0
  /-- Units, by key, that failed a power-up test, and pseudo-channels that failed training, in this boot (R552, R628). -/
  bootFails : List Nat := []
  /-- Row repairs made permanent (R272). -/
  hardRepairs : List (Nat × Nat) := []
  /-- Subsystem vendor ID and subsystem ID of every port (R356). -/
  subsys : Nat × Nat := (0x1FD4, 0)
  /-- The JTAG instruction register, IDCODE after Test-Logic-Reset, and the preloaded boundary cells (R620). -/
  jtagIr : Nat := 1
  jtagCells : List Bool := []
  deriving DecidableEq, Repr

end Sys2Proof.Machine
end

