-- ==== Sys2Proof/Machine/StTime.lean ====
section
/-! DEFINITION. The state of the time unit: the counter, the servo, steps, ticks, frame timers, references and
timecode, compare units and timing ports (chapter Device time, ticks and frame timing). -/

namespace Sys2Proof.Machine

/-- One nanosecond in the unit of the time counter, 2^−48 ns (the increment carries a 48-bit fraction). -/
def nsUnit : Nat := 2 ^ 48

/-- One second in the unit of the time counter. -/
def secUnit : Nat := 1000000000 * nsUnit

/-- The servo's state (R51). -/
inductive Servo where
  | free | acquire | locked | holdover
  deriving DecidableEq, Repr

/-- TIME_STATUS.SERVO_STATE (R51). -/
def Servo.code : Servo → Nat
  | .free => 0 | .acquire => 1 | .locked => 2 | .holdover => 3

/-- A step that has been decided and not yet applied (R61–R63). -/
structure StepPlan where
  /-- The tick in which it was decided. -/
  tick : Nat
  /-- The command that decided it; none for R60. -/
  ticket : Option Ticket
  /-- Decided by TIME_SET: measurements do not touch it (R62). -/
  isSet : Bool
  /-- L of R63, fixed at the end of tick N; B is tick + 1 + lead. -/
  lead : Nat := 1
  /-- Δ once it is fixed at S, in units of the time counter. -/
  delta : Option Int := none
  /-- Before S the offset fell to the limit or below: the step is no longer pending and is not carried out (R63). -/
  void : Bool := false
  deriving DecidableEq, Repr

/-- A master heard on a timing port: its latest Announce (R52, R55). -/
structure Heard where
  master : Master
  /-- Announce messages heard of it. -/
  announces : Nat := 1
  /-- Service clock of the latest Announce, and its interval in clocks. -/
  at_ : Nat := 0
  interval : Nat := 0
  utc : Option Int := none
  deriving DecidableEq, Repr

/-- A timing port's PTP state (R55–R58, R87). -/
structure TpSt where
  linkUp : Bool := false
  /-- The port has linked up before, so its first-link test has run (R629). -/
  tested : Bool := false
  /-- The masters heard on the port. -/
  heard : List Heard := []
  /-- Timestamps of the current exchange, in units of 2^−16 ns: Sync departure and arrival, Delay_Req departure. -/
  t1 : Option Int := none
  t2 : Int := 0
  t3 : Int := 0
  /-- Peer delay: departure of Pdelay_Req, and, of a two-step Pdelay_Resp, its arrival less the receipt of the request. -/
  preq : Int := 0
  presp : Option Int := none
  /-- Correction field of Sync, in units of 2^−16 ns, and whether Follow_Up still owes its departure time. -/
  corr : Int := 0
  waitFup : Bool := false
  offset : Int := 0
  /-- Mean path delay in units of 2^−16 ns, once measured. -/
  delay : Option Int := none
  deriving DecidableEq, Repr

/-- A rig frame timer (R69–R75). -/
structure RtmrSt where
  running : Bool := false
  /-- When it stopped, in units of 2^−16 ns. -/
  stopAt : Int := 0
  /-- S0 in units of 2^−16 ns of linear device time. -/
  s0 : Int := 0
  /-- The next frame whose trigger is to be sent. -/
  next : Nat := 0
  /-- EVENT timers: the starts given by their events, oldest first, for frames from `next` on. -/
  starts : List Int := []
  /-- The latest exposure start of an EVENT timer and its frame. -/
  last : Option (Nat × Int) := none
  /-- S0 waits for the first REF_IN edge (R71). -/
  waitRef : Bool := false
  refLost : Bool := false
  /-- Consecutive REF_IN edges bad, and good while lost (R74). -/
  refBad : Nat := 0
  refGood : Nat := 0
  /-- The index of the next reference instant expected; every REF_DIV-th frame is one (R73). -/
  refFrame : Nat := 0
  /-- The exposure starts latest given to the rig's frames, newest first, runs before the present one included (R80). -/
  recent : List Int := []
  /-- A step moved an EPOCH origin, so RTMR_ALIGN_ERR is valid (R75). -/
  alignErr : Option Int := none
  deriving DecidableEq, Repr

/-- A timecode label (R78, R80). -/
structure TcLabel where
  hours : Nat := 0
  minutes : Nat := 0
  seconds : Nat := 0
  frames : Nat := 0
  drop : Bool := false
  deriving DecidableEq, Repr

/-- The LTC_IN decoder (R77–R79). -/
structure LtcSt where
  /-- The last good label and the device time of its boundary. -/
  last : Option (TcLabel × Nat) := none
  bad : Nat := 0
  good : Nat := 0
  flywheel : Bool := false
  /-- The frame boundary latest seen or missed. -/
  at_ : Nat := 0
  deriving DecidableEq, Repr

/-- A pulse in progress on a TRIG_OUT pin: the compare unit that drives it (time compare unit u is 32 + u), the pin and the clock
at which it ends. -/
structure Pulse where
  source : Nat
  pin : Nat
  until_ : Nat
  deriving DecidableEq, Repr

/-- The time unit. -/
structure TimeState where
  /-- Device time in units of 2^−48 ns (R44). -/
  now : Nat := 0
  /-- 4 ns clocks since the clocks started: the service core's free-running clock (R375, R585). -/
  clk : Nat := 0
  /-- Device time has been set by a source or a step (R47). -/
  isSet : Bool := false
  tickNum : Nat := 0
  /-- Device time of the latest tick boundary and of the next, in units of 2^−48 ns (R66–R68). -/
  tickStart : Nat := 0
  tickEnd : Nat := 250000 * 2 ^ 48
  servo : Servo := .free
  /-- Consecutive measurements within LOCK_THRESH, and above 4 × LOCK_THRESH (R51). -/
  inLock : Nat := 0
  outLock : Nat := 0
  /-- TIME_FREQ_ADJ in units of 2^−40. -/
  adj : Int := 0
  /-- The frequency held in HOLDOVER (R53). -/
  holdAdj : Int := 0
  /-- LOCKED stints, newest first: clocks spent at a correction (R53). -/
  lockedHist : List (Nat × Int) := []
  /-- Clock of the last change of servo state or of the last measurement in LOCKED. -/
  stateAt : Nat := 0
  /-- Clock at which the servo entered HOLDOVER (R53). -/
  holdoverAt : Nat := 0
  /-- The pending refused step, or the step of TIME_SET, in units of the time counter (R59, R62). -/
  pendingStep : Option Int := none
  decided : Option StepPlan := none
  /-- The epoch that triggers and beacons carry (R176). -/
  epoch : Nat := 0
  activeTp : Option Nat := none
  tps : Tab TpSt := []
  clk10mOk : Bool := false
  /-- CLK10M_IN drives the counter (R54). -/
  clk10mUse : Bool := false
  ppsOk : Bool := false
  /-- Consecutive PPS_IN edges missing or off up to the latest edge, and the second of that edge (R52). -/
  ppsBad : Nat := 0
  ppsSec : Nat := 0
  /-- The latest REF_IN edge, its cable delay removed, in units of 2^−16 ns (R71, R73). -/
  refAt : Option Int := none
  utc : Option Int := none
  timers : Tab RtmrSt := []
  ltc : LtcSt := {}
  /-- LTC_OUT frames sent: the grid index of the next (R81). -/
  ltcOutNext : Nat := 0
  /-- The synchronisation metadata TLV of the active master, and the clock of its arrival (R58). -/
  sm : Option SmTlv := none
  smAt : Nat := 0
  /-- Device time at which the PPS_OUT pulse ends, while it is high (R76). -/
  ppsOut : Option Nat := none
  /-- The whole second of the latest PPS_OUT pulse. -/
  ppsOutSec : Nat := 0
  /-- Compare units that have fired for their target (R82). -/
  tcmpDone : List Nat := []
  /-- Pulses in progress on TRIG_OUT (R83, R469). -/
  pulses : List Pulse := []
  deriving DecidableEq, Repr

end Sys2Proof.Machine
end

