-- ==== Sys2Proof/Machine/StTobj.lean ====
section
/-! DEFINITION. The state of table objects (chapter Configuration sets, R535–R539). -/

namespace Sys2Proof.Machine

/-- The state of a directory entry, encoded as TOBJ_DIR_INFO gives (R549). -/
inductive ObjPhase where
  | free | open_ | sealing | sealed_
  deriving DecidableEq, Repr

def ObjPhase.code : ObjPhase → Nat
  | .free => 0 | .open_ => 1 | .sealing => 2 | .sealed_ => 3

/-- A directory entry. -/
structure ObjSt where
  gen : Nat := 0
  phase : ObjPhase := .free
  size : Nat := 0
  digest : List Byte := []
  /-- The digest that a SEAL in progress expects (R536). -/
  want : List Byte := []
  deriving DecidableEq, Repr

/-- The directory by index 1 to 4,095, and the contents: index × 2^32 + byte; an address not listed reads 0. -/
structure ObjState where
  dir : Tab ObjSt := []
  heap : List Host.Cell := []
  deriving DecidableEq, Repr

end Sys2Proof.Machine
end

