-- ==== Sys2Proof/Machine/State.lean ====
section
/-! DEFINITION. The state of the P3236: every register, queue, buffer, counter, mode and pin the spec gives it, and
the queue of the commands that wait. -/

namespace Sys2Proof.Machine

/-- The checkpoint that the lockstep pairs take at a tick boundary (R560): what the registers of a central unit show while it
recovers. -/
structure Ckpt where
  cur : RegFile
  cfg : CfgState
  dev : DevState
  ports : Tab PortSt
  time : TimeState
  plan : PlanState
  link : LinkState
  store : StoreState
  takes : TakeState
  mover : MoverState
  mag : MagState
  svc : SvcState
  obj : ObjState
  sec : SecState
  deriving DecidableEq, Repr

/-- The state. -/
structure State where
  /-- The commands waiting, first in, first out. -/
  pending : List Instr := []
  /-- What the device has emitted, newest first. -/
  out : List Out := []
  /-- The model's own counter of free values taken (no field of the spec). -/
  free : Nat := 0
  /-- The registers' bits that are not RW. -/
  cur : RegFile := {}
  cfg : CfgState := {}
  dev : DevState := {}
  rings : Tab RingSt := []
  ports : Tab PortSt := []
  time : TimeState := {}
  plan : PlanState := {}
  link : LinkState := {}
  store : StoreState := {}
  takes : TakeState := {}
  mover : MoverState := {}
  mag : MagState := {}
  svc : SvcState := {}
  obj : ObjState := {}
  sec : SecState := {}
  motion : MotionState := {}
  /-- The checkpoint of the present tick's start; during a recovery, of the start of the tick of the mismatch (R561). -/
  ckpt : Option Ckpt := none
  /-- Frame pages: byte addresses page × 65,536 + offset. An address not listed reads 0. -/
  hbm : List Host.Cell := []
  deriving DecidableEq, Repr

/-- The machine right after reset. -/
def State.reset : State := {}

/-- Faults. -/
inductive Fault where
  deriving DecidableEq, Repr

/-- Refusals. -/
inductive Refusal where
  /-- An instruction whose meaning is not written yet; raised by Dispatch.lean only; safe. -/
  | notModelled (mnemonic : String)
  deriving DecidableEq, Repr

end Sys2Proof.Machine
end

