-- ==== Sys2Proof/Machine/Base.lean ====
section
/-! DEFINITION. The operations on registers, outputs, rings, records, completions, host memory and modes that every command
uses. -/

namespace Sys2Proof.Machine

/-! ### Registers -/

/-- The bits of a register that are not RW. -/
def State.reg (s : State) (r : RegRow) (i : Nat := 0) (j : Nat := 0) : Word := s.cur.get r i j

def State.setReg (s : State) (r : RegRow) (i j : Nat) (v : Word) : State :=
  { s with cur := s.cur.set r i j v }

/-- The value of a register's RW bits in a configuration set; a field not listed has its FACTORY value (R525). -/
def RegSet.val (t : RegSet) (r : RegRow) (i : Nat := 0) (j : Nat := 0) : Word :=
  Tab.get (r.reset &&& r.rw) t (r.addr i j)

/-- The set in force: the active set, or FACTORY while none is active (R15, R525). -/
def State.activeSet (s : State) : RegSet := (s.cfg.active.map (·.regs)).getD []

/-- The active value of a register's RW bits (R15). -/
def State.act (s : State) (r : RegRow) (i : Nat := 0) (j : Nat := 0) : Word := s.activeSet.val r i j

/-- The active set with MSET_CTRL of the magazine sets in use as their takes began with it. -/
def State.magSet (s : State) : RegSet :=
  s.mag.sets.foldl (fun t e => match e.2.ctrl with
    | some c => Tab.put (Reg.MSET_CTRL.reset &&& Reg.MSET_CTRL.rw) t (Reg.MSET_CTRL.addr e.1) c
    | none => t) s.activeSet

/-- A field of a register's active value. -/
def State.actF (s : State) (r : RegRow) (i hi lo : Nat) : Nat := fld (s.act r i) hi lo

/-- Set bits of a W1C register: an event that sets a bit keeps the others (R587). -/
def State.orReg (s : State) (r : RegRow) (i : Nat) (m : Word) : State :=
  s.setReg r i 0 (s.reg r i ||| m)

/-- Set one event bit. -/
def State.setEvt (s : State) (r : RegRow) (i b : Nat) : State := s.orReg r i (BitVec.ofNat 32 (2 ^ b))

/-- Clear bits of a register. -/
def State.clrReg (s : State) (r : RegRow) (i : Nat) (m : Word) : State :=
  s.setReg r i 0 (s.reg r i &&& ~~~ m)

/-- Replace a field of a register. -/
def State.setF (s : State) (r : RegRow) (i hi lo x : Nat) : State :=
  s.setReg r i 0 (setFld (s.reg r i) hi lo x)

/-- Count `n` events in a 32-bit counter that saturates. -/
def State.countN (s : State) (r : RegRow) (i n : Nat) : State :=
  s.setReg r i 0 (BitVec.ofNat 32 (satAdd 0xFFFFFFFF (s.reg r i).toNat n))

/-- Count one event in a 32-bit counter that saturates. -/
def State.count (s : State) (r : RegRow) (i : Nat := 0) : State := s.countN r i 1

/-- The 64-bit value of a pair of registers (R17). -/
def State.reg64 (s : State) (lo hi : RegRow) (i : Nat) : Nat :=
  (s.reg lo i).toNat + 2 ^ 32 * (s.reg hi i).toNat

/-- Write a pair of registers. -/
def State.set64 (s : State) (lo hi : RegRow) (i v : Nat) : State :=
  (s.setReg lo i 0 (BitVec.ofNat 32 v)).setReg hi i 0 (BitVec.ofNat 32 (v / 2 ^ 32))

/-- Add to a 64-bit counter that wraps. -/
def State.add64 (s : State) (lo hi : RegRow) (i n : Nat) : State :=
  s.set64 lo hi i (s.reg64 lo hi i + n)

/-! ### Outputs and free values -/

/-- Emit an output. -/
def State.emit (s : State) (o : Out) : State := { s with out := o :: s.out }

/-- The next free value, as an integer, and the state that has used it up. -/
def State.freeInt (s : State) : Int := Config.freeInt s.free
def State.freeNat (s : State) (w : Nat) : Nat := (Config.freeBits w s.free).toNat
def State.useFree (s : State) : State := { s with free := s.free + 1 }

/-! ### Ports and rings -/

def State.port (s : State) (p : Nat) : PortSt := s.ports.get {} p
def State.setPort (s : State) (p : Nat) (f : PortSt → PortSt) : State :=
  { s with ports := s.ports.upd {} p f }

def State.ring (s : State) (n : Nat) : RingSt := s.rings.get {} n
def State.setRing (s : State) (n : Nat) (f : RingSt → RingSt) : State :=
  { s with rings := s.rings.upd {} n f }

/-- The port exists under the BIFURC strap (R352). -/
def State.portExists (s : State) (p : Nat) : Bool := bit (s.reg Reg.HP_STATUS p) 31
/-- The bootstrap assignment of a ring, as a RING_OWN value: RING(2p) is CMD and RING(2p + 1) is EVT, of 16 entries (R630). -/
def State.bootOwn (s : State) (n : Nat) : Word :=
  if n < 8 ∧ s.portExists (n / 2) then BitVec.ofNat 32 (n / 2 * 2 ^ 28 + n % 2 * 2 ^ 25 + 4 * 2 ^ 16 + 1) else 0
/-- The assignment in force: RING_OWN of the active set, or the bootstrap assignment while none is active (R388, R630). -/
def State.ringOwn (s : State) (n : Nat) : Word := if s.cfg.active.isNone then s.bootOwn n else s.act Reg.RING_OWN n
def State.ringPort (s : State) (n : Nat) : Nat := fld (s.ringOwn n) 29 28
def State.ringKind (s : State) (n : Nat) : Nat := fld (s.ringOwn n) 25 24
def State.ringSize (s : State) (n : Nat) : Nat := 2 ^ fld (s.ringOwn n) 20 16
def State.ringAssigned (s : State) (n : Nat) : Bool := bit (s.ringOwn n) 0
/-- The ring that takes its completions: EVT_RING as it stood when the ring was enabled (R390, R391). -/
def State.evtRing (s : State) (n : Nat) : Nat := (s.ring n).evt

def State.linkUp (s : State) (p : Nat) : Bool := bit (s.reg Reg.HP_STATUS p) 30

/-- A port whose records and messages still leave: its link is up and it is not in D3hot (R361, R362). -/
def State.portTalks (s : State) (p : Nat) : Bool := s.linkUp p && !(s.port p).d3hot

/-- HP_CTRL.IDE_REQ: a request leaves only within the range of a Secure selective stream (R367). -/
def State.ideOk (s : State) (p addr len : Nat) : Bool :=
  if bit (s.act Reg.HP_CTRL p) 16 then
    (s.port p).ide.any (fun x => x.secure && decide (x.lo ≤ addr) && decide (addr + len ≤ x.hi + 1))
  else true

/-- Traffic of a port brings its link out of ASPM L1 (R363). -/
def State.wakePort (s : State) (p : Nat) : State := if (s.port p).l1 then s.setPort p (fun q => { q with l1 := false }) else s

/-- Send or hold an MSI-X message (R364). -/
def State.signal (s : State) (p v : Nat) : State :=
  let q := s.port p
  if !q.msixOn || !s.portTalks p then s
  else if q.funcMask || !q.unmasked.contains v then
    s.setPort p (fun q => { q with pba := if q.pba.contains v then q.pba else q.pba ++ [v] })
  else (s.emit (.msix p v)).wakePort p

/-! ### Event records (R397–R399, R413–R415) -/

/-- Bytes 16 to 30 from fields (offset, width in bytes, value). -/
def payload (fs : List (Nat × Nat × Nat)) : List Byte :=
  fs.foldl (fun l f => patchBytes l (f.1 - 16) (leBytes f.2.1 f.2.2)) (List.replicate 15 0)

/-- SOURCE or TARGET: KIND in bits [31:24], INDEX in bits [23:0] (R401). -/
def target (kind index : Nat) : Nat := kind * 2 ^ 24 + index

/-- The 32 bytes of a record with its flags byte (R414). -/
def Rec.bytes (r : Rec) (phase lost : Bool) : List Byte :=
  leBytes 1 r.etype ++ leBytes 1 r.status ++ leBytes 2 r.tag ++ leBytes 4 r.source ++ leBytes 8 r.tick
    ++ sliceBytes r.payload 0 15 ++ [BitVec.ofNat 8 (128 * b2n phase + 64 * b2n lost)]

/-- The ring has a free slot for the next record (R397). -/
def State.evtRoom (s : State) (n : Nat) : Bool :=
  decide ((((s.ring n).dev - (s.ring n).db).toNat) < s.ringSize n)

/-- MSI-X after a record (R399): `irq` for a completion whose IRQ flag is set or an unsolicited record;
`portGroup` for a record of group PORT. -/
def State.recSignal (s : State) (n : Nat) (irq portGroup : Bool) : State :=
  let c := s.reg Reg.RING_CTRL n
  let mode := fld c 29 28
  let vec := fld c 10 0
  let p := s.ringPort n
  let own := decide (mode = 2) || (decide (mode = 1) && irq)
  let s := if own then s.signal p vec else s
  if portGroup && !(own && decide (vec = 0)) then s.signal p 0 else s

/-- Write a record into its slot of an EVT ring (R397); a request that IDE blocks is not issued (R367). -/
def State.putRec (s : State) (n : Nat) (r : Rec) (irq portGroup : Bool) : State :=
  let q := s.ring n
  let p := s.ringPort n
  let sz := s.ringSize n
  let i := q.dev.toNat
  let addr := q.base + 32 * (i % sz)
  if !s.portTalks p then s
  else if !s.ideOk p addr 32 then s.setEvt Reg.HP_EVENTS p 7
  else
    ((((s.wakePort p).emit (.hostWrite p addr (r.bytes (decide (i / sz % 2 = 0)) q.lost) false false)).setRing n
      (fun q => { q with dev := q.dev + 1, lost := false })).recSignal n irq portGroup)

/-- A completion record: written, or left in ring staging while its ring is full, is not running or
holds earlier records (R392, R398). -/
def State.postCompletion (s : State) (n src : Nat) (r : Rec) (irq named : Bool) : State :=
  let q := s.ring n
  if decide (q.state = .running) && q.staged.isEmpty && s.evtRoom n && decide ((s.ring src).state ≠ .pausedEvt) then
    s.putRec n r irq false
  else s.setRing n (fun q => { q with staged := q.staged ++ [{ ring := src, record := r, irq := irq, named := named }] })

/-- An unsolicited record: dropped when the ring is full or a record for it waits (R398). -/
def State.postUnsolicited (s : State) (n : Nat) (r : Rec) (portGroup : Bool) : State :=
  let q := s.ring n
  if q.staged.isEmpty && s.evtRoom n then s.putRec n r true portGroup
  else ((s.setRing n (fun q => { q with lost := true })).setEvt Reg.RING_EVENTS n 3).count
    Reg.RING_EVT_LOST_CNT n

/-- The RUNNING EVT rings whose mask selects a group, in ascending order (R413). -/
def State.evtRings (s : State) (group : Nat) (stewardOnly : Bool) : List Nat :=
  (s.rings.filter (fun e => decide (e.2.state = .running) && decide (s.ringKind e.1 = 2)
    && bit (s.reg Reg.RING_EVT_MASK e.1) group
    && (!stewardOnly || decide (s.dev.steward = some (s.ringPort e.1))))).map (·.1)

/-- Post an event of a group to every ring that selects it (R413). -/
def State.post (s : State) (group etype source : Nat) (pl : List (Nat × Nat × Nat)) (status : Nat := 0) : State :=
  let r : Rec := { etype := etype, status := status, source := source, tick := s.time.tickNum, payload := payload pl }
  (s.evtRings group (decide (9 ≤ group))).foldl (fun s n => s.postUnsolicited n r (decide (group = 0))) s

/-- Set bits of HP_EVENTS; PORT_ERROR names those newly set, but for SHIFT_CHANGE, which STEWARD_CHANGED reports (R415). -/
def State.hpEvt (s : State) (p b : Nat) : State :=
  let old := bit (s.reg Reg.HP_EVENTS p) b
  let s := s.setEvt Reg.HP_EVENTS p b
  if old || decide (b = 9) then s else s.post 0 0x51 (target 0xA p) [(16, 2, 2 ^ b)]

/-! ### Completions (R407, R410) -/

/-- Status codes (R410). -/
def stDone : Nat := 0x00
def stWrongState : Nat := 0x01
def stBadParam : Nat := 0x02
def stNoResource : Nat := 0x03
def stDenied : Nat := 0x04
def stLate : Nat := 0x05
def stTimeout : Nat := 0x06
def stBusError : Nat := 0x07
def stChainLimit : Nat := 0x08
def stUnitFailed : Nat := 0x09
def stAborted : Nat := 0x0A
def stIntegrity : Nat := 0x0B
def stSecurity : Nat := 0x0C
def stPartial : Nat := 0x0D

/-- A ring in the middle of an abort enters DISABLED once its last completion is written (R391). -/
def RingSt.settle (q : RingSt) : RingSt :=
  if q.aborting && decide (q.outstanding = 0) then { q with state := .disabled, aborting := false } else q

/-- One descriptor of the ring has completed: it no longer counts as outstanding, and a BARRIER lifts (R404). -/
def RingSt.retire (q : RingSt) (barrier : Bool) : RingSt :=
  { q with outstanding := q.outstanding - 1, barrier := q.barrier && !barrier }.settle

/-- The payload of a planner refusal, by its fields' places (R95). -/
def plannerRefusal (pl : List (Nat × Nat × Nat)) : Bool := decide (pl.map (·.1) = [16, 17, 19, 24, 29])

/-- A planner refusal is counted (R95, R98). -/
def State.countRefusal (s : State) (pl : List (Nat × Nat × Nat)) : State :=
  if plannerRefusal pl then s.count Reg.PLN_REFUSE_CNT else s

/-- A DONE completion whose tick a rule names: of the rig-mode commands (R39), of TIME_STEP_ACCEPT and TIME_SET (R61), and of
MAG_RELAY (R323). -/
def namedTick (opcode status : Nat) : Bool :=
  decide (status = stDone) && (decide (0x10 ≤ opcode ∧ opcode ≤ 0x1B) || decide (opcode = 0x30) || decide (opcode = 0x31))

/-- Write the completion of a descriptor, in the present tick or the tick a rule names (R407, R408); a command whose ring was
disabled under R393 since writes none. -/
def State.complete (s : State) (t : Ticket) (status : Nat) (pl : List (Nat × Nat × Nat) := [])
    (etype : Nat := 1) : State :=
  let s := s.countRefusal pl
  if (s.ring t.ring).gen ≠ t.gen then s
  else
  (s.postCompletion (s.evtRing t.ring) t.ring
    { etype := etype, status := status, tag := t.tag, source := t.target, tick := s.time.tickNum,
      payload := payload pl } t.irq (namedTick t.opcode status)).setRing t.ring (fun q => q.retire t.barrier)

/-- Complete where there is a ticket. -/
def State.completeOpt (s : State) (t : Option Ticket) (status : Nat) (pl : List (Nat × Nat × Nat) := []) : State :=
  match t with
  | some t => s.complete t status pl
  | none => s

/-! ### Host memory -/

/-- Cut a byte range at every Max Payload Size and 4 KiB boundary (R438). -/
def cutWrites (mps : Nat) : Nat → Nat → List Byte → List (Nat × List Byte)
  | 0, _, _ => []
  | fuel + 1, addr, data =>
    if data.isEmpty then []
    else
      let n := min mps (4096 - addr % 4096)
      (addr, data.take n) :: cutWrites mps fuel (addr + n) (data.drop n)

/-- Some request of a payload write would be blocked by IDE (R367). -/
def State.ideBlocks (s : State) (p addr : Nat) (data : List Byte) : Bool :=
  bit (s.act Reg.HP_CTRL p) 16 &&
    let mps := max 128 (s.port p).mps
    (cutWrites mps (data.length / mps + data.length / 4096 + 3) addr data).any (fun x => !s.ideOk p x.1 x.2.length)

/-- Write payload bytes into a host's memory, counting them (R368, R379, R382, R386, R438); a request that IDE blocks is not
issued (R367). -/
def State.hostWrite (s : State) (p addr : Nat) (data : List Byte) (noSnoop : Bool := false) : State :=
  let q := s.port p
  let mps := max 128 q.mps
  (cutWrites mps (data.length / mps + data.length / 4096 + 3) addr data).foldl (fun s x =>
    if s.ideOk p x.1 x.2.length then
      ((s.wakePort p).emit (.hostWrite p x.1 x.2 (noSnoop && q.noSnoop) q.relaxed)).add64 Reg.HP_TX_BYTES_LO Reg.HP_TX_BYTES_HI p x.2.length
    else s.hpEvt p 7) s

/-- Count payload bytes read from a host's memory. -/
def State.hostReadCount (s : State) (p n : Nat) : State :=
  (s.wakePort p).add64 Reg.HP_RX_BYTES_LO Reg.HP_RX_BYTES_HI p n

/-! ### Checkpoints (R560, R561) -/

/-- Take the checkpoint of a tick boundary, unless a central unit recovers to an earlier one. -/
def State.takeCkpt (s : State) : State :=
  if s.svc.recov ≠ [] then s
  else { s with ckpt := some {
    cur := s.cur, cfg := s.cfg, dev := s.dev, ports := s.ports, time := s.time, plan := s.plan, link := s.link, store := s.store,
    takes := s.takes, mover := s.mover, mag := s.mag, svc := s.svc, obj := s.obj, sec := s.sec } }

/-- The state at the latest checkpoint, as registers show it. -/
def State.held (s : State) : State :=
  match s.ckpt with
  | some c => { s with
      cur := c.cur, cfg := c.cfg, dev := c.dev, ports := c.ports, time := c.time, plan := c.plan, link := c.link, store := c.store,
      takes := c.takes, mover := c.mover, mag := c.mag, svc := c.svc, obj := c.obj, sec := c.sec }
  | none => s

/-! ### Modes -/

def State.rig (s : State) (r : Nat) : RigSt := s.dev.rigs.get {} r
def State.setRig (s : State) (r : Nat) (f : RigSt → RigSt) : State :=
  { s with dev := { s.dev with rigs := s.dev.rigs.upd {} r f } }
def State.rigMode (s : State) (r : Nat) : RigMode := (s.rig r).mode

/-- Every rig is IDLE. -/
def State.allIdle (s : State) : Bool := (List.range 16).all (fun r => decide (s.rigMode r = .idle))

/-- The device mode changes, and DEVICE_MODE is posted (R33, R415). -/
def State.enterMode (s : State) (m : DevMode) (cause : Nat) : State :=
  let old := s.dev.mode
  ({ s with dev := { s.dev with mode := m, prevMode := old, cause := cause,
                                changes := satAdd 0xFFFF s.dev.changes 1 } }).post 0 0x52 0
    [(16, 1, m.code), (17, 1, old.code), (18, 1, cause)]

/-- The nominal tick period P in ns (R89). -/
def State.period (s : State) : Nat := s.actF Reg.TICK_PERIOD 0 21 0

/-- Linear device time in ns (R45). -/
def State.linear (s : State) : Nat := s.time.now / nsUnit % 2 ^ 64

/-- Linear device time in units of 2^−16 ns. -/
def State.now16 (s : State) : Nat := s.time.now / 2 ^ 32

/-- The same of an instant `ns` ns into the present 4 ns clock (R57, R77). -/
def State.stamp (s : State) (ns : Nat) : Nat := (s.time.now + ns * nsUnit) / 2 ^ 32

end Sys2Proof.Machine
end

