-- ==== Sys2Proof/Machine/Locks.lean ====
section
/-! DEFINITION. Locked fields (R533, R534). -/

namespace Sys2Proof.Machine

def RegSet.fld (t : RegSet) (r : RegRow) (i hi lo : Nat) : Nat := Machine.fld (t.val r i) hi lo
def RegSet.bit (t : RegSet) (r : RegRow) (i b : Nat) : Bool := Machine.bit (t.val r i) b
def tStreamRig (t : RegSet) (st : Nat) : Nat := t.fld Reg.ST_CTRL st 11 8
/-- The drives of a set: bay A's and, in MIRROR, bay B's slots of DRIVE_MASK (R295). -/
def setDrives (t : RegSet) (m : Nat) : List Nat :=
  let c := t.val Reg.MSET_CTRL m
  let a := (setBits (fld c 19 16) 4).map (fun d => 4 * fld c 9 8 + d)
  if fld c 5 4 = 2 then a ++ (setBits (fld c 19 16) 4).map (fun d => 4 * fld c 13 12 + d) else a

/-- A rig samples a motion channel, or a source of its events is a compare unit on it (R481, R552). -/
def State.rigWatches (s : State) (r c : Nat) : Bool :=
  let t := s.act Reg.RIG_TRIG r
  let on := fun (u : Nat) => decide (u < 32) && decide (fld (s.reg Reg.CMP_CTRL u) 12 8 = c)
  bit (s.act Reg.RIG_MS_CHMASK r) c || on (fld t 5 0) || (bit t 8 && on (fld t 21 16))

/-- A register with a lock: the RW bits it governs. -/
structure LockRow where
  row : RegRow
  mask : Word
  /-- Unit index: the lock holds, given the active and the new set and the mode of each rig. -/
  cond : State → RegSet → (Nat → RigMode) → Nat → Bool

/-- The rigs that a stream is locked by: its active rig and, when it moves, the new one. -/
def lockStream (s : State) (t : RegSet) (m : Nat → RigMode) (st : Nat) : Bool :=
  decide (m (tStreamRig s.activeSet st) ≠ .idle) || decide (m (tStreamRig t st) ≠ .idle)
def lockRig (_ : State) (_ : RegSet) (m : Nat → RigMode) (r : Nat) : Bool := decide (m r ≠ .idle)
def lockTake (_ : State) (_ : RegSet) (m : Nat → RigMode) (r : Nat) : Bool := [RigMode.record, .burst, .offload].contains (m r)
/-- A rig with a stream on a link is not IDLE. -/
def linkBusy (t : RegSet) (m : Nat → RigMode) (l : Nat) : Bool :=
  (List.range 64).any (fun st => t.bit Reg.ST_CTRL st 0 && decide (t.fld Reg.ST_CTRL st 20 16 = l) && decide (m (tStreamRig t st) ≠ .idle))
def lockLink (s : State) (t : RegSet) (m : Nat → RigMode) (l : Nat) : Bool := linkBusy s.activeSet m l || linkBusy t m l
def lockHdp (s : State) (_ : RegSet) (m : Nat → RigMode) (p : Nat) : Bool :=
  (List.range 32).any (fun l => s.activeSet.bit Reg.HL_CTRL l 0 && decide (s.activeSet.fld Reg.HL_CTRL l 31 30 = p)
    && linkBusy s.activeSet m l)
def lockMch (s : State) (_ : RegSet) (m : Nat → RigMode) (c : Nat) : Bool :=
  (List.range 16).any (fun r => decide (m r ≠ .idle) && s.rigWatches r c)

/-- Sets that a take holds, or will hold by a command already taken. -/
def State.setTaken (s : State) (m : Nat) : Bool :=
  (s.mag.sets.get {} m).rig.isSome || s.dev.bound.any (fun b => match b.kind with
    | .rig _ (.command 0x14) _ _ _ _ k => decide (k = m)
    | _ => false)
/-- A bay that a set in use holds, or that is closing. -/
def State.bayTaken (s : State) (b : Nat) : Bool :=
  let q := s.mag.bays.get ({} : BaySt) b
  decide (q.mode = .inUse) || decide (q.mode = .closing)
    || (List.range 8).any (fun m => s.setTaken m && (setDrives s.magSet m).any (fun d => decide (d / 4 = b)))

def lockTab : List LockRow :=
  [⟨Reg.TICK_PERIOD, 0xFFFFFFFF, fun _ _ m _ => (List.range 16).any (fun r => decide (m r ≠ .idle))⟩,
   ⟨Reg.RTMR_CTRL, 0xFFFFFFFF, lockRig⟩, ⟨Reg.RTMR_NUM, 0xFFFFFFFF, lockRig⟩, ⟨Reg.RTMR_DEN, 0xFFFFFFFF, lockRig⟩,
   ⟨Reg.HL_CTRL, 0xFFFFFFFF, lockLink⟩, ⟨Reg.ST_CTRL, 0xFFFFFFFF, lockStream⟩, ⟨Reg.ST_FMT, 0xFFFFFFFF, lockStream⟩,
   ⟨Reg.ST_GEOM, 0xFFFFFFFF, lockStream⟩, ⟨Reg.ST_PIPE, 0xFF300F01, lockStream⟩, ⟨Reg.ST_OB, 0xFFFFFFFF, lockStream⟩,
   ⟨Reg.ST_PV_SCALE, 0xFFFFFFFF, lockStream⟩, ⟨Reg.ST_STORE, 0xFFFFFFFF, lockStream⟩, ⟨Reg.RIG_TRIG, 0x0000003F, lockRig⟩,
   ⟨Reg.HDP_CTRL, 0xFFFFFFFF, lockHdp⟩,
   ⟨Reg.RIG_PREROLL, 0xFFFFFFFF, fun _ _ m r => decide (m r ≠ .idle) && decide (m r ≠ .live)⟩,
   ⟨Reg.RREC_CTRL, 0xFFFFFFFF, lockTake⟩, ⟨Reg.RREC_OFFLOAD, 0xFFFFFFFF, lockTake⟩, ⟨Reg.RIG_TRIG, 0xFFFFFFC0, lockTake⟩] ++
  [⟨Reg.RIG_TRIG_PRE, 0xFFFFFFFF, lockTake⟩, ⟨Reg.RIG_TRIG_POST, 0xFFFFFFFF, lockTake⟩,
   ⟨Reg.MSET_CTRL, 0xFFFFFFFF, fun s _ _ m => s.setTaken m⟩,
   ⟨Reg.BAY_CTRL, 0x00000001, fun s t _ b => s.bayTaken b && !t.bit Reg.BAY_CTRL b 0⟩] ++
  ([Reg.MCH_CTRL, Reg.MCH_TIMING, Reg.MCH_SERIAL, Reg.MCH_SINCOS, Reg.MCH_AMP_WIN, Reg.MCH_SIN_OFS, Reg.MCH_COS_GAIN,
    Reg.MCH_INDEX_POS_LO, Reg.MCH_INDEX_POS_HI, Reg.MCH_INDEX_PERIOD, Reg.MCH_OFFSET_LO, Reg.MCH_OFFSET_HI,
    Reg.MCH_LATCH_DELAY].map (fun r => ⟨r, 0xFFFFFFFF, lockMch⟩))

/-- The RW bits of a register that are locked and that a set would change. -/
def State.lockedBits (s : State) (t : RegSet) (m : Nat → RigMode) (e : LockRow) (i : Nat) : Word :=
  let x := (t.val e.row i ^^^ s.activeSet.val e.row i) &&& e.mask
  if x ≠ 0 && e.cond s t m i then e.mask else 0

/-- A set with its locked fields at their active values (R534). -/
def State.keepLocked (s : State) (t : RegSet) : RegSet :=
  lockTab.foldl (fun u e => (List.range e.row.n1).foldl (fun u i =>
    let m := s.lockedBits t s.rigMode e i
    Tab.put (e.row.reset &&& e.row.rw) u (e.row.addr i) ((u.val e.row i &&& ~~~ m) ||| (s.activeSet.val e.row i &&& m))) u) t

end Sys2Proof.Machine
end

