-- ==== Sys2Proof/Machine/Ops.lean ====
section
/-! DEFINITION. The operations on health, unit states, the service log, streams, links and lanes that commands use. -/

namespace Sys2Proof.Machine

/-! ### Health failures (R541, R542, R544) -/

/-- CFG_ACTIVE_VER and CFG_PREV_VER: 0 when empty (R525, R548). -/
def CfgState.activeVer (c : CfgState) : Nat :=
  match c.active with
  | some x => x.version
  | none => 0
def CfgState.prevVer (c : CfgState) : Nat :=
  match c.previous with
  | some x => x.version
  | none => 0

/-- Append to the boundary queue (R41). -/
def State.pushBound (s : State) (b : Bound) : State := { s with dev := { s.dev with bound := s.dev.bound ++ [b] } }

/-- The set a fallback activates: PREVIOUS, or FACTORY when it is asked for or PREVIOUS is empty. -/
def State.fallbackSet (s : State) (factory : Bool) : RegSet :=
  if factory then [] else (s.cfg.previous.map (·.regs)).getD []

/-- A health condition of R541 during probation whose bit is set in the set's PROB_MASK; it is discarded when a commit or
fallback has been taken for the same boundary (R544). -/
def State.healthFail (s : State) (b : Nat) : State :=
  let c := s.act Reg.CFG_PROB_CTRL
  let n := s.time.tickNum
  if s.cfg.probation.isNone || !(fld c 7 0).testBit b
      || s.dev.bound.any (fun x => decide (x.tick = n + 2) &&
          (match x.kind with | .commit .. => true | .fallback .. => true | _ => false)) then s
  else
    let factory := s.cfg.previous.isNone
    let undo := (s.cfg.pending, s.cfg.probation, s.cfg.failedVersion, s.cfg.fbCause)
    let s : State := { s with cfg := { s.cfg with
      probation := none, failedVersion := s.cfg.activeVer, fbCause := b } }
    if bit c 15 then
      { s with cfg := { s.cfg with pending := s.keepLocked (s.fallbackSet factory), undo := some undo } }.pushBound
        ⟨n + 2, none, .fallback factory false b⟩
    else s.post 9 0x61 0 [(16, 1, 2), (20, 4, s.cfg.activeVer), (24, 4, s.cfg.prevVer)]

/-! ### Unit states and the service log (R550, R573) -/

/-- The state code of a unit. -/
def State.unitCode (s : State) (kind i : Nat) : Nat := s.svc.units.get 0 (kind * 65536 + i)
def State.unitActive (s : State) (kind i : Nat) : Bool := decide (s.unitCode kind i = 2)

def unitKey (kind i : Nat) : Nat := kind * 65536 + i
def State.setSvc (s : State) (f : SvcState → SvcState) : State := { s with svc := f s.svc }
def State.setUnit (s : State) (kind i code : Nat) : State :=
  s.setSvc (fun q => { q with
    units := q.units.put 0 (unitKey kind i) code,
    activeAt := if code = 2 then q.activeAt.put 0 (unitKey kind i) s.time.clk else q.activeAt })

/-- Entries that the persistent log copies: ERROR and FATAL ones, retirements and soft row repairs (R573, R574). -/
def persistentEntry (code detail : Nat) : Bool :=
  [0x3, 0x4, 0x10, 0x11, 0x12, 0x13, 0x50].contains code || (decide (code = 1) && decide (detail % 256 = 6))

/-- Write an entry of the service log, and its copy in the persistent log. -/
def State.logEntry (s : State) (code source detail : Nat) : State :=
  let e : LogEntry := {
    seq := s.svc.logHead, code := code, tick := s.time.tickNum, time := s.linear, source := source, detail := detail }
  let keep := persistentEntry code detail
  s.setSvc (fun q => { q with
    log := (e :: q.log).take 4096, logHead := q.logHead + 1,
    plog := if keep then (e :: q.plog).take 1024 else q.plog, plogHead := q.plogHead + b2n keep })

/-- A unit changes state: UNIT_STATE and a log entry (R551). -/
def State.changeUnit (s : State) (kind i code : Nat) : State :=
  let old := s.unitCode kind i
  if old = code then s
  else
    ((s.setUnit kind i code).post 9 0x60 (target kind i) [(16, 1, code), (17, 1, old)]).logEntry 1 (target kind i) (code + 256 * old)

/-- A unit enters FAILED at once, with its cause (R551, R556, R541). -/
def State.unitFails (s : State) (kind i cause : Nat) : State :=
  let s := s.changeUnit kind i 5
  let s := s.setSvc (fun q => { q with causes := q.causes.put 0 (unitKey kind i) cause })
  (s.setEvt Reg.SVC_EVENTS 0 0).healthFail 7

/-- A central unit is in one of its two recovery ticks (R561). -/
def State.recovering (s : State) (u : Nat) : Bool :=
  s.svc.recov.any (fun e => decide (e.1 = u) && decide (e.2 < s.time.tickNum) && decide (s.time.tickNum < e.2 + 3))
def State.anyRecovery (s : State) : Bool :=
  s.svc.recov.any (fun e => decide (e.2 < s.time.tickNum) && decide (s.time.tickNum < e.2 + 3))

/-- A meaning runs unless the device is held in reset, halted or tripped (R563, R571, R609). -/
def State.go (s : State) (f : State → State) : Host.Outcome State Fault Refusal := .next (if s.svc.stopped.isSome then s else f s)

/-! ### Streams, links and rigs -/

def State.streamOn (s : State) (t : Nat) : Bool := bit (s.act Reg.ST_CTRL t) 0
def State.streamRig (s : State) (t : Nat) : Nat := s.actF Reg.ST_CTRL t 11 8
def State.streamLink (s : State) (t : Nat) : Nat := s.actF Reg.ST_CTRL t 20 16
def State.streamSlot (s : State) (t : Nat) : Nat := s.actF Reg.ST_CTRL t 25 24
/-- The enabled streams of a rig, in ascending order. -/
def State.rigStreams (s : State) (r : Nat) : List Nat :=
  (List.range 64).filter (fun t => s.streamOn t && decide (s.streamRig t = r))
/-- The enabled streams of a head link. -/
def State.linkStreams (s : State) (l : Nat) : List Nat :=
  (List.range 64).filter (fun t => s.streamOn t && decide (s.streamLink t = l))
/-- The enabled stream in a slot of a head link. -/
def State.slotStream (s : State) (l slot : Nat) : Option Nat :=
  (s.linkStreams l).find? (fun t => decide (s.streamSlot t = slot))

def State.lane (s : State) (n : Nat) : LaneSt := s.link.lanes.get {} n
def State.setLane (s : State) (n : Nat) (f : LaneSt → LaneSt) : State :=
  { s with link := { s.link with lanes := s.link.lanes.upd {} n f } }
def State.hl (s : State) (l : Nat) : LinkSt := s.link.links.get {} l
def State.setHl (s : State) (l : Nat) (f : LinkSt → LinkSt) : State :=
  { s with link := { s.link with links := s.link.links.upd {} l f } }

/-- The clocks of 4 ns in a number of ns, µs and ms. -/
def usClk (us : Nat) : Nat := us * 250
def msClk (ms : Nat) : Nat := ms * 250000

end Sys2Proof.Machine
end

