-- ==== Sys2Proof/Machine/Access.lean ====
section
/-! DEFINITION. BAR0 accesses: rights, ACCESS_STATUS, and the guard every register write and read passes through
(R11, R360, R371, R580, R581, R593, R596). -/

namespace Sys2Proof.Machine

/-- Bits of ACCESS_STATUS. -/
def accBcast : Nat := 0
def accBadSize : Nat := 1
def accDenied : Nat := 2
def accNotReady : Nat := 3
def accWakeFail : Nat := 4
def accUnitOff : Nat := 5
def accHeld : Nat := 6
def accDrop : Nat := 7

/-- Set a bit of the port's ACCESS_STATUS, and latch ACCESS_ADDR at the first one since its last read (R580, R581). -/
def State.accFlag (s : State) (p b off : Nat) : State :=
  s.setPort p (fun q => { q with
    accStatus := q.accStatus ||| BitVec.ofNat 32 (2 ^ b),
    accAddr := if bit q.accAddr 31 then q.accAddr else BitVec.ofNat 32 (2 ^ 31 + off % 2 ^ 26) })

/-- The GLOBAL identity and status registers of R579, by offset. -/
def isIdentity (off : Nat) : Bool :=
  [0x0, 0x4, 0x8, 0xC, 0x10, 0x14, 0x18, 0x1C, 0x20, 0x24].contains off
    || (decide (0x40 ≤ off) && decide (off < 0x80)) || decide (off = 0x100)

/-- The port holds a CO-authorised ring (R371, R519). -/
def State.portHasCo (s : State) (p : Nat) : Bool :=
  s.rings.any (fun e => decide (e.2.role = some .co) && decide (s.ringPort e.1 = p))

/-- SEC_TAMPER_CTRL and SEC_SELFTEST_CTRL. -/
def isCoReg (off : Nat) : Bool := decide (off = Reg.SEC_TAMPER_CTRL.addr) || decide (off = Reg.SEC_SELFTEST_CTRL.addr)

/-- The offset lies in the page of a ring that the port owns. -/
def State.ownsRingAt (s : State) (p off : Nat) : Bool :=
  decide (off / 0x100000 = 2) && decide (off % 0x100000 < 0x10000)
    && decide (s.ringPort (off % 0x100000 / 0x40) = p) && s.ringAssigned (off % 0x100000 / 0x40)

/-- The port may write the register at an offset (R371). -/
def State.mayWrite (s : State) (p off : Nat) : Bool :=
  if isCoReg off then s.portHasCo p
  else if s.dev.steward = some p then true
  else
    decide (off = Reg.HEARTBEAT.addr) || decide (off = Reg.STEW_CTRL.addr)
      || decide (off = Reg.PLN_RES_SEL.addr) || decide (off = Reg.STORE_FR_SEL.addr)
      || (s.ownsRingAt p off && [0x4, 0x8, 0xC, 0x14, 0x20].contains (off % 0x40))

/-- The port may read the register at an offset (R371). -/
def State.mayRead (s : State) (p off : Nat) : Bool :=
  if s.dev.steward = some p then true
  else if isCoReg off then s.portHasCo p
  else
    let w := off / 0x100000
    if w = 0 then isIdentity off || decide (off = Reg.STEW_CTRL.addr)
    else if w = 1 then decide (off % 0x100000 / 0x1000 = p)
    else if w = 2 then s.ownsRingAt p off
    else !(w = 13 || w = 14 || w = 15)

/-- A write access of a port at an offset: what stops it, or else its effect (R360, R371). A port whose link is down or that
decodes no memory makes no access (R361, R362). -/
def State.onWrite (s : State) (p off : Nat) (effect : State → State) : State :=
  let s := s.wakePort p
  if !s.portTalks p then s
  else if s.dev.mode = .boot then (if isIdentity off then s else s.accFlag p accNotReady off)
  else if !s.mayWrite p off then (s.count Reg.HP_DENIED_CNT p).accFlag p accDenied off
  else effect s

/-- Store a written word by its fields' access types: RW bits into the pending set, RWI bits at once, W1C bits cleared;
the actions of W1S bits are the writer's (R12). -/
def State.storeBits (s : State) (r : RegRow) (i j : Nat) (v : Word) : State :=
  let c := s.reg r i j
  let s := if r.rwi = 0 ∧ r.w1c = 0 then s
    else s.setReg r i j (((c &&& ~~~ r.rwi) ||| (v &&& r.rwi)) &&& ~~~ (v &&& r.w1c))
  if r.rw = 0 then s
  else { s with cfg := { s.cfg with pending := s.cfg.pending.put (r.reset &&& r.rw) (r.addr i j) (v &&& r.rw) } }

end Sys2Proof.Machine
end

