-- ==== Sys2Proof/Machine/Operands.lean ====
section
/-! DEFINITION. The operand form of ring commands: the descriptor's fields, when the P3236 takes it, the checks of R405
in their order, and the one completion it owes. -/

namespace Sys2Proof.Machine

/-- FLAGS (R400). -/
def fIrq (d : Desc) : Bool := d.flags.getLsbD 0
def fBarrier (d : Desc) : Bool := d.flags.getLsbD 1
def fChain (d : Desc) : Bool := d.flags.getLsbD 2
def fFence (d : Desc) : Bool := d.flags.getLsbD 3
def fNoSnoop (d : Desc) : Bool := d.flags.getLsbD 4

/-- TARGET (R401). -/
def tKind (d : Desc) : Nat := d.target.toNat / 2 ^ 24
def tIndex (d : Desc) : Nat := d.target.toNat % 2 ^ 24

/-- The operand in descriptor bytes `off` to `off + n - 1`. -/
def opAt (d : Desc) (off n : Nat) : Nat := leAt d.ops (off - 8) n

/-- Every operand byte outside the ranges (offset, length) that the command uses is 0 (R400). -/
def unusedZero (d : Desc) (used : List (Nat × Nat)) : Bool :=
  (List.range 56).all (fun k =>
    used.any (fun u => decide (u.1 ≤ k + 8) && decide (k + 8 < u.1 + u.2))
      || decide (d.ops.getD k 0 = 0) || (fChain d && decide (48 ≤ k)))

/-- What the P3236 must keep to complete a descriptor. -/
def ticketOf (d : Desc) (opcode : Nat) : Ticket :=
  { ring := d.ring, tag := d.tag.toNat, target := d.target.toNat, opcode := opcode,
    irq := fIrq d, barrier := fBarrier d }

/-- The next descriptor of a ring can be taken: the ring runs, is of the kind, has a descriptor covered by its doorbell
(R394, R396), no FENCE or BARRIER holds it (R404) and its EVT ring holds nothing in staging (R398). -/
def State.takeable (s : State) (d : Desc) (kind : Nat) : Bool :=
  let q := s.ring d.ring
  decide (q.state = .running) && decide (s.ringKind d.ring = kind) && decide (q.dev ≠ q.db) && !q.barrier && !q.aborting
    && (!fFence d || decide (q.outstanding = 0))
    && (s.ring (s.evtRing d.ring)).staged.isEmpty
    && s.portTalks (s.ringPort d.ring) && decide (s.dev.mode ≠ .boot)

/-- Take a descriptor (R394, R403). -/
def State.take (s : State) (d : Desc) : State :=
  s.setRing d.ring (fun q =>
    { q with dev := q.dev + 1, outstanding := q.outstanding + 1, barrier := q.barrier || fBarrier d })

/-- A refusal of a check: the status and the payload. -/
abbrev Refuse := Option (Nat × List (Nat × Nat × Nat))

/-- The payload of WRONG_STATE (R36). -/
def State.wrongState (s : State) (rig : Option Nat) : Nat × List (Nat × Nat × Nat) :=
  (stWrongState, [(16, 1, s.dev.mode.code),
    (17, 1, match rig with | some r => (s.rigMode r).code | none => 0xFF)])

/-- The structure of a descriptor (R405 step 2): FLAGS bits 7:5 are 0, no chain where the command takes none,
a TARGET of the kind and in range, and unused bytes 0. -/
def structOk (d : Desc) (tOk : Bool) (used : List (Nat × Nat)) (chainOk : Bool) : Bool :=
  decide (d.flags.toNat < 32) && (chainOk || !fChain d) && tOk && unusedZero d used

/-- The checks 1 to 4 of R405, in order: chain length, structure, issuer, modes. -/
def State.check405 (s : State) (d : Desc) (structure_ operands issuer mode : Bool) (rig : Option Nat) : Refuse :=
  if fChain d && decide (16 < d.blocks) then some (stChainLimit, [])
  else if !structure_ || !operands then some (stBadParam, [])
  else if !issuer then some (stDenied, [])
  else if !mode then some (s.wrongState rig)
  else none

/-- Take a descriptor from a CMD ring: nothing happens while it cannot be taken; a failing check completes it with no
effect; otherwise the command's body runs with its ticket (R403, R405, R407). An unknown opcode fails the structure. -/
def State.runCmd (s : State) (d : Desc) (opcode : Nat) (check : State → Refuse)
    (body : Ticket → State → State) : State :=
  if !s.takeable d 0 then s
  else
    let t := { ticketOf d opcode with gen := (s.ring d.ring).gen }
    let s := s.take d
    match (if d.known then check s else s.check405 d false false true true none) with
    | some (st, pl) =>
      (if st = stChainLimit then s.setEvt Reg.RING_EVENTS d.ring 2 else s).complete t st pl
    | none => body t s

/-- The port that owns the descriptor's ring. -/
def State.issuer (s : State) (d : Desc) : Nat := s.ringPort d.ring
def State.isSteward (s : State) (d : Desc) : Bool := decide (s.dev.steward = some (s.issuer d))
/-- The steward, or a controller of the rig in the active set (R42). -/
def State.isCtl (s : State) (d : Desc) (r : Nat) : Bool :=
  s.isSteward d || bit (s.act Reg.HP_CTRL (s.issuer d)) r
/-- A ring authorised for the crypto-officer role (R486). -/
def State.isCo (s : State) (d : Desc) : Bool := decide ((s.ring d.ring).role = some .co)

def State.modeIn (s : State) (l : List DevMode) : Bool := l.contains s.dev.mode

/-- A TARGET of one kind below a bound. -/
def tIs (d : Desc) (kind n : Nat) : Bool := decide (tKind d = kind) && decide (tIndex d < n)
def tNone (d : Desc) : Bool := decide (d.target = 0)

end Sys2Proof.Machine
end

