-- ==== Sys2Proof/Machine/Phy.lean ====
section
/-! DEFINITION. The codes of a lane and of a link stream: Gray mapping and precoding, the scrambler, RS(544,514),
commas, CRCs, the training control word, codeword headers and packets (R116–R131, R156, R159, R162). -/

namespace Sys2Proof.Machine

/-! ### CRCs -/

/-- The register of a CRC after one message bit, for a polynomial of width `w`, most significant bit first. -/
def crcBit (w poly reg : Nat) (b : Bool) : Nat :=
  let top := decide (reg / 2 ^ (w - 1) % 2 = 1)
  let r := reg * 2 % 2 ^ w
  if (top != b) then r ^^^ poly else r

/-- The bits of a number from bit `n - 1` down to bit 0. -/
def bitsDown (n x : Nat) : List Bool := (List.range n).map (fun i => x.testBit (n - 1 - i))

/-- A CRC over bits, most significant first, initial value 0. -/
def crcOf (w poly : Nat) (bs : List Bool) : Nat := bs.foldl (crcBit w poly) 0

/-- CRC-8 of the training control word: x^8 + x^2 + x + 1 (R131). -/
def crc8 (bs : List Bool) : Nat := crcOf 8 0x07 bs

/-- CRC-4 of the codeword header: x^4 + x + 1 (R156). -/
def crc4 (bs : List Bool) : Nat := crcOf 4 0x3 bs

/-- One byte of the reflected CRC-32 of IEEE 802.3. -/
def crc32Byte (reg : Nat) (b : Byte) : Nat :=
  (List.range 8).foldl (fun r _ => if r % 2 = 1 then (r / 2) ^^^ 0xEDB88320 else r / 2) (reg ^^^ b.toNat)

/-- The CRC-32 of IEEE 802.3 (R162). -/
def crc32 (l : List Byte) : Nat := (l.foldl crc32Byte 0xFFFFFFFF) ^^^ 0xFFFFFFFF

/-! ### Levels, values and bits -/

/-- The bit pair of a value G, first bit first (R117). -/
def grayBits : Nat → List Bool
  | 0 => [false, false] | 1 => [false, true] | 2 => [true, true] | _ => [true, false]

/-- The value of a bit pair (R117). -/
def grayVal : Bool → Bool → Nat
  | false, false => 0 | false, true => 1 | true, true => 2 | true, false => 3

/-- Undo the precoder: G_n = (P_n + P_(n−1)) mod 4 (R118). -/
def unprecode : Nat → List Nat → List Nat
  | _, [] => []
  | prev, p :: t => ((p + prev) % 4) :: unprecode p t

/-- The precoder: P_n = (G_n − P_(n−1)) mod 4 (R118). -/
def precode : Nat → List Nat → List Nat
  | _, [] => []
  | prev, g :: t => let p := (g + 4 - prev % 4) % 4; p :: precode p t

/-- One step of the scrambler: the next state and the output bit (R122). -/
def scrStep (s : BitVec 31) : BitVec 31 × Bool :=
  let o := s.getLsbD 30 != s.getLsbD 27
  ((s <<< 1) ||| (if o then 1 else 0), o)

/-- Scramble or descramble bits; the two are identical (R122). -/
def scramble : BitVec 31 → List Bool → List Bool × BitVec 31
  | s, [] => ([], s)
  | s, b :: t =>
    let (s', o) := scrStep s
    let (r, e) := scramble s' t
    ((b != o) :: r, e)

/-- The seed of logical lane `k`; a spare block uses 8 (R123). -/
def laneSeed (k : Nat) : BitVec 31 := BitVec.ofNat 31 (0x2A5F1C63 + (if k ≤ 7 then k else 8) * 0x01000001)

/-- The 10-bit symbols of a bit string, bit 9 first (R120). -/
def symsOf : List Bool → List Nat
  | b9 :: b8 :: b7 :: b6 :: b5 :: b4 :: b3 :: b2 :: b1 :: b0 :: t =>
    ([b9, b8, b7, b6, b5, b4, b3, b2, b1, b0].foldl (fun a b => 2 * a + b2n b) 0) :: symsOf t
  | _ => []

/-! ### RS(544,514) over GF(2^10) (R120, R121) -/

/-- Multiplication by α modulo x^10 + x^3 + 1. -/
def gfShl (a : Nat) : Nat := if a / 512 % 2 = 1 then (a * 2 % 1024) ^^^ 0x9 else a * 2

/-- Multiplication in GF(2^10). -/
def gfMul (a b : Nat) : Nat :=
  ((List.range 10).foldl (fun (acc : Nat × Nat) i =>
    (if b.testBit i then acc.1 ^^^ acc.2 else acc.1, gfShl acc.2)) (0, a)).1

/-- Powers in GF(2^10), by squaring over ten bits of the exponent. -/
def gfPow (a e : Nat) : Nat :=
  ((List.range 10).foldl (fun (acc : Nat × Nat) i =>
    (if e.testBit i then gfMul acc.1 acc.2 else acc.1, gfMul acc.2 acc.2)) (1, a)).1

/-- The inverse of a nonzero element: its power 1022. -/
def gfInv (a : Nat) : Nat := gfPow a 1022

/-- α to the power `e`. -/
def alphaPow (e : Nat) : Nat := gfPow 2 (e % 1023)

/-- The value at `x` of a polynomial whose coefficients come highest first. -/
def gfHorner (x : Nat) (l : List Nat) : Nat := l.foldl (fun acc c => gfMul acc x ^^^ c) 0

/-- The value at `x` of a polynomial whose coefficients come lowest first. -/
def gfEval (x : Nat) (l : List Nat) : Nat := gfHorner x l.reverse

/-- The 30 syndromes: the received word at α^0 to α^29. -/
def syndromes (r : List Nat) : List Nat := (List.range 30).map (fun j => gfHorner (alphaPow j) r)

/-- Coefficient-wise sum of polynomials, lowest first. -/
def gfAdd : List Nat → List Nat → List Nat
  | [], q => q
  | p, [] => p
  | a :: p, b :: q => (a ^^^ b) :: gfAdd p q

/-- The state of Berlekamp and Massey's iteration: C, B, L, m, b. -/
structure BmState where
  c : List Nat := [1]
  b : List Nat := [1]
  l : Nat := 0
  m : Nat := 1
  d : Nat := 1

/-- One iteration over syndrome `n`. -/
def bmStep (syn : List Nat) (st : BmState) (n : Nat) : BmState :=
  let d := (List.range (st.l + 1)).foldl
    (fun acc i => acc ^^^ gfMul (st.c.getD i 0) (syn.getD (n - i) 0)) 0
  if d = 0 then { st with m := st.m + 1 }
  else
    let k := gfMul d (gfInv st.d)
    let c' := gfAdd st.c (List.replicate st.m 0 ++ st.b.map (gfMul k))
    if 2 * st.l ≤ n then { c := c', b := st.c, l := n + 1 - st.l, m := 1, d := d }
    else { st with c := c', m := st.m + 1 }

/-- The error locator polynomial and its degree. -/
def errorLocator (syn : List Nat) : List Nat × Nat :=
  let st := (List.range 30).foldl (bmStep syn) {}
  (st.c, st.l)

/-- The error evaluator: S(x) Λ(x) mod x^30. -/
def errorEvaluator (syn loc : List Nat) : List Nat :=
  (List.range 30).map (fun n =>
    (List.range (n + 1)).foldl (fun acc i => acc ^^^ gfMul (loc.getD i 0) (syn.getD (n - i) 0)) 0)

/-- The formal derivative: odd coefficients, moved down by one. -/
def derivative (loc : List Nat) : List Nat :=
  (List.range loc.length).map (fun i => if i % 2 = 0 then loc.getD (i + 1) 0 else 0)

/-- Decode a received word of 544 symbols: the corrected word and the number of symbols corrected;
`none` where it cannot be corrected (R121). -/
def rsDecode (r : List Nat) : Option (List Nat × Nat) :=
  let syn := syndromes r
  if syn.all (fun x => decide (x = 0)) then some (r, 0)
  else
    let (loc, l) := errorLocator syn
    let om := errorEvaluator syn loc
    let dl := derivative loc
    -- symbol i is the coefficient of x^(543 - i)
    let es := (List.range 544).map (fun i =>
      let xinv := alphaPow (1023 - (543 - i))
      if gfEval xinv loc = 0 then
        some (gfMul (alphaPow (543 - i)) (gfMul (gfEval xinv om) (gfInv (gfEval xinv dl))))
      else none)
    let roots := (es.filter (·.isSome)).length
    if 15 < l || roots ≠ l then none
    else
      let fixed := List.zipWith (fun a e => a ^^^ e.getD 0) r es
      if (syndromes fixed).all (fun x => decide (x = 0)) then some (fixed, l) else none

/-! ### Commas (R125–R128) -/

/-- Levels are held as 0 to 3 for −3, −1, +1, +3. Negation of a level. -/
def negLevel (v : Nat) : Nat := 3 - v

/-- The NORMAL comma (R125). -/
def commaNormal : List Nat :=
  [3, 0, 3, 0, 3, 0, 3, 0, 3, 0, 3, 0, 3, 0, 3, 0] ++
  [3, 3, 0, 0, 3, 3, 0, 0, 3, 3, 0, 0, 3, 3, 0, 0] ++
  [2, 1, 0, 3, 1, 2, 3, 0, 2, 3, 1, 0, 3, 2, 0, 1] ++
  [0, 0, 0, 3, 3, 3, 1, 1, 2, 2, 0, 3, 1, 2, 0, 3]

/-- The levels of a comma variant (R126). -/
def commaOf : Comma → List Nat
  | .normal => commaNormal
  | .swap => commaNormal.take 32 ++ (commaNormal.drop 32).map negLevel
  | .idle => commaNormal.take 16 ++ (commaNormal.drop 16).map negLevel

/-- In how many of 64 symbols two sequences differ. -/
def levelDiff (a b : List Nat) : Nat := ((a.zip b).filter (fun x => x.1 ≠ x.2)).length + (64 - min a.length b.length)

/-- The variant a locked receiver takes a comma for: no more than 4 symbols differ (R128). -/
def classifyComma (l : List Nat) : Option Comma :=
  [Comma.normal, .swap, .idle].find? (fun v => decide (levelDiff l (commaOf v) ≤ 4))

/-! ### The training control word (R131) -/

/-- Bits [hi:lo] of a control word. -/
def cwFld (w : BitVec 48) (hi lo : Nat) : Nat := w.toNat / 2 ^ lo % 2 ^ (hi + 1 - lo)

/-- The control word of 48 bits, if its CRC is good. -/
def parseControl (w : BitVec 48) : Option Control :=
  if crc8 (bitsDown 40 (w.toNat / 256)) = w.toNat % 256 then
    some { rxReady := w.getLsbD 47, precodeReq := w.getLsbD 46, precodeOn := w.getLsbD 45,
           rate := cwFld w 44 43, linkTag := cwFld w 42 38, logical := cwFld w 37 34,
           reqCmd := cwFld w 33 32, reqTap := cwFld w 31 30, reqPreset := cwFld w 29 28,
           reqSeq := cwFld w 27 24, rspSeq := cwFld w 23 20, rspTap := cwFld w 19 18,
           rspStatus := cwFld w 17 16 }
  else none

/-- The bits that a control word is sent as. -/
def encodeControl (c : Control) : BitVec 48 :=
  let v := b2n c.rxReady * 2 ^ 47 + b2n c.precodeReq * 2 ^ 46 + b2n c.precodeOn * 2 ^ 45 + c.rate % 4 * 2 ^ 43
    + c.linkTag % 32 * 2 ^ 38 + c.logical % 16 * 2 ^ 34 + c.reqCmd % 4 * 2 ^ 32 + c.reqTap % 4 * 2 ^ 30
    + c.reqPreset % 4 * 2 ^ 28 + c.reqSeq % 16 * 2 ^ 24 + c.rspSeq % 16 * 2 ^ 20 + c.rspTap % 4 * 2 ^ 18
    + c.rspStatus % 4 * 2 ^ 16
  BitVec.ofNat 48 (v + crc8 (bitsDown 40 (v / 256)))

/-! ### The transmit FFE (R132, R133) -/

/-- The presets of R132. -/
def ffePreset : Nat → Ffe
  | 0 => { m2 := 0, m1 := 0, c0 := 64, p1 := 0 }
  | 1 => { m2 := 0, m1 := -6, c0 := 58, p1 := 0 }
  | 2 => { m2 := 2, m1 := -10, c0 := 52, p1 := 0 }
  | _ => { m2 := 0, m1 := -4, c0 := 54, p1 := -6 }

/-- A tap's value, range and replacement, by REQ_TAP. -/
def ffeTap (f : Ffe) : Nat → Int
  | 0 => f.m2 | 1 => f.m1 | 2 => f.c0 | _ => f.p1
def ffeRange : Nat → Int × Int
  | 0 => (0, 8) | 1 => (-16, 0) | 2 => (32, 64) | _ => (-16, 0)
def ffeSetTap (f : Ffe) (tap : Nat) (x : Int) : Ffe :=
  match tap with
  | 0 => { f with m2 := x } | 1 => { f with m1 := x } | 2 => { f with c0 := x } | _ => { f with p1 := x }

/-- The sum of the taps' magnitudes. -/
def ffeSum (f : Ffe) : Nat := f.m2.natAbs + f.m1.natAbs + f.c0.natAbs + f.p1.natAbs

/-- Apply a request: 1 INC, 2 DEC, 3 PRESET; the new taps and RSP_STATUS (R131, R133). -/
def ffeApply (f : Ffe) (cmd tap preset : Nat) : Ffe × Nat :=
  if cmd = 3 then (ffePreset preset, 0)
  else
    let x := ffeTap f tap + (if cmd = 1 then 1 else -1)
    let r := ffeRange tap
    if x < r.1 then (f, 1) else if r.2 < x then (f, 2)
    else
      let g := ffeSetTap f tap x
      if 64 < ffeSum g then (f, 3) else (g, 0)

/-- LANE_TX_FFE and LANE_FAR_FFE: c(+1), c(0), c(−1), c(−2). -/
def Ffe.word (f : Ffe) : Word :=
  BitVec.ofNat 32 (ofSigned 8 f.p1 * 2 ^ 24 + ofSigned 8 f.c0 * 2 ^ 16 + ofSigned 8 f.m1 * 2 ^ 8 + ofSigned 8 f.m2)

/-! ### Codeword messages, cells and packets (R156, R159, R162) -/

/-- The header of a codeword message: FIRST_SOP, MGMT_CELL, CW_SEQ; `none` where HCHK fails (R156). -/
def parseHeader (bits : List Bool) : Option (Nat × Nat × Nat) :=
  let v := (bits.take 20).foldl (fun a b => 2 * a + b2n b) 0
  if crc4 (bits.take 16) = v % 16 then some (v / 2 ^ 15 % 32, v / 2 ^ 10 % 32, v / 16 % 64) else none

/-- The bytes of a bit string, bit 7 of each byte first. -/
def bytesOfBits : List Bool → List Byte
  | b7 :: b6 :: b5 :: b4 :: b3 :: b2 :: b1 :: b0 :: t =>
    BitVec.ofNat 8 ([b7, b6, b5, b4, b3, b2, b1, b0].foldl (fun a b => 2 * a + b2n b) 0) :: bytesOfBits t
  | _ => []

/-- The 20 cells of a codeword message, 32 bytes each. -/
def cellsOf (bits : List Bool) : List (List Byte) :=
  let bytes := bytesOfBits ((bits.drop 20).take 5120)
  (List.range 20).map (fun i => sliceBytes bytes (32 * i) 32)

/-- A lane-management cell (R159); `none` where its CRC fails. -/
def parseMgmt (c : List Byte) : Option LaneMsg :=
  if crc32 (c.take 28) = leAt c 28 4 then
    some { opcode := leAt c 0 1, subject := leAt c 1 1, seq := leAt c 2 1, arg := leAt c 3 1,
           block := leAt c 4 2, mask := leAt c 6 1 }
  else none

/-- Cells that a packet of LENGTH payload bytes occupies (R162). -/
def pktCells (len : Nat) : Nat := ceilDiv (20 + 4 * ceilDiv len 4) 32

/-- LENGTH in the first cell of a packet. -/
def pktLen (c : List Byte) : Nat := leAt c 2 3

/-- The packet in a run of cells; `none` where its CRC-32 fails, its TYPE is unknown or its LENGTH is out of range (R162, R163). -/
def parsePkt (b : List Byte) : Option Pkt :=
  let len := leAt b 2 3
  let padded := 4 * ceilDiv len 4
  let ty := leAt b 0 1
  let known := [0x00, 0x01, 0x03, 0x04, 0x05, 0x08, 0x09, 0x0A, 0x0B, 0x0C, 0x0D, 0x0E, 0x0F, 0x10, 0x11, 0x12]
  if len ≤ 65536 ∧ known.contains ty ∧ crc32 (b.take (16 + padded)) = leAt b (16 + padded) 4 then
    some { ptype := ty, vc := leAt b 1 1 / 64, slot := leAt b 1 1 / 16 % 4, length := len,
           vcPos := leAt b 5 3, fields := sliceBytes b 8 8, payload := sliceBytes b 16 len }
  else none

/-- The virtual channel a packet type travels on (R163). -/
def pktVc (ty : Nat) : Nat :=
  if ty ≤ 0x09 then 0 else if ty ≤ 0x0F then 1 else 2

end Sys2Proof.Machine
end

