-- ==== Sys2Proof/Machine/PhyTx.lean ====
section
/-! DEFINITION. What the outputs of a lane stand for on the wire: codewords from message to levels, training frames, spare blocks
and injected errors (R115–R123, R130, R143, R151). The outputs of the model name what a transmitter sends; these functions say
which levels that is. -/

namespace Sys2Proof.Machine

/-- The generator polynomial's coefficients below x^30, highest first (R120). -/
def rsGenerator : List Nat :=
  ((List.range 30).foldl (fun g i =>
    let a := alphaPow i
    ((g ++ [0]).zip (0 :: g.map (gfMul a))).map (fun x => x.1 ^^^ x.2)) [1]).drop 1

/-- One message symbol into the division that leaves the parity. -/
def rsStep (g : List Nat) (p : List Nat) (m : Nat) : List Nat :=
  let f := m ^^^ p.headD 0
  ((p.drop 1 ++ [0]).zip g).map (fun (x : Nat × Nat) => x.1 ^^^ gfMul f x.2)

/-- The systematic encoder: 514 message symbols and 30 of parity (R120). -/
def rsEncode (m : List Nat) : List Nat := m ++ m.foldl (rsStep rsGenerator) (List.replicate 30 0)

/-- The values of a bit string taken in pairs (R116, R117). -/
def grayVals : List Bool → List Nat
  | a :: b :: t => grayVal a b :: grayVals t
  | _ => []

/-- A transmitter's scrambler and precoder (R115). -/
structure TxSt where
  scr : BitVec 31
  prevP : Nat := 0
  deriving DecidableEq, Repr

/-- Both restart at a comma (R118, R122). -/
def TxSt.atComma (k : Nat) : TxSt := { scr := laneSeed k }

/-- Complement the bits of `n` RS symbols of a codeword from symbol `i` on, or one bit for kind BIT (R151, POINT CODEWORD). -/
def injectCodeword (j : Inject) (i : Nat) (bits : List Bool) : List Bool :=
  let n := if j.kind = 2 then j.len else 1
  bits.zipIdx.map (fun e =>
    if j.kind = 0 then (if e.2 = 10 * i then !e.1 else e.1)
    else if 10 * i ≤ e.2 ∧ e.2 < 10 * (i + n) then !e.1 else e.1)

/-- A level moved by one: −3 to −1, −1 to +1, +1 to −1, +3 to +1 (R151). -/
def moveLevel : Nat → Nat
  | 0 => 1 | 1 => 2 | 2 => 1 | _ => 2

/-- Move the levels of symbols of a codeword, or flip one bit of a pair for kind BIT (R151, POINT LEVEL). -/
def injectLevels (j : Inject) (i : Nat) (l : List Nat) : List Nat :=
  let n := if j.kind = 2 then j.len else 1
  l.zipIdx.map (fun e =>
    if j.kind = 0 then (if e.2 = i then (match grayBits e.1 with | a :: b :: _ => grayVal (!a) b | _ => e.1) else e.1)
    else if i ≤ e.2 ∧ e.2 < i + n then moveLevel e.1 else e.1)

/-- One codeword from message to levels (R116): encoded, scrambled, Gray mapped, precoded; with an injection that falls into it at
a symbol. -/
def txCodeword (pre : Bool) (t : TxSt) (inj : Option (Inject × Nat)) (msg : List Bool) : List Nat × TxSt :=
  let word := (rsEncode (symsOf msg)).flatMap (bitsDown 10)
  let word := match inj with
    | some (j, i) => if j.point = 1 then injectCodeword j i word else word
    | none => word
  let (bits, scr) := scramble t.scr word
  let g := grayVals bits
  let p := if pre then precode t.prevP g else g
  let p := match inj with
    | some (j, i) => if j.point = 0 then injectLevels j i p else p
    | none => p
  (p, { scr := scr, prevP := p.getLast?.getD t.prevP })

/-- A codeword of a spare block: an all-zero message (R143). -/
def txSpareWord (pre : Bool) (t : TxSt) : List Nat × TxSt := txCodeword pre t none (List.replicate 5140 false)

/-- The bits of a PRBS13 that go on from its last 13 bits, newest first (R130, R150). -/
def prbs13 : Nat → List Bool → List Bool × List Bool
  | 0, h => ([], h)
  | n + 1, h =>
    let b := (h.getD 12 false != h.getD 11 false) != (h.getD 1 false != h.getD 0 false)
    let (r, h') := prbs13 n ((b :: h).take 13)
    (b :: r, h')

/-- A training frame: a NORMAL comma, the control word at two levels a bit, and PRBS13 carried on from frame to frame (R130). -/
def trainingFrameLevels (c : Control) (h : List Bool) : List Nat × List Bool :=
  let ctl := (bitsDown 48 (encodeControl c).toNat).flatMap (fun b => if b then [3, 0] else [0, 3])
  let (bits, h') := prbs13 7872 h
  (commaOf .normal ++ ctl ++ grayVals bits, h')

end Sys2Proof.Machine
end

