-- ==== Sys2Proof/Machine/Lanes.lean ====
section
/-! DEFINITION. The lanes: training, lock, electrical idle and wake, margin, spare lanes and swaps, injection and test
(R115–R155), and the lane-management exchanges (R159–R161, R191). -/

namespace Sys2Proof.Machine

/-! ### Names of lanes and links -/

/-- The head port of a lane, and the lane within the port (R19). -/
def lanePort (n : Nat) : Nat := n / 9
def laneInPort (n : Nat) : Nat := n % 9

/-- The lanes that HL_CTRL bonds to a link, in ascending physical order (logical lane 0 first). -/
def State.bonded (s : State) (l : Nat) : List Nat :=
  let c := s.act Reg.HL_CTRL l
  (setBits (fld c 16 8) 9).map (fun i => 9 * fld c 31 30 + i)

/-- The enabled link that bonds a lane, and the lane's place in it. -/
def State.laneHome (s : State) (n : Nat) : Option (Nat × Nat) :=
  (List.range 32).findSome? (fun l =>
    if bit (s.act Reg.HL_CTRL l) 0 then
      match (s.bonded l).idxOf? n with
      | some k => some (l, k)
      | none => none
    else none)

/-- The spare lane a head port's configuration names (R142). -/
def State.spareLane (s : State) (p : Nat) : Option Nat :=
  let c := s.act Reg.HDP_CTRL p
  if bit c 16 then some (9 * p + fld c 3 0) else none
def State.spareLink (s : State) (p : Nat) : Nat := s.actF Reg.HDP_CTRL p 12 8
/-- The lane that holds the spare role now (HDP_STATUS.SPARE_NOW). -/
def State.spareNow (s : State) (p : Nat) : Option Nat :=
  let v := s.link.spareNow.get 15 p
  if v < 9 then some (9 * p + v) else none
def State.setSpareNow (s : State) (p v : Nat) : State :=
  { s with link := { s.link with spareNow := s.link.spareNow.put 15 p v } }
def State.swapOf (s : State) (p : Nat) : Option Swap := s.link.swaps.get none p
def State.setSwap (s : State) (p : Nat) (w : Option Swap) : State :=
  { s with link := { s.link with swaps := s.link.swaps.put none p w } }

/-- The lane that carries a logical lane of a link now. -/
def State.carrier (s : State) (l k : Nat) : Option Nat :=
  (List.range 36).find? (fun n => decide ((s.lane n).link = some l) && decide ((s.lane n).logical = k)
    && !(s.lane n).spare)

/-- The lanes that carry a link: no spare, no lane that is out of service, in PRBS test or in loopback (R136). -/
def State.linkLanes (s : State) (l : Nat) : List Nat :=
  (List.range 36).filter (fun n =>
    let q := s.lane n
    decide (q.link = some l) && !q.spare && decide (q.logical < 8) && !q.drained
      && !([.off, .failed, .prbsTest, .loopback] : List LaneMode).contains q.mode)

/-- The length of an alignment block in clocks, by LANE_CTRL.RATE (R124, R126). -/
def State.blockClk (s : State) (n : Nat) : Nat :=
  49738 * (match s.actF Reg.LANE_CTRL n 2 1 with | 0 => 4 | 1 => 2 | _ => 1)

/-- The lane carries codewords: data mode or spare run. -/
def LaneSt.inData (q : LaneSt) : Bool := q.mode = .locked || q.mode = .spareRun

/-- The temperature of the sensor of a lane's block, in °C (R139). -/
def State.laneTemp (s : State) (n : Nat) : Int := toSigned 16 (s.reg Reg.SVC_TEMP (4 + lanePort n)).toNat / 8

/-- Set LANE_EVENTS bits and post LANE_EVENT for those newly set (R415). -/
def State.laneEvt (s : State) (n : Nat) (bits : List Nat) : State :=
  let new := bitsOf bits &&& ~~~ s.reg Reg.LANE_EVENTS n
  let s := s.orReg Reg.LANE_EVENTS n (bitsOf bits)
  if new = 0 then s
  else s.post 3 0x29 (target 4 n)
    [(16, 2, new.toNat), (18, 1, (s.lane n).mode.code), (19, 1, (s.lane n).logical)]

/-- A link changes LSTATE and LINK_STATE is posted; leaving UP is a health condition of an enabled stream (R169, R541). -/
def State.setLinkMode (s : State) (l : Nat) (m : LinkMode) : State :=
  let old := (s.hl l).mode
  if old = m then s
  else
    let s := (s.setHl l (fun q => { q with mode := m })).post 3 0x28 (target 3 l) [(16, 1, m.code), (17, 1, old.code)]
    if old = .up && !(s.linkStreams l).isEmpty then s.healthFail 5 else s

/-- Send a lane-management message on a lane, with the link's next MSG_SEQ (R159). -/
def State.sendMgmt (s : State) (l n : Nat) (m : LaneMsg) : State :=
  (s.emit (.mgmt n { m with seq := (s.hl l).msgSeq % 256 })).setHl l (fun q => { q with msgSeq := q.msgSeq + 1 })

/-! ### Training (R130–R134) -/

/-- The control word this lane sends. -/
def State.txControl (s : State) (n : Nat) : Control :=
  let q := s.lane n
  let c := s.act Reg.LANE_CTRL n
  { rxReady := q.ready, precodeReq := bit c 4, precodeOn := q.txPre, rate := fld c 2 1,
    linkTag := q.link.getD 0, logical := if q.spare then 15 else q.logical,
    reqCmd := if q.reqWait then q.reqCmd else 0, reqTap := q.reqTap, reqPreset := q.reqPreset, reqSeq := q.reqSeq,
    rspSeq := q.rspSeq, rspTap := q.rspTap, rspStatus := q.rspStatus }

/-- Training starts: the transmitter sends training frames at its starting preset (R130, R132). -/
def State.startTraining (s : State) (n : Nat) : State :=
  let q := s.lane n
  let was := q.inData || q.mode = .search || q.mode = .wake || q.mode = .eidle
  let s := s.setLane n (fun q => { q with
    mode := .training, trainAt := s.time.clk, farReady := 0, mismatch := 0, ready := false, tail := none,
    ffe := ffePreset (s.actF Reg.LANE_TRAIN_CTRL n 3 2), far := {}, reqSeq := 0, reqWait := false, rspSeq := 0,
    spareReady := false, deskewOk := false, rxPre := false, txPre := false, commaMiss := 0, uncorr := 0,
    lockLostAt := none, failAt := none, retrainReq := false, snrLow := 0, snrHigh := 0 })
  let s := if was then s.laneEvt n [5] else s
  let s := if q.spare then s.setSpareNow (lanePort n) (laneInPort n) else s
  let s := match q.link with
    | some l => if !q.spare then s.setLinkMode l .training else s
    | none => s
  s.emit (.lane n (.training (s.txControl n)))

/-- Training ends with TRAIN_FAIL: a retry follows, or FAILED after three in a row (R134). -/
def State.trainFail (s : State) (n : Nat) : State :=
  let fails := (s.lane n).fails + 1
  let s := s.clrReg Reg.LANE_TRAIN_CTRL n 1
  let s := s.setLane n (fun q => { q with
    fails := fails, failAt := some s.time.clk, trainTemp := s.laneTemp n, mode := if 3 ≤ fails then .failed else .training })
  let s := if 3 ≤ fails ∧ (s.lane n).spare then s.setSpareNow (lanePort n) 15 else s
  (s.laneEvt n [4]).emit (.lane n .off)

/-- The lanes that a link's stream uses when complete. -/
def State.linkReady (s : State) (l : Nat) : Bool :=
  let n := (s.bonded l).length
  decide (0 < n) && (List.range n).all (fun k =>
    match s.carrier l k with
    | some a => decide ((s.lane a).mode = .locked)
    | none => false)

/-- A link starts anew in data mode and waits for CAPABILITY and TIME_LOCK (R165, R168, R169, R171). -/
def State.linkStart (s : State) (l : Nat) : State :=
  (s.setHl l (fun q => { q with
    mask := 2 ^ (s.bonded l).length - 1, cap := none, timeLock := false, sent0 := 0, sent1 := 0, headFreed1 := none,
    burst1 := false, freed1 := 0, freed2 := 0, pos0 := 0, pos1 := 0, pos2 := 0, cwSeq := 0, resync := true, early := [], credited := none, restripeGo := none,
    cells := [], block := 0, beaconBlock := none, beacons := [], delays := [], delayValid := false,
    sentSettings := [], restripe := none, restripeBlock := none, lastSeq := none })).setLinkMode l .capability

/-- Data mode begins after training, or spare run on the spare (R134, R139, R143). The transmitter sends 32 more frames with
RX_READY = 1 and then a NORMAL comma. -/
def State.trainDone (s : State) (n : Nat) : State :=
  let s := s.clrReg Reg.LANE_TRAIN_CTRL n 1
  let s := s.setLane n (fun q => { q with
    mode := if q.spare then .spareRun else .locked, trainTemp := s.laneTemp n, fails := 0, failAt := none,
    deskewOk := true, cw := 4096, rxBlock := 0, txBlock := 0, variant := .normal, uncorr := 0, losing := false,
    spareBits := 0, spareErrs := 0, spareAt := s.time.clk, tail := some 32, txIdleAt := none })
  let q := s.lane n
  let s := s.laneEvt n [3]
  let s := s.emit (.lane n (.training { s.txControl n with rxReady := true } 32))
  let s := s.emit (.lane n (.comma .normal))
  let s := s.emit (.lane n (if q.spare then .spareBlocks else .data q.logical))
  match q.link with
  | some l => if !q.spare && s.linkReady l then s.linkStart l else s
  | none => s

/-- The far end's request applied to this transmitter (R133). -/
def LaneSt.answer (q : LaneSt) (c : Control) : LaneSt :=
  if c.reqCmd = 0 ∨ c.reqSeq = q.rspSeq then q
  else
    let (f, st) := ffeApply q.ffe c.reqCmd c.reqTap c.reqPreset
    { q with ffe := f, rspSeq := c.reqSeq, rspTap := c.reqTap, rspStatus := st }

/-- The far end's answer to this receiver's request, and the next request (R133). -/
def LaneSt.ask (q : LaneSt) (c : Control) (a : Adapt) : LaneSt :=
  let q := if q.reqWait && decide (c.rspSeq = q.reqSeq) then
      { q with reqWait := false,
               far := if c.rspStatus = 0 then (ffeApply q.far q.reqCmd q.reqTap q.reqPreset).1 else q.far }
    else q
  match a.req with
  | some (cmd, tap, preset) =>
    if q.reqWait then q
    else { q with reqWait := true, reqSeq := (q.reqSeq + 1) % 16, reqCmd := cmd, reqTap := tap, reqPreset := preset }
  | none => q

/-- The receiver's adaptation adapts in data mode, in spare run and in training, and is frozen in electrical idle and by
ADAPT_FREEZE (R135). -/
def State.adapting (s : State) (n : Nat) : Bool :=
  let m := (s.lane n).mode
  (m = .locked || m = .spareRun || m = .training) && !bit (s.reg Reg.LANE_EQ_CTRL n) 0
def State.adaptation (s : State) (n : Nat) (a : Adapt) : Adapt := if s.adapting n then a else { skewNs := a.skewNs }

/-- The head still sends the 32 frames that end its training (R134). -/
def State.inTail (s : State) (n : Nat) (w : BitVec 48) : Bool :=
  (s.lane n).inData && (match (s.lane n).tail with | some k => decide (0 < k) | none => false)
    && (match parseControl w with | some c => c.rxReady | none => true)

/-- A training frame received (R130–R134). A lane that a head held in far-end loopback trains when it leaves it (R160). -/
def State.trainingFrame (s : State) (n : Nat) (w : BitVec 48) (a0 : Adapt) : State :=
  let m := (s.lane n).mode
  if !bit (s.act Reg.LANE_CTRL n) 0 || m = .off || m = .failed || m = .prbsTest
      || (m = .loopback && fld (s.reg Reg.LANE_PRBS_CTRL n) 5 4 != 0)
      || (m = .training && (s.lane n).failAt.isSome) then s
  else if s.inTail n w then s.setLane n (fun q => { q with tail := q.tail.map (· - 1) })
  else
    let s := if m = .training then s else s.startTraining n
    let a := s.adaptation n a0
    match parseControl w with
    | none => s
    | some c =>
      let q := s.lane n
      let ctl := s.act Reg.LANE_CTRL n
      let mine := s.txControl n
      let bad := decide (c.rate ≠ mine.rate) || decide (c.linkTag ≠ mine.linkTag) || decide (c.logical ≠ mine.logical)
      let s := s.setLane n (fun q => { (q.answer c).ask c a with
        mismatch := if bad then q.mismatch + 1 else 0,
        farReady := if c.rxReady then q.farReady + 1 else 0,
        txPre := c.precodeReq && bit ctl 5, rxPre := c.precodeOn && bit ctl 4,
        ready := q.ready || a.ready })
      if bad && decide (8 ≤ q.mismatch + 1) then s.trainFail n
      else if (s.lane n).ready && decide (8 ≤ (s.lane n).farReady) then
        if 80 < a.skewNs then s.trainFail n else s.trainDone n
      else s.emit (.lane n (.training (s.txControl n)))

def execTrainingFrame (n : Nat) (w : BitVec 48) (a : Adapt) (s : State) : Host.Outcome State Fault Refusal :=
  s.go (fun s => s.trainingFrame n w a)

/-- Training exceeded TRAIN_TIMEOUT (R134). -/
def State.trainTimeout (s : State) (n : Nat) : State :=
  let q := s.lane n
  if q.mode = .training ∧ q.failAt = none ∧
      q.trainAt + msClk (s.actF Reg.LANE_TRAIN_CTRL n 31 16) ≤ s.time.clk then s.trainFail n else s

def execTrainTimeout (n : Nat) (s : State) : Host.Outcome State Fault Refusal := s.go (fun s => s.trainTimeout n)

/-- 10 ms after a TRAIN_FAIL the lane trains again (R134). -/
def State.trainRetry (s : State) (n : Nat) : State :=
  match (s.lane n).failAt with
  | some t => if (s.lane n).mode = .training ∧ t + msClk 10 ≤ s.time.clk then s.startTraining n else s
  | none => s

def execTrainRetry (n : Nat) (s : State) : Host.Outcome State Fault Refusal := s.go (fun s => s.trainRetry n)

/-- A lane that a restripe left out may rejoin its link: every rig with a stream on the link is IDLE (R161). -/
def State.mayRejoin (s : State) (n : Nat) : Bool :=
  match (s.lane n).link with
  | some l => (s.hl l).mode ≠ .restriped || (s.hl l).mask.testBit (s.lane n).logical
      || (s.linkStreams l).all (fun st => decide (s.rigMode (s.streamRig st) = .idle))
  | none => true

/-- RETRAIN written: training starts, or waits for the end of a swap (R134, R148). DESIGN CHOICE (log 130): a lane that may not
rejoin its restriped link starts no training. -/
def State.retrain (s : State) (n : Nat) : State :=
  if !bit (s.act Reg.LANE_CTRL n) 0 || !s.mayRejoin n then s
  else
    let s := s.setEvt Reg.LANE_TRAIN_CTRL n 0
    let busy : Bool := match s.swapOf (lanePort n) with
      | some w => decide (w.lane = n) || decide (w.spare = n)
      | none => false
    if busy then s.setLane n (fun q => { q with retrainReq := true })
    else (s.setLane n (fun q => { q with fails := 0 })).startTraining n

/-- A lane is powered down while it is not enabled or is in electrical idle (R566). -/
def State.laneOff (s : State) (n : Nat) : Bool := !bit (s.act Reg.LANE_CTRL n) 0 || decide ((s.lane n).mode = .eidle)

/-- A W1S bit that reaches a powered-down lane is ignored (R593). -/
def State.onLane (s : State) (p off n : Nat) (f : State → State) : State :=
  if s.laneOff n then s.accFlag p accUnitOff off else f s

/-- A write of LANE_TRAIN_CTRL; `off` is the address written. -/
def State.laneTrainCtrl (s : State) (p off n : Nat) (v : Word) : State :=
  let s := s.storeBits Reg.LANE_TRAIN_CTRL n 0 v
  if bit v 0 then s.onLane p off n (fun s => s.retrain n) else s

/-! ### Lock, commas, idle and wake (R127, R128, R135–R141) -/

/-- The receiver in SEARCH finds three consecutive NORMAL or SWAP commas (R127). -/
def State.lockGained (s : State) (n : Nat) (commas : List (List Nat)) : State :=
  let ok := decide (commas.length = 3) && commas.all (fun c => c = commaOf .normal || c = commaOf .swap)
  let q := s.lane n
  if !ok then s
  else if q.mode = .training then s.laneEvt n [1]
  else if q.mode = .search then
    (s.setLane n (fun q => { q with
      mode := if q.spare then .spareRun else .locked, commaMiss := 0, lockLostAt := none, uncorr := 0,
      cw := 0, scr := laneSeed (if q.spare then 8 else q.logical), prevP := 0 })).laneEvt n [1]
  else s

def execLockGained (n : Nat) (commas : List (List Nat)) (s : State) : Host.Outcome State Fault Refusal :=
  s.go (fun s => s.lockGained n commas)

/-- Four consecutive commas missing: SEARCH (R128). In a bridge the swap fails with its spare (R148). -/
def State.lockLost (s : State) (n : Nat) : State :=
  let q := s.lane n
  if q.inData ∧ 4 ≤ q.commaMiss then
    let s := s.setLane n (fun q => { q with
      mode := .search, lockLostAt := some s.time.clk, match_ := 0, spareReady := false })
    let s := match s.swapOf (lanePort n) with
      | some w => if w.spare = n ∧ !w.failure then s.setSwap (lanePort n) (some { w with spareLost := true }) else s
      | none => s
    s.laneEvt n [2]
  else s

def execLockLost (n : Nat) (s : State) : Host.Outcome State Fault Refusal := s.go (fun s => s.lockLost n)

/-- Lock has not returned within 10 ms: the lane retrains (R128). -/
def State.relockTimeout (s : State) (n : Nat) : State :=
  match (s.lane n).lockLostAt with
  | some t => if (s.lane n).mode = .search ∧ t + msClk 10 ≤ s.time.clk then s.startTraining n else s
  | none => s

def execRelockTimeout (n : Nat) (s : State) : Host.Outcome State Fault Refusal := s.go (fun s => s.relockTimeout n)

/-- The block of the link's device-to-head grid that starts at least 2 µs from now (R145, R171). -/
def State.blockIn2us (s : State) (l : Nat) : Nat :=
  let q := s.hl l
  match q.beacons.head? with
  | some b => if (s.now16 : Int) + 2000 * 65536 ≤ b.next then q.block + 1 else q.block + 2
  | none => q.block + 2

/-- A lane carries a logical lane of its port's SPARE_LINK. -/
def State.spareServes (s : State) (n : Nat) : Bool :=
  decide ((s.lane n).link = some (s.spareLink (lanePort n))) && !(s.lane n).spare && decide ((s.lane n).logical < 8)

/-- Propose a planned swap of a lane to its port's spare (R144, R145, R159). -/
def State.proposeSwap (s : State) (n : Nat) (t : Option Ticket) : State :=
  match s.spareNow (lanePort n), (s.lane n).link with
  | some sp, some l =>
    let k := (s.lane n).logical
    (s.setSwap (lanePort n) (some { lane := n, spare := sp, logical := k, ticket := t, at_ := s.time.clk })).sendMgmt l n
      { opcode := 1, subject := k }
  | _, _ => s

/-- The spare is ready: locked, SNR at or above the threshold, fewer than 1 error in 10^6 bits over the last 1 s (R143). -/
def State.spareIsReady (s : State) (n : Nat) : Bool :=
  let q := s.lane n
  q.mode = .spareRun
    && decide (10 * s.actF Reg.LANE_EQ_CTRL n 23 16 ≤ fld (s.reg Reg.LANE_SNR n) 15 0)
    && (if q.spareBits < 1000000 then q.spareKept && decide (q.spareErrs = 0) || decide (q.spareErrs * 1000000 < q.spareBits)
        else decide (q.spareErrs * 1000000 < q.spareBits))

/-- The margin of a lane after one block's measurement (R140, R141, R148). -/
def State.margin (s : State) (n snr : Nat) : State :=
  let s := s.setF Reg.LANE_SNR n 15 0 snr
  let th := 10 * s.actF Reg.LANE_EQ_CTRL n 23 16
  let q := s.lane n
  let low := if snr < th then q.snrLow + 1 else 0
  let high := if th + 100 ≤ snr then q.snrHigh + 1 else 0
  let s := s.setLane n (fun q => { q with
    snrLow := low, snrHigh := high,
    marginLow := if 16 ≤ low then true else if 16 ≤ high then false else q.marginLow })
  if low = 16 ∧ !q.marginLow then
    let s := s.laneEvt n [6]
    let p := lanePort n
    let ready := match s.spareNow p with
      | some sp => (s.lane sp).spareReady
      | none => false
    if bit (s.act Reg.LANE_CTRL n) 6 && ready && s.spareServes n then
      match s.swapOf p with
      | none => s.proposeSwap n none
      | some w =>
        -- two lanes in one block: the one with the lower ratio is swapped
        if w.txBlock = none ∧ !w.failure ∧ w.ticket = none ∧ s.time.clk < w.at_ + s.blockClk n / 2
            ∧ snr < fld (s.reg Reg.LANE_SNR w.lane) 15 0 then s.proposeSwap n none else s
    else s
  else s

/-- Ask the head for electrical idle on a link; it waits for a pending swap (R136, R148, R191). -/
def State.eidleEnter (s : State) (l : Nat) : State :=
  let p := s.actF Reg.HL_CTRL l 31 30
  let busy : Bool := match s.swapOf p with
    | some w => decide ((s.lane w.lane).link = some l)
    | none => false
  let s := s.setHl l (fun q => { q with eidleReq := true })
  if busy then s
  else match (s.linkLanes l).head? with
    | some n => s.sendMgmt l n { opcode := 7 }
    | none => s

/-- A swap is over, done or given up: a RETRAIN and an electrical idle that waited for it begin (R148). -/
def State.swapOver (s : State) (w : Swap) : State :=
  let s := if (s.lane w.lane).retrainReq then s.startTraining w.lane else s
  let s := if (s.lane w.spare).retrainReq then s.startTraining w.spare else s
  match (s.lane w.spare).link with
  | some l => if (s.hl l).eidleReq then s.eidleEnter l else s
  | none => s

/-- The codewords that a failed lane has lost since the last block start of its link, or since it failed (R147, R161). -/
def State.lostBlock (s : State) (a : Nat) : State :=
  let n := 4096 - (s.lane a).cw
  (s.countN Reg.LANE_LOST_CW a n).setLane a (fun q => { q with cw := 0 })

/-- A planned bridge ends without its spare: lane a continues, and the spare is the spare again (R148). -/
def State.swapAbort (s : State) (p : Nat) (w : Swap) : State :=
  let s := (s.setSwap p none).laneEvt w.lane [9]
  let s := s.setLane w.spare (fun q => { q with spare := true, logical := 15 })
  (s.completeOpt w.ticket stAborted).swapOver w

/-- The receive side of a swap at a comma of a lane: a SWAP comma on the spare opens block B; the next comma ends it (R145–R148). -/
def State.swapComma (s : State) (n : Nat) (v : Comma) : State :=
  let p := lanePort n
  match s.swapOf p with
  | none => s
  | some w =>
    if w.spareLost ∧ n = w.lane then s.swapAbort p w
    else if n ≠ w.spare then s
    else
      let s := if (w.failure || w.laneFailed) && w.rxBlock.isNone then s.lostBlock w.lane else s
      if v = .swap ∧ w.rxBlock = none then
        let a := s.lane w.lane
        let s := s.setLane n (fun q => { q with
          logical := w.logical, link := a.link, spare := false, mode := .locked, scr := laneSeed w.logical })
        s.setSwap p (some { w with rxBlock := some (s.lane n).rxBlock, rxDone := w.failure })
      else if w.rxBlock.isSome ∧ !w.rxDone then
        let s := s.setLane w.lane (fun q => { q with spare := true, logical := 15, losing := false })
        s.setSwap p (some { w with rxDone := true })
      else s

/-- A restripe takes effect for the receiver at the first block start at least 2 µs after its agreement; until then the lanes
left out lose codewords (R161, R175). -/
def State.restripeComma (s : State) (l n : Nat) : State :=
  if (s.linkLanes l).head? ≠ some n then s
  else
    let lost := (List.range 36).filter (fun a =>
      decide ((s.lane a).link = some l) && (s.lane a).losing && (s.swapOf (lanePort a)).isNone)
    let s := lost.foldl (fun s a => s.lostBlock a) s
    match (s.hl l).restripeGo with
    | some (t, set) =>
      if s.time.clk < t + usClk 2 then s
      else
        let s := lost.foldl (fun s a => s.setLane a (fun q => { q with losing := false })) s
        (s.setHl l (fun q => { q with
          restripeGo := none, mask := set, resync := true, cells := [], early := [], cwSeq := 0 })).setLinkMode l .restriped
    | none => s

/-- The spare role at the end of each second of spare run (R143); a lane freed by a swap that is not ready then fails (R146). -/
def State.spareSecond (s : State) (n at_ : Nat) : State :=
  let ready := s.spareIsReady n
  let s := s.setLane n (fun q => { q with spareReady := ready, freed := q.freed && !ready })
  if s.time.clk < at_ + 250000000 then s
  else
    let s := s.setLane n (fun q => { q with spareAt := s.time.clk, spareBits := 0, spareErrs := 0, spareKept := ready })
    if (s.lane n).freed then
      ((s.setLane n (fun q => { q with mode := .failed, freed := false })).setSpareNow (lanePort n) 15).emit (.lane n .off)
    else s

/-- What else a block start brings: a restripe of the link, the spare's second. -/
def State.blockStart (s : State) (n : Nat) : State :=
  let q := s.lane n
  if q.spare then s.spareSecond n q.spareAt
  else match q.link with
    | some l => s.restripeComma l n
    | none => s

/-- The comma at a block start of a locked receiver (R128, R136, R140, R143). -/
def State.alignmentComma (s : State) (n : Nat) (levels : List Nat) (snr : Nat) : State :=
  let q := s.lane n
  if !q.inData then s
  else
    match classifyComma levels with
    | none =>
      let s := s.setLane n (fun q => { q with
        commaMiss := q.commaMiss + 1, rxBlock := q.rxBlock + 1, cw := 0, prevP := 0,
        scr := laneSeed (if q.spare then 8 else q.logical) })
      ((s.margin n snr).swapComma n .normal).blockStart n
    | some v =>
      let s := s.setLane n (fun q => { q with
        commaMiss := 0, rxBlock := q.rxBlock + 1, cw := 0, prevP := 0, variant := v, tail := none,
        commaAt := some s.time.now, scr := laneSeed (if q.spare then 8 else q.logical) })
      match v with
      | .idle =>
        if q.spare then s
        else
          let s := s.setLane n (fun q => { q with mode := .eidle, idleAt := s.time.clk })
          match q.link with
          | some l =>
            if (s.linkLanes l).all (fun m => decide ((s.lane m).mode = .eidle)) then s.setLinkMode l .eidle else s
          | none => s
      | _ =>
        ((s.margin n snr).swapComma n v).blockStart n

def execAlignmentComma (n : Nat) (levels : List Nat) (snr : Nat) (s : State) : Host.Outcome State Fault Refusal :=
  s.go (fun s => s.alignmentComma n levels snr)

/-- The limits of R137: idle for more than 10 ms, or a temperature change above RETRAIN_TEMP. -/
def State.wakeRetrains (s : State) (n : Nat) : Bool :=
  let q := s.lane n
  decide (q.idleAt + msClk 10 < s.time.clk) || decide (q.txIdleAt.getD q.idleAt + msClk 10 < s.time.clk)
    || decide (s.actF Reg.LANE_EQ_CTRL n 15 8 < (s.laneTemp n - q.trainTemp).natAbs)

/-- The P3236 wakes a link's transmitters (R137, R191). -/
def State.wakeLink (s : State) (l : Nat) : State :=
  (s.linkLanes l).foldl (fun s n =>
    if (s.lane n).mode = .eidle then
      if s.wakeRetrains n then s.startTraining n
      else (s.setLane n (fun q => { q with mode := .wake })).emit (.lane n .wakeBurst)
    else s) s

/-- A wake burst received (R137, R138, R148): one training where a limit is passed, or lock on a new block grid.
Its own transmitter wakes with it. -/
def State.wakeBurst (s : State) (n : Nat) : State :=
  let q := s.lane n
  if q.mode = .eidle ∨ q.mode = .wake then
    if s.wakeRetrains n then s.startTraining n
    else
      let s := if q.mode = .eidle then s.emit (.lane n .wakeBurst) else s
      let s := s.setLane n (fun q => { q with
        mode := .locked, cw := 0, rxBlock := 1, txBlock := 0, prevP := 0, scr := laneSeed q.logical, commaMiss := 0,
        uncorr := 0, txIdleAt := none })
      match q.link with
      | some l => if s.linkReady l then
          let c := (s.hl l).cap
          let s := s.linkStart l
          s.setHl l (fun q => { q with cap := c })
        else s
      | none => s
  else s

def execWakeBurst (n : Nat) (s : State) : Host.Outcome State Fault Refusal := s.go (fun s => s.wakeBurst n)

/-! ### Failures and swaps (R144–R148, R161) -/

/-- The set of a link's logical lanes that work without logical lane k. -/
def State.remaining (s : State) (l k : Nat) : Nat :=
  ((setBits (s.hl l).mask 8).filter (fun j => decide (j ≠ k) && match s.carrier l j with
    | some m => decide ((s.lane m).mode ≠ .failed)
    | none => false)).foldl (fun x j => x + 2 ^ j) 0

/-- With no spare, restripe the link onto its remaining lanes, or lose it with its only lane (R148, R161). -/
def State.restripe (s : State) (l k : Nat) : State :=
  let rest := s.remaining l k
  if rest = 0 then s.setLinkMode l .down
  else
    let s := (s.setEvt Reg.HL_EVENTS l 6).setHl l (fun q => { q with restripe := some rest })
    (setBits rest 8).foldl (fun s j =>
      match s.carrier l j with
      | some m => s.sendMgmt l m { opcode := 5, mask := rest }
      | none => s) s

/-- A receive lane fails: 8 consecutive uncorrectable codewords, or no signal for 100 ns outside electrical idle (R147). -/
def State.laneFailure (s : State) (n : Nat) (noSignal : Bool) : State :=
  let q := s.lane n
  if !q.inData ∨ (!noSignal ∧ q.uncorr < 8) then s
  else
    let p := lanePort n
    let s := s.setLane n (fun q => { q with mode := .failed, losing := true, spareReady := false })
    let s := s.laneEvt n [7]
    let s := if q.spare then s.setSpareNow p 15 else s
    match s.swapOf p, q.link with
    | some w, some l =>
      if w.lane = n then
        -- the spare completes the bridge
        (if w.rxBlock.isNone then s.countN Reg.LANE_LOST_CW n q.uncorr else s).setSwap p (some { w with laneFailed := true })
      else if w.spare = n then s.setSwap p (some { w with spareLost := true })
      else if q.spare then s else (s.countN Reg.LANE_LOST_CW n q.uncorr).restripe l q.logical
    | none, some l =>
      if q.spare then s
      else
        let s := s.countN Reg.LANE_LOST_CW n q.uncorr
        let sp := match s.spareNow p with
          | some x => if (s.lane x).mode = .spareRun then some x else none
          | none => none
        match sp with
        | some x =>
          if bit (s.act Reg.LANE_CTRL n) 6 && s.spareServes n then
            let b := s.blockIn2us l
            let s := s.setSwap p (some { lane := n, spare := x, logical := q.logical, failure := true, txBlock := some b })
            let via := ((s.linkLanes l).head?).getD n
            (s.sendMgmt l via { opcode := 4, subject := q.logical }).emit (.lane x (.takeOver q.logical b true))
          else s.restripe l q.logical
        | none => s.restripe l q.logical
    | _, none => s

def execLaneFailure (n : Nat) (noSignal : Bool) (s : State) : Host.Outcome State Fault Refusal :=
  s.go (fun s => s.laneFailure n noSignal)

/-- The transmit side of a swap has passed its block B. -/
def State.swapTxDone (s : State) (w : Swap) : Bool :=
  match w.txBlock, (s.lane w.spare).link with
  | some b, some l => decide (b < (s.hl l).block)
  | _, _ => false

/-- The measured difference of comma arrivals from one receive pair to another, in 2^−16 ns (R129, R175). -/
def State.commaDiff (s : State) (a b : Nat) : Int :=
  match (s.lane a).commaAt, (s.lane b).commaAt with
  | some x, some y =>
    -- the latest comma of a lane that failed is whole blocks old
    let d : Int := ((y : Int) - x) / (2 ^ 32 : Nat)
    let p : Int := s.blockClk a * 4 * 65536
    let r := d % p
    if p < 2 * r then r - p else r
  | _, _ => 0

/-- Both directions have passed their block B: the swap completes and lane a retrains in the spare role (R146, R148, R175).
DESIGN CHOICE (log 125): LANE_SWAP_CNT of lane a, the freed one, counts it. -/
def State.swapDone (s : State) (p : Nat) : State :=
  match s.swapOf p with
  | none => s
  | some w =>
    if !(w.rxDone && s.swapTxDone w) then s
    else
      let a := s.lane w.lane
      let l := (s.lane w.spare).link.getD 0
      let cnt := s.reg Reg.LANE_SWAP_CNT w.lane
      let s := s.setSwap p none
      let s := s.laneEvt w.lane [8]
      let s := s.setReg Reg.LANE_SWAP_CNT w.lane 0 (BitVec.ofNat 32 (satAdd 0xFFFFFFFF cnt.toNat 1))
      -- a failed lane leaves its link, and a draining one goes out of service instead of taking the spare role
      let drain := decide (s.unitCode 4 w.lane = 3)
      let failed : Bool := decide (a.mode = .failed) || drain
      let s := s.setSpareNow p (if failed then 15 else laneInPort w.lane)
      let s := s.setLane w.lane (fun q => { q with
        spare := !failed, logical := 15, losing := false, link := if failed && !drain then none else some l,
        drained := drain, freed := !failed, mode := if drain then .off else q.mode })
      let s := if drain then s.emit (.lane w.lane .off) else s
      let s := if w.logical = 0 then s.setHl l (fun q => { q with
          delayValid := false, delays := [], delay := q.delay + s.commaDiff w.lane w.spare }) else s
      let s := if failed then s else s.startTraining w.lane
      let s := s.swapOver w
      s.completeOpt w.ticket stDone [(16, 1, w.logical), (17, 1, laneInPort w.spare)]

def execSwapDone (p : Nat) (s : State) : Host.Outcome State Fault Refusal := s.go (fun s => s.swapDone p)

/-- The command LANE_SWAP (R411, R412). -/
def State.laneSwapCheck (d : Desc) (s : State) : Refuse :=
  let n := tIndex d
  match s.check405 d (structOk d (tIs d 4 36) [] false) true (s.isSteward d)
      (s.modeIn [.standby, .operational]) none with
  | some r => some r
  | none =>
    if !s.spareServes n || (s.swapOf (lanePort n)).isSome then some (s.wrongState none)
    else
      let ready := match s.spareNow (lanePort n) with
        | some sp => (s.lane sp).spareReady
        | none => false
      if ready then none else some (stNoResource, [])

def execLaneSwap (d : Desc) (s : State) : Host.Outcome State Fault Refusal :=
  s.go (fun s => s.runCmd d 0x42 (State.laneSwapCheck d) (fun t s => s.proposeSwap (tIndex d) (some t)))

/-! ### Lane management received (R159, R160) -/

/-- Act on a message once: copies with the same MSG_SEQ are ignored (R159). -/
def State.onMgmt (s : State) (n : Nat) (m : LaneMsg) (f : Nat → State → State) : State :=
  match (s.lane n).link with
  | none => s
  | some l =>
    let q := s.hl l
    let s := if q.mrx.head? = some m then s.setHl l (fun q => { q with mrx := q.mrx.drop 1 }) else s
    if q.lastSeq = some m.seq then s
    else f l (s.setHl l (fun q => { q with lastSeq := some m.seq }))

/-- SWAP_PROPOSE from the head: agreed when this spare receiver is ready, refused otherwise (R145, R159). -/
def execSwapPropose (n : Nat) (m : LaneMsg) (s : State) : Host.Outcome State Fault Refusal :=
  s.go (fun s => s.onMgmt n m (fun l s =>
    let p := lanePort n
    match s.carrier l m.subject with
    | none => s.sendMgmt l n { opcode := 3, subject := m.subject, arg := 1 }
    | some a =>
      if (s.swapOf p).isSome then s.sendMgmt l n { opcode := 3, subject := m.subject, arg := 2 }
      else match s.spareNow p with
        | some sp =>
          if (s.lane sp).spareReady ∧ s.spareServes a then
            let b := s.blockIn2us l
            ((s.setSwap p (some { lane := a, spare := sp, logical := m.subject, txBlock := some b })).sendMgmt l n
              { opcode := 2, subject := m.subject }).emit (.lane sp (.takeOver m.subject b true))
          else s.sendMgmt l n { opcode := 3, subject := m.subject, arg := 1 }
        | none => s.sendMgmt l n { opcode := 3, subject := m.subject, arg := 1 }))

/-- SWAP_AGREE: the agreement instant of a swap this end proposed (R145). -/
def execSwapAgree (n : Nat) (m : LaneMsg) (s : State) : Host.Outcome State Fault Refusal :=
  s.go (fun s => s.onMgmt n m (fun l s =>
    let p := lanePort n
    match s.swapOf p with
    | some w =>
      if w.logical = m.subject ∧ w.txBlock = none then
        let b := s.blockIn2us l
        (s.setSwap p (some { w with txBlock := some b })).emit (.lane w.spare (.takeOver w.logical b true))
      else s
    | none => s))

/-- SWAP_REFUSE: the proposed swap is abandoned (R159). -/
def execSwapRefuse (n : Nat) (m : LaneMsg) (s : State) : Host.Outcome State Fault Refusal :=
  s.go (fun s => s.onMgmt n m (fun _ s =>
    let p := lanePort n
    match s.swapOf p with
    | some w =>
      if w.logical = m.subject ∧ w.txBlock = none then
        (((s.setSwap p none).laneEvt w.lane [9]).completeOpt w.ticket stAborted).swapOver w
      else s
    | none => s))

/-- SWAP_REQUEST after a failure at the head: this transmitter begins the logical lane on the spare (R147). -/
def execSwapRequest (n : Nat) (m : LaneMsg) (s : State) : Host.Outcome State Fault Refusal :=
  s.go (fun s => s.onMgmt n m (fun l s =>
    let p := lanePort n
    match s.carrier l m.subject, s.spareNow p, s.swapOf p with
    | some a, some sp, none =>
      if s.spareServes a && decide ((s.lane sp).mode = .spareRun) then
        let b := s.blockIn2us l
        (s.setSwap p (some { lane := a, spare := sp, logical := m.subject, txBlock := some b })).emit
          (.lane sp (.takeOver m.subject b false))
      else s
    | _, _, _ => s))

/-- RESTRIPE_ACK: each transmitter moves to the new set at its first block at least 2 µs on; the receiver follows the head there
(R161, R175). -/
def execRestripeAck (n : Nat) (m : LaneMsg) (s : State) : Host.Outcome State Fault Refusal :=
  s.go (fun s => s.onMgmt n m (fun l s =>
    match (s.hl l).restripe with
    | some set =>
      let b := s.blockIn2us l
      (s.setHl l (fun q => { q with
        restripe := none, restripeBlock := some b, restripeGo := some (s.time.clk, set),
        delayValid := if set.testBit 0 then q.delayValid else false,
        delays := if set.testBit 0 then q.delays else [],
        delay := if set.testBit 0 then q.delay else
          match s.carrier l 0, (setBits set 8).head?.bind (fun k => s.carrier l k) with
          | some a, some b => q.delay + s.commaDiff a b
          | _, _ => q.delay }))
    | none => s))

/-- EIDLE_ACK: the transmitters end their blocks with an IDLE comma and go to common mode (R136). -/
def execEidleAck (n : Nat) (m : LaneMsg) (s : State) : Host.Outcome State Fault Refusal :=
  s.go (fun s => s.onMgmt n m (fun l s =>
    if (s.hl l).eidleReq then
      (s.linkLanes l).foldl (fun s a =>
        ((s.emit (.lane a (.comma .idle))).emit (.lane a .electricalIdle)).setLane a (fun q => { q with txIdleAt := some s.time.clk }))
        (s.setHl l (fun q => { q with eidleReq := false }))
    else s))

/-- LOOPBACK_ACK: far-end loopback of the lane is confirmed (R159); the lane under test enters LOOPBACK. -/
def execLoopbackAck (n : Nat) (m : LaneMsg) (s : State) : Host.Outcome State Fault Refusal :=
  s.go (fun s => s.onMgmt n m (fun l s =>
    match s.carrier l m.subject with
    | some a => if (s.lane a).drained then s.setLane a (fun q => { q with mode := .loopback }) else s
    | none => s))

/-! ### Test facilities (R150–R152) -/

/-- The next bit of a PRBS from the bits before it, newest first: 0 PRBS7, 1 PRBS13, 2 PRBS31 (R150). -/
def prbsNext (pat : Nat) (h : List Bool) : Bool :=
  let g := fun i => h.getD (i - 1) false
  match pat with
  | 0 => g 7 != g 6
  | 1 => (g 13 != g 12) != (g 2 != g 1)
  | _ => g 31 != g 28

/-- How many of the bits differ from the pattern that the bits before them give. -/
def prbsErrors (pat : Nat) : List Bool → List Bool → Nat × List Bool
  | h, [] => (0, h)
  | h, b :: t =>
    let e := prbsNext pat h
    let (n, h') := prbsErrors pat ((e :: h).take 31) t
    (n + b2n (b != e), h')

/-- The checker locks itself after 128 error-free bits (R150); SSPRQ is defined outside the spec, so its bits are taken as they are. -/
def State.prbsLock (s : State) (n : Nat) (bits : List Bool) : State :=
  let c := s.reg Reg.LANE_PRBS_CTRL n
  let pat := fld c 11 10
  let seed := (bits.take 31).reverse
  let clean := decide (pat = 3) || decide ((prbsErrors pat seed (bits.drop 31)).1 = 0)
  if bit c 2 && !bit c 3 && decide (159 ≤ bits.length) && clean then
    (s.setEvt Reg.LANE_PRBS_CTRL n 3).setLane n (fun q => { q with prbs := (bits.reverse).take 31 })
  else s

def execPrbsCheckerLock (n : Nat) (bits : List Bool) (s : State) : Host.Outcome State Fault Refusal :=
  s.go (fun s => s.prbsLock n bits)

/-- The lane may run a generator, checker or loopback: it carries no logical lane and is no spare (R150, R152). -/
def State.testable (s : State) (n : Nat) : Bool :=
  ((s.lane n).link.isNone || (s.lane n).drained) && !(s.lane n).spare

/-- The effect of a write of LANE_PRBS_CTRL on the lane (R150, R152). -/
def State.prbsWritten (s : State) (n : Nat) (old : Word) : State :=
  let c := s.reg Reg.LANE_PRBS_CTRL n
  let s := if bit c 2 && !bit old 2 then
      ((s.set64 Reg.LANE_PRBS_BITS_LO Reg.LANE_PRBS_BITS_HI n 0).set64 Reg.LANE_PRBS_ERR_LO Reg.LANE_PRBS_ERR_HI n 0).clrReg
        Reg.LANE_PRBS_CTRL n 8
    else if !bit c 2 then s.clrReg Reg.LANE_PRBS_CTRL n 8 else s
  if !s.testable n || s.laneOff n then s
  else
    let loop := fld c 5 4
    let on := bit c 1 || bit c 2
    let s := if bit c 1 && (!bit old 1 || decide (fld c 9 8 ≠ fld old 9 8)) then s.emit (.lane n (.pattern (fld c 9 8)))
      else if !bit c 1 && bit old 1 then s.emit (.lane n .off) else s
    let s := if loop = fld old 5 4 then s
      else if loop ≠ 0 then s.emit (.lane n (.loop (decide (loop = 2))))
      else s.emit (.lane n (if bit c 1 then .pattern (fld c 9 8) else .off))
    s.setLane n (fun q => { q with
      mode := if loop ≠ 0 then .loopback else if on then .prbsTest
        else if q.mode = .loopback ∨ q.mode = .prbsTest then .off else q.mode })

/-- Error injection starts (R151): a single injection is done at once; RATE lasts until STOP. -/
def State.injectionGo (s : State) (n : Nat) : State :=
  let c := s.reg Reg.LANE_INJ_CTRL n
  let q := s.lane n
  let kind := fld c 3 2
  if q.inData || q.mode = .prbsTest then
    let i : Inject := { kind := kind, point := fld c 5 4, len := fld c 31 24, exp := fld c 23 20 }
    let s := s.emit (.lane n (.inject i.kind i.point i.len i.exp))
    if kind = 3 then (s.setLane n (fun q => { q with inject := some i })).setEvt Reg.LANE_INJ_CTRL n 0 else s
  else s

/-- STOP ends a RATE injection (R151). -/
def State.injectionStop (s : State) (n : Nat) : State :=
  if (s.lane n).inject.isSome then
    ((s.setLane n (fun q => { q with inject := none })).clrReg Reg.LANE_INJ_CTRL n 1).emit (.lane n .injectStop)
  else s

/-- A write of LANE_INJ_CTRL: its fields, then STOP, then GO. -/
def State.laneInjCtrl (s : State) (p off n : Nat) (v : Word) : State :=
  let s := s.storeBits Reg.LANE_INJ_CTRL n 0 v
  if bit v 0 || bit v 1 then
    s.onLane p off n (fun s =>
      let s := if bit v 1 then s.injectionStop n else s
      if bit v 0 then s.injectionGo n else s)
  else s

end Sys2Proof.Machine
end

