-- ==== Sys2Proof/Machine/Time.lean ====
section
/-! DEFINITION. The time unit: the servo, PTP, references, time steps, tick lengths, rig frame timers, timecode and time
compare units (R44–R87). -/

namespace Sys2Proof.Machine

def State.setTime (s : State) (f : TimeState → TimeState) : State := { s with time := f s.time }

/-- TIME_CTRL.SOURCE. -/
def State.source (s : State) : Nat := s.actF Reg.TIME_CTRL 0 1 0

/-! ### Planning ticks (R66–R68) -/

/-- The period in units of the time counter. -/
def State.periodUnits (s : State) : Nat := s.period * nsUnit

/-- The signed distance of a device time from the nearest multiple of the period (R67). DESIGN CHOICE (log 116): at exactly half
a period the distance is positive. -/
def phaseErr (p t : Nat) : Int :=
  let r := t % p
  if 2 * r ≤ p then (r : Int) else (r : Int) - p

/-- The device time of the boundary that ends a tick begun at `t`: one period on, corrected by at most 0.1 % (R66, R67). -/
def tickEndAfter (p t : Nat) : Nat :=
  (((t + p : Nat) : Int) - clampInt (-((p / 1000 : Nat) : Int)) ((p / 1000 : Nat) : Int) (phaseErr p t)).toNat

/-- The boundary `k` ticks after the present tick's end. -/
def State.tickAhead (s : State) : Nat → Nat
  | 0 => s.time.tickEnd
  | k + 1 => tickEndAfter s.periodUnits (s.tickAhead k)

/-- The time unit's part of a boundary: TICK_NUM increases by 1 (R66, R67); the lead of a step decided in the tick that
ends is fixed (R63). -/
def State.timeTick (s : State) : State :=
  let lead := ((List.range 16).filter (fun r => decide (s.rigMode r ≠ .idle))).foldl
    (fun m r => max m (s.actF Reg.RTMR_CTRL r 23 16)) 0
  s.setTime (fun t => { t with
    tickNum := t.tickNum + 1, tickStart := t.tickEnd, tickEnd := tickEndAfter s.periodUnits t.tickEnd,
    decided := t.decided.map (fun d => if d.tick = t.tickNum then { d with lead := max 1 lead } else d) })

/-- The clock of the time unit: 4 ns on, by an increment that carries the servo's correction (R47). -/
def TimeState.clock (t : TimeState) : TimeState :=
  { t with clk := t.clk + 1, now := ((t.now : Int) + 4 * nsUnit + t.adj * 1024).toNat }

/-! ### The servo (R49–R53, R59) -/

/-- A correction of some ppm, in units of 2^−40. -/
def ppmUnits (ppm : Nat) : Int := ppm * 2 ^ 40 / 1000000

/-- The mean correction of the last 64 s spent LOCKED (R53). -/
def lockedMean : Nat → List (Nat × Int) → Int × Nat
  | _, [] => (0, 0)
  | left, (d, a) :: t =>
    let n := min d left
    let (s, w) := lockedMean (left - n) t
    (s + n * a, w + n)

/-- The bound of the correction, ±SLEW_MAX (R50). -/
def State.slewLimit (s : State) : Int := ppmUnits (s.actF Reg.SLEW_MAX 0 31 0)

/-- With LOCKED_ONLY, PPS_OUT is low unless the servo is LOCKED (R76). -/
def State.ppsGate (s : State) : State :=
  if s.time.ppsOut.isSome && bit (s.act Reg.TIME_CTRL) 11 && decide (s.time.servo ≠ .locked) then
    (s.setTime (fun t => { t with ppsOut := none })).emit (.pin "PPS_OUT" 0 false)
  else s

/-- Change the servo state: its events and SERVO_STATE (R51, R415). In HOLDOVER the correction is held at the mean of R53. -/
def State.setServo (s : State) (v : Servo) : State :=
  let t := s.time
  if t.servo = v then s
  else
    let hist := if t.servo = .locked then (t.clk - t.stateAt, t.adj) :: t.lockedHist else t.lockedHist
    let (sum, w) := lockedMean 16000000000 hist
    let m := s.slewLimit
    let hold := clampInt (-m) m (if w = 0 then t.adj else sum / w)
    let s := s.setTime (fun t => { t with
      servo := v, inLock := 0, outLock := 0, stateAt := t.clk, lockedHist := hist, holdoverAt := t.clk,
      holdAdj := if v = .holdover then hold else t.holdAdj, adj := if v = .holdover then hold else t.adj })
    let s := if t.servo = .locked then s.setEvt Reg.TIME_EVENTS 0 3 else s
    let s := if v = .locked then s.setEvt Reg.TIME_EVENTS 0 2 else s
    let s := if v = .holdover then s.setEvt Reg.TIME_EVENTS 0 4 else s
    (s.post 5 0x3A 0 [(16, 1, v.code), (17, 1, t.servo.code), (18, 1, s.time.activeTp.getD 3)]).ppsGate

/-- The servo loop's new correction: the spec gives its limits only, so the value within them is free (R50, R59). -/
def State.steer (s : State) : State :=
  let t := s.time
  let x := s.freeInt
  let m := s.slewLimit
  let slow := t.pendingStep.isSome && decide (t.servo = .holdover)
  let lo := if slow then max (-m) (t.holdAdj - ppmUnits 1) else -m
  let hi := if slow then min m (t.holdAdj + ppmUnits 1) else m
  let hist := if t.servo = .locked then (t.clk - t.stateAt, t.adj) :: t.lockedHist else t.lockedHist
  (s.setTime (fun t => { t with
    adj := clampInt lo hi x, lockedHist := hist,
    stateAt := if t.servo = .locked then t.clk else t.stateAt })).useFree

/-- When every rig is IDLE, a pending step is decided without acceptance (R60). -/
def State.autoStep (s : State) : State :=
  if s.allIdle && bit (s.act Reg.TIME_CTRL) 10 && s.time.pendingStep.isSome && s.time.decided.isNone then
    s.setTime (fun t => { t with decided := some { tick := t.tickNum, ticket := none, isSet := false } })
  else s

/-- A measurement within the limit moves the servo's state and its correction; HOLDOVER is not left while a step is pending (R51). -/
def State.track (s : State) (off : Int) : State :=
  let t := s.time
  let thr := s.actF Reg.TIME_CTRL 0 23 16
  match t.servo with
  | .free => (s.setServo .acquire).steer
  | .holdover => (if t.pendingStep.isSome then s else s.setServo .acquire).steer
  | .acquire =>
    let n := if off.natAbs < thr then t.inLock + 1 else 0
    if 16 ≤ n then (s.setServo .locked).steer
    else (s.setTime (fun t => { t with inLock := n })).steer
  | .locked =>
    let n := if 4 * thr < off.natAbs then t.outLock + 1 else 0
    if 4 ≤ n then (s.setServo .acquire).steer
    else (s.setTime (fun t => { t with outLock := n })).steer

/-- An offset above the limit is refused: STEP_REFUSED, its event and HOLDOVER (R59). -/
def State.refuseStep (s : State) (off : Int) (src : Nat) : State :=
  (((s.setEvt Reg.TIME_EVENTS 0 0).post 5 0x38 src [(16, 8, ofSigned 64 off)]).setServo .holdover).steer

/-- The pending step is no longer pending: the servo returns to ACQUIRE. A step that was decided and not yet fixed is void; one that
no command decided is forgotten at once (R59, R63). -/
def State.voidStep (s : State) : State :=
  (s.setTime (fun t => { t with
    pendingStep := none,
    decided := match t.decided with
      | some d => if d.ticket.isSome then some { d with void := true } else none
      | none => none })).setServo .acquire

/-- A measurement of the offset (master minus device time, in ns) from a source: 0x0B00_000p for a timing port, 0 for
PPS_IN (R50, R51, R59, R62, R63). -/
def State.measure (s : State) (off : Int) (src : Nat) : State :=
  let t := s.time
  let limit := 1000 * s.actF Reg.TIME_STEP_LIMIT 0 31 0
  let big := decide (limit < off.natAbs)
  let offU := off * nsUnit
  if s.recovering 3 then s
  else if (t.decided.map (·.isSet)).getD false then
    -- the step of TIME_SET keeps its offset and stays pending (R62)
    if !big then s.track off else if t.servo = .holdover then s.steer else s.refuseStep off src
  else if t.pendingStep.isSome then
    if big || ((t.decided.map (·.delta.isSome)).getD false) then
      (s.setTime (fun t => { t with pendingStep := some offU })).steer.autoStep
    else s.voidStep
  else if big then ((s.setTime (fun t => { t with pendingStep := some offU })).refuseStep off src).autoStep
  else s.track off

/-- The source is lost: ACQUIRE or LOCKED becomes HOLDOVER (R51, R52). -/
def State.sourceLost (s : State) : State :=
  if s.time.servo = .acquire ∨ s.time.servo = .locked then s.setServo .holdover else s

/-! ### PTP (R55–R58, R87) -/

def State.tp (s : State) (p : Nat) : TpSt := s.time.tps.get {} p
def State.setTp (s : State) (p : Nat) (f : TpSt → TpSt) : State :=
  s.setTime (fun t => { t with tps := t.tps.upd {} p f })

/-- Lexicographic comparison of the master data that the best master clock algorithm ranks (R55). -/
def masterBetter (a b : Master) : Bool :=
  let ka := [a.priority1, a.clockClass, a.accuracy, a.variance, a.priority2, a.gmId, a.steps]
  let kb := [b.priority1, b.clockClass, b.accuracy, b.variance, b.priority2, b.gmId, b.steps]
  decide (ka < kb)

/-- The best qualified master that the port hears: one with two Announce messages (IEEE 1588-2019). -/
def TpSt.best (q : TpSt) : Option Heard :=
  (q.heard.filter (fun h => decide (2 ≤ h.announces))).foldl (fun b h => match b with
    | none => some h
    | some x => if masterBetter h.master x.master then some h else some x) none

/-- A qualified master is heard. -/
def TpSt.qualified (q : TpSt) : Bool := q.best.isSome

/-- A port hears: it is enabled, its link is up and its unit is ACTIVE (R55, R57, R87). -/
def State.tpHears (s : State) (p : Nat) : Bool :=
  bit (s.act Reg.TP_CTRL p) 0 && (s.tp p).linkUp && s.unitActive 0x0B p

/-- The port that hears the best qualified master; TP0 where both hear the same (R55). -/
def State.bestTp (s : State) : Option Nat :=
  match (if s.tpHears 0 then (s.tp 0).best else none), (if s.tpHears 1 then (s.tp 1).best else none) with
  | some a, some b => if masterBetter b.master a.master then some 1 else some 0
  | some _, none => some 0
  | none, some _ => some 1
  | none, none => none

/-- The identity of the active master. -/
def State.activeGm (s : State) : Option Nat :=
  match s.time.activeTp with
  | some p => (s.tp p).best.map (·.master.gmId)
  | none => none

/-- Follow the best master, where port `old` was active with master `gm`: a change from one port to the other sets TP_SWITCHED
(R55, R56); the metadata TLV is the active master's own and leaves with it (R58). -/
def State.chooseFrom (s : State) (old gm : Option Nat) : State :=
  let new := s.bestTp
  let s := s.setTime (fun t => { t with activeTp := new })
  let s := if new.isSome && decide (s.activeGm ≠ gm ∨ old ≠ new) then s.setTime (fun t => { t with sm := none }) else s
  if old.isSome && new.isSome && decide (old ≠ new) then s.setEvt Reg.TIME_EVENTS 0 5 else s

/-- Follow the best master (R55, R56). -/
def State.chooseTp (s : State) : State := s.chooseFrom s.time.activeTp s.activeGm

/-- The clock's domain (R57). -/
def State.ptpDomain (s : State) : Nat :=
  let d := s.act Reg.TP_DOMAIN
  if bit d 8 then fld d 6 0 else if s.actF Reg.TIME_CTRL 0 5 4 = 1 then 127 else 0

/-- An announce interval of 2^k seconds, in clocks, for k from −3 to 3 (R57). -/
def announceClocks (k : Int) : Nat := 250000000 * 2 ^ (k + 3).toNat / 8

/-- The offset from the master, in ns, of a completed exchange, and the measurement it gives (R50, R57). DEDUCED (log 117): the
offset is the master's time minus device time, the sense of the pending offset in the worked example of a master that jumps back. -/
def State.exchange (s : State) (p : Nat) : State :=
  let q := s.tp p
  match q.t1, q.delay with
  | some t1, some d =>
    let asym := toSigned 32 (s.act Reg.TP_ASYM_NS p).toNat * 65536
    let off := (t1 + q.corr + d + asym - q.t2) / 65536
    let s := s.setTp p (fun q => { q with offset := off })
    if s.source = 1 && decide (s.time.activeTp = some p) then s.measure off (target 0x0B p) else s
  | _, _ => s

/-- A master's latest Announce among those a port has heard. -/
def hear (l : List Heard) (m : PtpMsg) (clk : Nat) : List Heard :=
  let n := ((l.find? (fun h => decide (h.master.gmId = m.master.gmId))).map (·.announces)).getD 0
  { master := m.master, announces := n + 1, at_ := clk, interval := announceClocks m.logInterval, utc := m.utc }
    :: l.filter (fun h => decide (h.master.gmId ≠ m.master.gmId))

/-- A message of the clock's domain on an enabled port. -/
def State.ptpAccept (s : State) (p : Nat) (m : PtpMsg) : State :=
  let now : Int := s.stamp m.ns
  let p2p := bit (s.act Reg.TP_CTRL p) 9
  match m.kind with
  | .announce =>
    if m.logInterval < -3 ∨ 3 < m.logInterval then s
    else
      let s := (s.setTp p (fun q => { q with heard := hear q.heard m s.time.clk })).chooseFrom s.time.activeTp s.activeGm
      if s.time.activeTp = some p && decide (s.activeGm = some m.master.gmId) then
        let s := s.setTime (fun t => { t with utc := m.utc })
        match m.sm with
        | some x => if s.actF Reg.TIME_CTRL 0 5 4 = 1 then
            s.setTime (fun t => { t with sm := some x, smAt := t.clk }) else s
        | none => s
      else s
  | .sync =>
    if !(s.tp p).qualified || decide (m.logInterval < -7 ∨ 1 < m.logInterval) then s
    else
      let s := s.setTp p (fun q => { q with
        t1 := if m.twoStep then none else some m.time, t2 := now, corr := m.corr, waitFup := m.twoStep, t3 := now })
      let s := if p2p then s.setTp p (fun q => { q with preq := now }) else s
      let s := s.emit (.eth p (if p2p then 1 else 0) [])
      if m.twoStep then s else s.exchange p
  | .followUp =>
    if (s.tp p).waitFup then
      (s.setTp p (fun q => { q with t1 := some m.time, corr := q.corr + m.corr, waitFup := false })).exchange p
    else s
  | .delayResp =>
    let q := s.tp p
    match q.t1 with
    | some t1 => if p2p then s
      else s.setTp p (fun q => { q with delay := some (((q.t2 - t1 - q.corr) + (m.time - q.t3 - m.corr)) / 2) })
    | none => s
  | .pdelayResp =>
    if !p2p then s
    else if m.twoStep then s.setTp p (fun q => { q with presp := some (now - q.preq + m.time - m.corr) })
    else s.setTp p (fun q => { q with delay := some ((now - q.preq - m.corr) / 2) })
  | .pdelayRespFup =>
    match (s.tp p).presp with
    | some x => s.setTp p (fun q => { q with presp := none, delay := some ((x - m.time - m.corr) / 2) })
    | none => s
  | .pdelayReq => if p2p then s.emit (.eth p 2 []) else s

/-- A PTP message arrives on a timing port (R57, R87). -/
def State.ptpMessage (s : State) (p : Nat) (m : PtpMsg) : State :=
  let c := s.act Reg.TP_CTRL p
  if !bit c 0 || !(s.tp p).linkUp || s.recovering 3 then s
  else if m.domain ≠ s.ptpDomain ∨ m.transport ≠ fld c 5 4 then s.count Reg.TP_RX_DROP_CNT p
  else (s.count Reg.TP_RX_PTP_CNT p).ptpAccept p m

def execPtpMessage (p : Nat) (m : PtpMsg) (s : State) : Host.Outcome State Fault Refusal := s.go (fun s => s.ptpMessage p m)

/-- A master not heard for three announce intervals has timed out (R52). -/
def Heard.timedOut (h : Heard) (clk : Nat) : Bool := decide (h.at_ + 3 * h.interval ≤ clk)

/-- Three announce intervals without a qualified Announce on a port: its masters that timed out are forgotten. With no qualified
master left on either port the source is lost (R52, R56). -/
def State.ptpLost (s : State) (p : Nat) : State :=
  match (s.tp p).best with
  | none => s.setTp p (fun q => { q with heard := q.heard.filter (fun h => !h.timedOut s.time.clk) })
  | some m =>
    if m.timedOut s.time.clk then
      let s := ((s.count Reg.TP_ANN_TO_CNT p).setTp p (fun q => { q with
        heard := q.heard.filter (fun h => !h.timedOut s.time.clk), t1 := none, delay := none, waitFup := false,
        presp := none })).chooseFrom s.time.activeTp s.activeGm
      if !(s.tp 0).qualified && !(s.tp 1).qualified && decide (s.source = 1) then s.sourceLost else s
    else s

def execPtpSourceLost (p : Nat) (s : State) : Host.Outcome State Fault Refusal := s.go (fun s => s.ptpLost p)

/-- A timing port's link comes up or goes down; the first time up runs its PRBS31 test (R87, R629). -/
def State.tpLink (s : State) (p : Nat) (up : Bool) : State :=
  if !bit (s.act Reg.TP_CTRL p) 0 then s
  else (s.setTp p (fun q => if up then { q with linkUp := true, tested := true }
    else { q with linkUp := false, t1 := none, waitFup := false, presp := none })).chooseFrom s.time.activeTp s.activeGm

def execTpLinkState (p : Nat) (up : Bool) (s : State) : Host.Outcome State Fault Refusal := s.go (fun s => s.tpLink p up)

/-- The IPv6 address of a port as a number. -/
def State.tpIpv6 (s : State) (p : Nat) : Nat :=
  (List.range 4).foldl (fun n j => n + 2 ^ (32 * j) * (s.act Reg.TP_IPV6 p j).toNat) 0

/-- A frame that is no PTP message (R87): 0 ARP request, 1 ICMP echo request, 2 neighbour solicitation, 3 ICMPv6 echo
request, anything else another frame; `addr` is the address it asks for or is sent to. DESIGN CHOICE (log 118): a port whose address is 0
answers nothing for it, and such a frame is dropped and counted. -/
def State.macFrame (s : State) (p kind addr : Nat) (fields : List Nat) : State :=
  if !bit (s.act Reg.TP_CTRL p) 0 || !(s.tp p).linkUp then s
  else
    let v4 := (s.act Reg.TP_IPV4 p).toNat
    let mine := if kind < 2 then decide (addr = v4) && decide (v4 ≠ 0)
      else if kind < 4 then decide (addr = s.tpIpv6 p) && decide (s.tpIpv6 p ≠ 0) else false
    if mine then s.emit (.eth p (3 + kind) fields) else s.count Reg.TP_RX_DROP_CNT p

def execTpMacFrame (p kind addr : Nat) (fields : List Nat) (s : State) : Host.Outcome State Fault Refusal :=
  s.go (fun s => s.macFrame p kind addr fields)

/-! ### Reference signals (R52, R54, R76, R77) -/

/-- Where in the present 4 ns clock an edge falls, in ns: the command does not say, so it is free (R77, log 122). -/
def State.edgeNs (s : State) : Nat := s.freeNat 2

/-- A rising edge of PPS_IN, `ns` ns into the 4 ns clock (R49, R52, R77). DESIGN CHOICE (log 119): any edge is a measurement, so one
more than 1 µs off also counts as the source recovered. -/
def State.ppsEdge (s : State) (ns : Nat) : State :=
  let t : Int := ((s.time.now + ns * nsUnit : Nat) : Int) - toSigned 32 (s.act Reg.PPS_IN_DELAY).toNat * nsUnit
  let sec := (t + secUnit / 2) / secUnit
  let off := (sec * secUnit - t) / nsUnit
  let good := decide (off.natAbs ≤ 1000)
  let s := s.setTime (fun x => { x with
    ppsOk := good, ppsBad := if good then 0 else x.ppsBad + (sec.toNat - x.ppsSec - 1) + 1, ppsSec := sec.toNat })
  if s.source = 2 then s.measure off 0 else s

def execPpsInEdge (s : State) : Host.Outcome State Fault Refusal := s.go (fun s => s.useFree.ppsEdge s.edgeNs)

/-- Three consecutive PPS_IN edges missing or more than 1 µs off (R52). -/
def State.ppsLost (s : State) : State :=
  let sec := (s.time.now - 1000 * nsUnit - 1) / secUnit
  if s.source = 2 && decide (3 ≤ s.time.ppsBad + (sec - s.time.ppsSec)) then
    let s := s.setTime (fun x => { x with ppsOk := false, ppsBad := 0, ppsSec := max x.ppsSec sec })
    (s.setEvt Reg.TIME_EVENTS 0 7).sourceLost
  else s

def execPpsInLost (s : State) : Host.Outcome State Fault Refusal := s.go (fun s => s.ppsLost)

/-- CLK10M_IN shows no edge for 1 µs: the counter goes on with the local oscillator (R54). -/
def State.clk10mLost (s : State) : State :=
  if s.time.clk10mUse then
    (s.setTime (fun t => { t with clk10mUse := false, clk10mOk := false })).setEvt Reg.TIME_EVENTS 0 6
  else s

def execClk10mLost (s : State) : Host.Outcome State Fault Refusal := s.go (fun s => s.clk10mLost)

/-- PPS_OUT rises at a whole second (R76). -/
def State.ppsOutPulse (s : State) : State :=
  let t := s.time
  let sec := t.now / secUnit
  if t.ppsOutSec < sec then
    let s := s.setTime (fun t => { t with ppsOutSec := sec })
    if bit (s.act Reg.TIME_CTRL) 11 && decide (t.servo ≠ .locked) then s
    else (s.setTime (fun t => { t with ppsOut := some (t.now + s.actF Reg.PPS_WIDTH 0 31 0 * nsUnit) })).emit
      (.pin "PPS_OUT" 0 true)
  else s

def execPpsOutPulse (s : State) : Host.Outcome State Fault Refusal := s.go (fun s => s.ppsOutPulse)

/-- A pulse ends: PPS_OUT after PPS_WIDTH, TRIG_OUT[n] after its width (R76, R83, R469). -/
def State.pulseEnd (s : State) : State :=
  let s := match s.time.ppsOut with
    | some e => if e ≤ s.time.now then
        (s.setTime (fun t => { t with ppsOut := none })).emit (.pin "PPS_OUT" 0 false) else s
    | none => s
  let now := s.time.clk
  let left := s.time.pulses.filter (fun x => decide (now < x.until_))
  let fallen := ((s.time.pulses.filter (fun x => decide (x.until_ ≤ now))).map (·.pin)).eraseDups.filter
    (fun p => left.all (fun x => decide (x.pin ≠ p)))
  fallen.foldl (fun s p => s.emit (.pin "TRIG_OUT" p (bit (s.act Reg.TRIG_OUT_POL) p)))
    (s.setTime (fun t => { t with pulses := left }))

def execPulseEnd (s : State) : Host.Outcome State Fault Refusal := s.go (fun s => s.pulseEnd)

/-- A unit starts its pulse of TRIG_OUT[pin], in units of 8 ns, or starts it again. The pin is the OR of every pulse directed to
it, inverted by its bit of TRIG_OUT_POL (R469). Sources 0 to 31 are the position compare units, 32 to 47 the time compare units. -/
def State.pulse (s : State) (source pin width : Nat) : State :=
  let others := s.time.pulses.filter (fun x => decide (x.source ≠ source) || decide (x.pin ≠ pin))
  let high := s.time.pulses.any (fun x => decide (x.pin = pin))
  let s := s.setTime (fun t => { t with pulses := others ++ [{ source := source, pin := pin, until_ := t.clk + 2 * width }] })
  if high then s else s.emit (.pin "TRIG_OUT" pin (!bit (s.act Reg.TRIG_OUT_POL) pin))

/-! ### Time compare units (R82–R85) -/

/-- The target of a compare unit. -/
def State.tcmpTarget (s : State) (u : Nat) : Nat := s.reg64 Reg.TCMP_TARGET_LO Reg.TCMP_TARGET_HI u

/-- A subscription's pacing credits of one firing (R443). -/
def State.paceCredit (s : State) (u : Nat) : State :=
  (List.range 128).foldl (fun s i =>
    let c := s.act Reg.SUB_CTRL i
    if bit c 31 && bit c 23 && decide (fld c 22 19 = u) then
      if (s.mover.subs.get {} i).credits < 255 then
        { s with mover := { s.mover with subs := s.mover.subs.upd {} i (fun q => { q with credits := q.credits + 1 }) } }
      else s.setEvt Reg.SUB_EVENTS i 0
    else s) s

/-- Release the service channels that wait for a firing of a compare unit (R444). -/
def State.paceChannels (s : State) (u : Nat) : State :=
  (List.range 8).foldl (fun s k =>
    let q := s.mover.chans.get ({} : ChanSt) k
    if q.busy && decide (q.pace = 1) && decide (q.paceSel = u) then
      { s with mover := { s.mover with chans := s.mover.chans.upd {} k (fun q => { q with ready := true }) } }
    else s) s

/-- The actions of a firing (R83). -/
def State.tcmpActs (s : State) (u : Nat) (stepped : Bool) : State :=
  let c := s.reg Reg.TCMP_CTRL u
  let tgt := s.tcmpTarget u
  let s := s.setEvt Reg.TCMP_STATUS u 0
  let s := if stepped then s.setEvt Reg.TCMP_STATUS u 1 else s
  let s := if bit c 4 then s.pulse (32 + u) (fld c 11 8) (fld c 23 16) else s
  let s := if bit c 5 then s.post 5 0x3C (target 0x12 u) [(16, 8, tgt), (24, 1, b2n stepped)] else s
  let s := if bit c 6 then s.paceCredit u else s
  s.paceChannels u

/-- Signed 64-bit difference of two linear times (R45). -/
def linDiff (a b : Nat) : Int := toSigned 64 ((a + 2 ^ 64 - b % 2 ^ 64) % 2 ^ 64)

/-- A compare unit fires when device time reaches its target (R82, R84). -/
def State.tcmpFire (s : State) (u : Nat) (stepped : Bool) : State :=
  let c := s.reg Reg.TCMP_CTRL u
  let tgt := s.tcmpTarget u
  if bit c 0 && !s.time.tcmpDone.contains u && decide (0 ≤ linDiff s.linear tgt) then
    let s := s.tcmpActs u stepped
    let per := s.reg64 Reg.TCMP_PERIOD_LO Reg.TCMP_PERIOD_HI u
    if bit c 1 && decide (1000 ≤ per) then
      let s' := s.set64 Reg.TCMP_TARGET_LO Reg.TCMP_TARGET_HI u ((tgt + per) % 2 ^ 64)
      if stepped then
        let d := (linDiff s.linear tgt).toNat / per
        let s := s.set64 Reg.TCMP_TARGET_LO Reg.TCMP_TARGET_HI u ((tgt + (d + 1) * per) % 2 ^ 64)
        s.setF Reg.TCMP_STATUS u 31 16 (satAdd 0xFFFF (fld (s.reg Reg.TCMP_STATUS u) 31 16) d)
      else s'
    else s.setTime (fun t => { t with tcmpDone := u :: t.tcmpDone })
  else s

def execTcmpFire (u : Nat) (s : State) : Host.Outcome State Fault Refusal := s.go (fun s => s.tcmpFire u false)

/-- A new target arms the unit again; one already reached fires at once (R82, R85). -/
def State.tcmpRearm (s : State) (u : Nat) : State :=
  (s.setTime (fun t => { t with tcmpDone := t.tcmpDone.filter (fun v => decide (v ≠ u)) })).tcmpFire u false

/-! ### Rig frame timers (R69–R75) -/

def State.timer (s : State) (r : Nat) : RtmrSt := s.time.timers.get {} r
def State.setTimer (s : State) (r : Nat) (f : RtmrSt → RtmrSt) : State :=
  s.setTime (fun t => { t with timers := t.timers.upd {} r f })

def State.rtmrNum (s : State) (r : Nat) : Nat := (s.act Reg.RTMR_NUM r).toNat
def State.rtmrDen (s : State) (r : Nat) : Nat := (s.act Reg.RTMR_DEN r).toNat
def State.rtmrAlign (s : State) (r : Nat) : Nat := s.actF Reg.RTMR_CTRL r 1 0
def State.trigLead (s : State) (r : Nat) : Nat := s.actF Reg.RTMR_CTRL r 23 16
/-- RTMR_OFFSET in units of 2^−16 ns. -/
def State.rtmrOffset (s : State) (r : Nat) : Int := toSigned 32 (s.act Reg.RTMR_OFFSET r).toNat * 65536

/-- The exposure start of frame n of a periodic timer, for any integer n (R69, R180). -/
def frameStart (s0 : Int) (num den : Nat) (n : Int) : Int := s0 + n * (num * 65536000000000) / den

def State.startOf (s : State) (r : Nat) (n : Int) : Int :=
  frameStart (s.timer r).s0 (s.rtmrNum r) (s.rtmrDen r) n

/-- The first frame of a periodic timer that starts at or after a time. -/
def firstFrameAt (s0 : Int) (num den : Nat) (t : Int) : Nat :=
  if t ≤ s0 then 0
  else
    let g := ((t - s0) * den / (num * 65536000000000)).toNat
    if t ≤ frameStart s0 num den g then g
    else if t ≤ frameStart s0 num den (g + 1 : Nat) then g + 1 else g + 2

/-- The first frame of a rig that exposes at or after a time (in 2^−16 ns): for EVENT timers the next that an event starts. -/
def State.firstAt (s : State) (r : Nat) (t : Int) : Nat :=
  let q := s.timer r
  if q.waitRef then 0
  else if s.rtmrAlign r = 3 then
    match q.last with
    | some (n, x) => if t ≤ x then n else q.next
    | none => q.next
  else firstFrameAt q.s0 (s.rtmrNum r) (s.rtmrDen r) t

/-- The first instant of the epoch grid of a timer at or after E (R71). -/
def epochStart (num den : Nat) (ofs e : Int) : Int :=
  let k := ((e - ofs) * den / (num * 65536000000000))
  let at_ := fun (k : Int) => k * (num * 65536000000000) / den + ofs
  if e ≤ at_ k then at_ k else if e ≤ at_ (k + 1) then at_ (k + 1) else at_ (k + 2)

/-- A run's timer starts at its mode-change boundary (R71). With REF_IN, the expected reference instants go on from the latest edge by
REF_DIV + 1 frame periods; where no edge has been seen, the first edge gives S0 (log 62). -/
def State.timerStart (s : State) (r : Nat) : State :=
  let e : Int := ((s.time.tickStart + s.trigLead r * s.periodUnits : Nat) / 2 ^ 32 : Nat)
  let s0 := match s.rtmrAlign r with
    | 0 => epochStart (s.rtmrNum r) (s.rtmrDen r) (s.rtmrOffset r) e
    | 1 => match s.time.refAt with
      | some x => epochStart (s.rtmrNum r * (s.actF Reg.RTMR_CTRL r 27 24 + 1)) (s.rtmrDen r) (x + s.rtmrOffset r) e
      | none => e
    | _ => e
  s.setTimer r (fun q => { running := true, s0 := s0, waitRef := decide (s.rtmrAlign r = 1) && s.time.refAt.isNone, recent := q.recent })

/-- A step moved the origin: an EPOCH timer's distance from its grid (R75), in ns. -/
def State.alignDistance (s : State) (r : Nat) : Int :=
  let s0 := (s.timer r).s0
  let a := epochStart (s.rtmrNum r) (s.rtmrDen r) (s.rtmrOffset r) s0
  let per : Int := s.rtmrNum r * 65536000000000 / s.rtmrDen r
  let d := s0 - a
  (if 2 * (d + per) < per then d + per else d) / 65536

/-- A REF_IN edge at `eRef`, its cable delay removed, for one running REF_IN timer (R71, R73, R74). -/
def State.refEdge (s : State) (r : Nat) (eRef : Int) : State :=
  let q := s.timer r
  if !q.running || decide (s.rtmrAlign r ≠ 1) then s
  else
    let want := eRef + s.rtmrOffset r
    if q.waitRef then
      if q.s0 ≤ want then s.setTimer r (fun q => { q with s0 := want, waitRef := false, refFrame := 1 }) else s
    else
      let div := s.actF Reg.RTMR_CTRL r 27 24 + 1
      let num := s.rtmrNum r
      let den := s.rtmrDen r
      -- the reference frame nearest to the expected start
      let per : Int := (num * div * 65536000000000 : Nat) / (den : Int)
      let k := ((want - q.s0 + per / 2) / per).toNat
      let err := want - frameStart q.s0 num den (k * div : Nat)
      let far := decide (10000 * 65536 < err.natAbs)
      let missed := k - q.refFrame
      let bad := if far then q.refBad + missed + 1 else 0
      let good := if far then 0 else if missed = 0 then q.refGood + 1 else 1
      let move := if q.refLost || decide (err.natAbs ≤ 50 * 65536) then 0 else clampInt (-65536000) 65536000 err
      let back := q.refLost && decide (3 ≤ good)
      let s := s.setTimer r (fun q => { q with
        refBad := bad, refGood := good, refFrame := max q.refFrame (k + 1), s0 := q.s0 + move, refLost := q.refLost && !back })
      if back then s.post 5 0x3B (target 1 r) [(16, 1, 1)] else s

/-- A rising edge of REF_IN, `ns` ns into the 4 ns clock: every REF_IN timer follows it (R73, R77). -/
def State.refIn (s : State) (ns : Nat) : State :=
  let e : Int := (s.stamp ns : Int) - toSigned 32 (s.act Reg.REF_IN_DELAY).toNat * 65536
  (List.range 16).foldl (fun s r => s.refEdge r e) (s.setTime (fun t => { t with refAt := some e }))

def execRefInEdge (s : State) : Host.Outcome State Fault Refusal := s.go (fun s => s.useFree.refIn s.edgeNs)

/-- Three consecutive REF_IN edges of a timer missing or more than 10 µs off (R74). -/
def State.refLost (s : State) (r : Nat) : State :=
  let q := s.timer r
  let div := s.actF Reg.RTMR_CTRL r 27 24 + 1
  -- `late k`: k expected edges after the latest one are missing
  let late := fun (k : Nat) => decide (0 < k) && decide (s.startOf r ((q.refFrame + k - 1) * div : Nat) + 10000 * 65536 < s.now16)
  if q.running && decide (s.rtmrAlign r = 1) && !q.waitRef && !q.refLost && (decide (3 ≤ q.refBad) || late (3 - q.refBad)) then
    (s.setTimer r (fun q => { q with refLost := true, refGood := 0 })).post 5 0x3B (target 1 r) [(16, 1, 0)]
  else s

def execRefLost (r : Nat) (s : State) : Host.Outcome State Fault Refusal := s.go (fun s => s.refLost r)

/-! ### Timecode (R78–R81) -/

/-- TC_RATE as (numerator, denominator) of its period in seconds, nominal frames a second, drop-frame. -/
def tcRate : Nat → Nat × Nat × Nat × Bool
  | 0 => (1001, 24000, 24, false)
  | 1 => (1, 24, 24, false)
  | 2 => (1, 25, 25, false)
  | 3 => (1001, 30000, 30, false)
  | 4 => (1001, 30000, 30, true)
  | _ => (1, 30, 30, false)

/-- The grid index of the timecode frame that contains a time in 2^−16 ns, and a grid instant. -/
def tcIndex (num den : Nat) (t : Int) : Int := t * den / (num * 65536000000000)
def tcInstant (num den : Nat) (k : Int) : Int := -((-(k * (num * 65536000000000))) / den)

/-- The label of frame `n` of a timecode day (SMPTE ST 12-1). -/
def tcLabel (fps : Nat) (drop : Bool) (n : Nat) : TcLabel :=
  let n := if drop then
      let d := n / 17982
      let m := n % 17982
      n + 18 * d + (if 2 ≤ m then 2 * ((m - 2) / 1798) else 0)
    else n
  { frames := n % fps, seconds := n / fps % 60, minutes := n / (fps * 60) % 60, hours := n / (fps * 3600) % 24,
    drop := drop }

/-- How many frames lie before a label in its day. -/
def tcCount (fps : Nat) (l : TcLabel) : Nat :=
  let mins := l.hours * 60 + l.minutes
  (mins * 60 + l.seconds) * fps + l.frames - (if l.drop then 2 * (mins - mins / 10) else 0)

/-- The latest daily jam at or before a time, in whole seconds of device time (R78). DESIGN CHOICE (log 120): with LOCAL_FROM_PTP set
and no metadata TLV of the active master held, the jam is local midnight from TIME_UTC and TC_LOCAL_OFFSET. -/
def State.jamSecond (s : State) (sec : Int) : Int :=
  match bit (s.act Reg.TC_CTRL) 8 && decide (s.actF Reg.TIME_CTRL 0 5 4 = 1), s.time.sm with
  | true, some x => sec - (sec - x.nextJam) % 86400
  | _, _ =>
    let ofs : Int := 60 * toSigned 16 (s.act Reg.TC_LOCAL_OFFSET).toNat - s.time.utc.getD 0
    sec - (sec + ofs) % 86400

/-- The GENERATED label at a time in 2^−16 ns: every time of one frame of the grid has that frame's label (R78). -/
def State.genLabel (s : State) (t : Int) : TcLabel :=
  let (num, den, fps, drop) := tcRate (s.actF Reg.TC_CTRL 0 2 0)
  let at_ := tcInstant num den (tcIndex num den t)
  let jam := s.jamSecond (at_ / 65536000000000) * 65536000000000
  let first := -((-(jam * den)) / (num * 65536000000000))
  tcLabel fps drop (tcIndex num den t - first).toNat

/-- The label, and whether there is none, at a time (R78, R79). -/
def State.labelAt (s : State) (t : Int) : TcLabel × Bool :=
  if bit (s.act Reg.TC_CTRL) 4 then
    match s.time.ltc.last with
    | some (l, b) =>
      let (num, den, fps, drop) := tcRate (s.actF Reg.TC_CTRL 0 2 0)
      let d := (t - (b / 2 ^ 32 : Nat)) * den / (num * 65536000000000)
      let day := if drop then 2589408 else 86400 * fps
      (tcLabel fps drop (((tcCount fps { l with drop := drop } : Nat) + d) % (day : Nat)).toNat, false)
    | none => ({}, true)
  else (s.genLabel t, false)

def bcd (n : Nat) : Nat := n / 10 * 16 + n % 10

/-- How many starts are kept for the sub-frame index: more than one timecode frame holds at the shortest period (R70, R80). -/
def recentStarts : Nat := 1024

/-- The stamp of R80 of a frame of rig `r` that starts at `t`, as the number its 8 bytes spell; `t0` is the start first given to it
and `shift` what steps have moved that start by since it began. DESIGN CHOICE (log 121): the one byte
of the sub-frame index holds it modulo 256, and the earlier frames are looked for among the rig's latest 1,024 starts. -/
def State.stampOf (s : State) (r : Nat) (t t0 shift : Int) : Nat :=
  let (l, none_) := s.labelAt t
  let (num, den, _, _) := tcRate (s.actF Reg.TC_CTRL 0 2 0)
  let grid := match bit (s.act Reg.TC_CTRL) 4, s.time.ltc.last with
    | true, some (_, b) =>
      let b16 : Int := (b / 2 ^ 32 : Nat)
      b16 + tcInstant num den ((t - b16) * den / (num * 65536000000000))
    | _, _ => tcInstant num den (tcIndex num den t)
  let sub := ((s.timer r).recent.filter (fun x => decide (grid ≤ x - shift) && decide (x < t0))).length
  let fl := b2n (s.time.ltc.flywheel && bit (s.act Reg.TC_CTRL) 4) + 2 * b2n (bit (s.act Reg.TC_CTRL) 4) + 4 * b2n none_
  bcd l.frames + 64 * b2n l.drop + 2 ^ 8 * bcd l.seconds + 2 ^ 16 * bcd l.minutes + 2 ^ 24 * bcd l.hours
    + 2 ^ 32 * (sub % 256) + 2 ^ 40 * fl

/-- Timecode frames of LTC_IN missing between the boundary latest seen and a time (R79). -/
def State.ltcMissing (s : State) (t : Nat) : Nat :=
  let (num, den, _, _) := tcRate (s.actF Reg.TC_CTRL 0 2 0)
  ((t - s.time.ltc.at_) * 2 * den + num * secUnit) / (2 * num * secUnit) - 1

/-- An LTC_IN frame whose boundary lies `ns` ns into the 4 ns clock is decoded, or fails its sync word (R77–R79). -/
def State.ltcFrame (s : State) (ns : Nat) (l : TcLabel) (ok : Bool) : State :=
  let at_ := s.time.now + ns * nsUnit
  let missed := s.ltcMissing at_
  s.setTime (fun t =>
    let good := if !ok then 0 else if missed = 0 then t.ltc.good + 1 else 1
    { t with ltc := { t.ltc with
      last := if ok && (!t.ltc.flywheel || decide (4 ≤ good)) then some (l, at_) else t.ltc.last,
      good := good, bad := if ok then 0 else t.ltc.bad + missed + 1,
      flywheel := t.ltc.flywheel && decide (good < 4), at_ := at_ } })

def execLtcInFrame (hours minutes seconds frames : Nat) (drop ok : Bool) (s : State) :
    Host.Outcome State Fault Refusal :=
  s.go (fun s => s.useFree.ltcFrame s.edgeNs { hours := hours, minutes := minutes, seconds := seconds, frames := frames, drop := drop } ok)

/-- Four consecutive LTC_IN frames missing or bad (R79). -/
def State.ltcLost (s : State) : State :=
  let missing := if s.time.ltc.last.isSome then s.ltcMissing s.time.now else 0
  if !s.time.ltc.flywheel && decide (4 ≤ s.time.ltc.bad + missing) then
    (s.setTime (fun t => { t with ltc := { t.ltc with flywheel := true, good := 0 } })).setEvt Reg.TIME_EVENTS 0 8
  else s

def execLtcInLost (s : State) : Host.Outcome State Fault Refusal := s.go (fun s => s.ltcLost)

/-- LTC_OUT sends the label of a grid frame at its instant (R81). -/
def State.ltcOut (s : State) : State :=
  let (num, den, _, _) := tcRate (s.actF Reg.TC_CTRL 0 2 0)
  let k := (tcIndex num den s.now16).toNat
  if bit (s.act Reg.TC_CTRL) 7 && decide (s.time.ltcOutNext ≤ k) then
    let l := s.genLabel s.now16
    (s.setTime (fun t => { t with ltcOutNext := k + 1 })).emit (.ltc l.hours l.minutes l.seconds l.frames l.drop)
  else s

def execLtcOutFrame (s : State) : Host.Outcome State Fault Refusal := s.go (fun s => s.ltcOut)

/-! ### Time steps (R59–R63) -/

/-- The checks of R61 on a step; `pend`: a pending step is asked for. -/
def State.stepCheck (d : Desc) (used : List (Nat × Nat)) (force : Nat) (pend : Bool) (s : State) : Refuse :=
  match s.check405 d (structOk d (tNone d) used false) (decide (force ≤ 1)) (s.isSteward d)
      (s.modeIn [.standby, .operational]) none with
  | some r => some r
  | none =>
    if (pend && s.time.pendingStep.isNone) || (!pend && decide (s.source = 1)) || s.time.decided.isSome
        || (decide (force = 0) &&
            (List.range 16).any (fun r => decide (s.rigMode r = .record) || decide (s.rigMode r = .burst)))
    then some (s.wrongState none) else none

/-- The command TIME_STEP_ACCEPT (R61). -/
def execTimeStepAccept (d : Desc) (s : State) : Host.Outcome State Fault Refusal :=
  s.go (fun s => s.runCmd d 0x30 (State.stepCheck d [(8, 1)] (opAt d 8 1) true) (fun t s =>
    s.setTime (fun x => { x with decided := some { tick := x.tickNum, ticket := some t, isSet := false } })))

/-- The command TIME_SET (R62). -/
def execTimeSet (d : Desc) (s : State) : Host.Outcome State Fault Refusal :=
  s.go (fun s => s.runCmd d 0x31 (State.stepCheck d [(8, 11)] (opAt d 18 1) false) (fun t s =>
    let want : Int := (opAt d 8 8 : Int) * nsUnit + opAt d 16 2 * 2 ^ 32
    s.setTime (fun x => { x with
      pendingStep := some (want - x.now),
      decided := some { tick := x.tickNum, ticket := some t, isSet := true } })))

end Sys2Proof.Machine
end

