-- ==== Sys2Proof/Machine/Store.lean ====
section
/-! DEFINITION. The frame store and page manager: pages, caches and free lists, frame records, the Tally, pre-roll and
burst, watermarks (R234–R269), and what a frame holds (R227, R243, R251). -/

namespace Sys2Proof.Machine

def State.setStore (s : State) (f : StoreState → StoreState) : State := { s with store := f s.store }

/-! ### Geometry (R91, R185, R202, R218) -/

def depthBits (code : Nat) : Nat := [8, 10, 12, 14, 16].getD code 16
def geomW (t : RegSet) (st : Nat) : Nat := t.fld Reg.ST_GEOM st 15 0 + 1
def geomH (t : RegSet) (st : Nat) : Nat := t.fld Reg.ST_GEOM st 31 16 + 1
def geomD (t : RegSet) (st : Nat) : Nat := depthBits (t.fld Reg.ST_FMT st 2 0)
/-- Bytes of a line and of a frame's payload. -/
def lineBytes (t : RegSet) (st : Nat) : Nat := ceilDiv (geomW t st * geomD t st) 8
def frameBytes (t : RegSet) (st : Nat) : Nat := geomH t st * lineBytes t st
def framePages (t : RegSet) (st : Nat) : Nat := ceilDiv (frameBytes t st) 65536
/-- Mb of R92: the bytes a frame occupies on a magazine. -/
def magBytes (t : RegSet) (st : Nat) : Nat := 4096 + 4096 * ceilDiv (frameBytes t st) 4096
def obWidth (t : RegSet) (st : Nat) : Nat := 8 * t.fld Reg.ST_OB st 5 0
def activeWidth (t : RegSet) (st : Nat) : Nat := geomW t st - obWidth t st
/-- The quad size and the preview's size and stride (R217, R218, R222). -/
def pvQuad (t : RegSet) (st : Nat) : Nat := if t.fld Reg.ST_PIPE st 11 9 = 0 then 1 else 2
def pvSx (t : RegSet) (st : Nat) : Nat := t.fld Reg.ST_PV_SCALE st 3 0 + 1
def pvSy (t : RegSet) (st : Nat) : Nat := t.fld Reg.ST_PV_SCALE st 11 8 + 1
def pvW (t : RegSet) (st : Nat) : Nat := activeWidth t st / pvQuad t st / pvSx t st
def pvH (t : RegSet) (st : Nat) : Nat := geomH t st / pvQuad t st / pvSy t st
def pvStride (t : RegSet) (st : Nat) : Nat :=
  64 * ceilDiv (pvW t st * (if t.bit Reg.ST_PIPE st 21 then 4 else 3)) 64
def pvBytes (t : RegSet) (st : Nat) : Nat := 64 + pvH t st * pvStride t st

/-! ### Frames -/

def State.frame? (s : State) (id : Nat) : Option FrameSt := s.store.frames.find? (fun f => decide (f.id = id))
def State.setFrame (s : State) (id : Nat) (f : FrameSt → FrameSt) : State :=
  s.setStore (fun q => { q with frames := q.frames.map (fun x => if x.id = id then f x else x) })
def State.stream (s : State) (st : Nat) : StreamSt := s.store.streams.get {} st
def State.setStream (s : State) (st : Nat) (f : StreamSt → StreamSt) : State :=
  s.setStore (fun q => { q with streams := q.streams.upd {} st f })
def State.run (s : State) (r : Nat) : RigRun := s.takes.runs.get {} r
def State.setRun (s : State) (r : Nat) (f : RigRun → RigRun) : State :=
  { s with takes := { s.takes with runs := s.takes.runs.upd {} r f } }
def State.take? (s : State) (id : Nat) : Option Take := s.takes.takes.find? (fun t => decide (t.id = id))
def State.setTake (s : State) (id : Nat) (f : Take → Take) : State :=
  { s with takes := { s.takes with takes := s.takes.takes.map (fun x => if x.id = id then f x else x) } }

/-- The number of a frame's holders (R251). -/
def Holders.tally (h : Holders) : Nat :=
  b2n h.preview + b2n h.sealing + b2n h.record + b2n h.preroll + b2n h.burst + h.subs.length

/-- The frame has a record. -/
def FrameSt.live (f : FrameSt) : Bool := f.phase = .opened || f.phase = .ended || f.phase = .closed

/-- STORE_EVENTS bits, with STORE_ALERT for those newly set (R415). -/
def State.freePages (s : State) : Nat :=
  (List.range 128).foldl (fun n c =>
    if s.unitActive 0x0F c then
      let q := s.store.pcs.get {} c
      n + (17408 - q.fresh) + q.back.length
    else n) 0 - (s.store.withheld.filter (fun p => decide ((s.store.pcs.get {} (p % 128)).fresh ≤ p / 128))).length

def State.storeEvt (s : State) (bits : List Nat) : State :=
  let new := bitsOf bits &&& ~~~ s.reg Reg.STORE_EVENTS
  let s := s.orReg Reg.STORE_EVENTS 0 (bitsOf bits)
  if new = 0 then s else s.post 7 0x48 0 [(16, 2, new.toNat), (20, 4, s.freePages)]

/-! ### Frame pages and the allocator (R234, R238) -/

/-- Take a page of a pseudo-channel: the oldest returned page, or the next page never used; withheld pages are skipped. -/
def takePc (withheld : List Nat) (c : Nat) : Nat → PcSt → Option (Nat × PcSt)
  | 0, _ => none
  | fuel + 1, q =>
    match q.back with
    | i :: t => some (i * 128 + c, { q with back := t, live := q.live + 1 })
    | [] =>
      if 17408 ≤ q.fresh then none
      else
        let q' := { q with fresh := q.fresh + 1 }
        if withheld.contains (q.fresh * 128 + c) then takePc withheld c fuel q'
        else some (q.fresh * 128 + c, { q' with live := q.live + 1 })

/-- The next page in pseudo-channel order, skipping empty lists and units that are not ACTIVE (R238). -/
def State.popPage (s : State) : Nat → Nat → Option (Nat × State)
  | 0, _ => none
  | fuel + 1, c =>
    let got := if s.unitActive 0x0F c then takePc s.store.withheld c 64 (s.store.pcs.get {} c) else none
    match got with
    | some (p, q) => some (p, s.setStore (fun x => { x with pcs := x.pcs.put {} c q, lastPc := c }))
    | none => popPage s fuel ((c + 1) % 128)

def State.allocPage (s : State) : Option (Nat × State) :=
  if s.store.ready then s.popPage 128 ((s.store.lastPc + 1) % 128) else none

/-- A page rejoins the free list of its pseudo-channel, unless it is withheld (R252, R272). -/
def State.freePage (s : State) (p : Nat) : State :=
  s.setStore (fun x => { x with pcs := x.pcs.upd {} (p % 128) (fun q => { q with
    live := q.live - 1, back := if x.withheld.contains p then q.back else q.back ++ [p / 128] }) })

/-- Compare the free pages with the watermarks (R269). -/
def State.watermarks (s : State) : State :=
  if !s.store.ready then s
  else
    let n := s.freePages
    let wm := fun (r : RegRow) => (s.act r).toNat
    let step := fun (old : Bool) (r : RegRow) (gap : Nat) =>
      if n < wm r then true else if wm r + gap ≤ n then false else old
    let a := step s.store.belowSpill Reg.STORE_WM_SPILL 32768
    let b := step s.store.belowBacklog Reg.STORE_WM_BACKLOG 32768
    let c := step s.store.belowCrit Reg.STORE_WM_CRIT 16384
    let s' := s.setStore (fun x => { x with
      belowSpill := a, belowBacklog := b, belowCrit := c,
      backlogDue := x.backlogDue || (b && !x.belowBacklog) })
    let new := (if a && !s.store.belowSpill then [2] else []) ++ (if b && !s.store.belowBacklog then [3] else [])
      ++ (if c && !s.store.belowCrit then [4] else [])
    let s' := if new.isEmpty then s' else s'.storeEvt new
    if c && !s.store.belowCrit then s'.healthFail 2 else s'

/-- Refill a stream's page cache to 32 (R238). -/
def State.refillN (s : State) (st : Nat) : Nat → State
  | 0 => s
  | n + 1 =>
    match s.allocPage with
    | some (p, s') => ((s'.setStream st (fun q => { q with cache := q.cache ++ [p] })).watermarks).refillN st n
    | none => s

def State.refill (s : State) (st : Nat) : State :=
  let q := s.stream st
  if s.streamOn st && decide (q.cache.length ≤ 16) && !q.stopping then s.refillN st (32 - q.cache.length) else s

/-! ### Bytes of frame pages -/

/-- Write bytes at a byte address of the frame store. -/
def hbmWrite (m : List Host.Cell) (a : Nat) : List Byte → List Host.Cell
  | [] => m
  | b :: t => hbmWrite (Tab.put (0 : Byte) m a b) (a + 1) t

def hbmRead (m : List Host.Cell) (a : Nat) : Nat → List Byte
  | 0 => []
  | n + 1 => Tab.get (0 : Byte) m a :: hbmRead m (a + 1) n

/-- The frame page that holds payload page `k`, if one does. -/
def FrameSt.page? (f : FrameSt) (k : Nat) : Option Nat :=
  match f.pages.get 0 k with
  | 0 => none
  | p + 1 => some p

/-- Split payload bytes [o, o + n) at page boundaries: (payload page, offset in it, length). -/
def pageSplit : Nat → Nat → Nat → List (Nat × Nat × Nat)
  | 0, _, _ => []
  | fuel + 1, o, n =>
    if n = 0 then []
    else
      let k := min n (65536 - o % 65536)
      (o / 65536, o % 65536, k) :: pageSplit fuel (o + k) (n - k)

/-- Bytes read or written in a granule of the table region: granule g lies in pseudo-channel g mod 128 (R235). -/
def State.tableBytes (s : State) (g n : Nat) : State := s.add64 Reg.PC_BYTES_LO Reg.PC_BYTES_HI (g % 128) n

/-- The granule of a record slot, and the first of the four of a block slot (R235). -/
def recordGranule (slot : Nat) : Nat := slot
def blockGranule (slot : Nat) : Nat := 262144 + 4 * slot

/-- The record and the statistics block of a slot are read or written whole. -/
def State.slotBytes (s : State) (slot : Nat) (record block : Bool) : State :=
  let s := if record then s.tableBytes (recordGranule slot) 4096 else s
  if block then (List.range 4).foldl (fun s k => s.tableBytes (blockGranule slot + k) 4096) s else s

/-- Store payload bytes of a frame where it holds the page (R239); the bandwidth counts in PC_BYTES. -/
def State.putPayload (s : State) (id o : Nat) (b : List Byte) : State :=
  match s.frame? id with
  | none => s
  | some f =>
    (pageSplit (b.length / 65536 + 2) o b.length).foldl (fun s x =>
      match f.page? x.1 with
      | some p =>
        let part := (b.drop (x.1 * 65536 + x.2.1 - o)).take x.2.2
        let s : State := { s with hbm := hbmWrite s.hbm (p * 65536 + x.2.1) part }
        s.add64 Reg.PC_BYTES_LO Reg.PC_BYTES_HI (p % 128) x.2.2
      | none => s) s

/-- The pixels of a line as one little-endian bit string, unused bits 0 (R185). -/
def packPixels (d : Nat) (ps : List Nat) (bytes : Nat) : List Byte :=
  leBytes bytes ((ps.foldr (fun p n => n * 2 ^ d + p % 2 ^ d) 0))

/-- Payload bytes [o, o + n) of a frame are read: they count in PC_BYTES of the pages that hold them. -/
def State.readBytes (s : State) (f : FrameSt) (o n : Nat) : State :=
  (pageSplit (n / 65536 + 2) o n).foldl (fun s x =>
    match f.page? x.1 with
    | some p => s.add64 Reg.PC_BYTES_LO Reg.PC_BYTES_HI (p % 128) x.2.2
    | none => s) s

/-- A line of fill (R186). -/
def fillLine (t : RegSet) (st : Nat) : List Byte :=
  packPixels (geomD t st) (List.replicate (geomW t st) (t.fld Reg.ST_FMT st 31 16)) (lineBytes t st)

/-- Payload bytes of a frame; a page not allocated reads as packed fill (R239). -/
def State.getPayload (s : State) (f : FrameSt) (o n : Nat) : List Byte :=
  let fl := fillLine f.latch f.stream
  let lb := fl.length
  (pageSplit (n / 65536 + 2) o n).foldl (fun out x =>
    out ++ match f.page? x.1 with
      | some p => hbmRead s.hbm (p * 65536 + x.2.1) x.2.2
      | none => (List.range x.2.2).map (fun i => fl.getD ((x.1 * 65536 + x.2.1 + i) % lb) 0)) []

/-! ### Record slots (R243) -/

def State.allocSlot (s : State) : Option (Nat × State) :=
  match s.store.slotBack with
  | i :: t => some (i, s.setStore (fun q => { q with slotBack := t }))
  | [] => if s.store.ready && decide (s.store.slotFresh < 262144) then
      some (s.store.slotFresh, s.setStore (fun q => { q with slotFresh := q.slotFresh + 1 })) else none

def State.freeSlot (s : State) (i : Nat) : State := s.setStore (fun q => { q with slotBack := q.slotBack ++ [i] })

/-! ### The Tally (R251, R252, R254) -/

/-- Test a frame's Tally once it has closed (R252); during a page-manager recovery the test waits (R255). -/
def State.tallyTest (s : State) (id : Nat) : State :=
  match s.frame? id with
  | some f => if s.store.recovery.isNone ∧ f.phase = .closed ∧ f.hold.tally = 0 ∧ f.freeAt = none then
      s.setFrame id (fun f => { f with freeAt := some (s.time.tickNum + 1) }) else s
  | none => s

/-- Holder codes: 0 preview, 1 seal, 2 record, 3 pre-roll, 4 burst, 16 + k subscription k. -/
def Holders.has (h : Holders) : Nat → Bool
  | 0 => h.preview | 1 => h.sealing | 2 => h.record | 3 => h.preroll | 4 => h.burst
  | k => decide (16 ≤ k) && h.subs.contains (k - 16)
def Holders.drop (h : Holders) : Nat → Holders
  | 0 => { h with preview := false } | 1 => { h with sealing := false } | 2 => { h with record := false }
  | 3 => { h with preroll := false } | 4 => { h with burst := false }
  | k => { h with subs := h.subs.filter (fun x => decide (x ≠ k - 16)) }

def Holders.add (h : Holders) : Nat → Holders
  | 0 => { h with preview := true } | 1 => { h with sealing := true } | 2 => { h with record := true }
  | 3 => { h with preroll := true } | 4 => { h with burst := true }
  | k => if h.subs.contains (k - 16) then h else { h with subs := h.subs ++ [k - 16] }

/-- A frame that loses its burst holder is no longer charged to its rig's allotment (R241). -/
def State.uncharge (s : State) (f : FrameSt) : State :=
  s.setRun f.rig (fun q => { q with burstUsed := q.burstUsed - framePages f.latch f.stream })

/-- Apply a release; one that names no holder of the frame sets TALLY_ERR and is logged (R254). -/
def State.releaseNow (s : State) (id h : Nat) : State :=
  match s.frame? id with
  | none => (s.storeEvt [11]).logEntry 0x0010 0 0
  | some f =>
    if f.live && f.hold.has h then
      let s := (s.setFrame id (fun f => { f with hold := f.hold.drop h })).tallyTest id
      if h = 4 then s.uncharge f else s
    else (s.storeEvt [11]).logEntry 0x0010 (target 2 f.stream) (f.slot.getD 0)

/-- A holder releases a frame; during a page-manager recovery the release waits (R254, R255). -/
def State.release (s : State) (id h : Nat) : State :=
  if s.store.recovery.isSome then
    s.setStore (fun q => { q with queued := q.queued ++ [{ id := id, holder := h }] })
  else s.releaseNow id h

/-- Release a holder where the frame has it. -/
def State.releaseIf (s : State) (id h : Nat) : State :=
  match s.frame? id with
  | some f => if f.live && f.hold.has h && !s.store.queued.any (fun x => decide (x.id = id) && decide (x.holder = h))
      then s.release id h else s
  | none => s

/-- Release a holder of every frame that satisfies a condition. -/
def State.releaseAll (s : State) (h : Nat) (p : FrameSt → Bool) : State :=
  (s.store.frames.filter (fun f => p f && f.hold.has h)).foldl (fun s f => s.releaseIf f.id h) s

/-- The end of a page-manager recovery: what waited is applied in order (R255). -/
def State.recoveryEnd (s : State) : State :=
  match s.store.recovery with
  | some t =>
    if t ≤ s.time.tickNum then
      let ops := s.store.queued
      let s := ops.foldl (fun (s : State) x =>
          if x.add then s.setFrame x.id (fun f => { f with hold := f.hold.add x.holder }) else s.releaseNow x.id x.holder)
        (s.setStore (fun q => { q with recovery := none, queued := [] }))
      (s.store.frames.filter (fun f => f.phase = .closed)).foldl (fun s f => s.tallyTest f.id) s
    else s
  | none => s

/-- A frame's pages rejoin the free lists (R27, R252). -/
def State.freeFrame (s : State) (f : FrameSt) : State :=
  let s := if f.pagesOut then s else f.pages.foldl (fun s e => s.freePage (e.2 - 1)) s
  let s := match f.slot with
    | some i => s.freeSlot i
    | none => s
  let s := match f.loc with
    | .spilled w ps | .pagingOut w ps => s.setStore (fun q => { q with
        spws := q.spws.upd {} w (fun x => { x with used := x.used.filter (fun p => !ps.contains p) }) })
    | .resident => s
  s.setStore (fun q => { q with frames := q.frames.filter (fun x => decide (x.id ≠ f.id)) })

/-- A drive Write that carries bytes of a frame is outstanding (R252). -/
def State.driveReads (s : State) (id : Nat) : Bool :=
  s.mag.cmds.any (fun c => match c.kind with
    | .data k lo hi => s.mag.segs.any (fun g => decide (g.id = k) && g.placed.any (fun p =>
        decide (p.id = id) && decide (p.pos < hi) && decide (lo < p.pos + p.blocks)))
    | _ => false)

/-- The tick in which a frame's pages may rejoin has come (R252). -/
def State.freeTime (s : State) (f : FrameSt) : Bool :=
  match f.freeAt with
  | some t => decide (t ≤ s.time.tickNum)
  | none => false

/-- The record slot and the block slot of a frame rejoin. -/
def State.returnSlot (s : State) (f : FrameSt) : State :=
  match f.slot with
  | some i => (s.freeSlot i).setFrame f.id (fun f => { f with slot := none })
  | none => s

/-- The pages of a frame that nothing reads any more rejoin; the record slot of one that was paged out stays (R265). -/
def State.returnPages (s : State) (f : FrameSt) : State :=
  if f.hold.tally = 0 then s.freeFrame f
  else
    let s := f.pages.foldl (fun s e => s.freePage (e.2 - 1)) s
    s.setFrame f.id (fun f => { f with pages := [], pagesOut := true, freeAt := none, block := f.block })

/-- The frames whose Tally was 0 in an earlier tick, or that were paged out, return their pages (R252, R265). -/
def State.pagesFree (s : State) : State :=
  if s.store.recovery.isSome then s
  else
    -- the record slot and the block slot rejoin at once; only pages wait for what still reads them
    let s := (s.store.frames.filter (fun f => decide (f.hold.tally = 0) && f.slot.isSome && s.freeTime f)).foldl
      (fun s f => s.returnSlot f) s
    (s.store.frames.filter (fun f => s.freeTime f && decide (f.readers = 0) && !s.driveReads f.id)).foldl (fun s f => s.returnPages f) s

def execPagesFree (s : State) : Host.Outcome State Fault Refusal := s.go (fun s => s.pagesFree)

/-- The caches of streams that have stopped return, once the frames that R634 lets finish have closed (R242); none does during a
page-manager recovery (R255). -/
def State.returnCaches (s : State) : State :=
  if s.store.recovery.isSome then s else
  (List.range 64).foldl (fun s st =>
    let q := s.stream st
    let idle := !s.streamOn st || (s.rigMode (s.streamRig st) = .idle &&
      !(s.store.frames.any (fun f => decide (f.stream = st) && (f.phase = .triggered || f.phase = .opened || f.phase = .ended))))
    if idle && !q.cache.isEmpty then
      q.cache.foldl (fun s p => s.freePage p) (s.setStream st (fun q => { q with cache := [] }))
    else s) s

/-! ### Takes, bursts and what a frame holds at its open (R40, R243, R251, R258, R259) -/

/-- The open take or burst of a rig that frame `n` belongs to. -/
def State.takeOf (s : State) (r n : Nat) : Option Take :=
  s.takes.takes.find? (fun t => decide (t.rig = r) && t.started && !t.closed && decide (t.first ≤ n)
    && (match t.last with | some l => decide (n ≤ l) | none => true))

/-- The first frame numbered `n` of a rig in a burst opens: charge it in every stream or find the allotment full; the
end of a post-count is decided here too (R258, R259, R38). -/
def State.burstDecide (s : State) (r n : Nat) (t : Take) : State :=
  let q := s.run r
  if q.burstDecided.contains n then s
  else
    let need := t.streams.foldl (fun a st => a + framePages s.activeSet st) 0
    let fits := decide (q.burstUsed + need ≤ (s.act Reg.RIG_BURST_PAGES r).toNat) && q.burstFull.isNone
    let due := s.time.tickNum + 2
    let ends := decide (t.post ≠ 0) && decide (n + 1 = t.live + t.post)
    let s' := s.setRun r (fun q => { q with
      burstDecided := (n :: q.burstDecided).take 4096, burstUsed := if fits then q.burstUsed + need else q.burstUsed,
      burstMiss := if fits then q.burstMiss else q.burstMiss ++ [n],
      burstFull := if q.burstFull.isNone && !fits then some due else q.burstFull })
    let s' := if ends then s'.setTake t.id (fun t => { t with last := some n }) else s'
    if (!fits || ends) && q.burstFull.isNone && decide (s.rigMode r = .burst) then
      s'.pushBound ⟨due, none, .rig r .countReached .offload 0 0 0 0⟩
    else s'

/-- A subscription covers a stream in the active set. -/
def State.subCovers (s : State) (k st : Nat) : Bool :=
  bit (s.act Reg.SUB_CTRL k) 31 &&
    (if st < 32 then bit (s.act Reg.SUB_STREAMS_LO k) st else bit (s.act Reg.SUB_STREAMS_HI k) (st - 32))
def State.subLossy (s : State) (k : Nat) : Bool := bit (s.act Reg.SUB_CTRL k) 30

/-- A class D subscription sheds a frame: flags, counters and FRAME_SHED with a cause (R104, R415). -/
def State.shed (s : State) (k st n cause : Nat) : State :=
  let s : State := { s with mover := { s.mover with subs := s.mover.subs.upd {} k (fun q => { q with skipped := q.skipped + 1 }) } }
  ((s.setEvt Reg.PLN_EVENTS 0 3).count Reg.PLN_SHED_D_CNT).post 2 0x24 (target 9 k)
    [(16, 4, n), (20, 1, st), (21, 1, cause)]

/-- Open a frame's record (R227, R243, R251). -/
def State.openFrame (s : State) (id : Nat) : State :=
  match s.frame? id with
  | none => s
  | some f =>
    let st := f.stream
    let r := f.rig
    let l := s.streamLink st
    let tk := s.takeOf r f.frame
    let s := match tk with
      | some t => if t.burst then s.burstDecide r f.frame t else s
      | none => s
    let inBurst := (tk.map (·.burst)).getD false
    let fits := inBurst && !(s.run r).burstMiss.contains f.frame
    let s := if inBurst && !fits then s.setReg Reg.RIG_BURST_OVF r 0
        (BitVec.ofNat 32 (satAdd 0xFFFFFFFF (s.reg Reg.RIG_BURST_OVF r).toNat 1)) else s
    let covers := (List.range 128).filter (fun k => s.subCovers k st && !(s.mover.subs.get ({} : SubSt) k).blocked)
    let shedding := if s.store.belowCrit then covers.filter (fun k => s.subLossy k) else []
    let s := shedding.foldl (fun s k => s.shed k st f.frame 3) s
    let ring := match (s.run r).ring with
      | some a => decide (a ≤ f.frame)
      | none => false
    -- a take that no set was left for gives its frames up (R313)
    let gave := match tk with
      | some t => match (s.mag.recs.get ({} : RecSt) t.id).gaveUp with
        | some e => decide (e ≤ f.frame) && !t.burst
        | none => false
      | none => false
    let s := if gave then s.count Reg.RREC_LOST_FRAMES r else s
    let cap := (s.hl l).capLast.getD {}
    -- a frame that is not kept is delivered to those subscriptions only that ask for its preview or statistics (R37, R259)
    let pvOnly := (inBurst && !fits) || (!inBurst && decide (s.rigMode r = RigMode.offload))
    let subs := covers.filter (fun k => !shedding.contains k && (!pvOnly || s.actF Reg.SUB_CTRL k 26 25 != 0))
    let hold : Holders := { preview := s.activeSet.bit Reg.ST_PIPE st 20, sealing := tk.isSome && (!inBurst || fits),
                            record := tk.isSome && !inBurst && !gave, preroll := ring, burst := fits, subs := subs }
    let late := s.store.recovery.isSome
    let s := if late then s.setStore (fun q => { q with queued := q.queued ++
        ([0, 1, 2, 3, 4].filter (fun h => hold.has h) ++ subs.map (· + 16)).map (fun h => { id := id, holder := h, add := true }) })
      else s
    s.setFrame id (fun f => { f with
      phase := .opened, latch := s.activeSet, version := s.cfg.activeVer, calib := decide (s.rigMode r = .calibrate),
      vc2At := (s.hl l).vc2Loss, lastLine := f.expStart,
      stamp := s.stampOf r f.expStart f.t0 f.msShift,
      status := if s.anyRecovery then f.status ||| 0x80 else f.status,
      take := if inBurst && !fits then none else tk.map (·.id), pvOnly := pvOnly,
      capId := cap.vendor * 65536 + cap.model, capSerial := cap.serial, capK := cap.k, link := l, headSlot := s.streamSlot st,
      hold := if late then {} else hold })

/-- When frame `n` closes or passes, frame n − SPAN of the stream leaves the ring (R256). -/
def State.prerollDrop (s : State) (st r n : Nat) : State :=
  let span := s.actF Reg.RIG_PREROLL r 15 0
  s.releaseAll 3 (fun f => decide (f.stream = st) && decide (f.frame + span = n) && decide (f.run = (s.run r).run))

/-- A change of a rig's mode is due at the present boundary and not yet applied. -/
def State.rigDue (s : State) (r : Nat) : Bool :=
  s.dev.bound.any (fun b => match b.kind with
    | .rig k .. => decide (k = r) && decide (b.tick ≤ s.time.tickNum)
    | _ => false)

/-- The same, after the additions of a take or burst that starts at this boundary (R254). -/
def State.prerollLeave (s : State) (st r n : Nat) : State :=
  if s.rigDue r then s.setStream st (fun q => { q with leave := q.leave ++ [n] }) else s.prerollDrop st r n

/-- The frames that closed before their rig's changes of this boundary take effect on the ring. -/
def State.prerollCatch (s : State) (r : Nat) : State :=
  (s.rigStreams r).foldl (fun s st =>
    (s.stream st).leave.foldl (fun s n => s.prerollDrop st r n) (s.setStream st (fun q => { q with leave := [] }))) s

/-- How many frames per stream the ring holds (RIG_PREROLL_HELD). -/
def State.ringHeld (s : State) (r : Nat) : Nat :=
  match (s.rigStreams r).head? with
  | some st => (s.store.frames.filter (fun f => decide (f.stream = st) && f.hold.preroll)).length
  | none => 0

end Sys2Proof.Machine
end

