-- ==== Sys2Proof/Machine/Planner.lean ====
section
/-! DEFINITION. The tick planner: capacities, demands, admission and placement, job sets, carry-over, trimming, suspension
(R88–R113). -/

namespace Sys2Proof.Machine

def State.setPlan (s : State) (f : PlanState → PlanState) : State := { s with plan := f s.plan }

/-! ### The units in capacity (R31, R89) -/

/-- The kinds of unit whose number makes a capacity, and how many of each there are. -/
def planKinds : List (Nat × Nat) := [(0x04, 36), (0x07, 16), (0x0C, 16), (0x0D, 18), (0x0E, 64), (0x0F, 128)]
/-- The unit was ACTIVE at the latest boundary. -/
def State.planActive (s : State) (kind i : Nat) : Bool := (s.plan.units.get [] kind).contains i
/-- A failed unit of the kind is about to be replaced by a SPARE at this boundary (R109, R556). -/
def State.spareDue (s : State) (kind : Nat) : Bool :=
  bit (s.act Reg.SVC_CTRL) 0 && s.svc.replace.any (fun e => decide (e.1 = kind))
    && (List.range 128).any (fun i => decide (s.unitCode kind i = 1))
/-- At a boundary the ACTIVE units make the capacities from now on; a class that is getting a spare keeps its own till then. -/
def State.planUnits (s : State) : State :=
  s.setPlan (fun p => { p with units := planKinds.map (fun k =>
    (k.1, if s.spareDue k.1 then p.units.get [] k.1 else (List.range k.2).filter (fun i => s.unitActive k.1 i))) })

/-! ### Capacities (R88–R90, R149, R274, R290) -/

def State.drive (s : State) (d : Nat) : DriveSt := s.mag.drives.get {} d
/-- Payload rate of a drive link in B/s (R282). -/
def linkRate (gen width : Nat) : Nat :=
  let per := if gen = 5 then 3937500000 else if gen = 4 then 1968750000 else 0
  per * width
/-- The rated rate of a slot in B/s (R290). -/
def State.driveRate (s : State) (d : Nat) : Nat :=
  let q := s.drive d
  if (q.mode = .ready ∨ q.mode = .inUse) ∧ s.planActive 7 d then
    let cap := (s.act Reg.MBS_RATE_CAP d).toNat * 1000000
    let r := min ((s.reg Reg.MBS_RATE d).toNat * 1000000) (linkRate q.gen q.width)
    if cap = 0 then r else min r cap
  else 0
/-- B/s of a lane by LANE_CTRL.RATE (R149). -/
def laneRate (code : Nat) : Nat :=
  match code with | 0 => 3250000000 | 1 => 6500000000 | _ => 13000000000
/-- A host port's B/s each way. -/
def State.hostRateQ (s : State) (p : Nat) : Nat × Nat :=
  let v := s.reg Reg.HP_STATUS p
  -- rate in tenths of a GT/s against 640, width against 16
  let gt := [0, 25, 50, 80, 160, 320, 640].getD (fld v 19 16) 0
  (120000000000 * fld v 12 8 * gt, 16 * 640)
def State.activeCount (s : State) (kind : Nat) : Nat := (s.plan.units.get [] kind).length
/-- The lanes of a link that carry a logical lane. -/
def State.linkLaneRate (s : State) (l : Nat) : Nat :=
  (setBits (s.hl l).mask 8).foldl (fun n k =>
    match s.carrier l k with
    | some a => if (s.lane a).mode = .failed || !s.planActive 4 a then n else n + laneRate (s.actF Reg.LANE_CTRL a 2 1)
    | none => n) 0

/-- The exact capacity of a resource instance in a tick, as a fraction (R88, R90). -/
def State.capacity (s : State) (res inst : Nat) : Nat × Nat :=
  let p := s.period
  match res with
  | 1 | 2 => (s.linkLaneRate inst * p, 1000000000)
  | 3 => (if s.planActive 0x0C inst then p else 0, 1)
  | 4 => (if s.planActive 0x0D inst then 16 * p else 0, 1)
  | 5 => (s.driveRate inst * p, 1000000000)
  | 6 | 7 => let q := s.hostRateQ inst; (q.1 * p, q.2 * 1000000000)
  | 8 => (8 * s.activeCount 0x0E * p, 1)
  | 9 => (4096 * s.activeCount 0x0F * s.actF Reg.PLN_CTRL 0 23 16 * p, 128 * 100)
  | 10 => (17408 * s.activeCount 0x0F - (s.store.retired.filter (fun p => s.planActive 0x0F (p % 128))).length
            - 1024 * ((List.range 128).filter (fun c => s.planActive 0x0F c && !(s.store.pcs.get {} c).moved.isEmpty)).length, 1)
  | 11 => (16384, 1)
  | _ => (0, 1)

/-- How many instances a resource has. -/
def resInstances : Nat → Nat
  | 1 | 2 => 32 | 3 => 16 | 4 => 18 | 5 => 16 | 6 | 7 => 4 | 8 | 9 | 10 | 11 => 1 | _ => 0

/-- The admissible amount (R90). -/
def State.admissible (s : State) (res inst : Nat) : Nat :=
  let q := s.capacity res inst
  q.1 * (100 - s.actF Reg.PLN_CTRL 0 5 0 - s.plan.cut) / (q.2 * 100)

/-- What a list of reservations holds on an instance. -/
def reservedOf (l : List Resv) (res inst : Nat) : Nat :=
  l.foldl (fun n r => if r.suspended then n else
    r.amounts.foldl (fun n a => if a.res = res ∧ a.inst = inst then n + a.amount else n) n) 0
def State.reserved (s : State) (res inst : Nat) : Nat := reservedOf s.plan.resvs res inst

/-! ### Demands (R91, R92) -/

/-- TL: the declared line period of a stream's slot, in 2^−16 ns (R91). -/
def State.linePeriod (s : State) (t : RegSet) (st : Nat) : Nat :=
  match (s.hl (t.fld Reg.ST_CTRL st 20 16)).capLast with
  | some c => c.linePeriods.getD (t.fld Reg.ST_CTRL st 25 24) 0
  | none => 0
def State.lmax (s : State) (t : RegSet) (st : Nat) : Nat :=
  let tl := s.linePeriod t st
  let p := t.fld Reg.TICK_PERIOD 0 21 0
  if tl = 0 then geomH t st else min (geomH t st) (p * 65536 / tl + 1)
/-- A rate term of B bytes per frame (R92). -/
def rateTerm (t : RegSet) (r b : Nat) : Nat :=
  ceilDiv (b * t.fld Reg.TICK_PERIOD 0 21 0 * (t.val Reg.RTMR_DEN r).toNat)
    ((t.val Reg.RTMR_NUM r).toNat * 1000000000)
/-- The preview bytes of a tick (R224). -/
def State.pvPerTick (s : State) (t : RegSet) (st : Nat) : Nat :=
  if t.bit Reg.ST_PIPE st 20 then
    (s.lmax t st / (pvQuad t st * pvSy t st) + 1) * pvStride t st + 64 else 0
/-- PU cycles of a stream (R92, R196). -/
def lineCost (t : RegSet) (st : Nat) : Nat := ceilDiv (geomW t st) 32 + 16
def State.puDemand (s : State) (t : RegSet) (st : Nat) : Nat := s.lmax t st * lineCost t st
def State.sealDemand (s : State) (t : RegSet) (st : Nat) : Nat := s.lmax t st * lineBytes t st + 4096

/-- A stream's amounts but for PU and JOBS. -/
def State.streamAmounts (s : State) (t : RegSet) (st : Nat) : List Amount :=
  let l := t.fld Reg.ST_CTRL st 20 16
  let n := s.lmax t st
  let flat := if t.bit Reg.ST_PIPE st 4 then 2 * n * geomW t st else 0
  [⟨1, l, n * lineBytes t st⟩, ⟨2, l, 8192⟩, ⟨9, 0, n * lineBytes t st + flat + s.pvPerTick t st⟩,
   ⟨10, 0, t.fld Reg.ST_STORE st 6 0 * framePages t st⟩]

/-- Bytes of each drive of a set for `q` bytes a tick (R92). -/
def perDrive (t : RegSet) (m q : Nat) : Nat :=
  let c := t.val Reg.MSET_CTRL m
  if fld c 5 4 = 1 then ceilDiv q 3 else ceilDiv q (popCount (fld c 19 16) 4)
def recordAmounts (t : RegSet) (st m : Nat) : List Amount :=
  let q := rateTerm t (tStreamRig t st) (magBytes t st)
  let ds := setDrives t m
  ds.map (fun d => ⟨5, d, perDrive t m q⟩) ++ [⟨9, 0, q⟩, ⟨11, 0, ds.length⟩]

/-- The streams a subscription covers, and its bytes for one frame of a stream (R420, R434). -/
def subStreams (t : RegSet) (k : Nat) : List Nat :=
  (List.range 64).filter (fun st =>
    if st < 32 then t.bit Reg.SUB_STREAMS_LO k st else t.bit Reg.SUB_STREAMS_HI k (st - 32))
def subBytes (t : RegSet) (k st : Nat) : Nat :=
  let parts := t.fld Reg.SUB_CTRL k 27 24
  let pb := (t.val Reg.SUB_PAYLOAD_BYTES k).toNat
  (if parts.testBit 0 then (if pb = 0 then frameBytes t st else pb) else 0)
    + (if parts.testBit 1 then 16384 else 0) + (if parts.testBit 2 then pvBytes t st else 0)
    + (if parts.testBit 3 then 4096 else 0)
/-- V of R92. -/
def subDemand (t : RegSet) (k : Nat) : Nat :=
  let ss := subStreams t k
  let b := ss.foldl (fun n st => n + subBytes t k st) 0
  let timers := (ss.map (tStreamRig t)).eraseDups
  let rate := timers.foldl (fun n r =>
    n + rateTerm t r ((ss.filter (fun st => decide (tStreamRig t st = r))).foldl (fun n st => n + subBytes t k st) 0)) 0
  let w := t.fld Reg.SUB_CTRL k 17 10
  if w = 0 then rate else max rate (ceilDiv b w)
def subMovers (t : RegSet) (k : Nat) : Nat := ceilDiv (subDemand t k) (8 * t.fld Reg.TICK_PERIOD 0 21 0)
def subAmounts (t : RegSet) (k : Nat) : List Amount :=
  let v := subDemand t k
  [⟨6, t.fld Reg.SUB_CTRL k 29 28, v⟩, ⟨8, 0, v⟩, ⟨9, 0, v⟩, ⟨11, 0, subMovers t k⟩]
/-- Bytes a tick of a rate in MB/s, rounded up. -/
def mbRate (t : RegSet) (mb : Nat) : Nat := ceilDiv (mb * 1000000 * t.fld Reg.TICK_PERIOD 0 21 0) 1000000000
def offloadAmounts (t : RegSet) (r m : Nat) : List Amount :=
  let c := t.val Reg.RREC_OFFLOAD r
  if m < 8 then
    let q := mbRate t (fld c 15 0)
    (setDrives t m).map (fun d => ⟨5, d, perDrive t m q⟩) ++ [⟨9, 0, q⟩]
  else []
def spillAmounts (t : RegSet) (w : Nat) : List Amount :=
  let q := mbRate t (t.val Reg.SPW_RATE w).toNat
  let p := t.fld Reg.SPW_CTRL w 5 4
  [⟨6, p, q⟩, ⟨7, p, q⟩, ⟨8, 0, q⟩, ⟨9, 0, q⟩]
def serviceAmounts (t : RegSet) : List Amount :=
  let q := mbRate t (t.val Reg.PLN_SVC_RATE).toNat
  [⟨8, 0, q⟩, ⟨9, 0, q⟩, ⟨11, 0, 1⟩]

/-! ### Placement (R97) -/

/-- ACTIVE units of PU or CE that can still take an amount, given the reservations. -/
def State.roomy (s : State) (l : List Resv) (res n need : Nat) : List Nat :=
  (List.range n).filter (fun i =>
    s.planActive (if res = 3 then 0x0C else 0x0D) i && decide (reservedOf l res i + need ≤ s.admissible res i))

/-- The units of a stream: its preferred unit first, then ascending; whole, or split over 2 to 4. -/
def State.placePu (s : State) (l : List Resv) (t : RegSet) (st demand : Nat) : Option (List Nat) :=
  let pref := if t.bit Reg.ST_PIPE st 31 then [t.fld Reg.ST_PIPE st 30 27] else []
  [1, 2, 3, 4].findSome? (fun n =>
    let can := s.roomy l 3 16 (ceilDiv demand n)
    let order := pref.filter (fun i => can.contains i) ++ can.filter (fun i => !pref.contains i)
    if n ≤ order.length then some (order.take n) else none)

/-- Insert by reserved bytes, the lower number first on a tie. -/
def insBy (f : Nat → Nat) (x : Nat) : List Nat → List Nat
  | [] => [x]
  | y :: t => if f x < f y ∨ (f x = f y ∧ x < y) then x :: y :: t else y :: insBy f x t
def sortNat (l : List Nat) : List Nat := l.foldl (fun a x => insBy (fun y => y) x a) []

/-- What one crypto engine can take at most. -/
def State.engineAdmits (s : State) : Nat := (List.range 18).foldl (fun n e => max n (s.admissible 4 e)) 0

/-- The engines of a seal: those with the least reserved bytes; whole when one engine could take it, else split over 2 to 8. -/
def State.placeCe (s : State) (l : List Resv) (demand : Nat) : Option (List Nat) :=
  (if demand ≤ s.engineAdmits then [1] else [2, 3, 4, 5, 6, 7, 8]).findSome? (fun n =>
    let can := (s.roomy l 4 18 (ceilDiv demand n)).foldl (fun a i => insBy (reservedOf l 4) i a) []
    if n ≤ can.length then some (sortNat (can.take n)) else none)

/-! ### Admission (R94–R96) -/

/-- A failing instance: resource, instance, demand, available. -/
abbrev Misfit := Nat × Nat × Nat × Nat

/-- The instances that cannot take a share of a stream or a seal (R95). -/
def State.shareMisfits (s : State) (l : List Resv) (res n parts demand : Nat) : List Misfit :=
  let share := ceilDiv demand parts
  let bad := (List.range n).filter (fun i => s.planActive (if res = 3 then 0x0C else 0x0D) i
    && decide (s.admissible res i < reservedOf l res i + share))
  if bad.isEmpty then [(res, 0xFFFF, share, 0)]
  else bad.map (fun i => (res, i, share, s.admissible res i - reservedOf l res i))

/-- A reservation of an activity. -/
def mkResv (act : Act) (cls : Cls) (l : List Amount) : Resv := { act := act, cls := cls, amounts := l }

/-- The reservation of one activity on top of others; with what does not fit of its placement. -/
def State.buildResv (s : State) (t : RegSet) (l : List Resv) (act : Act) (cls : Cls) : Resv × List Misfit :=
  match act with
  | .stream st =>
    let d := s.puDemand t st
    match s.placePu l t st d with
    | some us => (mkResv act cls (s.streamAmounts t st
        ++ us.map (fun u => ⟨3, u, ceilDiv d us.length⟩) ++ [⟨11, 0, 2 + us.length⟩]), [])
    | none => (mkResv act cls (s.streamAmounts t st), s.shareMisfits l 3 16 4 d)
  | .seal st =>
    let d := s.sealDemand t st
    match s.placeCe l d with
    | some us => (mkResv act cls (us.map (fun u => ⟨4, u, ceilDiv d us.length⟩) ++ [⟨11, 0, us.length⟩]), [])
    | none => (mkResv act cls [], s.shareMisfits l 4 18 8 d)
  | .preroll r =>
    let sts := (List.range 64).filter (fun st => t.bit Reg.ST_CTRL st 0 && decide (tStreamRig t st = r))
    (mkResv act cls [⟨10, 0, sts.foldl (fun n st => n + t.fld Reg.RIG_PREROLL r 15 0 * framePages t st) 0⟩], [])
  | .burst r => (mkResv act cls ([⟨10, 0, (t.val Reg.RIG_BURST_PAGES r).toNat⟩]), [])
  | .record st m => (mkResv act cls (recordAmounts t st m), [])
  | .sub k => (mkResv act cls (subAmounts t k), [])
  | .offload r m => (mkResv act cls (offloadAmounts t r m), [])
  | .spill w => (mkResv act cls (spillAmounts t w), [])
  | .service => (mkResv act cls (serviceAmounts t), [])

/-- Build several reservations in order, each on top of those before it. -/
def State.buildAll (s : State) (t : RegSet) : List Resv → List (Act × Cls) → List Resv × List Misfit
  | _, [] => ([], [])
  | l, (a, k) :: rest =>
    let (r, bad) := s.buildResv t l a k
    let (rs, bads) := s.buildAll t (l ++ [r]) rest
    (r :: rs, bad ++ bads)

/-- The first misfit in resource and instance order, and the mask of failing resources. -/
def worst (l : List Misfit) : Option (Misfit × Nat) :=
  match l with
  | [] => none
  | x :: t => some (t.foldl (fun a b => if b.1 < a.1 ∨ (b.1 = a.1 ∧ b.2.1 < a.2.1) then b else a) x,
      (l.map (·.1)).eraseDups.foldl (fun m r => m + 2 ^ r) 0)

/-- Check new reservations against what is reserved (R94): the misfits. -/
def State.misfits (s : State) (base new : List Resv) : List Misfit :=
  let touched := (new.flatMap (fun r => r.amounts.map (fun a => (a.res, a.inst)))).eraseDups
  touched.filterMap (fun x =>
    let want := reservedOf new x.1 x.2
    let have_ := reservedOf base x.1 x.2
    let ok := s.admissible x.1 x.2
    if want ≠ 0 ∧ ok < have_ + want then some (x.1, x.2, want, ok - have_) else none)

/-- The payload of R95. -/
def refusal (m : Misfit) (mask : Nat) : List (Nat × Nat × Nat) :=
  [(16, 1, m.1), (17, 2, m.2.1), (19, 5, m.2.2.1), (24, 5, m.2.2.2), (29, 2, mask)]

/-- A thermal level at THROT or above. -/
def State.hot (s : State) : Bool := decide (2 ≤ s.svc.dieLevel) || decide (2 ≤ s.svc.hbmLevel)

/-- Admit activities together, or answer the refusal (R94, R95); a hot device admits THROT_PCT percent of capacity less (R570). -/
def State.admission (s : State) (acts : List (Act × Cls)) :
    List Resv × Option (Misfit × Nat) :=
  let s := s.setPlan (fun p => { p with cut := if s.hot then s.actF Reg.SVC_THERM_DIE 0 31 24 else 0 })
  let base := s.plan.resvs
  let (new, bad) := s.buildAll s.activeSet base acts
  (new, worst (bad ++ s.misfits base new))

def State.addResvs (s : State) (l : List Resv) (from_ : Nat) : State :=
  s.setPlan (fun p => { p with resvs := p.resvs ++ l.map (fun r => { r with fromTick := from_ }) })
/-- Release the reservations of activities at a boundary (R96). -/
def State.endResvs (s : State) (p : Act → Bool) (tick : Nat) : State :=
  s.setPlan (fun q => { q with resvs := q.resvs.map (fun r =>
    if p r.act && r.until_.isNone then { r with until_ := some tick } else r) })
/-- End reservations at once; the work and jobs of their activities end with them. -/
def State.dropResvs (s : State) (p : Act → Bool) : State :=
  s.setPlan (fun q => { q with
    resvs := q.resvs.filter (fun r => !p r.act),
    work := q.work.filter (fun w => !p w.act),
    jobs := q.jobs.filter (fun j => !p j.act) })
def State.hasResv (s : State) (a : Act) : Bool :=
  s.plan.resvs.any (fun r => decide (r.act = a) && !r.suspended && decide (r.fromTick ≤ s.time.tickNum))

/-- The units of a resource that an activity is placed on. -/
def State.placedOn (s : State) (a : Act) (res : Nat) : List Nat :=
  match s.plan.resvs.find? (fun r => decide (r.act = a)) with
  | some r => (r.amounts.filter (fun x => decide (x.res = res))).map (·.inst)
  | none => []

/-- The owner of a reservation, as SOURCE (R401, R415). -/
def Act.source : Act → Nat
  | .stream st | .seal st | .record st _ => target 2 st
  | .preroll r | .burst r | .offload r _ => target 1 r
  | .sub k => target 9 k
  | .spill w => target 0x13 w
  | .service => 0

/-! ### Work and jobs (R99–R101) -/

def addTo (l : List Work) (a : Act) (res inst n : Nat) : List Work :=
  if l.any (fun w => decide (w.act = a) && decide (w.res = res) && decide (w.inst = inst)) then
    l.map (fun w => if w.act = a ∧ w.res = res ∧ w.inst = inst then { w with amount := w.amount + n } else w)
  else l ++ [⟨a, res, inst, n⟩]
def State.addWork (s : State) (a : Act) (res inst n : Nat) : State :=
  if n = 0 then s else s.setPlan (fun p => { p with work := addTo p.work a res inst n })
def State.pendingWork (s : State) (a : Act) (res inst : Nat) : Nat :=
  s.plan.work.foldl (fun n w => if w.act = a ∧ w.res = res ∧ w.inst = inst then n + w.amount else n) 0
def State.setWork (s : State) (a : Act) (res inst n : Nat) : State :=
  (s.setPlan (fun p => { p with work := p.work.filter (fun w =>
    !(decide (w.act = a) && decide (w.res = res) && decide (w.inst = inst))) })).addWork a res inst n
/-- What released jobs still allow an activity on an instance. -/
def State.jobLeft (s : State) (a : Act) (res inst : Nat) : Nat :=
  s.plan.jobs.foldl (fun n j => if j.act = a ∧ j.res = res ∧ j.inst = inst then n + j.left else n) 0

/-- Take work from jobs, oldest first. -/
def spend (a : Act) (res inst : Nat) : Nat → List Job → List Job
  | _, [] => []
  | n, j :: t =>
    if j.act = a ∧ j.res = res ∧ j.inst = inst then
      let k := min n j.left
      if k = j.left then spend a res inst (n - k) t else { j with left := j.left - k } :: spend a res inst (n - k) t
    else j :: spend a res inst n t

/-- Work done on an instance in the present tick. -/
def State.usedWork (s : State) (res inst n : Nat) : State :=
  s.setPlan (fun p => { p with usedNow := p.usedNow.upd 0 (res * 65536 + inst) (· + n) })
def State.useJob (s : State) (a : Act) (res inst n : Nat) : State :=
  (s.setPlan (fun p => { p with jobs := spend a res inst n p.jobs })).usedWork res inst n

/-- A stream's jobs: they allow what may arrive in a tick, and what did not arrive is no work. -/
def Act.isStream : Act → Bool
  | .stream _ => true
  | _ => false

/-- Work of a stream or a seal: it spends the activity's jobs, and what they do not cover is charged to the carry-over (R105,
R197). -/
def State.charge (s : State) (a : Act) (res inst n : Nat) : State :=
  let free := s.jobLeft a res inst
  (s.setPlan (fun p => { p with
    jobs := p.jobs.map (fun j => if j.act = a ∧ j.res = res ∧ j.inst = inst then { j with left := j.left - n } else j),
    beyond := if free < n then p.beyond.upd 0 (res * 65536 + inst) (· + (n - free)) else p.beyond })).usedWork res inst n

/-- The planner has released work of an activity on an instance for the present tick (R25); an activity whose reservation has
ended finishes what it holds. -/
def State.released (s : State) (a : Act) (res inst : Nat) : Bool :=
  !s.hasResv a || s.plan.jobs.any (fun j => decide (j.act = a) && decide (j.res = res) && decide (j.inst = inst))

/-- Carry-over: what released jobs have not done, work beyond the jobs of the tick, and lines that wait for their unit (R102,
R105). -/
def State.carryOver (s : State) : Tab Nat :=
  let j := s.plan.jobs.foldl (fun t j =>
    if j.act.isStream then t else Tab.upd 0 t (j.res * 65536 + j.inst) (· + j.left)) s.plan.beyond
  s.store.lbuf.foldl (fun t x =>
    match (s.stream x.stream).members with
    | [] => t
    | m :: ms =>
      let u := (m :: ms).getD (x.line % (ms.length + 1)) m
      Tab.upd 0 t (3 * 65536 + u) (· + lineCost s.activeSet x.stream)) j

/-- A recovery of the planner releases only class A and B jobs of the last set (R112). -/
def Cls.ab : Cls → Bool
  | .a | .b => true
  | _ => false

/-- The jobs of one reservation for the next tick: its pending work up to its per-tick amount (R99). DESIGN CHOICE (log 67): a
stream's jobs allow its whole per-tick amount, since what arrives is not known before. -/
def State.resvJobs (s : State) (r : Resv) (tick : Nat) : List Job :=
  if r.suspended || decide (tick < r.fromTick) then []
  else r.amounts.filterMap (fun a =>
    let w := if r.act.isStream then a.amount else min a.amount (s.pendingWork r.act a.res a.inst)
    if w = 0 ∨ a.res = 10 ∨ a.res = 11 then none
    else some { act := r.act, cls := r.cls, res := a.res, inst := a.inst, left := w, tick := tick })

/-- Surplus grants of class B, then class E: what is admissible beyond every reservation (R101). -/
def State.surplusJobs (s : State) (tick : Nat) : List Job :=
  let cand := (s.plan.resvs.filter (fun r => decide (r.cls = .b))) ++ (s.plan.resvs.filter (fun r => decide (r.cls = .e)))
  (cand.foldl (fun (acc : Tab Nat × List Job) (r : Resv) =>
    if r.suspended || decide (tick < r.fromTick) then acc
    else r.amounts.foldl (fun (acc : Tab Nat × List Job) a =>
      if a.res = 10 ∨ a.res = 11 then acc
      else
        let key := a.res * 65536 + a.inst
        let spare := s.admissible a.res a.inst - s.reserved a.res a.inst - acc.1.get 0 key
        let more := s.pendingWork r.act a.res a.inst - a.amount
        let g := min spare more
        if g = 0 then acc
        else (acc.1.upd 0 key (· + g), acc.2 ++ [{ act := r.act, cls := r.cls, res := a.res, inst := a.inst, left := g,
                                                    surplus := true, tick := tick }])) acc) ([], [])).2

/-- Cut `n` from jobs on an instance that satisfy a condition, the last of the list first; what is still to cut, the jobs
kept, and the cuts. -/
def cutJobs (p : Job → Bool) : Nat → List Job → Nat × List Job × List (Job × Nat)
  | n, [] => (n, [], [])
  | n, j :: t =>
    let (n', t', cs) := cutJobs p n t
    if p j && decide (0 < n') then
      let k := min n' j.left
      (n' - k, if k = j.left then t' else { j with left := j.left - k } :: t', (j, k) :: cs)
    else (n', j :: t', cs)

/-- The order of R103: class, and whether the job is a surplus grant. -/
def trimOrder : List (Cls × Bool) := [(.e, true), (.b, true), (.e, false), (.d, false), (.c, false)]

/-- Trim a job set on one instance by an excess, in the order of R103. -/
def trimOn (res inst excess : Nat) (jobs : List Job) : List Job × List (Job × Nat) :=
  let on := fun (k : Cls) (sur : Bool) (j : Job) =>
    decide (j.res = res) && decide (j.inst = inst) && decide (j.cls = k) && (j.surplus == sur)
  let r := trimOrder.foldl
    (fun (acc : Nat × List Job × List (Job × Nat)) x =>
      let (n, js, cs) := cutJobs (on x.1 x.2) acc.1 acc.2.1
      (n, js, acc.2.2 ++ cs)) (excess, jobs, [])
  (r.2.1, r.2.2)

/-- A job holds an entry of the job table until it is done: one for each lane direction, unit, engine, drive and mover (R92,
R100). -/
def Job.entry (j : Job) : Bool := decide (j.left ≠ 0) && ([1, 2, 3, 4, 5, 8] : List Nat).contains j.res

/-- Drop up to `n` jobs with a table entry that satisfy a condition, the last of the list first. -/
def dropJobs (p : Job → Bool) : Nat → List Job → Nat × List Job × List (Job × Nat)
  | n, [] => (n, [], [])
  | n, j :: t =>
    let (n', t', cs) := dropJobs p n t
    if p j && j.entry && decide (0 < n') then (n' - 1, t', (j, j.left) :: cs) else (n', j :: t', cs)

/-- Trim a job set by entries of the job table, in the order of R103 (R100). -/
def trimEntries (excess : Nat) (jobs : List Job) : List Job × List (Job × Nat) :=
  let r := trimOrder.foldl
    (fun (acc : Nat × List Job × List (Job × Nat)) x =>
      let (n, js, cs) := dropJobs (fun j => decide (j.cls = x.1) && (j.surplus == x.2)) acc.1 acc.2.1
      (n, js, acc.2.2 ++ cs)) (excess, jobs, [])
  (r.2.1, r.2.2)

/-- The surplus that a job set carries on an instance. -/
def surplusOn (res inst : Nat) (l : List Job) : Nat :=
  l.foldl (fun n j => if j.res = res ∧ j.inst = inst ∧ j.surplus then n + j.left else n) 0

/-- The job set of the next tick: built, trimmed where it exceeds a capacity, the cuts, and whether trimming went beyond the
surplus grants (R100, R103, R112). -/
def State.jobSet (s : State) (carry : Tab Nat) : List Job × List (Job × Nat) × Bool :=
  let tick := s.time.tickNum
  let all := if s.recovering 0 then s.plan.lastSet.filter (fun j => j.cls.ab)
    else s.plan.resvs.flatMap (fun r => s.resvJobs r tick) ++ s.surplusJobs tick
  let keys := (all.map (fun j => (j.res, j.inst))).eraseDups
  let r := keys.foldl (fun (acc : List Job × List (Job × Nat) × Bool) k =>
    let q := s.capacity k.1 k.2
    let c := carry.get 0 (k.1 * 65536 + k.2)
    let sum := acc.1.foldl (fun n j => if j.res = k.1 ∧ j.inst = k.2 then n + j.left else n) c
    let excess := ceilDiv (sum * q.2 - q.1) q.2
    if excess = 0 then acc
    else
      let (js, cs) := trimOn k.1 k.2 excess acc.1
      (js, acc.2.1 ++ cs, acc.2.2 || decide (surplusOn k.1 k.2 acc.1 < excess))) (all, [], false)
  let full := ((s.plan.jobs.filter (fun j => j.entry && !j.act.isStream)) ++ r.1.filter (·.entry)).length - 16384
  if full = 0 then r
  else
    let (js, cs) := trimEntries full r.1
    (js, r.2.1 ++ cs, r.2.2 || decide ((r.1.filter (fun j => j.entry && j.surplus)).length < full))

/-- The carry-over of a boundary, and whether it is an overrun (R102); the work of the last tick is kept (R113). -/
def State.carryMark (s : State) (carry : Tab Nat) : State :=
  let s := s.setPlan (fun p => { p with carry := carry, used := p.usedNow, usedNow := [], beyond := [] })
  if carry.isEmpty then s else (s.setEvt Reg.PLN_EVENTS 0 0).count Reg.PLN_OVERRUN_CNT

/-- The jobs of the new tick are released; their work is no longer pending, and a stream's jobs of the last tick are done. -/
def State.releaseJobs (s : State) (jobs : List Job) : State :=
  let s := (jobs.filter (fun j => !j.act.isStream)).foldl (fun s j =>
    s.setWork j.act j.res j.inst (s.pendingWork j.act j.res j.inst - j.left)) s
  s.setPlan (fun p => { p with
    jobs := p.jobs.filter (fun j => !j.act.isStream) ++ jobs, lastSet := if s.recovering 0 then p.lastSet else jobs })

/-- What was trimmed of class E and class C is marked and counted (R104). -/
def State.trimMark (s : State) (es cs : Nat) : State :=
  let s := if es = 0 then s else (s.setEvt Reg.PLN_EVENTS 0 2).countN Reg.PLN_SHED_E_CNT 0 es
  if cs = 0 then s else (s.setEvt Reg.PLN_EVENTS 0 4).countN Reg.PLN_DEFER_C_CNT 0 cs

/-- SLACK_EXCEEDED, and the overload that it makes or ends (R103, R106). -/
def State.slackMark (s : State) (slack : Bool) (carry : Tab Nat) : State :=
  let s := if slack then s.setEvt Reg.PLN_EVENTS 0 1 else s
  let run := if slack then s.plan.slackRun + 1 else 0
  let free := if slack then 0 else s.plan.slackFree + 1
  let s := s.setPlan (fun p => { p with slackRun := run, slackFree := free, overload := p.overload && decide (free < 64) })
  if slack && decide (s.actF Reg.PLN_CTRL 0 15 8 ≤ run) && !s.plan.overload then
    let top := carry.foldl (fun (a : Nat × Nat) e => if a.2 < e.2 then e else a) (0, 0)
    ((s.setPlan (fun p => { p with overload := true })).setEvt Reg.PLN_EVENTS 0 6 |>.post 4 0x30 0
      [(16, 1, top.1 / 65536), (17, 2, top.1 % 65536)]).healthFail 0
  else s

/-- The job set of a boundary takes effect; a hot device holds class E back (R570). -/
def State.planApply (s : State) (carry : Tab Nat) (jobs : List Job) (cuts : List (Job × Nat)) (slack : Bool) : State :=
  let cold := fun (j : Job) => !(s.hot && decide (j.cls = .e))
  let real := cuts.filter (fun c => !c.1.surplus)
  let es := (real.filter (fun c => decide (c.1.cls = .e))).length + (jobs.filter (fun j => !cold j && !j.surplus)).length
  let cs := (real.filter (fun c => decide (c.1.cls = .c))).length
  ((s.releaseJobs (jobs.filter cold)).trimMark es cs).slackMark slack carry

/-- The planner's part of a boundary: overrun, the job set, trimming, overload (R99–R106). The cuts of class C and D are
left for the movers. -/
def State.planBoundary (s : State) : State × List (Job × Nat) :=
  let r := (s.carryMark s.carryOver).jobSet s.carryOver
  ((s.carryMark s.carryOver).planApply s.carryOver r.1 r.2.1 r.2.2, r.2.1)

/-! ### Capacity changes (R108–R111) -/

/-- Counts and sums add (R198). -/
def addTab (a b : Tab Nat) : Tab Nat := b.foldl (fun t e => Tab.upd 0 t e.1 (· + e.2)) a
/-- Maxima combine (R198). -/
def maxTab (a b : Tab Nat) : Tab Nat := b.foldl (fun t e => Tab.upd 0 t e.1 (fun x => max x e.2)) a

/-- Merge partial statistics (R198). -/
def Stats.merge (a b : Stats) : Stats :=
  { lines := a.lines + b.lines, obSum := a.obSum + b.obSum, obLines := a.obLines + b.obLines,
    hist := addTab a.hist b.hist, zoneSum := addTab a.zoneSum b.zoneSum, zoneCnt := addTab a.zoneCnt b.zoneCnt,
    focSum := addTab a.focSum b.focSum, focCnt := addTab a.focCnt b.focCnt, clipLow := addTab a.clipLow b.clipLow,
    clipHigh := addTab a.clipHigh b.clipHigh, chMin := maxTab a.chMin b.chMin, chMax := maxTab a.chMax b.chMax,
    chSum := addTab a.chSum b.chSum, chSq := addTab a.chSq b.chSq }

/-- Partial statistics of a frame move from one unit to another (R198, R199). -/
def FrameSt.moveStats (f : FrameSt) (a b : Nat) : FrameSt :=
  match f.stats.find? (fun e => decide (e.1 = a)) with
  | none => f
  | some (_, v) => { f with stats := Tab.upd {} (f.stats.drop a) b (fun q => q.merge v) }

/-- The lines of a stream that a unit took go to others from now on, with its partial statistics (R199). -/
def State.streamMoved (s : State) (st u : Nat) (us : List Nat) : State :=
  let s := (s.setStream st (fun q => { q with members := q.members.flatMap (fun m => if m = u then us else [m]) })).setEvt
    Reg.ST_PIPE_EVENTS st 3
  s.setStore (fun q => { q with frames := q.frames.map (fun f =>
    if f.stream = st then us.head?.elim f (fun v => f.moveStats u v) else f) })

/-- The units that take a share of a reservation (R97): one unit beside those that keep theirs, or a placement of the whole.
DESIGN CHOICE (log 124): where none fits, the whole share goes on the lowest-numbered ACTIVE unit. -/
def State.newUnits (s : State) (others : List Resv) (a : Act) (res : Nat) (keep : List Nat) (share : Nat) : List Nat :=
  let kind := if res = 3 then 0x0C else 0x0D
  let left := (s.plan.units.get [] kind).filter (fun u => !keep.contains u)
  let can := (s.roomy others res 18 share).filter (fun u => !keep.contains u)
  let place := match a with
    | .stream st =>
      let t := s.activeSet
      if keep.isEmpty then s.placePu others t st share
      else
        let pref := if t.bit Reg.ST_PIPE st 31 then [t.fld Reg.ST_PIPE st 30 27] else []
        ((pref.filter (fun u => can.contains u) ++ can).head?).map (fun u => [u])
    | _ =>
      if keep.isEmpty then s.placeCe others share
      else ((can.foldl (fun l i => insBy (reservedOf others 4) i l) []).head?).map (fun u => [u])
  place.getD (left.take 1)

/-- The share of one reservation on one unit moves to other units; its other amounts stay as they are (R108). -/
def State.moveShare (s : State) (a : Act) (res u : Nat) : State :=
  match s.plan.resvs.find? (fun r => decide (r.act = a)) with
  | none => s
  | some r =>
    let here := fun (x : Amount) => decide (x.res = res) && decide (x.inst = u)
    let share := (r.amounts.filter here).foldl (fun n x => n + x.amount) 0
    let keep := (r.amounts.filter (fun x => decide (x.res = res) && decide (x.inst ≠ u))).map (·.inst)
    let us := s.newUnits (s.plan.resvs.filter (fun x => decide (x.act ≠ a))) a res keep share
    if us = [] then s
    else
      let amounts := r.amounts.flatMap (fun x =>
        if here x then us.map (fun v => ⟨res, v, ceilDiv share us.length⟩)
        else if x.res = 11 then [{ x with amount := x.amount + us.length - 1 }] else [x])
      let s := s.setPlan (fun p => { p with resvs := p.resvs.map (fun x => if x.act = a then { x with amounts := amounts } else x) })
      match a with
      | .stream st => s.streamMoved st u us
      | _ => s

/-- At a boundary, reservations leave the units that left ACTIVE, in class order and by age (R108, R199). -/
def State.replace (s : State) : State :=
  let byClass := fun (k : Cls) => s.plan.resvs.filter (fun r => decide (r.cls = k))
  let gone := (byClass .a ++ byClass .b).flatMap (fun r => (r.amounts.filter (fun a =>
    (decide (a.res = 3) && !s.planActive 0x0C a.inst) || (decide (a.res = 4) && !s.planActive 0x0D a.inst))).map
      (fun a => (r.act, a.res, a.inst)))
  gone.foldl (fun s x => s.moveShare x.1 x.2.1 x.2.2) s

/-- Suspend class C, D and E reservations that no longer fit, resume those that fit again, and find whether A and B use the
slack reserve (R110, R111). -/
def State.refit (s : State) : State :=
  let fits := fun (l : List Resv) (r : Resv) => s.misfits l [{ r with suspended := false }]
  let ab := s.plan.resvs.filter (fun r => r.cls.ab)
  let order := fun (k : Cls) => s.plan.resvs.filter (fun r => decide (r.cls = k) && !r.suspended)
  let kept := ([Cls.c, Cls.d, Cls.e].flatMap order).foldl
    (fun (acc : List Resv × List (Resv × Misfit)) r =>
      match fits acc.1 r with
      | [] => (acc.1 ++ [r], acc.2)
      | m :: _ => (acc.1, acc.2 ++ [(r, m)])) (ab, [])
  let back := (s.plan.resvs.filter (fun r => r.suspended)).foldl
    (fun (acc : List Resv × List Act) r =>
      match fits acc.1 r with
      | [] => (acc.1 ++ [{ r with suspended := false }], acc.2 ++ [r.act])
      | _ :: _ => acc) (kept.1, [])
  let out := kept.2.map (fun x => x.1.act)
  let touched := (ab.flatMap (fun r => r.amounts.map (fun a => (a.res, a.inst)))).eraseDups
  let deg := touched.any (fun x => decide (s.admissible x.1 x.2 < reservedOf ab x.1 x.2))
  let s := s.setPlan (fun p => { p with degraded := deg, resvs := p.resvs.map (fun r =>
    if out.contains r.act then { r with suspended := true }
    else if back.2.contains r.act then { r with suspended := false } else r) })
  let s := kept.2.foldl (fun s x => ((s.setEvt Reg.PLN_EVENTS 0 5).post 4 0x31 x.1.act.source
    [(16, 1, x.1.cls.code), (17, 1, x.2.1), (18, 2, x.2.2.1), (20, 5, x.2.2.2.1), (25, 5, x.2.2.2.2)]).healthFail 1) s
  back.2.foldl (fun s a => s.post 4 0x32 a.source
    [(16, 1, ((s.plan.resvs.find? (fun r => decide (r.act = a))).map (·.cls.code)).getD 0)]) s

/-- Reservations whose release boundary has come leave the sums (R96), and with them the work and jobs of their
activities. -/
def State.dropEnded (s : State) : State :=
  let stays := fun (r : Resv) => match r.until_ with
    | some t => decide (s.time.tickNum < t)
    | none => true
  let keep := s.plan.resvs.filter stays
  let past := fun (a : Act) => s.plan.resvs.any (fun r => decide (r.act = a)) && !keep.any (fun r => decide (r.act = a))
  s.setPlan (fun p => { p with
    resvs := keep, work := p.work.filter (fun w => !past w.act), jobs := p.jobs.filter (fun j => !past j.act) })

/-- At a boundary the planner plans anew with the units that are ACTIVE (R31, R108, R110). -/
def State.replan (s : State) : State := s.planUnits.replace.refit

end Sys2Proof.Machine
end

