-- ==== Sys2Proof/Machine/HeadLink.lean ====
section
/-! DEFINITION. The head link protocol: codewords, cells and packets, credits, link bring-up, beacons, settings, sensor
registers (R156–R193). -/

namespace Sys2Proof.Machine

/-! ### Sending (R162–R166) -/

/-- The lanes of the link carry packets: data mode (R169). -/
def State.linkCarries (s : State) (l : Nat) : Bool :=
  let m := (s.hl l).mode
  m = .capability || m = .up || m = .restriped

/-- The bytes of a packet on LANE_TX: the back-channel jobs of its stream carry them (R92). -/
def State.laneTx (s : State) (l : Nat) (p : Pkt) : State :=
  let n := 32 * pktCells p.length
  match s.slotStream l p.slot with
  | some st => s.charge (.stream st) 2 l n
  | none => s.usedWork 2 l n

/-- Put a packet on the wire, with its VC_POS. -/
def State.putPkt (s : State) (l : Nat) (p : Pkt) : State :=
  let q := s.hl l
  let c := pktCells p.length
  let s := s.laneTx l p
  if p.vc = 1 then
    (s.emit (.head l { p with vcPos := q.sent1 % 2 ^ 24 })).setHl l (fun q => { q with
      sent1 := q.sent1 + c, burst1 := true })
  else (s.emit (.head l { p with vcPos := q.sent0 % 2 ^ 24 })).setHl l (fun q => { q with sent0 := q.sent0 + c })

/-- A VC1 packet has credit; one packet of up to 64 cells may go before the first CREDIT (R165). -/
def LinkSt.credit1 (q : LinkSt) (c : Nat) : Bool :=
  match q.headFreed1, q.cap with
  | some f, some k => decide ((q.sent1 + c + 2 ^ 24 - f % 2 ^ 24) % 2 ^ 24 ≤ k.vc1Limit)
  | _, _ => !q.burst1 && decide (c ≤ 64)

/-- Send a packet, or leave a VC1 packet waiting for credit behind those that wait. -/
def State.sendPkt (s : State) (l : Nat) (p : Pkt) : State :=
  if !s.linkCarries l then s
  else if p.vc = 1 ∧ (!(s.hl l).wait1.isEmpty ∨ !(s.hl l).credit1 (pktCells p.length)) then
    s.setHl l (fun q => { q with wait1 := q.wait1 ++ [p] })
  else s.putPkt l p

/-- Send the VC1 packets that credit now allows. -/
def State.flushVc1 (s : State) (l : Nat) : Nat → State
  | 0 => s
  | n + 1 =>
    match (s.hl l).wait1 with
    | p :: t => if (s.hl l).credit1 (pktCells p.length) then
        ((s.setHl l (fun q => { q with wait1 := t })).putPkt l p).flushVc1 l n else s
    | [] => s

/-- A packet to a head. -/
def mkPkt (ptype vc slot : Nat) (fields payload : List Byte) : Pkt :=
  { ptype := ptype, vc := vc, slot := slot, length := payload.length, fields := sliceBytes fields 0 8, payload := payload }

/-- A time in 2^−16 ns as 8 bytes of linear ns and 2 of fraction. -/
def timeBytes (t : Int) : List Byte := leBytes 8 (ofSigned 64 (t / 65536)) ++ leBytes 2 (ofSigned 16 t)

def State.hlEvt (s : State) (l b : Nat) : State := s.setEvt Reg.HL_EVENTS l b

/-! ### Receiving codewords (R120, R121, R156–R158, R162–R166) -/

/-- A VC2 loss matters to the frames whose inputs are open (R188). -/
def State.vc2Lost (s : State) (l : Nat) : State := s.setHl l (fun q => { q with vc2Loss := q.vc2Loss + 1 })
/-- The virtual channel that the first cell of a packet names. -/
def cellVc (c : List Byte) : Nat := leAt c 1 1 / 64
/-- A packet is lost whose first cell names VC2. -/
def State.lostPkt (s : State) (l : Nat) (c : List Byte) : State := if cellVc c = 2 then s.vc2Lost l else s

/-- Discard a codeword's cells and the packet they belong to; resume at a FIRST_SOP (R158). DESIGN CHOICE (log 126): its 20
cells and the held ones are counted in HL_LOST_CELL_CNT, and the gap in VC_POS that they leave is counted again when it shows. -/
def State.resync (s : State) (l : Nat) : State :=
  let held := (s.hl l).cells
  ((s.setHl l (fun q => { q with resync := true, cells := [] })).countN Reg.HL_LOST_CELL_CNT l (20 + held.length)).lostPkt l
    (held.head?.getD [])

/-- A packet of a VC may be taken by the FREED last sent to the head; before the first CREDIT, one of up to 64 cells on VC1 (R165,
R166). -/
def LinkSt.inCredit (q : LinkSt) (vc pos c : Nat) : Bool :=
  match q.credited with
  | none => decide (vc = 1) && decide (pos = 0) && decide (c ≤ 64)
  | some f =>
    let limit := if vc = 1 then 256 else 2048 * popCount q.mask 8
    decide ((pos + c + 2 ^ 24 - (if vc = 1 then f.1 else f.2) % 2 ^ 24) % 2 ^ 24 ≤ limit)

/-- A whole packet has arrived: CRC, VC_POS, credit, and into the queue of packets to handle. DESIGN CHOICE (log 127): a packet on
the reserved VC3 is held to VC2's position and limit, and accepted. -/
def State.packetIn (s : State) (l : Nat) (bytes : List Byte) : State :=
  match parsePkt bytes with
  | none => ((s.count Reg.HL_CRC_ERR_CNT l).hlEvt l 0).lostPkt l bytes
  | some p =>
    if p.ptype = 0 then s
    else
      let q := s.hl l
      let c := pktCells p.length
      let pos := if p.vc = 0 then q.pos0 else if p.vc = 1 then q.pos1 else q.pos2
      let gap := (p.vcPos + 2 ^ 24 - pos % 2 ^ 24) % 2 ^ 24
      let s := if gap = 0 then s
        else
          let s := (s.hlEvt l 1).countN Reg.HL_LOST_CELL_CNT l gap
          if p.vc = 2 then s.vc2Lost l else s
      let bad := decide (p.vc ≠ 0) && !q.inCredit p.vc p.vcPos c
      let s := s.setHl l (fun q => { q with
        pos0 := if p.vc = 0 then p.vcPos + c else q.pos0,
        pos1 := if p.vc = 1 then p.vcPos + c else q.pos1,
        pos2 := if p.vc = 2 then p.vcPos + c else q.pos2,
        freed1 := if p.vc = 1 then q.freed1 + gap + c else q.freed1,
        freed2 := if p.vc = 2 then q.freed2 + gap + c else q.freed2,
        creditDue := q.creditDue || decide (p.vc ≠ 0) })
      if bad then (s.hlEvt l 2).count Reg.HL_CREDIT_ERR_CNT l
      else s.setHl l (fun q => { q with rx := q.rx ++ [p] })

/-- One cell of the link stream; `sop` where FIRST_SOP names it. -/
def State.cellIn (s : State) (l : Nat) (c : List Byte) (sop : Bool) : State :=
  if (s.hl l).resync && !sop then s
  else
    let s := s.setHl l (fun q => { q with resync := false, cells := if sop then [c] else q.cells ++ [c] })
    let q := s.hl l
    match q.cells with
    | first :: _ =>
      -- a LENGTH out of range: the packet is discarded (R163)
      if 65536 < pktLen first then
        (((s.setHl l (fun q => { q with resync := true, cells := [] })).count Reg.HL_CRC_ERR_CNT l).hlEvt l 0).lostPkt l first
      else if q.cells.length < pktCells (pktLen first) then s
      else (s.setHl l (fun q => { q with cells := [] })).packetIn l q.cells.flatten
    | [] => s

/-- The next codeword of the link stream: its cells, or none where it is lost (R156–R158). -/
def State.takeCodeword (s : State) (l : Nat) (msg : Option (List Bool)) : State :=
  let s := s.setHl l (fun q => { q with cwSeq := q.cwSeq + 1 })
  match msg.bind (fun b => (parseHeader b).map (fun h => (b, h))) with
  | none => s.resync l
  | some (bits, sop, mg, _) =>
    let cells := cellsOf bits
    let s := match cells[mg]? with
      | some c => match parseMgmt c with
        | some m => s.setHl l (fun q => if q.mrx.contains m then q else { q with mrx := q.mrx ++ [m] })
        | none => s
      | none => s
    ((List.range 20).filter (fun i => decide (i ≠ mg))).foldl (fun s i => s.cellIn l (cells.getD i []) (decide (i = sop))) s

/-- Codewords that came early and whose turn it is now (R129, R157). -/
def State.takeEarly (s : State) (l : Nat) : State :=
  (List.range 16).foldl (fun s _ =>
    match (s.hl l).early.find? (fun e => decide (e.1 = (s.hl l).cwSeq % 64)) with
    | some e => (s.setHl l (fun q => { q with early := q.early.filter (fun x => decide (x.1 ≠ e.1)) })).takeCodeword l e.2
    | none => s) s

/-- How far a CW_SEQ lies ahead of the one expected. -/
def LinkSt.aheadBy (q : LinkSt) (seq : Nat) : Nat := (seq + 64 - q.cwSeq % 64) % 64

/-- A codeword with its place in the link stream: the lanes of a link are deskewed by up to two codewords each, which covers 80 ns
(R129); any other place is no expected one (R158). -/
def State.orderIn (s : State) (l seq : Nat) (msg : Option (List Bool)) : State :=
  let q := s.hl l
  let m := popCount q.mask 8
  let d := q.aheadBy seq
  if d = 0 then (s.takeCodeword l msg).takeEarly l
  else if 1 < m ∧ d < 2 * m then s.setHl l (fun q => { q with early := q.early ++ [(seq % 64, msg)] })
  else
    let s := if msg.isSome then s.hlEvt l 9 else s
    (s.resync l).setHl l (fun q => { q with cwSeq := if msg.isSome then seq + 1 else q.cwSeq, early := [] })

/-- The place in the link stream of the codeword that a lane has just received (R157). -/
def State.cwPlace (s : State) (n l : Nat) : Nat :=
  let q := s.hl l
  let ks := setBits q.mask 8
  if ks.length ≤ 1 then q.cwSeq
  else ((s.lane n).cw - 1) * ks.length + (ks.idxOf? (s.lane n).logical).getD 0

/-- The bridge of a planned swap that a lane is in: it and another lane bring the same codewords (R145). -/
def State.bridgeOf (s : State) (n : Nat) : Option Swap :=
  match s.swapOf (lanePort n) with
  | some w => if (n = w.lane ∨ n = w.spare) ∧ w.rxBlock.isSome ∧ !w.rxDone ∧ !w.failure then some w else none
  | none => none

/-- A codeword of a lane is lost: uncorrectable, with a bad header, or in SEARCH (R121, R128, R158). In a bridge it is lost only when
the other lane's copy is too. -/
def State.lostIn (s : State) (n l : Nat) : State :=
  let place := s.cwPlace n l
  match s.bridgeOf n with
  | none => s.orderIn l place none
  | some w =>
    if 32 ≤ (s.hl l).aheadBy place then s
    else if w.bad = some (s.lane n).cw then s.orderIn l place none
    else s.setSwap (lanePort n) (some { w with bad := some (s.lane n).cw })

/-- A decoded codeword message of a lane: header, lane management, link stream (R156–R158). -/
def State.messageIn (s : State) (n l : Nat) (bits : List Bool) : State :=
  match parseHeader bits with
  | none => (s.hlEvt l 9).lostIn n l
  | some (_, _, seq) =>
    let q := s.hl l
    let copy := (s.bridgeOf n).isSome && (decide (32 ≤ q.aheadBy seq) || q.early.any (fun e => decide (e.1 = seq) && e.2.isSome))
    if copy then s
    else (s.setHl l (fun q => { q with early := q.early.filter (fun e => decide (e.1 ≠ seq)) })).orderIn l seq (some bits)

/-- The bits of a received PRBS compared by the checker, or of the spare run (R143, R150). -/
def State.prbsCount (s : State) (n : Nat) (bits : List Bool) : State :=
  let c := s.reg Reg.LANE_PRBS_CTRL n
  if bit c 2 && bit c 3 then
    let pat := fld c 11 10
    let (e, h) := prbsErrors pat (s.lane n).prbs bits
    let errs := if pat = 3 then s.freeNat 12 else e
    let s := if pat = 3 then s.useFree else s
    ((s.setLane n (fun q => { q with prbs := h })).add64 Reg.LANE_PRBS_BITS_LO Reg.LANE_PRBS_BITS_HI n bits.length).add64
      Reg.LANE_PRBS_ERR_LO Reg.LANE_PRBS_ERR_HI n errs
  else s

/-- The bits of a spare block: all were sent 0, and every bit is checked (R143, R155). -/
def State.spareWord (s : State) (n : Nat) (bits : List Bool) : State :=
  let e := (bits.filter id).length
  ((s.setLane n (fun q => { q with spareBits := q.spareBits + bits.length, spareErrs := q.spareErrs + e })).add64
    Reg.LANE_PRBS_BITS_LO Reg.LANE_PRBS_BITS_HI n bits.length).add64 Reg.LANE_PRBS_ERR_LO Reg.LANE_PRBS_ERR_HI n e

/-- A codeword of a locked lane, its levels undone to the descrambled bits (R116–R122). -/
def State.codewordBits (s : State) (n : Nat) (bits : List Bool) : State :=
  let s := s.add64 Reg.LANE_CW_CNT_LO Reg.LANE_CW_CNT_HI n 1
  let q := s.lane n
  let s := if q.spare then s.spareWord n bits else s
  match rsDecode (symsOf bits) with
  | none =>
    let s := (s.add64 Reg.LANE_UNCORR_CNT_LO Reg.LANE_UNCORR_CNT_HI n 1).laneEvt n [0]
    let s := s.setLane n (fun q => { q with uncorr := q.uncorr + 1 })
    match q.link with
    | some l => if q.spare then s else s.lostIn n l
    | none => s
  | some (fixed, k) =>
    let s := (s.add64 Reg.LANE_CORR_SYM_LO Reg.LANE_CORR_SYM_HI n k).setLane n (fun q => { q with uncorr := 0 })
    match q.link with
    | some l => if q.spare then s else s.messageIn n l ((fixed.take 514).flatMap (bitsDown 10))
    | none => s

/-- A codeword of 2,720 levels arrives on a lane (R116–R122). In SEARCH it is lost (R128), and after the 4,096th of a block a comma
comes first (R124). -/
def State.codeword (s : State) (n : Nat) (levels : List Nat) : State :=
  let q := s.lane n
  if q.mode = .prbsTest || q.mode = .loopback then s.prbsCount n (levels.flatMap grayBits)
  else if q.mode = .search ∧ !q.spare then
    let s := s.setLane n (fun q => { q with cw := q.cw % 4096 + 1 })
    match q.link with
    | some l => s.lostIn n l
    | none => s
  else if !q.inData || decide (4096 ≤ q.cw) then s
  else
    let data := if q.rxPre then unprecode q.prevP levels else levels
    let (bits, scr) := scramble q.scr (data.flatMap grayBits)
    (s.setLane n (fun q => { q with scr := scr, prevP := levels.getLast?.getD q.prevP, cw := q.cw + 1 })).codewordBits n bits

def execCodewordReceive (n : Nat) (levels : List Nat) (s : State) : Host.Outcome State Fault Refusal :=
  s.go (fun s => s.codeword n levels)

/-- Handle a received packet of a type on a link that carries packets; the packet leaves the receive queue. -/
def State.onPkt (s : State) (l ty : Nat) (p : Pkt) (f : State → State) : State :=
  let s := if (s.hl l).rx.head? = some p then s.setHl l (fun q => { q with rx := q.rx.drop 1 }) else s
  if p.ptype = ty ∧ s.linkCarries l then f s else s

/-! ### Credits (R165, R166) -/

/-- CREDIT is due within 1 µs of a change and every 100 µs. -/
def State.creditSend (s : State) (l : Nat) : State :=
  let q := s.hl l
  if s.linkCarries l && (q.creditDue || decide (q.creditAt + usClk 100 ≤ s.time.clk)) then
    (s.sendPkt l (mkPkt 1 0 0 (leBytes 3 q.freed1 ++ leBytes 3 q.freed2) [])).setHl l (fun q => { q with
      creditDue := false, creditAt := s.time.clk, credited := some (q.freed1, q.freed2) })
  else s

def execCreditSend (l : Nat) (s : State) : Host.Outcome State Fault Refusal := s.go (fun s => s.creditSend l)

def execCredit (l : Nat) (p : Pkt) (s : State) : Host.Outcome State Fault Refusal :=
  s.go (fun s => s.onPkt l 1 p (fun s =>
    (s.setHl l (fun q => { q with headFreed1 := some (leAt p.fields 0 3) })).flushVc1 l 64))

/-! ### Bring-up and beacons (R168–R175) -/

/-- The link comes UP: settings tags and digests start anew (R169, R181, R247). -/
def State.linkRises (s : State) (l : Nat) : State :=
  let q := s.hl l
  if q.mode = .capability ∧ q.cap.isSome ∧ q.timeLock then
    let s := (s.setHl l (fun q => { q with sentSettings := [] })).setLinkMode l .up
    (s.linkStreams l).foldl (fun s st =>
      s.setStream st (fun x => { x with digest := List.replicate 48 0, trig := [] })) s
  else s

/-- The payload of CAPABILITY (R168). -/
def parseCap (b : List Byte) : Cap :=
  { vendor := leAt b 0 2, model := leAt b 2 2, serial := leAt b 4 8, version := leAt b 12 1, k := leAt b 13 1,
    streams := leAt b 14 1, depths := leAt b 15 1, minLead := leAt b 16 4, immLatency := leAt b 20 4,
    vc1Limit := leAt b 24 2, queue := leAt b 26 1, features := leAt b 27 1,
    linePeriods := (List.range 4).map (fun i => leAt b (28 + 8 * i) 8) }

def execCapability (l : Nat) (p : Pkt) (s : State) : Host.Outcome State Fault Refusal :=
  s.go (fun s => s.onPkt l 0x0F p (fun s =>
    (s.setHl l (fun q => { q with cap := some (parseCap p.payload), capLast := some (parseCap p.payload) })).linkRises l))

/-- BEACON: once per block of logical lane 0, about the comma of the next block; `tNext` and `tAfter` are the device times at
which the commas of blocks b + 1 and b + 2 leave, in 2^−16 ns (R171, R173). -/
def State.beaconSend (s : State) (l : Nat) (tNext tAfter : Int) : State :=
  if !s.linkCarries l then s
  else
    let q := s.hl l
    let b := if q.beaconBlock = some q.block then q.block + 1 else q.block
    let s := s.setHl l (fun q => { q with
      block := b, beaconBlock := some b,
      beacons := ({ block := (b + 1) % 65536, next := tNext, after := tAfter } :: q.beacons).take 8 })
    s.sendPkt l (mkPkt 3 0 0 (leBytes 2 (b + 1))
      (timeBytes tNext ++ [0, 0] ++ timeBytes tAfter ++ leBytes 1 s.time.epoch
        ++ leBytes 1 (b2n q.delayValid + 2 * b2n (decide (s.time.servo = .holdover)))
        ++ leBytes 4 (ofSigned 32 q.delay) ++ List.replicate 4 0))

def execBeaconSend (l : Nat) (tNext tAfter : Int) (s : State) : Host.Outcome State Fault Refusal :=
  s.go (fun s => s.beaconSend l tNext tAfter)

/-- BEACON_ECHO: delay, TIME_LOCK and the link's state; `at_` is A, the arrival of the comma of TX_BLOCK, in 2^−16 ns
(R169, R172). -/
def State.beaconEcho (s : State) (l : Nat) (p : Pkt) (at_ : Int) : State :=
  let q := s.hl l
  let rxB := leAt p.fields 0 2
  let turn := leAt p.payload 0 4
  let lock := (leAt p.payload 4 1) % 2 = 1
  let s := match q.beacons.find? (fun b => decide (b.block = rxB)) with
    | some b =>
      let rtt := at_ - b.next - (turn : Int) * (b.after - b.next) / (64 * 11141184)
      let d := rtt / 2 + toSigned 32 (s.act Reg.HL_ASYM l).toNat
      let ds := (d :: q.delays).take 16
      let full := decide (ds.length = 16)
      s.setHl l (fun q => { q with
        delays := ds, delayValid := q.delayValid || full,
        delay := if full then (ds.foldl (· + ·) 0) / 16 else q.delay })
    | none => s
  let was := q.timeLock
  let s := s.setHl l (fun q => { q with timeLock := decide lock })
  if !decide lock && was && decide (q.mode = .up) then (s.hlEvt l 7).setLinkMode l .capability
  else s.linkRises l

def execBeaconEcho (l : Nat) (p : Pkt) (at_ : Int) (s : State) : Host.Outcome State Fault Refusal :=
  s.go (fun s => s.onPkt l 4 p (fun s => s.beaconEcho l p at_))

/-! ### Settings (R180–R182) -/

/-- The number of the planning tick that contains a time in units of the time counter, boundaries moving as R67 gives. -/
def tickFrom (p : Nat) (t : Int) : Nat → Nat → Nat → Nat
  | 0, n, start => n + ((t - start) / p).toNat
  | fuel + 1, n, start =>
    if start % p = 0 then n + ((t - start) / p).toNat
    else
      let e := tickEndAfter p start
      if t < e then n else tickFrom p t fuel (n + 1) e

/-- The tick that contains a time in 2^−16 ns; for a time before the present tick, at the nominal period. -/
def State.tickOf (s : State) (t16 : Int) : Int :=
  let t : Int := t16 * (2 ^ 32 : Nat)
  let x := s.time
  if t < x.tickStart then (x.tickNum : Int) - ((x.tickStart : Int) - t + s.periodUnits - 1) / s.periodUnits
  else tickFrom s.periodUnits t 502 x.tickNum x.tickStart

/-- S(F) of R180; a frame below K is never in time. For an EVENT timer, which has no periodic starts, the tick after the present one while frame F − K has not
started. -/
def State.settingsTick (s : State) (r k f : Nat) : Int :=
  if f < k then -1
  else if s.rtmrAlign r = 3 then
    if f < k + (s.timer r).next then s.time.tickNum else s.time.tickNum + 1
  else s.tickOf (s.startOf r ((f : Int) - k)) - 1

/-- The first frame after F whose S lies at or after a tick (R180). -/
def State.slipFrame (s : State) (r k f : Nat) (tick : Int) : Nat → Nat
  | 0 => f
  | fuel + 1 => if tick ≤ s.settingsTick r k f then f else s.slipFrame r k (f + 1) tick fuel

/-- A frame to begin the search for the slipped frame at: one that starts just before the tick asked for. -/
def State.slipGuess (s : State) (r k f : Nat) : Nat :=
  if s.rtmrAlign r = 3 then max (f + 1) (k + (s.timer r).next)
  else
    let q := s.timer r
    let t : Int := (s.tickAhead 0 / 2 ^ 32 : Nat)
    let n := (t - q.s0) * (s.rtmrDen r) / (s.rtmrNum r * 65536000000000) - 1
    max (f + 1) (n + k).toNat

def settingsUsed : List (Nat × Nat) := [(8, 16)]

def State.settingsCheck (d : Desc) (s : State) : Refuse :=
  let st := tIndex d
  let r := s.streamRig st
  let tag := opAt d 12 2
  let cnt := opAt d 15 1
  let ok := decide (1 ≤ tag) && decide (tag ≤ 0xFFFE) && decide (opAt d 14 1 ≤ 1) && decide (1 ≤ cnt)
    && decide (cnt ≤ 120) && decide (opAt d 16 8 % 8 = 0)
  match s.check405 d (structOk d (tIs d 2 64) settingsUsed false) ok (s.isCtl d r)
      (s.modeIn [.operational] && s.streamOn st && decide (s.rigMode r ≠ .idle)) (some r) with
  | some x => some x
  | none => if (s.hl (s.streamLink st)).mode = .up then none else some (s.wrongState (some r))

/-- Queue a settings packet for its tick, unless four of the stream fall in it already (R180). -/
def State.queueSettings (s : State) (t : Ticket) (st l f posted tag : Nat) (ent : List Byte) (tick : Int) (slipped : Bool) :
    State :=
  let same := (s.hl l).settings.filter (fun x => decide (x.stream = st) && decide ((x.sendTick : Int) = tick))
  let pl := [(16, 4, f), (20, 8, tick.toNat)]
  if 4 ≤ same.length then s.complete t stNoResource
  else
    (s.setHl l (fun q => { q with settings := q.settings ++
      [{ stream := st, run := (s.run (s.streamRig st)).run, frame := f, posted := posted, tag := tag, entries := ent, sendTick := tick.toNat, slipped := slipped }] })).complete
        t (if slipped then stLate else stDone) pl

/-- The command SETTINGS_POST (R180, R412). -/
def State.settingsPost (s : State) (d : Desc) (t : Ticket) : State :=
  let st := tIndex d
  let r := s.streamRig st
  let l := s.streamLink st
  let k := ((s.hl l).cap.map (·.k)).getD 1
  let f := opAt d 8 4
  let ent := sliceBytes d.buf 0 (8 * opAt d 15 1)
  let due : Int := s.time.tickNum + 1
  let sf := s.settingsTick r k f
  if due ≤ sf then s.queueSettings t st l f f (opAt d 12 2) ent sf false
  else if opAt d 14 1 = 1 then
    let g := s.slipFrame r k (s.slipGuess r k f) due 64
    s.queueSettings t st l g f (opAt d 12 2) ent (s.settingsTick r k g) true
  else s.complete t stLate [(16, 4, 0xFFFFFFFF)]

def execSettingsPost (d : Desc) (s : State) : Host.Outcome State Fault Refusal :=
  s.go (fun s => s.runCmd d 0x40 (State.settingsCheck d) (fun t s => s.settingsPost d t))

/-- The settings packets of a link whose tick has come are sent, in the order posted (R180). A link that is DOWN, TRAINING or
EIDLE sends nothing, though the packet counts as sent. -/
def State.settingsSend (s : State) (l : Nat) : State :=
  let q := s.hl l
  let due := q.settings.filter (fun x => decide (x.sendTick ≤ s.time.tickNum))
  let s := s.setHl l (fun q => { q with
    settings := q.settings.filter (fun x => decide (s.time.tickNum < x.sendTick)),
    sentSettings := q.sentSettings ++ due })
  due.foldl (fun s x =>
    if s.linkCarries l then
      s.sendPkt l (mkPkt 0x0A 1 (s.streamSlot x.stream)
        (leBytes 4 x.frame ++ leBytes 2 x.tag ++ leBytes 1 (x.entries.length / 8)) x.entries)
    else (s.hlEvt l 4).post 2 0x23 (target 2 x.stream) [(16, 4, x.frame), (20, 2, x.tag), (22, 1, 0xFF)]) s

def execSettingsSend (l : Nat) (s : State) : Host.Outcome State Fault Refusal := s.go (fun s => s.settingsSend l)

/-- SETTINGS_ACK with a status other than ACCEPTED (R182). -/
def State.settingsAck (s : State) (l : Nat) (p : Pkt) : State :=
  let st := leAt p.fields 6 1
  if st = 0 then s
  else
    let s := (s.hlEvt l 4).count Reg.HL_SETTINGS_NAK_CNT l
    match s.slotStream l p.slot with
    | some t => s.post 2 0x23 (target 2 t) [(16, 4, leAt p.fields 0 4), (20, 2, leAt p.fields 4 2), (22, 1, st)]
    | none => s

def execSettingsAck (l : Nat) (p : Pkt) (s : State) : Host.Outcome State Fault Refusal :=
  s.go (fun s => s.onPkt l 0x0B p (fun s => s.settingsAck l p))

/-! ### Sensor registers (R183) -/

def State.sensorCheck (d : Desc) (s : State) : Refuse :=
  let l := tIndex d
  let w := opAt d 9 1
  let ok := decide (opAt d 8 1 ≤ 1) && decide (1 ≤ w) && decide (w ≤ 64) && decide (opAt d 16 8 % 4 = 0)
  let ctl := !(s.linkStreams l).isEmpty && (s.linkStreams l).all (fun st => s.isCtl d (s.streamRig st))
  match s.check405 d (structOk d (tIs d 3 32) [(8, 2), (12, 12)] false) ok (s.isSteward d || ctl)
      (s.modeIn [.standby, .operational]) none with
  | some x => some x
  | none =>
    if (s.hl l).mode ≠ .up then some (s.wrongState none)
    else if 16 ≤ (s.hl l).txns.length then some (stNoResource, []) else none

def State.sensorReg (s : State) (d : Desc) (t : Ticket) : State :=
  let l := tIndex d
  let w := opAt d 9 1
  let rd := decide (opAt d 8 1 = 1)
  let n := (s.hl l).nextTxn % 65536
  let s := s.setHl l (fun q => { q with
    nextTxn := q.nextTxn + 1,
    txns := q.txns ++ [{ txn := n, ticket := t, isRead := rd, words := w, data := opAt d 16 8, at_ := s.time.clk }] })
  s.sendPkt l (mkPkt (if rd then 0x0D else 0x0C) 1 0 (leBytes 2 n ++ leBytes 2 w ++ leBytes 4 (opAt d 12 4))
    (if rd then [] else sliceBytes d.buf 0 (4 * w)))

def execSensorReg (d : Desc) (s : State) : Host.Outcome State Fault Refusal :=
  s.go (fun s => s.runCmd d 0x41 (State.sensorCheck d) (fun t s => s.sensorReg d t))

/-- REG_COMPLETION: the command completes; a late one is discarded (R183, R412). -/
def State.regCompletion (s : State) (l : Nat) (p : Pkt) : State :=
  match (s.hl l).txns.find? (fun x => decide (x.txn = leAt p.fields 0 2)) with
  | none => s
  | some x =>
    let st := leAt p.fields 2 1
    let s := s.setHl l (fun q => { q with txns := q.txns.filter (fun y => decide (y.txn ≠ x.txn)) })
    let status := match st with
      | 0 => stDone | 1 => stBadParam | 2 => stNoResource | _ => stDenied
    let port := s.ringPort x.ticket.ring
    let bytes := sliceBytes p.payload 0 (4 * x.words)
    let put := x.isRead && decide (st = 0) && s.portTalks port
    let blocked := put && s.ideBlocks port x.data bytes
    let s := if put then s.hostWrite port x.data bytes else s
    s.complete x.ticket (if blocked then stSecurity else status) [(16, 1, st)]

def execRegCompletion (l : Nat) (p : Pkt) (s : State) : Host.Outcome State Fault Refusal :=
  s.go (fun s => s.onPkt l 0x0E p (fun s => s.regCompletion l p))

/-- A register transaction without an answer for HL_REG_TIMEOUT (R183). -/
def State.regTimeout (s : State) (l : Nat) : State :=
  let lim := usClk (s.act Reg.HL_REG_TIMEOUT l).toNat
  let due := (s.hl l).txns.filter (fun x => decide (x.at_ + lim ≤ s.time.clk))
  due.foldl (fun s x =>
    (((s.setHl l (fun q => { q with txns := q.txns.filter (fun y => decide (y.txn ≠ x.txn)) })).hlEvt l 5).count
      Reg.HL_REG_TIMEOUT_CNT l).complete x.ticket stTimeout) s

def execRegTimeout (l : Nat) (s : State) : Host.Outcome State Fault Refusal := s.go (fun s => s.regTimeout l)

end Sys2Proof.Machine
end

