-- ==== Sys2Proof/Machine/Ingest.lean ====
section
/-! DEFINITION. Triggers, frames and lines at ingest, the Canary, and the two instants of a time step (R63, R72, R176–R190,
R239, R243, R244, R634). -/

namespace Sys2Proof.Machine

/-! ### Triggers (R72, R176–R178, R243) -/

/-- The device time, in 2^−16 ns, of the start of tick `m`, for a tick after the present one. -/
def State.startOfTick (s : State) (m : Nat) : Int := (s.tickAhead (m - s.time.tickNum - 1) / 2 ^ 32 : Nat)

/-- Between S and B: the boundary and Δ in 2^−16 ns (R63). -/
def State.stepNow (s : State) : Option (Int × Int) :=
  match s.time.decided with
  | some d => match d.delta with
    | some x => some (s.startOfTick (d.tick + 1 + d.lead), x / (2 ^ 32 : Nat))
    | none => none
  | none => none

/-- Put a TRIGGER on the wire: bit 0 IMMEDIATE, bit 1 REPLACE, bit 2 CANCEL. -/
def State.putTrigger (s : State) (st n epoch flags : Nat) (t : Int) : State :=
  s.sendPkt (s.streamLink st) (mkPkt 8 0 (s.streamSlot st) (leBytes 4 n ++ leBytes 1 epoch ++ leBytes 1 flags)
    (timeBytes t ++ List.replicate 6 0))

/-- Frame `n` of a stream is triggered with exposure start `t`: its record slot is reserved and its trigger sent. -/
def State.triggerFrame (s : State) (r st n : Nat) (t : Int) (imm : Bool) : State :=
  let (t', epoch) := match s.stepNow with
    | some (b, d) => if b ≤ t then (t + d, (s.time.epoch + 1) % 256) else (t, s.time.epoch)
    | none => (t, s.time.epoch)
  let run := (s.run r).run
  let lost := (s.stream st).lost
  let ms := s.act Reg.RIG_MS_CTRL r
  let f : FrameSt := { id := s.store.nextId, stream := st, rig := r, frame := n, run := run, t := t', epoch := epoch,
                       t0 := t, expStart := t', expEnd := t', lastLine := t', imm := imm,
                       msPoints := fld ms 4 0, msMask := (s.act Reg.RIG_MS_CHMASK r).toNat,
                       msOffset := (s.act Reg.RIG_MS_OFFSET r).toNat,
                       msSpan := (s.act Reg.RIG_MS_SPAN r).toNat }
  -- expired candidates and frames of earlier runs that never opened are forgotten
  let s := s.setStore (fun q => { q with
    nextId := q.nextId + 1,
    frames := q.frames.filter (fun x => x.stream ≠ st || x.live || (x.run = run && x.phase ≠ .candidate)
      || (x.run = run && s.now16 ≤ x.t0 + s.actF Reg.ST_FS_WINDOW st 31 0 * 65536000)) })
  let s := s.setStream st (fun q => { q with trig := q.trig ++ [(run, n)] })
  let s :=
    if lost then s.setStore (fun q => { q with frames := q.frames ++ [{ f with phase := .candidate }] })
    else match s.allocSlot with
      | some (i, s') => s'.setStore (fun q => { q with frames := q.frames ++ [{ f with slot := some i }] })
      | none => ((s.storeEvt [1]).setStore (fun q => { q with
          frames := q.frames ++ [{ f with phase := .missed }] })).prerollLeave st r n
  s.putTrigger st n epoch (b2n imm) t'

/-- The next frame of a rig in every stream. -/
def State.triggerRig (s : State) (r : Nat) (t : Int) (imm : Bool) : State :=
  let n := (s.timer r).next
  ((s.rigStreams r).foldl (fun s st => s.triggerFrame r st n t imm) s).setTimer r (fun q => { q with
    next := n + 1, last := if imm then some (n, t) else q.last, recent := (t :: q.recent).take recentStarts })

/-- The trigger job of a rig's next frame is due: its exposure start lies within TRIG_LEAD ticks (R72). -/
def State.triggerDue (s : State) (r : Nat) : Bool :=
  let q := s.timer r
  q.running && decide (s.rtmrAlign r ≠ 3) && !q.waitRef
    && decide (s.startOf r q.next < (s.tickAhead (s.trigLead r) / 2 ^ 32 : Nat))

def State.triggerSend (s : State) (r : Nat) : State :=
  if s.triggerDue r && (s.rigStreams r).all (fun st => s.released (.stream st) 2 (s.streamLink st)) then s.triggerRig r (s.startOf r (s.timer r).next) false else s

def execTriggerSend (r : Nat) (s : State) : Host.Outcome State Fault Refusal := s.go (fun s => s.triggerSend r)

/-- A frame event of an EVENT timer at a device time (R71, R178, R474): it starts the next frame, or is ignored and counted. -/
def State.frameEvent (s : State) (r : Nat) (t : Int) : State :=
  let q := s.timer r
  if !q.running || decide (s.rtmrAlign r ≠ 3) then s
  else
    let far := match q.last with
      | some (_, x) => decide ((s.rtmrNum r * 65536000000000 : Nat) ≤ (t - x) * (s.rtmrDen r : Int))
      | none => true
    if far then s.triggerRig r t true else s.count Reg.RIG_TRIG_SKIP_CNT r

/-! ### The end of a frame's input (R187, R188, R244) -/

/-- End the input of an open frame. -/
def State.endInput (s : State) (id : Nat) (cause : FEnd) : State :=
  match s.frame? id with
  | none => s
  | some f =>
    let lost := (s.hl (s.streamLink f.stream)).vc2Loss - f.vc2At
    let t := s.now16
    s.setFrame id (fun f => { f with
      phase := .ended, endTick := s.time.tickNum, endCause := cause, endedAt := t, vc2At := lost,
      status := if cause = .frameEnd then f.status else f.status &&& ~~~ (0x40 : Word),
      expEnd := match cause with
        | .frameEnd => f.expEnd
        | .fsWindow | .nak => f.t
        | _ => f.lastLine })

/-- The CANARY event (R188, R415): 0 frame-start window, 1 frame-end window, 2 TRIGGER_NAK. -/
def State.canary (s : State) (f : FrameSt) (cause reason : Nat) : State :=
  ((s.setEvt Reg.ST_EVENTS f.stream 0).post 2 0x20 (target 2 f.stream)
    [(16, 4, f.frame), (20, 1, cause), (21, 1, reason), (24, 4, f.lines.length)]).healthFail 4

/-! ### Opening (R223, R243) -/

/-- The preview of a frame leaves the ring. A subscription with previews that has not bound the frame abandons it; a bound
descriptor that has written no byte of the preview loses it (R104, R223, R430). -/
def State.previewGone (s : State) (g : FrameSt) : State :=
  if g.pvGone then s
  else
    let s := s.setFrame g.id (fun f => { f with pvGone := true })
    let mine := s.mover.dlv.filter (fun x => decide (x.frame = some g.id))
    let waits := g.hold.subs.filter (fun k =>
      bit (s.act Reg.SUB_CTRL k) 26 && !mine.any (fun x => decide (x.sub = k)))
    let pv := pvBytes g.latch g.stream
    let loses := fun (x : Dlv) => decide (x.frame = some g.id) && x.parts.testBit 2 && !x.pvLost &&
      decide (x.given ≤ x.total - pv - (if x.parts.testBit 3 then 4096 else 0))
    let bound := mine.filter loses
    let lose := fun (x : Dlv) => if loses x then { x with pvLost := true, parts := x.parts - 4, total := x.total - pv } else x
    let s : State := { s with mover := { s.mover with dlv := s.mover.dlv.map lose } }
    let s := waits.foldl (fun (s : State) k =>
      let s : State := { s with mover := { s.mover with subs := s.mover.subs.upd {} k (fun q =>
        { q with pend := q.pend.filter (fun id => decide (id ≠ g.id)) }) } }
      s.releaseIf g.id (16 + k)) s
    (waits ++ bound.map (·.sub)).foldl (fun s k =>
      ((s.shed k g.stream g.frame 2).count Reg.ST_PV_SHED_CNT g.stream).setEvt Reg.ST_PIPE_EVENTS g.stream 2) s

/-- Open a frame, whose preview takes the ring slot of an older one. -/
def State.openNow (s : State) (id : Nat) : State :=
  match s.frame? id with
  | none => s
  | some f =>
    let ring := s.actF Reg.ST_PIPE f.stream 26 24
    let old := s.store.frames.filter (fun g => decide (g.stream = f.stream) && decide (g.run = f.run) && g.live
      && decide (g.frame + ring ≤ f.frame))
    let s := s.openFrame id
    if bit (s.act Reg.ST_PIPE f.stream) 20 then old.foldl (fun s g => s.previewGone g) s else s

/-! ### Matching packets to frames (R184) -/

/-- The frame a packet of a stream belongs to. -/
def State.matchFrame (s : State) (st n : Nat) : Option FrameSt :=
  s.store.frames.find? (fun f => decide (f.stream = st) && decide (f.frame = n)
    && decide (f.run = (s.run f.rig).run)
    && (f.phase = .triggered || f.phase = .candidate || f.phase = .missed || f.phase = .opened))

def State.unexpected (s : State) (l : Nat) : State := (s.count Reg.HL_UNEXPECTED_CNT l).hlEvt l 8
def State.latePkt (s : State) (st : Nat) : State := s.count Reg.ST_LATE_PKT_CNT st

/-- A packet that belongs to no frame: late when its number was triggered in the current run. -/
def State.stray (s : State) (l st n : Nat) : State :=
  if n < (s.timer (s.streamRig st)).next then s.latePkt st else s.unexpected l

/-- A packet of a stream slot with its frame number: how it is handled by phase. -/
def State.onFrame (s : State) (l : Nat) (p : Pkt) (f : Nat → Option FrameSt → State → State) : State :=
  match s.slotStream l p.slot with
  | none => s.unexpected l
  | some st =>
    let n := leAt p.fields 0 4
    match s.matchFrame st n with
    | none => s.stray l st n
    | some x => if x.phase = .missed then s.countN Reg.STORE_REC_MISS_CNT 0 1 else f st (some x) s

/-! ### FRAME_START (R184, R187, R189) -/

/-- The frame's input opens with its FRAME_START: earlier open frames of the stream end (R187). -/
def State.frameStartOn (s : State) (st : Nat) (x : FrameSt) (p : Pkt) : State :=
  let older := s.store.frames.filter (fun g => decide (g.stream = st) && g.phase = .opened && decide (g.id < x.id))
  let s := older.foldl (fun s g => s.endInput g.id .nextStart) s
  let start : Int := toSigned 64 (leAt p.payload 0 8) * 65536 + leAt p.payload 8 2
  let s := s.setFrame x.id (fun f => { f with
    fsAt := some s.time.clk, echo := some (leAt p.fields 4 2, leAt p.payload 12 4), expStart := start,
    imm := decide (leAt p.fields 6 1 % 2 = 1) })
  s.openNow x.id

def State.frameStart (s : State) (l : Nat) (p : Pkt) : State :=
  s.onFrame l p (fun st x s =>
    match x with
    | none => s
    | some x =>
      if x.phase = .opened then s.unexpected l
      else if x.phase = .candidate then
        if s.now16 ≤ x.t0 + s.actF Reg.ST_FS_WINDOW st 31 0 * 65536000 then
          match s.allocSlot with
          | some (i, s') =>
            let s := s'.setFrame x.id (fun f => { f with slot := some i, phase := .triggered })
            let s := ((s.setStream st (fun q => { q with lost := false, consec := 0 })).setEvt Reg.ST_EVENTS st 2).post 2 0x22
              (target 2 st) [(16, 4, x.frame)]
            s.frameStartOn st x p
          | none => (s.storeEvt [1]).countN Reg.STORE_REC_MISS_CNT 0 1
        else s.latePkt st
      else s.frameStartOn st x p)

def execFrameStart (l : Nat) (p : Pkt) (s : State) : Host.Outcome State Fault Refusal :=
  s.go (fun s => s.onPkt l 0x10 p (fun s => s.frameStart l p))

/-! ### LINE (R26, R185, R186, R195, R239, R240) -/

/-- The payload pages that a line touches. -/
def linePages (lb k : Nat) : List Nat :=
  (List.range ((k * lb + lb - 1) / 65536 + 1 - k * lb / 65536)).map (fun i => k * lb / 65536 + i)

/-- Take a page of the stream's cache for payload page `k` of a frame. -/
def State.giveLinePage (s : State) (st id k : Nat) : Option State :=
  let s := if (s.stream st).cache.isEmpty then s.refill st else s
  match (s.stream st).cache with
  | [] => none
  | p :: t => some ((s.setStream st (fun q => { q with cache := t })).setFrame id (fun f => { f with
      pages := f.pages.put 0 k (p + 1) }))

/-- Take every page a line needs that the frame has not. -/
def State.linePagesFor (s : State) (st id : Nat) : List Nat → Option State
  | [] => some s
  | k :: t =>
    match (s.frame? id).bind (fun f => f.page? k) with
    | some _ => s.linePagesFor st id t
    | none => match s.giveLinePage st id k with
      | some s' => s'.linePagesFor st id t
      | none => none

/-- One line of a frame arrives. -/
def State.lineIn (s : State) (st id k : Nat) (bytes : List Byte) : State :=
  match s.frame? id with
  | none => s
  | some f =>
    let lb := lineBytes f.latch st
    let drop := fun (s : State) => s.setFrame id (fun f => { f with
      dropped := if f.dropped.contains k then f.dropped else f.dropped ++ [k] })
    if geomH f.latch st ≤ k then s.setFrame id (fun f => { f with status := f.status ||| 2 })
    else if f.lines.contains k then s.count Reg.ST_DUP_LINE_CNT st
    else if 262144 < (s.stream st).buffered + lb then
      ((drop s).count Reg.ST_LINEBUF_DROP_CNT st).setEvt Reg.ST_PIPE_EVENTS st 0
    else match s.linePagesFor st id (linePages lb k) with
      | none => (((drop s).count Reg.ST_STARVED_CNT st).count Reg.STORE_STARVED_CNT).storeEvt [0]
      | some s =>
        let s := (s.setFrame id (fun f => { f with
          lines := f.lines ++ [k], waiting := f.waiting + 1, lastLine := s.now16 })).setStream st (fun q => { q with
            buffered := q.buffered + lb })
        (s.charge (.stream st) 1 (s.streamLink st) lb).setStore (fun q => { q with
          lbuf := q.lbuf ++ [{ stream := st, id := id, line := k, bytes := bytes, at_ := s.time.now }] })

/-- A LINE packet of an open frame. -/
def State.linesIn (s : State) (l st : Nat) (x : FrameSt) (p : Pkt) : State :=
  let first := leAt p.fields 4 2
  let cnt := leAt p.fields 6 1
  let lb := lineBytes x.latch st
  if cnt = 0 ∨ p.length ≠ cnt * lb then ((s.count Reg.HL_CRC_ERR_CNT l).hlEvt l 0).vc2Lost l
  else (List.range cnt).foldl (fun s i => s.lineIn st x.id (first + i) (sliceBytes p.payload (i * lb) lb)) s

def State.line (s : State) (l : Nat) (p : Pkt) : State :=
  s.onFrame l p (fun st x s =>
    match x with
    | none => s
    | some x =>
      if x.phase = .candidate then s.latePkt st
      else
        let s := if x.phase = .triggered then s.openNow x.id else s
        match s.frame? x.id with
        | some x => s.linesIn l st x p
        | none => s)

def execLine (l : Nat) (p : Pkt) (s : State) : Host.Outcome State Fault Refusal :=
  s.go (fun s => s.onPkt l 0x11 p (fun s => s.line l p))

/-! ### FRAME_END and the Canary (R187, R188) -/

def State.frameEnd (s : State) (l : Nat) (p : Pkt) : State :=
  s.onFrame l p (fun st x s =>
    match x with
    | none => s
    | some x =>
      if x.phase = .candidate then s.latePkt st
      else
        let s := if x.phase = .triggered then s.openNow x.id else s
        let e : Int := toSigned 64 (leAt p.payload 0 8) * 65536 + leAt p.payload 8 2
        (s.setFrame x.id (fun f => { f with
          linesSent := some (leAt p.fields 4 2), headFlags := leAt p.fields 6 1 % 4, expEnd := e })).endInput x.id .frameEnd)

def execFrameEnd (l : Nat) (p : Pkt) (s : State) : Host.Outcome State Fault Refusal :=
  s.go (fun s => s.onPkt l 0x12 p (fun s => s.frameEnd l p))

/-- The first frame of a stream whose frame-start window has run out. -/
def State.fsLate (s : State) (st : Nat) : Option FrameSt :=
  s.store.frames.find? (fun f => decide (f.stream = st) && f.fsAt.isNone && (f.phase = .triggered || f.phase = .opened)
    && decide (f.t0 + s.actF Reg.ST_FS_WINDOW st 31 0 * 65536000 ≤ s.now16))

/-- No FRAME_START within ST_FS_WINDOW of T (R188). -/
def State.canaryFs (s : State) (st : Nat) : State :=
  match s.fsLate st with
  | none => s
  | some f =>
    let s := if f.phase = .triggered then s.openNow f.id else s
    (s.endInput f.id .fsWindow).canary f 0 0

def execCanaryFsTimeout (st : Nat) (s : State) : Host.Outcome State Fault Refusal := s.go (fun s => s.canaryFs st)

/-- No FRAME_END within ST_FE_WINDOW of FRAME_START (R188). -/
def State.canaryFe (s : State) (st : Nat) : State :=
  match s.store.frames.find? (fun f => decide (f.stream = st) && f.phase = .opened &&
      (match f.fsAt with
       | some c => decide (c + usClk (s.actF Reg.ST_FE_WINDOW st 31 0) ≤ s.time.clk)
       | none => false)) with
  | none => s
  | some f => (s.endInput f.id .feWindow).canary f 1 0

def execCanaryFeTimeout (st : Nat) (s : State) : Host.Outcome State Fault Refusal := s.go (fun s => s.canaryFe st)

/-- TRIGGER_NAK (R179). DESIGN CHOICE (log 128): one for a frame that was not triggered or has ended is counted as the other packets
of R184 are. -/
def State.triggerNak (s : State) (l : Nat) (p : Pkt) : State :=
  let s := (s.count Reg.HL_TRIG_NAK_CNT l).hlEvt l 3
  s.onFrame l p (fun st x s =>
    match x with
    | none => s
    | some x =>
      if x.phase = .candidate then s.latePkt st
      else
        let s := if x.phase = .triggered then s.openNow x.id else s
        (s.endInput x.id .nak).canary x 2 (leAt p.fields 4 1))

def execTriggerNak (l : Nat) (p : Pkt) (s : State) : Host.Outcome State Fault Refusal :=
  s.go (fun s => s.onPkt l 9 p (fun s => s.triggerNak l p))

/-! ### A rig enters IDLE (R634) -/

/-- Cancel the triggered frames of a rig whose exposure has not begun at `b`; their slots are freed. -/
def State.cancelFrom (s : State) (r : Nat) (b : Int) : State :=
  let due := s.store.frames.filter (fun f => decide (f.rig = r) && decide (f.run = (s.run r).run) && decide (b ≤ f.t0)
    && (f.phase = .triggered || f.phase = .candidate || f.phase = .missed))
  due.foldl (fun s f =>
    let s := s.putTrigger f.stream f.frame f.epoch 4 f.t
    let s := match f.slot with
      | some i => s.freeSlot i
      | none => s
    s.setStore (fun q => { q with frames := q.frames.filter (fun x => decide (x.id ≠ f.id)) })) s

/-! ### Time steps at S and B (R63, R75, R84, R176) -/

/-- At S: a step that is no longer pending is dropped; otherwise Δ is fixed, STEP_NOTICE is sent and triggers are re-sent. -/
def State.stepFix (s : State) : State :=
  match s.time.decided with
  | none => s
  | some d =>
    if d.delta.isSome || decide (s.time.tickNum < d.tick + 1) then s
    else match (if d.void then none else s.time.pendingStep) with
      | none => (s.setTime (fun t => { t with decided := none })).completeOpt d.ticket (s.wrongState none).1 (s.wrongState none).2
      | some x =>
        let s := s.setTime (fun t => { t with decided := some { d with delta := some x } })
        let b := s.startOfTick (d.tick + 1 + d.lead)
        let dx : Int := x / (2 ^ 32 : Nat)
        let epoch := (s.time.epoch + 1) % 256
        let s := (List.range 32).foldl (fun s l =>
          if (s.hl l).mode = .up then s.sendPkt l (mkPkt 5 0 0 (leBytes 1 epoch)
            (leBytes 8 (ofSigned 64 (b / 65536)) ++ leBytes 8 (ofSigned 64 (x / (nsUnit : Int))))) else s) s
        let due := s.store.frames.filter (fun f => decide (b ≤ f.t0) && decide (f.run = (s.run f.rig).run)
          && (f.phase = .triggered || f.phase = .candidate || f.phase = .missed))
        due.foldl (fun s f => (s.putTrigger f.stream f.frame epoch 2 (f.t0 + dx)).setFrame f.id (fun f => { f with
          t := f.t0 + dx, epoch := epoch, expStart := f.t0 + dx, expEnd := f.t0 + dx, lastLine := f.t0 + dx })) s

def execTimeStepFix (s : State) : Host.Outcome State Fault Refusal := s.go (fun s => s.stepFix)

/-- Device time, its tick, the origins of running timers and the instants already noted move by Δ; the epoch increases by 1. -/
def State.stepClock (s : State) (x : Int) : State :=
  let dx : Int := x / (2 ^ 32 : Nat)
  let mv := fun (t : Nat) => ((t : Int) + x).toNat
  let shiftT := fun (q : RtmrSt) => if q.running then
      { q with s0 := q.s0 + dx, last := q.last.map (fun e => (e.1, e.2 + dx)) } else q
  s.setTime (fun t => { t with
    now := mv t.now, tickStart := mv t.tickStart, tickEnd := tickEndAfter s.periodUnits (mv t.tickStart), isSet := true,
    pendingStep := none, decided := none, epoch := (t.epoch + 1) % 256,
    timers := t.timers.map (fun e => (e.1, shiftT { e.2 with recent := e.2.recent.map (· + dx) })), refAt := t.refAt.map (· + dx),
    ppsOutSec := (mv t.now - 1) / secUnit, ppsSec := mv t.now / secUnit, ppsOut := t.ppsOut.map mv,
    ltc := { t.ltc with last := t.ltc.last.map (fun e => (e.1, mv e.2)), at_ := mv t.ltc.at_ } })

/-- LTC_OUT goes on with the first grid frame at or after the stepped time. -/
def State.stepLtc (s : State) : State :=
  let (num, den, _, _) := tcRate (s.actF Reg.TC_CTRL 0 2 0)
  s.setTime (fun t => { t with ltcOutNext := (tcIndex num den ((s.now16 : Int) - 1) + 1).toNat })

/-- Frames begun before B whose frame end has not arrived are marked (item 6); every start is now read in the new epoch. -/
def State.stepFrames (s : State) (b dx : Int) : State :=
  s.setStore (fun q => { q with frames := q.frames.map (fun f =>
    if f.t0 < b && (f.phase = .triggered || f.phase = .opened || f.phase = .candidate) then
      { f with status := f.status ||| 0x40, t0 := f.t0 + dx, msShift := f.msShift + dx }
    else if f.t0 < b then { f with t0 := f.t0 + dx, msShift := f.msShift + dx } else { f with t0 := f.t0 + dx }) })

/-- Instants of motion already noted are read in the new epoch too. -/
def State.stepMotion (s : State) (dx : Int) : State :=
  { s with motion := { s.motion with
    chans := s.motion.chans.map (fun e => (e.1, { e.2 with read := e.2.read.map (fun x => (x.1 + dx, x.2)) })),
    waits := s.motion.waits.map (fun w => { w with at_ := w.at_ + dx }) } }

/-- EPOCH timers report their distance (R75). -/
def State.stepAlign (s : State) : State :=
  (List.range 16).foldl (fun s r =>
    if (s.timer r).running && decide (s.rtmrAlign r = 0) then
      s.setTimer r (fun q => { q with alignErr := some (s.alignDistance r) }) else s) s

/-- The step is told, the servo acquires anew, the command completes, and compare units that were passed fire. -/
def State.stepTold (s : State) (d : StepPlan) (x : Int) : State :=
  let ns := ofSigned 64 (x / (nsUnit : Int))
  let s := (s.setEvt Reg.TIME_EVENTS 0 1).post 5 0x39 0 [(16, 8, ns), (24, 1, s.time.epoch)]
  let s := if s.source = 0 && d.isSet then s else s.setServo .acquire
  let s := s.completeOpt d.ticket stDone [(16, 8, ns)]
  if 0 < x then (List.range 16).foldl (fun s u => s.tcmpFire u true) s else s

/-- At B: Δ is added to device time and to the origins of running frame timers (R63). -/
def State.stepApply (s : State) : State :=
  match s.time.decided with
  | none => s
  | some d =>
    match d.delta with
    | none => s
    | some x =>
      if s.time.tickNum < d.tick + 1 + d.lead then s
      else
        let dx : Int := x / (2 ^ 32 : Nat)
        let b : Int := (s.time.tickStart / 2 ^ 32 : Nat)
        ((((s.stepClock x).stepLtc.stepFrames b dx).stepMotion dx).stepAlign).stepTold d x

def execTimeStepApply (s : State) : Host.Outcome State Fault Refusal := s.go (fun s => s.stepApply)

end Sys2Proof.Machine
end

