-- ==== Sys2Proof/Machine/Pipeline.lean ====
section
/-! DEFINITION. The image pipeline: conditioning, statistics and preview of a line (R195–R231). -/

namespace Sys2Proof.Machine

/-! ### Table objects as a stream reads them (R209, R210, R226, R535) -/

/-- The directory entry a handle names. -/
def State.obj? (s : State) (h : Nat) : Option (Nat × ObjSt) :=
  let i := h % 65536
  let o := s.obj.dir.get {} i
  if i ≠ 0 ∧ i < 4096 ∧ o.gen = h / 65536 ∧ o.phase ≠ .free then some (i, o) else none

/-- Bytes of an object. -/
def State.objBytes (s : State) (h off n : Nat) : List Byte :=
  match s.obj? h with
  | some (i, _) => hbmRead s.obj.heap (i * 2 ^ 32 + off) n
  | none => List.replicate n 0

/-! ### Conditioning (R201–R207) -/

/-- The pixels of a packed line (R185). -/
def unpackLine (d w : Nat) (b : List Byte) : List Nat :=
  let n := leNat b
  (List.range w).map (fun i => n / 2 ^ (i * d) % 2 ^ d)

/-- A column lies in the optical-black region (R202). -/
def inOb (t : RegSet) (st c : Nat) : Bool :=
  if t.bit Reg.ST_PIPE st 8 then decide (geomW t st - obWidth t st ≤ c) else decide (c < obWidth t st)

/-- The defects of a line as (column, METHOD), in ascending order (R210). -/
def State.lineDefects (s : State) (t : RegSet) (st l : Nat) : List (Nat × Nat) :=
  if t.bit Reg.ST_PIPE st 3 then
    let h := (t.val Reg.ST_DEFECT_TBL st).toNat
    let n := min (leNat (s.objBytes h 4 4)) 65536
    let es := (List.range n).map (fun i => s.objBytes h (64 + 8 * i) 8)
    (es.filter (fun e => decide (leAt e 2 2 ≤ l) && decide (l ≤ leAt e 2 2 + leAt e 4 2))).map (fun e =>
      (leAt e 0 2, leAt e 6 1))
  else []

/-- m(l): the mean of the optical-black pixels that the defect list leaves in, if any (R202). -/
def obMean (t : RegSet) (st : Nat) (defects : List (Nat × Nat)) (x0 : List Nat) : Option Nat :=
  let xs := (x0.zipIdx.filter (fun e => inOb t st e.2 && !defects.any (fun f => decide (f.1 = e.2)))).map (·.1)
  if xs.length = 0 then none else some ((xs.foldl (· + ·) 0 + xs.length / 2) / xs.length)

/-- b(l) (R202). -/
def blackLevel (t : RegSet) (st : Nat) (m : Option Nat) : Int :=
  let bl : Int := t.fld Reg.ST_BLACK st 15 0
  let k : Int := t.fld Reg.ST_BLACK st 31 16
  match m with
  | some m => if t.fld Reg.ST_PIPE st 7 6 = 1 then bl + clampInt (-k) k ((m : Int) - bl) else bl
  | none => bl

/-- The flat-field step of a pixel (R204). -/
def flatField (gf os : Nat) (y1 : Int) (word : Nat) : Int :=
  let gd := toSigned 12 (word / 16)
  let ofs := toSigned 4 word
  (y1 * ((2 ^ gf : Nat) + gd) + (2 ^ (gf - 1) : Nat)) / (2 ^ gf : Nat) + ofs * (2 ^ os : Nat)

/-- y2 of a line before replacement. -/
def State.lineY2 (s : State) (t : RegSet) (st l : Nat) (b : Int) (x0 : List Nat) : List Int :=
  if t.bit Reg.ST_PIPE st 4 then
    let h := (t.val Reg.ST_FLAT_TBL st).toNat
    let gf := leNat (s.objBytes h 12 1)
    let os := leNat (s.objBytes h 13 1)
    let cs := s.objBytes h (64 + 2 * x0.length * l) (2 * x0.length)
    x0.zipIdx.map (fun e => flatField gf os ((e.1 : Int) - b) (leAt cs (2 * e.2) 2))
  else x0.map (fun (x : Nat) => (x : Int) - b)

/-- The y2 of the nearest neighbour on one side that is found: 1 to 3 steps away, inside the line, not in the list. -/
def neighbour (y2 : List Int) (defects : List (Nat × Nat)) (step c : Nat) (left : Bool) : Option Int :=
  [1, 2, 3].findSome? (fun k =>
    if left && decide (c < k * step) then none
    else
      let n := if left then c - k * step else c + k * step
      if defects.any (fun f => decide (f.1 = n)) then none else y2[n]?)

/-- Replacement of the listed pixels (R205). -/
def replaceDefects (const : Int) (step : Nat) (defects : List (Nat × Nat)) (y2 : List Int) : List Int :=
  y2.zipIdx.map (fun e =>
    match defects.find? (fun f => decide (f.1 = e.2)) with
    | none => e.1
    | some (_, m) =>
      let a := neighbour y2 defects step e.2 true
      let b := neighbour y2 defects step e.2 false
      match m with
      | 0 => match a, b with
        | some x, some y => (x + y + 1) / 2
        | some x, none => x
        | none, some y => y
        | none, none => const
      | 1 => a.getD const
      | 2 => b.getD const
      | _ => const)

/-- Clip to 16 bits. -/
def clip16 (x : Int) : Nat := (clampInt 0 65535 x).toNat

/-- The conditioned output of d bits (R207). -/
def condOut (d v : Nat) : Nat := if d < 16 then min (2 ^ d - 1) ((v + 2 ^ (15 - d)) / 2 ^ (16 - d)) else v

/-- What a line gives: the payload pixels, m(l), and per pixel (p, y3, v, w) with w the preview's input. -/
structure LineOut where
  payload : List Nat
  ob : Option Nat
  px : List (Nat × Int × Nat × Nat)

/-- Condition a line (R201–R208, R212, R231). -/
def State.condition (s : State) (f : FrameSt) (l : Nat) (b : List Byte) : LineOut :=
  let t := f.latch
  let st := f.stream
  let d := geomD t st
  let p := unpackLine d (geomW t st) b
  let x0 := p.map (fun x => x * 2 ^ (16 - d))
  let defects := s.lineDefects t st l
  let m := if obWidth t st = 0 then none else obMean t st defects x0
  if f.calib then
    { payload := p, ob := m, px := (p.zip x0).map (fun e => (e.1, (e.2 : Int), e.2, e.2)) }
  else
    let step := if t.fld Reg.ST_PIPE st 11 9 = 0 then 1 else 2
    let y2 := replaceDefects (t.fld Reg.ST_DEFECT_CONST st 15 0) step defects
      (s.lineY2 t st l (blackLevel t st m) x0)
    let ped : Int := t.fld Reg.ST_LEVELS st 15 0
    let px := (p.zip y2).map (fun e => (e.1, e.2 + ped, clip16 (e.2 + ped), clip16 e.2))
    { payload := if t.bit Reg.ST_PIPE st 0 then px.map (fun e => condOut d e.2.2.1) else p, ob := m, px := px }

/-! ### Statistics (R213, R214) -/

/-- The channel of a pixel (R213). -/
def channelOf (cfa ca l : Nat) : Nat :=
  let i := ca % 2 + 2 * (l % 2)
  match cfa with
  | 1 => i
  | 2 => [1, 0, 3, 2].getD i 0
  | 3 => [2, 3, 0, 1].getD i 0
  | 4 => 3 - i
  | _ => 0

/-- One pixel of the active area: its column there, p, y3, v, and v of the same channel's column before it. -/
def Stats.pixel (q : Stats) (t : RegSet) (st : Nat) (calib : Bool) (l ca p : Nat) (y3 : Int) (v : Nat) (prev : Option Nat) :
    Stats :=
  let cfa := t.fld Reg.ST_PIPE st 11 9
  let ch := channelOf cfa ca l
  let d := geomD t st
  let z := l * 32 / geomH t st * 32 + ca * 32 / activeWidth t st
  let sat := min (t.fld Reg.ST_LEVELS st 31 16) (2 ^ d - 1)
  let low := !calib && decide (y3 < 0)
  let high := decide (sat ≤ p) || (!calib && decide (65535 < y3))
  let g := match prev with
    | some x => if cfa = 0 ∨ ch = 1 ∨ ch = 2 then some ((v : Int) - x).natAbs else none
    | none => none
  { q with
    hist := q.hist.upd 0 (ch * 256 + v / 256) (· + 1)
    zoneSum := q.zoneSum.upd 0 (z * 4 + ch) (· + v)
    zoneCnt := q.zoneCnt.upd 0 (z * 4 + ch) (· + 1)
    focSum := match g with | some x => q.focSum.upd 0 z (· + x) | none => q.focSum
    focCnt := match g with | some _ => q.focCnt.upd 0 z (· + 1) | none => q.focCnt
    clipLow := if low then q.clipLow.upd 0 ch (· + 1) else q.clipLow
    clipHigh := if high then q.clipHigh.upd 0 ch (· + 1) else q.clipHigh
    chMin := q.chMin.upd 0 ch (fun x => max x (65535 - v))
    chMax := q.chMax.upd 0 ch (fun x => max x v)
    chSum := q.chSum.upd 0 ch (· + v)
    chSq := q.chSq.upd 0 ch (· + v * v) }

/-- The pixels of the active area, in order of their active-area column. -/
def activePx {α : Type} (t : RegSet) (st : Nat) (l : List α) : List α :=
  if t.bit Reg.ST_PIPE st 8 then l.take (activeWidth t st) else l.drop (obWidth t st)

/-- Add a line to partial statistics. -/
def Stats.line (q : Stats) (t : RegSet) (st : Nat) (calib : Bool) (l : Nat) (o : LineOut) : Stats :=
  let px := activePx t st o.px
  let step := if t.fld Reg.ST_PIPE st 11 9 = 0 then 1 else 2
  let q := { q with lines := q.lines + 1, obSum := q.obSum + o.ob.getD 0, obLines := q.obLines + b2n o.ob.isSome }
  px.zipIdx.foldl (fun q e =>
    let prev := if e.2 < step then none else (px[e.2 - step]?).map (fun x => x.2.2.1)
    q.pixel t st calib l e.2 e.1.1 e.1.2.1 e.1.2.2.1 prev) q

/-! ### Preview (R217–R222) -/

/-- The RGB of a quad from its four values by channel (R217). -/
def quadRgb (cfa : Nat) (a b c d : Nat) : Nat × Nat × Nat :=
  let v := [(channelOf cfa 0 0, a), (channelOf cfa 1 0, b), (channelOf cfa 0 1, c), (channelOf cfa 1 1, d)]
  let of_ := fun ch => ((v.find? (fun e => decide (e.1 = ch))).map (·.2)).getD 0
  (of_ 0, (of_ 1 + of_ 2 + 1) / 2, of_ 3)

/-- Add one quad's value to its preview pixel (R218). -/
def FrameSt.addQuad (f : FrameSt) (a b : Nat) (rgb : Nat × Nat × Nat) : FrameSt :=
  let t := f.latch
  let i := a / pvSx t f.stream
  let j := b / pvSy t f.stream
  if i < pvW t f.stream ∧ j < pvH t f.stream then
    let k := j * 4096 + i
    { f with
      pvCnt := f.pvCnt.upd 0 k (· + 1)
      pvSum := ((f.pvSum.upd 0 (3 * k) (· + rgb.1)).upd 0 (3 * k + 1) (· + rgb.2.1)).upd 0 (3 * k + 2) (· + rgb.2.2) }
  else f

/-- The quads of a pair of lines (colour filter array) or of a line (MONO). -/
def FrameSt.addPreview (f : FrameSt) (l : Nat) (w : List Nat) : FrameSt :=
  let cfa := f.latch.fld Reg.ST_PIPE f.stream 11 9
  if cfa = 0 then w.zipIdx.foldl (fun f e => f.addQuad e.2 l (e.1, e.1, e.1)) f
  else
    let mate := if l % 2 = 0 then l + 1 else l - 1
    match f.pvWait.get [] mate with
    | [] => { f with pvWait := f.pvWait.put [] l w }
    | other =>
      let (e, o) := if l % 2 = 0 then (w, other) else (other, w)
      (List.range (w.length / 2)).foldl (fun f a =>
        f.addQuad a (l / 2) (quadRgb cfa (e.getD (2 * a) 0) (e.getD (2 * a + 1) 0) (o.getD (2 * a) 0) (o.getD (2 * a + 1) 0)))
        { f with pvWait := f.pvWait.put [] mate [] }

/-- The colour matrix (R219). -/
def ccm (t : RegSet) (st : Nat) (rgb : Nat × Nat × Nat) : Nat × Nat × Nat :=
  let m := fun (k : Nat) =>
    let v := [t.val Reg.ST_PV_CCM0 st, t.val Reg.ST_PV_CCM1 st, t.val Reg.ST_PV_CCM2 st, t.val Reg.ST_PV_CCM3 st,
      t.val Reg.ST_PV_CCM4 st].getD (k / 2) 0
    toSigned 16 (if k % 2 = 0 then v.toNat % 65536 else v.toNat / 65536)
  let row := fun (r : Nat) => clip16 ((m (3 * r) * rgb.1 + m (3 * r + 1) * rgb.2.1 + m (3 * r + 2) * rgb.2.2 + 2048) / 4096)
  (row 0, row 1, row 2)

/-- The table objects of the enabled looks of a set, with their sizes (R226). -/
def RegSet.lookTables (t : RegSet) : List (Nat × Nat) :=
  (List.range 4).flatMap (fun g =>
    (if t.bit Reg.PV_LOOK_CTRL g 0 then [((t.val Reg.PV_LOOK_1D g).toNat, 24640)] else [])
      ++ (if t.bit Reg.PV_LOOK_CTRL g 1 then [((t.val Reg.PV_LOOK_3D g).toNat, 215686)] else []))

/-- At a commit every pipeline unit loads the looks; those that open frames latched stay until the frames close (R226, R243). -/
def State.loadLooks (s : State) : State :=
  let need := (s.store.frames.filter (fun f => decide (f.phase = .opened) || decide (f.phase = .ended))).flatMap
    (fun f => f.latch.lookTables.map (·.1))
  let keep := s.store.looks.filter (fun e => need.contains e.1)
  s.setStore (fun q => { q with looks :=
    s.activeSet.lookTables.foldl (fun t e => Tab.put [] t e.1 (s.objBytes e.1 0 e.2)) keep })

/-- A 1D LUT of a look: channel c's table begins at 64 + 8,192 c (R220, R226). -/
def State.lut1 (s : State) (h c u : Nat) : Nat :=
  let at_ := fun (i : Nat) => leNat (sliceBytes (s.store.looks.get [] h) (64 + 8192 * c + 2 * min i 4095) 2)
  let a : Int := at_ (u / 16)
  let b : Int := at_ (u / 16 + 1)
  clip16 (a + ((b - a) * (u % 16 : Nat) + 8) / 16)

/-- The axes in order of their fractions, largest first; r before g before b on equal fractions (R221). -/
def axesByFrac (fr fg fb : Nat) : List (Nat × Nat) :=
  let ins := fun (l : List (Nat × Nat)) (x : Nat × Nat) =>
    (l.takeWhile (fun y => decide (x.2 ≤ y.2))) ++ [x] ++ l.dropWhile (fun y => decide (x.2 ≤ y.2))
  ins (ins [(0, fr)] (1, fg)) (2, fb)

/-- The 3D LUT of a look (R221). -/
def State.lut3 (s : State) (h : Nat) (rgb : Nat × Nat × Nat) : Nat × Nat × Nat :=
  let part := fun (u : Nat) => (u * 32 / 65536, u * 32 % 65536)
  let (ir, fr) := part rgb.1
  let (ig, fg) := part rgb.2.1
  let (ib, fb) := part rgb.2.2
  let entry := fun (i : Nat × Nat × Nat) (c : Nat) =>
    (leNat (sliceBytes (s.store.looks.get [] h) (64 + 6 * ((i.2.2 * 33 + i.2.1) * 33 + i.1) + 2 * c) 2) : Int)
  let step := fun (i : Nat × Nat × Nat) (a : Nat) =>
    if a = 0 then (i.1 + 1, i.2.1, i.2.2) else if a = 1 then (i.1, i.2.1 + 1, i.2.2) else (i.1, i.2.1, i.2.2 + 1)
  let ax := axesByFrac fr fg fb
  let a1 := ax.getD 0 (0, 0)
  let a2 := ax.getD 1 (0, 0)
  let a3 := ax.getD 2 (0, 0)
  let i0 := (ir, ig, ib)
  let i1 := step i0 a1.1
  let i2 := step i1 a2.1
  let i3 := (ir + 1, ig + 1, ib + 1)
  let out := fun (c : Nat) => clip16 (entry i0 c + ((a1.2 : Int) * (entry i1 c - entry i0 c)
    + a2.2 * (entry i2 c - entry i1 c) + a3.2 * (entry i3 c - entry i2 c) + 32768) / 65536)
  (out 0, out 1, out 2)

/-- One preview pixel, through matrix and look. -/
def State.pvPixel (s : State) (t : RegSet) (st : Nat) (rgb : Nat × Nat × Nat) : Nat × Nat × Nat :=
  let g := t.fld Reg.ST_PIPE st 23 22
  let u := ccm t st rgb
  let u := if t.bit Reg.PV_LOOK_CTRL g 0 then
      let h := (t.val Reg.PV_LOOK_1D g).toNat
      (s.lut1 h 0 u.1, s.lut1 h 1 u.2.1, s.lut1 h 2 u.2.2)
    else u
  if t.bit Reg.PV_LOOK_CTRL g 1 then s.lut3 (t.val Reg.PV_LOOK_3D g).toNat u else u

/-- The bytes of a preview pixel in PV_FMT (R222). -/
def pvPack (rgb10 : Bool) (u : Nat × Nat × Nat) : List Byte :=
  if rgb10 then
    let q := fun x => min 1023 ((x + 32) / 64)
    leBytes 4 (q u.1 + 1024 * q u.2.1 + 1048576 * q u.2.2)
  else
    let q := fun x => BitVec.ofNat 8 (min 255 ((x + 128) / 256))
    [q u.1, q u.2.1, q u.2.2]

/-- The rows of a frame's preview, each padded to STRIDE. -/
def State.pvRows (s : State) (f : FrameSt) : List Byte :=
  let t := f.latch
  let st := f.stream
  let w := pvW t st
  (List.range (pvH t st)).flatMap (fun j =>
    let row := (List.range w).flatMap (fun i =>
      let k := j * 4096 + i
      let n := f.pvCnt.get 0 k
      let avg := fun (c : Nat) => let x := f.pvSum.get 0 (3 * k + c); if n = 0 then 0 else (x + n / 2) / n
      pvPack (t.bit Reg.ST_PIPE st 21) (s.pvPixel t st (avg 0, avg 1, avg 2)))
    sliceBytes row 0 (pvStride t st))

/-! ### One line on a unit (R195–R198) -/

/-- The unit that processes a line of a stream (R197). -/
def State.unitOf (s : State) (st l : Nat) : Option Nat :=
  let ms := (s.stream st).members
  ms[l % ms.length]?

/-- The line a unit takes next: in order of arrival, and the lower stream on a tie (R196). -/
def State.nextLine (s : State) (u : Nat) : Option LineIn :=
  let mine := s.store.lbuf.filter (fun x => decide (s.unitOf x.stream x.line = some u))
  match mine with
  | [] => none
  | x :: t => some (t.foldl (fun a b => if b.at_ = a.at_ ∧ b.stream < a.stream then b else a) x)

/-- The bytes of HBM that a line costs beside its own: flat-field reads, and the row of the preview that it ends (R92, R224). -/
def lineStoreBytes (t : RegSet) (st : Nat) (calib : Bool) (l : Nat) : Nat :=
  (if t.bit Reg.ST_PIPE st 4 && !calib then 2 * geomW t st else 0)
    + (if t.bit Reg.ST_PIPE st 20 && decide ((l + 1) % (pvQuad t st * pvSy t st) = 0) then pvStride t st else 0)

/-- Process one line. -/
def State.processLine (s : State) (u : Nat) (x : LineIn) : State :=
  let s := s.setStore (fun q => { q with
    lbuf := q.lbuf.filter (fun y => !(decide (y.id = x.id) && decide (y.line = x.line))) })
  let s := s.setStream x.stream (fun q => { q with buffered := q.buffered - x.bytes.length })
  match s.frame? x.id with
  | none => s
  | some f =>
    let t := f.latch
    let o := s.condition f x.line x.bytes
    let lb := lineBytes t x.stream
    let s := s.putPayload x.id (x.line * lb) (packPixels (geomD t x.stream) o.payload lb)
    let s := s.setFrame x.id (fun f =>
      let f := { f with
        waiting := f.waiting - 1,
        stats := f.stats.upd {} u (fun q => q.line t x.stream f.calib x.line o) }
      if t.bit Reg.ST_PIPE x.stream 20 then f.addPreview x.line ((activePx t x.stream o.px).map (fun e => e.2.2.2)) else f)
    let n := lineCost t x.stream
    let s := (s.add64 Reg.PU_LINES_LO Reg.PU_LINES_HI u 1).add64 Reg.PU_BUSY_LO Reg.PU_BUSY_HI u n
    (s.charge (.stream x.stream) 3 u n).charge (.stream x.stream) 9 0 (lb + lineStoreBytes t x.stream f.calib x.line)

def State.puLine (s : State) (u : Nat) : State :=
  if s.unitActive 0x0C u then
    match s.nextLine u with
    | some x => if s.released (.stream x.stream) 3 u then s.processLine u x else s
    | none => s
  else s

def execPuLineProcess (u : Nat) (s : State) : Host.Outcome State Fault Refusal := s.go (fun s => s.puLine u)

end Sys2Proof.Machine
end

