-- ==== Sys2Proof/Machine/FrameClose.lean ====
section
/-! DEFINITION. The close of a frame: status and ranges, settings tags, statistics block, record and preview (R181,
R186–R190, R213–R216, R222, R244–R250); page digests and seals (R497–R503); frames pending for subscriptions (R422). -/

namespace Sys2Proof.Machine

/-! ### Status and missing lines (R186–R188, R246) -/

/-- The ranges of a rising list of lines. -/
def ranges : List Nat → List (Nat × Nat)
  | [] => []
  | x :: t => match ranges t with
    | (a, b) :: r => if a = x + 1 then (x, b) :: r else (x, x) :: (a, b) :: r
    | [] => [(x, x)]

/-- Lines below H never stored. -/
def FrameSt.missing (f : FrameSt) : List Nat :=
  (List.range (geomH f.latch f.stream)).filter (fun l => !f.lines.contains l)

/-- The missing lines that count as lost, by what ended the input. -/
def FrameSt.lost (f : FrameSt) : List Nat :=
  let m := f.missing.filter (fun l => !f.dropped.contains l)
  match f.endCause with
  | .frameEnd => m.filter (fun l => decide (l < f.linesSent.getD 0))
  | .nextStart | .zeroised => m
  | .fsWindow | .feWindow | .nak => if f.vc2At = 0 then [] else m

/-- The lines the record lists. -/
def FrameSt.listed (f : FrameSt) : List Nat :=
  (List.range (geomH f.latch f.stream)).filter (fun l =>
    f.lost.contains l || f.damagedLines.contains l || (f.dropped.contains l && !f.lines.contains l))

/-- The input ended by the Canary or by a TRIGGER_NAK. -/
def FEnd.timeout : FEnd → Bool
  | .fsWindow | .feWindow | .nak => true
  | _ => false

/-- The last settings packet sent for a frame's stream with a target at or before it (R181). -/
def State.lastSettings (s : State) (f : FrameSt) : Option Settings :=
  ((s.hl (s.streamLink f.stream)).sentSettings.filter (fun x =>
    decide (x.stream = f.stream) && (decide (x.run < f.run) || (decide (x.run = f.run) && decide (x.frame ≤ f.frame))))).getLast?
/-- The entries of every settings packet sent with target `n` of a run. -/
def State.entriesFor (s : State) (st run n : Nat) : List Byte :=
  ((s.hl (s.streamLink st)).sentSettings.filter (fun x =>
    decide (x.stream = st) && decide (x.run = run) && decide (x.frame = n))).flatMap (·.entries)

/-- The status flag word at close (R246). -/
def State.closeStatus (s : State) (f : FrameSt) : Word :=
  let h := geomH f.latch f.stream
  let sent := f.linesSent
  let (tag, crc) := match s.lastSettings f with
    | some x => (x.tag, crc32 x.entries)
    | none => (0, 0)
  let slipped := (s.hl (s.streamLink f.stream)).sentSettings.any (fun x =>
    decide (x.stream = f.stream) && decide (x.run = f.run) && decide (x.frame = f.frame) && x.slipped)
  let noStart := f.fsAt.isNone && (!f.endCause.timeout || !f.lines.isEmpty || !f.dropped.isEmpty)
  let set := fun (b : Bool) (i : Nat) => if b then BitVec.ofNat 32 (2 ^ i) else (0 : Word)
  f.status
    ||| set (match sent with | some n => decide (n < h) | none => false) 0
    ||| set (match sent with | some n => decide (h < n) | none => false) 1
    ||| set f.endCause.timeout 2
    ||| set (!f.lost.isEmpty || !f.damagedLines.isEmpty || noStart || f.endCause = .nextStart || f.endCause = .zeroised) 3
    ||| set slipped 4
    ||| set (f.fsAt.isSome && decide (f.echo ≠ some (tag, crc))) 5
    ||| set s.anyRecovery 7
    ||| set f.take.isNone 9
    ||| set (!f.dropped.isEmpty) 10

/-! ### The statistics block (R214, R215) -/

def meanOf (sum k : Nat) : Nat := if k = 0 then 0 else (sum + k / 2) / k

/-- `n` entries of `w` bytes. -/
def entries (n w : Nat) (f : Nat → Nat) : List Byte := (List.range n).flatMap (fun i => leBytes w (f i))

/-- The merged statistics of a frame. -/
def FrameSt.merged (f : FrameSt) : Stats := f.stats.foldl (fun a e => a.merge e.2) {}

/-- The statistics block from the merged statistics, tags and status. -/
def statBlock (f : FrameSt) (q : Stats) (tag echo : Nat) (status : Word) (tick : Nat) : List Byte :=
  let t := f.latch
  let cfa := t.fld Reg.ST_PIPE f.stream 11 9
  let used := fun ch => decide (cfa ≠ 0) || decide (ch = 0)
  layout 16384 [(0, leBytes 4 0x31545350), (4, leBytes 4 f.frame),
    (8, leBytes 1 f.stream ++ leBytes 1 f.rig ++ leBytes 2 tag ++ leBytes 2 echo ++ leBytes 1 (t.fld Reg.ST_FMT f.stream 2 0)
      ++ leBytes 1 (b2n f.calib + 2 * b2n f.statLost + 4 * b2n (decide (q.lines = 0)))),
    (16, leBytes 8 (ofSigned 64 (f.expStart / 65536))), (24, leBytes 8 tick), (32, leBytes 4 status.toNat),
    (36, leBytes 4 q.lines), (40, leBytes 4 (if obWidth t f.stream = 0 then 0 else meanOf (q.obSum * 65536) q.obLines)),
    (44, leBytes 4 f.version), (48, leBytes 2 (activeWidth t f.stream)), (50, leBytes 1 cfa),
    (64, entries 1024 4 (q.hist.get 0)),
    (4160, entries 4096 2 (fun i => meanOf (q.zoneSum.get 0 i) (q.zoneCnt.get 0 i))),
    (12352, entries 1024 2 (fun i => min 65535 (meanOf (q.focSum.get 0 i) (q.focCnt.get 0 i)))),
    (14400, entries 4 4 (q.clipLow.get 0)), (14416, entries 4 4 (q.clipHigh.get 0)),
    (14432, leBytes 8 (q.focSum.foldl (fun n e => n + e.2) 0)),
    (14440, entries 4 2 (fun i => if used i then 65535 - q.chMin.get 0 i else 0)),
    (14448, entries 4 2 (q.chMax.get 0)), (14464, entries 4 8 (q.chSum.get 0)), (14496, entries 4 8 (q.chSq.get 0))]

/-- Bytes 3,584 to 4,031 of the record, from the block (R249). -/
def summary (b : List Byte) : List Byte :=
  let zone := fun (x y c : Nat) => ((List.range 64).foldl (fun n i =>
    n + leAt b (4160 + 2 * (((8 * y + i / 8) * 32 + 8 * x + i % 8) * 4 + c)) 2) 32) / 64
  let foc := fun (x y : Nat) => ((List.range 64).foldl (fun n i =>
    n + leAt b (12352 + 2 * ((8 * y + i / 8) * 32 + 8 * x + i % 8)) 2) 32) / 64
  layout 448 [(0, sliceBytes b 36 4), (4, sliceBytes b 15 1), (5, sliceBytes b 50 1), (6, sliceBytes b 48 2),
    (8, sliceBytes b 40 4), (16, sliceBytes b 14400 16), (32, sliceBytes b 14416 16), (48, sliceBytes b 14432 8),
    (56, sliceBytes b 14440 8), (64, sliceBytes b 14448 8), (72, sliceBytes b 14464 32), (104, sliceBytes b 14496 32),
    (136, entries 64 2 (fun i => zone (i / 4 % 4) (i / 16) (i % 4))),
    (264, entries 16 2 (fun i => foc (i % 4) (i / 4))),
    (296, entries 32 4 (fun i => (List.range 32).foldl (fun n k => n + leAt b (64 + 4 * (i / 8 * 256 + 32 * (i % 8) + k)) 4) 0))]

/-! ### The frame record (R245–R250) -/

/-- The 128-bit take ID as a number (R245). -/
def Take.idNum (t : Take) : Nat := t.seq % 2 ^ 32 + 2 ^ 32 * (t.secs % 2 ^ 48) + 2 ^ 80 * Config.serial.toNat

/-- The 8 bytes of a motion sample, by channel and point. -/
def motionBytes (f : FrameSt) : List Byte := entries 384 8 (f.motion.get 0)

/-- Advance a stream's SETTINGS_DIGEST over its triggered frames up to and including frame `n` of a run; D of each is kept until that
frame closes (R247). -/
def State.digestTo (s : State) (st run n : Nat) : Nat → State
  | 0 => s
  | fuel + 1 =>
    match (s.stream st).trig with
    | [] => s
    | (r, k) :: t =>
      let d := sha384 ((s.stream st).digest ++ leBytes 4 k ++ s.entriesFor st r k)
      let s := s.setStream st (fun q => { q with trig := t, digest := d, digests := (r, k, d) :: q.digests })
      if r = run ∧ k = n then s else s.digestTo st run n fuel

/-- D of a frame, its stream's chain advanced to it where it is not there yet; D of frames that no longer await their close is
forgotten (R247). -/
def State.digestOf (s : State) (f : FrameSt) : List Byte × State :=
  let st := f.stream
  let s := if (s.stream st).trig.contains (f.run, f.frame) then s.digestTo st f.run f.frame (s.stream st).trig.length else s
  let d := match (s.stream st).digests.find? (fun e => decide (e.1 = f.run) && decide (e.2.1 = f.frame)) with
    | some e => e.2.2
    | none => (s.stream st).digest
  (d, s.setStream st (fun q => { q with digests := q.digests.filter (fun e => s.store.frames.any (fun g =>
    decide (g.stream = st) && decide (g.run = e.1) && decide (g.frame = e.2.1) && decide (g.id ≠ f.id) && g.phase ≠ .closed)) }))

/-- The record of a frame. -/
def State.frameRecord (s : State) (f : FrameSt) (tk : Option Take) (digest : List Byte) (status : Word) (block : List Byte) :
    List Byte :=
  let t := f.latch
  let st := f.stream
  let last := s.lastSettings f
  let ent := s.entriesFor st f.run f.frame
  let rs := ranges f.listed
  let list := (rs.take 32).zipIdx.foldl (fun n e => n + (e.1.1 + 2 ^ 15 * e.1.2) * 2 ^ (30 * e.2)) 0
  let pipe := t.val Reg.ST_PIPE st
  layout 4096 [(0, leBytes 4 0x32524650), (4, leBytes 16 ((tk.map (·.idNum)).getD 0)), (20, leBytes 4 f.frame),
    (24, leBytes 1 st ++ leBytes 1 f.rig ++ leBytes 1 f.epoch), (28, leBytes 8 s.time.tickNum),
    (36, leBytes 8 (ofSigned 64 (f.expStart / 65536)) ++ leBytes 2 (ofSigned 16 f.expStart) ++ leBytes 2 (ofSigned 16 f.expEnd)
      ++ leBytes 8 (ofSigned 64 (f.expEnd / 65536)) ++ leBytes 8 f.stamp),
    (64, leBytes 2 (geomW t st) ++ leBytes 2 (geomH t st) ++ leBytes 1 (t.fld Reg.ST_FMT st 2 0) ++ leBytes 1 (fld pipe 11 9)
      ++ leBytes 1 (fld pipe 0 0) ++ leBytes 1 (t.fld Reg.ST_OB st 5 0 + 128 * fld pipe 8 8) ++ leBytes 4 (lineBytes t st)
      ++ leBytes 4 (frameBytes t st) ++ leBytes 4 (framePages t st) ++ leBytes 2 (t.fld Reg.ST_FMT st 31 16) ++ leBytes 1 f.link
      ++ leBytes 1 f.headSlot ++ leBytes 4 f.version ++ leBytes 4 f.capId
      ++ leBytes 8 f.capSerial ++ leBytes 4 (t.val Reg.RTMR_NUM f.rig).toNat ++ leBytes 4 (t.val Reg.RTMR_DEN f.rig).toNat
      ++ leBytes 4 f.lines.length ++ leBytes 1 f.capK),
    (128, leBytes 4 status.toNat ++ leBytes 1 (min rs.length 32 + 128 * b2n (decide (32 < rs.length)))
      ++ leBytes 1 (f.headFlags + 4 * b2n (f.imm && f.fsAt.isSome)) ++ leBytes 2 (f.linesSent.getD 0xFFFF) ++ leBytes 120 list),
    (256, leBytes 2 ((last.map (·.tag)).getD 0) ++ leBytes 2 ((f.echo.map (·.1)).getD 0xFFFF)
      ++ leBytes 4 ((last.map (fun x => crc32 x.entries)).getD 0) ++ leBytes 4 ((f.echo.map (·.2)).getD 0)
      ++ leBytes 4 ((last.map (·.posted)).getD 0xFFFFFFFF) ++ digest ++ leBytes 4 (ent.length / 8)),
    (328, sliceBytes (ent.take 184) 0 184), (512, motionBytes f), (3584, summary block)]

/-- The preview with its header (R222). -/
def State.previewImage (s : State) (f : FrameSt) (tag echo : Nat) (status : Word) : List Byte :=
  let t := f.latch
  let st := f.stream
  layout 64 [(0, leBytes 4 0x31565050), (4, leBytes 4 f.frame),
    (8, leBytes 1 st ++ leBytes 1 f.rig ++ leBytes 1 (t.fld Reg.ST_PIPE st 21 21) ++ leBytes 1 (t.fld Reg.ST_PIPE st 23 22)
      ++ leBytes 2 (pvW t st) ++ leBytes 2 (pvH t st) ++ leBytes 4 (pvStride t st) ++ leBytes 2 tag ++ leBytes 2 echo
      ++ leBytes 4 status.toNat ++ leBytes 4 f.version ++ leBytes 8 (ofSigned 64 (f.expStart / 65536)))] ++ s.pvRows f

/-! ### Frames pending for subscriptions (R422) -/

/-- A closed, and where its take asks for it sealed, frame becomes pending for a subscription that holds it. -/
def State.pendFor (s : State) (f : FrameSt) (k : Nat) : State :=
  let q := s.mover.subs.get {} k
  let older := if s.subLossy k then q.pend.filter (fun id =>
      match s.frame? id with
      | some g => decide (g.stream = f.stream) && decide (g.id ≠ f.id)
      | none => false) else []
  let s := { s with mover := { s.mover with subs := s.mover.subs.upd {} k (fun q => { q with
    pend := q.pend.filter (fun id => !older.contains id && decide (id ≠ f.id)) ++ [f.id], skipped := q.skipped + older.length }) } }
  older.foldl (fun s id => (s.count Reg.SUB_SKIP_CNT k).releaseIf id (16 + k)) s

def State.pendAll (s : State) (id : Nat) : State :=
  match s.frame? id with
  | some f => f.hold.subs.foldl (fun s k => s.pendFor f k) s
  | none => s

/-! ### FRAME_CLOSE (R244) -/

/-- A stream becomes LOST: its triggered frames that have not opened become candidates and give their slots back (R189). -/
def State.triggeredToCandidates (s : State) (st : Nat) : State :=
  (s.store.frames.filter (fun f => decide (f.stream = st) && f.phase = .triggered)).foldl (fun s f =>
    let s := match f.slot with
      | some i => s.freeSlot i
      | none => s
    s.setFrame f.id (fun f => { f with slot := none, phase := .candidate })) s

/-- The stream's count of timeouts, its history, and LOST (R189, R190). -/
def State.closeHealth (s : State) (f : FrameSt) : State :=
  let st := f.stream
  let late := f.endCause.timeout
  let q := s.stream st
  let n := if late then satAdd 255 q.consec 1 else 0
  let s := s.setStream st (fun q => { q with consec := n, history := (late :: q.history).take 16, lastFrame := f.frame })
  if late && decide (s.actF Reg.ST_CANARY st 7 0 ≤ n) && !q.lost && decide (s.rigMode f.rig ≠ .idle) then
    ((((s.triggeredToCandidates st).setStream st (fun q => { q with lost := true })).setEvt Reg.ST_EVENTS st 1).post 2 0x21 (target 2 st)
      [(16, 4, f.frame)]).healthFail 3
  else s

/-- The lines of every page the frame holds that nothing touched are filled (R239). -/
def State.fillFrame (s : State) (f : FrameSt) : State :=
  let fl := fillLine f.latch f.stream
  f.missing.foldl (fun s l => s.putPayload f.id (l * fl.length) fl) s

/-- Close a frame whose input has ended and whose lines are all written. -/
def State.closeFrame (s : State) (f : FrameSt) : State :=
  let st := f.stream
  let s := s.fillFrame f
  let (digest, s) := s.digestOf f
  let status := s.closeStatus f
  let tag := ((s.lastSettings f).map (·.tag)).getD 0
  let echo := (f.echo.map (·.1)).getD 0xFFFF
  let block := statBlock f f.merged tag echo status s.time.tickNum
  let tk := f.take.bind (fun i => s.take? i)
  let record := s.frameRecord f tk digest status block
  let pv := f.latch.bit Reg.ST_PIPE st 20
  let image := if pv then s.previewImage f tag echo status else []
  let evs := (setBits status.toNat 11).filterMap (fun b =>
    match b with | 0 => some 3 | 1 => some 4 | 3 => some 5 | 4 => some 6 | 5 => some 7 | 10 => some 8 | _ => none)
  let s := s.setFrame f.id (fun f => { f with
    phase := .closed, status := status, record := record, block := block, pvImage := image, closeTick := s.time.tickNum,
    stats := [], pvSum := [], pvCnt := [], pvWait := [] })
  let s := s.orReg Reg.ST_EVENTS st (bitsOf evs)
  let s := match f.slot with
    | some i => s.slotBytes i true true
    | none => s
  let s := if f.statLost then s.setEvt Reg.ST_PIPE_EVENTS st 1 else s
  let s := s.closeHealth f
  let s := s.releaseIf f.id 0
  let s := s.prerollLeave st f.rig f.frame
  let s := if f.hold.sealing then s else s.pendAll f.id
  s.tallyTest f.id

/-- The first frame of a stream that is due to close. -/
def State.closable (s : State) (st : Nat) : Option FrameSt :=
  s.store.frames.find? (fun f => decide (f.stream = st) && f.phase = .ended && decide (f.endTick < s.time.tickNum)
    && decide (f.waiting = 0))

def State.frameClose (s : State) (st : Nat) : State :=
  match s.closable st with
  | some f => s.closeFrame f
  | none => s

def execFrameClose (st : Nat) (s : State) : Host.Outcome State Fault Refusal := s.go (fun s => s.frameClose st)

/-! ### Page digests and seals (R497–R503) -/

/-- Every line of a payload page is written: the frame's input has ended and its lines are processed, or those lines are. -/
def State.pageDone (s : State) (f : FrameSt) (i : Nat) : Bool :=
  f.phase = .closed ||
    (let lb := lineBytes f.latch f.stream
     let a := i * 65536 / lb
     let b := min (geomH f.latch f.stream) (ceilDiv ((i + 1) * 65536) lb)
     (List.range (b - a)).all (fun k => f.lines.contains (a + k) &&
       !s.store.lbuf.any (fun x => decide (x.id = f.id) && decide (x.line = a + k))))

/-- The engines that digest a stream's pages: those its seal is placed on. -/
def State.sealEngines (s : State) (st : Nat) : List Nat :=
  match s.placedOn (.seal st) 4 with
  | [] => (List.range 18).filter (fun u => s.unitActive 0x0D u)
  | l => l
def FrameSt.pageBytes (f : FrameSt) (i : Nat) : Nat := min 65536 (frameBytes f.latch f.stream - 65536 * i)

/-- The bytes of complete pages of a stream that an engine has yet to digest. -/
def State.sealPending (s : State) (st e : Nat) : Nat :=
  let es := s.sealEngines st
  s.store.frames.foldl (fun n f =>
    if f.stream = st ∧ f.live ∧ f.hold.sealing then
      (List.range (framePages f.latch st)).foldl (fun n i =>
        if es[i % es.length]? = some e ∧ f.digests.get [] i = [] ∧ s.pageDone f i then n + f.pageBytes i else n) n
    else n) 0

/-- Before the planner builds the job set, seals ask for the pages that are complete (R99, R498). -/
def State.sealAsk (s : State) : State :=
  s.plan.resvs.foldl (fun s r => match r.act with
    | .seal st => (r.amounts.filter (fun x => decide (x.res = 4))).foldl (fun s x =>
        s.setWork (.seal st) 4 x.inst (s.sealPending st x.inst - s.jobLeft (.seal st) 4 x.inst)) s
    | _ => s) s

/-- The next page that an engine owes: of a frame with a seal holder, in order (R498). -/
def State.pageOwed (s : State) (e : Nat) : Option (FrameSt × Nat) :=
  s.store.frames.findSome? (fun f =>
    if f.live && f.hold.sealing then
      let es := s.sealEngines f.stream
      (List.range (framePages f.latch f.stream)).findSome? (fun i =>
        if es[i % es.length]? = some e ∧ f.digests.get [] i = [] ∧ s.pageDone f i then some (f, i) else none)
    else none)

def State.pageDigest (s : State) (e : Nat) : State :=
  if s.unitActive 0x0D e && decide (s.dev.mode = .operational) then
    match s.pageOwed e with
    | some (f, i) =>
      let n := f.pageBytes i
      let a := Act.seal f.stream
      if s.hasResv a && decide (s.jobLeft a 4 e < n) then s
      else
      let h := sha384 (s.getPayload f (65536 * i) n)
      (((s.setFrame f.id (fun f => { f with digests := f.digests.put [] i h })).useJob a 4 e n).readBytes f (65536 * i) n).add64
        Reg.CE_BYTES_LO Reg.CE_BYTES_HI e n
    | none => s
  else s

def execPageDigest (e : Nat) (s : State) : Host.Outcome State Fault Refusal := s.go (fun s => s.pageDigest e)

/-- The digest of a frame's payload (R498). -/
def FrameSt.payloadDigest (f : FrameSt) : List Byte :=
  sha384 ((List.range (framePages f.latch f.stream)).flatMap (fun i => f.digests.get [] i))

/-- The frame of a stream that is sealed next: the lowest of its take, with none before it still to come (R502). -/
def State.sealable (s : State) (st : Nat) : Option (FrameSt × Take) :=
  (s.store.frames.find? (fun f => decide (f.stream = st) && f.phase = .closed && f.hold.sealing && !f.sealed
    && (List.range (framePages f.latch st)).all (fun i => decide (f.digests.get [] i ≠ []))
    && !s.store.frames.any (fun g => decide (g.stream = st) && decide (g.run = f.run) && decide (g.frame < f.frame)
        && ((g.live && decide (g.take = f.take) && g.hold.sealing && !g.sealed) ||
            (g.phase = .triggered && ((f.take.bind (fun i => s.take? i)).map (fun t => decide (t.first ≤ g.frame))).getD false))))).bind
    (fun f => (f.take.bind (fun i => s.take? i)).map (fun t => (f, t)))

/-- The last frame of a take is sealed: its key is erased (R499). -/
def State.eraseKey (s : State) (t : Take) : State :=
  let left := s.store.frames.any (fun f =>
    (f.live && decide (f.take = some t.id) && f.hold.sealing)
      || (decide (f.rig = t.rig) && decide (f.run = (s.run t.rig).run) && f.phase = .triggered && decide (t.first ≤ f.frame)
        && (match t.last with | some n => decide (f.frame ≤ n) | none => true)))
  match (s.take? t.id).bind (·.last) with
  | some n =>
    if left || decide ((s.timer t.rig).running && decide ((s.timer t.rig).next ≤ n)) then s
    else s.setTake t.id (fun t => { t with key := [] })
  | none => s

/-- The first 4,032 bytes of a frame's record as they are sealed: SPILLED is 0 (R501). -/
def FrameSt.sealHead (f : FrameSt) : List Byte :=
  (patchBytes f.record 128 (leBytes 4 ((BitVec.ofNat 32 (leAt f.record 128 4)) &&& ~~~ (0x100 : Word)).toNat)).take 4032

/-- SEAL_TAG of a frame of a take (R501). -/
def FrameSt.sealTag (f : FrameSt) (t : Take) : List Byte :=
  beBytes 16 (Config.gcmTag t.key (leBytes 4 f.frame ++ leBytes 1 f.stream ++ List.replicate 7 0) (f.sealHead ++ f.payloadDigest)).toNat

/-- The chain value of a frame that is the next of its stream to be sealed in a take (R502). -/
def FrameSt.sealChain (f : FrameSt) (t : Take) : List Byte :=
  let prev := match t.chains.get [] f.stream with
    | [] => List.replicate 48 0
    | c => c
  sha384 (prev ++ f.sealHead ++ f.sealTag t ++ f.payloadDigest)

/-- Seal a frame (R501, R502). -/
def State.sealFrame (s : State) (f : FrameSt) (t : Take) : State :=
  let s := s.setFrame f.id (fun x => { x with
    sealed := true, record := patchBytes (patchBytes f.record 4032 (f.sealTag t)) 4048 (f.sealChain t) })
  let s := match f.slot with
    | some i => s.slotBytes i true false
    | none => s
  let s := s.setTake t.id (fun x => { x with chains := x.chains.put [] f.stream (f.sealChain t) })
  let s := s.releaseIf f.id 1
  (s.pendAll f.id).eraseKey t

def State.frameSeal (s : State) (st : Nat) : State :=
  if s.dev.mode = .operational then
    match s.sealable st with
    | some (f, t) => s.sealFrame f t
    | none => s
  else s

def execFrameSeal (st : Nat) (s : State) : Host.Outcome State Fault Refusal := s.go (fun s => s.frameSeal st)

end Sys2Proof.Machine
end

