-- ==== Sys2Proof/Machine/Magazine.lean ====
section
/-! DEFINITION. Bays and drives: insertion and identification, NVMe commands, drive failure, removal and release
(R281–R294, R310, R311, R315, R316, R635). -/

namespace Sys2Proof.Machine

def State.setMag (s : State) (f : MagState → MagState) : State := { s with mag := f s.mag }
def State.bay (s : State) (b : Nat) : BaySt := s.mag.bays.get {} b
def State.setBay (s : State) (b : Nat) (f : BaySt → BaySt) : State := s.setMag (fun m => { m with bays := m.bays.upd {} b f })
def State.setDrive (s : State) (d : Nat) (f : DriveSt → DriveSt) : State :=
  s.setMag (fun m => { m with drives := m.drives.upd {} d f })
def State.bayEvt (s : State) (b bit : Nat) : State := s.setEvt Reg.BAY_EVENTS b bit
def bayOf (slot : Nat) : Nat := slot / 4
def slotsOf (b : Nat) : List Nat := [4 * b, 4 * b + 1, 4 * b + 2, 4 * b + 3]

/-- A bay changes state, and BAY_STATE is posted (R415). -/
def State.enterBay (s : State) (b : Nat) (m : BayMode) : State :=
  let old := (s.bay b).mode
  if old = m then s
  else
    let s := s.setBay b (fun q => { q with mode := m })
    s.post 6 0x44 (target 5 b) [(16, 1, m.code), (17, 1, old.code), (18, 1, (s.bay b).content), (19, 1, (s.bay b).breason)]

/-- The indicator of a bay: green and amber, each 0 off, 1 on, 2 blinking at 1 Hz, 3 blinking at 4 Hz (R285). -/
def State.bayLed (s : State) (b : Nat) : Nat × Nat :=
  match s.actF Reg.BAY_CTRL b 7 6, fld (s.reg Reg.BAY_CTRL b) 7 6 with
  | _, 1 => (0, 0)
  | _, 2 => (1, 0)
  | _, 3 => (0, 1)
  | _, _ => match (s.bay b).mode with
    | .empty => (0, 0)
    | .inserting | .identify => (2, 0)
    | .ready => (1, 0)
    | .inUse => if (s.bay b).refused then (3, 3) else (0, 1)
    | .closing => (0, 2)
    | .failed | .rejected => (0, 3)

/-! ### NVMe commands (R292–R294) -/

/-- Issue a command on a drive that works. -/
def State.issue (s : State) (slot : Nat) (kind : DrvKind) (op : DrvOp) (lba blocks queue : Nat) (data : List Byte) : State :=
  let m := (s.drive slot).mode
  if m = .empty ∨ m = .failed ∨ m = .rejected then s
  else
    let c : DrvCmd := { id := s.mag.nextCmd, slot := slot, kind := kind, op := op, lba := lba, blocks := blocks,
                        queue := queue, data := data, at_ := s.time.clk }
    let s := (s.setMag (fun m => { m with cmds := m.cmds ++ [c], nextCmd := m.nextCmd + 1 })).emit
      (.drive slot queue op lba blocks data)
    match op with
    | .write _ => s.add64 Reg.MBS_WR_BYTES_LO Reg.MBS_WR_BYTES_HI slot data.length
    | _ => s

/-- A metadata or admin Write with the drive's FUA. -/
def State.writeMeta (s : State) (slot : Nat) (kind : DrvKind) (lba : Nat) (data : List Byte) : State :=
  s.issue slot kind (.write (s.drive slot).fua) lba (data.length / 4096) 4 data

/-- Writes outstanding on a drive. -/
def State.writesOut (s : State) (slot : Nat) : Nat :=
  (s.mag.cmds.filter (fun c => decide (c.slot = slot) && (match c.op with | .write _ => true | _ => false))).length

/-- Hold a bay's drives: PERST# asserted and clocks stopped (R310, R314, R635). -/
def State.holdBay (s : State) (b : Nat) : State :=
  (slotsOf b).foldl (fun s d => s.emit (.pin "MB_PERST#" d false)) (s.emit (.pin "MB_REFCLK" b false))

/-! ### Identification (R287–R289) -/

/-- The fields of a valid identity page (R329). -/
def parseIdPage (b : List Byte) : Option IdPage :=
  if leAt b 0 4 = 0x44494D50 ∧ leAt b 4 1 = 2 ∧ crc32 (sliceBytes b 0 252) = leAt b 252 4 then
    some { slots := leAt b 5 1 % 16, magId := leAt b 8 16, rates := (List.range 4).map (fun i => leAt b (80 + 2 * i) 2) }
  else none

/-- A block with a MAGIC and the CRC of R328. -/
def validBlock (magic : Nat) (b : List Byte) : Bool :=
  decide (leAt b 0 4 = magic) && decide (crc32 (sliceBytes b 0 4092) = leAt b 4092 4)

/-- The fields of a valid superblock of version 2 (R328, R332). -/
def parseSuper (b : List Byte) : Option Super :=
  if validBlock 0x42534D50 b && decide (leAt b 4 2 = 2) then
    some { prot := leAt b 6 1, mask := leAt b 7 1 % 16, magId := leAt b 8 16, uuid := leAt b 24 16, partner := leAt b 40 16,
           slot := leAt b 56 1, side := leAt b 57 1, driveClaims := leAt b 120 4, setClaims := leAt b 124 4,
           members := (List.range 8).filterMap (fun i =>
             let o := 256 + 24 * i
             if leAt b (o + 2) 1 = 1 then some (leAt b o 1, leAt b (o + 1) 1, leAt b (o + 4) 20) else none) }
  else none

/-- A drive is a member of its superblock's set (R333). -/
def DriveSt.member (q : DriveSt) : Bool :=
  match q.super with
  | some x => x.members.contains (x.side, x.slot, q.serial)
  | none => false

/-- A slot is rejected with a reason (R287). -/
def State.rejectSlot (s : State) (d reason : Nat) : State :=
  s.setDrive d (fun q => { q with mode := .rejected, reason := reason })

/-- CONTENT of a bay (R289). -/
def State.contentOf (s : State) (b : Nat) : Nat :=
  let ready := (slotsOf b).filter (fun d => (s.drive d).mode = .ready)
  if ready.all (fun d => (s.drive d).super.isNone) then 1
  else if ready.any (fun d => decide (0 < (s.drive d).media.openSegs)) then 3 else 2

/-- Release of a bay that has nothing outstanding: queues deleted, drives held, released (R310 steps 3 and 4, R635). -/
def State.releaseBay (s : State) (b : Nat) : State :=
  let s := (slotsOf b).foldl (fun s d => if (s.drive d).mode = .ready then s.emit (.drive d 0 .deleteQueues 0 0 []) else s) s
  let t := (s.bay b).ticket
  let s := (s.holdBay b).setBay b (fun q => { q with released := true, releaseDue := false, ticket := none })
  ((s.bayEvt b 5).enterBay b .ready).completeOpt t stDone

/-- A bay in which every slot is resolved is READY or REJECTED (R289); a READY bay whose latch is open is released (R316). -/
def State.bayResolve (s : State) (b : Nat) : State :=
  let q := s.bay b
  let modes := (slotsOf b).map (fun d => (s.drive d).mode)
  if q.mode ≠ .identify ∨ modes.any (fun m => m = .link || m = .identify) then s
  else
    let ready := (slotsOf b).filter (fun d => (s.drive d).mode = .ready)
    let mixed := ready.any (fun d => match (s.drive d).super, q.idPage with
      | some x, some p => decide (x.magId ≠ p.magId)
      | _, _ => false)
    let reason := if q.idPage.isNone then 1 else if mixed then 2 else if ready.isEmpty then 3 else 0
    if reason = 0 then
      let s := s.setBay b (fun q => { q with content := s.contentOf b, breason := 0 })
      let s := (s.enterBay b .ready).bayEvt b 1
      if (s.bay b).eject then s.releaseBay b else s
    else
      let s := s.setBay b (fun q => { q with breason := reason, content := s.contentOf b })
      (s.enterBay b .rejected).bayEvt b 6

/-- 100 µs after t0 the drives leave PERST# and their links train; slots fitted with no drive read EMPTY (R288). -/
def State.bayTrain (s : State) (b : Nat) : State :=
  let q := s.bay b
  if q.mode = .inserting ∧ q.t0 + usClk 100 ≤ s.time.clk then
    let fitted := fun (d : Nat) => match q.idPage with
      | some p => p.slots.testBit (d % 4)
      | none => true
    ((slotsOf b).foldl (fun s d =>
      (s.emit (.pin "MB_PERST#" d true)).setDrive d (fun x => { mode := if fitted d then .link else .empty, outOfSet := x.outOfSet })) s).enterBay b
        .identify |>.bayResolve b
  else s

/-- Bring-up of a bay from t0 (R288): the identity page is read and the clocks start. -/
def State.bayStart (s : State) (b : Nat) (page : List Byte) : State :=
  let s := s.setBay b (fun q => { q with
    t0 := s.time.clk, released := false, content := 0, breason := 0, idPage := parseIdPage page, refused := false })
  (s.emit (.pin "MB_REFCLK" b true)).enterBay b .inserting

/-- MBb_PRSNT# has been low for 100 ms; `page` is what the identity EEPROM holds (R288, R635). -/
def State.bayInsert (s : State) (b : Nat) (page : List Byte) : State :=
  if (s.bay b).present then s
  else
    let s := s.setBay b (fun q => { q with present := true, page := page })
    if bit (s.act Reg.BAY_CTRL b) 0 then (s.bayEvt b 0).bayStart b page else s

def execBayInsert (b : Nat) (page : List Byte) (s : State) : Host.Outcome State Fault Refusal := s.go (fun s => s.bayInsert b page)

/-- A drive link finishes training: gen 4 or 5 and x1, x2 or x4, or the slot is rejected (R282, R288). -/
def State.driveLinkUp (s : State) (d gen width : Nat) : State :=
  let s := s.bayTrain (bayOf d)
  if (s.drive d).mode ≠ .link then s
  else if (gen = 4 ∨ gen = 5) ∧ (width = 1 ∨ width = 2 ∨ width = 4) then
    s.setDrive d (fun q => { q with mode := .identify, gen := gen, width := width })
  else (s.rejectSlot d 5).bayResolve (bayOf d)

def execDriveLinkUp (d gen width : Nat) (s : State) : Host.Outcome State Fault Refusal := s.go (fun s => s.driveLinkUp d gen width)

/-- CSTS.RDY: Identify and queue creation (R288). -/
def State.controllerReady (s : State) (d : Nat) : State :=
  if (s.drive d).mode = .identify ∧ !s.mag.cmds.any (fun c => decide (c.slot = d)) then
    s.issue d .identify .identify 0 0 0 [] else s

def execControllerReady (d : Nat) (s : State) : Host.Outcome State Fault Refusal := s.go (fun s => s.controllerReady d)

/-- What Identify found (R287). -/
def State.identified (s : State) (d : Nat) (r : DrvReply) : State :=
  let bad := if !r.lbaOk then 1 else if r.mdts < 1048576 then 2 else if r.queues < 4 then 3
    else if r.blocks < 16777216 then 4 else 0
  let s := s.setDrive d (fun q => { q with serial := r.serial, fua := r.vwc })
  if bad ≠ 0 then (s.rejectSlot d bad).bayResolve (bayOf d)
  else
    let rate := (((s.bay (bayOf d)).idPage.map (·.rates)).getD []).getD (d % 4) 0
    let s := (s.set64 Reg.MBS_BLOCKS_LO Reg.MBS_BLOCKS_HI d r.blocks).set64 Reg.MBS_WR_BYTES_LO Reg.MBS_WR_BYTES_HI d 0
    let s := s.setReg Reg.MBS_RATE d 0 (BitVec.ofNat 32 rate)
    let s := (s.emit (.drive d 0 .createQueues 0 0 [])).emit (.drive d 0 .logPage 0 0 [])
    s.issue d .superblock .read 0 1 4 []

/-- The superblock, journal and directory of a drive are read (R288, R289, R331). -/
def State.superRead (s : State) (d : Nat) (r : DrvReply) : State :=
  let sb := match parseSuper r.sb0 with
    | some x => some x
    | none => parseSuper r.sb1
  let s := s.setDrive d (fun q => { q with
    mode := .ready, reason := 0, super := sb,
    media := { journal := r.journal, dirs := r.dirs, nextClaim := r.nextClaim, openSegs := r.openSegs } })
  (if s.unitCode 7 d = 5 then s.changeUnit 7 d 2 else s).bayResolve (bayOf d)

/-- A slot unresolved 10 s after t0 (R288). -/
def State.identifyTimeout (s : State) (d : Nat) : State :=
  let s := s.bayTrain (bayOf d)
  let q := s.bay (bayOf d)
  let m := (s.drive d).mode
  if q.mode = .identify ∧ q.t0 + msClk 10000 ≤ s.time.clk ∧ (m = .link ∨ m = .identify) then
    ((s.setMag (fun m => { m with cmds := m.cmds.filter (fun c => decide (c.slot ≠ d)) })).rejectSlot d 6).bayResolve (bayOf d)
  else s

def execIdentifyTimeout (d : Nat) (s : State) : Host.Outcome State Fault Refusal := s.go (fun s => s.identifyTimeout d)

/-! ### Failure (R291, R311, R315) -/

/-- The sets of the active set's registers that use a slot, and the one a take uses now. -/
def setHasSlot (t : RegSet) (m slot : Nat) : Bool := (setDrives t m).contains slot
def State.slotUser (s : State) (slot : Nat) : Option Nat :=
  (List.range 8).find? (fun m => (s.mag.sets.get {} m).rig.isSome && setHasSlot s.magSet m slot)
def State.bayUser (s : State) (b : Nat) : Option Nat :=
  (List.range 8).find? (fun m => (s.mag.sets.get {} m).rig.isSome && (setDrives s.magSet m).any (fun d => decide (bayOf d = b)))

/-- Declare a drive FAILED: causes 1 timeout, 2 CFS, 3 link down, 4 command error, 5 read-only, 6 removal (R311). -/
def State.declareFailed (s : State) (d cause : Nat) : State :=
  let m := (s.drive d).mode
  if m ≠ .ready ∧ m ≠ .inUse then s
  else
    let hit := s.mag.cmds.filter (fun c => decide (c.slot = d))
    let s := s.setMag (fun m => { m with
      cmds := m.cmds.filter (fun c => decide (c.slot ≠ d)),
      jobs := m.jobs.map (fun j => if hit.any (fun c => decide (c.kind = .job j.id)) then { j with failed := true } else j) })
    let s := s.setDrive d (fun q => { q with mode := .failed, failDue := true, outOfSet := true })
    let s := ((s.setEvt Reg.MBS_EVENTS d 0).emit (.drive d 0 .reset 0 0 [])).emit (.pin "MB_PERST#" d false)
    let s := (s.unitFails 7 d (match cause with | 1 => 5 | 3 | 6 => 6 | _ => 7)).logEntry 0x50 (target 7 d) cause
    s.post 6 0x43 (target 7 d) [(16, 1, cause), (17, 1, (s.slotUser d).getD 0xF)]

/-- A bay whose working slots have all failed enters FAILED (R315). -/
def State.bayFailed (s : State) (b : Nat) : State :=
  let q := s.bay b
  let modes := (slotsOf b).map (fun d => (s.drive d).mode)
  if (q.mode = .ready ∨ q.mode = .inUse) ∧ modes.contains .failed ∧ !modes.contains .ready ∧ !modes.contains .inUse then
    (s.holdBay b).enterBay b .failed
  else s

/-- A command exceeds MB_CMD_TIMEOUT (R311). -/
def State.cmdTimeout (s : State) (d : Nat) : State :=
  let lim := msClk (s.act Reg.MB_CMD_TIMEOUT).toNat
  if s.mag.cmds.any (fun c => decide (c.slot = d) && decide (c.at_ + lim ≤ s.time.clk)) then
    (s.setEvt Reg.MBS_EVENTS d 2).declareFailed d 1
  else s

def execDriveCommandTimeout (d : Nat) (s : State) : Host.Outcome State Fault Refusal := s.go (fun s => s.cmdTimeout d)

/-- A drive link goes down while the magazine is present (R287, R311). -/
def State.driveLinkDown (s : State) (d : Nat) : State :=
  let m := (s.drive d).mode
  if !(s.bay (bayOf d)).present then s
  else if m = .ready ∨ m = .inUse then (s.setEvt Reg.MBS_EVENTS d 3).declareFailed d 3
  else if m = .identify then
    ((s.setMag (fun m => { m with cmds := m.cmds.filter (fun c => decide (c.slot ≠ d)) })).rejectSlot d 5).bayResolve (bayOf d)
  else s

def execDriveLinkDown (d : Nat) (s : State) : Host.Outcome State Fault Refusal := s.go (fun s => s.driveLinkDown d)

/-- CSTS.CFS (R311). -/
def execControllerFatalStatus (d : Nat) (s : State) : Host.Outcome State Fault Refusal := s.go (fun s => s.declareFailed d 2)

/-- The SMART / health log of a READY or IN_USE drive (R291). -/
def State.smartPoll (s : State) (d temp pct warn : Nat) : State :=
  let m := (s.drive d).mode
  if m ≠ .ready ∧ m ≠ .inUse then s
  else
    let new := (BitVec.ofNat 8 warn &&& ~~~ BitVec.ofNat 8 (s.drive d).warn).toNat
    let s := (s.emit (.drive d 0 .logPage 0 0 [])).setDrive d (fun q => { q with warn := warn % 256 })
    let s := (s.setReg Reg.MBS_TEMP d 0 (BitVec.ofNat 32 (temp % 65536))).setReg Reg.MBS_PCT_USED d 0 (BitVec.ofNat 32 (pct % 256))
    let s := if new &&& 0xF7 = 0 then s
      else (s.setEvt Reg.MBS_EVENTS d 4).post 6 0x45 (target 7 d) [(16, 1, warn), (17, 1, pct), (18, 2, temp)]
    if new.testBit 3 then s.declareFailed d 5 else s

def execSmartPoll (d temp pct warn : Nat) (s : State) : Host.Outcome State Fault Refusal := s.go (fun s => s.smartPoll d temp pct warn)

/-! ### Release of a CLOSING bay (R310) -/

/-- A CLOSING bay waits for its commands, flushes and shuts its drives down, and becomes released. -/
def State.bayRelease (s : State) (b : Nat) : State :=
  let q := s.bay b
  if q.mode ≠ .closing ∨ s.mag.cmds.any (fun c => decide (bayOf c.slot = b)) then s
  else if q.closingAt = 0 then
    (slotsOf b).foldl (fun s d => s.issue d .release .flush 0 0 4 []) (s.setBay b (fun q => { q with closingAt := 1 }))
  else
    let s := (slotsOf b).foldl (fun s d =>
      if (s.drive d).mode = .ready then s.emit (.drive d 0 .shutdown 0 0 []) else s) s
    (s.setBay b (fun q => { q with closingAt := 0 })).releaseBay b

def execBayRelease (b : Nat) (s : State) : Host.Outcome State Fault Refusal := s.go (fun s => s.bayRelease b)

/-- A bay passes to EMPTY: its commands are abandoned and its drives held (R314, R635). -/
def State.bayGone (s : State) (b : Nat) : State :=
  let s := (s.setMag (fun m => { m with cmds := m.cmds.filter (fun c => decide (bayOf c.slot ≠ b)) })).holdBay b
  let s := (slotsOf b).foldl (fun s d => s.setDrive d (fun q => { outOfSet := q.outOfSet })) s
  let t := (s.bay b).ticket
  let s := s.setBay b (fun q => { q with
    released := false, content := 0, breason := 0, idPage := none, refused := false, releaseDue := false, ticket := none,
    closingAt := 0 })
  (s.enterBay b .empty).completeOpt t stAborted

end Sys2Proof.Machine
end

