-- ==== Sys2Proof/Machine/Segments.lean ====
section
/-! DEFINITION. A segment on its set: where stream blocks lie, items, Writes, journal entries, directory blocks and manifests
(R293–R301, R327–R346, R504, R505). -/

namespace Sys2Proof.Machine

/-! ### Sets (R295, R296, R303, R346) -/

def setProt (t : RegSet) (m : Nat) : Nat := t.fld Reg.MSET_CTRL m 5 4
/-- DRIVE_MASK in ascending order. -/
def setSlots (t : RegSet) (m : Nat) : List Nat := setBits (t.fld Reg.MSET_CTRL m 19 16) 4
def setBays (t : RegSet) (m : Nat) : List Nat :=
  if setProt t m = 2 then [t.fld Reg.MSET_CTRL m 9 8, t.fld Reg.MSET_CTRL m 13 12] else [t.fld Reg.MSET_CTRL m 9 8]
/-- Data chunks of a claim (R334). -/
def setCpc (t : RegSet) (m : Nat) : Nat := if setProt t m = 1 then 24 else 8 * (setSlots t m).length
/-- Stream blocks of a claim. -/
def claimBlocks (t : RegSet) (m : Nat) : Nat := setCpc t m * 256

def SlotMode.works : SlotMode → Bool
  | .ready | .inUse => true
  | _ => false

/-- Drives that a set writes: working, and not returned during the take (R312, R314). -/
def State.setLive (s : State) (m : Nat) : List Nat :=
  (setDrives s.magSet m).filter (fun d => (s.drive d).mode.works && !(s.drive d).outOfSet)
/-- A drive of the set has failed and the effect on the set is still to come. -/
def State.setFailing (s : State) (m : Nat) : Bool := (setDrives s.magSet m).any (fun d => (s.drive d).failDue)
/-- The superblock of a set, from its first drive that has one. -/
def State.setSuper (s : State) (m : Nat) : Option Super := (setDrives s.magSet m).findSome? (fun d => (s.drive d).super)
def State.setUuid (s : State) (m : Nat) : Nat := ((s.setSuper m).map (·.uuid)).getD 0

def State.seg? (s : State) (id : Nat) : Option Seg := s.mag.segs.find? (fun g => decide (g.id = id))
def State.setSeg (s : State) (id : Nat) (f : Seg → Seg) : State :=
  s.setMag (fun m => { m with segs := m.segs.map (fun g => if g.id = id then f g else g) })
/-- The segment that is written on a set now. -/
def State.segOn (s : State) (m : Nat) : Option Seg :=
  s.mag.segs.find? (fun g => decide (g.set = m) && g.opened && decide (g.stage < 7))

/-- Journal entries used on a set, directory slots taken, and claims taken. -/
def State.setJournal (s : State) (m : Nat) : Nat := (s.setLive m).foldl (fun n d => max n (s.drive d).media.journal) 0
def State.setDirs (s : State) (m : Nat) : Nat := (s.setLive m).foldl (fun n d => max n (s.drive d).media.dirs) 0
def State.setUsed (s : State) (m : Nat) : Nat :=
  match s.segOn m with
  | some g => g.firstClaim + ceilDiv g.pos (claimBlocks s.magSet m)
  | none => (s.setLive m).foldl (fun n d => max n (s.drive d).media.nextClaim) 0
/-- MSET_CLAIMS (R296): the least DRIVE_CLAIMS that the superblocks give. -/
def State.setClaims (s : State) (m : Nat) : Nat :=
  match (setDrives s.magSet m).filterMap (fun d => (s.drive d).super.map (·.driveClaims)) with
  | [] => 0
  | x :: t => t.foldl min x
/-- No claim can be taken, however many remain (R346). -/
def State.setExhausted (s : State) (m : Nat) : Bool :=
  decide (262144 ≤ s.setJournal m + 1024) || decide (65536 ≤ s.setDirs m)
/-- MSET_FREE_CLAIMS. -/
def State.freeClaims (s : State) (m : Nat) : Nat := if s.setExhausted m then 0 else s.setClaims m - s.setUsed m
/-- Data bytes of a set that a take can still use (R307). -/
def State.freeData (s : State) (m : Nat) : Nat :=
  if s.setExhausted m then 0
  else
    let b := claimBlocks s.magSet m
    let tail := match s.segOn m with
      | some g => ceilDiv g.pos b * b - g.pos
      | none => 0
    (s.freeClaims m * b + tail) * 4096

/-- A take has reserved the set, or another set that shares a bay with it (R302). -/
def State.setBusy (s : State) (m : Nat) : Bool :=
  s.plan.resvs.any (fun r => r.until_.isNone && match r.act with
    | .record _ k | .offload _ k => (setBays s.magSet k).any (fun b => (setBays s.magSet m).contains b)
    | _ => false)

/-- The superblocks of a set's drives show its layout (R303, R333). -/
def State.formatted (s : State) (m : Nat) : Bool :=
  let t := s.magSet
  let uuid := s.setUuid m
  let bays := setBays t m
  let magId := fun (b : Nat) => ((s.bay b).idPage.map (·.magId)).getD 0
  (setDrives t m).all (fun d =>
    match (s.drive d).super with
    | none => false
    | some x =>
      let side := if bayOf d = bays.headD 0 then 0 else 1
      decide (x.prot = setProt t m) && decide (x.mask = t.fld Reg.MSET_CTRL m 19 16) && decide (x.slot = d % 4)
        && decide (x.side = side) && decide (x.uuid = uuid) && (s.drive d).member
        && (setProt t m ≠ 2 || decide (x.partner = magId (bays.getD (1 - side) 0))))

/-- A set is eligible (R303), for a take whose record rate asks for `bytes` data bytes; `bytes` 0 asks for a free claim. -/
def State.eligible (s : State) (m bytes : Nat) : Bool :=
  let t := s.magSet
  t.bit Reg.MSET_CTRL m 0
    && (setBays t m).all (fun b => (s.bay b).mode = .ready && decide ((s.bay b).content = 2) && !(s.bay b).released)
    && (setDrives t m).all (fun d => (s.drive d).mode = .ready && s.unitActive 7 d)
    && s.formatted m && !s.setBusy m
    && decide (0 < s.freeClaims m) && decide (bytes ≤ s.freeClaims m * claimBlocks t m * 4096)

/-! ### Where stream blocks lie (R298, R334) -/

/-- Chunk `q` of a stream, for a protection, the slots and the first claim: its slot, and its first logical block. -/
def chunkAt (prot : Nat) (slots : List Nat) (firstClaim q : Nat) : Nat × Nat :=
  let k := slots.length
  let cpc := if prot = 1 then 24 else 8 * k
  let claim := firstClaim + q / cpc
  let i := q % cpc
  let base := 395264 + claim * 2048
  if prot = 1 then
    let r := i / 3
    (([0, 1, 2, 3].filter (fun d => d ≠ 3 - r % 4)).getD (i % 3) 0, base + r * 256)
  else (slots.getD (i % k) 0, base + i / k * 256)
/-- The parity chunk of the row that starts at chunk `q`. -/
def parityAt (firstClaim q : Nat) : Nat × Nat :=
  (3 - q % 24 / 3 % 4, 395264 + (firstClaim + q / 24) * 2048 + q % 24 / 3 * 256)
def chunkPlace (t : RegSet) (m firstClaim q : Nat) : Nat × Nat := chunkAt (setProt t m) (setSlots t m) firstClaim q
/-- The drives that a slot of a set stands for. -/
def slotDrives (t : RegSet) (m d : Nat) : List Nat := (setBays t m).map (fun b => 4 * b + d)

/-! ### Writes (R293, R299) -/

/-- The activities whose reservations carry a segment's Writes. -/
def State.segActs (s : State) (g : Seg) : List Act :=
  if g.offload then [.offload g.rig g.set]
  else match s.take? g.take with
    | some t => t.streams.map (fun st => .record st g.set)
    | none => []

/-- Charge `n` bytes to the jobs of several activities on an instance, and what is left to their pending work. -/
def State.spendActs (s : State) (acts : List Act) (res inst n : Nat) : State :=
  let r := acts.foldl (fun (x : State × Nat) a =>
    let k := min x.2 (x.1.jobLeft a res inst)
    (x.1.useJob a res inst k, x.2 - k)) (s, n)
  (acts.foldl (fun (x : State × Nat) a =>
    let w := x.1.pendingWork a res inst
    let k := min x.2 w
    ((if k = 0 then x.1 else x.1.setWork a res inst (w - k)).usedWork res inst k, x.2 - k)) r).1

/-- How many of `n` blocks the jobs on a drive let a segment write; all of them when no work waits for a job there. -/
def State.granted (s : State) (g : Seg) (d n : Nat) : Nat :=
  let acts := s.segActs g
  let left := acts.foldl (fun k a => k + s.jobLeft a 5 d) 0
  if left + acts.foldl (fun k a => k + s.pendingWork a 5 d) 0 = 0 then n else min n (ceilDiv left 4096)

/-- A Write of stream data: queues 1 to 3 of the drive in turn. -/
def State.writeData (s : State) (g : Seg) (d lba lo hi : Nat) (data : List Byte) : State :=
  let q := (s.drive d).queue
  let s := s.issue d (.data g.id lo hi) (.write (s.drive d).fua) lba (data.length / 4096) q data
  let s := (s.setDrive d (fun x => { x with queue := q % 3 + 1 })).spendActs (s.segActs g) 5 d data.length
  s.spendActs (s.segActs g) 9 0 data.length

/-- The bytewise XOR of two strings. -/
def xorBytes : List Byte → List Byte → List Byte
  | a :: t, b :: u => (a ^^^ b) :: xorBytes t u
  | [], u => u
  | t, [] => t

/-- The parity chunk of a row of three chunks. -/
def rowParity (row : List Byte) : List Byte :=
  xorBytes (xorBytes (sliceBytes row 0 1048576) (sliceBytes row 1048576 1048576)) (sliceBytes row 2097152 1048576)

/-- The part of the present chunk that is not written: its first block, length, and the drives that take it. -/
def State.nextPiece (s : State) (g : Seg) : Nat × Nat × List Nat :=
  let n := min (256 - g.written % 256) (g.pos - g.written)
  let (slot, lba) := chunkPlace s.magSet g.set g.firstClaim (g.written / 256)
  (lba + g.written % 256, n, (slotDrives s.magSet g.set slot).filter (fun d => (s.setLive g.set).contains d))

/-- The parity chunk of a row that has just been written whole: its drive and first block. -/
def State.parityOf (s : State) (g : Seg) : List Nat × Nat :=
  let (slot, lba) := parityAt g.firstClaim (g.written / 256 - 3)
  ((slotDrives s.magSet g.set slot).filter (fun d => (s.setLive g.set).contains d), lba)

/-- The chunks that hold blocks `lo` to `hi` of a stream, with how many of those blocks each holds. -/
def chunkParts (lo hi : Nat) : List (Nat × Nat) :=
  (List.range (ceilDiv hi 256 - lo / 256)).map (fun i =>
    let q := lo / 256 + i
    (q, min hi (256 * q + 256) - max lo (256 * q)))

/-- The Writes of a segment's frame items below a position become work for the planner, on the drives they go to (R99,
R299); the last chunk of a PARITY row brings the parity chunk's. -/
def State.askTo (s : State) (id upTo : Nat) : State :=
  match s.seg? id with
  | none => s
  | some g =>
    let act := fun (st : Nat) => if g.offload then Act.offload g.rig g.set else .record st g.set
    let live := s.setLive g.set
    let par := setProt s.magSet g.set = 1
    let one := fun (s : State) (st : Nat) (x : Nat × Nat) =>
      let slot := (chunkPlace s.magSet g.set g.firstClaim x.1).1
      let ds := (slotDrives s.magSet g.set slot).filter (fun d => live.contains d)
      let ps := if par && decide (x.1 % 3 = 2) && decide (256 * x.1 + 256 ≤ upTo) then
          (slotDrives s.magSet g.set (parityAt g.firstClaim (x.1 - 2)).1).filter (fun d => live.contains d) else []
      let s := ds.foldl (fun (s : State) d => s.addWork (act st) 5 d (x.2 * 4096)) s
      (ps.foldl (fun (s : State) d => s.addWork (act st) 5 d 1048576) s).addWork (act st) 9 0 (x.2 * 4096)
    let s := g.unasked.foldl (fun (s : State) x =>
      (chunkParts (max x.2.1 g.written) (min x.2.2 upTo)).foldl (fun (s : State) y => one s x.1 y) s) s
    s.setSeg id (fun g => { g with unasked := (g.unasked.filter (fun x => decide (upTo < x.2.2))).map (fun x =>
      (x.1, max x.2.1 upTo, x.2.2)) })

/-- Write the next part of a segment's stream, as far as jobs allow, and the parity chunk of a row it fills; `force`
disregards jobs. -/
def State.writePiece (s : State) (id : Nat) (force : Bool) : Option State :=
  match s.seg? id with
  | none => none
  | some g =>
    let (lba, whole, ds) := s.nextPiece g
    let n := if force then whole else ds.foldl (fun n d => min n (s.granted g d whole)) whole
    let par := setProt s.magSet g.set = 1
    let fills := par && decide ((g.written + n) % 768 = 0)
    let data := sliceBytes g.tail 0 (n * 4096)
    let g' := { g with
      written := g.written + n, tail := g.tail.drop (n * 4096), row := if par then g.row ++ data else [],
      unasked := g.unasked.filter (fun x => decide (g.written + n < x.2.2)),
      ageTick := if n < whole then g.ageTick else s.time.tickNum }
    let (ps, plba) := if fills then s.parityOf g' else ([], 0)
    if n = 0 || !(ds ++ ps).all (fun d => decide (s.writesOut d < 56)) then none
    else
      let s := s.setSeg id (fun _ => if fills then { g' with row := [] } else g')
      let s := ds.foldl (fun s d => s.writeData g d lba g.written (g.written + n) data) s
      some (ps.foldl (fun s d => s.writeData g d plba (g'.written - 768) g'.written
        (rowParity g'.row)) s)

/-- Write as much as the drives accept. -/
def State.writeAll (s : State) (id : Nat) : Nat → State
  | 0 => s
  | fuel + 1 =>
    match s.writePiece id true with
    | some s' => s'.writeAll id fuel
    | none => s

/-- Every byte of a segment's stream below a position is written, with the parity of its rows, and no Write is out. -/
def State.writtenTo (s : State) (g : Seg) (upTo : Nat) : Bool :=
  let e := if setProt s.magSet g.set = 1 then roundUp upTo 768 else upTo
  decide (e ≤ g.written) && !s.mag.cmds.any (fun c =>
    match c.kind with
    | .data k lo _ => decide (k = g.id) && decide (lo < e)
    | _ => false)
/-- A placed frame's Writes have all completed (R301). -/
def State.frameWritten (s : State) (g : Seg) (p : Placed) : Bool :=
  let par := setProt s.magSet g.set = 1
  let lo := if par then p.pos / 768 * 768 else p.pos
  let hi := if par then roundUp (p.pos + p.blocks) 768 else p.pos + p.blocks
  decide (hi ≤ g.written) && !s.mag.cmds.any (fun c =>
    match c.kind with
    | .data k a b => decide (k = g.id) && decide (a < hi) && decide (lo < b)
    | _ => false)

/-! ### Items (R335–R338) -/

/-- 4,092 bytes of fields and the CRC of R328. -/
def pmfBlock (fs : List (Nat × List Byte)) : List Byte :=
  let b := layout 4092 fs
  b ++ leBytes 4 (crc32 b)

/-- Append whole blocks to a segment's stream. -/
def State.append (s : State) (id : Nat) (data : List Byte) : State :=
  s.setSeg id (fun g => { g with
    pos := g.pos + data.length / 4096, tail := g.tail ++ data,
    ageTick := if g.tail.isEmpty then s.time.tickNum else g.ageTick })

def State.takeIdNum (s : State) (tid : Nat) : Nat := ((s.take? tid).map (·.idNum)).getD 0

/-- The index entry flags of a status word (R336). -/
def indexFlags (status : Word) : Nat :=
  b2n (bit status 0 || bit status 1 || bit status 2 || bit status 3 || bit status 10)
    + 2 * b2n (bit status 4 || bit status 5) + 4 * b2n (bit status 6) + 8 * b2n (bit status 7)

/-- A frame index block of the frames placed since the previous one. -/
def State.appendIndex (s : State) (id : Nat) : State :=
  match s.seg? id with
  | none => s
  | some g =>
    if g.sinceIndex.isEmpty then s
    else
      let prev := g.lastIndex.getD 0xFFFFFFFFFFFFFFFF
      let b := pmfBlock ([(0, leBytes 4 0x58494650), (4, leBytes 2 g.sinceIndex.length),
        (8, leBytes 16 (s.takeIdNum g.take)), (24, leBytes 4 g.number ++ leBytes 4 g.indexNo ++ leBytes 8 prev)]
        ++ g.sinceIndex.zipIdx.map (fun e => (64 + 14 * e.2,
          leBytes 5 e.1.pos ++ leBytes 3 e.1.blocks ++ leBytes 4 e.1.frame ++ leBytes 1 e.1.stream ++ leBytes 1 e.1.flags)))
      let s := s.setSeg id (fun g => { g with lastIndex := some g.pos, indexNo := g.indexNo + 1, sinceIndex := [] })
      s.append id b

/-- A pad run to the end of the row, in PARITY (R337). -/
def State.appendPad (s : State) (id : Nat) : State :=
  match s.seg? id with
  | none => s
  | some g =>
    if setProt s.magSet g.set = 1 ∧ g.pos % 768 ≠ 0 then
      let n := 768 - g.pos % 768
      s.append id (pmfBlock [(0, leBytes 4 0x44415050), (4, leBytes 4 n), (8, leBytes 16 (s.takeIdNum g.take)),
        (24, leBytes 4 g.number)] ++ List.replicate ((n - 1) * 4096) 0)
    else s

/-! ### Journal and directory (R340–R345) -/

/-- Last frame and chain value of a stream of the take, among the frames placed below a position (R341). -/
def Seg.lastOf (g : Seg) (st pos : Nat) : Nat × List Byte :=
  match (g.placed.filter (fun p => decide (p.stream = st) && decide (p.pos < pos))).getLast? with
  | some p => (p.frame, p.chain)
  | none => match g.lastIn.get 0 st with
    | 0 => (0xFFFFFFFF, List.replicate 48 0)
    | n + 1 => (n, g.chainIn.get [] st)

/-- Where a segment's stream ends for its closing entry (R339, R345). -/
def Seg.streamEnd (g : Seg) : Nat :=
  match g.endKind with
  | 3 => g.ckptPos
  | 4 => (g.placed.find? (fun p => decide (p.frame = g.endFrame) && decide (p.stream = g.endStream))).elim 0
      (fun p => p.pos + p.blocks)
  | _ => g.pos

/-- Write a journal entry at the same block of every working member. -/
def State.journal (s : State) (id kind pos : Nat) : State :=
  match s.seg? id with
  | none => s
  | some g =>
    let ds := s.setLive g.set
    let seq := s.setJournal g.set
    let sts := ((s.take? g.take).map (·.streams)).getD []
    let close := decide (kind = 4)
    let upTo := if close then g.pos else pos
    let b := pmfBlock ([(0, leBytes 4 0x4C4E4A50), (4, leBytes 8 seq), (12, leBytes 1 kind),
      (13, leBytes 1 (if close then g.endKind else 0)), (16, leBytes 16 g.uuid),
      (32, leBytes 16 (s.takeIdNum g.take)),
      (48, leBytes 4 g.number ++ leBytes 4 g.dirSlot ++ leBytes 4 g.firstClaim ++ leBytes 8 pos
        ++ leBytes 8 (g.lastIndex.getD 0xFFFFFFFFFFFFFFFF) ++ leBytes 4 (if close then g.endFrame else 0)
        ++ leBytes 1 (if close && decide (g.endKind = 4) then g.endStream else 0xFF) ++ leBytes 1 sts.length),
      (84, leBytes 4 (g.placed.filter (fun p => decide (p.pos < upTo))).length ++ leBytes 8 s.time.tickNum ++ leBytes 8 s.linear)]
      ++ sts.zipIdx.map (fun e =>
        let q := g.lastOf e.1 upTo
        (128 + 56 * e.2, leBytes 1 e.1 ++ List.replicate 3 0 ++ leBytes 4 q.1 ++ q.2)))
    ds.foldl (fun s d => (s.writeMeta d (.meta_ id) (16 + seq) b).setDrive d (fun x => { x with
      media := { x.media with journal := seq + 1 } })) s

/-- Frames that a segment contributes. -/
def Seg.contributes (g : Seg) : List Placed :=
  match g.endKind with
  | 3 => g.placed.filter (fun p => decide (p.frame < g.endFrame))
  | 4 => g.placed.filter (fun p => decide (p.pos < g.streamEnd))
  | _ => g.placed

/-- A segment with the frames it contributes alone. -/
def Seg.kept (g : Seg) : Seg := { g with placed := g.contributes }

/-- Write one block of a segment's directory slot (R343, R344). -/
def State.dirBlock (s : State) (id : Nat) (close : Bool) : State :=
  match s.seg? id with
  | none => s
  | some g =>
    let sts := ((s.take? g.take).map (·.streams)).getD []
    let e := g.streamEnd
    let none64 := 0xFFFFFFFFFFFFFFFF
    let n := ceilDiv e (claimBlocks s.magSet g.set)
    let cl := fun (w x : Nat) => leBytes w (if close then x else 0)
    let first := (g.placed.head?.map (·.frame)).getD g.from_
    let b := pmfBlock [(0, leBytes 4 0x52494450), (4, leBytes 1 (if close then 2 else 1)),
      (5, cl 1 g.endKind ++ leBytes 1 (b2n g.offload + 2 * b2n (close && g.last)) ++ leBytes 1 g.rig),
      (8, leBytes 16 (s.takeIdNum g.take) ++ leBytes 4 g.number ++ leBytes 4 g.firstClaim ++ cl 4 n ++ leBytes 4 first
        ++ cl 4 g.endFrame ++ cl 8 e ++ cl 8 (g.lastIndex.getD none64) ++ cl 8 (g.manPos.getD none64)
        ++ cl 8 (g.takePos.getD none64) ++ leBytes 8 (if close then s.linear else g.openTime)
        ++ cl 4 g.contributes.length),
      (96, leBytes 16 g.prevSet ++ cl 16 (if g.endKind = 2 ∨ g.endKind = 3 then g.nextSet else 0)),
      (128, sliceBytes (sts.flatMap (fun st => leBytes 1 st) ++ List.replicate (64 - sts.length) 0xFF) 0 64)]
    let s := (s.setLive g.set).foldl (fun s d =>
      s.writeMeta d (.meta_ id) (262160 + 2 * g.dirSlot + b2n close) b) s
    if close then
      (s.setLive g.set).foldl (fun s d => s.setDrive d (fun x => { x with
        media := { x.media with nextClaim := max x.media.nextClaim (g.firstClaim + n) } })) s
    else s

/-- Flush every working drive of a segment's set. -/
def State.flushSet (s : State) (id : Nat) : State :=
  match s.seg? id with
  | none => s
  | some g => (s.setLive g.set).foldl (fun s d => s.issue d (.meta_ id) .flush 0 0 4 []) s

/-! ### Manifests (R338, R504, R505) -/

/-- What the stream entries of a manifest say of a stream: first, last, frames, CHAIN_IN, CHAIN_OUT. -/
def streamEntry (st : Nat) (ps : List Placed) (chainIn : List Byte) : List Byte :=
  let mine := ps.filter (fun p => decide (p.stream = st))
  let none32 := 0xFFFFFFFF
  layout 112 [(0, leBytes 1 st), (4, leBytes 4 ((mine.head?.map (·.frame)).getD none32)
    ++ leBytes 4 ((mine.getLast?.map (·.frame)).getD none32) ++ leBytes 4 mine.length ++ chainIn
    ++ (mine.getLast?.map (·.chain)).getD chainIn)]

/-- A manifest's content without its signature. -/
def State.manifestBody (s : State) (g : Seg) (t : Take) (takeKind : Bool) (ps : List Placed) (chains : Nat → List Byte)
    (table : List Byte) : List Byte :=
  let dik := s.sec.dik.getD []
  let lo := ps.foldl (fun n p => min n p.frame) 0xFFFFFFFF
  let hi := ps.foldl (fun n p => max n p.frame) 0
  let (lo, hi) := if takeKind then (t.first, t.last.getD hi) else (lo, hi)
  layout 256 [(0, leBytes 4 (if takeKind then 0x464D5450 else 0x464D5350)), (4, leBytes 2 2 ++ leBytes 1 t.streams.length
      ++ leBytes 1 (if takeKind then t.rig else g.endKind) ++ leBytes 16 t.idNum
      ++ leBytes 4 (if takeKind then g.number + 1 else g.number) ++ leBytes 16 g.uuid ++ leBytes 4 lo ++ leBytes 4 hi
      ++ leBytes 4 (if takeKind then b2n t.burst else ps.length) ++ leBytes 8 g.openTime ++ leBytes 8 s.linear
      ++ sha384 (beBytes 96 (Config.ecPublic dik).toNat)),
    (120, t.wrapped ++ List.replicate (40 - t.wrapped.length) 0 ++ t.owkId)]
    ++ t.streams.flatMap (fun st => streamEntry st ps (chains st)) ++ table

/-- Sign a content with DIK; the signature's nonce is a free value. -/
def State.signed (s : State) (body : List Byte) : List Byte :=
  body ++ beBytes 96 (Config.ecdsaSign (s.sec.dik.getD []) (sha384 body)).toNat

/-- Append a manifest item (R335, R338). -/
def State.appendManifest (s : State) (id kind : Nat) (content : List Byte) : State :=
  match s.seg? id with
  | none => s
  | some g =>
    let n := ceilDiv content.length 4096
    s.append id (pmfBlock [(0, leBytes 4 0x4E414D50), (4, leBytes 1 kind), (8, leBytes 4 content.length),
      (16, leBytes 16 (s.takeIdNum g.take) ++ leBytes 4 g.number)] ++ sliceBytes content 0 (n * 4096))

/-- The segment manifest, and with LAST the take manifest, each with the pad runs of R339. -/
def State.manifests (s : State) (id : Nat) : State :=
  match s.seg? id with
  | none => s
  | some g =>
    match s.take? g.take with
    | none => s
    | some t =>
      let zero := List.replicate 48 0
      let chains := fun (st : Nat) => match g.chainIn.get [] st with
        | [] => zero
        | c => c
      let c1 := s.signed (s.manifestBody g t false g.placed chains [])
      let s := s.setSeg id (fun q => { q with manPos := some q.pos, manDigest := sha384 c1 })
      let s := s.appendManifest id 1 c1
      let s :=
        if g.last then
          let segs := s.mag.segs.filter (fun q => decide (q.take = g.take))
          let row := fun (i : Nat) => match segs.find? (fun q => decide (q.number = i)) with
            | some q => layout 80 [(0, leBytes 4 i ++ leBytes 1 q.endKind), (8, leBytes 16 q.uuid ++
                (if q.manDigest = [] then zero else q.manDigest))]
            | none => layout 80 [(0, leBytes 4 i)]
          let all := segs.flatMap (fun q => q.contributes)
          let c2 := s.signed (s.manifestBody g t true all (fun _ => zero) ((List.range (g.number + 1)).flatMap row))
          (s.setSeg id (fun q => { q with takePos := some q.pos })).appendManifest id 2 c2
        else s
      s.appendPad id

end Sys2Proof.Machine
end

