-- ==== Sys2Proof/Machine/Recording.lean ====
section
/-! DEFINITION. Recording: placement, checkpoints, the end of segments and takes, relays, drive loss, removal and the latch
(R297–R322, R345). -/

namespace Sys2Proof.Machine

def State.rec_ (s : State) (tid : Nat) : RecSt := s.mag.recs.get {} tid
def State.setRec (s : State) (tid : Nat) (f : RecSt → RecSt) : State := s.setMag (fun m => { m with recs := m.recs.upd {} tid f })
/-- The takes of a rig that the magazine engine works for, oldest first. -/
def State.recTakes (s : State) (r : Nat) : List Take :=
  s.takes.takes.filter (fun t => decide (t.rig = r) && !t.closed && (s.mag.recs.any (fun e => decide (e.1 = t.id))))

/-- The frame waits for the magazine engine: it holds its record holder, or in an offload its burst holder (R301, R322). -/
def RecSt.owes (q : RecSt) (tid : Nat) (f : FrameSt) : Bool :=
  f.live && decide (f.take = some tid) && (if q.offload then f.hold.burst && !f.offMag else f.hold.record)

/-! ### Segments (R304) -/

/-- A take enters a segment on a set. -/
def State.enterSeg (s : State) (tid set : Nat) (entry : Option Nat) (from_ prev : Nat) : State :=
  let q := s.rec_ tid
  let g : Seg := { id := s.mag.nextSeg, take := tid, rig := q.rig, number := q.nextSeg, set := set, offload := q.offload,
                   from_ := from_, prevSet := prev }
  (s.setMag (fun m => { m with segs := m.segs ++ [g], nextSeg := m.nextSeg + 1 })).setRec tid (fun q => { q with
    set := some set, entry := entry, seg := some g.id, nextSeg := q.nextSeg + 1, segFirst := from_, fullPosted := false })

/-- Open a segment on the media for its first frame: journal, directory, bays IN_USE (R304, R342, R343). -/
def State.openSeg (s : State) (id : Nat) : State :=
  match s.seg? id with
  | none => s
  | some g =>
    let t := s.magSet
    let m := g.set
    let sts := ((s.take? g.take).map (·.streams)).getD []
    let prior := (s.mag.segs.filter (fun q => decide (q.take = g.take) && decide (q.number < g.number) && q.opened)).getLast?
    let s := (setDrives t m).foldl (fun s d => s.setDrive d (fun x => { x with
      outOfSet := false, mode := if x.mode = .ready then .inUse else x.mode })) s
    let first := s.setUsed m
    let dir := s.setDirs m
    let s := s.setSeg id (fun g => { g with
      opened := true, openTime := s.linear, firstClaim := first, dirSlot := dir, uuid := s.setUuid m,
      ckptTick := s.time.tickNum,
      lastIn := match prior with
        | some p => sts.foldl (fun l st => let x := (p.kept.lastOf st p.pos).1
            if x = 0xFFFFFFFF then l else Tab.put 0 l st (x + 1)) []
        | none => [],
      chainIn := match prior with
        | some p => sts.foldl (fun l st => let x := p.kept.lastOf st p.pos
            if x.1 = 0xFFFFFFFF then l else Tab.put [] l st x.2) []
        | none => [] })
    let s := s.setMag (fun q => { q with sets := q.sets.upd {} m (fun x => { x with rig := some g.rig, ctrl := some (t.val Reg.MSET_CTRL m) }) })
    let s := (setBays t m).foldl (fun s b => s.enterBay b .inUse) s
    let s := (s.journal id 2 0).dirBlock id false
    (s.setLive m).foldl (fun s d => s.setDrive d (fun x => { x with media := { x.media with dirs := dir + 1 } })) s

/-! ### The written frames release their holders (R260, R301) -/

/-- In OFFLOAD, a burst frame that has reached every destination releases its burst holder. -/
def State.burstSweep (s : State) (r : Nat) : State :=
  if s.rigMode r ≠ .offload then s
  else
    let set := s.actF Reg.RREC_OFFLOAD r 19 16
    (s.store.frames.filter (fun f => decide (f.rig = r) && f.live && f.hold.burst && (f.offMag || decide (set = 0xF))
      && f.hold.subs.all (fun k => s.subLossy k))).foldl (fun s f => s.releaseIf f.id 4) s

/-- The frame is triggered, or a candidate whose FRAME_START can still come within FS_WINDOW (R186). -/
def State.unopened (s : State) (f : FrameSt) : Bool :=
  f.phase = .triggered ||
    (f.phase = .candidate && decide (s.now16 ≤ f.t0 + s.actF Reg.ST_FS_WINDOW f.stream 31 0 * 65536000))

/-- The lowest frame number of a take that is not wholly written yet; none when no frame is left. -/
def State.firstUnwritten (s : State) (t : Take) : Option Nat :=
  let q := s.rec_ t.id
  let waits := s.store.frames.filter (fun f =>
    (q.owes t.id f && !s.mag.segs.any (fun g => decide (g.take = t.id) && decide (g.endKind ≠ 3)
        && g.placed.any (fun p => decide (p.id = f.id) && s.frameWritten g p)))
      || (decide (f.rig = t.rig) && s.unopened f && decide (f.run = (s.run t.rig).run) && t.streams.contains f.stream
        && decide (t.first ≤ f.frame) && (match t.last with | some n => decide (f.frame ≤ n) | none => true)))
  match waits with
  | [] => none
  | f :: l => some (l.foldl (fun n g => min n g.frame) f.frame)

/-- Release the record holders of every frame number all of whose frames, and all lower ones, are written. -/
def State.releaseWritten (s : State) (tid : Nat) : State :=
  match s.take? tid with
  | none => s
  | some t =>
    let q := s.rec_ tid
    if s.mag.segs.any (fun g => decide (g.take = tid) && decide (g.stage < 8) && s.setFailing g.set) then s
    else
      let lim := s.firstUnwritten t
      let due := s.store.frames.filter (fun f => q.owes tid f && (match lim with
        | some n => decide (f.frame < n)
        | none => true))
      let s := due.foldl (fun s f =>
        if q.offload then s.setFrame f.id (fun f => { f with offMag := true }) else s.releaseIf f.id 2) s
      let top := due.foldl (fun n f => max n f.frame) q.lastWritten
      let s := if due.isEmpty then s else s.setRec tid (fun q => { q with lastWritten := top })
      if q.offload then s.burstSweep t.rig else s

/-! ### Choosing a set (R303, R307, R308) -/

/-- Bytes a tick that a take writes on a set. -/
def State.takeRate (s : State) (t : Take) (offload : Bool) : Nat :=
  if offload then mbRate s.activeSet (s.actF Reg.RREC_OFFLOAD t.rig 15 0)
  else t.streams.foldl (fun n st => n + rateTerm s.activeSet t.rig (magBytes s.activeSet st)) 0
/-- Data bytes of `k` × FULL_LEAD_S seconds of it. -/
def State.leadBytes (s : State) (r q k : Nat) : Nat := ceilDiv (k * s.actF Reg.RREC_CTRL r 15 8 * q * 1000000000) s.period
def recActs (t : Take) (offload : Bool) (m : Nat) : List (Act × Cls) :=
  if offload then [(.offload t.rig m, .e)] else t.streams.map (fun st => (.record st m, .b))

/-- A refusal of a relay: RESOURCE, INSTANCE, and the payload of R95. -/
abbrev RelayRefusal := Nat × Nat × List (Nat × Nat × Nat)

/-- Try the entries of RREC_CTRL in order after `after`, or all of them. -/
def State.tryEntries (s : State) (t : Take) (offload : Bool) (cur : Option Nat) :
    List Nat → Option RelayRefusal → Option RelayRefusal → Except RelayRefusal (Nat × Nat × List Resv)
  | [], tried, skipped => .error (match tried, skipped with
    | some x, _ => x
    | none, some x => x
    | none, none => (0, 0xFFFF, [(17, 2, 0xFFFF)]))
  | e :: rest, tried, skipped =>
    let m := s.actF Reg.RREC_CTRL t.rig (19 + 4 * e) (16 + 4 * e)
    if 8 ≤ m ∨ some m = cur then s.tryEntries t offload cur rest tried skipped
    else if !s.eligible m (s.leadBytes t.rig (s.takeRate t offload) 2) then
      let low := (setDrives s.magSet m).headD (4 * s.magSet.fld Reg.MSET_CTRL m 9 8)
      s.tryEntries t offload cur rest tried (skipped.orElse (fun _ => some (5, low, [(16, 1, 5), (17, 2, low), (29, 2, 0x20)])))
    else
      match s.admission (recActs t offload m) with
      | (new, none) => .ok (m, e, new)
      | (_, some (x, mask)) => s.tryEntries t offload cur rest (some (x.1, x.2.1, refusal x mask)) skipped

def State.chooseSet (s : State) (t : Take) (q : RecSt) : Except RelayRefusal (Nat × Nat × List Resv) :=
  s.tryEntries t q.offload q.set (match q.entry with
    | some e => [(e + 1) % 4, (e + 2) % 4, (e + 3) % 4]
    | none => [0, 1, 2, 3]) none none

/-! ### Planned relays (R307–R309, R317) -/

/-- A planned relay can start for a take: it records, none is pending, and its end has not passed. -/
def State.canRelay (s : State) (t : Take) : Bool :=
  let q := s.rec_ t.id
  s.mag.recs.any (fun e => decide (e.1 = t.id)) && !q.closed && q.relay.isNone && q.emerg.isNone && q.gaveUp.isNone && (q.offload || t.last.isNone)

/-- Start a planned relay, or answer the refusal. -/
def State.startRelay (s : State) (t : Take) (reason : Nat) (ticket : Option Ticket) : Except RelayRefusal State :=
  match s.chooseSet t (s.rec_ t.id) with
  | .error e => .error e
  | .ok (m, e, new) =>
    let b := s.time.tickNum + 2
    .ok ((s.addResvs new b).setRec t.id (fun q => { q with
      relay := some { reason := reason, set := m, entry := e, tick := b, ticket := ticket } }))

def State.relayFailed (s : State) (r reason : Nat) (e : RelayRefusal) : State :=
  s.post 6 0x41 (target 1 r) [(16, 1, reason), (17, 1, e.1), (18, 2, e.2.1)]

/-- A pending planned relay is cancelled (R317). -/
def State.cancelRelay (s : State) (tid : Nat) : State :=
  match (s.rec_ tid).relay, s.take? tid with
  | some x, some t =>
    let acts := (recActs t (s.rec_ tid).offload x.set).map (·.1)
    ((s.setRec tid (fun q => { q with relay := none })).dropResvs (fun a => acts.contains a)).completeOpt x.ticket stWrongState
      (s.wrongState (some t.rig)).2
  | _, _ => s

def State.postRelay (s : State) (r reason old new first seg : Nat) : State :=
  s.post 6 0x40 (target 1 r) [(16, 1, reason), (17, 1, old), (18, 1, new), (20, 4, first), (24, 4, seg)]

/-- The end of a rig's take is due at this boundary. -/
def State.takeEndDue (s : State) (r : Nat) : Bool :=
  s.dev.bound.any (fun b => decide (b.tick ≤ s.time.tickNum) && (match b.kind with
    | .rig k (.command 0x15) _ _ _ _ _ | .rig k (.takeEnd _) _ _ _ _ _ => decide (k = r)
    | _ => false))

/-- The relay boundary B of a rig's take, which a take end at B cancels (R317): frames that expose from B on belong to the new segment (R309). -/
def State.relayBoundary (s : State) (r : Nat) : State :=
  (s.recTakes r).foldl (fun s t =>
    let q := s.rec_ t.id
    match q.relay with
    | none => s
    | some x =>
      if s.time.tickNum < x.tick ∨ (!q.offload && s.takeEndDue r) then s
      else
        let n := s.firstAt r (s.time.tickStart / 2 ^ 32 : Nat)
        let old := q.set.getD 0xF
        let uuid := s.setUuid x.set
        let prev := s.setUuid old
        let s := match q.seg with
          | some id => s.setSeg id (fun g => { g with below := some n, nextSet := uuid })
          | none => s
        let s := (s.setRec t.id (fun q => { q with relay := none })).enterSeg t.id x.set (some x.entry) n prev
        (s.completeOpt x.ticket stDone [(16, 1, x.set)]).postRelay r x.reason old x.set n (s.rec_ t.id |>.nextSeg |> (· - 1))) s

def execRelayBoundary (r : Nat) (s : State) : Host.Outcome State Fault Refusal := s.go (fun s => s.relayBoundary r)

/-! ### The end of a segment (R300, R305, R309, R339, R342) -/

/-- The segment has ended: SEGMENT_CLOSED, and the rest at the next boundary. -/
def State.segDone (s : State) (g : Seg) : State :=
  let s := s.setSeg g.id (fun g => { g with stage := 7, endTick := s.time.tickNum + 1 })
  let s := if g.endKind = 2 then s.count Reg.MB_RELAY_CNT else s
  s.post 6 0x42 (target 6 g.set) [(16, 1, g.endKind), (17, 1, g.rig), (20, 4, g.number), (24, 4, g.contributes.length)]

/-- Carry a checkpoint or the end of a segment as far as the outstanding commands let it. -/
def State.segAdvance (s : State) (id : Nat) : Nat → State
  | 0 => s
  | fuel + 1 =>
    match s.seg? id with
    | none => s
    | some g =>
      let s := if (g.ckpt = 1 ∨ g.stage = 1 ∨ g.stage = 4) ∧ s.dev.mode = .operational ∧ !s.setFailing g.set then
        s.writeAll id 4096 else s
      let g := (s.seg? id).getD g
      let busy := s.mag.cmds.any (fun c => decide (c.kind = .meta_ id))
      if g.ckpt = 1 ∧ s.writtenTo g g.ckptTo then
        ((s.journal id 3 g.ckptTo).setSeg id (fun g => { g with ckpt := 2 })).segAdvance id fuel
      else if g.ckpt = 2 ∧ !busy then
        ((s.flushSet id).setSeg id (fun g => { g with ckpt := 3, ckptPos := g.ckptTo })).segAdvance id fuel
      else if g.ckpt = 3 ∧ !busy then
        (s.setSeg id (fun g => { g with ckpt := 0 })).segAdvance id fuel
      else if g.ckpt ≠ 0 then s
      else match g.stage with
        | 1 => if s.writtenTo g g.pos then
            ((s.journal id 3 g.pos).setSeg id (fun g => { g with stage := 2, ckptTo := g.pos })).segAdvance id fuel else s
        | 2 => if busy then s
            else ((s.flushSet id).setSeg id (fun g => { g with stage := 3, ckptPos := g.ckptTo })).segAdvance id fuel
        | 3 => if busy then s else ((s.manifests id).setSeg id (fun g => { g with stage := 4 })).segAdvance id fuel
        | 4 =>
          if g.endKind = 3 ∨ g.endKind = 4 ∨ s.writtenTo g g.pos then
            (((s.journal id 4 g.streamEnd).dirBlock id true).setSeg id (fun g => { g with stage := 5 })).segAdvance id fuel
          else s
        | 5 => if busy then s
            else if g.endKind = 3 then s.segDone g
            else ((s.flushSet id).setSeg id (fun g => { g with stage := 6 })).segAdvance id fuel
        | 6 => if busy then s else s.segDone g
        | _ => s

/-- The end of a segment of normal kind begins: last index block, pad run, last data (R305, R339). -/
def State.segEnd (s : State) (id kind : Nat) (last : Bool) : State :=
  match s.seg? id with
  | none => s
  | some g =>
    if !g.opened then
      s.setSeg id (fun g => { g with stage := 7, endTick := s.time.tickNum + 1, endKind := kind, last := last })
    else
      let e := (g.placed.getLast?.map (·.frame)).getD 0
      let s := s.setSeg id (fun g => { g with endKind := kind, endFrame := e, last := last, stage := 1 })
      ((s.appendIndex id).appendPad id).segAdvance id 16

/-- The old segment of a relay ends once every frame below its bound is written (R309). -/
def State.segmentClose (s : State) (m : Nat) : State :=
  match s.mag.segs.find? (fun g => decide (g.set = m) && decide (g.stage = 0) && g.below.isSome) with
  | none => s
  | some g =>
    match s.take? g.take with
    | none => s
    | some t =>
      let q := s.rec_ g.take
      let waits := s.store.frames.any (fun f => q.owes g.take f && decide (f.frame < g.below.getD 0))
        || (match s.firstUnwritten t with | some n => decide (n < g.below.getD 0) | none => false)
      if waits ∨ g.ckpt ≠ 0 ∨ s.dev.mode ≠ .operational ∨ s.setFailing m then s else s.segEnd g.id 2 false

def execSegmentClose (m : Nat) (s : State) : Host.Outcome State Fault Refusal := s.go (fun s => s.segmentClose m)

/-- Release the oldest reservation of an activity. -/
def State.dropFirst (s : State) (a : Act) : State :=
  s.setPlan (fun p => { p with resvs := p.resvs.takeWhile (fun r => decide (r.act ≠ a))
    ++ (p.resvs.dropWhile (fun r => decide (r.act ≠ a))).drop 1 })

/-- The take closes: TAKE_CLOSED (R305). -/
def State.takeDone (s : State) (t : Take) : State :=
  let n := (s.rec_ t.id).nextSeg
  let s := s.setTake t.id (fun t => { t with closed := true, segments := n })
  let s := t.streams.foldl (fun s st => s.dropFirst (.seal st)) s
  let s := s.setMag (fun m => { m with segs := m.segs.filter (fun g => decide (g.take ≠ t.id)) })
  s.post 1 0x11 (target 1 t.rig) [(16, 4, t.seq), (20, 4, t.last.getD 0), (24, 4, n)]

/-- A take has ended and every frame of it is written or given up: its last segment closes (R305). -/
def State.takeClose (s : State) (r : Nat) : State :=
  match (s.recTakes r).find? (fun t => t.last.isSome && !(s.rec_ t.id).closed) with
  | none => s
  | some t =>
    let q := s.rec_ t.id
    let more := (s.timer r).running && decide ((s.timer r).next ≤ t.last.getD 0) && decide (s.rigMode r ≠ .idle)
    let held := s.store.frames.any (fun f => q.owes t.id f)
    let segs := s.mag.segs.filter (fun g => decide (g.take = t.id))
    let older := segs.any (fun g => decide (g.stage < 7) && decide (some g.id ≠ q.seg))
    let ckpt := segs.any (fun g => decide (g.ckpt ≠ 0))
    if more ∨ held ∨ (s.firstUnwritten t).isSome ∨ older ∨ ckpt ∨ q.relay.isSome ∨ q.emerg.isSome ∨
        segs.any (fun g => s.setFailing g.set) ∨ s.dev.mode ≠ .operational then s
    else
      let s := s.setRec t.id (fun q => { q with closed := true })
      match q.seg with
      | some id => s.segEnd id 1 true
      | none => s

def execTakeClose (r : Nat) (s : State) : Host.Outcome State Fault Refusal := s.go (fun s => s.takeClose r)

/-- The boundary after a segment's end: its reservation is released and its bays return to READY or enter CLOSING (R305, R309). -/
def State.segReturn (s : State) (g : Seg) : State :=
  let acts : List Act := match s.take? g.take with
    | some t => (recActs t g.offload g.set).map (·.1)
    | none => []
  let s := (s.setSeg g.id (fun g => { g with stage := 8 })).dropResvs (fun a => acts.contains a)
  if !g.opened then s
  else
    let s := s.setMag (fun m => { m with sets := m.sets.drop g.set })
    let s := (setDrives s.magSet g.set).foldl (fun s d => s.setDrive d (fun x => { x with
      outOfSet := false, mode := if x.mode = .inUse then .ready else x.mode })) s
    (setBays s.magSet g.set).foldl (fun s b =>
      if (s.bay b).mode ≠ .inUse then s
      else
        let s := s.bayFailed b
        if (s.bay b).mode = .failed then s
        else if (s.bay b).releaseDue then s.enterBay b .closing
        else
          let s := s.enterBay b .ready
          if (s.bay b).eject then s.releaseBay b else s) s

/-- At the boundary from which its reservation produces jobs, an emergency relay's segment takes the frames from E on. -/
def State.emergEnter (s : State) (tid : Nat) : State :=
  let q := s.rec_ tid
  match q.emerg with
  | none => s
  | some x =>
    if s.time.tickNum < x.tick then s
    else
      let prev := s.setUuid x.oldSet
      let n := q.nextSeg
      let s := (s.setRec tid (fun q => { q with emerg := none })).enterSeg tid x.set (some x.entry) x.frame prev
      (s.completeOpt x.ticket stDone [(16, 1, x.set)]).postRelay q.rig x.reason x.oldSet x.set x.frame n

/-- What the magazine engine does at a boundary for ended segments, emergency relays and closed takes. -/
def State.segBoundary (s : State) : State :=
  let s := (s.mag.segs.filter (fun g => decide (g.stage = 7) && decide (g.endTick ≤ s.time.tickNum))).foldl
    (fun s g => s.segReturn g) s
  let s := s.mag.recs.foldl (fun s e => s.emergEnter e.1) s
  s.takes.takes.foldl (fun s t =>
    let segs := s.mag.segs.filter (fun g => decide (g.take = t.id))
    if !t.closed && (s.rec_ t.id).closed && segs.all (fun g => decide (g.stage = 8)) then s.takeDone t else s) s

/-! ### Emergency relays (R313, R317) -/

/-- End the segments of a take that are not closed, naming E, on their surviving drives. -/
def State.endSegs (s : State) (tid e uuid : Nat) : State :=
  let next := s.time.tickNum + 1
  let s := s.setMag (fun m => { m with segs := m.segs.map (fun g =>
    if g.take ≠ tid ∨ 5 ≤ g.stage then g
    else if !g.opened then { g with stage := 7, endTick := next, endKind := 3, endFrame := e }
    else { g with endKind := 3, endFrame := e, nextSet := uuid, ckpt := 0, stage := 4, tail := [], row := [],
                  pos := g.written, manPos := none, takePos := none }) })
  (s.mag.segs.filter (fun g => decide (g.take = tid) && decide (g.stage = 4))).foldl (fun s g => s.segAdvance g.id 8) s

/-- An emergency relay of a take, or its end when no set is admitted. -/
def State.emergency (s : State) (t : Take) (reason : Nat) : State :=
  let q := s.rec_ t.id
  if (q.closed ∧ q.seg = none) ∨ q.gaveUp.isSome then s
  else
    let again := match q.emerg with
      | some x => decide (x.tick = s.time.tickNum + 2)
      | none => false
    if again then s.setRec t.id (fun q => { q with emerg := q.emerg.map (fun x => { x with reason := min x.reason reason }) })
    else
      let owed := s.store.frames.filter (fun f => q.owes t.id f)
      let placedTop := (s.mag.segs.filter (fun g => decide (g.take = t.id))).foldl
        (fun n g => g.placed.foldl (fun n p => max n (p.frame + 1)) n) t.first
      let e := match q.emerg with
        | some x => x.frame
        | none => match owed with
          | [] => placedTop
          | f :: l => l.foldl (fun n g => min n g.frame) f.frame
      let old := (q.emerg.map (·.oldSet)).getD (q.set.getD 0xF)
      let ticket := q.relay.bind (·.ticket)
      let choice : Except RelayRefusal (Nat × Nat × List Resv × Nat) := match q.relay with
        | some x => .ok (x.set, x.entry, [], x.tick)
        | none => match s.chooseSet t q with
          | .ok (m, en, new) => .ok (m, en, new, s.time.tickNum + 2)
          | .error x => .error x
      let s := s.setStore (fun z => { z with frames := z.frames.map (fun f =>
        if q.owes t.id f then { f with placed := false } else f) })
      match choice with
      | .ok (m, en, new, tick) =>
        let s := (s.endSegs t.id e (s.setUuid m)).addResvs new tick
        (s.count Reg.MB_EMERG_CNT).setRec t.id (fun q => { q with
          relay := none, seg := none,
          emerg := some { frame := e, set := m, entry := en, reason := reason, tick := tick, oldSet := old,
                          ticket := ticket } })
      | .error _ =>
        let s := s.endSegs t.id e 0
        let s := s.countN Reg.RREC_LOST_FRAMES t.rig owed.length
        let s := owed.foldl (fun s f =>
          if q.offload then s.setFrame f.id (fun f => { f with offMag := true }) else s.releaseIf f.id 2) s
        let s := s.setRec t.id (fun q => { q with relay := none, emerg := none, gaveUp := some e, set := none, seg := none })
        let s := if q.offload then s.burstSweep t.rig else s
        if !q.offload && t.last.isNone && decide (s.rigMode t.rig = .record) && !s.dev.bound.any (fun b =>
            match b.kind with
            | .rig k (.takeEnd _) _ _ _ _ _ => decide (k = t.rig)
            | _ => false) then
          s.pushBound ⟨s.time.tickNum + 2, none, .rig t.rig (.takeEnd 2) (s.rig t.rig).back 0 0 0 0⟩
        else s

/-! ### Placement (R297, R304, R322) -/

/-- The next frame of a take in placement order, when it can be placed. -/
def State.placeable (s : State) (t : Take) : Option FrameSt :=
  let q := s.rec_ t.id
  let before := fun (a b : FrameSt) => decide (a.frame < b.frame) || (decide (a.frame = b.frame) && decide (a.stream < b.stream))
  match s.store.frames.filter (fun f => q.owes t.id f && !f.placed) with
  | [] => none
  | f :: l =>
    let x := l.foldl (fun a b => if before b a then b else a) f
    let waits := s.store.frames.any (fun g => decide (g.rig = t.rig) && t.streams.contains g.stream && decide (g.run = x.run)
      && decide (t.first ≤ g.frame) && before g x && s.unopened g)
    if x.phase = .closed ∧ x.sealed ∧ !waits then some x else none

/-- The segment that a frame number goes to. -/
def State.segFor (s : State) (tid n : Nat) : Option Seg :=
  s.mag.segs.find? (fun g => decide (g.take = tid) && decide (g.stage = 0) && decide (g.from_ ≤ n || g.number = 0)
    && (match g.below with | some b => decide (n < b) | none => true))

/-- Append a frame item to a segment, with the index block that follows every 256th, and queue its work. -/
def State.placeIn (s : State) (g : Seg) (f : FrameSt) : State :=
  let n := frameBytes f.latch f.stream
  let blocks := 1 + ceilDiv n 4096
  let p : Placed := { id := f.id, frame := f.frame, stream := f.stream, pos := g.pos, blocks := blocks,
                      flags := indexFlags f.status, chain := sliceBytes f.record 4048 48 }
  let s := s.setSeg g.id (fun g => { g with placed := g.placed ++ [p], sinceIndex := g.sinceIndex ++ [p] })
  let s := s.append g.id (f.record ++ sliceBytes (s.getPayload f 0 n) 0 ((blocks - 1) * 4096))
  let s := if (g.placed.length + 1) % 256 = 0 then s.appendIndex g.id else s
  let s := s.setFrame f.id (fun f => { f with placed := true })
  let s := s.setSeg g.id (fun x => { x with unasked := x.unasked ++ [(f.stream, g.pos, g.pos + blocks)] })
  s.askTo g.id (((s.seg? g.id).getD g).pos / 256 * 256)

/-- Place the next frame of a rig's takes; a set without a claim for it relays with reason 0x6 (R307). -/
def State.framePlace (s : State) (r : Nat) : State :=
  if s.dev.mode ≠ .operational then s
  else
    match (s.recTakes r).findSome? (fun t =>
      if (s.rec_ t.id).emerg.isSome then none else (s.placeable t).map (fun f => (t, f))) with
    | none => s
    | some (t, f) =>
      match s.segFor t.id f.frame with
      | none => s
      | some g =>
        let m := g.set
        let b := claimBlocks s.magSet m
        let want := ceilDiv (g.pos + 1 + ceilDiv (frameBytes f.latch f.stream) 4096) b
        let has := ceilDiv g.pos b
        let room := decide (want ≤ has) || (!s.setExhausted m &&
          decide ((if g.opened then g.firstClaim else s.setUsed m) + want ≤ s.setClaims m))
        if s.setFailing m then s
        else if !room then s.emergency t 6
        else
          let s := if g.opened then s else s.openSeg g.id
          s.placeIn ((s.seg? g.id).getD g) f

def execFramePlace (r : Nat) (s : State) : Host.Outcome State Fault Refusal := s.go (fun s => s.framePlace r)

/-! ### Chunks and checkpoints (R299, R300) -/

/-- The present chunk of a segment has held data for CHUNK_AGE ticks. -/
def State.chunkAged (s : State) (g : Seg) : Bool :=
  decide (g.written < g.pos) && decide (g.ageTick + s.actF Reg.MB_CTRL 0 31 24 ≤ s.time.tickNum)

/-- At a boundary, the Writes of aged chunks become work. -/
def State.askAged (s : State) : State :=
  s.mag.segs.foldl (fun (s : State) g => if decide (g.stage = 0) && s.chunkAged g then s.askTo g.id g.pos else s) s

/-- Write a set's next chunk, once it is full or CHUNK_AGE ticks old. -/
def State.chunkWrite (s : State) (m : Nat) : State :=
  match s.segOn m with
  | none => s
  | some g =>
    let full := decide (256 - g.written % 256 ≤ g.pos - g.written)
    let aged := s.chunkAged g
    let force := g.ckpt = 1 ∨ g.stage = 1 ∨ g.stage = 4
    if s.dev.mode = .operational ∧ (g.stage ≤ 1 ∨ g.stage = 4) ∧ g.endKind ≠ 3 ∧ !s.setFailing m ∧ (full ∨ aged ∨ force) then
      (s.writePiece g.id force).getD s
    else s

def execChunkWrite (m : Nat) (s : State) : Host.Outcome State Fault Refusal := s.go (fun s => s.chunkWrite m)

/-- A checkpoint of a segment is due: a multiple of ceil(CKPT_MS × 10^6 / P) ticks of its take has passed since its last one, or
since it opened (R300). -/
def State.ckptDue (s : State) (g : Seg) : Bool :=
  let every := ceilDiv (s.actF Reg.MB_CTRL 0 23 10 * 1000000) s.period
  let t0 := (s.rec_ g.take).tick0
  decide ((g.ckptTick - t0) / every < (s.time.tickNum - t0) / every)

/-- A checkpoint of the segment open on a set, at every CKPT_MS milliseconds of the take. -/
def State.checkpoint (s : State) (m : Nat) : State :=
  match s.segOn m with
  | none => s
  | some g =>
    if g.stage ≠ 0 ∨ g.ckpt ≠ 0 ∨ !s.ckptDue g ∨ s.dev.mode ≠ .operational ∨ s.setFailing m then s
    else
      let s := s.appendPad g.id
      let s := s.setSeg g.id (fun g => { g with ckpt := 1, ckptTo := g.pos, ckptTick := s.time.tickNum })
      s.segAdvance g.id 8

def execCheckpoint (m : Nat) (s : State) : Host.Outcome State Fault Refusal := s.go (fun s => s.checkpoint m)

/-! ### FULL and the backlog policy (R307, R308, R319) -/

/-- At a boundary: the current set's free data bytes are below the lead. -/
def State.fullCheck (s : State) : State :=
  s.takes.takes.foldl (fun s t =>
    let q := s.rec_ t.id
    match q.set with
    | some m =>
      if !t.closed && s.canRelay t && decide (s.freeData m < s.leadBytes t.rig (s.takeRate t q.offload) 1) then
        match s.startRelay t 1 none with
        | .ok s' => s'
        | .error e =>
          if q.fullPosted then s else (s.relayFailed t.rig 1 e).setRec t.id (fun q => { q with fullPosted := true })
      else s
    | none => s) s

/-- A rig holds more record frames of a stream than that stream's WORK_FRAMES (R269). -/
def State.overWork (s : State) (t : Take) : Bool :=
  t.streams.any (fun st => decide (s.actF Reg.ST_STORE st 6 0 <
    (s.store.frames.filter (fun f => decide (f.stream = st) && f.live && f.hold.record)).length))

/-- An automatic end of a rig's take waits for its boundary. -/
def State.takeEndSet (s : State) (r : Nat) : Bool :=
  s.dev.bound.any (fun b => match b.kind with
    | .rig k (.takeEnd _) _ _ _ _ _ => decide (k = r)
    | _ => false)

/-- Crossing the backlog watermark starts the policy of each recording rig (R319). -/
def State.backlog (s : State) : State :=
  s.takes.takes.foldl (fun s t =>
    let q := s.rec_ t.id
    if t.closed || t.burst || decide (s.rigMode t.rig ≠ .record) || t.last.isSome || q.closed || q.gaveUp.isSome || !s.overWork t
      || s.takeEndSet t.rig then s
    else
      let lead := s.actF Reg.RREC_CTRL t.rig 15 8 * 1000000000
      let soon := match q.backlogAt with
        | some a => decide (s.linear < a + lead)
        | none => false
      let stop := fun (s : State) => s.pushBound ⟨s.time.tickNum + 2, none, .rig t.rig (.takeEnd 1) (s.rig t.rig).back 0 0 0 0⟩
      if s.actF Reg.RREC_CTRL t.rig 0 0 = 1 || soon then stop s
      else if !s.canRelay t then s
      else match s.startRelay t 3 none with
        | .ok s' => s'.setRec t.id (fun q => { q with backlogAt := some s.linear })
        | .error e => stop (s.relayFailed t.rig 3 e)) s

/-! ### Drive loss and removal (R312–R317) -/

/-- The target of a pending planned relay is lost before B: it is chosen again (R317). -/
def State.retarget (s : State) (t : Take) : State :=
  let q := s.rec_ t.id
  match q.relay with
  | none => s
  | some x =>
    let acts := (recActs t q.offload x.set).map (·.1)
    let s := s.dropResvs (fun a => acts.contains a)
    match s.chooseSet t { q with entry := some x.entry } with
    | .ok (m, e, new) => (s.addResvs new x.tick).setRec t.id (fun q => { q with
        relay := some { x with set := m, entry := e } })
    | .error e =>
      let s := s.setRec t.id (fun q => { q with relay := none })
      match x.reason with
      | 0 => s.completeOpt x.ticket stNoResource e.2.2
      | 3 => (s.relayFailed t.rig 3 e).pushBound ⟨s.time.tickNum + 2, none, .rig t.rig (.takeEnd 1) (s.rig t.rig).back 0 0 0 0⟩
      | k => s.relayFailed t.rig k e

/-- The layout rides the loss of its drives through (R312). -/
def State.ridesOut (s : State) (m : Nat) : Bool :=
  let live := s.setLive m
  match setProt s.magSet m with
  | 1 => decide (3 ≤ live.length)
  | 2 => (setSlots s.magSet m).all (fun d => (slotDrives s.magSet m d).any (fun x => live.contains x))
  | _ => decide (live.length = (setDrives s.magSet m).length)

/-- A set has lost drives: it degrades, its take relays, or a relay's target is chosen again. -/
def State.setLoss (s : State) (m reason : Nat) : State :=
  s.takes.takes.foldl (fun s t =>
    let q := s.rec_ t.id
    let writes := s.mag.segs.filter (fun g => decide (g.take = t.id) && decide (g.set = m) && decide (g.stage < 7))
    if t.closed then s
    else if (match q.relay with | some x => decide (x.set = m) | none => false) then s.retarget t
    else if (match q.emerg with | some x => decide (x.set = m) | none => false) then
      match q.emerg with
      | some x =>
        let acts := (recActs t q.offload x.set).map (·.1)
        ((s.dropResvs (fun a => acts.contains a)).setRec t.id (fun q => { q with
          set := some x.set, entry := some x.entry, emerg := some { x with tick := 0 } })).emergency t reason
      | none => s
    else if writes.isEmpty then s
    else if s.ridesOut m then
      let s := s.setMag (fun x => { x with sets := x.sets.upd {} m (fun y => { y with degraded := true }) })
      writes.foldl (fun s g => s.segAdvance g.id 16) (s.releaseWritten t.id)
    else
      let s := if writes.all (fun g => decide (5 ≤ g.stage)) then s else s.emergency t reason
      writes.foldl (fun s g => s.segAdvance g.id 16) s) s

/-- The sets that use a drive. -/
def State.setsOf (s : State) (d : Nat) : List Nat :=
  (List.range 8).filter (fun m => (setDrives s.magSet m).contains d)

/-- The effect of a declared failure on the drive's sets and bay (R312, R315). -/
def State.driveFailure (s : State) (d : Nat) : State :=
  if !(s.drive d).failDue then s
  else
    let s := s.setDrive d (fun q => { q with failDue := false })
    ((s.setsOf d).foldl (fun s m => s.setLoss m 4) s).bayFailed (bayOf d)

def execDriveFailure (d : Nat) (s : State) : Host.Outcome State Fault Refusal := s.go (fun s => s.driveFailure d)

/-- MBb_PRSNT# goes high (R314, R315, R635). -/
def State.surprise (s : State) (b : Nat) : State :=
  if !(s.bay b).present then s
  else
    let mode := (s.bay b).mode
    let s := s.setBay b (fun q => { q with present := false })
    let s := if mode = .inUse ∨ mode = .closing then s.bayEvt b 2 else s
    let s := if mode = .inUse then
        (slotsOf b).foldl (fun s d => (s.declareFailed d 6).setDrive d (fun q => { q with failDue := false })) s
      else s
    let sets := (List.range 8).filter (fun m => (setBays s.magSet m).contains b && s.magSet.bit Reg.MSET_CTRL m 0)
    let s := if mode = .empty then s else s.bayGone b
    if mode = .inUse ∨ mode = .ready then sets.foldl (fun s m => s.setLoss m 5) s else s

def execSurprise (b : Nat) (s : State) : Host.Outcome State Fault Refusal := s.go (fun s => s.surprise b)

/-- The take whose current set uses a bay, and the bay's release once its segment has closed (R316). -/
def State.bayTake (s : State) (b : Nat) : Option Take :=
  s.takes.takes.find? (fun t => !t.closed && (match (s.rec_ t.id).set with
    | some m => (setBays s.magSet m).contains b && (s.mag.recs.any (fun e => decide (e.1 = t.id)))
    | none => false))

/-- Ask for the release of an IN_USE bay: the take relays first (R309, R316). A refusal answers the status and its payload. -/
def State.latchRelay (s : State) (b : Nat) (ticket : Option Ticket) : Except (Option RelayRefusal) State :=
  let due := fun (s : State) => s.setBay b (fun q => { q with releaseDue := true, ticket := ticket })
  match s.bayTake b with
  | none => .ok (due s)
  | some t =>
    let q := s.rec_ t.id
    if q.relay.isSome ∨ q.emerg.isSome then .ok (due s)
    else if !s.canRelay t then .error none
    else match s.startRelay t 2 none with
      | .ok s' => .ok (due s')
      | .error e => .error (some e)

/-- MBb_EJECT# is asserted (R316). -/
def State.ejectReq (s : State) (b : Nat) : State :=
  let s := (s.setBay b (fun q => { q with eject := true })).bayEvt b 3
  let refuse := fun (s : State) => (s.setBay b (fun q => { q with refused := true })).bayEvt b 4
  match (s.bay b).mode with
  | .ready => if (s.bay b).released then s else s.releaseBay b
  | .inUse =>
    if !bit (s.act Reg.BAY_CTRL b) 1 then refuse s
    else match s.latchRelay b (s.bay b).ticket with
      | .ok s' => s'
      | .error none => refuse s
      | .error (some e) => refuse (match s.bayTake b with
          | some t => s.relayFailed t.rig 2 e
          | none => s)
  | _ => s

def execEjectReq (b : Nat) (s : State) : Host.Outcome State Fault Refusal := s.go (fun s => s.ejectReq b)

/-- MBb_EJECT# is released. -/
def State.ejectRelease (s : State) (b : Nat) : State := s.setBay b (fun q => { q with eject := false, refused := false })

def execEjectRelease (b : Nat) (s : State) : Host.Outcome State Fault Refusal := s.go (fun s => s.ejectRelease b)

/-! ### Zeroisation (R321) -/

/-- After zeroisation, once a set's commands have ended, an unsealed-end entry closes its open segment. -/
def State.unsealedEnd (s : State) (m : Nat) : State :=
  match s.segOn m with
  | none => s
  | some g =>
    if s.dev.mode ≠ .zeroized ∨ 5 ≤ g.stage ∨ s.mag.cmds.any (fun c => (setDrives s.magSet m).contains c.slot) then s
    else
      let okay := g.placed.takeWhile (fun p => s.frameWritten g p)
      let (n, st) := match okay.getLast? with
        | some p => (p.frame, p.stream)
        | none => (0xFFFFFFFF, 0xFF)
      let s := s.setSeg g.id (fun g => { g with
        endKind := 4, endFrame := n, endStream := st, ckpt := 0, stage := 4, manPos := none, takePos := none })
      s.segAdvance g.id 8

def execUnsealedEnd (m : Nat) (s : State) : Host.Outcome State Fault Refusal := s.go (fun s => s.unsealedEnd m)

/-! ### The completion of a drive command (R287–R289, R293, R294, R301) -/

/-- What a completed command brings about, by what it was for. -/
def State.cmdDone (s : State) (c : DrvCmd) (r : DrvReply) (job : State → Nat → DrvReply → State) : State :=
  match c.kind with
  | .identify => s.identified c.slot r
  | .superblock => s.superRead c.slot r
  | .data id _ _ =>
    match s.seg? id with
    | some g => (s.releaseWritten g.take).segAdvance id 16
    | none => s
  | .meta_ id => s.segAdvance id 16
  | .release | .smart => s
  | .job j => job s j r

/-- An NVMe command completes; one that fails with DNR clear is retried once (R294). -/
def State.driveComplete (s : State) (slot id : Nat) (r : DrvReply) (job : State → Nat → DrvReply → State) : State :=
  match s.mag.cmds.find? (fun c => decide (c.slot = slot) && decide (c.id = id)) with
  | none => s
  | some c =>
    let drop := fun (s : State) => s.setMag (fun m => { m with cmds := m.cmds.filter (fun x => decide (x.id ≠ id)) })
    if r.error then
      let s := ((s.setEvt Reg.MBS_EVENTS slot 1).count Reg.MBS_ERR_CNT slot).emit (.drive slot 0 .logPage 0 0 [])
      if r.dnr || c.retried then
        match c.kind with
        | .identify | .superblock => ((drop s).rejectSlot slot 6).bayResolve (bayOf slot)
        | .job j => (job (drop s) j r).declareFailed slot 4
        | _ => (drop s).declareFailed slot 4
      else
        ((s.count Reg.MB_RETRY_CNT).setMag (fun m => { m with cmds := m.cmds.map (fun x =>
          if x.id = id then { x with retried := true, at_ := s.time.clk } else x) })).emit
          (.drive slot c.queue c.op c.lba c.blocks c.data)
    else (drop s).cmdDone c r job

end Sys2Proof.Machine
end

