-- ==== Sys2Proof/Machine/MagCmds.lean ====
section
/-! DEFINITION. The magazine commands MAG_RELAY, MAG_RELEASE, MAG_FORMAT, MAG_REPAIR, MAG_SANITIZE and MAG_READ (R308, R316,
R323, R330, R332, R349, R350, R412, R635), and the completion of the drive commands they issue. -/

namespace Sys2Proof.Machine

/-! ### Checks -/

/-- Bays that a magazine command in execution works on. -/
def State.jobBays (s : State) (j : MagJob) : List Nat := if j.opcode = 0x51 then setBays s.magSet j.target else [j.target]
/-- A magazine command still executes on one of some bays (R412), or one of them is released (R635). -/
def State.magHeld (s : State) (bs : List Nat) : Bool :=
  s.mag.jobs.any (fun j => (s.jobBays j).any (fun b => bs.contains b)) || bs.any (fun b => (s.bay b).released)

def State.refuseIf (s : State) (b : Bool) : Refuse := if b then some (s.wrongState none) else none

/-- Start a magazine command. -/
def State.startJob (s : State) (j : MagJob) : State :=
  s.setMag (fun m => { m with jobs := m.jobs ++ [{ j with id := m.nextJob }], nextJob := m.nextJob + 1 })
def State.setJob (s : State) (id : Nat) (f : MagJob → MagJob) : State :=
  s.setMag (fun m => { m with jobs := m.jobs.map (fun j => if j.id = id then f j else j) })
/-- A magazine command completes. -/
def State.endJob (s : State) (j : MagJob) (status : Nat) (pl : List (Nat × Nat × Nat)) : State :=
  (s.setMag (fun m => { m with
    jobs := m.jobs.filter (fun x => decide (x.id ≠ j.id)),
    cmds := m.cmds.filter (fun c => decide (c.kind ≠ .job j.id)) })).complete j.ticket status pl
def State.jobBusy (s : State) (id : Nat) : Bool := s.mag.cmds.any (fun c => decide (c.kind = .job id))

/-! ### MAG_RELAY (R308, R309, R323) -/

/-- The take that a rig records. -/
def State.recordingTake (s : State) (r : Nat) : Option Take := (s.recTakes r).find? (fun t => !t.burst && s.canRelay t)

/-- A planned relay of reason 0x0; its completion is written at the relay boundary. -/
def State.magRelay (s : State) (d : Desc) : State :=
  let r := tIndex d
  s.runCmd d 0x1B (fun s =>
    match s.check405 d (structOk d (tIs d 1 16) [] false) true (s.isCtl d r) (s.modeIn [.operational] && s.rigMode r = .record)
        (some r) with
    | some x => some x
    | none => match s.recordingTake r with
      | none => some (s.wrongState (some r))
      | some t => match s.startRelay t 0 none with
        | .ok _ => none
        | .error e => some (stNoResource, e.2.2)) (fun k s =>
    match s.recordingTake r with
    | some t => match s.startRelay t 0 (some k) with
      | .ok s' => s'
      | .error e => s.complete k stNoResource e.2.2
    | none => s.complete k (s.wrongState (some r)).1 (s.wrongState (some r)).2)

def execMagRelay (d : Desc) (s : State) : Host.Outcome State Fault Refusal := s.go (fun s => s.magRelay d)

/-! ### MAG_RELEASE (R310, R316, R323, R635) -/

def State.magRelease (s : State) (d : Desc) : State :=
  let b := tIndex d
  s.runCmd d 0x50 (fun s =>
    match s.check405 d (structOk d (tIs d 5 4) [] false) true (s.isSteward d)
        (s.modeIn [.provision, .standby, .operational, .zeroized]) none with
    | some x => some x
    | none => match (s.bay b).mode with
      | .ready => s.refuseIf (s.mag.jobs.any (fun j => (s.jobBays j).contains b))
      | .inUse =>
        if s.mag.jobs.any (fun j => (s.jobBays j).contains b) || (s.bay b).ticket.isSome then some (s.wrongState none)
        else match s.latchRelay b none with
          | .ok _ => none
          | .error none => some (s.wrongState none)
          | .error (some e) => some (stNoResource, e.2.2)
      | _ => some (s.wrongState none)) (fun k s =>
    match (s.bay b).mode with
    | .ready =>
      if (s.bay b).released then s.complete k stDone
      else (s.setBay b (fun q => { q with ticket := some k })).releaseBay b
    | _ => match s.latchRelay b (some k) with
      | .ok s' => s'
      | .error _ => s.complete k stNoResource)

def execMagRelease (d : Desc) (s : State) : Host.Outcome State Fault Refusal := s.go (fun s => s.magRelease d)

/-! ### MAG_FORMAT (R330, R332, R340) -/

/-- DRIVE_CLAIMS of a slot (R330). -/
def State.driveClaims (s : State) (d : Nat) : Nat :=
  (s.reg64 Reg.MBS_BLOCKS_LO Reg.MBS_BLOCKS_HI d - 1 - 395264) / 2048
def State.leastClaims (s : State) (ds : List Nat) : Nat :=
  match ds.map s.driveClaims with
  | [] => 0
  | x :: l => l.foldl min x

/-- The superblock that MAG_FORMAT writes on a slot (R332). -/
def State.superBlock (s : State) (m uuid d : Nat) : Super × List Byte :=
  let t := s.magSet
  let bays := setBays t m
  let ds := setDrives t m
  let side := fun (d : Nat) => if bayOf d = bays.headD 0 then 0 else 1
  let magId := fun (b : Nat) => ((s.bay b).idPage.map (·.magId)).getD 0
  let partner := if setProt t m = 2 then magId (bays.getD (1 - side d) 0) else 0
  let members := ds.map (fun d => (side d, d % 4, (s.drive d).serial))
  let x : Super := { prot := setProt t m, mask := t.fld Reg.MSET_CTRL m 19 16, magId := magId (bayOf d), uuid := uuid,
                     partner := partner, slot := d % 4, side := side d, setClaims := s.leastClaims ds,
                     driveClaims := s.driveClaims d, members := members }
  (x, pmfBlock ([(0, leBytes 4 0x42534D50), (4, leBytes 2 2 ++ leBytes 1 x.prot ++ leBytes 1 x.mask ++ leBytes 16 x.magId
      ++ leBytes 16 uuid ++ leBytes 16 partner ++ leBytes 1 x.slot ++ leBytes 1 x.side ++ leBytes 6 Config.serial.toNat
      ++ leBytes 8 s.linear ++ leBytes 8 (s.reg64 Reg.MBS_BLOCKS_LO Reg.MBS_BLOCKS_HI d) ++ leBytes 8 16 ++ leBytes 4 262144),
    (96, leBytes 8 262160 ++ leBytes 4 65536), (112, leBytes 8 395264 ++ leBytes 4 x.driveClaims ++ leBytes 4 x.setClaims
      ++ leBytes 2 256 ++ leBytes 2 2048 ++ leBytes 2 256)]
    ++ members.zipIdx.map (fun e => (256 + 24 * e.2,
        leBytes 1 e.1.1 ++ leBytes 1 e.1.2.1 ++ leBytes 1 1 ++ [0] ++ leBytes 20 e.1.2.2))))

/-- Write Zeroes of the journal and directory areas, then journal entry 0, then both superblocks, then a Flush (R286). -/
def State.formatStep (s : State) (j : MagJob) : State :=
  let ds := setDrives s.magSet j.target
  if j.failed then s.endJob j stUnitFailed []
  else if s.jobBusy j.id then s
  else match j.stage with
    | 0 =>
      let b := pmfBlock [(0, leBytes 4 0x4C4E4A50), (12, leBytes 1 1), (16, leBytes 16 j.uuid),
        (68, leBytes 8 0xFFFFFFFFFFFFFFFF), (80, [0xFF]), (88, leBytes 8 s.time.tickNum ++ leBytes 8 s.linear)]
      ds.foldl (fun s d => s.writeMeta d (.job j.id) 16 b) (s.setJob j.id (fun j => { j with stage := 1 }))
    | 1 =>
      ds.foldl (fun s d =>
        let b := (s.superBlock j.target j.uuid d).2
        (s.writeMeta d (.job j.id) 0 b).writeMeta d (.job j.id) (s.reg64 Reg.MBS_BLOCKS_LO Reg.MBS_BLOCKS_HI d - 1) b)
        (s.setJob j.id (fun j => { j with stage := 2 }))
    | 2 => ds.foldl (fun s d => s.issue d (.job j.id) .flush 0 0 4 []) (s.setJob j.id (fun j => { j with stage := 3 }))
    | _ =>
      let sbs := ds.map (fun d => (d, (s.superBlock j.target j.uuid d).1))
      let s := sbs.foldl (fun s e => s.setDrive e.1 (fun q => { q with
        super := some e.2, media := { journal := 1, dirs := 0, nextClaim := 0, openSegs := 0 } })) s
      let s := (setBays s.magSet j.target).foldl (fun s b => s.setBay b (fun q => { q with content := s.contentOf b })) s
      s.endJob j stDone [(16, 4, s.leastClaims ds)]

def State.magFormat (s : State) (d : Desc) : State :=
  let m := tIndex d
  s.runCmd d 0x51 (fun s =>
    let t := s.magSet
    (s.check405 d (structOk d (tIs d 6 8) [] false) true (s.isSteward d) (s.modeIn [.standby, .operational]) none).orElse
      (fun _ =>
        if s.magHeld (setBays t m) || !t.bit Reg.MSET_CTRL m 0 || (setBays t m).any (fun b => (s.bay b).mode ≠ .ready)
            || (setDrives t m).any (fun d => (s.drive d).mode ≠ .ready) then some (s.wrongState none)
        else if s.sec.drbgBlocked then some (stSecurity, [])
        else none)) (fun k s =>
    let id := s.mag.nextJob
    let s := (s.startJob { id := id, opcode := 0x51, target := m, ticket := k, uuid := s.freeNat 128 }).useFree
    (setDrives s.magSet m).foldl (fun s d =>
      (s.issue d (.job id) .writeZeroes 16 262144 4 []).issue d (.job id) .writeZeroes 262160 131072 4 []) s)

def execMagFormat (d : Desc) (s : State) : Host.Outcome State Fault Refusal := s.go (fun s => s.magFormat d)

/-! ### MAG_SANITIZE -/

def State.sanitizeStep (s : State) (j : MagJob) : State :=
  if j.failed then s.endJob j stUnitFailed []
  else if s.jobBusy j.id then s
  else
    let ds := (slotsOf j.target).filter (fun d => (s.drive d).mode = .ready)
    let s := ds.foldl (fun s d => s.setDrive d (fun q => { q with super := none, media := {} })) s
    let s := s.setBay j.target (fun q => { q with content := 1 })
    s.endJob j stDone [(16, 1, ds.length)]

def State.magSanitize (s : State) (d : Desc) : State :=
  let b := tIndex d
  s.runCmd d 0x53 (fun s =>
    (s.check405 d (structOk d (tIs d 5 4) [] false) true (s.isSteward d) (s.modeIn [.standby, .operational]) none).orElse
      (fun _ => s.refuseIf (s.magHeld [b] || (s.bay b).mode ≠ .ready))) (fun k s =>
    let id := s.mag.nextJob
    let s := s.startJob { id := id, opcode := 0x53, target := b, ticket := k }
    let ds := (slotsOf b).filter (fun d => (s.drive d).mode = .ready)
    let s := ds.foldl (fun s d => s.issue d (.job id) .sanitize 0 0 0 []) s
    s)

def execMagSanitize (d : Desc) (s : State) : Host.Outcome State Fault Refusal := s.go (fun s => s.magSanitize d)

/-! ### MAG_REPAIR (R349, R350) -/

/-- What a walk of a segment's stream keeps: the accepted frames, each stream's last frame and chain value. -/
structure Walk where
  pos : Nat
  frames : List Placed := []
  last : Tab (Nat × List Byte) := []
  stopped : Bool := false
  deriving DecidableEq, Repr

/-- The payload digest of a payload (R498). -/
def payloadDigestOf (b : List Byte) : List Byte :=
  sha384 ((List.range (ceilDiv b.length 65536)).flatMap (fun i => sha384 ((b.drop (65536 * i)).take 65536)))

/-- The stream table of a journal entry. -/
def entryTable (e : List Byte) : Tab (Nat × List Byte) :=
  (List.range (leAt e 81 1)).foldl (fun l n =>
    let o := 128 + 56 * n
    l.put (0, []) (leAt e o 1) (leAt e (o + 4) 4 + 1, sliceBytes e (o + 8) 48)) []

/-- Accept the next item of the stream or stop (R349). `table` holds the entry's LAST_FRAME + 1 and CHAIN by stream. -/
def walkItem (q : TornSeg) (table : Tab (Nat × List Byte)) (w : Walk) : Walk :=
  let b := q.stream.drop ((w.pos - q.base) * 4096)
  let blk := b.take 4096
  if blk.length < 4096 then { w with stopped := true }
  else if validBlock 0x44415050 blk then { w with pos := w.pos + max 1 (leAt blk 4 4) }
  else if validBlock 0x58494650 blk then { w with pos := w.pos + 1 }
  else if leAt blk 0 4 = 0x32524650 ∧ leAt blk 4 16 = leAt q.dir 8 16 then
    let n := leAt blk 76 4
    let fr := leAt blk 20 4
    let st := leAt blk 24 1
    let payload := (b.drop 4096).take n
    let inOrder : Bool := match w.frames.getLast? with
      | some p => decide (p.frame < fr) || (decide (p.frame = fr) && decide (p.stream < st))
      | none => true
    let rec0 := patchBytes blk 128 (leBytes 4 ((BitVec.ofNat 32 (leAt blk 128 4)) &&& ~~~ (0x100 : Word)).toNat)
    let chain := sliceBytes blk 4048 48
    let row := table.get (0, []) st
    let prev : Option (List Byte) := match w.last.get (0, []) st with
      | (0, _) => if fr < row.1 ∧ row.1 ≠ 0x100000000 then none
          else some (if row.2 = [] then List.replicate 48 0 else row.2)
      | (_, c) => some c
    let good : Bool := match prev with
      | some c => decide (chain = sha384 (c ++ rec0.take 4048 ++ payloadDigestOf payload))
      | none => true
    if payload.length = n ∧ inOrder ∧ good then
      let p : Placed := { id := 0, frame := fr, stream := st, pos := w.pos, blocks := 1 + ceilDiv n 4096,
                          flags := indexFlags (BitVec.ofNat 32 (leAt blk 128 4)), chain := chain }
      { w with pos := w.pos + p.blocks, frames := w.frames ++ [p], last := w.last.put (0, []) st (fr + 1, chain) }
    else { w with stopped := true }
  else { w with stopped := true }

def walkTail (q : TornSeg) (table : Tab (Nat × List Byte)) : Nat → Walk → Walk
  | 0, w => w
  | n + 1, w => if w.stopped then w else walkTail q table n (walkItem q table w)

/-- A bay's drives can be read (R333): all that its superblocks ask for. -/
def State.readable (s : State) (b : Nat) : Bool :=
  let ds := (slotsOf b).filter (fun d => (s.drive d).mode = .ready && (s.drive d).super.isSome && (s.drive d).member)
  match ds.head?.bind (fun d => (s.drive d).super) with
  | none => false
  | some x =>
    let slots := setBits x.mask 4
    match x.prot with
    | 1 => decide (3 ≤ ds.length)
    | 2 => slots.all (fun k => (List.range 16).any (fun d => decide (d % 4 = k) && (s.drive d).mode = .ready
        && (match (s.drive d).super with | some y => decide (y.uuid = x.uuid) | none => false)))
    | _ => slots.all (fun k => ds.contains (4 * b + k))

/-- Write blocks of a stream from a position on to the bay's drives, for a repair: chunk by chunk. -/
def State.repairWrites (s : State) (j : MagJob) (x : Super) (first pos : Nat) : Nat → List Byte → State
  | 0, _ => s
  | fuel + 1, data =>
    let n := min (256 - pos % 256) (data.length / 4096)
    if n = 0 then s
    else
      let (slot, lba) := chunkAt x.prot (setBits x.mask 4) first (pos / 256)
      (s.writeMeta (4 * j.target + slot) (.job j.id) (lba + pos % 256) (data.take (n * 4096))).repairWrites j x first (pos + n)
        fuel (data.drop (n * 4096))

/-- Recover one OPEN-only segment: its final index block, pad run, CLOSE entry and CLOSED block (R350). -/
def State.repairSeg (s : State) (j : MagJob) (x : Super) (q : TornSeg) : State :=
  let table := entryTable q.entry
  let start := (q.lastIndex.map (fun i => i.2 + 1)).getD 0
  let w := walkTail q table (q.stream.length / 4096 + 1) { pos := start }
  let e := match w.frames.getLast? with
    | some p => p.pos + p.blocks
    | none => start
  let first := leAt q.dir 28 4
  let no := (q.lastIndex.map (fun i => i.1 + 1)).getD 0
  let none64 := 0xFFFFFFFFFFFFFFFF
  let idx := if w.frames.isEmpty then [] else
    pmfBlock ([(0, leBytes 4 0x58494650), (4, leBytes 2 w.frames.length), (8, sliceBytes q.dir 8 16),
      (24, sliceBytes q.dir 24 4 ++ leBytes 4 no ++ leBytes 8 ((q.lastIndex.map (·.2)).getD none64))]
      ++ w.frames.zipIdx.map (fun p => (64 + 14 * p.2,
        leBytes 5 p.1.pos ++ leBytes 3 p.1.blocks ++ leBytes 4 p.1.frame ++ leBytes 1 p.1.stream ++ leBytes 1 p.1.flags)))
  let e' := e + idx.length / 4096
  let pads := if x.prot = 1 then (768 - e' % 768) % 768 else 0
  let pad := if pads = 0 then [] else
    pmfBlock [(0, leBytes 4 0x44415050), (4, leBytes 4 pads), (8, sliceBytes q.dir 8 16), (24, sliceBytes q.dir 24 4)]
      ++ List.replicate ((pads - 1) * 4096) 0
  let s := s.repairWrites j x first e 8 (idx ++ pad)
  let s := if x.prot = 1 ∧ (idx ++ pad) ≠ [] then
      let rs := e / 768 * 768
      let row := sliceBytes (q.stream.drop ((rs - q.base) * 4096)) 0 ((e - rs) * 4096) ++ idx ++ pad
      let (slot, lba) := parityAt first (rs / 256)
      s.writeMeta (4 * j.target + slot) (.job j.id) lba (rowParity row)
    else s
  let lastIx := if w.frames.isEmpty then (q.lastIndex.map (·.2)).getD none64 else e
  let frames := no * 256 + w.frames.length
  let last := match w.frames.getLast? with
    | some p => p.frame
    | none => table.foldl (fun n r => if r.2.1 = 0x100000000 then n else max n (r.2.1 - 1)) 0
  let ds := (slotsOf j.target).filter (fun d => (s.drive d).mode = .ready && (s.drive d).member)
  let seq := ds.foldl (fun n d => max n (s.drive d).media.journal) 0
  let entry := pmfBlock [(0, sliceBytes q.entry 0 4 ++ leBytes 8 seq ++ [4, 5]), (16, sliceBytes q.entry 16 44 ++ leBytes 8 e'
      ++ leBytes 8 lastIx ++ leBytes 4 last ++ [0xFF] ++ sliceBytes q.entry 81 1),
    (84, leBytes 4 frames ++ leBytes 8 s.time.tickNum ++ leBytes 8 s.linear),
    (128, (List.range (leAt q.entry 81 1)).flatMap (fun n =>
      let o := 128 + 56 * n
      let st := leAt q.entry o 1
      match w.last.get (0, []) st with
      | (0, _) => sliceBytes q.entry o 56
      | (f, c) => leBytes 1 st ++ List.replicate 3 0 ++ leBytes 4 (f - 1) ++ c))]
  let slot := leAt q.entry 52 4
  let cpc := if x.prot = 1 then 24 else 8 * popCount x.mask 4
  let claims := ceilDiv e' (cpc * 256)
  let dir := pmfBlock [(0, sliceBytes q.dir 0 4 ++ [2, 5] ++ leBytes 1 (leAt q.dir 6 1 % 2) ++ sliceBytes q.dir 7 25
      ++ leBytes 4 claims ++ sliceBytes q.dir 36 4 ++ leBytes 4 last ++ leBytes 8 e' ++ leBytes 8 lastIx ++ leBytes 8 none64
      ++ leBytes 8 none64 ++ leBytes 8 s.linear ++ leBytes 4 frames),
    (96, sliceBytes q.dir 96 16), (128, sliceBytes q.dir 128 64)]
  let s := ds.foldl (fun s d =>
    ((s.writeMeta d (.job j.id) (16 + seq) entry).writeMeta d (.job j.id) (262160 + 2 * slot + 1) dir).setDrive d (fun z =>
      { z with media := { z.media with
          journal := seq + 1, nextClaim := max z.media.nextClaim (first + claims), openSegs := z.media.openSegs - 1 } })) s
  s.setJob j.id (fun j => { j with count := j.count + w.frames.length, segs := j.segs + 1 })

/-- The walk has been read: each OPEN-only segment is closed; then the drives are flushed. -/
def State.repairStep (s : State) (j : MagJob) (r : DrvReply) : State :=
  let ds := (slotsOf j.target).filter (fun d => (s.drive d).mode = .ready)
  if j.failed then s.endJob j stUnitFailed []
  else if s.jobBusy j.id then s
  else match j.stage with
    | 0 =>
      match ds.findSome? (fun d => (s.drive d).super) with
      | some x =>
        let s := r.torn.foldl (fun s q => s.repairSeg j x q) s
        ds.foldl (fun s d => s.issue d (.job j.id) .flush 0 0 4 []) (s.setJob j.id (fun j => { j with stage := 1 }))
      | none => s.endJob j stPartial []
    | _ =>
      let s := s.setBay j.target (fun q => { q with content := 2 })
      let s := ds.foldl (fun s d => s.setDrive d (fun q => { q with media := { q.media with openSegs := 0 } })) s
      s.endJob j stDone [(16, 4, j.count), (20, 4, j.segs)]

def State.magRepair (s : State) (d : Desc) : State :=
  let b := tIndex d
  s.runCmd d 0x52 (fun s =>
    (s.check405 d (structOk d (tIs d 5 4) [] false) true (s.isSteward d) (s.modeIn [.standby, .operational]) none).orElse
      (fun _ => s.refuseIf (s.magHeld [b] || (s.bay b).mode ≠ .ready || decide ((s.bay b).content ≠ 3)))) (fun k s =>
    if !s.readable b then s.complete k stPartial
    else
      let id := s.mag.nextJob
      let s := s.startJob { id := id, opcode := 0x52, target := b, ticket := k }
      match (slotsOf b).find? (fun d => (s.drive d).mode = .ready) with
      | some d => s.issue d (.job id) .read 16 262144 4 []
      | none => s)

def execMagRepair (d : Desc) (s : State) : Host.Outcome State Fault Refusal := s.go (fun s => s.magRepair d)

/-! ### MAG_READ -/

/-- Read the next run of at most 1 MiB, or complete. -/
def State.readRun (s : State) (j : MagJob) : State :=
  if j.blocks ≤ j.done then s.endJob j stDone [(16, 4, j.done)]
  else s.issue j.slot (.job j.id) .read (j.lba + j.done) (min 256 (j.blocks - j.done)) 4 []

def State.magRead (s : State) (d : Desc) : State :=
  let b := tIndex d
  let slot := 4 * b + opAt d 8 1
  let blocks := opAt d 12 4
  s.runCmd d 0x54 (fun s =>
    let inRange := !(s.drive slot).mode.works
      || decide (opAt d 16 8 + blocks ≤ s.reg64 Reg.MBS_BLOCKS_LO Reg.MBS_BLOCKS_HI slot)
    (s.check405 d (structOk d (tIs d 5 4) [(8, 1), (12, 4), (16, 8), (24, 8)] false)
      (decide (opAt d 8 1 < 4) && decide (1 ≤ blocks) && decide (blocks ≤ 65536) && decide (opAt d 24 8 % 64 = 0) && inRange)
      true (s.modeIn [.standby, .operational]) none).orElse
      (fun _ => s.refuseIf (s.magHeld [b] || ((s.bay b).mode ≠ .ready && (s.bay b).mode ≠ .inUse)
        || !(s.drive slot).mode.works))) (fun k s =>
    let j : MagJob := { id := s.mag.nextJob, opcode := 0x54, target := b, ticket := k, slot := slot, lba := opAt d 16 8,
                        blocks := blocks, addr := opAt d 24 8 }
    (s.startJob j).readRun j)

def execMagRead (d : Desc) (s : State) : Host.Outcome State Fault Refusal := s.go (fun s => s.magRead d)

/-- A run has been read: it waits for the service reservation's jobs (R92, R323). -/
def State.readStep (s : State) (j : MagJob) (r : DrvReply) : State :=
  if j.failed || r.error then s.endJob j stUnitFailed [(16, 4, j.done)]
  else
    let n := min 256 (j.blocks - j.done) * 4096
    ((s.setJob j.id (fun j => { j with data := sliceBytes r.data 0 n })).addWork .service 8 0 n).addWork .service 9 0 n

/-- Move what the jobs of this tick allow of the runs that wait (R323). -/
def State.readMoves (s : State) : State :=
  s.mag.jobs.foldl (fun s j =>
    if j.failed then s.endJob j stUnitFailed [(16, 4, j.done)]
    else if j.opcode ≠ 0x54 ∨ j.data = [] then s
    else
      let n := min j.data.length (min (s.jobLeft .service 8 0) (s.jobLeft .service 9 0))
      let p := s.ringPort j.ticket.ring
      let off := min 256 (j.blocks - j.done) * 4096 - j.data.length
      let addr := j.addr + j.done * 4096 + off
      if n = 0 then s
      else if !s.ideOk p addr n then (s.hpEvt p 7).endJob j stSecurity [(16, 4, j.done)]
      else
        let s := ((s.hostWrite p addr (j.data.take n)).useJob .service 8 0 n).useJob .service 9 0 n
        let j' := { j with data := j.data.drop n, done := if n = j.data.length then j.done + (off + n) / 4096 else j.done }
        let s := s.setJob j.id (fun _ => j')
        if j'.data = [] then s.readRun j' else s) s

/-- A drive command of a magazine command has completed. -/
def State.jobStep (s : State) (id : Nat) (r : DrvReply) : State :=
  match s.mag.jobs.find? (fun j => decide (j.id = id)) with
  | none => s
  | some j => match j.opcode with
    | 0x51 => s.formatStep j
    | 0x52 => s.repairStep j r
    | 0x53 => s.sanitizeStep j
    | _ => s.readStep j r

/-- An NVMe command completes (R293, R294). -/
def execDriveCommandComplete (slot id : Nat) (r : DrvReply) (s : State) : Host.Outcome State Fault Refusal :=
  s.go (fun s => s.driveComplete slot id r State.jobStep)

end Sys2Proof.Machine
end

