-- ==== Sys2Proof/Machine/Spill.lean ====
section
/-! DEFINITION. The page manager beyond ingest: cache refills with the backlog policy, spill windows, and the pages of a
pseudo-channel that drains (R107, R238, R262–R269, R274, R319). -/

namespace Sys2Proof.Machine

/-! ### Caches and the backlog policy -/

/-- The policies of the recording rigs start at a crossing of the backlog watermark (R319). -/
def State.backlogStart (s : State) : State :=
  if s.store.backlogDue then (s.setStore (fun q => { q with backlogDue := false })).backlog else s

/-- A stream's page cache at 16 pages or fewer is refilled (R238). -/
def execPageCacheRefill (st : Nat) (s : State) : Host.Outcome State Fault Refusal := s.go (fun s => (s.refill st).backlogStart)

/-! ### What movers share (R418, R419, R446) -/

def State.setMover (s : State) (f : MoverState → MoverState) : State := { s with mover := f s.mover }
/-- ACTIVE movers that hold no work in this tick. -/
def State.idleMovers (s : State) : List Nat :=
  (List.range 64).filter (fun m => s.unitActive 0x0E m && decide ((s.mover.movers.get ({} : MoverSt) m).run = 0))

/-- The first mover for work that is not a subscription's. -/
def State.spareMover (s : State) : Nat :=
  (s.idleMovers ++ (List.range 64).filter (fun m => s.unitActive 0x0E m)).head?.getD 0

/-- The work descriptor of a mover: the subscription or channel, and DESC_NO (R446). -/
def MoverSt.workId (v : MoverSt) : Word := BitVec.ofNat 32 (v.id * 2 ^ 24 + v.descNo % 2 ^ 24)

/-- Latch an error of a mover, with its work descriptor; further ones are only counted until VALID is cleared (R446). -/
def State.moverErr (s : State) (m port src index : Nat) (write : Bool) (kind addr : Nat) : State :=
  let s := s.count Reg.MV_ERR_CNT m
  if bit (s.reg Reg.MV_ERR_INFO m) 31 then s
  else
    ((s.setReg Reg.MV_WORK_ID m 0 (s.mover.movers.get ({} : MoverSt) m).workId).setReg Reg.MV_ERR_INFO m 0 (BitVec.ofNat 32 (2 ^ 31 + port * 2 ^ 26 + src * 2 ^ 24 + index % 1024 * 2 ^ 12
      + b2n write * 2 ^ 8 + kind))).set64 Reg.MV_ERR_ADDR_LO Reg.MV_ERR_ADDR_HI m addr

/-- The read requests of `n` bytes at an address: none above Max Read Request Size, none across 4 KiB (R355, R438). -/
def readRequests (p addr n : Nat) : Nat :=
  if n = 0 then 0
  else
    let m := max 128 (Config.maxRead p)
    let first := min n (4096 - addr % 4096)
    let rest := n - first
    ceilDiv first m + rest / 4096 * ceilDiv 4096 m + ceilDiv (rest % 4096) m

/-- A mover issues read requests: at most 256 of its own outstanding, and 4,096 of the port; the others wait (R419). DESIGN
CHOICE (log 129): the completions of a tick's reads have come by the next boundary. -/
def State.moverReads (s : State) (m p addr n : Nat) : State :=
  let want := readRequests p addr n
  let v := s.mover.movers.get ({} : MoverSt) m
  let onPort := s.mover.movers.foldl (fun k e => if e.2.readPort = p then k + e.2.outstanding else k) 0
  let now := min want (min (256 - v.outstanding) (4096 - onPort))
  s.setMover (fun q => { q with movers := q.movers.upd {} m (fun v => { v with
    outstanding := v.outstanding + now, readPort := p, readWait := v.readWait + (want - now) }) })

/-- A mover carries `n` bytes of a window's page-out or page-in (R446). -/
def State.spillMover (s : State) (m w n : Nat) : State :=
  (s.setMover (fun q => { q with movers := q.movers.upd {} m (fun v => { v with work := 3, run := 1, id := 0, descNo := 0, ring := w }) })).add64
    Reg.MV_BYTES_LO Reg.MV_BYTES_HI m n

/-! ### Spill windows (R262–R268) -/

def State.spw (s : State) (w : Nat) : SpwSt := s.store.spws.get {} w
def State.setSpw (s : State) (w : Nat) (f : SpwSt → SpwSt) : State := s.setStore (fun q => { q with spws := q.spws.upd {} w f })
def State.spwOn (s : State) (w : Nat) : Bool := bit (s.act Reg.SPW_CTRL w) 0 && !(s.spw w).failed
def State.spwPort (s : State) (w : Nat) : Nat := s.actF Reg.SPW_CTRL w 5 4
def State.spwBase (s : State) (w : Nat) : Nat :=
  match (s.spw w).old with
  | some (_, b) => b
  | none => (s.act Reg.SPW_BASE_LO w).toNat + 2 ^ 32 * (s.act Reg.SPW_BASE_HI w).toNat
/-- The port whose memory a window's frames lie in. -/
def State.spwAt (s : State) (w : Nat) : Nat := ((s.spw w).old.map (·.1)).getD (s.spwPort w)

/-- The lowest `n` free pages of a window. -/
def State.spwFree (s : State) (w n : Nat) : List Nat :=
  let used := (s.spw w).used
  let cand := (List.range (used.length + n)).filter (fun p => !used.contains p)
  if used.length + n ≤ (s.act Reg.SPW_PAGES w).toNat then cand.take n else []

/-- The port that alone still wants a frame, and a window of it with room (R263). -/
def State.spillTo (s : State) (f : FrameSt) : Option Nat :=
  let h := f.hold
  let ports := (h.subs.map (fun k => s.actF Reg.SUB_CTRL k 29 28)).eraseDups
  let n := framePages f.latch f.stream + 1
  match ports with
  | [p] =>
    if f.phase = .closed && decide (f.loc = .resident) && !h.preview && !h.sealing && !h.record && !h.preroll && !h.burst
        && h.subs.all (fun k => !s.subLossy k) && !s.mover.dlv.any (fun x => decide (x.frame = some f.id)) then
      (List.range 16).find? (fun w => s.spwOn w && (s.spw w).old.isNone && decide (s.spwPort w = p)
        && (s.spwFree w n).length = n)
    else none
  | _ => none

/-- The frame that is spilled next: lowest CLOSE_TICK, then lowest stream, of those a rule of R264 asks for. -/
def State.spillNext (s : State) : Option (FrameSt × Nat) :=
  let age := s.actF Reg.STORE_CTRL 0 31 16
  let asked := fun (f : FrameSt) => s.store.belowSpill || (f.deferred && decide (age ≠ 0) &&
    decide (f.closeTick + age < s.time.tickNum))
  let cand := s.store.frames.filterMap (fun f => if asked f then (s.spillTo f).map (fun w => (f, w)) else none)
  match cand with
  | [] => none
  | x :: l => some (l.foldl (fun a b =>
      if b.1.closeTick < a.1.closeTick ∨ (b.1.closeTick = a.1.closeTick ∧ b.1.stream < a.1.stream) then b else a) x)

/-- A page-out starts: it takes its window pages, and its bytes wait for the spill reservation's jobs (R264, R265). -/
def State.spillPageOut (s : State) : State :=
  if !bit (s.act Reg.STORE_CTRL) 1 || s.store.recovery.isSome then s
  else
    match s.spillNext with
    | none => s
    | some (f, w) =>
      let n := framePages f.latch f.stream
      let ps := s.spwFree w (n + 1)
      let bytes := 65536 * n + 20480
      let s := (s.setSpw w (fun q => { q with used := sortNat (q.used ++ ps) })).setFrame f.id (fun f => { f with
        loc := .pagingOut w ps })
      let s := { s with mover := { s.mover with spills := s.mover.spills ++ [{ id := f.id, window := w, left := bytes }] } }
      ([(6, s.spwPort w), (8, 0), (9, 0)] : List (Nat × Nat)).foldl (fun s x => s.addWork (.spill w) x.1 x.2 bytes) s

def execSpillPageOut (s : State) : Host.Outcome State Fault Refusal := s.go (fun s => s.spillPageOut)

/-- The writes of a page-out by a mover, and its closing read of the last bytes written. -/
def State.pageOutWrites (s : State) (m : Nat) (f : FrameSt) (w : Nat) (ps : List Nat) : State :=
  let s := match f.slot with
    | some i => s.slotBytes i true true
    | none => s
  let s := s.readBytes f 0 (frameBytes f.latch f.stream)
  let p := s.spwPort w
  let base := s.spwBase w
  let at_ := fun (i : Nat) => base + 65536 * ps.getD i 0
  let rec0 := patchBytes f.record 128 (leBytes 4 ((BitVec.ofNat 32 (leAt f.record 128 4)) ||| (0x100 : Word)).toNat)
  let s := (s.hostWrite p (at_ 0) rec0).hostWrite p (at_ 0 + 4096) f.block
  let n := framePages f.latch f.stream
  let s := (List.range n).foldl (fun (s : State) i =>
    s.hostWrite p (at_ (i + 1)) (s.getPayload f (65536 * i) (min 65536 (frameBytes f.latch f.stream - 65536 * i)))) s
  (s.moverReads m p (at_ n) 64).emit (.hostRead p (at_ n) 64)

def State.dropSpill (s : State) (id : Nat) : State :=
  { s with mover := { s.mover with spills := s.mover.spills.filter (fun x => decide (x.id ≠ id)) } }

/-- A write or the closing read of a window's page-out fails (R268). -/
def State.spillFail (s : State) (w : Nat) : State :=
  match s.mover.spills.find? (fun x => decide (x.window = w)) with
  | none => s
  | some x =>
    let s := s.dropSpill x.id
    let ps := match (s.frame? x.id).map (·.loc) with
      | some (.pagingOut _ ps) => ps
      | _ => []
    let s := s.setFrame x.id (fun f => { f with loc := .resident })
    let s := s.setSpw w (fun q => { q with failed := true, used := q.used.filter (fun p => !ps.contains p) })
    (s.storeEvt [5]).count Reg.STORE_SPILL_FAIL_CNT

/-- Jobs of a tick cover bytes of page-outs; one that is covered writes, and issues its closing read (R265). A
window that IDE blocks fails (R367). -/
def State.spillMoves (s : State) : State :=
  s.mover.spills.foldl (fun s x =>
    let a := Act.spill x.window
    let p := s.spwPort x.window
    let n := min x.left (min (s.jobLeft a 6 p) (min (s.jobLeft a 8 0) (s.jobLeft a 9 0)))
    if x.reading ∨ n = 0 then s
    else
      let m := s.spareMover
      let s := (((s.useJob a 6 p n).useJob a 8 0 n).useJob a 9 0 n).spillMover m x.window n
      let done := decide (n = x.left)
      let upd := fun (y : SpillOp) => if y.id = x.id then { y with left := y.left - n, reading := done } else y
      let s : State := { s with mover := { s.mover with spills := s.mover.spills.map upd } }
      match done, s.frame? x.id with
      | true, some f => match f.loc with
        | .pagingOut w ps =>
          if bit (s.act Reg.HP_CTRL p) 16 && ps.any (fun i => !s.ideOk p (s.spwBase w + 65536 * i) 65536) then
            (s.hpEvt p 7).spillFail w
          else s.pageOutWrites m f w ps
        | _ => s
      | _, _ => s) s

/-- A frame's SPILLED flag in its resident record. -/
def FrameSt.spillFlag (f : FrameSt) (on : Bool) : FrameSt :=
  let st := if on then f.status ||| 0x100 else f.status &&& ~~~ (0x100 : Word)
  let w := BitVec.ofNat 32 (leAt f.record 128 4)
  { f with status := st,
           record := patchBytes f.record 128 (leBytes 4 (if on then w ||| 0x100 else w &&& ~~~ (0x100 : Word)).toNat) }

/-- The closing read of a window's oldest page-out completes (R265). -/
def State.spillOutDone (s : State) (w : Nat) : State :=
  match s.mover.spills.find? (fun x => decide (x.window = w) && x.reading) with
  | none => s
  | some x =>
    let s := s.dropSpill x.id
    match s.frame? x.id with
    | none => s
    | some f => match f.loc with
      | .pagingOut w ps =>
        (s.count Reg.STORE_SPILL_OUT_CNT).setFrame x.id (fun f => { f.spillFlag true with
          loc := .spilled w ps, freeAt := some (s.time.tickNum + 1) })
      | _ => s

def execSpillPageOutDone (w : Nat) (s : State) : Host.Outcome State Fault Refusal := s.go (fun s => s.spillOutDone w)

def execSpillFail (w : Nat) (s : State) : Host.Outcome State Fault Refusal := s.go (fun s => s.spillFail w)

/-- Frames of a window that a commit took away are paged in, oldest first (R267). -/
def State.spilledIn (s : State) (w : Nat) : List FrameSt :=
  let l := s.store.frames.filter (fun f => match f.loc with
    | .spilled v _ => decide (v = w)
    | _ => false)
  l.foldl (fun a f => a.filter (fun g => decide (g.closeTick ≤ f.closeTick)) ++ [f]
    ++ a.filter (fun g => decide (f.closeTick < g.closeTick))) []

/-- Take `n` pages from the free lists; the watermarks are compared at each (R269). -/
def State.takePages (s : State) : Nat → List Nat → Option (List Nat × State)
  | 0, got => some (got, s)
  | n + 1, got =>
    match s.allocPage with
    | some (p, s') => s'.watermarks.takePages n (got ++ [p])
    | none => none

/-- The window is empty again: the host may have its memory back. -/
def State.windowDone (s : State) (w : Nat) : State :=
  if (s.spw w).old.isSome ∧ (s.spw w).used = [] then
    (s.setSpw w (fun q => { q with old := none })).storeEvt [6] else s

/-- Page a frame in, with the bytes its window holds, or abandon it for want of pages. -/
def State.spillPageIn (s : State) (w : Nat) (data : List Byte) : State :=
  if (s.spw w).old.isNone then s
  else
    match (s.spilledIn w).head? with
    | none => s.windowDone w
    | some f =>
      let ps := match f.loc with
        | .spilled _ ps => ps
        | _ => []
      let n := framePages f.latch f.stream
      let bytes := sliceBytes data 0 (frameBytes f.latch f.stream)
      let release := fun (s : State) => s.setSpw w (fun q => { q with used := q.used.filter (fun p => !ps.contains p) })
      match s.takePages n [] with
      | none =>
        let s := f.hold.subs.foldl (fun s k => s.releaseIf f.id (16 + k)) (s.storeEvt [5])
        let s := (release s).setFrame f.id (fun f => { f with loc := .resident })
        (s.count Reg.STORE_SPILL_FAIL_CNT).windowDone w
      | some (got, s) =>
        let m := s.spareMover
        let s := ps.foldl (fun s q =>
          ((s.moverReads m (s.spwAt w) (s.spwBase w + 65536 * q) 65536).emit
            (.hostRead (s.spwAt w) (s.spwBase w + 65536 * q) 65536)).hostReadCount (s.spwAt w) 65536) (s.spillMover m w (65536 * ps.length))
        let s := s.setFrame f.id (fun f => { f.spillFlag false with
          pages := (List.range n).foldl (fun t i => Tab.put 0 t i (got.getD i 0 + 1)) [], loc := .resident, pagesOut := false })
        let s := s.putPayload f.id 0 bytes
        ((release s).count Reg.STORE_SPILL_IN_CNT).windowDone w

def execSpillPageIn (w : Nat) (data : List Byte) (s : State) : Host.Outcome State Fault Refusal := s.go (fun s => (s.spillPageIn w data).backlogStart)

/-- A commit disables or moves windows that hold frames, and re-arms those whose SPW_CTRL it writes (R267, R268). -/
def State.spillCommit (s : State) (before : RegSet) : State :=
  (List.range 16).foldl (fun s w =>
    let c := before.val Reg.SPW_CTRL w
    let base := (before.val Reg.SPW_BASE_LO w).toNat + 2 ^ 32 * (before.val Reg.SPW_BASE_HI w).toNat
    let moved := decide (c ≠ s.act Reg.SPW_CTRL w) || decide (base ≠ (s.act Reg.SPW_BASE_LO w).toNat
      + 2 ^ 32 * (s.act Reg.SPW_BASE_HI w).toNat) || decide (before.val Reg.SPW_PAGES w ≠ s.act Reg.SPW_PAGES w)
    let s := if c ≠ s.act Reg.SPW_CTRL w then s.setSpw w (fun q => { q with failed := false }) else s
    if moved && bit c 0 && !(s.spw w).used.isEmpty && (s.spw w).old.isNone then
      -- page-outs that still run end as if they had not begun
      let s := (s.mover.spills.filter (fun x => decide (x.window = w))).foldl (fun s x =>
        let ps := match (s.frame? x.id).map (·.loc) with
          | some (.pagingOut _ ps) => ps
          | _ => []
        ((s.dropSpill x.id).setFrame x.id (fun f => { f with loc := .resident })).setSpw w (fun q => { q with
          used := q.used.filter (fun p => !ps.contains p) })) s
      s.setSpw w (fun q => { q with old := if q.used = [] then none else some (fld c 5 4, base) })
    else s) s

/-- A host port's windows are dropped without page-in, and read FAILED (R255, R361). -/
def State.spillDrop (s : State) (p : Nat) : State :=
  (List.range 16).foldl (fun s w =>
    let s := if s.spwPort w = p ∧ bit (s.act Reg.SPW_CTRL w) 0 then s.setSpw w (fun q => { q with failed := true }) else s
    if s.spwAt w = p ∧ (s.spw w).used ≠ [] then
      let s := (s.mover.spills.filter (fun x => decide (x.window = w))).foldl (fun s x =>
        (s.dropSpill x.id).setFrame x.id (fun f => { f with loc := .resident })) s
      let s := (s.spilledIn w).foldl (fun s f =>
        (f.hold.subs.foldl (fun s k => s.releaseIf f.id (16 + k)) s).setFrame f.id (fun f => { f with loc := .resident })) s
      s.setSpw w (fun q => { q with used := [], old := none })
    else s) s

/-! ### A pseudo-channel that drains (R274) -/

/-- Move one live page of a closed frame from a pseudo-channel to another. -/
def State.movePage (s : State) (c : Nat) : Option State :=
  let hit := s.store.frames.findSome? (fun f => if f.phase = .closed && !f.pagesOut then
      f.pages.findSome? (fun e => if (e.2 - 1) % 128 = c then some (f, e.1, e.2 - 1) else none) else none)
  match hit with
  | none => none
  | some (f, k, p) =>
    match s.allocPage with
    | none => none
    | some (q, s) =>
      let s : State := { s with hbm := hbmWrite s.hbm (q * 65536) (hbmRead s.hbm (p * 65536) 65536) }
      some ((s.setFrame f.id (fun f => { f with pages := f.pages.put 0 k (q + 1) })).freePage p)

def State.movePages (s : State) (c : Nat) : Nat → State
  | 0 => s
  | n + 1 =>
    if s.jobLeft .service 8 0 < 65536 ∨ s.jobLeft .service 9 0 < 65536 then s
    else
      match s.movePage c with
      | some s => ((s.useJob .service 8 0 65536).useJob .service 9 0 65536).movePages c n
      | none => s

/-- How many pages of closed frames lie in a pseudo-channel. -/
def State.livePages (s : State) (c : Nat) : Nat :=
  s.store.frames.foldl (fun n f => if f.phase = .closed && !f.pagesOut then
    n + (f.pages.filter (fun e => decide ((e.2 - 1) % 128 = c))).length else n) 0

/-- At a boundary, draining pseudo-channels ask for work, move what jobs allow, and move their table slices. -/
def State.drainPages (s : State) : State :=
  (List.range 128).foldl (fun s c =>
    if s.unitCode 0x0F c ≠ 3 then s
    else
      let s := s.movePages c 64
      let need := 65536 * s.livePages c
      let s := (s.setWork .service 8 0 (max need (s.pendingWork .service 8 0))).setWork .service 9 0
        (max need (s.pendingWork .service 9 0))
      if (s.store.pcs.get {} c).moved = [] then
        match s.takePages 1024 [] with
        | some (ps, s) => s.setStore (fun q => { q with pcs := q.pcs.upd {} c (fun x => { x with moved := ps }) })
        | none => s
      else s) s

/-- A pseudo-channel holds no live page, and its table slice has moved. -/
def State.pcDrained (s : State) (c : Nat) : Bool :=
  decide ((s.store.pcs.get {} c).live = 0) && !(s.store.pcs.get {} c).moved.isEmpty

/-- A pseudo-channel returns to ACTIVE: its table slice moves back and the 1,024 pages return. -/
def State.pcReturned (s : State) (c : Nat) : State :=
  let ps := (s.store.pcs.get {} c).moved
  ps.foldl (fun s p => s.freePage p) (s.setStore (fun q => { q with pcs := q.pcs.upd {} c (fun x => { x with moved := [] }) }))

end Sys2Proof.Machine
end

