-- ==== Sys2Proof/Machine/RigModes.lean ====
section
/-! DEFINITION. Rig modes: the rig-mode commands, the mode-change boundary, takes and bursts (R37–R43, R71, R91, R256–R260,
R409, R412, R475, R499, R500, R634). -/

namespace Sys2Proof.Machine

/-! ### Modes -/

/-- Byte 18 of RIG_MODE (R415). -/
def RigCause.code : RigCause → Nat
  | .command op => op
  | .trigger => 0x16
  | .countReached => 0xF0
  | .drained => 0xF1
  | .takeEnd _ => 0xF2
  | .left => 0xF3

/-- The modes a transition starts from (R38). -/
def rigLegal (cause : Nat) (m : RigMode) : Bool :=
  match cause with
  | 0x10 => m = .idle
  | 0x11 | 0x14 | 0x16 => m = .live || m = .armed
  | 0x12 | 0x19 => m = .live
  | 0x13 => m = .armed
  | 0x15 | 0xF2 => m = .record
  | 0x17 | 0xF0 => m = .burst
  | 0x18 | 0xF1 => m = .offload
  | 0x1A => m = .calibrate
  | _ => false

/-- What a command that leaves a mode releases at its boundary (R91). -/
def State.leavesWith (s : State) (r op : Nat) (a : Act) : Bool :=
  match a with
  | .stream st => decide (op = 0x11) && decide (s.streamRig st = r)
  | .preroll k => (op = 0x11 || op = 0x13 || op = 0x16) && decide (k = r)
  | .burst k => (op = 0x11 || op = 0x18 || op = 0xF1) && decide (k = r)
  | .offload k _ => (op = 0x18 || op = 0xF1) && decide (k = r)
  | _ => false

/-- Reservations of a rig that stand now leave at the boundary of a change taken now; those admitted later stay (R38, R91, R96). -/
def State.markLeaving (s : State) (r op : Nat) (on : Bool) : State :=
  s.setPlan (fun p => { p with resvs := p.resvs.map (fun x => if s.leavesWith r op x.act then { x with leaving := on } else x) })

/-- At the boundary, those that leave go. -/
def State.dropLeaving (s : State) (r op : Nat) : State :=
  let gone := fun (x : Resv) => x.leaving && s.leavesWith r op x.act
  let past := fun (a : Act) => s.plan.resvs.any (fun x => decide (x.act = a) && gone x)
    && !s.plan.resvs.any (fun x => decide (x.act = a) && !gone x)
  s.setPlan (fun p => { p with
    resvs := p.resvs.filter (fun x => !gone x), work := p.work.filter (fun w => !past w.act),
    jobs := p.jobs.filter (fun j => !past j.act) })

/-- A rig changes mode, and RIG_MODE is posted with the first frame exposing from the boundary on. -/
def State.enterRig (s : State) (r : Nat) (dest : RigMode) (cause first : Nat) : State :=
  let old := s.rigMode r
  (s.setRig r (fun q => { q with
    mode := dest, prev := old, cause := cause, changes := satAdd 0xFF q.changes 1 })).post 1 0x10 (target 1 r)
      [(16, 1, dest.code), (17, 1, old.code), (18, 1, cause), (20, 4, first)]

/-- The mode that the commands already taken leave, and the mode a take then returns to (R409). -/
def State.projRig (s : State) (r : Nat) : RigMode × RigMode :=
  s.dev.bound.foldl (fun a b =>
    match b.kind with
    | .rig k (.command op) dest _ _ _ _ =>
      if k = r then (dest, if op = 0x14 then (if a.1 = .armed then .armed else .live) else a.2) else a
    | _ => a) (s.rigMode r, (s.rig r).back)

/-- The present boundary in 2^−16 ns of device time. -/
def State.boundaryTime (s : State) : Int := (s.time.tickStart / 2 ^ 32 : Nat)
/-- The first frame of a rig that exposes at or after the present boundary. -/
def State.firstNow (s : State) (r : Nat) : Nat := s.firstAt r s.boundaryTime

/-! ### Take keys (R499, R500) -/

/-- "PARURA TAKE KEY", 0x00. -/
def takeKeyLabel : List Byte :=
  [0x50, 0x41, 0x52, 0x55, 0x52, 0x41, 0x20, 0x54, 0x41, 0x4B, 0x45, 0x20, 0x4B, 0x45, 0x59, 0x00]
/-- "PARURA OWK ID". -/
def owkIdLabel : List Byte := [0x50, 0x41, 0x52, 0x55, 0x52, 0x41, 0x20, 0x4F, 0x57, 0x4B, 0x20, 0x49, 0x44]
def owkIdOf (owk : List Byte) : List Byte := sha384 (owkIdLabel ++ owk)

/-- TK of a take ID. -/
def takeKeyOf (owk : List Byte) (id : Nat) : List Byte :=
  [1, 2].flatMap (fun i => beBytes 16 (Config.cmac owk (leBytes 1 i ++ takeKeyLabel ++ leBytes 16 id ++ [1, 0])).toNat)

/-- A SECURITY_ALERT, its bit of SEC_EVENTS and its log entry (R521, R574). -/
def State.secAlert (s : State) (bitNo kind : Nat) (pl : List (Nat × Nat × Nat)) : State :=
  ((s.setEvt Reg.SEC_EVENTS 0 bitNo).post 10 0x68 0 ([(16, 1, kind)] ++ pl)).logEntry 0x40 0
    (leAt (payload ([(16, 1, kind)] ++ pl)) 0 4)

/-- Take-start seconds: device time at the mode-change boundary of a command taken now. -/
def State.takeSecs (s : State) : Nat := (s.startOfTick (s.time.tickNum + 2)).toNat / 65536 / 1000000000

/-- A take's (seconds, sequence) pair is not above the floor. -/
def State.underFloor (s : State) (secs seq : Nat) : Bool :=
  decide (secs < s.sec.floorSecs) || (decide (secs = s.sec.floorSecs) && decide (seq ≤ s.sec.floorSeq))

/-- Make a take: its ID, its key, the floor and the count of takes. -/
def State.makeTake (s : State) (r secs seq : Nat) (burst fromArmed : Bool) (post entry : Nat) : State :=
  let owk := s.sec.owk.getD []
  let t : Take := { id := s.takes.nextTake, rig := r, burst := burst, seq := seq, secs := secs, first := 0, live := 0,
                    streams := s.rigStreams r, fromArmed := fromArmed, entry := entry, post := post }
  let tk := takeKeyOf owk t.idNum
  let t := { t with key := tk, wrapped := Config.keyWrap owk tk, owkId := owkIdOf owk }
  { s with
    takes := { s.takes with
      takes := s.takes.takes.filter (fun x => decide (x.rig ≠ r) || !x.closed ||
        s.store.frames.any (fun f => decide (f.take = some x.id))) ++ [t],
      nextTake := s.takes.nextTake + 1, started := s.takes.started + 1 },
    sec := { s.sec with floorSecs := secs, floorSeq := seq } }

/-! ### Commands (R39, R41, R409, R411, R412) -/

/-- Queue a rig-mode command for its boundary. -/
def State.queueRig (s : State) (k : Ticket) (r op : Nat) (dest : RigMode) (pre post take list : Nat) : State :=
  (s.markLeaving r op true).pushBound ⟨s.time.tickNum + 2, some k, .rig r (.command op) dest pre post take list⟩

/-- A rig-mode command: the checks of R405 against the projected mode, its own, and its body. -/
def State.rigCmd (s : State) (d : Desc) (op : Nat) (used : List (Nat × Nat)) (operands : Bool) (own : State → Refuse)
    (body : Ticket → State → State) : State :=
  let r := tIndex d
  s.runCmd d op (fun s =>
    (s.check405 d (structOk d (tIs d 1 16) used false) operands (s.isCtl d r)
      (s.modeIn [.operational] && rigLegal op (s.projRig r).1) (some r)).orElse (fun _ => own s)) body

/-- A command that needs no admission. -/
def State.rigPlain (s : State) (d : Desc) (op : Nat) (dest : State → RigMode) : State :=
  s.rigCmd d op [] true (fun _ => none) (fun k s => s.queueRig k (tIndex d) op (dest s) 0 0 0 0)

/-- Refuse what the planner does not accept (R95). -/
def State.admitRefuse (s : State) (acts : List (Act × Cls)) : Refuse :=
  match (s.admission acts).2 with
  | some (x, mask) => some (stNoResource, refusal x mask)
  | none => none
def State.admitted (s : State) (acts : List (Act × Cls)) : State := s.addResvs (s.admission acts).1 (s.time.tickNum + 2)

/-- The activities of RIG_START: every stream, and the burst allotment where RIG_TRIG.BURST_EN is set (R91, R475). -/
def State.startActs (s : State) (r : Nat) : List (Act × Cls) :=
  (s.rigStreams r).map (fun st => (.stream st, .a))
    ++ (if bit (s.act Reg.RIG_TRIG r) 8 && !s.plan.resvs.any (fun x => decide (x.act = .burst r) && !x.leaving) then [(.burst r, .a)] else [])

def execRigStart (d : Desc) (s : State) : Host.Outcome State Fault Refusal :=
  let r := tIndex d
  s.go (fun s => s.rigCmd d 0x10 [] true (fun s =>
    if (s.rigStreams r).any (fun st => (s.hl (s.streamLink st)).mode ≠ .up) then some (s.wrongState (some r))
    else s.admitRefuse (s.startActs r)) (fun k s => (s.admitted (s.startActs r)).queueRig k r 0x10 .live 0 0 0 0))

def execRigStop (d : Desc) (s : State) : Host.Outcome State Fault Refusal := s.go (fun s => s.rigPlain d 0x11 (fun _ => .idle))

def execRigArm (d : Desc) (s : State) : Host.Outcome State Fault Refusal :=
  let r := tIndex d
  s.go (fun s => s.rigCmd d 0x12 [] true (fun s => s.admitRefuse [(.preroll r, .a)])
    (fun k s => (s.admitted [(.preroll r, .a)]).queueRig k r 0x12 .armed 0 0 0 0))

def execRigDisarm (d : Desc) (s : State) : Host.Outcome State Fault Refusal := s.go (fun s => s.rigPlain d 0x13 (fun _ => .live))

/-- The set that TAKE_START names, and what the take reserves. -/
def State.takeSet (s : State) (d : Desc) : Nat :=
  let e := opAt d 10 1
  s.actF Reg.RREC_CTRL (tIndex d) (19 + 4 * e) (16 + 4 * e)
def State.takeActs (s : State) (r m : Nat) : List (Act × Cls) :=
  (s.rigStreams r).map (fun st => (Act.record st m, Cls.b)) ++ (s.rigStreams r).map (fun st => (Act.seal st, Cls.b))

/-- SEQUENCE, with 0 for the number of takes started plus 1 (R412). -/
def State.seqOf (s : State) (n : Nat) : Nat := if n = 0 then s.takes.started + 1 else n

/-- TAKE_START (R303, R412, R500). -/
def State.takeStart (s : State) (d : Desc) : State :=
  let r := tIndex d
  let m := s.takeSet d
  let seq := s.seqOf (opAt d 12 4)
  let sts := s.rigStreams r
  let q := sts.foldl (fun n st => n + rateTerm s.activeSet r (magBytes s.activeSet st)) 0
  let low := (setDrives s.magSet m).headD 0
  s.rigCmd d 0x14 [(8, 2), (10, 1), (12, 4)] (decide (opAt d 10 1 < 4)) (fun s =>
    if decide (0 < opAt d 8 2) && decide ((s.projRig r).1 = .live) then some (s.wrongState (some r)) else none) (fun k s =>
      if s.underFloor s.takeSecs seq then (s.secAlert 8 5 [(17, 1, r)]).complete k stSecurity
      else if decide (8 ≤ m) || !s.eligible m (s.leadBytes r q 2) then
        s.complete k stNoResource [(16, 1, 5), (17, 2, low), (29, 2, 0x20)]
      else match s.admitRefuse (s.takeActs r m) with
        | some (st, pl) => s.complete k st pl
        | none =>
          let armed := decide ((s.projRig r).1 = .armed)
          let id := s.takes.nextTake
          ((s.admitted (s.takeActs r m)).makeTake r s.takeSecs seq false armed 0 (opAt d 10 1)).queueRig k r 0x14 .record
            (opAt d 8 2) 0 id m)

def execTakeStart (d : Desc) (s : State) : Host.Outcome State Fault Refusal := s.go (fun s => s.takeStart d)

def execTakeStop (d : Desc) (s : State) : Host.Outcome State Fault Refusal :=
  s.go (fun s => s.rigPlain d 0x15 (fun s => (s.projRig (tIndex d)).2))

/-- The allotment, where it is not held already. -/
def State.burstActs (s : State) (r : Nat) : List (Act × Cls) :=
  if s.plan.resvs.any (fun x => decide (x.act = .burst r) && x.until_.isNone && !x.leaving) then [] else [(.burst r, .a)]

/-- BURST_START (R38, R412, R500). -/
def State.burstStart (s : State) (d : Desc) : State :=
  let r := tIndex d
  s.rigCmd d 0x16 [(8, 2), (12, 4)] true (fun s =>
    if decide (0 < opAt d 8 2) && decide ((s.projRig r).1 = .live) then some (s.wrongState (some r))
    else none) (fun k s =>
      if s.underFloor s.takeSecs (s.seqOf 0) then (s.secAlert 8 5 [(17, 1, r)]).complete k stSecurity
      else match s.admitRefuse (s.burstActs r) with
        | some (st, pl) => s.complete k st pl
        | none =>
          let armed := decide ((s.projRig r).1 = .armed)
          let id := s.takes.nextTake
          ((s.admitted (s.burstActs r)).makeTake r s.takeSecs (s.seqOf 0) true armed (opAt d 12 4) 0).queueRig k r 0x16 .burst
            (opAt d 8 2) (opAt d 12 4) id 0xFF)

def execBurstStart (d : Desc) (s : State) : Host.Outcome State Fault Refusal := s.go (fun s => s.burstStart d)

def execBurstStop (d : Desc) (s : State) : Host.Outcome State Fault Refusal := s.go (fun s => s.rigPlain d 0x17 (fun _ => .offload))
def execOffloadAbort (d : Desc) (s : State) : Host.Outcome State Fault Refusal := s.go (fun s => s.rigPlain d 0x18 (fun _ => .live))
def execCalStart (d : Desc) (s : State) : Host.Outcome State Fault Refusal := s.go (fun s => s.rigPlain d 0x19 (fun _ => .calibrate))
def execCalStop (d : Desc) (s : State) : Host.Outcome State Fault Refusal := s.go (fun s => s.rigPlain d 0x1A (fun _ => .live))

/-- An event of a rig's burst source: a burst trigger, or ignored and counted (R475, R500). -/
def State.burstEvent (s : State) (r : Nat) : State :=
  let m := s.rigMode r
  let ignore := fun (s : State) => s.count Reg.RIG_BURST_IGN_CNT r
  let queued := s.dev.bound.any (fun b => match b.kind with
    | .rig k .trigger _ _ _ _ _ => decide (k = r)
    | _ => false)
  if !bit (s.reg Reg.RIG_TRIG_STATUS r) 0 || (m ≠ .live && m ≠ .armed) || queued
      || !rigLegal 0x16 (s.projRig r).1 || s.dev.mode ≠ .operational then ignore s
  else if s.underFloor s.takeSecs (s.seqOf 0) then (ignore s).secAlert 8 5 [(17, 1, r)]
  else
    let post := (s.act Reg.RIG_TRIG_POST r).toNat
    let pre := if m = .live then 0 else s.actF Reg.RIG_TRIG_PRE r 15 0
    let id := s.takes.nextTake
    ((s.makeTake r s.takeSecs (s.seqOf 0) true (decide (m = .armed)) post 0).markLeaving r 0x16 true).pushBound
      ⟨s.time.tickNum + 2, none, .rig r .trigger .burst pre post id 0xFF⟩

/-! ### What happens at the boundary -/

/-- The ring stops, and its holders release (R255). -/
def State.ringStop (s : State) (r : Nat) : State :=
  (s.releaseAll 3 (fun f => decide (f.rig = r))).setRun r (fun q => { q with ring := none })

/-- A rig enters IDLE: its streams leave LOST and start afresh (R189, R190, R242). -/
def State.streamsIdle (s : State) (r : Nat) : State :=
  (List.range 64).foldl (fun s st =>
    if s.streamOn st && decide (s.streamRig st = r) then
      s.setStream st (fun q => { q with lost := false, consec := 0, history := [] })
    else s) s

/-- The lanes of a stopped rig's links with MARGIN_LOW retrain (R141). -/
def State.retrainLow (s : State) (r : Nat) : State :=
  let links := ((s.rigStreams r).map s.streamLink).eraseDups
  (List.range 36).foldl (fun s n =>
    if (s.lane n).marginLow && links.any (fun l => (List.range 8).any (fun k => decide (s.carrier l k = some n))) then s.retrain n
    else s) s

/-- The take begins with its pre-roll frames: those that exist receive seal and record (or burst) holders (R43, R258). -/
def State.claimPreroll (s : State) (r : Nat) (t : Take) (first live : Nat) : State :=
  let due := s.store.frames.filter (fun f => decide (f.rig = r) && f.live && decide (f.run = (s.run r).run)
    && decide (first ≤ f.frame) && decide (f.frame < live) && decide (0 < f.hold.tally) && t.streams.contains f.stream)
  due.foldl (fun s f => s.setFrame f.id (fun f => { f with
    take := some t.id,
    hold := { f.hold with sealing := true, record := f.hold.record || !t.burst, burst := f.hold.burst || t.burst },
    freeAt := none,
    status := f.status &&& ~~~ (0x200 : Word),
    record := if f.phase = .closed then
        patchBytes (patchBytes f.record 4 (leBytes 16 t.idNum)) 128
          (leBytes 4 ((BitVec.ofNat 32 (leAt f.record 128 4)) &&& ~~~ (0x200 : Word)).toNat)
      else f.record })) s

/-- RIG_START (R71). -/
def State.doStart (s : State) (r : Nat) : State :=
  let s := (s.timerStart r).setRun r (fun q => { q with run := q.run + 1, running := true, finishing := false })
  let s := (s.rigStreams r).foldl (fun s st => s.setStream st (fun q => { q with
    members := s.placedOn (.stream st) 3, lost := false, consec := 0, history := [], stopping := false })) s
  s.setF Reg.RIG_TRIG_STATUS r 0 0 (b2n (s.hasResv (.burst r) && bit (s.act Reg.RIG_TRIG r) 8))

/-- RIG_STOP (R634). -/
def State.doStop (s : State) (r : Nat) : State :=
  let s := (s.ringStop r).cancelFrom r s.boundaryTime
  let s := (s.setTimer r (fun q => { q with running := false, stopAt := s.boundaryTime })).setRun r (fun q => { q with
    running := false, finishing := true })
  let s := s.dropLeaving r 0x11
  ((s.streamsIdle r).retrainLow r).setF Reg.RIG_TRIG_STATUS r 0 0 0

/-- TAKE_START: the take's frames, its record state and first segment (R40, R43, R304). -/
def State.doTakeStart (s : State) (r pre tid m : Nat) : State × List (Nat × Nat × Nat) :=
  match s.take? tid with
  | none => (s, [])
  | some t =>
    let live := s.firstNow r
    let p := min pre (min (s.ringHeld r) live)
    let first := live - p
    let s := s.setTake tid (fun t => { t with started := true, first := first, live := live })
    let s := s.claimPreroll r t first live
    let s := s.setRec tid (fun _ => { rig := r, set := some m, entry := some t.entry, segFirst := first, nextSeg := 0, tick0 := s.time.tickNum })
    let s := s.setRig r (fun q => { q with back := if t.fromArmed then .armed else .live })
    (s.enterSeg tid m (some t.entry) first 0, [(16, 4, t.seq), (20, 6, t.secs), (26, 1, m), (27, 4, first)])

/-- The open take of a rig that records. -/
def State.openTake (s : State) (r : Nat) : Option Take :=
  s.takes.takes.find? (fun t => decide (t.rig = r) && t.started && !t.closed && t.last.isNone && !t.burst)

/-- The end of a take (R40): its last frame, and a planned relay whose boundary has not passed is cancelled (R317). -/
def State.doTakeEnd (s : State) (r : Nat) : State × Nat :=
  let last := s.firstNow r - 1
  let none_ := decide (s.firstNow r = 0)
  match s.openTake r with
  | none => (s, last)
  | some t =>
    -- where no frame has exposed yet the take holds none
    let s := s.setTake t.id (fun t => { t with last := some last, first := if none_ then 1 else t.first })
    let s := match (s.rec_ t.id).relay with
      | some x => if s.time.tickNum ≤ x.tick then s.cancelRelay t.id else s
      | none => s
    (s.eraseKey { t with last := some last }, last)

/-- The newest ring frames before a burst's first live frame that fit the allotment, in every stream of the rig: how many numbers, and
the pages that they take (R258). -/
def State.burstPre (s : State) (r : Nat) (sts : List Nat) (live room : Nat) : Nat → Nat → Nat × Nat
  | 0, used => (0, used)
  | k + 1, used =>
    -- counts up from the newest: `used` pages are taken so far
    let (p, u) := s.burstPre r sts live room k used
    if p < k then (p, u)
    else
      let n := live - (k + 1)
      let cost := sts.foldl (fun a st => a + (if s.store.frames.any (fun f => decide (f.stream = st) && decide (f.frame = n)
        && decide (f.run = (s.run r).run) && f.live && f.hold.preroll) then framePages s.activeSet st else 0)) 0
      if cost = 0 ∨ room < u + cost then (p, u) else (k + 1, u + cost)

/-- BURST begins (R258). -/
def State.doBurst (s : State) (r pre tid : Nat) : State × List (Nat × Nat × Nat) :=
  match s.take? tid with
  | none => (s, [])
  | some t =>
    let live := s.firstNow r
    let (p, used) := s.burstPre r t.streams live ((s.act Reg.RIG_BURST_PAGES r).toNat) (min pre live) 0
    let first := live - p
    let s := s.setTake tid (fun t => { t with started := true, first := first, live := live })
    let s := s.claimPreroll r t first live
    let s := s.setRun r (fun q => { q with burstUsed := used, burstDecided := [], burstFull := none, burstMiss := [], ring := none })
    -- the rest of the ring is released; the frames that the pre-count covers keep their pre-roll holders (R255)
    let s := s.releaseAll 3 (fun f => decide (f.rig = r) && !f.hold.burst)
    let s := s.dropLeaving r 0x16
    (s, [(16, 4, t.seq), (20, 6, t.secs), (26, 1, 0xFF), (27, 4, first)])

/-- The burst of a rig that is not drained yet. -/
def State.openBurst (s : State) (r : Nat) : Option Take :=
  s.takes.takes.find? (fun t => decide (t.rig = r) && t.started && !t.closed && t.burst)

/-- OFFLOAD begins: the burst's last frame, and its segments on the set that RREC_OFFLOAD names (R260, R322). -/
def State.doOffload (s : State) (r : Nat) : State × Nat :=
  match s.openBurst r with
  | none => (s, 0)
  | some t =>
    let last := t.last.getD (s.firstNow r - 1)
    let s := s.setTake t.id (fun t => { t with last := some last })
    let m := s.actF Reg.RREC_OFFLOAD r 19 16
    let s := if 8 ≤ m then s
      else
        let q : RecSt := { rig := r, offload := true, segFirst := t.first, tick0 := s.time.tickNum }
        let s := s.setRec t.id (fun _ => q)
        let choice : Option (Nat × Option Nat × List Resv) :=
          if s.eligible m (s.leadBytes r (s.takeRate t true) 2) then
            match s.admission (recActs t true m) with
            | (new, none) => some (m, none, new)
            | (new, some _) => some (m, none, new.map (fun x => { x with suspended := true }))
          else match s.chooseSet t q with
            | .ok (k, e, new) => some (k, some e, new)
            | .error _ => none
        match choice with
        | some (k, e, new) => (s.addResvs new s.time.tickNum).enterSeg t.id k e t.first 0
        | none => (s.setRec t.id (fun q => { q with gaveUp := some t.first })).setStore (fun z => { z with
            frames := z.frames.map (fun f => if f.take = some t.id then { f with offMag := true } else f) })
    (s.eraseKey { t with last := some last }, last)

/-- The end of OFFLOAD: the allotment and the offload reservation are released, and a burst trigger is armed again (R475). -/
def State.doOffloadEnd (s : State) (r : Nat) : State :=
  let s := s.dropResvs (fun a => match a with
    | .offload k _ => decide (k = r)
    | _ => false)
  let s := s.setPlan (fun p => { p with resvs := p.resvs.filter (fun x =>
    !(decide (x.act = .burst r) && (x.leaving || decide (x.fromTick < s.time.tickNum)))) })
  let s := match s.openBurst r with
    | some t => if s.mag.recs.any (fun e => decide (e.1 = t.id)) then s
        else s.setTake t.id (fun t => { t with closed := true, key := [] })
    | none => s
  let s := s.setRun r (fun q => { q with burstUsed := 0, burstMiss := [], burstFull := none, burstDecided := [] })
  if bit (s.act Reg.RIG_TRIG r) 8 then
    match s.admission (s.burstActs r) with
    | (new, none) => (s.addResvs new s.time.tickNum).setF Reg.RIG_TRIG_STATUS r 0 0 1
    | _ => s.setF Reg.RIG_TRIG_STATUS r 0 0 0
  else s.setF Reg.RIG_TRIG_STATUS r 0 0 0

/-- OFFLOAD_ABORT: burst frames not offloaded yet are let go; how many (R38, R255). -/
def State.doAbort (s : State) (r : Nat) : State × Nat :=
  let left := s.store.frames.filter (fun f => decide (f.rig = r) && f.live && f.hold.burst)
  (s.releaseAll 4 (fun f => decide (f.rig = r)), left.length)

/-- A transition that has become illegal: what its command reserved is given back. -/
def State.undoRig (s : State) (r op tick tid : Nat) : State :=
  let mine := fun (a : Act) => match op, a with
    | 0x10, .stream st => decide (s.streamRig st = r)
    | 0x10, .burst k | 0x16, .burst k | 0x12, .preroll k => decide (k = r)
    | 0x14, .seal st | 0x14, .record st _ => decide (s.streamRig st = r)
    | _, _ => false
  let s := (s.setPlan (fun p => { p with resvs := p.resvs.filter (fun x => !(mine x.act && decide (x.fromTick = tick))) })).markLeaving
    r op false
  if op = 0x14 ∨ op = 0x16 then
    { s with takes := { s.takes with takes := s.takes.takes.filter (fun t => decide (t.id ≠ tid) || t.started) } }
  else s

/-- Apply one change at its boundary (R38, R41). -/
def State.applyRig (s : State) (b : Bound) : State :=
  match b.kind with
  | .rig r cause dest pre _ tid m =>
    let op := cause.code
    if s.dev.mode ≠ .operational ∨ !rigLegal op (s.rigMode r) then
      let s := if cause = .trigger then s.count Reg.RIG_BURST_IGN_CNT r else s
      (s.undoRig r op b.tick tid).completeOpt b.ticket (s.wrongState (some r)).1 (s.wrongState (some r)).2
    else
      let first := if op = 0x10 then 0 else s.firstNow r
      let dest := if op = 0x15 ∨ op = 0xF2 then (s.rig r).back else dest
      let go := fun (s : State) => s.enterRig r dest op first
      match op with
      | 0x10 => (go (s.doStart r)).completeOpt b.ticket stDone
      | 0x11 => (go (s.doStop r)).completeOpt b.ticket stDone
      | 0x12 => (go (s.setRun r (fun q => { q with ring := some first }))).completeOpt b.ticket stDone
      | 0x13 => (go ((s.ringStop r).dropLeaving r 0x13)).completeOpt b.ticket stDone
      | 0x14 => let (s, pl) := s.doTakeStart r pre tid m
                (go s).completeOpt b.ticket stDone pl
      | 0x15 => let (s, last) := s.doTakeEnd r
                (go s).completeOpt b.ticket stDone [(16, 4, last)]
      | 0xF2 =>
        let (s, last) := s.doTakeEnd r
        let reason := match cause with
          | .takeEnd n => n
          | _ => 0
        (go s).post 1 0x12 (target 1 r) [(16, 1, reason), (20, 4, last)]
      | 0x16 => let (s, pl) := s.doBurst r pre tid
                (go s).completeOpt b.ticket stDone pl
      | 0x17 | 0xF0 => let (s, last) := s.doOffload r
                       ((go s).burstSweep r).completeOpt b.ticket stDone [(16, 4, last)]
      | 0x18 => let (s, n) := s.doAbort r
                (go (s.doOffloadEnd r)).completeOpt b.ticket stDone [(16, 4, n)]
      | 0xF1 => go (s.doOffloadEnd r)
      | _ => (go s).completeOpt b.ticket stDone
  | _ => s

/-- The order of one boundary: automatic transitions, then commands, then a burst trigger (R41). -/
def RigCause.order : RigCause → Nat
  | .command _ => 1
  | .trigger => 2
  | _ => 0

/-- RIG_MODE_CHANGE: the changes of a rig whose boundary has come. -/
def State.rigModeChange (s : State) (r : Nat) : State :=
  let due := s.dev.bound.filter (fun b => match b.kind with
    | .rig k _ _ _ _ _ _ => decide (k = r) && decide (b.tick ≤ s.time.tickNum)
    | _ => false)
  let ord := fun (n : Nat) => due.filter (fun b => match b.kind with
    | .rig _ c _ _ _ _ _ => decide (c.order = n)
    | _ => false)
  let s : State := { s with dev := { s.dev with bound := s.dev.bound.filter (fun b => !due.contains b) } }
  if due.isEmpty then s else ((((ord 0 ++ ord 1 ++ ord 2).foldl (fun s b => s.applyRig b) s).prerollCatch r).autoStep).takeCkpt

def execRigModeChange (r : Nat) (s : State) : Host.Outcome State Fault Refusal := s.go (fun s => s.rigModeChange r)

/-- An offload whose last burst holder has been released returns its rig to LIVE at this boundary (R260). -/
def State.drainCheck (s : State) : State :=
  (List.range 16).foldl (fun s r =>
    if s.rigMode r ≠ .offload then s
    else
      let t := s.openBurst r
      let last := (t.bind (·.last)).getD 0
      let held := s.store.frames.any (fun f => decide (f.rig = r) && decide (f.run = (s.run r).run)
        && ((f.live && f.hold.burst) || (f.phase = .triggered && decide (f.frame ≤ last))))
      let queued := s.dev.bound.any (fun b => match b.kind with
        | .rig k .drained _ _ _ _ _ => decide (k = r)
        | _ => false)
      if held || queued then s else s.pushBound ⟨s.time.tickNum, none, .rig r .drained .live 0 0 0 0⟩) s

/-- A rig enters IDLE at once because the device leaves OPERATIONAL (R34, R634). -/
def State.rigNow (s : State) (r : Nat) : State :=
  if s.rigMode r = .idle then s
  else
    let t : Int := s.now16
    let first := s.firstAt r t
    let s := (s.ringStop r).cancelFrom r t
    let s := (s.store.frames.filter (fun f => decide (f.rig = r) && f.phase = .opened)).foldl
      (fun s f => s.endInput f.id .zeroised) s
    let gone := s.store.frames.filter (fun f => decide (f.rig = r) && !f.live)
    let s := gone.foldl (fun s f => match f.slot with
      | some i => s.freeSlot i
      | none => s) s
    let s := s.setStore (fun q => { q with frames := q.frames.filter (fun f => decide (f.rig ≠ r) || f.live) })
    let s := (s.setTimer r (fun q => { q with running := false, stopAt := s.now16 })).setRun r (fun q => { q with
      running := false, finishing := true, burstUsed := 0, burstMiss := [], burstFull := none, burstDecided := [] })
    let s := s.dropResvs (fun a => match a with
      | .stream st | .seal st => decide (s.streamRig st = r)
      | .preroll k | .burst k | .offload k _ => decide (k = r)
      | _ => false)
    ((s.streamsIdle r).setF Reg.RIG_TRIG_STATUS r 0 0 0).enterRig r .idle 0xF3 first

end Sys2Proof.Machine
end

