-- ==== Sys2Proof/Machine/Rings.lean ====
section
/-! DEFINITION. Rings: doorbells, enable, abort and resume, ring staging, bus errors, and the end of a ring (R359, R370,
R387–R398, R406, R407, R411). -/

namespace Sys2Proof.Machine

/-- NOP completes DONE (R405, R407, R411). -/
def execNop (d : Desc) (s : State) : Host.Outcome State Fault Refusal :=
  s.go (fun s => s.runCmd d 0x00 (fun s => s.check405 d (structOk d (tNone d) [] false) true true
    (s.modeIn [.provision, .standby, .operational, .zeroized]) none) (fun t s => s.complete t stDone))

/-! ### Doorbells (R359, R370, R394, R395) -/

/-- The conditions of R395 on a doorbell value. -/
def State.doorbellOk (s : State) (n : Nat) (v : BitVec 32) : Bool :=
  let q := s.ring n
  let sz := s.ringSize n
  decide (q.state = .running) && !q.aborting &&
    (if s.ringKind n = 2 then decide ((q.dev - v).toNat ≤ sz) else decide ((v - q.dev).toNat ≤ sz))
    && decide ((v - q.db).toNat ≤ sz)

/-- A doorbell write reaches the ring's page. -/
def State.doorbell (s : State) (p n : Nat) (v : BitVec 32) : State :=
  if !s.portTalks p || decide (s.dev.mode = .boot) || decide (1024 ≤ n) then s
  else if !s.ringAssigned n || decide (s.ringPort n ≠ p) then (s.count Reg.HP_DB_FOREIGN_CNT p).hpEvt p 6
  else if s.doorbellOk n v then s.setRing n (fun q => { q with db := v })
  else (s.setEvt Reg.RING_EVENTS n 0).count Reg.RING_DB_BAD_CNT n

def execDoorbellWrite (p n : Nat) (v : BitVec 32) (s : State) : Host.Outcome State Fault Refusal := s.go (fun s => s.doorbell p n v)

/-! ### Deliveries of a ring (R391, R429) -/

/-- The payload of a DELIVERY (R429). -/
def deliveryPayload (frame stream parts flags skipped bytes descNo : Nat) : List (Nat × Nat × Nat) :=
  [(16, 4, frame), (20, 1, stream), (21, 1, parts), (22, 1, flags), (23, 1, min 255 skipped), (24, 4, bytes),
   (28, 3, descNo % 2 ^ 24)]

/-- The end of a delivery descriptor: its DELIVERY record, and the frames skipped since the last one (R429). -/
def State.endDelivery (s : State) (x : Dlv) (status parts flags bytes : Nat) : State :=
  let q := s.mover.subs.get ({} : SubSt) x.sub
  let st := match x.frame.bind (fun id => s.frame? id) with
    | some f => some (f.frame, f.stream)
    | none => none
  let (n, k) := st.getD (0xFFFFFFFF, 0xFF)
  let s : State := { s with mover := { s.mover with
    dlv := s.mover.dlv.filter (fun y => !(decide (y.ring = x.ring) && decide (y.descNo = x.descNo))),
    subs := s.mover.subs.upd {} x.sub (fun q => { q with skipped := 0 }) } }
  let s := match x.frame with
    | some id => s.setFrame id (fun f => { f with readers := f.readers - 1 })
    | none => s
  s.complete x.ticket status (deliveryPayload n k parts flags q.skipped bytes x.descNo) 2

/-- The parts of a descriptor that have been written whole, and its payload bytes written: its parts in order, each with its
length. -/
def partsDone (given : Nat) : List (Nat × Nat) → Nat × Nat → Nat × Nat
  | [], acc => acc
  | (b, n) :: t, (mask, at_) =>
    if at_ + n ≤ given then partsDone given t (mask + 2 ^ b, at_ + n) else (mask, at_)

/-- The parts of the frame a descriptor is bound to, in the order of its byte space, with their lengths (R427). -/
def State.dlvParts (s : State) (x : Dlv) : List (Nat × Nat) :=
  match x.frame.bind (fun id => s.frame? id) with
  | none => []
  | some f =>
    let t := f.latch
    let pay := x.total - ((if x.parts.testBit 1 then 16384 else 0)
      + (if x.parts.testBit 2 then pvBytes t f.stream else 0) + (if x.parts.testBit 3 then 4096 else 0))
    ([(0, pay), (1, 16384), (2, pvBytes t f.stream), (3, 4096)] : List (Nat × Nat)).filter (fun e => x.parts.testBit e.1)

/-- A bound or unbound descriptor completes ABORTED, with what it has written (R391, R429). -/
def State.abortDelivery (s : State) (x : Dlv) : State :=
  let ps := s.dlvParts x
  let (mask, _) := partsDone x.given ps (0, 0)
  let pay := match ps with
    | (0, n) :: _ => min n x.given
    | _ => 0
  s.endDelivery x stAborted mask (2 * b2n x.redelivered + 4 * b2n x.gather) pay

/-- A subscription releases its frames (R255). -/
def State.subRelease (s : State) (k : Nat) : State :=
  let s : State := { s with mover := { s.mover with subs := s.mover.subs.upd {} k (fun q => { q with pend := [] }) } }
  s.releaseAll (16 + k) (fun f => f.live)

/-- Subscriptions of the active set whose delivery ring is `n`. -/
def State.ringSubs (s : State) (n : Nat) : List Nat :=
  (List.range 128).filter (fun k => bit (s.act Reg.SUB_CTRL k) 31 && decide (s.actF Reg.SUB_CTRL k 9 0 = n))

/-! ### Enable, abort, resume (R389–R393) -/

/-- The rings that report to an EVT ring pause when it leaves RUNNING (R392). -/
def State.evtStops (s : State) (n : Nat) : State :=
  (s.rings.filter (fun e => decide ((s.ring e.1).state ≠ .disabled) && decide (s.ringKind e.1 ≠ 2) && decide (s.evtRing e.1 = n))).foldl
    (fun s e => s.setRing e.1 (fun q => { q with state := .pausedEvt, role := none })) s

/-- RING_BASE (R389). -/
def State.ringBase (s : State) (n : Nat) : Nat := s.reg64 Reg.RING_BASE_LO Reg.RING_BASE_HI n

/-- A write of 1 to ENABLE (R390). -/
def State.ringStart (s : State) (n : Nat) : State :=
  let base := s.ringBase n
  let e := fld (s.reg Reg.RING_CTRL n) 25 16
  let ok := s.ringAssigned n && s.portExists (s.ringPort n) && decide (base % 4096 = 0) &&
    (decide (s.ringKind n = 2) || (s.ringAssigned e && decide (s.ringKind e = 2) && decide (s.ringPort e = s.ringPort n)
      && decide ((s.ring e).state = .running)))
  if ok then
    let s := (s.setF Reg.RING_CTRL n 31 31 1).setRing n (fun q => { q with
      state := .running, dev := 0, db := 0, base := base, evt := e, lost := false, aborting := false })
    if s.ringKind n = 1 then
      (s.ringSubs n).foldl (fun (s : State) k => { s with mover := { s.mover with
        subs := s.mover.subs.upd {} k (fun q => { q with blocked := false }) } }) s
    else s
  else s.setEvt Reg.RING_EVENTS n 4

/-- A write of 0 to ENABLE (R391). -/
def State.ringAbort (s : State) (n : Nat) : State :=
  let s := (s.setF Reg.RING_CTRL n 31 31 0).setRing n (fun q => { q with dev := q.db, role := none })
  match s.ringKind n with
  | 2 => (s.setRing n (fun q => { q with state := .disabled })).evtStops n
  | 1 =>
    let s := s.setRing n (fun q => { q with aborting := true })
    let s := (s.mover.dlv.filter (fun x => decide (x.ring = n))).foldl (fun s x => s.abortDelivery x) s
    let s := (s.ringSubs n).foldl (fun s k => s.subRelease k) s
    s.setRing n (fun q => q.settle)
  | _ => s.setRing n (fun q => { q with aborting := true }.settle)

/-- RESUME: the ring runs again; halted deliveries execute again from their first byte (R392, R406, R439). A ring whose EVT ring
is not running stays paused. -/
def State.ringResume (s : State) (n : Nat) : State :=
  let q := s.ring n
  let evtOk := decide ((s.ring (s.evtRing n)).state = .running)
  if q.state = .pausedBus ∨ (q.state = .pausedEvt ∧ evtOk) then
    let again := fun (x : Dlv) => if x.ring = n ∧ x.halted then 
    { x with halted := false, given := 0, redelivered := true, redo := [], sec := false, cutParts := 0, cutBytes := 0 } else x
    let s : State := { s with mover := { s.mover with dlv := s.mover.dlv.map again } }
    s.setRing n (fun q => { q with state := .running })
  else s

/-- A write of RING_CTRL: the other fields at once, then ENABLE, then RESUME; an abort wins over a RESUME (R391, R442). -/
def State.ringCtrl (s : State) (n : Nat) (v : Word) : State :=
  let c := s.reg Reg.RING_CTRL n
  let on := bit c 31
  let keep : Word := 0x80000000
  let s := s.setReg Reg.RING_CTRL n 0 ((v &&& Reg.RING_CTRL.rwi &&& ~~~ keep) ||| (c &&& keep))
  if on && !bit v 31 then s.ringAbort n
  else
    let s := if !on && bit v 31 then s.ringStart n else s
    if bit v 30 then s.ringResume n else s

/-- A write of RING_BASE, ignored while ENABLE is 1 (R389). -/
def State.ringBaseWrite (s : State) (n : Nat) (lo hi : Word) : State :=
  if bit (s.reg Reg.RING_CTRL n) 31 then s else (s.setReg Reg.RING_BASE_LO n 0 lo).setReg Reg.RING_BASE_HI n 0 hi

/-- A ring is disabled at once: what it has not taken is discarded and no further record of it is written (R393). -/
def State.ringOff (s : State) (n : Nat) : State :=
  let q := s.ring n
  let s : State := { s with rings := s.rings.map (fun e =>
    (e.1, { e.2 with staged := e.2.staged.filter (fun x => decide (x.ring ≠ n)) })) }
  let s := s.setRing n (fun q => { q with
    state := .disabled, dev := if s.ringKind n = 2 then q.dev else q.db, outstanding := 0, barrier := false, lost := false,
    staged := [], role := none, aborting := false, gen := q.gen + 1 })
  let s := s.setF Reg.RING_CTRL n 31 31 0
  if s.ringKind n = 2 ∧ q.state ≠ .disabled then s.evtStops n else s

/-! ### Ring staging (R392, R398) -/

/-- The oldest record that waits for an EVT ring is written, once the ring runs and has room and the ring that made it is not
paused, with the tick in which it is written (R408). -/
def State.stagedWrite (s : State) (n : Nat) : State :=
  match (s.ring n).staged with
  | [] => s
  | x :: t =>
    if (s.ring n).state = .running ∧ s.evtRoom n ∧ (s.ring x.ring).state ≠ .pausedEvt then
      (s.setRing n (fun q => { q with staged := t })).putRec n
        (if x.named then x.record else { x.record with tick := s.time.tickNum }) x.irq false
    else s

def execStagedRecordWrite (n : Nat) (s : State) : Host.Outcome State Fault Refusal := s.go (fun s => s.stagedWrite n)

/-! ### Bus errors (R384, R406) -/

/-- A ring pauses on a bus error and latches the address. -/
def State.ringBus (s : State) (n addr : Nat) : State :=
  ((s.setRing n (fun q => { q with state := .pausedBus, role := none })).set64 Reg.RING_ERR_ADDR_LO Reg.RING_ERR_ADDR_HI n addr).setEvt
    Reg.RING_EVENTS n 1

/-- A read of the next descriptor of a running ring fails; or, for a taken command named by its TAG, one of its writes does:
MAG_READ's copy or SENSOR_REG's data. -/
def State.ringBusError (s : State) (n addr : Nat) (cmd : Option Nat) : State :=
  let q := s.ring n
  if q.state ≠ .running ∨ s.ringKind n = 2 ∨ s.ringKind n = 3 then s
  else
    match cmd with
    | none => if q.dev = q.db then s else s.ringBus n addr
    | some tag =>
      match s.mag.jobs.find? (fun j => decide (j.opcode = 0x54) && decide (j.ticket.ring = n) && decide (j.ticket.tag = tag)) with
      | some j => (s.endJob j stBusError [(16, 4, j.done)]).ringBus n addr
      | none =>
        match s.link.links.findSome? (fun e => (e.2.txns.find? (fun x =>
            x.isRead && decide (x.ticket.ring = n) && decide (x.ticket.tag = tag))).map (fun x => (e.1, x))) with
        | some (l, x) => ((s.setHl l (fun h => { h with txns := h.txns.filter (fun y => decide (y.txn ≠ x.txn)) })).complete
            x.ticket stBusError).ringBus n addr
        | none => s

def execRingBusError (n addr : Nat) (cmd : Option Nat) (s : State) : Host.Outcome State Fault Refusal :=
  s.go (fun s => s.ringBusError n addr cmd)

end Sys2Proof.Machine
end

