-- ==== Sys2Proof/Machine/Motion.lean ====
section
/-! DEFINITION. The motion ports: decoders, position, speed, index, probes, position compare units, echo outputs, rig triggers and
motion samples (R449–R483). -/

namespace Sys2Proof.Machine

def State.mch (s : State) (ch : Nat) : MchSt := s.motion.chans.get {} ch
def State.setMch (s : State) (ch : Nat) (f : MchSt → MchSt) : State :=
  { s with motion := { s.motion with chans := s.motion.chans.upd {} ch f } }
def State.cmp (s : State) (u : Nat) : CmpSt := s.motion.cmps.get {} u
def State.setCmp (s : State) (u : Nat) (f : CmpSt → CmpSt) : State :=
  { s with motion := { s.motion with cmps := s.motion.cmps.upd {} u f } }
def State.echo (s : State) (k : Nat) : EchoSt := s.motion.echoes.get {} k
def State.setEcho (s : State) (k : Nat) (f : EchoSt → EchoSt) : State :=
  { s with motion := { s.motion with echoes := s.motion.echoes.upd {} k f } }

/-- MCH_CTRL.TYPE (R449). -/
def State.mchType (s : State) (ch : Nat) : Nat := s.actF Reg.MCH_CTRL ch 3 0

/-- The channel decodes: its TYPE is not OFF, its unit is powered, and the device is not in a mode that powers it down (R566, R567). -/
def State.mchLive (s : State) (ch : Nat) : Bool :=
  let u := s.unitCode 0x10 ch
  decide (ch < 24) && decide (s.mchType ch ≠ 0) && (decide (u = 2) || decide (u = 3)) && decide (s.dev.mode = .operational)

/-- The signed 48-bit difference of two positions (R459). -/
def posDiff (a b : Pos) : Int := (a - b).toInt

/-- A position from an integer, modulo 2^48. -/
def posOf (x : Int) : Pos := BitVec.ofInt 48 x

/-- A pair of registers that holds a position. -/
def pairPos (lo hi : Word) : Pos := BitVec.ofNat 48 (lo.toNat + 2 ^ 32 * hi.toNat)

/-! ### Alarms (R479) -/

/-- An alarm is raised on a channel. -/
def State.mchAlarm (s : State) (ch b : Nat) : State :=
  let old := bit (s.reg Reg.MCH_EVENTS ch) b
  let s := ((s.setEvt Reg.MCH_EVENTS ch b).count Reg.MCH_ERR_CNT ch).setMch ch (fun q => { q with alarms := q.alarms + 1 })
  if old then s
  else s.post 8 0x58 (target 0x10 ch)
    [(16, 1, 2 ^ b), (20, 6, (s.mch ch).pos.toNat), (26, 4, (s.reg Reg.MCH_IDX_DIFF ch).toNat)]

/-! ### Speed (R460, R461) -/

/-- Counts per clock of 4 ns, as the 32.16 speed. -/
def speedUnit : Int := 250000000 * 65536

/-- The speed as it stands after a clock, by the rule of a clock without a change. -/
def State.settledTo (s : State) (ch clk : Nat) : MchSt :=
  let q := s.mch ch
  let u : Int := (clk : Int) - q.changeAt
  if u ≤ 0 then q
  else if (s.actF Reg.MCH_TIMING ch 19 0 * 1000 : Int) ≤ u * 4 then { q with speed := 0, still := true, valid := false, run := [] }
  else if q.valid ∧ speedUnit < q.speed.natAbs * u then
    { q with speed := (if q.runNeg then -speedUnit else speedUnit).tdiv u }
  else q

/-- The speed in the present clock. -/
def State.settled (s : State) (ch : Nat) : MchSt := s.settledTo ch s.time.clk

def State.settle (s : State) (ch : Nat) : State := s.setMch ch (fun _ => s.settled ch)

/-- A position change of sign `neg` at latch time `t`, to position `p`. -/
def MchSt.speedChange (q : MchSt) (win t : Nat) (neg : Bool) (p : Pos) : MchSt :=
  let fresh := { q with changeAt := t, still := false, runNeg := neg, run := [(t, p)], speed := 0, valid := false }
  match q.run.getLast? with
  | none => fresh
  | some newest =>
    if q.still ∨ neg ≠ q.runNeg then fresh
    else
      let kept := q.run.filter (fun e => decide (t ≤ e.1 + win))
      let from_ := if kept.isEmpty then [newest] else kept
      let e0 := from_.headD newest
      { q with
        changeAt := t, run := from_ ++ [(t, p)], valid := true,
        speed := (posDiff p e0.2 * speedUnit).tdiv ((t : Int) - e0.1) }

/-! ### Echoes (R462, R470, R471) -/

/-- An echo in QUAD mode follows a change of Hp by `h`. -/
def State.echoFollow (s : State) (ch : Nat) (h : Int) : State :=
  (List.range 8).foldl (fun (s : State) k =>
    let c := s.act Reg.ECHO_CTRL k
    if !bit c 0 || bit c 1 || decide (fld c 20 16 ≠ ch) then s
    else
      let n : Int := s.actF Reg.ECHO_RATIO k 15 0
      let m : Int := s.actF Reg.ECHO_RATIO k 31 16
      let e := s.echo k
      let a := e.acc + n * h
      let p := e.pending + a.tdiv m
      let kept := clampInt (-65535) 65535 p
      let s := s.setEcho k (fun e => { e with acc := a.tmod m, pending := kept, overrun := e.overrun || decide (p ≠ kept) })
      if p = kept then s else (s.countN Reg.ECHO_LOST_CNT k (p - kept).natAbs).mchAlarm ch 7) s

/-- The hysteresis position follows a position (R462). -/
def MchSt.follow (q : MchSt) (p : Pos) : MchSt :=
  let d := posDiff p q.hp
  if q.dirNeg then
    if 2 ≤ d then { q with hp := p, dirNeg := false } else if d < 0 then { q with hp := p } else q
  else if d ≤ -2 then { q with hp := p, dirNeg := true } else if 0 < d then { q with hp := p } else q

/-- The next step of an echo's outputs toward no pending step. -/
def State.echoStep (s : State) (k : Nat) : State :=
  let c := s.act Reg.ECHO_CTRL k
  let e := s.echo k
  let due := match e.stepAt with
    | some t => decide (t + fld c 15 8 ≤ s.time.clk)
    | none => true
  if 8 ≤ k ∨ !bit c 0 ∨ bit c 1 ∨ e.pending = 0 ∨ !due then s
  else
    let up := decide (0 < e.pending)
    let ph := if up then (e.phase + 1) % 4 else (e.phase + 3) % 4
    let s := s.setEcho k (fun e => { e with
      pending := if up then e.pending - 1 else e.pending + 1, phase := ph, stepAt := some s.time.clk })
    -- the cycle of AB is 00, 10, 11, 01
    let a := fun (p : Nat) => decide (p = 1) || decide (p = 2)
    let b := fun (p : Nat) => decide (p = 2) || decide (p = 3)
    if a ph ≠ a e.phase then s.emit (.pin "ECHO_A" k (a ph)) else s.emit (.pin "ECHO_B" k (b ph))

def execEchoStep (k : Nat) (s : State) : Host.Outcome State Fault Refusal := s.go (fun s => s.echoStep k)

/-! ### Position compare units (R466–R469) -/

/-- A source of rig triggers has an event at a device time in 2^−16 ns (R474, R475, R480). -/
def State.rigSource (s : State) (src : Nat) (t : Int) : State :=
  (List.range 16).foldl (fun (s : State) r =>
    let c := s.act Reg.RIG_TRIG r
    let s := if fld c 5 0 = src then s.frameEvent r t else s
    if bit c 8 && decide (fld c 21 16 = src) then s.burstEvent r else s) s

/-- The target of a unit. -/
def State.cmpTarget (s : State) (u : Nat) : Pos := pairPos (s.reg Reg.CMP_TARGET_LO u) (s.reg Reg.CMP_TARGET_HI u)
def State.setCmpTarget (s : State) (u : Nat) (t : Pos) : State := s.set64 Reg.CMP_TARGET_LO Reg.CMP_TARGET_HI u (t.signExtend 64).toNat

/-- An entry's target of a compare table. -/
def State.pctEntry (s : State) (h i : Nat) : Pos := BitVec.ofNat 48 (leNat (s.objBytes h (64 + 8 * i) 6))
def State.pctLen (s : State) (h : Nat) : Nat := leNat (s.objBytes h 4 4)

/-- A position lies beyond another in a direction (0x2 is NEG). -/
def beyond (dir : Nat) (t p : Pos) : Bool := if dir = 2 then decide (posDiff t p < 0) else decide (0 < posDiff t p)

/-- The first entry from `i` on whose target lies beyond a position. -/
def State.pctNext (s : State) (h dir : Nat) (p : Pos) (i : Nat) : Nat → Option Nat
  | 0 => none
  | fuel + 1 => if beyond dir (s.pctEntry h i) p then some i else s.pctNext h dir p (i + 1) fuel

/-- SKIPPED grows by a number of targets. -/
def State.cmpSkip (s : State) (u n : Nat) : State :=
  s.setF Reg.CMP_STATUS u 31 16 (satAdd 0xFFFF (fld (s.reg Reg.CMP_STATUS u) 31 16) n)

/-- What follows a firing at position `p` (R467). -/
def State.cmpAfter (s : State) (u : Nat) (p : Pos) : State :=
  let c := s.reg Reg.CMP_CTRL u
  let dir := fld c 5 4
  match fld c 2 1 with
  | 0 => (s.setF Reg.CMP_CTRL u 0 0 0).setEvt Reg.CMP_STATUS u 1
  | 1 =>
    let per := s.reg64 Reg.CMP_PERIOD_LO Reg.CMP_PERIOD_HI u
    let k := (posDiff p (s.cmpTarget u)).natAbs / per + 1
    let step : Int := if dir = 2 then -(k * per : Nat) else (k * per : Nat)
    (s.setCmpTarget u (s.cmpTarget u + posOf step)).cmpSkip u (k - 1)
  | _ =>
    let h := (s.cmp u).table
    let i := (s.reg Reg.CMP_TBL_IDX u).toNat
    let n := s.pctLen h
    match s.pctNext h dir p (i + 1) (n - (i + 1)) with
    | some j =>
      ((s.setReg Reg.CMP_TBL_IDX u 0 (BitVec.ofNat 32 j)).setCmpTarget u (s.pctEntry h j)).cmpSkip u (j - (i + 1))
    | none => ((s.cmpSkip u (n - (i + 1))).setCmp u (fun q => { q with ended := true })).setEvt Reg.CMP_STATUS u 1

/-- The position of a channel moves from `p` to `p'` at a device time: every enabled unit that watches it and whose target it
crosses fires, once (R466, R469). A target written in this clock is compared from the next (R480). -/
def State.cmpCross (s : State) (ch : Nat) (p p' : Pos) (t : Int) : State :=
  (List.range 32).foldl (fun (s : State) u =>
    let c := s.reg Reg.CMP_CTRL u
    let q := s.cmp u
    let fresh := decide (q.wroteAt = s.time.clk + 1)
    let tgt := if fresh then q.oldTarget else s.cmpTarget u
    let dir := fld c 5 4
    let pos := decide (0 < posDiff tgt p) && decide (posDiff tgt p' ≤ 0)
    let neg := decide (posDiff tgt p < 0) && decide (0 ≤ posDiff tgt p')
    let crossed := (dir ≠ 2 && pos) || (dir ≠ 1 && neg)
    if !bit c 0 || decide (fld c 12 8 ≠ ch) || q.ended || !crossed || s.unitCode 0x11 u ≠ 2 then s
    else
      let s := (s.setEvt Reg.CMP_STATUS u 0).count Reg.CMP_FIRE_CNT u
      let s := if bit c 16 then s.pulse u (fld c 23 20) (fld c 31 24) else s
      let s := if fresh ∧ fld c 2 1 ≠ 0 then s else s.cmpAfter u p'
      s.rigSource u t) s

/-- A compare table is well formed for a direction (R468). -/
def State.pctOk (s : State) (h dir : Nat) : Bool :=
  match s.obj? h with
  | none => false
  | some (_, o) =>
    let n := s.pctLen h
    decide (o.phase = .sealed_) && decide (s.objBytes h 0 4 = [0x50, 0x43, 0x54, 0x31]) && decide (1 ≤ n) && decide (n ≤ 1048576)
      && decide (64 + 8 * n ≤ o.size) && (s.objBytes h 8 56).all (fun b => decide (b = 0))
      && (List.range n).all (fun i => decide (leNat (s.objBytes h (64 + 8 * i + 6) 2) = 0))
      && (List.range (n - 1)).all (fun i => beyond dir (s.pctEntry h (i + 1)) (s.pctEntry h i))

/-- The combination of a unit's fields is invalid (R467, R468). -/
def State.cmpBad (s : State) (u : Nat) (c : Word) : Bool :=
  let mode := fld c 2 1
  let dir := fld c 5 4
  let per := s.reg64 Reg.CMP_PERIOD_LO Reg.CMP_PERIOD_HI u
  decide (mode = 3) || decide (dir = 3) || decide (24 ≤ fld c 12 8) || decide (fld c 31 24 = 0)
    || (decide (mode ≠ 0) && decide (dir = 0)) || (decide (mode = 1) && (decide (per = 0) || decide (2 ^ 47 ≤ per)))
    || (decide (mode = 2) && !s.pctOk (s.reg Reg.CMP_TABLE u).toNat dir)

/-- A write of CMP_CTRL: its fields take effect, and EN that changes to 1 checks the unit and starts it. -/
def State.cmpCtrl (s : State) (u : Nat) (v : Word) : State :=
  let old := bit (s.reg Reg.CMP_CTRL u) 0
  let s := s.storeBits Reg.CMP_CTRL u 0 v
  if !bit v 0 then s.setCmp u (fun q => { q with table := 0, ended := false })
  else if s.cmpBad u (s.reg Reg.CMP_CTRL u) then
    ((s.setF Reg.CMP_CTRL u 0 0 0).setEvt Reg.CMP_STATUS u 2).setCmp u (fun q => { q with table := 0, ended := false })
  else if old then s
  else if fld v 2 1 = 2 then
    let h := (s.reg Reg.CMP_TABLE u).toNat
    ((s.setCmp u (fun q => { q with table := h, ended := false })).setReg Reg.CMP_TBL_IDX u 0 0).setCmpTarget u (s.pctEntry h 0)
  else s.setCmp u (fun q => { q with table := 0, ended := false })

/-- A write of CMP_TARGET_HI applies the whole target, compared from the next clock (R480, R482). -/
def State.cmpTargetWrite (s : State) (u : Nat) (lo hi : Word) : State :=
  let old := if (s.cmp u).wroteAt = s.time.clk + 1 then (s.cmp u).oldTarget else s.cmpTarget u
  ((s.setReg Reg.CMP_TARGET_LO u 0 lo).setReg Reg.CMP_TARGET_HI u 0 hi).setCmp u
    (fun q => { q with wroteAt := s.time.clk + 1, oldTarget := old })

/-! ### Position (R459, R464) -/

/-- A set position or an index snap: no motion, so nothing is compared or echoed, Hp moves along and the speed run restarts. -/
def State.placePos (s : State) (ch : Nat) (p : Pos) : State :=
  s.setMch ch (fun q => { q with
    pos := p, hp := q.hp + (p - q.pos), run := [], speed := 0, valid := false,
    read := q.read.map (fun e => (e.1, e.2 + (p - q.pos))) })

/-- The channel takes the position in MCH_SET_POS (R459). -/
def State.takeSetPos (s : State) (ch : Nat) : State :=
  let p := pairPos (s.reg Reg.MCH_SET_POS_LO ch) (s.reg Reg.MCH_SET_POS_HI ch)
  ((s.settle ch).placePos ch p).setMch ch (fun q => { q with
    referenced := true, suspect := false, setAt := s.time.clk + 1, setDue := false })

/-- The channel is powered (R566, R567). -/
def State.mchPowered (s : State) (ch : Nat) : Bool := s.mchLive ch || decide (s.unitCode 0x10 ch = 4)

/-- A write of MCH_SET_POS_HI; in a powered-down channel it waits (R593). -/
def State.mchSetPos (s : State) (ch : Nat) (lo hi : Word) : State :=
  let s := (s.setReg Reg.MCH_SET_POS_LO ch 0 lo).setReg Reg.MCH_SET_POS_HI ch 0 hi
  if s.mchPowered ch then s.takeSetPos ch else s.setMch ch (fun q => { q with setDue := true })

/-- Channels that are powered again take the positions written meanwhile (R593). -/
def State.mchWake (s : State) : State :=
  (List.range 24).foldl (fun (s : State) ch => if (s.mch ch).setDue && s.mchPowered ch then s.takeSetPos ch else s) s

/-- The position of a channel changes by `d` at latch time `t` clocks: speed, hysteresis and echoes, then the compare units. -/
def State.moveBy (s : State) (ch t : Nat) (d : Int) (at16 : Int) : State :=
  if d = 0 then s
  else
    -- the clock of a change is none without one
    let s := s.setMch ch (fun _ => s.settledTo ch (s.time.clk - 1))
    let q := s.mch ch
    let p' := q.pos + posOf d
    let win := s.actF Reg.MCH_TIMING ch 31 20 * 250
    let q' := (({ q with pos := p' } : MchSt).speedChange win t (decide (d < 0)) p').follow p'
    let h := posDiff q'.hp q.hp
    let s := s.setMch ch (fun _ => q')
    (if h = 0 then s else s.echoFollow ch h).cmpCross ch q.pos p' at16

/-! ### Index (R463, R464) -/

/-- The AB state: bit 1 is A and bit 0 is B; for SINCOS the quadrant of θ, 00, 10, 11 and 01 from the first. -/
def State.abState (s : State) (ch : Nat) : Nat :=
  let q := s.mch ch
  if s.mchType ch = 9 then
    match q.vec with
    | some (x, y) => if y = 0 then (if x < 0 then 3 else 0) else if 0 < y then (if 0 < x then 0 else 2) else (if x < 0 then 3 else 1)
    | none => 0
  else 2 * b2n q.a + b2n q.b

/-- E of R464: the place nearest to P at which an index is expected; of two places equally near, either. -/
def State.indexPlace (s : State) (ch : Nat) : Pos × State :=
  let pos := pairPos (s.act Reg.MCH_INDEX_POS_LO ch) (s.act Reg.MCH_INDEX_POS_HI ch)
  let per : Int := (s.act Reg.MCH_INDEX_PERIOD ch).toNat
  if per = 0 then (pos, s)
  else
    let d := posDiff (s.mch ch).pos pos
    let k := d / per
    let r := d % per
    if 2 * r = per then (pos + posOf ((k + (s.freeNat 1 : Nat)) * per), s.useFree)
    else (pos + posOf ((if 2 * r < per then k else k + 1) * per), s)

/-- An index event. -/
def State.indexEvent (s : State) (ch : Nat) : State :=
  let q := s.mch ch
  if !q.referenced then
    let pos := pairPos (s.act Reg.MCH_INDEX_POS_LO ch) (s.act Reg.MCH_INDEX_POS_HI ch)
    ((s.settle ch).placePos ch pos).setMch ch (fun q => { q with referenced := true })
  else
    let (e, s) := s.indexPlace ch
    let d := posDiff q.pos e
    if d.natAbs ≤ s.actF Reg.MCH_CTRL ch 23 20 then s
    else
      let s :=
        let fits := decide (-(2 ^ 31 : Nat) ≤ d) && decide (d < (2 ^ 31 : Nat))
        let s := if bit (s.reg Reg.MCH_EVENTS ch) 1 then s
          else if fits then s.setReg Reg.MCH_IDX_DIFF ch 0 (BitVec.ofNat 32 (ofSigned 32 d))
          else (s.setReg Reg.MCH_IDX_DIFF ch 0 (BitVec.ofNat 32 (s.freeNat 32))).useFree
        s.mchAlarm ch 1
      if s.actF Reg.MCH_CTRL ch 13 12 = 2 then (s.settle ch).placePos ch e else s

/-- The condition of an index event is looked at after a change of A, B or Z: its onset is the event. -/
def State.indexCheck (s : State) (ch : Nat) (zOld : Bool) : State :=
  let c := s.act Reg.MCH_CTRL ch
  let q := s.mch ch
  let typed := let t := s.mchType ch; decide (t ≤ 5) || decide (t = 9)
  let gated := bit c 18
  let now := q.z && (!gated || decide (s.abState ch = fld c 17 16))
  let fire := if gated then now && !q.indexOn else q.z && !zOld
  let s := s.setMch ch (fun q => { q with indexOn := now })
  if typed && fire && decide (fld c 13 12 ≠ 0) then s.indexEvent ch else s

/-- INDEX_EVENT: the filtered level of Z changes. -/
def execIndexEvent (ch : Nat) (z : Bool) (s : State) : Host.Outcome State Fault Refusal :=
  s.go (fun s =>
    if !s.mchLive ch then s
    else
      let old := (s.mch ch).z
      (s.setMch ch (fun q => { q with z := z })).indexCheck ch old)

/-! ### Incremental decoders (R451, R452) -/

/-- Position of an AB state in the cycle 00, 10, 11, 01. -/
def abPhase (a b : Bool) : Nat := if a then (if b then 2 else 1) else (if b then 3 else 0)

/-- The change of position for new levels of A and B, before INVERT. -/
def countOf (type : Nat) (a b a' b' : Bool) : Int :=
  let both := decide (a ≠ a') && decide (b ≠ b')
  let rise := !a && a'
  let fall := a && !a'
  let bRise := !b && b'
  match type with
  | 1 => if both then 0 else if rise && !b' then 1 else if fall && !b' then -1 else 0
  | 2 => if both || decide (a = a') then 0 else if a' ≠ b' then 1 else -1
  | 3 =>
    if both then 0
    else
      let k := (abPhase a' b' + 4 - abPhase a b) % 4
      if k = 1 then 1 else if k = 3 then -1 else 0
  | 4 => if rise then (if b' then -1 else 1) else 0
  | 5 => if rise && !bRise then 1 else if bRise && !rise then -1 else 0
  | _ => 0

/-- New filtered levels of A and B in one motion clock. -/
def State.incremental (s : State) (ch : Nat) (a b : Bool) : State :=
  let t := s.mchType ch
  let q := s.mch ch
  if !s.mchLive ch || decide (5 < t) then s
  else
    let d := countOf t q.a q.b a b
    let d := if bit (s.act Reg.MCH_CTRL ch) 4 then -d else d
    let quad := decide (t ≤ 3) && decide (a ≠ q.a) && decide (b ≠ q.b)
    let lost := decide (q.setAt = s.time.clk + 1)
    let s := s.setMch ch (fun q => { q with a := a, b := b })
    let s := if quad then (s.setMch ch (fun q => { q with suspect := true })).mchAlarm ch 0 else s
    let s := if lost then s else s.moveBy ch s.time.clk d s.now16
    s.indexCheck ch q.z

/-- POSITION_COUNT. -/
def execPositionCount (ch : Nat) (a b : Bool) (s : State) : Host.Outcome State Fault Refusal :=
  s.go (fun s => s.incremental ch a b)

/-- QUAD_ERR: both tracks of a quadrature channel change in one clock. -/
def execQuadErr (ch : Nat) (s : State) : Host.Outcome State Fault Refusal :=
  s.go (fun s => if 3 < s.mchType ch then s else s.incremental ch (!(s.mch ch).a) (!(s.mch ch).b))

/-! ### Reads of serial and sine channels, and who waits for them (R465, R477) -/

/-- A quotient rounded to the nearest whole number; of two equally near, either. -/
def State.roundTo (s : State) (n d : Int) : Int × State :=
  let k := n / d
  let r := n % d
  if 2 * r = d then (k + (s.freeNat 1 : Nat), s.useFree) else if 2 * r < d then (k, s) else (k + 1, s)

/-- Write the position into what waited for it: a frame record still open, or a probe's latch. HELD is cleared. -/
def State.deliverPos (s : State) (w : PosWait) (p : Pos) (held : Bool) : State :=
  if w.forProbe then
    (if w.index = 0 then s.set64 Reg.PRB_POS0_LO Reg.PRB_POS0_HI w.owner (p.signExtend 64).toNat
      else s.set64 Reg.PRB_POS1_LO Reg.PRB_POS1_HI w.owner (p.signExtend 64).toNat)
  else
    let key := w.channel * 16 + w.index
    s.setFrame w.owner (fun f =>
      let flags := f.motion.get 0 key / 2 ^ 48 % 128
      { f with motion := f.motion.put 0 key (p.toNat + 2 ^ 48 * (flags + 128 * b2n held)) })

/-- The frame's record can still take a sample. -/
def State.waitLive (s : State) (w : PosWait) : Bool :=
  w.forProbe || (match s.frame? w.owner with
    | some f => decide (f.phase = .triggered) || decide (f.phase = .opened) || decide (f.phase = .ended)
    | none => false)

/-- A read of a channel with its latch time completes: waiting instants before it take the interpolated position, later ones the
new earlier read. -/
def State.readDone (s : State) (ch : Nat) (t : Int) (p : Pos) : State :=
  let mine := s.motion.waits.filter (fun w => decide (w.channel = ch) && s.waitLive w)
  let others := s.motion.waits.filter (fun w => decide (w.channel ≠ ch))
  let later := (mine.filter (fun w => decide (t ≤ w.at_))).map (fun w => { w with before := some (t, p) })
  let s := { s with motion := { s.motion with waits := others ++ later } }
  let s := later.foldl (fun s w => s.deliverPos w p (!w.forProbe)) s
  let s := (mine.filter (fun w => decide (w.at_ < t))).foldl (fun s w =>
    match w.before with
    | none => s
    | some (t0, p0) =>
      let (x, s) := s.roundTo (posDiff p p0 * (w.at_ - t0)) (t - t0)
      s.deliverPos w (p0 + posOf x) false) s
  s.setMch ch (fun q => { q with read := some (t, p) })

/-- The device time, in 2^−16 ns, some clocks ago, at the present rate. -/
def State.ago16 (s : State) (clks : Nat) : Int :=
  (((s.time.now : Int) - clks * (4 * nsUnit + s.time.adj * 1024)) / (2 ^ 32 : Nat))

/-- Gray code to binary. -/
def grayToBin (n g : Nat) : Nat := ((List.range n).map (fun k => g >>> k)).foldl Nat.xor 0

/-- A good value of a serial read whose first clock edge lay `ago` clocks back (R455). -/
def State.serialGood (s : State) (ch v ago : Nat) : State :=
  let q := s.mch ch
  let bits := s.actF Reg.MCH_SERIAL ch 5 0
  let delay := (s.act Reg.MCH_LATCH_DELAY ch).toNat
  let ofs := pairPos (s.act Reg.MCH_OFFSET_LO ch) (s.act Reg.MCH_OFFSET_HI ch)
  let at16 := s.ago16 ago + delay * 65536
  let t := s.time.clk - ago + delay / 4
  let d : Int := match q.last, bit (s.act Reg.MCH_CTRL ch) 31 with
    | some v0, true => toSigned bits (v + 2 ^ bits - v0 % 2 ^ bits)
    | _, _ => posDiff (BitVec.ofNat 48 v + ofs) q.pos
  let s := s.moveBy ch t d at16
  let s := s.setMch ch (fun q => { q with last := some v, referenced := true })
  s.readDone ch at16 (s.mch ch).pos

/-- SERIAL_READ: what a BiSS-C or SSI read shifted in. `ack`: Ack came within 20 µs; `crc`: the six bits of the CRC as sent;
`nE`, `nW`: the error and warning bits; `high`: the data line is high when the next read may start; `ago`: clocks since the
first clock edge of the read (R453–R455). -/
def State.serialRead (s : State) (ch raw : Nat) (ack : Bool) (crc : Nat) (nE nW high : Bool) (ago : Nat) : State :=
  let t := s.mchType ch
  let bits := s.actF Reg.MCH_SERIAL ch 5 0
  let v := raw % 2 ^ bits
  if !s.mchLive ch || decide (t < 6) || decide (8 < t) || decide (s.time.clk < ago) then s
  else if t = 6 then
    let want := 63 - crcOf 6 0x03 (bitsDown bits v ++ [nE, nW])
    if !ack || decide (crc % 64 ≠ want) then s.mchAlarm ch 4
    else if !nE then s.mchAlarm ch 5
    else
      let s := s.serialGood ch v ago
      if nW then s else s.mchAlarm ch 6
  else if !high then s.mchAlarm ch 4
  else s.serialGood ch (if t = 8 then grayToBin bits v else v) ago

def execSerialRead (ch raw : Nat) (ack : Bool) (crc : Nat) (nE nW high : Bool) (ago : Nat) (s : State) :
    Host.Outcome State Fault Refusal :=
  s.go (fun s => s.serialRead ch raw ack crc nE nW high ago)

/-! ### 1 Vpp sine and cosine (R456–R458) -/

/-- A vector lies in the lower half plane: θ at or above π. -/
def lowerHalf (z : Int × Int) : Bool := decide (z.2 < 0) || (decide (z.2 = 0) && decide (z.1 < 0))

/-- The first `n` binary digits of θ / 2π, by doubling the angle. -/
def anglePart : Nat → Int × Int → Nat → Nat
  | 0, _, acc => acc
  | n + 1, z, acc => anglePart n (z.1 * z.1 - z.2 * z.2, 2 * z.1 * z.2) (2 * acc + b2n (lowerHalf z))

/-- θ of one vector lies before θ of another, both from 0 to 2π. -/
def angleLt (z w : Int × Int) : Bool :=
  if lowerHalf z ≠ lowerHalf w then !lowerHalf z else decide (0 < z.1 * w.2 - z.2 * w.1)

/-- s and c of a sample, scaled by 2^15 (R456). -/
def State.sinVec (s : State) (ch : Nat) (a b : Int) : Int × Int :=
  let o := s.act Reg.MCH_SIN_OFS ch
  ((b - toSigned 16 (fld o 31 16)) * (s.actF Reg.MCH_COS_GAIN ch 15 0 : Int), (a - toSigned 16 (fld o 15 0)) * 32768)

/-- r² lies in the amplitude window (R457). -/
def State.ampIn (s : State) (ch : Nat) (z : Int × Int) : Bool :=
  let w := s.act Reg.MCH_AMP_WIN ch
  let nom : Nat := s.actF Reg.MCH_SINCOS ch 31 16
  let r := (z.1 * z.1 + z.2 * z.2).natAbs * 2 ^ 14
  let unit := nom * nom * 2 ^ 30
  decide (unit ≠ 0) && decide (fld w 15 0 * unit ≤ r) && decide (r ≤ fld w 31 16 * unit)

/-- A vector of some direction: a sample of amplitude 0 has none, so the direction is free. -/
def State.someVec (s : State) (z : Int × Int) : (Int × Int) × State :=
  if z ≠ (0, 0) then (z, s)
  else
    let x := s.freeInt
    let y := s.useFree.freeInt
    (if x = 0 ∧ y = 0 then (1, 0) else (x, y), s.useFree.useFree)

/-- A sample used after another: the movement of the smaller unwrapping in counts, and whether it passes 3/8 of a period. Of two
movements of half a period, either. -/
def State.sinMove (s : State) (log : Nat) (z0 z : Int × Int) : Int × Bool × State :=
  let re := z.1 * z0.1 + z.2 * z0.2
  let im := z.2 * z0.1 - z.1 * z0.2
  let half := decide (im = 0) && decide (re < 0)
  let fwd := if half then decide (s.freeNat 1 = 0) else decide (0 ≤ im)
  let s := if half then s.useFree else s
  let wrap : Int := if fwd && angleLt z z0 then 1 else if !fwd && angleLt z0 z then -1 else 0
  let d := (anglePart log z 0 : Int) - anglePart log z0 0 + wrap * (2 ^ log : Nat)
  (d, decide (re < 0) && decide (im.natAbs < re.natAbs), s)

/-- SINCOS_SAMPLE: the ADC codes of A and B at a conversion. -/
def State.sinSample (s : State) (ch : Nat) (a b : Int) : State :=
  if !s.mchLive ch || decide (s.mchType ch ≠ 9) then s
  else
    let log := s.actF Reg.MCH_SINCOS ch 3 0
    let raw := s.sinVec ch a b
    let ok := s.ampIn ch raw
    let (z, s) := s.someVec raw
    let q := s.mch ch
    let at16 : Int := s.now16
    let run := if ok = q.ampBad then q.ampRun + 1 else 0
    let s := s.setMch ch (fun q => { q with ampRun := if run = 4 then 0 else run })
    if q.ampBad ∧ run < 4 then s.readDone ch at16 q.pos
    else if !q.ampBad ∧ run = 4 then
      -- the position holds from this sample on
      ((s.setMch ch (fun q => { q with ampBad := true })).mchAlarm ch 2).readDone ch at16 q.pos
    else
      let (d, past, s) : Int × Bool × State := match q.vec with
        | none => ((anglePart log z 0 : Int), false, s)
        | some z0 =>
          -- after the amplitude has been bad, the period count stands and θ is new
          if q.ampBad then ((anglePart log z 0 : Int) - anglePart log z0 0, false, s) else s.sinMove log z0 z
      let s := if q.ampBad then s.setMch ch (fun q => { q with ampBad := false, suspect := true }) else s
      let s := if past then (s.setMch ch (fun q => { q with suspect := true })).mchAlarm ch 3 else s
      let s := s.setMch ch (fun q => { q with vec := some z })
      let lost := decide (q.setAt = s.time.clk + 1)
      let s := if lost then s else s.moveBy ch s.time.clk d at16
      let s := s.readDone ch at16 (s.mch ch).pos
      s.indexCheck ch q.z

def execSincosSample (ch : Nat) (a b : Int) (s : State) : Host.Outcome State Fault Refusal := s.go (fun s => s.sinSample ch a b)

/-! ### Standstill and decay (R460) -/

/-- SPEED_STILL. -/
def execSpeedStill (ch : Nat) (s : State) : Host.Outcome State Fault Refusal :=
  s.go (fun s => if s.mchLive ch then s.settle ch else s)

/-- SPEED_DECAY. -/
def execSpeedDecay (ch : Nat) (s : State) : Host.Outcome State Fault Refusal :=
  s.go (fun s => if s.mchLive ch then s.settle ch else s)

/-! ### Probes (R465) -/

/-- The channel is read, so a position at an instant lies between its reads. -/
def State.isRead (s : State) (ch : Nat) : Bool := decide (6 ≤ s.mchType ch) && decide (s.mchType ch ≤ 9)

/-- The position of a channel now, or what stands for it until its next read. -/
def State.posNow (s : State) (ch : Nat) : Pos :=
  let q := s.mch ch
  if s.isRead ch then (q.read.map (·.2)).getD q.pos else q.pos

/-- Wait for the next read of a channel. -/
def State.waitFor (s : State) (w : PosWait) : State :=
  if s.isRead w.channel then
    { s with motion := { s.motion with waits := s.motion.waits ++ [{ w with before := (s.mch w.channel).read }] } } else s

/-- PROBE_EDGE: a filtered edge of a probe input. -/
def State.probeEdge (s : State) (k : Nat) (rise : Bool) : State :=
  let c := s.reg Reg.PRB_CTRL k
  let e := fld c 2 1
  let sel := decide (e = 2) || decide (e = (if rise then 0 else 1))
  let st := s.reg Reg.PRB_STATUS k
  if 8 ≤ k ∨ !bit c 0 ∨ !sel then s
  else
    let missed := s.setF Reg.PRB_STATUS k 7 0 (satAdd 255 (fld st 7 0) 1)
    if bit st 31 && !bit c 3 then missed
    else
      let s := if bit st 31 then missed else s
      let t : Int := (s.now16 : Int) - Config.inputDelay 0 * 65536
      let s := { s with motion := { s.motion with waits := s.motion.waits.filter (fun w => !(w.forProbe && decide (w.owner = k))) } }
      let s := (s.set64 Reg.PRB_TIME_LO Reg.PRB_TIME_HI k (ofSigned 64 (t / 65536))).setEvt Reg.PRB_STATUS k 31
      ([(fld c 12 8, 0), (fld c 20 16, 1)] : List (Nat × Nat)).foldl (fun s x =>
        let w : PosWait := { channel := x.1, forProbe := true, owner := k, index := x.2, at_ := t, before := none }
        (s.deliverPos w (s.posNow x.1) false).waitFor w) s

def execProbeEdge (k : Nat) (rise : Bool) (s : State) : Host.Outcome State Fault Refusal := s.go (fun s => s.probeEdge k rise)

/-- A write of 1 to PRB_STATUS.VALID. -/
def State.probeClear (s : State) (k : Nat) : State := s.clrReg Reg.PRB_STATUS k 0x800000FF

/-! ### Trigger inputs (R473) -/

/-- TRIG_IN_EDGE: a filtered edge of TRIG_IN[k]. -/
def State.trigIn (s : State) (k : Nat) (rise : Bool) : State :=
  let e := s.actF Reg.TRIG_IN_EDGE 0 (2 * k + 1) (2 * k)
  if 8 ≤ k ∨ !(e.testBit (if rise then 0 else 1)) then s
  else s.rigSource (0x20 + k) ((s.now16 : Int) - Config.inputDelay (s.actF Reg.TRIG_IN_FILT 0 3 0) * 65536)

def execTrigInEdge (k : Nat) (rise : Bool) (s : State) : Host.Outcome State Fault Refusal := s.go (fun s => s.trigIn k rise)

/-! ### Motion samples in the frame (R476–R478) -/

/-- The instant of a frame's sample point, in 2^−16 ns. -/
def FrameSt.samplePoint (f : FrameSt) (k : Nat) : Int :=
  f.t + f.msShift + ((f.msOffset + k * f.msSpan / f.msPoints : Nat) : Int) * 65536

/-- The flags of a sample of a channel for a rig (R478). -/
def State.sampleFlags (s : State) (ch r : Nat) : Nat :=
  let q := s.settled ch
  b2n (decide (s.mchType ch ≠ 0) && !q.ampBad) + 2 * b2n q.valid + 4 * b2n q.still + 8 * b2n q.dirNeg + 16 * b2n q.referenced
    + 32 * b2n q.suspect + 64 * b2n (decide (q.told.get 0 r < q.alarms)) + 128 * b2n (s.isRead ch)

/-- The points that a frame has reached and not taken. -/
def State.takePoints (s : State) (id : Nat) : Nat → State
  | 0 => s
  | fuel + 1 =>
    match s.frame? id with
    | none => s
    | some f =>
      let k := f.msNext
      let open_ := decide (f.phase = .triggered) || decide (f.phase = .opened) || decide (f.phase = .ended)
      if !open_ || decide (f.msPoints ≤ k) || decide ((s.now16 : Int) < f.samplePoint k) then s
      else
        let chs := setBits f.msMask 24
        let s := s.setFrame id (fun f => { f with
          msNext := k + 1,
          motion := chs.foldl (fun (m : Tab Nat) ch =>
            m.put 0 (ch * 16 + k) ((s.posNow ch).toNat + 2 ^ 48 * s.sampleFlags ch f.rig)) f.motion })
        let s := chs.foldl (fun (s : State) ch =>
          s.waitFor { channel := ch, forProbe := false, owner := id, index := k, at_ := f.samplePoint k, before := none }) s
        s.takePoints id fuel

/-- MOTION_SAMPLE: every frame of a rig takes the sample points it has reached. -/
def State.motionSample (s : State) (r : Nat) : State :=
  let mine := s.store.frames.filter (fun f => decide (f.rig = r))
  let chs := (List.range 24).filter (fun ch => mine.any (fun f =>
    f.msMask.testBit ch && decide (f.msNext < f.msPoints) && decide (f.samplePoint f.msNext ≤ s.now16)))
  let s := mine.foldl (fun (s : State) f => s.takePoints f.id 16) s
  chs.foldl (fun (s : State) ch => s.setMch ch (fun q => { q with told := q.told.put 0 r q.alarms })) s

def execMotionSample (r : Nat) (s : State) : Host.Outcome State Fault Refusal := s.go (fun s => s.motionSample r)

/-! ### Register views (R465, R481) -/

/-- What a channel shows: while it is powered down, what it held at power-down (R593). -/
def State.mchNow (s : State) (ch : Nat) : MchSt := if s.mchPowered ch then s.settled ch else s.mch ch

/-- MCH_STATUS. -/
def State.mchStatus (s : State) (ch : Nat) : Word :=
  let q := s.mchNow ch
  BitVec.ofNat 32 (s.unitCode 0x10 ch + 32 * b2n q.referenced + 64 * b2n q.suspect + 128 * b2n q.still + 256 * b2n q.valid
    + 512 * b2n q.dirNeg + 1024 * b2n q.ampBad + 2048 * b2n q.a + 4096 * b2n q.b + 8192 * b2n q.z)

/-- The speed register pair: signed 32.16 in bits [47:0]. -/
def State.mchSpeed (s : State) (ch : Nat) : Nat := ofSigned 64 (s.mchNow ch).speed

/-- ECHO_STATUS. -/
def State.echoStatus (s : State) (k : Nat) : Word :=
  let e := s.echo k
  BitVec.ofNat 32 (ofSigned 17 e.pending + 2 ^ 31 * b2n e.overrun)

/-- An echo is enabled or reconfigured at a commit: it starts at AB = 00 with nothing pending (R470). -/
def State.echoStart (s : State) (k : Nat) : State :=
  let e := s.echo k
  let s := if e.phase = 1 ∨ e.phase = 2 then s.emit (.pin "ECHO_A" k false) else s
  let s := if e.phase = 2 ∨ e.phase = 3 then s.emit (.pin "ECHO_B" k false) else s
  s.setEcho k (fun e => { overrun := e.overrun })

/-- PORST# clears position, REFERENCED and SUSPECT; a commit that changes a channel's TYPE starts its decoder afresh. -/
def State.mchRetype (s : State) (ch : Nat) : State :=
  (s.settle ch).setMch ch (fun q => { q with run := [], speed := 0, valid := false, last := none, vec := none, ampRun := 0, read := none, indexOn := false })

end Sys2Proof.Machine
end

