-- ==== Sys2Proof/Machine/DevReset.lean ====
section
/-! DEFINITION. A device reset and the start of boot (R33, R490, R573, R604, R609, R622). -/

namespace Sys2Proof.Machine

/-- The lanes that a strap value gives a port; 0 where the port does not exist (R352). -/
def strapWidth (bifurc p : Nat) : Nat :=
  ((([[16], [8, 8], [8, 4, 4], [4, 4, 4, 4]] : List (List Nat)).getD bifurc []).getD p 0)

/-- What survives a device reset: the key store and fuses, the boot flash, the straps, and what is outside the device. -/
def State.deviceReset (s : State) (why : Option Stop) : State :=
  let q := s.svc
  { State.reset with
    pending := s.pending, out := s.out, free := s.free,
    ports := s.ports.map (fun e => (e.1, ({ perst := e.2.perst } : PortSt))),
    sec := s.sec.survive,
    svc := {
      stopped := why, plog := q.plog, plogHead := q.plogHead, retired := q.retired, softRepairs := q.softRepairs,
      fatals := q.fatals, porstLow := q.porstLow, bifurc := q.bifurc, bootSrc := q.bootSrc, hardRepairs := q.hardRepairs,
      jtagIr := q.jtagIr, jtagCells := q.jtagCells } }

/-- A boot stage begins. -/
def State.stage (s : State) (n : Nat) : State :=
  let s := s.setF Reg.BOOT_STATUS 0 7 0 n
  { s with svc := { s.svc with stageAt := s.time.clk } }

/-- Boot begins, with the straps as sampled. -/
def State.bootStart (s : State) : State :=
  let s := ((s.setF Reg.BOOT_STATUS 0 29 28 s.svc.bifurc).setF Reg.BOOT_STATUS 0 27 27 (b2n s.svc.bootSrc)).stage 1
  (List.range 4).foldl (fun (s : State) p =>
    if strapWidth s.svc.bifurc p = 0 then s else s.setReg Reg.HP_STATUS p 0 0x80000000) s

end Sys2Proof.Machine
end

