-- ==== Sys2Proof/Machine/Movers.lean ====
section
/-! DEFINITION. Movers: delivery descriptors, the cut of their work by tick, deliveries, halts, and service transfers
(R417–R445, R536–R538). -/

namespace Sys2Proof.Machine

def State.sub (s : State) (k : Nat) : SubSt := s.mover.subs.get {} k
def State.setSub (s : State) (k : Nat) (f : SubSt → SubSt) : State :=
  s.setMover (fun q => { q with subs := q.subs.upd {} k f })
def Dlv.same (a b : Dlv) : Bool := decide (a.ring = b.ring) && decide (a.descNo = b.descNo)
def State.setDlv (s : State) (x : Dlv) (f : Dlv → Dlv) : State :=
  s.setMover (fun q => { q with dlv := q.dlv.map (fun y => if y.same x then f y else y) })
def State.subOn (s : State) (k : Nat) : Bool := decide (k < 128) && bit (s.act Reg.SUB_CTRL k) 31
def State.subPort (s : State) (k : Nat) : Nat := s.actF Reg.SUB_CTRL k 29 28
def State.subParts (s : State) (k : Nat) : Nat := s.actF Reg.SUB_CTRL k 27 24
def State.subRing (s : State) (k : Nat) : Nat := s.actF Reg.SUB_CTRL k 9 0

/-! ### Taking a delivery descriptor (R403, R423, R424, R429, R431) -/

/-- Take a descriptor of a DLV ring: one that fails a check completes with no frame, and the others wait to be bound. -/
def State.takeDlv (s : State) (d : Desc) (opcode : Nat) (used : List (Nat × Nat)) (operands : Bool) (x : Ticket → Dlv) : State :=
  if !s.takeable d 1 then s
  else
    let t := { ticketOf d opcode with gen := (s.ring d.ring).gen }
    let no := (s.ring d.ring).dev.toNat % 2 ^ 24
    let k := tIndex d
    let s := s.take d
    let ok := d.known && structOk d (tIs d 9 128 && s.subOn k && decide (s.subRing k = d.ring)) used false && operands
    let y := { x t with ring := d.ring, sub := k, ticket := t, descNo := no, noSnoop := fNoSnoop d }
    if fChain d ∧ 16 < d.blocks then (s.setEvt Reg.RING_EVENTS d.ring 2).endDelivery y stChainLimit 0 0 0
    else if ok then s.setMover (fun q => { q with dlv := q.dlv ++ [y] })
    else s.endDelivery y stBadParam 0 0 0

def execDlvFrame (d : Desc) (s : State) : Host.Outcome State Fault Refusal :=
  s.go (fun s => s.takeDlv d 0x80 [(8, 52)]
    (decide (opAt d 16 8 % 64 = 0) && decide (opAt d 24 8 % 64 = 0) && decide (opAt d 32 8 % 64 = 0) && decide (opAt d 48 8 % 8 = 0))
    (fun t => {
      ring := d.ring, sub := 0, ticket := t, descNo := 0, payload := opAt d 8 8, stats := opAt d 16 8, preview := opAt d 24 8,
      record := opAt d 32 8, payloadCap := opAt d 40 4, stride := opAt d 44 4, signal := opAt d 48 8, previewCap := opAt d 56 4 }))

def execDlvGather (d : Desc) (s : State) : Host.Outcome State Fault Refusal :=
  s.go (fun s => s.takeDlv d 0x81 [(8, 48)]
    (decide (opAt d 32 8 % 64 = 0) && decide (opAt d 40 8 % 64 = 0) && decide (opAt d 48 8 % 8 = 0)
      && decide (1 ≤ opAt d 28 4) && decide (opAt d 28 4 ≤ 1048576) && (s.subParts (tIndex d)).testBit 0)
    (fun t => {
      ring := d.ring, sub := 0, ticket := t, descNo := 0, gather := true, payload := opAt d 8 8, payloadCap := opAt d 16 4,
      index := opAt d 20 4, first := opAt d 24 4, count := opAt d 28 4, stats := opAt d 32 8, record := opAt d 40 8,
      signal := opAt d 48 8 }))

/-! ### Binding (R420, R425, R426, R432–R434) -/

/-- ELEM_SIZE of an index table, when the handle names one (R432). -/
def State.indexElem (s : State) (h : Nat) : Option (Nat × Nat) :=
  match s.obj? h with
  | none => none
  | some _ =>
    let es := leNat (s.objBytes h 4 4)
    let n := leNat (s.objBytes h 8 4)
    if s.objBytes h 0 4 = [0x50, 0x49, 0x58, 0x31] ∧ es % 16 = 0 ∧ 16 ≤ es ∧ es ≤ 65536 ∧ 1 ≤ n ∧ n ≤ 16777216
        ∧ (s.objBytes h 12 52).all (fun b => decide (b = 0)) then some (es, n) else none

/-- The elements a gather uses: buffer index and element, those skipped left out (R433). -/
def State.gatherElems (s : State) (x : Dlv) : List (Nat × Nat) :=
  (List.range x.count).filterMap (fun k =>
    let e := leNat (s.objBytes x.index (64 + 4 * (x.first + k)) 4)
    if e = 0xFFFFFFFF then none else some (k, e))

/-- The payload bytes of a descriptor for a frame, unless a check at binding fails. -/
def State.payloadBytes (s : State) (x : Dlv) (f : FrameSt) : Option Nat :=
  let t := f.latch
  let fb := frameBytes t f.stream
  let lb := lineBytes t f.stream
  if x.gather then
    match s.indexElem x.index with
    | none => none
    | some (es, n) =>
      let els := s.gatherElems x
      if x.first + x.count ≤ n ∧ x.count * es ≤ x.payloadCap ∧ els.all (fun e => decide (e.2 * es + es ≤ fb)) then
        some (els.length * es) else none
  else
    let need := if x.stride = 0 then fb else x.stride * (geomH t f.stream - 1) + lb
    if need ≤ x.payloadCap ∧ (x.stride = 0 ∨ lb ≤ x.stride) then some fb else none

/-- The parts of a descriptor's byte space for a frame, and its length; none when a buffer is too small (R426, R427). -/
def State.bindParts (s : State) (x : Dlv) (f : FrameSt) : Option (Nat × Nat) :=
  let named := fun (b addr : Nat) => (s.subParts x.sub).testBit b && decide (addr ≠ 0) && (!f.pvOnly || b = 1 || b = 2)
  let pv := pvBytes f.latch f.stream
  let rest := (if named 1 x.stats then 2 else 0) + (if named 2 x.preview then 4 else 0) + (if named 3 x.record then 8 else 0)
  let size := (if named 1 x.stats then 16384 else 0) + (if named 2 x.preview then pv else 0) + (if named 3 x.record then 4096 else 0)
  if named 2 x.preview && decide (x.previewCap < pv) then none
  else if named 0 x.payload || (x.gather && !f.pvOnly) then
    match s.payloadBytes x f with
    | none => none
    | some n => if named 0 x.payload then some (rest + 1, size + n) else some (rest, size)
  else some (rest, size)

/-- The frame may be bound for the subscription: a take's frames wait for their seal (R28), and a burst's frames for its end unless
only statistics and previews are wanted (R261). -/
def State.bindable (s : State) (k : Nat) (f : FrameSt) : Bool :=
  (!f.hold.sealing || f.sealed) && (!(f.hold.burst && decide (s.rigMode f.rig = .burst)) || decide (s.subParts k / 8 = 0 ∧ s.subParts k % 2 = 0))

/-- The unbound descriptors of a subscription. -/
def State.unboundDlv (s : State) (k : Nat) : List Dlv := s.mover.dlv.filter (fun x => decide (x.sub = k) && x.frame.isNone)

/-- The pending frames of a subscription that may be bound, in order, within its credits (R261, R443). -/
def State.bindFrames (s : State) (k : Nat) : List FrameSt :=
  let fs := (s.sub k).pend.filterMap (fun id => (s.frame? id).bind (fun f => if s.bindable k f then some f else none))
  if bit (s.act Reg.SUB_CTRL k) 23 then fs.take (s.sub k).credits else fs

/-- The unbound descriptors of a subscription with the pending frames they would take, in order (R426). -/
def State.pairs (s : State) (k : Nat) : List (Dlv × FrameSt) := (s.unboundDlv k).zip (s.bindFrames k)

/-- The bytes that unbound descriptors would take for frames in order; one that fails its checks at binding takes none, and
the frame goes to the next (R426). -/
def State.pairBytes (s : State) : List Dlv → List FrameSt → Nat
  | x :: ds, f :: fs =>
    match s.bindParts x f with
    | some p => p.2 + s.pairBytes ds fs
    | none => s.pairBytes ds (f :: fs)
  | _, _ => 0

/-- The bound descriptors of a subscription that still have work. -/
def State.bound (s : State) (k : Nat) : List (Dlv × FrameSt) :=
  s.mover.dlv.filterMap (fun x =>
    if x.sub = k ∧ !x.halted ∧ (x.given < x.total ∨ x.redo ≠ []) then
      (x.frame.bind (fun id => s.frame? id)).map (fun f => (x, f)) else none)

/-- The subscription can move bytes: its port talks and its ring runs (R361, R392, R439). -/
def State.subMoves (s : State) (k : Nat) : Bool :=
  s.subOn k && s.portTalks (s.subPort k) && decide ((s.ring (s.subRing k)).state = .running) && !(s.sub k).blocked

/-- Bytes of a range list. -/
def redoBytes (x : Dlv) : Nat := x.redo.foldl (fun n e => n + e.2) 0

/-- The pending bytes of a subscription (R99, R436). -/
def State.subPending (s : State) (k : Nat) : Nat :=
  if s.subMoves k then
    (s.bound k).foldl (fun n x => n + (x.1.total - x.1.given) + redoBytes x.1) 0
      + s.pairBytes (s.unboundDlv k) (s.bindFrames k)
  else 0

/-- Before the planner builds the job set, subscriptions ask for their pending bytes (R92, R99). -/
def State.subAsk (s : State) (k : Nat) : State :=
  if !s.subOn k then s
  else
    let n := s.subPending k
    let s := ([(6, s.subPort k), (8, 0), (9, 0)] : List (Nat × Nat)).foldl (fun s x => s.setWork (.sub k) x.1 x.2 n) s
    -- bytes of spilled frames are read in the spill reservation (R266)
    (s.bound k).foldl (fun s x => match x.2.loc with
      | .spilled w _ => s.setWork (.spill w) 7 (s.subPort k) (max (s.pendingWork (.spill w) 7 (s.subPort k)) (x.1.total - x.1.given))
      | _ => s) s

/-! ### Moving bytes (R425, R427, R433, R437, R438, R440) -/

/-- Cut [o, o + n) at multiples of a unit: index, offset in the unit, length. -/
def splitBy (u : Nat) : Nat → Nat → Nat → List (Nat × Nat × Nat)
  | 0, _, _ => []
  | fuel + 1, o, n =>
    if n = 0 then []
    else
      let k := min n (u - o % u)
      (o / u, o % u, k) :: splitBy u fuel (o + k) (n - k)

/-- The runs of a range of one part: destination, source offset in the part of the frame, length. -/
def State.partRuns (s : State) (x : Dlv) (f : FrameSt) (part a n : Nat) : List (Nat × Nat × Nat) :=
  match part with
  | 0 =>
    if x.gather then
      match s.indexElem x.index with
      | none => []
      | some (es, _) =>
        let els := s.gatherElems x
        (splitBy es (n / es + 2) a n).map (fun p =>
          let e := els.getD p.1 (0, 0)
          (x.payload + e.1 * es + p.2.1, e.2 * es + p.2.1, p.2.2))
    else if x.stride = 0 then [(x.payload + a, a, n)]
    else
      let lb := lineBytes f.latch f.stream
      (splitBy lb (n / lb + 2) a n).map (fun p => (x.payload + p.1 * x.stride + p.2.1, p.1 * lb + p.2.1, p.2.2))
  | 1 => [(x.stats + a, a, n)]
  | 2 => [(x.preview + a, a, n)]
  | _ => [(x.record + a, a, n)]

/-- Move one run of one part of a frame. -/
def State.moveRun (s : State) (m : Nat) (x : Dlv) (f : FrameSt) (part : Nat) (run : Nat × Nat × Nat) : State :=
  let p := s.subPort x.sub
  let (dst, src, n) := run
  match f.loc with
  | .spilled w ps =>
    let at_ := if part = 0 then src else if part = 1 then 4096 + src else src
    let base := fun (o : Nat) => s.spwBase w + 65536 * ps.getD (if part = 0 then 1 + o / 65536 else 0) 0 + o % 65536
    (pageSplit (n / 65536 + 2) at_ n).foldl (fun (s : State) c =>
      let o := 65536 * c.1 + c.2.1
      (((s.moverReads m (s.spwAt w) (base o) c.2.2).emit (.hostCopy (s.spwAt w) (base o) p (dst + (o - at_)) c.2.2)).hostReadCount (s.spwAt w) c.2.2).add64
        Reg.HP_TX_BYTES_LO Reg.HP_TX_BYTES_HI p c.2.2) s
  | _ =>
    let data := match part with
      | 0 => s.getPayload f src n
      | 1 => sliceBytes f.block src n
      | 2 => sliceBytes f.pvImage src n
      | _ => sliceBytes f.record src n
    let s := match part, f.slot with
      | 0, _ => s.readBytes f src n
      | 1, some i => s.tableBytes (blockGranule i + src / 4096) n
      | 3, some i => s.tableBytes (recordGranule i) n
      | _, _ => s
    let s := if s.ideBlocks p dst data then
        (s.moverErr m p 0 x.ring true 6 dst).setDlv x (fun y => { y with
          sec := true, cutParts := y.cutParts ||| 2 ^ part, cutBytes := y.cutBytes + (if part = 0 then n else 0) })
      else s
    s.hostWrite p dst data x.noSnoop

/-- Move bytes [a, a + n) of a bound descriptor's byte space. -/
def State.moveBytes (s : State) (m : Nat) (x : Dlv) (f : FrameSt) (a n : Nat) : State :=
  ((s.dlvParts x).foldl (fun (acc : State × Nat) part =>
    let lo := max a acc.2
    let hi := min (a + n) (acc.2 + part.2)
    (if lo < hi then
      (acc.1.partRuns x f part.1 (lo - acc.2) (hi - lo)).foldl (fun s r => s.moveRun m x f part.1 r) acc.1
     else acc.1, acc.2 + part.2)) (s, 0)).1

/-- Give a mover a range of a descriptor: it moves, and the mover shows its work (R418, R446). -/
def State.giveRange (s : State) (m : Nat) (x : Dlv) (f : FrameSt) (a n : Nat) : State :=
  let s := s.setMover (fun q => { q with movers := q.movers.upd {} m (fun v => { v with
    work := 1, run := 1, id := x.sub, ring := x.ring, descNo := x.descNo, held := v.held ++ [(x.ring, x.descNo, a, n)] }) })
  (s.moveBytes m x f a n).add64 Reg.MV_BYTES_LO Reg.MV_BYTES_HI m n

/-- Spread a range of a descriptor that starts `at_` bytes into the tick's work over the movers in runs (R436). -/
def State.giveRuns (s : State) (ms : List Nat) (run : Nat) (x : Dlv) (f : FrameSt) : Nat → Nat → Nat → Nat → State
  | 0, _, _, _ => s
  | fuel + 1, at_, a, n =>
    if n = 0 then s
    else
      let j := min (at_ / run) (ms.length - 1)
      let k := if j + 1 = ms.length then n else min n (run - at_ % run)
      (s.giveRange (ms.getD j 0) x f a k).giveRuns ms run x f fuel (at_ + k) (a + k) (n - k)

/-- Bind a descriptor to a frame, or complete it BAD_PARAM for the next to take the frame (R426, R429, R443). -/
def State.bind (s : State) (x : Dlv) (f : FrameSt) : State :=
  let hold := fun (s : State) => s.setFrame f.id (fun g => { g with readers := g.readers + 1 })
  match s.bindParts x f with
  | none => (hold s).endDelivery { x with frame := some f.id } stBadParam 0 (4 * b2n x.gather) 0
  | some (parts, total) =>
    let s := (hold s).setDlv x (fun y => { y with frame := some f.id, parts := parts, total := total })
    s.setSub x.sub (fun q => { q with
      pend := q.pend.filter (fun id => decide (id ≠ f.id)),
      credits := if bit (s.act Reg.SUB_CTRL x.sub) 23 then q.credits - 1 else q.credits })

/-- The descriptor whose turn it is: the lowest frame number, then the byte space that is least advanced in pieces of 65,536
bytes, then the lowest stream (R435). -/
def turnOf (l : List (Dlv × FrameSt)) : Option (Dlv × FrameSt) :=
  let key := fun (e : Dlv × FrameSt) => (e.2.frame, if e.1.redo = [] then e.1.given / 65536 + 1 else 0, e.2.stream)
  let less := fun (a b : Nat × Nat × Nat) =>
    decide (a.1 < b.1) || (decide (a.1 = b.1) && (decide (a.2.1 < b.2.1) || (decide (a.2.1 = b.2.1) && decide (a.2.2 < b.2.2))))
  match l with
  | [] => none
  | e :: t => some (t.foldl (fun a b => if less (key b) (key a) then b else a) e)

/-- What bytes of a spilled frame may still be read in this tick. -/
def State.readLeft (s : State) (k : Nat) (f : FrameSt) (n : Nat) : Nat :=
  match f.loc with
  | .spilled w _ => min n (s.jobLeft (.spill w) 7 (s.subPort k))
  | _ => n

/-- Distribute the granted bytes of a subscription, `at_` of which are given (R435–R437). -/
def State.distribute (s : State) (k : Nat) (ms : List Nat) (run : Nat) : Nat → Nat → Nat → State
  | 0, _, _ => s
  | fuel + 1, at_, left =>
    match turnOf (s.bound k ++ s.pairs k) with
    | none => s
    | some (x, f) =>
      if x.frame.isNone then
        match s.bindParts x f with
        | some (_, total) => if total = 0 ∨ 0 < left then (s.bind x f).distribute k ms run fuel at_ left else s
        | none => (s.bind x f).distribute k ms run fuel at_ left
      else
        let (a, want) := match x.redo with
          | (a, n) :: _ => (a, n)
          | [] => (x.given, min (65536 - x.given % 65536) (x.total - x.given))
        let n := s.readLeft k f (min want left)
        if n = 0 then s
        else
          let s := s.giveRuns ms run x f (n / run + 2) at_ a n
          let s := match f.loc with
            | .spilled w _ => s.useJob (.spill w) 7 (s.subPort k) n
            | _ => s
          let s := s.setDlv x (fun y => match y.redo with
            | (a, m) :: t => { y with redo := if n < m then (a + n, m - n) :: t else t }
            | [] => { y with given := y.given + n })
          s.distribute k ms run fuel (at_ + n) (left - n)

/-- Enough steps for a distribution of `n` bytes. -/
def State.distFuel (s : State) (n : Nat) : Nat := n / 65536 + 4 * s.mover.dlv.length + 64 * 256 + 4

/-- A subscription takes the bytes its jobs of this tick give it (R101, R436). -/
def State.subTake (s : State) (k : Nat) : State :=
  if !s.subMoves k then s
  else
    let p := s.subPort k
    let a := Act.sub k
    let g := min (s.jobLeft a 6 p) (min (s.jobLeft a 8 0) (s.jobLeft a 9 0))
    let n := subMovers s.activeSet k
    let ms := s.idleMovers.take n
    let ms := if ms = [] then ((List.range 64).filter (fun m => s.unitActive 0x0E m)).take 1 else ms
    let run := max 1 (ceilDiv (subDemand s.activeSet k) (max 1 n))
    let s := if ms = [] then s else s.distribute k ms run (s.distFuel g) 0 g
    -- what a job did not give is pending work again at the next boundary
    let s := s.setPlan (fun q => { q with jobs := q.jobs.filter (fun j => decide (j.act ≠ a)) })
    ([(6, p), (8, 0), (9, 0)] : List (Nat × Nat)).foldl (fun s x => s.usedWork x.1 x.2 g) s

/-! ### Shedding and deferral (R104, R110) -/

/-- A class D subscription abandons a pending frame. -/
def State.abandon (s : State) (k : Nat) (f : FrameSt) (cause : Nat) : State :=
  let s := s.setSub k (fun q => { q with pend := q.pend.filter (fun id => decide (id ≠ f.id)) })
  (s.shed k f.stream f.frame cause).releaseIf f.id (16 + k)

/-- The frames whose work a trim of `n` bytes takes from a subscription: those that would have been bound. -/
def State.lostFrames (s : State) (k n : Nat) : List FrameSt :=
  let ms := ((List.range 64).filter (fun m => s.unitActive 0x0E m)).take 1
  let s' := s.distribute k ms (n + 1) (s.distFuel n) 0 n
  s'.mover.dlv.filterMap (fun y =>
    if y.sub = k ∧ s.mover.dlv.any (fun x => x.same y && x.frame.isNone) then y.frame.bind (fun id => s.frame? id) else none)

/-- The cuts of a boundary on subscriptions: class D sheds frames, class C defers (R104). -/
def State.subCuts (s : State) (cuts : List (Job × Nat)) : State :=
  (List.range 128).foldl (fun s k =>
    let mine := cuts.filter (fun c => decide (c.1.act = .sub k))
    let n := mine.foldl (fun n c => max n c.2) 0
    if n = 0 then s
    else if s.subLossy k then (s.lostFrames k n).foldl (fun s f => s.abandon k f 0) s
    else s.setStore (fun q => { q with frames := q.frames.map (fun f =>
      if f.phase = .closed ∧ f.hold.subs.contains k then { f with deferred := true } else f) })) s

/-- A suspended class D subscription abandons its frames (R110). -/
def State.subSuspended (s : State) (k : Nat) : State :=
  if s.subLossy k && s.plan.resvs.any (fun r => decide (r.act = .sub k) && r.suspended) then
    (s.sub k).pend.foldl (fun s id => match s.frame? id with
      | some f => s.abandon k f 1
      | none => s) s
  else s

/-! ### The completion of a delivery (R428–R430, R439, R440) -/

/-- The first descriptor of a ring whose last write has been issued. -/
def State.delivered (s : State) (n : Nat) : Option (Dlv × FrameSt) :=
  s.mover.dlv.findSome? (fun x =>
    if x.ring = n ∧ !x.halted ∧ x.given = x.total ∧ x.redo = [] then
      (x.frame.bind (fun id => s.frame? id)).map (fun f => (x, f)) else none)

/-- A write of a descriptor that port's rights check dropped: mover, address, parts it touched, payload bytes (R369, R440). -/
abbrev RightsDrop := Option (Nat × Nat × Nat × Nat)

def State.delivery (s : State) (n : Nat) (denied : RightsDrop) : State :=
  match s.delivered n with
  | none => s
  | some (x, f) =>
    let p := s.subPort x.sub
    let s := match denied with
      | some (m, addr, _, _) => (((s.count Reg.HP_RIGHTS_CNT p).hpEvt p 5).logEntry 0x0011 (target 0xA p) p).moverErr
          (m % 64) p 0 n true 5 addr
      | none => s
    let sig := decide (x.signal ≠ 0)
    let sigOk := sig && s.ideOk p x.signal 8
    let status := if denied.isSome then stDenied else if x.sec || (sig && !sigOk) then stSecurity
      else if f.bad then stIntegrity else if x.pvLost then stPartial else stDone
    let word := leBytes 4 f.frame ++ leBytes 1 f.stream ++ leBytes 1 status ++ [0, 0]
    let s := if !sig then s
      else if sigOk then (s.emit (.hostWrite p x.signal word false false)).add64 Reg.HP_TX_BYTES_LO Reg.HP_TX_BYTES_HI p 8
      else s.hpEvt p 7
    let spilled := match f.loc with
      | .spilled _ _ => true
      | _ => false
    let cut := x.cutParts ||| (denied.map (fun e => e.2.2.1)).getD 0
    let lost := x.cutBytes + (denied.map (fun e => e.2.2.2)).getD 0
    let pay := match s.dlvParts x with
      | (0, n) :: _ => n
      | _ => 0
    let flags := b2n spilled + 2 * b2n x.redelivered + 4 * b2n x.gather + 8 * b2n sigOk
    let s := s.endDelivery x status ((List.range 4).foldl (fun m b =>
      if x.parts.testBit b && !cut.testBit b then m + 2 ^ b else m) 0) flags (pay - lost)
    let s := if status = stDone ∨ status = stPartial then s.count Reg.SUB_DELIVERED_CNT x.sub else s
    s.releaseIf f.id (16 + x.sub)

def execDelivery (n : Nat) (denied : RightsDrop) (s : State) : Host.Outcome State Fault Refusal := s.go (fun s => s.delivery n denied)

/-! ### Service transfers (R444, R445, R537, R538) -/

def State.chan (s : State) (k : Nat) : ChanSt := s.mover.chans.get {} k
def State.setChan (s : State) (k : Nat) (f : ChanSt → ChanSt) : State :=
  s.setMover (fun q => { q with chans := q.chans.upd {} k f })

/-- The registers that name table objects: flat-field tables, defect lists, looks (R209, R210, R226). -/
def RegSet.handles (t : RegSet) : List Nat :=
  (List.range 64).flatMap (fun st => [(t.val Reg.ST_DEFECT_TBL st).toNat, (t.val Reg.ST_FLAT_TBL st).toNat])
    ++ (List.range 4).flatMap (fun k => [(t.val Reg.PV_LOOK_1D k).toNat, (t.val Reg.PV_LOOK_3D k).toNat])

/-- The sets and commits whose handles are references (R538). -/
def State.namedSets (s : State) : List RegSet :=
  [s.cfg.pending] ++ (s.cfg.active.map (·.regs)).toList ++ (s.cfg.previous.map (·.regs)).toList
    ++ s.dev.bound.filterMap (fun b => match b.kind with
      | .commit t => some t
      | _ => none)

/-- The handle is referenced (R538). -/
def State.objHeld (s : State) (h : Nat) : Bool :=
  decide (h ≠ 0) && (
    s.namedSets.any (fun t => t.handles.contains h)
    || s.store.frames.any (fun f => (decide (f.phase = .opened) || decide (f.phase = .ended))
        && ([(f.latch.val Reg.ST_DEFECT_TBL f.stream).toNat, (f.latch.val Reg.ST_FLAT_TBL f.stream).toNat].contains h
          || (List.range 4).any (fun k => decide ((f.latch.val Reg.PV_LOOK_1D k).toNat = h) || decide ((f.latch.val Reg.PV_LOOK_3D k).toNat = h))))
    || s.mover.dlv.any (fun x => x.gather && x.frame.isSome && decide (x.index = h))
    || s.motion.cmps.any (fun e => decide (e.2.table = h)))

def State.setObj (s : State) (i : Nat) (f : ObjSt → ObjSt) : State :=
  { s with obj := { s.obj with dir := s.obj.dir.upd {} i f } }

/-- A transfer of a channel ends (R445). -/
def State.chanEnd (s : State) (k status : Nat) : State :=
  let q := s.chan k
  let left := if q.started then q.len - q.done else 0
  let s := ([8, 9] : List Nat).foldl (fun s r => s.setWork .service r 0 (s.pendingWork .service r 0 - left)) s
  let s := s.setChan k (fun q => { q with busy := false, ready := false, started := false, status := status })
  let s := s.setReg Reg.SVCCH_STATUS k 0 (BitVec.ofNat 32 (q.port * 2 ^ 28 + status))
  let s := s.setEvt Reg.SVCCH_EVENTS k 0
  if status = stDone then
    (List.range 8).foldl (fun (s : State) j =>
      let r := s.chan j
      if r.busy && !r.started && decide (r.pace = 2) && decide (r.paceSel = k) then s.setChan j (fun q => { q with ready := true })
      else s) s
  else s

/-- GO (R444). A GO on a busy channel reports WRONG_STATE, and the transfer goes on. -/
def State.svcGo (s : State) (p k : Nat) : State :=
  let c := s.reg Reg.SVCCH_CTRL k
  let len := (s.reg Reg.SVCCH_LEN k).toNat
  let h := (s.reg Reg.SVCCH_OBJ k).toNat
  let off := (s.reg Reg.SVCCH_OFFSET k).toNat
  if (s.chan k).busy then
    (s.setF Reg.SVCCH_STATUS k 7 0 stWrongState).setEvt Reg.SVCCH_EVENTS k 0
  else
    let q : ChanSt := {
      port := p, toHost := decide (fld c 29 28 = 1), pace := fld c 27 26, paceSel := fld c 25 22, noSnoop := bit c 21,
      host := s.reg64 Reg.SVCCH_HOST_LO Reg.SVCCH_HOST_HI k, obj := h, offset := off, len := len, goTick := s.time.tickNum }
    let s := (s.setChan k (fun _ => q)).setReg Reg.SVCCH_DONE_BYTES k 0 0
    let size := ((s.obj? h).map (fun e => e.2.size)).getD 0
    if s.dev.mode ≠ .standby ∧ s.dev.mode ≠ .operational then s.chanEnd k stWrongState
    else if len = 0 ∨ 1073741824 < len ∨ size < off + len ∨ 1 < fld c 29 28 ∨ fld c 27 26 = 3 then s.chanEnd k stBadParam
    else if !q.toHost ∧ s.objHeld h then s.chanEnd k stDenied
    else (s.setChan k (fun q => { q with busy := true })).setReg Reg.SVCCH_STATUS k 0 (BitVec.ofNat 32 (p * 2 ^ 28))

def State.svcAbort (s : State) (k : Nat) : State := if (s.chan k).busy then s.chanEnd k stAborted else s

/-- A write of SVC_CTRL: its fields, then ABORT, then GO. -/
def State.svcCtrl (s : State) (p k : Nat) (v : Word) : State :=
  let s := s.storeBits Reg.SVCCH_CTRL k 0 v
  let s := if bit v 30 then s.svcAbort k else s
  if bit v 31 then s.svcGo p k else s

/-- An armed transfer starts: at the boundary after GO, or at the firing or completion its pace waits for. A write into a sealed
object that nothing references reopens it. -/
def State.svcStart (s : State) (k : Nat) : State :=
  let q := s.chan k
  let due := if q.pace = 0 then decide (q.goTick < s.time.tickNum) else q.ready
  if !q.busy || q.started || !due then s
  else
    match s.obj? q.obj with
    | none => s.chanEnd k stBadParam
    | some (i, o) =>
      if !q.toHost && s.objHeld q.obj then s.chanEnd k stDenied
      else
        let s := if !q.toHost && decide (o.phase = .sealed_) then s.setObj i (fun o => { o with phase := .open_ }) else s
        let s := s.setChan k (fun q => { q with started := true, ready := false })
        ([8, 9] : List Nat).foldl (fun s r => s.addWork .service r 0 q.len) s

def execSvcTransferStart (k : Nat) (s : State) : Host.Outcome State Fault Refusal := s.go (fun s => s.svcStart k)

/-- Jobs of a tick move bytes of the service transfers, in channel order. -/
def State.svcMoves (s : State) : State :=
  (List.range 8).foldl (fun s k =>
    let q := s.chan k
    let n := min (q.len - q.done) (min (s.jobLeft .service 8 0) (s.jobLeft .service 9 0))
    if !q.busy || !q.started || decide (n = 0) || !s.portTalks q.port then s
    else
      let s := (s.useJob .service 8 0 n).useJob .service 9 0 n
      let s := if q.toHost then
          let data := s.objBytes q.obj (q.offset + q.done) n
          let s := if s.ideBlocks q.port (q.host + q.done) data then s.setChan k (fun q => { q with sec := true }) else s
          s.hostWrite q.port (q.host + q.done) data q.noSnoop
        else (s.emit (.hostRead q.port (q.host + q.done) n)).hostReadCount q.port n
      let m := s.spareMover
      let s := s.setMover (fun v => { v with movers := v.movers.upd {} m (fun v => { v with work := 2, run := 1, id := k }) })
      let s := if q.toHost then s else s.moverReads m q.port (q.host + q.done) n
      let s := s.add64 Reg.MV_BYTES_LO Reg.MV_BYTES_HI m n
      (s.setChan k (fun q => { q with done := q.done + n })).setReg Reg.SVCCH_DONE_BYTES k 0 (BitVec.ofNat 32 (q.done + n))) s

/-- A transfer whose bytes have all moved ends; `data` is what its reads returned. -/
def State.svcDone (s : State) (k : Nat) (data : List Byte) : State :=
  let q := s.chan k
  if !q.busy || !q.started || decide (q.done < q.len) then s
  else
    let s := if q.toHost then s
      else match s.obj? q.obj with
        | some (i, _) => { s with obj := { s.obj with heap := hbmWrite s.obj.heap (i * 2 ^ 32 + q.offset) (sliceBytes data 0 q.len) } }
        | none => s
    s.chanEnd k (if q.sec then stSecurity else stDone)

def execSvcTransferDone (k : Nat) (data : List Byte) (s : State) : Host.Outcome State Fault Refusal := s.go (fun s => s.svcDone k data)

/-- Transfers started by a port, or all of them, stop with ABORTED (R361, R442, R445). -/
def State.svcStop (s : State) (p : Option Nat) : State :=
  (List.range 8).foldl (fun s k =>
    if p.all (fun n => decide ((s.chan k).port = n)) then s.svcAbort k else s) s

/-! ### Mover read failures (R384, R439, R442, R445) -/

/-- A mover halts, and the movers that hold other ranges of its descriptor stop (R439). -/
def State.haltMover (s : State) (m : Nat) : State :=
  let v := s.mover.movers.get ({} : MoverSt) m
  let stop := fun (e : MoverSt) =>
    if decide (v.work = 1) && decide (e.run = 1) && e.held.any (fun h => decide (h.1 = v.ring) && decide (h.2.1 = v.descNo)) then
      { e with run := 2 } else e
  (s.setMover (fun q => { q with movers := q.movers.map (fun e => (e.1, stop e.2)) })).setMover (fun q => { q with
    movers := q.movers.upd {} m (fun v => { v with run := 3, haltClk := s.time.clk }) })

/-- A further mover of a halted descriptor fails: RING_ERR_ADDR keeps the address of the lower-numbered mover of one cycle (R442). -/
def State.haltAgain (s : State) (m ring descNo addr : Nat) : State :=
  let now := s.mover.movers.filter (fun e => decide (e.1 ≠ m) && decide (e.2.run = 3) && decide (e.2.haltClk = s.time.clk)
    && decide (e.2.ring = ring) && decide (e.2.descNo = descNo))
  if now ≠ [] ∧ now.all (fun e => decide (m < e.1)) then s.set64 Reg.RING_ERR_ADDR_LO Reg.RING_ERR_ADDR_HI ring addr else s

/-- A read of a mover fails: 1 no completion in time, 2 Unsupported Request, 3 Completer Abort, 4 poisoned data. Movers read
host memory for deliveries of spilled frames, for transfers into table objects and for spill windows. -/
def State.moverBusError (s : State) (m kind addr : Nat) : State :=
  let v := s.mover.movers.get ({} : MoverSt) m
  if kind = 0 ∨ 4 < kind ∨ (v.run ≠ 1 ∧ v.run ≠ 2) then s
  else
    match v.work with
    | 1 =>
      match s.mover.dlv.find? (fun x => decide (x.ring = v.ring) && decide (x.descNo = v.descNo)) with
      | none => s
      | some x =>
        match (x.frame.bind (fun id => s.frame? id)).map FrameSt.loc with
        | some (.spilled w _) =>
          let s := (s.haltMover m).moverErr m (s.spwAt w) 0 x.ring false kind addr
          if x.halted then s.haltAgain m x.ring x.descNo addr
          else
            let s := (s.setDlv x (fun y => { y with halted := true })).ringBus x.ring addr
            s.post 0 0x51 (target 0xA (s.ringPort x.ring)) []
        | _ => s
    | 2 =>
      let q := s.chan v.id
      if q.busy && q.started && !q.toHost then
        ((s.haltMover m).moverErr m q.port 1 v.id false kind addr).chanEnd v.id stBusError
      else s
    | 3 =>
      let s := (s.haltMover m).moverErr m (s.spwAt v.ring) 2 0 false kind addr
      -- the closing read of a page-out (R268)
      if s.mover.spills.any (fun x => decide (x.window = v.ring) && x.reading) then s.spillFail v.ring else s
    | _ => s

def execMoverBusError (m kind addr : Nat) (s : State) : Host.Outcome State Fault Refusal := s.go (fun s => s.moverBusError m kind addr)

/-- A read on a port receives no completion in time: of a mover, of a ring, or another of the device's reads (R384). -/
def State.cplTimeout (s : State) (p : Nat) (mover ring : Option Nat) (addr : Nat) : State :=
  if p ≥ 4 || !s.portTalks p then s
  else
    let s := (s.count Reg.HP_CPL_TO_CNT p).hpEvt p 8
    match mover, ring with
    | some m, _ => s.moverBusError m 1 addr
    | none, some n => if s.ringPort n = p then s.ringBusError n addr none else s
    | none, none => s

def execCplTimeout (p : Nat) (mover ring : Option Nat) (addr : Nat) (s : State) : Host.Outcome State Fault Refusal :=
  s.go (fun s => s.cplTimeout p mover ring addr)

/-! ### Movers that fail, and subscriptions that a commit removes (R441, R442) -/

/-- The ranges a failed mover held are released again at the next boundary. -/
def State.moverFailed (s : State) (m : Nat) : State :=
  let v := s.mover.movers.get ({} : MoverSt) m
  let s := v.held.foldl (fun (s : State) h => s.setMover (fun q => { q with dlv := q.dlv.map (fun y =>
    if y.ring = h.1 ∧ y.descNo = h.2.1 ∧ !y.halted then { y with redo := y.redo ++ [h.2.2] } else y) })) s
  s.setMover (fun q => { q with movers := q.movers.put {} m {} })

/-- Every descriptor of a subscription that a commit removes completes ABORTED, and its frames are released (R255, R442). -/
def State.subRemoved (s : State) (k : Nat) : State :=
  let s := (s.mover.dlv.filter (fun x => decide (x.sub = k))).foldl (fun s x => s.abortDelivery x) s
  (s.subRelease k).setSub k (fun _ => {})

/-- At a boundary, movers hold nothing. -/
def State.moversIdle (s : State) : State := s.setMover (fun q => { q with movers := [] })

end Sys2Proof.Machine
end

