-- ==== Sys2Proof/Machine/Service.lean ====
section
/-! DEFINITION. The service core: unit drain, test, return and retire, failures and spares, row repair, fatal errors, lockstep
recovery and thermal policy (R97, R108, R109, R200, R271–R274, R441, R550–R571). -/

namespace Sys2Proof.Machine

/-! ### Units (R550, R552) -/

/-- How many instances a unit kind has; 0 for a kind that is not replicated. -/
def unitCount : Nat → Nat
  | 0x04 => 36 | 0x07 => 16 | 0x0B => 2 | 0x0C => 16 | 0x0D => 18 | 0x0E => 64 | 0x0F => 128 | 0x10 => 24 | 0x11 => 32 | 0x12 => 16
  | _ => 0
def unitKinds : List Nat := [0x04, 0x07, 0x0B, 0x0C, 0x0D, 0x0E, 0x0F, 0x10, 0x11, 0x12]

/-- The spare target of a class (SVC_SPARES). -/
def State.spareTarget (s : State) (kind : Nat) : Nat :=
  match kind with
  | 0x0C => s.actF Reg.SVC_SPARES 0 3 0
  | 0x0D => s.actF Reg.SVC_SPARES 0 7 4
  | 0x0E => s.actF Reg.SVC_SPARES 0 11 8
  | _ => 0

def State.unitsIn (s : State) (kind code : Nat) : List Nat :=
  (List.range (unitCount kind)).filter (fun i => decide (s.unitCode kind i = code))

/-- The state a lane's role gives it: ACTIVE while it carries a logical lane, SPARE while it holds its port's spare role,
OFFLINE otherwise (R552), FAILED after R147. -/
def State.laneRole (s : State) (n : Nat) : Nat :=
  let q := s.lane n
  if q.mode = .failed then 5
  else if s.spareNow (lanePort n) = some n then 1
  else if q.link.isSome && decide (q.logical < 8) && !q.spare then 2 else 0

/-- Lanes take the state of their role, unless they drain, are tested or are retired. -/
def State.syncLanes (s : State) : State :=
  (List.range 36).foldl (fun s n =>
    let c := s.unitCode 4 n
    if c = 3 ∨ c = 4 ∨ c = 6 ∨ (c = 0 ∧ (s.lane n).drained) then s else s.changeUnit 4 n (s.laneRole n)) s

/-! ### Reservations move with units (R108, R109, R199) -/

/-- The work placed on a unit moves to the unit that takes its place (R109). -/
def State.moveUnit (s : State) (kind a b : Nat) : State :=
  let res := if kind = 0x0C then 3 else if kind = 0x0D then 4 else 0
  if res = 0 then s
  else
    let hit := fun (r : Resv) => r.amounts.any (fun x => decide (x.res = res) && decide (x.inst = a))
    let streams := (s.plan.resvs.filter hit).filterMap (fun r => match r.act with
      | .stream st => some st
      | _ => none)
    let mv := fun (x : Amount) => if x.res = res ∧ x.inst = a then { x with inst := b } else x
    let s := s.setPlan (fun p => { p with resvs := p.resvs.map (fun r => { r with amounts := r.amounts.map mv }) })
    streams.foldl (fun (s : State) st => s.streamMoved st a [b]) s

/-! ### Drain (R553) -/

/-- The TARGET of a UNIT command (R552). -/
def unitTarget (d : Desc) : Bool := decide (tIndex d < unitCount (tKind d))

/-- A motion channel is assigned (R552): a rig that is not IDLE samples it or triggers from a compare unit on it, an enabled echo
uses it, or an enabled probe latches it. -/
def State.mchAssigned (s : State) (c : Nat) : Bool :=
  (List.range 16).any (fun r => decide (s.rigMode r ≠ .idle) && s.rigWatches r c)
  || (List.range 8).any (fun k =>
    let e := s.act Reg.ECHO_CTRL k
    bit e 0 && (if bit e 1 then
        let m := s.act Reg.MCH_CTRL c
        decide (6 ≤ fld m 3 0) && decide (fld m 3 0 ≤ 8) && decide (fld m 26 24 = k)
      else decide (fld e 20 16 = c)))
  || (List.range 8).any (fun k =>
    let q := s.reg Reg.PRB_CTRL k
    bit q 0 && (decide (fld q 12 8 = c) || decide (fld q 20 16 = c)))

/-- What the class of a unit says to a drain (R552): the status that forbids it. -/
def State.drainForbids (s : State) (kind i : Nat) : Option Nat :=
  match kind with
  | 0x04 =>
    if s.unitCode 4 i = 2 then
      let ready := match s.spareNow (lanePort i) with
        | some sp => (s.lane sp).spareReady
        | none => false
      if ready && s.spareServes i && (s.swapOf (lanePort i)).isNone then none else some stNoResource
    else none
  | 0x07 => if (s.drive i).mode = .inUse then some stWrongState else none
  | 0x10 => if s.mchAssigned i then some stWrongState else none
  | 0x11 => if bit (s.reg Reg.CMP_CTRL i) 0 then some stWrongState else none
  | 0x12 => if bit (s.reg Reg.TCMP_CTRL i) 0 then some stWrongState else none
  | _ => none

/-- The class A and B reservations that would not fit after the loss of a unit (R553). -/
def State.lossMisfits (s : State) (kind i : Nat) : List Misfit :=
  let s' := s.setPlan (fun p => { p with units := p.units.map (fun e => if e.1 = kind then (e.1, e.2.filter (fun u => decide (u ≠ i))) else e) })
  let s' := if kind = 0x0F then s'.setStore (fun q => { q with pcs := q.pcs.upd {} i (fun x => { x with moved := 0 :: x.moved }) }) else s'
  let ab := s.plan.resvs.filter (fun r => r.cls.ab)
  let on := fun (r : Resv) => r.amounts.any (fun a =>
    (decide (kind = 0x0C) && decide (a.res = 3) && decide (a.inst = i)) || (decide (kind = 0x0D) && decide (a.res = 4) && decide (a.inst = i)))
  let stay := ab.filter (fun r => !on r)
  let (new, bad) := s'.buildAll s'.activeSet stay ((ab.filter on).map (fun r => (r.act, r.cls)))
  let all := stay ++ new
  let touched := (all.flatMap (fun r => r.amounts.map (fun a => (a.res, a.inst)))).eraseDups
  bad ++ touched.filterMap (fun x =>
    let want := reservedOf all x.1 x.2
    let ok := s'.admissible x.1 x.2
    if ok < want then some (x.1, x.2, want, ok) else none)

/-- The lowest SPARE of a class that no change waiting for its boundary uses. -/
def State.freeSpare (s : State) (kind : Nat) : Option Nat :=
  (s.unitsIn kind 1).find? (fun j => !s.svc.due.any (fun e => decide (e.kind = kind) && (decide (e.spare = some j) || decide (e.index = j))))

/-- The checks of UNIT_DRAIN; a lane is replaced by its port's spare. -/
def State.unitDrainCheck (d : Desc) (s : State) : Refuse :=
  let k := tKind d
  let i := tIndex d
  let c := s.unitCode k i
  match s.check405 d (structOk d (unitTarget d) [] false) true (s.isSteward d) (s.modeIn [.standby, .operational]) none with
  | some r => some r
  | none =>
    if c ≠ 1 ∧ c ≠ 2 ∨ s.svc.due.any (fun e => decide (e.kind = k) && decide (e.index = i)) then some (s.wrongState none)
    else
      match s.drainForbids k i with
      | some st => some (if st = stWrongState then s.wrongState none else (st, []))
      | none =>
        if c = 2 ∧ k ≠ 4 ∧ (s.freeSpare k).isNone then
          (worst (s.lossMisfits k i)).map (fun m => (stNoResource, refusal m.1 m.2))
        else none

def State.setDue (s : State) (e : UnitDue) : State := s.setSvc (fun q => { q with due := q.due ++ [e] })

/-- The service core answers no UNIT command, and the security core no service, in their recovery ticks (R560): the command
waits at the head of its ring. -/
def State.unlessRecovering (s : State) (u : Nat) (f : State → State) : State := if s.recovering u then s else f s

def execUnitDrain (d : Desc) (s : State) : Host.Outcome State Fault Refusal :=
  s.go (fun s => s.unlessRecovering 5 (fun s => s.runCmd d 0x70 (State.unitDrainCheck d) (fun t s =>
    let k := tKind d
    let i := tIndex d
    let spare := if s.unitCode k i = 1 then none else s.freeSpare k
    s.setDue {
      tick := s.time.tickNum + 2, kind := k, index := i, to_ := if s.unitCode k i = 1 then 0 else 3,
      spare := if k = 4 then none else spare, ticket := some t })))

/-! ### Test, return, retire (R554, R555) -/

/-- The state payload of a UNIT completion. -/
def unitPayload (code : Nat) : List (Nat × Nat × Nat) := [(16, 1, code)]

def State.testCheck (d : Desc) (s : State) : Refuse :=
  match s.check405 d (structOk d (unitTarget d) [(8, 1)] false) (decide (opAt d 8 1 ≤ 1)) (s.isSteward d)
      (s.modeIn [.standby, .operational]) none with
  | some r => some r
  | none => if [2, 3, 4].contains (s.unitCode (tKind d) (tIndex d)) then some (s.wrongState none) else none

def execUnitTest (d : Desc) (s : State) : Host.Outcome State Fault Refusal :=
  s.go (fun s => s.unlessRecovering 5 (fun s => s.runCmd d 0x71 (State.testCheck d) (fun t s =>
    let k := tKind d
    let i := tIndex d
    let test : UnitTest := { kind := k, index := i, from_ := s.unitCode k i, ticket := some t }
    let s := ((s.changeUnit k i 4).setSvc (fun q => { q with tests := q.tests ++ [test] })).mchWake
    -- a FULL test of a cabled lane asks its head for far-end loopback (R150, R159). DESIGN CHOICE (log 131): for 255 ms
    match (if k = 4 ∧ opAt d 8 1 = 1 then (s.lane i).link else none) with
    | some l => s.sendMgmt l i { opcode := 9, subject := (s.lane i).logical, arg := 255 }
    | none => s)))

/-- A unit's test ends: the first failing step and the errors counted (R554). -/
def State.testEnd (s : State) (kind i : Nat) (pass : Bool) (step errs : Nat) : State :=
  match s.svc.tests.find? (fun t => decide (t.kind = kind) && decide (t.index = i)) with
  | none => s
  | some t =>
    let key := unitKey kind i
    let s := s.setSvc (fun q => { q with
      tests := q.tests.filter (fun t => !(decide (t.kind = kind) && decide (t.index = i))),
      retired := if pass then q.retired.filter (fun x => decide (x ≠ key)) else q.retired,
      passedAt := if pass then q.passedAt.put 0 key s.time.clk else q.passedAt,
      causes := if pass then q.causes else q.causes.put 0 key 1,
      testsFailed := if pass then q.testsFailed else q.testsFailed.put 0 key (satAdd 255 (q.testsFailed.get 0 key) 1) })
    let new := if pass then (if t.from_ = 1 then 1 else 0) else if t.from_ = 6 then 6 else 5
    let s := if new = 5 then (s.changeUnit kind i 5).healthFail 7 else s.changeUnit kind i new
    let result := if pass then 2 ^ 31 else step % 256 * 65536 + min 65535 errs
    s.completeOpt t.ticket stDone (unitPayload new ++ [(20, 4, result)])

def execTestComplete (kind i : Nat) (pass : Bool) (step errs : Nat) (s : State) : Host.Outcome State Fault Refusal :=
  s.go (fun s => s.testEnd kind i pass step errs)

/-- A lane may return as a spare: its port has none, and SPARE_EN is 1 (R555). -/
def State.laneReturns (s : State) (n : Nat) : Bool :=
  bit (s.act Reg.HDP_CTRL (lanePort n)) 16 && (s.spareNow (lanePort n)).isNone

def State.returnCheck (d : Desc) (s : State) : Refuse :=
  let k := tKind d
  let i := tIndex d
  match s.check405 d (structOk d (unitTarget d) [] false) true (s.isSteward d) (s.modeIn [.standby, .operational]) none with
  | some r => some r
  | none =>
    if s.unitCode k i ≠ 0 ∨ s.svc.due.any (fun e => decide (e.kind = k) && decide (e.index = i)) then some (s.wrongState none)
    else if k = 4 ∧ !s.laneReturns i then some (s.wrongState none) else none

/-- A drive slot is identified again (R288, R555): alone in a bay that is up, or with its bay where the bay had failed. -/
def State.slotReturn (s : State) (d : Nat) : State :=
  let b := bayOf d
  let q := s.bay b
  if !q.present then s
  else if q.mode = .failed ∨ q.mode = .rejected then s.bayStart b q.page
  else (s.emit (.pin "MB_PERST#" d true)).setDrive d (fun x => { outOfSet := x.outOfSet, mode := .link })

def execUnitReturn (d : Desc) (s : State) : Host.Outcome State Fault Refusal :=
  s.go (fun s => s.unlessRecovering 5 (fun s => s.runCmd d 0x72 (State.returnCheck d) (fun t s =>
    let k := tKind d
    let i := tIndex d
    let dest := if k = 4 then 1 else if (s.unitsIn k 1).length < s.spareTarget k then 1 else 2
    let s := if k = 7 then s.slotReturn i else s
    s.setDue { tick := s.time.tickNum + 2, kind := k, index := i, to_ := dest, ticket := some t })))

def State.retireCheck (d : Desc) (s : State) : Refuse :=
  let c := s.unitCode (tKind d) (tIndex d)
  match s.check405 d (structOk d (unitTarget d) [] false) true (s.isSteward d) (s.modeIn [.standby, .operational]) none with
  | some r => some r
  | none => if c ≠ 0 ∧ c ≠ 5 then some (s.wrongState none) else none

def execUnitRetire (d : Desc) (s : State) : Host.Outcome State Fault Refusal :=
  s.go (fun s => s.unlessRecovering 5 (fun s => s.runCmd d 0x73 (State.retireCheck d) (fun t s =>
    let key := unitKey (tKind d) (tIndex d)
    ((s.changeUnit (tKind d) (tIndex d) 6).setSvc (fun q => { q with
      retired := if q.retired.contains key then q.retired else q.retired ++ [key] })).complete t stDone (unitPayload 6))))

/-! ### State changes at a boundary (R551, R553, R555, R559, R560) -/

/-- A unit that returns to service takes up its part. -/
def State.unitBack (s : State) (kind i code : Nat) : State :=
  let s := s.changeUnit kind i code
  match kind with
  | 0x04 => (s.setLane i (fun q => { q with
      drained := false, spare := true, logical := 15, link := some (s.spareLink (lanePort i)) })).startTraining i
  | 0x0F => if code = 2 then s.pcReturned i else s
  | _ => s

/-- Apply one change whose boundary has come. -/
def State.unitDue (s : State) (e : UnitDue) : State :=
  let c := s.unitCode e.kind e.index
  match e.to_ with
  | 3 =>
    if c ≠ 2 then s.completeOpt e.ticket stUnitFailed (unitPayload c)
    -- the spare of a lane's port may have gone since the command was taken
    else if e.kind = 4 ∧ (s.drainForbids 4 e.index).isSome then s.completeOpt e.ticket stNoResource
    else
      let s := s.changeUnit e.kind e.index 3
      let s := match e.spare with
        | some j => if s.unitCode e.kind j = 1 then (s.changeUnit e.kind j 2).moveUnit e.kind e.index j else s
        | none => s
      let s := s.setSvc (fun q => { q with drains := q.drains ++ [(unitKey e.kind e.index, e.ticket)] })
      match e.kind with
      | 0x04 => s.proposeSwap e.index none
      | 0x0B => s.chooseTp
      | _ => s
  | 0 =>
    let s := if c = 1 then s.changeUnit e.kind e.index 0 else s
    let s := if e.kind = 4 ∧ c = 1 then
        ((s.setSpareNow (lanePort e.index) 15).setLane e.index (fun q => { q with
          spare := false, drained := true, mode := .off, spareReady := false })).emit (.lane e.index .off) else s
    s.completeOpt e.ticket (if c = 1 then stDone else stUnitFailed) (unitPayload (if c = 1 then 0 else c))
  | code =>
    match e.spare with
    | some j =>
      -- a rotation: the ACTIVE unit becomes SPARE as the tested spare enters ACTIVE
      if c = 2 ∧ s.unitCode e.kind j = 1 then
        ((s.changeUnit e.kind e.index 1).changeUnit e.kind j 2).moveUnit e.kind e.index j
      else s
    | none =>
      if c ≠ 0 then s.completeOpt e.ticket stWrongState (unitPayload c)
      else if e.kind = 7 then
        -- completes when the slot is READY or REJECTED
        s.setSvc (fun q => { q with due := q.due ++ [{ e with tick := s.time.tickNum + 1 }] })
      else (s.unitBack e.kind e.index code).completeOpt e.ticket stDone (unitPayload code)

/-- A returning drive slot has been identified. -/
def State.slotDue (s : State) (e : UnitDue) : Bool :=
  let m := (s.drive e.index).mode
  decide (e.kind = 7) && decide (e.to_ ≠ 3) && decide (e.to_ ≠ 0) && decide (m ≠ .link) && decide (m ≠ .identify)

/-- Every change due at or before the present boundary takes effect, but for those that fabric control holds back (R560). -/
def State.unitBoundary (s : State) : State :=
  if s.recovering 2 then s
  else
    let now := s.svc.due.filter (fun e => decide (e.tick ≤ s.time.tickNum))
    let s := s.setSvc (fun q => { q with due := q.due.filter (fun e => !decide (e.tick ≤ s.time.tickNum)) })
    if now.isEmpty then s else ((now.foldl (fun s e =>
      if s.slotDue e then
        let code := if (s.drive e.index).mode = .rejected then s.unitCode 7 e.index else 2
        (s.changeUnit 7 e.index code).completeOpt e.ticket stDone (unitPayload code)
      else s.unitDue e) s).syncLanes).mchWake.takeCkpt

/-- A DRAINING unit holds no work (R551, R558). -/
def State.unitIdle (s : State) (kind i : Nat) : Bool :=
  match kind with
  | 0x04 => (s.lane i).drained
  | 0x0E => decide ((s.mover.movers.get ({} : MoverSt) i).run ≠ 1)
  | 0x0F => s.pcDrained i
  | 0x0B => decide (s.time.activeTp ≠ some i)
  | _ => true

/-- A DRAINING unit that holds no work enters OFFLINE, and UNIT_DRAIN completes (R553). -/
def State.drainDone (s : State) (kind i : Nat) : State :=
  if s.unitCode kind i ≠ 3 ∨ !s.unitIdle kind i then s
  else
    let key := unitKey kind i
    let mine := s.svc.drains.filter (fun e => decide (e.1 = key))
    let s := (s.changeUnit kind i 0).setSvc (fun q => { q with drains := q.drains.filter (fun e => decide (e.1 ≠ key)) })
    mine.foldl (fun s e => s.completeOpt e.2 stDone (unitPayload 0)) s

def execDrainComplete (kind i : Nat) (s : State) : Host.Outcome State Fault Refusal := s.go (fun s => s.drainDone kind i)

/-! ### Fatal errors (R563) -/

/-- A fatal error: the persistent log, the counter, and a device reset or a halt. `what` is the central unit, or 0xFF for a loss
of the table region. -/
def State.fatal (s : State) (what : Nat) : State :=
  let s := s.logEntry 3 (if what = 0xFF then 0 else target 0x14 what) what
  let s := s.setSvc (fun q => { q with fatals := satAdd 0xFFFFFFFF q.fatals 1 })
  if bit (s.act Reg.SVC_CTRL) 1 then
    { (s.setSvc (fun q => { q with stopped := some .halt, queued := [] })) with
      dev := { s.dev with rigs := s.dev.rigs.map (fun e => (e.1, { e.2 with mode := .idle, prev := e.2.mode })) } }
  else (s.deviceReset none).bootStart

/-! ### Failures (R200, R441, R556–R558) -/

/-- The line that a failing unit had started and not yet written is lost (R200). DESIGN CHOICE (log 132): that is the line it was to
take next, if there is one. -/
def State.startedLost (s : State) (u : Nat) : State :=
  match s.nextLine u with
  | none => s
  | some x =>
    let s := s.setStore (fun q => { q with
      lbuf := q.lbuf.filter (fun y => !(decide (y.id = x.id) && decide (y.line = x.line))) })
    let s := s.setStream x.stream (fun q => { q with buffered := q.buffered - x.bytes.length })
    s.setFrame x.id (fun f => { f with
      lines := f.lines.filter (fun l => decide (l ≠ x.line)), waiting := f.waiting - 1, dropped := f.dropped ++ [x.line] })

/-- A failed pipeline unit's started line and partial statistics are lost (R200). -/
def State.puFailed (s0 : State) (u : Nat) : State :=
  let s := s0.startedLost u
  let hit := fun (f : FrameSt) => (decide (f.phase = .opened) || decide (f.phase = .ended)) && f.stats.any (fun e => decide (e.1 % 64 = u))
  let streams := ((s.store.frames.filter hit).map (·.stream)).eraseDups
  let lose := fun (f : FrameSt) => if hit f then { f with statLost := true, stats := f.stats.filter (fun e => decide (e.1 % 64 ≠ u)) } else f
  let s := s.setStore (fun q => { q with frames := q.frames.map lose })
  streams.foldl (fun s st => s.setEvt Reg.ST_PIPE_EVENTS st 1) s

/-- A failed crypto engine's digests of unsealed frames are lost (R558). -/
def State.ceFailed (s : State) (e : Nat) : State :=
  let streams := s.plan.resvs.filterMap (fun r => match r.act with
    | .seal st => if r.amounts.any (fun a => decide (a.res = 4) && decide (a.inst = e)) then some st else none
    | _ => none)
  let lose := fun (f : FrameSt) => if f.hold.sealing && !f.sealed && streams.contains f.stream then { f with digests := [] } else f
  s.setStore (fun q => { q with frames := q.frames.map lose })

/-- The lines that a payload page holds. -/
def pageLines (f : FrameSt) (k : Nat) : List Nat :=
  let lb := lineBytes f.latch f.stream
  if lb = 0 then [] else
    (List.range (geomH f.latch f.stream)).filter (fun l => decide (l * lb < 65536 * (k + 1)) && decide (65536 * k < (l + 1) * lb))

/-- A page is lost: an open frame closes DAMAGED, a closed one's readers complete INTEGRITY (R273, R557). -/
def State.pageLost (s : State) (p : Nat) : State :=
  s.setStore (fun q => { q with frames := q.frames.map (fun f =>
    match f.pages.find? (fun e => decide (e.2 = p + 1)) with
    | none => f
    | some (k, _) =>
      if f.phase = .opened ∨ f.phase = .ended then
        { f with damagedLines := f.damagedLines ++ (pageLines f k).filter (fun l => !f.damagedLines.contains l) }
      else { f with bad := true }) })

/-- A pseudo-channel fails: its pages and its table granules are lost (R557). -/
def State.pcFailed (s : State) (c : Nat) : State :=
  let pages := (s.store.frames.flatMap (fun f => f.pages.map (fun e => e.2 - 1))).filter (fun p => decide (p % 128 = c))
  let s := pages.foldl (fun s p => s.pageLost p) s
  if (s.store.pcs.get ({} : PcSt) c).moved.isEmpty then s.fatal 0xFF else s

/-- A failure is detected in a unit (R556). Drives fail under R311. -/
def State.unitFailure (s : State) (kind i cause : Nat) : State :=
  let c := s.unitCode kind i
  if unitCount kind ≤ i ∨ kind = 7 ∨ !([1, 2, 3, 4] : List Nat).contains c then s
  else
    let key := unitKey kind i
    let hit := s.svc.tests.filter (fun t => decide (t.kind = kind) && decide (t.index = i))
    let drains := s.svc.drains.filter (fun e => decide (e.1 = key))
    let s := (s.unitFails kind i cause).logEntry 4 (target kind i) cause
    let s := s.setSvc (fun q => { q with
      tests := q.tests.filter (fun t => !(decide (t.kind = kind) && decide (t.index = i))),
      drains := q.drains.filter (fun e => decide (e.1 ≠ key)),
      replace := if c = 2 then q.replace ++ [(kind, s.time.tickNum, i)] else q.replace })
    let s := hit.foldl (fun s t => s.completeOpt t.ticket stUnitFailed (unitPayload 5)) s
    let s := drains.foldl (fun s e => s.completeOpt e.2 stUnitFailed (unitPayload 5)) s
    match kind with
    | 0x04 => s.laneFailure i true
    | 0x0B => s.chooseTp
    | 0x0C => s.puFailed i
    | 0x0D => s.ceFailed i
    | 0x0E => s.moverFailed i
    | 0x0F => s.pcFailed i
    | _ => s

def execUnitFailure (kind i cause : Nat) (s : State) : Host.Outcome State Fault Refusal :=
  s.go (fun s => s.unitFailure kind i (cause % 256))

/-- At the first boundary after a failure the lowest SPARE of the class enters ACTIVE; a spare under test has its test aborted,
and serves when no test of it has failed (R556). -/
def State.spareIn (s : State) (kind : Nat) : State :=
  match s.svc.replace.find? (fun e => decide (e.1 = kind) && decide (e.2.1 < s.time.tickNum)) with
  | none => s
  | some w =>
    let s := s.setSvc (fun q => { q with replace := q.replace.filter (fun e => decide (e ≠ w)) })
    if !bit (s.act Reg.SVC_CTRL) 0 || s.recovering 2 then s
    else
      let testing := (s.svc.tests.filter (fun t => decide (t.kind = kind) && decide (t.from_ = 1))).map (·.index)
      match (sortNat (s.unitsIn kind 1 ++ testing)).head? with
      | none => s
      | some j =>
        let aborted := s.svc.tests.filter (fun t => decide (t.kind = kind) && decide (t.index = j))
        let s := s.setSvc (fun q => { q with tests := q.tests.filter (fun t => !(decide (t.kind = kind) && decide (t.index = j))) })
        let clean := decide (s.svc.testsFailed.get 0 (unitKey kind j) = 0)
        let new := if clean || aborted.isEmpty then 2 else 1
        let s := s.changeUnit kind j new
        let s := aborted.foldl (fun s t => s.completeOpt t.ticket stDone (unitPayload new ++ [(20, 4, 0xFF * 65536)])) s
        if new = 2 then (s.setEvt Reg.SVC_EVENTS 0 1).moveUnit kind w.2.2 j else s

/-! ### Spare exercise (R559, R513, R567, R570) -/

/-- The unit of a list with the least value of a table, the lowest number on a tie. -/
def leastOf (t : Tab Nat) (kind : Nat) (l : List Nat) : Option Nat :=
  match l with
  | [] => none
  | i :: r => some (r.foldl (fun a b => if t.get 0 (unitKey kind b) < t.get 0 (unitKey kind a) then b else a) i)

/-- ROTATE_S of a class in clocks. -/
def State.rotateClk (s : State) (kind : Nat) : Nat :=
  msClk (1000 * (if kind = 0x0D then fld (s.reg Reg.SEC_SELFTEST_CTRL) 15 0 else s.actF Reg.SVC_CTRL 0 31 16))

/-- A commit that changes SVC_SPARES changes states: the highest-numbered ACTIVE units without placed work become SPARE, or the
lowest SPARE ACTIVE (R552). -/
def State.placed (s : State) (kind i : Nat) : Bool :=
  let res := if kind = 0x0C then 3 else if kind = 0x0D then 4 else 0
  s.plan.resvs.any (fun r => r.amounts.any (fun a => decide (a.res = res) && decide (a.inst = i)))

def State.respare (s : State) (kind : Nat) : State :=
  let have_ := s.unitsIn kind 1
  let want := s.spareTarget kind
  if have_.length < want then
    (((s.unitsIn kind 2).filter (fun i => !s.placed kind i)).reverse.take (want - have_.length)).foldl (fun s i => s.changeUnit kind i 1) s
  else (have_.take (have_.length - want)).foldl (fun s i => s.changeUnit kind i 2) s

/-! ### Memory errors (R271–R273, R557) -/

/-- A pseudo-channel drains on its own (R557). -/
def State.autoDrain (s : State) (c : Nat) : State :=
  if s.unitActive 0x0F c && !s.svc.due.any (fun e => decide (e.kind = 0x0F) && decide (e.index = c)) then
    s.setDue { tick := s.time.tickNum + 1, kind := 0x0F, index := c, to_ := 3 }
  else s

/-- REPAIRS_LEFT of a pseudo-channel. -/
def State.repairsLeft (s : State) (c : Nat) : Nat := fld (s.reg Reg.PC_STATUS c) 31 16

/-- Withhold a frame page from allocation, for a row of its pseudo-channel; one that cannot be repaired is retired (R272). -/
def State.withhold (s : State) (c row page : Nat) : State :=
  if s.store.withheld.contains page then s
  else
    let s := s.setStore (fun q => { q with
      withheld := q.withheld ++ [page],
      pcs := q.pcs.upd {} c (fun x => { x with back := x.back.filter (fun i => decide (i ≠ page / 128)), rows := x.rows ++ [(row, page)] }) })
    let held := (s.store.withheld.filter (fun p => decide (p % 128 = c))).length
    if s.repairsLeft c = 0 then
      let s := s.setStore (fun q => { q with
        retired := q.retired ++ [page], pcs := q.pcs.upd {} c (fun x => { x with rows := x.rows.filter (fun e => decide (e.2 ≠ page)) }) })
      let s := (s.setReg Reg.PC_RETIRED_PAGES c 0 (s.reg Reg.PC_RETIRED_PAGES c + 1)).storeEvt [10]
      let s := s.post 7 0x49 (target 0xF c) [(16, 1, 2), (20, 4, page)]
      if 64 < held then s.autoDrain c else s
    else s

/-- A corrected error in a row; `page` is the frame page that holds the row, when it lies among the frame pages. -/
def State.eccCorrected (s : State) (c row : Nat) (page : Option Nat) : State :=
  if !s.store.ready || decide (128 ≤ c) then s
  else
    let s := ((s.count Reg.PC_CE_CNT c).count Reg.STORE_CE_CNT).storeEvt [7]
    let n := ((s.store.pcs.get ({} : PcSt) c).rowErrs.get 0 row) + 1
    let s := s.setStore (fun q => { q with pcs := q.pcs.upd {} c (fun x => { x with rowErrs := x.rowErrs.put 0 row n }) })
    match page with
    | some p =>
      if bit (s.act Reg.STORE_CTRL) 2 && decide (p % 128 = c) && decide (p / 128 < 17408)
          && decide ((s.act Reg.STORE_ROW_THRESH).toNat ≤ n) then s.withhold c row p else s
    | none => s

def execEccCorrected (c row : Nat) (page : Option Nat) (s : State) : Host.Outcome State Fault Refusal :=
  s.go (fun s => s.eccCorrected c row page)

/-- An uncorrectable error in a page of a pseudo-channel. -/
def State.eccUncorrectable (s : State) (c row : Nat) (page : Option Nat) : State :=
  if !s.store.ready || decide (128 ≤ c) then s
  else
    let s := ((s.count Reg.PC_UE_CNT c).count Reg.STORE_UE_CNT).storeEvt [8]
    let s := (s.post 7 0x49 (target 0xF c) [(16, 1, 1), (20, 4, page.getD 0)]).logEntry 0x12 (target 0xF c) (page.getD 0)
    let s := match page with
      | some p => if p % 128 = c ∧ p / 128 < 17408 then (s.pageLost p).withhold c row p else s
      | none => s
    let n := (s.store.pcs.get ({} : PcSt) c).ues + 1
    let s := s.setStore (fun q => { q with pcs := q.pcs.upd {} c (fun x => { x with ues := n }) })
    if s.actF Reg.SVC_CTRL 0 15 8 ≤ n then s.autoDrain c else s

def execEccUncorrectable (c row : Nat) (page : Option Nat) (s : State) : Host.Outcome State Fault Refusal :=
  s.go (fun s => s.eccUncorrectable c row page)

/-- The first withheld row of a pseudo-channel whose page holds no live frame. -/
def State.repairable (s : State) (c : Nat) : Option (Nat × Nat) :=
  (s.store.pcs.get ({} : PcSt) c).rows.find? (fun e => !s.store.frames.any (fun f => f.pages.any (fun x => decide (x.2 = e.2 + 1))))

/-- Soft post-package repair of a withheld row; its page returns to the free list. -/
def State.rowRepair (s : State) (c : Nat) : State :=
  match s.repairable c with
  | none => s
  | some (row, page) =>
    if s.repairsLeft c = 0 ∨ !bit (s.act Reg.STORE_CTRL) 2 then s
    else
      let fresh := (s.store.pcs.get ({} : PcSt) c).fresh
      let s := s.setStore (fun q => { q with
        withheld := q.withheld.filter (fun p => decide (p ≠ page)), repairs := q.repairs ++ [(c, row)],
        pcs := q.pcs.upd {} c (fun x => { x with
          rows := x.rows.filter (fun e => decide (e.2 ≠ page)), rowErrs := x.rowErrs.put 0 row 0,
          back := if page / 128 < fresh then x.back ++ [page / 128] else x.back }) })
      let s := s.setF Reg.PC_STATUS c 31 16 (s.repairsLeft c - 1)
      let s := s.setSvc (fun q => { q with softRepairs := q.softRepairs ++ [(c, row)] })
      ((s.storeEvt [9]).post 7 0x49 (target 0xF c) [(16, 1, 0), (20, 4, page)]).logEntry 0x13 (target 0xF c) row

def execRowRepair (c : Nat) (s : State) : Host.Outcome State Fault Refusal := s.go (fun s => s.rowRepair c)

/-! ### Lockstep recovery (R560–R562) -/

/-- A pair mismatches. A mismatch during a recovery, or a second one of a pair within 4,000 ticks of the start of its last
recovery, is fatal. `zero` is self-zeroisation, which comes first for the security core. -/
def State.lockstep (s : State) (u : Nat) (zero : State → State) : State :=
  if 6 ≤ u then s
  else
    let m := s.time.tickNum
    let last := s.svc.lastMismatch.get 0 u
    -- `last` holds the tick of the last mismatch plus 1, the start of its recovery
    if s.anyRecovery ∨ (0 < last ∧ m < last + 4000 ∧ !s.svc.recov.contains (u, m)) then
      (if u = 4 then zero s else s).fatal u
    else if s.svc.recov.contains (u, m) then s
    else
      let n := s.svc.recovCnt.get 0 u + 1
      let s := s.setSvc (fun q => { q with
        recov := q.recov ++ [(u, m)], lastMismatch := q.lastMismatch.put 0 u (m + 1), recovCnt := q.recovCnt.put 0 u n })
      let s := if u = 1 then s.setStore (fun q => { q with recovery := some (m + 3) }) else s
      ((s.count Reg.SVC_LOCKSTEP_CNT).setEvt Reg.SVC_EVENTS 0 2).logEntry 2 (target 0x14 u) n

/-! ### Thermal policy (R569–R571) -/

/-- The level that the hottest reading of a group reaches against three thresholds in °C, with the group's cooling counts: a
level falls after 100 consecutive readings at least 2 °C below the threshold it crossed. `g` is 0 for the die and 1 for HBM. -/
def State.thermLevel (s : State) (g old : Nat) (hottest : Int) (th : List Int) : Nat × Tab Nat :=
  let cool := (List.range 3).foldl (fun (t : Tab Nat) k =>
    let key := 4 * g + k
    let below := decide (hottest + 16 ≤ 8 * th.getD k 0)
    t.put 0 key (if below then t.get 0 key + 1 else 0)) s.svc.cool
  let up := if 8 * th.getD 2 0 ≤ hottest then 3 else if 8 * th.getD 1 0 ≤ hottest then 2 else if 8 * th.getD 0 0 ≤ hottest then 1 else 0
  let down := (List.range 3).foldr (fun k (l : Nat) => if l = k + 1 ∧ 100 ≤ cool.get 0 (4 * g + k) then k else l) old
  (max up down, cool)

/-- A level rises: events, UNIT_STATE and a log entry (R570). -/
def State.thermRise (s : State) (old new sensor : Nat) : State :=
  if new ≤ old then s
  else ((s.setEvt Reg.SVC_EVENTS 0 (2 + new)).post 9 0x60 0 [(16, 1, 0xF0 + new), (17, 1, sensor)]).logEntry 0x20 0 (new + 256 * sensor)

/-- The hottest of some sensors, the lowest number on a tie. -/
def hottestOf (t : List Int) (l : List Nat) : Nat :=
  match l with
  | [] => 0
  | i :: r => r.foldl (fun a b => if t.getD a 0 < t.getD b 0 then b else a) i

/-- The 32 readings of a millisecond, in 0.125 °C. -/
def State.thermal (s : State) (t : List Int) : State :=
  let s := (List.range 32).foldl (fun s i => s.setReg Reg.SVC_TEMP i 0 (BitVec.ofNat 32 (ofSigned 16 (t.getD i 0)))) s
  let s := s.setSvc (fun q => { q with peaks := (List.range 32).foldl (fun (p : Tab Int) i =>
    p.put (-32768) i (max (p.get (-32768) i) (t.getD i 0))) q.peaks })
  let die := hottestOf t ((List.range 28).map (· + 4))
  let hbm := hottestOf t (List.range 4)
  let th := fun (r : RegRow) => ([(7, 0), (15, 8), (23, 16)] : List (Nat × Nat)).map (fun f => toSigned 8 (s.actF r 0 f.1 f.2))
  let od := s.svc.dieLevel
  let oh := s.svc.hbmLevel
  let (nd, c1) := s.thermLevel 0 od (t.getD die 0) (th Reg.SVC_THERM_DIE)
  let s := s.setSvc (fun q => { q with cool := c1 })
  let (nh, c2) := s.thermLevel 1 oh (t.getD hbm 0) (th Reg.SVC_THERM_HBM)
  let s := s.setSvc (fun q => { q with cool := c2, dieLevel := nd, hbmLevel := nh })
  let s := (s.thermRise od nd die).thermRise oh nh hbm
  let crit := fun (a b : Nat) => decide (a = 3) || decide (b = 3)
  if crit nd nh && !crit od oh then s.emit (.pin "THERM_ALERT#" 0 false)
  else if crit od oh && !crit nd nh then s.emit (.pin "THERM_ALERT#" 0 true) else s

def execThermalSample (t : List Int) (s : State) : Host.Outcome State Fault Refusal := s.go (fun s => s.thermal t)

/-- A thermal trip stops every clock (R571). -/
def execThermtrip (s : State) : Host.Outcome State Fault Refusal :=
  s.go (fun s => (s.setSvc (fun q => { q with stopped := some .therm })).emit (.pin "THERMTRIP#" 0 false))

end Sys2Proof.Machine
end

