-- ==== Sys2Proof/Machine/Validate.lean ====
section
/-! DEFINITION. What a commit validates: locked fields, ranges, reserved values and the conditions of every chapter (R532, R533,
R539). -/

namespace Sys2Proof.Machine

/-- A failed condition: the BAR0 offset of the register it reports, and its reason (R532). -/
abbrev Viol := Nat × Nat

def viol (c : Bool) (off reason : Nat) : List Viol := if c then [(off, reason)] else []

/-- Reasons. -/
def rRange : Nat := 1
def rReserved : Nat := 2
def rLocked : Nat := 3
def rConflict : Nat := 4
def rDepend : Nat := 5
def rTable : Nat := 6
def rHeap : Nat := 7
def rHead : Nat := 8
def rTick : Nat := 9
def rOrder : Nat := 10

/-- The indices of every register of a family. -/
def RegRow.all (r : RegRow) : List (Nat × Nat) :=
  (List.range r.n1).flatMap (fun i => (List.range r.n2).map (fun j => (i, j)))

/-! ### Ranges and reserved values of single fields -/

/-- Unsigned fields with a range: register, bits, least and greatest value. -/
def rangeTab : List (RegRow × Nat × Nat × Nat × Nat) :=
  [(Reg.HB_PERIOD, 15, 0, 50, 10000), (Reg.HP_CPL_TIMEOUT, 31, 0, 1, 500),
   (Reg.PLN_CTRL, 23, 16, 50, 90), (Reg.PLN_CTRL, 15, 8, 1, 255), (Reg.PLN_CTRL, 5, 0, 0, 50), (Reg.PLN_SVC_RATE, 31, 0, 0, 16000),
   (Reg.LANE_TRAIN_CTRL, 31, 16, 10, 500), (Reg.LANE_EQ_CTRL, 15, 8, 1, 40), (Reg.HDP_CTRL, 3, 0, 0, 8),
   (Reg.HL_REG_TIMEOUT, 31, 0, 10, 100000),
   (Reg.ST_GEOM, 31, 16, 0, 0x7FFF), (Reg.ST_GEOM, 15, 0, 0, 0x7FFF), (Reg.ST_CANARY, 7, 0, 1, 255),
   (Reg.ST_FS_WINDOW, 31, 0, 10, 10000000), (Reg.ST_FE_WINDOW, 31, 0, 10, 10000000), (Reg.ST_PIPE, 26, 24, 2, 7),
   (Reg.ST_OB, 5, 0, 0, 32), (Reg.ST_STORE, 6, 0, 2, 64)] ++
  [(Reg.STORE_ROW_THRESH, 31, 0, 1, 255), (Reg.SPW_RATE, 31, 0, 1, 16000), (Reg.RIG_BURST_PAGES, 31, 0, 0, 2228224),
   (Reg.MB_CTRL, 31, 24, 1, 255), (Reg.MB_CTRL, 23, 10, 100, 10000), (Reg.MB_CMD_TIMEOUT, 31, 0, 10, 10000),
   (Reg.RREC_CTRL, 15, 8, 1, 255),
   (Reg.TIME_CTRL, 23, 16, 1, 255), (Reg.TIME_STEP_LIMIT, 31, 0, 1, 1000000), (Reg.SLEW_MAX, 31, 0, 1, 500),
   (Reg.PPS_WIDTH, 31, 0, 1000, 500000000), (Reg.RTMR_CTRL, 23, 16, 1, 255), (Reg.RTMR_NUM, 31, 0, 1, 0xFFFFFFFF),
   (Reg.RTMR_DEN, 31, 0, 1, 0xFFFFFFFF)] ++
  [(Reg.MCH_TIMING, 31, 20, 1, 4000), (Reg.MCH_TIMING, 19, 0, 1, 1000000), (Reg.MCH_SERIAL, 31, 16, 2, 65535),
   (Reg.MCH_SERIAL, 5, 0, 8, 48), (Reg.MCH_SINCOS, 3, 0, 2, 12), (Reg.MCH_LATCH_DELAY, 31, 0, 0, 10000),
   (Reg.ECHO_CTRL, 15, 8, 5, 255), (Reg.ECHO_RATIO, 31, 16, 1, 65535), (Reg.ECHO_RATIO, 15, 0, 1, 65535),
   (Reg.RIG_MS_CTRL, 4, 0, 1, 16),
   (Reg.SVC_CTRL, 31, 16, 60, 65535), (Reg.SVC_CTRL, 15, 8, 1, 255), (Reg.SVC_SPARES, 11, 8, 0, 8), (Reg.SVC_SPARES, 7, 4, 0, 4),
   (Reg.SVC_SPARES, 3, 0, 0, 4), (Reg.SVC_THERM_DIE, 31, 24, 0, 40)]

/-- Values that a chapter reserves: register, bits and the values. -/
def reservedTab : List (RegRow × Nat × Nat × List Nat) :=
  let ports := (List.range 11).map (· + 4)
  let sets := (List.range 7).map (· + 8)
  [(Reg.STEW_SUCC, 15, 12, ports), (Reg.STEW_SUCC, 11, 8, ports), (Reg.STEW_SUCC, 7, 4, ports), (Reg.STEW_SUCC, 3, 0, ports),
   (Reg.RING_OWN, 25, 24, [3]), (Reg.LANE_CTRL, 2, 1, [3]), (Reg.ST_FMT, 2, 0, [5, 6, 7]), (Reg.ST_PIPE, 11, 9, [5, 6, 7]),
   (Reg.ST_PIPE, 7, 6, [2, 3]), (Reg.MSET_CTRL, 5, 4, [3]), (Reg.RREC_CTRL, 31, 28, sets), (Reg.RREC_CTRL, 27, 24, sets),
   (Reg.RREC_CTRL, 23, 20, sets), (Reg.RREC_CTRL, 19, 16, sets), (Reg.RREC_OFFLOAD, 19, 16, sets),
   (Reg.TIME_CTRL, 9, 8, [2, 3]), (Reg.TIME_CTRL, 5, 4, [2, 3]), (Reg.TIME_CTRL, 1, 0, [3]), (Reg.TC_CTRL, 2, 0, [6, 7]),
   (Reg.TP_CTRL, 5, 4, [3]), (Reg.MCH_CTRL, 3, 0, [10, 11, 12, 13, 14, 15]), (Reg.MCH_CTRL, 13, 12, [3]),
   (Reg.RIG_TRIG, 5, 0, (List.range 23).map (· + 0x28)), (Reg.RIG_TRIG, 21, 16, (List.range 23).map (· + 0x28))]

/-- Signed 32-bit registers with a range: least and greatest value. -/
def signedTab : List (RegRow × Int × Int) := [(Reg.TC_LOCAL_OFFSET, -1439, 1439), (Reg.TP_ASYM_NS, -1000000, 1000000)]

def fieldViols (t : RegSet) : List Viol :=
  rangeTab.flatMap (fun e => e.1.all.flatMap (fun ij =>
      let x := Machine.fld (t.val e.1 ij.1 ij.2) e.2.1 e.2.2.1
      viol (decide (x < e.2.2.2.1) || decide (e.2.2.2.2 < x)) (e.1.addr ij.1 ij.2) rRange))
    ++ reservedTab.flatMap (fun e => e.1.all.flatMap (fun ij =>
      viol (e.2.2.2.contains (Machine.fld (t.val e.1 ij.1 ij.2) e.2.1 e.2.2.1)) (e.1.addr ij.1 ij.2) rReserved))
    ++ signedTab.flatMap (fun e => e.1.all.flatMap (fun ij =>
      let x := toSigned 32 (t.val e.1 ij.1 ij.2).toNat
      viol (decide (x < e.2.1) || decide (e.2.2 < x)) (e.1.addr ij.1 ij.2) rRange))

/-! ### Time, service, store (R65, R70, R87, R270, thermal thresholds) -/

def ascends (t : RegSet) (r : RegRow) : Bool :=
  let f := fun (hi lo : Nat) => toSigned 8 (t.fld r 0 hi lo)
  decide (f 7 0 < f 15 8) && decide (f 15 8 < f 23 16)

def State.plainViols (s : State) (t : RegSet) : List Viol :=
  let p := t.fld Reg.TICK_PERIOD 0 21 0
  let spill := (t.val Reg.STORE_WM_SPILL).toNat
  let back := (t.val Reg.STORE_WM_BACKLOG).toNat
  let crit := (t.val Reg.STORE_WM_CRIT).toNat
  let pool := (s.reg Reg.STORE_POOL_PAGES).toNat
  viol (decide (p < 62500) || decide (4000000 < p) || decide (1000000000 % p ≠ 0)) Reg.TICK_PERIOD.addr rTick
    ++ (List.range 16).flatMap (fun r =>
      let n := (t.val Reg.RTMR_NUM r).toNat
      let d := (t.val Reg.RTMR_DEN r).toNat
      viol (decide (n * 20000 < d) || decide (100 * d < n)) (Reg.RTMR_NUM.addr r) rRange)
    ++ (List.range 2).flatMap (fun q =>
      let c := t.val Reg.TP_CTRL q
      let none4 := decide (t.val Reg.TP_IPV4 q = 0)
      let none6 := (List.range 4).all (fun j => decide (t.val Reg.TP_IPV6 q j = 0))
      viol (bit c 0 && ((decide (fld c 5 4 = 1) && none4) || (decide (fld c 5 4 = 2) && none6))) (Reg.TP_CTRL.addr q) rDepend)
    ++ viol (!(decide (crit < back) && decide (back < spill) && decide (spill < pool))) Reg.STORE_WM_SPILL.addr rOrder
    ++ viol (!ascends t Reg.SVC_THERM_DIE) Reg.SVC_THERM_DIE.addr rOrder
    ++ viol (!ascends t Reg.SVC_THERM_HBM) Reg.SVC_THERM_HBM.addr rOrder

/-! ### Rings and subscriptions (R253, R388, R421) -/

def ringViols (t : RegSet) : List Viol :=
  (List.range 1024).flatMap (fun n =>
    let c := t.val Reg.RING_OWN n
    viol (bit c 0 && (decide (fld c 20 16 < 4) || decide (16 < fld c 20 16))) (Reg.RING_OWN.addr n) rRange)

def State.subViols (s : State) (t : RegSet) : List Viol :=
  let on := (List.range 128).filter (fun k => t.bit Reg.SUB_CTRL k 31)
  on.flatMap (fun k =>
      let c := t.val Reg.SUB_CTRL k
      let here := Reg.SUB_CTRL.addr k
      let ring := fld c 9 0
      let o := t.val Reg.RING_OWN ring
      let ss := subStreams t k
      let pv := (fld c 27 24).testBit 2
      viol (decide (fld c 27 24 = 0)) here rRange
        ++ (ss.filter (fun st => !t.bit Reg.ST_CTRL st 0)).flatMap (fun st => [(Reg.ST_CTRL.addr st, rDepend)])
        ++ viol (!s.portExists (fld c 29 28)) here rDepend
        ++ viol (!(bit o 0 && decide (fld o 25 24 = 1) && decide (fld o 29 28 = fld c 29 28))) (Reg.RING_OWN.addr ring) rDepend
        ++ viol (on.any (fun j => decide (k < j) && decide (t.fld Reg.SUB_CTRL j 9 0 = ring))) here rConflict
        ++ viol (pv && !bit c 30) here rReserved
        ++ (if pv then ss.filter (fun st => !t.bit Reg.ST_PIPE st 20) else []).flatMap (fun st => [(Reg.ST_PIPE.addr st, rDepend)])
        ++ viol (bit c 23 && !bit (s.reg Reg.TCMP_CTRL (fld c 22 19)) 6) here rDepend)
    ++ (List.range 64).flatMap (fun st =>
      let users := on.filter (fun k => (subStreams t k).contains st)
      viol (decide (64 < users.length)) (Reg.SUB_CTRL.addr (users.headD 0)) rConflict)

/-! ### Lanes, links and streams (R129, R142, R170, R632) -/

/-- The lanes that a set bonds to a link. -/
def bondedIn (t : RegSet) (l : Nat) : List Nat :=
  let c := t.val Reg.HL_CTRL l
  (setBits (fld c 16 8) 9).map (fun i => 9 * fld c 31 30 + i)

def linkViols (t : RegSet) : List Viol :=
  let on := (List.range 32).filter (fun l => t.bit Reg.HL_CTRL l 0)
  on.flatMap (fun l =>
    let ls := bondedIn t l
    let h := t.val Reg.HDP_CTRL (t.fld Reg.HL_CTRL l 31 30)
    let spare := 9 * t.fld Reg.HL_CTRL l 31 30 + fld h 3 0
    viol (ls.isEmpty || decide (8 < ls.length)) (Reg.HL_CTRL.addr l) rRange
      ++ viol (on.any (fun m => decide (l < m) && (bondedIn t m).any ls.contains)) (Reg.HL_CTRL.addr l) rConflict
      ++ viol (bit h 16 && ls.contains spare) (Reg.HDP_CTRL.addr (t.fld Reg.HL_CTRL l 31 30)) rConflict
      ++ (ls.filter (fun n => !t.bit Reg.LANE_CTRL n 0)).flatMap (fun n => [(Reg.LANE_CTRL.addr n, rDepend)])
      ++ viol (decide (1 < ((ls.map (fun n => t.fld Reg.LANE_CTRL n 2 1)).eraseDups).length)) (Reg.LANE_CTRL.addr (ls.headD 0)) rConflict)

def State.streamViols (s : State) (t : RegSet) : List Viol :=
  let on := (List.range 64).filter (fun st => t.bit Reg.ST_CTRL st 0)
  on.flatMap (fun st =>
    let c := t.val Reg.ST_CTRL st
    let here := Reg.ST_CTRL.addr st
    let l := fld c 20 16
    let p := t.fld Reg.TICK_PERIOD 0 21 0
    let clash := on.any (fun u => decide (st < u) && decide (t.fld Reg.ST_CTRL u 20 16 = l)
      && decide (t.fld Reg.ST_CTRL u 25 24 = fld c 25 24))
    viol clash here rConflict
      ++ viol (!t.bit Reg.HL_CTRL l 0) (Reg.HL_CTRL.addr l) rDepend
      ++ match (s.hl l).cap with
        | none => [(here, rHead)]
        | some h => viol (decide (h.streams ≤ fld c 25 24) || !h.depths.testBit (t.fld Reg.ST_FMT st 2 0)
            || decide (t.fld Reg.RTMR_CTRL (fld c 11 8) 23 16 * p < h.minLead + 10000)) here rHead)
    ++ (List.range 64).flatMap (fun st =>
      let w := pvW t st
      let h := pvH t st
      viol (t.bit Reg.ST_PIPE st 20 && !(decide (1 ≤ w) && decide (w ≤ 4096) && decide (1 ≤ h) && decide (h ≤ 4096)))
        (Reg.ST_GEOM.addr st) rRange)

/-! ### Table objects (R211, R226, R236, R539) -/

/-- A SEALED object of a magic and at least a size. -/
def State.sealedAs (s : State) (h : Nat) (magic : List Byte) (size : Nat) : Bool :=
  match s.obj? h with
  | some (_, o) => decide (o.phase = .sealed_) && decide (s.objBytes h 0 4 = magic) && decide (size ≤ o.size)
  | none => false

def State.objSize (s : State) (h : Nat) : Nat := ((s.obj? h).map (·.2.size)).getD 0

def State.flatOk (s : State) (t : RegSet) (st : Nat) : Bool :=
  let h := (t.val Reg.ST_FLAT_TBL st).toNat
  let u := fun (off n : Nat) => leNat (s.objBytes h off n)
  s.sealedAs h [0x50, 0x46, 0x46, 0x31] (64 + 2 * geomW t st * geomH t st)
    && decide (u 4 4 = geomW t st) && decide (u 8 4 = geomH t st) && decide (11 ≤ u 12 1) && decide (u 12 1 ≤ 14) && decide (u 13 1 ≤ 8)

/-- An entry of a defect list: column, first line, last line, method. -/
def State.defect (s : State) (h i : Nat) : Nat × Nat × Nat × Nat :=
  let u := fun (off n : Nat) => leNat (s.objBytes h (64 + 8 * i + off) n)
  (u 0 2, u 2 2, u 2 2 + u 4 2, u 6 1)

def State.defectOk (s : State) (t : RegSet) (st : Nat) : Bool :=
  let h := (t.val Reg.ST_DEFECT_TBL st).toNat
  let u := fun (off n : Nat) => leNat (s.objBytes h off n)
  let n := u 4 4
  let es := (List.range (min n 65536)).map (s.defect h)
  s.sealedAs h [0x50, 0x44, 0x4C, 0x31] (64 + 8 * n)
    && decide (u 8 4 = geomW t st) && decide (u 12 4 = geomH t st) && decide (n ≤ 65536)
    && es.all (fun e => decide (e.1 < geomW t st) && decide (e.2.2.1 < geomH t st) && decide (e.2.2.2 ≤ 3))
    && (es.zip es.tail).all (fun p => decide (p.1.2.1 < p.2.2.1) || (decide (p.1.2.1 = p.2.2.1) && decide (p.1.1 < p.2.1)))
    && es.all (fun e => decide ((es.filter (fun x => decide (x.1 = e.1) && decide (x.2.1 ≤ e.2.2.1) && decide (e.2.1 ≤ x.2.2.1))).length = 1))
    && (List.range (geomH t st)).all (fun l =>
      decide ((es.filter (fun e => decide (e.2.1 ≤ l) && decide (l ≤ e.2.2.1))).length ≤ 64))

/-- Heap units of a number of bytes. -/
def heapUnits (n : Nat) : Nat := ceilDiv n 65536

/-- Units of the table heap (R235). -/
def heapSize : Nat := 2816 * 16

/-- Units of the preview rings of the enabled streams of a set (R223, R236). -/
def ringUnitsOf (t : RegSet) : Nat :=
  (List.range 64).foldl (fun n st =>
    if t.bit Reg.ST_CTRL st 0 && t.bit Reg.ST_PIPE st 20 then n + heapUnits (t.fld Reg.ST_PIPE st 26 24 * pvBytes t st) else n) 0

/-- Handles of table objects that open frames hold (R227). -/
def State.frameHandles (s : State) : List Nat :=
  s.store.frames.flatMap (fun f =>
    if f.phase = .opened ∨ f.phase = .ended then
      [(f.latch.val Reg.ST_DEFECT_TBL f.stream).toNat, (f.latch.val Reg.ST_FLAT_TBL f.stream).toNat]
        ++ (List.range 4).flatMap (fun k => [(f.latch.val Reg.PV_LOOK_1D k).toNat, (f.latch.val Reg.PV_LOOK_3D k).toNat])
    else [])

def State.tableViols (s : State) (t : RegSet) : List Viol :=
  let used := ((t.handles ++ s.frameHandles).filter (fun h => decide (h ≠ 0))).eraseDups
  let need := used.foldl (fun n h => n + heapUnits (s.objSize h)) (ringUnitsOf t)
  (List.range 64).flatMap (fun st =>
      if t.bit Reg.ST_CTRL st 0 then
        viol ((t.bit Reg.ST_PIPE st 4 && !s.flatOk t st) || (t.bit Reg.ST_PIPE st 3 && !s.defectOk t st)) (Reg.ST_CTRL.addr st) rTable
      else [])
    ++ (List.range 4).flatMap (fun k =>
      let c := t.val Reg.PV_LOOK_CTRL k
      let bad := fun (h : Nat) (magic : List Byte) (n : Nat) => !(s.sealedAs h magic n && decide (s.objSize h = n))
      viol ((bit c 0 && bad (t.val Reg.PV_LOOK_1D k).toNat [0x50, 0x4C, 0x31, 0x44] 24640)
        || (bit c 1 && bad (t.val Reg.PV_LOOK_3D k).toNat [0x50, 0x4C, 0x33, 0x44] 215686)) (Reg.PV_LOOK_CTRL.addr k) rTable)
    ++ viol (decide (heapSize < need)) (Reg.ST_CTRL.addr 0) rHeap

/-! ### Spill windows and magazine sets (R262, R295) -/

def spillViols (t : RegSet) : List Viol :=
  let on := (List.range 16).filter (fun w => t.bit Reg.SPW_CTRL w 0)
  let lo := fun (w : Nat) => (t.val Reg.SPW_BASE_LO w).toNat + 2 ^ 32 * (t.val Reg.SPW_BASE_HI w).toNat
  let hi := fun (w : Nat) => lo w + 65536 * (t.val Reg.SPW_PAGES w).toNat
  on.flatMap (fun w =>
    let n := (t.val Reg.SPW_PAGES w).toNat
    viol (decide (lo w % 65536 ≠ 0) || decide (n < 16) || decide (16777215 < n)) (Reg.SPW_CTRL.addr w) rRange
      ++ viol (on.any (fun v => decide (w < v) && decide (t.fld Reg.SPW_CTRL v 5 4 = t.fld Reg.SPW_CTRL w 5 4)
        && decide (lo w < hi v) && decide (lo v < hi w))) (Reg.SPW_CTRL.addr w) rConflict)

def setViols (t : RegSet) : List Viol :=
  (List.range 8).flatMap (fun m =>
      let c := t.val Reg.MSET_CTRL m
      let here := Reg.MSET_CTRL.addr m
      if bit c 0 then
        viol (decide (fld c 19 16 = 0)) here rRange
          ++ viol (decide (fld c 5 4 = 1) && decide (fld c 19 16 ≠ 0xF)) here rReserved
          ++ viol (decide (fld c 5 4 = 2) && decide (fld c 9 8 = fld c 13 12)) here rConflict
      else [])
    ++ (List.range 16).flatMap (fun r =>
      let c := t.val Reg.RREC_CTRL r
      ([fld c 19 16, fld c 23 20, fld c 27 24, fld c 31 28, t.fld Reg.RREC_OFFLOAD r 19 16].filter
        (fun m => decide (m < 8) && !t.bit Reg.MSET_CTRL m 0)).flatMap (fun m => [(Reg.MSET_CTRL.addr m, rDepend)]))

/-! ### Motion (R472) -/

def motionViols (t : RegSet) : List Viol :=
  let serial := (List.range 24).filter (fun ch => decide (6 ≤ t.fld Reg.MCH_CTRL ch 3 0) && decide (t.fld Reg.MCH_CTRL ch 3 0 ≤ 8))
  serial.flatMap (fun ch =>
      let c := t.val Reg.MCH_CTRL ch
      let here := Reg.MCH_CTRL.addr ch
      let k := fld c 26 24
      let e := t.val Reg.ECHO_CTRL k
      let clk := t.fld Reg.MCH_SERIAL ch 15 8
      let bits := t.fld Reg.MCH_SERIAL ch 5 0
      -- (BITS + 12) clock periods of 10^4 / CLK_100K ns
      let short := decide (t.fld Reg.MCH_SERIAL ch 31 16 * 1000 * clk < (bits + 12) * 10000 + 20000 * clk)
      viol (!(bit e 0 && bit e 1)) here rDepend
        ++ viol (serial.any (fun d => decide (ch < d) && decide (t.fld Reg.MCH_CTRL d 27 24 = fld c 27 24))) here rConflict
        ++ viol (decide (clk = 0) || decide ((if fld c 3 0 = 6 then 100 else 20) < clk) || short
          || (decide (fld c 3 0 ≠ 6) && decide (bits < 13))) here rRange)
    ++ (List.range 8).flatMap (fun k =>
      let e := t.val Reg.ECHO_CTRL k
      viol (bit e 0 && !bit e 1 && decide (24 ≤ fld e 20 16)) (Reg.ECHO_CTRL.addr k) rDepend)

/-! ### Locked fields (R533) -/

def State.lockViols (s : State) (t : RegSet) : List Viol :=
  lockTab.flatMap (fun e => (List.range e.row.n1).flatMap (fun i =>
    viol (decide (s.lockedBits t (fun r => (s.projRig r).1) e i ≠ 0)) (e.row.addr i) rLocked))

/-! ### The first failure -/

/-- Every failed condition of a set. -/
def State.violations (s : State) (t : RegSet) : List Viol :=
  fieldViols t ++ s.plainViols t ++ ringViols t ++ s.subViols t ++ linkViols t ++ s.streamViols t ++ s.tableViols t
    ++ spillViols t ++ setViols t ++ motionViols t ++ s.lockViols t

/-- The failure that is reported: the lowest offset, then the lowest reason (R532). -/
def firstViol (l : List Viol) : Option Viol :=
  match l with
  | [] => none
  | x :: t => some (t.foldl (fun a b => if b.1 < a.1 ∨ (b.1 = a.1 ∧ b.2 < a.2) then b else a) x)

def State.validate (s : State) (t : RegSet) : Option Viol := firstViol (s.violations t)

end Sys2Proof.Machine
end

