-- ==== Sys2Proof/Machine/ConfigSets.lean ====
section
/-! DEFINITION. Configuration sets: commit, clear, fallback, discard, probation, and table objects (R98, R393, R523–R549, R630,
R631). -/

namespace Sys2Proof.Machine

def State.setCfg (s : State) (f : CfgState → CfgState) : State := { s with cfg := f s.cfg }
/-- The state as it would be with a set active. -/
def State.withSet (s : State) (t : RegSet) : State := s.setCfg (fun c => { c with active := some { regs := t } })
/-- The RW bits of a register differ between two sets. -/
def regDiffers (a b : RegSet) (r : RegRow) (i : Nat) : Bool := decide (a.val r i ≠ b.val r i)

/-! ### Reservations that a set brings (R91, R98, R475) -/

/-- Activities that a commit admits, changes and removes. -/
def Act.byCommit : Act → Bool
  | .sub _ | .spill _ | .burst _ | .service => true
  | _ => false

/-- A rig whose burst uses its allotment. -/
def RigMode.bursts (m : RigMode) : Bool := m = .burst || m = .offload
def State.holdsBurst (s : State) (r : Nat) : Bool := s.plan.resvs.any (fun x => decide (x.act = .burst r) && x.until_.isNone)

/-- What is admitted under a set, in given rig modes: subscriptions, spill windows, service transfers, and the allotments of
bursts and of armed burst triggers. -/
def State.wantActs (s : State) (t : RegSet) (m : Nat → RigMode) : List (Act × Cls) :=
  ((List.range 128).filter (fun k => t.bit Reg.SUB_CTRL k 31)).map
      (fun k => (Act.sub k, if t.bit Reg.SUB_CTRL k 30 then Cls.d else Cls.c))
    ++ ((List.range 16).filter (fun w => t.bit Reg.SPW_CTRL w 0)).map (fun w => (Act.spill w, Cls.e))
    ++ (if s.plan.resvs.any (fun x => decide (x.act = .service)) then [(Act.service, Cls.e)] else [])
    ++ ((List.range 16).filter (fun r => (t.bit Reg.RIG_TRIG r 8 && decide (m r ≠ .idle))
        || (s.holdsBurst r && (m r).bursts))).map (fun r => (Act.burst r, Cls.a))

/-- The reservations of a set, each suspended if its activity is suspended now. -/
def State.setResvs (s : State) (t : RegSet) (m : Nat → RigMode) : List Resv :=
  let base := s.plan.resvs.filter (fun x => !x.act.byCommit)
  (s.buildAll t base (s.wantActs t m)).1.map (fun x =>
    { x with suspended := s.plan.resvs.any (fun y => decide (y.act = x.act) && y.suspended) })

def respareKinds : List Nat := [0x0C, 0x0D, 0x0E]
/-- The units that a changed SVC_SPARES moves. -/
def State.respareAll (s : State) (before : RegSet) : State :=
  if regDiffers before s.activeSet Reg.SVC_SPARES 0 then respareKinds.foldl (fun s k => s.respare k) s else s

/-- The planner's check of a commit: what would not fit, and did fit before it (R98). -/
def State.commitMisfits (s : State) (t : RegSet) : List Misfit :=
  let cut := fun (s : State) => s.setPlan (fun p => { p with cut := if s.hot then s.actF Reg.SVC_THERM_DIE 0 31 24 else 0 })
  let s1 := cut ((s.withSet t).respareAll s.activeSet)
  let base := s.plan.resvs.filter (fun x => !x.act.byCommit)
  let new := s1.setResvs t (fun r => (s.projRig r).1)
  let all := base ++ new
  let touched := (all.flatMap (fun x => x.amounts.map (fun a => (a.res, a.inst)))).eraseDups
  touched.filterMap (fun x =>
    let want := reservedOf all x.1 x.2
    let had := reservedOf s.plan.resvs x.1 x.2
    let ok := s1.admissible x.1 x.2
    if ok < want ∧ (had < want ∨ ok < (cut s).admissible x.1 x.2) then
      some (x.1, x.2, reservedOf new x.1 x.2, ok - reservedOf base x.1 x.2)
    else none)

/-- Between the taking of a commit and its boundary, the amounts that it adds are reserved beside what is held (R96). -/
def State.reserveRaise (s : State) (t : RegSet) : State :=
  let held := fun (a : Act) (x : Amount) => reservedOf (s.plan.resvs.filter (fun y => decide (y.act = a))) x.res x.inst
  let more := ((s.withSet t).setResvs t (fun r => (s.projRig r).1)).filterMap (fun r =>
    let l := r.amounts.filterMap (fun x => if held r.act x < x.amount then some { x with amount := x.amount - held r.act x } else none)
    if l.isEmpty then none else some { r with amounts := l })
  s.addResvs more (s.time.tickNum + 2)

/-- At the boundary the reservations are those of the set in force; a burst trigger is armed where its allotment fits. -/
def State.resvCommit (s : State) : State :=
  let t := s.activeSet
  let had := s.plan.resvs
  let new := s.setResvs t s.rigMode
  let base := had.filter (fun x => !x.act.byCommit)
  let fits := fun (x : Resv) => match x.act with
    | .burst r => s.holdsBurst r || (s.misfits (base ++ new.filter (fun y => decide (y.act ≠ x.act))) [x]).isEmpty
    | _ => true
  let new := new.filter fits
  -- what is held stays in its place in the order of admission
  let kept := had.filterMap (fun x =>
    if !x.act.byCommit then some x
    else if decide (s.time.tickNum ≤ x.fromTick) && had.any (fun y => decide (y.act = x.act) && decide (y.fromTick < s.time.tickNum)) then none
    else (new.find? (fun y => decide (y.act = x.act))).map (fun y => { x with amounts := y.amounts, cls := y.cls, suspended := y.suspended }))
  let added := new.filter (fun x => !kept.any (fun y => decide (y.act = x.act)))
  let s := s.setPlan (fun p => { p with resvs := kept ++ added.map (fun x => { x with fromTick := s.time.tickNum }) })
  (List.range 16).foldl (fun s r =>
    if (s.rigMode r).bursts then s
    else s.setF Reg.RIG_TRIG_STATUS r 0 0 (b2n (s.holdsBurst r && t.bit Reg.RIG_TRIG r 8))) s

/-- The service transfers' reservation is admitted on entry to STANDBY (R91). -/
def State.serviceResv (s : State) : State :=
  if s.plan.resvs.any (fun x => decide (x.act = .service)) then s
  else s.addResvs [(s.buildResv s.activeSet s.plan.resvs .service .e).1] s.time.tickNum

/-! ### Rings (R393, R630, R631) -/

/-- The rings that are enabled or end an abort. -/
def State.ringsUp (s : State) : List Nat :=
  (s.rings.filter (fun e => decide (e.2.state ≠ .disabled) || e.2.aborting)).map (·.1)

/-- A commit disables every ring whose assignment it changes. -/
def State.ringsCommit (s : State) (t : RegSet) : State :=
  (s.ringsUp.filter (fun n => decide (s.ringOwn n ≠ t.val Reg.RING_OWN n))).foldl (fun s n => s.ringOff n) s

/-- Leaving OPERATIONAL by CONFIG_CLEAR, a running ring keeps running when it and its EVT ring equal their bootstrap rings. -/
def State.ringsClear (s : State) : State :=
  let same := fun (n : Nat) => decide (s.ringOwn n = s.bootOwn n) && s.ringAssigned n && decide ((s.ring n).state = .running)
  (s.ringsUp.filter (fun n => !(same n && (decide (s.ringKind n = 2) || same (s.evtRing n))))).foldl (fun s n => s.ringOff n) s

/-! ### Lanes and links (R134, R142, R143, R191) -/

/-- What a set makes of a lane: link, logical lane, whether it is the spare, rate; nothing for a lane that is not enabled, not
bonded, or retired. -/
def State.laneConf (s : State) (n : Nat) : Option (Nat × Nat × Bool × Nat) :=
  let c := s.act Reg.LANE_CTRL n
  if !bit c 0 || decide (s.unitCode 4 n = 6) then none
  else match s.laneHome n with
    | some (l, k) => some (l, k, false, fld c 2 1)
    | none => if s.spareLane (lanePort n) = some n then some (s.spareLink (lanePort n), 15, true, fld c 2 1) else none

/-- A lane takes the role its set gives it: it trains, or is off. -/
def State.laneSetup (s : State) (n : Nat) : State :=
  let p := lanePort n
  let s := match s.swapOf p with
    | some w => if w.lane = n ∨ w.spare = n then (s.setSwap p none).completeOpt w.ticket stAborted else s
    | none => s
  let s := if s.spareNow p = some n then s.setSpareNow p 15 else s
  -- an injection of the lane ends with its role
  let s := s.clrReg Reg.LANE_INJ_CTRL n 1
  match s.laneConf n with
  | some (l, k, sp, _) => (s.setLane n (fun _ => { link := some l, logical := k, spare := sp })).startTraining n
  | none =>
    if (s.lane n).mode = .off ∧ (s.lane n).link = none then s
    else ((s.clrReg Reg.LANE_TRAIN_CTRL n 1).setLane n (fun q => { drained := q.drained })).emit (.lane n .off)

/-- The lanes and links whose configuration a commit changes start anew; EIDLE follows R191. -/
def State.lanesCommit (s : State) (before : RegSet) : State :=
  let old := s.withSet before
  let t := s.activeSet
  let wiring : Word := ~~~ 2
  let relinked := (List.range 32).filter (fun l => decide ((before.val Reg.HL_CTRL l &&& wiring) ≠ (t.val Reg.HL_CTRL l &&& wiring)))
  let on := fun (x : Option (Nat × Nat × Bool × Nat)) => match x with
    | some (l, _) => relinked.contains l
    | none => false
  let changed := (List.range 36).filter (fun n =>
    let a := old.laneConf n
    let b := s.laneConf n
    decide (a ≠ b) || on a || on b)
  -- a lane that a swap has moved goes back to its place with the lanes of its port
  let moved := (List.range 36).filter (fun n => !changed.contains n && changed.any (fun m => decide (lanePort m = lanePort n))
    && match old.laneConf n with
      | some (l, k, sp, _) => !(decide ((s.lane n).link = some l) && decide ((s.lane n).logical = k) && (s.lane n).spare == sp)
      | none => false)
  let s := relinked.foldl (fun s l => (s.setLinkMode l .down).setHl l (fun q =>
    { txns := q.txns, nextTxn := q.nextTxn, msgSeq := q.msgSeq })) s
  let s := (changed ++ moved).foldl (fun s n => s.laneSetup n) s
  -- what was written to the pattern test of a lane while it was powered down takes effect (R593)
  let s := ((List.range 36).filter (fun n => !before.bit Reg.LANE_CTRL n 0 && t.bit Reg.LANE_CTRL n 0)).foldl (fun s n => s.prbsWritten n 0) s
  (List.range 32).foldl (fun s l =>
    let was := before.bit Reg.HL_CTRL l 1
    let now := t.bit Reg.HL_CTRL l 1
    if !t.bit Reg.HL_CTRL l 0 || was == now then s
    else if now then s.eidleEnter l
    else (s.setHl l (fun q => { q with eidleReq := false })).wakeLink l) s

/-! ### What else follows a change of the set in force (R30) -/

/-- A changed tick period: the present tick ends at the first multiple of the new period at least one period on (R68). -/
def State.periodCommit (s : State) (before : RegSet) : State :=
  if regDiffers before s.activeSet Reg.TICK_PERIOD 0 then
    s.setTime (fun t => { t with tickEnd := roundUp (t.tickStart + s.periodUnits) s.periodUnits })
  else s

/-- The time unit: the source, the frequency reference, the timing ports (R49, R51, R53, R54, R55, R87). -/
def State.timeCommit (s : State) (before : RegSet) : State :=
  let t := s.activeSet
  let src := decide (before.fld Reg.TIME_CTRL 0 1 0 ≠ t.fld Reg.TIME_CTRL 0 1 0)
  let ref := decide (before.fld Reg.TIME_CTRL 0 9 8 ≠ t.fld Reg.TIME_CTRL 0 9 8)
  let s := if src || ref then s.setTime (fun t => { t with lockedHist := [], stateAt := t.clk }) else s
  -- the correction stays within ±SLEW_MAX (R50)
  let m := s.slewLimit
  let s := s.setTime (fun x => { x with
    adj := clampInt (-m) m x.adj, holdAdj := clampInt (-m) m x.holdAdj,
    sm := if t.fld Reg.TIME_CTRL 0 5 4 = 1 then x.sm else none })
  let s := if src && decide (t.fld Reg.TIME_CTRL 0 1 0 = 0) then
      (s.setServo .free).setTime (fun t => { t with adj := 0, pendingStep := if t.decided.isSome then t.pendingStep else none })
    else s
  let clk10 := decide (t.fld Reg.TIME_CTRL 0 9 8 = 1)
  let s := s.setTime (fun t => { t with clk10mUse := clk10, clk10mOk := clk10 })
  let s := (List.range 2).foldl (fun s p =>
    if before.bit Reg.TP_CTRL p 0 && !t.bit Reg.TP_CTRL p 0 then s.setTp p (fun q => { q with
      linkUp := false, t1 := none, waitFup := false, presp := none }) else s) s
  s.chooseTp.ppsGate.autoStep

/-- Subscriptions: those that leave release their frames; a change of pacing clears the credits (R255, R443). -/
def State.subsCommit (s : State) (t : RegSet) : State :=
  let before := s.activeSet
  (List.range 128).foldl (fun s k =>
    let a := before.val Reg.SUB_CTRL k
    let b := t.val Reg.SUB_CTRL k
    if bit a 31 && !bit b 31 then s.subRemoved k
    else if fld a 23 19 ≠ fld b 23 19 then s.setSub k (fun q => { q with credits := 0 })
    else s) s

/-- Bays that BAY_CTRL.ENABLE turns on or off (R315, R635). -/
def State.baysCommit (s : State) (before : RegSet) : State :=
  (List.range 4).foldl (fun s b =>
    let was := before.bit Reg.BAY_CTRL b 0
    let now := s.activeSet.bit Reg.BAY_CTRL b 0
    let q := s.bay b
    if was == now then s
    else if now then (if q.present then s.bayStart b q.page else s)
    else match q.mode with
      | .ready | .inserting | .identify => (if q.released then s else s.releaseBay b).bayGone b
      | .failed | .rejected => s.bayGone b
      | _ => s) s

/-- Motion channels that change TYPE and echoes that change (R470, R566). -/
def State.motionCommit (s : State) (before : RegSet) : State :=
  let t := s.activeSet
  let s := (List.range 24).foldl (fun s c =>
    if before.fld Reg.MCH_CTRL c 3 0 ≠ t.fld Reg.MCH_CTRL c 3 0 then s.mchRetype c else s) s
  (List.range 8).foldl (fun s k =>
    if regDiffers before t Reg.ECHO_CTRL k || regDiffers before t Reg.ECHO_RATIO k then s.echoStart k else s) s

/-- Every subsystem follows a change of the set in force, all at one moment. -/
def State.applySet (s : State) (before : RegSet) : State :=
  (((((((((s.lanesCommit before).periodCommit before).timeCommit before).respareAll before).resvCommit).spillCommit before).baysCommit
    before).motionCommit before).loadLooks)

/-! ### Activation (R526, R529, R540, R542) -/

def CfgState.nextVersion (c : CfgState) : Nat := c.lastVersion + 1
/-- A version above 0xFFFF_FFFF would be needed (R526). -/
def CfgState.spent (c : CfgState) : Bool := decide (0xFFFFFFFF ≤ c.lastVersion)

/-- The slots after an activation. A set that a fallback activates has no probation, and has not passed one. -/
def CfgState.activate (c : CfgState) (t : RegSet) (fallback : Bool) : CfgState :=
  let n := t.fld Reg.CFG_PROB_CTRL 0 31 16
  { c with
    active := some { regs := t, version := c.nextVersion, passed := !fallback && decide (n = 0), fallback := fallback },
    previous := match c.active with
      | some a => if a.passed then some a else c.previous
      | none => c.previous,
    lastVersion := c.nextVersion, probation := if fallback || decide (n = 0) then none else some n, undo := none }

def cfgPayload (kind : Nat) (c : CfgState) : List (Nat × Nat × Nat) := [(16, 1, kind), (20, 4, c.activeVer), (24, 4, c.prevVer)]

/-- A set becomes active: the completion and CONFIG_STATE on the rings as they were, then the rings of the new set, then every
subsystem. -/
def State.activate (s : State) (t : RegSet) (fallback : Bool) (ticket : Option Ticket) : State :=
  let c := s.cfg.activate t fallback
  let before := s.activeSet
  let s := s.completeOpt ticket stDone [(16, 4, c.lastVersion)]
  let s := s.count (if fallback then Reg.CFG_FALLBACK_CNT else Reg.CFG_COMMIT_CNT)
  let s := s.post 9 0x61 0 (cfgPayload (if fallback then 2 else 0) c)
  let s := if fallback then s.logEntry 0x30 0 s.cfg.failedVersion else s
  let s := if (c.active.map (·.passed)).getD false then s.post 9 0x61 0 (cfgPayload 1 c) else s
  let s := if s.dev.mode = .standby then s.enterMode .operational 0x20 else s
  let s := (s.subsCommit t).ringsCommit t
  (s.setCfg (fun _ => c)).applySet before

/-- The first change of a kind whose boundary has come, taken off the queue. -/
def State.dueBound (s : State) (p : BoundKind → Bool) : Option (Bound × State) :=
  match s.dev.bound.find? (fun b => p b.kind && decide (b.tick ≤ s.time.tickNum)) with
  | some b => some (b, { s with dev := { s.dev with bound := s.dev.bound.erase b } })
  | none => none

def State.commitBoundary (s : State) : State :=
  match s.dueBound (fun k => match k with | .commit _ => true | _ => false) with
  | some (b, s) => match b.kind with
    | .commit t => (s.activate t false b.ticket).mchWake.takeCkpt
    | _ => s
  | none => s

/-- A fallback activates PREVIOUS or FACTORY, its locked fields at their active values (R534, R542). -/
def State.fallbackBoundary (s : State) : State :=
  match s.dueBound (fun k => match k with | .fallback .. => true | _ => false) with
  | some (b, s) => match b.kind with
    | .fallback factory _ _ =>
      if s.dev.mode ≠ .operational then s.completeOpt b.ticket (s.wrongState none).1 (s.wrongState none).2
      else if s.cfg.spent then s.completeOpt b.ticket stNoResource
      else (s.activate (s.keepLocked (s.fallbackSet factory)) true b.ticket).mchWake.takeCkpt
    | _ => s
  | none => s

/-- The probation count has run out: the set passes (R540). -/
def State.probationEnd (s : State) : State :=
  if s.cfg.probation = some 0 then
    let s := s.setCfg (fun c => { c with probation := none, active := c.active.map (fun a => { a with passed := true }) })
    (s.post 9 0x61 0 (cfgPayload 1 s.cfg)).takeCkpt
  else s

def execProbationEnd (s : State) : Host.Outcome State Fault Refusal := s.go (fun s => s.probationEnd)

/-! ### The commands (R405, R411, R412, R527–R531, R543) -/

/-- A health failure detected in this tick is discarded by a commit or fallback taken for the same boundary (R544). -/
def State.discardFailure (s : State) : State :=
  let auto := fun (b : Bound) => decide (b.tick = s.time.tickNum + 2) && match b.kind with
    | .fallback _ false _ => true
    | _ => false
  match s.cfg.undo with
  | some (pending, probation, failed, cause) =>
    if s.dev.bound.any auto then
      { s with
        dev := { s.dev with bound := s.dev.bound.filter (fun b => !auto b) },
        cfg := { s.cfg with pending := pending, probation := probation, failedVersion := failed, fbCause := cause, undo := none } }
    else s
  | none => s

/-- A commit or fallback waits for its boundary (CFG_STATUS.WAITING). -/
def State.cfgWaiting (s : State) : Bool :=
  s.dev.bound.any (fun b => match b.kind with | .commit _ => true | .fallback .. => true | _ => false)

/-- The checks of CONFIG_COMMIT in the order of R527. -/
def State.commitCheck (d : Desc) (s : State) : Refuse :=
  match s.check405 d (structOk d (tNone d) [(8, 4)] false) true (s.isSteward d) (s.modeIn [.standby, .operational]) none with
  | some r => some r
  | none =>
    let base := opAt d 8 4
    let s' := s.discardFailure
    if base ≠ 0 ∧ base ≠ s.cfg.activeVer then some (s.wrongState none)
    else if s'.cfgWaiting then some (s.wrongState none)
    else if s.cfg.spent then some (stNoResource, [])
    else match s'.validate s'.cfg.pending with
      | some (off, reason) => some (stBadParam, [(16, 3, off), (19, 1, reason)])
      | none => (worst (s'.commitMisfits s'.cfg.pending)).map (fun m => (stNoResource, refusal m.1 m.2))

/-- CONFIG_COMMIT; one that completes BAD_PARAM is counted (R548). -/
def State.configCommit (s : State) (d : Desc) : State :=
  let invalid := s.takeable d 0 && (match State.commitCheck d (s.take d) with
    | some (st, _) => decide (st = stBadParam)
    | none => false)
  let s := if invalid then s.count Reg.CFG_INVALID_CNT else s
  s.runCmd d 0x20 (State.commitCheck d) (fun t s =>
    let s := s.discardFailure
    (s.reserveRaise s.cfg.pending).pushBound ⟨s.time.tickNum + 2, some t, .commit s.cfg.pending⟩)

def execConfigCommit (d : Desc) (s : State) : Host.Outcome State Fault Refusal := s.go (fun s => s.configCommit d)

/-- CONFIG_CLEAR (R35, R531, R631). -/
def State.clearCheck (d : Desc) (s : State) : Refuse :=
  match s.check405 d (structOk d (tNone d) [] false) true (s.isSteward d)
      (s.modeIn [.operational] && (List.range 16).all (fun r =>
        decide (s.rigMode r = .idle) && decide ((s.projRig r).1 = .idle))) none with
  | some r => some r
  | none => if s.cfgWaiting then some (s.wrongState none) else none

def execConfigClear (d : Desc) (s : State) : Host.Outcome State Fault Refusal :=
  s.go (fun s => s.runCmd d 0x21 (State.clearCheck d) (fun t s => s.pushBound ⟨s.time.tickNum + 2, some t, .clear⟩))

/-- CONFIG_FALLBACK (R543, R544); in STANDBY it copies the slot into the pending set. -/
def State.fallbackCheck (d : Desc) (s : State) : Refuse :=
  match s.check405 d (structOk d (tNone d) [(8, 1)] false) (decide (opAt d 8 1 ≤ 1)) (s.isSteward d)
      (s.modeIn [.standby, .operational]) none with
  | some r => some r
  | none =>
    if opAt d 8 1 = 0 ∧ s.cfg.previous.isNone then some (s.wrongState none)
    else if s.dev.mode = .operational ∧ s.cfg.spent then some (stNoResource, [])
    else none

def State.configFallback (s : State) (d : Desc) (t : Ticket) : State :=
  let factory := decide (opAt d 8 1 = 1)
  if s.dev.mode = .standby then
    (s.setCfg (fun c => { c with pending := s.fallbackSet factory })).complete t stDone [(16, 4, 0)]
  else
    let s := s.discardFailure
    let set := s.keepLocked (s.fallbackSet factory)
    (s.setCfg (fun c => { c with pending := set, probation := none, failedVersion := c.activeVer, fbCause := 0x100 })).pushBound
      ⟨s.time.tickNum + 2, some t, .fallback factory true 0⟩

def execConfigFallback (d : Desc) (s : State) : Host.Outcome State Fault Refusal :=
  s.go (fun s => s.runCmd d 0x22 (State.fallbackCheck d) (fun t s => s.configFallback d t))

/-- CONFIG_DISCARD: pending equals active again, or FACTORY in STANDBY (R530). -/
def State.discardPending (s : State) : State := s.setCfg (fun c => { c with pending := s.activeSet })

def execConfigDiscard (d : Desc) (s : State) : Host.Outcome State Fault Refusal :=
  s.go (fun s => s.runCmd d 0x23 (fun s => s.check405 d (structOk d (tNone d) [] false) true (s.isSteward d)
    (s.modeIn [.standby, .operational]) none) (fun t s => s.discardPending.complete t stDone))

/-! ### Leaving OPERATIONAL (R531, R631) -/

/-- The active set stops being active; it becomes PREVIOUS if it passed probation (R531). -/
def State.leaveActive (s : State) : State :=
  s.setCfg (fun c => { c with
    active := none, probation := none, undo := none,
    previous := match c.active with
      | some a => if a.passed then some a else c.previous
      | none => c.previous })

/-- The boundary of CONFIG_CLEAR: its completion and those of rig-mode commands of the same boundary, then STANDBY, then the
bootstrap rings. -/
def State.clearBoundary (s : State) : State :=
  match s.dueBound (fun k => match k with | .clear => true | _ => false) with
  | none => s
  | some (b, s) =>
    let s := s.completeOpt b.ticket stDone
    let s := (List.range 16).foldl (fun s r => s.rigNow r) s
    let s := s.enterMode .standby 0x21
    let s := (List.range 16).foldl (fun s r => s.rigModeChange r) s
    let before := s.activeSet
    ((((s.subsCommit []).ringsClear).leaveActive).applySet before).takeCkpt

/-! ### Table objects (R535–R539, R548, R549) -/

/-- Free units of the table heap (R235, R236). -/
def State.heapFree (s : State) : Nat :=
  heapSize - ringUnitsOf s.activeSet - (s.obj.dir.foldl (fun n e => if e.2.phase = .free then n else n + heapUnits e.2.size) 0)

/-- The lowest free directory index. -/
def State.freeObj (s : State) : Option Nat :=
  (List.range 4096).find? (fun i => decide (i ≠ 0) && decide ((s.obj.dir.get ({} : ObjSt) i).phase = .free))

/-- The result of an operation (TOBJ_RESULT). -/
def State.tobjEnd (s : State) (status : Nat) : State :=
  (s.setF Reg.TOBJ_CTRL 0 31 31 0).setReg Reg.TOBJ_RESULT 0 0 (BitVec.ofNat 32 status)

/-- The operations of TOBJ_CTRL, with the value written. -/
def State.tobjAlloc (s : State) : State :=
  let size := (s.reg Reg.TOBJ_SIZE).toNat
  if size = 0 ∨ 2952790016 < size then s.tobjEnd stBadParam
  else match s.freeObj with
    | none => s.tobjEnd stNoResource
    | some i =>
      if s.heapFree < heapUnits size then s.tobjEnd stNoResource
      else
        let gen := (s.obj.dir.get ({} : ObjSt) i).gen % 65535 + 1
        let s := s.setObj i (fun _ => { gen := gen, phase := .open_, size := size })
        let s : State := { s with obj := { s.obj with heap := s.obj.heap.filter (fun c => decide (c.1 / 2 ^ 32 ≠ i)) } }
        (s.setReg Reg.TOBJ_RESULT_HANDLE 0 0 (BitVec.ofNat 32 (gen * 65536 + i))).tobjEnd stDone

/-- TOBJ_DIGEST0 to 11, byte 0 in bits [7:0] of TOBJ_DIGEST0. -/
def State.digestRegs (s : State) : List Byte := (List.range 12).flatMap (fun i => leBytes 4 (s.reg Reg.TOBJ_DIGEST i).toNat)

/-- SEAL starts; TOBJ_CTRL.GO reads 1 until the digest is done. -/
def State.tobjSeal (s : State) : State :=
  match s.obj? (s.reg Reg.TOBJ_HANDLE).toNat with
  | some (i, o) =>
    if o.phase = .open_ then (s.setObj i (fun o => { o with phase := .sealing, want := s.digestRegs })).setF Reg.TOBJ_CTRL 0 31 31 1
    else s.tobjEnd stWrongState
  | none => s.tobjEnd stWrongState

def State.tobjFree (s : State) : State :=
  let h := (s.reg Reg.TOBJ_HANDLE).toNat
  match s.obj? h with
  | none => s.tobjEnd stBadParam
  | some (i, _) => if s.objHeld h then s.tobjEnd stDenied else (s.setObj i (fun o => { gen := o.gen })).tobjEnd stDone

/-- A write of TOBJ_CTRL; GO while an operation runs starts nothing. -/
def State.tobjCtrl (s : State) (v : Word) : State :=
  let busy := bit (s.reg Reg.TOBJ_CTRL) 31
  let s := s.storeBits Reg.TOBJ_CTRL 0 0 v
  if busy || !bit v 31 then s
  else match fld v 27 24 with
    | 1 => s.tobjAlloc
    | 2 => s.tobjSeal
    | 3 => s.tobjFree
    | _ => s.tobjEnd stBadParam

/-- The digest of the object that is sealing is done (R536, R537). -/
def State.tobjSealDone (s : State) : State :=
  match s.obj.dir.find? (fun e => decide (e.2.phase = .sealing)) with
  | none => s
  | some (i, o) =>
    let dg := sha384 (s.objBytes (o.gen * 65536 + i) 0 o.size)
    if dg = o.want then (s.setObj i (fun o => { o with phase := .sealed_, digest := dg, want := [] })).tobjEnd stDone
    else (s.setObj i (fun o => { o with phase := .open_, want := [] })).tobjEnd stIntegrity

def execTobjSealDone (s : State) : Host.Outcome State Fault Refusal := s.go (fun s => s.tobjSealDone)

/-- A write of TOBJ_DIR_DIGEST captures the digest of a SEALED object (R549). -/
def State.dirDigest (s : State) (i : Nat) : State :=
  let o := s.obj.dir.get ({} : ObjSt) i
  if o.phase ≠ .sealed_ then s
  else (List.range 12).foldl (fun s k => s.setReg Reg.TOBJ_DIGEST k 0 (BitVec.ofNat 32 (leAt o.digest (4 * k) 4))) s

end Sys2Proof.Machine
end

