-- ==== Sys2Proof/Machine/HostPorts.lean ====
section
/-! DEFINITION. Host ports and host domains: links, resets, power states, MSI-X masks, IDE, and stewardship (R352–R385). -/

namespace Sys2Proof.Machine

/-! ### Stewardship (R373–R378) -/

/-- Heartbeats count for three periods (R375). -/
def State.liveClk (s : State) : Nat := 3 * msClk (s.actF Reg.HB_PERIOD 0 15 0)

/-- A port is live: link up, in D0, and a heartbeat within three periods (R375). -/
def State.isLive (s : State) (p : Nat) : Bool :=
  s.portTalks p && match (s.port p).beatAt with
    | some b => decide (s.time.clk < b + s.liveClk)
    | none => false

def State.setDev (s : State) (f : DevState → DevState) : State := { s with dev := f s.dev }

/-- STEWARD_CHANGED: the new and the old steward, the cause and SHIFT_CNT; vector 0 of every port (R377, R415). -/
def State.stewardChanged (s : State) (old : Option Nat) (cause : Nat) : State :=
  let new := s.dev.steward
  let rings := s.evtRings 0 false
  let told := rings.map (fun n => s.ringPort n)
  let s := s.post 0 0x50 ((new.map (target 0xA)).getD 0)
    [(16, 1, new.getD 0xF), (17, 1, old.getD 0xF), (18, 1, cause), (19, 1, s.dev.shiftCnt)]
  ((List.range 4).filter (fun p => s.portExists p && !told.contains p)).foldl (fun (s : State) p => s.signal p 0) s

/-- The entries of STEW_SUCC in the order of the walk from a steward's entry (R376). -/
def State.successors (s : State) (old : Nat) : List Nat :=
  let v := s.act Reg.STEW_SUCC
  let l := [fld v 3 0, fld v 7 4, fld v 11 8, fld v 15 12]
  let i := match l.findIdx? (fun p => decide (p = old)) with
    | some i => i + 1
    | none => 0
  l.drop i ++ l.take i

/-- What every port reports of itself: vendor, device, revision, class code, subsystem vendor and subsystem, and the Device
Serial Number capability (R3, R356). -/
structure PciId where
  vendor : Nat
  device : Nat
  revision : Nat
  cls : Nat
  subVendor : Nat
  subsystem : Nat
  serial : BitVec 64
  deriving DecidableEq, Repr
/-- The identity of a port: multimedia controller, other. -/
def State.pciId (s : State) (_p : Nat) : PciId :=
  let id := (s.reg Reg.DEV_ID).toNat
  { vendor := id % 65536, device := id / 65536, revision := fld (s.reg Reg.DEV_REV) 7 0, cls := 0x048000,
    subVendor := s.svc.subsys.1, subsystem := s.svc.subsys.2,
    serial := Config.serial.setWidth 64 }

/-- A shift change (R376, R377, R541 bit 6). -/
def State.shiftChange (s : State) (cause : Nat) : State :=
  match s.dev.steward with
  | none => s
  | some old =>
    let new := (s.successors old).find? (fun p => decide (p ≠ old) && s.portExists p && s.isLive p)
    let s := s.discardPending
    let s := (s.setDev (fun d => { d with steward := new, shift := none, shiftCnt := satAdd 0xFF d.shiftCnt 1 })).clrReg Reg.STEW_CTRL 0 2
    let s := ((List.range 4).filter (fun p => s.portExists p)).foldl (fun (s : State) p => s.hpEvt p 9) s
    (s.stewardChanged (some old) cause).healthFail 6

/-- What makes a shift change happen, within 1 ms (R376). -/
def State.shiftCause (s : State) (p cause : Nat) : State :=
  if s.dev.steward = some p ∧ s.dev.shift = none then s.setDev (fun d => { d with shift := some cause }) else s

def execShiftChange (s : State) : Host.Outcome State Fault Refusal :=
  s.go (fun s => match s.dev.shift with
    | some c => s.shiftChange c
    | none => s)

/-- CLAIM: there is no steward, and the port is live (R374). -/
def State.claim (s : State) (p : Nat) : State :=
  if s.dev.steward = none ∧ s.isLive p then
    (s.setDev (fun d => { d with steward := some p, shift := none })).stewardChanged none 0
  else s

/-- RELEASE, from the steward; it reads 1 until the shift change (R13, R376). -/
def State.stewRelease (s : State) (p : Nat) : State :=
  if s.dev.steward = some p then (s.shiftCause p 3).orReg Reg.STEW_CTRL 0 2 else s

/-- A write of STEW_CTRL. -/
def State.stewCtrl (s : State) (p : Nat) (v : Word) : State :=
  let s := if bit v 1 then s.stewRelease p else s
  if bit v 0 then s.claim p else s

/-- A write of HEARTBEAT, of whatever value (R375). -/
def State.heartbeat (s : State) (p : Nat) : State := s.setPort p (fun q => { q with beatAt := some s.time.clk })

/-- Three periods without a heartbeat; the steward then stops being live (R375, R376). -/
def execPortLivenessExpiry (p : Nat) (s : State) : Host.Outcome State Fault Refusal :=
  s.go (fun s => match (s.port p).beatAt with
    | some b => if b + s.liveClk ≤ s.time.clk then s.shiftCause p 1 else s
    | none => s)

/-! ### Links (R352–R355, R360, R605, R624) -/

/-- The boot stage; ports train once BOARD_RECORD has ended (R624). -/
def State.bootStage (s : State) : Nat := fld (s.reg Reg.BOOT_STATUS) 7 0

/-- What a link trains to: a rate code of HP_STATUS, a width up to the strapped one, and FLIT mode, always at 64.0 GT/s (R353). -/
def State.linkOk (s : State) (p rate width : Nat) : Bool :=
  s.portExists p && !(s.port p).perst && decide (4 ≤ s.bootStage) && decide (1 ≤ rate) && decide (rate ≤ 6)
    && [1, 2, 4, 8, 16].contains width && decide (width ≤ strapWidth s.svc.bifurc p)

def State.linkSet (s : State) (p rate width : Nat) (flit : Bool) : State :=
  (((s.setF Reg.HP_STATUS p 30 30 1).setF Reg.HP_STATUS p 29 29 (b2n (flit || decide (rate = 6)))).setF Reg.HP_STATUS p 19 16 rate).setF
    Reg.HP_STATUS p 12 8 width

/-- Release of PX_PERST# starts link training (R605, R624). -/
def execPxPerstRelease (p : Nat) (s : State) : Host.Outcome State Fault Refusal :=
  s.go (fun s => if s.portExists p then s.setPort p (fun q => { q with perst := false }) else s)

/-- A link reaches L0. `mps`, `noSnoop` and `relaxed` are the Device Control settings that the host's enumeration gives the port
(R355, R379, R382). -/
def State.hostLinkUp (s : State) (p rate width : Nat) (flit : Bool) (mps : Nat) (noSnoop relaxed : Bool) : State :=
  if !s.linkOk p rate width || s.linkUp p then s
  else
    let s := (s.linkSet p rate width flit).setPort p (fun q => { q with
      mps := if [128, 256, 512].contains mps then mps else 128, noSnoop := noSnoop, relaxed := relaxed })
    s.hpEvt p 0

def execHostLinkUp (p rate width : Nat) (flit : Bool) (mps : Nat) (noSnoop relaxed : Bool) (s : State) :
    Host.Outcome State Fault Refusal := s.go (fun s => s.hostLinkUp p rate width flit mps noSnoop relaxed)

/-- A port retrains to another width or rate; the planner reads the capacity at the next boundary (R354). -/
def State.widthChange (s : State) (p rate width : Nat) (flit : Bool) : State :=
  let v := s.reg Reg.HP_STATUS p
  if !s.linkOk p rate width || !s.linkUp p || (decide (fld v 19 16 = rate) && decide (fld v 12 8 = width)) then s
  else (s.linkSet p rate width flit).hpEvt p 4

def execWidthChange (p rate width : Nat) (flit : Bool) (s : State) : Host.Outcome State Fault Refusal :=
  s.go (fun s => s.widthChange p rate width flit)

/-- A job for the port is released in the present tick (R363). -/
def State.portHasJobs (s : State) (p : Nat) : Bool :=
  s.plan.jobs.any (fun j => (decide (j.res = 6) || decide (j.res = 7)) && decide (j.inst = p))

/-- 16 µs idle, nothing outstanding and no job of the tick: the link enters ASPM L1 (R363). -/
def execAspmL1Entry (p : Nat) (s : State) : Host.Outcome State Fault Refusal :=
  s.go (fun s => if s.portTalks p && !s.portHasJobs p then s.setPort p (fun q => { q with l1 := true }) else s)

/-! ### Resets and power (R361, R362) -/

/-- The registers of the rings that a port owns take their reset values (R393). -/
def State.ringRegsReset (s : State) (p : Nat) : State :=
  let mine := fun (off : Nat) =>
    let n := (off - Reg.RING_CTRL.addr 0) / 0x40
    s.ringAssigned n && decide (s.ringPort n = p)
      && [Reg.RING_CTRL.addr n, Reg.RING_BASE_LO.addr n, Reg.RING_BASE_HI.addr n, Reg.RING_EVT_MASK.addr n].contains off
  { s with cur := { s.cur with ring := s.cur.ring.filter (fun e => !mine e.1) } }

/-- Every ring of a port is disabled at once, and its delivery descriptors end without a record (R361, R393). -/
def State.portRingsOff (s : State) (p : Nat) : State :=
  let mine := (s.rings.filter (fun e => s.ringAssigned e.1 && decide (s.ringPort e.1 = p))).map (·.1)
  let s := mine.foldl (fun (s : State) n => s.ringOff n) s
  let s := (s.mover.dlv.filter (fun x => mine.contains x.ring)).foldl (fun (s : State) x => s.abortDelivery x) s
  let s := mine.foldl (fun (s : State) n => s.setRing n (fun q => { q with dev := 0, db := 0 })) s
  s.ringRegsReset p

/-- The subscriptions of a port release their frames, and wait for their delivery ring (R255, R361). -/
def State.portSubsOff (s : State) (p : Nat) : State :=
  ((List.range 128).filter (fun k => s.subOn k && decide (s.subPort k = p))).foldl (fun (s : State) k =>
    (s.subRelease k).setSub k (fun q => { q with blocked := true })) s

/-- A reset of a host port: function-level reset 0, hot reset 1, link down 2, PX_PERST# low 3, D3hot to D0 4. -/
def State.portReset (s : State) (p kind : Nat) : State :=
  let q := s.port p
  let drops := [1, 2, 3].contains kind
  let wasUp := s.linkUp p
  if !s.portExists p || decide (4 < kind) || (decide (kind ≤ 2) && !wasUp) || (decide (kind = 4) && !q.d3hot) then s
  else
    let s := (s.portRingsOff p).portSubsOff p
    let s := (s.spillDrop p).svcStop (some p)
    let s := if drops then s.setReg Reg.HP_STATUS p 0 (s.reg Reg.HP_STATUS p &&& 0x80000000) else s
    let s := s.setPort p (fun q => ({ beatAt := q.beatAt, perst := q.perst || decide (kind = 3) } : PortSt))
    let s := if s.dev.steward = some p then s.shiftChange 2 else s
    let s := s.count Reg.HP_RESET_CNT p
    let s := if drops && wasUp then s.hpEvt p 1 else s
    match kind with
    | 0 => s.hpEvt p 2
    | 1 | 4 => s.hpEvt p 3
    | _ => s

def execHostPortReset (p kind : Nat) (s : State) : Host.Outcome State Fault Refusal := s.go (fun s => s.portReset p kind)

/-- Entry to D3hot: the port decodes no memory and its movers stop; a steward stops being live (R362, R375, R376). -/
def execD3hotEntry (p : Nat) (s : State) : Host.Outcome State Fault Refusal :=
  s.go (fun s => if s.linkUp p then (s.setPort p (fun q => { q with d3hot := true, l1 := false })).shiftCause p 1 else s)

/-! ### MSI-X (R364) -/

/-- Pending vectors whose masks are clear send one message each. -/
def State.sendPending (s : State) (p : Nat) : State :=
  let q := s.port p
  if !q.msixOn || q.funcMask || !s.portTalks p then s
  else
    let go := (List.range 2048).filter (fun v => q.pba.contains v && q.unmasked.contains v)
    let s := s.setPort p (fun q => { q with pba := q.pba.filter (fun v => !go.contains v) })
    go.foldl (fun (s : State) v => s.signal p v) s

/-- A write of a vector's mask bit, or of the function's MSI-X Enable and Function Mask. -/
def State.msixMask (s : State) (p : Nat) (vec : Option Nat) (enable mask : Bool) : State :=
  if !s.linkUp p then s
  else
    let s := match vec with
      | some v => s.setPort p (fun q => { q with
          unmasked := if mask || decide (2048 ≤ v) then q.unmasked.filter (fun x => decide (x ≠ v))
            else if q.unmasked.contains v then q.unmasked else q.unmasked ++ [v] })
      | none => s.setPort p (fun q => { q with msixOn := enable, funcMask := mask })
    s.sendPending p

def execMsixUnmask (p : Nat) (vec : Option Nat) (enable mask : Bool) (s : State) : Host.Outcome State Fault Refusal :=
  s.go (fun s => s.msixMask p vec enable mask)

/-! ### IDE and SPDM (R366, R367) -/

/-- An SPDM request over the DOE mailbox: 1 ends the handshake that DIK authenticates, 2 ends the session, another is answered and
changes nothing. -/
def State.spdmRequest (s : State) (p kind : Nat) : State :=
  if !s.portTalks p || decide (s.dev.mode = .boot) then s
  else
    let ok := s.sec.dik.isSome && !s.sec.drbgBlocked
    let s := s.emit (.spdm p kind (decide (kind ≠ 1) || ok))
    match kind with
    | 1 => s.setPort p (fun q => { q with spdm := ok })
    | 2 => s.setPort p (fun q => { q with spdm := false })
    | _ => s

def execSpdmRequest (p kind : Nat) (s : State) : Host.Outcome State Fault Refusal := s.go (fun s => s.spdmRequest p kind)

/-- An IDE_KM message establishes or refreshes the keys of a selective stream, over the address association range that the IDE
capability holds for it (R366). -/
def State.ideKm (s : State) (p n key lo hi : Nat) : State :=
  if !s.portTalks p || !(s.port p).spdm || decide (4 ≤ n) then s
  else s.setPort p (fun q =>
    let l := q.ide ++ List.replicate (n + 1 - q.ide.length) ({} : IdeStream)
    { q with ide := l.set n { secure := true, lo := lo, hi := hi, key := key } })

def execIdeKm (p n key lo hi : Nat) (s : State) : Host.Outcome State Fault Refusal := s.go (fun s => s.ideKm p n key lo hi)

/-- A received TLP fails its IDE check: it is dropped, reported through AER, and its stream becomes Insecure (R367). -/
def State.ideFail (s : State) (p n : Nat) : State :=
  let q := s.port p
  match q.ide[n]? with
  | none => s
  | some x =>
    if !x.secure || !s.portTalks p then s
    else s.setPort p (fun q => { q with ide := q.ide.set n { x with secure := false }, aerIde := q.aerIde + 1 })

def execIdeIntegrityFail (p n : Nat) (s : State) : Host.Outcome State Fault Refusal := s.go (fun s => s.ideFail p n)

end Sys2Proof.Machine
end

