-- ==== Sys2Proof/Machine/Security.lean ====
section
/-! DEFINITION. The security unit: roles, provisioning, its services, self-tests, tamper inputs and zeroisation (R484–R496,
R506–R522), and the lockstep mismatch that zeroises (R514, R561, R562). -/

namespace Sys2Proof.Machine

def State.setSec (s : State) (f : SecState → SecState) : State := { s with sec := f s.sec }
/-- Bytes from the DRBG: a free value. -/
def State.random (s : State) (n : Nat) : List Byte × State := (beBytes n (s.freeNat (8 * n)), s.useFree)
def sign (priv msg : List Byte) : List Byte := beBytes 96 (Config.ecdsaSign priv (sha384 msg)).toNat
def pubOf (priv : List Byte) : List Byte := beBytes 96 (Config.ecPublic priv).toNat
/-- The device serial, 6 bytes. -/
def serialBytes : List Byte := leBytes 6 Config.serial.toNat
def State.dikId (s : State) : Option (List Byte) := s.sec.dik.map (fun k => sha384 (pubOf k))
def State.owkId (s : State) : Option (List Byte) := s.sec.owk.map owkIdOf

/-- SECURITY_ALERT of a kind that sets no bit of SEC_EVENTS, and its log entry (R521, R574). -/
def State.secNotice (s : State) (kind : Nat) (pl : List (Nat × Nat × Nat)) : State :=
  (s.post 10 0x68 0 ([(16, 1, kind)] ++ pl)).logEntry 0x40 0 (leAt (payload ([(16, 1, kind)] ++ pl)) 0 4)

/-! ### SEC_STATUS (R515) -/

def State.hasCoKey (s : State) : Bool := s.sec.coKeys.any (fun e => decide (e.2 ≠ []))

/-- SEC_STATE; in PROVISION it is PROVISIONING once a CO slot holds a key. -/
def State.secState (s : State) : Nat :=
  match s.dev.mode with
  | .boot => 0
  | .zeroized => 5
  | m => if s.sec.drbgBlocked then 4 else if m = .provision then (if s.hasCoKey then 2 else 1) else 3

/-- A TAMPER input is at its active level (SEC_TAMPER_CTRL.POLn). -/
def State.tamperActive (s : State) (i : Nat) : Bool := s.sec.tamperHigh.contains i != bit s.sec.tamperCtrl i

def State.secStatus (s : State) : Word :=
  let ok := (s.dev.mode = .standby || s.dev.mode = .operational) && s.sec.selfTested && !s.sec.jtagOpen && decide (s.secState = 3)
  let held := (s.takes.takes.filter (fun t => decide (t.key ≠ []))).length
  let tin := b2n (s.tamperActive 0) + 2 * b2n (s.tamperActive 1)
  BitVec.ofNat 32 (s.secState + s.sec.bootSlot * 2 ^ 4 + b2n s.sec.fwPending.isSome * 2 ^ 8 + min 255 held * 2 ^ 16
    + tin * 2 ^ 24 + b2n s.hasCoKey * 2 ^ 28 + b2n (s.sec.dik.isSome && s.sec.owk.isSome) * 2 ^ 29
    + b2n (!s.sec.jtagOpen) * 2 ^ 30 + b2n ok * 2 ^ 31)

/-! ### Zeroisation (R34, R255, R321, R516–R518) -/

/-- The keys, roles and IDE streams are erased (R516). -/
def State.eraseKeys (s : State) : State :=
  let s := s.setSec (fun q => { q with
    ownerOwk := none, ownerDik := none, owk := none, dik := none, ed := none, nonces := [],
    zeroizeCnt := satAdd 0xFFFFFFFF q.zeroizeCnt 1 })
  let insecure := fun (q : PortSt) => { q with
    spdm := false, ide := q.ide.map (fun x => { x with secure := false, key := 0 }) }
  { s with
    rings := s.rings.map (fun e => (e.1, { e.2 with role := none })),
    ports := s.ports.map (fun e => (e.1, insecure e.2)),
    takes := { s.takes with takes := s.takes.takes.map (fun t => { t with key := [] }) } }

/-- Every command in execution completes ABORTED (R203, R412, R518), but for those the boundary queue and the engines below hold. -/
def State.abortCommands (s : State) : State :=
  let tickets : List Ticket :=
    s.svc.tests.filterMap (·.ticket) ++ s.svc.drains.filterMap (·.2) ++ s.svc.due.filterMap (·.ticket)
    ++ s.link.swaps.filterMap (fun e => e.2.bind (·.ticket)) ++ s.link.links.flatMap (fun e => e.2.txns.map (·.ticket))
    ++ (s.time.decided.bind (·.ticket)).toList ++ s.mag.bays.filterMap (fun e => e.2.ticket)
    ++ s.mag.recs.filterMap (fun e => e.2.relay.bind (·.ticket)) ++ s.mag.recs.filterMap (fun e => e.2.emerg.bind (·.ticket))
  let s := tickets.foldl (fun s t => s.complete t stAborted) s
  let s := s.mag.jobs.foldl (fun s j => s.endJob j stAborted []) s
  { s with
    svc := { s.svc with
      tests := s.svc.tests.map (fun t => { t with ticket := none }), drains := s.svc.drains.map (fun e => (e.1, none)),
      due := s.svc.due.map (fun e => { e with ticket := none }) },
    link := { s.link with
      swaps := s.link.swaps.map (fun e => (e.1, e.2.map (fun w => { w with ticket := none }))),
      links := s.link.links.map (fun e => (e.1, { e.2 with txns := [] })) },
    time := { s.time with decided := s.time.decided.map (fun d => { d with ticket := none }) },
    mag := { s.mag with
      bays := s.mag.bays.map (fun e => (e.1, { e.2 with ticket := none })),
      recs := s.mag.recs.map (fun e => (e.1, { e.2 with relay := none, emerg := none })) } }

/-- The changes that wait for their boundary end ABORTED, and what they reserved is given back (R518, R531). -/
def State.abortBound (s : State) : State :=
  let s := s.dev.bound.foldl (fun s b =>
    let s := match b.kind with
      | .rig r cause _ _ _ tid _ => s.undoRig r cause.code b.tick tid
      | _ => s
    s.completeOpt b.ticket stAborted) s
  { s with dev := { s.dev with bound := [] } }

/-- Rigs, takes, holders, deliveries and transfers end at once (R34, R255, R442, R517). -/
def State.stopWork (s : State) : State :=
  let ending := s.takes.takes.filter (fun t => t.started && t.last.isNone)
  let now : Int := s.now16
  let last := fun (t : Take) => s.firstAt t.rig now - 1
  let s := (List.range 16).foldl (fun s r => s.rigNow r) s
  let s := ending.foldl (fun s t =>
    (s.setTake t.id (fun t => { t with last := some (last t), reason := 3 })).post 1 0x12 (target 1 t.rig)
      [(16, 1, 3), (20, 4, last t)]) s
  let s := s.mover.dlv.foldl (fun s x => s.abortDelivery x) s
  let s := s.mover.spills.foldl (fun s x =>
    (s.dropSpill x.id).setFrame x.id (fun f => { f with loc := .resident })) s
  let s := (([0, 1, 2, 3, 4] : List Nat) ++ (List.range 128).map (· + 16)).foldl (fun (s : State) h => s.releaseAll h (fun _ => true)) s
  let s := s.setMover (fun q => { q with subs := [] })
  -- a segment that never opened has nothing to close
  let next := s.time.tickNum + 1
  let shut := fun (e : Nat × RecSt) => (e.1, { e.2 with closed := true })
  let unopened := fun (g : Seg) => if g.opened || decide (7 ≤ g.stage) then g else { g with stage := 7, endTick := next, endKind := 4 }
  let s := s.setMag (fun m => { m with
    recs := m.recs.map shut,
    segs := m.segs.map unopened })
  (s.svcStop none).setPlan (fun p => { p with resvs := [], work := [], jobs := [], lastSet := [] })

/-- Zeroisation, with the cause that DEVICE_MODE carries and the command that asked for it. A device that is ZEROIZED erases again
and changes nothing else; the boot of one in BOOT ends in ZEROIZED (R517, R518, R623). -/
def State.zeroise (s : State) (cause : Nat) (ticket : Option Ticket) : State :=
  if s.dev.mode = .boot then (s.eraseKeys.setSec (fun q => { q with bootZero := some cause })).secAlert 0 7 [(17, 1, cause)]
  else
  let again := s.dev.mode = .zeroized
  let before := s.activeSet
  let wasOn := s.cfg.active.isSome
  let s := s.eraseKeys
  if again then s.completeOpt ticket stDone [(30, 1, 1)]
  else
    let s := ((s.stopWork).abortCommands).abortBound
    let s := s.completeOpt ticket stDone [(30, 1, 1)]
    let s := s.enterMode .zeroized cause
    let s := s.secAlert 0 7 [(17, 1, cause)]
    let s := if wasOn then s.ringsUp.foldl (fun s n => s.ringOff n) s else s
    (s.leaveActive).applySet before

/-! ### Services (R405, R486–R496, R510) -/

/-- A security service waits while the security core recovers (R560); its payload carries the service indicator. -/
def State.secCmd (s : State) (d : Desc) (op : Nat) (used : List (Nat × Nat)) (operands : Bool) (modes : List DevMode)
    (issuer : State → Bool) (body : Ticket → State → State) : State :=
  s.unlessRecovering 4 (fun s => s.runCmd d op
    (fun s => s.check405 d (structOk d (tNone d) used false) operands (issuer s) (s.modeIn modes) none) body)

def State.secDone (s : State) (t : Ticket) (pl : List (Nat × Nat × Nat) := []) (status : Nat := stDone) : State :=
  s.complete t status (pl ++ [(30, 1, 1)])
def State.secState? (s : State) (t : Ticket) : State := s.complete t (s.wrongState none).1 (s.wrongState none).2

/-- BUF, which must be aligned to 64 bytes. -/
def bufOf (d : Desc) : Nat := opAt d 16 8
def bufOk (d : Desc) : Bool := decide (bufOf d % 64 = 0)
def bufUsed : Nat × Nat := (16, 8)

/-- Write a service's answer to its buffer and complete it; a write that IDE blocks completes SECURITY (R367). -/
def State.secWrite (s : State) (d : Desc) (t : Ticket) (off : Nat) (data : List Byte) (pl : List (Nat × Nat × Nat) := [])
    (status : Nat := stDone) : State :=
  let p := s.issuer d
  if s.ideBlocks p (bufOf d + off) data then (s.hpEvt p 7).complete t stSecurity
  else (s.hostWrite p (bufOf d + off) data (fNoSnoop d)).secDone t pl status

def pMode : List DevMode := [.provision]
def psMode : List DevMode := [.provision, .standby, .operational]
def soMode : List DevMode := [.standby, .operational]
def allModes : List DevMode := [.provision, .standby, .operational, .zeroized]

/-- A ring authorised for the User role; CO includes it (R487). -/
def State.isUser (s : State) (d : Desc) : Bool := (s.ring d.ring).role.isSome

def execZeroize (d : Desc) (s : State) : Host.Outcome State Fault Refusal :=
  s.go (fun s => s.secCmd d 0x60 [] true allModes (fun s => s.isCo d) (fun t s => s.zeroise 0x60 (some t)))

/-- A TAMPER input is in mode ZEROIZE. -/
def State.tamperZeroises (s : State) (i : Nat) : Bool :=
  decide (fld s.sec.tamperCtrl (5 + 2 * i) (4 + 2 * i) = 2)

def execProvisionBegin (d : Desc) (s : State) : Host.Outcome State Fault Refusal :=
  s.go (fun s => s.secCmd d 0x61 [] true [.zeroized] (fun s => s.isCo d) (fun t s =>
    if s.sec.zeroizeLow || [0, 1].any (fun i => s.tamperActive i && s.tamperZeroises i) then s.secState? t
    else (s.secDone t).enterMode .provision 0x61))

def execProvisionClose (d : Desc) (s : State) : Host.Outcome State Fault Refusal :=
  s.go (fun s => s.secCmd d 0x62 [] true pMode (fun s => s.isCo d) (fun t s =>
    if s.sec.dik.isNone || s.sec.owk.isNone then s.secState? t
    else
      let s := s.setSec (fun q => { q with ownerOwk := q.owk, ownerDik := q.dik, ed := none })
      ((s.secDone t).enterMode .standby 0x62).serviceResv))

/-- ROLE 0 is CO with slots 0 and 1, ROLE 1 User with slots 0 to 3. -/
def slotOk (d : Desc) : Bool :=
  let r := opAt d 8 1
  (decide (r = 0) && decide (opAt d 9 1 < 2)) || (decide (r = 1) && decide (opAt d 9 1 < 4))

/-- The clocks of 10 s, 60 s and 1 s. -/
def secClk (n : Nat) : Nat := msClk (1000 * n)

def execSecAuthBegin (d : Desc) (s : State) : Host.Outcome State Fault Refusal :=
  s.go (fun s => s.secCmd d 0x63 [(8, 2), bufUsed] (slotOk d && bufOk d) allModes (fun _ => true) (fun t s =>
    if (s.sec.lockAt.map (fun x => decide (s.time.clk < x + secClk 60))).getD false then s.complete t stDenied
    else if s.sec.drbgBlocked then s.complete t stSecurity
    else
      let (n, s) := s.random 48
      let x : Nonce := { bytes := n, role := opAt d 8 1, slot := opAt d 9 1, at_ := s.time.clk }
      (s.setSec (fun q => { q with nonces := q.nonces.put none d.ring (some x) })).secWrite d t 0 n))

/-- "PARURA AUTH". -/
def authLabel : List Byte := [0x50, 0x41, 0x52, 0x55, 0x52, 0x41, 0x20, 0x41, 0x55, 0x54, 0x48]

/-- M of R486. -/
def State.challenge (s : State) (d : Desc) (x : Nonce) : List Byte :=
  authLabel ++ x.bytes ++ serialBytes ++ leBytes 1 (s.issuer d) ++ leBytes 2 d.ring ++ leBytes 1 x.role ++ leBytes 1 x.slot

def State.roleKey (s : State) (role slot : Nat) : List Byte :=
  if role = 0 then s.sec.coKeys.get [] slot else s.sec.userKeys.get [] slot

/-- The nonce of the ring is for this role and slot, at most 10 s old, and the signature over M verifies. -/
def State.proves (s : State) (d : Desc) : Bool :=
  match s.sec.nonces.get none d.ring with
  | none => false
  | some x =>
    let key := s.roleKey x.role x.slot
    decide (x.role = opAt d 8 1) && decide (x.slot = opAt d 9 1) && decide (s.time.clk ≤ x.at_ + secClk 10) && decide (key ≠ [])
      && Config.ecdsaVerify key (sha384 (s.challenge d x)) (sliceBytes d.buf 0 96)

/-- A failed proof is counted and reported; from the fifth in a row on, each starts a lockout (R488). -/
def State.proofFailed (s : State) (d : Desc) : State :=
  let s := s.setSec (fun q => { q with fails := q.fails + 1 })
  let s := (s.count Reg.SEC_AUTH_FAIL_CNT).secNotice 3
    [(17, 1, s.issuer d), (18, 2, d.ring), (20, 1, opAt d 8 1), (21, 1, opAt d 9 1)]
  if 5 ≤ s.sec.fails then (s.setSec (fun q => { q with lockAt := some s.time.clk })).secAlert 3 4 [(17, 4, 60)] else s

def execSecAuthProve (d : Desc) (s : State) : Host.Outcome State Fault Refusal :=
  s.go (fun s => s.secCmd d 0x64 [(8, 2), bufUsed] (slotOk d && bufOk d) allModes (fun _ => true) (fun t s =>
    let ok := s.proves d
    let s := s.setSec (fun q => { q with nonces := q.nonces.put none d.ring none })
    if ok then
      let role := if opAt d 8 1 = 0 then Role.co else Role.operator
      ((s.setSec (fun q => { q with fails := 0 })).setRing d.ring (fun q => { q with role := some role })).secDone t
        [(16, 1, opAt d 8 1)]
    else (s.proofFailed d).complete t stSecurity))

def execSecLogout (d : Desc) (s : State) : Host.Outcome State Fault Refusal :=
  s.go (fun s => s.secCmd d 0x65 [] true allModes (fun _ => true) (fun t s =>
    (s.setRing d.ring (fun q => { q with role := none })).secDone t))

/-- 60 s after a lockout SEC_AUTH_BEGIN is accepted again (R488). -/
def execLockoutExpiry (s : State) : Host.Outcome State Fault Refusal :=
  s.go (fun s => match s.sec.lockAt with
    | some x => if x + secClk 60 ≤ s.time.clk then s.setSec (fun q => { q with lockAt := none }) else s
    | none => s)

def execSecCoEnrol (d : Desc) (s : State) : Host.Outcome State Fault Refusal :=
  s.go (fun s => s.secCmd d 0x66 [(9, 1), bufUsed] (decide (opAt d 9 1 < 2) && bufOk d) pMode (fun s => s.isSteward d) (fun t s =>
    if s.hasCoKey then s.secState? t
    else (s.setSec (fun q => { q with coKeys := q.coKeys.put [] (opAt d 9 1) (sliceBytes d.buf 0 96) })).secDone t))

def execSecKeyReplace (d : Desc) (s : State) : Host.Outcome State Fault Refusal :=
  s.go (fun s => s.secCmd d 0x67 [(8, 3), bufUsed] (slotOk d && decide (opAt d 10 1 < 2) && bufOk d) psMode (fun s => s.isCo d)
    (fun t s =>
      let key := if opAt d 10 1 = 1 then [] else sliceBytes d.buf 0 96
      (s.setSec (fun q =>
        if opAt d 8 1 = 0 then { q with coKeys := q.coKeys.put [] (opAt d 9 1) key }
        else { q with userKeys := q.userKeys.put [] (opAt d 9 1) key })).secDone t))

def execSecEcdhBegin (d : Desc) (s : State) : Host.Outcome State Fault Refusal :=
  s.go (fun s => s.secCmd d 0x68 [bufUsed] (bufOk d) pMode (fun s => s.isCo d) (fun t s =>
    if s.sec.drbgBlocked then s.complete t stSecurity
    else
      let (k, s) := s.random 48
      let pub := pubOf k
      (s.setSec (fun q => { q with ed := some k })).secWrite d t 0 (pub ++ sign Config.fak pub)))

/-- "PARURA OWNER KEY". -/
def ownerLabel : List Byte :=
  [0x50, 0x41, 0x52, 0x55, 0x52, 0x41, 0x20, 0x4F, 0x57, 0x4E, 0x45, 0x52, 0x20, 0x4B, 0x45, 0x59]

/-- KEK of R496. -/
def kekOf (ed : List Byte) (z : BitVec 384) : List Byte :=
  (sha384 ([0, 0, 0, 1] ++ beBytes 48 z.toNat ++ ownerLabel ++ serialBytes ++ (pubOf ed).take 48)).take 32

def execSecOwnerSet (d : Desc) (s : State) : Host.Outcome State Fault Refusal :=
  s.go (fun s => s.secCmd d 0x69 [bufUsed] (bufOk d) pMode (fun s => s.isCo d) (fun t s =>
    match s.sec.ed with
    | none => s.secState? t
    | some ed =>
      match Config.ecdh ed (sliceBytes d.buf 0 96) with
      | none => s.complete t stBadParam
      | some z =>
        match Config.keyUnwrap (kekOf ed z) (sliceBytes d.buf 96 40) with
        | none => s.complete t stSecurity
        | some owk =>
          (s.setSec (fun q => { q with owk := some (sliceBytes owk 0 32), ed := none })).secDone t
            [(16, 8, leAt (owkIdOf (sliceBytes owk 0 32)) 0 8)]))

def execSecIdentityGen (d : Desc) (s : State) : Host.Outcome State Fault Refusal :=
  s.go (fun s => s.secCmd d 0x6A [] true pMode (fun s => s.isCo d) (fun t s =>
    if s.sec.drbgBlocked then s.complete t stSecurity
    else
      let (k, s) := s.random 48
      (s.setSec (fun q => { q with dik := some k })).secDone t [(16, 8, leAt (sha384 (pubOf k)) 0 8)]))

/-- What SEC_GET_IDENTITY writes (R494, R510). -/
def State.identity (s : State) : List Byte :=
  match s.sec.dik with
  | some k => pubOf k ++ sha384 (pubOf k) ++ Config.dikCert (pubOf k) ++ Config.fakCert ++ Config.rootCert
  | none => List.replicate 144 0 ++ Config.fakCert ++ Config.rootCert

def execSecGetIdentity (d : Desc) (s : State) : Host.Outcome State Fault Refusal :=
  s.go (fun s => s.secCmd d 0x6B [(12, 4), bufUsed] (bufOk d) allModes (fun _ => true) (fun t s =>
    let all := s.identity
    let data := all.take (opAt d 12 4)
    s.secWrite d t 0 data [(16, 4, data.length)] (if data.length < all.length then stPartial else stDone)))

def execSecTakeKey (d : Desc) (s : State) : Host.Outcome State Fault Refusal :=
  s.go (fun s => s.secCmd d 0x6C [bufUsed, (24, 16)] (bufOk d) soMode (fun s => s.isUser d) (fun t s =>
    let seq := opAt d 24 4
    let secs := opAt d 28 6
    let above := decide (s.sec.floorSecs < secs) || (decide (secs = s.sec.floorSecs) && decide (s.sec.floorSeq < seq))
    if above || decide (opAt d 34 6 ≠ Config.serial.toNat) then s.complete t stBadParam
    else
      let owk := s.sec.owk.getD []
      s.secWrite d t 0 (Config.keyWrap owk (takeKeyOf owk (opAt d 24 16)))))

/-- The statement of SEC_ATTEST. -/
def State.statement (s : State) (nonce : List Byte) : List Byte :=
  layout 160 [(0, sliceBytes nonce 0 48), (48, serialBytes), (54, leBytes 1 s.dev.mode.code), (56, leBytes 4 s.secStatus.toNat),
    (60, leBytes 4 s.sec.fwVersion), (64, leBytes 4 s.sec.fwSvn), (68, s.dikId.getD (List.replicate 48 0))]

def execSecAttest (d : Desc) (s : State) : Host.Outcome State Fault Refusal :=
  s.go (fun s => s.secCmd d 0x6D [bufUsed] (bufOk d) soMode (fun s => s.isUser d) (fun t s =>
    let x := s.statement d.buf
    s.secWrite d t 48 (x ++ sign (s.sec.dik.getD []) x)))

/-! ### Firmware (R506, R507, R509) -/

/-- What is wrong with an image, as the DETAIL codes of a slot's verification; 0 for nothing (R506, R623). -/
def imageFault (b : List Byte) : Nat :=
  let idx := leAt b 16 1
  let key := sliceBytes b 64 96
  if leAt b 0 4 ≠ 0x57465350 then 1
  else if 4 ≤ idx ∨ Config.fwRevoked idx then 2
  else if sha384 key ≠ beBytes 48 (Config.fwKeyHash idx).toNat then 3
  else if !Config.ecdsaVerify key (sha384 (sliceBytes b 0 3904)) (sliceBytes b 3904 96) then 4
  else if sha384 ((b.drop 4096).take (leAt b 12 4)) ≠ sliceBytes b 160 48 then 5 else 0

/-- An image the boot ROM would run, with an SVN floor: FW_VERSION, SVN and its length. -/
def imageOk (svnFloor : Nat) (b : List Byte) : Option (Nat × Nat × Nat) :=
  let len := leAt b 12 4
  if decide (4096 + len ≤ b.length) && decide (len ≤ 16777216) && decide (imageFault b = 0) && decide (svnFloor ≤ leAt b 8 4) then
    some (leAt b 4 4, leAt b 8 4, 4096 + len)
  else none

def SecState.slotImage (q : SecState) (slot : Nat) : List Byte := if slot = 0 then q.slotA else q.slotB

def execSecFwInstall (d : Desc) (s : State) : Host.Outcome State Fault Refusal :=
  s.go (fun s => s.secCmd d 0x6E [(8, 1), (12, 4)] (decide (opAt d 8 1 < 2)) soMode (fun s => s.isCo d) (fun t s =>
    match s.obj? (opAt d 12 4) with
    | none => s.complete t stBadParam
    | some (_, o) =>
      let img := s.objBytes (opAt d 12 4) 0 o.size
      match imageOk s.sec.svnFloor img with
      | none => s.complete t stSecurity
      | some (version, _, len) =>
        let slot := 1 - s.sec.fwActive
        let img := img.take len
        let s := s.setSec (fun q => { q with
          slotA := if slot = 0 then img else q.slotA, slotB := if slot = 0 then q.slotB else img,
          fwPending := some (slot, decide (opAt d 8 1 = 1)) })
        (s.secAlert 7 6 [(17, 1, slot), (18, 1, 0), (20, 4, version)]).secDone t [(16, 4, version), (20, 1, slot)]))

/-! ### Self-tests (R511–R514) -/

/-- A crypto engine fails a KAT (R514): `test` as byte 18 of the alert. -/
def State.engineFailed (s : State) (e test : Nat) : State :=
  (s.unitFailure 0x0D e 2).secAlert 4 2 [(17, 1, e), (18, 1, test)]

/-- An engine passes its KAT set. -/
def State.enginePassed (s : State) (e : Nat) : State :=
  let s := s.setSvc (fun q => { q with passedAt := q.passedAt.put 0 (unitKey 0x0D e) s.time.clk })
  (s.setSec (fun q => { q with katOk := if q.katOk.contains e then q.katOk else q.katOk ++ [e] })).setReg Reg.CE_KAT_CNT e 0
    (s.reg Reg.CE_KAT_CNT e + 1)

/-- KATs on some engines; `fails` lists those that fail with the failing test. -/
def State.kats (s : State) (engines : List Nat) (fails : List (Nat × Nat)) : State :=
  engines.foldl (fun s e => match fails.find? (fun f => decide (f.1 = e)) with
    | some f => (s.setSec (fun q => { q with katOk := q.katOk.filter (fun x => decide (x ≠ e)) })).engineFailed e f.2
    | none => s.enginePassed e) s

/-- Every KAT_PERIOD_S each SPARE engine runs its KAT set (R513). -/
def State.spareKat (s : State) (fails : List (Nat × Nat)) : State :=
  if s.dev.mode = .boot ∨ s.time.clk < s.sec.katAt + secClk (fld (s.reg Reg.SEC_SELFTEST_CTRL) 23 16) then s
  else (s.kats (s.unitsIn 0x0D 1) fails).setSec (fun q => { q with katAt := s.time.clk })

def execSpareKat (fails : List (Nat × Nat)) (s : State) : Host.Outcome State Fault Refusal := s.go (fun s => s.spareKat fails)

/-- Exchange a spare that has just been tested with the ACTIVE unit that has been ACTIVE, or for crypto engines was tested,
longest ago, at the next boundary. A spare that fails its test enters FAILED; `test` is the KAT that a crypto engine fails (R514,
R559). -/
def State.rotate (s : State) (kind : Nat) (pass : Bool) (test : Nat) : State :=
  if s.dev.mode ≠ .operational ∨ s.hot ∨ !([0x0C, 0x0D, 0x0E].contains kind)
      ∨ s.time.clk < s.svc.rotatedAt.get 0 kind + s.rotateClk kind then s
  else
    match leastOf s.svc.passedAt kind (s.unitsIn kind 1) with
    | none => s
    | some j =>
      let s := s.setSvc (fun q => { q with rotatedAt := q.rotatedAt.put 0 kind s.time.clk })
      let key := unitKey kind j
      if !pass then
        let s := s.setSvc (fun q => { q with testsFailed := q.testsFailed.put 0 key (satAdd 255 (q.testsFailed.get 0 key) 1) })
        if kind = 0x0D then (s.setSec (fun q => { q with katOk := q.katOk.filter (fun x => decide (x ≠ j)) })).engineFailed j test
        else s.unitFails kind j 1
      else
        let s := if kind = 0x0D then s.enginePassed j
          else s.setSvc (fun q => { q with passedAt := q.passedAt.put 0 key s.time.clk })
        let since := if kind = 0x0D then s.svc.passedAt else s.svc.activeAt
        match leastOf since kind (s.unitsIn kind 2) with
        | some a => s.setDue { tick := s.time.tickNum + 1, kind := kind, index := a, to_ := 1, spare := some j }
        | none => s

def execSpareRotation (kind : Nat) (pass : Bool) (test : Nat) (s : State) : Host.Outcome State Fault Refusal :=
  s.go (fun s => s.rotate kind pass test)

/-- Each ACTIVE engine in turn gives its place to the one tested before it, at the next boundary. -/
def chain (tick spare : Nat) : List Nat → List UnitDue
  | [] => []
  | a :: l => { tick := tick, kind := 0x0D, index := a, to_ := 1, spare := some spare } :: chain tick a l

/-- The rotation of R513 at once over every engine. -/
def State.selftest (s : State) (t : Ticket) (fails : List (Nat × Nat)) : State :=
  let spares := s.unitsIn 0x0D 1
  let actives := s.unitsIn 0x0D 2
  let all := spares ++ actives
  let order := actives.foldl (fun l e => insBy (fun x => s.svc.passedAt.get 0 (unitKey 0x0D x)) e l) []
  let bad := (all.filter (fun e => fails.any (fun f => decide (f.1 = e)))).length
  let s := s.kats all fails
  let good := fun (e : Nat) => !fails.any (fun f => decide (f.1 = e))
  let s := match spares.filter good with
    | j :: _ => s.setSvc (fun q => { q with due := q.due ++ chain (s.time.tickNum + 1) j (order.filter good) })
    | [] => s
  s.secDone t [(16, 1, all.length), (17, 1, bad)]

def execSecSelftest (d : Desc) (fails : List (Nat × Nat)) (s : State) : Host.Outcome State Fault Refusal :=
  s.go (fun s => s.secCmd d 0x6F [] true soMode (fun s => s.isUser d) (fun t s => s.selftest t fails))

/-- An entropy health test fails: the DRBG is blocked (R514). -/
def execEntropyHealthFail (s : State) : Host.Outcome State Fault Refusal :=
  s.go (fun s => if s.sec.drbgBlocked || decide (s.dev.mode = .boot) then s
    else (s.setSec (fun q => { q with drbgBlocked := true, retests := 0, retestAt := s.time.clk })).secAlert 5 2
      [(17, 1, 0xFF), (18, 1, 7)])

/-- The start-up test is repeated every 1 s, up to 3 times (R514). -/
def execEntropyRetest (pass : Bool) (s : State) : Host.Outcome State Fault Refusal :=
  s.go (fun s => if !s.sec.drbgBlocked || decide (3 ≤ s.sec.retests) || decide (s.time.clk < s.sec.retestAt + secClk 1) then s
    else s.setSec (fun q => { q with drbgBlocked := !pass, retests := q.retests + 1, retestAt := s.time.clk }))

/-! ### Pins and JTAG (R516, R519, R520) -/

/-- A trigger while the device is held in reset, halted or tripped: the always-powered logic erases the keys, and the next boot
ends in ZEROIZED (R606). -/
def State.zeroiseHeld (s : State) (cause : Nat) : State := s.eraseKeys.setSec (fun q => { q with bootZero := some cause })

def State.trigger (s : State) (cause : Nat) : State := if s.svc.stopped.isSome then s.zeroiseHeld cause else s.zeroise cause none

/-- ZEROIZE# has been low for 1 µs; or it is high again, and triggers nothing. -/
def execZeroizePin (low : Bool) (s : State) : Host.Outcome State Fault Refusal :=
  let s := s.setSec (fun q => { q with zeroizeLow := low })
  .next (if low then s.trigger 0xF4 else s)

/-- A TAMPER input has been at a level for its filter time (R519). The always-powered logic goes by the key store's copy of
SEC_TAMPER_CTRL, which is the register's value outside BOOT. -/
def State.tamper (s : State) (i : Nat) (high : Bool) : State :=
  if 2 ≤ i then s
  else
    let c := s.sec.tamperCtrl
    let rest := s.sec.tamperHigh.filter (fun x => decide (x ≠ i))
    let s := s.setSec (fun q => { q with tamperHigh := if high then rest ++ [i] else rest })
    if !s.tamperActive i then s
    else match fld c (5 + 2 * i) (4 + 2 * i) with
      | 1 => if s.svc.stopped.isSome then s else s.secAlert (1 + i) 1 [(17, 1, i)]
      | 2 => s.trigger (0xF5 + i)
      | _ => s

def execTamperInput (i : Nat) (high : Bool) (s : State) : Host.Outcome State Fault Refusal := .next (s.tamper i high)

/-- A challenge signature over JTAG; `valid` when Skovile's key verifies it. The device zeroises before debug access opens. -/
def execUnlockChallenge (valid : Bool) (s : State) : Host.Outcome State Fault Refusal :=
  let s := s.setSvc (fun q => { q with jtagIr := 0x40 })
  .next (if valid then (s.trigger 0xF7).setSec (fun q => { q with jtagOpen := true }) else s)

/-- A central lockstep pair mismatches; for the security core self-zeroisation comes before a fatal error (R514, R561, R562). -/
def execLockstepMismatch (u : Nat) (s : State) : Host.Outcome State Fault Refusal :=
  s.go (fun s => s.lockstep u (fun s => s.zeroise 0x60 none))

end Sys2Proof.Machine
end

