-- ==== Sys2Proof/Machine/Boot.lean ====
section
/-! DEFINITION. Resets, boot and its stages, the SPI service port's STATUS and IMAGE commands, and JTAG (R33, R356, R506–R509,
R552, R604–R609, R617–R630). -/

namespace Sys2Proof.Machine

/-! ### Resets (R33, R608, R609) -/

/-- PORST# goes low: the whole device is reset, and JTAG is locked again (R520). -/
def execPorstAssert (s : State) : Host.Outcome State Fault Refusal :=
  .next (((s.deviceReset (some .reset)).setSvc (fun q => { q with porstLow := true })).setSec (fun q => { q with jtagOpen := false }))

/-- A rail falls below its minimum for more than 10 µs: the internal reset is asserted as if PORST# were low (R609). -/
def execSupplyDrop (s : State) : Host.Outcome State Fault Refusal :=
  .next ((s.deviceReset (some .reset)).setSec (fun q => { q with jtagOpen := false }))

/-- The internal reset is released: PORST# is high, rails and clocks are good. The straps are sampled, and boot begins. -/
def execInternalResetRelease (bifurc : Nat) (bootSrc : Bool) (s : State) : Host.Outcome State Fault Refusal :=
  .next (if s.svc.stopped = some .reset then
    ((s.setSvc (fun q => { q with stopped := none, porstLow := false, bifurc := bifurc % 4, bootSrc := bootSrc })).setSec
      (fun q => { q with jtagOpen := false })).bootStart
  else s)

/-! ### Boot stages (R506–R508, R622–R628) -/

def State.bootFailed (s : State) : Bool := bit (s.reg Reg.BOOT_STATUS) 31
def State.booting (s : State) : Bool := decide (s.dev.mode = .boot) && !s.bootFailed && decide (s.bootStage ≠ 0)

/-- A stage fails: boot stops there (R623), and SVC_IRQ# is low (R617). -/
def State.bootFail (s : State) (stage detail : Nat) : State :=
  (((s.setF Reg.BOOT_STATUS 0 31 31 1).setF Reg.BOOT_STATUS 0 15 8 detail).setF Reg.BOOT_STATUS 0 7 0 stage).emit (.pin "SVC_IRQ#" 0 false)

/-- The boot ROM waits for an image on the service port (IMAGE_WAIT). -/
def State.imageWait (s : State) : Bool := s.booting && s.svc.bootSrc && decide (s.bootStage = 0x11)

/-- The slots to try: the PENDING one first, then the ACTIVE one, then the other; with the slot-control block erased, A then B
(R507, R626). -/
def SecState.bootOrder (q : SecState) : List Nat :=
  match q.fwPending with
  | some (p, _) => if p = q.fwActive then [p] else [p, q.fwActive]
  | none => [q.fwActive, 1 - q.fwActive]

/-- Flash read begins, or the wait for an image. -/
def State.flashRead (s : State) : State :=
  let s := s.stage 0x11
  if s.svc.bootSrc then (s.setSec (fun q => { q with tries := [], svcImage := [], imageErr := false })).emit (.pin "SVC_IRQ#" 0 false)
  else s.setSec (fun q => { q with tries := q.bootOrder })

/-- The slot tried, or the image received, does not pass: the next slot is tried, or boot stops with the last failure. A PENDING
image that fails leaves FW_FALLBACK. -/
def State.slotFail (s : State) (stage detail : Nat) : State :=
  match s.sec.tries with
  | a :: b :: rest =>
    let s := if s.sec.fwPending.map (·.1) = some a then
        s.secAlert 6 6 [(17, 1, a), (18, 1, 1), (20, 4, leAt (s.sec.slotImage a) 4 4)] else s
    (s.setSec (fun q => { q with tries := b :: rest })).stage 0x11
  | _ => (s.setSec (fun q => { q with imageErr := s.svc.bootSrc })).bootFail stage detail

/-- The image of the present try. -/
def State.bootImage (s : State) : List Byte :=
  match s.sec.tries with
  | a :: _ => s.sec.slotImage a
  | [] => s.sec.svcImage

/-- The header and body have been read; `data` is what the flash holds in a slot that the device has not written itself. -/
def State.imageRead (s : State) (detail : Nat) (data : List Byte) : State :=
  match s.sec.tries with
  | a :: _ =>
    let fresh := (s.sec.slotImage a).isEmpty
    let s := s.setSec (fun q => { q with
      slotA := if fresh && decide (a = 0) then data else q.slotA, slotB := if fresh && decide (a ≠ 0) then data else q.slotB })
    if detail ≠ 0 ∨ (s.sec.slotImage a).isEmpty then s.slotFail 0x11 1
    else if 16777216 < leAt s.bootImage 12 4 then s.slotFail 0x11 3
    else s.stage (if a = 0 then 0x12 else 0x13)
  | [] =>
    let img := s.sec.svcImage
    if img.length < 4096 then s
    else if 16777216 < leAt img 12 4 then s.slotFail 0x11 3
    else if img.length < 4096 + leAt img 12 4 then s
    else (s.emit (.pin "SVC_IRQ#" 0 true)).stage 0x12

/-- SVN against the floor; an image that passes becomes ACTIVE and is the one that runs. -/
def State.rollback (s : State) : State :=
  let img := s.bootImage
  let svn := leAt img 8 4
  if svn < s.sec.svnFloor then s.slotFail 0x14 1
  else
    let s := s.setSec (fun q => match q.tries with
      | a :: _ => { q with
          fwActive := a, bootSlot := a,
          raiseTo := if q.fwPending = some (a, true) then some svn else none,
          fwPending := if q.fwPending.map (·.1) = some a then none else q.fwPending }
      | [] => { q with bootSlot := q.fwActive, raiseTo := none })
    (s.setSec (fun q => { q with fwVersion := leAt img 4 4, fwSvn := svn })).stage 0x15

/-- The crypto engine self-tests: `bad` lists the engines that fail (R508, R514). -/
def State.bootKats (s : State) (bad : List Nat) : State :=
  let bad := bad.filter (fun e => decide (e < 18))
  if (List.range 18).all (fun e => bad.contains e) then s.bootFail 0x16 1
  else
    let s := ((List.range 18).filter (fun e => !bad.contains e)).foldl (fun (s : State) e => s.enginePassed e) s
    let s := bad.foldl (fun (s : State) e => s.secAlert 4 2 [(17, 1, e), (18, 1, 0)]) s
    (s.setSvc (fun q => { q with bootFails := q.bootFails ++ bad.map (fun e => unitKey 0x0D e) })).stage 0x17

/-- HBM is trained but for the pseudo-channels in `bad`; those and the retired ones are left out, at most 8 (R623, R628). -/
def State.hbmTrained (s : State) (bad : List Nat) : State :=
  let out := (List.range 128).filter (fun c => bad.contains c || s.svc.retired.contains (unitKey 0x0F c))
  if 8 < out.length then s.bootFail 0x20 out.length
  else (s.setSvc (fun q => { q with bootFails := q.bootFails ++ (bad.filter (fun c => decide (c < 128))).map (fun c => unitKey 0x0F c) })).stage 0x21

/-- The logged soft row repairs become permanent (R272). -/
def State.hbmRepaired (s : State) : State :=
  (s.setSvc (fun q => { q with hardRepairs := q.hardRepairs ++ q.softRepairs, softRepairs := [] })).stage 0x22

/-- The kinds whose units are tested at UNIT_TEST (R629). -/
def bootTested : List Nat := [0x0C, 0x0E, 0x0F, 0x10, 0x11, 0x12]

/-- The power-up tests: `bad` lists the failing units as (kind, index). -/
def State.unitTested (s : State) (bad : List (Nat × Nat)) : State :=
  let bad := bad.filter (fun e => bootTested.contains e.1 && decide (e.2 < unitCount e.1))
  let none_ := fun (kind : Nat) => (List.range (unitCount kind)).all (fun i => bad.contains (kind, i))
  if none_ 0x0C then s.bootFail 0x22 0x0C
  else if none_ 0x0E then s.bootFail 0x22 0x0E
  else
    let s := s.setSvc (fun q => { q with bootFails := q.bootFails ++ bad.map (fun e => unitKey e.1 e.2) })
    (s.stage 0x30).setReg Reg.DEV_FW_VERSION 0 0 (BitVec.ofNat 32 s.sec.fwVersion)

/-! ### The end of boot (R33, R552, R625, R628–R630) -/

/-- The state that a unit takes: RETIRED, FAILED, OFFLINE for a lane, which serves no role before a commit, SPARE for the highest
passing units of a spared class, or ACTIVE (R552). -/
def State.bootUnits (s : State) (kind : Nat) : State :=
  let all := List.range (unitCount kind)
  let key := unitKey kind
  let passing := all.filter (fun i => !s.svc.retired.contains (key i) && !s.svc.bootFails.contains (key i))
  let spares := passing.reverse.take (s.spareTarget kind)
  let s := all.foldl (fun (s : State) i =>
    s.setUnit kind i (if s.svc.retired.contains (key i) then 6 else if s.svc.bootFails.contains (key i) then 5
      else if kind = 4 then 0 else if spares.contains i then 1 else 2)) s
  s.setSvc (fun q => { q with
    passedAt := if bootTested.contains kind then passing.foldl (fun (t : Tab Nat) i => t.put 0 (key i) s.time.clk) q.passedAt else q.passedAt,
    causes := (all.filter (fun i => s.svc.bootFails.contains (key i))).foldl (fun (t : Tab Nat) i =>
      t.put 0 (key i) (if kind = 0x0D then 2 else 1)) q.causes,
    bootRetired := q.bootRetired.put 0 kind (all.filter (fun i => s.svc.retired.contains (key i))).length })

/-- The frame store comes up without the pseudo-channels left out; their table slices lie in frame pages (R628). -/
def State.storeUp (s : State) : State :=
  let out := (List.range 128).filter (fun c => !s.unitActive 0x0F c)
  let s := s.setStore (fun q => { q with ready := true })
  let s := (List.range 128).foldl (fun (s : State) c =>
    let used := (s.svc.hardRepairs.filter (fun e => decide (e.1 = c))).length
    s.setF Reg.PC_STATUS c 31 16 ((Config.pcRepairs c).toNat - used)) s
  let s := out.foldl (fun (s : State) c => match s.takePages 1024 [] with
    | some (ps, s) => s.setStore (fun q => { q with pcs := q.pcs.upd {} c (fun x => { x with moved := ps }) })
    | none => s) s
  s.setReg Reg.STORE_POOL_PAGES 0 0 (BitVec.ofNat 32 (2228224 - 18432 * out.length))

/-- Boot completes (R33, R519, R625). -/
def State.bootDone (s : State) : State :=
  let s := (unitKinds.foldl (fun (s : State) k => s.bootUnits k) s).storeUp
  let s := s.setSec (fun q => { q with
    selfTested := true, svnFloor := max q.svnFloor (q.raiseTo.getD 0), raiseTo := none, tries := [], svcImage := [],
    owk := q.ownerOwk, dik := q.ownerDik, bootZero := none, katAt := s.time.clk })
  let s := (s.setReg Reg.SEC_TAMPER_CTRL 0 0 s.sec.tamperCtrl).setReg Reg.SEC_SELFTEST_CTRL 0 0 s.sec.selftestCtrl
  (s.setF Reg.BOOT_STATUS 0 30 30 1).setF Reg.BOOT_STATUS 0 7 0 0xFF

/-- The mode that boot ends in (R33, R606). DESIGN CHOICE (log 123): with an identity key and no owner key, a case the table gives no
row for, it is PROVISION. -/
def State.bootMode (s : State) (zero : Option Nat) : State :=
  match zero with
  | some cause => s.enterMode .zeroized cause
  | none => if s.sec.dik.isSome && s.sec.owk.isSome then (s.enterMode .standby 0).serviceResv else s.enterMode .provision 0

/-! ### Stage ends (R622, R623) -/

/-- What a boot stage brings: a failure code of R623 that the stage itself found, 0 for none; the bytes read (the board record, or
the flash slot); engines and pseudo-channels that failed; and units that failed, as (kind, index). -/
def State.stageEnd (s : State) (detail : Nat) (data : List Byte) (bad : List Nat) (badUnits : List (Nat × Nat)) : State :=
  if !s.booting then s
  else
    let failIf := fun (stage top next : Nat) => if 1 ≤ detail ∧ detail ≤ top then s.bootFail stage detail else s.stage next
    match s.bootStage with
    | 0x01 => s.stage 0x02
    | 0x02 => s.stage 0x03
    | 0x03 =>
      let ok := decide (sliceBytes data 0 4 = [0x50, 0x42, 0x52, 0x44]) && decide (crc32 (sliceBytes data 0 252) = leAt data 252 4)
      (if ok then s.setSvc (fun q => { q with subsys := (leAt data 8 2, leAt data 10 2) }) else s).stage 0x10
    | 0x10 => if 1 ≤ detail ∧ detail ≤ 6 then s.bootFail 0x10 detail else s.flashRead
    | 0x11 => s.imageRead detail data
    | 0x12 | 0x13 => if imageFault s.bootImage = 0 then s.stage 0x14 else s.slotFail s.bootStage (imageFault s.bootImage)
    | 0x14 => s.rollback
    | 0x15 => failIf 0x15 3 0x16
    | 0x16 => s.bootKats bad
    | 0x17 => failIf 0x17 2 0x23
    | 0x23 => s.stage 0x20
    | 0x20 => s.hbmTrained bad
    | 0x21 => s.hbmRepaired
    | 0x22 => s.unitTested badUnits
    | 0x30 => if detail = 2 then s.bootFail 0x30 2 else s.bootDone.bootMode s.sec.bootZero
    | _ => s

def execBootStageEnd (detail : Nat) (data : List Byte) (bad : List Nat) (badUnits : List (Nat × Nat)) (s : State) :
    Host.Outcome State Fault Refusal := s.go (fun s => s.stageEnd detail data bad badUnits)

/-- No image has begun to arrive within 600 s (R622). -/
def execBootImageTimeout (s : State) : Host.Outcome State Fault Refusal :=
  s.go (fun s => if s.imageWait && s.sec.svcImage.isEmpty && decide (s.svc.stageAt + secClk 600 ≤ s.time.clk) then s.bootFail 0x11 2 else s)

/-- The firmware has not reported ready within 250 ms (R622, R623). -/
def execFirmwareReadyTimeout (s : State) : Host.Outcome State Fault Refusal :=
  s.go (fun s => if s.booting && decide (s.bootStage = 0x30) && decide (s.svc.stageAt + msClk 250 ≤ s.time.clk) then s.bootFail 0x30 1 else s)

/-! ### The SPI service port (R618) -/

/-- STATUS: IMAGE_WAIT, IMAGE_ERR and BOOT_STATUS.DONE. -/
def execSvcPortStatus (s : State) : Host.Outcome State Fault Refusal :=
  s.go (fun s => s.emit (.spi (leBytes 1 (b2n s.imageWait + 2 * b2n s.sec.imageErr + 4 * b2n (bit (s.reg Reg.BOOT_STATUS) 30)))))

/-- IMAGE: up to 4,096 bytes that continue the image, while IMAGE_WAIT is 1. -/
def execSvcPortImage (data : List Byte) (s : State) : Host.Outcome State Fault Refusal :=
  s.go (fun s => if s.imageWait && decide (data.length ≤ 4096) then s.setSec (fun q => { q with svcImage := q.svcImage ++ data }) else s)

/-! ### JTAG (R620) -/

/-- Load an instruction; JTAG runs whatever holds the device. -/
def State.jtagLoad (s : State) (op : Nat) : State := s.setSvc (fun q => { q with jtagIr := op })

/-- What drives the pins: 0 the device, 1 the boundary cells, 2 nothing, 3 an AC pulse and 4 an AC train of the cells. -/
def State.pinDrive (s : State) : Nat :=
  if !s.svc.porstLow then 0
  else match s.svc.jtagIr with
    | 0x00 | 0x05 => 1
    | 0x04 => 2
    | 0x08 => 3
    | 0x09 => 4
    | _ => 0

/-- What a cell puts on its ball or pair: the level shifted into its place in the chain, held, or, at a pair of an IEEE 1149.6 cell
under EXTEST_PULSE and EXTEST_TRAIN, as pulses; none where it drives nothing (R153, R620). -/
def State.cellDrives (s : State) (x : ScanCell) : Option (Bool × Bool) :=
  let d := s.pinDrive
  if !x.sig.driven || decide (d = 0) || decide (d = 2) then none
  else some (s.svc.jtagCells.getD (scanPlace x) false, x.ac && decide (3 ≤ d))

def execExtest (s : State) : Host.Outcome State Fault Refusal := .next (s.jtagLoad 0x00)
def execIdcode (s : State) : Host.Outcome State Fault Refusal := .next ((s.jtagLoad 0x01).emit (.tdo 32 0x13236B47))
/-- The chain takes new levels, the first next to TDI. The levels that the cells sample are outside the model: a free value. -/
def execSamplePreload (cells : List Bool) (s : State) : Host.Outcome State Fault Refusal :=
  .next ((((s.jtagLoad 0x02).setSvc (fun q => { q with jtagCells := cells })).emit (.tdo cells.length (s.freeNat cells.length))).useFree)
def execHighz (s : State) : Host.Outcome State Fault Refusal := .next (s.jtagLoad 0x04)
def execClamp (s : State) : Host.Outcome State Fault Refusal := .next (s.jtagLoad 0x05)
def execExtestPulse (s : State) : Host.Outcome State Fault Refusal := .next (s.jtagLoad 0x08)
def execExtestTrain (s : State) : Host.Outcome State Fault Refusal := .next (s.jtagLoad 0x09)
def execBypass (s : State) : Host.Outcome State Fault Refusal := .next (s.jtagLoad 0xFF)

end Sys2Proof.Machine
end

