-- ==== Sys2Proof/Machine/Views.lean ====
section
/-! DEFINITION. What the registers that the device computes show: the bits of each register that are not RW, by window
(R565, R577–R583, R594–R596 and the register tables of every chapter). -/

namespace Sys2Proof.Machine

/-- The row is this register. -/
def RegRow.is (a b : RegRow) : Bool := decide (a.win = b.win) && decide (a.base = b.base)

/-- A register word from fields (lowest bit, value). -/
def word (fs : List (Nat × Nat)) : Word := BitVec.ofNat 32 (fs.foldl (fun n f => n + f.2 * 2 ^ f.1) 0)

/-- The halves of a 64-bit quantity. -/
def lo32 (n : Nat) : Word := BitVec.ofNat 32 n
def hi32 (n : Nat) : Word := BitVec.ofNat 32 (n / 2 ^ 32)
/-- A signed quantity in a 32-bit register, and in a pair. -/
def sWord (x : Int) : Word := BitVec.ofInt 32 x
def sPair (x : Int) : Nat := ofSigned 64 x

/-- The first of a list of cases that holds. -/
def pick (d : Word) : List (Bool × Word) → Word
  | [] => d
  | (b, w) :: t => if b then w else pick d t

/-! ### Health (R564, R565) -/

/-- The units of a class that are ACTIVE. -/
def State.activeIn (s : State) (kind : Nat) : Nat := (s.unitsIn kind 2).length

/-- A replicated class is degraded (R564). -/
def State.degradedClass (s : State) (kind : Nat) : Bool :=
  decide (s.activeIn kind < unitCount kind - s.spareTarget kind - s.svc.bootRetired.get 0 kind) && (s.unitsIn kind 1).isEmpty
def State.degradedPc (s : State) : Bool := decide (s.activeIn 0x0F < 128)
def State.degradedLane (s : State) : Bool := (List.range 4).any (fun p => bit (s.act Reg.HDP_CTRL p) 16 && (s.spareNow p).isNone)
def State.degradedTp (s : State) : Bool := decide (s.source = 1) && decide (s.activeIn 0x0B < 2)

/-- SVC_HEALTH. -/
def State.health (s : State) : Word :=
  let l := [s.degradedClass 0x0C, s.degradedClass 0x0D, s.degradedClass 0x0E, s.degradedPc, s.degradedLane, s.degradedTp]
  let bits := (List.range 6).map (fun i => (i, b2n (l.getD i false)))
  word (bits ++ [(6, b2n s.anyRecovery), (7, b2n (decide (2 ≤ s.svc.dieLevel) || decide (2 ≤ s.svc.hbmLevel))),
    (8, min 255 s.svc.warnStreams), (16, min 255 s.svc.lostStreams), (31, b2n (l.any id))])

/-- ST_STATUS.HEALTH (R190). -/
def State.streamHealth (s : State) (t : Nat) : Nat :=
  let q := s.stream t
  if !s.streamOn t || decide (s.rigMode (s.streamRig t) = .idle) then 3
  else if q.lost then 2
  else if (q.history.take 16).any id then 1 else 0

/-! ### GLOBAL, HOSTPORT and RING -/

/-- STEW_STATUS as a port reads it (R373–R377). -/
def State.stewStatus (s : State) (p : Nat) : Word :=
  let live := (List.range 4).foldl (fun n k => n + b2n (s.isLive k) * 2 ^ k) 0
  word [(0, s.dev.steward.getD 0xF), (4, p), (8, live), (16, s.dev.shiftCnt)]

/-- A change of the rig's mode waits for its boundary (R582). -/
def State.rigWaits (s : State) (r : Nat) : Bool :=
  s.dev.bound.any (fun b => match b.kind with
    | .rig k .. => decide (k = r)
    | _ => false)

def State.rigStatus (s : State) (r : Nat) : Word :=
  let q := s.rig r
  word [(0, q.mode.code), (4, q.prev.code), (8, q.cause), (16, b2n (s.rigWaits r)), (24, q.changes)]

def State.devStatus (s : State) : Word :=
  let run := (List.range 16).foldl (fun n r => n + b2n (decide (s.rigMode r ≠ .idle)) * 2 ^ r) 0
  let h := s.health
  word [(0, run), (28, b2n s.anyRecovery), (29, b2n (bit h 7)), (30, b2n (bit s.secStatus 31)), (31, b2n (bit h 31))]

def State.viewGlobal (s : State) (p : Nat) (r : RegRow) (i j : Nat) : Word :=
  pick (s.reg r i j) [
    (r.is Reg.STEW_STATUS, s.stewStatus p),
    (r.is Reg.DEVICE_MODE, word [(0, s.dev.mode.code), (4, s.dev.prevMode.code), (8, s.dev.cause), (16, s.dev.changes)]),
    (r.is Reg.DEV_STATUS, s.devStatus),
    (r.is Reg.ACCESS_STATUS, (s.port p).accStatus),
    (r.is Reg.ACCESS_ADDR, (s.port p).accAddr),
    (r.is Reg.RIG_STATUS, s.rigStatus i)]

def State.viewHostport (s : State) (r : RegRow) (i j : Nat) : Word :=
  pick (s.reg r i j) [
    (r.is Reg.HP_STATUS, setFld (setFld (s.reg Reg.HP_STATUS i) 25 24 (if (s.port i).d3hot then 3 else 0)) 2 0
      ((s.port i).ide.filter (fun x => x.secure)).length)]

/-- RING_STATUS; a ring is HELD while a completion waits for its EVT ring (R398). -/
def State.ringStatus (s : State) (n : Nat) : Word :=
  let q := s.ring n
  let held := decide (s.ringKind n ≠ 2) && !(s.ring (s.evtRing n)).staged.isEmpty
  let st := match q.state with
    | .disabled => (0, 0)
    | .running => (if held then 3 else 1, 0)
    | .pausedBus => (2, 1)
    | .pausedEvt => (2, 2)
  word [(0, st.1), (4, st.2), (16, min 0xFFFF q.outstanding)]

def State.viewRing (s : State) (r : RegRow) (i j : Nat) : Word :=
  pick (s.reg r i j) [
    (r.is Reg.RING_STATUS, s.ringStatus i),
    (r.is Reg.RING_DEV_CNT, (s.ring i).dev),
    (r.is Reg.RING_DB_CNT, (s.ring i).db)]

/-! ### PLANNER -/

def State.viewPlanner (s : State) (r : RegRow) (i j : Nat) : Word :=
  pick (s.reg r i j) [
    (r.is Reg.PLN_STATUS, word [(0, min 16384 (s.plan.jobs.filter (·.entry)).length), (16, b2n s.plan.overload), (17, b2n s.plan.degraded)])]

/-- The values of a resource instance at the latest boundary (R113); 0 for an instance that does not exist. -/
def State.resValues (s : State) (res inst : Nat) : List Nat :=
  if resInstances res ≤ inst then [0, 0, 0, 0, 0]
  else
    let c := s.capacity res inst
    let key := res * 65536 + inst
    [c.1 / c.2, s.admissible res inst, s.reserved res inst, s.plan.used.get 0 key, s.plan.carry.get 0 key]

/-! ### LANE, HEADLINK, STREAM and PU -/

def State.laneStatus (s : State) (n : Nat) : Word :=
  let q := s.lane n
  word [(0, q.mode.code), (9, b2n q.deskewOk), (10, b2n q.marginLow), (11, b2n q.txPre), (12, b2n q.rxPre),
    (13, b2n q.spareReady), (16, if q.link.isSome && !q.spare then min 15 q.logical else 15), (24, ofSigned 8 q.trainTemp)]

def State.viewLane (s : State) (r : RegRow) (i j : Nat) : Word :=
  pick (s.reg r i j) [
    (r.is Reg.LANE_STATUS, s.laneStatus i),
    (r.is Reg.LANE_TX_FFE, (s.lane i).ffe.word),
    (r.is Reg.LANE_FAR_FFE, (s.lane i).far.word),
    (r.is Reg.HDP_STATUS, word [(0, s.link.spareNow.get 15 i)])]

def State.linkStatus (s : State) (l : Nat) : Word :=
  let q := s.hl l
  let c := q.cap.getD {}
  word [(0, q.mode.code), (4, b2n q.timeLock), (5, b2n q.cap.isSome), (6, c.features % 2), (8, s.time.epoch % 256),
    (16, q.mask), (24, c.k)]

def State.viewHeadlink (s : State) (r : RegRow) (i j : Nat) : Word :=
  let q := s.hl i
  let c := q.capLast.getD {}
  pick (s.reg r i j) [
    (r.is Reg.HL_STATUS, s.linkStatus i),
    (r.is Reg.HL_DELAY, sWord q.delay),
    (r.is Reg.HL_CAP_ID, word [(0, c.model), (16, c.vendor)]),
    (r.is Reg.HL_CAP_SERIAL_LO, lo32 c.serial),
    (r.is Reg.HL_CAP_SERIAL_HI, hi32 c.serial),
    (r.is Reg.HL_MIN_LEAD, lo32 c.minLead),
    (r.is Reg.HL_CAP_TL_LO, lo32 (c.linePeriods.getD j 0)),
    (r.is Reg.HL_CAP_TL_HI, hi32 (c.linePeriods.getD j 0))]

def State.viewStream (s : State) (r : RegRow) (i j : Nat) : Word :=
  let q := s.stream i
  let ms := s.placedOn (.stream i) 3
  pick (s.reg r i j) [
    (r.is Reg.ST_STATUS, word [(0, s.streamHealth i), (24, min 255 q.consec)]),
    (r.is Reg.ST_LAST_FRAME, lo32 q.lastFrame),
    (r.is Reg.ST_PIPE_STATUS, word ([(16, ms.length)] ++ (List.range 4).map (fun k => (4 * k, ms.getD k 0)))),
    (r.is Reg.ST_STORE_STATUS, word [(0, min 63 q.cache.length),
      (16, min 0xFFFF (s.store.frames.filter (fun f => decide (f.stream = i) && f.slot.isSome)).length)])]

/-- The streams placed on a pipeline unit, and the seals placed on a crypto engine. -/
def State.puStreams (s : State) (u : Nat) : List Nat := (List.range 64).filter (fun t => (s.placedOn (.stream t) 3).contains u)
def State.ceSeals (s : State) (e : Nat) : List Nat := (List.range 64).filter (fun t => (s.placedOn (.seal t) 4).contains e)

def State.viewPu (s : State) (r : RegRow) (i j : Nat) : Word :=
  let ts := s.puStreams i
  let map := ts.foldl (fun n t => n + 2 ^ t) 0
  pick (s.reg r i j) [
    (r.is Reg.PU_STATUS, word [(0, s.unitCode 0x0C i), (24, ts.length)]),
    (r.is Reg.PU_TICK_CYCLES, lo32 (s.plan.used.get 0 (3 * 65536 + i))),
    (r.is Reg.PU_STREAM_MAP_LO, lo32 map),
    (r.is Reg.PU_STREAM_MAP_HI, hi32 map)]

/-! ### STORE -/

/-- Pages in a pseudo-channel's free list. -/
def State.pcFree (s : State) (c : Nat) : Nat :=
  let q := s.store.pcs.get {} c
  if s.store.ready then
    (17408 - q.fresh) + q.back.length
      - (s.store.withheld.filter (fun p => decide (p % 128 = c) && decide (q.fresh ≤ p / 128))).length
  else 0

def State.viewStore (s : State) (r : RegRow) (i j : Nat) : Word :=
  pick (s.reg r i j) [
    (r.is Reg.STORE_STATUS, word [(0, b2n s.store.belowCrit), (1, b2n s.store.belowBacklog), (2, b2n s.store.belowSpill),
      (3, b2n (s.recovering 1))]),
    (r.is Reg.STORE_FREE_PAGES, lo32 (if s.store.ready then s.freePages else 0)),
    (r.is Reg.STORE_LIVE_RECORDS, lo32 (s.store.slotFresh - s.store.slotBack.length)),
    (r.is Reg.STORE_RETIRED_PAGES, lo32 s.store.retired.length),
    (r.is Reg.STORE_HEAP_FREE, lo32 s.heapFree),
    (r.is Reg.PC_STATUS, setFld (s.reg Reg.PC_STATUS i) 2 0 (s.unitCode 0x0F i)),
    (r.is Reg.PC_FREE_PAGES, lo32 (s.pcFree i)),
    (r.is Reg.PC_LIVE_PAGES, lo32 (s.store.pcs.get {} i).live),
    (r.is Reg.SPW_STATUS, word [(0, (s.spw i).used.length), (31, b2n (s.spw i).failed)]),
    (r.is Reg.SPW_FRAMES, lo32 (s.spilledIn i).length),
    (r.is Reg.RIG_PREROLL_HELD, lo32 (s.ringHeld i)),
    (r.is Reg.RIG_BURST_USED, lo32 (s.run i).burstUsed)]

/-- STORE_FR_INFO and STORE_FR_SLOT for a frame of a stream (R276): the latest that has a record. -/
def State.frInfo (s : State) (st n : Nat) : Word × Word :=
  match (s.store.frames.filter (fun f => decide (f.stream = st) && decide (f.frame = n) && f.live)).getLast? with
  | none => (0, 0)
  | some f =>
    let h := f.hold
    let at_ := match f.loc with
      | .resident => if f.phase = .closed then 1 else 0
      | .pagingOut .. => 3
      | .spilled .. => 2
    (word [(0, b2n h.preview), (1, b2n h.sealing), (2, b2n h.record), (3, b2n h.preroll), (4, b2n h.burst), (12, at_), (15, 1),
      (16, min 255 h.subs.length), (24, min 255 h.tally)], lo32 (f.slot.getD 0))

/-! ### MAGAZINE -/

def State.bayStatus (s : State) (b : Nat) : Word :=
  let q := s.bay b
  let ready := (List.range 4).foldl (fun n d =>
    let m := (s.drive (4 * b + d)).mode
    n + b2n (decide (m = .ready) || decide (m = .inUse)) * 2 ^ d) 0
  word [(0, q.mode.code), (8, b2n q.present), (9, b2n q.eject), (10, b2n q.released), (16, ready), (20, q.set.getD 0xF),
    (24, q.breason), (28, q.content)]

def State.slotStatus (s : State) (d : Nat) : Word :=
  let q := s.drive d
  word [(0, q.mode.code), (7, b2n q.fua), (16, q.gen), (20, q.width), (28, q.reason)]

def State.setStatus (s : State) (m : Nat) : Word :=
  let q := s.mag.sets.get {} m
  word [(24, q.rig.getD 0), (29, b2n q.degraded), (30, b2n q.rig.isSome), (31, b2n (s.eligible m 0))]

/-- The take of a rig that the magazine engine works for now. -/
def State.recTake (s : State) (r : Nat) : Option Take := (s.recTakes r).getLast?

def State.recStatus (s : State) (r : Nat) : Word :=
  match s.recTake r with
  | none => word [(16, 0xF)]
  | some t =>
    let q := s.rec_ t.id
    let deg := match q.set with
      | some m => (s.mag.sets.get {} m).degraded
      | none => false
    let seg := match q.seg.bind s.seg? with
      | some g => g.number
      | none => q.nextSeg - 1
    word [(0, 1), (1, b2n deg), (2, b2n q.relay.isSome), (8, seg % 256), (16, q.set.getD 0xF)]

def State.viewMagazine (s : State) (r : RegRow) (i j : Nat) : Word :=
  let q := match s.recTake i with
    | some t => s.rec_ t.id
    | none => {}
  pick (s.reg r i j) [
    (r.is Reg.BAY_STATUS, s.bayStatus i),
    (r.is Reg.MBS_STATUS, s.slotStatus i),
    (r.is Reg.MSET_STATUS, s.setStatus i),
    (r.is Reg.MSET_CLAIMS, lo32 (s.setClaims i)),
    (r.is Reg.MSET_FREE_CLAIMS, lo32 (s.freeClaims i)),
    (r.is Reg.RREC_STATUS, s.recStatus i),
    (r.is Reg.RREC_SEG_FIRST, lo32 q.segFirst),
    (r.is Reg.RREC_TAKE_ID, lo32 ((((s.recTake i).map (·.idNum)).getD 0) / 2 ^ (32 * j))),
    (r.is Reg.RREC_LAST_WRITTEN, lo32 q.lastWritten),
    (r.is Reg.RREC_BACKLOG, lo32 (s.store.frames.filter (fun f => decide (f.rig = i) && f.live && f.hold.record)).length)]

/-! ### MOVER -/

def State.moverStatus (s : State) (m : Nat) : Word :=
  let q := s.mover.movers.get ({} : MoverSt) m
  word [(0, s.unitCode 0x0E m), (4, q.run), (8, q.work), (16, min 256 q.outstanding)]

def State.subStatus (s : State) (k : Nat) : Word :=
  let held := (s.store.frames.filter (fun f => f.hold.subs.contains k)).length
  let susp := s.plan.resvs.any (fun r => decide (r.act = .sub k) && r.suspended)
  word [(0, b2n (s.subOn k)), (1, b2n susp), (8, (s.sub k).credits), (16, min 0xFFFF held)]

def State.viewMover (s : State) (r : RegRow) (i j : Nat) : Word :=
  let q := s.mover.movers.get ({} : MoverSt) i
  pick (s.reg r i j) [
    (r.is Reg.MV_STATUS, s.moverStatus i),
    (r.is Reg.MV_WORK_ID, if bit (s.reg Reg.MV_ERR_INFO i) 31 then s.reg Reg.MV_WORK_ID i else q.workId),
    (r.is Reg.SUB_STATUS, s.subStatus i),
    (r.is Reg.SVCCH_CTRL, setBit (s.reg Reg.SVCCH_CTRL i) 31 (s.chan i).busy)]

/-! ### TIME -/

/-- TIME_STATUS; HOLDOVER_S reads 0 outside HOLDOVER. -/
def State.timeStatus (s : State) : Word :=
  let t := s.time
  let hold := if t.servo = .holdover then min 0xFFFF ((t.clk - t.holdoverAt) / 250000000) else 0
  word [(0, t.servo.code), (3, b2n t.pendingStep.isSome), (4, b2n t.utc.isSome), (8, t.activeTp.getD 3),
    (10, b2n t.ppsOk), (11, b2n (t.clk10mOk && t.clk10mUse)), (16, hold)]

/-- The offset of a refused step that waits, in ns (R59). -/
def State.pendingOffset (s : State) : Int := (s.time.pendingStep.getD 0) / ((nsUnit : Nat) : Int)

/-- The TLV of the active master arrived within the last three announce intervals (R58). -/
def State.smValid (s : State) : Bool :=
  match s.time.activeTp, s.time.sm with
  | some p, some _ => decide (s.time.clk ≤ s.time.smAt + 3 * (((s.tp p).best.map (·.interval)).getD 0))
  | _, _ => false

/-- portState (IEEE 1588-2019): DISABLED, FAULTY for a port whose unit has failed, INITIALIZING while the link is down, SLAVE or UNCALIBRATED on the active port,
LISTENING otherwise. -/
def State.tpStatus (s : State) (p : Nat) : Word :=
  let q := s.tp p
  let st := if !bit (s.act Reg.TP_CTRL p) 0 then 3 else if s.unitCode 0x0B p = 5 then 2
    else if !q.linkUp then 1
    else if s.time.activeTp = some p then (if s.time.servo = .locked then 9 else 8) else 4
  word [(0, st), (30, b2n (q.qualified && s.tpHears p)), (31, b2n q.linkUp)]

/-- The time up to which a rig's frames have started, in 2^−16 ns. -/
def State.frameClock (s : State) (r : Nat) : Int := if (s.timer r).running then s.now16 else (s.timer r).stopAt

/-- The first frame that has not started exposing. -/
def State.nextFrame (s : State) (r : Nat) : Nat :=
  let q := s.timer r
  let t := s.frameClock r
  if s.rtmrAlign r = 3 then
    match q.last with
    | some (n, x) => if x ≤ t then n + 1 else n
    | none => 0
  else if q.waitRef then 0 else firstFrameAt q.s0 (s.rtmrNum r) (s.rtmrDen r) (t + 1)

/-- RTMR_NEXT: 0 while no next start is known. -/
def State.nextStart (s : State) (r : Nat) : Nat :=
  let q := s.timer r
  if !q.running || q.waitRef then 0
  else if s.rtmrAlign r = 3 then
    match q.last with
    | some (_, x) => if s.frameClock r < x then ofSigned 64 (x / 65536) else 0
    | none => 0
  else ofSigned 64 (s.startOf r (s.nextFrame r) / 65536)

/-- The linear form, seconds, nanoseconds and fraction of the present instant (R45, R46, R48). -/
def State.snapValues (s : State) : List Word :=
  let n := s.time.now
  [lo32 s.linear, hi32 s.linear, lo32 (n / secUnit), BitVec.ofNat 32 (n / secUnit / 2 ^ 32 % 65536), lo32 (n % secUnit / nsUnit),
    BitVec.ofNat 32 (n / 2 ^ 32 % 65536)]

def State.viewTime (s : State) (r : RegRow) (i j : Nat) : Word :=
  let t := s.time
  let m := t.sm.getD {}
  let q := s.tp i
  let gm := ((q.best.map (·.master.gmId)).getD 0)
  pick (s.reg r i j) [
    (r.is Reg.TIME_STATUS, s.timeStatus),
    (r.is Reg.TIME_PENDING_OFFSET_LO, lo32 (sPair s.pendingOffset)),
    (r.is Reg.TIME_PENDING_OFFSET_HI, hi32 (sPair s.pendingOffset)),
    (r.is Reg.TIME_FREQ_ADJ, sWord t.adj),
    (r.is Reg.TIME_UTC, BitVec.ofNat 32 (ofSigned 16 (t.utc.getD 0))),
    (r.is Reg.TICK_NUM_LO, lo32 t.tickNum),
    (r.is Reg.TICK_NUM_HI, hi32 t.tickNum),
    (r.is Reg.TICK_PHASE_ERR, sWord (phaseErr s.periodUnits t.tickStart / ((nsUnit : Nat) : Int))),
    (r.is Reg.TP_SM_STATUS, word [(0, m.locking % 256), (8, m.addressFlags % 256), (16, m.daylight % 256), (31, b2n s.smValid)]),
    (r.is Reg.TP_SM_LOCAL_OFFSET, sWord m.localOffset),
    (r.is Reg.TP_SM_NEXT_JAM_LO, lo32 m.nextJam),
    (r.is Reg.TP_SM_NEXT_JAM_HI, hi32 m.nextJam),
    (r.is Reg.TP_SM_PREV_JAM_OFFSET, sWord m.prevOffset),
    (r.is Reg.TP_SM_RATE_NUM, lo32 m.rateNum),
    (r.is Reg.TP_SM_RATE_DEN, lo32 m.rateDen),
    (r.is Reg.TP_STATUS, s.tpStatus i),
    (r.is Reg.TP_GM_ID_LO, lo32 gm),
    (r.is Reg.TP_GM_ID_HI, hi32 gm),
    (r.is Reg.TP_OFFSET_LO, lo32 (sPair q.offset)),
    (r.is Reg.TP_OFFSET_HI, hi32 (sPair q.offset)),
    (r.is Reg.TP_MEAN_DELAY, sWord ((q.delay.getD 0) / 65536)),
    (r.is Reg.RTMR_STATUS, word [(0, b2n (s.timer i).refLost), (1, b2n (s.timer i).alignErr.isSome)]),
    (r.is Reg.RTMR_ALIGN_ERR, sWord ((s.timer i).alignErr.getD 0)),
    (r.is Reg.RTMR_FRAME, lo32 (s.nextFrame i - 1)),
    (r.is Reg.RTMR_NEXT_LO, lo32 (s.nextStart i)),
    (r.is Reg.RTMR_NEXT_HI, hi32 (s.nextStart i))]

/-! ### MOTION -/

/-- Positions read sign-extended from bit 47 (R481). -/
def State.posPair (s : State) (ch : Nat) : Nat := ((s.mch ch).pos.signExtend 64).toNat

def State.viewMotion (s : State) (r : RegRow) (i j : Nat) : Word :=
  pick (s.reg r i j) [
    (r.is Reg.MCH_STATUS, s.mchStatus i),
    (r.is Reg.MCH_POS_LO, lo32 (s.posPair i)),
    (r.is Reg.MCH_POS_HI, hi32 (s.posPair i)),
    (r.is Reg.MCH_SPEED_LO, lo32 (s.mchSpeed i)),
    (r.is Reg.MCH_SPEED_HI, hi32 (s.mchSpeed i)),
    (r.is Reg.ECHO_STATUS, s.echoStatus i)]

/-! ### CRYPTO, CONFIG and SERVICE -/

/-- FW_VERSION of a slot, 0 when its image is invalid. -/
def State.slotVersion (s : State) (slot : Nat) : Nat :=
  match imageOk s.sec.svnFloor (s.sec.slotImage slot) with
  | some (v, _, _) => v
  | none => 0

/-- Word `j` of an identity, 0 while there is none. -/
def idWord (x : Option (List Byte)) (j : Nat) : Word := lo32 (leAt (x.getD []) (4 * j) 4)

def State.viewCrypto (s : State) (r : RegRow) (i j : Nat) : Word :=
  let floor := s.sec.floorSeq + 2 ^ 32 * s.sec.floorSecs
  pick (s.reg r i j) [
    (r.is Reg.CE_STATUS, word [(0, s.unitCode 0x0D i), (7, b2n (s.sec.katOk.contains i)), (24, (s.ceSeals i).length)]),
    (r.is Reg.SEC_STATUS, s.secStatus),
    (r.is Reg.SEC_ZEROIZE_CNT, lo32 (min 0xFFFFFFFF s.sec.zeroizeCnt)),
    (r.is Reg.SEC_SVN_FLOOR, lo32 s.sec.svnFloor),
    (r.is Reg.SEC_FW_VERSION_A, lo32 (s.slotVersion 0)),
    (r.is Reg.SEC_FW_VERSION_B, lo32 (s.slotVersion 1)),
    (r.is Reg.SEC_TAKE_FLOOR, lo32 (floor % 2 ^ 80 / 2 ^ (32 * i))),
    (r.is Reg.SEC_DIK_ID, idWord s.dikId i),
    (r.is Reg.SEC_OWK_ID, idWord s.owkId i)]

def State.cfgStatus (s : State) : Word :=
  let c := s.cfg
  let waits := s.dev.bound.any (fun b => match b.kind with
    | .commit .. => true
    | .fallback .. => true
    | _ => false)
  word [(0, b2n c.active.isSome), (1, b2n (decide (c.pending ≠ s.activeSet))), (2, b2n waits), (3, b2n c.probation.isSome),
    (4, b2n c.previous.isSome), (5, b2n ((c.active.map (·.fallback)).getD false))]

/-- The state of a directory entry (R549). -/
def State.dirInfo (s : State) (i : Nat) : Word :=
  let o := s.obj.dir.get ({} : ObjSt) i
  word [(0, o.phase.code), (4, b2n (s.objHeld (o.gen * 65536 + i))), (16, o.gen)]

def State.viewConfig (s : State) (r : RegRow) (i j : Nat) : Word :=
  let c := s.cfg
  pick (s.reg r i j) [
    (r.is Reg.CFG_STATUS, s.cfgStatus),
    (r.is Reg.CFG_ACTIVE_VER, lo32 c.activeVer),
    (r.is Reg.CFG_PREV_VER, lo32 c.prevVer),
    (r.is Reg.CFG_FAILED_VER, lo32 c.failedVersion),
    (r.is Reg.CFG_PROB_LEFT, lo32 (c.probation.getD 0)),
    (r.is Reg.CFG_FB_CAUSE, lo32 c.fbCause),
    (r.is Reg.TOBJ_HEAP_FREE, lo32 s.heapFree),
    (r.is Reg.TOBJ_DIR_INFO, s.dirInfo i),
    (r.is Reg.TOBJ_DIR_SIZE, lo32 (s.obj.dir.get ({} : ObjSt) i).size)]

/-- The state of a unit of a kind (R550). -/
def State.unitState (s : State) (kind i : Nat) : Word :=
  if unitCount kind ≤ i then 0
  else word [(0, s.unitCode kind i), (16, min 255 (s.svc.testsFailed.get 0 (unitKey kind i))), (24, s.svc.causes.get 0 (unitKey kind i))]

/-- SVC_THERM_STATUS: the hottest reading of all sensors and its sensor. -/
def State.thermStatus (s : State) : Word :=
  let t := (List.range 32).map (fun i => toSigned 16 (s.reg Reg.SVC_TEMP i).toNat)
  let k := hottestOf t (List.range 32)
  word [(0, s.svc.dieLevel), (2, s.svc.hbmLevel), (8, k), (16, ofSigned 16 (t.getD k 0))]

def State.viewService (s : State) (r : RegRow) (i j : Nat) : Word :=
  pick (s.reg r i j) [
    (r.is Reg.SVC_HEALTH, s.health),
    (r.is Reg.SVC_USTATE, s.unitState i j),
    (r.is Reg.SVC_THERM_STATUS, s.thermStatus),
    (r.is Reg.SVC_LOG_HEAD, lo32 s.svc.logHead),
    (r.is Reg.SVC_FATAL_CNT, lo32 s.svc.fatals)]

/-! ### One register -/

/-- What a register shows to a port, but for its RW bits. -/
def State.view (s : State) (p : Nat) (r : RegRow) (i j : Nat) : Word :=
  match r.win with
  | 0 => s.viewGlobal p r i j
  | 1 => s.viewHostport r i j
  | 2 => s.viewRing r i j
  | 3 => s.viewPlanner r i j
  | 4 => s.viewLane r i j
  | 5 => s.viewHeadlink r i j
  | 6 => s.viewStream r i j
  | 7 => s.viewPu r i j
  | 8 => s.viewStore r i j
  | 9 => s.viewMagazine r i j
  | 10 => s.viewMover r i j
  | 11 => s.viewTime r i j
  | 12 => s.viewMotion r i j
  | 13 => s.viewCrypto r i j
  | 14 => s.viewConfig r i j
  | 15 => s.viewService r i j
  | _ => 0

end Sys2Proof.Machine
end

