-- ==== Sys2Proof/Machine/Regs.lean ====
section
/-! DEFINITION. BAR0 reads and writes (R11–R17, R360, R371, R545–R549, R578–R596, R618): the register at an offset, pairs,
captures, aliases, gated units, lockstep recovery, and the command of every register access. -/

namespace Sys2Proof.Machine

/-! ### Clock gating and power (R566, R567, R592–R594) -/

/-- The unit whose page an offset lies in, by kind and index. -/
def unitAt (off : Nat) : Option (Nat × Nat) :=
  let o := off % 0x100000
  let pg := o / 0x1000
  let page := fun (kind : Nat) => if pg < unitCount kind then some (kind, pg) else none
  match off / 0x100000 with
  | 4 => page 0x04
  | 7 => page 0x0C
  | 8 => page 0x0F
  | 9 => if pg < 16 then some (7, pg) else none
  | 10 => page 0x0E
  | 11 => if o / 0x1000 = 0x20 then some (0x12, o % 0x1000 / 0x100) else if pg = 0x30 ∨ pg = 0x31 then some (0x0B, pg - 0x30) else none
  | 12 => if 0xD0000 ≤ o ∧ o < 0xD2000 then some (0x11, (o - 0xD0000) / 0x100) else page 0x10
  | 13 => page 0x0D
  | _ => none

/-- The unit's clocks are stopped: it is powered down or clock-gated. -/
def State.gated (s : State) (kind i : Nat) : Bool :=
  let u := s.unitCode kind i
  let off := decide (u = 0) || decide (u = 5) || decide (u = 6)
  let idle := (s.dev.mode = .standby || s.dev.mode = .provision) && decide (u ≠ 4)
  match kind with
  | 0x04 => off || s.laneOff i
  | 0x0C => off || idle || (decide (u = 2) && (s.puStreams i).isEmpty)
  | 0x0D => off || (decide (u = 2) && (s.ceSeals i).isEmpty)
  | 0x0E => off || (idle && !(List.range 8).any (fun k => (s.chan k).busy))
  | 7 => off || decide ((s.drive i).mode = .empty) || !bit (s.act Reg.BAY_CTRL (i / 4)) 0
  | 0x10 => !s.mchPowered i
  | 0x0B => off || !bit (s.act Reg.TP_CTRL i) 0
  | _ => off

/-- The bits of a register that lie outside the register path: all but its RW bits. -/
def RegRow.fields (r : RegRow) : Word := r.rwi ||| r.ro ||| r.rc ||| r.w1c ||| r.w1s ||| r.wo

/-- An access to a gated unit wakes it (R592). -/
def State.wakeUnit (s : State) (off : Nat) : State :=
  match unitAt off with
  | some (kind, i) => if s.gated kind i then s.setSvc (fun q => { q with woken := q.woken.put 0 (unitKey kind i) (s.time.clk + 1) }) else s
  | none => s

/-! ### Central units (R595, R596) -/

/-- The central unit that maintains a register. -/
def areaOf (off : Nat) : Option Nat :=
  let o := off % 0x100000
  match off / 0x100000 with
  | 3 => some 0
  | 8 => if 0xD0000 ≤ o ∧ o < 0xD3000 then some 1 else none
  | 11 =>
    if 0x10 ≤ o ∧ o < 0x28 ∨ o = 0x44 ∨ o = 0x48 then none
    else if o < 0x100 ∨ 0x30000 ≤ o then some 3 else none
  | 13 => if 0xD0000 ≤ o ∧ o < 0xD1000 then some 4 else none
  | 14 => some 5
  | 15 => if 0x40 ≤ o ∧ o < 0xC0 then none else some 5
  | _ => none

/-- The register is held at its checkpoint: its central unit recovers, from the tick after the mismatch until it resumes. -/
def State.areaHeld (s : State) (off : Nat) : Bool :=
  match areaOf off with
  | some u => s.svc.recov.any (fun e => decide (e.1 = u) && decide (e.2 < s.time.tickNum))
  | none => false

/-! ### The word of a register -/

/-- A register of the TIME_SNAP group, whose values all come from one read (R48). -/
def RegRow.isSnap (r : RegRow) : Bool := decide (r.win = 11) && decide (0x10 ≤ r.base) && decide (r.base < 0x28)

/-- The word of a register as a port reads it: captured values (R591), the checkpoint's during a recovery, and RW bits from the
pending set. -/
def State.readWord (s : State) (p : Nat) (r : RegRow) (i j : Nat) : Word :=
  if r.win = 1 ∧ !s.portExists i then 0
  else
    let off := r.addr i j
    let t := if s.areaHeld off then s.held else s
    let v := match (t.port p).cap.get none off with
      | some w => w
      | none => if r.view = .captured then 0 else t.view p r i j
    (v &&& r.fields &&& ~~~ r.wo) ||| (s.cfg.pending.val r i j &&& r.rw)

/-- Keep values for a port (R591). -/
def State.capture (s : State) (p : Nat) (l : List (Nat × Word)) : State :=
  s.setPort p (fun q => { q with cap := l.foldl (fun (t : Tab (Option Word)) e => t.put none e.1 (some e.2)) q.cap })

/-- The group that a read captures, at the instant of the read (R48, R465, R481). -/
def State.readGroup (s : State) (p : Nat) (r : RegRow) (i : Nat) : State :=
  let now := fun (l : List RegRow) => s.capture p (l.map (fun x => (x.addr i, s.view p x i 0 &&& x.fields)))
  if r.is Reg.TIME_SNAP_LIN_LO then
    s.capture p (([Reg.TIME_SNAP_LIN_LO, Reg.TIME_SNAP_LIN_HI, Reg.TIME_SNAP_SEC_LO, Reg.TIME_SNAP_SEC_HI, Reg.TIME_SNAP_NS,
      Reg.TIME_SNAP_FRAC].map (fun x => x.addr)).zip s.snapValues)
  else if r.is Reg.MCH_POS_LO then now [Reg.MCH_POS_LO, Reg.MCH_POS_HI, Reg.MCH_SPEED_LO, Reg.MCH_SPEED_HI, Reg.MCH_STATUS]
  else if r.is Reg.PRB_TIME_LO then
    now [Reg.PRB_TIME_LO, Reg.PRB_TIME_HI, Reg.PRB_POS0_LO, Reg.PRB_POS0_HI, Reg.PRB_POS1_LO, Reg.PRB_POS1_HI]
  else s

/-- The other half of a pair. -/
def RegRow.partner (r : RegRow) (i j : Nat) : RegRow :=
  let off := if r.half = .lo then r.addr i j + 4 else r.addr i j - 4
  match findReg off with
  | some (x, _, _) => x
  | none => r

/-- A read of a register at an address, which for an alias is not the register's own: its word, and what the read does. -/
def State.regRead (s : State) (p : Nat) (r : RegRow) (i j addr : Nat) (clear : Bool) : Word × State :=
  let off := r.addr i j
  let held := s.areaHeld off && decide (r.fields ≠ 0)
  let s := if held then s.accFlag p accHeld addr else if r.fields ≠ 0 then s.wakeUnit off else s
  let s := s.readGroup p r i
  if r.half = .hi ∧ !r.isSnap then ((s.port p).snapHi.get 0 (addr - 4), s)
  else
    let v := s.readWord p r i j
    let s := if r.half = .lo then
        s.setPort p (fun q => { q with snapHi := q.snapHi.put 0 addr (s.readWord p (r.partner i j) i j) })
      else s
    if r.is Reg.ACCESS_STATUS then (v, s.setPort p (fun q => { q with accStatus := 0, accAddr := 0 }))
    else if clear && !held && decide (r.rc ≠ 0) then (v, s.setReg r i j (s.reg r i j &&& ~~~ r.rc))
    else (v, s)

/-! ### Aliases (R20, R545–R547, R578) -/

/-- The group masks of a window with aliases. -/
def grpMask : Nat → RegRow
  | 4 => Reg.GRP_MASK_LANE | 5 => Reg.GRP_MASK_HEADLINK | 6 => Reg.GRP_MASK_STREAM | 7 => Reg.GRP_MASK_PU
  | 8 => Reg.GRP_MASK_STORE | 9 => Reg.GRP_MASK_MAGAZINE | 10 => Reg.GRP_MASK_MOVER | 12 => Reg.GRP_MASK_MOTION
  | _ => Reg.GRP_MASK_CRYPTO

/-- An alias: its window, its group or none for ALL, and the offset within the unit page. -/
def aliasAt (off : Nat) : Option (Nat × Option Nat × Nat) :=
  let w := off / 0x100000
  let o := off % 0x100000
  if classUnits w = 0 then none
  else if 0xFF000 ≤ o then some (w, none, o % 0x1000)
  else if 0xE0000 ≤ o ∧ o < 0xE8000 then some (w, some ((o - 0xE0000) / 0x1000), o % 0x1000)
  else none

/-- The members that an alias reaches, in ascending order: the units of its group mask that exist (R545, R546). -/
def State.members (s : State) (w : Nat) (g : Option Nat) : List Nat :=
  (List.range (classUnits w)).filter (fun n => match g with
    | none => true
    | some g => bit (s.reg (grpMask w) g (n / 32)) (n % 32))

/-- The register of a member at an offset of its page. -/
def memberReg (w n o : Nat) : Option (RegRow × Nat × Nat) := findReg (w * 0x100000 + n * 0x1000 + o)

/-- Some other member of an alias reads differently. -/
def State.membersDiffer (s : State) (p w o : Nat) (rest : List Nat) (v : Word) : Bool :=
  rest.any (fun m => match memberReg w m o with
    | some (x, k, l) => decide (s.readWord p x k l ≠ v)
    | none => decide (v ≠ 0))

/-- A read through an alias: the register of the first member; BCAST_DIFFER where another member reads differently (R547). -/
def State.aliasFirst (s : State) (p addr w o : Nat) (rest : List Nat) (m : Option (RegRow × Nat × Nat)) : Word × State :=
  match m with
  | none => (0, s)
  | some (r, i, j) =>
    let x := s.regRead p r i j addr false
    (x.1, if r.half ≠ .hi && x.2.membersDiffer p w o rest x.1 then x.2.accFlag p accBcast addr else x.2)

/-- A read of an alias; a group with no member reads 0 (R547). -/
def State.aliasRead (s : State) (p addr w : Nat) (g : Option Nat) (o : Nat) : Word × State :=
  match s.members w g with
  | [] => (0, s)
  | n :: rest => s.aliasFirst p addr w o rest (memberReg w n o)

/-! ### Reads -/

/-- The word at an aligned offset. -/
def State.readBase (s : State) (p off : Nat) : Word × State :=
  match aliasAt off with
  | some (w, g, o) => s.aliasRead p off w g o
  | none => match findReg off with
    | some (r, i, j) => s.regRead p r i j off true
    | none => (0, s)

/-- A read of `n` bytes at an offset: what stops it, or its value (R11, R360, R371). -/
def State.readAt (s : State) (p off n : Nat) : Word × State :=
  let base := off / 4 * 4
  if n = 0 ∨ 4 < off % 4 + n then (0, s.accFlag p accBadSize off)
  else if s.dev.mode = .boot ∧ !isIdentity base then (0, s.accFlag p accNotReady off)
  else if !s.mayRead p base then
    (0, (if p < 4 then s.count Reg.HP_DENIED_CNT p else s).accFlag p accDenied off)
  else
    let x := s.readBase p base
    ((x.1 >>> (8 * (off % 4))) &&& BitVec.ofNat 32 (2 ^ (8 * n) - 1), x.2)

/-- A port's read of BAR0. -/
def State.busRead (s : State) (p off n : Nat) : State :=
  let s := s.wakePort p
  if !s.portTalks p then s
  else
    let x := s.readAt p off n
    x.2.emit (.readData p x.1)

/-- A read runs also while the device is halted, in the GLOBAL and SERVICE windows (R563). -/
def State.goRead (s : State) (off : Nat) (f : State → State) : Host.Outcome State Fault Refusal :=
  .next (match s.svc.stopped with
    | none => f s
    | some .halt => if off / 0x100000 = 0 ∨ off / 0x100000 = 15 then f s else s
    | some _ => s)

/-! ### Captures by a write (R113, R276, R548, R572, R575) -/

/-- PLN_RES: the values of the selected instance at the latest boundary. -/
def State.capPlanner (s : State) (p : Nat) : State :=
  let sel := s.reg Reg.PLN_RES_SEL
  let v := s.held.resValues (fld sel 23 16) (fld sel 15 0)
  let rows := [(Reg.PLN_RES_CAP_LO, Reg.PLN_RES_CAP_HI), (Reg.PLN_RES_ADMIT_LO, Reg.PLN_RES_ADMIT_HI),
    (Reg.PLN_RES_RSVD_LO, Reg.PLN_RES_RSVD_HI), (Reg.PLN_RES_USED_LO, Reg.PLN_RES_USED_HI),
    (Reg.PLN_RES_CARRY_LO, Reg.PLN_RES_CARRY_HI)]
  s.capture p ((rows.zip v).flatMap (fun e => [(e.1.1.addr, lo32 e.2), (e.1.2.addr, hi32 e.2)]))

def State.capFrame (s : State) (p : Nat) : State :=
  let x := s.frInfo (fld (s.reg Reg.STORE_FR_SEL) 5 0) (s.reg Reg.STORE_FR_FRAME).toNat
  s.capture p [(Reg.STORE_FR_INFO.addr, x.1), (Reg.STORE_FR_SLOT.addr, x.2)]

/-- The RW bits of a register in a slot. -/
def State.capPeek (s : State) (p : Nat) : State :=
  let v := s.reg Reg.CFG_PEEK_ADDR
  let slot := if bit v 31 then s.cfg.previous else s.cfg.active
  let w := match slot, findReg (fld v 23 2 * 4) with
    | some x, some (r, i, j) => x.regs.val r i j
    | _, _ => 0
  s.capture p [(Reg.CFG_PEEK_DATA.addr, w)]

/-- Telemetry: power and supply readings are free values; the peaks are kept. -/
def State.capTelem (s : State) (p : Nat) : State :=
  let sel := (s.reg Reg.SVC_TELEM_SEL).toNat
  let keep := fun (s : State) (w : Word) => s.capture p [(Reg.SVC_TELEM_DATA.addr, w)]
  if sel ≤ 8 then keep s.useFree (BitVec.ofNat 32 (s.freeNat 32))
  else if 0x10 ≤ sel ∧ sel < 0x30 then
    let x := s.svc.peaks.get (-32768) (sel - 0x10)
    keep s (if x = -32768 then 0 else lo32 (ofSigned 16 x))
  else keep s 0

/-- SEVERITY of a log code (R574). -/
def logSeverity (code : Nat) : Nat :=
  if code = 3 then 3 else if [2, 0x20, 0x30, 0x40].contains code then 1 else if [1, 0x13].contains code then 0 else 2

/-- The 32 bytes of a log entry (R573). -/
def LogEntry.bytes (e : LogEntry) : List Byte :=
  layout 32 [(0, leBytes 4 e.seq), (4, leBytes 1 (logSeverity e.code)), (6, leBytes 2 e.code), (8, leBytes 8 e.tick),
    (16, leBytes 8 e.time), (24, leBytes 4 e.source), (28, leBytes 4 e.detail)]

/-- The entry that SVC_LOG_SEL names: in the running log by its SEQ, in the persistent log by its place modulo 1,024. -/
def State.logAt (s : State) (v : Word) : Option LogEntry :=
  let seq := fld v 30 0
  if bit v 31 then
    ((s.svc.plog.zipIdx).find? (fun e => decide ((s.svc.plogHead - 1 - e.2) % 1024 = seq % 1024))).map (·.1)
  else if s.svc.logHead ≤ seq + 4096 ∧ seq < s.svc.logHead then s.svc.log.find? (fun e => decide (e.seq = seq)) else none

def State.capLog (s : State) (p : Nat) : State :=
  let e := s.logAt (s.reg Reg.SVC_LOG_SEL)
  let b := (e.map (·.bytes)).getD []
  s.capture p ((Reg.SVC_LOG_INFO.addr, word [(31, b2n e.isSome)])
    :: (List.range 8).map (fun k => (Reg.SVC_LOG_DATA.addr k, lo32 (leAt b (4 * k) 4))))

/-! ### Writes -/

/-- A write of the upper half of a pair applies the whole pair (R590); `lo` is the half the port holds. -/
def State.pairAct (s : State) (r : RegRow) (i j : Nat) (lo hi : Word) : State :=
  if r.is Reg.RING_BASE_HI then s.ringBaseWrite i lo hi
  else if r.is Reg.TCMP_TARGET_HI then ((s.setReg Reg.TCMP_TARGET_LO i 0 lo).setReg Reg.TCMP_TARGET_HI i 0 hi).tcmpRearm i
  else if r.is Reg.CMP_TARGET_HI then s.cmpTargetWrite i lo hi
  else if r.is Reg.MCH_SET_POS_HI then s.mchSetPos i lo hi
  else (s.storeBits (r.partner i j) i j lo).storeBits r i j hi

/-- A write of a register that is not half of a pair: its fields by their access types (R12), and what the write starts. -/
def State.wordAct (s : State) (p : Nat) (r : RegRow) (i j addr : Nat) (v : Word) : State :=
  if r.is Reg.STEW_CTRL then s.stewCtrl p v
  else if r.is Reg.HEARTBEAT then s.heartbeat p
  else if r.is Reg.RING_CTRL then s.ringCtrl i v
  else if r.is Reg.LANE_TRAIN_CTRL then s.laneTrainCtrl p addr i v
  else if r.is Reg.LANE_INJ_CTRL then s.laneInjCtrl p addr i v
  else if r.is Reg.LANE_PRBS_CTRL then (s.storeBits r i j v).prbsWritten i (s.reg r i j)
  else if r.is Reg.PLN_RES_SEL then (s.storeBits r i j v).capPlanner p
  else if r.is Reg.STORE_FR_SEL then (s.storeBits r i j v).capFrame p
  else if r.is Reg.CFG_PEEK_ADDR then (s.storeBits r i j v).capPeek p
  else if r.is Reg.SVC_TELEM_SEL then (s.storeBits r i j v).capTelem p
  else if r.is Reg.SVC_LOG_SEL then (s.storeBits r i j v).capLog p
  else if r.is Reg.TOBJ_CTRL then s.tobjCtrl v
  else if r.is Reg.TOBJ_DIR_DIGEST then s.dirDigest i
  else if r.is Reg.SVCCH_CTRL then s.svcCtrl p i v
  else if r.is Reg.CMP_CTRL then s.cmpCtrl i v
  else if r.is Reg.PRB_STATUS then (if bit v 31 then s.probeClear i else s)
  else if r.is Reg.SEC_TAMPER_CTRL then
    (s.storeBits r i j v).setSec (fun q => { q with tamperCtrl := v &&& Reg.SEC_TAMPER_CTRL.rwi })
  else if r.is Reg.SEC_SELFTEST_CTRL then
    (s.storeBits r i j v).setSec (fun q => { q with selftestCtrl := v &&& Reg.SEC_SELFTEST_CTRL.rwi })
  else s.storeBits r i j v

/-- What a write does once it reaches its register. -/
def State.regAct (s : State) (p : Nat) (r : RegRow) (i j addr : Nat) (v : Word) : State :=
  match r.half with
  | .whole => s.wordAct p r i j addr v
  | .lo => if r.rw ||| r.rwi = 0 then s else s.setPort p (fun q => { q with heldLo := q.heldLo.put 0 addr v })
  | .hi => if r.rw ||| r.rwi = 0 then s else s.pairAct r i j ((s.port p).heldLo.get 0 (addr - 4)) v

/-- A write that its port may make: kept for a recovering central unit (R596), or done. -/
def State.regWrite (s : State) (p : Nat) (r : RegRow) (i j addr : Nat) (v : Word) : State :=
  if r.win = 1 ∧ !s.portExists i then s
  else if s.areaHeld (r.addr i j) ∧ r.rwi ||| r.w1c ||| r.w1s ||| r.wo ≠ 0 then
    if 64 ≤ (s.svc.queued.filter (fun e => decide (e.1 = p))).length then s.accFlag p accDrop addr
    else (s.setSvc (fun q => { q with queued := q.queued ++ [(p, addr, v)] })).accFlag p accHeld addr
  else (if r.fields ≠ 0 then s.wakeUnit (r.addr i j) else s).regAct p r i j addr v

/-- A write at an offset: an alias reaches every member (R546). -/
def State.writeAt (s : State) (p off : Nat) (v : Word) : State :=
  match aliasAt off with
  | some (w, g, o) => (s.members w g).foldl (fun (s : State) n => match memberReg w n o with
      | some (r, i, j) => s.regWrite p r i j off v
      | none => s) s
  | none => match findReg off with
    | some (r, i, j) => s.regWrite p r i j off v
    | none => s

/-- A port's write of `n` bytes to BAR0 (R11). -/
def State.busWrite (s : State) (p off n : Nat) (v : Word) : State :=
  if n ≠ 4 ∨ off % 4 ≠ 0 then
    let s := s.wakePort p
    if s.portTalks p then s.accFlag p accBadSize off else s
  else s.onWrite p off (fun s => s.writeAt p off v)

/-- A port's write of a known register. -/
def State.rowWrite (s : State) (p : Nat) (r : RegRow) (i : Nat) (v : Word) : State :=
  if i < r.n1 then s.onWrite p (r.addr i) (fun s => s.regWrite p r i 0 (r.addr i) v) else s

/-- A port's read of a known register, all 4 bytes. -/
def State.rowRead (s : State) (p : Nat) (r : RegRow) (i : Nat) : State := if i < r.n1 then s.busRead p (r.addr i) 4 else s

/-! ### Commands: writes -/

def execRegisterWrite (p off n : Nat) (v : Word) (s : State) : Host.Outcome State Fault Refusal := s.go (fun s => s.busWrite p off n v)

/-- A write through an alias. -/
def execAliasWrite (p off : Nat) (v : Word) (s : State) : Host.Outcome State Fault Refusal :=
  s.go (fun s => if (aliasAt off).isSome then s.busWrite p off 4 v else s)

/-- The offset is a half of a writable pair. -/
def isHalf (off : Nat) (h : Half) : Bool :=
  match findReg off with
  | some (r, _, _) => decide (r.half = h) && decide (r.rw ||| r.rwi ≠ 0)
  | none => false

def execRegPairLoWrite (p off : Nat) (v : Word) (s : State) : Host.Outcome State Fault Refusal :=
  s.go (fun s => if isHalf off .lo then s.busWrite p off 4 v else s)
def execRegPairHiWrite (p off : Nat) (v : Word) (s : State) : Host.Outcome State Fault Refusal :=
  s.go (fun s => if isHalf off .hi then s.busWrite p off 4 v else s)

def execClaim (p : Nat) (s : State) : Host.Outcome State Fault Refusal := s.go (fun s => s.rowWrite p Reg.STEW_CTRL 0 1)
def execRelease (p : Nat) (s : State) : Host.Outcome State Fault Refusal := s.go (fun s => s.rowWrite p Reg.STEW_CTRL 0 2)
def execHeartbeat (p : Nat) (s : State) : Host.Outcome State Fault Refusal := s.go (fun s => s.rowWrite p Reg.HEARTBEAT 0 0)

/-- The other fields of the word written stand in `v`. -/
def execRingEnable (p n : Nat) (v : Word) (s : State) : Host.Outcome State Fault Refusal :=
  s.go (fun s => s.rowWrite p Reg.RING_CTRL n (v ||| 0x80000000))
def execRingAbort (p n : Nat) (v : Word) (s : State) : Host.Outcome State Fault Refusal :=
  s.go (fun s => s.rowWrite p Reg.RING_CTRL n (v &&& 0x7FFFFFFF))
def execRingResume (p n : Nat) (v : Word) (s : State) : Host.Outcome State Fault Refusal :=
  s.go (fun s => s.rowWrite p Reg.RING_CTRL n (v ||| 0xC0000000))
def execRetrain (p n : Nat) (v : Word) (s : State) : Host.Outcome State Fault Refusal :=
  s.go (fun s => s.rowWrite p Reg.LANE_TRAIN_CTRL n (v ||| 1))
def execInjectionGo (p n : Nat) (v : Word) (s : State) : Host.Outcome State Fault Refusal :=
  s.go (fun s => s.rowWrite p Reg.LANE_INJ_CTRL n (v ||| 1))
def execInjectionStop (p n : Nat) (v : Word) (s : State) : Host.Outcome State Fault Refusal :=
  s.go (fun s => s.rowWrite p Reg.LANE_INJ_CTRL n (v ||| 2))
def execSvcGo (p k : Nat) (v : Word) (s : State) : Host.Outcome State Fault Refusal :=
  s.go (fun s => s.rowWrite p Reg.SVCCH_CTRL k (v ||| 0x80000000))
def execSvcAbort (p k : Nat) (v : Word) (s : State) : Host.Outcome State Fault Refusal :=
  s.go (fun s => s.rowWrite p Reg.SVCCH_CTRL k (v ||| 0x40000000))
def execCmpEnable (p u : Nat) (v : Word) (s : State) : Host.Outcome State Fault Refusal :=
  s.go (fun s => s.rowWrite p Reg.CMP_CTRL u (v ||| 1))
def execCmpTargetHiWrite (p u : Nat) (v : Word) (s : State) : Host.Outcome State Fault Refusal :=
  s.go (fun s => s.rowWrite p Reg.CMP_TARGET_HI u v)
def execTcmpTargetHiWrite (p u : Nat) (v : Word) (s : State) : Host.Outcome State Fault Refusal :=
  s.go (fun s => s.rowWrite p Reg.TCMP_TARGET_HI u v)
def execMchSetPosHiWrite (p ch : Nat) (v : Word) (s : State) : Host.Outcome State Fault Refusal :=
  s.go (fun s => s.rowWrite p Reg.MCH_SET_POS_HI ch v)
def execProbeValidClear (p k : Nat) (s : State) : Host.Outcome State Fault Refusal :=
  s.go (fun s => s.rowWrite p Reg.PRB_STATUS k 0x80000000)
/-- GO with OP ALLOC, SEAL and FREE. -/
def execTobjAlloc (p : Nat) (s : State) : Host.Outcome State Fault Refusal := s.go (fun s => s.rowWrite p Reg.TOBJ_CTRL 0 0x81000000)
def execTobjSeal (p : Nat) (s : State) : Host.Outcome State Fault Refusal := s.go (fun s => s.rowWrite p Reg.TOBJ_CTRL 0 0x82000000)
def execTobjFree (p : Nat) (s : State) : Host.Outcome State Fault Refusal := s.go (fun s => s.rowWrite p Reg.TOBJ_CTRL 0 0x83000000)
def execTobjDirDigestWrite (p i : Nat) (s : State) : Host.Outcome State Fault Refusal :=
  s.go (fun s => s.rowWrite p Reg.TOBJ_DIR_DIGEST i 0)
def execPlnResSelWrite (p : Nat) (v : Word) (s : State) : Host.Outcome State Fault Refusal := s.go (fun s => s.rowWrite p Reg.PLN_RES_SEL 0 v)
def execStoreFrSelWrite (p : Nat) (v : Word) (s : State) : Host.Outcome State Fault Refusal := s.go (fun s => s.rowWrite p Reg.STORE_FR_SEL 0 v)
def execCfgPeekAddrWrite (p : Nat) (v : Word) (s : State) : Host.Outcome State Fault Refusal :=
  s.go (fun s => s.rowWrite p Reg.CFG_PEEK_ADDR 0 v)
def execSvcTelemSelWrite (p : Nat) (v : Word) (s : State) : Host.Outcome State Fault Refusal :=
  s.go (fun s => s.rowWrite p Reg.SVC_TELEM_SEL 0 v)
def execSvcLogSelWrite (p : Nat) (v : Word) (s : State) : Host.Outcome State Fault Refusal := s.go (fun s => s.rowWrite p Reg.SVC_LOG_SEL 0 v)

/-! ### Commands: reads -/

def execTimeSnapLinLoRead (p : Nat) (s : State) : Host.Outcome State Fault Refusal :=
  s.goRead Reg.TIME_SNAP_LIN_LO.addr (fun s => s.rowRead p Reg.TIME_SNAP_LIN_LO 0)
def execMchPosLoRead (p ch : Nat) (s : State) : Host.Outcome State Fault Refusal :=
  s.goRead Reg.MCH_POS_LO.addr (fun s => s.rowRead p Reg.MCH_POS_LO ch)
def execPrbTimeLoRead (p k : Nat) (s : State) : Host.Outcome State Fault Refusal :=
  s.goRead Reg.PRB_TIME_LO.addr (fun s => s.rowRead p Reg.PRB_TIME_LO k)

/-- The register at an offset has a property. -/
def regIs (off : Nat) (f : RegRow → Bool) : Bool :=
  match findReg (off / 4 * 4) with
  | some (r, _, _) => f r
  | none => false

def execRegPairLoRead (p off n : Nat) (s : State) : Host.Outcome State Fault Refusal :=
  s.goRead off (fun s => if regIs off (fun r => decide (r.half = .lo)) then s.busRead p off n else s)
def execRcRegisterRead (p off n : Nat) (s : State) : Host.Outcome State Fault Refusal :=
  s.goRead off (fun s => if regIs off (fun r => decide (r.rc ≠ 0)) then s.busRead p off n else s)
def execAccessStatusRead (p : Nat) (s : State) : Host.Outcome State Fault Refusal :=
  s.goRead Reg.ACCESS_STATUS.addr (fun s => s.rowRead p Reg.ACCESS_STATUS 0)
def execAliasRead (p off n : Nat) (s : State) : Host.Outcome State Fault Refusal :=
  s.goRead off (fun s => if (aliasAt off).isSome then s.busRead p off n else s)
/-- Any read of `n` bytes at an offset, whatever it flags. -/
def execFlaggedRegisterRead (p off n : Nat) (s : State) : Host.Outcome State Fault Refusal := s.goRead off (fun s => s.busRead p off n)

/-- SPI READ: the guest view, with a copy of ACCESS_STATUS and captures of its own, kept as those of a port 8; 0xA5 and the value, bit
31 first (R618). -/
def execSvcPortRead (off : Nat) (s : State) : Host.Outcome State Fault Refusal :=
  s.goRead off (fun s =>
    let x := s.readAt 8 (off / 4 * 4 % 2 ^ 26) 4
    x.2.emit (.spi (0xA5 :: beBytes 4 x.1.toNat)))

/-! ### Wakes (R592, R594) -/

/-- A wake does not complete: a read returns 0, a write is dropped; only for an access that needs one. -/
def State.wakeFail (s : State) (p off : Nat) (write : Bool) : State :=
  let needs := match unitAt off with
    | some (kind, i) => s.gated kind i && decide (s.svc.woken.get 0 (unitKey kind i) = 0) && regIs off (fun r => decide (r.fields ≠ 0))
    | none => false
  let s := s.wakePort p
  if !needs || !s.portTalks p || decide (s.dev.mode = .boot) then s
  else if write then (if s.mayWrite p off then s.accFlag p accWakeFail off else s)
  else if s.mayRead p off then (s.accFlag p accWakeFail off).emit (.readData p 0) else s

def execWakeFail (p off : Nat) (write : Bool) (s : State) : Host.Outcome State Fault Refusal := s.go (fun s => s.wakeFail p (off / 4 * 4) write)

/-- 1 µs after their last access, woken blocks stop their clocks again. -/
def execClockRegate (s : State) : Host.Outcome State Fault Refusal :=
  s.go (fun s => s.setSvc (fun q => { q with woken := q.woken.filter (fun e => decide (s.time.clk < e.2 - 1 + usClk 1)) }))

/-! ### The end of a recovery (R561, R596) -/

/-- A queued write takes effect. -/
def State.writeQueued (s : State) (e : Nat × Nat × Word) : State :=
  match findReg e.2.1 with
  | some (r, i, j) => s.regAct e.1 r i j e.2.1 e.2.2
  | none => s

/-- At the start of tick M + 3 the pairs resume: the page manager takes what it held back, and queued writes take effect. -/
def State.lockstepResume (s : State) : State :=
  if s.svc.recov.any (fun e => decide (e.2 + 3 ≤ s.time.tickNum)) then
    let s := (s.setSvc (fun q => { q with recov := q.recov.filter (fun e => decide (s.time.tickNum < e.2 + 3)) })).recoveryEnd
    let l := s.svc.queued
    (l.foldl (fun (s : State) e => s.writeQueued e) (s.setSvc (fun q => { q with queued := [] }))).takeCkpt
  else s

def execLockstepResume (s : State) : Host.Outcome State Fault Refusal := s.go (fun s => s.lockstepResume)

end Sys2Proof.Machine
end

