-- ==== Sys2Proof/Machine/Tick.lean ====
section
/-! DEFINITION. The tick boundary: what every subsystem does when a planning tick ends (R66, R96, R99–R112, R269, R540, R565),
and the clock that runs when no command waits. -/

namespace Sys2Proof.Machine

/-- Streams whose HEALTH reads WARN and those that read LOST, counted at the boundary (R565). -/
def State.countHealth (s : State) : State :=
  let h := (List.range 64).map s.streamHealth
  s.setSvc (fun q => { q with
    warnStreams := (h.filter (fun x => decide (x = 1))).length, lostStreams := (h.filter (fun x => decide (x = 2))).length })

/-- One tick of probation has passed (R540); without a steward the set fails (R541). -/
def State.probationTick (s : State) : State :=
  let s := s.setCfg (fun c => { c with probation := c.probation.map (· - 1) })
  if s.dev.steward.isNone then s.healthFail 6 else s

/-- Everything that has work asks for jobs. -/
def State.askAll (s : State) : State := (List.range 128).foldl (fun (s : State) k => s.subAsk k) s.moversIdle.askAged.sealAsk

/-- What subscriptions do with their jobs and the cuts of the planner. -/
def State.tickSubs (s : State) (cuts : List (Job × Nat)) : State :=
  let subs := List.range 128
  let s := subs.foldl (fun (s : State) k => s.subTake k) s
  subs.foldl (fun (s : State) k => s.subSuspended k) (s.subCuts cuts)

/-- What the planner releases, and what subscriptions do with their jobs and cuts. -/
def State.tickMovers (s : State) : State := s.askAll.planBoundary.1.tickSubs s.askAll.planBoundary.2

/-- What the frame store, the magazine engine and the service channels do with their jobs. -/
def State.tickStore (s : State) : State :=
  let s := s.watermarks.backlogStart.autoStep
  let s := (List.range 4).foldl (fun (s : State) b => s.bayTrain b) s
  s.segBoundary.fullCheck.readMoves.spillMoves.drainPages.drainCheck.svcMoves

/-- A change of the set or of a unit takes effect at this boundary (R30, R31): the jobs of the tick wait for it. -/
def State.changeDue (s : State) : Bool :=
  s.dev.bound.any (fun b => decide (b.tick ≤ s.time.tickNum) && match b.kind with
    | .commit _ | .fallback .. | .clear => true
    | _ => false)
  || (!s.recovering 2 && s.svc.due.any (fun e => decide (e.tick ≤ s.time.tickNum)))
  || (!s.recovering 2 && bit (s.act Reg.SVC_CTRL) 0 && s.svc.replace.any (fun e => decide (e.2.1 < s.time.tickNum)))

/-- The jobs of the new tick and what they do, once every change of the boundary has taken effect. -/
def State.tickJobs (s : State) : State :=
  let s := s.setPlan (fun p => { p with held := false })
  s.tickMovers.tickStore.takeCkpt

/-- A tick boundary: TICK_NUM, then releases and moves of reservations, then the jobs of the new tick and what they do. -/
def State.tickBoundary (s : State) : State :=
  if s.time.now < s.time.tickEnd then s
  else
    let s := s.timeTick.dropEnded.recoveryEnd.returnCaches.syncLanes.replan.probationTick.countHealth
    if s.changeDue then (s.setPlan (fun p => { p with held := true })).takeCkpt else s.tickJobs

def execTickBoundary (s : State) : Host.Outcome State Fault Refusal := s.go (fun s => s.tickBoundary)

/-- After the last change of a boundary the jobs of the tick are built and released. -/
def State.afterChange (s : State) : State := if s.plan.held && !s.changeDue then s.tickJobs else s
/-- After a change of units the planner plans anew first (R31). -/
def State.afterUnits (s : State) : State := if s.plan.held then s.replan.afterChange else s

def execCommitBoundary (s : State) : Host.Outcome State Fault Refusal := s.go (fun s => s.commitBoundary.afterChange)
def execConfigFallbackBoundary (s : State) : Host.Outcome State Fault Refusal := s.go (fun s => s.fallbackBoundary.afterChange)
def execConfigClearBoundary (s : State) : Host.Outcome State Fault Refusal := s.go (fun s => s.clearBoundary.afterChange)
def execUnitStateBoundary (s : State) : Host.Outcome State Fault Refusal := s.go (fun s => s.unitBoundary.afterUnits)
def execSpareReplacement (kind : Nat) (s : State) : Host.Outcome State Fault Refusal := s.go (fun s => (s.spareIn kind).afterUnits)

/-- With no command waiting, one 4 ns clock passes while the clocks run. -/
def State.idleClock (s : State) : State :=
  match s.svc.stopped with
  | none => s.setTime (fun t => t.clock)
  | some _ => s

end Sys2Proof.Machine
end

