-- ==== Sys2Proof/Machine/Dispatch.lean ====
section
/-! DEFINITION. The meaning of every command: one arm for each constructor of Instr. -/

namespace Sys2Proof.Machine

def exec (i : Instr) (s : State) : Host.Outcome State Fault Refusal :=
  match i with
  | .nop d => Sys2Proof.Machine.execNop d s
  | .rigStart d => Sys2Proof.Machine.execRigStart d s
  | .rigStop d => Sys2Proof.Machine.execRigStop d s
  | .rigArm d => Sys2Proof.Machine.execRigArm d s
  | .rigDisarm d => Sys2Proof.Machine.execRigDisarm d s
  | .takeStart d => Sys2Proof.Machine.execTakeStart d s
  | .takeStop d => Sys2Proof.Machine.execTakeStop d s
  | .burstStart d => Sys2Proof.Machine.execBurstStart d s
  | .burstStop d => Sys2Proof.Machine.execBurstStop d s
  | .offloadAbort d => Sys2Proof.Machine.execOffloadAbort d s
  | .calStart d => Sys2Proof.Machine.execCalStart d s
  | .calStop d => Sys2Proof.Machine.execCalStop d s
  | .magRelay d => Sys2Proof.Machine.execMagRelay d s
  | .configCommit d => Sys2Proof.Machine.execConfigCommit d s
  | .configClear d => Sys2Proof.Machine.execConfigClear d s
  | .configFallback d => Sys2Proof.Machine.execConfigFallback d s
  | .configDiscard d => Sys2Proof.Machine.execConfigDiscard d s
  | .timeStepAccept d => Sys2Proof.Machine.execTimeStepAccept d s
  | .timeSet d => Sys2Proof.Machine.execTimeSet d s
  | .settingsPost d => Sys2Proof.Machine.execSettingsPost d s
  | .sensorReg d => Sys2Proof.Machine.execSensorReg d s
  | .laneSwap d => Sys2Proof.Machine.execLaneSwap d s
  | .magRelease d => Sys2Proof.Machine.execMagRelease d s
  | .magFormat d => Sys2Proof.Machine.execMagFormat d s
  | .magRepair d => Sys2Proof.Machine.execMagRepair d s
  | .magSanitize d => Sys2Proof.Machine.execMagSanitize d s
  | .magRead d => Sys2Proof.Machine.execMagRead d s
  | .zeroize d => Sys2Proof.Machine.execZeroize d s
  | .provisionBegin d => Sys2Proof.Machine.execProvisionBegin d s
  | .provisionClose d => Sys2Proof.Machine.execProvisionClose d s
  | .secAuthBegin d => Sys2Proof.Machine.execSecAuthBegin d s
  | .secAuthProve d => Sys2Proof.Machine.execSecAuthProve d s
  | .secLogout d => Sys2Proof.Machine.execSecLogout d s
  | .secCoEnrol d => Sys2Proof.Machine.execSecCoEnrol d s
  | .secKeyReplace d => Sys2Proof.Machine.execSecKeyReplace d s
  | .secEcdhBegin d => Sys2Proof.Machine.execSecEcdhBegin d s
  | .secOwnerSet d => Sys2Proof.Machine.execSecOwnerSet d s
  | .secIdentityGen d => Sys2Proof.Machine.execSecIdentityGen d s
  | .secGetIdentity d => Sys2Proof.Machine.execSecGetIdentity d s
  | .secTakeKey d => Sys2Proof.Machine.execSecTakeKey d s
  | .secAttest d => Sys2Proof.Machine.execSecAttest d s
  | .secFwInstall d => Sys2Proof.Machine.execSecFwInstall d s
  | .secSelftest d fails => Sys2Proof.Machine.execSecSelftest d fails s
  | .unitDrain d => Sys2Proof.Machine.execUnitDrain d s
  | .unitTest d => Sys2Proof.Machine.execUnitTest d s
  | .unitReturn d => Sys2Proof.Machine.execUnitReturn d s
  | .unitRetire d => Sys2Proof.Machine.execUnitRetire d s
  | .dlvFrame d => Sys2Proof.Machine.execDlvFrame d s
  | .dlvGather d => Sys2Proof.Machine.execDlvGather d s
  | .doorbellWrite p n v => Sys2Proof.Machine.execDoorbellWrite p n v s
  | .ringEnable p n v => Sys2Proof.Machine.execRingEnable p n v s
  | .ringAbort p n v => Sys2Proof.Machine.execRingAbort p n v s
  | .ringResume p n v => Sys2Proof.Machine.execRingResume p n v s
  | .stagedRecordWrite n => Sys2Proof.Machine.execStagedRecordWrite n s
  | .ringBusError n addr cmd => Sys2Proof.Machine.execRingBusError n addr cmd s
  | .claim p => Sys2Proof.Machine.execClaim p s
  | .release p => Sys2Proof.Machine.execRelease p s
  | .heartbeat p => Sys2Proof.Machine.execHeartbeat p s
  | .portLivenessExpiry p => Sys2Proof.Machine.execPortLivenessExpiry p s
  | .retrain p n v => Sys2Proof.Machine.execRetrain p n v s
  | .injectionGo p n v => Sys2Proof.Machine.execInjectionGo p n v s
  | .injectionStop p n v => Sys2Proof.Machine.execInjectionStop p n v s
  | .plnResSelWrite p v => Sys2Proof.Machine.execPlnResSelWrite p v s
  | .storeFrSelWrite p v => Sys2Proof.Machine.execStoreFrSelWrite p v s
  | .cfgPeekAddrWrite p v => Sys2Proof.Machine.execCfgPeekAddrWrite p v s
  | .tobjDirDigestWrite p ix => Sys2Proof.Machine.execTobjDirDigestWrite p ix s
  | .svcTelemSelWrite p v => Sys2Proof.Machine.execSvcTelemSelWrite p v s
  | .svcLogSelWrite p v => Sys2Proof.Machine.execSvcLogSelWrite p v s
  | .tobjAlloc p => Sys2Proof.Machine.execTobjAlloc p s
  | .tobjSeal p => Sys2Proof.Machine.execTobjSeal p s
  | .tobjFree p => Sys2Proof.Machine.execTobjFree p s
  | .svcGo p k v => Sys2Proof.Machine.execSvcGo p k v s
  | .svcAbort p k v => Sys2Proof.Machine.execSvcAbort p k v s
  | .svcTransferStart k => Sys2Proof.Machine.execSvcTransferStart k s
  | .svcTransferDone k data => Sys2Proof.Machine.execSvcTransferDone k data s
  | .timeSnapLinLoRead p => Sys2Proof.Machine.execTimeSnapLinLoRead p s
  | .mchPosLoRead p ch => Sys2Proof.Machine.execMchPosLoRead p ch s
  | .prbTimeLoRead p k => Sys2Proof.Machine.execPrbTimeLoRead p k s
  | .regPairLoRead p off n => Sys2Proof.Machine.execRegPairLoRead p off n s
  | .regPairLoWrite p off v => Sys2Proof.Machine.execRegPairLoWrite p off v s
  | .regPairHiWrite p off v => Sys2Proof.Machine.execRegPairHiWrite p off v s
  | .rcRegisterRead p off n => Sys2Proof.Machine.execRcRegisterRead p off n s
  | .accessStatusRead p => Sys2Proof.Machine.execAccessStatusRead p s
  | .aliasWrite p off v => Sys2Proof.Machine.execAliasWrite p off v s
  | .aliasRead p off n => Sys2Proof.Machine.execAliasRead p off n s
  | .tcmpTargetHiWrite p u v => Sys2Proof.Machine.execTcmpTargetHiWrite p u v s
  | .cmpTargetHiWrite p u v => Sys2Proof.Machine.execCmpTargetHiWrite p u v s
  | .cmpEnable p u v => Sys2Proof.Machine.execCmpEnable p u v s
  | .mchSetPosHiWrite p ch v => Sys2Proof.Machine.execMchSetPosHiWrite p ch v s
  | .probeValidClear p k => Sys2Proof.Machine.execProbeValidClear p k s
  | .msixUnmask p vec enable mask => Sys2Proof.Machine.execMsixUnmask p vec enable mask s
  | .registerWrite p off n v => Sys2Proof.Machine.execRegisterWrite p off n v s
  | .wakeFail p off write => Sys2Proof.Machine.execWakeFail p off write s
  | .svcPortRead off => Sys2Proof.Machine.execSvcPortRead off s
  | .svcPortImage data => Sys2Proof.Machine.execSvcPortImage data s
  | .samplePreload cells => Sys2Proof.Machine.execSamplePreload cells s
  | .unlockChallenge valid => Sys2Proof.Machine.execUnlockChallenge valid s
  | .internalResetRelease bifurc bootSrc => Sys2Proof.Machine.execInternalResetRelease bifurc bootSrc s
  | .bootStageEnd detail data bad badUnits => Sys2Proof.Machine.execBootStageEnd detail data bad badUnits s
  | .zeroizePin low => Sys2Proof.Machine.execZeroizePin low s
  | .tamperInput ix high => Sys2Proof.Machine.execTamperInput ix high s
  | .pxPerstRelease p => Sys2Proof.Machine.execPxPerstRelease p s
  | .hostLinkUp p rate width flit mps noSnoop relaxed => Sys2Proof.Machine.execHostLinkUp p rate width flit mps noSnoop relaxed s
  | .hostPortReset p kind => Sys2Proof.Machine.execHostPortReset p kind s
  | .d3hotEntry p => Sys2Proof.Machine.execD3hotEntry p s
  | .widthChange p rate width flit => Sys2Proof.Machine.execWidthChange p rate width flit s
  | .cplTimeout p mover ring addr => Sys2Proof.Machine.execCplTimeout p mover ring addr s
  | .ideIntegrityFail p n => Sys2Proof.Machine.execIdeIntegrityFail p n s
  | .ideKm p n key lo hi => Sys2Proof.Machine.execIdeKm p n key lo hi s
  | .rigModeChange r => Sys2Proof.Machine.execRigModeChange r s
  | .ptpMessage p m => Sys2Proof.Machine.execPtpMessage p m s
  | .ptpSourceLost p => Sys2Proof.Machine.execPtpSourceLost p s
  | .refLost r => Sys2Proof.Machine.execRefLost r s
  | .ltcInFrame hours minutes seconds frames drop ok => Sys2Proof.Machine.execLtcInFrame hours minutes seconds frames drop ok s
  | .tcmpFire u => Sys2Proof.Machine.execTcmpFire u s
  | .triggerSend r => Sys2Proof.Machine.execTriggerSend r s
  | .settingsSend l => Sys2Proof.Machine.execSettingsSend l s
  | .beaconSend l tNext tAfter => Sys2Proof.Machine.execBeaconSend l tNext tAfter s
  | .creditSend l => Sys2Proof.Machine.execCreditSend l s
  | .credit l p => Sys2Proof.Machine.execCredit l p s
  | .beaconEcho l p at_ => Sys2Proof.Machine.execBeaconEcho l p at_ s
  | .capability l p => Sys2Proof.Machine.execCapability l p s
  | .triggerNak l p => Sys2Proof.Machine.execTriggerNak l p s
  | .settingsAck l p => Sys2Proof.Machine.execSettingsAck l p s
  | .regCompletion l p => Sys2Proof.Machine.execRegCompletion l p s
  | .regTimeout l => Sys2Proof.Machine.execRegTimeout l s
  | .frameStart l p => Sys2Proof.Machine.execFrameStart l p s
  | .line l p => Sys2Proof.Machine.execLine l p s
  | .frameEnd l p => Sys2Proof.Machine.execFrameEnd l p s
  | .canaryFsTimeout st => Sys2Proof.Machine.execCanaryFsTimeout st s
  | .canaryFeTimeout st => Sys2Proof.Machine.execCanaryFeTimeout st s
  | .puLineProcess u => Sys2Proof.Machine.execPuLineProcess u s
  | .frameClose st => Sys2Proof.Machine.execFrameClose st s
  | .pageCacheRefill st => Sys2Proof.Machine.execPageCacheRefill st s
  | .spillPageOutDone w => Sys2Proof.Machine.execSpillPageOutDone w s
  | .spillFail w => Sys2Proof.Machine.execSpillFail w s
  | .spillPageIn w data => Sys2Proof.Machine.execSpillPageIn w data s
  | .eccCorrected c row page => Sys2Proof.Machine.execEccCorrected c row page s
  | .eccUncorrectable c row page => Sys2Proof.Machine.execEccUncorrectable c row page s
  | .rowRepair c => Sys2Proof.Machine.execRowRepair c s
  | .pageDigest e => Sys2Proof.Machine.execPageDigest e s
  | .frameSeal st => Sys2Proof.Machine.execFrameSeal st s
  | .framePlace r => Sys2Proof.Machine.execFramePlace r s
  | .chunkWrite m => Sys2Proof.Machine.execChunkWrite m s
  | .checkpoint m => Sys2Proof.Machine.execCheckpoint m s
  | .driveCommandComplete slot id r => Sys2Proof.Machine.execDriveCommandComplete slot id r s
  | .driveCommandTimeout d => Sys2Proof.Machine.execDriveCommandTimeout d s
  | .driveLinkDown d => Sys2Proof.Machine.execDriveLinkDown d s
  | .controllerFatalStatus d => Sys2Proof.Machine.execControllerFatalStatus d s
  | .smartPoll d temp pct warn => Sys2Proof.Machine.execSmartPoll d temp pct warn s
  | .driveFailure d => Sys2Proof.Machine.execDriveFailure d s
  | .relayBoundary r => Sys2Proof.Machine.execRelayBoundary r s
  | .segmentClose m => Sys2Proof.Machine.execSegmentClose m s
  | .takeClose r => Sys2Proof.Machine.execTakeClose r s
  | .unsealedEnd m => Sys2Proof.Machine.execUnsealedEnd m s
  | .bayInsert b page => Sys2Proof.Machine.execBayInsert b page s
  | .identifyTimeout d => Sys2Proof.Machine.execIdentifyTimeout d s
  | .surprise b => Sys2Proof.Machine.execSurprise b s
  | .ejectReq b => Sys2Proof.Machine.execEjectReq b s
  | .bayRelease b => Sys2Proof.Machine.execBayRelease b s
  | .delivery n denied => Sys2Proof.Machine.execDelivery n denied s
  | .moverBusError m kind addr => Sys2Proof.Machine.execMoverBusError m kind addr s
  | .positionCount ch a b => Sys2Proof.Machine.execPositionCount ch a b s
  | .indexEvent ch z => Sys2Proof.Machine.execIndexEvent ch z s
  | .serialRead ch raw ack crc nE nW high ago => Sys2Proof.Machine.execSerialRead ch raw ack crc nE nW high ago s
  | .sincosSample ch a b => Sys2Proof.Machine.execSincosSample ch a b s
  | .speedStill ch => Sys2Proof.Machine.execSpeedStill ch s
  | .echoStep k => Sys2Proof.Machine.execEchoStep k s
  | .probeEdge k rise => Sys2Proof.Machine.execProbeEdge k rise s
  | .trigInEdge k rise => Sys2Proof.Machine.execTrigInEdge k rise s
  | .motionSample r => Sys2Proof.Machine.execMotionSample r s
  | .codewordReceive n levels => Sys2Proof.Machine.execCodewordReceive n levels s
  | .alignmentComma n levels snr => Sys2Proof.Machine.execAlignmentComma n levels snr s
  | .lockLost n => Sys2Proof.Machine.execLockLost n s
  | .relockTimeout n => Sys2Proof.Machine.execRelockTimeout n s
  | .trainingFrame n w a => Sys2Proof.Machine.execTrainingFrame n w a s
  | .trainTimeout n => Sys2Proof.Machine.execTrainTimeout n s
  | .trainRetry n => Sys2Proof.Machine.execTrainRetry n s
  | .wakeBurst n => Sys2Proof.Machine.execWakeBurst n s
  | .laneFailure n noSignal => Sys2Proof.Machine.execLaneFailure n noSignal s
  | .swapDone p => Sys2Proof.Machine.execSwapDone p s
  | .swapPropose n m => Sys2Proof.Machine.execSwapPropose n m s
  | .swapAgree n m => Sys2Proof.Machine.execSwapAgree n m s
  | .swapRefuse n m => Sys2Proof.Machine.execSwapRefuse n m s
  | .swapRequest n m => Sys2Proof.Machine.execSwapRequest n m s
  | .restripeAck n m => Sys2Proof.Machine.execRestripeAck n m s
  | .eidleAck n m => Sys2Proof.Machine.execEidleAck n m s
  | .loopbackAck n m => Sys2Proof.Machine.execLoopbackAck n m s
  | .lockstepMismatch u => Sys2Proof.Machine.execLockstepMismatch u s
  | .unitFailure kind ix cause => Sys2Proof.Machine.execUnitFailure kind ix cause s
  | .spareReplacement kind => Sys2Proof.Machine.execSpareReplacement kind s
  | .drainComplete kind ix => Sys2Proof.Machine.execDrainComplete kind ix s
  | .testComplete kind ix pass step errs => Sys2Proof.Machine.execTestComplete kind ix pass step errs s
  | .spareRotation kind pass test => Sys2Proof.Machine.execSpareRotation kind pass test s
  | .spareKat fails => Sys2Proof.Machine.execSpareKat fails s
  | .entropyRetest pass => Sys2Proof.Machine.execEntropyRetest pass s
  | .thermalSample t => Sys2Proof.Machine.execThermalSample t s
  | .lockGained n commas => Sys2Proof.Machine.execLockGained n commas s
  | .prbsCheckerLock n bits => Sys2Proof.Machine.execPrbsCheckerLock n bits s
  | .quadErr ch => Sys2Proof.Machine.execQuadErr ch s
  | .speedDecay ch => Sys2Proof.Machine.execSpeedDecay ch s
  | .ejectRelease b => Sys2Proof.Machine.execEjectRelease b s
  | .driveLinkUp d gen width => Sys2Proof.Machine.execDriveLinkUp d gen width s
  | .controllerReady d => Sys2Proof.Machine.execControllerReady d s
  | .tpLinkState p up => Sys2Proof.Machine.execTpLinkState p up s
  | .tpMacFrame p kind addr fields => Sys2Proof.Machine.execTpMacFrame p kind addr fields s
  | .aspmL1Entry p => Sys2Proof.Machine.execAspmL1Entry p s
  | .spdmRequest p kind => Sys2Proof.Machine.execSpdmRequest p kind s
  | .flaggedRegisterRead p off n => Sys2Proof.Machine.execFlaggedRegisterRead p off n s
  | .shiftChange => Sys2Proof.Machine.execShiftChange s
  | .tobjSealDone => Sys2Proof.Machine.execTobjSealDone s
  | .clockRegate => Sys2Proof.Machine.execClockRegate s
  | .svcPortStatus => Sys2Proof.Machine.execSvcPortStatus s
  | .extest => Sys2Proof.Machine.execExtest s
  | .idcode => Sys2Proof.Machine.execIdcode s
  | .highz => Sys2Proof.Machine.execHighz s
  | .clamp => Sys2Proof.Machine.execClamp s
  | .extestPulse => Sys2Proof.Machine.execExtestPulse s
  | .extestTrain => Sys2Proof.Machine.execExtestTrain s
  | .bypass => Sys2Proof.Machine.execBypass s
  | .porstAssert => Sys2Proof.Machine.execPorstAssert s
  | .supplyDrop => Sys2Proof.Machine.execSupplyDrop s
  | .bootImageTimeout => Sys2Proof.Machine.execBootImageTimeout s
  | .firmwareReadyTimeout => Sys2Proof.Machine.execFirmwareReadyTimeout s
  | .tickBoundary => Sys2Proof.Machine.execTickBoundary s
  | .unitStateBoundary => Sys2Proof.Machine.execUnitStateBoundary s
  | .commitBoundary => Sys2Proof.Machine.execCommitBoundary s
  | .configFallbackBoundary => Sys2Proof.Machine.execConfigFallbackBoundary s
  | .configClearBoundary => Sys2Proof.Machine.execConfigClearBoundary s
  | .probationEnd => Sys2Proof.Machine.execProbationEnd s
  | .ppsInEdge => Sys2Proof.Machine.execPpsInEdge s
  | .ppsInLost => Sys2Proof.Machine.execPpsInLost s
  | .clk10mLost => Sys2Proof.Machine.execClk10mLost s
  | .refInEdge => Sys2Proof.Machine.execRefInEdge s
  | .ltcInLost => Sys2Proof.Machine.execLtcInLost s
  | .timeStepFix => Sys2Proof.Machine.execTimeStepFix s
  | .timeStepApply => Sys2Proof.Machine.execTimeStepApply s
  | .ppsOutPulse => Sys2Proof.Machine.execPpsOutPulse s
  | .ltcOutFrame => Sys2Proof.Machine.execLtcOutFrame s
  | .pagesFree => Sys2Proof.Machine.execPagesFree s
  | .spillPageOut => Sys2Proof.Machine.execSpillPageOut s
  | .lockstepResume => Sys2Proof.Machine.execLockstepResume s
  | .entropyHealthFail => Sys2Proof.Machine.execEntropyHealthFail s
  | .lockoutExpiry => Sys2Proof.Machine.execLockoutExpiry s
  | .thermtrip => Sys2Proof.Machine.execThermtrip s
  | .pulseEnd => Sys2Proof.Machine.execPulseEnd s

end Sys2Proof.Machine
end

