-- ==== Sys2Proof/Safety.lean ====
section
/-! DEFINITION. The terms that statements are written in: the parts of the state that a command leaves as they were, the canonical
form of memory, and what only ever grows. -/

namespace Sys2Proof.Machine

/-- A memory is in canonical form: addresses rise strictly and no entry equals what an unlisted address reads as. -/
abbrev Memory.wf (m : List Host.Cell) : Prop := Tab.wf (0 : Byte) m = true

/-- The parts of the state: the records State holds, and the pieces of them that a rule of the spec protects on their own. -/
inductive Part where
  | cur | cfg | dev | rings | ports | time | plan | link | store | takes | mover | mag | svc | obj | sec | motion | ckpt | hbm
  | out | free | pending
  /-- The device mode with its history (R32, R34). -/
  | mode
  /-- The rig modes (R37). -/
  | rigs
  | steward
  /-- The active set, the previous set and the highest version (R525, R526). -/
  | active
  /-- OWK and DIK, in use and in the owner partition (R490). -/
  | ownerKeys
  /-- The public keys of crypto-officers and users (R486). -/
  | credentials
  /-- The take floor (R500). -/
  | floor
  /-- The SVN floor (R506). -/
  | svn
  | zeroizeCnt
  /-- The boot flash's images and their slots (R507). -/
  | firmware
  /-- What holds the device: reset, halt, or a thermal trip. -/
  | stopped
  /-- The unit states (R550). -/
  | units
  /-- The units listed as retired (R573). -/
  | retired
  /-- The service log and its persistent copy (R573). -/
  | log
  | tickNum
  /-- Device time, its epoch, and whether a source has set it (R44, R47). -/
  | deviceTime
  /-- The service core's free-running clock (R375). -/
  | clk
  /-- The contents of table objects (R535). -/
  | heap
  /-- What the writing of a record never changes of a ring: its state, its doorbell count, base and EVT ring, how many descriptors are
  outstanding, its role, and whether it is being aborted (R396, R404, R408, R487). -/
  | ringCtl
  deriving DecidableEq, Repr

/-- Every ring is the same but for its count, LOST and what waits in staging. -/
def RingCtlSame (x y : Tab RingSt) : Prop :=
  ∀ n, (y.get {} n).state = (x.get {} n).state ∧ (y.get {} n).db = (x.get {} n).db ∧ (y.get {} n).base = (x.get {} n).base
    ∧ (y.get {} n).evt = (x.get {} n).evt ∧ (y.get {} n).outstanding = (x.get {} n).outstanding
    ∧ (y.get {} n).barrier = (x.get {} n).barrier ∧ (y.get {} n).role = (x.get {} n).role
    ∧ (y.get {} n).aborting = (x.get {} n).aborting ∧ (y.get {} n).gen = (x.get {} n).gen

/-- A part is the same in two states. -/
def Part.same : Part → State → State → Prop
  | .cur, s, t => t.cur = s.cur
  | .cfg, s, t => t.cfg = s.cfg
  | .dev, s, t => t.dev = s.dev
  | .rings, s, t => t.rings = s.rings
  | .ports, s, t => t.ports = s.ports
  | .time, s, t => t.time = s.time
  | .plan, s, t => t.plan = s.plan
  | .link, s, t => t.link = s.link
  | .store, s, t => t.store = s.store
  | .takes, s, t => t.takes = s.takes
  | .mover, s, t => t.mover = s.mover
  | .mag, s, t => t.mag = s.mag
  | .svc, s, t => t.svc = s.svc
  | .obj, s, t => t.obj = s.obj
  | .sec, s, t => t.sec = s.sec
  | .motion, s, t => t.motion = s.motion
  | .ckpt, s, t => t.ckpt = s.ckpt
  | .hbm, s, t => t.hbm = s.hbm
  | .out, s, t => t.out = s.out
  | .free, s, t => t.free = s.free
  | .pending, s, t => t.pending = s.pending
  | .mode, s, t => t.dev.mode = s.dev.mode ∧ t.dev.prevMode = s.dev.prevMode ∧ t.dev.cause = s.dev.cause
      ∧ t.dev.changes = s.dev.changes
  | .rigs, s, t => t.dev.rigs = s.dev.rigs
  | .steward, s, t => t.dev.steward = s.dev.steward
  | .active, s, t => t.cfg.active = s.cfg.active ∧ t.cfg.previous = s.cfg.previous ∧ t.cfg.lastVersion = s.cfg.lastVersion
  | .ownerKeys, s, t => t.sec.owk = s.sec.owk ∧ t.sec.dik = s.sec.dik ∧ t.sec.ownerOwk = s.sec.ownerOwk
      ∧ t.sec.ownerDik = s.sec.ownerDik
  | .credentials, s, t => t.sec.coKeys = s.sec.coKeys ∧ t.sec.userKeys = s.sec.userKeys
  | .floor, s, t => t.sec.floorSecs = s.sec.floorSecs ∧ t.sec.floorSeq = s.sec.floorSeq
  | .svn, s, t => t.sec.svnFloor = s.sec.svnFloor
  | .zeroizeCnt, s, t => t.sec.zeroizeCnt = s.sec.zeroizeCnt
  | .firmware, s, t => t.sec.slotA = s.sec.slotA ∧ t.sec.slotB = s.sec.slotB ∧ t.sec.fwActive = s.sec.fwActive
      ∧ t.sec.fwPending = s.sec.fwPending
  | .stopped, s, t => t.svc.stopped = s.svc.stopped
  | .units, s, t => t.svc.units = s.svc.units
  | .retired, s, t => t.svc.retired = s.svc.retired
  | .log, s, t => t.svc.log = s.svc.log ∧ t.svc.logHead = s.svc.logHead ∧ t.svc.plog = s.svc.plog ∧ t.svc.plogHead = s.svc.plogHead
  | .tickNum, s, t => t.time.tickNum = s.time.tickNum
  | .deviceTime, s, t => t.time.now = s.time.now ∧ t.time.epoch = s.time.epoch ∧ t.time.isSet = s.time.isSet
  | .clk, s, t => t.time.clk = s.time.clk
  | .heap, s, t => t.obj.heap = s.obj.heap
  | .ringCtl, s, t => RingCtlSame s.rings t.rings

/-! ### When commands take effect -/

/-- The device runs and takes a descriptor from its CMD ring, whose opcode it knows (R394, R396, R403, R404). -/
def State.takesCmd (s : State) (d : Desc) : Prop := s.svc.stopped = none ∧ s.takeable d 0 = true ∧ d.known = true

/-- From `s` to `t` a descriptor has been taken and has completed: as many of its ring's descriptors are outstanding as before. -/
def State.finished (s t : State) (d : Desc) : Prop := (t.ring d.ring).outstanding = (s.ring d.ring).outstanding

/-- From `s` to `t` a descriptor has been taken, and its completion is owed. -/
def State.owed (s t : State) (d : Desc) : Prop := (t.ring d.ring).outstanding = (s.ring d.ring).outstanding + 1

/-- A security service that takes TARGET NONE and the operand bytes `used`: the device takes it, and the security core is not
recovering (R510, R560). -/
def State.takesService (s : State) (d : Desc) (used : List (Nat × Nat)) : Prop :=
  s.takesCmd d ∧ s.recovering 4 = false ∧ structOk d (tNone d) used false = true

/-- From `s` to `t` data has been written into a host's memory: each piece, cut at Max Payload Size and 4 KiB, is sent (R438). -/
def State.hostGets (s t : State) (p addr : Nat) (data : List Byte) (noSnoop : Bool) : Prop :=
  ∀ x ∈ cutWrites (max 128 (s.port p).mps) (data.length / max 128 (s.port p).mps + data.length / 4096 + 3) addr data,
    Out.hostWrite p x.1 x.2 (noSnoop && (s.port p).noSnoop) (s.port p).relaxed ∈ t.out

/-- From `s` to `t` the owner's keys have been erased, and what survives a zeroisation has (R516, R517). -/
def State.keysErased (s t : State) : Prop :=
  t.sec.owk = none ∧ t.sec.dik = none ∧ t.sec.ownerOwk = none ∧ t.sec.ownerDik = none ∧ t.sec.ed = none
    ∧ t.sec.zeroizeCnt = satAdd 0xFFFFFFFF s.sec.zeroizeCnt 1 ∧ t.sec.coKeys = s.sec.coKeys ∧ t.sec.userKeys = s.sec.userKeys
    ∧ t.sec.floorSecs = s.sec.floorSecs ∧ t.sec.floorSeq = s.sec.floorSeq ∧ t.sec.svnFloor = s.sec.svnFloor
    ∧ t.sec.slotA = s.sec.slotA ∧ t.sec.slotB = s.sec.slotB

/-- From `s` to `t` a drive has been declared FAILED: its commands are gone, its unit has failed and its event is set (R311). -/
def State.driveFailed (s t : State) (d : Nat) : Prop :=
  (t.drive d).mode = .failed ∧ (t.drive d).failDue = true ∧ t.mag.cmds = s.mag.cmds.filter (fun c => decide (c.slot ≠ d))
    ∧ t.unitCode 7 d = 5 ∧ bit (t.reg Reg.MBS_EVENTS d) 0 = true

/-- A port's write reaches a register: the device runs outside BOOT, the port's link is up and it decodes memory, the port exists and
may write there, and no central unit holds the register (R360, R361, R362, R371, R596). -/
def State.writable (s : State) (p : Nat) (r : RegRow) (i : Nat) : Prop :=
  s.svc.stopped = none ∧ i < r.n1 ∧ s.portTalks p = true ∧ s.dev.mode ≠ .boot ∧ s.mayWrite p (r.addr i) = true
    ∧ s.areaHeld (r.addr i) = false ∧ (r.win = 1 → s.portExists i = true)

/-- A port's 4-byte write at an aligned offset is not stopped: the device runs outside BOOT, the port's link is up and it decodes
memory, and it may write there (R11, R360, R361, R362, R371). -/
def State.opensWrite (s : State) (p off : Nat) : Prop :=
  s.svc.stopped = none ∧ off % 4 = 0 ∧ s.portTalks p = true ∧ s.dev.mode ≠ .boot ∧ s.mayWrite p off = true

/-- A port's read of `n` bytes within a word is not stopped. -/
def State.opensRead (s : State) (p off n : Nat) : Prop :=
  s.svc.stopped = none ∧ 0 < n ∧ off % 4 + n ≤ 4 ∧ s.portTalks p = true ∧ s.dev.mode ≠ .boot ∧ s.mayRead p (off / 4 * 4) = true

/-- What an access of a port itself changes: its link leaves L1, and the list of woken units (R363, R592). -/
def State.afterAccess (s : State) (p : Nat) (w : Tab Nat) : State :=
  { s with ports := (s.wakePort p).ports, svc := { s.svc with woken := w } }

/-- The registers that start something when they are written as a word. -/
def actingRows : List RegRow :=
  [Reg.STEW_CTRL, Reg.HEARTBEAT, Reg.RING_CTRL, Reg.LANE_TRAIN_CTRL, Reg.LANE_INJ_CTRL, Reg.LANE_PRBS_CTRL, Reg.PLN_RES_SEL,
   Reg.STORE_FR_SEL, Reg.CFG_PEEK_ADDR, Reg.SVC_TELEM_SEL, Reg.SVC_LOG_SEL, Reg.TOBJ_CTRL, Reg.TOBJ_DIR_DIGEST, Reg.SVCCH_CTRL,
   Reg.CMP_CTRL, Reg.PRB_STATUS, Reg.SEC_TAMPER_CTRL, Reg.SEC_SELFTEST_CTRL]

/-- The registers whose read does more than answer: it captures a group, or clears the port's copy (R48, R580, R591). -/
def readRows : List RegRow := [Reg.TIME_SNAP_LIN_LO, Reg.MCH_POS_LO, Reg.PRB_TIME_LO, Reg.ACCESS_STATUS]

/-- The pairs whose upper half starts something when it is written. -/
def actingPairs : List RegRow := [Reg.RING_BASE_HI, Reg.TCMP_TARGET_HI, Reg.CMP_TARGET_HI, Reg.MCH_SET_POS_HI]

/-! ### What a command is and may change -/

/-- The descriptor that a ring command carries. -/
def descOf (i : Instr) : Option Desc :=
  match i with
  | .nop d => some d
  | .rigStart d => some d
  | .rigStop d => some d
  | .rigArm d => some d
  | .rigDisarm d => some d
  | .takeStart d => some d
  | .takeStop d => some d
  | .burstStart d => some d
  | .burstStop d => some d
  | .offloadAbort d => some d
  | .calStart d => some d
  | .calStop d => some d
  | .magRelay d => some d
  | .configCommit d => some d
  | .configClear d => some d
  | .configFallback d => some d
  | .configDiscard d => some d
  | .timeStepAccept d => some d
  | .timeSet d => some d
  | .settingsPost d => some d
  | .sensorReg d => some d
  | .laneSwap d => some d
  | .magRelease d => some d
  | .magFormat d => some d
  | .magRepair d => some d
  | .magSanitize d => some d
  | .magRead d => some d
  | .zeroize d => some d
  | .provisionBegin d => some d
  | .provisionClose d => some d
  | .secAuthBegin d => some d
  | .secAuthProve d => some d
  | .secLogout d => some d
  | .secCoEnrol d => some d
  | .secKeyReplace d => some d
  | .secEcdhBegin d => some d
  | .secOwnerSet d => some d
  | .secIdentityGen d => some d
  | .secGetIdentity d => some d
  | .secTakeKey d => some d
  | .secAttest d => some d
  | .secFwInstall d => some d
  | .secSelftest d _ => some d
  | .unitDrain d => some d
  | .unitTest d => some d
  | .unitReturn d => some d
  | .unitRetire d => some d
  | .dlvFrame d => some d
  | .dlvGather d => some d
  | .doorbellWrite _ _ _ => none
  | .ringEnable _ _ _ => none
  | .ringAbort _ _ _ => none
  | .ringResume _ _ _ => none
  | .stagedRecordWrite _ => none
  | .ringBusError _ _ _ => none
  | .claim _ => none
  | .release _ => none
  | .heartbeat _ => none
  | .portLivenessExpiry _ => none
  | .retrain _ _ _ => none
  | .injectionGo _ _ _ => none
  | .injectionStop _ _ _ => none
  | .plnResSelWrite _ _ => none
  | .storeFrSelWrite _ _ => none
  | .cfgPeekAddrWrite _ _ => none
  | .tobjDirDigestWrite _ _ => none
  | .svcTelemSelWrite _ _ => none
  | .svcLogSelWrite _ _ => none
  | .tobjAlloc _ => none
  | .tobjSeal _ => none
  | .tobjFree _ => none
  | .svcGo _ _ _ => none
  | .svcAbort _ _ _ => none
  | .svcTransferStart _ => none
  | .svcTransferDone _ _ => none
  | .timeSnapLinLoRead _ => none
  | .mchPosLoRead _ _ => none
  | .prbTimeLoRead _ _ => none
  | .regPairLoRead _ _ _ => none
  | .regPairLoWrite _ _ _ => none
  | .regPairHiWrite _ _ _ => none
  | .rcRegisterRead _ _ _ => none
  | .accessStatusRead _ => none
  | .aliasWrite _ _ _ => none
  | .aliasRead _ _ _ => none
  | .tcmpTargetHiWrite _ _ _ => none
  | .cmpTargetHiWrite _ _ _ => none
  | .cmpEnable _ _ _ => none
  | .mchSetPosHiWrite _ _ _ => none
  | .probeValidClear _ _ => none
  | .msixUnmask _ _ _ _ => none
  | .registerWrite _ _ _ _ => none
  | .wakeFail _ _ _ => none
  | .svcPortRead _ => none
  | .svcPortImage _ => none
  | .samplePreload _ => none
  | .unlockChallenge _ => none
  | .internalResetRelease _ _ => none
  | .bootStageEnd _ _ _ _ => none
  | .zeroizePin _ => none
  | .tamperInput _ _ => none
  | .pxPerstRelease _ => none
  | .hostLinkUp _ _ _ _ _ _ _ => none
  | .hostPortReset _ _ => none
  | .d3hotEntry _ => none
  | .widthChange _ _ _ _ => none
  | .cplTimeout _ _ _ _ => none
  | .ideIntegrityFail _ _ => none
  | .ideKm _ _ _ _ _ => none
  | .rigModeChange _ => none
  | .ptpMessage _ _ => none
  | .ptpSourceLost _ => none
  | .refLost _ => none
  | .ltcInFrame _ _ _ _ _ _ => none
  | .tcmpFire _ => none
  | .triggerSend _ => none
  | .settingsSend _ => none
  | .beaconSend _ _ _ => none
  | .creditSend _ => none
  | .credit _ _ => none
  | .beaconEcho _ _ _ => none
  | .capability _ _ => none
  | .triggerNak _ _ => none
  | .settingsAck _ _ => none
  | .regCompletion _ _ => none
  | .regTimeout _ => none
  | .frameStart _ _ => none
  | .line _ _ => none
  | .frameEnd _ _ => none
  | .canaryFsTimeout _ => none
  | .canaryFeTimeout _ => none
  | .puLineProcess _ => none
  | .frameClose _ => none
  | .pageCacheRefill _ => none
  | .spillPageOutDone _ => none
  | .spillFail _ => none
  | .spillPageIn _ _ => none
  | .eccCorrected _ _ _ => none
  | .eccUncorrectable _ _ _ => none
  | .rowRepair _ => none
  | .pageDigest _ => none
  | .frameSeal _ => none
  | .framePlace _ => none
  | .chunkWrite _ => none
  | .checkpoint _ => none
  | .driveCommandComplete _ _ _ => none
  | .driveCommandTimeout _ => none
  | .driveLinkDown _ => none
  | .controllerFatalStatus _ => none
  | .smartPoll _ _ _ _ => none
  | .driveFailure _ => none
  | .relayBoundary _ => none
  | .segmentClose _ => none
  | .takeClose _ => none
  | .unsealedEnd _ => none
  | .bayInsert _ _ => none
  | .identifyTimeout _ => none
  | .surprise _ => none
  | .ejectReq _ => none
  | .bayRelease _ => none
  | .delivery _ _ => none
  | .moverBusError _ _ _ => none
  | .positionCount _ _ _ => none
  | .indexEvent _ _ => none
  | .serialRead _ _ _ _ _ _ _ _ => none
  | .sincosSample _ _ _ => none
  | .speedStill _ => none
  | .echoStep _ => none
  | .probeEdge _ _ => none
  | .trigInEdge _ _ => none
  | .motionSample _ => none
  | .codewordReceive _ _ => none
  | .alignmentComma _ _ _ => none
  | .lockLost _ => none
  | .relockTimeout _ => none
  | .trainingFrame _ _ _ => none
  | .trainTimeout _ => none
  | .trainRetry _ => none
  | .wakeBurst _ => none
  | .laneFailure _ _ => none
  | .swapDone _ => none
  | .swapPropose _ _ => none
  | .swapAgree _ _ => none
  | .swapRefuse _ _ => none
  | .swapRequest _ _ => none
  | .restripeAck _ _ => none
  | .eidleAck _ _ => none
  | .loopbackAck _ _ => none
  | .lockstepMismatch _ => none
  | .unitFailure _ _ _ => none
  | .spareReplacement _ => none
  | .drainComplete _ _ => none
  | .testComplete _ _ _ _ _ => none
  | .spareRotation _ _ _ => none
  | .spareKat _ => none
  | .entropyRetest _ => none
  | .thermalSample _ => none
  | .lockGained _ _ => none
  | .prbsCheckerLock _ _ => none
  | .quadErr _ => none
  | .speedDecay _ => none
  | .ejectRelease _ => none
  | .driveLinkUp _ _ _ => none
  | .controllerReady _ => none
  | .tpLinkState _ _ => none
  | .tpMacFrame _ _ _ _ => none
  | .aspmL1Entry _ => none
  | .spdmRequest _ _ => none
  | .flaggedRegisterRead _ _ _ => none
  | .shiftChange => none
  | .tobjSealDone => none
  | .clockRegate => none
  | .svcPortStatus => none
  | .extest => none
  | .idcode => none
  | .highz => none
  | .clamp => none
  | .extestPulse => none
  | .extestTrain => none
  | .bypass => none
  | .porstAssert => none
  | .supplyDrop => none
  | .bootImageTimeout => none
  | .firmwareReadyTimeout => none
  | .tickBoundary => none
  | .unitStateBoundary => none
  | .commitBoundary => none
  | .configFallbackBoundary => none
  | .configClearBoundary => none
  | .probationEnd => none
  | .ppsInEdge => none
  | .ppsInLost => none
  | .clk10mLost => none
  | .refInEdge => none
  | .ltcInLost => none
  | .timeStepFix => none
  | .timeStepApply => none
  | .ppsOutPulse => none
  | .ltcOutFrame => none
  | .pagesFree => none
  | .spillPageOut => none
  | .lockstepResume => none
  | .entropyHealthFail => none
  | .lockoutExpiry => none
  | .thermtrip => none
  | .pulseEnd => none

/-- THE FRAME of each command: the parts of the state that it may change. Every other part stays as it was, whatever the command's
operands and in every state. Where a part lies inside another (the unit states inside the service's record), both are listed. -/
def mayChange (i : Instr) : List Part :=
  match i with
  | .nop _ => [.cur, .rings, .ports, .out, .ringCtl]
  | .rigStart _ => [.cur, .dev, .rings, .ports, .plan, .out, .ringCtl]
  | .rigStop _ => [.cur, .dev, .rings, .ports, .plan, .out, .ringCtl]
  | .rigArm _ => [.cur, .dev, .rings, .ports, .plan, .out, .ringCtl]
  | .rigDisarm _ => [.cur, .dev, .rings, .ports, .plan, .out, .ringCtl]
  | .takeStart _ => [.cur, .dev, .rings, .ports, .plan, .takes, .svc, .sec, .out, .floor, .log, .ringCtl]
  | .takeStop _ => [.cur, .dev, .rings, .ports, .plan, .out, .ringCtl]
  | .burstStart _ => [.cur, .dev, .rings, .ports, .plan, .takes, .svc, .sec, .out, .floor, .log, .ringCtl]
  | .burstStop _ => [.cur, .dev, .rings, .ports, .plan, .out, .ringCtl]
  | .offloadAbort _ => [.cur, .dev, .rings, .ports, .plan, .out, .ringCtl]
  | .calStart _ => [.cur, .dev, .rings, .ports, .plan, .out, .ringCtl]
  | .calStop _ => [.cur, .dev, .rings, .ports, .plan, .out, .ringCtl]
  | .magRelay _ => [.cur, .rings, .ports, .plan, .mag, .out, .ringCtl]
  | .configCommit _ => [.cur, .cfg, .dev, .rings, .ports, .plan, .svc, .out, .units, .log, .ringCtl]
  | .configClear _ => [.cur, .dev, .rings, .ports, .out, .ringCtl]
  | .configFallback _ => [.cur, .cfg, .dev, .rings, .ports, .out, .ringCtl]
  | .configDiscard _ => [.cur, .cfg, .rings, .ports, .out, .ringCtl]
  | .timeStepAccept _ => [.cur, .rings, .ports, .time, .out, .ringCtl]
  | .timeSet _ => [.cur, .rings, .ports, .time, .out, .ringCtl]
  | .settingsPost _ => [.cur, .rings, .ports, .link, .out, .ringCtl]
  | .sensorReg _ => [.cur, .rings, .ports, .plan, .link, .out, .ringCtl]
  | .laneSwap _ => [.cur, .rings, .ports, .link, .out, .ringCtl]
  | .magRelease _ => [.cur, .rings, .ports, .plan, .mag, .out, .ringCtl]
  | .magFormat _ => [.cur, .rings, .ports, .mag, .out, .free, .ringCtl]
  | .magRepair _ => [.cur, .rings, .ports, .mag, .out, .ringCtl]
  | .magSanitize _ => [.cur, .rings, .ports, .mag, .out, .ringCtl]
  | .magRead _ => [.cur, .rings, .ports, .mag, .out, .ringCtl]
  | .zeroize _ => [.cur, .cfg, .dev, .rings, .ports, .time, .plan, .link, .store, .takes, .mover, .mag, .svc, .sec, .motion, .out,
      .mode, .rigs, .active, .ownerKeys, .zeroizeCnt, .units, .log, .ringCtl]
  | .provisionBegin _ => [.cur, .dev, .rings, .ports, .out, .mode, .ringCtl]
  | .provisionClose _ => [.cur, .dev, .rings, .ports, .plan, .sec, .out, .mode, .ownerKeys, .ringCtl]
  | .secAuthBegin _ => [.cur, .rings, .ports, .sec, .out, .free, .ringCtl]
  | .secAuthProve _ => [.cur, .rings, .ports, .svc, .sec, .out, .log, .ringCtl]
  | .secLogout _ => [.cur, .rings, .ports, .out, .ringCtl]
  | .secCoEnrol _ => [.cur, .rings, .ports, .sec, .out, .credentials, .ringCtl]
  | .secKeyReplace _ => [.cur, .rings, .ports, .sec, .out, .credentials, .ringCtl]
  | .secEcdhBegin _ => [.cur, .rings, .ports, .sec, .out, .free, .ringCtl]
  | .secOwnerSet _ => [.cur, .rings, .ports, .sec, .out, .ownerKeys, .ringCtl]
  | .secIdentityGen _ => [.cur, .rings, .ports, .sec, .out, .free, .ownerKeys, .ringCtl]
  | .secGetIdentity _ => [.cur, .rings, .ports, .out, .ringCtl]
  | .secTakeKey _ => [.cur, .rings, .ports, .out, .ringCtl]
  | .secAttest _ => [.cur, .rings, .ports, .out, .ringCtl]
  | .secFwInstall _ => [.cur, .rings, .ports, .svc, .sec, .out, .firmware, .log, .ringCtl]
  | .secSelftest _ _ => [.cur, .cfg, .dev, .rings, .ports, .time, .plan, .link, .store, .takes, .mover, .mag, .svc, .obj, .sec,
      .motion, .ckpt, .hbm, .out, .mode, .rigs, .steward, .active, .ownerKeys, .stopped, .units, .log, .tickNum, .deviceTime, .clk,
      .heap, .ringCtl]
  | .unitDrain _ => [.cur, .rings, .ports, .plan, .store, .svc, .out, .ringCtl]
  | .unitTest _ => [.cur, .rings, .ports, .link, .svc, .motion, .out, .units, .log, .ringCtl]
  | .unitReturn _ => [.cur, .rings, .ports, .mag, .svc, .out, .ringCtl]
  | .unitRetire _ => [.cur, .rings, .ports, .svc, .out, .units, .retired, .log, .ringCtl]
  | .dlvFrame _ => [.cur, .rings, .ports, .store, .mover, .out, .ringCtl]
  | .dlvGather _ => [.cur, .rings, .ports, .store, .mover, .out, .ringCtl]
  | .doorbellWrite _ _ _ => [.cur, .rings, .ports, .out, .ringCtl]
  | .ringEnable _ _ _ => [.cur, .cfg, .dev, .rings, .ports, .time, .plan, .link, .store, .takes, .mover, .svc, .obj, .sec, .motion,
      .out, .free, .steward, .log, .heap, .ringCtl]
  | .ringAbort _ _ _ => [.cur, .cfg, .dev, .rings, .ports, .time, .plan, .link, .store, .takes, .mover, .svc, .obj, .sec, .motion,
      .out, .free, .steward, .log, .heap, .ringCtl]
  | .ringResume _ _ _ => [.cur, .cfg, .dev, .rings, .ports, .time, .plan, .link, .store, .takes, .mover, .svc, .obj, .sec, .motion,
      .out, .free, .steward, .log, .heap, .ringCtl]
  | .stagedRecordWrite _ => [.cur, .rings, .ports, .out]
  | .ringBusError _ _ _ => [.cur, .rings, .ports, .link, .mag, .out, .ringCtl]
  | .claim _ => [.cur, .cfg, .dev, .rings, .ports, .time, .plan, .link, .store, .takes, .mover, .svc, .obj, .sec, .motion, .out, .free,
      .steward, .log, .heap, .ringCtl]
  | .release _ => [.cur, .cfg, .dev, .rings, .ports, .time, .plan, .link, .store, .takes, .mover, .svc, .obj, .sec, .motion, .out,
      .free, .steward, .log, .heap, .ringCtl]
  | .heartbeat _ => [.cur, .cfg, .dev, .rings, .ports, .time, .plan, .link, .store, .takes, .mover, .svc, .obj, .sec, .motion, .out,
      .free, .steward, .log, .heap, .ringCtl]
  | .portLivenessExpiry _ => [.dev]
  | .retrain _ _ _ => [.cur, .cfg, .dev, .rings, .ports, .time, .plan, .link, .store, .takes, .mover, .svc, .obj, .sec, .motion, .out,
      .free, .steward, .log, .heap, .ringCtl]
  | .injectionGo _ _ _ => [.cur, .cfg, .dev, .rings, .ports, .time, .plan, .link, .store, .takes, .mover, .svc, .obj, .sec, .motion,
      .out, .free, .steward, .log, .heap, .ringCtl]
  | .injectionStop _ _ _ => [.cur, .cfg, .dev, .rings, .ports, .time, .plan, .link, .store, .takes, .mover, .svc, .obj, .sec, .motion,
      .out, .free, .steward, .log, .heap, .ringCtl]
  | .plnResSelWrite _ _ => [.cur, .cfg, .dev, .rings, .ports, .time, .plan, .link, .store, .takes, .mover, .svc, .obj, .sec, .motion,
      .out, .free, .steward, .log, .heap, .ringCtl]
  | .storeFrSelWrite _ _ => [.cur, .cfg, .dev, .rings, .ports, .time, .plan, .link, .store, .takes, .mover, .svc, .obj, .sec, .motion,
      .out, .free, .steward, .log, .heap, .ringCtl]
  | .cfgPeekAddrWrite _ _ => [.cur, .cfg, .dev, .rings, .ports, .time, .plan, .link, .store, .takes, .mover, .svc, .obj, .sec, .motion,
      .out, .free, .steward, .log, .heap, .ringCtl]
  | .tobjDirDigestWrite _ _ => [.cur, .cfg, .dev, .rings, .ports, .time, .plan, .link, .store, .takes, .mover, .svc, .obj, .sec,
      .motion, .out, .free, .steward, .log, .heap, .ringCtl]
  | .svcTelemSelWrite _ _ => [.cur, .cfg, .dev, .rings, .ports, .time, .plan, .link, .store, .takes, .mover, .svc, .obj, .sec, .motion,
      .out, .free, .steward, .log, .heap, .ringCtl]
  | .svcLogSelWrite _ _ => [.cur, .cfg, .dev, .rings, .ports, .time, .plan, .link, .store, .takes, .mover, .svc, .obj, .sec, .motion,
      .out, .free, .steward, .log, .heap, .ringCtl]
  | .tobjAlloc _ => [.cur, .cfg, .dev, .rings, .ports, .time, .plan, .link, .store, .takes, .mover, .svc, .obj, .sec, .motion, .out,
      .free, .steward, .log, .heap, .ringCtl]
  | .tobjSeal _ => [.cur, .cfg, .dev, .rings, .ports, .time, .plan, .link, .store, .takes, .mover, .svc, .obj, .sec, .motion, .out,
      .free, .steward, .log, .heap, .ringCtl]
  | .tobjFree _ => [.cur, .cfg, .dev, .rings, .ports, .time, .plan, .link, .store, .takes, .mover, .svc, .obj, .sec, .motion, .out,
      .free, .steward, .log, .heap, .ringCtl]
  | .svcGo _ _ _ => [.cur, .cfg, .dev, .rings, .ports, .time, .plan, .link, .store, .takes, .mover, .svc, .obj, .sec, .motion, .out,
      .free, .steward, .log, .heap, .ringCtl]
  | .svcAbort _ _ _ => [.cur, .cfg, .dev, .rings, .ports, .time, .plan, .link, .store, .takes, .mover, .svc, .obj, .sec, .motion, .out,
      .free, .steward, .log, .heap, .ringCtl]
  | .svcTransferStart _ => [.cur, .plan, .mover, .obj]
  | .svcTransferDone _ _ => [.cur, .plan, .mover, .obj, .heap]
  | .timeSnapLinLoRead _ => [.cur, .ports, .svc, .out]
  | .mchPosLoRead _ _ => [.cur, .ports, .svc, .out]
  | .prbTimeLoRead _ _ => [.cur, .ports, .svc, .out]
  | .regPairLoRead _ _ _ => [.cur, .ports, .svc, .out]
  | .regPairLoWrite _ _ _ => [.cur, .cfg, .dev, .rings, .ports, .time, .plan, .link, .store, .takes, .mover, .svc, .obj, .sec, .motion,
      .out, .free, .steward, .log, .heap, .ringCtl]
  | .regPairHiWrite _ _ _ => [.cur, .cfg, .dev, .rings, .ports, .time, .plan, .link, .store, .takes, .mover, .svc, .obj, .sec, .motion,
      .out, .free, .steward, .log, .heap, .ringCtl]
  | .rcRegisterRead _ _ _ => [.cur, .ports, .svc, .out]
  | .accessStatusRead _ => [.cur, .ports, .svc, .out]
  | .aliasWrite _ _ _ => [.cur, .cfg, .dev, .rings, .ports, .time, .plan, .link, .store, .takes, .mover, .svc, .obj, .sec, .motion,
      .out, .free, .steward, .log, .heap, .ringCtl]
  | .aliasRead _ _ _ => [.cur, .ports, .svc, .out]
  | .tcmpTargetHiWrite _ _ _ => [.cur, .cfg, .dev, .rings, .ports, .time, .plan, .link, .store, .takes, .mover, .svc, .obj, .sec,
      .motion, .out, .free, .steward, .log, .heap, .ringCtl]
  | .cmpTargetHiWrite _ _ _ => [.cur, .cfg, .dev, .rings, .ports, .time, .plan, .link, .store, .takes, .mover, .svc, .obj, .sec,
      .motion, .out, .free, .steward, .log, .heap, .ringCtl]
  | .cmpEnable _ _ _ => [.cur, .cfg, .dev, .rings, .ports, .time, .plan, .link, .store, .takes, .mover, .svc, .obj, .sec, .motion,
      .out, .free, .steward, .log, .heap, .ringCtl]
  | .mchSetPosHiWrite _ _ _ => [.cur, .cfg, .dev, .rings, .ports, .time, .plan, .link, .store, .takes, .mover, .svc, .obj, .sec,
      .motion, .out, .free, .steward, .log, .heap, .ringCtl]
  | .probeValidClear _ _ => [.cur, .cfg, .dev, .rings, .ports, .time, .plan, .link, .store, .takes, .mover, .svc, .obj, .sec, .motion,
      .out, .free, .steward, .log, .heap, .ringCtl]
  | .msixUnmask _ _ _ _ => [.ports, .out]
  | .registerWrite _ _ _ _ => [.cur, .cfg, .dev, .rings, .ports, .time, .plan, .link, .store, .takes, .mover, .svc, .obj, .sec,
      .motion, .out, .free, .steward, .log, .heap, .ringCtl]
  | .wakeFail _ _ _ => [.ports, .out]
  | .svcPortRead _ => [.cur, .ports, .svc, .out]
  | .svcPortImage _ => [.sec]
  | .samplePreload _ => [.svc, .out, .free]
  | .unlockChallenge _ => [.cur, .cfg, .dev, .rings, .ports, .time, .plan, .link, .store, .takes, .mover, .mag, .svc, .sec, .motion,
      .out, .mode, .rigs, .active, .ownerKeys, .zeroizeCnt, .units, .log, .ringCtl]
  | .internalResetRelease _ _ => [.cur, .svc, .sec, .stopped]
  | .bootStageEnd _ _ _ _ => [.cur, .cfg, .dev, .rings, .ports, .plan, .store, .svc, .sec, .out, .mode, .ownerKeys, .svn, .firmware,
      .units, .log]
  | .zeroizePin _ => [.cur, .cfg, .dev, .rings, .ports, .time, .plan, .link, .store, .takes, .mover, .mag, .svc, .sec, .motion, .out,
      .mode, .rigs, .active, .ownerKeys, .zeroizeCnt, .units, .log, .ringCtl]
  | .tamperInput _ _ => [.cur, .cfg, .dev, .rings, .ports, .time, .plan, .link, .store, .takes, .mover, .mag, .svc, .sec, .motion,
      .out, .mode, .rigs, .active, .ownerKeys, .zeroizeCnt, .units, .log, .ringCtl]
  | .pxPerstRelease _ => [.ports]
  | .hostLinkUp _ _ _ _ _ _ _ => [.cur, .rings, .ports, .out]
  | .hostPortReset _ _ => [.cur, .cfg, .dev, .rings, .ports, .plan, .store, .takes, .mover, .svc, .out, .steward, .log, .ringCtl]
  | .d3hotEntry _ => [.dev, .ports]
  | .widthChange _ _ _ _ => [.cur, .rings, .ports, .out]
  | .cplTimeout _ _ _ _ => [.cur, .rings, .ports, .plan, .link, .store, .mover, .mag, .out, .ringCtl]
  | .ideIntegrityFail _ _ => [.ports]
  | .ideKm _ _ _ _ _ => [.ports]
  | .rigModeChange _ => [.cur, .cfg, .dev, .rings, .ports, .time, .plan, .link, .store, .takes, .mag, .svc, .ckpt, .out, .rigs, .log,
      .ringCtl]
  | .ptpMessage _ _ => [.cur, .rings, .ports, .time, .out, .free]
  | .ptpSourceLost _ => [.cur, .rings, .ports, .time, .out]
  | .refLost _ => [.cur, .rings, .ports, .time, .out]
  | .ltcInFrame _ _ _ _ _ _ => [.time, .free]
  | .tcmpFire _ => [.cur, .rings, .ports, .time, .mover, .out]
  | .triggerSend _ => [.cur, .rings, .ports, .time, .plan, .link, .store, .takes, .svc, .out, .log]
  | .settingsSend _ => [.cur, .rings, .ports, .plan, .link, .out]
  | .beaconSend _ _ _ => [.plan, .link, .out]
  | .creditSend _ => [.plan, .link, .out]
  | .credit _ _ => [.plan, .link, .out]
  | .beaconEcho _ _ _ => [.cur, .cfg, .dev, .rings, .ports, .link, .store, .out]
  | .capability _ _ => [.cur, .cfg, .dev, .rings, .ports, .link, .store, .out]
  | .triggerNak _ _ => [.cur, .cfg, .dev, .rings, .ports, .link, .store, .takes, .mover, .svc, .out, .log]
  | .settingsAck _ _ => [.cur, .rings, .ports, .link, .out]
  | .regCompletion _ _ => [.cur, .rings, .ports, .link, .out, .ringCtl]
  | .regTimeout _ => [.cur, .rings, .ports, .link, .out, .ringCtl]
  | .frameStart _ _ => [.cur, .dev, .rings, .ports, .link, .store, .takes, .mover, .svc, .out, .log]
  | .line _ _ => [.cur, .cfg, .dev, .rings, .ports, .plan, .link, .store, .takes, .mover, .svc, .out, .log]
  | .frameEnd _ _ => [.cur, .dev, .rings, .ports, .link, .store, .takes, .mover, .svc, .out, .log]
  | .canaryFsTimeout _ => [.cur, .cfg, .dev, .rings, .ports, .store, .takes, .mover, .svc, .out, .log]
  | .canaryFeTimeout _ => [.cur, .cfg, .dev, .rings, .ports, .store, .out]
  | .puLineProcess _ => [.cur, .plan, .store, .hbm]
  | .frameClose _ => [.cur, .cfg, .dev, .rings, .ports, .store, .takes, .mover, .svc, .hbm, .out, .log]
  | .pageCacheRefill _ => [.cur, .cfg, .dev, .rings, .ports, .plan, .store, .mag, .out]
  | .spillPageOutDone _ => [.cur, .store, .mover]
  | .spillFail _ => [.cur, .rings, .ports, .store, .mover, .out]
  | .spillPageIn _ _ => [.cur, .cfg, .dev, .rings, .ports, .plan, .store, .takes, .mover, .mag, .svc, .hbm, .out, .log]
  | .eccCorrected _ _ _ => [.cur, .rings, .ports, .store, .svc, .out]
  | .eccUncorrectable _ _ _ => [.cur, .rings, .ports, .store, .svc, .out, .log]
  | .rowRepair _ => [.cur, .rings, .ports, .store, .svc, .out, .log]
  | .pageDigest _ => [.cur, .plan, .store]
  | .frameSeal _ => [.cur, .rings, .ports, .store, .takes, .mover, .svc, .out, .log]
  | .framePlace _ => [.cur, .dev, .rings, .ports, .plan, .store, .takes, .mag, .svc, .out, .log]
  | .chunkWrite _ => [.cur, .plan, .mag, .out]
  | .checkpoint _ => [.cur, .rings, .ports, .plan, .mag, .out]
  | .driveCommandComplete _ _ _ => [.cur, .cfg, .dev, .rings, .ports, .plan, .store, .takes, .mag, .svc, .out, .units, .log, .ringCtl]
  | .driveCommandTimeout _ => [.cur, .cfg, .dev, .rings, .ports, .mag, .svc, .out, .units, .log]
  | .driveLinkDown _ => [.cur, .cfg, .dev, .rings, .ports, .mag, .svc, .out, .units, .log, .ringCtl]
  | .controllerFatalStatus _ => [.cur, .cfg, .dev, .rings, .ports, .mag, .svc, .out, .units, .log]
  | .smartPoll _ _ _ _ => [.cur, .cfg, .dev, .rings, .ports, .mag, .svc, .out, .units, .log]
  | .driveFailure _ => [.cur, .dev, .rings, .ports, .plan, .store, .takes, .mag, .svc, .out, .log, .ringCtl]
  | .relayBoundary _ => [.cur, .rings, .ports, .mag, .out, .ringCtl]
  | .segmentClose _ => [.cur, .rings, .ports, .plan, .mag, .out]
  | .takeClose _ => [.cur, .rings, .ports, .plan, .mag, .out]
  | .unsealedEnd _ => [.cur, .rings, .ports, .plan, .mag, .out]
  | .bayInsert _ _ => [.cur, .rings, .ports, .mag, .out]
  | .identifyTimeout _ => [.cur, .rings, .ports, .mag, .out, .ringCtl]
  | .surprise _ => [.cur, .cfg, .dev, .rings, .ports, .plan, .store, .takes, .mag, .svc, .out, .units, .log, .ringCtl]
  | .ejectReq _ => [.cur, .rings, .ports, .plan, .mag, .out, .ringCtl]
  | .bayRelease _ => [.cur, .rings, .ports, .mag, .out, .ringCtl]
  | .delivery _ _ => [.cur, .rings, .ports, .store, .takes, .mover, .svc, .out, .log, .ringCtl]
  | .moverBusError _ _ _ => [.cur, .rings, .ports, .plan, .store, .mover, .out, .ringCtl]
  | .positionCount _ _ _ => [.cur, .dev, .rings, .ports, .time, .plan, .link, .store, .takes, .svc, .sec, .motion, .out, .free, .floor,
      .log]
  | .indexEvent _ _ => [.cur, .rings, .ports, .motion, .out, .free]
  | .serialRead _ _ _ _ _ _ _ _ => [.cur, .dev, .rings, .ports, .time, .plan, .link, .store, .takes, .svc, .sec, .motion, .out, .free,
      .floor, .log]
  | .sincosSample _ _ _ => [.cur, .dev, .rings, .ports, .time, .plan, .link, .store, .takes, .svc, .sec, .motion, .out, .free, .floor,
      .log]
  | .speedStill _ => [.motion]
  | .echoStep _ => [.motion, .out]
  | .probeEdge _ _ => [.cur, .store, .motion]
  | .trigInEdge _ _ => [.cur, .dev, .rings, .ports, .time, .plan, .link, .store, .takes, .svc, .sec, .out, .floor, .log]
  | .motionSample _ => [.store, .motion]
  | .codewordReceive _ _ => [.cur, .rings, .ports, .link, .out, .free]
  | .alignmentComma _ _ _ => [.cur, .cfg, .dev, .rings, .ports, .link, .out, .ringCtl]
  | .lockLost _ => [.cur, .rings, .ports, .link, .out]
  | .relockTimeout _ => [.cur, .cfg, .dev, .rings, .ports, .link, .out]
  | .trainingFrame _ _ _ => [.cur, .cfg, .dev, .rings, .ports, .link, .out]
  | .trainTimeout _ => [.cur, .rings, .ports, .link, .out]
  | .trainRetry _ => [.cur, .cfg, .dev, .rings, .ports, .link, .out]
  | .wakeBurst _ => [.cur, .cfg, .dev, .rings, .ports, .link, .out]
  | .laneFailure _ _ => [.cur, .cfg, .dev, .rings, .ports, .link, .out]
  | .swapDone _ => [.cur, .cfg, .dev, .rings, .ports, .link, .out, .ringCtl]
  | .swapPropose _ _ => [.link, .out]
  | .swapAgree _ _ => [.link, .out]
  | .swapRefuse _ _ => [.cur, .cfg, .dev, .rings, .ports, .link, .out, .ringCtl]
  | .swapRequest _ _ => [.link, .out]
  | .restripeAck _ _ => [.link]
  | .eidleAck _ _ => [.link, .out]
  | .loopbackAck _ _ => [.link]
  | .lockstepMismatch _ => [.cur, .cfg, .dev, .rings, .ports, .time, .plan, .link, .store, .takes, .mover, .mag, .svc, .obj, .sec,
      .motion, .ckpt, .hbm, .out, .mode, .rigs, .steward, .active, .ownerKeys, .zeroizeCnt, .stopped, .units, .log, .tickNum,
      .deviceTime, .clk, .heap, .ringCtl]
  | .unitFailure _ _ _ => [.cur, .cfg, .dev, .rings, .ports, .time, .plan, .link, .store, .takes, .mover, .mag, .svc, .obj, .sec,
      .motion, .ckpt, .hbm, .out, .mode, .rigs, .steward, .active, .ownerKeys, .stopped, .units, .log, .tickNum, .deviceTime, .clk,
      .heap, .ringCtl]
  | .spareReplacement _ => [.cur, .cfg, .dev, .rings, .ports, .time, .plan, .store, .takes, .mover, .mag, .svc, .ckpt, .hbm, .out,
      .units, .log, .ringCtl]
  | .drainComplete _ _ => [.cur, .rings, .ports, .svc, .out, .units, .log, .ringCtl]
  | .testComplete _ _ _ _ _ => [.cur, .cfg, .dev, .rings, .ports, .svc, .out, .units, .retired, .log, .ringCtl]
  | .spareRotation _ _ _ => [.cur, .cfg, .dev, .rings, .ports, .time, .plan, .link, .store, .takes, .mover, .mag, .svc, .obj, .sec,
      .motion, .ckpt, .hbm, .out, .mode, .rigs, .steward, .active, .ownerKeys, .stopped, .units, .log, .tickNum, .deviceTime, .clk,
      .heap, .ringCtl]
  | .spareKat _ => [.cur, .cfg, .dev, .rings, .ports, .time, .plan, .link, .store, .takes, .mover, .mag, .svc, .obj, .sec, .motion,
      .ckpt, .hbm, .out, .mode, .rigs, .steward, .active, .ownerKeys, .stopped, .units, .log, .tickNum, .deviceTime, .clk, .heap,
      .ringCtl]
  | .entropyRetest _ => [.sec]
  | .thermalSample _ => [.cur, .rings, .ports, .svc, .out, .log]
  | .lockGained _ _ => [.cur, .rings, .ports, .link, .out]
  | .prbsCheckerLock _ _ => [.cur, .link]
  | .quadErr _ => [.cur, .dev, .rings, .ports, .time, .plan, .link, .store, .takes, .svc, .sec, .motion, .out, .free, .floor, .log]
  | .speedDecay _ => [.motion]
  | .ejectRelease _ => [.mag]
  | .driveLinkUp _ _ _ => [.cur, .rings, .ports, .mag, .out, .ringCtl]
  | .controllerReady _ => [.cur, .mag, .out]
  | .tpLinkState _ _ => [.cur, .time]
  | .tpMacFrame _ _ _ _ => [.cur, .out]
  | .aspmL1Entry _ => [.ports]
  | .spdmRequest _ _ => [.ports, .out]
  | .flaggedRegisterRead _ _ _ => [.cur, .ports, .svc, .out]
  | .shiftChange => [.cur, .cfg, .dev, .rings, .ports, .out, .steward]
  | .tobjSealDone => [.cur, .obj]
  | .clockRegate => [.svc]
  | .svcPortStatus => [.out]
  | .extest => [.svc]
  | .idcode => [.svc, .out]
  | .highz => [.svc]
  | .clamp => [.svc]
  | .extestPulse => [.svc]
  | .extestTrain => [.svc]
  | .bypass => [.svc]
  | .porstAssert => [.cur, .cfg, .dev, .rings, .ports, .time, .plan, .link, .store, .takes, .mover, .mag, .svc, .obj, .sec, .motion,
      .ckpt, .hbm, .mode, .rigs, .steward, .active, .ownerKeys, .stopped, .units, .log, .tickNum, .deviceTime, .clk, .heap, .ringCtl]
  | .supplyDrop => [.cur, .cfg, .dev, .rings, .ports, .time, .plan, .link, .store, .takes, .mover, .mag, .svc, .obj, .sec, .motion,
      .ckpt, .hbm, .mode, .rigs, .steward, .active, .ownerKeys, .stopped, .units, .log, .tickNum, .deviceTime, .clk, .heap, .ringCtl]
  | .bootImageTimeout => [.cur, .out]
  | .firmwareReadyTimeout => [.cur, .out]
  | .tickBoundary => [.cur, .cfg, .dev, .rings, .ports, .time, .plan, .store, .takes, .mover, .mag, .svc, .ckpt, .hbm, .out, .units,
      .log, .tickNum, .ringCtl]
  | .unitStateBoundary => [.cur, .cfg, .dev, .rings, .ports, .time, .plan, .link, .store, .takes, .mover, .mag, .svc, .motion, .ckpt,
      .hbm, .out, .units, .log, .ringCtl]
  | .commitBoundary => [.cur, .cfg, .dev, .rings, .ports, .time, .plan, .link, .store, .takes, .mover, .mag, .svc, .motion, .ckpt,
      .hbm, .out, .mode, .active, .units, .log, .ringCtl]
  | .configFallbackBoundary => [.cur, .cfg, .dev, .rings, .ports, .time, .plan, .link, .store, .takes, .mover, .mag, .svc, .motion,
      .ckpt, .hbm, .out, .mode, .active, .units, .log, .ringCtl]
  | .configClearBoundary => [.cur, .cfg, .dev, .rings, .ports, .time, .plan, .link, .store, .takes, .mover, .mag, .svc, .motion, .ckpt,
      .hbm, .out, .mode, .rigs, .active, .units, .log, .ringCtl]
  | .probationEnd => [.cur, .cfg, .rings, .ports, .ckpt, .out, .active]
  | .ppsInEdge => [.cur, .rings, .ports, .time, .out, .free]
  | .ppsInLost => [.cur, .rings, .ports, .time, .out]
  | .clk10mLost => [.cur, .time]
  | .refInEdge => [.cur, .rings, .ports, .time, .out, .free]
  | .ltcInLost => [.cur, .time]
  | .timeStepFix => [.cur, .rings, .ports, .time, .plan, .link, .store, .out, .ringCtl]
  | .timeStepApply => [.cur, .rings, .ports, .time, .store, .mover, .motion, .out, .deviceTime, .ringCtl]
  | .ppsOutPulse => [.time, .out]
  | .ltcOutFrame => [.time, .out]
  | .pagesFree => [.store]
  | .spillPageOut => [.plan, .store, .mover]
  | .lockstepResume => [.cur, .cfg, .dev, .rings, .ports, .time, .plan, .link, .store, .takes, .mover, .svc, .obj, .sec, .motion,
      .ckpt, .out, .free, .steward, .log, .heap, .ringCtl]
  | .entropyHealthFail => [.cur, .rings, .ports, .svc, .sec, .out, .log]
  | .lockoutExpiry => [.sec]
  | .thermtrip => [.svc, .out, .stopped]
  | .pulseEnd => [.time, .out]

/-- The commands that do something while the device is held in reset, halted or tripped: the pins, JTAG, and reads, which a halted
device still answers in two windows (R563, R609). -/
def reachesHeld (i : Instr) : Bool :=
  match i with
  | .zeroizePin _ | .tamperInput _ _ | .unlockChallenge _ | .porstAssert | .supplyDrop | .internalResetRelease _ _ => true
  | .extest | .idcode | .samplePreload _ | .highz | .clamp | .extestPulse | .extestTrain | .bypass => true
  | .timeSnapLinLoRead _ | .mchPosLoRead _ _ | .prbTimeLoRead _ _ | .regPairLoRead _ _ _ | .rcRegisterRead _ _ _ => true
  | .accessStatusRead _ | .aliasRead _ _ _ | .flaggedRegisterRead _ _ _ | .svcPortRead _ => true
  | _ => false

end Sys2Proof.Machine
end

