-- ==== Sys2Proof/WellFormed.lean ====
section
/-! DEFINITION. Well-formed commands: every operand names a thing that the P3236 has, and every record has the shape the spec gives it. -/

namespace Sys2Proof

/-- A descriptor is 64 bytes, of a ring that exists, with at most 16 extension blocks read (R389, R400, R402). -/
def descOk (d : Desc) : Bool :=
  decide (d.ring < 1024) && decide (d.ops.length = 56) && decide (d.blocks ≤ 17) && decide (d.ext.length = 56 * min d.blocks 16)

/-- A packet's header fields fit their places (R162). -/
def pktOk (p : Pkt) : Bool :=
  decide (p.ptype < 256) && decide (p.vc < 4) && decide (p.slot < 4) && decide (p.length < 2 ^ 24) && decide (p.vcPos < 2 ^ 24)
    && decide (p.fields.length = 8)

/-- A lane-management message's fields fit their places (R159). -/
def laneMsgOk (m : LaneMsg) : Bool :=
  decide (m.opcode < 256) && decide (m.subject < 256) && decide (m.seq < 256) && decide (m.arg < 256) && decide (m.block < 65536)
    && decide (m.mask < 256)

/-- PAM4 levels, so many of them (R116). -/
def levelsOk (n : Nat) (l : List Nat) : Bool := decide (l.length = n) && l.all (fun x => decide (x < 4))

/-- A BAR0 offset (R11). -/
def offsetOk (off : Nat) : Bool := decide (off < 2 ^ 26)

/-- Bytes of an access. -/
def accessOk (n : Nat) : Bool := decide (1 ≤ n) && decide (n ≤ 4096)

/-- A unit of a kind, by R550. -/
def unitOk (kind i : Nat) : Bool :=
  match kind with
  | 0x04 => decide (i < 36) | 0x07 => decide (i < 16) | 0x0B => decide (i < 2) | 0x0C => decide (i < 16) | 0x0D => decide (i < 18)
  | 0x0E => decide (i < 64) | 0x0F => decide (i < 128) | 0x10 => decide (i < 24) | 0x11 => decide (i < 32) | 0x12 => decide (i < 16)
  | _ => false

/-- A frame page of a pseudo-channel: page P lies on pseudo-channel P mod 128 (R234). -/
def pageOk (c : Nat) (page : Option Nat) : Bool :=
  match page with
  | some p => decide (p < 2228224) && decide (p % 128 = c)
  | none => true

/-- A command is well-formed. -/
def Instr.wf (i : Instr) : Bool :=
  match i with
  | .nop d => descOk d
  | .rigStart d => descOk d
  | .rigStop d => descOk d
  | .rigArm d => descOk d
  | .rigDisarm d => descOk d
  | .takeStart d => descOk d
  | .takeStop d => descOk d
  | .burstStart d => descOk d
  | .burstStop d => descOk d
  | .offloadAbort d => descOk d
  | .calStart d => descOk d
  | .calStop d => descOk d
  | .magRelay d => descOk d
  | .configCommit d => descOk d
  | .configClear d => descOk d
  | .configFallback d => descOk d
  | .configDiscard d => descOk d
  | .timeStepAccept d => descOk d
  | .timeSet d => descOk d
  | .settingsPost d => descOk d
  | .sensorReg d => descOk d
  | .laneSwap d => descOk d
  | .magRelease d => descOk d
  | .magFormat d => descOk d
  | .magRepair d => descOk d
  | .magSanitize d => descOk d
  | .magRead d => descOk d
  | .zeroize d => descOk d
  | .provisionBegin d => descOk d
  | .provisionClose d => descOk d
  | .secAuthBegin d => descOk d
  | .secAuthProve d => descOk d
  | .secLogout d => descOk d
  | .secCoEnrol d => descOk d
  | .secKeyReplace d => descOk d
  | .secEcdhBegin d => descOk d
  | .secOwnerSet d => descOk d
  | .secIdentityGen d => descOk d
  | .secGetIdentity d => descOk d
  | .secTakeKey d => descOk d
  | .secAttest d => descOk d
  | .secFwInstall d => descOk d
  | .secSelftest d _ => descOk d
  | .unitDrain d => descOk d
  | .unitTest d => descOk d
  | .unitReturn d => descOk d
  | .unitRetire d => descOk d
  | .dlvFrame d => descOk d
  | .dlvGather d => descOk d
  | .doorbellWrite p n _ => decide (p < 4) && decide (n < 1024)
  | .ringEnable p n _ => decide (p < 4) && decide (n < 1024)
  | .ringAbort p n _ => decide (p < 4) && decide (n < 1024)
  | .ringResume p n _ => decide (p < 4) && decide (n < 1024)
  | .stagedRecordWrite n => decide (n < 1024)
  | .ringBusError n _ _ => decide (n < 1024)
  | .claim p => decide (p < 4)
  | .release p => decide (p < 4)
  | .heartbeat p => decide (p < 4)
  | .portLivenessExpiry p => decide (p < 4)
  | .retrain p n _ => decide (p < 4) && decide (n < 36)
  | .injectionGo p n _ => decide (p < 4) && decide (n < 36)
  | .injectionStop p n _ => decide (p < 4) && decide (n < 36)
  | .plnResSelWrite p _ => decide (p < 4)
  | .storeFrSelWrite p _ => decide (p < 4)
  | .cfgPeekAddrWrite p _ => decide (p < 4)
  | .tobjDirDigestWrite p i => decide (p < 4) && decide (i < 4096)
  | .svcTelemSelWrite p _ => decide (p < 4)
  | .svcLogSelWrite p _ => decide (p < 4)
  | .tobjAlloc p => decide (p < 4)
  | .tobjSeal p => decide (p < 4)
  | .tobjFree p => decide (p < 4)
  | .svcGo p k _ => decide (p < 4) && decide (k < 8)
  | .svcAbort p k _ => decide (p < 4) && decide (k < 8)
  | .svcTransferStart k => decide (k < 8)
  | .svcTransferDone k _ => decide (k < 8)
  | .timeSnapLinLoRead p => decide (p < 4)
  | .mchPosLoRead p ch => decide (p < 4) && decide (ch < 24)
  | .prbTimeLoRead p k => decide (p < 4) && decide (k < 8)
  | .regPairLoRead p off n => decide (p < 4) && offsetOk off && accessOk n
  | .regPairLoWrite p off _ => decide (p < 4) && offsetOk off
  | .regPairHiWrite p off _ => decide (p < 4) && offsetOk off
  | .rcRegisterRead p off n => decide (p < 4) && offsetOk off && accessOk n
  | .accessStatusRead p => decide (p < 4)
  | .aliasWrite p off _ => decide (p < 4) && offsetOk off
  | .aliasRead p off n => decide (p < 4) && offsetOk off && accessOk n
  | .tcmpTargetHiWrite p u _ => decide (p < 4) && decide (u < 16)
  | .cmpTargetHiWrite p u _ => decide (p < 4) && decide (u < 32)
  | .cmpEnable p u _ => decide (p < 4) && decide (u < 32)
  | .mchSetPosHiWrite p ch _ => decide (p < 4) && decide (ch < 24)
  | .probeValidClear p k => decide (p < 4) && decide (k < 8)
  | .msixUnmask p vec _ _ => decide (p < 4) && (match vec with | some v => v < 2048 | none => true)
  | .registerWrite p off n _ => decide (p < 4) && offsetOk off && accessOk n
  | .wakeFail p off _ => decide (p < 4) && offsetOk off
  | .svcPortRead off => offsetOk off
  | .svcPortImage data => decide (data.length ≤ 4096)
  | .samplePreload _ => true
  | .unlockChallenge _ => true
  | .internalResetRelease bifurc _ => decide (bifurc < 4)
  | .bootStageEnd _ _ _ _ => true
  | .zeroizePin _ => true
  | .tamperInput i _ => decide (i < 2)
  | .pxPerstRelease p => decide (p < 4)
  | .hostLinkUp p _ _ _ _ _ _ => decide (p < 4)
  | .hostPortReset p kind => decide (p < 4) && decide (kind ≤ 4)
  | .d3hotEntry p => decide (p < 4)
  | .widthChange p _ _ _ => decide (p < 4)
  | .cplTimeout p mover ring _ => decide (p < 4) && (match mover with | some m => m < 64 | none => true) && (match ring with | some n => n < 1024 | none => true)
  | .ideIntegrityFail p n => decide (p < 4) && decide (n < 4)
  | .ideKm p n _ _ _ => decide (p < 4) && decide (n < 4)
  | .rigModeChange r => decide (r < 16)
  | .ptpMessage p m => decide (p < 2) && decide (m.ns < 4)
  | .ptpSourceLost p => decide (p < 2)
  | .refLost r => decide (r < 16)
  | .ltcInFrame hours minutes seconds frames _ _ => decide (hours < 40) && decide (minutes < 80) && decide (seconds < 80) && decide (frames < 40)
  | .tcmpFire u => decide (u < 16)
  | .triggerSend r => decide (r < 16)
  | .settingsSend l => decide (l < 32)
  | .beaconSend l _ _ => decide (l < 32)
  | .creditSend l => decide (l < 32)
  | .credit l p => decide (l < 32) && pktOk p
  | .beaconEcho l p _ => decide (l < 32) && pktOk p
  | .capability l p => decide (l < 32) && pktOk p
  | .triggerNak l p => decide (l < 32) && pktOk p
  | .settingsAck l p => decide (l < 32) && pktOk p
  | .regCompletion l p => decide (l < 32) && pktOk p
  | .regTimeout l => decide (l < 32)
  | .frameStart l p => decide (l < 32) && pktOk p
  | .line l p => decide (l < 32) && pktOk p
  | .frameEnd l p => decide (l < 32) && pktOk p
  | .canaryFsTimeout st => decide (st < 64)
  | .canaryFeTimeout st => decide (st < 64)
  | .puLineProcess u => decide (u < 16)
  | .frameClose st => decide (st < 64)
  | .pageCacheRefill st => decide (st < 64)
  | .spillPageOutDone w => decide (w < 16)
  | .spillFail w => decide (w < 16)
  | .spillPageIn w _ => decide (w < 16)
  | .eccCorrected c _ page => decide (c < 128) && pageOk c page
  | .eccUncorrectable c _ page => decide (c < 128) && pageOk c page
  | .rowRepair c => decide (c < 128)
  | .pageDigest e => decide (e < 18)
  | .frameSeal st => decide (st < 64)
  | .framePlace r => decide (r < 16)
  | .chunkWrite m => decide (m < 8)
  | .checkpoint m => decide (m < 8)
  | .driveCommandComplete slot _ _ => decide (slot < 16)
  | .driveCommandTimeout d => decide (d < 16)
  | .driveLinkDown d => decide (d < 16)
  | .controllerFatalStatus d => decide (d < 16)
  | .smartPoll d _ _ _ => decide (d < 16)
  | .driveFailure d => decide (d < 16)
  | .relayBoundary r => decide (r < 16)
  | .segmentClose m => decide (m < 8)
  | .takeClose r => decide (r < 16)
  | .unsealedEnd m => decide (m < 8)
  | .bayInsert b page => decide (b < 4) && decide (page.length = 256)
  | .identifyTimeout d => decide (d < 16)
  | .surprise b => decide (b < 4)
  | .ejectReq b => decide (b < 4)
  | .bayRelease b => decide (b < 4)
  | .delivery n _ => decide (n < 1024)
  | .moverBusError m kind _ => decide (m < 64) && decide (1 ≤ kind) && decide (kind ≤ 4)
  | .positionCount ch _ _ => decide (ch < 24)
  | .indexEvent ch _ => decide (ch < 24)
  | .serialRead ch _ _ _ _ _ _ _ => decide (ch < 24)
  | .sincosSample ch _ _ => decide (ch < 24)
  | .speedStill ch => decide (ch < 24)
  | .echoStep k => decide (k < 8)
  | .probeEdge k _ => decide (k < 8)
  | .trigInEdge k _ => decide (k < 8)
  | .motionSample r => decide (r < 16)
  | .codewordReceive n levels => decide (n < 36) && levelsOk 2720 levels
  | .alignmentComma n levels _ => decide (n < 36) && levelsOk 64 levels
  | .lockLost n => decide (n < 36)
  | .relockTimeout n => decide (n < 36)
  | .trainingFrame n _ _ => decide (n < 36)
  | .trainTimeout n => decide (n < 36)
  | .trainRetry n => decide (n < 36)
  | .wakeBurst n => decide (n < 36)
  | .laneFailure n _ => decide (n < 36)
  | .swapDone p => decide (p < 4)
  | .swapPropose n m => decide (n < 36) && laneMsgOk m
  | .swapAgree n m => decide (n < 36) && laneMsgOk m
  | .swapRefuse n m => decide (n < 36) && laneMsgOk m
  | .swapRequest n m => decide (n < 36) && laneMsgOk m
  | .restripeAck n m => decide (n < 36) && laneMsgOk m
  | .eidleAck n m => decide (n < 36) && laneMsgOk m
  | .loopbackAck n m => decide (n < 36) && laneMsgOk m
  | .lockstepMismatch u => decide (u < 6)
  | .unitFailure kind i _ => unitOk kind i
  | .spareReplacement kind => unitOk kind 0
  | .drainComplete kind i => unitOk kind i
  | .testComplete kind i _ _ _ => unitOk kind i
  | .spareRotation kind _ _ => unitOk kind 0
  | .spareKat _ => true
  | .entropyRetest _ => true
  | .thermalSample _ => true
  | .lockGained n commas => decide (n < 36) && decide (commas.length = 3) && commas.all (levelsOk 64)
  | .prbsCheckerLock n _ => decide (n < 36)
  | .quadErr ch => decide (ch < 24)
  | .speedDecay ch => decide (ch < 24)
  | .ejectRelease b => decide (b < 4)
  | .driveLinkUp d _ _ => decide (d < 16)
  | .controllerReady d => decide (d < 16)
  | .tpLinkState p _ => decide (p < 2)
  | .tpMacFrame p _ _ _ => decide (p < 2)
  | .aspmL1Entry p => decide (p < 4)
  | .spdmRequest p _ => decide (p < 4)
  | .flaggedRegisterRead p off n => decide (p < 4) && offsetOk off && accessOk n
  | .shiftChange => true
  | .tobjSealDone => true
  | .clockRegate => true
  | .svcPortStatus => true
  | .extest => true
  | .idcode => true
  | .highz => true
  | .clamp => true
  | .extestPulse => true
  | .extestTrain => true
  | .bypass => true
  | .porstAssert => true
  | .supplyDrop => true
  | .bootImageTimeout => true
  | .firmwareReadyTimeout => true
  | .tickBoundary => true
  | .unitStateBoundary => true
  | .commitBoundary => true
  | .configFallbackBoundary => true
  | .configClearBoundary => true
  | .probationEnd => true
  | .ppsInEdge => true
  | .ppsInLost => true
  | .clk10mLost => true
  | .refInEdge => true
  | .ltcInLost => true
  | .timeStepFix => true
  | .timeStepApply => true
  | .ppsOutPulse => true
  | .ltcOutFrame => true
  | .pagesFree => true
  | .spillPageOut => true
  | .lockstepResume => true
  | .entropyHealthFail => true
  | .lockoutExpiry => true
  | .thermtrip => true
  | .pulseEnd => true

end Sys2Proof
end

