-- ==== Sys2Proof/Certificates/Slice0/Obligations.lean ====
section
/-! DEFINITION. The statements for the provers. -/

open Sys2Proof Sys2Proof.Machine

/-- When a command stands at the front of the queue, step is exec of that command on the state with the rest of the queue.
(spec/95_what_each_step_holds.md, spec/opcode_table.json). -/
def Obligations.StepRunsTheFrontCommand : Prop :=
  ∀ (c : Instr) (s : State) (rest : List Instr), s.pending = c :: rest → step s = exec c { s with pending := rest }

/-- With no command waiting, step changes nothing but the time record, in which the service core's free-running clock counts one; a
device held in reset, halted or tripped does not change. DESIGN CHOICE (log entry 3): the table has no row for a clock, so step on
an empty queue is one. (R375, notes/assumptions/3.md). -/
def Obligations.EmptyQueueLetsOneClockPass : Prop :=
  ∀ s : State, s.pending = [] →
    (s.svc.stopped = none → ∃ t, step s = .next t ∧ t.time.clk = s.time.clk + 1 ∧ { t with time := s.time } = s) ∧
    (∀ h, s.svc.stopped = some h → step s = .next s)

/-- Whatever command stands at the front and whatever the state, step answers a next state, whose queue is the rest. That every
command answers a next state in every state is the model's: a command that its rules do not admit there has no effect or is
refused by a completion. (spec/95_what_each_step_holds.md, R405). -/
def Obligations.NoCommandTouchesTheQueue : Prop :=
  ∀ (c : Instr) (s : State) (rest : List Instr), s.pending = c :: rest → ∃ t, step s = .next t ∧ t.pending = rest

/-- For every command, operands and state: when exec answers a next state, every part of the state that mayChange does not list for
the command is the same as before. The parts are the records of State and, on their own, what rules protect: device mode, rig
modes, steward, configuration slots, keys, credentials, floors, firmware, units, log, tick number, device time. (R30, R34, R64,
R373, R486, R491, R500, R525, R550, R573). -/
def Obligations.EachCommandKeepsItsFrame : Prop :=
  ∀ (i : Instr) (s t : State) (p : Part), exec i s = .next t → p ∉ mayChange i → p.same s t

/-- The memories of the state after reset are in canonical form, and no command waits. (R16, R234, R535). -/
def Obligations.ResetMemoryIsCanonical : Prop :=
  Memory.wf State.reset.hbm ∧ Memory.wf State.reset.obj.heap ∧ State.reset.pending = []

/-- From every state whose frame store and table-object heap are in canonical form (addresses rise strictly, no entry equals what an
unlisted address reads as), every step that answers a next state answers one in which they are again. The canonical form is the
model's own invariant. (R234, R535). -/
def Obligations.MemoryStaysCanonical : Prop :=
  ∀ s t : State, Memory.wf s.hbm ∧ Memory.wf s.obj.heap → step s = .next t → Memory.wf t.hbm ∧ Memory.wf t.obj.heap

/-- From every state, a step leaves the SVN floor as it was or higher, keeps every output already sent, and never moves the counter of
free values back (log entry 1). (R506, R507, notes/assumptions/1.md). -/
def Obligations.FloorsAndOutputsOnlyGrow : Prop :=
  ∀ s t : State, step s = .next t → s.sec.svnFloor ≤ t.sec.svnFloor ∧ s.free ≤ t.free ∧ s.out <:+ t.out

/-- While the device is held in reset, halted after a fatal error or stopped by a thermal trip, every command other than those of the
pins and of JTAG, the release of the internal reset, and reads, changes nothing. (R563, R571, R609). -/
def Obligations.HeldDeviceIgnoresCommands : Prop :=
  ∀ (i : Instr) (s : State) (h : Stop), s.svc.stopped = some h → reachesHeld i = false → exec i s = .next s

/-- A doorbell write to a running, assigned ring by its owner stores the value in RING_DB_CNT, and changes no other ring, exactly when
the conditions of the table hold for the ring's kind; otherwise, and on a ring that is not RUNNING, no ring changes,
RING_EVENTS.DB_BAD is set and RING_DB_BAD_CNT increments, to its largest value at most. (R395). -/
def Obligations.DoorbellAcceptedOrCounted : Prop :=
  ∀ (s : State) (p n : Nat) (v : BitVec 32),
    s.svc.stopped = none → s.portTalks p = true → s.dev.mode ≠ .boot → n < 1024 → s.ringAssigned n = true → s.ringPort n = p →
    (s.ring n).aborting = false →
    let size := s.ringSize n
    let q := s.ring n
    let first := if s.ringKind n = 2 then (q.dev - v).toNat ≤ size else (v - q.dev).toNat ≤ size
    let second := (v - q.db).toNat ≤ size
    ∃ t, exec (.doorbellWrite p n v) s = .next t ∧
      (q.state = .running ∧ first ∧ second → t.ring n = { q with db := v } ∧ t.viewRing Reg.RING_DB_CNT n 0 = v ∧ (∀ k, k ≠ n → t.ring k = s.ring k) ∧ t.cur = s.cur) ∧
      (¬(q.state = .running ∧ first ∧ second) → t.rings = s.rings ∧ bit (t.reg Reg.RING_EVENTS n) 0 = true
        ∧ (t.reg Reg.RING_DB_BAD_CNT n).toNat = min 0xFFFFFFFF ((s.reg Reg.RING_DB_BAD_CNT n).toNat + 1))

/-- A CONFIG_DISCARD of good structure from a ring of the steward in STANDBY or OPERATIONAL makes the pending set equal to the active
set, or to FACTORY where none is active, changes nothing else of the configuration, leaves every change that waits for its
boundary as it was, and completes. (R530). -/
def Obligations.ConfigDiscardRestoresPending : Prop :=
  ∀ (s : State) (d : Desc), s.takesCmd d → structOk d (tNone d) [] false = true → s.isSteward d = true →
      s.dev.mode = .standby ∨ s.dev.mode = .operational →
    ∃ t, exec (.configDiscard d) s = .next t
      ∧ t.cfg = { s.cfg with pending := (match s.cfg.active with | some a => a.regs | none => []) }
      ∧ t.dev = s.dev ∧ s.finished t d

/-- A NOP taken from a running CMD ring writes one 32-byte completion record with status DONE, its tag and the tick at the next entry
of the ring's EVT ring, then at most MSI-X messages; the EVT ring's count and the CMD ring's count advance by one, and nothing
stays outstanding. (R397, R399, R403, R407, R408). -/
def Obligations.NopWritesItsRecord : Prop :=
  ∀ (s : State) (d : Desc), s.takesCmd d → d.flags.toNat < 32 → fChain d = false → d.target = 0 → unusedZero d [] = true →
    let e := (s.ring d.ring).evt
    let q := s.ring e
    let p := s.ringPort e
    let at_ := q.base + 32 * (q.dev.toNat % s.ringSize e)
    e ≠ d.ring → (s.ring d.ring).state ≠ .pausedEvt → q.state = .running → s.evtRoom e = true → s.portTalks p = true → s.ideOk p at_ 32 = true →
    ∃ t msgs, exec (.nop d) s = .next t
      ∧ t.out = msgs ++ .hostWrite p at_ (Rec.bytes {
          etype := 1, status := stDone, tag := d.tag.toNat, source := 0, tick := s.time.tickNum, payload := List.replicate 15 0 } (decide (q.dev.toNat / s.ringSize e % 2 = 0)) q.lost) false false :: s.out
      ∧ (∀ o ∈ msgs, ∃ v, o = .msix p v)
      ∧ (t.ring e).dev = q.dev + 1 ∧ (t.ring e).lost = false
      ∧ (t.ring d.ring).dev = (s.ring d.ring).dev + 1 ∧ s.finished t d

/-- ENABLE starts an assigned ring whose base is aligned and whose EVT ring runs, with both counts 0 and its base taken; where a
condition fails the ring stays as it was with BAD_SETUP set. Clearing ENABLE makes RING_DEV_CNT equal to RING_DB_CNT and disables
the ring once nothing is outstanding. RESUME sets a paused ring running with its counts unchanged. (R389, R390, R391, R396). -/
def Obligations.RingControl : Prop :=
  (∀ (s : State) (p n : Nat) (v : Word), s.writable p Reg.RING_CTRL n → bit (s.reg Reg.RING_CTRL n) 31 = false →
    let e := fld v 25 16
    s.ringAssigned n = true → s.portExists (s.ringPort n) = true → s.ringBase n % 4096 = 0 →
    (s.ringKind n = 2 ∨ (s.ringAssigned e = true ∧ s.ringKind e = 2 ∧ s.ringPort e = s.ringPort n ∧ (s.ring e).state = .running)) →
    ∃ t, exec (.ringEnable p n v) s = .next t ∧ (t.ring n).state = .running ∧ (t.ring n).dev = 0 ∧ (t.ring n).db = 0
      ∧ (t.ring n).base = s.ringBase n ∧ (t.ring n).evt = e ∧ bit (t.reg Reg.RING_CTRL n) 31 = true)
  ∧ (∀ (s : State) (p n : Nat) (v : Word), s.writable p Reg.RING_CTRL n → bit (s.reg Reg.RING_CTRL n) 31 = false →
    let e := fld v 25 16
    ¬(s.ringAssigned n = true ∧ s.portExists (s.ringPort n) = true ∧ s.ringBase n % 4096 = 0 ∧
      (s.ringKind n = 2 ∨ (s.ringAssigned e = true ∧ s.ringKind e = 2 ∧ s.ringPort e = s.ringPort n ∧ (s.ring e).state = .running))) →
    bit v 30 = false →
    ∃ t, exec (.ringEnable p n v) s = .next t ∧ t.rings = s.rings ∧ bit (t.reg Reg.RING_CTRL n) 31 = false
      ∧ bit (t.reg Reg.RING_EVENTS n) 4 = true)
  ∧ (∀ (s : State) (p n : Nat) (v : Word), s.writable p Reg.RING_CTRL n → bit (s.reg Reg.RING_CTRL n) 31 = true → s.ringKind n = 0 →
    ∃ t, exec (.ringAbort p n v) s = .next t ∧ (t.ring n).dev = (s.ring n).db ∧ (t.ring n).outstanding = (s.ring n).outstanding
      ∧ ((s.ring n).outstanding = 0 → (t.ring n).state = .disabled) ∧ bit (t.reg Reg.RING_CTRL n) 31 = false)
  ∧ (∀ (s : State) (p n : Nat) (v : Word), s.writable p Reg.RING_CTRL n → bit (s.reg Reg.RING_CTRL n) 31 = true →
    ((s.ring n).state = .pausedBus ∨ ((s.ring n).state = .pausedEvt ∧ (s.ring (s.ring n).evt).state = .running)) →
    ∃ t, exec (.ringResume p n v) s = .next t ∧ (t.ring n).state = .running ∧ (t.ring n).dev = (s.ring n).dev ∧ (t.ring n).db = (s.ring n).db)

/-- The first record in staging is written to the running EVT ring at the next entry, with the tick of the writing where no rule names
another, and leaves staging. A bus error on a descriptor read pauses the CMD or DLV ring, ends its authorised role, keeps the
address and sets its event; no other ring changes. (R396, R398, R408, R489). -/
def Obligations.RingEvents : Prop :=
  (∀ (s : State) (n : Nat) (x : Staged) (rest : List Staged), s.svc.stopped = none → (s.ring n).staged = x :: rest →
      (s.ring n).state = .running → s.evtRoom n = true → (s.ring x.ring).state ≠ .pausedEvt → s.portTalks (s.ringPort n) = true →
      s.ideOk (s.ringPort n) ((s.ring n).base + 32 * ((s.ring n).dev.toNat % s.ringSize n)) 32 = true →
    ∃ t msgs, exec (.stagedRecordWrite n) s = .next t ∧ (t.ring n).staged = rest ∧ (t.ring n).dev = (s.ring n).dev + 1
      ∧ t.out = msgs ++ .hostWrite (s.ringPort n) ((s.ring n).base + 32 * ((s.ring n).dev.toNat % s.ringSize n))
          ((if x.named then x.record else { x.record with tick := s.time.tickNum }).bytes
            (decide ((s.ring n).dev.toNat / s.ringSize n % 2 = 0)) (s.ring n).lost) false false :: s.out
      ∧ ∀ o ∈ msgs, ∃ v, o = Out.msix (s.ringPort n) v)
  ∧ (∀ (s : State) (n addr : Nat), s.svc.stopped = none → (s.ring n).state = .running → s.ringKind n = 0 ∨ s.ringKind n = 1 →
      (s.ring n).dev ≠ (s.ring n).db →
    ∃ t, exec (.ringBusError n addr none) s = .next t ∧ t.ring n = { s.ring n with state := .pausedBus, role := none }
      ∧ (∀ k, k ≠ n → t.ring k = s.ring k) ∧ t.reg64 Reg.RING_ERR_ADDR_LO Reg.RING_ERR_ADDR_HI n = addr % 2 ^ 64
      ∧ bit (t.reg Reg.RING_EVENTS n) 1 = true)

/-- A live port's claim makes it steward when there is none. The steward's release makes a shift change due. A heartbeat is noted on
the free-running clock. A port whose last heartbeat is three periods old is not live, and the steward's expiry makes a shift
change due. A shift change gives the stewardship to the first live port of the succession, or to none, and counts. (R374, R375,
R376, R377). -/
def Obligations.StewardshipMoves : Prop :=
  (∀ (s : State) (p : Nat), s.writable p Reg.STEW_CTRL 0 → s.dev.steward = none → s.isLive p = true →
    ∃ t, exec (.claim p) s = .next t ∧ t.dev.steward = some p ∧ t.dev.shift = none ∧ t.dev.shiftCnt = s.dev.shiftCnt)
  ∧ (∀ (s : State) (p : Nat), s.writable p Reg.STEW_CTRL 0 → s.dev.steward = some p → s.dev.shift = none →
    ∃ t, exec (.release p) s = .next t ∧ t.dev.steward = some p ∧ t.dev.shift = some 3 ∧ bit (t.reg Reg.STEW_CTRL) 1 = true)
  ∧ (∀ (s : State) (p : Nat), s.writable p Reg.HEARTBEAT 0 →
    ∃ t, exec (.heartbeat p) s = .next t ∧ (t.port p).beatAt = some s.time.clk)
  ∧ (∀ (s : State) (p b : Nat), s.svc.stopped = none → (s.port p).beatAt = some b → b + s.liveClk ≤ s.time.clk →
      s.dev.steward = some p → s.dev.shift = none →
    ∃ t, exec (.portLivenessExpiry p) s = .next t ∧ t.dev.shift = some 1 ∧ t.isLive p = false)
  ∧ (∀ (s : State) (c old : Nat), s.svc.stopped = none → s.dev.shift = some c → s.dev.steward = some old →
    ∃ t, exec .shiftChange s = .next t
      ∧ t.dev.steward = (s.successors old).find? (fun p => decide (p ≠ old) && s.portExists p && s.isLive p)
      ∧ t.dev.shift = none ∧ t.dev.shiftCnt = min 0xFF (s.dev.shiftCnt + 1))

/-- PERST# release frees the port; a link that trains to a rate and width the port supports reads up with both; a change of width or
rate keeps it up with the new ones and sets its event; an idle port enters L1; D3hot stops memory decoding, and a steward that
enters it stops being live. (R353, R360, R362, R363, R376). -/
def Obligations.HostLinkEvents : Prop :=
  (∀ (s : State) (p : Nat), s.svc.stopped = none → s.portExists p = true →
    ∃ t, exec (.pxPerstRelease p) s = .next t ∧ t.port p = { s.port p with perst := false })
  ∧ (∀ (s : State) (p rate width mps : Nat) (flit noSnoop relaxed : Bool), s.svc.stopped = none → s.linkOk p rate width = true →
      s.linkUp p = false →
    ∃ t, exec (.hostLinkUp p rate width flit mps noSnoop relaxed) s = .next t ∧ t.linkUp p = true
      ∧ fld (t.reg Reg.HP_STATUS p) 19 16 = rate ∧ fld (t.reg Reg.HP_STATUS p) 12 8 = width
      ∧ ((t.port p).mps = if mps = 256 ∨ mps = 512 then mps else 128)
      ∧ (t.port p).noSnoop = noSnoop ∧ (t.port p).relaxed = relaxed ∧ bit (t.reg Reg.HP_EVENTS p) 0 = true)
  ∧ (∀ (s : State) (p rate width : Nat) (flit : Bool), s.svc.stopped = none → s.linkOk p rate width = true → s.linkUp p = true →
      ¬(fld (s.reg Reg.HP_STATUS p) 19 16 = rate ∧ fld (s.reg Reg.HP_STATUS p) 12 8 = width) →
    ∃ t, exec (.widthChange p rate width flit) s = .next t ∧ t.linkUp p = true
      ∧ fld (t.reg Reg.HP_STATUS p) 19 16 = rate ∧ fld (t.reg Reg.HP_STATUS p) 12 8 = width ∧ bit (t.reg Reg.HP_EVENTS p) 4 = true)
  ∧ (∀ (s : State) (p : Nat), s.svc.stopped = none → s.portTalks p = true → s.portHasJobs p = false →
    ∃ t, exec (.aspmL1Entry p) s = .next t ∧ t.port p = { s.port p with l1 := true })
  ∧ (∀ (s : State) (p : Nat), s.svc.stopped = none → s.linkUp p = true →
    ∃ t, exec (.d3hotEntry p) s = .next t ∧ t.port p = { s.port p with d3hot := true, l1 := false } ∧ t.portTalks p = false
      ∧ (s.dev.steward = some p → s.dev.shift = none → t.dev.shift = some 1))

/-- Function and vector masks follow the host. SPDM opens a session when the device has its identity key and its random-bit generator
is not blocked, and closes it. Under a session a key makes an IDE stream secure over its address range; an integrity failure makes
the stream insecure and counts. (R364, R366, R367, R369). -/
def Obligations.PortSecurityEvents : Prop :=
  (∀ (s : State) (p : Nat) (enable mask : Bool), s.svc.stopped = none → s.linkUp p = true →
    ∃ t, exec (.msixUnmask p none enable mask) s = .next t ∧ (t.port p).msixOn = enable ∧ (t.port p).funcMask = mask)
  ∧ (∀ (s : State) (p v : Nat) (enable : Bool), s.svc.stopped = none → s.linkUp p = true → v < 2048 →
    ∃ t, exec (.msixUnmask p (some v) enable false) s = .next t ∧ v ∈ (t.port p).unmasked)
  ∧ (∀ (s : State) (p v : Nat) (enable : Bool), s.svc.stopped = none → s.linkUp p = true →
    ∃ t, exec (.msixUnmask p (some v) enable true) s = .next t ∧ v ∉ (t.port p).unmasked)
  ∧ (∀ (s : State) (p : Nat), s.svc.stopped = none → s.portTalks p = true → s.dev.mode ≠ .boot →
    ∃ t, exec (.spdmRequest p 1) s = .next t ∧ t.out = .spdm p 1 (s.sec.dik.isSome && !s.sec.drbgBlocked) :: s.out
      ∧ t.port p = { s.port p with spdm := s.sec.dik.isSome && !s.sec.drbgBlocked })
  ∧ (∀ (s : State) (p : Nat), s.svc.stopped = none → s.portTalks p = true → s.dev.mode ≠ .boot →
    ∃ t, exec (.spdmRequest p 2) s = .next t ∧ t.out = .spdm p 2 true :: s.out ∧ t.port p = { s.port p with spdm := false })
  ∧ (∀ (s : State) (p n key lo hi : Nat), s.svc.stopped = none → s.portTalks p = true → (s.port p).spdm = true → n < 4 →
    ∃ t, exec (.ideKm p n key lo hi) s = .next t ∧ (t.port p).ide[n]? = some { secure := true, lo := lo, hi := hi, key := key }
      ∧ ∀ k, k ≠ n → k < (s.port p).ide.length → (t.port p).ide[k]? = (s.port p).ide[k]?)
  ∧ (∀ (s : State) (p n : Nat) (x : IdeStream), s.svc.stopped = none → s.portTalks p = true → (s.port p).ide[n]? = some x →
      x.secure = true →
    ∃ t, exec (.ideIntegrityFail p n) s = .next t ∧ (t.port p).ide[n]? = some { x with secure := false }
      ∧ (t.port p).aerIde = (s.port p).aerIde + 1)

/-- Any reset of a port that exists leaves the port's record at its reset values (the fields a running reset keeps apart), takes the
link down where the kind does, and sets the event of an FLR, or of a hot reset or return from D3hot. (R361, R362). -/
def Obligations.PortResetClearsThePort : Prop :=
  ∀ (s : State) (p kind : Nat), s.svc.stopped = none → s.portExists p = true → kind ≤ 4 → (kind ≤ 2 → s.linkUp p = true) →
      (kind = 4 → (s.port p).d3hot = true) →
    ∃ t, exec (.hostPortReset p kind) s = .next t
      ∧ { t.port p with beatAt := none, perst := false, l1 := false, pba := [] } = ({ perst := false } : PortSt)
      ∧ (1 ≤ kind → kind ≤ 3 → t.linkUp p = false)
      ∧ (kind = 0 → bit (t.reg Reg.HP_EVENTS p) 2 = true)
      ∧ (kind = 1 ∨ kind = 4 → bit (t.reg Reg.HP_EVENTS p) 3 = true)

/-- A word write to an ordinary register replaces its immediate bits, clears its W1C bits where ones are written, and puts its
shadowed bits into the pending set, never into the active one. A write of another size or alignment changes no register and is
flagged. A low half is held and goes in with its high half, at once. An alias write puts the value into the pending set of every
member. (R11, R12, R15, R17, R580, R584). -/
def Obligations.RegisterWrites : Prop :=
  (∀ (s : State) (p off i j : Nat) (r : RegRow) (v : Word), s.opensWrite p off → aliasAt off = none → findReg off = some (r, i, j) →
      r.half = .whole → (∀ x ∈ actingRows, r.is x = false) → s.areaHeld off = false → (r.win = 1 → s.portExists i = true) →
    ∃ t, exec (.registerWrite p off 4 v) s = .next t
      ∧ t.reg r i j = (((s.reg r i j &&& ~~~ r.rwi) ||| (v &&& r.rwi)) &&& ~~~ (v &&& r.w1c))
      ∧ (r.rw ≠ 0 → t.cfg.pending.val r i j = v &&& r.rw) ∧ t.cfg.active = s.cfg.active)
  ∧ (∀ (s : State) (p off n : Nat) (v : Word), s.svc.stopped = none → s.portTalks p = true → n ≠ 4 ∨ off % 4 ≠ 0 →
    ∃ t, exec (.registerWrite p off n v) s = .next t ∧ t.cur = s.cur ∧ t.cfg = s.cfg ∧ bit (t.port p).accStatus 1 = true)
  ∧ (∀ (s : State) (p off i j : Nat) (r : RegRow) (v : Word), s.opensWrite p off → aliasAt off = none → findReg off = some (r, i, j) →
      r.half = .lo → r.rw ||| r.rwi ≠ 0 → s.areaHeld off = false → (r.win = 1 → s.portExists i = true) →
    ∃ t, exec (.regPairLoWrite p off v) s = .next t ∧ (t.port p).heldLo.get 0 off = v ∧ t.cur = s.cur ∧ t.cfg = s.cfg)
  ∧ (∀ (s : State) (p off i j : Nat) (r : RegRow) (v : Word), s.opensWrite p off → aliasAt off = none → findReg off = some (r, i, j) →
      r.half = .hi → r.rw ||| r.rwi ≠ 0 → (∀ x ∈ actingPairs, r.is x = false) → s.areaHeld off = false →
      (r.win = 1 → s.portExists i = true) → (r.partner i j).addr i j ≠ off → (r.partner i j).win < 16 →
    ∃ t, exec (.regPairHiWrite p off v) s = .next t
      ∧ (r.rw ≠ 0 → t.cfg.pending.val r i j = v &&& r.rw)
      ∧ ((r.partner i j).rw ≠ 0 → t.cfg.pending.val (r.partner i j) i j = (s.port p).heldLo.get 0 (off - 4) &&& (r.partner i j).rw))
  ∧ (∀ (s : State) (p off w o n : Nat) (g : Option Nat) (v : Word), s.opensWrite p off → aliasAt off = some (w, g, o) →
      n ∈ s.members w g →
      (∀ m ∈ s.members w g, ∀ r i j, memberReg w m o = some (r, i, j) → r.half = .whole ∧ (∀ x ∈ actingRows, r.is x = false)
        ∧ s.areaHeld (r.addr i j) = false) →
    ∃ t, exec (.aliasWrite p off v) s = .next t
      ∧ ∀ r i j, memberReg w n o = some (r, i, j) → r.rw ≠ 0 → t.cfg.pending.val r i j = v &&& r.rw)

/-- A read of a low half answers it and captures the high half of the same instant. A read of a clear-on-read counter answers and
clears it and changes no other register. ACCESS_STATUS answers the port's own copy and clears it with the address. An alias read
answers its lowest member, or 0 without one, and flags members that differ. (R12, R17, R580, R584, R589, R590). -/
def Obligations.RegisterReads : Prop :=
  (∀ (s : State) (p off i j : Nat) (r : RegRow), s.opensRead p off 4 → aliasAt off = none → findReg off = some (r, i, j) →
      r.half = .lo → (∀ x ∈ readRows, r.is x = false) → r.rc = 0 → s.areaHeld off = false →
      ∃ t w, exec (.regPairLoRead p off 4) s = .next t ∧ t.out = .readData p ((s.afterAccess p w).readWord p r i j) :: s.out
        ∧ (t.port p).snapHi.get 0 off = (s.afterAccess p w).readWord p (r.partner i j) i j ∧ t.cur = s.cur)
  ∧ (∀ (s : State) (p off i j : Nat) (r : RegRow), s.opensRead p off 4 → aliasAt off = none → findReg off = some (r, i, j) →
      r.half = .whole → r.rc ≠ 0 → (∀ x ∈ readRows, r.is x = false) → s.areaHeld off = false →
      ∃ t w, exec (.rcRegisterRead p off 4) s = .next t ∧ t.out = .readData p ((s.afterAccess p w).readWord p r i j) :: s.out
        ∧ t.reg r i j = s.reg r i j &&& ~~~ r.rc
        ∧ ∀ q k l, q.addr k l ≠ off → t.reg q k l = s.reg q k l)
  ∧ (∀ (s : State) (p : Nat), s.opensRead p Reg.ACCESS_STATUS.addr 4 → s.areaHeld Reg.ACCESS_STATUS.addr = false →
      (s.port p).cap.get none Reg.ACCESS_STATUS.addr = none →
      ∃ t, exec (.accessStatusRead p) s = .next t ∧ t.out = .readData p ((s.port p).accStatus &&& 0xFF) :: s.out
        ∧ (t.port p).accStatus = 0 ∧ (t.port p).accAddr = 0)
  ∧ (∀ (s : State) (p off w o : Nat) (g : Option Nat), s.opensRead p off 4 → aliasAt off = some (w, g, o) →
      ∃ t, exec (.aliasRead p off 4) s = .next t
        ∧ (s.members w g = [] → t.out = .readData p 0 :: s.out ∧ t.cur = s.cur)
        ∧ (∀ n rest r i j, s.members w g = n :: rest → memberReg w n o = some (r, i, j) → r.half = .whole →
            (∀ x ∈ readRows, r.is x = false) → s.areaHeld (r.addr i j) = false →
            ∃ k, t.out = .readData p ((s.afterAccess p k).readWord p r i j) :: s.out ∧ t.cur = s.cur
              ∧ ((s.afterAccess p k).membersDiffer p w o rest ((s.afterAccess p k).readWord p r i j) = true → bit (t.port p).accStatus 0 = true)))

/-- A training frame of a good control word counts the far side's readiness, answers a coefficient request once, and ends the training
once both sides are ready for 8 frames within the skew. A timeout counts a failure, after the third of which the lane is FAILED; a
retry, a relock timeout and a retrain start training anew. (R129, R130, R131, R132, R133, R134). -/
def Obligations.LaneTraining : Prop :=
  (∀ (s : State) (n : Nat) (w : BitVec 48) (a : Adapt) (c : Control), s.svc.stopped = none → bit (s.act Reg.LANE_CTRL n) 0 = true →
      (s.lane n).mode = .training → (s.lane n).failAt = none → parseControl w = some c → c.rate = (s.txControl n).rate →
      c.linkTag = (s.txControl n).linkTag → c.logical = (s.txControl n).logical →
      ∃ t, exec (.trainingFrame n w a) s = .next t
        ∧ (((s.lane n).ready || (s.adaptation n a).ready) = true ∧ c.rxReady = true ∧ 8 ≤ (s.lane n).farReady + 1 ∧ a.skewNs ≤ 80 →
            (t.lane n).mode = (if (s.lane n).spare then .spareRun else .locked) ∧ (t.lane n).fails = 0 ∧ (t.lane n).deskewOk = true)
        ∧ (¬(((s.lane n).ready || (s.adaptation n a).ready) = true ∧ c.rxReady = true ∧ 8 ≤ (s.lane n).farReady + 1) →
            (t.lane n).mode = .training ∧ (t.lane n).farReady = (if c.rxReady then (s.lane n).farReady + 1 else 0)
            ∧ (c.reqCmd ≠ 0 → c.reqSeq ≠ (s.lane n).rspSeq →
                ((t.lane n).ffe, (t.lane n).rspStatus) = ffeApply (s.lane n).ffe c.reqCmd c.reqTap c.reqPreset
                ∧ (t.lane n).rspSeq = c.reqSeq)
            ∧ t.out = .lane n (.training (t.txControl n)) :: s.out))
  ∧ (∀ (s : State) (n : Nat), s.svc.stopped = none → (s.lane n).mode = .training → (s.lane n).failAt = none →
      (s.lane n).trainAt + msClk (s.actF Reg.LANE_TRAIN_CTRL n 31 16) ≤ s.time.clk →
      ∃ t, exec (.trainTimeout n) s = .next t ∧ (t.lane n).fails = (s.lane n).fails + 1 ∧ (t.lane n).failAt = some s.time.clk
        ∧ (t.lane n).mode = (if 3 ≤ (s.lane n).fails + 1 then .failed else .training) ∧ bit (t.reg Reg.LANE_EVENTS n) 4 = true)
  ∧ (∀ (s : State) (n x : Nat), s.svc.stopped = none → (s.lane n).mode = .training → (s.lane n).failAt = some x → x + 2500000 ≤ s.time.clk →
      ∃ t c out, exec (.trainRetry n) s = .next t ∧ (t.lane n).mode = .training ∧ (t.lane n).failAt = none
        ∧ (t.lane n).trainAt = s.time.clk ∧ (t.lane n).fails = (s.lane n).fails ∧ t.out = .lane n (.training c) :: out)
  ∧ (∀ (s : State) (n x : Nat), s.svc.stopped = none → (s.lane n).mode = .search → (s.lane n).lockLostAt = some x →
      x + 2500000 ≤ s.time.clk →
      ∃ t c out, exec (.relockTimeout n) s = .next t ∧ (t.lane n).mode = .training ∧ (t.lane n).lockLostAt = none
        ∧ (t.lane n).trainAt = s.time.clk ∧ t.out = .lane n (.training c) :: out)
  ∧ (∀ (s : State) (p n : Nat) (v : Word), s.writable p Reg.LANE_TRAIN_CTRL n → s.laneOff n = false → s.mayRejoin n = true →
      s.swapOf (lanePort n) = none →
      ∃ t c out, exec (.retrain p n v) s = .next t ∧ (t.lane n).mode = .training ∧ (t.lane n).fails = 0
        ∧ (t.lane n).trainAt = s.time.clk ∧ t.out = .lane n (.training c) :: out)

/-- Three commas lock a searching lane and set LOCK; four missed commas lose the lock and start the search with its timer. In data
mode a comma starts a block and is counted present, idle or missed. A wake burst returns an idle lane to data mode, or to training
where the wake requires it. (R126, R127, R128, R136, R137, R138). -/
def Obligations.LaneLock : Prop :=
  (∀ (s : State) (n : Nat) (commas : List (List Nat)), s.svc.stopped = none → commas.length = 3 →
      (∀ c ∈ commas, c = commaOf .normal ∨ c = commaOf .swap) → (s.lane n).mode = .search ∨ (s.lane n).mode = .training →
      ∃ t, exec (.lockGained n commas) s = .next t ∧ bit (t.reg Reg.LANE_EVENTS n) 1 = true
        ∧ ((s.lane n).mode = .search → (t.lane n).mode = (if (s.lane n).spare then .spareRun else .locked)
            ∧ (t.lane n).commaMiss = 0 ∧ (t.lane n).lockLostAt = none)
        ∧ ((s.lane n).mode = .training → t.link = s.link))
  ∧ (∀ (s : State) (n : Nat), s.svc.stopped = none → (s.lane n).mode = .locked ∨ (s.lane n).mode = .spareRun → 4 ≤ (s.lane n).commaMiss →
      ∃ t, exec (.lockLost n) s = .next t ∧ (t.lane n).mode = .search ∧ (t.lane n).lockLostAt = some s.time.clk
        ∧ bit (t.reg Reg.LANE_EVENTS n) 2 = true)
  ∧ (∀ (s : State) (n : Nat) (levels : List Nat) (snr : Nat), s.svc.stopped = none → (s.lane n).mode = .locked → (s.lane n).spare = false →
      s.swapOf (lanePort n) = none →
      ∃ t, exec (.alignmentComma n levels snr) s = .next t ∧ (t.lane n).rxBlock = (s.lane n).rxBlock + 1 ∧ (t.lane n).cw = 0
        ∧ (classifyComma levels = none → (t.lane n).commaMiss = (s.lane n).commaMiss + 1 ∧ (t.lane n).mode = .locked)
        ∧ (classifyComma levels = some .idle → (t.lane n).commaMiss = 0 ∧ (t.lane n).mode = .eidle ∧ (t.lane n).idleAt = s.time.clk)
        ∧ (classifyComma levels = some .normal → (t.lane n).commaMiss = 0 ∧ (t.lane n).mode = .locked ∧ (t.lane n).variant = .normal
            ∧ (t.lane n).commaAt = some s.time.now))
  ∧ (∀ (s : State) (n : Nat), s.svc.stopped = none → (s.lane n).mode = .eidle ∨ (s.lane n).mode = .wake →
      ∃ t, exec (.wakeBurst n) s = .next t
        ∧ (s.wakeRetrains n = true → (t.lane n).mode = .training ∧ (t.lane n).trainAt = s.time.clk)
        ∧ (s.wakeRetrains n = false → (t.lane n).mode = .locked ∧ (t.lane n).rxBlock = 1 ∧ (t.lane n).txBlock = 0
            ∧ ((s.lane n).mode = .eidle → .lane n .wakeBurst ∈ t.out)))

/-- LANE_SWAP sends SWAP_PROPOSE and is owed. A proposal is agreed with where the spare is ready and takes effect at a block 2 us
ahead, or refused while another swap runs on the port. Agreement sets the block; refusal ends the swap. A request from the head
starts a swap of the device's own. (R142, R143, R144, R145, R159). -/
def Obligations.LaneSwaps : Prop :=
  (∀ (s : State) (d : Desc) (sp l : Nat), s.takesCmd d → State.laneSwapCheck d (s.take d) = none → s.spareNow (lanePort (tIndex d)) = some sp →
      (s.lane (tIndex d)).link = some l →
      ∃ t k, exec (.laneSwap d) s = .next t ∧ k = { ticketOf d 0x42 with gen := (s.ring d.ring).gen }
        ∧ t.swapOf (lanePort (tIndex d)) = some {
            lane := tIndex d, spare := sp, logical := (s.lane (tIndex d)).logical, ticket := some k, at_ := s.time.clk }
        ∧ t.out = .mgmt (tIndex d) { opcode := 1, subject := (s.lane (tIndex d)).logical, seq := (s.hl l).msgSeq % 256 } :: s.out ∧ s.owed t d)
  ∧ (∀ (s : State) (n l a sp : Nat) (m : LaneMsg), s.svc.stopped = none → (s.lane n).link = some l → (s.hl l).lastSeq ≠ some m.seq →
      s.carrier l m.subject = some a → s.swapOf (lanePort n) = none → s.spareNow (lanePort n) = some sp → (s.lane sp).spareReady = true →
      s.spareServes a = true →
      ∃ t, exec (.swapPropose n m) s = .next t
        ∧ t.swapOf (lanePort n) = some { lane := a, spare := sp, logical := m.subject, txBlock := some (s.blockIn2us l) }
        ∧ t.out = .lane sp (.takeOver m.subject (s.blockIn2us l) true)
            :: .mgmt n { opcode := 2, subject := m.subject, seq := (s.hl l).msgSeq % 256 } :: s.out)
  ∧ (∀ (s : State) (n l a : Nat) (m : LaneMsg), s.svc.stopped = none → (s.lane n).link = some l → (s.hl l).lastSeq ≠ some m.seq →
      s.carrier l m.subject = some a → (s.swapOf (lanePort n)).isSome = true →
      ∃ t, exec (.swapPropose n m) s = .next t ∧ t.link.swaps = s.link.swaps
        ∧ t.out = .mgmt n { opcode := 3, subject := m.subject, arg := 2, seq := (s.hl l).msgSeq % 256 } :: s.out)
  ∧ (∀ (s : State) (n l : Nat) (m : LaneMsg) (w : Swap), s.svc.stopped = none → (s.lane n).link = some l → (s.hl l).lastSeq ≠ some m.seq →
      s.swapOf (lanePort n) = some w → w.logical = m.subject → w.txBlock = none →
      ∃ t, exec (.swapAgree n m) s = .next t ∧ t.swapOf (lanePort n) = some { w with txBlock := some (s.blockIn2us l) }
        ∧ t.out = .lane w.spare (.takeOver w.logical (s.blockIn2us l) true) :: s.out)
  ∧ (∀ (s : State) (n l : Nat) (m : LaneMsg) (w : Swap), s.svc.stopped = none → (s.lane n).link = some l → (s.hl l).lastSeq ≠ some m.seq →
      s.swapOf (lanePort n) = some w → w.logical = m.subject → w.txBlock = none →
      ∃ t, exec (.swapRefuse n m) s = .next t ∧ t.swapOf (lanePort n) = none
        ∧ ((s.lane w.lane).retrainReq = false → (s.lane w.spare).retrainReq = false → t.link.lanes = s.link.lanes)
        ∧ (w.ticket = none → bit (t.reg Reg.LANE_EVENTS w.lane) 9 = true)
        ∧ (∀ k, w.ticket = some k → (s.ring k.ring).gen = k.gen → (t.ring k.ring).outstanding = (s.ring k.ring).outstanding - 1))
  ∧ (∀ (s : State) (n l a sp : Nat) (m : LaneMsg), s.svc.stopped = none → (s.lane n).link = some l → (s.hl l).lastSeq ≠ some m.seq →
      s.carrier l m.subject = some a → s.swapOf (lanePort n) = none → s.spareNow (lanePort n) = some sp → s.spareServes a = true →
      (s.lane sp).mode = .spareRun →
      ∃ t, exec (.swapRequest n m) s = .next t
        ∧ t.swapOf (lanePort n) = some { lane := a, spare := sp, logical := m.subject, txBlock := some (s.blockIn2us l) }
        ∧ t.out = .lane sp (.takeOver m.subject (s.blockIn2us l) false) :: s.out)

/-- A lane without signal or with too many uncorrectable codewords is FAILED with its event; a serviceable spare in spare run takes
its logical lane over at a block 2 us ahead; without a spare the link restripes onto the lanes that remain. When both directions
have moved, the swap ends, the old lane becomes the spare and trains, and the swap is counted. (R144, R145, R146, R147, R161). -/
def Obligations.LaneFailures : Prop :=
  (∀ (s : State) (n l x : Nat) (noSignal : Bool), s.svc.stopped = none → (s.lane n).mode = .locked → (s.lane n).spare = false →
      noSignal = true ∨ 8 ≤ (s.lane n).uncorr → (s.lane n).link = some l → s.swapOf (lanePort n) = none →
      s.spareNow (lanePort n) = some x → x ≠ n → (s.lane x).mode = .spareRun → bit (s.act Reg.LANE_CTRL n) 6 = true → s.spareServes n = true →
      ∃ t, exec (.laneFailure n noSignal) s = .next t ∧ (t.lane n).mode = .failed ∧ bit (t.reg Reg.LANE_EVENTS n) 7 = true
        ∧ t.swapOf (lanePort n) = some {
            lane := n, spare := x, logical := (s.lane n).logical, failure := true, txBlock := some (s.blockIn2us l) }
        ∧ .lane x (.takeOver (s.lane n).logical (s.blockIn2us l) true) ∈ t.out)
  ∧ (∀ (s : State) (n l : Nat) (noSignal : Bool), s.svc.stopped = none → (s.lane n).mode = .locked → (s.lane n).spare = false →
      noSignal = true ∨ 8 ≤ (s.lane n).uncorr → (s.lane n).link = some l → s.swapOf (lanePort n) = none →
      s.spareNow (lanePort n) = none → s.remaining l (s.lane n).logical ≠ 0 →
      ∃ t, exec (.laneFailure n noSignal) s = .next t ∧ (t.lane n).mode = .failed
        ∧ (t.hl l).restripe = some (s.remaining l (s.lane n).logical))
  ∧ (∀ (s : State) (p : Nat) (w : Swap), s.svc.stopped = none → s.swapOf p = some w → w.rxDone = true → s.swapTxDone w = true →
      w.lane ≠ w.spare → lanePort w.lane = p → (s.lane w.lane).mode ≠ .failed → s.unitCode 4 w.lane ≠ 3 →
      ∃ t, exec (.swapDone p) s = .next t ∧ t.swapOf p = none ∧ (t.lane w.lane).spare = true ∧ (t.lane w.lane).logical = 15
        ∧ (t.lane w.lane).mode = .training ∧ (t.lane w.lane).trainAt = s.time.clk
        ∧ t.reg Reg.LANE_SWAP_CNT w.lane = BitVec.ofNat 32 (satAdd 0xFFFFFFFF (s.reg Reg.LANE_SWAP_CNT w.lane).toNat 1))

/-- An acknowledged restripe fixes the block, 2 us ahead, from which the transmitters use the new set, and the set that the receiver
follows; until then the set of the link stays. An acknowledged electrical idle sends the idle commas and goes idle on every lane
that carries the link. A loopback acknowledgment puts the drained lane into loopback. The PRBS checker locks on its pattern.
Injection starts with the kind and counts written and, where it lasts, until it is stopped. (R136, R150, R151, R159, R161). -/
def Obligations.LaneManagement : Prop :=
  (∀ (s : State) (n l set : Nat) (m : LaneMsg), s.svc.stopped = none → (s.lane n).link = some l → (s.hl l).lastSeq ≠ some m.seq →
      (s.hl l).restripe = some set →
      ∃ t, exec (.restripeAck n m) s = .next t ∧ (t.hl l).restripe = none ∧ (t.hl l).restripeBlock = some (s.blockIn2us l)
        ∧ (t.hl l).restripeGo = some (s.time.clk, set) ∧ (t.hl l).mask = (s.hl l).mask ∧ t.link.lanes = s.link.lanes)
  ∧ (∀ (s : State) (n l : Nat) (m : LaneMsg), s.svc.stopped = none → (s.lane n).link = some l → (s.hl l).lastSeq ≠ some m.seq →
      (s.hl l).eidleReq = true →
      ∃ t, exec (.eidleAck n m) s = .next t ∧ (t.hl l).eidleReq = false
        ∧ ∀ a ∈ s.linkLanes l, .lane a (.comma .idle) ∈ t.out ∧ .lane a .electricalIdle ∈ t.out)
  ∧ (∀ (s : State) (n l a : Nat) (m : LaneMsg), s.svc.stopped = none → (s.lane n).link = some l → (s.hl l).lastSeq ≠ some m.seq →
      s.carrier l m.subject = some a → (s.lane a).drained = true →
      ∃ t, exec (.loopbackAck n m) s = .next t ∧ (t.lane a).mode = .loopback ∧ t.out = s.out)
  ∧ (∀ (s : State) (n : Nat) (bits : List Bool), s.svc.stopped = none → bit (s.reg Reg.LANE_PRBS_CTRL n) 2 = true →
      bit (s.reg Reg.LANE_PRBS_CTRL n) 3 = false → 159 ≤ bits.length →
      (fld (s.reg Reg.LANE_PRBS_CTRL n) 11 10 = 3 ∨
        (prbsErrors (fld (s.reg Reg.LANE_PRBS_CTRL n) 11 10) (bits.take 31).reverse (bits.drop 31)).1 = 0) →
      ∃ t, exec (.prbsCheckerLock n bits) s = .next t ∧ bit (t.reg Reg.LANE_PRBS_CTRL n) 3 = true
        ∧ (t.lane n).prbs = (bits.reverse).take 31)
  ∧ (∀ (s : State) (p n : Nat) (v : Word), s.writable p Reg.LANE_INJ_CTRL n → s.laneOff n = false → bit v 1 = false →
      (s.lane n).mode = .locked ∨ (s.lane n).mode = .spareRun ∨ (s.lane n).mode = .prbsTest →
      ∃ t, exec (.injectionGo p n v) s = .next t
        ∧ t.out = .lane n (.inject (fld v 3 2) (fld v 5 4) (fld v 31 24) (fld v 23 20)) :: s.out
        ∧ (fld v 3 2 = 3 → (t.lane n).inject = some ⟨3, fld v 5 4, fld v 31 24, fld v 23 20⟩
            ∧ bit (t.reg Reg.LANE_INJ_CTRL n) 0 = true))
  ∧ (∀ (s : State) (p n : Nat) (v : Word), s.writable p Reg.LANE_INJ_CTRL n → s.laneOff n = false → bit v 0 = false →
      (s.lane n).inject.isSome = true →
      ∃ t, exec (.injectionStop p n v) s = .next t ∧ t.out = .lane n .injectStop :: s.out ∧ (t.lane n).inject = none
        ∧ bit (t.reg Reg.LANE_INJ_CTRL n) 0 = false)

/-- Writing PLN_RES_SEL, STORE_FR_SEL, CFG_PEEK_ADDR, SVC_TELEM_SEL or SVC_LOG_SEL keeps the selection and captures, for the writing
port alone, the resource, frame, register of the active or previous set, telemetry value or log entry that it selects; a measured
telemetry value is a free one. (R113, R276, R548, R572, R575, R591). -/
def Obligations.SelectWritesCapture : Prop :=
  (∀ (s : State) (p : Nat) (v : Word), s.writable p Reg.PLN_RES_SEL 0 → s.ckpt = none → fld v 15 0 < resInstances (fld v 23 16) →
    ∃ t, exec (.plnResSelWrite p v) s = .next t ∧ fld (t.reg Reg.PLN_RES_SEL) 15 0 = fld v 15 0
      ∧ (t.port p).cap.get none Reg.PLN_RES_USED_LO.addr = some (lo32 (s.plan.used.get 0 (fld v 23 16 * 65536 + fld v 15 0)))
      ∧ (t.port p).cap.get none Reg.PLN_RES_CARRY_HI.addr = some (hi32 (s.plan.carry.get 0 (fld v 23 16 * 65536 + fld v 15 0))))
  ∧ (∀ (s : State) (p : Nat) (v : Word), s.writable p Reg.STORE_FR_SEL 0 →
    ∃ t, exec (.storeFrSelWrite p v) s = .next t ∧ fld (t.reg Reg.STORE_FR_SEL) 5 0 = fld v 5 0
      ∧ (t.port p).cap.get none Reg.STORE_FR_INFO.addr = some (s.frInfo (fld v 5 0) (s.reg Reg.STORE_FR_FRAME).toNat).1
      ∧ (t.port p).cap.get none Reg.STORE_FR_SLOT.addr = some (s.frInfo (fld v 5 0) (s.reg Reg.STORE_FR_FRAME).toNat).2)
  ∧ (∀ (s : State) (p i j : Nat) (v : Word) (r : RegRow), s.writable p Reg.CFG_PEEK_ADDR 0 → findReg (fld v 23 2 * 4) = some (r, i, j) →
    ∃ t, exec (.cfgPeekAddrWrite p v) s = .next t ∧ t.cfg = s.cfg
      ∧ (t.port p).cap.get none Reg.CFG_PEEK_DATA.addr = some (match (if bit v 31 then s.cfg.previous else s.cfg.active) with
          | some x => x.regs.val r i j
          | none => 0))
  ∧ (∀ (s : State) (p : Nat) (v : Word), s.writable p Reg.SVC_TELEM_SEL 0 →
    ∃ t, exec (.svcTelemSelWrite p v) s = .next t ∧ t.reg Reg.SVC_TELEM_SEL = v
      ∧ (v.toNat ≤ 8 → t.free = s.free + 1
          ∧ (t.port p).cap.get none Reg.SVC_TELEM_DATA.addr = some (BitVec.ofNat 32 (Config.freeBits 32 s.free).toNat))
      ∧ (∀ k, k < 32 → v.toNat = 0x10 + k → s.svc.peaks.get (-32768) k ≠ -32768 →
          (t.port p).cap.get none Reg.SVC_TELEM_DATA.addr = some (lo32 (ofSigned 16 (s.svc.peaks.get (-32768) k))))
      ∧ (0x30 ≤ v.toNat → (t.port p).cap.get none Reg.SVC_TELEM_DATA.addr = some 0))
  ∧ (∀ (s : State) (p : Nat) (v : Word), s.writable p Reg.SVC_LOG_SEL 0 →
    ∃ t, exec (.svcLogSelWrite p v) s = .next t ∧ t.reg Reg.SVC_LOG_SEL = v
      ∧ ∀ e, s.logAt v = some e → (t.port p).cap.get none Reg.SVC_LOG_INFO.addr = some 0x80000000
        ∧ ∀ k, k < 8 → (t.port p).cap.get none (Reg.SVC_LOG_DATA.addr k) = some (lo32 (leAt e.bytes (4 * k) 4)))

/-- A read of a bad size, in BOOT outside the identity, or denied answers 0 and is flagged and counted. The service port's read sends
the register's word. A read of the first register of the time snapshot, of a motion channel or of a probe answers it and captures
the rest of its group of the same instant. (R11, R48, R371, R465, R481, R580, R591, R617). -/
def Obligations.ReadsThatFlagOrCapture : Prop :=
  (∀ (s : State) (p off n : Nat), s.svc.stopped = none → s.portTalks p = true → n = 0 ∨ 4 < off % 4 + n →
    ∃ t, exec (.flaggedRegisterRead p off n) s = .next t ∧ t.out = .readData p 0 :: s.out ∧ bit (t.port p).accStatus 1 = true)
  ∧ (∀ (s : State) (p off n : Nat), s.svc.stopped = none → s.portTalks p = true → 0 < n → off % 4 + n ≤ 4 → s.dev.mode = .boot →
      isIdentity (off / 4 * 4) = false →
    ∃ t, exec (.flaggedRegisterRead p off n) s = .next t ∧ t.out = .readData p 0 :: s.out ∧ bit (t.port p).accStatus 3 = true
      ∧ t.cur = s.cur)
  ∧ (∀ (s : State) (p off n : Nat), s.svc.stopped = none → s.portTalks p = true → 0 < n → off % 4 + n ≤ 4 → s.dev.mode ≠ .boot →
      p < 4 → s.mayRead p (off / 4 * 4) = false →
    ∃ t, exec (.flaggedRegisterRead p off n) s = .next t ∧ t.out = .readData p 0 :: s.out ∧ bit (t.port p).accStatus 2 = true
      ∧ (t.reg Reg.HP_DENIED_CNT p).toNat = min 0xFFFFFFFF ((s.reg Reg.HP_DENIED_CNT p).toNat + 1))
  ∧ (∀ (s : State) (off i j : Nat) (r : RegRow), s.svc.stopped = none → off % 4 = 0 → off < 2 ^ 26 → s.dev.mode ≠ .boot →
      s.mayRead 8 off = true → aliasAt off = none → findReg off = some (r, i, j) → r.half = .whole → (∀ x ∈ readRows, r.is x = false) →
      s.areaHeld off = false →
    ∃ t w, exec (.svcPortRead off) s = .next t
      ∧ t.out = .spi (0xA5 :: beBytes 4 (({ s with svc := { s.svc with woken := w } } : State).readWord 8 r i j).toNat) :: s.out)
  ∧ (∀ (s : State) (p : Nat), s.opensRead p Reg.TIME_SNAP_LIN_LO.addr 4 → s.areaHeld Reg.TIME_SNAP_LIN_LO.addr = false →
    ∃ t, exec (.timeSnapLinLoRead p) s = .next t ∧ t.out = .readData p (lo32 s.linear) :: s.out
      ∧ (t.port p).cap.get none Reg.TIME_SNAP_LIN_HI.addr = some (hi32 s.linear)
      ∧ (t.port p).cap.get none Reg.TIME_SNAP_SEC_LO.addr = some (lo32 (s.time.now / secUnit))
      ∧ (t.port p).cap.get none Reg.TIME_SNAP_NS.addr = some (lo32 (s.time.now % secUnit / nsUnit)))
  ∧ (∀ (s : State) (p ch : Nat), ch < 24 → s.opensRead p (Reg.MCH_POS_LO.addr ch) 4 → s.areaHeld (Reg.MCH_POS_LO.addr ch) = false →
    ∃ t, exec (.mchPosLoRead p ch) s = .next t
      ∧ (t.port p).cap.get none (Reg.MCH_STATUS.addr ch) = some (s.mchStatus ch &&& Reg.MCH_STATUS.fields)
      ∧ (t.port p).cap.get none (Reg.MCH_SPEED_LO.addr ch) = some (s.viewMotion Reg.MCH_SPEED_LO ch 0)
      ∧ t.out = .readData p (s.viewMotion Reg.MCH_POS_LO ch 0) :: s.out)
  ∧ (∀ (s : State) (p k : Nat), k < 8 → s.opensRead p (Reg.PRB_TIME_LO.addr k) 4 → s.areaHeld (Reg.PRB_TIME_LO.addr k) = false →
    ∃ t, exec (.prbTimeLoRead p k) s = .next t
      ∧ (t.port p).cap.get none (Reg.PRB_POS0_LO.addr k) = some (s.viewMotion Reg.PRB_POS0_LO k 0)
      ∧ (t.port p).cap.get none (Reg.PRB_TIME_HI.addr k) = some (s.viewMotion Reg.PRB_TIME_HI k 0)
      ∧ t.out = .readData p (s.viewMotion Reg.PRB_TIME_LO k 0) :: s.out)

/-- PORST# and a failing rail hold the device in reset with every volatile record at its reset value; the release samples the straps
and begins boot. A stage that ends leads to the next, or fails boot with its code; firmware start ends boot in the mode of the
keys (PROVISION without either key is the model's choice, log entry 116). No image in 600 s and no ready in 250 ms fail boot. The
service port answers status and takes image bytes while one is awaited. (R33, R272, R506, R507, R508, R517, R609, R617, R618,
R622, R623, R625). -/
def Obligations.ResetsAndBoot : Prop :=
  (∀ s : State, ∃ t, exec .porstAssert s = .next t ∧ t.svc.stopped = some .reset ∧ t.svc.porstLow = true ∧ t.sec.jtagOpen = false
      ∧ t.dev = State.reset.dev ∧ t.cfg = State.reset.cfg ∧ t.rings = [] ∧ t.cur = State.reset.cur ∧ t.hbm = []
      ∧ t.sec.svnFloor = s.sec.svnFloor ∧ t.sec.ownerOwk = s.sec.ownerOwk ∧ t.svc.plog = s.svc.plog)
  ∧ (∀ s : State, ∃ t, exec .supplyDrop s = .next t ∧ t.svc.stopped = some .reset ∧ t.svc.porstLow = s.svc.porstLow
      ∧ t.sec.jtagOpen = false ∧ t.dev = State.reset.dev ∧ t.cfg = State.reset.cfg ∧ t.cur = State.reset.cur ∧ t.hbm = [])
  ∧ (∀ (s : State) (b : Nat) (src : Bool), s.svc.stopped = some .reset → b < 4 →
      ∃ t, exec (.internalResetRelease b src) s = .next t ∧ t.svc.stopped = none ∧ t.svc.bifurc = b ∧ t.svc.bootSrc = src
        ∧ t.bootStage = 1 ∧ ∀ p, p < 4 → strapWidth b p ≠ 0 → t.portExists p = true)
  ∧ (∀ (s : State) (detail : Nat) (data : List Byte) (bad : List Nat) (units : List (Nat × Nat)), s.svc.stopped = none → s.booting = true →
      s.bootStage ∈ [0x01, 0x02, 0x15, 0x17, 0x23, 0x21] →
      ∃ t, exec (.bootStageEnd detail data bad units) s = .next t
        ∧ (s.bootStage = 0x01 → t.bootStage = 0x02) ∧ (s.bootStage = 0x02 → t.bootStage = 0x03)
        ∧ (s.bootStage = 0x15 → detail = 0 → t.bootStage = 0x16) ∧ (s.bootStage = 0x17 → detail = 0 → t.bootStage = 0x23)
        ∧ (s.bootStage = 0x23 → t.bootStage = 0x20)
        ∧ (s.bootStage = 0x21 → t.bootStage = 0x22 ∧ t.svc.softRepairs = [] ∧ t.svc.hardRepairs = s.svc.hardRepairs ++ s.svc.softRepairs)
        ∧ (s.bootStage = 0x15 → 1 ≤ detail → detail ≤ 3 →
            t.bootFailed = true ∧ fld (t.reg Reg.BOOT_STATUS) 15 8 = detail ∧ t.bootStage = 0x15))
  ∧ (∀ (s : State) (detail : Nat) (data : List Byte) (bad : List Nat) (units : List (Nat × Nat)), s.svc.stopped = none → s.booting = true →
      s.bootStage = 0x30 → detail ≠ 2 →
      ∃ t, exec (.bootStageEnd detail data bad units) s = .next t
        ∧ t.dev.mode = (if s.sec.bootZero.isSome then .zeroized
            else if s.sec.ownerDik.isSome ∧ s.sec.ownerOwk.isSome then .standby else .provision)
        ∧ t.sec.selfTested = true ∧ t.sec.svnFloor = max s.sec.svnFloor (s.sec.raiseTo.getD 0))
  ∧ (∀ s : State, s.svc.stopped = none → s.imageWait = true → s.sec.svcImage = [] → s.svc.stageAt + secClk 600 ≤ s.time.clk →
      ∃ t, exec .bootImageTimeout s = .next t ∧ t.bootFailed = true ∧ t.bootStage = 0x11 ∧ fld (t.reg Reg.BOOT_STATUS) 15 8 = 2
        ∧ t.out = .pin "SVC_IRQ#" 0 false :: s.out)
  ∧ (∀ s : State, s.svc.stopped = none → s.booting = true → s.bootStage = 0x30 → s.svc.stageAt + msClk 250 ≤ s.time.clk →
      ∃ t, exec .firmwareReadyTimeout s = .next t ∧ t.bootFailed = true ∧ t.bootStage = 0x30 ∧ fld (t.reg Reg.BOOT_STATUS) 15 8 = 1)
  ∧ (∀ s : State, s.svc.stopped = none →
      ∃ t, exec .svcPortStatus s = .next t ∧ t.out = .spi [BitVec.ofNat 8
        (b2n s.imageWait + 2 * b2n s.sec.imageErr + 4 * b2n (bit (s.reg Reg.BOOT_STATUS) 30))] :: s.out)
  ∧ (∀ (s : State) (data : List Byte), s.svc.stopped = none → s.imageWait = true → data.length ≤ 4096 →
      ∃ t, exec (.svcPortImage data) s = .next t ∧ t.sec.svcImage = s.sec.svcImage ++ data ∧ t.svc = s.svc ∧ t.cur = s.cur)

/-- Each instruction stands in the instruction register and changes nothing else; EXTEST, HIGHZ, CLAMP, EXTEST_PULSE and EXTEST_TRAIN
take effect on the pins only while PORST# is low; IDCODE shifts out 0x13236B47; SAMPLE/PRELOAD shifts out the sampled pins, which
are free values, and keeps the cells. (R620, R153). -/
def Obligations.JtagInstructions : Prop :=
  (∀ s : State, ∀ x ∈ ([(Instr.extest, 0x00), (.highz, 0x04), (.clamp, 0x05), (.extestPulse, 0x08), (.extestTrain, 0x09), (.bypass, 0xFF)] : List (Instr × Nat)),
      ∃ t, exec x.1 s = .next t ∧ t = { s with svc := { s.svc with jtagIr := x.2 } }
        ∧ (s.svc.porstLow = false → t.pinDrive = 0)
        ∧ (s.svc.porstLow = true → t.pinDrive = match x.2 with | 0x00 | 0x05 => 1 | 0x04 => 2 | 0x08 => 3 | 0x09 => 4 | _ => 0))
  ∧ (∀ s : State, ∃ t, exec .idcode s = .next t ∧ t = { s with svc := { s.svc with jtagIr := 0x01 }, out := .tdo 32 0x13236B47 :: s.out })
  ∧ (∀ (s : State) (cells : List Bool), ∃ t, exec (.samplePreload cells) s = .next t ∧ t.svc.jtagIr = 0x02 ∧ t.svc.jtagCells = cells
      ∧ t.out = .tdo cells.length (s.freeNat cells.length) :: s.out ∧ t.free = s.free + 1)

/-- TIME_STEP_ACCEPT with a pending step, and TIME_SET with another source than PTP, from the steward, with FORCE or no rig in RECORD
or BURST and no step decided, decide the step at the present tick, change nothing else of the record of time, and are owed. (R59,
R60, R61, R62). -/
def Obligations.TimeStepsDecided : Prop :=
  (∀ (s : State) (d : Desc), s.takesCmd d → structOk d (tNone d) [(8, 1)] false = true → opAt d 8 1 ≤ 1 → s.isSteward d = true →
      s.dev.mode = .standby ∨ s.dev.mode = .operational → s.time.pendingStep.isSome = true → s.time.decided = none →
      (opAt d 8 1 = 1 ∨ ∀ r, r < 16 → s.rigMode r ≠ .record ∧ s.rigMode r ≠ .burst) →
    ∃ t k, exec (.timeStepAccept d) s = .next t ∧ k = { ticketOf d 0x30 with gen := (s.ring d.ring).gen }
      ∧ t.time = { s.time with decided := some { tick := s.time.tickNum, ticket := some k, isSet := false } } ∧ s.owed t d)
  ∧ (∀ (s : State) (d : Desc), s.takesCmd d → structOk d (tNone d) [(8, 11)] false = true → opAt d 18 1 ≤ 1 → s.isSteward d = true →
      s.dev.mode = .standby ∨ s.dev.mode = .operational → s.source ≠ 1 → s.time.decided = none →
      (opAt d 18 1 = 1 ∨ ∀ r, r < 16 → s.rigMode r ≠ .record ∧ s.rigMode r ≠ .burst) →
    ∃ t k, exec (.timeSet d) s = .next t ∧ k = { ticketOf d 0x31 with gen := (s.ring d.ring).gen }
      ∧ t.time = { s.time with
          pendingStep := some (((opAt d 8 8 : Int) * nsUnit + opAt d 16 2 * 2 ^ 32) - s.time.now),
          decided := some { tick := s.time.tickNum, ticket := some k, isSet := true } } ∧ s.owed t d)

/-- A PTP message of another domain or transport is dropped and counted. A peer delay request is answered; a Delay_Resp gives the path
delay from the four times and the corrections; an Announce whose interval is in range is kept beside those heard. A master that
timed out is forgotten and counted. A link change keeps what was heard and measured. An ARP or echo request for the port's own
address is answered, other frames are dropped and counted. (R52, R55, R57, R87, R629). -/
def Obligations.PtpPorts : Prop :=
  (∀ (s : State) (p : Nat) (m : PtpMsg), s.svc.stopped = none → bit (s.act Reg.TP_CTRL p) 0 = true → (s.tp p).linkUp = true →
      s.recovering 3 = false →
    ∃ t, exec (.ptpMessage p m) s = .next t
      ∧ (m.domain ≠ s.ptpDomain ∨ m.transport ≠ fld (s.act Reg.TP_CTRL p) 5 4 →
          t.time = s.time ∧ t.out = s.out ∧ (t.reg Reg.TP_RX_DROP_CNT p).toNat = min 0xFFFFFFFF ((s.reg Reg.TP_RX_DROP_CNT p).toNat + 1))
      ∧ (m.domain = s.ptpDomain → m.transport = fld (s.act Reg.TP_CTRL p) 5 4 → m.kind = .pdelayReq → bit (s.act Reg.TP_CTRL p) 9 = true →
          t.time = s.time ∧ t.out = .eth p 2 [] :: s.out
            ∧ (t.reg Reg.TP_RX_PTP_CNT p).toNat = min 0xFFFFFFFF ((s.reg Reg.TP_RX_PTP_CNT p).toNat + 1))
      ∧ (∀ t1, m.domain = s.ptpDomain → m.transport = fld (s.act Reg.TP_CTRL p) 5 4 → m.kind = .delayResp → (s.tp p).t1 = some t1 →
          bit (s.act Reg.TP_CTRL p) 9 = false →
          t.tp p = { s.tp p with
            delay := some ((((s.tp p).t2 - t1 - (s.tp p).corr) + (m.time - (s.tp p).t3 - m.corr)) / 2) })
      ∧ (m.domain = s.ptpDomain → m.transport = fld (s.act Reg.TP_CTRL p) 5 4 → m.kind = .announce → -3 ≤ m.logInterval → m.logInterval ≤ 3 →
          (t.tp p).heard = hear (s.tp p).heard m s.time.clk))
  ∧ (∀ (s : State) (p : Nat) (m : Heard), s.svc.stopped = none → (s.tp p).best = some m → m.timedOut s.time.clk = true →
    ∃ t, exec (.ptpSourceLost p) s = .next t
      ∧ (t.tp p).heard = (s.tp p).heard.filter (fun h => !h.timedOut s.time.clk) ∧ (t.tp p).delay = none
      ∧ (t.reg Reg.TP_ANN_TO_CNT p).toNat = min 0xFFFFFFFF ((s.reg Reg.TP_ANN_TO_CNT p).toNat + 1))
  ∧ (∀ (s : State) (p : Nat) (up : Bool), s.svc.stopped = none → bit (s.act Reg.TP_CTRL p) 0 = true →
    ∃ t, exec (.tpLinkState p up) s = .next t ∧ (t.tp p).linkUp = up ∧ (t.tp p).heard = (s.tp p).heard
      ∧ (t.tp p).offset = (s.tp p).offset ∧ (up = true → (t.tp p).tested = true))
  ∧ (∀ (s : State) (p kind addr : Nat) (fields : List Nat), s.svc.stopped = none → bit (s.act Reg.TP_CTRL p) 0 = true → (s.tp p).linkUp = true →
    ∃ t, exec (.tpMacFrame p kind addr fields) s = .next t
      ∧ (kind < 2 → addr = (s.act Reg.TP_IPV4 p).toNat → addr ≠ 0 → t.out = .eth p (3 + kind) fields :: s.out ∧ t.cur = s.cur)
      ∧ (4 ≤ kind → t.out = s.out ∧ (t.reg Reg.TP_RX_DROP_CNT p).toNat = min 0xFFFFFFFF ((s.reg Reg.TP_RX_DROP_CNT p).toNat + 1)))

/-- A PPS_IN edge is placed on the nearest second and is good within 1 us; where another source drives time it does not steer. Three
PPS_IN edges lost set the event and take ACQUIRE and LOCKED to HOLDOVER. A lost CLK10M_IN leaves the local oscillator. A REF_IN
edge is kept at its time, and timers not aligned to it stay. Three bad REF_IN edges set REF_LOST of the timer alone. A good LTC_IN
frame is the label at its instant; four bad ones start FLYWHEEL. (R49, R52, R54, R71, R74, R77, R79). -/
def Obligations.TimeInputs : Prop :=
  (∀ s : State, s.svc.stopped = none → s.source ≠ 2 →
    ∃ t, exec .ppsInEdge s = .next t ∧ t.free = s.free + 1 ∧ t.time.servo = s.time.servo ∧ t.time.adj = s.time.adj
      ∧ let x : Int := ((s.time.now + s.edgeNs * nsUnit : Nat) : Int) - toSigned 32 (s.act Reg.PPS_IN_DELAY).toNat * nsUnit
        let sec := (x + secUnit / 2) / secUnit
        t.time.ppsSec = sec.toNat ∧ t.time.ppsOk = decide (((sec * secUnit - x) / nsUnit).natAbs ≤ 1000)
          ∧ (t.time.ppsOk = true → t.time.ppsBad = 0))
  ∧ (∀ s : State, s.svc.stopped = none → s.source = 2 →
      3 ≤ s.time.ppsBad + ((s.time.now - 1000 * nsUnit - 1) / secUnit - s.time.ppsSec) →
    ∃ t, exec .ppsInLost s = .next t ∧ t.time.ppsOk = false ∧ bit (t.reg Reg.TIME_EVENTS) 7 = true
      ∧ t.time.servo = (if s.time.servo = .acquire ∨ s.time.servo = .locked then .holdover else s.time.servo))
  ∧ (∀ s : State, s.svc.stopped = none → s.time.clk10mUse = true →
    ∃ t, exec .clk10mLost s = .next t ∧ t.time = { s.time with clk10mUse := false, clk10mOk := false }
      ∧ bit (t.reg Reg.TIME_EVENTS) 6 = true)
  ∧ (∀ s : State, s.svc.stopped = none →
    ∃ t, exec .refInEdge s = .next t ∧ t.free = s.free + 1
      ∧ t.time.refAt = some ((s.stamp s.edgeNs : Int) - toSigned 32 (s.act Reg.REF_IN_DELAY).toNat * 65536)
      ∧ ∀ r, r < 16 → ((s.timer r).running = false ∨ s.rtmrAlign r ≠ 1) → t.timer r = s.timer r)
  ∧ (∀ (s : State) (r : Nat), s.svc.stopped = none → (s.timer r).running = true → s.rtmrAlign r = 1 → (s.timer r).waitRef = false →
      (s.timer r).refLost = false → 3 ≤ (s.timer r).refBad →
    ∃ t, exec (.refLost r) s = .next t ∧ t.timer r = { s.timer r with refLost := true, refGood := 0 }
      ∧ ∀ k, k ≠ r → t.timer k = s.timer k)
  ∧ (∀ (s : State) (h m sec f : Nat) (drop : Bool), s.svc.stopped = none → s.time.ltc.flywheel = false →
    ∃ t, exec (.ltcInFrame h m sec f drop true) s = .next t
      ∧ t.time.ltc.last = some ({ hours := h, minutes := m, seconds := sec, frames := f, drop := drop }, s.time.now + s.edgeNs * nsUnit)
      ∧ t.time.ltc.bad = 0 ∧ t.time.ltc.flywheel = false ∧ t.free = s.free + 1)
  ∧ (∀ s : State, s.svc.stopped = none → s.time.ltc.flywheel = false → 4 ≤ s.time.ltc.bad →
    ∃ t, exec .ltcInLost s = .next t ∧ t.time.ltc = { s.time.ltc with flywheel := true, good := 0 } ∧ bit (t.reg Reg.TIME_EVENTS) 8 = true)

/-- PPS_OUT rises at a whole second unless LOCKED_ONLY holds it low, and falls after its width; a trigger pulse ends at its pin's
polarity. LTC_OUT sends the label of a grid frame once. A time compare unit that reached its target fires once, sets FIRED, pulses
its pin, and goes on by its period in PERIODIC mode. A new target written to a disabled unit is stored whole and arms it. (R76,
R81, R82, R83, R85, R469, R590). -/
def Obligations.TimeOutputs : Prop :=
  (∀ s : State, s.svc.stopped = none → s.time.ppsOutSec < s.time.now / secUnit →
    ∃ t, exec .ppsOutPulse s = .next t ∧ t.time.ppsOutSec = s.time.now / secUnit
      ∧ (bit (s.act Reg.TIME_CTRL) 11 = false ∨ s.time.servo = .locked →
          t.time.ppsOut = some (s.time.now + s.actF Reg.PPS_WIDTH 0 31 0 * nsUnit) ∧ t.out = .pin "PPS_OUT" 0 true :: s.out)
      ∧ (bit (s.act Reg.TIME_CTRL) 11 = true → s.time.servo ≠ .locked → t.time.ppsOut = s.time.ppsOut ∧ t.out = s.out))
  ∧ (∀ (s : State) (e : Nat), s.svc.stopped = none → s.time.ppsOut = some e → e ≤ s.time.now → s.time.pulses = [] →
    ∃ t, exec .pulseEnd s = .next t ∧ t.time = { s.time with ppsOut := none } ∧ t.out = .pin "PPS_OUT" 0 false :: s.out)
  ∧ (∀ (s : State) (x : Pulse), s.svc.stopped = none → s.time.ppsOut = none → s.time.pulses = [x] → x.until_ ≤ s.time.clk →
    ∃ t, exec .pulseEnd s = .next t ∧ t.time = { s.time with pulses := [] }
      ∧ t.out = .pin "TRIG_OUT" x.pin (bit (s.act Reg.TRIG_OUT_POL) x.pin) :: s.out)
  ∧ (∀ s : State, s.svc.stopped = none → bit (s.act Reg.TC_CTRL) 7 = true →
      s.time.ltcOutNext ≤ (tcIndex (tcRate (s.actF Reg.TC_CTRL 0 2 0)).1 (tcRate (s.actF Reg.TC_CTRL 0 2 0)).2.1 s.now16).toNat →
    ∃ t, exec .ltcOutFrame s = .next t
      ∧ t.out = .ltc (s.genLabel s.now16).hours (s.genLabel s.now16).minutes (s.genLabel s.now16).seconds (s.genLabel s.now16).frames
          (s.genLabel s.now16).drop :: s.out
      ∧ t.cur = s.cur ∧ t.time.now = s.time.now)
  ∧ (∀ (s : State) (u : Nat), s.svc.stopped = none → u < 16 → bit (s.reg Reg.TCMP_CTRL u) 0 = true → u ∉ s.time.tcmpDone →
      0 ≤ linDiff s.linear (s.tcmpTarget u) →
    ∃ t, exec (.tcmpFire u) s = .next t ∧ bit (t.reg Reg.TCMP_STATUS u) 0 = true
      ∧ (bit (s.reg Reg.TCMP_CTRL u) 1 = false → t.time.tcmpDone = u :: s.time.tcmpDone ∧ t.tcmpTarget u = s.tcmpTarget u)
      ∧ (bit (s.reg Reg.TCMP_CTRL u) 1 = true → 1000 ≤ s.reg64 Reg.TCMP_PERIOD_LO Reg.TCMP_PERIOD_HI u →
          t.tcmpTarget u = (s.tcmpTarget u + s.reg64 Reg.TCMP_PERIOD_LO Reg.TCMP_PERIOD_HI u) % 2 ^ 64)
      ∧ (bit (s.reg Reg.TCMP_CTRL u) 4 = true →
          { source := 32 + u, pin := fld (s.reg Reg.TCMP_CTRL u) 11 8, until_ := s.time.clk + 2 * fld (s.reg Reg.TCMP_CTRL u) 23 16 }
            ∈ t.time.pulses))
  ∧ (∀ (s : State) (p u : Nat) (v : Word), s.writable p Reg.TCMP_TARGET_HI u → bit (s.reg Reg.TCMP_CTRL u) 0 = false →
    ∃ t, exec (.tcmpTargetHiWrite p u v) s = .next t
      ∧ t.tcmpTarget u = ((s.port p).heldLo.get 0 (Reg.TCMP_TARGET_LO.addr u)).toNat + 2 ^ 32 * v.toNat
      ∧ u ∉ t.time.tcmpDone ∧ t.time.pulses = s.time.pulses)

/-- RIG_START, RIG_STOP, RIG_ARM, RIG_DISARM, TAKE_START, TAKE_STOP, BURST_START, BURST_STOP, OFFLOAD_ABORT, CAL_START and CAL_STOP,
from a controller of the rig in OPERATIONAL, legal in the projected mode, with what they reserve admitted, wait for the boundary
two ticks ahead and are owed; takes raise the floor. At the boundary the rig enters the mode of the table, and no other rig
changes. (R37, R38, R39, R41, R43, R95, R303, R409, R412, R415, R475, R500). -/
def Obligations.RigModeCommands : Prop :=
  (∀ (s : State) (d : Desc) (x : Instr × Nat × RigMode), s.takesCmd d → structOk d (tIs d 1 16) [] false = true →
      s.isCtl d (tIndex d) = true → s.dev.mode = .operational →
      x ∈ ([(.rigStop d, 0x11, .idle), (.rigDisarm d, 0x13, .live), (.takeStop d, 0x15, (s.projRig (tIndex d)).2),
        (.burstStop d, 0x17, .offload), (.offloadAbort d, 0x18, .live), (.calStart d, 0x19, .calibrate), (.calStop d, 0x1A, .live)]
        : List (Instr × Nat × RigMode)) → rigLegal x.2.1 (s.projRig (tIndex d)).1 = true →
      ∃ t k, exec x.1 s = .next t ∧ k = { ticketOf d x.2.1 with gen := (s.ring d.ring).gen }
        ∧ t.dev = { s.dev with bound := s.dev.bound
            ++ [⟨s.time.tickNum + 2, some k, .rig (tIndex d) (.command x.2.1) x.2.2 0 0 0 0⟩] }
        ∧ s.owed t d)
  ∧ (∀ (s : State) (d : Desc), s.takesCmd d → structOk d (tIs d 1 16) [] false = true → s.isCtl d (tIndex d) = true →
      s.dev.mode = .operational → (s.projRig (tIndex d)).1 = .idle →
      (∀ st ∈ s.rigStreams (tIndex d), (s.hl (s.streamLink st)).mode = .up) →
      ((s.take d).admission ((s.take d).startActs (tIndex d))).2 = none →
    ∃ t k, exec (.rigStart d) s = .next t ∧ k = { ticketOf d 0x10 with gen := (s.ring d.ring).gen }
      ∧ t.dev = { s.dev with bound := s.dev.bound ++ [⟨s.time.tickNum + 2, some k, .rig (tIndex d) (.command 0x10) .live 0 0 0 0⟩] }
      ∧ s.owed t d)
  ∧ (∀ (s : State) (d : Desc), s.takesCmd d → structOk d (tIs d 1 16) [] false = true → s.isCtl d (tIndex d) = true →
      s.dev.mode = .operational → (s.projRig (tIndex d)).1 = .live →
      ((s.take d).admission [(.preroll (tIndex d), .a)]).2 = none →
    ∃ t k, exec (.rigArm d) s = .next t ∧ k = { ticketOf d 0x12 with gen := (s.ring d.ring).gen }
      ∧ t.dev = { s.dev with bound := s.dev.bound ++ [⟨s.time.tickNum + 2, some k, .rig (tIndex d) (.command 0x12) .armed 0 0 0 0⟩] }
      ∧ s.owed t d)
  ∧ (∀ (s : State) (d : Desc), s.takesCmd d → structOk d (tIs d 1 16) [(8, 2), (10, 1), (12, 4)] false = true →
      s.isCtl d (tIndex d) = true → s.dev.mode = .operational → opAt d 10 1 < 4 →
      (s.projRig (tIndex d)).1 = .armed ∨ (s.projRig (tIndex d)).1 = .live ∧ opAt d 8 2 = 0 →
      s.underFloor s.takeSecs (s.seqOf (opAt d 12 4)) = false → s.takeSet d < 8 →
      (s.take d).eligible (s.takeSet d) ((s.take d).leadBytes (tIndex d) ((s.rigStreams (tIndex d)).foldl
        (fun n st => n + rateTerm s.activeSet (tIndex d) (magBytes s.activeSet st)) 0) 2) = true →
      ((s.take d).admission ((s.take d).takeActs (tIndex d) (s.takeSet d))).2 = none →
    ∃ t k, exec (.takeStart d) s = .next t ∧ k = { ticketOf d 0x14 with gen := (s.ring d.ring).gen }
      ∧ t.dev = { s.dev with bound := s.dev.bound ++ [⟨s.time.tickNum + 2, some k,
          .rig (tIndex d) (.command 0x14) .record (opAt d 8 2) 0 s.takes.nextTake (s.takeSet d)⟩] }
      ∧ t.takes.nextTake = s.takes.nextTake + 1 ∧ t.takes.started = s.takes.started + 1
      ∧ t.sec.floorSecs = s.takeSecs ∧ t.sec.floorSeq = s.seqOf (opAt d 12 4) ∧ s.owed t d)
  ∧ (∀ (s : State) (d : Desc), s.takesCmd d → structOk d (tIs d 1 16) [(8, 2), (12, 4)] false = true →
      s.isCtl d (tIndex d) = true → s.dev.mode = .operational →
      (s.projRig (tIndex d)).1 = .armed ∨ (s.projRig (tIndex d)).1 = .live ∧ opAt d 8 2 = 0 →
      s.underFloor s.takeSecs (s.seqOf 0) = false → ((s.take d).admission ((s.take d).burstActs (tIndex d))).2 = none →
    ∃ t k, exec (.burstStart d) s = .next t ∧ k = { ticketOf d 0x16 with gen := (s.ring d.ring).gen }
      ∧ t.dev = { s.dev with bound := s.dev.bound ++ [⟨s.time.tickNum + 2, some k,
          .rig (tIndex d) (.command 0x16) .burst (opAt d 8 2) (opAt d 12 4) s.takes.nextTake 0xFF⟩] }
      ∧ t.takes.nextTake = s.takes.nextTake + 1
      ∧ t.sec.floorSecs = s.takeSecs ∧ t.sec.floorSeq = s.seqOf 0 ∧ s.owed t d)
  ∧ (∀ (s : State) (r op : Nat) (dest : RigMode) (k : Option Ticket) (tick : Nat), s.svc.stopped = none → r < 16 →
      (op, dest) ∈ [(0x10, .live), (0x11, .idle), (0x12, .armed), (0x13, .live), (0x18, .live), (0x19, .calibrate), (0x1A, .live)] →
      s.dev.mode = .operational → rigLegal op (s.rigMode r) = true → tick ≤ s.time.tickNum →
      s.dev.bound = [⟨tick, k, .rig r (.command op) dest 0 0 0 0⟩] →
    ∃ t, exec (.rigModeChange r) s = .next t ∧ t.rigMode r = dest ∧ (t.rig r).prev = s.rigMode r ∧ (t.rig r).cause = op
      ∧ (t.rig r).changes = satAdd 0xFF (s.rig r).changes 1 ∧ ∀ j, j ≠ r → t.rig j = s.rig j)

/-- MAG_RELEASE of a READY bay that no command holds releases it and completes. MAG_FORMAT, MAG_SANITIZE, MAG_REPAIR and MAG_READ,
with bays and drives as they ask, start their command, MAG_READ with its first read of at most 256 blocks, and are owed. MAG_RELAY
of a recording take with a set to relay to sets the relay boundary two ticks ahead. A drive command that completes leaves the
list; one that fails with DNR clear is issued again once; a read run of MAG_READ is kept. (R291, R293, R294, R303, R308, R310,
R316, R323, R330, R350, R412, R635). -/
def Obligations.MagazineCommands : Prop :=
  (∀ (s : State) (d : Desc), s.takesCmd d → structOk d (tIs d 5 4) [] false = true → s.isSteward d = true →
      s.dev.mode ≠ .boot → (s.bay (tIndex d)).mode = .ready → (s.bay (tIndex d)).released = false →
      (∀ j ∈ s.mag.jobs, tIndex d ∉ s.jobBays j) →
    ∃ t, exec (.magRelease d) s = .next t ∧ (t.bay (tIndex d)).released = true ∧ (t.bay (tIndex d)).mode = .ready
      ∧ (t.bay (tIndex d)).ticket = none ∧ s.finished t d)
  ∧ (∀ (s : State) (d : Desc), s.takesCmd d → structOk d (tIs d 6 8) [] false = true → s.isSteward d = true →
      s.dev.mode = .standby ∨ s.dev.mode = .operational → s.magHeld (setBays s.magSet (tIndex d)) = false →
      s.magSet.bit Reg.MSET_CTRL (tIndex d) 0 = true → (∀ b ∈ setBays s.magSet (tIndex d), (s.bay b).mode = .ready) →
      (∀ k ∈ setDrives s.magSet (tIndex d), (s.drive k).mode = .ready) → s.sec.drbgBlocked = false →
    ∃ t k, exec (.magFormat d) s = .next t ∧ k = { ticketOf d 0x51 with gen := (s.ring d.ring).gen }
      ∧ t.mag.jobs = s.mag.jobs ++ [{ id := s.mag.nextJob, opcode := 0x51, target := tIndex d, ticket := k, uuid := s.freeNat 128 }]
      ∧ t.free = s.free + 1 ∧ s.owed t d)
  ∧ (∀ (s : State) (d : Desc), s.takesCmd d → structOk d (tIs d 5 4) [] false = true → s.isSteward d = true →
      s.dev.mode = .standby ∨ s.dev.mode = .operational → s.magHeld [tIndex d] = false → (s.bay (tIndex d)).mode = .ready →
    ∃ t k, exec (.magSanitize d) s = .next t ∧ k = { ticketOf d 0x53 with gen := (s.ring d.ring).gen }
      ∧ t.mag.jobs = s.mag.jobs ++ [{ id := s.mag.nextJob, opcode := 0x53, target := tIndex d, ticket := k }] ∧ s.owed t d)
  ∧ (∀ (s : State) (d : Desc), s.takesCmd d → structOk d (tIs d 5 4) [] false = true → s.isSteward d = true →
      s.dev.mode = .standby ∨ s.dev.mode = .operational → s.magHeld [tIndex d] = false → (s.bay (tIndex d)).mode = .ready →
      (s.bay (tIndex d)).content = 3 → s.readable (tIndex d) = true →
    ∃ t k, exec (.magRepair d) s = .next t ∧ k = { ticketOf d 0x52 with gen := (s.ring d.ring).gen }
      ∧ t.mag.jobs = s.mag.jobs ++ [{ id := s.mag.nextJob, opcode := 0x52, target := tIndex d, ticket := k }] ∧ s.owed t d)
  ∧ (∀ (s : State) (d : Desc), s.takesCmd d → structOk d (tIs d 5 4) [(8, 1), (12, 4), (16, 8), (24, 8)] false = true →
      s.dev.mode = .standby ∨ s.dev.mode = .operational → opAt d 8 1 < 4 → 1 ≤ opAt d 12 4 → opAt d 12 4 ≤ 65536 →
      opAt d 24 8 % 64 = 0 → opAt d 16 8 + opAt d 12 4 ≤ s.reg64 Reg.MBS_BLOCKS_LO Reg.MBS_BLOCKS_HI (4 * tIndex d + opAt d 8 1) →
      s.magHeld [tIndex d] = false → (s.bay (tIndex d)).mode = .ready ∨ (s.bay (tIndex d)).mode = .inUse →
      (s.drive (4 * tIndex d + opAt d 8 1)).mode = .ready ∨ (s.drive (4 * tIndex d + opAt d 8 1)).mode = .inUse →
    ∃ t k, exec (.magRead d) s = .next t ∧ k = { ticketOf d 0x54 with gen := (s.ring d.ring).gen }
      ∧ t.mag.jobs = s.mag.jobs ++ [{
          id := s.mag.nextJob, opcode := 0x54, target := tIndex d, ticket := k,
          slot := 4 * tIndex d + opAt d 8 1, lba := opAt d 16 8, blocks := opAt d 12 4, addr := opAt d 24 8 }]
      ∧ t.mag.cmds = s.mag.cmds ++ [{
          id := s.mag.nextCmd, slot := 4 * tIndex d + opAt d 8 1, kind := .job s.mag.nextJob, op := .read,
          lba := opAt d 16 8, blocks := min 256 (opAt d 12 4), at_ := s.time.clk }]
      ∧ s.owed t d)
  ∧ (∀ (s : State) (d : Desc) (x : Take) (m e : Nat) (new : List Resv), s.takesCmd d → structOk d (tIs d 1 16) [] false = true →
      s.isCtl d (tIndex d) = true → s.dev.mode = .operational → s.rigMode (tIndex d) = .record →
      s.recordingTake (tIndex d) = some x → (s.take d).chooseSet x (s.rec_ x.id) = .ok (m, e, new) →
    ∃ t k, exec (.magRelay d) s = .next t ∧ k = { ticketOf d 0x1B with gen := (s.ring d.ring).gen }
      ∧ (t.rec_ x.id).relay = some { reason := 0, set := m, entry := e, tick := s.time.tickNum + 2, ticket := some k }
      ∧ t.takes = s.takes ∧ s.owed t d)
  ∧ (∀ (s : State) (c : DrvCmd) (r : DrvReply), s.svc.stopped = none →
      s.mag.cmds.find? (fun x => decide (x.slot = c.slot) && decide (x.id = c.id)) = some c →
    ∃ t, exec (.driveCommandComplete c.slot c.id r) s = .next t
      ∧ (r.error = false → c.kind = .smart ∨ c.kind = .release → t.mag = { s.mag with cmds := s.mag.cmds.filter (fun x => decide (x.id ≠ c.id)) })
      ∧ (r.error = true → r.dnr = false → c.retried = false →
          t.mag.cmds = s.mag.cmds.map (fun x => if x.id = c.id then { x with retried := true, at_ := s.time.clk } else x)
            ∧ t.out = .drive c.slot c.queue c.op c.lba c.blocks c.data :: .drive c.slot 0 .logPage 0 0 [] :: s.out)
      ∧ (∀ j, r.error = false → c.kind = .job j.id → s.mag.jobs = [j] → j.opcode = 0x54 → j.failed = false →
          t.mag.jobs = [{ j with data := sliceBytes r.data 0 (min 256 (j.blocks - j.done) * 4096) }]))

/-- A commit of a pending set that is valid and admissible, a clear with every rig IDLE, and a fallback in OPERATIONAL wait for the
boundary two ticks ahead; a fallback in STANDBY sets the pending set at once. At the boundary the set becomes active with the next
version and the set before it PREVIOUS if it passed; a clear leaves STANDBY and no active set. A set passes when its probation
ends. A sealed object keeps its digest where it equals the one asked for, and is open again where it does not. (R30, R33, R412,
R526, R527, R529, R531, R534, R536, R540, R542, R543). -/
def Obligations.ConfigurationSets : Prop :=
  (∀ (s : State) (d : Desc), s.takesCmd d → structOk d (tNone d) [(8, 4)] false = true → s.isSteward d = true →
      s.dev.mode = .standby ∨ s.dev.mode = .operational → opAt d 8 4 = 0 ∨ opAt d 8 4 = s.cfg.activeVer → s.cfgWaiting = false →
      s.cfg.spent = false → (s.take d).validate s.cfg.pending = none → worst ((s.take d).commitMisfits s.cfg.pending) = none →
    ∃ t k, exec (.configCommit d) s = .next t ∧ k = { ticketOf d 0x20 with gen := (s.ring d.ring).gen }
      ∧ t.dev = { s.dev with bound := s.dev.bound ++ [⟨s.time.tickNum + 2, some k, .commit s.cfg.pending⟩] }
      ∧ t.cfg = s.cfg ∧ s.owed t d)
  ∧ (∀ (s : State) (d : Desc), s.takesCmd d → structOk d (tNone d) [] false = true → s.isSteward d = true →
      s.dev.mode = .operational → (∀ r, r < 16 → s.rigMode r = .idle ∧ (s.projRig r).1 = .idle) → s.cfgWaiting = false →
    ∃ t k, exec (.configClear d) s = .next t ∧ k = { ticketOf d 0x21 with gen := (s.ring d.ring).gen }
      ∧ t.dev = { s.dev with bound := s.dev.bound ++ [⟨s.time.tickNum + 2, some k, .clear⟩] } ∧ t.cfg = s.cfg ∧ s.owed t d)
  ∧ (∀ (s : State) (d : Desc), s.takesCmd d → structOk d (tNone d) [(8, 1)] false = true → s.isSteward d = true →
      s.dev.mode = .standby → opAt d 8 1 = 1 ∨ opAt d 8 1 = 0 ∧ s.cfg.previous.isSome = true →
    ∃ t, exec (.configFallback d) s = .next t ∧ t.dev = s.dev ∧ s.finished t d
      ∧ t.cfg = { s.cfg with pending := if opAt d 8 1 = 1 then [] else (s.cfg.previous.map (·.regs)).getD [] })
  ∧ (∀ (s : State) (d : Desc), s.takesCmd d → structOk d (tNone d) [(8, 1)] false = true → s.isSteward d = true →
      s.dev.mode = .operational → opAt d 8 1 = 1 ∨ opAt d 8 1 = 0 ∧ s.cfg.previous.isSome = true → s.cfg.spent = false →
      s.cfg.undo = none →
    ∃ t k, exec (.configFallback d) s = .next t ∧ k = { ticketOf d 0x22 with gen := (s.ring d.ring).gen } ∧ s.owed t d
      ∧ t.cfg = { s.cfg with
          pending := (s.take d).keepLocked ((s.take d).fallbackSet (decide (opAt d 8 1 = 1))), probation := none, failedVersion := s.cfg.activeVer,
          fbCause := 0x100 }
      ∧ t.dev = { s.dev with bound := s.dev.bound
          ++ [⟨s.time.tickNum + 2, some k, .fallback (decide (opAt d 8 1 = 1)) true 0⟩] })
  ∧ (∀ (s : State) (tick : Nat) (k : Option Ticket) (set : RegSet), s.svc.stopped = none → s.dev.bound = [⟨tick, k, .commit set⟩] →
      tick ≤ s.time.tickNum → s.dev.mode = .standby ∨ s.dev.mode = .operational →
    ∃ t, exec .commitBoundary s = .next t ∧ t.dev.mode = .operational ∧ t.cfg.lastVersion = s.cfg.lastVersion + 1
      ∧ t.cfg.active = some {
          regs := set, version := s.cfg.lastVersion + 1, passed := decide (set.fld Reg.CFG_PROB_CTRL 0 31 16 = 0), fallback := false }
      ∧ t.cfg.previous = (match s.cfg.active with
          | some a => if a.passed then some a else s.cfg.previous
          | none => s.cfg.previous))
  ∧ (∀ (s : State) (tick c : Nat) (factory comm : Bool) (k : Option Ticket), s.svc.stopped = none →
      s.dev.bound = [⟨tick, k, .fallback factory comm c⟩] → tick ≤ s.time.tickNum → s.dev.mode = .operational → s.cfg.spent = false →
    ∃ t, exec .configFallbackBoundary s = .next t ∧ t.dev.mode = .operational ∧ t.cfg.lastVersion = s.cfg.lastVersion + 1
      ∧ t.cfg.active = some {
          regs := State.keepLocked { s with dev := { s.dev with bound := [] } } (s.fallbackSet factory), version := s.cfg.lastVersion + 1, passed := false, fallback := true })
  ∧ (∀ (s : State) (tick : Nat) (k : Option Ticket), s.svc.stopped = none → s.dev.bound = [⟨tick, k, .clear⟩] →
      tick ≤ s.time.tickNum →
    ∃ t, exec .configClearBoundary s = .next t ∧ t.dev.mode = .standby ∧ t.cfg.active = none ∧ t.dev.prevMode = s.dev.mode
      ∧ t.cfg.lastVersion = s.cfg.lastVersion
      ∧ t.cfg.previous = (match s.cfg.active with
          | some a => if a.passed then some a else s.cfg.previous
          | none => s.cfg.previous))
  ∧ (∀ s : State, s.svc.stopped = none → s.cfg.probation = some 0 →
    ∃ t, exec .probationEnd s = .next t ∧ t.dev = s.dev
      ∧ t.cfg = { s.cfg with probation := none, active := s.cfg.active.map (fun a => { a with passed := true }) })
  ∧ (∀ (s : State) (i : Nat) (o : ObjSt), s.svc.stopped = none →
      s.obj.dir.find? (fun e => decide (e.2.phase = .sealing)) = some (i, o) → s.obj.dir.get {} i = o →
    ∃ t, exec .tobjSealDone s = .next t ∧ t.obj.heap = s.obj.heap ∧ bit (t.reg Reg.TOBJ_CTRL) 31 = false
      ∧ (sha384 (s.objBytes (o.gen * 65536 + i) 0 o.size) = o.want → t.obj.dir.get {} i = { o with
          phase := .sealed_, digest := o.want, want := [] } ∧ (t.reg Reg.TOBJ_RESULT).toNat = stDone)
      ∧ (sha384 (s.objBytes (o.gen * 65536 + i) 0 o.size) ≠ o.want → t.obj.dir.get {} i = { o with phase := .open_, want := [] }
          ∧ (t.reg Reg.TOBJ_RESULT).toNat = stIntegrity))

/-- SETTINGS_POST in time queues its packet for its tick and completes; SENSOR_REG opens a transaction. Settings whose tick has come
are sent. Beacons and credits leave with their place. A credit, CAPABILITY, a lost TIME_LOCK, a settings NAK and a completion act
on the link; a transaction without answer times out. A codeword is counted, corrected or uncorrectable. (R121, R155, R162, R165,
R166, R168, R169, R171, R180, R182, R183). -/
def Obligations.LinkPackets : Prop :=
  (∀ (s : State) (d : Desc) (f : Int), s.takesCmd d → structOk d (tIs d 2 64) settingsUsed false = true →
      1 ≤ opAt d 12 2 ∧ opAt d 12 2 ≤ 0xFFFE → opAt d 14 1 ≤ 1 → 1 ≤ opAt d 15 1 ∧ opAt d 15 1 ≤ 120 → opAt d 16 8 % 8 = 0 →
      s.isCtl d (s.streamRig (tIndex d)) = true → s.dev.mode = .operational → s.streamOn (tIndex d) = true →
      s.rigMode (s.streamRig (tIndex d)) ≠ .idle → (s.hl (s.streamLink (tIndex d))).mode = .up →
      f = (s.take d).settingsTick (s.streamRig (tIndex d)) (((s.hl (s.streamLink (tIndex d))).cap.map (·.k)).getD 1) (opAt d 8 4) →
      (s.time.tickNum : Int) + 1 ≤ f →
      (s.hl (s.streamLink (tIndex d))).settings.filter (fun x => decide (x.stream = tIndex d) && decide ((x.sendTick : Int) = f)) = [] →
    ∃ t, exec (.settingsPost d) s = .next t ∧ s.finished t d
      ∧ (t.hl (s.streamLink (tIndex d))).settings = (s.hl (s.streamLink (tIndex d))).settings ++ [{
          stream := tIndex d, run := (s.run (s.streamRig (tIndex d))).run, frame := opAt d 8 4, posted := opAt d 8 4, tag := opAt d 12 2,
          entries := sliceBytes d.buf 0 (8 * opAt d 15 1), sendTick := f.toNat, slipped := false }])
  ∧ (∀ (s : State) (d : Desc), s.takesCmd d → structOk d (tIs d 3 32) [(8, 2), (12, 12)] false = true → opAt d 8 1 ≤ 1 →
      1 ≤ opAt d 9 1 ∧ opAt d 9 1 ≤ 64 → opAt d 16 8 % 4 = 0 → s.isSteward d = true → s.dev.mode = .standby ∨ s.dev.mode = .operational →
      (s.hl (tIndex d)).mode = .up → (s.hl (tIndex d)).txns.length < 16 →
    ∃ t k, exec (.sensorReg d) s = .next t ∧ s.owed t d ∧ k = { ticketOf d 0x41 with gen := (s.ring d.ring).gen }
      ∧ (t.hl (tIndex d)).nextTxn = (s.hl (tIndex d)).nextTxn + 1
      ∧ (t.hl (tIndex d)).txns = (s.hl (tIndex d)).txns ++ [{
          txn := (s.hl (tIndex d)).nextTxn % 65536, ticket := k, isRead := decide (opAt d 8 1 = 1), words := opAt d 9 1,
          data := opAt d 16 8, at_ := s.time.clk }])
  ∧ (∀ (s : State) (l : Nat), s.svc.stopped = none →
    ∃ t, exec (.settingsSend l) s = .next t
      ∧ (t.hl l).settings = (s.hl l).settings.filter (fun x => decide (s.time.tickNum < x.sendTick))
      ∧ (t.hl l).sentSettings = (s.hl l).sentSettings ++ (s.hl l).settings.filter (fun x => decide (x.sendTick ≤ s.time.tickNum)))
  ∧ (∀ (s : State) (l b : Nat) (tNext tAfter : Int), s.svc.stopped = none → s.linkCarries l = true →
      b = (if (s.hl l).beaconBlock = some (s.hl l).block then (s.hl l).block + 1 else (s.hl l).block) →
    ∃ t, exec (.beaconSend l tNext tAfter) s = .next t
      ∧ t.out = .head l { mkPkt 3 0 0 (leBytes 2 (b + 1)) (timeBytes tNext ++ [0, 0] ++ timeBytes tAfter ++ leBytes 1 s.time.epoch
          ++ leBytes 1 (b2n (s.hl l).delayValid + 2 * b2n (decide (s.time.servo = .holdover))) ++ leBytes 4 (ofSigned 32 (s.hl l).delay)
          ++ List.replicate 4 0) with vcPos := (s.hl l).sent0 % 2 ^ 24 } :: s.out
      ∧ (t.hl l).block = b ∧ (t.hl l).beaconBlock = some b
      ∧ (t.hl l).beacons.head? = some { block := (b + 1) % 65536, next := tNext, after := tAfter })
  ∧ (∀ (s : State) (l : Nat), s.svc.stopped = none → s.linkCarries l = true →
      (s.hl l).creditDue = true ∨ (s.hl l).creditAt + usClk 100 ≤ s.time.clk →
    ∃ t, exec (.creditSend l) s = .next t
      ∧ t.out = .head l { mkPkt 1 0 0 (leBytes 3 (s.hl l).freed1 ++ leBytes 3 (s.hl l).freed2) [] with vcPos := (s.hl l).sent0 % 2 ^ 24 } :: s.out
      ∧ (t.hl l).creditDue = false ∧ (t.hl l).creditAt = s.time.clk ∧ (t.hl l).credited = some ((s.hl l).freed1, (s.hl l).freed2))
  ∧ (∀ (s : State) (l : Nat) (p : Pkt), s.svc.stopped = none → s.linkCarries l = true → p.ptype = 1 → (s.hl l).rx.head? = some p →
      (s.hl l).wait1 = [] →
    ∃ t, exec (.credit l p) s = .next t ∧ t.out = s.out
      ∧ t.hl l = { s.hl l with rx := (s.hl l).rx.drop 1, headFreed1 := some (leAt p.fields 0 3) })
  ∧ (∀ (s : State) (l : Nat) (p : Pkt) (at_ : Int), s.svc.stopped = none → p.ptype = 4 → (s.hl l).mode = .up → (s.hl l).timeLock = true →
      leAt p.payload 4 1 % 2 = 0 →
    ∃ t, exec (.beaconEcho l p at_) s = .next t ∧ (t.hl l).mode = .capability ∧ (t.hl l).timeLock = false
      ∧ bit (t.reg Reg.HL_EVENTS l) 7 = true)
  ∧ (∀ (s : State) (l : Nat) (p : Pkt), s.svc.stopped = none → p.ptype = 0x0F → (s.hl l).mode = .capability → (s.hl l).timeLock = true →
    ∃ t, exec (.capability l p) s = .next t ∧ (t.hl l).mode = .up ∧ (t.hl l).cap = some (parseCap p.payload)
      ∧ (t.hl l).capLast = some (parseCap p.payload) ∧ (t.hl l).sentSettings = [])
  ∧ (∀ (s : State) (l : Nat) (p : Pkt), s.svc.stopped = none → s.linkCarries l = true → p.ptype = 0x0B → (s.hl l).rx.head? = some p →
    ∃ t, exec (.settingsAck l p) s = .next t ∧ t.hl l = { s.hl l with rx := (s.hl l).rx.drop 1 }
      ∧ (leAt p.fields 6 1 = 0 → t.cur = s.cur)
      ∧ (leAt p.fields 6 1 ≠ 0 → bit (t.reg Reg.HL_EVENTS l) 4 = true
          ∧ (t.reg Reg.HL_SETTINGS_NAK_CNT l).toNat = min 0xFFFFFFFF ((s.reg Reg.HL_SETTINGS_NAK_CNT l).toNat + 1)))
  ∧ (∀ (s : State) (l : Nat) (p : Pkt) (x : Txn), s.svc.stopped = none → s.linkCarries l = true → p.ptype = 0x0E →
      (s.hl l).txns = [x] → x.txn = leAt p.fields 0 2 →
    ∃ t, exec (.regCompletion l p) s = .next t ∧ (t.hl l).txns = []
      ∧ (x.ticket.gen = (s.ring x.ticket.ring).gen → (t.ring x.ticket.ring).outstanding = (s.ring x.ticket.ring).outstanding - 1))
  ∧ (∀ (s : State) (l : Nat) (x : Txn), s.svc.stopped = none → (s.hl l).txns = [x] →
      x.at_ + usClk (s.act Reg.HL_REG_TIMEOUT l).toNat ≤ s.time.clk →
    ∃ t, exec (.regTimeout l) s = .next t ∧ (t.hl l).txns = [] ∧ bit (t.reg Reg.HL_EVENTS l) 5 = true
      ∧ (t.reg Reg.HL_REG_TIMEOUT_CNT l).toNat = min 0xFFFFFFFF ((s.reg Reg.HL_REG_TIMEOUT_CNT l).toNat + 1)
      ∧ (x.ticket.gen = (s.ring x.ticket.ring).gen → (t.ring x.ticket.ring).outstanding = (s.ring x.ticket.ring).outstanding - 1))
  ∧ (∀ (s : State) (n : Nat) (levels data : List Nat) (bits : List Bool) (scr : BitVec 31), s.svc.stopped = none → (s.lane n).inData = true →
      (s.lane n).mode = .locked → (s.lane n).cw < 4096 → (s.lane n).spare = false → (s.lane n).link = none →
      data = (if (s.lane n).rxPre then unprecode (s.lane n).prevP levels else levels) →
      (bits, scr) = scramble (s.lane n).scr (data.flatMap grayBits) →
    ∃ t, exec (.codewordReceive n levels) s = .next t
      ∧ t.reg64 Reg.LANE_CW_CNT_LO Reg.LANE_CW_CNT_HI n = (s.reg64 Reg.LANE_CW_CNT_LO Reg.LANE_CW_CNT_HI n + 1) % 2 ^ 64
      ∧ (t.lane n).cw = (s.lane n).cw + 1 ∧ (t.lane n).scr = scr
      ∧ (rsDecode (symsOf bits) = none → (t.lane n).uncorr = (s.lane n).uncorr + 1 ∧ bit (t.reg Reg.LANE_EVENTS n) 0 = true
        ∧ t.reg64 Reg.LANE_UNCORR_CNT_LO Reg.LANE_UNCORR_CNT_HI n = (s.reg64 Reg.LANE_UNCORR_CNT_LO Reg.LANE_UNCORR_CNT_HI n + 1) % 2 ^ 64)
      ∧ (∀ fixed k, rsDecode (symsOf bits) = some (fixed, k) → (t.lane n).uncorr = 0
        ∧ t.reg64 Reg.LANE_CORR_SYM_LO Reg.LANE_CORR_SYM_HI n = (s.reg64 Reg.LANE_CORR_SYM_LO Reg.LANE_CORR_SYM_HI n + k) % 2 ^ 64))

/-- An inserted magazine starts its bay where it is enabled. A drive link trains or is rejected; a ready controller is identified; a
slot unresolved after 10 s is rejected. A command past its timeout, a lost link or CFS declares a working drive FAILED with its
events. A SMART poll leaves temperature and use. A CLOSING bay without commands flushes, then is released. (R282, R287, R288,
R291, R310, R311, R316, R635). -/
def Obligations.BaysAndDrives : Prop :=
  (∀ (s : State) (b : Nat) (page : List Byte), s.svc.stopped = none → (s.bay b).present = false → (s.bay b).mode ≠ .inserting →
    ∃ t, exec (.bayInsert b page) s = .next t ∧ (t.bay b).present = true ∧ (t.bay b).page = page
      ∧ (bit (s.act Reg.BAY_CTRL b) 0 = true → (t.bay b).mode = .inserting ∧ (t.bay b).t0 = s.time.clk
          ∧ (t.bay b).idPage = parseIdPage page ∧ bit (t.reg Reg.BAY_EVENTS b) 0 = true)
      ∧ (bit (s.act Reg.BAY_CTRL b) 0 = false → (t.bay b).mode = (s.bay b).mode))
  ∧ (∀ (s : State) (d gen width : Nat), s.svc.stopped = none → (s.bay (bayOf d)).mode = .identify → (s.drive d).mode = .link →
    ∃ t, exec (.driveLinkUp d gen width) s = .next t
      ∧ (gen = 4 ∨ gen = 5 → width = 1 ∨ width = 2 ∨ width = 4 → (t.drive d).mode = .identify ∧ (t.drive d).gen = gen ∧ (t.drive d).width = width)
      ∧ (¬ ((gen = 4 ∨ gen = 5) ∧ (width = 1 ∨ width = 2 ∨ width = 4)) → (t.drive d).mode = .rejected ∧ (t.drive d).reason = 5))
  ∧ (∀ (s : State) (d : Nat), s.svc.stopped = none → (s.drive d).mode = .identify → (∀ c ∈ s.mag.cmds, c.slot ≠ d) →
    ∃ t, exec (.controllerReady d) s = .next t ∧ t.out = .drive d 0 .identify 0 0 [] :: s.out
      ∧ t.mag = { s.mag with nextCmd := s.mag.nextCmd + 1, cmds := s.mag.cmds ++ [{
          id := s.mag.nextCmd, slot := d, kind := .identify, op := .identify, queue := 0, at_ := s.time.clk }] })
  ∧ (∀ (s : State) (d : Nat), s.svc.stopped = none → (s.bay (bayOf d)).mode = .identify → (s.bay (bayOf d)).t0 + msClk 10000 ≤ s.time.clk →
      (s.drive d).mode = .link ∨ (s.drive d).mode = .identify →
    ∃ t, exec (.identifyTimeout d) s = .next t ∧ (t.drive d).mode = .rejected ∧ (t.drive d).reason = 6
      ∧ t.mag.cmds = s.mag.cmds.filter (fun c => decide (c.slot ≠ d)))
  ∧ (∀ (s : State) (d : Nat), s.svc.stopped = none → (s.drive d).mode = .ready ∨ (s.drive d).mode = .inUse →
      s.mag.cmds.any (fun c => decide (c.slot = d) && decide (c.at_ + msClk (s.act Reg.MB_CMD_TIMEOUT).toNat ≤ s.time.clk)) = true →
    ∃ t, exec (.driveCommandTimeout d) s = .next t ∧ s.driveFailed t d ∧ bit (t.reg Reg.MBS_EVENTS d) 2 = true)
  ∧ (∀ (s : State) (d : Nat), s.svc.stopped = none → (s.bay (bayOf d)).present = true →
    ∃ t, exec (.driveLinkDown d) s = .next t
      ∧ ((s.drive d).mode = .ready ∨ (s.drive d).mode = .inUse → s.driveFailed t d ∧ bit (t.reg Reg.MBS_EVENTS d) 3 = true)
      ∧ ((s.drive d).mode = .identify → (t.drive d).mode = .rejected ∧ (t.drive d).reason = 5))
  ∧ (∀ (s : State) (d : Nat), s.svc.stopped = none → (s.drive d).mode = .ready ∨ (s.drive d).mode = .inUse →
    ∃ t, exec (.controllerFatalStatus d) s = .next t ∧ s.driveFailed t d)
  ∧ (∀ (s : State) (d temp pct warn : Nat), s.svc.stopped = none → (s.drive d).mode = .ready ∨ (s.drive d).mode = .inUse →
      warn.testBit 3 = false ∨ (s.drive d).warn.testBit 3 = true →
    ∃ t, exec (.smartPoll d temp pct warn) s = .next t ∧ t.reg Reg.MBS_TEMP d = BitVec.ofNat 32 (temp % 65536)
      ∧ t.reg Reg.MBS_PCT_USED d = BitVec.ofNat 32 (pct % 256) ∧ (t.drive d).warn = warn % 256
      ∧ (t.drive d).mode = (s.drive d).mode)
  ∧ (∀ (s : State) (b : Nat), s.svc.stopped = none → (s.bay b).mode = .closing → (∀ c ∈ s.mag.cmds, bayOf c.slot ≠ b) →
    ∃ t, exec (.bayRelease b) s = .next t
      ∧ ((s.bay b).closingAt = 0 → (t.bay b).mode = .closing ∧ (t.bay b).closingAt = 1)
      ∧ ((s.bay b).closingAt ≠ 0 → (t.bay b).mode = .ready ∧ (t.bay b).released = true ∧ (t.bay b).closingAt = 0
          ∧ (t.bay b).ticket = none ∧ bit (t.reg Reg.BAY_EVENTS b) 5 = true))

/-- A decoder counts its edges; both tracks at once are QUAD_ERR; the first index event sets the position. A serial read without
answer raises its alarm, a good one sets the position; a sine sample moves it or goes bad on the fourth outside the window.
Standstill and decay settle the speed. An echo steps, a probe edge latches time and positions, a trigger input starts a burst, a
frame takes its samples. (R451, R452, R454, R455, R457, R460, R463, R464, R465, R471, R475, R477). -/
def Obligations.MotionChannels : Prop :=
  (∀ (s : State) (ch : Nat) (a b : Bool) (d : Int), s.svc.stopped = none → s.mchLive ch = true → s.mchType ch ≤ 5 →
      fld (s.act Reg.MCH_CTRL ch) 13 12 = 0 → (s.mch ch).setAt ≠ s.time.clk + 1 →
      d = countOf (s.mchType ch) (s.mch ch).a (s.mch ch).b a b →
    ∃ t, exec (.positionCount ch a b) s = .next t ∧ (t.mch ch).a = a ∧ (t.mch ch).b = b
      ∧ (t.mch ch).pos = (s.mch ch).pos + posOf (if bit (s.act Reg.MCH_CTRL ch) 4 then -d else d)
      ∧ (t.mch ch).referenced = (s.mch ch).referenced ∧ (t.mch ch).z = (s.mch ch).z)
  ∧ (∀ (s : State) (ch : Nat), s.svc.stopped = none → s.mchLive ch = true → s.mchType ch ≤ 3 → fld (s.act Reg.MCH_CTRL ch) 13 12 = 0 →
    ∃ t, exec (.quadErr ch) s = .next t ∧ (t.mch ch).suspect = true ∧ bit (t.reg Reg.MCH_EVENTS ch) 0 = true
      ∧ (t.mch ch).a = !(s.mch ch).a ∧ (t.mch ch).b = !(s.mch ch).b ∧ (t.mch ch).pos = (s.mch ch).pos)
  ∧ (∀ (s : State) (ch : Nat), s.svc.stopped = none → s.mchLive ch = true → s.mchType ch ≤ 5 → fld (s.act Reg.MCH_CTRL ch) 13 12 ≠ 0 →
      bit (s.act Reg.MCH_CTRL ch) 18 = false → (s.mch ch).z = false → (s.mch ch).referenced = false →
    ∃ t, exec (.indexEvent ch true) s = .next t ∧ (t.mch ch).referenced = true ∧ (t.mch ch).z = true
      ∧ (t.mch ch).pos = pairPos (s.act Reg.MCH_INDEX_POS_LO ch) (s.act Reg.MCH_INDEX_POS_HI ch) ∧ t.cur = s.cur)
  ∧ (∀ (s : State) (ch raw : Nat) (ack : Bool) (crc : Nat) (nE nW high : Bool) (ago : Nat), s.svc.stopped = none → s.mchLive ch = true →
      ago ≤ s.time.clk →
    ∃ t, exec (.serialRead ch raw ack crc nE nW high ago) s = .next t
      ∧ (s.mchType ch = 6 → ack = false → bit (t.reg Reg.MCH_EVENTS ch) 4 = true ∧ (t.mch ch).pos = (s.mch ch).pos)
      ∧ (s.mchType ch = 7 ∨ s.mchType ch = 8 → high = false → bit (t.reg Reg.MCH_EVENTS ch) 4 = true ∧ (t.mch ch).pos = (s.mch ch).pos)
      ∧ (s.mchType ch = 7 → high = true → (s.mch ch).last = none →
          (t.mch ch).pos = BitVec.ofNat 48 (raw % 2 ^ s.actF Reg.MCH_SERIAL ch 5 0)
            + pairPos (s.act Reg.MCH_OFFSET_LO ch) (s.act Reg.MCH_OFFSET_HI ch)
          ∧ (t.mch ch).last = some (raw % 2 ^ s.actF Reg.MCH_SERIAL ch 5 0) ∧ (t.mch ch).referenced = true))
  ∧ (∀ (s : State) (ch : Nat) (a b : Int), s.svc.stopped = none → s.mchLive ch = true → s.mchType ch = 9 →
      s.ampIn ch (s.sinVec ch a b) = false → (s.mch ch).ampBad = false → (s.mch ch).ampRun = 3 → s.sinVec ch a b ≠ (0, 0) →
    ∃ t, exec (.sincosSample ch a b) s = .next t ∧ (t.mch ch).ampBad = true ∧ (t.mch ch).pos = (s.mch ch).pos
      ∧ bit (t.reg Reg.MCH_EVENTS ch) 2 = true)
  ∧ (∀ (s : State) (ch : Nat) (a b : Int), s.svc.stopped = none → s.mchLive ch = true → s.mchType ch = 9 → fld (s.act Reg.MCH_CTRL ch) 13 12 = 0 →
      s.ampIn ch (s.sinVec ch a b) = true → (s.mch ch).ampBad = false → (s.mch ch).ampRun < 3 → s.sinVec ch a b ≠ (0, 0) →
      (s.mch ch).vec = none → (s.mch ch).setAt ≠ s.time.clk + 1 →
    ∃ t, exec (.sincosSample ch a b) s = .next t ∧ (t.mch ch).ampBad = false ∧ (t.mch ch).vec = some (s.sinVec ch a b)
      ∧ (t.mch ch).pos = (s.mch ch).pos + posOf (anglePart (s.actF Reg.MCH_SINCOS ch 3 0) (s.sinVec ch a b) 0))
  ∧ (∀ (s : State) (ch : Nat) (x : Instr), x ∈ [.speedStill ch, .speedDecay ch] → s.svc.stopped = none → s.mchLive ch = true →
      (s.mch ch).changeAt < s.time.clk →
    ∃ t, exec x s = .next t ∧ (t.mch ch).pos = (s.mch ch).pos ∧ t.cur = s.cur
      ∧ (s.actF Reg.MCH_TIMING ch 19 0 * 1000 ≤ (s.time.clk - (s.mch ch).changeAt) * 4 →
          (t.mch ch).speed = 0 ∧ (t.mch ch).still = true ∧ (t.mch ch).valid = false)
      ∧ ((s.time.clk - (s.mch ch).changeAt) * 4 < s.actF Reg.MCH_TIMING ch 19 0 * 1000 → (s.mch ch).valid = true →
          speedUnit < (s.mch ch).speed.natAbs * ((s.time.clk : Int) - (s.mch ch).changeAt) →
          (t.mch ch).speed = (if (s.mch ch).runNeg then -speedUnit else speedUnit).tdiv ((s.time.clk : Int) - (s.mch ch).changeAt)))
  ∧ (∀ (s : State) (k : Nat), s.svc.stopped = none → k < 8 → bit (s.act Reg.ECHO_CTRL k) 0 = true → bit (s.act Reg.ECHO_CTRL k) 1 = false →
      (s.echo k).stepAt = none ∨ (∃ x, (s.echo k).stepAt = some x ∧ x + fld (s.act Reg.ECHO_CTRL k) 15 8 ≤ s.time.clk) →
    ∃ t, exec (.echoStep k) s = .next t
      ∧ (0 < (s.echo k).pending → (t.echo k).pending = (s.echo k).pending - 1 ∧ (t.echo k).phase = ((s.echo k).phase + 1) % 4
          ∧ (t.echo k).stepAt = some s.time.clk)
      ∧ ((s.echo k).pending < 0 → (t.echo k).pending = (s.echo k).pending + 1 ∧ (t.echo k).phase = ((s.echo k).phase + 3) % 4
          ∧ (t.echo k).stepAt = some s.time.clk))
  ∧ (∀ (s : State) (k : Nat) (rise : Bool), s.svc.stopped = none → k < 8 → bit (s.reg Reg.PRB_CTRL k) 0 = true →
      fld (s.reg Reg.PRB_CTRL k) 2 1 = 2 ∨ fld (s.reg Reg.PRB_CTRL k) 2 1 = (if rise then 0 else 1) →
      bit (s.reg Reg.PRB_STATUS k) 31 = false → s.isRead (fld (s.reg Reg.PRB_CTRL k) 12 8) = false →
      s.isRead (fld (s.reg Reg.PRB_CTRL k) 20 16) = false →
    ∃ t, exec (.probeEdge k rise) s = .next t ∧ bit (t.reg Reg.PRB_STATUS k) 31 = true
      ∧ t.reg64 Reg.PRB_TIME_LO Reg.PRB_TIME_HI k = ofSigned 64 (((s.now16 : Int) - Config.inputDelay 0 * 65536) / 65536) % 2 ^ 64
      ∧ t.reg64 Reg.PRB_POS0_LO Reg.PRB_POS0_HI k = ((s.mch (fld (s.reg Reg.PRB_CTRL k) 12 8)).pos.signExtend 64).toNat
      ∧ t.reg64 Reg.PRB_POS1_LO Reg.PRB_POS1_HI k = ((s.mch (fld (s.reg Reg.PRB_CTRL k) 20 16)).pos.signExtend 64).toNat)
  ∧ (∀ (s : State) (k r : Nat) (rise : Bool), s.svc.stopped = none → k < 8 → r < 16 →
      (s.actF Reg.TRIG_IN_EDGE 0 (2 * k + 1) (2 * k)).testBit (if rise then 0 else 1) = true →
      (∀ n, n < 16 → fld (s.act Reg.RIG_TRIG n) 5 0 ≠ 0x20 + k) →
      (∀ n, n < 16 → (bit (s.act Reg.RIG_TRIG n) 8 = true ∧ fld (s.act Reg.RIG_TRIG n) 21 16 = 0x20 + k ↔ n = r)) →
      bit (s.reg Reg.RIG_TRIG_STATUS r) 0 = true → s.rigMode r = .live → (s.projRig r).1 = .live → s.dev.mode = .operational →
      s.dev.bound = [] → s.underFloor s.takeSecs (s.seqOf 0) = false →
    ∃ t, exec (.trigInEdge k rise) s = .next t ∧ t.dev.bound = [⟨s.time.tickNum + 2, none,
      .rig r .trigger .burst 0 (s.act Reg.RIG_TRIG_POST r).toNat s.takes.nextTake 0xFF⟩] ∧ t.dev.rigs = s.dev.rigs)
  ∧ (∀ (s : State) (r : Nat) (f : FrameSt), s.svc.stopped = none → s.store.frames = [f] → f.rig = r →
      f.phase = .triggered ∨ f.phase = .opened ∨ f.phase = .ended → f.msNext < f.msPoints → f.samplePoint f.msNext ≤ s.now16 →
      f.msNext + 1 = f.msPoints ∨ (s.now16 : Int) < f.samplePoint (f.msNext + 1) →
    ∃ t g, exec (.motionSample r) s = .next t ∧ t.store.frames = [g] ∧ g.msNext = f.msNext + 1
      ∧ g.motion = (setBits f.msMask 24).foldl (fun (m : Tab Nat) ch =>
          m.put 0 (ch * 16 + f.msNext) ((s.posNow ch).toNat + 2 ^ 48 * s.sampleFlags ch r)) f.motion)

/-- UNIT_DRAIN of an ACTIVE or SPARE unit takes effect at the start of tick N + 2 with the lowest free SPARE. UNIT_TEST makes it
TESTING; the end of a test leads to OFFLINE, SPARE, FAILED or RETIRED and counts a failed test. UNIT_RETURN of an OFFLINE unit
enters SPARE or ACTIVE at N + 2; UNIT_RETIRE retires at once and is logged; a drained unit enters OFFLINE; a failed one is FAILED
at once with its cause, its tests and drains end, and an ACTIVE one waits for a spare. (R551, R553, R554, R555, R556). -/
def Obligations.UnitsChangeState : Prop :=
  (∀ (s : State) (d : Desc), s.takesCmd d → s.recovering 5 = false → structOk d (unitTarget d) [] false = true → s.isSteward d = true →
      s.dev.mode = .standby ∨ s.dev.mode = .operational →
      s.unitCode (tKind d) (tIndex d) = 1 ∨ s.unitCode (tKind d) (tIndex d) = 2 ∧ (tKind d = 4 ∨ (s.freeSpare (tKind d)).isSome = true) →
      (∀ e ∈ s.svc.due, ¬ (e.kind = tKind d ∧ e.index = tIndex d)) → s.drainForbids (tKind d) (tIndex d) = none →
    ∃ t k, exec (.unitDrain d) s = .next t ∧ k = { ticketOf d 0x70 with gen := (s.ring d.ring).gen } ∧ s.owed t d
      ∧ t.svc = { s.svc with due := s.svc.due ++ [{
          tick := s.time.tickNum + 2, kind := tKind d, index := tIndex d, ticket := some k,
          to_ := if s.unitCode (tKind d) (tIndex d) = 1 then 0 else 3,
          spare := if tKind d = 4 ∨ s.unitCode (tKind d) (tIndex d) = 1 then none else s.freeSpare (tKind d) }] })
  ∧ (∀ (s : State) (d : Desc), s.takesCmd d → s.recovering 5 = false → structOk d (unitTarget d) [(8, 1)] false = true → opAt d 8 1 ≤ 1 →
      s.isSteward d = true → s.dev.mode = .standby ∨ s.dev.mode = .operational → s.unitCode (tKind d) (tIndex d) ∉ [2, 3, 4] →
    ∃ t k, exec (.unitTest d) s = .next t ∧ k = { ticketOf d 0x71 with gen := (s.ring d.ring).gen } ∧ s.owed t d
      ∧ t.unitCode (tKind d) (tIndex d) = 4 ∧ t.svc.tests = s.svc.tests ++ [{
          kind := tKind d, index := tIndex d, from_ := s.unitCode (tKind d) (tIndex d), ticket := some k }])
  ∧ (∀ (s : State) (d : Desc), s.takesCmd d → s.recovering 5 = false → structOk d (unitTarget d) [] false = true → s.isSteward d = true →
      s.dev.mode = .standby ∨ s.dev.mode = .operational → s.unitCode (tKind d) (tIndex d) = 0 →
      (∀ e ∈ s.svc.due, ¬ (e.kind = tKind d ∧ e.index = tIndex d)) → tKind d = 4 → s.laneReturns (tIndex d) = true →
    ∃ t k, exec (.unitReturn d) s = .next t ∧ k = { ticketOf d 0x72 with gen := (s.ring d.ring).gen } ∧ s.owed t d
      ∧ t.svc = { s.svc with due := s.svc.due ++ [{
          tick := s.time.tickNum + 2, kind := 4, index := tIndex d, to_ := 1, ticket := some k }] })
  ∧ (∀ (s : State) (d : Desc), s.takesCmd d → s.recovering 5 = false → structOk d (unitTarget d) [] false = true → s.isSteward d = true →
      s.dev.mode = .standby ∨ s.dev.mode = .operational → s.unitCode (tKind d) (tIndex d) = 0 →
      (∀ e ∈ s.svc.due, ¬ (e.kind = tKind d ∧ e.index = tIndex d)) → tKind d ≠ 4 →
    ∃ t k, exec (.unitReturn d) s = .next t ∧ k = { ticketOf d 0x72 with gen := (s.ring d.ring).gen } ∧ s.owed t d
      ∧ t.svc = { s.svc with due := s.svc.due ++ [{
          tick := s.time.tickNum + 2, kind := tKind d, index := tIndex d, ticket := some k,
          to_ := if (s.unitsIn (tKind d) 1).length < s.spareTarget (tKind d) then 1 else 2 }] })
  ∧ (∀ (s : State) (d : Desc), s.takesCmd d → s.recovering 5 = false → structOk d (unitTarget d) [] false = true → s.isSteward d = true →
      s.dev.mode = .standby ∨ s.dev.mode = .operational →
      s.unitCode (tKind d) (tIndex d) = 0 ∨ s.unitCode (tKind d) (tIndex d) = 5 →
    ∃ t, exec (.unitRetire d) s = .next t ∧ s.finished t d ∧ t.unitCode (tKind d) (tIndex d) = 6
      ∧ unitKey (tKind d) (tIndex d) ∈ t.svc.retired)
  ∧ (∀ (s : State) (kind i step errs : Nat) (pass : Bool) (x : UnitTest), s.svc.stopped = none → s.svc.tests = [x] → x.kind = kind →
      x.index = i →
    ∃ t, exec (.testComplete kind i pass step errs) s = .next t ∧ t.svc.tests = []
      ∧ t.unitCode kind i = (if pass then (if x.from_ = 1 then 1 else 0) else if x.from_ = 6 then 6 else 5)
      ∧ (pass = true → unitKey kind i ∉ t.svc.retired)
      ∧ (pass = false → t.svc.testsFailed.get 0 (unitKey kind i) = satAdd 255 (s.svc.testsFailed.get 0 (unitKey kind i)) 1
          ∧ t.svc.retired = s.svc.retired))
  ∧ (∀ (s : State) (kind i : Nat), s.svc.stopped = none → s.unitCode kind i = 3 → s.unitIdle kind i = true →
    ∃ t, exec (.drainComplete kind i) s = .next t ∧ t.unitCode kind i = 0
      ∧ t.svc.drains = s.svc.drains.filter (fun e => decide (e.1 ≠ unitKey kind i)))
  ∧ (∀ (s : State) (kind i cause : Nat), s.svc.stopped = none → kind ∈ [0x0B, 0x0C, 0x0D, 0x0E, 0x10, 0x11, 0x12] → i < unitCount kind →
      s.unitCode kind i ∈ [1, 2, 3, 4] →
    ∃ t, exec (.unitFailure kind i cause) s = .next t ∧ t.unitCode kind i = 5
      ∧ t.svc.causes.get 0 (unitKey kind i) = cause % 256 ∧ t.svc.due = s.svc.due
      ∧ t.svc.tests = s.svc.tests.filter (fun x => !(decide (x.kind = kind) && decide (x.index = i)))
      ∧ t.svc.drains = s.svc.drains.filter (fun e => decide (e.1 ≠ unitKey kind i))
      ∧ (s.unitCode kind i = 2 → (kind, s.time.tickNum, i) ∈ t.svc.replace))

/-- A corrected or uncorrectable error counts in PC_CE_CNT or PC_UE_CNT and the store counter and sets STORE_EVENTS.CE or UE; a row at
its threshold, or an uncorrectable page, has its page withheld; an open frame lists the lines of a lost page and a closed one is
marked bad. A row repair returns the page, takes one repair and is kept for BOOT. A sample writes SVC_TEMP and the peaks, a
reading at CRIT raises the level at once with its event. A trip stops every clock and drives THERMTRIP#. (R272, R273, R569, R570,
R571). -/
def Obligations.MemoryErrorsAndHeat : Prop :=
  (∀ (s : State) (c row : Nat) (page : Option Nat), s.svc.stopped = none → s.store.ready = true → c < 128 →
    ∃ t, exec (.eccCorrected c row page) s = .next t
      ∧ (t.reg Reg.PC_CE_CNT c).toNat = min 0xFFFFFFFF ((s.reg Reg.PC_CE_CNT c).toNat + 1)
      ∧ (t.reg Reg.STORE_CE_CNT).toNat = min 0xFFFFFFFF ((s.reg Reg.STORE_CE_CNT).toNat + 1)
      ∧ bit (t.reg Reg.STORE_EVENTS) 7 = true
      ∧ (t.store.pcs.get {} c).rowErrs.get 0 row = (s.store.pcs.get {} c).rowErrs.get 0 row + 1
      ∧ (∀ p, page = some p → bit (s.act Reg.STORE_CTRL) 2 = true → p % 128 = c → p / 128 < 17408 →
          (s.act Reg.STORE_ROW_THRESH).toNat ≤ (s.store.pcs.get {} c).rowErrs.get 0 row + 1 → p ∈ t.store.withheld))
  ∧ (∀ (s : State) (c row : Nat) (page : Option Nat), s.svc.stopped = none → s.store.ready = true → c < 128 →
    ∃ t, exec (.eccUncorrectable c row page) s = .next t
      ∧ (t.reg Reg.PC_UE_CNT c).toNat = min 0xFFFFFFFF ((s.reg Reg.PC_UE_CNT c).toNat + 1)
      ∧ (t.reg Reg.STORE_UE_CNT).toNat = min 0xFFFFFFFF ((s.reg Reg.STORE_UE_CNT).toNat + 1)
      ∧ bit (t.reg Reg.STORE_EVENTS) 8 = true
      ∧ (∀ p, page = some p → p % 128 = c → p / 128 < 17408 → p ∈ t.store.withheld
          ∧ ∀ f ∈ s.store.frames, ∀ k, f.pages.find? (fun e => decide (e.2 = p + 1)) = some (k, p + 1) →
            if f.phase = .opened ∨ f.phase = .ended then
              ∃ g ∈ t.store.frames, g.id = f.id ∧ ∀ l ∈ pageLines f k, l ∈ g.damagedLines
            else { f with bad := true } ∈ t.store.frames))
  ∧ (∀ (s : State) (c row page : Nat), s.svc.stopped = none → s.repairable c = some (row, page) → s.repairsLeft c ≠ 0 →
      bit (s.act Reg.STORE_CTRL) 2 = true →
    ∃ t, exec (.rowRepair c) s = .next t ∧ page ∉ t.store.withheld ∧ (c, row) ∈ t.store.repairs ∧ (c, row) ∈ t.svc.softRepairs
      ∧ (t.store.pcs.get {} c).rowErrs.get 0 row = 0 ∧ t.repairsLeft c = s.repairsLeft c - 1
      ∧ bit (t.reg Reg.STORE_EVENTS) 9 = true)
  ∧ (∀ (s : State) (v : List Int), s.svc.stopped = none →
    ∃ t, exec (.thermalSample v) s = .next t
      ∧ (∀ i < 32, t.reg Reg.SVC_TEMP i = BitVec.ofNat 32 (ofSigned 16 (v.getD i 0))
          ∧ t.svc.peaks.get (-32768) i = max (s.svc.peaks.get (-32768) i) (v.getD i 0))
      ∧ (∀ i < 28, 8 * toSigned 8 (s.actF Reg.SVC_THERM_DIE 0 23 16) ≤ v.getD (4 + i) 0 → 3 ≤ t.svc.dieLevel)
      ∧ (∀ i < 4, 8 * toSigned 8 (s.actF Reg.SVC_THERM_HBM 0 23 16) ≤ v.getD i 0 → 3 ≤ t.svc.hbmLevel)
      ∧ (s.svc.dieLevel < t.svc.dieLevel → bit (t.reg Reg.SVC_EVENTS) (2 + t.svc.dieLevel) = true)
      ∧ (s.svc.hbmLevel < t.svc.hbmLevel → bit (t.reg Reg.SVC_EVENTS) (2 + t.svc.hbmLevel) = true))
  ∧ (∀ (s : State), s.svc.stopped = none →
    ∃ t, exec .thermtrip s = .next t ∧ t.svc = { s.svc with stopped := some .therm } ∧ t.out = .pin "THERMTRIP#" 0 false :: s.out)

/-- SEC_AUTH_BEGIN writes a 48-byte nonce to BUF and holds it for the ring. SEC_AUTH_PROVE uses it up: a proof that verifies gives the
ring its role and clears the failures, any other counts, and from the fifth in a row on starts a lockout with its event;
SEC_LOGOUT ends the role. SEC_CO_ENROL and SEC_KEY_REPLACE store or erase public keys. A lockout ends after 60 s; a health failure
blocks the DRBG with its event; a retest counts and unblocks on a pass. (R486, R487, R488, R489, R491, R510, R514). -/
def Obligations.SecurityRoles : Prop :=
  (∀ (s : State) (d : Desc), s.takesService d [(8, 2), bufUsed] → slotOk d = true → bufOk d = true → s.dev.mode ≠ .boot →
      (∀ x, s.sec.lockAt = some x → x + secClk 60 ≤ s.time.clk) → s.sec.drbgBlocked = false →
      s.ideBlocks (s.issuer d) (bufOf d) (beBytes 48 (s.freeNat 384)) = false →
    ∃ t, exec (.secAuthBegin d) s = .next t ∧ s.finished t d
      ∧ t.sec = { s.sec with nonces := s.sec.nonces.put none d.ring (some {
          bytes := beBytes 48 (s.freeNat 384), role := opAt d 8 1, slot := opAt d 9 1, at_ := s.time.clk }) }
      ∧ s.hostGets t (s.issuer d) (bufOf d) (beBytes 48 (s.freeNat 384)) (fNoSnoop d) ∧ t.free = s.free + 1)
  ∧ (∀ (s : State) (d : Desc), s.takesService d [(8, 2), bufUsed] → slotOk d = true → bufOk d = true → s.dev.mode ≠ .boot →
    ∃ t, exec (.secAuthProve d) s = .next t ∧ s.finished t d ∧ t.sec.nonces.get none d.ring = none
      ∧ (s.proves d = true → (t.ring d.ring).role = some (if opAt d 8 1 = 0 then .co else .operator) ∧ t.sec.fails = 0)
      ∧ (s.proves d = false → (t.ring d.ring).role = (s.ring d.ring).role ∧ t.sec.fails = s.sec.fails + 1
          ∧ (t.reg Reg.SEC_AUTH_FAIL_CNT).toNat = min 0xFFFFFFFF ((s.reg Reg.SEC_AUTH_FAIL_CNT).toNat + 1)
          ∧ (4 ≤ s.sec.fails → t.sec.lockAt = some s.time.clk ∧ bit (t.reg Reg.SEC_EVENTS) 3 = true)))
  ∧ (∀ (s : State) (d : Desc), s.takesService d [] → s.dev.mode ≠ .boot →
    ∃ t, exec (.secLogout d) s = .next t ∧ s.finished t d ∧ (t.ring d.ring).role = none ∧ t.sec = s.sec)
  ∧ (∀ (s : State) (d : Desc), s.takesService d [(9, 1), bufUsed] → opAt d 9 1 < 2 → bufOk d = true → s.isSteward d = true →
      s.dev.mode = .provision → s.hasCoKey = false →
    ∃ t, exec (.secCoEnrol d) s = .next t ∧ s.finished t d
      ∧ t.sec = { s.sec with coKeys := s.sec.coKeys.put [] (opAt d 9 1) (sliceBytes d.buf 0 96) })
  ∧ (∀ (s : State) (d : Desc), s.takesService d [(8, 3), bufUsed] → slotOk d = true → opAt d 10 1 < 2 → bufOk d = true →
      s.isCo d = true → s.dev.mode ≠ .boot → s.dev.mode ≠ .zeroized →
    ∃ t, exec (.secKeyReplace d) s = .next t ∧ s.finished t d
      ∧ (opAt d 8 1 = 0 → t.sec = { s.sec with
          coKeys := s.sec.coKeys.put [] (opAt d 9 1) (if opAt d 10 1 = 1 then [] else sliceBytes d.buf 0 96) })
      ∧ (opAt d 8 1 ≠ 0 → t.sec = { s.sec with
          userKeys := s.sec.userKeys.put [] (opAt d 9 1) (if opAt d 10 1 = 1 then [] else sliceBytes d.buf 0 96) }))
  ∧ (∀ (s : State) (x : Nat), s.svc.stopped = none → s.sec.lockAt = some x → x + secClk 60 ≤ s.time.clk →
    ∃ t, exec .lockoutExpiry s = .next t ∧ t.sec = { s.sec with lockAt := none })
  ∧ (∀ (s : State), s.svc.stopped = none → s.sec.drbgBlocked = false → s.dev.mode ≠ .boot →
    ∃ t, exec .entropyHealthFail s = .next t ∧ bit (t.reg Reg.SEC_EVENTS) 5 = true
      ∧ t.sec = { s.sec with drbgBlocked := true, retests := 0, retestAt := s.time.clk })
  ∧ (∀ (s : State) (pass : Bool), s.svc.stopped = none → s.sec.drbgBlocked = true → s.sec.retests < 3 →
      s.sec.retestAt + secClk 1 ≤ s.time.clk →
    ∃ t, exec (.entropyRetest pass) s = .next t
      ∧ t.sec = { s.sec with drbgBlocked := !pass, retests := s.sec.retests + 1, retestAt := s.time.clk })

/-- SEC_ECDH_BEGIN makes E_d from the DRBG and writes its signed public key; SEC_OWNER_SET stores the unwrapped OWK and drops E_d, and
stores nothing on a failed check; SEC_IDENTITY_GEN makes DIK; SEC_GET_IDENTITY, SEC_TAKE_KEY and SEC_ATTEST write their answers to
BUF. SEC_FW_INSTALL writes a good image to the inactive slot and sets PENDING. SEC_SELFTEST runs KATs on every serving engine: one
that fails is FAILED. (R494, R495, R496, R506, R509, R510, R511, R513). -/
def Obligations.SecurityKeys : Prop :=
  (∀ (s : State) (d : Desc), s.takesService d [bufUsed] → bufOk d = true → s.isCo d = true → s.dev.mode = .provision →
      s.sec.drbgBlocked = false →
      (∀ k, k = beBytes 48 (s.freeNat 384) → s.ideBlocks (s.issuer d) (bufOf d) (pubOf k ++ sign Config.fak (pubOf k)) = false) →
    ∃ t k, exec (.secEcdhBegin d) s = .next t ∧ k = beBytes 48 (s.freeNat 384) ∧ s.finished t d ∧ t.sec = { s.sec with ed := some k }
      ∧ s.hostGets t (s.issuer d) (bufOf d) (pubOf k ++ sign Config.fak (pubOf k)) (fNoSnoop d))
  ∧ (∀ (s : State) (d : Desc) (ed : List Byte), s.takesService d [bufUsed] → bufOk d = true → s.isCo d = true → s.dev.mode = .provision →
      s.sec.ed = some ed →
    ∃ t, exec (.secOwnerSet d) s = .next t ∧ s.finished t d
      ∧ (∀ z owk, Config.ecdh ed (sliceBytes d.buf 0 96) = some z → Config.keyUnwrap (kekOf ed z) (sliceBytes d.buf 96 40) = some owk →
          t.sec = { s.sec with owk := some (sliceBytes owk 0 32), ed := none })
      ∧ (Config.ecdh ed (sliceBytes d.buf 0 96) = none → t.sec = s.sec)
      ∧ (∀ z, Config.ecdh ed (sliceBytes d.buf 0 96) = some z → Config.keyUnwrap (kekOf ed z) (sliceBytes d.buf 96 40) = none →
          t.sec = s.sec))
  ∧ (∀ (s : State) (d : Desc), s.takesService d [] → s.isCo d = true → s.dev.mode = .provision → s.sec.drbgBlocked = false →
    ∃ t, exec (.secIdentityGen d) s = .next t ∧ s.finished t d ∧ t.sec = { s.sec with dik := some (beBytes 48 (s.freeNat 384)) })
  ∧ (∀ (s : State) (d : Desc), s.takesService d [(12, 4), bufUsed] → bufOk d = true → s.dev.mode ≠ .boot →
      s.ideBlocks (s.issuer d) (bufOf d) (s.identity.take (opAt d 12 4)) = false →
    ∃ t, exec (.secGetIdentity d) s = .next t ∧ s.finished t d ∧ t.sec = s.sec
      ∧ s.hostGets t (s.issuer d) (bufOf d) (s.identity.take (opAt d 12 4)) (fNoSnoop d))
  ∧ (∀ (s : State) (d : Desc), s.takesService d [bufUsed, (24, 16)] → bufOk d = true → s.isUser d = true →
      s.dev.mode = .standby ∨ s.dev.mode = .operational →
      opAt d 28 6 < s.sec.floorSecs ∨ opAt d 28 6 = s.sec.floorSecs ∧ opAt d 24 4 ≤ s.sec.floorSeq →
      opAt d 34 6 = Config.serial.toNat →
      (∀ owk, owk = s.sec.owk.getD [] →
        s.ideBlocks (s.issuer d) (bufOf d) (Config.keyWrap owk (takeKeyOf owk (opAt d 24 16))) = false) →
    ∃ t owk, exec (.secTakeKey d) s = .next t ∧ owk = s.sec.owk.getD [] ∧ s.finished t d ∧ t.sec = s.sec
      ∧ s.hostGets t (s.issuer d) (bufOf d) (Config.keyWrap owk (takeKeyOf owk (opAt d 24 16))) (fNoSnoop d))
  ∧ (∀ (s : State) (d : Desc), s.takesService d [bufUsed] → bufOk d = true → s.isUser d = true →
      s.dev.mode = .standby ∨ s.dev.mode = .operational →
      (∀ x, x = s.statement d.buf → s.ideBlocks (s.issuer d) (bufOf d + 48) (x ++ sign (s.sec.dik.getD []) x) = false) →
    ∃ t x, exec (.secAttest d) s = .next t ∧ x = s.statement d.buf ∧ s.finished t d ∧ t.sec = s.sec
      ∧ s.hostGets t (s.issuer d) (bufOf d + 48) (x ++ sign (s.sec.dik.getD []) x) (fNoSnoop d))
  ∧ (∀ (s : State) (d : Desc) (o : Nat × ObjSt), s.takesService d [(8, 1), (12, 4)] → opAt d 8 1 < 2 → s.isCo d = true →
      s.dev.mode = .standby ∨ s.dev.mode = .operational → s.obj? (opAt d 12 4) = some o →
    ∃ t img, exec (.secFwInstall d) s = .next t ∧ img = s.objBytes (opAt d 12 4) 0 o.2.size ∧ s.finished t d
      ∧ (imageOk s.sec.svnFloor img = none → t.sec = s.sec)
      ∧ (∀ v n len, imageOk s.sec.svnFloor img = some (v, n, len) → bit (t.reg Reg.SEC_EVENTS) 7 = true
          ∧ t.sec.slotImage (1 - s.sec.fwActive) = img.take len
          ∧ t.sec.fwPending = some (1 - s.sec.fwActive, decide (opAt d 8 1 = 1))))
  ∧ (∀ (s : State) (d : Desc) (fails : List (Nat × Nat)), s.takesService d [] → s.isUser d = true →
      s.dev.mode = .standby ∨ s.dev.mode = .operational →
    ∃ t, exec (.secSelftest d fails) s = .next t ∧ (fails = [] → s.finished t d)
      ∧ ∀ e, s.unitCode 0x0D e = 1 ∨ s.unitCode 0x0D e = 2 → e < 18 →
          if fails.any (fun f => decide (f.1 = e)) then e ∉ t.sec.katOk ∧ t.unitCode 0x0D e = 5 else e ∈ t.sec.katOk)

/-- ZEROIZE, ZEROIZE# low, a TAMPER input in mode ZEROIZE and a valid JTAG challenge erase the owner keys, keep what survives, and
enter ZEROIZED; in ALERT a TAMPER input sets only its event. PROVISION_BEGIN and PROVISION_CLOSE move to PROVISION and STANDBY. A
first lockstep mismatch starts a recovery, with its count and event. A tested spare is exchanged at the next boundary or FAILED;
spare engines run their KATs. (R493, R513, R514, R516, R517, R518, R519, R520, R559, R561). -/
def Obligations.ZeroisationAndSelfTests : Prop :=
  (∀ (s : State) (d : Desc), s.takesService d [] → s.isCo d = true → s.dev.mode ≠ .boot →
    ∃ t, exec (.zeroize d) s = .next t ∧ t.dev.mode = .zeroized ∧ s.keysErased t)
  ∧ (∀ (s : State) (d : Desc), s.takesService d [] → s.isCo d = true → s.dev.mode = .zeroized → s.sec.zeroizeLow = false →
      (∀ i ∈ [0, 1], s.tamperActive i = true → s.tamperZeroises i = false) →
    ∃ t, exec (.provisionBegin d) s = .next t ∧ s.finished t d ∧ t.dev.mode = .provision ∧ t.dev.prevMode = .zeroized ∧ t.sec = s.sec)
  ∧ (∀ (s : State) (d : Desc) (dik owk : List Byte), s.takesService d [] → s.isCo d = true → s.dev.mode = .provision →
      s.sec.dik = some dik → s.sec.owk = some owk →
    ∃ t, exec (.provisionClose d) s = .next t ∧ s.finished t d ∧ t.dev.mode = .standby
      ∧ t.sec = { s.sec with ownerOwk := some owk, ownerDik := some dik, ed := none })
  ∧ (∀ (s : State), s.svc.stopped = none → s.dev.mode ≠ .boot →
    ∃ t, exec (.zeroizePin true) s = .next t ∧ t.dev.mode = .zeroized ∧ s.keysErased t ∧ t.sec.zeroizeLow = true)
  ∧ (∀ (s : State), ∃ t, exec (.zeroizePin false) s = .next t ∧ t = { s with sec := { s.sec with zeroizeLow := false } })
  ∧ (∀ (s : State), s.svc.stopped.isSome = true →
    ∃ t, exec (.zeroizePin true) s = .next t ∧ s.keysErased t ∧ t.sec.bootZero = some 0xF4 ∧ t.dev = s.dev)
  ∧ (∀ (s : State) (i : Nat) (high : Bool), s.svc.stopped = none → i < 2 → high ≠ bit s.sec.tamperCtrl i →
      fld s.sec.tamperCtrl (5 + 2 * i) (4 + 2 * i) = 1 →
    ∃ t, exec (.tamperInput i high) s = .next t ∧ bit (t.reg Reg.SEC_EVENTS) (1 + i) = true ∧ t.dev = s.dev
      ∧ t.sec = { s.sec with tamperHigh := t.sec.tamperHigh } ∧ (i ∈ t.sec.tamperHigh ↔ high = true))
  ∧ (∀ (s : State) (i : Nat) (high : Bool), s.svc.stopped = none → s.dev.mode ≠ .boot → i < 2 → high ≠ bit s.sec.tamperCtrl i →
      fld s.sec.tamperCtrl (5 + 2 * i) (4 + 2 * i) = 2 →
    ∃ t, exec (.tamperInput i high) s = .next t ∧ t.dev.mode = .zeroized ∧ s.keysErased t)
  ∧ (∀ (s : State), s.svc.stopped = none → s.dev.mode ≠ .boot →
    ∃ t, exec (.unlockChallenge true) s = .next t ∧ t.dev.mode = .zeroized ∧ s.keysErased t ∧ t.sec.jtagOpen = true)
  ∧ (∀ (s : State), ∃ t, exec (.unlockChallenge false) s = .next t ∧ t = { s with svc := { s.svc with jtagIr := 0x40 } })
  ∧ (∀ (s : State) (u : Nat), s.svc.stopped = none → u < 6 → s.anyRecovery = false → s.svc.lastMismatch.get 0 u = 0 →
      (u, s.time.tickNum) ∉ s.svc.recov →
    ∃ t, exec (.lockstepMismatch u) s = .next t ∧ t.svc.recov = s.svc.recov ++ [(u, s.time.tickNum)]
      ∧ t.svc.recovCnt.get 0 u = s.svc.recovCnt.get 0 u + 1
      ∧ (t.reg Reg.SVC_LOCKSTEP_CNT).toNat = min 0xFFFFFFFF ((s.reg Reg.SVC_LOCKSTEP_CNT).toNat + 1)
      ∧ bit (t.reg Reg.SVC_EVENTS) 2 = true ∧ (u = 1 → t.store.recovery = some (s.time.tickNum + 3)))
  ∧ (∀ (s : State) (kind j test : Nat) (pass : Bool), s.svc.stopped = none → s.dev.mode = .operational → s.hot = false →
      kind ∈ [0x0C, 0x0D, 0x0E] → s.svc.rotatedAt.get 0 kind + s.rotateClk kind ≤ s.time.clk →
      leastOf s.svc.passedAt kind (s.unitsIn kind 1) = some j →
    ∃ t, exec (.spareRotation kind pass test) s = .next t
      ∧ (pass = false → t.unitCode kind j = 5)
      ∧ (pass = true → t.svc.passedAt.get 0 (unitKey kind j) = s.time.clk
          ∧ (s.unitsIn kind 2 ≠ [] → ∃ a ∈ s.unitsIn kind 2, (kind ≠ 0x0D → leastOf s.svc.activeAt kind (s.unitsIn kind 2) = some a)
            ∧ t.svc.due = s.svc.due ++ [{ tick := s.time.tickNum + 1, kind := kind, index := a, to_ := 1, spare := some j }])))
  ∧ (∀ (s : State) (fails : List (Nat × Nat)), s.svc.stopped = none → s.dev.mode ≠ .boot →
      s.sec.katAt + secClk (fld (s.reg Reg.SEC_SELFTEST_CTRL) 23 16) ≤ s.time.clk →
    ∃ t, exec (.spareKat fails) s = .next t ∧ t.sec.katAt = s.time.clk
      ∧ ∀ e, s.unitCode 0x0D e = 1 → e < 18 →
          if fails.any (fun f => decide (f.1 = e)) then e ∉ t.sec.katOk ∧ t.unitCode 0x0D e = 5 else e ∈ t.sec.katOk)

/-- ALLOC of an admissible size opens the lowest free index with the next generation, no bytes left of the old object, its handle and
DONE; SEAL of an OPEN object starts with the digest asked for and GO reads 1; FREE of an unreferenced object frees its index. A
write of TOBJ_DIR_DIGEST of a SEALED object captures its digest. GO of an idle channel with good fields takes the transfer as its
registers stand; ABORT ends a busy one ABORTED with its event; a transfer that is due starts and reopens a sealed object it
writes; one whose bytes have moved ends DONE or SECURITY, writes its object, sets its event and lets the channels that wait for it
start. (R444, R445, R536, R537, R538, R549). -/
def Obligations.TableObjectsAndTransfers : Prop :=
  (∀ (s : State) (p i : Nat), s.writable p Reg.TOBJ_DIR_DIGEST i → (s.obj.dir.get {} i).phase = .sealed_ →
    ∃ t, exec (.tobjDirDigestWrite p i) s = .next t
      ∧ ∀ k, k < 12 → t.reg Reg.TOBJ_DIGEST k = BitVec.ofNat 32 (leAt (s.obj.dir.get {} i).digest (4 * k) 4))
  ∧ (∀ (s : State) (p i : Nat), s.writable p Reg.TOBJ_CTRL 0 → bit (s.reg Reg.TOBJ_CTRL) 31 = false →
      0 < (s.reg Reg.TOBJ_SIZE).toNat → (s.reg Reg.TOBJ_SIZE).toNat ≤ 2952790016 → s.freeObj = some i →
      heapUnits (s.reg Reg.TOBJ_SIZE).toNat ≤ s.heapFree →
    ∃ t, exec (.tobjAlloc p) s = .next t
      ∧ t.obj.dir.get {} i = { gen := (s.obj.dir.get {} i).gen % 65535 + 1, phase := .open_, size := (s.reg Reg.TOBJ_SIZE).toNat }
      ∧ t.reg Reg.TOBJ_RESULT_HANDLE = BitVec.ofNat 32 (((s.obj.dir.get {} i).gen % 65535 + 1) * 65536 + i)
      ∧ t.reg Reg.TOBJ_RESULT = BitVec.ofNat 32 stDone ∧ bit (t.reg Reg.TOBJ_CTRL) 31 = false
      ∧ ∀ c ∈ t.obj.heap, c.1 / 2 ^ 32 ≠ i)
  ∧ (∀ (s : State) (p i : Nat) (o : ObjSt), s.writable p Reg.TOBJ_CTRL 0 → bit (s.reg Reg.TOBJ_CTRL) 31 = false →
      s.obj? (s.reg Reg.TOBJ_HANDLE).toNat = some (i, o) → o.phase = .open_ →
    ∃ t, exec (.tobjSeal p) s = .next t ∧ t.obj.dir.get {} i = { o with phase := .sealing, want := s.digestRegs }
      ∧ bit (t.reg Reg.TOBJ_CTRL) 31 = true)
  ∧ (∀ (s : State) (p i : Nat) (o : ObjSt), s.writable p Reg.TOBJ_CTRL 0 → bit (s.reg Reg.TOBJ_CTRL) 31 = false →
      s.obj? (s.reg Reg.TOBJ_HANDLE).toNat = some (i, o) → s.objHeld (s.reg Reg.TOBJ_HANDLE).toNat = false →
    ∃ t, exec (.tobjFree p) s = .next t ∧ t.obj.dir.get {} i = { gen := o.gen } ∧ t.reg Reg.TOBJ_RESULT = BitVec.ofNat 32 stDone
      ∧ bit (t.reg Reg.TOBJ_CTRL) 31 = false)
  ∧ (∀ (s : State) (p k i : Nat) (v : Word) (o : ObjSt), s.writable p Reg.SVCCH_CTRL k → (s.chan k).busy = false →
      s.dev.mode = .standby ∨ s.dev.mode = .operational → s.obj? (s.reg Reg.SVCCH_OBJ k).toNat = some (i, o) →
      0 < (s.reg Reg.SVCCH_LEN k).toNat → (s.reg Reg.SVCCH_LEN k).toNat ≤ 1073741824 →
      (s.reg Reg.SVCCH_OFFSET k).toNat + (s.reg Reg.SVCCH_LEN k).toNat ≤ o.size → fld v 29 28 ≤ 1 → fld v 27 26 ≠ 3 →
      fld v 29 28 = 1 ∨ s.objHeld (s.reg Reg.SVCCH_OBJ k).toNat = false →
    ∃ t, exec (.svcGo p k v) s = .next t
      ∧ t.chan k = {
          port := p, toHost := decide (fld v 29 28 = 1), pace := fld v 27 26, paceSel := fld v 25 22, noSnoop := bit v 21,
          host := s.reg64 Reg.SVCCH_HOST_LO Reg.SVCCH_HOST_HI k, obj := (s.reg Reg.SVCCH_OBJ k).toNat,
          offset := (s.reg Reg.SVCCH_OFFSET k).toNat, len := (s.reg Reg.SVCCH_LEN k).toNat, goTick := s.time.tickNum, busy := true }
      ∧ t.reg Reg.SVCCH_STATUS k = BitVec.ofNat 32 (p * 2 ^ 28) ∧ t.reg Reg.SVCCH_DONE_BYTES k = 0 ∧ t.obj = s.obj)
  ∧ (∀ (s : State) (p k : Nat) (v : Word), s.writable p Reg.SVCCH_CTRL k → (s.chan k).busy = true → bit v 31 = false →
    ∃ t, exec (.svcAbort p k v) s = .next t
      ∧ t.chan k = { s.chan k with busy := false, ready := false, started := false, status := stAborted }
      ∧ t.reg Reg.SVCCH_STATUS k = BitVec.ofNat 32 ((s.chan k).port * 2 ^ 28 + stAborted) ∧ bit (t.reg Reg.SVCCH_EVENTS k) 0 = true
      ∧ t.obj = s.obj)
  ∧ (∀ (s : State) (k i : Nat) (o : ObjSt), s.svc.stopped = none → (s.chan k).busy = true → (s.chan k).started = false →
      (if (s.chan k).pace = 0 then (s.chan k).goTick < s.time.tickNum else (s.chan k).ready = true) →
      s.obj? (s.chan k).obj = some (i, o) → (s.chan k).toHost = true ∨ s.objHeld (s.chan k).obj = false →
    ∃ t, exec (.svcTransferStart k) s = .next t ∧ t.chan k = { s.chan k with started := true, ready := false }
      ∧ t.obj.dir.get {} i = (if (s.chan k).toHost = false ∧ o.phase = .sealed_ then { o with phase := .open_ } else o)
      ∧ t.out = s.out)
  ∧ (∀ (s : State) (k : Nat) (data : List Byte), s.svc.stopped = none → k < 8 → (s.chan k).busy = true → (s.chan k).started = true →
      (s.chan k).len ≤ (s.chan k).done →
    ∃ t, exec (.svcTransferDone k data) s = .next t ∧ (t.chan k).busy = false ∧ (t.chan k).started = false
      ∧ (t.chan k).status = (if (s.chan k).sec = true then stSecurity else stDone)
      ∧ bit (t.reg Reg.SVCCH_EVENTS k) 0 = true
      ∧ t.obj.dir = s.obj.dir
      ∧ ((s.chan k).toHost = true → t.obj.heap = s.obj.heap)
      ∧ ((s.chan k).toHost = false → ∀ i o, s.obj? (s.chan k).obj = some (i, o) →
          t.obj.heap = hbmWrite s.obj.heap (i * 2 ^ 32 + (s.chan k).offset) (sliceBytes data 0 (s.chan k).len))
      ∧ ((s.chan k).sec = false → ∀ j, j < 8 → j ≠ k → (s.chan j).busy = true → (s.chan j).started = false → (s.chan j).pace = 2 →
          (s.chan j).paceSel = k → (t.chan j).ready = true))

/-- A write of CMP_TARGET_HI applies the whole target, compared from the next clock, and nothing fires. EN that changes to 1 takes the
fields; a table unit starts at entry 0; invalid fields clear EN and set CMP_STATUS.ERROR. MCH_SET_POS_HI sets the position of a
powered channel at once, of another when it wakes. A write of VALID clears it and EXTRA. A wake that fails flags the access, a
read answers 0. 1 us after their access woken blocks stop. At M + 3 the pairs resume and a queued write takes effect. (R459, R467,
R468, R480, R482, R592, R593, R594, R596). -/
def Obligations.WritesOfMotionUnitsWakesAndResume : Prop :=
  (∀ (s : State) (p u : Nat) (v : Word), s.writable p Reg.CMP_TARGET_HI u →
    ∃ t, exec (.cmpTargetHiWrite p u v) s = .next t
      ∧ t.reg Reg.CMP_TARGET_LO u = (s.port p).heldLo.get 0 (Reg.CMP_TARGET_LO.addr u) ∧ t.reg Reg.CMP_TARGET_HI u = v
      ∧ (t.cmp u).wroteAt = s.time.clk + 1 ∧ ((s.cmp u).wroteAt ≠ s.time.clk + 1 → (t.cmp u).oldTarget = s.cmpTarget u)
      ∧ t.reg Reg.CMP_STATUS u = s.reg Reg.CMP_STATUS u ∧ t.out = s.out)
  ∧ (∀ (s : State) (p u : Nat) (v c : Word), s.writable p Reg.CMP_CTRL u → bit (s.reg Reg.CMP_CTRL u) 0 = false →
      c = (s.reg Reg.CMP_CTRL u &&& ~~~ Reg.CMP_CTRL.rwi) ||| ((v ||| 1) &&& Reg.CMP_CTRL.rwi) →
    ∃ t, exec (.cmpEnable p u v) s = .next t
      ∧ (s.cmpBad u c = false → t.reg Reg.CMP_CTRL u = c ∧ (t.cmp u).ended = false
        ∧ (fld v 2 1 = 2 → t.reg Reg.CMP_TBL_IDX u = 0 ∧ (t.cmp u).table = (s.reg Reg.CMP_TABLE u).toNat
            ∧ t.cmpTarget u = s.pctEntry (s.reg Reg.CMP_TABLE u).toNat 0)
        ∧ (fld v 2 1 ≠ 2 → (t.cmp u).table = 0 ∧ t.cmpTarget u = s.cmpTarget u))
      ∧ (s.cmpBad u c = true → bit (t.reg Reg.CMP_CTRL u) 0 = false ∧ bit (t.reg Reg.CMP_STATUS u) 2 = true))
  ∧ (∀ (s : State) (p ch : Nat) (v : Word), s.writable p Reg.MCH_SET_POS_HI ch →
    ∃ t, exec (.mchSetPosHiWrite p ch v) s = .next t
      ∧ (s.mchPowered ch = true → (t.mch ch).pos = pairPos ((s.port p).heldLo.get 0 (Reg.MCH_SET_POS_LO.addr ch)) v
        ∧ (t.mch ch).referenced = true ∧ (t.mch ch).suspect = false ∧ (t.mch ch).setDue = false)
      ∧ (s.mchPowered ch = false → t.mch ch = { s.mch ch with setDue := true })
      ∧ t.reg Reg.MCH_SET_POS_LO ch = (s.port p).heldLo.get 0 (Reg.MCH_SET_POS_LO.addr ch) ∧ t.reg Reg.MCH_SET_POS_HI ch = v)
  ∧ (∀ (s : State) (p k : Nat), s.writable p Reg.PRB_STATUS k →
    ∃ t, exec (.probeValidClear p k) s = .next t ∧ t.reg Reg.PRB_STATUS k = s.reg Reg.PRB_STATUS k &&& ~~~ 0x800000FF
      ∧ t.motion = s.motion ∧ t.out = s.out)
  ∧ (∀ (s : State) (p off kind i : Nat), s.svc.stopped = none → s.dev.mode ≠ .boot → s.portTalks p = true →
      unitAt (off / 4 * 4) = some (kind, i) → s.gated kind i = true → s.svc.woken.get 0 (unitKey kind i) = 0 →
      regIs (off / 4 * 4) (fun r => decide (r.fields ≠ 0)) = true → s.mayWrite p (off / 4 * 4) = true →
    ∃ t, exec (.wakeFail p off true) s = .next t
      ∧ bit (t.port p).accStatus accWakeFail = true ∧ t.cur = s.cur ∧ t.cfg = s.cfg ∧ t.out = s.out)
  ∧ (∀ (s : State) (p off kind i : Nat), s.svc.stopped = none → s.dev.mode ≠ .boot → s.portTalks p = true →
      unitAt (off / 4 * 4) = some (kind, i) → s.gated kind i = true → s.svc.woken.get 0 (unitKey kind i) = 0 →
      regIs (off / 4 * 4) (fun r => decide (r.fields ≠ 0)) = true → s.mayRead p (off / 4 * 4) = true →
    ∃ t, exec (.wakeFail p off false) s = .next t
      ∧ bit (t.port p).accStatus accWakeFail = true ∧ t.out = .readData p 0 :: s.out ∧ t.cur = s.cur)
  ∧ (∀ s : State, s.svc.stopped = none →
    ∃ t, exec .clockRegate s = .next t
      ∧ (s.svc.woken.wf 0 = true → ∀ k, t.svc.woken.get 0 k =
          (if s.time.clk < s.svc.woken.get 0 k - 1 + usClk 1 then s.svc.woken.get 0 k else 0))
      ∧ t = { s with svc := { s.svc with woken := t.svc.woken } })
  ∧ (∀ s : State, s.svc.stopped = none → s.svc.recov.any (fun e => decide (e.2 + 3 ≤ s.time.tickNum)) = true → s.store.recovery = none →
    ∃ t, exec .lockstepResume s = .next t
      ∧ (s.svc.queued = [] → t.svc = { s.svc with recov := s.svc.recov.filter (fun e => decide (s.time.tickNum < e.2 + 3)) } ∧ t.cur = s.cur)
      ∧ (∀ p r i j v, s.svc.queued = [(p, r.addr i j, v)] → findReg (r.addr i j) = some (r, i, j) → r.half = .whole →
          (∀ x ∈ actingRows, r.is x = false) → t.svc.queued = [] ∧ t.svc.recov = s.svc.recov.filter (fun e => decide (s.time.tickNum < e.2 + 3))
            ∧ t.reg r i j = (((s.reg r i j &&& ~~~ r.rwi) ||| (v &&& r.rwi)) &&& ~~~ (v &&& r.w1c))))

/-- DLV_FRAME and DLV_GATHER that pass their checks are taken and wait, as written, to be bound; their completion is owed. A delivery
whose last write has been issued leaves the list, its ring owes one less, it is counted where DONE or PARTIAL, and its frame is
released. A failed read of a transfer into an object ends it BUS_ERROR, one of a spilled frame pauses its ring with the address
and halts the descriptor; the mover halts and counts. A completion time-out counts and sets its event, then acts as the failed
read of the mover or ring. (R255, R384, R406, R424, R428, R429, R431, R432, R439, R442, R445, R446). -/
def Obligations.DeliveriesAndMoverErrors : Prop :=
  (∀ (s : State) (d : Desc), s.svc.stopped = none → s.takeable d 1 = true → d.known = true →
      structOk d (tIs d 9 128) [(8, 52)] false = true → s.subOn (tIndex d) = true → s.subRing (tIndex d) = d.ring →
      opAt d 16 8 % 64 = 0 → opAt d 24 8 % 64 = 0 → opAt d 32 8 % 64 = 0 → opAt d 48 8 % 8 = 0 →
    ∃ t, exec (.dlvFrame d) s = .next t ∧ s.owed t d ∧ t.out = s.out
      ∧ ∃ y, t.mover = { s.mover with dlv := s.mover.dlv ++ [y] } ∧ y.ring = d.ring ∧ y.sub = tIndex d
        ∧ y.descNo = (s.ring d.ring).dev.toNat % 2 ^ 24 ∧ y.gather = false ∧ y.payload = opAt d 8 8 ∧ y.stats = opAt d 16 8
        ∧ y.preview = opAt d 24 8 ∧ y.record = opAt d 32 8 ∧ y.payloadCap = opAt d 40 4 ∧ y.stride = opAt d 44 4
        ∧ y.signal = opAt d 48 8 ∧ y.previewCap = opAt d 56 4 ∧ y.noSnoop = fNoSnoop d ∧ y.frame = none)
  ∧ (∀ (s : State) (d : Desc), s.svc.stopped = none → s.takeable d 1 = true → d.known = true →
      structOk d (tIs d 9 128) [(8, 48)] false = true → s.subOn (tIndex d) = true → s.subRing (tIndex d) = d.ring →
      opAt d 32 8 % 64 = 0 → opAt d 40 8 % 64 = 0 → opAt d 48 8 % 8 = 0 → 1 ≤ opAt d 28 4 → opAt d 28 4 ≤ 1048576 →
      (s.subParts (tIndex d)).testBit 0 = true →
    ∃ t, exec (.dlvGather d) s = .next t ∧ s.owed t d ∧ t.out = s.out
      ∧ ∃ y, t.mover = { s.mover with dlv := s.mover.dlv ++ [y] } ∧ y.ring = d.ring ∧ y.sub = tIndex d
        ∧ y.descNo = (s.ring d.ring).dev.toNat % 2 ^ 24 ∧ y.gather = true ∧ y.payload = opAt d 8 8 ∧ y.payloadCap = opAt d 16 4
        ∧ y.index = opAt d 20 4 ∧ y.first = opAt d 24 4 ∧ y.count = opAt d 28 4 ∧ y.stats = opAt d 32 8 ∧ y.record = opAt d 40 8
        ∧ y.signal = opAt d 48 8 ∧ y.noSnoop = fNoSnoop d ∧ y.frame = none)
  ∧ (∀ (s : State) (n : Nat) (x : Dlv) (f : FrameSt), s.svc.stopped = none → s.delivered n = some (x, f) → x.signal = 0 →
      x.ticket.gen = (s.ring x.ticket.ring).gen → s.store.recovery = none → s.store.queued = [] → f.live = true →
      f.hold.has (16 + x.sub) = true →
    ∃ t, exec (.delivery n none) s = .next t
      ∧ t.mover.dlv = s.mover.dlv.filter (fun y => !(decide (y.ring = x.ring) && decide (y.descNo = x.descNo)))
      ∧ (t.ring x.ticket.ring).outstanding = (s.ring x.ticket.ring).outstanding - 1
      ∧ (x.sec = false → f.bad = false →
          (t.reg Reg.SUB_DELIVERED_CNT x.sub).toNat = min 0xFFFFFFFF ((s.reg Reg.SUB_DELIVERED_CNT x.sub).toNat + 1))
      ∧ (x.sec = true ∨ f.bad = true → t.reg Reg.SUB_DELIVERED_CNT x.sub = s.reg Reg.SUB_DELIVERED_CNT x.sub)
      ∧ ∃ g, t.frame? f.id = some g ∧ g.hold = f.hold.drop (16 + x.sub) ∧ g.readers = f.readers - 1 ∧ g.phase = f.phase)
  ∧ (∀ (s : State) (m kind addr : Nat), s.svc.stopped = none → 1 ≤ kind → kind ≤ 4 →
      (s.mover.movers.get ({} : MoverSt) m).run = 1 → (s.mover.movers.get ({} : MoverSt) m).work = 2 →
      (s.chan (s.mover.movers.get ({} : MoverSt) m).id).busy = true → (s.chan (s.mover.movers.get ({} : MoverSt) m).id).started = true →
      (s.chan (s.mover.movers.get ({} : MoverSt) m).id).toHost = false →
    ∃ t, exec (.moverBusError m kind addr) s = .next t ∧ (t.mover.movers.get ({} : MoverSt) m).run = 3
      ∧ (t.reg Reg.MV_ERR_CNT m).toNat = min 0xFFFFFFFF ((s.reg Reg.MV_ERR_CNT m).toNat + 1)
      ∧ (t.chan (s.mover.movers.get ({} : MoverSt) m).id).busy = false
      ∧ (t.chan (s.mover.movers.get ({} : MoverSt) m).id).status = stBusError
      ∧ bit (t.reg Reg.SVCCH_EVENTS (s.mover.movers.get ({} : MoverSt) m).id) 0 = true)
  ∧ (∀ (s : State) (m kind addr w : Nat) (ps : List Nat) (x : Dlv) (f : FrameSt), s.svc.stopped = none → 1 ≤ kind → kind ≤ 4 →
      addr < 2 ^ 64 → (s.mover.movers.get ({} : MoverSt) m).run = 1 → (s.mover.movers.get ({} : MoverSt) m).work = 1 →
      s.mover.dlv.find? (fun y => decide (y.ring = (s.mover.movers.get ({} : MoverSt) m).ring)
        && decide (y.descNo = (s.mover.movers.get ({} : MoverSt) m).descNo)) = some x →
      x.frame.bind (fun id => s.frame? id) = some f → f.loc = .spilled w ps → x.halted = false →
    ∃ t, exec (.moverBusError m kind addr) s = .next t ∧ (t.mover.movers.get ({} : MoverSt) m).run = 3
      ∧ t.mover.dlv = s.mover.dlv.map (fun y => if y.same x then { y with halted := true } else y)
      ∧ (t.ring x.ring).state = .pausedBus ∧ t.reg64 Reg.RING_ERR_ADDR_LO Reg.RING_ERR_ADDR_HI x.ring = addr)
  ∧ (∀ (s : State) (p addr : Nat), s.svc.stopped = none → p < 4 → s.portTalks p = true →
    ∃ u, u = (s.count Reg.HP_CPL_TO_CNT p).hpEvt p 8
      ∧ (u.reg Reg.HP_CPL_TO_CNT p).toNat = min 0xFFFFFFFF ((s.reg Reg.HP_CPL_TO_CNT p).toNat + 1) ∧ bit (u.reg Reg.HP_EVENTS p) 8 = true
      ∧ exec (.cplTimeout p none none addr) s = .next u
      ∧ (∀ m ring, ∃ t, exec (.cplTimeout p (some m) ring addr) s = .next t ∧ exec (.moverBusError m 1 addr) u = .next t)
      ∧ (∀ n, s.ringPort n = p → ∃ t, exec (.cplTimeout p none (some n) addr) s = .next t ∧ exec (.ringBusError n addr none) u = .next t))

/-- At S a step that is no longer pending, or void, is dropped and its command completes; another fixes its difference, and every
triggered frame that begins at or after B gets its new start and epoch. At B device time, the tick, the origins of running timers
and the starts of frames move, the epoch increases, frames begun before B are marked. A due trigger takes the oldest returned
record slot, its frame is kept as triggered and the timer goes on. A TRIGGER_NAK, an overdue frame start and an overdue frame end
end the input of an open frame with their cause, and set ST_EVENTS.CANARY. (R62, R63, R72, R176, R177, R179, R187, R188, R243). -/
def Obligations.TriggersTimeoutsAndTimeSteps : Prop :=
  (∀ (s : State) (d : StepPlan), s.svc.stopped = none → s.time.decided = some d → d.delta = none → d.tick + 1 ≤ s.time.tickNum →
      (d.void = true ∨ s.time.pendingStep = none) →
    ∃ t, exec .timeStepFix s = .next t ∧ t.time = { s.time with decided := none } ∧ t.store = s.store ∧ t.link = s.link
      ∧ (∀ k, d.ticket = some k → k.gen = (s.ring k.ring).gen → (t.ring k.ring).outstanding = (s.ring k.ring).outstanding - 1))
  ∧ (∀ (s : State) (d : StepPlan) (x : Int), s.svc.stopped = none → s.time.decided = some d → d.delta = none → d.tick + 1 ≤ s.time.tickNum →
      d.void = false → s.time.pendingStep = some x → (s.store.frames.map (·.id)).Nodup →
    ∃ t, exec .timeStepFix s = .next t ∧ t.time = { s.time with decided := some { d with delta := some x } }
      ∧ t.store = { s.store with frames := s.store.frames.map (fun f =>
          if s.startOfTick (d.tick + 1 + d.lead) ≤ f.t0 ∧ f.run = (s.run f.rig).run
              ∧ (f.phase = .triggered ∨ f.phase = .candidate ∨ f.phase = .missed) then
            { f with t := f.t0 + x / (2 ^ 32 : Nat), epoch := (s.time.epoch + 1) % 256, expStart := f.t0 + x / (2 ^ 32 : Nat),
                     expEnd := f.t0 + x / (2 ^ 32 : Nat), lastLine := f.t0 + x / (2 ^ 32 : Nat) }
          else f) })
  ∧ (∀ (s : State) (d : StepPlan) (x : Int), s.svc.stopped = none → s.time.decided = some d → d.delta = some x →
      d.tick + 1 + d.lead ≤ s.time.tickNum →
    ∃ t, exec .timeStepApply s = .next t ∧ t.time.now = ((s.time.now : Int) + x).toNat
      ∧ t.time.tickStart = ((s.time.tickStart : Int) + x).toNat ∧ t.time.epoch = (s.time.epoch + 1) % 256 ∧ t.time.isSet = true
      ∧ t.time.decided = none ∧ t.time.pendingStep = none
      ∧ (∀ r, (t.timer r).running = (s.timer r).running)
      ∧ (∀ r, (s.timer r).running = true → (t.timer r).s0 = (s.timer r).s0 + x / (2 ^ 32 : Nat))
      ∧ (∀ r, (s.timer r).running = false → (t.timer r).s0 = (s.timer r).s0)
      ∧ t.store = { s.store with frames := s.store.frames.map (fun f =>
          if f.t0 < ((s.time.tickStart / 2 ^ 32 : Nat) : Int) then
            { f with t0 := f.t0 + x / (2 ^ 32 : Nat), msShift := f.msShift + x / (2 ^ 32 : Nat),
                     status := if f.phase = .triggered ∨ f.phase = .opened ∨ f.phase = .candidate then f.status ||| 0x40 else f.status }
          else { f with t0 := f.t0 + x / (2 ^ 32 : Nat) }) })
  ∧ (∀ (s : State) (r st i : Nat) (rest : List Nat), s.svc.stopped = none → s.triggerDue r = true → s.rigStreams r = [st] →
      s.released (.stream st) 2 (s.streamLink st) = true → (s.stream st).lost = false → s.store.slotBack = i :: rest → s.stepNow = none →
    ∃ t, exec (.triggerSend r) s = .next t ∧ (t.timer r).next = (s.timer r).next + 1 ∧ t.store.slotBack = rest
      ∧ t.store.nextId = s.store.nextId + 1
      ∧ (t.stream st).trig = (s.stream st).trig ++ [((s.run r).run, (s.timer r).next)]
      ∧ ∃ f ∈ t.store.frames, f.id = s.store.nextId ∧ f.stream = st ∧ f.rig = r ∧ f.frame = (s.timer r).next ∧ f.run = (s.run r).run
        ∧ f.phase = .triggered ∧ f.slot = some i ∧ f.t = s.startOf r (s.timer r).next ∧ f.epoch = s.time.epoch)
  ∧ (∀ (s : State) (l st : Nat) (p : Pkt) (x : FrameSt), s.svc.stopped = none → s.linkCarries l = true → p.ptype = 9 →
      s.slotStream l p.slot = some st → s.matchFrame st (leAt p.fields 0 4) = some x → s.frame? x.id = some x → x.phase = .opened →
    ∃ t, exec (.triggerNak l p) s = .next t
      ∧ (t.reg Reg.HL_TRIG_NAK_CNT l).toNat = min 0xFFFFFFFF ((s.reg Reg.HL_TRIG_NAK_CNT l).toNat + 1)
      ∧ bit (t.reg Reg.HL_EVENTS l) 3 = true ∧ bit (t.reg Reg.ST_EVENTS st) 0 = true
      ∧ ∃ g, t.frame? x.id = some g ∧ g.phase = .ended ∧ g.endCause = .nak ∧ g.endTick = s.time.tickNum ∧ g.expEnd = x.t)
  ∧ (∀ (s : State) (st : Nat) (x : FrameSt), s.svc.stopped = none → s.fsLate st = some x → s.frame? x.id = some x → x.phase = .opened →
    ∃ t, exec (.canaryFsTimeout st) s = .next t ∧ bit (t.reg Reg.ST_EVENTS st) 0 = true
      ∧ ∃ g, t.frame? x.id = some g ∧ g.phase = .ended ∧ g.endCause = .fsWindow ∧ g.endTick = s.time.tickNum ∧ g.expEnd = x.t)
  ∧ (∀ (s : State) (st c : Nat) (x : FrameSt), s.svc.stopped = none → s.store.frames = [x] → x.stream = st → x.phase = .opened →
      x.fsAt = some c → c + usClk (s.actF Reg.ST_FE_WINDOW st 31 0) ≤ s.time.clk →
    ∃ t, exec (.canaryFeTimeout st) s = .next t ∧ bit (t.reg Reg.ST_EVENTS st) 0 = true
      ∧ ∃ g, t.frame? x.id = some g ∧ g.phase = .ended ∧ g.endCause = .feWindow ∧ g.endTick = s.time.tickNum ∧ g.expEnd = x.lastLine)

/-- A FRAME_START of a triggered frame opens it: the active set is latched, the arrival, the echo and the exposure start are kept; of
an open frame it is counted as unexpected. A LINE whose line is new, in range and has its pages and room in the line buffer is
listed, waits and stands in the buffer; a malformed one counts as a CRC error and a VC2 loss. FRAME_END ends the input with the
lines sent and the exposure end. A pipeline unit takes its next line: the conditioned line is stored, the counts of lines and
cycles and the frame's partial statistics go on. (R185, R187, R195, R196, R197, R214, R239, R243). -/
def Obligations.FramesAndLinesArrive : Prop :=
  (∀ (s : State) (l st : Nat) (p : Pkt) (x : FrameSt), s.svc.stopped = none → s.linkCarries l = true → p.ptype = 0x10 →
      s.slotStream l p.slot = some st → s.matchFrame st (leAt p.fields 0 4) = some x → (∀ g ∈ s.store.frames, g.id = x.id → g = x) →
      x.phase = .triggered →
    ∃ t, exec (.frameStart l p) s = .next t ∧ ∃ g, t.frame? x.id = some g ∧ g.phase = .opened ∧ g.fsAt = some s.time.clk
      ∧ g.echo = some (leAt p.fields 4 2, leAt p.payload 12 4)
      ∧ g.expStart = toSigned 64 (leAt p.payload 0 8) * 65536 + leAt p.payload 8 2
      ∧ g.latch = s.activeSet ∧ g.version = s.cfg.activeVer ∧ g.slot = x.slot)
  ∧ (∀ (s : State) (l st : Nat) (p : Pkt) (x : FrameSt), s.svc.stopped = none → s.linkCarries l = true → p.ptype = 0x10 →
      s.slotStream l p.slot = some st → s.matchFrame st (leAt p.fields 0 4) = some x → x.phase = .opened →
    ∃ t, exec (.frameStart l p) s = .next t ∧ t.store = s.store ∧ bit (t.reg Reg.HL_EVENTS l) 8 = true
      ∧ (t.reg Reg.HL_UNEXPECTED_CNT l).toNat = min 0xFFFFFFFF ((s.reg Reg.HL_UNEXPECTED_CNT l).toNat + 1))
  ∧ (∀ (s : State) (l st : Nat) (p : Pkt) (x : FrameSt), s.svc.stopped = none → s.linkCarries l = true → p.ptype = 0x11 →
      s.slotStream l p.slot = some st → s.matchFrame st (leAt p.fields 0 4) = some x → s.frame? x.id = some x → x.phase = .opened →
      leAt p.fields 6 1 = 1 → p.length = lineBytes x.latch st → leAt p.fields 4 2 < geomH x.latch st →
      x.lines.contains (leAt p.fields 4 2) = false → (s.stream st).buffered + lineBytes x.latch st ≤ 262144 →
      (∀ k ∈ linePages (lineBytes x.latch st) (leAt p.fields 4 2), x.page? k ≠ none) →
    ∃ t, exec (.line l p) s = .next t
      ∧ (∃ g, t.frame? x.id = some g ∧ g.lines = x.lines ++ [leAt p.fields 4 2] ∧ g.waiting = x.waiting + 1 ∧ g.phase = .opened)
      ∧ (t.stream st).buffered = (s.stream st).buffered + lineBytes x.latch st
      ∧ t.store.lbuf = s.store.lbuf ++ [{
          stream := st, id := x.id, line := leAt p.fields 4 2,
          bytes := sliceBytes p.payload 0 (lineBytes x.latch st), at_ := s.time.now }])
  ∧ (∀ (s : State) (l st : Nat) (p : Pkt) (x : FrameSt), s.svc.stopped = none → s.linkCarries l = true → p.ptype = 0x11 →
      s.slotStream l p.slot = some st → s.matchFrame st (leAt p.fields 0 4) = some x → s.frame? x.id = some x → x.phase = .opened →
      (leAt p.fields 6 1 = 0 ∨ p.length ≠ leAt p.fields 6 1 * lineBytes x.latch st) →
    ∃ t, exec (.line l p) s = .next t ∧ t.store = s.store ∧ bit (t.reg Reg.HL_EVENTS l) 0 = true
      ∧ (t.reg Reg.HL_CRC_ERR_CNT l).toNat = min 0xFFFFFFFF ((s.reg Reg.HL_CRC_ERR_CNT l).toNat + 1)
      ∧ (t.hl l).vc2Loss = (s.hl l).vc2Loss + 1)
  ∧ (∀ (s : State) (l st : Nat) (p : Pkt) (x : FrameSt), s.svc.stopped = none → s.linkCarries l = true → p.ptype = 0x12 →
      s.slotStream l p.slot = some st → s.matchFrame st (leAt p.fields 0 4) = some x → s.frame? x.id = some x → x.phase = .opened →
    ∃ t, exec (.frameEnd l p) s = .next t ∧ ∃ g, t.frame? x.id = some g ∧ g.phase = .ended ∧ g.endCause = .frameEnd
      ∧ g.endTick = s.time.tickNum ∧ g.linesSent = some (leAt p.fields 4 2) ∧ g.headFlags = leAt p.fields 6 1 % 4 ∧ g.lines = x.lines
      ∧ g.expEnd = toSigned 64 (leAt p.payload 0 8) * 65536 + leAt p.payload 8 2)
  ∧ (∀ (s : State) (u : Nat) (x : LineIn) (f : FrameSt), s.svc.stopped = none → s.unitActive 0x0C u = true → s.nextLine u = some x →
      s.released (.stream x.stream) 3 u = true → s.frame? x.id = some f →
    ∃ t, exec (.puLineProcess u) s = .next t
      ∧ t.store.lbuf = s.store.lbuf.filter (fun y => !(decide (y.id = x.id) && decide (y.line = x.line)))
      ∧ (t.stream x.stream).buffered = (s.stream x.stream).buffered - x.bytes.length
      ∧ t.reg64 Reg.PU_LINES_LO Reg.PU_LINES_HI u = (s.reg64 Reg.PU_LINES_LO Reg.PU_LINES_HI u + 1) % 2 ^ 64
      ∧ t.reg64 Reg.PU_BUSY_LO Reg.PU_BUSY_HI u = (s.reg64 Reg.PU_BUSY_LO Reg.PU_BUSY_HI u + lineCost f.latch x.stream) % 2 ^ 64
      ∧ t.hbm = (s.putPayload x.id (x.line * lineBytes f.latch x.stream) (packPixels (geomD f.latch x.stream)
          (s.condition f x.line x.bytes).payload (lineBytes f.latch x.stream))).hbm
      ∧ ∃ g, t.frame? x.id = some g ∧ g.waiting = f.waiting - 1 ∧ g.phase = f.phase
        ∧ (g.stats.get ({} : Stats) u).lines = (f.stats.get ({} : Stats) u).lines + 1)

/-- A frame due to close closes in its tick with the status of its packets, and counts in its stream: last frame, timeout history and
consecutive timeouts. An engine digests the next page it owes and counts its bytes. The next frame of a take is sealed: its record
gets the tag and the chain value, its seal holder is dropped and the chain goes on. Frames without holders whose tick has come and
that nothing reads are gone, and their record slots are back. A cache of at most 16 pages is refilled. (R189, R190, R238, R244,
R252, R498, R501, R502). -/
def Obligations.FramesCloseSealAndFree : Prop :=
  (∀ (s : State) (st : Nat) (f : FrameSt), s.svc.stopped = none → s.closable st = some f → (∀ g ∈ s.store.frames, g.id = f.id → g = f) →
    ∃ t, exec (.frameClose st) s = .next t
      ∧ (∃ g, t.frame? f.id = some g ∧ g.phase = .closed ∧ g.status = s.closeStatus f ∧ g.closeTick = s.time.tickNum ∧ g.stats = []
        ∧ g.frame = f.frame ∧ g.lines = f.lines)
      ∧ (t.stream st).lastFrame = f.frame ∧ (t.stream st).history = (f.endCause.timeout :: (s.stream st).history).take 16
      ∧ (t.stream st).consec = (if f.endCause.timeout then satAdd 255 (s.stream st).consec 1 else 0))
  ∧ (∀ (s : State) (e i : Nat) (f : FrameSt), s.svc.stopped = none → s.unitActive 0x0D e = true → s.dev.mode = .operational →
      s.pageOwed e = some (f, i) → s.frame? f.id = some f →
      (s.hasResv (.seal f.stream) = true → f.pageBytes i ≤ s.jobLeft (.seal f.stream) 4 e) →
    ∃ t, exec (.pageDigest e) s = .next t
      ∧ t.frame? f.id = some { f with digests := f.digests.put [] i (sha384 (s.getPayload f (65536 * i) (f.pageBytes i))) }
      ∧ t.reg64 Reg.CE_BYTES_LO Reg.CE_BYTES_HI e = (s.reg64 Reg.CE_BYTES_LO Reg.CE_BYTES_HI e + f.pageBytes i) % 2 ^ 64)
  ∧ (∀ (s : State) (st : Nat) (f : FrameSt) (k : Take), s.svc.stopped = none → s.dev.mode = .operational → s.sealable st = some (f, k) →
      (∀ g ∈ s.store.frames, g.id = f.id → g = f) → s.store.recovery = none → s.store.queued = [] →
    ∃ t, exec (.frameSeal st) s = .next t
      ∧ (∃ g, t.frame? f.id = some g ∧ g.sealed = true ∧ g.hold.sealing = false ∧ g.phase = .closed
        ∧ g.record = patchBytes (patchBytes f.record 4032 (f.sealTag k)) 4048 (f.sealChain k))
      ∧ ∃ k', t.take? k.id = some k' ∧ k'.chains.get [] f.stream = f.sealChain k)
  ∧ (∀ (s : State), s.svc.stopped = none → s.store.recovery = none →
    ∃ t, exec .pagesFree s = .next t
      ∧ (∀ f ∈ s.store.frames, ∀ n, f.freeAt = some n → n ≤ s.time.tickNum → f.hold.tally = 0 → f.readers = 0 → s.driveReads f.id = false →
          t.frame? f.id = none)
      ∧ (∀ f ∈ s.store.frames, ∀ n i, f.freeAt = some n → n ≤ s.time.tickNum → f.hold.tally = 0 → f.slot = some i → i ∈ t.store.slotBack))
  ∧ (∀ (s u : State) (st p : Nat), s.svc.stopped = none → s.streamOn st = true → (s.stream st).cache.length ≤ 16 →
      (s.stream st).stopping = false → s.allocPage = some (p, u) →
    ∃ t, exec (.pageCacheRefill st) s = .next t ∧ ∃ rest, (t.stream st).cache = (s.stream st).cache ++ p :: rest)

/-- With SPILL_EN set the next frame asked for starts its page-out: it takes 1 + PAGES free window pages, which the window then lists,
and the page-out waits with its bytes. Its closing read done, the frame is spilled with SPILLED in its status, its pages are due
at the next boundary, STORE_SPILL_OUT_CNT counts. A failure leaves it resident, frees its window pages, marks the window FAILED,
sets SPILL_FAIL and counts. A window a commit took away pages its next frame in: pages from the free lists, window pages freed,
STORE_SPILL_IN_CNT counts. (R264, R265, R267, R268). -/
def Obligations.SpillWindows : Prop :=
  (∀ (s : State) (f : FrameSt) (w : Nat), s.svc.stopped = none → bit (s.act Reg.STORE_CTRL) 1 = true → s.store.recovery = none →
      s.spillNext = some (f, w) → s.frame? f.id = some f →
    ∃ t, exec .spillPageOut s = .next t
      ∧ t.frame? f.id = some { f with loc := .pagingOut w (s.spwFree w (framePages f.latch f.stream + 1)) }
      ∧ (t.spw w).used = sortNat ((s.spw w).used ++ s.spwFree w (framePages f.latch f.stream + 1))
      ∧ t.mover.spills = s.mover.spills ++ [{ id := f.id, window := w, left := 65536 * framePages f.latch f.stream + 20480 }])
  ∧ (∀ (s : State) (w v : Nat) (ps : List Nat) (x : SpillOp) (f : FrameSt), s.svc.stopped = none →
      s.mover.spills.find? (fun x => decide (x.window = w) && x.reading) = some x → s.frame? x.id = some f → f.loc = .pagingOut v ps →
    ∃ t, exec (.spillPageOutDone w) s = .next t
      ∧ (∃ g, t.frame? x.id = some g ∧ g.loc = .spilled v ps ∧ g.freeAt = some (s.time.tickNum + 1) ∧ g.status = f.status ||| 0x100)
      ∧ t.mover.spills = s.mover.spills.filter (fun y => decide (y.id ≠ x.id))
      ∧ (t.reg Reg.STORE_SPILL_OUT_CNT).toNat = min 0xFFFFFFFF ((s.reg Reg.STORE_SPILL_OUT_CNT).toNat + 1))
  ∧ (∀ (s : State) (w v : Nat) (ps : List Nat) (x : SpillOp) (f : FrameSt), s.svc.stopped = none →
      s.mover.spills.find? (fun x => decide (x.window = w)) = some x → s.frame? x.id = some f → f.loc = .pagingOut v ps →
    ∃ t, exec (.spillFail w) s = .next t ∧ t.frame? x.id = some { f with loc := .resident }
      ∧ (t.spw w).failed = true ∧ (t.spw w).used = (s.spw w).used.filter (fun p => !ps.contains p)
      ∧ t.mover.spills = s.mover.spills.filter (fun y => decide (y.id ≠ x.id)) ∧ bit (t.reg Reg.STORE_EVENTS) 5 = true
      ∧ (t.reg Reg.STORE_SPILL_FAIL_CNT).toNat = min 0xFFFFFFFF ((s.reg Reg.STORE_SPILL_FAIL_CNT).toNat + 1))
  ∧ (∀ (s u : State) (w : Nat) (ps got : List Nat) (data : List Byte) (f : FrameSt), s.svc.stopped = none → (s.spw w).old.isSome = true →
      (s.spilledIn w).head? = some f → s.frame? f.id = some f → f.loc = .spilled w ps →
      s.takePages (framePages f.latch f.stream) [] = some (got, u) →
    ∃ t, exec (.spillPageIn w data) s = .next t
      ∧ (∃ g, t.frame? f.id = some g ∧ g.loc = .resident ∧ g.pagesOut = false
        ∧ g.pages = (List.range (framePages f.latch f.stream)).foldl (fun t i => Tab.put 0 t i (got.getD i 0 + 1)) [])
      ∧ (t.spw w).used = (s.spw w).used.filter (fun p => !ps.contains p)
      ∧ (t.reg Reg.STORE_SPILL_IN_CNT).toNat = min 0xFFFFFFFF ((s.reg Reg.STORE_SPILL_IN_CNT).toNat + 1))

/-- A tick boundary that is due raises TICK_NUM by 1, starts the tick where the last one ended, gives it its length and leaves device
time. A drain that is due puts an ACTIVE unit (no lane) into DRAINING and the chosen SPARE into ACTIVE; a SPARE unit enters
OFFLINE; an OFFLINE unit (no lane, no drive) returns as SPARE or ACTIVE, as its due change says. With AUTO_REPLACE 1 the lowest
SPARE of a failed unit's class, with no test running, enters ACTIVE. (R66, R67, R109, R551, R553, R555, R556, R560). -/
def Obligations.BoundariesOfTicksAndUnits : Prop :=
  (∀ s : State, s.svc.stopped = none → s.time.tickEnd ≤ s.time.now →
    ∃ t, exec .tickBoundary s = .next t ∧ t.time.tickNum = s.time.tickNum + 1 ∧ t.time.tickStart = s.time.tickEnd
      ∧ t.time.tickEnd = tickEndAfter s.periodUnits s.time.tickEnd ∧ t.time.now = s.time.now)
  ∧ (∀ (s : State) (e : UnitDue), s.svc.stopped = none → s.recovering 2 = false →
      s.svc.due.filter (fun e => decide (e.tick ≤ s.time.tickNum)) = [e] → e.kind ≠ 4 → e.index < 256 → e.to_ = 3 →
      s.unitCode e.kind e.index = 2 → e.spare = none →
    ∃ t, exec .unitStateBoundary s = .next t ∧ t.unitCode e.kind e.index = 3)
  ∧ (∀ (s : State) (e : UnitDue), s.svc.stopped = none → s.recovering 2 = false →
      s.svc.due.filter (fun e => decide (e.tick ≤ s.time.tickNum)) = [e] → e.kind ≠ 4 → e.index < 256 → e.to_ = 3 →
      s.unitCode e.kind e.index = 2 → (∃ j, e.spare = some j ∧ j ≠ e.index ∧ j < 256 ∧ s.unitCode e.kind j = 1) →
    ∃ t, exec .unitStateBoundary s = .next t ∧ t.unitCode e.kind e.index = 3 ∧ ∃ j, e.spare = some j ∧ t.unitCode e.kind j = 2)
  ∧ (∀ (s : State) (e : UnitDue), s.svc.stopped = none → s.recovering 2 = false →
      s.svc.due.filter (fun e => decide (e.tick ≤ s.time.tickNum)) = [e] → e.kind ≠ 4 → e.index < 256 → e.to_ = 0 →
      s.slotDue e = false → s.unitCode e.kind e.index = 1 →
    ∃ t, exec .unitStateBoundary s = .next t ∧ t.unitCode e.kind e.index = 0)
  ∧ (∀ (s : State) (e : UnitDue), s.svc.stopped = none → s.recovering 2 = false →
      s.svc.due.filter (fun e => decide (e.tick ≤ s.time.tickNum)) = [e] → e.kind ≠ 4 → e.kind ≠ 7 → e.index < 256 →
      (e.to_ = 1 ∨ e.to_ = 2) → e.spare = none → s.unitCode e.kind e.index = 0 →
    ∃ t, exec .unitStateBoundary s = .next t ∧ t.unitCode e.kind e.index = e.to_)
  ∧ (∀ (s : State) (kind j : Nat) (w : Nat × Nat × Nat), s.svc.stopped = none → bit (s.act Reg.SVC_CTRL) 0 = true → s.recovering 2 = false →
      s.svc.replace.find? (fun e => decide (e.1 = kind) && decide (e.2.1 < s.time.tickNum)) = some w → s.svc.tests = [] →
      (sortNat (s.unitsIn kind 1)).head? = some j →
    ∃ t, exec (.spareReplacement kind) s = .next t ∧ t.unitCode kind j = 2)

/-- The next frame of a take with room on its set is placed: its segment opens if need be, lists it at its position with 1 block and
its payload blocks, and the stream goes on past them. A full or aged chunk, or one of a checkpoint, is written as far as it is
filled. A checkpoint that is due begins in its tick, names the position its data reach, and places nothing. The old segment of a
relay ends with kind 2 once its frames are written, the last segment of an ended take with kind 1 and LAST. At its boundary a
relay of a take that does not end there bounds the old segment and the take enters a new one on the chosen set. (R297, R299, R300,
R304, R305, R309). -/
def Obligations.RecordingAdvances : Prop :=
  (∀ (s : State) (r n : Nat) (t : Take) (f : FrameSt) (g : Seg), s.svc.stopped = none → s.dev.mode = .operational →
      (s.recTakes r).findSome? (fun t => if (s.rec_ t.id).emerg.isSome then none else (s.placeable t).map (fun f => (t, f))) = some (t, f) →
      s.segFor t.id f.frame = some g → s.seg? g.id = some g → s.setFailing g.set = false → s.frame? f.id = some f →
      n = 1 + ceilDiv (frameBytes f.latch f.stream) 4096 →
      (ceilDiv (g.pos + n) (claimBlocks s.magSet g.set) ≤ ceilDiv g.pos (claimBlocks s.magSet g.set)
        ∨ (s.setExhausted g.set = false ∧ (if g.opened then g.firstClaim else s.setUsed g.set)
            + ceilDiv (g.pos + n) (claimBlocks s.magSet g.set) ≤ s.setClaims g.set)) →
    ∃ u, exec (.framePlace r) s = .next u ∧ u.frame? f.id = some { f with placed := true }
      ∧ ∃ g' p, u.seg? g.id = some g' ∧ g'.opened = true ∧ g'.placed = g.placed ++ [p] ∧ p.id = f.id ∧ p.frame = f.frame
        ∧ p.stream = f.stream ∧ p.pos = g.pos ∧ p.blocks = n
        ∧ (f.record.length = 4096 → g.pos + n ≤ g'.pos))
  ∧ (∀ (s : State) (m lba n : Nat) (ds : List Nat) (g : Seg), s.svc.stopped = none → s.dev.mode = .operational →
      s.segOn m = some g → s.seg? g.id = some g → g.stage = 0 → g.endKind ≠ 3 → s.setFailing m = false →
      s.nextPiece g = (lba, n, ds) → 0 < n → (∀ d, s.writesOut d < 56) →
      (g.ckpt = 1 ∨ ((256 - g.written % 256 ≤ g.pos - g.written ∨ s.chunkAged g = true) ∧ ∀ d ∈ ds, n ≤ s.granted g d n)) →
    ∃ t, exec (.chunkWrite m) s = .next t ∧ ∃ g', t.seg? g.id = some g' ∧ g'.written = g.written + n
      ∧ g'.tail = g.tail.drop (n * 4096) ∧ g'.pos = g.pos ∧ g'.placed = g.placed)
  ∧ (∀ (s : State) (m : Nat) (g : Seg), s.svc.stopped = none → s.dev.mode = .operational →
      s.segOn m = some g → s.seg? g.id = some g → g.stage = 0 → g.ckpt = 0 → s.setFailing m = false →
      (g.ckptTick - (s.rec_ g.take).tick0) / ceilDiv (s.actF Reg.MB_CTRL 0 23 10 * 1000000) s.period
        < (s.time.tickNum - (s.rec_ g.take).tick0) / ceilDiv (s.actF Reg.MB_CTRL 0 23 10 * 1000000) s.period →
    ∃ t, exec (.checkpoint m) s = .next t ∧ ∃ g', t.seg? g.id = some g' ∧ g'.ckptTick = s.time.tickNum
      ∧ g'.ckptTo = g'.pos ∧ g.pos ≤ g'.pos ∧ g'.stage = 0 ∧ g'.placed = g.placed)
  ∧ (∀ (s : State) (m : Nat) (g : Seg) (t : Take), s.svc.stopped = none → s.dev.mode = .operational →
      s.mag.segs.find? (fun g => decide (g.set = m) && decide (g.stage = 0) && g.below.isSome) = some g → s.seg? g.id = some g →
      s.take? g.take = some t → (∀ f ∈ s.store.frames, (s.rec_ g.take).owes g.take f = true → g.below.getD 0 ≤ f.frame) →
      (∀ n, s.firstUnwritten t = some n → g.below.getD 0 ≤ n) → g.ckpt = 0 → s.setFailing m = false →
    ∃ u, exec (.segmentClose m) s = .next u ∧ ∃ g', u.seg? g.id = some g' ∧ g'.endKind = 2 ∧ 1 ≤ g'.stage ∧ g'.placed = g.placed)
  ∧ (∀ (s : State) (r id : Nat) (t : Take) (g : Seg), s.svc.stopped = none → s.dev.mode = .operational →
      (s.recTakes r).find? (fun t => t.last.isSome && !(s.rec_ t.id).closed) = some t →
      ((s.timer r).running = false ∨ t.last.getD 0 < (s.timer r).next ∨ s.rigMode r = .idle) →
      (∀ f ∈ s.store.frames, (s.rec_ t.id).owes t.id f = false) → s.firstUnwritten t = none → (s.rec_ t.id).relay = none →
      (s.rec_ t.id).emerg = none → (s.rec_ t.id).seg = some id → s.seg? id = some g →
      (∀ g ∈ s.mag.segs, g.take = t.id → g.ckpt = 0 ∧ s.setFailing g.set = false ∧ (7 ≤ g.stage ∨ g.id = id)) →
    ∃ u, exec (.takeClose r) s = .next u ∧ (u.rec_ t.id).closed = true
      ∧ ∃ g', u.seg? id = some g' ∧ g'.endKind = 1 ∧ g'.last = true ∧ 1 ≤ g'.stage)
  ∧ (∀ (s : State) (r n id : Nat) (t : Take) (x : Relay) (g : Seg), s.svc.stopped = none → s.recTakes r = [t] →
      (s.rec_ t.id).relay = some x → x.tick ≤ s.time.tickNum → s.takeEndDue r = false → (s.rec_ t.id).seg = some id → s.seg? id = some g →
      (∀ g ∈ s.mag.segs, g.id ≠ s.mag.nextSeg) → n = s.firstAt r (s.time.tickStart / 2 ^ 32 : Nat) →
    ∃ u, exec (.relayBoundary r) s = .next u
      ∧ (u.rec_ t.id).relay = none ∧ (u.rec_ t.id).set = some x.set ∧ (u.rec_ t.id).seg = some s.mag.nextSeg
      ∧ u.seg? id = some { g with below := some n, nextSet := s.setUuid x.set }
      ∧ ∃ h, u.seg? s.mag.nextSeg = some h ∧ h.take = t.id ∧ h.set = x.set ∧ h.number = (s.rec_ t.id).nextSeg ∧ h.from_ = n)

/-- With no open take the effect of a failed drive clears its mark and fails a bay with no working slot; a set of an open take whose
layout rides the loss out degrades. A removed magazine leaves its bay EMPTY, identity and content gone, with SURPRISE if it was
IN_USE or CLOSING. The latch releases a READY bay; with LATCH_ACTION REFUSE an IN_USE bay sets EJECT_REQ and EJECT_REFUSED and
nothing else; with RELAY one whose take already relays, or that no take uses, is due for release. After zeroisation an open
segment ends UNSEALED. (R312, R314, R315, R316, R321). -/
def Obligations.DrivesFailAndMagazinesLeave : Prop :=
  (∀ (s : State) (d : Nat), s.svc.stopped = none → (s.drive d).failDue = true → (∀ t ∈ s.takes.takes, t.closed = true) →
    ∃ t, exec (.driveFailure d) s = .next t ∧ t.drive d = { s.drive d with failDue := false }
      ∧ (((s.bay (bayOf d)).mode = .ready ∨ (s.bay (bayOf d)).mode = .inUse) → (s.drive d).mode = .failed →
          (∀ e ∈ slotsOf (bayOf d), (s.drive e).mode ≠ .ready ∧ (s.drive e).mode ≠ .inUse) → (t.bay (bayOf d)).mode = .failed))
  ∧ (∀ (s : State) (d m : Nat) (t : Take), s.svc.stopped = none → (s.drive d).failDue = true → s.setsOf d = [m] →
      s.takes.takes = [t] → t.closed = false → (s.rec_ t.id).relay = none → (s.rec_ t.id).emerg = none →
      (∃ g ∈ s.mag.segs, g.take = t.id ∧ g.set = m ∧ g.stage < 7) → s.ridesOut m = true →
    ∃ u, exec (.driveFailure d) s = .next u ∧ (u.mag.sets.get {} m).degraded = true)
  ∧ (∀ (s : State) (b : Nat), s.svc.stopped = none → (s.bay b).present = true → (∀ t ∈ s.takes.takes, t.closed = true) →
    ∃ t, exec (.surprise b) s = .next t ∧ (t.bay b).present = false ∧ (t.bay b).mode = .empty
      ∧ ((s.bay b).mode ≠ .empty → (t.bay b).content = 0 ∧ (t.bay b).idPage = none)
      ∧ (((s.bay b).mode = .inUse ∨ (s.bay b).mode = .closing) → bit (t.reg Reg.BAY_EVENTS b) 2 = true))
  ∧ (∀ (s : State) (b : Nat), s.svc.stopped = none → (s.bay b).mode = .ready → (s.bay b).released = false →
    ∃ t, exec (.ejectReq b) s = .next t ∧ (t.bay b).released = true ∧ (t.bay b).mode = .ready)
  ∧ (∀ (s : State) (b : Nat), s.svc.stopped = none → (s.bay b).mode = .inUse → bit (s.act Reg.BAY_CTRL b) 1 = false →
    ∃ t, exec (.ejectReq b) s = .next t ∧ t.bay b = { s.bay b with eject := true, refused := true }
      ∧ bit (t.reg Reg.BAY_EVENTS b) 3 = true ∧ bit (t.reg Reg.BAY_EVENTS b) 4 = true)
  ∧ (∀ (s : State) (b : Nat), s.svc.stopped = none → (s.bay b).mode = .inUse → bit (s.act Reg.BAY_CTRL b) 1 = true →
      (∀ t, s.bayTake b = some t → (s.rec_ t.id).relay.isSome = true) →
    ∃ t, exec (.ejectReq b) s = .next t ∧ t.bay b = { s.bay b with eject := true, releaseDue := true }
      ∧ bit (t.reg Reg.BAY_EVENTS b) 3 = true)
  ∧ (∀ (s : State) (b : Nat), s.svc.stopped = none →
    ∃ t, exec (.ejectRelease b) s = .next t ∧ t.bay b = { s.bay b with eject := false, refused := false } ∧ t.cur = s.cur)
  ∧ (∀ (s : State) (m : Nat) (g : Seg), s.svc.stopped = none → s.dev.mode = .zeroized → s.segOn m = some g → s.seg? g.id = some g →
      g.stage < 5 → (∀ c ∈ s.mag.cmds, (setDrives s.magSet m).contains c.slot = false) →
    ∃ t, exec (.unsealedEnd m) s = .next t ∧ ∃ g', t.seg? g.id = some g' ∧ g'.endKind = 4 ∧ 4 ≤ g'.stage ∧ g'.placed = g.placed)
end

