-- ==== Sys2Proof/Laws/Tab.lean ====
section
/-! SUPPORT. The laws of sparse tables and of memory: a read after a write, and that every write keeps the canonical form. -/

namespace Sys2Proof.Machine

variable {α : Type}

theorem Tab.rising_mono {b c : Nat} {t : Tab α} (h : Tab.rising c t = true) (hb : b ≤ c) : Tab.rising b t = true := by
  cases t with
  | nil => rfl
  | cons e t =>
    simp only [Tab.rising, Bool.and_eq_true, decide_eq_true_eq] at h ⊢
    exact ⟨Nat.le_trans hb h.1, h.2⟩

theorem Tab.rising_filter {b : Nat} {t : Tab α} (p : Nat × α → Bool) (h : Tab.rising b t = true) :
    Tab.rising b (t.filter p) = true := by
  induction t generalizing b with
  | nil => exact h
  | cons e t ih =>
    simp only [Tab.rising, Bool.and_eq_true, decide_eq_true_eq] at h
    by_cases he : p e = true
    · rw [List.filter_cons_of_pos he]
      simp only [Tab.rising, Bool.and_eq_true, decide_eq_true_eq]
      exact ⟨h.1, ih h.2⟩
    · rw [List.filter_cons_of_neg he]
      exact Tab.rising_mono (ih h.2) (by omega)

theorem Tab.rising_drop {b : Nat} {t : Tab α} {k : Nat} (h : Tab.rising b t = true) : Tab.rising b (t.drop k) = true :=
  Tab.rising_filter _ h

theorem Tab.rising_ins {b : Nat} {t : Tab α} {k : Nat} {v : α} (h : Tab.rising b t = true) (hk : b ≤ k) :
    Tab.rising b (t.ins k v) = true := by
  induction t generalizing b with
  | nil =>
    simp only [Tab.ins, Tab.rising, Bool.and_eq_true, decide_eq_true_eq]
    exact ⟨hk, trivial⟩
  | cons e t ih =>
    simp only [Tab.rising, Bool.and_eq_true, decide_eq_true_eq] at h
    unfold Tab.ins
    split
    · next he =>
      simp only [Tab.rising, Bool.and_eq_true, decide_eq_true_eq]
      exact ⟨hk, he ▸ h.2⟩
    · split
      · next hne hlt =>
        simp only [Tab.rising, Bool.and_eq_true, decide_eq_true_eq]
        exact ⟨hk, by omega, h.2⟩
      · next hne hlt =>
        simp only [Tab.rising, Bool.and_eq_true, decide_eq_true_eq]
        exact ⟨h.1, ih h.2 (by omega)⟩

theorem Tab.all_drop {p : Nat × α → Bool} {t : Tab α} {k : Nat} (h : t.all p = true) : (t.drop k).all p = true := by
  rw [List.all_eq_true] at h ⊢
  exact fun x hx => h x (List.mem_filter.mp hx).1

theorem Tab.all_ins {p : Nat × α → Bool} {t : Tab α} {k : Nat} {v : α} (h : t.all p = true) (hv : p (k, v) = true) :
    (t.ins k v).all p = true := by
  induction t with
  | nil =>
    simp only [Tab.ins, List.all_cons, Bool.and_eq_true]
    exact ⟨hv, rfl⟩
  | cons e t ih =>
    simp only [List.all_cons, Bool.and_eq_true] at h
    unfold Tab.ins
    split
    · simp only [List.all_cons, Bool.and_eq_true]
      exact ⟨hv, h.2⟩
    · split
      · simp only [List.all_cons, Bool.and_eq_true]
        exact ⟨hv, h.1, h.2⟩
      · simp only [List.all_cons, Bool.and_eq_true]
        exact ⟨h.1, ih h.2⟩

/-- A write keeps the canonical form. -/
theorem Tab.put_wf [DecidableEq α] {d : α} {t : Tab α} (k : Nat) (v : α) (h : t.wf d = true) : (t.put d k v).wf d = true := by
  simp only [Tab.wf, Bool.and_eq_true] at h ⊢
  unfold Tab.put
  split
  · exact ⟨Tab.rising_drop h.1, Tab.all_drop h.2⟩
  · next hv => exact ⟨Tab.rising_ins h.1 (Nat.zero_le _), Tab.all_ins h.2 (by simp only [hv, decide_false, Bool.not_false])⟩

/-- Removing entries keeps the canonical form. -/
theorem Tab.filter_wf [DecidableEq α] {d : α} {t : Tab α} (p : Nat × α → Bool) (h : t.wf d = true) : Tab.wf d (t.filter p) = true := by
  simp only [Tab.wf, Bool.and_eq_true] at h ⊢
  refine ⟨Tab.rising_filter p h.1, ?_⟩
  rw [List.all_eq_true] at h ⊢
  exact fun x hx => h.2 x (List.mem_filter.mp hx).1

/-! ### A read after a write -/

theorem Tab.get_drop (d : α) (t : Tab α) (k j : Nat) : (t.drop k).get d j = if j = k then d else t.get d j := by
  induction t with
  | nil => simp [Tab.drop, Tab.get]
  | cons e t ih =>
    obtain ⟨a, v⟩ := e
    unfold Tab.drop at ih ⊢
    by_cases ha : a = k
    · subst ha
      rw [List.filter_cons_of_neg (by simp), ih]
      by_cases hj : j = a <;> simp [Tab.get, hj]
    · rw [List.filter_cons_of_pos (by simpa using ha)]
      simp only [Tab.get, ih]
      by_cases hj : j = a
      · subst hj
        simp [ha]
      · simp [hj]

theorem Tab.get_ins (d : α) (t : Tab α) (k j : Nat) (v : α) : (t.ins k v).get d j = if j = k then v else t.get d j := by
  induction t with
  | nil => by_cases hj : j = k <;> simp [Tab.ins, Tab.get, hj]
  | cons e t ih =>
    obtain ⟨a, w⟩ := e
    unfold Tab.ins
    by_cases hk : k = a
    · subst hk
      by_cases hj : j = k <;> simp [Tab.get, hj]
    · by_cases hl : k < a
      · by_cases hj : j = k <;> simp [Tab.get, hk, hl, hj]
      · simp only [hk, hl, if_false, Tab.get, ih]
        by_cases hj : j = a
        · subst hj
          simp [Ne.symm hk]
        · simp [hj]

/-- A read of the key written gives the value written, and a read of any other key what it gave before. -/
theorem Tab.get_put [DecidableEq α] (d : α) (t : Tab α) (k j : Nat) (v : α) :
    (t.put d k v).get d j = if j = k then v else t.get d j := by
  unfold Tab.put
  split
  · next h => rw [Tab.get_drop, h]
  · rw [Tab.get_ins]

theorem Tab.get_upd [DecidableEq α] (d : α) (t : Tab α) (k j : Nat) (f : α → α) :
    (t.upd d k f).get d j = if j = k then f (t.get d k) else t.get d j := Tab.get_put d t k j _

@[simp] theorem Tab.get_put_self [DecidableEq α] (d : α) (t : Tab α) (k : Nat) (v : α) : (t.put d k v).get d k = v := by
  rw [Tab.get_put, if_pos rfl]

theorem Tab.get_put_ne [DecidableEq α] (d d' : α) (t : Tab α) {k j : Nat} (v : α) (h : j ≠ k) :
    (t.put d k v).get d' j = t.get d' j := by
  unfold Tab.put
  split
  · rw [Tab.get_drop, if_neg h]
  · rw [Tab.get_ins, if_neg h]

@[simp] theorem Tab.get_upd_self [DecidableEq α] (d : α) (t : Tab α) (k : Nat) (f : α → α) :
    (t.upd d k f).get d k = f (t.get d k) := by rw [Tab.get_upd, if_pos rfl]

theorem Tab.get_upd_ne [DecidableEq α] (d : α) (t : Tab α) {k j : Nat} (f : α → α) (h : j ≠ k) :
    (t.upd d k f).get d j = t.get d j := by rw [Tab.get_upd, if_neg h]

/-! ### The memory of frame pages -/

theorem hbmWrite_wf (m : List Host.Cell) (a : Nat) (b : List Byte) (h : Memory.wf m) : Memory.wf (hbmWrite m a b) := by
  induction b generalizing m a with
  | nil => exact h
  | cons x b ih => exact ih _ _ (Tab.put_wf a x h)

end Sys2Proof.Machine
end

