-- ==== Sys2Proof/Laws/Keeps.lean ====
section
/-! SUPPORT. What a computation may change: a relation between the state before and the state after, with its laws of composition.
One lemma for each function of the machine rests on it (the files beside this one). -/

namespace Sys2Proof.Machine

/-- The number of a part in a mask. -/
def Part.idx : Part → Nat
  | .cur => 0
  | .cfg => 1
  | .dev => 2
  | .rings => 3
  | .ports => 4
  | .time => 5
  | .plan => 6
  | .link => 7
  | .store => 8
  | .takes => 9
  | .mover => 10
  | .mag => 11
  | .svc => 12
  | .obj => 13
  | .sec => 14
  | .motion => 15
  | .ckpt => 16
  | .hbm => 17
  | .out => 18
  | .free => 19
  | .pending => 20
  | .mode => 21
  | .rigs => 22
  | .steward => 23
  | .active => 24
  | .ownerKeys => 25
  | .credentials => 26
  | .floor => 27
  | .svn => 28
  | .zeroizeCnt => 29
  | .firmware => 30
  | .stopped => 31
  | .units => 32
  | .retired => 33
  | .log => 34
  | .tickNum => 35
  | .deviceTime => 36
  | .clk => 37
  | .heap => 38
  | .ringCtl => 39

/-- What never shrinks or breaks, whatever a command does. -/
structure Grows (s t : State) : Prop where
  out : s.out <:+ t.out
  free : s.free ≤ t.free
  svn : s.sec.svnFloor ≤ t.sec.svnFloor
  hbm : Memory.wf s.hbm → Memory.wf t.hbm
  heap : Memory.wf s.obj.heap → Memory.wf t.obj.heap

theorem Grows.refl (s : State) : Grows s s := ⟨List.suffix_rfl, Nat.le_refl _, Nat.le_refl _, id, id⟩

theorem Grows.trans {s t u : State} (a : Grows s t) (b : Grows t u) : Grows s u :=
  ⟨a.out.trans b.out, Nat.le_trans a.free b.free, Nat.le_trans a.svn b.svn,
    fun h => b.hbm (a.hbm h), fun h => b.heap (a.heap h)⟩

@[simp] theorem RingCtlSame.refl (x : Tab RingSt) : RingCtlSame x x := fun _ => ⟨rfl, rfl, rfl, rfl, rfl, rfl, rfl, rfl, rfl⟩

theorem RingCtlSame.trans {x y z : Tab RingSt} (a : RingCtlSame x y) (b : RingCtlSame y z) : RingCtlSame x z := fun n => by
  obtain ⟨a1, a2, a3, a4, a5, a6, a7, a8, a9⟩ := a n
  obtain ⟨b1, b2, b3, b4, b5, b6, b7, b8, b9⟩ := b n
  exact ⟨b1.trans a1, b2.trans a2, b3.trans a3, b4.trans a4, b5.trans a5, b6.trans a6, b7.trans a7, b8.trans a8, b9.trans a9⟩

theorem Part.same_refl (p : Part) (s : State) : p.same s s := by cases p <;> simp [Part.same]

theorem Part.same_trans {p : Part} {s t u : State} (a : p.same s t) (b : p.same t u) : p.same s u := by
  cases p
  case ringCtl => exact RingCtlSame.trans a b
  all_goals simp_all [Part.same]

/-- From `s` to `t` only the parts in the mask may change. -/
structure Keeps (m : Nat) (s t : State) : Prop where
  same : ∀ p : Part, m.testBit p.idx = false → p.same s t
  grows : Grows s t

theorem Keeps.refl (m : Nat) (s : State) : Keeps m s s := ⟨fun p _ => p.same_refl s, Grows.refl s⟩

theorem Keeps.trans {m : Nat} {s t u : State} (a : Keeps m s t) (b : Keeps m t u) : Keeps m s u :=
  ⟨fun p h => Part.same_trans (a.same p h) (b.same p h), a.grows.trans b.grows⟩

theorem Keeps.mono {m m' : Nat} {s t : State} (a : Keeps m' s t) (h : m' ||| m = m) : Keeps m s t :=
  ⟨fun p hp => a.same p (by
    have := congrArg (fun x => x.testBit p.idx) h
    simp only [Nat.testBit_or, hp, Bool.or_false] at this
    exact this), a.grows⟩

/-- A step that follows: `t` to `u` changes no more than the mask has. -/
theorem Keeps.after {m m' : Nat} {s t u : State} (b : Keeps m' t u) (h : m' ||| m = m) (a : Keeps m s t) : Keeps m s u :=
  a.trans (b.mono h)

theorem Keeps.foldl {m : Nat} {s : State} {α : Type} {f : State → α → State} {l : List α} {t : State}
    (h : ∀ x k, Keeps m s x → Keeps m s (f x k)) (a : Keeps m s t) : Keeps m s (l.foldl f t) := by
  induction l generalizing t with
  | nil => exact a
  | cons k l ih => exact ih (h _ _ a)

theorem Keeps.foldlFst {m : Nat} {s : State} {α β : Type} {f : State × β → α → State × β} {l : List α} {t : State × β}
    (h : ∀ x k, Keeps m s x.1 → Keeps m s (f x k).1) (a : Keeps m s t.1) : Keeps m s (l.foldl f t).1 := by
  induction l generalizing t with
  | nil => exact a
  | cons k l ih => exact ih (h _ _ a)

theorem Keeps.foldlSnd {m : Nat} {s : State} {α β : Type} {f : β × State → α → β × State} {l : List α} {t : β × State}
    (h : ∀ x k, Keeps m s x.2 → Keeps m s (f x k).2) (a : Keeps m s t.2) : Keeps m s (l.foldl f t).2 := by
  induction l generalizing t with
  | nil => exact a
  | cons k l ih => exact ih (h _ _ a)

theorem Keeps.getD {m : Nat} {s d : State} {o : Option State} (h : ∀ t, o = some t → Keeps m s t) (a : Keeps m s d) :
    Keeps m s (o.getD d) := by
  cases o with
  | none => exact a
  | some t => exact h t rfl

theorem Keeps.ite {m : Nat} {s a b : State} {c : Prop} [Decidable c] (ha : Keeps m s a) (hb : Keeps m s b) :
    Keeps m s (if c then a else b) := by
  split
  · exact ha
  · exact hb

/-- The state after a meaning that may be held. -/
theorem Keeps.go {m : Nat} {s t : State} {f : State → State} (h : Keeps m s (f s)) (e : s.go f = .next t) : Keeps m s t := by
  unfold State.go at e
  injection e with e
  subst e
  split
  · exact .refl _ _
  · exact h

theorem Keeps.goRead {m : Nat} {s t : State} {off : Nat} {f : State → State} (h : Keeps m s (f s)) (e : s.goRead off f = .next t) :
    Keeps m s t := by
  unfold State.goRead at e
  injection e with e
  subst e
  split
  · exact h
  · split
    · exact h
    · exact .refl _ _
  · exact .refl _ _

theorem Keeps.cur {m : Nat} {s t : State} {d} (hb : m.testBit 0 = true)
    (a : Keeps m s t) : Keeps m s { t with cur := d } := by
  refine a.trans ⟨fun p hp => ?_, ?_⟩
  · cases p <;> simp only [Part.same, Part.idx] at hp ⊢ <;> simp_all
  · exact ⟨List.suffix_rfl, Nat.le_refl _, (Nat.le_refl _), id, id⟩

theorem Keeps.cfg {m : Nat} {s t : State} {d} (hb : m.testBit 1 = true)
    (h24 : m.testBit 24 = true ∨ d.active = t.cfg.active ∧ d.previous = t.cfg.previous ∧ d.lastVersion = t.cfg.lastVersion)
    (a : Keeps m s t) : Keeps m s { t with cfg := d } := by
  refine a.trans ⟨fun p hp => ?_, ?_⟩
  · cases p <;> simp only [Part.same, Part.idx] at hp ⊢ <;> simp_all
  · exact ⟨List.suffix_rfl, Nat.le_refl _, (Nat.le_refl _), id, id⟩

theorem Keeps.dev {m : Nat} {s t : State} {d} (hb : m.testBit 2 = true)
    (h21 : m.testBit 21 = true ∨ d.mode = t.dev.mode ∧ d.prevMode = t.dev.prevMode ∧ d.cause = t.dev.cause ∧ d.changes = t.dev.changes)
    (h22 : m.testBit 22 = true ∨ d.rigs = t.dev.rigs)
    (h23 : m.testBit 23 = true ∨ d.steward = t.dev.steward)
    (a : Keeps m s t) : Keeps m s { t with dev := d } := by
  refine a.trans ⟨fun p hp => ?_, ?_⟩
  · cases p <;> simp only [Part.same, Part.idx] at hp ⊢ <;> simp_all
  · exact ⟨List.suffix_rfl, Nat.le_refl _, (Nat.le_refl _), id, id⟩

theorem Keeps.rings {m : Nat} {s t : State} {d} (hb : m.testBit 3 = true)
    (h39 : m.testBit 39 = true ∨ RingCtlSame t.rings d)
    (a : Keeps m s t) : Keeps m s { t with rings := d } := by
  refine a.trans ⟨fun p hp => ?_, ?_⟩
  · cases p <;> simp only [Part.same, Part.idx] at hp ⊢ <;> simp_all
  · exact ⟨List.suffix_rfl, Nat.le_refl _, (Nat.le_refl _), id, id⟩

theorem Keeps.ports {m : Nat} {s t : State} {d} (hb : m.testBit 4 = true)
    (a : Keeps m s t) : Keeps m s { t with ports := d } := by
  refine a.trans ⟨fun p hp => ?_, ?_⟩
  · cases p <;> simp only [Part.same, Part.idx] at hp ⊢ <;> simp_all
  · exact ⟨List.suffix_rfl, Nat.le_refl _, (Nat.le_refl _), id, id⟩

theorem Keeps.time {m : Nat} {s t : State} {d} (hb : m.testBit 5 = true)
    (h35 : m.testBit 35 = true ∨ d.tickNum = t.time.tickNum)
    (h36 : m.testBit 36 = true ∨ d.now = t.time.now ∧ d.epoch = t.time.epoch ∧ d.isSet = t.time.isSet)
    (h37 : m.testBit 37 = true ∨ d.clk = t.time.clk)
    (a : Keeps m s t) : Keeps m s { t with time := d } := by
  refine a.trans ⟨fun p hp => ?_, ?_⟩
  · cases p <;> simp only [Part.same, Part.idx] at hp ⊢ <;> simp_all
  · exact ⟨List.suffix_rfl, Nat.le_refl _, (Nat.le_refl _), id, id⟩

theorem Keeps.plan {m : Nat} {s t : State} {d} (hb : m.testBit 6 = true)
    (a : Keeps m s t) : Keeps m s { t with plan := d } := by
  refine a.trans ⟨fun p hp => ?_, ?_⟩
  · cases p <;> simp only [Part.same, Part.idx] at hp ⊢ <;> simp_all
  · exact ⟨List.suffix_rfl, Nat.le_refl _, (Nat.le_refl _), id, id⟩

theorem Keeps.link {m : Nat} {s t : State} {d} (hb : m.testBit 7 = true)
    (a : Keeps m s t) : Keeps m s { t with link := d } := by
  refine a.trans ⟨fun p hp => ?_, ?_⟩
  · cases p <;> simp only [Part.same, Part.idx] at hp ⊢ <;> simp_all
  · exact ⟨List.suffix_rfl, Nat.le_refl _, (Nat.le_refl _), id, id⟩

theorem Keeps.store {m : Nat} {s t : State} {d} (hb : m.testBit 8 = true)
    (a : Keeps m s t) : Keeps m s { t with store := d } := by
  refine a.trans ⟨fun p hp => ?_, ?_⟩
  · cases p <;> simp only [Part.same, Part.idx] at hp ⊢ <;> simp_all
  · exact ⟨List.suffix_rfl, Nat.le_refl _, (Nat.le_refl _), id, id⟩

theorem Keeps.takes {m : Nat} {s t : State} {d} (hb : m.testBit 9 = true)
    (a : Keeps m s t) : Keeps m s { t with takes := d } := by
  refine a.trans ⟨fun p hp => ?_, ?_⟩
  · cases p <;> simp only [Part.same, Part.idx] at hp ⊢ <;> simp_all
  · exact ⟨List.suffix_rfl, Nat.le_refl _, (Nat.le_refl _), id, id⟩

theorem Keeps.mover {m : Nat} {s t : State} {d} (hb : m.testBit 10 = true)
    (a : Keeps m s t) : Keeps m s { t with mover := d } := by
  refine a.trans ⟨fun p hp => ?_, ?_⟩
  · cases p <;> simp only [Part.same, Part.idx] at hp ⊢ <;> simp_all
  · exact ⟨List.suffix_rfl, Nat.le_refl _, (Nat.le_refl _), id, id⟩

theorem Keeps.mag {m : Nat} {s t : State} {d} (hb : m.testBit 11 = true)
    (a : Keeps m s t) : Keeps m s { t with mag := d } := by
  refine a.trans ⟨fun p hp => ?_, ?_⟩
  · cases p <;> simp only [Part.same, Part.idx] at hp ⊢ <;> simp_all
  · exact ⟨List.suffix_rfl, Nat.le_refl _, (Nat.le_refl _), id, id⟩

theorem Keeps.svc {m : Nat} {s t : State} {d} (hb : m.testBit 12 = true)
    (h31 : m.testBit 31 = true ∨ d.stopped = t.svc.stopped)
    (h32 : m.testBit 32 = true ∨ d.units = t.svc.units)
    (h33 : m.testBit 33 = true ∨ d.retired = t.svc.retired)
    (h34 : m.testBit 34 = true ∨ d.log = t.svc.log ∧ d.logHead = t.svc.logHead ∧ d.plog = t.svc.plog ∧ d.plogHead = t.svc.plogHead)
    (a : Keeps m s t) : Keeps m s { t with svc := d } := by
  refine a.trans ⟨fun p hp => ?_, ?_⟩
  · cases p <;> simp only [Part.same, Part.idx] at hp ⊢ <;> simp_all
  · exact ⟨List.suffix_rfl, Nat.le_refl _, (Nat.le_refl _), id, id⟩

theorem Keeps.obj {m : Nat} {s t : State} {d} (hb : m.testBit 13 = true)
    (h38 : m.testBit 38 = true ∧ (Memory.wf t.obj.heap → Memory.wf d.heap) ∨ d.heap = t.obj.heap)
    (a : Keeps m s t) : Keeps m s { t with obj := d } := by
  refine a.trans ⟨fun p hp => ?_, ?_⟩
  · cases p <;> simp only [Part.same, Part.idx] at hp ⊢ <;> simp_all
  · exact ⟨List.suffix_rfl, Nat.le_refl _, (Nat.le_refl _), id, (h38.elim And.right (fun h => h ▸ id))⟩

theorem Keeps.sec {m : Nat} {s t : State} {d} (hb : m.testBit 14 = true)
    (h25 : m.testBit 25 = true ∨ d.owk = t.sec.owk ∧ d.dik = t.sec.dik ∧ d.ownerOwk = t.sec.ownerOwk ∧ d.ownerDik = t.sec.ownerDik)
    (h26 : m.testBit 26 = true ∨ d.coKeys = t.sec.coKeys ∧ d.userKeys = t.sec.userKeys)
    (h27 : m.testBit 27 = true ∨ d.floorSecs = t.sec.floorSecs ∧ d.floorSeq = t.sec.floorSeq)
    (h28 : m.testBit 28 = true ∧ t.sec.svnFloor ≤ d.svnFloor ∨ d.svnFloor = t.sec.svnFloor)
    (h29 : m.testBit 29 = true ∨ d.zeroizeCnt = t.sec.zeroizeCnt)
    (h30 : m.testBit 30 = true ∨ d.slotA = t.sec.slotA ∧ d.slotB = t.sec.slotB ∧ d.fwActive = t.sec.fwActive ∧ d.fwPending = t.sec.fwPending)
    (a : Keeps m s t) : Keeps m s { t with sec := d } := by
  refine a.trans ⟨fun p hp => ?_, ?_⟩
  · cases p <;> simp only [Part.same, Part.idx] at hp ⊢ <;> simp_all
  · exact ⟨List.suffix_rfl, Nat.le_refl _, (h28.elim And.right (fun h => h ▸ Nat.le_refl _)), id, id⟩

theorem Keeps.motion {m : Nat} {s t : State} {d} (hb : m.testBit 15 = true)
    (a : Keeps m s t) : Keeps m s { t with motion := d } := by
  refine a.trans ⟨fun p hp => ?_, ?_⟩
  · cases p <;> simp only [Part.same, Part.idx] at hp ⊢ <;> simp_all
  · exact ⟨List.suffix_rfl, Nat.le_refl _, (Nat.le_refl _), id, id⟩

theorem Keeps.ckpt {m : Nat} {s t : State} {d} (hb : m.testBit 16 = true)
    (a : Keeps m s t) : Keeps m s { t with ckpt := d } := by
  refine a.trans ⟨fun p hp => ?_, ?_⟩
  · cases p <;> simp only [Part.same, Part.idx] at hp ⊢ <;> simp_all
  · exact ⟨List.suffix_rfl, Nat.le_refl _, (Nat.le_refl _), id, id⟩

theorem Keeps.hbm {m : Nat} {s t : State} {d} (hb : m.testBit 17 = true)
    (hg : Memory.wf t.hbm → Memory.wf d)
    (a : Keeps m s t) : Keeps m s { t with hbm := d } := by
  refine a.trans ⟨fun p hp => ?_, ?_⟩
  · cases p <;> simp only [Part.same, Part.idx] at hp ⊢ <;> simp_all
  · exact ⟨List.suffix_rfl, Nat.le_refl _, (Nat.le_refl _), hg, id⟩

theorem Keeps.out {m : Nat} {s t : State} {d} (hb : m.testBit 18 = true)
    (hg : t.out <:+ d)
    (a : Keeps m s t) : Keeps m s { t with out := d } := by
  refine a.trans ⟨fun p hp => ?_, ?_⟩
  · cases p <;> simp only [Part.same, Part.idx] at hp ⊢ <;> simp_all
  · exact ⟨hg, Nat.le_refl _, (Nat.le_refl _), id, id⟩

theorem Keeps.free {m : Nat} {s t : State} {d} (hb : m.testBit 19 = true)
    (hg : t.free ≤ d)
    (a : Keeps m s t) : Keeps m s { t with free := d } := by
  refine a.trans ⟨fun p hp => ?_, ?_⟩
  · cases p <;> simp only [Part.same, Part.idx] at hp ⊢ <;> simp_all
  · exact ⟨List.suffix_rfl, hg , (Nat.le_refl _), id, id⟩

theorem Keeps.sub {M m k : Nat} (h : M ||| m = m) (h' : k ||| M = M) : k ||| m = m := by
  rw [← h, ← Nat.or_assoc, h']

theorem Keeps.bit {M m : Nat} (h : M ||| m = m) {k : Nat} (h' : M.testBit k = true) : m.testBit k = true := by
  rw [← h, Nat.testBit_or, h', Bool.true_or]

theorem State.setDev_keeps {m : Nat} {s t : State} {f : DevState → DevState} (hb : m.testBit 2 = true)
    (h21 : m.testBit 21 = true ∨ ∀ q, (f q).mode = q.mode ∧ (f q).prevMode = q.prevMode ∧ (f q).cause = q.cause ∧ (f q).changes = q.changes)
    (h22 : m.testBit 22 = true ∨ ∀ q, (f q).rigs = q.rigs)
    (h23 : m.testBit 23 = true ∨ ∀ q, (f q).steward = q.steward)
    (a : Keeps m s t) : Keeps m s (t.setDev f) :=
  Keeps.dev hb (h21.imp id (fun h => h _)) (h22.imp id (fun h => h _)) (h23.imp id (fun h => h _)) a

theorem State.setCfg_keeps {m : Nat} {s t : State} {f : CfgState → CfgState} (hb : m.testBit 1 = true)
    (h24 : m.testBit 24 = true ∨ ∀ q, (f q).active = q.active ∧ (f q).previous = q.previous ∧ (f q).lastVersion = q.lastVersion)
    (a : Keeps m s t) : Keeps m s (t.setCfg f) :=
  Keeps.cfg hb (h24.imp id (fun h => h _)) a

theorem State.setSec_keeps {m : Nat} {s t : State} {f : SecState → SecState} (hb : m.testBit 14 = true)
    (h25 : m.testBit 25 = true ∨ ∀ q, (f q).owk = q.owk ∧ (f q).dik = q.dik ∧ (f q).ownerOwk = q.ownerOwk ∧ (f q).ownerDik = q.ownerDik)
    (h26 : m.testBit 26 = true ∨ ∀ q, (f q).coKeys = q.coKeys ∧ (f q).userKeys = q.userKeys)
    (h27 : m.testBit 27 = true ∨ ∀ q, (f q).floorSecs = q.floorSecs ∧ (f q).floorSeq = q.floorSeq)
    (h28 : (m.testBit 28 = true ∧ ∀ q, q.svnFloor ≤ (f q).svnFloor) ∨ ∀ q, (f q).svnFloor = q.svnFloor)
    (h29 : m.testBit 29 = true ∨ ∀ q, (f q).zeroizeCnt = q.zeroizeCnt)
    (h30 : m.testBit 30 = true ∨ ∀ q, (f q).slotA = q.slotA ∧ (f q).slotB = q.slotB ∧ (f q).fwActive = q.fwActive ∧ (f q).fwPending = q.fwPending)
    (a : Keeps m s t) : Keeps m s (t.setSec f) :=
  Keeps.sec hb (h25.imp id (fun h => h _)) (h26.imp id (fun h => h _)) (h27.imp id (fun h => h _)) (h28.imp (fun h => ⟨h.1, h.2 _⟩) (fun h => h _)) (h29.imp id (fun h => h _)) (h30.imp id (fun h => h _)) a

theorem State.setSvc_keeps {m : Nat} {s t : State} {f : SvcState → SvcState} (hb : m.testBit 12 = true)
    (h31 : m.testBit 31 = true ∨ ∀ q, (f q).stopped = q.stopped)
    (h32 : m.testBit 32 = true ∨ ∀ q, (f q).units = q.units)
    (h33 : m.testBit 33 = true ∨ ∀ q, (f q).retired = q.retired)
    (h34 : m.testBit 34 = true ∨ ∀ q, (f q).log = q.log ∧ (f q).logHead = q.logHead ∧ (f q).plog = q.plog ∧ (f q).plogHead = q.plogHead)
    (a : Keeps m s t) : Keeps m s (t.setSvc f) :=
  Keeps.svc hb (h31.imp id (fun h => h _)) (h32.imp id (fun h => h _)) (h33.imp id (fun h => h _)) (h34.imp id (fun h => h _)) a

theorem State.setTime_keeps {m : Nat} {s t : State} {f : TimeState → TimeState} (hb : m.testBit 5 = true)
    (h35 : m.testBit 35 = true ∨ ∀ q, (f q).tickNum = q.tickNum)
    (h36 : m.testBit 36 = true ∨ ∀ q, (f q).now = q.now ∧ (f q).epoch = q.epoch ∧ (f q).isSet = q.isSet)
    (h37 : m.testBit 37 = true ∨ ∀ q, (f q).clk = q.clk)
    (a : Keeps m s t) : Keeps m s (t.setTime f) :=
  Keeps.time hb (h35.imp id (fun h => h _)) (h36.imp id (fun h => h _)) (h37.imp id (fun h => h _)) a

theorem State.setRing_keeps {m : Nat} {s t : State} {n : Nat} {f : RingSt → RingSt} (hb : m.testBit 3 = true)
    (h39 : m.testBit 39 = true ∨ ∀ q, (f q).state = q.state ∧ (f q).db = q.db ∧ (f q).base = q.base ∧ (f q).evt = q.evt
      ∧ (f q).outstanding = q.outstanding ∧ (f q).barrier = q.barrier ∧ (f q).role = q.role ∧ (f q).aborting = q.aborting
      ∧ (f q).gen = q.gen)
    (a : Keeps m s t) : Keeps m s (t.setRing n f) :=
  Keeps.rings hb (h39.imp id (fun h k => by
    unfold Tab.upd
    rw [Tab.get_put]
    by_cases e : k = n
    · rw [if_pos e, e]
      exact h _
    · rw [if_neg e]
      exact ⟨rfl, rfl, rfl, rfl, rfl, rfl, rfl, rfl, rfl⟩)) a

end Sys2Proof.Machine
end

