-- ==== Sys2Proof/Laws/KeepsBase.lean ====
section
/-! SUPPORT. What each function of Machine/Base.lean may change. -/

namespace Sys2Proof.Machine

set_option linter.all false

theorem State.setReg_keeps (s : State) (r : RegRow) (i j : Nat) (v : Word) : Keeps 1 s (State.setReg s r i j v) := by
  unfold State.setReg
  repeat' first
    | with_reducible apply Keeps.refl
    | dsimp only
    | (with_reducible apply Keeps.cur (m := 1) (by decide))

theorem State.orReg_keeps (s : State) (r : RegRow) (i : Nat) (m : Word) : Keeps 1 s (State.orReg s r i m) := by
  unfold State.orReg
  repeat' first
    | with_reducible apply Keeps.refl
    | (with_reducible apply Keeps.after (m := 1) (State.setReg_keeps ..) (by decide))
    | dsimp only

theorem State.setEvt_keeps (s : State) (r : RegRow) (i b : Nat) : Keeps 1 s (State.setEvt s r i b) := by
  unfold State.setEvt
  repeat' first
    | with_reducible apply Keeps.refl
    | (with_reducible apply Keeps.after (m := 1) (State.orReg_keeps ..) (by decide))
    | dsimp only

theorem State.setPort_keeps (s : State) (p : Nat) (f : PortSt → PortSt) : Keeps 16 s (State.setPort s p f) := by
  unfold State.setPort
  repeat' first
    | with_reducible apply Keeps.refl
    | dsimp only
    | (with_reducible apply Keeps.ports (m := 16) (by decide))

theorem State.wakePort_keeps (s : State) (p : Nat) : Keeps 16 s (State.wakePort s p) := by
  unfold State.wakePort
  repeat' first
    | with_reducible assumption
    | with_reducible apply Keeps.refl
    | (with_reducible apply Keeps.after (m := 16) (State.setPort_keeps ..) (by decide))
    | intro _
    | (with_reducible apply Keeps.ite)
    | split
    | dsimp only

theorem State.emit_keeps (s : State) (o : Out) : Keeps 262144 s (State.emit s o) := by
  unfold State.emit
  repeat' first
    | with_reducible apply Keeps.refl
    | with_reducible exact List.suffix_cons _ _
    | dsimp only
    | (with_reducible apply Keeps.out (m := 262144) (by decide))

theorem State.signal_keeps (s : State) (p v : Nat) : Keeps 262160 s (State.signal s p v) := by
  unfold State.signal
  repeat' first
    | with_reducible assumption
    | with_reducible apply Keeps.refl
    | (with_reducible apply Keeps.after (m := 262160) (State.setPort_keeps ..) (by decide))
    | (with_reducible apply Keeps.after (m := 262160) (State.wakePort_keeps ..) (by decide))
    | (with_reducible apply Keeps.after (m := 262160) (State.emit_keeps ..) (by decide))
    | (intro x; refine (fun hx : Keeps 262160 s x => ?_) ?_; clear_value x; rotate_left; dsimp only [x]; rotate_right)
    | intro _
    | (with_reducible apply Keeps.ite)
    | lift_lets
    | split
    | dsimp only

theorem State.recSignal_keeps (s : State) (n : Nat) (irq portGroup : Bool) : Keeps 262160 s (State.recSignal s n irq portGroup) := by
  unfold State.recSignal
  repeat' first
    | with_reducible assumption
    | with_reducible apply Keeps.refl
    | (with_reducible apply Keeps.after (m := 262160) (State.signal_keeps ..) (by decide))
    | (intro x; refine (fun hx : Keeps 262160 s x => ?_) ?_; clear_value x; rotate_left; dsimp only [x]; rotate_right)
    | intro _
    | (with_reducible apply Keeps.ite)
    | lift_lets
    | split
    | dsimp only


theorem State.putRec_keeps (s : State) (n : Nat) (r : Rec) (irq portGroup : Bool) : Keeps 262169 s (State.putRec s n r irq portGroup) := by
  unfold State.putRec
  repeat' first
    | with_reducible assumption
    | with_reducible apply Keeps.refl
    | (with_reducible apply Keeps.after (m := 262169) (State.setEvt_keeps ..) (by decide))
    | (with_reducible apply Keeps.after (m := 262169) (State.recSignal_keeps ..) (by decide))
    | (with_reducible apply State.setRing_keeps (m := 262169) (by decide))
    | (with_reducible apply Keeps.after (m := 262169) (State.emit_keeps ..) (by decide))
    | (with_reducible apply Keeps.after (m := 262169) (State.wakePort_keeps ..) (by decide))
    | with_reducible exact Or.inl rfl
    | with_reducible exact Or.inl (fun _ => rfl)
    | with_reducible exact Or.inr (fun _ => rfl)
    | with_reducible exact Or.inr (fun _ => ⟨rfl, rfl⟩)
    | with_reducible exact Or.inr (fun _ => ⟨rfl, rfl, rfl⟩)
    | with_reducible exact Or.inr (fun _ => ⟨rfl, rfl, rfl, rfl⟩)
    | with_reducible exact Or.inr (fun _ => ⟨rfl, rfl, rfl, rfl, rfl, rfl, rfl, rfl, rfl⟩)
    | (refine Or.inr (fun q => ?_); (try dsimp only); split <;> first | rfl | exact ⟨rfl, rfl⟩ | exact ⟨rfl, rfl, rfl⟩ | exact ⟨rfl, rfl, rfl, rfl⟩)
    | (intro x; refine (fun hx : Keeps 262169 s x => ?_) ?_; clear_value x; rotate_left; dsimp only [x]; rotate_right)
    | intro _
    | (with_reducible apply Keeps.ite)
    | lift_lets
    | split
    | dsimp only

theorem State.countN_keeps (s : State) (r : RegRow) (i n : Nat) : Keeps 1 s (State.countN s r i n) := by
  unfold State.countN
  repeat' first
    | with_reducible apply Keeps.refl
    | (with_reducible apply Keeps.after (m := 1) (State.setReg_keeps ..) (by decide))
    | dsimp only

theorem State.count_keeps (s : State) (r : RegRow) (i : Nat) : Keeps 1 s (State.count s r i) := by
  unfold State.count
  repeat' first
    | with_reducible apply Keeps.refl
    | (with_reducible apply Keeps.after (m := 1) (State.countN_keeps ..) (by decide))
    | dsimp only

theorem State.postUnsolicited_keeps (s : State) (n : Nat) (r : Rec) (portGroup : Bool) : Keeps 262169 s (State.postUnsolicited s n r portGroup) := by
  unfold State.postUnsolicited
  repeat' first
    | with_reducible assumption
    | with_reducible apply Keeps.refl
    | (with_reducible apply Keeps.after (m := 262169) (State.putRec_keeps ..) (by decide))
    | (with_reducible apply Keeps.after (m := 262169) (State.count_keeps ..) (by decide))
    | (with_reducible apply Keeps.after (m := 262169) (State.setEvt_keeps ..) (by decide))
    | (with_reducible apply State.setRing_keeps (m := 262169) (by decide))
    | with_reducible exact Or.inl rfl
    | with_reducible exact Or.inl (fun _ => rfl)
    | with_reducible exact Or.inr (fun _ => rfl)
    | with_reducible exact Or.inr (fun _ => ⟨rfl, rfl⟩)
    | with_reducible exact Or.inr (fun _ => ⟨rfl, rfl, rfl⟩)
    | with_reducible exact Or.inr (fun _ => ⟨rfl, rfl, rfl, rfl⟩)
    | with_reducible exact Or.inr (fun _ => ⟨rfl, rfl, rfl, rfl, rfl, rfl, rfl, rfl, rfl⟩)
    | (refine Or.inr (fun q => ?_); (try dsimp only); split <;> first | rfl | exact ⟨rfl, rfl⟩ | exact ⟨rfl, rfl, rfl⟩ | exact ⟨rfl, rfl, rfl, rfl⟩)
    | (intro x; refine (fun hx : Keeps 262169 s x => ?_) ?_; clear_value x; rotate_left; dsimp only [x]; rotate_right)
    | intro _
    | (with_reducible apply Keeps.ite)
    | lift_lets
    | split
    | dsimp only

theorem State.post_keeps (s : State) (group etype source : Nat) (pl : List (Nat × Nat × Nat)) (status : Nat) : Keeps 262169 s (State.post s group etype source pl status) := by
  unfold State.post
  repeat' first
    | (with_reducible apply Keeps.foldl)
    | with_reducible assumption
    | with_reducible apply Keeps.refl
    | (with_reducible apply Keeps.after (m := 262169) (State.postUnsolicited_keeps ..) (by decide))
    | (intro x; refine (fun hx : Keeps 262169 s x => ?_) ?_; clear_value x; rotate_left; dsimp only [x]; rotate_right)
    | intro _
    | lift_lets
    | dsimp only

theorem State.countRefusal_keeps (s : State) (pl : List (Nat × Nat × Nat)) : Keeps 1 s (State.countRefusal s pl) := by
  unfold State.countRefusal
  repeat' first
    | with_reducible apply Keeps.refl
    | (with_reducible apply Keeps.after (m := 1) (State.count_keeps ..) (by decide))
    | (with_reducible apply Keeps.ite)
    | split
    | dsimp only

theorem State.postCompletion_keeps (s : State) (n src : Nat) (r : Rec) (irq named : Bool) : Keeps 262169 s (State.postCompletion s n src r irq named) := by
  unfold State.postCompletion
  repeat' first
    | with_reducible assumption
    | with_reducible apply Keeps.refl
    | (with_reducible apply Keeps.after (m := 262169) (State.putRec_keeps ..) (by decide))
    | (with_reducible apply State.setRing_keeps (m := 262169) (by decide))
    | with_reducible exact Or.inl rfl
    | with_reducible exact Or.inl (fun _ => rfl)
    | with_reducible exact Or.inr (fun _ => rfl)
    | with_reducible exact Or.inr (fun _ => ⟨rfl, rfl⟩)
    | with_reducible exact Or.inr (fun _ => ⟨rfl, rfl, rfl⟩)
    | with_reducible exact Or.inr (fun _ => ⟨rfl, rfl, rfl, rfl⟩)
    | with_reducible exact Or.inr (fun _ => ⟨rfl, rfl, rfl, rfl, rfl, rfl, rfl, rfl, rfl⟩)
    | (refine Or.inr (fun q => ?_); (try dsimp only); split <;> first | rfl | exact ⟨rfl, rfl⟩ | exact ⟨rfl, rfl, rfl⟩ | exact ⟨rfl, rfl, rfl, rfl⟩)
    | (intro x; refine (fun hx : Keeps 262169 s x => ?_) ?_; clear_value x; rotate_left; dsimp only [x]; rotate_right)
    | intro _
    | (with_reducible apply Keeps.ite)
    | lift_lets
    | split
    | dsimp only

theorem State.complete_keeps (s : State) (t : Ticket) (status : Nat) (pl : List (Nat × Nat × Nat))
    (etype : Nat) : Keeps 549756076057 s (State.complete s t status pl etype) := by
  unfold State.complete
  repeat' first
    | with_reducible assumption
    | with_reducible apply Keeps.refl
    | (with_reducible apply Keeps.after (m := 549756076057) (State.countRefusal_keeps ..) (by decide))
    | (with_reducible apply State.setRing_keeps (m := 549756076057) (by decide))
    | (with_reducible apply Keeps.after (m := 549756076057) (State.postCompletion_keeps ..) (by decide))
    | with_reducible exact Or.inl rfl
    | with_reducible exact Or.inl (fun _ => rfl)
    | with_reducible exact Or.inr (fun _ => rfl)
    | with_reducible exact Or.inr (fun _ => ⟨rfl, rfl⟩)
    | with_reducible exact Or.inr (fun _ => ⟨rfl, rfl, rfl⟩)
    | with_reducible exact Or.inr (fun _ => ⟨rfl, rfl, rfl, rfl⟩)
    | with_reducible exact Or.inr (fun _ => ⟨rfl, rfl, rfl, rfl, rfl, rfl, rfl, rfl, rfl⟩)
    | (refine Or.inr (fun q => ?_); (try dsimp only); split <;> first | rfl | exact ⟨rfl, rfl⟩ | exact ⟨rfl, rfl, rfl⟩ | exact ⟨rfl, rfl, rfl, rfl⟩)
    | (intro x; refine (fun hx : Keeps 549756076057 s x => ?_) ?_; clear_value x; rotate_left; dsimp only [x]; rotate_right)
    | intro _
    | (with_reducible apply Keeps.ite)
    | lift_lets
    | split
    | dsimp only

theorem State.completeOpt_keeps (s : State) (t : Option Ticket) (status : Nat) (pl : List (Nat × Nat × Nat)) : Keeps 549756076057 s (State.completeOpt s t status pl) := by
  unfold State.completeOpt
  repeat' first
    | with_reducible apply Keeps.refl
    | (with_reducible apply Keeps.after (m := 549756076057) (State.complete_keeps ..) (by decide))
    | split
    | dsimp only

theorem State.enterMode_keeps (s : State) (m : DevMode) (cause : Nat) : Keeps 2359325 s (State.enterMode s m cause) := by
  unfold State.enterMode
  repeat' first
    | with_reducible assumption
    | with_reducible apply Keeps.refl
    | (with_reducible apply Keeps.after (m := 2359325) (State.post_keeps ..) (by decide))
    | with_reducible exact Or.inl rfl
    | with_reducible exact Or.inr rfl
    | with_reducible exact Or.inr ⟨rfl, rfl⟩
    | with_reducible exact Or.inr ⟨rfl, rfl, rfl⟩
    | with_reducible exact Or.inr ⟨rfl, rfl, rfl, rfl⟩
    | (intro x; refine (fun hx : Keeps 2359325 s x => ?_) ?_; clear_value x; rotate_left; dsimp only [x]; rotate_right)
    | intro _
    | lift_lets
    | dsimp only
    | (with_reducible apply Keeps.dev (m := 2359325) (by decide))

theorem State.setF_keeps (s : State) (r : RegRow) (i hi lo x : Nat) : Keeps 1 s (State.setF s r i hi lo x) := by
  unfold State.setF
  repeat' first
    | with_reducible apply Keeps.refl
    | (with_reducible apply Keeps.after (m := 1) (State.setReg_keeps ..) (by decide))
    | dsimp only

theorem State.clrReg_keeps (s : State) (r : RegRow) (i : Nat) (m : Word) : Keeps 1 s (State.clrReg s r i m) := by
  unfold State.clrReg
  repeat' first
    | with_reducible apply Keeps.refl
    | (with_reducible apply Keeps.after (m := 1) (State.setReg_keeps ..) (by decide))
    | dsimp only

theorem State.set64_keeps (s : State) (lo hi : RegRow) (i v : Nat) : Keeps 1 s (State.set64 s lo hi i v) := by
  unfold State.set64
  repeat' first
    | with_reducible apply Keeps.refl
    | (with_reducible apply Keeps.after (m := 1) (State.setReg_keeps ..) (by decide))
    | dsimp only

theorem State.add64_keeps (s : State) (lo hi : RegRow) (i n : Nat) : Keeps 1 s (State.add64 s lo hi i n) := by
  unfold State.add64
  repeat' first
    | with_reducible apply Keeps.refl
    | (with_reducible apply Keeps.after (m := 1) (State.set64_keeps ..) (by decide))
    | dsimp only

theorem State.takeCkpt_keeps (s : State) : Keeps 65536 s (State.takeCkpt s) := by
  unfold State.takeCkpt
  repeat' first
    | with_reducible apply Keeps.refl
    | (with_reducible apply Keeps.ite)
    | split
    | dsimp only
    | (with_reducible apply Keeps.ckpt (m := 65536) (by decide))

theorem State.hpEvt_keeps (s : State) (p b : Nat) : Keeps 262169 s (State.hpEvt s p b) := by
  unfold State.hpEvt
  repeat' first
    | with_reducible assumption
    | with_reducible apply Keeps.refl
    | (with_reducible apply Keeps.after (m := 262169) (State.setEvt_keeps ..) (by decide))
    | (with_reducible apply Keeps.after (m := 262169) (State.post_keeps ..) (by decide))
    | (intro x; refine (fun hx : Keeps 262169 s x => ?_) ?_; clear_value x; rotate_left; dsimp only [x]; rotate_right)
    | intro _
    | (with_reducible apply Keeps.ite)
    | lift_lets
    | split
    | dsimp only

theorem State.hostWrite_keeps (s : State) (p addr : Nat) (data : List Byte) (noSnoop : Bool) : Keeps 262169 s (State.hostWrite s p addr data noSnoop) := by
  unfold State.hostWrite
  repeat' first
    | (with_reducible apply Keeps.foldl)
    | with_reducible assumption
    | with_reducible apply Keeps.refl
    | (with_reducible apply Keeps.after (m := 262169) (State.add64_keeps ..) (by decide))
    | (with_reducible apply Keeps.after (m := 262169) (State.emit_keeps ..) (by decide))
    | (with_reducible apply Keeps.after (m := 262169) (State.wakePort_keeps ..) (by decide))
    | (with_reducible apply Keeps.after (m := 262169) (State.hpEvt_keeps ..) (by decide))
    | (intro x; refine (fun hx : Keeps 262169 s x => ?_) ?_; clear_value x; rotate_left; dsimp only [x]; rotate_right)
    | intro _
    | (with_reducible apply Keeps.ite)
    | lift_lets
    | split
    | dsimp only

theorem State.hostReadCount_keeps (s : State) (p n : Nat) : Keeps 17 s (State.hostReadCount s p n) := by
  unfold State.hostReadCount
  repeat' first
    | with_reducible apply Keeps.refl
    | (with_reducible apply Keeps.after (m := 17) (State.add64_keeps ..) (by decide))
    | (with_reducible apply Keeps.after (m := 17) (State.wakePort_keeps ..) (by decide))
    | dsimp only

theorem State.setRig_keeps (s : State) (r : Nat) (f : RigSt → RigSt) : Keeps 4194308 s (State.setRig s r f) := by
  unfold State.setRig
  repeat' first
    | with_reducible apply Keeps.refl
    | with_reducible exact Or.inl rfl
    | with_reducible exact Or.inr rfl
    | with_reducible exact Or.inr ⟨rfl, rfl⟩
    | with_reducible exact Or.inr ⟨rfl, rfl, rfl⟩
    | with_reducible exact Or.inr ⟨rfl, rfl, rfl, rfl⟩
    | dsimp only
    | (with_reducible apply Keeps.dev (m := 4194308) (by decide))

theorem State.useFree_keeps (s : State) : Keeps 524288 s (State.useFree s) := by
  unfold State.useFree
  repeat' first
    | with_reducible apply Keeps.refl
    | with_reducible exact Nat.le_succ _
    | dsimp only
    | (with_reducible apply Keeps.free (m := 524288) (by decide))

end Sys2Proof.Machine
end

