-- ==== Sys2Proof/Laws/KeepsOps.lean ====
section
/-! SUPPORT. What each function of Machine/Ops.lean may change. -/

namespace Sys2Proof.Machine

set_option linter.all false


theorem State.logEntry_keeps (s : State) (code source detail : Nat) : Keeps 17179873280 s (State.logEntry s code source detail) := by
  unfold State.logEntry
  repeat' first
    | with_reducible assumption
    | with_reducible apply Keeps.refl
    | (with_reducible apply State.setSvc_keeps (m := 17179873280) (by decide))
    | with_reducible exact Or.inl rfl
    | with_reducible exact Or.inl (fun _ => rfl)
    | with_reducible exact Or.inr (fun _ => rfl)
    | with_reducible exact Or.inr (fun _ => ⟨rfl, rfl⟩)
    | with_reducible exact Or.inr (fun _ => ⟨rfl, rfl, rfl⟩)
    | with_reducible exact Or.inr (fun _ => ⟨rfl, rfl, rfl, rfl⟩)
    | with_reducible exact Or.inr (fun _ => ⟨rfl, rfl, rfl, rfl, rfl, rfl, rfl, rfl, rfl⟩)
    | (refine Or.inr (fun q => ?_); (try dsimp only); split <;> first | rfl | exact ⟨rfl, rfl⟩ | exact ⟨rfl, rfl, rfl⟩ | exact ⟨rfl, rfl, rfl, rfl⟩)
    | (intro x; refine (fun hx : Keeps 17179873280 s x => ?_) ?_; clear_value x; rotate_left; dsimp only [x]; rotate_right)
    | intro _
    | (with_reducible apply Keeps.ite)
    | lift_lets
    | split
    | dsimp only

theorem State.setUnit_keeps (s : State) (kind i code : Nat) : Keeps 4294971392 s (State.setUnit s kind i code) := by
  unfold State.setUnit
  repeat' first
    | with_reducible assumption
    | with_reducible apply Keeps.refl
    | (with_reducible apply State.setSvc_keeps (m := 4294971392) (by decide))
    | with_reducible exact Or.inl rfl
    | with_reducible exact Or.inl (fun _ => rfl)
    | with_reducible exact Or.inr (fun _ => rfl)
    | with_reducible exact Or.inr (fun _ => ⟨rfl, rfl⟩)
    | with_reducible exact Or.inr (fun _ => ⟨rfl, rfl, rfl⟩)
    | with_reducible exact Or.inr (fun _ => ⟨rfl, rfl, rfl, rfl⟩)
    | with_reducible exact Or.inr (fun _ => ⟨rfl, rfl, rfl, rfl, rfl, rfl, rfl, rfl, rfl⟩)
    | (refine Or.inr (fun q => ?_); (try dsimp only); split <;> first | rfl | exact ⟨rfl, rfl⟩ | exact ⟨rfl, rfl, rfl⟩ | exact ⟨rfl, rfl, rfl, rfl⟩)
    | intro _
    | (with_reducible apply Keeps.ite)
    | split
    | dsimp only

theorem State.changeUnit_keeps (s : State) (kind i code : Nat) : Keeps 21475102745 s (State.changeUnit s kind i code) := by
  unfold State.changeUnit
  repeat' first
    | with_reducible assumption
    | with_reducible apply Keeps.refl
    | (with_reducible apply Keeps.after (m := 21475102745) (State.logEntry_keeps ..) (by decide))
    | (with_reducible apply Keeps.after (m := 21475102745) (State.post_keeps ..) (by decide))
    | (with_reducible apply Keeps.after (m := 21475102745) (State.setUnit_keeps ..) (by decide))
    | (intro x; refine (fun hx : Keeps 21475102745 s x => ?_) ?_; clear_value x; rotate_left; dsimp only [x]; rotate_right)
    | intro _
    | (with_reducible apply Keeps.ite)
    | lift_lets
    | split
    | dsimp only

theorem State.setHl_keeps (s : State) (l : Nat) (f : LinkSt → LinkSt) : Keeps 128 s (State.setHl s l f) := by
  unfold State.setHl
  repeat' first
    | with_reducible apply Keeps.refl
    | dsimp only
    | (with_reducible apply Keeps.link (m := 128) (by decide))

theorem State.pushBound_keeps (s : State) (b : Bound) : Keeps 4 s (State.pushBound s b) := by
  unfold State.pushBound
  repeat' first
    | with_reducible apply Keeps.refl
    | with_reducible exact Or.inl rfl
    | with_reducible exact Or.inr rfl
    | with_reducible exact Or.inr ⟨rfl, rfl⟩
    | with_reducible exact Or.inr ⟨rfl, rfl, rfl⟩
    | with_reducible exact Or.inr ⟨rfl, rfl, rfl, rfl⟩
    | dsimp only
    | (with_reducible apply Keeps.dev (m := 4) (by decide))

theorem State.healthFail_keeps (s : State) (b : Nat) : Keeps 262175 s (State.healthFail s b) := by
  unfold State.healthFail
  repeat' first
    | with_reducible assumption
    | with_reducible apply Keeps.refl
    | (with_reducible apply Keeps.after (m := 262175) (State.pushBound_keeps ..) (by decide))
    | (with_reducible apply Keeps.after (m := 262175) (State.post_keeps ..) (by decide))
    | with_reducible exact Or.inl rfl
    | with_reducible exact Or.inr rfl
    | with_reducible exact Or.inr ⟨rfl, rfl⟩
    | with_reducible exact Or.inr ⟨rfl, rfl, rfl⟩
    | with_reducible exact Or.inr ⟨rfl, rfl, rfl, rfl⟩
    | (intro x; refine (fun hx : Keeps 262175 s x => ?_) ?_; clear_value x; rotate_left; dsimp only [x]; rotate_right)
    | intro _
    | (with_reducible apply Keeps.ite)
    | lift_lets
    | split
    | dsimp only
    | (with_reducible apply Keeps.cfg (m := 262175) (by decide))

theorem State.setLane_keeps (s : State) (n : Nat) (f : LaneSt → LaneSt) : Keeps 128 s (State.setLane s n f) := by
  unfold State.setLane
  repeat' first
    | with_reducible apply Keeps.refl
    | dsimp only
    | (with_reducible apply Keeps.link (m := 128) (by decide))

theorem State.unitFails_keeps (s : State) (kind i cause : Nat) : Keeps 21475102751 s (State.unitFails s kind i cause) := by
  unfold State.unitFails
  repeat' first
    | with_reducible assumption
    | with_reducible apply Keeps.refl
    | (with_reducible apply Keeps.after (m := 21475102751) (State.changeUnit_keeps ..) (by decide))
    | (with_reducible apply State.setSvc_keeps (m := 21475102751) (by decide))
    | (with_reducible apply Keeps.after (m := 21475102751) (State.healthFail_keeps ..) (by decide))
    | (with_reducible apply Keeps.after (m := 21475102751) (State.setEvt_keeps ..) (by decide))
    | with_reducible exact Or.inl rfl
    | with_reducible exact Or.inl (fun _ => rfl)
    | with_reducible exact Or.inr (fun _ => rfl)
    | with_reducible exact Or.inr (fun _ => ⟨rfl, rfl⟩)
    | with_reducible exact Or.inr (fun _ => ⟨rfl, rfl, rfl⟩)
    | with_reducible exact Or.inr (fun _ => ⟨rfl, rfl, rfl, rfl⟩)
    | with_reducible exact Or.inr (fun _ => ⟨rfl, rfl, rfl, rfl, rfl, rfl, rfl, rfl, rfl⟩)
    | (intro x; refine (fun hx : Keeps 21475102751 s x => ?_) ?_; clear_value x; rotate_left; dsimp only [x]; rotate_right)
    | intro _
    | lift_lets
    | dsimp only

end Sys2Proof.Machine
end

