-- ==== Sys2Proof/Laws/KeepsAccess.lean ====
section
/-! SUPPORT. What each function of Machine/Access.lean may change. -/

namespace Sys2Proof.Machine

set_option linter.all false

theorem State.accFlag_keeps (s : State) (p b off : Nat) : Keeps 16 s (State.accFlag s p b off) := by
  unfold State.accFlag
  repeat' first
    | with_reducible assumption
    | with_reducible apply Keeps.refl
    | (with_reducible apply Keeps.after (m := 16) (State.setPort_keeps ..) (by decide))
    | intro _
    | (with_reducible apply Keeps.ite)
    | split
    | dsimp only

theorem State.onWrite_keeps {mk : Nat} {s t0 : State} {p : Nat} {off : Nat} {effect : State → State} (hm : 17 ||| mk = mk)
    (hf : ∀ a0, Keeps mk s a0 → Keeps mk s (effect a0)) (a : Keeps mk s t0) : Keeps mk s (State.onWrite t0 p off effect) := by
  unfold State.onWrite
  repeat' first
    | with_reducible assumption
    | with_reducible apply Keeps.refl
    | (with_reducible apply hf)
    | (with_reducible apply Keeps.after (m := mk) (State.wakePort_keeps ..) (Keeps.sub hm (by decide)))
    | (with_reducible apply Keeps.after (m := mk) (State.accFlag_keeps ..) (Keeps.sub hm (by decide)))
    | (with_reducible apply Keeps.after (m := mk) (State.count_keeps ..) (Keeps.sub hm (by decide)))
    | exact Keeps.bit hm (by decide)
    | (intro x; refine (fun hx : Keeps mk s x => ?_) ?_; clear_value x; rotate_left; dsimp only [x]; rotate_right)
    | intro _
    | (with_reducible apply Keeps.ite)
    | lift_lets
    | split
    | dsimp only

theorem State.storeBits_keeps (s : State) (r : RegRow) (i j : Nat) (v : Word) : Keeps 3 s (State.storeBits s r i j v) := by
  unfold State.storeBits
  repeat' first
    | with_reducible assumption
    | with_reducible apply Keeps.refl
    | (with_reducible apply Keeps.after (m := 3) (State.setReg_keeps ..) (by decide))
    | with_reducible exact Or.inl rfl
    | with_reducible exact Or.inr rfl
    | with_reducible exact Or.inr ⟨rfl, rfl⟩
    | with_reducible exact Or.inr ⟨rfl, rfl, rfl⟩
    | with_reducible exact Or.inr ⟨rfl, rfl, rfl, rfl⟩
    | intro _
    | (with_reducible apply Keeps.ite)
    | dsimp only
    | split
    | (with_reducible apply Keeps.cfg (m := 3) (by decide))

end Sys2Proof.Machine
end

