-- ==== Sys2Proof/Laws/KeepsOperands.lean ====
section
/-! SUPPORT. What each function of Machine/Operands.lean may change. -/

namespace Sys2Proof.Machine

set_option linter.all false

theorem State.take_keeps (s : State) (d : Desc) : Keeps 549755813896 s (State.take s d) := by
  unfold State.take
  repeat' first
    | with_reducible assumption
    | with_reducible apply Keeps.refl
    | (with_reducible apply State.setRing_keeps (m := 549755813896) (by decide))
    | with_reducible exact Or.inl rfl
    | with_reducible exact Or.inl (fun _ => rfl)
    | with_reducible exact Or.inr (fun _ => rfl)
    | with_reducible exact Or.inr (fun _ => ⟨rfl, rfl⟩)
    | with_reducible exact Or.inr (fun _ => ⟨rfl, rfl, rfl⟩)
    | with_reducible exact Or.inr (fun _ => ⟨rfl, rfl, rfl, rfl⟩)
    | with_reducible exact Or.inr (fun _ => ⟨rfl, rfl, rfl, rfl, rfl, rfl, rfl, rfl, rfl⟩)
    | intro _
    | dsimp only

theorem State.runCmd_keeps {mk : Nat} {s t0 : State} {d : Desc} {opcode : Nat} {check : State → Refuse} {body : Ticket → State → State} (hm : 549756076057 ||| mk = mk)
    (hf : ∀ a0 a1, Keeps mk s a1 → Keeps mk s (body a0 a1)) (a : Keeps mk s t0) : Keeps mk s (State.runCmd t0 d opcode check body) := by
  unfold State.runCmd
  repeat' first
    | with_reducible assumption
    | with_reducible apply Keeps.refl
    | (with_reducible apply hf)
    | (with_reducible apply Keeps.after (m := mk) (State.take_keeps ..) (Keeps.sub hm (by decide)))
    | (with_reducible apply Keeps.after (m := mk) (State.complete_keeps ..) (Keeps.sub hm (by decide)))
    | (with_reducible apply Keeps.after (m := mk) (State.setEvt_keeps ..) (Keeps.sub hm (by decide)))
    | exact Keeps.bit hm (by decide)
    | (intro x; refine (fun hx : Keeps mk s x => ?_) ?_; clear_value x; rotate_left; dsimp only [x]; rotate_right)
    | intro _
    | (with_reducible apply Keeps.ite)
    | lift_lets
    | split
    | dsimp only

end Sys2Proof.Machine
end

