-- ==== Sys2Proof/Laws/KeepsLanes.lean ====
section
/-! SUPPORT. What each function of Machine/Lanes.lean may change. -/

namespace Sys2Proof.Machine

set_option linter.all false

theorem State.setLinkMode_keeps (s : State) (l : Nat) (m : LinkMode) : Keeps 262303 s (State.setLinkMode s l m) := by
  unfold State.setLinkMode
  repeat' first
    | with_reducible assumption
    | with_reducible apply Keeps.refl
    | (with_reducible apply Keeps.after (m := 262303) (State.post_keeps ..) (by decide))
    | (with_reducible apply Keeps.after (m := 262303) (State.setHl_keeps ..) (by decide))
    | (with_reducible apply Keeps.after (m := 262303) (State.healthFail_keeps ..) (by decide))
    | (intro x; refine (fun hx : Keeps 262303 s x => ?_) ?_; clear_value x; rotate_left; dsimp only [x]; rotate_right)
    | intro _
    | (with_reducible apply Keeps.ite)
    | lift_lets
    | split
    | dsimp only

theorem State.setSwap_keeps (s : State) (p : Nat) (w : Option Swap) : Keeps 128 s (State.setSwap s p w) := by
  unfold State.setSwap
  repeat' first
    | with_reducible apply Keeps.refl
    | dsimp only
    | (with_reducible apply Keeps.link (m := 128) (by decide))

theorem State.setSpareNow_keeps (s : State) (p v : Nat) : Keeps 128 s (State.setSpareNow s p v) := by
  unfold State.setSpareNow
  repeat' first
    | with_reducible apply Keeps.refl
    | dsimp only
    | (with_reducible apply Keeps.link (m := 128) (by decide))

theorem State.laneEvt_keeps (s : State) (n : Nat) (bits : List Nat) : Keeps 262169 s (State.laneEvt s n bits) := by
  unfold State.laneEvt
  repeat' first
    | with_reducible assumption
    | with_reducible apply Keeps.refl
    | (with_reducible apply Keeps.after (m := 262169) (State.orReg_keeps ..) (by decide))
    | (with_reducible apply Keeps.after (m := 262169) (State.post_keeps ..) (by decide))
    | (intro x; refine (fun hx : Keeps 262169 s x => ?_) ?_; clear_value x; rotate_left; dsimp only [x]; rotate_right)
    | intro _
    | (with_reducible apply Keeps.ite)
    | lift_lets
    | split
    | dsimp only

theorem State.startTraining_keeps (s : State) (n : Nat) : Keeps 262303 s (State.startTraining s n) := by
  unfold State.startTraining
  repeat' first
    | with_reducible assumption
    | with_reducible apply Keeps.refl
    | (with_reducible apply Keeps.after (m := 262303) (State.setLane_keeps ..) (by decide))
    | (with_reducible apply Keeps.after (m := 262303) (State.laneEvt_keeps ..) (by decide))
    | (with_reducible apply Keeps.after (m := 262303) (State.setSpareNow_keeps ..) (by decide))
    | (with_reducible apply Keeps.after (m := 262303) (State.setLinkMode_keeps ..) (by decide))
    | (with_reducible apply Keeps.after (m := 262303) (State.emit_keeps ..) (by decide))
    | (intro x; refine (fun hx : Keeps 262303 s x => ?_) ?_; clear_value x; rotate_left; dsimp only [x]; rotate_right)
    | intro _
    | (with_reducible apply Keeps.ite)
    | lift_lets
    | split
    | dsimp only

theorem State.prbsWritten_keeps (s : State) (n : Nat) (old : Word) : Keeps 262273 s (State.prbsWritten s n old) := by
  unfold State.prbsWritten
  repeat' first
    | with_reducible assumption
    | with_reducible apply Keeps.refl
    | (with_reducible apply Keeps.after (m := 262273) (State.clrReg_keeps ..) (by decide))
    | (with_reducible apply Keeps.after (m := 262273) (State.set64_keeps ..) (by decide))
    | (with_reducible apply Keeps.after (m := 262273) (State.emit_keeps ..) (by decide))
    | (with_reducible apply Keeps.after (m := 262273) (State.setLane_keeps ..) (by decide))
    | (intro x; refine (fun hx : Keeps 262273 s x => ?_) ?_; clear_value x; rotate_left; dsimp only [x]; rotate_right)
    | intro _
    | (with_reducible apply Keeps.ite)
    | lift_lets
    | split
    | dsimp only

theorem State.sendMgmt_keeps (s : State) (l n : Nat) (m : LaneMsg) : Keeps 262272 s (State.sendMgmt s l n m) := by
  unfold State.sendMgmt
  repeat' first
    | with_reducible assumption
    | with_reducible apply Keeps.refl
    | (with_reducible apply Keeps.after (m := 262272) (State.setHl_keeps ..) (by decide))
    | (with_reducible apply Keeps.after (m := 262272) (State.emit_keeps ..) (by decide))
    | intro _
    | dsimp only

theorem State.eidleEnter_keeps (s : State) (l : Nat) : Keeps 262272 s (State.eidleEnter s l) := by
  unfold State.eidleEnter
  repeat' first
    | with_reducible assumption
    | with_reducible apply Keeps.refl
    | (with_reducible apply Keeps.after (m := 262272) (State.setHl_keeps ..) (by decide))
    | (with_reducible apply Keeps.after (m := 262272) (State.sendMgmt_keeps ..) (by decide))
    | (intro x; refine (fun hx : Keeps 262272 s x => ?_) ?_; clear_value x; rotate_left; dsimp only [x]; rotate_right)
    | intro _
    | (with_reducible apply Keeps.ite)
    | lift_lets
    | split
    | dsimp only

theorem State.wakeLink_keeps (s : State) (l : Nat) : Keeps 262303 s (State.wakeLink s l) := by
  unfold State.wakeLink
  repeat' first
    | (with_reducible apply Keeps.foldl)
    | with_reducible assumption
    | with_reducible apply Keeps.refl
    | (with_reducible apply Keeps.after (m := 262303) (State.startTraining_keeps ..) (by decide))
    | (with_reducible apply Keeps.after (m := 262303) (State.emit_keeps ..) (by decide))
    | (with_reducible apply Keeps.after (m := 262303) (State.setLane_keeps ..) (by decide))
    | intro _
    | (with_reducible apply Keeps.ite)
    | split
    | dsimp only

theorem State.spareSecond_keeps (s : State) (n at_ : Nat) : Keeps 262272 s (State.spareSecond s n at_) := by
  unfold State.spareSecond
  repeat' first
    | with_reducible assumption
    | with_reducible apply Keeps.refl
    | (with_reducible apply Keeps.after (m := 262272) (State.setLane_keeps ..) (by decide))
    | (with_reducible apply Keeps.after (m := 262272) (State.emit_keeps ..) (by decide))
    | (with_reducible apply Keeps.after (m := 262272) (State.setSpareNow_keeps ..) (by decide))
    | (intro x; refine (fun hx : Keeps 262272 s x => ?_) ?_; clear_value x; rotate_left; dsimp only [x]; rotate_right)
    | intro _
    | (with_reducible apply Keeps.ite)
    | lift_lets
    | split
    | dsimp only

theorem State.lostBlock_keeps (s : State) (a : Nat) : Keeps 129 s (State.lostBlock s a) := by
  unfold State.lostBlock
  repeat' first
    | with_reducible assumption
    | with_reducible apply Keeps.refl
    | (with_reducible apply Keeps.after (m := 129) (State.setLane_keeps ..) (by decide))
    | (with_reducible apply Keeps.after (m := 129) (State.countN_keeps ..) (by decide))
    | (intro x; refine (fun hx : Keeps 129 s x => ?_) ?_; clear_value x; rotate_left; dsimp only [x]; rotate_right)
    | intro _
    | lift_lets
    | dsimp only

theorem State.restripeComma_keeps (s : State) (l n : Nat) : Keeps 262303 s (State.restripeComma s l n) := by
  unfold State.restripeComma
  repeat' first
    | (with_reducible apply Keeps.foldl)
    | with_reducible assumption
    | with_reducible apply Keeps.refl
    | (with_reducible apply Keeps.after (m := 262303) (State.lostBlock_keeps ..) (by decide))
    | (with_reducible apply Keeps.after (m := 262303) (State.setLane_keeps ..) (by decide))
    | (with_reducible apply Keeps.after (m := 262303) (State.setLinkMode_keeps ..) (by decide))
    | (with_reducible apply Keeps.after (m := 262303) (State.setHl_keeps ..) (by decide))
    | (intro x; refine (fun hx : Keeps 262303 s x => ?_) ?_; clear_value x; rotate_left; dsimp only [x]; rotate_right)
    | intro _
    | (with_reducible apply Keeps.ite)
    | lift_lets
    | split
    | dsimp only

theorem State.blockStart_keeps (s : State) (n : Nat) : Keeps 262303 s (State.blockStart s n) := by
  unfold State.blockStart
  repeat' first
    | with_reducible assumption
    | with_reducible apply Keeps.refl
    | (with_reducible apply Keeps.after (m := 262303) (State.spareSecond_keeps ..) (by decide))
    | (with_reducible apply Keeps.after (m := 262303) (State.restripeComma_keeps ..) (by decide))
    | (intro x; refine (fun hx : Keeps 262303 s x => ?_) ?_; clear_value x; rotate_left; dsimp only [x]; rotate_right)
    | intro _
    | (with_reducible apply Keeps.ite)
    | lift_lets
    | split
    | dsimp only

theorem State.swapOver_keeps (s : State) (w : Swap) : Keeps 262303 s (State.swapOver s w) := by
  unfold State.swapOver
  repeat' first
    | with_reducible assumption
    | with_reducible apply Keeps.refl
    | (with_reducible apply Keeps.after (m := 262303) (State.startTraining_keeps ..) (by decide))
    | (with_reducible apply Keeps.after (m := 262303) (State.eidleEnter_keeps ..) (by decide))
    | (intro x; refine (fun hx : Keeps 262303 s x => ?_) ?_; clear_value x; rotate_left; dsimp only [x]; rotate_right)
    | intro _
    | (with_reducible apply Keeps.ite)
    | lift_lets
    | split
    | dsimp only

theorem State.swapAbort_keeps (s : State) (p : Nat) (w : Swap) : Keeps 549756076191 s (State.swapAbort s p w) := by
  unfold State.swapAbort
  repeat' first
    | with_reducible assumption
    | with_reducible apply Keeps.refl
    | (with_reducible apply Keeps.after (m := 549756076191) (State.laneEvt_keeps ..) (by decide))
    | (with_reducible apply Keeps.after (m := 549756076191) (State.setSwap_keeps ..) (by decide))
    | (with_reducible apply Keeps.after (m := 549756076191) (State.setLane_keeps ..) (by decide))
    | (with_reducible apply Keeps.after (m := 549756076191) (State.swapOver_keeps ..) (by decide))
    | (with_reducible apply Keeps.after (m := 549756076191) (State.completeOpt_keeps ..) (by decide))
    | (intro x; refine (fun hx : Keeps 549756076191 s x => ?_) ?_; clear_value x; rotate_left; dsimp only [x]; rotate_right)
    | intro _
    | lift_lets
    | dsimp only

theorem State.swapComma_keeps (s : State) (n : Nat) (v : Comma) : Keeps 549756076191 s (State.swapComma s n v) := by
  unfold State.swapComma
  repeat' first
    | with_reducible assumption
    | with_reducible apply Keeps.refl
    | (with_reducible apply Keeps.after (m := 549756076191) (State.swapAbort_keeps ..) (by decide))
    | (with_reducible apply Keeps.after (m := 549756076191) (State.lostBlock_keeps ..) (by decide))
    | (with_reducible apply Keeps.after (m := 549756076191) (State.setLane_keeps ..) (by decide))
    | (with_reducible apply Keeps.after (m := 549756076191) (State.setSwap_keeps ..) (by decide))
    | (intro x; refine (fun hx : Keeps 549756076191 s x => ?_) ?_; clear_value x; rotate_left; dsimp only [x]; rotate_right)
    | intro _
    | (with_reducible apply Keeps.ite)
    | lift_lets
    | split
    | dsimp only

theorem State.proposeSwap_keeps (s : State) (n : Nat) (t : Option Ticket) : Keeps 262272 s (State.proposeSwap s n t) := by
  unfold State.proposeSwap
  repeat' first
    | with_reducible assumption
    | with_reducible apply Keeps.refl
    | (with_reducible apply Keeps.after (m := 262272) (State.sendMgmt_keeps ..) (by decide))
    | (with_reducible apply Keeps.after (m := 262272) (State.setSwap_keeps ..) (by decide))
    | (intro x; refine (fun hx : Keeps 262272 s x => ?_) ?_; clear_value x; rotate_left; dsimp only [x]; rotate_right)
    | intro _
    | lift_lets
    | split
    | dsimp only

theorem State.margin_keeps (s : State) (n snr : Nat) : Keeps 262297 s (State.margin s n snr) := by
  unfold State.margin
  repeat' first
    | with_reducible assumption
    | with_reducible apply Keeps.refl
    | (with_reducible apply Keeps.after (m := 262297) (State.setF_keeps ..) (by decide))
    | (with_reducible apply Keeps.after (m := 262297) (State.setLane_keeps ..) (by decide))
    | (with_reducible apply Keeps.after (m := 262297) (State.laneEvt_keeps ..) (by decide))
    | (with_reducible apply Keeps.after (m := 262297) (State.proposeSwap_keeps ..) (by decide))
    | (intro x; refine (fun hx : Keeps 262297 s x => ?_) ?_; clear_value x; rotate_left; dsimp only [x]; rotate_right)
    | intro _
    | (with_reducible apply Keeps.ite)
    | lift_lets
    | split
    | dsimp only

theorem State.alignmentComma_keeps (s : State) (n : Nat) (levels : List Nat) (snr : Nat) : Keeps 549756076191 s (State.alignmentComma s n levels snr) := by
  unfold State.alignmentComma
  repeat' first
    | with_reducible assumption
    | with_reducible apply Keeps.refl
    | (with_reducible apply Keeps.after (m := 549756076191) (State.setLane_keeps ..) (by decide))
    | (with_reducible apply Keeps.after (m := 549756076191) (State.blockStart_keeps ..) (by decide))
    | (with_reducible apply Keeps.after (m := 549756076191) (State.swapComma_keeps ..) (by decide))
    | (with_reducible apply Keeps.after (m := 549756076191) (State.margin_keeps ..) (by decide))
    | (with_reducible apply Keeps.after (m := 549756076191) (State.setLinkMode_keeps ..) (by decide))
    | (intro x; refine (fun hx : Keeps 549756076191 s x => ?_) ?_; clear_value x; rotate_left; dsimp only [x]; rotate_right)
    | intro _
    | (with_reducible apply Keeps.ite)
    | lift_lets
    | split
    | dsimp only

theorem State.retrain_keeps (s : State) (n : Nat) : Keeps 262303 s (State.retrain s n) := by
  unfold State.retrain
  repeat' first
    | with_reducible assumption
    | with_reducible apply Keeps.refl
    | (with_reducible apply Keeps.after (m := 262303) (State.setEvt_keeps ..) (by decide))
    | (with_reducible apply Keeps.after (m := 262303) (State.setLane_keeps ..) (by decide))
    | (with_reducible apply Keeps.after (m := 262303) (State.startTraining_keeps ..) (by decide))
    | (intro x; refine (fun hx : Keeps 262303 s x => ?_) ?_; clear_value x; rotate_left; dsimp only [x]; rotate_right)
    | intro _
    | (with_reducible apply Keeps.ite)
    | lift_lets
    | split
    | dsimp only

theorem State.onLane_keeps {mk : Nat} {s t0 : State} {p : Nat} {off : Nat} {n : Nat} {f : State → State} (hm : 16 ||| mk = mk)
    (hf : ∀ a0, Keeps mk s a0 → Keeps mk s (f a0)) (a : Keeps mk s t0) : Keeps mk s (State.onLane t0 p off n f) := by
  unfold State.onLane
  repeat' first
    | with_reducible assumption
    | with_reducible apply Keeps.refl
    | (with_reducible apply hf)
    | (with_reducible apply Keeps.after (m := mk) (State.accFlag_keeps ..) (Keeps.sub hm (by decide)))
    | exact Keeps.bit hm (by decide)
    | intro _
    | (with_reducible apply Keeps.ite)
    | split
    | dsimp only

theorem State.laneTrainCtrl_keeps (s : State) (p off n : Nat) (v : Word) : Keeps 262303 s (State.laneTrainCtrl s p off n v) := by
  unfold State.laneTrainCtrl
  repeat' first
    | with_reducible assumption
    | with_reducible apply Keeps.refl
    | (with_reducible apply Keeps.after (m := 262303) (State.storeBits_keeps ..) (by decide))
    | (with_reducible apply State.onLane_keeps (mk := 262303) (by decide))
    | (with_reducible apply Keeps.after (m := 262303) (State.retrain_keeps ..) (by decide))
    | (intro x; refine (fun hx : Keeps 262303 s x => ?_) ?_; clear_value x; rotate_left; dsimp only [x]; rotate_right)
    | intro _
    | (with_reducible apply Keeps.ite)
    | lift_lets
    | split
    | dsimp only

theorem State.injectionStop_keeps (s : State) (n : Nat) : Keeps 262273 s (State.injectionStop s n) := by
  unfold State.injectionStop
  repeat' first
    | with_reducible assumption
    | with_reducible apply Keeps.refl
    | (with_reducible apply Keeps.after (m := 262273) (State.emit_keeps ..) (by decide))
    | (with_reducible apply Keeps.after (m := 262273) (State.clrReg_keeps ..) (by decide))
    | (with_reducible apply Keeps.after (m := 262273) (State.setLane_keeps ..) (by decide))
    | intro _
    | (with_reducible apply Keeps.ite)
    | split
    | dsimp only

theorem State.injectionGo_keeps (s : State) (n : Nat) : Keeps 262273 s (State.injectionGo s n) := by
  unfold State.injectionGo
  repeat' first
    | with_reducible assumption
    | with_reducible apply Keeps.refl
    | (with_reducible apply Keeps.after (m := 262273) (State.emit_keeps ..) (by decide))
    | (with_reducible apply Keeps.after (m := 262273) (State.setEvt_keeps ..) (by decide))
    | (with_reducible apply Keeps.after (m := 262273) (State.setLane_keeps ..) (by decide))
    | (intro x; refine (fun hx : Keeps 262273 s x => ?_) ?_; clear_value x; rotate_left; dsimp only [x]; rotate_right)
    | intro _
    | (with_reducible apply Keeps.ite)
    | lift_lets
    | split
    | dsimp only

theorem State.laneInjCtrl_keeps (s : State) (p off n : Nat) (v : Word) : Keeps 262291 s (State.laneInjCtrl s p off n v) := by
  unfold State.laneInjCtrl
  repeat' first
    | with_reducible assumption
    | with_reducible apply Keeps.refl
    | (with_reducible apply Keeps.after (m := 262291) (State.storeBits_keeps ..) (by decide))
    | (with_reducible apply State.onLane_keeps (mk := 262291) (by decide))
    | (with_reducible apply Keeps.after (m := 262291) (State.injectionStop_keeps ..) (by decide))
    | (with_reducible apply Keeps.after (m := 262291) (State.injectionGo_keeps ..) (by decide))
    | (intro x; refine (fun hx : Keeps 262291 s x => ?_) ?_; clear_value x; rotate_left; dsimp only [x]; rotate_right)
    | intro _
    | (with_reducible apply Keeps.ite)
    | lift_lets
    | split
    | dsimp only

theorem State.restripe_keeps (s : State) (l k : Nat) : Keeps 262303 s (State.restripe s l k) := by
  unfold State.restripe
  repeat' first
    | (with_reducible apply Keeps.foldl)
    | with_reducible assumption
    | with_reducible apply Keeps.refl
    | (with_reducible apply Keeps.after (m := 262303) (State.setLinkMode_keeps ..) (by decide))
    | (with_reducible apply Keeps.after (m := 262303) (State.setHl_keeps ..) (by decide))
    | (with_reducible apply Keeps.after (m := 262303) (State.setEvt_keeps ..) (by decide))
    | (with_reducible apply Keeps.after (m := 262303) (State.sendMgmt_keeps ..) (by decide))
    | (intro x; refine (fun hx : Keeps 262303 s x => ?_) ?_; clear_value x; rotate_left; dsimp only [x]; rotate_right)
    | intro _
    | (with_reducible apply Keeps.ite)
    | lift_lets
    | split
    | dsimp only

theorem State.laneFailure_keeps (s : State) (n : Nat) (noSignal : Bool) : Keeps 262303 s (State.laneFailure s n noSignal) := by
  unfold State.laneFailure
  repeat' first
    | with_reducible assumption
    | with_reducible apply Keeps.refl
    | (with_reducible apply Keeps.after (m := 262303) (State.setLane_keeps ..) (by decide))
    | (with_reducible apply Keeps.after (m := 262303) (State.laneEvt_keeps ..) (by decide))
    | (with_reducible apply Keeps.after (m := 262303) (State.setSpareNow_keeps ..) (by decide))
    | (with_reducible apply Keeps.after (m := 262303) (State.setSwap_keeps ..) (by decide))
    | (with_reducible apply Keeps.after (m := 262303) (State.countN_keeps ..) (by decide))
    | (with_reducible apply Keeps.after (m := 262303) (State.restripe_keeps ..) (by decide))
    | (with_reducible apply Keeps.after (m := 262303) (State.emit_keeps ..) (by decide))
    | (with_reducible apply Keeps.after (m := 262303) (State.sendMgmt_keeps ..) (by decide))
    | intro _
    | (with_reducible apply Keeps.ite)
    | dsimp only
    | split

theorem State.linkStart_keeps (s : State) (l : Nat) : Keeps 262303 s (State.linkStart s l) := by
  unfold State.linkStart
  repeat' first
    | with_reducible assumption
    | with_reducible apply Keeps.refl
    | (with_reducible apply Keeps.after (m := 262303) (State.setLinkMode_keeps ..) (by decide))
    | (with_reducible apply Keeps.after (m := 262303) (State.setHl_keeps ..) (by decide))
    | intro _
    | dsimp only

theorem State.lockGained_keeps (s : State) (n : Nat) (commas : List (List Nat)) : Keeps 262297 s (State.lockGained s n commas) := by
  unfold State.lockGained
  repeat' first
    | with_reducible assumption
    | with_reducible apply Keeps.refl
    | (with_reducible apply Keeps.after (m := 262297) (State.laneEvt_keeps ..) (by decide))
    | (with_reducible apply Keeps.after (m := 262297) (State.setLane_keeps ..) (by decide))
    | (intro x; refine (fun hx : Keeps 262297 s x => ?_) ?_; clear_value x; rotate_left; dsimp only [x]; rotate_right)
    | intro _
    | (with_reducible apply Keeps.ite)
    | lift_lets
    | split
    | dsimp only

theorem State.lockLost_keeps (s : State) (n : Nat) : Keeps 262297 s (State.lockLost s n) := by
  unfold State.lockLost
  repeat' first
    | with_reducible assumption
    | with_reducible apply Keeps.refl
    | (with_reducible apply Keeps.after (m := 262297) (State.setLane_keeps ..) (by decide))
    | (with_reducible apply Keeps.after (m := 262297) (State.setSwap_keeps ..) (by decide))
    | (with_reducible apply Keeps.after (m := 262297) (State.laneEvt_keeps ..) (by decide))
    | (intro x; refine (fun hx : Keeps 262297 s x => ?_) ?_; clear_value x; rotate_left; dsimp only [x]; rotate_right)
    | intro _
    | (with_reducible apply Keeps.ite)
    | lift_lets
    | split
    | dsimp only

theorem State.onMgmt_keeps {mk : Nat} {s t0 : State} {n : Nat} {m : LaneMsg} {f : Nat → State → State} (hm : 128 ||| mk = mk)
    (hf : ∀ a0 a1, Keeps mk s a1 → Keeps mk s (f a0 a1)) (a : Keeps mk s t0) : Keeps mk s (State.onMgmt t0 n m f) := by
  unfold State.onMgmt
  repeat' first
    | with_reducible assumption
    | with_reducible apply Keeps.refl
    | (with_reducible apply hf)
    | (with_reducible apply Keeps.after (m := mk) (State.setHl_keeps ..) (Keeps.sub hm (by decide)))
    | exact Keeps.bit hm (by decide)
    | (intro x; refine (fun hx : Keeps mk s x => ?_) ?_; clear_value x; rotate_left; dsimp only [x]; rotate_right)
    | intro _
    | (with_reducible apply Keeps.ite)
    | lift_lets
    | split
    | dsimp only

theorem State.prbsLock_keeps (s : State) (n : Nat) (bits : List Bool) : Keeps 129 s (State.prbsLock s n bits) := by
  unfold State.prbsLock
  repeat' first
    | with_reducible assumption
    | with_reducible apply Keeps.refl
    | (with_reducible apply Keeps.after (m := 129) (State.setLane_keeps ..) (by decide))
    | (with_reducible apply Keeps.after (m := 129) (State.setEvt_keeps ..) (by decide))
    | (intro x; refine (fun hx : Keeps 129 s x => ?_) ?_; clear_value x; rotate_left; dsimp only [x]; rotate_right)
    | intro _
    | (with_reducible apply Keeps.ite)
    | lift_lets
    | split
    | dsimp only

theorem State.relockTimeout_keeps (s : State) (n : Nat) : Keeps 262303 s (State.relockTimeout s n) := by
  unfold State.relockTimeout
  repeat' first
    | with_reducible apply Keeps.refl
    | (with_reducible apply Keeps.after (m := 262303) (State.startTraining_keeps ..) (by decide))
    | (with_reducible apply Keeps.ite)
    | split
    | dsimp only

theorem State.swapDone_keeps (s : State) (p : Nat) : Keeps 549756076191 s (State.swapDone s p) := by
  unfold State.swapDone
  repeat' first
    | with_reducible assumption
    | with_reducible apply Keeps.refl
    | (with_reducible apply Keeps.after (m := 549756076191) (State.setSwap_keeps ..) (by decide))
    | (with_reducible apply Keeps.after (m := 549756076191) (State.laneEvt_keeps ..) (by decide))
    | (with_reducible apply Keeps.after (m := 549756076191) (State.setReg_keeps ..) (by decide))
    | (with_reducible apply Keeps.after (m := 549756076191) (State.setSpareNow_keeps ..) (by decide))
    | (with_reducible apply Keeps.after (m := 549756076191) (State.setLane_keeps ..) (by decide))
    | (with_reducible apply Keeps.after (m := 549756076191) (State.emit_keeps ..) (by decide))
    | (with_reducible apply Keeps.after (m := 549756076191) (State.setHl_keeps ..) (by decide))
    | (with_reducible apply Keeps.after (m := 549756076191) (State.startTraining_keeps ..) (by decide))
    | (with_reducible apply Keeps.after (m := 549756076191) (State.swapOver_keeps ..) (by decide))
    | (with_reducible apply Keeps.after (m := 549756076191) (State.completeOpt_keeps ..) (by decide))
    | (intro x; refine (fun hx : Keeps 549756076191 s x => ?_) ?_; clear_value x; rotate_left; dsimp only [x]; rotate_right)
    | intro _
    | (with_reducible apply Keeps.ite)
    | lift_lets
    | split
    | dsimp only

theorem State.trainDone_keeps (s : State) (n : Nat) : Keeps 262303 s (State.trainDone s n) := by
  unfold State.trainDone
  repeat' first
    | with_reducible assumption
    | with_reducible apply Keeps.refl
    | (with_reducible apply Keeps.after (m := 262303) (State.clrReg_keeps ..) (by decide))
    | (with_reducible apply Keeps.after (m := 262303) (State.setLane_keeps ..) (by decide))
    | (with_reducible apply Keeps.after (m := 262303) (State.laneEvt_keeps ..) (by decide))
    | (with_reducible apply Keeps.after (m := 262303) (State.emit_keeps ..) (by decide))
    | (with_reducible apply Keeps.after (m := 262303) (State.linkStart_keeps ..) (by decide))
    | (intro x; refine (fun hx : Keeps 262303 s x => ?_) ?_; clear_value x; rotate_left; dsimp only [x]; rotate_right)
    | intro _
    | (with_reducible apply Keeps.ite)
    | lift_lets
    | split
    | dsimp only

theorem State.trainFail_keeps (s : State) (n : Nat) : Keeps 262297 s (State.trainFail s n) := by
  unfold State.trainFail
  repeat' first
    | with_reducible assumption
    | with_reducible apply Keeps.refl
    | (with_reducible apply Keeps.after (m := 262297) (State.clrReg_keeps ..) (by decide))
    | (with_reducible apply Keeps.after (m := 262297) (State.setLane_keeps ..) (by decide))
    | (with_reducible apply Keeps.after (m := 262297) (State.setSpareNow_keeps ..) (by decide))
    | (with_reducible apply Keeps.after (m := 262297) (State.emit_keeps ..) (by decide))
    | (with_reducible apply Keeps.after (m := 262297) (State.laneEvt_keeps ..) (by decide))
    | (intro x; refine (fun hx : Keeps 262297 s x => ?_) ?_; clear_value x; rotate_left; dsimp only [x]; rotate_right)
    | intro _
    | (with_reducible apply Keeps.ite)
    | lift_lets
    | split
    | dsimp only

theorem State.trainRetry_keeps (s : State) (n : Nat) : Keeps 262303 s (State.trainRetry s n) := by
  unfold State.trainRetry
  repeat' first
    | with_reducible apply Keeps.refl
    | (with_reducible apply Keeps.after (m := 262303) (State.startTraining_keeps ..) (by decide))
    | (with_reducible apply Keeps.ite)
    | split
    | dsimp only

theorem State.trainTimeout_keeps (s : State) (n : Nat) : Keeps 262297 s (State.trainTimeout s n) := by
  unfold State.trainTimeout
  repeat' first
    | with_reducible assumption
    | with_reducible apply Keeps.refl
    | (with_reducible apply Keeps.after (m := 262297) (State.trainFail_keeps ..) (by decide))
    | (intro x; refine (fun hx : Keeps 262297 s x => ?_) ?_; clear_value x; rotate_left; dsimp only [x]; rotate_right)
    | intro _
    | (with_reducible apply Keeps.ite)
    | lift_lets
    | split
    | dsimp only

theorem State.trainingFrame_keeps (s : State) (n : Nat) (w : BitVec 48) (a0 : Adapt) : Keeps 262303 s (State.trainingFrame s n w a0) := by
  unfold State.trainingFrame
  repeat' first
    | with_reducible assumption
    | with_reducible apply Keeps.refl
    | (with_reducible apply Keeps.after (m := 262303) (State.setLane_keeps ..) (by decide))
    | (with_reducible apply Keeps.after (m := 262303) (State.startTraining_keeps ..) (by decide))
    | (with_reducible apply Keeps.after (m := 262303) (State.trainFail_keeps ..) (by decide))
    | (with_reducible apply Keeps.after (m := 262303) (State.trainDone_keeps ..) (by decide))
    | (with_reducible apply Keeps.after (m := 262303) (State.emit_keeps ..) (by decide))
    | (intro x; refine (fun hx : Keeps 262303 s x => ?_) ?_; clear_value x; rotate_left; dsimp only [x]; rotate_right)
    | intro _
    | (with_reducible apply Keeps.ite)
    | lift_lets
    | split
    | dsimp only

theorem State.wakeBurst_keeps (s : State) (n : Nat) : Keeps 262303 s (State.wakeBurst s n) := by
  unfold State.wakeBurst
  repeat' first
    | with_reducible assumption
    | with_reducible apply Keeps.refl
    | (with_reducible apply Keeps.after (m := 262303) (State.startTraining_keeps ..) (by decide))
    | (with_reducible apply Keeps.after (m := 262303) (State.emit_keeps ..) (by decide))
    | (with_reducible apply Keeps.after (m := 262303) (State.setLane_keeps ..) (by decide))
    | (with_reducible apply Keeps.after (m := 262303) (State.linkStart_keeps ..) (by decide))
    | (with_reducible apply Keeps.after (m := 262303) (State.setHl_keeps ..) (by decide))
    | (intro x; refine (fun hx : Keeps 262303 s x => ?_) ?_; clear_value x; rotate_left; dsimp only [x]; rotate_right)
    | intro _
    | (with_reducible apply Keeps.ite)
    | lift_lets
    | split
    | dsimp only

theorem execAlignmentComma_keeps (n : Nat) (levels : List Nat) (snr : Nat) (s : State) {nxt : State} (e : execAlignmentComma n levels snr s = .next nxt) : Keeps 549756076191 s nxt := by
  unfold execAlignmentComma at e
  first | refine Keeps.go ?_ e | refine Keeps.goRead ?_ e | cases e
  try dsimp only
  repeat' first
    | with_reducible assumption
    | with_reducible apply Keeps.refl
    | (with_reducible apply Keeps.after (m := 549756076191) (State.alignmentComma_keeps ..) (by decide))
    | intro _
    | dsimp only

theorem execEidleAck_keeps (n : Nat) (m : LaneMsg) (s : State) {nxt : State} (e : execEidleAck n m s = .next nxt) : Keeps 262272 s nxt := by
  unfold execEidleAck at e
  first | refine Keeps.go ?_ e | refine Keeps.goRead ?_ e | cases e
  try dsimp only
  repeat' first
    | (with_reducible apply Keeps.foldl)
    | with_reducible assumption
    | with_reducible apply Keeps.refl
    | (with_reducible apply State.onMgmt_keeps (mk := 262272) (by decide))
    | (with_reducible apply Keeps.after (m := 262272) (State.setLane_keeps ..) (by decide))
    | (with_reducible apply Keeps.after (m := 262272) (State.emit_keeps ..) (by decide))
    | (with_reducible apply Keeps.after (m := 262272) (State.setHl_keeps ..) (by decide))
    | intro _
    | (with_reducible apply Keeps.ite)
    | split
    | dsimp only

theorem execLaneFailure_keeps (n : Nat) (noSignal : Bool) (s : State) {nxt : State} (e : execLaneFailure n noSignal s = .next nxt) : Keeps 262303 s nxt := by
  unfold execLaneFailure at e
  first | refine Keeps.go ?_ e | refine Keeps.goRead ?_ e | cases e
  try dsimp only
  repeat' first
    | with_reducible assumption
    | with_reducible apply Keeps.refl
    | (with_reducible apply Keeps.after (m := 262303) (State.laneFailure_keeps ..) (by decide))
    | intro _
    | dsimp only

theorem execLaneSwap_keeps (d : Desc) (s : State) {nxt : State} (e : execLaneSwap d s = .next nxt) : Keeps 549756076185 s nxt := by
  unfold execLaneSwap at e
  first | refine Keeps.go ?_ e | refine Keeps.goRead ?_ e | cases e
  try dsimp only
  repeat' first
    | with_reducible assumption
    | with_reducible apply Keeps.refl
    | (with_reducible apply State.runCmd_keeps (mk := 549756076185) (by decide))
    | (with_reducible apply Keeps.after (m := 549756076185) (State.proposeSwap_keeps ..) (by decide))
    | intro _
    | dsimp only

theorem execLockGained_keeps (n : Nat) (commas : List (List Nat)) (s : State) {nxt : State} (e : execLockGained n commas s = .next nxt) : Keeps 262297 s nxt := by
  unfold execLockGained at e
  first | refine Keeps.go ?_ e | refine Keeps.goRead ?_ e | cases e
  try dsimp only
  repeat' first
    | with_reducible assumption
    | with_reducible apply Keeps.refl
    | (with_reducible apply Keeps.after (m := 262297) (State.lockGained_keeps ..) (by decide))
    | intro _
    | dsimp only

theorem execLockLost_keeps (n : Nat) (s : State) {nxt : State} (e : execLockLost n s = .next nxt) : Keeps 262297 s nxt := by
  unfold execLockLost at e
  first | refine Keeps.go ?_ e | refine Keeps.goRead ?_ e | cases e
  try dsimp only
  repeat' first
    | with_reducible assumption
    | with_reducible apply Keeps.refl
    | (with_reducible apply Keeps.after (m := 262297) (State.lockLost_keeps ..) (by decide))
    | intro _
    | dsimp only

theorem execLoopbackAck_keeps (n : Nat) (m : LaneMsg) (s : State) {nxt : State} (e : execLoopbackAck n m s = .next nxt) : Keeps 128 s nxt := by
  unfold execLoopbackAck at e
  first | refine Keeps.go ?_ e | refine Keeps.goRead ?_ e | cases e
  try dsimp only
  repeat' first
    | with_reducible assumption
    | with_reducible apply Keeps.refl
    | (with_reducible apply State.onMgmt_keeps (mk := 128) (by decide))
    | (with_reducible apply Keeps.after (m := 128) (State.setLane_keeps ..) (by decide))
    | intro _
    | (with_reducible apply Keeps.ite)
    | split
    | dsimp only

theorem execPrbsCheckerLock_keeps (n : Nat) (bits : List Bool) (s : State) {nxt : State} (e : execPrbsCheckerLock n bits s = .next nxt) : Keeps 129 s nxt := by
  unfold execPrbsCheckerLock at e
  first | refine Keeps.go ?_ e | refine Keeps.goRead ?_ e | cases e
  try dsimp only
  repeat' first
    | with_reducible assumption
    | with_reducible apply Keeps.refl
    | (with_reducible apply Keeps.after (m := 129) (State.prbsLock_keeps ..) (by decide))
    | intro _
    | dsimp only

theorem execRelockTimeout_keeps (n : Nat) (s : State) {nxt : State} (e : execRelockTimeout n s = .next nxt) : Keeps 262303 s nxt := by
  unfold execRelockTimeout at e
  first | refine Keeps.go ?_ e | refine Keeps.goRead ?_ e | cases e
  try dsimp only
  repeat' first
    | with_reducible assumption
    | with_reducible apply Keeps.refl
    | (with_reducible apply Keeps.after (m := 262303) (State.relockTimeout_keeps ..) (by decide))
    | intro _
    | dsimp only

theorem execRestripeAck_keeps (n : Nat) (m : LaneMsg) (s : State) {nxt : State} (e : execRestripeAck n m s = .next nxt) : Keeps 128 s nxt := by
  unfold execRestripeAck at e
  first | refine Keeps.go ?_ e | refine Keeps.goRead ?_ e | cases e
  try dsimp only
  repeat' first
    | with_reducible assumption
    | with_reducible apply Keeps.refl
    | (with_reducible apply State.onMgmt_keeps (mk := 128) (by decide))
    | (with_reducible apply Keeps.after (m := 128) (State.setHl_keeps ..) (by decide))
    | (intro x; refine (fun hx : Keeps 128 s x => ?_) ?_; clear_value x; rotate_left; dsimp only [x]; rotate_right)
    | intro _
    | (with_reducible apply Keeps.ite)
    | lift_lets
    | split
    | dsimp only

theorem execSwapAgree_keeps (n : Nat) (m : LaneMsg) (s : State) {nxt : State} (e : execSwapAgree n m s = .next nxt) : Keeps 262272 s nxt := by
  unfold execSwapAgree at e
  first | refine Keeps.go ?_ e | refine Keeps.goRead ?_ e | cases e
  try dsimp only
  repeat' first
    | with_reducible assumption
    | with_reducible apply Keeps.refl
    | (with_reducible apply State.onMgmt_keeps (mk := 262272) (by decide))
    | (with_reducible apply Keeps.after (m := 262272) (State.emit_keeps ..) (by decide))
    | (with_reducible apply Keeps.after (m := 262272) (State.setSwap_keeps ..) (by decide))
    | (intro x; refine (fun hx : Keeps 262272 s x => ?_) ?_; clear_value x; rotate_left; dsimp only [x]; rotate_right)
    | intro _
    | (with_reducible apply Keeps.ite)
    | lift_lets
    | split
    | dsimp only

theorem execSwapDone_keeps (p : Nat) (s : State) {nxt : State} (e : execSwapDone p s = .next nxt) : Keeps 549756076191 s nxt := by
  unfold execSwapDone at e
  first | refine Keeps.go ?_ e | refine Keeps.goRead ?_ e | cases e
  try dsimp only
  repeat' first
    | with_reducible assumption
    | with_reducible apply Keeps.refl
    | (with_reducible apply Keeps.after (m := 549756076191) (State.swapDone_keeps ..) (by decide))
    | intro _
    | dsimp only

theorem execSwapPropose_keeps (n : Nat) (m : LaneMsg) (s : State) {nxt : State} (e : execSwapPropose n m s = .next nxt) : Keeps 262272 s nxt := by
  unfold execSwapPropose at e
  first | refine Keeps.go ?_ e | refine Keeps.goRead ?_ e | cases e
  try dsimp only
  repeat' first
    | with_reducible assumption
    | with_reducible apply Keeps.refl
    | (with_reducible apply State.onMgmt_keeps (mk := 262272) (by decide))
    | (with_reducible apply Keeps.after (m := 262272) (State.sendMgmt_keeps ..) (by decide))
    | (with_reducible apply Keeps.after (m := 262272) (State.emit_keeps ..) (by decide))
    | (with_reducible apply Keeps.after (m := 262272) (State.setSwap_keeps ..) (by decide))
    | (intro x; refine (fun hx : Keeps 262272 s x => ?_) ?_; clear_value x; rotate_left; dsimp only [x]; rotate_right)
    | intro _
    | (with_reducible apply Keeps.ite)
    | lift_lets
    | split
    | dsimp only

theorem execSwapRefuse_keeps (n : Nat) (m : LaneMsg) (s : State) {nxt : State} (e : execSwapRefuse n m s = .next nxt) : Keeps 549756076191 s nxt := by
  unfold execSwapRefuse at e
  first | refine Keeps.go ?_ e | refine Keeps.goRead ?_ e | cases e
  try dsimp only
  repeat' first
    | with_reducible assumption
    | with_reducible apply Keeps.refl
    | (with_reducible apply State.onMgmt_keeps (mk := 549756076191) (by decide))
    | (with_reducible apply Keeps.after (m := 549756076191) (State.swapOver_keeps ..) (by decide))
    | (with_reducible apply Keeps.after (m := 549756076191) (State.completeOpt_keeps ..) (by decide))
    | (with_reducible apply Keeps.after (m := 549756076191) (State.laneEvt_keeps ..) (by decide))
    | (with_reducible apply Keeps.after (m := 549756076191) (State.setSwap_keeps ..) (by decide))
    | (intro x; refine (fun hx : Keeps 549756076191 s x => ?_) ?_; clear_value x; rotate_left; dsimp only [x]; rotate_right)
    | intro _
    | (with_reducible apply Keeps.ite)
    | lift_lets
    | split
    | dsimp only

theorem execSwapRequest_keeps (n : Nat) (m : LaneMsg) (s : State) {nxt : State} (e : execSwapRequest n m s = .next nxt) : Keeps 262272 s nxt := by
  unfold execSwapRequest at e
  first | refine Keeps.go ?_ e | refine Keeps.goRead ?_ e | cases e
  try dsimp only
  repeat' first
    | with_reducible assumption
    | with_reducible apply Keeps.refl
    | (with_reducible apply State.onMgmt_keeps (mk := 262272) (by decide))
    | (with_reducible apply Keeps.after (m := 262272) (State.emit_keeps ..) (by decide))
    | (with_reducible apply Keeps.after (m := 262272) (State.setSwap_keeps ..) (by decide))
    | (intro x; refine (fun hx : Keeps 262272 s x => ?_) ?_; clear_value x; rotate_left; dsimp only [x]; rotate_right)
    | intro _
    | (with_reducible apply Keeps.ite)
    | lift_lets
    | split
    | dsimp only

theorem execTrainRetry_keeps (n : Nat) (s : State) {nxt : State} (e : execTrainRetry n s = .next nxt) : Keeps 262303 s nxt := by
  unfold execTrainRetry at e
  first | refine Keeps.go ?_ e | refine Keeps.goRead ?_ e | cases e
  try dsimp only
  repeat' first
    | with_reducible assumption
    | with_reducible apply Keeps.refl
    | (with_reducible apply Keeps.after (m := 262303) (State.trainRetry_keeps ..) (by decide))
    | intro _
    | dsimp only

theorem execTrainTimeout_keeps (n : Nat) (s : State) {nxt : State} (e : execTrainTimeout n s = .next nxt) : Keeps 262297 s nxt := by
  unfold execTrainTimeout at e
  first | refine Keeps.go ?_ e | refine Keeps.goRead ?_ e | cases e
  try dsimp only
  repeat' first
    | with_reducible assumption
    | with_reducible apply Keeps.refl
    | (with_reducible apply Keeps.after (m := 262297) (State.trainTimeout_keeps ..) (by decide))
    | intro _
    | dsimp only

theorem execTrainingFrame_keeps (n : Nat) (w : BitVec 48) (a : Adapt) (s : State) {nxt : State} (e : execTrainingFrame n w a s = .next nxt) : Keeps 262303 s nxt := by
  unfold execTrainingFrame at e
  first | refine Keeps.go ?_ e | refine Keeps.goRead ?_ e | cases e
  try dsimp only
  repeat' first
    | with_reducible assumption
    | with_reducible apply Keeps.refl
    | (with_reducible apply Keeps.after (m := 262303) (State.trainingFrame_keeps ..) (by decide))
    | intro _
    | dsimp only

theorem execWakeBurst_keeps (n : Nat) (s : State) {nxt : State} (e : execWakeBurst n s = .next nxt) : Keeps 262303 s nxt := by
  unfold execWakeBurst at e
  first | refine Keeps.go ?_ e | refine Keeps.goRead ?_ e | cases e
  try dsimp only
  repeat' first
    | with_reducible assumption
    | with_reducible apply Keeps.refl
    | (with_reducible apply Keeps.after (m := 262303) (State.wakeBurst_keeps ..) (by decide))
    | intro _
    | dsimp only

end Sys2Proof.Machine
end

