-- ==== Sys2Proof/Laws/KeepsTime.lean ====
section
/-! SUPPORT. What each function of Machine/Time.lean may change. -/

namespace Sys2Proof.Machine

set_option linter.all false


theorem State.ppsGate_keeps (s : State) : Keeps 262176 s (State.ppsGate s) := by
  unfold State.ppsGate
  repeat' first
    | with_reducible assumption
    | with_reducible apply Keeps.refl
    | (with_reducible apply Keeps.after (m := 262176) (State.emit_keeps ..) (by decide))
    | (with_reducible apply State.setTime_keeps (m := 262176) (by decide))
    | with_reducible exact Or.inl rfl
    | with_reducible exact Or.inl (fun _ => rfl)
    | with_reducible exact Or.inr (fun _ => rfl)
    | with_reducible exact Or.inr (fun _ => ⟨rfl, rfl⟩)
    | with_reducible exact Or.inr (fun _ => ⟨rfl, rfl, rfl⟩)
    | with_reducible exact Or.inr (fun _ => ⟨rfl, rfl, rfl, rfl⟩)
    | with_reducible exact Or.inr (fun _ => ⟨rfl, rfl, rfl, rfl, rfl, rfl, rfl, rfl, rfl⟩)
    | (refine Or.inr (fun q => ?_); (try dsimp only); split <;> first | rfl | exact ⟨rfl, rfl⟩ | exact ⟨rfl, rfl, rfl⟩ | exact ⟨rfl, rfl, rfl, rfl⟩)
    | intro _
    | (with_reducible apply Keeps.ite)
    | split
    | dsimp only

theorem State.setServo_keeps (s : State) (v : Servo) : Keeps 262201 s (State.setServo s v) := by
  unfold State.setServo
  repeat' first
    | with_reducible assumption
    | with_reducible apply Keeps.refl
    | (with_reducible apply State.setTime_keeps (m := 262201) (by decide))
    | (with_reducible apply Keeps.after (m := 262201) (State.setEvt_keeps ..) (by decide))
    | (with_reducible apply Keeps.after (m := 262201) (State.ppsGate_keeps ..) (by decide))
    | (with_reducible apply Keeps.after (m := 262201) (State.post_keeps ..) (by decide))
    | with_reducible exact Or.inl rfl
    | with_reducible exact Or.inl (fun _ => rfl)
    | with_reducible exact Or.inr (fun _ => rfl)
    | with_reducible exact Or.inr (fun _ => ⟨rfl, rfl⟩)
    | with_reducible exact Or.inr (fun _ => ⟨rfl, rfl, rfl⟩)
    | with_reducible exact Or.inr (fun _ => ⟨rfl, rfl, rfl, rfl⟩)
    | with_reducible exact Or.inr (fun _ => ⟨rfl, rfl, rfl, rfl, rfl, rfl, rfl, rfl, rfl⟩)
    | (refine Or.inr (fun q => ?_); (try dsimp only); split <;> first | rfl | exact ⟨rfl, rfl⟩ | exact ⟨rfl, rfl, rfl⟩ | exact ⟨rfl, rfl, rfl, rfl⟩)
    | (intro x; refine (fun hx : Keeps 262201 s x => ?_) ?_; clear_value x; rotate_left; dsimp only [x]; rotate_right)
    | intro _
    | (with_reducible apply Keeps.ite)
    | lift_lets
    | split
    | dsimp only

theorem State.setTp_keeps (s : State) (p : Nat) (f : TpSt → TpSt) : Keeps 32 s (State.setTp s p f) := by
  unfold State.setTp
  repeat' first
    | with_reducible assumption
    | with_reducible apply Keeps.refl
    | (with_reducible apply State.setTime_keeps (m := 32) (by decide))
    | with_reducible exact Or.inl rfl
    | with_reducible exact Or.inl (fun _ => rfl)
    | with_reducible exact Or.inr (fun _ => rfl)
    | with_reducible exact Or.inr (fun _ => ⟨rfl, rfl⟩)
    | with_reducible exact Or.inr (fun _ => ⟨rfl, rfl, rfl⟩)
    | with_reducible exact Or.inr (fun _ => ⟨rfl, rfl, rfl, rfl⟩)
    | with_reducible exact Or.inr (fun _ => ⟨rfl, rfl, rfl, rfl, rfl, rfl, rfl, rfl, rfl⟩)
    | intro _
    | dsimp only

theorem State.autoStep_keeps (s : State) : Keeps 32 s (State.autoStep s) := by
  unfold State.autoStep
  repeat' first
    | with_reducible assumption
    | with_reducible apply Keeps.refl
    | (with_reducible apply State.setTime_keeps (m := 32) (by decide))
    | with_reducible exact Or.inl rfl
    | with_reducible exact Or.inl (fun _ => rfl)
    | with_reducible exact Or.inr (fun _ => rfl)
    | with_reducible exact Or.inr (fun _ => ⟨rfl, rfl⟩)
    | with_reducible exact Or.inr (fun _ => ⟨rfl, rfl, rfl⟩)
    | with_reducible exact Or.inr (fun _ => ⟨rfl, rfl, rfl, rfl⟩)
    | with_reducible exact Or.inr (fun _ => ⟨rfl, rfl, rfl, rfl, rfl, rfl, rfl, rfl, rfl⟩)
    | (refine Or.inr (fun q => ?_); (try dsimp only); split <;> first | rfl | exact ⟨rfl, rfl⟩ | exact ⟨rfl, rfl, rfl⟩ | exact ⟨rfl, rfl, rfl, rfl⟩)
    | intro _
    | (with_reducible apply Keeps.ite)
    | split
    | dsimp only

theorem State.chooseFrom_keeps (s : State) (old gm : Option Nat) : Keeps 33 s (State.chooseFrom s old gm) := by
  unfold State.chooseFrom
  repeat' first
    | with_reducible assumption
    | with_reducible apply Keeps.refl
    | (with_reducible apply State.setTime_keeps (m := 33) (by decide))
    | (with_reducible apply Keeps.after (m := 33) (State.setEvt_keeps ..) (by decide))
    | with_reducible exact Or.inl rfl
    | with_reducible exact Or.inl (fun _ => rfl)
    | with_reducible exact Or.inr (fun _ => rfl)
    | with_reducible exact Or.inr (fun _ => ⟨rfl, rfl⟩)
    | with_reducible exact Or.inr (fun _ => ⟨rfl, rfl, rfl⟩)
    | with_reducible exact Or.inr (fun _ => ⟨rfl, rfl, rfl, rfl⟩)
    | with_reducible exact Or.inr (fun _ => ⟨rfl, rfl, rfl, rfl, rfl, rfl, rfl, rfl, rfl⟩)
    | (refine Or.inr (fun q => ?_); (try dsimp only); split <;> first | rfl | exact ⟨rfl, rfl⟩ | exact ⟨rfl, rfl, rfl⟩ | exact ⟨rfl, rfl, rfl, rfl⟩)
    | (intro x; refine (fun hx : Keeps 33 s x => ?_) ?_; clear_value x; rotate_left; dsimp only [x]; rotate_right)
    | intro _
    | (with_reducible apply Keeps.ite)
    | lift_lets
    | split
    | dsimp only

theorem State.chooseTp_keeps (s : State) : Keeps 33 s (State.chooseTp s) := by
  unfold State.chooseTp
  repeat' first
    | with_reducible apply Keeps.refl
    | (with_reducible apply Keeps.after (m := 33) (State.chooseFrom_keeps ..) (by decide))
    | dsimp only

theorem State.setTimer_keeps (s : State) (r : Nat) (f : RtmrSt → RtmrSt) : Keeps 32 s (State.setTimer s r f) := by
  unfold State.setTimer
  repeat' first
    | with_reducible assumption
    | with_reducible apply Keeps.refl
    | (with_reducible apply State.setTime_keeps (m := 32) (by decide))
    | with_reducible exact Or.inl rfl
    | with_reducible exact Or.inl (fun _ => rfl)
    | with_reducible exact Or.inr (fun _ => rfl)
    | with_reducible exact Or.inr (fun _ => ⟨rfl, rfl⟩)
    | with_reducible exact Or.inr (fun _ => ⟨rfl, rfl, rfl⟩)
    | with_reducible exact Or.inr (fun _ => ⟨rfl, rfl, rfl, rfl⟩)
    | with_reducible exact Or.inr (fun _ => ⟨rfl, rfl, rfl, rfl, rfl, rfl, rfl, rfl, rfl⟩)
    | intro _
    | dsimp only

theorem State.timerStart_keeps (s : State) (r : Nat) : Keeps 32 s (State.timerStart s r) := by
  unfold State.timerStart
  repeat' first
    | with_reducible assumption
    | with_reducible apply Keeps.refl
    | (with_reducible apply Keeps.after (m := 32) (State.setTimer_keeps ..) (by decide))
    | (intro x; refine (fun hx : Keeps 32 s x => ?_) ?_; clear_value x; rotate_left; dsimp only [x]; rotate_right)
    | intro _
    | lift_lets
    | split
    | dsimp only

theorem State.pulse_keeps (s : State) (source pin width : Nat) : Keeps 262176 s (State.pulse s source pin width) := by
  unfold State.pulse
  repeat' first
    | with_reducible assumption
    | with_reducible apply Keeps.refl
    | (with_reducible apply State.setTime_keeps (m := 262176) (by decide))
    | (with_reducible apply Keeps.after (m := 262176) (State.emit_keeps ..) (by decide))
    | with_reducible exact Or.inl rfl
    | with_reducible exact Or.inl (fun _ => rfl)
    | with_reducible exact Or.inr (fun _ => rfl)
    | with_reducible exact Or.inr (fun _ => ⟨rfl, rfl⟩)
    | with_reducible exact Or.inr (fun _ => ⟨rfl, rfl, rfl⟩)
    | with_reducible exact Or.inr (fun _ => ⟨rfl, rfl, rfl, rfl⟩)
    | with_reducible exact Or.inr (fun _ => ⟨rfl, rfl, rfl, rfl, rfl, rfl, rfl, rfl, rfl⟩)
    | (refine Or.inr (fun q => ?_); (try dsimp only); split <;> first | rfl | exact ⟨rfl, rfl⟩ | exact ⟨rfl, rfl, rfl⟩ | exact ⟨rfl, rfl, rfl, rfl⟩)
    | (intro x; refine (fun hx : Keeps 262176 s x => ?_) ?_; clear_value x; rotate_left; dsimp only [x]; rotate_right)
    | intro _
    | (with_reducible apply Keeps.ite)
    | lift_lets
    | split
    | dsimp only

theorem State.paceCredit_keeps (s : State) (u : Nat) : Keeps 1025 s (State.paceCredit s u) := by
  unfold State.paceCredit
  repeat' first
    | (with_reducible apply Keeps.foldl)
    | with_reducible assumption
    | with_reducible apply Keeps.refl
    | (with_reducible apply Keeps.after (m := 1025) (State.setEvt_keeps ..) (by decide))
    | (intro x; refine (fun hx : Keeps 1025 s x => ?_) ?_; clear_value x; rotate_left; dsimp only [x]; rotate_right)
    | intro _
    | (with_reducible apply Keeps.ite)
    | lift_lets
    | split
    | dsimp only
    | (with_reducible apply Keeps.mover (m := 1025) (by decide))

theorem State.paceChannels_keeps (s : State) (u : Nat) : Keeps 1024 s (State.paceChannels s u) := by
  unfold State.paceChannels
  repeat' first
    | (with_reducible apply Keeps.foldl)
    | with_reducible assumption
    | with_reducible apply Keeps.refl
    | (intro x; refine (fun hx : Keeps 1024 s x => ?_) ?_; clear_value x; rotate_left; dsimp only [x]; rotate_right)
    | intro _
    | (with_reducible apply Keeps.ite)
    | lift_lets
    | split
    | dsimp only
    | (with_reducible apply Keeps.mover (m := 1024) (by decide))

theorem State.tcmpActs_keeps (s : State) (u : Nat) (stepped : Bool) : Keeps 263225 s (State.tcmpActs s u stepped) := by
  unfold State.tcmpActs
  repeat' first
    | with_reducible assumption
    | with_reducible apply Keeps.refl
    | (with_reducible apply Keeps.after (m := 263225) (State.setEvt_keeps ..) (by decide))
    | (with_reducible apply Keeps.after (m := 263225) (State.pulse_keeps ..) (by decide))
    | (with_reducible apply Keeps.after (m := 263225) (State.post_keeps ..) (by decide))
    | (with_reducible apply Keeps.after (m := 263225) (State.paceCredit_keeps ..) (by decide))
    | (with_reducible apply Keeps.after (m := 263225) (State.paceChannels_keeps ..) (by decide))
    | (intro x; refine (fun hx : Keeps 263225 s x => ?_) ?_; clear_value x; rotate_left; dsimp only [x]; rotate_right)
    | intro _
    | (with_reducible apply Keeps.ite)
    | lift_lets
    | split
    | dsimp only

theorem State.tcmpFire_keeps (s : State) (u : Nat) (stepped : Bool) : Keeps 263225 s (State.tcmpFire s u stepped) := by
  unfold State.tcmpFire
  repeat' first
    | with_reducible assumption
    | with_reducible apply Keeps.refl
    | (with_reducible apply Keeps.after (m := 263225) (State.tcmpActs_keeps ..) (by decide))
    | (with_reducible apply Keeps.after (m := 263225) (State.set64_keeps ..) (by decide))
    | (with_reducible apply Keeps.after (m := 263225) (State.setF_keeps ..) (by decide))
    | (with_reducible apply State.setTime_keeps (m := 263225) (by decide))
    | with_reducible exact Or.inl rfl
    | with_reducible exact Or.inl (fun _ => rfl)
    | with_reducible exact Or.inr (fun _ => rfl)
    | with_reducible exact Or.inr (fun _ => ⟨rfl, rfl⟩)
    | with_reducible exact Or.inr (fun _ => ⟨rfl, rfl, rfl⟩)
    | with_reducible exact Or.inr (fun _ => ⟨rfl, rfl, rfl, rfl⟩)
    | with_reducible exact Or.inr (fun _ => ⟨rfl, rfl, rfl, rfl, rfl, rfl, rfl, rfl, rfl⟩)
    | (refine Or.inr (fun q => ?_); (try dsimp only); split <;> first | rfl | exact ⟨rfl, rfl⟩ | exact ⟨rfl, rfl, rfl⟩ | exact ⟨rfl, rfl, rfl, rfl⟩)
    | (intro x; refine (fun hx : Keeps 263225 s x => ?_) ?_; clear_value x; rotate_left; dsimp only [x]; rotate_right)
    | intro _
    | (with_reducible apply Keeps.ite)
    | lift_lets
    | split
    | dsimp only

theorem State.tcmpRearm_keeps (s : State) (u : Nat) : Keeps 263225 s (State.tcmpRearm s u) := by
  unfold State.tcmpRearm
  repeat' first
    | with_reducible assumption
    | with_reducible apply Keeps.refl
    | (with_reducible apply Keeps.after (m := 263225) (State.tcmpFire_keeps ..) (by decide))
    | (with_reducible apply State.setTime_keeps (m := 263225) (by decide))
    | with_reducible exact Or.inl rfl
    | with_reducible exact Or.inl (fun _ => rfl)
    | with_reducible exact Or.inr (fun _ => rfl)
    | with_reducible exact Or.inr (fun _ => ⟨rfl, rfl⟩)
    | with_reducible exact Or.inr (fun _ => ⟨rfl, rfl, rfl⟩)
    | with_reducible exact Or.inr (fun _ => ⟨rfl, rfl, rfl, rfl⟩)
    | with_reducible exact Or.inr (fun _ => ⟨rfl, rfl, rfl, rfl, rfl, rfl, rfl, rfl, rfl⟩)
    | intro _
    | dsimp only

theorem State.clk10mLost_keeps (s : State) : Keeps 33 s (State.clk10mLost s) := by
  unfold State.clk10mLost
  repeat' first
    | with_reducible assumption
    | with_reducible apply Keeps.refl
    | (with_reducible apply Keeps.after (m := 33) (State.setEvt_keeps ..) (by decide))
    | (with_reducible apply State.setTime_keeps (m := 33) (by decide))
    | with_reducible exact Or.inl rfl
    | with_reducible exact Or.inl (fun _ => rfl)
    | with_reducible exact Or.inr (fun _ => rfl)
    | with_reducible exact Or.inr (fun _ => ⟨rfl, rfl⟩)
    | with_reducible exact Or.inr (fun _ => ⟨rfl, rfl, rfl⟩)
    | with_reducible exact Or.inr (fun _ => ⟨rfl, rfl, rfl, rfl⟩)
    | with_reducible exact Or.inr (fun _ => ⟨rfl, rfl, rfl, rfl, rfl, rfl, rfl, rfl, rfl⟩)
    | (refine Or.inr (fun q => ?_); (try dsimp only); split <;> first | rfl | exact ⟨rfl, rfl⟩ | exact ⟨rfl, rfl, rfl⟩ | exact ⟨rfl, rfl, rfl, rfl⟩)
    | intro _
    | (with_reducible apply Keeps.ite)
    | split
    | dsimp only

theorem State.steer_keeps (s : State) : Keeps 524320 s (State.steer s) := by
  unfold State.steer
  repeat' first
    | with_reducible assumption
    | with_reducible apply Keeps.refl
    | (with_reducible apply Keeps.after (m := 524320) (State.useFree_keeps ..) (by decide))
    | (with_reducible apply State.setTime_keeps (m := 524320) (by decide))
    | with_reducible exact Or.inl rfl
    | with_reducible exact Or.inl (fun _ => rfl)
    | with_reducible exact Or.inr (fun _ => rfl)
    | with_reducible exact Or.inr (fun _ => ⟨rfl, rfl⟩)
    | with_reducible exact Or.inr (fun _ => ⟨rfl, rfl, rfl⟩)
    | with_reducible exact Or.inr (fun _ => ⟨rfl, rfl, rfl, rfl⟩)
    | with_reducible exact Or.inr (fun _ => ⟨rfl, rfl, rfl, rfl, rfl, rfl, rfl, rfl, rfl⟩)
    | (refine Or.inr (fun q => ?_); (try dsimp only); split <;> first | rfl | exact ⟨rfl, rfl⟩ | exact ⟨rfl, rfl, rfl⟩ | exact ⟨rfl, rfl, rfl, rfl⟩)
    | (intro x; refine (fun hx : Keeps 524320 s x => ?_) ?_; clear_value x; rotate_left; dsimp only [x]; rotate_right)
    | intro _
    | (with_reducible apply Keeps.ite)
    | lift_lets
    | split
    | dsimp only

theorem State.track_keeps (s : State) (off : Int) : Keeps 786489 s (State.track s off) := by
  unfold State.track
  repeat' first
    | with_reducible assumption
    | with_reducible apply Keeps.refl
    | (with_reducible apply Keeps.after (m := 786489) (State.steer_keeps ..) (by decide))
    | (with_reducible apply Keeps.after (m := 786489) (State.setServo_keeps ..) (by decide))
    | (with_reducible apply State.setTime_keeps (m := 786489) (by decide))
    | with_reducible exact Or.inl rfl
    | with_reducible exact Or.inl (fun _ => rfl)
    | with_reducible exact Or.inr (fun _ => rfl)
    | with_reducible exact Or.inr (fun _ => ⟨rfl, rfl⟩)
    | with_reducible exact Or.inr (fun _ => ⟨rfl, rfl, rfl⟩)
    | with_reducible exact Or.inr (fun _ => ⟨rfl, rfl, rfl, rfl⟩)
    | with_reducible exact Or.inr (fun _ => ⟨rfl, rfl, rfl, rfl, rfl, rfl, rfl, rfl, rfl⟩)
    | (refine Or.inr (fun q => ?_); (try dsimp only); split <;> first | rfl | exact ⟨rfl, rfl⟩ | exact ⟨rfl, rfl, rfl⟩ | exact ⟨rfl, rfl, rfl, rfl⟩)
    | (intro x; refine (fun hx : Keeps 786489 s x => ?_) ?_; clear_value x; rotate_left; dsimp only [x]; rotate_right)
    | intro _
    | (with_reducible apply Keeps.ite)
    | lift_lets
    | split
    | dsimp only

theorem State.refuseStep_keeps (s : State) (off : Int) (src : Nat) : Keeps 786489 s (State.refuseStep s off src) := by
  unfold State.refuseStep
  repeat' first
    | with_reducible apply Keeps.refl
    | (with_reducible apply Keeps.after (m := 786489) (State.steer_keeps ..) (by decide))
    | (with_reducible apply Keeps.after (m := 786489) (State.setServo_keeps ..) (by decide))
    | (with_reducible apply Keeps.after (m := 786489) (State.post_keeps ..) (by decide))
    | (with_reducible apply Keeps.after (m := 786489) (State.setEvt_keeps ..) (by decide))
    | dsimp only

theorem State.voidStep_keeps (s : State) : Keeps 262201 s (State.voidStep s) := by
  unfold State.voidStep
  repeat' first
    | with_reducible assumption
    | with_reducible apply Keeps.refl
    | (with_reducible apply Keeps.after (m := 262201) (State.setServo_keeps ..) (by decide))
    | (with_reducible apply State.setTime_keeps (m := 262201) (by decide))
    | with_reducible exact Or.inl rfl
    | with_reducible exact Or.inl (fun _ => rfl)
    | with_reducible exact Or.inr (fun _ => rfl)
    | with_reducible exact Or.inr (fun _ => ⟨rfl, rfl⟩)
    | with_reducible exact Or.inr (fun _ => ⟨rfl, rfl, rfl⟩)
    | with_reducible exact Or.inr (fun _ => ⟨rfl, rfl, rfl, rfl⟩)
    | with_reducible exact Or.inr (fun _ => ⟨rfl, rfl, rfl, rfl, rfl, rfl, rfl, rfl, rfl⟩)
    | (refine Or.inr (fun q => ?_); (try dsimp only); split <;> first | rfl | exact ⟨rfl, rfl⟩ | exact ⟨rfl, rfl, rfl⟩ | exact ⟨rfl, rfl, rfl, rfl⟩)
    | intro _
    | (with_reducible apply Keeps.ite)
    | split
    | dsimp only

theorem State.measure_keeps (s : State) (off : Int) (src : Nat) : Keeps 786489 s (State.measure s off src) := by
  unfold State.measure
  repeat' first
    | with_reducible assumption
    | with_reducible apply Keeps.refl
    | (with_reducible apply Keeps.after (m := 786489) (State.track_keeps ..) (by decide))
    | (with_reducible apply Keeps.after (m := 786489) (State.steer_keeps ..) (by decide))
    | (with_reducible apply Keeps.after (m := 786489) (State.refuseStep_keeps ..) (by decide))
    | (with_reducible apply Keeps.after (m := 786489) (State.autoStep_keeps ..) (by decide))
    | (with_reducible apply State.setTime_keeps (m := 786489) (by decide))
    | (with_reducible apply Keeps.after (m := 786489) (State.voidStep_keeps ..) (by decide))
    | with_reducible exact Or.inl rfl
    | with_reducible exact Or.inl (fun _ => rfl)
    | with_reducible exact Or.inr (fun _ => rfl)
    | with_reducible exact Or.inr (fun _ => ⟨rfl, rfl⟩)
    | with_reducible exact Or.inr (fun _ => ⟨rfl, rfl, rfl⟩)
    | with_reducible exact Or.inr (fun _ => ⟨rfl, rfl, rfl, rfl⟩)
    | with_reducible exact Or.inr (fun _ => ⟨rfl, rfl, rfl, rfl, rfl, rfl, rfl, rfl, rfl⟩)
    | (refine Or.inr (fun q => ?_); (try dsimp only); split <;> first | rfl | exact ⟨rfl, rfl⟩ | exact ⟨rfl, rfl, rfl⟩ | exact ⟨rfl, rfl, rfl, rfl⟩)
    | (intro x; refine (fun hx : Keeps 786489 s x => ?_) ?_; clear_value x; rotate_left; dsimp only [x]; rotate_right)
    | intro _
    | (with_reducible apply Keeps.ite)
    | lift_lets
    | split
    | dsimp only

theorem State.exchange_keeps (s : State) (p : Nat) : Keeps 786489 s (State.exchange s p) := by
  unfold State.exchange
  repeat' first
    | with_reducible assumption
    | with_reducible apply Keeps.refl
    | (with_reducible apply Keeps.after (m := 786489) (State.setTp_keeps ..) (by decide))
    | (with_reducible apply Keeps.after (m := 786489) (State.measure_keeps ..) (by decide))
    | (intro x; refine (fun hx : Keeps 786489 s x => ?_) ?_; clear_value x; rotate_left; dsimp only [x]; rotate_right)
    | intro _
    | (with_reducible apply Keeps.ite)
    | lift_lets
    | split
    | dsimp only

theorem State.ltcFrame_keeps (s : State) (ns : Nat) (l : TcLabel) (ok : Bool) : Keeps 32 s (State.ltcFrame s ns l ok) := by
  unfold State.ltcFrame
  repeat' first
    | with_reducible assumption
    | with_reducible apply Keeps.refl
    | (with_reducible apply State.setTime_keeps (m := 32) (by decide))
    | with_reducible exact Or.inl rfl
    | with_reducible exact Or.inl (fun _ => rfl)
    | with_reducible exact Or.inr (fun _ => rfl)
    | with_reducible exact Or.inr (fun _ => ⟨rfl, rfl⟩)
    | with_reducible exact Or.inr (fun _ => ⟨rfl, rfl, rfl⟩)
    | with_reducible exact Or.inr (fun _ => ⟨rfl, rfl, rfl, rfl⟩)
    | with_reducible exact Or.inr (fun _ => ⟨rfl, rfl, rfl, rfl, rfl, rfl, rfl, rfl, rfl⟩)
    | (refine Or.inr (fun q => ?_); (try dsimp only); split <;> first | rfl | exact ⟨rfl, rfl⟩ | exact ⟨rfl, rfl, rfl⟩ | exact ⟨rfl, rfl, rfl, rfl⟩)
    | (intro x; refine (fun hx : Keeps 32 s x => ?_) ?_; clear_value x; rotate_left; dsimp only [x]; rotate_right)
    | intro _
    | (with_reducible apply Keeps.ite)
    | lift_lets
    | split
    | dsimp only

theorem State.ltcLost_keeps (s : State) : Keeps 33 s (State.ltcLost s) := by
  unfold State.ltcLost
  repeat' first
    | with_reducible assumption
    | with_reducible apply Keeps.refl
    | (with_reducible apply Keeps.after (m := 33) (State.setEvt_keeps ..) (by decide))
    | (with_reducible apply State.setTime_keeps (m := 33) (by decide))
    | with_reducible exact Or.inl rfl
    | with_reducible exact Or.inl (fun _ => rfl)
    | with_reducible exact Or.inr (fun _ => rfl)
    | with_reducible exact Or.inr (fun _ => ⟨rfl, rfl⟩)
    | with_reducible exact Or.inr (fun _ => ⟨rfl, rfl, rfl⟩)
    | with_reducible exact Or.inr (fun _ => ⟨rfl, rfl, rfl, rfl⟩)
    | with_reducible exact Or.inr (fun _ => ⟨rfl, rfl, rfl, rfl, rfl, rfl, rfl, rfl, rfl⟩)
    | (refine Or.inr (fun q => ?_); (try dsimp only); split <;> first | rfl | exact ⟨rfl, rfl⟩ | exact ⟨rfl, rfl, rfl⟩ | exact ⟨rfl, rfl, rfl, rfl⟩)
    | (intro x; refine (fun hx : Keeps 33 s x => ?_) ?_; clear_value x; rotate_left; dsimp only [x]; rotate_right)
    | intro _
    | (with_reducible apply Keeps.ite)
    | lift_lets
    | split
    | dsimp only

theorem State.ltcOut_keeps (s : State) : Keeps 262176 s (State.ltcOut s) := by
  unfold State.ltcOut
  repeat' first
    | with_reducible assumption
    | with_reducible apply Keeps.refl
    | (with_reducible apply Keeps.after (m := 262176) (State.emit_keeps ..) (by decide))
    | (with_reducible apply State.setTime_keeps (m := 262176) (by decide))
    | with_reducible exact Or.inl rfl
    | with_reducible exact Or.inl (fun _ => rfl)
    | with_reducible exact Or.inr (fun _ => rfl)
    | with_reducible exact Or.inr (fun _ => ⟨rfl, rfl⟩)
    | with_reducible exact Or.inr (fun _ => ⟨rfl, rfl, rfl⟩)
    | with_reducible exact Or.inr (fun _ => ⟨rfl, rfl, rfl, rfl⟩)
    | with_reducible exact Or.inr (fun _ => ⟨rfl, rfl, rfl, rfl, rfl, rfl, rfl, rfl, rfl⟩)
    | (refine Or.inr (fun q => ?_); (try dsimp only); split <;> first | rfl | exact ⟨rfl, rfl⟩ | exact ⟨rfl, rfl, rfl⟩ | exact ⟨rfl, rfl, rfl, rfl⟩)
    | (intro x; refine (fun hx : Keeps 262176 s x => ?_) ?_; clear_value x; rotate_left; dsimp only [x]; rotate_right)
    | intro _
    | (with_reducible apply Keeps.ite)
    | lift_lets
    | split
    | dsimp only

theorem State.macFrame_keeps (s : State) (p kind addr : Nat) (fields : List Nat) : Keeps 262145 s (State.macFrame s p kind addr fields) := by
  unfold State.macFrame
  repeat' first
    | with_reducible assumption
    | with_reducible apply Keeps.refl
    | (with_reducible apply Keeps.after (m := 262145) (State.emit_keeps ..) (by decide))
    | (with_reducible apply Keeps.after (m := 262145) (State.count_keeps ..) (by decide))
    | (intro x; refine (fun hx : Keeps 262145 s x => ?_) ?_; clear_value x; rotate_left; dsimp only [x]; rotate_right)
    | intro _
    | (with_reducible apply Keeps.ite)
    | lift_lets
    | split
    | dsimp only

theorem State.ppsEdge_keeps (s : State) (ns : Nat) : Keeps 786489 s (State.ppsEdge s ns) := by
  unfold State.ppsEdge
  repeat' first
    | with_reducible assumption
    | with_reducible apply Keeps.refl
    | (with_reducible apply State.setTime_keeps (m := 786489) (by decide))
    | (with_reducible apply Keeps.after (m := 786489) (State.measure_keeps ..) (by decide))
    | with_reducible exact Or.inl rfl
    | with_reducible exact Or.inl (fun _ => rfl)
    | with_reducible exact Or.inr (fun _ => rfl)
    | with_reducible exact Or.inr (fun _ => ⟨rfl, rfl⟩)
    | with_reducible exact Or.inr (fun _ => ⟨rfl, rfl, rfl⟩)
    | with_reducible exact Or.inr (fun _ => ⟨rfl, rfl, rfl, rfl⟩)
    | with_reducible exact Or.inr (fun _ => ⟨rfl, rfl, rfl, rfl, rfl, rfl, rfl, rfl, rfl⟩)
    | (refine Or.inr (fun q => ?_); (try dsimp only); split <;> first | rfl | exact ⟨rfl, rfl⟩ | exact ⟨rfl, rfl, rfl⟩ | exact ⟨rfl, rfl, rfl, rfl⟩)
    | (intro x; refine (fun hx : Keeps 786489 s x => ?_) ?_; clear_value x; rotate_left; dsimp only [x]; rotate_right)
    | intro _
    | (with_reducible apply Keeps.ite)
    | lift_lets
    | split
    | dsimp only

theorem State.sourceLost_keeps (s : State) : Keeps 262201 s (State.sourceLost s) := by
  unfold State.sourceLost
  repeat' first
    | with_reducible apply Keeps.refl
    | (with_reducible apply Keeps.after (m := 262201) (State.setServo_keeps ..) (by decide))
    | (with_reducible apply Keeps.ite)
    | split
    | dsimp only

theorem State.ppsLost_keeps (s : State) : Keeps 262201 s (State.ppsLost s) := by
  unfold State.ppsLost
  repeat' first
    | with_reducible assumption
    | with_reducible apply Keeps.refl
    | (with_reducible apply State.setTime_keeps (m := 262201) (by decide))
    | (with_reducible apply Keeps.after (m := 262201) (State.sourceLost_keeps ..) (by decide))
    | (with_reducible apply Keeps.after (m := 262201) (State.setEvt_keeps ..) (by decide))
    | with_reducible exact Or.inl rfl
    | with_reducible exact Or.inl (fun _ => rfl)
    | with_reducible exact Or.inr (fun _ => rfl)
    | with_reducible exact Or.inr (fun _ => ⟨rfl, rfl⟩)
    | with_reducible exact Or.inr (fun _ => ⟨rfl, rfl, rfl⟩)
    | with_reducible exact Or.inr (fun _ => ⟨rfl, rfl, rfl, rfl⟩)
    | with_reducible exact Or.inr (fun _ => ⟨rfl, rfl, rfl, rfl, rfl, rfl, rfl, rfl, rfl⟩)
    | (refine Or.inr (fun q => ?_); (try dsimp only); split <;> first | rfl | exact ⟨rfl, rfl⟩ | exact ⟨rfl, rfl, rfl⟩ | exact ⟨rfl, rfl, rfl, rfl⟩)
    | (intro x; refine (fun hx : Keeps 262201 s x => ?_) ?_; clear_value x; rotate_left; dsimp only [x]; rotate_right)
    | intro _
    | (with_reducible apply Keeps.ite)
    | lift_lets
    | split
    | dsimp only

theorem State.ppsOutPulse_keeps (s : State) : Keeps 262176 s (State.ppsOutPulse s) := by
  unfold State.ppsOutPulse
  repeat' first
    | with_reducible assumption
    | with_reducible apply Keeps.refl
    | (with_reducible apply State.setTime_keeps (m := 262176) (by decide))
    | (with_reducible apply Keeps.after (m := 262176) (State.emit_keeps ..) (by decide))
    | with_reducible exact Or.inl rfl
    | with_reducible exact Or.inl (fun _ => rfl)
    | with_reducible exact Or.inr (fun _ => rfl)
    | with_reducible exact Or.inr (fun _ => ⟨rfl, rfl⟩)
    | with_reducible exact Or.inr (fun _ => ⟨rfl, rfl, rfl⟩)
    | with_reducible exact Or.inr (fun _ => ⟨rfl, rfl, rfl, rfl⟩)
    | with_reducible exact Or.inr (fun _ => ⟨rfl, rfl, rfl, rfl, rfl, rfl, rfl, rfl, rfl⟩)
    | (refine Or.inr (fun q => ?_); (try dsimp only); split <;> first | rfl | exact ⟨rfl, rfl⟩ | exact ⟨rfl, rfl, rfl⟩ | exact ⟨rfl, rfl, rfl, rfl⟩)
    | (intro x; refine (fun hx : Keeps 262176 s x => ?_) ?_; clear_value x; rotate_left; dsimp only [x]; rotate_right)
    | intro _
    | (with_reducible apply Keeps.ite)
    | lift_lets
    | split
    | dsimp only

theorem State.ptpAccept_keeps (s : State) (p : Nat) (m : PtpMsg) : Keeps 786489 s (State.ptpAccept s p m) := by
  unfold State.ptpAccept
  repeat' first
    | with_reducible assumption
    | with_reducible apply Keeps.refl
    | (with_reducible apply Keeps.after (m := 786489) (State.chooseFrom_keeps ..) (by decide))
    | (with_reducible apply Keeps.after (m := 786489) (State.setTp_keeps ..) (by decide))
    | (with_reducible apply State.setTime_keeps (m := 786489) (by decide))
    | (with_reducible apply Keeps.after (m := 786489) (State.emit_keeps ..) (by decide))
    | (with_reducible apply Keeps.after (m := 786489) (State.exchange_keeps ..) (by decide))
    | with_reducible exact Or.inl rfl
    | with_reducible exact Or.inl (fun _ => rfl)
    | with_reducible exact Or.inr (fun _ => rfl)
    | with_reducible exact Or.inr (fun _ => ⟨rfl, rfl⟩)
    | with_reducible exact Or.inr (fun _ => ⟨rfl, rfl, rfl⟩)
    | with_reducible exact Or.inr (fun _ => ⟨rfl, rfl, rfl, rfl⟩)
    | with_reducible exact Or.inr (fun _ => ⟨rfl, rfl, rfl, rfl, rfl, rfl, rfl, rfl, rfl⟩)
    | (refine Or.inr (fun q => ?_); (try dsimp only); split <;> first | rfl | exact ⟨rfl, rfl⟩ | exact ⟨rfl, rfl, rfl⟩ | exact ⟨rfl, rfl, rfl, rfl⟩)
    | (intro x; refine (fun hx : Keeps 786489 s x => ?_) ?_; clear_value x; rotate_left; dsimp only [x]; rotate_right)
    | intro _
    | (with_reducible apply Keeps.ite)
    | lift_lets
    | split
    | dsimp only

theorem State.ptpLost_keeps (s : State) (p : Nat) : Keeps 262201 s (State.ptpLost s p) := by
  unfold State.ptpLost
  repeat' first
    | with_reducible assumption
    | with_reducible apply Keeps.refl
    | (with_reducible apply Keeps.after (m := 262201) (State.setTp_keeps ..) (by decide))
    | (with_reducible apply Keeps.after (m := 262201) (State.chooseFrom_keeps ..) (by decide))
    | (with_reducible apply Keeps.after (m := 262201) (State.count_keeps ..) (by decide))
    | (with_reducible apply Keeps.after (m := 262201) (State.sourceLost_keeps ..) (by decide))
    | (intro x; refine (fun hx : Keeps 262201 s x => ?_) ?_; clear_value x; rotate_left; dsimp only [x]; rotate_right)
    | intro _
    | (with_reducible apply Keeps.ite)
    | lift_lets
    | split
    | dsimp only

theorem State.ptpMessage_keeps (s : State) (p : Nat) (m : PtpMsg) : Keeps 786489 s (State.ptpMessage s p m) := by
  unfold State.ptpMessage
  repeat' first
    | with_reducible assumption
    | with_reducible apply Keeps.refl
    | (with_reducible apply Keeps.after (m := 786489) (State.count_keeps ..) (by decide))
    | (with_reducible apply Keeps.after (m := 786489) (State.ptpAccept_keeps ..) (by decide))
    | (intro x; refine (fun hx : Keeps 786489 s x => ?_) ?_; clear_value x; rotate_left; dsimp only [x]; rotate_right)
    | intro _
    | (with_reducible apply Keeps.ite)
    | lift_lets
    | split
    | dsimp only

theorem State.pulseEnd_keeps (s : State) : Keeps 262176 s (State.pulseEnd s) := by
  unfold State.pulseEnd
  repeat' first
    | (with_reducible apply Keeps.foldl)
    | with_reducible assumption
    | with_reducible apply Keeps.refl
    | (with_reducible apply Keeps.after (m := 262176) (State.emit_keeps ..) (by decide))
    | (with_reducible apply State.setTime_keeps (m := 262176) (by decide))
    | with_reducible exact Or.inl rfl
    | with_reducible exact Or.inl (fun _ => rfl)
    | with_reducible exact Or.inr (fun _ => rfl)
    | with_reducible exact Or.inr (fun _ => ⟨rfl, rfl⟩)
    | with_reducible exact Or.inr (fun _ => ⟨rfl, rfl, rfl⟩)
    | with_reducible exact Or.inr (fun _ => ⟨rfl, rfl, rfl, rfl⟩)
    | with_reducible exact Or.inr (fun _ => ⟨rfl, rfl, rfl, rfl, rfl, rfl, rfl, rfl, rfl⟩)
    | (refine Or.inr (fun q => ?_); (try dsimp only); split <;> first | rfl | exact ⟨rfl, rfl⟩ | exact ⟨rfl, rfl, rfl⟩ | exact ⟨rfl, rfl, rfl, rfl⟩)
    | (intro x; refine (fun hx : Keeps 262176 s x => ?_) ?_; clear_value x; rotate_left; dsimp only [x]; rotate_right)
    | intro _
    | (with_reducible apply Keeps.ite)
    | lift_lets
    | split
    | dsimp only

theorem State.refEdge_keeps (s : State) (r : Nat) (eRef : Int) : Keeps 262201 s (State.refEdge s r eRef) := by
  unfold State.refEdge
  repeat' first
    | with_reducible assumption
    | with_reducible apply Keeps.refl
    | (with_reducible apply Keeps.after (m := 262201) (State.setTimer_keeps ..) (by decide))
    | (with_reducible apply Keeps.after (m := 262201) (State.post_keeps ..) (by decide))
    | (intro x; refine (fun hx : Keeps 262201 s x => ?_) ?_; clear_value x; rotate_left; dsimp only [x]; rotate_right)
    | intro _
    | (with_reducible apply Keeps.ite)
    | lift_lets
    | split
    | dsimp only

theorem State.refIn_keeps (s : State) (ns : Nat) : Keeps 262201 s (State.refIn s ns) := by
  unfold State.refIn
  repeat' first
    | (with_reducible apply Keeps.foldl)
    | with_reducible assumption
    | with_reducible apply Keeps.refl
    | (with_reducible apply Keeps.after (m := 262201) (State.refEdge_keeps ..) (by decide))
    | (with_reducible apply State.setTime_keeps (m := 262201) (by decide))
    | with_reducible exact Or.inl rfl
    | with_reducible exact Or.inl (fun _ => rfl)
    | with_reducible exact Or.inr (fun _ => rfl)
    | with_reducible exact Or.inr (fun _ => ⟨rfl, rfl⟩)
    | with_reducible exact Or.inr (fun _ => ⟨rfl, rfl, rfl⟩)
    | with_reducible exact Or.inr (fun _ => ⟨rfl, rfl, rfl, rfl⟩)
    | with_reducible exact Or.inr (fun _ => ⟨rfl, rfl, rfl, rfl, rfl, rfl, rfl, rfl, rfl⟩)
    | (intro x; refine (fun hx : Keeps 262201 s x => ?_) ?_; clear_value x; rotate_left; dsimp only [x]; rotate_right)
    | intro _
    | lift_lets
    | dsimp only

theorem State.refLost_keeps (s : State) (r : Nat) : Keeps 262201 s (State.refLost s r) := by
  unfold State.refLost
  repeat' first
    | with_reducible assumption
    | with_reducible apply Keeps.refl
    | (with_reducible apply Keeps.after (m := 262201) (State.post_keeps ..) (by decide))
    | (with_reducible apply Keeps.after (m := 262201) (State.setTimer_keeps ..) (by decide))
    | (intro x; refine (fun hx : Keeps 262201 s x => ?_) ?_; clear_value x; rotate_left; dsimp only [x]; rotate_right)
    | intro _
    | (with_reducible apply Keeps.ite)
    | lift_lets
    | split
    | dsimp only

theorem State.timeTick_keeps (s : State) : Keeps 34359738400 s (State.timeTick s) := by
  unfold State.timeTick
  repeat' first
    | (with_reducible apply Keeps.foldl)
    | with_reducible assumption
    | with_reducible apply Keeps.refl
    | (with_reducible apply State.setTime_keeps (m := 34359738400) (by decide))
    | with_reducible exact Or.inl rfl
    | with_reducible exact Or.inl (fun _ => rfl)
    | with_reducible exact Or.inr (fun _ => rfl)
    | with_reducible exact Or.inr (fun _ => ⟨rfl, rfl⟩)
    | with_reducible exact Or.inr (fun _ => ⟨rfl, rfl, rfl⟩)
    | with_reducible exact Or.inr (fun _ => ⟨rfl, rfl, rfl, rfl⟩)
    | with_reducible exact Or.inr (fun _ => ⟨rfl, rfl, rfl, rfl, rfl, rfl, rfl, rfl, rfl⟩)
    | (refine Or.inr (fun q => ?_); (try dsimp only); split <;> first | rfl | exact ⟨rfl, rfl⟩ | exact ⟨rfl, rfl, rfl⟩ | exact ⟨rfl, rfl, rfl, rfl⟩)
    | (intro x; refine (fun hx : Keeps 34359738400 s x => ?_) ?_; clear_value x; rotate_left; dsimp only [x]; rotate_right)
    | intro _
    | (with_reducible apply Keeps.ite)
    | lift_lets
    | split
    | dsimp only

theorem State.tpLink_keeps (s : State) (p : Nat) (up : Bool) : Keeps 33 s (State.tpLink s p up) := by
  unfold State.tpLink
  repeat' first
    | with_reducible assumption
    | with_reducible apply Keeps.refl
    | (with_reducible apply Keeps.after (m := 33) (State.chooseFrom_keeps ..) (by decide))
    | (with_reducible apply Keeps.after (m := 33) (State.setTp_keeps ..) (by decide))
    | intro _
    | (with_reducible apply Keeps.ite)
    | split
    | dsimp only

theorem execClk10mLost_keeps (s : State) {nxt : State} (e : execClk10mLost s = .next nxt) : Keeps 33 s nxt := by
  unfold execClk10mLost at e
  first | refine Keeps.go ?_ e | refine Keeps.goRead ?_ e | cases e
  try dsimp only
  repeat' first
    | with_reducible assumption
    | with_reducible apply Keeps.refl
    | (with_reducible apply Keeps.after (m := 33) (State.clk10mLost_keeps ..) (by decide))
    | intro _
    | dsimp only

theorem execLtcInFrame_keeps (hours minutes seconds frames : Nat) (drop ok : Bool) (s : State) {nxt : State} (e : execLtcInFrame hours minutes seconds frames drop ok s = .next nxt) : Keeps 524320 s nxt := by
  unfold execLtcInFrame at e
  first | refine Keeps.go ?_ e | refine Keeps.goRead ?_ e | cases e
  try dsimp only
  repeat' first
    | with_reducible assumption
    | with_reducible apply Keeps.refl
    | (with_reducible apply Keeps.after (m := 524320) (State.ltcFrame_keeps ..) (by decide))
    | (with_reducible apply Keeps.after (m := 524320) (State.useFree_keeps ..) (by decide))
    | intro _
    | dsimp only

theorem execLtcInLost_keeps (s : State) {nxt : State} (e : execLtcInLost s = .next nxt) : Keeps 33 s nxt := by
  unfold execLtcInLost at e
  first | refine Keeps.go ?_ e | refine Keeps.goRead ?_ e | cases e
  try dsimp only
  repeat' first
    | with_reducible assumption
    | with_reducible apply Keeps.refl
    | (with_reducible apply Keeps.after (m := 33) (State.ltcLost_keeps ..) (by decide))
    | intro _
    | dsimp only

theorem execLtcOutFrame_keeps (s : State) {nxt : State} (e : execLtcOutFrame s = .next nxt) : Keeps 262176 s nxt := by
  unfold execLtcOutFrame at e
  first | refine Keeps.go ?_ e | refine Keeps.goRead ?_ e | cases e
  try dsimp only
  repeat' first
    | with_reducible assumption
    | with_reducible apply Keeps.refl
    | (with_reducible apply Keeps.after (m := 262176) (State.ltcOut_keeps ..) (by decide))
    | intro _
    | dsimp only

theorem execPpsInEdge_keeps (s : State) {nxt : State} (e : execPpsInEdge s = .next nxt) : Keeps 786489 s nxt := by
  unfold execPpsInEdge at e
  first | refine Keeps.go ?_ e | refine Keeps.goRead ?_ e | cases e
  try dsimp only
  repeat' first
    | with_reducible assumption
    | with_reducible apply Keeps.refl
    | (with_reducible apply Keeps.after (m := 786489) (State.ppsEdge_keeps ..) (by decide))
    | (with_reducible apply Keeps.after (m := 786489) (State.useFree_keeps ..) (by decide))
    | intro _
    | dsimp only

theorem execPpsInLost_keeps (s : State) {nxt : State} (e : execPpsInLost s = .next nxt) : Keeps 262201 s nxt := by
  unfold execPpsInLost at e
  first | refine Keeps.go ?_ e | refine Keeps.goRead ?_ e | cases e
  try dsimp only
  repeat' first
    | with_reducible assumption
    | with_reducible apply Keeps.refl
    | (with_reducible apply Keeps.after (m := 262201) (State.ppsLost_keeps ..) (by decide))
    | intro _
    | dsimp only

theorem execPpsOutPulse_keeps (s : State) {nxt : State} (e : execPpsOutPulse s = .next nxt) : Keeps 262176 s nxt := by
  unfold execPpsOutPulse at e
  first | refine Keeps.go ?_ e | refine Keeps.goRead ?_ e | cases e
  try dsimp only
  repeat' first
    | with_reducible assumption
    | with_reducible apply Keeps.refl
    | (with_reducible apply Keeps.after (m := 262176) (State.ppsOutPulse_keeps ..) (by decide))
    | intro _
    | dsimp only

theorem execPtpMessage_keeps (p : Nat) (m : PtpMsg) (s : State) {nxt : State} (e : execPtpMessage p m s = .next nxt) : Keeps 786489 s nxt := by
  unfold execPtpMessage at e
  first | refine Keeps.go ?_ e | refine Keeps.goRead ?_ e | cases e
  try dsimp only
  repeat' first
    | with_reducible assumption
    | with_reducible apply Keeps.refl
    | (with_reducible apply Keeps.after (m := 786489) (State.ptpMessage_keeps ..) (by decide))
    | intro _
    | dsimp only

theorem execPtpSourceLost_keeps (p : Nat) (s : State) {nxt : State} (e : execPtpSourceLost p s = .next nxt) : Keeps 262201 s nxt := by
  unfold execPtpSourceLost at e
  first | refine Keeps.go ?_ e | refine Keeps.goRead ?_ e | cases e
  try dsimp only
  repeat' first
    | with_reducible assumption
    | with_reducible apply Keeps.refl
    | (with_reducible apply Keeps.after (m := 262201) (State.ptpLost_keeps ..) (by decide))
    | intro _
    | dsimp only

theorem execPulseEnd_keeps (s : State) {nxt : State} (e : execPulseEnd s = .next nxt) : Keeps 262176 s nxt := by
  unfold execPulseEnd at e
  first | refine Keeps.go ?_ e | refine Keeps.goRead ?_ e | cases e
  try dsimp only
  repeat' first
    | with_reducible assumption
    | with_reducible apply Keeps.refl
    | (with_reducible apply Keeps.after (m := 262176) (State.pulseEnd_keeps ..) (by decide))
    | intro _
    | dsimp only

theorem execRefInEdge_keeps (s : State) {nxt : State} (e : execRefInEdge s = .next nxt) : Keeps 786489 s nxt := by
  unfold execRefInEdge at e
  first | refine Keeps.go ?_ e | refine Keeps.goRead ?_ e | cases e
  try dsimp only
  repeat' first
    | with_reducible assumption
    | with_reducible apply Keeps.refl
    | (with_reducible apply Keeps.after (m := 786489) (State.refIn_keeps ..) (by decide))
    | (with_reducible apply Keeps.after (m := 786489) (State.useFree_keeps ..) (by decide))
    | intro _
    | dsimp only

theorem execRefLost_keeps (r : Nat) (s : State) {nxt : State} (e : execRefLost r s = .next nxt) : Keeps 262201 s nxt := by
  unfold execRefLost at e
  first | refine Keeps.go ?_ e | refine Keeps.goRead ?_ e | cases e
  try dsimp only
  repeat' first
    | with_reducible assumption
    | with_reducible apply Keeps.refl
    | (with_reducible apply Keeps.after (m := 262201) (State.refLost_keeps ..) (by decide))
    | intro _
    | dsimp only

theorem execTcmpFire_keeps (u : Nat) (s : State) {nxt : State} (e : execTcmpFire u s = .next nxt) : Keeps 263225 s nxt := by
  unfold execTcmpFire at e
  first | refine Keeps.go ?_ e | refine Keeps.goRead ?_ e | cases e
  try dsimp only
  repeat' first
    | with_reducible assumption
    | with_reducible apply Keeps.refl
    | (with_reducible apply Keeps.after (m := 263225) (State.tcmpFire_keeps ..) (by decide))
    | intro _
    | dsimp only

theorem execTimeSet_keeps (d : Desc) (s : State) {nxt : State} (e : execTimeSet d s = .next nxt) : Keeps 549756076089 s nxt := by
  unfold execTimeSet at e
  first | refine Keeps.go ?_ e | refine Keeps.goRead ?_ e | cases e
  try dsimp only
  repeat' first
    | with_reducible assumption
    | with_reducible apply Keeps.refl
    | (with_reducible apply State.runCmd_keeps (mk := 549756076089) (by decide))
    | (with_reducible apply State.setTime_keeps (m := 549756076089) (by decide))
    | with_reducible exact Or.inl rfl
    | with_reducible exact Or.inl (fun _ => rfl)
    | with_reducible exact Or.inr (fun _ => rfl)
    | with_reducible exact Or.inr (fun _ => ⟨rfl, rfl⟩)
    | with_reducible exact Or.inr (fun _ => ⟨rfl, rfl, rfl⟩)
    | with_reducible exact Or.inr (fun _ => ⟨rfl, rfl, rfl, rfl⟩)
    | with_reducible exact Or.inr (fun _ => ⟨rfl, rfl, rfl, rfl, rfl, rfl, rfl, rfl, rfl⟩)
    | (intro x; refine (fun hx : Keeps 549756076089 s x => ?_) ?_; clear_value x; rotate_left; dsimp only [x]; rotate_right)
    | intro _
    | lift_lets
    | dsimp only

theorem execTimeStepAccept_keeps (d : Desc) (s : State) {nxt : State} (e : execTimeStepAccept d s = .next nxt) : Keeps 549756076089 s nxt := by
  unfold execTimeStepAccept at e
  first | refine Keeps.go ?_ e | refine Keeps.goRead ?_ e | cases e
  try dsimp only
  repeat' first
    | with_reducible assumption
    | with_reducible apply Keeps.refl
    | (with_reducible apply State.runCmd_keeps (mk := 549756076089) (by decide))
    | (with_reducible apply State.setTime_keeps (m := 549756076089) (by decide))
    | with_reducible exact Or.inl rfl
    | with_reducible exact Or.inl (fun _ => rfl)
    | with_reducible exact Or.inr (fun _ => rfl)
    | with_reducible exact Or.inr (fun _ => ⟨rfl, rfl⟩)
    | with_reducible exact Or.inr (fun _ => ⟨rfl, rfl, rfl⟩)
    | with_reducible exact Or.inr (fun _ => ⟨rfl, rfl, rfl, rfl⟩)
    | with_reducible exact Or.inr (fun _ => ⟨rfl, rfl, rfl, rfl, rfl, rfl, rfl, rfl, rfl⟩)
    | intro _
    | dsimp only

theorem execTpLinkState_keeps (p : Nat) (up : Bool) (s : State) {nxt : State} (e : execTpLinkState p up s = .next nxt) : Keeps 33 s nxt := by
  unfold execTpLinkState at e
  first | refine Keeps.go ?_ e | refine Keeps.goRead ?_ e | cases e
  try dsimp only
  repeat' first
    | with_reducible assumption
    | with_reducible apply Keeps.refl
    | (with_reducible apply Keeps.after (m := 33) (State.tpLink_keeps ..) (by decide))
    | intro _
    | dsimp only

theorem execTpMacFrame_keeps (p kind addr : Nat) (fields : List Nat) (s : State) {nxt : State} (e : execTpMacFrame p kind addr fields s = .next nxt) : Keeps 262145 s nxt := by
  unfold execTpMacFrame at e
  first | refine Keeps.go ?_ e | refine Keeps.goRead ?_ e | cases e
  try dsimp only
  repeat' first
    | with_reducible assumption
    | with_reducible apply Keeps.refl
    | (with_reducible apply Keeps.after (m := 262145) (State.macFrame_keeps ..) (by decide))
    | intro _
    | dsimp only

end Sys2Proof.Machine
end

