-- ==== Sys2Proof/Laws/KeepsStore.lean ====
section
/-! SUPPORT. What each function of Machine/Store.lean may change. -/

namespace Sys2Proof.Machine

set_option linter.all false

theorem State.setStore_keeps (s : State) (f : StoreState → StoreState) : Keeps 256 s (State.setStore s f) := by
  unfold State.setStore
  repeat' first
    | with_reducible apply Keeps.refl
    | dsimp only
    | (with_reducible apply Keeps.store (m := 256) (by decide))

theorem State.storeEvt_keeps (s : State) (bits : List Nat) : Keeps 262169 s (State.storeEvt s bits) := by
  unfold State.storeEvt
  repeat' first
    | with_reducible assumption
    | with_reducible apply Keeps.refl
    | (with_reducible apply Keeps.after (m := 262169) (State.orReg_keeps ..) (by decide))
    | (with_reducible apply Keeps.after (m := 262169) (State.post_keeps ..) (by decide))
    | (intro x; refine (fun hx : Keeps 262169 s x => ?_) ?_; clear_value x; rotate_left; dsimp only [x]; rotate_right)
    | intro _
    | (with_reducible apply Keeps.ite)
    | lift_lets
    | split
    | dsimp only

theorem State.setFrame_keeps (s : State) (id : Nat) (f : FrameSt → FrameSt) : Keeps 256 s (State.setFrame s id f) := by
  unfold State.setFrame
  repeat' first
    | with_reducible assumption
    | with_reducible apply Keeps.refl
    | (with_reducible apply Keeps.after (m := 256) (State.setStore_keeps ..) (by decide))
    | intro _
    | (with_reducible apply Keeps.ite)
    | split
    | dsimp only

theorem State.tallyTest_keeps (s : State) (id : Nat) : Keeps 256 s (State.tallyTest s id) := by
  unfold State.tallyTest
  repeat' first
    | with_reducible assumption
    | with_reducible apply Keeps.refl
    | (with_reducible apply Keeps.after (m := 256) (State.setFrame_keeps ..) (by decide))
    | intro _
    | (with_reducible apply Keeps.ite)
    | split
    | dsimp only

theorem State.setRun_keeps (s : State) (r : Nat) (f : RigRun → RigRun) : Keeps 512 s (State.setRun s r f) := by
  unfold State.setRun
  repeat' first
    | with_reducible apply Keeps.refl
    | dsimp only
    | (with_reducible apply Keeps.takes (m := 512) (by decide))

theorem State.uncharge_keeps (s : State) (f : FrameSt) : Keeps 512 s (State.uncharge s f) := by
  unfold State.uncharge
  repeat' first
    | with_reducible assumption
    | with_reducible apply Keeps.refl
    | (with_reducible apply Keeps.after (m := 512) (State.setRun_keeps ..) (by decide))
    | intro _
    | dsimp only

theorem State.releaseNow_keeps (s : State) (id h : Nat) : Keeps 17180136217 s (State.releaseNow s id h) := by
  unfold State.releaseNow
  repeat' first
    | with_reducible assumption
    | with_reducible apply Keeps.refl
    | (with_reducible apply Keeps.after (m := 17180136217) (State.logEntry_keeps ..) (by decide))
    | (with_reducible apply Keeps.after (m := 17180136217) (State.storeEvt_keeps ..) (by decide))
    | (with_reducible apply Keeps.after (m := 17180136217) (State.tallyTest_keeps ..) (by decide))
    | (with_reducible apply Keeps.after (m := 17180136217) (State.setFrame_keeps ..) (by decide))
    | (with_reducible apply Keeps.after (m := 17180136217) (State.uncharge_keeps ..) (by decide))
    | (intro x; refine (fun hx : Keeps 17180136217 s x => ?_) ?_; clear_value x; rotate_left; dsimp only [x]; rotate_right)
    | intro _
    | (with_reducible apply Keeps.ite)
    | lift_lets
    | split
    | dsimp only

theorem State.release_keeps (s : State) (id h : Nat) : Keeps 17180136217 s (State.release s id h) := by
  unfold State.release
  repeat' first
    | with_reducible assumption
    | with_reducible apply Keeps.refl
    | (with_reducible apply Keeps.after (m := 17180136217) (State.setStore_keeps ..) (by decide))
    | (with_reducible apply Keeps.after (m := 17180136217) (State.releaseNow_keeps ..) (by decide))
    | intro _
    | (with_reducible apply Keeps.ite)
    | split
    | dsimp only

theorem State.releaseIf_keeps (s : State) (id h : Nat) : Keeps 17180136217 s (State.releaseIf s id h) := by
  unfold State.releaseIf
  repeat' first
    | with_reducible assumption
    | with_reducible apply Keeps.refl
    | (with_reducible apply Keeps.after (m := 17180136217) (State.release_keeps ..) (by decide))
    | intro _
    | (with_reducible apply Keeps.ite)
    | split
    | dsimp only

theorem State.shed_keeps (s : State) (k st n cause : Nat) : Keeps 263193 s (State.shed s k st n cause) := by
  unfold State.shed
  repeat' first
    | with_reducible assumption
    | with_reducible apply Keeps.refl
    | (with_reducible apply Keeps.after (m := 263193) (State.post_keeps ..) (by decide))
    | (with_reducible apply Keeps.after (m := 263193) (State.count_keeps ..) (by decide))
    | (with_reducible apply Keeps.after (m := 263193) (State.setEvt_keeps ..) (by decide))
    | (intro x; refine (fun hx : Keeps 263193 s x => ?_) ?_; clear_value x; rotate_left; dsimp only [x]; rotate_right)
    | intro _
    | lift_lets
    | dsimp only
    | (with_reducible apply Keeps.mover (m := 263193) (by decide))

theorem State.releaseAll_keeps (s : State) (h : Nat) (p : FrameSt → Bool) : Keeps 17180136217 s (State.releaseAll s h p) := by
  unfold State.releaseAll
  repeat' first
    | (with_reducible apply Keeps.foldl)
    | with_reducible assumption
    | with_reducible apply Keeps.refl
    | (with_reducible apply Keeps.after (m := 17180136217) (State.releaseIf_keeps ..) (by decide))
    | intro _
    | dsimp only

theorem State.watermarks_keeps (s : State) : Keeps 262431 s (State.watermarks s) := by
  unfold State.watermarks
  repeat' first
    | with_reducible assumption
    | with_reducible apply Keeps.refl
    | (with_reducible apply Keeps.after (m := 262431) (State.setStore_keeps ..) (by decide))
    | (with_reducible apply Keeps.after (m := 262431) (State.storeEvt_keeps ..) (by decide))
    | (with_reducible apply Keeps.after (m := 262431) (State.healthFail_keeps ..) (by decide))
    | (intro x; refine (fun hx : Keeps 262431 s x => ?_) ?_; clear_value x; rotate_left; dsimp only [x]; rotate_right)
    | intro _
    | (with_reducible apply Keeps.ite)
    | lift_lets
    | split
    | dsimp only

theorem State.popPage_keeps {s : State} {n c : Nat} {a t} (e : s.popPage n c = some (a, t)) : Keeps 256 s t := by
  induction n generalizing c with
  | zero => cases e
  | succ n ih =>
    unfold State.popPage at e
    dsimp only at e
    split at e
    · cases e
      repeat' first
        | with_reducible assumption
        | with_reducible apply Keeps.refl
        | (with_reducible apply Keeps.after (m := 256) (State.setStore_keeps ..) (by decide))
        | (intro x; refine (fun hx : Keeps 256 s x => ?_) ?_; clear_value x; rotate_left; dsimp only [x]; rotate_right)
        | intro _
        | (with_reducible apply Keeps.ite)
        | lift_lets
        | split
        | dsimp only
    · exact ih e


theorem State.allocPage_keeps {s : State} {a t} (e : s.allocPage = some (a, t)) : Keeps 256 s t := by
  unfold State.allocPage at e
  split at e
  · exact State.popPage_keeps e
  · cases e


theorem State.freePage_keeps (s : State) (p : Nat) : Keeps 256 s (State.freePage s p) := by
  unfold State.freePage
  repeat' first
    | with_reducible assumption
    | with_reducible apply Keeps.refl
    | (with_reducible apply Keeps.after (m := 256) (State.setStore_keeps ..) (by decide))
    | intro _
    | (with_reducible apply Keeps.ite)
    | split
    | dsimp only

theorem State.tableBytes_keeps (s : State) (g n : Nat) : Keeps 1 s (State.tableBytes s g n) := by
  unfold State.tableBytes
  repeat' first
    | with_reducible apply Keeps.refl
    | (with_reducible apply Keeps.after (m := 1) (State.add64_keeps ..) (by decide))
    | dsimp only

theorem State.slotBytes_keeps (s : State) (slot : Nat) (record block : Bool) : Keeps 1 s (State.slotBytes s slot record block) := by
  unfold State.slotBytes
  repeat' first
    | (with_reducible apply Keeps.foldl)
    | with_reducible assumption
    | with_reducible apply Keeps.refl
    | (with_reducible apply Keeps.after (m := 1) (State.tableBytes_keeps ..) (by decide))
    | (intro x; refine (fun hx : Keeps 1 s x => ?_) ?_; clear_value x; rotate_left; dsimp only [x]; rotate_right)
    | intro _
    | (with_reducible apply Keeps.ite)
    | lift_lets
    | split
    | dsimp only

theorem State.readBytes_keeps (s : State) (f : FrameSt) (o n : Nat) : Keeps 1 s (State.readBytes s f o n) := by
  unfold State.readBytes
  repeat' first
    | (with_reducible apply Keeps.foldl)
    | with_reducible assumption
    | with_reducible apply Keeps.refl
    | (with_reducible apply Keeps.after (m := 1) (State.add64_keeps ..) (by decide))
    | intro _
    | split
    | dsimp only

theorem State.setTake_keeps (s : State) (id : Nat) (f : Take → Take) : Keeps 512 s (State.setTake s id f) := by
  unfold State.setTake
  repeat' first
    | with_reducible assumption
    | with_reducible apply Keeps.refl
    | intro _
    | (with_reducible apply Keeps.ite)
    | split
    | dsimp only
    | (with_reducible apply Keeps.takes (m := 512) (by decide))

theorem State.setStream_keeps (s : State) (st : Nat) (f : StreamSt → StreamSt) : Keeps 256 s (State.setStream s st f) := by
  unfold State.setStream
  repeat' first
    | with_reducible assumption
    | with_reducible apply Keeps.refl
    | (with_reducible apply Keeps.after (m := 256) (State.setStore_keeps ..) (by decide))
    | intro _
    | dsimp only

theorem State.allocSlot_keeps {s : State} {a} {res} (e : State.allocSlot s = some (a, res)) : Keeps 256 s res := by
  unfold State.allocSlot at e
  try dsimp only at e
  repeat' split at e
  all_goals (cases e <;> (
    repeat' first
      | with_reducible assumption
      | with_reducible apply Keeps.refl
      | (with_reducible apply Keeps.after (m := 256) (State.setStore_keeps ..) (by decide))
      | intro _
      | (with_reducible apply Keeps.ite)
      | split
      | dsimp only))

theorem State.freeSlot_keeps (s : State) (i : Nat) : Keeps 256 s (State.freeSlot s i) := by
  unfold State.freeSlot
  repeat' first
    | with_reducible assumption
    | with_reducible apply Keeps.refl
    | (with_reducible apply Keeps.after (m := 256) (State.setStore_keeps ..) (by decide))
    | intro _
    | dsimp only

theorem State.burstDecide_keeps (s : State) (r n : Nat) (t : Take) : Keeps 516 s (State.burstDecide s r n t) := by
  unfold State.burstDecide
  repeat' first
    | (with_reducible apply Keeps.foldl)
    | with_reducible assumption
    | with_reducible apply Keeps.refl
    | (with_reducible apply Keeps.after (m := 516) (State.setRun_keeps ..) (by decide))
    | (with_reducible apply Keeps.after (m := 516) (State.setTake_keeps ..) (by decide))
    | (with_reducible apply Keeps.after (m := 516) (State.pushBound_keeps ..) (by decide))
    | (intro x; refine (fun hx : Keeps 516 s x => ?_) ?_; clear_value x; rotate_left; dsimp only [x]; rotate_right)
    | intro _
    | (with_reducible apply Keeps.ite)
    | lift_lets
    | split
    | dsimp only

theorem State.openFrame_keeps (s : State) (id : Nat) : Keeps 263965 s (State.openFrame s id) := by
  unfold State.openFrame
  repeat' first
    | (with_reducible apply Keeps.foldl)
    | with_reducible assumption
    | with_reducible apply Keeps.refl
    | (with_reducible apply Keeps.after (m := 263965) (State.burstDecide_keeps ..) (by decide))
    | (with_reducible apply Keeps.after (m := 263965) (State.setReg_keeps ..) (by decide))
    | (with_reducible apply Keeps.after (m := 263965) (State.shed_keeps ..) (by decide))
    | (with_reducible apply Keeps.after (m := 263965) (State.count_keeps ..) (by decide))
    | (with_reducible apply Keeps.after (m := 263965) (State.setStore_keeps ..) (by decide))
    | (with_reducible apply Keeps.after (m := 263965) (State.setFrame_keeps ..) (by decide))
    | (intro x; refine (fun hx : Keeps 263965 s x => ?_) ?_; clear_value x; rotate_left; dsimp only [x]; rotate_right)
    | intro _
    | (with_reducible apply Keeps.ite)
    | lift_lets
    | split
    | dsimp only

theorem State.prerollDrop_keeps (s : State) (st r n : Nat) : Keeps 17180136217 s (State.prerollDrop s st r n) := by
  unfold State.prerollDrop
  repeat' first
    | with_reducible assumption
    | with_reducible apply Keeps.refl
    | (with_reducible apply Keeps.after (m := 17180136217) (State.releaseAll_keeps ..) (by decide))
    | (intro x; refine (fun hx : Keeps 17180136217 s x => ?_) ?_; clear_value x; rotate_left; dsimp only [x]; rotate_right)
    | intro _
    | lift_lets
    | dsimp only

theorem State.prerollCatch_keeps (s : State) (r : Nat) : Keeps 17180136217 s (State.prerollCatch s r) := by
  unfold State.prerollCatch
  repeat' first
    | (with_reducible apply Keeps.foldl)
    | with_reducible assumption
    | with_reducible apply Keeps.refl
    | (with_reducible apply Keeps.after (m := 17180136217) (State.prerollDrop_keeps ..) (by decide))
    | (with_reducible apply Keeps.after (m := 17180136217) (State.setStream_keeps ..) (by decide))
    | intro _
    | dsimp only

theorem State.putPayload_keeps (s : State) (id o : Nat) (b : List Byte) : Keeps 131073 s (State.putPayload s id o b) := by
  unfold State.putPayload
  repeat' first
    | (with_reducible apply Keeps.foldl)
    | with_reducible assumption
    | with_reducible apply Keeps.refl
    | exact fun h => hbmWrite_wf _ _ _ h
    | (with_reducible apply Keeps.after (m := 131073) (State.add64_keeps ..) (by decide))
    | exact fun h => hbmWrite_wf _ _ _ h
    | exact hbmWrite_wf _ _ _ ‹_›
    | (intro x; refine (fun hx : Keeps 131073 s x => ?_) ?_; clear_value x; rotate_left; dsimp only [x]; rotate_right)
    | intro _
    | lift_lets
    | split
    | dsimp only
    | (with_reducible apply Keeps.hbm (m := 131073) (by decide))


theorem State.prerollLeave_keeps (s : State) (st r n : Nat) : Keeps 17180136217 s (State.prerollLeave s st r n) := by
  unfold State.prerollLeave
  repeat' first
    | with_reducible assumption
    | with_reducible apply Keeps.refl
    | (with_reducible apply Keeps.after (m := 17180136217) (State.setStream_keeps ..) (by decide))
    | (with_reducible apply Keeps.after (m := 17180136217) (State.prerollDrop_keeps ..) (by decide))
    | intro _
    | (with_reducible apply Keeps.ite)
    | split
    | dsimp only

theorem State.freeFrame_keeps (s : State) (f : FrameSt) : Keeps 256 s (State.freeFrame s f) := by
  unfold State.freeFrame
  repeat' first
    | (with_reducible apply Keeps.foldl)
    | with_reducible assumption
    | with_reducible apply Keeps.refl
    | (with_reducible apply Keeps.after (m := 256) (State.freePage_keeps ..) (by decide))
    | (with_reducible apply Keeps.after (m := 256) (State.freeSlot_keeps ..) (by decide))
    | (with_reducible apply Keeps.after (m := 256) (State.setStore_keeps ..) (by decide))
    | (intro x; refine (fun hx : Keeps 256 s x => ?_) ?_; clear_value x; rotate_left; dsimp only [x]; rotate_right)
    | intro _
    | (with_reducible apply Keeps.ite)
    | lift_lets
    | split
    | dsimp only

theorem State.refillN_keeps (s : State) (st : Nat) (n : Nat) : Keeps 262431 s (State.refillN s st n) := by
  induction n generalizing s with
  | zero => exact Keeps.refl _ _
  | succ n ih =>
    unfold State.refillN
    repeat' first
      | with_reducible assumption
      | with_reducible apply Keeps.refl
      | (with_reducible apply Keeps.after (m := 262431) (ih ..) (by decide))
      | (with_reducible apply Keeps.after (m := 262431) (State.allocPage_keeps (e := ‹_›) ..) (by decide))
      | (with_reducible apply Keeps.after (m := 262431) (State.watermarks_keeps ..) (by decide))
      | (with_reducible apply Keeps.after (m := 262431) (State.setStream_keeps ..) (by decide))
      | intro _
      | split
      | dsimp only


theorem State.refill_keeps (s : State) (st : Nat) : Keeps 262431 s (State.refill s st) := by
  unfold State.refill
  repeat' first
    | with_reducible assumption
    | with_reducible apply Keeps.refl
    | (with_reducible apply Keeps.after (m := 262431) (State.refillN_keeps ..) (by decide))
    | (intro x; refine (fun hx : Keeps 262431 s x => ?_) ?_; clear_value x; rotate_left; dsimp only [x]; rotate_right)
    | intro _
    | (with_reducible apply Keeps.ite)
    | lift_lets
    | split
    | dsimp only

theorem State.recoveryEnd_keeps (s : State) : Keeps 17180136217 s (State.recoveryEnd s) := by
  unfold State.recoveryEnd
  repeat' first
    | (with_reducible apply Keeps.foldl)
    | with_reducible assumption
    | with_reducible apply Keeps.refl
    | (with_reducible apply Keeps.after (m := 17180136217) (State.setFrame_keeps ..) (by decide))
    | (with_reducible apply Keeps.after (m := 17180136217) (State.releaseNow_keeps ..) (by decide))
    | (with_reducible apply Keeps.after (m := 17180136217) (State.setStore_keeps ..) (by decide))
    | (with_reducible apply Keeps.after (m := 17180136217) (State.tallyTest_keeps ..) (by decide))
    | (intro x; refine (fun hx : Keeps 17180136217 s x => ?_) ?_; clear_value x; rotate_left; dsimp only [x]; rotate_right)
    | intro _
    | (with_reducible apply Keeps.ite)
    | lift_lets
    | split
    | dsimp only

theorem State.returnSlot_keeps (s : State) (f : FrameSt) : Keeps 256 s (State.returnSlot s f) := by
  unfold State.returnSlot
  repeat' first
    | with_reducible assumption
    | with_reducible apply Keeps.refl
    | (with_reducible apply Keeps.after (m := 256) (State.setFrame_keeps ..) (by decide))
    | (with_reducible apply Keeps.after (m := 256) (State.freeSlot_keeps ..) (by decide))
    | intro _
    | split
    | dsimp only

theorem State.returnPages_keeps (s : State) (f : FrameSt) : Keeps 256 s (State.returnPages s f) := by
  unfold State.returnPages
  repeat' first
    | (with_reducible apply Keeps.foldl)
    | with_reducible assumption
    | with_reducible apply Keeps.refl
    | (with_reducible apply Keeps.after (m := 256) (State.freeFrame_keeps ..) (by decide))
    | (with_reducible apply Keeps.after (m := 256) (State.freePage_keeps ..) (by decide))
    | (with_reducible apply Keeps.after (m := 256) (State.setFrame_keeps ..) (by decide))
    | (intro x; refine (fun hx : Keeps 256 s x => ?_) ?_; clear_value x; rotate_left; dsimp only [x]; rotate_right)
    | intro _
    | (with_reducible apply Keeps.ite)
    | lift_lets
    | split
    | dsimp only

theorem State.pagesFree_keeps (s : State) : Keeps 256 s (State.pagesFree s) := by
  unfold State.pagesFree
  repeat' first
    | (with_reducible apply Keeps.foldl)
    | with_reducible assumption
    | with_reducible apply Keeps.refl
    | (with_reducible apply Keeps.after (m := 256) (State.returnSlot_keeps ..) (by decide))
    | (with_reducible apply Keeps.after (m := 256) (State.returnPages_keeps ..) (by decide))
    | (intro x; refine (fun hx : Keeps 256 s x => ?_) ?_; clear_value x; rotate_left; dsimp only [x]; rotate_right)
    | intro _
    | (with_reducible apply Keeps.ite)
    | lift_lets
    | split
    | dsimp only

theorem State.returnCaches_keeps (s : State) : Keeps 256 s (State.returnCaches s) := by
  unfold State.returnCaches
  repeat' first
    | (with_reducible apply Keeps.foldl)
    | with_reducible assumption
    | with_reducible apply Keeps.refl
    | (with_reducible apply Keeps.after (m := 256) (State.freePage_keeps ..) (by decide))
    | (with_reducible apply Keeps.after (m := 256) (State.setStream_keeps ..) (by decide))
    | (intro x; refine (fun hx : Keeps 256 s x => ?_) ?_; clear_value x; rotate_left; dsimp only [x]; rotate_right)
    | intro _
    | (with_reducible apply Keeps.ite)
    | lift_lets
    | split
    | dsimp only

theorem execPagesFree_keeps (s : State) {nxt : State} (e : execPagesFree s = .next nxt) : Keeps 256 s nxt := by
  unfold execPagesFree at e
  first | refine Keeps.go ?_ e | refine Keeps.goRead ?_ e | cases e
  try dsimp only
  repeat' first
    | with_reducible assumption
    | with_reducible apply Keeps.refl
    | (with_reducible apply Keeps.after (m := 256) (State.pagesFree_keeps ..) (by decide))
    | intro _
    | dsimp only

end Sys2Proof.Machine
end

