-- ==== Sys2Proof/Laws/KeepsPlanner.lean ====
section
/-! SUPPORT. What each function of Machine/Planner.lean may change. -/

namespace Sys2Proof.Machine

set_option linter.all false

theorem State.setPlan_keeps (s : State) (f : PlanState → PlanState) : Keeps 64 s (State.setPlan s f) := by
  unfold State.setPlan
  repeat' first
    | with_reducible apply Keeps.refl
    | dsimp only
    | (with_reducible apply Keeps.plan (m := 64) (by decide))

theorem State.addResvs_keeps (s : State) (l : List Resv) (from_ : Nat) : Keeps 64 s (State.addResvs s l from_) := by
  unfold State.addResvs
  repeat' first
    | with_reducible assumption
    | with_reducible apply Keeps.refl
    | (with_reducible apply Keeps.after (m := 64) (State.setPlan_keeps ..) (by decide))
    | intro _
    | dsimp only

theorem State.addWork_keeps (s : State) (a : Act) (res inst n : Nat) : Keeps 64 s (State.addWork s a res inst n) := by
  unfold State.addWork
  repeat' first
    | with_reducible assumption
    | with_reducible apply Keeps.refl
    | (with_reducible apply Keeps.after (m := 64) (State.setPlan_keeps ..) (by decide))
    | intro _
    | (with_reducible apply Keeps.ite)
    | split
    | dsimp only

theorem State.usedWork_keeps (s : State) (res inst n : Nat) : Keeps 64 s (State.usedWork s res inst n) := by
  unfold State.usedWork
  repeat' first
    | with_reducible assumption
    | with_reducible apply Keeps.refl
    | (with_reducible apply Keeps.after (m := 64) (State.setPlan_keeps ..) (by decide))
    | intro _
    | dsimp only

theorem State.useJob_keeps (s : State) (a : Act) (res inst n : Nat) : Keeps 64 s (State.useJob s a res inst n) := by
  unfold State.useJob
  repeat' first
    | with_reducible assumption
    | with_reducible apply Keeps.refl
    | (with_reducible apply Keeps.after (m := 64) (State.usedWork_keeps ..) (by decide))
    | (with_reducible apply Keeps.after (m := 64) (State.setPlan_keeps ..) (by decide))
    | intro _
    | dsimp only

theorem State.setWork_keeps (s : State) (a : Act) (res inst n : Nat) : Keeps 64 s (State.setWork s a res inst n) := by
  unfold State.setWork
  repeat' first
    | with_reducible assumption
    | with_reducible apply Keeps.refl
    | (with_reducible apply Keeps.after (m := 64) (State.addWork_keeps ..) (by decide))
    | (with_reducible apply Keeps.after (m := 64) (State.setPlan_keeps ..) (by decide))
    | intro _
    | dsimp only

theorem State.dropResvs_keeps (s : State) (p : Act → Bool) : Keeps 64 s (State.dropResvs s p) := by
  unfold State.dropResvs
  repeat' first
    | with_reducible assumption
    | with_reducible apply Keeps.refl
    | (with_reducible apply Keeps.after (m := 64) (State.setPlan_keeps ..) (by decide))
    | intro _
    | dsimp only

theorem State.carryMark_keeps (s : State) (carry : Tab Nat) : Keeps 65 s (State.carryMark s carry) := by
  unfold State.carryMark
  repeat' first
    | with_reducible assumption
    | with_reducible apply Keeps.refl
    | (with_reducible apply Keeps.after (m := 65) (State.setPlan_keeps ..) (by decide))
    | (with_reducible apply Keeps.after (m := 65) (State.count_keeps ..) (by decide))
    | (with_reducible apply Keeps.after (m := 65) (State.setEvt_keeps ..) (by decide))
    | (intro x; refine (fun hx : Keeps 65 s x => ?_) ?_; clear_value x; rotate_left; dsimp only [x]; rotate_right)
    | intro _
    | (with_reducible apply Keeps.ite)
    | lift_lets
    | split
    | dsimp only

theorem State.slackMark_keeps (s : State) (slack : Bool) (carry : Tab Nat) : Keeps 262239 s (State.slackMark s slack carry) := by
  unfold State.slackMark
  repeat' first
    | (with_reducible apply Keeps.foldl)
    | with_reducible assumption
    | with_reducible apply Keeps.refl
    | (with_reducible apply Keeps.after (m := 262239) (State.setEvt_keeps ..) (by decide))
    | (with_reducible apply Keeps.after (m := 262239) (State.setPlan_keeps ..) (by decide))
    | (with_reducible apply Keeps.after (m := 262239) (State.healthFail_keeps ..) (by decide))
    | (with_reducible apply Keeps.after (m := 262239) (State.post_keeps ..) (by decide))
    | (intro x; refine (fun hx : Keeps 262239 s x => ?_) ?_; clear_value x; rotate_left; dsimp only [x]; rotate_right)
    | intro _
    | (with_reducible apply Keeps.ite)
    | lift_lets
    | split
    | dsimp only

theorem State.trimMark_keeps (s : State) (es cs : Nat) : Keeps 1 s (State.trimMark s es cs) := by
  unfold State.trimMark
  repeat' first
    | with_reducible assumption
    | with_reducible apply Keeps.refl
    | (with_reducible apply Keeps.after (m := 1) (State.countN_keeps ..) (by decide))
    | (with_reducible apply Keeps.after (m := 1) (State.setEvt_keeps ..) (by decide))
    | (intro x; refine (fun hx : Keeps 1 s x => ?_) ?_; clear_value x; rotate_left; dsimp only [x]; rotate_right)
    | intro _
    | (with_reducible apply Keeps.ite)
    | lift_lets
    | split
    | dsimp only

theorem State.releaseJobs_keeps (s : State) (jobs : List Job) : Keeps 64 s (State.releaseJobs s jobs) := by
  unfold State.releaseJobs
  repeat' first
    | (with_reducible apply Keeps.foldl)
    | with_reducible assumption
    | with_reducible apply Keeps.refl
    | (with_reducible apply Keeps.after (m := 64) (State.setWork_keeps ..) (by decide))
    | (with_reducible apply Keeps.after (m := 64) (State.setPlan_keeps ..) (by decide))
    | (intro x; refine (fun hx : Keeps 64 s x => ?_) ?_; clear_value x; rotate_left; dsimp only [x]; rotate_right)
    | intro _
    | (with_reducible apply Keeps.ite)
    | lift_lets
    | split
    | dsimp only

theorem State.planApply_keeps (s : State) (carry : Tab Nat) (jobs : List Job) (cuts : List (Job × Nat)) (slack : Bool) : Keeps 262239 s (State.planApply s carry jobs cuts slack) := by
  unfold State.planApply
  repeat' first
    | with_reducible assumption
    | with_reducible apply Keeps.refl
    | (with_reducible apply Keeps.after (m := 262239) (State.slackMark_keeps ..) (by decide))
    | (with_reducible apply Keeps.after (m := 262239) (State.trimMark_keeps ..) (by decide))
    | (with_reducible apply Keeps.after (m := 262239) (State.releaseJobs_keeps ..) (by decide))
    | (intro x; refine (fun hx : Keeps 262239 s x => ?_) ?_; clear_value x; rotate_left; dsimp only [x]; rotate_right)
    | intro _
    | lift_lets
    | dsimp only

theorem State.planBoundary_keeps (s : State) : Keeps 262239 s (State.planBoundary s).1 := by
  unfold State.planBoundary
  repeat' first
    | with_reducible assumption
    | with_reducible apply Keeps.refl
    | (with_reducible apply Keeps.after (m := 262239) (State.carryMark_keeps ..) (by decide))
    | (with_reducible apply Keeps.after (m := 262239) (State.planApply_keeps ..) (by decide))
    | (intro x; refine (fun hx : Keeps 262239 s x => ?_) ?_; clear_value x; rotate_left; dsimp only [x]; rotate_right)
    | intro _
    | lift_lets
    | dsimp only

theorem State.planBoundary_eq (s : State) {a} {t} (e : State.planBoundary s = (t, a)) : Keeps 262239 s t := by
  have h := State.planBoundary_keeps s
  rw [e] at h
  exact h

theorem State.refit_keeps (s : State) : Keeps 262239 s (State.refit s) := by
  unfold State.refit
  repeat' first
    | (with_reducible apply Keeps.foldl)
    | with_reducible assumption
    | with_reducible apply Keeps.refl
    | (with_reducible apply Keeps.after (m := 262239) (State.setPlan_keeps ..) (by decide))
    | (with_reducible apply Keeps.after (m := 262239) (State.healthFail_keeps ..) (by decide))
    | (with_reducible apply Keeps.after (m := 262239) (State.post_keeps ..) (by decide))
    | (with_reducible apply Keeps.after (m := 262239) (State.setEvt_keeps ..) (by decide))
    | (intro x; refine (fun hx : Keeps 262239 s x => ?_) ?_; clear_value x; rotate_left; dsimp only [x]; rotate_right)
    | intro _
    | (with_reducible apply Keeps.ite)
    | lift_lets
    | split
    | dsimp only

theorem State.streamMoved_keeps (s : State) (st u : Nat) (us : List Nat) : Keeps 257 s (State.streamMoved s st u us) := by
  unfold State.streamMoved
  repeat' first
    | with_reducible assumption
    | with_reducible apply Keeps.refl
    | (with_reducible apply Keeps.after (m := 257) (State.setEvt_keeps ..) (by decide))
    | (with_reducible apply Keeps.after (m := 257) (State.setStream_keeps ..) (by decide))
    | (with_reducible apply Keeps.after (m := 257) (State.setStore_keeps ..) (by decide))
    | (intro x; refine (fun hx : Keeps 257 s x => ?_) ?_; clear_value x; rotate_left; dsimp only [x]; rotate_right)
    | intro _
    | (with_reducible apply Keeps.ite)
    | lift_lets
    | split
    | dsimp only

theorem State.moveShare_keeps (s : State) (a : Act) (res u : Nat) : Keeps 321 s (State.moveShare s a res u) := by
  unfold State.moveShare
  repeat' first
    | (with_reducible apply Keeps.foldl)
    | with_reducible assumption
    | with_reducible apply Keeps.refl
    | (with_reducible apply Keeps.after (m := 321) (State.setPlan_keeps ..) (by decide))
    | (with_reducible apply Keeps.after (m := 321) (State.streamMoved_keeps ..) (by decide))
    | (intro x; refine (fun hx : Keeps 321 s x => ?_) ?_; clear_value x; rotate_left; dsimp only [x]; rotate_right)
    | intro _
    | (with_reducible apply Keeps.ite)
    | lift_lets
    | split
    | dsimp only

theorem State.replace_keeps (s : State) : Keeps 321 s (State.replace s) := by
  unfold State.replace
  repeat' first
    | (with_reducible apply Keeps.foldl)
    | with_reducible assumption
    | with_reducible apply Keeps.refl
    | (with_reducible apply Keeps.after (m := 321) (State.moveShare_keeps ..) (by decide))
    | intro _
    | dsimp only

theorem State.planUnits_keeps (s : State) : Keeps 64 s (State.planUnits s) := by
  unfold State.planUnits
  repeat' first
    | with_reducible assumption
    | with_reducible apply Keeps.refl
    | (with_reducible apply Keeps.after (m := 64) (State.setPlan_keeps ..) (by decide))
    | intro _
    | (with_reducible apply Keeps.ite)
    | split
    | dsimp only

theorem State.replan_keeps (s : State) : Keeps 262495 s (State.replan s) := by
  unfold State.replan
  repeat' first
    | with_reducible apply Keeps.refl
    | (with_reducible apply Keeps.after (m := 262495) (State.refit_keeps ..) (by decide))
    | (with_reducible apply Keeps.after (m := 262495) (State.replace_keeps ..) (by decide))
    | (with_reducible apply Keeps.after (m := 262495) (State.planUnits_keeps ..) (by decide))
    | dsimp only

theorem State.charge_keeps (s : State) (a : Act) (res inst n : Nat) : Keeps 64 s (State.charge s a res inst n) := by
  unfold State.charge
  repeat' first
    | with_reducible assumption
    | with_reducible apply Keeps.refl
    | (with_reducible apply Keeps.after (m := 64) (State.usedWork_keeps ..) (by decide))
    | (with_reducible apply Keeps.after (m := 64) (State.setPlan_keeps ..) (by decide))
    | (intro x; refine (fun hx : Keeps 64 s x => ?_) ?_; clear_value x; rotate_left; dsimp only [x]; rotate_right)
    | intro _
    | (with_reducible apply Keeps.ite)
    | lift_lets
    | split
    | dsimp only

theorem State.dropEnded_keeps (s : State) : Keeps 64 s (State.dropEnded s) := by
  unfold State.dropEnded
  repeat' first
    | with_reducible assumption
    | with_reducible apply Keeps.refl
    | (with_reducible apply Keeps.after (m := 64) (State.setPlan_keeps ..) (by decide))
    | (intro x; refine (fun hx : Keeps 64 s x => ?_) ?_; clear_value x; rotate_left; dsimp only [x]; rotate_right)
    | intro _
    | lift_lets
    | split
    | dsimp only

end Sys2Proof.Machine
end

