-- ==== Sys2Proof/Laws/KeepsHeadLink.lean ====
section
/-! SUPPORT. What each function of Machine/HeadLink.lean may change. -/

namespace Sys2Proof.Machine

set_option linter.all false

theorem State.laneTx_keeps (s : State) (l : Nat) (p : Pkt) : Keeps 64 s (State.laneTx s l p) := by
  unfold State.laneTx
  repeat' first
    | with_reducible assumption
    | with_reducible apply Keeps.refl
    | (with_reducible apply Keeps.after (m := 64) (State.charge_keeps ..) (by decide))
    | (with_reducible apply Keeps.after (m := 64) (State.usedWork_keeps ..) (by decide))
    | (intro x; refine (fun hx : Keeps 64 s x => ?_) ?_; clear_value x; rotate_left; dsimp only [x]; rotate_right)
    | intro _
    | lift_lets
    | split
    | dsimp only

theorem State.putPkt_keeps (s : State) (l : Nat) (p : Pkt) : Keeps 262336 s (State.putPkt s l p) := by
  unfold State.putPkt
  repeat' first
    | with_reducible assumption
    | with_reducible apply Keeps.refl
    | (with_reducible apply Keeps.after (m := 262336) (State.laneTx_keeps ..) (by decide))
    | (with_reducible apply Keeps.after (m := 262336) (State.setHl_keeps ..) (by decide))
    | (with_reducible apply Keeps.after (m := 262336) (State.emit_keeps ..) (by decide))
    | (intro x; refine (fun hx : Keeps 262336 s x => ?_) ?_; clear_value x; rotate_left; dsimp only [x]; rotate_right)
    | intro _
    | (with_reducible apply Keeps.ite)
    | lift_lets
    | split
    | dsimp only

theorem State.sendPkt_keeps (s : State) (l : Nat) (p : Pkt) : Keeps 262336 s (State.sendPkt s l p) := by
  unfold State.sendPkt
  repeat' first
    | with_reducible assumption
    | with_reducible apply Keeps.refl
    | (with_reducible apply Keeps.after (m := 262336) (State.setHl_keeps ..) (by decide))
    | (with_reducible apply Keeps.after (m := 262336) (State.putPkt_keeps ..) (by decide))
    | intro _
    | (with_reducible apply Keeps.ite)
    | split
    | dsimp only

theorem State.hlEvt_keeps (s : State) (l b : Nat) : Keeps 1 s (State.hlEvt s l b) := by
  unfold State.hlEvt
  repeat' first
    | with_reducible apply Keeps.refl
    | (with_reducible apply Keeps.after (m := 1) (State.setEvt_keeps ..) (by decide))
    | dsimp only

theorem State.linkRises_keeps (s : State) (l : Nat) : Keeps 262559 s (State.linkRises s l) := by
  unfold State.linkRises
  repeat' first
    | (with_reducible apply Keeps.foldl)
    | with_reducible assumption
    | with_reducible apply Keeps.refl
    | (with_reducible apply Keeps.after (m := 262559) (State.setLinkMode_keeps ..) (by decide))
    | (with_reducible apply Keeps.after (m := 262559) (State.setHl_keeps ..) (by decide))
    | (with_reducible apply Keeps.after (m := 262559) (State.setStream_keeps ..) (by decide))
    | (intro x; refine (fun hx : Keeps 262559 s x => ?_) ?_; clear_value x; rotate_left; dsimp only [x]; rotate_right)
    | intro _
    | (with_reducible apply Keeps.ite)
    | lift_lets
    | split
    | dsimp only

theorem State.beaconEcho_keeps (s : State) (l : Nat) (p : Pkt) (at_ : Int) : Keeps 262559 s (State.beaconEcho s l p at_) := by
  unfold State.beaconEcho
  repeat' first
    | (with_reducible apply Keeps.foldl)
    | with_reducible assumption
    | with_reducible apply Keeps.refl
    | (with_reducible apply Keeps.after (m := 262559) (State.setHl_keeps ..) (by decide))
    | (with_reducible apply Keeps.after (m := 262559) (State.setLinkMode_keeps ..) (by decide))
    | (with_reducible apply Keeps.after (m := 262559) (State.hlEvt_keeps ..) (by decide))
    | (with_reducible apply Keeps.after (m := 262559) (State.linkRises_keeps ..) (by decide))
    | (intro x; refine (fun hx : Keeps 262559 s x => ?_) ?_; clear_value x; rotate_left; dsimp only [x]; rotate_right)
    | intro _
    | (with_reducible apply Keeps.ite)
    | lift_lets
    | split
    | dsimp only

theorem State.beaconSend_keeps (s : State) (l : Nat) (tNext tAfter : Int) : Keeps 262336 s (State.beaconSend s l tNext tAfter) := by
  unfold State.beaconSend
  repeat' first
    | with_reducible assumption
    | with_reducible apply Keeps.refl
    | (with_reducible apply Keeps.after (m := 262336) (State.setHl_keeps ..) (by decide))
    | (with_reducible apply Keeps.after (m := 262336) (State.sendPkt_keeps ..) (by decide))
    | (intro x; refine (fun hx : Keeps 262336 s x => ?_) ?_; clear_value x; rotate_left; dsimp only [x]; rotate_right)
    | intro _
    | (with_reducible apply Keeps.ite)
    | lift_lets
    | split
    | dsimp only

theorem State.vc2Lost_keeps (s : State) (l : Nat) : Keeps 128 s (State.vc2Lost s l) := by
  unfold State.vc2Lost
  repeat' first
    | with_reducible assumption
    | with_reducible apply Keeps.refl
    | (with_reducible apply Keeps.after (m := 128) (State.setHl_keeps ..) (by decide))
    | intro _
    | dsimp only

theorem State.lostPkt_keeps (s : State) (l : Nat) (c : List Byte) : Keeps 128 s (State.lostPkt s l c) := by
  unfold State.lostPkt
  repeat' first
    | with_reducible apply Keeps.refl
    | (with_reducible apply Keeps.after (m := 128) (State.vc2Lost_keeps ..) (by decide))
    | (with_reducible apply Keeps.ite)
    | split
    | dsimp only

theorem State.packetIn_keeps (s : State) (l : Nat) (bytes : List Byte) : Keeps 129 s (State.packetIn s l bytes) := by
  unfold State.packetIn
  repeat' first
    | with_reducible assumption
    | with_reducible apply Keeps.refl
    | (with_reducible apply Keeps.after (m := 129) (State.lostPkt_keeps ..) (by decide))
    | (with_reducible apply Keeps.after (m := 129) (State.hlEvt_keeps ..) (by decide))
    | (with_reducible apply Keeps.after (m := 129) (State.count_keeps ..) (by decide))
    | (with_reducible apply Keeps.after (m := 129) (State.countN_keeps ..) (by decide))
    | (with_reducible apply Keeps.after (m := 129) (State.vc2Lost_keeps ..) (by decide))
    | (with_reducible apply Keeps.after (m := 129) (State.setHl_keeps ..) (by decide))
    | (intro x; refine (fun hx : Keeps 129 s x => ?_) ?_; clear_value x; rotate_left; dsimp only [x]; rotate_right)
    | intro _
    | (with_reducible apply Keeps.ite)
    | lift_lets
    | split
    | dsimp only

theorem State.cellIn_keeps (s : State) (l : Nat) (c : List Byte) (sop : Bool) : Keeps 129 s (State.cellIn s l c sop) := by
  unfold State.cellIn
  repeat' first
    | with_reducible assumption
    | with_reducible apply Keeps.refl
    | (with_reducible apply Keeps.after (m := 129) (State.setHl_keeps ..) (by decide))
    | (with_reducible apply Keeps.after (m := 129) (State.lostPkt_keeps ..) (by decide))
    | (with_reducible apply Keeps.after (m := 129) (State.hlEvt_keeps ..) (by decide))
    | (with_reducible apply Keeps.after (m := 129) (State.count_keeps ..) (by decide))
    | (with_reducible apply Keeps.after (m := 129) (State.packetIn_keeps ..) (by decide))
    | (intro x; refine (fun hx : Keeps 129 s x => ?_) ?_; clear_value x; rotate_left; dsimp only [x]; rotate_right)
    | intro _
    | (with_reducible apply Keeps.ite)
    | lift_lets
    | split
    | dsimp only

theorem State.prbsCount_keeps (s : State) (n : Nat) (bits : List Bool) : Keeps 524417 s (State.prbsCount s n bits) := by
  unfold State.prbsCount
  repeat' first
    | with_reducible assumption
    | with_reducible apply Keeps.refl
    | (with_reducible apply Keeps.after (m := 524417) (State.useFree_keeps ..) (by decide))
    | (with_reducible apply Keeps.after (m := 524417) (State.add64_keeps ..) (by decide))
    | (with_reducible apply Keeps.after (m := 524417) (State.setLane_keeps ..) (by decide))
    | (intro x; refine (fun hx : Keeps 524417 s x => ?_) ?_; clear_value x; rotate_left; dsimp only [x]; rotate_right)
    | intro _
    | (with_reducible apply Keeps.ite)
    | lift_lets
    | split
    | dsimp only

theorem State.resync_keeps (s : State) (l : Nat) : Keeps 129 s (State.resync s l) := by
  unfold State.resync
  repeat' first
    | with_reducible assumption
    | with_reducible apply Keeps.refl
    | (with_reducible apply Keeps.after (m := 129) (State.lostPkt_keeps ..) (by decide))
    | (with_reducible apply Keeps.after (m := 129) (State.countN_keeps ..) (by decide))
    | (with_reducible apply Keeps.after (m := 129) (State.setHl_keeps ..) (by decide))
    | (intro x; refine (fun hx : Keeps 129 s x => ?_) ?_; clear_value x; rotate_left; dsimp only [x]; rotate_right)
    | intro _
    | lift_lets
    | dsimp only

theorem State.takeCodeword_keeps (s : State) (l : Nat) (msg : Option (List Bool)) : Keeps 129 s (State.takeCodeword s l msg) := by
  unfold State.takeCodeword
  repeat' first
    | (with_reducible apply Keeps.foldl)
    | with_reducible assumption
    | with_reducible apply Keeps.refl
    | (with_reducible apply Keeps.after (m := 129) (State.setHl_keeps ..) (by decide))
    | (with_reducible apply Keeps.after (m := 129) (State.resync_keeps ..) (by decide))
    | (with_reducible apply Keeps.after (m := 129) (State.cellIn_keeps ..) (by decide))
    | (intro x; refine (fun hx : Keeps 129 s x => ?_) ?_; clear_value x; rotate_left; dsimp only [x]; rotate_right)
    | intro _
    | (with_reducible apply Keeps.ite)
    | lift_lets
    | split
    | dsimp only

theorem State.takeEarly_keeps (s : State) (l : Nat) : Keeps 129 s (State.takeEarly s l) := by
  unfold State.takeEarly
  repeat' first
    | (with_reducible apply Keeps.foldl)
    | with_reducible assumption
    | with_reducible apply Keeps.refl
    | (with_reducible apply Keeps.after (m := 129) (State.takeCodeword_keeps ..) (by decide))
    | (with_reducible apply Keeps.after (m := 129) (State.setHl_keeps ..) (by decide))
    | intro _
    | split
    | dsimp only

theorem State.orderIn_keeps (s : State) (l seq : Nat) (msg : Option (List Bool)) : Keeps 129 s (State.orderIn s l seq msg) := by
  unfold State.orderIn
  repeat' first
    | with_reducible assumption
    | with_reducible apply Keeps.refl
    | (with_reducible apply Keeps.after (m := 129) (State.takeEarly_keeps ..) (by decide))
    | (with_reducible apply Keeps.after (m := 129) (State.takeCodeword_keeps ..) (by decide))
    | (with_reducible apply Keeps.after (m := 129) (State.setHl_keeps ..) (by decide))
    | (with_reducible apply Keeps.after (m := 129) (State.hlEvt_keeps ..) (by decide))
    | (with_reducible apply Keeps.after (m := 129) (State.resync_keeps ..) (by decide))
    | (intro x; refine (fun hx : Keeps 129 s x => ?_) ?_; clear_value x; rotate_left; dsimp only [x]; rotate_right)
    | intro _
    | (with_reducible apply Keeps.ite)
    | lift_lets
    | split
    | dsimp only

theorem State.lostIn_keeps (s : State) (n l : Nat) : Keeps 129 s (State.lostIn s n l) := by
  unfold State.lostIn
  repeat' first
    | with_reducible assumption
    | with_reducible apply Keeps.refl
    | (with_reducible apply Keeps.after (m := 129) (State.orderIn_keeps ..) (by decide))
    | (with_reducible apply Keeps.after (m := 129) (State.setSwap_keeps ..) (by decide))
    | (intro x; refine (fun hx : Keeps 129 s x => ?_) ?_; clear_value x; rotate_left; dsimp only [x]; rotate_right)
    | intro _
    | (with_reducible apply Keeps.ite)
    | lift_lets
    | split
    | dsimp only

theorem State.spareWord_keeps (s : State) (n : Nat) (bits : List Bool) : Keeps 129 s (State.spareWord s n bits) := by
  unfold State.spareWord
  repeat' first
    | with_reducible assumption
    | with_reducible apply Keeps.refl
    | (with_reducible apply Keeps.after (m := 129) (State.add64_keeps ..) (by decide))
    | (with_reducible apply Keeps.after (m := 129) (State.setLane_keeps ..) (by decide))
    | (intro x; refine (fun hx : Keeps 129 s x => ?_) ?_; clear_value x; rotate_left; dsimp only [x]; rotate_right)
    | intro _
    | lift_lets
    | dsimp only

theorem State.messageIn_keeps (s : State) (n l : Nat) (bits : List Bool) : Keeps 129 s (State.messageIn s n l bits) := by
  unfold State.messageIn
  repeat' first
    | with_reducible assumption
    | with_reducible apply Keeps.refl
    | (with_reducible apply Keeps.after (m := 129) (State.lostIn_keeps ..) (by decide))
    | (with_reducible apply Keeps.after (m := 129) (State.hlEvt_keeps ..) (by decide))
    | (with_reducible apply Keeps.after (m := 129) (State.orderIn_keeps ..) (by decide))
    | (with_reducible apply Keeps.after (m := 129) (State.setHl_keeps ..) (by decide))
    | (intro x; refine (fun hx : Keeps 129 s x => ?_) ?_; clear_value x; rotate_left; dsimp only [x]; rotate_right)
    | intro _
    | (with_reducible apply Keeps.ite)
    | lift_lets
    | split
    | dsimp only

theorem State.codewordBits_keeps (s : State) (n : Nat) (bits : List Bool) : Keeps 262297 s (State.codewordBits s n bits) := by
  unfold State.codewordBits
  repeat' first
    | with_reducible assumption
    | with_reducible apply Keeps.refl
    | (with_reducible apply Keeps.after (m := 262297) (State.add64_keeps ..) (by decide))
    | (with_reducible apply Keeps.after (m := 262297) (State.spareWord_keeps ..) (by decide))
    | (with_reducible apply Keeps.after (m := 262297) (State.laneEvt_keeps ..) (by decide))
    | (with_reducible apply Keeps.after (m := 262297) (State.setLane_keeps ..) (by decide))
    | (with_reducible apply Keeps.after (m := 262297) (State.lostIn_keeps ..) (by decide))
    | (with_reducible apply Keeps.after (m := 262297) (State.messageIn_keeps ..) (by decide))
    | (intro x; refine (fun hx : Keeps 262297 s x => ?_) ?_; clear_value x; rotate_left; dsimp only [x]; rotate_right)
    | intro _
    | (with_reducible apply Keeps.ite)
    | lift_lets
    | split
    | dsimp only

theorem State.codeword_keeps (s : State) (n : Nat) (levels : List Nat) : Keeps 786585 s (State.codeword s n levels) := by
  unfold State.codeword
  repeat' first
    | with_reducible assumption
    | with_reducible apply Keeps.refl
    | (with_reducible apply Keeps.after (m := 786585) (State.prbsCount_keeps ..) (by decide))
    | (with_reducible apply Keeps.after (m := 786585) (State.setLane_keeps ..) (by decide))
    | (with_reducible apply Keeps.after (m := 786585) (State.lostIn_keeps ..) (by decide))
    | (with_reducible apply Keeps.after (m := 786585) (State.codewordBits_keeps ..) (by decide))
    | (intro x; refine (fun hx : Keeps 786585 s x => ?_) ?_; clear_value x; rotate_left; dsimp only [x]; rotate_right)
    | intro _
    | (with_reducible apply Keeps.ite)
    | lift_lets
    | split
    | dsimp only

theorem State.creditSend_keeps (s : State) (l : Nat) : Keeps 262336 s (State.creditSend s l) := by
  unfold State.creditSend
  repeat' first
    | with_reducible assumption
    | with_reducible apply Keeps.refl
    | (with_reducible apply Keeps.after (m := 262336) (State.setHl_keeps ..) (by decide))
    | (with_reducible apply Keeps.after (m := 262336) (State.sendPkt_keeps ..) (by decide))
    | (intro x; refine (fun hx : Keeps 262336 s x => ?_) ?_; clear_value x; rotate_left; dsimp only [x]; rotate_right)
    | intro _
    | (with_reducible apply Keeps.ite)
    | lift_lets
    | split
    | dsimp only

theorem State.flushVc1_keeps (s : State) (l : Nat) (n : Nat) : Keeps 262336 s (State.flushVc1 s l n) := by
  induction n generalizing s with
  | zero => exact Keeps.refl _ _
  | succ n ih =>
    unfold State.flushVc1
    repeat' first
      | with_reducible assumption
      | with_reducible apply Keeps.refl
      | (with_reducible apply Keeps.after (m := 262336) (ih ..) (by decide))
      | (with_reducible apply Keeps.after (m := 262336) (State.putPkt_keeps ..) (by decide))
      | (with_reducible apply Keeps.after (m := 262336) (State.setHl_keeps ..) (by decide))
      | intro _
      | (with_reducible apply Keeps.ite)
      | split
      | dsimp only


theorem State.onPkt_keeps {mk : Nat} {s t0 : State} {l : Nat} {ty : Nat} {p : Pkt} {f : State → State} (hm : 128 ||| mk = mk)
    (hf : ∀ a0, Keeps mk s a0 → Keeps mk s (f a0)) (a : Keeps mk s t0) : Keeps mk s (State.onPkt t0 l ty p f) := by
  unfold State.onPkt
  repeat' first
    | with_reducible assumption
    | with_reducible apply Keeps.refl
    | (with_reducible apply hf)
    | (with_reducible apply Keeps.after (m := mk) (State.setHl_keeps ..) (Keeps.sub hm (by decide)))
    | exact Keeps.bit hm (by decide)
    | (intro x; refine (fun hx : Keeps mk s x => ?_) ?_; clear_value x; rotate_left; dsimp only [x]; rotate_right)
    | intro _
    | (with_reducible apply Keeps.ite)
    | lift_lets
    | split
    | dsimp only

theorem State.queueSettings_keeps (s : State) (t : Ticket) (st l f posted tag : Nat) (ent : List Byte) (tick : Int) (slipped : Bool) : Keeps 549756076185 s (State.queueSettings s t st l f posted tag ent tick slipped) := by
  unfold State.queueSettings
  repeat' first
    | with_reducible assumption
    | with_reducible apply Keeps.refl
    | (with_reducible apply Keeps.after (m := 549756076185) (State.complete_keeps ..) (by decide))
    | (with_reducible apply Keeps.after (m := 549756076185) (State.setHl_keeps ..) (by decide))
    | (intro x; refine (fun hx : Keeps 549756076185 s x => ?_) ?_; clear_value x; rotate_left; dsimp only [x]; rotate_right)
    | intro _
    | (with_reducible apply Keeps.ite)
    | lift_lets
    | split
    | dsimp only

theorem State.regCompletion_keeps (s : State) (l : Nat) (p : Pkt) : Keeps 549756076185 s (State.regCompletion s l p) := by
  unfold State.regCompletion
  repeat' first
    | with_reducible assumption
    | with_reducible apply Keeps.refl
    | (with_reducible apply Keeps.after (m := 549756076185) (State.setHl_keeps ..) (by decide))
    | (with_reducible apply Keeps.after (m := 549756076185) (State.hostWrite_keeps ..) (by decide))
    | (with_reducible apply Keeps.after (m := 549756076185) (State.complete_keeps ..) (by decide))
    | (intro x; refine (fun hx : Keeps 549756076185 s x => ?_) ?_; clear_value x; rotate_left; dsimp only [x]; rotate_right)
    | intro _
    | (with_reducible apply Keeps.ite)
    | lift_lets
    | split
    | dsimp only

theorem State.regTimeout_keeps (s : State) (l : Nat) : Keeps 549756076185 s (State.regTimeout s l) := by
  unfold State.regTimeout
  repeat' first
    | (with_reducible apply Keeps.foldl)
    | with_reducible assumption
    | with_reducible apply Keeps.refl
    | (with_reducible apply Keeps.after (m := 549756076185) (State.complete_keeps ..) (by decide))
    | (with_reducible apply Keeps.after (m := 549756076185) (State.count_keeps ..) (by decide))
    | (with_reducible apply Keeps.after (m := 549756076185) (State.hlEvt_keeps ..) (by decide))
    | (with_reducible apply Keeps.after (m := 549756076185) (State.setHl_keeps ..) (by decide))
    | (intro x; refine (fun hx : Keeps 549756076185 s x => ?_) ?_; clear_value x; rotate_left; dsimp only [x]; rotate_right)
    | intro _
    | lift_lets
    | dsimp only

theorem State.sensorReg_keeps (s : State) (d : Desc) (t : Ticket) : Keeps 262336 s (State.sensorReg s d t) := by
  unfold State.sensorReg
  repeat' first
    | with_reducible assumption
    | with_reducible apply Keeps.refl
    | (with_reducible apply Keeps.after (m := 262336) (State.setHl_keeps ..) (by decide))
    | (with_reducible apply Keeps.after (m := 262336) (State.sendPkt_keeps ..) (by decide))
    | (intro x; refine (fun hx : Keeps 262336 s x => ?_) ?_; clear_value x; rotate_left; dsimp only [x]; rotate_right)
    | intro _
    | (with_reducible apply Keeps.ite)
    | lift_lets
    | split
    | dsimp only

theorem State.settingsAck_keeps (s : State) (l : Nat) (p : Pkt) : Keeps 262169 s (State.settingsAck s l p) := by
  unfold State.settingsAck
  repeat' first
    | with_reducible assumption
    | with_reducible apply Keeps.refl
    | (with_reducible apply Keeps.after (m := 262169) (State.count_keeps ..) (by decide))
    | (with_reducible apply Keeps.after (m := 262169) (State.hlEvt_keeps ..) (by decide))
    | (with_reducible apply Keeps.after (m := 262169) (State.post_keeps ..) (by decide))
    | (intro x; refine (fun hx : Keeps 262169 s x => ?_) ?_; clear_value x; rotate_left; dsimp only [x]; rotate_right)
    | intro _
    | (with_reducible apply Keeps.ite)
    | lift_lets
    | split
    | dsimp only

theorem State.settingsPost_keeps (s : State) (d : Desc) (t : Ticket) : Keeps 549756076185 s (State.settingsPost s d t) := by
  unfold State.settingsPost
  repeat' first
    | with_reducible assumption
    | with_reducible apply Keeps.refl
    | (with_reducible apply Keeps.after (m := 549756076185) (State.queueSettings_keeps ..) (by decide))
    | (with_reducible apply Keeps.after (m := 549756076185) (State.complete_keeps ..) (by decide))
    | (intro x; refine (fun hx : Keeps 549756076185 s x => ?_) ?_; clear_value x; rotate_left; dsimp only [x]; rotate_right)
    | intro _
    | (with_reducible apply Keeps.ite)
    | lift_lets
    | split
    | dsimp only

theorem State.settingsSend_keeps (s : State) (l : Nat) : Keeps 262361 s (State.settingsSend s l) := by
  unfold State.settingsSend
  repeat' first
    | (with_reducible apply Keeps.foldl)
    | with_reducible assumption
    | with_reducible apply Keeps.refl
    | (with_reducible apply Keeps.after (m := 262361) (State.setHl_keeps ..) (by decide))
    | (with_reducible apply Keeps.after (m := 262361) (State.sendPkt_keeps ..) (by decide))
    | (with_reducible apply Keeps.after (m := 262361) (State.post_keeps ..) (by decide))
    | (with_reducible apply Keeps.after (m := 262361) (State.hlEvt_keeps ..) (by decide))
    | (intro x; refine (fun hx : Keeps 262361 s x => ?_) ?_; clear_value x; rotate_left; dsimp only [x]; rotate_right)
    | intro _
    | (with_reducible apply Keeps.ite)
    | lift_lets
    | split
    | dsimp only

theorem execBeaconEcho_keeps (l : Nat) (p : Pkt) (at_ : Int) (s : State) {nxt : State} (e : execBeaconEcho l p at_ s = .next nxt) : Keeps 262559 s nxt := by
  unfold execBeaconEcho at e
  first | refine Keeps.go ?_ e | refine Keeps.goRead ?_ e | cases e
  try dsimp only
  repeat' first
    | with_reducible assumption
    | with_reducible apply Keeps.refl
    | (with_reducible apply State.onPkt_keeps (mk := 262559) (by decide))
    | (with_reducible apply Keeps.after (m := 262559) (State.beaconEcho_keeps ..) (by decide))
    | intro _
    | dsimp only

theorem execBeaconSend_keeps (l : Nat) (tNext tAfter : Int) (s : State) {nxt : State} (e : execBeaconSend l tNext tAfter s = .next nxt) : Keeps 262336 s nxt := by
  unfold execBeaconSend at e
  first | refine Keeps.go ?_ e | refine Keeps.goRead ?_ e | cases e
  try dsimp only
  repeat' first
    | with_reducible assumption
    | with_reducible apply Keeps.refl
    | (with_reducible apply Keeps.after (m := 262336) (State.beaconSend_keeps ..) (by decide))
    | intro _
    | dsimp only

theorem execCapability_keeps (l : Nat) (p : Pkt) (s : State) {nxt : State} (e : execCapability l p s = .next nxt) : Keeps 262559 s nxt := by
  unfold execCapability at e
  first | refine Keeps.go ?_ e | refine Keeps.goRead ?_ e | cases e
  try dsimp only
  repeat' first
    | with_reducible assumption
    | with_reducible apply Keeps.refl
    | (with_reducible apply State.onPkt_keeps (mk := 262559) (by decide))
    | (with_reducible apply Keeps.after (m := 262559) (State.linkRises_keeps ..) (by decide))
    | (with_reducible apply Keeps.after (m := 262559) (State.setHl_keeps ..) (by decide))
    | intro _
    | dsimp only

theorem execCodewordReceive_keeps (n : Nat) (levels : List Nat) (s : State) {nxt : State} (e : execCodewordReceive n levels s = .next nxt) : Keeps 786585 s nxt := by
  unfold execCodewordReceive at e
  first | refine Keeps.go ?_ e | refine Keeps.goRead ?_ e | cases e
  try dsimp only
  repeat' first
    | with_reducible assumption
    | with_reducible apply Keeps.refl
    | (with_reducible apply Keeps.after (m := 786585) (State.codeword_keeps ..) (by decide))
    | intro _
    | dsimp only

theorem execCredit_keeps (l : Nat) (p : Pkt) (s : State) {nxt : State} (e : execCredit l p s = .next nxt) : Keeps 262336 s nxt := by
  unfold execCredit at e
  first | refine Keeps.go ?_ e | refine Keeps.goRead ?_ e | cases e
  try dsimp only
  repeat' first
    | with_reducible assumption
    | with_reducible apply Keeps.refl
    | (with_reducible apply State.onPkt_keeps (mk := 262336) (by decide))
    | (with_reducible apply Keeps.after (m := 262336) (State.flushVc1_keeps ..) (by decide))
    | (with_reducible apply Keeps.after (m := 262336) (State.setHl_keeps ..) (by decide))
    | intro _
    | dsimp only

theorem execCreditSend_keeps (l : Nat) (s : State) {nxt : State} (e : execCreditSend l s = .next nxt) : Keeps 262336 s nxt := by
  unfold execCreditSend at e
  first | refine Keeps.go ?_ e | refine Keeps.goRead ?_ e | cases e
  try dsimp only
  repeat' first
    | with_reducible assumption
    | with_reducible apply Keeps.refl
    | (with_reducible apply Keeps.after (m := 262336) (State.creditSend_keeps ..) (by decide))
    | intro _
    | dsimp only

theorem execRegCompletion_keeps (l : Nat) (p : Pkt) (s : State) {nxt : State} (e : execRegCompletion l p s = .next nxt) : Keeps 549756076185 s nxt := by
  unfold execRegCompletion at e
  first | refine Keeps.go ?_ e | refine Keeps.goRead ?_ e | cases e
  try dsimp only
  repeat' first
    | with_reducible assumption
    | with_reducible apply Keeps.refl
    | (with_reducible apply State.onPkt_keeps (mk := 549756076185) (by decide))
    | (with_reducible apply Keeps.after (m := 549756076185) (State.regCompletion_keeps ..) (by decide))
    | intro _
    | dsimp only

theorem execRegTimeout_keeps (l : Nat) (s : State) {nxt : State} (e : execRegTimeout l s = .next nxt) : Keeps 549756076185 s nxt := by
  unfold execRegTimeout at e
  first | refine Keeps.go ?_ e | refine Keeps.goRead ?_ e | cases e
  try dsimp only
  repeat' first
    | with_reducible assumption
    | with_reducible apply Keeps.refl
    | (with_reducible apply Keeps.after (m := 549756076185) (State.regTimeout_keeps ..) (by decide))
    | intro _
    | dsimp only

theorem execSensorReg_keeps (d : Desc) (s : State) {nxt : State} (e : execSensorReg d s = .next nxt) : Keeps 549756076249 s nxt := by
  unfold execSensorReg at e
  first | refine Keeps.go ?_ e | refine Keeps.goRead ?_ e | cases e
  try dsimp only
  repeat' first
    | with_reducible assumption
    | with_reducible apply Keeps.refl
    | (with_reducible apply State.runCmd_keeps (mk := 549756076249) (by decide))
    | (with_reducible apply Keeps.after (m := 549756076249) (State.sensorReg_keeps ..) (by decide))
    | intro _
    | dsimp only

theorem execSettingsAck_keeps (l : Nat) (p : Pkt) (s : State) {nxt : State} (e : execSettingsAck l p s = .next nxt) : Keeps 262297 s nxt := by
  unfold execSettingsAck at e
  first | refine Keeps.go ?_ e | refine Keeps.goRead ?_ e | cases e
  try dsimp only
  repeat' first
    | with_reducible assumption
    | with_reducible apply Keeps.refl
    | (with_reducible apply State.onPkt_keeps (mk := 262297) (by decide))
    | (with_reducible apply Keeps.after (m := 262297) (State.settingsAck_keeps ..) (by decide))
    | intro _
    | dsimp only

theorem execSettingsPost_keeps (d : Desc) (s : State) {nxt : State} (e : execSettingsPost d s = .next nxt) : Keeps 549756076185 s nxt := by
  unfold execSettingsPost at e
  first | refine Keeps.go ?_ e | refine Keeps.goRead ?_ e | cases e
  try dsimp only
  repeat' first
    | with_reducible assumption
    | with_reducible apply Keeps.refl
    | (with_reducible apply State.runCmd_keeps (mk := 549756076185) (by decide))
    | (with_reducible apply Keeps.after (m := 549756076185) (State.settingsPost_keeps ..) (by decide))
    | intro _
    | dsimp only

theorem execSettingsSend_keeps (l : Nat) (s : State) {nxt : State} (e : execSettingsSend l s = .next nxt) : Keeps 262361 s nxt := by
  unfold execSettingsSend at e
  first | refine Keeps.go ?_ e | refine Keeps.goRead ?_ e | cases e
  try dsimp only
  repeat' first
    | with_reducible assumption
    | with_reducible apply Keeps.refl
    | (with_reducible apply Keeps.after (m := 262361) (State.settingsSend_keeps ..) (by decide))
    | intro _
    | dsimp only

end Sys2Proof.Machine
end

