-- ==== Sys2Proof/Laws/KeepsIngest.lean ====
section
/-! SUPPORT. What each function of Machine/Ingest.lean may change. -/

namespace Sys2Proof.Machine

set_option linter.all false

theorem State.putTrigger_keeps (s : State) (st n epoch flags : Nat) (t : Int) : Keeps 262336 s (State.putTrigger s st n epoch flags t) := by
  unfold State.putTrigger
  repeat' first
    | with_reducible apply Keeps.refl
    | (with_reducible apply Keeps.after (m := 262336) (State.sendPkt_keeps ..) (by decide))
    | dsimp only

theorem State.cancelFrom_keeps (s : State) (r : Nat) (b : Int) : Keeps 262592 s (State.cancelFrom s r b) := by
  unfold State.cancelFrom
  repeat' first
    | (with_reducible apply Keeps.foldl)
    | with_reducible assumption
    | with_reducible apply Keeps.refl
    | (with_reducible apply Keeps.after (m := 262592) (State.putTrigger_keeps ..) (by decide))
    | (with_reducible apply Keeps.after (m := 262592) (State.freeSlot_keeps ..) (by decide))
    | (with_reducible apply Keeps.after (m := 262592) (State.setStore_keeps ..) (by decide))
    | (intro x; refine (fun hx : Keeps 262592 s x => ?_) ?_; clear_value x; rotate_left; dsimp only [x]; rotate_right)
    | intro _
    | lift_lets
    | split
    | dsimp only

theorem State.canary_keeps (s : State) (f : FrameSt) (cause reason : Nat) : Keeps 262175 s (State.canary s f cause reason) := by
  unfold State.canary
  repeat' first
    | with_reducible apply Keeps.refl
    | (with_reducible apply Keeps.after (m := 262175) (State.healthFail_keeps ..) (by decide))
    | (with_reducible apply Keeps.after (m := 262175) (State.post_keeps ..) (by decide))
    | (with_reducible apply Keeps.after (m := 262175) (State.setEvt_keeps ..) (by decide))
    | dsimp only

theorem State.endInput_keeps (s : State) (id : Nat) (cause : FEnd) : Keeps 256 s (State.endInput s id cause) := by
  unfold State.endInput
  repeat' first
    | with_reducible assumption
    | with_reducible apply Keeps.refl
    | (with_reducible apply Keeps.after (m := 256) (State.setFrame_keeps ..) (by decide))
    | (intro x; refine (fun hx : Keeps 256 s x => ?_) ?_; clear_value x; rotate_left; dsimp only [x]; rotate_right)
    | intro _
    | (with_reducible apply Keeps.ite)
    | lift_lets
    | split
    | dsimp only

theorem State.canaryFe_keeps (s : State) (st : Nat) : Keeps 262431 s (State.canaryFe s st) := by
  unfold State.canaryFe
  repeat' first
    | with_reducible assumption
    | with_reducible apply Keeps.refl
    | (with_reducible apply Keeps.after (m := 262431) (State.canary_keeps ..) (by decide))
    | (with_reducible apply Keeps.after (m := 262431) (State.endInput_keeps ..) (by decide))
    | intro _
    | split
    | dsimp only

theorem State.previewGone_keeps (s : State) (g : FrameSt) : Keeps 17180137241 s (State.previewGone s g) := by
  unfold State.previewGone
  repeat' first
    | (with_reducible apply Keeps.foldl)
    | with_reducible assumption
    | with_reducible apply Keeps.refl
    | (with_reducible apply Keeps.after (m := 17180137241) (State.setFrame_keeps ..) (by decide))
    | (with_reducible apply Keeps.after (m := 17180137241) (State.releaseIf_keeps ..) (by decide))
    | (with_reducible apply Keeps.after (m := 17180137241) (State.setEvt_keeps ..) (by decide))
    | (with_reducible apply Keeps.after (m := 17180137241) (State.count_keeps ..) (by decide))
    | (with_reducible apply Keeps.after (m := 17180137241) (State.shed_keeps ..) (by decide))
    | (intro x; refine (fun hx : Keeps 17180137241 s x => ?_) ?_; clear_value x; rotate_left; dsimp only [x]; rotate_right)
    | intro _
    | (with_reducible apply Keeps.ite)
    | lift_lets
    | split
    | dsimp only
    | (with_reducible apply Keeps.mover (m := 17180137241) (by decide))

theorem State.openNow_keeps (s : State) (id : Nat) : Keeps 17180137245 s (State.openNow s id) := by
  unfold State.openNow
  repeat' first
    | (with_reducible apply Keeps.foldl)
    | with_reducible assumption
    | with_reducible apply Keeps.refl
    | (with_reducible apply Keeps.after (m := 17180137245) (State.openFrame_keeps ..) (by decide))
    | (with_reducible apply Keeps.after (m := 17180137245) (State.previewGone_keeps ..) (by decide))
    | (intro x; refine (fun hx : Keeps 17180137245 s x => ?_) ?_; clear_value x; rotate_left; dsimp only [x]; rotate_right)
    | intro _
    | (with_reducible apply Keeps.ite)
    | lift_lets
    | split
    | dsimp only

theorem State.canaryFs_keeps (s : State) (st : Nat) : Keeps 17180137247 s (State.canaryFs s st) := by
  unfold State.canaryFs
  repeat' first
    | with_reducible assumption
    | with_reducible apply Keeps.refl
    | (with_reducible apply Keeps.after (m := 17180137247) (State.openNow_keeps ..) (by decide))
    | (with_reducible apply Keeps.after (m := 17180137247) (State.canary_keeps ..) (by decide))
    | (with_reducible apply Keeps.after (m := 17180137247) (State.endInput_keeps ..) (by decide))
    | (intro x; refine (fun hx : Keeps 17180137247 s x => ?_) ?_; clear_value x; rotate_left; dsimp only [x]; rotate_right)
    | intro _
    | (with_reducible apply Keeps.ite)
    | lift_lets
    | split
    | dsimp only

theorem State.triggerFrame_keeps (s : State) (r st n : Nat) (t : Int) (imm : Bool) : Keeps 17180136409 s (State.triggerFrame s r st n t imm) := by
  unfold State.triggerFrame
  repeat' first
    | with_reducible assumption
    | with_reducible apply Keeps.refl
    | (with_reducible apply Keeps.after (m := 17180136409) (State.setStore_keeps ..) (by decide))
    | (with_reducible apply Keeps.after (m := 17180136409) (State.setStream_keeps ..) (by decide))
    | (with_reducible apply Keeps.after (m := 17180136409) (State.allocSlot_keeps (e := ‹_›) ..) (by decide))
    | (with_reducible apply Keeps.after (m := 17180136409) (State.prerollLeave_keeps ..) (by decide))
    | (with_reducible apply Keeps.after (m := 17180136409) (State.storeEvt_keeps ..) (by decide))
    | (with_reducible apply Keeps.after (m := 17180136409) (State.putTrigger_keeps ..) (by decide))
    | (intro x; refine (fun hx : Keeps 17180136409 s x => ?_) ?_; clear_value x; rotate_left; dsimp only [x]; rotate_right)
    | intro _
    | (with_reducible apply Keeps.ite)
    | lift_lets
    | split
    | dsimp only

theorem State.triggerRig_keeps (s : State) (r : Nat) (t : Int) (imm : Bool) : Keeps 17180136441 s (State.triggerRig s r t imm) := by
  unfold State.triggerRig
  repeat' first
    | (with_reducible apply Keeps.foldl)
    | with_reducible assumption
    | with_reducible apply Keeps.refl
    | (with_reducible apply Keeps.after (m := 17180136441) (State.setTimer_keeps ..) (by decide))
    | (with_reducible apply Keeps.after (m := 17180136441) (State.triggerFrame_keeps ..) (by decide))
    | (intro x; refine (fun hx : Keeps 17180136441 s x => ?_) ?_; clear_value x; rotate_left; dsimp only [x]; rotate_right)
    | intro _
    | (with_reducible apply Keeps.ite)
    | lift_lets
    | split
    | dsimp only

theorem State.frameEvent_keeps (s : State) (r : Nat) (t : Int) : Keeps 17180136441 s (State.frameEvent s r t) := by
  unfold State.frameEvent
  repeat' first
    | with_reducible assumption
    | with_reducible apply Keeps.refl
    | (with_reducible apply Keeps.after (m := 17180136441) (State.triggerRig_keeps ..) (by decide))
    | (with_reducible apply Keeps.after (m := 17180136441) (State.count_keeps ..) (by decide))
    | (intro x; refine (fun hx : Keeps 17180136441 s x => ?_) ?_; clear_value x; rotate_left; dsimp only [x]; rotate_right)
    | intro _
    | (with_reducible apply Keeps.ite)
    | lift_lets
    | split
    | dsimp only

theorem State.unexpected_keeps (s : State) (l : Nat) : Keeps 1 s (State.unexpected s l) := by
  unfold State.unexpected
  repeat' first
    | with_reducible apply Keeps.refl
    | (with_reducible apply Keeps.after (m := 1) (State.hlEvt_keeps ..) (by decide))
    | (with_reducible apply Keeps.after (m := 1) (State.count_keeps ..) (by decide))
    | dsimp only

theorem State.latePkt_keeps (s : State) (st : Nat) : Keeps 1 s (State.latePkt s st) := by
  unfold State.latePkt
  repeat' first
    | with_reducible apply Keeps.refl
    | (with_reducible apply Keeps.after (m := 1) (State.count_keeps ..) (by decide))
    | dsimp only

theorem State.stray_keeps (s : State) (l st n : Nat) : Keeps 1 s (State.stray s l st n) := by
  unfold State.stray
  repeat' first
    | with_reducible apply Keeps.refl
    | (with_reducible apply Keeps.after (m := 1) (State.latePkt_keeps ..) (by decide))
    | (with_reducible apply Keeps.after (m := 1) (State.unexpected_keeps ..) (by decide))
    | (with_reducible apply Keeps.ite)
    | split
    | dsimp only

theorem State.onFrame_keeps {mk : Nat} {s t0 : State} {l : Nat} {p : Pkt} {f : Nat → Option FrameSt → State → State} (hm : 1 ||| mk = mk)
    (hf : ∀ a0 a1 a2, Keeps mk s a2 → Keeps mk s (f a0 a1 a2)) (a : Keeps mk s t0) : Keeps mk s (State.onFrame t0 l p f) := by
  unfold State.onFrame
  repeat' first
    | with_reducible assumption
    | with_reducible apply Keeps.refl
    | (with_reducible apply hf)
    | (with_reducible apply Keeps.after (m := mk) (State.unexpected_keeps ..) (Keeps.sub hm (by decide)))
    | (with_reducible apply Keeps.after (m := mk) (State.stray_keeps ..) (Keeps.sub hm (by decide)))
    | (with_reducible apply Keeps.after (m := mk) (State.countN_keeps ..) (Keeps.sub hm (by decide)))
    | exact Keeps.bit hm (by decide)
    | (intro x; refine (fun hx : Keeps mk s x => ?_) ?_; clear_value x; rotate_left; dsimp only [x]; rotate_right)
    | intro _
    | (with_reducible apply Keeps.ite)
    | lift_lets
    | split
    | dsimp only

theorem State.frameEnd_keeps (s : State) (l : Nat) (p : Pkt) : Keeps 17180137245 s (State.frameEnd s l p) := by
  unfold State.frameEnd
  repeat' first
    | with_reducible assumption
    | with_reducible apply Keeps.refl
    | (with_reducible apply State.onFrame_keeps (mk := 17180137245) (by decide))
    | (with_reducible apply Keeps.after (m := 17180137245) (State.latePkt_keeps ..) (by decide))
    | (with_reducible apply Keeps.after (m := 17180137245) (State.openNow_keeps ..) (by decide))
    | (with_reducible apply Keeps.after (m := 17180137245) (State.endInput_keeps ..) (by decide))
    | (with_reducible apply Keeps.after (m := 17180137245) (State.setFrame_keeps ..) (by decide))
    | (intro x; refine (fun hx : Keeps 17180137245 s x => ?_) ?_; clear_value x; rotate_left; dsimp only [x]; rotate_right)
    | intro _
    | (with_reducible apply Keeps.ite)
    | lift_lets
    | split
    | dsimp only

theorem State.frameStartOn_keeps (s : State) (st : Nat) (x : FrameSt) (p : Pkt) : Keeps 17180137245 s (State.frameStartOn s st x p) := by
  unfold State.frameStartOn
  repeat' first
    | (with_reducible apply Keeps.foldl)
    | with_reducible assumption
    | with_reducible apply Keeps.refl
    | (with_reducible apply Keeps.after (m := 17180137245) (State.endInput_keeps ..) (by decide))
    | (with_reducible apply Keeps.after (m := 17180137245) (State.setFrame_keeps ..) (by decide))
    | (with_reducible apply Keeps.after (m := 17180137245) (State.openNow_keeps ..) (by decide))
    | (intro x; refine (fun hx : Keeps 17180137245 s x => ?_) ?_; clear_value x; rotate_left; dsimp only [x]; rotate_right)
    | intro _
    | lift_lets
    | dsimp only

theorem State.frameStart_keeps (s : State) (l : Nat) (p : Pkt) : Keeps 17180137245 s (State.frameStart s l p) := by
  unfold State.frameStart
  repeat' first
    | with_reducible assumption
    | with_reducible apply Keeps.refl
    | (with_reducible apply State.onFrame_keeps (mk := 17180137245) (by decide))
    | (with_reducible apply Keeps.after (m := 17180137245) (State.unexpected_keeps ..) (by decide))
    | (with_reducible apply Keeps.after (m := 17180137245) (State.allocSlot_keeps (e := ‹_›) ..) (by decide))
    | (with_reducible apply Keeps.after (m := 17180137245) (State.setFrame_keeps ..) (by decide))
    | (with_reducible apply Keeps.after (m := 17180137245) (State.post_keeps ..) (by decide))
    | (with_reducible apply Keeps.after (m := 17180137245) (State.setEvt_keeps ..) (by decide))
    | (with_reducible apply Keeps.after (m := 17180137245) (State.setStream_keeps ..) (by decide))
    | (with_reducible apply Keeps.after (m := 17180137245) (State.frameStartOn_keeps ..) (by decide))
    | (with_reducible apply Keeps.after (m := 17180137245) (State.countN_keeps ..) (by decide))
    | (with_reducible apply Keeps.after (m := 17180137245) (State.storeEvt_keeps ..) (by decide))
    | (with_reducible apply Keeps.after (m := 17180137245) (State.latePkt_keeps ..) (by decide))
    | (intro x; refine (fun hx : Keeps 17180137245 s x => ?_) ?_; clear_value x; rotate_left; dsimp only [x]; rotate_right)
    | intro _
    | (with_reducible apply Keeps.ite)
    | lift_lets
    | split
    | dsimp only

theorem State.giveLinePage_keeps {s : State} (st id k : Nat) {res} (e : State.giveLinePage s st id k = some res) : Keeps 262431 s res := by
  unfold State.giveLinePage at e
  try dsimp only at e
  repeat' split at e
  all_goals (cases e <;> (
    repeat' first
      | with_reducible assumption
      | with_reducible apply Keeps.refl
      | (with_reducible apply Keeps.after (m := 262431) (State.refill_keeps ..) (by decide))
      | (with_reducible apply Keeps.after (m := 262431) (State.setFrame_keeps ..) (by decide))
      | (with_reducible apply Keeps.after (m := 262431) (State.setStream_keeps ..) (by decide))
      | (intro x; refine (fun hx : Keeps 262431 s x => ?_) ?_; clear_value x; rotate_left; dsimp only [x]; rotate_right)
      | intro _
      | (with_reducible apply Keeps.ite)
      | lift_lets
      | split
      | dsimp only))

theorem State.linePagesFor_keeps {s : State} {st id : Nat} {l : List Nat} {t} (e : s.linePagesFor st id l = some t) :
    Keeps 262431 s t := by
  induction l generalizing s with
  | nil =>
    cases e
    exact Keeps.refl _ _
  | cons k l ih =>
    unfold State.linePagesFor at e
    split at e
    · exact ih e
    · split at e
      · exact (State.giveLinePage_keeps (e := ‹_›) ..).trans (ih e)
      · cases e


theorem State.lineIn_keeps (s : State) (st id k : Nat) (bytes : List Byte) : Keeps 262495 s (State.lineIn s st id k bytes) := by
  unfold State.lineIn
  repeat' first
    | with_reducible assumption
    | with_reducible apply Keeps.refl
    | (with_reducible apply Keeps.after (m := 262495) (State.setFrame_keeps ..) (by decide))
    | (with_reducible apply Keeps.after (m := 262495) (State.count_keeps ..) (by decide))
    | (with_reducible apply Keeps.after (m := 262495) (State.setEvt_keeps ..) (by decide))
    | (with_reducible apply Keeps.after (m := 262495) (State.linePagesFor_keeps (e := ‹_›) ..) (by decide))
    | (with_reducible apply Keeps.after (m := 262495) (State.storeEvt_keeps ..) (by decide))
    | (with_reducible apply Keeps.after (m := 262495) (State.setStream_keeps ..) (by decide))
    | (with_reducible apply Keeps.after (m := 262495) (State.setStore_keeps ..) (by decide))
    | (with_reducible apply Keeps.after (m := 262495) (State.charge_keeps ..) (by decide))
    | (intro x; refine (fun hx : Keeps 262495 s x => ?_) ?_; clear_value x; rotate_left; dsimp only [x]; rotate_right)
    | intro _
    | (with_reducible apply Keeps.ite)
    | lift_lets
    | split
    | dsimp only

theorem State.linesIn_keeps (s : State) (l st : Nat) (x : FrameSt) (p : Pkt) : Keeps 262623 s (State.linesIn s l st x p) := by
  unfold State.linesIn
  repeat' first
    | (with_reducible apply Keeps.foldl)
    | with_reducible assumption
    | with_reducible apply Keeps.refl
    | (with_reducible apply Keeps.after (m := 262623) (State.vc2Lost_keeps ..) (by decide))
    | (with_reducible apply Keeps.after (m := 262623) (State.hlEvt_keeps ..) (by decide))
    | (with_reducible apply Keeps.after (m := 262623) (State.count_keeps ..) (by decide))
    | (with_reducible apply Keeps.after (m := 262623) (State.lineIn_keeps ..) (by decide))
    | (intro x; refine (fun hx : Keeps 262623 s x => ?_) ?_; clear_value x; rotate_left; dsimp only [x]; rotate_right)
    | intro _
    | (with_reducible apply Keeps.ite)
    | lift_lets
    | split
    | dsimp only

theorem State.line_keeps (s : State) (l : Nat) (p : Pkt) : Keeps 17180137439 s (State.line s l p) := by
  unfold State.line
  repeat' first
    | with_reducible assumption
    | with_reducible apply Keeps.refl
    | (with_reducible apply State.onFrame_keeps (mk := 17180137439) (by decide))
    | (with_reducible apply Keeps.after (m := 17180137439) (State.latePkt_keeps ..) (by decide))
    | (with_reducible apply Keeps.after (m := 17180137439) (State.openNow_keeps ..) (by decide))
    | (with_reducible apply Keeps.after (m := 17180137439) (State.linesIn_keeps ..) (by decide))
    | (intro x; refine (fun hx : Keeps 17180137439 s x => ?_) ?_; clear_value x; rotate_left; dsimp only [x]; rotate_right)
    | intro _
    | (with_reducible apply Keeps.ite)
    | lift_lets
    | split
    | dsimp only

theorem State.stepAlign_keeps (s : State) : Keeps 32 s (State.stepAlign s) := by
  unfold State.stepAlign
  repeat' first
    | (with_reducible apply Keeps.foldl)
    | with_reducible assumption
    | with_reducible apply Keeps.refl
    | (with_reducible apply Keeps.after (m := 32) (State.setTimer_keeps ..) (by decide))
    | intro _
    | (with_reducible apply Keeps.ite)
    | split
    | dsimp only

theorem State.stepTold_keeps (s : State) (d : StepPlan) (x : Int) : Keeps 549756077113 s (State.stepTold s d x) := by
  unfold State.stepTold
  repeat' first
    | (with_reducible apply Keeps.foldl)
    | with_reducible assumption
    | with_reducible apply Keeps.refl
    | (with_reducible apply Keeps.after (m := 549756077113) (State.post_keeps ..) (by decide))
    | (with_reducible apply Keeps.after (m := 549756077113) (State.setEvt_keeps ..) (by decide))
    | (with_reducible apply Keeps.after (m := 549756077113) (State.setServo_keeps ..) (by decide))
    | (with_reducible apply Keeps.after (m := 549756077113) (State.completeOpt_keeps ..) (by decide))
    | (with_reducible apply Keeps.after (m := 549756077113) (State.tcmpFire_keeps ..) (by decide))
    | (intro x; refine (fun hx : Keeps 549756077113 s x => ?_) ?_; clear_value x; rotate_left; dsimp only [x]; rotate_right)
    | intro _
    | (with_reducible apply Keeps.ite)
    | lift_lets
    | split
    | dsimp only

theorem State.stepMotion_keeps (s : State) (dx : Int) : Keeps 32768 s (State.stepMotion s dx) := by
  unfold State.stepMotion
  repeat' first
    | with_reducible assumption
    | with_reducible apply Keeps.refl
    | intro _
    | dsimp only
    | (with_reducible apply Keeps.motion (m := 32768) (by decide))

theorem State.stepFrames_keeps (s : State) (b dx : Int) : Keeps 256 s (State.stepFrames s b dx) := by
  unfold State.stepFrames
  repeat' first
    | with_reducible assumption
    | with_reducible apply Keeps.refl
    | (with_reducible apply Keeps.after (m := 256) (State.setStore_keeps ..) (by decide))
    | intro _
    | (with_reducible apply Keeps.ite)
    | split
    | dsimp only

theorem State.stepLtc_keeps (s : State) : Keeps 32 s (State.stepLtc s) := by
  unfold State.stepLtc
  repeat' first
    | with_reducible assumption
    | with_reducible apply Keeps.refl
    | (with_reducible apply State.setTime_keeps (m := 32) (by decide))
    | with_reducible exact Or.inl rfl
    | with_reducible exact Or.inl (fun _ => rfl)
    | with_reducible exact Or.inr (fun _ => rfl)
    | with_reducible exact Or.inr (fun _ => ⟨rfl, rfl⟩)
    | with_reducible exact Or.inr (fun _ => ⟨rfl, rfl, rfl⟩)
    | with_reducible exact Or.inr (fun _ => ⟨rfl, rfl, rfl, rfl⟩)
    | with_reducible exact Or.inr (fun _ => ⟨rfl, rfl, rfl, rfl, rfl, rfl, rfl, rfl, rfl⟩)
    | (intro x; refine (fun hx : Keeps 32 s x => ?_) ?_; clear_value x; rotate_left; dsimp only [x]; rotate_right)
    | intro _
    | lift_lets
    | dsimp only

theorem State.stepClock_keeps (s : State) (x : Int) : Keeps 68719476768 s (State.stepClock s x) := by
  unfold State.stepClock
  repeat' first
    | with_reducible assumption
    | with_reducible apply Keeps.refl
    | (with_reducible apply State.setTime_keeps (m := 68719476768) (by decide))
    | with_reducible exact Or.inl rfl
    | with_reducible exact Or.inl (fun _ => rfl)
    | with_reducible exact Or.inr (fun _ => rfl)
    | with_reducible exact Or.inr (fun _ => ⟨rfl, rfl⟩)
    | with_reducible exact Or.inr (fun _ => ⟨rfl, rfl, rfl⟩)
    | with_reducible exact Or.inr (fun _ => ⟨rfl, rfl, rfl, rfl⟩)
    | with_reducible exact Or.inr (fun _ => ⟨rfl, rfl, rfl, rfl, rfl, rfl, rfl, rfl, rfl⟩)
    | (refine Or.inr (fun q => ?_); (try dsimp only); split <;> first | rfl | exact ⟨rfl, rfl⟩ | exact ⟨rfl, rfl, rfl⟩ | exact ⟨rfl, rfl, rfl, rfl⟩)
    | (intro x; refine (fun hx : Keeps 68719476768 s x => ?_) ?_; clear_value x; rotate_left; dsimp only [x]; rotate_right)
    | intro _
    | (with_reducible apply Keeps.ite)
    | lift_lets
    | split
    | dsimp only

theorem State.stepApply_keeps (s : State) : Keeps 618475586873 s (State.stepApply s) := by
  unfold State.stepApply
  repeat' first
    | with_reducible assumption
    | with_reducible apply Keeps.refl
    | (with_reducible apply Keeps.after (m := 618475586873) (State.stepTold_keeps ..) (by decide))
    | (with_reducible apply Keeps.after (m := 618475586873) (State.stepAlign_keeps ..) (by decide))
    | (with_reducible apply Keeps.after (m := 618475586873) (State.stepMotion_keeps ..) (by decide))
    | (with_reducible apply Keeps.after (m := 618475586873) (State.stepFrames_keeps ..) (by decide))
    | (with_reducible apply Keeps.after (m := 618475586873) (State.stepLtc_keeps ..) (by decide))
    | (with_reducible apply Keeps.after (m := 618475586873) (State.stepClock_keeps ..) (by decide))
    | (intro x; refine (fun hx : Keeps 618475586873 s x => ?_) ?_; clear_value x; rotate_left; dsimp only [x]; rotate_right)
    | intro _
    | (with_reducible apply Keeps.ite)
    | lift_lets
    | split
    | dsimp only

theorem State.stepFix_keeps (s : State) : Keeps 549756076537 s (State.stepFix s) := by
  unfold State.stepFix
  repeat' first
    | (with_reducible apply Keeps.foldl)
    | with_reducible assumption
    | with_reducible apply Keeps.refl
    | (with_reducible apply Keeps.after (m := 549756076537) (State.completeOpt_keeps ..) (by decide))
    | (with_reducible apply State.setTime_keeps (m := 549756076537) (by decide))
    | (with_reducible apply Keeps.after (m := 549756076537) (State.sendPkt_keeps ..) (by decide))
    | (with_reducible apply Keeps.after (m := 549756076537) (State.setFrame_keeps ..) (by decide))
    | (with_reducible apply Keeps.after (m := 549756076537) (State.putTrigger_keeps ..) (by decide))
    | with_reducible exact Or.inl rfl
    | with_reducible exact Or.inl (fun _ => rfl)
    | with_reducible exact Or.inr (fun _ => rfl)
    | with_reducible exact Or.inr (fun _ => ⟨rfl, rfl⟩)
    | with_reducible exact Or.inr (fun _ => ⟨rfl, rfl, rfl⟩)
    | with_reducible exact Or.inr (fun _ => ⟨rfl, rfl, rfl, rfl⟩)
    | with_reducible exact Or.inr (fun _ => ⟨rfl, rfl, rfl, rfl, rfl, rfl, rfl, rfl, rfl⟩)
    | (refine Or.inr (fun q => ?_); (try dsimp only); split <;> first | rfl | exact ⟨rfl, rfl⟩ | exact ⟨rfl, rfl, rfl⟩ | exact ⟨rfl, rfl, rfl, rfl⟩)
    | (intro x; refine (fun hx : Keeps 549756076537 s x => ?_) ?_; clear_value x; rotate_left; dsimp only [x]; rotate_right)
    | intro _
    | (with_reducible apply Keeps.ite)
    | lift_lets
    | split
    | dsimp only

theorem State.triggerNak_keeps (s : State) (l : Nat) (p : Pkt) : Keeps 17180137247 s (State.triggerNak s l p) := by
  unfold State.triggerNak
  repeat' first
    | with_reducible assumption
    | with_reducible apply Keeps.refl
    | (with_reducible apply Keeps.after (m := 17180137247) (State.hlEvt_keeps ..) (by decide))
    | (with_reducible apply Keeps.after (m := 17180137247) (State.count_keeps ..) (by decide))
    | (with_reducible apply State.onFrame_keeps (mk := 17180137247) (by decide))
    | (with_reducible apply Keeps.after (m := 17180137247) (State.latePkt_keeps ..) (by decide))
    | (with_reducible apply Keeps.after (m := 17180137247) (State.openNow_keeps ..) (by decide))
    | (with_reducible apply Keeps.after (m := 17180137247) (State.canary_keeps ..) (by decide))
    | (with_reducible apply Keeps.after (m := 17180137247) (State.endInput_keeps ..) (by decide))
    | (intro x; refine (fun hx : Keeps 17180137247 s x => ?_) ?_; clear_value x; rotate_left; dsimp only [x]; rotate_right)
    | intro _
    | (with_reducible apply Keeps.ite)
    | lift_lets
    | split
    | dsimp only

theorem State.triggerSend_keeps (s : State) (r : Nat) : Keeps 17180136441 s (State.triggerSend s r) := by
  unfold State.triggerSend
  repeat' first
    | with_reducible assumption
    | with_reducible apply Keeps.refl
    | (with_reducible apply Keeps.after (m := 17180136441) (State.triggerRig_keeps ..) (by decide))
    | intro _
    | (with_reducible apply Keeps.ite)
    | split
    | dsimp only

theorem execCanaryFeTimeout_keeps (st : Nat) (s : State) {nxt : State} (e : execCanaryFeTimeout st s = .next nxt) : Keeps 262431 s nxt := by
  unfold execCanaryFeTimeout at e
  first | refine Keeps.go ?_ e | refine Keeps.goRead ?_ e | cases e
  try dsimp only
  repeat' first
    | with_reducible assumption
    | with_reducible apply Keeps.refl
    | (with_reducible apply Keeps.after (m := 262431) (State.canaryFe_keeps ..) (by decide))
    | intro _
    | dsimp only

theorem execCanaryFsTimeout_keeps (st : Nat) (s : State) {nxt : State} (e : execCanaryFsTimeout st s = .next nxt) : Keeps 17180137247 s nxt := by
  unfold execCanaryFsTimeout at e
  first | refine Keeps.go ?_ e | refine Keeps.goRead ?_ e | cases e
  try dsimp only
  repeat' first
    | with_reducible assumption
    | with_reducible apply Keeps.refl
    | (with_reducible apply Keeps.after (m := 17180137247) (State.canaryFs_keeps ..) (by decide))
    | intro _
    | dsimp only

theorem execFrameEnd_keeps (l : Nat) (p : Pkt) (s : State) {nxt : State} (e : execFrameEnd l p s = .next nxt) : Keeps 17180137373 s nxt := by
  unfold execFrameEnd at e
  first | refine Keeps.go ?_ e | refine Keeps.goRead ?_ e | cases e
  try dsimp only
  repeat' first
    | with_reducible assumption
    | with_reducible apply Keeps.refl
    | (with_reducible apply State.onPkt_keeps (mk := 17180137373) (by decide))
    | (with_reducible apply Keeps.after (m := 17180137373) (State.frameEnd_keeps ..) (by decide))
    | intro _
    | dsimp only

theorem execFrameStart_keeps (l : Nat) (p : Pkt) (s : State) {nxt : State} (e : execFrameStart l p s = .next nxt) : Keeps 17180137373 s nxt := by
  unfold execFrameStart at e
  first | refine Keeps.go ?_ e | refine Keeps.goRead ?_ e | cases e
  try dsimp only
  repeat' first
    | with_reducible assumption
    | with_reducible apply Keeps.refl
    | (with_reducible apply State.onPkt_keeps (mk := 17180137373) (by decide))
    | (with_reducible apply Keeps.after (m := 17180137373) (State.frameStart_keeps ..) (by decide))
    | intro _
    | dsimp only

theorem execLine_keeps (l : Nat) (p : Pkt) (s : State) {nxt : State} (e : execLine l p s = .next nxt) : Keeps 17180137439 s nxt := by
  unfold execLine at e
  first | refine Keeps.go ?_ e | refine Keeps.goRead ?_ e | cases e
  try dsimp only
  repeat' first
    | with_reducible assumption
    | with_reducible apply Keeps.refl
    | (with_reducible apply State.onPkt_keeps (mk := 17180137439) (by decide))
    | (with_reducible apply Keeps.after (m := 17180137439) (State.line_keeps ..) (by decide))
    | intro _
    | dsimp only

theorem execTimeStepApply_keeps (s : State) {nxt : State} (e : execTimeStepApply s = .next nxt) : Keeps 618475586873 s nxt := by
  unfold execTimeStepApply at e
  first | refine Keeps.go ?_ e | refine Keeps.goRead ?_ e | cases e
  try dsimp only
  repeat' first
    | with_reducible assumption
    | with_reducible apply Keeps.refl
    | (with_reducible apply Keeps.after (m := 618475586873) (State.stepApply_keeps ..) (by decide))
    | intro _
    | dsimp only

theorem execTimeStepFix_keeps (s : State) {nxt : State} (e : execTimeStepFix s = .next nxt) : Keeps 549756076537 s nxt := by
  unfold execTimeStepFix at e
  first | refine Keeps.go ?_ e | refine Keeps.goRead ?_ e | cases e
  try dsimp only
  repeat' first
    | with_reducible assumption
    | with_reducible apply Keeps.refl
    | (with_reducible apply Keeps.after (m := 549756076537) (State.stepFix_keeps ..) (by decide))
    | intro _
    | dsimp only

theorem execTriggerNak_keeps (l : Nat) (p : Pkt) (s : State) {nxt : State} (e : execTriggerNak l p s = .next nxt) : Keeps 17180137375 s nxt := by
  unfold execTriggerNak at e
  first | refine Keeps.go ?_ e | refine Keeps.goRead ?_ e | cases e
  try dsimp only
  repeat' first
    | with_reducible assumption
    | with_reducible apply Keeps.refl
    | (with_reducible apply State.onPkt_keeps (mk := 17180137375) (by decide))
    | (with_reducible apply Keeps.after (m := 17180137375) (State.triggerNak_keeps ..) (by decide))
    | intro _
    | dsimp only

theorem execTriggerSend_keeps (r : Nat) (s : State) {nxt : State} (e : execTriggerSend r s = .next nxt) : Keeps 17180136441 s nxt := by
  unfold execTriggerSend at e
  first | refine Keeps.go ?_ e | refine Keeps.goRead ?_ e | cases e
  try dsimp only
  repeat' first
    | with_reducible assumption
    | with_reducible apply Keeps.refl
    | (with_reducible apply Keeps.after (m := 17180136441) (State.triggerSend_keeps ..) (by decide))
    | intro _
    | dsimp only

end Sys2Proof.Machine
end

