-- ==== Sys2Proof/Laws/KeepsPipeline.lean ====
section
/-! SUPPORT. What each function of Machine/Pipeline.lean may change. -/

namespace Sys2Proof.Machine

set_option linter.all false

theorem State.loadLooks_keeps (s : State) : Keeps 256 s (State.loadLooks s) := by
  unfold State.loadLooks
  repeat' first
    | (with_reducible apply Keeps.foldl)
    | with_reducible assumption
    | with_reducible apply Keeps.refl
    | (with_reducible apply Keeps.after (m := 256) (State.setStore_keeps ..) (by decide))
    | (intro x; refine (fun hx : Keeps 256 s x => ?_) ?_; clear_value x; rotate_left; dsimp only [x]; rotate_right)
    | intro _
    | lift_lets
    | dsimp only

theorem State.processLine_keeps (s : State) (u : Nat) (x : LineIn) : Keeps 131393 s (State.processLine s u x) := by
  unfold State.processLine
  repeat' first
    | with_reducible assumption
    | with_reducible apply Keeps.refl
    | (with_reducible apply Keeps.after (m := 131393) (State.setStore_keeps ..) (by decide))
    | (with_reducible apply Keeps.after (m := 131393) (State.setStream_keeps ..) (by decide))
    | (with_reducible apply Keeps.after (m := 131393) (State.putPayload_keeps ..) (by decide))
    | (with_reducible apply Keeps.after (m := 131393) (State.setFrame_keeps ..) (by decide))
    | (with_reducible apply Keeps.after (m := 131393) (State.add64_keeps ..) (by decide))
    | (with_reducible apply Keeps.after (m := 131393) (State.charge_keeps ..) (by decide))
    | (intro x; refine (fun hx : Keeps 131393 s x => ?_) ?_; clear_value x; rotate_left; dsimp only [x]; rotate_right)
    | intro _
    | (with_reducible apply Keeps.ite)
    | lift_lets
    | split
    | dsimp only

theorem State.puLine_keeps (s : State) (u : Nat) : Keeps 131393 s (State.puLine s u) := by
  unfold State.puLine
  repeat' first
    | with_reducible apply Keeps.refl
    | (with_reducible apply Keeps.after (m := 131393) (State.processLine_keeps ..) (by decide))
    | (with_reducible apply Keeps.ite)
    | split
    | dsimp only

theorem execPuLineProcess_keeps (u : Nat) (s : State) {nxt : State} (e : execPuLineProcess u s = .next nxt) : Keeps 131393 s nxt := by
  unfold execPuLineProcess at e
  first | refine Keeps.go ?_ e | refine Keeps.goRead ?_ e | cases e
  try dsimp only
  repeat' first
    | with_reducible assumption
    | with_reducible apply Keeps.refl
    | (with_reducible apply Keeps.after (m := 131393) (State.puLine_keeps ..) (by decide))
    | intro _
    | dsimp only

end Sys2Proof.Machine
end

