-- ==== Sys2Proof/Laws/KeepsFrameClose.lean ====
section
/-! SUPPORT. What each function of Machine/FrameClose.lean may change. -/

namespace Sys2Proof.Machine

set_option linter.all false

theorem State.sealAsk_keeps (s : State) : Keeps 64 s (State.sealAsk s) := by
  unfold State.sealAsk
  repeat' first
    | (with_reducible apply Keeps.foldl)
    | with_reducible assumption
    | with_reducible apply Keeps.refl
    | (with_reducible apply Keeps.after (m := 64) (State.setWork_keeps ..) (by decide))
    | intro _
    | split
    | dsimp only

theorem State.eraseKey_keeps (s : State) (t : Take) : Keeps 512 s (State.eraseKey s t) := by
  unfold State.eraseKey
  repeat' first
    | with_reducible assumption
    | with_reducible apply Keeps.refl
    | (with_reducible apply Keeps.after (m := 512) (State.setTake_keeps ..) (by decide))
    | (intro x; refine (fun hx : Keeps 512 s x => ?_) ?_; clear_value x; rotate_left; dsimp only [x]; rotate_right)
    | intro _
    | (with_reducible apply Keeps.ite)
    | lift_lets
    | split
    | dsimp only

theorem State.fillFrame_keeps (s : State) (f : FrameSt) : Keeps 131073 s (State.fillFrame s f) := by
  unfold State.fillFrame
  repeat' first
    | (with_reducible apply Keeps.foldl)
    | with_reducible assumption
    | with_reducible apply Keeps.refl
    | (with_reducible apply Keeps.after (m := 131073) (State.putPayload_keeps ..) (by decide))
    | (intro x; refine (fun hx : Keeps 131073 s x => ?_) ?_; clear_value x; rotate_left; dsimp only [x]; rotate_right)
    | intro _
    | lift_lets
    | dsimp only

theorem State.digestTo_keeps (s : State) (st run n : Nat) (fuel : Nat) : Keeps 256 s (State.digestTo s st run n fuel) := by
  induction fuel generalizing s with
  | zero => exact Keeps.refl _ _
  | succ fuel ih =>
    unfold State.digestTo
    repeat' first
      | with_reducible assumption
      | with_reducible apply Keeps.refl
      | (with_reducible apply Keeps.after (m := 256) (ih ..) (by decide))
      | (with_reducible apply Keeps.after (m := 256) (State.setStream_keeps ..) (by decide))
      | (intro x; refine (fun hx : Keeps 256 s x => ?_) ?_; clear_value x; rotate_left; dsimp only [x]; rotate_right)
      | intro _
      | (with_reducible apply Keeps.ite)
      | lift_lets
      | split
      | dsimp only


theorem State.digestOf_keeps (s : State) (f : FrameSt) : Keeps 256 s (State.digestOf s f).2 := by
  unfold State.digestOf
  repeat' first
    | with_reducible assumption
    | with_reducible apply Keeps.refl
    | (with_reducible apply Keeps.after (m := 256) (State.digestTo_keeps ..) (by decide))
    | (with_reducible apply Keeps.after (m := 256) (State.setStream_keeps ..) (by decide))
    | (intro x; refine (fun hx : Keeps 256 s x => ?_) ?_; clear_value x; rotate_left; dsimp only [x]; rotate_right)
    | intro _
    | (with_reducible apply Keeps.ite)
    | lift_lets
    | split
    | dsimp only

theorem State.digestOf_eq {s : State} (f : FrameSt) {a} {t} (e : State.digestOf s f = (a, t)) : Keeps 256 s t := by
  have h := State.digestOf_keeps s f
  rw [e] at h
  exact h

theorem State.triggeredToCandidates_keeps (s : State) (st : Nat) : Keeps 256 s (State.triggeredToCandidates s st) := by
  unfold State.triggeredToCandidates
  repeat' first
    | (with_reducible apply Keeps.foldl)
    | with_reducible assumption
    | with_reducible apply Keeps.refl
    | (with_reducible apply Keeps.after (m := 256) (State.freeSlot_keeps ..) (by decide))
    | (with_reducible apply Keeps.after (m := 256) (State.setFrame_keeps ..) (by decide))
    | (intro x; refine (fun hx : Keeps 256 s x => ?_) ?_; clear_value x; rotate_left; dsimp only [x]; rotate_right)
    | intro _
    | lift_lets
    | split
    | dsimp only

theorem State.closeHealth_keeps (s : State) (f : FrameSt) : Keeps 262431 s (State.closeHealth s f) := by
  unfold State.closeHealth
  repeat' first
    | with_reducible assumption
    | with_reducible apply Keeps.refl
    | (with_reducible apply Keeps.after (m := 262431) (State.setStream_keeps ..) (by decide))
    | (with_reducible apply Keeps.after (m := 262431) (State.healthFail_keeps ..) (by decide))
    | (with_reducible apply Keeps.after (m := 262431) (State.post_keeps ..) (by decide))
    | (with_reducible apply Keeps.after (m := 262431) (State.setEvt_keeps ..) (by decide))
    | (with_reducible apply Keeps.after (m := 262431) (State.triggeredToCandidates_keeps ..) (by decide))
    | (intro x; refine (fun hx : Keeps 262431 s x => ?_) ?_; clear_value x; rotate_left; dsimp only [x]; rotate_right)
    | intro _
    | (with_reducible apply Keeps.ite)
    | lift_lets
    | split
    | dsimp only

theorem State.pendFor_keeps (s : State) (f : FrameSt) (k : Nat) : Keeps 17180137241 s (State.pendFor s f k) := by
  unfold State.pendFor
  repeat' first
    | (with_reducible apply Keeps.foldl)
    | with_reducible assumption
    | with_reducible apply Keeps.refl
    | (with_reducible apply Keeps.after (m := 17180137241) (State.releaseIf_keeps ..) (by decide))
    | (with_reducible apply Keeps.after (m := 17180137241) (State.count_keeps ..) (by decide))
    | (intro x; refine (fun hx : Keeps 17180137241 s x => ?_) ?_; clear_value x; rotate_left; dsimp only [x]; rotate_right)
    | intro _
    | (with_reducible apply Keeps.ite)
    | lift_lets
    | split
    | dsimp only
    | (with_reducible apply Keeps.mover (m := 17180137241) (by decide))

theorem State.pendAll_keeps (s : State) (id : Nat) : Keeps 17180137241 s (State.pendAll s id) := by
  unfold State.pendAll
  repeat' first
    | (with_reducible apply Keeps.foldl)
    | with_reducible assumption
    | with_reducible apply Keeps.refl
    | (with_reducible apply Keeps.after (m := 17180137241) (State.pendFor_keeps ..) (by decide))
    | intro _
    | split
    | dsimp only

theorem State.closeFrame_keeps (s : State) (f : FrameSt) : Keeps 17180268319 s (State.closeFrame s f) := by
  unfold State.closeFrame
  repeat' first
    | with_reducible assumption
    | with_reducible apply Keeps.refl
    | (with_reducible apply Keeps.after (m := 17180268319) (State.fillFrame_keeps ..) (by decide))
    | (with_reducible apply Keeps.after (m := 17180268319) (State.digestOf_keeps ..) (by decide))
    | (with_reducible apply Keeps.after (m := 17180268319) (State.digestOf_eq (e := ‹_›) ..) (by decide))
    | (with_reducible apply Keeps.after (m := 17180268319) (State.setFrame_keeps ..) (by decide))
    | (with_reducible apply Keeps.after (m := 17180268319) (State.orReg_keeps ..) (by decide))
    | (with_reducible apply Keeps.after (m := 17180268319) (State.slotBytes_keeps ..) (by decide))
    | (with_reducible apply Keeps.after (m := 17180268319) (State.setEvt_keeps ..) (by decide))
    | (with_reducible apply Keeps.after (m := 17180268319) (State.closeHealth_keeps ..) (by decide))
    | (with_reducible apply Keeps.after (m := 17180268319) (State.releaseIf_keeps ..) (by decide))
    | (with_reducible apply Keeps.after (m := 17180268319) (State.prerollLeave_keeps ..) (by decide))
    | (with_reducible apply Keeps.after (m := 17180268319) (State.pendAll_keeps ..) (by decide))
    | (with_reducible apply Keeps.after (m := 17180268319) (State.tallyTest_keeps ..) (by decide))
    | (intro x; refine (fun hx : Keeps 17180268319 s x => ?_) ?_; clear_value x; rotate_left; dsimp only [x]; rotate_right)
    | intro _
    | (with_reducible apply Keeps.ite)
    | lift_lets
    | split
    | dsimp only

theorem State.frameClose_keeps (s : State) (st : Nat) : Keeps 17180268319 s (State.frameClose s st) := by
  unfold State.frameClose
  repeat' first
    | with_reducible apply Keeps.refl
    | (with_reducible apply Keeps.after (m := 17180268319) (State.closeFrame_keeps ..) (by decide))
    | split
    | dsimp only

theorem State.sealFrame_keeps (s : State) (f : FrameSt) (t : Take) : Keeps 17180137241 s (State.sealFrame s f t) := by
  unfold State.sealFrame
  repeat' first
    | with_reducible assumption
    | with_reducible apply Keeps.refl
    | (with_reducible apply Keeps.after (m := 17180137241) (State.setFrame_keeps ..) (by decide))
    | (with_reducible apply Keeps.after (m := 17180137241) (State.slotBytes_keeps ..) (by decide))
    | (with_reducible apply Keeps.after (m := 17180137241) (State.setTake_keeps ..) (by decide))
    | (with_reducible apply Keeps.after (m := 17180137241) (State.releaseIf_keeps ..) (by decide))
    | (with_reducible apply Keeps.after (m := 17180137241) (State.eraseKey_keeps ..) (by decide))
    | (with_reducible apply Keeps.after (m := 17180137241) (State.pendAll_keeps ..) (by decide))
    | (intro x; refine (fun hx : Keeps 17180137241 s x => ?_) ?_; clear_value x; rotate_left; dsimp only [x]; rotate_right)
    | intro _
    | lift_lets
    | split
    | dsimp only

theorem State.frameSeal_keeps (s : State) (st : Nat) : Keeps 17180137241 s (State.frameSeal s st) := by
  unfold State.frameSeal
  repeat' first
    | with_reducible apply Keeps.refl
    | (with_reducible apply Keeps.after (m := 17180137241) (State.sealFrame_keeps ..) (by decide))
    | (with_reducible apply Keeps.ite)
    | split
    | dsimp only

theorem State.pageDigest_keeps (s : State) (e : Nat) : Keeps 321 s (State.pageDigest s e) := by
  unfold State.pageDigest
  repeat' first
    | with_reducible assumption
    | with_reducible apply Keeps.refl
    | (with_reducible apply Keeps.after (m := 321) (State.add64_keeps ..) (by decide))
    | (with_reducible apply Keeps.after (m := 321) (State.readBytes_keeps ..) (by decide))
    | (with_reducible apply Keeps.after (m := 321) (State.useJob_keeps ..) (by decide))
    | (with_reducible apply Keeps.after (m := 321) (State.setFrame_keeps ..) (by decide))
    | (intro x; refine (fun hx : Keeps 321 s x => ?_) ?_; clear_value x; rotate_left; dsimp only [x]; rotate_right)
    | intro _
    | (with_reducible apply Keeps.ite)
    | lift_lets
    | split
    | dsimp only

theorem execFrameClose_keeps (st : Nat) (s : State) {nxt : State} (e : execFrameClose st s = .next nxt) : Keeps 17180268319 s nxt := by
  unfold execFrameClose at e
  first | refine Keeps.go ?_ e | refine Keeps.goRead ?_ e | cases e
  try dsimp only
  repeat' first
    | with_reducible assumption
    | with_reducible apply Keeps.refl
    | (with_reducible apply Keeps.after (m := 17180268319) (State.frameClose_keeps ..) (by decide))
    | intro _
    | dsimp only

theorem execFrameSeal_keeps (st : Nat) (s : State) {nxt : State} (e : execFrameSeal st s = .next nxt) : Keeps 17180137241 s nxt := by
  unfold execFrameSeal at e
  first | refine Keeps.go ?_ e | refine Keeps.goRead ?_ e | cases e
  try dsimp only
  repeat' first
    | with_reducible assumption
    | with_reducible apply Keeps.refl
    | (with_reducible apply Keeps.after (m := 17180137241) (State.frameSeal_keeps ..) (by decide))
    | intro _
    | dsimp only

theorem execPageDigest_keeps (e : Nat) (s : State) {nxt : State} (e : execPageDigest e s = .next nxt) : Keeps 321 s nxt := by
  unfold execPageDigest at e
  first | refine Keeps.go ?_ e | refine Keeps.goRead ?_ e | cases e
  try dsimp only
  repeat' first
    | with_reducible assumption
    | with_reducible apply Keeps.refl
    | (with_reducible apply Keeps.after (m := 321) (State.pageDigest_keeps ..) (by decide))
    | intro _
    | dsimp only

end Sys2Proof.Machine
end

