-- ==== Sys2Proof/Laws/KeepsMagazine.lean ====
section
/-! SUPPORT. What each function of Machine/Magazine.lean may change. -/

namespace Sys2Proof.Machine

set_option linter.all false

theorem State.setMag_keeps (s : State) (f : MagState → MagState) : Keeps 2048 s (State.setMag s f) := by
  unfold State.setMag
  repeat' first
    | with_reducible apply Keeps.refl
    | dsimp only
    | (with_reducible apply Keeps.mag (m := 2048) (by decide))

theorem State.setBay_keeps (s : State) (b : Nat) (f : BaySt → BaySt) : Keeps 2048 s (State.setBay s b f) := by
  unfold State.setBay
  repeat' first
    | with_reducible assumption
    | with_reducible apply Keeps.refl
    | (with_reducible apply Keeps.after (m := 2048) (State.setMag_keeps ..) (by decide))
    | intro _
    | dsimp only

theorem State.enterBay_keeps (s : State) (b : Nat) (m : BayMode) : Keeps 264217 s (State.enterBay s b m) := by
  unfold State.enterBay
  repeat' first
    | with_reducible assumption
    | with_reducible apply Keeps.refl
    | (with_reducible apply Keeps.after (m := 264217) (State.setBay_keeps ..) (by decide))
    | (with_reducible apply Keeps.after (m := 264217) (State.post_keeps ..) (by decide))
    | (intro x; refine (fun hx : Keeps 264217 s x => ?_) ?_; clear_value x; rotate_left; dsimp only [x]; rotate_right)
    | intro _
    | (with_reducible apply Keeps.ite)
    | lift_lets
    | split
    | dsimp only

theorem State.bayStart_keeps (s : State) (b : Nat) (page : List Byte) : Keeps 264217 s (State.bayStart s b page) := by
  unfold State.bayStart
  repeat' first
    | with_reducible assumption
    | with_reducible apply Keeps.refl
    | (with_reducible apply Keeps.after (m := 264217) (State.setBay_keeps ..) (by decide))
    | (with_reducible apply Keeps.after (m := 264217) (State.enterBay_keeps ..) (by decide))
    | (with_reducible apply Keeps.after (m := 264217) (State.emit_keeps ..) (by decide))
    | (intro x; refine (fun hx : Keeps 264217 s x => ?_) ?_; clear_value x; rotate_left; dsimp only [x]; rotate_right)
    | intro _
    | lift_lets
    | dsimp only

theorem State.holdBay_keeps (s : State) (b : Nat) : Keeps 262144 s (State.holdBay s b) := by
  unfold State.holdBay
  repeat' first
    | (with_reducible apply Keeps.foldl)
    | with_reducible assumption
    | with_reducible apply Keeps.refl
    | (with_reducible apply Keeps.after (m := 262144) (State.emit_keeps ..) (by decide))
    | intro _
    | dsimp only

theorem State.setDrive_keeps (s : State) (d : Nat) (f : DriveSt → DriveSt) : Keeps 2048 s (State.setDrive s d f) := by
  unfold State.setDrive
  repeat' first
    | with_reducible assumption
    | with_reducible apply Keeps.refl
    | (with_reducible apply Keeps.after (m := 2048) (State.setMag_keeps ..) (by decide))
    | intro _
    | dsimp only

theorem State.bayGone_keeps (s : State) (b : Nat) : Keeps 549756078105 s (State.bayGone s b) := by
  unfold State.bayGone
  repeat' first
    | (with_reducible apply Keeps.foldl)
    | with_reducible assumption
    | with_reducible apply Keeps.refl
    | (with_reducible apply Keeps.after (m := 549756078105) (State.holdBay_keeps ..) (by decide))
    | (with_reducible apply Keeps.after (m := 549756078105) (State.setMag_keeps ..) (by decide))
    | (with_reducible apply Keeps.after (m := 549756078105) (State.setDrive_keeps ..) (by decide))
    | (with_reducible apply Keeps.after (m := 549756078105) (State.setBay_keeps ..) (by decide))
    | (with_reducible apply Keeps.after (m := 549756078105) (State.completeOpt_keeps ..) (by decide))
    | (with_reducible apply Keeps.after (m := 549756078105) (State.enterBay_keeps ..) (by decide))
    | (intro x; refine (fun hx : Keeps 549756078105 s x => ?_) ?_; clear_value x; rotate_left; dsimp only [x]; rotate_right)
    | intro _
    | lift_lets
    | dsimp only

theorem State.bayEvt_keeps (s : State) (b bit : Nat) : Keeps 1 s (State.bayEvt s b bit) := by
  unfold State.bayEvt
  repeat' first
    | with_reducible apply Keeps.refl
    | (with_reducible apply Keeps.after (m := 1) (State.setEvt_keeps ..) (by decide))
    | dsimp only

theorem State.releaseBay_keeps (s : State) (b : Nat) : Keeps 549756078105 s (State.releaseBay s b) := by
  unfold State.releaseBay
  repeat' first
    | (with_reducible apply Keeps.foldl)
    | with_reducible assumption
    | with_reducible apply Keeps.refl
    | (with_reducible apply Keeps.after (m := 549756078105) (State.emit_keeps ..) (by decide))
    | (with_reducible apply Keeps.after (m := 549756078105) (State.setBay_keeps ..) (by decide))
    | (with_reducible apply Keeps.after (m := 549756078105) (State.holdBay_keeps ..) (by decide))
    | (with_reducible apply Keeps.after (m := 549756078105) (State.completeOpt_keeps ..) (by decide))
    | (with_reducible apply Keeps.after (m := 549756078105) (State.enterBay_keeps ..) (by decide))
    | (with_reducible apply Keeps.after (m := 549756078105) (State.bayEvt_keeps ..) (by decide))
    | (intro x; refine (fun hx : Keeps 549756078105 s x => ?_) ?_; clear_value x; rotate_left; dsimp only [x]; rotate_right)
    | intro _
    | (with_reducible apply Keeps.ite)
    | lift_lets
    | split
    | dsimp only

theorem State.bayResolve_keeps (s : State) (b : Nat) : Keeps 549756078105 s (State.bayResolve s b) := by
  unfold State.bayResolve
  repeat' first
    | with_reducible assumption
    | with_reducible apply Keeps.refl
    | (with_reducible apply Keeps.after (m := 549756078105) (State.setBay_keeps ..) (by decide))
    | (with_reducible apply Keeps.after (m := 549756078105) (State.bayEvt_keeps ..) (by decide))
    | (with_reducible apply Keeps.after (m := 549756078105) (State.enterBay_keeps ..) (by decide))
    | (with_reducible apply Keeps.after (m := 549756078105) (State.releaseBay_keeps ..) (by decide))
    | (intro x; refine (fun hx : Keeps 549756078105 s x => ?_) ?_; clear_value x; rotate_left; dsimp only [x]; rotate_right)
    | intro _
    | (with_reducible apply Keeps.ite)
    | lift_lets
    | split
    | dsimp only

theorem State.bayTrain_keeps (s : State) (b : Nat) : Keeps 549756078105 s (State.bayTrain s b) := by
  unfold State.bayTrain
  repeat' first
    | (with_reducible apply Keeps.foldl)
    | with_reducible assumption
    | with_reducible apply Keeps.refl
    | (with_reducible apply Keeps.after (m := 549756078105) (State.bayResolve_keeps ..) (by decide))
    | (with_reducible apply Keeps.after (m := 549756078105) (State.enterBay_keeps ..) (by decide))
    | (with_reducible apply Keeps.after (m := 549756078105) (State.setDrive_keeps ..) (by decide))
    | (with_reducible apply Keeps.after (m := 549756078105) (State.emit_keeps ..) (by decide))
    | (intro x; refine (fun hx : Keeps 549756078105 s x => ?_) ?_; clear_value x; rotate_left; dsimp only [x]; rotate_right)
    | intro _
    | (with_reducible apply Keeps.ite)
    | lift_lets
    | split
    | dsimp only

theorem State.issue_keeps (s : State) (slot : Nat) (kind : DrvKind) (op : DrvOp) (lba blocks queue : Nat) (data : List Byte) : Keeps 264193 s (State.issue s slot kind op lba blocks queue data) := by
  unfold State.issue
  repeat' first
    | with_reducible assumption
    | with_reducible apply Keeps.refl
    | (with_reducible apply Keeps.after (m := 264193) (State.emit_keeps ..) (by decide))
    | (with_reducible apply Keeps.after (m := 264193) (State.setMag_keeps ..) (by decide))
    | (with_reducible apply Keeps.after (m := 264193) (State.add64_keeps ..) (by decide))
    | (intro x; refine (fun hx : Keeps 264193 s x => ?_) ?_; clear_value x; rotate_left; dsimp only [x]; rotate_right)
    | intro _
    | (with_reducible apply Keeps.ite)
    | lift_lets
    | split
    | dsimp only

theorem State.bayFailed_keeps (s : State) (b : Nat) : Keeps 264217 s (State.bayFailed s b) := by
  unfold State.bayFailed
  repeat' first
    | with_reducible assumption
    | with_reducible apply Keeps.refl
    | (with_reducible apply Keeps.after (m := 264217) (State.enterBay_keeps ..) (by decide))
    | (with_reducible apply Keeps.after (m := 264217) (State.holdBay_keeps ..) (by decide))
    | (intro x; refine (fun hx : Keeps 264217 s x => ?_) ?_; clear_value x; rotate_left; dsimp only [x]; rotate_right)
    | intro _
    | (with_reducible apply Keeps.ite)
    | lift_lets
    | split
    | dsimp only

theorem State.bayInsert_keeps (s : State) (b : Nat) (page : List Byte) : Keeps 264217 s (State.bayInsert s b page) := by
  unfold State.bayInsert
  repeat' first
    | with_reducible assumption
    | with_reducible apply Keeps.refl
    | (with_reducible apply Keeps.after (m := 264217) (State.setBay_keeps ..) (by decide))
    | (with_reducible apply Keeps.after (m := 264217) (State.bayStart_keeps ..) (by decide))
    | (with_reducible apply Keeps.after (m := 264217) (State.bayEvt_keeps ..) (by decide))
    | (intro x; refine (fun hx : Keeps 264217 s x => ?_) ?_; clear_value x; rotate_left; dsimp only [x]; rotate_right)
    | intro _
    | (with_reducible apply Keeps.ite)
    | lift_lets
    | split
    | dsimp only

theorem State.bayRelease_keeps (s : State) (b : Nat) : Keeps 549756078105 s (State.bayRelease s b) := by
  unfold State.bayRelease
  repeat' first
    | (with_reducible apply Keeps.foldl)
    | with_reducible assumption
    | with_reducible apply Keeps.refl
    | (with_reducible apply Keeps.after (m := 549756078105) (State.issue_keeps ..) (by decide))
    | (with_reducible apply Keeps.after (m := 549756078105) (State.setBay_keeps ..) (by decide))
    | (with_reducible apply Keeps.after (m := 549756078105) (State.emit_keeps ..) (by decide))
    | (with_reducible apply Keeps.after (m := 549756078105) (State.releaseBay_keeps ..) (by decide))
    | (intro x; refine (fun hx : Keeps 549756078105 s x => ?_) ?_; clear_value x; rotate_left; dsimp only [x]; rotate_right)
    | intro _
    | (with_reducible apply Keeps.ite)
    | lift_lets
    | split
    | dsimp only

theorem State.writeMeta_keeps (s : State) (slot : Nat) (kind : DrvKind) (lba : Nat) (data : List Byte) : Keeps 264193 s (State.writeMeta s slot kind lba data) := by
  unfold State.writeMeta
  repeat' first
    | with_reducible apply Keeps.refl
    | (with_reducible apply Keeps.after (m := 264193) (State.issue_keeps ..) (by decide))
    | dsimp only

theorem State.rejectSlot_keeps (s : State) (d reason : Nat) : Keeps 2048 s (State.rejectSlot s d reason) := by
  unfold State.rejectSlot
  repeat' first
    | with_reducible assumption
    | with_reducible apply Keeps.refl
    | (with_reducible apply Keeps.after (m := 2048) (State.setDrive_keeps ..) (by decide))
    | intro _
    | dsimp only

theorem State.identified_keeps (s : State) (d : Nat) (r : DrvReply) : Keeps 549756078105 s (State.identified s d r) := by
  unfold State.identified
  repeat' first
    | with_reducible assumption
    | with_reducible apply Keeps.refl
    | (with_reducible apply Keeps.after (m := 549756078105) (State.setDrive_keeps ..) (by decide))
    | (with_reducible apply Keeps.after (m := 549756078105) (State.bayResolve_keeps ..) (by decide))
    | (with_reducible apply Keeps.after (m := 549756078105) (State.rejectSlot_keeps ..) (by decide))
    | (with_reducible apply Keeps.after (m := 549756078105) (State.set64_keeps ..) (by decide))
    | (with_reducible apply Keeps.after (m := 549756078105) (State.setReg_keeps ..) (by decide))
    | (with_reducible apply Keeps.after (m := 549756078105) (State.emit_keeps ..) (by decide))
    | (with_reducible apply Keeps.after (m := 549756078105) (State.issue_keeps ..) (by decide))
    | (intro x; refine (fun hx : Keeps 549756078105 s x => ?_) ?_; clear_value x; rotate_left; dsimp only [x]; rotate_right)
    | intro _
    | (with_reducible apply Keeps.ite)
    | lift_lets
    | split
    | dsimp only

theorem State.superRead_keeps (s : State) (d : Nat) (r : DrvReply) : Keeps 571230918681 s (State.superRead s d r) := by
  unfold State.superRead
  repeat' first
    | with_reducible assumption
    | with_reducible apply Keeps.refl
    | (with_reducible apply Keeps.after (m := 571230918681) (State.setDrive_keeps ..) (by decide))
    | (with_reducible apply Keeps.after (m := 571230918681) (State.bayResolve_keeps ..) (by decide))
    | (with_reducible apply Keeps.after (m := 571230918681) (State.changeUnit_keeps ..) (by decide))
    | (intro x; refine (fun hx : Keeps 571230918681 s x => ?_) ?_; clear_value x; rotate_left; dsimp only [x]; rotate_right)
    | intro _
    | (with_reducible apply Keeps.ite)
    | lift_lets
    | split
    | dsimp only

theorem State.declareFailed_keeps (s : State) (d cause : Nat) : Keeps 21475104799 s (State.declareFailed s d cause) := by
  unfold State.declareFailed
  repeat' first
    | with_reducible assumption
    | with_reducible apply Keeps.refl
    | (with_reducible apply Keeps.after (m := 21475104799) (State.setMag_keeps ..) (by decide))
    | (with_reducible apply Keeps.after (m := 21475104799) (State.setDrive_keeps ..) (by decide))
    | (with_reducible apply Keeps.after (m := 21475104799) (State.emit_keeps ..) (by decide))
    | (with_reducible apply Keeps.after (m := 21475104799) (State.setEvt_keeps ..) (by decide))
    | (with_reducible apply Keeps.after (m := 21475104799) (State.logEntry_keeps ..) (by decide))
    | (with_reducible apply Keeps.after (m := 21475104799) (State.unitFails_keeps ..) (by decide))
    | (with_reducible apply Keeps.after (m := 21475104799) (State.post_keeps ..) (by decide))
    | (intro x; refine (fun hx : Keeps 21475104799 s x => ?_) ?_; clear_value x; rotate_left; dsimp only [x]; rotate_right)
    | intro _
    | (with_reducible apply Keeps.ite)
    | lift_lets
    | split
    | dsimp only

theorem State.cmdTimeout_keeps (s : State) (d : Nat) : Keeps 21475104799 s (State.cmdTimeout s d) := by
  unfold State.cmdTimeout
  repeat' first
    | with_reducible assumption
    | with_reducible apply Keeps.refl
    | (with_reducible apply Keeps.after (m := 21475104799) (State.declareFailed_keeps ..) (by decide))
    | (with_reducible apply Keeps.after (m := 21475104799) (State.setEvt_keeps ..) (by decide))
    | (intro x; refine (fun hx : Keeps 21475104799 s x => ?_) ?_; clear_value x; rotate_left; dsimp only [x]; rotate_right)
    | intro _
    | (with_reducible apply Keeps.ite)
    | lift_lets
    | split
    | dsimp only

theorem State.controllerReady_keeps (s : State) (d : Nat) : Keeps 264193 s (State.controllerReady s d) := by
  unfold State.controllerReady
  repeat' first
    | with_reducible assumption
    | with_reducible apply Keeps.refl
    | (with_reducible apply Keeps.after (m := 264193) (State.issue_keeps ..) (by decide))
    | intro _
    | (with_reducible apply Keeps.ite)
    | split
    | dsimp only

theorem State.driveLinkDown_keeps (s : State) (d : Nat) : Keeps 571230918687 s (State.driveLinkDown s d) := by
  unfold State.driveLinkDown
  repeat' first
    | with_reducible assumption
    | with_reducible apply Keeps.refl
    | (with_reducible apply Keeps.after (m := 571230918687) (State.declareFailed_keeps ..) (by decide))
    | (with_reducible apply Keeps.after (m := 571230918687) (State.setEvt_keeps ..) (by decide))
    | (with_reducible apply Keeps.after (m := 571230918687) (State.bayResolve_keeps ..) (by decide))
    | (with_reducible apply Keeps.after (m := 571230918687) (State.rejectSlot_keeps ..) (by decide))
    | (with_reducible apply Keeps.after (m := 571230918687) (State.setMag_keeps ..) (by decide))
    | (intro x; refine (fun hx : Keeps 571230918687 s x => ?_) ?_; clear_value x; rotate_left; dsimp only [x]; rotate_right)
    | intro _
    | (with_reducible apply Keeps.ite)
    | lift_lets
    | split
    | dsimp only

theorem State.driveLinkUp_keeps (s : State) (d gen width : Nat) : Keeps 549756078105 s (State.driveLinkUp s d gen width) := by
  unfold State.driveLinkUp
  repeat' first
    | with_reducible assumption
    | with_reducible apply Keeps.refl
    | (with_reducible apply Keeps.after (m := 549756078105) (State.bayTrain_keeps ..) (by decide))
    | (with_reducible apply Keeps.after (m := 549756078105) (State.setDrive_keeps ..) (by decide))
    | (with_reducible apply Keeps.after (m := 549756078105) (State.bayResolve_keeps ..) (by decide))
    | (with_reducible apply Keeps.after (m := 549756078105) (State.rejectSlot_keeps ..) (by decide))
    | (intro x; refine (fun hx : Keeps 549756078105 s x => ?_) ?_; clear_value x; rotate_left; dsimp only [x]; rotate_right)
    | intro _
    | (with_reducible apply Keeps.ite)
    | lift_lets
    | split
    | dsimp only

theorem State.identifyTimeout_keeps (s : State) (d : Nat) : Keeps 549756078105 s (State.identifyTimeout s d) := by
  unfold State.identifyTimeout
  repeat' first
    | with_reducible assumption
    | with_reducible apply Keeps.refl
    | (with_reducible apply Keeps.after (m := 549756078105) (State.bayTrain_keeps ..) (by decide))
    | (with_reducible apply Keeps.after (m := 549756078105) (State.bayResolve_keeps ..) (by decide))
    | (with_reducible apply Keeps.after (m := 549756078105) (State.rejectSlot_keeps ..) (by decide))
    | (with_reducible apply Keeps.after (m := 549756078105) (State.setMag_keeps ..) (by decide))
    | (intro x; refine (fun hx : Keeps 549756078105 s x => ?_) ?_; clear_value x; rotate_left; dsimp only [x]; rotate_right)
    | intro _
    | (with_reducible apply Keeps.ite)
    | lift_lets
    | split
    | dsimp only

theorem State.smartPoll_keeps (s : State) (d temp pct warn : Nat) : Keeps 21475104799 s (State.smartPoll s d temp pct warn) := by
  unfold State.smartPoll
  repeat' first
    | with_reducible assumption
    | with_reducible apply Keeps.refl
    | (with_reducible apply Keeps.after (m := 21475104799) (State.setDrive_keeps ..) (by decide))
    | (with_reducible apply Keeps.after (m := 21475104799) (State.emit_keeps ..) (by decide))
    | (with_reducible apply Keeps.after (m := 21475104799) (State.setReg_keeps ..) (by decide))
    | (with_reducible apply Keeps.after (m := 21475104799) (State.post_keeps ..) (by decide))
    | (with_reducible apply Keeps.after (m := 21475104799) (State.setEvt_keeps ..) (by decide))
    | (with_reducible apply Keeps.after (m := 21475104799) (State.declareFailed_keeps ..) (by decide))
    | (intro x; refine (fun hx : Keeps 21475104799 s x => ?_) ?_; clear_value x; rotate_left; dsimp only [x]; rotate_right)
    | intro _
    | (with_reducible apply Keeps.ite)
    | lift_lets
    | split
    | dsimp only

theorem execBayInsert_keeps (b : Nat) (page : List Byte) (s : State) {nxt : State} (e : execBayInsert b page s = .next nxt) : Keeps 264217 s nxt := by
  unfold execBayInsert at e
  first | refine Keeps.go ?_ e | refine Keeps.goRead ?_ e | cases e
  try dsimp only
  repeat' first
    | with_reducible assumption
    | with_reducible apply Keeps.refl
    | (with_reducible apply Keeps.after (m := 264217) (State.bayInsert_keeps ..) (by decide))
    | intro _
    | dsimp only

theorem execBayRelease_keeps (b : Nat) (s : State) {nxt : State} (e : execBayRelease b s = .next nxt) : Keeps 549756078105 s nxt := by
  unfold execBayRelease at e
  first | refine Keeps.go ?_ e | refine Keeps.goRead ?_ e | cases e
  try dsimp only
  repeat' first
    | with_reducible assumption
    | with_reducible apply Keeps.refl
    | (with_reducible apply Keeps.after (m := 549756078105) (State.bayRelease_keeps ..) (by decide))
    | intro _
    | dsimp only

theorem execControllerFatalStatus_keeps (d : Nat) (s : State) {nxt : State} (e : execControllerFatalStatus d s = .next nxt) : Keeps 21475104799 s nxt := by
  unfold execControllerFatalStatus at e
  first | refine Keeps.go ?_ e | refine Keeps.goRead ?_ e | cases e
  try dsimp only
  repeat' first
    | with_reducible assumption
    | with_reducible apply Keeps.refl
    | (with_reducible apply Keeps.after (m := 21475104799) (State.declareFailed_keeps ..) (by decide))
    | intro _
    | dsimp only

theorem execControllerReady_keeps (d : Nat) (s : State) {nxt : State} (e : execControllerReady d s = .next nxt) : Keeps 264193 s nxt := by
  unfold execControllerReady at e
  first | refine Keeps.go ?_ e | refine Keeps.goRead ?_ e | cases e
  try dsimp only
  repeat' first
    | with_reducible assumption
    | with_reducible apply Keeps.refl
    | (with_reducible apply Keeps.after (m := 264193) (State.controllerReady_keeps ..) (by decide))
    | intro _
    | dsimp only

theorem execDriveCommandTimeout_keeps (d : Nat) (s : State) {nxt : State} (e : execDriveCommandTimeout d s = .next nxt) : Keeps 21475104799 s nxt := by
  unfold execDriveCommandTimeout at e
  first | refine Keeps.go ?_ e | refine Keeps.goRead ?_ e | cases e
  try dsimp only
  repeat' first
    | with_reducible assumption
    | with_reducible apply Keeps.refl
    | (with_reducible apply Keeps.after (m := 21475104799) (State.cmdTimeout_keeps ..) (by decide))
    | intro _
    | dsimp only

theorem execDriveLinkDown_keeps (d : Nat) (s : State) {nxt : State} (e : execDriveLinkDown d s = .next nxt) : Keeps 571230918687 s nxt := by
  unfold execDriveLinkDown at e
  first | refine Keeps.go ?_ e | refine Keeps.goRead ?_ e | cases e
  try dsimp only
  repeat' first
    | with_reducible assumption
    | with_reducible apply Keeps.refl
    | (with_reducible apply Keeps.after (m := 571230918687) (State.driveLinkDown_keeps ..) (by decide))
    | intro _
    | dsimp only

theorem execDriveLinkUp_keeps (d gen width : Nat) (s : State) {nxt : State} (e : execDriveLinkUp d gen width s = .next nxt) : Keeps 549756078105 s nxt := by
  unfold execDriveLinkUp at e
  first | refine Keeps.go ?_ e | refine Keeps.goRead ?_ e | cases e
  try dsimp only
  repeat' first
    | with_reducible assumption
    | with_reducible apply Keeps.refl
    | (with_reducible apply Keeps.after (m := 549756078105) (State.driveLinkUp_keeps ..) (by decide))
    | intro _
    | dsimp only

theorem execIdentifyTimeout_keeps (d : Nat) (s : State) {nxt : State} (e : execIdentifyTimeout d s = .next nxt) : Keeps 549756078105 s nxt := by
  unfold execIdentifyTimeout at e
  first | refine Keeps.go ?_ e | refine Keeps.goRead ?_ e | cases e
  try dsimp only
  repeat' first
    | with_reducible assumption
    | with_reducible apply Keeps.refl
    | (with_reducible apply Keeps.after (m := 549756078105) (State.identifyTimeout_keeps ..) (by decide))
    | intro _
    | dsimp only

theorem execSmartPoll_keeps (d temp pct warn : Nat) (s : State) {nxt : State} (e : execSmartPoll d temp pct warn s = .next nxt) : Keeps 21475104799 s nxt := by
  unfold execSmartPoll at e
  first | refine Keeps.go ?_ e | refine Keeps.goRead ?_ e | cases e
  try dsimp only
  repeat' first
    | with_reducible assumption
    | with_reducible apply Keeps.refl
    | (with_reducible apply Keeps.after (m := 21475104799) (State.smartPoll_keeps ..) (by decide))
    | intro _
    | dsimp only

end Sys2Proof.Machine
end

