-- ==== Sys2Proof/Laws/KeepsSegments.lean ====
section
/-! SUPPORT. What each function of Machine/Segments.lean may change. -/

namespace Sys2Proof.Machine

set_option linter.all false

theorem State.setSeg_keeps (s : State) (id : Nat) (f : Seg → Seg) : Keeps 2048 s (State.setSeg s id f) := by
  unfold State.setSeg
  repeat' first
    | with_reducible assumption
    | with_reducible apply Keeps.refl
    | (with_reducible apply Keeps.after (m := 2048) (State.setMag_keeps ..) (by decide))
    | intro _
    | (with_reducible apply Keeps.ite)
    | split
    | dsimp only

theorem State.askTo_keeps (s : State) (id upTo : Nat) : Keeps 2112 s (State.askTo s id upTo) := by
  unfold State.askTo
  repeat' first
    | (with_reducible apply Keeps.foldl)
    | with_reducible assumption
    | with_reducible apply Keeps.refl
    | (with_reducible apply Keeps.after (m := 2112) (State.addWork_keeps ..) (by decide))
    | (with_reducible apply Keeps.after (m := 2112) (State.setSeg_keeps ..) (by decide))
    | (intro x; refine (fun hx : Keeps 2112 s x => ?_) ?_; clear_value x; rotate_left; dsimp only [x]; rotate_right)
    | intro _
    | (with_reducible apply Keeps.ite)
    | lift_lets
    | split
    | dsimp only

theorem State.append_keeps (s : State) (id : Nat) (data : List Byte) : Keeps 2048 s (State.append s id data) := by
  unfold State.append
  repeat' first
    | with_reducible assumption
    | with_reducible apply Keeps.refl
    | (with_reducible apply Keeps.after (m := 2048) (State.setSeg_keeps ..) (by decide))
    | intro _
    | (with_reducible apply Keeps.ite)
    | split
    | dsimp only

theorem State.appendIndex_keeps (s : State) (id : Nat) : Keeps 2048 s (State.appendIndex s id) := by
  unfold State.appendIndex
  repeat' first
    | with_reducible assumption
    | with_reducible apply Keeps.refl
    | (with_reducible apply Keeps.after (m := 2048) (State.setSeg_keeps ..) (by decide))
    | (with_reducible apply Keeps.after (m := 2048) (State.append_keeps ..) (by decide))
    | (intro x; refine (fun hx : Keeps 2048 s x => ?_) ?_; clear_value x; rotate_left; dsimp only [x]; rotate_right)
    | intro _
    | (with_reducible apply Keeps.ite)
    | lift_lets
    | split
    | dsimp only

theorem State.appendManifest_keeps (s : State) (id kind : Nat) (content : List Byte) : Keeps 2048 s (State.appendManifest s id kind content) := by
  unfold State.appendManifest
  repeat' first
    | with_reducible assumption
    | with_reducible apply Keeps.refl
    | (with_reducible apply Keeps.after (m := 2048) (State.append_keeps ..) (by decide))
    | (intro x; refine (fun hx : Keeps 2048 s x => ?_) ?_; clear_value x; rotate_left; dsimp only [x]; rotate_right)
    | intro _
    | lift_lets
    | split
    | dsimp only

theorem State.appendPad_keeps (s : State) (id : Nat) : Keeps 2048 s (State.appendPad s id) := by
  unfold State.appendPad
  repeat' first
    | with_reducible assumption
    | with_reducible apply Keeps.refl
    | (with_reducible apply Keeps.after (m := 2048) (State.append_keeps ..) (by decide))
    | (intro x; refine (fun hx : Keeps 2048 s x => ?_) ?_; clear_value x; rotate_left; dsimp only [x]; rotate_right)
    | intro _
    | (with_reducible apply Keeps.ite)
    | lift_lets
    | split
    | dsimp only

theorem State.spendActs_keeps (s : State) (acts : List Act) (res inst n : Nat) : Keeps 64 s (State.spendActs s acts res inst n) := by
  unfold State.spendActs
  repeat' first
    | (with_reducible apply Keeps.foldl)
    | with_reducible assumption
    | with_reducible apply Keeps.refl
    | (with_reducible apply Keeps.after (m := 64) (State.useJob_keeps ..) (by decide))
    | (with_reducible apply Keeps.after (m := 64) (State.usedWork_keeps ..) (by decide))
    | (with_reducible apply Keeps.after (m := 64) (State.setWork_keeps ..) (by decide))
    | (with_reducible apply Keeps.foldlFst)
    | (with_reducible apply Keeps.foldlSnd)
    | (intro x; refine (fun hx : Keeps 64 s x => ?_) ?_; clear_value x; rotate_left; dsimp only [x]; rotate_right)
    | intro _
    | (with_reducible apply Keeps.ite)
    | lift_lets
    | split
    | dsimp only

theorem State.writeData_keeps (s : State) (g : Seg) (d lba lo hi : Nat) (data : List Byte) : Keeps 264257 s (State.writeData s g d lba lo hi data) := by
  unfold State.writeData
  repeat' first
    | with_reducible assumption
    | with_reducible apply Keeps.refl
    | (with_reducible apply Keeps.after (m := 264257) (State.issue_keeps ..) (by decide))
    | (with_reducible apply Keeps.after (m := 264257) (State.spendActs_keeps ..) (by decide))
    | (with_reducible apply Keeps.after (m := 264257) (State.setDrive_keeps ..) (by decide))
    | (intro x; refine (fun hx : Keeps 264257 s x => ?_) ?_; clear_value x; rotate_left; dsimp only [x]; rotate_right)
    | intro _
    | lift_lets
    | dsimp only

theorem State.writePiece_keeps {s : State} (id : Nat) (force : Bool) {res} (e : State.writePiece s id force = some res) : Keeps 264257 s res := by
  unfold State.writePiece at e
  try dsimp only at e
  repeat' split at e
  all_goals (cases e <;> (
    repeat' first
      | (with_reducible apply Keeps.foldl)
      | with_reducible assumption
      | with_reducible apply Keeps.refl
      | (with_reducible apply Keeps.after (m := 264257) (State.setSeg_keeps ..) (by decide))
      | (with_reducible apply Keeps.after (m := 264257) (State.writeData_keeps ..) (by decide))
      | (intro x; refine (fun hx : Keeps 264257 s x => ?_) ?_; clear_value x; rotate_left; dsimp only [x]; rotate_right)
      | intro _
      | (with_reducible apply Keeps.ite)
      | lift_lets
      | split
      | dsimp only))

theorem State.writeAll_keeps (s : State) (id : Nat) (fuel : Nat) : Keeps 264257 s (State.writeAll s id fuel) := by
  induction fuel generalizing s with
  | zero => exact Keeps.refl _ _
  | succ fuel ih =>
    unfold State.writeAll
    repeat' first
      | with_reducible apply Keeps.refl
      | (with_reducible apply Keeps.after (m := 264257) (ih ..) (by decide))
      | (with_reducible apply Keeps.after (m := 264257) (State.writePiece_keeps (e := ‹_›) ..) (by decide))
      | split
      | dsimp only


theorem State.journal_keeps (s : State) (id kind pos : Nat) : Keeps 264193 s (State.journal s id kind pos) := by
  unfold State.journal
  repeat' first
    | (with_reducible apply Keeps.foldl)
    | with_reducible assumption
    | with_reducible apply Keeps.refl
    | (with_reducible apply Keeps.after (m := 264193) (State.setDrive_keeps ..) (by decide))
    | (with_reducible apply Keeps.after (m := 264193) (State.writeMeta_keeps ..) (by decide))
    | (intro x; refine (fun hx : Keeps 264193 s x => ?_) ?_; clear_value x; rotate_left; dsimp only [x]; rotate_right)
    | intro _
    | (with_reducible apply Keeps.ite)
    | lift_lets
    | split
    | dsimp only

theorem State.flushSet_keeps (s : State) (id : Nat) : Keeps 264193 s (State.flushSet s id) := by
  unfold State.flushSet
  repeat' first
    | (with_reducible apply Keeps.foldl)
    | with_reducible assumption
    | with_reducible apply Keeps.refl
    | (with_reducible apply Keeps.after (m := 264193) (State.issue_keeps ..) (by decide))
    | intro _
    | split
    | dsimp only

theorem State.manifests_keeps (s : State) (id : Nat) : Keeps 2048 s (State.manifests s id) := by
  unfold State.manifests
  repeat' first
    | with_reducible assumption
    | with_reducible apply Keeps.refl
    | (with_reducible apply Keeps.after (m := 2048) (State.setSeg_keeps ..) (by decide))
    | (with_reducible apply Keeps.after (m := 2048) (State.appendManifest_keeps ..) (by decide))
    | (with_reducible apply Keeps.after (m := 2048) (State.appendPad_keeps ..) (by decide))
    | (intro x; refine (fun hx : Keeps 2048 s x => ?_) ?_; clear_value x; rotate_left; dsimp only [x]; rotate_right)
    | intro _
    | (with_reducible apply Keeps.ite)
    | lift_lets
    | split
    | dsimp only

theorem State.dirBlock_keeps (s : State) (id : Nat) (close : Bool) : Keeps 264193 s (State.dirBlock s id close) := by
  unfold State.dirBlock
  repeat' first
    | (with_reducible apply Keeps.foldl)
    | with_reducible assumption
    | with_reducible apply Keeps.refl
    | (with_reducible apply Keeps.after (m := 264193) (State.writeMeta_keeps ..) (by decide))
    | (with_reducible apply Keeps.after (m := 264193) (State.setDrive_keeps ..) (by decide))
    | (intro x; refine (fun hx : Keeps 264193 s x => ?_) ?_; clear_value x; rotate_left; dsimp only [x]; rotate_right)
    | intro _
    | (with_reducible apply Keeps.ite)
    | lift_lets
    | split
    | dsimp only

end Sys2Proof.Machine
end

