-- ==== Sys2Proof/Laws/KeepsRecording.lean ====
section
/-! SUPPORT. What each function of Machine/Recording.lean may change. -/

namespace Sys2Proof.Machine

set_option linter.all false

theorem State.setRec_keeps (s : State) (tid : Nat) (f : RecSt → RecSt) : Keeps 2048 s (State.setRec s tid f) := by
  unfold State.setRec
  repeat' first
    | with_reducible assumption
    | with_reducible apply Keeps.refl
    | (with_reducible apply Keeps.after (m := 2048) (State.setMag_keeps ..) (by decide))
    | intro _
    | dsimp only

theorem State.startRelay_keeps {s : State} (t : Take) (reason : Nat) (ticket : Option Ticket) {res} (e : State.startRelay s t reason ticket = .ok res) : Keeps 2112 s res := by
  unfold State.startRelay at e
  try dsimp only at e
  repeat' split at e
  all_goals (cases e <;> (
    repeat' first
      | with_reducible assumption
      | with_reducible apply Keeps.refl
      | (with_reducible apply Keeps.after (m := 2112) (State.setRec_keeps ..) (by decide))
      | (with_reducible apply Keeps.after (m := 2112) (State.addResvs_keeps ..) (by decide))
      | (intro x; refine (fun hx : Keeps 2112 s x => ?_) ?_; clear_value x; rotate_left; dsimp only [x]; rotate_right)
      | intro _
      | lift_lets
      | split
      | dsimp only))

theorem State.relayFailed_keeps (s : State) (r reason : Nat) (e : RelayRefusal) : Keeps 262169 s (State.relayFailed s r reason e) := by
  unfold State.relayFailed
  repeat' first
    | with_reducible apply Keeps.refl
    | (with_reducible apply Keeps.after (m := 262169) (State.post_keeps ..) (by decide))
    | dsimp only

theorem State.backlog_keeps (s : State) : Keeps 264285 s (State.backlog s) := by
  unfold State.backlog
  repeat' first
    | (with_reducible apply Keeps.foldl)
    | with_reducible assumption
    | with_reducible apply Keeps.refl
    | (with_reducible apply Keeps.after (m := 264285) (State.pushBound_keeps ..) (by decide))
    | (with_reducible apply Keeps.after (m := 264285) (State.startRelay_keeps (e := ‹_›) ..) (by decide))
    | (with_reducible apply Keeps.after (m := 264285) (State.setRec_keeps ..) (by decide))
    | (with_reducible apply Keeps.after (m := 264285) (State.relayFailed_keeps ..) (by decide))
    | (intro x; refine (fun hx : Keeps 264285 s x => ?_) ?_; clear_value x; rotate_left; dsimp only [x]; rotate_right)
    | intro _
    | (with_reducible apply Keeps.ite)
    | lift_lets
    | split
    | dsimp only

theorem State.fullCheck_keeps (s : State) : Keeps 264281 s (State.fullCheck s) := by
  unfold State.fullCheck
  repeat' first
    | (with_reducible apply Keeps.foldl)
    | with_reducible assumption
    | with_reducible apply Keeps.refl
    | (with_reducible apply Keeps.after (m := 264281) (State.startRelay_keeps (e := ‹_›) ..) (by decide))
    | (with_reducible apply Keeps.after (m := 264281) (State.setRec_keeps ..) (by decide))
    | (with_reducible apply Keeps.after (m := 264281) (State.relayFailed_keeps ..) (by decide))
    | (intro x; refine (fun hx : Keeps 264281 s x => ?_) ?_; clear_value x; rotate_left; dsimp only [x]; rotate_right)
    | intro _
    | (with_reducible apply Keeps.ite)
    | lift_lets
    | split
    | dsimp only

theorem State.segReturn_keeps (s : State) (g : Seg) : Keeps 549756078169 s (State.segReturn s g) := by
  unfold State.segReturn
  repeat' first
    | (with_reducible apply Keeps.foldl)
    | with_reducible assumption
    | with_reducible apply Keeps.refl
    | (with_reducible apply Keeps.after (m := 549756078169) (State.dropResvs_keeps ..) (by decide))
    | (with_reducible apply Keeps.after (m := 549756078169) (State.setSeg_keeps ..) (by decide))
    | (with_reducible apply Keeps.after (m := 549756078169) (State.setMag_keeps ..) (by decide))
    | (with_reducible apply Keeps.after (m := 549756078169) (State.setDrive_keeps ..) (by decide))
    | (with_reducible apply Keeps.after (m := 549756078169) (State.bayFailed_keeps ..) (by decide))
    | (with_reducible apply Keeps.after (m := 549756078169) (State.enterBay_keeps ..) (by decide))
    | (with_reducible apply Keeps.after (m := 549756078169) (State.releaseBay_keeps ..) (by decide))
    | (intro x; refine (fun hx : Keeps 549756078169 s x => ?_) ?_; clear_value x; rotate_left; dsimp only [x]; rotate_right)
    | intro _
    | (with_reducible apply Keeps.ite)
    | lift_lets
    | split
    | dsimp only

theorem State.enterSeg_keeps (s : State) (tid set : Nat) (entry : Option Nat) (from_ prev : Nat) : Keeps 2048 s (State.enterSeg s tid set entry from_ prev) := by
  unfold State.enterSeg
  repeat' first
    | with_reducible assumption
    | with_reducible apply Keeps.refl
    | (with_reducible apply Keeps.after (m := 2048) (State.setRec_keeps ..) (by decide))
    | (with_reducible apply Keeps.after (m := 2048) (State.setMag_keeps ..) (by decide))
    | (intro x; refine (fun hx : Keeps 2048 s x => ?_) ?_; clear_value x; rotate_left; dsimp only [x]; rotate_right)
    | intro _
    | lift_lets
    | dsimp only

theorem State.postRelay_keeps (s : State) (r reason old new first seg : Nat) : Keeps 262169 s (State.postRelay s r reason old new first seg) := by
  unfold State.postRelay
  repeat' first
    | with_reducible apply Keeps.refl
    | (with_reducible apply Keeps.after (m := 262169) (State.post_keeps ..) (by decide))
    | dsimp only

theorem State.emergEnter_keeps (s : State) (tid : Nat) : Keeps 549756078105 s (State.emergEnter s tid) := by
  unfold State.emergEnter
  repeat' first
    | with_reducible assumption
    | with_reducible apply Keeps.refl
    | (with_reducible apply Keeps.after (m := 549756078105) (State.enterSeg_keeps ..) (by decide))
    | (with_reducible apply Keeps.after (m := 549756078105) (State.setRec_keeps ..) (by decide))
    | (with_reducible apply Keeps.after (m := 549756078105) (State.postRelay_keeps ..) (by decide))
    | (with_reducible apply Keeps.after (m := 549756078105) (State.completeOpt_keeps ..) (by decide))
    | (intro x; refine (fun hx : Keeps 549756078105 s x => ?_) ?_; clear_value x; rotate_left; dsimp only [x]; rotate_right)
    | intro _
    | (with_reducible apply Keeps.ite)
    | lift_lets
    | split
    | dsimp only

theorem State.dropFirst_keeps (s : State) (a : Act) : Keeps 64 s (State.dropFirst s a) := by
  unfold State.dropFirst
  repeat' first
    | with_reducible assumption
    | with_reducible apply Keeps.refl
    | (with_reducible apply Keeps.after (m := 64) (State.setPlan_keeps ..) (by decide))
    | intro _
    | dsimp only

theorem State.takeDone_keeps (s : State) (t : Take) : Keeps 264793 s (State.takeDone s t) := by
  unfold State.takeDone
  repeat' first
    | (with_reducible apply Keeps.foldl)
    | with_reducible assumption
    | with_reducible apply Keeps.refl
    | (with_reducible apply Keeps.after (m := 264793) (State.setTake_keeps ..) (by decide))
    | (with_reducible apply Keeps.after (m := 264793) (State.dropFirst_keeps ..) (by decide))
    | (with_reducible apply Keeps.after (m := 264793) (State.setMag_keeps ..) (by decide))
    | (with_reducible apply Keeps.after (m := 264793) (State.post_keeps ..) (by decide))
    | (intro x; refine (fun hx : Keeps 264793 s x => ?_) ?_; clear_value x; rotate_left; dsimp only [x]; rotate_right)
    | intro _
    | lift_lets
    | dsimp only

theorem State.segBoundary_keeps (s : State) : Keeps 549756078681 s (State.segBoundary s) := by
  unfold State.segBoundary
  repeat' first
    | (with_reducible apply Keeps.foldl)
    | with_reducible assumption
    | with_reducible apply Keeps.refl
    | (with_reducible apply Keeps.after (m := 549756078681) (State.segReturn_keeps ..) (by decide))
    | (with_reducible apply Keeps.after (m := 549756078681) (State.emergEnter_keeps ..) (by decide))
    | (with_reducible apply Keeps.after (m := 549756078681) (State.takeDone_keeps ..) (by decide))
    | (intro x; refine (fun hx : Keeps 549756078681 s x => ?_) ?_; clear_value x; rotate_left; dsimp only [x]; rotate_right)
    | intro _
    | (with_reducible apply Keeps.ite)
    | lift_lets
    | split
    | dsimp only

theorem State.askAged_keeps (s : State) : Keeps 2112 s (State.askAged s) := by
  unfold State.askAged
  repeat' first
    | (with_reducible apply Keeps.foldl)
    | with_reducible assumption
    | with_reducible apply Keeps.refl
    | (with_reducible apply Keeps.after (m := 2112) (State.askTo_keeps ..) (by decide))
    | intro _
    | (with_reducible apply Keeps.ite)
    | split
    | dsimp only

theorem State.cancelRelay_keeps (s : State) (tid : Nat) : Keeps 549756078169 s (State.cancelRelay s tid) := by
  unfold State.cancelRelay
  repeat' first
    | with_reducible assumption
    | with_reducible apply Keeps.refl
    | (with_reducible apply Keeps.after (m := 549756078169) (State.completeOpt_keeps ..) (by decide))
    | (with_reducible apply Keeps.after (m := 549756078169) (State.dropResvs_keeps ..) (by decide))
    | (with_reducible apply Keeps.after (m := 549756078169) (State.setRec_keeps ..) (by decide))
    | (intro x; refine (fun hx : Keeps 549756078169 s x => ?_) ?_; clear_value x; rotate_left; dsimp only [x]; rotate_right)
    | intro _
    | lift_lets
    | split
    | dsimp only

theorem State.burstSweep_keeps (s : State) (r : Nat) : Keeps 17180136217 s (State.burstSweep s r) := by
  unfold State.burstSweep
  repeat' first
    | (with_reducible apply Keeps.foldl)
    | with_reducible assumption
    | with_reducible apply Keeps.refl
    | (with_reducible apply Keeps.after (m := 17180136217) (State.releaseIf_keeps ..) (by decide))
    | (intro x; refine (fun hx : Keeps 17180136217 s x => ?_) ?_; clear_value x; rotate_left; dsimp only [x]; rotate_right)
    | intro _
    | (with_reducible apply Keeps.ite)
    | lift_lets
    | split
    | dsimp only

theorem State.segDone_keeps (s : State) (g : Seg) : Keeps 264217 s (State.segDone s g) := by
  unfold State.segDone
  repeat' first
    | with_reducible assumption
    | with_reducible apply Keeps.refl
    | (with_reducible apply Keeps.after (m := 264217) (State.setSeg_keeps ..) (by decide))
    | (with_reducible apply Keeps.after (m := 264217) (State.count_keeps ..) (by decide))
    | (with_reducible apply Keeps.after (m := 264217) (State.post_keeps ..) (by decide))
    | (intro x; refine (fun hx : Keeps 264217 s x => ?_) ?_; clear_value x; rotate_left; dsimp only [x]; rotate_right)
    | intro _
    | (with_reducible apply Keeps.ite)
    | lift_lets
    | split
    | dsimp only

theorem State.segAdvance_keeps (s : State) (id : Nat) (fuel : Nat) : Keeps 264281 s (State.segAdvance s id fuel) := by
  induction fuel generalizing s with
  | zero => exact Keeps.refl _ _
  | succ fuel ih =>
    unfold State.segAdvance
    repeat' first
      | with_reducible assumption
      | with_reducible apply Keeps.refl
      | (with_reducible apply Keeps.after (m := 264281) (ih ..) (by decide))
      | (with_reducible apply Keeps.after (m := 264281) (State.writeAll_keeps ..) (by decide))
      | (with_reducible apply Keeps.after (m := 264281) (State.setSeg_keeps ..) (by decide))
      | (with_reducible apply Keeps.after (m := 264281) (State.journal_keeps ..) (by decide))
      | (with_reducible apply Keeps.after (m := 264281) (State.flushSet_keeps ..) (by decide))
      | (with_reducible apply Keeps.after (m := 264281) (State.manifests_keeps ..) (by decide))
      | (with_reducible apply Keeps.after (m := 264281) (State.dirBlock_keeps ..) (by decide))
      | (with_reducible apply Keeps.after (m := 264281) (State.segDone_keeps ..) (by decide))
      | (intro x; refine (fun hx : Keeps 264281 s x => ?_) ?_; clear_value x; rotate_left; dsimp only [x]; rotate_right)
      | intro _
      | (with_reducible apply Keeps.ite)
      | lift_lets
      | split
      | dsimp only


theorem State.checkpoint_keeps (s : State) (m : Nat) : Keeps 264281 s (State.checkpoint s m) := by
  unfold State.checkpoint
  repeat' first
    | with_reducible assumption
    | with_reducible apply Keeps.refl
    | (with_reducible apply Keeps.after (m := 264281) (State.appendPad_keeps ..) (by decide))
    | (with_reducible apply Keeps.after (m := 264281) (State.setSeg_keeps ..) (by decide))
    | (with_reducible apply Keeps.after (m := 264281) (State.segAdvance_keeps ..) (by decide))
    | (intro x; refine (fun hx : Keeps 264281 s x => ?_) ?_; clear_value x; rotate_left; dsimp only [x]; rotate_right)
    | intro _
    | (with_reducible apply Keeps.ite)
    | lift_lets
    | split
    | dsimp only

theorem State.chunkWrite_keeps (s : State) (m : Nat) : Keeps 264257 s (State.chunkWrite s m) := by
  unfold State.chunkWrite
  repeat' first
    | with_reducible assumption
    | with_reducible apply Keeps.refl
    | (with_reducible apply Keeps.after (m := 264257) (State.writePiece_keeps (e := ‹_›) ..) (by decide))
    | (with_reducible apply Keeps.getD)
    | (intro x; refine (fun hx : Keeps 264257 s x => ?_) ?_; clear_value x; rotate_left; dsimp only [x]; rotate_right)
    | intro _
    | (with_reducible apply Keeps.ite)
    | lift_lets
    | split
    | dsimp only

theorem State.releaseWritten_keeps (s : State) (tid : Nat) : Keeps 17180138265 s (State.releaseWritten s tid) := by
  unfold State.releaseWritten
  repeat' first
    | (with_reducible apply Keeps.foldl)
    | with_reducible assumption
    | with_reducible apply Keeps.refl
    | (with_reducible apply Keeps.after (m := 17180138265) (State.setFrame_keeps ..) (by decide))
    | (with_reducible apply Keeps.after (m := 17180138265) (State.releaseIf_keeps ..) (by decide))
    | (with_reducible apply Keeps.after (m := 17180138265) (State.setRec_keeps ..) (by decide))
    | (with_reducible apply Keeps.after (m := 17180138265) (State.burstSweep_keeps ..) (by decide))
    | (intro x; refine (fun hx : Keeps 17180138265 s x => ?_) ?_; clear_value x; rotate_left; dsimp only [x]; rotate_right)
    | intro _
    | (with_reducible apply Keeps.ite)
    | lift_lets
    | split
    | dsimp only

theorem State.cmdDone_keeps {mk : Nat} {s t0 : State} {c : DrvCmd} {r : DrvReply} {job : State → Nat → DrvReply → State} (hm : 571230919513 ||| mk = mk)
    (hf : ∀ a0 a1 a2, Keeps mk s a0 → Keeps mk s (job a0 a1 a2)) (a : Keeps mk s t0) : Keeps mk s (State.cmdDone t0 c r job) := by
  unfold State.cmdDone
  repeat' first
    | with_reducible assumption
    | with_reducible apply Keeps.refl
    | (with_reducible apply hf)
    | (with_reducible apply Keeps.after (m := mk) (State.identified_keeps ..) (Keeps.sub hm (by decide)))
    | (with_reducible apply Keeps.after (m := mk) (State.superRead_keeps ..) (Keeps.sub hm (by decide)))
    | (with_reducible apply Keeps.after (m := mk) (State.segAdvance_keeps ..) (Keeps.sub hm (by decide)))
    | (with_reducible apply Keeps.after (m := mk) (State.releaseWritten_keeps ..) (Keeps.sub hm (by decide)))
    | exact Keeps.bit hm (by decide)
    | intro _
    | split
    | dsimp only

theorem State.driveComplete_keeps {mk : Nat} {s t0 : State} {slot : Nat} {id : Nat} {r : DrvReply} {job : State → Nat → DrvReply → State} (hm : 571230919519 ||| mk = mk)
    (hf : ∀ a0 a1 a2, Keeps mk s a0 → Keeps mk s (job a0 a1 a2)) (a : Keeps mk s t0) : Keeps mk s (State.driveComplete t0 slot id r job) := by
  unfold State.driveComplete
  repeat' first
    | with_reducible assumption
    | with_reducible apply Keeps.refl
    | (with_reducible apply hf)
    | (with_reducible apply Keeps.after (m := mk) (State.setMag_keeps ..) (Keeps.sub hm (by decide)))
    | (with_reducible apply Keeps.after (m := mk) (State.emit_keeps ..) (Keeps.sub hm (by decide)))
    | (with_reducible apply Keeps.after (m := mk) (State.count_keeps ..) (Keeps.sub hm (by decide)))
    | (with_reducible apply Keeps.after (m := mk) (State.setEvt_keeps ..) (Keeps.sub hm (by decide)))
    | (with_reducible apply Keeps.after (m := mk) (State.bayResolve_keeps ..) (Keeps.sub hm (by decide)))
    | (with_reducible apply Keeps.after (m := mk) (State.rejectSlot_keeps ..) (Keeps.sub hm (by decide)))
    | (with_reducible apply Keeps.after (m := mk) (State.declareFailed_keeps ..) (Keeps.sub hm (by decide)))
    | (with_reducible apply State.cmdDone_keeps (mk := mk) (Keeps.sub hm (by decide)))
    | exact Keeps.bit hm (by decide)
    | (intro x; refine (fun hx : Keeps mk s x => ?_) ?_; clear_value x; rotate_left; dsimp only [x]; rotate_right)
    | intro _
    | (with_reducible apply Keeps.ite)
    | lift_lets
    | split
    | dsimp only

theorem State.retarget_keeps (s : State) (t : Take) : Keeps 549756078173 s (State.retarget s t) := by
  unfold State.retarget
  repeat' first
    | with_reducible assumption
    | with_reducible apply Keeps.refl
    | (with_reducible apply Keeps.after (m := 549756078173) (State.dropResvs_keeps ..) (by decide))
    | (with_reducible apply Keeps.after (m := 549756078173) (State.setRec_keeps ..) (by decide))
    | (with_reducible apply Keeps.after (m := 549756078173) (State.addResvs_keeps ..) (by decide))
    | (with_reducible apply Keeps.after (m := 549756078173) (State.completeOpt_keeps ..) (by decide))
    | (with_reducible apply Keeps.after (m := 549756078173) (State.pushBound_keeps ..) (by decide))
    | (with_reducible apply Keeps.after (m := 549756078173) (State.relayFailed_keeps ..) (by decide))
    | (intro x; refine (fun hx : Keeps 549756078173 s x => ?_) ?_; clear_value x; rotate_left; dsimp only [x]; rotate_right)
    | intro _
    | lift_lets
    | split
    | dsimp only

theorem State.endSegs_keeps (s : State) (tid e uuid : Nat) : Keeps 264281 s (State.endSegs s tid e uuid) := by
  unfold State.endSegs
  repeat' first
    | (with_reducible apply Keeps.foldl)
    | with_reducible assumption
    | with_reducible apply Keeps.refl
    | (with_reducible apply Keeps.after (m := 264281) (State.setMag_keeps ..) (by decide))
    | (with_reducible apply Keeps.after (m := 264281) (State.segAdvance_keeps ..) (by decide))
    | (intro x; refine (fun hx : Keeps 264281 s x => ?_) ?_; clear_value x; rotate_left; dsimp only [x]; rotate_right)
    | intro _
    | (with_reducible apply Keeps.ite)
    | lift_lets
    | split
    | dsimp only

theorem State.emergency_keeps (s : State) (t : Take) (reason : Nat) : Keeps 17180138333 s (State.emergency s t reason) := by
  unfold State.emergency
  repeat' first
    | (with_reducible apply Keeps.foldl)
    | with_reducible assumption
    | with_reducible apply Keeps.refl
    | (with_reducible apply Keeps.after (m := 17180138333) (State.setRec_keeps ..) (by decide))
    | (with_reducible apply Keeps.after (m := 17180138333) (State.setStore_keeps ..) (by decide))
    | (with_reducible apply Keeps.after (m := 17180138333) (State.addResvs_keeps ..) (by decide))
    | (with_reducible apply Keeps.after (m := 17180138333) (State.endSegs_keeps ..) (by decide))
    | (with_reducible apply Keeps.after (m := 17180138333) (State.count_keeps ..) (by decide))
    | (with_reducible apply Keeps.after (m := 17180138333) (State.countN_keeps ..) (by decide))
    | (with_reducible apply Keeps.after (m := 17180138333) (State.setFrame_keeps ..) (by decide))
    | (with_reducible apply Keeps.after (m := 17180138333) (State.releaseIf_keeps ..) (by decide))
    | (with_reducible apply Keeps.after (m := 17180138333) (State.burstSweep_keeps ..) (by decide))
    | (with_reducible apply Keeps.after (m := 17180138333) (State.pushBound_keeps ..) (by decide))
    | intro _
    | (with_reducible apply Keeps.ite)
    | dsimp only
    | split

theorem State.setLoss_keeps (s : State) (m reason : Nat) : Keeps 566935952221 s (State.setLoss s m reason) := by
  unfold State.setLoss
  repeat' first
    | (with_reducible apply Keeps.foldl)
    | with_reducible assumption
    | with_reducible apply Keeps.refl
    | (with_reducible apply Keeps.after (m := 566935952221) (State.retarget_keeps ..) (by decide))
    | (with_reducible apply Keeps.after (m := 566935952221) (State.emergency_keeps ..) (by decide))
    | (with_reducible apply Keeps.after (m := 566935952221) (State.setRec_keeps ..) (by decide))
    | (with_reducible apply Keeps.after (m := 566935952221) (State.dropResvs_keeps ..) (by decide))
    | (with_reducible apply Keeps.after (m := 566935952221) (State.setMag_keeps ..) (by decide))
    | (with_reducible apply Keeps.after (m := 566935952221) (State.segAdvance_keeps ..) (by decide))
    | (with_reducible apply Keeps.after (m := 566935952221) (State.releaseWritten_keeps ..) (by decide))
    | (intro x; refine (fun hx : Keeps 566935952221 s x => ?_) ?_; clear_value x; rotate_left; dsimp only [x]; rotate_right)
    | intro _
    | (with_reducible apply Keeps.ite)
    | lift_lets
    | split
    | dsimp only

theorem State.driveFailure_keeps (s : State) (d : Nat) : Keeps 566935952221 s (State.driveFailure s d) := by
  unfold State.driveFailure
  repeat' first
    | (with_reducible apply Keeps.foldl)
    | with_reducible assumption
    | with_reducible apply Keeps.refl
    | (with_reducible apply Keeps.after (m := 566935952221) (State.setDrive_keeps ..) (by decide))
    | (with_reducible apply Keeps.after (m := 566935952221) (State.bayFailed_keeps ..) (by decide))
    | (with_reducible apply Keeps.after (m := 566935952221) (State.setLoss_keeps ..) (by decide))
    | (intro x; refine (fun hx : Keeps 566935952221 s x => ?_) ?_; clear_value x; rotate_left; dsimp only [x]; rotate_right)
    | intro _
    | (with_reducible apply Keeps.ite)
    | lift_lets
    | split
    | dsimp only

theorem State.ejectRelease_keeps (s : State) (b : Nat) : Keeps 2048 s (State.ejectRelease s b) := by
  unfold State.ejectRelease
  repeat' first
    | with_reducible assumption
    | with_reducible apply Keeps.refl
    | (with_reducible apply Keeps.after (m := 2048) (State.setBay_keeps ..) (by decide))
    | intro _
    | dsimp only

theorem State.latchRelay_keeps {s : State} (b : Nat) (ticket : Option Ticket) {res} (e : State.latchRelay s b ticket = .ok res) : Keeps 2112 s res := by
  unfold State.latchRelay at e
  try dsimp only at e
  repeat' split at e
  all_goals (cases e <;> (
    repeat' first
      | with_reducible assumption
      | with_reducible apply Keeps.refl
      | (with_reducible apply Keeps.after (m := 2112) (State.setBay_keeps ..) (by decide))
      | (with_reducible apply Keeps.after (m := 2112) (State.startRelay_keeps (e := ‹_›) ..) (by decide))
      | (intro x; refine (fun hx : Keeps 2112 s x => ?_) ?_; clear_value x; rotate_left; dsimp only [x]; rotate_right)
      | intro _
      | (with_reducible apply Keeps.ite)
      | lift_lets
      | split
      | dsimp only))

theorem State.ejectReq_keeps (s : State) (b : Nat) : Keeps 549756078169 s (State.ejectReq s b) := by
  unfold State.ejectReq
  repeat' first
    | with_reducible assumption
    | with_reducible apply Keeps.refl
    | (with_reducible apply Keeps.after (m := 549756078169) (State.bayEvt_keeps ..) (by decide))
    | (with_reducible apply Keeps.after (m := 549756078169) (State.setBay_keeps ..) (by decide))
    | (with_reducible apply Keeps.after (m := 549756078169) (State.releaseBay_keeps ..) (by decide))
    | (with_reducible apply Keeps.after (m := 549756078169) (State.latchRelay_keeps (e := ‹_›) ..) (by decide))
    | (with_reducible apply Keeps.after (m := 549756078169) (State.relayFailed_keeps ..) (by decide))
    | (intro x; refine (fun hx : Keeps 549756078169 s x => ?_) ?_; clear_value x; rotate_left; dsimp only [x]; rotate_right)
    | intro _
    | (with_reducible apply Keeps.ite)
    | lift_lets
    | split
    | dsimp only

theorem State.openSeg_keeps (s : State) (id : Nat) : Keeps 264217 s (State.openSeg s id) := by
  unfold State.openSeg
  repeat' first
    | (with_reducible apply Keeps.foldl)
    | with_reducible assumption
    | with_reducible apply Keeps.refl
    | (with_reducible apply Keeps.after (m := 264217) (State.setDrive_keeps ..) (by decide))
    | (with_reducible apply Keeps.after (m := 264217) (State.setSeg_keeps ..) (by decide))
    | (with_reducible apply Keeps.after (m := 264217) (State.setMag_keeps ..) (by decide))
    | (with_reducible apply Keeps.after (m := 264217) (State.enterBay_keeps ..) (by decide))
    | (with_reducible apply Keeps.after (m := 264217) (State.dirBlock_keeps ..) (by decide))
    | (with_reducible apply Keeps.after (m := 264217) (State.journal_keeps ..) (by decide))
    | (intro x; refine (fun hx : Keeps 264217 s x => ?_) ?_; clear_value x; rotate_left; dsimp only [x]; rotate_right)
    | intro _
    | (with_reducible apply Keeps.ite)
    | lift_lets
    | split
    | dsimp only

theorem State.placeIn_keeps (s : State) (g : Seg) (f : FrameSt) : Keeps 2368 s (State.placeIn s g f) := by
  unfold State.placeIn
  repeat' first
    | with_reducible assumption
    | with_reducible apply Keeps.refl
    | (with_reducible apply Keeps.after (m := 2368) (State.setSeg_keeps ..) (by decide))
    | (with_reducible apply Keeps.after (m := 2368) (State.append_keeps ..) (by decide))
    | (with_reducible apply Keeps.after (m := 2368) (State.appendIndex_keeps ..) (by decide))
    | (with_reducible apply Keeps.after (m := 2368) (State.setFrame_keeps ..) (by decide))
    | (with_reducible apply Keeps.after (m := 2368) (State.askTo_keeps ..) (by decide))
    | (intro x; refine (fun hx : Keeps 2368 s x => ?_) ?_; clear_value x; rotate_left; dsimp only [x]; rotate_right)
    | intro _
    | (with_reducible apply Keeps.ite)
    | lift_lets
    | split
    | dsimp only

theorem State.framePlace_keeps (s : State) (r : Nat) : Keeps 17180138333 s (State.framePlace s r) := by
  unfold State.framePlace
  repeat' first
    | with_reducible assumption
    | with_reducible apply Keeps.refl
    | (with_reducible apply Keeps.after (m := 17180138333) (State.emergency_keeps ..) (by decide))
    | (with_reducible apply Keeps.after (m := 17180138333) (State.openSeg_keeps ..) (by decide))
    | (with_reducible apply Keeps.after (m := 17180138333) (State.placeIn_keeps ..) (by decide))
    | (intro x; refine (fun hx : Keeps 17180138333 s x => ?_) ?_; clear_value x; rotate_left; dsimp only [x]; rotate_right)
    | intro _
    | (with_reducible apply Keeps.ite)
    | lift_lets
    | split
    | dsimp only

theorem State.relayBoundary_keeps (s : State) (r : Nat) : Keeps 549756078105 s (State.relayBoundary s r) := by
  unfold State.relayBoundary
  repeat' first
    | (with_reducible apply Keeps.foldl)
    | with_reducible assumption
    | with_reducible apply Keeps.refl
    | (with_reducible apply Keeps.after (m := 549756078105) (State.setSeg_keeps ..) (by decide))
    | (with_reducible apply Keeps.after (m := 549756078105) (State.enterSeg_keeps ..) (by decide))
    | (with_reducible apply Keeps.after (m := 549756078105) (State.setRec_keeps ..) (by decide))
    | (with_reducible apply Keeps.after (m := 549756078105) (State.postRelay_keeps ..) (by decide))
    | (with_reducible apply Keeps.after (m := 549756078105) (State.completeOpt_keeps ..) (by decide))
    | (intro x; refine (fun hx : Keeps 549756078105 s x => ?_) ?_; clear_value x; rotate_left; dsimp only [x]; rotate_right)
    | intro _
    | (with_reducible apply Keeps.ite)
    | lift_lets
    | split
    | dsimp only

theorem State.segEnd_keeps (s : State) (id kind : Nat) (last : Bool) : Keeps 264281 s (State.segEnd s id kind last) := by
  unfold State.segEnd
  repeat' first
    | with_reducible assumption
    | with_reducible apply Keeps.refl
    | (with_reducible apply Keeps.after (m := 264281) (State.setSeg_keeps ..) (by decide))
    | (with_reducible apply Keeps.after (m := 264281) (State.segAdvance_keeps ..) (by decide))
    | (with_reducible apply Keeps.after (m := 264281) (State.appendPad_keeps ..) (by decide))
    | (with_reducible apply Keeps.after (m := 264281) (State.appendIndex_keeps ..) (by decide))
    | (intro x; refine (fun hx : Keeps 264281 s x => ?_) ?_; clear_value x; rotate_left; dsimp only [x]; rotate_right)
    | intro _
    | (with_reducible apply Keeps.ite)
    | lift_lets
    | split
    | dsimp only

theorem State.segmentClose_keeps (s : State) (m : Nat) : Keeps 264281 s (State.segmentClose s m) := by
  unfold State.segmentClose
  repeat' first
    | with_reducible assumption
    | with_reducible apply Keeps.refl
    | (with_reducible apply Keeps.after (m := 264281) (State.segEnd_keeps ..) (by decide))
    | (intro x; refine (fun hx : Keeps 264281 s x => ?_) ?_; clear_value x; rotate_left; dsimp only [x]; rotate_right)
    | intro _
    | (with_reducible apply Keeps.ite)
    | lift_lets
    | split
    | dsimp only

theorem State.surprise_keeps (s : State) (b : Nat) : Keeps 571230919519 s (State.surprise s b) := by
  unfold State.surprise
  repeat' first
    | (with_reducible apply Keeps.foldl)
    | with_reducible assumption
    | with_reducible apply Keeps.refl
    | (with_reducible apply Keeps.after (m := 571230919519) (State.setBay_keeps ..) (by decide))
    | (with_reducible apply Keeps.after (m := 571230919519) (State.bayEvt_keeps ..) (by decide))
    | (with_reducible apply Keeps.after (m := 571230919519) (State.setDrive_keeps ..) (by decide))
    | (with_reducible apply Keeps.after (m := 571230919519) (State.declareFailed_keeps ..) (by decide))
    | (with_reducible apply Keeps.after (m := 571230919519) (State.bayGone_keeps ..) (by decide))
    | (with_reducible apply Keeps.after (m := 571230919519) (State.setLoss_keeps ..) (by decide))
    | (intro x; refine (fun hx : Keeps 571230919519 s x => ?_) ?_; clear_value x; rotate_left; dsimp only [x]; rotate_right)
    | intro _
    | (with_reducible apply Keeps.ite)
    | lift_lets
    | split
    | dsimp only

theorem State.takeClose_keeps (s : State) (r : Nat) : Keeps 264281 s (State.takeClose s r) := by
  unfold State.takeClose
  repeat' first
    | with_reducible assumption
    | with_reducible apply Keeps.refl
    | (with_reducible apply Keeps.after (m := 264281) (State.setRec_keeps ..) (by decide))
    | (with_reducible apply Keeps.after (m := 264281) (State.segEnd_keeps ..) (by decide))
    | (intro x; refine (fun hx : Keeps 264281 s x => ?_) ?_; clear_value x; rotate_left; dsimp only [x]; rotate_right)
    | intro _
    | (with_reducible apply Keeps.ite)
    | lift_lets
    | split
    | dsimp only

theorem State.unsealedEnd_keeps (s : State) (m : Nat) : Keeps 264281 s (State.unsealedEnd s m) := by
  unfold State.unsealedEnd
  repeat' first
    | with_reducible assumption
    | with_reducible apply Keeps.refl
    | (with_reducible apply Keeps.after (m := 264281) (State.setSeg_keeps ..) (by decide))
    | (with_reducible apply Keeps.after (m := 264281) (State.segAdvance_keeps ..) (by decide))
    | (intro x; refine (fun hx : Keeps 264281 s x => ?_) ?_; clear_value x; rotate_left; dsimp only [x]; rotate_right)
    | intro _
    | (with_reducible apply Keeps.ite)
    | lift_lets
    | split
    | dsimp only

theorem execCheckpoint_keeps (m : Nat) (s : State) {nxt : State} (e : execCheckpoint m s = .next nxt) : Keeps 264281 s nxt := by
  unfold execCheckpoint at e
  first | refine Keeps.go ?_ e | refine Keeps.goRead ?_ e | cases e
  try dsimp only
  repeat' first
    | with_reducible assumption
    | with_reducible apply Keeps.refl
    | (with_reducible apply Keeps.after (m := 264281) (State.checkpoint_keeps ..) (by decide))
    | intro _
    | dsimp only

theorem execChunkWrite_keeps (m : Nat) (s : State) {nxt : State} (e : execChunkWrite m s = .next nxt) : Keeps 264257 s nxt := by
  unfold execChunkWrite at e
  first | refine Keeps.go ?_ e | refine Keeps.goRead ?_ e | cases e
  try dsimp only
  repeat' first
    | with_reducible assumption
    | with_reducible apply Keeps.refl
    | (with_reducible apply Keeps.after (m := 264257) (State.chunkWrite_keeps ..) (by decide))
    | intro _
    | dsimp only

theorem execDriveFailure_keeps (d : Nat) (s : State) {nxt : State} (e : execDriveFailure d s = .next nxt) : Keeps 566935952221 s nxt := by
  unfold execDriveFailure at e
  first | refine Keeps.go ?_ e | refine Keeps.goRead ?_ e | cases e
  try dsimp only
  repeat' first
    | with_reducible assumption
    | with_reducible apply Keeps.refl
    | (with_reducible apply Keeps.after (m := 566935952221) (State.driveFailure_keeps ..) (by decide))
    | intro _
    | dsimp only

theorem execEjectRelease_keeps (b : Nat) (s : State) {nxt : State} (e : execEjectRelease b s = .next nxt) : Keeps 2048 s nxt := by
  unfold execEjectRelease at e
  first | refine Keeps.go ?_ e | refine Keeps.goRead ?_ e | cases e
  try dsimp only
  repeat' first
    | with_reducible assumption
    | with_reducible apply Keeps.refl
    | (with_reducible apply Keeps.after (m := 2048) (State.ejectRelease_keeps ..) (by decide))
    | intro _
    | dsimp only

theorem execEjectReq_keeps (b : Nat) (s : State) {nxt : State} (e : execEjectReq b s = .next nxt) : Keeps 549756078169 s nxt := by
  unfold execEjectReq at e
  first | refine Keeps.go ?_ e | refine Keeps.goRead ?_ e | cases e
  try dsimp only
  repeat' first
    | with_reducible assumption
    | with_reducible apply Keeps.refl
    | (with_reducible apply Keeps.after (m := 549756078169) (State.ejectReq_keeps ..) (by decide))
    | intro _
    | dsimp only

theorem execFramePlace_keeps (r : Nat) (s : State) {nxt : State} (e : execFramePlace r s = .next nxt) : Keeps 17180138333 s nxt := by
  unfold execFramePlace at e
  first | refine Keeps.go ?_ e | refine Keeps.goRead ?_ e | cases e
  try dsimp only
  repeat' first
    | with_reducible assumption
    | with_reducible apply Keeps.refl
    | (with_reducible apply Keeps.after (m := 17180138333) (State.framePlace_keeps ..) (by decide))
    | intro _
    | dsimp only

theorem execRelayBoundary_keeps (r : Nat) (s : State) {nxt : State} (e : execRelayBoundary r s = .next nxt) : Keeps 549756078105 s nxt := by
  unfold execRelayBoundary at e
  first | refine Keeps.go ?_ e | refine Keeps.goRead ?_ e | cases e
  try dsimp only
  repeat' first
    | with_reducible assumption
    | with_reducible apply Keeps.refl
    | (with_reducible apply Keeps.after (m := 549756078105) (State.relayBoundary_keeps ..) (by decide))
    | intro _
    | dsimp only

theorem execSegmentClose_keeps (m : Nat) (s : State) {nxt : State} (e : execSegmentClose m s = .next nxt) : Keeps 264281 s nxt := by
  unfold execSegmentClose at e
  first | refine Keeps.go ?_ e | refine Keeps.goRead ?_ e | cases e
  try dsimp only
  repeat' first
    | with_reducible assumption
    | with_reducible apply Keeps.refl
    | (with_reducible apply Keeps.after (m := 264281) (State.segmentClose_keeps ..) (by decide))
    | intro _
    | dsimp only

theorem execSurprise_keeps (b : Nat) (s : State) {nxt : State} (e : execSurprise b s = .next nxt) : Keeps 571230919519 s nxt := by
  unfold execSurprise at e
  first | refine Keeps.go ?_ e | refine Keeps.goRead ?_ e | cases e
  try dsimp only
  repeat' first
    | with_reducible assumption
    | with_reducible apply Keeps.refl
    | (with_reducible apply Keeps.after (m := 571230919519) (State.surprise_keeps ..) (by decide))
    | intro _
    | dsimp only

theorem execTakeClose_keeps (r : Nat) (s : State) {nxt : State} (e : execTakeClose r s = .next nxt) : Keeps 264281 s nxt := by
  unfold execTakeClose at e
  first | refine Keeps.go ?_ e | refine Keeps.goRead ?_ e | cases e
  try dsimp only
  repeat' first
    | with_reducible assumption
    | with_reducible apply Keeps.refl
    | (with_reducible apply Keeps.after (m := 264281) (State.takeClose_keeps ..) (by decide))
    | intro _
    | dsimp only

theorem execUnsealedEnd_keeps (m : Nat) (s : State) {nxt : State} (e : execUnsealedEnd m s = .next nxt) : Keeps 264281 s nxt := by
  unfold execUnsealedEnd at e
  first | refine Keeps.go ?_ e | refine Keeps.goRead ?_ e | cases e
  try dsimp only
  repeat' first
    | with_reducible assumption
    | with_reducible apply Keeps.refl
    | (with_reducible apply Keeps.after (m := 264281) (State.unsealedEnd_keeps ..) (by decide))
    | intro _
    | dsimp only

end Sys2Proof.Machine
end

