-- ==== Sys2Proof/Laws/KeepsMagCmds.lean ====
section
/-! SUPPORT. What each function of Machine/MagCmds.lean may change. -/

namespace Sys2Proof.Machine

set_option linter.all false

theorem State.endJob_keeps (s : State) (j : MagJob) (status : Nat) (pl : List (Nat × Nat × Nat)) : Keeps 549756078105 s (State.endJob s j status pl) := by
  unfold State.endJob
  repeat' first
    | with_reducible assumption
    | with_reducible apply Keeps.refl
    | (with_reducible apply Keeps.after (m := 549756078105) (State.complete_keeps ..) (by decide))
    | (with_reducible apply Keeps.after (m := 549756078105) (State.setMag_keeps ..) (by decide))
    | intro _
    | dsimp only

theorem State.setJob_keeps (s : State) (id : Nat) (f : MagJob → MagJob) : Keeps 2048 s (State.setJob s id f) := by
  unfold State.setJob
  repeat' first
    | with_reducible assumption
    | with_reducible apply Keeps.refl
    | (with_reducible apply Keeps.after (m := 2048) (State.setMag_keeps ..) (by decide))
    | intro _
    | (with_reducible apply Keeps.ite)
    | split
    | dsimp only

theorem State.readRun_keeps (s : State) (j : MagJob) : Keeps 549756078105 s (State.readRun s j) := by
  unfold State.readRun
  repeat' first
    | with_reducible apply Keeps.refl
    | (with_reducible apply Keeps.after (m := 549756078105) (State.endJob_keeps ..) (by decide))
    | (with_reducible apply Keeps.after (m := 549756078105) (State.issue_keeps ..) (by decide))
    | (with_reducible apply Keeps.ite)
    | split
    | dsimp only

theorem State.readMoves_keeps (s : State) : Keeps 549756078169 s (State.readMoves s) := by
  unfold State.readMoves
  repeat' first
    | (with_reducible apply Keeps.foldl)
    | with_reducible assumption
    | with_reducible apply Keeps.refl
    | (with_reducible apply Keeps.after (m := 549756078169) (State.endJob_keeps ..) (by decide))
    | (with_reducible apply Keeps.after (m := 549756078169) (State.hpEvt_keeps ..) (by decide))
    | (with_reducible apply Keeps.after (m := 549756078169) (State.useJob_keeps ..) (by decide))
    | (with_reducible apply Keeps.after (m := 549756078169) (State.hostWrite_keeps ..) (by decide))
    | (with_reducible apply Keeps.after (m := 549756078169) (State.setJob_keeps ..) (by decide))
    | (with_reducible apply Keeps.after (m := 549756078169) (State.readRun_keeps ..) (by decide))
    | (intro x; refine (fun hx : Keeps 549756078169 s x => ?_) ?_; clear_value x; rotate_left; dsimp only [x]; rotate_right)
    | intro _
    | (with_reducible apply Keeps.ite)
    | lift_lets
    | split
    | dsimp only

theorem State.formatStep_keeps (s : State) (j : MagJob) : Keeps 549756078105 s (State.formatStep s j) := by
  unfold State.formatStep
  repeat' first
    | (with_reducible apply Keeps.foldl)
    | with_reducible assumption
    | with_reducible apply Keeps.refl
    | (with_reducible apply Keeps.after (m := 549756078105) (State.endJob_keeps ..) (by decide))
    | (with_reducible apply Keeps.after (m := 549756078105) (State.writeMeta_keeps ..) (by decide))
    | (with_reducible apply Keeps.after (m := 549756078105) (State.setJob_keeps ..) (by decide))
    | (with_reducible apply Keeps.after (m := 549756078105) (State.issue_keeps ..) (by decide))
    | (with_reducible apply Keeps.after (m := 549756078105) (State.setDrive_keeps ..) (by decide))
    | (with_reducible apply Keeps.after (m := 549756078105) (State.setBay_keeps ..) (by decide))
    | (intro x; refine (fun hx : Keeps 549756078105 s x => ?_) ?_; clear_value x; rotate_left; dsimp only [x]; rotate_right)
    | intro _
    | (with_reducible apply Keeps.ite)
    | lift_lets
    | split
    | dsimp only

theorem State.repairWrites_keeps (s : State) (j : MagJob) (x : Super) (first pos : Nat) (fuel : Nat) (data : List Byte) : Keeps 264193 s (State.repairWrites s j x first pos fuel data) := by
  induction fuel generalizing s pos data with
  | zero => exact Keeps.refl _ _
  | succ fuel ih =>
    unfold State.repairWrites
    repeat' first
      | with_reducible assumption
      | with_reducible apply Keeps.refl
      | (with_reducible apply Keeps.after (m := 264193) (ih ..) (by decide))
      | (with_reducible apply Keeps.after (m := 264193) (State.writeMeta_keeps ..) (by decide))
      | (intro x; refine (fun hx : Keeps 264193 s x => ?_) ?_; clear_value x; rotate_left; dsimp only [x]; rotate_right)
      | intro _
      | (with_reducible apply Keeps.ite)
      | lift_lets
      | split
      | dsimp only


theorem State.repairSeg_keeps (s : State) (j : MagJob) (x : Super) (q : TornSeg) : Keeps 264193 s (State.repairSeg s j x q) := by
  unfold State.repairSeg
  repeat' first
    | (with_reducible apply Keeps.foldl)
    | with_reducible assumption
    | with_reducible apply Keeps.refl
    | (with_reducible apply Keeps.after (m := 264193) (State.repairWrites_keeps ..) (by decide))
    | (with_reducible apply Keeps.after (m := 264193) (State.writeMeta_keeps ..) (by decide))
    | (with_reducible apply Keeps.after (m := 264193) (State.setDrive_keeps ..) (by decide))
    | (with_reducible apply Keeps.after (m := 264193) (State.setJob_keeps ..) (by decide))
    | (intro x; refine (fun hx : Keeps 264193 s x => ?_) ?_; clear_value x; rotate_left; dsimp only [x]; rotate_right)
    | intro _
    | (with_reducible apply Keeps.ite)
    | lift_lets
    | split
    | dsimp only

theorem State.repairStep_keeps (s : State) (j : MagJob) (r : DrvReply) : Keeps 549756078105 s (State.repairStep s j r) := by
  unfold State.repairStep
  repeat' first
    | (with_reducible apply Keeps.foldl)
    | with_reducible assumption
    | with_reducible apply Keeps.refl
    | (with_reducible apply Keeps.after (m := 549756078105) (State.endJob_keeps ..) (by decide))
    | (with_reducible apply Keeps.after (m := 549756078105) (State.repairSeg_keeps ..) (by decide))
    | (with_reducible apply Keeps.after (m := 549756078105) (State.issue_keeps ..) (by decide))
    | (with_reducible apply Keeps.after (m := 549756078105) (State.setJob_keeps ..) (by decide))
    | (with_reducible apply Keeps.after (m := 549756078105) (State.setBay_keeps ..) (by decide))
    | (with_reducible apply Keeps.after (m := 549756078105) (State.setDrive_keeps ..) (by decide))
    | (intro x; refine (fun hx : Keeps 549756078105 s x => ?_) ?_; clear_value x; rotate_left; dsimp only [x]; rotate_right)
    | intro _
    | (with_reducible apply Keeps.ite)
    | lift_lets
    | split
    | dsimp only

theorem State.sanitizeStep_keeps (s : State) (j : MagJob) : Keeps 549756078105 s (State.sanitizeStep s j) := by
  unfold State.sanitizeStep
  repeat' first
    | (with_reducible apply Keeps.foldl)
    | with_reducible assumption
    | with_reducible apply Keeps.refl
    | (with_reducible apply Keeps.after (m := 549756078105) (State.endJob_keeps ..) (by decide))
    | (with_reducible apply Keeps.after (m := 549756078105) (State.setDrive_keeps ..) (by decide))
    | (with_reducible apply Keeps.after (m := 549756078105) (State.setBay_keeps ..) (by decide))
    | (intro x; refine (fun hx : Keeps 549756078105 s x => ?_) ?_; clear_value x; rotate_left; dsimp only [x]; rotate_right)
    | intro _
    | (with_reducible apply Keeps.ite)
    | lift_lets
    | split
    | dsimp only

theorem State.readStep_keeps (s : State) (j : MagJob) (r : DrvReply) : Keeps 549756078169 s (State.readStep s j r) := by
  unfold State.readStep
  repeat' first
    | with_reducible assumption
    | with_reducible apply Keeps.refl
    | (with_reducible apply Keeps.after (m := 549756078169) (State.endJob_keeps ..) (by decide))
    | (with_reducible apply Keeps.after (m := 549756078169) (State.addWork_keeps ..) (by decide))
    | (with_reducible apply Keeps.after (m := 549756078169) (State.setJob_keeps ..) (by decide))
    | (intro x; refine (fun hx : Keeps 549756078169 s x => ?_) ?_; clear_value x; rotate_left; dsimp only [x]; rotate_right)
    | intro _
    | (with_reducible apply Keeps.ite)
    | lift_lets
    | split
    | dsimp only

theorem State.jobStep_keeps (s : State) (id : Nat) (r : DrvReply) : Keeps 549756078169 s (State.jobStep s id r) := by
  unfold State.jobStep
  repeat' first
    | with_reducible assumption
    | with_reducible apply Keeps.refl
    | (with_reducible apply Keeps.after (m := 549756078169) (State.formatStep_keeps ..) (by decide))
    | (with_reducible apply Keeps.after (m := 549756078169) (State.repairStep_keeps ..) (by decide))
    | (with_reducible apply Keeps.after (m := 549756078169) (State.sanitizeStep_keeps ..) (by decide))
    | (with_reducible apply Keeps.after (m := 549756078169) (State.readStep_keeps ..) (by decide))
    | intro _
    | split
    | dsimp only

theorem State.startJob_keeps (s : State) (j : MagJob) : Keeps 2048 s (State.startJob s j) := by
  unfold State.startJob
  repeat' first
    | with_reducible assumption
    | with_reducible apply Keeps.refl
    | (with_reducible apply Keeps.after (m := 2048) (State.setMag_keeps ..) (by decide))
    | intro _
    | dsimp only

theorem State.magFormat_keeps (s : State) (d : Desc) : Keeps 549756602393 s (State.magFormat s d) := by
  unfold State.magFormat
  repeat' first
    | (with_reducible apply Keeps.foldl)
    | with_reducible assumption
    | with_reducible apply Keeps.refl
    | (with_reducible apply State.runCmd_keeps (mk := 549756602393) (by decide))
    | (with_reducible apply Keeps.after (m := 549756602393) (State.useFree_keeps ..) (by decide))
    | (with_reducible apply Keeps.after (m := 549756602393) (State.startJob_keeps ..) (by decide))
    | (with_reducible apply Keeps.after (m := 549756602393) (State.issue_keeps ..) (by decide))
    | (intro x; refine (fun hx : Keeps 549756602393 s x => ?_) ?_; clear_value x; rotate_left; dsimp only [x]; rotate_right)
    | intro _
    | (with_reducible apply Keeps.ite)
    | lift_lets
    | split
    | dsimp only

theorem State.magRead_keeps (s : State) (d : Desc) : Keeps 549756078105 s (State.magRead s d) := by
  unfold State.magRead
  repeat' first
    | with_reducible assumption
    | with_reducible apply Keeps.refl
    | (with_reducible apply State.runCmd_keeps (mk := 549756078105) (by decide))
    | (with_reducible apply Keeps.after (m := 549756078105) (State.readRun_keeps ..) (by decide))
    | (with_reducible apply Keeps.after (m := 549756078105) (State.startJob_keeps ..) (by decide))
    | (intro x; refine (fun hx : Keeps 549756078105 s x => ?_) ?_; clear_value x; rotate_left; dsimp only [x]; rotate_right)
    | intro _
    | lift_lets
    | dsimp only

theorem State.magRelay_keeps (s : State) (d : Desc) : Keeps 549756078169 s (State.magRelay s d) := by
  unfold State.magRelay
  repeat' first
    | with_reducible assumption
    | with_reducible apply Keeps.refl
    | (with_reducible apply State.runCmd_keeps (mk := 549756078169) (by decide))
    | (with_reducible apply Keeps.after (m := 549756078169) (State.startRelay_keeps (e := ‹_›) ..) (by decide))
    | (with_reducible apply Keeps.after (m := 549756078169) (State.complete_keeps ..) (by decide))
    | (intro x; refine (fun hx : Keeps 549756078169 s x => ?_) ?_; clear_value x; rotate_left; dsimp only [x]; rotate_right)
    | intro _
    | lift_lets
    | split
    | dsimp only

theorem State.magRelease_keeps (s : State) (d : Desc) : Keeps 549756078169 s (State.magRelease s d) := by
  unfold State.magRelease
  repeat' first
    | with_reducible assumption
    | with_reducible apply Keeps.refl
    | (with_reducible apply State.runCmd_keeps (mk := 549756078169) (by decide))
    | (with_reducible apply Keeps.after (m := 549756078169) (State.latchRelay_keeps (e := ‹_›) ..) (by decide))
    | (with_reducible apply Keeps.after (m := 549756078169) (State.complete_keeps ..) (by decide))
    | (with_reducible apply Keeps.after (m := 549756078169) (State.releaseBay_keeps ..) (by decide))
    | (with_reducible apply Keeps.after (m := 549756078169) (State.setBay_keeps ..) (by decide))
    | (intro x; refine (fun hx : Keeps 549756078169 s x => ?_) ?_; clear_value x; rotate_left; dsimp only [x]; rotate_right)
    | intro _
    | (with_reducible apply Keeps.ite)
    | lift_lets
    | split
    | dsimp only

theorem State.magRepair_keeps (s : State) (d : Desc) : Keeps 549756078105 s (State.magRepair s d) := by
  unfold State.magRepair
  repeat' first
    | with_reducible assumption
    | with_reducible apply Keeps.refl
    | (with_reducible apply State.runCmd_keeps (mk := 549756078105) (by decide))
    | (with_reducible apply Keeps.after (m := 549756078105) (State.complete_keeps ..) (by decide))
    | (with_reducible apply Keeps.after (m := 549756078105) (State.startJob_keeps ..) (by decide))
    | (with_reducible apply Keeps.after (m := 549756078105) (State.issue_keeps ..) (by decide))
    | (intro x; refine (fun hx : Keeps 549756078105 s x => ?_) ?_; clear_value x; rotate_left; dsimp only [x]; rotate_right)
    | intro _
    | (with_reducible apply Keeps.ite)
    | lift_lets
    | split
    | dsimp only

theorem State.magSanitize_keeps (s : State) (d : Desc) : Keeps 549756078105 s (State.magSanitize s d) := by
  unfold State.magSanitize
  repeat' first
    | (with_reducible apply Keeps.foldl)
    | with_reducible assumption
    | with_reducible apply Keeps.refl
    | (with_reducible apply State.runCmd_keeps (mk := 549756078105) (by decide))
    | (with_reducible apply Keeps.after (m := 549756078105) (State.startJob_keeps ..) (by decide))
    | (with_reducible apply Keeps.after (m := 549756078105) (State.issue_keeps ..) (by decide))
    | (intro x; refine (fun hx : Keeps 549756078105 s x => ?_) ?_; clear_value x; rotate_left; dsimp only [x]; rotate_right)
    | intro _
    | lift_lets
    | dsimp only

theorem execDriveCommandComplete_keeps (slot id : Nat) (r : DrvReply) (s : State) {nxt : State} (e : execDriveCommandComplete slot id r s = .next nxt) : Keeps 571230919519 s nxt := by
  unfold execDriveCommandComplete at e
  first | refine Keeps.go ?_ e | refine Keeps.goRead ?_ e | cases e
  try dsimp only
  repeat' first
    | with_reducible assumption
    | with_reducible apply Keeps.refl
    | (with_reducible apply State.driveComplete_keeps (mk := 571230919519) (by decide))
    | (with_reducible apply Keeps.after (m := 571230919519) (State.jobStep_keeps ..) (by decide))
    | intro _
    | dsimp only

theorem execMagFormat_keeps (d : Desc) (s : State) {nxt : State} (e : execMagFormat d s = .next nxt) : Keeps 549756602393 s nxt := by
  unfold execMagFormat at e
  first | refine Keeps.go ?_ e | refine Keeps.goRead ?_ e | cases e
  try dsimp only
  repeat' first
    | with_reducible assumption
    | with_reducible apply Keeps.refl
    | (with_reducible apply Keeps.after (m := 549756602393) (State.magFormat_keeps ..) (by decide))
    | intro _
    | dsimp only

theorem execMagRead_keeps (d : Desc) (s : State) {nxt : State} (e : execMagRead d s = .next nxt) : Keeps 549756078105 s nxt := by
  unfold execMagRead at e
  first | refine Keeps.go ?_ e | refine Keeps.goRead ?_ e | cases e
  try dsimp only
  repeat' first
    | with_reducible assumption
    | with_reducible apply Keeps.refl
    | (with_reducible apply Keeps.after (m := 549756078105) (State.magRead_keeps ..) (by decide))
    | intro _
    | dsimp only

theorem execMagRelay_keeps (d : Desc) (s : State) {nxt : State} (e : execMagRelay d s = .next nxt) : Keeps 549756078169 s nxt := by
  unfold execMagRelay at e
  first | refine Keeps.go ?_ e | refine Keeps.goRead ?_ e | cases e
  try dsimp only
  repeat' first
    | with_reducible assumption
    | with_reducible apply Keeps.refl
    | (with_reducible apply Keeps.after (m := 549756078169) (State.magRelay_keeps ..) (by decide))
    | intro _
    | dsimp only

theorem execMagRelease_keeps (d : Desc) (s : State) {nxt : State} (e : execMagRelease d s = .next nxt) : Keeps 549756078169 s nxt := by
  unfold execMagRelease at e
  first | refine Keeps.go ?_ e | refine Keeps.goRead ?_ e | cases e
  try dsimp only
  repeat' first
    | with_reducible assumption
    | with_reducible apply Keeps.refl
    | (with_reducible apply Keeps.after (m := 549756078169) (State.magRelease_keeps ..) (by decide))
    | intro _
    | dsimp only

theorem execMagRepair_keeps (d : Desc) (s : State) {nxt : State} (e : execMagRepair d s = .next nxt) : Keeps 549756078105 s nxt := by
  unfold execMagRepair at e
  first | refine Keeps.go ?_ e | refine Keeps.goRead ?_ e | cases e
  try dsimp only
  repeat' first
    | with_reducible assumption
    | with_reducible apply Keeps.refl
    | (with_reducible apply Keeps.after (m := 549756078105) (State.magRepair_keeps ..) (by decide))
    | intro _
    | dsimp only

theorem execMagSanitize_keeps (d : Desc) (s : State) {nxt : State} (e : execMagSanitize d s = .next nxt) : Keeps 549756078105 s nxt := by
  unfold execMagSanitize at e
  first | refine Keeps.go ?_ e | refine Keeps.goRead ?_ e | cases e
  try dsimp only
  repeat' first
    | with_reducible assumption
    | with_reducible apply Keeps.refl
    | (with_reducible apply Keeps.after (m := 549756078105) (State.magSanitize_keeps ..) (by decide))
    | intro _
    | dsimp only

end Sys2Proof.Machine
end

