-- ==== Sys2Proof/Laws/KeepsSpill.lean ====
section
/-! SUPPORT. What each function of Machine/Spill.lean may change. -/

namespace Sys2Proof.Machine

set_option linter.all false

theorem State.setMover_keeps (s : State) (f : MoverState → MoverState) : Keeps 1024 s (State.setMover s f) := by
  unfold State.setMover
  repeat' first
    | with_reducible apply Keeps.refl
    | dsimp only
    | (with_reducible apply Keeps.mover (m := 1024) (by decide))

theorem State.setSpw_keeps (s : State) (w : Nat) (f : SpwSt → SpwSt) : Keeps 256 s (State.setSpw s w f) := by
  unfold State.setSpw
  repeat' first
    | with_reducible assumption
    | with_reducible apply Keeps.refl
    | (with_reducible apply Keeps.after (m := 256) (State.setStore_keeps ..) (by decide))
    | intro _
    | dsimp only

theorem State.dropSpill_keeps (s : State) (id : Nat) : Keeps 1024 s (State.dropSpill s id) := by
  unfold State.dropSpill
  repeat' first
    | with_reducible assumption
    | with_reducible apply Keeps.refl
    | intro _
    | dsimp only
    | (with_reducible apply Keeps.mover (m := 1024) (by decide))

theorem State.spillCommit_keeps (s : State) (before : RegSet) : Keeps 1280 s (State.spillCommit s before) := by
  unfold State.spillCommit
  repeat' first
    | (with_reducible apply Keeps.foldl)
    | with_reducible assumption
    | with_reducible apply Keeps.refl
    | (with_reducible apply Keeps.after (m := 1280) (State.setSpw_keeps ..) (by decide))
    | (with_reducible apply Keeps.after (m := 1280) (State.setFrame_keeps ..) (by decide))
    | (with_reducible apply Keeps.after (m := 1280) (State.dropSpill_keeps ..) (by decide))
    | (intro x; refine (fun hx : Keeps 1280 s x => ?_) ?_; clear_value x; rotate_left; dsimp only [x]; rotate_right)
    | intro _
    | (with_reducible apply Keeps.ite)
    | lift_lets
    | split
    | dsimp only

theorem State.backlogStart_keeps (s : State) : Keeps 264541 s (State.backlogStart s) := by
  unfold State.backlogStart
  repeat' first
    | with_reducible assumption
    | with_reducible apply Keeps.refl
    | (with_reducible apply Keeps.after (m := 264541) (State.backlog_keeps ..) (by decide))
    | (with_reducible apply Keeps.after (m := 264541) (State.setStore_keeps ..) (by decide))
    | intro _
    | (with_reducible apply Keeps.ite)
    | split
    | dsimp only

theorem State.moverReads_keeps (s : State) (m p addr n : Nat) : Keeps 1024 s (State.moverReads s m p addr n) := by
  unfold State.moverReads
  repeat' first
    | (with_reducible apply Keeps.foldl)
    | with_reducible assumption
    | with_reducible apply Keeps.refl
    | (with_reducible apply Keeps.after (m := 1024) (State.setMover_keeps ..) (by decide))
    | (intro x; refine (fun hx : Keeps 1024 s x => ?_) ?_; clear_value x; rotate_left; dsimp only [x]; rotate_right)
    | intro _
    | (with_reducible apply Keeps.ite)
    | lift_lets
    | split
    | dsimp only

theorem State.movePage_keeps {s : State} (c : Nat) {res} (e : State.movePage s c = some res) : Keeps 131328 s res := by
  unfold State.movePage at e
  try dsimp only at e
  repeat' split at e
  all_goals (cases e <;> (
    repeat' first
      | with_reducible assumption
      | with_reducible apply Keeps.refl
      | (with_reducible apply Keeps.after (m := 131328) (State.allocPage_keeps (e := ‹_›) ..) (by decide))
      | (with_reducible apply Keeps.after (m := 131328) (State.freePage_keeps ..) (by decide))
      | (with_reducible apply Keeps.after (m := 131328) (State.setFrame_keeps ..) (by decide))
      | exact fun h => hbmWrite_wf _ _ _ h
      | exact hbmWrite_wf _ _ _ ‹_›
      | (intro x; refine (fun hx : Keeps 131328 s x => ?_) ?_; clear_value x; rotate_left; dsimp only [x]; rotate_right)
      | intro _
      | (with_reducible apply Keeps.ite)
      | lift_lets
      | split
      | dsimp only
      | (with_reducible apply Keeps.hbm (m := 131328) (by decide))))

theorem State.movePages_keeps (s : State) (c : Nat) (n : Nat) : Keeps 131392 s (State.movePages s c n) := by
  induction n generalizing s with
  | zero => exact Keeps.refl _ _
  | succ n ih =>
    unfold State.movePages
    repeat' first
      | with_reducible apply Keeps.refl
      | (with_reducible apply Keeps.after (m := 131392) (ih ..) (by decide))
      | (with_reducible apply Keeps.after (m := 131392) (State.movePage_keeps (e := ‹_›) ..) (by decide))
      | (with_reducible apply Keeps.after (m := 131392) (State.useJob_keeps ..) (by decide))
      | (with_reducible apply Keeps.ite)
      | split
      | dsimp only


theorem State.takePages_keeps {s : State} {n : Nat} {got : List Nat} {a t} (e : s.takePages n got = some (a, t)) : Keeps 262431 s t := by
  induction n generalizing s got with
  | zero =>
    cases e
    exact Keeps.refl _ _
  | succ n ih =>
    unfold State.takePages at e
    split at e
    · exact (((State.allocPage_keeps ‹_›).mono (by decide)).trans ((State.watermarks_keeps _).mono (by decide))).trans (ih e)
    · cases e


theorem State.drainPages_keeps (s : State) : Keeps 393567 s (State.drainPages s) := by
  unfold State.drainPages
  repeat' first
    | (with_reducible apply Keeps.foldl)
    | with_reducible assumption
    | with_reducible apply Keeps.refl
    | (with_reducible apply Keeps.after (m := 393567) (State.movePages_keeps ..) (by decide))
    | (with_reducible apply Keeps.after (m := 393567) (State.setWork_keeps ..) (by decide))
    | (with_reducible apply Keeps.after (m := 393567) (State.takePages_keeps (e := ‹_›) ..) (by decide))
    | (with_reducible apply Keeps.after (m := 393567) (State.setStore_keeps ..) (by decide))
    | (intro x; refine (fun hx : Keeps 393567 s x => ?_) ?_; clear_value x; rotate_left; dsimp only [x]; rotate_right)
    | intro _
    | (with_reducible apply Keeps.ite)
    | lift_lets
    | split
    | dsimp only

theorem State.spillMover_keeps (s : State) (m w n : Nat) : Keeps 1025 s (State.spillMover s m w n) := by
  unfold State.spillMover
  repeat' first
    | with_reducible assumption
    | with_reducible apply Keeps.refl
    | (with_reducible apply Keeps.after (m := 1025) (State.add64_keeps ..) (by decide))
    | (with_reducible apply Keeps.after (m := 1025) (State.setMover_keeps ..) (by decide))
    | intro _
    | dsimp only

theorem State.spillFail_keeps (s : State) (w : Nat) : Keeps 263449 s (State.spillFail s w) := by
  unfold State.spillFail
  repeat' first
    | with_reducible assumption
    | with_reducible apply Keeps.refl
    | (with_reducible apply Keeps.after (m := 263449) (State.dropSpill_keeps ..) (by decide))
    | (with_reducible apply Keeps.after (m := 263449) (State.setFrame_keeps ..) (by decide))
    | (with_reducible apply Keeps.after (m := 263449) (State.setSpw_keeps ..) (by decide))
    | (with_reducible apply Keeps.after (m := 263449) (State.count_keeps ..) (by decide))
    | (with_reducible apply Keeps.after (m := 263449) (State.storeEvt_keeps ..) (by decide))
    | (intro x; refine (fun hx : Keeps 263449 s x => ?_) ?_; clear_value x; rotate_left; dsimp only [x]; rotate_right)
    | intro _
    | lift_lets
    | split
    | dsimp only

theorem State.pageOutWrites_keeps (s : State) (m : Nat) (f : FrameSt) (w : Nat) (ps : List Nat) : Keeps 263193 s (State.pageOutWrites s m f w ps) := by
  unfold State.pageOutWrites
  repeat' first
    | (with_reducible apply Keeps.foldl)
    | with_reducible assumption
    | with_reducible apply Keeps.refl
    | (with_reducible apply Keeps.after (m := 263193) (State.slotBytes_keeps ..) (by decide))
    | (with_reducible apply Keeps.after (m := 263193) (State.readBytes_keeps ..) (by decide))
    | (with_reducible apply Keeps.after (m := 263193) (State.hostWrite_keeps ..) (by decide))
    | (with_reducible apply Keeps.after (m := 263193) (State.emit_keeps ..) (by decide))
    | (with_reducible apply Keeps.after (m := 263193) (State.moverReads_keeps ..) (by decide))
    | (intro x; refine (fun hx : Keeps 263193 s x => ?_) ?_; clear_value x; rotate_left; dsimp only [x]; rotate_right)
    | intro _
    | lift_lets
    | split
    | dsimp only

theorem State.spillMoves_keeps (s : State) : Keeps 263513 s (State.spillMoves s) := by
  unfold State.spillMoves
  repeat' first
    | (with_reducible apply Keeps.foldl)
    | with_reducible assumption
    | with_reducible apply Keeps.refl
    | (with_reducible apply Keeps.after (m := 263513) (State.spillMover_keeps ..) (by decide))
    | (with_reducible apply Keeps.after (m := 263513) (State.useJob_keeps ..) (by decide))
    | (with_reducible apply Keeps.after (m := 263513) (State.spillFail_keeps ..) (by decide))
    | (with_reducible apply Keeps.after (m := 263513) (State.hpEvt_keeps ..) (by decide))
    | (with_reducible apply Keeps.after (m := 263513) (State.pageOutWrites_keeps ..) (by decide))
    | (intro x; refine (fun hx : Keeps 263513 s x => ?_) ?_; clear_value x; rotate_left; dsimp only [x]; rotate_right)
    | intro _
    | (with_reducible apply Keeps.ite)
    | lift_lets
    | split
    | dsimp only
    | (with_reducible apply Keeps.mover (m := 263513) (by decide))

theorem State.moverErr_keeps (s : State) (m port src index : Nat) (write : Bool) (kind addr : Nat) : Keeps 1 s (State.moverErr s m port src index write kind addr) := by
  unfold State.moverErr
  repeat' first
    | with_reducible assumption
    | with_reducible apply Keeps.refl
    | (with_reducible apply Keeps.after (m := 1) (State.count_keeps ..) (by decide))
    | (with_reducible apply Keeps.after (m := 1) (State.set64_keeps ..) (by decide))
    | (with_reducible apply Keeps.after (m := 1) (State.setReg_keeps ..) (by decide))
    | (intro x; refine (fun hx : Keeps 1 s x => ?_) ?_; clear_value x; rotate_left; dsimp only [x]; rotate_right)
    | intro _
    | (with_reducible apply Keeps.ite)
    | lift_lets
    | split
    | dsimp only

theorem State.pcReturned_keeps (s : State) (c : Nat) : Keeps 256 s (State.pcReturned s c) := by
  unfold State.pcReturned
  repeat' first
    | (with_reducible apply Keeps.foldl)
    | with_reducible assumption
    | with_reducible apply Keeps.refl
    | (with_reducible apply Keeps.after (m := 256) (State.freePage_keeps ..) (by decide))
    | (with_reducible apply Keeps.after (m := 256) (State.setStore_keeps ..) (by decide))
    | (intro x; refine (fun hx : Keeps 256 s x => ?_) ?_; clear_value x; rotate_left; dsimp only [x]; rotate_right)
    | intro _
    | lift_lets
    | dsimp only

theorem State.spillDrop_keeps (s : State) (p : Nat) : Keeps 17180137241 s (State.spillDrop s p) := by
  unfold State.spillDrop
  repeat' first
    | (with_reducible apply Keeps.foldl)
    | with_reducible assumption
    | with_reducible apply Keeps.refl
    | (with_reducible apply Keeps.after (m := 17180137241) (State.setSpw_keeps ..) (by decide))
    | (with_reducible apply Keeps.after (m := 17180137241) (State.setFrame_keeps ..) (by decide))
    | (with_reducible apply Keeps.after (m := 17180137241) (State.dropSpill_keeps ..) (by decide))
    | (with_reducible apply Keeps.after (m := 17180137241) (State.releaseIf_keeps ..) (by decide))
    | (intro x; refine (fun hx : Keeps 17180137241 s x => ?_) ?_; clear_value x; rotate_left; dsimp only [x]; rotate_right)
    | intro _
    | (with_reducible apply Keeps.ite)
    | lift_lets
    | split
    | dsimp only

theorem State.spillOutDone_keeps (s : State) (w : Nat) : Keeps 1281 s (State.spillOutDone s w) := by
  unfold State.spillOutDone
  repeat' first
    | with_reducible assumption
    | with_reducible apply Keeps.refl
    | (with_reducible apply Keeps.after (m := 1281) (State.dropSpill_keeps ..) (by decide))
    | (with_reducible apply Keeps.after (m := 1281) (State.setFrame_keeps ..) (by decide))
    | (with_reducible apply Keeps.after (m := 1281) (State.count_keeps ..) (by decide))
    | (intro x; refine (fun hx : Keeps 1281 s x => ?_) ?_; clear_value x; rotate_left; dsimp only [x]; rotate_right)
    | intro _
    | lift_lets
    | split
    | dsimp only

theorem State.windowDone_keeps (s : State) (w : Nat) : Keeps 262425 s (State.windowDone s w) := by
  unfold State.windowDone
  repeat' first
    | with_reducible assumption
    | with_reducible apply Keeps.refl
    | (with_reducible apply Keeps.after (m := 262425) (State.storeEvt_keeps ..) (by decide))
    | (with_reducible apply Keeps.after (m := 262425) (State.setSpw_keeps ..) (by decide))
    | intro _
    | (with_reducible apply Keeps.ite)
    | split
    | dsimp only

theorem State.spillPageIn_keeps (s : State) (w : Nat) (data : List Byte) : Keeps 17180268319 s (State.spillPageIn s w data) := by
  unfold State.spillPageIn
  repeat' first
    | (with_reducible apply Keeps.foldl)
    | with_reducible assumption
    | with_reducible apply Keeps.refl
    | (with_reducible apply Keeps.after (m := 17180268319) (State.windowDone_keeps ..) (by decide))
    | (with_reducible apply Keeps.after (m := 17180268319) (State.setSpw_keeps ..) (by decide))
    | (with_reducible apply Keeps.after (m := 17180268319) (State.takePages_keeps (e := ‹_›) ..) (by decide))
    | (with_reducible apply Keeps.after (m := 17180268319) (State.releaseIf_keeps ..) (by decide))
    | (with_reducible apply Keeps.after (m := 17180268319) (State.storeEvt_keeps ..) (by decide))
    | (with_reducible apply Keeps.after (m := 17180268319) (State.setFrame_keeps ..) (by decide))
    | (with_reducible apply Keeps.after (m := 17180268319) (State.count_keeps ..) (by decide))
    | (with_reducible apply Keeps.after (m := 17180268319) (State.hostReadCount_keeps ..) (by decide))
    | (with_reducible apply Keeps.after (m := 17180268319) (State.emit_keeps ..) (by decide))
    | (with_reducible apply Keeps.after (m := 17180268319) (State.moverReads_keeps ..) (by decide))
    | (with_reducible apply Keeps.after (m := 17180268319) (State.spillMover_keeps ..) (by decide))
    | (with_reducible apply Keeps.after (m := 17180268319) (State.putPayload_keeps ..) (by decide))
    | (intro x; refine (fun hx : Keeps 17180268319 s x => ?_) ?_; clear_value x; rotate_left; dsimp only [x]; rotate_right)
    | intro _
    | (with_reducible apply Keeps.ite)
    | lift_lets
    | split
    | dsimp only

theorem State.spillPageOut_keeps (s : State) : Keeps 1344 s (State.spillPageOut s) := by
  unfold State.spillPageOut
  repeat' first
    | (with_reducible apply Keeps.foldl)
    | with_reducible assumption
    | with_reducible apply Keeps.refl
    | (with_reducible apply Keeps.after (m := 1344) (State.setFrame_keeps ..) (by decide))
    | (with_reducible apply Keeps.after (m := 1344) (State.setSpw_keeps ..) (by decide))
    | (with_reducible apply Keeps.after (m := 1344) (State.addWork_keeps ..) (by decide))
    | (intro x; refine (fun hx : Keeps 1344 s x => ?_) ?_; clear_value x; rotate_left; dsimp only [x]; rotate_right)
    | intro _
    | (with_reducible apply Keeps.ite)
    | lift_lets
    | split
    | dsimp only
    | (with_reducible apply Keeps.mover (m := 1344) (by decide))

theorem execPageCacheRefill_keeps (st : Nat) (s : State) {nxt : State} (e : execPageCacheRefill st s = .next nxt) : Keeps 264543 s nxt := by
  unfold execPageCacheRefill at e
  first | refine Keeps.go ?_ e | refine Keeps.goRead ?_ e | cases e
  try dsimp only
  repeat' first
    | with_reducible assumption
    | with_reducible apply Keeps.refl
    | (with_reducible apply Keeps.after (m := 264543) (State.backlogStart_keeps ..) (by decide))
    | (with_reducible apply Keeps.after (m := 264543) (State.refill_keeps ..) (by decide))
    | intro _
    | dsimp only

theorem execSpillFail_keeps (w : Nat) (s : State) {nxt : State} (e : execSpillFail w s = .next nxt) : Keeps 263449 s nxt := by
  unfold execSpillFail at e
  first | refine Keeps.go ?_ e | refine Keeps.goRead ?_ e | cases e
  try dsimp only
  repeat' first
    | with_reducible assumption
    | with_reducible apply Keeps.refl
    | (with_reducible apply Keeps.after (m := 263449) (State.spillFail_keeps ..) (by decide))
    | intro _
    | dsimp only

theorem execSpillPageIn_keeps (w : Nat) (data : List Byte) (s : State) {nxt : State} (e : execSpillPageIn w data s = .next nxt) : Keeps 17180270431 s nxt := by
  unfold execSpillPageIn at e
  first | refine Keeps.go ?_ e | refine Keeps.goRead ?_ e | cases e
  try dsimp only
  repeat' first
    | with_reducible assumption
    | with_reducible apply Keeps.refl
    | (with_reducible apply Keeps.after (m := 17180270431) (State.backlogStart_keeps ..) (by decide))
    | (with_reducible apply Keeps.after (m := 17180270431) (State.spillPageIn_keeps ..) (by decide))
    | intro _
    | dsimp only

theorem execSpillPageOut_keeps (s : State) {nxt : State} (e : execSpillPageOut s = .next nxt) : Keeps 1344 s nxt := by
  unfold execSpillPageOut at e
  first | refine Keeps.go ?_ e | refine Keeps.goRead ?_ e | cases e
  try dsimp only
  repeat' first
    | with_reducible assumption
    | with_reducible apply Keeps.refl
    | (with_reducible apply Keeps.after (m := 1344) (State.spillPageOut_keeps ..) (by decide))
    | intro _
    | dsimp only

theorem execSpillPageOutDone_keeps (w : Nat) (s : State) {nxt : State} (e : execSpillPageOutDone w s = .next nxt) : Keeps 1281 s nxt := by
  unfold execSpillPageOutDone at e
  first | refine Keeps.go ?_ e | refine Keeps.goRead ?_ e | cases e
  try dsimp only
  repeat' first
    | with_reducible assumption
    | with_reducible apply Keeps.refl
    | (with_reducible apply Keeps.after (m := 1281) (State.spillOutDone_keeps ..) (by decide))
    | intro _
    | dsimp only

end Sys2Proof.Machine
end

