-- ==== Sys2Proof/Laws/KeepsRigModes.lean ====
section
/-! SUPPORT. What each function of Machine/RigModes.lean may change. -/

namespace Sys2Proof.Machine

set_option linter.all false

theorem State.markLeaving_keeps (s : State) (r op : Nat) (on : Bool) : Keeps 64 s (State.markLeaving s r op on) := by
  unfold State.markLeaving
  repeat' first
    | with_reducible assumption
    | with_reducible apply Keeps.refl
    | (with_reducible apply Keeps.after (m := 64) (State.setPlan_keeps ..) (by decide))
    | intro _
    | (with_reducible apply Keeps.ite)
    | split
    | dsimp only

theorem State.undoRig_keeps (s : State) (r op tick tid : Nat) : Keeps 576 s (State.undoRig s r op tick tid) := by
  unfold State.undoRig
  repeat' first
    | with_reducible assumption
    | with_reducible apply Keeps.refl
    | (with_reducible apply Keeps.after (m := 576) (State.markLeaving_keeps ..) (by decide))
    | (with_reducible apply Keeps.after (m := 576) (State.setPlan_keeps ..) (by decide))
    | (intro x; refine (fun hx : Keeps 576 s x => ?_) ?_; clear_value x; rotate_left; dsimp only [x]; rotate_right)
    | intro _
    | (with_reducible apply Keeps.ite)
    | lift_lets
    | split
    | dsimp only
    | (with_reducible apply Keeps.takes (m := 576) (by decide))

theorem State.admitted_keeps (s : State) (acts : List (Act × Cls)) : Keeps 64 s (State.admitted s acts) := by
  unfold State.admitted
  repeat' first
    | with_reducible apply Keeps.refl
    | (with_reducible apply Keeps.after (m := 64) (State.addResvs_keeps ..) (by decide))
    | dsimp only

theorem State.drainCheck_keeps (s : State) : Keeps 4 s (State.drainCheck s) := by
  unfold State.drainCheck
  repeat' first
    | (with_reducible apply Keeps.foldl)
    | with_reducible assumption
    | with_reducible apply Keeps.refl
    | (with_reducible apply Keeps.after (m := 4) (State.pushBound_keeps ..) (by decide))
    | (intro x; refine (fun hx : Keeps 4 s x => ?_) ?_; clear_value x; rotate_left; dsimp only [x]; rotate_right)
    | intro _
    | (with_reducible apply Keeps.ite)
    | lift_lets
    | split
    | dsimp only

theorem State.enterRig_keeps (s : State) (r : Nat) (dest : RigMode) (cause first : Nat) : Keeps 4456477 s (State.enterRig s r dest cause first) := by
  unfold State.enterRig
  repeat' first
    | with_reducible assumption
    | with_reducible apply Keeps.refl
    | (with_reducible apply Keeps.after (m := 4456477) (State.post_keeps ..) (by decide))
    | (with_reducible apply Keeps.after (m := 4456477) (State.setRig_keeps ..) (by decide))
    | (intro x; refine (fun hx : Keeps 4456477 s x => ?_) ?_; clear_value x; rotate_left; dsimp only [x]; rotate_right)
    | intro _
    | lift_lets
    | dsimp only

theorem State.doStart_keeps (s : State) (r : Nat) : Keeps 801 s (State.doStart s r) := by
  unfold State.doStart
  repeat' first
    | (with_reducible apply Keeps.foldl)
    | with_reducible assumption
    | with_reducible apply Keeps.refl
    | (with_reducible apply Keeps.after (m := 801) (State.setRun_keeps ..) (by decide))
    | (with_reducible apply Keeps.after (m := 801) (State.timerStart_keeps ..) (by decide))
    | (with_reducible apply Keeps.after (m := 801) (State.setStream_keeps ..) (by decide))
    | (with_reducible apply Keeps.after (m := 801) (State.setF_keeps ..) (by decide))
    | (intro x; refine (fun hx : Keeps 801 s x => ?_) ?_; clear_value x; rotate_left; dsimp only [x]; rotate_right)
    | intro _
    | lift_lets
    | dsimp only

theorem State.ringStop_keeps (s : State) (r : Nat) : Keeps 17180136217 s (State.ringStop s r) := by
  unfold State.ringStop
  repeat' first
    | with_reducible assumption
    | with_reducible apply Keeps.refl
    | (with_reducible apply Keeps.after (m := 17180136217) (State.setRun_keeps ..) (by decide))
    | (with_reducible apply Keeps.after (m := 17180136217) (State.releaseAll_keeps ..) (by decide))
    | intro _
    | dsimp only

theorem State.dropLeaving_keeps (s : State) (r op : Nat) : Keeps 64 s (State.dropLeaving s r op) := by
  unfold State.dropLeaving
  repeat' first
    | with_reducible assumption
    | with_reducible apply Keeps.refl
    | (with_reducible apply Keeps.after (m := 64) (State.setPlan_keeps ..) (by decide))
    | (intro x; refine (fun hx : Keeps 64 s x => ?_) ?_; clear_value x; rotate_left; dsimp only [x]; rotate_right)
    | intro _
    | lift_lets
    | dsimp only

theorem State.retrainLow_keeps (s : State) (r : Nat) : Keeps 262303 s (State.retrainLow s r) := by
  unfold State.retrainLow
  repeat' first
    | (with_reducible apply Keeps.foldl)
    | with_reducible assumption
    | with_reducible apply Keeps.refl
    | (with_reducible apply Keeps.after (m := 262303) (State.retrain_keeps ..) (by decide))
    | (intro x; refine (fun hx : Keeps 262303 s x => ?_) ?_; clear_value x; rotate_left; dsimp only [x]; rotate_right)
    | intro _
    | (with_reducible apply Keeps.ite)
    | lift_lets
    | split
    | dsimp only

theorem State.streamsIdle_keeps (s : State) (r : Nat) : Keeps 256 s (State.streamsIdle s r) := by
  unfold State.streamsIdle
  repeat' first
    | (with_reducible apply Keeps.foldl)
    | with_reducible assumption
    | with_reducible apply Keeps.refl
    | (with_reducible apply Keeps.after (m := 256) (State.setStream_keeps ..) (by decide))
    | intro _
    | (with_reducible apply Keeps.ite)
    | split
    | dsimp only

theorem State.doStop_keeps (s : State) (r : Nat) : Keeps 17180136447 s (State.doStop s r) := by
  unfold State.doStop
  repeat' first
    | with_reducible assumption
    | with_reducible apply Keeps.refl
    | (with_reducible apply Keeps.after (m := 17180136447) (State.cancelFrom_keeps ..) (by decide))
    | (with_reducible apply Keeps.after (m := 17180136447) (State.ringStop_keeps ..) (by decide))
    | (with_reducible apply Keeps.after (m := 17180136447) (State.setRun_keeps ..) (by decide))
    | (with_reducible apply Keeps.after (m := 17180136447) (State.setTimer_keeps ..) (by decide))
    | (with_reducible apply Keeps.after (m := 17180136447) (State.dropLeaving_keeps ..) (by decide))
    | (with_reducible apply Keeps.after (m := 17180136447) (State.setF_keeps ..) (by decide))
    | (with_reducible apply Keeps.after (m := 17180136447) (State.retrainLow_keeps ..) (by decide))
    | (with_reducible apply Keeps.after (m := 17180136447) (State.streamsIdle_keeps ..) (by decide))
    | (intro x; refine (fun hx : Keeps 17180136447 s x => ?_) ?_; clear_value x; rotate_left; dsimp only [x]; rotate_right)
    | intro _
    | lift_lets
    | dsimp only

theorem State.claimPreroll_keeps (s : State) (r : Nat) (t : Take) (first live : Nat) : Keeps 256 s (State.claimPreroll s r t first live) := by
  unfold State.claimPreroll
  repeat' first
    | (with_reducible apply Keeps.foldl)
    | with_reducible assumption
    | with_reducible apply Keeps.refl
    | (with_reducible apply Keeps.after (m := 256) (State.setFrame_keeps ..) (by decide))
    | (intro x; refine (fun hx : Keeps 256 s x => ?_) ?_; clear_value x; rotate_left; dsimp only [x]; rotate_right)
    | intro _
    | (with_reducible apply Keeps.ite)
    | lift_lets
    | split
    | dsimp only

theorem State.doTakeStart_keeps (s : State) (r pre tid m : Nat) : Keeps 4197124 s (State.doTakeStart s r pre tid m).1 := by
  unfold State.doTakeStart
  repeat' first
    | with_reducible assumption
    | with_reducible apply Keeps.refl
    | (with_reducible apply Keeps.after (m := 4197124) (State.setTake_keeps ..) (by decide))
    | (with_reducible apply Keeps.after (m := 4197124) (State.claimPreroll_keeps ..) (by decide))
    | (with_reducible apply Keeps.after (m := 4197124) (State.setRec_keeps ..) (by decide))
    | (with_reducible apply Keeps.after (m := 4197124) (State.setRig_keeps ..) (by decide))
    | (with_reducible apply Keeps.after (m := 4197124) (State.enterSeg_keeps ..) (by decide))
    | (intro x; refine (fun hx : Keeps 4197124 s x => ?_) ?_; clear_value x; rotate_left; dsimp only [x]; rotate_right)
    | intro _
    | (with_reducible apply Keeps.ite)
    | lift_lets
    | split
    | dsimp only

theorem State.doTakeStart_eq (s : State) (r pre tid m : Nat) {a} {t} (e : State.doTakeStart s r pre tid m = (t, a)) : Keeps 4197124 s t := by
  have h := State.doTakeStart_keeps s r pre tid m
  rw [e] at h
  exact h

theorem State.doTakeEnd_keeps (s : State) (r : Nat) : Keeps 549756078681 s (State.doTakeEnd s r).1 := by
  unfold State.doTakeEnd
  repeat' first
    | with_reducible assumption
    | with_reducible apply Keeps.refl
    | (with_reducible apply Keeps.after (m := 549756078681) (State.setTake_keeps ..) (by decide))
    | (with_reducible apply Keeps.after (m := 549756078681) (State.cancelRelay_keeps ..) (by decide))
    | (with_reducible apply Keeps.after (m := 549756078681) (State.eraseKey_keeps ..) (by decide))
    | (intro x; refine (fun hx : Keeps 549756078681 s x => ?_) ?_; clear_value x; rotate_left; dsimp only [x]; rotate_right)
    | intro _
    | (with_reducible apply Keeps.ite)
    | lift_lets
    | split
    | dsimp only

theorem State.doTakeEnd_eq (s : State) (r : Nat) {a} {t} (e : State.doTakeEnd s r = (t, a)) : Keeps 549756078681 s t := by
  have h := State.doTakeEnd_keeps s r
  rw [e] at h
  exact h

theorem State.doBurst_keeps (s : State) (r pre tid : Nat) : Keeps 17180136281 s (State.doBurst s r pre tid).1 := by
  unfold State.doBurst
  repeat' first
    | with_reducible assumption
    | with_reducible apply Keeps.refl
    | (with_reducible apply Keeps.after (m := 17180136281) (State.setTake_keeps ..) (by decide))
    | (with_reducible apply Keeps.after (m := 17180136281) (State.claimPreroll_keeps ..) (by decide))
    | (with_reducible apply Keeps.after (m := 17180136281) (State.setRun_keeps ..) (by decide))
    | (with_reducible apply Keeps.after (m := 17180136281) (State.releaseAll_keeps ..) (by decide))
    | (with_reducible apply Keeps.after (m := 17180136281) (State.dropLeaving_keeps ..) (by decide))
    | (intro x; refine (fun hx : Keeps 17180136281 s x => ?_) ?_; clear_value x; rotate_left; dsimp only [x]; rotate_right)
    | intro _
    | lift_lets
    | split
    | dsimp only

theorem State.doBurst_eq (s : State) (r pre tid : Nat) {a} {t} (e : State.doBurst s r pre tid = (t, a)) : Keeps 17180136281 s t := by
  have h := State.doBurst_keeps s r pre tid
  rw [e] at h
  exact h

theorem State.doOffload_keeps (s : State) (r : Nat) : Keeps 2880 s (State.doOffload s r).1 := by
  unfold State.doOffload
  repeat' first
    | with_reducible assumption
    | with_reducible apply Keeps.refl
    | (with_reducible apply Keeps.after (m := 2880) (State.setTake_keeps ..) (by decide))
    | (with_reducible apply Keeps.after (m := 2880) (State.setRec_keeps ..) (by decide))
    | (with_reducible apply Keeps.after (m := 2880) (State.enterSeg_keeps ..) (by decide))
    | (with_reducible apply Keeps.after (m := 2880) (State.addResvs_keeps ..) (by decide))
    | (with_reducible apply Keeps.after (m := 2880) (State.setStore_keeps ..) (by decide))
    | (with_reducible apply Keeps.after (m := 2880) (State.eraseKey_keeps ..) (by decide))
    | (intro x; refine (fun hx : Keeps 2880 s x => ?_) ?_; clear_value x; rotate_left; dsimp only [x]; rotate_right)
    | intro _
    | (with_reducible apply Keeps.ite)
    | lift_lets
    | split
    | dsimp only

theorem State.doOffload_eq (s : State) (r : Nat) {a} {t} (e : State.doOffload s r = (t, a)) : Keeps 2880 s t := by
  have h := State.doOffload_keeps s r
  rw [e] at h
  exact h

theorem State.doAbort_keeps (s : State) (r : Nat) : Keeps 17180136217 s (State.doAbort s r).1 := by
  unfold State.doAbort
  repeat' first
    | with_reducible assumption
    | with_reducible apply Keeps.refl
    | (with_reducible apply Keeps.after (m := 17180136217) (State.releaseAll_keeps ..) (by decide))
    | (intro x; refine (fun hx : Keeps 17180136217 s x => ?_) ?_; clear_value x; rotate_left; dsimp only [x]; rotate_right)
    | intro _
    | lift_lets
    | dsimp only

theorem State.doAbort_eq (s : State) (r : Nat) {a} {t} (e : State.doAbort s r = (t, a)) : Keeps 17180136217 s t := by
  have h := State.doAbort_keeps s r
  rw [e] at h
  exact h

theorem State.doOffloadEnd_keeps (s : State) (r : Nat) : Keeps 577 s (State.doOffloadEnd s r) := by
  unfold State.doOffloadEnd
  repeat' first
    | with_reducible assumption
    | with_reducible apply Keeps.refl
    | (with_reducible apply Keeps.after (m := 577) (State.dropResvs_keeps ..) (by decide))
    | (with_reducible apply Keeps.after (m := 577) (State.setPlan_keeps ..) (by decide))
    | (with_reducible apply Keeps.after (m := 577) (State.setTake_keeps ..) (by decide))
    | (with_reducible apply Keeps.after (m := 577) (State.setRun_keeps ..) (by decide))
    | (with_reducible apply Keeps.after (m := 577) (State.setF_keeps ..) (by decide))
    | (with_reducible apply Keeps.after (m := 577) (State.addResvs_keeps ..) (by decide))
    | (intro x; refine (fun hx : Keeps 577 s x => ?_) ?_; clear_value x; rotate_left; dsimp only [x]; rotate_right)
    | intro _
    | (with_reducible apply Keeps.ite)
    | lift_lets
    | split
    | dsimp only

theorem State.applyRig_keeps (s : State) (b : Bound) : Keeps 566940146687 s (State.applyRig s b) := by
  unfold State.applyRig
  repeat' first
    | with_reducible assumption
    | with_reducible apply Keeps.refl
    | (with_reducible apply Keeps.after (m := 566940146687) (State.count_keeps ..) (by decide))
    | (with_reducible apply Keeps.after (m := 566940146687) (State.completeOpt_keeps ..) (by decide))
    | (with_reducible apply Keeps.after (m := 566940146687) (State.undoRig_keeps ..) (by decide))
    | (with_reducible apply Keeps.after (m := 566940146687) (State.enterRig_keeps ..) (by decide))
    | (with_reducible apply Keeps.after (m := 566940146687) (State.doStart_keeps ..) (by decide))
    | (with_reducible apply Keeps.after (m := 566940146687) (State.doStop_keeps ..) (by decide))
    | (with_reducible apply Keeps.after (m := 566940146687) (State.setRun_keeps ..) (by decide))
    | (with_reducible apply Keeps.after (m := 566940146687) (State.dropLeaving_keeps ..) (by decide))
    | (with_reducible apply Keeps.after (m := 566940146687) (State.ringStop_keeps ..) (by decide))
    | (with_reducible apply Keeps.after (m := 566940146687) (State.doTakeStart_keeps ..) (by decide))
    | (with_reducible apply Keeps.after (m := 566940146687) (State.doTakeStart_eq (e := ‹_›) ..) (by decide))
    | (with_reducible apply Keeps.after (m := 566940146687) (State.doTakeEnd_keeps ..) (by decide))
    | (with_reducible apply Keeps.after (m := 566940146687) (State.doTakeEnd_eq (e := ‹_›) ..) (by decide))
    | (with_reducible apply Keeps.after (m := 566940146687) (State.post_keeps ..) (by decide))
    | (with_reducible apply Keeps.after (m := 566940146687) (State.doBurst_keeps ..) (by decide))
    | (with_reducible apply Keeps.after (m := 566940146687) (State.doBurst_eq (e := ‹_›) ..) (by decide))
    | (with_reducible apply Keeps.after (m := 566940146687) (State.doOffload_keeps ..) (by decide))
    | (with_reducible apply Keeps.after (m := 566940146687) (State.doOffload_eq (e := ‹_›) ..) (by decide))
    | (with_reducible apply Keeps.after (m := 566940146687) (State.burstSweep_keeps ..) (by decide))
    | (with_reducible apply Keeps.after (m := 566940146687) (State.doAbort_keeps ..) (by decide))
    | (with_reducible apply Keeps.after (m := 566940146687) (State.doAbort_eq (e := ‹_›) ..) (by decide))
    | (with_reducible apply Keeps.after (m := 566940146687) (State.doOffloadEnd_keeps ..) (by decide))
    | (intro x; refine (fun hx : Keeps 566940146687 s x => ?_) ?_; clear_value x; rotate_left; dsimp only [x]; rotate_right)
    | intro _
    | (with_reducible apply Keeps.ite)
    | lift_lets
    | split
    | dsimp only

theorem State.secAlert_keeps (s : State) (bitNo kind : Nat) (pl : List (Nat × Nat × Nat)) : Keeps 17180135449 s (State.secAlert s bitNo kind pl) := by
  unfold State.secAlert
  repeat' first
    | with_reducible apply Keeps.refl
    | (with_reducible apply Keeps.after (m := 17180135449) (State.logEntry_keeps ..) (by decide))
    | (with_reducible apply Keeps.after (m := 17180135449) (State.post_keeps ..) (by decide))
    | (with_reducible apply Keeps.after (m := 17180135449) (State.setEvt_keeps ..) (by decide))
    | dsimp only

theorem State.makeTake_keeps (s : State) (r secs seq : Nat) (burst fromArmed : Bool) (post entry : Nat) : Keeps 134234624 s (State.makeTake s r secs seq burst fromArmed post entry) := by
  unfold State.makeTake
  exact ⟨fun p hp => by cases p <;> first | exact absurd hp (by decide) | rfl | exact ⟨rfl, rfl⟩ | exact ⟨rfl, rfl, rfl⟩ | exact ⟨rfl, rfl, rfl, rfl⟩ | exact RingCtlSame.refl _,
    ⟨List.suffix_rfl, Nat.le_refl _, Nat.le_refl _, id, id⟩⟩


theorem State.burstEvent_keeps (s : State) (r : Nat) : Keeps 17314370141 s (State.burstEvent s r) := by
  unfold State.burstEvent
  repeat' first
    | with_reducible assumption
    | with_reducible apply Keeps.refl
    | (with_reducible apply Keeps.after (m := 17314370141) (State.count_keeps ..) (by decide))
    | (with_reducible apply Keeps.after (m := 17314370141) (State.secAlert_keeps ..) (by decide))
    | (with_reducible apply Keeps.after (m := 17314370141) (State.pushBound_keeps ..) (by decide))
    | (with_reducible apply Keeps.after (m := 17314370141) (State.markLeaving_keeps ..) (by decide))
    | (with_reducible apply Keeps.after (m := 17314370141) (State.makeTake_keeps ..) (by decide))
    | (intro x; refine (fun hx : Keeps 17314370141 s x => ?_) ?_; clear_value x; rotate_left; dsimp only [x]; rotate_right)
    | intro _
    | (with_reducible apply Keeps.ite)
    | lift_lets
    | split
    | dsimp only

theorem State.rigCmd_keeps {mk : Nat} {s t0 : State} {d : Desc} {op : Nat} {used : List (Nat × Nat)} {operands : Bool} {own : State → Refuse} {body : Ticket → State → State} (hm : 549756076057 ||| mk = mk)
    (hf : ∀ a0 a1, Keeps mk s a1 → Keeps mk s (body a0 a1)) (a : Keeps mk s t0) : Keeps mk s (State.rigCmd t0 d op used operands own body) := by
  unfold State.rigCmd
  repeat' first
    | with_reducible assumption
    | with_reducible apply Keeps.refl
    | (with_reducible apply hf)
    | (with_reducible apply State.runCmd_keeps (mk := mk) (Keeps.sub hm (by decide)))
    | exact Keeps.bit hm (by decide)
    | (intro x; refine (fun hx : Keeps mk s x => ?_) ?_; clear_value x; rotate_left; dsimp only [x]; rotate_right)
    | intro _
    | lift_lets
    | dsimp only

theorem State.queueRig_keeps (s : State) (k : Ticket) (r op : Nat) (dest : RigMode) (pre post take list : Nat) : Keeps 68 s (State.queueRig s k r op dest pre post take list) := by
  unfold State.queueRig
  repeat' first
    | with_reducible apply Keeps.refl
    | (with_reducible apply Keeps.after (m := 68) (State.pushBound_keeps ..) (by decide))
    | (with_reducible apply Keeps.after (m := 68) (State.markLeaving_keeps ..) (by decide))
    | dsimp only

theorem State.burstStart_keeps (s : State) (d : Desc) : Keeps 567070184029 s (State.burstStart s d) := by
  unfold State.burstStart
  repeat' first
    | with_reducible assumption
    | with_reducible apply Keeps.refl
    | (with_reducible apply State.rigCmd_keeps (mk := 567070184029) (by decide))
    | (with_reducible apply Keeps.after (m := 567070184029) (State.complete_keeps ..) (by decide))
    | (with_reducible apply Keeps.after (m := 567070184029) (State.secAlert_keeps ..) (by decide))
    | (with_reducible apply Keeps.after (m := 567070184029) (State.queueRig_keeps ..) (by decide))
    | (with_reducible apply Keeps.after (m := 567070184029) (State.makeTake_keeps ..) (by decide))
    | (with_reducible apply Keeps.after (m := 567070184029) (State.admitted_keeps ..) (by decide))
    | (intro x; refine (fun hx : Keeps 567070184029 s x => ?_) ?_; clear_value x; rotate_left; dsimp only [x]; rotate_right)
    | intro _
    | (with_reducible apply Keeps.ite)
    | lift_lets
    | split
    | dsimp only

theorem State.rigNow_keeps (s : State) (r : Nat) : Keeps 17184330749 s (State.rigNow s r) := by
  unfold State.rigNow
  repeat' first
    | (with_reducible apply Keeps.foldl)
    | with_reducible assumption
    | with_reducible apply Keeps.refl
    | (with_reducible apply Keeps.after (m := 17184330749) (State.cancelFrom_keeps ..) (by decide))
    | (with_reducible apply Keeps.after (m := 17184330749) (State.ringStop_keeps ..) (by decide))
    | (with_reducible apply Keeps.after (m := 17184330749) (State.endInput_keeps ..) (by decide))
    | (with_reducible apply Keeps.after (m := 17184330749) (State.freeSlot_keeps ..) (by decide))
    | (with_reducible apply Keeps.after (m := 17184330749) (State.setStore_keeps ..) (by decide))
    | (with_reducible apply Keeps.after (m := 17184330749) (State.setRun_keeps ..) (by decide))
    | (with_reducible apply Keeps.after (m := 17184330749) (State.setTimer_keeps ..) (by decide))
    | (with_reducible apply Keeps.after (m := 17184330749) (State.dropResvs_keeps ..) (by decide))
    | (with_reducible apply Keeps.after (m := 17184330749) (State.enterRig_keeps ..) (by decide))
    | (with_reducible apply Keeps.after (m := 17184330749) (State.setF_keeps ..) (by decide))
    | (with_reducible apply Keeps.after (m := 17184330749) (State.streamsIdle_keeps ..) (by decide))
    | (intro x; refine (fun hx : Keeps 17184330749 s x => ?_) ?_; clear_value x; rotate_left; dsimp only [x]; rotate_right)
    | intro _
    | (with_reducible apply Keeps.ite)
    | lift_lets
    | split
    | dsimp only

theorem State.rigModeChange_keeps (s : State) (r : Nat) : Keeps 566940212223 s (State.rigModeChange s r) := by
  unfold State.rigModeChange
  repeat' first
    | (with_reducible apply Keeps.foldl)
    | with_reducible assumption
    | with_reducible apply Keeps.refl
    | (with_reducible apply Keeps.after (m := 566940212223) (State.takeCkpt_keeps ..) (by decide))
    | (with_reducible apply Keeps.after (m := 566940212223) (State.autoStep_keeps ..) (by decide))
    | (with_reducible apply Keeps.after (m := 566940212223) (State.prerollCatch_keeps ..) (by decide))
    | (with_reducible apply Keeps.after (m := 566940212223) (State.applyRig_keeps ..) (by decide))
    | with_reducible exact Or.inl rfl
    | with_reducible exact Or.inr rfl
    | with_reducible exact Or.inr ⟨rfl, rfl⟩
    | with_reducible exact Or.inr ⟨rfl, rfl, rfl⟩
    | with_reducible exact Or.inr ⟨rfl, rfl, rfl, rfl⟩
    | (intro x; refine (fun hx : Keeps 566940212223 s x => ?_) ?_; clear_value x; rotate_left; dsimp only [x]; rotate_right)
    | intro _
    | (with_reducible apply Keeps.ite)
    | lift_lets
    | split
    | dsimp only
    | (with_reducible apply Keeps.dev (m := 566940212223) (by decide))

theorem State.rigPlain_keeps (s : State) (d : Desc) (op : Nat) (dest : State → RigMode) : Keeps 549756076125 s (State.rigPlain s d op dest) := by
  unfold State.rigPlain
  repeat' first
    | with_reducible assumption
    | with_reducible apply Keeps.refl
    | (with_reducible apply State.rigCmd_keeps (mk := 549756076125) (by decide))
    | (with_reducible apply Keeps.after (m := 549756076125) (State.queueRig_keeps ..) (by decide))
    | intro _
    | dsimp only

theorem State.takeStart_keeps (s : State) (d : Desc) : Keeps 567070184029 s (State.takeStart s d) := by
  unfold State.takeStart
  repeat' first
    | (with_reducible apply Keeps.foldl)
    | with_reducible assumption
    | with_reducible apply Keeps.refl
    | (with_reducible apply State.rigCmd_keeps (mk := 567070184029) (by decide))
    | (with_reducible apply Keeps.after (m := 567070184029) (State.complete_keeps ..) (by decide))
    | (with_reducible apply Keeps.after (m := 567070184029) (State.secAlert_keeps ..) (by decide))
    | (with_reducible apply Keeps.after (m := 567070184029) (State.queueRig_keeps ..) (by decide))
    | (with_reducible apply Keeps.after (m := 567070184029) (State.makeTake_keeps ..) (by decide))
    | (with_reducible apply Keeps.after (m := 567070184029) (State.admitted_keeps ..) (by decide))
    | (intro x; refine (fun hx : Keeps 567070184029 s x => ?_) ?_; clear_value x; rotate_left; dsimp only [x]; rotate_right)
    | intro _
    | (with_reducible apply Keeps.ite)
    | lift_lets
    | split
    | dsimp only

theorem execBurstStart_keeps (d : Desc) (s : State) {nxt : State} (e : execBurstStart d s = .next nxt) : Keeps 567070184029 s nxt := by
  unfold execBurstStart at e
  first | refine Keeps.go ?_ e | refine Keeps.goRead ?_ e | cases e
  try dsimp only
  repeat' first
    | with_reducible assumption
    | with_reducible apply Keeps.refl
    | (with_reducible apply Keeps.after (m := 567070184029) (State.burstStart_keeps ..) (by decide))
    | intro _
    | dsimp only

theorem execBurstStop_keeps (d : Desc) (s : State) {nxt : State} (e : execBurstStop d s = .next nxt) : Keeps 549756076125 s nxt := by
  unfold execBurstStop at e
  first | refine Keeps.go ?_ e | refine Keeps.goRead ?_ e | cases e
  try dsimp only
  repeat' first
    | with_reducible assumption
    | with_reducible apply Keeps.refl
    | (with_reducible apply Keeps.after (m := 549756076125) (State.rigPlain_keeps ..) (by decide))
    | intro _
    | dsimp only

theorem execCalStart_keeps (d : Desc) (s : State) {nxt : State} (e : execCalStart d s = .next nxt) : Keeps 549756076125 s nxt := by
  unfold execCalStart at e
  first | refine Keeps.go ?_ e | refine Keeps.goRead ?_ e | cases e
  try dsimp only
  repeat' first
    | with_reducible assumption
    | with_reducible apply Keeps.refl
    | (with_reducible apply Keeps.after (m := 549756076125) (State.rigPlain_keeps ..) (by decide))
    | intro _
    | dsimp only

theorem execCalStop_keeps (d : Desc) (s : State) {nxt : State} (e : execCalStop d s = .next nxt) : Keeps 549756076125 s nxt := by
  unfold execCalStop at e
  first | refine Keeps.go ?_ e | refine Keeps.goRead ?_ e | cases e
  try dsimp only
  repeat' first
    | with_reducible assumption
    | with_reducible apply Keeps.refl
    | (with_reducible apply Keeps.after (m := 549756076125) (State.rigPlain_keeps ..) (by decide))
    | intro _
    | dsimp only

theorem execOffloadAbort_keeps (d : Desc) (s : State) {nxt : State} (e : execOffloadAbort d s = .next nxt) : Keeps 549756076125 s nxt := by
  unfold execOffloadAbort at e
  first | refine Keeps.go ?_ e | refine Keeps.goRead ?_ e | cases e
  try dsimp only
  repeat' first
    | with_reducible assumption
    | with_reducible apply Keeps.refl
    | (with_reducible apply Keeps.after (m := 549756076125) (State.rigPlain_keeps ..) (by decide))
    | intro _
    | dsimp only

theorem execRigArm_keeps (d : Desc) (s : State) {nxt : State} (e : execRigArm d s = .next nxt) : Keeps 549756076125 s nxt := by
  unfold execRigArm at e
  first | refine Keeps.go ?_ e | refine Keeps.goRead ?_ e | cases e
  try dsimp only
  repeat' first
    | with_reducible assumption
    | with_reducible apply Keeps.refl
    | (with_reducible apply State.rigCmd_keeps (mk := 549756076125) (by decide))
    | (with_reducible apply Keeps.after (m := 549756076125) (State.queueRig_keeps ..) (by decide))
    | (with_reducible apply Keeps.after (m := 549756076125) (State.admitted_keeps ..) (by decide))
    | (intro x; refine (fun hx : Keeps 549756076125 s x => ?_) ?_; clear_value x; rotate_left; dsimp only [x]; rotate_right)
    | intro _
    | lift_lets
    | dsimp only

theorem execRigDisarm_keeps (d : Desc) (s : State) {nxt : State} (e : execRigDisarm d s = .next nxt) : Keeps 549756076125 s nxt := by
  unfold execRigDisarm at e
  first | refine Keeps.go ?_ e | refine Keeps.goRead ?_ e | cases e
  try dsimp only
  repeat' first
    | with_reducible assumption
    | with_reducible apply Keeps.refl
    | (with_reducible apply Keeps.after (m := 549756076125) (State.rigPlain_keeps ..) (by decide))
    | intro _
    | dsimp only

theorem execRigModeChange_keeps (r : Nat) (s : State) {nxt : State} (e : execRigModeChange r s = .next nxt) : Keeps 566940212223 s nxt := by
  unfold execRigModeChange at e
  first | refine Keeps.go ?_ e | refine Keeps.goRead ?_ e | cases e
  try dsimp only
  repeat' first
    | with_reducible assumption
    | with_reducible apply Keeps.refl
    | (with_reducible apply Keeps.after (m := 566940212223) (State.rigModeChange_keeps ..) (by decide))
    | intro _
    | dsimp only

theorem execRigStart_keeps (d : Desc) (s : State) {nxt : State} (e : execRigStart d s = .next nxt) : Keeps 549756076125 s nxt := by
  unfold execRigStart at e
  first | refine Keeps.go ?_ e | refine Keeps.goRead ?_ e | cases e
  try dsimp only
  repeat' first
    | with_reducible assumption
    | with_reducible apply Keeps.refl
    | (with_reducible apply State.rigCmd_keeps (mk := 549756076125) (by decide))
    | (with_reducible apply Keeps.after (m := 549756076125) (State.queueRig_keeps ..) (by decide))
    | (with_reducible apply Keeps.after (m := 549756076125) (State.admitted_keeps ..) (by decide))
    | (intro x; refine (fun hx : Keeps 549756076125 s x => ?_) ?_; clear_value x; rotate_left; dsimp only [x]; rotate_right)
    | intro _
    | (with_reducible apply Keeps.ite)
    | lift_lets
    | split
    | dsimp only

theorem execRigStop_keeps (d : Desc) (s : State) {nxt : State} (e : execRigStop d s = .next nxt) : Keeps 549756076125 s nxt := by
  unfold execRigStop at e
  first | refine Keeps.go ?_ e | refine Keeps.goRead ?_ e | cases e
  try dsimp only
  repeat' first
    | with_reducible assumption
    | with_reducible apply Keeps.refl
    | (with_reducible apply Keeps.after (m := 549756076125) (State.rigPlain_keeps ..) (by decide))
    | intro _
    | dsimp only

theorem execTakeStart_keeps (d : Desc) (s : State) {nxt : State} (e : execTakeStart d s = .next nxt) : Keeps 567070184029 s nxt := by
  unfold execTakeStart at e
  first | refine Keeps.go ?_ e | refine Keeps.goRead ?_ e | cases e
  try dsimp only
  repeat' first
    | with_reducible assumption
    | with_reducible apply Keeps.refl
    | (with_reducible apply Keeps.after (m := 567070184029) (State.takeStart_keeps ..) (by decide))
    | intro _
    | dsimp only

theorem execTakeStop_keeps (d : Desc) (s : State) {nxt : State} (e : execTakeStop d s = .next nxt) : Keeps 549756076125 s nxt := by
  unfold execTakeStop at e
  first | refine Keeps.go ?_ e | refine Keeps.goRead ?_ e | cases e
  try dsimp only
  repeat' first
    | with_reducible assumption
    | with_reducible apply Keeps.refl
    | (with_reducible apply Keeps.after (m := 549756076125) (State.rigPlain_keeps ..) (by decide))
    | intro _
    | dsimp only

end Sys2Proof.Machine
end

