-- ==== Sys2Proof/Laws/KeepsMotion.lean ====
section
/-! SUPPORT. What each function of Machine/Motion.lean may change. -/

namespace Sys2Proof.Machine

set_option linter.all false

theorem State.setMch_keeps (s : State) (ch : Nat) (f : MchSt → MchSt) : Keeps 32768 s (State.setMch s ch f) := by
  unfold State.setMch
  repeat' first
    | with_reducible apply Keeps.refl
    | dsimp only
    | (with_reducible apply Keeps.motion (m := 32768) (by decide))

theorem State.settle_keeps (s : State) (ch : Nat) : Keeps 32768 s (State.settle s ch) := by
  unfold State.settle
  repeat' first
    | with_reducible assumption
    | with_reducible apply Keeps.refl
    | (with_reducible apply Keeps.after (m := 32768) (State.setMch_keeps ..) (by decide))
    | intro _
    | dsimp only

theorem State.mchRetype_keeps (s : State) (ch : Nat) : Keeps 32768 s (State.mchRetype s ch) := by
  unfold State.mchRetype
  repeat' first
    | with_reducible assumption
    | with_reducible apply Keeps.refl
    | (with_reducible apply Keeps.after (m := 32768) (State.setMch_keeps ..) (by decide))
    | (with_reducible apply Keeps.after (m := 32768) (State.settle_keeps ..) (by decide))
    | intro _
    | dsimp only

theorem State.setEcho_keeps (s : State) (k : Nat) (f : EchoSt → EchoSt) : Keeps 32768 s (State.setEcho s k f) := by
  unfold State.setEcho
  repeat' first
    | with_reducible apply Keeps.refl
    | dsimp only
    | (with_reducible apply Keeps.motion (m := 32768) (by decide))

theorem State.echoStart_keeps (s : State) (k : Nat) : Keeps 294912 s (State.echoStart s k) := by
  unfold State.echoStart
  repeat' first
    | with_reducible assumption
    | with_reducible apply Keeps.refl
    | (with_reducible apply Keeps.after (m := 294912) (State.emit_keeps ..) (by decide))
    | (with_reducible apply Keeps.after (m := 294912) (State.setEcho_keeps ..) (by decide))
    | (intro x; refine (fun hx : Keeps 294912 s x => ?_) ?_; clear_value x; rotate_left; dsimp only [x]; rotate_right)
    | intro _
    | (with_reducible apply Keeps.ite)
    | lift_lets
    | split
    | dsimp only

theorem State.setCmp_keeps (s : State) (u : Nat) (f : CmpSt → CmpSt) : Keeps 32768 s (State.setCmp s u f) := by
  unfold State.setCmp
  repeat' first
    | with_reducible apply Keeps.refl
    | dsimp only
    | (with_reducible apply Keeps.motion (m := 32768) (by decide))

theorem State.setCmpTarget_keeps (s : State) (u : Nat) (t : Pos) : Keeps 1 s (State.setCmpTarget s u t) := by
  unfold State.setCmpTarget
  repeat' first
    | with_reducible apply Keeps.refl
    | (with_reducible apply Keeps.after (m := 1) (State.set64_keeps ..) (by decide))
    | dsimp only

theorem State.cmpCtrl_keeps (s : State) (u : Nat) (v : Word) : Keeps 32771 s (State.cmpCtrl s u v) := by
  unfold State.cmpCtrl
  repeat' first
    | with_reducible assumption
    | with_reducible apply Keeps.refl
    | (with_reducible apply Keeps.after (m := 32771) (State.storeBits_keeps ..) (by decide))
    | (with_reducible apply Keeps.after (m := 32771) (State.setCmp_keeps ..) (by decide))
    | (with_reducible apply Keeps.after (m := 32771) (State.setEvt_keeps ..) (by decide))
    | (with_reducible apply Keeps.after (m := 32771) (State.setF_keeps ..) (by decide))
    | (with_reducible apply Keeps.after (m := 32771) (State.setCmpTarget_keeps ..) (by decide))
    | (with_reducible apply Keeps.after (m := 32771) (State.setReg_keeps ..) (by decide))
    | (intro x; refine (fun hx : Keeps 32771 s x => ?_) ?_; clear_value x; rotate_left; dsimp only [x]; rotate_right)
    | intro _
    | (with_reducible apply Keeps.ite)
    | lift_lets
    | split
    | dsimp only

theorem State.probeClear_keeps (s : State) (k : Nat) : Keeps 1 s (State.probeClear s k) := by
  unfold State.probeClear
  repeat' first
    | with_reducible apply Keeps.refl
    | (with_reducible apply Keeps.after (m := 1) (State.clrReg_keeps ..) (by decide))
    | dsimp only

theorem State.cmpTargetWrite_keeps (s : State) (u : Nat) (lo hi : Word) : Keeps 32769 s (State.cmpTargetWrite s u lo hi) := by
  unfold State.cmpTargetWrite
  repeat' first
    | with_reducible assumption
    | with_reducible apply Keeps.refl
    | (with_reducible apply Keeps.after (m := 32769) (State.setCmp_keeps ..) (by decide))
    | (with_reducible apply Keeps.after (m := 32769) (State.setReg_keeps ..) (by decide))
    | (intro x; refine (fun hx : Keeps 32769 s x => ?_) ?_; clear_value x; rotate_left; dsimp only [x]; rotate_right)
    | intro _
    | (with_reducible apply Keeps.ite)
    | lift_lets
    | split
    | dsimp only

theorem State.placePos_keeps (s : State) (ch : Nat) (p : Pos) : Keeps 32768 s (State.placePos s ch p) := by
  unfold State.placePos
  repeat' first
    | with_reducible assumption
    | with_reducible apply Keeps.refl
    | (with_reducible apply Keeps.after (m := 32768) (State.setMch_keeps ..) (by decide))
    | intro _
    | dsimp only

theorem State.takeSetPos_keeps (s : State) (ch : Nat) : Keeps 32768 s (State.takeSetPos s ch) := by
  unfold State.takeSetPos
  repeat' first
    | with_reducible assumption
    | with_reducible apply Keeps.refl
    | (with_reducible apply Keeps.after (m := 32768) (State.setMch_keeps ..) (by decide))
    | (with_reducible apply Keeps.after (m := 32768) (State.placePos_keeps ..) (by decide))
    | (with_reducible apply Keeps.after (m := 32768) (State.settle_keeps ..) (by decide))
    | (intro x; refine (fun hx : Keeps 32768 s x => ?_) ?_; clear_value x; rotate_left; dsimp only [x]; rotate_right)
    | intro _
    | lift_lets
    | dsimp only

theorem State.mchSetPos_keeps (s : State) (ch : Nat) (lo hi : Word) : Keeps 32769 s (State.mchSetPos s ch lo hi) := by
  unfold State.mchSetPos
  repeat' first
    | with_reducible assumption
    | with_reducible apply Keeps.refl
    | (with_reducible apply Keeps.after (m := 32769) (State.setReg_keeps ..) (by decide))
    | (with_reducible apply Keeps.after (m := 32769) (State.takeSetPos_keeps ..) (by decide))
    | (with_reducible apply Keeps.after (m := 32769) (State.setMch_keeps ..) (by decide))
    | (intro x; refine (fun hx : Keeps 32769 s x => ?_) ?_; clear_value x; rotate_left; dsimp only [x]; rotate_right)
    | intro _
    | (with_reducible apply Keeps.ite)
    | lift_lets
    | split
    | dsimp only

theorem State.cmpSkip_keeps (s : State) (u n : Nat) : Keeps 1 s (State.cmpSkip s u n) := by
  unfold State.cmpSkip
  repeat' first
    | with_reducible apply Keeps.refl
    | (with_reducible apply Keeps.after (m := 1) (State.setF_keeps ..) (by decide))
    | dsimp only

theorem State.cmpAfter_keeps (s : State) (u : Nat) (p : Pos) : Keeps 32769 s (State.cmpAfter s u p) := by
  unfold State.cmpAfter
  repeat' first
    | with_reducible assumption
    | with_reducible apply Keeps.refl
    | (with_reducible apply Keeps.after (m := 32769) (State.setEvt_keeps ..) (by decide))
    | (with_reducible apply Keeps.after (m := 32769) (State.setF_keeps ..) (by decide))
    | (with_reducible apply Keeps.after (m := 32769) (State.cmpSkip_keeps ..) (by decide))
    | (with_reducible apply Keeps.after (m := 32769) (State.setCmpTarget_keeps ..) (by decide))
    | (with_reducible apply Keeps.after (m := 32769) (State.setReg_keeps ..) (by decide))
    | (with_reducible apply Keeps.after (m := 32769) (State.setCmp_keeps ..) (by decide))
    | (intro x; refine (fun hx : Keeps 32769 s x => ?_) ?_; clear_value x; rotate_left; dsimp only [x]; rotate_right)
    | intro _
    | (with_reducible apply Keeps.ite)
    | lift_lets
    | split
    | dsimp only

theorem State.rigSource_keeps (s : State) (src : Nat) (t : Int) : Keeps 17314370557 s (State.rigSource s src t) := by
  unfold State.rigSource
  repeat' first
    | (with_reducible apply Keeps.foldl)
    | with_reducible assumption
    | with_reducible apply Keeps.refl
    | (with_reducible apply Keeps.after (m := 17314370557) (State.frameEvent_keeps ..) (by decide))
    | (with_reducible apply Keeps.after (m := 17314370557) (State.burstEvent_keeps ..) (by decide))
    | (intro x; refine (fun hx : Keeps 17314370557 s x => ?_) ?_; clear_value x; rotate_left; dsimp only [x]; rotate_right)
    | intro _
    | (with_reducible apply Keeps.ite)
    | lift_lets
    | split
    | dsimp only

theorem State.cmpCross_keeps (s : State) (ch : Nat) (p p' : Pos) (t : Int) : Keeps 17314403325 s (State.cmpCross s ch p p' t) := by
  unfold State.cmpCross
  repeat' first
    | (with_reducible apply Keeps.foldl)
    | with_reducible assumption
    | with_reducible apply Keeps.refl
    | (with_reducible apply Keeps.after (m := 17314403325) (State.count_keeps ..) (by decide))
    | (with_reducible apply Keeps.after (m := 17314403325) (State.setEvt_keeps ..) (by decide))
    | (with_reducible apply Keeps.after (m := 17314403325) (State.pulse_keeps ..) (by decide))
    | (with_reducible apply Keeps.after (m := 17314403325) (State.cmpAfter_keeps ..) (by decide))
    | (with_reducible apply Keeps.after (m := 17314403325) (State.rigSource_keeps ..) (by decide))
    | (intro x; refine (fun hx : Keeps 17314403325 s x => ?_) ?_; clear_value x; rotate_left; dsimp only [x]; rotate_right)
    | intro _
    | (with_reducible apply Keeps.ite)
    | lift_lets
    | split
    | dsimp only

theorem State.mchWake_keeps (s : State) : Keeps 32768 s (State.mchWake s) := by
  unfold State.mchWake
  repeat' first
    | (with_reducible apply Keeps.foldl)
    | with_reducible assumption
    | with_reducible apply Keeps.refl
    | (with_reducible apply Keeps.after (m := 32768) (State.takeSetPos_keeps ..) (by decide))
    | intro _
    | (with_reducible apply Keeps.ite)
    | split
    | dsimp only

theorem State.deliverPos_keeps (s : State) (w : PosWait) (p : Pos) (held : Bool) : Keeps 257 s (State.deliverPos s w p held) := by
  unfold State.deliverPos
  repeat' first
    | with_reducible assumption
    | with_reducible apply Keeps.refl
    | (with_reducible apply Keeps.after (m := 257) (State.set64_keeps ..) (by decide))
    | (with_reducible apply Keeps.after (m := 257) (State.setFrame_keeps ..) (by decide))
    | (intro x; refine (fun hx : Keeps 257 s x => ?_) ?_; clear_value x; rotate_left; dsimp only [x]; rotate_right)
    | intro _
    | (with_reducible apply Keeps.ite)
    | lift_lets
    | split
    | dsimp only

theorem State.mchAlarm_keeps (s : State) (ch b : Nat) : Keeps 294937 s (State.mchAlarm s ch b) := by
  unfold State.mchAlarm
  repeat' first
    | with_reducible assumption
    | with_reducible apply Keeps.refl
    | (with_reducible apply Keeps.after (m := 294937) (State.setMch_keeps ..) (by decide))
    | (with_reducible apply Keeps.after (m := 294937) (State.count_keeps ..) (by decide))
    | (with_reducible apply Keeps.after (m := 294937) (State.setEvt_keeps ..) (by decide))
    | (with_reducible apply Keeps.after (m := 294937) (State.post_keeps ..) (by decide))
    | (intro x; refine (fun hx : Keeps 294937 s x => ?_) ?_; clear_value x; rotate_left; dsimp only [x]; rotate_right)
    | intro _
    | (with_reducible apply Keeps.ite)
    | lift_lets
    | split
    | dsimp only

theorem State.echoFollow_keeps (s : State) (ch : Nat) (h : Int) : Keeps 294937 s (State.echoFollow s ch h) := by
  unfold State.echoFollow
  repeat' first
    | (with_reducible apply Keeps.foldl)
    | with_reducible assumption
    | with_reducible apply Keeps.refl
    | (with_reducible apply Keeps.after (m := 294937) (State.setEcho_keeps ..) (by decide))
    | (with_reducible apply Keeps.after (m := 294937) (State.mchAlarm_keeps ..) (by decide))
    | (with_reducible apply Keeps.after (m := 294937) (State.countN_keeps ..) (by decide))
    | (intro x; refine (fun hx : Keeps 294937 s x => ?_) ?_; clear_value x; rotate_left; dsimp only [x]; rotate_right)
    | intro _
    | (with_reducible apply Keeps.ite)
    | lift_lets
    | split
    | dsimp only

theorem State.echoStep_keeps (s : State) (k : Nat) : Keeps 294912 s (State.echoStep s k) := by
  unfold State.echoStep
  repeat' first
    | with_reducible assumption
    | with_reducible apply Keeps.refl
    | (with_reducible apply Keeps.after (m := 294912) (State.setEcho_keeps ..) (by decide))
    | (with_reducible apply Keeps.after (m := 294912) (State.emit_keeps ..) (by decide))
    | (intro x; refine (fun hx : Keeps 294912 s x => ?_) ?_; clear_value x; rotate_left; dsimp only [x]; rotate_right)
    | intro _
    | (with_reducible apply Keeps.ite)
    | lift_lets
    | split
    | dsimp only

theorem State.moveBy_keeps (s : State) (ch t : Nat) (d : Int) (at16 : Int) : Keeps 17314403325 s (State.moveBy s ch t d at16) := by
  unfold State.moveBy
  repeat' first
    | with_reducible assumption
    | with_reducible apply Keeps.refl
    | (with_reducible apply Keeps.after (m := 17314403325) (State.setMch_keeps ..) (by decide))
    | (with_reducible apply Keeps.after (m := 17314403325) (State.cmpCross_keeps ..) (by decide))
    | (with_reducible apply Keeps.after (m := 17314403325) (State.echoFollow_keeps ..) (by decide))
    | (intro x; refine (fun hx : Keeps 17314403325 s x => ?_) ?_; clear_value x; rotate_left; dsimp only [x]; rotate_right)
    | intro _
    | (with_reducible apply Keeps.ite)
    | lift_lets
    | split
    | dsimp only

theorem State.indexPlace_keeps (s : State) (ch : Nat) : Keeps 524288 s (State.indexPlace s ch).2 := by
  unfold State.indexPlace
  repeat' first
    | with_reducible assumption
    | with_reducible apply Keeps.refl
    | (with_reducible apply Keeps.after (m := 524288) (State.useFree_keeps ..) (by decide))
    | (intro x; refine (fun hx : Keeps 524288 s x => ?_) ?_; clear_value x; rotate_left; dsimp only [x]; rotate_right)
    | intro _
    | (with_reducible apply Keeps.ite)
    | lift_lets
    | split
    | dsimp only

theorem State.indexPlace_eq {s : State} (ch : Nat) {a} {t} (e : State.indexPlace s ch = (a, t)) : Keeps 524288 s t := by
  have h := State.indexPlace_keeps s ch
  rw [e] at h
  exact h

theorem State.indexEvent_keeps (s : State) (ch : Nat) : Keeps 819225 s (State.indexEvent s ch) := by
  unfold State.indexEvent
  repeat' first
    | with_reducible assumption
    | with_reducible apply Keeps.refl
    | (with_reducible apply Keeps.after (m := 819225) (State.setMch_keeps ..) (by decide))
    | (with_reducible apply Keeps.after (m := 819225) (State.placePos_keeps ..) (by decide))
    | (with_reducible apply Keeps.after (m := 819225) (State.settle_keeps ..) (by decide))
    | (with_reducible apply Keeps.after (m := 819225) (State.indexPlace_keeps ..) (by decide))
    | (with_reducible apply Keeps.after (m := 819225) (State.indexPlace_eq (e := ‹_›) ..) (by decide))
    | (with_reducible apply Keeps.after (m := 819225) (State.setReg_keeps ..) (by decide))
    | (with_reducible apply Keeps.after (m := 819225) (State.useFree_keeps ..) (by decide))
    | (with_reducible apply Keeps.after (m := 819225) (State.mchAlarm_keeps ..) (by decide))
    | (intro x; refine (fun hx : Keeps 819225 s x => ?_) ?_; clear_value x; rotate_left; dsimp only [x]; rotate_right)
    | intro _
    | (with_reducible apply Keeps.ite)
    | lift_lets
    | split
    | dsimp only

theorem State.indexCheck_keeps (s : State) (ch : Nat) (zOld : Bool) : Keeps 819225 s (State.indexCheck s ch zOld) := by
  unfold State.indexCheck
  repeat' first
    | with_reducible assumption
    | with_reducible apply Keeps.refl
    | (with_reducible apply Keeps.after (m := 819225) (State.setMch_keeps ..) (by decide))
    | (with_reducible apply Keeps.after (m := 819225) (State.indexEvent_keeps ..) (by decide))
    | (intro x; refine (fun hx : Keeps 819225 s x => ?_) ?_; clear_value x; rotate_left; dsimp only [x]; rotate_right)
    | intro _
    | (with_reducible apply Keeps.ite)
    | lift_lets
    | split
    | dsimp only

theorem State.incremental_keeps (s : State) (ch : Nat) (a b : Bool) : Keeps 17314927613 s (State.incremental s ch a b) := by
  unfold State.incremental
  repeat' first
    | with_reducible assumption
    | with_reducible apply Keeps.refl
    | (with_reducible apply Keeps.after (m := 17314927613) (State.setMch_keeps ..) (by decide))
    | (with_reducible apply Keeps.after (m := 17314927613) (State.mchAlarm_keeps ..) (by decide))
    | (with_reducible apply Keeps.after (m := 17314927613) (State.moveBy_keeps ..) (by decide))
    | (with_reducible apply Keeps.after (m := 17314927613) (State.indexCheck_keeps ..) (by decide))
    | (intro x; refine (fun hx : Keeps 17314927613 s x => ?_) ?_; clear_value x; rotate_left; dsimp only [x]; rotate_right)
    | intro _
    | (with_reducible apply Keeps.ite)
    | lift_lets
    | split
    | dsimp only

theorem State.waitFor_keeps (s : State) (w : PosWait) : Keeps 32768 s (State.waitFor s w) := by
  unfold State.waitFor
  repeat' first
    | with_reducible apply Keeps.refl
    | (with_reducible apply Keeps.ite)
    | split
    | dsimp only
    | (with_reducible apply Keeps.motion (m := 32768) (by decide))

theorem State.takePoints_keeps (s : State) (id : Nat) (fuel : Nat) : Keeps 33024 s (State.takePoints s id fuel) := by
  induction fuel generalizing s with
  | zero => exact Keeps.refl _ _
  | succ fuel ih =>
    unfold State.takePoints
    repeat' first
      | (with_reducible apply Keeps.foldl)
      | with_reducible assumption
      | with_reducible apply Keeps.refl
      | (with_reducible apply Keeps.after (m := 33024) (ih ..) (by decide))
      | (with_reducible apply Keeps.after (m := 33024) (State.setFrame_keeps ..) (by decide))
      | (with_reducible apply Keeps.after (m := 33024) (State.waitFor_keeps ..) (by decide))
      | (intro x; refine (fun hx : Keeps 33024 s x => ?_) ?_; clear_value x; rotate_left; dsimp only [x]; rotate_right)
      | intro _
      | (with_reducible apply Keeps.ite)
      | lift_lets
      | split
      | dsimp only


theorem State.motionSample_keeps (s : State) (r : Nat) : Keeps 33024 s (State.motionSample s r) := by
  unfold State.motionSample
  repeat' first
    | (with_reducible apply Keeps.foldl)
    | with_reducible assumption
    | with_reducible apply Keeps.refl
    | (with_reducible apply Keeps.after (m := 33024) (State.takePoints_keeps ..) (by decide))
    | (with_reducible apply Keeps.after (m := 33024) (State.setMch_keeps ..) (by decide))
    | (intro x; refine (fun hx : Keeps 33024 s x => ?_) ?_; clear_value x; rotate_left; dsimp only [x]; rotate_right)
    | intro _
    | lift_lets
    | dsimp only

theorem State.probeEdge_keeps (s : State) (k : Nat) (rise : Bool) : Keeps 33025 s (State.probeEdge s k rise) := by
  unfold State.probeEdge
  repeat' first
    | (with_reducible apply Keeps.foldl)
    | with_reducible assumption
    | with_reducible apply Keeps.refl
    | (with_reducible apply Keeps.after (m := 33025) (State.setF_keeps ..) (by decide))
    | (with_reducible apply Keeps.after (m := 33025) (State.setEvt_keeps ..) (by decide))
    | (with_reducible apply Keeps.after (m := 33025) (State.set64_keeps ..) (by decide))
    | (with_reducible apply Keeps.after (m := 33025) (State.waitFor_keeps ..) (by decide))
    | (with_reducible apply Keeps.after (m := 33025) (State.deliverPos_keeps ..) (by decide))
    | (intro x; refine (fun hx : Keeps 33025 s x => ?_) ?_; clear_value x; rotate_left; dsimp only [x]; rotate_right)
    | intro _
    | (with_reducible apply Keeps.ite)
    | lift_lets
    | split
    | dsimp only
    | (with_reducible apply Keeps.motion (m := 33025) (by decide))

theorem State.roundTo_keeps (s : State) (n d : Int) : Keeps 524288 s (State.roundTo s n d).2 := by
  unfold State.roundTo
  repeat' first
    | with_reducible assumption
    | with_reducible apply Keeps.refl
    | (with_reducible apply Keeps.after (m := 524288) (State.useFree_keeps ..) (by decide))
    | (intro x; refine (fun hx : Keeps 524288 s x => ?_) ?_; clear_value x; rotate_left; dsimp only [x]; rotate_right)
    | intro _
    | (with_reducible apply Keeps.ite)
    | lift_lets
    | split
    | dsimp only

theorem State.roundTo_eq {s : State} (n d : Int) {a} {t} (e : State.roundTo s n d = (a, t)) : Keeps 524288 s t := by
  have h := State.roundTo_keeps s n d
  rw [e] at h
  exact h

theorem State.readDone_keeps (s : State) (ch : Nat) (t : Int) (p : Pos) : Keeps 557313 s (State.readDone s ch t p) := by
  unfold State.readDone
  repeat' first
    | (with_reducible apply Keeps.foldl)
    | with_reducible assumption
    | with_reducible apply Keeps.refl
    | (with_reducible apply Keeps.after (m := 557313) (State.deliverPos_keeps ..) (by decide))
    | (with_reducible apply Keeps.after (m := 557313) (State.roundTo_keeps ..) (by decide))
    | (with_reducible apply Keeps.after (m := 557313) (State.roundTo_eq (e := ‹_›) ..) (by decide))
    | (with_reducible apply Keeps.after (m := 557313) (State.setMch_keeps ..) (by decide))
    | (intro x; refine (fun hx : Keeps 557313 s x => ?_) ?_; clear_value x; rotate_left; dsimp only [x]; rotate_right)
    | intro _
    | lift_lets
    | split
    | dsimp only
    | (with_reducible apply Keeps.motion (m := 557313) (by decide))

theorem State.serialGood_keeps (s : State) (ch v ago : Nat) : Keeps 17314927613 s (State.serialGood s ch v ago) := by
  unfold State.serialGood
  repeat' first
    | with_reducible assumption
    | with_reducible apply Keeps.refl
    | (with_reducible apply Keeps.after (m := 17314927613) (State.moveBy_keeps ..) (by decide))
    | (with_reducible apply Keeps.after (m := 17314927613) (State.setMch_keeps ..) (by decide))
    | (with_reducible apply Keeps.after (m := 17314927613) (State.readDone_keeps ..) (by decide))
    | (intro x; refine (fun hx : Keeps 17314927613 s x => ?_) ?_; clear_value x; rotate_left; dsimp only [x]; rotate_right)
    | intro _
    | lift_lets
    | split
    | dsimp only

theorem State.serialRead_keeps (s : State) (ch raw : Nat) (ack : Bool) (crc : Nat) (nE nW high : Bool) (ago : Nat) : Keeps 17314927613 s (State.serialRead s ch raw ack crc nE nW high ago) := by
  unfold State.serialRead
  repeat' first
    | with_reducible assumption
    | with_reducible apply Keeps.refl
    | (with_reducible apply Keeps.after (m := 17314927613) (State.mchAlarm_keeps ..) (by decide))
    | (with_reducible apply Keeps.after (m := 17314927613) (State.serialGood_keeps ..) (by decide))
    | (intro x; refine (fun hx : Keeps 17314927613 s x => ?_) ?_; clear_value x; rotate_left; dsimp only [x]; rotate_right)
    | intro _
    | (with_reducible apply Keeps.ite)
    | lift_lets
    | split
    | dsimp only

theorem State.sinMove_keeps (s : State) (log : Nat) (z0 z : Int × Int) : Keeps 524288 s (State.sinMove s log z0 z).2.2 := by
  unfold State.sinMove
  repeat' first
    | with_reducible assumption
    | with_reducible apply Keeps.refl
    | (with_reducible apply Keeps.after (m := 524288) (State.useFree_keeps ..) (by decide))
    | (intro x; refine (fun hx : Keeps 524288 s x => ?_) ?_; clear_value x; rotate_left; dsimp only [x]; rotate_right)
    | intro _
    | (with_reducible apply Keeps.ite)
    | lift_lets
    | split
    | dsimp only

theorem State.sinMove_eq {s : State} (log : Nat) (z0 z : Int × Int) {a a2} {t} (e : State.sinMove s log z0 z = (a, a2, t)) : Keeps 524288 s t := by
  have h := State.sinMove_keeps s log z0 z
  rw [e] at h
  exact h

theorem State.someVec_keeps (s : State) (z : Int × Int) : Keeps 524288 s (State.someVec s z).2 := by
  unfold State.someVec
  repeat' first
    | with_reducible assumption
    | with_reducible apply Keeps.refl
    | (with_reducible apply Keeps.after (m := 524288) (State.useFree_keeps ..) (by decide))
    | (intro x; refine (fun hx : Keeps 524288 s x => ?_) ?_; clear_value x; rotate_left; dsimp only [x]; rotate_right)
    | intro _
    | (with_reducible apply Keeps.ite)
    | lift_lets
    | split
    | dsimp only

theorem State.someVec_eq {s : State} (z : Int × Int) {a} {t} (e : State.someVec s z = (a, t)) : Keeps 524288 s t := by
  have h := State.someVec_keeps s z
  rw [e] at h
  exact h

theorem State.sinSample_keeps (s : State) (ch : Nat) (a b : Int) : Keeps 17314927613 s (State.sinSample s ch a b) := by
  unfold State.sinSample
  repeat' first
    | with_reducible assumption
    | with_reducible apply Keeps.refl
    | (with_reducible apply Keeps.after (m := 17314927613) (State.someVec_keeps ..) (by decide))
    | (with_reducible apply Keeps.after (m := 17314927613) (State.someVec_eq (e := ‹_›) ..) (by decide))
    | (with_reducible apply Keeps.after (m := 17314927613) (State.setMch_keeps ..) (by decide))
    | (with_reducible apply Keeps.after (m := 17314927613) (State.readDone_keeps ..) (by decide))
    | (with_reducible apply Keeps.after (m := 17314927613) (State.mchAlarm_keeps ..) (by decide))
    | (with_reducible apply Keeps.after (m := 17314927613) (State.sinMove_keeps ..) (by decide))
    | (with_reducible apply Keeps.after (m := 17314927613) (State.sinMove_eq (e := ‹_›) ..) (by decide))
    | (with_reducible apply Keeps.after (m := 17314927613) (State.moveBy_keeps ..) (by decide))
    | (with_reducible apply Keeps.after (m := 17314927613) (State.indexCheck_keeps ..) (by decide))
    | (intro x; refine (fun hx : Keeps 17314927613 s x => ?_) ?_; clear_value x; rotate_left; dsimp only [x]; rotate_right)
    | intro _
    | (with_reducible apply Keeps.ite)
    | lift_lets
    | split
    | dsimp only

theorem State.trigIn_keeps (s : State) (k : Nat) (rise : Bool) : Keeps 17314370557 s (State.trigIn s k rise) := by
  unfold State.trigIn
  repeat' first
    | with_reducible assumption
    | with_reducible apply Keeps.refl
    | (with_reducible apply Keeps.after (m := 17314370557) (State.rigSource_keeps ..) (by decide))
    | (intro x; refine (fun hx : Keeps 17314370557 s x => ?_) ?_; clear_value x; rotate_left; dsimp only [x]; rotate_right)
    | intro _
    | (with_reducible apply Keeps.ite)
    | lift_lets
    | split
    | dsimp only

theorem execEchoStep_keeps (k : Nat) (s : State) {nxt : State} (e : execEchoStep k s = .next nxt) : Keeps 294912 s nxt := by
  unfold execEchoStep at e
  first | refine Keeps.go ?_ e | refine Keeps.goRead ?_ e | cases e
  try dsimp only
  repeat' first
    | with_reducible assumption
    | with_reducible apply Keeps.refl
    | (with_reducible apply Keeps.after (m := 294912) (State.echoStep_keeps ..) (by decide))
    | intro _
    | dsimp only

theorem execIndexEvent_keeps (ch : Nat) (z : Bool) (s : State) {nxt : State} (e : execIndexEvent ch z s = .next nxt) : Keeps 819225 s nxt := by
  unfold execIndexEvent at e
  first | refine Keeps.go ?_ e | refine Keeps.goRead ?_ e | cases e
  try dsimp only
  repeat' first
    | with_reducible assumption
    | with_reducible apply Keeps.refl
    | (with_reducible apply Keeps.after (m := 819225) (State.indexCheck_keeps ..) (by decide))
    | (with_reducible apply Keeps.after (m := 819225) (State.setMch_keeps ..) (by decide))
    | (intro x; refine (fun hx : Keeps 819225 s x => ?_) ?_; clear_value x; rotate_left; dsimp only [x]; rotate_right)
    | intro _
    | (with_reducible apply Keeps.ite)
    | lift_lets
    | split
    | dsimp only

theorem execMotionSample_keeps (r : Nat) (s : State) {nxt : State} (e : execMotionSample r s = .next nxt) : Keeps 33024 s nxt := by
  unfold execMotionSample at e
  first | refine Keeps.go ?_ e | refine Keeps.goRead ?_ e | cases e
  try dsimp only
  repeat' first
    | with_reducible assumption
    | with_reducible apply Keeps.refl
    | (with_reducible apply Keeps.after (m := 33024) (State.motionSample_keeps ..) (by decide))
    | intro _
    | dsimp only

theorem execPositionCount_keeps (ch : Nat) (a b : Bool) (s : State) {nxt : State} (e : execPositionCount ch a b s = .next nxt) : Keeps 17314927613 s nxt := by
  unfold execPositionCount at e
  first | refine Keeps.go ?_ e | refine Keeps.goRead ?_ e | cases e
  try dsimp only
  repeat' first
    | with_reducible assumption
    | with_reducible apply Keeps.refl
    | (with_reducible apply Keeps.after (m := 17314927613) (State.incremental_keeps ..) (by decide))
    | intro _
    | dsimp only

theorem execProbeEdge_keeps (k : Nat) (rise : Bool) (s : State) {nxt : State} (e : execProbeEdge k rise s = .next nxt) : Keeps 33025 s nxt := by
  unfold execProbeEdge at e
  first | refine Keeps.go ?_ e | refine Keeps.goRead ?_ e | cases e
  try dsimp only
  repeat' first
    | with_reducible assumption
    | with_reducible apply Keeps.refl
    | (with_reducible apply Keeps.after (m := 33025) (State.probeEdge_keeps ..) (by decide))
    | intro _
    | dsimp only

theorem execQuadErr_keeps (ch : Nat) (s : State) {nxt : State} (e : execQuadErr ch s = .next nxt) : Keeps 17314927613 s nxt := by
  unfold execQuadErr at e
  first | refine Keeps.go ?_ e | refine Keeps.goRead ?_ e | cases e
  try dsimp only
  repeat' first
    | with_reducible assumption
    | with_reducible apply Keeps.refl
    | (with_reducible apply Keeps.after (m := 17314927613) (State.incremental_keeps ..) (by decide))
    | intro _
    | (with_reducible apply Keeps.ite)
    | split
    | dsimp only

theorem execSerialRead_keeps (ch raw : Nat) (ack : Bool) (crc : Nat) (nE nW high : Bool) (ago : Nat) (s : State) {nxt : State} (e : execSerialRead ch raw ack crc nE nW high ago s = .next nxt) : Keeps 17314927613 s nxt := by
  unfold execSerialRead at e
  first | refine Keeps.go ?_ e | refine Keeps.goRead ?_ e | cases e
  try dsimp only
  repeat' first
    | with_reducible assumption
    | with_reducible apply Keeps.refl
    | (with_reducible apply Keeps.after (m := 17314927613) (State.serialRead_keeps ..) (by decide))
    | intro _
    | dsimp only

theorem execSincosSample_keeps (ch : Nat) (a b : Int) (s : State) {nxt : State} (e : execSincosSample ch a b s = .next nxt) : Keeps 17314927613 s nxt := by
  unfold execSincosSample at e
  first | refine Keeps.go ?_ e | refine Keeps.goRead ?_ e | cases e
  try dsimp only
  repeat' first
    | with_reducible assumption
    | with_reducible apply Keeps.refl
    | (with_reducible apply Keeps.after (m := 17314927613) (State.sinSample_keeps ..) (by decide))
    | intro _
    | dsimp only

theorem execSpeedDecay_keeps (ch : Nat) (s : State) {nxt : State} (e : execSpeedDecay ch s = .next nxt) : Keeps 32768 s nxt := by
  unfold execSpeedDecay at e
  first | refine Keeps.go ?_ e | refine Keeps.goRead ?_ e | cases e
  try dsimp only
  repeat' first
    | with_reducible assumption
    | with_reducible apply Keeps.refl
    | (with_reducible apply Keeps.after (m := 32768) (State.settle_keeps ..) (by decide))
    | intro _
    | (with_reducible apply Keeps.ite)
    | split
    | dsimp only

theorem execSpeedStill_keeps (ch : Nat) (s : State) {nxt : State} (e : execSpeedStill ch s = .next nxt) : Keeps 32768 s nxt := by
  unfold execSpeedStill at e
  first | refine Keeps.go ?_ e | refine Keeps.goRead ?_ e | cases e
  try dsimp only
  repeat' first
    | with_reducible assumption
    | with_reducible apply Keeps.refl
    | (with_reducible apply Keeps.after (m := 32768) (State.settle_keeps ..) (by decide))
    | intro _
    | (with_reducible apply Keeps.ite)
    | split
    | dsimp only

theorem execTrigInEdge_keeps (k : Nat) (rise : Bool) (s : State) {nxt : State} (e : execTrigInEdge k rise s = .next nxt) : Keeps 17314370557 s nxt := by
  unfold execTrigInEdge at e
  first | refine Keeps.go ?_ e | refine Keeps.goRead ?_ e | cases e
  try dsimp only
  repeat' first
    | with_reducible assumption
    | with_reducible apply Keeps.refl
    | (with_reducible apply Keeps.after (m := 17314370557) (State.trigIn_keeps ..) (by decide))
    | intro _
    | dsimp only

end Sys2Proof.Machine
end

