-- ==== Sys2Proof/Laws/KeepsRings.lean ====
section
/-! SUPPORT. What each function of Machine/Rings.lean may change. -/

namespace Sys2Proof.Machine

set_option linter.all false

theorem State.endDelivery_keeps (s : State) (x : Dlv) (status parts flags bytes : Nat) : Keeps 549756077337 s (State.endDelivery s x status parts flags bytes) := by
  unfold State.endDelivery
  repeat' first
    | with_reducible assumption
    | with_reducible apply Keeps.refl
    | (with_reducible apply Keeps.after (m := 549756077337) (State.setFrame_keeps ..) (by decide))
    | (with_reducible apply Keeps.after (m := 549756077337) (State.complete_keeps ..) (by decide))
    | (intro x; refine (fun hx : Keeps 549756077337 s x => ?_) ?_; clear_value x; rotate_left; dsimp only [x]; rotate_right)
    | intro _
    | lift_lets
    | split
    | dsimp only
    | (with_reducible apply Keeps.mover (m := 549756077337) (by decide))

theorem State.abortDelivery_keeps (s : State) (x : Dlv) : Keeps 549756077337 s (State.abortDelivery s x) := by
  unfold State.abortDelivery
  repeat' first
    | with_reducible assumption
    | with_reducible apply Keeps.refl
    | (with_reducible apply Keeps.after (m := 549756077337) (State.endDelivery_keeps ..) (by decide))
    | (intro x; refine (fun hx : Keeps 549756077337 s x => ?_) ?_; clear_value x; rotate_left; dsimp only [x]; rotate_right)
    | intro _
    | lift_lets
    | split
    | dsimp only

theorem State.evtStops_keeps (s : State) (n : Nat) : Keeps 549755813896 s (State.evtStops s n) := by
  unfold State.evtStops
  repeat' first
    | (with_reducible apply Keeps.foldl)
    | with_reducible assumption
    | with_reducible apply Keeps.refl
    | (with_reducible apply State.setRing_keeps (m := 549755813896) (by decide))
    | with_reducible exact Or.inl rfl
    | with_reducible exact Or.inl (fun _ => rfl)
    | with_reducible exact Or.inr (fun _ => rfl)
    | with_reducible exact Or.inr (fun _ => ⟨rfl, rfl⟩)
    | with_reducible exact Or.inr (fun _ => ⟨rfl, rfl, rfl⟩)
    | with_reducible exact Or.inr (fun _ => ⟨rfl, rfl, rfl, rfl⟩)
    | with_reducible exact Or.inr (fun _ => ⟨rfl, rfl, rfl, rfl, rfl, rfl, rfl, rfl, rfl⟩)
    | intro _
    | dsimp only

theorem State.ringOff_keeps (s : State) (n : Nat) : Keeps 549755813897 s (State.ringOff s n) := by
  unfold State.ringOff
  repeat' first
    | with_reducible assumption
    | with_reducible apply Keeps.refl
    | (with_reducible apply State.setRing_keeps (m := 549755813897) (by decide))
    | (with_reducible apply Keeps.after (m := 549755813897) (State.setF_keeps ..) (by decide))
    | (with_reducible apply Keeps.after (m := 549755813897) (State.evtStops_keeps ..) (by decide))
    | with_reducible exact Or.inl rfl
    | with_reducible exact Or.inr rfl
    | with_reducible exact Or.inr ⟨rfl, rfl⟩
    | with_reducible exact Or.inr ⟨rfl, rfl, rfl⟩
    | with_reducible exact Or.inr ⟨rfl, rfl, rfl, rfl⟩
    | with_reducible exact Or.inl (fun _ => rfl)
    | with_reducible exact Or.inr (fun _ => rfl)
    | with_reducible exact Or.inr (fun _ => ⟨rfl, rfl⟩)
    | with_reducible exact Or.inr (fun _ => ⟨rfl, rfl, rfl⟩)
    | with_reducible exact Or.inr (fun _ => ⟨rfl, rfl, rfl, rfl⟩)
    | with_reducible exact Or.inr (fun _ => ⟨rfl, rfl, rfl, rfl, rfl, rfl, rfl, rfl, rfl⟩)
    | (refine Or.inr (fun q => ?_); (try dsimp only); split <;> first | rfl | exact ⟨rfl, rfl⟩ | exact ⟨rfl, rfl, rfl⟩ | exact ⟨rfl, rfl, rfl, rfl⟩)
    | (intro x; refine (fun hx : Keeps 549755813897 s x => ?_) ?_; clear_value x; rotate_left; dsimp only [x]; rotate_right)
    | intro _
    | (with_reducible apply Keeps.ite)
    | lift_lets
    | split
    | dsimp only
    | (with_reducible apply Keeps.rings (m := 549755813897) (by decide))

theorem State.subRelease_keeps (s : State) (k : Nat) : Keeps 17180137241 s (State.subRelease s k) := by
  unfold State.subRelease
  repeat' first
    | with_reducible assumption
    | with_reducible apply Keeps.refl
    | (with_reducible apply Keeps.after (m := 17180137241) (State.releaseAll_keeps ..) (by decide))
    | (intro x; refine (fun hx : Keeps 17180137241 s x => ?_) ?_; clear_value x; rotate_left; dsimp only [x]; rotate_right)
    | intro _
    | lift_lets
    | dsimp only
    | (with_reducible apply Keeps.mover (m := 17180137241) (by decide))

theorem State.ringAbort_keeps (s : State) (n : Nat) : Keeps 566935951129 s (State.ringAbort s n) := by
  unfold State.ringAbort
  repeat' first
    | (with_reducible apply Keeps.foldl)
    | with_reducible assumption
    | with_reducible apply Keeps.refl
    | (with_reducible apply State.setRing_keeps (m := 566935951129) (by decide))
    | (with_reducible apply Keeps.after (m := 566935951129) (State.setF_keeps ..) (by decide))
    | (with_reducible apply Keeps.after (m := 566935951129) (State.evtStops_keeps ..) (by decide))
    | (with_reducible apply Keeps.after (m := 566935951129) (State.abortDelivery_keeps ..) (by decide))
    | (with_reducible apply Keeps.after (m := 566935951129) (State.subRelease_keeps ..) (by decide))
    | with_reducible exact Or.inl rfl
    | with_reducible exact Or.inl (fun _ => rfl)
    | with_reducible exact Or.inr (fun _ => rfl)
    | with_reducible exact Or.inr (fun _ => ⟨rfl, rfl⟩)
    | with_reducible exact Or.inr (fun _ => ⟨rfl, rfl, rfl⟩)
    | with_reducible exact Or.inr (fun _ => ⟨rfl, rfl, rfl, rfl⟩)
    | with_reducible exact Or.inr (fun _ => ⟨rfl, rfl, rfl, rfl, rfl, rfl, rfl, rfl, rfl⟩)
    | (intro x; refine (fun hx : Keeps 566935951129 s x => ?_) ?_; clear_value x; rotate_left; dsimp only [x]; rotate_right)
    | intro _
    | lift_lets
    | split
    | dsimp only

theorem State.ringStart_keeps (s : State) (n : Nat) : Keeps 549755814921 s (State.ringStart s n) := by
  unfold State.ringStart
  repeat' first
    | (with_reducible apply Keeps.foldl)
    | with_reducible assumption
    | with_reducible apply Keeps.refl
    | (with_reducible apply State.setRing_keeps (m := 549755814921) (by decide))
    | (with_reducible apply Keeps.after (m := 549755814921) (State.setF_keeps ..) (by decide))
    | (with_reducible apply Keeps.after (m := 549755814921) (State.setEvt_keeps ..) (by decide))
    | with_reducible exact Or.inl rfl
    | with_reducible exact Or.inl (fun _ => rfl)
    | with_reducible exact Or.inr (fun _ => rfl)
    | with_reducible exact Or.inr (fun _ => ⟨rfl, rfl⟩)
    | with_reducible exact Or.inr (fun _ => ⟨rfl, rfl, rfl⟩)
    | with_reducible exact Or.inr (fun _ => ⟨rfl, rfl, rfl, rfl⟩)
    | with_reducible exact Or.inr (fun _ => ⟨rfl, rfl, rfl, rfl, rfl, rfl, rfl, rfl, rfl⟩)
    | (refine Or.inr (fun q => ?_); (try dsimp only); split <;> first | rfl | exact ⟨rfl, rfl⟩ | exact ⟨rfl, rfl, rfl⟩ | exact ⟨rfl, rfl, rfl, rfl⟩)
    | (intro x; refine (fun hx : Keeps 549755814921 s x => ?_) ?_; clear_value x; rotate_left; dsimp only [x]; rotate_right)
    | intro _
    | (with_reducible apply Keeps.ite)
    | lift_lets
    | split
    | dsimp only
    | (with_reducible apply Keeps.mover (m := 549755814921) (by decide))

theorem State.ringResume_keeps (s : State) (n : Nat) : Keeps 549755814920 s (State.ringResume s n) := by
  unfold State.ringResume
  repeat' first
    | with_reducible assumption
    | with_reducible apply Keeps.refl
    | (with_reducible apply State.setRing_keeps (m := 549755814920) (by decide))
    | with_reducible exact Or.inl rfl
    | with_reducible exact Or.inl (fun _ => rfl)
    | with_reducible exact Or.inr (fun _ => rfl)
    | with_reducible exact Or.inr (fun _ => ⟨rfl, rfl⟩)
    | with_reducible exact Or.inr (fun _ => ⟨rfl, rfl, rfl⟩)
    | with_reducible exact Or.inr (fun _ => ⟨rfl, rfl, rfl, rfl⟩)
    | with_reducible exact Or.inr (fun _ => ⟨rfl, rfl, rfl, rfl, rfl, rfl, rfl, rfl, rfl⟩)
    | (refine Or.inr (fun q => ?_); (try dsimp only); split <;> first | rfl | exact ⟨rfl, rfl⟩ | exact ⟨rfl, rfl, rfl⟩ | exact ⟨rfl, rfl, rfl, rfl⟩)
    | (intro x; refine (fun hx : Keeps 549755814920 s x => ?_) ?_; clear_value x; rotate_left; dsimp only [x]; rotate_right)
    | intro _
    | (with_reducible apply Keeps.ite)
    | lift_lets
    | split
    | dsimp only
    | (with_reducible apply Keeps.mover (m := 549755814920) (by decide))

theorem State.ringCtrl_keeps (s : State) (n : Nat) (v : Word) : Keeps 566935951129 s (State.ringCtrl s n v) := by
  unfold State.ringCtrl
  repeat' first
    | with_reducible assumption
    | with_reducible apply Keeps.refl
    | (with_reducible apply Keeps.after (m := 566935951129) (State.setReg_keeps ..) (by decide))
    | (with_reducible apply Keeps.after (m := 566935951129) (State.ringAbort_keeps ..) (by decide))
    | (with_reducible apply Keeps.after (m := 566935951129) (State.ringStart_keeps ..) (by decide))
    | (with_reducible apply Keeps.after (m := 566935951129) (State.ringResume_keeps ..) (by decide))
    | (intro x; refine (fun hx : Keeps 566935951129 s x => ?_) ?_; clear_value x; rotate_left; dsimp only [x]; rotate_right)
    | intro _
    | (with_reducible apply Keeps.ite)
    | lift_lets
    | split
    | dsimp only

theorem State.ringBaseWrite_keeps (s : State) (n : Nat) (lo hi : Word) : Keeps 1 s (State.ringBaseWrite s n lo hi) := by
  unfold State.ringBaseWrite
  repeat' first
    | with_reducible apply Keeps.refl
    | (with_reducible apply Keeps.after (m := 1) (State.setReg_keeps ..) (by decide))
    | (with_reducible apply Keeps.ite)
    | split
    | dsimp only

theorem State.ringBus_keeps (s : State) (n addr : Nat) : Keeps 549755813897 s (State.ringBus s n addr) := by
  unfold State.ringBus
  repeat' first
    | with_reducible assumption
    | with_reducible apply Keeps.refl
    | (with_reducible apply Keeps.after (m := 549755813897) (State.setEvt_keeps ..) (by decide))
    | (with_reducible apply Keeps.after (m := 549755813897) (State.set64_keeps ..) (by decide))
    | (with_reducible apply State.setRing_keeps (m := 549755813897) (by decide))
    | with_reducible exact Or.inl rfl
    | with_reducible exact Or.inl (fun _ => rfl)
    | with_reducible exact Or.inr (fun _ => rfl)
    | with_reducible exact Or.inr (fun _ => ⟨rfl, rfl⟩)
    | with_reducible exact Or.inr (fun _ => ⟨rfl, rfl, rfl⟩)
    | with_reducible exact Or.inr (fun _ => ⟨rfl, rfl, rfl, rfl⟩)
    | with_reducible exact Or.inr (fun _ => ⟨rfl, rfl, rfl, rfl, rfl, rfl, rfl, rfl, rfl⟩)
    | intro _
    | dsimp only

theorem State.ringBusError_keeps (s : State) (n addr : Nat) (cmd : Option Nat) : Keeps 549756078233 s (State.ringBusError s n addr cmd) := by
  unfold State.ringBusError
  repeat' first
    | with_reducible assumption
    | with_reducible apply Keeps.refl
    | (with_reducible apply Keeps.after (m := 549756078233) (State.ringBus_keeps ..) (by decide))
    | (with_reducible apply Keeps.after (m := 549756078233) (State.endJob_keeps ..) (by decide))
    | (with_reducible apply Keeps.after (m := 549756078233) (State.complete_keeps ..) (by decide))
    | (with_reducible apply Keeps.after (m := 549756078233) (State.setHl_keeps ..) (by decide))
    | (intro x; refine (fun hx : Keeps 549756078233 s x => ?_) ?_; clear_value x; rotate_left; dsimp only [x]; rotate_right)
    | intro _
    | (with_reducible apply Keeps.ite)
    | lift_lets
    | split
    | dsimp only

theorem State.doorbell_keeps (s : State) (p n : Nat) (v : BitVec 32) : Keeps 549756076057 s (State.doorbell s p n v) := by
  unfold State.doorbell
  repeat' first
    | with_reducible assumption
    | with_reducible apply Keeps.refl
    | (with_reducible apply Keeps.after (m := 549756076057) (State.hpEvt_keeps ..) (by decide))
    | (with_reducible apply Keeps.after (m := 549756076057) (State.count_keeps ..) (by decide))
    | (with_reducible apply State.setRing_keeps (m := 549756076057) (by decide))
    | (with_reducible apply Keeps.after (m := 549756076057) (State.setEvt_keeps ..) (by decide))
    | with_reducible exact Or.inl rfl
    | with_reducible exact Or.inl (fun _ => rfl)
    | with_reducible exact Or.inr (fun _ => rfl)
    | with_reducible exact Or.inr (fun _ => ⟨rfl, rfl⟩)
    | with_reducible exact Or.inr (fun _ => ⟨rfl, rfl, rfl⟩)
    | with_reducible exact Or.inr (fun _ => ⟨rfl, rfl, rfl, rfl⟩)
    | with_reducible exact Or.inr (fun _ => ⟨rfl, rfl, rfl, rfl, rfl, rfl, rfl, rfl, rfl⟩)
    | (refine Or.inr (fun q => ?_); (try dsimp only); split <;> first | rfl | exact ⟨rfl, rfl⟩ | exact ⟨rfl, rfl, rfl⟩ | exact ⟨rfl, rfl, rfl, rfl⟩)
    | intro _
    | (with_reducible apply Keeps.ite)
    | split
    | dsimp only

theorem State.stagedWrite_keeps (s : State) (n : Nat) : Keeps 262169 s (State.stagedWrite s n) := by
  unfold State.stagedWrite
  repeat' first
    | with_reducible assumption
    | with_reducible apply Keeps.refl
    | (with_reducible apply Keeps.after (m := 262169) (State.putRec_keeps ..) (by decide))
    | (with_reducible apply State.setRing_keeps (m := 262169) (by decide))
    | with_reducible exact Or.inl rfl
    | with_reducible exact Or.inl (fun _ => rfl)
    | with_reducible exact Or.inr (fun _ => rfl)
    | with_reducible exact Or.inr (fun _ => ⟨rfl, rfl⟩)
    | with_reducible exact Or.inr (fun _ => ⟨rfl, rfl, rfl⟩)
    | with_reducible exact Or.inr (fun _ => ⟨rfl, rfl, rfl, rfl⟩)
    | with_reducible exact Or.inr (fun _ => ⟨rfl, rfl, rfl, rfl, rfl, rfl, rfl, rfl, rfl⟩)
    | (refine Or.inr (fun q => ?_); (try dsimp only); split <;> first | rfl | exact ⟨rfl, rfl⟩ | exact ⟨rfl, rfl, rfl⟩ | exact ⟨rfl, rfl, rfl, rfl⟩)
    | intro _
    | (with_reducible apply Keeps.ite)
    | split
    | dsimp only

theorem execDoorbellWrite_keeps (p n : Nat) (v : BitVec 32) (s : State) {nxt : State} (e : execDoorbellWrite p n v s = .next nxt) : Keeps 549756076057 s nxt := by
  unfold execDoorbellWrite at e
  first | refine Keeps.go ?_ e | refine Keeps.goRead ?_ e | cases e
  try dsimp only
  repeat' first
    | with_reducible assumption
    | with_reducible apply Keeps.refl
    | (with_reducible apply Keeps.after (m := 549756076057) (State.doorbell_keeps ..) (by decide))
    | intro _
    | dsimp only

theorem execNop_keeps (d : Desc) (s : State) {nxt : State} (e : execNop d s = .next nxt) : Keeps 549756076057 s nxt := by
  unfold execNop at e
  first | refine Keeps.go ?_ e | refine Keeps.goRead ?_ e | cases e
  try dsimp only
  repeat' first
    | with_reducible assumption
    | with_reducible apply Keeps.refl
    | (with_reducible apply State.runCmd_keeps (mk := 549756076057) (by decide))
    | (with_reducible apply Keeps.after (m := 549756076057) (State.complete_keeps ..) (by decide))
    | intro _
    | dsimp only

theorem execRingBusError_keeps (n addr : Nat) (cmd : Option Nat) (s : State) {nxt : State} (e : execRingBusError n addr cmd s = .next nxt) : Keeps 549756078233 s nxt := by
  unfold execRingBusError at e
  first | refine Keeps.go ?_ e | refine Keeps.goRead ?_ e | cases e
  try dsimp only
  repeat' first
    | with_reducible assumption
    | with_reducible apply Keeps.refl
    | (with_reducible apply Keeps.after (m := 549756078233) (State.ringBusError_keeps ..) (by decide))
    | intro _
    | dsimp only

theorem execStagedRecordWrite_keeps (n : Nat) (s : State) {nxt : State} (e : execStagedRecordWrite n s = .next nxt) : Keeps 262169 s nxt := by
  unfold execStagedRecordWrite at e
  first | refine Keeps.go ?_ e | refine Keeps.goRead ?_ e | cases e
  try dsimp only
  repeat' first
    | with_reducible assumption
    | with_reducible apply Keeps.refl
    | (with_reducible apply Keeps.after (m := 262169) (State.stagedWrite_keeps ..) (by decide))
    | intro _
    | dsimp only

end Sys2Proof.Machine
end

