-- ==== Sys2Proof/Laws/KeepsDevReset.lean ====
section
/-! SUPPORT. What each function of Machine/DevReset.lean may change. -/

namespace Sys2Proof.Machine

set_option linter.all false

theorem State.stage_keeps (s : State) (n : Nat) : Keeps 4097 s (State.stage s n) := by
  unfold State.stage
  repeat' first
    | with_reducible assumption
    | with_reducible apply Keeps.refl
    | (with_reducible apply Keeps.after (m := 4097) (State.setF_keeps ..) (by decide))
    | with_reducible exact Or.inl rfl
    | with_reducible exact Or.inr rfl
    | with_reducible exact Or.inr ⟨rfl, rfl⟩
    | with_reducible exact Or.inr ⟨rfl, rfl, rfl⟩
    | with_reducible exact Or.inr ⟨rfl, rfl, rfl, rfl⟩
    | (intro x; refine (fun hx : Keeps 4097 s x => ?_) ?_; clear_value x; rotate_left; dsimp only [x]; rotate_right)
    | intro _
    | lift_lets
    | dsimp only
    | (with_reducible apply Keeps.svc (m := 4097) (by decide))

theorem State.bootStart_keeps (s : State) : Keeps 4097 s (State.bootStart s) := by
  unfold State.bootStart
  repeat' first
    | (with_reducible apply Keeps.foldl)
    | with_reducible assumption
    | with_reducible apply Keeps.refl
    | (with_reducible apply Keeps.after (m := 4097) (State.stage_keeps ..) (by decide))
    | (with_reducible apply Keeps.after (m := 4097) (State.setF_keeps ..) (by decide))
    | (with_reducible apply Keeps.after (m := 4097) (State.setReg_keeps ..) (by decide))
    | (intro x; refine (fun hx : Keeps 4097 s x => ?_) ?_; clear_value x; rotate_left; dsimp only [x]; rotate_right)
    | intro _
    | (with_reducible apply Keeps.ite)
    | lift_lets
    | split
    | dsimp only

theorem State.deviceReset_keeps (s : State) (why : Option Stop) : Keeps 1088839483391 s (State.deviceReset s why) := by
  refine ⟨fun p hp => ?_, ?_⟩
  · cases p <;> simp only [Part.idx] at hp <;> first | exact absurd hp (by decide) | rfl | exact ⟨rfl, rfl⟩ | exact ⟨rfl, rfl, rfl, rfl⟩ | exact RingCtlSame.refl _
  · exact ⟨List.suffix_rfl, Nat.le_refl _, Nat.le_refl _, fun _ => rfl, fun _ => rfl⟩

end Sys2Proof.Machine
end

