-- ==== Sys2Proof/Laws/KeepsMovers.lean ====
section
/-! SUPPORT. What each function of Machine/Movers.lean may change. -/

namespace Sys2Proof.Machine

set_option linter.all false

theorem State.setSub_keeps (s : State) (k : Nat) (f : SubSt → SubSt) : Keeps 1024 s (State.setSub s k f) := by
  unfold State.setSub
  repeat' first
    | with_reducible assumption
    | with_reducible apply Keeps.refl
    | (with_reducible apply Keeps.after (m := 1024) (State.setMover_keeps ..) (by decide))
    | intro _
    | dsimp only

theorem State.abandon_keeps (s : State) (k : Nat) (f : FrameSt) (cause : Nat) : Keeps 17180137241 s (State.abandon s k f cause) := by
  unfold State.abandon
  repeat' first
    | with_reducible assumption
    | with_reducible apply Keeps.refl
    | (with_reducible apply Keeps.after (m := 17180137241) (State.setSub_keeps ..) (by decide))
    | (with_reducible apply Keeps.after (m := 17180137241) (State.releaseIf_keeps ..) (by decide))
    | (with_reducible apply Keeps.after (m := 17180137241) (State.shed_keeps ..) (by decide))
    | (intro x; refine (fun hx : Keeps 17180137241 s x => ?_) ?_; clear_value x; rotate_left; dsimp only [x]; rotate_right)
    | intro _
    | lift_lets
    | dsimp only

theorem State.subRemoved_keeps (s : State) (k : Nat) : Keeps 566935951129 s (State.subRemoved s k) := by
  unfold State.subRemoved
  repeat' first
    | (with_reducible apply Keeps.foldl)
    | with_reducible assumption
    | with_reducible apply Keeps.refl
    | (with_reducible apply Keeps.after (m := 566935951129) (State.abortDelivery_keeps ..) (by decide))
    | (with_reducible apply Keeps.after (m := 566935951129) (State.setSub_keeps ..) (by decide))
    | (with_reducible apply Keeps.after (m := 566935951129) (State.subRelease_keeps ..) (by decide))
    | (intro x; refine (fun hx : Keeps 566935951129 s x => ?_) ?_; clear_value x; rotate_left; dsimp only [x]; rotate_right)
    | intro _
    | lift_lets
    | dsimp only

theorem State.setChan_keeps (s : State) (k : Nat) (f : ChanSt → ChanSt) : Keeps 1024 s (State.setChan s k f) := by
  unfold State.setChan
  repeat' first
    | with_reducible assumption
    | with_reducible apply Keeps.refl
    | (with_reducible apply Keeps.after (m := 1024) (State.setMover_keeps ..) (by decide))
    | intro _
    | dsimp only

theorem State.svcMoves_keeps (s : State) : Keeps 263257 s (State.svcMoves s) := by
  unfold State.svcMoves
  repeat' first
    | (with_reducible apply Keeps.foldl)
    | with_reducible assumption
    | with_reducible apply Keeps.refl
    | (with_reducible apply Keeps.after (m := 263257) (State.useJob_keeps ..) (by decide))
    | (with_reducible apply Keeps.after (m := 263257) (State.setChan_keeps ..) (by decide))
    | (with_reducible apply Keeps.after (m := 263257) (State.hostWrite_keeps ..) (by decide))
    | (with_reducible apply Keeps.after (m := 263257) (State.hostReadCount_keeps ..) (by decide))
    | (with_reducible apply Keeps.after (m := 263257) (State.emit_keeps ..) (by decide))
    | (with_reducible apply Keeps.after (m := 263257) (State.setMover_keeps ..) (by decide))
    | (with_reducible apply Keeps.after (m := 263257) (State.moverReads_keeps ..) (by decide))
    | (with_reducible apply Keeps.after (m := 263257) (State.add64_keeps ..) (by decide))
    | (with_reducible apply Keeps.after (m := 263257) (State.setReg_keeps ..) (by decide))
    | (intro x; refine (fun hx : Keeps 263257 s x => ?_) ?_; clear_value x; rotate_left; dsimp only [x]; rotate_right)
    | intro _
    | (with_reducible apply Keeps.ite)
    | lift_lets
    | split
    | dsimp only

theorem State.setDlv_keeps (s : State) (x : Dlv) (f : Dlv → Dlv) : Keeps 1024 s (State.setDlv s x f) := by
  unfold State.setDlv
  repeat' first
    | with_reducible assumption
    | with_reducible apply Keeps.refl
    | (with_reducible apply Keeps.after (m := 1024) (State.setMover_keeps ..) (by decide))
    | intro _
    | (with_reducible apply Keeps.ite)
    | split
    | dsimp only

theorem State.bind_keeps (s : State) (x : Dlv) (f : FrameSt) : Keeps 549756077337 s (State.bind s x f) := by
  unfold State.bind
  repeat' first
    | with_reducible assumption
    | with_reducible apply Keeps.refl
    | (with_reducible apply Keeps.after (m := 549756077337) (State.setFrame_keeps ..) (by decide))
    | (with_reducible apply Keeps.after (m := 549756077337) (State.endDelivery_keeps ..) (by decide))
    | (with_reducible apply Keeps.after (m := 549756077337) (State.setDlv_keeps ..) (by decide))
    | (with_reducible apply Keeps.after (m := 549756077337) (State.setSub_keeps ..) (by decide))
    | (intro x; refine (fun hx : Keeps 549756077337 s x => ?_) ?_; clear_value x; rotate_left; dsimp only [x]; rotate_right)
    | intro _
    | (with_reducible apply Keeps.ite)
    | lift_lets
    | split
    | dsimp only

theorem State.moveRun_keeps (s : State) (m : Nat) (x : Dlv) (f : FrameSt) (part : Nat) (run : Nat × Nat × Nat) : Keeps 263193 s (State.moveRun s m x f part run) := by
  unfold State.moveRun
  repeat' first
    | (with_reducible apply Keeps.foldl)
    | with_reducible assumption
    | with_reducible apply Keeps.refl
    | (with_reducible apply Keeps.after (m := 263193) (State.add64_keeps ..) (by decide))
    | (with_reducible apply Keeps.after (m := 263193) (State.hostReadCount_keeps ..) (by decide))
    | (with_reducible apply Keeps.after (m := 263193) (State.emit_keeps ..) (by decide))
    | (with_reducible apply Keeps.after (m := 263193) (State.moverReads_keeps ..) (by decide))
    | (with_reducible apply Keeps.after (m := 263193) (State.readBytes_keeps ..) (by decide))
    | (with_reducible apply Keeps.after (m := 263193) (State.tableBytes_keeps ..) (by decide))
    | (with_reducible apply Keeps.after (m := 263193) (State.setDlv_keeps ..) (by decide))
    | (with_reducible apply Keeps.after (m := 263193) (State.moverErr_keeps ..) (by decide))
    | (with_reducible apply Keeps.after (m := 263193) (State.hostWrite_keeps ..) (by decide))
    | (intro x; refine (fun hx : Keeps 263193 s x => ?_) ?_; clear_value x; rotate_left; dsimp only [x]; rotate_right)
    | intro _
    | (with_reducible apply Keeps.ite)
    | lift_lets
    | split
    | dsimp only

theorem State.moveBytes_keeps (s : State) (m : Nat) (x : Dlv) (f : FrameSt) (a n : Nat) : Keeps 263193 s (State.moveBytes s m x f a n) := by
  unfold State.moveBytes
  repeat' first
    | (with_reducible apply Keeps.foldl)
    | with_reducible assumption
    | with_reducible apply Keeps.refl
    | (with_reducible apply Keeps.after (m := 263193) (State.moveRun_keeps ..) (by decide))
    | (with_reducible apply Keeps.foldlFst)
    | (with_reducible apply Keeps.foldlSnd)
    | (intro x; refine (fun hx : Keeps 263193 s x => ?_) ?_; clear_value x; rotate_left; dsimp only [x]; rotate_right)
    | intro _
    | (with_reducible apply Keeps.ite)
    | lift_lets
    | split
    | dsimp only

theorem State.giveRange_keeps (s : State) (m : Nat) (x : Dlv) (f : FrameSt) (a n : Nat) : Keeps 263193 s (State.giveRange s m x f a n) := by
  unfold State.giveRange
  repeat' first
    | with_reducible assumption
    | with_reducible apply Keeps.refl
    | (with_reducible apply Keeps.after (m := 263193) (State.setMover_keeps ..) (by decide))
    | (with_reducible apply Keeps.after (m := 263193) (State.add64_keeps ..) (by decide))
    | (with_reducible apply Keeps.after (m := 263193) (State.moveBytes_keeps ..) (by decide))
    | (intro x; refine (fun hx : Keeps 263193 s x => ?_) ?_; clear_value x; rotate_left; dsimp only [x]; rotate_right)
    | intro _
    | lift_lets
    | dsimp only

theorem State.giveRuns_keeps (s : State) (ms : List Nat) (run : Nat) (x : Dlv) (f : FrameSt) (fuel at_ a n : Nat) : Keeps 263193 s (State.giveRuns s ms run x f fuel at_ a n) := by
  induction fuel generalizing s at_ a n with
  | zero => exact Keeps.refl _ _
  | succ fuel ih =>
    unfold State.giveRuns
    repeat' first
      | with_reducible assumption
      | with_reducible apply Keeps.refl
      | (with_reducible apply Keeps.after (m := 263193) (ih ..) (by decide))
      | (with_reducible apply Keeps.after (m := 263193) (State.giveRange_keeps ..) (by decide))
      | (intro x; refine (fun hx : Keeps 263193 s x => ?_) ?_; clear_value x; rotate_left; dsimp only [x]; rotate_right)
      | intro _
      | (with_reducible apply Keeps.ite)
      | lift_lets
      | split
      | dsimp only


theorem State.distribute_keeps (s : State) (k : Nat) (ms : List Nat) (run : Nat) (fuel at_ left : Nat) : Keeps 549756077401 s (State.distribute s k ms run fuel at_ left) := by
  induction fuel generalizing s at_ left with
  | zero => exact Keeps.refl _ _
  | succ fuel ih =>
    unfold State.distribute
    repeat' first
      | with_reducible assumption
      | with_reducible apply Keeps.refl
      | (with_reducible apply Keeps.after (m := 549756077401) (ih ..) (by decide))
      | (with_reducible apply Keeps.after (m := 549756077401) (State.bind_keeps ..) (by decide))
      | (with_reducible apply Keeps.after (m := 549756077401) (State.giveRuns_keeps ..) (by decide))
      | (with_reducible apply Keeps.after (m := 549756077401) (State.useJob_keeps ..) (by decide))
      | (with_reducible apply Keeps.after (m := 549756077401) (State.setDlv_keeps ..) (by decide))
      | (intro x; refine (fun hx : Keeps 549756077401 s x => ?_) ?_; clear_value x; rotate_left; dsimp only [x]; rotate_right)
      | intro _
      | (with_reducible apply Keeps.ite)
      | lift_lets
      | split
      | dsimp only


theorem State.subTake_keeps (s : State) (k : Nat) : Keeps 549756077401 s (State.subTake s k) := by
  unfold State.subTake
  repeat' first
    | (with_reducible apply Keeps.foldl)
    | with_reducible assumption
    | with_reducible apply Keeps.refl
    | (with_reducible apply Keeps.after (m := 549756077401) (State.distribute_keeps ..) (by decide))
    | (with_reducible apply Keeps.after (m := 549756077401) (State.setPlan_keeps ..) (by decide))
    | (with_reducible apply Keeps.after (m := 549756077401) (State.usedWork_keeps ..) (by decide))
    | (intro x; refine (fun hx : Keeps 549756077401 s x => ?_) ?_; clear_value x; rotate_left; dsimp only [x]; rotate_right)
    | intro _
    | (with_reducible apply Keeps.ite)
    | lift_lets
    | split
    | dsimp only

theorem State.subSuspended_keeps (s : State) (k : Nat) : Keeps 17180137241 s (State.subSuspended s k) := by
  unfold State.subSuspended
  repeat' first
    | (with_reducible apply Keeps.foldl)
    | with_reducible assumption
    | with_reducible apply Keeps.refl
    | (with_reducible apply Keeps.after (m := 17180137241) (State.abandon_keeps ..) (by decide))
    | intro _
    | (with_reducible apply Keeps.ite)
    | split
    | dsimp only

theorem State.subCuts_keeps (s : State) (cuts : List (Job × Nat)) : Keeps 566935951193 s (State.subCuts s cuts) := by
  unfold State.subCuts
  repeat' first
    | (with_reducible apply Keeps.foldl)
    | with_reducible assumption
    | with_reducible apply Keeps.refl
    | (with_reducible apply Keeps.after (m := 566935951193) (State.abandon_keeps ..) (by decide))
    | (with_reducible apply Keeps.after (m := 566935951193) (State.setStore_keeps ..) (by decide))
    | (intro x; refine (fun hx : Keeps 566935951193 s x => ?_) ?_; clear_value x; rotate_left; dsimp only [x]; rotate_right)
    | intro _
    | (with_reducible apply Keeps.ite)
    | lift_lets
    | split
    | dsimp only

theorem State.subAsk_keeps (s : State) (k : Nat) : Keeps 64 s (State.subAsk s k) := by
  unfold State.subAsk
  repeat' first
    | (with_reducible apply Keeps.foldl)
    | with_reducible assumption
    | with_reducible apply Keeps.refl
    | (with_reducible apply Keeps.after (m := 64) (State.setWork_keeps ..) (by decide))
    | (intro x; refine (fun hx : Keeps 64 s x => ?_) ?_; clear_value x; rotate_left; dsimp only [x]; rotate_right)
    | intro _
    | (with_reducible apply Keeps.ite)
    | lift_lets
    | split
    | dsimp only

theorem State.moversIdle_keeps (s : State) : Keeps 1024 s (State.moversIdle s) := by
  unfold State.moversIdle
  repeat' first
    | with_reducible assumption
    | with_reducible apply Keeps.refl
    | (with_reducible apply Keeps.after (m := 1024) (State.setMover_keeps ..) (by decide))
    | intro _
    | dsimp only

theorem State.setObj_keeps (s : State) (i : Nat) (f : ObjSt → ObjSt) : Keeps 8192 s (State.setObj s i f) := by
  unfold State.setObj
  repeat' first
    | with_reducible apply Keeps.refl
    | with_reducible exact Or.inl rfl
    | with_reducible exact Or.inr rfl
    | with_reducible exact Or.inr ⟨rfl, rfl⟩
    | with_reducible exact Or.inr ⟨rfl, rfl, rfl⟩
    | with_reducible exact Or.inr ⟨rfl, rfl, rfl, rfl⟩
    | dsimp only
    | (with_reducible apply Keeps.obj (m := 8192) (by decide))

theorem State.chanEnd_keeps (s : State) (k status : Nat) : Keeps 1089 s (State.chanEnd s k status) := by
  unfold State.chanEnd
  repeat' first
    | (with_reducible apply Keeps.foldl)
    | with_reducible assumption
    | with_reducible apply Keeps.refl
    | (with_reducible apply Keeps.after (m := 1089) (State.setWork_keeps ..) (by decide))
    | (with_reducible apply Keeps.after (m := 1089) (State.setChan_keeps ..) (by decide))
    | (with_reducible apply Keeps.after (m := 1089) (State.setReg_keeps ..) (by decide))
    | (with_reducible apply Keeps.after (m := 1089) (State.setEvt_keeps ..) (by decide))
    | (intro x; refine (fun hx : Keeps 1089 s x => ?_) ?_; clear_value x; rotate_left; dsimp only [x]; rotate_right)
    | intro _
    | (with_reducible apply Keeps.ite)
    | lift_lets
    | split
    | dsimp only

theorem State.svcAbort_keeps (s : State) (k : Nat) : Keeps 1089 s (State.svcAbort s k) := by
  unfold State.svcAbort
  repeat' first
    | with_reducible apply Keeps.refl
    | (with_reducible apply Keeps.after (m := 1089) (State.chanEnd_keeps ..) (by decide))
    | (with_reducible apply Keeps.ite)
    | split
    | dsimp only

theorem State.svcGo_keeps (s : State) (p k : Nat) : Keeps 1089 s (State.svcGo s p k) := by
  unfold State.svcGo
  repeat' first
    | with_reducible assumption
    | with_reducible apply Keeps.refl
    | (with_reducible apply Keeps.after (m := 1089) (State.setEvt_keeps ..) (by decide))
    | (with_reducible apply Keeps.after (m := 1089) (State.setF_keeps ..) (by decide))
    | (with_reducible apply Keeps.after (m := 1089) (State.setReg_keeps ..) (by decide))
    | (with_reducible apply Keeps.after (m := 1089) (State.setChan_keeps ..) (by decide))
    | (with_reducible apply Keeps.after (m := 1089) (State.chanEnd_keeps ..) (by decide))
    | (intro x; refine (fun hx : Keeps 1089 s x => ?_) ?_; clear_value x; rotate_left; dsimp only [x]; rotate_right)
    | intro _
    | (with_reducible apply Keeps.ite)
    | lift_lets
    | split
    | dsimp only

theorem State.svcCtrl_keeps (s : State) (p k : Nat) (v : Word) : Keeps 1091 s (State.svcCtrl s p k v) := by
  unfold State.svcCtrl
  repeat' first
    | with_reducible assumption
    | with_reducible apply Keeps.refl
    | (with_reducible apply Keeps.after (m := 1091) (State.storeBits_keeps ..) (by decide))
    | (with_reducible apply Keeps.after (m := 1091) (State.svcAbort_keeps ..) (by decide))
    | (with_reducible apply Keeps.after (m := 1091) (State.svcGo_keeps ..) (by decide))
    | (intro x; refine (fun hx : Keeps 1091 s x => ?_) ?_; clear_value x; rotate_left; dsimp only [x]; rotate_right)
    | intro _
    | (with_reducible apply Keeps.ite)
    | lift_lets
    | split
    | dsimp only

theorem State.haltMover_keeps (s : State) (m : Nat) : Keeps 1024 s (State.haltMover s m) := by
  unfold State.haltMover
  repeat' first
    | with_reducible assumption
    | with_reducible apply Keeps.refl
    | (with_reducible apply Keeps.after (m := 1024) (State.setMover_keeps ..) (by decide))
    | (intro x; refine (fun hx : Keeps 1024 s x => ?_) ?_; clear_value x; rotate_left; dsimp only [x]; rotate_right)
    | intro _
    | (with_reducible apply Keeps.ite)
    | lift_lets
    | split
    | dsimp only

theorem State.haltAgain_keeps (s : State) (m ring descNo addr : Nat) : Keeps 1 s (State.haltAgain s m ring descNo addr) := by
  unfold State.haltAgain
  repeat' first
    | with_reducible assumption
    | with_reducible apply Keeps.refl
    | (with_reducible apply Keeps.after (m := 1) (State.set64_keeps ..) (by decide))
    | (intro x; refine (fun hx : Keeps 1 s x => ?_) ?_; clear_value x; rotate_left; dsimp only [x]; rotate_right)
    | intro _
    | (with_reducible apply Keeps.ite)
    | lift_lets
    | split
    | dsimp only

theorem State.moverBusError_keeps (s : State) (m kind addr : Nat) : Keeps 549756077401 s (State.moverBusError s m kind addr) := by
  unfold State.moverBusError
  repeat' first
    | with_reducible assumption
    | with_reducible apply Keeps.refl
    | (with_reducible apply Keeps.after (m := 549756077401) (State.moverErr_keeps ..) (by decide))
    | (with_reducible apply Keeps.after (m := 549756077401) (State.haltMover_keeps ..) (by decide))
    | (with_reducible apply Keeps.after (m := 549756077401) (State.haltAgain_keeps ..) (by decide))
    | (with_reducible apply Keeps.after (m := 549756077401) (State.ringBus_keeps ..) (by decide))
    | (with_reducible apply Keeps.after (m := 549756077401) (State.setDlv_keeps ..) (by decide))
    | (with_reducible apply Keeps.after (m := 549756077401) (State.post_keeps ..) (by decide))
    | (with_reducible apply Keeps.after (m := 549756077401) (State.chanEnd_keeps ..) (by decide))
    | (with_reducible apply Keeps.after (m := 549756077401) (State.spillFail_keeps ..) (by decide))
    | (intro x; refine (fun hx : Keeps 549756077401 s x => ?_) ?_; clear_value x; rotate_left; dsimp only [x]; rotate_right)
    | intro _
    | (with_reducible apply Keeps.ite)
    | lift_lets
    | split
    | dsimp only

theorem State.cplTimeout_keeps (s : State) (p : Nat) (mover ring : Option Nat) (addr : Nat) : Keeps 549756079577 s (State.cplTimeout s p mover ring addr) := by
  unfold State.cplTimeout
  repeat' first
    | with_reducible assumption
    | with_reducible apply Keeps.refl
    | (with_reducible apply Keeps.after (m := 549756079577) (State.hpEvt_keeps ..) (by decide))
    | (with_reducible apply Keeps.after (m := 549756079577) (State.count_keeps ..) (by decide))
    | (with_reducible apply Keeps.after (m := 549756079577) (State.moverBusError_keeps ..) (by decide))
    | (with_reducible apply Keeps.after (m := 549756079577) (State.ringBusError_keeps ..) (by decide))
    | (intro x; refine (fun hx : Keeps 549756079577 s x => ?_) ?_; clear_value x; rotate_left; dsimp only [x]; rotate_right)
    | intro _
    | (with_reducible apply Keeps.ite)
    | lift_lets
    | split
    | dsimp only

theorem State.delivery_keeps (s : State) (n : Nat) (denied : RightsDrop) : Keeps 566935951129 s (State.delivery s n denied) := by
  unfold State.delivery
  repeat' first
    | (with_reducible apply Keeps.foldl)
    | with_reducible assumption
    | with_reducible apply Keeps.refl
    | (with_reducible apply Keeps.after (m := 566935951129) (State.moverErr_keeps ..) (by decide))
    | (with_reducible apply Keeps.after (m := 566935951129) (State.logEntry_keeps ..) (by decide))
    | (with_reducible apply Keeps.after (m := 566935951129) (State.hpEvt_keeps ..) (by decide))
    | (with_reducible apply Keeps.after (m := 566935951129) (State.count_keeps ..) (by decide))
    | (with_reducible apply Keeps.after (m := 566935951129) (State.add64_keeps ..) (by decide))
    | (with_reducible apply Keeps.after (m := 566935951129) (State.emit_keeps ..) (by decide))
    | (with_reducible apply Keeps.after (m := 566935951129) (State.endDelivery_keeps ..) (by decide))
    | (with_reducible apply Keeps.after (m := 566935951129) (State.releaseIf_keeps ..) (by decide))
    | (intro x; refine (fun hx : Keeps 566935951129 s x => ?_) ?_; clear_value x; rotate_left; dsimp only [x]; rotate_right)
    | intro _
    | (with_reducible apply Keeps.ite)
    | lift_lets
    | split
    | dsimp only

theorem State.moverFailed_keeps (s : State) (m : Nat) : Keeps 1024 s (State.moverFailed s m) := by
  unfold State.moverFailed
  repeat' first
    | (with_reducible apply Keeps.foldl)
    | with_reducible assumption
    | with_reducible apply Keeps.refl
    | (with_reducible apply Keeps.after (m := 1024) (State.setMover_keeps ..) (by decide))
    | (intro x; refine (fun hx : Keeps 1024 s x => ?_) ?_; clear_value x; rotate_left; dsimp only [x]; rotate_right)
    | intro _
    | (with_reducible apply Keeps.ite)
    | lift_lets
    | split
    | dsimp only

theorem State.svcStop_keeps (s : State) (p : Option Nat) : Keeps 1089 s (State.svcStop s p) := by
  unfold State.svcStop
  repeat' first
    | (with_reducible apply Keeps.foldl)
    | with_reducible assumption
    | with_reducible apply Keeps.refl
    | (with_reducible apply Keeps.after (m := 1089) (State.svcAbort_keeps ..) (by decide))
    | intro _
    | (with_reducible apply Keeps.ite)
    | split
    | dsimp only

theorem State.svcDone_keeps (s : State) (k : Nat) (data : List Byte) : Keeps 274877916225 s (State.svcDone s k data) := by
  unfold State.svcDone
  repeat' first
    | with_reducible assumption
    | with_reducible apply Keeps.refl
    | (with_reducible apply Keeps.after (m := 274877916225) (State.chanEnd_keeps ..) (by decide))
    | with_reducible exact Or.inl rfl
    | with_reducible exact Or.inr rfl
    | with_reducible exact Or.inr ⟨rfl, rfl⟩
    | with_reducible exact Or.inr ⟨rfl, rfl, rfl⟩
    | with_reducible exact Or.inr ⟨rfl, rfl, rfl, rfl⟩
    | exact Or.inl ⟨rfl, fun h => hbmWrite_wf _ _ _ h⟩
    | exact Or.inl ⟨rfl, fun h => Tab.filter_wf _ h⟩
    | (intro x; refine (fun hx : Keeps 274877916225 s x => ?_) ?_; clear_value x; rotate_left; dsimp only [x]; rotate_right)
    | intro _
    | (with_reducible apply Keeps.ite)
    | lift_lets
    | split
    | dsimp only
    | (with_reducible apply Keeps.obj (m := 274877916225) (by decide))

theorem State.svcStart_keeps (s : State) (k : Nat) : Keeps 9281 s (State.svcStart s k) := by
  unfold State.svcStart
  repeat' first
    | (with_reducible apply Keeps.foldl)
    | with_reducible assumption
    | with_reducible apply Keeps.refl
    | (with_reducible apply Keeps.after (m := 9281) (State.chanEnd_keeps ..) (by decide))
    | (with_reducible apply Keeps.after (m := 9281) (State.setObj_keeps ..) (by decide))
    | (with_reducible apply Keeps.after (m := 9281) (State.setChan_keeps ..) (by decide))
    | (with_reducible apply Keeps.after (m := 9281) (State.addWork_keeps ..) (by decide))
    | (intro x; refine (fun hx : Keeps 9281 s x => ?_) ?_; clear_value x; rotate_left; dsimp only [x]; rotate_right)
    | intro _
    | (with_reducible apply Keeps.ite)
    | lift_lets
    | split
    | dsimp only

theorem State.takeDlv_keeps (s : State) (d : Desc) (opcode : Nat) (used : List (Nat × Nat)) (operands : Bool) (x : Ticket → Dlv) : Keeps 549756077337 s (State.takeDlv s d opcode used operands x) := by
  unfold State.takeDlv
  repeat' first
    | with_reducible assumption
    | with_reducible apply Keeps.refl
    | (with_reducible apply Keeps.after (m := 549756077337) (State.take_keeps ..) (by decide))
    | (with_reducible apply Keeps.after (m := 549756077337) (State.endDelivery_keeps ..) (by decide))
    | (with_reducible apply Keeps.after (m := 549756077337) (State.setEvt_keeps ..) (by decide))
    | (with_reducible apply Keeps.after (m := 549756077337) (State.setMover_keeps ..) (by decide))
    | (intro x; refine (fun hx : Keeps 549756077337 s x => ?_) ?_; clear_value x; rotate_left; dsimp only [x]; rotate_right)
    | intro _
    | (with_reducible apply Keeps.ite)
    | lift_lets
    | split
    | dsimp only

theorem execCplTimeout_keeps (p : Nat) (mover ring : Option Nat) (addr : Nat) (s : State) {nxt : State} (e : execCplTimeout p mover ring addr s = .next nxt) : Keeps 549756079577 s nxt := by
  unfold execCplTimeout at e
  first | refine Keeps.go ?_ e | refine Keeps.goRead ?_ e | cases e
  try dsimp only
  repeat' first
    | with_reducible assumption
    | with_reducible apply Keeps.refl
    | (with_reducible apply Keeps.after (m := 549756079577) (State.cplTimeout_keeps ..) (by decide))
    | intro _
    | dsimp only

theorem execDelivery_keeps (n : Nat) (denied : RightsDrop) (s : State) {nxt : State} (e : execDelivery n denied s = .next nxt) : Keeps 566935951129 s nxt := by
  unfold execDelivery at e
  first | refine Keeps.go ?_ e | refine Keeps.goRead ?_ e | cases e
  try dsimp only
  repeat' first
    | with_reducible assumption
    | with_reducible apply Keeps.refl
    | (with_reducible apply Keeps.after (m := 566935951129) (State.delivery_keeps ..) (by decide))
    | intro _
    | dsimp only

theorem execDlvFrame_keeps (d : Desc) (s : State) {nxt : State} (e : execDlvFrame d s = .next nxt) : Keeps 549756077337 s nxt := by
  unfold execDlvFrame at e
  first | refine Keeps.go ?_ e | refine Keeps.goRead ?_ e | cases e
  try dsimp only
  repeat' first
    | with_reducible assumption
    | with_reducible apply Keeps.refl
    | (with_reducible apply Keeps.after (m := 549756077337) (State.takeDlv_keeps ..) (by decide))
    | intro _
    | dsimp only

theorem execDlvGather_keeps (d : Desc) (s : State) {nxt : State} (e : execDlvGather d s = .next nxt) : Keeps 549756077337 s nxt := by
  unfold execDlvGather at e
  first | refine Keeps.go ?_ e | refine Keeps.goRead ?_ e | cases e
  try dsimp only
  repeat' first
    | with_reducible assumption
    | with_reducible apply Keeps.refl
    | (with_reducible apply Keeps.after (m := 549756077337) (State.takeDlv_keeps ..) (by decide))
    | intro _
    | dsimp only

theorem execMoverBusError_keeps (m kind addr : Nat) (s : State) {nxt : State} (e : execMoverBusError m kind addr s = .next nxt) : Keeps 549756077401 s nxt := by
  unfold execMoverBusError at e
  first | refine Keeps.go ?_ e | refine Keeps.goRead ?_ e | cases e
  try dsimp only
  repeat' first
    | with_reducible assumption
    | with_reducible apply Keeps.refl
    | (with_reducible apply Keeps.after (m := 549756077401) (State.moverBusError_keeps ..) (by decide))
    | intro _
    | dsimp only

theorem execSvcTransferDone_keeps (k : Nat) (data : List Byte) (s : State) {nxt : State} (e : execSvcTransferDone k data s = .next nxt) : Keeps 274877916225 s nxt := by
  unfold execSvcTransferDone at e
  first | refine Keeps.go ?_ e | refine Keeps.goRead ?_ e | cases e
  try dsimp only
  repeat' first
    | with_reducible assumption
    | with_reducible apply Keeps.refl
    | (with_reducible apply Keeps.after (m := 274877916225) (State.svcDone_keeps ..) (by decide))
    | intro _
    | dsimp only

theorem execSvcTransferStart_keeps (k : Nat) (s : State) {nxt : State} (e : execSvcTransferStart k s = .next nxt) : Keeps 9281 s nxt := by
  unfold execSvcTransferStart at e
  first | refine Keeps.go ?_ e | refine Keeps.goRead ?_ e | cases e
  try dsimp only
  repeat' first
    | with_reducible assumption
    | with_reducible apply Keeps.refl
    | (with_reducible apply Keeps.after (m := 9281) (State.svcStart_keeps ..) (by decide))
    | intro _
    | dsimp only

end Sys2Proof.Machine
end

