-- ==== Sys2Proof/Laws/KeepsService.lean ====
section
/-! SUPPORT. What each function of Machine/Service.lean may change. -/

namespace Sys2Proof.Machine

set_option linter.all false

theorem State.respare_keeps (s : State) (kind : Nat) : Keeps 21475102745 s (State.respare s kind) := by
  unfold State.respare
  repeat' first
    | (with_reducible apply Keeps.foldl)
    | with_reducible assumption
    | with_reducible apply Keeps.refl
    | (with_reducible apply Keeps.after (m := 21475102745) (State.changeUnit_keeps ..) (by decide))
    | (intro x; refine (fun hx : Keeps 21475102745 s x => ?_) ?_; clear_value x; rotate_left; dsimp only [x]; rotate_right)
    | intro _
    | (with_reducible apply Keeps.ite)
    | lift_lets
    | split
    | dsimp only

theorem State.setDue_keeps (s : State) (e : UnitDue) : Keeps 4096 s (State.setDue s e) := by
  unfold State.setDue
  repeat' first
    | with_reducible assumption
    | with_reducible apply Keeps.refl
    | (with_reducible apply State.setSvc_keeps (m := 4096) (by decide))
    | with_reducible exact Or.inl rfl
    | with_reducible exact Or.inl (fun _ => rfl)
    | with_reducible exact Or.inr (fun _ => rfl)
    | with_reducible exact Or.inr (fun _ => ⟨rfl, rfl⟩)
    | with_reducible exact Or.inr (fun _ => ⟨rfl, rfl, rfl⟩)
    | with_reducible exact Or.inr (fun _ => ⟨rfl, rfl, rfl, rfl⟩)
    | with_reducible exact Or.inr (fun _ => ⟨rfl, rfl, rfl, rfl, rfl, rfl, rfl, rfl, rfl⟩)
    | intro _
    | dsimp only

theorem State.autoDrain_keeps (s : State) (c : Nat) : Keeps 4096 s (State.autoDrain s c) := by
  unfold State.autoDrain
  repeat' first
    | with_reducible assumption
    | with_reducible apply Keeps.refl
    | (with_reducible apply Keeps.after (m := 4096) (State.setDue_keeps ..) (by decide))
    | intro _
    | (with_reducible apply Keeps.ite)
    | split
    | dsimp only

theorem State.ceFailed_keeps (s : State) (e : Nat) : Keeps 256 s (State.ceFailed s e) := by
  unfold State.ceFailed
  repeat' first
    | with_reducible assumption
    | with_reducible apply Keeps.refl
    | (with_reducible apply Keeps.after (m := 256) (State.setStore_keeps ..) (by decide))
    | (intro x; refine (fun hx : Keeps 256 s x => ?_) ?_; clear_value x; rotate_left; dsimp only [x]; rotate_right)
    | intro _
    | (with_reducible apply Keeps.ite)
    | lift_lets
    | split
    | dsimp only

theorem State.drainDone_keeps (s : State) (kind i : Nat) : Keeps 571230916633 s (State.drainDone s kind i) := by
  unfold State.drainDone
  repeat' first
    | (with_reducible apply Keeps.foldl)
    | with_reducible assumption
    | with_reducible apply Keeps.refl
    | (with_reducible apply State.setSvc_keeps (m := 571230916633) (by decide))
    | (with_reducible apply Keeps.after (m := 571230916633) (State.changeUnit_keeps ..) (by decide))
    | (with_reducible apply Keeps.after (m := 571230916633) (State.completeOpt_keeps ..) (by decide))
    | with_reducible exact Or.inl rfl
    | with_reducible exact Or.inl (fun _ => rfl)
    | with_reducible exact Or.inr (fun _ => rfl)
    | with_reducible exact Or.inr (fun _ => ⟨rfl, rfl⟩)
    | with_reducible exact Or.inr (fun _ => ⟨rfl, rfl, rfl⟩)
    | with_reducible exact Or.inr (fun _ => ⟨rfl, rfl, rfl, rfl⟩)
    | with_reducible exact Or.inr (fun _ => ⟨rfl, rfl, rfl, rfl, rfl, rfl, rfl, rfl, rfl⟩)
    | (refine Or.inr (fun q => ?_); (try dsimp only); split <;> first | rfl | exact ⟨rfl, rfl⟩ | exact ⟨rfl, rfl, rfl⟩ | exact ⟨rfl, rfl, rfl, rfl⟩)
    | (intro x; refine (fun hx : Keeps 571230916633 s x => ?_) ?_; clear_value x; rotate_left; dsimp only [x]; rotate_right)
    | intro _
    | (with_reducible apply Keeps.ite)
    | lift_lets
    | split
    | dsimp only

theorem State.withhold_keeps (s : State) (c row page : Nat) : Keeps 266521 s (State.withhold s c row page) := by
  unfold State.withhold
  repeat' first
    | with_reducible assumption
    | with_reducible apply Keeps.refl
    | (with_reducible apply Keeps.after (m := 266521) (State.setStore_keeps ..) (by decide))
    | (with_reducible apply Keeps.after (m := 266521) (State.storeEvt_keeps ..) (by decide))
    | (with_reducible apply Keeps.after (m := 266521) (State.setReg_keeps ..) (by decide))
    | (with_reducible apply Keeps.after (m := 266521) (State.post_keeps ..) (by decide))
    | (with_reducible apply Keeps.after (m := 266521) (State.autoDrain_keeps ..) (by decide))
    | (intro x; refine (fun hx : Keeps 266521 s x => ?_) ?_; clear_value x; rotate_left; dsimp only [x]; rotate_right)
    | intro _
    | (with_reducible apply Keeps.ite)
    | lift_lets
    | split
    | dsimp only

theorem State.eccCorrected_keeps (s : State) (c row : Nat) (page : Option Nat) : Keeps 266521 s (State.eccCorrected s c row page) := by
  unfold State.eccCorrected
  repeat' first
    | with_reducible assumption
    | with_reducible apply Keeps.refl
    | (with_reducible apply Keeps.after (m := 266521) (State.storeEvt_keeps ..) (by decide))
    | (with_reducible apply Keeps.after (m := 266521) (State.count_keeps ..) (by decide))
    | (with_reducible apply Keeps.after (m := 266521) (State.setStore_keeps ..) (by decide))
    | (with_reducible apply Keeps.after (m := 266521) (State.withhold_keeps ..) (by decide))
    | (intro x; refine (fun hx : Keeps 266521 s x => ?_) ?_; clear_value x; rotate_left; dsimp only [x]; rotate_right)
    | intro _
    | (with_reducible apply Keeps.ite)
    | lift_lets
    | split
    | dsimp only

theorem State.pageLost_keeps (s : State) (p : Nat) : Keeps 256 s (State.pageLost s p) := by
  unfold State.pageLost
  repeat' first
    | with_reducible assumption
    | with_reducible apply Keeps.refl
    | (with_reducible apply Keeps.after (m := 256) (State.setStore_keeps ..) (by decide))
    | intro _
    | (with_reducible apply Keeps.ite)
    | split
    | dsimp only

theorem State.eccUncorrectable_keeps (s : State) (c row : Nat) (page : Option Nat) : Keeps 17180135705 s (State.eccUncorrectable s c row page) := by
  unfold State.eccUncorrectable
  repeat' first
    | with_reducible assumption
    | with_reducible apply Keeps.refl
    | (with_reducible apply Keeps.after (m := 17180135705) (State.storeEvt_keeps ..) (by decide))
    | (with_reducible apply Keeps.after (m := 17180135705) (State.count_keeps ..) (by decide))
    | (with_reducible apply Keeps.after (m := 17180135705) (State.logEntry_keeps ..) (by decide))
    | (with_reducible apply Keeps.after (m := 17180135705) (State.post_keeps ..) (by decide))
    | (with_reducible apply Keeps.after (m := 17180135705) (State.withhold_keeps ..) (by decide))
    | (with_reducible apply Keeps.after (m := 17180135705) (State.pageLost_keeps ..) (by decide))
    | (with_reducible apply Keeps.after (m := 17180135705) (State.setStore_keeps ..) (by decide))
    | (with_reducible apply Keeps.after (m := 17180135705) (State.autoDrain_keeps ..) (by decide))
    | (intro x; refine (fun hx : Keeps 17180135705 s x => ?_) ?_; clear_value x; rotate_left; dsimp only [x]; rotate_right)
    | intro _
    | (with_reducible apply Keeps.ite)
    | lift_lets
    | split
    | dsimp only

theorem State.startedLost_keeps (s : State) (u : Nat) : Keeps 256 s (State.startedLost s u) := by
  unfold State.startedLost
  repeat' first
    | with_reducible assumption
    | with_reducible apply Keeps.refl
    | (with_reducible apply Keeps.after (m := 256) (State.setStore_keeps ..) (by decide))
    | (with_reducible apply Keeps.after (m := 256) (State.setStream_keeps ..) (by decide))
    | (with_reducible apply Keeps.after (m := 256) (State.setFrame_keeps ..) (by decide))
    | (intro x; refine (fun hx : Keeps 256 s x => ?_) ?_; clear_value x; rotate_left; dsimp only [x]; rotate_right)
    | intro _
    | lift_lets
    | split
    | dsimp only

theorem State.puFailed_keeps (s0 : State) (u : Nat) : Keeps 257 s0 (State.puFailed s0 u) := by
  unfold State.puFailed
  repeat' first
    | (with_reducible apply Keeps.foldl)
    | with_reducible assumption
    | with_reducible apply Keeps.refl
    | (with_reducible apply Keeps.after (m := 257) (State.startedLost_keeps ..) (by decide))
    | (with_reducible apply Keeps.after (m := 257) (State.setStore_keeps ..) (by decide))
    | (with_reducible apply Keeps.after (m := 257) (State.setEvt_keeps ..) (by decide))
    | (intro x; refine (fun hx : Keeps 257 s0 x => ?_) ?_; clear_value x; rotate_left; dsimp only [x]; rotate_right)
    | intro _
    | (with_reducible apply Keeps.ite)
    | lift_lets
    | split
    | dsimp only

theorem State.fatal_keeps (s : State) (what : Nat) : Keeps 1088839483391 s (State.fatal s what) := by
  unfold State.fatal
  repeat' first
    | with_reducible assumption
    | with_reducible apply Keeps.refl
    | (with_reducible apply Keeps.after (m := 1088839483391) (State.logEntry_keeps ..) (by decide))
    | (with_reducible apply State.setSvc_keeps (m := 1088839483391) (by decide))
    | (with_reducible apply Keeps.after (m := 1088839483391) (State.bootStart_keeps ..) (by decide))
    | (with_reducible apply Keeps.after (m := 1088839483391) (State.deviceReset_keeps ..) (by decide))
    | with_reducible exact Or.inl rfl
    | with_reducible exact Or.inr rfl
    | with_reducible exact Or.inr ⟨rfl, rfl⟩
    | with_reducible exact Or.inr ⟨rfl, rfl, rfl⟩
    | with_reducible exact Or.inr ⟨rfl, rfl, rfl, rfl⟩
    | with_reducible exact Or.inl (fun _ => rfl)
    | with_reducible exact Or.inr (fun _ => rfl)
    | with_reducible exact Or.inr (fun _ => ⟨rfl, rfl⟩)
    | with_reducible exact Or.inr (fun _ => ⟨rfl, rfl, rfl⟩)
    | with_reducible exact Or.inr (fun _ => ⟨rfl, rfl, rfl, rfl⟩)
    | with_reducible exact Or.inr (fun _ => ⟨rfl, rfl, rfl, rfl, rfl, rfl, rfl, rfl, rfl⟩)
    | (refine Or.inr (fun q => ?_); (try dsimp only); split <;> first | rfl | exact ⟨rfl, rfl⟩ | exact ⟨rfl, rfl, rfl⟩ | exact ⟨rfl, rfl, rfl, rfl⟩)
    | (intro x; refine (fun hx : Keeps 1088839483391 s x => ?_) ?_; clear_value x; rotate_left; dsimp only [x]; rotate_right)
    | intro _
    | (with_reducible apply Keeps.ite)
    | lift_lets
    | split
    | dsimp only
    | (with_reducible apply Keeps.dev (m := 1088839483391) (by decide))

theorem State.pcFailed_keeps (s : State) (c : Nat) : Keeps 1088839483391 s (State.pcFailed s c) := by
  unfold State.pcFailed
  repeat' first
    | (with_reducible apply Keeps.foldl)
    | with_reducible assumption
    | with_reducible apply Keeps.refl
    | (with_reducible apply Keeps.after (m := 1088839483391) (State.pageLost_keeps ..) (by decide))
    | (with_reducible apply Keeps.after (m := 1088839483391) (State.fatal_keeps ..) (by decide))
    | (intro x; refine (fun hx : Keeps 1088839483391 s x => ?_) ?_; clear_value x; rotate_left; dsimp only [x]; rotate_right)
    | intro _
    | (with_reducible apply Keeps.ite)
    | lift_lets
    | split
    | dsimp only

theorem State.unitFailure_keeps (s : State) (kind i cause : Nat) : Keeps 1088839745535 s (State.unitFailure s kind i cause) := by
  unfold State.unitFailure
  repeat' first
    | (with_reducible apply Keeps.foldl)
    | with_reducible assumption
    | with_reducible apply Keeps.refl
    | (with_reducible apply Keeps.after (m := 1088839745535) (State.logEntry_keeps ..) (by decide))
    | (with_reducible apply Keeps.after (m := 1088839745535) (State.unitFails_keeps ..) (by decide))
    | (with_reducible apply State.setSvc_keeps (m := 1088839745535) (by decide))
    | (with_reducible apply Keeps.after (m := 1088839745535) (State.completeOpt_keeps ..) (by decide))
    | (with_reducible apply Keeps.after (m := 1088839745535) (State.laneFailure_keeps ..) (by decide))
    | (with_reducible apply Keeps.after (m := 1088839745535) (State.chooseTp_keeps ..) (by decide))
    | (with_reducible apply Keeps.after (m := 1088839745535) (State.puFailed_keeps ..) (by decide))
    | (with_reducible apply Keeps.after (m := 1088839745535) (State.ceFailed_keeps ..) (by decide))
    | (with_reducible apply Keeps.after (m := 1088839745535) (State.moverFailed_keeps ..) (by decide))
    | (with_reducible apply Keeps.after (m := 1088839745535) (State.pcFailed_keeps ..) (by decide))
    | with_reducible exact Or.inl rfl
    | with_reducible exact Or.inl (fun _ => rfl)
    | with_reducible exact Or.inr (fun _ => rfl)
    | with_reducible exact Or.inr (fun _ => ⟨rfl, rfl⟩)
    | with_reducible exact Or.inr (fun _ => ⟨rfl, rfl, rfl⟩)
    | with_reducible exact Or.inr (fun _ => ⟨rfl, rfl, rfl, rfl⟩)
    | with_reducible exact Or.inr (fun _ => ⟨rfl, rfl, rfl, rfl, rfl, rfl, rfl, rfl, rfl⟩)
    | (refine Or.inr (fun q => ?_); (try dsimp only); split <;> first | rfl | exact ⟨rfl, rfl⟩ | exact ⟨rfl, rfl, rfl⟩ | exact ⟨rfl, rfl, rfl, rfl⟩)
    | (intro x; refine (fun hx : Keeps 1088839745535 s x => ?_) ?_; clear_value x; rotate_left; dsimp only [x]; rotate_right)
    | intro _
    | (with_reducible apply Keeps.ite)
    | lift_lets
    | split
    | dsimp only

theorem State.lockstep_keeps {mk : Nat} {s t0 : State} {u : Nat} {zero : State → State} (hm : 1088839483391 ||| mk = mk)
    (hf : ∀ a0, Keeps mk s a0 → Keeps mk s (zero a0)) (a : Keeps mk s t0) : Keeps mk s (State.lockstep t0 u zero) := by
  unfold State.lockstep
  repeat' first
    | with_reducible assumption
    | with_reducible apply Keeps.refl
    | (with_reducible apply hf)
    | (with_reducible apply Keeps.after (m := mk) (State.fatal_keeps ..) (Keeps.sub hm (by decide)))
    | (with_reducible apply State.setSvc_keeps (m := mk) (Keeps.bit hm (by decide)))
    | (with_reducible apply Keeps.after (m := mk) (State.setStore_keeps ..) (Keeps.sub hm (by decide)))
    | (with_reducible apply Keeps.after (m := mk) (State.logEntry_keeps ..) (Keeps.sub hm (by decide)))
    | (with_reducible apply Keeps.after (m := mk) (State.setEvt_keeps ..) (Keeps.sub hm (by decide)))
    | (with_reducible apply Keeps.after (m := mk) (State.count_keeps ..) (Keeps.sub hm (by decide)))
    | with_reducible exact Or.inl rfl
    | with_reducible exact Or.inl (fun _ => rfl)
    | with_reducible exact Or.inr (fun _ => rfl)
    | with_reducible exact Or.inr (fun _ => ⟨rfl, rfl⟩)
    | with_reducible exact Or.inr (fun _ => ⟨rfl, rfl, rfl⟩)
    | with_reducible exact Or.inr (fun _ => ⟨rfl, rfl, rfl, rfl⟩)
    | with_reducible exact Or.inr (fun _ => ⟨rfl, rfl, rfl, rfl, rfl, rfl, rfl, rfl, rfl⟩)
    | (refine Or.inr (fun q => ?_); (try dsimp only); split <;> first | rfl | exact ⟨rfl, rfl⟩ | exact ⟨rfl, rfl, rfl⟩ | exact ⟨rfl, rfl, rfl, rfl⟩)
    | exact Keeps.bit hm (by decide)
    | (intro x; refine (fun hx : Keeps mk s x => ?_) ?_; clear_value x; rotate_left; dsimp only [x]; rotate_right)
    | intro _
    | (with_reducible apply Keeps.ite)
    | lift_lets
    | split
    | dsimp only

theorem State.moveUnit_keeps (s : State) (kind a b : Nat) : Keeps 321 s (State.moveUnit s kind a b) := by
  unfold State.moveUnit
  repeat' first
    | (with_reducible apply Keeps.foldl)
    | with_reducible assumption
    | with_reducible apply Keeps.refl
    | (with_reducible apply Keeps.after (m := 321) (State.setPlan_keeps ..) (by decide))
    | (with_reducible apply Keeps.after (m := 321) (State.streamMoved_keeps ..) (by decide))
    | (intro x; refine (fun hx : Keeps 321 s x => ?_) ?_; clear_value x; rotate_left; dsimp only [x]; rotate_right)
    | intro _
    | (with_reducible apply Keeps.ite)
    | lift_lets
    | split
    | dsimp only

theorem State.rowRepair_keeps (s : State) (c : Nat) : Keeps 17180135705 s (State.rowRepair s c) := by
  unfold State.rowRepair
  repeat' first
    | with_reducible assumption
    | with_reducible apply Keeps.refl
    | (with_reducible apply Keeps.after (m := 17180135705) (State.setStore_keeps ..) (by decide))
    | (with_reducible apply Keeps.after (m := 17180135705) (State.setF_keeps ..) (by decide))
    | (with_reducible apply State.setSvc_keeps (m := 17180135705) (by decide))
    | (with_reducible apply Keeps.after (m := 17180135705) (State.logEntry_keeps ..) (by decide))
    | (with_reducible apply Keeps.after (m := 17180135705) (State.post_keeps ..) (by decide))
    | (with_reducible apply Keeps.after (m := 17180135705) (State.storeEvt_keeps ..) (by decide))
    | with_reducible exact Or.inl rfl
    | with_reducible exact Or.inl (fun _ => rfl)
    | with_reducible exact Or.inr (fun _ => rfl)
    | with_reducible exact Or.inr (fun _ => ⟨rfl, rfl⟩)
    | with_reducible exact Or.inr (fun _ => ⟨rfl, rfl, rfl⟩)
    | with_reducible exact Or.inr (fun _ => ⟨rfl, rfl, rfl, rfl⟩)
    | with_reducible exact Or.inr (fun _ => ⟨rfl, rfl, rfl, rfl, rfl, rfl, rfl, rfl, rfl⟩)
    | (refine Or.inr (fun q => ?_); (try dsimp only); split <;> first | rfl | exact ⟨rfl, rfl⟩ | exact ⟨rfl, rfl, rfl⟩ | exact ⟨rfl, rfl, rfl, rfl⟩)
    | (intro x; refine (fun hx : Keeps 17180135705 s x => ?_) ?_; clear_value x; rotate_left; dsimp only [x]; rotate_right)
    | intro _
    | (with_reducible apply Keeps.ite)
    | lift_lets
    | split
    | dsimp only

theorem State.unlessRecovering_keeps {mk : Nat} {s t0 : State} {u : Nat} {f : State → State} (hm : 0 ||| mk = mk)
    (hf : ∀ a0, Keeps mk s a0 → Keeps mk s (f a0)) (a : Keeps mk s t0) : Keeps mk s (State.unlessRecovering t0 u f) := by
  unfold State.unlessRecovering
  repeat' first
    | with_reducible assumption
    | with_reducible apply Keeps.refl
    | (with_reducible apply hf)
    | exact Keeps.bit hm (by decide)
    | intro _
    | (with_reducible apply Keeps.ite)
    | split
    | dsimp only

theorem State.slotReturn_keeps (s : State) (d : Nat) : Keeps 264217 s (State.slotReturn s d) := by
  unfold State.slotReturn
  repeat' first
    | with_reducible assumption
    | with_reducible apply Keeps.refl
    | (with_reducible apply Keeps.after (m := 264217) (State.bayStart_keeps ..) (by decide))
    | (with_reducible apply Keeps.after (m := 264217) (State.setDrive_keeps ..) (by decide))
    | (with_reducible apply Keeps.after (m := 264217) (State.emit_keeps ..) (by decide))
    | (intro x; refine (fun hx : Keeps 264217 s x => ?_) ?_; clear_value x; rotate_left; dsimp only [x]; rotate_right)
    | intro _
    | (with_reducible apply Keeps.ite)
    | lift_lets
    | split
    | dsimp only

theorem State.spareIn_keeps (s : State) (kind : Nat) : Keeps 571230916953 s (State.spareIn s kind) := by
  unfold State.spareIn
  repeat' first
    | (with_reducible apply Keeps.foldl)
    | with_reducible assumption
    | with_reducible apply Keeps.refl
    | (with_reducible apply State.setSvc_keeps (m := 571230916953) (by decide))
    | (with_reducible apply Keeps.after (m := 571230916953) (State.changeUnit_keeps ..) (by decide))
    | (with_reducible apply Keeps.after (m := 571230916953) (State.completeOpt_keeps ..) (by decide))
    | (with_reducible apply Keeps.after (m := 571230916953) (State.moveUnit_keeps ..) (by decide))
    | (with_reducible apply Keeps.after (m := 571230916953) (State.setEvt_keeps ..) (by decide))
    | with_reducible exact Or.inl rfl
    | with_reducible exact Or.inl (fun _ => rfl)
    | with_reducible exact Or.inr (fun _ => rfl)
    | with_reducible exact Or.inr (fun _ => ⟨rfl, rfl⟩)
    | with_reducible exact Or.inr (fun _ => ⟨rfl, rfl, rfl⟩)
    | with_reducible exact Or.inr (fun _ => ⟨rfl, rfl, rfl, rfl⟩)
    | with_reducible exact Or.inr (fun _ => ⟨rfl, rfl, rfl, rfl, rfl, rfl, rfl, rfl, rfl⟩)
    | (refine Or.inr (fun q => ?_); (try dsimp only); split <;> first | rfl | exact ⟨rfl, rfl⟩ | exact ⟨rfl, rfl, rfl⟩ | exact ⟨rfl, rfl, rfl, rfl⟩)
    | (intro x; refine (fun hx : Keeps 571230916953 s x => ?_) ?_; clear_value x; rotate_left; dsimp only [x]; rotate_right)
    | intro _
    | (with_reducible apply Keeps.ite)
    | lift_lets
    | split
    | dsimp only

theorem State.syncLanes_keeps (s : State) : Keeps 21475102745 s (State.syncLanes s) := by
  unfold State.syncLanes
  repeat' first
    | (with_reducible apply Keeps.foldl)
    | with_reducible assumption
    | with_reducible apply Keeps.refl
    | (with_reducible apply Keeps.after (m := 21475102745) (State.changeUnit_keeps ..) (by decide))
    | (intro x; refine (fun hx : Keeps 21475102745 s x => ?_) ?_; clear_value x; rotate_left; dsimp only [x]; rotate_right)
    | intro _
    | (with_reducible apply Keeps.ite)
    | lift_lets
    | split
    | dsimp only

theorem State.testEnd_keeps (s : State) (kind i : Nat) (pass : Bool) (step errs : Nat) : Keeps 579820851231 s (State.testEnd s kind i pass step errs) := by
  unfold State.testEnd
  repeat' first
    | with_reducible assumption
    | with_reducible apply Keeps.refl
    | (with_reducible apply State.setSvc_keeps (m := 579820851231) (by decide))
    | (with_reducible apply Keeps.after (m := 579820851231) (State.healthFail_keeps ..) (by decide))
    | (with_reducible apply Keeps.after (m := 579820851231) (State.changeUnit_keeps ..) (by decide))
    | (with_reducible apply Keeps.after (m := 579820851231) (State.completeOpt_keeps ..) (by decide))
    | with_reducible exact Or.inl rfl
    | with_reducible exact Or.inl (fun _ => rfl)
    | with_reducible exact Or.inr (fun _ => rfl)
    | with_reducible exact Or.inr (fun _ => ⟨rfl, rfl⟩)
    | with_reducible exact Or.inr (fun _ => ⟨rfl, rfl, rfl⟩)
    | with_reducible exact Or.inr (fun _ => ⟨rfl, rfl, rfl, rfl⟩)
    | with_reducible exact Or.inr (fun _ => ⟨rfl, rfl, rfl, rfl, rfl, rfl, rfl, rfl, rfl⟩)
    | (refine Or.inr (fun q => ?_); (try dsimp only); split <;> first | rfl | exact ⟨rfl, rfl⟩ | exact ⟨rfl, rfl, rfl⟩ | exact ⟨rfl, rfl, rfl, rfl⟩)
    | (intro x; refine (fun hx : Keeps 579820851231 s x => ?_) ?_; clear_value x; rotate_left; dsimp only [x]; rotate_right)
    | intro _
    | (with_reducible apply Keeps.ite)
    | lift_lets
    | split
    | dsimp only

theorem State.thermRise_keeps (s : State) (old new sensor : Nat) : Keeps 17180135449 s (State.thermRise s old new sensor) := by
  unfold State.thermRise
  repeat' first
    | with_reducible apply Keeps.refl
    | (with_reducible apply Keeps.after (m := 17180135449) (State.logEntry_keeps ..) (by decide))
    | (with_reducible apply Keeps.after (m := 17180135449) (State.post_keeps ..) (by decide))
    | (with_reducible apply Keeps.after (m := 17180135449) (State.setEvt_keeps ..) (by decide))
    | (with_reducible apply Keeps.ite)
    | split
    | dsimp only

theorem State.thermal_keeps (s : State) (t : List Int) : Keeps 17180135449 s (State.thermal s t) := by
  unfold State.thermal
  repeat' first
    | (with_reducible apply Keeps.foldl)
    | with_reducible assumption
    | with_reducible apply Keeps.refl
    | (with_reducible apply Keeps.after (m := 17180135449) (State.setReg_keeps ..) (by decide))
    | (with_reducible apply State.setSvc_keeps (m := 17180135449) (by decide))
    | (with_reducible apply Keeps.after (m := 17180135449) (State.thermRise_keeps ..) (by decide))
    | (with_reducible apply Keeps.after (m := 17180135449) (State.emit_keeps ..) (by decide))
    | with_reducible exact Or.inl rfl
    | with_reducible exact Or.inl (fun _ => rfl)
    | with_reducible exact Or.inr (fun _ => rfl)
    | with_reducible exact Or.inr (fun _ => ⟨rfl, rfl⟩)
    | with_reducible exact Or.inr (fun _ => ⟨rfl, rfl, rfl⟩)
    | with_reducible exact Or.inr (fun _ => ⟨rfl, rfl, rfl, rfl⟩)
    | with_reducible exact Or.inr (fun _ => ⟨rfl, rfl, rfl, rfl, rfl, rfl, rfl, rfl, rfl⟩)
    | (refine Or.inr (fun q => ?_); (try dsimp only); split <;> first | rfl | exact ⟨rfl, rfl⟩ | exact ⟨rfl, rfl, rfl⟩ | exact ⟨rfl, rfl, rfl, rfl⟩)
    | (intro x; refine (fun hx : Keeps 17180135449 s x => ?_) ?_; clear_value x; rotate_left; dsimp only [x]; rotate_right)
    | intro _
    | (with_reducible apply Keeps.ite)
    | lift_lets
    | split
    | dsimp only

theorem State.unitBack_keeps (s : State) (kind i code : Nat) : Keeps 21475103135 s (State.unitBack s kind i code) := by
  unfold State.unitBack
  repeat' first
    | with_reducible assumption
    | with_reducible apply Keeps.refl
    | (with_reducible apply Keeps.after (m := 21475103135) (State.changeUnit_keeps ..) (by decide))
    | (with_reducible apply Keeps.after (m := 21475103135) (State.startTraining_keeps ..) (by decide))
    | (with_reducible apply Keeps.after (m := 21475103135) (State.setLane_keeps ..) (by decide))
    | (with_reducible apply Keeps.after (m := 21475103135) (State.pcReturned_keeps ..) (by decide))
    | (intro x; refine (fun hx : Keeps 21475103135 s x => ?_) ?_; clear_value x; rotate_left; dsimp only [x]; rotate_right)
    | intro _
    | (with_reducible apply Keeps.ite)
    | lift_lets
    | split
    | dsimp only

theorem State.unitDue_keeps (s : State) (e : UnitDue) : Keeps 571230917119 s (State.unitDue s e) := by
  unfold State.unitDue
  repeat' first
    | with_reducible assumption
    | with_reducible apply Keeps.refl
    | (with_reducible apply Keeps.after (m := 571230917119) (State.completeOpt_keeps ..) (by decide))
    | (with_reducible apply Keeps.after (m := 571230917119) (State.changeUnit_keeps ..) (by decide))
    | (with_reducible apply Keeps.after (m := 571230917119) (State.moveUnit_keeps ..) (by decide))
    | (with_reducible apply State.setSvc_keeps (m := 571230917119) (by decide))
    | (with_reducible apply Keeps.after (m := 571230917119) (State.proposeSwap_keeps ..) (by decide))
    | (with_reducible apply Keeps.after (m := 571230917119) (State.chooseTp_keeps ..) (by decide))
    | (with_reducible apply Keeps.after (m := 571230917119) (State.emit_keeps ..) (by decide))
    | (with_reducible apply Keeps.after (m := 571230917119) (State.setLane_keeps ..) (by decide))
    | (with_reducible apply Keeps.after (m := 571230917119) (State.setSpareNow_keeps ..) (by decide))
    | (with_reducible apply Keeps.after (m := 571230917119) (State.unitBack_keeps ..) (by decide))
    | with_reducible exact Or.inl rfl
    | with_reducible exact Or.inl (fun _ => rfl)
    | with_reducible exact Or.inr (fun _ => rfl)
    | with_reducible exact Or.inr (fun _ => ⟨rfl, rfl⟩)
    | with_reducible exact Or.inr (fun _ => ⟨rfl, rfl, rfl⟩)
    | with_reducible exact Or.inr (fun _ => ⟨rfl, rfl, rfl, rfl⟩)
    | with_reducible exact Or.inr (fun _ => ⟨rfl, rfl, rfl, rfl, rfl, rfl, rfl, rfl, rfl⟩)
    | (refine Or.inr (fun q => ?_); (try dsimp only); split <;> first | rfl | exact ⟨rfl, rfl⟩ | exact ⟨rfl, rfl, rfl⟩ | exact ⟨rfl, rfl, rfl, rfl⟩)
    | (intro x; refine (fun hx : Keeps 571230917119 s x => ?_) ?_; clear_value x; rotate_left; dsimp only [x]; rotate_right)
    | intro _
    | (with_reducible apply Keeps.ite)
    | lift_lets
    | split
    | dsimp only

theorem State.unitBoundary_keeps (s : State) : Keeps 571231015423 s (State.unitBoundary s) := by
  unfold State.unitBoundary
  repeat' first
    | (with_reducible apply Keeps.foldl)
    | with_reducible assumption
    | with_reducible apply Keeps.refl
    | (with_reducible apply State.setSvc_keeps (m := 571231015423) (by decide))
    | (with_reducible apply Keeps.after (m := 571231015423) (State.takeCkpt_keeps ..) (by decide))
    | (with_reducible apply Keeps.after (m := 571231015423) (State.mchWake_keeps ..) (by decide))
    | (with_reducible apply Keeps.after (m := 571231015423) (State.syncLanes_keeps ..) (by decide))
    | (with_reducible apply Keeps.after (m := 571231015423) (State.completeOpt_keeps ..) (by decide))
    | (with_reducible apply Keeps.after (m := 571231015423) (State.changeUnit_keeps ..) (by decide))
    | (with_reducible apply Keeps.after (m := 571231015423) (State.unitDue_keeps ..) (by decide))
    | with_reducible exact Or.inl rfl
    | with_reducible exact Or.inl (fun _ => rfl)
    | with_reducible exact Or.inr (fun _ => rfl)
    | with_reducible exact Or.inr (fun _ => ⟨rfl, rfl⟩)
    | with_reducible exact Or.inr (fun _ => ⟨rfl, rfl, rfl⟩)
    | with_reducible exact Or.inr (fun _ => ⟨rfl, rfl, rfl, rfl⟩)
    | with_reducible exact Or.inr (fun _ => ⟨rfl, rfl, rfl, rfl, rfl, rfl, rfl, rfl, rfl⟩)
    | (refine Or.inr (fun q => ?_); (try dsimp only); split <;> first | rfl | exact ⟨rfl, rfl⟩ | exact ⟨rfl, rfl, rfl⟩ | exact ⟨rfl, rfl, rfl, rfl⟩)
    | (intro x; refine (fun hx : Keeps 571231015423 s x => ?_) ?_; clear_value x; rotate_left; dsimp only [x]; rotate_right)
    | intro _
    | (with_reducible apply Keeps.ite)
    | lift_lets
    | split
    | dsimp only

theorem execDrainComplete_keeps (kind i : Nat) (s : State) {nxt : State} (e : execDrainComplete kind i s = .next nxt) : Keeps 571230916633 s nxt := by
  unfold execDrainComplete at e
  first | refine Keeps.go ?_ e | refine Keeps.goRead ?_ e | cases e
  try dsimp only
  repeat' first
    | with_reducible assumption
    | with_reducible apply Keeps.refl
    | (with_reducible apply Keeps.after (m := 571230916633) (State.drainDone_keeps ..) (by decide))
    | intro _
    | dsimp only

theorem execEccCorrected_keeps (c row : Nat) (page : Option Nat) (s : State) {nxt : State} (e : execEccCorrected c row page s = .next nxt) : Keeps 266521 s nxt := by
  unfold execEccCorrected at e
  first | refine Keeps.go ?_ e | refine Keeps.goRead ?_ e | cases e
  try dsimp only
  repeat' first
    | with_reducible assumption
    | with_reducible apply Keeps.refl
    | (with_reducible apply Keeps.after (m := 266521) (State.eccCorrected_keeps ..) (by decide))
    | intro _
    | dsimp only

theorem execEccUncorrectable_keeps (c row : Nat) (page : Option Nat) (s : State) {nxt : State} (e : execEccUncorrectable c row page s = .next nxt) : Keeps 17180135705 s nxt := by
  unfold execEccUncorrectable at e
  first | refine Keeps.go ?_ e | refine Keeps.goRead ?_ e | cases e
  try dsimp only
  repeat' first
    | with_reducible assumption
    | with_reducible apply Keeps.refl
    | (with_reducible apply Keeps.after (m := 17180135705) (State.eccUncorrectable_keeps ..) (by decide))
    | intro _
    | dsimp only

theorem execRowRepair_keeps (c : Nat) (s : State) {nxt : State} (e : execRowRepair c s = .next nxt) : Keeps 17180135705 s nxt := by
  unfold execRowRepair at e
  first | refine Keeps.go ?_ e | refine Keeps.goRead ?_ e | cases e
  try dsimp only
  repeat' first
    | with_reducible assumption
    | with_reducible apply Keeps.refl
    | (with_reducible apply Keeps.after (m := 17180135705) (State.rowRepair_keeps ..) (by decide))
    | intro _
    | dsimp only

theorem execTestComplete_keeps (kind i : Nat) (pass : Bool) (step errs : Nat) (s : State) {nxt : State} (e : execTestComplete kind i pass step errs s = .next nxt) : Keeps 579820851231 s nxt := by
  unfold execTestComplete at e
  first | refine Keeps.go ?_ e | refine Keeps.goRead ?_ e | cases e
  try dsimp only
  repeat' first
    | with_reducible assumption
    | with_reducible apply Keeps.refl
    | (with_reducible apply Keeps.after (m := 579820851231) (State.testEnd_keeps ..) (by decide))
    | intro _
    | dsimp only

theorem execThermalSample_keeps (t : List Int) (s : State) {nxt : State} (e : execThermalSample t s = .next nxt) : Keeps 17180135449 s nxt := by
  unfold execThermalSample at e
  first | refine Keeps.go ?_ e | refine Keeps.goRead ?_ e | cases e
  try dsimp only
  repeat' first
    | with_reducible assumption
    | with_reducible apply Keeps.refl
    | (with_reducible apply Keeps.after (m := 17180135449) (State.thermal_keeps ..) (by decide))
    | intro _
    | dsimp only

theorem execThermtrip_keeps (s : State) {nxt : State} (e : execThermtrip s = .next nxt) : Keeps 2147749888 s nxt := by
  unfold execThermtrip at e
  first | refine Keeps.go ?_ e | refine Keeps.goRead ?_ e | cases e
  try dsimp only
  repeat' first
    | with_reducible assumption
    | with_reducible apply Keeps.refl
    | (with_reducible apply Keeps.after (m := 2147749888) (State.emit_keeps ..) (by decide))
    | (with_reducible apply State.setSvc_keeps (m := 2147749888) (by decide))
    | with_reducible exact Or.inl rfl
    | with_reducible exact Or.inl (fun _ => rfl)
    | with_reducible exact Or.inr (fun _ => rfl)
    | with_reducible exact Or.inr (fun _ => ⟨rfl, rfl⟩)
    | with_reducible exact Or.inr (fun _ => ⟨rfl, rfl, rfl⟩)
    | with_reducible exact Or.inr (fun _ => ⟨rfl, rfl, rfl, rfl⟩)
    | with_reducible exact Or.inr (fun _ => ⟨rfl, rfl, rfl, rfl, rfl, rfl, rfl, rfl, rfl⟩)
    | intro _
    | dsimp only

theorem execUnitDrain_keeps (d : Desc) (s : State) {nxt : State} (e : execUnitDrain d s = .next nxt) : Keeps 549756080473 s nxt := by
  unfold execUnitDrain at e
  first | refine Keeps.go ?_ e | refine Keeps.goRead ?_ e | cases e
  try dsimp only
  repeat' first
    | with_reducible assumption
    | with_reducible apply Keeps.refl
    | (with_reducible apply State.unlessRecovering_keeps (mk := 549756080473) (by decide))
    | (with_reducible apply State.runCmd_keeps (mk := 549756080473) (by decide))
    | (with_reducible apply Keeps.after (m := 549756080473) (State.setDue_keeps ..) (by decide))
    | (intro x; refine (fun hx : Keeps 549756080473 s x => ?_) ?_; clear_value x; rotate_left; dsimp only [x]; rotate_right)
    | intro _
    | (with_reducible apply Keeps.ite)
    | lift_lets
    | split
    | dsimp only

theorem execUnitFailure_keeps (kind i cause : Nat) (s : State) {nxt : State} (e : execUnitFailure kind i cause s = .next nxt) : Keeps 1088839745535 s nxt := by
  unfold execUnitFailure at e
  first | refine Keeps.go ?_ e | refine Keeps.goRead ?_ e | cases e
  try dsimp only
  repeat' first
    | with_reducible assumption
    | with_reducible apply Keeps.refl
    | (with_reducible apply Keeps.after (m := 1088839745535) (State.unitFailure_keeps ..) (by decide))
    | intro _
    | dsimp only

theorem execUnitRetire_keeps (d : Desc) (s : State) {nxt : State} (e : execUnitRetire d s = .next nxt) : Keeps 579820851225 s nxt := by
  unfold execUnitRetire at e
  first | refine Keeps.go ?_ e | refine Keeps.goRead ?_ e | cases e
  try dsimp only
  repeat' first
    | with_reducible assumption
    | with_reducible apply Keeps.refl
    | (with_reducible apply State.unlessRecovering_keeps (mk := 579820851225) (by decide))
    | (with_reducible apply State.runCmd_keeps (mk := 579820851225) (by decide))
    | (with_reducible apply Keeps.after (m := 579820851225) (State.complete_keeps ..) (by decide))
    | (with_reducible apply State.setSvc_keeps (m := 579820851225) (by decide))
    | (with_reducible apply Keeps.after (m := 579820851225) (State.changeUnit_keeps ..) (by decide))
    | with_reducible exact Or.inl rfl
    | with_reducible exact Or.inl (fun _ => rfl)
    | with_reducible exact Or.inr (fun _ => rfl)
    | with_reducible exact Or.inr (fun _ => ⟨rfl, rfl⟩)
    | with_reducible exact Or.inr (fun _ => ⟨rfl, rfl, rfl⟩)
    | with_reducible exact Or.inr (fun _ => ⟨rfl, rfl, rfl, rfl⟩)
    | with_reducible exact Or.inr (fun _ => ⟨rfl, rfl, rfl, rfl, rfl, rfl, rfl, rfl, rfl⟩)
    | (refine Or.inr (fun q => ?_); (try dsimp only); split <;> first | rfl | exact ⟨rfl, rfl⟩ | exact ⟨rfl, rfl, rfl⟩ | exact ⟨rfl, rfl, rfl, rfl⟩)
    | (intro x; refine (fun hx : Keeps 579820851225 s x => ?_) ?_; clear_value x; rotate_left; dsimp only [x]; rotate_right)
    | intro _
    | (with_reducible apply Keeps.ite)
    | lift_lets
    | split
    | dsimp only

theorem execUnitReturn_keeps (d : Desc) (s : State) {nxt : State} (e : execUnitReturn d s = .next nxt) : Keeps 549756082201 s nxt := by
  unfold execUnitReturn at e
  first | refine Keeps.go ?_ e | refine Keeps.goRead ?_ e | cases e
  try dsimp only
  repeat' first
    | with_reducible assumption
    | with_reducible apply Keeps.refl
    | (with_reducible apply State.unlessRecovering_keeps (mk := 549756082201) (by decide))
    | (with_reducible apply State.runCmd_keeps (mk := 549756082201) (by decide))
    | (with_reducible apply Keeps.after (m := 549756082201) (State.slotReturn_keeps ..) (by decide))
    | (with_reducible apply Keeps.after (m := 549756082201) (State.setDue_keeps ..) (by decide))
    | (intro x; refine (fun hx : Keeps 549756082201 s x => ?_) ?_; clear_value x; rotate_left; dsimp only [x]; rotate_right)
    | intro _
    | (with_reducible apply Keeps.ite)
    | lift_lets
    | split
    | dsimp only

theorem execUnitTest_keeps (d : Desc) (s : State) {nxt : State} (e : execUnitTest d s = .next nxt) : Keeps 571230949529 s nxt := by
  unfold execUnitTest at e
  first | refine Keeps.go ?_ e | refine Keeps.goRead ?_ e | cases e
  try dsimp only
  repeat' first
    | with_reducible assumption
    | with_reducible apply Keeps.refl
    | (with_reducible apply State.unlessRecovering_keeps (mk := 571230949529) (by decide))
    | (with_reducible apply State.runCmd_keeps (mk := 571230949529) (by decide))
    | (with_reducible apply Keeps.after (m := 571230949529) (State.mchWake_keeps ..) (by decide))
    | (with_reducible apply State.setSvc_keeps (m := 571230949529) (by decide))
    | (with_reducible apply Keeps.after (m := 571230949529) (State.changeUnit_keeps ..) (by decide))
    | (with_reducible apply Keeps.after (m := 571230949529) (State.sendMgmt_keeps ..) (by decide))
    | with_reducible exact Or.inl rfl
    | with_reducible exact Or.inl (fun _ => rfl)
    | with_reducible exact Or.inr (fun _ => rfl)
    | with_reducible exact Or.inr (fun _ => ⟨rfl, rfl⟩)
    | with_reducible exact Or.inr (fun _ => ⟨rfl, rfl, rfl⟩)
    | with_reducible exact Or.inr (fun _ => ⟨rfl, rfl, rfl, rfl⟩)
    | with_reducible exact Or.inr (fun _ => ⟨rfl, rfl, rfl, rfl, rfl, rfl, rfl, rfl, rfl⟩)
    | (refine Or.inr (fun q => ?_); (try dsimp only); split <;> first | rfl | exact ⟨rfl, rfl⟩ | exact ⟨rfl, rfl, rfl⟩ | exact ⟨rfl, rfl, rfl, rfl⟩)
    | (intro x; refine (fun hx : Keeps 571230949529 s x => ?_) ?_; clear_value x; rotate_left; dsimp only [x]; rotate_right)
    | intro _
    | (with_reducible apply Keeps.ite)
    | lift_lets
    | split
    | dsimp only

end Sys2Proof.Machine
end

