-- ==== Sys2Proof/Laws/KeepsConfigSets.lean ====
section
/-! SUPPORT. What each function of Machine/ConfigSets.lean may change. -/

namespace Sys2Proof.Machine

set_option linter.all false

theorem State.ringsCommit_keeps (s : State) (t : RegSet) : Keeps 549755813897 s (State.ringsCommit s t) := by
  unfold State.ringsCommit
  repeat' first
    | (with_reducible apply Keeps.foldl)
    | with_reducible assumption
    | with_reducible apply Keeps.refl
    | (with_reducible apply Keeps.after (m := 549755813897) (State.ringOff_keeps ..) (by decide))
    | intro _
    | dsimp only

theorem State.subsCommit_keeps (s : State) (t : RegSet) : Keeps 566935951129 s (State.subsCommit s t) := by
  unfold State.subsCommit
  repeat' first
    | (with_reducible apply Keeps.foldl)
    | with_reducible assumption
    | with_reducible apply Keeps.refl
    | (with_reducible apply Keeps.after (m := 566935951129) (State.subRemoved_keeps ..) (by decide))
    | (with_reducible apply Keeps.after (m := 566935951129) (State.setSub_keeps ..) (by decide))
    | (intro x; refine (fun hx : Keeps 566935951129 s x => ?_) ?_; clear_value x; rotate_left; dsimp only [x]; rotate_right)
    | intro _
    | (with_reducible apply Keeps.ite)
    | lift_lets
    | split
    | dsimp only

theorem State.motionCommit_keeps (s : State) (before : RegSet) : Keeps 294912 s (State.motionCommit s before) := by
  unfold State.motionCommit
  repeat' first
    | (with_reducible apply Keeps.foldl)
    | with_reducible assumption
    | with_reducible apply Keeps.refl
    | (with_reducible apply Keeps.after (m := 294912) (State.mchRetype_keeps ..) (by decide))
    | (with_reducible apply Keeps.after (m := 294912) (State.echoStart_keeps ..) (by decide))
    | (intro x; refine (fun hx : Keeps 294912 s x => ?_) ?_; clear_value x; rotate_left; dsimp only [x]; rotate_right)
    | intro _
    | (with_reducible apply Keeps.ite)
    | lift_lets
    | split
    | dsimp only

theorem State.baysCommit_keeps (s : State) (before : RegSet) : Keeps 549756078105 s (State.baysCommit s before) := by
  unfold State.baysCommit
  repeat' first
    | (with_reducible apply Keeps.foldl)
    | with_reducible assumption
    | with_reducible apply Keeps.refl
    | (with_reducible apply Keeps.after (m := 549756078105) (State.bayStart_keeps ..) (by decide))
    | (with_reducible apply Keeps.after (m := 549756078105) (State.bayGone_keeps ..) (by decide))
    | (with_reducible apply Keeps.after (m := 549756078105) (State.releaseBay_keeps ..) (by decide))
    | (intro x; refine (fun hx : Keeps 549756078105 s x => ?_) ?_; clear_value x; rotate_left; dsimp only [x]; rotate_right)
    | intro _
    | (with_reducible apply Keeps.ite)
    | lift_lets
    | split
    | dsimp only

theorem State.resvCommit_keeps (s : State) : Keeps 65 s (State.resvCommit s) := by
  unfold State.resvCommit
  repeat' first
    | (with_reducible apply Keeps.foldl)
    | with_reducible assumption
    | with_reducible apply Keeps.refl
    | (with_reducible apply Keeps.after (m := 65) (State.setPlan_keeps ..) (by decide))
    | (with_reducible apply Keeps.after (m := 65) (State.setF_keeps ..) (by decide))
    | (intro x; refine (fun hx : Keeps 65 s x => ?_) ?_; clear_value x; rotate_left; dsimp only [x]; rotate_right)
    | intro _
    | (with_reducible apply Keeps.ite)
    | lift_lets
    | split
    | dsimp only

theorem State.respareAll_keeps (s : State) (before : RegSet) : Keeps 21475102745 s (State.respareAll s before) := by
  unfold State.respareAll
  repeat' first
    | (with_reducible apply Keeps.foldl)
    | with_reducible assumption
    | with_reducible apply Keeps.refl
    | (with_reducible apply Keeps.after (m := 21475102745) (State.respare_keeps ..) (by decide))
    | intro _
    | (with_reducible apply Keeps.ite)
    | split
    | dsimp only

theorem State.timeCommit_keeps (s : State) (before : RegSet) : Keeps 262201 s (State.timeCommit s before) := by
  unfold State.timeCommit
  repeat' first
    | (with_reducible apply Keeps.foldl)
    | with_reducible assumption
    | with_reducible apply Keeps.refl
    | (with_reducible apply State.setTime_keeps (m := 262201) (by decide))
    | (with_reducible apply Keeps.after (m := 262201) (State.setServo_keeps ..) (by decide))
    | (with_reducible apply Keeps.after (m := 262201) (State.setTp_keeps ..) (by decide))
    | (with_reducible apply Keeps.after (m := 262201) (State.autoStep_keeps ..) (by decide))
    | (with_reducible apply Keeps.after (m := 262201) (State.ppsGate_keeps ..) (by decide))
    | (with_reducible apply Keeps.after (m := 262201) (State.chooseTp_keeps ..) (by decide))
    | with_reducible exact Or.inl rfl
    | with_reducible exact Or.inl (fun _ => rfl)
    | with_reducible exact Or.inr (fun _ => rfl)
    | with_reducible exact Or.inr (fun _ => ⟨rfl, rfl⟩)
    | with_reducible exact Or.inr (fun _ => ⟨rfl, rfl, rfl⟩)
    | with_reducible exact Or.inr (fun _ => ⟨rfl, rfl, rfl, rfl⟩)
    | with_reducible exact Or.inr (fun _ => ⟨rfl, rfl, rfl, rfl, rfl, rfl, rfl, rfl, rfl⟩)
    | (refine Or.inr (fun q => ?_); (try dsimp only); split <;> first | rfl | exact ⟨rfl, rfl⟩ | exact ⟨rfl, rfl, rfl⟩ | exact ⟨rfl, rfl, rfl, rfl⟩)
    | (intro x; refine (fun hx : Keeps 262201 s x => ?_) ?_; clear_value x; rotate_left; dsimp only [x]; rotate_right)
    | intro _
    | (with_reducible apply Keeps.ite)
    | lift_lets
    | split
    | dsimp only

theorem State.periodCommit_keeps (s : State) (before : RegSet) : Keeps 32 s (State.periodCommit s before) := by
  unfold State.periodCommit
  repeat' first
    | with_reducible assumption
    | with_reducible apply Keeps.refl
    | (with_reducible apply State.setTime_keeps (m := 32) (by decide))
    | with_reducible exact Or.inl rfl
    | with_reducible exact Or.inl (fun _ => rfl)
    | with_reducible exact Or.inr (fun _ => rfl)
    | with_reducible exact Or.inr (fun _ => ⟨rfl, rfl⟩)
    | with_reducible exact Or.inr (fun _ => ⟨rfl, rfl, rfl⟩)
    | with_reducible exact Or.inr (fun _ => ⟨rfl, rfl, rfl, rfl⟩)
    | with_reducible exact Or.inr (fun _ => ⟨rfl, rfl, rfl, rfl, rfl, rfl, rfl, rfl, rfl⟩)
    | (refine Or.inr (fun q => ?_); (try dsimp only); split <;> first | rfl | exact ⟨rfl, rfl⟩ | exact ⟨rfl, rfl, rfl⟩ | exact ⟨rfl, rfl, rfl, rfl⟩)
    | intro _
    | (with_reducible apply Keeps.ite)
    | split
    | dsimp only

theorem State.laneSetup_keeps (s : State) (n : Nat) : Keeps 549756076191 s (State.laneSetup s n) := by
  unfold State.laneSetup
  repeat' first
    | with_reducible assumption
    | with_reducible apply Keeps.refl
    | (with_reducible apply Keeps.after (m := 549756076191) (State.completeOpt_keeps ..) (by decide))
    | (with_reducible apply Keeps.after (m := 549756076191) (State.setSwap_keeps ..) (by decide))
    | (with_reducible apply Keeps.after (m := 549756076191) (State.setSpareNow_keeps ..) (by decide))
    | (with_reducible apply Keeps.after (m := 549756076191) (State.clrReg_keeps ..) (by decide))
    | (with_reducible apply Keeps.after (m := 549756076191) (State.startTraining_keeps ..) (by decide))
    | (with_reducible apply Keeps.after (m := 549756076191) (State.setLane_keeps ..) (by decide))
    | (with_reducible apply Keeps.after (m := 549756076191) (State.emit_keeps ..) (by decide))
    | intro _
    | (with_reducible apply Keeps.ite)
    | dsimp only
    | split

theorem State.lanesCommit_keeps (s : State) (before : RegSet) : Keeps 549756076191 s (State.lanesCommit s before) := by
  unfold State.lanesCommit
  repeat' first
    | (with_reducible apply Keeps.foldl)
    | with_reducible assumption
    | with_reducible apply Keeps.refl
    | (with_reducible apply Keeps.after (m := 549756076191) (State.setHl_keeps ..) (by decide))
    | (with_reducible apply Keeps.after (m := 549756076191) (State.setLinkMode_keeps ..) (by decide))
    | (with_reducible apply Keeps.after (m := 549756076191) (State.laneSetup_keeps ..) (by decide))
    | (with_reducible apply Keeps.after (m := 549756076191) (State.prbsWritten_keeps ..) (by decide))
    | (with_reducible apply Keeps.after (m := 549756076191) (State.eidleEnter_keeps ..) (by decide))
    | (with_reducible apply Keeps.after (m := 549756076191) (State.wakeLink_keeps ..) (by decide))
    | (intro x; refine (fun hx : Keeps 549756076191 s x => ?_) ?_; clear_value x; rotate_left; dsimp only [x]; rotate_right)
    | intro _
    | (with_reducible apply Keeps.ite)
    | lift_lets
    | split
    | dsimp only

theorem State.applySet_keeps (s : State) (before : RegSet) : Keeps 571230952959 s (State.applySet s before) := by
  unfold State.applySet
  repeat' first
    | with_reducible apply Keeps.refl
    | (with_reducible apply Keeps.after (m := 571230952959) (State.loadLooks_keeps ..) (by decide))
    | (with_reducible apply Keeps.after (m := 571230952959) (State.motionCommit_keeps ..) (by decide))
    | (with_reducible apply Keeps.after (m := 571230952959) (State.baysCommit_keeps ..) (by decide))
    | (with_reducible apply Keeps.after (m := 571230952959) (State.spillCommit_keeps ..) (by decide))
    | (with_reducible apply Keeps.after (m := 571230952959) (State.resvCommit_keeps ..) (by decide))
    | (with_reducible apply Keeps.after (m := 571230952959) (State.respareAll_keeps ..) (by decide))
    | (with_reducible apply Keeps.after (m := 571230952959) (State.timeCommit_keeps ..) (by decide))
    | (with_reducible apply Keeps.after (m := 571230952959) (State.periodCommit_keeps ..) (by decide))
    | (with_reducible apply Keeps.after (m := 571230952959) (State.lanesCommit_keeps ..) (by decide))
    | dsimp only


theorem State.activate_keeps (s : State) (t : RegSet) (fallback : Bool) (ticket : Option Ticket) : Keeps 571249827839 s (State.activate s t fallback ticket) := by
  unfold State.activate
  repeat' first
    | with_reducible assumption
    | with_reducible apply Keeps.refl
    | (with_reducible apply Keeps.after (m := 571249827839) (State.completeOpt_keeps ..) (by decide))
    | (with_reducible apply Keeps.after (m := 571249827839) (State.count_keeps ..) (by decide))
    | (with_reducible apply Keeps.after (m := 571249827839) (State.post_keeps ..) (by decide))
    | (with_reducible apply Keeps.after (m := 571249827839) (State.logEntry_keeps ..) (by decide))
    | (with_reducible apply Keeps.after (m := 571249827839) (State.enterMode_keeps ..) (by decide))
    | (with_reducible apply Keeps.after (m := 571249827839) (State.ringsCommit_keeps ..) (by decide))
    | (with_reducible apply Keeps.after (m := 571249827839) (State.subsCommit_keeps ..) (by decide))
    | (with_reducible apply Keeps.after (m := 571249827839) (State.applySet_keeps ..) (by decide))
    | (with_reducible apply State.setCfg_keeps (m := 571249827839) (by decide))
    | with_reducible exact Or.inl rfl
    | with_reducible exact Or.inl (fun _ => rfl)
    | with_reducible exact Or.inr (fun _ => rfl)
    | with_reducible exact Or.inr (fun _ => ⟨rfl, rfl⟩)
    | with_reducible exact Or.inr (fun _ => ⟨rfl, rfl, rfl⟩)
    | with_reducible exact Or.inr (fun _ => ⟨rfl, rfl, rfl, rfl⟩)
    | with_reducible exact Or.inr (fun _ => ⟨rfl, rfl, rfl, rfl, rfl, rfl, rfl, rfl, rfl⟩)
    | (refine Or.inr (fun q => ?_); (try dsimp only); split <;> first | rfl | exact ⟨rfl, rfl⟩ | exact ⟨rfl, rfl, rfl⟩ | exact ⟨rfl, rfl, rfl, rfl⟩)
    | (intro x; refine (fun hx : Keeps 571249827839 s x => ?_) ?_; clear_value x; rotate_left; dsimp only [x]; rotate_right)
    | intro _
    | (with_reducible apply Keeps.ite)
    | lift_lets
    | split
    | dsimp only

theorem State.serviceResv_keeps (s : State) : Keeps 64 s (State.serviceResv s) := by
  unfold State.serviceResv
  repeat' first
    | with_reducible assumption
    | with_reducible apply Keeps.refl
    | (with_reducible apply Keeps.after (m := 64) (State.addResvs_keeps ..) (by decide))
    | intro _
    | (with_reducible apply Keeps.ite)
    | split
    | dsimp only

theorem State.tobjEnd_keeps (s : State) (status : Nat) : Keeps 1 s (State.tobjEnd s status) := by
  unfold State.tobjEnd
  repeat' first
    | with_reducible apply Keeps.refl
    | (with_reducible apply Keeps.after (m := 1) (State.setReg_keeps ..) (by decide))
    | (with_reducible apply Keeps.after (m := 1) (State.setF_keeps ..) (by decide))
    | dsimp only

theorem State.tobjAlloc_keeps (s : State) : Keeps 274877915137 s (State.tobjAlloc s) := by
  unfold State.tobjAlloc
  repeat' first
    | with_reducible assumption
    | with_reducible apply Keeps.refl
    | (with_reducible apply Keeps.after (m := 274877915137) (State.tobjEnd_keeps ..) (by decide))
    | (with_reducible apply Keeps.after (m := 274877915137) (State.setObj_keeps ..) (by decide))
    | (with_reducible apply Keeps.after (m := 274877915137) (State.setReg_keeps ..) (by decide))
    | with_reducible exact Or.inl rfl
    | with_reducible exact Or.inr rfl
    | with_reducible exact Or.inr ⟨rfl, rfl⟩
    | with_reducible exact Or.inr ⟨rfl, rfl, rfl⟩
    | with_reducible exact Or.inr ⟨rfl, rfl, rfl, rfl⟩
    | exact Or.inl ⟨rfl, fun h => hbmWrite_wf _ _ _ h⟩
    | exact Or.inl ⟨rfl, fun h => Tab.filter_wf _ h⟩
    | (intro x; refine (fun hx : Keeps 274877915137 s x => ?_) ?_; clear_value x; rotate_left; dsimp only [x]; rotate_right)
    | intro _
    | (with_reducible apply Keeps.ite)
    | lift_lets
    | split
    | dsimp only
    | (with_reducible apply Keeps.obj (m := 274877915137) (by decide))

theorem State.tobjSeal_keeps (s : State) : Keeps 8193 s (State.tobjSeal s) := by
  unfold State.tobjSeal
  repeat' first
    | with_reducible assumption
    | with_reducible apply Keeps.refl
    | (with_reducible apply Keeps.after (m := 8193) (State.setF_keeps ..) (by decide))
    | (with_reducible apply Keeps.after (m := 8193) (State.setObj_keeps ..) (by decide))
    | (with_reducible apply Keeps.after (m := 8193) (State.tobjEnd_keeps ..) (by decide))
    | intro _
    | (with_reducible apply Keeps.ite)
    | split
    | dsimp only

theorem State.tobjFree_keeps (s : State) : Keeps 8193 s (State.tobjFree s) := by
  unfold State.tobjFree
  repeat' first
    | with_reducible assumption
    | with_reducible apply Keeps.refl
    | (with_reducible apply Keeps.after (m := 8193) (State.tobjEnd_keeps ..) (by decide))
    | (with_reducible apply Keeps.after (m := 8193) (State.setObj_keeps ..) (by decide))
    | (intro x; refine (fun hx : Keeps 8193 s x => ?_) ?_; clear_value x; rotate_left; dsimp only [x]; rotate_right)
    | intro _
    | (with_reducible apply Keeps.ite)
    | lift_lets
    | split
    | dsimp only

theorem State.tobjCtrl_keeps (s : State) (v : Word) : Keeps 274877915139 s (State.tobjCtrl s v) := by
  unfold State.tobjCtrl
  repeat' first
    | with_reducible assumption
    | with_reducible apply Keeps.refl
    | (with_reducible apply Keeps.after (m := 274877915139) (State.storeBits_keeps ..) (by decide))
    | (with_reducible apply Keeps.after (m := 274877915139) (State.tobjAlloc_keeps ..) (by decide))
    | (with_reducible apply Keeps.after (m := 274877915139) (State.tobjSeal_keeps ..) (by decide))
    | (with_reducible apply Keeps.after (m := 274877915139) (State.tobjFree_keeps ..) (by decide))
    | (with_reducible apply Keeps.after (m := 274877915139) (State.tobjEnd_keeps ..) (by decide))
    | (intro x; refine (fun hx : Keeps 274877915139 s x => ?_) ?_; clear_value x; rotate_left; dsimp only [x]; rotate_right)
    | intro _
    | (with_reducible apply Keeps.ite)
    | lift_lets
    | split
    | dsimp only

theorem State.dirDigest_keeps (s : State) (i : Nat) : Keeps 1 s (State.dirDigest s i) := by
  unfold State.dirDigest
  repeat' first
    | (with_reducible apply Keeps.foldl)
    | with_reducible assumption
    | with_reducible apply Keeps.refl
    | (with_reducible apply Keeps.after (m := 1) (State.setReg_keeps ..) (by decide))
    | (intro x; refine (fun hx : Keeps 1 s x => ?_) ?_; clear_value x; rotate_left; dsimp only [x]; rotate_right)
    | intro _
    | (with_reducible apply Keeps.ite)
    | lift_lets
    | split
    | dsimp only

theorem State.dueBound_keeps {s : State} (p : BoundKind → Bool) {a} {res} (e : State.dueBound s p = some (a, res)) : Keeps 4 s res := by
  unfold State.dueBound at e
  try dsimp only at e
  repeat' split at e
  all_goals (cases e <;> (
    repeat' first
      | with_reducible assumption
      | with_reducible apply Keeps.refl
      | with_reducible exact Or.inl rfl
      | with_reducible exact Or.inr rfl
      | with_reducible exact Or.inr ⟨rfl, rfl⟩
      | with_reducible exact Or.inr ⟨rfl, rfl, rfl⟩
      | with_reducible exact Or.inr ⟨rfl, rfl, rfl, rfl⟩
      | intro _
      | split
      | dsimp only
      | (with_reducible apply Keeps.dev (m := 4) (by decide))))

theorem State.leaveActive_keeps (s : State) : Keeps 16777218 s (State.leaveActive s) := by
  unfold State.leaveActive
  repeat' first
    | with_reducible assumption
    | with_reducible apply Keeps.refl
    | (with_reducible apply State.setCfg_keeps (m := 16777218) (by decide))
    | with_reducible exact Or.inl rfl
    | with_reducible exact Or.inl (fun _ => rfl)
    | with_reducible exact Or.inr (fun _ => rfl)
    | with_reducible exact Or.inr (fun _ => ⟨rfl, rfl⟩)
    | with_reducible exact Or.inr (fun _ => ⟨rfl, rfl, rfl⟩)
    | with_reducible exact Or.inr (fun _ => ⟨rfl, rfl, rfl, rfl⟩)
    | with_reducible exact Or.inr (fun _ => ⟨rfl, rfl, rfl, rfl, rfl, rfl, rfl, rfl, rfl⟩)
    | (refine Or.inr (fun q => ?_); (try dsimp only); split <;> first | rfl | exact ⟨rfl, rfl⟩ | exact ⟨rfl, rfl, rfl⟩ | exact ⟨rfl, rfl, rfl, rfl⟩)
    | intro _
    | (with_reducible apply Keeps.ite)
    | split
    | dsimp only

theorem State.ringsClear_keeps (s : State) : Keeps 549755813897 s (State.ringsClear s) := by
  unfold State.ringsClear
  repeat' first
    | (with_reducible apply Keeps.foldl)
    | with_reducible assumption
    | with_reducible apply Keeps.refl
    | (with_reducible apply Keeps.after (m := 549755813897) (State.ringOff_keeps ..) (by decide))
    | (intro x; refine (fun hx : Keeps 549755813897 s x => ?_) ?_; clear_value x; rotate_left; dsimp only [x]; rotate_right)
    | intro _
    | lift_lets
    | dsimp only

theorem State.clearBoundary_keeps (s : State) : Keeps 571254087679 s (State.clearBoundary s) := by
  unfold State.clearBoundary
  repeat' first
    | (with_reducible apply Keeps.foldl)
    | with_reducible assumption
    | with_reducible apply Keeps.refl
    | (with_reducible apply Keeps.after (m := 571254087679) (State.dueBound_keeps (e := ‹_›) ..) (by decide))
    | (with_reducible apply Keeps.after (m := 571254087679) (State.completeOpt_keeps ..) (by decide))
    | (with_reducible apply Keeps.after (m := 571254087679) (State.rigNow_keeps ..) (by decide))
    | (with_reducible apply Keeps.after (m := 571254087679) (State.enterMode_keeps ..) (by decide))
    | (with_reducible apply Keeps.after (m := 571254087679) (State.rigModeChange_keeps ..) (by decide))
    | (with_reducible apply Keeps.after (m := 571254087679) (State.takeCkpt_keeps ..) (by decide))
    | (with_reducible apply Keeps.after (m := 571254087679) (State.applySet_keeps ..) (by decide))
    | (with_reducible apply Keeps.after (m := 571254087679) (State.leaveActive_keeps ..) (by decide))
    | (with_reducible apply Keeps.after (m := 571254087679) (State.ringsClear_keeps ..) (by decide))
    | (with_reducible apply Keeps.after (m := 571254087679) (State.subsCommit_keeps ..) (by decide))
    | (intro x; refine (fun hx : Keeps 571254087679 s x => ?_) ?_; clear_value x; rotate_left; dsimp only [x]; rotate_right)
    | intro _
    | lift_lets
    | split
    | dsimp only

theorem State.commitBoundary_keeps (s : State) : Keeps 571249893375 s (State.commitBoundary s) := by
  unfold State.commitBoundary
  repeat' first
    | with_reducible assumption
    | with_reducible apply Keeps.refl
    | (with_reducible apply Keeps.after (m := 571249893375) (State.dueBound_keeps (e := ‹_›) ..) (by decide))
    | (with_reducible apply Keeps.after (m := 571249893375) (State.takeCkpt_keeps ..) (by decide))
    | (with_reducible apply Keeps.after (m := 571249893375) (State.mchWake_keeps ..) (by decide))
    | (with_reducible apply Keeps.after (m := 571249893375) (State.activate_keeps ..) (by decide))
    | intro _
    | split
    | dsimp only

theorem State.discardFailure_keeps (s : State) : Keeps 6 s (State.discardFailure s) := by
  unfold State.discardFailure
  dsimp only
  split
  · split
    · exact ⟨fun p hp => by cases p <;> first | exact absurd hp (by decide) | rfl | exact ⟨rfl, rfl⟩ | exact ⟨rfl, rfl, rfl⟩ | exact ⟨rfl, rfl, rfl, rfl⟩ | exact RingCtlSame.refl _,
        ⟨List.suffix_rfl, Nat.le_refl _, Nat.le_refl _, id, id⟩⟩
    · exact Keeps.refl _ _
  · exact Keeps.refl _ _


theorem State.reserveRaise_keeps (s : State) (t : RegSet) : Keeps 64 s (State.reserveRaise s t) := by
  unfold State.reserveRaise
  repeat' first
    | with_reducible assumption
    | with_reducible apply Keeps.refl
    | (with_reducible apply Keeps.after (m := 64) (State.addResvs_keeps ..) (by decide))
    | (intro x; refine (fun hx : Keeps 64 s x => ?_) ?_; clear_value x; rotate_left; dsimp only [x]; rotate_right)
    | intro _
    | (with_reducible apply Keeps.ite)
    | lift_lets
    | split
    | dsimp only

theorem State.configCommit_keeps (s : State) (d : Desc) : Keeps 571230916703 s (State.configCommit s d) := by
  unfold State.configCommit
  repeat' first
    | with_reducible assumption
    | with_reducible apply Keeps.refl
    | (with_reducible apply Keeps.after (m := 571230916703) (State.take_keeps ..) (by decide))
    | (with_reducible apply Keeps.after (m := 571230916703) (State.count_keeps ..) (by decide))
    | (with_reducible apply State.runCmd_keeps (mk := 571230916703) (by decide))
    | (with_reducible apply Keeps.after (m := 571230916703) (State.discardFailure_keeps ..) (by decide))
    | (with_reducible apply Keeps.after (m := 571230916703) (State.pushBound_keeps ..) (by decide))
    | (with_reducible apply Keeps.after (m := 571230916703) (State.reserveRaise_keeps ..) (by decide))
    | (intro x; refine (fun hx : Keeps 571230916703 s x => ?_) ?_; clear_value x; rotate_left; dsimp only [x]; rotate_right)
    | intro _
    | (with_reducible apply Keeps.ite)
    | lift_lets
    | split
    | dsimp only

theorem State.configFallback_keeps (s : State) (d : Desc) (t : Ticket) : Keeps 549756076063 s (State.configFallback s d t) := by
  unfold State.configFallback
  repeat' first
    | with_reducible assumption
    | with_reducible apply Keeps.refl
    | (with_reducible apply Keeps.after (m := 549756076063) (State.complete_keeps ..) (by decide))
    | (with_reducible apply State.setCfg_keeps (m := 549756076063) (by decide))
    | (with_reducible apply Keeps.after (m := 549756076063) (State.discardFailure_keeps ..) (by decide))
    | (with_reducible apply Keeps.after (m := 549756076063) (State.pushBound_keeps ..) (by decide))
    | with_reducible exact Or.inl rfl
    | with_reducible exact Or.inl (fun _ => rfl)
    | with_reducible exact Or.inr (fun _ => rfl)
    | with_reducible exact Or.inr (fun _ => ⟨rfl, rfl⟩)
    | with_reducible exact Or.inr (fun _ => ⟨rfl, rfl, rfl⟩)
    | with_reducible exact Or.inr (fun _ => ⟨rfl, rfl, rfl, rfl⟩)
    | with_reducible exact Or.inr (fun _ => ⟨rfl, rfl, rfl, rfl, rfl, rfl, rfl, rfl, rfl⟩)
    | (refine Or.inr (fun q => ?_); (try dsimp only); split <;> first | rfl | exact ⟨rfl, rfl⟩ | exact ⟨rfl, rfl, rfl⟩ | exact ⟨rfl, rfl, rfl, rfl⟩)
    | (intro x; refine (fun hx : Keeps 549756076063 s x => ?_) ?_; clear_value x; rotate_left; dsimp only [x]; rotate_right)
    | intro _
    | (with_reducible apply Keeps.ite)
    | lift_lets
    | split
    | dsimp only

theorem State.discardPending_keeps (s : State) : Keeps 2 s (State.discardPending s) := by
  unfold State.discardPending
  repeat' first
    | with_reducible assumption
    | with_reducible apply Keeps.refl
    | (with_reducible apply State.setCfg_keeps (m := 2) (by decide))
    | with_reducible exact Or.inl rfl
    | with_reducible exact Or.inl (fun _ => rfl)
    | with_reducible exact Or.inr (fun _ => rfl)
    | with_reducible exact Or.inr (fun _ => ⟨rfl, rfl⟩)
    | with_reducible exact Or.inr (fun _ => ⟨rfl, rfl, rfl⟩)
    | with_reducible exact Or.inr (fun _ => ⟨rfl, rfl, rfl, rfl⟩)
    | with_reducible exact Or.inr (fun _ => ⟨rfl, rfl, rfl, rfl, rfl, rfl, rfl, rfl, rfl⟩)
    | intro _
    | dsimp only

theorem State.fallbackBoundary_keeps (s : State) : Keeps 571249893375 s (State.fallbackBoundary s) := by
  unfold State.fallbackBoundary
  repeat' first
    | with_reducible assumption
    | with_reducible apply Keeps.refl
    | (with_reducible apply Keeps.after (m := 571249893375) (State.dueBound_keeps (e := ‹_›) ..) (by decide))
    | (with_reducible apply Keeps.after (m := 571249893375) (State.completeOpt_keeps ..) (by decide))
    | (with_reducible apply Keeps.after (m := 571249893375) (State.takeCkpt_keeps ..) (by decide))
    | (with_reducible apply Keeps.after (m := 571249893375) (State.mchWake_keeps ..) (by decide))
    | (with_reducible apply Keeps.after (m := 571249893375) (State.activate_keeps ..) (by decide))
    | intro _
    | (with_reducible apply Keeps.ite)
    | split
    | dsimp only

theorem State.probationEnd_keeps (s : State) : Keeps 17104923 s (State.probationEnd s) := by
  unfold State.probationEnd
  repeat' first
    | with_reducible assumption
    | with_reducible apply Keeps.refl
    | (with_reducible apply State.setCfg_keeps (m := 17104923) (by decide))
    | (with_reducible apply Keeps.after (m := 17104923) (State.takeCkpt_keeps ..) (by decide))
    | (with_reducible apply Keeps.after (m := 17104923) (State.post_keeps ..) (by decide))
    | with_reducible exact Or.inl rfl
    | with_reducible exact Or.inl (fun _ => rfl)
    | with_reducible exact Or.inr (fun _ => rfl)
    | with_reducible exact Or.inr (fun _ => ⟨rfl, rfl⟩)
    | with_reducible exact Or.inr (fun _ => ⟨rfl, rfl, rfl⟩)
    | with_reducible exact Or.inr (fun _ => ⟨rfl, rfl, rfl, rfl⟩)
    | with_reducible exact Or.inr (fun _ => ⟨rfl, rfl, rfl, rfl, rfl, rfl, rfl, rfl, rfl⟩)
    | (refine Or.inr (fun q => ?_); (try dsimp only); split <;> first | rfl | exact ⟨rfl, rfl⟩ | exact ⟨rfl, rfl, rfl⟩ | exact ⟨rfl, rfl, rfl, rfl⟩)
    | (intro x; refine (fun hx : Keeps 17104923 s x => ?_) ?_; clear_value x; rotate_left; dsimp only [x]; rotate_right)
    | intro _
    | (with_reducible apply Keeps.ite)
    | lift_lets
    | split
    | dsimp only

theorem State.tobjSealDone_keeps (s : State) : Keeps 8193 s (State.tobjSealDone s) := by
  unfold State.tobjSealDone
  repeat' first
    | with_reducible assumption
    | with_reducible apply Keeps.refl
    | (with_reducible apply Keeps.after (m := 8193) (State.tobjEnd_keeps ..) (by decide))
    | (with_reducible apply Keeps.after (m := 8193) (State.setObj_keeps ..) (by decide))
    | (intro x; refine (fun hx : Keeps 8193 s x => ?_) ?_; clear_value x; rotate_left; dsimp only [x]; rotate_right)
    | intro _
    | (with_reducible apply Keeps.ite)
    | lift_lets
    | split
    | dsimp only

theorem execConfigClear_keeps (d : Desc) (s : State) {nxt : State} (e : execConfigClear d s = .next nxt) : Keeps 549756076061 s nxt := by
  unfold execConfigClear at e
  first | refine Keeps.go ?_ e | refine Keeps.goRead ?_ e | cases e
  try dsimp only
  repeat' first
    | with_reducible assumption
    | with_reducible apply Keeps.refl
    | (with_reducible apply State.runCmd_keeps (mk := 549756076061) (by decide))
    | (with_reducible apply Keeps.after (m := 549756076061) (State.pushBound_keeps ..) (by decide))
    | intro _
    | dsimp only

theorem execConfigCommit_keeps (d : Desc) (s : State) {nxt : State} (e : execConfigCommit d s = .next nxt) : Keeps 571230916703 s nxt := by
  unfold execConfigCommit at e
  first | refine Keeps.go ?_ e | refine Keeps.goRead ?_ e | cases e
  try dsimp only
  repeat' first
    | with_reducible assumption
    | with_reducible apply Keeps.refl
    | (with_reducible apply Keeps.after (m := 571230916703) (State.configCommit_keeps ..) (by decide))
    | intro _
    | dsimp only

theorem execConfigDiscard_keeps (d : Desc) (s : State) {nxt : State} (e : execConfigDiscard d s = .next nxt) : Keeps 549756076059 s nxt := by
  unfold execConfigDiscard at e
  first | refine Keeps.go ?_ e | refine Keeps.goRead ?_ e | cases e
  try dsimp only
  repeat' first
    | with_reducible assumption
    | with_reducible apply Keeps.refl
    | (with_reducible apply State.runCmd_keeps (mk := 549756076059) (by decide))
    | (with_reducible apply Keeps.after (m := 549756076059) (State.complete_keeps ..) (by decide))
    | (with_reducible apply Keeps.after (m := 549756076059) (State.discardPending_keeps ..) (by decide))
    | intro _
    | dsimp only

theorem execConfigFallback_keeps (d : Desc) (s : State) {nxt : State} (e : execConfigFallback d s = .next nxt) : Keeps 549756076063 s nxt := by
  unfold execConfigFallback at e
  first | refine Keeps.go ?_ e | refine Keeps.goRead ?_ e | cases e
  try dsimp only
  repeat' first
    | with_reducible assumption
    | with_reducible apply Keeps.refl
    | (with_reducible apply State.runCmd_keeps (mk := 549756076063) (by decide))
    | (with_reducible apply Keeps.after (m := 549756076063) (State.configFallback_keeps ..) (by decide))
    | intro _
    | dsimp only

theorem execProbationEnd_keeps (s : State) {nxt : State} (e : execProbationEnd s = .next nxt) : Keeps 17104923 s nxt := by
  unfold execProbationEnd at e
  first | refine Keeps.go ?_ e | refine Keeps.goRead ?_ e | cases e
  try dsimp only
  repeat' first
    | with_reducible assumption
    | with_reducible apply Keeps.refl
    | (with_reducible apply Keeps.after (m := 17104923) (State.probationEnd_keeps ..) (by decide))
    | intro _
    | dsimp only

theorem execTobjSealDone_keeps (s : State) {nxt : State} (e : execTobjSealDone s = .next nxt) : Keeps 8193 s nxt := by
  unfold execTobjSealDone at e
  first | refine Keeps.go ?_ e | refine Keeps.goRead ?_ e | cases e
  try dsimp only
  repeat' first
    | with_reducible assumption
    | with_reducible apply Keeps.refl
    | (with_reducible apply Keeps.after (m := 8193) (State.tobjSealDone_keeps ..) (by decide))
    | intro _
    | dsimp only

end Sys2Proof.Machine
end

