-- ==== Sys2Proof/Laws/KeepsHostPorts.lean ====
section
/-! SUPPORT. What each function of Machine/HostPorts.lean may change. -/

namespace Sys2Proof.Machine

set_option linter.all false


theorem State.shiftCause_keeps (s : State) (p cause : Nat) : Keeps 4 s (State.shiftCause s p cause) := by
  unfold State.shiftCause
  repeat' first
    | with_reducible assumption
    | with_reducible apply Keeps.refl
    | (with_reducible apply State.setDev_keeps (m := 4) (by decide))
    | with_reducible exact Or.inl rfl
    | with_reducible exact Or.inl (fun _ => rfl)
    | with_reducible exact Or.inr (fun _ => rfl)
    | with_reducible exact Or.inr (fun _ => ⟨rfl, rfl⟩)
    | with_reducible exact Or.inr (fun _ => ⟨rfl, rfl, rfl⟩)
    | with_reducible exact Or.inr (fun _ => ⟨rfl, rfl, rfl, rfl⟩)
    | with_reducible exact Or.inr (fun _ => ⟨rfl, rfl, rfl, rfl, rfl, rfl, rfl, rfl, rfl⟩)
    | (refine Or.inr (fun q => ?_); (try dsimp only); split <;> first | rfl | exact ⟨rfl, rfl⟩ | exact ⟨rfl, rfl, rfl⟩ | exact ⟨rfl, rfl, rfl, rfl⟩)
    | intro _
    | (with_reducible apply Keeps.ite)
    | split
    | dsimp only

theorem State.stewRelease_keeps (s : State) (p : Nat) : Keeps 5 s (State.stewRelease s p) := by
  unfold State.stewRelease
  repeat' first
    | with_reducible apply Keeps.refl
    | (with_reducible apply Keeps.after (m := 5) (State.orReg_keeps ..) (by decide))
    | (with_reducible apply Keeps.after (m := 5) (State.shiftCause_keeps ..) (by decide))
    | (with_reducible apply Keeps.ite)
    | split
    | dsimp only

theorem State.stewardChanged_keeps (s : State) (old : Option Nat) (cause : Nat) : Keeps 262169 s (State.stewardChanged s old cause) := by
  unfold State.stewardChanged
  repeat' first
    | (with_reducible apply Keeps.foldl)
    | with_reducible assumption
    | with_reducible apply Keeps.refl
    | (with_reducible apply Keeps.after (m := 262169) (State.post_keeps ..) (by decide))
    | (with_reducible apply Keeps.after (m := 262169) (State.signal_keeps ..) (by decide))
    | (intro x; refine (fun hx : Keeps 262169 s x => ?_) ?_; clear_value x; rotate_left; dsimp only [x]; rotate_right)
    | intro _
    | lift_lets
    | dsimp only

theorem State.claim_keeps (s : State) (p : Nat) : Keeps 8650781 s (State.claim s p) := by
  unfold State.claim
  repeat' first
    | with_reducible assumption
    | with_reducible apply Keeps.refl
    | (with_reducible apply Keeps.after (m := 8650781) (State.stewardChanged_keeps ..) (by decide))
    | (with_reducible apply State.setDev_keeps (m := 8650781) (by decide))
    | with_reducible exact Or.inl rfl
    | with_reducible exact Or.inl (fun _ => rfl)
    | with_reducible exact Or.inr (fun _ => rfl)
    | with_reducible exact Or.inr (fun _ => ⟨rfl, rfl⟩)
    | with_reducible exact Or.inr (fun _ => ⟨rfl, rfl, rfl⟩)
    | with_reducible exact Or.inr (fun _ => ⟨rfl, rfl, rfl, rfl⟩)
    | with_reducible exact Or.inr (fun _ => ⟨rfl, rfl, rfl, rfl, rfl, rfl, rfl, rfl, rfl⟩)
    | (refine Or.inr (fun q => ?_); (try dsimp only); split <;> first | rfl | exact ⟨rfl, rfl⟩ | exact ⟨rfl, rfl, rfl⟩ | exact ⟨rfl, rfl, rfl, rfl⟩)
    | intro _
    | (with_reducible apply Keeps.ite)
    | split
    | dsimp only

theorem State.stewCtrl_keeps (s : State) (p : Nat) (v : Word) : Keeps 8650781 s (State.stewCtrl s p v) := by
  unfold State.stewCtrl
  repeat' first
    | with_reducible assumption
    | with_reducible apply Keeps.refl
    | (with_reducible apply Keeps.after (m := 8650781) (State.stewRelease_keeps ..) (by decide))
    | (with_reducible apply Keeps.after (m := 8650781) (State.claim_keeps ..) (by decide))
    | (intro x; refine (fun hx : Keeps 8650781 s x => ?_) ?_; clear_value x; rotate_left; dsimp only [x]; rotate_right)
    | intro _
    | (with_reducible apply Keeps.ite)
    | lift_lets
    | split
    | dsimp only

theorem State.heartbeat_keeps (s : State) (p : Nat) : Keeps 16 s (State.heartbeat s p) := by
  unfold State.heartbeat
  repeat' first
    | with_reducible assumption
    | with_reducible apply Keeps.refl
    | (with_reducible apply Keeps.after (m := 16) (State.setPort_keeps ..) (by decide))
    | intro _
    | dsimp only

theorem State.linkSet_keeps (s : State) (p rate width : Nat) (flit : Bool) : Keeps 1 s (State.linkSet s p rate width flit) := by
  unfold State.linkSet
  repeat' first
    | with_reducible apply Keeps.refl
    | (with_reducible apply Keeps.after (m := 1) (State.setF_keeps ..) (by decide))
    | dsimp only

theorem State.hostLinkUp_keeps (s : State) (p rate width : Nat) (flit : Bool) (mps : Nat) (noSnoop relaxed : Bool) : Keeps 262169 s (State.hostLinkUp s p rate width flit mps noSnoop relaxed) := by
  unfold State.hostLinkUp
  repeat' first
    | with_reducible assumption
    | with_reducible apply Keeps.refl
    | (with_reducible apply Keeps.after (m := 262169) (State.setPort_keeps ..) (by decide))
    | (with_reducible apply Keeps.after (m := 262169) (State.linkSet_keeps ..) (by decide))
    | (with_reducible apply Keeps.after (m := 262169) (State.hpEvt_keeps ..) (by decide))
    | (intro x; refine (fun hx : Keeps 262169 s x => ?_) ?_; clear_value x; rotate_left; dsimp only [x]; rotate_right)
    | intro _
    | (with_reducible apply Keeps.ite)
    | lift_lets
    | split
    | dsimp only

theorem State.ideFail_keeps (s : State) (p n : Nat) : Keeps 16 s (State.ideFail s p n) := by
  unfold State.ideFail
  repeat' first
    | with_reducible assumption
    | with_reducible apply Keeps.refl
    | (with_reducible apply Keeps.after (m := 16) (State.setPort_keeps ..) (by decide))
    | (intro x; refine (fun hx : Keeps 16 s x => ?_) ?_; clear_value x; rotate_left; dsimp only [x]; rotate_right)
    | intro _
    | (with_reducible apply Keeps.ite)
    | lift_lets
    | split
    | dsimp only

theorem State.ideKm_keeps (s : State) (p n key lo hi : Nat) : Keeps 16 s (State.ideKm s p n key lo hi) := by
  unfold State.ideKm
  repeat' first
    | with_reducible assumption
    | with_reducible apply Keeps.refl
    | (with_reducible apply Keeps.after (m := 16) (State.setPort_keeps ..) (by decide))
    | (intro x; refine (fun hx : Keeps 16 s x => ?_) ?_; clear_value x; rotate_left; dsimp only [x]; rotate_right)
    | intro _
    | (with_reducible apply Keeps.ite)
    | lift_lets
    | split
    | dsimp only

theorem State.sendPending_keeps (s : State) (p : Nat) : Keeps 262160 s (State.sendPending s p) := by
  unfold State.sendPending
  repeat' first
    | (with_reducible apply Keeps.foldl)
    | with_reducible assumption
    | with_reducible apply Keeps.refl
    | (with_reducible apply Keeps.after (m := 262160) (State.setPort_keeps ..) (by decide))
    | (with_reducible apply Keeps.after (m := 262160) (State.signal_keeps ..) (by decide))
    | (intro x; refine (fun hx : Keeps 262160 s x => ?_) ?_; clear_value x; rotate_left; dsimp only [x]; rotate_right)
    | intro _
    | (with_reducible apply Keeps.ite)
    | lift_lets
    | split
    | dsimp only

theorem State.msixMask_keeps (s : State) (p : Nat) (vec : Option Nat) (enable mask : Bool) : Keeps 262160 s (State.msixMask s p vec enable mask) := by
  unfold State.msixMask
  repeat' first
    | with_reducible assumption
    | with_reducible apply Keeps.refl
    | (with_reducible apply Keeps.after (m := 262160) (State.setPort_keeps ..) (by decide))
    | (with_reducible apply Keeps.after (m := 262160) (State.sendPending_keeps ..) (by decide))
    | (intro x; refine (fun hx : Keeps 262160 s x => ?_) ?_; clear_value x; rotate_left; dsimp only [x]; rotate_right)
    | intro _
    | (with_reducible apply Keeps.ite)
    | lift_lets
    | split
    | dsimp only

theorem State.portSubsOff_keeps (s : State) (p : Nat) : Keeps 17180137241 s (State.portSubsOff s p) := by
  unfold State.portSubsOff
  repeat' first
    | (with_reducible apply Keeps.foldl)
    | with_reducible assumption
    | with_reducible apply Keeps.refl
    | (with_reducible apply Keeps.after (m := 17180137241) (State.setSub_keeps ..) (by decide))
    | (with_reducible apply Keeps.after (m := 17180137241) (State.subRelease_keeps ..) (by decide))
    | intro _
    | dsimp only

theorem State.ringRegsReset_keeps (s : State) (p : Nat) : Keeps 1 s (State.ringRegsReset s p) := by
  unfold State.ringRegsReset
  repeat' first
    | with_reducible assumption
    | with_reducible apply Keeps.refl
    | (intro x; refine (fun hx : Keeps 1 s x => ?_) ?_; clear_value x; rotate_left; dsimp only [x]; rotate_right)
    | intro _
    | lift_lets
    | dsimp only
    | (with_reducible apply Keeps.cur (m := 1) (by decide))

theorem State.portRingsOff_keeps (s : State) (p : Nat) : Keeps 549756077337 s (State.portRingsOff s p) := by
  unfold State.portRingsOff
  repeat' first
    | (with_reducible apply Keeps.foldl)
    | with_reducible assumption
    | with_reducible apply Keeps.refl
    | (with_reducible apply Keeps.after (m := 549756077337) (State.ringOff_keeps ..) (by decide))
    | (with_reducible apply Keeps.after (m := 549756077337) (State.abortDelivery_keeps ..) (by decide))
    | (with_reducible apply State.setRing_keeps (m := 549756077337) (by decide))
    | (with_reducible apply Keeps.after (m := 549756077337) (State.ringRegsReset_keeps ..) (by decide))
    | with_reducible exact Or.inl rfl
    | with_reducible exact Or.inl (fun _ => rfl)
    | with_reducible exact Or.inr (fun _ => rfl)
    | with_reducible exact Or.inr (fun _ => ⟨rfl, rfl⟩)
    | with_reducible exact Or.inr (fun _ => ⟨rfl, rfl, rfl⟩)
    | with_reducible exact Or.inr (fun _ => ⟨rfl, rfl, rfl, rfl⟩)
    | with_reducible exact Or.inr (fun _ => ⟨rfl, rfl, rfl, rfl, rfl, rfl, rfl, rfl, rfl⟩)
    | (intro x; refine (fun hx : Keeps 549756077337 s x => ?_) ?_; clear_value x; rotate_left; dsimp only [x]; rotate_right)
    | intro _
    | lift_lets
    | dsimp only

theorem State.shiftChange_keeps (s : State) (cause : Nat) : Keeps 8650783 s (State.shiftChange s cause) := by
  unfold State.shiftChange
  repeat' first
    | (with_reducible apply Keeps.foldl)
    | with_reducible assumption
    | with_reducible apply Keeps.refl
    | (with_reducible apply Keeps.after (m := 8650783) (State.discardPending_keeps ..) (by decide))
    | (with_reducible apply Keeps.after (m := 8650783) (State.clrReg_keeps ..) (by decide))
    | (with_reducible apply State.setDev_keeps (m := 8650783) (by decide))
    | (with_reducible apply Keeps.after (m := 8650783) (State.hpEvt_keeps ..) (by decide))
    | (with_reducible apply Keeps.after (m := 8650783) (State.healthFail_keeps ..) (by decide))
    | (with_reducible apply Keeps.after (m := 8650783) (State.stewardChanged_keeps ..) (by decide))
    | with_reducible exact Or.inl rfl
    | with_reducible exact Or.inl (fun _ => rfl)
    | with_reducible exact Or.inr (fun _ => rfl)
    | with_reducible exact Or.inr (fun _ => ⟨rfl, rfl⟩)
    | with_reducible exact Or.inr (fun _ => ⟨rfl, rfl, rfl⟩)
    | with_reducible exact Or.inr (fun _ => ⟨rfl, rfl, rfl, rfl⟩)
    | with_reducible exact Or.inr (fun _ => ⟨rfl, rfl, rfl, rfl, rfl, rfl, rfl, rfl, rfl⟩)
    | (intro x; refine (fun hx : Keeps 8650783 s x => ?_) ?_; clear_value x; rotate_left; dsimp only [x]; rotate_right)
    | intro _
    | lift_lets
    | split
    | dsimp only

theorem State.portReset_keeps (s : State) (p kind : Nat) : Keeps 566944339807 s (State.portReset s p kind) := by
  unfold State.portReset
  repeat' first
    | with_reducible assumption
    | with_reducible apply Keeps.refl
    | (with_reducible apply Keeps.after (m := 566944339807) (State.portSubsOff_keeps ..) (by decide))
    | (with_reducible apply Keeps.after (m := 566944339807) (State.portRingsOff_keeps ..) (by decide))
    | (with_reducible apply Keeps.after (m := 566944339807) (State.svcStop_keeps ..) (by decide))
    | (with_reducible apply Keeps.after (m := 566944339807) (State.spillDrop_keeps ..) (by decide))
    | (with_reducible apply Keeps.after (m := 566944339807) (State.setReg_keeps ..) (by decide))
    | (with_reducible apply Keeps.after (m := 566944339807) (State.setPort_keeps ..) (by decide))
    | (with_reducible apply Keeps.after (m := 566944339807) (State.shiftChange_keeps ..) (by decide))
    | (with_reducible apply Keeps.after (m := 566944339807) (State.count_keeps ..) (by decide))
    | (with_reducible apply Keeps.after (m := 566944339807) (State.hpEvt_keeps ..) (by decide))
    | (intro x; refine (fun hx : Keeps 566944339807 s x => ?_) ?_; clear_value x; rotate_left; dsimp only [x]; rotate_right)
    | intro _
    | (with_reducible apply Keeps.ite)
    | lift_lets
    | split
    | dsimp only

theorem State.spdmRequest_keeps (s : State) (p kind : Nat) : Keeps 262160 s (State.spdmRequest s p kind) := by
  unfold State.spdmRequest
  repeat' first
    | with_reducible assumption
    | with_reducible apply Keeps.refl
    | (with_reducible apply Keeps.after (m := 262160) (State.emit_keeps ..) (by decide))
    | (with_reducible apply Keeps.after (m := 262160) (State.setPort_keeps ..) (by decide))
    | (intro x; refine (fun hx : Keeps 262160 s x => ?_) ?_; clear_value x; rotate_left; dsimp only [x]; rotate_right)
    | intro _
    | (with_reducible apply Keeps.ite)
    | lift_lets
    | split
    | dsimp only

theorem State.widthChange_keeps (s : State) (p rate width : Nat) (flit : Bool) : Keeps 262169 s (State.widthChange s p rate width flit) := by
  unfold State.widthChange
  repeat' first
    | with_reducible assumption
    | with_reducible apply Keeps.refl
    | (with_reducible apply Keeps.after (m := 262169) (State.hpEvt_keeps ..) (by decide))
    | (with_reducible apply Keeps.after (m := 262169) (State.linkSet_keeps ..) (by decide))
    | (intro x; refine (fun hx : Keeps 262169 s x => ?_) ?_; clear_value x; rotate_left; dsimp only [x]; rotate_right)
    | intro _
    | (with_reducible apply Keeps.ite)
    | lift_lets
    | split
    | dsimp only

theorem execAspmL1Entry_keeps (p : Nat) (s : State) {nxt : State} (e : execAspmL1Entry p s = .next nxt) : Keeps 16 s nxt := by
  unfold execAspmL1Entry at e
  first | refine Keeps.go ?_ e | refine Keeps.goRead ?_ e | cases e
  try dsimp only
  repeat' first
    | with_reducible assumption
    | with_reducible apply Keeps.refl
    | (with_reducible apply Keeps.after (m := 16) (State.setPort_keeps ..) (by decide))
    | intro _
    | (with_reducible apply Keeps.ite)
    | split
    | dsimp only

theorem execD3hotEntry_keeps (p : Nat) (s : State) {nxt : State} (e : execD3hotEntry p s = .next nxt) : Keeps 20 s nxt := by
  unfold execD3hotEntry at e
  first | refine Keeps.go ?_ e | refine Keeps.goRead ?_ e | cases e
  try dsimp only
  repeat' first
    | with_reducible assumption
    | with_reducible apply Keeps.refl
    | (with_reducible apply Keeps.after (m := 20) (State.shiftCause_keeps ..) (by decide))
    | (with_reducible apply Keeps.after (m := 20) (State.setPort_keeps ..) (by decide))
    | intro _
    | (with_reducible apply Keeps.ite)
    | split
    | dsimp only

theorem execHostLinkUp_keeps (p rate width : Nat) (flit : Bool) (mps : Nat) (noSnoop relaxed : Bool) (s : State) {nxt : State} (e : execHostLinkUp p rate width flit mps noSnoop relaxed s = .next nxt) : Keeps 262169 s nxt := by
  unfold execHostLinkUp at e
  first | refine Keeps.go ?_ e | refine Keeps.goRead ?_ e | cases e
  try dsimp only
  repeat' first
    | with_reducible assumption
    | with_reducible apply Keeps.refl
    | (with_reducible apply Keeps.after (m := 262169) (State.hostLinkUp_keeps ..) (by decide))
    | intro _
    | dsimp only

theorem execHostPortReset_keeps (p kind : Nat) (s : State) {nxt : State} (e : execHostPortReset p kind s = .next nxt) : Keeps 566944339807 s nxt := by
  unfold execHostPortReset at e
  first | refine Keeps.go ?_ e | refine Keeps.goRead ?_ e | cases e
  try dsimp only
  repeat' first
    | with_reducible assumption
    | with_reducible apply Keeps.refl
    | (with_reducible apply Keeps.after (m := 566944339807) (State.portReset_keeps ..) (by decide))
    | intro _
    | dsimp only

theorem execIdeIntegrityFail_keeps (p n : Nat) (s : State) {nxt : State} (e : execIdeIntegrityFail p n s = .next nxt) : Keeps 16 s nxt := by
  unfold execIdeIntegrityFail at e
  first | refine Keeps.go ?_ e | refine Keeps.goRead ?_ e | cases e
  try dsimp only
  repeat' first
    | with_reducible assumption
    | with_reducible apply Keeps.refl
    | (with_reducible apply Keeps.after (m := 16) (State.ideFail_keeps ..) (by decide))
    | intro _
    | dsimp only

theorem execIdeKm_keeps (p n key lo hi : Nat) (s : State) {nxt : State} (e : execIdeKm p n key lo hi s = .next nxt) : Keeps 16 s nxt := by
  unfold execIdeKm at e
  first | refine Keeps.go ?_ e | refine Keeps.goRead ?_ e | cases e
  try dsimp only
  repeat' first
    | with_reducible assumption
    | with_reducible apply Keeps.refl
    | (with_reducible apply Keeps.after (m := 16) (State.ideKm_keeps ..) (by decide))
    | intro _
    | dsimp only

theorem execMsixUnmask_keeps (p : Nat) (vec : Option Nat) (enable mask : Bool) (s : State) {nxt : State} (e : execMsixUnmask p vec enable mask s = .next nxt) : Keeps 262160 s nxt := by
  unfold execMsixUnmask at e
  first | refine Keeps.go ?_ e | refine Keeps.goRead ?_ e | cases e
  try dsimp only
  repeat' first
    | with_reducible assumption
    | with_reducible apply Keeps.refl
    | (with_reducible apply Keeps.after (m := 262160) (State.msixMask_keeps ..) (by decide))
    | intro _
    | dsimp only

theorem execPortLivenessExpiry_keeps (p : Nat) (s : State) {nxt : State} (e : execPortLivenessExpiry p s = .next nxt) : Keeps 4 s nxt := by
  unfold execPortLivenessExpiry at e
  first | refine Keeps.go ?_ e | refine Keeps.goRead ?_ e | cases e
  try dsimp only
  repeat' first
    | with_reducible assumption
    | with_reducible apply Keeps.refl
    | (with_reducible apply Keeps.after (m := 4) (State.shiftCause_keeps ..) (by decide))
    | intro _
    | (with_reducible apply Keeps.ite)
    | split
    | dsimp only

theorem execPxPerstRelease_keeps (p : Nat) (s : State) {nxt : State} (e : execPxPerstRelease p s = .next nxt) : Keeps 16 s nxt := by
  unfold execPxPerstRelease at e
  first | refine Keeps.go ?_ e | refine Keeps.goRead ?_ e | cases e
  try dsimp only
  repeat' first
    | with_reducible assumption
    | with_reducible apply Keeps.refl
    | (with_reducible apply Keeps.after (m := 16) (State.setPort_keeps ..) (by decide))
    | intro _
    | (with_reducible apply Keeps.ite)
    | split
    | dsimp only

theorem execShiftChange_keeps (s : State) {nxt : State} (e : execShiftChange s = .next nxt) : Keeps 8650783 s nxt := by
  unfold execShiftChange at e
  first | refine Keeps.go ?_ e | refine Keeps.goRead ?_ e | cases e
  try dsimp only
  repeat' first
    | with_reducible assumption
    | with_reducible apply Keeps.refl
    | (with_reducible apply Keeps.after (m := 8650783) (State.shiftChange_keeps ..) (by decide))
    | intro _
    | split
    | dsimp only

theorem execSpdmRequest_keeps (p kind : Nat) (s : State) {nxt : State} (e : execSpdmRequest p kind s = .next nxt) : Keeps 262160 s nxt := by
  unfold execSpdmRequest at e
  first | refine Keeps.go ?_ e | refine Keeps.goRead ?_ e | cases e
  try dsimp only
  repeat' first
    | with_reducible assumption
    | with_reducible apply Keeps.refl
    | (with_reducible apply Keeps.after (m := 262160) (State.spdmRequest_keeps ..) (by decide))
    | intro _
    | dsimp only

theorem execWidthChange_keeps (p rate width : Nat) (flit : Bool) (s : State) {nxt : State} (e : execWidthChange p rate width flit s = .next nxt) : Keeps 262169 s nxt := by
  unfold execWidthChange at e
  first | refine Keeps.go ?_ e | refine Keeps.goRead ?_ e | cases e
  try dsimp only
  repeat' first
    | with_reducible assumption
    | with_reducible apply Keeps.refl
    | (with_reducible apply Keeps.after (m := 262169) (State.widthChange_keeps ..) (by decide))
    | intro _
    | dsimp only

end Sys2Proof.Machine
end

