-- ==== Sys2Proof/Laws/KeepsSecurity.lean ====
section
/-! SUPPORT. What each function of Machine/Security.lean may change. -/

namespace Sys2Proof.Machine

set_option linter.all false

theorem State.abortBound_keeps (s : State) : Keeps 549756076637 s (State.abortBound s) := by
  unfold State.abortBound
  repeat' first
    | (with_reducible apply Keeps.foldl)
    | with_reducible assumption
    | with_reducible apply Keeps.refl
    | (with_reducible apply Keeps.after (m := 549756076637) (State.undoRig_keeps ..) (by decide))
    | (with_reducible apply Keeps.after (m := 549756076637) (State.completeOpt_keeps ..) (by decide))
    | with_reducible exact Or.inl rfl
    | with_reducible exact Or.inr rfl
    | with_reducible exact Or.inr ⟨rfl, rfl⟩
    | with_reducible exact Or.inr ⟨rfl, rfl, rfl⟩
    | with_reducible exact Or.inr ⟨rfl, rfl, rfl, rfl⟩
    | (intro x; refine (fun hx : Keeps 549756076637 s x => ?_) ?_; clear_value x; rotate_left; dsimp only [x]; rotate_right)
    | intro _
    | lift_lets
    | split
    | dsimp only
    | (with_reducible apply Keeps.dev (m := 549756076637) (by decide))

theorem State.abortCommands_keeps (s : State) : Keeps 549756082361 s (State.abortCommands s) := by
  unfold State.abortCommands
  repeat' first
    | (with_reducible apply Keeps.foldl)
    | with_reducible assumption
    | with_reducible apply Keeps.refl
    | (with_reducible apply Keeps.after (m := 549756082361) (State.complete_keeps ..) (by decide))
    | (with_reducible apply Keeps.after (m := 549756082361) (State.endJob_keeps ..) (by decide))
    | with_reducible exact Or.inl rfl
    | with_reducible exact Or.inr rfl
    | with_reducible exact Or.inr ⟨rfl, rfl⟩
    | with_reducible exact Or.inr ⟨rfl, rfl, rfl⟩
    | with_reducible exact Or.inr ⟨rfl, rfl, rfl, rfl⟩
    | (intro x; refine (fun hx : Keeps 549756082361 s x => ?_) ?_; clear_value x; rotate_left; dsimp only [x]; rotate_right)
    | intro _
    | lift_lets
    | dsimp only
    | (with_reducible apply Keeps.link (m := 549756082361) (by decide))
    | (with_reducible apply Keeps.mag (m := 549756082361) (by decide))
    | (with_reducible apply Keeps.time (m := 549756082361) (by decide))
    | (with_reducible apply Keeps.svc (m := 549756082361) (by decide))
    | (refine Keeps.trans hx ⟨fun p hp => by cases p <;> first | exact absurd hp (by decide) | rfl | exact ⟨rfl, rfl⟩ | exact ⟨rfl, rfl, rfl⟩ | exact ⟨rfl, rfl, rfl, rfl⟩ | exact RingCtlSame.refl _, ⟨List.suffix_rfl, Nat.le_refl _, Nat.le_refl _, id, id⟩⟩)



theorem State.enginePassed_keeps (s : State) (e : Nat) : Keeps 20481 s (State.enginePassed s e) := by
  unfold State.enginePassed
  repeat' first
    | with_reducible assumption
    | with_reducible apply Keeps.refl
    | (with_reducible apply State.setSvc_keeps (m := 20481) (by decide))
    | (with_reducible apply Keeps.after (m := 20481) (State.setReg_keeps ..) (by decide))
    | (with_reducible apply State.setSec_keeps (m := 20481) (by decide))
    | with_reducible exact Or.inl rfl
    | with_reducible exact Or.inl (fun _ => rfl)
    | with_reducible exact Or.inr (fun _ => rfl)
    | with_reducible exact Or.inr (fun _ => ⟨rfl, rfl⟩)
    | with_reducible exact Or.inr (fun _ => ⟨rfl, rfl, rfl⟩)
    | with_reducible exact Or.inr (fun _ => ⟨rfl, rfl, rfl, rfl⟩)
    | with_reducible exact Or.inr (fun _ => ⟨rfl, rfl, rfl, rfl, rfl, rfl, rfl, rfl, rfl⟩)
    | (refine Or.inr (fun q => ?_); (try dsimp only); split <;> first | rfl | exact ⟨rfl, rfl⟩ | exact ⟨rfl, rfl, rfl⟩ | exact ⟨rfl, rfl, rfl, rfl⟩)
    | (intro x; refine (fun hx : Keeps 20481 s x => ?_) ?_; clear_value x; rotate_left; dsimp only [x]; rotate_right)
    | intro _
    | (with_reducible apply Keeps.ite)
    | lift_lets
    | split
    | dsimp only

theorem State.engineFailed_keeps (s : State) (e test : Nat) : Keeps 1088839745535 s (State.engineFailed s e test) := by
  unfold State.engineFailed
  repeat' first
    | with_reducible apply Keeps.refl
    | (with_reducible apply Keeps.after (m := 1088839745535) (State.secAlert_keeps ..) (by decide))
    | (with_reducible apply Keeps.after (m := 1088839745535) (State.unitFailure_keeps ..) (by decide))
    | dsimp only

theorem State.eraseKeys_keeps (s : State) : Keeps 550326256152 s (State.eraseKeys s) := by
  unfold State.eraseKeys
  repeat' first
    | with_reducible assumption
    | with_reducible apply Keeps.refl
    | (with_reducible apply State.setSec_keeps (m := 550326256152) (by decide))
    | with_reducible exact Or.inl rfl
    | with_reducible exact Or.inr rfl
    | with_reducible exact Or.inr ⟨rfl, rfl⟩
    | with_reducible exact Or.inr ⟨rfl, rfl, rfl⟩
    | with_reducible exact Or.inr ⟨rfl, rfl, rfl, rfl⟩
    | with_reducible exact Or.inl (fun _ => rfl)
    | with_reducible exact Or.inr (fun _ => rfl)
    | with_reducible exact Or.inr (fun _ => ⟨rfl, rfl⟩)
    | with_reducible exact Or.inr (fun _ => ⟨rfl, rfl, rfl⟩)
    | with_reducible exact Or.inr (fun _ => ⟨rfl, rfl, rfl, rfl⟩)
    | with_reducible exact Or.inr (fun _ => ⟨rfl, rfl, rfl, rfl, rfl, rfl, rfl, rfl, rfl⟩)
    | (intro x; refine (fun hx : Keeps 550326256152 s x => ?_) ?_; clear_value x; rotate_left; dsimp only [x]; rotate_right)
    | intro _
    | lift_lets
    | dsimp only
    | (with_reducible apply Keeps.rings (m := 550326256152) (by decide))
    | (with_reducible apply Keeps.ports (m := 550326256152) (by decide))
    | (with_reducible apply Keeps.takes (m := 550326256152) (by decide))
    | (refine Keeps.trans hx ⟨fun p hp => by cases p <;> first | exact absurd hp (by decide) | rfl | exact ⟨rfl, rfl⟩ | exact ⟨rfl, rfl, rfl⟩ | exact ⟨rfl, rfl, rfl, rfl⟩ | exact RingCtlSame.refl _, ⟨List.suffix_rfl, Nat.le_refl _, Nat.le_refl _, id, id⟩⟩)


theorem State.kats_keeps (s : State) (engines : List Nat) (fails : List (Nat × Nat)) : Keeps 1088839745535 s (State.kats s engines fails) := by
  unfold State.kats
  repeat' first
    | (with_reducible apply Keeps.foldl)
    | with_reducible assumption
    | with_reducible apply Keeps.refl
    | (with_reducible apply Keeps.after (m := 1088839745535) (State.engineFailed_keeps ..) (by decide))
    | (with_reducible apply State.setSec_keeps (m := 1088839745535) (by decide))
    | (with_reducible apply Keeps.after (m := 1088839745535) (State.enginePassed_keeps ..) (by decide))
    | with_reducible exact Or.inl rfl
    | with_reducible exact Or.inl (fun _ => rfl)
    | with_reducible exact Or.inr (fun _ => rfl)
    | with_reducible exact Or.inr (fun _ => ⟨rfl, rfl⟩)
    | with_reducible exact Or.inr (fun _ => ⟨rfl, rfl, rfl⟩)
    | with_reducible exact Or.inr (fun _ => ⟨rfl, rfl, rfl, rfl⟩)
    | with_reducible exact Or.inr (fun _ => ⟨rfl, rfl, rfl, rfl, rfl, rfl, rfl, rfl, rfl⟩)
    | intro _
    | split
    | dsimp only

theorem State.secNotice_keeps (s : State) (kind : Nat) (pl : List (Nat × Nat × Nat)) : Keeps 17180135449 s (State.secNotice s kind pl) := by
  unfold State.secNotice
  repeat' first
    | with_reducible apply Keeps.refl
    | (with_reducible apply Keeps.after (m := 17180135449) (State.logEntry_keeps ..) (by decide))
    | (with_reducible apply Keeps.after (m := 17180135449) (State.post_keeps ..) (by decide))
    | dsimp only

theorem State.proofFailed_keeps (s : State) (d : Desc) : Keeps 17180151833 s (State.proofFailed s d) := by
  unfold State.proofFailed
  repeat' first
    | with_reducible assumption
    | with_reducible apply Keeps.refl
    | (with_reducible apply State.setSec_keeps (m := 17180151833) (by decide))
    | (with_reducible apply Keeps.after (m := 17180151833) (State.secNotice_keeps ..) (by decide))
    | (with_reducible apply Keeps.after (m := 17180151833) (State.count_keeps ..) (by decide))
    | (with_reducible apply Keeps.after (m := 17180151833) (State.secAlert_keeps ..) (by decide))
    | with_reducible exact Or.inl rfl
    | with_reducible exact Or.inl (fun _ => rfl)
    | with_reducible exact Or.inr (fun _ => rfl)
    | with_reducible exact Or.inr (fun _ => ⟨rfl, rfl⟩)
    | with_reducible exact Or.inr (fun _ => ⟨rfl, rfl, rfl⟩)
    | with_reducible exact Or.inr (fun _ => ⟨rfl, rfl, rfl, rfl⟩)
    | with_reducible exact Or.inr (fun _ => ⟨rfl, rfl, rfl, rfl, rfl, rfl, rfl, rfl, rfl⟩)
    | (refine Or.inr (fun q => ?_); (try dsimp only); split <;> first | rfl | exact ⟨rfl, rfl⟩ | exact ⟨rfl, rfl, rfl⟩ | exact ⟨rfl, rfl, rfl, rfl⟩)
    | (intro x; refine (fun hx : Keeps 17180151833 s x => ?_) ?_; clear_value x; rotate_left; dsimp only [x]; rotate_right)
    | intro _
    | (with_reducible apply Keeps.ite)
    | lift_lets
    | split
    | dsimp only

theorem State.random_keeps (s : State) (n : Nat) : Keeps 524288 s (State.random s n).2 := by
  unfold State.random
  repeat' first
    | with_reducible apply Keeps.refl
    | (with_reducible apply Keeps.after (m := 524288) (State.useFree_keeps ..) (by decide))
    | dsimp only

theorem State.random_eq {s : State} (n : Nat) {a} {t} (e : State.random s n = (a, t)) : Keeps 524288 s t := by
  have h := State.random_keeps s n
  rw [e] at h
  exact h

theorem State.rotate_keeps (s : State) (kind : Nat) (pass : Bool) (test : Nat) : Keeps 1088839745535 s (State.rotate s kind pass test) := by
  unfold State.rotate
  repeat' first
    | with_reducible assumption
    | with_reducible apply Keeps.refl
    | (with_reducible apply State.setSvc_keeps (m := 1088839745535) (by decide))
    | (with_reducible apply Keeps.after (m := 1088839745535) (State.engineFailed_keeps ..) (by decide))
    | (with_reducible apply State.setSec_keeps (m := 1088839745535) (by decide))
    | (with_reducible apply Keeps.after (m := 1088839745535) (State.unitFails_keeps ..) (by decide))
    | (with_reducible apply Keeps.after (m := 1088839745535) (State.enginePassed_keeps ..) (by decide))
    | (with_reducible apply Keeps.after (m := 1088839745535) (State.setDue_keeps ..) (by decide))
    | with_reducible exact Or.inl rfl
    | with_reducible exact Or.inl (fun _ => rfl)
    | with_reducible exact Or.inr (fun _ => rfl)
    | with_reducible exact Or.inr (fun _ => ⟨rfl, rfl⟩)
    | with_reducible exact Or.inr (fun _ => ⟨rfl, rfl, rfl⟩)
    | with_reducible exact Or.inr (fun _ => ⟨rfl, rfl, rfl, rfl⟩)
    | with_reducible exact Or.inr (fun _ => ⟨rfl, rfl, rfl, rfl, rfl, rfl, rfl, rfl, rfl⟩)
    | (refine Or.inr (fun q => ?_); (try dsimp only); split <;> first | rfl | exact ⟨rfl, rfl⟩ | exact ⟨rfl, rfl, rfl⟩ | exact ⟨rfl, rfl, rfl, rfl⟩)
    | (intro x; refine (fun hx : Keeps 1088839745535 s x => ?_) ?_; clear_value x; rotate_left; dsimp only [x]; rotate_right)
    | intro _
    | (with_reducible apply Keeps.ite)
    | lift_lets
    | split
    | dsimp only

theorem State.secCmd_keeps {mk : Nat} {s t0 : State} {d : Desc} {op : Nat} {used : List (Nat × Nat)} {operands : Bool} {modes : List DevMode} {issuer : State → Bool} {body : Ticket → State → State} (hm : 549756076057 ||| mk = mk)
    (hf : ∀ a0 a1, Keeps mk s a1 → Keeps mk s (body a0 a1)) (a : Keeps mk s t0) : Keeps mk s (State.secCmd t0 d op used operands modes issuer body) := by
  unfold State.secCmd
  repeat' first
    | with_reducible assumption
    | with_reducible apply Keeps.refl
    | (with_reducible apply hf)
    | (with_reducible apply State.unlessRecovering_keeps (mk := mk) (Keeps.sub hm (by decide)))
    | (with_reducible apply State.runCmd_keeps (mk := mk) (Keeps.sub hm (by decide)))
    | exact Keeps.bit hm (by decide)
    | intro _
    | dsimp only

theorem State.secDone_keeps (s : State) (t : Ticket) (pl : List (Nat × Nat × Nat)) (status : Nat) : Keeps 549756076057 s (State.secDone s t pl status) := by
  unfold State.secDone
  repeat' first
    | with_reducible apply Keeps.refl
    | (with_reducible apply Keeps.after (m := 549756076057) (State.complete_keeps ..) (by decide))
    | dsimp only

theorem State.secState?_keeps (s : State) (t : Ticket) : Keeps 549756076057 s (State.secState? s t) := by
  unfold State.secState?
  repeat' first
    | with_reducible apply Keeps.refl
    | (with_reducible apply Keeps.after (m := 549756076057) (State.complete_keeps ..) (by decide))
    | dsimp only

theorem State.secWrite_keeps (s : State) (d : Desc) (t : Ticket) (off : Nat) (data : List Byte) (pl : List (Nat × Nat × Nat))
    (status : Nat) : Keeps 549756076057 s (State.secWrite s d t off data pl status) := by
  unfold State.secWrite
  repeat' first
    | with_reducible assumption
    | with_reducible apply Keeps.refl
    | (with_reducible apply Keeps.after (m := 549756076057) (State.complete_keeps ..) (by decide))
    | (with_reducible apply Keeps.after (m := 549756076057) (State.hpEvt_keeps ..) (by decide))
    | (with_reducible apply Keeps.after (m := 549756076057) (State.secDone_keeps ..) (by decide))
    | (with_reducible apply Keeps.after (m := 549756076057) (State.hostWrite_keeps ..) (by decide))
    | (intro x; refine (fun hx : Keeps 549756076057 s x => ?_) ?_; clear_value x; rotate_left; dsimp only [x]; rotate_right)
    | intro _
    | (with_reducible apply Keeps.ite)
    | lift_lets
    | split
    | dsimp only

theorem State.selftest_keeps (s : State) (t : Ticket) (fails : List (Nat × Nat)) : Keeps 1088839745535 s (State.selftest s t fails) := by
  unfold State.selftest
  repeat' first
    | (with_reducible apply Keeps.foldl)
    | with_reducible assumption
    | with_reducible apply Keeps.refl
    | (with_reducible apply Keeps.after (m := 1088839745535) (State.kats_keeps ..) (by decide))
    | (with_reducible apply State.setSvc_keeps (m := 1088839745535) (by decide))
    | (with_reducible apply Keeps.after (m := 1088839745535) (State.secDone_keeps ..) (by decide))
    | with_reducible exact Or.inl rfl
    | with_reducible exact Or.inl (fun _ => rfl)
    | with_reducible exact Or.inr (fun _ => rfl)
    | with_reducible exact Or.inr (fun _ => ⟨rfl, rfl⟩)
    | with_reducible exact Or.inr (fun _ => ⟨rfl, rfl, rfl⟩)
    | with_reducible exact Or.inr (fun _ => ⟨rfl, rfl, rfl, rfl⟩)
    | with_reducible exact Or.inr (fun _ => ⟨rfl, rfl, rfl, rfl, rfl, rfl, rfl, rfl, rfl⟩)
    | (intro x; refine (fun hx : Keeps 1088839745535 s x => ?_) ?_; clear_value x; rotate_left; dsimp only [x]; rotate_right)
    | intro _
    | lift_lets
    | split
    | dsimp only

theorem State.spareKat_keeps (s : State) (fails : List (Nat × Nat)) : Keeps 1088839745535 s (State.spareKat s fails) := by
  unfold State.spareKat
  repeat' first
    | with_reducible assumption
    | with_reducible apply Keeps.refl
    | (with_reducible apply State.setSec_keeps (m := 1088839745535) (by decide))
    | (with_reducible apply Keeps.after (m := 1088839745535) (State.kats_keeps ..) (by decide))
    | with_reducible exact Or.inl rfl
    | with_reducible exact Or.inl (fun _ => rfl)
    | with_reducible exact Or.inr (fun _ => rfl)
    | with_reducible exact Or.inr (fun _ => ⟨rfl, rfl⟩)
    | with_reducible exact Or.inr (fun _ => ⟨rfl, rfl, rfl⟩)
    | with_reducible exact Or.inr (fun _ => ⟨rfl, rfl, rfl, rfl⟩)
    | with_reducible exact Or.inr (fun _ => ⟨rfl, rfl, rfl, rfl, rfl, rfl, rfl, rfl, rfl⟩)
    | (refine Or.inr (fun q => ?_); (try dsimp only); split <;> first | rfl | exact ⟨rfl, rfl⟩ | exact ⟨rfl, rfl, rfl⟩ | exact ⟨rfl, rfl, rfl, rfl⟩)
    | intro _
    | (with_reducible apply Keeps.ite)
    | split
    | dsimp only

theorem State.stopWork_keeps (s : State) : Keeps 566940147709 s (State.stopWork s) := by
  unfold State.stopWork
  repeat' first
    | (with_reducible apply Keeps.foldl)
    | with_reducible assumption
    | with_reducible apply Keeps.refl
    | (with_reducible apply Keeps.after (m := 566940147709) (State.rigNow_keeps ..) (by decide))
    | (with_reducible apply Keeps.after (m := 566940147709) (State.post_keeps ..) (by decide))
    | (with_reducible apply Keeps.after (m := 566940147709) (State.setTake_keeps ..) (by decide))
    | (with_reducible apply Keeps.after (m := 566940147709) (State.abortDelivery_keeps ..) (by decide))
    | (with_reducible apply Keeps.after (m := 566940147709) (State.setFrame_keeps ..) (by decide))
    | (with_reducible apply Keeps.after (m := 566940147709) (State.dropSpill_keeps ..) (by decide))
    | (with_reducible apply Keeps.after (m := 566940147709) (State.releaseAll_keeps ..) (by decide))
    | (with_reducible apply Keeps.after (m := 566940147709) (State.setMover_keeps ..) (by decide))
    | (with_reducible apply Keeps.after (m := 566940147709) (State.setMag_keeps ..) (by decide))
    | (with_reducible apply Keeps.after (m := 566940147709) (State.setPlan_keeps ..) (by decide))
    | (with_reducible apply Keeps.after (m := 566940147709) (State.svcStop_keeps ..) (by decide))
    | (intro x; refine (fun hx : Keeps 566940147709 s x => ?_) ?_; clear_value x; rotate_left; dsimp only [x]; rotate_right)
    | intro _
    | (with_reducible apply Keeps.ite)
    | lift_lets
    | split
    | dsimp only

theorem State.zeroiseHeld_keeps (s : State) (cause : Nat) : Keeps 550326256152 s (State.zeroiseHeld s cause) := by
  unfold State.zeroiseHeld
  repeat' first
    | with_reducible assumption
    | with_reducible apply Keeps.refl
    | (with_reducible apply State.setSec_keeps (m := 550326256152) (by decide))
    | (with_reducible apply Keeps.after (m := 550326256152) (State.eraseKeys_keeps ..) (by decide))
    | with_reducible exact Or.inl rfl
    | with_reducible exact Or.inl (fun _ => rfl)
    | with_reducible exact Or.inr (fun _ => rfl)
    | with_reducible exact Or.inr (fun _ => ⟨rfl, rfl⟩)
    | with_reducible exact Or.inr (fun _ => ⟨rfl, rfl, rfl⟩)
    | with_reducible exact Or.inr (fun _ => ⟨rfl, rfl, rfl, rfl⟩)
    | with_reducible exact Or.inr (fun _ => ⟨rfl, rfl, rfl, rfl, rfl, rfl, rfl, rfl, rfl⟩)
    | intro _
    | dsimp only

theorem State.zeroise_keeps (s : State) (cause : Nat) (ticket : Option Ticket) : Keeps 571824463871 s (State.zeroise s cause ticket) := by
  unfold State.zeroise
  repeat' first
    | (with_reducible apply Keeps.foldl)
    | with_reducible assumption
    | with_reducible apply Keeps.refl
    | (with_reducible apply Keeps.after (m := 571824463871) (State.secAlert_keeps ..) (by decide))
    | (with_reducible apply State.setSec_keeps (m := 571824463871) (by decide))
    | (with_reducible apply Keeps.after (m := 571824463871) (State.eraseKeys_keeps ..) (by decide))
    | (with_reducible apply Keeps.after (m := 571824463871) (State.completeOpt_keeps ..) (by decide))
    | (with_reducible apply Keeps.after (m := 571824463871) (State.abortBound_keeps ..) (by decide))
    | (with_reducible apply Keeps.after (m := 571824463871) (State.abortCommands_keeps ..) (by decide))
    | (with_reducible apply Keeps.after (m := 571824463871) (State.stopWork_keeps ..) (by decide))
    | (with_reducible apply Keeps.after (m := 571824463871) (State.enterMode_keeps ..) (by decide))
    | (with_reducible apply Keeps.after (m := 571824463871) (State.ringOff_keeps ..) (by decide))
    | (with_reducible apply Keeps.after (m := 571824463871) (State.applySet_keeps ..) (by decide))
    | (with_reducible apply Keeps.after (m := 571824463871) (State.leaveActive_keeps ..) (by decide))
    | with_reducible exact Or.inl rfl
    | with_reducible exact Or.inl (fun _ => rfl)
    | with_reducible exact Or.inr (fun _ => rfl)
    | with_reducible exact Or.inr (fun _ => ⟨rfl, rfl⟩)
    | with_reducible exact Or.inr (fun _ => ⟨rfl, rfl, rfl⟩)
    | with_reducible exact Or.inr (fun _ => ⟨rfl, rfl, rfl, rfl⟩)
    | with_reducible exact Or.inr (fun _ => ⟨rfl, rfl, rfl, rfl, rfl, rfl, rfl, rfl, rfl⟩)
    | (refine Or.inr (fun q => ?_); (try dsimp only); split <;> first | rfl | exact ⟨rfl, rfl⟩ | exact ⟨rfl, rfl, rfl⟩ | exact ⟨rfl, rfl, rfl, rfl⟩)
    | (intro x; refine (fun hx : Keeps 571824463871 s x => ?_) ?_; clear_value x; rotate_left; dsimp only [x]; rotate_right)
    | intro _
    | (with_reducible apply Keeps.ite)
    | lift_lets
    | split
    | dsimp only

theorem State.trigger_keeps (s : State) (cause : Nat) : Keeps 571824463871 s (State.trigger s cause) := by
  unfold State.trigger
  repeat' first
    | with_reducible apply Keeps.refl
    | (with_reducible apply Keeps.after (m := 571824463871) (State.zeroiseHeld_keeps ..) (by decide))
    | (with_reducible apply Keeps.after (m := 571824463871) (State.zeroise_keeps ..) (by decide))
    | (with_reducible apply Keeps.ite)
    | split
    | dsimp only

theorem State.tamper_keeps (s : State) (i : Nat) (high : Bool) : Keeps 571824463871 s (State.tamper s i high) := by
  unfold State.tamper
  repeat' first
    | with_reducible assumption
    | with_reducible apply Keeps.refl
    | (with_reducible apply State.setSec_keeps (m := 571824463871) (by decide))
    | (with_reducible apply Keeps.after (m := 571824463871) (State.secAlert_keeps ..) (by decide))
    | (with_reducible apply Keeps.after (m := 571824463871) (State.trigger_keeps ..) (by decide))
    | with_reducible exact Or.inl rfl
    | with_reducible exact Or.inl (fun _ => rfl)
    | with_reducible exact Or.inr (fun _ => rfl)
    | with_reducible exact Or.inr (fun _ => ⟨rfl, rfl⟩)
    | with_reducible exact Or.inr (fun _ => ⟨rfl, rfl, rfl⟩)
    | with_reducible exact Or.inr (fun _ => ⟨rfl, rfl, rfl, rfl⟩)
    | with_reducible exact Or.inr (fun _ => ⟨rfl, rfl, rfl, rfl, rfl, rfl, rfl, rfl, rfl⟩)
    | (refine Or.inr (fun q => ?_); (try dsimp only); split <;> first | rfl | exact ⟨rfl, rfl⟩ | exact ⟨rfl, rfl, rfl⟩ | exact ⟨rfl, rfl, rfl, rfl⟩)
    | (intro x; refine (fun hx : Keeps 571824463871 s x => ?_) ?_; clear_value x; rotate_left; dsimp only [x]; rotate_right)
    | intro _
    | (with_reducible apply Keeps.ite)
    | lift_lets
    | split
    | dsimp only

theorem execEntropyHealthFail_keeps (s : State) {nxt : State} (e : execEntropyHealthFail s = .next nxt) : Keeps 17180151833 s nxt := by
  unfold execEntropyHealthFail at e
  first | refine Keeps.go ?_ e | refine Keeps.goRead ?_ e | cases e
  try dsimp only
  repeat' first
    | with_reducible assumption
    | with_reducible apply Keeps.refl
    | (with_reducible apply Keeps.after (m := 17180151833) (State.secAlert_keeps ..) (by decide))
    | (with_reducible apply State.setSec_keeps (m := 17180151833) (by decide))
    | with_reducible exact Or.inl rfl
    | with_reducible exact Or.inl (fun _ => rfl)
    | with_reducible exact Or.inr (fun _ => rfl)
    | with_reducible exact Or.inr (fun _ => ⟨rfl, rfl⟩)
    | with_reducible exact Or.inr (fun _ => ⟨rfl, rfl, rfl⟩)
    | with_reducible exact Or.inr (fun _ => ⟨rfl, rfl, rfl, rfl⟩)
    | with_reducible exact Or.inr (fun _ => ⟨rfl, rfl, rfl, rfl, rfl, rfl, rfl, rfl, rfl⟩)
    | (refine Or.inr (fun q => ?_); (try dsimp only); split <;> first | rfl | exact ⟨rfl, rfl⟩ | exact ⟨rfl, rfl, rfl⟩ | exact ⟨rfl, rfl, rfl, rfl⟩)
    | intro _
    | (with_reducible apply Keeps.ite)
    | split
    | dsimp only

theorem execEntropyRetest_keeps (pass : Bool) (s : State) {nxt : State} (e : execEntropyRetest pass s = .next nxt) : Keeps 16384 s nxt := by
  unfold execEntropyRetest at e
  first | refine Keeps.go ?_ e | refine Keeps.goRead ?_ e | cases e
  try dsimp only
  repeat' first
    | with_reducible assumption
    | with_reducible apply Keeps.refl
    | (with_reducible apply State.setSec_keeps (m := 16384) (by decide))
    | with_reducible exact Or.inl rfl
    | with_reducible exact Or.inl (fun _ => rfl)
    | with_reducible exact Or.inr (fun _ => rfl)
    | with_reducible exact Or.inr (fun _ => ⟨rfl, rfl⟩)
    | with_reducible exact Or.inr (fun _ => ⟨rfl, rfl, rfl⟩)
    | with_reducible exact Or.inr (fun _ => ⟨rfl, rfl, rfl, rfl⟩)
    | with_reducible exact Or.inr (fun _ => ⟨rfl, rfl, rfl, rfl, rfl, rfl, rfl, rfl, rfl⟩)
    | (refine Or.inr (fun q => ?_); (try dsimp only); split <;> first | rfl | exact ⟨rfl, rfl⟩ | exact ⟨rfl, rfl, rfl⟩ | exact ⟨rfl, rfl, rfl, rfl⟩)
    | intro _
    | (with_reducible apply Keeps.ite)
    | split
    | dsimp only

theorem execLockoutExpiry_keeps (s : State) {nxt : State} (e : execLockoutExpiry s = .next nxt) : Keeps 16384 s nxt := by
  unfold execLockoutExpiry at e
  first | refine Keeps.go ?_ e | refine Keeps.goRead ?_ e | cases e
  try dsimp only
  repeat' first
    | with_reducible assumption
    | with_reducible apply Keeps.refl
    | (with_reducible apply State.setSec_keeps (m := 16384) (by decide))
    | with_reducible exact Or.inl rfl
    | with_reducible exact Or.inl (fun _ => rfl)
    | with_reducible exact Or.inr (fun _ => rfl)
    | with_reducible exact Or.inr (fun _ => ⟨rfl, rfl⟩)
    | with_reducible exact Or.inr (fun _ => ⟨rfl, rfl, rfl⟩)
    | with_reducible exact Or.inr (fun _ => ⟨rfl, rfl, rfl, rfl⟩)
    | with_reducible exact Or.inr (fun _ => ⟨rfl, rfl, rfl, rfl, rfl, rfl, rfl, rfl, rfl⟩)
    | (refine Or.inr (fun q => ?_); (try dsimp only); split <;> first | rfl | exact ⟨rfl, rfl⟩ | exact ⟨rfl, rfl, rfl⟩ | exact ⟨rfl, rfl, rfl, rfl⟩)
    | intro _
    | (with_reducible apply Keeps.ite)
    | split
    | dsimp only

theorem execLockstepMismatch_keeps (u : Nat) (s : State) {nxt : State} (e : execLockstepMismatch u s = .next nxt) : Keeps 1089376616447 s nxt := by
  unfold execLockstepMismatch at e
  first | refine Keeps.go ?_ e | refine Keeps.goRead ?_ e | cases e
  try dsimp only
  repeat' first
    | with_reducible assumption
    | with_reducible apply Keeps.refl
    | (with_reducible apply State.lockstep_keeps (mk := 1089376616447) (by decide))
    | (with_reducible apply Keeps.after (m := 1089376616447) (State.zeroise_keeps ..) (by decide))
    | intro _
    | split
    | dsimp only

theorem execProvisionBegin_keeps (d : Desc) (s : State) {nxt : State} (e : execProvisionBegin d s = .next nxt) : Keeps 549758173213 s nxt := by
  unfold execProvisionBegin at e
  first | refine Keeps.go ?_ e | refine Keeps.goRead ?_ e | cases e
  try dsimp only
  repeat' first
    | with_reducible assumption
    | with_reducible apply Keeps.refl
    | (with_reducible apply State.secCmd_keeps (mk := 549758173213) (by decide))
    | (with_reducible apply Keeps.after (m := 549758173213) (State.secState?_keeps ..) (by decide))
    | (with_reducible apply Keeps.after (m := 549758173213) (State.enterMode_keeps ..) (by decide))
    | (with_reducible apply Keeps.after (m := 549758173213) (State.secDone_keeps ..) (by decide))
    | intro _
    | (with_reducible apply Keeps.ite)
    | split
    | dsimp only

theorem execProvisionClose_keeps (d : Desc) (s : State) {nxt : State} (e : execProvisionClose d s = .next nxt) : Keeps 549791744093 s nxt := by
  unfold execProvisionClose at e
  first | refine Keeps.go ?_ e | refine Keeps.goRead ?_ e | cases e
  try dsimp only
  repeat' first
    | with_reducible assumption
    | with_reducible apply Keeps.refl
    | (with_reducible apply State.secCmd_keeps (mk := 549791744093) (by decide))
    | (with_reducible apply Keeps.after (m := 549791744093) (State.secState?_keeps ..) (by decide))
    | (with_reducible apply State.setSec_keeps (m := 549791744093) (by decide))
    | (with_reducible apply Keeps.after (m := 549791744093) (State.serviceResv_keeps ..) (by decide))
    | (with_reducible apply Keeps.after (m := 549791744093) (State.enterMode_keeps ..) (by decide))
    | (with_reducible apply Keeps.after (m := 549791744093) (State.secDone_keeps ..) (by decide))
    | with_reducible exact Or.inl rfl
    | with_reducible exact Or.inl (fun _ => rfl)
    | with_reducible exact Or.inr (fun _ => rfl)
    | with_reducible exact Or.inr (fun _ => ⟨rfl, rfl⟩)
    | with_reducible exact Or.inr (fun _ => ⟨rfl, rfl, rfl⟩)
    | with_reducible exact Or.inr (fun _ => ⟨rfl, rfl, rfl, rfl⟩)
    | with_reducible exact Or.inr (fun _ => ⟨rfl, rfl, rfl, rfl, rfl, rfl, rfl, rfl, rfl⟩)
    | (refine Or.inr (fun q => ?_); (try dsimp only); split <;> first | rfl | exact ⟨rfl, rfl⟩ | exact ⟨rfl, rfl, rfl⟩ | exact ⟨rfl, rfl, rfl, rfl⟩)
    | (intro x; refine (fun hx : Keeps 549791744093 s x => ?_) ?_; clear_value x; rotate_left; dsimp only [x]; rotate_right)
    | intro _
    | (with_reducible apply Keeps.ite)
    | lift_lets
    | split
    | dsimp only

theorem execSecAttest_keeps (d : Desc) (s : State) {nxt : State} (e : execSecAttest d s = .next nxt) : Keeps 549756076057 s nxt := by
  unfold execSecAttest at e
  first | refine Keeps.go ?_ e | refine Keeps.goRead ?_ e | cases e
  try dsimp only
  repeat' first
    | with_reducible assumption
    | with_reducible apply Keeps.refl
    | (with_reducible apply State.secCmd_keeps (mk := 549756076057) (by decide))
    | (with_reducible apply Keeps.after (m := 549756076057) (State.secWrite_keeps ..) (by decide))
    | (intro x; refine (fun hx : Keeps 549756076057 s x => ?_) ?_; clear_value x; rotate_left; dsimp only [x]; rotate_right)
    | intro _
    | lift_lets
    | dsimp only

theorem execSecAuthBegin_keeps (d : Desc) (s : State) {nxt : State} (e : execSecAuthBegin d s = .next nxt) : Keeps 549756616729 s nxt := by
  unfold execSecAuthBegin at e
  first | refine Keeps.go ?_ e | refine Keeps.goRead ?_ e | cases e
  try dsimp only
  repeat' first
    | with_reducible assumption
    | with_reducible apply Keeps.refl
    | (with_reducible apply State.secCmd_keeps (mk := 549756616729) (by decide))
    | (with_reducible apply Keeps.after (m := 549756616729) (State.complete_keeps ..) (by decide))
    | (with_reducible apply Keeps.after (m := 549756616729) (State.random_keeps ..) (by decide))
    | (with_reducible apply Keeps.after (m := 549756616729) (State.random_eq (e := ‹_›) ..) (by decide))
    | (with_reducible apply Keeps.after (m := 549756616729) (State.secWrite_keeps ..) (by decide))
    | (with_reducible apply State.setSec_keeps (m := 549756616729) (by decide))
    | with_reducible exact Or.inl rfl
    | with_reducible exact Or.inl (fun _ => rfl)
    | with_reducible exact Or.inr (fun _ => rfl)
    | with_reducible exact Or.inr (fun _ => ⟨rfl, rfl⟩)
    | with_reducible exact Or.inr (fun _ => ⟨rfl, rfl, rfl⟩)
    | with_reducible exact Or.inr (fun _ => ⟨rfl, rfl, rfl, rfl⟩)
    | with_reducible exact Or.inr (fun _ => ⟨rfl, rfl, rfl, rfl, rfl, rfl, rfl, rfl, rfl⟩)
    | (refine Or.inr (fun q => ?_); (try dsimp only); split <;> first | rfl | exact ⟨rfl, rfl⟩ | exact ⟨rfl, rfl, rfl⟩ | exact ⟨rfl, rfl, rfl, rfl⟩)
    | (intro x; refine (fun hx : Keeps 549756616729 s x => ?_) ?_; clear_value x; rotate_left; dsimp only [x]; rotate_right)
    | intro _
    | (with_reducible apply Keeps.ite)
    | lift_lets
    | split
    | dsimp only

theorem execSecAuthProve_keeps (d : Desc) (s : State) {nxt : State} (e : execSecAuthProve d s = .next nxt) : Keeps 566935965721 s nxt := by
  unfold execSecAuthProve at e
  first | refine Keeps.go ?_ e | refine Keeps.goRead ?_ e | cases e
  try dsimp only
  repeat' first
    | with_reducible assumption
    | with_reducible apply Keeps.refl
    | (with_reducible apply State.secCmd_keeps (mk := 566935965721) (by decide))
    | (with_reducible apply State.setSec_keeps (m := 566935965721) (by decide))
    | (with_reducible apply Keeps.after (m := 566935965721) (State.secDone_keeps ..) (by decide))
    | (with_reducible apply State.setRing_keeps (m := 566935965721) (by decide))
    | (with_reducible apply Keeps.after (m := 566935965721) (State.complete_keeps ..) (by decide))
    | (with_reducible apply Keeps.after (m := 566935965721) (State.proofFailed_keeps ..) (by decide))
    | with_reducible exact Or.inl rfl
    | with_reducible exact Or.inl (fun _ => rfl)
    | with_reducible exact Or.inr (fun _ => rfl)
    | with_reducible exact Or.inr (fun _ => ⟨rfl, rfl⟩)
    | with_reducible exact Or.inr (fun _ => ⟨rfl, rfl, rfl⟩)
    | with_reducible exact Or.inr (fun _ => ⟨rfl, rfl, rfl, rfl⟩)
    | with_reducible exact Or.inr (fun _ => ⟨rfl, rfl, rfl, rfl, rfl, rfl, rfl, rfl, rfl⟩)
    | (refine Or.inr (fun q => ?_); (try dsimp only); split <;> first | rfl | exact ⟨rfl, rfl⟩ | exact ⟨rfl, rfl, rfl⟩ | exact ⟨rfl, rfl, rfl, rfl⟩)
    | (intro x; refine (fun hx : Keeps 566935965721 s x => ?_) ?_; clear_value x; rotate_left; dsimp only [x]; rotate_right)
    | intro _
    | (with_reducible apply Keeps.ite)
    | lift_lets
    | split
    | dsimp only

theorem execSecCoEnrol_keeps (d : Desc) (s : State) {nxt : State} (e : execSecCoEnrol d s = .next nxt) : Keeps 549823201305 s nxt := by
  unfold execSecCoEnrol at e
  first | refine Keeps.go ?_ e | refine Keeps.goRead ?_ e | cases e
  try dsimp only
  repeat' first
    | with_reducible assumption
    | with_reducible apply Keeps.refl
    | (with_reducible apply State.secCmd_keeps (mk := 549823201305) (by decide))
    | (with_reducible apply Keeps.after (m := 549823201305) (State.secState?_keeps ..) (by decide))
    | (with_reducible apply Keeps.after (m := 549823201305) (State.secDone_keeps ..) (by decide))
    | (with_reducible apply State.setSec_keeps (m := 549823201305) (by decide))
    | with_reducible exact Or.inl rfl
    | with_reducible exact Or.inl (fun _ => rfl)
    | with_reducible exact Or.inr (fun _ => rfl)
    | with_reducible exact Or.inr (fun _ => ⟨rfl, rfl⟩)
    | with_reducible exact Or.inr (fun _ => ⟨rfl, rfl, rfl⟩)
    | with_reducible exact Or.inr (fun _ => ⟨rfl, rfl, rfl, rfl⟩)
    | with_reducible exact Or.inr (fun _ => ⟨rfl, rfl, rfl, rfl, rfl, rfl, rfl, rfl, rfl⟩)
    | (refine Or.inr (fun q => ?_); (try dsimp only); split <;> first | rfl | exact ⟨rfl, rfl⟩ | exact ⟨rfl, rfl, rfl⟩ | exact ⟨rfl, rfl, rfl, rfl⟩)
    | intro _
    | (with_reducible apply Keeps.ite)
    | split
    | dsimp only

theorem execSecEcdhBegin_keeps (d : Desc) (s : State) {nxt : State} (e : execSecEcdhBegin d s = .next nxt) : Keeps 549756616729 s nxt := by
  unfold execSecEcdhBegin at e
  first | refine Keeps.go ?_ e | refine Keeps.goRead ?_ e | cases e
  try dsimp only
  repeat' first
    | with_reducible assumption
    | with_reducible apply Keeps.refl
    | (with_reducible apply State.secCmd_keeps (mk := 549756616729) (by decide))
    | (with_reducible apply Keeps.after (m := 549756616729) (State.complete_keeps ..) (by decide))
    | (with_reducible apply Keeps.after (m := 549756616729) (State.random_keeps ..) (by decide))
    | (with_reducible apply Keeps.after (m := 549756616729) (State.random_eq (e := ‹_›) ..) (by decide))
    | (with_reducible apply Keeps.after (m := 549756616729) (State.secWrite_keeps ..) (by decide))
    | (with_reducible apply State.setSec_keeps (m := 549756616729) (by decide))
    | with_reducible exact Or.inl rfl
    | with_reducible exact Or.inl (fun _ => rfl)
    | with_reducible exact Or.inr (fun _ => rfl)
    | with_reducible exact Or.inr (fun _ => ⟨rfl, rfl⟩)
    | with_reducible exact Or.inr (fun _ => ⟨rfl, rfl, rfl⟩)
    | with_reducible exact Or.inr (fun _ => ⟨rfl, rfl, rfl, rfl⟩)
    | with_reducible exact Or.inr (fun _ => ⟨rfl, rfl, rfl, rfl, rfl, rfl, rfl, rfl, rfl⟩)
    | (refine Or.inr (fun q => ?_); (try dsimp only); split <;> first | rfl | exact ⟨rfl, rfl⟩ | exact ⟨rfl, rfl, rfl⟩ | exact ⟨rfl, rfl, rfl, rfl⟩)
    | (intro x; refine (fun hx : Keeps 549756616729 s x => ?_) ?_; clear_value x; rotate_left; dsimp only [x]; rotate_right)
    | intro _
    | (with_reducible apply Keeps.ite)
    | lift_lets
    | split
    | dsimp only

theorem execSecFwInstall_keeps (d : Desc) (s : State) {nxt : State} (e : execSecFwInstall d s = .next nxt) : Keeps 568009707545 s nxt := by
  unfold execSecFwInstall at e
  first | refine Keeps.go ?_ e | refine Keeps.goRead ?_ e | cases e
  try dsimp only
  repeat' first
    | with_reducible assumption
    | with_reducible apply Keeps.refl
    | (with_reducible apply State.secCmd_keeps (mk := 568009707545) (by decide))
    | (with_reducible apply Keeps.after (m := 568009707545) (State.complete_keeps ..) (by decide))
    | (with_reducible apply State.setSec_keeps (m := 568009707545) (by decide))
    | (with_reducible apply Keeps.after (m := 568009707545) (State.secDone_keeps ..) (by decide))
    | (with_reducible apply Keeps.after (m := 568009707545) (State.secAlert_keeps ..) (by decide))
    | with_reducible exact Or.inl rfl
    | with_reducible exact Or.inl (fun _ => rfl)
    | with_reducible exact Or.inr (fun _ => rfl)
    | with_reducible exact Or.inr (fun _ => ⟨rfl, rfl⟩)
    | with_reducible exact Or.inr (fun _ => ⟨rfl, rfl, rfl⟩)
    | with_reducible exact Or.inr (fun _ => ⟨rfl, rfl, rfl, rfl⟩)
    | with_reducible exact Or.inr (fun _ => ⟨rfl, rfl, rfl, rfl, rfl, rfl, rfl, rfl, rfl⟩)
    | (refine Or.inr (fun q => ?_); (try dsimp only); split <;> first | rfl | exact ⟨rfl, rfl⟩ | exact ⟨rfl, rfl, rfl⟩ | exact ⟨rfl, rfl, rfl, rfl⟩)
    | (intro x; refine (fun hx : Keeps 568009707545 s x => ?_) ?_; clear_value x; rotate_left; dsimp only [x]; rotate_right)
    | intro _
    | (with_reducible apply Keeps.ite)
    | lift_lets
    | split
    | dsimp only

theorem execSecGetIdentity_keeps (d : Desc) (s : State) {nxt : State} (e : execSecGetIdentity d s = .next nxt) : Keeps 549756076057 s nxt := by
  unfold execSecGetIdentity at e
  first | refine Keeps.go ?_ e | refine Keeps.goRead ?_ e | cases e
  try dsimp only
  repeat' first
    | with_reducible assumption
    | with_reducible apply Keeps.refl
    | (with_reducible apply State.secCmd_keeps (mk := 549756076057) (by decide))
    | (with_reducible apply Keeps.after (m := 549756076057) (State.secWrite_keeps ..) (by decide))
    | (intro x; refine (fun hx : Keeps 549756076057 s x => ?_) ?_; clear_value x; rotate_left; dsimp only [x]; rotate_right)
    | intro _
    | (with_reducible apply Keeps.ite)
    | lift_lets
    | split
    | dsimp only

theorem execSecIdentityGen_keeps (d : Desc) (s : State) {nxt : State} (e : execSecIdentityGen d s = .next nxt) : Keeps 549790171161 s nxt := by
  unfold execSecIdentityGen at e
  first | refine Keeps.go ?_ e | refine Keeps.goRead ?_ e | cases e
  try dsimp only
  repeat' first
    | with_reducible assumption
    | with_reducible apply Keeps.refl
    | (with_reducible apply State.secCmd_keeps (mk := 549790171161) (by decide))
    | (with_reducible apply Keeps.after (m := 549790171161) (State.complete_keeps ..) (by decide))
    | (with_reducible apply Keeps.after (m := 549790171161) (State.random_keeps ..) (by decide))
    | (with_reducible apply Keeps.after (m := 549790171161) (State.random_eq (e := ‹_›) ..) (by decide))
    | (with_reducible apply Keeps.after (m := 549790171161) (State.secDone_keeps ..) (by decide))
    | (with_reducible apply State.setSec_keeps (m := 549790171161) (by decide))
    | with_reducible exact Or.inl rfl
    | with_reducible exact Or.inl (fun _ => rfl)
    | with_reducible exact Or.inr (fun _ => rfl)
    | with_reducible exact Or.inr (fun _ => ⟨rfl, rfl⟩)
    | with_reducible exact Or.inr (fun _ => ⟨rfl, rfl, rfl⟩)
    | with_reducible exact Or.inr (fun _ => ⟨rfl, rfl, rfl, rfl⟩)
    | with_reducible exact Or.inr (fun _ => ⟨rfl, rfl, rfl, rfl, rfl, rfl, rfl, rfl, rfl⟩)
    | (refine Or.inr (fun q => ?_); (try dsimp only); split <;> first | rfl | exact ⟨rfl, rfl⟩ | exact ⟨rfl, rfl, rfl⟩ | exact ⟨rfl, rfl, rfl, rfl⟩)
    | (intro x; refine (fun hx : Keeps 549790171161 s x => ?_) ?_; clear_value x; rotate_left; dsimp only [x]; rotate_right)
    | intro _
    | (with_reducible apply Keeps.ite)
    | lift_lets
    | split
    | dsimp only

theorem execSecKeyReplace_keeps (d : Desc) (s : State) {nxt : State} (e : execSecKeyReplace d s = .next nxt) : Keeps 549823201305 s nxt := by
  unfold execSecKeyReplace at e
  first | refine Keeps.go ?_ e | refine Keeps.goRead ?_ e | cases e
  try dsimp only
  repeat' first
    | with_reducible assumption
    | with_reducible apply Keeps.refl
    | (with_reducible apply State.secCmd_keeps (mk := 549823201305) (by decide))
    | (with_reducible apply Keeps.after (m := 549823201305) (State.secDone_keeps ..) (by decide))
    | (with_reducible apply State.setSec_keeps (m := 549823201305) (by decide))
    | with_reducible exact Or.inl rfl
    | with_reducible exact Or.inl (fun _ => rfl)
    | with_reducible exact Or.inr (fun _ => rfl)
    | with_reducible exact Or.inr (fun _ => ⟨rfl, rfl⟩)
    | with_reducible exact Or.inr (fun _ => ⟨rfl, rfl, rfl⟩)
    | with_reducible exact Or.inr (fun _ => ⟨rfl, rfl, rfl, rfl⟩)
    | with_reducible exact Or.inr (fun _ => ⟨rfl, rfl, rfl, rfl, rfl, rfl, rfl, rfl, rfl⟩)
    | (refine Or.inr (fun q => ?_); (try dsimp only); split <;> first | rfl | exact ⟨rfl, rfl⟩ | exact ⟨rfl, rfl, rfl⟩ | exact ⟨rfl, rfl, rfl, rfl⟩)
    | (intro x; refine (fun hx : Keeps 549823201305 s x => ?_) ?_; clear_value x; rotate_left; dsimp only [x]; rotate_right)
    | intro _
    | (with_reducible apply Keeps.ite)
    | lift_lets
    | split
    | dsimp only

theorem execSecLogout_keeps (d : Desc) (s : State) {nxt : State} (e : execSecLogout d s = .next nxt) : Keeps 549756076057 s nxt := by
  unfold execSecLogout at e
  first | refine Keeps.go ?_ e | refine Keeps.goRead ?_ e | cases e
  try dsimp only
  repeat' first
    | with_reducible assumption
    | with_reducible apply Keeps.refl
    | (with_reducible apply State.secCmd_keeps (mk := 549756076057) (by decide))
    | (with_reducible apply Keeps.after (m := 549756076057) (State.secDone_keeps ..) (by decide))
    | (with_reducible apply State.setRing_keeps (m := 549756076057) (by decide))
    | with_reducible exact Or.inl rfl
    | with_reducible exact Or.inl (fun _ => rfl)
    | with_reducible exact Or.inr (fun _ => rfl)
    | with_reducible exact Or.inr (fun _ => ⟨rfl, rfl⟩)
    | with_reducible exact Or.inr (fun _ => ⟨rfl, rfl, rfl⟩)
    | with_reducible exact Or.inr (fun _ => ⟨rfl, rfl, rfl, rfl⟩)
    | with_reducible exact Or.inr (fun _ => ⟨rfl, rfl, rfl, rfl, rfl, rfl, rfl, rfl, rfl⟩)
    | intro _
    | dsimp only

theorem execSecOwnerSet_keeps (d : Desc) (s : State) {nxt : State} (e : execSecOwnerSet d s = .next nxt) : Keeps 549789646873 s nxt := by
  unfold execSecOwnerSet at e
  first | refine Keeps.go ?_ e | refine Keeps.goRead ?_ e | cases e
  try dsimp only
  repeat' first
    | with_reducible assumption
    | with_reducible apply Keeps.refl
    | (with_reducible apply State.secCmd_keeps (mk := 549789646873) (by decide))
    | (with_reducible apply Keeps.after (m := 549789646873) (State.secState?_keeps ..) (by decide))
    | (with_reducible apply Keeps.after (m := 549789646873) (State.complete_keeps ..) (by decide))
    | (with_reducible apply Keeps.after (m := 549789646873) (State.secDone_keeps ..) (by decide))
    | (with_reducible apply State.setSec_keeps (m := 549789646873) (by decide))
    | with_reducible exact Or.inl rfl
    | with_reducible exact Or.inl (fun _ => rfl)
    | with_reducible exact Or.inr (fun _ => rfl)
    | with_reducible exact Or.inr (fun _ => ⟨rfl, rfl⟩)
    | with_reducible exact Or.inr (fun _ => ⟨rfl, rfl, rfl⟩)
    | with_reducible exact Or.inr (fun _ => ⟨rfl, rfl, rfl, rfl⟩)
    | with_reducible exact Or.inr (fun _ => ⟨rfl, rfl, rfl, rfl, rfl, rfl, rfl, rfl, rfl⟩)
    | intro _
    | split
    | dsimp only

theorem execSecSelftest_keeps (d : Desc) (fails : List (Nat × Nat)) (s : State) {nxt : State} (e : execSecSelftest d fails s = .next nxt) : Keeps 1088839745535 s nxt := by
  unfold execSecSelftest at e
  first | refine Keeps.go ?_ e | refine Keeps.goRead ?_ e | cases e
  try dsimp only
  repeat' first
    | with_reducible assumption
    | with_reducible apply Keeps.refl
    | (with_reducible apply State.secCmd_keeps (mk := 1088839745535) (by decide))
    | (with_reducible apply Keeps.after (m := 1088839745535) (State.selftest_keeps ..) (by decide))
    | intro _
    | dsimp only

theorem execSecTakeKey_keeps (d : Desc) (s : State) {nxt : State} (e : execSecTakeKey d s = .next nxt) : Keeps 549756076057 s nxt := by
  unfold execSecTakeKey at e
  first | refine Keeps.go ?_ e | refine Keeps.goRead ?_ e | cases e
  try dsimp only
  repeat' first
    | with_reducible assumption
    | with_reducible apply Keeps.refl
    | (with_reducible apply State.secCmd_keeps (mk := 549756076057) (by decide))
    | (with_reducible apply Keeps.after (m := 549756076057) (State.complete_keeps ..) (by decide))
    | (with_reducible apply Keeps.after (m := 549756076057) (State.secWrite_keeps ..) (by decide))
    | (intro x; refine (fun hx : Keeps 549756076057 s x => ?_) ?_; clear_value x; rotate_left; dsimp only [x]; rotate_right)
    | intro _
    | (with_reducible apply Keeps.ite)
    | lift_lets
    | split
    | dsimp only

theorem execSpareKat_keeps (fails : List (Nat × Nat)) (s : State) {nxt : State} (e : execSpareKat fails s = .next nxt) : Keeps 1088839745535 s nxt := by
  unfold execSpareKat at e
  first | refine Keeps.go ?_ e | refine Keeps.goRead ?_ e | cases e
  try dsimp only
  repeat' first
    | with_reducible assumption
    | with_reducible apply Keeps.refl
    | (with_reducible apply Keeps.after (m := 1088839745535) (State.spareKat_keeps ..) (by decide))
    | intro _
    | dsimp only

theorem execSpareRotation_keeps (kind : Nat) (pass : Bool) (test : Nat) (s : State) {nxt : State} (e : execSpareRotation kind pass test s = .next nxt) : Keeps 1088839745535 s nxt := by
  unfold execSpareRotation at e
  first | refine Keeps.go ?_ e | refine Keeps.goRead ?_ e | cases e
  try dsimp only
  repeat' first
    | with_reducible assumption
    | with_reducible apply Keeps.refl
    | (with_reducible apply Keeps.after (m := 1088839745535) (State.rotate_keeps ..) (by decide))
    | intro _
    | dsimp only

theorem execTamperInput_keeps (i : Nat) (high : Bool) (s : State) {nxt : State} (e : execTamperInput i high s = .next nxt) : Keeps 571824463871 s nxt := by
  unfold execTamperInput at e
  first | refine Keeps.go ?_ e | refine Keeps.goRead ?_ e | cases e
  try dsimp only
  repeat' first
    | with_reducible apply Keeps.refl
    | (with_reducible apply Keeps.after (m := 571824463871) (State.tamper_keeps ..) (by decide))
    | dsimp only

theorem execUnlockChallenge_keeps (valid : Bool) (s : State) {nxt : State} (e : execUnlockChallenge valid s = .next nxt) : Keeps 571824463871 s nxt := by
  unfold execUnlockChallenge at e
  first | refine Keeps.go ?_ e | refine Keeps.goRead ?_ e | cases e
  try dsimp only
  repeat' first
    | with_reducible assumption
    | with_reducible apply Keeps.refl
    | (with_reducible apply State.setSvc_keeps (m := 571824463871) (by decide))
    | (with_reducible apply State.setSec_keeps (m := 571824463871) (by decide))
    | (with_reducible apply Keeps.after (m := 571824463871) (State.trigger_keeps ..) (by decide))
    | with_reducible exact Or.inl rfl
    | with_reducible exact Or.inl (fun _ => rfl)
    | with_reducible exact Or.inr (fun _ => rfl)
    | with_reducible exact Or.inr (fun _ => ⟨rfl, rfl⟩)
    | with_reducible exact Or.inr (fun _ => ⟨rfl, rfl, rfl⟩)
    | with_reducible exact Or.inr (fun _ => ⟨rfl, rfl, rfl, rfl⟩)
    | with_reducible exact Or.inr (fun _ => ⟨rfl, rfl, rfl, rfl, rfl, rfl, rfl, rfl, rfl⟩)
    | (refine Or.inr (fun q => ?_); (try dsimp only); split <;> first | rfl | exact ⟨rfl, rfl⟩ | exact ⟨rfl, rfl, rfl⟩ | exact ⟨rfl, rfl, rfl, rfl⟩)
    | (intro x; refine (fun hx : Keeps 571824463871 s x => ?_) ?_; clear_value x; rotate_left; dsimp only [x]; rotate_right)
    | intro _
    | (with_reducible apply Keeps.ite)
    | lift_lets
    | split
    | dsimp only

theorem execZeroize_keeps (d : Desc) (s : State) {nxt : State} (e : execZeroize d s = .next nxt) : Keeps 571824463871 s nxt := by
  unfold execZeroize at e
  first | refine Keeps.go ?_ e | refine Keeps.goRead ?_ e | cases e
  try dsimp only
  repeat' first
    | with_reducible assumption
    | with_reducible apply Keeps.refl
    | (with_reducible apply State.secCmd_keeps (mk := 571824463871) (by decide))
    | (with_reducible apply Keeps.after (m := 571824463871) (State.zeroise_keeps ..) (by decide))
    | intro _
    | dsimp only

theorem execZeroizePin_keeps (low : Bool) (s : State) {nxt : State} (e : execZeroizePin low s = .next nxt) : Keeps 571824463871 s nxt := by
  unfold execZeroizePin at e
  first | refine Keeps.go ?_ e | refine Keeps.goRead ?_ e | cases e
  try dsimp only
  repeat' first
    | with_reducible assumption
    | with_reducible apply Keeps.refl
    | (with_reducible apply State.setSec_keeps (m := 571824463871) (by decide))
    | (with_reducible apply Keeps.after (m := 571824463871) (State.trigger_keeps ..) (by decide))
    | with_reducible exact Or.inl rfl
    | with_reducible exact Or.inl (fun _ => rfl)
    | with_reducible exact Or.inr (fun _ => rfl)
    | with_reducible exact Or.inr (fun _ => ⟨rfl, rfl⟩)
    | with_reducible exact Or.inr (fun _ => ⟨rfl, rfl, rfl⟩)
    | with_reducible exact Or.inr (fun _ => ⟨rfl, rfl, rfl, rfl⟩)
    | with_reducible exact Or.inr (fun _ => ⟨rfl, rfl, rfl, rfl, rfl, rfl, rfl, rfl, rfl⟩)
    | (refine Or.inr (fun q => ?_); (try dsimp only); split <;> first | rfl | exact ⟨rfl, rfl⟩ | exact ⟨rfl, rfl, rfl⟩ | exact ⟨rfl, rfl, rfl, rfl⟩)
    | (intro x; refine (fun hx : Keeps 571824463871 s x => ?_) ?_; clear_value x; rotate_left; dsimp only [x]; rotate_right)
    | intro _
    | (with_reducible apply Keeps.ite)
    | lift_lets
    | split
    | dsimp only

end Sys2Proof.Machine
end

