-- ==== Sys2Proof/Laws/KeepsRegs.lean ====
section
/-! SUPPORT. What each function of Machine/Regs.lean may change. -/

namespace Sys2Proof.Machine

set_option linter.all false

theorem State.wakeUnit_keeps (s : State) (off : Nat) : Keeps 4096 s (State.wakeUnit s off) := by
  unfold State.wakeUnit
  repeat' first
    | with_reducible assumption
    | with_reducible apply Keeps.refl
    | (with_reducible apply State.setSvc_keeps (m := 4096) (by decide))
    | with_reducible exact Or.inl rfl
    | with_reducible exact Or.inl (fun _ => rfl)
    | with_reducible exact Or.inr (fun _ => rfl)
    | with_reducible exact Or.inr (fun _ => ⟨rfl, rfl⟩)
    | with_reducible exact Or.inr (fun _ => ⟨rfl, rfl, rfl⟩)
    | with_reducible exact Or.inr (fun _ => ⟨rfl, rfl, rfl, rfl⟩)
    | with_reducible exact Or.inr (fun _ => ⟨rfl, rfl, rfl, rfl, rfl, rfl, rfl, rfl, rfl⟩)
    | (refine Or.inr (fun q => ?_); (try dsimp only); split <;> first | rfl | exact ⟨rfl, rfl⟩ | exact ⟨rfl, rfl, rfl⟩ | exact ⟨rfl, rfl, rfl, rfl⟩)
    | intro _
    | (with_reducible apply Keeps.ite)
    | split
    | dsimp only

theorem State.capture_keeps (s : State) (p : Nat) (l : List (Nat × Word)) : Keeps 16 s (State.capture s p l) := by
  unfold State.capture
  repeat' first
    | (with_reducible apply Keeps.foldl)
    | with_reducible assumption
    | with_reducible apply Keeps.refl
    | (with_reducible apply Keeps.after (m := 16) (State.setPort_keeps ..) (by decide))
    | intro _
    | dsimp only

theorem State.readGroup_keeps (s : State) (p : Nat) (r : RegRow) (i : Nat) : Keeps 16 s (State.readGroup s p r i) := by
  unfold State.readGroup
  repeat' first
    | with_reducible assumption
    | with_reducible apply Keeps.refl
    | (with_reducible apply Keeps.after (m := 16) (State.capture_keeps ..) (by decide))
    | (intro x; refine (fun hx : Keeps 16 s x => ?_) ?_; clear_value x; rotate_left; dsimp only [x]; rotate_right)
    | intro _
    | (with_reducible apply Keeps.ite)
    | lift_lets
    | split
    | dsimp only

theorem State.regRead_keeps (s : State) (p : Nat) (r : RegRow) (i j addr : Nat) (clear : Bool) : Keeps 4113 s (State.regRead s p r i j addr clear).2 := by
  unfold State.regRead
  repeat' first
    | with_reducible assumption
    | with_reducible apply Keeps.refl
    | (with_reducible apply Keeps.after (m := 4113) (State.accFlag_keeps ..) (by decide))
    | (with_reducible apply Keeps.after (m := 4113) (State.wakeUnit_keeps ..) (by decide))
    | (with_reducible apply Keeps.after (m := 4113) (State.readGroup_keeps ..) (by decide))
    | (with_reducible apply Keeps.after (m := 4113) (State.setPort_keeps ..) (by decide))
    | (with_reducible apply Keeps.after (m := 4113) (State.setReg_keeps ..) (by decide))
    | (intro x; refine (fun hx : Keeps 4113 s x => ?_) ?_; clear_value x; rotate_left; dsimp only [x]; rotate_right)
    | intro _
    | (with_reducible apply Keeps.ite)
    | lift_lets
    | split
    | dsimp only

theorem State.regRead_eq {s : State} (p : Nat) (r : RegRow) (i j addr : Nat) (clear : Bool) {a} {t} (e : State.regRead s p r i j addr clear = (a, t)) : Keeps 4113 s t := by
  have h := State.regRead_keeps s p r i j addr clear
  rw [e] at h
  exact h

theorem State.aliasFirst_keeps (s : State) (p addr w o : Nat) (rest : List Nat) (m : Option (RegRow × Nat × Nat)) : Keeps 4113 s (State.aliasFirst s p addr w o rest m).2 := by
  unfold State.aliasFirst
  repeat' first
    | with_reducible assumption
    | with_reducible apply Keeps.refl
    | (with_reducible apply Keeps.after (m := 4113) (State.regRead_keeps ..) (by decide))
    | (with_reducible apply Keeps.after (m := 4113) (State.regRead_eq (e := ‹_›) ..) (by decide))
    | (with_reducible apply Keeps.after (m := 4113) (State.accFlag_keeps ..) (by decide))
    | (intro x; refine (fun hx : Keeps 4113 s x => ?_) ?_; clear_value x; rotate_left; dsimp only [x]; rotate_right)
    | intro _
    | (with_reducible apply Keeps.ite)
    | lift_lets
    | split
    | dsimp only

theorem State.aliasFirst_eq {s : State} (p addr w o : Nat) (rest : List Nat) (m : Option (RegRow × Nat × Nat)) {a} {t} (e : State.aliasFirst s p addr w o rest m = (a, t)) : Keeps 4113 s t := by
  have h := State.aliasFirst_keeps s p addr w o rest m
  rw [e] at h
  exact h

theorem State.aliasRead_keeps (s : State) (p addr w : Nat) (g : Option Nat) (o : Nat) : Keeps 4113 s (State.aliasRead s p addr w g o).2 := by
  unfold State.aliasRead
  repeat' first
    | with_reducible apply Keeps.refl
    | (with_reducible apply Keeps.after (m := 4113) (State.aliasFirst_keeps ..) (by decide))
    | (with_reducible apply Keeps.after (m := 4113) (State.aliasFirst_eq (e := ‹_›) ..) (by decide))
    | split
    | dsimp only

theorem State.aliasRead_eq {s : State} (p addr w : Nat) (g : Option Nat) (o : Nat) {a} {t} (e : State.aliasRead s p addr w g o = (a, t)) : Keeps 4113 s t := by
  have h := State.aliasRead_keeps s p addr w g o
  rw [e] at h
  exact h

theorem State.readBase_keeps (s : State) (p off : Nat) : Keeps 4113 s (State.readBase s p off).2 := by
  unfold State.readBase
  repeat' first
    | with_reducible apply Keeps.refl
    | (with_reducible apply Keeps.after (m := 4113) (State.aliasRead_keeps ..) (by decide))
    | (with_reducible apply Keeps.after (m := 4113) (State.aliasRead_eq (e := ‹_›) ..) (by decide))
    | (with_reducible apply Keeps.after (m := 4113) (State.regRead_keeps ..) (by decide))
    | (with_reducible apply Keeps.after (m := 4113) (State.regRead_eq (e := ‹_›) ..) (by decide))
    | split
    | dsimp only

theorem State.readBase_eq {s : State} (p off : Nat) {a} {t} (e : State.readBase s p off = (a, t)) : Keeps 4113 s t := by
  have h := State.readBase_keeps s p off
  rw [e] at h
  exact h

theorem State.readAt_keeps (s : State) (p off n : Nat) : Keeps 4113 s (State.readAt s p off n).2 := by
  unfold State.readAt
  repeat' first
    | with_reducible assumption
    | with_reducible apply Keeps.refl
    | (with_reducible apply Keeps.after (m := 4113) (State.accFlag_keeps ..) (by decide))
    | (with_reducible apply Keeps.after (m := 4113) (State.count_keeps ..) (by decide))
    | (with_reducible apply Keeps.after (m := 4113) (State.readBase_keeps ..) (by decide))
    | (with_reducible apply Keeps.after (m := 4113) (State.readBase_eq (e := ‹_›) ..) (by decide))
    | (intro x; refine (fun hx : Keeps 4113 s x => ?_) ?_; clear_value x; rotate_left; dsimp only [x]; rotate_right)
    | intro _
    | (with_reducible apply Keeps.ite)
    | lift_lets
    | split
    | dsimp only

theorem State.readAt_eq {s : State} (p off n : Nat) {a} {t} (e : State.readAt s p off n = (a, t)) : Keeps 4113 s t := by
  have h := State.readAt_keeps s p off n
  rw [e] at h
  exact h

theorem State.busRead_keeps (s : State) (p off n : Nat) : Keeps 266257 s (State.busRead s p off n) := by
  unfold State.busRead
  repeat' first
    | with_reducible assumption
    | with_reducible apply Keeps.refl
    | (with_reducible apply Keeps.after (m := 266257) (State.wakePort_keeps ..) (by decide))
    | (with_reducible apply Keeps.after (m := 266257) (State.readAt_keeps ..) (by decide))
    | (with_reducible apply Keeps.after (m := 266257) (State.readAt_eq (e := ‹_›) ..) (by decide))
    | (with_reducible apply Keeps.after (m := 266257) (State.emit_keeps ..) (by decide))
    | (intro x; refine (fun hx : Keeps 266257 s x => ?_) ?_; clear_value x; rotate_left; dsimp only [x]; rotate_right)
    | intro _
    | (with_reducible apply Keeps.ite)
    | lift_lets
    | split
    | dsimp only

theorem State.capPlanner_keeps (s : State) (p : Nat) : Keeps 16 s (State.capPlanner s p) := by
  unfold State.capPlanner
  repeat' first
    | with_reducible assumption
    | with_reducible apply Keeps.refl
    | (with_reducible apply Keeps.after (m := 16) (State.capture_keeps ..) (by decide))
    | (intro x; refine (fun hx : Keeps 16 s x => ?_) ?_; clear_value x; rotate_left; dsimp only [x]; rotate_right)
    | intro _
    | lift_lets
    | dsimp only

theorem State.capFrame_keeps (s : State) (p : Nat) : Keeps 16 s (State.capFrame s p) := by
  unfold State.capFrame
  repeat' first
    | with_reducible assumption
    | with_reducible apply Keeps.refl
    | (with_reducible apply Keeps.after (m := 16) (State.capture_keeps ..) (by decide))
    | (intro x; refine (fun hx : Keeps 16 s x => ?_) ?_; clear_value x; rotate_left; dsimp only [x]; rotate_right)
    | intro _
    | lift_lets
    | dsimp only

theorem State.capPeek_keeps (s : State) (p : Nat) : Keeps 16 s (State.capPeek s p) := by
  unfold State.capPeek
  repeat' first
    | with_reducible assumption
    | with_reducible apply Keeps.refl
    | (with_reducible apply Keeps.after (m := 16) (State.capture_keeps ..) (by decide))
    | (intro x; refine (fun hx : Keeps 16 s x => ?_) ?_; clear_value x; rotate_left; dsimp only [x]; rotate_right)
    | intro _
    | (with_reducible apply Keeps.ite)
    | lift_lets
    | split
    | dsimp only

theorem State.capTelem_keeps (s : State) (p : Nat) : Keeps 524304 s (State.capTelem s p) := by
  unfold State.capTelem
  repeat' first
    | with_reducible assumption
    | with_reducible apply Keeps.refl
    | (with_reducible apply Keeps.after (m := 524304) (State.capture_keeps ..) (by decide))
    | (with_reducible apply Keeps.after (m := 524304) (State.useFree_keeps ..) (by decide))
    | (intro x; refine (fun hx : Keeps 524304 s x => ?_) ?_; clear_value x; rotate_left; dsimp only [x]; rotate_right)
    | intro _
    | (with_reducible apply Keeps.ite)
    | lift_lets
    | split
    | dsimp only

theorem State.capLog_keeps (s : State) (p : Nat) : Keeps 16 s (State.capLog s p) := by
  unfold State.capLog
  repeat' first
    | with_reducible assumption
    | with_reducible apply Keeps.refl
    | (with_reducible apply Keeps.after (m := 16) (State.capture_keeps ..) (by decide))
    | (intro x; refine (fun hx : Keeps 16 s x => ?_) ?_; clear_value x; rotate_left; dsimp only [x]; rotate_right)
    | intro _
    | lift_lets
    | dsimp only

theorem State.wordAct_keeps (s : State) (p : Nat) (r : RegRow) (i j addr : Nat) (v : Word) : Keeps 841822828511 s (State.wordAct s p r i j addr v) := by
  unfold State.wordAct
  repeat' first
    | with_reducible assumption
    | with_reducible apply Keeps.refl
    | (with_reducible apply Keeps.after (m := 841822828511) (State.stewCtrl_keeps ..) (by decide))
    | (with_reducible apply Keeps.after (m := 841822828511) (State.heartbeat_keeps ..) (by decide))
    | (with_reducible apply Keeps.after (m := 841822828511) (State.ringCtrl_keeps ..) (by decide))
    | (with_reducible apply Keeps.after (m := 841822828511) (State.laneTrainCtrl_keeps ..) (by decide))
    | (with_reducible apply Keeps.after (m := 841822828511) (State.laneInjCtrl_keeps ..) (by decide))
    | (with_reducible apply Keeps.after (m := 841822828511) (State.prbsWritten_keeps ..) (by decide))
    | (with_reducible apply Keeps.after (m := 841822828511) (State.storeBits_keeps ..) (by decide))
    | (with_reducible apply Keeps.after (m := 841822828511) (State.capPlanner_keeps ..) (by decide))
    | (with_reducible apply Keeps.after (m := 841822828511) (State.capFrame_keeps ..) (by decide))
    | (with_reducible apply Keeps.after (m := 841822828511) (State.capPeek_keeps ..) (by decide))
    | (with_reducible apply Keeps.after (m := 841822828511) (State.capTelem_keeps ..) (by decide))
    | (with_reducible apply Keeps.after (m := 841822828511) (State.capLog_keeps ..) (by decide))
    | (with_reducible apply Keeps.after (m := 841822828511) (State.tobjCtrl_keeps ..) (by decide))
    | (with_reducible apply Keeps.after (m := 841822828511) (State.dirDigest_keeps ..) (by decide))
    | (with_reducible apply Keeps.after (m := 841822828511) (State.svcCtrl_keeps ..) (by decide))
    | (with_reducible apply Keeps.after (m := 841822828511) (State.cmpCtrl_keeps ..) (by decide))
    | (with_reducible apply Keeps.after (m := 841822828511) (State.probeClear_keeps ..) (by decide))
    | (with_reducible apply State.setSec_keeps (m := 841822828511) (by decide))
    | with_reducible exact Or.inl rfl
    | with_reducible exact Or.inl (fun _ => rfl)
    | with_reducible exact Or.inr (fun _ => rfl)
    | with_reducible exact Or.inr (fun _ => ⟨rfl, rfl⟩)
    | with_reducible exact Or.inr (fun _ => ⟨rfl, rfl, rfl⟩)
    | with_reducible exact Or.inr (fun _ => ⟨rfl, rfl, rfl, rfl⟩)
    | with_reducible exact Or.inr (fun _ => ⟨rfl, rfl, rfl, rfl, rfl, rfl, rfl, rfl, rfl⟩)
    | (refine Or.inr (fun q => ?_); (try dsimp only); split <;> first | rfl | exact ⟨rfl, rfl⟩ | exact ⟨rfl, rfl, rfl⟩ | exact ⟨rfl, rfl, rfl, rfl⟩)
    | intro _
    | (with_reducible apply Keeps.ite)
    | split
    | dsimp only

theorem State.pairAct_keeps (s : State) (r : RegRow) (i j : Nat) (lo hi : Word) : Keeps 295995 s (State.pairAct s r i j lo hi) := by
  unfold State.pairAct
  repeat' first
    | with_reducible apply Keeps.refl
    | (with_reducible apply Keeps.after (m := 295995) (State.ringBaseWrite_keeps ..) (by decide))
    | (with_reducible apply Keeps.after (m := 295995) (State.tcmpRearm_keeps ..) (by decide))
    | (with_reducible apply Keeps.after (m := 295995) (State.setReg_keeps ..) (by decide))
    | (with_reducible apply Keeps.after (m := 295995) (State.cmpTargetWrite_keeps ..) (by decide))
    | (with_reducible apply Keeps.after (m := 295995) (State.mchSetPos_keeps ..) (by decide))
    | (with_reducible apply Keeps.after (m := 295995) (State.storeBits_keeps ..) (by decide))
    | (with_reducible apply Keeps.ite)
    | split
    | dsimp only

theorem State.regAct_keeps (s : State) (p : Nat) (r : RegRow) (i j addr : Nat) (v : Word) : Keeps 841822828543 s (State.regAct s p r i j addr v) := by
  unfold State.regAct
  repeat' first
    | with_reducible assumption
    | with_reducible apply Keeps.refl
    | (with_reducible apply Keeps.after (m := 841822828543) (State.wordAct_keeps ..) (by decide))
    | (with_reducible apply Keeps.after (m := 841822828543) (State.setPort_keeps ..) (by decide))
    | (with_reducible apply Keeps.after (m := 841822828543) (State.pairAct_keeps ..) (by decide))
    | intro _
    | (with_reducible apply Keeps.ite)
    | split
    | dsimp only

theorem State.regWrite_keeps (s : State) (p : Nat) (r : RegRow) (i j addr : Nat) (v : Word) : Keeps 841822828543 s (State.regWrite s p r i j addr v) := by
  unfold State.regWrite
  repeat' first
    | with_reducible assumption
    | with_reducible apply Keeps.refl
    | (with_reducible apply Keeps.after (m := 841822828543) (State.accFlag_keeps ..) (by decide))
    | (with_reducible apply State.setSvc_keeps (m := 841822828543) (by decide))
    | (with_reducible apply Keeps.after (m := 841822828543) (State.regAct_keeps ..) (by decide))
    | (with_reducible apply Keeps.after (m := 841822828543) (State.wakeUnit_keeps ..) (by decide))
    | with_reducible exact Or.inl rfl
    | with_reducible exact Or.inl (fun _ => rfl)
    | with_reducible exact Or.inr (fun _ => rfl)
    | with_reducible exact Or.inr (fun _ => ⟨rfl, rfl⟩)
    | with_reducible exact Or.inr (fun _ => ⟨rfl, rfl, rfl⟩)
    | with_reducible exact Or.inr (fun _ => ⟨rfl, rfl, rfl, rfl⟩)
    | with_reducible exact Or.inr (fun _ => ⟨rfl, rfl, rfl, rfl, rfl, rfl, rfl, rfl, rfl⟩)
    | (refine Or.inr (fun q => ?_); (try dsimp only); split <;> first | rfl | exact ⟨rfl, rfl⟩ | exact ⟨rfl, rfl, rfl⟩ | exact ⟨rfl, rfl, rfl, rfl⟩)
    | intro _
    | (with_reducible apply Keeps.ite)
    | split
    | dsimp only

theorem State.writeAt_keeps (s : State) (p off : Nat) (v : Word) : Keeps 841822828543 s (State.writeAt s p off v) := by
  unfold State.writeAt
  repeat' first
    | (with_reducible apply Keeps.foldl)
    | with_reducible assumption
    | with_reducible apply Keeps.refl
    | (with_reducible apply Keeps.after (m := 841822828543) (State.regWrite_keeps ..) (by decide))
    | intro _
    | split
    | dsimp only

theorem State.busWrite_keeps (s : State) (p off n : Nat) (v : Word) : Keeps 841822828543 s (State.busWrite s p off n v) := by
  unfold State.busWrite
  repeat' first
    | with_reducible assumption
    | with_reducible apply Keeps.refl
    | (with_reducible apply Keeps.after (m := 841822828543) (State.wakePort_keeps ..) (by decide))
    | (with_reducible apply Keeps.after (m := 841822828543) (State.accFlag_keeps ..) (by decide))
    | (with_reducible apply State.onWrite_keeps (mk := 841822828543) (by decide))
    | (with_reducible apply Keeps.after (m := 841822828543) (State.writeAt_keeps ..) (by decide))
    | (intro x; refine (fun hx : Keeps 841822828543 s x => ?_) ?_; clear_value x; rotate_left; dsimp only [x]; rotate_right)
    | intro _
    | (with_reducible apply Keeps.ite)
    | lift_lets
    | split
    | dsimp only

theorem State.writeQueued_keeps (s : State) (e : Nat × Nat × Word) : Keeps 841822828543 s (State.writeQueued s e) := by
  unfold State.writeQueued
  repeat' first
    | with_reducible apply Keeps.refl
    | (with_reducible apply Keeps.after (m := 841822828543) (State.regAct_keeps ..) (by decide))
    | split
    | dsimp only

theorem State.lockstepResume_keeps (s : State) : Keeps 841822894079 s (State.lockstepResume s) := by
  unfold State.lockstepResume
  repeat' first
    | (with_reducible apply Keeps.foldl)
    | with_reducible assumption
    | with_reducible apply Keeps.refl
    | (with_reducible apply Keeps.after (m := 841822894079) (State.recoveryEnd_keeps ..) (by decide))
    | (with_reducible apply State.setSvc_keeps (m := 841822894079) (by decide))
    | (with_reducible apply Keeps.after (m := 841822894079) (State.takeCkpt_keeps ..) (by decide))
    | (with_reducible apply Keeps.after (m := 841822894079) (State.writeQueued_keeps ..) (by decide))
    | with_reducible exact Or.inl rfl
    | with_reducible exact Or.inl (fun _ => rfl)
    | with_reducible exact Or.inr (fun _ => rfl)
    | with_reducible exact Or.inr (fun _ => ⟨rfl, rfl⟩)
    | with_reducible exact Or.inr (fun _ => ⟨rfl, rfl, rfl⟩)
    | with_reducible exact Or.inr (fun _ => ⟨rfl, rfl, rfl, rfl⟩)
    | with_reducible exact Or.inr (fun _ => ⟨rfl, rfl, rfl, rfl, rfl, rfl, rfl, rfl, rfl⟩)
    | (refine Or.inr (fun q => ?_); (try dsimp only); split <;> first | rfl | exact ⟨rfl, rfl⟩ | exact ⟨rfl, rfl, rfl⟩ | exact ⟨rfl, rfl, rfl, rfl⟩)
    | (intro x; refine (fun hx : Keeps 841822894079 s x => ?_) ?_; clear_value x; rotate_left; dsimp only [x]; rotate_right)
    | intro _
    | (with_reducible apply Keeps.ite)
    | lift_lets
    | split
    | dsimp only

theorem State.rowRead_keeps (s : State) (p : Nat) (r : RegRow) (i : Nat) : Keeps 266257 s (State.rowRead s p r i) := by
  unfold State.rowRead
  repeat' first
    | with_reducible apply Keeps.refl
    | (with_reducible apply Keeps.after (m := 266257) (State.busRead_keeps ..) (by decide))
    | (with_reducible apply Keeps.ite)
    | split
    | dsimp only

theorem State.rowWrite_keeps (s : State) (p : Nat) (r : RegRow) (i : Nat) (v : Word) : Keeps 841822828543 s (State.rowWrite s p r i v) := by
  unfold State.rowWrite
  repeat' first
    | with_reducible assumption
    | with_reducible apply Keeps.refl
    | (with_reducible apply State.onWrite_keeps (mk := 841822828543) (by decide))
    | (with_reducible apply Keeps.after (m := 841822828543) (State.regWrite_keeps ..) (by decide))
    | intro _
    | (with_reducible apply Keeps.ite)
    | split
    | dsimp only

theorem State.wakeFail_keeps (s : State) (p off : Nat) (write : Bool) : Keeps 262160 s (State.wakeFail s p off write) := by
  unfold State.wakeFail
  repeat' first
    | with_reducible assumption
    | with_reducible apply Keeps.refl
    | (with_reducible apply Keeps.after (m := 262160) (State.wakePort_keeps ..) (by decide))
    | (with_reducible apply Keeps.after (m := 262160) (State.accFlag_keeps ..) (by decide))
    | (with_reducible apply Keeps.after (m := 262160) (State.emit_keeps ..) (by decide))
    | (intro x; refine (fun hx : Keeps 262160 s x => ?_) ?_; clear_value x; rotate_left; dsimp only [x]; rotate_right)
    | intro _
    | (with_reducible apply Keeps.ite)
    | lift_lets
    | split
    | dsimp only

theorem execAccessStatusRead_keeps (p : Nat) (s : State) {nxt : State} (e : execAccessStatusRead p s = .next nxt) : Keeps 266257 s nxt := by
  unfold execAccessStatusRead at e
  first | refine Keeps.go ?_ e | refine Keeps.goRead ?_ e | cases e
  try dsimp only
  repeat' first
    | with_reducible assumption
    | with_reducible apply Keeps.refl
    | (with_reducible apply Keeps.after (m := 266257) (State.rowRead_keeps ..) (by decide))
    | intro _
    | dsimp only

theorem execAliasRead_keeps (p off n : Nat) (s : State) {nxt : State} (e : execAliasRead p off n s = .next nxt) : Keeps 266257 s nxt := by
  unfold execAliasRead at e
  first | refine Keeps.go ?_ e | refine Keeps.goRead ?_ e | cases e
  try dsimp only
  repeat' first
    | with_reducible assumption
    | with_reducible apply Keeps.refl
    | (with_reducible apply Keeps.after (m := 266257) (State.busRead_keeps ..) (by decide))
    | intro _
    | (with_reducible apply Keeps.ite)
    | split
    | dsimp only

theorem execAliasWrite_keeps (p off : Nat) (v : Word) (s : State) {nxt : State} (e : execAliasWrite p off v s = .next nxt) : Keeps 841822828543 s nxt := by
  unfold execAliasWrite at e
  first | refine Keeps.go ?_ e | refine Keeps.goRead ?_ e | cases e
  try dsimp only
  repeat' first
    | with_reducible assumption
    | with_reducible apply Keeps.refl
    | (with_reducible apply Keeps.after (m := 841822828543) (State.busWrite_keeps ..) (by decide))
    | intro _
    | (with_reducible apply Keeps.ite)
    | split
    | dsimp only

theorem execCfgPeekAddrWrite_keeps (p : Nat) (v : Word) (s : State) {nxt : State} (e : execCfgPeekAddrWrite p v s = .next nxt) : Keeps 841822828543 s nxt := by
  unfold execCfgPeekAddrWrite at e
  first | refine Keeps.go ?_ e | refine Keeps.goRead ?_ e | cases e
  try dsimp only
  repeat' first
    | with_reducible assumption
    | with_reducible apply Keeps.refl
    | (with_reducible apply Keeps.after (m := 841822828543) (State.rowWrite_keeps ..) (by decide))
    | intro _
    | dsimp only

theorem execClaim_keeps (p : Nat) (s : State) {nxt : State} (e : execClaim p s = .next nxt) : Keeps 841822828543 s nxt := by
  unfold execClaim at e
  first | refine Keeps.go ?_ e | refine Keeps.goRead ?_ e | cases e
  try dsimp only
  repeat' first
    | with_reducible assumption
    | with_reducible apply Keeps.refl
    | (with_reducible apply Keeps.after (m := 841822828543) (State.rowWrite_keeps ..) (by decide))
    | intro _
    | dsimp only

theorem execClockRegate_keeps (s : State) {nxt : State} (e : execClockRegate s = .next nxt) : Keeps 4096 s nxt := by
  unfold execClockRegate at e
  first | refine Keeps.go ?_ e | refine Keeps.goRead ?_ e | cases e
  try dsimp only
  repeat' first
    | with_reducible assumption
    | with_reducible apply Keeps.refl
    | (with_reducible apply State.setSvc_keeps (m := 4096) (by decide))
    | with_reducible exact Or.inl rfl
    | with_reducible exact Or.inl (fun _ => rfl)
    | with_reducible exact Or.inr (fun _ => rfl)
    | with_reducible exact Or.inr (fun _ => ⟨rfl, rfl⟩)
    | with_reducible exact Or.inr (fun _ => ⟨rfl, rfl, rfl⟩)
    | with_reducible exact Or.inr (fun _ => ⟨rfl, rfl, rfl, rfl⟩)
    | with_reducible exact Or.inr (fun _ => ⟨rfl, rfl, rfl, rfl, rfl, rfl, rfl, rfl, rfl⟩)
    | intro _
    | dsimp only

theorem execCmpEnable_keeps (p u : Nat) (v : Word) (s : State) {nxt : State} (e : execCmpEnable p u v s = .next nxt) : Keeps 841822828543 s nxt := by
  unfold execCmpEnable at e
  first | refine Keeps.go ?_ e | refine Keeps.goRead ?_ e | cases e
  try dsimp only
  repeat' first
    | with_reducible assumption
    | with_reducible apply Keeps.refl
    | (with_reducible apply Keeps.after (m := 841822828543) (State.rowWrite_keeps ..) (by decide))
    | intro _
    | dsimp only

theorem execCmpTargetHiWrite_keeps (p u : Nat) (v : Word) (s : State) {nxt : State} (e : execCmpTargetHiWrite p u v s = .next nxt) : Keeps 841822828543 s nxt := by
  unfold execCmpTargetHiWrite at e
  first | refine Keeps.go ?_ e | refine Keeps.goRead ?_ e | cases e
  try dsimp only
  repeat' first
    | with_reducible assumption
    | with_reducible apply Keeps.refl
    | (with_reducible apply Keeps.after (m := 841822828543) (State.rowWrite_keeps ..) (by decide))
    | intro _
    | dsimp only

theorem execFlaggedRegisterRead_keeps (p off n : Nat) (s : State) {nxt : State} (e : execFlaggedRegisterRead p off n s = .next nxt) : Keeps 266257 s nxt := by
  unfold execFlaggedRegisterRead at e
  first | refine Keeps.go ?_ e | refine Keeps.goRead ?_ e | cases e
  try dsimp only
  repeat' first
    | with_reducible assumption
    | with_reducible apply Keeps.refl
    | (with_reducible apply Keeps.after (m := 266257) (State.busRead_keeps ..) (by decide))
    | intro _
    | dsimp only

theorem execHeartbeat_keeps (p : Nat) (s : State) {nxt : State} (e : execHeartbeat p s = .next nxt) : Keeps 841822828543 s nxt := by
  unfold execHeartbeat at e
  first | refine Keeps.go ?_ e | refine Keeps.goRead ?_ e | cases e
  try dsimp only
  repeat' first
    | with_reducible assumption
    | with_reducible apply Keeps.refl
    | (with_reducible apply Keeps.after (m := 841822828543) (State.rowWrite_keeps ..) (by decide))
    | intro _
    | dsimp only

theorem execInjectionGo_keeps (p n : Nat) (v : Word) (s : State) {nxt : State} (e : execInjectionGo p n v s = .next nxt) : Keeps 841822828543 s nxt := by
  unfold execInjectionGo at e
  first | refine Keeps.go ?_ e | refine Keeps.goRead ?_ e | cases e
  try dsimp only
  repeat' first
    | with_reducible assumption
    | with_reducible apply Keeps.refl
    | (with_reducible apply Keeps.after (m := 841822828543) (State.rowWrite_keeps ..) (by decide))
    | intro _
    | dsimp only

theorem execInjectionStop_keeps (p n : Nat) (v : Word) (s : State) {nxt : State} (e : execInjectionStop p n v s = .next nxt) : Keeps 841822828543 s nxt := by
  unfold execInjectionStop at e
  first | refine Keeps.go ?_ e | refine Keeps.goRead ?_ e | cases e
  try dsimp only
  repeat' first
    | with_reducible assumption
    | with_reducible apply Keeps.refl
    | (with_reducible apply Keeps.after (m := 841822828543) (State.rowWrite_keeps ..) (by decide))
    | intro _
    | dsimp only

theorem execLockstepResume_keeps (s : State) {nxt : State} (e : execLockstepResume s = .next nxt) : Keeps 841822894079 s nxt := by
  unfold execLockstepResume at e
  first | refine Keeps.go ?_ e | refine Keeps.goRead ?_ e | cases e
  try dsimp only
  repeat' first
    | with_reducible assumption
    | with_reducible apply Keeps.refl
    | (with_reducible apply Keeps.after (m := 841822894079) (State.lockstepResume_keeps ..) (by decide))
    | intro _
    | dsimp only

theorem execMchPosLoRead_keeps (p ch : Nat) (s : State) {nxt : State} (e : execMchPosLoRead p ch s = .next nxt) : Keeps 266257 s nxt := by
  unfold execMchPosLoRead at e
  first | refine Keeps.go ?_ e | refine Keeps.goRead ?_ e | cases e
  try dsimp only
  repeat' first
    | with_reducible assumption
    | with_reducible apply Keeps.refl
    | (with_reducible apply Keeps.after (m := 266257) (State.rowRead_keeps ..) (by decide))
    | intro _
    | dsimp only

theorem execMchSetPosHiWrite_keeps (p ch : Nat) (v : Word) (s : State) {nxt : State} (e : execMchSetPosHiWrite p ch v s = .next nxt) : Keeps 841822828543 s nxt := by
  unfold execMchSetPosHiWrite at e
  first | refine Keeps.go ?_ e | refine Keeps.goRead ?_ e | cases e
  try dsimp only
  repeat' first
    | with_reducible assumption
    | with_reducible apply Keeps.refl
    | (with_reducible apply Keeps.after (m := 841822828543) (State.rowWrite_keeps ..) (by decide))
    | intro _
    | dsimp only

theorem execPlnResSelWrite_keeps (p : Nat) (v : Word) (s : State) {nxt : State} (e : execPlnResSelWrite p v s = .next nxt) : Keeps 841822828543 s nxt := by
  unfold execPlnResSelWrite at e
  first | refine Keeps.go ?_ e | refine Keeps.goRead ?_ e | cases e
  try dsimp only
  repeat' first
    | with_reducible assumption
    | with_reducible apply Keeps.refl
    | (with_reducible apply Keeps.after (m := 841822828543) (State.rowWrite_keeps ..) (by decide))
    | intro _
    | dsimp only

theorem execPrbTimeLoRead_keeps (p k : Nat) (s : State) {nxt : State} (e : execPrbTimeLoRead p k s = .next nxt) : Keeps 266257 s nxt := by
  unfold execPrbTimeLoRead at e
  first | refine Keeps.go ?_ e | refine Keeps.goRead ?_ e | cases e
  try dsimp only
  repeat' first
    | with_reducible assumption
    | with_reducible apply Keeps.refl
    | (with_reducible apply Keeps.after (m := 266257) (State.rowRead_keeps ..) (by decide))
    | intro _
    | dsimp only

theorem execProbeValidClear_keeps (p k : Nat) (s : State) {nxt : State} (e : execProbeValidClear p k s = .next nxt) : Keeps 841822828543 s nxt := by
  unfold execProbeValidClear at e
  first | refine Keeps.go ?_ e | refine Keeps.goRead ?_ e | cases e
  try dsimp only
  repeat' first
    | with_reducible assumption
    | with_reducible apply Keeps.refl
    | (with_reducible apply Keeps.after (m := 841822828543) (State.rowWrite_keeps ..) (by decide))
    | intro _
    | dsimp only

theorem execRcRegisterRead_keeps (p off n : Nat) (s : State) {nxt : State} (e : execRcRegisterRead p off n s = .next nxt) : Keeps 266257 s nxt := by
  unfold execRcRegisterRead at e
  first | refine Keeps.go ?_ e | refine Keeps.goRead ?_ e | cases e
  try dsimp only
  repeat' first
    | with_reducible assumption
    | with_reducible apply Keeps.refl
    | (with_reducible apply Keeps.after (m := 266257) (State.busRead_keeps ..) (by decide))
    | intro _
    | (with_reducible apply Keeps.ite)
    | split
    | dsimp only

theorem execRegPairHiWrite_keeps (p off : Nat) (v : Word) (s : State) {nxt : State} (e : execRegPairHiWrite p off v s = .next nxt) : Keeps 841822828543 s nxt := by
  unfold execRegPairHiWrite at e
  first | refine Keeps.go ?_ e | refine Keeps.goRead ?_ e | cases e
  try dsimp only
  repeat' first
    | with_reducible assumption
    | with_reducible apply Keeps.refl
    | (with_reducible apply Keeps.after (m := 841822828543) (State.busWrite_keeps ..) (by decide))
    | intro _
    | (with_reducible apply Keeps.ite)
    | split
    | dsimp only

theorem execRegPairLoRead_keeps (p off n : Nat) (s : State) {nxt : State} (e : execRegPairLoRead p off n s = .next nxt) : Keeps 266257 s nxt := by
  unfold execRegPairLoRead at e
  first | refine Keeps.go ?_ e | refine Keeps.goRead ?_ e | cases e
  try dsimp only
  repeat' first
    | with_reducible assumption
    | with_reducible apply Keeps.refl
    | (with_reducible apply Keeps.after (m := 266257) (State.busRead_keeps ..) (by decide))
    | intro _
    | (with_reducible apply Keeps.ite)
    | split
    | dsimp only

theorem execRegPairLoWrite_keeps (p off : Nat) (v : Word) (s : State) {nxt : State} (e : execRegPairLoWrite p off v s = .next nxt) : Keeps 841822828543 s nxt := by
  unfold execRegPairLoWrite at e
  first | refine Keeps.go ?_ e | refine Keeps.goRead ?_ e | cases e
  try dsimp only
  repeat' first
    | with_reducible assumption
    | with_reducible apply Keeps.refl
    | (with_reducible apply Keeps.after (m := 841822828543) (State.busWrite_keeps ..) (by decide))
    | intro _
    | (with_reducible apply Keeps.ite)
    | split
    | dsimp only

theorem execRegisterWrite_keeps (p off n : Nat) (v : Word) (s : State) {nxt : State} (e : execRegisterWrite p off n v s = .next nxt) : Keeps 841822828543 s nxt := by
  unfold execRegisterWrite at e
  first | refine Keeps.go ?_ e | refine Keeps.goRead ?_ e | cases e
  try dsimp only
  repeat' first
    | with_reducible assumption
    | with_reducible apply Keeps.refl
    | (with_reducible apply Keeps.after (m := 841822828543) (State.busWrite_keeps ..) (by decide))
    | intro _
    | dsimp only

theorem execRelease_keeps (p : Nat) (s : State) {nxt : State} (e : execRelease p s = .next nxt) : Keeps 841822828543 s nxt := by
  unfold execRelease at e
  first | refine Keeps.go ?_ e | refine Keeps.goRead ?_ e | cases e
  try dsimp only
  repeat' first
    | with_reducible assumption
    | with_reducible apply Keeps.refl
    | (with_reducible apply Keeps.after (m := 841822828543) (State.rowWrite_keeps ..) (by decide))
    | intro _
    | dsimp only

theorem execRetrain_keeps (p n : Nat) (v : Word) (s : State) {nxt : State} (e : execRetrain p n v s = .next nxt) : Keeps 841822828543 s nxt := by
  unfold execRetrain at e
  first | refine Keeps.go ?_ e | refine Keeps.goRead ?_ e | cases e
  try dsimp only
  repeat' first
    | with_reducible assumption
    | with_reducible apply Keeps.refl
    | (with_reducible apply Keeps.after (m := 841822828543) (State.rowWrite_keeps ..) (by decide))
    | intro _
    | dsimp only

theorem execRingAbort_keeps (p n : Nat) (v : Word) (s : State) {nxt : State} (e : execRingAbort p n v s = .next nxt) : Keeps 841822828543 s nxt := by
  unfold execRingAbort at e
  first | refine Keeps.go ?_ e | refine Keeps.goRead ?_ e | cases e
  try dsimp only
  repeat' first
    | with_reducible assumption
    | with_reducible apply Keeps.refl
    | (with_reducible apply Keeps.after (m := 841822828543) (State.rowWrite_keeps ..) (by decide))
    | intro _
    | dsimp only

theorem execRingEnable_keeps (p n : Nat) (v : Word) (s : State) {nxt : State} (e : execRingEnable p n v s = .next nxt) : Keeps 841822828543 s nxt := by
  unfold execRingEnable at e
  first | refine Keeps.go ?_ e | refine Keeps.goRead ?_ e | cases e
  try dsimp only
  repeat' first
    | with_reducible assumption
    | with_reducible apply Keeps.refl
    | (with_reducible apply Keeps.after (m := 841822828543) (State.rowWrite_keeps ..) (by decide))
    | intro _
    | dsimp only

theorem execRingResume_keeps (p n : Nat) (v : Word) (s : State) {nxt : State} (e : execRingResume p n v s = .next nxt) : Keeps 841822828543 s nxt := by
  unfold execRingResume at e
  first | refine Keeps.go ?_ e | refine Keeps.goRead ?_ e | cases e
  try dsimp only
  repeat' first
    | with_reducible assumption
    | with_reducible apply Keeps.refl
    | (with_reducible apply Keeps.after (m := 841822828543) (State.rowWrite_keeps ..) (by decide))
    | intro _
    | dsimp only

theorem execStoreFrSelWrite_keeps (p : Nat) (v : Word) (s : State) {nxt : State} (e : execStoreFrSelWrite p v s = .next nxt) : Keeps 841822828543 s nxt := by
  unfold execStoreFrSelWrite at e
  first | refine Keeps.go ?_ e | refine Keeps.goRead ?_ e | cases e
  try dsimp only
  repeat' first
    | with_reducible assumption
    | with_reducible apply Keeps.refl
    | (with_reducible apply Keeps.after (m := 841822828543) (State.rowWrite_keeps ..) (by decide))
    | intro _
    | dsimp only

theorem execSvcAbort_keeps (p k : Nat) (v : Word) (s : State) {nxt : State} (e : execSvcAbort p k v s = .next nxt) : Keeps 841822828543 s nxt := by
  unfold execSvcAbort at e
  first | refine Keeps.go ?_ e | refine Keeps.goRead ?_ e | cases e
  try dsimp only
  repeat' first
    | with_reducible assumption
    | with_reducible apply Keeps.refl
    | (with_reducible apply Keeps.after (m := 841822828543) (State.rowWrite_keeps ..) (by decide))
    | intro _
    | dsimp only

theorem execSvcGo_keeps (p k : Nat) (v : Word) (s : State) {nxt : State} (e : execSvcGo p k v s = .next nxt) : Keeps 841822828543 s nxt := by
  unfold execSvcGo at e
  first | refine Keeps.go ?_ e | refine Keeps.goRead ?_ e | cases e
  try dsimp only
  repeat' first
    | with_reducible assumption
    | with_reducible apply Keeps.refl
    | (with_reducible apply Keeps.after (m := 841822828543) (State.rowWrite_keeps ..) (by decide))
    | intro _
    | dsimp only

theorem execSvcLogSelWrite_keeps (p : Nat) (v : Word) (s : State) {nxt : State} (e : execSvcLogSelWrite p v s = .next nxt) : Keeps 841822828543 s nxt := by
  unfold execSvcLogSelWrite at e
  first | refine Keeps.go ?_ e | refine Keeps.goRead ?_ e | cases e
  try dsimp only
  repeat' first
    | with_reducible assumption
    | with_reducible apply Keeps.refl
    | (with_reducible apply Keeps.after (m := 841822828543) (State.rowWrite_keeps ..) (by decide))
    | intro _
    | dsimp only

theorem execSvcPortRead_keeps (off : Nat) (s : State) {nxt : State} (e : execSvcPortRead off s = .next nxt) : Keeps 266257 s nxt := by
  unfold execSvcPortRead at e
  first | refine Keeps.go ?_ e | refine Keeps.goRead ?_ e | cases e
  try dsimp only
  repeat' first
    | with_reducible assumption
    | with_reducible apply Keeps.refl
    | (with_reducible apply Keeps.after (m := 266257) (State.readAt_keeps ..) (by decide))
    | (with_reducible apply Keeps.after (m := 266257) (State.readAt_eq (e := ‹_›) ..) (by decide))
    | (with_reducible apply Keeps.after (m := 266257) (State.emit_keeps ..) (by decide))
    | (intro x; refine (fun hx : Keeps 266257 s x => ?_) ?_; clear_value x; rotate_left; dsimp only [x]; rotate_right)
    | intro _
    | lift_lets
    | dsimp only

theorem execSvcTelemSelWrite_keeps (p : Nat) (v : Word) (s : State) {nxt : State} (e : execSvcTelemSelWrite p v s = .next nxt) : Keeps 841822828543 s nxt := by
  unfold execSvcTelemSelWrite at e
  first | refine Keeps.go ?_ e | refine Keeps.goRead ?_ e | cases e
  try dsimp only
  repeat' first
    | with_reducible assumption
    | with_reducible apply Keeps.refl
    | (with_reducible apply Keeps.after (m := 841822828543) (State.rowWrite_keeps ..) (by decide))
    | intro _
    | dsimp only

theorem execTcmpTargetHiWrite_keeps (p u : Nat) (v : Word) (s : State) {nxt : State} (e : execTcmpTargetHiWrite p u v s = .next nxt) : Keeps 841822828543 s nxt := by
  unfold execTcmpTargetHiWrite at e
  first | refine Keeps.go ?_ e | refine Keeps.goRead ?_ e | cases e
  try dsimp only
  repeat' first
    | with_reducible assumption
    | with_reducible apply Keeps.refl
    | (with_reducible apply Keeps.after (m := 841822828543) (State.rowWrite_keeps ..) (by decide))
    | intro _
    | dsimp only

theorem execTimeSnapLinLoRead_keeps (p : Nat) (s : State) {nxt : State} (e : execTimeSnapLinLoRead p s = .next nxt) : Keeps 266257 s nxt := by
  unfold execTimeSnapLinLoRead at e
  first | refine Keeps.go ?_ e | refine Keeps.goRead ?_ e | cases e
  try dsimp only
  repeat' first
    | with_reducible assumption
    | with_reducible apply Keeps.refl
    | (with_reducible apply Keeps.after (m := 266257) (State.rowRead_keeps ..) (by decide))
    | intro _
    | dsimp only

theorem execTobjAlloc_keeps (p : Nat) (s : State) {nxt : State} (e : execTobjAlloc p s = .next nxt) : Keeps 841822828543 s nxt := by
  unfold execTobjAlloc at e
  first | refine Keeps.go ?_ e | refine Keeps.goRead ?_ e | cases e
  try dsimp only
  repeat' first
    | with_reducible assumption
    | with_reducible apply Keeps.refl
    | (with_reducible apply Keeps.after (m := 841822828543) (State.rowWrite_keeps ..) (by decide))
    | intro _
    | dsimp only

theorem execTobjDirDigestWrite_keeps (p i : Nat) (s : State) {nxt : State} (e : execTobjDirDigestWrite p i s = .next nxt) : Keeps 841822828543 s nxt := by
  unfold execTobjDirDigestWrite at e
  first | refine Keeps.go ?_ e | refine Keeps.goRead ?_ e | cases e
  try dsimp only
  repeat' first
    | with_reducible assumption
    | with_reducible apply Keeps.refl
    | (with_reducible apply Keeps.after (m := 841822828543) (State.rowWrite_keeps ..) (by decide))
    | intro _
    | dsimp only

theorem execTobjFree_keeps (p : Nat) (s : State) {nxt : State} (e : execTobjFree p s = .next nxt) : Keeps 841822828543 s nxt := by
  unfold execTobjFree at e
  first | refine Keeps.go ?_ e | refine Keeps.goRead ?_ e | cases e
  try dsimp only
  repeat' first
    | with_reducible assumption
    | with_reducible apply Keeps.refl
    | (with_reducible apply Keeps.after (m := 841822828543) (State.rowWrite_keeps ..) (by decide))
    | intro _
    | dsimp only

theorem execTobjSeal_keeps (p : Nat) (s : State) {nxt : State} (e : execTobjSeal p s = .next nxt) : Keeps 841822828543 s nxt := by
  unfold execTobjSeal at e
  first | refine Keeps.go ?_ e | refine Keeps.goRead ?_ e | cases e
  try dsimp only
  repeat' first
    | with_reducible assumption
    | with_reducible apply Keeps.refl
    | (with_reducible apply Keeps.after (m := 841822828543) (State.rowWrite_keeps ..) (by decide))
    | intro _
    | dsimp only

theorem execWakeFail_keeps (p off : Nat) (write : Bool) (s : State) {nxt : State} (e : execWakeFail p off write s = .next nxt) : Keeps 262160 s nxt := by
  unfold execWakeFail at e
  first | refine Keeps.go ?_ e | refine Keeps.goRead ?_ e | cases e
  try dsimp only
  repeat' first
    | with_reducible assumption
    | with_reducible apply Keeps.refl
    | (with_reducible apply Keeps.after (m := 262160) (State.wakeFail_keeps ..) (by decide))
    | intro _
    | dsimp only

end Sys2Proof.Machine
end

