-- ==== Sys2Proof/Laws/Bits.lean ====
section
/-! SUPPORT. Bit fields: what a field or a bit of a masked or combined word is. -/

namespace Sys2Proof.Machine

theorem fld_eq (v : Word) (hi lo : Nat) : fld v hi lo = (v.extractLsb' lo (hi + 1 - lo)).toNat := by
  unfold fld
  rw [BitVec.extractLsb'_toNat]

/-- Two words with the same bits in a range have the same field there. -/
theorem fld_congr {v w : Word} {hi lo : Nat} (h : ∀ b, lo ≤ b → b ≤ hi → bit v b = bit w b) : fld v hi lo = fld w hi lo := by
  rw [fld_eq, fld_eq]
  congr 1
  apply BitVec.eq_of_getLsbD_eq
  intro i hi'
  rw [BitVec.getLsbD_extractLsb', BitVec.getLsbD_extractLsb']
  have := h (lo + i) (by omega) (by omega)
  unfold bit at this
  rw [this]

@[simp] theorem bit_or (v w : Word) (b : Nat) : bit (v ||| w) b = (bit v b || bit w b) := by
  unfold bit
  rw [BitVec.getLsbD_or]
@[simp] theorem bit_and (v w : Word) (b : Nat) : bit (v &&& w) b = (bit v b && bit w b) := by
  unfold bit
  rw [BitVec.getLsbD_and]
theorem bit_not (v : Word) (b : Nat) (h : b < 32) : bit (~~~ v) b = !bit v b := by
  unfold bit
  rw [BitVec.getLsbD_not]
  simp [h]

theorem bit_pow (b c : Nat) (h : b < 32) : bit (BitVec.ofNat 32 (2 ^ b)) c = decide (c = b) := by
  unfold bit
  rw [BitVec.getLsbD_ofNat, Nat.testBit_two_pow]
  by_cases e : c = b
  · simp [e, h]
  · simp [e, Ne.symm e]

/-- An event bit that is set reads 1. -/
theorem bit_or_pow (v : Word) (b : Nat) (h : b < 32) : bit (v ||| BitVec.ofNat 32 (2 ^ b)) b = true := by
  rw [bit_or, bit_pow _ _ h]
  simp

/-- A saturating 32-bit counter. -/
theorem satAdd_word (w : Word) (n : Nat) : (BitVec.ofNat 32 (satAdd 0xFFFFFFFF w.toNat n)).toNat = min 0xFFFFFFFF (w.toNat + n) := by
  rw [BitVec.toNat_ofNat, satAdd]
  omega

theorem fld_setFld_self (v : Word) (hi lo x : Nat) (h : lo ≤ hi) (h2 : hi < 32) : fld (setFld v hi lo x) hi lo = x % 2 ^ (hi + 1 - lo) := by
  unfold setFld maskOf
  generalize hn : hi + 1 - lo = n
  have hlo : lo + n ≤ 32 := by omega
  have hw : fld (v &&& ~~~ BitVec.ofNat 32 ((2 ^ n - 1) <<< lo) ||| BitVec.ofNat 32 ((x % 2 ^ n) <<< lo)) hi lo
      = ((v &&& ~~~ BitVec.ofNat 32 ((2 ^ n - 1) <<< lo) ||| BitVec.ofNat 32 ((x % 2 ^ n) <<< lo)).extractLsb' lo n).toNat := by
    rw [fld_eq, hn]
  rw [hw]
  have : (v &&& ~~~ BitVec.ofNat 32 ((2 ^ n - 1) <<< lo) ||| BitVec.ofNat 32 ((x % 2 ^ n) <<< lo)).extractLsb' lo n = BitVec.ofNat n x := by
    apply BitVec.eq_of_getLsbD_eq
    intro i hi'
    rw [BitVec.getLsbD_extractLsb', BitVec.getLsbD_or, BitVec.getLsbD_and, BitVec.getLsbD_not, BitVec.getLsbD_ofNat, BitVec.getLsbD_ofNat,
      BitVec.getLsbD_ofNat, Nat.testBit_shiftLeft, Nat.testBit_shiftLeft, Nat.testBit_two_pow_sub_one, Nat.testBit_mod_two_pow]
    have h1 : lo + i < 32 := by omega
    have h2 : lo + i - lo = i := by omega
    simp [hi', h1, h2]
  rw [this, BitVec.toNat_ofNat]

theorem bit_setFld_ne (v : Word) (hi lo x b : Nat) (h : lo ≤ hi) (hb : b < lo ∨ hi < b) : bit (setFld v hi lo x) b = bit v b := by
  unfold setFld maskOf
  generalize hn : hi + 1 - lo = n
  unfold bit
  by_cases hb32 : b < 32
  · rw [BitVec.getLsbD_or, BitVec.getLsbD_and, BitVec.getLsbD_not, BitVec.getLsbD_ofNat, BitVec.getLsbD_ofNat, Nat.testBit_shiftLeft,
      Nat.testBit_shiftLeft, Nat.testBit_two_pow_sub_one, Nat.testBit_mod_two_pow]
    rcases hb with c | c
    · have : ¬(b ≥ lo) := by omega
      simp [hb32, this]
    · have : ¬(b - lo < n) := by omega
      simp [hb32, this]
  · rw [BitVec.getLsbD_of_ge _ _ (by omega), BitVec.getLsbD_of_ge _ _ (by omega)]

theorem fld_setFld_ne (v : Word) (hi lo x hi' lo' : Nat) (h : lo ≤ hi) (hb : hi' < lo ∨ hi < lo') :
    fld (setFld v hi lo x) hi' lo' = fld v hi' lo' :=
  fld_congr (fun b h1 h2 => bit_setFld_ne v hi lo x b h (by omega))

theorem bit_setFld_self (v : Word) (b x : Nat) (h : b < 32) : bit (setFld v b b x) b = decide (x % 2 = 1) := by
  unfold setFld maskOf
  have : b + 1 - b = 1 := by omega
  rw [this, bit_or, bit_and, bit_not _ _ h]
  unfold bit
  simp only [BitVec.getLsbD_ofNat, h, decide_true, Bool.true_and, Nat.testBit_shiftLeft, ge_iff_le, Nat.le_refl, Nat.sub_self]
  simp

end Sys2Proof.Machine
end

