-- ==== Sys2Proof/Laws/Parts.lean ====
section
/-! SUPPORT. What the operations that every command uses leave as it was, one lemma for each record of the state. -/

namespace Sys2Proof.Machine

/-! orReg -/

@[simp] theorem State.orReg_cfg (s : State) (r : RegRow) (i : Nat) (m : Word) : (s.orReg r i m).cfg = s.cfg := (State.orReg_keeps ..).same .cfg rfl
@[simp] theorem State.orReg_dev (s : State) (r : RegRow) (i : Nat) (m : Word) : (s.orReg r i m).dev = s.dev := (State.orReg_keeps ..).same .dev rfl
@[simp] theorem State.orReg_rings (s : State) (r : RegRow) (i : Nat) (m : Word) : (s.orReg r i m).rings = s.rings := (State.orReg_keeps ..).same .rings rfl
@[simp] theorem State.orReg_ports (s : State) (r : RegRow) (i : Nat) (m : Word) : (s.orReg r i m).ports = s.ports := (State.orReg_keeps ..).same .ports rfl
@[simp] theorem State.orReg_time (s : State) (r : RegRow) (i : Nat) (m : Word) : (s.orReg r i m).time = s.time := (State.orReg_keeps ..).same .time rfl
@[simp] theorem State.orReg_plan (s : State) (r : RegRow) (i : Nat) (m : Word) : (s.orReg r i m).plan = s.plan := (State.orReg_keeps ..).same .plan rfl
@[simp] theorem State.orReg_link (s : State) (r : RegRow) (i : Nat) (m : Word) : (s.orReg r i m).link = s.link := (State.orReg_keeps ..).same .link rfl
@[simp] theorem State.orReg_store (s : State) (r : RegRow) (i : Nat) (m : Word) : (s.orReg r i m).store = s.store := (State.orReg_keeps ..).same .store rfl
@[simp] theorem State.orReg_takes (s : State) (r : RegRow) (i : Nat) (m : Word) : (s.orReg r i m).takes = s.takes := (State.orReg_keeps ..).same .takes rfl
@[simp] theorem State.orReg_mover (s : State) (r : RegRow) (i : Nat) (m : Word) : (s.orReg r i m).mover = s.mover := (State.orReg_keeps ..).same .mover rfl
@[simp] theorem State.orReg_mag (s : State) (r : RegRow) (i : Nat) (m : Word) : (s.orReg r i m).mag = s.mag := (State.orReg_keeps ..).same .mag rfl
@[simp] theorem State.orReg_svc (s : State) (r : RegRow) (i : Nat) (m : Word) : (s.orReg r i m).svc = s.svc := (State.orReg_keeps ..).same .svc rfl
@[simp] theorem State.orReg_obj (s : State) (r : RegRow) (i : Nat) (m : Word) : (s.orReg r i m).obj = s.obj := (State.orReg_keeps ..).same .obj rfl
@[simp] theorem State.orReg_sec (s : State) (r : RegRow) (i : Nat) (m : Word) : (s.orReg r i m).sec = s.sec := (State.orReg_keeps ..).same .sec rfl
@[simp] theorem State.orReg_motion (s : State) (r : RegRow) (i : Nat) (m : Word) : (s.orReg r i m).motion = s.motion := (State.orReg_keeps ..).same .motion rfl
@[simp] theorem State.orReg_ckpt (s : State) (r : RegRow) (i : Nat) (m : Word) : (s.orReg r i m).ckpt = s.ckpt := (State.orReg_keeps ..).same .ckpt rfl
@[simp] theorem State.orReg_hbm (s : State) (r : RegRow) (i : Nat) (m : Word) : (s.orReg r i m).hbm = s.hbm := (State.orReg_keeps ..).same .hbm rfl
@[simp] theorem State.orReg_out (s : State) (r : RegRow) (i : Nat) (m : Word) : (s.orReg r i m).out = s.out := (State.orReg_keeps ..).same .out rfl
@[simp] theorem State.orReg_free (s : State) (r : RegRow) (i : Nat) (m : Word) : (s.orReg r i m).free = s.free := (State.orReg_keeps ..).same .free rfl
@[simp] theorem State.orReg_pending (s : State) (r : RegRow) (i : Nat) (m : Word) : (s.orReg r i m).pending = s.pending := (State.orReg_keeps ..).same .pending rfl

/-! setEvt -/

@[simp] theorem State.setEvt_cfg (s : State) (r : RegRow) (i b : Nat) : (s.setEvt r i b).cfg = s.cfg := (State.setEvt_keeps ..).same .cfg rfl
@[simp] theorem State.setEvt_dev (s : State) (r : RegRow) (i b : Nat) : (s.setEvt r i b).dev = s.dev := (State.setEvt_keeps ..).same .dev rfl
@[simp] theorem State.setEvt_rings (s : State) (r : RegRow) (i b : Nat) : (s.setEvt r i b).rings = s.rings := (State.setEvt_keeps ..).same .rings rfl
@[simp] theorem State.setEvt_ports (s : State) (r : RegRow) (i b : Nat) : (s.setEvt r i b).ports = s.ports := (State.setEvt_keeps ..).same .ports rfl
@[simp] theorem State.setEvt_time (s : State) (r : RegRow) (i b : Nat) : (s.setEvt r i b).time = s.time := (State.setEvt_keeps ..).same .time rfl
@[simp] theorem State.setEvt_plan (s : State) (r : RegRow) (i b : Nat) : (s.setEvt r i b).plan = s.plan := (State.setEvt_keeps ..).same .plan rfl
@[simp] theorem State.setEvt_link (s : State) (r : RegRow) (i b : Nat) : (s.setEvt r i b).link = s.link := (State.setEvt_keeps ..).same .link rfl
@[simp] theorem State.setEvt_store (s : State) (r : RegRow) (i b : Nat) : (s.setEvt r i b).store = s.store := (State.setEvt_keeps ..).same .store rfl
@[simp] theorem State.setEvt_takes (s : State) (r : RegRow) (i b : Nat) : (s.setEvt r i b).takes = s.takes := (State.setEvt_keeps ..).same .takes rfl
@[simp] theorem State.setEvt_mover (s : State) (r : RegRow) (i b : Nat) : (s.setEvt r i b).mover = s.mover := (State.setEvt_keeps ..).same .mover rfl
@[simp] theorem State.setEvt_mag (s : State) (r : RegRow) (i b : Nat) : (s.setEvt r i b).mag = s.mag := (State.setEvt_keeps ..).same .mag rfl
@[simp] theorem State.setEvt_svc (s : State) (r : RegRow) (i b : Nat) : (s.setEvt r i b).svc = s.svc := (State.setEvt_keeps ..).same .svc rfl
@[simp] theorem State.setEvt_obj (s : State) (r : RegRow) (i b : Nat) : (s.setEvt r i b).obj = s.obj := (State.setEvt_keeps ..).same .obj rfl
@[simp] theorem State.setEvt_sec (s : State) (r : RegRow) (i b : Nat) : (s.setEvt r i b).sec = s.sec := (State.setEvt_keeps ..).same .sec rfl
@[simp] theorem State.setEvt_motion (s : State) (r : RegRow) (i b : Nat) : (s.setEvt r i b).motion = s.motion := (State.setEvt_keeps ..).same .motion rfl
@[simp] theorem State.setEvt_ckpt (s : State) (r : RegRow) (i b : Nat) : (s.setEvt r i b).ckpt = s.ckpt := (State.setEvt_keeps ..).same .ckpt rfl
@[simp] theorem State.setEvt_hbm (s : State) (r : RegRow) (i b : Nat) : (s.setEvt r i b).hbm = s.hbm := (State.setEvt_keeps ..).same .hbm rfl
@[simp] theorem State.setEvt_out (s : State) (r : RegRow) (i b : Nat) : (s.setEvt r i b).out = s.out := (State.setEvt_keeps ..).same .out rfl
@[simp] theorem State.setEvt_free (s : State) (r : RegRow) (i b : Nat) : (s.setEvt r i b).free = s.free := (State.setEvt_keeps ..).same .free rfl
@[simp] theorem State.setEvt_pending (s : State) (r : RegRow) (i b : Nat) : (s.setEvt r i b).pending = s.pending := (State.setEvt_keeps ..).same .pending rfl

/-! clrReg -/

@[simp] theorem State.clrReg_cfg (s : State) (r : RegRow) (i : Nat) (m : Word) : (s.clrReg r i m).cfg = s.cfg := (State.clrReg_keeps ..).same .cfg rfl
@[simp] theorem State.clrReg_dev (s : State) (r : RegRow) (i : Nat) (m : Word) : (s.clrReg r i m).dev = s.dev := (State.clrReg_keeps ..).same .dev rfl
@[simp] theorem State.clrReg_rings (s : State) (r : RegRow) (i : Nat) (m : Word) : (s.clrReg r i m).rings = s.rings := (State.clrReg_keeps ..).same .rings rfl
@[simp] theorem State.clrReg_ports (s : State) (r : RegRow) (i : Nat) (m : Word) : (s.clrReg r i m).ports = s.ports := (State.clrReg_keeps ..).same .ports rfl
@[simp] theorem State.clrReg_time (s : State) (r : RegRow) (i : Nat) (m : Word) : (s.clrReg r i m).time = s.time := (State.clrReg_keeps ..).same .time rfl
@[simp] theorem State.clrReg_plan (s : State) (r : RegRow) (i : Nat) (m : Word) : (s.clrReg r i m).plan = s.plan := (State.clrReg_keeps ..).same .plan rfl
@[simp] theorem State.clrReg_link (s : State) (r : RegRow) (i : Nat) (m : Word) : (s.clrReg r i m).link = s.link := (State.clrReg_keeps ..).same .link rfl
@[simp] theorem State.clrReg_store (s : State) (r : RegRow) (i : Nat) (m : Word) : (s.clrReg r i m).store = s.store := (State.clrReg_keeps ..).same .store rfl
@[simp] theorem State.clrReg_takes (s : State) (r : RegRow) (i : Nat) (m : Word) : (s.clrReg r i m).takes = s.takes := (State.clrReg_keeps ..).same .takes rfl
@[simp] theorem State.clrReg_mover (s : State) (r : RegRow) (i : Nat) (m : Word) : (s.clrReg r i m).mover = s.mover := (State.clrReg_keeps ..).same .mover rfl
@[simp] theorem State.clrReg_mag (s : State) (r : RegRow) (i : Nat) (m : Word) : (s.clrReg r i m).mag = s.mag := (State.clrReg_keeps ..).same .mag rfl
@[simp] theorem State.clrReg_svc (s : State) (r : RegRow) (i : Nat) (m : Word) : (s.clrReg r i m).svc = s.svc := (State.clrReg_keeps ..).same .svc rfl
@[simp] theorem State.clrReg_obj (s : State) (r : RegRow) (i : Nat) (m : Word) : (s.clrReg r i m).obj = s.obj := (State.clrReg_keeps ..).same .obj rfl
@[simp] theorem State.clrReg_sec (s : State) (r : RegRow) (i : Nat) (m : Word) : (s.clrReg r i m).sec = s.sec := (State.clrReg_keeps ..).same .sec rfl
@[simp] theorem State.clrReg_motion (s : State) (r : RegRow) (i : Nat) (m : Word) : (s.clrReg r i m).motion = s.motion := (State.clrReg_keeps ..).same .motion rfl
@[simp] theorem State.clrReg_ckpt (s : State) (r : RegRow) (i : Nat) (m : Word) : (s.clrReg r i m).ckpt = s.ckpt := (State.clrReg_keeps ..).same .ckpt rfl
@[simp] theorem State.clrReg_hbm (s : State) (r : RegRow) (i : Nat) (m : Word) : (s.clrReg r i m).hbm = s.hbm := (State.clrReg_keeps ..).same .hbm rfl
@[simp] theorem State.clrReg_out (s : State) (r : RegRow) (i : Nat) (m : Word) : (s.clrReg r i m).out = s.out := (State.clrReg_keeps ..).same .out rfl
@[simp] theorem State.clrReg_free (s : State) (r : RegRow) (i : Nat) (m : Word) : (s.clrReg r i m).free = s.free := (State.clrReg_keeps ..).same .free rfl
@[simp] theorem State.clrReg_pending (s : State) (r : RegRow) (i : Nat) (m : Word) : (s.clrReg r i m).pending = s.pending := (State.clrReg_keeps ..).same .pending rfl

/-! setF -/

@[simp] theorem State.setF_cfg (s : State) (r : RegRow) (i hi lo x : Nat) : (s.setF r i hi lo x).cfg = s.cfg := (State.setF_keeps ..).same .cfg rfl
@[simp] theorem State.setF_dev (s : State) (r : RegRow) (i hi lo x : Nat) : (s.setF r i hi lo x).dev = s.dev := (State.setF_keeps ..).same .dev rfl
@[simp] theorem State.setF_rings (s : State) (r : RegRow) (i hi lo x : Nat) : (s.setF r i hi lo x).rings = s.rings := (State.setF_keeps ..).same .rings rfl
@[simp] theorem State.setF_ports (s : State) (r : RegRow) (i hi lo x : Nat) : (s.setF r i hi lo x).ports = s.ports := (State.setF_keeps ..).same .ports rfl
@[simp] theorem State.setF_time (s : State) (r : RegRow) (i hi lo x : Nat) : (s.setF r i hi lo x).time = s.time := (State.setF_keeps ..).same .time rfl
@[simp] theorem State.setF_plan (s : State) (r : RegRow) (i hi lo x : Nat) : (s.setF r i hi lo x).plan = s.plan := (State.setF_keeps ..).same .plan rfl
@[simp] theorem State.setF_link (s : State) (r : RegRow) (i hi lo x : Nat) : (s.setF r i hi lo x).link = s.link := (State.setF_keeps ..).same .link rfl
@[simp] theorem State.setF_store (s : State) (r : RegRow) (i hi lo x : Nat) : (s.setF r i hi lo x).store = s.store := (State.setF_keeps ..).same .store rfl
@[simp] theorem State.setF_takes (s : State) (r : RegRow) (i hi lo x : Nat) : (s.setF r i hi lo x).takes = s.takes := (State.setF_keeps ..).same .takes rfl
@[simp] theorem State.setF_mover (s : State) (r : RegRow) (i hi lo x : Nat) : (s.setF r i hi lo x).mover = s.mover := (State.setF_keeps ..).same .mover rfl
@[simp] theorem State.setF_mag (s : State) (r : RegRow) (i hi lo x : Nat) : (s.setF r i hi lo x).mag = s.mag := (State.setF_keeps ..).same .mag rfl
@[simp] theorem State.setF_svc (s : State) (r : RegRow) (i hi lo x : Nat) : (s.setF r i hi lo x).svc = s.svc := (State.setF_keeps ..).same .svc rfl
@[simp] theorem State.setF_obj (s : State) (r : RegRow) (i hi lo x : Nat) : (s.setF r i hi lo x).obj = s.obj := (State.setF_keeps ..).same .obj rfl
@[simp] theorem State.setF_sec (s : State) (r : RegRow) (i hi lo x : Nat) : (s.setF r i hi lo x).sec = s.sec := (State.setF_keeps ..).same .sec rfl
@[simp] theorem State.setF_motion (s : State) (r : RegRow) (i hi lo x : Nat) : (s.setF r i hi lo x).motion = s.motion := (State.setF_keeps ..).same .motion rfl
@[simp] theorem State.setF_ckpt (s : State) (r : RegRow) (i hi lo x : Nat) : (s.setF r i hi lo x).ckpt = s.ckpt := (State.setF_keeps ..).same .ckpt rfl
@[simp] theorem State.setF_hbm (s : State) (r : RegRow) (i hi lo x : Nat) : (s.setF r i hi lo x).hbm = s.hbm := (State.setF_keeps ..).same .hbm rfl
@[simp] theorem State.setF_out (s : State) (r : RegRow) (i hi lo x : Nat) : (s.setF r i hi lo x).out = s.out := (State.setF_keeps ..).same .out rfl
@[simp] theorem State.setF_free (s : State) (r : RegRow) (i hi lo x : Nat) : (s.setF r i hi lo x).free = s.free := (State.setF_keeps ..).same .free rfl
@[simp] theorem State.setF_pending (s : State) (r : RegRow) (i hi lo x : Nat) : (s.setF r i hi lo x).pending = s.pending := (State.setF_keeps ..).same .pending rfl

/-! countN -/

@[simp] theorem State.countN_cfg (s : State) (r : RegRow) (i n : Nat) : (s.countN r i n).cfg = s.cfg := (State.countN_keeps ..).same .cfg rfl
@[simp] theorem State.countN_dev (s : State) (r : RegRow) (i n : Nat) : (s.countN r i n).dev = s.dev := (State.countN_keeps ..).same .dev rfl
@[simp] theorem State.countN_rings (s : State) (r : RegRow) (i n : Nat) : (s.countN r i n).rings = s.rings := (State.countN_keeps ..).same .rings rfl
@[simp] theorem State.countN_ports (s : State) (r : RegRow) (i n : Nat) : (s.countN r i n).ports = s.ports := (State.countN_keeps ..).same .ports rfl
@[simp] theorem State.countN_time (s : State) (r : RegRow) (i n : Nat) : (s.countN r i n).time = s.time := (State.countN_keeps ..).same .time rfl
@[simp] theorem State.countN_plan (s : State) (r : RegRow) (i n : Nat) : (s.countN r i n).plan = s.plan := (State.countN_keeps ..).same .plan rfl
@[simp] theorem State.countN_link (s : State) (r : RegRow) (i n : Nat) : (s.countN r i n).link = s.link := (State.countN_keeps ..).same .link rfl
@[simp] theorem State.countN_store (s : State) (r : RegRow) (i n : Nat) : (s.countN r i n).store = s.store := (State.countN_keeps ..).same .store rfl
@[simp] theorem State.countN_takes (s : State) (r : RegRow) (i n : Nat) : (s.countN r i n).takes = s.takes := (State.countN_keeps ..).same .takes rfl
@[simp] theorem State.countN_mover (s : State) (r : RegRow) (i n : Nat) : (s.countN r i n).mover = s.mover := (State.countN_keeps ..).same .mover rfl
@[simp] theorem State.countN_mag (s : State) (r : RegRow) (i n : Nat) : (s.countN r i n).mag = s.mag := (State.countN_keeps ..).same .mag rfl
@[simp] theorem State.countN_svc (s : State) (r : RegRow) (i n : Nat) : (s.countN r i n).svc = s.svc := (State.countN_keeps ..).same .svc rfl
@[simp] theorem State.countN_obj (s : State) (r : RegRow) (i n : Nat) : (s.countN r i n).obj = s.obj := (State.countN_keeps ..).same .obj rfl
@[simp] theorem State.countN_sec (s : State) (r : RegRow) (i n : Nat) : (s.countN r i n).sec = s.sec := (State.countN_keeps ..).same .sec rfl
@[simp] theorem State.countN_motion (s : State) (r : RegRow) (i n : Nat) : (s.countN r i n).motion = s.motion := (State.countN_keeps ..).same .motion rfl
@[simp] theorem State.countN_ckpt (s : State) (r : RegRow) (i n : Nat) : (s.countN r i n).ckpt = s.ckpt := (State.countN_keeps ..).same .ckpt rfl
@[simp] theorem State.countN_hbm (s : State) (r : RegRow) (i n : Nat) : (s.countN r i n).hbm = s.hbm := (State.countN_keeps ..).same .hbm rfl
@[simp] theorem State.countN_out (s : State) (r : RegRow) (i n : Nat) : (s.countN r i n).out = s.out := (State.countN_keeps ..).same .out rfl
@[simp] theorem State.countN_free (s : State) (r : RegRow) (i n : Nat) : (s.countN r i n).free = s.free := (State.countN_keeps ..).same .free rfl
@[simp] theorem State.countN_pending (s : State) (r : RegRow) (i n : Nat) : (s.countN r i n).pending = s.pending := (State.countN_keeps ..).same .pending rfl

/-! count -/

@[simp] theorem State.count_cfg (s : State) (r : RegRow) (i : Nat) : (s.count r i).cfg = s.cfg := (State.count_keeps ..).same .cfg rfl
@[simp] theorem State.count_dev (s : State) (r : RegRow) (i : Nat) : (s.count r i).dev = s.dev := (State.count_keeps ..).same .dev rfl
@[simp] theorem State.count_rings (s : State) (r : RegRow) (i : Nat) : (s.count r i).rings = s.rings := (State.count_keeps ..).same .rings rfl
@[simp] theorem State.count_ports (s : State) (r : RegRow) (i : Nat) : (s.count r i).ports = s.ports := (State.count_keeps ..).same .ports rfl
@[simp] theorem State.count_time (s : State) (r : RegRow) (i : Nat) : (s.count r i).time = s.time := (State.count_keeps ..).same .time rfl
@[simp] theorem State.count_plan (s : State) (r : RegRow) (i : Nat) : (s.count r i).plan = s.plan := (State.count_keeps ..).same .plan rfl
@[simp] theorem State.count_link (s : State) (r : RegRow) (i : Nat) : (s.count r i).link = s.link := (State.count_keeps ..).same .link rfl
@[simp] theorem State.count_store (s : State) (r : RegRow) (i : Nat) : (s.count r i).store = s.store := (State.count_keeps ..).same .store rfl
@[simp] theorem State.count_takes (s : State) (r : RegRow) (i : Nat) : (s.count r i).takes = s.takes := (State.count_keeps ..).same .takes rfl
@[simp] theorem State.count_mover (s : State) (r : RegRow) (i : Nat) : (s.count r i).mover = s.mover := (State.count_keeps ..).same .mover rfl
@[simp] theorem State.count_mag (s : State) (r : RegRow) (i : Nat) : (s.count r i).mag = s.mag := (State.count_keeps ..).same .mag rfl
@[simp] theorem State.count_svc (s : State) (r : RegRow) (i : Nat) : (s.count r i).svc = s.svc := (State.count_keeps ..).same .svc rfl
@[simp] theorem State.count_obj (s : State) (r : RegRow) (i : Nat) : (s.count r i).obj = s.obj := (State.count_keeps ..).same .obj rfl
@[simp] theorem State.count_sec (s : State) (r : RegRow) (i : Nat) : (s.count r i).sec = s.sec := (State.count_keeps ..).same .sec rfl
@[simp] theorem State.count_motion (s : State) (r : RegRow) (i : Nat) : (s.count r i).motion = s.motion := (State.count_keeps ..).same .motion rfl
@[simp] theorem State.count_ckpt (s : State) (r : RegRow) (i : Nat) : (s.count r i).ckpt = s.ckpt := (State.count_keeps ..).same .ckpt rfl
@[simp] theorem State.count_hbm (s : State) (r : RegRow) (i : Nat) : (s.count r i).hbm = s.hbm := (State.count_keeps ..).same .hbm rfl
@[simp] theorem State.count_out (s : State) (r : RegRow) (i : Nat) : (s.count r i).out = s.out := (State.count_keeps ..).same .out rfl
@[simp] theorem State.count_free (s : State) (r : RegRow) (i : Nat) : (s.count r i).free = s.free := (State.count_keeps ..).same .free rfl
@[simp] theorem State.count_pending (s : State) (r : RegRow) (i : Nat) : (s.count r i).pending = s.pending := (State.count_keeps ..).same .pending rfl

/-! set64 -/

@[simp] theorem State.set64_cfg (s : State) (lo hi : RegRow) (i v : Nat) : (s.set64 lo hi i v).cfg = s.cfg := (State.set64_keeps ..).same .cfg rfl
@[simp] theorem State.set64_dev (s : State) (lo hi : RegRow) (i v : Nat) : (s.set64 lo hi i v).dev = s.dev := (State.set64_keeps ..).same .dev rfl
@[simp] theorem State.set64_rings (s : State) (lo hi : RegRow) (i v : Nat) : (s.set64 lo hi i v).rings = s.rings := (State.set64_keeps ..).same .rings rfl
@[simp] theorem State.set64_ports (s : State) (lo hi : RegRow) (i v : Nat) : (s.set64 lo hi i v).ports = s.ports := (State.set64_keeps ..).same .ports rfl
@[simp] theorem State.set64_time (s : State) (lo hi : RegRow) (i v : Nat) : (s.set64 lo hi i v).time = s.time := (State.set64_keeps ..).same .time rfl
@[simp] theorem State.set64_plan (s : State) (lo hi : RegRow) (i v : Nat) : (s.set64 lo hi i v).plan = s.plan := (State.set64_keeps ..).same .plan rfl
@[simp] theorem State.set64_link (s : State) (lo hi : RegRow) (i v : Nat) : (s.set64 lo hi i v).link = s.link := (State.set64_keeps ..).same .link rfl
@[simp] theorem State.set64_store (s : State) (lo hi : RegRow) (i v : Nat) : (s.set64 lo hi i v).store = s.store := (State.set64_keeps ..).same .store rfl
@[simp] theorem State.set64_takes (s : State) (lo hi : RegRow) (i v : Nat) : (s.set64 lo hi i v).takes = s.takes := (State.set64_keeps ..).same .takes rfl
@[simp] theorem State.set64_mover (s : State) (lo hi : RegRow) (i v : Nat) : (s.set64 lo hi i v).mover = s.mover := (State.set64_keeps ..).same .mover rfl
@[simp] theorem State.set64_mag (s : State) (lo hi : RegRow) (i v : Nat) : (s.set64 lo hi i v).mag = s.mag := (State.set64_keeps ..).same .mag rfl
@[simp] theorem State.set64_svc (s : State) (lo hi : RegRow) (i v : Nat) : (s.set64 lo hi i v).svc = s.svc := (State.set64_keeps ..).same .svc rfl
@[simp] theorem State.set64_obj (s : State) (lo hi : RegRow) (i v : Nat) : (s.set64 lo hi i v).obj = s.obj := (State.set64_keeps ..).same .obj rfl
@[simp] theorem State.set64_sec (s : State) (lo hi : RegRow) (i v : Nat) : (s.set64 lo hi i v).sec = s.sec := (State.set64_keeps ..).same .sec rfl
@[simp] theorem State.set64_motion (s : State) (lo hi : RegRow) (i v : Nat) : (s.set64 lo hi i v).motion = s.motion := (State.set64_keeps ..).same .motion rfl
@[simp] theorem State.set64_ckpt (s : State) (lo hi : RegRow) (i v : Nat) : (s.set64 lo hi i v).ckpt = s.ckpt := (State.set64_keeps ..).same .ckpt rfl
@[simp] theorem State.set64_hbm (s : State) (lo hi : RegRow) (i v : Nat) : (s.set64 lo hi i v).hbm = s.hbm := (State.set64_keeps ..).same .hbm rfl
@[simp] theorem State.set64_out (s : State) (lo hi : RegRow) (i v : Nat) : (s.set64 lo hi i v).out = s.out := (State.set64_keeps ..).same .out rfl
@[simp] theorem State.set64_free (s : State) (lo hi : RegRow) (i v : Nat) : (s.set64 lo hi i v).free = s.free := (State.set64_keeps ..).same .free rfl
@[simp] theorem State.set64_pending (s : State) (lo hi : RegRow) (i v : Nat) : (s.set64 lo hi i v).pending = s.pending := (State.set64_keeps ..).same .pending rfl

/-! add64 -/

@[simp] theorem State.add64_cfg (s : State) (lo hi : RegRow) (i n : Nat) : (s.add64 lo hi i n).cfg = s.cfg := (State.add64_keeps ..).same .cfg rfl
@[simp] theorem State.add64_dev (s : State) (lo hi : RegRow) (i n : Nat) : (s.add64 lo hi i n).dev = s.dev := (State.add64_keeps ..).same .dev rfl
@[simp] theorem State.add64_rings (s : State) (lo hi : RegRow) (i n : Nat) : (s.add64 lo hi i n).rings = s.rings := (State.add64_keeps ..).same .rings rfl
@[simp] theorem State.add64_ports (s : State) (lo hi : RegRow) (i n : Nat) : (s.add64 lo hi i n).ports = s.ports := (State.add64_keeps ..).same .ports rfl
@[simp] theorem State.add64_time (s : State) (lo hi : RegRow) (i n : Nat) : (s.add64 lo hi i n).time = s.time := (State.add64_keeps ..).same .time rfl
@[simp] theorem State.add64_plan (s : State) (lo hi : RegRow) (i n : Nat) : (s.add64 lo hi i n).plan = s.plan := (State.add64_keeps ..).same .plan rfl
@[simp] theorem State.add64_link (s : State) (lo hi : RegRow) (i n : Nat) : (s.add64 lo hi i n).link = s.link := (State.add64_keeps ..).same .link rfl
@[simp] theorem State.add64_store (s : State) (lo hi : RegRow) (i n : Nat) : (s.add64 lo hi i n).store = s.store := (State.add64_keeps ..).same .store rfl
@[simp] theorem State.add64_takes (s : State) (lo hi : RegRow) (i n : Nat) : (s.add64 lo hi i n).takes = s.takes := (State.add64_keeps ..).same .takes rfl
@[simp] theorem State.add64_mover (s : State) (lo hi : RegRow) (i n : Nat) : (s.add64 lo hi i n).mover = s.mover := (State.add64_keeps ..).same .mover rfl
@[simp] theorem State.add64_mag (s : State) (lo hi : RegRow) (i n : Nat) : (s.add64 lo hi i n).mag = s.mag := (State.add64_keeps ..).same .mag rfl
@[simp] theorem State.add64_svc (s : State) (lo hi : RegRow) (i n : Nat) : (s.add64 lo hi i n).svc = s.svc := (State.add64_keeps ..).same .svc rfl
@[simp] theorem State.add64_obj (s : State) (lo hi : RegRow) (i n : Nat) : (s.add64 lo hi i n).obj = s.obj := (State.add64_keeps ..).same .obj rfl
@[simp] theorem State.add64_sec (s : State) (lo hi : RegRow) (i n : Nat) : (s.add64 lo hi i n).sec = s.sec := (State.add64_keeps ..).same .sec rfl
@[simp] theorem State.add64_motion (s : State) (lo hi : RegRow) (i n : Nat) : (s.add64 lo hi i n).motion = s.motion := (State.add64_keeps ..).same .motion rfl
@[simp] theorem State.add64_ckpt (s : State) (lo hi : RegRow) (i n : Nat) : (s.add64 lo hi i n).ckpt = s.ckpt := (State.add64_keeps ..).same .ckpt rfl
@[simp] theorem State.add64_hbm (s : State) (lo hi : RegRow) (i n : Nat) : (s.add64 lo hi i n).hbm = s.hbm := (State.add64_keeps ..).same .hbm rfl
@[simp] theorem State.add64_out (s : State) (lo hi : RegRow) (i n : Nat) : (s.add64 lo hi i n).out = s.out := (State.add64_keeps ..).same .out rfl
@[simp] theorem State.add64_free (s : State) (lo hi : RegRow) (i n : Nat) : (s.add64 lo hi i n).free = s.free := (State.add64_keeps ..).same .free rfl
@[simp] theorem State.add64_pending (s : State) (lo hi : RegRow) (i n : Nat) : (s.add64 lo hi i n).pending = s.pending := (State.add64_keeps ..).same .pending rfl

/-! wakePort -/

@[simp] theorem State.wakePort_cur (s : State) (p : Nat) : (s.wakePort p).cur = s.cur := (State.wakePort_keeps ..).same .cur rfl
@[simp] theorem State.wakePort_cfg (s : State) (p : Nat) : (s.wakePort p).cfg = s.cfg := (State.wakePort_keeps ..).same .cfg rfl
@[simp] theorem State.wakePort_dev (s : State) (p : Nat) : (s.wakePort p).dev = s.dev := (State.wakePort_keeps ..).same .dev rfl
@[simp] theorem State.wakePort_rings (s : State) (p : Nat) : (s.wakePort p).rings = s.rings := (State.wakePort_keeps ..).same .rings rfl
@[simp] theorem State.wakePort_time (s : State) (p : Nat) : (s.wakePort p).time = s.time := (State.wakePort_keeps ..).same .time rfl
@[simp] theorem State.wakePort_plan (s : State) (p : Nat) : (s.wakePort p).plan = s.plan := (State.wakePort_keeps ..).same .plan rfl
@[simp] theorem State.wakePort_link (s : State) (p : Nat) : (s.wakePort p).link = s.link := (State.wakePort_keeps ..).same .link rfl
@[simp] theorem State.wakePort_store (s : State) (p : Nat) : (s.wakePort p).store = s.store := (State.wakePort_keeps ..).same .store rfl
@[simp] theorem State.wakePort_takes (s : State) (p : Nat) : (s.wakePort p).takes = s.takes := (State.wakePort_keeps ..).same .takes rfl
@[simp] theorem State.wakePort_mover (s : State) (p : Nat) : (s.wakePort p).mover = s.mover := (State.wakePort_keeps ..).same .mover rfl
@[simp] theorem State.wakePort_mag (s : State) (p : Nat) : (s.wakePort p).mag = s.mag := (State.wakePort_keeps ..).same .mag rfl
@[simp] theorem State.wakePort_svc (s : State) (p : Nat) : (s.wakePort p).svc = s.svc := (State.wakePort_keeps ..).same .svc rfl
@[simp] theorem State.wakePort_obj (s : State) (p : Nat) : (s.wakePort p).obj = s.obj := (State.wakePort_keeps ..).same .obj rfl
@[simp] theorem State.wakePort_sec (s : State) (p : Nat) : (s.wakePort p).sec = s.sec := (State.wakePort_keeps ..).same .sec rfl
@[simp] theorem State.wakePort_motion (s : State) (p : Nat) : (s.wakePort p).motion = s.motion := (State.wakePort_keeps ..).same .motion rfl
@[simp] theorem State.wakePort_ckpt (s : State) (p : Nat) : (s.wakePort p).ckpt = s.ckpt := (State.wakePort_keeps ..).same .ckpt rfl
@[simp] theorem State.wakePort_hbm (s : State) (p : Nat) : (s.wakePort p).hbm = s.hbm := (State.wakePort_keeps ..).same .hbm rfl
@[simp] theorem State.wakePort_out (s : State) (p : Nat) : (s.wakePort p).out = s.out := (State.wakePort_keeps ..).same .out rfl
@[simp] theorem State.wakePort_free (s : State) (p : Nat) : (s.wakePort p).free = s.free := (State.wakePort_keeps ..).same .free rfl
@[simp] theorem State.wakePort_pending (s : State) (p : Nat) : (s.wakePort p).pending = s.pending := (State.wakePort_keeps ..).same .pending rfl

/-! signal -/

@[simp] theorem State.signal_cur (s : State) (p v : Nat) : (s.signal p v).cur = s.cur := (State.signal_keeps ..).same .cur rfl
@[simp] theorem State.signal_cfg (s : State) (p v : Nat) : (s.signal p v).cfg = s.cfg := (State.signal_keeps ..).same .cfg rfl
@[simp] theorem State.signal_dev (s : State) (p v : Nat) : (s.signal p v).dev = s.dev := (State.signal_keeps ..).same .dev rfl
@[simp] theorem State.signal_rings (s : State) (p v : Nat) : (s.signal p v).rings = s.rings := (State.signal_keeps ..).same .rings rfl
@[simp] theorem State.signal_time (s : State) (p v : Nat) : (s.signal p v).time = s.time := (State.signal_keeps ..).same .time rfl
@[simp] theorem State.signal_plan (s : State) (p v : Nat) : (s.signal p v).plan = s.plan := (State.signal_keeps ..).same .plan rfl
@[simp] theorem State.signal_link (s : State) (p v : Nat) : (s.signal p v).link = s.link := (State.signal_keeps ..).same .link rfl
@[simp] theorem State.signal_store (s : State) (p v : Nat) : (s.signal p v).store = s.store := (State.signal_keeps ..).same .store rfl
@[simp] theorem State.signal_takes (s : State) (p v : Nat) : (s.signal p v).takes = s.takes := (State.signal_keeps ..).same .takes rfl
@[simp] theorem State.signal_mover (s : State) (p v : Nat) : (s.signal p v).mover = s.mover := (State.signal_keeps ..).same .mover rfl
@[simp] theorem State.signal_mag (s : State) (p v : Nat) : (s.signal p v).mag = s.mag := (State.signal_keeps ..).same .mag rfl
@[simp] theorem State.signal_svc (s : State) (p v : Nat) : (s.signal p v).svc = s.svc := (State.signal_keeps ..).same .svc rfl
@[simp] theorem State.signal_obj (s : State) (p v : Nat) : (s.signal p v).obj = s.obj := (State.signal_keeps ..).same .obj rfl
@[simp] theorem State.signal_sec (s : State) (p v : Nat) : (s.signal p v).sec = s.sec := (State.signal_keeps ..).same .sec rfl
@[simp] theorem State.signal_motion (s : State) (p v : Nat) : (s.signal p v).motion = s.motion := (State.signal_keeps ..).same .motion rfl
@[simp] theorem State.signal_ckpt (s : State) (p v : Nat) : (s.signal p v).ckpt = s.ckpt := (State.signal_keeps ..).same .ckpt rfl
@[simp] theorem State.signal_hbm (s : State) (p v : Nat) : (s.signal p v).hbm = s.hbm := (State.signal_keeps ..).same .hbm rfl
@[simp] theorem State.signal_free (s : State) (p v : Nat) : (s.signal p v).free = s.free := (State.signal_keeps ..).same .free rfl
@[simp] theorem State.signal_pending (s : State) (p v : Nat) : (s.signal p v).pending = s.pending := (State.signal_keeps ..).same .pending rfl

/-! recSignal -/

@[simp] theorem State.recSignal_cur (s : State) (n : Nat) (irq portGroup : Bool) : (s.recSignal n irq portGroup).cur = s.cur := (State.recSignal_keeps ..).same .cur rfl
@[simp] theorem State.recSignal_cfg (s : State) (n : Nat) (irq portGroup : Bool) : (s.recSignal n irq portGroup).cfg = s.cfg := (State.recSignal_keeps ..).same .cfg rfl
@[simp] theorem State.recSignal_dev (s : State) (n : Nat) (irq portGroup : Bool) : (s.recSignal n irq portGroup).dev = s.dev := (State.recSignal_keeps ..).same .dev rfl
@[simp] theorem State.recSignal_rings (s : State) (n : Nat) (irq portGroup : Bool) : (s.recSignal n irq portGroup).rings = s.rings := (State.recSignal_keeps ..).same .rings rfl
@[simp] theorem State.recSignal_time (s : State) (n : Nat) (irq portGroup : Bool) : (s.recSignal n irq portGroup).time = s.time := (State.recSignal_keeps ..).same .time rfl
@[simp] theorem State.recSignal_plan (s : State) (n : Nat) (irq portGroup : Bool) : (s.recSignal n irq portGroup).plan = s.plan := (State.recSignal_keeps ..).same .plan rfl
@[simp] theorem State.recSignal_link (s : State) (n : Nat) (irq portGroup : Bool) : (s.recSignal n irq portGroup).link = s.link := (State.recSignal_keeps ..).same .link rfl
@[simp] theorem State.recSignal_store (s : State) (n : Nat) (irq portGroup : Bool) : (s.recSignal n irq portGroup).store = s.store := (State.recSignal_keeps ..).same .store rfl
@[simp] theorem State.recSignal_takes (s : State) (n : Nat) (irq portGroup : Bool) : (s.recSignal n irq portGroup).takes = s.takes := (State.recSignal_keeps ..).same .takes rfl
@[simp] theorem State.recSignal_mover (s : State) (n : Nat) (irq portGroup : Bool) : (s.recSignal n irq portGroup).mover = s.mover := (State.recSignal_keeps ..).same .mover rfl
@[simp] theorem State.recSignal_mag (s : State) (n : Nat) (irq portGroup : Bool) : (s.recSignal n irq portGroup).mag = s.mag := (State.recSignal_keeps ..).same .mag rfl
@[simp] theorem State.recSignal_svc (s : State) (n : Nat) (irq portGroup : Bool) : (s.recSignal n irq portGroup).svc = s.svc := (State.recSignal_keeps ..).same .svc rfl
@[simp] theorem State.recSignal_obj (s : State) (n : Nat) (irq portGroup : Bool) : (s.recSignal n irq portGroup).obj = s.obj := (State.recSignal_keeps ..).same .obj rfl
@[simp] theorem State.recSignal_sec (s : State) (n : Nat) (irq portGroup : Bool) : (s.recSignal n irq portGroup).sec = s.sec := (State.recSignal_keeps ..).same .sec rfl
@[simp] theorem State.recSignal_motion (s : State) (n : Nat) (irq portGroup : Bool) : (s.recSignal n irq portGroup).motion = s.motion := (State.recSignal_keeps ..).same .motion rfl
@[simp] theorem State.recSignal_ckpt (s : State) (n : Nat) (irq portGroup : Bool) : (s.recSignal n irq portGroup).ckpt = s.ckpt := (State.recSignal_keeps ..).same .ckpt rfl
@[simp] theorem State.recSignal_hbm (s : State) (n : Nat) (irq portGroup : Bool) : (s.recSignal n irq portGroup).hbm = s.hbm := (State.recSignal_keeps ..).same .hbm rfl
@[simp] theorem State.recSignal_free (s : State) (n : Nat) (irq portGroup : Bool) : (s.recSignal n irq portGroup).free = s.free := (State.recSignal_keeps ..).same .free rfl
@[simp] theorem State.recSignal_pending (s : State) (n : Nat) (irq portGroup : Bool) : (s.recSignal n irq portGroup).pending = s.pending := (State.recSignal_keeps ..).same .pending rfl

/-! putRec -/

@[simp] theorem State.putRec_cfg (s : State) (n : Nat) (r : Rec) (irq portGroup : Bool) : (s.putRec n r irq portGroup).cfg = s.cfg := (State.putRec_keeps ..).same .cfg rfl
@[simp] theorem State.putRec_dev (s : State) (n : Nat) (r : Rec) (irq portGroup : Bool) : (s.putRec n r irq portGroup).dev = s.dev := (State.putRec_keeps ..).same .dev rfl
@[simp] theorem State.putRec_time (s : State) (n : Nat) (r : Rec) (irq portGroup : Bool) : (s.putRec n r irq portGroup).time = s.time := (State.putRec_keeps ..).same .time rfl
@[simp] theorem State.putRec_plan (s : State) (n : Nat) (r : Rec) (irq portGroup : Bool) : (s.putRec n r irq portGroup).plan = s.plan := (State.putRec_keeps ..).same .plan rfl
@[simp] theorem State.putRec_link (s : State) (n : Nat) (r : Rec) (irq portGroup : Bool) : (s.putRec n r irq portGroup).link = s.link := (State.putRec_keeps ..).same .link rfl
@[simp] theorem State.putRec_store (s : State) (n : Nat) (r : Rec) (irq portGroup : Bool) : (s.putRec n r irq portGroup).store = s.store := (State.putRec_keeps ..).same .store rfl
@[simp] theorem State.putRec_takes (s : State) (n : Nat) (r : Rec) (irq portGroup : Bool) : (s.putRec n r irq portGroup).takes = s.takes := (State.putRec_keeps ..).same .takes rfl
@[simp] theorem State.putRec_mover (s : State) (n : Nat) (r : Rec) (irq portGroup : Bool) : (s.putRec n r irq portGroup).mover = s.mover := (State.putRec_keeps ..).same .mover rfl
@[simp] theorem State.putRec_mag (s : State) (n : Nat) (r : Rec) (irq portGroup : Bool) : (s.putRec n r irq portGroup).mag = s.mag := (State.putRec_keeps ..).same .mag rfl
@[simp] theorem State.putRec_svc (s : State) (n : Nat) (r : Rec) (irq portGroup : Bool) : (s.putRec n r irq portGroup).svc = s.svc := (State.putRec_keeps ..).same .svc rfl
@[simp] theorem State.putRec_obj (s : State) (n : Nat) (r : Rec) (irq portGroup : Bool) : (s.putRec n r irq portGroup).obj = s.obj := (State.putRec_keeps ..).same .obj rfl
@[simp] theorem State.putRec_sec (s : State) (n : Nat) (r : Rec) (irq portGroup : Bool) : (s.putRec n r irq portGroup).sec = s.sec := (State.putRec_keeps ..).same .sec rfl
@[simp] theorem State.putRec_motion (s : State) (n : Nat) (r : Rec) (irq portGroup : Bool) : (s.putRec n r irq portGroup).motion = s.motion := (State.putRec_keeps ..).same .motion rfl
@[simp] theorem State.putRec_ckpt (s : State) (n : Nat) (r : Rec) (irq portGroup : Bool) : (s.putRec n r irq portGroup).ckpt = s.ckpt := (State.putRec_keeps ..).same .ckpt rfl
@[simp] theorem State.putRec_hbm (s : State) (n : Nat) (r : Rec) (irq portGroup : Bool) : (s.putRec n r irq portGroup).hbm = s.hbm := (State.putRec_keeps ..).same .hbm rfl
@[simp] theorem State.putRec_free (s : State) (n : Nat) (r : Rec) (irq portGroup : Bool) : (s.putRec n r irq portGroup).free = s.free := (State.putRec_keeps ..).same .free rfl
@[simp] theorem State.putRec_pending (s : State) (n : Nat) (r : Rec) (irq portGroup : Bool) : (s.putRec n r irq portGroup).pending = s.pending := (State.putRec_keeps ..).same .pending rfl

/-! postCompletion -/

@[simp] theorem State.postCompletion_cfg (s : State) (n src : Nat) (r : Rec) (irq named : Bool) : (s.postCompletion n src r irq named).cfg = s.cfg := (State.postCompletion_keeps ..).same .cfg rfl
@[simp] theorem State.postCompletion_dev (s : State) (n src : Nat) (r : Rec) (irq named : Bool) : (s.postCompletion n src r irq named).dev = s.dev := (State.postCompletion_keeps ..).same .dev rfl
@[simp] theorem State.postCompletion_time (s : State) (n src : Nat) (r : Rec) (irq named : Bool) : (s.postCompletion n src r irq named).time = s.time := (State.postCompletion_keeps ..).same .time rfl
@[simp] theorem State.postCompletion_plan (s : State) (n src : Nat) (r : Rec) (irq named : Bool) : (s.postCompletion n src r irq named).plan = s.plan := (State.postCompletion_keeps ..).same .plan rfl
@[simp] theorem State.postCompletion_link (s : State) (n src : Nat) (r : Rec) (irq named : Bool) : (s.postCompletion n src r irq named).link = s.link := (State.postCompletion_keeps ..).same .link rfl
@[simp] theorem State.postCompletion_store (s : State) (n src : Nat) (r : Rec) (irq named : Bool) : (s.postCompletion n src r irq named).store = s.store := (State.postCompletion_keeps ..).same .store rfl
@[simp] theorem State.postCompletion_takes (s : State) (n src : Nat) (r : Rec) (irq named : Bool) : (s.postCompletion n src r irq named).takes = s.takes := (State.postCompletion_keeps ..).same .takes rfl
@[simp] theorem State.postCompletion_mover (s : State) (n src : Nat) (r : Rec) (irq named : Bool) : (s.postCompletion n src r irq named).mover = s.mover := (State.postCompletion_keeps ..).same .mover rfl
@[simp] theorem State.postCompletion_mag (s : State) (n src : Nat) (r : Rec) (irq named : Bool) : (s.postCompletion n src r irq named).mag = s.mag := (State.postCompletion_keeps ..).same .mag rfl
@[simp] theorem State.postCompletion_svc (s : State) (n src : Nat) (r : Rec) (irq named : Bool) : (s.postCompletion n src r irq named).svc = s.svc := (State.postCompletion_keeps ..).same .svc rfl
@[simp] theorem State.postCompletion_obj (s : State) (n src : Nat) (r : Rec) (irq named : Bool) : (s.postCompletion n src r irq named).obj = s.obj := (State.postCompletion_keeps ..).same .obj rfl
@[simp] theorem State.postCompletion_sec (s : State) (n src : Nat) (r : Rec) (irq named : Bool) : (s.postCompletion n src r irq named).sec = s.sec := (State.postCompletion_keeps ..).same .sec rfl
@[simp] theorem State.postCompletion_motion (s : State) (n src : Nat) (r : Rec) (irq named : Bool) : (s.postCompletion n src r irq named).motion = s.motion := (State.postCompletion_keeps ..).same .motion rfl
@[simp] theorem State.postCompletion_ckpt (s : State) (n src : Nat) (r : Rec) (irq named : Bool) : (s.postCompletion n src r irq named).ckpt = s.ckpt := (State.postCompletion_keeps ..).same .ckpt rfl
@[simp] theorem State.postCompletion_hbm (s : State) (n src : Nat) (r : Rec) (irq named : Bool) : (s.postCompletion n src r irq named).hbm = s.hbm := (State.postCompletion_keeps ..).same .hbm rfl
@[simp] theorem State.postCompletion_free (s : State) (n src : Nat) (r : Rec) (irq named : Bool) : (s.postCompletion n src r irq named).free = s.free := (State.postCompletion_keeps ..).same .free rfl
@[simp] theorem State.postCompletion_pending (s : State) (n src : Nat) (r : Rec) (irq named : Bool) : (s.postCompletion n src r irq named).pending = s.pending := (State.postCompletion_keeps ..).same .pending rfl

/-! postUnsolicited -/

@[simp] theorem State.postUnsolicited_cfg (s : State) (n : Nat) (r : Rec) (portGroup : Bool) : (s.postUnsolicited n r portGroup).cfg = s.cfg := (State.postUnsolicited_keeps ..).same .cfg rfl
@[simp] theorem State.postUnsolicited_dev (s : State) (n : Nat) (r : Rec) (portGroup : Bool) : (s.postUnsolicited n r portGroup).dev = s.dev := (State.postUnsolicited_keeps ..).same .dev rfl
@[simp] theorem State.postUnsolicited_time (s : State) (n : Nat) (r : Rec) (portGroup : Bool) : (s.postUnsolicited n r portGroup).time = s.time := (State.postUnsolicited_keeps ..).same .time rfl
@[simp] theorem State.postUnsolicited_plan (s : State) (n : Nat) (r : Rec) (portGroup : Bool) : (s.postUnsolicited n r portGroup).plan = s.plan := (State.postUnsolicited_keeps ..).same .plan rfl
@[simp] theorem State.postUnsolicited_link (s : State) (n : Nat) (r : Rec) (portGroup : Bool) : (s.postUnsolicited n r portGroup).link = s.link := (State.postUnsolicited_keeps ..).same .link rfl
@[simp] theorem State.postUnsolicited_store (s : State) (n : Nat) (r : Rec) (portGroup : Bool) : (s.postUnsolicited n r portGroup).store = s.store := (State.postUnsolicited_keeps ..).same .store rfl
@[simp] theorem State.postUnsolicited_takes (s : State) (n : Nat) (r : Rec) (portGroup : Bool) : (s.postUnsolicited n r portGroup).takes = s.takes := (State.postUnsolicited_keeps ..).same .takes rfl
@[simp] theorem State.postUnsolicited_mover (s : State) (n : Nat) (r : Rec) (portGroup : Bool) : (s.postUnsolicited n r portGroup).mover = s.mover := (State.postUnsolicited_keeps ..).same .mover rfl
@[simp] theorem State.postUnsolicited_mag (s : State) (n : Nat) (r : Rec) (portGroup : Bool) : (s.postUnsolicited n r portGroup).mag = s.mag := (State.postUnsolicited_keeps ..).same .mag rfl
@[simp] theorem State.postUnsolicited_svc (s : State) (n : Nat) (r : Rec) (portGroup : Bool) : (s.postUnsolicited n r portGroup).svc = s.svc := (State.postUnsolicited_keeps ..).same .svc rfl
@[simp] theorem State.postUnsolicited_obj (s : State) (n : Nat) (r : Rec) (portGroup : Bool) : (s.postUnsolicited n r portGroup).obj = s.obj := (State.postUnsolicited_keeps ..).same .obj rfl
@[simp] theorem State.postUnsolicited_sec (s : State) (n : Nat) (r : Rec) (portGroup : Bool) : (s.postUnsolicited n r portGroup).sec = s.sec := (State.postUnsolicited_keeps ..).same .sec rfl
@[simp] theorem State.postUnsolicited_motion (s : State) (n : Nat) (r : Rec) (portGroup : Bool) : (s.postUnsolicited n r portGroup).motion = s.motion := (State.postUnsolicited_keeps ..).same .motion rfl
@[simp] theorem State.postUnsolicited_ckpt (s : State) (n : Nat) (r : Rec) (portGroup : Bool) : (s.postUnsolicited n r portGroup).ckpt = s.ckpt := (State.postUnsolicited_keeps ..).same .ckpt rfl
@[simp] theorem State.postUnsolicited_hbm (s : State) (n : Nat) (r : Rec) (portGroup : Bool) : (s.postUnsolicited n r portGroup).hbm = s.hbm := (State.postUnsolicited_keeps ..).same .hbm rfl
@[simp] theorem State.postUnsolicited_free (s : State) (n : Nat) (r : Rec) (portGroup : Bool) : (s.postUnsolicited n r portGroup).free = s.free := (State.postUnsolicited_keeps ..).same .free rfl
@[simp] theorem State.postUnsolicited_pending (s : State) (n : Nat) (r : Rec) (portGroup : Bool) : (s.postUnsolicited n r portGroup).pending = s.pending := (State.postUnsolicited_keeps ..).same .pending rfl

/-! post -/

@[simp] theorem State.post_cfg (s : State) (group etype source : Nat) (pl : List (Nat × Nat × Nat)) (status : Nat) : (s.post group etype source pl status).cfg = s.cfg := (State.post_keeps ..).same .cfg rfl
@[simp] theorem State.post_dev (s : State) (group etype source : Nat) (pl : List (Nat × Nat × Nat)) (status : Nat) : (s.post group etype source pl status).dev = s.dev := (State.post_keeps ..).same .dev rfl
@[simp] theorem State.post_time (s : State) (group etype source : Nat) (pl : List (Nat × Nat × Nat)) (status : Nat) : (s.post group etype source pl status).time = s.time := (State.post_keeps ..).same .time rfl
@[simp] theorem State.post_plan (s : State) (group etype source : Nat) (pl : List (Nat × Nat × Nat)) (status : Nat) : (s.post group etype source pl status).plan = s.plan := (State.post_keeps ..).same .plan rfl
@[simp] theorem State.post_link (s : State) (group etype source : Nat) (pl : List (Nat × Nat × Nat)) (status : Nat) : (s.post group etype source pl status).link = s.link := (State.post_keeps ..).same .link rfl
@[simp] theorem State.post_store (s : State) (group etype source : Nat) (pl : List (Nat × Nat × Nat)) (status : Nat) : (s.post group etype source pl status).store = s.store := (State.post_keeps ..).same .store rfl
@[simp] theorem State.post_takes (s : State) (group etype source : Nat) (pl : List (Nat × Nat × Nat)) (status : Nat) : (s.post group etype source pl status).takes = s.takes := (State.post_keeps ..).same .takes rfl
@[simp] theorem State.post_mover (s : State) (group etype source : Nat) (pl : List (Nat × Nat × Nat)) (status : Nat) : (s.post group etype source pl status).mover = s.mover := (State.post_keeps ..).same .mover rfl
@[simp] theorem State.post_mag (s : State) (group etype source : Nat) (pl : List (Nat × Nat × Nat)) (status : Nat) : (s.post group etype source pl status).mag = s.mag := (State.post_keeps ..).same .mag rfl
@[simp] theorem State.post_svc (s : State) (group etype source : Nat) (pl : List (Nat × Nat × Nat)) (status : Nat) : (s.post group etype source pl status).svc = s.svc := (State.post_keeps ..).same .svc rfl
@[simp] theorem State.post_obj (s : State) (group etype source : Nat) (pl : List (Nat × Nat × Nat)) (status : Nat) : (s.post group etype source pl status).obj = s.obj := (State.post_keeps ..).same .obj rfl
@[simp] theorem State.post_sec (s : State) (group etype source : Nat) (pl : List (Nat × Nat × Nat)) (status : Nat) : (s.post group etype source pl status).sec = s.sec := (State.post_keeps ..).same .sec rfl
@[simp] theorem State.post_motion (s : State) (group etype source : Nat) (pl : List (Nat × Nat × Nat)) (status : Nat) : (s.post group etype source pl status).motion = s.motion := (State.post_keeps ..).same .motion rfl
@[simp] theorem State.post_ckpt (s : State) (group etype source : Nat) (pl : List (Nat × Nat × Nat)) (status : Nat) : (s.post group etype source pl status).ckpt = s.ckpt := (State.post_keeps ..).same .ckpt rfl
@[simp] theorem State.post_hbm (s : State) (group etype source : Nat) (pl : List (Nat × Nat × Nat)) (status : Nat) : (s.post group etype source pl status).hbm = s.hbm := (State.post_keeps ..).same .hbm rfl
@[simp] theorem State.post_free (s : State) (group etype source : Nat) (pl : List (Nat × Nat × Nat)) (status : Nat) : (s.post group etype source pl status).free = s.free := (State.post_keeps ..).same .free rfl
@[simp] theorem State.post_pending (s : State) (group etype source : Nat) (pl : List (Nat × Nat × Nat)) (status : Nat) : (s.post group etype source pl status).pending = s.pending := (State.post_keeps ..).same .pending rfl

/-! hpEvt -/

@[simp] theorem State.hpEvt_cfg (s : State) (p b : Nat) : (s.hpEvt p b).cfg = s.cfg := (State.hpEvt_keeps ..).same .cfg rfl
@[simp] theorem State.hpEvt_dev (s : State) (p b : Nat) : (s.hpEvt p b).dev = s.dev := (State.hpEvt_keeps ..).same .dev rfl
@[simp] theorem State.hpEvt_time (s : State) (p b : Nat) : (s.hpEvt p b).time = s.time := (State.hpEvt_keeps ..).same .time rfl
@[simp] theorem State.hpEvt_plan (s : State) (p b : Nat) : (s.hpEvt p b).plan = s.plan := (State.hpEvt_keeps ..).same .plan rfl
@[simp] theorem State.hpEvt_link (s : State) (p b : Nat) : (s.hpEvt p b).link = s.link := (State.hpEvt_keeps ..).same .link rfl
@[simp] theorem State.hpEvt_store (s : State) (p b : Nat) : (s.hpEvt p b).store = s.store := (State.hpEvt_keeps ..).same .store rfl
@[simp] theorem State.hpEvt_takes (s : State) (p b : Nat) : (s.hpEvt p b).takes = s.takes := (State.hpEvt_keeps ..).same .takes rfl
@[simp] theorem State.hpEvt_mover (s : State) (p b : Nat) : (s.hpEvt p b).mover = s.mover := (State.hpEvt_keeps ..).same .mover rfl
@[simp] theorem State.hpEvt_mag (s : State) (p b : Nat) : (s.hpEvt p b).mag = s.mag := (State.hpEvt_keeps ..).same .mag rfl
@[simp] theorem State.hpEvt_svc (s : State) (p b : Nat) : (s.hpEvt p b).svc = s.svc := (State.hpEvt_keeps ..).same .svc rfl
@[simp] theorem State.hpEvt_obj (s : State) (p b : Nat) : (s.hpEvt p b).obj = s.obj := (State.hpEvt_keeps ..).same .obj rfl
@[simp] theorem State.hpEvt_sec (s : State) (p b : Nat) : (s.hpEvt p b).sec = s.sec := (State.hpEvt_keeps ..).same .sec rfl
@[simp] theorem State.hpEvt_motion (s : State) (p b : Nat) : (s.hpEvt p b).motion = s.motion := (State.hpEvt_keeps ..).same .motion rfl
@[simp] theorem State.hpEvt_ckpt (s : State) (p b : Nat) : (s.hpEvt p b).ckpt = s.ckpt := (State.hpEvt_keeps ..).same .ckpt rfl
@[simp] theorem State.hpEvt_hbm (s : State) (p b : Nat) : (s.hpEvt p b).hbm = s.hbm := (State.hpEvt_keeps ..).same .hbm rfl
@[simp] theorem State.hpEvt_free (s : State) (p b : Nat) : (s.hpEvt p b).free = s.free := (State.hpEvt_keeps ..).same .free rfl
@[simp] theorem State.hpEvt_pending (s : State) (p b : Nat) : (s.hpEvt p b).pending = s.pending := (State.hpEvt_keeps ..).same .pending rfl

/-! complete -/

@[simp] theorem State.complete_cfg (s : State) (t : Ticket) (status : Nat) (pl : List (Nat × Nat × Nat))
    (etype : Nat) : (s.complete t status pl etype).cfg = s.cfg := (State.complete_keeps ..).same .cfg rfl
@[simp] theorem State.complete_dev (s : State) (t : Ticket) (status : Nat) (pl : List (Nat × Nat × Nat))
    (etype : Nat) : (s.complete t status pl etype).dev = s.dev := (State.complete_keeps ..).same .dev rfl
@[simp] theorem State.complete_time (s : State) (t : Ticket) (status : Nat) (pl : List (Nat × Nat × Nat))
    (etype : Nat) : (s.complete t status pl etype).time = s.time := (State.complete_keeps ..).same .time rfl
@[simp] theorem State.complete_plan (s : State) (t : Ticket) (status : Nat) (pl : List (Nat × Nat × Nat))
    (etype : Nat) : (s.complete t status pl etype).plan = s.plan := (State.complete_keeps ..).same .plan rfl
@[simp] theorem State.complete_link (s : State) (t : Ticket) (status : Nat) (pl : List (Nat × Nat × Nat))
    (etype : Nat) : (s.complete t status pl etype).link = s.link := (State.complete_keeps ..).same .link rfl
@[simp] theorem State.complete_store (s : State) (t : Ticket) (status : Nat) (pl : List (Nat × Nat × Nat))
    (etype : Nat) : (s.complete t status pl etype).store = s.store := (State.complete_keeps ..).same .store rfl
@[simp] theorem State.complete_takes (s : State) (t : Ticket) (status : Nat) (pl : List (Nat × Nat × Nat))
    (etype : Nat) : (s.complete t status pl etype).takes = s.takes := (State.complete_keeps ..).same .takes rfl
@[simp] theorem State.complete_mover (s : State) (t : Ticket) (status : Nat) (pl : List (Nat × Nat × Nat))
    (etype : Nat) : (s.complete t status pl etype).mover = s.mover := (State.complete_keeps ..).same .mover rfl
@[simp] theorem State.complete_mag (s : State) (t : Ticket) (status : Nat) (pl : List (Nat × Nat × Nat))
    (etype : Nat) : (s.complete t status pl etype).mag = s.mag := (State.complete_keeps ..).same .mag rfl
@[simp] theorem State.complete_svc (s : State) (t : Ticket) (status : Nat) (pl : List (Nat × Nat × Nat))
    (etype : Nat) : (s.complete t status pl etype).svc = s.svc := (State.complete_keeps ..).same .svc rfl
@[simp] theorem State.complete_obj (s : State) (t : Ticket) (status : Nat) (pl : List (Nat × Nat × Nat))
    (etype : Nat) : (s.complete t status pl etype).obj = s.obj := (State.complete_keeps ..).same .obj rfl
@[simp] theorem State.complete_sec (s : State) (t : Ticket) (status : Nat) (pl : List (Nat × Nat × Nat))
    (etype : Nat) : (s.complete t status pl etype).sec = s.sec := (State.complete_keeps ..).same .sec rfl
@[simp] theorem State.complete_motion (s : State) (t : Ticket) (status : Nat) (pl : List (Nat × Nat × Nat))
    (etype : Nat) : (s.complete t status pl etype).motion = s.motion := (State.complete_keeps ..).same .motion rfl
@[simp] theorem State.complete_ckpt (s : State) (t : Ticket) (status : Nat) (pl : List (Nat × Nat × Nat))
    (etype : Nat) : (s.complete t status pl etype).ckpt = s.ckpt := (State.complete_keeps ..).same .ckpt rfl
@[simp] theorem State.complete_hbm (s : State) (t : Ticket) (status : Nat) (pl : List (Nat × Nat × Nat))
    (etype : Nat) : (s.complete t status pl etype).hbm = s.hbm := (State.complete_keeps ..).same .hbm rfl
@[simp] theorem State.complete_free (s : State) (t : Ticket) (status : Nat) (pl : List (Nat × Nat × Nat))
    (etype : Nat) : (s.complete t status pl etype).free = s.free := (State.complete_keeps ..).same .free rfl
@[simp] theorem State.complete_pending (s : State) (t : Ticket) (status : Nat) (pl : List (Nat × Nat × Nat))
    (etype : Nat) : (s.complete t status pl etype).pending = s.pending := (State.complete_keeps ..).same .pending rfl

/-! completeOpt -/

@[simp] theorem State.completeOpt_cfg (s : State) (t : Option Ticket) (status : Nat) (pl : List (Nat × Nat × Nat)) : (s.completeOpt t status pl).cfg = s.cfg := (State.completeOpt_keeps ..).same .cfg rfl
@[simp] theorem State.completeOpt_dev (s : State) (t : Option Ticket) (status : Nat) (pl : List (Nat × Nat × Nat)) : (s.completeOpt t status pl).dev = s.dev := (State.completeOpt_keeps ..).same .dev rfl
@[simp] theorem State.completeOpt_time (s : State) (t : Option Ticket) (status : Nat) (pl : List (Nat × Nat × Nat)) : (s.completeOpt t status pl).time = s.time := (State.completeOpt_keeps ..).same .time rfl
@[simp] theorem State.completeOpt_plan (s : State) (t : Option Ticket) (status : Nat) (pl : List (Nat × Nat × Nat)) : (s.completeOpt t status pl).plan = s.plan := (State.completeOpt_keeps ..).same .plan rfl
@[simp] theorem State.completeOpt_link (s : State) (t : Option Ticket) (status : Nat) (pl : List (Nat × Nat × Nat)) : (s.completeOpt t status pl).link = s.link := (State.completeOpt_keeps ..).same .link rfl
@[simp] theorem State.completeOpt_store (s : State) (t : Option Ticket) (status : Nat) (pl : List (Nat × Nat × Nat)) : (s.completeOpt t status pl).store = s.store := (State.completeOpt_keeps ..).same .store rfl
@[simp] theorem State.completeOpt_takes (s : State) (t : Option Ticket) (status : Nat) (pl : List (Nat × Nat × Nat)) : (s.completeOpt t status pl).takes = s.takes := (State.completeOpt_keeps ..).same .takes rfl
@[simp] theorem State.completeOpt_mover (s : State) (t : Option Ticket) (status : Nat) (pl : List (Nat × Nat × Nat)) : (s.completeOpt t status pl).mover = s.mover := (State.completeOpt_keeps ..).same .mover rfl
@[simp] theorem State.completeOpt_mag (s : State) (t : Option Ticket) (status : Nat) (pl : List (Nat × Nat × Nat)) : (s.completeOpt t status pl).mag = s.mag := (State.completeOpt_keeps ..).same .mag rfl
@[simp] theorem State.completeOpt_svc (s : State) (t : Option Ticket) (status : Nat) (pl : List (Nat × Nat × Nat)) : (s.completeOpt t status pl).svc = s.svc := (State.completeOpt_keeps ..).same .svc rfl
@[simp] theorem State.completeOpt_obj (s : State) (t : Option Ticket) (status : Nat) (pl : List (Nat × Nat × Nat)) : (s.completeOpt t status pl).obj = s.obj := (State.completeOpt_keeps ..).same .obj rfl
@[simp] theorem State.completeOpt_sec (s : State) (t : Option Ticket) (status : Nat) (pl : List (Nat × Nat × Nat)) : (s.completeOpt t status pl).sec = s.sec := (State.completeOpt_keeps ..).same .sec rfl
@[simp] theorem State.completeOpt_motion (s : State) (t : Option Ticket) (status : Nat) (pl : List (Nat × Nat × Nat)) : (s.completeOpt t status pl).motion = s.motion := (State.completeOpt_keeps ..).same .motion rfl
@[simp] theorem State.completeOpt_ckpt (s : State) (t : Option Ticket) (status : Nat) (pl : List (Nat × Nat × Nat)) : (s.completeOpt t status pl).ckpt = s.ckpt := (State.completeOpt_keeps ..).same .ckpt rfl
@[simp] theorem State.completeOpt_hbm (s : State) (t : Option Ticket) (status : Nat) (pl : List (Nat × Nat × Nat)) : (s.completeOpt t status pl).hbm = s.hbm := (State.completeOpt_keeps ..).same .hbm rfl
@[simp] theorem State.completeOpt_free (s : State) (t : Option Ticket) (status : Nat) (pl : List (Nat × Nat × Nat)) : (s.completeOpt t status pl).free = s.free := (State.completeOpt_keeps ..).same .free rfl
@[simp] theorem State.completeOpt_pending (s : State) (t : Option Ticket) (status : Nat) (pl : List (Nat × Nat × Nat)) : (s.completeOpt t status pl).pending = s.pending := (State.completeOpt_keeps ..).same .pending rfl

/-! countRefusal -/

@[simp] theorem State.countRefusal_cfg (s : State) (pl : List (Nat × Nat × Nat)) : (s.countRefusal pl).cfg = s.cfg := (State.countRefusal_keeps ..).same .cfg rfl
@[simp] theorem State.countRefusal_dev (s : State) (pl : List (Nat × Nat × Nat)) : (s.countRefusal pl).dev = s.dev := (State.countRefusal_keeps ..).same .dev rfl
@[simp] theorem State.countRefusal_rings (s : State) (pl : List (Nat × Nat × Nat)) : (s.countRefusal pl).rings = s.rings := (State.countRefusal_keeps ..).same .rings rfl
@[simp] theorem State.countRefusal_ports (s : State) (pl : List (Nat × Nat × Nat)) : (s.countRefusal pl).ports = s.ports := (State.countRefusal_keeps ..).same .ports rfl
@[simp] theorem State.countRefusal_time (s : State) (pl : List (Nat × Nat × Nat)) : (s.countRefusal pl).time = s.time := (State.countRefusal_keeps ..).same .time rfl
@[simp] theorem State.countRefusal_plan (s : State) (pl : List (Nat × Nat × Nat)) : (s.countRefusal pl).plan = s.plan := (State.countRefusal_keeps ..).same .plan rfl
@[simp] theorem State.countRefusal_link (s : State) (pl : List (Nat × Nat × Nat)) : (s.countRefusal pl).link = s.link := (State.countRefusal_keeps ..).same .link rfl
@[simp] theorem State.countRefusal_store (s : State) (pl : List (Nat × Nat × Nat)) : (s.countRefusal pl).store = s.store := (State.countRefusal_keeps ..).same .store rfl
@[simp] theorem State.countRefusal_takes (s : State) (pl : List (Nat × Nat × Nat)) : (s.countRefusal pl).takes = s.takes := (State.countRefusal_keeps ..).same .takes rfl
@[simp] theorem State.countRefusal_mover (s : State) (pl : List (Nat × Nat × Nat)) : (s.countRefusal pl).mover = s.mover := (State.countRefusal_keeps ..).same .mover rfl
@[simp] theorem State.countRefusal_mag (s : State) (pl : List (Nat × Nat × Nat)) : (s.countRefusal pl).mag = s.mag := (State.countRefusal_keeps ..).same .mag rfl
@[simp] theorem State.countRefusal_svc (s : State) (pl : List (Nat × Nat × Nat)) : (s.countRefusal pl).svc = s.svc := (State.countRefusal_keeps ..).same .svc rfl
@[simp] theorem State.countRefusal_obj (s : State) (pl : List (Nat × Nat × Nat)) : (s.countRefusal pl).obj = s.obj := (State.countRefusal_keeps ..).same .obj rfl
@[simp] theorem State.countRefusal_sec (s : State) (pl : List (Nat × Nat × Nat)) : (s.countRefusal pl).sec = s.sec := (State.countRefusal_keeps ..).same .sec rfl
@[simp] theorem State.countRefusal_motion (s : State) (pl : List (Nat × Nat × Nat)) : (s.countRefusal pl).motion = s.motion := (State.countRefusal_keeps ..).same .motion rfl
@[simp] theorem State.countRefusal_ckpt (s : State) (pl : List (Nat × Nat × Nat)) : (s.countRefusal pl).ckpt = s.ckpt := (State.countRefusal_keeps ..).same .ckpt rfl
@[simp] theorem State.countRefusal_hbm (s : State) (pl : List (Nat × Nat × Nat)) : (s.countRefusal pl).hbm = s.hbm := (State.countRefusal_keeps ..).same .hbm rfl
@[simp] theorem State.countRefusal_out (s : State) (pl : List (Nat × Nat × Nat)) : (s.countRefusal pl).out = s.out := (State.countRefusal_keeps ..).same .out rfl
@[simp] theorem State.countRefusal_free (s : State) (pl : List (Nat × Nat × Nat)) : (s.countRefusal pl).free = s.free := (State.countRefusal_keeps ..).same .free rfl
@[simp] theorem State.countRefusal_pending (s : State) (pl : List (Nat × Nat × Nat)) : (s.countRefusal pl).pending = s.pending := (State.countRefusal_keeps ..).same .pending rfl

/-! hostWrite -/

@[simp] theorem State.hostWrite_cfg (s : State) (p addr : Nat) (data : List Byte) (noSnoop : Bool) : (s.hostWrite p addr data noSnoop).cfg = s.cfg := (State.hostWrite_keeps ..).same .cfg rfl
@[simp] theorem State.hostWrite_dev (s : State) (p addr : Nat) (data : List Byte) (noSnoop : Bool) : (s.hostWrite p addr data noSnoop).dev = s.dev := (State.hostWrite_keeps ..).same .dev rfl
@[simp] theorem State.hostWrite_time (s : State) (p addr : Nat) (data : List Byte) (noSnoop : Bool) : (s.hostWrite p addr data noSnoop).time = s.time := (State.hostWrite_keeps ..).same .time rfl
@[simp] theorem State.hostWrite_plan (s : State) (p addr : Nat) (data : List Byte) (noSnoop : Bool) : (s.hostWrite p addr data noSnoop).plan = s.plan := (State.hostWrite_keeps ..).same .plan rfl
@[simp] theorem State.hostWrite_link (s : State) (p addr : Nat) (data : List Byte) (noSnoop : Bool) : (s.hostWrite p addr data noSnoop).link = s.link := (State.hostWrite_keeps ..).same .link rfl
@[simp] theorem State.hostWrite_store (s : State) (p addr : Nat) (data : List Byte) (noSnoop : Bool) : (s.hostWrite p addr data noSnoop).store = s.store := (State.hostWrite_keeps ..).same .store rfl
@[simp] theorem State.hostWrite_takes (s : State) (p addr : Nat) (data : List Byte) (noSnoop : Bool) : (s.hostWrite p addr data noSnoop).takes = s.takes := (State.hostWrite_keeps ..).same .takes rfl
@[simp] theorem State.hostWrite_mover (s : State) (p addr : Nat) (data : List Byte) (noSnoop : Bool) : (s.hostWrite p addr data noSnoop).mover = s.mover := (State.hostWrite_keeps ..).same .mover rfl
@[simp] theorem State.hostWrite_mag (s : State) (p addr : Nat) (data : List Byte) (noSnoop : Bool) : (s.hostWrite p addr data noSnoop).mag = s.mag := (State.hostWrite_keeps ..).same .mag rfl
@[simp] theorem State.hostWrite_svc (s : State) (p addr : Nat) (data : List Byte) (noSnoop : Bool) : (s.hostWrite p addr data noSnoop).svc = s.svc := (State.hostWrite_keeps ..).same .svc rfl
@[simp] theorem State.hostWrite_obj (s : State) (p addr : Nat) (data : List Byte) (noSnoop : Bool) : (s.hostWrite p addr data noSnoop).obj = s.obj := (State.hostWrite_keeps ..).same .obj rfl
@[simp] theorem State.hostWrite_sec (s : State) (p addr : Nat) (data : List Byte) (noSnoop : Bool) : (s.hostWrite p addr data noSnoop).sec = s.sec := (State.hostWrite_keeps ..).same .sec rfl
@[simp] theorem State.hostWrite_motion (s : State) (p addr : Nat) (data : List Byte) (noSnoop : Bool) : (s.hostWrite p addr data noSnoop).motion = s.motion := (State.hostWrite_keeps ..).same .motion rfl
@[simp] theorem State.hostWrite_ckpt (s : State) (p addr : Nat) (data : List Byte) (noSnoop : Bool) : (s.hostWrite p addr data noSnoop).ckpt = s.ckpt := (State.hostWrite_keeps ..).same .ckpt rfl
@[simp] theorem State.hostWrite_hbm (s : State) (p addr : Nat) (data : List Byte) (noSnoop : Bool) : (s.hostWrite p addr data noSnoop).hbm = s.hbm := (State.hostWrite_keeps ..).same .hbm rfl
@[simp] theorem State.hostWrite_free (s : State) (p addr : Nat) (data : List Byte) (noSnoop : Bool) : (s.hostWrite p addr data noSnoop).free = s.free := (State.hostWrite_keeps ..).same .free rfl
@[simp] theorem State.hostWrite_pending (s : State) (p addr : Nat) (data : List Byte) (noSnoop : Bool) : (s.hostWrite p addr data noSnoop).pending = s.pending := (State.hostWrite_keeps ..).same .pending rfl

/-! hostReadCount -/

@[simp] theorem State.hostReadCount_cfg (s : State) (p n : Nat) : (s.hostReadCount p n).cfg = s.cfg := (State.hostReadCount_keeps ..).same .cfg rfl
@[simp] theorem State.hostReadCount_dev (s : State) (p n : Nat) : (s.hostReadCount p n).dev = s.dev := (State.hostReadCount_keeps ..).same .dev rfl
@[simp] theorem State.hostReadCount_rings (s : State) (p n : Nat) : (s.hostReadCount p n).rings = s.rings := (State.hostReadCount_keeps ..).same .rings rfl
@[simp] theorem State.hostReadCount_time (s : State) (p n : Nat) : (s.hostReadCount p n).time = s.time := (State.hostReadCount_keeps ..).same .time rfl
@[simp] theorem State.hostReadCount_plan (s : State) (p n : Nat) : (s.hostReadCount p n).plan = s.plan := (State.hostReadCount_keeps ..).same .plan rfl
@[simp] theorem State.hostReadCount_link (s : State) (p n : Nat) : (s.hostReadCount p n).link = s.link := (State.hostReadCount_keeps ..).same .link rfl
@[simp] theorem State.hostReadCount_store (s : State) (p n : Nat) : (s.hostReadCount p n).store = s.store := (State.hostReadCount_keeps ..).same .store rfl
@[simp] theorem State.hostReadCount_takes (s : State) (p n : Nat) : (s.hostReadCount p n).takes = s.takes := (State.hostReadCount_keeps ..).same .takes rfl
@[simp] theorem State.hostReadCount_mover (s : State) (p n : Nat) : (s.hostReadCount p n).mover = s.mover := (State.hostReadCount_keeps ..).same .mover rfl
@[simp] theorem State.hostReadCount_mag (s : State) (p n : Nat) : (s.hostReadCount p n).mag = s.mag := (State.hostReadCount_keeps ..).same .mag rfl
@[simp] theorem State.hostReadCount_svc (s : State) (p n : Nat) : (s.hostReadCount p n).svc = s.svc := (State.hostReadCount_keeps ..).same .svc rfl
@[simp] theorem State.hostReadCount_obj (s : State) (p n : Nat) : (s.hostReadCount p n).obj = s.obj := (State.hostReadCount_keeps ..).same .obj rfl
@[simp] theorem State.hostReadCount_sec (s : State) (p n : Nat) : (s.hostReadCount p n).sec = s.sec := (State.hostReadCount_keeps ..).same .sec rfl
@[simp] theorem State.hostReadCount_motion (s : State) (p n : Nat) : (s.hostReadCount p n).motion = s.motion := (State.hostReadCount_keeps ..).same .motion rfl
@[simp] theorem State.hostReadCount_ckpt (s : State) (p n : Nat) : (s.hostReadCount p n).ckpt = s.ckpt := (State.hostReadCount_keeps ..).same .ckpt rfl
@[simp] theorem State.hostReadCount_hbm (s : State) (p n : Nat) : (s.hostReadCount p n).hbm = s.hbm := (State.hostReadCount_keeps ..).same .hbm rfl
@[simp] theorem State.hostReadCount_out (s : State) (p n : Nat) : (s.hostReadCount p n).out = s.out := (State.hostReadCount_keeps ..).same .out rfl
@[simp] theorem State.hostReadCount_free (s : State) (p n : Nat) : (s.hostReadCount p n).free = s.free := (State.hostReadCount_keeps ..).same .free rfl
@[simp] theorem State.hostReadCount_pending (s : State) (p n : Nat) : (s.hostReadCount p n).pending = s.pending := (State.hostReadCount_keeps ..).same .pending rfl

/-! enterMode -/

@[simp] theorem State.enterMode_cfg (s : State) (m : DevMode) (cause : Nat) : (s.enterMode m cause).cfg = s.cfg := (State.enterMode_keeps ..).same .cfg rfl
@[simp] theorem State.enterMode_time (s : State) (m : DevMode) (cause : Nat) : (s.enterMode m cause).time = s.time := (State.enterMode_keeps ..).same .time rfl
@[simp] theorem State.enterMode_plan (s : State) (m : DevMode) (cause : Nat) : (s.enterMode m cause).plan = s.plan := (State.enterMode_keeps ..).same .plan rfl
@[simp] theorem State.enterMode_link (s : State) (m : DevMode) (cause : Nat) : (s.enterMode m cause).link = s.link := (State.enterMode_keeps ..).same .link rfl
@[simp] theorem State.enterMode_store (s : State) (m : DevMode) (cause : Nat) : (s.enterMode m cause).store = s.store := (State.enterMode_keeps ..).same .store rfl
@[simp] theorem State.enterMode_takes (s : State) (m : DevMode) (cause : Nat) : (s.enterMode m cause).takes = s.takes := (State.enterMode_keeps ..).same .takes rfl
@[simp] theorem State.enterMode_mover (s : State) (m : DevMode) (cause : Nat) : (s.enterMode m cause).mover = s.mover := (State.enterMode_keeps ..).same .mover rfl
@[simp] theorem State.enterMode_mag (s : State) (m : DevMode) (cause : Nat) : (s.enterMode m cause).mag = s.mag := (State.enterMode_keeps ..).same .mag rfl
@[simp] theorem State.enterMode_svc (s : State) (m : DevMode) (cause : Nat) : (s.enterMode m cause).svc = s.svc := (State.enterMode_keeps ..).same .svc rfl
@[simp] theorem State.enterMode_obj (s : State) (m : DevMode) (cause : Nat) : (s.enterMode m cause).obj = s.obj := (State.enterMode_keeps ..).same .obj rfl
@[simp] theorem State.enterMode_sec (s : State) (m : DevMode) (cause : Nat) : (s.enterMode m cause).sec = s.sec := (State.enterMode_keeps ..).same .sec rfl
@[simp] theorem State.enterMode_motion (s : State) (m : DevMode) (cause : Nat) : (s.enterMode m cause).motion = s.motion := (State.enterMode_keeps ..).same .motion rfl
@[simp] theorem State.enterMode_ckpt (s : State) (m : DevMode) (cause : Nat) : (s.enterMode m cause).ckpt = s.ckpt := (State.enterMode_keeps ..).same .ckpt rfl
@[simp] theorem State.enterMode_hbm (s : State) (m : DevMode) (cause : Nat) : (s.enterMode m cause).hbm = s.hbm := (State.enterMode_keeps ..).same .hbm rfl
@[simp] theorem State.enterMode_free (s : State) (m : DevMode) (cause : Nat) : (s.enterMode m cause).free = s.free := (State.enterMode_keeps ..).same .free rfl
@[simp] theorem State.enterMode_pending (s : State) (m : DevMode) (cause : Nat) : (s.enterMode m cause).pending = s.pending := (State.enterMode_keeps ..).same .pending rfl

/-! healthFail -/

@[simp] theorem State.healthFail_time (s : State) (b : Nat) : (s.healthFail b).time = s.time := (State.healthFail_keeps ..).same .time rfl
@[simp] theorem State.healthFail_plan (s : State) (b : Nat) : (s.healthFail b).plan = s.plan := (State.healthFail_keeps ..).same .plan rfl
@[simp] theorem State.healthFail_link (s : State) (b : Nat) : (s.healthFail b).link = s.link := (State.healthFail_keeps ..).same .link rfl
@[simp] theorem State.healthFail_store (s : State) (b : Nat) : (s.healthFail b).store = s.store := (State.healthFail_keeps ..).same .store rfl
@[simp] theorem State.healthFail_takes (s : State) (b : Nat) : (s.healthFail b).takes = s.takes := (State.healthFail_keeps ..).same .takes rfl
@[simp] theorem State.healthFail_mover (s : State) (b : Nat) : (s.healthFail b).mover = s.mover := (State.healthFail_keeps ..).same .mover rfl
@[simp] theorem State.healthFail_mag (s : State) (b : Nat) : (s.healthFail b).mag = s.mag := (State.healthFail_keeps ..).same .mag rfl
@[simp] theorem State.healthFail_svc (s : State) (b : Nat) : (s.healthFail b).svc = s.svc := (State.healthFail_keeps ..).same .svc rfl
@[simp] theorem State.healthFail_obj (s : State) (b : Nat) : (s.healthFail b).obj = s.obj := (State.healthFail_keeps ..).same .obj rfl
@[simp] theorem State.healthFail_sec (s : State) (b : Nat) : (s.healthFail b).sec = s.sec := (State.healthFail_keeps ..).same .sec rfl
@[simp] theorem State.healthFail_motion (s : State) (b : Nat) : (s.healthFail b).motion = s.motion := (State.healthFail_keeps ..).same .motion rfl
@[simp] theorem State.healthFail_ckpt (s : State) (b : Nat) : (s.healthFail b).ckpt = s.ckpt := (State.healthFail_keeps ..).same .ckpt rfl
@[simp] theorem State.healthFail_hbm (s : State) (b : Nat) : (s.healthFail b).hbm = s.hbm := (State.healthFail_keeps ..).same .hbm rfl
@[simp] theorem State.healthFail_free (s : State) (b : Nat) : (s.healthFail b).free = s.free := (State.healthFail_keeps ..).same .free rfl
@[simp] theorem State.healthFail_pending (s : State) (b : Nat) : (s.healthFail b).pending = s.pending := (State.healthFail_keeps ..).same .pending rfl

/-! logEntry -/

@[simp] theorem State.logEntry_cur (s : State) (code source detail : Nat) : (s.logEntry code source detail).cur = s.cur := (State.logEntry_keeps ..).same .cur rfl
@[simp] theorem State.logEntry_cfg (s : State) (code source detail : Nat) : (s.logEntry code source detail).cfg = s.cfg := (State.logEntry_keeps ..).same .cfg rfl
@[simp] theorem State.logEntry_dev (s : State) (code source detail : Nat) : (s.logEntry code source detail).dev = s.dev := (State.logEntry_keeps ..).same .dev rfl
@[simp] theorem State.logEntry_rings (s : State) (code source detail : Nat) : (s.logEntry code source detail).rings = s.rings := (State.logEntry_keeps ..).same .rings rfl
@[simp] theorem State.logEntry_ports (s : State) (code source detail : Nat) : (s.logEntry code source detail).ports = s.ports := (State.logEntry_keeps ..).same .ports rfl
@[simp] theorem State.logEntry_time (s : State) (code source detail : Nat) : (s.logEntry code source detail).time = s.time := (State.logEntry_keeps ..).same .time rfl
@[simp] theorem State.logEntry_plan (s : State) (code source detail : Nat) : (s.logEntry code source detail).plan = s.plan := (State.logEntry_keeps ..).same .plan rfl
@[simp] theorem State.logEntry_link (s : State) (code source detail : Nat) : (s.logEntry code source detail).link = s.link := (State.logEntry_keeps ..).same .link rfl
@[simp] theorem State.logEntry_store (s : State) (code source detail : Nat) : (s.logEntry code source detail).store = s.store := (State.logEntry_keeps ..).same .store rfl
@[simp] theorem State.logEntry_takes (s : State) (code source detail : Nat) : (s.logEntry code source detail).takes = s.takes := (State.logEntry_keeps ..).same .takes rfl
@[simp] theorem State.logEntry_mover (s : State) (code source detail : Nat) : (s.logEntry code source detail).mover = s.mover := (State.logEntry_keeps ..).same .mover rfl
@[simp] theorem State.logEntry_mag (s : State) (code source detail : Nat) : (s.logEntry code source detail).mag = s.mag := (State.logEntry_keeps ..).same .mag rfl
@[simp] theorem State.logEntry_obj (s : State) (code source detail : Nat) : (s.logEntry code source detail).obj = s.obj := (State.logEntry_keeps ..).same .obj rfl
@[simp] theorem State.logEntry_sec (s : State) (code source detail : Nat) : (s.logEntry code source detail).sec = s.sec := (State.logEntry_keeps ..).same .sec rfl
@[simp] theorem State.logEntry_motion (s : State) (code source detail : Nat) : (s.logEntry code source detail).motion = s.motion := (State.logEntry_keeps ..).same .motion rfl
@[simp] theorem State.logEntry_ckpt (s : State) (code source detail : Nat) : (s.logEntry code source detail).ckpt = s.ckpt := (State.logEntry_keeps ..).same .ckpt rfl
@[simp] theorem State.logEntry_hbm (s : State) (code source detail : Nat) : (s.logEntry code source detail).hbm = s.hbm := (State.logEntry_keeps ..).same .hbm rfl
@[simp] theorem State.logEntry_out (s : State) (code source detail : Nat) : (s.logEntry code source detail).out = s.out := (State.logEntry_keeps ..).same .out rfl
@[simp] theorem State.logEntry_free (s : State) (code source detail : Nat) : (s.logEntry code source detail).free = s.free := (State.logEntry_keeps ..).same .free rfl
@[simp] theorem State.logEntry_pending (s : State) (code source detail : Nat) : (s.logEntry code source detail).pending = s.pending := (State.logEntry_keeps ..).same .pending rfl

/-! changeUnit -/

@[simp] theorem State.changeUnit_cfg (s : State) (kind i code : Nat) : (s.changeUnit kind i code).cfg = s.cfg := (State.changeUnit_keeps ..).same .cfg rfl
@[simp] theorem State.changeUnit_dev (s : State) (kind i code : Nat) : (s.changeUnit kind i code).dev = s.dev := (State.changeUnit_keeps ..).same .dev rfl
@[simp] theorem State.changeUnit_time (s : State) (kind i code : Nat) : (s.changeUnit kind i code).time = s.time := (State.changeUnit_keeps ..).same .time rfl
@[simp] theorem State.changeUnit_plan (s : State) (kind i code : Nat) : (s.changeUnit kind i code).plan = s.plan := (State.changeUnit_keeps ..).same .plan rfl
@[simp] theorem State.changeUnit_link (s : State) (kind i code : Nat) : (s.changeUnit kind i code).link = s.link := (State.changeUnit_keeps ..).same .link rfl
@[simp] theorem State.changeUnit_store (s : State) (kind i code : Nat) : (s.changeUnit kind i code).store = s.store := (State.changeUnit_keeps ..).same .store rfl
@[simp] theorem State.changeUnit_takes (s : State) (kind i code : Nat) : (s.changeUnit kind i code).takes = s.takes := (State.changeUnit_keeps ..).same .takes rfl
@[simp] theorem State.changeUnit_mover (s : State) (kind i code : Nat) : (s.changeUnit kind i code).mover = s.mover := (State.changeUnit_keeps ..).same .mover rfl
@[simp] theorem State.changeUnit_mag (s : State) (kind i code : Nat) : (s.changeUnit kind i code).mag = s.mag := (State.changeUnit_keeps ..).same .mag rfl
@[simp] theorem State.changeUnit_obj (s : State) (kind i code : Nat) : (s.changeUnit kind i code).obj = s.obj := (State.changeUnit_keeps ..).same .obj rfl
@[simp] theorem State.changeUnit_sec (s : State) (kind i code : Nat) : (s.changeUnit kind i code).sec = s.sec := (State.changeUnit_keeps ..).same .sec rfl
@[simp] theorem State.changeUnit_motion (s : State) (kind i code : Nat) : (s.changeUnit kind i code).motion = s.motion := (State.changeUnit_keeps ..).same .motion rfl
@[simp] theorem State.changeUnit_ckpt (s : State) (kind i code : Nat) : (s.changeUnit kind i code).ckpt = s.ckpt := (State.changeUnit_keeps ..).same .ckpt rfl
@[simp] theorem State.changeUnit_hbm (s : State) (kind i code : Nat) : (s.changeUnit kind i code).hbm = s.hbm := (State.changeUnit_keeps ..).same .hbm rfl
@[simp] theorem State.changeUnit_free (s : State) (kind i code : Nat) : (s.changeUnit kind i code).free = s.free := (State.changeUnit_keeps ..).same .free rfl
@[simp] theorem State.changeUnit_pending (s : State) (kind i code : Nat) : (s.changeUnit kind i code).pending = s.pending := (State.changeUnit_keeps ..).same .pending rfl

/-! unitFails -/

@[simp] theorem State.unitFails_time (s : State) (kind i cause : Nat) : (s.unitFails kind i cause).time = s.time := (State.unitFails_keeps ..).same .time rfl
@[simp] theorem State.unitFails_plan (s : State) (kind i cause : Nat) : (s.unitFails kind i cause).plan = s.plan := (State.unitFails_keeps ..).same .plan rfl
@[simp] theorem State.unitFails_link (s : State) (kind i cause : Nat) : (s.unitFails kind i cause).link = s.link := (State.unitFails_keeps ..).same .link rfl
@[simp] theorem State.unitFails_store (s : State) (kind i cause : Nat) : (s.unitFails kind i cause).store = s.store := (State.unitFails_keeps ..).same .store rfl
@[simp] theorem State.unitFails_takes (s : State) (kind i cause : Nat) : (s.unitFails kind i cause).takes = s.takes := (State.unitFails_keeps ..).same .takes rfl
@[simp] theorem State.unitFails_mover (s : State) (kind i cause : Nat) : (s.unitFails kind i cause).mover = s.mover := (State.unitFails_keeps ..).same .mover rfl
@[simp] theorem State.unitFails_mag (s : State) (kind i cause : Nat) : (s.unitFails kind i cause).mag = s.mag := (State.unitFails_keeps ..).same .mag rfl
@[simp] theorem State.unitFails_obj (s : State) (kind i cause : Nat) : (s.unitFails kind i cause).obj = s.obj := (State.unitFails_keeps ..).same .obj rfl
@[simp] theorem State.unitFails_sec (s : State) (kind i cause : Nat) : (s.unitFails kind i cause).sec = s.sec := (State.unitFails_keeps ..).same .sec rfl
@[simp] theorem State.unitFails_motion (s : State) (kind i cause : Nat) : (s.unitFails kind i cause).motion = s.motion := (State.unitFails_keeps ..).same .motion rfl
@[simp] theorem State.unitFails_ckpt (s : State) (kind i cause : Nat) : (s.unitFails kind i cause).ckpt = s.ckpt := (State.unitFails_keeps ..).same .ckpt rfl
@[simp] theorem State.unitFails_hbm (s : State) (kind i cause : Nat) : (s.unitFails kind i cause).hbm = s.hbm := (State.unitFails_keeps ..).same .hbm rfl
@[simp] theorem State.unitFails_free (s : State) (kind i cause : Nat) : (s.unitFails kind i cause).free = s.free := (State.unitFails_keeps ..).same .free rfl
@[simp] theorem State.unitFails_pending (s : State) (kind i cause : Nat) : (s.unitFails kind i cause).pending = s.pending := (State.unitFails_keeps ..).same .pending rfl

/-! take -/

@[simp] theorem State.take_cur (s : State) (d : Desc) : (s.take d).cur = s.cur := rfl
@[simp] theorem State.take_cfg (s : State) (d : Desc) : (s.take d).cfg = s.cfg := rfl
@[simp] theorem State.take_dev (s : State) (d : Desc) : (s.take d).dev = s.dev := rfl
@[simp] theorem State.take_ports (s : State) (d : Desc) : (s.take d).ports = s.ports := rfl
@[simp] theorem State.take_time (s : State) (d : Desc) : (s.take d).time = s.time := rfl
@[simp] theorem State.take_plan (s : State) (d : Desc) : (s.take d).plan = s.plan := rfl
@[simp] theorem State.take_link (s : State) (d : Desc) : (s.take d).link = s.link := rfl
@[simp] theorem State.take_store (s : State) (d : Desc) : (s.take d).store = s.store := rfl
@[simp] theorem State.take_takes (s : State) (d : Desc) : (s.take d).takes = s.takes := rfl
@[simp] theorem State.take_mover (s : State) (d : Desc) : (s.take d).mover = s.mover := rfl
@[simp] theorem State.take_mag (s : State) (d : Desc) : (s.take d).mag = s.mag := rfl
@[simp] theorem State.take_svc (s : State) (d : Desc) : (s.take d).svc = s.svc := rfl
@[simp] theorem State.take_obj (s : State) (d : Desc) : (s.take d).obj = s.obj := rfl
@[simp] theorem State.take_sec (s : State) (d : Desc) : (s.take d).sec = s.sec := rfl
@[simp] theorem State.take_motion (s : State) (d : Desc) : (s.take d).motion = s.motion := rfl
@[simp] theorem State.take_ckpt (s : State) (d : Desc) : (s.take d).ckpt = s.ckpt := rfl
@[simp] theorem State.take_hbm (s : State) (d : Desc) : (s.take d).hbm = s.hbm := rfl
@[simp] theorem State.take_out (s : State) (d : Desc) : (s.take d).out = s.out := rfl
@[simp] theorem State.take_free (s : State) (d : Desc) : (s.take d).free = s.free := rfl
@[simp] theorem State.take_pending (s : State) (d : Desc) : (s.take d).pending = s.pending := rfl

end Sys2Proof.Machine
end

