-- ==== Sys2Proof/Laws/State.lean ====
section
/-! SUPPORT. What each update of one record of the state leaves as it was, one lemma for each of State's fields. -/

namespace Sys2Proof.Machine

/-! setReg -/

@[simp] theorem State.setReg_pending (s : State) (r : RegRow) (i j : Nat) (v : Word) : (s.setReg r i j v).pending = s.pending := rfl
@[simp] theorem State.setReg_out (s : State) (r : RegRow) (i j : Nat) (v : Word) : (s.setReg r i j v).out = s.out := rfl
@[simp] theorem State.setReg_free (s : State) (r : RegRow) (i j : Nat) (v : Word) : (s.setReg r i j v).free = s.free := rfl
@[simp] theorem State.setReg_cfg (s : State) (r : RegRow) (i j : Nat) (v : Word) : (s.setReg r i j v).cfg = s.cfg := rfl
@[simp] theorem State.setReg_dev (s : State) (r : RegRow) (i j : Nat) (v : Word) : (s.setReg r i j v).dev = s.dev := rfl
@[simp] theorem State.setReg_rings (s : State) (r : RegRow) (i j : Nat) (v : Word) : (s.setReg r i j v).rings = s.rings := rfl
@[simp] theorem State.setReg_ports (s : State) (r : RegRow) (i j : Nat) (v : Word) : (s.setReg r i j v).ports = s.ports := rfl
@[simp] theorem State.setReg_time (s : State) (r : RegRow) (i j : Nat) (v : Word) : (s.setReg r i j v).time = s.time := rfl
@[simp] theorem State.setReg_plan (s : State) (r : RegRow) (i j : Nat) (v : Word) : (s.setReg r i j v).plan = s.plan := rfl
@[simp] theorem State.setReg_link (s : State) (r : RegRow) (i j : Nat) (v : Word) : (s.setReg r i j v).link = s.link := rfl
@[simp] theorem State.setReg_store (s : State) (r : RegRow) (i j : Nat) (v : Word) : (s.setReg r i j v).store = s.store := rfl
@[simp] theorem State.setReg_takes (s : State) (r : RegRow) (i j : Nat) (v : Word) : (s.setReg r i j v).takes = s.takes := rfl
@[simp] theorem State.setReg_mover (s : State) (r : RegRow) (i j : Nat) (v : Word) : (s.setReg r i j v).mover = s.mover := rfl
@[simp] theorem State.setReg_mag (s : State) (r : RegRow) (i j : Nat) (v : Word) : (s.setReg r i j v).mag = s.mag := rfl
@[simp] theorem State.setReg_svc (s : State) (r : RegRow) (i j : Nat) (v : Word) : (s.setReg r i j v).svc = s.svc := rfl
@[simp] theorem State.setReg_obj (s : State) (r : RegRow) (i j : Nat) (v : Word) : (s.setReg r i j v).obj = s.obj := rfl
@[simp] theorem State.setReg_sec (s : State) (r : RegRow) (i j : Nat) (v : Word) : (s.setReg r i j v).sec = s.sec := rfl
@[simp] theorem State.setReg_motion (s : State) (r : RegRow) (i j : Nat) (v : Word) : (s.setReg r i j v).motion = s.motion := rfl
@[simp] theorem State.setReg_ckpt (s : State) (r : RegRow) (i j : Nat) (v : Word) : (s.setReg r i j v).ckpt = s.ckpt := rfl
@[simp] theorem State.setReg_hbm (s : State) (r : RegRow) (i j : Nat) (v : Word) : (s.setReg r i j v).hbm = s.hbm := rfl

/-! emit -/

@[simp] theorem State.emit_pending (s : State) (o : Out) : (s.emit o).pending = s.pending := rfl
@[simp] theorem State.emit_free (s : State) (o : Out) : (s.emit o).free = s.free := rfl
@[simp] theorem State.emit_cur (s : State) (o : Out) : (s.emit o).cur = s.cur := rfl
@[simp] theorem State.emit_cfg (s : State) (o : Out) : (s.emit o).cfg = s.cfg := rfl
@[simp] theorem State.emit_dev (s : State) (o : Out) : (s.emit o).dev = s.dev := rfl
@[simp] theorem State.emit_rings (s : State) (o : Out) : (s.emit o).rings = s.rings := rfl
@[simp] theorem State.emit_ports (s : State) (o : Out) : (s.emit o).ports = s.ports := rfl
@[simp] theorem State.emit_time (s : State) (o : Out) : (s.emit o).time = s.time := rfl
@[simp] theorem State.emit_plan (s : State) (o : Out) : (s.emit o).plan = s.plan := rfl
@[simp] theorem State.emit_link (s : State) (o : Out) : (s.emit o).link = s.link := rfl
@[simp] theorem State.emit_store (s : State) (o : Out) : (s.emit o).store = s.store := rfl
@[simp] theorem State.emit_takes (s : State) (o : Out) : (s.emit o).takes = s.takes := rfl
@[simp] theorem State.emit_mover (s : State) (o : Out) : (s.emit o).mover = s.mover := rfl
@[simp] theorem State.emit_mag (s : State) (o : Out) : (s.emit o).mag = s.mag := rfl
@[simp] theorem State.emit_svc (s : State) (o : Out) : (s.emit o).svc = s.svc := rfl
@[simp] theorem State.emit_obj (s : State) (o : Out) : (s.emit o).obj = s.obj := rfl
@[simp] theorem State.emit_sec (s : State) (o : Out) : (s.emit o).sec = s.sec := rfl
@[simp] theorem State.emit_motion (s : State) (o : Out) : (s.emit o).motion = s.motion := rfl
@[simp] theorem State.emit_ckpt (s : State) (o : Out) : (s.emit o).ckpt = s.ckpt := rfl
@[simp] theorem State.emit_hbm (s : State) (o : Out) : (s.emit o).hbm = s.hbm := rfl

/-! useFree -/

@[simp] theorem State.useFree_pending (s : State) : (s.useFree).pending = s.pending := rfl
@[simp] theorem State.useFree_out (s : State) : (s.useFree).out = s.out := rfl
@[simp] theorem State.useFree_cur (s : State) : (s.useFree).cur = s.cur := rfl
@[simp] theorem State.useFree_cfg (s : State) : (s.useFree).cfg = s.cfg := rfl
@[simp] theorem State.useFree_dev (s : State) : (s.useFree).dev = s.dev := rfl
@[simp] theorem State.useFree_rings (s : State) : (s.useFree).rings = s.rings := rfl
@[simp] theorem State.useFree_ports (s : State) : (s.useFree).ports = s.ports := rfl
@[simp] theorem State.useFree_time (s : State) : (s.useFree).time = s.time := rfl
@[simp] theorem State.useFree_plan (s : State) : (s.useFree).plan = s.plan := rfl
@[simp] theorem State.useFree_link (s : State) : (s.useFree).link = s.link := rfl
@[simp] theorem State.useFree_store (s : State) : (s.useFree).store = s.store := rfl
@[simp] theorem State.useFree_takes (s : State) : (s.useFree).takes = s.takes := rfl
@[simp] theorem State.useFree_mover (s : State) : (s.useFree).mover = s.mover := rfl
@[simp] theorem State.useFree_mag (s : State) : (s.useFree).mag = s.mag := rfl
@[simp] theorem State.useFree_svc (s : State) : (s.useFree).svc = s.svc := rfl
@[simp] theorem State.useFree_obj (s : State) : (s.useFree).obj = s.obj := rfl
@[simp] theorem State.useFree_sec (s : State) : (s.useFree).sec = s.sec := rfl
@[simp] theorem State.useFree_motion (s : State) : (s.useFree).motion = s.motion := rfl
@[simp] theorem State.useFree_ckpt (s : State) : (s.useFree).ckpt = s.ckpt := rfl
@[simp] theorem State.useFree_hbm (s : State) : (s.useFree).hbm = s.hbm := rfl

/-! setPort -/

@[simp] theorem State.setPort_pending (s : State) (p : Nat) (f : PortSt → PortSt) : (s.setPort p f).pending = s.pending := rfl
@[simp] theorem State.setPort_out (s : State) (p : Nat) (f : PortSt → PortSt) : (s.setPort p f).out = s.out := rfl
@[simp] theorem State.setPort_free (s : State) (p : Nat) (f : PortSt → PortSt) : (s.setPort p f).free = s.free := rfl
@[simp] theorem State.setPort_cur (s : State) (p : Nat) (f : PortSt → PortSt) : (s.setPort p f).cur = s.cur := rfl
@[simp] theorem State.setPort_cfg (s : State) (p : Nat) (f : PortSt → PortSt) : (s.setPort p f).cfg = s.cfg := rfl
@[simp] theorem State.setPort_dev (s : State) (p : Nat) (f : PortSt → PortSt) : (s.setPort p f).dev = s.dev := rfl
@[simp] theorem State.setPort_rings (s : State) (p : Nat) (f : PortSt → PortSt) : (s.setPort p f).rings = s.rings := rfl
@[simp] theorem State.setPort_time (s : State) (p : Nat) (f : PortSt → PortSt) : (s.setPort p f).time = s.time := rfl
@[simp] theorem State.setPort_plan (s : State) (p : Nat) (f : PortSt → PortSt) : (s.setPort p f).plan = s.plan := rfl
@[simp] theorem State.setPort_link (s : State) (p : Nat) (f : PortSt → PortSt) : (s.setPort p f).link = s.link := rfl
@[simp] theorem State.setPort_store (s : State) (p : Nat) (f : PortSt → PortSt) : (s.setPort p f).store = s.store := rfl
@[simp] theorem State.setPort_takes (s : State) (p : Nat) (f : PortSt → PortSt) : (s.setPort p f).takes = s.takes := rfl
@[simp] theorem State.setPort_mover (s : State) (p : Nat) (f : PortSt → PortSt) : (s.setPort p f).mover = s.mover := rfl
@[simp] theorem State.setPort_mag (s : State) (p : Nat) (f : PortSt → PortSt) : (s.setPort p f).mag = s.mag := rfl
@[simp] theorem State.setPort_svc (s : State) (p : Nat) (f : PortSt → PortSt) : (s.setPort p f).svc = s.svc := rfl
@[simp] theorem State.setPort_obj (s : State) (p : Nat) (f : PortSt → PortSt) : (s.setPort p f).obj = s.obj := rfl
@[simp] theorem State.setPort_sec (s : State) (p : Nat) (f : PortSt → PortSt) : (s.setPort p f).sec = s.sec := rfl
@[simp] theorem State.setPort_motion (s : State) (p : Nat) (f : PortSt → PortSt) : (s.setPort p f).motion = s.motion := rfl
@[simp] theorem State.setPort_ckpt (s : State) (p : Nat) (f : PortSt → PortSt) : (s.setPort p f).ckpt = s.ckpt := rfl
@[simp] theorem State.setPort_hbm (s : State) (p : Nat) (f : PortSt → PortSt) : (s.setPort p f).hbm = s.hbm := rfl

/-! setRing -/

@[simp] theorem State.setRing_pending (s : State) (n : Nat) (f : RingSt → RingSt) : (s.setRing n f).pending = s.pending := rfl
@[simp] theorem State.setRing_out (s : State) (n : Nat) (f : RingSt → RingSt) : (s.setRing n f).out = s.out := rfl
@[simp] theorem State.setRing_free (s : State) (n : Nat) (f : RingSt → RingSt) : (s.setRing n f).free = s.free := rfl
@[simp] theorem State.setRing_cur (s : State) (n : Nat) (f : RingSt → RingSt) : (s.setRing n f).cur = s.cur := rfl
@[simp] theorem State.setRing_cfg (s : State) (n : Nat) (f : RingSt → RingSt) : (s.setRing n f).cfg = s.cfg := rfl
@[simp] theorem State.setRing_dev (s : State) (n : Nat) (f : RingSt → RingSt) : (s.setRing n f).dev = s.dev := rfl
@[simp] theorem State.setRing_ports (s : State) (n : Nat) (f : RingSt → RingSt) : (s.setRing n f).ports = s.ports := rfl
@[simp] theorem State.setRing_time (s : State) (n : Nat) (f : RingSt → RingSt) : (s.setRing n f).time = s.time := rfl
@[simp] theorem State.setRing_plan (s : State) (n : Nat) (f : RingSt → RingSt) : (s.setRing n f).plan = s.plan := rfl
@[simp] theorem State.setRing_link (s : State) (n : Nat) (f : RingSt → RingSt) : (s.setRing n f).link = s.link := rfl
@[simp] theorem State.setRing_store (s : State) (n : Nat) (f : RingSt → RingSt) : (s.setRing n f).store = s.store := rfl
@[simp] theorem State.setRing_takes (s : State) (n : Nat) (f : RingSt → RingSt) : (s.setRing n f).takes = s.takes := rfl
@[simp] theorem State.setRing_mover (s : State) (n : Nat) (f : RingSt → RingSt) : (s.setRing n f).mover = s.mover := rfl
@[simp] theorem State.setRing_mag (s : State) (n : Nat) (f : RingSt → RingSt) : (s.setRing n f).mag = s.mag := rfl
@[simp] theorem State.setRing_svc (s : State) (n : Nat) (f : RingSt → RingSt) : (s.setRing n f).svc = s.svc := rfl
@[simp] theorem State.setRing_obj (s : State) (n : Nat) (f : RingSt → RingSt) : (s.setRing n f).obj = s.obj := rfl
@[simp] theorem State.setRing_sec (s : State) (n : Nat) (f : RingSt → RingSt) : (s.setRing n f).sec = s.sec := rfl
@[simp] theorem State.setRing_motion (s : State) (n : Nat) (f : RingSt → RingSt) : (s.setRing n f).motion = s.motion := rfl
@[simp] theorem State.setRing_ckpt (s : State) (n : Nat) (f : RingSt → RingSt) : (s.setRing n f).ckpt = s.ckpt := rfl
@[simp] theorem State.setRing_hbm (s : State) (n : Nat) (f : RingSt → RingSt) : (s.setRing n f).hbm = s.hbm := rfl

/-! setRig -/

@[simp] theorem State.setRig_pending (s : State) (r : Nat) (f : RigSt → RigSt) : (s.setRig r f).pending = s.pending := rfl
@[simp] theorem State.setRig_out (s : State) (r : Nat) (f : RigSt → RigSt) : (s.setRig r f).out = s.out := rfl
@[simp] theorem State.setRig_free (s : State) (r : Nat) (f : RigSt → RigSt) : (s.setRig r f).free = s.free := rfl
@[simp] theorem State.setRig_cur (s : State) (r : Nat) (f : RigSt → RigSt) : (s.setRig r f).cur = s.cur := rfl
@[simp] theorem State.setRig_cfg (s : State) (r : Nat) (f : RigSt → RigSt) : (s.setRig r f).cfg = s.cfg := rfl
@[simp] theorem State.setRig_rings (s : State) (r : Nat) (f : RigSt → RigSt) : (s.setRig r f).rings = s.rings := rfl
@[simp] theorem State.setRig_ports (s : State) (r : Nat) (f : RigSt → RigSt) : (s.setRig r f).ports = s.ports := rfl
@[simp] theorem State.setRig_time (s : State) (r : Nat) (f : RigSt → RigSt) : (s.setRig r f).time = s.time := rfl
@[simp] theorem State.setRig_plan (s : State) (r : Nat) (f : RigSt → RigSt) : (s.setRig r f).plan = s.plan := rfl
@[simp] theorem State.setRig_link (s : State) (r : Nat) (f : RigSt → RigSt) : (s.setRig r f).link = s.link := rfl
@[simp] theorem State.setRig_store (s : State) (r : Nat) (f : RigSt → RigSt) : (s.setRig r f).store = s.store := rfl
@[simp] theorem State.setRig_takes (s : State) (r : Nat) (f : RigSt → RigSt) : (s.setRig r f).takes = s.takes := rfl
@[simp] theorem State.setRig_mover (s : State) (r : Nat) (f : RigSt → RigSt) : (s.setRig r f).mover = s.mover := rfl
@[simp] theorem State.setRig_mag (s : State) (r : Nat) (f : RigSt → RigSt) : (s.setRig r f).mag = s.mag := rfl
@[simp] theorem State.setRig_svc (s : State) (r : Nat) (f : RigSt → RigSt) : (s.setRig r f).svc = s.svc := rfl
@[simp] theorem State.setRig_obj (s : State) (r : Nat) (f : RigSt → RigSt) : (s.setRig r f).obj = s.obj := rfl
@[simp] theorem State.setRig_sec (s : State) (r : Nat) (f : RigSt → RigSt) : (s.setRig r f).sec = s.sec := rfl
@[simp] theorem State.setRig_motion (s : State) (r : Nat) (f : RigSt → RigSt) : (s.setRig r f).motion = s.motion := rfl
@[simp] theorem State.setRig_ckpt (s : State) (r : Nat) (f : RigSt → RigSt) : (s.setRig r f).ckpt = s.ckpt := rfl
@[simp] theorem State.setRig_hbm (s : State) (r : Nat) (f : RigSt → RigSt) : (s.setRig r f).hbm = s.hbm := rfl

/-! pushBound -/

@[simp] theorem State.pushBound_pending (s : State) (b : Bound) : (s.pushBound b).pending = s.pending := rfl
@[simp] theorem State.pushBound_out (s : State) (b : Bound) : (s.pushBound b).out = s.out := rfl
@[simp] theorem State.pushBound_free (s : State) (b : Bound) : (s.pushBound b).free = s.free := rfl
@[simp] theorem State.pushBound_cur (s : State) (b : Bound) : (s.pushBound b).cur = s.cur := rfl
@[simp] theorem State.pushBound_cfg (s : State) (b : Bound) : (s.pushBound b).cfg = s.cfg := rfl
@[simp] theorem State.pushBound_rings (s : State) (b : Bound) : (s.pushBound b).rings = s.rings := rfl
@[simp] theorem State.pushBound_ports (s : State) (b : Bound) : (s.pushBound b).ports = s.ports := rfl
@[simp] theorem State.pushBound_time (s : State) (b : Bound) : (s.pushBound b).time = s.time := rfl
@[simp] theorem State.pushBound_plan (s : State) (b : Bound) : (s.pushBound b).plan = s.plan := rfl
@[simp] theorem State.pushBound_link (s : State) (b : Bound) : (s.pushBound b).link = s.link := rfl
@[simp] theorem State.pushBound_store (s : State) (b : Bound) : (s.pushBound b).store = s.store := rfl
@[simp] theorem State.pushBound_takes (s : State) (b : Bound) : (s.pushBound b).takes = s.takes := rfl
@[simp] theorem State.pushBound_mover (s : State) (b : Bound) : (s.pushBound b).mover = s.mover := rfl
@[simp] theorem State.pushBound_mag (s : State) (b : Bound) : (s.pushBound b).mag = s.mag := rfl
@[simp] theorem State.pushBound_svc (s : State) (b : Bound) : (s.pushBound b).svc = s.svc := rfl
@[simp] theorem State.pushBound_obj (s : State) (b : Bound) : (s.pushBound b).obj = s.obj := rfl
@[simp] theorem State.pushBound_sec (s : State) (b : Bound) : (s.pushBound b).sec = s.sec := rfl
@[simp] theorem State.pushBound_motion (s : State) (b : Bound) : (s.pushBound b).motion = s.motion := rfl
@[simp] theorem State.pushBound_ckpt (s : State) (b : Bound) : (s.pushBound b).ckpt = s.ckpt := rfl
@[simp] theorem State.pushBound_hbm (s : State) (b : Bound) : (s.pushBound b).hbm = s.hbm := rfl

/-! setDev -/

@[simp] theorem State.setDev_pending (s : State) (f : DevState → DevState) : (s.setDev f).pending = s.pending := rfl
@[simp] theorem State.setDev_out (s : State) (f : DevState → DevState) : (s.setDev f).out = s.out := rfl
@[simp] theorem State.setDev_free (s : State) (f : DevState → DevState) : (s.setDev f).free = s.free := rfl
@[simp] theorem State.setDev_cur (s : State) (f : DevState → DevState) : (s.setDev f).cur = s.cur := rfl
@[simp] theorem State.setDev_cfg (s : State) (f : DevState → DevState) : (s.setDev f).cfg = s.cfg := rfl
@[simp] theorem State.setDev_rings (s : State) (f : DevState → DevState) : (s.setDev f).rings = s.rings := rfl
@[simp] theorem State.setDev_ports (s : State) (f : DevState → DevState) : (s.setDev f).ports = s.ports := rfl
@[simp] theorem State.setDev_time (s : State) (f : DevState → DevState) : (s.setDev f).time = s.time := rfl
@[simp] theorem State.setDev_plan (s : State) (f : DevState → DevState) : (s.setDev f).plan = s.plan := rfl
@[simp] theorem State.setDev_link (s : State) (f : DevState → DevState) : (s.setDev f).link = s.link := rfl
@[simp] theorem State.setDev_store (s : State) (f : DevState → DevState) : (s.setDev f).store = s.store := rfl
@[simp] theorem State.setDev_takes (s : State) (f : DevState → DevState) : (s.setDev f).takes = s.takes := rfl
@[simp] theorem State.setDev_mover (s : State) (f : DevState → DevState) : (s.setDev f).mover = s.mover := rfl
@[simp] theorem State.setDev_mag (s : State) (f : DevState → DevState) : (s.setDev f).mag = s.mag := rfl
@[simp] theorem State.setDev_svc (s : State) (f : DevState → DevState) : (s.setDev f).svc = s.svc := rfl
@[simp] theorem State.setDev_obj (s : State) (f : DevState → DevState) : (s.setDev f).obj = s.obj := rfl
@[simp] theorem State.setDev_sec (s : State) (f : DevState → DevState) : (s.setDev f).sec = s.sec := rfl
@[simp] theorem State.setDev_motion (s : State) (f : DevState → DevState) : (s.setDev f).motion = s.motion := rfl
@[simp] theorem State.setDev_ckpt (s : State) (f : DevState → DevState) : (s.setDev f).ckpt = s.ckpt := rfl
@[simp] theorem State.setDev_hbm (s : State) (f : DevState → DevState) : (s.setDev f).hbm = s.hbm := rfl

/-! setCfg -/

@[simp] theorem State.setCfg_pending (s : State) (f : CfgState → CfgState) : (s.setCfg f).pending = s.pending := rfl
@[simp] theorem State.setCfg_out (s : State) (f : CfgState → CfgState) : (s.setCfg f).out = s.out := rfl
@[simp] theorem State.setCfg_free (s : State) (f : CfgState → CfgState) : (s.setCfg f).free = s.free := rfl
@[simp] theorem State.setCfg_cur (s : State) (f : CfgState → CfgState) : (s.setCfg f).cur = s.cur := rfl
@[simp] theorem State.setCfg_dev (s : State) (f : CfgState → CfgState) : (s.setCfg f).dev = s.dev := rfl
@[simp] theorem State.setCfg_rings (s : State) (f : CfgState → CfgState) : (s.setCfg f).rings = s.rings := rfl
@[simp] theorem State.setCfg_ports (s : State) (f : CfgState → CfgState) : (s.setCfg f).ports = s.ports := rfl
@[simp] theorem State.setCfg_time (s : State) (f : CfgState → CfgState) : (s.setCfg f).time = s.time := rfl
@[simp] theorem State.setCfg_plan (s : State) (f : CfgState → CfgState) : (s.setCfg f).plan = s.plan := rfl
@[simp] theorem State.setCfg_link (s : State) (f : CfgState → CfgState) : (s.setCfg f).link = s.link := rfl
@[simp] theorem State.setCfg_store (s : State) (f : CfgState → CfgState) : (s.setCfg f).store = s.store := rfl
@[simp] theorem State.setCfg_takes (s : State) (f : CfgState → CfgState) : (s.setCfg f).takes = s.takes := rfl
@[simp] theorem State.setCfg_mover (s : State) (f : CfgState → CfgState) : (s.setCfg f).mover = s.mover := rfl
@[simp] theorem State.setCfg_mag (s : State) (f : CfgState → CfgState) : (s.setCfg f).mag = s.mag := rfl
@[simp] theorem State.setCfg_svc (s : State) (f : CfgState → CfgState) : (s.setCfg f).svc = s.svc := rfl
@[simp] theorem State.setCfg_obj (s : State) (f : CfgState → CfgState) : (s.setCfg f).obj = s.obj := rfl
@[simp] theorem State.setCfg_sec (s : State) (f : CfgState → CfgState) : (s.setCfg f).sec = s.sec := rfl
@[simp] theorem State.setCfg_motion (s : State) (f : CfgState → CfgState) : (s.setCfg f).motion = s.motion := rfl
@[simp] theorem State.setCfg_ckpt (s : State) (f : CfgState → CfgState) : (s.setCfg f).ckpt = s.ckpt := rfl
@[simp] theorem State.setCfg_hbm (s : State) (f : CfgState → CfgState) : (s.setCfg f).hbm = s.hbm := rfl

/-! setSvc -/

@[simp] theorem State.setSvc_pending (s : State) (f : SvcState → SvcState) : (s.setSvc f).pending = s.pending := rfl
@[simp] theorem State.setSvc_out (s : State) (f : SvcState → SvcState) : (s.setSvc f).out = s.out := rfl
@[simp] theorem State.setSvc_free (s : State) (f : SvcState → SvcState) : (s.setSvc f).free = s.free := rfl
@[simp] theorem State.setSvc_cur (s : State) (f : SvcState → SvcState) : (s.setSvc f).cur = s.cur := rfl
@[simp] theorem State.setSvc_cfg (s : State) (f : SvcState → SvcState) : (s.setSvc f).cfg = s.cfg := rfl
@[simp] theorem State.setSvc_dev (s : State) (f : SvcState → SvcState) : (s.setSvc f).dev = s.dev := rfl
@[simp] theorem State.setSvc_rings (s : State) (f : SvcState → SvcState) : (s.setSvc f).rings = s.rings := rfl
@[simp] theorem State.setSvc_ports (s : State) (f : SvcState → SvcState) : (s.setSvc f).ports = s.ports := rfl
@[simp] theorem State.setSvc_time (s : State) (f : SvcState → SvcState) : (s.setSvc f).time = s.time := rfl
@[simp] theorem State.setSvc_plan (s : State) (f : SvcState → SvcState) : (s.setSvc f).plan = s.plan := rfl
@[simp] theorem State.setSvc_link (s : State) (f : SvcState → SvcState) : (s.setSvc f).link = s.link := rfl
@[simp] theorem State.setSvc_store (s : State) (f : SvcState → SvcState) : (s.setSvc f).store = s.store := rfl
@[simp] theorem State.setSvc_takes (s : State) (f : SvcState → SvcState) : (s.setSvc f).takes = s.takes := rfl
@[simp] theorem State.setSvc_mover (s : State) (f : SvcState → SvcState) : (s.setSvc f).mover = s.mover := rfl
@[simp] theorem State.setSvc_mag (s : State) (f : SvcState → SvcState) : (s.setSvc f).mag = s.mag := rfl
@[simp] theorem State.setSvc_obj (s : State) (f : SvcState → SvcState) : (s.setSvc f).obj = s.obj := rfl
@[simp] theorem State.setSvc_sec (s : State) (f : SvcState → SvcState) : (s.setSvc f).sec = s.sec := rfl
@[simp] theorem State.setSvc_motion (s : State) (f : SvcState → SvcState) : (s.setSvc f).motion = s.motion := rfl
@[simp] theorem State.setSvc_ckpt (s : State) (f : SvcState → SvcState) : (s.setSvc f).ckpt = s.ckpt := rfl
@[simp] theorem State.setSvc_hbm (s : State) (f : SvcState → SvcState) : (s.setSvc f).hbm = s.hbm := rfl

/-! setUnit -/

@[simp] theorem State.setUnit_pending (s : State) (kind i code : Nat) : (s.setUnit kind i code).pending = s.pending := rfl
@[simp] theorem State.setUnit_out (s : State) (kind i code : Nat) : (s.setUnit kind i code).out = s.out := rfl
@[simp] theorem State.setUnit_free (s : State) (kind i code : Nat) : (s.setUnit kind i code).free = s.free := rfl
@[simp] theorem State.setUnit_cur (s : State) (kind i code : Nat) : (s.setUnit kind i code).cur = s.cur := rfl
@[simp] theorem State.setUnit_cfg (s : State) (kind i code : Nat) : (s.setUnit kind i code).cfg = s.cfg := rfl
@[simp] theorem State.setUnit_dev (s : State) (kind i code : Nat) : (s.setUnit kind i code).dev = s.dev := rfl
@[simp] theorem State.setUnit_rings (s : State) (kind i code : Nat) : (s.setUnit kind i code).rings = s.rings := rfl
@[simp] theorem State.setUnit_ports (s : State) (kind i code : Nat) : (s.setUnit kind i code).ports = s.ports := rfl
@[simp] theorem State.setUnit_time (s : State) (kind i code : Nat) : (s.setUnit kind i code).time = s.time := rfl
@[simp] theorem State.setUnit_plan (s : State) (kind i code : Nat) : (s.setUnit kind i code).plan = s.plan := rfl
@[simp] theorem State.setUnit_link (s : State) (kind i code : Nat) : (s.setUnit kind i code).link = s.link := rfl
@[simp] theorem State.setUnit_store (s : State) (kind i code : Nat) : (s.setUnit kind i code).store = s.store := rfl
@[simp] theorem State.setUnit_takes (s : State) (kind i code : Nat) : (s.setUnit kind i code).takes = s.takes := rfl
@[simp] theorem State.setUnit_mover (s : State) (kind i code : Nat) : (s.setUnit kind i code).mover = s.mover := rfl
@[simp] theorem State.setUnit_mag (s : State) (kind i code : Nat) : (s.setUnit kind i code).mag = s.mag := rfl
@[simp] theorem State.setUnit_obj (s : State) (kind i code : Nat) : (s.setUnit kind i code).obj = s.obj := rfl
@[simp] theorem State.setUnit_sec (s : State) (kind i code : Nat) : (s.setUnit kind i code).sec = s.sec := rfl
@[simp] theorem State.setUnit_motion (s : State) (kind i code : Nat) : (s.setUnit kind i code).motion = s.motion := rfl
@[simp] theorem State.setUnit_ckpt (s : State) (kind i code : Nat) : (s.setUnit kind i code).ckpt = s.ckpt := rfl
@[simp] theorem State.setUnit_hbm (s : State) (kind i code : Nat) : (s.setUnit kind i code).hbm = s.hbm := rfl

/-! setDue -/

@[simp] theorem State.setDue_pending (s : State) (e : UnitDue) : (s.setDue e).pending = s.pending := rfl
@[simp] theorem State.setDue_out (s : State) (e : UnitDue) : (s.setDue e).out = s.out := rfl
@[simp] theorem State.setDue_free (s : State) (e : UnitDue) : (s.setDue e).free = s.free := rfl
@[simp] theorem State.setDue_cur (s : State) (e : UnitDue) : (s.setDue e).cur = s.cur := rfl
@[simp] theorem State.setDue_cfg (s : State) (e : UnitDue) : (s.setDue e).cfg = s.cfg := rfl
@[simp] theorem State.setDue_dev (s : State) (e : UnitDue) : (s.setDue e).dev = s.dev := rfl
@[simp] theorem State.setDue_rings (s : State) (e : UnitDue) : (s.setDue e).rings = s.rings := rfl
@[simp] theorem State.setDue_ports (s : State) (e : UnitDue) : (s.setDue e).ports = s.ports := rfl
@[simp] theorem State.setDue_time (s : State) (e : UnitDue) : (s.setDue e).time = s.time := rfl
@[simp] theorem State.setDue_plan (s : State) (e : UnitDue) : (s.setDue e).plan = s.plan := rfl
@[simp] theorem State.setDue_link (s : State) (e : UnitDue) : (s.setDue e).link = s.link := rfl
@[simp] theorem State.setDue_store (s : State) (e : UnitDue) : (s.setDue e).store = s.store := rfl
@[simp] theorem State.setDue_takes (s : State) (e : UnitDue) : (s.setDue e).takes = s.takes := rfl
@[simp] theorem State.setDue_mover (s : State) (e : UnitDue) : (s.setDue e).mover = s.mover := rfl
@[simp] theorem State.setDue_mag (s : State) (e : UnitDue) : (s.setDue e).mag = s.mag := rfl
@[simp] theorem State.setDue_obj (s : State) (e : UnitDue) : (s.setDue e).obj = s.obj := rfl
@[simp] theorem State.setDue_sec (s : State) (e : UnitDue) : (s.setDue e).sec = s.sec := rfl
@[simp] theorem State.setDue_motion (s : State) (e : UnitDue) : (s.setDue e).motion = s.motion := rfl
@[simp] theorem State.setDue_ckpt (s : State) (e : UnitDue) : (s.setDue e).ckpt = s.ckpt := rfl
@[simp] theorem State.setDue_hbm (s : State) (e : UnitDue) : (s.setDue e).hbm = s.hbm := rfl

/-! setLane -/

@[simp] theorem State.setLane_pending (s : State) (n : Nat) (f : LaneSt → LaneSt) : (s.setLane n f).pending = s.pending := rfl
@[simp] theorem State.setLane_out (s : State) (n : Nat) (f : LaneSt → LaneSt) : (s.setLane n f).out = s.out := rfl
@[simp] theorem State.setLane_free (s : State) (n : Nat) (f : LaneSt → LaneSt) : (s.setLane n f).free = s.free := rfl
@[simp] theorem State.setLane_cur (s : State) (n : Nat) (f : LaneSt → LaneSt) : (s.setLane n f).cur = s.cur := rfl
@[simp] theorem State.setLane_cfg (s : State) (n : Nat) (f : LaneSt → LaneSt) : (s.setLane n f).cfg = s.cfg := rfl
@[simp] theorem State.setLane_dev (s : State) (n : Nat) (f : LaneSt → LaneSt) : (s.setLane n f).dev = s.dev := rfl
@[simp] theorem State.setLane_rings (s : State) (n : Nat) (f : LaneSt → LaneSt) : (s.setLane n f).rings = s.rings := rfl
@[simp] theorem State.setLane_ports (s : State) (n : Nat) (f : LaneSt → LaneSt) : (s.setLane n f).ports = s.ports := rfl
@[simp] theorem State.setLane_time (s : State) (n : Nat) (f : LaneSt → LaneSt) : (s.setLane n f).time = s.time := rfl
@[simp] theorem State.setLane_plan (s : State) (n : Nat) (f : LaneSt → LaneSt) : (s.setLane n f).plan = s.plan := rfl
@[simp] theorem State.setLane_store (s : State) (n : Nat) (f : LaneSt → LaneSt) : (s.setLane n f).store = s.store := rfl
@[simp] theorem State.setLane_takes (s : State) (n : Nat) (f : LaneSt → LaneSt) : (s.setLane n f).takes = s.takes := rfl
@[simp] theorem State.setLane_mover (s : State) (n : Nat) (f : LaneSt → LaneSt) : (s.setLane n f).mover = s.mover := rfl
@[simp] theorem State.setLane_mag (s : State) (n : Nat) (f : LaneSt → LaneSt) : (s.setLane n f).mag = s.mag := rfl
@[simp] theorem State.setLane_svc (s : State) (n : Nat) (f : LaneSt → LaneSt) : (s.setLane n f).svc = s.svc := rfl
@[simp] theorem State.setLane_obj (s : State) (n : Nat) (f : LaneSt → LaneSt) : (s.setLane n f).obj = s.obj := rfl
@[simp] theorem State.setLane_sec (s : State) (n : Nat) (f : LaneSt → LaneSt) : (s.setLane n f).sec = s.sec := rfl
@[simp] theorem State.setLane_motion (s : State) (n : Nat) (f : LaneSt → LaneSt) : (s.setLane n f).motion = s.motion := rfl
@[simp] theorem State.setLane_ckpt (s : State) (n : Nat) (f : LaneSt → LaneSt) : (s.setLane n f).ckpt = s.ckpt := rfl
@[simp] theorem State.setLane_hbm (s : State) (n : Nat) (f : LaneSt → LaneSt) : (s.setLane n f).hbm = s.hbm := rfl

/-! setHl -/

@[simp] theorem State.setHl_pending (s : State) (l : Nat) (f : LinkSt → LinkSt) : (s.setHl l f).pending = s.pending := rfl
@[simp] theorem State.setHl_out (s : State) (l : Nat) (f : LinkSt → LinkSt) : (s.setHl l f).out = s.out := rfl
@[simp] theorem State.setHl_free (s : State) (l : Nat) (f : LinkSt → LinkSt) : (s.setHl l f).free = s.free := rfl
@[simp] theorem State.setHl_cur (s : State) (l : Nat) (f : LinkSt → LinkSt) : (s.setHl l f).cur = s.cur := rfl
@[simp] theorem State.setHl_cfg (s : State) (l : Nat) (f : LinkSt → LinkSt) : (s.setHl l f).cfg = s.cfg := rfl
@[simp] theorem State.setHl_dev (s : State) (l : Nat) (f : LinkSt → LinkSt) : (s.setHl l f).dev = s.dev := rfl
@[simp] theorem State.setHl_rings (s : State) (l : Nat) (f : LinkSt → LinkSt) : (s.setHl l f).rings = s.rings := rfl
@[simp] theorem State.setHl_ports (s : State) (l : Nat) (f : LinkSt → LinkSt) : (s.setHl l f).ports = s.ports := rfl
@[simp] theorem State.setHl_time (s : State) (l : Nat) (f : LinkSt → LinkSt) : (s.setHl l f).time = s.time := rfl
@[simp] theorem State.setHl_plan (s : State) (l : Nat) (f : LinkSt → LinkSt) : (s.setHl l f).plan = s.plan := rfl
@[simp] theorem State.setHl_store (s : State) (l : Nat) (f : LinkSt → LinkSt) : (s.setHl l f).store = s.store := rfl
@[simp] theorem State.setHl_takes (s : State) (l : Nat) (f : LinkSt → LinkSt) : (s.setHl l f).takes = s.takes := rfl
@[simp] theorem State.setHl_mover (s : State) (l : Nat) (f : LinkSt → LinkSt) : (s.setHl l f).mover = s.mover := rfl
@[simp] theorem State.setHl_mag (s : State) (l : Nat) (f : LinkSt → LinkSt) : (s.setHl l f).mag = s.mag := rfl
@[simp] theorem State.setHl_svc (s : State) (l : Nat) (f : LinkSt → LinkSt) : (s.setHl l f).svc = s.svc := rfl
@[simp] theorem State.setHl_obj (s : State) (l : Nat) (f : LinkSt → LinkSt) : (s.setHl l f).obj = s.obj := rfl
@[simp] theorem State.setHl_sec (s : State) (l : Nat) (f : LinkSt → LinkSt) : (s.setHl l f).sec = s.sec := rfl
@[simp] theorem State.setHl_motion (s : State) (l : Nat) (f : LinkSt → LinkSt) : (s.setHl l f).motion = s.motion := rfl
@[simp] theorem State.setHl_ckpt (s : State) (l : Nat) (f : LinkSt → LinkSt) : (s.setHl l f).ckpt = s.ckpt := rfl
@[simp] theorem State.setHl_hbm (s : State) (l : Nat) (f : LinkSt → LinkSt) : (s.setHl l f).hbm = s.hbm := rfl

/-! setSwap -/

@[simp] theorem State.setSwap_pending (s : State) (p : Nat) (w : Option Swap) : (s.setSwap p w).pending = s.pending := rfl
@[simp] theorem State.setSwap_out (s : State) (p : Nat) (w : Option Swap) : (s.setSwap p w).out = s.out := rfl
@[simp] theorem State.setSwap_free (s : State) (p : Nat) (w : Option Swap) : (s.setSwap p w).free = s.free := rfl
@[simp] theorem State.setSwap_cur (s : State) (p : Nat) (w : Option Swap) : (s.setSwap p w).cur = s.cur := rfl
@[simp] theorem State.setSwap_cfg (s : State) (p : Nat) (w : Option Swap) : (s.setSwap p w).cfg = s.cfg := rfl
@[simp] theorem State.setSwap_dev (s : State) (p : Nat) (w : Option Swap) : (s.setSwap p w).dev = s.dev := rfl
@[simp] theorem State.setSwap_rings (s : State) (p : Nat) (w : Option Swap) : (s.setSwap p w).rings = s.rings := rfl
@[simp] theorem State.setSwap_ports (s : State) (p : Nat) (w : Option Swap) : (s.setSwap p w).ports = s.ports := rfl
@[simp] theorem State.setSwap_time (s : State) (p : Nat) (w : Option Swap) : (s.setSwap p w).time = s.time := rfl
@[simp] theorem State.setSwap_plan (s : State) (p : Nat) (w : Option Swap) : (s.setSwap p w).plan = s.plan := rfl
@[simp] theorem State.setSwap_store (s : State) (p : Nat) (w : Option Swap) : (s.setSwap p w).store = s.store := rfl
@[simp] theorem State.setSwap_takes (s : State) (p : Nat) (w : Option Swap) : (s.setSwap p w).takes = s.takes := rfl
@[simp] theorem State.setSwap_mover (s : State) (p : Nat) (w : Option Swap) : (s.setSwap p w).mover = s.mover := rfl
@[simp] theorem State.setSwap_mag (s : State) (p : Nat) (w : Option Swap) : (s.setSwap p w).mag = s.mag := rfl
@[simp] theorem State.setSwap_svc (s : State) (p : Nat) (w : Option Swap) : (s.setSwap p w).svc = s.svc := rfl
@[simp] theorem State.setSwap_obj (s : State) (p : Nat) (w : Option Swap) : (s.setSwap p w).obj = s.obj := rfl
@[simp] theorem State.setSwap_sec (s : State) (p : Nat) (w : Option Swap) : (s.setSwap p w).sec = s.sec := rfl
@[simp] theorem State.setSwap_motion (s : State) (p : Nat) (w : Option Swap) : (s.setSwap p w).motion = s.motion := rfl
@[simp] theorem State.setSwap_ckpt (s : State) (p : Nat) (w : Option Swap) : (s.setSwap p w).ckpt = s.ckpt := rfl
@[simp] theorem State.setSwap_hbm (s : State) (p : Nat) (w : Option Swap) : (s.setSwap p w).hbm = s.hbm := rfl

/-! setMag -/

@[simp] theorem State.setMag_pending (s : State) (f : MagState → MagState) : (s.setMag f).pending = s.pending := rfl
@[simp] theorem State.setMag_out (s : State) (f : MagState → MagState) : (s.setMag f).out = s.out := rfl
@[simp] theorem State.setMag_free (s : State) (f : MagState → MagState) : (s.setMag f).free = s.free := rfl
@[simp] theorem State.setMag_cur (s : State) (f : MagState → MagState) : (s.setMag f).cur = s.cur := rfl
@[simp] theorem State.setMag_cfg (s : State) (f : MagState → MagState) : (s.setMag f).cfg = s.cfg := rfl
@[simp] theorem State.setMag_dev (s : State) (f : MagState → MagState) : (s.setMag f).dev = s.dev := rfl
@[simp] theorem State.setMag_rings (s : State) (f : MagState → MagState) : (s.setMag f).rings = s.rings := rfl
@[simp] theorem State.setMag_ports (s : State) (f : MagState → MagState) : (s.setMag f).ports = s.ports := rfl
@[simp] theorem State.setMag_time (s : State) (f : MagState → MagState) : (s.setMag f).time = s.time := rfl
@[simp] theorem State.setMag_plan (s : State) (f : MagState → MagState) : (s.setMag f).plan = s.plan := rfl
@[simp] theorem State.setMag_link (s : State) (f : MagState → MagState) : (s.setMag f).link = s.link := rfl
@[simp] theorem State.setMag_store (s : State) (f : MagState → MagState) : (s.setMag f).store = s.store := rfl
@[simp] theorem State.setMag_takes (s : State) (f : MagState → MagState) : (s.setMag f).takes = s.takes := rfl
@[simp] theorem State.setMag_mover (s : State) (f : MagState → MagState) : (s.setMag f).mover = s.mover := rfl
@[simp] theorem State.setMag_svc (s : State) (f : MagState → MagState) : (s.setMag f).svc = s.svc := rfl
@[simp] theorem State.setMag_obj (s : State) (f : MagState → MagState) : (s.setMag f).obj = s.obj := rfl
@[simp] theorem State.setMag_sec (s : State) (f : MagState → MagState) : (s.setMag f).sec = s.sec := rfl
@[simp] theorem State.setMag_motion (s : State) (f : MagState → MagState) : (s.setMag f).motion = s.motion := rfl
@[simp] theorem State.setMag_ckpt (s : State) (f : MagState → MagState) : (s.setMag f).ckpt = s.ckpt := rfl
@[simp] theorem State.setMag_hbm (s : State) (f : MagState → MagState) : (s.setMag f).hbm = s.hbm := rfl

/-! setBay -/

@[simp] theorem State.setBay_pending (s : State) (b : Nat) (f : BaySt → BaySt) : (s.setBay b f).pending = s.pending := rfl
@[simp] theorem State.setBay_out (s : State) (b : Nat) (f : BaySt → BaySt) : (s.setBay b f).out = s.out := rfl
@[simp] theorem State.setBay_free (s : State) (b : Nat) (f : BaySt → BaySt) : (s.setBay b f).free = s.free := rfl
@[simp] theorem State.setBay_cur (s : State) (b : Nat) (f : BaySt → BaySt) : (s.setBay b f).cur = s.cur := rfl
@[simp] theorem State.setBay_cfg (s : State) (b : Nat) (f : BaySt → BaySt) : (s.setBay b f).cfg = s.cfg := rfl
@[simp] theorem State.setBay_dev (s : State) (b : Nat) (f : BaySt → BaySt) : (s.setBay b f).dev = s.dev := rfl
@[simp] theorem State.setBay_rings (s : State) (b : Nat) (f : BaySt → BaySt) : (s.setBay b f).rings = s.rings := rfl
@[simp] theorem State.setBay_ports (s : State) (b : Nat) (f : BaySt → BaySt) : (s.setBay b f).ports = s.ports := rfl
@[simp] theorem State.setBay_time (s : State) (b : Nat) (f : BaySt → BaySt) : (s.setBay b f).time = s.time := rfl
@[simp] theorem State.setBay_plan (s : State) (b : Nat) (f : BaySt → BaySt) : (s.setBay b f).plan = s.plan := rfl
@[simp] theorem State.setBay_link (s : State) (b : Nat) (f : BaySt → BaySt) : (s.setBay b f).link = s.link := rfl
@[simp] theorem State.setBay_store (s : State) (b : Nat) (f : BaySt → BaySt) : (s.setBay b f).store = s.store := rfl
@[simp] theorem State.setBay_takes (s : State) (b : Nat) (f : BaySt → BaySt) : (s.setBay b f).takes = s.takes := rfl
@[simp] theorem State.setBay_mover (s : State) (b : Nat) (f : BaySt → BaySt) : (s.setBay b f).mover = s.mover := rfl
@[simp] theorem State.setBay_svc (s : State) (b : Nat) (f : BaySt → BaySt) : (s.setBay b f).svc = s.svc := rfl
@[simp] theorem State.setBay_obj (s : State) (b : Nat) (f : BaySt → BaySt) : (s.setBay b f).obj = s.obj := rfl
@[simp] theorem State.setBay_sec (s : State) (b : Nat) (f : BaySt → BaySt) : (s.setBay b f).sec = s.sec := rfl
@[simp] theorem State.setBay_motion (s : State) (b : Nat) (f : BaySt → BaySt) : (s.setBay b f).motion = s.motion := rfl
@[simp] theorem State.setBay_ckpt (s : State) (b : Nat) (f : BaySt → BaySt) : (s.setBay b f).ckpt = s.ckpt := rfl
@[simp] theorem State.setBay_hbm (s : State) (b : Nat) (f : BaySt → BaySt) : (s.setBay b f).hbm = s.hbm := rfl

/-! setDrive -/

@[simp] theorem State.setDrive_pending (s : State) (d : Nat) (f : DriveSt → DriveSt) : (s.setDrive d f).pending = s.pending := rfl
@[simp] theorem State.setDrive_out (s : State) (d : Nat) (f : DriveSt → DriveSt) : (s.setDrive d f).out = s.out := rfl
@[simp] theorem State.setDrive_free (s : State) (d : Nat) (f : DriveSt → DriveSt) : (s.setDrive d f).free = s.free := rfl
@[simp] theorem State.setDrive_cur (s : State) (d : Nat) (f : DriveSt → DriveSt) : (s.setDrive d f).cur = s.cur := rfl
@[simp] theorem State.setDrive_cfg (s : State) (d : Nat) (f : DriveSt → DriveSt) : (s.setDrive d f).cfg = s.cfg := rfl
@[simp] theorem State.setDrive_dev (s : State) (d : Nat) (f : DriveSt → DriveSt) : (s.setDrive d f).dev = s.dev := rfl
@[simp] theorem State.setDrive_rings (s : State) (d : Nat) (f : DriveSt → DriveSt) : (s.setDrive d f).rings = s.rings := rfl
@[simp] theorem State.setDrive_ports (s : State) (d : Nat) (f : DriveSt → DriveSt) : (s.setDrive d f).ports = s.ports := rfl
@[simp] theorem State.setDrive_time (s : State) (d : Nat) (f : DriveSt → DriveSt) : (s.setDrive d f).time = s.time := rfl
@[simp] theorem State.setDrive_plan (s : State) (d : Nat) (f : DriveSt → DriveSt) : (s.setDrive d f).plan = s.plan := rfl
@[simp] theorem State.setDrive_link (s : State) (d : Nat) (f : DriveSt → DriveSt) : (s.setDrive d f).link = s.link := rfl
@[simp] theorem State.setDrive_store (s : State) (d : Nat) (f : DriveSt → DriveSt) : (s.setDrive d f).store = s.store := rfl
@[simp] theorem State.setDrive_takes (s : State) (d : Nat) (f : DriveSt → DriveSt) : (s.setDrive d f).takes = s.takes := rfl
@[simp] theorem State.setDrive_mover (s : State) (d : Nat) (f : DriveSt → DriveSt) : (s.setDrive d f).mover = s.mover := rfl
@[simp] theorem State.setDrive_svc (s : State) (d : Nat) (f : DriveSt → DriveSt) : (s.setDrive d f).svc = s.svc := rfl
@[simp] theorem State.setDrive_obj (s : State) (d : Nat) (f : DriveSt → DriveSt) : (s.setDrive d f).obj = s.obj := rfl
@[simp] theorem State.setDrive_sec (s : State) (d : Nat) (f : DriveSt → DriveSt) : (s.setDrive d f).sec = s.sec := rfl
@[simp] theorem State.setDrive_motion (s : State) (d : Nat) (f : DriveSt → DriveSt) : (s.setDrive d f).motion = s.motion := rfl
@[simp] theorem State.setDrive_ckpt (s : State) (d : Nat) (f : DriveSt → DriveSt) : (s.setDrive d f).ckpt = s.ckpt := rfl
@[simp] theorem State.setDrive_hbm (s : State) (d : Nat) (f : DriveSt → DriveSt) : (s.setDrive d f).hbm = s.hbm := rfl

/-! setRec -/

@[simp] theorem State.setRec_pending (s : State) (tid : Nat) (f : RecSt → RecSt) : (s.setRec tid f).pending = s.pending := rfl
@[simp] theorem State.setRec_out (s : State) (tid : Nat) (f : RecSt → RecSt) : (s.setRec tid f).out = s.out := rfl
@[simp] theorem State.setRec_free (s : State) (tid : Nat) (f : RecSt → RecSt) : (s.setRec tid f).free = s.free := rfl
@[simp] theorem State.setRec_cur (s : State) (tid : Nat) (f : RecSt → RecSt) : (s.setRec tid f).cur = s.cur := rfl
@[simp] theorem State.setRec_cfg (s : State) (tid : Nat) (f : RecSt → RecSt) : (s.setRec tid f).cfg = s.cfg := rfl
@[simp] theorem State.setRec_dev (s : State) (tid : Nat) (f : RecSt → RecSt) : (s.setRec tid f).dev = s.dev := rfl
@[simp] theorem State.setRec_rings (s : State) (tid : Nat) (f : RecSt → RecSt) : (s.setRec tid f).rings = s.rings := rfl
@[simp] theorem State.setRec_ports (s : State) (tid : Nat) (f : RecSt → RecSt) : (s.setRec tid f).ports = s.ports := rfl
@[simp] theorem State.setRec_time (s : State) (tid : Nat) (f : RecSt → RecSt) : (s.setRec tid f).time = s.time := rfl
@[simp] theorem State.setRec_plan (s : State) (tid : Nat) (f : RecSt → RecSt) : (s.setRec tid f).plan = s.plan := rfl
@[simp] theorem State.setRec_link (s : State) (tid : Nat) (f : RecSt → RecSt) : (s.setRec tid f).link = s.link := rfl
@[simp] theorem State.setRec_store (s : State) (tid : Nat) (f : RecSt → RecSt) : (s.setRec tid f).store = s.store := rfl
@[simp] theorem State.setRec_takes (s : State) (tid : Nat) (f : RecSt → RecSt) : (s.setRec tid f).takes = s.takes := rfl
@[simp] theorem State.setRec_mover (s : State) (tid : Nat) (f : RecSt → RecSt) : (s.setRec tid f).mover = s.mover := rfl
@[simp] theorem State.setRec_svc (s : State) (tid : Nat) (f : RecSt → RecSt) : (s.setRec tid f).svc = s.svc := rfl
@[simp] theorem State.setRec_obj (s : State) (tid : Nat) (f : RecSt → RecSt) : (s.setRec tid f).obj = s.obj := rfl
@[simp] theorem State.setRec_sec (s : State) (tid : Nat) (f : RecSt → RecSt) : (s.setRec tid f).sec = s.sec := rfl
@[simp] theorem State.setRec_motion (s : State) (tid : Nat) (f : RecSt → RecSt) : (s.setRec tid f).motion = s.motion := rfl
@[simp] theorem State.setRec_ckpt (s : State) (tid : Nat) (f : RecSt → RecSt) : (s.setRec tid f).ckpt = s.ckpt := rfl
@[simp] theorem State.setRec_hbm (s : State) (tid : Nat) (f : RecSt → RecSt) : (s.setRec tid f).hbm = s.hbm := rfl

/-! setJob -/

@[simp] theorem State.setJob_pending (s : State) (id : Nat) (f : MagJob → MagJob) : (s.setJob id f).pending = s.pending := rfl
@[simp] theorem State.setJob_out (s : State) (id : Nat) (f : MagJob → MagJob) : (s.setJob id f).out = s.out := rfl
@[simp] theorem State.setJob_free (s : State) (id : Nat) (f : MagJob → MagJob) : (s.setJob id f).free = s.free := rfl
@[simp] theorem State.setJob_cur (s : State) (id : Nat) (f : MagJob → MagJob) : (s.setJob id f).cur = s.cur := rfl
@[simp] theorem State.setJob_cfg (s : State) (id : Nat) (f : MagJob → MagJob) : (s.setJob id f).cfg = s.cfg := rfl
@[simp] theorem State.setJob_dev (s : State) (id : Nat) (f : MagJob → MagJob) : (s.setJob id f).dev = s.dev := rfl
@[simp] theorem State.setJob_rings (s : State) (id : Nat) (f : MagJob → MagJob) : (s.setJob id f).rings = s.rings := rfl
@[simp] theorem State.setJob_ports (s : State) (id : Nat) (f : MagJob → MagJob) : (s.setJob id f).ports = s.ports := rfl
@[simp] theorem State.setJob_time (s : State) (id : Nat) (f : MagJob → MagJob) : (s.setJob id f).time = s.time := rfl
@[simp] theorem State.setJob_plan (s : State) (id : Nat) (f : MagJob → MagJob) : (s.setJob id f).plan = s.plan := rfl
@[simp] theorem State.setJob_link (s : State) (id : Nat) (f : MagJob → MagJob) : (s.setJob id f).link = s.link := rfl
@[simp] theorem State.setJob_store (s : State) (id : Nat) (f : MagJob → MagJob) : (s.setJob id f).store = s.store := rfl
@[simp] theorem State.setJob_takes (s : State) (id : Nat) (f : MagJob → MagJob) : (s.setJob id f).takes = s.takes := rfl
@[simp] theorem State.setJob_mover (s : State) (id : Nat) (f : MagJob → MagJob) : (s.setJob id f).mover = s.mover := rfl
@[simp] theorem State.setJob_svc (s : State) (id : Nat) (f : MagJob → MagJob) : (s.setJob id f).svc = s.svc := rfl
@[simp] theorem State.setJob_obj (s : State) (id : Nat) (f : MagJob → MagJob) : (s.setJob id f).obj = s.obj := rfl
@[simp] theorem State.setJob_sec (s : State) (id : Nat) (f : MagJob → MagJob) : (s.setJob id f).sec = s.sec := rfl
@[simp] theorem State.setJob_motion (s : State) (id : Nat) (f : MagJob → MagJob) : (s.setJob id f).motion = s.motion := rfl
@[simp] theorem State.setJob_ckpt (s : State) (id : Nat) (f : MagJob → MagJob) : (s.setJob id f).ckpt = s.ckpt := rfl
@[simp] theorem State.setJob_hbm (s : State) (id : Nat) (f : MagJob → MagJob) : (s.setJob id f).hbm = s.hbm := rfl

/-! setSeg -/

@[simp] theorem State.setSeg_pending (s : State) (id : Nat) (f : Seg → Seg) : (s.setSeg id f).pending = s.pending := rfl
@[simp] theorem State.setSeg_out (s : State) (id : Nat) (f : Seg → Seg) : (s.setSeg id f).out = s.out := rfl
@[simp] theorem State.setSeg_free (s : State) (id : Nat) (f : Seg → Seg) : (s.setSeg id f).free = s.free := rfl
@[simp] theorem State.setSeg_cur (s : State) (id : Nat) (f : Seg → Seg) : (s.setSeg id f).cur = s.cur := rfl
@[simp] theorem State.setSeg_cfg (s : State) (id : Nat) (f : Seg → Seg) : (s.setSeg id f).cfg = s.cfg := rfl
@[simp] theorem State.setSeg_dev (s : State) (id : Nat) (f : Seg → Seg) : (s.setSeg id f).dev = s.dev := rfl
@[simp] theorem State.setSeg_rings (s : State) (id : Nat) (f : Seg → Seg) : (s.setSeg id f).rings = s.rings := rfl
@[simp] theorem State.setSeg_ports (s : State) (id : Nat) (f : Seg → Seg) : (s.setSeg id f).ports = s.ports := rfl
@[simp] theorem State.setSeg_time (s : State) (id : Nat) (f : Seg → Seg) : (s.setSeg id f).time = s.time := rfl
@[simp] theorem State.setSeg_plan (s : State) (id : Nat) (f : Seg → Seg) : (s.setSeg id f).plan = s.plan := rfl
@[simp] theorem State.setSeg_link (s : State) (id : Nat) (f : Seg → Seg) : (s.setSeg id f).link = s.link := rfl
@[simp] theorem State.setSeg_store (s : State) (id : Nat) (f : Seg → Seg) : (s.setSeg id f).store = s.store := rfl
@[simp] theorem State.setSeg_takes (s : State) (id : Nat) (f : Seg → Seg) : (s.setSeg id f).takes = s.takes := rfl
@[simp] theorem State.setSeg_mover (s : State) (id : Nat) (f : Seg → Seg) : (s.setSeg id f).mover = s.mover := rfl
@[simp] theorem State.setSeg_svc (s : State) (id : Nat) (f : Seg → Seg) : (s.setSeg id f).svc = s.svc := rfl
@[simp] theorem State.setSeg_obj (s : State) (id : Nat) (f : Seg → Seg) : (s.setSeg id f).obj = s.obj := rfl
@[simp] theorem State.setSeg_sec (s : State) (id : Nat) (f : Seg → Seg) : (s.setSeg id f).sec = s.sec := rfl
@[simp] theorem State.setSeg_motion (s : State) (id : Nat) (f : Seg → Seg) : (s.setSeg id f).motion = s.motion := rfl
@[simp] theorem State.setSeg_ckpt (s : State) (id : Nat) (f : Seg → Seg) : (s.setSeg id f).ckpt = s.ckpt := rfl
@[simp] theorem State.setSeg_hbm (s : State) (id : Nat) (f : Seg → Seg) : (s.setSeg id f).hbm = s.hbm := rfl

/-! setMch -/

@[simp] theorem State.setMch_pending (s : State) (ch : Nat) (f : MchSt → MchSt) : (s.setMch ch f).pending = s.pending := rfl
@[simp] theorem State.setMch_out (s : State) (ch : Nat) (f : MchSt → MchSt) : (s.setMch ch f).out = s.out := rfl
@[simp] theorem State.setMch_free (s : State) (ch : Nat) (f : MchSt → MchSt) : (s.setMch ch f).free = s.free := rfl
@[simp] theorem State.setMch_cur (s : State) (ch : Nat) (f : MchSt → MchSt) : (s.setMch ch f).cur = s.cur := rfl
@[simp] theorem State.setMch_cfg (s : State) (ch : Nat) (f : MchSt → MchSt) : (s.setMch ch f).cfg = s.cfg := rfl
@[simp] theorem State.setMch_dev (s : State) (ch : Nat) (f : MchSt → MchSt) : (s.setMch ch f).dev = s.dev := rfl
@[simp] theorem State.setMch_rings (s : State) (ch : Nat) (f : MchSt → MchSt) : (s.setMch ch f).rings = s.rings := rfl
@[simp] theorem State.setMch_ports (s : State) (ch : Nat) (f : MchSt → MchSt) : (s.setMch ch f).ports = s.ports := rfl
@[simp] theorem State.setMch_time (s : State) (ch : Nat) (f : MchSt → MchSt) : (s.setMch ch f).time = s.time := rfl
@[simp] theorem State.setMch_plan (s : State) (ch : Nat) (f : MchSt → MchSt) : (s.setMch ch f).plan = s.plan := rfl
@[simp] theorem State.setMch_link (s : State) (ch : Nat) (f : MchSt → MchSt) : (s.setMch ch f).link = s.link := rfl
@[simp] theorem State.setMch_store (s : State) (ch : Nat) (f : MchSt → MchSt) : (s.setMch ch f).store = s.store := rfl
@[simp] theorem State.setMch_takes (s : State) (ch : Nat) (f : MchSt → MchSt) : (s.setMch ch f).takes = s.takes := rfl
@[simp] theorem State.setMch_mover (s : State) (ch : Nat) (f : MchSt → MchSt) : (s.setMch ch f).mover = s.mover := rfl
@[simp] theorem State.setMch_mag (s : State) (ch : Nat) (f : MchSt → MchSt) : (s.setMch ch f).mag = s.mag := rfl
@[simp] theorem State.setMch_svc (s : State) (ch : Nat) (f : MchSt → MchSt) : (s.setMch ch f).svc = s.svc := rfl
@[simp] theorem State.setMch_obj (s : State) (ch : Nat) (f : MchSt → MchSt) : (s.setMch ch f).obj = s.obj := rfl
@[simp] theorem State.setMch_sec (s : State) (ch : Nat) (f : MchSt → MchSt) : (s.setMch ch f).sec = s.sec := rfl
@[simp] theorem State.setMch_ckpt (s : State) (ch : Nat) (f : MchSt → MchSt) : (s.setMch ch f).ckpt = s.ckpt := rfl
@[simp] theorem State.setMch_hbm (s : State) (ch : Nat) (f : MchSt → MchSt) : (s.setMch ch f).hbm = s.hbm := rfl

/-! setCmp -/

@[simp] theorem State.setCmp_pending (s : State) (u : Nat) (f : CmpSt → CmpSt) : (s.setCmp u f).pending = s.pending := rfl
@[simp] theorem State.setCmp_out (s : State) (u : Nat) (f : CmpSt → CmpSt) : (s.setCmp u f).out = s.out := rfl
@[simp] theorem State.setCmp_free (s : State) (u : Nat) (f : CmpSt → CmpSt) : (s.setCmp u f).free = s.free := rfl
@[simp] theorem State.setCmp_cur (s : State) (u : Nat) (f : CmpSt → CmpSt) : (s.setCmp u f).cur = s.cur := rfl
@[simp] theorem State.setCmp_cfg (s : State) (u : Nat) (f : CmpSt → CmpSt) : (s.setCmp u f).cfg = s.cfg := rfl
@[simp] theorem State.setCmp_dev (s : State) (u : Nat) (f : CmpSt → CmpSt) : (s.setCmp u f).dev = s.dev := rfl
@[simp] theorem State.setCmp_rings (s : State) (u : Nat) (f : CmpSt → CmpSt) : (s.setCmp u f).rings = s.rings := rfl
@[simp] theorem State.setCmp_ports (s : State) (u : Nat) (f : CmpSt → CmpSt) : (s.setCmp u f).ports = s.ports := rfl
@[simp] theorem State.setCmp_time (s : State) (u : Nat) (f : CmpSt → CmpSt) : (s.setCmp u f).time = s.time := rfl
@[simp] theorem State.setCmp_plan (s : State) (u : Nat) (f : CmpSt → CmpSt) : (s.setCmp u f).plan = s.plan := rfl
@[simp] theorem State.setCmp_link (s : State) (u : Nat) (f : CmpSt → CmpSt) : (s.setCmp u f).link = s.link := rfl
@[simp] theorem State.setCmp_store (s : State) (u : Nat) (f : CmpSt → CmpSt) : (s.setCmp u f).store = s.store := rfl
@[simp] theorem State.setCmp_takes (s : State) (u : Nat) (f : CmpSt → CmpSt) : (s.setCmp u f).takes = s.takes := rfl
@[simp] theorem State.setCmp_mover (s : State) (u : Nat) (f : CmpSt → CmpSt) : (s.setCmp u f).mover = s.mover := rfl
@[simp] theorem State.setCmp_mag (s : State) (u : Nat) (f : CmpSt → CmpSt) : (s.setCmp u f).mag = s.mag := rfl
@[simp] theorem State.setCmp_svc (s : State) (u : Nat) (f : CmpSt → CmpSt) : (s.setCmp u f).svc = s.svc := rfl
@[simp] theorem State.setCmp_obj (s : State) (u : Nat) (f : CmpSt → CmpSt) : (s.setCmp u f).obj = s.obj := rfl
@[simp] theorem State.setCmp_sec (s : State) (u : Nat) (f : CmpSt → CmpSt) : (s.setCmp u f).sec = s.sec := rfl
@[simp] theorem State.setCmp_ckpt (s : State) (u : Nat) (f : CmpSt → CmpSt) : (s.setCmp u f).ckpt = s.ckpt := rfl
@[simp] theorem State.setCmp_hbm (s : State) (u : Nat) (f : CmpSt → CmpSt) : (s.setCmp u f).hbm = s.hbm := rfl

/-! setEcho -/

@[simp] theorem State.setEcho_pending (s : State) (k : Nat) (f : EchoSt → EchoSt) : (s.setEcho k f).pending = s.pending := rfl
@[simp] theorem State.setEcho_out (s : State) (k : Nat) (f : EchoSt → EchoSt) : (s.setEcho k f).out = s.out := rfl
@[simp] theorem State.setEcho_free (s : State) (k : Nat) (f : EchoSt → EchoSt) : (s.setEcho k f).free = s.free := rfl
@[simp] theorem State.setEcho_cur (s : State) (k : Nat) (f : EchoSt → EchoSt) : (s.setEcho k f).cur = s.cur := rfl
@[simp] theorem State.setEcho_cfg (s : State) (k : Nat) (f : EchoSt → EchoSt) : (s.setEcho k f).cfg = s.cfg := rfl
@[simp] theorem State.setEcho_dev (s : State) (k : Nat) (f : EchoSt → EchoSt) : (s.setEcho k f).dev = s.dev := rfl
@[simp] theorem State.setEcho_rings (s : State) (k : Nat) (f : EchoSt → EchoSt) : (s.setEcho k f).rings = s.rings := rfl
@[simp] theorem State.setEcho_ports (s : State) (k : Nat) (f : EchoSt → EchoSt) : (s.setEcho k f).ports = s.ports := rfl
@[simp] theorem State.setEcho_time (s : State) (k : Nat) (f : EchoSt → EchoSt) : (s.setEcho k f).time = s.time := rfl
@[simp] theorem State.setEcho_plan (s : State) (k : Nat) (f : EchoSt → EchoSt) : (s.setEcho k f).plan = s.plan := rfl
@[simp] theorem State.setEcho_link (s : State) (k : Nat) (f : EchoSt → EchoSt) : (s.setEcho k f).link = s.link := rfl
@[simp] theorem State.setEcho_store (s : State) (k : Nat) (f : EchoSt → EchoSt) : (s.setEcho k f).store = s.store := rfl
@[simp] theorem State.setEcho_takes (s : State) (k : Nat) (f : EchoSt → EchoSt) : (s.setEcho k f).takes = s.takes := rfl
@[simp] theorem State.setEcho_mover (s : State) (k : Nat) (f : EchoSt → EchoSt) : (s.setEcho k f).mover = s.mover := rfl
@[simp] theorem State.setEcho_mag (s : State) (k : Nat) (f : EchoSt → EchoSt) : (s.setEcho k f).mag = s.mag := rfl
@[simp] theorem State.setEcho_svc (s : State) (k : Nat) (f : EchoSt → EchoSt) : (s.setEcho k f).svc = s.svc := rfl
@[simp] theorem State.setEcho_obj (s : State) (k : Nat) (f : EchoSt → EchoSt) : (s.setEcho k f).obj = s.obj := rfl
@[simp] theorem State.setEcho_sec (s : State) (k : Nat) (f : EchoSt → EchoSt) : (s.setEcho k f).sec = s.sec := rfl
@[simp] theorem State.setEcho_ckpt (s : State) (k : Nat) (f : EchoSt → EchoSt) : (s.setEcho k f).ckpt = s.ckpt := rfl
@[simp] theorem State.setEcho_hbm (s : State) (k : Nat) (f : EchoSt → EchoSt) : (s.setEcho k f).hbm = s.hbm := rfl

/-! setMover -/

@[simp] theorem State.setMover_pending (s : State) (f : MoverState → MoverState) : (s.setMover f).pending = s.pending := rfl
@[simp] theorem State.setMover_out (s : State) (f : MoverState → MoverState) : (s.setMover f).out = s.out := rfl
@[simp] theorem State.setMover_free (s : State) (f : MoverState → MoverState) : (s.setMover f).free = s.free := rfl
@[simp] theorem State.setMover_cur (s : State) (f : MoverState → MoverState) : (s.setMover f).cur = s.cur := rfl
@[simp] theorem State.setMover_cfg (s : State) (f : MoverState → MoverState) : (s.setMover f).cfg = s.cfg := rfl
@[simp] theorem State.setMover_dev (s : State) (f : MoverState → MoverState) : (s.setMover f).dev = s.dev := rfl
@[simp] theorem State.setMover_rings (s : State) (f : MoverState → MoverState) : (s.setMover f).rings = s.rings := rfl
@[simp] theorem State.setMover_ports (s : State) (f : MoverState → MoverState) : (s.setMover f).ports = s.ports := rfl
@[simp] theorem State.setMover_time (s : State) (f : MoverState → MoverState) : (s.setMover f).time = s.time := rfl
@[simp] theorem State.setMover_plan (s : State) (f : MoverState → MoverState) : (s.setMover f).plan = s.plan := rfl
@[simp] theorem State.setMover_link (s : State) (f : MoverState → MoverState) : (s.setMover f).link = s.link := rfl
@[simp] theorem State.setMover_store (s : State) (f : MoverState → MoverState) : (s.setMover f).store = s.store := rfl
@[simp] theorem State.setMover_takes (s : State) (f : MoverState → MoverState) : (s.setMover f).takes = s.takes := rfl
@[simp] theorem State.setMover_mag (s : State) (f : MoverState → MoverState) : (s.setMover f).mag = s.mag := rfl
@[simp] theorem State.setMover_svc (s : State) (f : MoverState → MoverState) : (s.setMover f).svc = s.svc := rfl
@[simp] theorem State.setMover_obj (s : State) (f : MoverState → MoverState) : (s.setMover f).obj = s.obj := rfl
@[simp] theorem State.setMover_sec (s : State) (f : MoverState → MoverState) : (s.setMover f).sec = s.sec := rfl
@[simp] theorem State.setMover_motion (s : State) (f : MoverState → MoverState) : (s.setMover f).motion = s.motion := rfl
@[simp] theorem State.setMover_ckpt (s : State) (f : MoverState → MoverState) : (s.setMover f).ckpt = s.ckpt := rfl
@[simp] theorem State.setMover_hbm (s : State) (f : MoverState → MoverState) : (s.setMover f).hbm = s.hbm := rfl

/-! setSub -/

@[simp] theorem State.setSub_pending (s : State) (k : Nat) (f : SubSt → SubSt) : (s.setSub k f).pending = s.pending := rfl
@[simp] theorem State.setSub_out (s : State) (k : Nat) (f : SubSt → SubSt) : (s.setSub k f).out = s.out := rfl
@[simp] theorem State.setSub_free (s : State) (k : Nat) (f : SubSt → SubSt) : (s.setSub k f).free = s.free := rfl
@[simp] theorem State.setSub_cur (s : State) (k : Nat) (f : SubSt → SubSt) : (s.setSub k f).cur = s.cur := rfl
@[simp] theorem State.setSub_cfg (s : State) (k : Nat) (f : SubSt → SubSt) : (s.setSub k f).cfg = s.cfg := rfl
@[simp] theorem State.setSub_dev (s : State) (k : Nat) (f : SubSt → SubSt) : (s.setSub k f).dev = s.dev := rfl
@[simp] theorem State.setSub_rings (s : State) (k : Nat) (f : SubSt → SubSt) : (s.setSub k f).rings = s.rings := rfl
@[simp] theorem State.setSub_ports (s : State) (k : Nat) (f : SubSt → SubSt) : (s.setSub k f).ports = s.ports := rfl
@[simp] theorem State.setSub_time (s : State) (k : Nat) (f : SubSt → SubSt) : (s.setSub k f).time = s.time := rfl
@[simp] theorem State.setSub_plan (s : State) (k : Nat) (f : SubSt → SubSt) : (s.setSub k f).plan = s.plan := rfl
@[simp] theorem State.setSub_link (s : State) (k : Nat) (f : SubSt → SubSt) : (s.setSub k f).link = s.link := rfl
@[simp] theorem State.setSub_store (s : State) (k : Nat) (f : SubSt → SubSt) : (s.setSub k f).store = s.store := rfl
@[simp] theorem State.setSub_takes (s : State) (k : Nat) (f : SubSt → SubSt) : (s.setSub k f).takes = s.takes := rfl
@[simp] theorem State.setSub_mag (s : State) (k : Nat) (f : SubSt → SubSt) : (s.setSub k f).mag = s.mag := rfl
@[simp] theorem State.setSub_svc (s : State) (k : Nat) (f : SubSt → SubSt) : (s.setSub k f).svc = s.svc := rfl
@[simp] theorem State.setSub_obj (s : State) (k : Nat) (f : SubSt → SubSt) : (s.setSub k f).obj = s.obj := rfl
@[simp] theorem State.setSub_sec (s : State) (k : Nat) (f : SubSt → SubSt) : (s.setSub k f).sec = s.sec := rfl
@[simp] theorem State.setSub_motion (s : State) (k : Nat) (f : SubSt → SubSt) : (s.setSub k f).motion = s.motion := rfl
@[simp] theorem State.setSub_ckpt (s : State) (k : Nat) (f : SubSt → SubSt) : (s.setSub k f).ckpt = s.ckpt := rfl
@[simp] theorem State.setSub_hbm (s : State) (k : Nat) (f : SubSt → SubSt) : (s.setSub k f).hbm = s.hbm := rfl

/-! setDlv -/

@[simp] theorem State.setDlv_pending (s : State) (x : Dlv) (f : Dlv → Dlv) : (s.setDlv x f).pending = s.pending := rfl
@[simp] theorem State.setDlv_out (s : State) (x : Dlv) (f : Dlv → Dlv) : (s.setDlv x f).out = s.out := rfl
@[simp] theorem State.setDlv_free (s : State) (x : Dlv) (f : Dlv → Dlv) : (s.setDlv x f).free = s.free := rfl
@[simp] theorem State.setDlv_cur (s : State) (x : Dlv) (f : Dlv → Dlv) : (s.setDlv x f).cur = s.cur := rfl
@[simp] theorem State.setDlv_cfg (s : State) (x : Dlv) (f : Dlv → Dlv) : (s.setDlv x f).cfg = s.cfg := rfl
@[simp] theorem State.setDlv_dev (s : State) (x : Dlv) (f : Dlv → Dlv) : (s.setDlv x f).dev = s.dev := rfl
@[simp] theorem State.setDlv_rings (s : State) (x : Dlv) (f : Dlv → Dlv) : (s.setDlv x f).rings = s.rings := rfl
@[simp] theorem State.setDlv_ports (s : State) (x : Dlv) (f : Dlv → Dlv) : (s.setDlv x f).ports = s.ports := rfl
@[simp] theorem State.setDlv_time (s : State) (x : Dlv) (f : Dlv → Dlv) : (s.setDlv x f).time = s.time := rfl
@[simp] theorem State.setDlv_plan (s : State) (x : Dlv) (f : Dlv → Dlv) : (s.setDlv x f).plan = s.plan := rfl
@[simp] theorem State.setDlv_link (s : State) (x : Dlv) (f : Dlv → Dlv) : (s.setDlv x f).link = s.link := rfl
@[simp] theorem State.setDlv_store (s : State) (x : Dlv) (f : Dlv → Dlv) : (s.setDlv x f).store = s.store := rfl
@[simp] theorem State.setDlv_takes (s : State) (x : Dlv) (f : Dlv → Dlv) : (s.setDlv x f).takes = s.takes := rfl
@[simp] theorem State.setDlv_mag (s : State) (x : Dlv) (f : Dlv → Dlv) : (s.setDlv x f).mag = s.mag := rfl
@[simp] theorem State.setDlv_svc (s : State) (x : Dlv) (f : Dlv → Dlv) : (s.setDlv x f).svc = s.svc := rfl
@[simp] theorem State.setDlv_obj (s : State) (x : Dlv) (f : Dlv → Dlv) : (s.setDlv x f).obj = s.obj := rfl
@[simp] theorem State.setDlv_sec (s : State) (x : Dlv) (f : Dlv → Dlv) : (s.setDlv x f).sec = s.sec := rfl
@[simp] theorem State.setDlv_motion (s : State) (x : Dlv) (f : Dlv → Dlv) : (s.setDlv x f).motion = s.motion := rfl
@[simp] theorem State.setDlv_ckpt (s : State) (x : Dlv) (f : Dlv → Dlv) : (s.setDlv x f).ckpt = s.ckpt := rfl
@[simp] theorem State.setDlv_hbm (s : State) (x : Dlv) (f : Dlv → Dlv) : (s.setDlv x f).hbm = s.hbm := rfl

/-! setChan -/

@[simp] theorem State.setChan_pending (s : State) (k : Nat) (f : ChanSt → ChanSt) : (s.setChan k f).pending = s.pending := rfl
@[simp] theorem State.setChan_out (s : State) (k : Nat) (f : ChanSt → ChanSt) : (s.setChan k f).out = s.out := rfl
@[simp] theorem State.setChan_free (s : State) (k : Nat) (f : ChanSt → ChanSt) : (s.setChan k f).free = s.free := rfl
@[simp] theorem State.setChan_cur (s : State) (k : Nat) (f : ChanSt → ChanSt) : (s.setChan k f).cur = s.cur := rfl
@[simp] theorem State.setChan_cfg (s : State) (k : Nat) (f : ChanSt → ChanSt) : (s.setChan k f).cfg = s.cfg := rfl
@[simp] theorem State.setChan_dev (s : State) (k : Nat) (f : ChanSt → ChanSt) : (s.setChan k f).dev = s.dev := rfl
@[simp] theorem State.setChan_rings (s : State) (k : Nat) (f : ChanSt → ChanSt) : (s.setChan k f).rings = s.rings := rfl
@[simp] theorem State.setChan_ports (s : State) (k : Nat) (f : ChanSt → ChanSt) : (s.setChan k f).ports = s.ports := rfl
@[simp] theorem State.setChan_time (s : State) (k : Nat) (f : ChanSt → ChanSt) : (s.setChan k f).time = s.time := rfl
@[simp] theorem State.setChan_plan (s : State) (k : Nat) (f : ChanSt → ChanSt) : (s.setChan k f).plan = s.plan := rfl
@[simp] theorem State.setChan_link (s : State) (k : Nat) (f : ChanSt → ChanSt) : (s.setChan k f).link = s.link := rfl
@[simp] theorem State.setChan_store (s : State) (k : Nat) (f : ChanSt → ChanSt) : (s.setChan k f).store = s.store := rfl
@[simp] theorem State.setChan_takes (s : State) (k : Nat) (f : ChanSt → ChanSt) : (s.setChan k f).takes = s.takes := rfl
@[simp] theorem State.setChan_mag (s : State) (k : Nat) (f : ChanSt → ChanSt) : (s.setChan k f).mag = s.mag := rfl
@[simp] theorem State.setChan_svc (s : State) (k : Nat) (f : ChanSt → ChanSt) : (s.setChan k f).svc = s.svc := rfl
@[simp] theorem State.setChan_obj (s : State) (k : Nat) (f : ChanSt → ChanSt) : (s.setChan k f).obj = s.obj := rfl
@[simp] theorem State.setChan_sec (s : State) (k : Nat) (f : ChanSt → ChanSt) : (s.setChan k f).sec = s.sec := rfl
@[simp] theorem State.setChan_motion (s : State) (k : Nat) (f : ChanSt → ChanSt) : (s.setChan k f).motion = s.motion := rfl
@[simp] theorem State.setChan_ckpt (s : State) (k : Nat) (f : ChanSt → ChanSt) : (s.setChan k f).ckpt = s.ckpt := rfl
@[simp] theorem State.setChan_hbm (s : State) (k : Nat) (f : ChanSt → ChanSt) : (s.setChan k f).hbm = s.hbm := rfl

/-! setObj -/

@[simp] theorem State.setObj_pending (s : State) (i : Nat) (f : ObjSt → ObjSt) : (s.setObj i f).pending = s.pending := rfl
@[simp] theorem State.setObj_out (s : State) (i : Nat) (f : ObjSt → ObjSt) : (s.setObj i f).out = s.out := rfl
@[simp] theorem State.setObj_free (s : State) (i : Nat) (f : ObjSt → ObjSt) : (s.setObj i f).free = s.free := rfl
@[simp] theorem State.setObj_cur (s : State) (i : Nat) (f : ObjSt → ObjSt) : (s.setObj i f).cur = s.cur := rfl
@[simp] theorem State.setObj_cfg (s : State) (i : Nat) (f : ObjSt → ObjSt) : (s.setObj i f).cfg = s.cfg := rfl
@[simp] theorem State.setObj_dev (s : State) (i : Nat) (f : ObjSt → ObjSt) : (s.setObj i f).dev = s.dev := rfl
@[simp] theorem State.setObj_rings (s : State) (i : Nat) (f : ObjSt → ObjSt) : (s.setObj i f).rings = s.rings := rfl
@[simp] theorem State.setObj_ports (s : State) (i : Nat) (f : ObjSt → ObjSt) : (s.setObj i f).ports = s.ports := rfl
@[simp] theorem State.setObj_time (s : State) (i : Nat) (f : ObjSt → ObjSt) : (s.setObj i f).time = s.time := rfl
@[simp] theorem State.setObj_plan (s : State) (i : Nat) (f : ObjSt → ObjSt) : (s.setObj i f).plan = s.plan := rfl
@[simp] theorem State.setObj_link (s : State) (i : Nat) (f : ObjSt → ObjSt) : (s.setObj i f).link = s.link := rfl
@[simp] theorem State.setObj_store (s : State) (i : Nat) (f : ObjSt → ObjSt) : (s.setObj i f).store = s.store := rfl
@[simp] theorem State.setObj_takes (s : State) (i : Nat) (f : ObjSt → ObjSt) : (s.setObj i f).takes = s.takes := rfl
@[simp] theorem State.setObj_mover (s : State) (i : Nat) (f : ObjSt → ObjSt) : (s.setObj i f).mover = s.mover := rfl
@[simp] theorem State.setObj_mag (s : State) (i : Nat) (f : ObjSt → ObjSt) : (s.setObj i f).mag = s.mag := rfl
@[simp] theorem State.setObj_svc (s : State) (i : Nat) (f : ObjSt → ObjSt) : (s.setObj i f).svc = s.svc := rfl
@[simp] theorem State.setObj_sec (s : State) (i : Nat) (f : ObjSt → ObjSt) : (s.setObj i f).sec = s.sec := rfl
@[simp] theorem State.setObj_motion (s : State) (i : Nat) (f : ObjSt → ObjSt) : (s.setObj i f).motion = s.motion := rfl
@[simp] theorem State.setObj_ckpt (s : State) (i : Nat) (f : ObjSt → ObjSt) : (s.setObj i f).ckpt = s.ckpt := rfl
@[simp] theorem State.setObj_hbm (s : State) (i : Nat) (f : ObjSt → ObjSt) : (s.setObj i f).hbm = s.hbm := rfl

/-! setPlan -/

@[simp] theorem State.setPlan_pending (s : State) (f : PlanState → PlanState) : (s.setPlan f).pending = s.pending := rfl
@[simp] theorem State.setPlan_out (s : State) (f : PlanState → PlanState) : (s.setPlan f).out = s.out := rfl
@[simp] theorem State.setPlan_free (s : State) (f : PlanState → PlanState) : (s.setPlan f).free = s.free := rfl
@[simp] theorem State.setPlan_cur (s : State) (f : PlanState → PlanState) : (s.setPlan f).cur = s.cur := rfl
@[simp] theorem State.setPlan_cfg (s : State) (f : PlanState → PlanState) : (s.setPlan f).cfg = s.cfg := rfl
@[simp] theorem State.setPlan_dev (s : State) (f : PlanState → PlanState) : (s.setPlan f).dev = s.dev := rfl
@[simp] theorem State.setPlan_rings (s : State) (f : PlanState → PlanState) : (s.setPlan f).rings = s.rings := rfl
@[simp] theorem State.setPlan_ports (s : State) (f : PlanState → PlanState) : (s.setPlan f).ports = s.ports := rfl
@[simp] theorem State.setPlan_time (s : State) (f : PlanState → PlanState) : (s.setPlan f).time = s.time := rfl
@[simp] theorem State.setPlan_link (s : State) (f : PlanState → PlanState) : (s.setPlan f).link = s.link := rfl
@[simp] theorem State.setPlan_store (s : State) (f : PlanState → PlanState) : (s.setPlan f).store = s.store := rfl
@[simp] theorem State.setPlan_takes (s : State) (f : PlanState → PlanState) : (s.setPlan f).takes = s.takes := rfl
@[simp] theorem State.setPlan_mover (s : State) (f : PlanState → PlanState) : (s.setPlan f).mover = s.mover := rfl
@[simp] theorem State.setPlan_mag (s : State) (f : PlanState → PlanState) : (s.setPlan f).mag = s.mag := rfl
@[simp] theorem State.setPlan_svc (s : State) (f : PlanState → PlanState) : (s.setPlan f).svc = s.svc := rfl
@[simp] theorem State.setPlan_obj (s : State) (f : PlanState → PlanState) : (s.setPlan f).obj = s.obj := rfl
@[simp] theorem State.setPlan_sec (s : State) (f : PlanState → PlanState) : (s.setPlan f).sec = s.sec := rfl
@[simp] theorem State.setPlan_motion (s : State) (f : PlanState → PlanState) : (s.setPlan f).motion = s.motion := rfl
@[simp] theorem State.setPlan_ckpt (s : State) (f : PlanState → PlanState) : (s.setPlan f).ckpt = s.ckpt := rfl
@[simp] theorem State.setPlan_hbm (s : State) (f : PlanState → PlanState) : (s.setPlan f).hbm = s.hbm := rfl

/-! setSec -/

@[simp] theorem State.setSec_pending (s : State) (f : SecState → SecState) : (s.setSec f).pending = s.pending := rfl
@[simp] theorem State.setSec_out (s : State) (f : SecState → SecState) : (s.setSec f).out = s.out := rfl
@[simp] theorem State.setSec_free (s : State) (f : SecState → SecState) : (s.setSec f).free = s.free := rfl
@[simp] theorem State.setSec_cur (s : State) (f : SecState → SecState) : (s.setSec f).cur = s.cur := rfl
@[simp] theorem State.setSec_cfg (s : State) (f : SecState → SecState) : (s.setSec f).cfg = s.cfg := rfl
@[simp] theorem State.setSec_dev (s : State) (f : SecState → SecState) : (s.setSec f).dev = s.dev := rfl
@[simp] theorem State.setSec_rings (s : State) (f : SecState → SecState) : (s.setSec f).rings = s.rings := rfl
@[simp] theorem State.setSec_ports (s : State) (f : SecState → SecState) : (s.setSec f).ports = s.ports := rfl
@[simp] theorem State.setSec_time (s : State) (f : SecState → SecState) : (s.setSec f).time = s.time := rfl
@[simp] theorem State.setSec_plan (s : State) (f : SecState → SecState) : (s.setSec f).plan = s.plan := rfl
@[simp] theorem State.setSec_link (s : State) (f : SecState → SecState) : (s.setSec f).link = s.link := rfl
@[simp] theorem State.setSec_store (s : State) (f : SecState → SecState) : (s.setSec f).store = s.store := rfl
@[simp] theorem State.setSec_takes (s : State) (f : SecState → SecState) : (s.setSec f).takes = s.takes := rfl
@[simp] theorem State.setSec_mover (s : State) (f : SecState → SecState) : (s.setSec f).mover = s.mover := rfl
@[simp] theorem State.setSec_mag (s : State) (f : SecState → SecState) : (s.setSec f).mag = s.mag := rfl
@[simp] theorem State.setSec_svc (s : State) (f : SecState → SecState) : (s.setSec f).svc = s.svc := rfl
@[simp] theorem State.setSec_obj (s : State) (f : SecState → SecState) : (s.setSec f).obj = s.obj := rfl
@[simp] theorem State.setSec_motion (s : State) (f : SecState → SecState) : (s.setSec f).motion = s.motion := rfl
@[simp] theorem State.setSec_ckpt (s : State) (f : SecState → SecState) : (s.setSec f).ckpt = s.ckpt := rfl
@[simp] theorem State.setSec_hbm (s : State) (f : SecState → SecState) : (s.setSec f).hbm = s.hbm := rfl

/-! setSpw -/

@[simp] theorem State.setSpw_pending (s : State) (w : Nat) (f : SpwSt → SpwSt) : (s.setSpw w f).pending = s.pending := rfl
@[simp] theorem State.setSpw_out (s : State) (w : Nat) (f : SpwSt → SpwSt) : (s.setSpw w f).out = s.out := rfl
@[simp] theorem State.setSpw_free (s : State) (w : Nat) (f : SpwSt → SpwSt) : (s.setSpw w f).free = s.free := rfl
@[simp] theorem State.setSpw_cur (s : State) (w : Nat) (f : SpwSt → SpwSt) : (s.setSpw w f).cur = s.cur := rfl
@[simp] theorem State.setSpw_cfg (s : State) (w : Nat) (f : SpwSt → SpwSt) : (s.setSpw w f).cfg = s.cfg := rfl
@[simp] theorem State.setSpw_dev (s : State) (w : Nat) (f : SpwSt → SpwSt) : (s.setSpw w f).dev = s.dev := rfl
@[simp] theorem State.setSpw_rings (s : State) (w : Nat) (f : SpwSt → SpwSt) : (s.setSpw w f).rings = s.rings := rfl
@[simp] theorem State.setSpw_ports (s : State) (w : Nat) (f : SpwSt → SpwSt) : (s.setSpw w f).ports = s.ports := rfl
@[simp] theorem State.setSpw_time (s : State) (w : Nat) (f : SpwSt → SpwSt) : (s.setSpw w f).time = s.time := rfl
@[simp] theorem State.setSpw_plan (s : State) (w : Nat) (f : SpwSt → SpwSt) : (s.setSpw w f).plan = s.plan := rfl
@[simp] theorem State.setSpw_link (s : State) (w : Nat) (f : SpwSt → SpwSt) : (s.setSpw w f).link = s.link := rfl
@[simp] theorem State.setSpw_takes (s : State) (w : Nat) (f : SpwSt → SpwSt) : (s.setSpw w f).takes = s.takes := rfl
@[simp] theorem State.setSpw_mover (s : State) (w : Nat) (f : SpwSt → SpwSt) : (s.setSpw w f).mover = s.mover := rfl
@[simp] theorem State.setSpw_mag (s : State) (w : Nat) (f : SpwSt → SpwSt) : (s.setSpw w f).mag = s.mag := rfl
@[simp] theorem State.setSpw_svc (s : State) (w : Nat) (f : SpwSt → SpwSt) : (s.setSpw w f).svc = s.svc := rfl
@[simp] theorem State.setSpw_obj (s : State) (w : Nat) (f : SpwSt → SpwSt) : (s.setSpw w f).obj = s.obj := rfl
@[simp] theorem State.setSpw_sec (s : State) (w : Nat) (f : SpwSt → SpwSt) : (s.setSpw w f).sec = s.sec := rfl
@[simp] theorem State.setSpw_motion (s : State) (w : Nat) (f : SpwSt → SpwSt) : (s.setSpw w f).motion = s.motion := rfl
@[simp] theorem State.setSpw_ckpt (s : State) (w : Nat) (f : SpwSt → SpwSt) : (s.setSpw w f).ckpt = s.ckpt := rfl
@[simp] theorem State.setSpw_hbm (s : State) (w : Nat) (f : SpwSt → SpwSt) : (s.setSpw w f).hbm = s.hbm := rfl

/-! setStore -/

@[simp] theorem State.setStore_pending (s : State) (f : StoreState → StoreState) : (s.setStore f).pending = s.pending := rfl
@[simp] theorem State.setStore_out (s : State) (f : StoreState → StoreState) : (s.setStore f).out = s.out := rfl
@[simp] theorem State.setStore_free (s : State) (f : StoreState → StoreState) : (s.setStore f).free = s.free := rfl
@[simp] theorem State.setStore_cur (s : State) (f : StoreState → StoreState) : (s.setStore f).cur = s.cur := rfl
@[simp] theorem State.setStore_cfg (s : State) (f : StoreState → StoreState) : (s.setStore f).cfg = s.cfg := rfl
@[simp] theorem State.setStore_dev (s : State) (f : StoreState → StoreState) : (s.setStore f).dev = s.dev := rfl
@[simp] theorem State.setStore_rings (s : State) (f : StoreState → StoreState) : (s.setStore f).rings = s.rings := rfl
@[simp] theorem State.setStore_ports (s : State) (f : StoreState → StoreState) : (s.setStore f).ports = s.ports := rfl
@[simp] theorem State.setStore_time (s : State) (f : StoreState → StoreState) : (s.setStore f).time = s.time := rfl
@[simp] theorem State.setStore_plan (s : State) (f : StoreState → StoreState) : (s.setStore f).plan = s.plan := rfl
@[simp] theorem State.setStore_link (s : State) (f : StoreState → StoreState) : (s.setStore f).link = s.link := rfl
@[simp] theorem State.setStore_takes (s : State) (f : StoreState → StoreState) : (s.setStore f).takes = s.takes := rfl
@[simp] theorem State.setStore_mover (s : State) (f : StoreState → StoreState) : (s.setStore f).mover = s.mover := rfl
@[simp] theorem State.setStore_mag (s : State) (f : StoreState → StoreState) : (s.setStore f).mag = s.mag := rfl
@[simp] theorem State.setStore_svc (s : State) (f : StoreState → StoreState) : (s.setStore f).svc = s.svc := rfl
@[simp] theorem State.setStore_obj (s : State) (f : StoreState → StoreState) : (s.setStore f).obj = s.obj := rfl
@[simp] theorem State.setStore_sec (s : State) (f : StoreState → StoreState) : (s.setStore f).sec = s.sec := rfl
@[simp] theorem State.setStore_motion (s : State) (f : StoreState → StoreState) : (s.setStore f).motion = s.motion := rfl
@[simp] theorem State.setStore_ckpt (s : State) (f : StoreState → StoreState) : (s.setStore f).ckpt = s.ckpt := rfl
@[simp] theorem State.setStore_hbm (s : State) (f : StoreState → StoreState) : (s.setStore f).hbm = s.hbm := rfl

/-! setFrame -/

@[simp] theorem State.setFrame_pending (s : State) (id : Nat) (f : FrameSt → FrameSt) : (s.setFrame id f).pending = s.pending := rfl
@[simp] theorem State.setFrame_out (s : State) (id : Nat) (f : FrameSt → FrameSt) : (s.setFrame id f).out = s.out := rfl
@[simp] theorem State.setFrame_free (s : State) (id : Nat) (f : FrameSt → FrameSt) : (s.setFrame id f).free = s.free := rfl
@[simp] theorem State.setFrame_cur (s : State) (id : Nat) (f : FrameSt → FrameSt) : (s.setFrame id f).cur = s.cur := rfl
@[simp] theorem State.setFrame_cfg (s : State) (id : Nat) (f : FrameSt → FrameSt) : (s.setFrame id f).cfg = s.cfg := rfl
@[simp] theorem State.setFrame_dev (s : State) (id : Nat) (f : FrameSt → FrameSt) : (s.setFrame id f).dev = s.dev := rfl
@[simp] theorem State.setFrame_rings (s : State) (id : Nat) (f : FrameSt → FrameSt) : (s.setFrame id f).rings = s.rings := rfl
@[simp] theorem State.setFrame_ports (s : State) (id : Nat) (f : FrameSt → FrameSt) : (s.setFrame id f).ports = s.ports := rfl
@[simp] theorem State.setFrame_time (s : State) (id : Nat) (f : FrameSt → FrameSt) : (s.setFrame id f).time = s.time := rfl
@[simp] theorem State.setFrame_plan (s : State) (id : Nat) (f : FrameSt → FrameSt) : (s.setFrame id f).plan = s.plan := rfl
@[simp] theorem State.setFrame_link (s : State) (id : Nat) (f : FrameSt → FrameSt) : (s.setFrame id f).link = s.link := rfl
@[simp] theorem State.setFrame_takes (s : State) (id : Nat) (f : FrameSt → FrameSt) : (s.setFrame id f).takes = s.takes := rfl
@[simp] theorem State.setFrame_mover (s : State) (id : Nat) (f : FrameSt → FrameSt) : (s.setFrame id f).mover = s.mover := rfl
@[simp] theorem State.setFrame_mag (s : State) (id : Nat) (f : FrameSt → FrameSt) : (s.setFrame id f).mag = s.mag := rfl
@[simp] theorem State.setFrame_svc (s : State) (id : Nat) (f : FrameSt → FrameSt) : (s.setFrame id f).svc = s.svc := rfl
@[simp] theorem State.setFrame_obj (s : State) (id : Nat) (f : FrameSt → FrameSt) : (s.setFrame id f).obj = s.obj := rfl
@[simp] theorem State.setFrame_sec (s : State) (id : Nat) (f : FrameSt → FrameSt) : (s.setFrame id f).sec = s.sec := rfl
@[simp] theorem State.setFrame_motion (s : State) (id : Nat) (f : FrameSt → FrameSt) : (s.setFrame id f).motion = s.motion := rfl
@[simp] theorem State.setFrame_ckpt (s : State) (id : Nat) (f : FrameSt → FrameSt) : (s.setFrame id f).ckpt = s.ckpt := rfl
@[simp] theorem State.setFrame_hbm (s : State) (id : Nat) (f : FrameSt → FrameSt) : (s.setFrame id f).hbm = s.hbm := rfl

/-! setStream -/

@[simp] theorem State.setStream_pending (s : State) (st : Nat) (f : StreamSt → StreamSt) : (s.setStream st f).pending = s.pending := rfl
@[simp] theorem State.setStream_out (s : State) (st : Nat) (f : StreamSt → StreamSt) : (s.setStream st f).out = s.out := rfl
@[simp] theorem State.setStream_free (s : State) (st : Nat) (f : StreamSt → StreamSt) : (s.setStream st f).free = s.free := rfl
@[simp] theorem State.setStream_cur (s : State) (st : Nat) (f : StreamSt → StreamSt) : (s.setStream st f).cur = s.cur := rfl
@[simp] theorem State.setStream_cfg (s : State) (st : Nat) (f : StreamSt → StreamSt) : (s.setStream st f).cfg = s.cfg := rfl
@[simp] theorem State.setStream_dev (s : State) (st : Nat) (f : StreamSt → StreamSt) : (s.setStream st f).dev = s.dev := rfl
@[simp] theorem State.setStream_rings (s : State) (st : Nat) (f : StreamSt → StreamSt) : (s.setStream st f).rings = s.rings := rfl
@[simp] theorem State.setStream_ports (s : State) (st : Nat) (f : StreamSt → StreamSt) : (s.setStream st f).ports = s.ports := rfl
@[simp] theorem State.setStream_time (s : State) (st : Nat) (f : StreamSt → StreamSt) : (s.setStream st f).time = s.time := rfl
@[simp] theorem State.setStream_plan (s : State) (st : Nat) (f : StreamSt → StreamSt) : (s.setStream st f).plan = s.plan := rfl
@[simp] theorem State.setStream_link (s : State) (st : Nat) (f : StreamSt → StreamSt) : (s.setStream st f).link = s.link := rfl
@[simp] theorem State.setStream_takes (s : State) (st : Nat) (f : StreamSt → StreamSt) : (s.setStream st f).takes = s.takes := rfl
@[simp] theorem State.setStream_mover (s : State) (st : Nat) (f : StreamSt → StreamSt) : (s.setStream st f).mover = s.mover := rfl
@[simp] theorem State.setStream_mag (s : State) (st : Nat) (f : StreamSt → StreamSt) : (s.setStream st f).mag = s.mag := rfl
@[simp] theorem State.setStream_svc (s : State) (st : Nat) (f : StreamSt → StreamSt) : (s.setStream st f).svc = s.svc := rfl
@[simp] theorem State.setStream_obj (s : State) (st : Nat) (f : StreamSt → StreamSt) : (s.setStream st f).obj = s.obj := rfl
@[simp] theorem State.setStream_sec (s : State) (st : Nat) (f : StreamSt → StreamSt) : (s.setStream st f).sec = s.sec := rfl
@[simp] theorem State.setStream_motion (s : State) (st : Nat) (f : StreamSt → StreamSt) : (s.setStream st f).motion = s.motion := rfl
@[simp] theorem State.setStream_ckpt (s : State) (st : Nat) (f : StreamSt → StreamSt) : (s.setStream st f).ckpt = s.ckpt := rfl
@[simp] theorem State.setStream_hbm (s : State) (st : Nat) (f : StreamSt → StreamSt) : (s.setStream st f).hbm = s.hbm := rfl

/-! setRun -/

@[simp] theorem State.setRun_pending (s : State) (r : Nat) (f : RigRun → RigRun) : (s.setRun r f).pending = s.pending := rfl
@[simp] theorem State.setRun_out (s : State) (r : Nat) (f : RigRun → RigRun) : (s.setRun r f).out = s.out := rfl
@[simp] theorem State.setRun_free (s : State) (r : Nat) (f : RigRun → RigRun) : (s.setRun r f).free = s.free := rfl
@[simp] theorem State.setRun_cur (s : State) (r : Nat) (f : RigRun → RigRun) : (s.setRun r f).cur = s.cur := rfl
@[simp] theorem State.setRun_cfg (s : State) (r : Nat) (f : RigRun → RigRun) : (s.setRun r f).cfg = s.cfg := rfl
@[simp] theorem State.setRun_dev (s : State) (r : Nat) (f : RigRun → RigRun) : (s.setRun r f).dev = s.dev := rfl
@[simp] theorem State.setRun_rings (s : State) (r : Nat) (f : RigRun → RigRun) : (s.setRun r f).rings = s.rings := rfl
@[simp] theorem State.setRun_ports (s : State) (r : Nat) (f : RigRun → RigRun) : (s.setRun r f).ports = s.ports := rfl
@[simp] theorem State.setRun_time (s : State) (r : Nat) (f : RigRun → RigRun) : (s.setRun r f).time = s.time := rfl
@[simp] theorem State.setRun_plan (s : State) (r : Nat) (f : RigRun → RigRun) : (s.setRun r f).plan = s.plan := rfl
@[simp] theorem State.setRun_link (s : State) (r : Nat) (f : RigRun → RigRun) : (s.setRun r f).link = s.link := rfl
@[simp] theorem State.setRun_store (s : State) (r : Nat) (f : RigRun → RigRun) : (s.setRun r f).store = s.store := rfl
@[simp] theorem State.setRun_mover (s : State) (r : Nat) (f : RigRun → RigRun) : (s.setRun r f).mover = s.mover := rfl
@[simp] theorem State.setRun_mag (s : State) (r : Nat) (f : RigRun → RigRun) : (s.setRun r f).mag = s.mag := rfl
@[simp] theorem State.setRun_svc (s : State) (r : Nat) (f : RigRun → RigRun) : (s.setRun r f).svc = s.svc := rfl
@[simp] theorem State.setRun_obj (s : State) (r : Nat) (f : RigRun → RigRun) : (s.setRun r f).obj = s.obj := rfl
@[simp] theorem State.setRun_sec (s : State) (r : Nat) (f : RigRun → RigRun) : (s.setRun r f).sec = s.sec := rfl
@[simp] theorem State.setRun_motion (s : State) (r : Nat) (f : RigRun → RigRun) : (s.setRun r f).motion = s.motion := rfl
@[simp] theorem State.setRun_ckpt (s : State) (r : Nat) (f : RigRun → RigRun) : (s.setRun r f).ckpt = s.ckpt := rfl
@[simp] theorem State.setRun_hbm (s : State) (r : Nat) (f : RigRun → RigRun) : (s.setRun r f).hbm = s.hbm := rfl

/-! setTake -/

@[simp] theorem State.setTake_pending (s : State) (id : Nat) (f : Take → Take) : (s.setTake id f).pending = s.pending := rfl
@[simp] theorem State.setTake_out (s : State) (id : Nat) (f : Take → Take) : (s.setTake id f).out = s.out := rfl
@[simp] theorem State.setTake_free (s : State) (id : Nat) (f : Take → Take) : (s.setTake id f).free = s.free := rfl
@[simp] theorem State.setTake_cur (s : State) (id : Nat) (f : Take → Take) : (s.setTake id f).cur = s.cur := rfl
@[simp] theorem State.setTake_cfg (s : State) (id : Nat) (f : Take → Take) : (s.setTake id f).cfg = s.cfg := rfl
@[simp] theorem State.setTake_dev (s : State) (id : Nat) (f : Take → Take) : (s.setTake id f).dev = s.dev := rfl
@[simp] theorem State.setTake_rings (s : State) (id : Nat) (f : Take → Take) : (s.setTake id f).rings = s.rings := rfl
@[simp] theorem State.setTake_ports (s : State) (id : Nat) (f : Take → Take) : (s.setTake id f).ports = s.ports := rfl
@[simp] theorem State.setTake_time (s : State) (id : Nat) (f : Take → Take) : (s.setTake id f).time = s.time := rfl
@[simp] theorem State.setTake_plan (s : State) (id : Nat) (f : Take → Take) : (s.setTake id f).plan = s.plan := rfl
@[simp] theorem State.setTake_link (s : State) (id : Nat) (f : Take → Take) : (s.setTake id f).link = s.link := rfl
@[simp] theorem State.setTake_store (s : State) (id : Nat) (f : Take → Take) : (s.setTake id f).store = s.store := rfl
@[simp] theorem State.setTake_mover (s : State) (id : Nat) (f : Take → Take) : (s.setTake id f).mover = s.mover := rfl
@[simp] theorem State.setTake_mag (s : State) (id : Nat) (f : Take → Take) : (s.setTake id f).mag = s.mag := rfl
@[simp] theorem State.setTake_svc (s : State) (id : Nat) (f : Take → Take) : (s.setTake id f).svc = s.svc := rfl
@[simp] theorem State.setTake_obj (s : State) (id : Nat) (f : Take → Take) : (s.setTake id f).obj = s.obj := rfl
@[simp] theorem State.setTake_sec (s : State) (id : Nat) (f : Take → Take) : (s.setTake id f).sec = s.sec := rfl
@[simp] theorem State.setTake_motion (s : State) (id : Nat) (f : Take → Take) : (s.setTake id f).motion = s.motion := rfl
@[simp] theorem State.setTake_ckpt (s : State) (id : Nat) (f : Take → Take) : (s.setTake id f).ckpt = s.ckpt := rfl
@[simp] theorem State.setTake_hbm (s : State) (id : Nat) (f : Take → Take) : (s.setTake id f).hbm = s.hbm := rfl

/-! setTime -/

@[simp] theorem State.setTime_pending (s : State) (f : TimeState → TimeState) : (s.setTime f).pending = s.pending := rfl
@[simp] theorem State.setTime_out (s : State) (f : TimeState → TimeState) : (s.setTime f).out = s.out := rfl
@[simp] theorem State.setTime_free (s : State) (f : TimeState → TimeState) : (s.setTime f).free = s.free := rfl
@[simp] theorem State.setTime_cur (s : State) (f : TimeState → TimeState) : (s.setTime f).cur = s.cur := rfl
@[simp] theorem State.setTime_cfg (s : State) (f : TimeState → TimeState) : (s.setTime f).cfg = s.cfg := rfl
@[simp] theorem State.setTime_dev (s : State) (f : TimeState → TimeState) : (s.setTime f).dev = s.dev := rfl
@[simp] theorem State.setTime_rings (s : State) (f : TimeState → TimeState) : (s.setTime f).rings = s.rings := rfl
@[simp] theorem State.setTime_ports (s : State) (f : TimeState → TimeState) : (s.setTime f).ports = s.ports := rfl
@[simp] theorem State.setTime_plan (s : State) (f : TimeState → TimeState) : (s.setTime f).plan = s.plan := rfl
@[simp] theorem State.setTime_link (s : State) (f : TimeState → TimeState) : (s.setTime f).link = s.link := rfl
@[simp] theorem State.setTime_store (s : State) (f : TimeState → TimeState) : (s.setTime f).store = s.store := rfl
@[simp] theorem State.setTime_takes (s : State) (f : TimeState → TimeState) : (s.setTime f).takes = s.takes := rfl
@[simp] theorem State.setTime_mover (s : State) (f : TimeState → TimeState) : (s.setTime f).mover = s.mover := rfl
@[simp] theorem State.setTime_mag (s : State) (f : TimeState → TimeState) : (s.setTime f).mag = s.mag := rfl
@[simp] theorem State.setTime_svc (s : State) (f : TimeState → TimeState) : (s.setTime f).svc = s.svc := rfl
@[simp] theorem State.setTime_obj (s : State) (f : TimeState → TimeState) : (s.setTime f).obj = s.obj := rfl
@[simp] theorem State.setTime_sec (s : State) (f : TimeState → TimeState) : (s.setTime f).sec = s.sec := rfl
@[simp] theorem State.setTime_motion (s : State) (f : TimeState → TimeState) : (s.setTime f).motion = s.motion := rfl
@[simp] theorem State.setTime_ckpt (s : State) (f : TimeState → TimeState) : (s.setTime f).ckpt = s.ckpt := rfl
@[simp] theorem State.setTime_hbm (s : State) (f : TimeState → TimeState) : (s.setTime f).hbm = s.hbm := rfl

/-! setTp -/

@[simp] theorem State.setTp_pending (s : State) (p : Nat) (f : TpSt → TpSt) : (s.setTp p f).pending = s.pending := rfl
@[simp] theorem State.setTp_out (s : State) (p : Nat) (f : TpSt → TpSt) : (s.setTp p f).out = s.out := rfl
@[simp] theorem State.setTp_free (s : State) (p : Nat) (f : TpSt → TpSt) : (s.setTp p f).free = s.free := rfl
@[simp] theorem State.setTp_cur (s : State) (p : Nat) (f : TpSt → TpSt) : (s.setTp p f).cur = s.cur := rfl
@[simp] theorem State.setTp_cfg (s : State) (p : Nat) (f : TpSt → TpSt) : (s.setTp p f).cfg = s.cfg := rfl
@[simp] theorem State.setTp_dev (s : State) (p : Nat) (f : TpSt → TpSt) : (s.setTp p f).dev = s.dev := rfl
@[simp] theorem State.setTp_rings (s : State) (p : Nat) (f : TpSt → TpSt) : (s.setTp p f).rings = s.rings := rfl
@[simp] theorem State.setTp_ports (s : State) (p : Nat) (f : TpSt → TpSt) : (s.setTp p f).ports = s.ports := rfl
@[simp] theorem State.setTp_plan (s : State) (p : Nat) (f : TpSt → TpSt) : (s.setTp p f).plan = s.plan := rfl
@[simp] theorem State.setTp_link (s : State) (p : Nat) (f : TpSt → TpSt) : (s.setTp p f).link = s.link := rfl
@[simp] theorem State.setTp_store (s : State) (p : Nat) (f : TpSt → TpSt) : (s.setTp p f).store = s.store := rfl
@[simp] theorem State.setTp_takes (s : State) (p : Nat) (f : TpSt → TpSt) : (s.setTp p f).takes = s.takes := rfl
@[simp] theorem State.setTp_mover (s : State) (p : Nat) (f : TpSt → TpSt) : (s.setTp p f).mover = s.mover := rfl
@[simp] theorem State.setTp_mag (s : State) (p : Nat) (f : TpSt → TpSt) : (s.setTp p f).mag = s.mag := rfl
@[simp] theorem State.setTp_svc (s : State) (p : Nat) (f : TpSt → TpSt) : (s.setTp p f).svc = s.svc := rfl
@[simp] theorem State.setTp_obj (s : State) (p : Nat) (f : TpSt → TpSt) : (s.setTp p f).obj = s.obj := rfl
@[simp] theorem State.setTp_sec (s : State) (p : Nat) (f : TpSt → TpSt) : (s.setTp p f).sec = s.sec := rfl
@[simp] theorem State.setTp_motion (s : State) (p : Nat) (f : TpSt → TpSt) : (s.setTp p f).motion = s.motion := rfl
@[simp] theorem State.setTp_ckpt (s : State) (p : Nat) (f : TpSt → TpSt) : (s.setTp p f).ckpt = s.ckpt := rfl
@[simp] theorem State.setTp_hbm (s : State) (p : Nat) (f : TpSt → TpSt) : (s.setTp p f).hbm = s.hbm := rfl

/-! setTimer -/

@[simp] theorem State.setTimer_pending (s : State) (r : Nat) (f : RtmrSt → RtmrSt) : (s.setTimer r f).pending = s.pending := rfl
@[simp] theorem State.setTimer_out (s : State) (r : Nat) (f : RtmrSt → RtmrSt) : (s.setTimer r f).out = s.out := rfl
@[simp] theorem State.setTimer_free (s : State) (r : Nat) (f : RtmrSt → RtmrSt) : (s.setTimer r f).free = s.free := rfl
@[simp] theorem State.setTimer_cur (s : State) (r : Nat) (f : RtmrSt → RtmrSt) : (s.setTimer r f).cur = s.cur := rfl
@[simp] theorem State.setTimer_cfg (s : State) (r : Nat) (f : RtmrSt → RtmrSt) : (s.setTimer r f).cfg = s.cfg := rfl
@[simp] theorem State.setTimer_dev (s : State) (r : Nat) (f : RtmrSt → RtmrSt) : (s.setTimer r f).dev = s.dev := rfl
@[simp] theorem State.setTimer_rings (s : State) (r : Nat) (f : RtmrSt → RtmrSt) : (s.setTimer r f).rings = s.rings := rfl
@[simp] theorem State.setTimer_ports (s : State) (r : Nat) (f : RtmrSt → RtmrSt) : (s.setTimer r f).ports = s.ports := rfl
@[simp] theorem State.setTimer_plan (s : State) (r : Nat) (f : RtmrSt → RtmrSt) : (s.setTimer r f).plan = s.plan := rfl
@[simp] theorem State.setTimer_link (s : State) (r : Nat) (f : RtmrSt → RtmrSt) : (s.setTimer r f).link = s.link := rfl
@[simp] theorem State.setTimer_store (s : State) (r : Nat) (f : RtmrSt → RtmrSt) : (s.setTimer r f).store = s.store := rfl
@[simp] theorem State.setTimer_takes (s : State) (r : Nat) (f : RtmrSt → RtmrSt) : (s.setTimer r f).takes = s.takes := rfl
@[simp] theorem State.setTimer_mover (s : State) (r : Nat) (f : RtmrSt → RtmrSt) : (s.setTimer r f).mover = s.mover := rfl
@[simp] theorem State.setTimer_mag (s : State) (r : Nat) (f : RtmrSt → RtmrSt) : (s.setTimer r f).mag = s.mag := rfl
@[simp] theorem State.setTimer_svc (s : State) (r : Nat) (f : RtmrSt → RtmrSt) : (s.setTimer r f).svc = s.svc := rfl
@[simp] theorem State.setTimer_obj (s : State) (r : Nat) (f : RtmrSt → RtmrSt) : (s.setTimer r f).obj = s.obj := rfl
@[simp] theorem State.setTimer_sec (s : State) (r : Nat) (f : RtmrSt → RtmrSt) : (s.setTimer r f).sec = s.sec := rfl
@[simp] theorem State.setTimer_motion (s : State) (r : Nat) (f : RtmrSt → RtmrSt) : (s.setTimer r f).motion = s.motion := rfl
@[simp] theorem State.setTimer_ckpt (s : State) (r : Nat) (f : RtmrSt → RtmrSt) : (s.setTimer r f).ckpt = s.ckpt := rfl
@[simp] theorem State.setTimer_hbm (s : State) (r : Nat) (f : RtmrSt → RtmrSt) : (s.setTimer r f).hbm = s.hbm := rfl

end Sys2Proof.Machine
end

