-- ==== Sys2Proof/Laws/Rings.lean ====
section
/-! SUPPORT. What a read of one record, register or ring gives after a write, and the one thing each ring operation can do. -/

namespace Sys2Proof.Machine

/-! ### A read after a write -/

theorem State.ring_setRing (s : State) (n k : Nat) (f : RingSt → RingSt) :
    (s.setRing n f).ring k = if k = n then f (s.ring n) else s.ring k := by
  exact Tab.get_upd _ _ n k f
@[simp] theorem State.ring_setRing_self (s : State) (n : Nat) (f : RingSt → RingSt) : (s.setRing n f).ring n = f (s.ring n) := by
  exact Tab.get_upd_self _ _ n f
theorem State.port_setPort (s : State) (n k : Nat) (f : PortSt → PortSt) :
    (s.setPort n f).port k = if k = n then f (s.port n) else s.port k := by
  exact Tab.get_upd _ _ n k f
@[simp] theorem State.port_setPort_self (s : State) (n : Nat) (f : PortSt → PortSt) : (s.setPort n f).port n = f (s.port n) := by
  exact Tab.get_upd_self _ _ n f
theorem State.rig_setRig (s : State) (n k : Nat) (f : RigSt → RigSt) :
    (s.setRig n f).rig k = if k = n then f (s.rig n) else s.rig k := by
  exact Tab.get_upd _ _ n k f
@[simp] theorem State.rig_setRig_self (s : State) (n : Nat) (f : RigSt → RigSt) : (s.setRig n f).rig n = f (s.rig n) := by
  exact Tab.get_upd_self _ _ n f
theorem State.lane_setLane (s : State) (n k : Nat) (f : LaneSt → LaneSt) :
    (s.setLane n f).lane k = if k = n then f (s.lane n) else s.lane k := by
  exact Tab.get_upd _ _ n k f
@[simp] theorem State.lane_setLane_self (s : State) (n : Nat) (f : LaneSt → LaneSt) : (s.setLane n f).lane n = f (s.lane n) := by
  exact Tab.get_upd_self _ _ n f
theorem State.hl_setHl (s : State) (n k : Nat) (f : LinkSt → LinkSt) :
    (s.setHl n f).hl k = if k = n then f (s.hl n) else s.hl k := by
  exact Tab.get_upd _ _ n k f
@[simp] theorem State.hl_setHl_self (s : State) (n : Nat) (f : LinkSt → LinkSt) : (s.setHl n f).hl n = f (s.hl n) := by
  exact Tab.get_upd_self _ _ n f
@[simp] theorem State.lane_setHl (s : State) (n k : Nat) (f : LinkSt → LinkSt) : (s.setHl n f).lane k = s.lane k := rfl
@[simp] theorem State.hl_setLane (s : State) (n k : Nat) (f : LaneSt → LaneSt) : (s.setLane n f).hl k = s.hl k := rfl

theorem RegFile.win_setWin (f : RegFile) (w : Nat) (t : Tab Word) (h : w < 16) (v : Nat) :
    (f.setWin w t).win v = if v = w then t else f.win v := by
  have hw : w = 0 ∨ w = 1 ∨ w = 2 ∨ w = 3 ∨ w = 4 ∨ w = 5 ∨ w = 6 ∨ w = 7 ∨ w = 8 ∨ w = 9 ∨ w = 10 ∨ w = 11 ∨ w = 12 ∨ w = 13
      ∨ w = 14 ∨ w = 15 := by omega
  rcases hw with rfl | rfl | rfl | rfl | rfl | rfl | rfl | rfl | rfl | rfl | rfl | rfl | rfl | rfl | rfl | rfl <;>
    (unfold RegFile.win RegFile.setWin; split <;> simp_all)

theorem State.reg_setReg_self (s : State) (r : RegRow) (i j : Nat) (v : Word) (h : r.win < 16) : (s.setReg r i j v).reg r i j = v := by
  simp only [State.reg, State.setReg, RegFile.get, RegFile.set, RegFile.win_setWin _ _ _ h, if_true, Tab.get_put_self]

/-- A write leaves every register at another place as it was. -/
theorem State.reg_setReg_ne (s : State) (r q : RegRow) (i j k l : Nat) (v : Word) (h : r.win < 16)
    (hne : q.win ≠ r.win ∨ q.addr k l ≠ r.addr i j) : (s.setReg r i j v).reg q k l = s.reg q k l := by
  simp only [State.reg, State.setReg, RegFile.get, RegFile.set, RegFile.win_setWin _ _ _ h]
  by_cases hw : q.win = r.win
  · simp only [hw, if_true]
    exact Tab.get_put_ne _ _ _ _ (hne.resolve_left (fun c => c hw))
  · rw [if_neg hw]

/-- Two registers of one unit at different offsets. -/
theorem RegRow.addr_ne {r q : RegRow} (i : Nat) (hw : q.win = r.win) (hs : q.s1 = r.s1) (hb : q.base ≠ r.base) :
    q.addr i ≠ r.addr i := by
  unfold RegRow.addr
  rw [hw, hs]
  omega

/-! ### What records leave of a ring -/

/-- The fields of every ring that the writing of a record never changes. -/
structure RingSame (s t : State) : Prop where
  same : ∀ n : Nat,
  (t.ring n).state = (s.ring n).state ∧ (t.ring n).db = (s.ring n).db ∧ (t.ring n).base = (s.ring n).base
  ∧ (t.ring n).evt = (s.ring n).evt ∧ (t.ring n).outstanding = (s.ring n).outstanding ∧ (t.ring n).barrier = (s.ring n).barrier
  ∧ (t.ring n).role = (s.ring n).role ∧ (t.ring n).aborting = (s.ring n).aborting ∧ (t.ring n).gen = (s.ring n).gen

theorem RingSame.refl (s : State) : RingSame s s :=
  ⟨fun _ => ⟨rfl, rfl, rfl, rfl, rfl, rfl, rfl, rfl, rfl⟩⟩

theorem RingSame.trans {s t u : State} (a : RingSame s t) (b : RingSame t u) : RingSame s u := ⟨fun n => by
  obtain ⟨a1, a2, a3, a4, a5, a6, a7, a8, a9⟩ := a.same n
  obtain ⟨b1, b2, b3, b4, b5, b6, b7, b8, b9⟩ := b.same n
  exact ⟨b1.trans a1, b2.trans a2, b3.trans a3, b4.trans a4, b5.trans a5, b6.trans a6, b7.trans a7, b8.trans a8, b9.trans a9⟩⟩

theorem RingSame.of {s t : State} (h : t.rings = s.rings) : RingSame s t := ⟨fun n => by
  have e : t.ring n = s.ring n := by unfold State.ring; rw [h]
  rw [e]
  exact ⟨rfl, rfl, rfl, rfl, rfl, rfl, rfl, rfl, rfl⟩⟩

/-- What a computation keeps by its mask. -/
theorem Keeps.ringSame {m : Nat} {s t : State} (h : Keeps m s t) (hm : m.testBit 39 = false) : RingSame s t := ⟨h.same .ringCtl hm⟩

theorem RingSame.foldl {s t : State} {α : Type} {f : State → α → State} (l : List α) (h : ∀ s x, RingSame s (f s x)) (a : RingSame s t) :
    RingSame s (l.foldl f t) := by
  induction l generalizing t with
  | nil => exact a
  | cons x l ih => exact ih (a.trans (h t x))

theorem RingSame.setRing (s : State) (n : Nat) (f : RingSt → RingSt)
    (h : ∀ q, (f q).state = q.state ∧ (f q).db = q.db ∧ (f q).base = q.base ∧ (f q).evt = q.evt ∧ (f q).outstanding = q.outstanding
      ∧ (f q).barrier = q.barrier ∧ (f q).role = q.role ∧ (f q).aborting = q.aborting ∧ (f q).gen = q.gen) :
    RingSame s (s.setRing n f) := ⟨fun k => by
  rw [State.ring_setRing]
  by_cases e : k = n
  · rw [if_pos e, e]
    exact h _
  · rw [if_neg e]
    exact ⟨rfl, rfl, rfl, rfl, rfl, rfl, rfl, rfl, rfl⟩⟩

theorem State.putRec_ringSame (s : State) (n : Nat) (r : Rec) (irq pg : Bool) : RingSame s (s.putRec n r irq pg) := by
  unfold State.putRec
  dsimp only
  split
  · exact RingSame.refl s
  · split
    · exact RingSame.of (State.setEvt_rings ..)
    · refine RingSame.trans ?_ (RingSame.of (State.recSignal_rings ..))
      refine RingSame.trans (RingSame.of ?_) (RingSame.setRing _ _ _ (fun q => ⟨rfl, rfl, rfl, rfl, rfl, rfl, rfl, rfl, rfl⟩))
      rw [State.emit_rings, State.wakePort_rings]

theorem State.postCompletion_ringSame (s : State) (n src : Nat) (r : Rec) (irq named : Bool) :
    RingSame s (s.postCompletion n src r irq named) := by
  unfold State.postCompletion
  dsimp only
  split
  · exact State.putRec_ringSame ..
  · exact RingSame.setRing _ _ _ (fun q => ⟨rfl, rfl, rfl, rfl, rfl, rfl, rfl, rfl, rfl⟩)

theorem State.postUnsolicited_ringSame (s : State) (n : Nat) (r : Rec) (pg : Bool) : RingSame s (s.postUnsolicited n r pg) := by
  unfold State.postUnsolicited
  dsimp only
  split
  · exact State.putRec_ringSame ..
  · refine RingSame.trans (RingSame.setRing s n (fun q => { q with lost := true })
      (fun q => ⟨rfl, rfl, rfl, rfl, rfl, rfl, rfl, rfl, rfl⟩)) (RingSame.of ?_)
    rw [State.count_rings, State.setEvt_rings]

theorem State.post_ringSame (s : State) (group etype source : Nat) (pl : List (Nat × Nat × Nat)) (status : Nat) :
    RingSame s (s.post group etype source pl status) :=
  RingSame.foldl _ (fun s n => State.postUnsolicited_ringSame s n _ _) (RingSame.refl s)

theorem State.hpEvt_ringSame (s : State) (p b : Nat) : RingSame s (s.hpEvt p b) := by
  unfold State.hpEvt
  dsimp only
  split
  · exact RingSame.of (State.setEvt_rings ..)
  · exact (RingSame.of (State.setEvt_rings ..)).trans (State.post_ringSame ..)

/-! ### Taking and completing a descriptor (R394, R403, R404, R407) -/

theorem State.ring_take (s : State) (d : Desc) : (s.take d).ring d.ring = { s.ring d.ring with
    dev := (s.ring d.ring).dev + 1, outstanding := (s.ring d.ring).outstanding + 1, barrier := (s.ring d.ring).barrier || fBarrier d } := by
  exact State.ring_setRing_self s _ _

@[simp] theorem RingSt.settle_dev (q : RingSt) : q.settle.dev = q.dev := by unfold RingSt.settle; split <;> rfl
@[simp] theorem RingSt.settle_db (q : RingSt) : q.settle.db = q.db := by unfold RingSt.settle; split <;> rfl
@[simp] theorem RingSt.settle_outstanding (q : RingSt) : q.settle.outstanding = q.outstanding := by unfold RingSt.settle; split <;> rfl

/-- A completion: one descriptor of the ring no longer counts as outstanding. -/
theorem State.complete_outstanding (s : State) (t : Ticket) (st : Nat) (pl : List (Nat × Nat × Nat)) (et : Nat)
    (h : (s.ring t.ring).gen = t.gen) :
    ((s.complete t st pl et).ring t.ring).outstanding = (s.ring t.ring).outstanding - 1 := by
  unfold State.complete
  have e : (s.countRefusal pl).rings = s.rings := State.countRefusal_rings ..
  have e1 : (s.countRefusal pl).ring t.ring = s.ring t.ring := by unfold State.ring; rw [e]
  rw [if_neg (by rw [e1]; exact fun c => c h), State.ring_setRing_self]
  have := ((s.countRefusal pl).postCompletion_ringSame ((s.countRefusal pl).evtRing t.ring) t.ring
    { etype := et, status := st, tag := t.tag, source := t.target, tick := (s.countRefusal pl).time.tickNum, payload := payload pl }
    t.irq (namedTick t.opcode st)).same t.ring |>.2.2.2.2.1
  rw [e1] at this
  rw [← this]
  unfold RingSt.retire RingSt.settle
  split <;> rfl

/-- The ticket that a descriptor gets when it is taken. -/
theorem State.runCmd_run (s : State) (d : Desc) (op : Nat) (check : State → Refuse) (body : Ticket → State → State)
    (h : s.takeable d 0 = true) (hk : d.known = true) (hc : check (s.take d) = none) :
    s.runCmd d op check body = body { ticketOf d op with gen := (s.ring d.ring).gen } (s.take d) := by
  unfold State.runCmd
  simp only [h, hk, Bool.not_true, Bool.false_eq_true, if_false, if_true, hc]

/-- A check that fails: one completion, and nothing else. -/
theorem State.runCmd_refuse (s : State) (d : Desc) (op : Nat) (check : State → Refuse) (body : Ticket → State → State)
    (h : s.takeable d 0 = true) (hk : d.known = true) {st : Nat} {pl : List (Nat × Nat × Nat)} (hs : st ≠ stChainLimit)
    (hc : check (s.take d) = some (st, pl)) :
    s.runCmd d op check body = (s.take d).complete { ticketOf d op with gen := (s.ring d.ring).gen } st pl := by
  unfold State.runCmd
  simp only [h, hk, Bool.not_true, Bool.false_eq_true, if_false, if_true, hc, hs]

theorem State.go_run (s : State) (f : State → State) (h : s.svc.stopped = none) : s.go f = .next (f s) := by
  unfold State.go
  simp only [h, Option.isSome_none, Bool.false_eq_true, if_false]

/-! ### Writing one record (R397, R399) -/

theorem State.signal_out (s : State) (p v : Nat) : (s.signal p v).out = s.out ∨ (s.signal p v).out = .msix p v :: s.out := by
  unfold State.signal
  dsimp only
  split
  · exact Or.inl rfl
  · split
    · exact Or.inl rfl
    · exact Or.inr (by rw [State.wakePort_out]; rfl)

theorem State.recSignal_out (s : State) (n : Nat) (irq pg : Bool) :
    ∃ m, (s.recSignal n irq pg).out = m ++ s.out ∧ ∀ o ∈ m, ∃ v, o = .msix (s.ringPort n) v := by
  have key : ∀ (u : State) (v : Nat), (∃ m, u.out = m ++ s.out ∧ ∀ o ∈ m, ∃ v, o = Out.msix (s.ringPort n) v) →
      ∃ m, (u.signal (s.ringPort n) v).out = m ++ s.out ∧ ∀ o ∈ m, ∃ v, o = Out.msix (s.ringPort n) v := by
    rintro u v ⟨m, hm, ho⟩
    rcases State.signal_out u (s.ringPort n) v with h | h
    · exact ⟨m, h.trans hm, ho⟩
    · refine ⟨.msix (s.ringPort n) v :: m, by rw [h, hm]; rfl, ?_⟩
      intro o hmem
      rcases List.mem_cons.mp hmem with rfl | h'
      · exact ⟨v, rfl⟩
      · exact ho o h'
  have base : ∃ m, s.out = m ++ s.out ∧ ∀ o ∈ m, ∃ v, o = Out.msix (s.ringPort n) v := ⟨[], rfl, by simp⟩
  unfold State.recSignal
  dsimp only
  split
  · apply key
    split
    · exact key _ _ base
    · exact base
  · split
    · exact key _ _ base
    · exact base

/-- A record that IDE does not block and whose port talks: one host write, then its message. -/
theorem State.putRec_writes (s : State) (n : Nat) (r : Rec) (irq pg : Bool) (ht : s.portTalks (s.ringPort n) = true)
    (hi : s.ideOk (s.ringPort n) ((s.ring n).base + 32 * ((s.ring n).dev.toNat % s.ringSize n)) 32 = true) :
    (∃ m, (s.putRec n r irq pg).out = m ++ .hostWrite (s.ringPort n) ((s.ring n).base + 32 * ((s.ring n).dev.toNat % s.ringSize n))
        (r.bytes (decide ((s.ring n).dev.toNat / s.ringSize n % 2 = 0)) (s.ring n).lost) false false :: s.out
      ∧ ∀ o ∈ m, ∃ v, o = Out.msix (s.ringPort n) v)
    ∧ (s.putRec n r irq pg).ring n = { s.ring n with dev := (s.ring n).dev + 1, lost := false }
    ∧ ∀ k, k ≠ n → (s.putRec n r irq pg).ring k = s.ring k := by
  unfold State.putRec
  simp only [ht, hi, Bool.not_true, Bool.false_eq_true, if_false]
  generalize hu : State.setRing _ n _ = u
  have hp : u.ringPort n = s.ringPort n := by
    subst hu
    unfold State.ringPort State.ringOwn State.bootOwn State.portExists State.act State.activeSet State.reg
    simp only [State.setRing_cfg, State.emit_cfg, State.wakePort_cfg, State.setRing_cur, State.emit_cur, State.wakePort_cur]
  have hr : (u.recSignal n irq pg).rings = u.rings := State.recSignal_rings ..
  have hring : ∀ k, (u.recSignal n irq pg).ring k = u.ring k := fun k => by unfold State.ring; rw [hr]
  have hw : ∀ k, ((s.wakePort (s.ringPort n)).emit (.hostWrite (s.ringPort n)
      ((s.ring n).base + 32 * ((s.ring n).dev.toNat % s.ringSize n))
        (r.bytes (decide ((s.ring n).dev.toNat / s.ringSize n % 2 = 0)) (s.ring n).lost) false false)).ring k = s.ring k := fun k => by
    unfold State.ring
    rw [State.emit_rings, State.wakePort_rings]
  refine ⟨?_, ?_, ?_⟩
  · obtain ⟨m, h1, h2⟩ := State.recSignal_out u n irq pg
    refine ⟨m, ?_, by rw [← hp]; exact h2⟩
    rw [h1, ← hu, State.setRing_out]
    unfold State.emit
    dsimp only
    rw [State.wakePort_out]
  · rw [hring, ← hu, State.ring_setRing_self, hw]
  · intro k hk
    rw [hring, ← hu, State.ring_setRing, if_neg hk, hw]

end Sys2Proof.Machine
end

