-- ==== Sys2Proof/Laws/Post.lean ====
section
/-! SUPPORT. What the posting of records leaves of registers and of host ports. -/

namespace Sys2Proof.Machine

/-- A register that neither the posting of a record nor a shift change writes: not STEW_CTRL, HP_EVENTS, RING_EVENTS or
RING_EVT_LOST_CNT. -/
def Quiet (q : RegRow) (k l : Nat) : Prop :=
  (q.win = 1 → ∀ i, q.addr k l ≠ Reg.HP_EVENTS.addr i)
    ∧ (q.win = 2 → ∀ i, q.addr k l ≠ Reg.RING_EVENTS.addr i ∧ q.addr k l ≠ Reg.RING_EVT_LOST_CNT.addr i)
    ∧ (q.win = 0 → q.addr k l ≠ Reg.STEW_CTRL.addr)

/-- From `s` to `t` every quiet register is the same, and every host port but its L1 state and pending vectors. -/
structure PostSame (s t : State) : Prop where
  reg : ∀ q k l, Quiet q k l → t.reg q k l = s.reg q k l
  port : ∀ n : Nat, { t.port n with l1 := (s.port n).l1, pba := (s.port n).pba } = s.port n
  ring : RingSame s t
  evt : ∀ p b, bit (s.reg Reg.HP_EVENTS p) b = true → bit (t.reg Reg.HP_EVENTS p) b = true

theorem PostSame.refl (s : State) : PostSame s s := ⟨fun _ _ _ _ => rfl, fun _ => rfl, RingSame.refl s, fun _ _ h => h⟩

theorem PostSame.trans {s t u : State} (a : PostSame s t) (b : PostSame t u) : PostSame s u :=
  ⟨fun q k l h => (b.reg q k l h).trans (a.reg q k l h), fun n => by
    have h1 := a.port n
    have h2 := b.port n
    rw [← h2] at h1
    rw [← h1], a.ring.trans b.ring, fun p k h => b.evt p k (a.evt p k h)⟩

theorem PostSame.after {s t u : State} (b : PostSame t u) (a : PostSame s t) : PostSame s u := a.trans b

theorem PostSame.foldl {s t : State} {α : Type} {f : State → α → State} (l : List α) (h : ∀ s x, PostSame s (f s x)) (a : PostSame s t) :
    PostSame s (l.foldl f t) := by
  induction l generalizing t with
  | nil => exact a
  | cons x l ih => exact ih (a.trans (h t x))

theorem PostSame.of {s t : State} (hc : t.cur = s.cur) (hp : t.ports = s.ports) (hr : RingSame s t) : PostSame s t :=
  ⟨fun q k l _ => by unfold State.reg; rw [hc], fun n => by
    have : t.port n = s.port n := by unfold State.port; rw [hp]
    rw [this], hr, fun p b h => by unfold State.reg at h ⊢; rw [hc]; exact h⟩

theorem PostSame.reg_at (s : State) (r : RegRow) (i : Nat) (v : Word) (hr : r.win < 16)
    (h : ∀ q k l, Quiet q k l → q.win = r.win → q.addr k l ≠ r.addr i) (q : RegRow) (k l : Nat) (hq : Quiet q k l) :
    (s.setReg r i 0 v).reg q k l = s.reg q k l := by
  rw [State.reg_setReg_ne _ _ _ _ _ _ _ _ hr]
  by_cases e : q.win = r.win
  · exact Or.inr (h q k l hq e)
  · exact Or.inl e

/-- Setting an event bit or counting in the ring window. -/
theorem PostSame.ringReg (s : State) (r : RegRow) (i : Nat) (v : Word) (hr : r.win = 2)
    (h : ∀ q k l, Quiet q k l → q.win = r.win → q.addr k l ≠ r.addr i) : PostSame s (s.setReg r i 0 v) :=
  ⟨PostSame.reg_at s r i v (by omega) h, fun _ => rfl, RingSame.of rfl, fun p b hb => by
    rw [State.reg_setReg_ne _ _ _ _ _ _ _ _ (by omega) (by
      left
      rw [hr]
      decide)]
    exact hb⟩

theorem PostSame.hpEvents (s : State) (i b : Nat) : PostSame s (s.setEvt Reg.HP_EVENTS i b) :=
  ⟨PostSame.reg_at s _ i _ (by decide) (fun _ _ _ h e => h.1 e i), fun _ => rfl, RingSame.of rfl, fun p c hb => by
    unfold State.setEvt State.orReg
    by_cases e : p = i
    · rw [e, State.reg_setReg_self _ _ _ _ _ (by decide), bit_or, ← e, hb]
      rfl
    · rw [State.reg_setReg_ne _ _ _ _ _ _ _ _ (by decide) (by
        right
        simp only [RegRow.addr, Reg.HP_EVENTS]
        omega)]
      exact hb⟩

theorem PostSame.setPort (s : State) (n : Nat) (f : PortSt → PortSt)
    (h : ∀ q : PortSt, { f q with l1 := q.l1, pba := q.pba } = q) : PostSame s (s.setPort n f) :=
  ⟨fun _ _ _ _ => rfl, fun k => by
    rw [State.port_setPort]
    by_cases e : k = n
    · rw [if_pos e, e]
      exact h _
    · rw [if_neg e], RingSame.of rfl, fun _ _ h => h⟩

theorem PostSame.emit (s : State) (o : Out) : PostSame s (s.emit o) := ⟨fun _ _ _ _ => rfl, fun _ => rfl, RingSame.of rfl, fun _ _ h => h⟩

theorem PostSame.setRing (s : State) (n : Nat) (f : RingSt → RingSt)
    (h : ∀ q, (f q).state = q.state ∧ (f q).db = q.db ∧ (f q).base = q.base ∧ (f q).evt = q.evt ∧ (f q).outstanding = q.outstanding
      ∧ (f q).barrier = q.barrier ∧ (f q).role = q.role ∧ (f q).aborting = q.aborting ∧ (f q).gen = q.gen) :
    PostSame s (s.setRing n f) := ⟨fun _ _ _ _ => rfl, fun _ => rfl, RingSame.setRing s n f h, fun _ _ h => h⟩

theorem State.wakePort_postSame (s : State) (p : Nat) : PostSame s (s.wakePort p) := by
  unfold State.wakePort
  split
  · exact PostSame.setPort s p _ (fun q => rfl)
  · exact PostSame.refl s

theorem State.signal_postSame (s : State) (p v : Nat) : PostSame s (s.signal p v) := by
  unfold State.signal
  dsimp only
  split
  · exact PostSame.refl s
  · split
    · exact PostSame.setPort s p _ (fun q => rfl)
    · exact (PostSame.emit s (.msix p v)).trans (State.wakePort_postSame (s.emit (.msix p v)) p)

theorem State.recSignal_postSame (s : State) (n : Nat) (irq pg : Bool) : PostSame s (s.recSignal n irq pg) := by
  unfold State.recSignal
  dsimp only
  have h : PostSame s (if (decide (fld (s.reg Reg.RING_CTRL n) 29 28 = 2) || decide (fld (s.reg Reg.RING_CTRL n) 29 28 = 1) && irq) = true
      then s.signal (s.ringPort n) (fld (s.reg Reg.RING_CTRL n) 10 0) else s) := by
    split
    · exact State.signal_postSame ..
    · exact PostSame.refl s
  split
  · exact h.trans (State.signal_postSame ..)
  · exact h

theorem State.putRec_postSame (s : State) (n : Nat) (r : Rec) (irq pg : Bool) : PostSame s (s.putRec n r irq pg) := by
  unfold State.putRec
  dsimp only
  split
  · exact PostSame.refl s
  · split
    · exact PostSame.hpEvents ..
    · refine PostSame.trans ?_ (State.recSignal_postSame ..)
      refine PostSame.after (PostSame.setRing _ _ _ (fun q => ⟨rfl, rfl, rfl, rfl, rfl, rfl, rfl, rfl, rfl⟩)) ?_
      exact PostSame.after (PostSame.emit _ _) (State.wakePort_postSame ..)

theorem State.postCompletion_postSame (s : State) (n src : Nat) (r : Rec) (irq named : Bool) :
    PostSame s (s.postCompletion n src r irq named) := by
  unfold State.postCompletion
  dsimp only
  split
  · exact State.putRec_postSame ..
  · exact PostSame.setRing _ _ _ (fun q => ⟨rfl, rfl, rfl, rfl, rfl, rfl, rfl, rfl, rfl⟩)

theorem State.postUnsolicited_postSame (s : State) (n : Nat) (r : Rec) (pg : Bool) : PostSame s (s.postUnsolicited n r pg) := by
  unfold State.postUnsolicited
  dsimp only
  split
  · exact State.putRec_postSame ..
  · exact PostSame.after (PostSame.ringReg _ _ _ _ (by decide) (fun _ _ _ h e => (h.2.1 e n).2))
      (PostSame.after (PostSame.ringReg _ _ _ _ (by decide) (fun _ _ _ h e => (h.2.1 e n).1))
        (PostSame.setRing _ _ _ (fun q => ⟨rfl, rfl, rfl, rfl, rfl, rfl, rfl, rfl, rfl⟩)))

/-- Posting an event leaves every quiet register and, but for L1 and pending vectors, every port; and what RingSame names of rings. -/
theorem State.post_postSame (s : State) (group etype source : Nat) (pl : List (Nat × Nat × Nat)) (status : Nat) :
    PostSame s (s.post group etype source pl status) :=
  PostSame.foldl _ (fun s n => State.postUnsolicited_postSame s n _ _) (PostSame.refl s)

theorem State.hpEvt_postSame (s : State) (p b : Nat) : PostSame s (s.hpEvt p b) := by
  unfold State.hpEvt
  dsimp only
  split
  · exact PostSame.hpEvents ..
  · exact (PostSame.hpEvents ..).trans (State.post_postSame ..)

theorem State.logEntry_postSame (s : State) (code source detail : Nat) : PostSame s (s.logEntry code source detail) :=
  PostSame.of rfl rfl (RingSame.of rfl)

theorem State.changeUnit_postSame (s : State) (kind i code : Nat) : PostSame s (s.changeUnit kind i code) := by
  unfold State.changeUnit
  dsimp only
  split
  · exact PostSame.refl s
  · exact PostSame.after (State.logEntry_postSame ..) (PostSame.after (State.post_postSame ..)
      (PostSame.of (t := s.setUnit kind i code) rfl rfl (RingSame.of rfl)))

/-- An event bit that a port has set stands after its PORT_ERROR. -/
theorem State.hpEvt_bit (s : State) (p b : Nat) (hb : b < 32) : bit ((s.hpEvt p b).reg Reg.HP_EVENTS p) b = true := by
  have h : bit ((s.setEvt Reg.HP_EVENTS p b).reg Reg.HP_EVENTS p) b = true := by
    unfold State.setEvt State.orReg
    rw [State.reg_setReg_self _ _ _ _ _ (by decide)]
    exact bit_or_pow _ _ hb
  unfold State.hpEvt
  dsimp only
  split
  · exact h
  · exact (State.post_postSame ..).evt p b h

/-- The registers of windows that hold neither HP_EVENTS nor ring events are quiet. -/
theorem quiet_win (q : RegRow) (k l : Nat) (h0 : q.win ≠ 0) (h1 : q.win ≠ 1) (h2 : q.win ≠ 2) : Quiet q k l :=
  ⟨fun e => absurd e h1, fun e => absurd e h2, fun e => absurd e h0⟩

theorem quiet_hpStatus (p : Nat) : Quiet Reg.HP_STATUS p 0 :=
  ⟨fun _ i => by
    simp only [RegRow.addr, Reg.HP_STATUS, Reg.HP_EVENTS]
    omega, (fun e => by cases e), (fun e => by cases e)⟩

theorem quiet_ringCtrl (n : Nat) : Quiet Reg.RING_CTRL n 0 :=
  ⟨(fun e => by cases e), fun _ i => by
    simp only [RegRow.addr, Reg.RING_CTRL, Reg.RING_EVENTS, Reg.RING_EVT_LOST_CNT]
    omega, (fun e => by cases e)⟩

theorem State.setEvt_bit (s : State) (r : RegRow) (i b : Nat) (hr : r.win < 16) (hb : b < 32) : bit ((s.setEvt r i b).reg r i) b = true := by
  unfold State.setEvt State.orReg
  rw [State.reg_setReg_self _ _ _ _ _ hr]
  exact bit_or_pow _ _ hb

end Sys2Proof.Machine
end

