-- ==== Sys2Proof/Laws/Access.lean ====
section
/-! SUPPORT. What a port's write of a register that it may write comes to: the effect of the write on the state that the access leaves. -/

namespace Sys2Proof.Machine

/-- The state in which a write that reaches its register takes effect: the port's link is awake, and a gated unit wakes. -/
def State.reached (s : State) (p : Nat) (r : RegRow) (i : Nat) : State :=
  if r.fields ≠ 0 then (s.wakePort p).wakeUnit (r.addr i) else s.wakePort p

theorem State.reached_same (s : State) (p : Nat) (r : RegRow) (i : Nat) :
    (s.reached p r i).cur = s.cur ∧ (s.reached p r i).cfg = s.cfg ∧ (s.reached p r i).dev = s.dev ∧ (s.reached p r i).rings = s.rings
    ∧ (s.reached p r i).time = s.time ∧ (s.reached p r i).plan = s.plan ∧ (s.reached p r i).link = s.link
    ∧ (s.reached p r i).store = s.store ∧ (s.reached p r i).takes = s.takes ∧ (s.reached p r i).mover = s.mover
    ∧ (s.reached p r i).mag = s.mag ∧ (s.reached p r i).obj = s.obj ∧ (s.reached p r i).sec = s.sec
    ∧ (s.reached p r i).motion = s.motion ∧ (s.reached p r i).out = s.out ∧ (s.reached p r i).ckpt = s.ckpt
    ∧ (s.reached p r i).free = s.free := by
  unfold State.reached
  split
  · have h := State.wakeUnit_keeps (s.wakePort p) (r.addr i)
    refine ⟨?_, ?_, ?_, ?_, ?_, ?_, ?_, ?_, ?_, ?_, ?_, ?_, ?_, ?_, ?_, ?_, ?_⟩
    · exact (h.same .cur rfl).trans (State.wakePort_cur ..)
    · exact (h.same .cfg rfl).trans (State.wakePort_cfg ..)
    · exact (h.same .dev rfl).trans (State.wakePort_dev ..)
    · exact (h.same .rings rfl).trans (State.wakePort_rings ..)
    · exact (h.same .time rfl).trans (State.wakePort_time ..)
    · exact (h.same .plan rfl).trans (State.wakePort_plan ..)
    · exact (h.same .link rfl).trans (State.wakePort_link ..)
    · exact (h.same .store rfl).trans (State.wakePort_store ..)
    · exact (h.same .takes rfl).trans (State.wakePort_takes ..)
    · exact (h.same .mover rfl).trans (State.wakePort_mover ..)
    · exact (h.same .mag rfl).trans (State.wakePort_mag ..)
    · exact (h.same .obj rfl).trans (State.wakePort_obj ..)
    · exact (h.same .sec rfl).trans (State.wakePort_sec ..)
    · exact (h.same .motion rfl).trans (State.wakePort_motion ..)
    · exact (h.same .out rfl).trans (State.wakePort_out ..)
    · exact (h.same .ckpt rfl).trans (State.wakePort_ckpt ..)
    · exact (h.same .free rfl).trans (State.wakePort_free ..)
  · exact ⟨State.wakePort_cur .., State.wakePort_cfg .., State.wakePort_dev .., State.wakePort_rings .., State.wakePort_time ..,
      State.wakePort_plan .., State.wakePort_link .., State.wakePort_store .., State.wakePort_takes .., State.wakePort_mover ..,
      State.wakePort_mag .., State.wakePort_obj .., State.wakePort_sec .., State.wakePort_motion .., State.wakePort_out ..,
      State.wakePort_ckpt .., State.wakePort_free ..⟩

theorem State.wakePort_linkUp (s : State) (p q : Nat) : (s.wakePort p).linkUp q = s.linkUp q := by
  unfold State.linkUp State.reg
  rw [State.wakePort_cur]

theorem State.wakePort_portExists (s : State) (p q : Nat) : (s.wakePort p).portExists q = s.portExists q := by
  unfold State.portExists State.reg
  rw [State.wakePort_cur]

theorem State.wakePort_portTalks (s : State) (p q : Nat) : (s.wakePort p).portTalks q = s.portTalks q := by
  unfold State.portTalks
  rw [State.wakePort_linkUp]
  have : ((s.wakePort p).port q).d3hot = (s.port q).d3hot := by
    unfold State.wakePort
    split
    · rw [State.port_setPort]
      split
      · rename_i e
        rw [e]
      · rfl
    · rfl
  rw [this]

theorem State.wakePort_ringOwn (s : State) (p n : Nat) : (s.wakePort p).ringOwn n = s.ringOwn n := by
  unfold State.ringOwn State.bootOwn State.act State.activeSet
  rw [State.wakePort_portExists, State.wakePort_cfg]

theorem State.wakePort_mayWrite (s : State) (p q off : Nat) : (s.wakePort p).mayWrite q off = s.mayWrite q off := by
  unfold State.mayWrite State.portHasCo State.ownsRingAt State.ringPort State.ringAssigned
  simp only [State.wakePort_ringOwn, State.wakePort_dev, State.wakePort_rings]

theorem State.wakePort_areaHeld (s : State) (p off : Nat) : (s.wakePort p).areaHeld off = s.areaHeld off := by
  unfold State.areaHeld
  rw [State.wakePort_svc, State.wakePort_time]

/-- A write that its port may make reaches the register. -/
theorem State.rowWrite_reaches (s : State) (p : Nat) (r : RegRow) (i : Nat) (v : Word) (h : s.writable p r i) :
    s.rowWrite p r i v = (s.reached p r i).regAct p r i 0 (r.addr i) v := by
  obtain ⟨_, hi, ht, hm, hw, ha, he⟩ := h
  unfold State.rowWrite State.onWrite State.regWrite
  dsimp only
  rw [if_pos hi, State.wakePort_portTalks, ht, State.wakePort_dev, State.wakePort_mayWrite, hw, State.wakePort_areaHeld, ha]
  rw [if_neg (by simp), if_neg hm, if_neg (by simp), if_neg, if_neg (by simp)]
  · rfl
  · rintro ⟨h1, h2⟩
    rw [State.wakePort_portExists, he h1] at h2
    cases h2

theorem State.wakeUnit_eq (u : State) (off : Nat) : ∃ w, u.wakeUnit off = { u with svc := { u.svc with woken := w } } := by
  unfold State.wakeUnit
  split
  · split
    · exact ⟨_, rfl⟩
    · exact ⟨u.svc.woken, rfl⟩
  · exact ⟨u.svc.woken, rfl⟩

theorem State.wakePort_eq (s : State) (p : Nat) : s.wakePort p = { s with ports := (s.wakePort p).ports } := by
  unfold State.wakePort
  split <;> rfl

/-- All that the access itself changes: the L1 state of the port, and the list of woken units. -/
theorem State.reached_eq (s : State) (p : Nat) (r : RegRow) (i : Nat) :
    ∃ w, s.reached p r i = { s with ports := (s.wakePort p).ports, svc := { s.svc with woken := w } } := by
  unfold State.reached
  split
  · obtain ⟨w, h⟩ := State.wakeUnit_eq (s.wakePort p) (r.addr i)
    refine ⟨w, ?_⟩
    rw [h, State.wakePort_eq]
  · refine ⟨s.svc.woken, ?_⟩
    rw [State.wakePort_eq]

theorem State.wakePort_port (s : State) (p n : Nat) : ∃ l, (s.wakePort p).port n = { s.port n with l1 := l } := by
  unfold State.wakePort
  split
  · rw [State.port_setPort]
    split
    · rename_i e
      rw [e]
      exact ⟨false, rfl⟩
    · exact ⟨(s.port n).l1, rfl⟩
  · exact ⟨(s.port n).l1, rfl⟩

end Sys2Proof.Machine
end

