-- ==== Sys2Proof/Laws/Spec.lean ====
section
/-! SUPPORT. Spec lemmas of operations that several commands call: what each leaves in the one record it works on. -/

namespace Sys2Proof.Machine

theorem State.stewardChanged_dev (s : State) (old : Option Nat) (c : Nat) : (s.stewardChanged old c).dev = s.dev :=
  (State.stewardChanged_keeps s old c).same .dev rfl

theorem State.healthFail_dev (s : State) (n : Nat) : ∃ b, (s.healthFail n).dev = { s.dev with bound := b } := by
  unfold State.healthFail
  dsimp only
  split
  · exact ⟨_, rfl⟩
  · split
    · exact ⟨_, rfl⟩
    · exact ⟨s.dev.bound, State.post_dev ..⟩

theorem State.healthFail_postSame (s : State) (n : Nat) : PostSame s (s.healthFail n) := by
  have h1 : ∀ (c : CfgState) (b : Bound), PostSame s (({ s with cfg := c } : State).pushBound b) := fun c b =>
    PostSame.of rfl rfl (RingSame.of rfl)
  have h2 : ∀ c : CfgState, PostSame s ({ s with cfg := c } : State) := fun c => PostSame.of rfl rfl (RingSame.of rfl)
  unfold State.healthFail
  dsimp only
  split
  · exact PostSame.refl s
  · split
    · exact h1 _ _
    · exact PostSame.after (State.post_postSame ..) (h2 _)

theorem State.stewardChanged_postSame (s : State) (old : Option Nat) (c : Nat) : PostSame s (s.stewardChanged old c) := by
  unfold State.stewardChanged
  exact PostSame.foldl _ (fun s x => State.signal_postSame ..) (State.post_postSame ..)

theorem State.shiftChange_postSame (s : State) (c : Nat) : PostSame s (s.shiftChange c) := by
  unfold State.shiftChange
  split
  · exact PostSame.refl s
  · dsimp only
    refine PostSame.after (State.healthFail_postSame ..) (PostSame.after (State.stewardChanged_postSame ..) ?_)
    refine PostSame.foldl _ (fun s x => State.hpEvt_postSame ..) ?_
    refine ⟨fun q k l h => ?_, fun _ => rfl, RingSame.of rfl, fun p b h => ?_⟩
    · unfold State.clrReg
      rw [State.reg_setReg_ne _ _ _ _ _ _ _ _ (by decide)]
      · rfl
      · by_cases e : q.win = 0
        · exact Or.inr (h.2.2 e)
        · exact Or.inl e
    · unfold State.clrReg
      rw [State.reg_setReg_ne _ _ _ _ _ _ _ _ (by decide) (by left; decide)]
      exact h

/-! ### RING_CTRL and the rings it names -/

theorem ringCtrl_fields (v c : Word) (b : Nat) (hb : b ≠ 31) (hw : bit Reg.RING_CTRL.rwi b = true) :
    bit ((v &&& Reg.RING_CTRL.rwi &&& ~~~ 0x80000000#32) ||| (c &&& 0x80000000#32)) b = bit v b := by
  have hb' : b < 32 := by
    rcases Nat.lt_or_ge b 32 with h | h
    · exact h
    · unfold bit at hw
      rw [BitVec.getLsbD_of_ge _ _ h] at hw
      cases hw
  have h1 : bit (0x80000000#32) b = false := by
    have := bit_pow 31 b (by decide)
    simp only [hb, decide_false] at this
    exact this
  have h2 : bit (~~~ 0x80000000#32) b = true := by rw [bit_not _ _ hb', h1]; rfl
  rw [bit_or, bit_and, bit_and, bit_and, hw, h1, h2]
  simp

theorem ringCtrl_enable (v c : Word) :
    bit ((v &&& Reg.RING_CTRL.rwi &&& ~~~ 0x80000000#32) ||| (c &&& 0x80000000#32)) 31 = bit c 31 := by
  rw [bit_or, bit_and, bit_and, bit_and, show bit (~~~ 0x80000000#32) 31 = false by decide, show bit (0x80000000#32) 31 = true by decide]
  simp

theorem ringCtrl_evt (v c : Word) :
    fld ((v &&& Reg.RING_CTRL.rwi &&& ~~~ 0x80000000#32) ||| (c &&& 0x80000000#32)) 25 16 = fld v 25 16 := by
  apply fld_congr
  intro b h1 h2
  apply ringCtrl_fields _ _ _ (by omega)
  have : b = 16 ∨ b = 17 ∨ b = 18 ∨ b = 19 ∨ b = 20 ∨ b = 21 ∨ b = 22 ∨ b = 23 ∨ b = 24 ∨ b = 25 := by omega
  rcases this with rfl | rfl | rfl | rfl | rfl | rfl | rfl | rfl | rfl | rfl <;> decide

/-- Rings and their assignment are read from registers of other places, the configuration and the rings. -/
theorem ringOwn_setCtrl (s : State) (n k : Nat) (v : Word) : (s.setReg Reg.RING_CTRL n 0 v).ringOwn k = s.ringOwn k := by
  unfold State.ringOwn State.bootOwn State.portExists
  rw [State.reg_setReg_ne _ _ _ _ _ _ _ _ (by decide) (by left; decide)]
  rfl

theorem portExists_setCtrl (s : State) (n k : Nat) (v : Word) : (s.setReg Reg.RING_CTRL n 0 v).portExists k = s.portExists k := by
  unfold State.portExists
  rw [State.reg_setReg_ne _ _ _ _ _ _ _ _ (by decide) (by left; decide)]

theorem ringBase_setCtrl (s : State) (n : Nat) (v : Word) : (s.setReg Reg.RING_CTRL n 0 v).ringBase n = s.ringBase n := by
  unfold State.ringBase State.reg64
  rw [State.reg_setReg_ne _ _ _ _ _ _ _ _ (by decide) (by right; simp [RegRow.addr, Reg.RING_CTRL, Reg.RING_BASE_LO]),
   State.reg_setReg_ne _ _ _ _ _ _ _ _ (by decide) (by right; simp [RegRow.addr, Reg.RING_CTRL, Reg.RING_BASE_HI])]

theorem reached_ringOwn (s : State) (p n k : Nat) : (s.reached p Reg.RING_CTRL n).ringOwn k = s.ringOwn k := by
  obtain ⟨h1, h2, _⟩ := s.reached_same p Reg.RING_CTRL n
  unfold State.ringOwn State.bootOwn State.portExists State.act State.activeSet State.reg
  rw [h1, h2]

theorem fld_top (v : Word) : fld (v ||| 0x80000000#32) 25 16 = fld v 25 16 := by
  apply fld_congr
  intro b _ h2
  have := bit_pow 31 b (by decide)
  rw [show BitVec.ofNat 32 (2 ^ 31) = 0x80000000#32 by rfl] at this
  rw [bit_or, this]
  simp [show b ≠ 31 by omega]

/-! ### Host links -/

theorem State.linkSet_reg (s : State) (p rate width : Nat) (flit : Bool) (hr : rate < 16) (hw : width < 32) :
    bit ((s.linkSet p rate width flit).reg Reg.HP_STATUS p) 30 = true
    ∧ fld ((s.linkSet p rate width flit).reg Reg.HP_STATUS p) 19 16 = rate
    ∧ fld ((s.linkSet p rate width flit).reg Reg.HP_STATUS p) 12 8 = width := by
  unfold State.linkSet State.setF
  simp only [State.reg_setReg_self _ Reg.HP_STATUS p 0 _ (by decide)]
  refine ⟨?_, ?_, ?_⟩
  · rw [bit_setFld_ne _ _ _ _ _ (by decide) (by decide), bit_setFld_ne _ _ _ _ _ (by decide) (by decide),
      bit_setFld_ne _ _ _ _ _ (by decide) (by decide)]
    rw [bit_setFld_self _ _ _ (by decide)]
    rfl
  · rw [fld_setFld_ne _ _ _ _ _ _ (by decide) (by decide), fld_setFld_self _ _ _ _ (by decide) (by decide)]
    omega
  · rw [fld_setFld_self _ _ _ _ (by decide) (by decide)]
    omega

end Sys2Proof.Machine
end

