-- ==== Sys2Proof/Laws/Lanes.lean ====
section
/-! SUPPORT. What the operations on lanes and head links leave in a lane, a link and the lane's registers. -/

namespace Sys2Proof.Machine

theorem State.lane_of {s t : State} (h : t.link = s.link) (n : Nat) : t.lane n = s.lane n := by unfold State.lane; rw [h]
theorem State.lane_lanes {s t : State} (h : t.link.lanes = s.link.lanes) (n : Nat) : t.lane n = s.lane n := by unfold State.lane; rw [h]
theorem State.hl_of {s t : State} (h : t.link = s.link) (l : Nat) : t.hl l = s.hl l := by unfold State.hl; rw [h]
theorem State.swapOf_of {s t : State} (h : t.link = s.link) (p : Nat) : t.swapOf p = s.swapOf p := by unfold State.swapOf; rw [h]

@[simp] theorem State.laneEvt_link (s : State) (n : Nat) (b : List Nat) : (s.laneEvt n b).link = s.link :=
  (State.laneEvt_keeps ..).same .link rfl
@[simp] theorem State.laneEvt_time (s : State) (n : Nat) (b : List Nat) : (s.laneEvt n b).time = s.time :=
  (State.laneEvt_keeps ..).same .time rfl
@[simp] theorem State.laneEvt_cfg (s : State) (n : Nat) (b : List Nat) : (s.laneEvt n b).cfg = s.cfg :=
  (State.laneEvt_keeps ..).same .cfg rfl

/-- A bit that a lane event sets. -/
theorem State.laneEvt_bit (s : State) (n b : Nat) (hb : b < 32) : bit ((s.laneEvt n [b]).reg Reg.LANE_EVENTS n) b = true := by
  have h : bit ((s.orReg Reg.LANE_EVENTS n (bitsOf [b])).reg Reg.LANE_EVENTS n) b = true := by
    unfold State.orReg
    rw [State.reg_setReg_self _ _ _ _ _ (by decide), bit_or]
    have : bit (bitsOf [b]) b = true := by
      unfold bitsOf
      simp only [List.foldl_cons, List.foldl_nil]
      exact bit_or_pow _ _ hb
    rw [this, Bool.or_true]
  unfold State.laneEvt
  dsimp only
  split
  · exact h
  · rw [(State.post_postSame ..).reg Reg.LANE_EVENTS n 0 (quiet_win _ _ _ (by decide) (by decide) (by decide))]
    exact h

/-- A link's state changes, and nothing else of the lanes and links. -/
theorem State.setLinkMode_link (s : State) (l : Nat) (m : LinkMode) :
    (s.setLinkMode l m).link = { s.link with links := s.link.links.upd {} l (fun q => { q with mode := m }) }
    ∨ ((s.hl l).mode = m ∧ (s.setLinkMode l m).link = s.link) := by
  unfold State.setLinkMode
  dsimp only
  split
  · next h => exact Or.inr ⟨h, rfl⟩
  · left
    split
    · rw [State.healthFail_link, State.post_link]
      rfl
    · rw [State.post_link]
      rfl

@[simp] theorem State.setLinkMode_lane (s : State) (l : Nat) (m : LinkMode) (n : Nat) : (s.setLinkMode l m).lane n = s.lane n := by
  apply State.lane_lanes
  rcases s.setLinkMode_link l m with h | ⟨_, h⟩ <;> rw [h]

theorem State.setLinkMode_hl (s : State) (l : Nat) (m : LinkMode) : (s.setLinkMode l m).hl l = { s.hl l with mode := m } := by
  rcases s.setLinkMode_link l m with h | ⟨h0, h⟩
  · unfold State.hl
    rw [h]
    exact Tab.get_upd_self ({} : LinkSt) s.link.links l (fun q => { q with mode := m })
  · rw [State.hl_of h, ← h0]

theorem State.setLinkMode_swapOf (s : State) (l : Nat) (m : LinkMode) (p : Nat) : (s.setLinkMode l m).swapOf p = s.swapOf p := by
  unfold State.swapOf
  rcases s.setLinkMode_link l m with h | ⟨_, h⟩ <;> rw [h]

@[simp] theorem State.emit_lane (s : State) (o : Out) (n : Nat) : (s.emit o).lane n = s.lane n := rfl
@[simp] theorem State.emit_hl (s : State) (o : Out) (n : Nat) : (s.emit o).hl n = s.hl n := rfl
@[simp] theorem State.setSpareNow_lane (s : State) (p v n : Nat) : (s.setSpareNow p v).lane n = s.lane n := rfl
@[simp] theorem State.setSwap_lane (s : State) (p : Nat) (w : Option Swap) (n : Nat) : (s.setSwap p w).lane n = s.lane n := rfl
@[simp] theorem State.setSwap_hl (s : State) (p : Nat) (w : Option Swap) (n : Nat) : (s.setSwap p w).hl n = s.hl n := rfl
@[simp] theorem State.laneEvt_lane (s : State) (k : Nat) (b : List Nat) (n : Nat) : (s.laneEvt k b).lane n = s.lane n :=
  State.lane_of (State.laneEvt_link ..) n
@[simp] theorem State.laneEvt_hl (s : State) (k : Nat) (b : List Nat) (n : Nat) : (s.laneEvt k b).hl n = s.hl n :=
  State.hl_of (State.laneEvt_link ..) n
@[simp] theorem State.setReg_lane (s : State) (r : RegRow) (i j : Nat) (v : Word) (n : Nat) : (s.setReg r i j v).lane n = s.lane n := rfl
@[simp] theorem State.clrReg_lane (s : State) (r : RegRow) (i : Nat) (v : Word) (n : Nat) : (s.clrReg r i v).lane n = s.lane n := rfl
@[simp] theorem State.setEvt_lane (s : State) (r : RegRow) (i b n : Nat) : (s.setEvt r i b).lane n = s.lane n := rfl
@[simp] theorem State.countN_lane (s : State) (r : RegRow) (i k n : Nat) : (s.countN r i k).lane n = s.lane n := rfl
@[simp] theorem State.setSwap_swapOf (s : State) (p : Nat) (w : Option Swap) : (s.setSwap p w).swapOf p = w := by
  unfold State.swapOf State.setSwap
  exact Tab.get_put_self _ _ _ _
@[simp] theorem State.sendMgmt_lane (s : State) (l n : Nat) (m : LaneMsg) (k : Nat) : (s.sendMgmt l n m).lane k = s.lane k := rfl
@[simp] theorem State.sendMgmt_swapOf (s : State) (l n : Nat) (m : LaneMsg) (p : Nat) : (s.sendMgmt l n m).swapOf p = s.swapOf p := rfl
@[simp] theorem State.sendMgmt_out (s : State) (l n : Nat) (m : LaneMsg) :
    (s.sendMgmt l n m).out = .mgmt n { m with seq := (s.hl l).msgSeq % 256 } :: s.out := rfl

/-! ### Training (R130, R134) -/

/-- A lane that starts training sends training frames; nothing else of it changes. -/
theorem State.startTraining_lane (s : State) (n : Nat) : (s.startTraining n).lane n = { s.lane n with
    mode := .training, trainAt := s.time.clk, farReady := 0, mismatch := 0, ready := false, tail := none,
    ffe := ffePreset (s.actF Reg.LANE_TRAIN_CTRL n 3 2), far := {}, reqSeq := 0, reqWait := false, rspSeq := 0,
    spareReady := false, deskewOk := false, rxPre := false, txPre := false, commaMiss := 0, uncorr := 0,
    lockLostAt := none, failAt := none, retrainReq := false, snrLow := 0, snrHigh := 0 } := by
  unfold State.startTraining
  dsimp only
  rw [State.emit_lane]
  repeat' split
  all_goals simp

/-- Other lanes are as before when one starts training. -/
theorem State.startTraining_lane_ne (s : State) (n k : Nat) (h : k ≠ n) : (s.startTraining n).lane k = s.lane k := by
  unfold State.startTraining
  dsimp only
  rw [State.emit_lane]
  repeat' split
  all_goals simp [State.lane_setLane, h]

theorem State.startTraining_out (s : State) (n : Nat) : ∃ c rest, (s.startTraining n).out = .lane n (.training c) :: rest := by
  unfold State.startTraining
  dsimp only
  exact ⟨_, _, rfl⟩

theorem State.laneTemp_train (s : State) (n : Nat) : (s.clrReg Reg.LANE_TRAIN_CTRL n 1).laneTemp n = s.laneTemp n := by
  unfold State.laneTemp State.clrReg
  rw [State.reg_setReg_ne _ _ _ _ _ _ _ _ (by decide) (by left; decide)]

theorem State.trainFail_lane (s : State) (n : Nat) : (s.trainFail n).lane n = { s.lane n with
    fails := (s.lane n).fails + 1, failAt := some s.time.clk, trainTemp := s.laneTemp n,
    mode := if 3 ≤ (s.lane n).fails + 1 then .failed else .training } := by
  have ht := s.laneTemp_train n
  have h : ∀ (u : State) (c : Prop) [Decidable c] (p v : Nat), (if c then u.setSpareNow p v else u).lane n = u.lane n := by
    intro u c _ p v
    split <;> rfl
  unfold State.trainFail
  dsimp only
  rw [State.emit_lane, State.laneEvt_lane, h, State.lane_setLane_self, ht]
  rfl

theorem State.trainFail_bit (s : State) (n : Nat) : bit ((s.trainFail n).reg Reg.LANE_EVENTS n) 4 = true := by
  unfold State.trainFail
  dsimp only
  exact State.laneEvt_bit _ _ 4 (by decide)

@[simp] theorem State.linkStart_lane (s : State) (l n : Nat) : (s.linkStart l).lane n = s.lane n := by
  unfold State.linkStart
  rw [State.setLinkMode_lane]
  rfl

theorem State.trainDone_lane (s : State) (n : Nat) : (s.trainDone n).lane n = { s.lane n with
    mode := if (s.lane n).spare then .spareRun else .locked, trainTemp := s.laneTemp n, fails := 0, failAt := none,
    deskewOk := true, cw := 4096, rxBlock := 0, txBlock := 0, variant := .normal, uncorr := 0, losing := false,
    spareBits := 0, spareErrs := 0, spareAt := s.time.clk, tail := some 32, txIdleAt := none } := by
  have h := s.laneTemp_train n
  unfold State.trainDone
  dsimp only
  rw [h]
  have h2 : ∀ (u : State) (o : Option Nat) (c : Nat → Bool),
      (match o with | some l => if c l = true then u.linkStart l else u | none => u).lane n = u.lane n := by
    intro u o c
    split
    · split
      · exact State.linkStart_lane ..
      · rfl
    · rfl
  refine (h2 _ _ (fun l => _)).trans ?_
  simp only [State.emit_lane, State.laneEvt_lane, State.lane_setLane_self]
  rfl

/-- A block's measurement leaves all of a lane but the margin counts and MARGIN_LOW. -/
theorem State.margin_lane (s : State) (n snr : Nat) : ∃ low high b,
    (s.margin n snr).lane n = { s.lane n with snrLow := low, snrHigh := high, marginLow := b } := by
  have hp : ∀ (u : State) (t : Option Ticket), (u.proposeSwap n t).lane n = u.lane n := by
    intro u t
    unfold State.proposeSwap
    split
    · rfl
    · rfl
  unfold State.margin
  dsimp only
  generalize (if snr < 10 * (s.setF Reg.LANE_SNR n 15 0 snr).actF Reg.LANE_EQ_CTRL n 23 16 then
    ((s.setF Reg.LANE_SNR n 15 0 snr).lane n).snrLow + 1 else 0) = low
  generalize (if 10 * (s.setF Reg.LANE_SNR n 15 0 snr).actF Reg.LANE_EQ_CTRL n 23 16 + 100 ≤ snr then
    ((s.setF Reg.LANE_SNR n 15 0 snr).lane n).snrHigh + 1 else 0) = high
  generalize hu : State.setLane _ n _ = u
  have hl : ∃ b, u.lane n = { s.lane n with snrLow := low, snrHigh := high, marginLow := b } :=
    ⟨_, by rw [← hu, State.lane_setLane_self]; rfl⟩
  obtain ⟨b, hl⟩ := hl
  refine ⟨low, high, b, ?_⟩
  rw [← hl]
  repeat' split
  all_goals first | rfl | exact State.laneEvt_lane .. | exact (hp _ _).trans (State.laneEvt_lane ..)

theorem State.swapComma_none (s : State) (n : Nat) (v : Comma) (h : s.swapOf (lanePort n) = none) : s.swapComma n v = s := by
  unfold State.swapComma
  simp only [h]

/-- A planned swap whose receive side has not begun, with no failure in it. -/
def Swap.Fresh (w : Swap) : Prop := w.spareLost = false ∧ w.rxBlock = none ∧ w.failure = false ∧ w.laneFailed = false

/-- The swap that a block's measurement may propose is not agreed yet. -/
theorem State.margin_swap (s : State) (n snr : Nat) (h : s.swapOf (lanePort n) = none) :
    (s.margin n snr).swapOf (lanePort n) = none
    ∨ ∃ w, (s.margin n snr).swapOf (lanePort n) = some w ∧ w.Fresh := by
  have hp : ∀ (u : State), u.swapOf (lanePort n) = none → (u.proposeSwap n none).swapOf (lanePort n) = none
      ∨ ∃ w, (u.proposeSwap n none).swapOf (lanePort n) = some w ∧ w.Fresh := by
    intro u hu
    unfold State.proposeSwap
    split
    · right
      exact ⟨_, by rw [State.sendMgmt_swapOf, State.setSwap_swapOf], ⟨rfl, rfl, rfl, rfl⟩⟩
    · exact Or.inl hu
  have hl : ∀ (u : State) (k : Nat) (b : List Nat), (u.laneEvt k b).swapOf (lanePort n) = u.swapOf (lanePort n) := fun u k b =>
    State.swapOf_of (State.laneEvt_link ..) _
  unfold State.margin
  dsimp only
  generalize hu : State.setLane _ n _ = u
  have hs : u.swapOf (lanePort n) = none := by rw [← hu]; exact h
  rw [show (u.laneEvt n [6]).swapOf (lanePort n) = none from (hl ..).trans hs]
  repeat' split
  all_goals first | exact Or.inl hs | exact Or.inl ((hl ..).trans hs) | exact hp _ ((hl ..).trans hs)

/-- A NORMAL comma changes nothing of a swap that has not opened its block. -/
theorem State.swapComma_normal (s : State) (n : Nat) (h : s.swapOf (lanePort n) = none
    ∨ ∃ w, s.swapOf (lanePort n) = some w ∧ w.Fresh) : s.swapComma n .normal = s := by
  rcases h with h | ⟨w, h, h1, h2, h3, h4⟩
  · exact s.swapComma_none n _ h
  · unfold State.swapComma
    simp [h, h1, h2, h3, h4]

/-- A comma's part in a swap that has not opened its block leaves the place of every lane in its block. -/
theorem State.swapComma_place (s : State) (n : Nat) (v : Comma) (k : Nat) (h : s.swapOf (lanePort n) = none
    ∨ ∃ w, s.swapOf (lanePort n) = some w ∧ w.Fresh) :
    ((s.swapComma n v).lane k).rxBlock = (s.lane k).rxBlock ∧ ((s.swapComma n v).lane k).cw = (s.lane k).cw
      ∧ (((s.lane n).spare = false → ((s.swapComma n v).lane n).spare = false)) := by
  rcases h with h | ⟨w, h, h1, h2, h3, h4⟩
  · rw [s.swapComma_none n v h]
    exact ⟨rfl, rfl, id⟩
  · unfold State.swapComma
    simp only [h, h1, h2, h3, h4, Bool.false_eq_true, false_and, if_false, Bool.or_self, Bool.false_and, Option.isSome_none,
      and_true]
    split
    · exact ⟨rfl, rfl, id⟩
    · split
      · rw [State.setSwap_lane, State.setSwap_lane, State.lane_setLane]
        refine ⟨?_, ?_, fun _ => by rw [State.lane_setLane_self]⟩ <;> (by_cases e : k = n <;> simp [e])
      · exact ⟨rfl, rfl, id⟩

/-! ### Block starts -/

theorem State.lostBlock_lane (s : State) (a k : Nat) :
    (s.lostBlock a).lane k = s.lane k ∨ (s.lostBlock a).lane k = { s.lane k with cw := 0 } := by
  unfold State.lostBlock
  by_cases e : k = a
  · right
    rw [e, State.lane_setLane_self]
    rfl
  · left
    rw [State.lane_setLane, if_neg e]
    rfl

/-- A restripe at a block start leaves of a lane all but its count of lost codewords. -/
theorem State.restripeComma_lane (s : State) (l n k : Nat) : ∃ c b,
    (s.restripeComma l n).lane k = { s.lane k with cw := c, losing := b } ∧ (c = (s.lane k).cw ∨ c = 0) := by
  have h1 : ∀ (xs : List Nat) (u : State), ∃ c, (xs.foldl (fun s a => s.lostBlock a) u).lane k = { u.lane k with cw := c }
      ∧ (c = (u.lane k).cw ∨ c = 0) := by
    intro xs
    induction xs with
    | nil => exact fun u => ⟨(u.lane k).cw, rfl, Or.inl rfl⟩
    | cons x xs ih =>
      intro u
      obtain ⟨c, hc, hd⟩ := ih (u.lostBlock x)
      rcases u.lostBlock_lane x k with e | e
      · exact ⟨c, by rw [List.foldl_cons, hc, e], by rw [e] at hd; exact hd⟩
      · exact ⟨c, by rw [List.foldl_cons, hc, e], by rw [e] at hd; exact Or.inr (hd.elim id id)⟩
  have h2 : ∀ (xs : List Nat) (u : State), ∃ b,
      (xs.foldl (fun s a => s.setLane a (fun q => { q with losing := false })) u).lane k = { u.lane k with losing := b } := by
    intro xs
    induction xs with
    | nil => exact fun u => ⟨(u.lane k).losing, rfl⟩
    | cons x xs ih =>
      intro u
      obtain ⟨b, hb⟩ := ih (u.setLane x (fun q => { q with losing := false }))
      refine ⟨b, ?_⟩
      rw [List.foldl_cons, hb, State.lane_setLane]
      by_cases e : k = x
      · rw [if_pos e, e]
      · rw [if_neg e]
  unfold State.restripeComma
  dsimp only
  split
  · exact ⟨_, _, rfl, Or.inl rfl⟩
  · generalize List.filter _ _ = lost
    obtain ⟨c, hc, hd⟩ := h1 lost s
    generalize lost.foldl (fun s a => s.lostBlock a) s = u at hc ⊢
    split
    · split
      · exact ⟨c, _, hc.trans (by rfl), hd⟩
      · obtain ⟨b, hb⟩ := h2 lost u
        refine ⟨c, b, ?_, hd⟩
        rw [State.setLinkMode_lane]
        exact hb.trans (by rw [hc])
    · exact ⟨c, _, hc.trans (by rfl), hd⟩

/-- What a block start leaves of a lane that is no spare. -/
theorem State.blockStart_lane (s : State) (n : Nat) (h : (s.lane n).spare = false) : ∃ c b,
    (s.blockStart n).lane n = { s.lane n with cw := c, losing := b } ∧ (c = (s.lane n).cw ∨ c = 0) := by
  unfold State.blockStart
  dsimp only
  rw [if_neg (by rw [h]; exact Bool.false_ne_true)]
  split
  · exact s.restripeComma_lane _ n n
  · exact ⟨_, _, rfl, Or.inl rfl⟩

/-! ### Lane management -/

/-- A message received for the first time acts on the state in which its number is the link's last one. -/
theorem State.onMgmt_run (s : State) (n l : Nat) (m : LaneMsg) (f : Nat → State → State) (h : (s.lane n).link = some l)
    (hq : (s.hl l).lastSeq ≠ some m.seq) : ∃ (x : Tab LinkSt) (mrx : List LaneMsg),
      s.onMgmt n m f = f l { s with link := { s.link with links := x } }
      ∧ ({ s with link := { s.link with links := x } } : State).hl l = { s.hl l with mrx := mrx, lastSeq := some m.seq } := by
  unfold State.onMgmt
  simp only [h, hq, if_false]
  split
  · refine ⟨_, (s.hl l).mrx.drop 1, rfl, ?_⟩
    refine (State.hl_setHl_self _ l (fun q => { q with lastSeq := some m.seq })).trans ?_
    rw [State.hl_setHl_self]
  · exact ⟨_, (s.hl l).mrx, rfl, State.hl_setHl_self s l (fun q => { q with lastSeq := some m.seq })⟩

theorem State.blockIn2us_mgmt (s : State) (l k : Nat) (x : Tab LinkSt) (r : List LaneMsg)
    (h : ({ s with link := { s.link with links := x } } : State).hl l = { s.hl l with mrx := r, lastSeq := some k }) :
    ({ s with link := { s.link with links := x } } : State).blockIn2us l = s.blockIn2us l := by
  unfold State.blockIn2us
  rw [h]
  rfl

end Sys2Proof.Machine
end

