-- ==== Sys2Proof/Laws/Out.lean ====
section
/-! SUPPORT. What leaves the device is added in front of what has left it: the operations that send records, messages and signals. -/

namespace Sys2Proof.Machine

theorem suffix_of {l m : List Out} (h : m = l) : l <:+ m := by
  subst h
  exact List.suffix_rfl

theorem State.emit_out (s : State) (o : Out) : (s.emit o).out = o :: s.out := rfl
theorem State.emit_suffix (s : State) (o : Out) : s.out <:+ (s.emit o).out := List.suffix_cons ..

theorem State.signal_suffix (s : State) (p v : Nat) : s.out <:+ (s.signal p v).out := by
  rcases s.signal_out p v with h | h
  · exact suffix_of (by rw [h])
  · rw [h]
    exact List.suffix_cons ..

theorem State.recSignal_suffix (s : State) (n : Nat) (irq pg : Bool) : s.out <:+ (s.recSignal n irq pg).out := by
  obtain ⟨m, h, _⟩ := s.recSignal_out n irq pg
  rw [h]
  exact List.suffix_append ..

theorem State.putRec_suffix (s : State) (n : Nat) (r : Rec) (irq pg : Bool) : s.out <:+ (s.putRec n r irq pg).out := by
  unfold State.putRec
  dsimp only
  split
  · exact List.suffix_refl _
  · split
    · exact suffix_of (by rw [State.setEvt_out])
    · refine List.IsSuffix.trans ?_ (State.recSignal_suffix ..)
      rw [State.setRing_out, State.emit_out, State.wakePort_out]
      exact List.suffix_cons ..

theorem State.postCompletion_suffix (s : State) (n src : Nat) (r : Rec) (irq named : Bool) :
    s.out <:+ (s.postCompletion n src r irq named).out := by
  unfold State.postCompletion
  dsimp only
  split
  · exact State.putRec_suffix ..
  · exact List.suffix_refl _

theorem State.postUnsolicited_suffix (s : State) (n : Nat) (r : Rec) (pg : Bool) : s.out <:+ (s.postUnsolicited n r pg).out := by
  unfold State.postUnsolicited
  dsimp only
  split
  · exact State.putRec_suffix ..
  · exact suffix_of (by rw [State.count_out, State.setEvt_out]; rfl)

/-- A loop over operations each of which only adds to what has left the device. -/
theorem suffix_foldl {α : Type} {f : State → α → State} (l : List α) (h : ∀ s x, s.out <:+ (f s x).out) (s : State) :
    s.out <:+ (l.foldl f s).out := by
  induction l generalizing s with
  | nil => exact List.suffix_refl _
  | cons x l ih => exact (h s x).trans (ih _)

theorem State.post_suffix (s : State) (group etype source : Nat) (pl : List (Nat × Nat × Nat)) (status : Nat) :
    s.out <:+ (s.post group etype source pl status).out := by
  unfold State.post
  exact suffix_foldl _ (fun s n => State.postUnsolicited_suffix s n _ _) s

theorem State.complete_suffix (s : State) (t : Ticket) (st : Nat) (pl : List (Nat × Nat × Nat)) (et : Nat) :
    s.out <:+ (s.complete t st pl et).out := by
  have h : (s.countRefusal pl).out = s.out := by
    unfold State.countRefusal
    split
    · exact State.count_out ..
    · rfl
  unfold State.complete
  dsimp only
  split
  · exact suffix_of (by rw [h])
  · rw [State.setRing_out]
    have := (s.countRefusal pl).postCompletion_suffix ((s.countRefusal pl).evtRing t.ring) t.ring
      { etype := et, status := st, tag := t.tag, source := t.target, tick := (s.countRefusal pl).time.tickNum, payload := payload pl }
      t.irq (namedTick t.opcode st)
    rw [h] at this
    exact this

theorem State.completeOpt_suffix (s : State) (t : Option Ticket) (st : Nat) (pl : List (Nat × Nat × Nat)) :
    s.out <:+ (s.completeOpt t st pl).out := by
  unfold State.completeOpt
  split
  · exact State.complete_suffix ..
  · exact List.suffix_refl _

theorem State.healthFail_suffix (s : State) (b : Nat) : s.out <:+ (s.healthFail b).out := by
  have h1 : ∀ (c : CfgState) (b : Bound), s.out <:+ (({ s with cfg := c } : State).pushBound b).out := fun c b => List.suffix_refl _
  have h2 : ∀ c : CfgState, s.out <:+ ({ s with cfg := c } : State).out := fun c => List.suffix_refl _
  unfold State.healthFail
  dsimp only
  split
  · exact List.suffix_refl _
  · split
    · exact h1 _ _
    · exact (h2 _).trans (State.post_suffix ..)

theorem State.laneEvt_suffix (s : State) (n : Nat) (b : List Nat) : s.out <:+ (s.laneEvt n b).out := by
  have h : (s.orReg Reg.LANE_EVENTS n (bitsOf b)).out = s.out := State.orReg_out ..
  unfold State.laneEvt
  dsimp only
  split
  · exact suffix_of (by rw [h])
  · refine List.IsSuffix.trans ?_ (State.post_suffix ..)
    exact suffix_of (by rw [h])

theorem State.setLinkMode_suffix (s : State) (l : Nat) (m : LinkMode) : s.out <:+ (s.setLinkMode l m).out := by
  unfold State.setLinkMode
  dsimp only
  split
  · exact List.suffix_refl _
  · split
    · exact (State.post_suffix (s.setHl l _) ..).trans (State.healthFail_suffix ..)
    · exact State.post_suffix (s.setHl l _) ..

theorem State.linkStart_suffix (s : State) (l : Nat) : s.out <:+ (s.linkStart l).out := by
  unfold State.linkStart
  exact State.setLinkMode_suffix (s.setHl l _) ..

/-! ### Registers that records leave as they are -/

theorem State.complete_reg (s : State) (t : Ticket) (st : Nat) (pl : List (Nat × Nat × Nat)) (et : Nat) (q : RegRow) (k l : Nat)
    (h : Quiet q k l) (hw : q.win ≠ 3) : (s.complete t st pl et).reg q k l = s.reg q k l := by
  have h0 : (s.countRefusal pl).reg q k l = s.reg q k l := by
    unfold State.countRefusal
    split
    · unfold State.count State.countN
      rw [State.reg_setReg_ne _ _ _ _ _ _ _ _ (by decide) (Or.inl hw)]
    · rfl
  unfold State.complete
  dsimp only
  split
  · exact h0
  · rw [← h0]
    exact ((s.countRefusal pl).postCompletion_postSame _ _ _ _ _).reg q k l h

theorem State.completeOpt_reg (s : State) (t : Option Ticket) (st : Nat) (pl : List (Nat × Nat × Nat)) (q : RegRow) (k l : Nat)
    (h : Quiet q k l) (hw : q.win ≠ 3) : (s.completeOpt t st pl).reg q k l = s.reg q k l := by
  unfold State.completeOpt
  split
  · exact State.complete_reg _ _ _ _ _ _ _ _ h hw
  · rfl

theorem State.laneEvt_reg (s : State) (n : Nat) (b : List Nat) (q : RegRow) (k l : Nat) (h : Quiet q k l)
    (hw : q.win ≠ 4 ∨ q.addr k l ≠ Reg.LANE_EVENTS.addr n) : (s.laneEvt n b).reg q k l = s.reg q k l := by
  have h0 : (s.orReg Reg.LANE_EVENTS n (bitsOf b)).reg q k l = s.reg q k l :=
    State.reg_setReg_ne _ _ _ _ _ _ _ _ (by decide) hw
  unfold State.laneEvt
  dsimp only
  split
  · exact h0
  · exact ((State.post_postSame ..).reg q k l h).trans h0

theorem State.setLinkMode_reg (s : State) (n : Nat) (m : LinkMode) (q : RegRow) (k l : Nat) (h : Quiet q k l) :
    (s.setLinkMode n m).reg q k l = s.reg q k l := by
  have h0 : ((s.setHl n (fun q => { q with mode := m })).post 3 0x28 (target 3 n) [(16, 1, m.code), (17, 1, (s.hl n).mode.code)]).reg
      q k l = s.reg q k l := (State.post_postSame ..).reg q k l h
  unfold State.setLinkMode
  dsimp only
  split
  · rfl
  · split
    · exact ((State.healthFail_postSame ..).reg q k l h).trans h0
    · exact h0

theorem State.startTraining_reg (s : State) (n : Nat) (q : RegRow) (k l : Nat) (h : Quiet q k l)
    (hw : q.win ≠ 4 ∨ q.addr k l ≠ Reg.LANE_EVENTS.addr n) : (s.startTraining n).reg q k l = s.reg q k l := by
  have h1 : ∀ (u : State) (o : Out), (u.emit o).reg q k l = u.reg q k l := fun _ _ => rfl
  have h2 : ∀ (u : State) (p v : Nat), (u.setSpareNow p v).reg q k l = u.reg q k l := fun _ _ _ => rfl
  have h3 : ∀ (u : State) (m : Nat) (f : LaneSt → LaneSt), (u.setLane m f).reg q k l = u.reg q k l := fun _ _ _ => rfl
  unfold State.startTraining
  dsimp only
  rw [h1]
  repeat' split
  all_goals simp only [State.setLinkMode_reg _ _ _ _ _ _ h, State.laneEvt_reg _ _ _ _ _ _ h hw, h2, h3]

theorem State.startTraining_swapOf (s : State) (n p : Nat) : (s.startTraining n).swapOf p = s.swapOf p := by
  have h1 : ∀ (u : State) (o : Out), (u.emit o).swapOf p = u.swapOf p := fun _ _ => rfl
  have h2 : ∀ (u : State) (p' v : Nat), (u.setSpareNow p' v).swapOf p = u.swapOf p := fun _ _ _ => rfl
  have h3 : ∀ (u : State) (m : Nat) (f : LaneSt → LaneSt), (u.setLane m f).swapOf p = u.swapOf p := fun _ _ _ => rfl
  have h4 : ∀ (u : State) (m : Nat) (b : List Nat), (u.laneEvt m b).swapOf p = u.swapOf p := fun u m b =>
    State.swapOf_of (State.laneEvt_link ..) p
  unfold State.startTraining
  dsimp only
  rw [h1]
  repeat' split
  all_goals simp only [State.setLinkMode_swapOf, h2, h3, h4]

/-- Something sent stays sent. -/
theorem sent_of {s t : State} (h : s.out <:+ t.out) {o : Out} (ho : o ∈ s.out) : o ∈ t.out := h.subset ho

end Sys2Proof.Machine
end

