-- ==== Sys2Proof/Laws/Commands.lean ====
section
/-! SUPPORT. How a ring command that passes its checks runs, and how it completes. -/

namespace Sys2Proof.Machine

/-- The checks of R405 pass when each does; a descriptor of good structure that takes no chain has none. -/
theorem State.check405_none (s : State) (d : Desc) {tOk : Bool} {used : List (Nat × Nat)} {operands issuer mode : Bool} {rig : Option Nat}
    (h : structOk d tOk used false = true) (ho : operands = true) (hi : issuer = true) (hm : mode = true) :
    s.check405 d (structOk d tOk used false) operands issuer mode rig = none := by
  have hc : fChain d = false := by
    unfold structOk at h
    cases hf : fChain d <;> simp [hf] at h ⊢
  unfold State.check405
  rw [h, ho, hi, hm, hc]
  rfl

/-- One that may chain: its chain must not be too long. -/
theorem State.check405_none_chain (s : State) (d : Desc) {tOk : Bool} {used : List (Nat × Nat)} {operands issuer mode : Bool}
    {rig : Option Nat} (hb : d.blocks ≤ 16) (h : structOk d tOk used true = true) (ho : operands = true) (hi : issuer = true)
    (hm : mode = true) : s.check405 d (structOk d tOk used true) operands issuer mode rig = none := by
  unfold State.check405
  rw [h, ho, hi, hm]
  simp [Nat.not_lt.mpr hb]

/-- A taken descriptor completes: its ring owes as many as before it was taken. -/
theorem State.finished_complete (s u : State) (d : Desc) (t : Ticket) (st : Nat) (pl : List (Nat × Nat × Nat)) (et : Nat)
    (ht : t.ring = d.ring) (hg : t.gen = (s.ring d.ring).gen) (hr : RingSame (s.take d) u) :
    s.finished (u.complete t st pl et) d := by
  have h := hr.same d.ring
  rw [State.ring_take] at h
  unfold State.finished
  rw [← ht, State.complete_outstanding _ _ _ _ _ (by rw [ht, hg]; exact h.2.2.2.2.2.2.2.2), ht, h.2.2.2.2.1]
  rfl

theorem State.owed_of (s u : State) (d : Desc) (hr : RingSame (s.take d) u) : s.owed u d := by
  have h := hr.same d.ring
  rw [State.ring_take] at h
  exact h.2.2.2.2.1

end Sys2Proof.Machine
end

