-- ==== Sys2Proof/Laws/Fields.lean ====
section
/-! SUPPORT. What a field of a register reads after a field of it has been set. -/

namespace Sys2Proof.Machine

theorem State.reg_setF_self (s : State) (r : RegRow) (i hi lo x : Nat) (hr : r.win < 16) :
    (s.setF r i hi lo x).reg r i = setFld (s.reg r i) hi lo x := State.reg_setReg_self _ _ _ _ _ hr

/-- The field just set. -/
theorem State.fld_setF_self (s : State) (r : RegRow) (i hi lo x : Nat) (hr : r.win < 16) (h : lo ≤ hi) (h2 : hi < 32) :
    fld ((s.setF r i hi lo x).reg r i) hi lo = x % 2 ^ (hi + 1 - lo) := by
  rw [State.reg_setF_self _ _ _ _ _ _ hr, fld_setFld_self _ _ _ _ h h2]

/-- Another field of the register. -/
theorem State.fld_setF_ne (s : State) (r : RegRow) (i hi lo x hi' lo' : Nat) (hr : r.win < 16) (h : lo ≤ hi) (hb : hi' < lo ∨ hi < lo') :
    fld ((s.setF r i hi lo x).reg r i) hi' lo' = fld (s.reg r i) hi' lo' := by
  rw [State.reg_setF_self _ _ _ _ _ _ hr, fld_setFld_ne _ _ _ _ _ _ h hb]

theorem State.bit_setF_self (s : State) (r : RegRow) (i b x : Nat) (hr : r.win < 16) (hb : b < 32) :
    bit ((s.setF r i b b x).reg r i) b = decide (x % 2 = 1) := by
  rw [State.reg_setF_self _ _ _ _ _ _ hr, bit_setFld_self _ _ _ hb]

theorem State.bit_setF_ne (s : State) (r : RegRow) (i hi lo x b : Nat) (hr : r.win < 16) (h : lo ≤ hi) (hb : b < lo ∨ hi < b) :
    bit ((s.setF r i hi lo x).reg r i) b = bit (s.reg r i) b := by
  rw [State.reg_setF_self _ _ _ _ _ _ hr, bit_setFld_ne _ _ _ _ _ h hb]

/-- Another register. -/
theorem State.reg_setF_ne (s : State) (r q : RegRow) (i hi lo x k l : Nat) (hr : r.win < 16)
    (hne : q.win ≠ r.win ∨ q.addr k l ≠ r.addr i) : (s.setF r i hi lo x).reg q k l = s.reg q k l :=
  State.reg_setReg_ne _ _ _ _ _ _ _ _ hr hne

end Sys2Proof.Machine
end

