-- ==== Sys2Proof/Laws/KeepsBoot.lean ====
section
/-! SUPPORT. What each function of Machine/Boot.lean may change. -/

namespace Sys2Proof.Machine

set_option linter.all false

theorem State.storeUp_keeps (s : State) : Keeps 262431 s (State.storeUp s) := by
  unfold State.storeUp
  repeat' first
    | (with_reducible apply Keeps.foldl)
    | with_reducible assumption
    | with_reducible apply Keeps.refl
    | (with_reducible apply Keeps.after (m := 262431) (State.setStore_keeps ..) (by decide))
    | (with_reducible apply Keeps.after (m := 262431) (State.setF_keeps ..) (by decide))
    | (with_reducible apply Keeps.after (m := 262431) (State.takePages_keeps (e := ‹_›) ..) (by decide))
    | (with_reducible apply Keeps.after (m := 262431) (State.setReg_keeps ..) (by decide))
    | (intro x; refine (fun hx : Keeps 262431 s x => ?_) ?_; clear_value x; rotate_left; dsimp only [x]; rotate_right)
    | intro _
    | lift_lets
    | split
    | dsimp only

theorem State.bootUnits_keeps (s : State) (kind : Nat) : Keeps 4294971392 s (State.bootUnits s kind) := by
  unfold State.bootUnits
  repeat' first
    | (with_reducible apply Keeps.foldl)
    | with_reducible assumption
    | with_reducible apply Keeps.refl
    | (with_reducible apply Keeps.after (m := 4294971392) (State.setUnit_keeps ..) (by decide))
    | (with_reducible apply State.setSvc_keeps (m := 4294971392) (by decide))
    | with_reducible exact Or.inl rfl
    | with_reducible exact Or.inl (fun _ => rfl)
    | with_reducible exact Or.inr (fun _ => rfl)
    | with_reducible exact Or.inr (fun _ => ⟨rfl, rfl⟩)
    | with_reducible exact Or.inr (fun _ => ⟨rfl, rfl, rfl⟩)
    | with_reducible exact Or.inr (fun _ => ⟨rfl, rfl, rfl, rfl⟩)
    | with_reducible exact Or.inr (fun _ => ⟨rfl, rfl, rfl, rfl, rfl, rfl, rfl, rfl, rfl⟩)
    | (refine Or.inr (fun q => ?_); (try dsimp only); split <;> first | rfl | exact ⟨rfl, rfl⟩ | exact ⟨rfl, rfl, rfl⟩ | exact ⟨rfl, rfl, rfl, rfl⟩)
    | (intro x; refine (fun hx : Keeps 4294971392 s x => ?_) ?_; clear_value x; rotate_left; dsimp only [x]; rotate_right)
    | intro _
    | (with_reducible apply Keeps.ite)
    | lift_lets
    | split
    | dsimp only

theorem State.bootDone_keeps (s : State) : Keeps 4597240095 s (State.bootDone s) := by
  unfold State.bootDone
  repeat' first
    | (with_reducible apply Keeps.foldl)
    | with_reducible assumption
    | with_reducible apply Keeps.refl
    | (with_reducible apply Keeps.after (m := 4597240095) (State.storeUp_keeps ..) (by decide))
    | (with_reducible apply Keeps.after (m := 4597240095) (State.bootUnits_keeps ..) (by decide))
    | (with_reducible apply State.setSec_keeps (m := 4597240095) (by decide))
    | (with_reducible apply Keeps.after (m := 4597240095) (State.setReg_keeps ..) (by decide))
    | (with_reducible apply Keeps.after (m := 4597240095) (State.setF_keeps ..) (by decide))
    | with_reducible exact Or.inl rfl
    | with_reducible exact Or.inl (fun _ => rfl)
    | with_reducible exact Or.inr (fun _ => rfl)
    | with_reducible exact Or.inr (fun _ => ⟨rfl, rfl⟩)
    | with_reducible exact Or.inr (fun _ => ⟨rfl, rfl, rfl⟩)
    | with_reducible exact Or.inr (fun _ => ⟨rfl, rfl, rfl, rfl⟩)
    | with_reducible exact Or.inr (fun _ => ⟨rfl, rfl, rfl, rfl, rfl, rfl, rfl, rfl, rfl⟩)
    | exact Or.inl ⟨rfl, fun _ => Nat.le_max_left _ _⟩
    | (intro x; refine (fun hx : Keeps 4597240095 s x => ?_) ?_; clear_value x; rotate_left; dsimp only [x]; rotate_right)
    | intro _
    | lift_lets
    | dsimp only

theorem State.bootFail_keeps (s : State) (stage detail : Nat) : Keeps 262145 s (State.bootFail s stage detail) := by
  unfold State.bootFail
  repeat' first
    | with_reducible apply Keeps.refl
    | (with_reducible apply Keeps.after (m := 262145) (State.emit_keeps ..) (by decide))
    | (with_reducible apply Keeps.after (m := 262145) (State.setF_keeps ..) (by decide))
    | dsimp only

theorem State.bootKats_keeps (s : State) (bad : List Nat) : Keeps 17180151833 s (State.bootKats s bad) := by
  unfold State.bootKats
  repeat' first
    | (with_reducible apply Keeps.foldl)
    | with_reducible assumption
    | with_reducible apply Keeps.refl
    | (with_reducible apply Keeps.after (m := 17180151833) (State.bootFail_keeps ..) (by decide))
    | (with_reducible apply Keeps.after (m := 17180151833) (State.enginePassed_keeps ..) (by decide))
    | (with_reducible apply Keeps.after (m := 17180151833) (State.secAlert_keeps ..) (by decide))
    | (with_reducible apply Keeps.after (m := 17180151833) (State.stage_keeps ..) (by decide))
    | (with_reducible apply State.setSvc_keeps (m := 17180151833) (by decide))
    | with_reducible exact Or.inl rfl
    | with_reducible exact Or.inl (fun _ => rfl)
    | with_reducible exact Or.inr (fun _ => rfl)
    | with_reducible exact Or.inr (fun _ => ⟨rfl, rfl⟩)
    | with_reducible exact Or.inr (fun _ => ⟨rfl, rfl, rfl⟩)
    | with_reducible exact Or.inr (fun _ => ⟨rfl, rfl, rfl, rfl⟩)
    | with_reducible exact Or.inr (fun _ => ⟨rfl, rfl, rfl, rfl, rfl, rfl, rfl, rfl, rfl⟩)
    | (refine Or.inr (fun q => ?_); (try dsimp only); split <;> first | rfl | exact ⟨rfl, rfl⟩ | exact ⟨rfl, rfl, rfl⟩ | exact ⟨rfl, rfl, rfl, rfl⟩)
    | (intro x; refine (fun hx : Keeps 17180151833 s x => ?_) ?_; clear_value x; rotate_left; dsimp only [x]; rotate_right)
    | intro _
    | (with_reducible apply Keeps.ite)
    | lift_lets
    | split
    | dsimp only

theorem State.bootMode_keeps (s : State) (zero : Option Nat) : Keeps 2359389 s (State.bootMode s zero) := by
  unfold State.bootMode
  repeat' first
    | with_reducible apply Keeps.refl
    | (with_reducible apply Keeps.after (m := 2359389) (State.enterMode_keeps ..) (by decide))
    | (with_reducible apply Keeps.after (m := 2359389) (State.serviceResv_keeps ..) (by decide))
    | (with_reducible apply Keeps.ite)
    | split
    | dsimp only

theorem State.flashRead_keeps (s : State) : Keeps 282625 s (State.flashRead s) := by
  unfold State.flashRead
  repeat' first
    | with_reducible assumption
    | with_reducible apply Keeps.refl
    | (with_reducible apply Keeps.after (m := 282625) (State.stage_keeps ..) (by decide))
    | (with_reducible apply Keeps.after (m := 282625) (State.emit_keeps ..) (by decide))
    | (with_reducible apply State.setSec_keeps (m := 282625) (by decide))
    | with_reducible exact Or.inl rfl
    | with_reducible exact Or.inl (fun _ => rfl)
    | with_reducible exact Or.inr (fun _ => rfl)
    | with_reducible exact Or.inr (fun _ => ⟨rfl, rfl⟩)
    | with_reducible exact Or.inr (fun _ => ⟨rfl, rfl, rfl⟩)
    | with_reducible exact Or.inr (fun _ => ⟨rfl, rfl, rfl, rfl⟩)
    | with_reducible exact Or.inr (fun _ => ⟨rfl, rfl, rfl, rfl, rfl, rfl, rfl, rfl, rfl⟩)
    | (refine Or.inr (fun q => ?_); (try dsimp only); split <;> first | rfl | exact ⟨rfl, rfl⟩ | exact ⟨rfl, rfl, rfl⟩ | exact ⟨rfl, rfl, rfl, rfl⟩)
    | (intro x; refine (fun hx : Keeps 282625 s x => ?_) ?_; clear_value x; rotate_left; dsimp only [x]; rotate_right)
    | intro _
    | (with_reducible apply Keeps.ite)
    | lift_lets
    | split
    | dsimp only

theorem State.hbmRepaired_keeps (s : State) : Keeps 4097 s (State.hbmRepaired s) := by
  unfold State.hbmRepaired
  repeat' first
    | with_reducible assumption
    | with_reducible apply Keeps.refl
    | (with_reducible apply Keeps.after (m := 4097) (State.stage_keeps ..) (by decide))
    | (with_reducible apply State.setSvc_keeps (m := 4097) (by decide))
    | with_reducible exact Or.inl rfl
    | with_reducible exact Or.inl (fun _ => rfl)
    | with_reducible exact Or.inr (fun _ => rfl)
    | with_reducible exact Or.inr (fun _ => ⟨rfl, rfl⟩)
    | with_reducible exact Or.inr (fun _ => ⟨rfl, rfl, rfl⟩)
    | with_reducible exact Or.inr (fun _ => ⟨rfl, rfl, rfl, rfl⟩)
    | with_reducible exact Or.inr (fun _ => ⟨rfl, rfl, rfl, rfl, rfl, rfl, rfl, rfl, rfl⟩)
    | intro _
    | dsimp only

theorem State.hbmTrained_keeps (s : State) (bad : List Nat) : Keeps 266241 s (State.hbmTrained s bad) := by
  unfold State.hbmTrained
  repeat' first
    | with_reducible assumption
    | with_reducible apply Keeps.refl
    | (with_reducible apply Keeps.after (m := 266241) (State.bootFail_keeps ..) (by decide))
    | (with_reducible apply Keeps.after (m := 266241) (State.stage_keeps ..) (by decide))
    | (with_reducible apply State.setSvc_keeps (m := 266241) (by decide))
    | with_reducible exact Or.inl rfl
    | with_reducible exact Or.inl (fun _ => rfl)
    | with_reducible exact Or.inr (fun _ => rfl)
    | with_reducible exact Or.inr (fun _ => ⟨rfl, rfl⟩)
    | with_reducible exact Or.inr (fun _ => ⟨rfl, rfl, rfl⟩)
    | with_reducible exact Or.inr (fun _ => ⟨rfl, rfl, rfl, rfl⟩)
    | with_reducible exact Or.inr (fun _ => ⟨rfl, rfl, rfl, rfl, rfl, rfl, rfl, rfl, rfl⟩)
    | (refine Or.inr (fun q => ?_); (try dsimp only); split <;> first | rfl | exact ⟨rfl, rfl⟩ | exact ⟨rfl, rfl, rfl⟩ | exact ⟨rfl, rfl, rfl, rfl⟩)
    | (intro x; refine (fun hx : Keeps 266241 s x => ?_) ?_; clear_value x; rotate_left; dsimp only [x]; rotate_right)
    | intro _
    | (with_reducible apply Keeps.ite)
    | lift_lets
    | split
    | dsimp only

theorem State.slotFail_keeps (s : State) (stage detail : Nat) : Keeps 17180151833 s (State.slotFail s stage detail) := by
  unfold State.slotFail
  repeat' first
    | with_reducible assumption
    | with_reducible apply Keeps.refl
    | (with_reducible apply Keeps.after (m := 17180151833) (State.secAlert_keeps ..) (by decide))
    | (with_reducible apply Keeps.after (m := 17180151833) (State.stage_keeps ..) (by decide))
    | (with_reducible apply State.setSec_keeps (m := 17180151833) (by decide))
    | (with_reducible apply Keeps.after (m := 17180151833) (State.bootFail_keeps ..) (by decide))
    | with_reducible exact Or.inl rfl
    | with_reducible exact Or.inl (fun _ => rfl)
    | with_reducible exact Or.inr (fun _ => rfl)
    | with_reducible exact Or.inr (fun _ => ⟨rfl, rfl⟩)
    | with_reducible exact Or.inr (fun _ => ⟨rfl, rfl, rfl⟩)
    | with_reducible exact Or.inr (fun _ => ⟨rfl, rfl, rfl, rfl⟩)
    | with_reducible exact Or.inr (fun _ => ⟨rfl, rfl, rfl, rfl, rfl, rfl, rfl, rfl, rfl⟩)
    | (refine Or.inr (fun q => ?_); (try dsimp only); split <;> first | rfl | exact ⟨rfl, rfl⟩ | exact ⟨rfl, rfl, rfl⟩ | exact ⟨rfl, rfl, rfl, rfl⟩)
    | (intro x; refine (fun hx : Keeps 17180151833 s x => ?_) ?_; clear_value x; rotate_left; dsimp only [x]; rotate_right)
    | intro _
    | (with_reducible apply Keeps.ite)
    | lift_lets
    | split
    | dsimp only

theorem State.imageRead_keeps (s : State) (detail : Nat) (data : List Byte) : Keeps 18253893657 s (State.imageRead s detail data) := by
  unfold State.imageRead
  repeat' first
    | with_reducible assumption
    | with_reducible apply Keeps.refl
    | (with_reducible apply State.setSec_keeps (m := 18253893657) (by decide))
    | (with_reducible apply Keeps.after (m := 18253893657) (State.slotFail_keeps ..) (by decide))
    | (with_reducible apply Keeps.after (m := 18253893657) (State.stage_keeps ..) (by decide))
    | (with_reducible apply Keeps.after (m := 18253893657) (State.emit_keeps ..) (by decide))
    | with_reducible exact Or.inl rfl
    | with_reducible exact Or.inl (fun _ => rfl)
    | with_reducible exact Or.inr (fun _ => rfl)
    | with_reducible exact Or.inr (fun _ => ⟨rfl, rfl⟩)
    | with_reducible exact Or.inr (fun _ => ⟨rfl, rfl, rfl⟩)
    | with_reducible exact Or.inr (fun _ => ⟨rfl, rfl, rfl, rfl⟩)
    | with_reducible exact Or.inr (fun _ => ⟨rfl, rfl, rfl, rfl, rfl, rfl, rfl, rfl, rfl⟩)
    | (refine Or.inr (fun q => ?_); (try dsimp only); split <;> first | rfl | exact ⟨rfl, rfl⟩ | exact ⟨rfl, rfl, rfl⟩ | exact ⟨rfl, rfl, rfl, rfl⟩)
    | (intro x; refine (fun hx : Keeps 18253893657 s x => ?_) ?_; clear_value x; rotate_left; dsimp only [x]; rotate_right)
    | intro _
    | (with_reducible apply Keeps.ite)
    | lift_lets
    | split
    | dsimp only

theorem State.jtagLoad_keeps (s : State) (op : Nat) : Keeps 4096 s (State.jtagLoad s op) := by
  unfold State.jtagLoad
  repeat' first
    | with_reducible assumption
    | with_reducible apply Keeps.refl
    | (with_reducible apply State.setSvc_keeps (m := 4096) (by decide))
    | with_reducible exact Or.inl rfl
    | with_reducible exact Or.inl (fun _ => rfl)
    | with_reducible exact Or.inr (fun _ => rfl)
    | with_reducible exact Or.inr (fun _ => ⟨rfl, rfl⟩)
    | with_reducible exact Or.inr (fun _ => ⟨rfl, rfl, rfl⟩)
    | with_reducible exact Or.inr (fun _ => ⟨rfl, rfl, rfl, rfl⟩)
    | with_reducible exact Or.inr (fun _ => ⟨rfl, rfl, rfl, rfl, rfl, rfl, rfl, rfl, rfl⟩)
    | intro _
    | dsimp only

theorem State.rollback_keeps (s : State) : Keeps 18253893657 s (State.rollback s) := by
  unfold State.rollback
  repeat' first
    | with_reducible assumption
    | with_reducible apply Keeps.refl
    | (with_reducible apply Keeps.after (m := 18253893657) (State.slotFail_keeps ..) (by decide))
    | (with_reducible apply State.setSec_keeps (m := 18253893657) (by decide))
    | (with_reducible apply Keeps.after (m := 18253893657) (State.stage_keeps ..) (by decide))
    | with_reducible exact Or.inl rfl
    | with_reducible exact Or.inl (fun _ => rfl)
    | with_reducible exact Or.inr (fun _ => rfl)
    | with_reducible exact Or.inr (fun _ => ⟨rfl, rfl⟩)
    | with_reducible exact Or.inr (fun _ => ⟨rfl, rfl, rfl⟩)
    | with_reducible exact Or.inr (fun _ => ⟨rfl, rfl, rfl, rfl⟩)
    | with_reducible exact Or.inr (fun _ => ⟨rfl, rfl, rfl, rfl, rfl, rfl, rfl, rfl, rfl⟩)
    | (refine Or.inr (fun q => ?_); (try dsimp only); split <;> first | rfl | exact ⟨rfl, rfl⟩ | exact ⟨rfl, rfl, rfl⟩ | exact ⟨rfl, rfl, rfl, rfl⟩)
    | (intro x; refine (fun hx : Keeps 18253893657 s x => ?_) ?_; clear_value x; rotate_left; dsimp only [x]; rotate_right)
    | intro _
    | (with_reducible apply Keeps.ite)
    | lift_lets
    | split
    | dsimp only

theorem State.unitTested_keeps (s : State) (bad : List (Nat × Nat)) : Keeps 266241 s (State.unitTested s bad) := by
  unfold State.unitTested
  repeat' first
    | with_reducible assumption
    | with_reducible apply Keeps.refl
    | (with_reducible apply Keeps.after (m := 266241) (State.bootFail_keeps ..) (by decide))
    | (with_reducible apply State.setSvc_keeps (m := 266241) (by decide))
    | (with_reducible apply Keeps.after (m := 266241) (State.setReg_keeps ..) (by decide))
    | (with_reducible apply Keeps.after (m := 266241) (State.stage_keeps ..) (by decide))
    | with_reducible exact Or.inl rfl
    | with_reducible exact Or.inl (fun _ => rfl)
    | with_reducible exact Or.inr (fun _ => rfl)
    | with_reducible exact Or.inr (fun _ => ⟨rfl, rfl⟩)
    | with_reducible exact Or.inr (fun _ => ⟨rfl, rfl, rfl⟩)
    | with_reducible exact Or.inr (fun _ => ⟨rfl, rfl, rfl, rfl⟩)
    | with_reducible exact Or.inr (fun _ => ⟨rfl, rfl, rfl, rfl, rfl, rfl, rfl, rfl, rfl⟩)
    | (refine Or.inr (fun q => ?_); (try dsimp only); split <;> first | rfl | exact ⟨rfl, rfl⟩ | exact ⟨rfl, rfl, rfl⟩ | exact ⟨rfl, rfl, rfl, rfl⟩)
    | (intro x; refine (fun hx : Keeps 266241 s x => ?_) ?_; clear_value x; rotate_left; dsimp only [x]; rotate_right)
    | intro _
    | (with_reducible apply Keeps.ite)
    | lift_lets
    | split
    | dsimp only

theorem State.stageEnd_keeps (s : State) (detail : Nat) (data : List Byte) (bad : List Nat) (badUnits : List (Nat × Nat)) : Keeps 22852948319 s (State.stageEnd s detail data bad badUnits) := by
  unfold State.stageEnd
  repeat' first
    | with_reducible assumption
    | with_reducible apply Keeps.refl
    | (with_reducible apply Keeps.after (m := 22852948319) (State.bootFail_keeps ..) (by decide))
    | (with_reducible apply Keeps.after (m := 22852948319) (State.stage_keeps ..) (by decide))
    | (with_reducible apply State.setSvc_keeps (m := 22852948319) (by decide))
    | (with_reducible apply Keeps.after (m := 22852948319) (State.flashRead_keeps ..) (by decide))
    | (with_reducible apply Keeps.after (m := 22852948319) (State.imageRead_keeps ..) (by decide))
    | (with_reducible apply Keeps.after (m := 22852948319) (State.slotFail_keeps ..) (by decide))
    | (with_reducible apply Keeps.after (m := 22852948319) (State.rollback_keeps ..) (by decide))
    | (with_reducible apply Keeps.after (m := 22852948319) (State.bootKats_keeps ..) (by decide))
    | (with_reducible apply Keeps.after (m := 22852948319) (State.hbmTrained_keeps ..) (by decide))
    | (with_reducible apply Keeps.after (m := 22852948319) (State.hbmRepaired_keeps ..) (by decide))
    | (with_reducible apply Keeps.after (m := 22852948319) (State.unitTested_keeps ..) (by decide))
    | (with_reducible apply Keeps.after (m := 22852948319) (State.bootMode_keeps ..) (by decide))
    | (with_reducible apply Keeps.after (m := 22852948319) (State.bootDone_keeps ..) (by decide))
    | with_reducible exact Or.inl rfl
    | with_reducible exact Or.inl (fun _ => rfl)
    | with_reducible exact Or.inr (fun _ => rfl)
    | with_reducible exact Or.inr (fun _ => ⟨rfl, rfl⟩)
    | with_reducible exact Or.inr (fun _ => ⟨rfl, rfl, rfl⟩)
    | with_reducible exact Or.inr (fun _ => ⟨rfl, rfl, rfl, rfl⟩)
    | with_reducible exact Or.inr (fun _ => ⟨rfl, rfl, rfl, rfl, rfl, rfl, rfl, rfl, rfl⟩)
    | (refine Or.inr (fun q => ?_); (try dsimp only); split <;> first | rfl | exact ⟨rfl, rfl⟩ | exact ⟨rfl, rfl, rfl⟩ | exact ⟨rfl, rfl, rfl, rfl⟩)
    | (intro x; refine (fun hx : Keeps 22852948319 s x => ?_) ?_; clear_value x; rotate_left; dsimp only [x]; rotate_right)
    | intro _
    | (with_reducible apply Keeps.ite)
    | lift_lets
    | split
    | dsimp only

theorem execBootImageTimeout_keeps (s : State) {nxt : State} (e : execBootImageTimeout s = .next nxt) : Keeps 262145 s nxt := by
  unfold execBootImageTimeout at e
  first | refine Keeps.go ?_ e | refine Keeps.goRead ?_ e | cases e
  try dsimp only
  repeat' first
    | with_reducible assumption
    | with_reducible apply Keeps.refl
    | (with_reducible apply Keeps.after (m := 262145) (State.bootFail_keeps ..) (by decide))
    | intro _
    | (with_reducible apply Keeps.ite)
    | split
    | dsimp only

theorem execBootStageEnd_keeps (detail : Nat) (data : List Byte) (bad : List Nat) (badUnits : List (Nat × Nat)) (s : State) {nxt : State} (e : execBootStageEnd detail data bad badUnits s = .next nxt) : Keeps 22852948319 s nxt := by
  unfold execBootStageEnd at e
  first | refine Keeps.go ?_ e | refine Keeps.goRead ?_ e | cases e
  try dsimp only
  repeat' first
    | with_reducible assumption
    | with_reducible apply Keeps.refl
    | (with_reducible apply Keeps.after (m := 22852948319) (State.stageEnd_keeps ..) (by decide))
    | intro _
    | dsimp only

theorem execBypass_keeps (s : State) {nxt : State} (e : execBypass s = .next nxt) : Keeps 4096 s nxt := by
  unfold execBypass at e
  first | refine Keeps.go ?_ e | refine Keeps.goRead ?_ e | cases e
  try dsimp only
  repeat' first
    | with_reducible apply Keeps.refl
    | (with_reducible apply Keeps.after (m := 4096) (State.jtagLoad_keeps ..) (by decide))
    | dsimp only

theorem execClamp_keeps (s : State) {nxt : State} (e : execClamp s = .next nxt) : Keeps 4096 s nxt := by
  unfold execClamp at e
  first | refine Keeps.go ?_ e | refine Keeps.goRead ?_ e | cases e
  try dsimp only
  repeat' first
    | with_reducible apply Keeps.refl
    | (with_reducible apply Keeps.after (m := 4096) (State.jtagLoad_keeps ..) (by decide))
    | dsimp only

theorem execExtest_keeps (s : State) {nxt : State} (e : execExtest s = .next nxt) : Keeps 4096 s nxt := by
  unfold execExtest at e
  first | refine Keeps.go ?_ e | refine Keeps.goRead ?_ e | cases e
  try dsimp only
  repeat' first
    | with_reducible apply Keeps.refl
    | (with_reducible apply Keeps.after (m := 4096) (State.jtagLoad_keeps ..) (by decide))
    | dsimp only

theorem execExtestPulse_keeps (s : State) {nxt : State} (e : execExtestPulse s = .next nxt) : Keeps 4096 s nxt := by
  unfold execExtestPulse at e
  first | refine Keeps.go ?_ e | refine Keeps.goRead ?_ e | cases e
  try dsimp only
  repeat' first
    | with_reducible apply Keeps.refl
    | (with_reducible apply Keeps.after (m := 4096) (State.jtagLoad_keeps ..) (by decide))
    | dsimp only

theorem execExtestTrain_keeps (s : State) {nxt : State} (e : execExtestTrain s = .next nxt) : Keeps 4096 s nxt := by
  unfold execExtestTrain at e
  first | refine Keeps.go ?_ e | refine Keeps.goRead ?_ e | cases e
  try dsimp only
  repeat' first
    | with_reducible apply Keeps.refl
    | (with_reducible apply Keeps.after (m := 4096) (State.jtagLoad_keeps ..) (by decide))
    | dsimp only

theorem execFirmwareReadyTimeout_keeps (s : State) {nxt : State} (e : execFirmwareReadyTimeout s = .next nxt) : Keeps 262145 s nxt := by
  unfold execFirmwareReadyTimeout at e
  first | refine Keeps.go ?_ e | refine Keeps.goRead ?_ e | cases e
  try dsimp only
  repeat' first
    | with_reducible assumption
    | with_reducible apply Keeps.refl
    | (with_reducible apply Keeps.after (m := 262145) (State.bootFail_keeps ..) (by decide))
    | intro _
    | (with_reducible apply Keeps.ite)
    | split
    | dsimp only

theorem execHighz_keeps (s : State) {nxt : State} (e : execHighz s = .next nxt) : Keeps 4096 s nxt := by
  unfold execHighz at e
  first | refine Keeps.go ?_ e | refine Keeps.goRead ?_ e | cases e
  try dsimp only
  repeat' first
    | with_reducible apply Keeps.refl
    | (with_reducible apply Keeps.after (m := 4096) (State.jtagLoad_keeps ..) (by decide))
    | dsimp only

theorem execIdcode_keeps (s : State) {nxt : State} (e : execIdcode s = .next nxt) : Keeps 266240 s nxt := by
  unfold execIdcode at e
  first | refine Keeps.go ?_ e | refine Keeps.goRead ?_ e | cases e
  try dsimp only
  repeat' first
    | with_reducible apply Keeps.refl
    | (with_reducible apply Keeps.after (m := 266240) (State.emit_keeps ..) (by decide))
    | (with_reducible apply Keeps.after (m := 266240) (State.jtagLoad_keeps ..) (by decide))
    | dsimp only

theorem execInternalResetRelease_keeps (bifurc : Nat) (bootSrc : Bool) (s : State) {nxt : State} (e : execInternalResetRelease bifurc bootSrc s = .next nxt) : Keeps 2147504129 s nxt := by
  unfold execInternalResetRelease at e
  first | refine Keeps.go ?_ e | refine Keeps.goRead ?_ e | cases e
  try dsimp only
  repeat' first
    | with_reducible assumption
    | with_reducible apply Keeps.refl
    | (with_reducible apply Keeps.after (m := 2147504129) (State.bootStart_keeps ..) (by decide))
    | (with_reducible apply State.setSec_keeps (m := 2147504129) (by decide))
    | (with_reducible apply State.setSvc_keeps (m := 2147504129) (by decide))
    | with_reducible exact Or.inl rfl
    | with_reducible exact Or.inl (fun _ => rfl)
    | with_reducible exact Or.inr (fun _ => rfl)
    | with_reducible exact Or.inr (fun _ => ⟨rfl, rfl⟩)
    | with_reducible exact Or.inr (fun _ => ⟨rfl, rfl, rfl⟩)
    | with_reducible exact Or.inr (fun _ => ⟨rfl, rfl, rfl, rfl⟩)
    | with_reducible exact Or.inr (fun _ => ⟨rfl, rfl, rfl, rfl, rfl, rfl, rfl, rfl, rfl⟩)
    | (refine Or.inr (fun q => ?_); (try dsimp only); split <;> first | rfl | exact ⟨rfl, rfl⟩ | exact ⟨rfl, rfl, rfl⟩ | exact ⟨rfl, rfl, rfl, rfl⟩)
    | intro _
    | (with_reducible apply Keeps.ite)
    | split
    | dsimp only

theorem execPorstAssert_keeps (s : State) {nxt : State} (e : execPorstAssert s = .next nxt) : Keeps 1088839483391 s nxt := by
  unfold execPorstAssert at e
  first | refine Keeps.go ?_ e | refine Keeps.goRead ?_ e | cases e
  try dsimp only
  repeat' first
    | with_reducible assumption
    | with_reducible apply Keeps.refl
    | (with_reducible apply State.setSec_keeps (m := 1088839483391) (by decide))
    | (with_reducible apply State.setSvc_keeps (m := 1088839483391) (by decide))
    | (with_reducible apply Keeps.after (m := 1088839483391) (State.deviceReset_keeps ..) (by decide))
    | with_reducible exact Or.inl rfl
    | with_reducible exact Or.inl (fun _ => rfl)
    | with_reducible exact Or.inr (fun _ => rfl)
    | with_reducible exact Or.inr (fun _ => ⟨rfl, rfl⟩)
    | with_reducible exact Or.inr (fun _ => ⟨rfl, rfl, rfl⟩)
    | with_reducible exact Or.inr (fun _ => ⟨rfl, rfl, rfl, rfl⟩)
    | with_reducible exact Or.inr (fun _ => ⟨rfl, rfl, rfl, rfl, rfl, rfl, rfl, rfl, rfl⟩)
    | intro _
    | dsimp only

theorem execSamplePreload_keeps (cells : List Bool) (s : State) {nxt : State} (e : execSamplePreload cells s = .next nxt) : Keeps 790528 s nxt := by
  unfold execSamplePreload at e
  first | refine Keeps.go ?_ e | refine Keeps.goRead ?_ e | cases e
  try dsimp only
  repeat' first
    | with_reducible assumption
    | with_reducible apply Keeps.refl
    | (with_reducible apply Keeps.after (m := 790528) (State.useFree_keeps ..) (by decide))
    | (with_reducible apply Keeps.after (m := 790528) (State.emit_keeps ..) (by decide))
    | (with_reducible apply State.setSvc_keeps (m := 790528) (by decide))
    | (with_reducible apply Keeps.after (m := 790528) (State.jtagLoad_keeps ..) (by decide))
    | with_reducible exact Or.inl rfl
    | with_reducible exact Or.inl (fun _ => rfl)
    | with_reducible exact Or.inr (fun _ => rfl)
    | with_reducible exact Or.inr (fun _ => ⟨rfl, rfl⟩)
    | with_reducible exact Or.inr (fun _ => ⟨rfl, rfl, rfl⟩)
    | with_reducible exact Or.inr (fun _ => ⟨rfl, rfl, rfl, rfl⟩)
    | with_reducible exact Or.inr (fun _ => ⟨rfl, rfl, rfl, rfl, rfl, rfl, rfl, rfl, rfl⟩)
    | intro _
    | dsimp only

theorem execSupplyDrop_keeps (s : State) {nxt : State} (e : execSupplyDrop s = .next nxt) : Keeps 1088839483391 s nxt := by
  unfold execSupplyDrop at e
  first | refine Keeps.go ?_ e | refine Keeps.goRead ?_ e | cases e
  try dsimp only
  repeat' first
    | with_reducible assumption
    | with_reducible apply Keeps.refl
    | (with_reducible apply State.setSec_keeps (m := 1088839483391) (by decide))
    | (with_reducible apply Keeps.after (m := 1088839483391) (State.deviceReset_keeps ..) (by decide))
    | with_reducible exact Or.inl rfl
    | with_reducible exact Or.inl (fun _ => rfl)
    | with_reducible exact Or.inr (fun _ => rfl)
    | with_reducible exact Or.inr (fun _ => ⟨rfl, rfl⟩)
    | with_reducible exact Or.inr (fun _ => ⟨rfl, rfl, rfl⟩)
    | with_reducible exact Or.inr (fun _ => ⟨rfl, rfl, rfl, rfl⟩)
    | with_reducible exact Or.inr (fun _ => ⟨rfl, rfl, rfl, rfl, rfl, rfl, rfl, rfl, rfl⟩)
    | intro _
    | dsimp only

theorem execSvcPortImage_keeps (data : List Byte) (s : State) {nxt : State} (e : execSvcPortImage data s = .next nxt) : Keeps 16384 s nxt := by
  unfold execSvcPortImage at e
  first | refine Keeps.go ?_ e | refine Keeps.goRead ?_ e | cases e
  try dsimp only
  repeat' first
    | with_reducible assumption
    | with_reducible apply Keeps.refl
    | (with_reducible apply State.setSec_keeps (m := 16384) (by decide))
    | with_reducible exact Or.inl rfl
    | with_reducible exact Or.inl (fun _ => rfl)
    | with_reducible exact Or.inr (fun _ => rfl)
    | with_reducible exact Or.inr (fun _ => ⟨rfl, rfl⟩)
    | with_reducible exact Or.inr (fun _ => ⟨rfl, rfl, rfl⟩)
    | with_reducible exact Or.inr (fun _ => ⟨rfl, rfl, rfl, rfl⟩)
    | with_reducible exact Or.inr (fun _ => ⟨rfl, rfl, rfl, rfl, rfl, rfl, rfl, rfl, rfl⟩)
    | (refine Or.inr (fun q => ?_); (try dsimp only); split <;> first | rfl | exact ⟨rfl, rfl⟩ | exact ⟨rfl, rfl, rfl⟩ | exact ⟨rfl, rfl, rfl, rfl⟩)
    | intro _
    | (with_reducible apply Keeps.ite)
    | split
    | dsimp only

theorem execSvcPortStatus_keeps (s : State) {nxt : State} (e : execSvcPortStatus s = .next nxt) : Keeps 262144 s nxt := by
  unfold execSvcPortStatus at e
  first | refine Keeps.go ?_ e | refine Keeps.goRead ?_ e | cases e
  try dsimp only
  repeat' first
    | with_reducible assumption
    | with_reducible apply Keeps.refl
    | (with_reducible apply Keeps.after (m := 262144) (State.emit_keeps ..) (by decide))
    | intro _
    | dsimp only

end Sys2Proof.Machine
end

