-- ==== Sys2Proof/Laws/Facts.lean ====
section
/-! SUPPORT. What single operations leave in the fields that statements speak of: boot, timing ports, reference signals. -/

namespace Sys2Proof.Machine

theorem State.bootFail_facts (s : State) (stage detail : Nat) (h1 : stage < 256) (h2 : detail < 256) :
    (s.bootFail stage detail).bootFailed = true ∧ fld ((s.bootFail stage detail).reg Reg.BOOT_STATUS) 15 8 = detail
      ∧ (s.bootFail stage detail).bootStage = stage := by
  have h : (s.bootFail stage detail).reg Reg.BOOT_STATUS = setFld (setFld (setFld (s.reg Reg.BOOT_STATUS) 31 31 1) 15 8 detail) 7 0 stage := by
    unfold State.bootFail
    show (State.setF _ Reg.BOOT_STATUS 0 7 0 stage).reg Reg.BOOT_STATUS = _
    rw [State.reg_setF_self _ _ _ _ _ _ (by decide), State.reg_setF_self _ _ _ _ _ _ (by decide), State.reg_setF_self _ _ _ _ _ _ (by decide)]
  unfold State.bootFailed State.bootStage
  rw [h]
  refine ⟨?_, ?_, ?_⟩
  · rw [bit_setFld_ne _ _ _ _ _ (by decide) (by decide), bit_setFld_ne _ _ _ _ _ (by decide) (by decide), bit_setFld_self _ _ _ (by decide)]
    rfl
  · rw [fld_setFld_ne _ _ _ _ _ _ (by decide) (by decide), fld_setFld_self _ _ _ _ (by decide) (by decide)]
    exact Nat.mod_eq_of_lt h2
  · rw [fld_setFld_self _ _ _ _ (by decide) (by decide)]
    exact Nat.mod_eq_of_lt h1

theorem State.stage_bootStage (s : State) (n : Nat) (h : n < 256) : (s.stage n).bootStage = n := by
  unfold State.bootStage
  show fld ((s.setF Reg.BOOT_STATUS 0 7 0 n).reg Reg.BOOT_STATUS) 7 0 = n
  rw [State.fld_setF_self _ _ _ _ _ _ (by decide) (by decide) (by decide)]
  exact Nat.mod_eq_of_lt h

theorem State.setReg_foldl_facts (u : State) (c : Nat → Prop) [DecidablePred c] (l : List Nat) :
    let v := l.foldl (fun (s : State) p => if c p then s else s.setReg Reg.HP_STATUS p 0 0x80000000) u
    v.svc = u.svc ∧ v.reg Reg.BOOT_STATUS = u.reg Reg.BOOT_STATUS ∧ (∀ p, v.reg Reg.HP_STATUS p = 0x80000000 ∨ (v.reg Reg.HP_STATUS p = u.reg Reg.HP_STATUS p ∧ (p ∈ l → c p))) := by
  induction l generalizing u with
  | nil => exact ⟨rfl, rfl, fun p => Or.inr ⟨rfl, fun h => by cases h⟩⟩
  | cons x l ih =>
    simp only [List.foldl_cons]
    obtain ⟨h1, h2, h3⟩ := ih (if c x then u else u.setReg Reg.HP_STATUS x 0 0x80000000)
    by_cases hc : c x
    · rw [if_pos hc] at h1 h2 h3 ⊢
      refine ⟨h1, h2, fun p => ?_⟩
      rcases h3 p with h | ⟨h, h'⟩
      · exact Or.inl h
      · refine Or.inr ⟨h, fun hp => ?_⟩
        rcases List.mem_cons.mp hp with e | e
        · rw [e]; exact hc
        · exact h' e
    · rw [if_neg hc] at h1 h2 h3 ⊢
      refine ⟨h1, ?_, fun p => ?_⟩
      · rw [h2, State.reg_setReg_ne _ _ _ _ _ _ _ _ (by decide) (Or.inl (by decide))]
      · rcases h3 p with h | ⟨h, h'⟩
        · exact Or.inl h
        · by_cases e : p = x
          · left
            rw [h, e, State.reg_setReg_self _ _ _ _ _ (by decide)]
          · refine Or.inr ⟨?_, fun hp => ?_⟩
            · rw [h, State.reg_setReg_ne _ _ _ _ _ _ _ _ (by decide) (by
                right
                simp only [RegRow.addr, Reg.HP_STATUS]
                omega)]
            · rcases List.mem_cons.mp hp with e' | e'
              · exact absurd e' e
              · exact h' e'

theorem State.bootStart_facts (u : State) : u.bootStart.svc.stopped = u.svc.stopped ∧ u.bootStart.svc.bifurc = u.svc.bifurc
    ∧ u.bootStart.svc.bootSrc = u.svc.bootSrc ∧ u.bootStart.bootStage = 1
    ∧ ∀ p, p < 4 → strapWidth u.svc.bifurc p ≠ 0 → u.bootStart.portExists p = true := by
  unfold State.bootStart
  dsimp only
  generalize hw : ((u.setF Reg.BOOT_STATUS 0 29 28 u.svc.bifurc).setF Reg.BOOT_STATUS 0 27 27 (b2n u.svc.bootSrc)).stage 1 = w
  have h0 : w.svc.stopped = u.svc.stopped ∧ w.svc.bifurc = u.svc.bifurc ∧ w.svc.bootSrc = u.svc.bootSrc := by
    rw [← hw]
    exact ⟨rfl, rfl, rfl⟩
  have hst : w.bootStage = 1 := by rw [← hw]; exact State.stage_bootStage _ _ (by decide)
  have hb : ∀ (z : State) (l : List Nat), z.svc.bifurc = u.svc.bifurc →
      l.foldl (fun (s : State) p => if strapWidth s.svc.bifurc p = 0 then s else s.setReg Reg.HP_STATUS p 0 0x80000000) z
      = l.foldl (fun (s : State) p => if strapWidth u.svc.bifurc p = 0 then s else s.setReg Reg.HP_STATUS p 0 0x80000000) z := by
    intro z l
    induction l generalizing z with
    | nil => intro _; rfl
    | cons x l ih =>
      intro hz
      simp only [List.foldl_cons, hz]
      apply ih
      split <;> exact hz
  rw [hb _ _ h0.2.1]
  obtain ⟨h1, h2, h3⟩ := w.setReg_foldl_facts (fun p => strapWidth u.svc.bifurc p = 0) (List.range 4)
  generalize List.foldl _ w (List.range 4) = v at h1 h2 h3 ⊢
  rw [h1]
  refine ⟨h0.1, h0.2.1, h0.2.2, ?_, ?_⟩
  · unfold State.bootStage at hst ⊢
    rw [h2]
    exact hst
  · intro p hp hs
    unfold State.portExists
    rcases h3 p with h | ⟨_, h⟩
    · rw [h]
      rfl
    · exact absurd (h (List.mem_range.mpr hp)) hs

theorem State.enterMode_mode (s : State) (m : DevMode) (c : Nat) : (s.enterMode m c).dev.mode = m := by
  unfold State.enterMode
  dsimp only
  rw [State.post_dev]

theorem State.bootDone_sec (s : State) : s.bootDone.sec = { s.sec with
    selfTested := true, svnFloor := max s.sec.svnFloor (s.sec.raiseTo.getD 0), raiseTo := none, tries := [], svcImage := [],
    owk := s.sec.ownerOwk, dik := s.sec.ownerDik, bootZero := none, katAt := s.time.clk } := by
  unfold State.bootDone
  have h1 : ∀ (l : List Nat) (u : State), (l.foldl (fun (s : State) k => s.bootUnits k) u).sec = u.sec
      ∧ (l.foldl (fun (s : State) k => s.bootUnits k) u).time = u.time := by
    intro l
    induction l with
    | nil => exact fun u => ⟨rfl, rfl⟩
    | cons x l ih =>
      intro u
      rw [List.foldl_cons, (ih _).1, (ih _).2]
      exact ⟨(State.bootUnits_keeps _ _).same .sec rfl, (State.bootUnits_keeps _ _).same .time rfl⟩
  have h2 := h1 unitKinds s
  dsimp only
  generalize unitKinds.foldl (fun (s : State) k => s.bootUnits k) s = u at h2 ⊢
  have h3 : u.storeUp.sec = s.sec := ((State.storeUp_keeps _).same .sec rfl).trans h2.1
  have h4 : u.storeUp.time = s.time := ((State.storeUp_keeps _).same .time rfl).trans h2.2
  show ({ u.storeUp.sec with
    selfTested := true, svnFloor := max u.storeUp.sec.svnFloor (u.storeUp.sec.raiseTo.getD 0), raiseTo := none, tries := [], svcImage := [],
    owk := u.storeUp.sec.ownerOwk, dik := u.storeUp.sec.ownerDik, bootZero := none, katAt := u.storeUp.time.clk } : SecState) = _
  rw [h3, h4]

theorem State.count_toNat (s : State) (r : RegRow) (i : Nat) (hr : r.win < 16) :
    ((s.count r i).reg r i).toNat = min 0xFFFFFFFF ((s.reg r i).toNat + 1) := by
  unfold State.count State.countN
  rw [State.reg_setReg_self _ _ _ _ _ hr, satAdd_word]

theorem State.tp_setTp_self (s : State) (p : Nat) (f : TpSt → TpSt) : (s.setTp p f).tp p = f (s.tp p) := Tab.get_upd_self _ _ p f
theorem State.timer_setTimer (s : State) (r k : Nat) (f : RtmrSt → RtmrSt) :
    (s.setTimer r f).timer k = if k = r then f (s.timer r) else s.timer k := Tab.get_upd _ _ r k f

/-- Following the best master changes no port's record. -/
theorem State.chooseFrom_tps (s : State) (a b : Option Nat) : (s.chooseFrom a b).time.tps = s.time.tps := by
  unfold State.chooseFrom
  dsimp only
  repeat' split
  all_goals rfl

theorem State.chooseFrom_tp (s : State) (a b : Option Nat) (p : Nat) : (s.chooseFrom a b).tp p = s.tp p := by
  unfold State.tp
  rw [State.chooseFrom_tps]

theorem State.setTime_tp (s : State) (f : TimeState → TimeState) (p : Nat) (h : (f s.time).tps = s.time.tps) : (s.setTime f).tp p = s.tp p := by
  unfold State.tp State.setTime
  rw [h]

theorem State.chooseFrom_reg (s : State) (a b : Option Nat) (q : RegRow) (k : Nat) (h : q.addr k ≠ Reg.TIME_EVENTS.addr) :
    (s.chooseFrom a b).reg q k = s.reg q k := by
  unfold State.chooseFrom
  dsimp only
  have : ∀ u : State, u.cur = s.cur → (u.setEvt Reg.TIME_EVENTS 0 5).reg q k = s.reg q k ∧ u.reg q k = s.reg q k := by
    intro u hu
    have e : u.reg q k = s.reg q k := by unfold State.reg; rw [hu]
    refine ⟨?_, e⟩
    unfold State.setEvt State.orReg
    rw [State.reg_setReg_ne _ _ _ _ _ _ _ _ (by decide) (Or.inr h)]
    exact e
  repeat' split
  all_goals first | exact (this _ rfl).1 | exact (this _ rfl).2

theorem State.ppsGate_time (s : State) : ∃ o, s.ppsGate.time = { s.time with ppsOut := o } := by
  unfold State.ppsGate
  split
  · exact ⟨_, rfl⟩
  · exact ⟨_, rfl⟩

theorem State.setServo_servo (s : State) (v : Servo) : (s.setServo v).time.servo = v ∧ (s.setServo v).time.ppsOk = s.time.ppsOk
    ∧ (s.setServo v).time.tps = s.time.tps := by
  unfold State.setServo
  dsimp only
  split
  · next h => exact ⟨h, rfl, rfl⟩
  · obtain ⟨o, ho⟩ := State.ppsGate_time (State.post _ 5 0x3A 0 _)
    rw [ho]
    simp only [State.post_time]
    repeat' split
    all_goals exact ⟨rfl, rfl, rfl⟩

/-- What a change of the servo's state leaves: a bit of TIME_EVENTS that is set, and every register outside rings and ports but it. -/
theorem State.setServo_keep (s : State) (v : Servo) (P : State → Prop) (h0 : ∀ u : State, u.cur = s.cur → P u)
    (h1 : ∀ (u : State) (k : Nat), P u → P (u.setEvt Reg.TIME_EVENTS 0 k))
    (h2 : ∀ (u : State) (pl : List (Nat × Nat × Nat)), P u → P (u.post 5 0x3A 0 pl))
    (h3 : ∀ u w : State, P u → w.cur = u.cur → P w) : P (s.setServo v) := by
  have hi : ∀ (u : State) (c : Prop) [Decidable c] (k : Nat), P u → P (if c then u.setEvt Reg.TIME_EVENTS 0 k else u) := by
    intro u c _ k hu
    split
    · exact h1 _ _ hu
    · exact hu
  have hg : ∀ u : State, u.ppsGate.cur = u.cur := by
    intro u
    unfold State.ppsGate
    split <;> rfl
  unfold State.setServo
  dsimp only
  split
  · exact h0 _ rfl
  · refine h3 _ _ ?_ (hg _)
    apply h2
    apply hi
    apply hi
    apply hi
    exact h0 _ rfl

theorem State.setServo_events (s : State) (v : Servo) (b : Nat) (h : bit (s.reg Reg.TIME_EVENTS) b = true) :
    bit ((s.setServo v).reg Reg.TIME_EVENTS) b = true := by
  refine s.setServo_keep v (fun u => bit (u.reg Reg.TIME_EVENTS) b = true) ?_ ?_ ?_ ?_
  · intro u hu
    unfold State.reg at h ⊢
    rw [hu]
    exact h
  · intro u k hu
    unfold State.setEvt State.orReg
    rw [State.reg_setReg_self _ _ _ _ _ (by decide), bit_or, hu]
    rfl
  · intro u pl hu
    rw [(State.post_postSame ..).reg _ _ _ (quiet_win _ _ _ (by decide) (by decide) (by decide))]
    exact hu
  · intro u w hu hw
    unfold State.reg at hu ⊢
    rw [hw]
    exact hu

theorem State.setServo_reg (s : State) (v : Servo) (q : RegRow) (k : Nat) (hq : q.win = 11) (ha : q.addr k ≠ Reg.TIME_EVENTS.addr) :
    (s.setServo v).reg q k = s.reg q k := by
  refine s.setServo_keep v (fun u => u.reg q k = s.reg q k) ?_ ?_ ?_ ?_
  · intro u hu
    unfold State.reg
    rw [hu]
  · intro u j hu
    unfold State.setEvt State.orReg
    rw [State.reg_setReg_ne _ _ _ _ _ _ _ _ (by decide) (Or.inr ha)]
    exact hu
  · intro u pl hu
    rw [(State.post_postSame ..).reg _ _ _ (quiet_win _ _ _ (by rw [hq]; decide) (by rw [hq]; decide) (by rw [hq]; decide))]
    exact hu
  · intro u w hu hw
    unfold State.reg at hu ⊢
    rw [hw]
    exact hu

theorem State.refEdge_frame (s : State) (r : Nat) (e : Int) : (s.refEdge r e).time.refAt = s.time.refAt
    ∧ (s.refEdge r e).cfg = s.cfg ∧ (s.refEdge r e).free = s.free
    ∧ (∀ k, ((s.timer k).running = false ∨ s.rtmrAlign k ≠ 1) → (s.refEdge r e).timer k = s.timer k) := by
  have hset : ∀ (f : RtmrSt → RtmrSt), ¬((s.timer r).running = false ∨ s.rtmrAlign r ≠ 1) →
      ∀ k, ((s.timer k).running = false ∨ s.rtmrAlign k ≠ 1) → (s.setTimer r f).timer k = s.timer k := by
    intro f hr k hk
    rw [State.timer_setTimer]
    by_cases e : k = r
    · rw [e] at hk
      exact absurd hk hr
    · rw [if_neg e]
  unfold State.refEdge
  dsimp only
  split
  · exact ⟨rfl, rfl, rfl, fun _ _ => rfl⟩
  · next hc =>
    have hr : ¬((s.timer r).running = false ∨ s.rtmrAlign r ≠ 1) := by
      intro c
      apply hc
      rcases c with c | c
      · rw [c]; rfl
      · rw [decide_eq_true c]; simp
    have hp : ∀ (u : State) (pl : List (Nat × Nat × Nat)), (u.post 5 0x3B (target 1 r) pl).time = u.time
        ∧ (u.post 5 0x3B (target 1 r) pl).cfg = u.cfg ∧ (u.post 5 0x3B (target 1 r) pl).free = u.free :=
      fun u pl => ⟨State.post_time .., State.post_cfg .., State.post_free ..⟩
    split
    · split
      · exact ⟨rfl, rfl, rfl, hset _ hr⟩
      · exact ⟨rfl, rfl, rfl, fun _ _ => rfl⟩
    · generalize hx : State.setTimer s r _ = x
      have x1 : x.time.refAt = s.time.refAt ∧ x.cfg = s.cfg ∧ x.free = s.free := by
        rw [← hx]
        exact ⟨rfl, rfl, rfl⟩
      have x2 : ∀ k, ((s.timer k).running = false ∨ s.rtmrAlign k ≠ 1) → x.timer k = s.timer k := by
        rw [← hx]
        exact hset _ hr
      have fin : ∀ (c : Prop) [Decidable c], (if c then x.post 5 0x3B (target 1 r) [(16, 1, 1)] else x).time.refAt = s.time.refAt
          ∧ (if c then x.post 5 0x3B (target 1 r) [(16, 1, 1)] else x).cfg = s.cfg
          ∧ (if c then x.post 5 0x3B (target 1 r) [(16, 1, 1)] else x).free = s.free
          ∧ (∀ k, ((s.timer k).running = false ∨ s.rtmrAlign k ≠ 1) →
              (if c then x.post 5 0x3B (target 1 r) [(16, 1, 1)] else x).timer k = s.timer k) := by
        intro c _
        split
        · refine ⟨?_, ?_, ?_, ?_⟩
          · rw [(hp _ _).1]; exact x1.1
          · rw [(hp _ _).2.1]; exact x1.2.1
          · rw [(hp _ _).2.2]; exact x1.2.2
          · intro k hk
            show Tab.get _ (State.time _).timers k = _
            rw [(hp _ _).1]
            exact x2 k hk
        · exact ⟨x1.1, x1.2.1, x1.2.2, x2⟩
      exact fin _

theorem State.refEdges_frame (l : List Nat) (s : State) (e : Int) : (l.foldl (fun s r => s.refEdge r e) s).time.refAt = s.time.refAt
    ∧ (l.foldl (fun s r => s.refEdge r e) s).free = s.free
    ∧ (∀ k, ((s.timer k).running = false ∨ s.rtmrAlign k ≠ 1) → (l.foldl (fun s r => s.refEdge r e) s).timer k = s.timer k) := by
  induction l generalizing s with
  | nil => exact ⟨rfl, rfl, fun _ _ => rfl⟩
  | cons r l ih =>
    obtain ⟨a1, a2, a3, a4⟩ := s.refEdge_frame r e
    obtain ⟨b1, b2, b3⟩ := ih (s.refEdge r e)
    rw [List.foldl_cons, b1, b2, a1, a3]
    refine ⟨rfl, rfl, fun k hk => ?_⟩
    rw [b3 k ?_, a4 k hk]
    rw [a4 k hk]
    have : (s.refEdge r e).rtmrAlign k = s.rtmrAlign k := by
      unfold State.rtmrAlign State.actF State.act State.activeSet
      rw [a2]
    rw [this]
    exact hk

theorem bitvec_pair (v : Nat) (h : v < 2 ^ 64) : (BitVec.ofNat 32 v).toNat + 2 ^ 32 * (BitVec.ofNat 32 (v / 2 ^ 32)).toNat = v := by
  simp only [BitVec.toNat_ofNat]
  omega

/-- A pair of registers just written reads as the value written. -/
theorem State.reg64_set64 (s : State) (lo hi : RegRow) (i v : Nat) (h1 : lo.win < 16) (h2 : hi.win < 16)
    (hne : lo.win ≠ hi.win ∨ lo.addr i ≠ hi.addr i) (hv : v < 2 ^ 64) : (s.set64 lo hi i v).reg64 lo hi i = v := by
  unfold State.reg64 State.set64
  rw [State.reg_setReg_ne _ _ _ _ _ _ _ _ h2 hne, State.reg_setReg_self _ _ _ _ _ h1, State.reg_setReg_self _ _ _ _ _ h2]
  exact bitvec_pair v hv

/-- Two states with the same registers of one window. -/
def WinSame (w : Nat) (s t : State) : Prop := ∀ (q : RegRow) (k l : Nat), q.win = w → t.reg q k l = s.reg q k l

theorem WinSame.refl (w : Nat) (s : State) : WinSame w s s := fun _ _ _ _ => rfl
theorem WinSame.trans {w : Nat} {s t u : State} (a : WinSame w s t) (b : WinSame w t u) : WinSame w s u :=
  fun q k l h => (b q k l h).trans (a q k l h)
theorem WinSame.of {w : Nat} {s t : State} (h : t.cur = s.cur) : WinSame w s t := fun q k l _ => by unfold State.reg; rw [h]
theorem WinSame.setReg {w : Nat} (s : State) (r : RegRow) (i j : Nat) (v : Word) (hr : r.win < 16) (h : r.win ≠ w) :
    WinSame w s (s.setReg r i j v) := fun q k l hq => State.reg_setReg_ne _ _ _ _ _ _ _ _ hr (Or.inl (by omega))
theorem WinSame.setEvt {w : Nat} (s : State) (r : RegRow) (i b : Nat) (hr : r.win < 16) (h : r.win ≠ w) : WinSame w s (s.setEvt r i b) :=
  WinSame.setReg s r i 0 _ hr h
theorem WinSame.ofPost {w : Nat} {s t : State} (h : PostSame s t) (h0 : w ≠ 0) (h1 : w ≠ 1) (h2 : w ≠ 2) : WinSame w s t :=
  fun q k l hq => h.reg q k l (quiet_win q k l (by omega) (by omega) (by omega))
theorem WinSame.post {w : Nat} (s : State) (g e x : Nat) (pl : List (Nat × Nat × Nat)) (st : Nat) (h0 : w ≠ 0) (h1 : w ≠ 1) (h2 : w ≠ 2) :
    WinSame w s (s.post g e x pl st) := WinSame.ofPost (State.post_postSame ..) h0 h1 h2
theorem WinSame.foldl {w : Nat} {α : Type} {f : State → α → State} (l : List α) (h : ∀ s x, WinSame w s (f s x)) (s : State) :
    WinSame w s (l.foldl f s) := by
  induction l generalizing s with
  | nil => exact WinSame.refl w s
  | cons x l ih => exact (h s x).trans (ih _)
theorem WinSame.ite {w : Nat} {s a b : State} (c : Prop) [Decidable c] (h1 : WinSame w s a) (h2 : WinSame w s b) :
    WinSame w s (if c then a else b) := by split <;> assumption

theorem State.paceCredit_win (s : State) (u w : Nat) (h : w ≠ 10) : WinSame w s (s.paceCredit u) := by
  apply WinSame.foldl
  intro s i
  dsimp only
  apply WinSame.ite
  · apply WinSame.ite
    · exact WinSame.of rfl
    · exact WinSame.setEvt _ _ _ _ (by decide) (by show 10 ≠ w; omega)
  · exact WinSame.refl _ _

theorem State.paceChannels_cur (s : State) (u : Nat) : (s.paceChannels u).cur = s.cur := by
  unfold State.paceChannels
  generalize List.range 8 = l
  induction l generalizing s with
  | nil => rfl
  | cons x l ih =>
    rw [List.foldl_cons, ih]
    dsimp only
    split <;> rfl

theorem State.pulse_facts (s : State) (a p w : Nat) : (s.pulse a p w).cur = s.cur
    ∧ (s.pulse a p w).time.tcmpDone = s.time.tcmpDone ∧ { source := a, pin := p, until_ := s.time.clk + 2 * w } ∈ (s.pulse a p w).time.pulses
    ∧ (s.pulse a p w).cfg = s.cfg := by
  unfold State.pulse
  dsimp only
  split <;> exact ⟨rfl, rfl, List.mem_append_right _ (List.mem_singleton.mpr rfl), rfl⟩

theorem State.tcmpActs_win (s : State) (u w : Nat) (h : w ≠ 10) (h2 : w ≠ 11) (h3 : 2 < w) : WinSame w s (s.tcmpActs u false) := by
  unfold State.tcmpActs
  dsimp only
  refine (?_ : WinSame w s _).trans (WinSame.of (State.paceChannels_cur _ _))
  have e1 := WinSame.setEvt s Reg.TCMP_STATUS u 0 (w := w) (by decide) (by simp only [Reg.TCMP_STATUS]; omega)
  simp only [Bool.false_eq_true, if_false]
  have go : ∀ (c : Prop) [Decidable c] (f : State → State) (v : State), (∀ v, WinSame w v (f v)) → WinSame w s v → WinSame w s (if c then f v else v) :=
    fun c _ f v hf hv => WinSame.ite c (hv.trans (hf v)) hv
  apply go _ (fun v => v.paceCredit u) _ (fun v => v.paceCredit_win u w h)
  apply go _ (fun v => v.post 5 0x3C _ _) _ (fun v => WinSame.post _ _ _ _ _ _ (by omega) (by omega) (by omega))
  apply go _ (fun v => v.pulse _ _ _) _ (fun v => WinSame.of (v.pulse_facts _ _ _).1)
  exact e1

/-- What the actions of a firing leave in the time window, and what they do to the record of time. -/
theorem State.tcmpActs_facts (s : State) (u : Nat) :
    (∀ (q : RegRow) (k l : Nat), q.win = 11 → (s.tcmpActs u false).reg q k l = (s.setEvt Reg.TCMP_STATUS u 0).reg q k l)
    ∧ (s.tcmpActs u false).time.tcmpDone = s.time.tcmpDone
    ∧ (bit (s.reg Reg.TCMP_CTRL u) 4 = true →
        { source := 32 + u, pin := fld (s.reg Reg.TCMP_CTRL u) 11 8, until_ := s.time.clk + 2 * fld (s.reg Reg.TCMP_CTRL u) 23 16 }
          ∈ (s.tcmpActs u false).time.pulses) := by
  have e : ∀ v : State, WinSame 11 v (v.paceCredit u) ∧ (v.paceCredit u).time = v.time :=
    fun v => ⟨v.paceCredit_win u 11 (by omega), (State.paceCredit_keeps v u).same .time rfl⟩
  have e2 : ∀ v : State, WinSame 11 v (v.paceChannels u) ∧ (v.paceChannels u).time = v.time :=
    fun v => ⟨WinSame.of (v.paceChannels_cur u), (State.paceChannels_keeps v u).same .time rfl⟩
  unfold State.tcmpActs
  dsimp only
  simp only [Bool.false_eq_true, if_false]
  let P : State → Prop := fun v => WinSame 11 (s.setEvt Reg.TCMP_STATUS u 0) v ∧ v.time.tcmpDone = s.time.tcmpDone
    ∧ (bit (s.reg Reg.TCMP_CTRL u) 4 = true →
        { source := 32 + u, pin := fld (s.reg Reg.TCMP_CTRL u) 11 8, until_ := s.time.clk + 2 * fld (s.reg Reg.TCMP_CTRL u) 23 16 } ∈ v.time.pulses)
  have keep : ∀ v w : State, WinSame 11 v w → w.time = v.time → P v → P w := by
    intro v w h1 h2 h3
    refine ⟨h3.1.trans h1, ?_, ?_⟩
    · rw [h2]; exact h3.2.1
    · rw [h2]; exact h3.2.2
  have go : ∀ (c : Prop) [Decidable c] (f : State → State) (v : State), (∀ v, WinSame 11 v (f v) ∧ (f v).time = v.time) → P v → P (if c then f v else v) := by
    intro c _ f v hf hv
    split
    · exact keep _ _ (hf v).1 (hf v).2 hv
    · exact hv
  suffices h : P _ from h
  apply keep _ _ (e2 _).1 (e2 _).2
  apply go _ (fun v => v.paceCredit u) _ e
  apply go _ (fun v => v.post 5 0x3C _ _) _ (fun v => ⟨WinSame.post _ _ _ _ _ _ (by omega) (by omega) (by omega), State.post_time ..⟩)
  by_cases h : bit (s.reg Reg.TCMP_CTRL u) 4 = true
  · rw [if_pos h]
    obtain ⟨a, b, c, _⟩ := (s.setEvt Reg.TCMP_STATUS u 0).pulse_facts (32 + u) (fld (s.reg Reg.TCMP_CTRL u) 11 8) (fld (s.reg Reg.TCMP_CTRL u) 23 16)
    exact ⟨WinSame.of a, b, fun _ => c⟩
  · rw [if_neg h]
    exact ⟨WinSame.refl _ _, rfl, fun c => absurd c h⟩

end Sys2Proof.Machine
end

