-- ==== Sys2Proof/Laws/FactsMag.lean ====
section
/-! SUPPORT. What drive commands, holds and releases leave in magazines and bays. -/

namespace Sys2Proof.Machine

/-- Issuing a drive command leaves the magazine commands and their number as they were. -/
theorem State.issue_facts (s : State) (slot : Nat) (kind : DrvKind) (op : DrvOp) (lba blocks queue : Nat) (data : List Byte) :
    (s.issue slot kind op lba blocks queue data).mag.jobs = s.mag.jobs
    ∧ (s.issue slot kind op lba blocks queue data).mag.nextJob = s.mag.nextJob
    ∧ (s.issue slot kind op lba blocks queue data).rings = s.rings
    ∧ (s.issue slot kind op lba blocks queue data).free = s.free := by
  unfold State.issue
  dsimp only
  split
  · exact ⟨rfl, rfl, rfl, rfl⟩
  · split <;> exact ⟨rfl, rfl, rfl, rfl⟩

/-- The same of several. -/
theorem State.issues_facts {α : Type} (f : State → α → State) (l : List α)
    (h : ∀ s x, (f s x).mag.jobs = s.mag.jobs ∧ (f s x).mag.nextJob = s.mag.nextJob ∧ (f s x).rings = s.rings ∧ (f s x).free = s.free)
    (s : State) : (l.foldl f s).mag.jobs = s.mag.jobs ∧ (l.foldl f s).mag.nextJob = s.mag.nextJob ∧ (l.foldl f s).rings = s.rings
      ∧ (l.foldl f s).free = s.free := by
  induction l generalizing s with
  | nil => exact ⟨rfl, rfl, rfl, rfl⟩
  | cons x l ih =>
    obtain ⟨a1, a2, a3, a4⟩ := ih (f s x)
    obtain ⟨b1, b2, b3, b4⟩ := h s x
    exact ⟨a1.trans b1, a2.trans b2, a3.trans b3, a4.trans b4⟩

theorem State.holdBay_facts (s : State) (b : Nat) : (s.holdBay b).mag = s.mag ∧ (s.holdBay b).rings = s.rings := by
  unfold State.holdBay slotsOf
  exact ⟨rfl, rfl⟩

/-- A READY bay whose release a command waits for is released, and the command completes. -/
theorem State.releaseBay_facts (s : State) (b : Nat) (hm : (s.bay b).mode = .ready) :
    ∃ u : State, s.releaseBay b = u.completeOpt (s.bay b).ticket stDone ∧ u.rings = s.rings
      ∧ (u.bay b).released = true ∧ (u.bay b).mode = .ready ∧ (u.bay b).ticket = none := by
  unfold State.releaseBay
  generalize hv : (slotsOf b).foldl _ s = v
  have h1 : v.mag = s.mag ∧ v.rings = s.rings := by
    rw [← hv]
    have : ∀ (l : List Nat) (u : State), (l.foldl (fun s d => if (s.drive d).mode = .ready then s.emit (.drive d 0 .deleteQueues 0 0 []) else s) u).mag = u.mag
        ∧ (l.foldl (fun s d => if (s.drive d).mode = .ready then s.emit (.drive d 0 .deleteQueues 0 0 []) else s) u).rings = u.rings := by
      intro l
      induction l with
      | nil => exact fun u => ⟨rfl, rfl⟩
      | cons x l ih =>
        intro u
        rw [List.foldl_cons, (ih _).1, (ih _).2]
        split <;> exact ⟨rfl, rfl⟩
    exact this _ _
  have h2 : v.bay b = s.bay b := by unfold State.bay; rw [h1.1]
  dsimp only
  obtain ⟨g1, g2⟩ := v.holdBay_facts b
  have h3 : ((v.holdBay b).bay b) = s.bay b := by unfold State.bay; rw [g1]; exact h2
  have hb : ∀ f, ((v.holdBay b).setBay b f).bay b = f (s.bay b) := by
    intro f
    rw [← h3]
    exact Tab.get_upd_self _ _ _ _
  generalize hw : (v.holdBay b).setBay b _ = w
  have h4 : w.bay b = { s.bay b with released := true, releaseDue := false, ticket := none } := by rw [← hw, hb]
  have h5 : (w.bayEvt b 5).bay b = w.bay b := rfl
  have h6 : (w.bayEvt b 5).enterBay b .ready = w.bayEvt b 5 := by
    unfold State.enterBay
    dsimp only
    rw [h5, h4, if_pos hm]
  rw [h6, h2]
  refine ⟨_, rfl, ?_, ?_, ?_, ?_⟩
  · show w.rings = _
    rw [← hw]
    exact g2.trans h1.2
  · rw [h5, h4]
  · rw [h5, h4]; exact hm
  · rw [h5, h4]

/-! ### Drives and bays -/

@[simp] theorem State.drive_setDrive_self (s : State) (d : Nat) (f : DriveSt → DriveSt) : (s.setDrive d f).drive d = f (s.drive d) :=
  Tab.get_upd_self ({} : DriveSt) s.mag.drives d f
@[simp] theorem State.bay_setBay_self (s : State) (b : Nat) (f : BaySt → BaySt) : (s.setBay b f).bay b = f (s.bay b) :=
  Tab.get_upd_self ({} : BaySt) s.mag.bays b f
@[simp] theorem State.bay_setDrive (s : State) (d b : Nat) (f : DriveSt → DriveSt) : (s.setDrive d f).bay b = s.bay b := rfl
@[simp] theorem State.drive_setBay (s : State) (d b : Nat) (f : BaySt → BaySt) : (s.setBay b f).drive d = s.drive d := rfl
theorem State.drive_of {s t : State} (h : t.mag = s.mag) (d : Nat) : t.drive d = s.drive d := by unfold State.drive; rw [h]
theorem State.bay_of {s t : State} (h : t.mag = s.mag) (b : Nat) : t.bay b = s.bay b := by unfold State.bay; rw [h]

/-- A bay that enters a state: only its state changes, and the drives' commands and states stay. -/
theorem State.enterBay_facts (s : State) (b : Nat) (m : BayMode) :
    (s.enterBay b m).bay b = { s.bay b with mode := m } ∧ (∀ d, (s.enterBay b m).drive d = s.drive d)
      ∧ (s.enterBay b m).mag.cmds = s.mag.cmds ∧ (s.enterBay b m).mag.drives = s.mag.drives
      ∧ (∀ i k, bit (s.reg Reg.BAY_EVENTS i) k = true → bit ((s.enterBay b m).reg Reg.BAY_EVENTS i) k = true) := by
  unfold State.enterBay
  dsimp only
  split
  · next h => exact ⟨by rw [← h], fun _ => rfl, rfl, rfl, fun _ _ h => h⟩
  · refine ⟨?_, fun d => ?_, ?_, ?_, fun i k hb => ?_⟩
    · rw [State.bay_of (State.post_mag ..), State.bay_setBay_self]
    · rw [State.drive_of (State.post_mag ..)]; rfl
    · rw [State.post_mag]; rfl
    · rw [State.post_mag]; rfl
    · rw [(State.post_postSame ..).reg _ _ _ (quiet_win _ _ _ (by decide) (by decide) (by decide))]
      exact hb

/-- A release leaves the drives and their commands. -/
theorem State.releaseBay_drives (s : State) (b : Nat) :
    (s.releaseBay b).mag.drives = s.mag.drives ∧ (s.releaseBay b).mag.cmds = s.mag.cmds := by
  unfold State.releaseBay
  generalize hv : (slotsOf b).foldl _ s = v
  have h1 : v.mag = s.mag := by
    rw [← hv]
    have : ∀ (l : List Nat) (u : State), (l.foldl (fun s d => if (s.drive d).mode = .ready then s.emit (.drive d 0 .deleteQueues 0 0 []) else s) u).mag = u.mag := by
      intro l
      induction l with
      | nil => exact fun u => rfl
      | cons x l ih =>
        intro u
        rw [List.foldl_cons, ih _]
        split <;> rfl
    exact this _ _
  dsimp only
  rw [State.completeOpt_mag]
  obtain ⟨_, _, a, c, _⟩ := State.enterBay_facts (((v.holdBay b).setBay b (fun q => { q with released := true, releaseDue := false, ticket := none })).bayEvt b 5) b .ready
  rw [a, c]
  have h2 : (v.holdBay b).mag = s.mag := (v.holdBay_facts b).1.trans h1
  refine ⟨?_, ?_⟩
  · show (v.holdBay b).mag.drives = _
    rw [h2]
  · show (v.holdBay b).mag.cmds = _
    rw [h2]

/-- So does the resolution of a bay. -/
theorem State.bayResolve_drives (s : State) (b : Nat) :
    (s.bayResolve b).mag.drives = s.mag.drives ∧ (s.bayResolve b).mag.cmds = s.mag.cmds := by
  have h0 : ∀ (u : State) (c : Prop) [Decidable c], ((if c then u.releaseBay b else u).mag.drives = u.mag.drives
      ∧ (if c then u.releaseBay b else u).mag.cmds = u.mag.cmds) := by
    intro u c _
    split
    · exact u.releaseBay_drives b
    · exact ⟨rfl, rfl⟩
  unfold State.bayResolve
  dsimp only
  generalize (if (s.bay b).idPage.isNone = true then 1 else _ : Nat) = reason
  split
  · exact ⟨rfl, rfl⟩
  · split
    · obtain ⟨a, c⟩ := h0 (((s.setBay b (fun q => { q with content := s.contentOf b, breason := 0 })).enterBay b .ready).bayEvt b 1)
        (((((s.setBay b (fun q => { q with content := s.contentOf b, breason := 0 })).enterBay b .ready).bayEvt b 1).bay b).eject = true)
      obtain ⟨_, _, e, g, _⟩ := (s.setBay b (fun q => { q with content := s.contentOf b, breason := 0 })).enterBay_facts b .ready
      exact ⟨a.trans g, c.trans e⟩
    · obtain ⟨_, _, e, g, _⟩ := (s.setBay b (fun q => { q with breason := reason, content := s.contentOf b })).enterBay_facts b .rejected
      exact ⟨g, e⟩

theorem State.reject_resolve (s : State) (d reason b : Nat) :
    (((s.rejectSlot d reason).bayResolve b).drive d).mode = .rejected ∧ (((s.rejectSlot d reason).bayResolve b).drive d).reason = reason
      ∧ ((s.rejectSlot d reason).bayResolve b).mag.cmds = s.mag.cmds := by
  obtain ⟨a, c⟩ := (s.rejectSlot d reason).bayResolve_drives b
  have e : ((s.rejectSlot d reason).bayResolve b).drive d = { s.drive d with mode := .rejected, reason := reason } := by
    unfold State.drive
    rw [a]
    exact s.drive_setDrive_self d (fun q => { q with mode := .rejected, reason := reason })
  rw [e, c]
  exact ⟨rfl, rfl, rfl⟩

/-! ### Units -/

theorem State.unitCode_setUnit (s : State) (k i c : Nat) : (s.setUnit k i c).unitCode k i = c := Tab.get_put_self _ _ _ _

/-- A unit that changes state reads the new one. -/
theorem State.changeUnit_code (s : State) (k i c : Nat) : (s.changeUnit k i c).unitCode k i = c := by
  have h : ∀ (u : State) (a b e : Nat), (u.logEntry a b e).unitCode k i = u.unitCode k i := fun _ _ _ _ => rfl
  unfold State.changeUnit
  dsimp only
  split
  · next h => exact h
  · rw [h]
    unfold State.unitCode
    rw [State.post_svc]
    exact s.unitCode_setUnit k i c

theorem State.unitFails_code (s : State) (k i c : Nat) : (s.unitFails k i c).unitCode k i = 5 := by
  have h : ∀ u : State, ((u.setEvt Reg.SVC_EVENTS 0 0).healthFail 7).unitCode k i = u.unitCode k i := fun u => by
    unfold State.unitCode
    rw [State.healthFail_svc]
    rfl
  unfold State.unitFails
  dsimp only
  rw [h]
  exact s.changeUnit_code k i 5

theorem State.unitFails_postSame (s : State) (k i c : Nat) (q : RegRow) (n l : Nat) (hq : Quiet q n l) (h : q.win ≠ 15) :
    (s.unitFails k i c).reg q n l = s.reg q n l := by
  unfold State.unitFails
  dsimp only
  rw [(State.healthFail_postSame ..).reg _ _ _ hq]
  unfold State.setEvt State.orReg
  rw [State.reg_setReg_ne _ _ _ _ _ _ _ _ (by decide) (Or.inl h)]
  exact (State.changeUnit_postSame ..).reg _ _ _ hq

/-- A working drive is declared FAILED. -/
theorem State.declareFailed_facts (s : State) (d cause : Nat) (h : (s.drive d).mode = .ready ∨ (s.drive d).mode = .inUse) :
    s.driveFailed (s.declareFailed d cause) d
      ∧ ∀ k, bit (s.reg Reg.MBS_EVENTS d) k = true → bit ((s.declareFailed d cause).reg Reg.MBS_EVENTS d) k = true := by
  unfold State.declareFailed
  dsimp only
  rw [if_neg (by rcases h with e | e <;> simp [e])]
  generalize hu : State.setDrive _ d _ = u
  have u1 : u.drive d = { s.drive d with mode := .failed, failDue := true, outOfSet := true } := by
    rw [← hu, State.drive_setDrive_self]
    rfl
  have u2 : u.mag.cmds = s.mag.cmds.filter (fun c => decide (c.slot ≠ d)) := by rw [← hu]; rfl
  have u3 : u.reg Reg.MBS_EVENTS d = s.reg Reg.MBS_EVENTS d := by rw [← hu]; rfl
  clear hu
  generalize hv : ((u.setEvt Reg.MBS_EVENTS d 0).emit (.drive d 0 .reset 0 0 [])).emit (.pin "MB_PERST#" d false) = v
  have v1 : v.mag = u.mag := by rw [← hv]; rfl
  have v2 : v.reg Reg.MBS_EVENTS d = u.reg Reg.MBS_EVENTS d ||| BitVec.ofNat 32 (2 ^ 0) := by
    rw [← hv]
    exact State.reg_setReg_self _ _ _ _ _ (by decide)
  clear hv
  have hq : Quiet Reg.MBS_EVENTS d 0 := quiet_win _ _ _ (by decide) (by decide) (by decide)
  have key : ∀ (w : State) (b s1 s2 e : Nat) (pl : List (Nat × Nat × Nat)), (∃ x, w = v.unitFails 7 d x) →
      (((w.logEntry b s1 s2).post 6 0x43 e pl).drive d = u.drive d) ∧ ((w.logEntry b s1 s2).post 6 0x43 e pl).mag.cmds = u.mag.cmds
      ∧ ((w.logEntry b s1 s2).post 6 0x43 e pl).unitCode 7 d = 5
      ∧ ((w.logEntry b s1 s2).post 6 0x43 e pl).reg Reg.MBS_EVENTS d = v.reg Reg.MBS_EVENTS d := by
    rintro w b s1 s2 e pl ⟨x, rfl⟩
    have m1 : (((v.unitFails 7 d x).logEntry b s1 s2).post 6 0x43 e pl).mag = u.mag := by
      rw [State.post_mag]
      exact (State.unitFails_mag ..).trans v1
    refine ⟨State.drive_of m1 d, by rw [m1], ?_, ?_⟩
    · unfold State.unitCode
      rw [State.post_svc]
      exact v.unitFails_code 7 d x
    · rw [(State.post_postSame ..).reg _ _ _ hq]
      exact v.unitFails_postSame 7 d x _ _ _ hq (by decide)
  generalize hw : v.unitFails 7 d _ = w
  obtain ⟨k1, k2, k3, k4⟩ := key w 0x50 (target 7 d) cause (target 7 d)
    [(16, 1, cause), (17, 1, ((w.logEntry 0x50 (target 7 d) cause).slotUser d).getD 0xF)] ⟨_, hw.symm⟩
  refine ⟨⟨?_, ?_, ?_, k3, ?_⟩, fun k hk => ?_⟩
  · rw [k1, u1]
  · rw [k1, u1]
  · rw [k2, u2]
  · rw [k4, v2]; exact bit_or_pow _ _ (by decide)
  · rw [k4, v2, bit_or, u3, hk]; rfl

end Sys2Proof.Machine
end

