-- ==== Sys2Proof/Laws/FactsService.lean ====
section
/-! SUPPORT. What the service core's steps do to a unit's state, one lemma per operation. -/

namespace Sys2Proof.Machine

theorem State.unitCode_of {s t : State} (h : t.svc = s.svc) (k i : Nat) : t.unitCode k i = s.unitCode k i := by
  unfold State.unitCode
  rw [h]

/-- A change of a unit's state: its code, and what of the service core it leaves. -/
theorem State.changeUnit_svc (s : State) (k i c : Nat) : (s.changeUnit k i c).svc.tests = s.svc.tests
    ∧ (s.changeUnit k i c).svc.drains = s.svc.drains ∧ (s.changeUnit k i c).svc.due = s.svc.due
    ∧ (s.changeUnit k i c).svc.retired = s.svc.retired ∧ (s.changeUnit k i c).svc.causes = s.svc.causes
    ∧ (s.changeUnit k i c).svc.testsFailed = s.svc.testsFailed ∧ (s.changeUnit k i c).svc.replace = s.svc.replace := by
  unfold State.changeUnit
  dsimp only
  split
  · exact ⟨rfl, rfl, rfl, rfl, rfl, rfl, rfl⟩
  · unfold State.logEntry
    dsimp only [State.setSvc]
    rw [State.post_svc]
    exact ⟨rfl, rfl, rfl, rfl, rfl, rfl, rfl⟩

/-- A unit that fails: its cause, and what of the service core it leaves. -/
theorem State.unitFails_svc (s : State) (k i c : Nat) : (s.unitFails k i c).svc.tests = s.svc.tests
    ∧ (s.unitFails k i c).svc.drains = s.svc.drains ∧ (s.unitFails k i c).svc.due = s.svc.due
    ∧ (s.unitFails k i c).svc.causes.get 0 (unitKey k i) = c ∧ (s.unitFails k i c).svc.replace = s.svc.replace := by
  obtain ⟨h1, h2, h3, h4, h5, h6, h7⟩ := s.changeUnit_svc k i 5
  unfold State.unitFails
  dsimp only
  rw [State.healthFail_svc]
  refine ⟨h1, h2, h3, ?_, h7⟩
  exact Tab.get_put_self _ _ _ _

theorem State.steward_standby (s : State) (d : Desc) (h : s.dev.mode = .standby ∨ s.dev.mode = .operational) :
    (s.take d).modeIn [.standby, .operational] = true := by
  show List.contains [DevMode.standby, .operational] s.dev.mode = true
  rcases h with e | e <;> rw [e] <;> rfl

theorem State.completeOpts_svc {α : Type} (l : List α) (f : α → Option Ticket) (st : Nat) (pl : List (Nat × Nat × Nat)) (s : State) :
    (l.foldl (fun s x => s.completeOpt (f x) st pl) s).svc = s.svc := by
  induction l generalizing s with
  | nil => rfl
  | cons x l ih => exact (ih _).trans ((State.completeOpt_keeps ..).same .svc rfl)

/-- From `s` to `t` the frame store's registers keep their values, but for the page counts, and its event bits stay set. -/
def StoreRegs (s t : State) : Prop :=
  (∀ q k l, q.win = 8 → q.addr k l ≠ Reg.STORE_EVENTS.addr → (∀ c, q.addr k l ≠ Reg.PC_RETIRED_PAGES.addr c) → t.reg q k l = s.reg q k l)
    ∧ ∀ b, bit (s.reg Reg.STORE_EVENTS) b = true → bit (t.reg Reg.STORE_EVENTS) b = true

theorem StoreRegs.of {s t : State} (h : WinSame 8 s t) : StoreRegs s t :=
  ⟨fun q k l a _ _ => h q k l a, fun b hb => by rw [h _ _ _ rfl]; exact hb⟩
theorem StoreRegs.refl (s : State) : StoreRegs s s := .of (fun _ _ _ _ => rfl)
theorem StoreRegs.trans {s t u : State} (a : StoreRegs s t) (b : StoreRegs t u) : StoreRegs s u :=
  ⟨fun q k l h1 h2 h3 => (b.1 q k l h1 h2 h3).trans (a.1 q k l h1 h2 h3), fun n h => b.2 n (a.2 n h)⟩

theorem StoreRegs.retired (s : State) (c : Nat) (v : Word) : StoreRegs s (s.setReg Reg.PC_RETIRED_PAGES c 0 v) := by
  refine ⟨fun q k l h1 _ h3 => State.reg_setReg_ne _ _ _ _ _ _ _ _ (by decide) (Or.inr (h3 c)), fun b hb => ?_⟩
  rw [State.reg_setReg_ne _ _ _ _ _ _ _ _ (by decide) (Or.inr (by simp only [RegRow.addr, Reg.STORE_EVENTS, Reg.PC_RETIRED_PAGES]; omega))]
  exact hb

theorem bitsOf_bit (l : List Nat) (v : Word) (b : Nat) (hb : b < 32) (h : b ∈ l ∨ bit v b = true) :
    bit (l.foldl (fun w b => w ||| BitVec.ofNat 32 (2 ^ b)) v) b = true := by
  induction l generalizing v with
  | nil => exact h.resolve_left (by simp)
  | cons x l ih =>
    refine ih _ ?_
    rcases h with h | h
    · rcases List.mem_cons.mp h with rfl | h
      · exact Or.inr (bit_or_pow _ _ hb)
      · exact Or.inl h
    · right
      rw [bit_or, h]
      rfl

/-- Event bits of the frame store are set, and no other register of it changes. -/
theorem State.storeEvt_facts (s : State) (l : List Nat) : StoreRegs s (s.storeEvt l)
    ∧ ∀ b ∈ l, b < 32 → bit ((s.storeEvt l).reg Reg.STORE_EVENTS) b = true := by
  have h1 : StoreRegs s (s.orReg Reg.STORE_EVENTS 0 (bitsOf l)) := by
    refine ⟨fun q k l _ h2 _ => State.reg_setReg_ne _ _ _ _ _ _ _ _ (by decide) (Or.inr h2), fun b hb => ?_⟩
    unfold State.orReg
    rw [State.reg_setReg_self _ _ _ _ _ (by decide), bit_or, hb]
    rfl
  have h2 : ∀ b ∈ l, b < 32 → bit ((s.orReg Reg.STORE_EVENTS 0 (bitsOf l)).reg Reg.STORE_EVENTS) b = true := by
    intro b hb hl
    unfold State.orReg
    rw [State.reg_setReg_self _ _ _ _ _ (by decide), bit_or, show bit (bitsOf l) b = true from bitsOf_bit _ _ _ hl (Or.inl hb)]
    simp
  unfold State.storeEvt
  dsimp only
  split
  · exact ⟨h1, h2⟩
  · have h3 := StoreRegs.of (WinSame.post (w := 8) (s.orReg Reg.STORE_EVENTS 0 (bitsOf l)) 7 0x48 0
      [(16, 2, (bitsOf l &&& ~~~ s.reg Reg.STORE_EVENTS).toNat), (20, 4, (s.orReg Reg.STORE_EVENTS 0 (bitsOf l)).freePages)] 0 (by decide) (by decide) (by decide))
    exact ⟨h1.trans h3, fun b hb hl => h3.2 b (h2 b hb hl)⟩

theorem State.autoDrain_facts (s : State) (c : Nat) : (s.autoDrain c).cur = s.cur ∧ (s.autoDrain c).store = s.store :=
  ⟨(State.autoDrain_keeps ..).same .cur rfl, (State.autoDrain_keeps ..).same .store rfl⟩

/-- Withholding a page: it is withheld, and error counts and frames stay. -/
theorem State.withhold_facts (s : State) (c row page : Nat) : StoreRegs s (s.withhold c row page)
    ∧ page ∈ (s.withhold c row page).store.withheld ∧ (s.withhold c row page).store.frames = s.store.frames
    ∧ ((s.withhold c row page).store.pcs.get {} c).rowErrs = (s.store.pcs.get {} c).rowErrs := by
  unfold State.withhold
  split
  · next h => exact ⟨StoreRegs.refl s, by simpa using h, rfl, rfl⟩
  · dsimp only
    generalize hu : s.setStore _ = u
    have u1 : StoreRegs s u := by rw [← hu]; exact .of (.of rfl)
    have u2 : page ∈ u.store.withheld := by
      rw [← hu]
      exact List.mem_append_right _ (List.mem_singleton.mpr rfl)
    have u3 : u.store.frames = s.store.frames := by rw [← hu]; rfl
    have u4 : (u.store.pcs.get {} c).rowErrs = (s.store.pcs.get {} c).rowErrs := by
      rw [← hu]
      exact (congrArg PcSt.rowErrs (Tab.get_upd_self ({} : PcSt) s.store.pcs c
        (fun x => { x with back := x.back.filter (fun i => decide (i ≠ page / 128)), rows := x.rows ++ [(row, page)] }))).trans rfl
    clear hu
    split
    · generalize hv : u.setStore _ = v
      have v1 : StoreRegs u v := by rw [← hv]; exact .of (.of rfl)
      have v2 : v.store.withheld = u.store.withheld := by rw [← hv]; rfl
      have v3 : v.store.frames = u.store.frames := by rw [← hv]; rfl
      have v4 : (v.store.pcs.get {} c).rowErrs = (u.store.pcs.get {} c).rowErrs := by
        rw [← hv]
        exact (congrArg PcSt.rowErrs (Tab.get_upd_self ({} : PcSt) u.store.pcs c
          (fun x => { x with rows := x.rows.filter (fun e => decide (e.2 ≠ page)) }))).trans rfl
      clear hv
      have w1 := v1.trans ((StoreRegs.retired v c (v.reg Reg.PC_RETIRED_PAGES c + 1)).trans
        ((State.storeEvt_facts _ [10]).1.trans (StoreRegs.of (WinSame.post (w := 8)
        ((v.setReg Reg.PC_RETIRED_PAGES c 0 (v.reg Reg.PC_RETIRED_PAGES c + 1)).storeEvt [10]) 7 0x49 (target 0xF c)
        [(16, 1, 2), (20, 4, page)] 0 (by decide) (by decide) (by decide)))))
      have w2 : (((v.setReg Reg.PC_RETIRED_PAGES c 0 (v.reg Reg.PC_RETIRED_PAGES c + 1)).storeEvt [10]).post 7 0x49 (target 0xF c)
          [(16, 1, 2), (20, 4, page)]).store = v.store := by
        rw [State.post_store]
        exact (State.storeEvt_keeps ..).same .store rfl
      generalize State.post _ _ _ _ _ = w at w1 w2 ⊢
      have fin : ∀ x : State, x.cur = w.cur → x.store = w.store → StoreRegs s x ∧ page ∈ x.store.withheld
          ∧ x.store.frames = s.store.frames ∧ (x.store.pcs.get {} c).rowErrs = (s.store.pcs.get {} c).rowErrs := by
        intro x h1 h2
        refine ⟨u1.trans (w1.trans (.of (.of h1))), ?_, ?_, ?_⟩
        · rw [h2, w2, v2]; exact u2
        · rw [h2, w2, v3, u3]
        · rw [h2, w2, v4, u4]
      split
      · exact fin _ (w.autoDrain_facts c).1 (w.autoDrain_facts c).2
      · exact fin w rfl rfl
    · exact ⟨u1, u2, u3, u4⟩

/-- The count of uncorrectable errors of a pseudo-channel, which drains on its own from its limit on. -/
def State.countUe (y : State) (c : Nat) : State :=
  let n := (y.store.pcs.get ({} : PcSt) c).ues + 1
  let z := y.setStore (fun q => { q with pcs := q.pcs.upd {} c (fun x => { x with ues := n }) })
  if z.actF Reg.SVC_CTRL 0 15 8 ≤ n then z.autoDrain c else z

theorem State.countUe_facts (y : State) (c : Nat) : StoreRegs y (y.countUe c) ∧ (y.countUe c).store.frames = y.store.frames
    ∧ (y.countUe c).store.withheld = y.store.withheld := by
  unfold State.countUe
  dsimp only
  generalize hz : y.setStore _ = z
  have z1 : StoreRegs y z := by rw [← hz]; exact .of (.of rfl)
  have z2 : z.store.frames = y.store.frames ∧ z.store.withheld = y.store.withheld := by rw [← hz]; exact ⟨rfl, rfl⟩
  obtain ⟨q1, q2⟩ := z.autoDrain_facts c
  split
  · exact ⟨z1.trans (.of (.of q1)), by rw [q2]; exact z2.1, by rw [q2]; exact z2.2⟩
  · exact ⟨z1, z2.1, z2.2⟩

/-- The readings of a millisecond in SVC_TEMP. -/
theorem State.setTemps_facts (s : State) (v : List Int) (n : Nat := 32) :
    (∀ i < n, ((List.range n).foldl (fun s i => s.setReg Reg.SVC_TEMP i 0 (BitVec.ofNat 32 (ofSigned 16 (v.getD i 0)))) s).reg Reg.SVC_TEMP i
        = BitVec.ofNat 32 (ofSigned 16 (v.getD i 0)))
      ∧ ((List.range n).foldl (fun s i => s.setReg Reg.SVC_TEMP i 0 (BitVec.ofNat 32 (ofSigned 16 (v.getD i 0)))) s).svc = s.svc
      ∧ ((List.range n).foldl (fun s i => s.setReg Reg.SVC_TEMP i 0 (BitVec.ofNat 32 (ofSigned 16 (v.getD i 0)))) s).cfg = s.cfg := by
  induction n with
  | zero => exact ⟨fun i h => by omega, rfl, rfl⟩
  | succ n ih =>
    rw [List.range_succ, List.foldl_append]
    obtain ⟨h1, h2, h3⟩ := ih
    refine ⟨fun i hi => ?_, h2, h3⟩
    by_cases e : i = n
    · subst e
      exact State.reg_setReg_self _ _ _ _ _ (by decide)
    · refine (State.reg_setReg_ne _ _ _ _ _ _ _ _ (by decide) (Or.inr ?_)).trans (h1 i (by omega))
      simp only [RegRow.addr, Reg.SVC_TEMP]
      omega

/-- The peaks after the readings of a millisecond. -/
theorem peaks_facts (p : Tab Int) (v : List Int) (n : Nat) : ∀ i < n,
    ((List.range n).foldl (fun (p : Tab Int) i => p.put (-32768) i (max (p.get (-32768) i) (v.getD i 0))) p).get (-32768) i
      = max (p.get (-32768) i) (v.getD i 0) := by
  have out : ∀ n j, n ≤ j → ((List.range n).foldl (fun (p : Tab Int) i => p.put (-32768) i (max (p.get (-32768) i) (v.getD i 0))) p).get (-32768) j
      = p.get (-32768) j := by
    intro n
    induction n with
    | zero => exact fun _ _ => rfl
    | succ n ih =>
      intro j hj
      rw [List.range_succ, List.foldl_append]
      exact (Tab.get_put_ne _ _ _ _ (by omega)).trans (ih j (by omega))
  induction n with
  | zero => exact fun i h => by omega
  | succ n ih =>
    intro i hi
    rw [List.range_succ, List.foldl_append]
    by_cases e : i = n
    · subst e
      refine (Tab.get_put_self _ _ _ _).trans ?_
      rw [out i i (Nat.le_refl _)]
    · exact (Tab.get_put_ne _ _ _ _ (by omega)).trans (ih i (by omega))

theorem foldr_max_mem {α : Type} (f : α → Nat) (x : α) (l : List α) (h : x ∈ l) : f x ≤ l.foldr (fun a b => max (f a) b) 0 := by
  induction l with
  | nil => cases h
  | cons y l ih =>
    rcases List.mem_cons.mp h with rfl | h
    · exact Nat.le_max_left _ _
    · exact Nat.le_trans (ih h) (Nat.le_max_right _ _)

/-- The hottest of some sensors is as hot as each. -/
theorem hottestOf_le (t : List Int) (l : List Nat) (i : Nat) (h : i ∈ l) : t.getD i 0 ≤ t.getD (hottestOf t l) 0 := by
  cases l with
  | nil => cases h
  | cons a r =>
    unfold hottestOf
    dsimp only
    have key : ∀ (r : List Nat) (a : Nat), t.getD a 0 ≤ t.getD (r.foldl (fun a b => if t.getD a 0 < t.getD b 0 then b else a) a) 0
        ∧ ∀ i ∈ r, t.getD i 0 ≤ t.getD (r.foldl (fun a b => if t.getD a 0 < t.getD b 0 then b else a) a) 0 := by
      intro r
      induction r with
      | nil => exact fun a => ⟨Int.le_refl _, fun i h => by cases h⟩
      | cons b r ih =>
        intro a
        rw [List.foldl_cons]
        obtain ⟨h1, h2⟩ := ih (if t.getD a 0 < t.getD b 0 then b else a)
        have ha : t.getD a 0 ≤ t.getD (if t.getD a 0 < t.getD b 0 then b else a) 0 := by
          split
          · next h => exact Int.le_of_lt h
          · exact Int.le_refl _
        have hb : t.getD b 0 ≤ t.getD (if t.getD a 0 < t.getD b 0 then b else a) 0 := by
          split
          · exact Int.le_refl _
          · next h => exact Int.not_lt.mp h
        refine ⟨Int.le_trans ha h1, fun i hi => ?_⟩
        rcases List.mem_cons.mp hi with rfl | hi
        · exact Int.le_trans hb h1
        · exact h2 i hi
    rcases List.mem_cons.mp h with rfl | h
    · exact (key r i).1
    · exact (key r a).2 i h

/-- A reading at or above the CRIT threshold takes the level to CRIT. -/
theorem State.thermLevel_crit (s : State) (g old : Nat) (x : Int) (th : List Int) (h : 8 * th.getD 2 0 ≤ x) :
    3 ≤ (s.thermLevel g old x th).1 := by
  unfold State.thermLevel
  dsimp only
  rw [if_pos h]
  exact Nat.le_max_left _ _

/-- A level that rises rises to at most CRIT. -/
theorem State.thermLevel_le (s : State) (g old : Nat) (x : Int) (th : List Int) (h : old < (s.thermLevel g old x th).1) :
    (s.thermLevel g old x th).1 ≤ 3 := by
  unfold State.thermLevel at h ⊢
  dsimp only at h ⊢
  generalize List.foldl _ _ _ = cool at h ⊢
  generalize hu : (if 8 * th.getD 2 0 ≤ x then 3 else if 8 * th.getD 1 0 ≤ x then 2 else if 8 * th.getD 0 0 ≤ x then 1 else 0 : Nat) = up at h ⊢
  have h1 : up ≤ 3 := by rw [← hu]; split <;> (try split) <;> (try split) <;> decide
  have h2 : ∀ l : List Nat, l.foldr (fun k (l : Nat) => if l = k + 1 ∧ 100 ≤ cool.get 0 (4 * g + k) then k else l) old ≤ old := by
    intro l
    induction l with
    | nil => exact Nat.le_refl _
    | cons k l ih =>
      rw [List.foldr_cons]
      split
      · next e => omega
      · exact ih
  have h3 := h2 (List.range 3)
  generalize List.foldr _ _ _ = down at h h3 ⊢
  omega

theorem State.thermRise_facts (s : State) (old new x : Nat) : (s.thermRise old new x).svc.dieLevel = s.svc.dieLevel
    ∧ (s.thermRise old new x).svc.hbmLevel = s.svc.hbmLevel ∧ (s.thermRise old new x).svc.peaks = s.svc.peaks
    ∧ (∀ i, (s.thermRise old new x).reg Reg.SVC_TEMP i = s.reg Reg.SVC_TEMP i)
    ∧ (∀ b, bit (s.reg Reg.SVC_EVENTS) b = true → bit ((s.thermRise old new x).reg Reg.SVC_EVENTS) b = true)
    ∧ (old < new → 2 + new < 32 → bit ((s.thermRise old new x).reg Reg.SVC_EVENTS) (2 + new) = true) := by
  unfold State.thermRise
  split
  · exact ⟨rfl, rfl, rfl, fun _ => rfl, fun _ h => h, fun h => by omega⟩
  · have e : ∀ (u : State) (a b c : Nat), (u.logEntry a b c).svc.dieLevel = u.svc.dieLevel ∧ (u.logEntry a b c).svc.hbmLevel = u.svc.hbmLevel
        ∧ (u.logEntry a b c).svc.peaks = u.svc.peaks := fun _ _ _ _ => ⟨rfl, rfl, rfl⟩
    obtain ⟨e1, e2, e3⟩ := e ((s.setEvt Reg.SVC_EVENTS 0 (2 + new)).post 9 0x60 0 [(16, 1, 0xF0 + new), (17, 1, x)]) 0x20 0 (new + 256 * x)
    have hr : ∀ (q : RegRow) (i : Nat), q.win = 15 →
        (((s.setEvt Reg.SVC_EVENTS 0 (2 + new)).post 9 0x60 0 [(16, 1, 0xF0 + new), (17, 1, x)]).logEntry 0x20 0 (new + 256 * x)).reg q i
          = (s.setEvt Reg.SVC_EVENTS 0 (2 + new)).reg q i := by
      intro q i hq
      have h1 : ∀ (u : State) (a b c : Nat), (u.logEntry a b c).reg q i = u.reg q i := fun _ _ _ _ => rfl
      rw [h1]
      exact (State.post_postSame ..).reg _ _ _ (quiet_win _ _ _ (by omega) (by omega) (by omega))
    refine ⟨?_, ?_, ?_, fun i => ?_, fun b h => ?_, fun _ h => ?_⟩
    · rw [e1, State.post_svc]; rfl
    · rw [e2, State.post_svc]; rfl
    · rw [e3, State.post_svc]; rfl
    · rw [hr _ _ rfl]
      unfold State.setEvt State.orReg
      exact State.reg_setReg_ne _ _ _ _ _ _ _ _ (by decide) (Or.inr (by simp only [RegRow.addr, Reg.SVC_TEMP, Reg.SVC_EVENTS]; omega))
    · rw [hr _ _ rfl]
      unfold State.setEvt State.orReg
      rw [State.reg_setReg_self _ _ _ _ _ (by decide), bit_or, h]
      rfl
    · rw [hr _ _ rfl]
      exact State.setEvt_bit _ _ _ _ (by decide) h

end Sys2Proof.Machine
end

