-- ==== Sys2Proof/Laws/Registers.lean ====
section
/-! SUPPORT. The register map: a register found at an offset lies at that offset, in the window of the offset. -/

namespace Sys2Proof.Machine

theorem RegRow.match_addr {r q : RegRow} {o i j : Nat} (h : r.match? o = some (q, i, j)) : q = r ∧ r.base + i * r.s1 + j * r.s2 = o := by
  unfold RegRow.match? at h
  dsimp only at h
  split at h
  · cases h
  · rename_i hb
    generalize hi : (if r.s1 = 0 then 0 else (o - r.base) / r.s1) = a at h
    generalize hj : (if r.s2 = 0 then 0 else (o - r.base - a * r.s1) / r.s2) = b at h
    split at h
    · rename_i hc
      have hle : a * r.s1 ≤ o - r.base := by
        rw [← hi]
        split
        · omega
        · exact Nat.div_mul_le_self _ _
      injection h with h
      injection h with h1 h2
      injection h2 with h2 h3
      refine ⟨h1.symm, ?_⟩
      rw [← h2, ← h3]
      omega
    · cases h

theorem windowRows_win (w : Nat) : ∀ r ∈ windowRows w, r.win = w ∧ w < 16 := by
  have h : ∀ w, (windowRows w).all (fun r => decide (r.win = w ∧ w < 16)) = true := by
    intro w
    unfold windowRows
    split <;> first | decide | rfl
  intro r hr
  simpa using List.all_eq_true.mp (h w) r hr

/-- The register found at an offset is there. -/
theorem findReg_addr {off i j : Nat} {r : RegRow} (h : findReg off = some (r, i, j)) : r.addr i j = off ∧ r.win < 16 ∧ r.win = off / 0x100000 := by
  unfold findReg at h
  obtain ⟨q, hq, he⟩ := List.exists_of_findSome?_eq_some h
  obtain ⟨e, ha⟩ := RegRow.match_addr he
  obtain ⟨hw, hl⟩ := windowRows_win _ q hq
  subst e
  refine ⟨?_, by omega, hw⟩
  unfold RegRow.addr
  rw [hw]
  have := Nat.div_add_mod off 0x100000
  omega

/-- A write that nothing stops goes to the register, or to every member of the alias, at its offset. -/
theorem State.onWrite_reaches (s : State) (p off : Nat) (f : State → State) (h : s.opensWrite p off) :
    s.onWrite p off f = f (s.wakePort p) := by
  obtain ⟨_, _, ht, hm, hw⟩ := h
  have a : ¬((!(s.wakePort p).portTalks p) = true) := by rw [State.wakePort_portTalks, ht]; simp
  have b : ¬((s.wakePort p).dev.mode = .boot) := by rw [State.wakePort_dev]; exact hm
  have c : ¬((!(s.wakePort p).mayWrite p off) = true) := by rw [State.wakePort_mayWrite, hw]; simp
  exact (if_neg a).trans ((if_neg b).trans (if_neg c))

theorem State.busWrite_reaches (s : State) (p off : Nat) (v : Word) (h : s.opensWrite p off) :
    s.busWrite p off 4 v = (s.wakePort p).writeAt p off v := by
  have h4 : ¬(4 ≠ 4 ∨ off % 4 ≠ 0) := fun c => c.elim (fun c => c rfl) (fun c => c h.2.1)
  exact (if_neg h4).trans (State.onWrite_reaches s p off (fun s => s.writeAt p off v) h)

theorem State.wakePort_writable_reg (s : State) (p : Nat) (r : RegRow) (i j addr : Nat) (v : Word)
    (ha : s.areaHeld (r.addr i j) = false) (he : r.win = 1 → s.portExists i = true) :
    ∃ u, (s.wakePort p).regWrite p r i j addr v = State.regAct u p r i j addr v
      ∧ ∃ w, u = { s with ports := (s.wakePort p).ports, svc := { s.svc with woken := w } } := by
  refine ⟨if r.fields ≠ 0 then (s.wakePort p).wakeUnit (r.addr i j) else s.wakePort p, ?_, ?_⟩
  · unfold State.regWrite
    rw [State.wakePort_areaHeld, ha, if_neg, if_neg (by simp)]
    rintro ⟨h1, h2⟩
    rw [State.wakePort_portExists, he h1] at h2
    cases h2
  · split
    · obtain ⟨w, h⟩ := State.wakeUnit_eq (s.wakePort p) (r.addr i j)
      refine ⟨w, ?_⟩
      rw [h, State.wakePort_eq]
    · refine ⟨s.svc.woken, ?_⟩
      rw [State.wakePort_eq]

theorem State.wakePort_mayRead (s : State) (p q off : Nat) : (s.wakePort p).mayRead q off = s.mayRead q off := by
  unfold State.mayRead State.portHasCo State.ownsRingAt State.ringPort State.ringAssigned
  simp only [State.wakePort_ringOwn, State.wakePort_dev, State.wakePort_rings]

/-- A read that nothing stops answers the bytes asked for of the word at its aligned offset. -/
theorem State.busRead_reaches (s : State) (p off n : Nat) (h : s.opensRead p off n) :
    s.busRead p off n = (((s.wakePort p).readBase p (off / 4 * 4)).2).emit
      (.readData p (((((s.wakePort p).readBase p (off / 4 * 4)).1) >>> (8 * (off % 4))) &&& BitVec.ofNat 32 (2 ^ (8 * n) - 1))) := by
  obtain ⟨_, hn, h4, ht, hm, hr⟩ := h
  unfold State.busRead State.readAt
  dsimp only
  rw [State.wakePort_portTalks, ht, State.wakePort_dev, State.wakePort_mayRead, hr]
  rw [if_neg (by simp), if_neg (by omega), if_neg (fun c => hm c.1), if_neg (by simp)]

theorem State.goRead_run (s : State) (off : Nat) (f : State → State) (h : s.svc.stopped = none) : s.goRead off f = .next (f s) := by
  unfold State.goRead
  rw [h]

theorem RegSet.val_put (t : RegSet) (r : RegRow) (i j : Nat) (v : Word) : RegSet.val (Tab.put (r.reset &&& r.rw) t (r.addr i j) v) r i j = v :=
  Tab.get_put_self ..

/-- What a stored word leaves: RW bits in the pending set, RWI bits at once, W1C bits cleared. -/
theorem State.storeBits_spec (s : State) (r : RegRow) (i j : Nat) (v : Word) (hr : r.win < 16) :
    (s.storeBits r i j v).reg r i j = (((s.reg r i j &&& ~~~ r.rwi) ||| (v &&& r.rwi)) &&& ~~~ (v &&& r.w1c))
    ∧ (r.rw ≠ 0 → (s.storeBits r i j v).cfg.pending.val r i j = v &&& r.rw)
    ∧ (r.rw = 0 → (s.storeBits r i j v).cfg = s.cfg)
    ∧ (s.storeBits r i j v).cfg.active = s.cfg.active := by
  unfold State.storeBits
  dsimp only
  generalize hx : (if r.rwi = 0 ∧ r.w1c = 0 then s
    else s.setReg r i j (((s.reg r i j &&& ~~~ r.rwi) ||| (v &&& r.rwi)) &&& ~~~ (v &&& r.w1c))) = x
  have h1 : x.reg r i j = (((s.reg r i j &&& ~~~ r.rwi) ||| (v &&& r.rwi)) &&& ~~~ (v &&& r.w1c)) := by
    rw [← hx]
    split
    · rename_i h
      rw [h.1, h.2]
      generalize s.reg r i j = c
      apply BitVec.eq_of_getLsbD_eq
      intro k hk
      have h0 : ∀ k, (0 : Word).getLsbD k = false := fun k => BitVec.getLsbD_zero
      rw [BitVec.getLsbD_and, BitVec.getLsbD_or, BitVec.getLsbD_and, BitVec.getLsbD_and, BitVec.getLsbD_not, BitVec.getLsbD_not,
        BitVec.getLsbD_and, h0]
      simp [hk]
    · exact State.reg_setReg_self _ _ _ _ _ hr
  have h2 : x.cfg = s.cfg := by
    rw [← hx]
    split <;> rfl
  split
  · rename_i h
    exact ⟨h1, fun c => absurd h c, fun _ => h2, congrArg (·.active) h2⟩
  · rename_i h
    exact ⟨h1, fun _ => RegSet.val_put .., fun c => absurd c h, congrArg (·.active) h2⟩

theorem State.storeBits_pending (s : State) (r : RegRow) (i j : Nat) (v : Word) : (s.storeBits r i j v).cfg.pending =
    if r.rw = 0 then s.cfg.pending else s.cfg.pending.put (r.reset &&& r.rw) (r.addr i j) (v &&& r.rw) := by
  unfold State.storeBits
  dsimp only
  generalize hx : (if r.rwi = 0 ∧ r.w1c = 0 then s
    else s.setReg r i j (((s.reg r i j &&& ~~~ r.rwi) ||| (v &&& r.rwi)) &&& ~~~ (v &&& r.w1c))) = x
  have h2 : x.cfg = s.cfg := by
    rw [← hx]
    split <;> rfl
  split <;> rw [h2]

/-- A stored word leaves the pending value of a register at another place. -/
theorem State.storeBits_ne (s : State) (r q : RegRow) (i j k l : Nat) (v : Word) (h : q.addr k l ≠ r.addr i j) :
    (s.storeBits r i j v).cfg.pending.val q k l = s.cfg.pending.val q k l := by
  rw [State.storeBits_pending]
  split
  · rfl
  · exact Tab.get_put_ne _ _ _ _ h

theorem State.wordAct_plain (s : State) (p : Nat) (r : RegRow) (i j addr : Nat) (v : Word) (h : ∀ x ∈ actingRows, r.is x = false) :
    s.wordAct p r i j addr v = s.storeBits r i j v := by
  have g : ∀ x, x ∈ actingRows → ¬(r.is x = true) := fun x hx c => by rw [h x hx] at c; cases c
  unfold State.wordAct
  rw [if_neg (g Reg.STEW_CTRL (by simp [actingRows])), if_neg (g Reg.HEARTBEAT (by simp [actingRows])),
    if_neg (g Reg.RING_CTRL (by simp [actingRows])), if_neg (g Reg.LANE_TRAIN_CTRL (by simp [actingRows])),
    if_neg (g Reg.LANE_INJ_CTRL (by simp [actingRows])), if_neg (g Reg.LANE_PRBS_CTRL (by simp [actingRows])),
    if_neg (g Reg.PLN_RES_SEL (by simp [actingRows])), if_neg (g Reg.STORE_FR_SEL (by simp [actingRows])),
    if_neg (g Reg.CFG_PEEK_ADDR (by simp [actingRows])), if_neg (g Reg.SVC_TELEM_SEL (by simp [actingRows])),
    if_neg (g Reg.SVC_LOG_SEL (by simp [actingRows])), if_neg (g Reg.TOBJ_CTRL (by simp [actingRows])),
    if_neg (g Reg.TOBJ_DIR_DIGEST (by simp [actingRows])), if_neg (g Reg.SVCCH_CTRL (by simp [actingRows])),
    if_neg (g Reg.CMP_CTRL (by simp [actingRows])), if_neg (g Reg.PRB_STATUS (by simp [actingRows])),
    if_neg (g Reg.SEC_TAMPER_CTRL (by simp [actingRows])), if_neg (g Reg.SEC_SELFTEST_CTRL (by simp [actingRows]))]

theorem aliasAt_spec {off w o : Nat} {g : Option Nat} (h : aliasAt off = some (w, g, o)) : classUnits w ≠ 0 ∧ o < 0x1000 := by
  unfold aliasAt at h
  dsimp only at h
  split at h
  · cases h
  · rename_i h0
    split at h
    · cases h
      exact ⟨h0, Nat.mod_lt _ (by decide)⟩
    · split at h
      · cases h
        exact ⟨h0, Nat.mod_lt _ (by decide)⟩
      · cases h

theorem classUnits_le (w : Nat) : classUnits w ≤ 128 ∧ (classUnits w ≠ 0 → w ≠ 1) := by
  unfold classUnits
  split <;> omega

/-- The register of a member lies in that member's page. -/
theorem memberReg_addr {w n o i j : Nat} {r : RegRow} (hn : n < classUnits w) (ho : o < 0x1000) (h : memberReg w n o = some (r, i, j)) :
    r.addr i j = w * 0x100000 + n * 0x1000 + o ∧ r.win < 16 ∧ r.win ≠ 1 := by
  unfold memberReg at h
  obtain ⟨h1, h2, h3⟩ := findReg_addr h
  obtain ⟨h4, h5⟩ := classUnits_le w
  have := h5 (by omega)
  refine ⟨h1, h2, ?_⟩
  rw [h3]
  omega

theorem State.members_lt (s : State) {w n : Nat} {g : Option Nat} (h : n ∈ s.members w g) : n < classUnits w :=
  List.mem_range.mp (List.mem_filter.mp h).1

/-! ### What a read of a register comes to -/

theorem State.wakeUnit_access (s : State) (p off : Nat) (c : Prop) [Decidable c] :
    ∃ w, (if c then (s.wakePort p).wakeUnit off else s.wakePort p) = s.afterAccess p w := by
  split
  · obtain ⟨w, h⟩ := State.wakeUnit_eq (s.wakePort p) off
    refine ⟨w, ?_⟩
    rw [h, State.wakePort_eq]
    rfl
  · refine ⟨s.svc.woken, ?_⟩
    rw [State.wakePort_eq]
    rfl

theorem State.readGroup_plain (s : State) (p : Nat) (r : RegRow) (i : Nat) (h : ∀ x ∈ readRows, r.is x = false) :
    s.readGroup p r i = s := by
  have g : ∀ x, x ∈ readRows → ¬(r.is x = true) := fun x hx c => by rw [h x hx] at c; cases c
  unfold State.readGroup
  dsimp only
  rw [if_neg (g Reg.TIME_SNAP_LIN_LO (by simp [readRows])), if_neg (g Reg.MCH_POS_LO (by simp [readRows])),
    if_neg (g Reg.PRB_TIME_LO (by simp [readRows]))]

/-- A read of a register that is not the upper half of a pair: its word in the state that the access leaves. -/
theorem State.regRead_open (s : State) (p : Nat) (r : RegRow) (i j addr : Nat) (clear : Bool) (ha : s.areaHeld (r.addr i j) = false)
    (hh : r.half ≠ .hi) (hs : r.is Reg.ACCESS_STATUS = false) : ∃ w,
    let u := (s.afterAccess p w).readGroup p r i
    let x := if r.half = .lo then u.setPort p (fun q => { q with snapHi := q.snapHi.put 0 addr (u.readWord p (r.partner i j) i j) }) else u
    (s.wakePort p).regRead p r i j addr clear
      = (u.readWord p r i j, if clear = true ∧ r.rc ≠ 0 then x.setReg r i j (x.reg r i j &&& ~~~ r.rc) else x) := by
  obtain ⟨w, hw⟩ := s.wakeUnit_access p (r.addr i j) (r.fields ≠ 0)
  refine ⟨w, ?_⟩
  unfold State.regRead
  dsimp only
  rw [State.wakePort_areaHeld, ha]
  simp only [Bool.false_and, Bool.false_eq_true, if_false, hw, hh, false_and, hs, Bool.not_false, Bool.and_true, Bool.and_eq_true,
    decide_eq_true_eq]
  split <;> rfl

/-- The upper half of a pair reads as the port's last read of the lower half left it (R590). -/
theorem State.readBase_plain (s : State) (p off i j : Nat) (r : RegRow) (ha : aliasAt off = none) (hf : findReg off = some (r, i, j)) :
    s.readBase p off = s.regRead p r i j off true := by
  unfold State.readBase
  rw [ha, hf]

theorem State.afterAccess_areaHeld (s : State) (p : Nat) (w : Tab Nat) (off : Nat) : (s.afterAccess p w).areaHeld off = s.areaHeld off := rfl

/-- The word of a register that no capture and no recovery holds. -/
theorem State.readWord_live (s : State) (p : Nat) (r : RegRow) (i j : Nat) (hw : r.win ≠ 1) (hh : s.areaHeld (r.addr i j) = false)
    (hc : (s.port p).cap.get none (r.addr i j) = none) (hv : r.view ≠ .captured) :
    s.readWord p r i j = (s.view p r i j &&& r.fields &&& ~~~ r.wo) ||| (s.cfg.pending.val r i j &&& r.rw) := by
  unfold State.readWord
  rw [if_neg (fun c => hw c.1)]
  dsimp only
  rw [hh, if_neg (by simp), hc]
  dsimp only
  rw [if_neg hv]

/-- The four bytes of a word. -/
theorem word_bytes (v : Word) (off : Nat) (h : off % 4 = 0) : (v >>> (8 * (off % 4))) &&& BitVec.ofNat 32 (2 ^ (8 * 4) - 1) = v := by
  rw [h]
  show (v >>> 0) &&& 4294967295#32 = v
  rw [BitVec.ushiftRight_zero]
  exact BitVec.and_allOnes (x := v)

/-! ### Writes that take effect at once, and what they capture -/

theorem State.rowWrite_after (s : State) (p : Nat) (r : RegRow) (i : Nat) (v : Word) (h : s.writable p r i) :
    ∃ w, s.rowWrite p r i v = (s.afterAccess p w).regAct p r i 0 (r.addr i) v := by
  rw [State.rowWrite_reaches _ _ _ _ _ h]
  obtain ⟨w, e⟩ := s.reached_eq p r i
  exact ⟨w, by rw [e]; rfl⟩

theorem State.storeBits_rest (s : State) (r : RegRow) (i j : Nat) (v : Word) (h : r.rw = 0) :
    ∃ c, s.storeBits r i j v = { s with cur := c } := by
  unfold State.storeBits
  dsimp only
  rw [if_pos h]
  split
  · exact ⟨s.cur, rfl⟩
  · exact ⟨_, rfl⟩

theorem State.capture_get (s : State) (p : Nat) (l : List (Nat × Word)) :
    ((s.capture p l).port p).cap = l.foldl (fun (t : Tab (Option Word)) e => t.put none e.1 (some e.2)) (s.port p).cap := by
  unfold State.capture
  rw [State.port_setPort_self]


/-- A write of a register whose bits take effect at once, and what is captured after it. -/
theorem State.selWrite (u : State) (r : RegRow) (v : Word) (hr : r.win < 16) (h : r.rw = 0) (h1 : r.w1c = 0) :
    ∃ c, u.storeBits r 0 0 v = { u with cur := c } ∧ ({ u with cur := c } : State).reg r = (u.reg r &&& ~~~ r.rwi) ||| (v &&& r.rwi) := by
  obtain ⟨c, e⟩ := u.storeBits_rest r 0 0 v h
  refine ⟨c, e, ?_⟩
  rw [← e, (u.storeBits_spec r 0 0 v hr).1, h1]
  generalize (u.reg r &&& ~~~ r.rwi) ||| (v &&& r.rwi) = x
  apply BitVec.eq_of_getLsbD_eq
  intro k hk
  have h0 : (0 : Word).getLsbD k = false := BitVec.getLsbD_zero
  rw [BitVec.getLsbD_and, BitVec.getLsbD_not, BitVec.getLsbD_and, h0]
  simp [hk]

theorem fld_masked (c v m : Word) (hi lo : Nat) (h : (List.range 32).all (fun b => decide (b < lo) || decide (hi < b) || bit m b) = true) (hh : hi < 32) : fld ((c &&& ~~~ m) ||| (v &&& m)) hi lo = fld v hi lo := by
  apply fld_congr
  intro b h1 h2
  rw [List.all_eq_true] at h
  have := h b (List.mem_range.mpr (by omega))
  have hb : bit m b = true := by simpa [Nat.not_lt.mpr h1, Nat.not_lt.mpr h2] using this
  rw [bit_or, bit_and, bit_and, bit_not _ _ (by omega), hb]
  simp

theorem masked_all (c v : Word) : (c &&& ~~~ 0xffffffff#32) ||| (v &&& 0xffffffff#32) = v := by
  apply BitVec.eq_of_getLsbD_eq
  intro k hk
  have h0 : (0xffffffff#32 : Word).getLsbD k = true := by
    have : (0xffffffff#32 : Word) = BitVec.allOnes 32 := by decide
    rw [this, BitVec.getLsbD_allOnes]
    simp [hk]
  rw [BitVec.getLsbD_or, BitVec.getLsbD_and, BitVec.getLsbD_and, BitVec.getLsbD_not, h0]
  simp [hk]

theorem forall_upto (P : Nat → Prop) (n : Nat) (h : ∀ k ∈ List.range n, P k) : ∀ k, k < n → P k := fun k hk => h k (List.mem_range.mpr hk)

theorem held_none (x : State) (h : x.ckpt = none) : x.held = x := by
  unfold State.held
  rw [h]

/-! ### Reads that capture a group -/

theorem accFlag_bit (u : State) (p b off : Nat) (hb : b < 32) : bit ((u.accFlag p b off).port p).accStatus b = true := by
  unfold State.accFlag
  rw [State.port_setPort_self]
  exact bit_or_pow _ _ hb

theorem wakeUnit_if (u : State) (off : Nat) (c : Prop) [Decidable c] :
    ∃ w, (if c then u.wakeUnit off else u) = { u with svc := { u.svc with woken := w } } := by
  split
  · exact State.wakeUnit_eq u off
  · exact ⟨u.svc.woken, rfl⟩

/-- A read that captures its group: what it captures, and its word. -/
theorem groupRead (s : State) (p i : Nat) (r : RegRow) (ho : s.opensRead p (r.addr i) 4) (ha : s.areaHeld (r.addr i) = false)
    (hal : aliasAt (r.addr i) = none) (hf : findReg (r.addr i) = some (r, i, 0)) (hl : r.half = .lo) (hrc : r.rc = 0) (hx : r.is Reg.ACCESS_STATUS = false) :
    ∃ w, (s.busRead p (r.addr i) 4).out = .readData p (((s.afterAccess p w).readGroup p r i).readWord p r i 0) :: ((s.afterAccess p w).readGroup p r i).out
      ∧ ((s.busRead p (r.addr i) 4).port p).cap = (((s.afterAccess p w).readGroup p r i).port p).cap := by
  have h4 : r.addr i % 4 = 0 := by have := ho.2.2.1; omega
  have hd : r.addr i / 4 * 4 = r.addr i := by omega
  obtain ⟨w, hr⟩ := s.regRead_open p r i 0 (r.addr i) true ha (by rw [hl]; decide) hx
  refine ⟨w, ?_⟩
  rw [State.busRead_reaches _ _ _ _ ho, hd, word_bytes _ _ h4, State.readBase_plain _ _ _ _ _ _ hal hf, hr]
  simp only [hl, if_true, hrc, ne_eq, not_true, and_false, if_false]
  refine ⟨rfl, ?_⟩
  have he : ∀ (u : State) (o : Out), (u.emit o).port p = u.port p := fun _ _ => rfl
  rw [he, State.port_setPort_self]

/-- The word of a captured register, all of whose bits are read-only. -/
theorem readWord_cap (u : State) (p : Nat) (r : RegRow) (i : Nat) (x : Word) (hw : r.win ≠ 1) (ha : u.areaHeld (r.addr i) = false)
    (hc : (u.port p).cap.get none (r.addr i) = some x) (h1 : r.fields = 0xFFFFFFFF#32) (h2 : r.wo = 0) (h3 : r.rw = 0) :
    u.readWord p r i 0 = x := by
  unfold State.readWord
  rw [if_neg (fun c => hw c.1)]
  dsimp only
  rw [ha, if_neg (by simp), hc, h1, h2, h3]
  dsimp only
  have e : ~~~ (0 : Word) = BitVec.allOnes 32 := by decide
  rw [e, BitVec.and_allOnes, show (0xFFFFFFFF#32 : Word) = BitVec.allOnes 32 by decide, BitVec.and_allOnes]
  show x ||| (_ &&& 0#32) = x
  rw [BitVec.and_zero, BitVec.or_zero]

theorem and_ones (x : Word) : x &&& 0xFFFFFFFF#32 = x := by
  rw [show (0xFFFFFFFF#32 : Word) = BitVec.allOnes 32 by decide, BitVec.and_allOnes]

theorem find_of (r : RegRow) (n : Nat) (h : (List.range n).all (fun i => decide (findReg (r.addr i) = some (r, i, 0)) && decide (aliasAt (r.addr i) = none)) = true) (i : Nat) (hi : i < n) :
    findReg (r.addr i) = some (r, i, 0) ∧ aliasAt (r.addr i) = none := by
  rw [List.all_eq_true] at h
  have := h i (List.mem_range.mpr hi)
  simpa using this

theorem capture_areaHeld (u : State) (p : Nat) (l : List (Nat × Word)) (off : Nat) : (u.capture p l).areaHeld off = u.areaHeld off := rfl

end Sys2Proof.Machine
end

