-- ==== Sys2Proof/Laws/FactsObjects.lean ====
section
/-! SUPPORT. What table objects, service channels and transfers leave in the fields that statements speak of. -/

namespace Sys2Proof.Machine

/-- Registers of one row written in turn, at addresses that differ. -/
theorem State.setRegs_foldl (r : RegRow) (f : Nat → Word) (hr : r.win < 16) (l : List Nat) (s : State) (k : Nat)
    (hd : ∀ a ∈ l, r.addr a = r.addr k → a = k) :
    (l.foldl (fun (s : State) k => s.setReg r k 0 (f k)) s).reg r k = if k ∈ l then f k else s.reg r k := by
  induction l generalizing s with
  | nil => rfl
  | cons a l ih =>
    rw [List.foldl_cons, ih _ (fun b hb => hd b (List.mem_cons_of_mem _ hb))]
    by_cases hk : k ∈ l
    · rw [if_pos hk, if_pos (List.mem_cons_of_mem _ hk)]
    · rw [if_neg hk]
      by_cases e : k = a
      · rw [if_pos (by rw [e]; exact List.mem_cons_self), e, State.reg_setReg_self _ _ _ _ _ hr]
      · rw [if_neg (by rw [List.mem_cons]; exact fun c => c.elim e hk),
          State.reg_setReg_ne _ _ _ _ _ _ _ _ hr (Or.inr (fun c => e (hd a List.mem_cons_self c.symm).symm))]

/-- The end of a table object operation: its status, and GO reads 0. -/
theorem State.tobjEnd_result (s : State) (st : Nat) : (s.tobjEnd st).reg Reg.TOBJ_RESULT = BitVec.ofNat 32 st
    ∧ bit ((s.tobjEnd st).reg Reg.TOBJ_CTRL) 31 = false ∧ (s.tobjEnd st).reg Reg.TOBJ_RESULT_HANDLE = s.reg Reg.TOBJ_RESULT_HANDLE
    ∧ (s.tobjEnd st).obj = s.obj := by
  unfold State.tobjEnd
  refine ⟨State.reg_setReg_self _ _ _ _ _ (by decide), ?_, ?_, rfl⟩
  · rw [State.reg_setReg_ne _ _ _ _ _ _ _ _ (by decide) (Or.inr (by decide)), State.bit_setF_self _ _ _ _ _ (by decide) (by decide)]
    rfl
  · rw [State.reg_setReg_ne _ _ _ _ _ _ _ _ (by decide) (Or.inr (by decide)), State.reg_setF_ne _ _ _ _ _ _ _ _ _ (by decide) (Or.inr (by decide))]

theorem State.storeBits_reg_ne (s : State) (r q : RegRow) (i j k l : Nat) (v : Word) (hr : r.win < 16)
    (h : q.win ≠ r.win ∨ q.addr k l ≠ r.addr i j) : (s.storeBits r i j v).reg q k l = s.reg q k l := by
  have h1 : ∀ (x : State) c, ({ x with cfg := c } : State).reg q k l = x.reg q k l := fun _ _ => rfl
  have h2 : (if r.rwi = 0 ∧ r.w1c = 0 then s
    else s.setReg r i j (((s.reg r i j &&& ~~~ r.rwi) ||| (v &&& r.rwi)) &&& ~~~ (v &&& r.w1c))).reg q k l = s.reg q k l := by
    split
    · rfl
    · exact State.reg_setReg_ne _ _ _ _ _ _ _ _ hr h
  unfold State.storeBits
  dsimp only
  split
  · exact h2
  · rw [h1]
    exact h2

/-- A table object operation that a write of TOBJ_CTRL starts. -/
theorem State.tobjCtrl_go (x : State) (v : Word) (hb : bit (x.reg Reg.TOBJ_CTRL) 31 = false) (hv : bit v 31 = true) :
    ∃ c, (∀ q : RegRow, q.addr 0 ≠ Reg.TOBJ_CTRL.addr 0 → ({ x with cur := c } : State).reg q = x.reg q)
      ∧ (∀ k, ({ x with cur := c } : State).reg Reg.TOBJ_DIGEST k = x.reg Reg.TOBJ_DIGEST k)
      ∧ (fld v 27 24 = 1 → x.tobjCtrl v = ({ x with cur := c } : State).tobjAlloc)
      ∧ (fld v 27 24 = 2 → x.tobjCtrl v = ({ x with cur := c } : State).tobjSeal)
      ∧ (fld v 27 24 = 3 → x.tobjCtrl v = ({ x with cur := c } : State).tobjFree) := by
  obtain ⟨c, e⟩ := x.storeBits_rest Reg.TOBJ_CTRL 0 0 v (by decide)
  refine ⟨c, fun q hq => ?_, fun k => ?_, fun h => ?_, fun h => ?_, fun h => ?_⟩
  · rw [← e]
    exact State.storeBits_reg_ne _ _ _ _ _ _ _ _ (by decide) (Or.inr hq)
  · rw [← e]
    exact State.storeBits_reg_ne _ _ _ _ _ _ _ _ (by decide) (Or.inr (by simp only [RegRow.addr, Reg.TOBJ_DIGEST, Reg.TOBJ_CTRL]; omega))
  all_goals
    unfold State.tobjCtrl
    dsimp only
    rw [hb, hv, e, if_neg (by simp), h]
    rfl

theorem State.setObj_get (s : State) (i : Nat) (f : ObjSt → ObjSt) : (s.setObj i f).obj.dir.get {} i = f (s.obj.dir.get {} i) :=
  Tab.get_upd_self ({} : ObjSt) s.obj.dir i f

theorem State.obj?_some {s : State} {h i : Nat} {o : ObjSt} (e : s.obj? h = some (i, o)) : o = s.obj.dir.get {} i := by
  unfold State.obj? at e
  dsimp only at e
  split at e
  · obtain ⟨rfl, rfl⟩ := Prod.mk.inj (Option.some.inj e)
    rfl
  · cases e

theorem State.setChan_get (s : State) (k : Nat) (f : ChanSt → ChanSt) : (s.setChan k f).chan k = f (s.chan k) :=
  Tab.get_upd_self ({} : ChanSt) s.mover.chans k f

theorem State.setChan_get_ne (s : State) (k j : Nat) (f : ChanSt → ChanSt) (h : j ≠ k) : (s.setChan k f).chan j = s.chan j :=
  Tab.get_upd_ne ({} : ChanSt) s.mover.chans f h

/-- Channels whose pace waits for channel `k` become ready. -/
theorem State.readyChans (k : Nat) (l : List Nat) (s : State) (j : Nat) :
    (l.foldl (fun (s : State) j =>
      let r := s.chan j
      if r.busy && !r.started && decide (r.pace = 2) && decide (r.paceSel = k) then s.setChan j (fun q => { q with ready := true })
      else s) s).chan j =
      (if j ∈ l ∧ (s.chan j).busy = true ∧ (s.chan j).started = false ∧ (s.chan j).pace = 2 ∧ (s.chan j).paceSel = k then
        { s.chan j with ready := true } else s.chan j) := by
  induction l generalizing s with
  | nil =>
    rw [if_neg (by simp)]
    rfl
  | cons a l ih =>
    rw [List.foldl_cons, ih]
    dsimp only
    have h1 : ∀ u : ChanSt, (u.busy && !u.started && decide (u.pace = 2) && decide (u.paceSel = k)) = true ↔
        (u.busy = true ∧ u.started = false ∧ u.pace = 2 ∧ u.paceSel = k) := by
      intro u
      simp only [Bool.and_eq_true, Bool.not_eq_true', decide_eq_true_eq, and_assoc]
    by_cases hc : (s.chan a).busy = true ∧ (s.chan a).started = false ∧ (s.chan a).pace = 2 ∧ (s.chan a).paceSel = k
    · rw [if_pos ((h1 _).mpr hc)]
      by_cases e : j = a
      · subst e
        rw [State.setChan_get]
        split <;> exact (if_pos (⟨List.mem_cons_self, hc⟩ : j ∈ j :: l ∧ _)).symm
      · rw [State.setChan_get_ne _ _ _ _ e]
        simp only [List.mem_cons, e, false_or]
    · rw [if_neg (fun c => hc ((h1 _).mp c))]
      by_cases e : j = a
      · subst e
        rw [if_neg (fun c => hc c.2), if_neg (fun c => hc c.2)]
      · simp only [List.mem_cons, e, false_or]

theorem State.setReg_chan (s : State) (r : RegRow) (i j : Nat) (v : Word) (n : Nat) : (s.setReg r i j v).chan n = s.chan n := rfl
theorem State.setEvt_chan (s : State) (r : RegRow) (i b n : Nat) : (s.setEvt r i b).chan n = s.chan n := rfl
theorem State.setWork_frame (x : State) (a : Act) (r i n : Nat) (j : Nat) : (x.setWork a r i n).chan j = x.chan j
    ∧ (x.setWork a r i n).obj = x.obj := by
  unfold State.setWork State.addWork
  split <;> exact ⟨rfl, rfl⟩

theorem State.readyChans_frame (k : Nat) (l : List Nat) (x : State) : (l.foldl (fun (s : State) j =>
      let r := s.chan j
      if r.busy && !r.started && decide (r.pace = 2) && decide (r.paceSel = k) then s.setChan j (fun q => { q with ready := true })
      else s) x).cur = x.cur ∧ (l.foldl (fun (s : State) j =>
      let r := s.chan j
      if r.busy && !r.started && decide (r.pace = 2) && decide (r.paceSel = k) then s.setChan j (fun q => { q with ready := true })
      else s) x).obj = x.obj := by
  induction l generalizing x with
  | nil => exact ⟨rfl, rfl⟩
  | cons a l ih =>
    rw [List.foldl_cons]
    obtain ⟨a1, a2⟩ := ih (if (x.chan a).busy && !(x.chan a).started && decide ((x.chan a).pace = 2) && decide ((x.chan a).paceSel = k) then
      x.setChan a (fun q => { q with ready := true }) else x)
    refine ⟨a1.trans ?_, a2.trans ?_⟩ <;> split <;> rfl

theorem State.reg_cur {s t : State} (h : s.cur = t.cur) (r : RegRow) (i j : Nat) : s.reg r i j = t.reg r i j := by
  unfold State.reg
  rw [h]

/-- The state of a channel whose transfer has ended, before the channels that wait for it become ready. -/
theorem State.chanStop_facts (s : State) (k st left : Nat) :
    let v := ((((([8, 9] : List Nat).foldl (fun s r => s.setWork .service r 0 (s.pendingWork .service r 0 - left)) s).setChan k
      (fun q => { q with busy := false, ready := false, started := false, status := st })).setReg Reg.SVCCH_STATUS k 0
        (BitVec.ofNat 32 ((s.chan k).port * 2 ^ 28 + st))).setEvt Reg.SVCCH_EVENTS k 0)
    v.chan k = { s.chan k with busy := false, ready := false, started := false, status := st } ∧ (∀ j, j ≠ k → v.chan j = s.chan j)
      ∧ v.reg Reg.SVCCH_STATUS k = BitVec.ofNat 32 ((s.chan k).port * 2 ^ 28 + st) ∧ bit (v.reg Reg.SVCCH_EVENTS k) 0 = true
      ∧ v.obj = s.obj := by
  intro v
  generalize hn : BitVec.ofNat 32 ((s.chan k).port * 2 ^ 28 + st) = n at v ⊢
  have hw : ∀ j, (([8, 9] : List Nat).foldl (fun s r => s.setWork .service r 0 (s.pendingWork .service r 0 - left)) s).chan j = s.chan j
      ∧ (([8, 9] : List Nat).foldl (fun s r => s.setWork .service r 0 (s.pendingWork .service r 0 - left)) s).obj = s.obj := fun j => by
    simp only [List.foldl_cons, List.foldl_nil, (State.setWork_frame _ _ _ _ _ j).1, (State.setWork_frame _ _ _ _ _ j).2, and_self]
  refine ⟨?_, fun j hj => ?_, ?_, State.setEvt_bit _ _ _ _ (by decide) (by decide), ?_⟩
  · show (State.setEvt _ _ _ _).chan k = _
    rw [State.setEvt_chan, State.setReg_chan, State.setChan_get, (hw k).1]
  · show (State.setEvt _ _ _ _).chan j = _
    rw [State.setEvt_chan, State.setReg_chan, State.setChan_get_ne _ _ _ _ hj, (hw j).1]
  · show (State.setReg _ Reg.SVCCH_EVENTS k 0 _).reg _ _ = _
    rw [State.reg_setReg_ne _ _ _ _ _ _ _ _ (by decide) (Or.inr (by simp only [RegRow.addr, Reg.SVCCH_EVENTS, Reg.SVCCH_STATUS]; omega)),
      State.reg_setReg_self _ _ _ _ _ (by decide)]
    exact hn
  · show (State.setEvt _ _ _ _).obj = _
    rw [State.setEvt_obj, State.setReg_obj, State.setChan_obj, (hw 0).2]

/-- The end of a transfer. -/
theorem State.chanEnd_facts (s : State) (k st : Nat) :
    (s.chanEnd k st).chan k = { s.chan k with busy := false, ready := false, started := false, status := st }
      ∧ (s.chanEnd k st).reg Reg.SVCCH_STATUS k = BitVec.ofNat 32 ((s.chan k).port * 2 ^ 28 + st)
      ∧ bit ((s.chanEnd k st).reg Reg.SVCCH_EVENTS k) 0 = true ∧ (s.chanEnd k st).obj = s.obj
      ∧ (st = stDone → ∀ j, j < 8 → j ≠ k → (s.chan j).busy = true → (s.chan j).started = false → (s.chan j).pace = 2 →
          (s.chan j).paceSel = k → ((s.chanEnd k st).chan j).ready = true) := by
  unfold State.chanEnd
  dsimp only
  generalize (if (s.chan k).started = true then (s.chan k).len - (s.chan k).done else 0) = left
  obtain ⟨v1, v2, v3, v4, v5⟩ := s.chanStop_facts k st left
  generalize BitVec.ofNat 32 ((s.chan k).port * 2 ^ 28 + st) = n at v1 v2 v3 v4 v5 ⊢
  dsimp only at v1 v2 v3 v4 v5
  generalize State.setEvt _ Reg.SVCCH_EVENTS k 0 = v at v1 v2 v3 v4 v5 ⊢
  by_cases hd : st = stDone
  · rw [if_pos hd]
    generalize hl : List.range 8 = l
    have hj := State.readyChans k l v
    obtain ⟨r1, r2⟩ := State.readyChans_frame k l v
    generalize List.foldl _ v l = w at hj r1 r2 ⊢
    refine ⟨?_, (State.reg_cur r1 _ _ _).trans v3, ?_, r2.trans v5, fun _ j h8 hne b1 b2 b3 b4 => ?_⟩
    · rw [hj, if_neg (by rw [v1]; simp), v1]
    · rw [State.reg_cur r1]
      exact v4
    · rw [hj, if_pos]
      rw [v2 j hne]
      exact ⟨by rw [← hl]; exact List.mem_range.mpr h8, b1, b2, b3, b4⟩
  · rw [if_neg hd]
    exact ⟨v1, v3, v4, v5, fun c => absurd c hd⟩

/-- A write of a service channel's control register stores its fields. -/
theorem State.svcCtrl_go (x : State) (p k : Nat) (v : Word) (hv : bit v 31 = true) (hb : (x.chan k).busy = false) :
    ∃ c, (∀ q : RegRow, q.addr k ≠ Reg.SVCCH_CTRL.addr k → ({ x with cur := c } : State).reg q k = x.reg q k)
      ∧ ({ x with cur := c } : State).reg Reg.SVCCH_CTRL k = (x.reg Reg.SVCCH_CTRL k &&& ~~~ Reg.SVCCH_CTRL.rwi) ||| (v &&& Reg.SVCCH_CTRL.rwi)
      ∧ x.svcCtrl p k v = ({ x with cur := c } : State).svcGo p k := by
  obtain ⟨c, e⟩ := x.storeBits_rest Reg.SVCCH_CTRL k 0 v (by decide)
  refine ⟨c, fun q hq => ?_, ?_, ?_⟩
  · rw [← e]
    exact State.storeBits_reg_ne _ _ _ _ _ _ _ _ (by decide) (Or.inr hq)
  · rw [← e, (x.storeBits_spec Reg.SVCCH_CTRL k 0 v (by decide)).1]
    generalize (x.reg Reg.SVCCH_CTRL k &&& ~~~ Reg.SVCCH_CTRL.rwi) ||| (v &&& Reg.SVCCH_CTRL.rwi) = y
    rw [show Reg.SVCCH_CTRL.w1c = 0 by decide]
    apply BitVec.eq_of_getLsbD_eq
    intro b hb
    rw [BitVec.getLsbD_and, BitVec.getLsbD_not, BitVec.getLsbD_and, show (0 : Word).getLsbD b = false from BitVec.getLsbD_zero]
    simp [hb]
  · unfold State.svcCtrl
    rw [e]
    dsimp only
    rw [hv, if_pos rfl]
    congr 1
    unfold State.svcAbort
    rw [show ({ x with cur := c } : State).chan k = x.chan k from rfl, hb]
    split <;> rfl

theorem fld_top' (v w : Word) (hi lo : Nat) (h : ∀ b, lo ≤ b → b ≤ hi → bit w b = false) : fld (v ||| w) hi lo = fld v hi lo := by
  apply fld_congr
  intro b h1 h2
  rw [bit_or, h b h1 h2, Bool.or_false]

theorem State.setChan_objHeld (s : State) (k : Nat) (f : ChanSt → ChanSt) (h : Nat) : (s.setChan k f).objHeld h = s.objHeld h := rfl
theorem State.setReg_objHeld (s : State) (r : RegRow) (i j : Nat) (v : Word) (h : Nat) : (s.setReg r i j v).objHeld h = s.objHeld h := rfl
theorem State.setChan_obj? (s : State) (k : Nat) (f : ChanSt → ChanSt) (h : Nat) : (s.setChan k f).obj? h = s.obj? h := rfl
theorem State.setReg_obj? (s : State) (r : RegRow) (i j : Nat) (v : Word) (h : Nat) : (s.setReg r i j v).obj? h = s.obj? h := rfl

/-- A GO that starts a transfer. -/
theorem State.svcGo_ok (y : State) (p k i d pc ps len h off : Nat) (ns : Bool) (o : ObjSt) (hb : (y.chan k).busy = false)
    (f1 : fld (y.reg Reg.SVCCH_CTRL k) 29 28 = d) (f2 : fld (y.reg Reg.SVCCH_CTRL k) 27 26 = pc)
    (f3 : fld (y.reg Reg.SVCCH_CTRL k) 25 22 = ps) (f4 : bit (y.reg Reg.SVCCH_CTRL k) 21 = ns)
    (k1 : (y.reg Reg.SVCCH_LEN k).toNat = len) (k2 : (y.reg Reg.SVCCH_OBJ k).toNat = h) (k3 : (y.reg Reg.SVCCH_OFFSET k).toNat = off)
    (hm : ¬(y.dev.mode ≠ .standby ∧ y.dev.mode ≠ .operational)) (ho : y.obj? h = some (i, o))
    (hr : ¬(len = 0 ∨ 1073741824 < len ∨ o.size < off + len ∨ 1 < d ∨ pc = 3)) (hh : d = 1 ∨ y.objHeld h = false) :
    y.svcGo p k = (((((y.setChan k (fun _ => {
      port := p, toHost := decide (d = 1), pace := pc, paceSel := ps, noSnoop := ns,
      host := y.reg64 Reg.SVCCH_HOST_LO Reg.SVCCH_HOST_HI k, obj := h, offset := off, len := len, goTick := y.time.tickNum })).setReg
        Reg.SVCCH_DONE_BYTES k 0 0).setChan k (fun q => { q with busy := true }))).setReg Reg.SVCCH_STATUS k 0 (BitVec.ofNat 32 (p * 2 ^ 28))) := by
  unfold State.svcGo
  generalize y.reg Reg.SVCCH_CTRL k = c at f1 f2 f3 f4 ⊢
  generalize (y.reg Reg.SVCCH_LEN k).toNat = a1 at k1 ⊢
  generalize (y.reg Reg.SVCCH_OBJ k).toNat = a2 at k2 ⊢
  generalize (y.reg Reg.SVCCH_OFFSET k).toNat = a3 at k3 ⊢
  subst k1 k2 k3 f1 f2 f3 f4
  dsimp only
  split
  · rename_i c1; rw [hb] at c1; cases c1
  split
  · rename_i c1; exact absurd c1 hm
  split
  · rename_i c1 
    exact absurd c1 (by
      have : ∀ q : ChanSt, ((y.setChan k (fun _ => q)).setReg Reg.SVCCH_DONE_BYTES k 0 0).obj? a2 = some (i, o) := fun _ => ho
      simp only [this, Option.map_some, Option.getD_some]
      exact hr)
  split
  · rename_i c1 
    have : ∀ q : ChanSt, ((y.setChan k (fun _ => q)).setReg Reg.SVCCH_DONE_BYTES k 0 0).objHeld a2 = y.objHeld a2 := fun _ => rfl
    simp only [this] at c1
    rcases hh with h | h
    · simp [h] at c1
    · simp [h] at c1
  rfl

end Sys2Proof.Machine
end

