-- ==== Sys2Proof/Laws/FactsMovers.lean ====
section
/-! SUPPORT. What deliveries, mover errors and releases leave in the fields that statements speak of; frames by their id. -/

namespace Sys2Proof.Machine

/-- A delivery descriptor that passes its checks waits to be bound. -/
theorem State.takeDlv_ok (s : State) (d : Desc) (opcode : Nat) (used : List (Nat × Nat)) (operands : Bool) (x : Ticket → Dlv)
    (h1 : s.takeable d 1 = true) (h2 : d.known = true) (h3 : structOk d (tIs d 9 128) used false = true) (h4 : s.subOn (tIndex d) = true)
    (h5 : s.subRing (tIndex d) = d.ring) (h6 : operands = true) :
    s.takeDlv d opcode used operands x = (s.take d).setMover (fun q => { q with dlv := q.dlv ++
      [{ x { ticketOf d opcode with gen := (s.ring d.ring).gen } with
        ring := d.ring, sub := tIndex d, ticket := { ticketOf d opcode with gen := (s.ring d.ring).gen },
        descNo := (s.ring d.ring).dev.toNat % 2 ^ 24, noSnoop := fNoSnoop d }] }) := by
  have hc : fChain d = false := by
    unfold structOk at h3
    cases hf : fChain d <;> simp [hf] at h3 ⊢
  have h3' : structOk d (tIs d 9 128 && s.subOn (tIndex d) && decide (s.subRing (tIndex d) = d.ring)) used false = true := by
    rw [h4, decide_eq_true h5, Bool.and_true, Bool.and_true]
    exact h3
  have e1 : (s.take d).subOn (tIndex d) = s.subOn (tIndex d) := rfl
  have e2 : (s.take d).subRing (tIndex d) = s.subRing (tIndex d) := rfl
  unfold State.takeDlv
  rw [if_neg (by rw [h1]; simp)]
  dsimp only
  rw [e1, e2, h3', h2, h6, hc, if_neg (by simp), if_pos (by rfl)]

/-- A frame after an update of one frame that keeps its id. -/
theorem State.frame?_setFrame (s : State) (id : Nat) (f : FrameSt → FrameSt) (hf : ∀ x, (f x).id = x.id) (j : Nat) :
    (s.setFrame id f).frame? j = (s.frame? j).map (fun x => if x.id = id then f x else x) := by
  unfold State.frame? State.setFrame
  show (s.store.frames.map (fun x => if x.id = id then f x else x)).find? _ = _
  induction s.store.frames with
  | nil => rfl
  | cons x l ih =>
    rw [List.map_cons, List.find?_cons, List.find?_cons]
    have e : (if x.id = id then f x else x).id = x.id := by
      split
      · exact hf x
      · rfl
    rw [e]
    by_cases h : x.id = j
    · rw [decide_eq_true h]
      rfl
    · rw [decide_eq_false h]
      exact ih

theorem State.frame?_store {s t : State} (h : t.store = s.store) (j : Nat) : t.frame? j = s.frame? j := by
  unfold State.frame?
  rw [h]

theorem State.frame?_id {s : State} {j : Nat} {f : FrameSt} (h : s.frame? j = some f) : f.id = j := by
  unfold State.frame? at h
  have := List.find?_some h
  simpa using this

/-- The test of a tally changes only when the frame's pages may be freed. -/
theorem State.tallyTest_frame (s : State) (id : Nat) (f : FrameSt) (h : s.frame? id = some f) :
    ∃ a, (s.tallyTest id).frame? id = some { f with freeAt := a } := by
  unfold State.tallyTest
  rw [h]
  dsimp only
  split
  · rw [State.frame?_setFrame _ _ (fun f => { f with freeAt := some (s.time.tickNum + 1) }) (fun _ => rfl), h, Option.map_some,
      if_pos (State.frame?_id h)]
    exact ⟨_, rfl⟩
  · exact ⟨f.freeAt, h⟩

/-- A release outside a page-manager recovery drops the holder from its frame. -/
theorem State.releaseIf_frame (s : State) (id h : Nat) (f : FrameSt) (hf : s.frame? id = some f) (hl : f.live = true)
    (hh : f.hold.has h = true) (hr : s.store.recovery = none) (hq : s.store.queued = []) :
    ∃ a, (s.releaseIf id h).frame? id = some { f with hold := f.hold.drop h, freeAt := a } := by
  unfold State.releaseIf
  rw [hf]
  dsimp only
  rw [hl, hh, hq]
  simp only [Bool.true_and, List.any_nil, Bool.not_false, if_true]
  unfold State.release
  rw [hr]
  simp only [Option.isSome_none, Bool.false_eq_true, if_false]
  unfold State.releaseNow
  rw [hf]
  dsimp only
  rw [hl, hh]
  simp only [Bool.and_self, if_true]
  have h1 : (s.setFrame id (fun f => { f with hold := f.hold.drop h })).frame? id = some { f with hold := f.hold.drop h } := by
    rw [State.frame?_setFrame _ _ (fun f => { f with hold := f.hold.drop h }) (fun _ => rfl), hf, Option.map_some, if_pos (State.frame?_id hf)]
  obtain ⟨a, ha⟩ := State.tallyTest_frame _ _ _ h1
  refine ⟨a, ?_⟩
  split
  · exact ha
  · exact ha

/-- A release leaves the registers outside the frame store's window and the unsolicited ones. -/
theorem State.releaseIf_win (s : State) (id h w : Nat) (hw : w ≠ 8) (h2 : 2 < w) : WinSame w s (s.releaseIf id h) := by
  have hev : ∀ (u : State) l, WinSame w u (u.storeEvt l) := by
    intro u l
    unfold State.storeEvt
    dsimp only
    have h1 : WinSame w u (u.orReg Reg.STORE_EVENTS 0 (bitsOf l)) := WinSame.setReg _ _ _ _ _ (by decide) (fun c => hw c.symm)
    split
    · exact h1
    · exact h1.trans (WinSame.post _ _ _ _ _ _ (by omega) (by omega) (by omega))
  have hlog : ∀ (u : State) a b c, WinSame w u (u.logEntry a b c) := fun u a b c => WinSame.of rfl
  have hnow : WinSame w s (s.releaseNow id h) := by
    unfold State.releaseNow
    split
    · exact (hev _ _).trans (hlog _ _ _ _)
    · dsimp only
      split
      · have ht : ∀ u : State, WinSame w u (u.tallyTest id) := fun u => WinSame.of ((State.tallyTest_keeps ..).same .cur rfl)
        have hs : WinSame w s (s.setFrame id (fun f => { f with hold := f.hold.drop h })) := WinSame.of rfl
        split
        · exact (hs.trans (ht _)).trans (WinSame.of rfl)
        · exact hs.trans (ht _)
      · exact (hev _ _).trans (hlog _ _ _ _)
  unfold State.releaseIf
  split
  · split
    · unfold State.release
      split
      · exact WinSame.of rfl
      · exact hnow
    · exact WinSame.refl w s
  · exact WinSame.refl w s

theorem State.endDelivery_core (s u : State) (x : Dlv) (fr : Option Nat) (st : Nat) (pl : List (Nat × Nat × Nat))
    (u1 : u.mover.dlv = s.mover.dlv.filter (fun y => !(decide (y.ring = x.ring) && decide (y.descNo = x.descNo))))
    (u2 : u.rings = s.rings) (u3 : u.cur = s.cur)
    (u4 : ∀ id f, fr = some id → s.frame? id = some f → u.frame? id = some { f with readers := f.readers - 1 })
    (u5 : u.store.recovery = s.store.recovery) (u6 : u.store.queued = s.store.queued) :
    (u.complete x.ticket st pl 2).mover.dlv = s.mover.dlv.filter (fun y => !(decide (y.ring = x.ring) && decide (y.descNo = x.descNo)))
      ∧ (x.ticket.gen = (s.ring x.ticket.ring).gen →
          ((u.complete x.ticket st pl 2).ring x.ticket.ring).outstanding = (s.ring x.ticket.ring).outstanding - 1)
      ∧ (∀ w, 3 < w → WinSame w s (u.complete x.ticket st pl 2))
      ∧ (∀ id f, fr = some id → s.frame? id = some f →
          (u.complete x.ticket st pl 2).frame? id = some { f with readers := f.readers - 1 })
      ∧ (u.complete x.ticket st pl 2).store.recovery = s.store.recovery
      ∧ (u.complete x.ticket st pl 2).store.queued = s.store.queued := by
  have hstore : (u.complete x.ticket st pl 2).store = u.store := (State.complete_keeps ..).same .store rfl
  refine ⟨?_, fun hg => ?_, fun w hw q a b hq => ?_, fun id f hx hf => ?_, ?_, ?_⟩
  · rw [show (u.complete x.ticket st pl 2).mover = u.mover from (State.complete_keeps ..).same .mover rfl, u1]
  · have e : u.ring x.ticket.ring = s.ring x.ticket.ring := by unfold State.ring; rw [u2]
    rw [State.complete_outstanding _ _ _ _ _ (by rw [e]; exact hg.symm), e]
  · rw [State.complete_reg _ _ _ _ _ _ _ _ (quiet_win _ _ _ (by omega) (by omega) (by omega)) (by omega), State.reg_cur u3]
  · rw [State.frame?_store hstore, u4 id f hx hf]
  · rw [hstore, u5]
  · rw [hstore, u6]

/-- The end of a delivery: its descriptor is gone, its frame has a reader less, and its ring owes one less. -/
theorem State.endDelivery_facts (s : State) (x : Dlv) (st parts flags bytes : Nat) :
    (s.endDelivery x st parts flags bytes).mover.dlv = s.mover.dlv.filter (fun y => !(decide (y.ring = x.ring) && decide (y.descNo = x.descNo)))
      ∧ (x.ticket.gen = (s.ring x.ticket.ring).gen →
          ((s.endDelivery x st parts flags bytes).ring x.ticket.ring).outstanding = (s.ring x.ticket.ring).outstanding - 1)
      ∧ (∀ w, 3 < w → WinSame w s (s.endDelivery x st parts flags bytes))
      ∧ (∀ id f, x.frame = some id → s.frame? id = some f →
          (s.endDelivery x st parts flags bytes).frame? id = some { f with readers := f.readers - 1 })
      ∧ (s.endDelivery x st parts flags bytes).store.recovery = s.store.recovery
      ∧ (s.endDelivery x st parts flags bytes).store.queued = s.store.queued := by
  unfold State.endDelivery
  dsimp only
  cases hx : x.frame with
  | none =>
    dsimp only
    refine State.endDelivery_core s _ x _ st _ ?_ ?_ ?_ (fun _ _ c => ?_) ?_ ?_
    · rfl
    · rfl
    · rfl
    · cases c
    · rfl
    · rfl
  | some id =>
    dsimp only
    refine State.endDelivery_core s _ x _ st _ ?_ ?_ ?_ (fun j f c hf => ?_) ?_ ?_
    · rfl
    · rfl
    · rfl
    · cases c
      rw [State.frame?_setFrame _ _ (fun f => { f with readers := f.readers - 1 }) (fun _ => rfl)]
      have e : ∀ m, ({ s with mover := m } : State).frame? id = s.frame? id := fun _ => rfl
      rw [e, hf, Option.map_some, if_pos (State.frame?_id hf)]
    · rfl
    · rfl

theorem State.errRegs_cnt (u : State) (m addr : Nat) (v' v : Word) :
    (((u.setReg Reg.MV_WORK_ID m 0 v').setReg Reg.MV_ERR_INFO m 0 v).set64 Reg.MV_ERR_ADDR_LO Reg.MV_ERR_ADDR_HI m addr).reg Reg.MV_ERR_CNT m
      = u.reg Reg.MV_ERR_CNT m := by
  unfold State.set64
  rw [State.reg_setReg_ne _ _ _ _ _ _ _ _ (by decide) (Or.inr (by simp only [RegRow.addr, Reg.MV_ERR_CNT, Reg.MV_ERR_ADDR_HI]; omega)),
    State.reg_setReg_ne _ _ _ _ _ _ _ _ (by decide) (Or.inr (by simp only [RegRow.addr, Reg.MV_ERR_CNT, Reg.MV_ERR_ADDR_LO]; omega)),
    State.reg_setReg_ne _ _ _ _ _ _ _ _ (by decide) (Or.inr (by simp only [RegRow.addr, Reg.MV_ERR_CNT, Reg.MV_ERR_INFO]; omega)),
    State.reg_setReg_ne _ _ _ _ _ _ _ _ (by decide) (Or.inr (by simp only [RegRow.addr, Reg.MV_ERR_CNT, Reg.MV_WORK_ID]; omega))]

/-- A mover's error counts, and its transfers and descriptors stay as they were. -/
theorem State.moverErr_facts (s : State) (m port src index : Nat) (write : Bool) (kind addr : Nat) :
    (s.moverErr m port src index write kind addr).reg Reg.MV_ERR_CNT m = (s.count Reg.MV_ERR_CNT m).reg Reg.MV_ERR_CNT m
      ∧ (s.moverErr m port src index write kind addr).mover = s.mover
      ∧ (s.moverErr m port src index write kind addr).rings = s.rings := by
  refine ⟨?_, (State.moverErr_keeps ..).same .mover rfl, (State.moverErr_keeps ..).same .rings rfl⟩
  unfold State.moverErr
  dsimp only
  split
  · rfl
  · exact State.errRegs_cnt _ _ _ _ _

/-- The end of a transfer leaves every register of another row, and the movers. -/
theorem State.chanEnd_rest (s : State) (k st : Nat) :
    (∀ q i, q.addr i ≠ Reg.SVCCH_STATUS.addr k → q.addr i ≠ Reg.SVCCH_EVENTS.addr k → (s.chanEnd k st).reg q i = s.reg q i)
      ∧ (s.chanEnd k st).mover.movers = s.mover.movers := by
  have hw : ∀ (x : State) (a : Act) (r i n : Nat), (x.setWork a r i n).cur = x.cur ∧ (x.setWork a r i n).mover = x.mover := by
    intro x a r i n
    unfold State.setWork State.addWork
    split <;> exact ⟨rfl, rfl⟩
  have hr : ∀ (l : List Nat) (x : State), (l.foldl (fun (s : State) j =>
        let r := s.chan j
        if r.busy && !r.started && decide (r.pace = 2) && decide (r.paceSel = k) then s.setChan j (fun q => { q with ready := true })
        else s) x).mover.movers = x.mover.movers := by
    intro l
    induction l with
    | nil => exact fun _ => rfl
    | cons a l ih =>
      intro x
      rw [List.foldl_cons]
      refine (ih _).trans ?_
      dsimp only
      split <;> rfl
  have hv : ∀ (u : State) (n : Word), u.cur = s.cur → ∀ q i, q.addr i ≠ Reg.SVCCH_STATUS.addr k → q.addr i ≠ Reg.SVCCH_EVENTS.addr k →
      ((u.setReg Reg.SVCCH_STATUS k 0 n).setEvt Reg.SVCCH_EVENTS k 0).reg q i = s.reg q i := by
    intro u n hu q i h1 h2
    unfold State.setEvt State.orReg
    rw [State.reg_setReg_ne _ _ _ _ _ _ _ _ (by decide) (Or.inr h2), State.reg_setReg_ne _ _ _ _ _ _ _ _ (by decide) (Or.inr h1), State.reg_cur hu]
  have hm : ∀ (u : State) (n : Word) (f : ChanSt → ChanSt), u.mover.movers = s.mover.movers →
      (((u.setChan k f).setReg Reg.SVCCH_STATUS k 0 n).setEvt Reg.SVCCH_EVENTS k 0).mover.movers = s.mover.movers := fun u n f h => h
  have hu : ∀ left, (([8, 9] : List Nat).foldl (fun s r => s.setWork .service r 0 (s.pendingWork .service r 0 - left)) s).cur = s.cur
      ∧ (([8, 9] : List Nat).foldl (fun s r => s.setWork .service r 0 (s.pendingWork .service r 0 - left)) s).mover = s.mover := fun left => by
    simp only [List.foldl_cons, List.foldl_nil, (hw _ _ _ _ _).1, (hw _ _ _ _ _).2, and_self]
  unfold State.chanEnd
  dsimp only
  generalize (if (s.chan k).started = true then (s.chan k).len - (s.chan k).done else 0) = left
  obtain ⟨u1, u2⟩ := hu left
  generalize List.foldl (fun s r => s.setWork Act.service r 0 (s.pendingWork Act.service r 0 - left)) s [8, 9] = u at u1 u2 ⊢
  generalize BitVec.ofNat 32 ((s.chan k).port * 2 ^ 28 + st) = n
  have hv' := hv (u.setChan k (fun q => { q with busy := false, ready := false, started := false, status := st })) n u1
  have hm' := hm u n (fun q => { q with busy := false, ready := false, started := false, status := st }) (congrArg MoverState.movers u2)
  generalize (State.setEvt _ Reg.SVCCH_EVENTS k 0) = v at hv' hm' ⊢
  split
  · obtain ⟨r1, _⟩ := State.readyChans_frame k (List.range 8) v
    refine ⟨fun q i h1 h2 => ?_, ?_⟩
    · rw [State.reg_cur r1]
      exact hv' q i h1 h2
    · rw [hr]
      exact hm'
  · exact ⟨hv', hm'⟩

/-- A halted mover reads HALTED; deliveries, channels, registers and rings stay. -/
theorem State.haltMover_facts (s : State) (m : Nat) :
    ((s.haltMover m).mover.movers.get ({} : MoverSt) m).run = 3 ∧ (s.haltMover m).mover.dlv = s.mover.dlv
      ∧ (s.haltMover m).mover.chans = s.mover.chans ∧ (s.haltMover m).cur = s.cur ∧ (s.haltMover m).rings = s.rings := by
  refine ⟨?_, rfl, rfl, rfl, rfl⟩
  unfold State.haltMover
  dsimp only [State.setMover]
  rw [Tab.get_upd_self]

/-- A read of a transfer into an object fails. -/
theorem State.moverBusError_chan (s : State) (m kind addr : Nat) (hk1 : 1 ≤ kind) (hk2 : kind ≤ 4)
    (hrun : (s.mover.movers.get ({} : MoverSt) m).run = 1) (hwork : (s.mover.movers.get ({} : MoverSt) m).work = 2) (hb : (s.chan (s.mover.movers.get ({} : MoverSt) m).id).busy = true)
    (hst : (s.chan (s.mover.movers.get ({} : MoverSt) m).id).started = true)
    (hto : (s.chan (s.mover.movers.get ({} : MoverSt) m).id).toHost = false) : s.moverBusError m kind addr =
      ((s.haltMover m).moverErr m
        (s.chan (s.mover.movers.get ({} : MoverSt) m).id).port 1 (s.mover.movers.get ({} : MoverSt) m).id false kind addr).chanEnd
          (s.mover.movers.get ({} : MoverSt) m).id stBusError := by
  unfold State.moverBusError
  dsimp only
  rw [if_neg (by rw [hrun]; omega), hwork]
  show (if _ then _ else _) = _
  rw [if_pos]
  rw [hb, hst, hto]
  rfl

/-- A read of a spilled frame fails. -/
theorem State.moverBusError_sub (s : State) (m kind addr w : Nat) (ps : List Nat) (x : Dlv) (f : FrameSt) (hk1 : 1 ≤ kind) (hk2 : kind ≤ 4)
    (hrun : (s.mover.movers.get ({} : MoverSt) m).run = 1) (hwork : (s.mover.movers.get ({} : MoverSt) m).work = 1)
    (hfind : s.mover.dlv.find? (fun y => decide (y.ring = (s.mover.movers.get ({} : MoverSt) m).ring)
        && decide (y.descNo = (s.mover.movers.get ({} : MoverSt) m).descNo)) = some x)
    (hfr : x.frame.bind (fun id => s.frame? id) = some f) (hloc : f.loc = .spilled w ps) (hhalt : x.halted = false) :
    s.moverBusError m kind addr = (((((s.haltMover m).moverErr m
      (s.spwAt w) 0 x.ring false kind addr).setDlv x (fun y => { y with halted := true })).ringBus x.ring addr).post 0 0x51
        (target 0xA (((((s.haltMover m).moverErr m
      (s.spwAt w) 0 x.ring false kind addr).setDlv x (fun y => { y with halted := true })).ringBus x.ring addr).ringPort x.ring)) []) := by
  unfold State.moverBusError
  dsimp only
  rw [if_neg (by rw [hrun]; omega), hwork]
  rw [hfind]
  dsimp only
  rw [hfr, Option.map_some, hloc]
  dsimp only
  rw [hhalt]
  rfl

end Sys2Proof.Machine
end

