-- ==== Sys2Proof/Laws/FactsIngest.lean ====
section
/-! SUPPORT. What the end of a frame's input, a trigger and a time step leave in the fields that statements speak of. -/

namespace Sys2Proof.Machine

/-- The end of an open frame's input. -/
theorem State.endInput_frame (s : State) (x : FrameSt) (cause : FEnd) (h : s.frame? x.id = some x) :
    ∃ g, (s.endInput x.id cause).frame? x.id = some g ∧ g.phase = .ended ∧ g.endCause = cause ∧ g.endTick = s.time.tickNum
      ∧ g.id = x.id ∧ g.stream = x.stream ∧ g.lines = x.lines ∧ g.linesSent = x.linesSent
      ∧ (cause = .nak ∨ cause = .fsWindow → g.expEnd = x.t) ∧ (cause = .feWindow → g.expEnd = x.lastLine)
      ∧ (cause = .frameEnd → g.expEnd = x.expEnd ∧ g.status = x.status ∧ g.headFlags = x.headFlags) := by
  unfold State.endInput
  rw [h]
  dsimp only
  generalize hg : (fun f : FrameSt => (_ : FrameSt)) = g
  have hid : ∀ f, (g f).id = f.id := by rw [← hg]; exact fun _ => rfl
  rw [State.frame?_setFrame _ _ g hid, h, Option.map_some, if_pos rfl]
  refine ⟨_, rfl, ?_⟩
  rw [← hg]
  refine ⟨rfl, rfl, rfl, rfl, rfl, rfl, rfl, ?_, ?_, ?_⟩
  · rintro (e | e) <;> subst e <;> rfl
  · intro e; subst e; rfl
  · intro e; subst e; exact ⟨rfl, rfl, rfl⟩

/-- The CANARY event stands in ST_EVENTS; no register outside the streams' window and the unsolicited ones changes, and no frame. -/
theorem State.canary_facts (s : State) (f : FrameSt) (cause reason : Nat) :
    bit ((s.canary f cause reason).reg Reg.ST_EVENTS f.stream) 0 = true
      ∧ (∀ w, w ≠ 6 → 2 < w → WinSame w s (s.canary f cause reason)) ∧ (s.canary f cause reason).store = s.store := by
  unfold State.canary
  refine ⟨?_, fun w h h2 => ?_, ?_⟩
  · rw [(State.healthFail_postSame ..).reg _ _ _ (quiet_win _ _ _ (by decide) (by decide) (by decide)),
      (State.post_postSame ..).reg _ _ _ (quiet_win _ _ _ (by decide) (by decide) (by decide))]
    exact State.setEvt_bit _ _ _ _ (by decide) (by decide)
  · exact ((WinSame.setEvt _ _ _ _ (by decide) (fun c => h c.symm)).trans (WinSame.post _ _ _ _ _ _ (by omega) (by omega) (by omega))).trans
      (WinSame.ofPost (State.healthFail_postSame ..) (by omega) (by omega) (by omega))
  · rw [(State.healthFail_keeps ..).same .store rfl, State.post_store]
    rfl

theorem State.setTime_tickAhead (s : State) (f : TimeState → TimeState) (h : (f s.time).tickEnd = s.time.tickEnd) (n : Nat) :
    (s.setTime f).tickAhead n = s.tickAhead n := by
  induction n with
  | zero => exact h
  | succ n ih => exact congrArg (tickEndAfter s.periodUnits) ih

/-- Updates of several frames by one update that a second time changes nothing. -/
theorem State.setFrames_foldl (g : FrameSt → FrameSt) (hid : ∀ f, (g f).id = f.id) (hgg : ∀ f, g (g f) = g f)
    (put : State → FrameSt → State) (hput : ∀ s f, (put s f).store = s.store) (l : List FrameSt) (s : State) :
    (l.foldl (fun s f => (put s f).setFrame f.id g) s).store
      = { s.store with frames := s.store.frames.map (fun x => if x.id ∈ l.map (·.id) then g x else x) } := by
  induction l generalizing s with
  | nil => simp
  | cons a l ih =>
    rw [List.foldl_cons, ih]
    have h : ((put s a).setFrame a.id g).store = { s.store with frames := s.store.frames.map (fun x => if x.id = a.id then g x else x) } := by
      unfold State.setFrame State.setStore
      rw [hput]
    rw [h]
    dsimp only
    rw [List.map_map]
    congr 1
    apply List.map_congr_left
    intro x _
    simp only [Function.comp, List.map_cons, List.mem_cons]
    by_cases h1 : x.id = a.id
    · rw [if_pos h1, hid, if_pos (Or.inl h1)]
      split
      · exact hgg x
      · rfl
    · rw [if_neg h1]
      by_cases h2 : x.id ∈ l.map (·.id)
      · rw [if_pos h2, if_pos (Or.inr h2)]
      · rw [if_neg h2, if_neg (fun c => c.elim h1 h2)]

theorem State.fold_time {α : Type} (f : State → α → State) (l : List α) (s : State) (h : ∀ s a, (f s a).time = s.time) :
    (l.foldl f s).time = s.time := by
  induction l generalizing s with
  | nil => rfl
  | cons a l ih => rw [List.foldl_cons, ih, h]

/-- With ids all different, a frame's id stands among those of the filtered frames when the frame satisfies the filter. -/
theorem mem_filter_ids {fs : List FrameSt} (h : (fs.map (·.id)).Nodup) (q : FrameSt → Bool) (x : FrameSt) (hx : x ∈ fs) :
    x.id ∈ (fs.filter q).map (·.id) ↔ q x = true := by
  constructor
  · intro c
    obtain ⟨y, hy, e⟩ := List.mem_map.mp c
    obtain ⟨y1, y2⟩ := List.mem_filter.mp hy
    have : ∀ l : List FrameSt, (l.map (·.id)).Nodup → x ∈ l → y ∈ l → y = x := by
      intro l
      induction l with
      | nil => intro _ c; cases c
      | cons a l ih =>
        intro hn hx hy
        rw [List.map_cons, List.nodup_cons] at hn
        rcases List.mem_cons.mp hx with ex | ex <;> rcases List.mem_cons.mp hy with ey | ey
        · rw [ex, ey]
        · exact absurd (List.mem_map.mpr ⟨y, ey, by rw [e, ex]⟩) hn.1
        · exact absurd (List.mem_map.mpr ⟨x, ex, by rw [← e, ey]⟩) hn.1
        · exact ih hn.2 ex ey
    rw [← this fs h hx y1]
    exact y2
  · intro c
    exact List.mem_map.mpr ⟨x, List.mem_filter.mpr ⟨hx, c⟩, rfl⟩

/-- What the time unit holds beside its pulses, its compare units, PPS_OUT and the servo: two records that agree in it. -/
def TimeCore (a b : TimeState) : Prop :=
  b.now = a.now ∧ b.tickStart = a.tickStart ∧ b.epoch = a.epoch ∧ b.isSet = a.isSet ∧ b.decided = a.decided ∧ b.pendingStep = a.pendingStep
    ∧ (∀ r, (b.timers.get ({} : RtmrSt) r).running = (a.timers.get ({} : RtmrSt) r).running
        ∧ (b.timers.get ({} : RtmrSt) r).s0 = (a.timers.get ({} : RtmrSt) r).s0)

theorem TimeCore.refl (a : TimeState) : TimeCore a a := ⟨rfl, rfl, rfl, rfl, rfl, rfl, fun _ => ⟨rfl, rfl⟩⟩

theorem TimeCore.of {a b : TimeState} (h : b = a) : TimeCore a b := h ▸ TimeCore.refl a

theorem TimeCore.trans {a b c : TimeState} (h : TimeCore a b) (k : TimeCore b c) : TimeCore a c := by
  obtain ⟨h1, h2, h3, h4, h5, h6, h7⟩ := h
  obtain ⟨k1, k2, k3, k4, k5, k6, k7⟩ := k
  exact ⟨k1.trans h1, k2.trans h2, k3.trans h3, k4.trans h4, k5.trans h5, k6.trans h6,
    fun r => ⟨(k7 r).1.trans (h7 r).1, (k7 r).2.trans (h7 r).2⟩⟩

theorem TimeCore.ite {a : TimeState} {s t : State} (c : Prop) [Decidable c] (h : TimeCore a s.time) (k : TimeCore a t.time) :
    TimeCore a (if c then s else t).time := by split <;> assumption

theorem State.setServo_core (s : State) (v : Servo) : TimeCore s.time (s.setServo v).time := by
  unfold State.setServo
  dsimp only
  split
  · exact TimeCore.refl _
  · generalize hu : State.post _ 5 0x3A 0 _ = u
    have h : TimeCore s.time u.time := by
      rw [← hu, State.post_time]
      repeat' apply TimeCore.ite
      all_goals exact ⟨rfl, rfl, rfl, rfl, rfl, rfl, fun _ => ⟨rfl, rfl⟩⟩
    obtain ⟨o, ho⟩ := u.ppsGate_time
    exact h.trans (by rw [ho]; exact ⟨rfl, rfl, rfl, rfl, rfl, rfl, fun _ => ⟨rfl, rfl⟩⟩)

theorem State.tcmpActs_core (s : State) (u : Nat) (b : Bool) : TimeCore s.time (s.tcmpActs u b).time := by
  have go : ∀ (c : Prop) [Decidable c] (f : State → State) (v : State), (∀ v : State, TimeCore v.time (f v).time) → TimeCore s.time v.time →
      TimeCore s.time (if c then f v else v).time := fun c _ f v hf hv => TimeCore.ite c (hv.trans (hf v)) hv
  unfold State.tcmpActs
  dsimp only
  refine TimeCore.trans ?_ (TimeCore.of ((State.paceChannels_keeps ..).same .time rfl))
  apply go _ (fun v => v.paceCredit u) _ (fun v => TimeCore.of ((State.paceCredit_keeps ..).same .time rfl))
  apply go _ (fun v => v.post 5 0x3C _ _) _ (fun v => TimeCore.of (State.post_time ..))
  apply go _ (fun v => v.pulse _ _ _) _ (fun v => by
    unfold State.pulse
    dsimp only
    split <;> exact ⟨rfl, rfl, rfl, rfl, rfl, rfl, fun _ => ⟨rfl, rfl⟩⟩)
  apply go _ (fun v => v.setEvt _ _ _) _ (fun v => TimeCore.refl _)
  exact TimeCore.refl _

theorem State.setF_time' (s : State) (r : RegRow) (i hi lo v : Nat) : (s.setF r i hi lo v).time = s.time := rfl

theorem State.tcmpFire_core (s : State) (u : Nat) (b : Bool) : TimeCore s.time (s.tcmpFire u b).time := by
  unfold State.tcmpFire
  dsimp only
  generalize hv : s.tcmpActs u b = v
  have h : TimeCore s.time v.time := by rw [← hv]; exact s.tcmpActs_core u b
  clear hv
  split
  · split
    · split
      · rw [State.setF_time', State.set64_time]; exact h
      · rw [State.set64_time]; exact h
    · exact h.trans ⟨rfl, rfl, rfl, rfl, rfl, rfl, fun _ => ⟨rfl, rfl⟩⟩
  · exact TimeCore.refl _

/-- Every timer's run after a map of the timers. -/
theorem shiftTimers_get (dx : Int) (f : RtmrSt → RtmrSt) 
    (hf : ∀ q, (f q).running = q.running ∧ (f q).s0 = if q.running then q.s0 + dx else q.s0) (t : Tab RtmrSt) (r : Nat) :
    (Tab.get ({} : RtmrSt) (t.map (fun e => (e.1, f e.2))) r).running = (Tab.get ({} : RtmrSt) t r).running
      ∧ (Tab.get ({} : RtmrSt) (t.map (fun e => (e.1, f e.2))) r).s0 =
        if (Tab.get ({} : RtmrSt) t r).running then (Tab.get ({} : RtmrSt) t r).s0 + dx else (Tab.get ({} : RtmrSt) t r).s0 := by
  induction t with
  | nil => exact ⟨rfl, rfl⟩
  | cons e t ih =>
    obtain ⟨k, v⟩ := e
    rw [List.map_cons]
    show (if r = k then f v else Tab.get ({} : RtmrSt) (t.map (fun e => (e.1, f e.2))) r).running
        = (if r = k then v else Tab.get ({} : RtmrSt) t r).running ∧ _
    by_cases hk : r = k
    · have e1 : Tab.get ({} : RtmrSt) ((k, f v) :: t.map (fun e => (e.1, f e.2))) r = f v := if_pos hk
      have e2 : Tab.get ({} : RtmrSt) ((k, v) :: t) r = v := if_pos hk
      rw [e1, e2, if_pos hk, if_pos hk]
      exact hf v
    · have e1 : Tab.get ({} : RtmrSt) ((k, f v) :: t.map (fun e => (e.1, f e.2))) r = Tab.get ({} : RtmrSt) (t.map (fun e => (e.1, f e.2))) r := if_neg hk
      have e2 : Tab.get ({} : RtmrSt) ((k, v) :: t) r = Tab.get ({} : RtmrSt) t r := if_neg hk
      rw [e1, e2, if_neg hk, if_neg hk]
      exact ih

theorem State.stepClock_facts (s : State) (x : Int) :
    (s.stepClock x).store = s.store ∧ (s.stepClock x).time.now = ((s.time.now : Int) + x).toNat
      ∧ (s.stepClock x).time.tickStart = ((s.time.tickStart : Int) + x).toNat
      ∧ (s.stepClock x).time.epoch = (s.time.epoch + 1) % 256 ∧ (s.stepClock x).time.isSet = true
      ∧ (s.stepClock x).time.decided = none ∧ (s.stepClock x).time.pendingStep = none
      ∧ ∀ r, ((s.stepClock x).timer r).running = (s.timer r).running ∧ ((s.stepClock x).timer r).s0 =
          if (s.timer r).running then (s.timer r).s0 + x / (2 ^ 32 : Nat) else (s.timer r).s0 := by
  refine ⟨rfl, rfl, rfl, rfl, rfl, rfl, rfl, fun r => ?_⟩
  exact shiftTimers_get (x / (2 ^ 32 : Nat)) (fun e =>
      if ({ e with recent := e.recent.map (· + x / (2 ^ 32 : Nat)) } : RtmrSt).running then
        { ({ e with recent := e.recent.map (· + x / (2 ^ 32 : Nat)) } : RtmrSt) with
          s0 := e.s0 + x / (2 ^ 32 : Nat), last := e.last.map (fun e => (e.1, e.2 + x / (2 ^ 32 : Nat))) }
      else { e with recent := e.recent.map (· + x / (2 ^ 32 : Nat)) }) (fun q => by
        dsimp only
        split
        · exact ⟨rfl, rfl⟩
        · exact ⟨rfl, rfl⟩) s.time.timers r

theorem State.stepLtc_core (s : State) : TimeCore s.time s.stepLtc.time ∧ s.stepLtc.store = s.store :=
  ⟨⟨rfl, rfl, rfl, rfl, rfl, rfl, fun _ => ⟨rfl, rfl⟩⟩, rfl⟩

theorem State.stepAlign_core (s : State) : TimeCore s.time s.stepAlign.time ∧ s.stepAlign.store = s.store := by
  unfold State.stepAlign
  generalize List.range 16 = l
  induction l generalizing s with
  | nil => exact ⟨TimeCore.refl _, rfl⟩
  | cons r l ih =>
    rw [List.foldl_cons]
    obtain ⟨h1, h2⟩ := ih (if (s.timer r).running && decide (s.rtmrAlign r = 0) then
      s.setTimer r (fun q => { q with alignErr := some (s.alignDistance r) }) else s)
    refine ⟨TimeCore.trans ?_ h1, h2.trans ?_⟩
    · split
      · refine ⟨rfl, rfl, rfl, rfl, rfl, rfl, fun k => ?_⟩
        have e := State.timer_setTimer s r k (fun q => { q with alignErr := some (s.alignDistance r) })
        unfold State.timer at e
        rw [e]
        split
        · next h => rw [h]; exact ⟨rfl, rfl⟩
        · exact ⟨rfl, rfl⟩
      · exact TimeCore.refl _
    · split <;> rfl

theorem State.stepTold_core (s : State) (d : StepPlan) (x : Int) : TimeCore s.time (s.stepTold d x).time ∧ (s.stepTold d x).store = s.store := by
  refine ⟨?_, (State.stepTold_keeps ..).same .store rfl⟩
  unfold State.stepTold
  dsimp only
  have h1 : TimeCore s.time ((s.setEvt Reg.TIME_EVENTS 0 1).post 5 0x39 0 [(16, 8, ofSigned 64 (x / (nsUnit : Int))), (24, 1, s.time.epoch)]).time :=
    TimeCore.of (State.post_time ..)
  have hf : ∀ (l : List Nat) (u : State), TimeCore u.time (l.foldl (fun s u => s.tcmpFire u true) u).time := by
    intro l
    induction l with
    | nil => exact fun u => TimeCore.refl _
    | cons a l ih => exact fun u => (u.tcmpFire_core a true).trans (ih _)
  have hc : ∀ (u : State) (t : Option Ticket) pl, TimeCore u.time (u.completeOpt t stDone pl).time :=
    fun u t pl => TimeCore.of ((State.completeOpt_keeps ..).same .time rfl)
  generalize ((s.setEvt Reg.TIME_EVENTS 0 1).post 5 0x39 0 _) = u at h1 ⊢
  have h2 : TimeCore s.time (if (decide (u.source = 0) && d.isSet) = true then u else u.setServo .acquire).time :=
    TimeCore.ite _ h1 (h1.trans (u.setServo_core _))
  generalize (if (decide (u.source = 0) && d.isSet) = true then u else u.setServo .acquire) = v at h2 ⊢
  apply TimeCore.ite
  · exact (h2.trans (hc v _ _)).trans (hf _ _)
  · exact h2.trans (hc v _ _)

/-- The frame that a trigger opens takes the oldest returned record slot. -/
theorem State.triggerFrame_facts (s : State) (r st n i : Nat) (rest : List Nat) (t : Int) (imm : Bool)
    (h4 : (s.stream st).lost = false) (h5 : s.store.slotBack = i :: rest) (h6 : s.stepNow = none) :
    (s.triggerFrame r st n t imm).store.slotBack = rest ∧ (s.triggerFrame r st n t imm).store.nextId = s.store.nextId + 1
      ∧ ((s.triggerFrame r st n t imm).stream st).trig = (s.stream st).trig ++ [((s.run r).run, n)]
      ∧ (∃ f ∈ (s.triggerFrame r st n t imm).store.frames, f.id = s.store.nextId ∧ f.stream = st ∧ f.rig = r ∧ f.frame = n
          ∧ f.run = (s.run r).run ∧ f.phase = .triggered ∧ f.slot = some i ∧ f.t = t ∧ f.epoch = s.time.epoch)
      ∧ (s.triggerFrame r st n t imm).time = s.time := by
  unfold State.triggerFrame
  rw [h6]
  dsimp only
  rw [h4]
  simp only [Bool.false_eq_true, if_false]
  generalize hu : State.setStream (State.setStore s _) st _ = u
  have u1 : u.store.slotBack = i :: rest := by rw [← hu]; exact h5
  have u2 : u.store.nextId = s.store.nextId + 1 := by rw [← hu]; rfl
  have u3 : (u.stream st).trig = (s.stream st).trig ++ [((s.run r).run, n)] := by
    rw [← hu]
    show (Tab.get ({} : StreamSt) (Tab.upd ({} : StreamSt) s.store.streams st (fun q => { q with trig := q.trig ++ [((s.run r).run, n)] })) st).trig = _
    rw [Tab.get_upd_self]
    rfl
  have u4 : u.time = s.time := by rw [← hu]; rfl
  clear hu
  unfold State.allocSlot
  rw [u1]
  dsimp only
  have hk : ∀ v : State, (v.putTrigger st n s.time.epoch (b2n imm) t).store = v.store ∧ (v.putTrigger st n s.time.epoch (b2n imm) t).time = v.time :=
    fun v => ⟨(State.putTrigger_keeps ..).same .store rfl, (State.putTrigger_keeps ..).same .time rfl⟩
  unfold State.stream
  simp only [(hk _).1, (hk _).2]
  refine ⟨rfl, u2, u3, ⟨_, List.mem_append_right _ (List.mem_singleton.mpr rfl), rfl, rfl, rfl, rfl, rfl, rfl, rfl, rfl, rfl⟩, u4⟩

/-- An earlier open, a release or a count leaves the frame that a packet of a stream belongs to. -/
theorem State.matchFrame_congr {s t : State} (h1 : t.store = s.store) (h2 : t.takes = s.takes) (st n : Nat) :
    t.matchFrame st n = s.matchFrame st n := by
  unfold State.matchFrame State.run
  rw [h1, h2]

theorem State.slotStream_congr {s t : State} (h : t.cfg = s.cfg) (l n : Nat) : t.slotStream l n = s.slotStream l n := by
  unfold State.slotStream State.linkStreams State.streamOn State.streamLink State.streamSlot State.actF State.act State.activeSet
  rw [h]

/-- A packet of a stream whose frame number matches a frame that is not missed is handled as that frame's. -/
theorem State.onFrame_run (s : State) (l st : Nat) (p : Pkt) (x : FrameSt) (f : Nat → Option FrameSt → State → State)
    (h1 : s.slotStream l p.slot = some st) (h2 : s.matchFrame st (leAt p.fields 0 4) = some x) (h3 : x.phase ≠ .missed) :
    s.onFrame l p f = f st (some x) s := by
  unfold State.onFrame
  rw [h1]
  dsimp only
  rw [h2]
  dsimp only
  rw [if_neg h3]

theorem State.matchFrame_stream {s : State} {st n : Nat} {x : FrameSt} (h : s.matchFrame st n = some x) : x.stream = st ∧ x.frame = n := by
  unfold State.matchFrame at h
  have := List.find?_some h
  simp only [Bool.and_eq_true, decide_eq_true_eq] at this
  exact ⟨this.1.1.1, this.1.1.2⟩

theorem State.frame?_frames {s t : State} (h : t.store.frames = s.store.frames) (j : Nat) : t.frame? j = s.frame? j := by
  unfold State.frame?
  rw [h]

theorem State.setFrame_frame_ne (s : State) (id j : Nat) (f : FrameSt → FrameSt) (hf : ∀ x, (f x).id = x.id) (h : j ≠ id) :
    (s.setFrame id f).frame? j = s.frame? j := by
  rw [State.frame?_setFrame _ _ f hf]
  cases e : s.frame? j with
  | none => rfl
  | some x => rw [Option.map_some, if_neg (by rw [State.frame?_id e]; exact h)]

theorem State.setFrame_frame_self (s : State) (id : Nat) (x : FrameSt) (f : FrameSt → FrameSt) (hf : ∀ x, (f x).id = x.id)
    (h : s.frame? id = some x) : (s.setFrame id f).frame? id = some (f x) := by
  rw [State.frame?_setFrame _ _ f hf, h, Option.map_some, if_pos (State.frame?_id h)]

theorem State.frame?_of_unique {s : State} {st n : Nat} {x : FrameSt} (h : s.matchFrame st n = some x)
    (hu : ∀ g ∈ s.store.frames, g.id = x.id → g = x) : s.frame? x.id = some x := by
  unfold State.matchFrame at h
  have hm := List.mem_of_find?_eq_some h
  unfold State.frame?
  cases e : s.store.frames.find? (fun f => decide (f.id = x.id)) with
  | none => exact absurd (decide_eq_true rfl) (List.find?_eq_none.mp e x hm)
  | some g =>
    have h1 := List.mem_of_find?_eq_some e
    have h2 := List.find?_some e
    rw [hu g h1 (by simpa using h2)]

/-- The end of other frames' input leaves a frame the only one of its id. -/
theorem State.endInputs_unique (l : List FrameSt) (s : State) (x : FrameSt) (hl : ∀ g ∈ l, x.id ≠ g.id)
    (h : ∀ g ∈ s.store.frames, g.id = x.id → g = x) :
    ∀ g ∈ (l.foldl (fun (s : State) g => s.endInput g.id .nextStart) s).store.frames, g.id = x.id → g = x := by
  induction l generalizing s with
  | nil => exact h
  | cons a l ih =>
    rw [List.foldl_cons]
    refine ih _ (fun g hg => hl g (List.mem_cons_of_mem _ hg)) ?_
    unfold State.endInput
    split
    · exact h
    · dsimp only
      intro g hg he
      obtain ⟨y, hy, e⟩ := List.mem_map.mp hg
      by_cases hya : y.id = a.id
      · rw [if_pos hya] at e
        have hid : g.id = y.id := by rw [← e]
        exact absurd (he.symm.trans (hid.trans hya)) (hl a List.mem_cons_self)
      · rw [if_neg hya] at e
        rw [← e] at he ⊢
        exact h y hy he

/-- The open of a frame latches the active set; no other frame changes. -/
theorem State.openFrame_frame (s : State) (id : Nat) (x : FrameSt) (h : s.frame? id = some x) :
    (∃ g, (s.openFrame id).frame? id = some g ∧ g.phase = .opened ∧ g.latch = s.activeSet ∧ g.version = s.cfg.activeVer
      ∧ g.id = x.id ∧ g.stream = x.stream ∧ g.frame = x.frame ∧ g.lines = x.lines ∧ g.fsAt = x.fsAt ∧ g.echo = x.echo ∧ g.slot = x.slot
      ∧ g.expStart = x.expStart)
    ∧ ∀ j, j ≠ id → (s.openFrame id).frame? j = s.frame? j := by
  unfold State.openFrame
  rw [h]
  dsimp -zeta only
  lift_lets
  intro st r l tk s1
  have h1 : Keeps 263709 s s1 := by
    unfold s1
    cases tk with
    | none => exact Keeps.refl _ _
    | some t =>
      dsimp only
      split
      · exact Keeps.after (m := 263709) (State.burstDecide_keeps ..) (by decide) (Keeps.refl _ _)
      · exact Keeps.refl _ _
  clear_value s1
  intro inBurst fits s2
  have h2 : Keeps 263709 s s2 := by
    unfold s2
    exact Keeps.ite (Keeps.after (m := 263709) (State.setReg_keeps ..) (by decide) h1) h1
  clear_value s2
  intro covers shedding s3
  have h3 : Keeps 263709 s s3 := by
    unfold s3
    exact Keeps.foldl (fun _ _ a => Keeps.after (m := 263709) (State.shed_keeps ..) (by decide) a) h2
  clear_value s3
  intro ring gave s4
  have h4 : Keeps 263709 s s4 := by
    unfold s4
    exact Keeps.ite (Keeps.after (m := 263709) (State.count_keeps ..) (by decide) h3) h3
  clear_value s4
  intro cap pvOnly subs hold late s5
  have h5 : s5.store.frames = s.store.frames ∧ s5.cfg = s.cfg := by
    unfold s5
    have a : s4.store = s.store := h4.same .store rfl
    have b : s4.cfg = s.cfg := h4.same .cfg rfl
    split
    · exact ⟨(show _ = s4.store.frames from rfl).trans (congrArg StoreState.frames a), b⟩
    · exact ⟨congrArg StoreState.frames a, b⟩
  clear_value s5
  have e : s5.activeSet = s.activeSet := by unfold State.activeSet; rw [h5.2]
  constructor
  · refine ⟨_, State.setFrame_frame_self _ _ x _ (fun _ => rfl) (by rw [State.frame?_frames h5.1]; exact h), rfl, e, ?_, rfl, rfl, rfl, rfl, rfl, rfl, rfl, rfl⟩
    show s5.cfg.activeVer = _
    rw [h5.2]
  · intro j hj
    refine Eq.trans (State.setFrame_frame_ne s5 id j _ (fun y => ?_) hj) (State.frame?_frames h5.1 j)
    rfl

/-- A release touches no other frame. -/
theorem State.releaseIf_frame_ne (s : State) (id h j : Nat) (hj : j ≠ id) : (s.releaseIf id h).frame? j = s.frame? j := by
  have ht : ∀ u : State, (u.tallyTest id).frame? j = u.frame? j := by
    intro u
    unfold State.tallyTest
    split
    · split
      · exact State.setFrame_frame_ne _ _ _ _ (fun _ => rfl) hj
      · rfl
    · rfl
  have he : ∀ (u : State) l a b c, ((u.storeEvt l).logEntry a b c).frame? j = u.frame? j := fun u l a b c =>
    State.frame?_store (show ((u.storeEvt l).logEntry a b c).store = u.store from (State.storeEvt_keeps ..).same .store rfl) j
  unfold State.releaseIf
  split
  · split
    · unfold State.release
      split
      · rfl
      · unfold State.releaseNow
        split
        · exact he ..
        · dsimp only
          split
          · split
            · exact (ht _).trans (State.setFrame_frame_ne _ _ _ _ (fun _ => rfl) hj)
            · exact (ht _).trans (State.setFrame_frame_ne _ _ _ _ (fun _ => rfl) hj)
          · exact he ..
    · rfl
  · rfl

theorem State.fold_frame {α : Type} (f : State → α → State) (l : List α) (s : State) (j : Nat)
    (h : ∀ s, ∀ a ∈ l, (f s a).frame? j = s.frame? j) : (l.foldl f s).frame? j = s.frame? j := by
  induction l generalizing s with
  | nil => rfl
  | cons a l ih =>
    rw [List.foldl_cons, ih _ (fun s b hb => h s b (List.mem_cons_of_mem _ hb)), h s a List.mem_cons_self]

/-- A preview that leaves the ring touches no other frame. -/
theorem State.previewGone_frame_ne (s : State) (g : FrameSt) (j : Nat) (hj : j ≠ g.id) : (s.previewGone g).frame? j = s.frame? j := by
  unfold State.previewGone
  split
  · rfl
  · dsimp only
    rw [State.fold_frame _ _ _ _ (fun u k _ => ?_), State.fold_frame _ _ _ _ (fun u k _ => ?_)]
    · exact State.setFrame_frame_ne s _ _ _ (fun _ => rfl) hj
    · exact (State.releaseIf_frame_ne _ _ _ _ hj).trans rfl
    · refine State.frame?_store (?_ : State.store _ = u.store) j
      have h1 : ∀ v : State, (v.setEvt Reg.ST_PIPE_EVENTS g.stream 2).store = v.store := fun _ => rfl
      have h2 : ∀ v : State, (v.count Reg.ST_PV_SHED_CNT g.stream).store = v.store := fun _ => rfl
      rw [h1, h2]
      exact (State.shed_keeps ..).same .store rfl

/-- A frame that has not opened opens: previews of older frames may leave the ring. -/
theorem State.openNow_frame (s : State) (id : Nat) (x : FrameSt) (h : s.frame? id = some x) (hl : x.live = false)
    (hu : ∀ g ∈ s.store.frames, g.id = id → g = x) :
    ∃ g, (s.openNow id).frame? id = some g ∧ g.phase = .opened ∧ g.latch = s.activeSet ∧ g.version = s.cfg.activeVer
      ∧ g.id = x.id ∧ g.stream = x.stream ∧ g.frame = x.frame ∧ g.lines = x.lines ∧ g.fsAt = x.fsAt ∧ g.echo = x.echo ∧ g.slot = x.slot
      ∧ g.expStart = x.expStart := by
  obtain ⟨⟨g, hg, hr⟩, _⟩ := s.openFrame_frame id x h
  refine ⟨g, ?_, hr⟩
  unfold State.openNow
  rw [h]
  dsimp only
  split
  · rw [State.fold_frame _ _ _ _ (fun u a ha => ?_)]
    · exact hg
    · refine State.previewGone_frame_ne u a id (fun c => ?_)
      obtain ⟨h1, h2⟩ := List.mem_filter.mp ha
      rw [hu a h1 c.symm, hl] at h2
      simp at h2
  · exact hg

theorem State.endInput_frame_ne (s : State) (id j : Nat) (c : FEnd) (h : j ≠ id) : (s.endInput id c).frame? j = s.frame? j := by
  unfold State.endInput
  split
  · rfl
  · exact State.setFrame_frame_ne _ _ _ _ (fun _ => rfl) h

/-- Every page a line needs that the frame has: none is taken. -/
theorem State.linePagesFor_have (s : State) (st id : Nat) (x : FrameSt) (l : List Nat) (h : s.frame? id = some x)
    (hp : ∀ k ∈ l, x.page? k ≠ none) : s.linePagesFor st id l = some s := by
  induction l with
  | nil => rfl
  | cons k l ih =>
    unfold State.linePagesFor
    rw [h, Option.bind_some]
    cases e : x.page? k with
    | none => exact absurd e (hp k List.mem_cons_self)
    | some p => exact ih (fun k hk => hp k (List.mem_cons_of_mem _ hk))

/-- The bytes a store leaves in the frame store depend on the frames and on the frame store alone. -/
theorem State.putPayload_hbm (s t : State) (h1 : t.hbm = s.hbm) (id o : Nat) (b : List Byte) (h2 : t.frame? id = s.frame? id) :
    (t.putPayload id o b).hbm = (s.putPayload id o b).hbm := by
  unfold State.putPayload
  rw [h2]
  split
  · exact h1
  · next f hf =>
    generalize pageSplit _ _ _ = l
    clear hf h2
    induction l generalizing s t with
    | nil => exact h1
    | cons e l ih =>
      rw [List.foldl_cons, List.foldl_cons]
      apply ih
      split
      · show hbmWrite t.hbm _ _ = hbmWrite s.hbm _ _
        rw [h1]
      · exact h1

/-- A store counts in PC_BYTES alone. -/
theorem State.putPayload_win (s : State) (id o w : Nat) (b : List Byte) (hw : w ≠ 8) : WinSame w s (s.putPayload id o b) := by
  unfold State.putPayload
  split
  · exact WinSame.refl w s
  · apply WinSame.foldl
    intro s e
    split
    · unfold State.add64 State.set64
      refine (WinSame.of ?_).trans ((WinSame.setReg _ _ _ _ _ (by decide) (fun c => hw c.symm)).trans (WinSame.setReg _ _ _ _ _ (by decide) (fun c => hw c.symm)))
      rfl
    · exact WinSame.refl w s

theorem State.reg64_win {s t : State} {w : Nat} (h : WinSame w s t) (lo hi : RegRow) (i : Nat) (h1 : lo.win = w) (h2 : hi.win = w) :
    t.reg64 lo hi i = s.reg64 lo hi i := by
  unfold State.reg64
  rw [h _ _ _ h1, h _ _ _ h2]

theorem Stats.pixel_lines (q : Stats) (t : RegSet) (st : Nat) (c : Bool) (l ca p : Nat) (y : Int) (v : Nat) (o : Option Nat) :
    (q.pixel t st c l ca p y v o).lines = q.lines := rfl

theorem Stats.line_lines (q : Stats) (t : RegSet) (st : Nat) (c : Bool) (l : Nat) (o : LineOut) : (q.line t st c l o).lines = q.lines + 1 := by
  unfold Stats.line
  dsimp only
  have : ∀ (xs : List ((Nat × Int × Nat × Nat) × Nat)) (f : Stats → (Nat × Int × Nat × Nat) × Nat → Stats) (a : Stats),
      (∀ a e, (f a e).lines = a.lines) → (xs.foldl f a).lines = a.lines := by
    intro xs f
    induction xs with
    | nil => exact fun _ _ => rfl
    | cons e xs ih => exact fun a hf => (ih _ hf).trans (hf a e)
  exact this _ _ _ (fun a e => Stats.pixel_lines ..)

/-- What the preview takes from a line leaves the rest of the frame. -/
theorem FrameSt.addQuad_rest (f : FrameSt) (a b : Nat) (rgb : Nat × Nat × Nat) : (f.addQuad a b rgb).id = f.id
    ∧ (f.addQuad a b rgb).waiting = f.waiting ∧ (f.addQuad a b rgb).phase = f.phase ∧ (f.addQuad a b rgb).stats = f.stats := by
  unfold FrameSt.addQuad
  dsimp only
  split <;> exact ⟨rfl, rfl, rfl, rfl⟩

theorem FrameSt.addPreview_rest (f : FrameSt) (l : Nat) (w : List Nat) : (f.addPreview l w).id = f.id
    ∧ (f.addPreview l w).waiting = f.waiting ∧ (f.addPreview l w).phase = f.phase ∧ (f.addPreview l w).stats = f.stats := by
  have hf : ∀ {α : Type} (xs : List α) (k : FrameSt → α → FrameSt) (a : FrameSt),
      (∀ a e, (k a e).id = a.id ∧ (k a e).waiting = a.waiting ∧ (k a e).phase = a.phase ∧ (k a e).stats = a.stats) →
      (xs.foldl k a).id = a.id ∧ (xs.foldl k a).waiting = a.waiting ∧ (xs.foldl k a).phase = a.phase ∧ (xs.foldl k a).stats = a.stats := by
    intro α xs k
    induction xs with
    | nil => exact fun _ _ => ⟨rfl, rfl, rfl, rfl⟩
    | cons e xs ih =>
      intro a h
      obtain ⟨a1, a2, a3, a4⟩ := ih (k a e) h
      obtain ⟨b1, b2, b3, b4⟩ := h a e
      exact ⟨a1.trans b1, a2.trans b2, a3.trans b3, a4.trans b4⟩
  unfold FrameSt.addPreview
  dsimp only
  split
  · exact hf _ _ _ (fun a e => FrameSt.addQuad_rest ..)
  · split
    · exact ⟨rfl, rfl, rfl, rfl⟩
    · generalize (if l % 2 = 0 then _ else _) = eo
      obtain ⟨e, o⟩ := eo
      exact hf _ _ _ (fun a e => FrameSt.addQuad_rest ..)

end Sys2Proof.Machine
end

