-- ==== Sys2Proof/Laws/FactsLink.lean ====
section
/-! SUPPORT. What packets, beacons and credits leave in a head link, and pairs of counters in registers. -/

namespace Sys2Proof.Machine

/-! ### The parts of a head link -/

theorem State.linkCarries_of {s t : State} {l : Nat} (h : (t.hl l).mode = (s.hl l).mode) : t.linkCarries l = s.linkCarries l := by
  unfold State.linkCarries
  rw [h]

theorem State.laneTx_link (s : State) (l : Nat) (p : Pkt) : (s.laneTx l p).link = s.link ∧ (s.laneTx l p).out = s.out :=
  ⟨(State.laneTx_keeps ..).same .link rfl, (State.laneTx_keeps ..).same .out rfl⟩

/-- A packet sent on VC0 leaves at once, with its place; of the link only the count of cells sent changes. -/
theorem State.sendPkt_vc0 (s : State) (l : Nat) (p : Pkt) (h : s.linkCarries l = true) (hv : p.vc = 0) :
    (s.sendPkt l p).out = .head l { p with vcPos := (s.hl l).sent0 % 2 ^ 24 } :: s.out
    ∧ (s.sendPkt l p).hl l = { s.hl l with sent0 := (s.hl l).sent0 + pktCells p.length } := by
  obtain ⟨h1, h2⟩ := s.laneTx_link l p
  have hl : ((s.laneTx l p).emit (.head l { p with vcPos := (s.hl l).sent0 % 2 ^ 24 })).hl l = s.hl l := State.hl_of h1 l
  unfold State.sendPkt State.putPkt
  dsimp only
  rw [h, if_neg (by decide), if_neg (by omega), if_neg (by omega)]
  refine ⟨?_, ?_⟩
  · show (State.emit _ _).out = _
    rw [State.emit_out, h2]
  · rw [State.hl_setHl_self, hl]

/-- Sending a packet changes of the link only what counts cells and holds packets back. -/
theorem State.sendPkt_hl (s : State) (l : Nat) (p : Pkt) : ∃ a b c w,
    (s.sendPkt l p).hl l = { s.hl l with sent0 := a, sent1 := b, burst1 := c, wait1 := w } := by
  obtain ⟨h1, _⟩ := s.laneTx_link l p
  have hl : ∀ o, ((s.laneTx l p).emit o).hl l = s.hl l := fun o => State.hl_of h1 l
  unfold State.sendPkt State.putPkt
  dsimp only
  repeat' split
  · exact ⟨_, _, _, _, rfl⟩
  · exact ⟨(s.hl l).sent0, (s.hl l).sent1, (s.hl l).burst1, _, by rw [State.hl_setHl_self]⟩
  · exact ⟨(s.hl l).sent0, _, _, (s.hl l).wait1, by rw [State.hl_setHl_self, hl]⟩
  · exact ⟨_, (s.hl l).sent1, (s.hl l).burst1, (s.hl l).wait1, by rw [State.hl_setHl_self, hl]⟩

/-- A received packet of the type of its command: it leaves the receive queue where it heads it, and its effect follows. -/
theorem State.onPkt_run (s : State) (l ty : Nat) (p : Pkt) (f : State → State) (h : p.ptype = ty) (hc : s.linkCarries l = true) :
    ∃ u, s.onPkt l ty p f = f u ∧ (u = s ∨ u = s.setHl l (fun q => { q with rx := q.rx.drop 1 })) ∧ u.cur = s.cur ∧ u.out = s.out
      ∧ u.rings = s.rings ∧ u.cfg = s.cfg ∧ u.hl l = { s.hl l with rx := (u.hl l).rx }
      ∧ ((s.hl l).rx.head? = some p → (u.hl l).rx = (s.hl l).rx.drop 1) := by
  unfold State.onPkt
  by_cases e : (s.hl l).rx.head? = some p
  · rw [if_pos e]
    refine ⟨_, ?_, Or.inr rfl, rfl, rfl, rfl, rfl, ?_, ?_⟩
    · dsimp only
      rw [if_pos ⟨h, by rw [State.linkCarries_of (s := s) (by rw [State.hl_setHl_self]), hc]⟩]
    · rw [State.hl_setHl_self]
    · rw [State.hl_setHl_self]
      exact fun _ => rfl
  · rw [if_neg e]
    exact ⟨s, by dsimp only; rw [if_pos ⟨h, hc⟩], Or.inl rfl, rfl, rfl, rfl, rfl, rfl, fun c => absurd c e⟩

theorem State.setHl_hl_ne (s : State) (l k : Nat) (f : LinkSt → LinkSt) (h : k ≠ l) : (s.setHl l f).hl k = s.hl k := by
  rw [State.hl_setHl, if_neg h]

theorem State.hlEvt_hl (s : State) (l b k : Nat) : (s.hlEvt l b).hl k = s.hl k := State.hl_of (State.setEvt_link ..) k

theorem State.setLinkMode_bit (s : State) (l : Nat) (m : LinkMode) (b : Nat) :
    bit ((s.setLinkMode l m).reg Reg.HL_EVENTS l) b = bit (s.reg Reg.HL_EVENTS l) b := by
  rw [State.setLinkMode_reg _ _ _ _ _ _ (quiet_win _ _ _ (by decide) (by decide) (by decide))]

theorem State.sensorReg_facts (u : State) (d : Desc) (k : Ticket) :
    ((u.sensorReg d k).hl (tIndex d)).nextTxn = (u.hl (tIndex d)).nextTxn + 1
    ∧ ((u.sensorReg d k).hl (tIndex d)).txns = (u.hl (tIndex d)).txns ++ [{
        txn := (u.hl (tIndex d)).nextTxn % 65536, ticket := k, isRead := decide (opAt d 8 1 = 1), words := opAt d 9 1,
        data := opAt d 16 8, at_ := u.time.clk }]
    ∧ RingSame u (u.sensorReg d k) := by
  unfold State.sensorReg
  dsimp only
  generalize mkPkt _ _ _ _ _ = p
  generalize hw : u.setHl _ _ = w
  have hr : RingSame u w := by
    rw [← hw]
    exact RingSame.of rfl
  have hq : w.hl (tIndex d) = { u.hl (tIndex d) with
      nextTxn := (u.hl (tIndex d)).nextTxn + 1,
      txns := (u.hl (tIndex d)).txns ++ [{
        txn := (u.hl (tIndex d)).nextTxn % 65536, ticket := k, isRead := decide (opAt d 8 1 = 1), words := opAt d 9 1,
        data := opAt d 16 8, at_ := u.time.clk }] } := by rw [← hw, State.hl_setHl_self]
  obtain ⟨a, b, c, q, e⟩ := State.sendPkt_hl w (tIndex d) p
  rw [e, hq]
  exact ⟨rfl, rfl, hr.trans ((State.sendPkt_keeps ..).ringSame (by decide))⟩

theorem State.linkRises_up (s : State) (l : Nat) (h : (s.hl l).mode = .capability) (hc : (s.hl l).cap.isSome = true)
    (ht : (s.hl l).timeLock = true) : (s.linkRises l).hl l = { s.hl l with mode := .up, sentSettings := [] } := by
  have hf : ∀ (xs : List Nat) (u : State) (f : Nat → StreamSt → StreamSt),
      (xs.foldl (fun s st => s.setStream st (f st)) u).hl l = u.hl l := by
    intro xs
    induction xs with
    | nil => exact fun _ _ => rfl
    | cons x xs ih => exact fun u f => by rw [List.foldl_cons, ih]; rfl
  unfold State.linkRises
  dsimp only
  rw [if_pos ⟨h, hc, ht⟩]
  exact (hf _ _ (fun _ x => { x with digest := List.replicate 48 0, trig := [] })).trans (by rw [State.setLinkMode_hl, State.hl_setHl_self])

theorem State.reg64_set64_ne (s : State) (lo hi l2 h2 : RegRow) (i v : Nat) (hl : lo.win < 16) (hh : hi.win < 16)
    (n1 : l2.win ≠ lo.win ∨ l2.addr i ≠ lo.addr i) (n2 : l2.win ≠ hi.win ∨ l2.addr i ≠ hi.addr i)
    (n3 : h2.win ≠ lo.win ∨ h2.addr i ≠ lo.addr i) (n4 : h2.win ≠ hi.win ∨ h2.addr i ≠ hi.addr i) :
    (s.set64 lo hi i v).reg64 l2 h2 i = s.reg64 l2 h2 i := by
  unfold State.reg64 State.set64
  rw [State.reg_setReg_ne _ _ _ _ _ _ _ _ hh n2, State.reg_setReg_ne _ _ _ _ _ _ _ _ hl n1,
    State.reg_setReg_ne _ _ _ _ _ _ _ _ hh n4, State.reg_setReg_ne _ _ _ _ _ _ _ _ hl n3]

theorem State.reg64_add64 (s : State) (lo hi : RegRow) (i n : Nat) (h1 : lo.win < 16) (h2 : hi.win < 16)
    (hne : lo.win ≠ hi.win ∨ lo.addr i ≠ hi.addr i) : (s.add64 lo hi i n).reg64 lo hi i = (s.reg64 lo hi i + n) % 2 ^ 64 := by
  unfold State.add64
  generalize s.reg64 lo hi i + n = v
  unfold State.reg64 State.set64
  rw [State.reg_setReg_ne _ _ _ _ _ _ _ _ h2 hne, State.reg_setReg_self _ _ _ _ _ h1, State.reg_setReg_self _ _ _ _ _ h2]
  simp only [BitVec.toNat_ofNat]
  omega

theorem State.laneEvt_reg64 (s : State) (n : Nat) (b : List Nat) (lo hi : RegRow) (hl : lo.win = 4) (hh : hi.win = 4)
    (h1 : lo.addr n ≠ Reg.LANE_EVENTS.addr n) (h2 : hi.addr n ≠ Reg.LANE_EVENTS.addr n) :
    (s.laneEvt n b).reg64 lo hi n = s.reg64 lo hi n := by
  unfold State.reg64
  rw [State.laneEvt_reg _ _ _ _ _ _ (quiet_win _ _ _ (by omega) (by omega) (by omega)) (Or.inr h1),
    State.laneEvt_reg _ _ _ _ _ _ (quiet_win _ _ _ (by omega) (by omega) (by omega)) (Or.inr h2)]

end Sys2Proof.Machine
end

