-- ==== Sys2Proof/Laws/KeepsTick.lean ====
section
/-! SUPPORT. What each function of Machine/Tick.lean may change. -/

namespace Sys2Proof.Machine

set_option linter.all false

theorem State.tickStore_keeps (s : State) : Keeps 549756211071 s (State.tickStore s) := by
  unfold State.tickStore
  repeat' first
    | (with_reducible apply Keeps.foldl)
    | with_reducible assumption
    | with_reducible apply Keeps.refl
    | (with_reducible apply Keeps.after (m := 549756211071) (State.autoStep_keeps ..) (by decide))
    | (with_reducible apply Keeps.after (m := 549756211071) (State.backlogStart_keeps ..) (by decide))
    | (with_reducible apply Keeps.after (m := 549756211071) (State.watermarks_keeps ..) (by decide))
    | (with_reducible apply Keeps.after (m := 549756211071) (State.bayTrain_keeps ..) (by decide))
    | (with_reducible apply Keeps.after (m := 549756211071) (State.svcMoves_keeps ..) (by decide))
    | (with_reducible apply Keeps.after (m := 549756211071) (State.drainCheck_keeps ..) (by decide))
    | (with_reducible apply Keeps.after (m := 549756211071) (State.drainPages_keeps ..) (by decide))
    | (with_reducible apply Keeps.after (m := 549756211071) (State.spillMoves_keeps ..) (by decide))
    | (with_reducible apply Keeps.after (m := 549756211071) (State.readMoves_keeps ..) (by decide))
    | (with_reducible apply Keeps.after (m := 549756211071) (State.fullCheck_keeps ..) (by decide))
    | (with_reducible apply Keeps.after (m := 549756211071) (State.segBoundary_keeps ..) (by decide))
    | (intro x; refine (fun hx : Keeps 549756211071 s x => ?_) ?_; clear_value x; rotate_left; dsimp only [x]; rotate_right)
    | intro _
    | lift_lets
    | dsimp only

theorem State.tickSubs_keeps (s : State) (cuts : List (Job × Nat)) : Keeps 566935951193 s (State.tickSubs s cuts) := by
  unfold State.tickSubs
  repeat' first
    | (with_reducible apply Keeps.foldl)
    | with_reducible assumption
    | with_reducible apply Keeps.refl
    | (with_reducible apply Keeps.after (m := 566935951193) (State.subTake_keeps ..) (by decide))
    | (with_reducible apply Keeps.after (m := 566935951193) (State.subSuspended_keeps ..) (by decide))
    | (with_reducible apply Keeps.after (m := 566935951193) (State.subCuts_keeps ..) (by decide))
    | (intro x; refine (fun hx : Keeps 566935951193 s x => ?_) ?_; clear_value x; rotate_left; dsimp only [x]; rotate_right)
    | intro _
    | lift_lets
    | dsimp only

theorem State.askAll_keeps (s : State) : Keeps 3136 s (State.askAll s) := by
  unfold State.askAll
  repeat' first
    | (with_reducible apply Keeps.foldl)
    | with_reducible assumption
    | with_reducible apply Keeps.refl
    | (with_reducible apply Keeps.after (m := 3136) (State.subAsk_keeps ..) (by decide))
    | (with_reducible apply Keeps.after (m := 3136) (State.sealAsk_keeps ..) (by decide))
    | (with_reducible apply Keeps.after (m := 3136) (State.askAged_keeps ..) (by decide))
    | (with_reducible apply Keeps.after (m := 3136) (State.moversIdle_keeps ..) (by decide))
    | intro _
    | dsimp only

theorem State.tickMovers_keeps (s : State) : Keeps 566935953247 s (State.tickMovers s) := by
  unfold State.tickMovers
  repeat' first
    | with_reducible apply Keeps.refl
    | (with_reducible apply Keeps.after (m := 566935953247) (State.tickSubs_keeps ..) (by decide))
    | (with_reducible apply Keeps.after (m := 566935953247) (State.planBoundary_keeps ..) (by decide))
    | (with_reducible apply Keeps.after (m := 566935953247) (State.planBoundary_eq (e := ‹_›) ..) (by decide))
    | (with_reducible apply Keeps.after (m := 566935953247) (State.askAll_keeps ..) (by decide))
    | dsimp only

theorem State.tickJobs_keeps (s : State) : Keeps 566936149887 s (State.tickJobs s) := by
  unfold State.tickJobs
  repeat' first
    | with_reducible assumption
    | with_reducible apply Keeps.refl
    | (with_reducible apply Keeps.after (m := 566936149887) (State.setPlan_keeps ..) (by decide))
    | (with_reducible apply Keeps.after (m := 566936149887) (State.takeCkpt_keeps ..) (by decide))
    | (with_reducible apply Keeps.after (m := 566936149887) (State.tickStore_keeps ..) (by decide))
    | (with_reducible apply Keeps.after (m := 566936149887) (State.tickMovers_keeps ..) (by decide))
    | (intro x; refine (fun hx : Keeps 566936149887 s x => ?_) ?_; clear_value x; rotate_left; dsimp only [x]; rotate_right)
    | intro _
    | lift_lets
    | dsimp only

theorem State.afterChange_keeps (s : State) : Keeps 566936149887 s (State.afterChange s) := by
  unfold State.afterChange
  repeat' first
    | with_reducible apply Keeps.refl
    | (with_reducible apply Keeps.after (m := 566936149887) (State.tickJobs_keeps ..) (by decide))
    | (with_reducible apply Keeps.ite)
    | split
    | dsimp only

theorem State.afterUnits_keeps (s : State) : Keeps 566936149887 s (State.afterUnits s) := by
  unfold State.afterUnits
  repeat' first
    | with_reducible apply Keeps.refl
    | (with_reducible apply Keeps.after (m := 566936149887) (State.afterChange_keeps ..) (by decide))
    | (with_reducible apply Keeps.after (m := 566936149887) (State.replan_keeps ..) (by decide))
    | (with_reducible apply Keeps.ite)
    | split
    | dsimp only

theorem State.countHealth_keeps (s : State) : Keeps 4096 s (State.countHealth s) := by
  unfold State.countHealth
  repeat' first
    | with_reducible assumption
    | with_reducible apply Keeps.refl
    | (with_reducible apply State.setSvc_keeps (m := 4096) (by decide))
    | with_reducible exact Or.inl rfl
    | with_reducible exact Or.inl (fun _ => rfl)
    | with_reducible exact Or.inr (fun _ => rfl)
    | with_reducible exact Or.inr (fun _ => ⟨rfl, rfl⟩)
    | with_reducible exact Or.inr (fun _ => ⟨rfl, rfl, rfl⟩)
    | with_reducible exact Or.inr (fun _ => ⟨rfl, rfl, rfl, rfl⟩)
    | with_reducible exact Or.inr (fun _ => ⟨rfl, rfl, rfl, rfl, rfl, rfl, rfl, rfl, rfl⟩)
    | (intro x; refine (fun hx : Keeps 4096 s x => ?_) ?_; clear_value x; rotate_left; dsimp only [x]; rotate_right)
    | intro _
    | lift_lets
    | dsimp only

theorem State.probationTick_keeps (s : State) : Keeps 262175 s (State.probationTick s) := by
  unfold State.probationTick
  repeat' first
    | with_reducible assumption
    | with_reducible apply Keeps.refl
    | (with_reducible apply State.setCfg_keeps (m := 262175) (by decide))
    | (with_reducible apply Keeps.after (m := 262175) (State.healthFail_keeps ..) (by decide))
    | with_reducible exact Or.inl rfl
    | with_reducible exact Or.inl (fun _ => rfl)
    | with_reducible exact Or.inr (fun _ => rfl)
    | with_reducible exact Or.inr (fun _ => ⟨rfl, rfl⟩)
    | with_reducible exact Or.inr (fun _ => ⟨rfl, rfl, rfl⟩)
    | with_reducible exact Or.inr (fun _ => ⟨rfl, rfl, rfl, rfl⟩)
    | with_reducible exact Or.inr (fun _ => ⟨rfl, rfl, rfl, rfl, rfl, rfl, rfl, rfl, rfl⟩)
    | (refine Or.inr (fun q => ?_); (try dsimp only); split <;> first | rfl | exact ⟨rfl, rfl⟩ | exact ⟨rfl, rfl, rfl⟩ | exact ⟨rfl, rfl, rfl, rfl⟩)
    | (intro x; refine (fun hx : Keeps 262175 s x => ?_) ?_; clear_value x; rotate_left; dsimp only [x]; rotate_right)
    | intro _
    | (with_reducible apply Keeps.ite)
    | lift_lets
    | split
    | dsimp only

theorem State.tickBoundary_keeps (s : State) : Keeps 605590855551 s (State.tickBoundary s) := by
  unfold State.tickBoundary
  repeat' first
    | with_reducible assumption
    | with_reducible apply Keeps.refl
    | (with_reducible apply Keeps.after (m := 605590855551) (State.countHealth_keeps ..) (by decide))
    | (with_reducible apply Keeps.after (m := 605590855551) (State.probationTick_keeps ..) (by decide))
    | (with_reducible apply Keeps.after (m := 605590855551) (State.replan_keeps ..) (by decide))
    | (with_reducible apply Keeps.after (m := 605590855551) (State.syncLanes_keeps ..) (by decide))
    | (with_reducible apply Keeps.after (m := 605590855551) (State.returnCaches_keeps ..) (by decide))
    | (with_reducible apply Keeps.after (m := 605590855551) (State.recoveryEnd_keeps ..) (by decide))
    | (with_reducible apply Keeps.after (m := 605590855551) (State.dropEnded_keeps ..) (by decide))
    | (with_reducible apply Keeps.after (m := 605590855551) (State.timeTick_keeps ..) (by decide))
    | (with_reducible apply Keeps.after (m := 605590855551) (State.takeCkpt_keeps ..) (by decide))
    | (with_reducible apply Keeps.after (m := 605590855551) (State.setPlan_keeps ..) (by decide))
    | (with_reducible apply Keeps.after (m := 605590855551) (State.tickJobs_keeps ..) (by decide))
    | (intro x; refine (fun hx : Keeps 605590855551 s x => ?_) ?_; clear_value x; rotate_left; dsimp only [x]; rotate_right)
    | intro _
    | (with_reducible apply Keeps.ite)
    | lift_lets
    | split
    | dsimp only

theorem execCommitBoundary_keeps (s : State) {nxt : State} (e : execCommitBoundary s = .next nxt) : Keeps 571250024447 s nxt := by
  unfold execCommitBoundary at e
  first | refine Keeps.go ?_ e | refine Keeps.goRead ?_ e | cases e
  try dsimp only
  repeat' first
    | with_reducible assumption
    | with_reducible apply Keeps.refl
    | (with_reducible apply Keeps.after (m := 571250024447) (State.afterChange_keeps ..) (by decide))
    | (with_reducible apply Keeps.after (m := 571250024447) (State.commitBoundary_keeps ..) (by decide))
    | intro _
    | dsimp only

theorem execConfigClearBoundary_keeps (s : State) {nxt : State} (e : execConfigClearBoundary s = .next nxt) : Keeps 571254218751 s nxt := by
  unfold execConfigClearBoundary at e
  first | refine Keeps.go ?_ e | refine Keeps.goRead ?_ e | cases e
  try dsimp only
  repeat' first
    | with_reducible assumption
    | with_reducible apply Keeps.refl
    | (with_reducible apply Keeps.after (m := 571254218751) (State.afterChange_keeps ..) (by decide))
    | (with_reducible apply Keeps.after (m := 571254218751) (State.clearBoundary_keeps ..) (by decide))
    | intro _
    | dsimp only

theorem execConfigFallbackBoundary_keeps (s : State) {nxt : State} (e : execConfigFallbackBoundary s = .next nxt) : Keeps 571250024447 s nxt := by
  unfold execConfigFallbackBoundary at e
  first | refine Keeps.go ?_ e | refine Keeps.goRead ?_ e | cases e
  try dsimp only
  repeat' first
    | with_reducible assumption
    | with_reducible apply Keeps.refl
    | (with_reducible apply Keeps.after (m := 571250024447) (State.afterChange_keeps ..) (by decide))
    | (with_reducible apply Keeps.after (m := 571250024447) (State.fallbackBoundary_keeps ..) (by decide))
    | intro _
    | dsimp only

theorem execSpareReplacement_keeps (kind : Nat) (s : State) {nxt : State} (e : execSpareReplacement kind s = .next nxt) : Keeps 571231117183 s nxt := by
  unfold execSpareReplacement at e
  first | refine Keeps.go ?_ e | refine Keeps.goRead ?_ e | cases e
  try dsimp only
  repeat' first
    | with_reducible assumption
    | with_reducible apply Keeps.refl
    | (with_reducible apply Keeps.after (m := 571231117183) (State.afterUnits_keeps ..) (by decide))
    | (with_reducible apply Keeps.after (m := 571231117183) (State.spareIn_keeps ..) (by decide))
    | intro _
    | dsimp only

theorem execTickBoundary_keeps (s : State) {nxt : State} (e : execTickBoundary s = .next nxt) : Keeps 605590855551 s nxt := by
  unfold execTickBoundary at e
  first | refine Keeps.go ?_ e | refine Keeps.goRead ?_ e | cases e
  try dsimp only
  repeat' first
    | with_reducible assumption
    | with_reducible apply Keeps.refl
    | (with_reducible apply Keeps.after (m := 605590855551) (State.tickBoundary_keeps ..) (by decide))
    | intro _
    | dsimp only

theorem execUnitStateBoundary_keeps (s : State) {nxt : State} (e : execUnitStateBoundary s = .next nxt) : Keeps 571231150079 s nxt := by
  unfold execUnitStateBoundary at e
  first | refine Keeps.go ?_ e | refine Keeps.goRead ?_ e | cases e
  try dsimp only
  repeat' first
    | with_reducible assumption
    | with_reducible apply Keeps.refl
    | (with_reducible apply Keeps.after (m := 571231150079) (State.afterUnits_keeps ..) (by decide))
    | (with_reducible apply Keeps.after (m := 571231150079) (State.unitBoundary_keeps ..) (by decide))
    | intro _
    | dsimp only

end Sys2Proof.Machine
end

