-- ==== Sys2Proof/Laws/FactsRig.lean ====
section
/-! SUPPORT. How a rig command runs and what a boundary's mode change and set activation leave. -/

namespace Sys2Proof.Machine

theorem State.rigCmd_run (s : State) (d : Desc) (op : Nat) (used : List (Nat × Nat)) (own : State → Refuse) (body : Ticket → State → State)
    (ht : s.svc.stopped = none ∧ s.takeable d 0 = true) (hk : d.known = true) (hst : structOk d (tIs d 1 16) used false = true)
    (hi : s.isCtl d (tIndex d) = true) (hm : s.dev.mode = .operational) (hl : rigLegal op (s.projRig (tIndex d)).1 = true)
    (ho : own (s.take d) = none) :
    s.rigCmd d op used true own body = body { ticketOf d op with gen := (s.ring d.ring).gen } (s.take d) := by
  unfold State.rigCmd
  have e := (s.take d).check405_none d (rig := some (tIndex d)) hst rfl (show (s.take d).isCtl d (tIndex d) = true from hi)
    (show ((s.take d).modeIn [.operational] && rigLegal op ((s.take d).projRig (tIndex d)).1) = true by
      have h1 : ((s.take d).projRig (tIndex d)).1 = (s.projRig (tIndex d)).1 := rfl
      rw [h1, hl]
      show (List.contains [DevMode.operational] s.dev.mode && true) = true
      rw [hm]
      rfl)
  rw [State.runCmd_run _ _ _ _ _ ht.2 hk (by rw [e]; exact ho)]

theorem State.take_takeSecs (s : State) (d : Desc) : (s.take d).takeSecs = s.takeSecs := by
  unfold State.takeSecs State.startOfTick
  have h : ∀ n, (s.take d).tickAhead n = s.tickAhead n := fun n => by
    induction n with
    | zero => rfl
    | succ n ih => exact congrArg (tickEndAfter s.periodUnits) ih
  have h2 : (s.take d).time = s.time := rfl
  rw [h2, h]

theorem State.rigModeChange_one (s : State) (r op : Nat) (dest : RigMode) (b : Bound) (hb : s.dev.bound = [b])
    (hk : b.kind = .rig r (.command op) dest 0 0 0 0) (ht : b.tick ≤ s.time.tickNum) :
    s.rigModeChange r = ((((({ s with dev := { s.dev with bound := [] } } : State).applyRig b).prerollCatch r).autoStep).takeCkpt) := by
  unfold State.rigModeChange
  rw [hb]
  simp [hk, ht, RigCause.order]

theorem State.enterRig_rigs (s : State) (r : Nat) (dest : RigMode) (c f : Nat) : (s.enterRig r dest c f).dev.rigs =
    s.dev.rigs.upd {} r (fun q => { q with mode := dest, prev := s.rigMode r, cause := c, changes := satAdd 0xFF q.changes 1 }) := by
  unfold State.enterRig
  rw [State.post_dev]
  rfl

theorem State.queueRig_facts (s : State) (k : Ticket) (r op : Nat) (dest : RigMode) (pre post take list : Nat) :
    (s.queueRig k r op dest pre post take list).dev = { s.dev with bound := s.dev.bound
      ++ [⟨s.time.tickNum + 2, some k, .rig r (.command op) dest pre post take list⟩] }
    ∧ RingSame s (s.queueRig k r op dest pre post take list) := ⟨rfl, RingSame.of rfl⟩

theorem State.modes2 (s : State) (d : Desc) (h : s.dev.mode = .standby ∨ s.dev.mode = .operational) :
    (s.take d).modeIn [.standby, .operational] = true := by
  show List.contains [DevMode.standby, .operational] s.dev.mode = true
  rcases h with h | h <;> rw [h] <;> rfl

/-- With no commit and no fallback waiting there is no failure to discard. -/
theorem State.discardFailure_idle (s : State) (h : s.cfgWaiting = false) : s.discardFailure = s := by
  unfold State.discardFailure
  split
  · rw [if_neg]
    intro c
    obtain ⟨b, hb, h2⟩ := List.any_eq_true.mp c
    have h3 := List.any_eq_false.mp h b hb
    revert h2 h3
    cases b.kind <;> simp
  · rfl

/-- What an activation leaves in the slots and of the device mode. -/
theorem State.activate_facts (s : State) (t : RegSet) (fb : Bool) (k : Option Ticket) :
    (s.activate t fb k).cfg.active = (s.cfg.activate t fb).active ∧ (s.activate t fb k).cfg.previous = (s.cfg.activate t fb).previous
    ∧ (s.activate t fb k).cfg.lastVersion = (s.cfg.activate t fb).lastVersion
    ∧ (s.dev.mode = .standby ∨ s.dev.mode = .operational → (s.activate t fb k).dev.mode = .operational) := by
  unfold State.activate
  dsimp only
  generalize hc : s.cfg.activate t fb = c
  generalize s.activeSet = before
  have e0 : ∀ (u : State) (cond : Prop) [Decidable cond] (a b : State), a.dev.mode = u.dev.mode → b.dev.mode = u.dev.mode →
      (if cond then a else b).dev.mode = u.dev.mode := by
    intro u cond _ a b h1 h2
    split <;> assumption
  generalize h1 : s.completeOpt k stDone _ = s1
  have m1 : s1.dev.mode = s.dev.mode := by
    rw [← h1]
    exact ((State.completeOpt_keeps ..).same .mode rfl).1
  generalize h2 : State.count s1 _ = s2
  have m2 : s2.dev.mode = s.dev.mode := by rw [← h2]; exact m1
  generalize h3 : State.post s2 9 0x61 0 _ = s3
  have m3 : s3.dev.mode = s.dev.mode := by rw [← h3, State.post_dev]; exact m2
  generalize h4 : (if fb = true then s3.logEntry 0x30 0 s3.cfg.failedVersion else s3) = s4
  have m4 : s4.dev.mode = s.dev.mode := by
    rw [← h4]
    split
    · rw [State.logEntry_dev]; exact m3
    · exact m3
  generalize h5 : (if (Option.map (fun x => x.passed) c.active).getD false = true then s4.post 9 0x61 0 (cfgPayload 1 c) else s4) = s5
  have m5 : s5.dev.mode = s.dev.mode := by
    rw [← h5]
    split
    · rw [State.post_dev]; exact m4
    · exact m4
  generalize h6 : (if s5.dev.mode = .standby then s5.enterMode .operational 0x20 else s5) = s6
  have m6 : s.dev.mode = .standby ∨ s.dev.mode = .operational → s6.dev.mode = .operational := by
    intro h
    rw [← h6]
    split
    · exact State.enterMode_mode _ _ _
    · next x =>
      rw [m5] at x ⊢
      exact h.resolve_left x
  generalize h7 : State.ringsCommit _ t = s7
  have m7 : s.dev.mode = .standby ∨ s.dev.mode = .operational → s7.dev.mode = .operational := by
    intro h
    rw [← h7, ((State.ringsCommit_keeps _ _).same .mode rfl).1, ((State.subsCommit_keeps _ _).same .mode rfl).1]
    exact m6 h
  have a := (State.applySet_keeps (s7.setCfg (fun _ => c)) before).same .active rfl
  have b := (State.applySet_keeps (s7.setCfg (fun _ => c)) before).same .mode rfl
  refine ⟨a.1, a.2.1, a.2.2, fun h => ?_⟩
  rw [b.1]
  exact m7 h

theorem State.dueBound_one (s : State) (p : BoundKind → Bool) (b : Bound) (hb : s.dev.bound = [b]) (hp : p b.kind = true)
    (ht : b.tick ≤ s.time.tickNum) : s.dueBound p = some (b, { s with dev := { s.dev with bound := [] } }) := by
  unfold State.dueBound
  rw [hb]
  simp [hp, ht]

theorem State.tobjEnd_facts (s : State) (st : Nat) (h : st < 2 ^ 32) : bit ((s.tobjEnd st).reg Reg.TOBJ_CTRL) 31 = false
    ∧ ((s.tobjEnd st).reg Reg.TOBJ_RESULT).toNat = st ∧ (s.tobjEnd st).obj = s.obj := by
  unfold State.tobjEnd
  refine ⟨?_, ?_, rfl⟩
  · rw [State.reg_setReg_ne _ _ _ _ _ _ _ _ (by decide) (Or.inr (by decide)), State.bit_setF_self _ _ _ _ _ (by decide) (by decide)]
    rfl
  · rw [State.reg_setReg_self _ _ _ _ _ (by decide), BitVec.toNat_ofNat]
    exact Nat.mod_eq_of_lt h

end Sys2Proof.Machine
end

