-- ==== Sys2Proof/Laws/FactsMotion.lean ====
section
/-! SUPPORT. What decoders, reads and alarms leave in a motion channel. -/

namespace Sys2Proof.Machine

@[simp] theorem State.mch_setMch_self (s : State) (ch : Nat) (f : MchSt → MchSt) : (s.setMch ch f).mch ch = f (s.mch ch) :=
  Tab.get_upd_self ({} : MchSt) s.motion.chans ch f
@[simp] theorem State.echo_setEcho_self (s : State) (k : Nat) (f : EchoSt → EchoSt) : (s.setEcho k f).echo k = f (s.echo k) :=
  Tab.get_upd_self ({} : EchoSt) s.motion.echoes k f
theorem State.mch_chans {s t : State} (h : t.motion.chans = s.motion.chans) (ch : Nat) : t.mch ch = s.mch ch := by unfold State.mch; rw [h]

/-- What a channel holds beside position, speed, hysteresis and its count of alarms. -/
def MchSt.core (q : MchSt) : MchSt := { q with
  pos := 0, still := false, valid := false, speed := 0, dirNeg := false, hp := 0, run := [], runNeg := false, changeAt := 0, alarms := 0 }

/-- An alarm changes of a channel its count alone. -/
theorem State.mchAlarm_mch (s : State) (ch b : Nat) : (s.mchAlarm ch b).mch ch = { s.mch ch with alarms := (s.mch ch).alarms + 1 } := by
  have h : (((s.setEvt Reg.MCH_EVENTS ch b).count Reg.MCH_ERR_CNT ch).setMch ch (fun q => { q with alarms := q.alarms + 1 })).mch ch
      = { s.mch ch with alarms := (s.mch ch).alarms + 1 } := State.mch_setMch_self _ _ _
  unfold State.mchAlarm
  dsimp only
  split
  · exact h
  · exact (State.mch_chans (congrArg MotionState.chans (State.post_motion ..)) _).trans h

theorem State.mchAlarm_mch_ne (s : State) (ch c b : Nat) (hne : c ≠ ch) : (s.mchAlarm ch b).mch c = s.mch c := by
  have h : (((s.setEvt Reg.MCH_EVENTS ch b).count Reg.MCH_ERR_CNT ch).setMch ch (fun q => { q with alarms := q.alarms + 1 })).mch c
      = s.mch c := Tab.get_upd_ne ({} : MchSt) s.motion.chans (fun q => { q with alarms := q.alarms + 1 }) hne
  unfold State.mchAlarm
  dsimp only
  split
  · exact h
  · exact (State.mch_chans (congrArg MotionState.chans (State.post_motion ..)) _).trans h

theorem State.mchAlarm_bit (s : State) (ch b : Nat) (hb : b < 32) : bit ((s.mchAlarm ch b).reg Reg.MCH_EVENTS ch) b = true := by
  have h : bit ((((s.setEvt Reg.MCH_EVENTS ch b).count Reg.MCH_ERR_CNT ch).setMch ch (fun q => { q with alarms := q.alarms + 1 })).reg Reg.MCH_EVENTS ch) b = true := by
    show bit (((s.setEvt Reg.MCH_EVENTS ch b).count Reg.MCH_ERR_CNT ch).reg Reg.MCH_EVENTS ch) b = true
    unfold State.count State.countN
    rw [State.reg_setReg_ne _ _ _ _ _ _ _ _ (by decide) (Or.inr (by simp only [RegRow.addr, Reg.MCH_EVENTS, Reg.MCH_ERR_CNT]; omega))]
    exact State.setEvt_bit _ _ _ _ (by decide) hb
  unfold State.mchAlarm
  dsimp only
  split
  · exact h
  · rw [(State.post_postSame ..).reg _ _ _ (quiet_win _ _ _ (by decide) (by decide) (by decide))]
    exact h

/-- A channel keeps position and core through `f`. -/
def MchSame (ch : Nat) (s t : State) : Prop := (t.mch ch).pos = (s.mch ch).pos ∧ (t.mch ch).core = (s.mch ch).core

theorem MchSame.refl (ch : Nat) (s : State) : MchSame ch s s := ⟨rfl, rfl⟩
theorem MchSame.trans {ch : Nat} {s t u : State} (a : MchSame ch s t) (b : MchSame ch t u) : MchSame ch s u := ⟨b.1.trans a.1, b.2.trans a.2⟩
theorem MchSame.of {ch : Nat} {s t : State} (h : t.motion.chans = s.motion.chans) : MchSame ch s t := by
  unfold MchSame
  rw [State.mch_chans h]
  exact ⟨rfl, rfl⟩
theorem MchSame.foldl {ch : Nat} {α : Type} {f : State → α → State} (l : List α) (h : ∀ s x, MchSame ch s (f s x)) (s : State) :
    MchSame ch s (l.foldl f s) := by
  induction l generalizing s with
  | nil => exact MchSame.refl ch s
  | cons x l ih => exact (h s x).trans (ih _)

theorem State.mchAlarm_same (s : State) (c ch b : Nat) : MchSame ch s (s.mchAlarm c b) := by
  by_cases e : ch = c
  · unfold MchSame
    rw [e, State.mchAlarm_mch]
    exact ⟨rfl, rfl⟩
  · unfold MchSame
    rw [State.mchAlarm_mch_ne _ _ _ _ e]
    exact ⟨rfl, rfl⟩

theorem State.echoFollow_same (s : State) (c ch : Nat) (h : Int) : MchSame ch s (s.echoFollow c h) := by
  unfold State.echoFollow
  refine MchSame.foldl _ (fun u k => ?_) s
  dsimp only
  split
  · exact MchSame.refl ch u
  · split
    · exact MchSame.of rfl
    · exact (MchSame.of (t := State.countN (u.setEcho k _) _ _ _) rfl).trans (State.mchAlarm_same ..)

theorem State.cmpAfter_same (s : State) (u ch : Nat) (p : Pos) : MchSame ch s (s.cmpAfter u p) := by
  unfold State.cmpAfter
  dsimp only
  repeat' split
  all_goals exact MchSame.of rfl

theorem State.rigSource_same (s : State) (src ch : Nat) (t : Int) : MchSame ch s (s.rigSource src t) :=
  MchSame.of (by rw [(State.rigSource_keeps ..).same .motion rfl])

theorem State.cmpCross_same (s : State) (c ch : Nat) (p p' : Pos) (t : Int) : MchSame ch s (s.cmpCross c p p' t) := by
  have h2 : ∀ (w : State) (x : Prop) [Decidable x] (a b e : Nat), MchSame ch w (if x then w.pulse a b e else w) := by
    intro w x _ a b e
    split
    · exact MchSame.of (by rw [(State.pulse_keeps ..).same .motion rfl])
    · exact MchSame.refl ch w
  have h3 : ∀ (w : State) (x : Prop) [Decidable x] (a : Nat), MchSame ch w (if x then w else w.cmpAfter a p') := by
    intro w x _ a
    split
    · exact MchSame.refl ch w
    · exact State.cmpAfter_same ..
  have h4 : ∀ (w v : State) (x : Prop) [Decidable x], MchSame ch w v → MchSame ch w (if x then w else v) := by
    intro w v x _ h
    split
    · exact MchSame.refl ch w
    · exact h
  unfold State.cmpCross
  refine MchSame.foldl _ (fun u k => ?_) s
  dsimp only
  apply h4
  refine MchSame.trans ?_ (State.rigSource_same _ _ _ _)
  refine MchSame.trans ?_ (h3 _ _ _)
  refine MchSame.trans ?_ (h2 _ _ _ _ _)
  exact MchSame.of rfl

theorem MchSt.speedChange_core (q : MchSt) (win t : Nat) (neg : Bool) (p : Pos) :
    (q.speedChange win t neg p).core = q.core ∧ (q.speedChange win t neg p).pos = q.pos := by
  unfold MchSt.speedChange
  dsimp only
  repeat' split
  all_goals exact ⟨rfl, rfl⟩

theorem MchSt.follow_core (q : MchSt) (p : Pos) : (q.follow p).core = q.core ∧ (q.follow p).pos = q.pos := by
  unfold MchSt.follow
  dsimp only
  repeat' split
  all_goals exact ⟨rfl, rfl⟩

theorem State.settledTo_core (s : State) (ch clk : Nat) :
    (s.settledTo ch clk).core = (s.mch ch).core ∧ (s.settledTo ch clk).pos = (s.mch ch).pos := by
  unfold State.settledTo
  dsimp only
  repeat' split
  all_goals exact ⟨rfl, rfl⟩

theorem State.settled_core (s : State) (ch : Nat) : (s.settled ch).core = (s.mch ch).core ∧ (s.settled ch).pos = (s.mch ch).pos :=
  s.settledTo_core ch s.time.clk

/-- A movement changes a channel's position by its amount; what it holds beside position and speed stays. -/
theorem State.moveBy_mch (s : State) (ch t : Nat) (d at16 : Int) :
    ((s.moveBy ch t d at16).mch ch).pos = (s.mch ch).pos + posOf d ∧ ((s.moveBy ch t d at16).mch ch).core = (s.mch ch).core := by
  unfold State.moveBy
  by_cases h : d = 0
  · rw [if_pos h, h]
    exact ⟨(BitVec.add_zero _).symm, rfl⟩
  · rw [if_neg h]
    dsimp only
    have e0 : (s.setMch ch (fun _ => s.settledTo ch (s.time.clk - 1))).mch ch = s.settledTo ch (s.time.clk - 1) :=
      State.mch_setMch_self _ _ _
    obtain ⟨c1, c2⟩ := s.settledTo_core ch (s.time.clk - 1)
    have h1 : ∀ (w : State) (x : Prop) [Decidable x] (k : Int), MchSame ch w (if x then w else w.echoFollow ch k) := by
      intro w x _ k
      split
      · exact MchSame.refl ch w
      · exact State.echoFollow_same ..
    rw [e0]
    generalize s.settledTo ch (s.time.clk - 1) = q0 at *
    generalize s.setMch ch (fun _ => q0) = s0 at *
    generalize hq : MchSt.follow (MchSt.speedChange _ _ t _ _) _ = q'
    have q1 : q'.core = q0.core ∧ q'.pos = q0.pos + posOf d := by
      rw [← hq]
      obtain ⟨a1, a2⟩ := MchSt.follow_core (MchSt.speedChange { q0 with pos := q0.pos + posOf d }
        (s0.actF Reg.MCH_TIMING ch 31 20 * 250) t (decide (d < 0)) (q0.pos + posOf d)) (q0.pos + posOf d)
      obtain ⟨b1, b2⟩ := MchSt.speedChange_core { q0 with pos := q0.pos + posOf d }
        (s0.actF Reg.MCH_TIMING ch 31 20 * 250) t (decide (d < 0)) (q0.pos + posOf d)
      exact ⟨a1.trans (b1.trans rfl), a2.trans b2⟩
    generalize hw : s0.setMch ch (fun _ => q') = w
    have w1 : w.mch ch = q' := by rw [← hw, State.mch_setMch_self]
    obtain ⟨m1, m2⟩ := (h1 w (posDiff q'.hp q0.hp = 0) (posDiff q'.hp q0.hp)).trans
      (State.cmpCross_same _ ch ch q0.pos (q0.pos + posOf d) at16)
    rw [m1, m2, w1, q1.1, q1.2, c1, c2]
    exact ⟨rfl, rfl⟩

theorem MchSt.core_parts {p q : MchSt} (h : p.core = q.core) : p.a = q.a ∧ p.b = q.b ∧ p.z = q.z ∧ p.referenced = q.referenced
    ∧ p.suspect = q.suspect ∧ p.ampBad = q.ampBad ∧ p.last = q.last ∧ p.vec = q.vec ∧ p.setAt = q.setAt ∧ p.indexOn = q.indexOn := by
  refine ⟨?_, ?_, ?_, ?_, ?_, ?_, ?_, ?_, ?_, ?_⟩
  · have := congrArg MchSt.a h
    exact this
  · have := congrArg MchSt.b h
    exact this
  · have := congrArg MchSt.z h
    exact this
  · have := congrArg MchSt.referenced h
    exact this
  · have := congrArg MchSt.suspect h
    exact this
  · have := congrArg MchSt.ampBad h
    exact this
  · have := congrArg MchSt.last h
    exact this
  · have := congrArg MchSt.vec h
    exact this
  · have := congrArg MchSt.setAt h
    exact this
  · have := congrArg MchSt.indexOn h
    exact this

/-- With index events off, looking for one changes only what is remembered of it. -/
theorem State.indexCheck_off (s : State) (ch : Nat) (z : Bool) (h : fld (s.act Reg.MCH_CTRL ch) 13 12 = 0) :
    ∃ b, s.indexCheck ch z = s.setMch ch (fun q => { q with indexOn := b }) := by
  unfold State.indexCheck
  dsimp only
  rw [h]
  refine ⟨_, if_neg ?_⟩
  simp

/-! ### Reads -/

theorem State.deliverPos_chans (s : State) (w : PosWait) (p : Pos) (h : Bool) : (s.deliverPos w p h).motion = s.motion :=
  (State.deliverPos_keeps ..).same .motion rfl

/-- A completed read is kept as the channel's last one; nothing else of the channel changes. -/
theorem State.readDone_mch (s : State) (ch : Nat) (t : Int) (p : Pos) : (s.readDone ch t p).mch ch = { s.mch ch with read := some (t, p) } := by
  have f1 : ∀ (l : List PosWait) (f : State → PosWait → State), (∀ u w, (f u w).motion.chans = u.motion.chans) → ∀ u : State,
      (l.foldl f u).motion.chans = u.motion.chans := by
    intro l f hf
    induction l with
    | nil => exact fun _ => rfl
    | cons x l ih => exact fun u => (ih _).trans (hf u x)
  unfold State.readDone
  dsimp only
  rw [State.mch_setMch_self]
  refine congrArg (fun q : MchSt => { q with read := some (t, p) }) (State.mch_chans ?_ ch)
  rw [f1, f1]
  · intro u w
    rw [State.deliverPos_chans]
  · intro u w
    split
    · rfl
    · next t0 p0 _ =>
      have hr : (u.roundTo (posDiff p p0 * (w.at_ - t0)) (t - t0)).2.motion = u.motion := by
        unfold State.roundTo
        dsimp only
        repeat' split
        all_goals rfl
      rw [State.deliverPos_chans, hr]

/-- A channel's events stand when a read of a channel completes. -/
theorem State.readDone_events (s : State) (c ch : Nat) (t : Int) (p : Pos) (_h : ch < 24) :
    (s.readDone c t p).reg Reg.MCH_EVENTS ch = s.reg Reg.MCH_EVENTS ch := by
  have f1 : ∀ (l : List PosWait) (f : State → PosWait → State), (∀ u w, (f u w).reg Reg.MCH_EVENTS ch = u.reg Reg.MCH_EVENTS ch) → ∀ u : State,
      (l.foldl f u).reg Reg.MCH_EVENTS ch = u.reg Reg.MCH_EVENTS ch := by
    intro l f hf
    induction l with
    | nil => exact fun _ => rfl
    | cons x l ih => exact fun u => (ih _).trans (hf u x)
  have f2 : ∀ (u : State) (w : PosWait) (q : Pos) (b : Bool), (u.deliverPos w q b).reg Reg.MCH_EVENTS ch = u.reg Reg.MCH_EVENTS ch := by
    intro u w q b
    unfold State.deliverPos State.set64
    split
    · split
      · rw [State.reg_setReg_ne _ _ _ _ _ _ _ _ (by decide) (Or.inr (by simp only [RegRow.addr, Reg.MCH_EVENTS, Reg.PRB_POS0_HI]; omega)),
          State.reg_setReg_ne _ _ _ _ _ _ _ _ (by decide) (Or.inr (by simp only [RegRow.addr, Reg.MCH_EVENTS, Reg.PRB_POS0_LO]; omega))]
      · rw [State.reg_setReg_ne _ _ _ _ _ _ _ _ (by decide) (Or.inr (by simp only [RegRow.addr, Reg.MCH_EVENTS, Reg.PRB_POS1_HI]; omega)),
          State.reg_setReg_ne _ _ _ _ _ _ _ _ (by decide) (Or.inr (by simp only [RegRow.addr, Reg.MCH_EVENTS, Reg.PRB_POS1_LO]; omega))]
    · rfl
  have f3 : ∀ (u : State) (n d : Int), (u.roundTo n d).2.reg Reg.MCH_EVENTS ch = u.reg Reg.MCH_EVENTS ch := by
    intro u n d
    unfold State.roundTo
    dsimp only
    repeat' split
    all_goals rfl
  unfold State.readDone
  dsimp only
  show State.reg (List.foldl _ _ _) _ _ = _
  rw [f1, f1]
  · rfl
  · intro u w
    rw [f2]
  · intro u w
    split
    · rfl
    · rw [f2, f3]

theorem posOf_posDiff (a p : Pos) : p + posOf (posDiff a p) = a := by
  unfold posOf posDiff
  rw [BitVec.ofInt_toInt, BitVec.add_comm, BitVec.sub_add_cancel]

/-- A source that one rig alone names as its burst source, and none as its frame source. -/
theorem State.rigSource_one (s : State) (src r : Nat) (t : Int) (hr : r < 16) (h1 : ∀ n, n < 16 → fld (s.act Reg.RIG_TRIG n) 5 0 ≠ src)
    (h2 : ∀ n, n < 16 → (bit (s.act Reg.RIG_TRIG n) 8 = true ∧ fld (s.act Reg.RIG_TRIG n) 21 16 = src ↔ n = r)) :
    s.rigSource src t = s.burstEvent r := by
  have step : ∀ (u : State) (n : Nat), u.cfg = s.cfg → n < 16 →
      (if bit (u.act Reg.RIG_TRIG n) 8 && decide (fld (u.act Reg.RIG_TRIG n) 21 16 = src) then
        (if fld (u.act Reg.RIG_TRIG n) 5 0 = src then u.frameEvent n t else u).burstEvent n
        else (if fld (u.act Reg.RIG_TRIG n) 5 0 = src then u.frameEvent n t else u)) = if n = r then u.burstEvent n else u := by
    intro u n hc hn
    have ha : u.act Reg.RIG_TRIG n = s.act Reg.RIG_TRIG n := by unfold State.act State.activeSet; rw [hc]
    rw [ha, if_neg (h1 n hn)]
    by_cases e : n = r
    · rw [if_pos e, if_pos (by rw [Bool.and_eq_true, decide_eq_true_eq]; exact (h2 n hn).mpr e)]
    · rw [if_neg e, if_neg (by rw [Bool.and_eq_true, decide_eq_true_eq]; exact fun c => e ((h2 n hn).mp c))]
  have key : ∀ (l : List Nat) (u : State), u.cfg = s.cfg → (∀ n ∈ l, n < 16) → l.Nodup →
      l.foldl (fun (s : State) r =>
        let c := s.act Reg.RIG_TRIG r
        let s := if fld c 5 0 = src then s.frameEvent r t else s
        if bit c 8 && decide (fld c 21 16 = src) then s.burstEvent r else s) u = if r ∈ l then u.burstEvent r else u := by
    intro l
    induction l with
    | nil => exact fun u _ _ _ => rfl
    | cons n l ih =>
      intro u hc hl hd
      obtain ⟨d1, d2⟩ := List.nodup_cons.mp hd
      rw [List.foldl_cons]
      dsimp only
      rw [step u n hc (hl n (List.mem_cons_self ..))]
      by_cases e : n = r
      · rw [if_pos e, ih _ (((State.burstEvent_keeps ..).same .cfg rfl).trans hc) (fun m hm => hl m (List.mem_cons_of_mem _ hm)) d2,
          if_neg (by rw [← e]; exact d1), if_pos (by rw [e]; exact List.mem_cons_self ..), e]
      · rw [if_neg e, ih _ hc (fun m hm => hl m (List.mem_cons_of_mem _ hm)) d2]
        have : (r ∈ n :: l) = (r ∈ l) := by simp [Ne.symm e]
        simp only [this]
  unfold State.rigSource
  rw [key _ s rfl (fun n hn => List.mem_range.mp hn) List.nodup_range, if_pos (List.mem_range.mpr hr)]

/-- A probe's position just delivered goes to its register pair. -/
theorem State.deliverPos_probe0 (s : State) (c k : Nat) (t : Int) (e : Option (Int × Pos)) (p : Pos) (h : Bool) :
    s.deliverPos { channel := c, forProbe := true, owner := k, index := 0, at_ := t, before := e } p h
      = s.set64 Reg.PRB_POS0_LO Reg.PRB_POS0_HI k (p.signExtend 64).toNat := rfl

theorem State.deliverPos_probe1 (s : State) (c k : Nat) (t : Int) (e : Option (Int × Pos)) (p : Pos) (h : Bool) :
    s.deliverPos { channel := c, forProbe := true, owner := k, index := 1, at_ := t, before := e } p h
      = s.set64 Reg.PRB_POS1_LO Reg.PRB_POS1_HI k (p.signExtend 64).toNat := rfl

theorem State.waitFor_not (s : State) (w : PosWait) (h : s.isRead w.channel = false) : s.waitFor w = s := by
  unfold State.waitFor
  rw [h]
  rfl

end Sys2Proof.Machine
end

