-- ==== Sys2Proof/Laws/FactsStore.lean ====
section
/-! SUPPORT. What closes, seals, releases and returns of pages leave of a frame. -/

namespace Sys2Proof.Machine

theorem State.frame?_mem {s : State} {x : FrameSt} (hm : x ∈ s.store.frames) (hu : ∀ g ∈ s.store.frames, g.id = x.id → g = x) :
    s.frame? x.id = some x := by
  unfold State.frame?
  cases e : s.store.frames.find? (fun f => decide (f.id = x.id)) with
  | none => exact absurd (decide_eq_true rfl) (List.find?_eq_none.mp e x hm)
  | some g =>
    have h1 := List.mem_of_find?_eq_some e
    have h2 := List.find?_some e
    rw [hu g h1 (by simpa using h2)]

/-- From `s` to `t` a frame changes at most its holders and when its pages are free; streams and takes stay. -/
structure HoldOnly (s t : State) : Prop where
  frame : ∀ j x, s.frame? j = some x → ∃ a b, t.frame? j = some { x with hold := a, freeAt := b }
  streams : t.store.streams = s.store.streams
  takes : t.takes.takes = s.takes.takes

theorem HoldOnly.refl (s : State) : HoldOnly s s := ⟨fun _ x h => ⟨x.hold, x.freeAt, h⟩, rfl, rfl⟩

theorem HoldOnly.trans {s t u : State} (h : HoldOnly s t) (k : HoldOnly t u) : HoldOnly s u :=
  ⟨fun j x hx => by
    obtain ⟨a, b, e⟩ := h.frame j x hx
    obtain ⟨c, d, e'⟩ := k.frame j _ e
    exact ⟨c, d, e'⟩, k.streams.trans h.streams, k.takes.trans h.takes⟩

theorem HoldOnly.of {s t : State} (h1 : t.store = s.store) (h2 : t.takes.takes = s.takes.takes) : HoldOnly s t :=
  ⟨fun j x h => ⟨x.hold, x.freeAt, by rw [State.frame?_store h1]; exact h⟩, by rw [h1], h2⟩

theorem HoldOnly.foldl {α : Type} (f : State → α → State) (l : List α) (h : ∀ s a, HoldOnly s (f s a)) (s : State) : HoldOnly s (l.foldl f s) := by
  induction l generalizing s with
  | nil => exact HoldOnly.refl s
  | cons a l ih => exact (h s a).trans (ih _)

theorem State.setFrame_holdOnly (s : State) (id : Nat) (f : FrameSt → FrameSt)
    (hf : ∀ x, ∃ a b, f x = { x with hold := a, freeAt := b }) : HoldOnly s (s.setFrame id f) := by
  have hid : ∀ x, (f x).id = x.id := fun x => by
    obtain ⟨a, b, e⟩ := hf x
    rw [e]
  refine ⟨fun j x h => ?_, rfl, rfl⟩
  rw [State.frame?_setFrame _ _ f hid, h, Option.map_some]
  split
  · obtain ⟨a, b, e⟩ := hf x
    exact ⟨a, b, by rw [e]⟩
  · exact ⟨x.hold, x.freeAt, rfl⟩

theorem State.tallyTest_holdOnly (s : State) (id : Nat) : HoldOnly s (s.tallyTest id) := by
  unfold State.tallyTest
  split
  · split
    · exact State.setFrame_holdOnly _ _ _ (fun x => ⟨x.hold, _, rfl⟩)
    · exact HoldOnly.refl _
  · exact HoldOnly.refl _

theorem State.uncharge_holdOnly (s : State) (f : FrameSt) : HoldOnly s (s.uncharge f) := HoldOnly.of rfl rfl

theorem State.releaseIf_holdOnly (s : State) (id h : Nat) : HoldOnly s (s.releaseIf id h) := by
  have he : ∀ (u : State) l a b c, HoldOnly u ((u.storeEvt l).logEntry a b c) := fun u l a b c =>
    HoldOnly.of (show ((u.storeEvt l).logEntry a b c).store = u.store from (State.storeEvt_keeps ..).same .store rfl)
      (congrArg TakeState.takes (show ((u.storeEvt l).logEntry a b c).takes = u.takes from (State.storeEvt_keeps ..).same .takes rfl))
  unfold State.releaseIf
  split
  · split
    · unfold State.release
      split
      · exact ⟨fun j x h => ⟨x.hold, x.freeAt, h⟩, rfl, rfl⟩
      · unfold State.releaseNow
        split
        · exact he ..
        · dsimp only
          split
          · have h1 : HoldOnly s ((s.setFrame id (fun f => { f with hold := f.hold.drop h })).tallyTest id) :=
              (State.setFrame_holdOnly _ _ _ (fun x => ⟨_, x.freeAt, rfl⟩)).trans (State.tallyTest_holdOnly _ _)
            split
            · exact h1.trans (State.uncharge_holdOnly _ _)
            · exact h1
          · exact he ..
    · exact HoldOnly.refl _
  · exact HoldOnly.refl _

theorem State.pendFor_holdOnly (s : State) (f : FrameSt) (k : Nat) : HoldOnly s (s.pendFor f k) := by
  unfold State.pendFor
  dsimp only
  refine HoldOnly.trans (t := _) ?_ (HoldOnly.foldl _ _ (fun u id => ?_) _)
  · exact HoldOnly.of rfl rfl
  · exact HoldOnly.trans (t := u.count Reg.SUB_SKIP_CNT k) (HoldOnly.of rfl rfl) (State.releaseIf_holdOnly _ _ _)

theorem State.pendAll_holdOnly (s : State) (id : Nat) : HoldOnly s (s.pendAll id) := by
  unfold State.pendAll
  split
  · exact HoldOnly.foldl _ _ (fun u k => State.pendFor_holdOnly _ _ _) _
  · exact HoldOnly.refl _

/-- From `s` to `t` streams' histories, counts and last frames stay too, whatever the ring does. -/
def StreamRest (s t : State) : Prop := ∀ st, (t.stream st).lastFrame = (s.stream st).lastFrame ∧ (t.stream st).history = (s.stream st).history
  ∧ (t.stream st).consec = (s.stream st).consec

theorem StreamRest.of {s t : State} (h : t.store.streams = s.store.streams) : StreamRest s t := fun st => by
  unfold State.stream
  rw [h]
  exact ⟨rfl, rfl, rfl⟩

theorem StreamRest.trans {s t u : State} (h : StreamRest s t) (k : StreamRest t u) : StreamRest s u := fun st =>
  ⟨(k st).1.trans (h st).1, (k st).2.1.trans (h st).2.1, (k st).2.2.trans (h st).2.2⟩

theorem State.stream_setStream (s : State) (st k : Nat) (f : StreamSt → StreamSt) :
    (s.setStream st f).stream k = if k = st then f (s.stream st) else s.stream k := Tab.get_upd _ _ st k f

theorem State.setStream_streamRest (s : State) (st : Nat) (f : StreamSt → StreamSt)
    (h : ∀ q, (f q).lastFrame = q.lastFrame ∧ (f q).history = q.history ∧ (f q).consec = q.consec) : StreamRest s (s.setStream st f) := fun k => by
  rw [State.stream_setStream]
  split
  · next e => rw [e]; exact h _
  · exact ⟨rfl, rfl, rfl⟩

theorem State.prerollLeave_rest (s : State) (st r n : Nat) : (∀ j x, s.frame? j = some x → ∃ a b, (s.prerollLeave st r n).frame? j = some { x with hold := a, freeAt := b })
    ∧ StreamRest s (s.prerollLeave st r n) := by
  unfold State.prerollLeave
  split
  · exact ⟨fun j x h => ⟨x.hold, x.freeAt, h⟩, State.setStream_streamRest _ _ _ (fun _ => ⟨rfl, rfl, rfl⟩)⟩
  · have h : HoldOnly s (s.prerollDrop st r n) := by
      unfold State.prerollDrop State.releaseAll
      exact HoldOnly.foldl _ _ (fun u f => State.releaseIf_holdOnly _ _ _) _
    exact ⟨h.frame, StreamRest.of h.streams⟩

theorem State.slotBytes_cur (s : State) (i : Nat) (a b : Bool) : (s.slotBytes i a b).store = s.store ∧ (s.slotBytes i a b).takes = s.takes :=
  ⟨(State.slotBytes_keeps ..).same .store rfl, (State.slotBytes_keeps ..).same .takes rfl⟩

/-- A read counts in PC_BYTES alone. -/
theorem State.readBytes_win (s : State) (f : FrameSt) (o n w : Nat) (hw : w ≠ 8) : WinSame w s (s.readBytes f o n) := by
  unfold State.readBytes
  apply WinSame.foldl
  intro s e
  split
  · unfold State.add64 State.set64
    exact (WinSame.setReg _ _ _ _ _ (by decide) (fun c => hw c.symm)).trans (WinSame.setReg _ _ _ _ _ (by decide) (fun c => hw c.symm))
  · exact WinSame.refl w s

theorem State.pendFor_frame (s : State) (f : FrameSt) (k : Nat) : (s.pendFor f k).frame? f.id = s.frame? f.id := by
  unfold State.pendFor
  dsimp only
  rw [State.fold_frame _ _ _ _ (fun u id hid => ?_)]
  · rfl
  · refine (State.releaseIf_frame_ne _ _ _ _ (fun c => ?_)).trans rfl
    split at hid
    · obtain ⟨_, h⟩ := List.mem_filter.mp hid
      rw [← c] at h
      cases e : s.frame? f.id with
      | none => rw [e] at h; cases h
      | some g =>
        rw [e] at h
        simp only [Bool.and_eq_true, decide_eq_true_eq] at h
        exact h.2 (State.frame?_id e)
    · cases hid

/-- A frame that becomes pending stays as it is. -/
theorem State.pendAll_frame (s : State) (id : Nat) : (s.pendAll id).frame? id = s.frame? id := by
  unfold State.pendAll
  cases e : s.frame? id with
  | none => exact e
  | some f =>
    dsimp only
    rw [State.fold_frame _ _ _ _ (fun u k _ => ?_)]
    · exact e
    · have := State.frame?_id e
      rw [← this]
      exact State.pendFor_frame ..

theorem State.take?_setTake (s : State) (id : Nat) (k : Take) (f : Take → Take) (hf : ∀ t, (f t).id = t.id) (h : s.take? id = some k) :
    (s.setTake id f).take? id = some (f k) := by
  unfold State.take? State.setTake at *
  show (s.takes.takes.map (fun x => if x.id = id then f x else x)).find? _ = _
  generalize s.takes.takes = l at h
  induction l with
  | nil => cases h
  | cons a l ih =>
    rw [List.map_cons, List.find?_cons]
    rw [List.find?_cons] at h
    by_cases ha : a.id = id
    · rw [if_pos ha, hf, decide_eq_true ha]
      rw [decide_eq_true ha] at h
      cases h
      rfl
    · rw [if_neg ha, decide_eq_false ha]
      rw [decide_eq_false ha] at h
      exact ih h

theorem State.ite_pred {P : State → Prop} {c : Prop} [Decidable c] {a b : State} (ha : P a) (hb : P b) : P (if c then a else b) := by
  split <;> assumption

/-- The erasure of a take's key leaves its chain values. -/
theorem State.eraseKey_chains (s : State) (t k : Take) (h : s.take? t.id = some k) :
    ∃ k', (s.eraseKey t).take? t.id = some k' ∧ k'.chains = k.chains := by
  unfold State.eraseKey
  dsimp only
  generalize (s.take? t.id).bind (·.last) = o
  cases o with
  | none => exact ⟨k, h, rfl⟩
  | some n =>
    dsimp only
    refine State.ite_pred (P := fun z => ∃ k', z.take? t.id = some k' ∧ k'.chains = k.chains) ⟨k, h, rfl⟩ ?_
    refine ⟨_, State.take?_setTake s t.id k _ (fun _ => ?_) h, ?_⟩ <;> rfl

/-- From `s` to `t` frames that have gone stay gone, and record slots that came back stay back. -/
structure StoreFrees (s t : State) : Prop where
  gone : ∀ j, s.frame? j = none → t.frame? j = none
  slots : ∀ i, i ∈ s.store.slotBack → i ∈ t.store.slotBack

theorem StoreFrees.refl (s : State) : StoreFrees s s := ⟨fun _ h => h, fun _ h => h⟩
theorem StoreFrees.trans {s t u : State} (h : StoreFrees s t) (k : StoreFrees t u) : StoreFrees s u :=
  ⟨fun j a => k.gone j (h.gone j a), fun i a => k.slots i (h.slots i a)⟩
theorem StoreFrees.of {s t : State} (h : t.store.frames = s.store.frames) (k : t.store.slotBack = s.store.slotBack) : StoreFrees s t :=
  ⟨fun j a => by rw [State.frame?_frames h]; exact a, fun i a => by rw [k]; exact a⟩
theorem StoreFrees.foldl {α : Type} (f : State → α → State) (l : List α) (h : ∀ s a, StoreFrees s (f s a)) (s : State) :
    StoreFrees s (l.foldl f s) := by
  induction l generalizing s with
  | nil => exact StoreFrees.refl s
  | cons a l ih => exact (h s a).trans (ih _)

theorem State.setFrame_frees (s : State) (id : Nat) (f : FrameSt → FrameSt) (hf : ∀ x, (f x).id = x.id) : StoreFrees s (s.setFrame id f) :=
  ⟨fun j a => by rw [State.frame?_setFrame _ _ f hf, a]; rfl, fun _ a => a⟩

theorem State.freeSlot_frees (s : State) (i : Nat) : StoreFrees s (s.freeSlot i) ∧ i ∈ (s.freeSlot i).store.slotBack :=
  ⟨⟨fun _ a => a, fun _ a => List.mem_append_left _ a⟩, List.mem_append_right _ (List.mem_singleton.mpr rfl)⟩

theorem State.freePages_frees (l : List (Nat × Nat)) (s : State) : StoreFrees s (l.foldl (fun s e => s.freePage (e.2 - 1)) s) :=
  StoreFrees.foldl (fun (s : State) (e : Nat × Nat) => s.freePage (e.2 - 1)) l (fun _ _ => StoreFrees.of rfl rfl) s

theorem State.setSpws_frees (s : State) (w : Nat) (f : SpwSt → SpwSt) :
    StoreFrees s (s.setStore (fun q => { q with spws := q.spws.upd {} w f })) := StoreFrees.of rfl rfl

/-- A frame that is freed is gone. -/
theorem State.freeFrame_frees (s : State) (f : FrameSt) : StoreFrees s (s.freeFrame f) ∧ (s.freeFrame f).frame? f.id = none := by
  unfold State.freeFrame
  dsimp only
  generalize hu : (if f.pagesOut = true then s else List.foldl (fun (s : State) e => s.freePage (e.2 - 1)) s f.pages) = u
  have h1 : StoreFrees s u := by
    rw [← hu]
    split
    · exact StoreFrees.refl _
    · exact State.freePages_frees _ _
  clear hu
  have key : ∀ v : State, StoreFrees u v →
      StoreFrees s (v.setStore (fun q => { q with frames := q.frames.filter (fun x => decide (x.id ≠ f.id)) }))
      ∧ (v.setStore (fun q => { q with frames := q.frames.filter (fun x => decide (x.id ≠ f.id)) })).frame? f.id = none := by
    intro v hv
    constructor
    · refine (h1.trans hv).trans ⟨fun j a => ?_, fun _ a => a⟩
      unfold State.frame? at a ⊢
      rw [List.find?_eq_none] at a ⊢
      exact fun x hx => a x (List.mem_filter.mp hx).1
    · unfold State.frame?
      rw [List.find?_eq_none]
      intro x hx c
      have h2 := (List.mem_filter.mp hx).2
      simp only [decide_eq_true_eq] at h2 c
      exact h2 c
  have key2 : ∀ v : State, StoreFrees u v → ∀ l : FLoc, (match l with
      | .spilled w ps | .pagingOut w ps => StoreFrees u (v.setStore (fun q => { q with
        spws := q.spws.upd {} w (fun x => { x with used := x.used.filter (fun p => !ps.contains p) }) }))
      | .resident => StoreFrees u v) := by
    intro v hv l
    cases l
    · exact hv
    · exact hv.trans (State.setSpws_frees _ _ _)
    · exact hv.trans (State.setSpws_frees _ _ _)
  generalize f.slot = sl
  cases sl with
  | none =>
    have k := key2 u (StoreFrees.refl u) f.loc
    generalize f.loc = l at k
    cases l <;> exact key _ k
  | some i =>
    have k := key2 (u.freeSlot i) (u.freeSlot_frees i).1 f.loc
    generalize f.loc = l at k
    cases l <;> exact key _ k

/-- What the return of slots leaves of a frame: its holders, when it is free, its readers and its id; and the slots are back. -/
theorem State.returnSlots_frames (l : List FrameSt) (s : State) :
    (∀ f ∈ s.store.frames, ∃ g ∈ (l.foldl (fun (s : State) f => s.returnSlot f) s).store.frames,
        g.id = f.id ∧ g.hold = f.hold ∧ g.freeAt = f.freeAt ∧ g.readers = f.readers)
      ∧ StoreFrees s (l.foldl (fun (s : State) f => s.returnSlot f) s)
      ∧ (∀ f ∈ l, ∀ i, f.slot = some i → i ∈ (l.foldl (fun (s : State) f => s.returnSlot f) s).store.slotBack) := by
  induction l generalizing s with
  | nil => exact ⟨fun f hf => ⟨f, hf, rfl, rfl, rfl, rfl⟩, StoreFrees.refl s, fun f hf => by cases hf⟩
  | cons a l ih =>
    rw [List.foldl_cons]
    obtain ⟨i1, i2, i3⟩ := ih (s.returnSlot a)
    have h : (∀ f ∈ s.store.frames, ∃ g ∈ (s.returnSlot a).store.frames, g.id = f.id ∧ g.hold = f.hold ∧ g.freeAt = f.freeAt ∧ g.readers = f.readers)
        ∧ StoreFrees s (s.returnSlot a) ∧ ∀ i, a.slot = some i → i ∈ (s.returnSlot a).store.slotBack := by
      unfold State.returnSlot
      generalize a.slot = sl
      cases sl with
      | none => exact ⟨fun f hf => ⟨f, hf, rfl, rfl, rfl, rfl⟩, StoreFrees.refl s, fun i c => by cases c⟩
      | some i =>
        refine ⟨fun f hf => ⟨_, List.mem_map.mpr ⟨f, hf, rfl⟩, ?_⟩, (s.freeSlot_frees i).1.trans (State.setFrame_frees _ _ _ (fun _ => ?_)), fun j c => ?_⟩
        · split <;> exact ⟨rfl, rfl, rfl, rfl⟩
        · rfl
        · cases c
          exact (s.freeSlot_frees i).2
    obtain ⟨h1, h2, h3⟩ := h
    refine ⟨fun f hf => ?_, h2.trans i2, fun f hf i hi => ?_⟩
    · obtain ⟨g, hg, g1, g2, g3, g4⟩ := h1 f hf
      obtain ⟨k, hk, k1, k2, k3, k4⟩ := i1 g hg
      exact ⟨k, hk, k1.trans g1, k2.trans g2, k3.trans g3, k4.trans g4⟩
    · rcases List.mem_cons.mp hf with e | e
      · exact i2.slots i (h3 i (e ▸ hi))
      · exact i3 f e i hi

/-- What the return of pages leaves: frames without holders are gone. -/
theorem State.returnPages_frees (l : List FrameSt) (s : State) :
    StoreFrees s (l.foldl (fun (s : State) f => s.returnPages f) s)
      ∧ (∀ f ∈ l, f.hold.tally = 0 → (l.foldl (fun (s : State) f => s.returnPages f) s).frame? f.id = none) := by
  induction l generalizing s with
  | nil => exact ⟨StoreFrees.refl s, fun f hf => by cases hf⟩
  | cons a l ih =>
    rw [List.foldl_cons]
    obtain ⟨i1, i2⟩ := ih (s.returnPages a)
    have h : StoreFrees s (s.returnPages a) ∧ (a.hold.tally = 0 → (s.returnPages a).frame? a.id = none) := by
      unfold State.returnPages
      split
      · exact ⟨(s.freeFrame_frees a).1, fun _ => (s.freeFrame_frees a).2⟩
      · next hn =>
        refine ⟨?_, fun c => absurd c hn⟩
        refine (State.freePages_frees a.pages s).trans (State.setFrame_frees _ _ _ (fun _ => ?_))
        rfl
    refine ⟨h.1.trans i1, fun f hf h0 => ?_⟩
    rcases List.mem_cons.mp hf with e | e
    · rw [e] at h0 ⊢
      exact i1.gone _ (h.2 h0)
    · exact i2 f e h0

theorem State.watermarks_streams (s : State) (st : Nat) : (s.watermarks).stream st = s.stream st := by
  have he : ∀ (u : State) l, (u.storeEvt l).store = u.store := fun u l => (State.storeEvt_keeps ..).same .store rfl
  have hf : ∀ (u : State) b, (u.healthFail b).store = u.store := fun u l => (State.healthFail_keeps ..).same .store rfl
  have h : s.watermarks.store.streams = s.store.streams := by
    unfold State.watermarks
    split
    · rfl
    · dsimp only
      generalize hu : State.setStore s _ = u
      have h1 : u.store.streams = s.store.streams := by rw [← hu]; rfl
      clear hu
      generalize (_ ++ _ : List Nat) = new
      have h2 : (if new.isEmpty = true then u else u.storeEvt new).store.streams = s.store.streams :=
        State.ite_pred (P := fun z => z.store.streams = s.store.streams) h1 (by rw [he]; exact h1)
      exact State.ite_pred (P := fun z => z.store.streams = s.store.streams) (by rw [hf]; exact h2) h2
  unfold State.stream
  rw [h]

theorem State.backlogStart_streams (s : State) (st : Nat) : s.backlogStart.stream st = s.stream st := by
  unfold State.backlogStart
  split
  · unfold State.stream
    rw [(State.backlog_keeps ..).same .store rfl]
    rfl
  · rfl

theorem State.allocPage_streams {s u : State} {p st : Nat} (h : s.allocPage = some (p, u)) : u.stream st = s.stream st := by
  have hp : ∀ (n : Nat) (c : Nat), s.popPage n c = some (p, u) → u.store.streams = s.store.streams := by
    intro n
    induction n with
    | zero => intro c e; cases e
    | succ n ih =>
      intro c e
      unfold State.popPage at e
      dsimp only at e
      generalize (if s.unitActive 0x0F c = true then takePc s.store.withheld c 64 (s.store.pcs.get {} c) else none) = g at e
      cases g with
      | none => exact ih _ e
      | some x =>
        obtain ⟨a, b⟩ := x
        cases e
        rfl
  unfold State.stream
  unfold State.allocPage at h
  split at h
  · rw [hp _ _ h]
  · cases h

/-- The refill of a cache only adds pages at its end. -/
theorem State.refillN_cache (n : Nat) (s : State) (st : Nat) : ∃ rest, ((s.refillN st n).stream st).cache = (s.stream st).cache ++ rest := by
  induction n generalizing s with
  | zero => exact ⟨[], (List.append_nil _).symm⟩
  | succ n ih =>
    unfold State.refillN
    cases e : s.allocPage with
    | none => exact ⟨[], (List.append_nil _).symm⟩
    | some pu =>
      obtain ⟨p, u⟩ := pu
      dsimp only
      obtain ⟨rest, hr⟩ := ih ((u.setStream st (fun q => { q with cache := q.cache ++ [p] })).watermarks)
      exact ⟨p :: rest, by rw [hr, State.watermarks_streams, State.stream_setStream, if_pos rfl, State.allocPage_streams e]; simp⟩

/-- The digest chain of a stream goes on: no frame changes, and nothing but its stream's chain. -/
theorem State.digestTo_frames (n : Nat) (s : State) (st run k : Nat) : (s.digestTo st run k n).store.frames = s.store.frames
    ∧ StreamRest s (s.digestTo st run k n) := by
  induction n generalizing s with
  | zero => exact ⟨rfl, StreamRest.of rfl⟩
  | succ n ih =>
    unfold State.digestTo
    split
    · exact ⟨rfl, StreamRest.of rfl⟩
    · next r k' t _ =>
      dsimp only
      generalize hu : State.setStream s st _ = u
      have h1 : u.store.frames = s.store.frames := by rw [← hu]; rfl
      have h2 : StreamRest s u := by
        rw [← hu]
        exact State.setStream_streamRest _ _ _ (fun _ => ⟨rfl, rfl, rfl⟩)
      split
      · exact ⟨h1, h2⟩
      · exact ⟨(ih u).1.trans h1, h2.trans (ih u).2⟩

theorem State.digestOf_frames (s : State) (f : FrameSt) : (s.digestOf f).2.store.frames = s.store.frames
    ∧ StreamRest s (s.digestOf f).2 := by
  unfold State.digestOf
  dsimp only
  generalize hu : (if (s.stream f.stream).trig.contains (f.run, f.frame) = true then s.digestTo f.stream f.run f.frame (s.stream f.stream).trig.length else s) = u
  have h1 : u.store.frames = s.store.frames ∧ StreamRest s u := by
    rw [← hu]
    split
    · exact State.digestTo_frames ..
    · exact ⟨rfl, StreamRest.of rfl⟩
  exact ⟨h1.1, h1.2.trans (State.setStream_streamRest _ _ _ (fun _ => ⟨rfl, rfl, rfl⟩))⟩

theorem State.closeStatus_congr {s t : State} (h1 : t.cfg = s.cfg) (h2 : t.link = s.link) (h3 : t.svc = s.svc) (h4 : t.time = s.time) (f : FrameSt) :
    t.closeStatus f = s.closeStatus f := by
  unfold State.closeStatus State.lastSettings State.hl State.streamLink State.actF State.act State.activeSet State.anyRecovery
  rw [h1, h2, h3, h4]

/-- Candidates of a lost stream: the frames that were triggered; no other frame changes. -/
theorem State.toCandidates_rest (s : State) (st id : Nat) (x : FrameSt) (h : s.frame? id = some x)
    (hu : ∀ g ∈ s.store.frames, g.id = id → g.phase ≠ .triggered) :
    (s.triggeredToCandidates st).frame? id = some x ∧ StreamRest s (s.triggeredToCandidates st) := by
  unfold State.triggeredToCandidates
  have hl : ∀ g ∈ s.store.frames.filter (fun f => decide (f.stream = st) && decide (f.phase = .triggered)), id ≠ g.id := by
    intro g hg c
    obtain ⟨h1, h2⟩ := List.mem_filter.mp hg
    simp only [Bool.and_eq_true, decide_eq_true_eq] at h2
    exact hu g h1 c.symm h2.2
  constructor
  · rw [State.fold_frame _ _ _ _ (fun u g hg => ?_)]
    · exact h
    · rw [State.setFrame_frame_ne _ _ _ _ ?_ (hl g hg)]
      · split <;> rfl
      · exact fun _ => rfl
  · generalize List.filter _ _ = l
    clear hl hu h
    induction l generalizing s with
    | nil => exact StreamRest.of rfl
    | cons g l ih =>
      rw [List.foldl_cons]
      refine StreamRest.trans (StreamRest.of ?_) (ih _)
      dsimp only
      cases g.slot <;> rfl

/-- The close of a frame counts for its stream; the frame itself stays. -/
theorem State.closeHealth_rest (s : State) (f x : FrameSt) (h : s.frame? f.id = some x)
    (hu : ∀ g ∈ s.store.frames, g.id = f.id → g.phase ≠ .triggered) :
    (s.closeHealth f).frame? f.id = some x ∧ ((s.closeHealth f).stream f.stream).lastFrame = f.frame
      ∧ ((s.closeHealth f).stream f.stream).history = (f.endCause.timeout :: (s.stream f.stream).history).take 16
      ∧ ((s.closeHealth f).stream f.stream).consec = (if f.endCause.timeout then satAdd 255 (s.stream f.stream).consec 1 else 0) := by
  unfold State.closeHealth
  dsimp only
  generalize hn : (if f.endCause.timeout = true then satAdd 255 (s.stream f.stream).consec 1 else 0) = n
  generalize hv : State.setStream s f.stream _ = v
  have v1 : v.frame? f.id = some x := by rw [← hv]; exact h
  have v2 : ∀ g ∈ v.store.frames, g.id = f.id → g.phase ≠ .triggered := by rw [← hv]; exact hu
  have v3 : (v.stream f.stream).lastFrame = f.frame ∧ (v.stream f.stream).history = (f.endCause.timeout :: (s.stream f.stream).history).take 16
      ∧ (v.stream f.stream).consec = n := by
    rw [← hv, State.stream_setStream, if_pos rfl]
    exact ⟨rfl, rfl, rfl⟩
  clear hv
  split
  · obtain ⟨c1, c2⟩ := v.toCandidates_rest f.stream f.id x v1 v2
    generalize v.triggeredToCandidates f.stream = w at c1 c2
    have c3 := c2.trans (w.setStream_streamRest f.stream (fun q => { q with lost := true }) (fun _ => ⟨rfl, rfl, rfl⟩))
    have c4 : (w.setStream f.stream (fun q => { q with lost := true })).frame? f.id = some x := c1
    generalize w.setStream f.stream (fun q => { q with lost := true }) = y at c3 c4
    have e : ∀ pl, ((((y.setEvt Reg.ST_EVENTS f.stream 1).post 2 0x21 (target 2 f.stream) pl).healthFail 3).store) = y.store := fun pl => by
      rw [(State.healthFail_keeps ..).same .store rfl, State.post_store]
      rfl
    refine ⟨by rw [State.frame?_store (e _)]; exact c4, ?_⟩
    have hs : ∀ pl, (((y.setEvt Reg.ST_EVENTS f.stream 1).post 2 0x21 (target 2 f.stream) pl).healthFail 3).stream f.stream = y.stream f.stream :=
      fun pl => by unfold State.stream; rw [e]
    rw [hs]
    exact ⟨(c3 f.stream).1.trans v3.1, (c3 f.stream).2.1.trans v3.2.1, (c3 f.stream).2.2.trans v3.2.2⟩
  · exact ⟨v1, v3⟩

theorem State.spw_setSpw (s : State) (w : Nat) (f : SpwSt → SpwSt) : (s.setSpw w f).spw w = f (s.spw w) := Tab.get_upd_self _ _ w f

theorem State.storeEvt_reg (s : State) (l : List Nat) (q : RegRow) (i : Nat) (hq : q.win = 8) (ha : q.addr i ≠ Reg.STORE_EVENTS.addr) :
    (s.storeEvt l).reg q i = s.reg q i := by
  unfold State.storeEvt
  dsimp only
  have h : (s.orReg Reg.STORE_EVENTS 0 (bitsOf l)).reg q i = s.reg q i := by
    unfold State.orReg
    rw [State.reg_setReg_ne _ _ _ _ _ _ _ _ (by decide) (Or.inr ha)]
  split
  · exact h
  · rw [(State.post_postSame ..).reg _ _ _ (quiet_win _ _ _ (by rw [hq]; decide) (by rw [hq]; decide) (by rw [hq]; decide))]
    exact h

theorem State.storeEvt_bit (s : State) (b : Nat) (hb : b < 32) : bit ((s.storeEvt [b]).reg Reg.STORE_EVENTS) b = true := by
  unfold State.storeEvt
  dsimp only
  have hb2 : bitsOf [b] = BitVec.ofNat 32 (2 ^ b) := by simp [bitsOf]
  have h : bit ((s.orReg Reg.STORE_EVENTS 0 (bitsOf [b])).reg Reg.STORE_EVENTS) b = true := by
    rw [hb2]
    have := State.setEvt_bit s Reg.STORE_EVENTS 0 b (by decide) hb
    unfold State.setEvt at this
    unfold State.orReg at this ⊢
    rw [State.reg_setReg_self _ _ _ _ _ (by decide)] at this ⊢
    exact this
  split
  · exact h
  · rw [(State.post_postSame ..).reg _ _ _ (quiet_win _ _ _ (by decide) (by decide) (by decide))]
    exact h

theorem State.allocPage_frames {s u : State} {p : Nat} (h : s.allocPage = some (p, u)) :
    u.store.frames = s.store.frames ∧ u.store.spws = s.store.spws ∧ u.cur = s.cur := by
  have hp : ∀ (n : Nat) (c : Nat), s.popPage n c = some (p, u) → u.store.frames = s.store.frames ∧ u.store.spws = s.store.spws ∧ u.cur = s.cur := by
    intro n
    induction n with
    | zero => intro c e; cases e
    | succ n ih =>
      intro c e
      unfold State.popPage at e
      dsimp only at e
      generalize (if s.unitActive 0x0F c = true then takePc s.store.withheld c 64 (s.store.pcs.get {} c) else none) = g at e
      cases g with
      | none => exact ih _ e
      | some x =>
        obtain ⟨a, b⟩ := x
        cases e
        exact ⟨rfl, rfl, rfl⟩
  unfold State.allocPage at h
  split at h
  · exact hp _ _ h
  · cases h

/-- The watermarks leave the frames and windows, and of the store's registers all but STORE_EVENTS. -/
theorem State.watermarks_rest (s : State) : s.watermarks.store.frames = s.store.frames ∧ s.watermarks.store.spws = s.store.spws
    ∧ (∀ (q : RegRow) (i : Nat), q.win = 8 → q.addr i ≠ Reg.STORE_EVENTS.addr → s.watermarks.reg q i = s.reg q i) := by
  have he : ∀ (u : State) l, (u.storeEvt l).store = u.store := fun u l => (State.storeEvt_keeps ..).same .store rfl
  have hf : ∀ (u : State) b, (u.healthFail b).store = u.store := fun u l => (State.healthFail_keeps ..).same .store rfl
  unfold State.watermarks
  split
  · exact ⟨rfl, rfl, fun _ _ _ _ => rfl⟩
  · dsimp only
    generalize hu : State.setStore s _ = u
    have u1 : u.store.frames = s.store.frames ∧ u.store.spws = s.store.spws ∧ u.cur = s.cur := by rw [← hu]; exact ⟨rfl, rfl, rfl⟩
    clear hu
    generalize (_ ++ _ : List Nat) = new
    generalize hv : (if new.isEmpty = true then u else u.storeEvt new) = v
    have v1 : v.store.frames = s.store.frames ∧ v.store.spws = s.store.spws
        ∧ (∀ (q : RegRow) (i : Nat), q.win = 8 → q.addr i ≠ Reg.STORE_EVENTS.addr → v.reg q i = s.reg q i) := by
      rw [← hv]
      split
      · exact ⟨u1.1, u1.2.1, fun _ _ _ _ => State.reg_cur u1.2.2 ..⟩
      · refine ⟨by rw [he]; exact u1.1, by rw [he]; exact u1.2.1, fun q i h1 h2 => ?_⟩
        rw [State.storeEvt_reg _ _ _ _ h1 h2]
        exact State.reg_cur u1.2.2 ..
    clear hv
    refine State.ite_pred (P := fun z => z.store.frames = s.store.frames ∧ z.store.spws = s.store.spws
      ∧ (∀ (q : RegRow) (i : Nat), q.win = 8 → q.addr i ≠ Reg.STORE_EVENTS.addr → z.reg q i = s.reg q i)) ?_ v1
    · refine ⟨by rw [hf]; exact v1.1, by rw [hf]; exact v1.2.1, fun q i h1 h2 => ?_⟩
      rw [WinSame.ofPost (State.healthFail_postSame ..) (w := 8) (by decide) (by decide) (by decide) q i 0 h1]
      exact v1.2.2 q i h1 h2

theorem State.takePages_frames (n : Nat) (s u : State) (l got : List Nat) (h : s.takePages n l = some (got, u)) :
    u.store.frames = s.store.frames ∧ u.store.spws = s.store.spws
      ∧ (∀ (q : RegRow) (i : Nat), q.win = 8 → q.addr i ≠ Reg.STORE_EVENTS.addr → u.reg q i = s.reg q i) := by
  induction n generalizing s l with
  | zero => cases h; exact ⟨rfl, rfl, fun _ _ _ _ => rfl⟩
  | succ n ih =>
    unfold State.takePages at h
    split at h
    · next p v e =>
      obtain ⟨a1, a2, a3⟩ := State.allocPage_frames e
      obtain ⟨w1, w2, w3⟩ := v.watermarks_rest
      obtain ⟨b1, b2, b3⟩ := ih _ _ h
      exact ⟨b1.trans (w1.trans a1), b2.trans (w2.trans a2), fun q i h1 h2 =>
        (b3 q i h1 h2).trans ((w3 q i h1 h2).trans (State.reg_cur a3 ..))⟩
    · cases h

theorem WinSame.add64 {w : Nat} (s : State) (lo hi : RegRow) (i n : Nat) (h1 : lo.win < 16) (h2 : hi.win < 16) (h3 : lo.win ≠ w)
    (h4 : hi.win ≠ w) : WinSame w s (s.add64 lo hi i n) := by
  unfold State.add64 State.set64
  exact (WinSame.setReg _ _ _ _ _ h1 h3).trans (WinSame.setReg _ _ _ _ _ h2 h4)

/-- The reads of a page-in leave the store and its registers. -/
theorem State.pageInReads_rest (u : State) (m w n : Nat) (p : State → Nat) (b : State → Nat → Nat) (ps : List Nat) :
    (ps.foldl (fun s q => ((s.moverReads m (p s) (b s q) 65536).emit (.hostRead (p s) (b s q) 65536)).hostReadCount (p s) 65536)
      (u.spillMover m w n)).store = u.store
    ∧ WinSame 8 u (ps.foldl (fun s q => ((s.moverReads m (p s) (b s q) 65536).emit (.hostRead (p s) (b s q) 65536)).hostReadCount (p s) 65536)
      (u.spillMover m w n)) := by
  have h0 : (u.spillMover m w n).store = u.store ∧ WinSame 8 u (u.spillMover m w n) :=
    ⟨(State.spillMover_keeps ..).same .store rfl, (WinSame.of rfl).trans
      (WinSame.add64 _ Reg.MV_BYTES_LO Reg.MV_BYTES_HI _ _ (by decide) (by decide) (by decide) (by decide))⟩
  have h1 : ∀ (x : State) (p a : Nat), (((x.moverReads m p a 65536).emit (.hostRead p a 65536)).hostReadCount p 65536).store = x.store
      ∧ WinSame 8 x (((x.moverReads m p a 65536).emit (.hostRead p a 65536)).hostReadCount p 65536) := by
    intro x p a
    refine ⟨((State.hostReadCount_keeps ..).same .store rfl).trans rfl, ?_⟩
    unfold State.hostReadCount
    refine (WinSame.of (t := ((x.moverReads m p a 65536).emit (.hostRead p a 65536)).wakePort p) (((State.wakePort_keeps ..).same .cur rfl).trans rfl)).trans
      (WinSame.add64 (w := 8) _ Reg.HP_RX_BYTES_LO Reg.HP_RX_BYTES_HI _ _ (by decide) (by decide) (by decide) (by decide))
  generalize u.spillMover m w n = x at h0
  induction ps generalizing x with
  | nil => exact h0
  | cons q ps ih => exact ih _ ⟨(h1 x (p x) (b x q)).1.trans h0.1, h0.2.trans (h1 x (p x) (b x q)).2⟩

/-- The backlog policy leaves frames, windows and the store's registers. -/
theorem State.backlogStart_rest (s : State) : s.backlogStart.store.frames = s.store.frames ∧ s.backlogStart.store.spws = s.store.spws
    ∧ WinSame 8 s s.backlogStart := by
  unfold State.backlogStart
  split
  · generalize hu : s.setStore _ = u
    have u1 : u.store.frames = s.store.frames ∧ u.store.spws = s.store.spws ∧ u.cur = s.cur := by rw [← hu]; exact ⟨rfl, rfl, rfl⟩
    clear hu
    have k : u.backlog.store = u.store := (State.backlog_keeps ..).same .store rfl
    refine ⟨by rw [k]; exact u1.1, by rw [k]; exact u1.2.1, (WinSame.of u1.2.2).trans ?_⟩
    unfold State.backlog
    refine WinSame.foldl _ (fun v t => ?_) _
    dsimp only
    have hr : ∀ e, WinSame 8 v (v.relayFailed t.rig 3 e) := fun e => WinSame.post _ _ _ _ _ _ (by decide) (by decide) (by decide)
    repeat' split
    all_goals first
      | exact WinSame.refl _ _
      | exact WinSame.of rfl
      | exact (hr _).trans (WinSame.of rfl)
      | (next e => exact WinSame.of (((State.startRelay_keeps (e := e) ..).same .cur rfl : _)))
  · exact ⟨rfl, rfl, WinSame.refl _ _⟩

/-- A store changes no register but PC_BYTES. -/
theorem State.putPayload_reg (s : State) (id o : Nat) (b : List Byte) (q : RegRow)
    (h : ∀ c, q.addr 0 ≠ Reg.PC_BYTES_LO.addr c ∧ q.addr 0 ≠ Reg.PC_BYTES_HI.addr c) : (s.putPayload id o b).reg q = s.reg q := by
  unfold State.putPayload
  split
  · rfl
  · next hf =>
    generalize pageSplit _ _ _ = l
    clear hf
    induction l generalizing s with
    | nil => rfl
    | cons e l ih =>
      rw [List.foldl_cons, ih]
      dsimp only
      split
      · unfold State.add64 State.set64
        rw [State.reg_setReg_ne _ _ _ _ _ _ _ _ (by decide) (Or.inr (h _).2), State.reg_setReg_ne _ _ _ _ _ _ _ _ (by decide) (Or.inr (h _).1)]
        rfl
      · rfl

/-- A window that has emptied is the host's again: the frames stay. -/
theorem State.windowDone_rest (s : State) (w : Nat) : (s.windowDone w).store.frames = s.store.frames ∧ ((s.windowDone w).spw w).used = (s.spw w).used
    ∧ (∀ q : RegRow, q.win = 8 → q.addr 0 ≠ Reg.STORE_EVENTS.addr → (s.windowDone w).reg q = s.reg q) := by
  have he : ∀ (u : State) l, (u.storeEvt l).store = u.store := fun u l => (State.storeEvt_keeps ..).same .store rfl
  unfold State.windowDone
  split
  · refine ⟨by rw [he]; rfl, ?_, fun q h1 h2 => ?_⟩
    · unfold State.spw
      rw [he]
      have := State.spw_setSpw s w (fun q => { q with old := none })
      unfold State.spw at this
      rw [this]
    · rw [State.storeEvt_reg _ _ _ _ h1 h2]
      rfl
  · exact ⟨rfl, rfl, fun _ _ _ => rfl⟩

end Sys2Proof.Machine
end

