-- ==== Sys2Proof/Laws/FactsRecording.lean ====
section
/-! SUPPORT. What placing a frame, writing a stream and ending a segment do to the segment -/

namespace Sys2Proof.Machine

/-- Segments, records and sets are as before. -/
def MagRest (s t : State) : Prop := t.mag.segs = s.mag.segs ∧ t.mag.recs = s.mag.recs ∧ t.mag.sets = s.mag.sets

theorem MagRest.refl (s : State) : MagRest s s := ⟨rfl, rfl, rfl⟩
theorem MagRest.of {s t : State} (h : t.mag = s.mag) : MagRest s t := by unfold MagRest; rw [h]; exact ⟨rfl, rfl, rfl⟩
theorem MagRest.trans {s t u : State} (h : MagRest s t) (k : MagRest t u) : MagRest s u :=
  ⟨k.1.trans h.1, k.2.1.trans h.2.1, k.2.2.trans h.2.2⟩
theorem MagRest.foldl {α : Type} (f : State → α → State) (l : List α) (h : ∀ s x, MagRest s (f s x)) (s : State) : MagRest s (l.foldl f s) := by
  induction l generalizing s with
  | nil => exact MagRest.refl s
  | cons x l ih => exact (h s x).trans (ih _)

theorem State.seg?_of {s t : State} (h : MagRest s t) (id : Nat) : t.seg? id = s.seg? id := by
  unfold State.seg?
  rw [h.1]
theorem State.rec_of {s t : State} (h : MagRest s t) (id : Nat) : t.rec_ id = s.rec_ id := by
  unfold State.rec_
  rw [h.2.1]

theorem State.issue_rest (s : State) (slot : Nat) (kind : DrvKind) (op : DrvOp) (lba blocks queue : Nat) (data : List Byte) :
    MagRest s (s.issue slot kind op lba blocks queue data) := by
  unfold State.issue
  dsimp only
  split
  · exact ⟨rfl, rfl, rfl⟩
  · split <;> exact ⟨rfl, rfl, rfl⟩

theorem State.setDrive_rest (s : State) (d : Nat) (f : DriveSt → DriveSt) : MagRest s (s.setDrive d f) := ⟨rfl, rfl, rfl⟩

theorem State.writeMeta_rest (s : State) (slot : Nat) (kind : DrvKind) (lba : Nat) (data : List Byte) :
    MagRest s (s.writeMeta slot kind lba data) := State.issue_rest ..

theorem State.journal_rest (s : State) (id kind pos : Nat) : MagRest s (s.journal id kind pos) := by
  unfold State.journal
  split
  · exact MagRest.refl s
  · exact MagRest.foldl _ _ (fun u d => (State.writeMeta_rest ..).trans (State.setDrive_rest ..)) s

theorem State.dirBlock_rest (s : State) (id : Nat) (c : Bool) : MagRest s (s.dirBlock id c) := by
  unfold State.dirBlock
  split
  · exact MagRest.refl s
  · dsimp only
    have h : ∀ (l : List Nat) (k : DrvKind) (lba : Nat) (b : List Byte) (u : State), MagRest u (l.foldl (fun s d => s.writeMeta d k lba b) u) :=
      fun l k lba b u => MagRest.foldl _ _ (fun v d => State.writeMeta_rest ..) u
    split
    · exact (h _ _ _ _ s).trans (MagRest.foldl _ _ (fun v d => State.setDrive_rest ..) _)
    · exact h _ _ _ _ s

theorem State.flushSet_rest (s : State) (id : Nat) : MagRest s (s.flushSet id) := by
  unfold State.flushSet
  split
  · exact MagRest.refl s
  · exact MagRest.foldl _ _ (fun u d => State.issue_rest ..) s

theorem State.enterBay_rest (s : State) (b : Nat) (m : BayMode) : MagRest s (s.enterBay b m) := by
  unfold State.enterBay
  dsimp only
  split
  · exact MagRest.refl s
  · exact MagRest.trans (t := s.setBay b (fun q => { q with mode := m })) ⟨rfl, rfl, rfl⟩ (MagRest.of ((State.post_keeps ..).same .mag rfl))

theorem State.spend_rest (s : State) (acts : List Act) (a b n : Nat) : MagRest s (s.spendActs acts a b n) :=
  MagRest.of ((State.spendActs_keeps ..).same .mag rfl)

theorem State.writeData_rest (s : State) (g : Seg) (d lba lo hi : Nat) (data : List Byte) : MagRest s (s.writeData g d lba lo hi data) := by
  unfold State.writeData
  dsimp only
  refine MagRest.trans ?_ (State.spend_rest ..)
  refine MagRest.trans ?_ (State.spend_rest ..)
  refine MagRest.trans ?_ (State.setDrive_rest ..)
  exact State.issue_rest ..

theorem State.seg?_id {s : State} {id : Nat} {g : Seg} (h : s.seg? id = some g) : g.id = id := by
  have := List.find?_some h
  exact of_decide_eq_true this

theorem State.seg?_setSeg (s : State) (id : Nat) (f : Seg → Seg) (hf : ∀ x, x.id = id → (f x).id = id) (k : Nat) :
    (s.setSeg id f).seg? k = (s.seg? k).map (fun g => if g.id = id then f g else g) := by
  unfold State.seg? State.setSeg State.setMag
  dsimp only
  generalize s.mag.segs = l
  induction l with
  | nil => rfl
  | cons x l ih =>
    rw [List.map_cons]
    have e : decide ((if x.id = id then f x else x).id = k) = decide (x.id = k) := by
      split
      · next h => rw [hf x h, h]
      · rfl
    by_cases hx : x.id = k
    · rw [List.find?_cons_of_pos (by rw [e]; exact decide_eq_true hx),
        List.find?_cons_of_pos (p := fun g : Seg => decide (g.id = k)) (decide_eq_true hx)]
      rfl
    · rw [List.find?_cons_of_neg (by rw [e, decide_eq_false hx]; decide),
        List.find?_cons_of_neg (p := fun g : Seg => decide (g.id = k)) (by rw [decide_eq_false hx]; decide)]
      exact ih

theorem State.seg?_setSeg_self {s : State} {id : Nat} {g : Seg} (f : Seg → Seg) (hf : ∀ x, x.id = id → (f x).id = id) (h : s.seg? id = some g) :
    (s.setSeg id f).seg? id = some (f g) := by
  rw [State.seg?_setSeg _ _ _ hf, h, Option.map_some, if_pos (State.seg?_id h)]

/-- What the advance of a checkpoint or an end does to its segment. -/
def SegOn (g h : Seg) : Prop :=
  h.id = g.id ∧ h.set = g.set ∧ h.endKind = g.endKind ∧ h.last = g.last ∧ h.ckptTick = g.ckptTick ∧ h.placed = g.placed ∧ g.stage ≤ h.stage
    ∧ (g.stage = 0 → h.stage = 0 ∧ h.ckptTo = g.ckptTo ∧ h.pos = g.pos)

theorem SegOn.refl (g : Seg) : SegOn g g := ⟨rfl, rfl, rfl, rfl, rfl, rfl, Nat.le_refl _, fun h => ⟨h, rfl, rfl⟩⟩
theorem SegOn.trans {a b c : Seg} (h : SegOn a b) (k : SegOn b c) : SegOn a c := by
  obtain ⟨h1, h2, h3, h4, h5, h6, h7, h8⟩ := h
  obtain ⟨k1, k2, k3, k4, k5, k6, k7, k8⟩ := k
  refine ⟨k1.trans h1, k2.trans h2, k3.trans h3, k4.trans h4, k5.trans h5, k6.trans h6, Nat.le_trans h7 k7, fun z => ?_⟩
  obtain ⟨y1, y2, y3⟩ := h8 z
  obtain ⟨w1, w2, w3⟩ := k8 y1
  exact ⟨w1, w2.trans y2, w3.trans y3⟩

/-- From `s` to `t` segment `id` advances, and the records and sets are as before. -/
def Advances (id : Nat) (s t : State) : Prop :=
  t.mag.recs = s.mag.recs ∧ t.mag.sets = s.mag.sets ∧ ∀ g, s.seg? id = some g → ∃ h, t.seg? id = some h ∧ SegOn g h

theorem Advances.of {id : Nat} {s t : State} (h : MagRest s t) : Advances id s t :=
  ⟨h.2.1, h.2.2, fun g e => ⟨g, (State.seg?_of h id).trans e, SegOn.refl g⟩⟩
theorem Advances.trans {id : Nat} {s t u : State} (h : Advances id s t) (k : Advances id t u) : Advances id s u := by
  refine ⟨k.1.trans h.1, k.2.1.trans h.2.1, fun g e => ?_⟩
  obtain ⟨x, x1, x2⟩ := h.2.2 g e
  obtain ⟨y, y1, y2⟩ := k.2.2 x x1
  exact ⟨y, y1, x2.trans y2⟩
theorem Advances.setSeg {s : State} (id : Nat) (f : Seg → Seg) (hf : ∀ x, x.id = id → (f x).id = id)
    (h : ∀ g, s.seg? id = some g → SegOn g (f g)) : Advances id s (s.setSeg id f) :=
  ⟨rfl, rfl, fun g e => ⟨f g, State.seg?_setSeg_self f hf e, h g e⟩⟩

theorem State.writePiece_facts {s t : State} {id : Nat} {b : Bool} (h : s.writePiece id b = some t) : Advances id s t := by
  unfold State.writePiece at h
  split at h
  · cases h
  · next g hg =>
    generalize s.nextPiece g = p at h
    obtain ⟨lba, whole, ds⟩ := p
    dsimp only at h
    generalize (if b = true then whole else ds.foldl (fun n d => min n (s.granted g d whole)) whole) = n at h
    generalize hpar : decide (setProt s.magSet g.set = 1) = par at h
    generalize (par && decide ((g.written + n) % 768 = 0)) = fills at h
    generalize (if fills = true then s.parityOf _ else ([], 0)) = pp at h
    split at h
    · cases h
    · injection h with h
      rw [← h]
      have hd : ∀ (l : List Nat) (f : State → Nat → State) (u : State), (∀ v d, MagRest v (f v d)) → MagRest u (l.foldl f u) :=
        fun l f u q => MagRest.foldl f l q u
      refine Advances.trans (Advances.trans ?_ (Advances.of (hd ds _ _ (fun v d => State.writeData_rest ..))))
        (Advances.of (hd pp.1 _ _ (fun v d => State.writeData_rest ..)))
      have hi := State.seg?_id hg
      refine Advances.setSeg id _ (fun x hx => ?_) (fun x hx => ?_)
      · split <;> exact hi
      · rw [hg] at hx
        cases hx
        split <;> exact ⟨rfl, rfl, rfl, rfl, rfl, rfl, Nat.le_refl _, fun z => ⟨z, rfl, rfl⟩⟩

theorem State.writeAll_facts (id n : Nat) (s : State) : Advances id s (s.writeAll id n) := by
  induction n generalizing s with
  | zero => exact Advances.of (MagRest.refl s)
  | succ n ih =>
    unfold State.writeAll
    cases h : s.writePiece id true with
    | none => exact Advances.of (MagRest.refl s)
    | some u => exact (State.writePiece_facts h).trans (ih u)

/-- Blocks appended to a segment that is at its end. -/
theorem State.append_on (s : State) (id : Nat) (data : List Byte) (h : ∀ g, s.seg? id = some g → g.stage ≠ 0) :
    Advances id s (s.append id data) := by
  unfold State.append
  exact Advances.setSeg id _ (fun x hx => hx) (fun g e => ⟨rfl, rfl, rfl, rfl, rfl, rfl, Nat.le_refl _, fun z => absurd z (h g e)⟩)

/-- An advance of a segment that is at its end, after one that was. -/
theorem Advances.stage {id : Nat} {s t : State} (h : Advances id s t) (z : ∀ g, s.seg? id = some g → g.stage ≠ 0)
    (e : ∃ g, s.seg? id = some g) : ∀ g, t.seg? id = some g → g.stage ≠ 0 := by
  obtain ⟨g, hg⟩ := e
  obtain ⟨x, hx, hxs⟩ := h.2.2 g hg
  intro y hy
  rw [hx] at hy
  cases hy
  have := z g hg
  have := hxs.2.2.2.2.2.2.1
  omega

theorem Advances.some {id : Nat} {s t : State} (h : Advances id s t) (e : ∃ g, s.seg? id = some g) : ∃ g, t.seg? id = some g := by
  obtain ⟨g, hg⟩ := e
  obtain ⟨x, hx, _⟩ := h.2.2 g hg
  exact ⟨x, hx⟩

theorem State.appendManifest_on (s : State) (id kind : Nat) (c : List Byte) (h : ∀ g, s.seg? id = some g → g.stage ≠ 0) :
    Advances id s (s.appendManifest id kind c) := by
  unfold State.appendManifest
  split
  · exact Advances.of (MagRest.refl s)
  · exact s.append_on id _ h

theorem State.appendPad_on (s : State) (id : Nat) (h : ∀ g, s.seg? id = some g → g.stage ≠ 0) : Advances id s (s.appendPad id) := by
  unfold State.appendPad
  split
  · exact Advances.of (MagRest.refl s)
  · split
    · exact s.append_on id _ h
    · exact Advances.of (MagRest.refl s)

theorem State.manifests_on (s : State) (id : Nat) (h : ∀ g, s.seg? id = some g → g.stage ≠ 0) : Advances id s (s.manifests id) := by
  unfold State.manifests
  split
  · exact Advances.of (MagRest.refl s)
  · next g hg =>
    split
    · exact Advances.of (MagRest.refl s)
    · next t ht =>
      dsimp only
      generalize s.signed _ = c1
      have a1 : Advances id s (s.setSeg id (fun q => { q with manPos := .some q.pos, manDigest := sha384 c1 })) :=
        Advances.setSeg id _ (fun x hx => hx) (fun x e => ⟨rfl, rfl, rfl, rfl, rfl, rfl, Nat.le_refl _, fun z => ⟨z, rfl, rfl⟩⟩)
      generalize s.setSeg id (fun q => { q with manPos := .some q.pos, manDigest := sha384 c1 }) = u at a1 ⊢
      have a2 : Advances id s (u.appendManifest id 1 c1) := a1.trans (u.appendManifest_on id 1 c1 (a1.stage h ⟨g, hg⟩))
      generalize u.appendManifest id 1 c1 = v at a2 ⊢
      generalize hm : (if g.last = true then _ else v) = m
      have a3 : Advances id s m := by
        rw [← hm]
        split
        · have b1 : Advances id v (v.setSeg id (fun q => { q with takePos := .some q.pos })) :=
            Advances.setSeg id _ (fun x hx => hx) (fun x e => ⟨rfl, rfl, rfl, rfl, rfl, rfl, Nat.le_refl _, fun z => ⟨z, rfl, rfl⟩⟩)
          exact (a2.trans b1).trans (State.appendManifest_on _ id 2 _ ((a2.trans b1).stage h ⟨g, hg⟩))
        · exact a2
      exact a3.trans (State.appendPad_on _ id (a3.stage h ⟨g, hg⟩))

theorem State.segDone_facts (s : State) (g : Seg) (h : s.seg? g.id = some g) (hs : g.stage ≠ 0) (h7 : g.stage ≤ 7) : Advances g.id s (s.segDone g) := by
  unfold State.segDone
  dsimp only
  have a1 : Advances g.id s (s.setSeg g.id (fun g => { g with stage := 7, endTick := s.time.tickNum + 1 })) :=
    Advances.setSeg g.id _ (fun x hx => hx) (fun x e => by
      rw [h] at e
      cases e
      exact ⟨rfl, rfl, rfl, rfl, rfl, rfl, h7, fun z => absurd z hs⟩)
  generalize s.setSeg g.id (fun g => { g with stage := 7, endTick := s.time.tickNum + 1 }) = u at a1 ⊢
  have a2 : Advances g.id s (if g.endKind = 2 then u.count Reg.MB_RELAY_CNT else u) := by
    split
    · exact a1.trans (Advances.of (MagRest.of ((State.count_keeps ..).same .mag rfl)))
    · exact a1
  exact a2.trans (Advances.of (MagRest.of ((State.post_keeps ..).same .mag rfl)))

theorem State.segAdvance_facts (id n : Nat) (s : State) : Advances id s (s.segAdvance id n) := by
  induction n generalizing s with
  | zero => exact Advances.of (MagRest.refl s)
  | succ n ih =>
    unfold State.segAdvance
    cases hg : s.seg? id with
    | none => exact Advances.of (MagRest.refl s)
    | some g =>
      dsimp only
      generalize hu : (if (g.ckpt = 1 ∨ g.stage = 1 ∨ g.stage = 4) ∧ s.dev.mode = .operational ∧ (!s.setFailing g.set) = true then
        s.writeAll id 4096 else s) = u
      have a1 : Advances id s u := by
        rw [← hu]
        split
        · exact s.writeAll_facts id 4096
        · exact Advances.of (MagRest.refl s)
      refine a1.trans ?_
      clear hu
      obtain ⟨x, hx, -⟩ := a1.2.2 g hg
      clear a1 hg
      rw [hx, Option.getD_some]
      clear g
      have hxi := State.seg?_id hx
      have on : ∀ (v : State) (f : Seg → Seg), Advances id u v → (∀ y, y.id = id → (f y).id = id) → (∀ y, SegOn x y → SegOn x (f y)) →
          Advances id u ((v.setSeg id f).segAdvance id n) := by
        intro v f h1 h2 h3
        refine Advances.trans ?_ (ih _)
        refine ⟨h1.1, h1.2.1, fun g e => ?_⟩
        rw [hx] at e
        cases e
        obtain ⟨y, y1, y2⟩ := h1.2.2 x hx
        exact ⟨f y, State.seg?_setSeg_self f h2 y1, h3 y y2⟩
      have same : ∀ y z : Seg, SegOn x y → z.id = y.id → z.set = y.set → z.endKind = y.endKind → z.last = y.last → z.ckptTick = y.ckptTick →
          z.placed = y.placed → z.stage = y.stage → z.ckptTo = y.ckptTo → z.pos = y.pos → SegOn x z := by
        intro y z h b1 b2 b3 b4 b5 b6 b7 b8 b9
        refine h.trans ⟨b1, b2, b3, b4, b5, b6, Nat.le_of_eq b7.symm, fun q => ⟨b7.trans q, b8, b9⟩⟩
      have up : ∀ (y z : Seg), SegOn x y → x.stage ≠ 0 → x.stage ≤ z.stage → z.id = y.id → z.set = y.set → z.endKind = y.endKind → z.last = y.last →
          z.ckptTick = y.ckptTick → z.placed = y.placed → SegOn x z := by
        intro y z h h0 h1 b1 b2 b3 b4 b5 b6
        obtain ⟨k1, k2, k3, k4, k5, k6, k7, k8⟩ := h
        exact ⟨b1.trans k1, b2.trans k2, b3.trans k3, b4.trans k4, b5.trans k5, b6.trans k6, h1, fun q => absurd q h0⟩
      have nz : x.stage ≠ 0 → ∀ g, u.seg? id = some g → g.stage ≠ 0 := by
        intro h g e
        rw [hx] at e
        cases e
        exact h
      split
      · exact on _ _ (Advances.of (State.journal_rest ..)) (fun y hy => hy) (fun y h => same y _ h rfl rfl rfl rfl rfl rfl rfl rfl rfl)
      · split
        · exact on _ _ (Advances.of (State.flushSet_rest ..)) (fun y hy => hy) (fun y h => same y _ h rfl rfl rfl rfl rfl rfl rfl rfl rfl)
        · split
          · exact on _ _ (Advances.of (MagRest.refl _)) (fun y hy => hy) (fun y h => same y _ h rfl rfl rfl rfl rfl rfl rfl rfl rfl)
          · split
            · exact Advances.of (MagRest.refl _)
            · split
              · next hst =>
                split
                · exact on _ _ (Advances.of (State.journal_rest ..)) (fun y hy => hy)
                    (fun y h => up y _ h (by omega) (by show x.stage ≤ 2; omega) rfl rfl rfl rfl rfl rfl)
                · exact Advances.of (MagRest.refl _)
              · next hst =>
                split
                · exact Advances.of (MagRest.refl _)
                · exact on _ _ (Advances.of (State.flushSet_rest ..)) (fun y hy => hy)
                    (fun y h => up y _ h (by omega) (by show x.stage ≤ 3; omega) rfl rfl rfl rfl rfl rfl)
              · next hst =>
                split
                · exact Advances.of (MagRest.refl _)
                · exact on _ _ (u.manifests_on id (nz (by omega))) (fun y hy => hy)
                    (fun y h => up y _ h (by omega) (by show x.stage ≤ 4; omega) rfl rfl rfl rfl rfl rfl)
              · next hst =>
                split
                · exact on _ _ (Advances.of ((State.journal_rest ..).trans (State.dirBlock_rest ..))) (fun y hy => hy)
                    (fun y h => up y _ h (by omega) (by show x.stage ≤ 5; omega) rfl rfl rfl rfl rfl rfl)
                · exact Advances.of (MagRest.refl _)
              · next hst =>
                split
                · exact Advances.of (MagRest.refl _)
                · split
                  · rw [← hxi] at hx ⊢
                    exact u.segDone_facts x hx (by omega) (by omega)
                  · exact on _ _ (Advances.of (State.flushSet_rest ..)) (fun y hy => hy)
                      (fun y h => up y _ h (by omega) (by show x.stage ≤ 6; omega) rfl rfl rfl rfl rfl rfl)
              · next hst =>
                split
                · exact Advances.of (MagRest.refl _)
                · rw [← hxi] at hx ⊢
                  exact u.segDone_facts x hx (by omega) (by omega)
              · exact Advances.of (MagRest.refl _)

/-- Items put into a segment's stream: what of the segment they leave. -/
def SegGrow (g h : Seg) : Prop :=
  h.id = g.id ∧ h.opened = g.opened ∧ h.placed = g.placed ∧ g.pos ≤ h.pos ∧ h.stage = g.stage ∧ h.endKind = g.endKind ∧ h.last = g.last
    ∧ h.set = g.set

theorem SegGrow.refl (g : Seg) : SegGrow g g := ⟨rfl, rfl, rfl, Nat.le_refl _, rfl, rfl, rfl, rfl⟩
theorem SegGrow.trans {a b c : Seg} (h : SegGrow a b) (k : SegGrow b c) : SegGrow a c := by
  obtain ⟨h1, h2, h3, h4, h5, h6, h7, h8⟩ := h
  obtain ⟨k1, k2, k3, k4, k5, k6, k7, k8⟩ := k
  exact ⟨k1.trans h1, k2.trans h2, k3.trans h3, Nat.le_trans h4 k4, k5.trans h5, k6.trans h6, k7.trans h7, k8.trans h8⟩

theorem State.append_grow {s : State} {id : Nat} {g : Seg} (h : s.seg? id = some g) (data : List Byte) :
    ∃ k, (s.append id data).seg? id = some k ∧ SegGrow g k ∧ k.pos = g.pos + data.length / 4096 := by
  unfold State.append
  exact ⟨_, State.seg?_setSeg_self _ (fun x hx => hx) h, ⟨rfl, rfl, rfl, Nat.le_add_right _ _, rfl, rfl, rfl, rfl⟩, rfl⟩

theorem State.appendIndex_grow {s : State} {id : Nat} {g : Seg} (h : s.seg? id = some g) :
    ∃ k, (s.appendIndex id).seg? id = some k ∧ SegGrow g k := by
  unfold State.appendIndex
  rw [h]
  dsimp only
  split
  · exact ⟨g, h, SegGrow.refl g⟩
  · generalize pmfBlock _ = b
    have h1 := State.seg?_setSeg_self (s := s) (fun g => { g with lastIndex := some g.pos, indexNo := g.indexNo + 1, sinceIndex := [] })
      (fun x hx => hx) h
    obtain ⟨k, k1, k2, -⟩ := State.append_grow h1 b
    exact ⟨k, k1, SegGrow.trans ⟨rfl, rfl, rfl, Nat.le_refl _, rfl, rfl, rfl, rfl⟩ k2⟩

theorem State.appendPad_grow {s : State} {id : Nat} {g : Seg} (h : s.seg? id = some g) :
    ∃ k, (s.appendPad id).seg? id = some k ∧ SegGrow g k := by
  unfold State.appendPad
  rw [h]
  dsimp only
  split
  · generalize pmfBlock _ ++ _ = b
    obtain ⟨k, k1, k2, -⟩ := State.append_grow h b
    exact ⟨k, k1, k2⟩
  · exact ⟨g, h, SegGrow.refl g⟩

theorem State.addWork_rest (s : State) (a : Act) (x y n : Nat) : MagRest s (s.addWork a x y n) :=
  MagRest.of ((State.addWork_keeps ..).same .mag rfl)

theorem State.askTo_grow {s : State} {id : Nat} {g : Seg} (h : s.seg? id = some g) (upTo : Nat) :
    ∃ k, (s.askTo id upTo).seg? id = some k ∧ SegGrow g k := by
  unfold State.askTo
  rw [h]
  dsimp only
  generalize hu : g.unasked.foldl _ s = u
  have hm : MagRest s u := by
    rw [← hu]
    refine MagRest.foldl _ _ (fun v x => MagRest.foldl _ _ (fun w y => ?_) v) s
    refine MagRest.trans ?_ (State.addWork_rest ..)
    refine MagRest.trans ?_ (MagRest.foldl _ _ (fun z d => State.addWork_rest ..) _)
    exact MagRest.foldl _ _ (fun z d => State.addWork_rest ..) w
  rw [← State.seg?_of hm] at h
  exact ⟨_, State.seg?_setSeg_self _ (fun x hx => hx) h, ⟨rfl, rfl, rfl, Nat.le_refl _, rfl, rfl, rfl, rfl⟩⟩

/-- A frame put into its segment. -/
theorem State.placeIn_facts {s : State} {g : Seg} {f : FrameSt} (h : s.seg? g.id = some g) (hf : s.frame? f.id = some f) :
    (s.placeIn g f).frame? f.id = some { f with placed := true }
      ∧ ∃ k p, (s.placeIn g f).seg? g.id = some k ∧ k.opened = g.opened ∧ k.placed = g.placed ++ [p] ∧ p.id = f.id ∧ p.frame = f.frame
        ∧ p.stream = f.stream ∧ p.pos = g.pos ∧ p.blocks = 1 + ceilDiv (frameBytes f.latch f.stream) 4096
        ∧ (f.record.length = 4096 → g.pos + p.blocks ≤ k.pos) := by
  unfold State.placeIn
  dsimp only
  generalize hp : ({
    id := f.id, frame := f.frame, stream := f.stream, pos := g.pos, blocks := 1 + ceilDiv (frameBytes f.latch f.stream) 4096,
    flags := indexFlags f.status, chain := sliceBytes f.record 4048 48 } : Placed) = p
  have p1 : p.id = f.id ∧ p.frame = f.frame ∧ p.stream = f.stream ∧ p.pos = g.pos ∧ p.blocks = 1 + ceilDiv (frameBytes f.latch f.stream) 4096 := by
    rw [← hp]; exact ⟨rfl, rfl, rfl, rfl, rfl⟩
  have h1 := State.seg?_setSeg_self (s := s) (fun g => { g with placed := g.placed ++ [p], sinceIndex := g.sinceIndex ++ [p] }) (fun x hx => hx) h
  have e1 : (s.setSeg g.id (fun g => { g with placed := g.placed ++ [p], sinceIndex := g.sinceIndex ++ [p] })).frame? f.id = some f := hf
  generalize s.setSeg g.id (fun g => { g with placed := g.placed ++ [p], sinceIndex := g.sinceIndex ++ [p] }) = u at h1 e1 ⊢
  generalize hd : f.record ++ _ = data
  have hl : f.record.length = 4096 → data.length / 4096 = p.blocks := by
    intro hr
    rw [← hd, List.length_append, hr, p1.2.2.2.2]
    unfold sliceBytes
    rw [List.length_append, List.length_replicate]
    generalize hq : (List.take _ _).length = q
    have hqle : q ≤ (1 + ceilDiv (frameBytes f.latch f.stream) 4096 - 1) * 4096 := by
      rw [← hq]; exact List.length_take_le ..
    omega
  obtain ⟨k2, a1, a2, a3⟩ := State.append_grow h1 data
  have e2 : (u.append g.id data).frame? f.id = some f := e1
  generalize u.append g.id data = v at a1 e2 ⊢
  generalize hw : (if (g.placed.length + 1) % 256 = 0 then v.appendIndex g.id else v) = w
  have hb : ∃ k, w.seg? g.id = some k ∧ SegGrow k2 k := by
    rw [← hw]
    split
    · exact State.appendIndex_grow a1
    · exact ⟨k2, a1, SegGrow.refl _⟩
  have e3 : w.frame? f.id = some f := by
    rw [← hw]
    split
    · unfold State.frame?
      rw [(State.appendIndex_keeps ..).same .store rfl]
      exact e2
    · exact e2
  obtain ⟨k3, b1, b2⟩ := hb
  generalize hF : (fun f : FrameSt => ({ f with placed := true } : FrameSt)) = F
  have hFi : ∀ x, (F x).id = x.id := by rw [← hF]; exact fun _ => rfl
  have hFf : F f = { f with placed := true } := by rw [← hF]
  have e4 := State.setFrame_frame_self w f.id f F hFi e3
  have b1' : (w.setFrame f.id F).seg? g.id = some k3 := b1
  generalize w.setFrame f.id F = x at e4 b1' ⊢
  have c1 := State.seg?_setSeg_self (s := x) (fun x => { x with
    unasked := x.unasked ++ [(f.stream, g.pos, g.pos + (1 + ceilDiv (frameBytes f.latch f.stream) 4096))] }) (fun x hx => hx) b1'
  have e5 : (x.setSeg g.id (fun x => { x with
    unasked := x.unasked ++ [(f.stream, g.pos, g.pos + (1 + ceilDiv (frameBytes f.latch f.stream) 4096))] })).frame? f.id = some (F f) := e4
  generalize x.setSeg g.id (fun x => { x with
    unasked := x.unasked ++ [(f.stream, g.pos, g.pos + (1 + ceilDiv (frameBytes f.latch f.stream) 4096))] }) = y at c1 e5 ⊢
  obtain ⟨k4, d1, d2⟩ := State.askTo_grow c1 (((y.seg? g.id).getD g).pos / 256 * 256)
  refine ⟨?_, k4, p, d1, ?_, ?_, p1.1, p1.2.1, p1.2.2.1, p1.2.2.2.1, p1.2.2.2.2, fun hr => ?_⟩
  · unfold State.frame?
    rw [(State.askTo_keeps ..).same .store rfl, ← hFf]
    exact e5
  · rw [d2.2.1]
    show k3.opened = _
    rw [b2.2.1, a2.2.1]
  · rw [d2.2.2.1]
    show k3.placed = _
    rw [b2.2.2.1, a2.2.2.1]
  · have q1 := d2.2.2.2.1
    have q2 : k3.pos ≤ k4.pos := q1
    have q3 := b2.2.2.2.1
    rw [a3, hl hr] at q3
    have q4 : g.pos + p.blocks ≤ k3.pos := q3
    exact Nat.le_trans q4 q2

/-- A segment opens: it stands open, with nothing placed anew. -/
theorem State.openSeg_facts {s : State} {id : Nat} {g : Seg} (h : s.seg? id = some g) :
    (∃ k, (s.openSeg id).seg? id = some k ∧ k.id = g.id ∧ k.opened = true ∧ k.placed = g.placed ∧ k.pos = g.pos)
      ∧ (s.openSeg id).store = s.store := by
  refine ⟨?_, (State.openSeg_keeps ..).same .store rfl⟩
  unfold State.openSeg
  rw [h]
  dsimp only
  generalize hu : (setDrives s.magSet g.set).foldl _ s = u
  have m1 : MagRest s u := by
    rw [← hu]
    exact MagRest.foldl _ _ (fun v d => State.setDrive_rest ..) s
  rw [← State.seg?_of m1] at h
  generalize hF : (fun g : Seg => (_ : Seg)) = F
  have hFi : ∀ x, (F x).id = x.id := by rw [← hF]; exact fun _ => rfl
  have hFg : (F g).opened = true ∧ (F g).placed = g.placed ∧ (F g).pos = g.pos := by rw [← hF]; exact ⟨rfl, rfl, rfl⟩
  have h2 := State.seg?_setSeg_self F (fun x hx => (hFi x).trans hx) h
  generalize u.setSeg id F = v at h2 ⊢
  generalize hw : v.setMag _ = w
  have h3 : w.seg? id = some (F g) := by rw [← hw]; exact h2
  refine ⟨F g, ?_, hFi g, hFg⟩
  refine (State.seg?_of (MagRest.foldl _ _ (fun v d => State.setDrive_rest ..) _) id).trans ?_
  refine (State.seg?_of (State.dirBlock_rest ..) id).trans ?_
  refine (State.seg?_of (State.journal_rest ..) id).trans ?_
  exact (State.seg?_of (MagRest.foldl _ _ (fun v d => State.enterBay_rest ..) _) id).trans h3

/-- A segment that ends normally: its end has begun, of the kind given. -/
theorem State.segEnd_facts {s : State} {id : Nat} {g : Seg} (h : s.seg? id = some g) (kind : Nat) (last : Bool) :
    (∃ k, (s.segEnd id kind last).seg? id = some k ∧ k.endKind = kind ∧ k.last = last ∧ 1 ≤ k.stage ∧ k.placed = g.placed)
      ∧ (s.segEnd id kind last).mag.recs = s.mag.recs := by
  unfold State.segEnd
  rw [h]
  dsimp only
  split
  · refine ⟨⟨_, State.seg?_setSeg_self _ (fun x hx => hx) h, rfl, rfl, ?_, rfl⟩, rfl⟩
    exact Nat.le_add_left 1 6
  · generalize (g.placed.getLast?.map (·.frame)).getD 0 = e
    have h1 := State.seg?_setSeg_self (s := s) (fun g => { g with endKind := kind, endFrame := e, last := last, stage := 1 }) (fun x hx => hx) h
    have r1 : (s.setSeg id (fun g => { g with endKind := kind, endFrame := e, last := last, stage := 1 })).mag.recs = s.mag.recs := rfl
    generalize s.setSeg id (fun g => { g with endKind := kind, endFrame := e, last := last, stage := 1 }) = u at h1 r1 ⊢
    obtain ⟨k1, a1, a2⟩ := State.appendIndex_grow h1
    have r2 : (u.appendIndex id).mag.recs = u.mag.recs := by
      unfold State.appendIndex
      split
      · rfl
      · split <;> rfl
    generalize u.appendIndex id = v at a1 r2 ⊢
    obtain ⟨k2, b1, b2⟩ := State.appendPad_grow a1
    have r3 : (v.appendPad id).mag.recs = v.mag.recs := by
      unfold State.appendPad
      split
      · rfl
      · split <;> rfl
    generalize v.appendPad id = w at b1 r3 ⊢
    obtain ⟨c1, -, c3⟩ := State.segAdvance_facts id 16 w
    obtain ⟨k3, d1, d2⟩ := c3 k2 b1
    have g2 := SegGrow.trans a2 b2
    refine ⟨⟨k3, d1, ?_, ?_, ?_, ?_⟩, c1.trans (r3.trans (r2.trans r1))⟩
    · rw [d2.2.2.1, g2.2.2.2.2.2.1]
    · rw [d2.2.2.2.1, g2.2.2.2.2.2.2.1]
    · have q := d2.2.2.2.2.2.2.1
      rw [g2.2.2.2.2.1] at q
      exact q
    · rw [d2.2.2.2.2.2.1, g2.2.2.1]

theorem foldl_min_of_le (l : List Nat) (f : Nat → Nat) (n : Nat) (h : ∀ d ∈ l, n ≤ f d) : l.foldl (fun k d => min k (f d)) n = n := by
  induction l with
  | nil => rfl
  | cons d l ih =>
    rw [List.foldl_cons, Nat.min_eq_left (h d List.mem_cons_self)]
    exact ih (fun e he => h e (List.mem_cons_of_mem _ he))

/-- The next part of a stream is written where drives and jobs let it. -/
theorem State.writePiece_some {s : State} {id lba n : Nat} {ds : List Nat} {g : Seg} {force : Bool} (h : s.seg? id = some g)
    (hp : s.nextPiece g = (lba, n, ds)) (hn : 0 < n) (hw : ∀ d, s.writesOut d < 56) (hj : force = true ∨ ∀ d ∈ ds, n ≤ s.granted g d n) :
    ∃ t k, s.writePiece id force = some t ∧ t.seg? id = some k ∧ k.written = g.written + n ∧ k.tail = g.tail.drop (n * 4096) ∧ k.pos = g.pos
      ∧ k.placed = g.placed := by
  unfold State.writePiece
  rw [h]
  dsimp only
  rw [hp]
  dsimp only
  have hm : (if force = true then n else ds.foldl (fun k d => min k (s.granted g d n)) n) = n := by
    split
    · rfl
    · next c => exact foldl_min_of_le _ _ _ (hj.resolve_left c)
  rw [hm]
  generalize hpar : decide (setProt s.magSet g.set = 1) = par
  generalize (par && decide ((g.written + n) % 768 = 0)) = fills
  generalize (if fills = true then s.parityOf _ else ([], 0)) = pp
  rw [if_neg (by
    intro c
    have a : decide (n = 0) = false := decide_eq_false (by omega)
    have b : (ds ++ pp.1).all (fun d => decide (s.writesOut d < 56)) = true := List.all_eq_true.mpr (fun d _ => decide_eq_true (hw d))
    rw [a, b] at c
    cases c)]
  have hd : ∀ (l : List Nat) (f : State → Nat → State) (u : State), (∀ v d, MagRest v (f v d)) → MagRest u (l.foldl f u) :=
    fun l f u q => MagRest.foldl f l q u
  have hi := State.seg?_id h
  refine ⟨_, _, rfl, (State.seg?_of (hd pp.1 _ _ (fun v d => State.writeData_rest ..)) id).trans
    ((State.seg?_of (hd ds _ _ (fun v d => State.writeData_rest ..)) id).trans (State.seg?_setSeg_self _ ?_ h)), ?_⟩
  · intro x hx
    split <;> exact hi
  · split <;> exact ⟨rfl, rfl, rfl, rfl⟩

theorem State.rec_setRec (s : State) (t : Nat) (f : RecSt → RecSt) : (s.setRec t f).rec_ t = f (s.rec_ t) := Tab.get_upd_self _ _ t f

/-- A take enters a new segment. -/
theorem State.enterSeg_facts {s : State} (tid set : Nat) (entry : Option Nat) (a b : Nat) (h : ∀ g ∈ s.mag.segs, g.id ≠ s.mag.nextSeg) :
    (∃ k, (s.enterSeg tid set entry a b).seg? s.mag.nextSeg = some k ∧ k.take = tid ∧ k.set = set ∧ k.number = (s.rec_ tid).nextSeg ∧ k.from_ = a)
      ∧ (∀ id g, s.seg? id = some g → (s.enterSeg tid set entry a b).seg? id = some g)
      ∧ ((s.enterSeg tid set entry a b).rec_ tid).relay = (s.rec_ tid).relay ∧ ((s.enterSeg tid set entry a b).rec_ tid).set = some set
      ∧ ((s.enterSeg tid set entry a b).rec_ tid).seg = some s.mag.nextSeg := by
  have hn : s.mag.segs.find? (fun g => decide (g.id = s.mag.nextSeg)) = none :=
    List.find?_eq_none.mpr (fun g hg c => h g hg (of_decide_eq_true c))
  unfold State.enterSeg
  dsimp only
  generalize hk : ({
    id := s.mag.nextSeg, take := tid, rig := (s.rec_ tid).rig, number := (s.rec_ tid).nextSeg, set := set, offload := (s.rec_ tid).offload,
    from_ := a, prevSet := b } : Seg) = k
  have k1 : k.id = s.mag.nextSeg ∧ k.take = tid ∧ k.set = set ∧ k.number = (s.rec_ tid).nextSeg ∧ k.from_ = a := by
    rw [← hk]; exact ⟨rfl, rfl, rfl, rfl, rfl⟩
  refine ⟨⟨k, ?_, k1.2⟩, fun id g e => ?_, ?_⟩
  · show (s.mag.segs ++ [k]).find? (fun g => decide (g.id = s.mag.nextSeg)) = some k
    rw [List.find?_append, hn, Option.none_or]
    exact List.find?_cons_of_pos (decide_eq_true k1.1)
  · show (s.mag.segs ++ [k]).find? (fun g => decide (g.id = id)) = some g
    rw [List.find?_append]
    have : s.mag.segs.find? (fun g => decide (g.id = id)) = some g := e
    rw [this, Option.some_or]
  · rw [State.rec_setRec]
    refine ⟨rfl, rfl, ?_⟩
    rfl

theorem State.drive_setDrive_ne (s : State) (d e : Nat) (f : DriveSt → DriveSt) (h : e ≠ d) : (s.setDrive d f).drive e = s.drive e :=
  Tab.get_upd_ne _ _ _ h

/-- A mark on a drive that changes neither its mode nor its place leaves what the set writes. -/
theorem State.setLive_failDue (s : State) (d m : Nat) :
    (s.setDrive d (fun q => { q with failDue := false })).setLive m = s.setLive m := by
  have h : ∀ e, ((s.setDrive d (fun q => { q with failDue := false })).drive e).mode = (s.drive e).mode
      ∧ ((s.setDrive d (fun q => { q with failDue := false })).drive e).outOfSet = (s.drive e).outOfSet := by
    intro e
    by_cases c : e = d
    · rw [c, State.drive_setDrive_self]
      exact ⟨rfl, rfl⟩
    · rw [State.drive_setDrive_ne _ _ _ _ c]
      exact ⟨rfl, rfl⟩
  unfold State.setLive
  have e1 : (s.setDrive d (fun q => { q with failDue := false })).magSet = s.magSet := rfl
  rw [e1]
  congr 1
  funext e
  rw [(h e).1, (h e).2]

theorem State.ridesOut_failDue (s : State) (d m : Nat) :
    (s.setDrive d (fun q => { q with failDue := false })).ridesOut m = s.ridesOut m := by
  have e1 : (s.setDrive d (fun q => { q with failDue := false })).magSet = s.magSet := rfl
  unfold State.ridesOut
  rw [s.setLive_failDue d m, e1]

/-- With every take closed the loss of a drive changes no take. -/
theorem State.setLoss_closed (s : State) (m r : Nat) (h : ∀ t ∈ s.takes.takes, t.closed = true) : s.setLoss m r = s := by
  unfold State.setLoss
  have go : ∀ (l : List Take) (F : State → Take → State), (∀ t ∈ l, F s t = s) → l.foldl F s = s := by
    intro l F hF
    induction l with
    | nil => rfl
    | cons t l ih =>
      rw [List.foldl_cons, hF t List.mem_cons_self]
      exact ih (fun u hu => hF u (List.mem_cons_of_mem _ hu))
  refine go _ _ (fun t ht => ?_)
  dsimp only
  rw [if_pos (h t ht)]

theorem State.setLosses_closed (l : List Nat) (s : State) (r : Nat) (h : ∀ t ∈ s.takes.takes, t.closed = true) :
    l.foldl (fun s m => s.setLoss m r) s = s := by
  induction l with
  | nil => rfl
  | cons m l ih => rw [List.foldl_cons, s.setLoss_closed m r h]; exact ih

theorem State.bayFailed_facts (s : State) (b : Nat) : (∀ d, (s.bayFailed b).drive d = s.drive d) ∧ (s.bayFailed b).mag.sets = s.mag.sets
    ∧ (((s.bay b).mode = .ready ∨ (s.bay b).mode = .inUse) → (∃ d ∈ slotsOf b, (s.drive d).mode = .failed) →
      (∀ e ∈ slotsOf b, (s.drive e).mode ≠ .ready ∧ (s.drive e).mode ≠ .inUse) → ((s.bayFailed b).bay b).mode = .failed) := by
  have hm := (s.holdBay_facts b).1
  unfold State.bayFailed
  dsimp only
  split
  · obtain ⟨e1, e2, -⟩ := (s.holdBay b).enterBay_facts b .failed
    refine ⟨fun d => (e2 d).trans (State.drive_of hm d), ?_, fun _ _ _ => by rw [e1]⟩
    exact ((s.holdBay b).enterBay_rest b .failed).2.2.trans (by rw [hm])
  · next c =>
    refine ⟨fun _ => rfl, rfl, fun h1 ⟨d, h2, h3⟩ h4 => absurd ⟨h1, ?_, ?_, ?_⟩ c⟩
    · exact List.contains_iff_mem.mpr (List.mem_map.mpr ⟨d, h2, h3⟩)
    · have : ((slotsOf b).map (fun d => (s.drive d).mode)).contains .ready = false := by
        rw [Bool.eq_false_iff]
        intro q
        obtain ⟨e, q1, q2⟩ := List.mem_map.mp (List.contains_iff_mem.mp q)
        exact (h4 e q1).1 q2
      rw [this]; rfl
    · have : ((slotsOf b).map (fun d => (s.drive d).mode)).contains .inUse = false := by
        rw [Bool.eq_false_iff]
        intro q
        obtain ⟨e, q1, q2⟩ := List.mem_map.mp (List.contains_iff_mem.mp q)
        exact (h4 e q1).2 q2
      rw [this]; rfl

theorem mem_slotsOf_bayOf (d : Nat) : d ∈ slotsOf (bayOf d) := by
  unfold slotsOf bayOf
  have : d = 4 * (d / 4) ∨ d = 4 * (d / 4) + 1 ∨ d = 4 * (d / 4) + 2 ∨ d = 4 * (d / 4) + 3 := by omega
  simp only [List.mem_cons, List.not_mem_nil, or_false]
  exact this

theorem State.releases_mag (l : List FrameSt) (F : State → FrameSt → State) (h : ∀ s f, (F s f).mag.sets = s.mag.sets) (s : State) :
    (l.foldl F s).mag.sets = s.mag.sets := by
  induction l generalizing s with
  | nil => rfl
  | cons f l ih => exact (ih _).trans (h s f)

theorem State.releaseWritten_sets (s : State) (tid : Nat) : (s.releaseWritten tid).mag.sets = s.mag.sets := by
  have hr : ∀ (v : State) (i h : Nat), (v.releaseIf i h).mag = v.mag := fun v i h => (State.releaseIf_keeps ..).same .mag rfl
  unfold State.releaseWritten
  split
  · rfl
  · dsimp only
    split
    · rfl
    · generalize hu : List.foldl _ s _ = u
      have h1 : u.mag.sets = s.mag.sets := by
        rw [← hu]
        refine State.releases_mag _ _ (fun v f => ?_) s
        split
        · rfl
        · rw [hr]
      split
      · have : ∀ (w : State) r, (w.burstSweep r).mag = w.mag := fun w r => (State.burstSweep_keeps ..).same .mag rfl
        rw [this]
        split <;> (split <;> exact h1)
      · split <;> (split <;> exact h1)

theorem State.segAdvances_sets (l : List Seg) (n : Nat) (s : State) : (l.foldl (fun s g => s.segAdvance g.id n) s).mag.sets = s.mag.sets := by
  induction l generalizing s with
  | nil => rfl
  | cons g l ih => exact (ih _).trans (State.segAdvance_facts g.id n s).2.1

/-- A set that rides a loss out degrades. -/
theorem State.setLoss_degrades (s : State) (m r : Nat) (t : Take) (ht : s.takes.takes = [t]) (hc : t.closed = false)
    (hr : (s.rec_ t.id).relay = none) (he : (s.rec_ t.id).emerg = none) (hg : ∃ g ∈ s.mag.segs, g.take = t.id ∧ g.set = m ∧ g.stage < 7)
    (ho : s.ridesOut m = true) : ((s.setLoss m r).mag.sets.get {} m).degraded = true := by
  unfold State.setLoss
  rw [ht, List.foldl_cons, List.foldl_nil]
  dsimp only
  rw [if_neg (by rw [hc]; decide), hr]
  dsimp only
  rw [if_neg (by decide), he]
  dsimp only
  rw [if_neg (by decide)]
  rw [if_neg (by
    intro c
    obtain ⟨g, g1, g2, g3, g4⟩ := hg
    have : g ∈ s.mag.segs.filter (fun g => decide (g.take = t.id) && decide (g.set = m) && decide (g.stage < 7)) :=
      List.mem_filter.mpr ⟨g1, by rw [decide_eq_true g2, decide_eq_true g3, decide_eq_true g4]; rfl⟩
    rw [List.isEmpty_iff.mp c] at this
    cases this)]
  rw [if_pos ho, State.segAdvances_sets, State.releaseWritten_sets]
  exact congrArg SetSt.degraded (Tab.get_upd_self _ _ m (fun y : SetSt => { y with degraded := true }))

theorem State.declareFailed_bays (s : State) (d c : Nat) : (s.declareFailed d c).mag.bays = s.mag.bays := by
  unfold State.declareFailed
  dsimp only
  split
  · rfl
  · rw [State.post_mag]
    have h : ∀ (u : State) (a b : Nat), (u.unitFails 7 a b).mag = u.mag := fun u a b => State.unitFails_mag ..
    show (State.unitFails _ 7 d _).mag.bays = _
    rw [h]
    rfl

theorem State.declareFailed_bayEvents (s : State) (d c b : Nat) : (s.declareFailed d c).reg Reg.BAY_EVENTS b = s.reg Reg.BAY_EVENTS b := by
  have hq : Quiet Reg.BAY_EVENTS b 0 := quiet_win _ _ _ (by decide) (by decide) (by decide)
  unfold State.declareFailed
  dsimp only
  split
  · rfl
  · rw [(State.post_postSame ..).reg _ _ _ hq]
    show (State.unitFails _ 7 d _).reg Reg.BAY_EVENTS b = _
    rw [State.unitFails_postSame _ 7 d _ _ _ _ hq (by decide)]
    show (State.setEvt _ Reg.MBS_EVENTS d 0).reg Reg.BAY_EVENTS b = _
    unfold State.setEvt State.orReg
    rw [State.reg_setReg_ne _ _ _ _ _ _ _ _ (by decide) (Or.inr (by simp only [RegRow.addr, Reg.BAY_EVENTS, Reg.MBS_EVENTS]; omega))]
    rfl

theorem State.setDrives_rest {α : Type} (l : List α) (d : α → Nat) (f : α → DriveSt → DriveSt) (s : State) :
    (l.foldl (fun s x => s.setDrive (d x) (f x)) s).mag.bays = s.mag.bays ∧ (l.foldl (fun s x => s.setDrive (d x) (f x)) s).cur = s.cur := by
  induction l generalizing s with
  | nil => exact ⟨rfl, rfl⟩
  | cons x l ih => exact ih _

/-- The bay of a magazine that is gone. -/
def BaySt.gone (q : BaySt) : BaySt :=
  { q with
    mode := .empty, released := false, content := 0, breason := 0, idPage := none, refused := false, releaseDue := false, ticket := none,
    closingAt := 0 }

/-- A magazine that is gone: its bay is empty. -/
theorem State.bayGone_facts (s : State) (b : Nat) : (s.bayGone b).bay b = (s.bay b).gone
    ∧ (∀ k, bit (s.reg Reg.BAY_EVENTS b) k = true → bit ((s.bayGone b).reg Reg.BAY_EVENTS b) k = true)
    ∧ (s.bayGone b).takes = s.takes := by
  suffices h : (s.bayGone b).bay b = (s.bay b).gone
      ∧ (∀ k, bit (s.reg Reg.BAY_EVENTS b) k = true → bit ((s.bayGone b).reg Reg.BAY_EVENTS b) k = true) from
    ⟨h.1, h.2, (State.bayGone_keeps ..).same .takes rfl⟩
  unfold State.bayGone
  dsimp only
  generalize hu : (s.setMag (fun m => { m with cmds := m.cmds.filter (fun c => decide (bayOf c.slot ≠ b)) })).holdBay b = u
  have u1 : u.mag.bays = s.mag.bays ∧ u.cur = s.cur := by
    rw [← hu, (State.holdBay_facts _ b).1]
    exact ⟨rfl, (State.holdBay_keeps ..).same .cur rfl⟩
  clear hu
  obtain ⟨v1, v2⟩ := State.setDrives_rest (slotsOf b) (fun d => d) (fun _ q => { outOfSet := q.outOfSet }) u
  generalize (slotsOf b).foldl (fun s d => s.setDrive d (fun q => { outOfSet := q.outOfSet })) u = v at v1 v2 ⊢
  have v3 : v.bay b = s.bay b := by
    unfold State.bay
    rw [v1, u1.1]
  have v4 : v.reg Reg.BAY_EVENTS b = s.reg Reg.BAY_EVENTS b := by
    unfold State.reg
    rw [v2, u1.2]
  generalize (v.bay b).ticket = t
  have x1 := v.bay_setBay_self b (fun q => { q with
    released := false, content := 0, breason := 0, idPage := none, refused := false, releaseDue := false, ticket := none, closingAt := 0 })
  generalize hx : v.setBay b (fun q => { q with
    released := false, content := 0, breason := 0, idPage := none, refused := false, releaseDue := false, ticket := none, closingAt := 0 }) = x at x1 ⊢
  have x2 : x.reg Reg.BAY_EVENTS b = v.reg Reg.BAY_EVENTS b := by rw [← hx]; rfl
  clear hx
  obtain ⟨e1, -, -, -, e5⟩ := x.enterBay_facts b .empty
  refine ⟨?_, fun k hk => ?_⟩
  · rw [State.bay_of (State.completeOpt_mag ..), e1, x1, v3]
    rfl
  · have : ∀ y : State, (y.completeOpt t stAborted).reg Reg.BAY_EVENTS b = y.reg Reg.BAY_EVENTS b := by
      intro y
      cases t with
      | none => rfl
      | some t => exact y.complete_reg t stAborted [] _ _ _ _ (quiet_win _ _ _ (by decide) (by decide) (by decide)) (by decide)
    rw [this]
    refine e5 b k ?_
    rw [x2, v4]
    exact hk

theorem State.completeOpt_bayEvents (s : State) (t : Option Ticket) (st b : Nat) (pl : List (Nat × Nat × Nat)) :
    (s.completeOpt t st pl).reg Reg.BAY_EVENTS b = s.reg Reg.BAY_EVENTS b := by
  cases t with
  | none => rfl
  | some t => exact s.complete_reg t st pl _ _ _ _ (quiet_win _ _ _ (by decide) (by decide) (by decide)) (by decide)

/-- Drives of a bay that are declared failed: the bay and its events stay. -/
theorem State.declares_facts (l : List Nat) (c b : Nat) (f : DriveSt → DriveSt) (s : State) :
    (l.foldl (fun s d => (s.declareFailed d c).setDrive d f) s).mag.bays = s.mag.bays
      ∧ (l.foldl (fun s d => (s.declareFailed d c).setDrive d f) s).reg Reg.BAY_EVENTS b = s.reg Reg.BAY_EVENTS b
      ∧ (∀ t ∈ (l.foldl (fun s d => (s.declareFailed d c).setDrive d f) s).takes.takes, t ∈ s.takes.takes) := by
  induction l generalizing s with
  | nil => exact ⟨rfl, rfl, fun _ h => h⟩
  | cons d l ih =>
    rw [List.foldl_cons]
    obtain ⟨a, b', c'⟩ := ih ((s.declareFailed d c).setDrive d f)
    refine ⟨a.trans (s.declareFailed_bays d c), b'.trans ?_, fun t ht => ?_⟩
    · exact s.declareFailed_bayEvents d c b
    · have e : ((s.declareFailed d c).setDrive d f).takes = s.takes := (State.declareFailed_keeps ..).same .takes rfl
      have := c' t ht
      rw [e] at this
      exact this

end Sys2Proof.Machine
end

