-- ==== Sys2Proof/Laws/FactsSecurity.lean ====
section
/-! SUPPORT. What the security unit's steps do, one lemma per operation, and data sent to a host. -/

namespace Sys2Proof.Machine

theorem State.wakePort_ideOk (s : State) (p q a n : Nat) : (s.wakePort p).ideOk q a n = s.ideOk q a n := by
  obtain ⟨b, hb⟩ := s.wakePort_port p q
  unfold State.ideOk
  rw [hb]
  have : (s.wakePort p).act Reg.HP_CTRL q = s.act Reg.HP_CTRL q := by
    unfold State.act State.activeSet
    rw [show (s.wakePort p).cfg = s.cfg from (State.wakePort_keeps ..).same .cfg rfl]
  rw [this]

theorem State.hostWrite_suffix (s : State) (p a : Nat) (l : List Byte) (ns : Bool) : s.out <:+ (s.hostWrite p a l ns).out := by
  unfold State.hostWrite
  dsimp only
  refine suffix_foldl _ (fun s x => ?_) s
  split
  · refine List.IsSuffix.trans ?_ (suffix_of (show _ = (State.add64 _ _ _ _ _).out from rfl))
    refine List.IsSuffix.trans ?_ (State.emit_suffix _ _)
    exact suffix_of ((State.wakePort_keeps ..).same .out rfl)
  · unfold State.hpEvt
    dsimp only
    split
    · exact suffix_of rfl
    · exact State.post_suffix (s.setEvt Reg.HP_EVENTS p 7) ..

/-- Data that no IDE stream blocks is sent. -/
theorem State.hostWrite_gets (s : State) (p a : Nat) (l : List Byte) (ns : Bool) (h : s.ideBlocks p a l = false) :
    s.hostGets (s.hostWrite p a l ns) p a l ns := by
  unfold State.hostGets State.hostWrite
  dsimp only
  unfold State.ideBlocks at h
  dsimp only at h
  generalize cutWrites _ _ a l = pcs at h ⊢
  have hok : ∀ x ∈ pcs, s.ideOk p x.1 x.2.length = true := by
    intro x hx
    cases hb : bit (s.act Reg.HP_CTRL p) 16 with
    | false => unfold State.ideOk; rw [hb]; rfl
    | true =>
      rw [hb, Bool.true_and] at h
      have := List.any_eq_false.mp h x hx
      simpa using this
  clear h
  have key : ∀ (pcs : List (Nat × List Byte)) (u : State), (∀ x ∈ pcs, u.ideOk p x.1 x.2.length = true) →
      (∃ b, u.port p = { s.port p with l1 := b }) → ∀ x ∈ pcs,
      Out.hostWrite p x.1 x.2 (ns && (s.port p).noSnoop) (s.port p).relaxed ∈ (pcs.foldl (fun v x =>
        if v.ideOk p x.1 x.2.length then
          ((v.wakePort p).emit (.hostWrite p x.1 x.2 (ns && (s.port p).noSnoop) (s.port p).relaxed)).add64 Reg.HP_TX_BYTES_LO Reg.HP_TX_BYTES_HI p x.2.length
        else v.hpEvt p 7) u).out ∧ (∀ o ∈ u.out, o ∈ (pcs.foldl (fun v x =>
        if v.ideOk p x.1 x.2.length then
          ((v.wakePort p).emit (.hostWrite p x.1 x.2 (ns && (s.port p).noSnoop) (s.port p).relaxed)).add64 Reg.HP_TX_BYTES_LO Reg.HP_TX_BYTES_HI p x.2.length
        else v.hpEvt p 7) u).out) := by
    intro pcs
    induction pcs with
    | nil => exact fun _ _ _ x h => by cases h
    | cons y pcs ih =>
      intro u hu hp x hx
      rw [List.foldl_cons, if_pos (hu y (List.mem_cons_self ..))]
      generalize hv : State.add64 (State.emit (u.wakePort p) _) _ _ _ _ = v
      have v1 : v.out = .hostWrite p y.1 y.2 (ns && (s.port p).noSnoop) (s.port p).relaxed :: u.out := by
        rw [← hv]
        show _ :: (u.wakePort p).out = _
        rw [show (u.wakePort p).out = u.out from (State.wakePort_keeps ..).same .out rfl]
      have v2 : ∀ x ∈ pcs, v.ideOk p x.1 x.2.length = true := by
        intro x hx
        rw [← hv]
        exact (State.wakePort_ideOk u p p x.1 x.2.length).trans (hu x (List.mem_cons_of_mem _ hx))
      have v3 : ∃ b, v.port p = { s.port p with l1 := b } := by
        obtain ⟨b, hb⟩ := u.wakePort_port p p
        obtain ⟨c, hc⟩ := hp
        refine ⟨b, ?_⟩
        rw [← hv]
        show (u.wakePort p).port p = _
        rw [hb, hc]
      clear hv
      have grow : ∀ o ∈ v.out, o ∈ (pcs.foldl (fun v x =>
        if v.ideOk p x.1 x.2.length then
          ((v.wakePort p).emit (.hostWrite p x.1 x.2 (ns && (s.port p).noSnoop) (s.port p).relaxed)).add64 Reg.HP_TX_BYTES_LO Reg.HP_TX_BYTES_HI p x.2.length
        else v.hpEvt p 7) v).out := by
        intro o ho
        cases pcs with
        | nil => exact ho
        | cons z pcs => exact (ih v v2 v3 z (List.mem_cons_self ..)).2 o ho
      refine ⟨?_, fun o ho => grow o (by rw [v1]; exact List.mem_cons_of_mem _ ho)⟩
      rcases List.mem_cons.mp hx with rfl | hx
      · exact grow _ (by rw [v1]; exact List.mem_cons_self ..)
      · exact (ih v v2 v3 x hx).1
  exact fun x hx => (key pcs s hok ⟨(s.port p).l1, rfl⟩ x hx).1

theorem State.hostGets_of {s u t v : State} (p a : Nat) (l : List Byte) (ns : Bool) (h : u.hostGets t p a l ns)
    (h1 : s.port p = u.port p) (h2 : t.out <:+ v.out) : s.hostGets v p a l ns := by
  unfold State.hostGets at h ⊢
  rw [h1]
  exact fun x hx => h2.subset (h x hx)

/-- A security service that passes its checks runs its body. -/
theorem State.secCmd_run (s : State) (d : Desc) (op : Nat) (used : List (Nat × Nat)) (operands : Bool) (modes : List DevMode)
    (issuer : State → Bool) (body : Ticket → State → State) (h : s.takesService d used) (ho : operands = true)
    (hm : modes.contains s.dev.mode = true) (hi : issuer (s.take d) = true) :
    s.secCmd d op used operands modes issuer body = body { ticketOf d op with gen := (s.ring d.ring).gen } (s.take d) := by
  obtain ⟨⟨_, ht, hk⟩, hr, hst⟩ := h
  unfold State.secCmd State.unlessRecovering
  rw [hr, if_neg (by decide)]
  exact State.runCmd_run _ _ _ _ _ ht hk ((s.take d).check405_none d hst ho hi (show (s.take d).modeIn modes = true from hm))

theorem State.isCo_take (s : State) (d : Desc) : (s.take d).isCo d = s.isCo d := by
  unfold State.isCo
  rw [State.ring_take]

theorem allModes_mem {m : DevMode} (h : m ≠ .boot) : allModes.contains m = true := by
  cases m <;> first | rfl | exact absurd rfl h
theorem psMode_mem {m : DevMode} (h : m ≠ .boot) (h2 : m ≠ .zeroized) : psMode.contains m = true := by
  cases m <;> first | rfl | exact absurd rfl h | exact absurd rfl h2

theorem State.secAlert_sec (s : State) (b k : Nat) (pl : List (Nat × Nat × Nat)) : (s.secAlert b k pl).sec = s.sec :=
  (State.secAlert_keeps ..).same .sec rfl

/-- An alert sets its bit of SEC_EVENTS, and changes no other register of the window. -/
theorem State.secAlert_facts (s : State) (b k : Nat) (pl : List (Nat × Nat × Nat)) (hb : b < 32) :
    bit ((s.secAlert b k pl).reg Reg.SEC_EVENTS) b = true ∧ RingSame s (s.secAlert b k pl)
      ∧ ∀ (q : RegRow) (i : Nat), q.win = 13 → q.addr i ≠ Reg.SEC_EVENTS.addr → (s.secAlert b k pl).reg q i = s.reg q i := by
  have hr : ∀ (q : RegRow) (i : Nat), q.win = 13 → (s.secAlert b k pl).reg q i = (s.setEvt Reg.SEC_EVENTS 0 b).reg q i := by
    intro q i hq
    unfold State.secAlert
    have h1 : ∀ (u : State) (a b c : Nat), (u.logEntry a b c).reg q i = u.reg q i := fun _ _ _ _ => rfl
    rw [h1]
    exact (State.post_postSame ..).reg _ _ _ (quiet_win _ _ _ (by omega) (by omega) (by omega))
  refine ⟨?_, ?_, fun q i hq ha => ?_⟩
  · rw [hr _ _ rfl]
    exact State.setEvt_bit _ _ _ _ (by decide) hb
  · exact (State.secAlert_keeps ..).ringSame (by decide)
  · rw [hr _ _ hq]
    unfold State.setEvt State.orReg
    exact State.reg_setReg_ne _ _ _ _ _ _ _ _ (by decide) (Or.inr ha)

/-- A completion leaves the roles of every ring. -/
theorem State.complete_role (u : State) (t : Ticket) (st : Nat) (pl : List (Nat × Nat × Nat)) (n : Nat) :
    ((u.complete t st pl).ring n).role = (u.ring n).role := by
  unfold State.complete
  have e : (u.countRefusal pl).rings = u.rings := State.countRefusal_rings ..
  have e1 : (u.countRefusal pl).ring n = u.ring n := by unfold State.ring; rw [e]
  dsimp only
  split
  · rw [e1]
  · have h := ((u.countRefusal pl).postCompletion_ringSame ((u.countRefusal pl).evtRing t.ring) t.ring
      { etype := 1, status := st, tag := t.tag, source := t.target, tick := (u.countRefusal pl).time.tickNum, payload := payload pl }
      t.irq (namedTick t.opcode st)).same n |>.2.2.2.2.2.2.1
    rw [e1] at h
    rw [← h, State.ring_setRing]
    split
    · next hn =>
      subst hn
      unfold RingSt.retire RingSt.settle
      split <;> rfl
    · rfl

/-- A service that ends with a payload: the command completes, and its security state is as before. -/
theorem State.secDone_facts (s u : State) (d : Desc) (k : Ticket) (pl : List (Nat × Nat × Nat)) (st : Nat) (hk : k.ring = d.ring)
    (hg : k.gen = (s.ring d.ring).gen) (hr : RingSame (s.take d) u) :
    s.finished (u.secDone k pl st) d ∧ (u.secDone k pl st).sec = u.sec ∧ (u.secDone k pl st).free = u.free
      ∧ ((u.secDone k pl st).ring d.ring).role = (s.ring d.ring).role ∧ u.out <:+ (u.secDone k pl st).out := by
  refine ⟨State.finished_complete s u d _ _ _ _ hk hg hr, State.complete_sec .., State.complete_free .., ?_, State.complete_suffix ..⟩
  have h := (hr.same d.ring).2.2.2.2.2.2.1
  rw [State.ring_take] at h
  exact (State.complete_role ..).trans h

/-- A service that writes its answer to the host's buffer. -/
theorem State.secWrite_facts (s u : State) (d : Desc) (k : Ticket) (off : Nat) (data : List Byte) (pl : List (Nat × Nat × Nat)) (st : Nat)
    (hk : k.ring = d.ring) (hg : k.gen = (s.ring d.ring).gen) (hr : RingSame (s.take d) u) (hp : u.port (s.issuer d) = s.port (s.issuer d))
    (hi : u.issuer d = s.issuer d) (hc : u.cfg = s.cfg) (hb : s.ideBlocks (s.issuer d) (bufOf d + off) data = false) :
    s.finished (u.secWrite d k off data pl st) d ∧ (u.secWrite d k off data pl st).sec = u.sec
      ∧ (u.secWrite d k off data pl st).free = u.free ∧ s.hostGets (u.secWrite d k off data pl st) (s.issuer d) (bufOf d + off) data (fNoSnoop d) := by
  have hact : u.act Reg.HP_CTRL (s.issuer d) = s.act Reg.HP_CTRL (s.issuer d) := by
    unfold State.act State.activeSet; rw [hc]
  have hb2 : u.ideBlocks (s.issuer d) (bufOf d + off) data = false := by
    have e : ∀ a n, u.ideOk (s.issuer d) a n = s.ideOk (s.issuer d) a n := fun a n => by unfold State.ideOk; rw [hact, hp]
    rw [← hb]
    unfold State.ideBlocks
    simp only [hact, hp, e]
  unfold State.secWrite
  dsimp only
  rw [hi, hb2, if_neg (by decide)]
  obtain ⟨a1, a2, a3, _, a5⟩ := State.secDone_facts s (u.hostWrite (s.issuer d) (bufOf d + off) data (fNoSnoop d)) d k pl st hk hg
    (hr.trans ((State.hostWrite_keeps ..).ringSame (by decide)))
  refine ⟨a1, a2.trans ((State.hostWrite_keeps ..).same .sec rfl), a3.trans ((State.hostWrite_keeps ..).same .free rfl), ?_⟩
  exact State.hostGets_of _ _ _ _ (u.hostWrite_gets _ _ _ _ hb2) hp.symm a5

/-- A lockout that has run out, or none, holds nothing back. -/
theorem lockout_over (l : Option Nat) (clk n : Nat) (hl : ∀ x, l = some x → x + n ≤ clk) :
    ((l.map (fun x => decide (clk < x + n))).getD false) = false := by
  cases l with
  | none => rfl
  | some x =>
    have := hl x rfl
    show decide _ = false
    simp
    omega

theorem State.changeUnit_code_ne (s : State) (k i c k' i' : Nat) (h : unitKey k' i' ≠ unitKey k i) :
    (s.changeUnit k i c).unitCode k' i' = s.unitCode k' i' := by
  have hl : ∀ (u : State) (a b e : Nat), (u.logEntry a b e).unitCode k' i' = u.unitCode k' i' := fun _ _ _ _ => rfl
  unfold State.changeUnit
  dsimp only
  split
  · rfl
  · rw [hl]
    unfold State.unitCode
    rw [State.post_svc]
    exact Tab.get_put_ne _ _ _ _ h

theorem State.unitFails_code_ne (s : State) (k i c k' i' : Nat) (h : unitKey k' i' ≠ unitKey k i) :
    (s.unitFails k i c).unitCode k' i' = s.unitCode k' i' := by
  have hf : ∀ u : State, ((u.setEvt Reg.SVC_EVENTS 0 0).healthFail 7).unitCode k' i' = u.unitCode k' i' := fun u => by
    unfold State.unitCode
    rw [State.healthFail_svc]
    rfl
  unfold State.unitFails
  dsimp only
  rw [hf]
  exact s.changeUnit_code_ne k i 5 k' i' h

/-- A crypto engine that fails: it reads FAILED, and every other engine and the security state are as before. -/
theorem State.unitFailure_engine (s : State) (e c : Nat) (he : e < 18) (hc : s.unitCode 0x0D e ∈ [1, 2, 3, 4]) :
    (s.unitFailure 0x0D e c).unitCode 0x0D e = 5 ∧ (s.unitFailure 0x0D e c).sec = s.sec ∧ (s.unitFailure 0x0D e c).time = s.time
      ∧ ∀ i, i ≠ e → (s.unitFailure 0x0D e c).unitCode 0x0D i = s.unitCode 0x0D i := by
  unfold State.unitFailure
  dsimp only
  rw [if_neg (by
    rintro (x | x | x)
    · exact absurd he (Nat.not_lt.mpr x)
    · exact absurd x (by decide)
    · simp only [List.contains_eq_mem, Bool.not_eq_true', decide_eq_false_iff_not] at x
      exact x hc)]
  have f1 := s.unitFails_code 0x0D e c
  have f2 : ∀ i, i ≠ e → (s.unitFails 0x0D e c).unitCode 0x0D i = s.unitCode 0x0D i :=
    fun i h => s.unitFails_code_ne _ _ _ _ _ (by unfold unitKey; omega)
  have f3 : (s.unitFails 0x0D e c).sec = s.sec := (State.unitFails_keeps ..).same .sec rfl
  have f4 : (s.unitFails 0x0D e c).time = s.time := (State.unitFails_keeps ..).same .time rfl
  generalize s.unitFails 0x0D e c = v at f1 f2 f3 f4 ⊢
  generalize hx : State.setSvc (v.logEntry _ _ _) _ = x
  have x1 : x.svc.units = v.svc.units ∧ x.sec = v.sec ∧ x.time = v.time := by rw [← hx]; exact ⟨rfl, rfl, rfl⟩
  clear hx
  generalize hy : List.foldl _ (List.foldl _ x _) _ = y
  have y1 : y.svc = x.svc := by rw [← hy, State.completeOpts_svc, State.completeOpts_svc]
  have y2 : y.sec = x.sec ∧ y.time = x.time := by
    have h : ∀ {α : Type} (l : List α) (f : α → Option Ticket) (st : Nat) (pl : List (Nat × Nat × Nat)) (s : State),
        (l.foldl (fun s x => s.completeOpt (f x) st pl) s).sec = s.sec
          ∧ (l.foldl (fun s x => s.completeOpt (f x) st pl) s).time = s.time := by
      intro α l f st pl
      induction l with
      | nil => exact fun _ => ⟨rfl, rfl⟩
      | cons x l ih => exact fun s => ⟨(ih _).1.trans (State.completeOpt_sec ..), (ih _).2.trans (State.completeOpt_time ..)⟩
    rw [← hy, (h _ _ _ _ _).1, (h _ _ _ _ _).1, (h _ _ _ _ _).2, (h _ _ _ _ _).2]
    exact ⟨rfl, rfl⟩
  clear hy
  have hu : ∀ i, (y.ceFailed e).unitCode 0x0D i = v.unitCode 0x0D i := fun i => by
    unfold State.unitCode
    rw [show (y.ceFailed e).svc = y.svc from rfl, y1, x1.1]
  refine ⟨(hu e).trans f1, ?_, ?_, fun i h => (hu i).trans (f2 i h)⟩
  · show y.sec = s.sec
    rw [y2.1, x1.2.1, f3]
  · show y.time = s.time
    rw [y2.2, x1.2.2, f4]

/-- KATs over some engines that serve: each that passes is listed as tested, each that fails is FAILED and not listed. -/
theorem State.kats_facts (fails : List (Nat × Nat)) (l : List Nat) (s : State) (hn : l.Nodup)
    (hl : ∀ e ∈ l, e < 18 ∧ s.unitCode 0x0D e ∈ [1, 2, 3, 4]) :
    (∀ e ∈ l, if fails.any (fun f => decide (f.1 = e)) then e ∉ (s.kats l fails).sec.katOk ∧ (s.kats l fails).unitCode 0x0D e = 5
        else e ∈ (s.kats l fails).sec.katOk)
      ∧ ∀ e, e ∉ l → (s.kats l fails).unitCode 0x0D e = s.unitCode 0x0D e
          ∧ (e ∈ (s.kats l fails).sec.katOk ↔ e ∈ s.sec.katOk) := by
  induction l generalizing s with
  | nil => exact ⟨fun e h => absurd h (by simp), fun e _ => ⟨rfl, Iff.rfl⟩⟩
  | cons a l ih =>
    have ha := hl a (List.mem_cons_self ..)
    have hn' := List.nodup_cons.mp hn
    have step : ∃ u : State, s.kats (a :: l) fails = u.kats l fails
        ∧ (∀ e, e ≠ a → u.unitCode 0x0D e = s.unitCode 0x0D e ∧ (e ∈ u.sec.katOk ↔ e ∈ s.sec.katOk))
        ∧ (if fails.any (fun f => decide (f.1 = a)) then a ∉ u.sec.katOk ∧ u.unitCode 0x0D a = 5 else a ∈ u.sec.katOk) := by
      unfold State.kats
      rw [List.foldl_cons]
      cases hf : fails.find? (fun f => decide (f.1 = a)) with
      | some f =>
        refine ⟨_, rfl, ?_⟩
        have hany : fails.any (fun f => decide (f.1 = a)) = true := by
          rw [List.any_eq_true]
          exact ⟨f, List.mem_of_find?_eq_some hf, by simpa using List.find?_some hf⟩
        rw [if_pos hany]
        dsimp only
        generalize hv : s.setSec _ = v
        have v1 : v.svc = s.svc ∧ v.sec.katOk = s.sec.katOk.filter (fun x => decide (x ≠ a)) := by rw [← hv]; exact ⟨rfl, rfl⟩
        clear hv
        obtain ⟨g1, g2, _, g3⟩ := v.unitFailure_engine a 2 ha.1 (by rw [State.unitCode_of v1.1]; exact ha.2)
        unfold State.engineFailed
        have hs : ∀ i, ((v.unitFailure 0x0D a 2).secAlert 4 2 [(17, 1, a), (18, 1, f.2)]).unitCode 0x0D i
            = (v.unitFailure 0x0D a 2).unitCode 0x0D i := fun i => by
          unfold State.secAlert
          show ((State.post _ _ _ _ _).svc.units).get 0 _ = _
          rw [State.post_svc]
          rfl
        rw [State.secAlert_sec, g2, v1.2]
        refine ⟨fun e h => ⟨?_, ?_⟩, ?_, ?_⟩
        · rw [hs, g3 e h, State.unitCode_of v1.1]
        · rw [List.mem_filter]; simp [h]
        · simp
        · rw [hs, g1]
      | none =>
        refine ⟨_, rfl, ?_⟩
        have hany : fails.any (fun f => decide (f.1 = a)) = false := by
          rw [List.any_eq_false]
          intro f hm
          have := List.find?_eq_none.mp hf f hm
          simpa using this
        rw [hany, if_neg (by decide)]
        dsimp only
        unfold State.enginePassed
        dsimp only
        refine ⟨fun e h => ⟨rfl, ?_⟩, ?_⟩
        · show e ∈ (if s.sec.katOk.contains a then s.sec.katOk else s.sec.katOk ++ [a]) ↔ _
          split
          · exact Iff.rfl
          · rw [List.mem_append]; simp [h]
        · show a ∈ (if s.sec.katOk.contains a then s.sec.katOk else s.sec.katOk ++ [a])
          split
          · next h => simpa using h
          · simp
    obtain ⟨u, hu, h1, h2⟩ := step
    have hl' : ∀ e ∈ l, e < 18 ∧ u.unitCode 0x0D e ∈ [1, 2, 3, 4] := fun e he => by
      have hne : e ≠ a := fun c => hn'.1 (c ▸ he)
      rw [(h1 e hne).1]
      exact hl e (List.mem_cons_of_mem _ he)
    obtain ⟨i1, i2⟩ := ih u hn'.2 hl'
    rw [hu]
    refine ⟨fun e he => ?_, fun e he => ?_⟩
    · rcases List.mem_cons.mp he with rfl | he
      · obtain ⟨j1, j2⟩ := i2 e hn'.1
        split
        · next hf =>
          rw [if_pos hf] at h2
          exact ⟨fun c => h2.1 (j2.mp c), j1.trans h2.2⟩
        · next hf =>
          rw [if_neg hf] at h2
          exact j2.mpr h2
      · exact i1 e he
    · have hne : e ≠ a := fun c => he (c ▸ List.mem_cons_self ..)
      obtain ⟨j1, j2⟩ := i2 e (fun c => he (List.mem_cons_of_mem _ c))
      exact ⟨j1.trans (h1 e hne).1, j2.trans (h1 e hne).2⟩

/-- The bytes of a number spell it. -/
theorem leNat_leBytes (n x : Nat) : leNat (leBytes n x) = x % 256 ^ n := by
  induction n generalizing x with
  | zero => exact (Nat.mod_one x).symm
  | succ n ih =>
    unfold leBytes leNat
    rw [ih, BitVec.toNat_ofNat, Nat.pow_succ (n := 256) (m := n), Nat.mul_comm (256 ^ n) 256, Nat.mod_mul]

theorem State.isUser_take (s : State) (d : Desc) : (s.take d).isUser d = s.isUser d := by
  unfold State.isUser
  rw [State.ring_take]

theorem soMode_mem {m : DevMode} (h : m = .standby ∨ m = .operational) : soMode.contains m = true := by
  rcases h with rfl | rfl <;> rfl

theorem State.eraseKeys_facts (s : State) : s.keysErased s.eraseKeys ∧ s.eraseKeys.sec.zeroizeLow = s.sec.zeroizeLow
    ∧ s.eraseKeys.dev = s.dev := by
  exact ⟨⟨rfl, rfl, rfl, rfl, rfl, rfl, rfl, rfl, rfl, rfl, rfl, rfl, rfl⟩, rfl, rfl⟩

theorem State.keysErased_of {s t u : State} (h : s.keysErased t) (e : u.sec = t.sec) : s.keysErased u := by
  unfold State.keysErased at h ⊢
  rw [e]
  exact h

theorem ringsOff_dev (l : List Nat) (s : State) : (l.foldl (fun s n => s.ringOff n) s).dev = s.dev
    ∧ (l.foldl (fun s n => s.ringOff n) s).sec = s.sec := by
  induction l generalizing s with
  | nil => exact ⟨rfl, rfl⟩
  | cons n l ih =>
    obtain ⟨a, b⟩ := ih (s.ringOff n)
    exact ⟨a.trans ((State.ringOff_keeps ..).same .dev rfl), b.trans ((State.ringOff_keeps ..).same .sec rfl)⟩

/-- A zeroisation outside BOOT: the device is ZEROIZED, and its security state is that of the erasure. -/
theorem State.zeroise_facts (s : State) (c : Nat) (k : Option Ticket) (h : s.dev.mode ≠ .boot) :
    (s.zeroise c k).dev.mode = .zeroized ∧ (s.zeroise c k).sec = s.eraseKeys.sec := by
  unfold State.zeroise
  rw [if_neg h]
  dsimp only
  by_cases hz : s.dev.mode = .zeroized
  · rw [if_pos hz]
    refine ⟨?_, State.completeOpt_sec ..⟩
    rw [State.completeOpt_dev]
    exact hz
  · rw [if_neg hz]
    generalize hu : (State.abortBound _).completeOpt k stDone _ = u
    have u1 : u.sec = s.eraseKeys.sec := by
      rw [← hu, State.completeOpt_sec, (State.abortBound_keeps ..).same .sec rfl, (State.abortCommands_keeps ..).same .sec rfl,
        (State.stopWork_keeps ..).same .sec rfl]
    clear hu
    have m1 := u.enterMode_mode .zeroized c
    have m2 : (u.enterMode .zeroized c).sec = u.sec := (State.enterMode_keeps ..).same .sec rfl
    generalize u.enterMode .zeroized c = v at m1 m2 ⊢
    have v1 : (v.secAlert 0 7 [(17, 1, c)]).dev = v.dev := (State.secAlert_keeps ..).same .dev rfl
    have v2 := v.secAlert_sec 0 7 [(17, 1, c)]
    generalize v.secAlert 0 7 [(17, 1, c)] = w at v1 v2 ⊢
    have fin : ∀ x : State, x.dev = w.dev → x.sec = w.sec →
        ((x.leaveActive).applySet s.activeSet).dev.mode = .zeroized ∧ ((x.leaveActive).applySet s.activeSet).sec = s.eraseKeys.sec := by
      intro x h1 h2
      have a1 := ((State.applySet_keeps x.leaveActive s.activeSet).same .mode rfl).1
      have a2 : (x.leaveActive.applySet s.activeSet).sec = x.leaveActive.sec := (State.applySet_keeps ..).same .sec rfl
      rw [a1, a2, show x.leaveActive.dev = x.dev from (State.leaveActive_keeps ..).same .dev rfl,
        show x.leaveActive.sec = x.sec from (State.leaveActive_keeps ..).same .sec rfl, h1, h2, v1, v2, m2, u1]
      exact ⟨m1, rfl⟩
    split
    · exact fin _ (ringsOff_dev ..).1 (ringsOff_dev ..).2
    · exact fin w rfl rfl

theorem State.zeroise_erased (s : State) (c : Nat) (k : Option Ticket) (h : s.dev.mode ≠ .boot) :
    (s.zeroise c k).dev.mode = .zeroized ∧ s.keysErased (s.zeroise c k) :=
  ⟨(s.zeroise_facts c k h).1, State.keysErased_of s.eraseKeys_facts.1 (s.zeroise_facts c k h).2⟩

/-- The unit of a list that `leastOf` picks is one of it; of a list with a unit it picks one. -/
theorem leastOf_mem (t : Tab Nat) (k : Nat) (l : List Nat) (h : l ≠ []) : ∃ a ∈ l, leastOf t k l = some a := by
  cases l with
  | nil => exact absurd rfl h
  | cons i r =>
    unfold leastOf
    dsimp only
    have key : ∀ (r : List Nat) (a : Nat), (r.foldl (fun a b => if t.get 0 (unitKey k b) < t.get 0 (unitKey k a) then b else a) a) ∈ a :: r := by
      intro r
      induction r with
      | nil => exact fun a => List.mem_cons_self ..
      | cons b r ih =>
        intro a
        rw [List.foldl_cons]
        have := ih (if t.get 0 (unitKey k b) < t.get 0 (unitKey k a) then b else a)
        rcases List.mem_cons.mp this with e | e
        · rw [e]
          split
          · exact List.mem_cons_of_mem _ (List.mem_cons_self ..)
          · exact List.mem_cons_self ..
        · exact List.mem_cons_of_mem _ (List.mem_cons_of_mem _ e)
    exact ⟨_, key r i, rfl⟩

end Sys2Proof.Machine
end

