-- ==== Sys2Proof/Laws/FactsTick.lean ====
section
/-! SUPPORT. What a tick boundary and a change of units at it leave -/

namespace Sys2Proof.Machine

theorem State.autoStep_tick (s : State) : s.autoStep.time.tickNum = s.time.tickNum ∧ s.autoStep.time.tickStart = s.time.tickStart
    ∧ s.autoStep.time.tickEnd = s.time.tickEnd ∧ s.autoStep.time.now = s.time.now := by
  unfold State.autoStep
  split <;> exact ⟨rfl, rfl, rfl, rfl⟩

/-- What a boundary does after the tick has begun leaves the tick. -/
def SameTick (a b : TimeState) : Prop :=
  b.tickNum = a.tickNum ∧ b.tickStart = a.tickStart ∧ b.tickEnd = a.tickEnd ∧ b.now = a.now

theorem SameTick.of {a b : TimeState} (h : b = a) : SameTick a b := h ▸ ⟨rfl, rfl, rfl, rfl⟩
theorem SameTick.trans {a b c : TimeState} (h : SameTick a b) (k : SameTick b c) : SameTick a c :=
  ⟨k.1.trans h.1, k.2.1.trans h.2.1, k.2.2.1.trans h.2.2.1, k.2.2.2.trans h.2.2.2⟩

theorem State.tickWork_time (s : State) :
    s.segBoundary.fullCheck.readMoves.spillMoves.drainPages.drainCheck.svcMoves.time = s.time := by
  refine Eq.trans ((State.svcMoves_keeps ..).same .time rfl) ?_
  refine Eq.trans ((State.drainCheck_keeps ..).same .time rfl) ?_
  refine Eq.trans ((State.drainPages_keeps ..).same .time rfl) ?_
  refine Eq.trans ((State.spillMoves_keeps ..).same .time rfl) ?_
  refine Eq.trans ((State.readMoves_keeps ..).same .time rfl) ?_
  refine Eq.trans ((State.fullCheck_keeps ..).same .time rfl) ?_
  exact (State.segBoundary_keeps ..).same .time rfl

theorem State.bayTrains_time (l : List Nat) (u : State) : (l.foldl (fun (s : State) b => s.bayTrain b) u).time = u.time := by
  induction l generalizing u with
  | nil => rfl
  | cons b l ih =>
    rw [List.foldl_cons]
    exact (ih _).trans ((State.bayTrain_keeps ..).same .time rfl)

theorem State.tickAuto_time (s : State) : SameTick s.time s.watermarks.backlogStart.autoStep.time := by
  have e : s.watermarks.backlogStart.time = s.time := by
    refine Eq.trans ((State.backlogStart_keeps ..).same .time rfl) ?_
    exact (State.watermarks_keeps ..).same .time rfl
  generalize s.watermarks.backlogStart = u at e ⊢
  rw [← e]
  exact u.autoStep_tick

theorem State.tickStore_eq (s : State) : s.tickStore
    = ((List.range 4).foldl (fun (s : State) b => s.bayTrain b) s.watermarks.backlogStart.autoStep).segBoundary.fullCheck.readMoves.spillMoves.drainPages.drainCheck.svcMoves := by
  unfold State.tickStore
  dsimp only

theorem State.tickWork_tick (s u v : State) (h1 : SameTick s.time u.time) (h2 : v.time = u.time) :
    SameTick s.time v.segBoundary.fullCheck.readMoves.spillMoves.drainPages.drainCheck.svcMoves.time :=
  (h1.trans (SameTick.of h2)).trans (SameTick.of v.tickWork_time)

theorem State.tickStore_tick (s : State) : SameTick s.time s.tickStore.time :=
  Eq.mpr (congrArg (fun x : State => SameTick s.time x.time) s.tickStore_eq)
    (State.tickWork_tick s _ _ s.tickAuto_time (State.bayTrains_time _ _))

theorem State.tickStored_tick (s u : State) (h : u.time = s.time) : SameTick s.time u.tickStore.takeCkpt.time :=
  ((SameTick.of h).trans u.tickStore_tick).trans (SameTick.of ((State.takeCkpt_keeps ..).same .time rfl))

theorem State.tickJobs_tick (s : State) : SameTick s.time s.tickJobs.time :=
  State.tickStored_tick s (s.setPlan (fun p => { p with held := false })).tickMovers ((State.tickMovers_keeps ..).same .time rfl)

/-- A tick begins: its number, its start and its end. -/
theorem State.tickBoundary_tick (s : State) (h : s.time.tickEnd ≤ s.time.now) : SameTick s.timeTick.time s.tickBoundary.time := by
  unfold State.tickBoundary
  rw [if_neg (Nat.not_lt.mpr h)]
  have e : s.timeTick.dropEnded.recoveryEnd.returnCaches.syncLanes.replan.probationTick.countHealth.time = s.timeTick.time := by
    rw [(State.countHealth_keeps ..).same .time rfl, (State.probationTick_keeps ..).same .time rfl, (State.replan_keeps ..).same .time rfl,
      (State.syncLanes_keeps ..).same .time rfl, (State.returnCaches_keeps ..).same .time rfl, (State.recoveryEnd_keeps ..).same .time rfl,
      (State.dropEnded_keeps ..).same .time rfl]
  generalize s.timeTick.dropEnded.recoveryEnd.returnCaches.syncLanes.replan.probationTick.countHealth = u at e ⊢
  dsimp only
  split
  · exact (SameTick.of e).trans (SameTick.of ((State.takeCkpt_keeps ..).same .time rfl))
  · exact (SameTick.of e).trans u.tickJobs_tick

theorem State.afterUnits_code (s : State) (k i : Nat) : s.afterUnits.unitCode k i = s.unitCode k i := by
  have h : s.afterUnits.svc.units = s.svc.units := (State.afterUnits_keeps ..).same .units rfl
  unfold State.unitCode
  rw [h]

theorem unitKey_ne_lane (k i n : Nat) (hk : k ≠ 4) (hi : i < 256) (hn : n < 256) : unitKey k i ≠ unitKey 4 n := by
  unfold unitKey
  omega

theorem State.syncLanes_code (s : State) (k i : Nat) (hk : k ≠ 4) (hi : i < 256) : s.syncLanes.unitCode k i = s.unitCode k i := by
  unfold State.syncLanes
  have hl : ∀ n, n ∈ List.range 36 → n < 256 := fun n h => by have := List.mem_range.mp h; omega
  generalize List.range 36 = l at hl
  induction l generalizing s with
  | nil => rfl
  | cons n l ih =>
    rw [List.foldl_cons, ih _ (fun m h => hl m (List.mem_cons_of_mem _ h))]
    dsimp only
    split
    · rfl
    · exact s.changeUnit_code_ne 4 n _ k i (unitKey_ne_lane k i n hk hi (hl n List.mem_cons_self))

/-- What a boundary does after a unit's change leaves its state. -/
theorem State.unitTail_code (s : State) (k i : Nat) (hk : k ≠ 4) (hi : i < 256) :
    s.syncLanes.mchWake.takeCkpt.afterUnits.unitCode k i = s.unitCode k i := by
  rw [State.afterUnits_code]
  have e1 : ∀ u : State, u.takeCkpt.unitCode k i = u.unitCode k i := fun u => State.unitCode_of ((State.takeCkpt_keeps ..).same .svc rfl) k i
  have e2 : ∀ u : State, u.mchWake.unitCode k i = u.unitCode k i := fun u => State.unitCode_of ((State.mchWake_keeps ..).same .svc rfl) k i
  rw [e1, e2]
  exact s.syncLanes_code k i hk hi

theorem State.moveUnit_code (s : State) (k a b k' i' : Nat) : (s.moveUnit k a b).unitCode k' i' = s.unitCode k' i' :=
  State.unitCode_of ((State.moveUnit_keeps ..).same .svc rfl) k' i'

theorem State.completeOpt_code (s : State) (t : Option Ticket) (st : Nat) (pl : List (Nat × Nat × Nat)) (k i : Nat) :
    (s.completeOpt t st pl).unitCode k i = s.unitCode k i := State.unitCode_of ((State.completeOpt_keeps ..).same .svc rfl) k i

/-- One change at a boundary, of a unit that is no lane. -/
theorem State.unitBoundary_one (s : State) (e : UnitDue) (hr : s.recovering 2 = false)
    (hd : s.svc.due.filter (fun e => decide (e.tick ≤ s.time.tickNum)) = [e]) (hs : s.slotDue e = false) (k i : Nat) (hk : k ≠ 4) (hi : i < 256) :
    s.unitBoundary.afterUnits.unitCode k i
      = ((s.setSvc (fun q => { q with due := q.due.filter (fun e => !decide (e.tick ≤ s.time.tickNum)) })).unitDue e).unitCode k i := by
  unfold State.unitBoundary
  rw [if_neg (by rw [hr]; decide)]
  dsimp only
  rw [hd]
  dsimp only [List.isEmpty_cons, List.foldl_cons, List.foldl_nil]
  rw [if_neg (by decide), State.unitTail_code _ _ _ hk hi]
  rw [if_neg (by
    intro c
    have : (s.setSvc (fun q => { q with due := q.due.filter (fun e => !decide (e.tick ≤ s.time.tickNum)) })).slotDue e = s.slotDue e := rfl
    rw [this, hs] at c
    cases c)]

theorem State.slotDue_drain (s : State) (e : UnitDue) (h : e.to_ = 3) : s.slotDue e = false := by
  unfold State.slotDue
  rw [h]
  simp

end Sys2Proof.Machine
end

