-- ==== Sys2Proof/Laws/FactsWrites.lean ====
section
/-! SUPPORT. What compare targets, set positions, woken units and the end of a recovery leave in the fields that statements speak of. -/

namespace Sys2Proof.Machine

/-- What an access itself leaves. -/
theorem State.afterAccess_heldLo (s : State) (p : Nat) (w : Tab Nat) : ((s.afterAccess p w).port p).heldLo = (s.port p).heldLo := by
  obtain ⟨l, h⟩ := s.wakePort_port p p
  have h' : (s.afterAccess p w).port p = { s.port p with l1 := l } := by rw [← h]; rfl
  rw [h']

@[simp] theorem State.setCmp_get (s : State) (u : Nat) (f : CmpSt → CmpSt) : (s.setCmp u f).cmp u = f (s.cmp u) :=
  Tab.get_upd_self ({} : CmpSt) s.motion.cmps u f

theorem State.setReg_cmp (s : State) (r : RegRow) (i j : Nat) (v : Word) (u : Nat) : (s.setReg r i j v).cmp u = s.cmp u := rfl
theorem State.setReg_mch (s : State) (r : RegRow) (i j : Nat) (v : Word) (u : Nat) : (s.setReg r i j v).mch u = s.mch u := rfl
theorem State.setReg_time' (s : State) (r : RegRow) (i j : Nat) (v : Word) : (s.setReg r i j v).time = s.time := rfl

/-- The 48 bits of a position survive the pair of registers that holds it. -/
theorem pairPos_split (t : Pos) : pairPos (BitVec.ofNat 32 (t.signExtend 64).toNat) (BitVec.ofNat 32 ((t.signExtend 64).toNat / 2 ^ 32)) = t := by
  unfold pairPos
  generalize hx : (t.signExtend 64).toNat = x
  have hlt : x < 2 ^ 64 := by rw [← hx]; exact (t.signExtend 64).isLt
  rw [BitVec.toNat_ofNat, BitVec.toNat_ofNat]
  have e : x % 2 ^ 32 + 2 ^ 32 * (x / 2 ^ 32 % 2 ^ 32) = x := by omega
  rw [e, ← hx]
  apply BitVec.eq_of_getLsbD_eq
  intro i hi
  rw [BitVec.getLsbD_ofNat, BitVec.testBit_toNat, BitVec.getLsbD_signExtend]
  simp [hi]
  omega

theorem State.setCmpTarget_get (s : State) (u : Nat) (t : Pos) : (s.setCmpTarget u t).cmpTarget u = t := by
  unfold State.setCmpTarget State.cmpTarget State.set64
  rw [State.reg_setReg_self _ _ _ _ _ (by decide), State.reg_setReg_ne _ _ _ _ _ _ _ _ (by decide)
    (Or.inr (by simp only [RegRow.addr, Reg.CMP_TARGET_LO, Reg.CMP_TARGET_HI]; omega)), State.reg_setReg_self _ _ _ _ _ (by decide)]
  exact pairPos_split t

/-- Whether a unit's fields are invalid depends on its period, its table and the table objects alone. -/
theorem State.cmpBad_congr (s t : State) (u : Nat) (c : Word) (h1 : t.obj = s.obj)
    (h2 : t.reg Reg.CMP_PERIOD_LO u = s.reg Reg.CMP_PERIOD_LO u) (h3 : t.reg Reg.CMP_PERIOD_HI u = s.reg Reg.CMP_PERIOD_HI u)
    (h4 : t.reg Reg.CMP_TABLE u = s.reg Reg.CMP_TABLE u) : t.cmpBad u c = s.cmpBad u c := by
  have hp : ∀ h d, t.pctOk h d = s.pctOk h d := by
    intro h d
    unfold State.pctOk State.pctLen State.pctEntry State.objBytes State.obj?
    rw [h1]
  unfold State.cmpBad State.reg64
  rw [h2, h3, h4]
  simp only [hp]

theorem State.pctEntry_congr (s t : State) (h i : Nat) (h1 : t.obj = s.obj) : t.pctEntry h i = s.pctEntry h i := by
  unfold State.pctEntry State.objBytes State.obj?
  rw [h1]

/-- A write that stores the fields of a register whose bits take effect at once. -/
theorem State.storeBits_now (x : State) (r : RegRow) (i j : Nat) (v : Word) (h : r.rw = 0) (hr : r.win < 16) (h1 : r.w1c = 0) :
    ∃ c, x.storeBits r i j v = { x with cur := c } ∧ ({ x with cur := c } : State).reg r i j = (x.reg r i j &&& ~~~ r.rwi) ||| (v &&& r.rwi)
      ∧ ∀ (q : RegRow) k l, q.win ≠ r.win ∨ q.addr k l ≠ r.addr i j → ({ x with cur := c } : State).reg q k l = x.reg q k l := by
  obtain ⟨c, e⟩ := x.storeBits_rest r i j v h
  refine ⟨c, e, ?_, fun q k l hq => ?_⟩
  · rw [← e, (x.storeBits_spec r i j v hr).1, h1]
    generalize (x.reg r i j &&& ~~~ r.rwi) ||| (v &&& r.rwi) = y
    apply BitVec.eq_of_getLsbD_eq
    intro b hb
    rw [BitVec.getLsbD_and, BitVec.getLsbD_not, BitVec.getLsbD_and, show (0 : Word).getLsbD b = false from BitVec.getLsbD_zero]
    simp [hb]
  · rw [← e]
    exact State.storeBits_reg_ne _ _ _ _ _ _ _ _ hr hq

/-- The set position of a channel that is powered. -/
theorem State.takeSetPos_mch (s : State) (ch : Nat) :
    ((s.takeSetPos ch).mch ch).pos = pairPos (s.reg Reg.MCH_SET_POS_LO ch) (s.reg Reg.MCH_SET_POS_HI ch)
      ∧ ((s.takeSetPos ch).mch ch).referenced = true ∧ ((s.takeSetPos ch).mch ch).suspect = false
      ∧ ((s.takeSetPos ch).mch ch).setDue = false ∧ (s.takeSetPos ch).cur = s.cur := by
  unfold State.takeSetPos State.placePos State.settle
  dsimp only
  rw [State.mch_setMch_self, State.mch_setMch_self]
  refine ⟨rfl, rfl, rfl, rfl, ?_⟩
  rw [State.setMch_cur, State.setMch_cur, State.setMch_cur]

theorem State.recoveryEnd_none (s : State) (h : s.store.recovery = none) : s.recoveryEnd = s := by
  unfold State.recoveryEnd
  rw [h]

theorem State.takeCkpt_parts (s : State) : s.takeCkpt.svc = s.svc ∧ s.takeCkpt.cur = s.cur := by
  unfold State.takeCkpt
  split <;> exact ⟨rfl, rfl⟩

theorem Tab.get_none (d : α) (t : Tab α) (k : Nat) (h : ∀ e ∈ t, e.1 ≠ k) : t.get d k = d := by
  induction t with
  | nil => rfl
  | cons e t ih =>
    obtain ⟨a, v⟩ := e
    show (if k = a then v else Tab.get d t k) = d
    rw [if_neg (fun c => h (a, v) (by simp) c.symm), ih (fun e he => h e (List.mem_cons_of_mem _ he))]

theorem Tab.rising_above {b : Nat} {t : Tab α} (h : Tab.rising b t = true) : ∀ e ∈ t, b ≤ e.1 := by
  induction t generalizing b with
  | nil => intro e he; cases he
  | cons x t ih =>
    obtain ⟨a, v⟩ := x
    simp only [Tab.rising, Bool.and_eq_true, decide_eq_true_eq] at h
    intro e he
    rcases List.mem_cons.mp he with c | c
    · rw [c]; exact h.1
    · have := ih h.2 e c
      omega

/-- What a key reads as in a table whose entries are filtered by their values. -/
theorem Tab.get_filter (d : α) (q : α → Bool) (b : Nat) (t : Tab α) (k : Nat) (h : Tab.rising b t = true) :
    Tab.get d (t.filter (fun e => q e.2)) k = if q (t.get d k) = true then t.get d k else d := by
  induction t generalizing b with
  | nil =>
    show d = if q d = true then d else d
    split <;> rfl
  | cons x t ih =>
    obtain ⟨a, v⟩ := x
    simp only [Tab.rising, Bool.and_eq_true, decide_eq_true_eq] at h
    have hr := Tab.rising_above h.2
    show _ = if q (if k = a then v else Tab.get d t k) = true then (if k = a then v else Tab.get d t k) else d
    rw [List.filter_cons]
    by_cases e : k = a
    · rw [if_pos e]
      by_cases hq : q v = true
      · rw [if_pos hq, if_pos hq]
        show (if k = a then v else _) = v
        rw [if_pos e]
      · rw [if_neg hq, if_neg hq]
        apply Tab.get_none
        intro y hy c
        have := hr y (List.mem_filter.mp hy).1
        omega
    · rw [if_neg e]
      by_cases hq : q v = true
      · rw [if_pos hq]
        show (if k = a then v else Tab.get d (t.filter (fun e => q e.2)) k) = _
        rw [if_neg e]
        exact ih _ h.2
      · rw [if_neg hq]
        exact ih _ h.2

end Sys2Proof.Machine
end

