-- ==== Sys2Proof/Laws/PerInstr.lean ====
section
/-! SUPPORT. What well-formedness gives of each command: the descriptor of a ring command names a ring that exists and has its 56
operand bytes and whole extension blocks. -/

namespace Sys2Proof.Laws.Fields

open Sys2Proof Sys2Proof.Machine

/-- A well-formed ring command's descriptor names one of the 1,024 rings, and its operands fill the 64 bytes (R389, R400, R402). -/
def Statement (i : Instr) : Prop :=
  i.wf = true → ∀ d, descOf i = some d →
    d.ring < 1024 ∧ d.ops.length = 56 ∧ d.blocks ≤ 17 ∧ d.ext.length = 56 * min d.blocks 16

theorem parts_of_descOk {d : Desc} (h : descOk d = true) :
    d.ring < 1024 ∧ d.ops.length = 56 ∧ d.blocks ≤ 17 ∧ d.ext.length = 56 * min d.blocks 16 := by
  simpa [descOk, and_assoc] using h

theorem nop (d : Desc) : Statement (.nop d) := by
  intro h x e
  cases e
  exact parts_of_descOk h

theorem rigStart (d : Desc) : Statement (.rigStart d) := by
  intro h x e
  cases e
  exact parts_of_descOk h

theorem rigStop (d : Desc) : Statement (.rigStop d) := by
  intro h x e
  cases e
  exact parts_of_descOk h

theorem rigArm (d : Desc) : Statement (.rigArm d) := by
  intro h x e
  cases e
  exact parts_of_descOk h

theorem rigDisarm (d : Desc) : Statement (.rigDisarm d) := by
  intro h x e
  cases e
  exact parts_of_descOk h

theorem takeStart (d : Desc) : Statement (.takeStart d) := by
  intro h x e
  cases e
  exact parts_of_descOk h

theorem takeStop (d : Desc) : Statement (.takeStop d) := by
  intro h x e
  cases e
  exact parts_of_descOk h

theorem burstStart (d : Desc) : Statement (.burstStart d) := by
  intro h x e
  cases e
  exact parts_of_descOk h

theorem burstStop (d : Desc) : Statement (.burstStop d) := by
  intro h x e
  cases e
  exact parts_of_descOk h

theorem offloadAbort (d : Desc) : Statement (.offloadAbort d) := by
  intro h x e
  cases e
  exact parts_of_descOk h

theorem calStart (d : Desc) : Statement (.calStart d) := by
  intro h x e
  cases e
  exact parts_of_descOk h

theorem calStop (d : Desc) : Statement (.calStop d) := by
  intro h x e
  cases e
  exact parts_of_descOk h

theorem magRelay (d : Desc) : Statement (.magRelay d) := by
  intro h x e
  cases e
  exact parts_of_descOk h

theorem configCommit (d : Desc) : Statement (.configCommit d) := by
  intro h x e
  cases e
  exact parts_of_descOk h

theorem configClear (d : Desc) : Statement (.configClear d) := by
  intro h x e
  cases e
  exact parts_of_descOk h

theorem configFallback (d : Desc) : Statement (.configFallback d) := by
  intro h x e
  cases e
  exact parts_of_descOk h

theorem configDiscard (d : Desc) : Statement (.configDiscard d) := by
  intro h x e
  cases e
  exact parts_of_descOk h

theorem timeStepAccept (d : Desc) : Statement (.timeStepAccept d) := by
  intro h x e
  cases e
  exact parts_of_descOk h

theorem timeSet (d : Desc) : Statement (.timeSet d) := by
  intro h x e
  cases e
  exact parts_of_descOk h

theorem settingsPost (d : Desc) : Statement (.settingsPost d) := by
  intro h x e
  cases e
  exact parts_of_descOk h

theorem sensorReg (d : Desc) : Statement (.sensorReg d) := by
  intro h x e
  cases e
  exact parts_of_descOk h

theorem laneSwap (d : Desc) : Statement (.laneSwap d) := by
  intro h x e
  cases e
  exact parts_of_descOk h

theorem magRelease (d : Desc) : Statement (.magRelease d) := by
  intro h x e
  cases e
  exact parts_of_descOk h

theorem magFormat (d : Desc) : Statement (.magFormat d) := by
  intro h x e
  cases e
  exact parts_of_descOk h

theorem magRepair (d : Desc) : Statement (.magRepair d) := by
  intro h x e
  cases e
  exact parts_of_descOk h

theorem magSanitize (d : Desc) : Statement (.magSanitize d) := by
  intro h x e
  cases e
  exact parts_of_descOk h

theorem magRead (d : Desc) : Statement (.magRead d) := by
  intro h x e
  cases e
  exact parts_of_descOk h

theorem zeroize (d : Desc) : Statement (.zeroize d) := by
  intro h x e
  cases e
  exact parts_of_descOk h

theorem provisionBegin (d : Desc) : Statement (.provisionBegin d) := by
  intro h x e
  cases e
  exact parts_of_descOk h

theorem provisionClose (d : Desc) : Statement (.provisionClose d) := by
  intro h x e
  cases e
  exact parts_of_descOk h

theorem secAuthBegin (d : Desc) : Statement (.secAuthBegin d) := by
  intro h x e
  cases e
  exact parts_of_descOk h

theorem secAuthProve (d : Desc) : Statement (.secAuthProve d) := by
  intro h x e
  cases e
  exact parts_of_descOk h

theorem secLogout (d : Desc) : Statement (.secLogout d) := by
  intro h x e
  cases e
  exact parts_of_descOk h

theorem secCoEnrol (d : Desc) : Statement (.secCoEnrol d) := by
  intro h x e
  cases e
  exact parts_of_descOk h

theorem secKeyReplace (d : Desc) : Statement (.secKeyReplace d) := by
  intro h x e
  cases e
  exact parts_of_descOk h

theorem secEcdhBegin (d : Desc) : Statement (.secEcdhBegin d) := by
  intro h x e
  cases e
  exact parts_of_descOk h

theorem secOwnerSet (d : Desc) : Statement (.secOwnerSet d) := by
  intro h x e
  cases e
  exact parts_of_descOk h

theorem secIdentityGen (d : Desc) : Statement (.secIdentityGen d) := by
  intro h x e
  cases e
  exact parts_of_descOk h

theorem secGetIdentity (d : Desc) : Statement (.secGetIdentity d) := by
  intro h x e
  cases e
  exact parts_of_descOk h

theorem secTakeKey (d : Desc) : Statement (.secTakeKey d) := by
  intro h x e
  cases e
  exact parts_of_descOk h

theorem secAttest (d : Desc) : Statement (.secAttest d) := by
  intro h x e
  cases e
  exact parts_of_descOk h

theorem secFwInstall (d : Desc) : Statement (.secFwInstall d) := by
  intro h x e
  cases e
  exact parts_of_descOk h

theorem secSelftest (d : Desc) (fails : List (Nat × Nat)) : Statement (.secSelftest d fails) := by
  intro h x e
  cases e
  exact parts_of_descOk h

theorem unitDrain (d : Desc) : Statement (.unitDrain d) := by
  intro h x e
  cases e
  exact parts_of_descOk h

theorem unitTest (d : Desc) : Statement (.unitTest d) := by
  intro h x e
  cases e
  exact parts_of_descOk h

theorem unitReturn (d : Desc) : Statement (.unitReturn d) := by
  intro h x e
  cases e
  exact parts_of_descOk h

theorem unitRetire (d : Desc) : Statement (.unitRetire d) := by
  intro h x e
  cases e
  exact parts_of_descOk h

theorem dlvFrame (d : Desc) : Statement (.dlvFrame d) := by
  intro h x e
  cases e
  exact parts_of_descOk h

theorem dlvGather (d : Desc) : Statement (.dlvGather d) := by
  intro h x e
  cases e
  exact parts_of_descOk h

theorem doorbellWrite (p : Nat) (n : Nat) (v : Word) : Statement (.doorbellWrite p n v) := by
  intro _ _ e
  cases e

theorem ringEnable (p : Nat) (n : Nat) (v : Word) : Statement (.ringEnable p n v) := by
  intro _ _ e
  cases e

theorem ringAbort (p : Nat) (n : Nat) (v : Word) : Statement (.ringAbort p n v) := by
  intro _ _ e
  cases e

theorem ringResume (p : Nat) (n : Nat) (v : Word) : Statement (.ringResume p n v) := by
  intro _ _ e
  cases e

theorem stagedRecordWrite (n : Nat) : Statement (.stagedRecordWrite n) := by
  intro _ _ e
  cases e

theorem ringBusError (n : Nat) (addr : Nat) (cmd : Option Nat) : Statement (.ringBusError n addr cmd) := by
  intro _ _ e
  cases e

theorem claim (p : Nat) : Statement (.claim p) := by
  intro _ _ e
  cases e

theorem release (p : Nat) : Statement (.release p) := by
  intro _ _ e
  cases e

theorem heartbeat (p : Nat) : Statement (.heartbeat p) := by
  intro _ _ e
  cases e

theorem portLivenessExpiry (p : Nat) : Statement (.portLivenessExpiry p) := by
  intro _ _ e
  cases e

theorem retrain (p : Nat) (n : Nat) (v : Word) : Statement (.retrain p n v) := by
  intro _ _ e
  cases e

theorem injectionGo (p : Nat) (n : Nat) (v : Word) : Statement (.injectionGo p n v) := by
  intro _ _ e
  cases e

theorem injectionStop (p : Nat) (n : Nat) (v : Word) : Statement (.injectionStop p n v) := by
  intro _ _ e
  cases e

theorem plnResSelWrite (p : Nat) (v : Word) : Statement (.plnResSelWrite p v) := by
  intro _ _ e
  cases e

theorem storeFrSelWrite (p : Nat) (v : Word) : Statement (.storeFrSelWrite p v) := by
  intro _ _ e
  cases e

theorem cfgPeekAddrWrite (p : Nat) (v : Word) : Statement (.cfgPeekAddrWrite p v) := by
  intro _ _ e
  cases e

theorem tobjDirDigestWrite (p : Nat) (i : Nat) : Statement (.tobjDirDigestWrite p i) := by
  intro _ _ e
  cases e

theorem svcTelemSelWrite (p : Nat) (v : Word) : Statement (.svcTelemSelWrite p v) := by
  intro _ _ e
  cases e

theorem svcLogSelWrite (p : Nat) (v : Word) : Statement (.svcLogSelWrite p v) := by
  intro _ _ e
  cases e

theorem tobjAlloc (p : Nat) : Statement (.tobjAlloc p) := by
  intro _ _ e
  cases e

theorem tobjSeal (p : Nat) : Statement (.tobjSeal p) := by
  intro _ _ e
  cases e

theorem tobjFree (p : Nat) : Statement (.tobjFree p) := by
  intro _ _ e
  cases e

theorem svcGo (p : Nat) (k : Nat) (v : Word) : Statement (.svcGo p k v) := by
  intro _ _ e
  cases e

theorem svcAbort (p : Nat) (k : Nat) (v : Word) : Statement (.svcAbort p k v) := by
  intro _ _ e
  cases e

theorem svcTransferStart (k : Nat) : Statement (.svcTransferStart k) := by
  intro _ _ e
  cases e

theorem svcTransferDone (k : Nat) (data : List Byte) : Statement (.svcTransferDone k data) := by
  intro _ _ e
  cases e

theorem timeSnapLinLoRead (p : Nat) : Statement (.timeSnapLinLoRead p) := by
  intro _ _ e
  cases e

theorem mchPosLoRead (p : Nat) (ch : Nat) : Statement (.mchPosLoRead p ch) := by
  intro _ _ e
  cases e

theorem prbTimeLoRead (p : Nat) (k : Nat) : Statement (.prbTimeLoRead p k) := by
  intro _ _ e
  cases e

theorem regPairLoRead (p : Nat) (off : Nat) (n : Nat) : Statement (.regPairLoRead p off n) := by
  intro _ _ e
  cases e

theorem regPairLoWrite (p : Nat) (off : Nat) (v : Word) : Statement (.regPairLoWrite p off v) := by
  intro _ _ e
  cases e

theorem regPairHiWrite (p : Nat) (off : Nat) (v : Word) : Statement (.regPairHiWrite p off v) := by
  intro _ _ e
  cases e

theorem rcRegisterRead (p : Nat) (off : Nat) (n : Nat) : Statement (.rcRegisterRead p off n) := by
  intro _ _ e
  cases e

theorem accessStatusRead (p : Nat) : Statement (.accessStatusRead p) := by
  intro _ _ e
  cases e

theorem aliasWrite (p : Nat) (off : Nat) (v : Word) : Statement (.aliasWrite p off v) := by
  intro _ _ e
  cases e

theorem aliasRead (p : Nat) (off : Nat) (n : Nat) : Statement (.aliasRead p off n) := by
  intro _ _ e
  cases e

theorem tcmpTargetHiWrite (p : Nat) (u : Nat) (v : Word) : Statement (.tcmpTargetHiWrite p u v) := by
  intro _ _ e
  cases e

theorem cmpTargetHiWrite (p : Nat) (u : Nat) (v : Word) : Statement (.cmpTargetHiWrite p u v) := by
  intro _ _ e
  cases e

theorem cmpEnable (p : Nat) (u : Nat) (v : Word) : Statement (.cmpEnable p u v) := by
  intro _ _ e
  cases e

theorem mchSetPosHiWrite (p : Nat) (ch : Nat) (v : Word) : Statement (.mchSetPosHiWrite p ch v) := by
  intro _ _ e
  cases e

theorem probeValidClear (p : Nat) (k : Nat) : Statement (.probeValidClear p k) := by
  intro _ _ e
  cases e

theorem msixUnmask (p : Nat) (vec : Option Nat) (enable : Bool) (mask : Bool) : Statement (.msixUnmask p vec enable mask) := by
  intro _ _ e
  cases e

theorem registerWrite (p : Nat) (off : Nat) (n : Nat) (v : Word) : Statement (.registerWrite p off n v) := by
  intro _ _ e
  cases e

theorem wakeFail (p : Nat) (off : Nat) (write : Bool) : Statement (.wakeFail p off write) := by
  intro _ _ e
  cases e

theorem svcPortRead (off : Nat) : Statement (.svcPortRead off) := by
  intro _ _ e
  cases e

theorem svcPortImage (data : List Byte) : Statement (.svcPortImage data) := by
  intro _ _ e
  cases e

theorem samplePreload (cells : List Bool) : Statement (.samplePreload cells) := by
  intro _ _ e
  cases e

theorem unlockChallenge (valid : Bool) : Statement (.unlockChallenge valid) := by
  intro _ _ e
  cases e

theorem internalResetRelease (bifurc : Nat) (bootSrc : Bool) : Statement (.internalResetRelease bifurc bootSrc) := by
  intro _ _ e
  cases e

theorem bootStageEnd (detail : Nat) (data : List Byte) (bad : List Nat) (badUnits : List (Nat × Nat)) : Statement (.bootStageEnd detail data bad badUnits) := by
  intro _ _ e
  cases e

theorem zeroizePin (low : Bool) : Statement (.zeroizePin low) := by
  intro _ _ e
  cases e

theorem tamperInput (i : Nat) (high : Bool) : Statement (.tamperInput i high) := by
  intro _ _ e
  cases e

theorem pxPerstRelease (p : Nat) : Statement (.pxPerstRelease p) := by
  intro _ _ e
  cases e

theorem hostLinkUp (p : Nat) (rate : Nat) (width : Nat) (flit : Bool) (mps : Nat) (noSnoop : Bool) (relaxed : Bool) : Statement (.hostLinkUp p rate width flit mps noSnoop relaxed) := by
  intro _ _ e
  cases e

theorem hostPortReset (p : Nat) (kind : Nat) : Statement (.hostPortReset p kind) := by
  intro _ _ e
  cases e

theorem d3hotEntry (p : Nat) : Statement (.d3hotEntry p) := by
  intro _ _ e
  cases e

theorem widthChange (p : Nat) (rate : Nat) (width : Nat) (flit : Bool) : Statement (.widthChange p rate width flit) := by
  intro _ _ e
  cases e

theorem cplTimeout (p : Nat) (mover : Option Nat) (ring : Option Nat) (addr : Nat) : Statement (.cplTimeout p mover ring addr) := by
  intro _ _ e
  cases e

theorem ideIntegrityFail (p : Nat) (n : Nat) : Statement (.ideIntegrityFail p n) := by
  intro _ _ e
  cases e

theorem ideKm (p : Nat) (n : Nat) (key : Nat) (lo : Nat) (hi : Nat) : Statement (.ideKm p n key lo hi) := by
  intro _ _ e
  cases e

theorem rigModeChange (r : Nat) : Statement (.rigModeChange r) := by
  intro _ _ e
  cases e

theorem ptpMessage (p : Nat) (m : PtpMsg) : Statement (.ptpMessage p m) := by
  intro _ _ e
  cases e

theorem ptpSourceLost (p : Nat) : Statement (.ptpSourceLost p) := by
  intro _ _ e
  cases e

theorem refLost (r : Nat) : Statement (.refLost r) := by
  intro _ _ e
  cases e

theorem ltcInFrame (hours : Nat) (minutes : Nat) (seconds : Nat) (frames : Nat) (drop : Bool) (ok : Bool) : Statement (.ltcInFrame hours minutes seconds frames drop ok) := by
  intro _ _ e
  cases e

theorem tcmpFire (u : Nat) : Statement (.tcmpFire u) := by
  intro _ _ e
  cases e

theorem triggerSend (r : Nat) : Statement (.triggerSend r) := by
  intro _ _ e
  cases e

theorem settingsSend (l : Nat) : Statement (.settingsSend l) := by
  intro _ _ e
  cases e

theorem beaconSend (l : Nat) (tNext : Int) (tAfter : Int) : Statement (.beaconSend l tNext tAfter) := by
  intro _ _ e
  cases e

theorem creditSend (l : Nat) : Statement (.creditSend l) := by
  intro _ _ e
  cases e

theorem credit (l : Nat) (p : Pkt) : Statement (.credit l p) := by
  intro _ _ e
  cases e

theorem beaconEcho (l : Nat) (p : Pkt) (at_ : Int) : Statement (.beaconEcho l p at_) := by
  intro _ _ e
  cases e

theorem capability (l : Nat) (p : Pkt) : Statement (.capability l p) := by
  intro _ _ e
  cases e

theorem triggerNak (l : Nat) (p : Pkt) : Statement (.triggerNak l p) := by
  intro _ _ e
  cases e

theorem settingsAck (l : Nat) (p : Pkt) : Statement (.settingsAck l p) := by
  intro _ _ e
  cases e

theorem regCompletion (l : Nat) (p : Pkt) : Statement (.regCompletion l p) := by
  intro _ _ e
  cases e

theorem regTimeout (l : Nat) : Statement (.regTimeout l) := by
  intro _ _ e
  cases e

theorem frameStart (l : Nat) (p : Pkt) : Statement (.frameStart l p) := by
  intro _ _ e
  cases e

theorem line (l : Nat) (p : Pkt) : Statement (.line l p) := by
  intro _ _ e
  cases e

theorem frameEnd (l : Nat) (p : Pkt) : Statement (.frameEnd l p) := by
  intro _ _ e
  cases e

theorem canaryFsTimeout (st : Nat) : Statement (.canaryFsTimeout st) := by
  intro _ _ e
  cases e

theorem canaryFeTimeout (st : Nat) : Statement (.canaryFeTimeout st) := by
  intro _ _ e
  cases e

theorem puLineProcess (u : Nat) : Statement (.puLineProcess u) := by
  intro _ _ e
  cases e

theorem frameClose (st : Nat) : Statement (.frameClose st) := by
  intro _ _ e
  cases e

theorem pageCacheRefill (st : Nat) : Statement (.pageCacheRefill st) := by
  intro _ _ e
  cases e

theorem spillPageOutDone (w : Nat) : Statement (.spillPageOutDone w) := by
  intro _ _ e
  cases e

theorem spillFail (w : Nat) : Statement (.spillFail w) := by
  intro _ _ e
  cases e

theorem spillPageIn (w : Nat) (data : List Byte) : Statement (.spillPageIn w data) := by
  intro _ _ e
  cases e

theorem eccCorrected (c : Nat) (row : Nat) (page : Option Nat) : Statement (.eccCorrected c row page) := by
  intro _ _ e
  cases e

theorem eccUncorrectable (c : Nat) (row : Nat) (page : Option Nat) : Statement (.eccUncorrectable c row page) := by
  intro _ _ e
  cases e

theorem rowRepair (c : Nat) : Statement (.rowRepair c) := by
  intro _ _ e
  cases e

theorem pageDigest (e : Nat) : Statement (.pageDigest e) := by
  intro _ _ e
  cases e

theorem frameSeal (st : Nat) : Statement (.frameSeal st) := by
  intro _ _ e
  cases e

theorem framePlace (r : Nat) : Statement (.framePlace r) := by
  intro _ _ e
  cases e

theorem chunkWrite (m : Nat) : Statement (.chunkWrite m) := by
  intro _ _ e
  cases e

theorem checkpoint (m : Nat) : Statement (.checkpoint m) := by
  intro _ _ e
  cases e

theorem driveCommandComplete (slot : Nat) (id : Nat) (r : DrvReply) : Statement (.driveCommandComplete slot id r) := by
  intro _ _ e
  cases e

theorem driveCommandTimeout (d : Nat) : Statement (.driveCommandTimeout d) := by
  intro _ _ e
  cases e

theorem driveLinkDown (d : Nat) : Statement (.driveLinkDown d) := by
  intro _ _ e
  cases e

theorem controllerFatalStatus (d : Nat) : Statement (.controllerFatalStatus d) := by
  intro _ _ e
  cases e

theorem smartPoll (d : Nat) (temp : Nat) (pct : Nat) (warn : Nat) : Statement (.smartPoll d temp pct warn) := by
  intro _ _ e
  cases e

theorem driveFailure (d : Nat) : Statement (.driveFailure d) := by
  intro _ _ e
  cases e

theorem relayBoundary (r : Nat) : Statement (.relayBoundary r) := by
  intro _ _ e
  cases e

theorem segmentClose (m : Nat) : Statement (.segmentClose m) := by
  intro _ _ e
  cases e

theorem takeClose (r : Nat) : Statement (.takeClose r) := by
  intro _ _ e
  cases e

theorem unsealedEnd (m : Nat) : Statement (.unsealedEnd m) := by
  intro _ _ e
  cases e

theorem bayInsert (b : Nat) (page : List Byte) : Statement (.bayInsert b page) := by
  intro _ _ e
  cases e

theorem identifyTimeout (d : Nat) : Statement (.identifyTimeout d) := by
  intro _ _ e
  cases e

theorem surprise (b : Nat) : Statement (.surprise b) := by
  intro _ _ e
  cases e

theorem ejectReq (b : Nat) : Statement (.ejectReq b) := by
  intro _ _ e
  cases e

theorem bayRelease (b : Nat) : Statement (.bayRelease b) := by
  intro _ _ e
  cases e

theorem delivery (n : Nat) (denied : Option (Nat × Nat × Nat × Nat)) : Statement (.delivery n denied) := by
  intro _ _ e
  cases e

theorem moverBusError (m : Nat) (kind : Nat) (addr : Nat) : Statement (.moverBusError m kind addr) := by
  intro _ _ e
  cases e

theorem positionCount (ch : Nat) (a : Bool) (b : Bool) : Statement (.positionCount ch a b) := by
  intro _ _ e
  cases e

theorem indexEvent (ch : Nat) (z : Bool) : Statement (.indexEvent ch z) := by
  intro _ _ e
  cases e

theorem serialRead (ch : Nat) (raw : Nat) (ack : Bool) (crc : Nat) (nE : Bool) (nW : Bool) (high : Bool) (ago : Nat) : Statement (.serialRead ch raw ack crc nE nW high ago) := by
  intro _ _ e
  cases e

theorem sincosSample (ch : Nat) (a : Int) (b : Int) : Statement (.sincosSample ch a b) := by
  intro _ _ e
  cases e

theorem speedStill (ch : Nat) : Statement (.speedStill ch) := by
  intro _ _ e
  cases e

theorem echoStep (k : Nat) : Statement (.echoStep k) := by
  intro _ _ e
  cases e

theorem probeEdge (k : Nat) (rise : Bool) : Statement (.probeEdge k rise) := by
  intro _ _ e
  cases e

theorem trigInEdge (k : Nat) (rise : Bool) : Statement (.trigInEdge k rise) := by
  intro _ _ e
  cases e

theorem motionSample (r : Nat) : Statement (.motionSample r) := by
  intro _ _ e
  cases e

theorem codewordReceive (n : Nat) (levels : List Nat) : Statement (.codewordReceive n levels) := by
  intro _ _ e
  cases e

theorem alignmentComma (n : Nat) (levels : List Nat) (snr : Nat) : Statement (.alignmentComma n levels snr) := by
  intro _ _ e
  cases e

theorem lockLost (n : Nat) : Statement (.lockLost n) := by
  intro _ _ e
  cases e

theorem relockTimeout (n : Nat) : Statement (.relockTimeout n) := by
  intro _ _ e
  cases e

theorem trainingFrame (n : Nat) (w : BitVec 48) (a : Adapt) : Statement (.trainingFrame n w a) := by
  intro _ _ e
  cases e

theorem trainTimeout (n : Nat) : Statement (.trainTimeout n) := by
  intro _ _ e
  cases e

theorem trainRetry (n : Nat) : Statement (.trainRetry n) := by
  intro _ _ e
  cases e

theorem wakeBurst (n : Nat) : Statement (.wakeBurst n) := by
  intro _ _ e
  cases e

theorem laneFailure (n : Nat) (noSignal : Bool) : Statement (.laneFailure n noSignal) := by
  intro _ _ e
  cases e

theorem swapDone (p : Nat) : Statement (.swapDone p) := by
  intro _ _ e
  cases e

theorem swapPropose (n : Nat) (m : LaneMsg) : Statement (.swapPropose n m) := by
  intro _ _ e
  cases e

theorem swapAgree (n : Nat) (m : LaneMsg) : Statement (.swapAgree n m) := by
  intro _ _ e
  cases e

theorem swapRefuse (n : Nat) (m : LaneMsg) : Statement (.swapRefuse n m) := by
  intro _ _ e
  cases e

theorem swapRequest (n : Nat) (m : LaneMsg) : Statement (.swapRequest n m) := by
  intro _ _ e
  cases e

theorem restripeAck (n : Nat) (m : LaneMsg) : Statement (.restripeAck n m) := by
  intro _ _ e
  cases e

theorem eidleAck (n : Nat) (m : LaneMsg) : Statement (.eidleAck n m) := by
  intro _ _ e
  cases e

theorem loopbackAck (n : Nat) (m : LaneMsg) : Statement (.loopbackAck n m) := by
  intro _ _ e
  cases e

theorem lockstepMismatch (u : Nat) : Statement (.lockstepMismatch u) := by
  intro _ _ e
  cases e

theorem unitFailure (kind : Nat) (i : Nat) (cause : Nat) : Statement (.unitFailure kind i cause) := by
  intro _ _ e
  cases e

theorem spareReplacement (kind : Nat) : Statement (.spareReplacement kind) := by
  intro _ _ e
  cases e

theorem drainComplete (kind : Nat) (i : Nat) : Statement (.drainComplete kind i) := by
  intro _ _ e
  cases e

theorem testComplete (kind : Nat) (i : Nat) (pass : Bool) (step : Nat) (errs : Nat) : Statement (.testComplete kind i pass step errs) := by
  intro _ _ e
  cases e

theorem spareRotation (kind : Nat) (pass : Bool) (test : Nat) : Statement (.spareRotation kind pass test) := by
  intro _ _ e
  cases e

theorem spareKat (fails : List (Nat × Nat)) : Statement (.spareKat fails) := by
  intro _ _ e
  cases e

theorem entropyRetest (pass : Bool) : Statement (.entropyRetest pass) := by
  intro _ _ e
  cases e

theorem thermalSample (t : List Int) : Statement (.thermalSample t) := by
  intro _ _ e
  cases e

theorem lockGained (n : Nat) (commas : List (List Nat)) : Statement (.lockGained n commas) := by
  intro _ _ e
  cases e

theorem prbsCheckerLock (n : Nat) (bits : List Bool) : Statement (.prbsCheckerLock n bits) := by
  intro _ _ e
  cases e

theorem quadErr (ch : Nat) : Statement (.quadErr ch) := by
  intro _ _ e
  cases e

theorem speedDecay (ch : Nat) : Statement (.speedDecay ch) := by
  intro _ _ e
  cases e

theorem ejectRelease (b : Nat) : Statement (.ejectRelease b) := by
  intro _ _ e
  cases e

theorem driveLinkUp (d : Nat) (gen : Nat) (width : Nat) : Statement (.driveLinkUp d gen width) := by
  intro _ _ e
  cases e

theorem controllerReady (d : Nat) : Statement (.controllerReady d) := by
  intro _ _ e
  cases e

theorem tpLinkState (p : Nat) (up : Bool) : Statement (.tpLinkState p up) := by
  intro _ _ e
  cases e

theorem tpMacFrame (p : Nat) (kind : Nat) (addr : Nat) (fields : List Nat) : Statement (.tpMacFrame p kind addr fields) := by
  intro _ _ e
  cases e

theorem aspmL1Entry (p : Nat) : Statement (.aspmL1Entry p) := by
  intro _ _ e
  cases e

theorem spdmRequest (p : Nat) (kind : Nat) : Statement (.spdmRequest p kind) := by
  intro _ _ e
  cases e

theorem flaggedRegisterRead (p : Nat) (off : Nat) (n : Nat) : Statement (.flaggedRegisterRead p off n) := by
  intro _ _ e
  cases e

theorem shiftChange : Statement (.shiftChange) := by
  intro _ _ e
  cases e

theorem tobjSealDone : Statement (.tobjSealDone) := by
  intro _ _ e
  cases e

theorem clockRegate : Statement (.clockRegate) := by
  intro _ _ e
  cases e

theorem svcPortStatus : Statement (.svcPortStatus) := by
  intro _ _ e
  cases e

theorem extest : Statement (.extest) := by
  intro _ _ e
  cases e

theorem idcode : Statement (.idcode) := by
  intro _ _ e
  cases e

theorem highz : Statement (.highz) := by
  intro _ _ e
  cases e

theorem clamp : Statement (.clamp) := by
  intro _ _ e
  cases e

theorem extestPulse : Statement (.extestPulse) := by
  intro _ _ e
  cases e

theorem extestTrain : Statement (.extestTrain) := by
  intro _ _ e
  cases e

theorem bypass : Statement (.bypass) := by
  intro _ _ e
  cases e

theorem porstAssert : Statement (.porstAssert) := by
  intro _ _ e
  cases e

theorem supplyDrop : Statement (.supplyDrop) := by
  intro _ _ e
  cases e

theorem bootImageTimeout : Statement (.bootImageTimeout) := by
  intro _ _ e
  cases e

theorem firmwareReadyTimeout : Statement (.firmwareReadyTimeout) := by
  intro _ _ e
  cases e

theorem tickBoundary : Statement (.tickBoundary) := by
  intro _ _ e
  cases e

theorem unitStateBoundary : Statement (.unitStateBoundary) := by
  intro _ _ e
  cases e

theorem commitBoundary : Statement (.commitBoundary) := by
  intro _ _ e
  cases e

theorem configFallbackBoundary : Statement (.configFallbackBoundary) := by
  intro _ _ e
  cases e

theorem configClearBoundary : Statement (.configClearBoundary) := by
  intro _ _ e
  cases e

theorem probationEnd : Statement (.probationEnd) := by
  intro _ _ e
  cases e

theorem ppsInEdge : Statement (.ppsInEdge) := by
  intro _ _ e
  cases e

theorem ppsInLost : Statement (.ppsInLost) := by
  intro _ _ e
  cases e

theorem clk10mLost : Statement (.clk10mLost) := by
  intro _ _ e
  cases e

theorem refInEdge : Statement (.refInEdge) := by
  intro _ _ e
  cases e

theorem ltcInLost : Statement (.ltcInLost) := by
  intro _ _ e
  cases e

theorem timeStepFix : Statement (.timeStepFix) := by
  intro _ _ e
  cases e

theorem timeStepApply : Statement (.timeStepApply) := by
  intro _ _ e
  cases e

theorem ppsOutPulse : Statement (.ppsOutPulse) := by
  intro _ _ e
  cases e

theorem ltcOutFrame : Statement (.ltcOutFrame) := by
  intro _ _ e
  cases e

theorem pagesFree : Statement (.pagesFree) := by
  intro _ _ e
  cases e

theorem spillPageOut : Statement (.spillPageOut) := by
  intro _ _ e
  cases e

theorem lockstepResume : Statement (.lockstepResume) := by
  intro _ _ e
  cases e

theorem entropyHealthFail : Statement (.entropyHealthFail) := by
  intro _ _ e
  cases e

theorem lockoutExpiry : Statement (.lockoutExpiry) := by
  intro _ _ e
  cases e

theorem thermtrip : Statement (.thermtrip) := by
  intro _ _ e
  cases e

theorem pulseEnd : Statement (.pulseEnd) := by
  intro _ _ e
  cases e

end Sys2Proof.Laws.Fields
end

