-- ==== Sys2Proof/Tests/Slice0.lean ====
section
/-! SUPPORT. Tests: ill-formed commands are refused, a few words of single steps, and for every statement with hypotheses states and
operands that meet them together. -/

set_option linter.all false
set_option maxRecDepth 20000

namespace Sys2Proof.Tests

open Sys2Proof Sys2Proof.Machine

/-! ### Ill-formed terms are refused -/

/-- A descriptor of 56 zero operand bytes. -/
def desc (ring : Nat) : Desc := { ring := ring }

theorem test_wf_descriptor : (Instr.nop (desc 0)).wf = true ∧ (Instr.nop (desc 1024)).wf = false
    ∧ (Instr.nop { desc 0 with ops := [0] }).wf = false ∧ (Instr.nop { desc 0 with blocks := 1 }).wf = false := by decide
theorem test_wf_packet : (Instr.credit 0 { ptype := 256 }).wf = false ∧ (Instr.credit 32 { ptype := 1, fields := List.replicate 8 0 }).wf = false
    ∧ (Instr.credit 0 { ptype := 1, fields := List.replicate 8 0 }).wf = true := by decide
theorem test_wf_laneMessage : (Instr.swapAgree 0 { opcode := 256 }).wf = false ∧ (Instr.swapAgree 36 { opcode := 2 }).wf = false := by decide
theorem test_wf_levels : (Instr.alignmentComma 0 [0, 1] 0).wf = false ∧ (Instr.alignmentComma 0 (List.replicate 64 4) 0).wf = false := by decide
theorem test_wf_offset : (Instr.aliasWrite 0 (2 ^ 26) 0).wf = false ∧ (Instr.aliasWrite 4 0 0).wf = false := by decide
theorem test_wf_access : (Instr.registerWrite 0 0 0 0).wf = false ∧ (Instr.registerWrite 0 0 4097 0).wf = false
    ∧ (Instr.registerWrite 3 0 4 0).wf = true := by decide
theorem test_wf_unit : (Instr.unitFailure 0x04 36 0).wf = false ∧ (Instr.unitFailure 0x03 0 0).wf = false := by decide
theorem test_wf_page : (Instr.eccCorrected 5 0 (some 6)).wf = false ∧ (Instr.eccCorrected 5 0 (some 2228224)).wf = false
    ∧ (Instr.eccCorrected 5 0 (some 133)).wf = true := by decide

/-! ### The ball map (R23, R600, R602) -/

theorem test_ball_row : (Ball.name ⟨23, 17⟩) = "AD17" := by decide
theorem test_ball_head : (acPairs.find? (fun e => decide (e.1 = ⟨"HP_RX", 12⟩))).map (fun e => (e.2.1.name, e.2.2.name)) = some ("B38", "B39") := by decide
theorem test_ball_bay : (acPairs.find? (fun e => decide (e.1 = ⟨"MB_TX", 45⟩))).map (fun e => (e.2.1.name, e.2.2.name)) = some ("AH39", "AJ39") := by decide
theorem test_ball_motion : (motionPairs.find? (fun e => decide (e.1 = ⟨"MCH_B", 5⟩))).map (fun e => (e.2.1.name, e.2.2.name))
    = some ("BK11", "BK12") := by decide

/-! ### States that the witnesses are built from -/

/-- The running device in OPERATIONAL; port 0 is up and steward; RING(0) and RING(1) of the bootstrap assignment run. -/
def up : State :=
  let s : State := { State.reset with
    svc := { State.reset.svc with stopped := none }, dev := { State.reset.dev with mode := .operational, steward := some 0 } }
  let s := s.setReg Reg.HP_STATUS 0 0 0xC0000000
  let s := s.setRing 0 (fun q => { q with state := .running, db := 1, evt := 1 })
  s.setRing 1 (fun q => { q with state := .running })

/-- A register's RW bits in the active set. -/
def setAct (s : State) (r : RegRow) (i : Nat) (v : Word) : State :=
  { s with cfg := { s.cfg with active := some { regs := Tab.put (r.reset &&& r.rw) s.activeSet (r.addr i) v } } }
def inPort (s : State) (p : Nat) (f : PortSt → PortSt) : State := s.setPort p f
def inLane (s : State) (n : Nat) (f : LaneSt → LaneSt) : State := s.setLane n f
def later (s : State) (clk : Nat) : State := { s with time := { s.time with clk := clk } }
/-- Set 0 is one formatted drive of bay 0, ready. -/
def oneDrive (s : State) : State :=
  let s := (setAct (setAct s Reg.MSET_CTRL 0 0x10001) Reg.RREC_CTRL 0 0xFFF00200).setUnit 7 0 2
  (s.setBay 0 (fun q => { q with mode := .ready, content := 2 })).setDrive 0 (fun q => { q with
    mode := .ready, serial := 7, super := some { mask := 1, driveClaims := 100, members := [(0, 0, 7)] } })
/-- A take of rig 0 that records, with a set free to relay to. -/
def relayTake : Take := { id := 4, rig := 0, burst := false, seq := 1, secs := 0, first := 0, live := 0, started := true, streams := [] }
def relaying (s : State) : State :=
  let s := (oneDrive s).setRig 0 (fun q => { q with mode := .record })
  { s with takes := { s.takes with takes := [relayTake] }, mag := { s.mag with recs := Tab.put {} [] 4 { rig := 0, segFirst := 1 } } }
/-- RING(2) is a running delivery ring of subscription 0. -/
def delivering : State :=
  (setAct (setAct up Reg.RING_OWN 2 0x01040001) Reg.SUB_CTRL 0 0x81000002).setRing 2 (fun q => { q with state := .running, db := 1, evt := 1 })
def held (s : State) : State := { s with svc := { s.svc with stopped := some .reset } }

/-! ### What the hypotheses of the statements admit -/

theorem test_StepRunsTheFrontCommand_1 : ∃ (c : Instr) (s : State) (rest : List Instr),
    s.pending = c :: rest :=
  ⟨.porstAssert, { up with pending := [.porstAssert] }, [], by (try unfold State.takesCmd); (try unfold State.writable); (try unfold State.opensWrite); (try unfold State.opensRead); decide⟩

theorem test_EmptyQueueLetsOneClockPass_1 : ∃ s : State,
    s.pending = [] :=
  ⟨up, by (try unfold State.takesCmd); (try unfold State.writable); (try unfold State.opensWrite); (try unfold State.opensRead); decide⟩

theorem test_NoCommandTouchesTheQueue_1 : ∃ (c : Instr) (s : State) (rest : List Instr),
    s.pending = c :: rest :=
  ⟨.porstAssert, { up with pending := [.porstAssert] }, [], by (try unfold State.takesCmd); (try unfold State.writable); (try unfold State.opensWrite); (try unfold State.opensRead); decide⟩

theorem test_EachCommandKeepsItsFrame_1 : ∃ (i : Instr) (s t : State) (p : Part),
    exec i s = .next t ∧
    p ∉ mayChange i :=
  ⟨.lockoutExpiry, up, _, .cfg, rfl, by decide⟩

theorem test_MemoryStaysCanonical_1 : ∃ s t : State,
    Memory.wf s.hbm ∧ Memory.wf s.obj.heap ∧
    step s = .next t :=
  ⟨up, _, by decide, by decide, rfl⟩

theorem test_FloorsAndOutputsOnlyGrow_1 : ∃ s t : State,
    step s = .next t :=
  ⟨up, _, rfl⟩

theorem test_HeldDeviceIgnoresCommands_1 : ∃ (i : Instr) (s : State) (h : Stop),
    s.svc.stopped = some h ∧
    reachesHeld i = false :=
  ⟨.shiftChange, held up, .reset, by (try unfold State.takesCmd); (try unfold State.writable); (try unfold State.opensWrite); (try unfold State.opensRead); decide⟩

theorem test_DoorbellAcceptedOrCounted_1 : ∃ (s : State) (p n : Nat) (v : BitVec 32),
    s.svc.stopped = none ∧
    s.portTalks p = true ∧
    s.dev.mode ≠ .boot ∧
    n < 1024 ∧
    s.ringAssigned n = true ∧
    s.ringPort n = p ∧
    (s.ring n).aborting = false :=
  ⟨up, 0, 0, 1, by (try unfold State.takesCmd); (try unfold State.writable); (try unfold State.opensWrite); (try unfold State.opensRead); decide⟩

theorem test_ConfigDiscardRestoresPending_1 : ∃ (s : State) (d : Desc),
    s.takesCmd d ∧
    structOk d (tNone d) [] false = true ∧
    s.isSteward d = true ∧
    (s.dev.mode = .standby ∨ s.dev.mode = .operational) :=
  ⟨up, desc 0, by (try unfold State.takesCmd); (try unfold State.writable); (try unfold State.opensWrite); (try unfold State.opensRead); decide⟩

theorem test_NopWritesItsRecord_1 : ∃ (s : State) (d : Desc),
    s.takesCmd d ∧
    d.flags.toNat < 32 ∧
    fChain d = false ∧
    d.target = 0 ∧
    unusedZero d [] = true ∧
    let e := (s.ring d.ring).evt
    let q := s.ring e
    let p := s.ringPort e
    let at_ := q.base + 32 * (q.dev.toNat % s.ringSize e)
    e ≠ d.ring ∧
    (s.ring d.ring).state ≠ .pausedEvt ∧
    q.state = .running ∧
    s.evtRoom e = true ∧
    s.portTalks p = true ∧
    s.ideOk p at_ 32 = true :=
  ⟨up, desc 0, by (try unfold State.takesCmd); (try unfold State.writable); (try unfold State.opensWrite); (try unfold State.opensRead); decide⟩

theorem test_RingControl_1 : ∃ (s : State) (p n : Nat) (v : Word),
    s.writable p Reg.RING_CTRL n ∧
    bit (s.reg Reg.RING_CTRL n) 31 = false ∧
    let e := fld v 25 16
    s.ringAssigned n = true ∧
    s.portExists (s.ringPort n) = true ∧
    s.ringBase n % 4096 = 0 ∧
    ((s.ringKind n = 2 ∨ (s.ringAssigned e = true ∧ s.ringKind e = 2 ∧ s.ringPort e = s.ringPort n ∧ (s.ring e).state = .running))) :=
  ⟨up, 0, 0, 0x80010000, by (try unfold State.takesCmd); (try unfold State.writable); (try unfold State.opensWrite); (try unfold State.opensRead); decide⟩

theorem test_RingControl_2 : ∃ (s : State) (p n : Nat) (v : Word),
    s.writable p Reg.RING_CTRL n ∧
    bit (s.reg Reg.RING_CTRL n) 31 = false ∧
    let e := fld v 25 16
    (¬(s.ringAssigned n = true ∧ s.portExists (s.ringPort n) = true ∧ s.ringBase n % 4096 = 0 ∧ (s.ringKind n = 2 ∨ (s.ringAssigned e = true ∧ s.ringKind e = 2 ∧ s.ringPort e = s.ringPort n ∧ (s.ring e).state = .running)))) ∧
    bit v 30 = false :=
  ⟨(up.setRing 1 (fun q => { q with state := .disabled })), 0, 0, 0x80010000, by (try unfold State.takesCmd); (try unfold State.writable); (try unfold State.opensWrite); (try unfold State.opensRead); decide⟩

theorem test_RingControl_3 : ∃ (s : State) (p n : Nat) (v : Word),
    s.writable p Reg.RING_CTRL n ∧
    bit (s.reg Reg.RING_CTRL n) 31 = true ∧
    s.ringKind n = 0 :=
  ⟨(up.setReg Reg.RING_CTRL 0 0 0x80000000), 0, 0, 0, by (try unfold State.takesCmd); (try unfold State.writable); (try unfold State.opensWrite); (try unfold State.opensRead); decide⟩

theorem test_RingControl_4 : ∃ (s : State) (p n : Nat) (v : Word),
    s.writable p Reg.RING_CTRL n ∧
    bit (s.reg Reg.RING_CTRL n) 31 = true ∧
    (((s.ring n).state = .pausedBus ∨ ((s.ring n).state = .pausedEvt ∧ (s.ring (s.ring n).evt).state = .running))) :=
  ⟨((up.setReg Reg.RING_CTRL 0 0 0x80000000).setRing 0 (fun q => { q with state := .pausedBus })), 0, 0, 0x40000000, by (try unfold State.takesCmd); (try unfold State.writable); (try unfold State.opensWrite); (try unfold State.opensRead); decide⟩

theorem test_RingEvents_1 : ∃ (s : State) (n : Nat) (x : Staged) (rest : List Staged),
    s.svc.stopped = none ∧
    (s.ring n).staged = x :: rest ∧
    (s.ring n).state = .running ∧
    s.evtRoom n = true ∧
    (s.ring x.ring).state ≠ .pausedEvt ∧
    s.portTalks (s.ringPort n) = true ∧
    s.ideOk (s.ringPort n) ((s.ring n).base + 32 * ((s.ring n).dev.toNat % s.ringSize n)) 32 = true :=
  ⟨(up.setRing 1 (fun q => { q with staged := [{ ring := 0, record := { etype := 1 }, irq := false }] })), 1, { ring := 0, record := { etype := 1 }, irq := false }, [], by (try unfold State.takesCmd); (try unfold State.writable); (try unfold State.opensWrite); (try unfold State.opensRead); decide⟩

theorem test_RingEvents_2 : ∃ (s : State) (n addr : Nat),
    s.svc.stopped = none ∧
    (s.ring n).state = .running ∧
    (s.ringKind n = 0 ∨ s.ringKind n = 1) ∧
    (s.ring n).dev ≠ (s.ring n).db :=
  ⟨up, 0, 64, by (try unfold State.takesCmd); (try unfold State.writable); (try unfold State.opensWrite); (try unfold State.opensRead); decide⟩

theorem test_StewardshipMoves_1 : ∃ (s : State) (p : Nat),
    s.writable p Reg.STEW_CTRL 0 ∧
    s.dev.steward = none ∧
    s.isLive p = true :=
  ⟨(inPort ({ up with dev := { up.dev with steward := none } }) 0 (fun q => { q with beatAt := some 0 })), 0, by (try unfold State.takesCmd); (try unfold State.writable); (try unfold State.opensWrite); (try unfold State.opensRead); decide⟩

theorem test_StewardshipMoves_2 : ∃ (s : State) (p : Nat),
    s.writable p Reg.STEW_CTRL 0 ∧
    s.dev.steward = some p ∧
    s.dev.shift = none :=
  ⟨up, 0, by (try unfold State.takesCmd); (try unfold State.writable); (try unfold State.opensWrite); (try unfold State.opensRead); decide⟩

theorem test_StewardshipMoves_3 : ∃ (s : State) (p : Nat),
    s.writable p Reg.HEARTBEAT 0 :=
  ⟨up, 0, by (try unfold State.takesCmd); (try unfold State.writable); (try unfold State.opensWrite); (try unfold State.opensRead); decide⟩

theorem test_StewardshipMoves_4 : ∃ (s : State) (p b : Nat),
    s.svc.stopped = none ∧
    (s.port p).beatAt = some b ∧
    b + s.liveClk ≤ s.time.clk ∧
    s.dev.steward = some p ∧
    s.dev.shift = none :=
  ⟨(later (inPort up 0 (fun q => { q with beatAt := some 0 })) 1000000000000), 0, 0, by (try unfold State.takesCmd); (try unfold State.writable); (try unfold State.opensWrite); (try unfold State.opensRead); decide⟩

theorem test_StewardshipMoves_5 : ∃ (s : State) (c old : Nat),
    s.svc.stopped = none ∧
    s.dev.shift = some c ∧
    s.dev.steward = some old :=
  ⟨{ up with dev := { up.dev with shift := some 3 } }, 3, 0, by (try unfold State.takesCmd); (try unfold State.writable); (try unfold State.opensWrite); (try unfold State.opensRead); decide⟩

theorem test_HostLinkEvents_1 : ∃ (s : State) (p : Nat),
    s.svc.stopped = none ∧
    s.portExists p = true :=
  ⟨up, 0, by (try unfold State.takesCmd); (try unfold State.writable); (try unfold State.opensWrite); (try unfold State.opensRead); decide⟩

theorem test_HostLinkEvents_2 : ∃ (s : State) (p rate width mps : Nat) (flit noSnoop relaxed : Bool),
    s.svc.stopped = none ∧
    s.linkOk p rate width = true ∧
    s.linkUp p = false :=
  ⟨(inPort (({ up with svc := { up.svc with bifurc := 0 } }.setReg Reg.BOOT_STATUS 0 0 0xFF).setReg Reg.HP_STATUS 0 0 0x80000000) 0 (fun q => { q with perst := false })), 0, 6, 16, 256, true, true, true, by (try unfold State.takesCmd); (try unfold State.writable); (try unfold State.opensWrite); (try unfold State.opensRead); decide⟩

theorem test_HostLinkEvents_3 : ∃ (s : State) (p rate width : Nat) (flit : Bool),
    s.svc.stopped = none ∧
    s.linkOk p rate width = true ∧
    s.linkUp p = true ∧
    ¬(fld (s.reg Reg.HP_STATUS p) 19 16 = rate ∧ fld (s.reg Reg.HP_STATUS p) 12 8 = width) :=
  ⟨(inPort (({ up with svc := { up.svc with bifurc := 0 } }.setReg Reg.BOOT_STATUS 0 0 0xFF).setReg Reg.HP_STATUS 0 0 0xC0010400) 0 (fun q => { q with perst := false })), 0, 5, 8, true, by (try unfold State.takesCmd); (try unfold State.writable); (try unfold State.opensWrite); (try unfold State.opensRead); decide⟩

theorem test_HostLinkEvents_4 : ∃ (s : State) (p : Nat),
    s.svc.stopped = none ∧
    s.portTalks p = true ∧
    s.portHasJobs p = false :=
  ⟨up, 0, by (try unfold State.takesCmd); (try unfold State.writable); (try unfold State.opensWrite); (try unfold State.opensRead); decide⟩

theorem test_HostLinkEvents_5 : ∃ (s : State) (p : Nat),
    s.svc.stopped = none ∧
    s.linkUp p = true :=
  ⟨up, 0, by (try unfold State.takesCmd); (try unfold State.writable); (try unfold State.opensWrite); (try unfold State.opensRead); decide⟩

theorem test_PortSecurityEvents_1 : ∃ (s : State) (p : Nat) (enable mask : Bool),
    s.svc.stopped = none ∧
    s.linkUp p = true :=
  ⟨up, 0, true, false, by (try unfold State.takesCmd); (try unfold State.writable); (try unfold State.opensWrite); (try unfold State.opensRead); decide⟩

theorem test_PortSecurityEvents_2 : ∃ (s : State) (p v : Nat) (enable : Bool),
    s.svc.stopped = none ∧
    s.linkUp p = true ∧
    v < 2048 :=
  ⟨up, 0, 7, true, by (try unfold State.takesCmd); (try unfold State.writable); (try unfold State.opensWrite); (try unfold State.opensRead); decide⟩

theorem test_PortSecurityEvents_3 : ∃ (s : State) (p v : Nat) (enable : Bool),
    s.svc.stopped = none ∧
    s.linkUp p = true :=
  ⟨up, 0, 7, true, by (try unfold State.takesCmd); (try unfold State.writable); (try unfold State.opensWrite); (try unfold State.opensRead); decide⟩

theorem test_PortSecurityEvents_4 : ∃ (s : State) (p : Nat),
    s.svc.stopped = none ∧
    s.portTalks p = true ∧
    s.dev.mode ≠ .boot :=
  ⟨up, 0, by (try unfold State.takesCmd); (try unfold State.writable); (try unfold State.opensWrite); (try unfold State.opensRead); decide⟩

theorem test_PortSecurityEvents_5 : ∃ (s : State) (p : Nat),
    s.svc.stopped = none ∧
    s.portTalks p = true ∧
    s.dev.mode ≠ .boot :=
  ⟨up, 0, by (try unfold State.takesCmd); (try unfold State.writable); (try unfold State.opensWrite); (try unfold State.opensRead); decide⟩

theorem test_PortSecurityEvents_6 : ∃ (s : State) (p n key lo hi : Nat),
    s.svc.stopped = none ∧
    s.portTalks p = true ∧
    (s.port p).spdm = true ∧
    n < 4 :=
  ⟨(inPort up 0 (fun q => { q with spdm := true })), 0, 0, 1, 0, 4095, by (try unfold State.takesCmd); (try unfold State.writable); (try unfold State.opensWrite); (try unfold State.opensRead); decide⟩

theorem test_PortSecurityEvents_7 : ∃ (s : State) (p n : Nat) (x : IdeStream),
    s.svc.stopped = none ∧
    s.portTalks p = true ∧
    (s.port p).ide[n]? = some x ∧
    x.secure = true :=
  ⟨(inPort up 0 (fun q => { q with ide := [{ secure := true, lo := 0, hi := 4095, key := 1 }] })), 0, 0, { secure := true, lo := 0, hi := 4095, key := 1 }, by (try unfold State.takesCmd); (try unfold State.writable); (try unfold State.opensWrite); (try unfold State.opensRead); decide⟩

theorem test_PortResetClearsThePort_1 : ∃ (s : State) (p kind : Nat),
    s.svc.stopped = none ∧
    s.portExists p = true ∧
    kind ≤ 4 ∧
    ((kind ≤ 2 → s.linkUp p = true)) ∧
    ((kind = 4 → (s.port p).d3hot = true)) :=
  ⟨up, 0, 0, by (try unfold State.takesCmd); (try unfold State.writable); (try unfold State.opensWrite); (try unfold State.opensRead); decide⟩

theorem test_RegisterWrites_1 : ∃ (s : State) (p off i j : Nat) (r : RegRow) (v : Word),
    s.opensWrite p off ∧
    aliasAt off = none ∧
    findReg off = some (r, i, j) ∧
    r.half = .whole ∧
    ((∀ x ∈ actingRows, r.is x = false)) ∧
    s.areaHeld off = false ∧
    ((r.win = 1 → s.portExists i = true)) :=
  ⟨up, 0, Reg.LANE_EQ_CTRL.addr 3, 3, 0, Reg.LANE_EQ_CTRL, 0x1234, by (try unfold State.takesCmd); (try unfold State.writable); (try unfold State.opensWrite); (try unfold State.opensRead); decide⟩

theorem test_RegisterWrites_2 : ∃ (s : State) (p off n : Nat) (v : Word),
    s.svc.stopped = none ∧
    s.portTalks p = true ∧
    (n ≠ 4 ∨ off % 4 ≠ 0) :=
  ⟨up, 0, 0, 2, 0, by (try unfold State.takesCmd); (try unfold State.writable); (try unfold State.opensWrite); (try unfold State.opensRead); decide⟩

theorem test_RegisterWrites_3 : ∃ (s : State) (p off i j : Nat) (r : RegRow) (v : Word),
    s.opensWrite p off ∧
    aliasAt off = none ∧
    findReg off = some (r, i, j) ∧
    r.half = .lo ∧
    r.rw ||| r.rwi ≠ 0 ∧
    s.areaHeld off = false ∧
    ((r.win = 1 → s.portExists i = true)) :=
  ⟨up, 0, Reg.RING_BASE_LO.addr 5, 5, 0, Reg.RING_BASE_LO, 0x1000, by (try unfold State.takesCmd); (try unfold State.writable); (try unfold State.opensWrite); (try unfold State.opensRead); decide⟩

theorem test_RegisterWrites_4 : ∃ (s : State) (p off i j : Nat) (r : RegRow) (v : Word),
    s.opensWrite p off ∧
    aliasAt off = none ∧
    findReg off = some (r, i, j) ∧
    r.half = .hi ∧
    r.rw ||| r.rwi ≠ 0 ∧
    ((∀ x ∈ actingPairs, r.is x = false)) ∧
    s.areaHeld off = false ∧
    ((r.win = 1 → s.portExists i = true)) ∧
    (r.partner i j).addr i j ≠ off ∧
    (r.partner i j).win < 16 :=
  ⟨up, 0, Reg.SPW_BASE_HI.addr 3, 3, 0, Reg.SPW_BASE_HI, 0, by (try unfold State.takesCmd); (try unfold State.writable); (try unfold State.opensWrite); (try unfold State.opensRead); decide⟩

theorem test_RegisterWrites_5 : ∃ (s : State) (p off w o n : Nat) (g : Option Nat) (v : Word),
    s.opensWrite p off ∧
    aliasAt off = some (w, g, o) ∧
    n ∈ s.members w g ∧
    ((∀ m ∈ s.members w g, ∀ r i j, memberReg w m o = some (r, i, j) → r.half = .whole ∧ (∀ x ∈ actingRows, r.is x = false) ∧ s.areaHeld (r.addr i j) = false)) :=
  by
  have hm : (up.setReg (grpMask 4) 0 0 1).members 4 (some 0) = [0] := by decide
  refine ⟨(up.setReg (grpMask 4) 0 0 1), 0, 0x4E0040, 4, 0x40, 0, some 0, 5, by unfold State.opensWrite; decide, by decide, by rw [hm]; decide, ?_⟩
  rw [hm]
  intro m h r i j e
  have hr : memberReg 4 0 0x40 = some (Reg.LANE_EQ_CTRL, 0, 0) := by decide
  rw [List.mem_singleton.mp h, hr] at e
  cases e
  decide

theorem test_RegisterReads_1 : ∃ (s : State) (p off i j : Nat) (r : RegRow),
    s.opensRead p off 4 ∧
    aliasAt off = none ∧
    findReg off = some (r, i, j) ∧
    r.half = .lo ∧
    ((∀ x ∈ readRows, r.is x = false)) ∧
    r.rc = 0 ∧
    s.areaHeld off = false :=
  ⟨up, 0, Reg.MV_BYTES_LO.addr 3, 3, 0, Reg.MV_BYTES_LO, by (try unfold State.takesCmd); (try unfold State.writable); (try unfold State.opensWrite); (try unfold State.opensRead); decide⟩

theorem test_RegisterReads_2 : ∃ (s : State) (p off i j : Nat) (r : RegRow),
    s.opensRead p off 4 ∧
    aliasAt off = none ∧
    findReg off = some (r, i, j) ∧
    r.half = .whole ∧
    r.rc ≠ 0 ∧
    ((∀ x ∈ readRows, r.is x = false)) ∧
    s.areaHeld off = false :=
  ⟨up, 0, Reg.HP_DENIED_CNT.addr 0, 0, 0, Reg.HP_DENIED_CNT, by (try unfold State.takesCmd); (try unfold State.writable); (try unfold State.opensWrite); (try unfold State.opensRead); decide⟩

theorem test_RegisterReads_3 : ∃ (s : State) (p : Nat),
    s.opensRead p Reg.ACCESS_STATUS.addr 4 ∧
    s.areaHeld Reg.ACCESS_STATUS.addr = false ∧
    (s.port p).cap.get none Reg.ACCESS_STATUS.addr = none :=
  ⟨up, 0, by (try unfold State.takesCmd); (try unfold State.writable); (try unfold State.opensWrite); (try unfold State.opensRead); decide⟩

theorem test_RegisterReads_4 : ∃ (s : State) (p off w o : Nat) (g : Option Nat),
    s.opensRead p off 4 ∧
    aliasAt off = some (w, g, o) :=
  ⟨up, 0, 0x4E0040, 4, 0x40, some 0, by (try unfold State.takesCmd); (try unfold State.writable); (try unfold State.opensWrite); (try unfold State.opensRead); decide⟩

theorem test_LaneTraining_1 : ∃ (s : State) (n : Nat) (w : BitVec 48) (a : Adapt) (c : Control),
    s.svc.stopped = none ∧
    bit (s.act Reg.LANE_CTRL n) 0 = true ∧
    (s.lane n).mode = .training ∧
    (s.lane n).failAt = none ∧
    parseControl w = some c ∧
    c.rate = (s.txControl n).rate ∧
    c.linkTag = (s.txControl n).linkTag ∧
    c.logical = (s.txControl n).logical :=
  ⟨(inLane (setAct up Reg.LANE_CTRL 0 1) 0 (fun q => { q with mode := .training, link := some 0, logical := 0 })), 0, encodeControl ((inLane (setAct up Reg.LANE_CTRL 0 1) 0 (fun q => { q with mode := .training, link := some 0, logical := 0 })).txControl 0), { }, { (inLane (setAct up Reg.LANE_CTRL 0 1) 0 (fun q => { q with mode := .training, link := some 0, logical := 0 })).txControl 0 with rxReady := false }, by (try unfold State.takesCmd); (try unfold State.writable); (try unfold State.opensWrite); (try unfold State.opensRead); decide⟩

theorem test_LaneTraining_2 : ∃ (s : State) (n : Nat),
    s.svc.stopped = none ∧
    (s.lane n).mode = .training ∧
    (s.lane n).failAt = none ∧
    (s.lane n).trainAt + msClk (s.actF Reg.LANE_TRAIN_CTRL n 31 16) ≤ s.time.clk :=
  ⟨(later (inLane (setAct up Reg.LANE_CTRL 0 1) 0 (fun q => { q with mode := .training, link := some 0, logical := 0 })) 1000000000), 0, by (try unfold State.takesCmd); (try unfold State.writable); (try unfold State.opensWrite); (try unfold State.opensRead); decide⟩

theorem test_LaneTraining_3 : ∃ (s : State) (n x : Nat),
    s.svc.stopped = none ∧
    (s.lane n).mode = .training ∧
    (s.lane n).failAt = some x ∧
    x + 2500000 ≤ s.time.clk :=
  ⟨(later (inLane (setAct up Reg.LANE_CTRL 0 1) 0 (fun q => { q with mode := .training, failAt := some 0 })) 2500000), 0, 0, by (try unfold State.takesCmd); (try unfold State.writable); (try unfold State.opensWrite); (try unfold State.opensRead); decide⟩

theorem test_LaneTraining_4 : ∃ (s : State) (n x : Nat),
    s.svc.stopped = none ∧
    (s.lane n).mode = .search ∧
    (s.lane n).lockLostAt = some x ∧
    x + 2500000 ≤ s.time.clk :=
  ⟨(later (inLane (setAct up Reg.LANE_CTRL 0 1) 0 (fun q => { q with mode := .search, lockLostAt := some 0 })) 2500000), 0, 0, by (try unfold State.takesCmd); (try unfold State.writable); (try unfold State.opensWrite); (try unfold State.opensRead); decide⟩

theorem test_LaneTraining_5 : ∃ (s : State) (p n : Nat) (v : Word),
    s.writable p Reg.LANE_TRAIN_CTRL n ∧
    s.laneOff n = false ∧
    s.mayRejoin n = true ∧
    s.swapOf (lanePort n) = none :=
  ⟨(setAct up Reg.LANE_CTRL 0 1), 0, 0, 1, by (try unfold State.takesCmd); (try unfold State.writable); (try unfold State.opensWrite); (try unfold State.opensRead); decide⟩

theorem test_LaneLock_1 : ∃ (s : State) (n : Nat) (commas : List (List Nat)),
    s.svc.stopped = none ∧
    commas.length = 3 ∧
    ((∀ c ∈ commas, c = commaOf .normal ∨ c = commaOf .swap)) ∧
    ((s.lane n).mode = .search ∨ (s.lane n).mode = .training) :=
  ⟨(inLane (setAct up Reg.LANE_CTRL 0 1) 0 (fun q => { q with mode := .search })), 0, [commaOf .normal, commaOf .swap, commaOf .normal], by (try unfold State.takesCmd); (try unfold State.writable); (try unfold State.opensWrite); (try unfold State.opensRead); decide⟩

theorem test_LaneLock_2 : ∃ (s : State) (n : Nat),
    s.svc.stopped = none ∧
    ((s.lane n).mode = .locked ∨ (s.lane n).mode = .spareRun) ∧
    4 ≤ (s.lane n).commaMiss :=
  ⟨(inLane (setAct up Reg.LANE_CTRL 0 1) 0 (fun q => { q with mode := .locked, commaMiss := 4 })), 0, by (try unfold State.takesCmd); (try unfold State.writable); (try unfold State.opensWrite); (try unfold State.opensRead); decide⟩

theorem test_LaneLock_3 : ∃ (s : State) (n : Nat) (levels : List Nat) (snr : Nat),
    s.svc.stopped = none ∧
    (s.lane n).mode = .locked ∧
    (s.lane n).spare = false ∧
    s.swapOf (lanePort n) = none :=
  ⟨(inLane (setAct up Reg.LANE_CTRL 0 1) 0 (fun q => { q with mode := .locked })), 0, [], 40, by (try unfold State.takesCmd); (try unfold State.writable); (try unfold State.opensWrite); (try unfold State.opensRead); decide⟩

theorem test_LaneLock_4 : ∃ (s : State) (n : Nat),
    s.svc.stopped = none ∧
    ((s.lane n).mode = .eidle ∨ (s.lane n).mode = .wake) :=
  ⟨(inLane (setAct up Reg.LANE_CTRL 0 1) 0 (fun q => { q with mode := .eidle })), 0, by (try unfold State.takesCmd); (try unfold State.writable); (try unfold State.opensWrite); (try unfold State.opensRead); decide⟩

theorem test_LaneSwaps_1 : ∃ (s : State) (d : Desc) (sp l : Nat),
    s.takesCmd d ∧
    State.laneSwapCheck d (s.take d) = none ∧
    s.spareNow (lanePort (tIndex d)) = some sp ∧
    (s.lane (tIndex d)).link = some l :=
  ⟨(inLane (inLane (up.setSpareNow 0 8) 0 (fun q => { q with mode := .locked, link := some 0, logical := 0 })) 8 (fun q => { q with mode := .spareRun, spareReady := true, spare := true, link := some 0 })), { desc 0 with target := 0x04000000 }, 8, 0, by (try unfold State.takesCmd); (try unfold State.writable); (try unfold State.opensWrite); (try unfold State.opensRead); decide⟩

theorem test_LaneSwaps_2 : ∃ (s : State) (n l a sp : Nat) (m : LaneMsg),
    s.svc.stopped = none ∧
    (s.lane n).link = some l ∧
    (s.hl l).lastSeq ≠ some m.seq ∧
    s.carrier l m.subject = some a ∧
    s.swapOf (lanePort n) = none ∧
    s.spareNow (lanePort n) = some sp ∧
    (s.lane sp).spareReady = true ∧
    s.spareServes a = true :=
  ⟨(inLane (inLane (up.setSpareNow 0 8) 0 (fun q => { q with mode := .locked, link := some 0, logical := 0 })) 8 (fun q => { q with mode := .spareRun, spareReady := true, spare := true, link := some 0 })), 0, 0, 0, 8, { opcode := 1 }, by (try unfold State.takesCmd); (try unfold State.writable); (try unfold State.opensWrite); (try unfold State.opensRead); decide⟩

theorem test_LaneSwaps_3 : ∃ (s : State) (n l a : Nat) (m : LaneMsg),
    s.svc.stopped = none ∧
    (s.lane n).link = some l ∧
    (s.hl l).lastSeq ≠ some m.seq ∧
    s.carrier l m.subject = some a ∧
    (s.swapOf (lanePort n)).isSome = true :=
  ⟨((inLane (inLane (up.setSpareNow 0 8) 0 (fun q => { q with mode := .locked, link := some 0, logical := 0 })) 8 (fun q => { q with mode := .spareRun, spareReady := true, spare := true, link := some 0 })).setSwap 0 (some { lane := 0, spare := 8, logical := 0 })), 0, 0, 0, { opcode := 1 }, by (try unfold State.takesCmd); (try unfold State.writable); (try unfold State.opensWrite); (try unfold State.opensRead); decide⟩

theorem test_LaneSwaps_4 : ∃ (s : State) (n l : Nat) (m : LaneMsg) (w : Swap),
    s.svc.stopped = none ∧
    (s.lane n).link = some l ∧
    (s.hl l).lastSeq ≠ some m.seq ∧
    s.swapOf (lanePort n) = some w ∧
    w.logical = m.subject ∧
    w.txBlock = none :=
  ⟨((inLane (inLane (up.setSpareNow 0 8) 0 (fun q => { q with mode := .locked, link := some 0, logical := 0 })) 8 (fun q => { q with mode := .spareRun, spareReady := true, spare := true, link := some 0 })).setSwap 0 (some { lane := 0, spare := 8, logical := 0 })), 0, 0, { opcode := 2 }, { lane := 0, spare := 8, logical := 0 }, by (try unfold State.takesCmd); (try unfold State.writable); (try unfold State.opensWrite); (try unfold State.opensRead); decide⟩

theorem test_LaneSwaps_5 : ∃ (s : State) (n l : Nat) (m : LaneMsg) (w : Swap),
    s.svc.stopped = none ∧
    (s.lane n).link = some l ∧
    (s.hl l).lastSeq ≠ some m.seq ∧
    s.swapOf (lanePort n) = some w ∧
    w.logical = m.subject ∧
    w.txBlock = none :=
  ⟨((inLane (inLane (up.setSpareNow 0 8) 0 (fun q => { q with mode := .locked, link := some 0, logical := 0 })) 8 (fun q => { q with mode := .spareRun, spareReady := true, spare := true, link := some 0 })).setSwap 0 (some { lane := 0, spare := 8, logical := 0 })), 0, 0, { opcode := 3 }, { lane := 0, spare := 8, logical := 0 }, by (try unfold State.takesCmd); (try unfold State.writable); (try unfold State.opensWrite); (try unfold State.opensRead); decide⟩

theorem test_LaneSwaps_6 : ∃ (s : State) (n l a sp : Nat) (m : LaneMsg),
    s.svc.stopped = none ∧
    (s.lane n).link = some l ∧
    (s.hl l).lastSeq ≠ some m.seq ∧
    s.carrier l m.subject = some a ∧
    s.swapOf (lanePort n) = none ∧
    s.spareNow (lanePort n) = some sp ∧
    s.spareServes a = true ∧
    (s.lane sp).mode = .spareRun :=
  ⟨(inLane (inLane (up.setSpareNow 0 8) 0 (fun q => { q with mode := .locked, link := some 0, logical := 0 })) 8 (fun q => { q with mode := .spareRun, spareReady := true, spare := true, link := some 0 })), 0, 0, 0, 8, { opcode := 4 }, by (try unfold State.takesCmd); (try unfold State.writable); (try unfold State.opensWrite); (try unfold State.opensRead); decide⟩

theorem test_LaneFailures_1 : ∃ (s : State) (n l x : Nat) (noSignal : Bool),
    s.svc.stopped = none ∧
    (s.lane n).mode = .locked ∧
    (s.lane n).spare = false ∧
    (noSignal = true ∨ 8 ≤ (s.lane n).uncorr) ∧
    (s.lane n).link = some l ∧
    s.swapOf (lanePort n) = none ∧
    s.spareNow (lanePort n) = some x ∧
    x ≠ n ∧
    (s.lane x).mode = .spareRun ∧
    bit (s.act Reg.LANE_CTRL n) 6 = true ∧
    s.spareServes n = true :=
  ⟨(setAct (inLane (inLane (up.setSpareNow 0 8) 0 (fun q => { q with mode := .locked, link := some 0, logical := 0 })) 8 (fun q => { q with mode := .spareRun, spareReady := true, spare := true, link := some 0 })) Reg.LANE_CTRL 0 0x41), 0, 0, 8, true, by (try unfold State.takesCmd); (try unfold State.writable); (try unfold State.opensWrite); (try unfold State.opensRead); decide⟩

theorem test_LaneFailures_2 : ∃ (s : State) (n l : Nat) (noSignal : Bool),
    s.svc.stopped = none ∧
    (s.lane n).mode = .locked ∧
    (s.lane n).spare = false ∧
    (noSignal = true ∨ 8 ≤ (s.lane n).uncorr) ∧
    (s.lane n).link = some l ∧
    s.swapOf (lanePort n) = none ∧
    s.spareNow (lanePort n) = none ∧
    s.remaining l (s.lane n).logical ≠ 0 :=
  ⟨((inLane ((inLane up 0 (fun q => { q with mode := .locked, link := some 0, logical := 0 }))) 1 (fun q => { q with mode := .locked, link := some 0, logical := 1 })).setHl 0 (fun q => { q with mask := 3 })), 0, 0, true, by (try unfold State.takesCmd); (try unfold State.writable); (try unfold State.opensWrite); (try unfold State.opensRead); decide⟩

theorem test_LaneFailures_3 : ∃ (s : State) (p : Nat) (w : Swap),
    s.svc.stopped = none ∧
    s.swapOf p = some w ∧
    w.rxDone = true ∧
    s.swapTxDone w = true ∧
    w.lane ≠ w.spare ∧
    lanePort w.lane = p ∧
    (s.lane w.lane).mode ≠ .failed ∧
    s.unitCode 4 w.lane ≠ 3 :=
  ⟨((((inLane (inLane (up.setSpareNow 0 8) 0 (fun q => { q with mode := .locked, link := some 0, logical := 0 })) 8 (fun q => { q with mode := .spareRun, spareReady := true, spare := true, link := some 0 })).setSwap 0 (some { lane := 0, spare := 8, logical := 0, txBlock := some 1, rxDone := true }))).setHl 0 (fun q => { q with block := 2 })), 0, { lane := 0, spare := 8, logical := 0, txBlock := some 1, rxDone := true }, by (try unfold State.takesCmd); (try unfold State.writable); (try unfold State.opensWrite); (try unfold State.opensRead); decide⟩

theorem test_LaneManagement_1 : ∃ (s : State) (n l set : Nat) (m : LaneMsg),
    s.svc.stopped = none ∧
    (s.lane n).link = some l ∧
    (s.hl l).lastSeq ≠ some m.seq ∧
    (s.hl l).restripe = some set :=
  ⟨(((inLane (inLane (up.setSpareNow 0 8) 0 (fun q => { q with mode := .locked, link := some 0, logical := 0 })) 8 (fun q => { q with mode := .spareRun, spareReady := true, spare := true, link := some 0 }))).setHl 0 (fun q => { q with restripe := some 1, eidleReq := true })), 0, 0, 1, { opcode := 6 }, by (try unfold State.takesCmd); (try unfold State.writable); (try unfold State.opensWrite); (try unfold State.opensRead); decide⟩

theorem test_LaneManagement_2 : ∃ (s : State) (n l : Nat) (m : LaneMsg),
    s.svc.stopped = none ∧
    (s.lane n).link = some l ∧
    (s.hl l).lastSeq ≠ some m.seq ∧
    (s.hl l).eidleReq = true :=
  ⟨(((inLane (inLane (up.setSpareNow 0 8) 0 (fun q => { q with mode := .locked, link := some 0, logical := 0 })) 8 (fun q => { q with mode := .spareRun, spareReady := true, spare := true, link := some 0 }))).setHl 0 (fun q => { q with restripe := some 1, eidleReq := true })), 0, 0, { opcode := 8 }, by (try unfold State.takesCmd); (try unfold State.writable); (try unfold State.opensWrite); (try unfold State.opensRead); decide⟩

theorem test_LaneManagement_3 : ∃ (s : State) (n l a : Nat) (m : LaneMsg),
    s.svc.stopped = none ∧
    (s.lane n).link = some l ∧
    (s.hl l).lastSeq ≠ some m.seq ∧
    s.carrier l m.subject = some a ∧
    (s.lane a).drained = true :=
  ⟨(inLane (inLane (inLane (up.setSpareNow 0 8) 0 (fun q => { q with mode := .locked, link := some 0, logical := 0 })) 8 (fun q => { q with mode := .spareRun, spareReady := true, spare := true, link := some 0 })) 0 (fun q => { q with drained := true })), 0, 0, 0, { opcode := 9 }, by (try unfold State.takesCmd); (try unfold State.writable); (try unfold State.opensWrite); (try unfold State.opensRead); decide⟩

theorem test_LaneManagement_4 : ∃ (s : State) (n : Nat) (bits : List Bool),
    s.svc.stopped = none ∧
    bit (s.reg Reg.LANE_PRBS_CTRL n) 2 = true ∧
    bit (s.reg Reg.LANE_PRBS_CTRL n) 3 = false ∧
    159 ≤ bits.length ∧
    ((fld (s.reg Reg.LANE_PRBS_CTRL n) 11 10 = 3 ∨ (prbsErrors (fld (s.reg Reg.LANE_PRBS_CTRL n) 11 10) (bits.take 31).reverse (bits.drop 31)).1 = 0)) :=
  ⟨(up.setReg Reg.LANE_PRBS_CTRL 0 0 0xC04), 0, List.replicate 159 true, by (try unfold State.takesCmd); (try unfold State.writable); (try unfold State.opensWrite); (try unfold State.opensRead); decide⟩

theorem test_LaneManagement_5 : ∃ (s : State) (p n : Nat) (v : Word),
    s.writable p Reg.LANE_INJ_CTRL n ∧
    s.laneOff n = false ∧
    bit v 1 = false ∧
    ((s.lane n).mode = .locked ∨ (s.lane n).mode = .spareRun ∨ (s.lane n).mode = .prbsTest) :=
  ⟨(inLane (setAct up Reg.LANE_CTRL 0 1) 0 (fun q => { q with mode := .locked })), 0, 0, 0, by (try unfold State.takesCmd); (try unfold State.writable); (try unfold State.opensWrite); (try unfold State.opensRead); decide⟩

theorem test_LaneManagement_6 : ∃ (s : State) (p n : Nat) (v : Word),
    s.writable p Reg.LANE_INJ_CTRL n ∧
    s.laneOff n = false ∧
    bit v 0 = false ∧
    (s.lane n).inject.isSome = true :=
  ⟨(inLane (inLane (setAct up Reg.LANE_CTRL 0 1) 0 (fun q => { q with mode := .locked })) 0 (fun q => { q with inject := some ⟨3, 0, 0, 0⟩ })), 0, 0, 0, by (try unfold State.takesCmd); (try unfold State.writable); (try unfold State.opensWrite); (try unfold State.opensRead); decide⟩

theorem test_SelectWritesCapture_1 : ∃ (s : State) (p : Nat) (v : Word),
    s.writable p Reg.PLN_RES_SEL 0 ∧
    s.ckpt = none ∧
    fld v 15 0 < resInstances (fld v 23 16) :=
  ⟨up, 0, 0x10000, by (try unfold State.takesCmd); (try unfold State.writable); (try unfold State.opensWrite); (try unfold State.opensRead); decide⟩

theorem test_SelectWritesCapture_2 : ∃ (s : State) (p : Nat) (v : Word),
    s.writable p Reg.STORE_FR_SEL 0 :=
  ⟨up, 0, 0, by (try unfold State.takesCmd); (try unfold State.writable); (try unfold State.opensWrite); (try unfold State.opensRead); decide⟩

theorem test_SelectWritesCapture_3 : ∃ (s : State) (p i j : Nat) (v : Word) (r : RegRow),
    s.writable p Reg.CFG_PEEK_ADDR 0 ∧
    findReg (fld v 23 2 * 4) = some (r, i, j) :=
  ⟨up, 0, 0, 0, 0, Reg.DEV_ID, by (try unfold State.takesCmd); (try unfold State.writable); (try unfold State.opensWrite); (try unfold State.opensRead); decide⟩

theorem test_SelectWritesCapture_4 : ∃ (s : State) (p : Nat) (v : Word),
    s.writable p Reg.SVC_TELEM_SEL 0 :=
  ⟨up, 0, 0, by (try unfold State.takesCmd); (try unfold State.writable); (try unfold State.opensWrite); (try unfold State.opensRead); decide⟩

theorem test_SelectWritesCapture_5 : ∃ (s : State) (p : Nat) (v : Word),
    s.writable p Reg.SVC_LOG_SEL 0 :=
  ⟨up, 0, 0, by (try unfold State.takesCmd); (try unfold State.writable); (try unfold State.opensWrite); (try unfold State.opensRead); decide⟩

theorem test_ReadsThatFlagOrCapture_1 : ∃ (s : State) (p off n : Nat),
    s.svc.stopped = none ∧
    s.portTalks p = true ∧
    (n = 0 ∨ 4 < off % 4 + n) :=
  ⟨up, 0, 0, 0, by (try unfold State.takesCmd); (try unfold State.writable); (try unfold State.opensWrite); (try unfold State.opensRead); decide⟩

theorem test_ReadsThatFlagOrCapture_2 : ∃ (s : State) (p off n : Nat),
    s.svc.stopped = none ∧
    s.portTalks p = true ∧
    0 < n ∧
    off % 4 + n ≤ 4 ∧
    s.dev.mode = .boot ∧
    isIdentity (off / 4 * 4) = false :=
  ⟨{ up with dev := { up.dev with mode := .boot } }, 0, 0x100000, 4, by (try unfold State.takesCmd); (try unfold State.writable); (try unfold State.opensWrite); (try unfold State.opensRead); decide⟩

theorem test_ReadsThatFlagOrCapture_3 : ∃ (s : State) (p off n : Nat),
    s.svc.stopped = none ∧
    s.portTalks p = true ∧
    0 < n ∧
    off % 4 + n ≤ 4 ∧
    s.dev.mode ≠ .boot ∧
    p < 4 ∧
    s.mayRead p (off / 4 * 4) = false :=
  ⟨{ up with dev := { up.dev with steward := some 1 } }, 0, Reg.SEC_TAMPER_CTRL.addr, 4, by (try unfold State.takesCmd); (try unfold State.writable); (try unfold State.opensWrite); (try unfold State.opensRead); decide⟩

theorem test_ReadsThatFlagOrCapture_4 : ∃ (s : State) (off i j : Nat) (r : RegRow),
    s.svc.stopped = none ∧
    off % 4 = 0 ∧
    off < 2 ^ 26 ∧
    s.dev.mode ≠ .boot ∧
    s.mayRead 8 off = true ∧
    aliasAt off = none ∧
    findReg off = some (r, i, j) ∧
    r.half = .whole ∧
    ((∀ x ∈ readRows, r.is x = false)) ∧
    s.areaHeld off = false :=
  ⟨up, Reg.LANE_EQ_CTRL.addr 3, 3, 0, Reg.LANE_EQ_CTRL, by (try unfold State.takesCmd); (try unfold State.writable); (try unfold State.opensWrite); (try unfold State.opensRead); decide⟩

theorem test_ReadsThatFlagOrCapture_5 : ∃ (s : State) (p : Nat),
    s.opensRead p Reg.TIME_SNAP_LIN_LO.addr 4 ∧
    s.areaHeld Reg.TIME_SNAP_LIN_LO.addr = false :=
  ⟨up, 0, by (try unfold State.takesCmd); (try unfold State.writable); (try unfold State.opensWrite); (try unfold State.opensRead); decide⟩

theorem test_ReadsThatFlagOrCapture_6 : ∃ (s : State) (p ch : Nat),
    ch < 24 ∧
    s.opensRead p (Reg.MCH_POS_LO.addr ch) 4 ∧
    s.areaHeld (Reg.MCH_POS_LO.addr ch) = false :=
  ⟨up, 0, 3, by (try unfold State.takesCmd); (try unfold State.writable); (try unfold State.opensWrite); (try unfold State.opensRead); decide⟩

theorem test_ReadsThatFlagOrCapture_7 : ∃ (s : State) (p k : Nat),
    k < 8 ∧
    s.opensRead p (Reg.PRB_TIME_LO.addr k) 4 ∧
    s.areaHeld (Reg.PRB_TIME_LO.addr k) = false :=
  ⟨up, 0, 2, by (try unfold State.takesCmd); (try unfold State.writable); (try unfold State.opensWrite); (try unfold State.opensRead); decide⟩

theorem test_ResetsAndBoot_3 : ∃ (s : State) (b : Nat) (src : Bool),
    s.svc.stopped = some .reset ∧
    b < 4 :=
  ⟨State.reset, 2, true, by (try unfold State.takesCmd); (try unfold State.writable); (try unfold State.opensWrite); (try unfold State.opensRead); decide⟩

theorem test_ResetsAndBoot_4 : ∃ (s : State) (detail : Nat) (data : List Byte) (bad : List Nat) (units : List (Nat × Nat)),
    s.svc.stopped = none ∧
    s.booting = true ∧
    s.bootStage ∈ [0x01, 0x02, 0x15, 0x17, 0x23, 0x21] :=
  ⟨({ up with dev := { up.dev with mode := .boot } }.setReg Reg.BOOT_STATUS 0 0 0x21), 1, [], [], [], by (try unfold State.takesCmd); (try unfold State.writable); (try unfold State.opensWrite); (try unfold State.opensRead); decide⟩

theorem test_ResetsAndBoot_5 : ∃ (s : State) (detail : Nat) (data : List Byte) (bad : List Nat) (units : List (Nat × Nat)),
    s.svc.stopped = none ∧
    s.booting = true ∧
    s.bootStage = 0x30 ∧
    detail ≠ 2 :=
  ⟨({ up with dev := { up.dev with mode := .boot } }.setReg Reg.BOOT_STATUS 0 0 0x30), 0, [], [], [], by (try unfold State.takesCmd); (try unfold State.writable); (try unfold State.opensWrite); (try unfold State.opensRead); decide⟩

theorem test_ResetsAndBoot_6 : ∃ s : State,
    s.svc.stopped = none ∧
    s.imageWait = true ∧
    s.sec.svcImage = [] ∧
    s.svc.stageAt + secClk 600 ≤ s.time.clk :=
  ⟨(later { ({ up with dev := { up.dev with mode := .boot } }.setReg Reg.BOOT_STATUS 0 0 0x11) with svc := { up.svc with bootSrc := true } } 1000000000000), by (try unfold State.takesCmd); (try unfold State.writable); (try unfold State.opensWrite); (try unfold State.opensRead); decide⟩

theorem test_ResetsAndBoot_7 : ∃ s : State,
    s.svc.stopped = none ∧
    s.booting = true ∧
    s.bootStage = 0x30 ∧
    s.svc.stageAt + msClk 250 ≤ s.time.clk :=
  ⟨(later ({ up with dev := { up.dev with mode := .boot } }.setReg Reg.BOOT_STATUS 0 0 0x30) 1000000000), by (try unfold State.takesCmd); (try unfold State.writable); (try unfold State.opensWrite); (try unfold State.opensRead); decide⟩

theorem test_ResetsAndBoot_8 : ∃ s : State,
    s.svc.stopped = none :=
  ⟨up, by (try unfold State.takesCmd); (try unfold State.writable); (try unfold State.opensWrite); (try unfold State.opensRead); decide⟩

theorem test_ResetsAndBoot_9 : ∃ (s : State) (data : List Byte),
    s.svc.stopped = none ∧
    s.imageWait = true ∧
    data.length ≤ 4096 :=
  ⟨{ ({ up with dev := { up.dev with mode := .boot } }.setReg Reg.BOOT_STATUS 0 0 0x11) with svc := { up.svc with bootSrc := true } }, [1, 2], by (try unfold State.takesCmd); (try unfold State.writable); (try unfold State.opensWrite); (try unfold State.opensRead); decide⟩

theorem test_TimeStepsDecided_1 : ∃ (s : State) (d : Desc),
    s.takesCmd d ∧
    structOk d (tNone d) [(8, 1)] false = true ∧
    opAt d 8 1 ≤ 1 ∧
    s.isSteward d = true ∧
    (s.dev.mode = .standby ∨ s.dev.mode = .operational) ∧
    s.time.pendingStep.isSome = true ∧
    s.time.decided = none ∧
    ((opAt d 8 1 = 1 ∨ ∀ r, r < 16 → s.rigMode r ≠ .record ∧ s.rigMode r ≠ .burst)) :=
  ⟨{ up with time := { up.time with pendingStep := some 5 } }, desc 0, by (try unfold State.takesCmd); (try unfold State.writable); (try unfold State.opensWrite); (try unfold State.opensRead); decide⟩

theorem test_TimeStepsDecided_2 : ∃ (s : State) (d : Desc),
    s.takesCmd d ∧
    structOk d (tNone d) [(8, 11)] false = true ∧
    opAt d 18 1 ≤ 1 ∧
    s.isSteward d = true ∧
    (s.dev.mode = .standby ∨ s.dev.mode = .operational) ∧
    s.source ≠ 1 ∧
    s.time.decided = none ∧
    ((opAt d 18 1 = 1 ∨ ∀ r, r < 16 → s.rigMode r ≠ .record ∧ s.rigMode r ≠ .burst)) :=
  ⟨(setAct up Reg.TIME_CTRL 0 0), desc 0, by (try unfold State.takesCmd); (try unfold State.writable); (try unfold State.opensWrite); (try unfold State.opensRead); decide⟩

theorem test_PtpPorts_1 : ∃ (s : State) (p : Nat) (m : PtpMsg),
    s.svc.stopped = none ∧
    bit (s.act Reg.TP_CTRL p) 0 = true ∧
    (s.tp p).linkUp = true ∧
    s.recovering 3 = false :=
  ⟨((setAct up Reg.TP_CTRL 0 1).setTp 0 (fun q => { q with linkUp := true })), 0, { kind := .announce }, by (try unfold State.takesCmd); (try unfold State.writable); (try unfold State.opensWrite); (try unfold State.opensRead); decide⟩

theorem test_PtpPorts_2 : ∃ (s : State) (p : Nat) (m : Heard),
    s.svc.stopped = none ∧
    (s.tp p).best = some m ∧
    m.timedOut s.time.clk = true :=
  ⟨(later (up.setTp 0 (fun q => { q with heard := [{ master := { }, announces := 2, at_ := 0 }] })) 1000000000000), 0, { master := { }, announces := 2, at_ := 0 }, by (try unfold State.takesCmd); (try unfold State.writable); (try unfold State.opensWrite); (try unfold State.opensRead); decide⟩

theorem test_PtpPorts_3 : ∃ (s : State) (p : Nat) (up : Bool),
    s.svc.stopped = none ∧
    bit (s.act Reg.TP_CTRL p) 0 = true :=
  ⟨((setAct up Reg.TP_CTRL 0 1).setTp 0 (fun q => { q with linkUp := true })), 0, true, by (try unfold State.takesCmd); (try unfold State.writable); (try unfold State.opensWrite); (try unfold State.opensRead); decide⟩

theorem test_PtpPorts_4 : ∃ (s : State) (p kind addr : Nat) (fields : List Nat),
    s.svc.stopped = none ∧
    bit (s.act Reg.TP_CTRL p) 0 = true ∧
    (s.tp p).linkUp = true :=
  ⟨((setAct up Reg.TP_CTRL 0 1).setTp 0 (fun q => { q with linkUp := true })), 0, 4, 0, [], by (try unfold State.takesCmd); (try unfold State.writable); (try unfold State.opensWrite); (try unfold State.opensRead); decide⟩

theorem test_TimeInputs_1 : ∃ s : State,
    s.svc.stopped = none ∧
    s.source ≠ 2 :=
  ⟨up, by (try unfold State.takesCmd); (try unfold State.writable); (try unfold State.opensWrite); (try unfold State.opensRead); decide⟩

theorem test_TimeInputs_2 : ∃ s : State,
    s.svc.stopped = none ∧
    s.source = 2 ∧
    3 ≤ s.time.ppsBad + ((s.time.now - 1000 * nsUnit - 1) / secUnit - s.time.ppsSec) :=
  ⟨(setAct { up with time := { up.time with ppsBad := 3 } } Reg.TIME_CTRL 0 2), by (try unfold State.takesCmd); (try unfold State.writable); (try unfold State.opensWrite); (try unfold State.opensRead); decide⟩

theorem test_TimeInputs_3 : ∃ s : State,
    s.svc.stopped = none ∧
    s.time.clk10mUse = true :=
  ⟨{ up with time := { up.time with clk10mUse := true } }, by (try unfold State.takesCmd); (try unfold State.writable); (try unfold State.opensWrite); (try unfold State.opensRead); decide⟩

theorem test_TimeInputs_4 : ∃ s : State,
    s.svc.stopped = none :=
  ⟨up, by (try unfold State.takesCmd); (try unfold State.writable); (try unfold State.opensWrite); (try unfold State.opensRead); decide⟩

theorem test_TimeInputs_5 : ∃ (s : State) (r : Nat),
    s.svc.stopped = none ∧
    (s.timer r).running = true ∧
    s.rtmrAlign r = 1 ∧
    (s.timer r).waitRef = false ∧
    (s.timer r).refLost = false ∧
    3 ≤ (s.timer r).refBad :=
  ⟨((setAct up Reg.RTMR_CTRL 3 1).setTimer 3 (fun q => { q with running := true, refBad := 3 })), 3, by (try unfold State.takesCmd); (try unfold State.writable); (try unfold State.opensWrite); (try unfold State.opensRead); decide⟩

theorem test_TimeInputs_6 : ∃ (s : State) (h m sec f : Nat) (drop : Bool),
    s.svc.stopped = none ∧
    s.time.ltc.flywheel = false :=
  ⟨up, 1, 2, 3, 4, true, by (try unfold State.takesCmd); (try unfold State.writable); (try unfold State.opensWrite); (try unfold State.opensRead); decide⟩

theorem test_TimeInputs_7 : ∃ s : State,
    s.svc.stopped = none ∧
    s.time.ltc.flywheel = false ∧
    4 ≤ s.time.ltc.bad :=
  ⟨{ up with time := { up.time with ltc := { up.time.ltc with bad := 4 } } }, by (try unfold State.takesCmd); (try unfold State.writable); (try unfold State.opensWrite); (try unfold State.opensRead); decide⟩

theorem test_TimeOutputs_1 : ∃ s : State,
    s.svc.stopped = none ∧
    s.time.ppsOutSec < s.time.now / secUnit :=
  ⟨{ up with time := { up.time with now := 5 * secUnit } }, by (try unfold State.takesCmd); (try unfold State.writable); (try unfold State.opensWrite); (try unfold State.opensRead); decide⟩

theorem test_TimeOutputs_2 : ∃ (s : State) (e : Nat),
    s.svc.stopped = none ∧
    s.time.ppsOut = some e ∧
    e ≤ s.time.now ∧
    s.time.pulses = [] :=
  ⟨{ up with time := { up.time with ppsOut := some 1, now := 5 } }, 1, by (try unfold State.takesCmd); (try unfold State.writable); (try unfold State.opensWrite); (try unfold State.opensRead); decide⟩

theorem test_TimeOutputs_3 : ∃ (s : State) (x : Pulse),
    s.svc.stopped = none ∧
    s.time.ppsOut = none ∧
    s.time.pulses = [x] ∧
    x.until_ ≤ s.time.clk :=
  ⟨{ up with time := { up.time with pulses := [{ source := 3, pin := 2, until_ := 0 }] } }, { source := 3, pin := 2, until_ := 0 }, by (try unfold State.takesCmd); (try unfold State.writable); (try unfold State.opensWrite); (try unfold State.opensRead); decide⟩

theorem test_TimeOutputs_4 : ∃ s : State,
    s.svc.stopped = none ∧
    bit (s.act Reg.TC_CTRL) 7 = true ∧
    s.time.ltcOutNext ≤ (tcIndex (tcRate (s.actF Reg.TC_CTRL 0 2 0)).1 (tcRate (s.actF Reg.TC_CTRL 0 2 0)).2.1 s.now16).toNat :=
  ⟨(setAct up Reg.TC_CTRL 0 0x80), by (try unfold State.takesCmd); (try unfold State.writable); (try unfold State.opensWrite); (try unfold State.opensRead); decide⟩

theorem test_TimeOutputs_5 : ∃ (s : State) (u : Nat),
    s.svc.stopped = none ∧
    u < 16 ∧
    bit (s.reg Reg.TCMP_CTRL u) 0 = true ∧
    u ∉ s.time.tcmpDone ∧
    0 ≤ linDiff s.linear (s.tcmpTarget u) :=
  ⟨(up.setReg Reg.TCMP_CTRL 3 0 1), 3, by (try unfold State.takesCmd); (try unfold State.writable); (try unfold State.opensWrite); (try unfold State.opensRead); decide⟩

theorem test_TimeOutputs_6 : ∃ (s : State) (p u : Nat) (v : Word),
    s.writable p Reg.TCMP_TARGET_HI u ∧
    bit (s.reg Reg.TCMP_CTRL u) 0 = false :=
  ⟨up, 0, 3, 5, by (try unfold State.takesCmd); (try unfold State.writable); (try unfold State.opensWrite); (try unfold State.opensRead); decide⟩

theorem test_RigModeCommands_1 : ∃ (s : State) (d : Desc) (x : Instr × Nat × RigMode),
    s.takesCmd d ∧
    structOk d (tIs d 1 16) [] false = true ∧
    s.isCtl d (tIndex d) = true ∧
    s.dev.mode = .operational ∧
    x ∈ ([(.rigStop d, 0x11, .idle), (.rigDisarm d, 0x13, .live), (.takeStop d, 0x15, (s.projRig (tIndex d)).2), (.burstStop d, 0x17, .offload), (.offloadAbort d, 0x18, .live), (.calStart d, 0x19, .calibrate), (.calStop d, 0x1A, .live)] : List (Instr × Nat × RigMode)) ∧
    rigLegal x.2.1 (s.projRig (tIndex d)).1 = true :=
  ⟨(up.setRig 0 (fun q => { q with mode := .live })), { desc 0 with target := 0x01000000 }, (.calStart { desc 0 with target := 0x01000000 }, 0x19, .calibrate), by (try unfold State.takesCmd); (try unfold State.writable); (try unfold State.opensWrite); (try unfold State.opensRead); decide⟩

theorem test_RigModeCommands_2 : ∃ (s : State) (d : Desc),
    s.takesCmd d ∧
    structOk d (tIs d 1 16) [] false = true ∧
    s.isCtl d (tIndex d) = true ∧
    s.dev.mode = .operational ∧
    (s.projRig (tIndex d)).1 = .idle ∧
    ((∀ st ∈ s.rigStreams (tIndex d), (s.hl (s.streamLink st)).mode = .up)) ∧
    ((s.take d).admission ((s.take d).startActs (tIndex d))).2 = none :=
  ⟨up, { desc 0 with target := 0x01000000 }, by (try unfold State.takesCmd); (try unfold State.writable); (try unfold State.opensWrite); (try unfold State.opensRead); decide⟩

theorem test_RigModeCommands_3 : ∃ (s : State) (d : Desc),
    s.takesCmd d ∧
    structOk d (tIs d 1 16) [] false = true ∧
    s.isCtl d (tIndex d) = true ∧
    s.dev.mode = .operational ∧
    (s.projRig (tIndex d)).1 = .live ∧
    ((s.take d).admission [(.preroll (tIndex d), .a)]).2 = none :=
  ⟨(up.setRig 0 (fun q => { q with mode := .live })), { desc 0 with target := 0x01000000 }, by (try unfold State.takesCmd); (try unfold State.writable); (try unfold State.opensWrite); (try unfold State.opensRead); decide⟩

theorem test_RigModeCommands_4 : ∃ (s : State) (d : Desc),
    s.takesCmd d ∧
    structOk d (tIs d 1 16) [(8, 2), (10, 1), (12, 4)] false = true ∧
    s.isCtl d (tIndex d) = true ∧
    s.dev.mode = .operational ∧
    opAt d 10 1 < 4 ∧
    ((s.projRig (tIndex d)).1 = .armed ∨ (s.projRig (tIndex d)).1 = .live ∧ opAt d 8 2 = 0) ∧
    s.underFloor s.takeSecs (s.seqOf (opAt d 12 4)) = false ∧
    s.takeSet d < 8 ∧
    (s.take d).eligible (s.takeSet d) ((s.take d).leadBytes (tIndex d) ((s.rigStreams (tIndex d)).foldl (fun n st => n + rateTerm s.activeSet (tIndex d) (magBytes s.activeSet st)) 0) 2) = true ∧
    ((s.take d).admission ((s.take d).takeActs (tIndex d) (s.takeSet d))).2 = none :=
  ⟨((oneDrive up).setRig 0 (fun q => { q with mode := .live })), { desc 0 with target := 0x01000000 }, by (try unfold State.takesCmd); (try unfold State.writable); (try unfold State.opensWrite); (try unfold State.opensRead); decide⟩

theorem test_RigModeCommands_5 : ∃ (s : State) (d : Desc),
    s.takesCmd d ∧
    structOk d (tIs d 1 16) [(8, 2), (12, 4)] false = true ∧
    s.isCtl d (tIndex d) = true ∧
    s.dev.mode = .operational ∧
    ((s.projRig (tIndex d)).1 = .armed ∨ (s.projRig (tIndex d)).1 = .live ∧ opAt d 8 2 = 0) ∧
    s.underFloor s.takeSecs (s.seqOf 0) = false ∧
    ((s.take d).admission ((s.take d).burstActs (tIndex d))).2 = none :=
  ⟨(up.setRig 0 (fun q => { q with mode := .live })), { desc 0 with target := 0x01000000 }, by (try unfold State.takesCmd); (try unfold State.writable); (try unfold State.opensWrite); (try unfold State.opensRead); decide⟩

theorem test_RigModeCommands_6 : ∃ (s : State) (r op : Nat) (dest : RigMode) (k : Option Ticket) (tick : Nat),
    s.svc.stopped = none ∧
    r < 16 ∧
    (op, dest) ∈ [(0x10, .live), (0x11, .idle), (0x12, .armed), (0x13, .live), (0x18, .live), (0x19, .calibrate), (0x1A, .live)] ∧
    s.dev.mode = .operational ∧
    rigLegal op (s.rigMode r) = true ∧
    tick ≤ s.time.tickNum ∧
    s.dev.bound = [⟨tick, k, .rig r (.command op) dest 0 0 0 0⟩] :=
  ⟨{ (up.setRig 0 (fun q => { q with mode := .live })) with dev := { (up.setRig 0 (fun q => { q with mode := .live })).dev with bound := [⟨0, none, .rig 0 (.command 0x11) .idle 0 0 0 0⟩] } }, 0, 0x11, .idle, none, 0, by (try unfold State.takesCmd); (try unfold State.writable); (try unfold State.opensWrite); (try unfold State.opensRead); decide⟩

theorem test_MagazineCommands_1 : ∃ (s : State) (d : Desc),
    s.takesCmd d ∧
    structOk d (tIs d 5 4) [] false = true ∧
    s.isSteward d = true ∧
    s.dev.mode ≠ .boot ∧
    (s.bay (tIndex d)).mode = .ready ∧
    (s.bay (tIndex d)).released = false ∧
    ((∀ j ∈ s.mag.jobs, tIndex d ∉ s.jobBays j)) :=
  ⟨(oneDrive up), { desc 0 with target := 0x05000000 }, by (try unfold State.takesCmd); (try unfold State.writable); (try unfold State.opensWrite); (try unfold State.opensRead); decide⟩

theorem test_MagazineCommands_2 : ∃ (s : State) (d : Desc),
    s.takesCmd d ∧
    structOk d (tIs d 6 8) [] false = true ∧
    s.isSteward d = true ∧
    (s.dev.mode = .standby ∨ s.dev.mode = .operational) ∧
    s.magHeld (setBays s.magSet (tIndex d)) = false ∧
    s.magSet.bit Reg.MSET_CTRL (tIndex d) 0 = true ∧
    ((∀ b ∈ setBays s.magSet (tIndex d), (s.bay b).mode = .ready)) ∧
    ((∀ k ∈ setDrives s.magSet (tIndex d), (s.drive k).mode = .ready)) ∧
    s.sec.drbgBlocked = false :=
  ⟨(oneDrive up), { desc 0 with target := 0x06000000 }, by (try unfold State.takesCmd); (try unfold State.writable); (try unfold State.opensWrite); (try unfold State.opensRead); decide⟩

theorem test_MagazineCommands_3 : ∃ (s : State) (d : Desc),
    s.takesCmd d ∧
    structOk d (tIs d 5 4) [] false = true ∧
    s.isSteward d = true ∧
    (s.dev.mode = .standby ∨ s.dev.mode = .operational) ∧
    s.magHeld [tIndex d] = false ∧
    (s.bay (tIndex d)).mode = .ready :=
  ⟨(oneDrive up), { desc 0 with target := 0x05000000 }, by (try unfold State.takesCmd); (try unfold State.writable); (try unfold State.opensWrite); (try unfold State.opensRead); decide⟩

theorem test_MagazineCommands_4 : ∃ (s : State) (d : Desc),
    s.takesCmd d ∧
    structOk d (tIs d 5 4) [] false = true ∧
    s.isSteward d = true ∧
    (s.dev.mode = .standby ∨ s.dev.mode = .operational) ∧
    s.magHeld [tIndex d] = false ∧
    (s.bay (tIndex d)).mode = .ready ∧
    (s.bay (tIndex d)).content = 3 ∧
    s.readable (tIndex d) = true :=
  ⟨(oneDrive up).setBay 0 (fun q => { q with mode := .ready, content := 3 }), { desc 0 with target := 0x05000000 }, by (try unfold State.takesCmd); (try unfold State.writable); (try unfold State.opensWrite); (try unfold State.opensRead); decide⟩

theorem test_MagazineCommands_5 : ∃ (s : State) (d : Desc),
    s.takesCmd d ∧
    structOk d (tIs d 5 4) [(8, 1), (12, 4), (16, 8), (24, 8)] false = true ∧
    (s.dev.mode = .standby ∨ s.dev.mode = .operational) ∧
    opAt d 8 1 < 4 ∧
    1 ≤ opAt d 12 4 ∧
    opAt d 12 4 ≤ 65536 ∧
    opAt d 24 8 % 64 = 0 ∧
    opAt d 16 8 + opAt d 12 4 ≤ s.reg64 Reg.MBS_BLOCKS_LO Reg.MBS_BLOCKS_HI (4 * tIndex d + opAt d 8 1) ∧
    s.magHeld [tIndex d] = false ∧
    ((s.bay (tIndex d)).mode = .ready ∨ (s.bay (tIndex d)).mode = .inUse) ∧
    ((s.drive (4 * tIndex d + opAt d 8 1)).mode = .ready ∨ (s.drive (4 * tIndex d + opAt d 8 1)).mode = .inUse) :=
  ⟨((oneDrive up).setReg Reg.MBS_BLOCKS_LO 0 0 100), { desc 0 with target := 0x05000000, ops := List.replicate 4 0 ++ [1] ++ List.replicate 51 0 }, by (try unfold State.takesCmd); (try unfold State.writable); (try unfold State.opensWrite); (try unfold State.opensRead); decide⟩

theorem test_MagazineCommands_6 : ∃ (s : State) (d : Desc) (x : Take) (m e : Nat) (new : List Resv),
    s.takesCmd d ∧
    structOk d (tIs d 1 16) [] false = true ∧
    s.isCtl d (tIndex d) = true ∧
    s.dev.mode = .operational ∧
    s.rigMode (tIndex d) = .record ∧
    s.recordingTake (tIndex d) = some x ∧
    (s.take d).chooseSet x (s.rec_ x.id) = .ok (m, e, new) :=
  ⟨(relaying up), { desc 0 with target := 0x01000000 }, relayTake, 0, 0, [], by unfold State.takesCmd; decide, by decide, by decide, by decide, by decide, by decide, by rfl⟩

theorem test_MagazineCommands_7 : ∃ (s : State) (c : DrvCmd) (r : DrvReply),
    s.svc.stopped = none ∧
    s.mag.cmds.find? (fun x => decide (x.slot = c.slot) && decide (x.id = c.id)) = some c :=
  ⟨{ up with mag := { up.mag with cmds := [{ id := 3, slot := 0, kind := .smart, op := .read }] } }, { id := 3, slot := 0, kind := .smart, op := .read }, { }, by (try unfold State.takesCmd); (try unfold State.writable); (try unfold State.opensWrite); (try unfold State.opensRead); decide⟩

theorem test_ConfigurationSets_1 : ∃ (s : State) (d : Desc),
    s.takesCmd d ∧
    structOk d (tNone d) [(8, 4)] false = true ∧
    s.isSteward d = true ∧
    (s.dev.mode = .standby ∨ s.dev.mode = .operational) ∧
    (opAt d 8 4 = 0 ∨ opAt d 8 4 = s.cfg.activeVer) ∧
    s.cfgWaiting = false ∧
    s.cfg.spent = false ∧
    (s.take d).validate s.cfg.pending = none ∧
    worst ((s.take d).commitMisfits s.cfg.pending) = none :=
  ⟨{ up.setReg Reg.STORE_POOL_PAGES 0 0 2000000 with cfg := { up.cfg with pending := [(Reg.SVC_THERM_DIE.addr, 0x69645F)] } }, desc 0, by (try unfold State.takesCmd); (try unfold State.writable); (try unfold State.opensWrite); (try unfold State.opensRead); decide⟩

theorem test_ConfigurationSets_2 : ∃ (s : State) (d : Desc),
    s.takesCmd d ∧
    structOk d (tNone d) [] false = true ∧
    s.isSteward d = true ∧
    s.dev.mode = .operational ∧
    ((∀ r, r < 16 → s.rigMode r = .idle ∧ (s.projRig r).1 = .idle)) ∧
    s.cfgWaiting = false :=
  ⟨up, desc 0, by (try unfold State.takesCmd); (try unfold State.writable); (try unfold State.opensWrite); (try unfold State.opensRead); decide⟩

theorem test_ConfigurationSets_3 : ∃ (s : State) (d : Desc),
    s.takesCmd d ∧
    structOk d (tNone d) [(8, 1)] false = true ∧
    s.isSteward d = true ∧
    s.dev.mode = .standby ∧
    (opAt d 8 1 = 1 ∨ opAt d 8 1 = 0 ∧ s.cfg.previous.isSome = true) :=
  ⟨{ up with dev := { up.dev with mode := .standby } }, { desc 0 with ops := [1] ++ List.replicate 55 0 }, by (try unfold State.takesCmd); (try unfold State.writable); (try unfold State.opensWrite); (try unfold State.opensRead); decide⟩

theorem test_ConfigurationSets_4 : ∃ (s : State) (d : Desc),
    s.takesCmd d ∧
    structOk d (tNone d) [(8, 1)] false = true ∧
    s.isSteward d = true ∧
    s.dev.mode = .operational ∧
    (opAt d 8 1 = 1 ∨ opAt d 8 1 = 0 ∧ s.cfg.previous.isSome = true) ∧
    s.cfg.spent = false ∧
    s.cfg.undo = none :=
  ⟨up, { desc 0 with ops := [1] ++ List.replicate 55 0 }, by (try unfold State.takesCmd); (try unfold State.writable); (try unfold State.opensWrite); (try unfold State.opensRead); decide⟩

theorem test_ConfigurationSets_5 : ∃ (s : State) (tick : Nat) (k : Option Ticket) (set : RegSet),
    s.svc.stopped = none ∧
    s.dev.bound = [⟨tick, k, .commit set⟩] ∧
    tick ≤ s.time.tickNum ∧
    (s.dev.mode = .standby ∨ s.dev.mode = .operational) :=
  ⟨{ up with dev := { up.dev with bound := [⟨0, none, .commit []⟩] } }, 0, none, [], by (try unfold State.takesCmd); (try unfold State.writable); (try unfold State.opensWrite); (try unfold State.opensRead); decide⟩

theorem test_ConfigurationSets_6 : ∃ (s : State) (tick c : Nat) (factory comm : Bool) (k : Option Ticket),
    s.svc.stopped = none ∧
    s.dev.bound = [⟨tick, k, .fallback factory comm c⟩] ∧
    tick ≤ s.time.tickNum ∧
    s.dev.mode = .operational ∧
    s.cfg.spent = false :=
  ⟨{ up with dev := { up.dev with bound := [⟨0, none, .fallback true true 0⟩] } }, 0, 0, true, true, none, by (try unfold State.takesCmd); (try unfold State.writable); (try unfold State.opensWrite); (try unfold State.opensRead); decide⟩

theorem test_ConfigurationSets_7 : ∃ (s : State) (tick : Nat) (k : Option Ticket),
    s.svc.stopped = none ∧
    s.dev.bound = [⟨tick, k, .clear⟩] ∧
    tick ≤ s.time.tickNum :=
  ⟨{ up with dev := { up.dev with bound := [⟨0, none, .clear⟩] } }, 0, none, by (try unfold State.takesCmd); (try unfold State.writable); (try unfold State.opensWrite); (try unfold State.opensRead); decide⟩

theorem test_ConfigurationSets_8 : ∃ s : State,
    s.svc.stopped = none ∧
    s.cfg.probation = some 0 :=
  ⟨{ up with cfg := { up.cfg with probation := some 0 } }, by (try unfold State.takesCmd); (try unfold State.writable); (try unfold State.opensWrite); (try unfold State.opensRead); decide⟩

theorem test_ConfigurationSets_9 : ∃ (s : State) (i : Nat) (o : ObjSt),
    s.svc.stopped = none ∧
    s.obj.dir.find? (fun e => decide (e.2.phase = .sealing)) = some (i, o) ∧
    s.obj.dir.get {} i = o :=
  ⟨(up.setObj 5 (fun o => { o with gen := 1, phase := .sealing })), 5, { gen := 1, phase := .sealing }, by (try unfold State.takesCmd); (try unfold State.writable); (try unfold State.opensWrite); (try unfold State.opensRead); decide⟩

theorem test_LinkPackets_1 : ∃ (s : State) (d : Desc) (f : Int),
    s.takesCmd d ∧
    structOk d (tIs d 2 64) settingsUsed false = true ∧
    1 ≤ opAt d 12 2 ∧ opAt d 12 2 ≤ 0xFFFE ∧
    opAt d 14 1 ≤ 1 ∧
    1 ≤ opAt d 15 1 ∧ opAt d 15 1 ≤ 120 ∧
    opAt d 16 8 % 8 = 0 ∧
    s.isCtl d (s.streamRig (tIndex d)) = true ∧
    s.dev.mode = .operational ∧
    s.streamOn (tIndex d) = true ∧
    s.rigMode (s.streamRig (tIndex d)) ≠ .idle ∧
    (s.hl (s.streamLink (tIndex d))).mode = .up ∧
    f = (s.take d).settingsTick (s.streamRig (tIndex d)) (((s.hl (s.streamLink (tIndex d))).cap.map (·.k)).getD 1) (opAt d 8 4) ∧
    (s.time.tickNum : Int) + 1 ≤ f ∧
    (s.hl (s.streamLink (tIndex d))).settings.filter (fun x => decide (x.stream = tIndex d) && decide ((x.sendTick : Int) = f)) = [] :=
  ⟨((setAct (up.setRig 0 (fun q => { q with mode := .live })) Reg.ST_CTRL 0 1).setHl 0 (fun q => { q with mode := .up })), { desc 0 with target := 0x02000000, ops := [232] ++ [3] ++ [0, 0] ++ [1] ++ [0, 0] ++ [1] ++ List.replicate 48 0 }, 166499, by (try unfold State.takesCmd); (try unfold State.writable); (try unfold State.opensWrite); (try unfold State.opensRead); decide⟩

theorem test_LinkPackets_2 : ∃ (s : State) (d : Desc),
    s.takesCmd d ∧
    structOk d (tIs d 3 32) [(8, 2), (12, 12)] false = true ∧
    opAt d 8 1 ≤ 1 ∧
    1 ≤ opAt d 9 1 ∧ opAt d 9 1 ≤ 64 ∧
    opAt d 16 8 % 4 = 0 ∧
    s.isSteward d = true ∧
    (s.dev.mode = .standby ∨ s.dev.mode = .operational) ∧
    (s.hl (tIndex d)).mode = .up ∧
    (s.hl (tIndex d)).txns.length < 16 :=
  ⟨(up.setHl 0 (fun q => { q with mode := .up })), { desc 0 with target := 0x03000000, ops := [0] ++ [1] ++ List.replicate 54 0 }, by (try unfold State.takesCmd); (try unfold State.writable); (try unfold State.opensWrite); (try unfold State.opensRead); decide⟩

theorem test_LinkPackets_3 : ∃ (s : State) (l : Nat),
    s.svc.stopped = none :=
  ⟨up, 0, by (try unfold State.takesCmd); (try unfold State.writable); (try unfold State.opensWrite); (try unfold State.opensRead); decide⟩

theorem test_LinkPackets_4 : ∃ (s : State) (l b : Nat) (tNext tAfter : Int),
    s.svc.stopped = none ∧
    s.linkCarries l = true ∧
    b = (if (s.hl l).beaconBlock = some (s.hl l).block then (s.hl l).block + 1 else (s.hl l).block) :=
  ⟨(up.setHl 0 (fun q => { q with mode := .capability })), 0, 0, 5, 6, by (try unfold State.takesCmd); (try unfold State.writable); (try unfold State.opensWrite); (try unfold State.opensRead); decide⟩

theorem test_LinkPackets_5 : ∃ (s : State) (l : Nat),
    s.svc.stopped = none ∧
    s.linkCarries l = true ∧
    ((s.hl l).creditDue = true ∨ (s.hl l).creditAt + usClk 100 ≤ s.time.clk) :=
  ⟨(up.setHl 0 (fun q => { q with mode := .up, creditDue := true })), 0, by (try unfold State.takesCmd); (try unfold State.writable); (try unfold State.opensWrite); (try unfold State.opensRead); decide⟩

theorem test_LinkPackets_6 : ∃ (s : State) (l : Nat) (p : Pkt),
    s.svc.stopped = none ∧
    s.linkCarries l = true ∧
    p.ptype = 1 ∧
    (s.hl l).rx.head? = some p ∧
    (s.hl l).wait1 = [] :=
  ⟨(up.setHl 0 (fun q => { q with mode := .up, rx := [{ ptype := 1 }] })), 0, { ptype := 1 }, by (try unfold State.takesCmd); (try unfold State.writable); (try unfold State.opensWrite); (try unfold State.opensRead); decide⟩

theorem test_LinkPackets_7 : ∃ (s : State) (l : Nat) (p : Pkt) (at_ : Int),
    s.svc.stopped = none ∧
    p.ptype = 4 ∧
    (s.hl l).mode = .up ∧
    (s.hl l).timeLock = true ∧
    leAt p.payload 4 1 % 2 = 0 :=
  ⟨(up.setHl 0 (fun q => { q with mode := .up, timeLock := true })), 0, { ptype := 4 }, 0, by (try unfold State.takesCmd); (try unfold State.writable); (try unfold State.opensWrite); (try unfold State.opensRead); decide⟩

theorem test_LinkPackets_8 : ∃ (s : State) (l : Nat) (p : Pkt),
    s.svc.stopped = none ∧
    p.ptype = 0x0F ∧
    (s.hl l).mode = .capability ∧
    (s.hl l).timeLock = true :=
  ⟨(up.setHl 0 (fun q => { q with mode := .capability, timeLock := true })), 0, { ptype := 0x0F }, by (try unfold State.takesCmd); (try unfold State.writable); (try unfold State.opensWrite); (try unfold State.opensRead); decide⟩

theorem test_LinkPackets_9 : ∃ (s : State) (l : Nat) (p : Pkt),
    s.svc.stopped = none ∧
    s.linkCarries l = true ∧
    p.ptype = 0x0B ∧
    (s.hl l).rx.head? = some p :=
  ⟨(up.setHl 0 (fun q => { q with mode := .up, rx := [{ ptype := 0x0B }] })), 0, { ptype := 0x0B }, by (try unfold State.takesCmd); (try unfold State.writable); (try unfold State.opensWrite); (try unfold State.opensRead); decide⟩

theorem test_LinkPackets_10 : ∃ (s : State) (l : Nat) (p : Pkt) (x : Txn),
    s.svc.stopped = none ∧
    s.linkCarries l = true ∧
    p.ptype = 0x0E ∧
    (s.hl l).txns = [x] ∧
    x.txn = leAt p.fields 0 2 :=
  ⟨(up.setHl 0 (fun q => { q with mode := .up, txns := [{ txn := 7, ticket := { ring := 0, tag := 0, target := 0, opcode := 0x41, irq := false, barrier := false }, isRead := false, words := 1, data := 0, at_ := 0 }] })), 0, { ptype := 0x0E, fields := [7, 0] }, { txn := 7, ticket := { ring := 0, tag := 0, target := 0, opcode := 0x41, irq := false, barrier := false }, isRead := false, words := 1, data := 0, at_ := 0 }, by (try unfold State.takesCmd); (try unfold State.writable); (try unfold State.opensWrite); (try unfold State.opensRead); decide⟩

theorem test_LinkPackets_11 : ∃ (s : State) (l : Nat) (x : Txn),
    s.svc.stopped = none ∧
    (s.hl l).txns = [x] ∧
    x.at_ + usClk (s.act Reg.HL_REG_TIMEOUT l).toNat ≤ s.time.clk :=
  ⟨(later (up.setHl 0 (fun q => { q with txns := [{ txn := 7, ticket := { ring := 0, tag := 0, target := 0, opcode := 0x41, irq := false, barrier := false }, isRead := false, words := 1, data := 0, at_ := 0 }] })) 1000000000000), 0, { txn := 7, ticket := { ring := 0, tag := 0, target := 0, opcode := 0x41, irq := false, barrier := false }, isRead := false, words := 1, data := 0, at_ := 0 }, by (try unfold State.takesCmd); (try unfold State.writable); (try unfold State.opensWrite); (try unfold State.opensRead); decide⟩

theorem test_LinkPackets_12 : ∃ (s : State) (n : Nat) (levels data : List Nat) (bits : List Bool) (scr : BitVec 31),
    s.svc.stopped = none ∧
    (s.lane n).inData = true ∧
    (s.lane n).mode = .locked ∧
    (s.lane n).cw < 4096 ∧
    (s.lane n).spare = false ∧
    (s.lane n).link = none ∧
    data = (if (s.lane n).rxPre then unprecode (s.lane n).prevP levels else levels) ∧
    (bits, scr) = scramble (s.lane n).scr (data.flatMap grayBits) :=
  ⟨(inLane up 0 (fun q => { q with mode := .locked })), 0, [], [], [], 0, by decide, by decide, by decide, by decide, by decide, by decide, by decide, by rfl⟩

theorem test_BaysAndDrives_1 : ∃ (s : State) (b : Nat) (page : List Byte),
    s.svc.stopped = none ∧
    (s.bay b).present = false ∧
    (s.bay b).mode ≠ .inserting :=
  ⟨up, 0, [], by (try unfold State.takesCmd); (try unfold State.writable); (try unfold State.opensWrite); (try unfold State.opensRead); decide⟩

theorem test_BaysAndDrives_2 : ∃ (s : State) (d gen width : Nat),
    s.svc.stopped = none ∧
    (s.bay (bayOf d)).mode = .identify ∧
    (s.drive d).mode = .link :=
  ⟨((up.setBay 0 (fun q => { q with mode := .identify })).setDrive 0 (fun q => { q with mode := .link })), 0, 4, 2, by (try unfold State.takesCmd); (try unfold State.writable); (try unfold State.opensWrite); (try unfold State.opensRead); decide⟩

theorem test_BaysAndDrives_3 : ∃ (s : State) (d : Nat),
    s.svc.stopped = none ∧
    (s.drive d).mode = .identify ∧
    ((∀ c ∈ s.mag.cmds, c.slot ≠ d)) :=
  ⟨(up.setDrive 0 (fun q => { q with mode := .identify })), 0, by (try unfold State.takesCmd); (try unfold State.writable); (try unfold State.opensWrite); (try unfold State.opensRead); decide⟩

theorem test_BaysAndDrives_4 : ∃ (s : State) (d : Nat),
    s.svc.stopped = none ∧
    (s.bay (bayOf d)).mode = .identify ∧
    (s.bay (bayOf d)).t0 + msClk 10000 ≤ s.time.clk ∧
    ((s.drive d).mode = .link ∨ (s.drive d).mode = .identify) :=
  ⟨(later ((up.setBay 0 (fun q => { q with mode := .identify })).setDrive 0 (fun q => { q with mode := .link })) 1000000000000), 0, by (try unfold State.takesCmd); (try unfold State.writable); (try unfold State.opensWrite); (try unfold State.opensRead); decide⟩

theorem test_BaysAndDrives_5 : ∃ (s : State) (d : Nat),
    s.svc.stopped = none ∧
    ((s.drive d).mode = .ready ∨ (s.drive d).mode = .inUse) ∧
    s.mag.cmds.any (fun c => decide (c.slot = d) && decide (c.at_ + msClk (s.act Reg.MB_CMD_TIMEOUT).toNat ≤ s.time.clk)) = true :=
  ⟨(later { (up.setDrive 0 (fun q => { q with mode := .ready })) with mag := { (up.setDrive 0 (fun q => { q with mode := .ready })).mag with cmds := [{ id := 3, slot := 0, kind := .smart, op := .read }] } } 1000000000000), 0, by (try unfold State.takesCmd); (try unfold State.writable); (try unfold State.opensWrite); (try unfold State.opensRead); decide⟩

theorem test_BaysAndDrives_6 : ∃ (s : State) (d : Nat),
    s.svc.stopped = none ∧
    (s.bay (bayOf d)).present = true :=
  ⟨((up.setBay 0 (fun q => { q with present := true })).setDrive 0 (fun q => { q with mode := .ready })), 0, by (try unfold State.takesCmd); (try unfold State.writable); (try unfold State.opensWrite); (try unfold State.opensRead); decide⟩

theorem test_BaysAndDrives_7 : ∃ (s : State) (d : Nat),
    s.svc.stopped = none ∧
    ((s.drive d).mode = .ready ∨ (s.drive d).mode = .inUse) :=
  ⟨(up.setDrive 0 (fun q => { q with mode := .ready })), 0, by (try unfold State.takesCmd); (try unfold State.writable); (try unfold State.opensWrite); (try unfold State.opensRead); decide⟩

theorem test_BaysAndDrives_8 : ∃ (s : State) (d temp pct warn : Nat),
    s.svc.stopped = none ∧
    ((s.drive d).mode = .ready ∨ (s.drive d).mode = .inUse) ∧
    (warn.testBit 3 = false ∨ (s.drive d).warn.testBit 3 = true) :=
  ⟨(up.setDrive 0 (fun q => { q with mode := .inUse })), 0, 300, 1, 1, by (try unfold State.takesCmd); (try unfold State.writable); (try unfold State.opensWrite); (try unfold State.opensRead); decide⟩

theorem test_BaysAndDrives_9 : ∃ (s : State) (b : Nat),
    s.svc.stopped = none ∧
    (s.bay b).mode = .closing ∧
    ((∀ c ∈ s.mag.cmds, bayOf c.slot ≠ b)) :=
  ⟨(up.setBay 0 (fun q => { q with mode := .closing })), 0, by (try unfold State.takesCmd); (try unfold State.writable); (try unfold State.opensWrite); (try unfold State.opensRead); decide⟩

theorem test_MotionChannels_1 : ∃ (s : State) (ch : Nat) (a b : Bool) (d : Int),
    s.svc.stopped = none ∧
    s.mchLive ch = true ∧
    s.mchType ch ≤ 5 ∧
    fld (s.act Reg.MCH_CTRL ch) 13 12 = 0 ∧
    (s.mch ch).setAt ≠ s.time.clk + 1 ∧
    d = countOf (s.mchType ch) (s.mch ch).a (s.mch ch).b a b :=
  ⟨((setAct up Reg.MCH_CTRL 0 3).setUnit 0x10 0 2), 0, true, false, 1, by (try unfold State.takesCmd); (try unfold State.writable); (try unfold State.opensWrite); (try unfold State.opensRead); decide⟩

theorem test_MotionChannels_2 : ∃ (s : State) (ch : Nat),
    s.svc.stopped = none ∧
    s.mchLive ch = true ∧
    s.mchType ch ≤ 3 ∧
    fld (s.act Reg.MCH_CTRL ch) 13 12 = 0 :=
  ⟨((setAct up Reg.MCH_CTRL 0 3).setUnit 0x10 0 2), 0, by (try unfold State.takesCmd); (try unfold State.writable); (try unfold State.opensWrite); (try unfold State.opensRead); decide⟩

theorem test_MotionChannels_3 : ∃ (s : State) (ch : Nat),
    s.svc.stopped = none ∧
    s.mchLive ch = true ∧
    s.mchType ch ≤ 5 ∧
    fld (s.act Reg.MCH_CTRL ch) 13 12 ≠ 0 ∧
    bit (s.act Reg.MCH_CTRL ch) 18 = false ∧
    (s.mch ch).z = false ∧
    (s.mch ch).referenced = false :=
  ⟨((setAct up Reg.MCH_CTRL 0 0x1003).setUnit 0x10 0 2), 0, by (try unfold State.takesCmd); (try unfold State.writable); (try unfold State.opensWrite); (try unfold State.opensRead); decide⟩

theorem test_MotionChannels_4 : ∃ (s : State) (ch raw : Nat) (ack : Bool) (crc : Nat) (nE nW high : Bool) (ago : Nat),
    s.svc.stopped = none ∧
    s.mchLive ch = true ∧
    ago ≤ s.time.clk :=
  ⟨((setAct up Reg.MCH_CTRL 0 7).setUnit 0x10 0 2), 0, 5, true, 0, true, true, true, 0, by (try unfold State.takesCmd); (try unfold State.writable); (try unfold State.opensWrite); (try unfold State.opensRead); decide⟩

theorem test_MotionChannels_5 : ∃ (s : State) (ch : Nat) (a b : Int),
    s.svc.stopped = none ∧
    s.mchLive ch = true ∧
    s.mchType ch = 9 ∧
    s.ampIn ch (s.sinVec ch a b) = false ∧
    (s.mch ch).ampBad = false ∧
    (s.mch ch).ampRun = 3 ∧
    s.sinVec ch a b ≠ (0, 0) :=
  ⟨(((setAct up Reg.MCH_CTRL 0 9).setUnit 0x10 0 2).setMch 0 (fun q => { q with ampRun := 3 })), 0, 1, 0, by (try unfold State.takesCmd); (try unfold State.writable); (try unfold State.opensWrite); (try unfold State.opensRead); decide⟩

theorem test_MotionChannels_6 : ∃ (s : State) (ch : Nat) (a b : Int),
    s.svc.stopped = none ∧
    s.mchLive ch = true ∧
    s.mchType ch = 9 ∧
    fld (s.act Reg.MCH_CTRL ch) 13 12 = 0 ∧
    s.ampIn ch (s.sinVec ch a b) = true ∧
    (s.mch ch).ampBad = false ∧
    (s.mch ch).ampRun < 3 ∧
    s.sinVec ch a b ≠ (0, 0) ∧
    (s.mch ch).vec = none ∧
    (s.mch ch).setAt ≠ s.time.clk + 1 :=
  ⟨((setAct (setAct (setAct up Reg.MCH_CTRL 0 9) Reg.MCH_SINCOS 0 0x10001) Reg.MCH_AMP_WIN 0 0x80000001).setUnit 0x10 0 2), 0, 1, 0, by (try unfold State.takesCmd); (try unfold State.writable); (try unfold State.opensWrite); (try unfold State.opensRead); decide⟩

theorem test_MotionChannels_7 : ∃ (s : State) (ch : Nat) (x : Instr),
    x ∈ [.speedStill ch, .speedDecay ch] ∧
    s.svc.stopped = none ∧
    s.mchLive ch = true ∧
    (s.mch ch).changeAt < s.time.clk :=
  ⟨(later ((setAct up Reg.MCH_CTRL 0 3).setUnit 0x10 0 2) 5), 0, .speedStill 0, by (try unfold State.takesCmd); (try unfold State.writable); (try unfold State.opensWrite); (try unfold State.opensRead); decide⟩

theorem test_MotionChannels_8 : ∃ (s : State) (k : Nat),
    s.svc.stopped = none ∧
    k < 8 ∧
    bit (s.act Reg.ECHO_CTRL k) 0 = true ∧
    bit (s.act Reg.ECHO_CTRL k) 1 = false ∧
    ((s.echo k).stepAt = none ∨ (∃ x, (s.echo k).stepAt = some x ∧ x + fld (s.act Reg.ECHO_CTRL k) 15 8 ≤ s.time.clk)) :=
  ⟨(setAct up Reg.ECHO_CTRL 0 1), 0, by (try unfold State.takesCmd); (try unfold State.writable); (try unfold State.opensWrite); (try unfold State.opensRead); decide⟩

theorem test_MotionChannels_9 : ∃ (s : State) (k : Nat) (rise : Bool),
    s.svc.stopped = none ∧
    k < 8 ∧
    bit (s.reg Reg.PRB_CTRL k) 0 = true ∧
    (fld (s.reg Reg.PRB_CTRL k) 2 1 = 2 ∨ fld (s.reg Reg.PRB_CTRL k) 2 1 = (if rise then 0 else 1)) ∧
    bit (s.reg Reg.PRB_STATUS k) 31 = false ∧
    s.isRead (fld (s.reg Reg.PRB_CTRL k) 12 8) = false ∧
    s.isRead (fld (s.reg Reg.PRB_CTRL k) 20 16) = false :=
  ⟨(up.setReg Reg.PRB_CTRL 0 0 5), 0, true, by (try unfold State.takesCmd); (try unfold State.writable); (try unfold State.opensWrite); (try unfold State.opensRead); decide⟩

theorem test_MotionChannels_10 : ∃ (s : State) (k r : Nat) (rise : Bool),
    s.svc.stopped = none ∧
    k < 8 ∧
    r < 16 ∧
    (s.actF Reg.TRIG_IN_EDGE 0 (2 * k + 1) (2 * k)).testBit (if rise then 0 else 1) = true ∧
    ((∀ n, n < 16 → fld (s.act Reg.RIG_TRIG n) 5 0 ≠ 0x20 + k)) ∧
    ((∀ n, n < 16 → (bit (s.act Reg.RIG_TRIG n) 8 = true ∧ fld (s.act Reg.RIG_TRIG n) 21 16 = 0x20 + k ↔ n = r))) ∧
    bit (s.reg Reg.RIG_TRIG_STATUS r) 0 = true ∧
    s.rigMode r = .live ∧
    (s.projRig r).1 = .live ∧
    s.dev.mode = .operational ∧
    s.dev.bound = [] ∧
    s.underFloor s.takeSecs (s.seqOf 0) = false :=
  ⟨((setAct (setAct (up.setReg Reg.RIG_TRIG_STATUS 0 0 1) Reg.TRIG_IN_EDGE 0 1) Reg.RIG_TRIG 0 0x200100).setRig 0 (fun q => { q with mode := .live })), 0, 0, true, by (try unfold State.takesCmd); (try unfold State.writable); (try unfold State.opensWrite); (try unfold State.opensRead); decide⟩

theorem test_MotionChannels_11 : ∃ (s : State) (r : Nat) (f : FrameSt),
    s.svc.stopped = none ∧
    s.store.frames = [f] ∧
    f.rig = r ∧
    (f.phase = .triggered ∨ f.phase = .opened ∨ f.phase = .ended) ∧
    f.msNext < f.msPoints ∧
    f.samplePoint f.msNext ≤ s.now16 ∧
    (f.msNext + 1 = f.msPoints ∨ (s.now16 : Int) < f.samplePoint (f.msNext + 1)) :=
  ⟨{ up with store := { up.store with frames := [{ id := 0, stream := 0, rig := 0, frame := 0, run := 0, phase := .opened, msPoints := 1, msMask := 1 }] } }, 0, { id := 0, stream := 0, rig := 0, frame := 0, run := 0, phase := .opened, msPoints := 1, msMask := 1 }, by (try unfold State.takesCmd); (try unfold State.writable); (try unfold State.opensWrite); (try unfold State.opensRead); decide⟩

theorem test_UnitsChangeState_1 : ∃ (s : State) (d : Desc),
    s.takesCmd d ∧
    s.recovering 5 = false ∧
    structOk d (unitTarget d) [] false = true ∧
    s.isSteward d = true ∧
    (s.dev.mode = .standby ∨ s.dev.mode = .operational) ∧
    (s.unitCode (tKind d) (tIndex d) = 1 ∨ s.unitCode (tKind d) (tIndex d) = 2 ∧ (tKind d = 4 ∨ (s.freeSpare (tKind d)).isSome = true)) ∧
    ((∀ e ∈ s.svc.due, ¬ (e.kind = tKind d ∧ e.index = tIndex d))) ∧
    s.drainForbids (tKind d) (tIndex d) = none :=
  ⟨((up.setUnit 12 3 2).setUnit 12 14 1), { desc 0 with target := 0x0C000003 }, by (try unfold State.takesCmd); (try unfold State.writable); (try unfold State.opensWrite); (try unfold State.opensRead); decide⟩

theorem test_UnitsChangeState_2 : ∃ (s : State) (d : Desc),
    s.takesCmd d ∧
    s.recovering 5 = false ∧
    structOk d (unitTarget d) [(8, 1)] false = true ∧
    opAt d 8 1 ≤ 1 ∧
    s.isSteward d = true ∧
    (s.dev.mode = .standby ∨ s.dev.mode = .operational) ∧
    s.unitCode (tKind d) (tIndex d) ∉ [2, 3, 4] :=
  ⟨up, { desc 0 with target := 0x0C000003 }, by (try unfold State.takesCmd); (try unfold State.writable); (try unfold State.opensWrite); (try unfold State.opensRead); decide⟩

theorem test_UnitsChangeState_3 : ∃ (s : State) (d : Desc),
    s.takesCmd d ∧
    s.recovering 5 = false ∧
    structOk d (unitTarget d) [] false = true ∧
    s.isSteward d = true ∧
    (s.dev.mode = .standby ∨ s.dev.mode = .operational) ∧
    s.unitCode (tKind d) (tIndex d) = 0 ∧
    ((∀ e ∈ s.svc.due, ¬ (e.kind = tKind d ∧ e.index = tIndex d))) ∧
    tKind d = 4 ∧
    s.laneReturns (tIndex d) = true :=
  ⟨(setAct (((up.setUnit 4 0 0)).setSpareNow 0 15) Reg.HDP_CTRL 0 0x10000), { desc 0 with target := 0x04000000 }, by (try unfold State.takesCmd); (try unfold State.writable); (try unfold State.opensWrite); (try unfold State.opensRead); decide⟩

theorem test_UnitsChangeState_4 : ∃ (s : State) (d : Desc),
    s.takesCmd d ∧
    s.recovering 5 = false ∧
    structOk d (unitTarget d) [] false = true ∧
    s.isSteward d = true ∧
    (s.dev.mode = .standby ∨ s.dev.mode = .operational) ∧
    s.unitCode (tKind d) (tIndex d) = 0 ∧
    ((∀ e ∈ s.svc.due, ¬ (e.kind = tKind d ∧ e.index = tIndex d))) ∧
    tKind d ≠ 4 :=
  ⟨up, { desc 0 with target := 0x0C000003 }, by (try unfold State.takesCmd); (try unfold State.writable); (try unfold State.opensWrite); (try unfold State.opensRead); decide⟩

theorem test_UnitsChangeState_5 : ∃ (s : State) (d : Desc),
    s.takesCmd d ∧
    s.recovering 5 = false ∧
    structOk d (unitTarget d) [] false = true ∧
    s.isSteward d = true ∧
    (s.dev.mode = .standby ∨ s.dev.mode = .operational) ∧
    (s.unitCode (tKind d) (tIndex d) = 0 ∨ s.unitCode (tKind d) (tIndex d) = 5) :=
  ⟨up, { desc 0 with target := 0x0C000003 }, by (try unfold State.takesCmd); (try unfold State.writable); (try unfold State.opensWrite); (try unfold State.opensRead); decide⟩

theorem test_UnitsChangeState_6 : ∃ (s : State) (kind i step errs : Nat) (pass : Bool) (x : UnitTest),
    s.svc.stopped = none ∧
    s.svc.tests = [x] ∧
    x.kind = kind ∧
    x.index = i :=
  ⟨{ up with svc := { up.svc with tests := [{ kind := 0x0C, index := 3, from_ := 0, ticket := none }] } }, 0x0C, 3, 0, 0, true, { kind := 0x0C, index := 3, from_ := 0, ticket := none }, by (try unfold State.takesCmd); (try unfold State.writable); (try unfold State.opensWrite); (try unfold State.opensRead); decide⟩

theorem test_UnitsChangeState_7 : ∃ (s : State) (kind i : Nat),
    s.svc.stopped = none ∧
    s.unitCode kind i = 3 ∧
    s.unitIdle kind i = true :=
  ⟨(up.setUnit 12 3 3), 0x0C, 3, by (try unfold State.takesCmd); (try unfold State.writable); (try unfold State.opensWrite); (try unfold State.opensRead); decide⟩

theorem test_UnitsChangeState_8 : ∃ (s : State) (kind i cause : Nat),
    s.svc.stopped = none ∧
    kind ∈ [0x0B, 0x0C, 0x0D, 0x0E, 0x10, 0x11, 0x12] ∧
    i < unitCount kind ∧
    s.unitCode kind i ∈ [1, 2, 3, 4] :=
  ⟨(up.setUnit 12 3 2), 0x0C, 3, 1, by (try unfold State.takesCmd); (try unfold State.writable); (try unfold State.opensWrite); (try unfold State.opensRead); decide⟩

theorem test_MemoryErrorsAndHeat_1 : ∃ (s : State) (c row : Nat) (page : Option Nat),
    s.svc.stopped = none ∧
    s.store.ready = true ∧
    c < 128 :=
  ⟨{ up with store := { up.store with ready := true } }, 5, 7, some 133, by (try unfold State.takesCmd); (try unfold State.writable); (try unfold State.opensWrite); (try unfold State.opensRead); decide⟩

theorem test_MemoryErrorsAndHeat_2 : ∃ (s : State) (c row : Nat) (page : Option Nat),
    s.svc.stopped = none ∧
    s.store.ready = true ∧
    c < 128 :=
  ⟨{ up with store := { up.store with ready := true } }, 5, 7, some 133, by (try unfold State.takesCmd); (try unfold State.writable); (try unfold State.opensWrite); (try unfold State.opensRead); decide⟩

theorem test_MemoryErrorsAndHeat_3 : ∃ (s : State) (c row page : Nat),
    s.svc.stopped = none ∧
    s.repairable c = some (row, page) ∧
    s.repairsLeft c ≠ 0 ∧
    bit (s.act Reg.STORE_CTRL) 2 = true :=
  ⟨((setAct { up with store := { up.store with ready := true, pcs := [(5, { rows := [(7, 133)] })] } } Reg.STORE_CTRL 0 4).setReg Reg.PC_STATUS 5 0 0x20000), 5, 7, 133, by (try unfold State.takesCmd); (try unfold State.writable); (try unfold State.opensWrite); (try unfold State.opensRead); decide⟩

theorem test_MemoryErrorsAndHeat_4 : ∃ (s : State) (v : List Int),
    s.svc.stopped = none :=
  ⟨up, [], by (try unfold State.takesCmd); (try unfold State.writable); (try unfold State.opensWrite); (try unfold State.opensRead); decide⟩

theorem test_MemoryErrorsAndHeat_5 : ∃ (s : State),
    s.svc.stopped = none :=
  ⟨up, by (try unfold State.takesCmd); (try unfold State.writable); (try unfold State.opensWrite); (try unfold State.opensRead); decide⟩

theorem test_SecurityRoles_1 : ∃ (s : State) (d : Desc),
    s.takesService d [(8, 2), bufUsed] ∧
    slotOk d = true ∧
    bufOk d = true ∧
    s.dev.mode ≠ .boot ∧
    ((∀ x, s.sec.lockAt = some x → x + secClk 60 ≤ s.time.clk)) ∧
    s.sec.drbgBlocked = false ∧
    s.ideBlocks (s.issuer d) (bufOf d) (beBytes 48 (s.freeNat 384)) = false :=
  by
  refine ⟨up, desc 0, by unfold State.takesService State.takesCmd; decide, by decide, by decide, by decide, ?_, by decide, by rfl⟩
  intro x h
  have e : up.sec.lockAt = none := by decide
  rw [e] at h
  cases h

theorem test_SecurityRoles_2 : ∃ (s : State) (d : Desc),
    s.takesService d [(8, 2), bufUsed] ∧
    slotOk d = true ∧
    bufOk d = true ∧
    s.dev.mode ≠ .boot :=
  ⟨up, desc 0, by (try unfold State.takesService); (try unfold State.takesCmd); decide⟩

theorem test_SecurityRoles_3 : ∃ (s : State) (d : Desc),
    s.takesService d [] ∧
    s.dev.mode ≠ .boot :=
  ⟨up, desc 0, by (try unfold State.takesService); (try unfold State.takesCmd); decide⟩

theorem test_SecurityRoles_4 : ∃ (s : State) (d : Desc),
    s.takesService d [(9, 1), bufUsed] ∧
    opAt d 9 1 < 2 ∧
    bufOk d = true ∧
    s.isSteward d = true ∧
    s.dev.mode = .provision ∧
    s.hasCoKey = false :=
  ⟨({ up with dev := { up.dev with mode := .provision } }), desc 0, by (try unfold State.takesService); (try unfold State.takesCmd); decide⟩

theorem test_SecurityRoles_5 : ∃ (s : State) (d : Desc),
    s.takesService d [(8, 3), bufUsed] ∧
    slotOk d = true ∧
    opAt d 10 1 < 2 ∧
    bufOk d = true ∧
    s.isCo d = true ∧
    s.dev.mode ≠ .boot ∧
    s.dev.mode ≠ .zeroized :=
  ⟨((up.setRing 0 (fun q => { q with role := some .co }))), desc 0, by (try unfold State.takesService); (try unfold State.takesCmd); decide⟩

theorem test_SecurityRoles_6 : ∃ (s : State) (x : Nat),
    s.svc.stopped = none ∧
    s.sec.lockAt = some x ∧
    x + secClk 60 ≤ s.time.clk :=
  ⟨{ up with sec := { up.sec with lockAt := some 0 }, time := { up.time with clk := 1000000000000 } }, 0, by (try unfold State.takesCmd); (try unfold State.writable); (try unfold State.opensWrite); (try unfold State.opensRead); decide⟩

theorem test_SecurityRoles_7 : ∃ (s : State),
    s.svc.stopped = none ∧
    s.sec.drbgBlocked = false ∧
    s.dev.mode ≠ .boot :=
  ⟨up, by (try unfold State.takesCmd); (try unfold State.writable); (try unfold State.opensWrite); (try unfold State.opensRead); decide⟩

theorem test_SecurityRoles_8 : ∃ (s : State) (pass : Bool),
    s.svc.stopped = none ∧
    s.sec.drbgBlocked = true ∧
    s.sec.retests < 3 ∧
    s.sec.retestAt + secClk 1 ≤ s.time.clk :=
  ⟨{ up with sec := { up.sec with drbgBlocked := true }, time := { up.time with clk := 1000000000000 } }, by (try unfold State.takesCmd); (try unfold State.writable); (try unfold State.opensWrite); (try unfold State.opensRead); decide⟩

theorem test_SecurityKeys_1 : ∃ (s : State) (d : Desc),
    s.takesService d [bufUsed] ∧
    bufOk d = true ∧
    s.isCo d = true ∧
    s.dev.mode = .provision ∧
    s.sec.drbgBlocked = false ∧
    ((∀ k, k = beBytes 48 (s.freeNat 384) → s.ideBlocks (s.issuer d) (bufOf d) (pubOf k ++ sign Config.fak (pubOf k)) = false)) :=
  by
  refine ⟨({ (up.setRing 0 (fun q => { q with role := some .co })) with dev := { (up.setRing 0 (fun q => { q with role := some .co })).dev with mode := .provision } }), desc 0, by unfold State.takesService State.takesCmd; decide, by decide, by decide, by decide, by decide, ?_⟩
  intro k _
  rfl

theorem test_SecurityKeys_2 : ∃ (s : State) (d : Desc) (ed : List Byte),
    s.takesService d [bufUsed] ∧
    bufOk d = true ∧
    s.isCo d = true ∧
    s.dev.mode = .provision ∧
    s.sec.ed = some ed :=
  ⟨{ { (up.setRing 0 (fun q => { q with role := some .co })) with dev := { (up.setRing 0 (fun q => { q with role := some .co })).dev with mode := .provision } } with sec := { up.sec with ed := some [] } }, desc 0, [], by (try unfold State.takesService); (try unfold State.takesCmd); decide⟩

theorem test_SecurityKeys_3 : ∃ (s : State) (d : Desc),
    s.takesService d [] ∧
    s.isCo d = true ∧
    s.dev.mode = .provision ∧
    s.sec.drbgBlocked = false :=
  ⟨({ (up.setRing 0 (fun q => { q with role := some .co })) with dev := { (up.setRing 0 (fun q => { q with role := some .co })).dev with mode := .provision } }), desc 0, by (try unfold State.takesService); (try unfold State.takesCmd); decide⟩

theorem test_SecurityKeys_4 : ∃ (s : State) (d : Desc),
    s.takesService d [(12, 4), bufUsed] ∧
    bufOk d = true ∧
    s.dev.mode ≠ .boot ∧
    s.ideBlocks (s.issuer d) (bufOf d) (s.identity.take (opAt d 12 4)) = false :=
  ⟨up, desc 0, by (try unfold State.takesService); (try unfold State.takesCmd); decide⟩

theorem test_SecurityKeys_5 : ∃ (s : State) (d : Desc),
    s.takesService d [bufUsed, (24, 16)] ∧
    bufOk d = true ∧
    s.isUser d = true ∧
    (s.dev.mode = .standby ∨ s.dev.mode = .operational) ∧
    (opAt d 28 6 < s.sec.floorSecs ∨ opAt d 28 6 = s.sec.floorSecs ∧ opAt d 24 4 ≤ s.sec.floorSeq) ∧
    opAt d 34 6 = Config.serial.toNat ∧
    ((∀ owk, owk = s.sec.owk.getD [] → s.ideBlocks (s.issuer d) (bufOf d) (Config.keyWrap owk (takeKeyOf owk (opAt d 24 16))) = false)) :=
  by
  refine ⟨(up.setRing 0 (fun q => { q with role := some .operator })), { desc 0 with ops := List.replicate 26 0 ++ leBytes 6 Config.serial.toNat ++ List.replicate 24 0 },
    by unfold State.takesService State.takesCmd; decide, by decide, by decide, by decide, by decide, ?_, ?_⟩
  · have h := leNat_leBytes 6 Config.serial.toNat
    rw [Nat.mod_eq_of_lt (show _ < 256 ^ 6 from Config.serial.isLt)] at h
    exact h
  · intro k _
    rfl

theorem test_SecurityKeys_6 : ∃ (s : State) (d : Desc),
    s.takesService d [bufUsed] ∧
    bufOk d = true ∧
    s.isUser d = true ∧
    (s.dev.mode = .standby ∨ s.dev.mode = .operational) ∧
    ((∀ x, x = s.statement d.buf → s.ideBlocks (s.issuer d) (bufOf d + 48) (x ++ sign (s.sec.dik.getD []) x) = false)) :=
  by
  refine ⟨(up.setRing 0 (fun q => { q with role := some .operator })), desc 0, by unfold State.takesService State.takesCmd; decide, by decide, by decide, by decide, ?_⟩
  intro k _
  rfl

theorem test_SecurityKeys_7 : ∃ (s : State) (d : Desc) (o : Nat × ObjSt),
    s.takesService d [(8, 1), (12, 4)] ∧
    opAt d 8 1 < 2 ∧
    s.isCo d = true ∧
    (s.dev.mode = .standby ∨ s.dev.mode = .operational) ∧
    s.obj? (opAt d 12 4) = some o :=
  ⟨((up.setRing 0 (fun q => { q with role := some .co })).setObj 5 (fun o => { o with gen := 1, phase := .sealing })), { desc 0 with target := 0, ops := List.replicate 4 0 ++ [5] ++ [0] ++ [1] ++ List.replicate 49 0 }, (5, { gen := 1, phase := .sealing }), by (try unfold State.takesService); (try unfold State.takesCmd); decide⟩

theorem test_SecurityKeys_8 : ∃ (s : State) (d : Desc) (fails : List (Nat × Nat)),
    s.takesService d [] ∧
    s.isUser d = true ∧
    (s.dev.mode = .standby ∨ s.dev.mode = .operational) :=
  ⟨(up.setRing 0 (fun q => { q with role := some .operator })), desc 0, [], by (try unfold State.takesService); (try unfold State.takesCmd); decide⟩

theorem test_ZeroisationAndSelfTests_1 : ∃ (s : State) (d : Desc),
    s.takesService d [] ∧
    s.isCo d = true ∧
    s.dev.mode ≠ .boot :=
  ⟨(up.setRing 0 (fun q => { q with role := some .co })), desc 0, by (try unfold State.takesService); (try unfold State.takesCmd); decide⟩

theorem test_ZeroisationAndSelfTests_2 : ∃ (s : State) (d : Desc),
    s.takesService d [] ∧
    s.isCo d = true ∧
    s.dev.mode = .zeroized ∧
    s.sec.zeroizeLow = false ∧
    ((∀ i ∈ [0, 1], s.tamperActive i = true → s.tamperZeroises i = false)) :=
  ⟨({ (up.setRing 0 (fun q => { q with role := some .co })) with dev := { (up.setRing 0 (fun q => { q with role := some .co })).dev with mode := .zeroized } }), desc 0, by (try unfold State.takesService); (try unfold State.takesCmd); decide⟩

theorem test_ZeroisationAndSelfTests_3 : ∃ (s : State) (d : Desc) (dik owk : List Byte),
    s.takesService d [] ∧
    s.isCo d = true ∧
    s.dev.mode = .provision ∧
    s.sec.dik = some dik ∧
    s.sec.owk = some owk :=
  ⟨{ ({ (up.setRing 0 (fun q => { q with role := some .co })) with dev := { (up.setRing 0 (fun q => { q with role := some .co })).dev with mode := .provision } }) with sec := { ({ (up.setRing 0 (fun q => { q with role := some .co })) with dev := { (up.setRing 0 (fun q => { q with role := some .co })).dev with mode := .provision } }).sec with dik := some [], owk := some [] } }, desc 0, [], [], by (try unfold State.takesService); (try unfold State.takesCmd); decide⟩

theorem test_ZeroisationAndSelfTests_4 : ∃ (s : State),
    s.svc.stopped = none ∧
    s.dev.mode ≠ .boot :=
  ⟨up, by (try unfold State.takesCmd); (try unfold State.writable); (try unfold State.opensWrite); (try unfold State.opensRead); decide⟩

theorem test_ZeroisationAndSelfTests_6 : ∃ (s : State),
    s.svc.stopped.isSome = true :=
  ⟨(held up), by (try unfold State.takesCmd); (try unfold State.writable); (try unfold State.opensWrite); (try unfold State.opensRead); decide⟩

theorem test_ZeroisationAndSelfTests_7 : ∃ (s : State) (i : Nat) (high : Bool),
    s.svc.stopped = none ∧
    i < 2 ∧
    high ≠ bit s.sec.tamperCtrl i ∧
    fld s.sec.tamperCtrl (5 + 2 * i) (4 + 2 * i) = 1 :=
  ⟨{ up with sec := { up.sec with tamperCtrl := 0x10 } }, 0, true, by (try unfold State.takesCmd); (try unfold State.writable); (try unfold State.opensWrite); (try unfold State.opensRead); decide⟩

theorem test_ZeroisationAndSelfTests_8 : ∃ (s : State) (i : Nat) (high : Bool),
    s.svc.stopped = none ∧
    s.dev.mode ≠ .boot ∧
    i < 2 ∧
    high ≠ bit s.sec.tamperCtrl i ∧
    fld s.sec.tamperCtrl (5 + 2 * i) (4 + 2 * i) = 2 :=
  ⟨{ up with sec := { up.sec with tamperCtrl := 0x20 } }, 0, true, by (try unfold State.takesCmd); (try unfold State.writable); (try unfold State.opensWrite); (try unfold State.opensRead); decide⟩

theorem test_ZeroisationAndSelfTests_9 : ∃ (s : State),
    s.svc.stopped = none ∧
    s.dev.mode ≠ .boot :=
  ⟨up, by (try unfold State.takesCmd); (try unfold State.writable); (try unfold State.opensWrite); (try unfold State.opensRead); decide⟩

theorem test_ZeroisationAndSelfTests_11 : ∃ (s : State) (u : Nat),
    s.svc.stopped = none ∧
    u < 6 ∧
    s.anyRecovery = false ∧
    s.svc.lastMismatch.get 0 u = 0 ∧
    (u, s.time.tickNum) ∉ s.svc.recov :=
  ⟨up, 0, by (try unfold State.takesCmd); (try unfold State.writable); (try unfold State.opensWrite); (try unfold State.opensRead); decide⟩

theorem test_ZeroisationAndSelfTests_12 : ∃ (s : State) (kind j test : Nat) (pass : Bool),
    s.svc.stopped = none ∧
    s.dev.mode = .operational ∧
    s.hot = false ∧
    kind ∈ [0x0C, 0x0D, 0x0E] ∧
    s.svc.rotatedAt.get 0 kind + s.rotateClk kind ≤ s.time.clk ∧
    leastOf s.svc.passedAt kind (s.unitsIn kind 1) = some j :=
  ⟨{ (up.setUnit 12 14 1) with time := { up.time with clk := 1000000000000000 } }, 0x0C, 14, 0, true, by (try unfold State.takesCmd); (try unfold State.writable); (try unfold State.opensWrite); (try unfold State.opensRead); decide⟩

theorem test_ZeroisationAndSelfTests_13 : ∃ (s : State) (fails : List (Nat × Nat)),
    s.svc.stopped = none ∧
    s.dev.mode ≠ .boot ∧
    s.sec.katAt + secClk (fld (s.reg Reg.SEC_SELFTEST_CTRL) 23 16) ≤ s.time.clk :=
  ⟨{ up with time := { up.time with clk := 1000000000000000 } }, [], by (try unfold State.takesCmd); (try unfold State.writable); (try unfold State.opensWrite); (try unfold State.opensRead); decide⟩

theorem test_TableObjectsAndTransfers_1 : ∃ (s : State) (p i : Nat),
    s.writable p Reg.TOBJ_DIR_DIGEST i ∧
    (s.obj.dir.get {} i).phase = .sealed_ :=
  ⟨(up.setObj 5 (fun o => { o with gen := 1, phase := .sealed_, digest := List.replicate 48 7 })), 0, 5, by (try unfold State.takesCmd); (try unfold State.writable); (try unfold State.opensWrite); (try unfold State.opensRead); decide⟩

theorem test_TableObjectsAndTransfers_2 : ∃ (s : State) (p i : Nat),
    s.writable p Reg.TOBJ_CTRL 0 ∧
    bit (s.reg Reg.TOBJ_CTRL) 31 = false ∧
    0 < (s.reg Reg.TOBJ_SIZE).toNat ∧
    (s.reg Reg.TOBJ_SIZE).toNat ≤ 2952790016 ∧
    s.freeObj = some i ∧
    heapUnits (s.reg Reg.TOBJ_SIZE).toNat ≤ s.heapFree :=
  ⟨(up.setReg Reg.TOBJ_SIZE 0 0 4096), 0, 1, by (try unfold State.takesCmd); (try unfold State.writable); (try unfold State.opensWrite); (try unfold State.opensRead); decide⟩

theorem test_TableObjectsAndTransfers_3 : ∃ (s : State) (p i : Nat) (o : ObjSt),
    s.writable p Reg.TOBJ_CTRL 0 ∧
    bit (s.reg Reg.TOBJ_CTRL) 31 = false ∧
    s.obj? (s.reg Reg.TOBJ_HANDLE).toNat = some (i, o) ∧
    o.phase = .open_ :=
  ⟨((up.setObj 5 (fun o => { o with gen := 1, phase := .open_, size := 4096 })).setReg Reg.TOBJ_HANDLE 0 0 0x10005), 0, 5, { gen := 1, phase := .open_, size := 4096 }, by (try unfold State.takesCmd); (try unfold State.writable); (try unfold State.opensWrite); (try unfold State.opensRead); decide⟩

theorem test_TableObjectsAndTransfers_4 : ∃ (s : State) (p i : Nat) (o : ObjSt),
    s.writable p Reg.TOBJ_CTRL 0 ∧
    bit (s.reg Reg.TOBJ_CTRL) 31 = false ∧
    s.obj? (s.reg Reg.TOBJ_HANDLE).toNat = some (i, o) ∧
    s.objHeld (s.reg Reg.TOBJ_HANDLE).toNat = false :=
  ⟨((up.setObj 5 (fun o => { o with gen := 1, phase := .open_, size := 4096 })).setReg Reg.TOBJ_HANDLE 0 0 0x10005), 0, 5, { gen := 1, phase := .open_, size := 4096 }, by (try unfold State.takesCmd); (try unfold State.writable); (try unfold State.opensWrite); (try unfold State.opensRead); decide⟩

theorem test_TableObjectsAndTransfers_5 : ∃ (s : State) (p k i : Nat) (v : Word) (o : ObjSt),
    s.writable p Reg.SVCCH_CTRL k ∧
    (s.chan k).busy = false ∧
    (s.dev.mode = .standby ∨ s.dev.mode = .operational) ∧
    s.obj? (s.reg Reg.SVCCH_OBJ k).toNat = some (i, o) ∧
    0 < (s.reg Reg.SVCCH_LEN k).toNat ∧
    (s.reg Reg.SVCCH_LEN k).toNat ≤ 1073741824 ∧
    (s.reg Reg.SVCCH_OFFSET k).toNat + (s.reg Reg.SVCCH_LEN k).toNat ≤ o.size ∧
    fld v 29 28 ≤ 1 ∧
    fld v 27 26 ≠ 3 ∧
    (fld v 29 28 = 1 ∨ s.objHeld (s.reg Reg.SVCCH_OBJ k).toNat = false) :=
  ⟨(((up.setObj 5 (fun o => { o with gen := 1, phase := .open_, size := 4096 })).setReg Reg.SVCCH_OBJ 2 0 0x10005).setReg Reg.SVCCH_LEN 2 0 16), 0, 2, 5, 0, { gen := 1, phase := .open_, size := 4096 }, by (try unfold State.takesCmd); (try unfold State.writable); (try unfold State.opensWrite); (try unfold State.opensRead); decide⟩

theorem test_TableObjectsAndTransfers_6 : ∃ (s : State) (p k : Nat) (v : Word),
    s.writable p Reg.SVCCH_CTRL k ∧
    (s.chan k).busy = true ∧
    bit v 31 = false :=
  ⟨(up.setChan 2 (fun q => { q with busy := true })), 0, 2, 0, by (try unfold State.takesCmd); (try unfold State.writable); (try unfold State.opensWrite); (try unfold State.opensRead); decide⟩

theorem test_TableObjectsAndTransfers_7 : ∃ (s : State) (k i : Nat) (o : ObjSt),
    s.svc.stopped = none ∧
    (s.chan k).busy = true ∧
    (s.chan k).started = false ∧
    (if (s.chan k).pace = 0 then (s.chan k).goTick < s.time.tickNum else (s.chan k).ready = true) ∧
    s.obj? (s.chan k).obj = some (i, o) ∧
    ((s.chan k).toHost = true ∨ s.objHeld (s.chan k).obj = false) :=
  ⟨((((up.setObj 5 (fun o => { o with gen := 1, phase := .open_, size := 4096 })).setReg Reg.SVCCH_OBJ 2 0 0x10005).setReg Reg.SVCCH_LEN 2 0 16).setChan 2 (fun q => { q with busy := true, pace := 1, ready := true, obj := 0x10005 })), 2, 5, { gen := 1, phase := .open_, size := 4096 }, by (try unfold State.takesCmd); (try unfold State.writable); (try unfold State.opensWrite); (try unfold State.opensRead); decide⟩

theorem test_TableObjectsAndTransfers_8 : ∃ (s : State) (k : Nat) (data : List Byte),
    s.svc.stopped = none ∧
    k < 8 ∧
    (s.chan k).busy = true ∧
    (s.chan k).started = true ∧
    (s.chan k).len ≤ (s.chan k).done :=
  ⟨(up.setChan 2 (fun q => { q with busy := true, started := true })), 2, [], by (try unfold State.takesCmd); (try unfold State.writable); (try unfold State.opensWrite); (try unfold State.opensRead); decide⟩

theorem test_WritesOfMotionUnitsWakesAndResume_1 : ∃ (s : State) (p u : Nat) (v : Word),
    s.writable p Reg.CMP_TARGET_HI u :=
  ⟨up, 0, 3, 5, by (try unfold State.takesCmd); (try unfold State.writable); (try unfold State.opensWrite); (try unfold State.opensRead); decide⟩

theorem test_WritesOfMotionUnitsWakesAndResume_2 : ∃ (s : State) (p u : Nat) (v c : Word),
    s.writable p Reg.CMP_CTRL u ∧
    bit (s.reg Reg.CMP_CTRL u) 0 = false ∧
    c = (s.reg Reg.CMP_CTRL u &&& ~~~ Reg.CMP_CTRL.rwi) ||| ((v ||| 1) &&& Reg.CMP_CTRL.rwi) :=
  ⟨up, 0, 3, 0, _, by unfold State.writable; decide, by decide, rfl⟩

theorem test_WritesOfMotionUnitsWakesAndResume_3 : ∃ (s : State) (p ch : Nat) (v : Word),
    s.writable p Reg.MCH_SET_POS_HI ch :=
  ⟨up, 0, 3, 5, by (try unfold State.takesCmd); (try unfold State.writable); (try unfold State.opensWrite); (try unfold State.opensRead); decide⟩

theorem test_WritesOfMotionUnitsWakesAndResume_4 : ∃ (s : State) (p k : Nat),
    s.writable p Reg.PRB_STATUS k :=
  ⟨up, 0, 3, by (try unfold State.takesCmd); (try unfold State.writable); (try unfold State.opensWrite); (try unfold State.opensRead); decide⟩

theorem test_WritesOfMotionUnitsWakesAndResume_5 : ∃ (s : State) (p off kind i : Nat),
    s.svc.stopped = none ∧
    s.dev.mode ≠ .boot ∧
    s.portTalks p = true ∧
    unitAt (off / 4 * 4) = some (kind, i) ∧
    s.gated kind i = true ∧
    s.svc.woken.get 0 (unitKey kind i) = 0 ∧
    regIs (off / 4 * 4) (fun r => decide (r.fields ≠ 0)) = true ∧
    s.mayWrite p (off / 4 * 4) = true :=
  ⟨up, 0, Reg.MCH_SET_POS_HI.addr 0, 16, 0, by (try unfold State.takesCmd); (try unfold State.writable); (try unfold State.opensWrite); (try unfold State.opensRead); decide⟩

theorem test_WritesOfMotionUnitsWakesAndResume_6 : ∃ (s : State) (p off kind i : Nat),
    s.svc.stopped = none ∧
    s.dev.mode ≠ .boot ∧
    s.portTalks p = true ∧
    unitAt (off / 4 * 4) = some (kind, i) ∧
    s.gated kind i = true ∧
    s.svc.woken.get 0 (unitKey kind i) = 0 ∧
    regIs (off / 4 * 4) (fun r => decide (r.fields ≠ 0)) = true ∧
    s.mayRead p (off / 4 * 4) = true :=
  ⟨up, 0, Reg.MCH_SET_POS_HI.addr 0, 16, 0, by (try unfold State.takesCmd); (try unfold State.writable); (try unfold State.opensWrite); (try unfold State.opensRead); decide⟩

theorem test_WritesOfMotionUnitsWakesAndResume_7 : ∃ s : State,
    s.svc.stopped = none :=
  ⟨up, by (try unfold State.takesCmd); (try unfold State.writable); (try unfold State.opensWrite); (try unfold State.opensRead); decide⟩

theorem test_WritesOfMotionUnitsWakesAndResume_8 : ∃ s : State,
    s.svc.stopped = none ∧
    s.svc.recov.any (fun e => decide (e.2 + 3 ≤ s.time.tickNum)) = true ∧
    s.store.recovery = none :=
  ⟨{ up with svc := { up.svc with recov := [(0, 0)] }, time := { up.time with tickNum := 9 } }, by (try unfold State.takesCmd); (try unfold State.writable); (try unfold State.opensWrite); (try unfold State.opensRead); decide⟩

theorem test_DeliveriesAndMoverErrors_1 : ∃ (s : State) (d : Desc),
    s.svc.stopped = none ∧
    s.takeable d 1 = true ∧
    d.known = true ∧
    structOk d (tIs d 9 128) [(8, 52)] false = true ∧
    s.subOn (tIndex d) = true ∧
    s.subRing (tIndex d) = d.ring ∧
    opAt d 16 8 % 64 = 0 ∧
    opAt d 24 8 % 64 = 0 ∧
    opAt d 32 8 % 64 = 0 ∧
    opAt d 48 8 % 8 = 0 :=
  ⟨delivering, { desc 2 with target := 0x09000000 }, by (try unfold State.takesCmd); (try unfold State.writable); (try unfold State.opensWrite); (try unfold State.opensRead); decide⟩

theorem test_DeliveriesAndMoverErrors_2 : ∃ (s : State) (d : Desc),
    s.svc.stopped = none ∧
    s.takeable d 1 = true ∧
    d.known = true ∧
    structOk d (tIs d 9 128) [(8, 48)] false = true ∧
    s.subOn (tIndex d) = true ∧
    s.subRing (tIndex d) = d.ring ∧
    opAt d 32 8 % 64 = 0 ∧
    opAt d 40 8 % 64 = 0 ∧
    opAt d 48 8 % 8 = 0 ∧
    1 ≤ opAt d 28 4 ∧
    opAt d 28 4 ≤ 1048576 ∧
    (s.subParts (tIndex d)).testBit 0 = true :=
  ⟨delivering, { desc 2 with target := 0x09000000, ops := List.replicate 20 0 ++ [1] ++ List.replicate 35 0 }, by (try unfold State.takesCmd); (try unfold State.writable); (try unfold State.opensWrite); (try unfold State.opensRead); decide⟩

theorem test_DeliveriesAndMoverErrors_3 : ∃ (s : State) (n : Nat) (x : Dlv) (f : FrameSt),
    s.svc.stopped = none ∧
    s.delivered n = some (x, f) ∧
    x.signal = 0 ∧
    x.ticket.gen = (s.ring x.ticket.ring).gen ∧
    s.store.recovery = none ∧
    s.store.queued = [] ∧
    f.live = true ∧
    f.hold.has (16 + x.sub) = true :=
  ⟨({ { delivering with mover := { (delivering).mover with dlv := [{ ring := 2, sub := 0, ticket := { ring := 2, tag := 0, target := 0, opcode := 0x80, irq := false, barrier := false }, descNo := 0, frame := some 0 }] } } with store := { delivering.store with frames := [{ id := 0, stream := 0, rig := 0, frame := 0, run := 0, phase := .closed, hold := { subs := [0] } }] } }), 2, { ring := 2, sub := 0, ticket := { ring := 2, tag := 0, target := 0, opcode := 0x80, irq := false, barrier := false }, descNo := 0, frame := some 0 }, { id := 0, stream := 0, rig := 0, frame := 0, run := 0, phase := .closed, hold := { subs := [0] } }, by decide, by rfl, by decide, by decide, by decide, by decide, by decide, by decide⟩

theorem test_DeliveriesAndMoverErrors_4 : ∃ (s : State) (m kind addr : Nat),
    s.svc.stopped = none ∧
    1 ≤ kind ∧
    kind ≤ 4 ∧
    (s.mover.movers.get ({} : MoverSt) m).run = 1 ∧
    (s.mover.movers.get ({} : MoverSt) m).work = 2 ∧
    (s.chan (s.mover.movers.get ({} : MoverSt) m).id).busy = true ∧
    (s.chan (s.mover.movers.get ({} : MoverSt) m).id).started = true ∧
    (s.chan (s.mover.movers.get ({} : MoverSt) m).id).toHost = false :=
  ⟨({ (up.setChan 2 (fun q => { q with busy := true, started := true })) with mover := { ((up.setChan 2 (fun q => { q with busy := true, started := true }))).mover with movers := [(3, { run := 1, work := 2, id := 2 })] } }), 3, 1, 0, by (try unfold State.takesCmd); (try unfold State.writable); (try unfold State.opensWrite); (try unfold State.opensRead); decide⟩

theorem test_DeliveriesAndMoverErrors_5 : ∃ (s : State) (m kind addr w : Nat) (ps : List Nat) (x : Dlv) (f : FrameSt),
    s.svc.stopped = none ∧
    1 ≤ kind ∧
    kind ≤ 4 ∧
    addr < 2 ^ 64 ∧
    (s.mover.movers.get ({} : MoverSt) m).run = 1 ∧
    (s.mover.movers.get ({} : MoverSt) m).work = 1 ∧
    s.mover.dlv.find? (fun y => decide (y.ring = (s.mover.movers.get ({} : MoverSt) m).ring) && decide (y.descNo = (s.mover.movers.get ({} : MoverSt) m).descNo)) = some x ∧
    x.frame.bind (fun id => s.frame? id) = some f ∧
    f.loc = .spilled w ps ∧
    x.halted = false :=
  ⟨({ { delivering with mover := { (delivering).mover with dlv := [{ ring := 2, sub := 0, ticket := { ring := 2, tag := 0, target := 0, opcode := 0x80, irq := false, barrier := false }, descNo := 0, frame := some 0 }], movers := [(3, { run := 1, work := 1, ring := 2, descNo := 0 })] } } with store := { delivering.store with frames := [{ id := 0, stream := 0, rig := 0, frame := 0, run := 0, phase := .closed, loc := .spilled 0 [0] }] } }), 3, 1, 0, 0, [0], { ring := 2, sub := 0, ticket := { ring := 2, tag := 0, target := 0, opcode := 0x80, irq := false, barrier := false }, descNo := 0, frame := some 0 }, { id := 0, stream := 0, rig := 0, frame := 0, run := 0, phase := .closed, loc := .spilled 0 [0] }, by decide, by decide, by decide, by decide, by decide, by decide, by rfl, by rfl, by rfl, by decide⟩

theorem test_DeliveriesAndMoverErrors_6 : ∃ (s : State) (p addr : Nat),
    s.svc.stopped = none ∧
    p < 4 ∧
    s.portTalks p = true :=
  ⟨up, 0, 0, by (try unfold State.takesCmd); (try unfold State.writable); (try unfold State.opensWrite); (try unfold State.opensRead); decide⟩

theorem test_TriggersTimeoutsAndTimeSteps_1 : ∃ (s : State) (d : StepPlan),
    s.svc.stopped = none ∧
    s.time.decided = some d ∧
    d.delta = none ∧
    d.tick + 1 ≤ s.time.tickNum ∧
    ((d.void = true ∨ s.time.pendingStep = none)) :=
  ⟨{ up with time := { (up).time with tickNum := 9, decided := some { tick := 0, ticket := none, isSet := false } } }, { tick := 0, ticket := none, isSet := false }, by (try unfold State.takesCmd); (try unfold State.writable); (try unfold State.opensWrite); (try unfold State.opensRead); decide⟩

theorem test_TriggersTimeoutsAndTimeSteps_2 : ∃ (s : State) (d : StepPlan) (x : Int),
    s.svc.stopped = none ∧
    s.time.decided = some d ∧
    d.delta = none ∧
    d.tick + 1 ≤ s.time.tickNum ∧
    d.void = false ∧
    s.time.pendingStep = some x ∧
    (s.store.frames.map (·.id)).Nodup :=
  ⟨{ up with time := { (up).time with tickNum := 9, pendingStep := some 5, decided := some { tick := 0, ticket := none, isSet := false } } }, { tick := 0, ticket := none, isSet := false }, 5, by (try unfold State.takesCmd); (try unfold State.writable); (try unfold State.opensWrite); (try unfold State.opensRead); decide⟩

theorem test_TriggersTimeoutsAndTimeSteps_3 : ∃ (s : State) (d : StepPlan) (x : Int),
    s.svc.stopped = none ∧
    s.time.decided = some d ∧
    d.delta = some x ∧
    d.tick + 1 + d.lead ≤ s.time.tickNum :=
  ⟨{ up with time := { (up).time with tickNum := 9, decided := some { tick := 0, ticket := none, isSet := false, delta := some 5 } } }, { tick := 0, ticket := none, isSet := false, delta := some 5 }, 5, by (try unfold State.takesCmd); (try unfold State.writable); (try unfold State.opensWrite); (try unfold State.opensRead); decide⟩

theorem test_TriggersTimeoutsAndTimeSteps_4 : ∃ (s : State) (r st i : Nat) (rest : List Nat),
    s.svc.stopped = none ∧
    s.triggerDue r = true ∧
    s.rigStreams r = [st] ∧
    s.released (.stream st) 2 (s.streamLink st) = true ∧
    (s.stream st).lost = false ∧
    s.store.slotBack = i :: rest ∧
    s.stepNow = none :=
  ⟨{ (setAct ({ (setAct up Reg.ST_CTRL 0 1) with time := { ((setAct up Reg.ST_CTRL 0 1)).time with timers := [(0, { running := true })] } }) Reg.RTMR_NUM 0 1) with store := { ((setAct ({ (setAct up Reg.ST_CTRL 0 1) with time := { ((setAct up Reg.ST_CTRL 0 1)).time with timers := [(0, { running := true })] } }) Reg.RTMR_NUM 0 1)).store with slotBack := [7] } }, 0, 0, 7, [], by (try unfold State.takesCmd); (try unfold State.writable); (try unfold State.opensWrite); (try unfold State.opensRead); decide⟩

theorem test_TriggersTimeoutsAndTimeSteps_5 : ∃ (s : State) (l st : Nat) (p : Pkt) (x : FrameSt),
    s.svc.stopped = none ∧
    s.linkCarries l = true ∧
    p.ptype = 9 ∧
    s.slotStream l p.slot = some st ∧
    s.matchFrame st (leAt p.fields 0 4) = some x ∧
    s.frame? x.id = some x ∧
    x.phase = .opened :=
  ⟨{ (((setAct up Reg.ST_CTRL 0 1)).setHl 0 (fun q => { q with mode := .up })) with store := { ((((setAct up Reg.ST_CTRL 0 1)).setHl 0 (fun q => { q with mode := .up }))).store with frames := [{ id := 0, stream := 0, rig := 0, frame := 0, run := 0, phase := .opened, msPoints := 1, msMask := 1 }] } }, 0, 0, { ptype := 9 }, { id := 0, stream := 0, rig := 0, frame := 0, run := 0, phase := .opened, msPoints := 1, msMask := 1 }, by (try unfold State.takesCmd); (try unfold State.writable); (try unfold State.opensWrite); (try unfold State.opensRead); decide⟩

theorem test_TriggersTimeoutsAndTimeSteps_6 : ∃ (s : State) (st : Nat) (x : FrameSt),
    s.svc.stopped = none ∧
    s.fsLate st = some x ∧
    s.frame? x.id = some x ∧
    x.phase = .opened :=
  ⟨{ { up with time := { (up).time with now := 2 ^ 90 } } with store := { ({ up with time := { (up).time with now := 2 ^ 90 } }).store with frames := [{ id := 0, stream := 0, rig := 0, frame := 0, run := 0, phase := .opened, msPoints := 1, msMask := 1 }] } }, 0, { id := 0, stream := 0, rig := 0, frame := 0, run := 0, phase := .opened, msPoints := 1, msMask := 1 }, by (try unfold State.takesCmd); (try unfold State.writable); (try unfold State.opensWrite); (try unfold State.opensRead); decide⟩

theorem test_TriggersTimeoutsAndTimeSteps_7 : ∃ (s : State) (st c : Nat) (x : FrameSt),
    s.svc.stopped = none ∧
    s.store.frames = [x] ∧
    x.stream = st ∧
    x.phase = .opened ∧
    x.fsAt = some c ∧
    c + usClk (s.actF Reg.ST_FE_WINDOW st 31 0) ≤ s.time.clk :=
  ⟨{ { up with time := { (up).time with clk := 10 ^ 12 } } with store := { ({ up with time := { (up).time with clk := 10 ^ 12 } }).store with frames := [{ id := 0, stream := 0, rig := 0, frame := 0, run := 0, phase := .opened, fsAt := some 0 }] } }, 0, 0, { id := 0, stream := 0, rig := 0, frame := 0, run := 0, phase := .opened, fsAt := some 0 }, by (try unfold State.takesCmd); (try unfold State.writable); (try unfold State.opensWrite); (try unfold State.opensRead); decide⟩

theorem test_FramesAndLinesArrive_1 : ∃ (s : State) (l st : Nat) (p : Pkt) (x : FrameSt),
    s.svc.stopped = none ∧
    s.linkCarries l = true ∧
    p.ptype = 0x10 ∧
    s.slotStream l p.slot = some st ∧
    s.matchFrame st (leAt p.fields 0 4) = some x ∧
    ((∀ g ∈ s.store.frames, g.id = x.id → g = x)) ∧
    x.phase = .triggered :=
  ⟨{ ((setAct up Reg.ST_CTRL 0 1).setHl 0 (fun q => { q with mode := .up })) with store := { (((setAct up Reg.ST_CTRL 0 1).setHl 0 (fun q => { q with mode := .up }))).store with frames := [{ id := 0, stream := 0, rig := 0, frame := 0, run := 0 }] } }, 0, 0, { ptype := 0x10 }, { id := 0, stream := 0, rig := 0, frame := 0, run := 0 }, by (try unfold State.takesCmd); (try unfold State.writable); (try unfold State.opensWrite); (try unfold State.opensRead); decide⟩

theorem test_FramesAndLinesArrive_2 : ∃ (s : State) (l st : Nat) (p : Pkt) (x : FrameSt),
    s.svc.stopped = none ∧
    s.linkCarries l = true ∧
    p.ptype = 0x10 ∧
    s.slotStream l p.slot = some st ∧
    s.matchFrame st (leAt p.fields 0 4) = some x ∧
    x.phase = .opened :=
  ⟨{ ((setAct up Reg.ST_CTRL 0 1).setHl 0 (fun q => { q with mode := .up })) with store := { (((setAct up Reg.ST_CTRL 0 1).setHl 0 (fun q => { q with mode := .up }))).store with frames := [{ id := 0, stream := 0, rig := 0, frame := 0, run := 0, phase := .opened, msPoints := 1, msMask := 1 }] } }, 0, 0, { ptype := 0x10 }, { id := 0, stream := 0, rig := 0, frame := 0, run := 0, phase := .opened, msPoints := 1, msMask := 1 }, by (try unfold State.takesCmd); (try unfold State.writable); (try unfold State.opensWrite); (try unfold State.opensRead); decide⟩

theorem test_FramesAndLinesArrive_3 : ∃ (s : State) (l st : Nat) (p : Pkt) (x : FrameSt),
    s.svc.stopped = none ∧
    s.linkCarries l = true ∧
    p.ptype = 0x11 ∧
    s.slotStream l p.slot = some st ∧
    s.matchFrame st (leAt p.fields 0 4) = some x ∧
    s.frame? x.id = some x ∧
    x.phase = .opened ∧
    leAt p.fields 6 1 = 1 ∧
    p.length = lineBytes x.latch st ∧
    leAt p.fields 4 2 < geomH x.latch st ∧
    x.lines.contains (leAt p.fields 4 2) = false ∧
    (s.stream st).buffered + lineBytes x.latch st ≤ 262144 ∧
    ((∀ k ∈ linePages (lineBytes x.latch st) (leAt p.fields 4 2), x.page? k ≠ none)) :=
  ⟨{ ((setAct up Reg.ST_CTRL 0 1).setHl 0 (fun q => { q with mode := .up })) with store := { (((setAct up Reg.ST_CTRL 0 1).setHl 0 (fun q => { q with mode := .up }))).store with frames := [{ id := 0, stream := 0, rig := 0, frame := 0, run := 0, phase := .opened, pages := [(0, 1)] }] } }, 0, 0, { ptype := 0x11, fields := [0, 0, 0, 0, 0, 0, 1, 0], length := lineBytes [] 0 }, { id := 0, stream := 0, rig := 0, frame := 0, run := 0, phase := .opened, pages := [(0, 1)] }, by (try unfold State.takesCmd); (try unfold State.writable); (try unfold State.opensWrite); (try unfold State.opensRead); decide⟩

theorem test_FramesAndLinesArrive_4 : ∃ (s : State) (l st : Nat) (p : Pkt) (x : FrameSt),
    s.svc.stopped = none ∧
    s.linkCarries l = true ∧
    p.ptype = 0x11 ∧
    s.slotStream l p.slot = some st ∧
    s.matchFrame st (leAt p.fields 0 4) = some x ∧
    s.frame? x.id = some x ∧
    x.phase = .opened ∧
    ((leAt p.fields 6 1 = 0 ∨ p.length ≠ leAt p.fields 6 1 * lineBytes x.latch st)) :=
  ⟨{ ((setAct up Reg.ST_CTRL 0 1).setHl 0 (fun q => { q with mode := .up })) with store := { (((setAct up Reg.ST_CTRL 0 1).setHl 0 (fun q => { q with mode := .up }))).store with frames := [{ id := 0, stream := 0, rig := 0, frame := 0, run := 0, phase := .opened, msPoints := 1, msMask := 1 }] } }, 0, 0, { ptype := 0x11 }, { id := 0, stream := 0, rig := 0, frame := 0, run := 0, phase := .opened, msPoints := 1, msMask := 1 }, by (try unfold State.takesCmd); (try unfold State.writable); (try unfold State.opensWrite); (try unfold State.opensRead); decide⟩

theorem test_FramesAndLinesArrive_5 : ∃ (s : State) (l st : Nat) (p : Pkt) (x : FrameSt),
    s.svc.stopped = none ∧
    s.linkCarries l = true ∧
    p.ptype = 0x12 ∧
    s.slotStream l p.slot = some st ∧
    s.matchFrame st (leAt p.fields 0 4) = some x ∧
    s.frame? x.id = some x ∧
    x.phase = .opened :=
  ⟨{ ((setAct up Reg.ST_CTRL 0 1).setHl 0 (fun q => { q with mode := .up })) with store := { (((setAct up Reg.ST_CTRL 0 1).setHl 0 (fun q => { q with mode := .up }))).store with frames := [{ id := 0, stream := 0, rig := 0, frame := 0, run := 0, phase := .opened, msPoints := 1, msMask := 1 }] } }, 0, 0, { ptype := 0x12 }, { id := 0, stream := 0, rig := 0, frame := 0, run := 0, phase := .opened, msPoints := 1, msMask := 1 }, by (try unfold State.takesCmd); (try unfold State.writable); (try unfold State.opensWrite); (try unfold State.opensRead); decide⟩

theorem test_FramesAndLinesArrive_6 : ∃ (s : State) (u : Nat) (x : LineIn) (f : FrameSt),
    s.svc.stopped = none ∧
    s.unitActive 0x0C u = true ∧
    s.nextLine u = some x ∧
    s.released (.stream x.stream) 3 u = true ∧
    s.frame? x.id = some f :=
  ⟨{ (up.setUnit 12 0 2) with store := { ((up.setUnit 12 0 2)).store with frames := [{ id := 0, stream := 0, rig := 0, frame := 0, run := 0, phase := .opened, msPoints := 1, msMask := 1 }], streams := [(0, { members := [0] })], lbuf := [{ stream := 0, id := 0, line := 0, bytes := [], at_ := 0 }] } }, 0, { stream := 0, id := 0, line := 0, bytes := [], at_ := 0 }, { id := 0, stream := 0, rig := 0, frame := 0, run := 0, phase := .opened, msPoints := 1, msMask := 1 }, by (try unfold State.takesCmd); (try unfold State.writable); (try unfold State.opensWrite); (try unfold State.opensRead); decide⟩

theorem test_FramesCloseSealAndFree_1 : ∃ (s : State) (st : Nat) (f : FrameSt),
    s.svc.stopped = none ∧
    s.closable st = some f ∧
    ((∀ g ∈ s.store.frames, g.id = f.id → g = f)) :=
  ⟨{ { up with time := { (up).time with tickNum := 9 } } with store := { ({ up with time := { (up).time with tickNum := 9 } }).store with frames := [{ id := 0, stream := 0, rig := 0, frame := 0, run := 0, phase := .ended }] } }, 0, { id := 0, stream := 0, rig := 0, frame := 0, run := 0, phase := .ended }, by (try unfold State.takesCmd); (try unfold State.writable); (try unfold State.opensWrite); (try unfold State.opensRead); decide⟩

theorem test_FramesCloseSealAndFree_2 : ∃ (s : State) (e i : Nat) (f : FrameSt),
    s.svc.stopped = none ∧
    s.unitActive 0x0D e = true ∧
    s.dev.mode = .operational ∧
    s.pageOwed e = some (f, i) ∧
    s.frame? f.id = some f ∧
    ((s.hasResv (.seal f.stream) = true → f.pageBytes i ≤ s.jobLeft (.seal f.stream) 4 e)) :=
  ⟨{ (up.setUnit 13 0 2) with store := { ((up.setUnit 13 0 2)).store with frames := [{ id := 0, stream := 0, rig := 0, frame := 0, run := 0, phase := .closed, hold := { sealing := true }, take := some 4 }] } }, 0, 0, { id := 0, stream := 0, rig := 0, frame := 0, run := 0, phase := .closed, hold := { sealing := true }, take := some 4 }, by (try unfold State.takesCmd); (try unfold State.writable); (try unfold State.opensWrite); (try unfold State.opensRead); decide⟩

theorem test_FramesCloseSealAndFree_3 : ∃ (s : State) (st : Nat) (f : FrameSt) (k : Take),
    s.svc.stopped = none ∧
    s.dev.mode = .operational ∧
    s.sealable st = some (f, k) ∧
    ((∀ g ∈ s.store.frames, g.id = f.id → g = f)) ∧
    s.store.recovery = none ∧
    s.store.queued = [] :=
  ⟨{ { up with takes := { (up).takes with takes := [{ id := 4, rig := 0, burst := false, seq := 1, secs := 0, first := 0, live := 0, started := true, streams := [0] }] } } with store := { ({ up with takes := { (up).takes with takes := [{ id := 4, rig := 0, burst := false, seq := 1, secs := 0, first := 0, live := 0, started := true, streams := [0] }] } }).store with frames := [{ id := 0, stream := 0, rig := 0, frame := 0, run := 0, phase := .closed, hold := { sealing := true }, take := some 4, digests := [(0, [0])] }] } }, 0, { id := 0, stream := 0, rig := 0, frame := 0, run := 0, phase := .closed, hold := { sealing := true }, take := some 4, digests := [(0, [0])] }, { id := 4, rig := 0, burst := false, seq := 1, secs := 0, first := 0, live := 0, started := true, streams := [0] }, by (try unfold State.takesCmd); (try unfold State.writable); (try unfold State.opensWrite); (try unfold State.opensRead); decide⟩

theorem test_FramesCloseSealAndFree_4 : ∃ (s : State),
    s.svc.stopped = none ∧
    s.store.recovery = none :=
  ⟨up, by (try unfold State.takesCmd); (try unfold State.writable); (try unfold State.opensWrite); (try unfold State.opensRead); decide⟩

theorem test_FramesCloseSealAndFree_5 : ∃ (s u : State) (st p : Nat),
    s.svc.stopped = none ∧
    s.streamOn st = true ∧
    (s.stream st).cache.length ≤ 16 ∧
    (s.stream st).stopping = false ∧
    s.allocPage = some (p, u) :=
  ⟨{ ((setAct up Reg.ST_CTRL 0 1).setUnit 15 0 2) with store := { (((setAct up Reg.ST_CTRL 0 1).setUnit 15 0 2)).store with ready := true, pcs := [(0, { fresh := 1 })] } }, _, 0, 128, by decide, by decide, by decide, by decide, rfl⟩

theorem test_SpillWindows_1 : ∃ (s : State) (f : FrameSt) (w : Nat),
    s.svc.stopped = none ∧
    bit (s.act Reg.STORE_CTRL) 1 = true ∧
    s.store.recovery = none ∧
    s.spillNext = some (f, w) ∧
    s.frame? f.id = some f :=
  ⟨{ (setAct (setAct (setAct up Reg.STORE_CTRL 0 2) Reg.SPW_CTRL 0 1) Reg.SPW_PAGES 0 32) with store := { ((setAct (setAct (setAct up Reg.STORE_CTRL 0 2) Reg.SPW_CTRL 0 1) Reg.SPW_PAGES 0 32)).store with belowSpill := true, frames := [{ id := 0, stream := 0, rig := 0, frame := 0, run := 0, phase := .closed, hold := { subs := [0] } }] } }, { id := 0, stream := 0, rig := 0, frame := 0, run := 0, phase := .closed, hold := { subs := [0] } }, 0, by (try unfold State.takesCmd); (try unfold State.writable); (try unfold State.opensWrite); (try unfold State.opensRead); decide⟩

theorem test_SpillWindows_2 : ∃ (s : State) (w v : Nat) (ps : List Nat) (x : SpillOp) (f : FrameSt),
    s.svc.stopped = none ∧
    s.mover.spills.find? (fun x => decide (x.window = w) && x.reading) = some x ∧
    s.frame? x.id = some f ∧
    f.loc = .pagingOut v ps :=
  ⟨({ { up with store := { (up).store with frames := [{ id := 0, stream := 0, rig := 0, frame := 0, run := 0, phase := .closed, loc := .pagingOut 0 [0, 1] }] } } with mover := { up.mover with spills := [{ id := 0, window := 0, left := 0, reading := true }] } }), 0, 0, [0, 1], { id := 0, window := 0, left := 0, reading := true }, { id := 0, stream := 0, rig := 0, frame := 0, run := 0, phase := .closed, loc := .pagingOut 0 [0, 1] }, by (try unfold State.takesCmd); (try unfold State.writable); (try unfold State.opensWrite); (try unfold State.opensRead); decide⟩

theorem test_SpillWindows_3 : ∃ (s : State) (w v : Nat) (ps : List Nat) (x : SpillOp) (f : FrameSt),
    s.svc.stopped = none ∧
    s.mover.spills.find? (fun x => decide (x.window = w)) = some x ∧
    s.frame? x.id = some f ∧
    f.loc = .pagingOut v ps :=
  ⟨({ { up with store := { (up).store with frames := [{ id := 0, stream := 0, rig := 0, frame := 0, run := 0, phase := .closed, loc := .pagingOut 0 [0, 1] }] } } with mover := { up.mover with spills := [{ id := 0, window := 0, left := 0, reading := false }] } }), 0, 0, [0, 1], { id := 0, window := 0, left := 0, reading := false }, { id := 0, stream := 0, rig := 0, frame := 0, run := 0, phase := .closed, loc := .pagingOut 0 [0, 1] }, by (try unfold State.takesCmd); (try unfold State.writable); (try unfold State.opensWrite); (try unfold State.opensRead); decide⟩

theorem test_SpillWindows_4 : ∃ (s u : State) (w : Nat) (ps got : List Nat) (data : List Byte) (f : FrameSt),
    s.svc.stopped = none ∧
    (s.spw w).old.isSome = true ∧
    (s.spilledIn w).head? = some f ∧
    s.frame? f.id = some f ∧
    f.loc = .spilled w ps ∧
    s.takePages (framePages f.latch f.stream) [] = some (got, u) :=
  ⟨{ (up.setUnit 15 0 2) with store := { ((up.setUnit 15 0 2)).store with ready := true, frames := [{ id := 0, stream := 0, rig := 0, frame := 0, run := 0, phase := .closed, loc := .spilled 0 [0] }], spws := [(0, { used := [0], old := some (0, 0) })], pcs := [(0, { fresh := 1 })] } }, _, 0, [0], _, [], { id := 0, stream := 0, rig := 0, frame := 0, run := 0, phase := .closed, loc := .spilled 0 [0] }, by decide, by decide, by rfl, by decide, by decide, rfl⟩

theorem test_BoundariesOfTicksAndUnits_1 : ∃ s : State,
    s.svc.stopped = none ∧
    s.time.tickEnd ≤ s.time.now :=
  ⟨{ up with time := { (up).time with now := 2 ^ 90 } }, by (try unfold State.takesCmd); (try unfold State.writable); (try unfold State.opensWrite); (try unfold State.opensRead); decide⟩

theorem test_BoundariesOfTicksAndUnits_2 : ∃ (s : State) (e : UnitDue),
    s.svc.stopped = none ∧
    s.recovering 2 = false ∧
    s.svc.due.filter (fun e => decide (e.tick ≤ s.time.tickNum)) = [e] ∧
    e.kind ≠ 4 ∧
    e.index < 256 ∧
    e.to_ = 3 ∧
    s.unitCode e.kind e.index = 2 ∧
    e.spare = none :=
  ⟨{ (up.setUnit 12 3 2) with svc := { ((up.setUnit 12 3 2)).svc with due := [{ tick := 0, kind := 12, index := 3, to_ := 3, spare := none, ticket := none }] } }, { tick := 0, kind := 12, index := 3, to_ := 3, spare := none, ticket := none }, by (try unfold State.takesCmd); (try unfold State.writable); (try unfold State.opensWrite); (try unfold State.opensRead); decide⟩

theorem test_BoundariesOfTicksAndUnits_3 : ∃ (s : State) (e : UnitDue),
    s.svc.stopped = none ∧
    s.recovering 2 = false ∧
    s.svc.due.filter (fun e => decide (e.tick ≤ s.time.tickNum)) = [e] ∧
    e.kind ≠ 4 ∧
    e.index < 256 ∧
    e.to_ = 3 ∧
    s.unitCode e.kind e.index = 2 ∧
    ((∃ j, e.spare = some j ∧ j ≠ e.index ∧ j < 256 ∧ s.unitCode e.kind j = 1)) :=
  ⟨{ ((up.setUnit 12 3 2).setUnit 12 4 1) with svc := { (((up.setUnit 12 3 2).setUnit 12 4 1)).svc with due := [{ tick := 0, kind := 12, index := 3, to_ := 3, spare := some 4, ticket := none }] } }, { tick := 0, kind := 12, index := 3, to_ := 3, spare := some 4, ticket := none }, by decide, by decide, by decide, by decide, by decide, by decide, by decide, ⟨4, by decide⟩⟩

theorem test_BoundariesOfTicksAndUnits_4 : ∃ (s : State) (e : UnitDue),
    s.svc.stopped = none ∧
    s.recovering 2 = false ∧
    s.svc.due.filter (fun e => decide (e.tick ≤ s.time.tickNum)) = [e] ∧
    e.kind ≠ 4 ∧
    e.index < 256 ∧
    e.to_ = 0 ∧
    s.slotDue e = false ∧
    s.unitCode e.kind e.index = 1 :=
  ⟨{ (up.setUnit 12 3 1) with svc := { ((up.setUnit 12 3 1)).svc with due := [{ tick := 0, kind := 12, index := 3, to_ := 0, ticket := none }] } }, { tick := 0, kind := 12, index := 3, to_ := 0, ticket := none }, by (try unfold State.takesCmd); (try unfold State.writable); (try unfold State.opensWrite); (try unfold State.opensRead); decide⟩

theorem test_BoundariesOfTicksAndUnits_5 : ∃ (s : State) (e : UnitDue),
    s.svc.stopped = none ∧
    s.recovering 2 = false ∧
    s.svc.due.filter (fun e => decide (e.tick ≤ s.time.tickNum)) = [e] ∧
    e.kind ≠ 4 ∧
    e.kind ≠ 7 ∧
    e.index < 256 ∧
    ((e.to_ = 1 ∨ e.to_ = 2)) ∧
    e.spare = none ∧
    s.unitCode e.kind e.index = 0 :=
  ⟨{ (up.setUnit 12 3 0) with svc := { ((up.setUnit 12 3 0)).svc with due := [{ tick := 0, kind := 12, index := 3, to_ := 1, spare := none, ticket := none }] } }, { tick := 0, kind := 12, index := 3, to_ := 1, spare := none, ticket := none }, by (try unfold State.takesCmd); (try unfold State.writable); (try unfold State.opensWrite); (try unfold State.opensRead); decide⟩

theorem test_BoundariesOfTicksAndUnits_6 : ∃ (s : State) (kind j : Nat) (w : Nat × Nat × Nat),
    s.svc.stopped = none ∧
    bit (s.act Reg.SVC_CTRL) 0 = true ∧
    s.recovering 2 = false ∧
    s.svc.replace.find? (fun e => decide (e.1 = kind) && decide (e.2.1 < s.time.tickNum)) = some w ∧
    s.svc.tests = [] ∧
    (sortNat (s.unitsIn kind 1)).head? = some j :=
  ⟨{ (setAct (up.setUnit 12 3 1) Reg.SVC_CTRL 0 1) with svc := { (up.setUnit 12 3 1).svc with replace := [(12, 0, 2)] }, time := { up.time with tickNum := 9 } }, 12, 3, (12, 0, 2), by (try unfold State.takesCmd); (try unfold State.writable); (try unfold State.opensWrite); (try unfold State.opensRead); decide⟩

theorem test_RecordingAdvances_1 : ∃ (s : State) (r n : Nat) (t : Take) (f : FrameSt) (g : Seg),
    s.svc.stopped = none ∧
    s.dev.mode = .operational ∧
    (s.recTakes r).findSome? (fun t => if (s.rec_ t.id).emerg.isSome then none else (s.placeable t).map (fun f => (t, f))) = some (t, f) ∧
    s.segFor t.id f.frame = some g ∧
    s.seg? g.id = some g ∧
    s.setFailing g.set = false ∧
    s.frame? f.id = some f ∧
    n = 1 + ceilDiv (frameBytes f.latch f.stream) 4096 ∧
    ((ceilDiv (g.pos + n) (claimBlocks s.magSet g.set) ≤ ceilDiv g.pos (claimBlocks s.magSet g.set) ∨ (s.setExhausted g.set = false ∧ (if g.opened then g.firstClaim else s.setUsed g.set) + ceilDiv (g.pos + n) (claimBlocks s.magSet g.set) ≤ s.setClaims g.set))) :=
  ⟨{ { (relaying up) with takes := { ((relaying up)).takes with takes := [{ id := 4, rig := 0, burst := false, seq := 1, secs := 0, first := 0, live := 0, started := true, streams := [0] }] }, mag := { ((relaying up)).mag with segs := [{ id := 0, take := 4, rig := 0, number := 0, set := 0, opened := true }], nextSeg := 1, recs := Tab.put {} [] 4 { rig := 0, set := some 0, seg := some 0, nextSeg := 1 } } } with store := { ({ (relaying up) with takes := { ((relaying up)).takes with takes := [{ id := 4, rig := 0, burst := false, seq := 1, secs := 0, first := 0, live := 0, started := true, streams := [0] }] }, mag := { ((relaying up)).mag with segs := [{ id := 0, take := 4, rig := 0, number := 0, set := 0, opened := true }], nextSeg := 1, recs := Tab.put {} [] 4 { rig := 0, set := some 0, seg := some 0, nextSeg := 1 } } }).store with frames := [{ id := 0, stream := 0, rig := 0, frame := 0, run := 0, phase := .closed, sealed := true, hold := { record := true }, take := some 4 }] } }, 0, 2, { id := 4, rig := 0, burst := false, seq := 1, secs := 0, first := 0, live := 0, started := true, streams := [0] }, { id := 0, stream := 0, rig := 0, frame := 0, run := 0, phase := .closed, sealed := true, hold := { record := true }, take := some 4 }, { id := 0, take := 4, rig := 0, number := 0, set := 0, opened := true }, by (try unfold State.takesCmd); (try unfold State.writable); (try unfold State.opensWrite); (try unfold State.opensRead); decide⟩

theorem test_RecordingAdvances_2 : ∃ (s : State) (m lba n : Nat) (ds : List Nat) (g : Seg),
    s.svc.stopped = none ∧
    s.dev.mode = .operational ∧
    s.segOn m = some g ∧
    s.seg? g.id = some g ∧
    g.stage = 0 ∧
    g.endKind ≠ 3 ∧
    s.setFailing m = false ∧
    s.nextPiece g = (lba, n, ds) ∧
    0 < n ∧
    ((∀ d, s.writesOut d < 56)) ∧
    ((g.ckpt = 1 ∨ ((256 - g.written % 256 ≤ g.pos - g.written ∨ s.chunkAged g = true) ∧ ∀ d ∈ ds, n ≤ s.granted g d n))) :=
  ⟨{ (relaying up) with takes := { ((relaying up)).takes with takes := [{ id := 4, rig := 0, burst := false, seq := 1, secs := 0, first := 0, live := 0, started := true, streams := [0] }] }, mag := { ((relaying up)).mag with segs := [{ id := 0, take := 4, rig := 0, number := 0, set := 0, opened := true, pos := 256 }], nextSeg := 1, recs := Tab.put {} [] 4 { rig := 0, set := some 0, seg := some 0, nextSeg := 1 } } }, 0, _, 256, _, { id := 0, take := 4, rig := 0, number := 0, set := 0, opened := true, pos := 256 }, by decide, by decide, by decide, by decide, by decide, by decide, by decide, rfl, by decide, by intro d; show 0 < 56; decide, Or.inr ⟨by decide, by decide⟩⟩

theorem test_RecordingAdvances_3 : ∃ (s : State) (m : Nat) (g : Seg),
    s.svc.stopped = none ∧
    s.dev.mode = .operational ∧
    s.segOn m = some g ∧
    s.seg? g.id = some g ∧
    g.stage = 0 ∧
    g.ckpt = 0 ∧
    s.setFailing m = false ∧
    (g.ckptTick - (s.rec_ g.take).tick0) / ceilDiv (s.actF Reg.MB_CTRL 0 23 10 * 1000000) s.period < (s.time.tickNum - (s.rec_ g.take).tick0) / ceilDiv (s.actF Reg.MB_CTRL 0 23 10 * 1000000) s.period :=
  ⟨{ { (relaying up) with takes := { ((relaying up)).takes with takes := [{ id := 4, rig := 0, burst := false, seq := 1, secs := 0, first := 0, live := 0, started := true, streams := [0] }] }, mag := { ((relaying up)).mag with segs := [{ id := 0, take := 4, rig := 0, number := 0, set := 0, opened := true }], nextSeg := 1, recs := Tab.put {} [] 4 { rig := 0, set := some 0, seg := some 0, nextSeg := 1 } } } with time := { up.time with tickNum := 2 ^ 40 } }, 0, { id := 0, take := 4, rig := 0, number := 0, set := 0, opened := true }, by (try unfold State.takesCmd); (try unfold State.writable); (try unfold State.opensWrite); (try unfold State.opensRead); decide⟩

theorem test_RecordingAdvances_4 : ∃ (s : State) (m : Nat) (g : Seg) (t : Take),
    s.svc.stopped = none ∧
    s.dev.mode = .operational ∧
    s.mag.segs.find? (fun g => decide (g.set = m) && decide (g.stage = 0) && g.below.isSome) = some g ∧
    s.seg? g.id = some g ∧
    s.take? g.take = some t ∧
    ((∀ f ∈ s.store.frames, (s.rec_ g.take).owes g.take f = true → g.below.getD 0 ≤ f.frame)) ∧
    ((∀ n, s.firstUnwritten t = some n → g.below.getD 0 ≤ n)) ∧
    g.ckpt = 0 ∧
    s.setFailing m = false :=
  ⟨{ (relaying up) with takes := { ((relaying up)).takes with takes := [{ id := 4, rig := 0, burst := false, seq := 1, secs := 0, first := 0, live := 0, started := true, streams := [0] }] }, mag := { ((relaying up)).mag with segs := [{ id := 0, take := 4, rig := 0, number := 0, set := 0, opened := true, below := some 3 }], nextSeg := 1, recs := Tab.put {} [] 4 { rig := 0, set := some 0, seg := some 0, nextSeg := 1 } } }, 0, { id := 0, take := 4, rig := 0, number := 0, set := 0, opened := true, below := some 3 }, { id := 4, rig := 0, burst := false, seq := 1, secs := 0, first := 0, live := 0, started := true, streams := [0] }, by decide, by decide, by decide, by decide, by decide, by decide, (fun n h => nomatch (show none = some n from h)), by decide, by decide⟩

theorem test_RecordingAdvances_5 : ∃ (s : State) (r id : Nat) (t : Take) (g : Seg),
    s.svc.stopped = none ∧
    s.dev.mode = .operational ∧
    (s.recTakes r).find? (fun t => t.last.isSome && !(s.rec_ t.id).closed) = some t ∧
    (((s.timer r).running = false ∨ t.last.getD 0 < (s.timer r).next ∨ s.rigMode r = .idle)) ∧
    ((∀ f ∈ s.store.frames, (s.rec_ t.id).owes t.id f = false)) ∧
    s.firstUnwritten t = none ∧
    (s.rec_ t.id).relay = none ∧
    (s.rec_ t.id).emerg = none ∧
    (s.rec_ t.id).seg = some id ∧
    s.seg? id = some g ∧
    ((∀ g ∈ s.mag.segs, g.take = t.id → g.ckpt = 0 ∧ s.setFailing g.set = false ∧ (7 ≤ g.stage ∨ g.id = id))) :=
  ⟨{ (relaying up) with takes := { ((relaying up)).takes with takes := [{ id := 4, rig := 0, burst := false, seq := 1, secs := 0, first := 0, live := 0, last := some 5, started := true, streams := [0] }] }, mag := { ((relaying up)).mag with segs := [{ id := 0, take := 4, rig := 0, number := 0, set := 0, opened := true }], nextSeg := 1, recs := Tab.put {} [] 4 { rig := 0, set := some 0, seg := some 0, nextSeg := 1 } } }, 0, 0, { id := 4, rig := 0, burst := false, seq := 1, secs := 0, first := 0, live := 0, last := some 5, started := true, streams := [0] }, { id := 0, take := 4, rig := 0, number := 0, set := 0, opened := true }, by (try unfold State.takesCmd); (try unfold State.writable); (try unfold State.opensWrite); (try unfold State.opensRead); decide⟩

theorem test_RecordingAdvances_6 : ∃ (s : State) (r n id : Nat) (t : Take) (x : Relay) (g : Seg),
    s.svc.stopped = none ∧
    s.recTakes r = [t] ∧
    (s.rec_ t.id).relay = some x ∧
    x.tick ≤ s.time.tickNum ∧
    s.takeEndDue r = false ∧
    (s.rec_ t.id).seg = some id ∧
    s.seg? id = some g ∧
    ((∀ g ∈ s.mag.segs, g.id ≠ s.mag.nextSeg)) ∧
    n = s.firstAt r (s.time.tickStart / 2 ^ 32 : Nat) :=
  ⟨{ (relaying up) with takes := { ((relaying up)).takes with takes := [{ id := 4, rig := 0, burst := false, seq := 1, secs := 0, first := 0, live := 0, started := true, streams := [0] }] }, mag := { ((relaying up)).mag with segs := [{ id := 0, take := 4, rig := 0, number := 0, set := 0, opened := true }], nextSeg := 1, recs := Tab.put {} [] 4 { rig := 0, set := some 0, seg := some 0, nextSeg := 1, relay := some { reason := 0, set := 1, entry := 1, tick := 0 } } } }, 0, 0, 0, { id := 4, rig := 0, burst := false, seq := 1, secs := 0, first := 0, live := 0, started := true, streams := [0] }, { reason := 0, set := 1, entry := 1, tick := 0 }, { id := 0, take := 4, rig := 0, number := 0, set := 0, opened := true }, by (try unfold State.takesCmd); (try unfold State.writable); (try unfold State.opensWrite); (try unfold State.opensRead); decide⟩

theorem test_DrivesFailAndMagazinesLeave_1 : ∃ (s : State) (d : Nat),
    s.svc.stopped = none ∧
    (s.drive d).failDue = true ∧
    ((∀ t ∈ s.takes.takes, t.closed = true)) :=
  ⟨(up.setDrive 0 (fun q => { q with mode := .failed, failDue := true })), 0, by (try unfold State.takesCmd); (try unfold State.writable); (try unfold State.opensWrite); (try unfold State.opensRead); decide⟩

theorem test_DrivesFailAndMagazinesLeave_2 : ∃ (s : State) (d m : Nat) (t : Take),
    s.svc.stopped = none ∧
    (s.drive d).failDue = true ∧
    s.setsOf d = [m] ∧
    s.takes.takes = [t] ∧
    t.closed = false ∧
    (s.rec_ t.id).relay = none ∧
    (s.rec_ t.id).emerg = none ∧
    ((∃ g ∈ s.mag.segs, g.take = t.id ∧ g.set = m ∧ g.stage < 7)) ∧
    s.ridesOut m = true :=
  ⟨(((((setAct { (relaying up) with takes := { ((relaying up)).takes with takes := [{ id := 4, rig := 0, burst := false, seq := 1, secs := 0, first := 0, live := 0, started := true, streams := [0] }] }, mag := { ((relaying up)).mag with segs := [{ id := 0, take := 4, rig := 0, number := 0, set := 0, opened := true }], nextSeg := 1, recs := Tab.put {} [] 4 { rig := 0, set := some 0, seg := some 0, nextSeg := 1 } } } Reg.MSET_CTRL 0 0xF0011).setDrive 1 (fun q => { q with mode := .inUse })).setDrive 2 (fun q => { q with mode := .inUse })).setDrive 3 (fun q => { q with mode := .inUse })).setDrive 0 (fun q => { q with mode := .failed, failDue := true })), 0, 0, { id := 4, rig := 0, burst := false, seq := 1, secs := 0, first := 0, live := 0, started := true, streams := [0] }, by decide, by decide, by decide, by rfl, by decide, by decide, by decide, ⟨{ id := 0, take := 4, rig := 0, number := 0, set := 0, opened := true }, by decide⟩, by decide⟩

theorem test_DrivesFailAndMagazinesLeave_3 : ∃ (s : State) (b : Nat),
    s.svc.stopped = none ∧
    (s.bay b).present = true ∧
    ((∀ t ∈ s.takes.takes, t.closed = true)) :=
  ⟨(up.setBay 0 (fun q => { q with mode := .ready, present := true })), 0, by (try unfold State.takesCmd); (try unfold State.writable); (try unfold State.opensWrite); (try unfold State.opensRead); decide⟩

theorem test_DrivesFailAndMagazinesLeave_4 : ∃ (s : State) (b : Nat),
    s.svc.stopped = none ∧
    (s.bay b).mode = .ready ∧
    (s.bay b).released = false :=
  ⟨(up.setBay 0 (fun q => { q with mode := .ready })), 0, by (try unfold State.takesCmd); (try unfold State.writable); (try unfold State.opensWrite); (try unfold State.opensRead); decide⟩

theorem test_DrivesFailAndMagazinesLeave_5 : ∃ (s : State) (b : Nat),
    s.svc.stopped = none ∧
    (s.bay b).mode = .inUse ∧
    bit (s.act Reg.BAY_CTRL b) 1 = false :=
  ⟨((setAct up Reg.BAY_CTRL 0 0).setBay 0 (fun q => { q with mode := .inUse })), 0, by (try unfold State.takesCmd); (try unfold State.writable); (try unfold State.opensWrite); (try unfold State.opensRead); decide⟩

theorem test_DrivesFailAndMagazinesLeave_6 : ∃ (s : State) (b : Nat),
    s.svc.stopped = none ∧
    (s.bay b).mode = .inUse ∧
    bit (s.act Reg.BAY_CTRL b) 1 = true ∧
    ((∀ t, s.bayTake b = some t → (s.rec_ t.id).relay.isSome = true)) :=
  ⟨((setAct up Reg.BAY_CTRL 0 2).setBay 0 (fun q => { q with mode := .inUse })), 0, by decide, by decide, by decide, (fun t h => nomatch (show none = some t from h))⟩

theorem test_DrivesFailAndMagazinesLeave_7 : ∃ (s : State) (b : Nat),
    s.svc.stopped = none :=
  ⟨up, 0, by (try unfold State.takesCmd); (try unfold State.writable); (try unfold State.opensWrite); (try unfold State.opensRead); decide⟩

theorem test_DrivesFailAndMagazinesLeave_8 : ∃ (s : State) (m : Nat) (g : Seg),
    s.svc.stopped = none ∧
    s.dev.mode = .zeroized ∧
    s.segOn m = some g ∧
    s.seg? g.id = some g ∧
    g.stage < 5 ∧
    ((∀ c ∈ s.mag.cmds, (setDrives s.magSet m).contains c.slot = false)) :=
  ⟨{ { (relaying up) with takes := { ((relaying up)).takes with takes := [{ id := 4, rig := 0, burst := false, seq := 1, secs := 0, first := 0, live := 0, started := true, streams := [0] }] }, mag := { ((relaying up)).mag with segs := [{ id := 0, take := 4, rig := 0, number := 0, set := 0, opened := true }], nextSeg := 1, recs := Tab.put {} [] 4 { rig := 0, set := some 0, seg := some 0, nextSeg := 1 } } } with dev := { up.dev with mode := .zeroized } }, 0, { id := 0, take := 4, rig := 0, number := 0, set := 0, opened := true }, by (try unfold State.takesCmd); (try unfold State.writable); (try unfold State.opensWrite); (try unfold State.opensRead); decide⟩

end Sys2Proof.Tests
end

/-! SUPPORT. The state after reset. -/

namespace Sys2Proof.Machine

/-- Settles O5: the frame store, the heap and the queue are empty at reset. -/
theorem resetMemoryIsCanonical : Obligations.ResetMemoryIsCanonical := ⟨rfl, rfl, rfl⟩

end Sys2Proof.Machine

/-! SUPPORT. What a port's write comes to: at a register's own offset by the register's half, of a bad size, and through aliases
(R11, R12, R15, R17, R546). -/

namespace Sys2Proof.Machine

/-! ### What an access leaves alone -/

/-- Whether a central unit holds a register depends on the recoveries and the tick number alone. -/
theorem State.areaHeld_congr {s t : State} (hr : t.svc.recov = s.svc.recov) (ht : t.time = s.time) (off : Nat) :
    t.areaHeld off = s.areaHeld off := by
  unfold State.areaHeld
  rw [hr, ht]

theorem State.storeBits_areaHeld (s : State) (r : RegRow) (i j : Nat) (v : Word) (off : Nat) :
    (s.storeBits r i j v).areaHeld off = s.areaHeld off := by
  have h := s.storeBits_keeps r i j v
  exact State.areaHeld_congr (congrArg (·.recov) (h.same .svc rfl)) (h.same .time rfl) off

theorem State.wakePort_members (s : State) (p w : Nat) (g : Option Nat) : (s.wakePort p).members w g = s.members w g := by
  unfold State.members State.reg
  rw [State.wakePort_cur]

/-! ### What a write does once it reaches its register -/

theorem State.regAct_whole (s : State) (p : Nat) (r : RegRow) (i j addr : Nat) (v : Word) (hh : r.half = .whole)
    (hx : ∀ x ∈ actingRows, r.is x = false) : s.regAct p r i j addr v = s.storeBits r i j v := by
  unfold State.regAct
  rw [hh]
  exact State.wordAct_plain _ _ _ _ _ _ _ hx

theorem State.regAct_lo (s : State) (p : Nat) (r : RegRow) (i j addr : Nat) (v : Word) (hh : r.half = .lo)
    (hw : r.rw ||| r.rwi ≠ 0) :
    s.regAct p r i j addr v = s.setPort p (fun q => { q with heldLo := q.heldLo.put 0 addr v }) := by
  unfold State.regAct
  rw [hh]
  exact if_neg hw

theorem State.regAct_hi (s : State) (p : Nat) (r : RegRow) (i j addr : Nat) (v : Word) (hh : r.half = .hi)
    (hw : r.rw ||| r.rwi ≠ 0) (hx : ∀ x ∈ actingPairs, r.is x = false) :
    s.regAct p r i j addr v
      = (s.storeBits (r.partner i j) i j ((s.port p).heldLo.get 0 (addr - 4))).storeBits r i j v := by
  have g : ∀ x ∈ actingPairs, ¬(r.is x = true) := fun x hm c => by rw [hx x hm] at c; cases c
  have hp : s.regAct p r i j addr v = s.pairAct r i j ((s.port p).heldLo.get 0 (addr - 4)) v := by
    unfold State.regAct
    rw [hh]
    exact if_neg hw
  rw [hp]
  unfold State.pairAct
  rw [if_neg (g Reg.RING_BASE_HI (by simp [actingPairs])), if_neg (g Reg.TCMP_TARGET_HI (by simp [actingPairs])),
    if_neg (g Reg.CMP_TARGET_HI (by simp [actingPairs])), if_neg (g Reg.MCH_SET_POS_HI (by simp [actingPairs]))]

/-! ### A port's write -/

/-- A write at a register's own offset that nothing stops acts on the register in the state that the access leaves. -/
theorem State.busWrite_reg (s : State) (p off i j : Nat) (r : RegRow) (v : Word) (ho : s.opensWrite p off)
    (hal : aliasAt off = none) (hf : findReg off = some (r, i, j)) (ha : s.areaHeld off = false)
    (he : r.win = 1 → s.portExists i = true) :
    ∃ w, s.busWrite p off 4 v = (s.afterAccess p w).regAct p r i j off v := by
  have haddr := (findReg_addr hf).1
  obtain ⟨u, hu, w, rfl⟩ := s.wakePort_writable_reg p r i j off v (by rw [haddr]; exact ha) he
  have hw : (s.wakePort p).writeAt p off v = (s.wakePort p).regWrite p r i j off v := by
    unfold State.writeAt
    rw [hal, hf]
  exact ⟨w, by rw [State.busWrite_reaches _ _ _ _ ho, hw, hu]; rfl⟩

/-- A write of another size or alignment is flagged and does no more (R11). -/
theorem State.busWrite_badSize (s : State) (p off n : Nat) (v : Word) (ht : s.portTalks p = true) (h : n ≠ 4 ∨ off % 4 ≠ 0) :
    s.busWrite p off n v = (s.wakePort p).accFlag p accBadSize off := by
  unfold State.busWrite
  rw [if_pos h]
  exact if_pos (by rw [State.wakePort_portTalks]; exact ht)

/-! ### Writes through aliases -/

/-- What a write through aliases, at `off`, does to the register of one member, if the member has one there (R546). -/
def State.memberWrite (s : State) (p off : Nat) (v : Word) (m : Option (RegRow × Nat × Nat)) : State :=
  match m with
  | some (r, i, j) => s.regWrite p r i j off v
  | none => s

/-- The register of a member only stores what is written, and no recovering unit holds it. -/
def State.plainMember (s : State) (m : Option (RegRow × Nat × Nat)) : Prop :=
  ∀ r i j, m = some (r, i, j) → r.half = .whole ∧ (∀ x ∈ actingRows, r.is x = false) ∧ s.areaHeld (r.addr i j) = false

theorem State.busWrite_alias (s : State) (p off w o : Nat) (g : Option Nat) (v : Word) (ho : s.opensWrite p off)
    (hal : aliasAt off = some (w, g, o)) :
    s.busWrite p off 4 v = (s.members w g).foldl (fun u n => u.memberWrite p off v (memberReg w n o)) (s.wakePort p) := by
  rw [State.busWrite_reaches _ _ _ _ ho, ← s.wakePort_members p w g]
  unfold State.writeAt
  rw [hal]
  refine congrArg (fun f => List.foldl f (s.wakePort p) ((s.wakePort p).members w g)) (funext fun u => funext fun n => ?_)
  generalize memberReg w n o = m
  obtain _ | ⟨r, i, j⟩ := m <;> rfl

/-- A write of a register that only stores it wakes its unit and stores the word. -/
theorem State.regWrite_plain (s : State) (p : Nat) (r : RegRow) (i j addr : Nat) (v : Word) (hw : r.win ≠ 1)
    (ha : s.areaHeld (r.addr i j) = false) (hh : r.half = .whole) (hx : ∀ x ∈ actingRows, r.is x = false) :
    ∃ k, s.regWrite p r i j addr v = ({ s with svc := { s.svc with woken := k } } : State).storeBits r i j v := by
  obtain ⟨k, hk⟩ := wakeUnit_if s (r.addr i j) (r.fields ≠ 0)
  refine ⟨k, ?_⟩
  unfold State.regWrite
  rw [if_neg (fun c => hw c.1), if_neg (fun c => by rw [ha] at c; cases c.1), hk,
    State.regAct_whole _ _ _ _ _ _ _ hh hx]

/-- A write of a member leaves which registers are held. -/
theorem State.memberWrite_areaHeld (s : State) (p off : Nat) (v : Word) {m : Option (RegRow × Nat × Nat)}
    (hw : ∀ r i j, m = some (r, i, j) → r.win ≠ 1) (hs : s.plainMember m) (a : Nat) :
    (s.memberWrite p off v m).areaHeld a = s.areaHeld a := by
  match m with
  | none => rfl
  | some (r, i, j) =>
    obtain ⟨hh, hx, ha⟩ := hs r i j rfl
    obtain ⟨k, hk⟩ := s.regWrite_plain p r i j off v (hw r i j rfl) ha hh hx
    show (s.regWrite p r i j off v).areaHeld a = _
    rw [hk, State.storeBits_areaHeld]
    exact State.areaHeld_congr rfl rfl a

/-- A write of a member stores the word in the member's register. -/
theorem State.memberWrite_pending_self (s : State) (p off : Nat) (v : Word) {r : RegRow} {i j : Nat} (hw : r.win ≠ 1)
    (hr : r.win < 16) (hs : s.plainMember (some (r, i, j))) (hrw : r.rw ≠ 0) :
    (s.memberWrite p off v (some (r, i, j))).cfg.pending.val r i j = v &&& r.rw := by
  obtain ⟨hh, hx, ha⟩ := hs r i j rfl
  obtain ⟨k, hk⟩ := s.regWrite_plain p r i j off v hw ha hh hx
  show (s.regWrite p r i j off v).cfg.pending.val r i j = _
  rw [hk]
  exact (State.storeBits_spec _ r i j v hr).2.1 hrw

/-- A write of a member leaves the pending value of a register at another place. -/
theorem State.memberWrite_pending_ne (s : State) (p off : Nat) (v : Word) {m : Option (RegRow × Nat × Nat)} {r : RegRow} {i j : Nat}
    (hm : ∀ q k l, m = some (q, k, l) → q.win ≠ 1 ∧ r.addr i j ≠ q.addr k l) (hs : s.plainMember m) :
    (s.memberWrite p off v m).cfg.pending.val r i j = s.cfg.pending.val r i j := by
  match m with
  | none => rfl
  | some (q, k, l) =>
    obtain ⟨hh, hx, ha⟩ := hs q k l rfl
    obtain ⟨hw, hne⟩ := hm q k l rfl
    obtain ⟨x, hx⟩ := s.regWrite_plain p q k l off v hw ha hh hx
    show (s.regWrite p q k l off v).cfg.pending.val r i j = _
    rw [hx, State.storeBits_ne _ _ _ _ _ _ _ _ hne]

/-- After the writes to a list of members, the registers of those members hold the word: members lie in pages of their own. -/
theorem State.memberWrites_pending {s : State} {p off w o : Nat} {v : Word} {l : List Nat} {n i j : Nat} {r : RegRow}
    (hl : ∀ m ∈ l, m < classUnits w) (hn : n < classUnits w) (ho : o < 0x1000)
    (hs : ∀ m ∈ l, s.plainMember (memberReg w m o)) (hr : memberReg w n o = some (r, i, j)) (hrw : r.rw ≠ 0) :
    (l.foldl (fun u m => u.memberWrite p off v (memberReg w m o)) s).cfg.pending.val r i j
      = if n ∈ l then v &&& r.rw else s.cfg.pending.val r i j := by
  obtain ⟨hra, hr16, hr1⟩ := memberReg_addr hn ho hr
  induction l generalizing s with
  | nil => rfl
  | cons m l ih =>
    obtain ⟨hm, hl⟩ := List.forall_mem_cons.mp hl
    obtain ⟨hsm, hs⟩ := List.forall_mem_cons.mp hs
    have hs' : ∀ k ∈ l, (s.memberWrite p off v (memberReg w m o)).plainMember (memberReg w k o) := fun k hk r i j e => by
      rw [State.memberWrite_areaHeld s p off v (fun r i j e => (memberReg_addr hm ho e).2.2) hsm]
      exact hs k hk r i j e
    rw [List.foldl_cons, ih hl hs']
    by_cases hnl : n ∈ l
    · rw [if_pos hnl, if_pos (List.mem_cons_of_mem m hnl)]
    · rw [if_neg hnl]
      by_cases hnm : n = m
      · subst hnm
        rw [if_pos List.mem_cons_self, hr]
        exact State.memberWrite_pending_self s p off v hr1 hr16 (hr ▸ hsm) hrw
      · rw [if_neg (by simp [hnm, hnl])]
        refine State.memberWrite_pending_ne s p off v (fun q k l e => ?_) hsm
        obtain ⟨hqa, -, hq1⟩ := memberReg_addr hm ho e
        exact ⟨hq1, by omega⟩

/-! ### The commands of a write -/

theorem isHalf_of_findReg {off i j : Nat} {r : RegRow} {h : Half} (hf : findReg off = some (r, i, j)) (hh : r.half = h)
    (hw : r.rw ||| r.rwi ≠ 0) : isHalf off h = true := by
  unfold isHalf
  rw [hf]
  exact Bool.and_eq_true_iff.mpr ⟨decide_eq_true hh, decide_eq_true hw⟩

theorem exec_registerWrite {s : State} (h : s.svc.stopped = none) (p off n : Nat) (v : Word) :
    exec (.registerWrite p off n v) s = .next (s.busWrite p off n v) := by
  show execRegisterWrite p off n v s = _
  unfold execRegisterWrite
  rw [State.go_run _ _ h]

theorem exec_regPairLoWrite {s : State} (h : s.svc.stopped = none) (p : Nat) {off : Nat} (v : Word) (hh : isHalf off .lo = true) :
    exec (.regPairLoWrite p off v) s = .next (s.busWrite p off 4 v) := by
  show execRegPairLoWrite p off v s = _
  unfold execRegPairLoWrite
  rw [State.go_run _ _ h, if_pos hh]

theorem exec_regPairHiWrite {s : State} (h : s.svc.stopped = none) (p : Nat) {off : Nat} (v : Word) (hh : isHalf off .hi = true) :
    exec (.regPairHiWrite p off v) s = .next (s.busWrite p off 4 v) := by
  show execRegPairHiWrite p off v s = _
  unfold execRegPairHiWrite
  rw [State.go_run _ _ h, if_pos hh]

theorem exec_aliasWrite {s : State} (h : s.svc.stopped = none) (p : Nat) {off : Nat} (v : Word) (ha : (aliasAt off).isSome = true) :
    exec (.aliasWrite p off v) s = .next (s.busWrite p off 4 v) := by
  show execAliasWrite p off v s = _
  unfold execAliasWrite
  rw [State.go_run _ _ h, if_pos ha]

/-- Settles O18: a write at a register's offset acts on that register, one through aliases on every member's. -/
theorem registerWrites : Obligations.RegisterWrites := by
  refine ⟨?word, ?badSize, ?loHalf, ?hiHalf, ?throughAlias⟩
  case word =>
    intro s p off i j r v ho hal hf hh hx ha he
    obtain ⟨w, hb⟩ := s.busWrite_reg p off i j r v ho hal hf ha he
    rw [State.regAct_whole _ _ _ _ _ _ _ hh hx] at hb
    obtain ⟨hreg, hpend, -, hact⟩ := State.storeBits_spec (s.afterAccess p w) r i j v (findReg_addr hf).2.1
    rw [exec_registerWrite ho.1, hb]
    exact ⟨_, rfl, hreg, hpend, hact⟩
  case badSize =>
    intro s p off n v hs ht hn
    rw [exec_registerWrite hs, State.busWrite_badSize _ _ _ _ _ ht hn]
    exact ⟨_, rfl, State.wakePort_cur .., State.wakePort_cfg .., accFlag_bit _ _ _ _ (by decide)⟩
  case loHalf =>
    intro s p off i j r v ho hal hf hh hw ha he
    obtain ⟨w, hb⟩ := s.busWrite_reg p off i j r v ho hal hf ha he
    rw [State.regAct_lo _ _ _ _ _ _ _ hh hw] at hb
    rw [exec_regPairLoWrite ho.1 _ _ (isHalf_of_findReg hf hh hw), hb]
    refine ⟨_, rfl, ?_, rfl, rfl⟩
    rw [State.port_setPort_self]
    exact Tab.get_put_self ..
  case hiHalf =>
    intro s p off i j r v ho hal hf hh hw hx ha he hne hpw
    obtain ⟨w, hb⟩ := s.busWrite_reg p off i j r v ho hal hf ha he
    rw [State.regAct_hi _ _ _ _ _ _ _ hh hw hx, State.afterAccess_heldLo] at hb
    obtain ⟨haddr, hr16, -⟩ := findReg_addr hf
    rw [exec_regPairHiWrite ho.1 _ _ (isHalf_of_findReg hf hh hw), hb]
    refine ⟨_, rfl, (State.storeBits_spec _ r i j v hr16).2.1, fun hprw => ?_⟩
    rw [State.storeBits_ne _ r _ i j i j v (by rw [haddr]; exact hne)]
    exact (State.storeBits_spec _ _ i j _ hpw).2.1 hprw
  case throughAlias =>
    intro s p off w o n g v ho hal hn hs
    rw [exec_aliasWrite ho.1 _ _ (by rw [hal]; rfl), State.busWrite_alias _ _ _ _ _ _ _ ho hal]
    refine ⟨_, rfl, fun r i j hr hrw => ?_⟩
    have hs' : ∀ m ∈ s.members w g, (s.wakePort p).plainMember (memberReg w m o) := fun m hm r i j e => by
      rw [State.wakePort_areaHeld]
      exact hs m hm r i j e
    rw [State.memberWrites_pending (fun m hm => s.members_lt hm) (s.members_lt hn) (aliasAt_spec hal).2 hs' hr hrw, if_pos hn]

end Sys2Proof.Machine

/-! SUPPORT. What a port's read comes to: what stops it, its word and what it leaves, at a register's own offset and through
aliases (R11, R12, R17, R371, R547, R580, R589-R591). -/

namespace Sys2Proof.Machine

/-! ### Reads of a word -/

theorem State.emit_port (s : State) (o : Out) : (s.emit o).port = s.port := rfl

theorem State.opensRead_aligned {s : State} {p off : Nat} (h : s.opensRead p off 4) : off % 4 = 0 := by
  have h4 := h.2.2.1
  omega

/-- A read of a whole word that nothing stops answers the word at its offset. -/
theorem State.busRead_word {s : State} {p off : Nat} (h : s.opensRead p off 4) :
    s.busRead p off 4 = ((s.wakePort p).readBase p off).2.emit (.readData p ((s.wakePort p).readBase p off).1) := by
  have h0 := State.opensRead_aligned h
  have hb : off / 4 * 4 = off := by omega
  rw [State.busRead_reaches _ _ _ _ h, word_bytes _ _ h0, hb]

theorem readRows_accessStatus {r : RegRow} (h : ∀ x ∈ readRows, r.is x = false) : r.is Reg.ACCESS_STATUS = false :=
  h _ (by simp [readRows])

/-- A read of an ordinary register on its own: its unit wakes, its word is answered, and its RC bits are cleared where the read
clears. -/
theorem State.regRead_awake (s : State) (p : Nat) (r : RegRow) (i j addr : Nat) (clear : Bool)
    (ha : s.areaHeld (r.addr i j) = false) (hh : r.half = .whole) (hx : ∀ x ∈ readRows, r.is x = false) :
    ∃ w, s.regRead p r i j addr clear = (({ s with svc := { s.svc with woken := w } } : State).readWord p r i j,
      if clear = true ∧ r.rc ≠ 0
      then ({ s with svc := { s.svc with woken := w } } : State).setReg r i j (s.reg r i j &&& ~~~ r.rc)
      else { s with svc := { s.svc with woken := w } }) := by
  obtain ⟨w, hw⟩ := wakeUnit_if s (r.addr i j) (r.fields ≠ 0)
  refine ⟨w, ?_⟩
  unfold State.regRead
  dsimp only
  rw [ha]
  simp only [Bool.false_and, Bool.false_eq_true, if_false, hw, hh, reduceCtorEq, false_and, readRows_accessStatus hx, Bool.not_false,
    Bool.and_true, Bool.and_eq_true, decide_eq_true_eq, State.readGroup_plain _ _ _ _ hx]
  split <;> rfl

/-- The same read by a port, whose link the access wakes. -/
theorem State.regRead_whole (s : State) (p : Nat) (r : RegRow) (i j addr : Nat) (clear : Bool)
    (ha : s.areaHeld (r.addr i j) = false) (hh : r.half = .whole) (hx : ∀ x ∈ readRows, r.is x = false) :
    ∃ w, (s.wakePort p).regRead p r i j addr clear
      = ((s.afterAccess p w).readWord p r i j,
          if clear = true ∧ r.rc ≠ 0 then (s.afterAccess p w).setReg r i j (s.reg r i j &&& ~~~ r.rc) else s.afterAccess p w) := by
  obtain ⟨w, hw⟩ := (s.wakePort p).regRead_awake p r i j addr clear (by rw [State.wakePort_areaHeld]; exact ha) hh hx
  refine ⟨w, ?_⟩
  rw [hw, State.wakePort_eq]
  rfl

/-- A read of a low half answers it, and keeps the high half of the same instant for the port (R589). -/
theorem State.regRead_lo (s : State) (p : Nat) (r : RegRow) (i j addr : Nat) (clear : Bool)
    (ha : s.areaHeld (r.addr i j) = false) (hh : r.half = .lo) (hx : ∀ x ∈ readRows, r.is x = false) (hrc : r.rc = 0) :
    ∃ w, (s.wakePort p).regRead p r i j addr clear
      = ((s.afterAccess p w).readWord p r i j, (s.afterAccess p w).setPort p (fun q =>
          { q with snapHi := q.snapHi.put 0 addr ((s.afterAccess p w).readWord p (r.partner i j) i j) })) := by
  obtain ⟨w, hw⟩ := s.regRead_open p r i j addr clear ha (by rw [hh]; decide) (readRows_accessStatus hx)
  refine ⟨w, ?_⟩
  rw [hw, State.readGroup_plain _ _ _ _ hx, if_pos hh, if_neg (fun c => c.2 hrc)]

/-- A read of ACCESS_STATUS answers its word and clears the port's copy and its address (R580, R581). -/
theorem State.regRead_accessStatus (s : State) (p : Nat) (clear : Bool) (ha : s.areaHeld Reg.ACCESS_STATUS.addr = false) :
    ∃ w, (s.wakePort p).regRead p Reg.ACCESS_STATUS 0 0 Reg.ACCESS_STATUS.addr clear
      = ((s.afterAccess p w).readWord p Reg.ACCESS_STATUS 0 0,
          (s.afterAccess p w).setPort p (fun q => { q with accStatus := 0, accAddr := 0 })) := by
  obtain ⟨w, hw⟩ := s.wakeUnit_access p Reg.ACCESS_STATUS.addr (Reg.ACCESS_STATUS.fields ≠ 0)
  refine ⟨w, ?_⟩
  unfold State.regRead
  dsimp only
  rw [State.wakePort_areaHeld, ha]
  simp only [Bool.false_and, Bool.false_eq_true, if_false, hw]
  rfl

/-- The word of ACCESS_STATUS is the port's own copy. -/
theorem State.readWord_accessStatus (s : State) (p : Nat) (ha : s.areaHeld Reg.ACCESS_STATUS.addr = false)
    (hc : (s.port p).cap.get none Reg.ACCESS_STATUS.addr = none) :
    s.readWord p Reg.ACCESS_STATUS 0 0 = (s.port p).accStatus &&& 0xFF := by
  rw [State.readWord_live s p Reg.ACCESS_STATUS 0 0 (by decide) ha hc (by decide)]
  have hv : s.view p Reg.ACCESS_STATUS 0 0 = (s.port p).accStatus := rfl
  have hf : Reg.ACCESS_STATUS.fields = 0xFF := by decide
  have hwo : ~~~ Reg.ACCESS_STATUS.wo = BitVec.allOnes 32 := by decide
  have hrw : Reg.ACCESS_STATUS.rw = 0#32 := rfl
  rw [hv, hf, hwo, hrw, BitVec.and_allOnes, BitVec.and_zero, BitVec.or_zero]

/-- What an access leaves of a port's record, but for the L1 state of its link. -/
theorem State.afterAccess_access (s : State) (p : Nat) (w : Tab Nat) :
    ((s.afterAccess p w).port p).cap = (s.port p).cap ∧ ((s.afterAccess p w).port p).accStatus = (s.port p).accStatus := by
  obtain ⟨l, h⟩ := s.wakePort_port p p
  have h' : (s.afterAccess p w).port p = { s.port p with l1 := l } := by rw [← h]; rfl
  exact ⟨by rw [h'], by rw [h']⟩

/-! ### Reads through aliases -/

theorem State.readBase_alias (s : State) (p off w o : Nat) (g : Option Nat) (h : aliasAt off = some (w, g, o)) :
    s.readBase p off = s.aliasRead p off w g o := by
  unfold State.readBase
  rw [h]

theorem State.aliasRead_empty (s : State) (p off w o : Nat) (g : Option Nat) (h : s.members w g = []) :
    s.aliasRead p off w g o = (0, s) := by
  unfold State.aliasRead
  rw [h]

/-- A read through aliases reads the lowest member, without clearing it, and flags members that differ (R547). -/
theorem State.aliasRead_first (s : State) (p off w o n i j : Nat) (g : Option Nat) (rest : List Nat) (r : RegRow)
    (hm : s.members w g = n :: rest) (hr : memberReg w n o = some (r, i, j)) (hh : r.half = .whole) :
    s.aliasRead p off w g o = ((s.regRead p r i j off false).1,
      if (s.regRead p r i j off false).2.membersDiffer p w o rest (s.regRead p r i j off false).1 = true
      then (s.regRead p r i j off false).2.accFlag p accBcast off else (s.regRead p r i j off false).2) := by
  unfold State.aliasRead
  rw [hm]
  dsimp only
  rw [hr]
  unfold State.aliasFirst
  simp only [hh, ne_eq, reduceCtorEq, not_false_eq_true, decide_true, Bool.true_and]

/-! ### The commands of a read -/

theorem regIs_of_findReg {off i j : Nat} {r : RegRow} (h0 : off % 4 = 0) (hf : findReg off = some (r, i, j)) (f : RegRow → Bool) :
    regIs off f = f r := by
  unfold regIs
  rw [show off / 4 * 4 = off by omega, hf]

theorem exec_regPairLoRead {s : State} (h : s.svc.stopped = none) (p : Nat) {off : Nat} (n : Nat)
    (hr : regIs off (fun r => decide (r.half = .lo)) = true) :
    exec (.regPairLoRead p off n) s = .next (s.busRead p off n) := by
  show execRegPairLoRead p off n s = _
  unfold execRegPairLoRead
  rw [State.goRead_run _ _ _ h, if_pos hr]

theorem exec_rcRegisterRead {s : State} (h : s.svc.stopped = none) (p : Nat) {off : Nat} (n : Nat)
    (hr : regIs off (fun r => decide (r.rc ≠ 0)) = true) :
    exec (.rcRegisterRead p off n) s = .next (s.busRead p off n) := by
  show execRcRegisterRead p off n s = _
  unfold execRcRegisterRead
  rw [State.goRead_run _ _ _ h, if_pos hr]

theorem exec_accessStatusRead {s : State} (h : s.svc.stopped = none) (p : Nat) :
    exec (.accessStatusRead p) s = .next (s.busRead p Reg.ACCESS_STATUS.addr 4) := by
  show execAccessStatusRead p s = _
  unfold execAccessStatusRead State.rowRead
  rw [State.goRead_run _ _ _ h, if_pos (by decide)]

theorem exec_aliasRead {s : State} (h : s.svc.stopped = none) (p : Nat) {off : Nat} (n : Nat) (ha : (aliasAt off).isSome = true) :
    exec (.aliasRead p off n) s = .next (s.busRead p off n) := by
  show execAliasRead p off n s = _
  unfold execAliasRead
  rw [State.goRead_run _ _ _ h, if_pos ha]

/-- Settles O19: a read comes to a read of the register found at its offset, or of the lowest member of those it reaches. -/
theorem registerReads : Obligations.RegisterReads := by
  refine ⟨?lowHalf, ?clearOnRead, ?accessStatus, ?throughAlias⟩
  case lowHalf =>
    intro s p off i j r ho hal hf hh hx hrc ha
    have haddr := (findReg_addr hf).1
    obtain ⟨w, hw⟩ := s.regRead_lo p r i j off true (by rw [haddr]; exact ha) hh hx hrc
    have hi := regIs_of_findReg (State.opensRead_aligned ho) hf (fun r => decide (r.half = .lo))
    rw [exec_regPairLoRead ho.1 _ _ (hi.trans (decide_eq_true hh)), State.busRead_word ho,
      State.readBase_plain _ _ _ _ _ _ hal hf, hw]
    refine ⟨_, w, rfl, rfl, ?_, rfl⟩
    rw [State.emit_port, State.port_setPort_self]
    exact Tab.get_put_self ..
  case clearOnRead =>
    intro s p off i j r ho hal hf hh hrc hx ha
    obtain ⟨haddr, hwin, -⟩ := findReg_addr hf
    obtain ⟨w, hw⟩ := s.regRead_whole p r i j off true (by rw [haddr]; exact ha) hh hx
    have hi := regIs_of_findReg (State.opensRead_aligned ho) hf (fun r => decide (r.rc ≠ 0))
    rw [exec_rcRegisterRead ho.1 _ _ (hi.trans (decide_eq_true hrc)), State.busRead_word ho,
      State.readBase_plain _ _ _ _ _ _ hal hf, hw, if_pos ⟨rfl, hrc⟩]
    refine ⟨_, w, rfl, rfl, State.reg_setReg_self _ _ _ _ _ hwin, fun q k l hq => ?_⟩
    exact State.reg_setReg_ne _ _ _ _ _ _ _ _ hwin (Or.inr (by rw [haddr]; exact hq))
  case accessStatus =>
    intro s p ho ha hc
    obtain ⟨w, hw⟩ := s.regRead_accessStatus p true ha
    obtain ⟨hcap, hacc⟩ := s.afterAccess_access p w
    rw [exec_accessStatusRead ho.1, State.busRead_word ho,
      State.readBase_plain _ _ Reg.ACCESS_STATUS.addr 0 0 Reg.ACCESS_STATUS (by decide) (by decide), hw,
      State.readWord_accessStatus _ _ ((s.afterAccess_areaHeld p w _).trans ha) (by rw [hcap]; exact hc), hacc]
    refine ⟨_, rfl, rfl, ?_⟩
    rw [State.emit_port, State.port_setPort_self]
    exact ⟨rfl, rfl⟩
  case throughAlias =>
    intro s p off w o g ho hal
    rw [exec_aliasRead ho.1 _ _ (by rw [hal]; rfl), State.busRead_word ho, State.readBase_alias _ _ _ _ _ _ hal]
    refine ⟨_, rfl, fun hm => ?_, fun n rest r i j hm hr hh hx ha => ?_⟩
    · rw [State.aliasRead_empty _ _ _ _ _ _ (by rw [State.wakePort_members]; exact hm)]
      exact ⟨congrArg _ (State.wakePort_out ..), State.wakePort_cur ..⟩
    · obtain ⟨k, hk⟩ := s.regRead_whole p r i j off false ha hh hx
      rw [if_neg (by simp)] at hk
      rw [State.aliasRead_first _ _ _ _ _ _ _ _ _ _ _ (by rw [State.wakePort_members]; exact hm) hr hh, hk]
      refine ⟨k, ?_⟩
      split
      next hd => exact ⟨rfl, rfl, fun _ => accFlag_bit _ _ _ _ (by decide)⟩
      next hd => exact ⟨rfl, rfl, fun c => absurd c hd⟩

end Sys2Proof.Machine

/-! SUPPORT. Reads that are flagged, the service port's read, and reads that capture a group (R11, R48, R371, R465, R481, R580, R591,
R618). -/

namespace Sys2Proof.Machine

/-! ### What stops a read -/

theorem State.readAt_badSize (s : State) (p off n : Nat) (h : n = 0 ∨ 4 < off % 4 + n) :
    s.readAt p off n = (0, s.accFlag p accBadSize off) := by
  unfold State.readAt
  exact if_pos h

section Shaped
variable {s : State} {p off n : Nat} (hn : 0 < n) (h4 : off % 4 + n ≤ 4)
include hn h4

theorem State.readAt_boot (hb : s.dev.mode = .boot) (hi : isIdentity (off / 4 * 4) = false) :
    s.readAt p off n = (0, s.accFlag p accNotReady off) := by
  unfold State.readAt
  rw [if_neg (by omega), if_pos ⟨hb, by rw [hi]; rfl⟩]

theorem State.readAt_denied (hm : s.dev.mode ≠ .boot) (hp : p < 4) (hr : s.mayRead p (off / 4 * 4) = false) :
    s.readAt p off n = (0, (s.count Reg.HP_DENIED_CNT p).accFlag p accDenied off) := by
  unfold State.readAt
  rw [if_neg (by omega), if_neg (fun c => hm c.1), if_pos (by rw [hr]; rfl), if_pos hp]

end Shaped

/-- A read of a whole word that its port may make answers the word. -/
theorem State.readAt_word {s : State} {p off : Nat} (h0 : off % 4 = 0) (hm : s.dev.mode ≠ .boot) (hr : s.mayRead p off = true) :
    s.readAt p off 4 = s.readBase p off := by
  have hb : off / 4 * 4 = off := by omega
  unfold State.readAt
  dsimp only
  rw [if_neg (by omega), if_neg (fun c => hm c.1), hb, if_neg (by rw [hr]; decide), word_bytes _ _ h0]

theorem State.busRead_talks {s : State} {p off n : Nat} (ht : s.portTalks p = true) :
    s.busRead p off n = ((s.wakePort p).readAt p off n).2.emit (.readData p ((s.wakePort p).readAt p off n).1) := by
  unfold State.busRead
  exact if_neg (by rw [State.wakePort_portTalks, ht]; decide)

/-! ### What a read captures -/

theorem Tab.get_foldl_put_of_notMem (l : List (Nat × Word)) (t : Tab (Option Word)) (k : Nat) (h : k ∉ l.map (·.1)) :
    (l.foldl (fun (t : Tab (Option Word)) e => t.put none e.1 (some e.2)) t).get none k = t.get none k := by
  induction l generalizing t with
  | nil => rfl
  | cons e l ih =>
    simp only [List.map_cons, List.mem_cons, not_or] at h
    rw [List.foldl_cons, ih _ h.2, Tab.get_put_ne _ _ _ _ h.1]

theorem Tab.get_foldl_put_of_mem (l : List (Nat × Word)) (t : Tab (Option Word)) (k : Nat) (v : Word) (hd : (l.map (·.1)).Nodup)
    (h : (k, v) ∈ l) : (l.foldl (fun (t : Tab (Option Word)) e => t.put none e.1 (some e.2)) t).get none k = some v := by
  induction l generalizing t with
  | nil => cases h
  | cons e l ih =>
    simp only [List.map_cons, List.nodup_cons] at hd
    rcases List.mem_cons.mp h with rfl | h
    · rw [List.foldl_cons, Tab.get_foldl_put_of_notMem _ _ _ hd.1, Tab.get_put_self]
    · exact ih _ hd.2 h

/-- A capture at distinct addresses keeps each value. -/
theorem State.capture_mem (s : State) (p : Nat) (l : List (Nat × Word)) (k : Nat) (v : Word) (hd : (l.map (·.1)).Nodup)
    (h : (k, v) ∈ l) : ((s.capture p l).port p).cap.get none k = some v := by
  rw [State.capture_get]
  exact Tab.get_foldl_put_of_mem _ _ _ _ hd h

/-- A read of the first register of a group, all of whose bits are read-only: it answers that register's value, and keeps the
values of the group for the port. -/
theorem State.busRead_group (s : State) (p i : Nat) (r : RegRow) (l : List (Nat × Word)) (x : Word) (ho : s.opensRead p (r.addr i) 4)
    (ha : s.areaHeld (r.addr i) = false) (hal : aliasAt (r.addr i) = none) (hf : findReg (r.addr i) = some (r, i, 0))
    (hr : r.half = .lo ∧ r.rc = 0 ∧ r.is Reg.ACCESS_STATUS = false ∧ r.win ≠ 1 ∧ r.fields = 0xFFFFFFFF#32 ∧ r.wo = 0 ∧ r.rw = 0)
    (hg : ∀ w, (s.afterAccess p w).readGroup p r i = (s.afterAccess p w).capture p l) (hd : (l.map (·.1)).Nodup)
    (hx : (r.addr i, x) ∈ l) :
    (s.busRead p (r.addr i) 4).out = .readData p x :: s.out
      ∧ ∀ k v, (k, v) ∈ l → ((s.busRead p (r.addr i) 4).port p).cap.get none k = some v := by
  obtain ⟨hl, hrc, hs, hw1, hfld, hwo, hrw⟩ := hr
  obtain ⟨w, hout, hcap⟩ := groupRead s p i r ho ha hal hf hl hrc hs
  rw [hg w] at hout hcap
  refine ⟨?_, fun k v h => by rw [hcap]; exact State.capture_mem _ _ _ _ _ hd h⟩
  have hheld : ((s.afterAccess p w).capture p l).areaHeld (r.addr i) = false := by
    rw [capture_areaHeld, State.afterAccess_areaHeld, ha]
  rw [hout, readWord_cap _ p r i x hw1 hheld (State.capture_mem _ _ _ _ _ hd hx) hfld hwo hrw]
  rfl

/-- The registers of the time snapshot, and their values (R48). -/
def State.snapGroup (s : State) : List (Nat × Word) :=
  [(Reg.TIME_SNAP_LIN_LO.addr, lo32 s.linear), (Reg.TIME_SNAP_LIN_HI.addr, hi32 s.linear),
    (Reg.TIME_SNAP_SEC_LO.addr, lo32 (s.time.now / secUnit)),
    (Reg.TIME_SNAP_SEC_HI.addr, BitVec.ofNat 32 (s.time.now / secUnit / 2 ^ 32 % 65536)),
    (Reg.TIME_SNAP_NS.addr, lo32 (s.time.now % secUnit / nsUnit)),
    (Reg.TIME_SNAP_FRAC.addr, BitVec.ofNat 32 (s.time.now / 2 ^ 32 % 65536))]

/-- The registers of a unit of a motion group, and their values (R465, R481). -/
def State.motionGroup (s : State) (rows : List RegRow) (i : Nat) : List (Nat × Word) :=
  rows.map (fun x => (x.addr i, s.viewMotion x i 0 &&& x.fields))

/-- The group of a motion channel. -/
def mchGroup : List RegRow := [Reg.MCH_POS_LO, Reg.MCH_POS_HI, Reg.MCH_SPEED_LO, Reg.MCH_SPEED_HI, Reg.MCH_STATUS]

/-- The group of a probe. -/
def prbGroup : List RegRow :=
  [Reg.PRB_TIME_LO, Reg.PRB_TIME_HI, Reg.PRB_POS0_LO, Reg.PRB_POS0_HI, Reg.PRB_POS1_LO, Reg.PRB_POS1_HI]

theorem State.readGroup_timeSnap (s : State) (p i : Nat) : s.readGroup p Reg.TIME_SNAP_LIN_LO i = s.capture p s.snapGroup := rfl
theorem State.readGroup_mch (s : State) (p i : Nat) : s.readGroup p Reg.MCH_POS_LO i = s.capture p (s.motionGroup mchGroup i) := rfl
theorem State.readGroup_prb (s : State) (p i : Nat) : s.readGroup p Reg.PRB_TIME_LO i = s.capture p (s.motionGroup prbGroup i) := rfl

theorem State.snapGroup_nodup (s : State) : (s.snapGroup.map (·.1)).Nodup := by
  simp [State.snapGroup, RegRow.addr, Reg.TIME_SNAP_LIN_LO, Reg.TIME_SNAP_LIN_HI, Reg.TIME_SNAP_SEC_LO, Reg.TIME_SNAP_SEC_HI,
    Reg.TIME_SNAP_NS, Reg.TIME_SNAP_FRAC]

theorem State.motionGroup_keys (s : State) (rows : List RegRow) (i : Nat) :
    (s.motionGroup rows i).map (·.1) = rows.map (fun x => x.addr i) := List.map_map

theorem State.motionGroup_mem (s : State) {rows : List RegRow} {x : RegRow} (i : Nat) (h : x ∈ rows) :
    (x.addr i, s.viewMotion x i 0 &&& x.fields) ∈ s.motionGroup rows i := List.mem_map_of_mem h

theorem mchGroup_nodup (s : State) (i : Nat) : ((s.motionGroup mchGroup i).map (·.1)).Nodup := by
  rw [State.motionGroup_keys]
  simp [mchGroup, RegRow.addr, Reg.MCH_POS_LO, Reg.MCH_POS_HI, Reg.MCH_SPEED_LO, Reg.MCH_SPEED_HI, Reg.MCH_STATUS]

theorem prbGroup_nodup (s : State) (i : Nat) : ((s.motionGroup prbGroup i).map (·.1)).Nodup := by
  rw [State.motionGroup_keys]
  simp [prbGroup, RegRow.addr, Reg.PRB_TIME_LO, Reg.PRB_TIME_HI, Reg.PRB_POS0_LO, Reg.PRB_POS0_HI, Reg.PRB_POS1_LO, Reg.PRB_POS1_HI]

/-! ### The commands -/

theorem exec_flaggedRegisterRead {s : State} (h : s.svc.stopped = none) (p off n : Nat) :
    exec (.flaggedRegisterRead p off n) s = .next (s.busRead p off n) := by
  show execFlaggedRegisterRead p off n s = _
  unfold execFlaggedRegisterRead
  rw [State.goRead_run _ _ _ h]

theorem exec_svcPortRead {s : State} (h : s.svc.stopped = none) {off : Nat} (h0 : off % 4 = 0) (hlt : off < 2 ^ 26) :
    exec (.svcPortRead off) s
      = .next ((s.readAt 8 off 4).2.emit (.spi (0xA5 :: beBytes 4 (s.readAt 8 off 4).1.toNat))) := by
  show execSvcPortRead off s = _
  unfold execSvcPortRead
  rw [State.goRead_run _ _ _ h, show off / 4 * 4 % 2 ^ 26 = off by omega]

theorem State.rowRead_unit {s : State} {p i : Nat} {r : RegRow} (h : i < r.n1) : s.rowRead p r i = s.busRead p (r.addr i) 4 := by
  unfold State.rowRead
  exact if_pos h

theorem exec_timeSnapLinLoRead {s : State} (h : s.svc.stopped = none) (p : Nat) :
    exec (.timeSnapLinLoRead p) s = .next (s.busRead p Reg.TIME_SNAP_LIN_LO.addr 4) := by
  show execTimeSnapLinLoRead p s = _
  unfold execTimeSnapLinLoRead
  rw [State.goRead_run _ _ _ h, State.rowRead_unit (by decide)]

theorem exec_mchPosLoRead {s : State} (h : s.svc.stopped = none) (p : Nat) {ch : Nat} (hc : ch < 24) :
    exec (.mchPosLoRead p ch) s = .next (s.busRead p (Reg.MCH_POS_LO.addr ch) 4) := by
  show execMchPosLoRead p ch s = _
  unfold execMchPosLoRead
  rw [State.goRead_run _ _ _ h, State.rowRead_unit hc]

theorem exec_prbTimeLoRead {s : State} (h : s.svc.stopped = none) (p : Nat) {k : Nat} (hk : k < 8) :
    exec (.prbTimeLoRead p k) s = .next (s.busRead p (Reg.PRB_TIME_LO.addr k) 4) := by
  show execPrbTimeLoRead p k s = _
  unfold execPrbTimeLoRead
  rw [State.goRead_run _ _ _ h, State.rowRead_unit hk]

/-- Settles O26: a stopped read answers 0 and flags, and the first read of a group captures the group. -/
theorem readsThatFlagOrCapture : Obligations.ReadsThatFlagOrCapture := by
  refine ⟨?badSize, ?boot, ?denied, ?servicePort, ?timeSnapshot, ?channel, ?probe⟩
  case badSize =>
    intro s p off n hs ht hn
    rw [exec_flaggedRegisterRead hs, State.busRead_talks ht, State.readAt_badSize _ _ _ _ hn]
    exact ⟨_, rfl, congrArg _ (State.wakePort_out ..), accFlag_bit _ _ _ _ (by decide)⟩
  case boot =>
    intro s p off n hs ht hn h4 hb hi
    rw [exec_flaggedRegisterRead hs, State.busRead_talks ht, State.readAt_boot hn h4 (by rw [State.wakePort_dev]; exact hb) hi]
    exact ⟨_, rfl, congrArg _ (State.wakePort_out ..), accFlag_bit _ _ _ _ (by decide), State.wakePort_cur ..⟩
  case denied =>
    intro s p off n hs ht hn h4 hm hp hr
    rw [exec_flaggedRegisterRead hs, State.busRead_talks ht,
      State.readAt_denied hn h4 (by rw [State.wakePort_dev]; exact hm) hp (by rw [State.wakePort_mayRead]; exact hr)]
    refine ⟨_, rfl, congrArg _ (State.wakePort_out ..), accFlag_bit _ _ _ _ (by decide), ?_⟩
    have hc := State.count_toNat (s.wakePort p) Reg.HP_DENIED_CNT p (by decide)
    have hreg : (s.wakePort p).reg Reg.HP_DENIED_CNT p = s.reg Reg.HP_DENIED_CNT p := by
      unfold State.reg
      rw [State.wakePort_cur]
    rw [hreg] at hc
    exact hc
  case servicePort =>
    intro s off i j r hs h0 hlt hm hr hal hf hh hx ha
    have haddr := (findReg_addr hf).1
    obtain ⟨w, hw⟩ := s.regRead_awake 8 r i j off true (by rw [haddr]; exact ha) hh hx
    rw [exec_svcPortRead hs h0 hlt, State.readAt_word h0 hm hr, State.readBase_plain _ _ _ _ _ _ hal hf, hw]
    refine ⟨_, w, rfl, ?_⟩
    split <;> rfl
  case timeSnapshot =>
    intro s p ho ha
    obtain ⟨hout, hcap⟩ := s.busRead_group p 0 Reg.TIME_SNAP_LIN_LO s.snapGroup (lo32 s.linear) ho ha (by decide) (by decide)
      (by decide) (fun w => State.readGroup_timeSnap ..) s.snapGroup_nodup (by simp [State.snapGroup])
    rw [exec_timeSnapLinLoRead ho.1]
    exact ⟨_, rfl, hout, hcap _ _ (by simp [State.snapGroup]), hcap _ _ (by simp [State.snapGroup]), hcap _ _ (by simp [State.snapGroup])⟩
  case channel =>
    intro s p ch hch ho ha
    obtain ⟨hf, hal⟩ := find_of Reg.MCH_POS_LO 24 (by decide) ch hch
    have hmem := fun (x : RegRow) (h : x ∈ mchGroup) => s.motionGroup_mem ch h
    obtain ⟨hout, hcap⟩ := s.busRead_group p ch Reg.MCH_POS_LO (s.motionGroup mchGroup ch) _ ho ha hal hf (by decide)
      (fun w => State.readGroup_mch ..) (mchGroup_nodup s ch) (hmem Reg.MCH_POS_LO (by simp [mchGroup]))
    rw [exec_mchPosLoRead ho.1 p hch]
    refine ⟨_, rfl, hcap _ _ (hmem Reg.MCH_STATUS (by simp [mchGroup])), ?_, ?_⟩
    · rw [hcap _ _ (hmem Reg.MCH_SPEED_LO (by simp [mchGroup]))]
      exact congrArg some (and_ones _)
    · rw [hout]
      exact congrArg (fun x => Out.readData p x :: s.out) (and_ones _)
  case probe =>
    intro s p k hk ho ha
    obtain ⟨hf, hal⟩ := find_of Reg.PRB_TIME_LO 8 (by decide) k hk
    have hmem := fun (x : RegRow) (h : x ∈ prbGroup) => s.motionGroup_mem k h
    obtain ⟨hout, hcap⟩ := s.busRead_group p k Reg.PRB_TIME_LO (s.motionGroup prbGroup k) _ ho ha hal hf (by decide)
      (fun w => State.readGroup_prb ..) (prbGroup_nodup s k) (hmem Reg.PRB_TIME_LO (by simp [prbGroup]))
    rw [exec_prbTimeLoRead ho.1 p hk]
    refine ⟨_, rfl, ?_, ?_, ?_⟩
    · rw [hcap _ _ (hmem Reg.PRB_POS0_LO (by simp [prbGroup]))]
      exact congrArg some (and_ones _)
    · rw [hcap _ _ (hmem Reg.PRB_TIME_HI (by simp [prbGroup]))]
      exact congrArg some (and_ones _)
    · rw [hout]
      exact congrArg (fun x => Out.readData p x :: s.out) (and_ones _)

end Sys2Proof.Machine

/-! SUPPORT. The frame of every command: the mask of its Laws/Keeps lemma is the one that its list of parts spells. -/

namespace Sys2Proof.Machine

/-- The mask of a list of parts: bit `p.idx` is set for each part `p` in it. -/
def partsMask (ps : List Part) : Nat := ps.foldr (fun p m => 2 ^ p.idx ||| m) 0

theorem Part.idx_injective {p q : Part} (h : p.idx = q.idx) : p = q := by
  have hp : ∀ r : Part, Part.ofNat r.idx = r := fun r => by cases r <;> rfl
  rw [← hp p, h, hp q]

theorem partsMask_testBit {p : Part} {ps : List Part} (h : p ∉ ps) : (partsMask ps).testBit p.idx = false := by
  induction ps with
  | nil => exact Nat.zero_testBit _
  | cons q ps ih =>
    obtain ⟨hq, hps⟩ := not_or.mp fun c => h (List.mem_cons.mpr c)
    have hne : q.idx ≠ p.idx := fun e => hq (Part.idx_injective e.symm)
    show (2 ^ q.idx ||| partsMask ps).testBit p.idx = false
    rw [Nat.testBit_or, Nat.testBit_two_pow_of_ne hne, ih hps, Bool.false_or]

/-- Every command keeps what its frame leaves out: each arm is the law of that command's meaning. -/
theorem exec_keeps {i : Instr} {s t : State} (e : exec i s = .next t) : Keeps (partsMask (mayChange i)) s t := by
  cases i with
  | nop _ => exact execNop_keeps _ s e
  | rigStart _ => exact execRigStart_keeps _ s e
  | rigStop _ => exact execRigStop_keeps _ s e
  | rigArm _ => exact execRigArm_keeps _ s e
  | rigDisarm _ => exact execRigDisarm_keeps _ s e
  | takeStart _ => exact execTakeStart_keeps _ s e
  | takeStop _ => exact execTakeStop_keeps _ s e
  | burstStart _ => exact execBurstStart_keeps _ s e
  | burstStop _ => exact execBurstStop_keeps _ s e
  | offloadAbort _ => exact execOffloadAbort_keeps _ s e
  | calStart _ => exact execCalStart_keeps _ s e
  | calStop _ => exact execCalStop_keeps _ s e
  | magRelay _ => exact execMagRelay_keeps _ s e
  | configCommit _ => exact execConfigCommit_keeps _ s e
  | configClear _ => exact execConfigClear_keeps _ s e
  | configFallback _ => exact execConfigFallback_keeps _ s e
  | configDiscard _ => exact execConfigDiscard_keeps _ s e
  | timeStepAccept _ => exact execTimeStepAccept_keeps _ s e
  | timeSet _ => exact execTimeSet_keeps _ s e
  | settingsPost _ => exact execSettingsPost_keeps _ s e
  | sensorReg _ => exact execSensorReg_keeps _ s e
  | laneSwap _ => exact execLaneSwap_keeps _ s e
  | magRelease _ => exact execMagRelease_keeps _ s e
  | magFormat _ => exact execMagFormat_keeps _ s e
  | magRepair _ => exact execMagRepair_keeps _ s e
  | magSanitize _ => exact execMagSanitize_keeps _ s e
  | magRead _ => exact execMagRead_keeps _ s e
  | zeroize _ => exact execZeroize_keeps _ s e
  | provisionBegin _ => exact execProvisionBegin_keeps _ s e
  | provisionClose _ => exact execProvisionClose_keeps _ s e
  | secAuthBegin _ => exact execSecAuthBegin_keeps _ s e
  | secAuthProve _ => exact execSecAuthProve_keeps _ s e
  | secLogout _ => exact execSecLogout_keeps _ s e
  | secCoEnrol _ => exact execSecCoEnrol_keeps _ s e
  | secKeyReplace _ => exact execSecKeyReplace_keeps _ s e
  | secEcdhBegin _ => exact execSecEcdhBegin_keeps _ s e
  | secOwnerSet _ => exact execSecOwnerSet_keeps _ s e
  | secIdentityGen _ => exact execSecIdentityGen_keeps _ s e
  | secGetIdentity _ => exact execSecGetIdentity_keeps _ s e
  | secTakeKey _ => exact execSecTakeKey_keeps _ s e
  | secAttest _ => exact execSecAttest_keeps _ s e
  | secFwInstall _ => exact execSecFwInstall_keeps _ s e
  | secSelftest _ _ => exact execSecSelftest_keeps _ _ s e
  | unitDrain _ => exact execUnitDrain_keeps _ s e
  | unitTest _ => exact execUnitTest_keeps _ s e
  | unitReturn _ => exact execUnitReturn_keeps _ s e
  | unitRetire _ => exact execUnitRetire_keeps _ s e
  | dlvFrame _ => exact execDlvFrame_keeps _ s e
  | dlvGather _ => exact execDlvGather_keeps _ s e
  | doorbellWrite _ _ _ => exact execDoorbellWrite_keeps _ _ _ s e
  | ringEnable _ _ _ => exact execRingEnable_keeps _ _ _ s e
  | ringAbort _ _ _ => exact execRingAbort_keeps _ _ _ s e
  | ringResume _ _ _ => exact execRingResume_keeps _ _ _ s e
  | stagedRecordWrite _ => exact execStagedRecordWrite_keeps _ s e
  | ringBusError _ _ _ => exact execRingBusError_keeps _ _ _ s e
  | claim _ => exact execClaim_keeps _ s e
  | release _ => exact execRelease_keeps _ s e
  | heartbeat _ => exact execHeartbeat_keeps _ s e
  | portLivenessExpiry _ => exact execPortLivenessExpiry_keeps _ s e
  | retrain _ _ _ => exact execRetrain_keeps _ _ _ s e
  | injectionGo _ _ _ => exact execInjectionGo_keeps _ _ _ s e
  | injectionStop _ _ _ => exact execInjectionStop_keeps _ _ _ s e
  | plnResSelWrite _ _ => exact execPlnResSelWrite_keeps _ _ s e
  | storeFrSelWrite _ _ => exact execStoreFrSelWrite_keeps _ _ s e
  | cfgPeekAddrWrite _ _ => exact execCfgPeekAddrWrite_keeps _ _ s e
  | tobjDirDigestWrite _ _ => exact execTobjDirDigestWrite_keeps _ _ s e
  | svcTelemSelWrite _ _ => exact execSvcTelemSelWrite_keeps _ _ s e
  | svcLogSelWrite _ _ => exact execSvcLogSelWrite_keeps _ _ s e
  | tobjAlloc _ => exact execTobjAlloc_keeps _ s e
  | tobjSeal _ => exact execTobjSeal_keeps _ s e
  | tobjFree _ => exact execTobjFree_keeps _ s e
  | svcGo _ _ _ => exact execSvcGo_keeps _ _ _ s e
  | svcAbort _ _ _ => exact execSvcAbort_keeps _ _ _ s e
  | svcTransferStart _ => exact execSvcTransferStart_keeps _ s e
  | svcTransferDone _ _ => exact execSvcTransferDone_keeps _ _ s e
  | timeSnapLinLoRead _ => exact execTimeSnapLinLoRead_keeps _ s e
  | mchPosLoRead _ _ => exact execMchPosLoRead_keeps _ _ s e
  | prbTimeLoRead _ _ => exact execPrbTimeLoRead_keeps _ _ s e
  | regPairLoRead _ _ _ => exact execRegPairLoRead_keeps _ _ _ s e
  | regPairLoWrite _ _ _ => exact execRegPairLoWrite_keeps _ _ _ s e
  | regPairHiWrite _ _ _ => exact execRegPairHiWrite_keeps _ _ _ s e
  | rcRegisterRead _ _ _ => exact execRcRegisterRead_keeps _ _ _ s e
  | accessStatusRead _ => exact execAccessStatusRead_keeps _ s e
  | aliasWrite _ _ _ => exact execAliasWrite_keeps _ _ _ s e
  | aliasRead _ _ _ => exact execAliasRead_keeps _ _ _ s e
  | tcmpTargetHiWrite _ _ _ => exact execTcmpTargetHiWrite_keeps _ _ _ s e
  | cmpTargetHiWrite _ _ _ => exact execCmpTargetHiWrite_keeps _ _ _ s e
  | cmpEnable _ _ _ => exact execCmpEnable_keeps _ _ _ s e
  | mchSetPosHiWrite _ _ _ => exact execMchSetPosHiWrite_keeps _ _ _ s e
  | probeValidClear _ _ => exact execProbeValidClear_keeps _ _ s e
  | msixUnmask _ _ _ _ => exact execMsixUnmask_keeps _ _ _ _ s e
  | registerWrite _ _ _ _ => exact execRegisterWrite_keeps _ _ _ _ s e
  | wakeFail _ _ _ => exact execWakeFail_keeps _ _ _ s e
  | svcPortRead _ => exact execSvcPortRead_keeps _ s e
  | svcPortImage _ => exact execSvcPortImage_keeps _ s e
  | samplePreload _ => exact execSamplePreload_keeps _ s e
  | unlockChallenge _ => exact execUnlockChallenge_keeps _ s e
  | internalResetRelease _ _ => exact execInternalResetRelease_keeps _ _ s e
  | bootStageEnd _ _ _ _ => exact execBootStageEnd_keeps _ _ _ _ s e
  | zeroizePin _ => exact execZeroizePin_keeps _ s e
  | tamperInput _ _ => exact execTamperInput_keeps _ _ s e
  | pxPerstRelease _ => exact execPxPerstRelease_keeps _ s e
  | hostLinkUp _ _ _ _ _ _ _ => exact execHostLinkUp_keeps _ _ _ _ _ _ _ s e
  | hostPortReset _ _ => exact execHostPortReset_keeps _ _ s e
  | d3hotEntry _ => exact execD3hotEntry_keeps _ s e
  | widthChange _ _ _ _ => exact execWidthChange_keeps _ _ _ _ s e
  | cplTimeout _ _ _ _ => exact execCplTimeout_keeps _ _ _ _ s e
  | ideIntegrityFail _ _ => exact execIdeIntegrityFail_keeps _ _ s e
  | ideKm _ _ _ _ _ => exact execIdeKm_keeps _ _ _ _ _ s e
  | rigModeChange _ => exact execRigModeChange_keeps _ s e
  | ptpMessage _ _ => exact execPtpMessage_keeps _ _ s e
  | ptpSourceLost _ => exact execPtpSourceLost_keeps _ s e
  | refLost _ => exact execRefLost_keeps _ s e
  | ltcInFrame _ _ _ _ _ _ => exact execLtcInFrame_keeps _ _ _ _ _ _ s e
  | tcmpFire _ => exact execTcmpFire_keeps _ s e
  | triggerSend _ => exact execTriggerSend_keeps _ s e
  | settingsSend _ => exact execSettingsSend_keeps _ s e
  | beaconSend _ _ _ => exact execBeaconSend_keeps _ _ _ s e
  | creditSend _ => exact execCreditSend_keeps _ s e
  | credit _ _ => exact execCredit_keeps _ _ s e
  | beaconEcho _ _ _ => exact execBeaconEcho_keeps _ _ _ s e
  | capability _ _ => exact execCapability_keeps _ _ s e
  | triggerNak _ _ => exact execTriggerNak_keeps _ _ s e
  | settingsAck _ _ => exact execSettingsAck_keeps _ _ s e
  | regCompletion _ _ => exact execRegCompletion_keeps _ _ s e
  | regTimeout _ => exact execRegTimeout_keeps _ s e
  | frameStart _ _ => exact execFrameStart_keeps _ _ s e
  | line _ _ => exact execLine_keeps _ _ s e
  | frameEnd _ _ => exact execFrameEnd_keeps _ _ s e
  | canaryFsTimeout _ => exact execCanaryFsTimeout_keeps _ s e
  | canaryFeTimeout _ => exact execCanaryFeTimeout_keeps _ s e
  | puLineProcess _ => exact execPuLineProcess_keeps _ s e
  | frameClose _ => exact execFrameClose_keeps _ s e
  | pageCacheRefill _ => exact execPageCacheRefill_keeps _ s e
  | spillPageOutDone _ => exact execSpillPageOutDone_keeps _ s e
  | spillFail _ => exact execSpillFail_keeps _ s e
  | spillPageIn _ _ => exact execSpillPageIn_keeps _ _ s e
  | eccCorrected _ _ _ => exact execEccCorrected_keeps _ _ _ s e
  | eccUncorrectable _ _ _ => exact execEccUncorrectable_keeps _ _ _ s e
  | rowRepair _ => exact execRowRepair_keeps _ s e
  | pageDigest _ => exact execPageDigest_keeps _ s e
  | frameSeal _ => exact execFrameSeal_keeps _ s e
  | framePlace _ => exact execFramePlace_keeps _ s e
  | chunkWrite _ => exact execChunkWrite_keeps _ s e
  | checkpoint _ => exact execCheckpoint_keeps _ s e
  | driveCommandComplete _ _ _ => exact execDriveCommandComplete_keeps _ _ _ s e
  | driveCommandTimeout _ => exact execDriveCommandTimeout_keeps _ s e
  | driveLinkDown _ => exact execDriveLinkDown_keeps _ s e
  | controllerFatalStatus _ => exact execControllerFatalStatus_keeps _ s e
  | smartPoll _ _ _ _ => exact execSmartPoll_keeps _ _ _ _ s e
  | driveFailure _ => exact execDriveFailure_keeps _ s e
  | relayBoundary _ => exact execRelayBoundary_keeps _ s e
  | segmentClose _ => exact execSegmentClose_keeps _ s e
  | takeClose _ => exact execTakeClose_keeps _ s e
  | unsealedEnd _ => exact execUnsealedEnd_keeps _ s e
  | bayInsert _ _ => exact execBayInsert_keeps _ _ s e
  | identifyTimeout _ => exact execIdentifyTimeout_keeps _ s e
  | surprise _ => exact execSurprise_keeps _ s e
  | ejectReq _ => exact execEjectReq_keeps _ s e
  | bayRelease _ => exact execBayRelease_keeps _ s e
  | delivery _ _ => exact execDelivery_keeps _ _ s e
  | moverBusError _ _ _ => exact execMoverBusError_keeps _ _ _ s e
  | positionCount _ _ _ => exact execPositionCount_keeps _ _ _ s e
  | indexEvent _ _ => exact execIndexEvent_keeps _ _ s e
  | serialRead _ _ _ _ _ _ _ _ => exact execSerialRead_keeps _ _ _ _ _ _ _ _ s e
  | sincosSample _ _ _ => exact execSincosSample_keeps _ _ _ s e
  | speedStill _ => exact execSpeedStill_keeps _ s e
  | echoStep _ => exact execEchoStep_keeps _ s e
  | probeEdge _ _ => exact execProbeEdge_keeps _ _ s e
  | trigInEdge _ _ => exact execTrigInEdge_keeps _ _ s e
  | motionSample _ => exact execMotionSample_keeps _ s e
  | codewordReceive _ _ => exact execCodewordReceive_keeps _ _ s e
  | alignmentComma _ _ _ => exact execAlignmentComma_keeps _ _ _ s e
  | lockLost _ => exact execLockLost_keeps _ s e
  | relockTimeout _ => exact execRelockTimeout_keeps _ s e
  | trainingFrame _ _ _ => exact execTrainingFrame_keeps _ _ _ s e
  | trainTimeout _ => exact execTrainTimeout_keeps _ s e
  | trainRetry _ => exact execTrainRetry_keeps _ s e
  | wakeBurst _ => exact execWakeBurst_keeps _ s e
  | laneFailure _ _ => exact execLaneFailure_keeps _ _ s e
  | swapDone _ => exact execSwapDone_keeps _ s e
  | swapPropose _ _ => exact execSwapPropose_keeps _ _ s e
  | swapAgree _ _ => exact execSwapAgree_keeps _ _ s e
  | swapRefuse _ _ => exact execSwapRefuse_keeps _ _ s e
  | swapRequest _ _ => exact execSwapRequest_keeps _ _ s e
  | restripeAck _ _ => exact execRestripeAck_keeps _ _ s e
  | eidleAck _ _ => exact execEidleAck_keeps _ _ s e
  | loopbackAck _ _ => exact execLoopbackAck_keeps _ _ s e
  | lockstepMismatch _ => exact execLockstepMismatch_keeps _ s e
  | unitFailure _ _ _ => exact execUnitFailure_keeps _ _ _ s e
  | spareReplacement _ => exact execSpareReplacement_keeps _ s e
  | drainComplete _ _ => exact execDrainComplete_keeps _ _ s e
  | testComplete _ _ _ _ _ => exact execTestComplete_keeps _ _ _ _ _ s e
  | spareRotation _ _ _ => exact execSpareRotation_keeps _ _ _ s e
  | spareKat _ => exact execSpareKat_keeps _ s e
  | entropyRetest _ => exact execEntropyRetest_keeps _ s e
  | thermalSample _ => exact execThermalSample_keeps _ s e
  | lockGained _ _ => exact execLockGained_keeps _ _ s e
  | prbsCheckerLock _ _ => exact execPrbsCheckerLock_keeps _ _ s e
  | quadErr _ => exact execQuadErr_keeps _ s e
  | speedDecay _ => exact execSpeedDecay_keeps _ s e
  | ejectRelease _ => exact execEjectRelease_keeps _ s e
  | driveLinkUp _ _ _ => exact execDriveLinkUp_keeps _ _ _ s e
  | controllerReady _ => exact execControllerReady_keeps _ s e
  | tpLinkState _ _ => exact execTpLinkState_keeps _ _ s e
  | tpMacFrame _ _ _ _ => exact execTpMacFrame_keeps _ _ _ _ s e
  | aspmL1Entry _ => exact execAspmL1Entry_keeps _ s e
  | spdmRequest _ _ => exact execSpdmRequest_keeps _ _ s e
  | flaggedRegisterRead _ _ _ => exact execFlaggedRegisterRead_keeps _ _ _ s e
  | shiftChange => exact execShiftChange_keeps s e
  | tobjSealDone => exact execTobjSealDone_keeps s e
  | clockRegate => exact execClockRegate_keeps s e
  | svcPortStatus => exact execSvcPortStatus_keeps s e
  | extest => exact execExtest_keeps s e
  | idcode => exact execIdcode_keeps s e
  | highz => exact execHighz_keeps s e
  | clamp => exact execClamp_keeps s e
  | extestPulse => exact execExtestPulse_keeps s e
  | extestTrain => exact execExtestTrain_keeps s e
  | bypass => exact execBypass_keeps s e
  | porstAssert => exact execPorstAssert_keeps s e
  | supplyDrop => exact execSupplyDrop_keeps s e
  | bootImageTimeout => exact execBootImageTimeout_keeps s e
  | firmwareReadyTimeout => exact execFirmwareReadyTimeout_keeps s e
  | tickBoundary => exact execTickBoundary_keeps s e
  | unitStateBoundary => exact execUnitStateBoundary_keeps s e
  | commitBoundary => exact execCommitBoundary_keeps s e
  | configFallbackBoundary => exact execConfigFallbackBoundary_keeps s e
  | configClearBoundary => exact execConfigClearBoundary_keeps s e
  | probationEnd => exact execProbationEnd_keeps s e
  | ppsInEdge => exact execPpsInEdge_keeps s e
  | ppsInLost => exact execPpsInLost_keeps s e
  | clk10mLost => exact execClk10mLost_keeps s e
  | refInEdge => exact execRefInEdge_keeps s e
  | ltcInLost => exact execLtcInLost_keeps s e
  | timeStepFix => exact execTimeStepFix_keeps s e
  | timeStepApply => exact execTimeStepApply_keeps s e
  | ppsOutPulse => exact execPpsOutPulse_keeps s e
  | ltcOutFrame => exact execLtcOutFrame_keeps s e
  | pagesFree => exact execPagesFree_keeps s e
  | spillPageOut => exact execSpillPageOut_keeps s e
  | lockstepResume => exact execLockstepResume_keeps s e
  | entropyHealthFail => exact execEntropyHealthFail_keeps s e
  | lockoutExpiry => exact execLockoutExpiry_keeps s e
  | thermtrip => exact execThermtrip_keeps s e
  | pulseEnd => exact execPulseEnd_keeps s e

/-- Settles O4: a part outside the frame has its bit clear in the mask of the command's law. -/
theorem eachCommandKeepsItsFrame : Obligations.EachCommandKeepsItsFrame :=
  fun _ _ _ p e hp => (exec_keeps e).same p (partsMask_testBit hp)

end Sys2Proof.Machine

/-! SUPPORT. The stages of boot: what the end of each comes to, and how boot fails (R622, R623, R625). -/

namespace Sys2Proof.Machine

theorem State.bootFail_out (s : State) (stage detail : Nat) :
    (s.bootFail stage detail).out = .pin "SVC_IRQ#" 0 false :: s.out := by
  unfold State.bootFail
  show _ :: (State.setF _ _ _ _ _ _).out = _
  rw [State.setF_out, State.setF_out, State.setF_out]

theorem State.serviceResv_dev (s : State) : s.serviceResv.dev = s.dev := (State.serviceResv_keeps ..).same .dev rfl

/-- The mode that boot ends in, by the keys in use (R33, R606). -/
theorem State.bootMode_mode (s : State) (zero : Option Nat) : (s.bootMode zero).dev.mode =
    if zero.isSome then .zeroized else if s.sec.dik.isSome ∧ s.sec.owk.isSome then .standby else .provision := by
  unfold State.bootMode
  cases zero with
  | some cause => exact State.enterMode_mode _ _ _
  | none =>
    show (if (s.sec.dik.isSome && s.sec.owk.isSome) = true then _ else _ : State).dev.mode = _
    by_cases h : s.sec.dik.isSome = true ∧ s.sec.owk.isSome = true
    · rw [if_pos (by rw [h.1, h.2]; rfl), if_neg (by decide), if_pos h, State.serviceResv_dev, State.enterMode_mode]
    · rw [if_neg (by rw [Bool.and_eq_true]; exact h), if_neg (by decide), if_neg h, State.enterMode_mode]

theorem State.bootMode_sec (s : State) (zero : Option Nat) : (s.bootMode zero).sec = s.sec :=
  (State.bootMode_keeps ..).same .sec rfl

section StageEnd
/-! The end of each stage while the device boots. -/

variable {s : State} (hb : s.booting = true) (detail : Nat) (data : List Byte) (bad : List Nat) (units : List (Nat × Nat))
include hb

theorem State.stageEnd_straps (h : s.bootStage = 0x01) : s.stageEnd detail data bad units = s.stage 0x02 := by
  unfold State.stageEnd
  rw [hb, h]
  rfl

theorem State.stageEnd_fuses (h : s.bootStage = 0x02) : s.stageEnd detail data bad units = s.stage 0x03 := by
  unfold State.stageEnd
  rw [hb, h]
  rfl

theorem State.stageEnd_keyStore (h : s.bootStage = 0x15) : s.stageEnd detail data bad units =
    if 1 ≤ detail ∧ detail ≤ 3 then s.bootFail 0x15 detail else s.stage 0x16 := by
  unfold State.stageEnd
  rw [hb, h]
  rfl

theorem State.stageEnd_entropy (h : s.bootStage = 0x17) : s.stageEnd detail data bad units =
    if 1 ≤ detail ∧ detail ≤ 2 then s.bootFail 0x17 detail else s.stage 0x23 := by
  unfold State.stageEnd
  rw [hb, h]
  rfl

theorem State.stageEnd_logLoad (h : s.bootStage = 0x23) : s.stageEnd detail data bad units = s.stage 0x20 := by
  unfold State.stageEnd
  rw [hb, h]
  rfl

theorem State.stageEnd_hbmRepair (h : s.bootStage = 0x21) : s.stageEnd detail data bad units = s.hbmRepaired := by
  unfold State.stageEnd
  rw [hb, h]
  rfl

theorem State.stageEnd_firmware (h : s.bootStage = 0x30) : s.stageEnd detail data bad units =
    if detail = 2 then s.bootFail 0x30 2 else s.bootDone.bootMode s.sec.bootZero := by
  unfold State.stageEnd
  rw [hb, h]
  rfl

end StageEnd

/-! ### The commands of resets, boot and the service port -/

theorem exec_internalResetRelease {s : State} (h : s.svc.stopped = some .reset) {b : Nat} (hlt : b < 4) (src : Bool) :
    exec (.internalResetRelease b src) s
      = .next ((s.setSvc (fun q => { q with stopped := none, porstLow := false, bifurc := b, bootSrc := src })).setSec
          (fun q => { q with jtagOpen := false })).bootStart := by
  show execInternalResetRelease b src s = _
  unfold execInternalResetRelease
  rw [if_pos h, Nat.mod_eq_of_lt hlt]

theorem exec_bootStageEnd {s : State} (h : s.svc.stopped = none) (detail : Nat) (data : List Byte) (bad : List Nat)
    (units : List (Nat × Nat)) : exec (.bootStageEnd detail data bad units) s = .next (s.stageEnd detail data bad units) :=
  (State.go_run _ _ h : execBootStageEnd detail data bad units s = _)

theorem exec_svcPortStatus {s : State} (h : s.svc.stopped = none) : exec .svcPortStatus s = .next (s.emit (.spi [BitVec.ofNat 8
    (b2n s.imageWait + 2 * b2n s.sec.imageErr + 4 * b2n (bit (s.reg Reg.BOOT_STATUS) 30))])) :=
  (State.go_run _ _ h : execSvcPortStatus s = _)

theorem exec_bootImageTimeout {s : State} (h : s.svc.stopped = none) (hw : s.imageWait = true) (hi : s.sec.svcImage = [])
    (ht : s.svc.stageAt + secClk 600 ≤ s.time.clk) : exec .bootImageTimeout s = .next (s.bootFail 0x11 2) := by
  show execBootImageTimeout s = _
  unfold execBootImageTimeout
  rw [State.go_run _ _ h, hw, hi, decide_eq_true ht]
  rfl

theorem exec_firmwareReadyTimeout {s : State} (h : s.svc.stopped = none) (hb : s.booting = true) (hs : s.bootStage = 0x30)
    (ht : s.svc.stageAt + msClk 250 ≤ s.time.clk) : exec .firmwareReadyTimeout s = .next (s.bootFail 0x30 1) := by
  show execFirmwareReadyTimeout s = _
  unfold execFirmwareReadyTimeout
  rw [State.go_run _ _ h, hb, hs, decide_eq_true ht]
  rfl

theorem exec_svcPortImage {s : State} (h : s.svc.stopped = none) (hw : s.imageWait = true) {data : List Byte} (hl : data.length ≤ 4096) :
    exec (.svcPortImage data) s = .next (s.setSec (fun q => { q with svcImage := q.svcImage ++ data })) := by
  show execSvcPortImage data s = _
  unfold execSvcPortImage
  rw [State.go_run _ _ h, hw, decide_eq_true hl]
  rfl

/-- Settles O27: resets, and the end of each stage of boot or its failure, by the equation of the command. PROVISION with an identity
key and no owner key is the model's choice (log entry 123). -/
theorem resetsAndBoot : Obligations.ResetsAndBoot := by
  refine ⟨?porst, ?supply, ?release, ?stages, ?firmware, ?imageTimeout, ?readyTimeout, ?status, ?image⟩
  case porst => exact fun s => ⟨_, rfl, rfl, rfl, rfl, rfl, rfl, rfl, rfl, rfl, rfl, rfl, rfl⟩
  case supply => exact fun s => ⟨_, rfl, rfl, rfl, rfl, rfl, rfl, rfl, rfl⟩
  case release =>
    intro s b src hs hb
    rw [exec_internalResetRelease hs hb]
    exact ⟨_, rfl, State.bootStart_facts _⟩
  case stages =>
    intro s detail data bad units hs hb _
    rw [exec_bootStageEnd hs]
    refine ⟨_, rfl, ?_, ?_, ?_, ?_, ?_, ?_, ?_⟩
    · intro h
      rw [State.stageEnd_straps hb _ _ _ _ h, State.stage_bootStage _ _ (by decide)]
    · intro h
      rw [State.stageEnd_fuses hb _ _ _ _ h, State.stage_bootStage _ _ (by decide)]
    · intro h hd
      rw [State.stageEnd_keyStore hb _ _ _ _ h, if_neg (by omega), State.stage_bootStage _ _ (by decide)]
    · intro h hd
      rw [State.stageEnd_entropy hb _ _ _ _ h, if_neg (by omega), State.stage_bootStage _ _ (by decide)]
    · intro h
      rw [State.stageEnd_logLoad hb _ _ _ _ h, State.stage_bootStage _ _ (by decide)]
    · intro h
      rw [State.stageEnd_hbmRepair hb _ _ _ _ h]
      exact ⟨State.stage_bootStage _ _ (by decide), rfl, rfl⟩
    · intro h h1 h3
      rw [State.stageEnd_keyStore hb _ _ _ _ h, if_pos ⟨h1, h3⟩]
      exact State.bootFail_facts _ _ _ (by decide) (by omega)
  case firmware =>
    intro s detail data bad units hs hb h30 hd
    rw [exec_bootStageEnd hs, State.stageEnd_firmware hb _ _ _ _ h30, if_neg hd]
    refine ⟨_, rfl, ?_, ?_, ?_⟩
    · rw [State.bootMode_mode, State.bootDone_sec]
    · rw [State.bootMode_sec, State.bootDone_sec]
    · rw [State.bootMode_sec, State.bootDone_sec]
  case imageTimeout =>
    intro s hs hw hi ht
    obtain ⟨hf, hd, hst⟩ := s.bootFail_facts 0x11 2 (by decide) (by decide)
    exact ⟨_, exec_bootImageTimeout hs hw hi ht, hf, hst, hd, State.bootFail_out ..⟩
  case readyTimeout =>
    intro s hs hb h30 ht
    obtain ⟨hf, hd, hst⟩ := s.bootFail_facts 0x30 1 (by decide) (by decide)
    exact ⟨_, exec_firmwareReadyTimeout hs hb h30 ht, hf, hst, hd⟩
  case status => exact fun s hs => ⟨_, exec_svcPortStatus hs, rfl⟩
  case image => exact fun s data hs hw hl => ⟨_, exec_svcPortImage hs hw hl, rfl, rfl, rfl⟩

end Sys2Proof.Machine

/-! SUPPORT. The rig-mode commands: what each queues for its boundary, and what a boundary's change leaves of the rigs (R38, R39,
R409, R412, R500). -/

namespace Sys2Proof.Machine

/-! ### Commands that wait for their boundary -/

/-- A change queued after an admission: the change is the one new entry, and the descriptor that asked is owed. -/
theorem State.admitted_queueRig (s : State) (d : Desc) (acts : List (Act × Cls)) (k : Ticket) (r op : Nat) (dest : RigMode)
    (pre post take list : Nat) :
    let t := ((s.take d).admitted acts).queueRig k r op dest pre post take list
    t.dev = { s.dev with bound := s.dev.bound ++ [⟨s.time.tickNum + 2, some k, .rig r (.command op) dest pre post take list⟩] }
      ∧ s.owed t d := by
  obtain ⟨hdev, hring⟩ := ((s.take d).admitted acts).queueRig_facts k r op dest pre post take list
  exact ⟨hdev, s.owed_of _ d ((((s.take d).admitted_keeps acts).ringSame rfl).trans hring)⟩

theorem State.take_queueRig (s : State) (d : Desc) (k : Ticket) (r op : Nat) (dest : RigMode) (pre post take list : Nat) :
    let t := (s.take d).queueRig k r op dest pre post take list
    t.dev = { s.dev with bound := s.dev.bound ++ [⟨s.time.tickNum + 2, some k, .rig r (.command op) dest pre post take list⟩] }
      ∧ s.owed t d := by
  obtain ⟨hdev, hring⟩ := (s.take d).queueRig_facts k r op dest pre post take list
  exact ⟨hdev, s.owed_of _ d hring⟩

/-- A take made and its change queued: the floor is the take's pair, and the counts of takes go up (R500). -/
theorem State.makeTake_queueRig (s : State) (d : Desc) (acts : List (Act × Cls)) (secs seq : Nat) (burst armed : Bool)
    (count entry : Nat) (k : Ticket) (r op : Nat) (dest : RigMode) (pre post take list : Nat) :
    let t := (((s.take d).admitted acts).makeTake r secs seq burst armed count entry).queueRig k r op dest pre post take list
    t.dev = { s.dev with bound := s.dev.bound ++ [⟨s.time.tickNum + 2, some k, .rig r (.command op) dest pre post take list⟩] }
      ∧ t.takes.nextTake = s.takes.nextTake + 1 ∧ t.takes.started = s.takes.started + 1
      ∧ t.sec.floorSecs = secs ∧ t.sec.floorSeq = seq ∧ s.owed t d := by
  have ha := ((s.take d).admitted_keeps acts).ringSame rfl
  have hm := (((s.take d).admitted acts).makeTake_keeps r secs seq burst armed count entry).ringSame rfl
  obtain ⟨hdev, hring⟩ :=
    (((s.take d).admitted acts).makeTake r secs seq burst armed count entry).queueRig_facts k r op dest pre post take list
  exact ⟨hdev, rfl, rfl, rfl, rfl, s.owed_of _ d ((ha.trans hm).trans hring)⟩

/-! ### What the taking of a descriptor leaves of what the commands read -/

theorem State.projRig_take (s : State) (d : Desc) (r : Nat) : (s.take d).projRig r = s.projRig r := rfl
theorem State.underFloor_take (s : State) (d : Desc) (secs seq : Nat) : (s.take d).underFloor secs seq = s.underFloor secs seq := rfl
theorem State.seqOf_take (s : State) (d : Desc) (n : Nat) : (s.take d).seqOf n = s.seqOf n := rfl

theorem State.admitRefuse_none {s : State} {acts : List (Act × Cls)} (h : (s.admission acts).2 = none) : s.admitRefuse acts = none := by
  unfold State.admitRefuse
  rw [h]

/-- A take or a burst starts from ARMED, or from LIVE without pre-roll (R38, R412). -/
theorem rigLegal_take {m : RigMode} {n : Nat} (h : m = .armed ∨ m = .live ∧ n = 0) :
    rigLegal 0x14 m = true ∧ (decide (0 < n) && decide (m = .live)) = false := by
  rcases h with rfl | ⟨rfl, rfl⟩
  · exact ⟨rfl, Bool.and_false _⟩
  · exact ⟨rfl, rfl⟩

section Commands
variable {s : State} {d : Desc} (ht : s.takesCmd d) (hc : s.isCtl d (tIndex d) = true) (hm : s.dev.mode = .operational)
include ht hc hm

theorem State.rigPlain_run {op : Nat} {dest : State → RigMode} (hst : structOk d (tIs d 1 16) [] false = true)
    (hl : rigLegal op (s.projRig (tIndex d)).1 = true) :
    s.rigPlain d op dest = (s.take d).queueRig
      { ticketOf d op with gen := (s.ring d.ring).gen } (tIndex d) op (dest (s.take d)) 0 0 0 0 := by
  obtain ⟨hs, htk, hk⟩ := ht
  exact s.rigCmd_run d op [] _ _ ⟨hs, htk⟩ hk hst hc hm hl rfl

/-- A command without admission of its own: it runs as `rigPlain`. -/
theorem exec_rigPlain {i : Instr} {op : Nat} {dest : State → RigMode} (hst : structOk d (tIs d 1 16) [] false = true)
    (hl : rigLegal op (s.projRig (tIndex d)).1 = true) (hi : exec i s = s.go (fun s => s.rigPlain d op dest)) :
    exec i s = .next ((s.take d).queueRig { ticketOf d op with gen := (s.ring d.ring).gen } (tIndex d) op (dest (s.take d)) 0 0 0 0) := by
  rw [hi, State.go_run _ _ ht.1, State.rigPlain_run ht hc hm hst hl]

theorem exec_rigStart (hst : structOk d (tIs d 1 16) [] false = true) (hidle : (s.projRig (tIndex d)).1 = .idle)
    (hup : ∀ st ∈ s.rigStreams (tIndex d), (s.hl (s.streamLink st)).mode = .up)
    (hadm : ((s.take d).admission ((s.take d).startActs (tIndex d))).2 = none) :
    exec (.rigStart d) s = .next (((s.take d).admitted ((s.take d).startActs (tIndex d))).queueRig
      { ticketOf d 0x10 with gen := (s.ring d.ring).gen } (tIndex d) 0x10 .live 0 0 0 0) := by
  obtain ⟨hs, htk, hk⟩ := ht
  have hany : ((s.take d).rigStreams (tIndex d)).any (fun st => ((s.take d).hl ((s.take d).streamLink st)).mode ≠ .up) = false :=
    List.any_eq_false.mpr fun st hmem => by
      rw [decide_eq_true_eq]
      exact fun c => c (hup st hmem)
  show execRigStart d s = _
  unfold execRigStart
  rw [State.go_run _ _ hs, State.rigCmd_run s d 0x10 [] _ _ ⟨hs, htk⟩ hk hst hc hm (by rw [hidle]; rfl)
    (by rw [if_neg (by rw [hany]; decide)]; exact State.admitRefuse_none hadm)]

theorem exec_rigArm (hst : structOk d (tIs d 1 16) [] false = true) (hlive : (s.projRig (tIndex d)).1 = .live)
    (hadm : ((s.take d).admission [(.preroll (tIndex d), .a)]).2 = none) :
    exec (.rigArm d) s = .next (((s.take d).admitted [(.preroll (tIndex d), .a)]).queueRig
      { ticketOf d 0x12 with gen := (s.ring d.ring).gen } (tIndex d) 0x12 .armed 0 0 0 0) := by
  obtain ⟨hs, htk, hk⟩ := ht
  show execRigArm d s = _
  unfold execRigArm
  rw [State.go_run _ _ hs, State.rigCmd_run s d 0x12 [] _ _ ⟨hs, htk⟩ hk hst hc hm (by rw [hlive]; rfl)
    (State.admitRefuse_none hadm)]

theorem exec_takeStart (hst : structOk d (tIs d 1 16) [(8, 2), (10, 1), (12, 4)] false = true) (hop : opAt d 10 1 < 4)
    (hproj : (s.projRig (tIndex d)).1 = .armed ∨ (s.projRig (tIndex d)).1 = .live ∧ opAt d 8 2 = 0)
    (hfloor : s.underFloor s.takeSecs (s.seqOf (opAt d 12 4)) = false) (hset : s.takeSet d < 8)
    (hel : (s.take d).eligible (s.takeSet d) ((s.take d).leadBytes (tIndex d) ((s.rigStreams (tIndex d)).foldl
      (fun n st => n + rateTerm s.activeSet (tIndex d) (magBytes s.activeSet st)) 0) 2) = true)
    (hadm : ((s.take d).admission ((s.take d).takeActs (tIndex d) (s.takeSet d))).2 = none) :
    exec (.takeStart d) s = .next
      ((((s.take d).admitted ((s.take d).takeActs (tIndex d) (s.takeSet d))).makeTake (tIndex d) s.takeSecs
        (s.seqOf (opAt d 12 4)) false (decide ((s.projRig (tIndex d)).1 = .armed)) 0 (opAt d 10 1)).queueRig
        { ticketOf d 0x14 with gen := (s.ring d.ring).gen } (tIndex d) 0x14 .record (opAt d 8 2) 0 s.takes.nextTake (s.takeSet d)) := by
  obtain ⟨hs, htk, hk⟩ := ht
  obtain ⟨hl, hpre⟩ := rigLegal_take hproj
  show execTakeStart d s = _
  unfold execTakeStart
  rw [State.go_run _ _ hs]
  unfold State.takeStart
  rw [decide_eq_true hop, State.rigCmd_run s d 0x14 _ _ _ ⟨hs, htk⟩ hk hst hc hm hl (if_neg (by rw [State.projRig_take, hpre]; decide)),
    State.take_takeSecs, if_neg (by rw [State.underFloor_take, hfloor]; decide), hel,
    if_neg (by rw [decide_eq_false (Nat.not_le.mpr hset)]; decide), State.admitRefuse_none hadm]
  rfl

theorem exec_burstStart (hst : structOk d (tIs d 1 16) [(8, 2), (12, 4)] false = true)
    (hproj : (s.projRig (tIndex d)).1 = .armed ∨ (s.projRig (tIndex d)).1 = .live ∧ opAt d 8 2 = 0)
    (hfloor : s.underFloor s.takeSecs (s.seqOf 0) = false)
    (hadm : ((s.take d).admission ((s.take d).burstActs (tIndex d))).2 = none) :
    exec (.burstStart d) s = .next
      ((((s.take d).admitted ((s.take d).burstActs (tIndex d))).makeTake (tIndex d) s.takeSecs (s.seqOf 0) true
        (decide ((s.projRig (tIndex d)).1 = .armed)) (opAt d 12 4) 0).queueRig
        { ticketOf d 0x16 with gen := (s.ring d.ring).gen } (tIndex d) 0x16 .burst (opAt d 8 2) (opAt d 12 4) s.takes.nextTake 0xFF) := by
  obtain ⟨hs, htk, hk⟩ := ht
  obtain ⟨hl, hpre⟩ := rigLegal_take hproj
  show execBurstStart d s = _
  unfold execBurstStart
  rw [State.go_run _ _ hs]
  unfold State.burstStart
  rw [State.rigCmd_run s d 0x16 _ _ _ ⟨hs, htk⟩ hk hst hc hm hl (if_neg (by rw [State.projRig_take, hpre]; decide)),
    State.take_takeSecs, if_neg (by rw [State.underFloor_take, State.seqOf_take, hfloor]; decide), State.admitRefuse_none hadm]
  rfl

end Commands

/-! ### The boundary -/

/-- Entering a mode changes the record of the rig that enters it, as it stood before the work of the change. -/
theorem State.enterRig_rigs_of {s u : State} {r : Nat} (h : u.dev.rigs = s.dev.rigs) (dest : RigMode) (c f : Nat) :
    (u.enterRig r dest c f).dev.rigs =
      s.dev.rigs.upd {} r (fun q => { q with mode := dest, prev := s.rigMode r, cause := c, changes := satAdd 0xFF q.changes 1 }) := by
  have hr : u.rigMode r = s.rigMode r := by
    unfold State.rigMode State.rig
    rw [h]
  rw [State.enterRig_rigs, h, hr]

theorem State.completeOpt_rigs (s : State) (k : Option Ticket) (st : Nat) (pl : List (Nat × Nat × Nat)) :
    (s.completeOpt k st pl).dev.rigs = s.dev.rigs := (s.completeOpt_keeps k st pl).same .rigs rfl

/-- A legal command's change of these seven sets its rig's record alone. -/
theorem State.applyRig_rigs (s : State) (r op : Nat) (dest : RigMode) (k : Option Ticket) (tick : Nat) (hm : s.dev.mode = .operational)
    (hl : rigLegal op (s.rigMode r) = true) (ho : op ∈ [0x10, 0x11, 0x12, 0x13, 0x18, 0x19, 0x1A]) :
    (s.applyRig ⟨tick, k, .rig r (.command op) dest 0 0 0 0⟩).dev.rigs =
      s.dev.rigs.upd {} r (fun q => { q with mode := dest, prev := s.rigMode r, cause := op, changes := satAdd 0xFF q.changes 1 }) := by
  have hgo : ¬(s.dev.mode ≠ .operational ∨ (!rigLegal op (s.rigMode r)) = true) := by simp [hm, hl]
  unfold State.applyRig
  dsimp only [RigCause.code]
  rw [if_neg hgo]
  simp only [List.mem_cons, List.not_mem_nil, or_false] at ho
  rcases ho with rfl | rfl | rfl | rfl | rfl | rfl | rfl
  · exact (State.completeOpt_rigs ..).trans (State.enterRig_rigs_of ((s.doStart_keeps r).same .rigs rfl) ..)
  · exact (State.completeOpt_rigs ..).trans (State.enterRig_rigs_of ((s.doStop_keeps r).same .rigs rfl) ..)
  · exact (State.completeOpt_rigs ..).trans (State.enterRig_rigs_of rfl ..)
  · exact (State.completeOpt_rigs ..).trans (State.enterRig_rigs_of
      (((s.ringStop r).dropLeaving_keeps r 0x13).same .rigs rfl |>.trans ((s.ringStop_keeps r).same .rigs rfl)) ..)
  · exact (State.completeOpt_rigs ..).trans (State.enterRig_rigs_of
      (((s.doAbort r).1.doOffloadEnd_keeps r).same .rigs rfl |>.trans ((s.doAbort_keeps r).same .rigs rfl)) ..)
  · exact (State.completeOpt_rigs ..).trans (State.enterRig_rigs_of rfl ..)
  · exact (State.completeOpt_rigs ..).trans (State.enterRig_rigs_of rfl ..)

/-- What follows the changes of a boundary leaves the rigs alone. -/
theorem State.rigModeChange_rigs (s : State) (r op : Nat) (dest : RigMode) (k : Option Ticket) (tick : Nat)
    (hb : s.dev.bound = [⟨tick, k, .rig r (.command op) dest 0 0 0 0⟩]) (ht : tick ≤ s.time.tickNum) (hm : s.dev.mode = .operational)
    (hl : rigLegal op (s.rigMode r) = true) (ho : op ∈ [0x10, 0x11, 0x12, 0x13, 0x18, 0x19, 0x1A]) :
    (s.rigModeChange r).dev.rigs =
      s.dev.rigs.upd {} r (fun q => { q with mode := dest, prev := s.rigMode r, cause := op, changes := satAdd 0xFF q.changes 1 }) := by
  rw [s.rigModeChange_one r op dest _ hb rfl ht]
  exact ((State.takeCkpt_keeps _).same .rigs rfl).trans (((State.autoStep_keeps _).same .rigs rfl).trans
    (((State.prerollCatch_keeps _ r).same .rigs rfl).trans (State.applyRig_rigs _ r op dest k tick hm hl ho)))

/-- Settles O33: each command is queued by its equation, and the boundary sets one rig's record. -/
theorem rigModeCommands : Obligations.RigModeCommands := by
  refine ⟨?plain, ?start, ?arm, ?take, ?burst, ?boundary⟩
  case plain =>
    intro s d x ht hst hc hm hx hl
    simp only [List.mem_cons, List.not_mem_nil, or_false] at hx
    rcases hx with rfl | rfl | rfl | rfl | rfl | rfl | rfl <;>
    exact ⟨_, _, exec_rigPlain ht hc hm hst hl rfl, rfl, s.take_queueRig ..⟩
  case start =>
    intro s d ht hst hc hm hidle hup hadm
    exact ⟨_, _, exec_rigStart ht hc hm hst hidle hup hadm, rfl, s.admitted_queueRig ..⟩
  case arm =>
    intro s d ht hst hc hm hlive hadm
    exact ⟨_, _, exec_rigArm ht hc hm hst hlive hadm, rfl, s.admitted_queueRig ..⟩
  case take =>
    intro s d ht hst hc hm hop hproj hfloor hset hel hadm
    exact ⟨_, _, exec_takeStart ht hc hm hst hop hproj hfloor hset hel hadm, rfl, s.makeTake_queueRig ..⟩
  case burst =>
    intro s d ht hst hc hm hproj hfloor hadm
    obtain ⟨hdev, hnext, _, hsecs, hseq, howed⟩ := s.makeTake_queueRig ..
    exact ⟨_, _, exec_burstStart ht hc hm hst hproj hfloor hadm, rfl, hdev, hnext, hsecs, hseq, howed⟩
  case boundary =>
    intro s r op dest k tick hs _ ho hm hl ht hb
    have hop : op ∈ [0x10, 0x11, 0x12, 0x13, 0x18, 0x19, 0x1A] := List.mem_map_of_mem (f := Prod.fst) ho
    have hrigs := s.rigModeChange_rigs r op dest k tick hb ht hm hl hop
    refine ⟨_, (State.go_run _ _ hs : execRigModeChange r s = _), ?_⟩
    unfold State.rigMode State.rig
    rw [hrigs, Tab.get_upd_self]
    exact ⟨rfl, rfl, rfl, rfl, fun j hj => Tab.get_upd_ne _ _ _ hj⟩

end Sys2Proof.Machine

/-! SUPPORT. The commands of configuration sets and their boundaries, and the sealing of a table object (R526 to R543). -/

namespace Sys2Proof.Machine

/-! ### CONFIG_COMMIT, CONFIG_CLEAR and CONFIG_FALLBACK -/

theorem State.pushBound_dev (s : State) (b : Bound) : (s.pushBound b).dev = { s.dev with bound := s.dev.bound ++ [b] } := rfl

theorem State.owed_pushBound (s u : State) (d : Desc) (b : Bound) (h : u.rings = (s.take d).rings) : s.owed (u.pushBound b) d :=
  s.owed_of _ d (RingSame.of h)

theorem State.discardFailure_noUndo (s : State) (h : s.cfg.undo = none) : s.discardFailure = s := by
  unfold State.discardFailure
  rw [h]

/-- A commit with nothing waiting, of a set that is valid and fits, passes the checks of R527. -/
theorem State.commitCheck_none {s : State} {d : Desc} (hsteward : s.isSteward d = true)
    (hst : structOk d (tNone d) [(8, 4)] false = true)
    (hm : s.dev.mode = .standby ∨ s.dev.mode = .operational) (hbase : opAt d 8 4 = 0 ∨ opAt d 8 4 = s.cfg.activeVer)
    (hwait : s.cfgWaiting = false) (hspent : s.cfg.spent = false) (hvalid : (s.take d).validate s.cfg.pending = none)
    (hfits : worst ((s.take d).commitMisfits s.cfg.pending) = none) : State.commitCheck d (s.take d) = none := by
  unfold State.commitCheck
  rw [State.check405_none _ d hst rfl (show (s.take d).isSteward d = true from hsteward) (s.modes2 d hm),
    State.discardFailure_idle (s.take d) hwait]
  dsimp only
  rw [if_neg (fun c => hbase.elim c.1 c.2), if_neg (by rw [show (s.take d).cfgWaiting = false from hwait]; decide),
    if_neg (by rw [State.take_cfg, hspent]; decide), State.take_cfg, hvalid, hfits]
  rfl

section Commands
variable {s : State} {d : Desc} (ht : s.takesCmd d) (hsteward : s.isSteward d = true)
include ht hsteward

theorem exec_configCommit (hst : structOk d (tNone d) [(8, 4)] false = true)
    (hm : s.dev.mode = .standby ∨ s.dev.mode = .operational) (hbase : opAt d 8 4 = 0 ∨ opAt d 8 4 = s.cfg.activeVer)
    (hwait : s.cfgWaiting = false) (hspent : s.cfg.spent = false) (hvalid : (s.take d).validate s.cfg.pending = none)
    (hfits : worst ((s.take d).commitMisfits s.cfg.pending) = none) :
    exec (.configCommit d) s = .next (((s.take d).reserveRaise s.cfg.pending).pushBound
      ⟨s.time.tickNum + 2, some { ticketOf d 0x20 with gen := (s.ring d.ring).gen }, .commit s.cfg.pending⟩) := by
  have hcheck := State.commitCheck_none hsteward hst hm hbase hwait hspent hvalid hfits
  obtain ⟨hs, htk, hk⟩ := ht
  show execConfigCommit d s = _
  unfold execConfigCommit
  rw [State.go_run _ _ hs]
  unfold State.configCommit
  rw [hcheck]
  dsimp only
  rw [Bool.and_false, if_neg Bool.false_ne_true, State.runCmd_run _ _ _ _ _ htk hk hcheck, State.discardFailure_idle (s.take d) hwait]
  rfl

theorem exec_configClear (hst : structOk d (tNone d) [] false = true) (hm : s.dev.mode = .operational)
    (hidle : ∀ r, r < 16 → s.rigMode r = .idle ∧ (s.projRig r).1 = .idle) (hwait : s.cfgWaiting = false) :
    exec (.configClear d) s = .next ((s.take d).pushBound
      ⟨s.time.tickNum + 2, some { ticketOf d 0x21 with gen := (s.ring d.ring).gen }, .clear⟩) := by
  obtain ⟨hs, htk, hk⟩ := ht
  have hrigs : (List.range 16).all (fun r => decide ((s.take d).rigMode r = .idle) && decide (((s.take d).projRig r).1 = .idle)) = true :=
    List.all_eq_true.mpr fun r hr => by
      obtain ⟨h1, h2⟩ := hidle r (List.mem_range.mp hr)
      exact Bool.and_eq_true_iff.mpr ⟨decide_eq_true h1, decide_eq_true h2⟩
  have hmode : (s.take d).modeIn [.operational] = true := by
    show List.contains [DevMode.operational] s.dev.mode = true
    rw [hm]
    rfl
  have hcheck : State.clearCheck d (s.take d) = none := by
    unfold State.clearCheck
    rw [State.check405_none _ d hst rfl (show (s.take d).isSteward d = true from hsteward) (by rw [hmode, hrigs]; rfl)]
    exact if_neg (by rw [show (s.take d).cfgWaiting = false from hwait]; decide)
  show execConfigClear d s = _
  unfold execConfigClear
  rw [State.go_run _ _ hs, State.runCmd_run _ _ _ _ _ htk hk hcheck]
  rfl

theorem exec_configFallback (hst : structOk d (tNone d) [(8, 1)] false = true)
    (hm : s.dev.mode = .standby ∨ s.dev.mode = .operational ∧ s.cfg.spent = false)
    (hsel : opAt d 8 1 = 1 ∨ opAt d 8 1 = 0 ∧ s.cfg.previous.isSome = true) :
    exec (.configFallback d) s = .next ((s.take d).configFallback d { ticketOf d 0x22 with gen := (s.ring d.ring).gen }) := by
  obtain ⟨hs, htk, hk⟩ := ht
  have hop : opAt d 8 1 ≤ 1 := by omega
  have hslot : ¬(opAt d 8 1 = 0 ∧ (s.take d).cfg.previous.isNone = true) := by
    rintro ⟨h0, hn⟩
    rcases hsel with h1 | ⟨_, hsome⟩
    · omega
    · rw [State.take_cfg, Option.isNone_iff_eq_none] at hn
      rw [hn] at hsome
      cases hsome
  have hroom : ¬((s.take d).dev.mode = .operational ∧ (s.take d).cfg.spent = true) := by
    rintro ⟨hop, hsp⟩
    rcases hm with hm | ⟨_, hm⟩
    · exact absurd (hm.symm.trans hop) (by decide)
    · exact absurd (hm.symm.trans hsp) (by decide)
  have hcheck : State.fallbackCheck d (s.take d) = none := by
    unfold State.fallbackCheck
    rw [State.check405_none _ d hst (decide_eq_true hop) (show (s.take d).isSteward d = true from hsteward)
      (s.modes2 d (hm.imp_right And.left))]
    exact (if_neg hslot).trans (if_neg hroom)
  show execConfigFallback d s = _
  unfold execConfigFallback
  rw [State.go_run _ _ hs, State.runCmd_run _ _ _ _ _ htk hk hcheck]

end Commands

/-- In STANDBY the slot is copied into the pending set, and the command completes (R543). -/
theorem State.configFallback_standby (s : State) (d : Desc) (k : Ticket) (h : s.dev.mode = .standby) : s.configFallback d k =
    (s.setCfg (fun c => { c with pending := s.fallbackSet (decide (opAt d 8 1 = 1)) })).complete k stDone [(16, 4, 0)] := if_pos h

/-- In OPERATIONAL the fallback waits for its boundary (R542). -/
theorem State.configFallback_operational (s : State) (d : Desc) (k : Ticket) (h : s.dev.mode = .operational) (hu : s.cfg.undo = none) :
    s.configFallback d k = (s.setCfg (fun c => { c with
      pending := s.keepLocked (s.fallbackSet (decide (opAt d 8 1 = 1))), probation := none, failedVersion := c.activeVer,
      fbCause := 0x100 })).pushBound ⟨s.time.tickNum + 2, some k, .fallback (decide (opAt d 8 1 = 1)) true 0⟩ := by
  unfold State.configFallback
  rw [if_neg (by rw [h]; decide), s.discardFailure_noUndo hu]

/-! ### The boundaries -/

/-- The jobs of the tick, which wait for the last change of a boundary, change neither the mode nor the slots. -/
theorem State.afterChange_facts (s : State) : s.afterChange.dev.mode = s.dev.mode ∧ s.afterChange.dev.prevMode = s.dev.prevMode
    ∧ Part.active.same s s.afterChange := by
  have h := s.afterChange_keeps
  obtain ⟨hmode, hprev, _, _⟩ := h.same .mode rfl
  exact ⟨hmode, hprev, h.same .active rfl⟩

/-- After an activation the wake of motion channels, the checkpoint and the jobs of the tick leave the mode and the slots. -/
theorem State.afterActivate_facts (s : State) :
    let t := s.mchWake.takeCkpt.afterChange
    t.dev.mode = s.dev.mode ∧ Part.active.same s t := by
  obtain ⟨hmode, _, hslots⟩ := s.mchWake.takeCkpt.afterChange_facts
  have hwake := s.mchWake_keeps
  have hckpt := s.mchWake.takeCkpt_keeps
  exact ⟨hmode.trans ((hckpt.same .mode rfl).1.trans (hwake.same .mode rfl).1),
    Part.same_trans (hwake.same .active rfl) (Part.same_trans (hckpt.same .active rfl) hslots)⟩

/-- The state in which an activation has its effects: nothing waits for a boundary any more. -/
def State.noBounds (s : State) : State := { s with dev := { s.dev with bound := [] } }

theorem State.commitBoundary_one (s : State) {tick : Nat} {k : Option Ticket} {set : RegSet}
    (hb : s.dev.bound = [⟨tick, k, .commit set⟩]) (ht : tick ≤ s.time.tickNum) :
    s.commitBoundary = (s.noBounds.activate set false k).mchWake.takeCkpt := by
  unfold State.commitBoundary
  rw [State.dueBound_one _ _ _ hb rfl ht]
  rfl

theorem State.fallbackBoundary_one (s : State) {tick c : Nat} {factory comm : Bool} {k : Option Ticket}
    (hb : s.dev.bound = [⟨tick, k, .fallback factory comm c⟩]) (ht : tick ≤ s.time.tickNum) (hm : s.dev.mode = .operational)
    (hspent : s.cfg.spent = false) : s.fallbackBoundary =
      (s.noBounds.activate (s.noBounds.keepLocked (s.fallbackSet factory)) true k).mchWake.takeCkpt := by
  unfold State.fallbackBoundary
  rw [State.dueBound_one _ _ _ hb rfl ht]
  exact (if_neg fun c => c hm).trans (if_neg (by rw [hspent]; decide))

/-- The mode and the slots at the end of a boundary at which a set becomes active (R526, R540, R542). -/
theorem State.activated_facts (s : State) (set : RegSet) (fallback : Bool) (k : Option Ticket)
    (hm : s.dev.mode = .standby ∨ s.dev.mode = .operational) :
    let t := (s.noBounds.activate set fallback k).mchWake.takeCkpt.afterChange
    t.dev.mode = .operational ∧ Part.active.same { s with cfg := s.cfg.activate set fallback } t := by
  obtain ⟨hmode, hslots⟩ := (s.noBounds.activate set fallback k).afterActivate_facts
  obtain ⟨hactive, hprevious, hlast, hop⟩ := s.noBounds.activate_facts set fallback k
  obtain ⟨hactive', hprevious', hlast'⟩ := hslots
  exact ⟨hmode.trans (hop hm), hactive'.trans hactive, hprevious'.trans hprevious, hlast'.trans hlast⟩

theorem State.enterMode_prevMode (s : State) (m : DevMode) (c : Nat) : (s.enterMode m c).dev.prevMode = s.dev.mode := by
  unfold State.enterMode
  rw [State.post_dev]

/-- The mask of every part but the device mode and the slots of the sets. -/
def allButModeAndSlots : Nat := 2 ^ 40 - 1 - 2 ^ Part.mode.idx - 2 ^ Part.active.idx

/-- A clear's boundary up to the change of rings: the completion, every rig IDLE, STANDBY, and the rig changes of the boundary. -/
def State.clearEntered (s : State) (k : Option Ticket) : State :=
  (List.range 16).foldl (fun s r => s.rigModeChange r)
    (((List.range 16).foldl (fun s r => s.rigNow r) (s.completeOpt k stDone)).enterMode .standby 0x21)

theorem State.clearBoundary_one (s : State) {tick : Nat} {k : Option Ticket} (hb : s.dev.bound = [⟨tick, k, .clear⟩])
    (ht : tick ≤ s.time.tickNum) : s.clearBoundary =
      ((((s.noBounds.clearEntered k).subsCommit []).ringsClear.leaveActive).applySet
        (s.noBounds.clearEntered k).activeSet).takeCkpt := by
  unfold State.clearBoundary
  rw [State.dueBound_one _ _ _ hb rfl ht]
  rfl

/-- The device enters STANDBY from the mode it was in, with the slots as they were. -/
theorem State.clearEntered_facts (s : State) (k : Option Ticket) : (s.clearEntered k).dev.mode = .standby
    ∧ (s.clearEntered k).dev.prevMode = s.dev.mode ∧ Part.active.same s (s.clearEntered k) := by
  have hidle : Keeps allButModeAndSlots s ((List.range 16).foldl (fun s r => s.rigNow r) (s.completeOpt k stDone)) :=
    Keeps.foldl (fun x r hx => (x.rigNow_keeps r).after rfl hx) ((s.completeOpt_keeps k stDone _).mono rfl)
  unfold State.clearEntered
  generalize (List.range 16).foldl (fun s r => s.rigNow r) (s.completeOpt k stDone) = u at hidle
  have hrigs : Keeps allButModeAndSlots (u.enterMode .standby 0x21)
      ((List.range 16).foldl (fun s r => s.rigModeChange r) (u.enterMode .standby 0x21)) :=
    Keeps.foldl (fun x r hx => (x.rigModeChange_keeps r).after rfl hx) (Keeps.refl _ _)
  obtain ⟨hmode, hprev, _, _⟩ := hrigs.same .mode rfl
  rw [hmode, hprev, State.enterMode_mode, State.enterMode_prevMode]
  exact ⟨rfl, (hidle.same .mode rfl).1, Part.same_trans (hidle.same .active rfl)
    (Part.same_trans ((u.enterMode_keeps .standby 0x21).same .active rfl) (hrigs.same .active rfl))⟩

/-- What leaving a set makes of the slots depends on the slots alone. -/
theorem State.leaveActive_slots {s u : State} (h : Part.active.same s u) : u.leaveActive.cfg.active = none
    ∧ u.leaveActive.cfg.previous = s.leaveActive.cfg.previous ∧ u.leaveActive.cfg.lastVersion = s.cfg.lastVersion := by
  obtain ⟨hactive, hprevious, hlast⟩ := h
  refine ⟨rfl, ?_, hlast⟩
  unfold State.leaveActive State.setCfg
  dsimp only
  rw [hactive, hprevious]

theorem State.clearBoundary_facts (s : State) {tick : Nat} {k : Option Ticket} (hb : s.dev.bound = [⟨tick, k, .clear⟩])
    (ht : tick ≤ s.time.tickNum) : s.clearBoundary.dev.mode = .standby ∧ s.clearBoundary.cfg.active = none
      ∧ s.clearBoundary.dev.prevMode = s.dev.mode ∧ s.clearBoundary.cfg.lastVersion = s.cfg.lastVersion
      ∧ s.clearBoundary.cfg.previous = s.leaveActive.cfg.previous := by
  rw [s.clearBoundary_one hb ht]
  obtain ⟨hmode, hprev, hslots⟩ := s.noBounds.clearEntered_facts k
  generalize s.noBounds.clearEntered k = u at hmode hprev hslots
  have hrings : Keeps allButModeAndSlots u (u.subsCommit []).ringsClear :=
    (State.ringsClear_keeps _).after rfl ((u.subsCommit_keeps []).mono rfl)
  have hafter : Keeps allButModeAndSlots (u.subsCommit []).ringsClear.leaveActive
      ((u.subsCommit []).ringsClear.leaveActive.applySet u.activeSet).takeCkpt :=
    (State.takeCkpt_keeps _).after rfl ((State.applySet_keeps _ u.activeSet).mono rfl)
  obtain ⟨hactive, hprevious, hlast⟩ := State.leaveActive_slots (Part.same_trans hslots (hrings.same .active rfl))
  obtain ⟨hactive', hprevious', hlast'⟩ := hafter.same .active rfl
  obtain ⟨hm1, hp1, _, _⟩ := hrings.same .mode rfl
  obtain ⟨hm2, hp2, _, _⟩ := hafter.same .mode rfl
  exact ⟨(hm2.trans hm1).trans hmode, hactive'.trans hactive, (hp2.trans hp1).trans hprev, hlast'.trans hlast,
    hprevious'.trans hprevious⟩

/-- The end of probation: the active set has passed (R540). -/
theorem State.probationEnd_facts (s : State) (h : s.cfg.probation = some 0) : s.probationEnd.dev = s.dev
    ∧ s.probationEnd.cfg = { s.cfg with probation := none, active := s.cfg.active.map (fun a => { a with passed := true }) } := by
  unfold State.probationEnd
  rw [if_pos h]
  exact ⟨((State.takeCkpt_keeps _).same .dev rfl).trans (State.post_dev ..),
    ((State.takeCkpt_keeps _).same .cfg rfl).trans (State.post_cfg ..)⟩

/-! ### Sealing -/

/-- The digest of the object that is sealing is done: it is kept where it equals the one asked for (R536, R537). -/
theorem State.tobjSealDone_one (s : State) {i : Nat} {o : ObjSt}
    (h : s.obj.dir.find? (fun e => decide (e.2.phase = .sealing)) = some (i, o)) : s.tobjSealDone =
      if sha384 (s.objBytes (o.gen * 65536 + i) 0 o.size) = o.want then
        (s.setObj i (fun q => { q with
          phase := .sealed_, digest := sha384 (s.objBytes (o.gen * 65536 + i) 0 o.size), want := [] })).tobjEnd stDone
      else (s.setObj i (fun q => { q with phase := .open_, want := [] })).tobjEnd stIntegrity := by
  unfold State.tobjSealDone
  rw [h]

/-- The end of an operation on an object whose record has been set. -/
theorem State.setObj_tobjEnd (s : State) (i : Nat) (f : ObjSt → ObjSt) (st : Nat) (h : st < 2 ^ 32) :
    ((s.setObj i f).tobjEnd st).obj.heap = s.obj.heap ∧ bit (((s.setObj i f).tobjEnd st).reg Reg.TOBJ_CTRL) 31 = false
      ∧ ((s.setObj i f).tobjEnd st).obj.dir.get {} i = f (s.obj.dir.get {} i)
      ∧ (((s.setObj i f).tobjEnd st).reg Reg.TOBJ_RESULT).toNat = st := by
  obtain ⟨hgo, hres, hobj⟩ := (s.setObj i f).tobjEnd_facts st h
  rw [hobj]
  exact ⟨rfl, hgo, s.setObj_get i f, hres⟩

/-- Settles O35: each command by its equation, each boundary by what its activation or clear leaves. A fallback set that has not
passed, its failed version and its cause are the model's (log entry 96), as is the order at a clear (97). -/
theorem configurationSets : Obligations.ConfigurationSets := by
  refine ⟨?commit, ?clear, ?fallbackStandby, ?fallbackOperational, ?commitBoundary, ?fallbackBoundary, ?clearBoundary,
    ?probation, ?sealing⟩
  case commit =>
    intro s d ht hst hsteward hm hbase hwait hspent hvalid hfits
    have hresv := (s.take d).reserveRaise_keeps s.cfg.pending
    refine ⟨_, _, exec_configCommit ht hsteward hst hm hbase hwait hspent hvalid hfits, rfl, ?_, hresv.same .cfg rfl,
      s.owed_pushBound _ d _ (hresv.same .rings rfl)⟩
    rw [State.pushBound_dev, hresv.same .dev rfl, State.take_dev]
  case clear =>
    intro s d ht hst hsteward hm hidle hwait
    exact ⟨_, _, exec_configClear ht hsteward hst hm hidle hwait, rfl, rfl, rfl, s.owed_pushBound _ d _ rfl⟩
  case fallbackStandby =>
    intro s d ht hst hsteward hm hsel
    refine ⟨_, exec_configFallback ht hsteward hst (Or.inl hm) hsel, ?_⟩
    rw [State.configFallback_standby (s.take d) d _ hm]
    refine ⟨State.complete_dev .., s.finished_complete _ d _ _ _ _ rfl rfl (RingSame.of rfl), ?_⟩
    rw [State.complete_cfg]
    show ({ s.cfg with pending := s.fallbackSet (decide (opAt d 8 1 = 1)) } : CfgState) = _
    unfold State.fallbackSet
    simp only [decide_eq_true_eq]
  case fallbackOperational =>
    intro s d ht hst hsteward hm hsel hspent hundo
    refine ⟨_, _, exec_configFallback ht hsteward hst (Or.inr ⟨hm, hspent⟩) hsel, rfl, ?_⟩
    rw [State.configFallback_operational (s.take d) d _ hm hundo]
    refine ⟨s.owed_pushBound _ d _ rfl, rfl, ?_⟩
    rw [State.pushBound_dev, State.setCfg_dev, State.take_dev, State.take_time]
  case commitBoundary =>
    intro s tick k set hs hb ht hm
    refine ⟨_, (State.go_run _ _ hs : execCommitBoundary s = _), ?_⟩
    rw [s.commitBoundary_one hb ht]
    obtain ⟨hmode, hactive, hprevious, hlast⟩ := s.activated_facts set false k hm
    exact ⟨hmode, hlast, hactive, hprevious⟩
  case fallbackBoundary =>
    intro s tick c factory comm k hs hb ht hm hspent
    refine ⟨_, (State.go_run _ _ hs : execConfigFallbackBoundary s = _), ?_⟩
    rw [s.fallbackBoundary_one hb ht hm hspent]
    obtain ⟨hmode, hactive, _, hlast⟩ := s.activated_facts (s.noBounds.keepLocked (s.fallbackSet factory)) true k (Or.inr hm)
    exact ⟨hmode, hlast, hactive⟩
  case clearBoundary =>
    intro s tick k hs hb ht
    refine ⟨_, (State.go_run _ _ hs : execConfigClearBoundary s = _), ?_⟩
    obtain ⟨hmode, hactive, hprev, hlast, hprevious⟩ := s.clearBoundary_facts hb ht
    obtain ⟨hmode', hprev', hactive', hprevious', hlast'⟩ := s.clearBoundary.afterChange_facts
    exact ⟨hmode'.trans hmode, hactive'.trans hactive, hprev'.trans hprev, hlast'.trans hlast, hprevious'.trans hprevious⟩
  case probation =>
    intro s hs hp
    exact ⟨_, (State.go_run _ _ hs : execProbationEnd s = _), s.probationEnd_facts hp⟩
  case sealing =>
    intro s i o hs hfind hget
    refine ⟨_, (State.go_run _ _ hs : execTobjSealDone s = _), ?_⟩
    rw [s.tobjSealDone_one hfind]
    by_cases h : sha384 (s.objBytes (o.gen * 65536 + i) 0 o.size) = o.want
    · rw [if_pos h, h]
      obtain ⟨hheap, hgo, hdir, hres⟩ :=
        s.setObj_tobjEnd i (fun q => { q with phase := .sealed_, digest := o.want, want := [] }) stDone (by decide)
      rw [hget] at hdir
      exact ⟨hheap, hgo, fun _ => ⟨hdir, hres⟩, fun hne => absurd rfl hne⟩
    · rw [if_neg h]
      obtain ⟨hheap, hgo, hdir, hres⟩ := s.setObj_tobjEnd i (fun q => { q with phase := .open_, want := [] }) stIntegrity (by decide)
      rw [hget] at hdir
      exact ⟨hheap, hgo, fun he => absurd he h, fun _ => ⟨hdir, hres⟩⟩

end Sys2Proof.Machine

/-! SUPPORT. The commands that decide a time step: the checks they pass and the decision they leave (R59-R62). -/

namespace Sys2Proof.Machine

/-- Nothing turns a time step away: FORCE is set, or no rig records (R61). -/
theorem State.noRigRecords {s : State} {force : Nat}
    (h : force = 1 ∨ ∀ r, r < 16 → s.rigMode r ≠ .record ∧ s.rigMode r ≠ .burst) :
    (decide (force = 0) && (List.range 16).any (fun r => decide (s.rigMode r = .record) || decide (s.rigMode r = .burst))) = false := by
  rcases h with rfl | h
  · rfl
  · have hany : (List.range 16).any (fun r => decide (s.rigMode r = .record) || decide (s.rigMode r = .burst)) = false :=
      List.any_eq_false.mpr fun r hr => by
        obtain ⟨hrec, hburst⟩ := h r (List.mem_range.mp hr)
        simp [hrec, hburst]
    rw [hany, Bool.and_false]

section StepCheck
variable {s : State} {d : Desc} {used : List (Nat × Nat)} {force : Nat} (hst : structOk d (tNone d) used false = true)
  (hforce : force ≤ 1) (hsteward : s.isSteward d = true) (hm : s.dev.mode = .standby ∨ s.dev.mode = .operational)
  (hdec : s.time.decided = none)
  (hrigs : force = 1 ∨ ∀ r, r < 16 → s.rigMode r ≠ .record ∧ s.rigMode r ≠ .burst)
include hst hforce hsteward hm hdec hrigs

/-- The checks of R61 pass, whichever step is asked for, where that step can be had. -/
theorem State.stepCheck_none {pend : Bool}
    (hstep : (pend && s.time.pendingStep.isNone || !pend && decide (s.source = 1)) = false) :
    State.stepCheck d used force pend (s.take d) = none := by
  have hbusy : (pend && (s.take d).time.pendingStep.isNone || !pend && decide ((s.take d).source = 1)
      || (s.take d).time.decided.isSome || decide (force = 0) && (List.range 16).any (fun r =>
          decide ((s.take d).rigMode r = .record) || decide ((s.take d).rigMode r = .burst))) = false := by
    show (pend && s.time.pendingStep.isNone || !pend && decide (s.source = 1) || s.time.decided.isSome
      || decide (force = 0) && (List.range 16).any (fun r => decide (s.rigMode r = .record) || decide (s.rigMode r = .burst))) = false
    rw [hstep, hdec, State.noRigRecords hrigs]
    rfl
  unfold State.stepCheck
  rw [State.check405_none _ d hst (decide_eq_true hforce) (show (s.take d).isSteward d = true from hsteward) (s.modes2 d hm)]
  exact if_neg (by rw [hbusy]; decide)

end StepCheck

/-- Settles O29: both commands pass the checks of R61, and their bodies change the record of time alone. -/
theorem timeStepsDecided : Obligations.TimeStepsDecided := by
  refine ⟨?accept, ?set⟩
  case accept =>
    intro s d ht hst hforce hsteward hm hpend hdec hrigs
    obtain ⟨hs, htk, hk⟩ := ht
    have hcheck : State.stepCheck d [(8, 1)] (opAt d 8 1) true (s.take d) = none :=
      State.stepCheck_none hst hforce hsteward hm hdec hrigs (by rw [Option.isNone_eq_false_iff.mpr hpend]; rfl)
    refine ⟨_, _, (State.go_run _ _ hs : execTimeStepAccept d s = _), rfl, ?_⟩
    rw [State.runCmd_run _ _ _ _ _ htk hk hcheck]
    exact ⟨rfl, s.owed_of _ d (RingSame.of rfl)⟩
  case set =>
    intro s d ht hst hforce hsteward hm hsource hdec hrigs
    obtain ⟨hs, htk, hk⟩ := ht
    have hcheck : State.stepCheck d [(8, 11)] (opAt d 18 1) false (s.take d) = none :=
      State.stepCheck_none hst hforce hsteward hm hdec hrigs (by rw [decide_eq_false hsource]; rfl)
    refine ⟨_, _, (State.go_run _ _ hs : execTimeSet d s = _), rfl, ?_⟩
    rw [State.runCmd_run _ _ _ _ _ htk hk hcheck]
    exact ⟨rfl, s.owed_of _ d (RingSame.of rfl)⟩

end Sys2Proof.Machine

/-! SUPPORT. A timing port: its messages, its masters, its link and its other frames (R52, R55, R57, R87, R629). -/

namespace Sys2Proof.Machine

theorem State.count_tp (s : State) (r : RegRow) (i p : Nat) : (s.count r i).tp p = s.tp p := rfl

/-! ### PTP messages -/

section Message
variable {s : State} {p : Nat} {m : PtpMsg} (hen : bit (s.act Reg.TP_CTRL p) 0 = true) (hup : (s.tp p).linkUp = true)
  (hrec : s.recovering 3 = false)
include hen hup hrec

/-- A message of another domain or transport is dropped and counted (R87). -/
theorem State.ptpMessage_foreign (h : m.domain ≠ s.ptpDomain ∨ m.transport ≠ fld (s.act Reg.TP_CTRL p) 5 4) :
    s.ptpMessage p m = s.count Reg.TP_RX_DROP_CNT p := by
  unfold State.ptpMessage
  dsimp only
  rw [hen, hup, hrec]
  exact (if_neg (by decide)).trans (if_pos h)

/-- A message of the clock's domain and the port's transport is counted and taken (R57). -/
theorem State.ptpMessage_own (hd : m.domain = s.ptpDomain) (ht : m.transport = fld (s.act Reg.TP_CTRL p) 5 4) :
    s.ptpMessage p m = (s.count Reg.TP_RX_PTP_CNT p).ptpAccept p m := by
  unfold State.ptpMessage
  dsimp only
  rw [hen, hup, hrec]
  exact (if_neg (by decide)).trans (if_neg fun c => c.elim (fun c => c hd) (fun c => c ht))

end Message

theorem State.ptpAccept_pdelayReq (s : State) (p : Nat) (m : PtpMsg) (hk : m.kind = .pdelayReq)
    (hp : bit (s.act Reg.TP_CTRL p) 9 = true) : s.ptpAccept p m = s.emit (.eth p 2 []) := by
  unfold State.ptpAccept
  dsimp only
  rw [hk]
  exact if_pos hp

/-- A Delay_Resp closes an exchange: half of what the four times and the two corrections leave (R57, log entry 60). -/
theorem State.ptpAccept_delayResp (s : State) (p : Nat) (m : PtpMsg) {t1 : Int} (hk : m.kind = .delayResp)
    (h1 : (s.tp p).t1 = some t1) (hp : bit (s.act Reg.TP_CTRL p) 9 = false) :
    s.ptpAccept p m = s.setTp p (fun q =>
      { q with delay := some (((q.t2 - t1 - q.corr) + (m.time - q.t3 - m.corr)) / 2) }) := by
  unfold State.ptpAccept
  dsimp only
  rw [hk]
  dsimp only
  rw [h1, hp]
  rfl

/-- An Announce whose interval is in range is kept beside those heard; what follows of it changes no port's record (R55, R57). -/
theorem State.ptpAccept_announce (s : State) (p : Nat) (m : PtpMsg) (hk : m.kind = .announce) (hlo : -3 ≤ m.logInterval)
    (hhi : m.logInterval ≤ 3) : ((s.ptpAccept p m).tp p).heard = hear (s.tp p).heard m s.time.clk := by
  have hheard : (((s.setTp p (fun q => { q with heard := hear q.heard m s.time.clk })).chooseFrom s.time.activeTp s.activeGm).tp
      p).heard = hear (s.tp p).heard m s.time.clk := by
    rw [State.chooseFrom_tp, State.tp_setTp_self]
  unfold State.ptpAccept
  dsimp only
  rw [hk]
  dsimp only
  rw [if_neg (by omega)]
  generalize State.chooseFrom _ _ _ = u at hheard ⊢
  split
  · split
    · split <;> exact hheard
    · exact hheard
  · exact hheard

/-! ### A master that times out -/

theorem State.sourceLost_tp (s : State) (p : Nat) : s.sourceLost.tp p = s.tp p := by
  unfold State.sourceLost
  split
  · unfold State.tp
    rw [(State.setServo_servo ..).2.2]
  · rfl

/-- The loss of a source writes no register of the time window but TIME_EVENTS. -/
theorem State.sourceLost_reg (s : State) (q : RegRow) (k : Nat) (hq : q.win = 11) (ha : q.addr k ≠ Reg.TIME_EVENTS.addr) :
    s.sourceLost.reg q k = s.reg q k := by
  unfold State.sourceLost
  split
  · exact State.setServo_reg _ _ _ _ hq ha
  · rfl

theorem annToCnt_ne_timeEvents (p : Nat) : Reg.TP_ANN_TO_CNT.addr p ≠ Reg.TIME_EVENTS.addr := by
  simp only [RegRow.addr, Reg.TP_ANN_TO_CNT, Reg.TIME_EVENTS]
  omega

/-- The best master of a port has timed out: those timed out are forgotten with what was measured, and it is counted (R52, R56). -/
theorem State.ptpLost_timedOut (s : State) (p : Nat) {m : Heard} (hb : (s.tp p).best = some m) (ht : m.timedOut s.time.clk = true) :
    ((s.ptpLost p).tp p).heard = (s.tp p).heard.filter (fun h => !h.timedOut s.time.clk) ∧ ((s.ptpLost p).tp p).delay = none
      ∧ ((s.ptpLost p).reg Reg.TP_ANN_TO_CNT p).toNat = min 0xFFFFFFFF ((s.reg Reg.TP_ANN_TO_CNT p).toNat + 1) := by
  unfold State.ptpLost
  rw [hb]
  dsimp only
  rw [if_pos ht]
  generalize hu : State.chooseFrom _ _ _ = u
  have htp : u.tp p = { s.tp p with
      heard := (s.tp p).heard.filter (fun h => !h.timedOut s.time.clk), t1 := none, delay := none, waitFup := false, presp := none } := by
    rw [← hu, State.chooseFrom_tp, State.tp_setTp_self, State.count_tp]
  have hreg : (u.reg Reg.TP_ANN_TO_CNT p).toNat = min 0xFFFFFFFF ((s.reg Reg.TP_ANN_TO_CNT p).toNat + 1) := by
    rw [← hu, State.chooseFrom_reg _ _ _ _ _ (annToCnt_ne_timeEvents p)]
    exact s.count_toNat Reg.TP_ANN_TO_CNT p (by decide)
  split
  · rw [State.sourceLost_tp, State.sourceLost_reg _ _ _ rfl (annToCnt_ne_timeEvents p), htp]
    exact ⟨rfl, rfl, hreg⟩
  · rw [htp]
    exact ⟨rfl, rfl, hreg⟩

/-! ### The link and the other frames -/

/-- A link that comes up has been tested; one that goes down leaves what was heard and measured (R87, R629). -/
theorem State.tpLink_tp (s : State) (p : Nat) (up : Bool) (hen : bit (s.act Reg.TP_CTRL p) 0 = true) :
    (s.tpLink p up).tp p = if up then { s.tp p with linkUp := true, tested := true }
      else { s.tp p with linkUp := false, t1 := none, waitFup := false, presp := none } := by
  unfold State.tpLink
  rw [hen, if_neg (by decide), State.chooseFrom_tp, State.tp_setTp_self]

section Frame
variable {s : State} {p : Nat} (hen : bit (s.act Reg.TP_CTRL p) 0 = true) (hup : (s.tp p).linkUp = true)
include hen hup

/-- A request for the port's own IPv4 address, which is not 0, is answered (R87, log entry 118). -/
theorem State.macFrame_ownAddress {kind addr : Nat} (fields : List Nat) (hk : kind < 2)
    (ha : addr = (s.act Reg.TP_IPV4 p).toNat) (h0 : addr ≠ 0) : s.macFrame p kind addr fields = s.emit (.eth p (3 + kind) fields) := by
  unfold State.macFrame
  dsimp only
  rw [hen, hup, if_neg (by decide), if_pos hk, decide_eq_true ha, ← ha, decide_eq_true h0]
  rfl

theorem State.macFrame_other {kind : Nat} (addr : Nat) (fields : List Nat) (hk : 4 ≤ kind) :
    s.macFrame p kind addr fields = s.count Reg.TP_RX_DROP_CNT p := by
  unfold State.macFrame
  dsimp only
  rw [hen, hup, if_neg (by decide), if_neg (show ¬kind < 2 by omega), if_neg (show ¬kind < 4 by omega)]
  rfl

end Frame

/-- Settles O30: each message and frame by what the port makes of it. The path delay is that of IEEE 1588 (log entry 60). -/
theorem ptpPorts : Obligations.PtpPorts := by
  refine ⟨?message, ?lost, ?link, ?frame⟩
  case message =>
    intro s p m hs hen hup hrec
    refine ⟨_, (State.go_run _ _ hs : execPtpMessage p m s = _), ?foreign, ?pdelayReq, ?delayResp, ?announce⟩
    case foreign =>
      intro h
      rw [State.ptpMessage_foreign hen hup hrec h]
      exact ⟨rfl, rfl, s.count_toNat _ _ (by decide)⟩
    case pdelayReq =>
      intro hd ht hk hp
      rw [State.ptpMessage_own hen hup hrec hd ht, (s.count Reg.TP_RX_PTP_CNT p).ptpAccept_pdelayReq p m hk hp]
      exact ⟨rfl, rfl, s.count_toNat _ _ (by decide)⟩
    case delayResp =>
      intro t1 hd ht hk h1 hp
      rw [State.ptpMessage_own hen hup hrec hd ht, (s.count Reg.TP_RX_PTP_CNT p).ptpAccept_delayResp p m hk h1 hp, State.tp_setTp_self]
      rfl
    case announce =>
      intro hd ht hk hlo hhi
      rw [State.ptpMessage_own hen hup hrec hd ht, State.ptpAccept_announce _ _ _ hk hlo hhi]
      rfl
  case lost =>
    intro s p m hs hb ht
    exact ⟨_, (State.go_run _ _ hs : execPtpSourceLost p s = _), s.ptpLost_timedOut p hb ht⟩
  case link =>
    intro s p up hs hen
    refine ⟨_, (State.go_run _ _ hs : execTpLinkState p up s = _), ?_⟩
    rw [s.tpLink_tp p up hen]
    cases up
    · exact ⟨rfl, rfl, rfl, fun c => nomatch c⟩
    · exact ⟨rfl, rfl, rfl, fun _ => rfl⟩
  case frame =>
    intro s p kind addr fields hs hen hup
    refine ⟨_, (State.go_run _ _ hs : execTpMacFrame p kind addr fields s = _), fun hk ha h0 => ?_, fun hk => ?_⟩
    · rw [State.macFrame_ownAddress hen hup fields hk ha h0]
      exact ⟨rfl, rfl⟩
    · rw [State.macFrame_other hen hup addr fields hk]
      exact ⟨rfl, s.count_toNat _ _ (by decide)⟩

end Sys2Proof.Machine

/-! SUPPORT. The reference inputs: their edges and frames, and what their loss leaves (R49, R52, R54, R71, R74, R77, R79). -/

namespace Sys2Proof.Machine

/-! ### PPS_IN and CLK10M_IN -/

/-- Where another source drives time an edge is placed on the nearest second, is good within 1 us, and does nothing more (R49, R52). -/
theorem State.ppsEdge_unsteered (s : State) (ns : Nat) (h : s.source ≠ 2) :
    let x : Int := ((s.time.now + ns * nsUnit : Nat) : Int) - toSigned 32 (s.act Reg.PPS_IN_DELAY).toNat * nsUnit
    let sec := (x + secUnit / 2) / secUnit
    let good := decide (((sec * secUnit - x) / nsUnit).natAbs ≤ 1000)
    ∃ bad, s.ppsEdge ns = s.setTime (fun t => { t with ppsOk := good, ppsBad := bad, ppsSec := sec.toNat })
      ∧ (good = true → bad = 0) :=
  ⟨_, if_neg h, fun hgood => if_pos hgood⟩

/-- A lost source takes ACQUIRE and LOCKED to HOLDOVER and leaves the other states (R51, R52). -/
theorem State.sourceLost_servo (s : State) : s.sourceLost.time.servo =
    (if s.time.servo = .acquire ∨ s.time.servo = .locked then .holdover else s.time.servo) := by
  unfold State.sourceLost
  split
  · exact (State.setServo_servo ..).1
  · rfl

theorem State.sourceLost_ppsOk (s : State) : s.sourceLost.time.ppsOk = s.time.ppsOk := by
  unfold State.sourceLost
  split
  · exact (State.setServo_servo ..).2.1
  · rfl

theorem State.sourceLost_events (s : State) (b : Nat) (h : bit (s.reg Reg.TIME_EVENTS) b = true) :
    bit (s.sourceLost.reg Reg.TIME_EVENTS) b = true := by
  unfold State.sourceLost
  split
  · exact State.setServo_events _ _ _ h
  · exact h

/-- Three PPS_IN edges missing or off: the event is set and the source is lost (R52). -/
theorem State.ppsLost_lost (s : State) (hsource : s.source = 2)
    (h : 3 ≤ s.time.ppsBad + ((s.time.now - 1000 * nsUnit - 1) / secUnit - s.time.ppsSec)) :
    ∃ u : State, s.ppsLost = (u.setEvt Reg.TIME_EVENTS 0 7).sourceLost ∧ u.time.ppsOk = false ∧ u.time.servo = s.time.servo := by
  unfold State.ppsLost
  dsimp only
  rw [if_pos (Bool.and_eq_true_iff.mpr ⟨decide_eq_true hsource, decide_eq_true h⟩)]
  exact ⟨_, rfl, rfl, rfl⟩

theorem State.clk10mLost_lost (s : State) (h : s.time.clk10mUse = true) :
    s.clk10mLost = (s.setTime (fun t => { t with clk10mUse := false, clk10mOk := false })).setEvt Reg.TIME_EVENTS 0 6 := by
  unfold State.clk10mLost
  rw [if_pos h]

/-! ### REF_IN -/

/-- A REF_IN edge is kept at its time, less its cable's delay; a timer that does not run or is not aligned to it stays (R71, R73). -/
theorem State.refIn_facts (s : State) (ns : Nat) : (s.refIn ns).free = s.free
    ∧ (s.refIn ns).time.refAt = some ((s.stamp ns : Int) - toSigned 32 (s.act Reg.REF_IN_DELAY).toNat * 65536)
    ∧ ∀ r, ((s.timer r).running = false ∨ s.rtmrAlign r ≠ 1) → (s.refIn ns).timer r = s.timer r := by
  unfold State.refIn
  dsimp only
  obtain ⟨hat, hfree, htimers⟩ := State.refEdges_frame (List.range 16)
    (s.setTime (fun t => { t with refAt := some ((s.stamp ns : Int) - toSigned 32 (s.act Reg.REF_IN_DELAY).toNat * 65536) }))
    ((s.stamp ns : Int) - toSigned 32 (s.act Reg.REF_IN_DELAY).toNat * 65536)
  exact ⟨hfree, hat, htimers⟩

/-- A running timer aligned to REF_IN whose reference had three bad edges loses it, once (R74). -/
theorem State.refLost_lost (s : State) (r : Nat) (hrun : (s.timer r).running = true) (halign : s.rtmrAlign r = 1)
    (hwait : (s.timer r).waitRef = false) (hlost : (s.timer r).refLost = false) (hbad : 3 ≤ (s.timer r).refBad) :
    s.refLost r = (s.setTimer r (fun q => { q with refLost := true, refGood := 0 })).post 5 0x3B (target 1 r) [(16, 1, 0)] := by
  unfold State.refLost
  dsimp only
  rw [hrun, decide_eq_true halign, hwait, hlost, decide_eq_true hbad]
  exact if_pos rfl

theorem State.timer_post (s : State) (g e x : Nat) (pl : List (Nat × Nat × Nat)) (k : Nat) :
    (s.post g e x pl).timer k = s.timer k := by
  unfold State.timer
  rw [State.post_time]

/-! ### LTC_IN -/

/-- Outside FLYWHEEL a good frame's label stands at its instant, and no frame is bad any more (R77-R79). -/
theorem State.ltcFrame_good (s : State) (ns : Nat) (l : TcLabel) (h : s.time.ltc.flywheel = false) :
    (s.ltcFrame ns l true).time.ltc.last = some (l, s.time.now + ns * nsUnit) ∧ (s.ltcFrame ns l true).time.ltc.bad = 0
      ∧ (s.ltcFrame ns l true).time.ltc.flywheel = false := by
  unfold State.ltcFrame State.setTime
  dsimp only
  rw [h]
  exact ⟨rfl, rfl, rfl⟩

theorem State.ltcLost_lost (s : State) (h : s.time.ltc.flywheel = false) (hbad : 4 ≤ s.time.ltc.bad) :
    s.ltcLost = (s.setTime (fun t => { t with ltc := { t.ltc with flywheel := true, good := 0 } })).setEvt Reg.TIME_EVENTS 0 8 := by
  unfold State.ltcLost
  dsimp only
  rw [h, decide_eq_true (Nat.le_trans hbad (Nat.le_add_right _ _))]
  exact if_pos rfl

/-- Settles O31: each input by what its edge, its frame or its loss leaves. Where an edge lies in its 4 ns clock is a free value
(log entry 122). -/
theorem timeInputs : Obligations.TimeInputs := by
  refine ⟨?ppsEdge, ?ppsLost, ?clk10mLost, ?refEdge, ?refLost, ?ltcFrame, ?ltcLost⟩
  case ppsEdge =>
    intro s hs hsource
    obtain ⟨bad, hedge, hbad⟩ := s.useFree.ppsEdge_unsteered s.edgeNs hsource
    refine ⟨_, (State.go_run _ _ hs : execPpsInEdge s = _), ?_⟩
    rw [hedge]
    exact ⟨rfl, rfl, rfl, rfl, rfl, hbad⟩
  case ppsLost =>
    intro s hs hsource h
    refine ⟨_, (State.go_run _ _ hs : execPpsInLost s = _), ?_⟩
    obtain ⟨u, hu, hok, hservo⟩ := s.ppsLost_lost hsource h
    rw [hu, State.sourceLost_ppsOk, State.sourceLost_servo]
    refine ⟨hok, State.sourceLost_events _ _ (u.setEvt_bit _ _ _ (by decide) (by decide)), ?_⟩
    rw [State.setEvt_time, hservo]
  case clk10mLost =>
    intro s hs huse
    refine ⟨_, (State.go_run _ _ hs : execClk10mLost s = _), ?_⟩
    rw [s.clk10mLost_lost huse]
    exact ⟨rfl, State.setEvt_bit _ _ _ _ (by decide) (by decide)⟩
  case refEdge =>
    intro s hs
    obtain ⟨hfree, hat, htimers⟩ := s.useFree.refIn_facts s.edgeNs
    exact ⟨_, (State.go_run _ _ hs : execRefInEdge s = _), hfree, hat, fun r _ h => htimers r h⟩
  case refLost =>
    intro s r hs hrun halign hwait hlost hbad
    refine ⟨_, (State.go_run _ _ hs : execRefLost r s = _), ?_⟩
    rw [s.refLost_lost r hrun halign hwait hlost hbad]
    refine ⟨?_, fun k hk => ?_⟩
    · rw [State.timer_post, State.timer_setTimer, if_pos rfl]
    · rw [State.timer_post, State.timer_setTimer, if_neg hk]
  case ltcFrame =>
    intro s h m sec f drop hs hfly
    obtain ⟨hlast, hbad, hfly'⟩ := s.useFree.ltcFrame_good s.edgeNs
      { hours := h, minutes := m, seconds := sec, frames := f, drop := drop } hfly
    exact ⟨_, (State.go_run _ _ hs : execLtcInFrame h m sec f drop true s = _), hlast, hbad, hfly', rfl⟩
  case ltcLost =>
    intro s hs hfly hbad
    refine ⟨_, (State.go_run _ _ hs : execLtcInLost s = _), ?_⟩
    rw [s.ltcLost_lost hfly hbad]
    exact ⟨rfl, State.setEvt_bit _ _ _ _ (by decide) (by decide)⟩

end Sys2Proof.Machine

/-! SUPPORT. PPS_OUT, LTC_OUT, the pulses of TRIG_OUT and the time compare units (R76, R81-R85, R469, R590). -/

namespace Sys2Proof.Machine

/-! ### Pulses and LTC_OUT -/

/-- With LOCKED_ONLY and no lock, PPS_OUT stays low at a whole second (R76). -/
theorem State.ppsOutPulse_gated (s : State) (h : s.time.ppsOutSec < s.time.now / secUnit)
    (hgate : bit (s.act Reg.TIME_CTRL) 11 = true) (hlock : s.time.servo ≠ .locked) :
    s.ppsOutPulse = s.setTime (fun t => { t with ppsOutSec := s.time.now / secUnit }) := by
  unfold State.ppsOutPulse
  dsimp only
  rw [if_pos h]
  exact if_pos (Bool.and_eq_true_iff.mpr ⟨hgate, decide_eq_true hlock⟩)

/-- Otherwise it rises, for its width (R76). -/
theorem State.ppsOutPulse_rises (s : State) (h : s.time.ppsOutSec < s.time.now / secUnit)
    (hfree : bit (s.act Reg.TIME_CTRL) 11 = false ∨ s.time.servo = .locked) :
    s.ppsOutPulse = (s.setTime (fun t => { t with
      ppsOutSec := s.time.now / secUnit, ppsOut := some (t.now + s.actF Reg.PPS_WIDTH 0 31 0 * nsUnit) })).emit (.pin "PPS_OUT" 0 true) := by
  unfold State.ppsOutPulse
  dsimp only
  rw [if_pos h]
  refine if_neg fun c => ?_
  obtain ⟨hgate, hlock⟩ := Bool.and_eq_true_iff.mp c
  rcases hfree with h11 | hl
  · exact absurd (hgate.symm.trans h11) (by decide)
  · exact of_decide_eq_true hlock hl

/-- The first half of a pulse's end: PPS_OUT falls after its width (R76). -/
def State.ppsFall (s : State) : State :=
  match s.time.ppsOut with
  | some e => if e ≤ s.time.now then (s.setTime (fun t => { t with ppsOut := none })).emit (.pin "PPS_OUT" 0 false) else s
  | none => s

/-- The second half: the pulses of TRIG_OUT that are over leave, and a pin with no other falls (R469). -/
def State.trigFall (s : State) : State :=
  let left := s.time.pulses.filter (fun x => decide (s.time.clk < x.until_))
  let fallen := ((s.time.pulses.filter (fun x => decide (x.until_ ≤ s.time.clk))).map (·.pin)).eraseDups.filter
    (fun p => left.all (fun x => decide (x.pin ≠ p)))
  fallen.foldl (fun s p => s.emit (.pin "TRIG_OUT" p (bit (s.act Reg.TRIG_OUT_POL) p)))
    (s.setTime (fun t => { t with pulses := left }))

theorem State.pulseEnd_eq (s : State) : s.pulseEnd = s.ppsFall.trigFall := rfl

theorem State.ppsFall_low (s : State) (h : s.time.ppsOut = none) : s.ppsFall = s := by
  unfold State.ppsFall
  rw [h]

theorem State.ppsFall_over (s : State) {e : Nat} (h : s.time.ppsOut = some e) (he : e ≤ s.time.now) :
    s.ppsFall = (s.setTime (fun t => { t with ppsOut := none })).emit (.pin "PPS_OUT" 0 false) := by
  unfold State.ppsFall
  rw [h]
  exact if_pos he

theorem State.trigFall_idle (s : State) (h : s.time.pulses = []) : s.trigFall = s.setTime (fun t => { t with pulses := [] }) := by
  unfold State.trigFall
  rw [h]
  rfl

/-- The one pulse of TRIG_OUT is over: its pin returns to its polarity (R469). -/
theorem State.trigFall_one (s : State) {x : Pulse} (h : s.time.pulses = [x]) (hx : x.until_ ≤ s.time.clk) : s.trigFall =
    (s.setTime (fun t => { t with pulses := [] })).emit (.pin "TRIG_OUT" x.pin (bit (s.act Reg.TRIG_OUT_POL) x.pin)) := by
  have hleft : [x].filter (fun x => decide (s.time.clk < x.until_)) = [] :=
    List.filter_cons_of_neg (by rw [decide_eq_true_eq]; omega)
  have hfallen : [x].filter (fun x => decide (x.until_ ≤ s.time.clk)) = [x] := List.filter_cons_of_pos (decide_eq_true hx)
  unfold State.trigFall
  dsimp only
  rw [h, hleft, hfallen]
  rfl

theorem State.ltcOut_sends (s : State) (hen : bit (s.act Reg.TC_CTRL) 7 = true)
    (hk : s.time.ltcOutNext ≤
      (tcIndex (tcRate (s.actF Reg.TC_CTRL 0 2 0)).1 (tcRate (s.actF Reg.TC_CTRL 0 2 0)).2.1 s.now16).toNat) :
    ∃ n, s.ltcOut = (s.setTime (fun t => { t with ltcOutNext := n })).emit (.ltc (s.genLabel s.now16).hours
      (s.genLabel s.now16).minutes (s.genLabel s.now16).seconds (s.genLabel s.now16).frames (s.genLabel s.now16).drop) := by
  unfold State.ltcOut
  exact ⟨_, if_pos (Bool.and_eq_true_iff.mpr ⟨hen, decide_eq_true hk⟩)⟩

/-! ### Time compare units -/

/-- The pair of a unit's target, written as a write of TCMP_TARGET_HI or the next period writes it (R82, R590). -/
def State.tcmpPair (s : State) (u : Nat) (lo hi : Word) : State :=
  (s.setReg Reg.TCMP_TARGET_LO u 0 lo).setReg Reg.TCMP_TARGET_HI u 0 hi

theorem State.set64_tcmpTarget (s : State) (u v : Nat) : s.set64 Reg.TCMP_TARGET_LO Reg.TCMP_TARGET_HI u v =
    s.tcmpPair u (BitVec.ofNat 32 v) (BitVec.ofNat 32 (v / 2 ^ 32)) := rfl

theorem State.tcmpPair_reg (s : State) (u : Nat) (lo hi : Word) (q : RegRow) (hl : q.addr u ≠ Reg.TCMP_TARGET_LO.addr u)
    (hh : q.addr u ≠ Reg.TCMP_TARGET_HI.addr u) : (s.tcmpPair u lo hi).reg q u = s.reg q u :=
  (State.reg_setReg_ne _ _ _ _ _ _ _ _ (by decide) (Or.inr hh)).trans
    (State.reg_setReg_ne _ _ _ _ _ _ _ _ (by decide) (Or.inr hl))

theorem State.tcmpPair_ctrl (s : State) (u : Nat) (lo hi : Word) : (s.tcmpPair u lo hi).reg Reg.TCMP_CTRL u = s.reg Reg.TCMP_CTRL u :=
  s.tcmpPair_reg u lo hi Reg.TCMP_CTRL (RegRow.addr_ne u rfl rfl (by decide)) (RegRow.addr_ne u rfl rfl (by decide))

theorem State.tcmpPair_status (s : State) (u : Nat) (lo hi : Word) :
    (s.tcmpPair u lo hi).reg Reg.TCMP_STATUS u = s.reg Reg.TCMP_STATUS u :=
  s.tcmpPair_reg u lo hi Reg.TCMP_STATUS (RegRow.addr_ne u rfl rfl (by decide)) (RegRow.addr_ne u rfl rfl (by decide))

theorem State.tcmpPair_target (s : State) (u : Nat) (lo hi : Word) : (s.tcmpPair u lo hi).tcmpTarget u = lo.toNat + 2 ^ 32 * hi.toNat := by
  have hlo : (s.tcmpPair u lo hi).reg Reg.TCMP_TARGET_LO u = lo :=
    (State.reg_setReg_ne _ Reg.TCMP_TARGET_HI Reg.TCMP_TARGET_LO _ _ _ _ _ (by decide)
      (Or.inr (RegRow.addr_ne u rfl rfl (by decide)))).trans (State.reg_setReg_self _ _ _ _ _ (by decide))
  have hhi : (s.tcmpPair u lo hi).reg Reg.TCMP_TARGET_HI u = hi := State.reg_setReg_self _ _ _ _ _ (by decide)
  unfold State.tcmpTarget State.reg64
  rw [hlo, hhi]

/-- The actions of a firing write no register of the time window but the unit's TCMP_STATUS. -/
theorem State.tcmpActs_reg (s : State) (u : Nat) (q : RegRow) (k : Nat) (hq : q.win = 11) (ha : q.addr k ≠ Reg.TCMP_STATUS.addr u) :
    (s.tcmpActs u false).reg q k = s.reg q k :=
  ((s.tcmpActs_facts u).1 q k 0 hq).trans (State.reg_setReg_ne _ _ _ _ _ _ _ _ (by decide) (Or.inr ha))

theorem State.tcmpActs_target (s : State) (u : Nat) : (s.tcmpActs u false).tcmpTarget u = s.tcmpTarget u := by
  unfold State.tcmpTarget State.reg64
  rw [s.tcmpActs_reg u Reg.TCMP_TARGET_LO u rfl (RegRow.addr_ne u rfl rfl (by decide)),
    s.tcmpActs_reg u Reg.TCMP_TARGET_HI u rfl (RegRow.addr_ne u rfl rfl (by decide))]

theorem State.tcmpActs_period (s : State) (u : Nat) : (s.tcmpActs u false).reg64 Reg.TCMP_PERIOD_LO Reg.TCMP_PERIOD_HI u
    = s.reg64 Reg.TCMP_PERIOD_LO Reg.TCMP_PERIOD_HI u := by
  unfold State.reg64
  rw [s.tcmpActs_reg u Reg.TCMP_PERIOD_LO u rfl (RegRow.addr_ne u rfl rfl (by decide)),
    s.tcmpActs_reg u Reg.TCMP_PERIOD_HI u rfl (RegRow.addr_ne u rfl rfl (by decide))]

/-- FIRED is set by the actions of a firing (R83). -/
theorem State.tcmpActs_fired (s : State) (u : Nat) : bit ((s.tcmpActs u false).reg Reg.TCMP_STATUS u) 0 = true := by
  rw [(s.tcmpActs_facts u).1 _ _ _ rfl]
  exact State.setEvt_bit _ _ _ _ (by decide) (by decide)

section Fire
variable {s : State} {u : Nat} (hen : bit (s.reg Reg.TCMP_CTRL u) 0 = true) (hdone : u ∉ s.time.tcmpDone)
  (hreach : 0 ≤ linDiff s.linear (s.tcmpTarget u))
include hen hdone hreach

/-- A unit that reached its target acts, and goes on by its period or is done with its target (R82-R84). -/
theorem State.tcmpFire_fires : s.tcmpFire u false =
    if (bit (s.reg Reg.TCMP_CTRL u) 1 && decide (1000 ≤ s.reg64 Reg.TCMP_PERIOD_LO Reg.TCMP_PERIOD_HI u)) = true then
      (s.tcmpActs u false).set64 Reg.TCMP_TARGET_LO Reg.TCMP_TARGET_HI u
        ((s.tcmpTarget u + s.reg64 Reg.TCMP_PERIOD_LO Reg.TCMP_PERIOD_HI u) % 2 ^ 64)
    else (s.tcmpActs u false).setTime (fun t => { t with tcmpDone := u :: t.tcmpDone }) := by
  have hfire : (bit (s.reg Reg.TCMP_CTRL u) 0 && !s.time.tcmpDone.contains u
      && decide (0 ≤ linDiff s.linear (s.tcmpTarget u))) = true := by
    rw [hen, decide_eq_true hreach]
    simpa using hdone
  unfold State.tcmpFire
  dsimp only
  rw [if_pos hfire, s.tcmpActs_period u]
  rfl

/-- A one-shot unit is done with its target, which stays. -/
theorem State.tcmpFire_once (h1 : bit (s.reg Reg.TCMP_CTRL u) 1 = false) :
    s.tcmpFire u false = (s.tcmpActs u false).setTime (fun t => { t with tcmpDone := u :: t.tcmpDone }) := by
  rw [State.tcmpFire_fires hen hdone hreach]
  exact if_neg (by rw [h1, Bool.false_and]; decide)

/-- A PERIODIC unit's next target lies one period on, modulo 2^64. -/
theorem State.tcmpFire_periodic (h1 : bit (s.reg Reg.TCMP_CTRL u) 1 = true)
    (hper : 1000 ≤ s.reg64 Reg.TCMP_PERIOD_LO Reg.TCMP_PERIOD_HI u) : s.tcmpFire u false =
      (s.tcmpActs u false).set64 Reg.TCMP_TARGET_LO Reg.TCMP_TARGET_HI u
        ((s.tcmpTarget u + s.reg64 Reg.TCMP_PERIOD_LO Reg.TCMP_PERIOD_HI u) % 2 ^ 64) := by
  rw [State.tcmpFire_fires hen hdone hreach]
  exact if_pos (Bool.and_eq_true_iff.mpr ⟨h1, decide_eq_true hper⟩)

/-- Either way FIRED stands, and the pulses are those that the actions left. -/
theorem State.tcmpFire_fired : bit ((s.tcmpFire u false).reg Reg.TCMP_STATUS u) 0 = true
    ∧ (s.tcmpFire u false).time.pulses = (s.tcmpActs u false).time.pulses := by
  have hfired := s.tcmpActs_fired u
  rw [State.tcmpFire_fires hen hdone hreach]
  generalize s.tcmpActs u false = v at hfired ⊢
  split
  · rw [State.set64_tcmpTarget, State.tcmpPair_status]
    exact ⟨hfired, rfl⟩
  · exact ⟨hfired, rfl⟩

end Fire

/-- A disabled unit does not fire. -/
theorem State.tcmpFire_disabled (s : State) (u : Nat) (stepped : Bool) (h : bit (s.reg Reg.TCMP_CTRL u) 0 = false) :
    s.tcmpFire u stepped = s := by
  unfold State.tcmpFire
  dsimp only
  rw [h]
  rfl

/-- A disabled unit is only armed again (R82, R85). -/
theorem State.tcmpRearm_disabled (s : State) (u : Nat) (h : bit (s.reg Reg.TCMP_CTRL u) 0 = false) :
    s.tcmpRearm u = s.setTime (fun t => { t with tcmpDone := t.tcmpDone.filter (fun v => decide (v ≠ u)) }) :=
  State.tcmpFire_disabled _ u false h

/-- A port's write of TCMP_TARGET_HI stores the whole pair, with the low half that the port holds, and arms the unit again. -/
theorem State.rowWrite_tcmpTarget (s : State) (p u : Nat) (v : Word) (h : s.writable p Reg.TCMP_TARGET_HI u) :
    s.rowWrite p Reg.TCMP_TARGET_HI u v = ((s.reached p Reg.TCMP_TARGET_HI u).tcmpPair u
      ((s.port p).heldLo.get 0 (Reg.TCMP_TARGET_LO.addr u)) v).tcmpRearm u := by
  have hheld : ((s.reached p Reg.TCMP_TARGET_HI u).port p).heldLo = (s.port p).heldLo := by
    obtain ⟨w, hw⟩ := s.reached_eq p Reg.TCMP_TARGET_HI u
    obtain ⟨l, hl⟩ := s.wakePort_port p p
    rw [hw]
    exact (congrArg PortSt.heldLo hl : ((s.wakePort p).port p).heldLo = _)
  have haddr : Reg.TCMP_TARGET_HI.addr u - 4 = Reg.TCMP_TARGET_LO.addr u := by
    simp only [RegRow.addr, Reg.TCMP_TARGET_HI, Reg.TCMP_TARGET_LO]
    omega
  rw [s.rowWrite_reaches p _ u v h, ← hheld, ← haddr]
  rfl

/-- Settles O32: pulses and LTC_OUT by what the row leaves, a compare unit by its firing or by the write that arms it. -/
theorem timeOutputs : Obligations.TimeOutputs := by
  refine ⟨?ppsOut, ?ppsEnd, ?trigEnd, ?ltcOut, ?fire, ?target⟩
  case ppsOut =>
    intro s hs hsec
    refine ⟨_, (State.go_run _ _ hs : execPpsOutPulse s = _), ?_⟩
    by_cases hfree : bit (s.act Reg.TIME_CTRL) 11 = false ∨ s.time.servo = .locked
    · rw [s.ppsOutPulse_rises hsec hfree]
      refine ⟨rfl, fun _ => ⟨rfl, rfl⟩, fun hgate hlock => ?_⟩
      rcases hfree with h11 | hl
      · exact absurd (hgate.symm.trans h11) (by decide)
      · exact absurd hl hlock
    · obtain ⟨hgate, hlock⟩ := not_or.mp hfree
      rw [s.ppsOutPulse_gated hsec (Bool.not_eq_false _ ▸ hgate) hlock]
      exact ⟨rfl, fun h => absurd h hfree, fun _ _ => ⟨rfl, rfl⟩⟩
  case ppsEnd =>
    intro s e hs ho he hp
    refine ⟨_, (State.go_run _ _ hs : execPulseEnd s = _), ?_⟩
    rw [s.pulseEnd_eq, s.ppsFall_over ho he, State.trigFall_idle]
    · exact ⟨congrArg (fun l => { s.time with ppsOut := none, pulses := l }) hp.symm, rfl⟩
    · exact hp
  case trigEnd =>
    intro s x hs ho hp hx
    refine ⟨_, (State.go_run _ _ hs : execPulseEnd s = _), ?_⟩
    rw [s.pulseEnd_eq, s.ppsFall_low ho, s.trigFall_one hp hx]
    exact ⟨rfl, rfl⟩
  case ltcOut =>
    intro s hs hen hk
    obtain ⟨n, hsend⟩ := s.ltcOut_sends hen hk
    refine ⟨_, (State.go_run _ _ hs : execLtcOutFrame s = _), ?_⟩
    rw [hsend]
    exact ⟨rfl, rfl, rfl⟩
  case fire =>
    intro s u hs _ hen hdone hreach
    obtain ⟨hfired, hpulses⟩ := State.tcmpFire_fired hen hdone hreach
    obtain ⟨_, hacts, hpulse⟩ := s.tcmpActs_facts u
    refine ⟨_, (State.go_run _ _ hs : execTcmpFire u s = _), hfired, fun h1 => ?_, fun h1 hper => ?_, fun h4 => ?_⟩
    · have htarget := s.tcmpActs_target u
      rw [State.tcmpFire_once hen hdone hreach h1]
      generalize s.tcmpActs u false = v at hacts htarget ⊢
      exact ⟨congrArg (u :: ·) hacts, htarget⟩
    · rw [State.tcmpFire_periodic hen hdone hreach h1 hper]
      exact State.reg64_set64 _ _ _ _ _ (by decide) (by decide) (Or.inr (RegRow.addr_ne u rfl rfl (by decide)))
        (Nat.mod_lt _ (by decide))
    · rw [hpulses]
      exact hpulse h4
  case target =>
    intro s p u v hw hdis
    obtain ⟨hcur, _, _, _, htime, _⟩ := s.reached_same p Reg.TCMP_TARGET_HI u
    have hctrl : bit (((s.reached p Reg.TCMP_TARGET_HI u).tcmpPair u
        ((s.port p).heldLo.get 0 (Reg.TCMP_TARGET_LO.addr u)) v).reg Reg.TCMP_CTRL u) 0 = false := by
      rw [State.tcmpPair_ctrl]
      unfold State.reg at hdis ⊢
      rw [hcur, hdis]
    refine ⟨_, (State.go_run _ _ hw.1 : execTcmpTargetHiWrite p u v s = _), ?_⟩
    rw [s.rowWrite_tcmpTarget p u v hw, State.tcmpRearm_disabled _ u hctrl]
    generalize s.reached p Reg.TCMP_TARGET_HI u = x at htime
    refine ⟨x.tcmpPair_target u _ v, fun hmem => ?_, (congrArg TimeState.pulses htime : x.time.pulses = _)⟩
    exact of_decide_eq_true (List.mem_filter.mp hmem).2 rfl

end Sys2Proof.Machine

/-! SUPPORT. The two instants of a time step, triggers, TRIGGER_NAK and the Canary's windows (R62, R63, R72, R176, R179, R187, R188). -/

namespace Sys2Proof.Machine

/-! ### S: the difference is fixed, or the step is dropped -/

/-- A step that is void or no longer pending is dropped, and its command completes (R63). -/
theorem State.stepFix_drops (s : State) {d : StepPlan} (hd : s.time.decided = some d) (hdelta : d.delta = none)
    (htick : d.tick + 1 ≤ s.time.tickNum) (h : d.void = true ∨ s.time.pendingStep = none) : s.stepFix =
      (s.setTime (fun t => { t with decided := none })).completeOpt d.ticket (s.wrongState none).1 (s.wrongState none).2 := by
  have hgo : ¬(d.delta.isSome || decide (s.time.tickNum < d.tick + 1)) = true := by
    rw [hdelta, decide_eq_false (Nat.not_lt.mpr htick)]
    decide
  have hnone : (if d.void = true then none else s.time.pendingStep) = none := by
    rcases h with h | h
    · exact if_pos h
    · rw [h, ite_self]
  unfold State.stepFix
  rw [hd]
  dsimp only
  rw [if_neg hgo, hnone]

/-- STEP_NOTICE to every head whose link is UP (R63). -/
def State.stepNotices (s : State) (b x : Int) (epoch : Nat) : State :=
  (List.range 32).foldl (fun s l =>
    if (s.hl l).mode = .up then s.sendPkt l (mkPkt 5 0 0 (leBytes 1 epoch)
      (leBytes 8 (ofSigned 64 (b / 65536)) ++ leBytes 8 (ofSigned 64 (x / (nsUnit : Int))))) else s) s

theorem State.stepNotices_keeps (s : State) (b x : Int) (epoch : Nat) : Keeps 262336 s (s.stepNotices b x epoch) :=
  Keeps.foldl (fun u l hu => Keeps.ite ((u.sendPkt_keeps l _).after rfl hu) hu) (Keeps.refl _ _)

/-- The start and the epoch of a frame whose trigger is sent again, `dx` later (R63, R176). -/
def FrameSt.restart (f : FrameSt) (dx : Int) (epoch : Nat) : FrameSt :=
  { f with t := f.t0 + dx, epoch := epoch, expStart := f.t0 + dx, expEnd := f.t0 + dx, lastLine := f.t0 + dx }

/-- A triggered frame of a running rig that begins at or after B. -/
def State.startsAfter (s : State) (b : Int) (f : FrameSt) : Bool :=
  decide (b ≤ f.t0) && decide (f.run = (s.run f.rig).run) && (f.phase = .triggered || f.phase = .candidate || f.phase = .missed)

theorem State.startsAfter_iff (s : State) (b : Int) (f : FrameSt) : s.startsAfter b f = true ↔
    b ≤ f.t0 ∧ f.run = (s.run f.rig).run ∧ (f.phase = .triggered ∨ f.phase = .candidate ∨ f.phase = .missed) := by
  unfold State.startsAfter
  simp only [Bool.and_eq_true, Bool.or_eq_true, decide_eq_true_eq, and_assoc, or_assoc]

/-- The triggers of those frames are sent again. -/
def State.retrigger (s : State) (b dx : Int) (epoch : Nat) : State :=
  (s.store.frames.filter (s.startsAfter b)).foldl (fun s f =>
    (s.putTrigger f.stream f.frame epoch 2 (f.t0 + dx)).setFrame f.id (fun f => f.restart dx epoch)) s

theorem State.retrigger_time (s : State) (b dx : Int) (epoch : Nat) : (s.retrigger b dx epoch).time = s.time :=
  State.fold_time _ _ _ fun u f => (u.putTrigger_keeps f.stream f.frame epoch 2 (f.t0 + dx)).same .time rfl

/-- With ids all different, each of those frames gets its new start and epoch, and no other frame changes. -/
theorem State.retrigger_store (s : State) (b dx : Int) (epoch : Nat) (hn : (s.store.frames.map (·.id)).Nodup) :
    (s.retrigger b dx epoch).store = { s.store with
      frames := s.store.frames.map (fun f => if s.startsAfter b f = true then f.restart dx epoch else f) } := by
  unfold State.retrigger
  rw [State.setFrames_foldl (fun f => f.restart dx epoch) (fun _ => rfl) (fun _ => rfl)
    (fun s f => s.putTrigger f.stream f.frame epoch 2 (f.t0 + dx)) (fun u f => (u.putTrigger_keeps ..).same .store rfl)]
  refine congrArg (fun l => { s.store with frames := l }) (List.map_congr_left fun f hf => ?_)
  simp only [mem_filter_ids hn (s.startsAfter b) f hf]

theorem State.setTime_startOfTick (s : State) (f : TimeState → TimeState) (he : (f s.time).tickEnd = s.time.tickEnd)
    (hn : (f s.time).tickNum = s.time.tickNum) (m : Nat) : (s.setTime f).startOfTick m = s.startOfTick m := by
  have h := s.setTime_tickAhead f he (m - s.time.tickNum - 1)
  have hnum : (s.setTime f).time.tickNum = s.time.tickNum := hn
  unfold State.startOfTick
  rw [hnum, h]

/-- The work of S once the difference is fixed: heads are told, and the triggers that it moves are sent again (R63). -/
def State.stepSpread (s : State) (m : Nat) (x : Int) : State :=
  (s.stepNotices (s.startOfTick m) x ((s.time.epoch + 1) % 256)).retrigger (s.startOfTick m) (x / (2 ^ 32 : Nat))
    ((s.time.epoch + 1) % 256)

theorem State.stepSpread_time (s : State) (m : Nat) (x : Int) : (s.stepSpread m x).time = s.time :=
  (State.retrigger_time ..).trans ((State.stepNotices_keeps ..).same .time rfl)

theorem State.startsAfter_congr {s u : State} (h : u.takes = s.takes) (b : Int) (f : FrameSt) :
    u.startsAfter b f = s.startsAfter b f := by
  unfold State.startsAfter State.run
  rw [h]

/-- The frames that begin at or after B get their new start and epoch. -/
theorem State.stepSpread_store (s : State) (m : Nat) (x : Int) (hn : (s.store.frames.map (·.id)).Nodup) :
    (s.stepSpread m x).store = { s.store with frames := s.store.frames.map (fun f =>
      if s.startsAfter (s.startOfTick m) f = true then f.restart (x / (2 ^ 32 : Nat)) ((s.time.epoch + 1) % 256) else f) } := by
  have hk := s.stepNotices_keeps (s.startOfTick m) x ((s.time.epoch + 1) % 256)
  have hstore : (s.stepNotices (s.startOfTick m) x ((s.time.epoch + 1) % 256)).store = s.store := hk.same .store rfl
  unfold State.stepSpread
  rw [State.retrigger_store _ _ _ _ (by rw [hstore]; exact hn), hstore]
  simp only [State.startsAfter_congr (hk.same .takes rfl : State.takes _ = s.takes)]

theorem State.stepFix_fixes (s : State) {d : StepPlan} {x : Int} (hd : s.time.decided = some d) (hdelta : d.delta = none)
    (htick : d.tick + 1 ≤ s.time.tickNum) (hvoid : d.void = false) (hpend : s.time.pendingStep = some x) : s.stepFix =
      (s.setTime (fun t => { t with decided := some { d with delta := some x } })).stepSpread (d.tick + 1 + d.lead) x := by
  have hgo : ¬(d.delta.isSome || decide (s.time.tickNum < d.tick + 1)) = true := by
    rw [hdelta, decide_eq_false (Nat.not_lt.mpr htick)]
    decide
  have hfix : (if d.void = true then none else s.time.pendingStep) = some x := by
    rw [hvoid, hpend]
    rfl
  unfold State.stepFix
  rw [hd]
  dsimp only
  rw [if_neg hgo, hfix]
  generalize s.setTime _ = u
  unfold State.stepSpread State.stepNotices
  dsimp only
  generalize List.foldl _ u (List.range 32) = w
  rfl

/-! ### B: the step is applied -/

/-- Frames begun before B move and, while their end has not arrived, are marked; the others move (R63). -/
theorem State.stepFrames_store (s : State) (b dx : Int) : (s.stepFrames b dx).store = { s.store with
    frames := s.store.frames.map (fun f =>
      if f.t0 < b then
        { f with t0 := f.t0 + dx, msShift := f.msShift + dx,
                 status := if f.phase = .triggered ∨ f.phase = .opened ∨ f.phase = .candidate then f.status ||| 0x40 else f.status }
      else { f with t0 := f.t0 + dx }) } := by
  unfold State.stepFrames State.setStore
  dsimp only
  refine congrArg (fun l => { s.store with frames := l }) (List.map_congr_left fun f _ => ?_)
  simp only [Bool.and_eq_true, Bool.or_eq_true, decide_eq_true_eq, or_assoc]
  by_cases hb : f.t0 < b
  · by_cases hp : f.phase = .triggered ∨ f.phase = .opened ∨ f.phase = .candidate
    · simp only [hb, hp, and_self, if_true]
    · simp only [hb, hp, and_false, if_true, if_false]
  · simp only [hb, false_and, if_false]

theorem State.stepApply_applies (s : State) {d : StepPlan} {x : Int} (hd : s.time.decided = some d) (hdelta : d.delta = some x)
    (htick : d.tick + 1 + d.lead ≤ s.time.tickNum) : s.stepApply =
      ((((s.stepClock x).stepLtc.stepFrames (s.time.tickStart / 2 ^ 32 : Nat) (x / (2 ^ 32 : Nat))).stepMotion
        (x / (2 ^ 32 : Nat))).stepAlign).stepTold d x := by
  unfold State.stepApply
  rw [hd]
  dsimp only
  rw [hdelta]
  exact if_neg (Nat.not_lt.mpr htick)

/-- What follows the clock's step leaves the time it set, and of the store moves the frames alone. -/
theorem State.stepTail_facts (s : State) (d : StepPlan) (x b dx : Int) :
    TimeCore s.time (((s.stepLtc.stepFrames b dx).stepMotion dx).stepAlign.stepTold d x).time
      ∧ (((s.stepLtc.stepFrames b dx).stepMotion dx).stepAlign.stepTold d x).store = (s.stepFrames b dx).store := by
  obtain ⟨hltc, hstore⟩ := s.stepLtc_core
  obtain ⟨halign, hstore'⟩ := ((s.stepLtc.stepFrames b dx).stepMotion dx).stepAlign_core
  obtain ⟨htold, hstore''⟩ := ((s.stepLtc.stepFrames b dx).stepMotion dx).stepAlign.stepTold_core d x
  have hmove : TimeCore s.stepLtc.time ((s.stepLtc.stepFrames b dx).stepMotion dx).time := TimeCore.of rfl
  refine ⟨((hltc.trans hmove).trans halign).trans htold, (hstore''.trans hstore').trans ?_⟩
  show (s.stepLtc.stepFrames b dx).store = _
  rw [State.stepFrames_store, State.stepFrames_store, hstore]

/-! ### Triggers -/

/-- A trigger job that is due and released sends the trigger of the next frame of the rig's one stream (R72). -/
theorem State.triggerSend_one (s : State) {r st : Nat} (hdue : s.triggerDue r = true) (hone : s.rigStreams r = [st])
    (hrel : s.released (.stream st) 2 (s.streamLink st) = true) : s.triggerSend r =
      (s.triggerFrame r st (s.timer r).next (s.startOf r (s.timer r).next) false).setTimer r (fun q => { q with
        next := (s.timer r).next + 1, last := q.last,
        recent := (s.startOf r (s.timer r).next :: q.recent).take recentStarts }) := by
  unfold State.triggerSend
  rw [hdue, hone, if_pos (by rw [List.all_cons, hrel]; rfl)]
  unfold State.triggerRig
  rw [hone]
  rfl

/-! ### The end of an open frame's input, with its Canary -/

/-- An open frame's input ends with its cause, and ST_EVENTS.CANARY stands (R187, R188). -/
theorem State.endInput_canary (s : State) {x : FrameSt} (cause : FEnd) (c reason : Nat) (h : s.frame? x.id = some x) :
    bit (((s.endInput x.id cause).canary x c reason).reg Reg.ST_EVENTS x.stream) 0 = true
      ∧ ∃ g, ((s.endInput x.id cause).canary x c reason).frame? x.id = some g ∧ g.phase = .ended ∧ g.endCause = cause
        ∧ g.endTick = s.time.tickNum ∧ (cause = .nak ∨ cause = .fsWindow → g.expEnd = x.t)
        ∧ (cause = .feWindow → g.expEnd = x.lastLine) := by
  obtain ⟨hevt, _, hstore⟩ := (s.endInput x.id cause).canary_facts x c reason
  obtain ⟨g, hg, hphase, hcause, htick, _, _, _, _, hstart, hline, _⟩ := s.endInput_frame x cause h
  exact ⟨hevt, g, (State.frame?_store hstore x.id).trans hg, hphase, hcause, htick, hstart, hline⟩

/-- Outside the streams' window no register changes. -/
theorem State.endInput_canary_reg (s : State) (id : Nat) (x : FrameSt) (cause : FEnd) (c reason : Nat) (q : RegRow) (k : Nat)
    (hq : q.win ≠ 6) (hq2 : 2 < q.win) : ((s.endInput id cause).canary x c reason).reg q k = s.reg q k := by
  obtain ⟨_, hwin, _⟩ := (s.endInput id cause).canary_facts x c reason
  have hcur : (s.endInput id cause).cur = s.cur := (s.endInput_keeps id cause).same .cur rfl
  exact (hwin q.win hq hq2 q k 0 rfl).trans (WinSame.of (w := q.win) hcur q k 0 rfl)

/-- A TRIGGER_NAK for an open frame is counted, and ends the frame's input (R179). -/
theorem State.triggerNak_open (s : State) {l st : Nat} {p : Pkt} {x : FrameSt} (hslot : s.slotStream l p.slot = some st)
    (hmatch : s.matchFrame st (leAt p.fields 0 4) = some x) (hx : x.phase = .opened) : s.triggerNak l p =
      ((((s.count Reg.HL_TRIG_NAK_CNT l).hlEvt l 3).endInput x.id .nak).canary x 2 (leAt p.fields 4 1)) := by
  unfold State.triggerNak
  dsimp only
  rw [State.onFrame_run ((s.count Reg.HL_TRIG_NAK_CNT l).hlEvt l 3) l st p x _ ((State.slotStream_congr rfl l p.slot).trans hslot)
    ((State.matchFrame_congr rfl rfl st _).trans hmatch) (by rw [hx]; decide)]
  dsimp only
  rw [if_neg (by rw [hx]; decide), if_neg (by rw [hx]; decide)]

theorem State.canaryFs_open (s : State) {st : Nat} {x : FrameSt} (h : s.fsLate st = some x) (hx : x.phase = .opened) :
    s.canaryFs st = (s.endInput x.id .fsWindow).canary x 0 0 := by
  unfold State.canaryFs
  rw [h]
  dsimp only
  rw [if_neg (by rw [hx]; decide)]

theorem State.canaryFe_one (s : State) {c : Nat} {x : FrameSt} (hone : s.store.frames = [x]) (hx : x.phase = .opened)
    (hfs : x.fsAt = some c) (hlate : c + usClk (s.actF Reg.ST_FE_WINDOW x.stream 31 0) ≤ s.time.clk) :
    s.canaryFe x.stream = (s.endInput x.id .feWindow).canary x 1 0 := by
  unfold State.canaryFe
  rw [hone, List.find?_cons_of_pos (by simp [hx, hfs, hlate])]

/-- Settles O47: a step at S and at B, a trigger, and the three ways the Canary ends an open frame's input. -/
theorem triggersTimeoutsAndTimeSteps : Obligations.TriggersTimeoutsAndTimeSteps := by
  refine ⟨?dropped, ?fixed, ?applied, ?trigger, ?nak, ?fsWindow, ?feWindow⟩
  case dropped =>
    intro s d hs hd hdelta htick h
    refine ⟨_, (State.go_run _ _ hs : execTimeStepFix s = _), ?_⟩
    rw [s.stepFix_drops hd hdelta htick h]
    have hk := (s.setTime (fun t => { t with decided := none })).completeOpt_keeps d.ticket (s.wrongState none).1 (s.wrongState none).2
    refine ⟨hk.same .time rfl, hk.same .store rfl, hk.same .link rfl, fun k hticket hgen => ?_⟩
    rw [hticket]
    exact State.complete_outstanding _ k _ _ _ hgen.symm
  case fixed =>
    intro s d x hs hd hdelta htick hvoid hpend hn
    refine ⟨_, (State.go_run _ _ hs : execTimeStepFix s = _), ?_⟩
    rw [s.stepFix_fixes hd hdelta htick hvoid hpend, State.stepSpread_time,
      (s.setTime (fun t => { t with decided := some { d with delta := some x } })).stepSpread_store _ _ hn,
      s.setTime_startOfTick (fun t => { t with decided := some { d with delta := some x } }) rfl rfl]
    refine ⟨rfl, congrArg (fun l => { s.store with frames := l }) (List.map_congr_left fun f _ => ?_)⟩
    simp only [State.startsAfter_iff]
    rfl
  case applied =>
    intro s d x hs hd hdelta htick
    refine ⟨_, (State.go_run _ _ hs : execTimeStepApply s = _), ?_⟩
    rw [s.stepApply_applies hd hdelta htick]
    obtain ⟨hstore, hnow, hstart, hepoch, hset, hdec, hpend, htimers⟩ := s.stepClock_facts x
    obtain ⟨⟨hnow', hstart', hepoch', hset', hdec', hpend', htimers'⟩, hstore'⟩ :=
      (s.stepClock x).stepTail_facts d x (s.time.tickStart / 2 ^ 32 : Nat) (x / (2 ^ 32 : Nat))
    refine ⟨hnow'.trans hnow, hstart'.trans hstart, hepoch'.trans hepoch, hset'.trans hset, hdec'.trans hdec, hpend'.trans hpend,
      fun r => (htimers' r).1.trans (htimers r).1, fun r hr => ?_, fun r hr => ?_, ?_⟩
    · exact ((htimers' r).2.trans (htimers r).2).trans (if_pos hr)
    · exact ((htimers' r).2.trans (htimers r).2).trans (if_neg (by rw [hr]; decide))
    · rw [hstore', State.stepFrames_store, hstore]
  case trigger =>
    intro s r st i rest hs hdue hone hrel hlost hback hnow
    refine ⟨_, (State.go_run _ _ hs : execTriggerSend r s = _), ?_⟩
    rw [s.triggerSend_one hdue hone hrel]
    obtain ⟨hback', hid, htrig, hframe, _⟩ :=
      s.triggerFrame_facts r st (s.timer r).next i rest (s.startOf r (s.timer r).next) false hlost hback hnow
    refine ⟨?_, hback', hid, htrig, hframe⟩
    rw [State.timer_setTimer, if_pos rfl]
  case nak =>
    intro s l st p x hs hlink hp hslot hmatch hframe hx
    obtain ⟨hst, _⟩ := State.matchFrame_stream hmatch
    obtain ⟨u, hu, hrx, hcur, _, _, hcfg, _⟩ := s.onPkt_run l 9 p (fun s => s.triggerNak l p) hp hlink
    have hsame : u.store = s.store ∧ u.takes = s.takes ∧ u.time = s.time := by
      rcases hrx with rfl | rfl <;> exact ⟨rfl, rfl, rfl⟩
    obtain ⟨hstore, htakes, htime⟩ := hsame
    refine ⟨_, (State.go_run _ _ hs : execTriggerNak l p s = _), ?_⟩
    rw [hu, u.triggerNak_open ((State.slotStream_congr hcfg l _).trans hslot) ((State.matchFrame_congr hstore htakes st _).trans hmatch) hx]
    obtain ⟨hevt, g, hg, hphase, hcause, htick, hend, _⟩ := ((u.count Reg.HL_TRIG_NAK_CNT l).hlEvt l 3).endInput_canary (x := x)
      .nak 2 (leAt p.fields 4 1) ((State.frame?_store hstore x.id).trans hframe)
    refine ⟨?_, ?_, hst ▸ hevt, g, hg, hphase, hcause, htick.trans (congrArg TimeState.tickNum htime), hend (Or.inl rfl)⟩
    · rw [State.endInput_canary_reg _ _ _ _ _ _ _ _ (by decide) (by decide)]
      have hne : ((u.count Reg.HL_TRIG_NAK_CNT l).hlEvt l 3).reg Reg.HL_TRIG_NAK_CNT l
          = (u.count Reg.HL_TRIG_NAK_CNT l).reg Reg.HL_TRIG_NAK_CNT l :=
        State.reg_setReg_ne _ _ _ _ _ _ _ _ (by decide) (Or.inr (RegRow.addr_ne l rfl rfl (by decide)))
      rw [hne, u.count_toNat Reg.HL_TRIG_NAK_CNT l (by decide)]
      unfold State.reg
      rw [hcur]
    · rw [State.endInput_canary_reg _ _ _ _ _ _ _ _ (by decide) (by decide)]
      exact State.setEvt_bit _ _ _ _ (by decide) (by decide)
  case fsWindow =>
    intro s st x hs hlate hframe hx
    have hst : x.stream = st := by
      have hfind := List.find?_some hlate
      simp only [Bool.and_eq_true, decide_eq_true_eq] at hfind
      exact hfind.1.1.1
    refine ⟨_, (State.go_run _ _ hs : execCanaryFsTimeout st s = _), ?_⟩
    rw [s.canaryFs_open hlate hx]
    obtain ⟨hevt, g, hg, hphase, hcause, htick, hend, _⟩ := s.endInput_canary .fsWindow 0 0 hframe
    exact ⟨hst ▸ hevt, g, hg, hphase, hcause, htick, hend (Or.inr rfl)⟩
  case feWindow =>
    intro s st c x hs hone hst hx hfs hlate
    subst hst
    have hframe : s.frame? x.id = some x := by
      unfold State.frame?
      rw [hone]
      exact List.find?_cons_of_pos (decide_eq_true rfl)
    refine ⟨_, (State.go_run _ _ hs : execCanaryFeTimeout x.stream s = _), ?_⟩
    rw [s.canaryFe_one hone hx hfs hlate]
    obtain ⟨hevt, g, hg, hphase, hcause, htick, _, hend⟩ := s.endInput_canary .feWindow 1 0 hframe
    exact ⟨hevt, g, hg, hphase, hcause, htick, hend rfl⟩

end Sys2Proof.Machine

/-! SUPPORT. A unit's change at a boundary: a drain, with and without a spare that takes the unit's place, an entry into OFFLINE, a
return to service, and the replacement of a failed unit (R551, R553, R555, R556, R560). -/

namespace Sys2Proof.Machine

theorem unitKey_ne_index {k i j : Nat} (h : i ≠ j) : unitKey k i ≠ unitKey k j := by
  unfold unitKey
  omega

/-- The spare chosen for a draining unit, when it is still SPARE, takes the unit's place and work (R109, R553). -/
def State.spareTakesOver (s : State) (e : UnitDue) : State :=
  match e.spare with
  | some j => if s.unitCode e.kind j = 1 then (s.changeUnit e.kind j 2).moveUnit e.kind e.index j else s
  | none => s

/-- An ACTIVE unit, no lane, that a drain takes: only its own state and its spare's change. -/
theorem State.unitDue_drain_code (s : State) (e : UnitDue) (hto : e.to_ = 3) (hc : s.unitCode e.kind e.index = 2) (hk : e.kind ≠ 4)
    (k i : Nat) : (s.unitDue e).unitCode k i = ((s.changeUnit e.kind e.index 3).spareTakesOver e).unitCode k i := by
  unfold State.unitDue
  dsimp only
  split
  · rw [if_neg (not_not_intro hc), if_neg (fun h => hk h.1)]
    split
    · exact absurd ‹e.kind = 4› hk
    · exact State.unitCode_of ((State.chooseTp_keeps ..).same .svc rfl) k i
    · rfl
  · omega
  · exact absurd hto ‹e.to_ = 3 → False›

theorem State.spareTakesOver_none (s : State) (e : UnitDue) (h : e.spare = none) : s.spareTakesOver e = s := by
  unfold State.spareTakesOver
  rw [h]

theorem State.spareTakesOver_some (s : State) {e : UnitDue} {j : Nat} (h : e.spare = some j) (hj : s.unitCode e.kind j = 1) :
    s.spareTakesOver e = (s.changeUnit e.kind j 2).moveUnit e.kind e.index j := by
  unfold State.spareTakesOver
  rw [h]
  exact if_pos hj

/-- With its chosen SPARE the draining unit goes into DRAINING and the spare into ACTIVE. -/
theorem State.drainWithSpare_code (s : State) {e : UnitDue} {j : Nat} (h : e.spare = some j) (hne : j ≠ e.index)
    (hj : s.unitCode e.kind j = 1) :
    ((s.changeUnit e.kind e.index 3).spareTakesOver e).unitCode e.kind e.index = 3
      ∧ ((s.changeUnit e.kind e.index 3).spareTakesOver e).unitCode e.kind j = 2 := by
  have hspare : (s.changeUnit e.kind e.index 3).unitCode e.kind j = 1 :=
    (s.changeUnit_code_ne _ _ _ _ _ (unitKey_ne_index hne)).trans hj
  rw [State.spareTakesOver_some _ h hspare, State.moveUnit_code, State.moveUnit_code]
  refine ⟨?_, State.changeUnit_code _ _ _ _⟩
  rw [State.changeUnit_code_ne _ _ _ _ _ _ (unitKey_ne_index hne.symm), State.changeUnit_code]

/-- A SPARE unit, no lane, whose change to OFFLINE is due. -/
theorem State.unitDue_offline_code (s : State) (e : UnitDue) (hto : e.to_ = 0) (hc : s.unitCode e.kind e.index = 1) (hk : e.kind ≠ 4) :
    (s.unitDue e).unitCode e.kind e.index = 0 := by
  unfold State.unitDue
  dsimp only
  split
  · omega
  · rw [State.completeOpt_code, if_neg (fun h => hk h.1), if_pos hc]
    exact s.changeUnit_code e.kind e.index 0
  · exact absurd hto ‹e.to_ = 0 → False›

/-- A unit, no lane, that returns to service reads the state it returns to. -/
theorem State.unitBack_code (s : State) (kind i code : Nat) (hk : kind ≠ 4) : (s.unitBack kind i code).unitCode kind i = code := by
  unfold State.unitBack
  dsimp only
  split
  · exact absurd rfl hk
  · split
    · rw [State.unitCode_of ((State.pcReturned_keeps ..).same .svc rfl)]
      exact s.changeUnit_code _ i code
    · exact s.changeUnit_code _ i code
  · exact s.changeUnit_code kind i code

/-- An OFFLINE unit, no lane and no drive, whose return is due. -/
theorem State.unitDue_return_code (s : State) (e : UnitDue) (hto : e.to_ = 1 ∨ e.to_ = 2) (hspare : e.spare = none)
    (hc : s.unitCode e.kind e.index = 0) (hk : e.kind ≠ 4) (hdrive : e.kind ≠ 7) :
    (s.unitDue e).unitCode e.kind e.index = e.to_ := by
  obtain ⟨tick, kind, index, to_, spare, ticket⟩ := e
  dsimp only at hto hspare hc hk hdrive ⊢
  subst hspare
  unfold State.unitDue
  dsimp only
  split
  · omega
  · omega
  · rw [if_neg (fun h => h hc), if_neg hdrive, State.completeOpt_code]
    exact s.unitBack_code kind index to_ hk

theorem State.slotDue_false_of_not_drive (s : State) (e : UnitDue) (h : e.kind ≠ 7) : s.slotDue e = false := by
  unfold State.slotDue
  rw [decide_eq_false h]
  rfl

/-- A change that is due alone at a boundary, seen at the unit's own class: what the change makes of the unit's state. -/
theorem State.unitBoundary_code (s : State) (e : UnitDue) (hr : s.recovering 2 = false)
    (hdue : s.svc.due.filter (fun e => decide (e.tick ≤ s.time.tickNum)) = [e]) (hslot : s.slotDue e = false) (hk : e.kind ≠ 4) :
    ∃ u : State, (∀ k i, u.unitCode k i = s.unitCode k i)
      ∧ ∀ i, i < 256 → s.unitBoundary.afterUnits.unitCode e.kind i = (u.unitDue e).unitCode e.kind i :=
  ⟨s.setSvc (fun q => { q with due := q.due.filter (fun e => !decide (e.tick ≤ s.time.tickNum)) }), fun _ _ => rfl,
    fun i hi => s.unitBoundary_one e hr hdue hslot e.kind i hk hi⟩

/-- The lowest SPARE of the class of a failed unit, with no test running, enters ACTIVE (R556). -/
theorem State.spareIn_code (s : State) (kind j : Nat) (w : Nat × Nat × Nat) (hauto : bit (s.act Reg.SVC_CTRL) 0 = true)
    (hr : s.recovering 2 = false)
    (hw : s.svc.replace.find? (fun e => decide (e.1 = kind) && decide (e.2.1 < s.time.tickNum)) = some w)
    (htests : s.svc.tests = []) (hj : (sortNat (s.unitsIn kind 1)).head? = some j) : (s.spareIn kind).unitCode kind j = 2 := by
  unfold State.spareIn
  rw [hw]
  dsimp only
  rw [if_neg (by
    show ¬ (!bit (s.act Reg.SVC_CTRL) 0 || s.recovering 2) = true
    rw [hauto, hr]
    decide)]
  generalize hv : s.setSvc (fun q => { q with replace := q.replace.filter (fun e => decide (e ≠ w)) }) = v
  have htests' : v.svc.tests = [] := by rw [← hv]; exact htests
  have hspare : (sortNat (v.unitsIn kind 1)).head? = some j := by rw [← hv]; exact hj
  simp only [htests', hspare, List.filter_nil, List.map_nil, List.append_nil, List.isEmpty_nil, Bool.or_true, if_true, List.foldl_nil,
    State.moveUnit_code]
  rw [State.unitCode_of (State.setEvt_svc ..)]
  exact State.changeUnit_code _ kind j 2

/-- Settles O51: the tick's boundary, whose length `tickEndAfter` rounds as log entries 61 and 116 say, and each change of units at it. -/
theorem boundariesOfTicksAndUnits : Obligations.BoundariesOfTicksAndUnits := by
  refine ⟨?tick, ?drain, ?drainSpare, ?offline, ?back, ?replace⟩
  case tick =>
    intro s hs hdue
    exact ⟨_, (State.go_run _ _ hs : execTickBoundary s = _), s.tickBoundary_tick hdue⟩
  case drain =>
    intro s e hs hr hdue hk hi hto hc hspare
    obtain ⟨u, hu, hb⟩ := s.unitBoundary_code e hr hdue (s.slotDue_drain e hto) hk
    refine ⟨_, (State.go_run _ _ hs : execUnitStateBoundary s = _), ?_⟩
    rw [hb _ hi, u.unitDue_drain_code e hto ((hu _ _).trans hc) hk, State.spareTakesOver_none _ e hspare]
    exact u.changeUnit_code _ _ 3
  case drainSpare =>
    intro s e hs hr hdue hk hi hto hc ⟨j, hspare, hne, hj, hcj⟩
    obtain ⟨u, hu, hb⟩ := s.unitBoundary_code e hr hdue (s.slotDue_drain e hto) hk
    obtain ⟨hunit, hother⟩ := u.drainWithSpare_code hspare hne ((hu _ _).trans hcj)
    have hcode := u.unitDue_drain_code e hto ((hu _ _).trans hc) hk e.kind
    exact ⟨_, (State.go_run _ _ hs : execUnitStateBoundary s = _), (hb _ hi).trans ((hcode _).trans hunit),
      j, hspare, (hb _ hj).trans ((hcode _).trans hother)⟩
  case offline =>
    intro s e hs hr hdue hk hi hto hslot hc
    obtain ⟨u, hu, hb⟩ := s.unitBoundary_code e hr hdue hslot hk
    exact ⟨_, (State.go_run _ _ hs : execUnitStateBoundary s = _),
      (hb _ hi).trans (u.unitDue_offline_code e hto ((hu _ _).trans hc) hk)⟩
  case back =>
    intro s e hs hr hdue hk hdrive hi hto hspare hc
    obtain ⟨u, hu, hb⟩ := s.unitBoundary_code e hr hdue (s.slotDue_false_of_not_drive e hdrive) hk
    exact ⟨_, (State.go_run _ _ hs : execUnitStateBoundary s = _),
      (hb _ hi).trans (u.unitDue_return_code e hto hspare ((hu _ _).trans hc) hk hdrive)⟩
  case replace =>
    intro s kind j w hs hauto hr hw htests hj
    refine ⟨_, (State.go_run _ _ hs : execSpareReplacement kind s = _), ?_⟩
    rw [State.afterUnits_code]
    exact s.spareIn_code kind j w hauto hr hw htests hj

end Sys2Proof.Machine

/-! SUPPORT. The packets of a frame and the lines of a pipeline unit: FRAME_START opens the frame, LINE adds to it, FRAME_END ends its
input, and a unit stores the next line (R184, R185, R187, R195, R196, R197, R214, R239, R243). -/

namespace Sys2Proof.Machine

/-! ### A packet of a frame -/

/-- From `s` to `u` at most the receive queue of a head link changes. -/
structure RxOnly (l : Nat) (s u : State) : Prop where
  store : u.store = s.store
  time : u.time = s.time
  cur : u.cur = s.cur
  cfg : u.cfg = s.cfg
  loss : (u.hl l).vc2Loss = (s.hl l).vc2Loss

theorem RxOnly.frame? {l : Nat} {s u : State} (h : RxOnly l s u) (j : Nat) : u.frame? j = s.frame? j := State.frame?_store h.store j

theorem RxOnly.stream {l : Nat} {s u : State} (h : RxOnly l s u) (st : Nat) : u.stream st = s.stream st := by
  unfold State.stream
  rw [h.store]

theorem RxOnly.activeSet {l : Nat} {s u : State} (h : RxOnly l s u) : u.activeSet = s.activeSet := by
  unfold State.activeSet
  rw [h.cfg]

/-- A packet that belongs to a frame is handled for that frame once it has left the receive queue. -/
theorem State.onPkt_frame (s : State) {l ty st : Nat} {p : Pkt} {x : FrameSt} (f : State → State) (hp : p.ptype = ty)
    (hl : s.linkCarries l = true) (hslot : s.slotStream l p.slot = some st) (hmatch : s.matchFrame st (leAt p.fields 0 4) = some x) :
    ∃ u, s.onPkt l ty p f = f u ∧ RxOnly l s u ∧ u.slotStream l p.slot = some st ∧ u.matchFrame st (leAt p.fields 0 4) = some x := by
  obtain ⟨u, hu, hrx, hcur, _, _, hcfg, hhl, _⟩ := s.onPkt_run l ty p f hp hl
  have hsame : u.store = s.store ∧ u.time = s.time ∧ u.takes = s.takes := by rcases hrx with rfl | rfl <;> exact ⟨rfl, rfl, rfl⟩
  obtain ⟨hstore, htime, htakes⟩ := hsame
  exact ⟨u, hu, ⟨hstore, htime, hcur, hcfg, by rw [hhl]⟩, (State.slotStream_congr hcfg l _).trans hslot,
    (State.matchFrame_congr hstore htakes st _).trans hmatch⟩

/-- A counter of a head link that an event of the link follows. -/
theorem State.hlEvt_count_toNat (s : State) (l b : Nat) (r : RegRow) (hw : r.win = Reg.HL_EVENTS.win) (hs : r.s1 = Reg.HL_EVENTS.s1)
    (hb : r.base ≠ Reg.HL_EVENTS.base) : (((s.count r l).hlEvt l b).reg r l).toNat = min 0xFFFFFFFF ((s.reg r l).toNat + 1) := by
  rw [← s.count_toNat r l (by rw [hw]; decide)]
  exact congrArg BitVec.toNat (State.reg_setReg_ne _ _ _ _ _ _ _ _ (by decide) (Or.inr (RegRow.addr_ne l hw hs hb)))

section Matched
variable {s : State} {l st : Nat} {p : Pkt} {x : FrameSt} (hslot : s.slotStream l p.slot = some st)
  (hmatch : s.matchFrame st (leAt p.fields 0 4) = some x)
include hslot hmatch

theorem State.frameStart_triggered (hx : x.phase = .triggered) : s.frameStart l p = s.frameStartOn st x p := by
  unfold State.frameStart
  rw [State.onFrame_run _ _ _ _ _ _ hslot hmatch (by rw [hx]; decide)]
  dsimp only
  rw [if_neg (by rw [hx]; decide), if_neg (by rw [hx]; decide)]

theorem State.frameStart_opened (hx : x.phase = .opened) : s.frameStart l p = s.unexpected l := by
  unfold State.frameStart
  rw [State.onFrame_run _ _ _ _ _ _ hslot hmatch (by rw [hx]; decide)]
  dsimp only
  rw [if_pos hx]

theorem State.line_opened (hf : s.frame? x.id = some x) (hx : x.phase = .opened) : s.line l p = s.linesIn l st x p := by
  unfold State.line
  rw [State.onFrame_run _ _ _ _ _ _ hslot hmatch (by rw [hx]; decide)]
  dsimp only
  rw [if_neg (by rw [hx]; decide), if_neg (by rw [hx]; decide), hf]

end Matched

/-! ### FRAME_START -/

/-- The inputs of older open frames of a stream end (R187). -/
def State.endOlder (s : State) (st : Nat) (x : FrameSt) : State :=
  (s.store.frames.filter (fun g => decide (g.stream = st) && g.phase = .opened && decide (g.id < x.id))).foldl
    (fun s g => s.endInput g.id .nextStart) s

theorem State.endOlder_ids (s : State) (st : Nat) (x : FrameSt) :
    ∀ g ∈ s.store.frames.filter (fun g => decide (g.stream = st) && g.phase = .opened && decide (g.id < x.id)), x.id ≠ g.id := by
  intro g hg
  obtain ⟨_, h⟩ := List.mem_filter.mp hg
  simp only [Bool.and_eq_true, decide_eq_true_eq] at h
  omega

theorem State.endOlder_keeps (s : State) (st : Nat) (x : FrameSt) : Keeps 256 s (s.endOlder st x) :=
  Keeps.foldl (fun u g hu => (u.endInput_keeps g.id .nextStart).after rfl hu) (Keeps.refl _ _)

theorem State.endOlder_frame (s : State) (st : Nat) (x : FrameSt) : (s.endOlder st x).frame? x.id = s.frame? x.id :=
  State.fold_frame _ _ _ _ fun u g hg => u.endInput_frame_ne g.id x.id .nextStart (s.endOlder_ids st x g hg)

theorem State.endOlder_unique (s : State) (st : Nat) (x : FrameSt) (h : ∀ g ∈ s.store.frames, g.id = x.id → g = x) :
    ∀ g ∈ (s.endOlder st x).store.frames, g.id = x.id → g = x :=
  State.endInputs_unique _ s x (s.endOlder_ids st x) h

/-- A frame whose FRAME_START has arrived: the arrival, the echo, and the exposure start the head reports (R163, R181). -/
def FrameSt.started (f : FrameSt) (clk : Nat) (p : Pkt) : FrameSt :=
  { f with
    fsAt := some clk, echo := some (leAt p.fields 4 2, leAt p.payload 12 4),
    expStart := toSigned 64 (leAt p.payload 0 8) * 65536 + leAt p.payload 8 2, imm := decide (leAt p.fields 6 1 % 2 = 1) }

theorem State.frameStartOn_eq (s : State) (st : Nat) (x : FrameSt) (p : Pkt) : s.frameStartOn st x p =
    ((s.endOlder st x).setFrame x.id (fun f => f.started (s.endOlder st x).time.clk p)).openNow x.id := rfl

theorem State.setFrame_unique (s : State) (x : FrameSt) (f : FrameSt → FrameSt) (h : ∀ g ∈ s.store.frames, g.id = x.id → g = x) :
    ∀ g ∈ (s.setFrame x.id f).store.frames, g.id = x.id → g = f x := by
  intro g hg hid
  obtain ⟨y, hy, rfl⟩ := List.mem_map.mp hg
  by_cases e : y.id = x.id
  · rw [if_pos e, h y hy e]
  · rw [if_neg e] at hid
    exact absurd hid e

/-- FRAME_START of a frame that has not opened opens it, with what the packet says (R184, R243). -/
theorem State.frameStartOn_frame (s : State) (st : Nat) {x : FrameSt} (p : Pkt) (hf : s.frame? x.id = some x) (hlive : x.live = false)
    (hu : ∀ g ∈ s.store.frames, g.id = x.id → g = x) :
    ∃ g, (s.frameStartOn st x p).frame? x.id = some g ∧ g.phase = .opened ∧ g.fsAt = some s.time.clk
      ∧ g.echo = some (leAt p.fields 4 2, leAt p.payload 12 4)
      ∧ g.expStart = toSigned 64 (leAt p.payload 0 8) * 65536 + leAt p.payload 8 2
      ∧ g.latch = s.activeSet ∧ g.version = s.cfg.activeVer ∧ g.slot = x.slot := by
  have hk := s.endOlder_keeps st x
  have hclk : (s.endOlder st x).time.clk = s.time.clk := congrArg TimeState.clk (hk.same .time rfl)
  have hcfg : (s.endOlder st x).cfg = s.cfg := hk.same .cfg rfl
  have hfr := State.setFrame_frame_self _ _ x (fun f => f.started (s.endOlder st x).time.clk p) (fun _ => rfl)
    ((s.endOlder_frame st x).trans hf)
  obtain ⟨g, hg, hphase, hlatch, hver, _, _, _, _, hfs, hecho, hslot, hexp⟩ := State.openNow_frame _ x.id _ hfr hlive
    (State.setFrame_unique _ x _ (s.endOlder_unique st x hu))
  rw [State.frameStartOn_eq]
  refine ⟨g, hg, hphase, hfs.trans (congrArg some hclk), hecho, hexp, hlatch.trans ?_, hver.trans (congrArg CfgState.activeVer hcfg), hslot⟩
  show (s.endOlder st x).activeSet = _
  unfold State.activeSet
  rw [hcfg]

/-! ### LINE -/

theorem State.linesIn_one (s : State) (l st : Nat) {x : FrameSt} {p : Pkt} (hcnt : leAt p.fields 6 1 = 1)
    (hlen : p.length = lineBytes x.latch st) : s.linesIn l st x p =
      s.lineIn st x.id (leAt p.fields 4 2) (sliceBytes p.payload 0 (lineBytes x.latch st)) := by
  unfold State.linesIn
  dsimp only
  rw [hcnt, if_neg (by omega), List.range_one, List.foldl_cons, List.foldl_nil, Nat.zero_mul, Nat.add_zero]

/-- A packet on VC2 that counts as a CRC error is lost (log entry 73). -/
def State.lostCrc (s : State) (l : Nat) : State := ((s.count Reg.HL_CRC_ERR_CNT l).hlEvt l 0).vc2Lost l

theorem State.lostCrc_facts (s : State) (l : Nat) : (s.lostCrc l).store = s.store ∧ bit ((s.lostCrc l).reg Reg.HL_EVENTS l) 0 = true
    ∧ ((s.lostCrc l).reg Reg.HL_CRC_ERR_CNT l).toNat = min 0xFFFFFFFF ((s.reg Reg.HL_CRC_ERR_CNT l).toNat + 1)
    ∧ ((s.lostCrc l).hl l).vc2Loss = (s.hl l).vc2Loss + 1 := by
  have hcount := s.hlEvt_count_toNat l 0 Reg.HL_CRC_ERR_CNT rfl rfl (by decide)
  have hbit : bit (((s.count Reg.HL_CRC_ERR_CNT l).hlEvt l 0).reg Reg.HL_EVENTS l) 0 = true :=
    State.setEvt_bit _ _ _ _ (by decide) (by decide)
  have hk : Keeps 1 s ((s.count Reg.HL_CRC_ERR_CNT l).hlEvt l 0) :=
    (State.hlEvt_keeps ..).after rfl ((State.count_keeps ..).after rfl (Keeps.refl _ _))
  unfold State.lostCrc
  generalize (s.count Reg.HL_CRC_ERR_CNT l).hlEvt l 0 = v at hcount hbit hk ⊢
  have hcur : (v.vc2Lost l).cur = v.cur := rfl
  rw [State.reg_cur hcur, State.reg_cur hcur, ← State.hl_of (hk.same .link rfl) l]
  exact ⟨hk.same .store rfl, hbit, hcount, congrArg LinkSt.vc2Loss (State.hl_setHl_self ..)⟩

theorem State.linesIn_malformed (s : State) (l st : Nat) {x : FrameSt} {p : Pkt}
    (h : leAt p.fields 6 1 = 0 ∨ p.length ≠ leAt p.fields 6 1 * lineBytes x.latch st) : s.linesIn l st x p = s.lostCrc l := by
  unfold State.linesIn
  exact if_pos h

/-- A line of a frame is listed, waits, and takes its room in the stream's line buffer (R195). -/
def State.listLine (s : State) (st id k lb : Nat) : State :=
  (s.setFrame id (fun f => { f with lines := f.lines ++ [k], waiting := f.waiting + 1, lastLine := s.now16 })).setStream st (fun q =>
    { q with buffered := q.buffered + lb })

theorem State.listLine_frame (s : State) (st id k lb : Nat) {f : FrameSt} (hf : s.frame? id = some f) :
    ∃ g, (s.listLine st id k lb).frame? id = some g ∧ g.lines = f.lines ++ [k] ∧ g.waiting = f.waiting + 1 ∧ g.phase = f.phase :=
  ⟨_, State.setFrame_frame_self s id f
    (fun f => { f with lines := f.lines ++ [k], waiting := f.waiting + 1, lastLine := s.now16 }) (fun _ => rfl) hf, rfl, rfl, rfl⟩

theorem State.listLine_buffered (s : State) (st id k lb : Nat) :
    ((s.listLine st id k lb).stream st).buffered = (s.stream st).buffered + lb :=
  congrArg StreamSt.buffered (Tab.get_upd_self ({} : StreamSt) s.store.streams st (fun q => { q with buffered := q.buffered + lb }))

/-- A line stands in the line buffer, and its bytes are charged to its stream (R105, R195). -/
def State.bufferLine (s : State) (x : LineIn) (lb : Nat) : State :=
  (s.charge (.stream x.stream) 1 (s.streamLink x.stream) lb).setStore (fun q => { q with lbuf := q.lbuf ++ [x] })

theorem State.bufferLine_store (s : State) (x : LineIn) (lb : Nat) :
    (s.bufferLine x lb).store = { s.store with lbuf := s.store.lbuf ++ [x] } :=
  congrArg (fun q : StoreState => { q with lbuf := q.lbuf ++ [x] })
    ((s.charge_keeps (.stream x.stream) 1 (s.streamLink x.stream) lb).same .store rfl)

section Accepted
variable {s : State} {st id k : Nat} {f : FrameSt} (bytes : List Byte) (hf : s.frame? id = some f) (hk : k < geomH f.latch st)
  (hnew : f.lines.contains k = false) (hroom : (s.stream st).buffered + lineBytes f.latch st ≤ 262144)
  (hpages : ∀ i ∈ linePages (lineBytes f.latch st) k, f.page? i ≠ none)
include hf hk hnew hroom hpages

theorem State.lineIn_accepted : s.lineIn st id k bytes = (s.listLine st id k (lineBytes f.latch st)).bufferLine
    { stream := st, id := id, line := k, bytes := bytes, at_ := s.time.now } (lineBytes f.latch st) := by
  unfold State.lineIn
  rw [hf]
  dsimp only
  rw [if_neg (Nat.not_le.mpr hk), if_neg (by rw [hnew]; decide), if_neg (Nat.not_lt.mpr hroom), s.linePagesFor_have st id f _ hf hpages]
  rfl

/-- A new line that has its pages and its room is listed, waits and stands in the line buffer (R195, R239). -/
theorem State.lineIn_waits :
    (∃ g, (s.lineIn st id k bytes).frame? id = some g ∧ g.lines = f.lines ++ [k] ∧ g.waiting = f.waiting + 1 ∧ g.phase = f.phase)
      ∧ ((s.lineIn st id k bytes).stream st).buffered = (s.stream st).buffered + lineBytes f.latch st
      ∧ (s.lineIn st id k bytes).store.lbuf = s.store.lbuf ++ [{
          stream := st, id := id, line := k, bytes := bytes, at_ := s.time.now }] := by
  rw [State.lineIn_accepted bytes hf hk hnew hroom hpages]
  obtain ⟨g, hg, hrest⟩ := s.listLine_frame st id k (lineBytes f.latch st) hf
  have hstore := (s.listLine st id k (lineBytes f.latch st)).bufferLine_store
    { stream := st, id := id, line := k, bytes := bytes, at_ := s.time.now } (lineBytes f.latch st)
  refine ⟨⟨g, (State.frame?_frames (by rw [hstore]) id).trans hg, hrest⟩, ?_, by rw [hstore]; rfl⟩
  rw [← s.listLine_buffered st id k]
  unfold State.stream
  rw [hstore]

end Accepted

/-! ### FRAME_END -/

/-- A frame whose FRAME_END has arrived: the lines sent, the head's flags and the exposure end (R163). -/
def FrameSt.told (f : FrameSt) (p : Pkt) : FrameSt :=
  { f with
    linesSent := some (leAt p.fields 4 2), headFlags := leAt p.fields 6 1 % 4,
    expEnd := toSigned 64 (leAt p.payload 0 8) * 65536 + leAt p.payload 8 2 }

theorem State.frameEnd_opened {s : State} {l st : Nat} {p : Pkt} {x : FrameSt} (hslot : s.slotStream l p.slot = some st)
    (hmatch : s.matchFrame st (leAt p.fields 0 4) = some x) (hx : x.phase = .opened) :
    s.frameEnd l p = (s.setFrame x.id (fun f => f.told p)).endInput x.id .frameEnd := by
  unfold State.frameEnd
  rw [State.onFrame_run _ _ _ _ _ _ hslot hmatch (by rw [hx]; decide)]
  dsimp only
  rw [if_neg (by rw [hx]; decide), if_neg (by rw [hx]; decide)]
  rfl

/-! ### A line on a pipeline unit -/

/-- A line leaves the line buffer and its stream's share of it. -/
def State.unbuffer (s : State) (x : LineIn) : State :=
  (s.setStore (fun q => { q with
    lbuf := q.lbuf.filter (fun y => !(decide (y.id = x.id) && decide (y.line = x.line))) })).setStream x.stream (fun q =>
      { q with buffered := q.buffered - x.bytes.length })

theorem State.unbuffer_stream (s : State) (x : LineIn) :
    ((s.unbuffer x).stream x.stream).buffered = (s.stream x.stream).buffered - x.bytes.length :=
  congrArg StreamSt.buffered (Tab.get_upd_self ({} : StreamSt) s.store.streams x.stream
    (fun q => { q with buffered := q.buffered - x.bytes.length }))

/-- What a unit's processing of a line adds to its frame: to the unit's partial statistics, and to the preview where the latched
set `t` has one (R214, R218). -/
def FrameSt.addLine (f : FrameSt) (t : RegSet) (u : Nat) (x : LineIn) (o : LineOut) : FrameSt :=
  let f := { f with
    waiting := f.waiting - 1,
    stats := f.stats.upd {} u (fun q => q.line t x.stream f.calib x.line o) }
  if t.bit Reg.ST_PIPE x.stream 20 then f.addPreview x.line ((activePx t x.stream o.px).map (fun e => e.2.2.2)) else f

theorem FrameSt.addLine_rest (f : FrameSt) (t : RegSet) (u : Nat) (x : LineIn) (o : LineOut) : (f.addLine t u x o).id = f.id
    ∧ (f.addLine t u x o).waiting = f.waiting - 1 ∧ (f.addLine t u x o).phase = f.phase
    ∧ ((f.addLine t u x o).stats.get ({} : Stats) u).lines = (f.stats.get ({} : Stats) u).lines + 1 := by
  have hlines : ((f.stats.upd ({} : Stats) u (fun q => q.line t x.stream f.calib x.line o)).get ({} : Stats) u).lines
      = (f.stats.get ({} : Stats) u).lines + 1 := by
    rw [Tab.get_upd_self, Stats.line_lines]
  unfold FrameSt.addLine
  dsimp only
  split
  · obtain ⟨hid, hwait, hphase, hstats⟩ := FrameSt.addPreview_rest { f with
      waiting := f.waiting - 1, stats := f.stats.upd {} u (fun q => q.line t x.stream f.calib x.line o) } x.line
      ((activePx t x.stream o.px).map (fun e => e.2.2.2))
    exact ⟨hid, hwait, hphase, by rw [hstats]; exact hlines⟩
  · exact ⟨rfl, rfl, rfl, hlines⟩

/-- The store of a line's conditioned pixels where its frame holds them (R207, R239). -/
def State.storeLine (s : State) (x : LineIn) (f : FrameSt) : State :=
  s.putPayload x.id (x.line * lineBytes f.latch x.stream) (packPixels (geomD f.latch x.stream)
    (s.condition f x.line x.bytes).payload (lineBytes f.latch x.stream))

theorem State.unbuffer_condition (s : State) (x : LineIn) (f : FrameSt) (l : Nat) (b : List Byte) :
    (s.unbuffer x).condition f l b = s.condition f l b := rfl

theorem State.unbuffer_storeLine (s : State) (x : LineIn) (f : FrameSt) :
    ((s.unbuffer x).storeLine x f).hbm = (s.storeLine x f).hbm := by
  unfold State.storeLine
  rw [State.unbuffer_condition]
  exact State.putPayload_hbm s (s.unbuffer x) rfl _ _ _ rfl

/-- The counts and charges of a processed line (R105, R197). -/
def State.countLine (s : State) (u : Nat) (x : LineIn) (f : FrameSt) : State :=
  (((s.add64 Reg.PU_LINES_LO Reg.PU_LINES_HI u 1).add64 Reg.PU_BUSY_LO Reg.PU_BUSY_HI u (lineCost f.latch x.stream)).charge
    (.stream x.stream) 3 u (lineCost f.latch x.stream)).charge (.stream x.stream) 9 0
      (lineBytes f.latch x.stream + lineStoreBytes f.latch x.stream f.calib x.line)

theorem State.processLine_eq (s : State) (u : Nat) (x : LineIn) {f : FrameSt} (h : s.frame? x.id = some f) : s.processLine u x =
    (((s.unbuffer x).storeLine x f).setFrame x.id (fun g => g.addLine f.latch u x (s.condition f x.line x.bytes))).countLine
      u x f := by
  have h' : (s.unbuffer x).frame? x.id = some f := h
  unfold State.processLine
  dsimp only
  unfold State.unbuffer at h'
  rw [h']
  rfl

theorem State.countLine_keeps (s : State) (u : Nat) (x : LineIn) (f : FrameSt) : Keeps 65 s (s.countLine u x f) :=
  (State.charge_keeps ..).after rfl ((State.charge_keeps ..).after rfl ((State.add64_keeps ..).after rfl
    ((State.add64_keeps ..).after rfl (Keeps.refl _ _))))

/-- A unit's counts of lines and of cycles go on (R197). -/
theorem State.countLine_counts (s : State) (u : Nat) (x : LineIn) (f : FrameSt) :
    (s.countLine u x f).reg64 Reg.PU_LINES_LO Reg.PU_LINES_HI u = (s.reg64 Reg.PU_LINES_LO Reg.PU_LINES_HI u + 1) % 2 ^ 64
      ∧ (s.countLine u x f).reg64 Reg.PU_BUSY_LO Reg.PU_BUSY_HI u =
        (s.reg64 Reg.PU_BUSY_LO Reg.PU_BUSY_HI u + lineCost f.latch x.stream) % 2 ^ 64 := by
  have hne {r q : RegRow} (hw : q.win = r.win) (hs : q.s1 = r.s1) (hb : q.base ≠ r.base) : q.win ≠ r.win ∨ q.addr u ≠ r.addr u :=
    Or.inr (RegRow.addr_ne u hw hs hb)
  generalize hv : s.add64 Reg.PU_LINES_LO Reg.PU_LINES_HI u 1 = v
  have hlines : v.reg64 Reg.PU_LINES_LO Reg.PU_LINES_HI u = (s.reg64 Reg.PU_LINES_LO Reg.PU_LINES_HI u + 1) % 2 ^ 64 := by
    rw [← hv]
    exact s.reg64_add64 _ _ u 1 (by decide) (by decide) (hne rfl rfl (by decide))
  have hbusy : v.reg64 Reg.PU_BUSY_LO Reg.PU_BUSY_HI u = s.reg64 Reg.PU_BUSY_LO Reg.PU_BUSY_HI u := by
    rw [← hv]
    exact s.reg64_set64_ne _ _ _ _ u _ (by decide) (by decide) (hne rfl rfl (by decide)) (hne rfl rfl (by decide))
      (hne rfl rfl (by decide)) (hne rfl rfl (by decide))
  have hc : (s.countLine u x f).cur = (v.add64 Reg.PU_BUSY_LO Reg.PU_BUSY_HI u (lineCost f.latch x.stream)).cur := by
    rw [← hv]
    rfl
  have hwin := WinSame.of (w := 7) hc
  rw [State.reg64_win hwin _ _ u rfl rfl, State.reg64_win hwin _ _ u rfl rfl, ← hlines, ← hbusy]
  exact ⟨v.reg64_set64_ne _ _ _ _ u _ (by decide) (by decide) (hne rfl rfl (by decide)) (hne rfl rfl (by decide))
    (hne rfl rfl (by decide)) (hne rfl rfl (by decide)), v.reg64_add64 _ _ u _ (by decide) (by decide) (hne rfl rfl (by decide))⟩

theorem State.storeLine_keeps (s : State) (x : LineIn) (f : FrameSt) : Keeps 131073 s (s.storeLine x f) := State.putPayload_keeps ..

/-- What a unit's line leaves: its place in the line buffer, its pixels, the unit's counts and its frame (R195, R197, R214, R239). -/
theorem State.processLine_facts (s : State) (u : Nat) (x : LineIn) {f : FrameSt} (h : s.frame? x.id = some f) :
    (s.processLine u x).store.lbuf = s.store.lbuf.filter (fun y => !(decide (y.id = x.id) && decide (y.line = x.line)))
      ∧ ((s.processLine u x).stream x.stream).buffered = (s.stream x.stream).buffered - x.bytes.length
      ∧ (s.processLine u x).reg64 Reg.PU_LINES_LO Reg.PU_LINES_HI u = (s.reg64 Reg.PU_LINES_LO Reg.PU_LINES_HI u + 1) % 2 ^ 64
      ∧ (s.processLine u x).reg64 Reg.PU_BUSY_LO Reg.PU_BUSY_HI u =
        (s.reg64 Reg.PU_BUSY_LO Reg.PU_BUSY_HI u + lineCost f.latch x.stream) % 2 ^ 64
      ∧ (s.processLine u x).hbm = (s.storeLine x f).hbm
      ∧ (s.processLine u x).frame? x.id = some (f.addLine f.latch u x (s.condition f x.line x.bytes)) := by
  rw [s.processLine_eq u x h]
  generalize hw : (s.unbuffer x).storeLine x f = w
  have hk : Keeps 131073 (s.unbuffer x) w := hw ▸ (s.unbuffer x).storeLine_keeps x f
  have hstore : w.store = (s.unbuffer x).store := hk.same .store rfl
  have hwin : WinSame 7 s w := (WinSame.of rfl).trans (hw ▸ (s.unbuffer x).putPayload_win _ _ 7 _ (by decide))
  have hframe : w.frame? x.id = some f := (State.frame?_store hstore x.id).trans h
  generalize hv : w.setFrame x.id _ = v
  have hvw : v.store.lbuf = w.store.lbuf ∧ v.store.streams = w.store.streams ∧ v.cur = w.cur ∧ v.hbm = w.hbm := by
    rw [← hv]
    exact ⟨rfl, rfl, rfl, rfl⟩
  obtain ⟨hlbuf, hstreams, hcur, hhbm⟩ := hvw
  have hvframe : v.frame? x.id = some (f.addLine f.latch u x (s.condition f x.line x.bytes)) := by
    rw [← hv]
    exact State.setFrame_frame_self _ _ f _ (fun g => (g.addLine_rest f.latch u x _).1) hframe
  have hkc := v.countLine_keeps u x f
  have hcs : (v.countLine u x f).store = v.store := hkc.same .store rfl
  obtain ⟨hlines, hbusy⟩ := v.countLine_counts u x f
  have hvwin : WinSame 7 s v := hwin.trans (WinSame.of hcur)
  rw [State.reg64_win hvwin _ _ u rfl rfl] at hlines hbusy
  refine ⟨?_, ?_, hlines, hbusy, ?_, (State.frame?_store hcs x.id).trans hvframe⟩
  · rw [hcs, hlbuf, hstore]
    rfl
  · rw [← s.unbuffer_stream x]
    unfold State.stream
    rw [hcs, hstreams, hstore]
  · rw [hkc.same .hbm rfl, hhbm, ← hw, State.unbuffer_storeLine]

theorem State.puLine_next (s : State) {u : Nat} {x : LineIn} (hu : s.unitActive 0x0C u = true) (hx : s.nextLine u = some x)
    (hrel : s.released (.stream x.stream) 3 u = true) : s.puLine u = s.processLine u x := by
  unfold State.puLine
  rw [if_pos hu, hx]
  exact if_pos hrel

/-- Settles O48: each packet by what it does to its frame, and a unit's line by what its processing leaves. A LINE of a bad LENGTH
counts as a CRC error by log entry 73, and a line's pixels are stored when its unit has processed it by log entry 74. -/
theorem framesAndLinesArrive : Obligations.FramesAndLinesArrive := by
  refine ⟨?start, ?startAgain, ?line, ?malformed, ?frameEnd, ?unit⟩
  case start =>
    intro s l st p x hs hl hp hslot hmatch huniq hx
    obtain ⟨u, hu, hrx, hslot', hmatch'⟩ := s.onPkt_frame (fun s => s.frameStart l p) hp hl hslot hmatch
    refine ⟨_, (State.go_run _ _ hs : execFrameStart l p s = _), ?_⟩
    rw [hu, State.frameStart_triggered hslot' hmatch' hx, ← hrx.activeSet, ← hrx.cfg, ← hrx.time]
    exact u.frameStartOn_frame st p ((hrx.frame? _).trans (State.frame?_of_unique hmatch huniq))
      (by unfold FrameSt.live; rw [hx]; decide) (by rw [hrx.store]; exact huniq)
  case startAgain =>
    intro s l st p x hs hl hp hslot hmatch hx
    obtain ⟨u, hu, hrx, hslot', hmatch'⟩ := s.onPkt_frame (fun s => s.frameStart l p) hp hl hslot hmatch
    refine ⟨_, (State.go_run _ _ hs : execFrameStart l p s = _), ?_⟩
    rw [hu, State.frameStart_opened hslot' hmatch' hx]
    refine ⟨((u.unexpected_keeps l).same .store rfl).trans hrx.store, State.setEvt_bit _ _ _ _ (by decide) (by decide), ?_⟩
    rw [← State.reg_cur hrx.cur]
    exact u.hlEvt_count_toNat l 8 Reg.HL_UNEXPECTED_CNT rfl rfl (by decide)
  case line =>
    intro s l st p x hs hl hp hslot hmatch hframe hx hcnt hlen hk hnew hroom hpages
    obtain ⟨u, hu, hrx, hslot', hmatch'⟩ := s.onPkt_frame (fun s => s.line l p) hp hl hslot hmatch
    have hframe' := (hrx.frame? x.id).trans hframe
    refine ⟨_, (State.go_run _ _ hs : execLine l p s = _), ?_⟩
    rw [hu, State.line_opened hslot' hmatch' hframe' hx, u.linesIn_one l st hcnt hlen, ← hrx.store, ← hrx.time, ← hrx.stream, ← hx]
    exact State.lineIn_waits _ hframe' hk hnew (by rw [hrx.stream]; exact hroom) hpages
  case malformed =>
    intro s l st p x hs hl hp hslot hmatch hframe hx hbad
    obtain ⟨u, hu, hrx, hslot', hmatch'⟩ := s.onPkt_frame (fun s => s.line l p) hp hl hslot hmatch
    refine ⟨_, (State.go_run _ _ hs : execLine l p s = _), ?_⟩
    rw [hu, State.line_opened hslot' hmatch' ((hrx.frame? x.id).trans hframe) hx, u.linesIn_malformed l st hbad, ← hrx.store,
      ← hrx.loss, ← State.reg_cur hrx.cur]
    exact u.lostCrc_facts l
  case frameEnd =>
    intro s l st p x hs hl hp hslot hmatch hframe hx
    obtain ⟨u, hu, hrx, hslot', hmatch'⟩ := s.onPkt_frame (fun s => s.frameEnd l p) hp hl hslot hmatch
    refine ⟨_, (State.go_run _ _ hs : execFrameEnd l p s = _), ?_⟩
    rw [hu, State.frameEnd_opened hslot' hmatch' hx]
    obtain ⟨g, hg, hphase, hcause, htick, _, _, hlines, hsent, _, _, hend⟩ := State.endInput_frame _ (x.told p) .frameEnd
      (u.setFrame_frame_self x.id x (fun f => f.told p) (fun _ => rfl) ((hrx.frame? x.id).trans hframe))
    obtain ⟨hexp, _, hflags⟩ := hend rfl
    exact ⟨g, hg, hphase, hcause, htick.trans (congrArg TimeState.tickNum hrx.time), hsent, hflags, hlines, hexp⟩
  case unit =>
    intro s u x f hs hu hx hrel hframe
    refine ⟨_, (State.go_run _ _ hs : execPuLineProcess u s = _), ?_⟩
    rw [s.puLine_next hu hx hrel]
    obtain ⟨hlbuf, hbuf, hlines, hbusy, hhbm, hg⟩ := s.processLine_facts u x hframe
    obtain ⟨_, hwait, hphase, hstats⟩ := f.addLine_rest f.latch u x (s.condition f x.line x.bytes)
    exact ⟨hlbuf, hbuf, hlines, hbusy, hhbm, _, hg, hwait, hphase, hstats⟩

end Sys2Proof.Machine

/-! SUPPORT. The close of a frame, the digest of a page, the seal of a frame, the return of pages and record slots, and the refill of a
page cache (R189, R190, R238, R244, R252, R498, R501, R502). -/

namespace Sys2Proof.Machine

/-! ### FRAME_CLOSE -/

/-- From `s` to `t` a frame changes at most its holders and when its pages are free, and no stream's counts change. -/
structure CountsRest (s t : State) : Prop where
  frame : ∀ j x, s.frame? j = some x → ∃ a b, t.frame? j = some { x with hold := a, freeAt := b }
  counts : StreamRest s t

theorem CountsRest.trans {s t u : State} (h : CountsRest s t) (k : CountsRest t u) : CountsRest s u :=
  ⟨fun j x hx => by
    obtain ⟨_, _, ht⟩ := h.frame j x hx
    obtain ⟨a, b, hu⟩ := k.frame j _ ht
    exact ⟨a, b, hu⟩, h.counts.trans k.counts⟩

theorem HoldOnly.countsRest {s t : State} (h : HoldOnly s t) : CountsRest s t := ⟨h.frame, StreamRest.of h.streams⟩

/-- What a close does once the frame is counted: holders release it, and it is pending where no seal holds it (R43, R252, R422). -/
def State.closeEnd (s : State) (f : FrameSt) : State :=
  let t := (s.releaseIf f.id 0).prerollLeave f.stream f.rig f.frame
  (if f.hold.sealing then t else t.pendAll f.id).tallyTest f.id

theorem State.closeEnd_rest (s : State) (f : FrameSt) : CountsRest s (s.closeEnd f) := by
  obtain ⟨hframe, hcounts⟩ := (s.releaseIf f.id 0).prerollLeave_rest f.stream f.rig f.frame
  have hleave := (s.releaseIf_holdOnly f.id 0).countsRest.trans ⟨hframe, hcounts⟩
  unfold State.closeEnd
  dsimp only
  refine CountsRest.trans ?_ (State.tallyTest_holdOnly _ _).countsRest
  split
  · exact hleave
  · exact hleave.trans (State.pendAll_holdOnly _ _).countsRest

/-- A frame with its final status, record, block and preview (R216, R244). -/
def FrameSt.closedAs (f : FrameSt) (status : Word) (record block image : List Byte) (tick : Nat) : FrameSt :=
  { f with
    phase := .closed, status := status, record := record, block := block, pvImage := image, closeTick := tick,
    stats := [], pvSum := [], pvCnt := [], pvWait := [] }

/-- The events of a close, and the bandwidth of its record and block (R235, R246). -/
def State.closeEvents (s : State) (f : FrameSt) (evs : List Nat) : State :=
  let s := s.orReg Reg.ST_EVENTS f.stream (bitsOf evs)
  let s := match f.slot with
    | some i => s.slotBytes i true true
    | none => s
  if f.statLost then s.setEvt Reg.ST_PIPE_EVENTS f.stream 1 else s

theorem State.closeEvents_keeps (s : State) (f : FrameSt) (evs : List Nat) : Keeps 1 s (s.closeEvents f evs) := by
  have h := s.orReg_keeps Reg.ST_EVENTS f.stream (bitsOf evs)
  unfold State.closeEvents
  dsimp only
  cases f.slot with
  | none => exact Keeps.ite ((State.setEvt_keeps ..).after rfl h) h
  | some i =>
    have h' := (State.slotBytes_keeps _ i true true).after rfl h
    exact Keeps.ite ((State.setEvt_keeps ..).after rfl h') h'

/-- The state in which a closing frame's status is taken: untouched lines filled, the settings digest at the frame (R239, R247). -/
def State.closeReady (s : State) (f : FrameSt) : State := ((s.fillFrame f).digestOf f).2

theorem State.closeFrame_eq (s : State) (f : FrameSt) : ∃ record block image evs, s.closeFrame f =
    ((((s.closeReady f).setFrame f.id (fun g => g.closedAs ((s.closeReady f).closeStatus f) record block image
      (s.closeReady f).time.tickNum)).closeEvents f evs).closeHealth f).closeEnd f := ⟨_, _, _, _, rfl⟩

theorem State.closeReady_keeps (s : State) (f : FrameSt) : Keeps 131329 s (s.closeReady f) :=
  (State.digestOf_keeps ..).after rfl ((s.fillFrame_keeps f).mono rfl)

theorem State.closeReady_frames (s : State) (f : FrameSt) : (s.closeReady f).store.frames = s.store.frames
    ∧ StreamRest s (s.closeReady f) := by
  have hfill : (s.fillFrame f).store = s.store := (s.fillFrame_keeps f).same .store rfl
  obtain ⟨hframes, hrest⟩ := (s.fillFrame f).digestOf_frames f
  exact ⟨hframes.trans (congrArg StoreState.frames hfill), (StreamRest.of (congrArg StoreState.streams hfill)).trans hrest⟩

theorem State.closeReady_status (s : State) (f : FrameSt) : (s.closeReady f).closeStatus f = s.closeStatus f :=
  have hk := s.closeReady_keeps f
  State.closeStatus_congr (hk.same .cfg rfl) (hk.same .link rfl) (hk.same .svc rfl) (hk.same .time rfl) f

/-- A close: the frame is final, and counts in its stream (R189, R190, R244). -/
theorem State.closeFrame_facts (s : State) {f : FrameSt} (hf : f ∈ s.store.frames) (hu : ∀ g ∈ s.store.frames, g.id = f.id → g = f) :
    (∃ g, (s.closeFrame f).frame? f.id = some g ∧ g.phase = .closed ∧ g.status = s.closeStatus f ∧ g.closeTick = s.time.tickNum
        ∧ g.stats = [] ∧ g.frame = f.frame ∧ g.lines = f.lines)
      ∧ ((s.closeFrame f).stream f.stream).lastFrame = f.frame
      ∧ ((s.closeFrame f).stream f.stream).history = (f.endCause.timeout :: (s.stream f.stream).history).take 16
      ∧ ((s.closeFrame f).stream f.stream).consec = (if f.endCause.timeout then satAdd 255 (s.stream f.stream).consec 1 else 0) := by
  obtain ⟨record, block, image, evs, heq⟩ := s.closeFrame_eq f
  obtain ⟨hframes, hrest⟩ := s.closeReady_frames f
  have htime : (s.closeReady f).time = s.time := (s.closeReady_keeps f).same .time rfl
  rw [s.closeReady_status f, htime] at heq
  generalize hc : f.closedAs (s.closeStatus f) record block image s.time.tickNum = c at heq
  generalize hv : (s.closeReady f).setFrame f.id _ = v at heq
  have hvframe : v.frame? f.id = some c := by
    rw [← hv, ← hc]
    exact State.setFrame_frame_self _ _ f _ (fun _ => rfl) ((State.frame?_frames hframes _).trans (State.frame?_mem hf hu))
  have hvclosed : ∀ g ∈ v.store.frames, g.id = f.id → g.phase ≠ .triggered := by
    intro g hg hid
    rw [← hv] at hg
    rw [State.setFrame_unique _ f _ (by rw [hframes]; exact hu) g hg hid]
    exact (by decide : FPhase.closed ≠ .triggered)
  have hvrest : StreamRest s v := hrest.trans (StreamRest.of (by rw [← hv]; rfl))
  have hstore : (v.closeEvents f evs).store = v.store := (v.closeEvents_keeps f evs).same .store rfl
  obtain ⟨hframe, hlast, hhist, hconsec⟩ := (v.closeEvents f evs).closeHealth_rest f c ((State.frame?_store hstore _).trans hvframe)
    (by rw [hstore]; exact hvclosed)
  have hstream : (v.closeEvents f evs).stream f.stream = v.stream f.stream := by
    unfold State.stream
    rw [hstore]
  obtain ⟨_, hsHist, hsConsec⟩ := hvrest f.stream
  rw [hstream, hsHist] at hhist
  rw [hstream, hsConsec] at hconsec
  obtain ⟨hend, hcounts⟩ := ((v.closeEvents f evs).closeHealth f).closeEnd_rest f
  obtain ⟨a, b, hg⟩ := hend f.id c hframe
  obtain ⟨hl, hh, hn⟩ := hcounts f.stream
  rw [heq]
  refine ⟨⟨_, hg, ?_⟩, hl.trans hlast, hh.trans hhist, hn.trans hconsec⟩
  rw [← hc]
  exact ⟨rfl, rfl, rfl, rfl, rfl, rfl⟩

theorem State.closable_frame {s : State} {st : Nat} {f : FrameSt} (h : s.closable st = some f) : f ∈ s.store.frames ∧ f.stream = st := by
  have hfind := List.find?_some h
  simp only [Bool.and_eq_true, decide_eq_true_eq] at hfind
  exact ⟨List.mem_of_find?_eq_some h, hfind.1.1.1⟩

/-! ### Page digests -/

/-- A frame with the digest of a page of its payload. -/
def State.digestOfPage (s : State) (f : FrameSt) (i : Nat) : FrameSt :=
  { f with digests := f.digests.put [] i (sha384 (s.getPayload f (65536 * i) (f.pageBytes i))) }

/-- An engine digests a page of a frame: it spends the seal's jobs, reads the page and counts its bytes (R99, R498). -/
def State.digestPage (s : State) (e i : Nat) (f : FrameSt) : State :=
  (((s.setFrame f.id (fun g => { g with
    digests := g.digests.put [] i (sha384 (s.getPayload f (65536 * i) (f.pageBytes i))) })).useJob (.seal f.stream) 4 e
      (f.pageBytes i)).readBytes f (65536 * i) (f.pageBytes i)).add64 Reg.CE_BYTES_LO Reg.CE_BYTES_HI e (f.pageBytes i)

/-- An engine whose jobs cover the page that it owes next digests it (log entry 67). -/
theorem State.pageDigest_owed (s : State) {e i : Nat} {f : FrameSt} (he : s.unitActive 0x0D e = true)
    (hm : s.dev.mode = .operational) (hp : s.pageOwed e = some (f, i))
    (hjobs : s.hasResv (.seal f.stream) = true → f.pageBytes i ≤ s.jobLeft (.seal f.stream) 4 e) :
    s.pageDigest e = s.digestPage e i f := by
  unfold State.pageDigest
  rw [he, hm, hp, if_pos (by decide)]
  dsimp only
  refine if_neg (fun c => ?_)
  simp only [Bool.and_eq_true, decide_eq_true_eq] at c
  exact absurd c.2 (Nat.not_lt.mpr (hjobs c.1))

theorem State.digestPage_facts (s : State) (e i : Nat) {f : FrameSt} (hf : s.frame? f.id = some f) :
    (s.digestPage e i f).frame? f.id = some (s.digestOfPage f i)
      ∧ (s.digestPage e i f).reg64 Reg.CE_BYTES_LO Reg.CE_BYTES_HI e =
        (s.reg64 Reg.CE_BYTES_LO Reg.CE_BYTES_HI e + f.pageBytes i) % 2 ^ 64 := by
  have hframe := s.setFrame_frame_self f.id f (fun g => { g with
    digests := g.digests.put [] i (sha384 (s.getPayload f (65536 * i) (f.pageBytes i))) }) (fun _ => rfl) hf
  unfold State.digestPage
  generalize hv : s.setFrame f.id _ = v at hframe ⊢
  have hcur : v.cur = s.cur := by
    rw [← hv]
    rfl
  have hj := v.useJob_keeps (.seal f.stream) 4 e (f.pageBytes i)
  generalize v.useJob (.seal f.stream) 4 e (f.pageBytes i) = w at hj ⊢
  have hr := w.readBytes_keeps f (65536 * i) (f.pageBytes i)
  have hwin := (WinSame.of ((hj.same .cur rfl).trans hcur)).trans (w.readBytes_win f (65536 * i) (f.pageBytes i) 13 (by decide))
  constructor
  · rw [State.frame?_store (State.add64_store ..), State.frame?_store (hr.same .store rfl), State.frame?_store (hj.same .store rfl)]
    exact hframe
  · rw [State.reg64_add64 _ Reg.CE_BYTES_LO Reg.CE_BYTES_HI e _ (by decide) (by decide) (Or.inr (RegRow.addr_ne e rfl rfl (by decide))),
      State.reg64_win hwin _ _ e rfl rfl]

/-! ### Seals -/

/-- The frame that is sealed next is closed and has its seal holder, and its take stands (R502). -/
theorem State.sealable_frame {s : State} {st : Nat} {f : FrameSt} {k : Take} (h : s.sealable st = some (f, k)) :
    f ∈ s.store.frames ∧ f.stream = st ∧ f.phase = .closed ∧ f.hold.sealing = true ∧ s.take? k.id = some k := by
  obtain ⟨f', hfind, htake⟩ := Option.bind_eq_some_iff.mp h
  obtain ⟨k', hk, hpair⟩ := Option.map_eq_some_iff.mp htake
  obtain ⟨rfl, rfl⟩ := Prod.mk.inj hpair
  obtain ⟨i, _, hi⟩ := Option.bind_eq_some_iff.mp hk
  have hp := List.find?_some hfind
  simp only [Bool.and_eq_true, decide_eq_true_eq] at hp
  obtain ⟨⟨⟨⟨⟨hst, hphase⟩, hseal⟩, _⟩, _⟩, _⟩ := hp
  have hid : k'.id = i := by simpa using List.find?_some hi
  exact ⟨List.mem_of_find?_eq_some hfind, hst, hphase, hseal, hid ▸ hi⟩

/-- A sealed frame, with the tag and the chain value in its record (R501, R502). -/
def FrameSt.sealedIn (f : FrameSt) (t : Take) : FrameSt :=
  { f with sealed := true, record := patchBytes (patchBytes f.record 4032 (f.sealTag t)) 4048 (f.sealChain t) }

/-- The record of a sealed frame is written to its slot. -/
def State.sealRecord (s : State) (f : FrameSt) (t : Take) : State :=
  let s := s.setFrame f.id (fun x => { x with sealed := true, record := (f.sealedIn t).record })
  match f.slot with
  | some i => s.slotBytes i true false
  | none => s

theorem State.sealRecord_facts (s : State) (f : FrameSt) (t : Take) (hf : s.frame? f.id = some f) :
    (s.sealRecord f t).frame? f.id = some (f.sealedIn t) ∧ (s.sealRecord f t).takes = s.takes
      ∧ (s.sealRecord f t).store.recovery = s.store.recovery ∧ (s.sealRecord f t).store.queued = s.store.queued := by
  have hframe :=
    s.setFrame_frame_self f.id f (fun x => { x with sealed := true, record := (f.sealedIn t).record }) (fun _ => rfl) hf
  unfold State.sealRecord
  dsimp only
  generalize hv : s.setFrame f.id _ = v at hframe ⊢
  have hvs : v.takes = s.takes ∧ v.store.recovery = s.store.recovery ∧ v.store.queued = s.store.queued := by
    rw [← hv]
    exact ⟨rfl, rfl, rfl⟩
  cases f.slot with
  | none => exact ⟨hframe, hvs⟩
  | some i =>
    obtain ⟨hstore, htakes⟩ := v.slotBytes_cur i true false
    dsimp only
    rw [htakes, hstore]
    exact ⟨(State.frame?_store hstore _).trans hframe, hvs⟩

theorem State.sealFrame_eq (s : State) (f : FrameSt) (t : Take) : s.sealFrame f t =
    ((((s.sealRecord f t).setTake t.id (fun x => { x with chains := x.chains.put [] f.stream (f.sealChain t) })).releaseIf f.id 1).pendAll
      f.id).eraseKey t := rfl

/-- A seal: the record has its tag and chain value, the seal holder is gone and the stream's chain goes on (R501, R502). -/
theorem State.sealFrame_facts (s : State) {f : FrameSt} {k : Take} (hf : s.frame? f.id = some f) (hphase : f.phase = .closed)
    (hseal : f.hold.sealing = true) (hk : s.take? k.id = some k) (hrec : s.store.recovery = none) (hq : s.store.queued = []) :
    (∃ g, (s.sealFrame f k).frame? f.id = some g ∧ g.sealed = true ∧ g.hold.sealing = false ∧ g.phase = .closed
        ∧ g.record = patchBytes (patchBytes f.record 4032 (f.sealTag k)) 4048 (f.sealChain k))
      ∧ ∃ k', (s.sealFrame f k).take? k.id = some k' ∧ k'.chains.get [] f.stream = f.sealChain k := by
  rw [State.sealFrame_eq]
  obtain ⟨hframe, htakes, hrec', hq'⟩ := s.sealRecord_facts f k hf
  have htake : (s.sealRecord f k).take? k.id = some k := by
    unfold State.take? at hk ⊢
    rw [htakes]
    exact hk
  have htake' := State.take?_setTake _ k.id k (fun x => { x with chains := x.chains.put [] f.stream (f.sealChain k) }) (fun _ => rfl) htake
  generalize hv : State.setTake _ k.id _ = v at htake' ⊢
  have hstore : v.store = (s.sealRecord f k).store := by
    rw [← hv]
    rfl
  obtain ⟨a, hrel⟩ := v.releaseIf_frame f.id 1 (f.sealedIn k) ((State.frame?_store hstore _).trans hframe)
    (by unfold FrameSt.live FrameSt.sealedIn; rw [hphase]; decide) hseal (by rw [hstore, hrec', hrec]) (by rw [hstore, hq', hq])
  have hhold := (v.releaseIf_holdOnly f.id 1).trans (State.pendAll_holdOnly _ f.id)
  have hpend := ((v.releaseIf f.id 1).pendAll_frame f.id).trans hrel
  generalize (v.releaseIf f.id 1).pendAll f.id = w at hhold hpend ⊢
  have hwtake : w.take? k.id = v.take? k.id := by
    unfold State.take?
    rw [hhold.takes]
  obtain ⟨k', hk', hchains⟩ := w.eraseKey_chains k _ (hwtake.trans htake')
  refine ⟨⟨_, (State.frame?_store ((w.eraseKey_keeps k).same .store rfl) _).trans hpend, rfl, rfl, hphase, rfl⟩, k', hk', ?_⟩
  rw [hchains]
  exact Tab.get_put_self ([] : List Byte) k.chains f.stream (f.sealChain k)

theorem State.frameSeal_next (s : State) {st : Nat} {f : FrameSt} {k : Take} (hm : s.dev.mode = .operational)
    (h : s.sealable st = some (f, k)) : s.frameSeal st = s.sealFrame f k := by
  unfold State.frameSeal
  rw [if_pos hm, h]

/-! ### The return of pages and record slots -/

theorem State.freeTime_iff (s : State) (f : FrameSt) : s.freeTime f = true ↔ ∃ n, f.freeAt = some n ∧ n ≤ s.time.tickNum := by
  unfold State.freeTime
  cases f.freeAt <;> simp

/-- The record slots of frames without holders whose tick has come are back (R252). -/
def State.slotsFreed (s : State) : State :=
  (s.store.frames.filter (fun f => decide (f.hold.tally = 0) && f.slot.isSome && s.freeTime f)).foldl (fun s f => s.returnSlot f) s

theorem State.slotsFreed_keeps (s : State) : Keeps 256 s s.slotsFreed :=
  Keeps.foldl (fun u f hu => (u.returnSlot_keeps f).after rfl hu) (Keeps.refl _ _)

theorem State.pagesFree_eq (s : State) (h : s.store.recovery = none) : s.pagesFree =
    (s.slotsFreed.store.frames.filter (fun f => s.slotsFreed.freeTime f && decide (f.readers = 0) && !s.slotsFreed.driveReads f.id)).foldl
      (fun (s : State) f => s.returnPages f) s.slotsFreed := by
  unfold State.pagesFree
  rw [if_neg (by rw [h]; decide)]
  rfl

/-- A frame without holders whose tick has come and that nothing reads is gone (R252). -/
theorem State.pagesFree_gone (s : State) (hrec : s.store.recovery = none) {f : FrameSt} (hf : f ∈ s.store.frames)
    (htime : s.freeTime f = true) (h0 : f.hold.tally = 0) (hr : f.readers = 0) (hd : s.driveReads f.id = false) :
    s.pagesFree.frame? f.id = none := by
  obtain ⟨hkept, _, _⟩ := s.returnSlots_frames
    (s.store.frames.filter (fun f => decide (f.hold.tally = 0) && f.slot.isSome && s.freeTime f))
  obtain ⟨g, hg, hid, hhold, hat, hreaders⟩ := hkept f hf
  have hk := s.slotsFreed_keeps
  have hfree : s.slotsFreed.freeTime g = true := by
    unfold State.freeTime at htime ⊢
    rw [hat, (hk.same .time rfl : s.slotsFreed.time = s.time)]
    exact htime
  have hdrive : s.slotsFreed.driveReads g.id = false := by
    unfold State.driveReads at hd ⊢
    rw [hid, (hk.same .mag rfl : s.slotsFreed.mag = s.mag)]
    exact hd
  obtain ⟨_, hgone⟩ := s.slotsFreed.returnPages_frees
    (s.slotsFreed.store.frames.filter (fun f => s.slotsFreed.freeTime f && decide (f.readers = 0) && !s.slotsFreed.driveReads f.id))
  rw [s.pagesFree_eq hrec, ← hid]
  exact hgone g (List.mem_filter.mpr ⟨hg, by rw [hfree, hreaders, hr, hdrive]; rfl⟩) (by rw [hhold]; exact h0)

/-- The record slot of a frame without holders whose tick has come is back (R252). -/
theorem State.pagesFree_slot (s : State) (hrec : s.store.recovery = none) {f : FrameSt} {i : Nat} (hf : f ∈ s.store.frames)
    (htime : s.freeTime f = true) (h0 : f.hold.tally = 0) (hi : f.slot = some i) : i ∈ s.pagesFree.store.slotBack := by
  obtain ⟨_, _, hback⟩ := s.returnSlots_frames
    (s.store.frames.filter (fun f => decide (f.hold.tally = 0) && f.slot.isSome && s.freeTime f))
  obtain ⟨hfrees, _⟩ := s.slotsFreed.returnPages_frees
    (s.slotsFreed.store.frames.filter (fun f => s.slotsFreed.freeTime f && decide (f.readers = 0) && !s.slotsFreed.driveReads f.id))
  rw [s.pagesFree_eq hrec]
  exact hfrees.slots i (hback f (List.mem_filter.mpr ⟨hf, by rw [h0, hi, htime]; rfl⟩) i hi)

/-! ### Cache refills -/

/-- The first page that the allocator gives comes first behind the cache (R238). -/
theorem State.refillN_first (s : State) (st n : Nat) {p : Nat} {u : State} (h : s.allocPage = some (p, u)) :
    ∃ rest, ((s.refillN st (n + 1)).stream st).cache = (s.stream st).cache ++ p :: rest := by
  unfold State.refillN
  rw [h]
  obtain ⟨rest, hrest⟩ := (u.setStream st (fun q => { q with cache := q.cache ++ [p] })).watermarks.refillN_cache n st
  refine ⟨rest, hrest.trans ?_⟩
  rw [State.watermarks_streams, State.stream_setStream, if_pos rfl, State.allocPage_streams h, List.append_assoc]
  rfl

/-- A cache of at most 16 pages of an enabled stream takes pages up to 32 (R238). -/
theorem State.refill_low (s : State) {st : Nat} (hon : s.streamOn st = true) (hlow : (s.stream st).cache.length ≤ 16)
    (hgo : (s.stream st).stopping = false) : s.refill st = s.refillN st (32 - (s.stream st).cache.length) := by
  unfold State.refill
  dsimp only
  rw [hon, hgo, decide_eq_true hlow]
  rfl

/-- Settles O49: the close, the digest of a page, the seal, the return of pages and the refill, each by what it leaves. That
a page is digested when the jobs cover it whole is log entry 67. -/
theorem framesCloseSealAndFree : Obligations.FramesCloseSealAndFree := by
  refine ⟨?close, ?digest, ?sealed, ?free, ?refill⟩
  case close =>
    intro s st f hs hc hu
    obtain ⟨hf, rfl⟩ := State.closable_frame hc
    refine ⟨_, (State.go_run _ _ hs : execFrameClose f.stream s = _), ?_⟩
    unfold State.frameClose
    rw [hc]
    exact s.closeFrame_facts hf hu
  case digest =>
    intro s e i f hs he hm hp hf hjobs
    refine ⟨_, (State.go_run _ _ hs : execPageDigest e s = _), ?_⟩
    rw [s.pageDigest_owed he hm hp hjobs]
    exact s.digestPage_facts e i hf
  case sealed =>
    intro s st f k hs hm hnext hu hrec hq
    obtain ⟨hf, rfl, hphase, hseal, hk⟩ := State.sealable_frame hnext
    refine ⟨_, (State.go_run _ _ hs : execFrameSeal f.stream s = _), ?_⟩
    rw [s.frameSeal_next hm hnext]
    exact s.sealFrame_facts (State.frame?_mem hf hu) hphase hseal hk hrec hq
  case free =>
    intro s hs hrec
    refine ⟨_, (State.go_run _ _ hs : execPagesFree s = _), fun f hf n hat hn h0 hr hd => ?_, fun f hf n i hat hn h0 hi => ?_⟩
    · exact s.pagesFree_gone hrec hf ((s.freeTime_iff f).mpr ⟨n, hat, hn⟩) h0 hr hd
    · exact s.pagesFree_slot hrec hf ((s.freeTime_iff f).mpr ⟨n, hat, hn⟩) h0 hi
  case refill =>
    intro s u st p hs hon hlow hgo halloc
    refine ⟨_, (State.go_run _ _ hs : execPageCacheRefill st s = _), ?_⟩
    rw [State.backlogStart_streams, s.refill_low hon hlow hgo,
      show 32 - (s.stream st).cache.length = 31 - (s.stream st).cache.length + 1 by omega]
    exact s.refillN_first st _ halloc

end Sys2Proof.Machine

/-! SUPPORT. What no step breaks: the canonical form of both memories, and the growth of outputs, free values and the SVN floor. -/

namespace Sys2Proof.Machine

/-- The clock that passes with no command waiting changes the time record alone. -/
theorem State.idleClock_grows (s : State) : Grows s s.idleClock := by
  unfold State.idleClock
  split
  · exact ⟨List.suffix_rfl, Nat.le_refl _, Nat.le_refl _, id, id⟩
  · exact Grows.refl s

/-- A step is one idle clock, or the command at the front of the queue, whose law gives the rest. -/
theorem step_grows {s t : State} (e : step s = .next t) : Grows s t := by
  unfold step at e
  split at e
  next =>
    injection e with e
    exact e ▸ s.idleClock_grows
  next c rest _ =>
    obtain ⟨hout, hfree, hsvn, hhbm, hheap⟩ := (exec_keeps e).grows
    exact ⟨hout, hfree, hsvn, hhbm, hheap⟩

/-- Settles O6: what a step writes into the frame store or the heap keeps the canonical form. -/
theorem memoryStaysCanonical : Obligations.MemoryStaysCanonical :=
  fun _ _ ⟨hhbm, hheap⟩ e => ⟨(step_grows e).hbm hhbm, (step_grows e).heap hheap⟩

end Sys2Proof.Machine

/-! SUPPORT. Spill windows: the start, the end and the failure of a page-out, and the page-in of a frame whose window a commit took
away (R264, R265, R267, R268). -/

namespace Sys2Proof.Machine

theorem State.spw_of {s t : State} (h : t.store.spws = s.store.spws) (w : Nat) : t.spw w = s.spw w := by
  unfold State.spw
  rw [h]

/-! ### A page-out starts -/

/-- A frame takes the lowest free pages of its window, and its bytes wait to be written. -/
def State.pageOut (s : State) (f : FrameSt) (w : Nat) : State :=
  let n := framePages f.latch f.stream
  let ps := s.spwFree w (n + 1)
  let u := (s.setSpw w (fun q => { q with used := sortNat (q.used ++ ps) })).setFrame f.id (fun g => { g with loc := .pagingOut w ps })
  { u with mover := { u.mover with spills := u.mover.spills ++ [{ id := f.id, window := w, left := 65536 * n + 20480 }] } }

/-- With SPILL_EN set the frame asked for next starts its page-out, and asks for jobs (R264, R265). -/
theorem State.spillPageOut_next (s : State) {f : FrameSt} {w : Nat} (hon : bit (s.act Reg.STORE_CTRL) 1 = true)
    (hrec : s.store.recovery = none) (hnext : s.spillNext = some (f, w)) : Keeps 64 (s.pageOut f w) s.spillPageOut := by
  unfold State.spillPageOut
  rw [hon, hrec, if_neg (by decide), hnext]
  exact Keeps.foldl (fun x _ h => Keeps.after (x.addWork_keeps _ _ _ _) rfl h) (Keeps.refl 64 (s.pageOut f w))

theorem State.pageOut_facts (s : State) {f : FrameSt} (w : Nat) (hf : s.frame? f.id = some f) :
    (s.pageOut f w).frame? f.id = some { f with loc := .pagingOut w (s.spwFree w (framePages f.latch f.stream + 1)) }
      ∧ ((s.pageOut f w).spw w).used = sortNat ((s.spw w).used ++ s.spwFree w (framePages f.latch f.stream + 1)) :=
  ⟨(s.setSpw w _).setFrame_frame_self f.id f (fun g => { g with loc := .pagingOut w (s.spwFree w (framePages f.latch f.stream + 1)) })
    (fun _ => rfl) hf, congrArg SpwSt.used (s.spw_setSpw w (fun q => { q with
      used := sortNat (q.used ++ s.spwFree w (framePages f.latch f.stream + 1)) }))⟩

/-! ### A page-out ends -/

/-- The closing read of a window's page-out has come: the frame is spilled, and its pages are due (R265). -/
theorem State.spillOutDone_reading (s : State) {w v : Nat} {ps : List Nat} {x : SpillOp} {f : FrameSt}
    (hx : s.mover.spills.find? (fun x => decide (x.window = w) && x.reading) = some x) (hf : s.frame? x.id = some f)
    (hloc : f.loc = .pagingOut v ps) : s.spillOutDone w = ((s.dropSpill x.id).count Reg.STORE_SPILL_OUT_CNT).setFrame x.id
      (fun g => { g.spillFlag true with loc := .spilled v ps, freeAt := some (s.time.tickNum + 1) }) := by
  unfold State.spillOutDone
  rw [hx]
  dsimp only
  rw [show (s.dropSpill x.id).frame? x.id = some f from hf]
  dsimp only
  rw [hloc]
  rfl

/-- A page-out that failed: the frame is resident again, and its window, which has its pages back, is FAILED (R268). -/
def State.pageOutFailed (s : State) (w id : Nat) (ps : List Nat) : State :=
  ((s.dropSpill id).setFrame id (fun g => { g with loc := .resident })).setSpw w (fun q => { q with
    failed := true, used := q.used.filter (fun p => !ps.contains p) })

theorem State.spillFail_pagingOut (s : State) {w v : Nat} {ps : List Nat} {x : SpillOp} {f : FrameSt}
    (hx : s.mover.spills.find? (fun x => decide (x.window = w)) = some x) (hf : s.frame? x.id = some f)
    (hloc : f.loc = .pagingOut v ps) :
    s.spillFail w = ((s.pageOutFailed w x.id ps).storeEvt [5]).count Reg.STORE_SPILL_FAIL_CNT := by
  unfold State.spillFail
  rw [hx]
  dsimp only
  rw [show (s.dropSpill x.id).frame? x.id = some f from hf, Option.map_some, hloc]
  rfl

/-- A count of the frame store that follows one of its events. -/
theorem State.storeEvt_count_facts (s : State) (b : Nat) {r : RegRow} (hb : b < 32) (hw : r.win = 8) (ha : r.addr 0 ≠ Reg.STORE_EVENTS.addr) :
    bit (((s.storeEvt [b]).count r).reg Reg.STORE_EVENTS) b = true
      ∧ (((s.storeEvt [b]).count r).reg r).toNat = min 0xFFFFFFFF ((s.reg r).toNat + 1) := by
  have hlt : r.win < 16 := by omega
  constructor
  · rw [show ((s.storeEvt [b]).count r).reg Reg.STORE_EVENTS = (s.storeEvt [b]).reg Reg.STORE_EVENTS from
      State.reg_setReg_ne _ _ _ _ _ _ _ _ hlt (Or.inr ha.symm)]
    exact s.storeEvt_bit b hb
  · rw [State.count_toNat _ _ _ hlt, s.storeEvt_reg [b] r 0 hw ha]

/-! ### A frame is paged in -/

/-- The reads of a frame's window pages by a mover. -/
def State.readWindow (s : State) (m w : Nat) (ps : List Nat) : State :=
  ps.foldl (fun s q => ((s.moverReads m (s.spwAt w) (s.spwBase w + 65536 * q) 65536).emit
    (.hostRead (s.spwAt w) (s.spwBase w + 65536 * q) 65536)).hostReadCount (s.spwAt w) 65536) (s.spillMover m w (65536 * ps.length))

theorem State.readWindow_rest (s : State) (m w : Nat) (ps : List Nat) :
    (s.readWindow m w ps).store = s.store ∧ WinSame 8 s (s.readWindow m w ps) :=
  s.pageInReads_rest m w _ (fun s => s.spwAt w) (fun s q => s.spwBase w + 65536 * q) ps

/-- A frame that has been paged in, on the pages it got. -/
def FrameSt.pagedIn (f : FrameSt) (n : Nat) (got : List Nat) : FrameSt :=
  { f.spillFlag false with
    pages := (List.range n).foldl (fun t i => Tab.put 0 t i (got.getD i 0 + 1)) [], loc := .resident, pagesOut := false }

/-- A frame is paged in from a window of which it frees its pages (R267). -/
def State.pageIn (s : State) (w : Nat) (f : FrameSt) (ps got : List Nat) (bytes : List Byte) : State :=
  ((((s.readWindow s.spareMover w ps).setFrame f.id (fun g => g.pagedIn (framePages f.latch f.stream) got)).putPayload f.id 0 bytes).setSpw
    w (fun q => { q with used := q.used.filter (fun p => !ps.contains p) })).count Reg.STORE_SPILL_IN_CNT

theorem State.spillPageIn_next (s : State) {u : State} {w : Nat} {ps got : List Nat} (data : List Byte) {f : FrameSt}
    (hold : (s.spw w).old.isSome = true) (hnext : (s.spilledIn w).head? = some f) (hloc : f.loc = .spilled w ps)
    (htake : s.takePages (framePages f.latch f.stream) [] = some (got, u)) :
    s.spillPageIn w data = (u.pageIn w f ps got (sliceBytes data 0 (frameBytes f.latch f.stream))).windowDone w := by
  unfold State.spillPageIn State.pageIn
  rw [if_neg (by rw [← Option.not_isSome, hold]; decide), hnext]
  dsimp only
  rw [htake, hloc]
  rfl

/-- No page count of a pseudo-channel stands at STORE_SPILL_IN_CNT. -/
theorem spillInCnt_ne_pcBytes (c : Nat) :
    Reg.STORE_SPILL_IN_CNT.addr 0 ≠ Reg.PC_BYTES_LO.addr c ∧ Reg.STORE_SPILL_IN_CNT.addr 0 ≠ Reg.PC_BYTES_HI.addr c := by
  simp only [RegRow.addr, Reg.STORE_SPILL_IN_CNT, Reg.PC_BYTES_LO, Reg.PC_BYTES_HI]
  omega

theorem State.pageIn_facts (s : State) (w : Nat) {f : FrameSt} (ps got : List Nat) (bytes : List Byte) (hf : s.frame? f.id = some f) :
    (s.pageIn w f ps got bytes).frame? f.id = some (f.pagedIn (framePages f.latch f.stream) got)
      ∧ ((s.pageIn w f ps got bytes).spw w).used = (s.spw w).used.filter (fun p => !ps.contains p)
      ∧ ((s.pageIn w f ps got bytes).reg Reg.STORE_SPILL_IN_CNT).toNat = min 0xFFFFFFFF ((s.reg Reg.STORE_SPILL_IN_CNT).toNat + 1) := by
  obtain ⟨hread, hwin⟩ := s.readWindow_rest s.spareMover w ps
  unfold State.pageIn
  generalize s.readWindow s.spareMover w ps = v at hread hwin ⊢
  have hset := v.setFrame_frame_self f.id f (fun g => g.pagedIn (framePages f.latch f.stream) got) (fun _ => rfl)
    ((State.frame?_store hread f.id).trans hf)
  have hspw : (v.setFrame f.id (fun g => g.pagedIn (framePages f.latch f.stream) got)).spw w = s.spw w :=
    State.spw_of (congrArg StoreState.spws hread) w
  have hreg : (v.setFrame f.id (fun g => g.pagedIn (framePages f.latch f.stream) got)).reg Reg.STORE_SPILL_IN_CNT
      = s.reg Reg.STORE_SPILL_IN_CNT := hwin Reg.STORE_SPILL_IN_CNT 0 0 rfl
  generalize v.setFrame f.id _ = x at hset hspw hreg ⊢
  have hput : (x.putPayload f.id 0 bytes).store = x.store := (x.putPayload_keeps f.id 0 bytes).same .store rfl
  have hputReg := x.putPayload_reg f.id 0 bytes Reg.STORE_SPILL_IN_CNT spillInCnt_ne_pcBytes
  generalize x.putPayload f.id 0 bytes = y at hput hputReg ⊢
  refine ⟨(State.frame?_store hput f.id).trans hset, ?_, ?_⟩
  · rw [← hspw, ← State.spw_of (congrArg StoreState.spws hput) w]
    exact congrArg SpwSt.used (y.spw_setSpw w _)
  · rw [← hreg, ← hputReg]
    exact State.count_toNat _ _ _ (by decide)

/-- Settles O50: each of the four by what it comes to. That no job limits a page-in, which also clears SPILLED, is log entries 90
and 139. -/
theorem spillWindows : Obligations.SpillWindows := by
  refine ⟨?start, ?done, ?fail, ?pageIn⟩
  case start =>
    intro s f w hs hon hrec hnext hf
    obtain ⟨hframe, hused⟩ := s.pageOut_facts w hf
    have hkeep := s.spillPageOut_next hon hrec hnext
    have hstore : s.spillPageOut.store = (s.pageOut f w).store := hkeep.same .store rfl
    refine ⟨_, (State.go_run _ _ hs : execSpillPageOut s = _), (State.frame?_store hstore f.id).trans hframe, ?_,
      congrArg MoverState.spills (hkeep.same .mover rfl)⟩
    rw [State.spw_of (congrArg StoreState.spws hstore) w, hused]
  case done =>
    intro s w v ps x f hs hx hf hloc
    refine ⟨_, (State.go_run _ _ hs : execSpillPageOutDone w s = _), ?_⟩
    rw [s.spillOutDone_reading hx hf hloc]
    exact ⟨⟨_, ((s.dropSpill x.id).count Reg.STORE_SPILL_OUT_CNT).setFrame_frame_self x.id f
      (fun g => { g.spillFlag true with loc := .spilled v ps, freeAt := some (s.time.tickNum + 1) }) (fun _ => rfl) hf, rfl, rfl, rfl⟩,
      rfl, (s.dropSpill x.id).count_toNat _ 0 (by decide)⟩
  case fail =>
    intro s w v ps x f hs hx hf hloc
    refine ⟨_, (State.go_run _ _ hs : execSpillFail w s = _), ?_⟩
    rw [s.spillFail_pagingOut hx hf hloc]
    obtain ⟨hevt, hcnt⟩ := (s.pageOutFailed w x.id ps).storeEvt_count_facts 5 (r := Reg.STORE_SPILL_FAIL_CNT) (by decide) rfl (by decide)
    have hkeep := (s.pageOutFailed w x.id ps).storeEvt_keeps [5]
    have hstore : ((s.pageOutFailed w x.id ps).storeEvt [5]).store = (s.pageOutFailed w x.id ps).store := hkeep.same .store rfl
    have hspw := State.spw_of (congrArg StoreState.spws hstore) w
    have hset := ((s.dropSpill x.id).setFrame x.id (fun g => { g with loc := .resident })).spw_setSpw w (fun q => { q with
      failed := true, used := q.used.filter (fun p => !ps.contains p) })
    exact ⟨(State.frame?_store hstore x.id).trans ((s.dropSpill x.id).setFrame_frame_self x.id f _ (fun _ => rfl) hf),
      congrArg SpwSt.failed (hspw.trans hset), congrArg SpwSt.used (hspw.trans hset), congrArg MoverState.spills (hkeep.same .mover rfl),
      hevt, hcnt⟩
  case pageIn =>
    intro s u w ps got data f hs hold hnext hf hloc htake
    refine ⟨_, (State.go_run _ _ hs : execSpillPageIn w data s = _), ?_⟩
    rw [s.spillPageIn_next data hold hnext hloc htake]
    obtain ⟨hframes, hspws, hreg⟩ := State.takePages_frames _ s u _ _ htake
    obtain ⟨hframe, hused, hcnt⟩ := u.pageIn_facts w ps got (sliceBytes data 0 (frameBytes f.latch f.stream))
      ((State.frame?_frames hframes f.id).trans hf)
    generalize u.pageIn w f ps got _ = v at hframe hused hcnt ⊢
    obtain ⟨hframesDone, husedDone, hregDone⟩ := v.windowDone_rest w
    obtain ⟨hframesStart, hspwsStart, hwinStart⟩ := (v.windowDone w).backlogStart_rest
    refine ⟨⟨_, (State.frame?_frames (hframesStart.trans hframesDone) f.id).trans hframe, rfl, rfl, rfl⟩, ?_, ?_⟩
    · rw [State.spw_of hspwsStart w, husedDone, hused, State.spw_of hspws w]
    · rw [hwinStart _ _ _ rfl, hregDone _ rfl (by decide), hcnt, hreg _ _ rfl (by decide)]

end Sys2Proof.Machine

/-! SUPPORT. Delivery descriptors that are taken, the completion of a delivery, failed reads of a mover and completion time-outs (R384,
R424, R428, R431, R439, R442, R445). -/

namespace Sys2Proof.Machine

/-! ### The completion of a delivery -/

/-- A delivery whose last write has been issued is bound to its frame. -/
theorem State.delivered_frame {s : State} {n : Nat} {x : Dlv} {f : FrameSt} (h : s.delivered n = some (x, f)) :
    x.frame = some f.id ∧ s.frame? f.id = some f := by
  obtain ⟨y, _, hy⟩ := List.exists_of_findSome?_eq_some h
  split at hy
  · obtain ⟨g, hg, he⟩ := Option.map_eq_some_iff.mp hy
    obtain ⟨id, hid, hframe⟩ := Option.bind_eq_some_iff.mp hg
    cases he
    cases State.frame?_id hframe
    exact ⟨hid, hframe⟩
  · cases hy

/-- The status of a delivery that port's rights check did not touch (R429). -/
def Dlv.endStatus (x : Dlv) (f : FrameSt) : Nat :=
  if x.sec then stSecurity else if f.bad then stIntegrity else if x.pvLost then stPartial else stDone

/-- A subscription counts its deliveries of status DONE or PARTIAL. -/
def State.countDelivered (s : State) (status k : Nat) : State :=
  if status = stDone ∨ status = stPartial then s.count Reg.SUB_DELIVERED_CNT k else s

theorem State.delivery_unsignalled (s : State) {n : Nat} {x : Dlv} {f : FrameSt} (hx : s.delivered n = some (x, f)) (hsig : x.signal = 0) :
    ∃ parts flags bytes, s.delivery n none =
      ((s.endDelivery x (x.endStatus f) parts flags bytes).countDelivered (x.endStatus f) x.sub).releaseIf f.id (16 + x.sub) := by
  have hplain : decide (x.signal ≠ 0) = false := decide_eq_false (not_not_intro hsig)
  unfold State.delivery
  rw [hx]
  dsimp only
  rw [hplain]
  simp only [Bool.false_and, Bool.or_false, Option.isSome_none, Bool.false_eq_true, if_false, Bool.not_false, if_true]
  exact ⟨_, _, _, rfl⟩

theorem Dlv.endStatus_counts (x : Dlv) (f : FrameSt) :
    x.endStatus f = stDone ∨ x.endStatus f = stPartial ↔ x.sec = false ∧ f.bad = false := by
  unfold Dlv.endStatus
  cases x.sec <;> cases f.bad <;> cases x.pvLost <;> decide

theorem State.countDelivered_store (s : State) (status k : Nat) : (s.countDelivered status k).store = s.store
    ∧ (s.countDelivered status k).mover = s.mover ∧ (s.countDelivered status k).rings = s.rings := by
  unfold State.countDelivered
  split <;> exact ⟨rfl, rfl, rfl⟩

theorem State.countDelivered_reg (s : State) (x : Dlv) (f : FrameSt) :
    (x.sec = false → f.bad = false → ((s.countDelivered (x.endStatus f) x.sub).reg Reg.SUB_DELIVERED_CNT x.sub).toNat
        = min 0xFFFFFFFF ((s.reg Reg.SUB_DELIVERED_CNT x.sub).toNat + 1))
      ∧ (x.sec = true ∨ f.bad = true →
        (s.countDelivered (x.endStatus f) x.sub).reg Reg.SUB_DELIVERED_CNT x.sub = s.reg Reg.SUB_DELIVERED_CNT x.sub) := by
  unfold State.countDelivered
  refine ⟨fun hsec hbad => ?_, fun hlost => ?_⟩
  · rw [if_pos ((x.endStatus_counts f).mpr ⟨hsec, hbad⟩), State.count_toNat _ _ _ (by decide)]
  · rw [if_neg]
    intro hcounts
    obtain ⟨hsec, hbad⟩ := (x.endStatus_counts f).mp hcounts
    simp [hsec, hbad] at hlost

/-- A delivery leaves the list, its ring owes one less, its subscription counts it by its status, and its frame is released (R428). -/
theorem State.delivery_facts (s : State) {n : Nat} {x : Dlv} {f : FrameSt} (hx : s.delivered n = some (x, f)) (hsig : x.signal = 0)
    (hgen : x.ticket.gen = (s.ring x.ticket.ring).gen) (hrec : s.store.recovery = none) (hqueue : s.store.queued = [])
    (hlive : f.live = true) (hheld : f.hold.has (16 + x.sub) = true) :
    (s.delivery n none).mover.dlv = s.mover.dlv.filter (fun y => !(decide (y.ring = x.ring) && decide (y.descNo = x.descNo)))
      ∧ ((s.delivery n none).ring x.ticket.ring).outstanding = (s.ring x.ticket.ring).outstanding - 1
      ∧ (x.sec = false → f.bad = false → ((s.delivery n none).reg Reg.SUB_DELIVERED_CNT x.sub).toNat
          = min 0xFFFFFFFF ((s.reg Reg.SUB_DELIVERED_CNT x.sub).toNat + 1))
      ∧ (x.sec = true ∨ f.bad = true →
          (s.delivery n none).reg Reg.SUB_DELIVERED_CNT x.sub = s.reg Reg.SUB_DELIVERED_CNT x.sub)
      ∧ ∃ g, (s.delivery n none).frame? f.id = some g ∧ g.hold = f.hold.drop (16 + x.sub) ∧ g.readers = f.readers - 1
          ∧ g.phase = f.phase := by
  obtain ⟨hid, hframe⟩ := State.delivered_frame hx
  obtain ⟨parts, flags, bytes, heq⟩ := s.delivery_unsignalled hx hsig
  obtain ⟨hdlv, howes, hwin, hread, hrec', hqueue'⟩ := s.endDelivery_facts x (x.endStatus f) parts flags bytes
  rw [heq]
  generalize s.endDelivery x (x.endStatus f) parts flags bytes = u at hdlv howes hwin hread hrec' hqueue' ⊢
  have hcnt : u.reg Reg.SUB_DELIVERED_CNT x.sub = s.reg Reg.SUB_DELIVERED_CNT x.sub := hwin 10 (by decide) _ _ _ rfl
  obtain ⟨hstore, hmover, hrings⟩ := u.countDelivered_store (x.endStatus f) x.sub
  obtain ⟨hcounts, hkeeps⟩ := u.countDelivered_reg x f
  generalize u.countDelivered (x.endStatus f) x.sub = v at hstore hmover hrings hcounts hkeeps ⊢
  have hmask := v.releaseIf_keeps f.id (16 + x.sub)
  have hreg : (v.releaseIf f.id (16 + x.sub)).reg Reg.SUB_DELIVERED_CNT x.sub = v.reg Reg.SUB_DELIVERED_CNT x.sub :=
    v.releaseIf_win f.id (16 + x.sub) 10 (by decide) (by decide) _ _ _ rfl
  have hring := ((RingSame.of hrings).trans (hmask.ringSame rfl)).same x.ticket.ring
  obtain ⟨_, _, _, _, houtstanding, _⟩ := hring
  obtain ⟨a, hg⟩ := v.releaseIf_frame f.id (16 + x.sub) { f with readers := f.readers - 1 }
    ((State.frame?_store hstore f.id).trans (hread _ _ hid hframe)) hlive hheld (by rw [hstore, hrec', hrec])
    (by rw [hstore, hqueue', hqueue])
  refine ⟨?_, houtstanding.trans (howes hgen), ?_, ?_, _, hg, rfl, rfl, rfl⟩
  · rw [show (v.releaseIf f.id (16 + x.sub)).mover = v.mover from hmask.same .mover rfl, hmover, hdlv]
  · rw [hreg, ← hcnt]
    exact hcounts
  · rw [hreg, ← hcnt]
    exact hkeeps

/-! ### Failed reads of a mover -/

/-- A mover that reads for a transfer into an object fails: it halts and counts, and the transfer ends BUS_ERROR (R445). -/
theorem State.moverBusError_chan_facts (s : State) {m kind : Nat} (addr : Nat) (hk1 : 1 ≤ kind) (hk2 : kind ≤ 4)
    (hrun : (s.mover.movers.get ({} : MoverSt) m).run = 1) (hwork : (s.mover.movers.get ({} : MoverSt) m).work = 2)
    (hbusy : (s.chan (s.mover.movers.get ({} : MoverSt) m).id).busy = true)
    (hstarted : (s.chan (s.mover.movers.get ({} : MoverSt) m).id).started = true)
    (hto : (s.chan (s.mover.movers.get ({} : MoverSt) m).id).toHost = false) :
    ((s.moverBusError m kind addr).mover.movers.get ({} : MoverSt) m).run = 3
      ∧ ((s.moverBusError m kind addr).reg Reg.MV_ERR_CNT m).toNat = min 0xFFFFFFFF ((s.reg Reg.MV_ERR_CNT m).toNat + 1)
      ∧ ((s.moverBusError m kind addr).chan (s.mover.movers.get ({} : MoverSt) m).id).busy = false
      ∧ ((s.moverBusError m kind addr).chan (s.mover.movers.get ({} : MoverSt) m).id).status = stBusError
      ∧ bit ((s.moverBusError m kind addr).reg Reg.SVCCH_EVENTS (s.mover.movers.get ({} : MoverSt) m).id) 0 = true := by
  rw [s.moverBusError_chan m kind addr hk1 hk2 hrun hwork hbusy hstarted hto]
  generalize (s.mover.movers.get ({} : MoverSt) m).id = k
  obtain ⟨hhalt, _, _, hcur, _⟩ := s.haltMover_facts m
  obtain ⟨herr, hmover, _⟩ := (s.haltMover m).moverErr_facts m (s.chan k).port 1 k false kind addr
  generalize (s.haltMover m).moverErr m (s.chan k).port 1 k false kind addr = u at herr hmover ⊢
  obtain ⟨hchan, _, hevt, _⟩ := u.chanEnd_facts k stBusError
  obtain ⟨hregs, hmovers⟩ := u.chanEnd_rest k stBusError
  refine ⟨?_, ?_, by rw [hchan], by rw [hchan], hevt⟩
  · rw [hmovers, hmover]
    exact hhalt
  · rw [hregs Reg.MV_ERR_CNT m (by simp only [RegRow.addr, Reg.MV_ERR_CNT, Reg.SVCCH_STATUS]; omega)
      (by simp only [RegRow.addr, Reg.MV_ERR_CNT, Reg.SVCCH_EVENTS]; omega), herr, State.count_toNat _ _ _ (by decide), State.reg_cur hcur]

/-- The address registers of a ring's bus error are none that the posting of a record writes. -/
theorem quiet_ringErrAddr (n : Nat) : Quiet Reg.RING_ERR_ADDR_LO n 0 ∧ Quiet Reg.RING_ERR_ADDR_HI n 0 := by
  refine ⟨⟨(fun e => by cases e), fun _ i => ?_, (fun e => by cases e)⟩, ⟨(fun e => by cases e), fun _ i => ?_, (fun e => by cases e)⟩⟩
  · simp only [RegRow.addr, Reg.RING_ERR_ADDR_LO, Reg.RING_EVENTS, Reg.RING_EVT_LOST_CNT]
    omega
  · simp only [RegRow.addr, Reg.RING_ERR_ADDR_HI, Reg.RING_EVENTS, Reg.RING_EVT_LOST_CNT]
    omega

/-- An event bit leaves the other registers of its unit. -/
theorem State.reg_setEvt_unit (s : State) (q r : RegRow) (i b : Nat) (hr : r.win < 16) (hw : q.win = r.win) (hs : q.s1 = r.s1)
    (hb : q.base ≠ r.base) : (s.setEvt r i b).reg q i = s.reg q i :=
  State.reg_setReg_ne _ _ _ _ _ _ _ _ hr (Or.inr (RegRow.addr_ne i hw hs hb))

/-- A ring that a bus error pauses keeps the address (R406). -/
theorem State.ringBus_facts (s : State) (n : Nat) {addr : Nat} (ha : addr < 2 ^ 64) : ((s.ringBus n addr).ring n).state = .pausedBus
    ∧ (s.ringBus n addr).reg64 Reg.RING_ERR_ADDR_LO Reg.RING_ERR_ADDR_HI n = addr ∧ (s.ringBus n addr).mover = s.mover := by
  refine ⟨congrArg RingSt.state (s.ring_setRing_self n (fun q => { q with state := .pausedBus, role := none })), ?_,
    (s.ringBus_keeps n addr).same .mover rfl⟩
  unfold State.ringBus State.reg64
  rw [State.reg_setEvt_unit _ Reg.RING_ERR_ADDR_LO Reg.RING_EVENTS n 1 (by decide) rfl rfl (by decide),
    State.reg_setEvt_unit _ Reg.RING_ERR_ADDR_HI Reg.RING_EVENTS n 1 (by decide) rfl rfl (by decide)]
  exact State.reg64_set64 _ Reg.RING_ERR_ADDR_LO Reg.RING_ERR_ADDR_HI n addr (by decide) (by decide)
    (Or.inr (RegRow.addr_ne n rfl rfl (by decide))) ha

/-- A mover that reads a spilled frame fails: it halts, its descriptor halts, and its ring is paused with the address (R439). -/
theorem State.moverBusError_sub_facts (s : State) {m kind addr w : Nat} {ps : List Nat} {x : Dlv} {f : FrameSt} (hk1 : 1 ≤ kind)
    (hk2 : kind ≤ 4) (ha : addr < 2 ^ 64) (hrun : (s.mover.movers.get ({} : MoverSt) m).run = 1)
    (hwork : (s.mover.movers.get ({} : MoverSt) m).work = 1)
    (hfind : s.mover.dlv.find? (fun y => decide (y.ring = (s.mover.movers.get ({} : MoverSt) m).ring)
        && decide (y.descNo = (s.mover.movers.get ({} : MoverSt) m).descNo)) = some x)
    (hframe : x.frame.bind (fun id => s.frame? id) = some f) (hloc : f.loc = .spilled w ps) (hgoes : x.halted = false) :
    ((s.moverBusError m kind addr).mover.movers.get ({} : MoverSt) m).run = 3
      ∧ (s.moverBusError m kind addr).mover.dlv = s.mover.dlv.map (fun y => if y.same x then { y with halted := true } else y)
      ∧ ((s.moverBusError m kind addr).ring x.ring).state = .pausedBus
      ∧ (s.moverBusError m kind addr).reg64 Reg.RING_ERR_ADDR_LO Reg.RING_ERR_ADDR_HI x.ring = addr := by
  rw [s.moverBusError_sub m kind addr w ps x f hk1 hk2 hrun hwork hfind hframe hloc hgoes]
  obtain ⟨hhalt, hdlv, _, _, _⟩ := s.haltMover_facts m
  obtain ⟨_, hmover, _⟩ := (s.haltMover m).moverErr_facts m (s.spwAt w) 0 x.ring false kind addr
  generalize (s.haltMover m).moverErr m (s.spwAt w) 0 x.ring false kind addr = u at hmover ⊢
  obtain ⟨hpaused, haddr, hbus⟩ := (u.setDlv x (fun y => { y with halted := true })).ringBus_facts x.ring ha
  generalize (u.setDlv x (fun y => { y with halted := true })).ringBus x.ring addr = v at hpaused haddr hbus ⊢
  obtain ⟨hreg, _, hring, _⟩ := v.post_postSame 0 0x51 (target 0xA (v.ringPort x.ring)) [] 0
  obtain ⟨hlo, hhi⟩ := quiet_ringErrAddr x.ring
  have hkeeps : (v.post 0 0x51 (target 0xA (v.ringPort x.ring)) []).mover = v.mover := State.post_mover ..
  refine ⟨?_, ?_, (hring.same x.ring).1.trans hpaused, ?_⟩
  · rw [hkeeps, hbus]
    exact (congrArg (fun q : MoverState => (q.movers.get ({} : MoverSt) m).run) hmover).trans hhalt
  · rw [hkeeps, hbus]
    exact congrArg (List.map _) ((congrArg MoverState.dlv hmover).trans hdlv)
  · unfold State.reg64 at haddr ⊢
    rw [hreg _ _ _ hlo, hreg _ _ _ hhi, haddr]

/-! ### Completion time-outs -/

/-- A completion time-out of a port's read, before it acts as the failed read of a mover or a ring. -/
def State.timedOut (s : State) (p : Nat) : State := (s.count Reg.HP_CPL_TO_CNT p).hpEvt p 8

theorem State.cplTimeout_none (s : State) {p : Nat} (addr : Nat) (hp : p < 4) (ht : s.portTalks p = true) :
    s.cplTimeout p none none addr = s.timedOut p := by
  unfold State.cplTimeout State.timedOut
  exact if_neg (by simp [ht, hp])

theorem State.cplTimeout_mover (s : State) {p : Nat} (m : Nat) (ring : Option Nat) (addr : Nat) (hp : p < 4) (ht : s.portTalks p = true) :
    s.cplTimeout p (some m) ring addr = (s.timedOut p).moverBusError m 1 addr := by
  unfold State.cplTimeout State.timedOut
  exact if_neg (by simp [ht, hp])

theorem State.cplTimeout_ring (s : State) {p n : Nat} (addr : Nat) (hp : p < 4) (ht : s.portTalks p = true)
    (hn : (s.timedOut p).ringPort n = p) :
    s.cplTimeout p none (some n) addr = (s.timedOut p).ringBusError n addr none := by
  unfold State.cplTimeout
  exact (if_neg (by simp [ht, hp])).trans (if_pos hn)

theorem State.timedOut_svc (s : State) (p : Nat) : (s.timedOut p).svc = s.svc := (State.hpEvt_keeps ..).same .svc rfl

theorem State.timedOut_count (s : State) (p : Nat) :
    ((s.timedOut p).reg Reg.HP_CPL_TO_CNT p).toNat = min 0xFFFFFFFF ((s.reg Reg.HP_CPL_TO_CNT p).toNat + 1) := by
  have hquiet : Quiet Reg.HP_CPL_TO_CNT p 0 := ⟨fun _ i => by
    simp only [RegRow.addr, Reg.HP_CPL_TO_CNT, Reg.HP_EVENTS]
    omega, (fun e => by cases e), (fun e => by cases e)⟩
  unfold State.timedOut
  rw [(State.hpEvt_postSame ..).reg _ _ _ hquiet, State.count_toNat _ _ _ (by decide)]

/-- A completion time-out moves no ring to another port. -/
theorem State.timedOut_ringPort (s : State) (p n : Nat) : (s.timedOut p).ringPort n = s.ringPort n := by
  have hcfg : (s.timedOut p).cfg = s.cfg := (State.hpEvt_keeps ..).same .cfg rfl
  have hstatus : ∀ k, (s.timedOut p).reg Reg.HP_STATUS k = s.reg Reg.HP_STATUS k := fun k =>
    ((State.hpEvt_postSame ..).reg _ _ _ (quiet_hpStatus k)).trans (State.reg_setReg_ne _ _ _ _ _ _ _ _ (by decide)
      (Or.inr (by simp only [RegRow.addr, Reg.HP_STATUS, Reg.HP_CPL_TO_CNT]; omega)))
  unfold State.ringPort State.ringOwn State.bootOwn State.portExists State.act State.activeSet
  rw [hcfg, hstatus]

/-- Settles O46: descriptors and the completion of a delivery by what they leave, failed reads by the mover's work, and a time-out
by the failed read that it becomes. -/
theorem deliveriesAndMoverErrors : Obligations.DeliveriesAndMoverErrors := by
  refine ⟨?frame, ?gather, ?delivery, ?transfer, ?spilled, ?timeout⟩
  case frame =>
    intro s d hs htake hknown hst hon hring hstats hpv hrec hsig
    have hok : (decide (opAt d 16 8 % 64 = 0) && decide (opAt d 24 8 % 64 = 0) && decide (opAt d 32 8 % 64 = 0)
        && decide (opAt d 48 8 % 8 = 0)) = true := by simp [hstats, hpv, hrec, hsig]
    refine ⟨_, (State.go_run _ _ hs : execDlvFrame d s = _), ?_⟩
    rw [s.takeDlv_ok d 0x80 _ _ _ htake hknown hst hon hring hok]
    exact ⟨State.owed_of s _ d (RingSame.of rfl), rfl, _, rfl, rfl, rfl, rfl, rfl, rfl, rfl, rfl, rfl, rfl, rfl, rfl, rfl, rfl, rfl⟩
  case gather =>
    intro s d hs htake hknown hst hon hring hstats hrec hsig hmin hmax hpay
    have hok : (decide (opAt d 32 8 % 64 = 0) && decide (opAt d 40 8 % 64 = 0) && decide (opAt d 48 8 % 8 = 0)
        && decide (1 ≤ opAt d 28 4) && decide (opAt d 28 4 ≤ 1048576) && (s.subParts (tIndex d)).testBit 0) = true := by
      simp [hstats, hrec, hsig, hmin, hmax, hpay]
    refine ⟨_, (State.go_run _ _ hs : execDlvGather d s = _), ?_⟩
    rw [s.takeDlv_ok d 0x81 _ _ _ htake hknown hst hon hring hok]
    exact ⟨State.owed_of s _ d (RingSame.of rfl), rfl, _, rfl, rfl, rfl, rfl, rfl, rfl, rfl, rfl, rfl, rfl, rfl, rfl, rfl, rfl, rfl⟩
  case delivery =>
    intro s n x f hs hx hsig hgen hrec hqueue hlive hheld
    exact ⟨_, (State.go_run _ _ hs : execDelivery n none s = _), s.delivery_facts hx hsig hgen hrec hqueue hlive hheld⟩
  case transfer =>
    intro s m kind addr hs hk1 hk2 hrun hwork hbusy hstarted hto
    exact ⟨_, (State.go_run _ _ hs : execMoverBusError m kind addr s = _),
      s.moverBusError_chan_facts addr hk1 hk2 hrun hwork hbusy hstarted hto⟩
  case spilled =>
    intro s m kind addr w ps x f hs hk1 hk2 ha hrun hwork hfind hframe hloc hgoes
    exact ⟨_, (State.go_run _ _ hs : execMoverBusError m kind addr s = _),
      s.moverBusError_sub_facts hk1 hk2 ha hrun hwork hfind hframe hloc hgoes⟩
  case timeout =>
    intro s p addr hs hp ht
    have hs' : (s.timedOut p).svc.stopped = none := by rw [s.timedOut_svc p, hs]
    have hrun : ∀ mover ring, exec (.cplTimeout p mover ring addr) s = .next (s.cplTimeout p mover ring addr) := fun mover ring =>
      (State.go_run _ _ hs : execCplTimeout p mover ring addr s = _)
    refine ⟨s.timedOut p, rfl, s.timedOut_count p, State.hpEvt_bit _ p 8 (by decide), ?_, fun m ring => ?_, fun n hn => ?_⟩
    · rw [hrun, s.cplTimeout_none addr hp ht]
    · refine ⟨_, hrun (some m) ring, ?_⟩
      rw [s.cplTimeout_mover m ring addr hp ht]
      exact (State.go_run _ _ hs' : execMoverBusError m 1 addr (s.timedOut p) = _)
    · refine ⟨_, hrun none (some n), ?_⟩
      rw [s.cplTimeout_ring addr hp ht ((s.timedOut_ringPort p n).trans hn)]
      exact (State.go_run _ _ hs' : execRingBusError n addr none (s.timedOut p) = _)

end Sys2Proof.Machine

/-! SUPPORT. Memory errors, row repair and thermal samples: what each leaves of counts, pages, frames and levels (R272, R273, R569 to
R571). -/

namespace Sys2Proof.Machine

/-! ### What counts an error -/

/-- An error of a pseudo-channel counts for it and for the frame store, and sets an event of the store. -/
def State.countError (s : State) (r q : RegRow) (c b : Nat) : State := ((s.count r c).count q).storeEvt [b]

/-- A register of the frame store that neither events nor retired pages write. -/
def StoreQuiet (q : RegRow) (i : Nat) : Prop :=
  q.win = 8 ∧ q.addr i ≠ Reg.STORE_EVENTS.addr ∧ ∀ c, q.addr i ≠ Reg.PC_RETIRED_PAGES.addr c

theorem StoreRegs.quiet {s t : State} (h : StoreRegs s t) {q : RegRow} {i : Nat} (hq : StoreQuiet q i) : t.reg q i = s.reg q i := by
  obtain ⟨hwin, hevt, hretired⟩ := hq
  exact h.1 q i 0 hwin hevt hretired

theorem State.countError_facts (s : State) {r q : RegRow} {c b : Nat} (hb : b < 32) (hr : StoreQuiet r c) (hq : StoreQuiet q 0)
    (hne : r.addr c ≠ q.addr 0) :
    ((s.countError r q c b).reg r c).toNat = min 0xFFFFFFFF ((s.reg r c).toNat + 1)
      ∧ ((s.countError r q c b).reg q).toNat = min 0xFFFFFFFF ((s.reg q).toNat + 1)
      ∧ bit ((s.countError r q c b).reg Reg.STORE_EVENTS) b = true := by
  have hr16 : r.win < 16 := hr.1 ▸ (by decide)
  have hq16 : q.win < 16 := hq.1 ▸ (by decide)
  obtain ⟨hregs, hevt⟩ := ((s.count r c).count q).storeEvt_facts [b]
  refine ⟨?_, ?_, hevt b (List.mem_singleton.mpr rfl) hb⟩
  · rw [← s.count_toNat r c hr16]
    exact congrArg BitVec.toNat ((hregs.quiet hr).trans (State.reg_setReg_ne _ _ _ _ _ _ _ _ hq16 (Or.inr hne)))
  · rw [show (s.countError r q c b).reg q = ((s.count r c).count q).reg q from hregs.quiet hq, State.count_toNat _ _ _ hq16]
    exact congrArg (fun v : Word => min 0xFFFFFFFF (v.toNat + 1)) (State.reg_setReg_ne _ _ _ _ _ _ _ _ hr16 (Or.inr hne.symm))

theorem State.countError_keeps (s : State) (r q : RegRow) (c b : Nat) : Keeps 262169 s (s.countError r q c b) :=
  ((State.count_keeps ..).mono rfl).trans (((State.count_keeps ..).mono rfl).trans (State.storeEvt_keeps ..))

theorem storeQuiet_pcCeCnt (c : Nat) : StoreQuiet Reg.PC_CE_CNT c :=
  ⟨rfl, by simp only [RegRow.addr, Reg.PC_CE_CNT, Reg.STORE_EVENTS]; omega,
    fun _ => by simp only [RegRow.addr, Reg.PC_CE_CNT, Reg.PC_RETIRED_PAGES]; omega⟩

theorem storeQuiet_pcUeCnt (c : Nat) : StoreQuiet Reg.PC_UE_CNT c :=
  ⟨rfl, by simp only [RegRow.addr, Reg.PC_UE_CNT, Reg.STORE_EVENTS]; omega,
    fun _ => by simp only [RegRow.addr, Reg.PC_UE_CNT, Reg.PC_RETIRED_PAGES]; omega⟩

theorem storeQuiet_storeCeCnt : StoreQuiet Reg.STORE_CE_CNT 0 :=
  ⟨rfl, by decide, fun _ => by simp only [RegRow.addr, Reg.STORE_CE_CNT, Reg.PC_RETIRED_PAGES]; omega⟩

theorem storeQuiet_storeUeCnt : StoreQuiet Reg.STORE_UE_CNT 0 :=
  ⟨rfl, by decide, fun _ => by simp only [RegRow.addr, Reg.STORE_UE_CNT, Reg.PC_RETIRED_PAGES]; omega⟩

/-! ### Corrected errors -/

/-- A corrected error is counted, also for its row. -/
def State.countCe (s : State) (c row : Nat) : State :=
  (s.countError Reg.PC_CE_CNT Reg.STORE_CE_CNT c 7).setStore (fun q => { q with
    pcs := q.pcs.upd {} c (fun x => { x with rowErrs := x.rowErrs.put 0 row ((s.store.pcs.get ({} : PcSt) c).rowErrs.get 0 row + 1) }) })

/-- A page is withheld for a corrected error: withholding is on, the page is one of the pseudo-channel, and its row has reached the
threshold (R272). -/
def State.ceWithholds (s : State) (c row p : Nat) : Prop :=
  bit (s.act Reg.STORE_CTRL) 2 = true ∧ p % 128 = c ∧ p / 128 < 17408
    ∧ (s.act Reg.STORE_ROW_THRESH).toNat ≤ (s.store.pcs.get ({} : PcSt) c).rowErrs.get 0 row + 1

theorem State.countCe_rowErrs (s : State) (c row : Nat) :
    ((s.countCe c row).store.pcs.get ({} : PcSt) c).rowErrs.get 0 row = (s.store.pcs.get ({} : PcSt) c).rowErrs.get 0 row + 1 := by
  have hstore : (s.countError Reg.PC_CE_CNT Reg.STORE_CE_CNT c 7).store = s.store := (s.countError_keeps _ _ c 7).same .store rfl
  refine (congrArg (fun x : PcSt => x.rowErrs.get 0 row) (Tab.get_upd_self ({} : PcSt) _ c (fun x : PcSt => { x with
    rowErrs := x.rowErrs.put 0 row ((s.store.pcs.get ({} : PcSt) c).rowErrs.get 0 row + 1) }))).trans ?_
  dsimp only
  exact Tab.get_put_self 0 _ row _

/-- A corrected error is counted, and withholds the page of its row where `ceWithholds` says so. -/
theorem State.eccCorrected_ready (s : State) {c : Nat} (row : Nat) (page : Option Nat) (hready : s.store.ready = true) (hc : c < 128) :
    (s.eccCorrected c row page = s.countCe c row ∧ ∀ p, page = some p → ¬ s.ceWithholds c row p)
      ∨ ∃ p, page = some p ∧ s.eccCorrected c row page = (s.countCe c row).withhold c row p := by
  have hkeep := s.countError_keeps Reg.PC_CE_CNT Reg.STORE_CE_CNT c 7
  have hstore : (s.countError Reg.PC_CE_CNT Reg.STORE_CE_CNT c 7).store = s.store := hkeep.same .store rfl
  have hcfg : (s.countError Reg.PC_CE_CNT Reg.STORE_CE_CNT c 7).cfg = s.cfg := hkeep.same .cfg rfl
  have hact : ∀ (f : StoreState → StoreState) (r : RegRow),
      ((s.countError Reg.PC_CE_CNT Reg.STORE_CE_CNT c 7).setStore f).act r = s.act r := fun f r => by
    unfold State.act State.activeSet
    rw [State.setStore_cfg, hcfg]
  unfold State.eccCorrected State.countCe
  rw [if_neg (by simp [hready, hc])]
  unfold State.countError at hstore hact ⊢
  generalize ((s.count Reg.PC_CE_CNT c).count Reg.STORE_CE_CNT).storeEvt [7] = u at hstore hact ⊢
  dsimp only
  rw [hstore]
  cases page with
  | none => exact Or.inl ⟨rfl, fun _ h => by cases h⟩
  | some p =>
    dsimp only
    rw [hact, hact]
    split
    · exact Or.inr ⟨p, rfl, rfl⟩
    · next h =>
      refine Or.inl ⟨rfl, fun q hq ⟨hon, hof, hin, hrow⟩ => h ?_⟩
      cases hq
      simp [hon, hof, hin, hrow]

theorem State.eccCorrected_facts (s : State) {c : Nat} (row : Nat) (page : Option Nat) (hready : s.store.ready = true) (hc : c < 128) :
    StoreRegs (s.countError Reg.PC_CE_CNT Reg.STORE_CE_CNT c 7) (s.eccCorrected c row page)
      ∧ ((s.eccCorrected c row page).store.pcs.get ({} : PcSt) c).rowErrs.get 0 row
          = (s.store.pcs.get ({} : PcSt) c).rowErrs.get 0 row + 1
      ∧ ∀ p, page = some p → s.ceWithholds c row p → p ∈ (s.eccCorrected c row page).store.withheld := by
  have hcount : StoreRegs (s.countError Reg.PC_CE_CNT Reg.STORE_CE_CNT c 7) (s.countCe c row) := .of (.of rfl)
  rcases s.eccCorrected_ready row page hready hc with ⟨heq, hnone⟩ | ⟨p, hp, heq⟩
  · rw [heq]
    exact ⟨hcount, s.countCe_rowErrs c row, fun p hp h => absurd h (hnone p hp)⟩
  · obtain ⟨hregs, hheld, _, hrows⟩ := (s.countCe c row).withhold_facts c row p
    rw [heq]
    refine ⟨hcount.trans hregs, ?_, fun q hq _ => ?_⟩
    · rw [hrows]
      exact s.countCe_rowErrs c row
    · cases hp.symm.trans hq
      exact hheld

/-! ### Uncorrectable errors -/

/-- An uncorrectable error is counted, posted and logged. -/
def State.tellUe (s : State) (c : Nat) (page : Option Nat) : State :=
  ((s.countError Reg.PC_UE_CNT Reg.STORE_UE_CNT c 8).post 7 0x49 (target 0xF c) [(16, 1, 1), (20, 4, page.getD 0)]).logEntry 0x12
    (target 0xF c) (page.getD 0)

theorem State.tellUe_facts (s : State) (c : Nat) (page : Option Nat) :
    StoreRegs (s.countError Reg.PC_UE_CNT Reg.STORE_UE_CNT c 8) (s.tellUe c page) ∧ (s.tellUe c page).store = s.store := by
  constructor
  · exact (StoreRegs.of (WinSame.post (w := 8) _ _ _ _ _ _ (by decide) (by decide) (by decide))).trans (.of (.of rfl))
  · unfold State.tellUe
    rw [State.logEntry_store, State.post_store]
    exact (s.countError_keeps _ _ c 8).same .store rfl

/-- The frame page that an uncorrectable error hits is lost and withheld. -/
def State.loseHit (s : State) (c row : Nat) (page : Option Nat) : State :=
  match page with
  | some p => if p % 128 = c ∧ p / 128 < 17408 then (s.pageLost p).withhold c row p else s
  | none => s

theorem State.eccUncorrectable_ready (s : State) {c : Nat} (row : Nat) (page : Option Nat) (hready : s.store.ready = true) (hc : c < 128) :
    s.eccUncorrectable c row page = ((s.tellUe c page).loseHit c row page).countUe c := by
  unfold State.eccUncorrectable State.countUe State.loseHit State.tellUe State.countError
  refine (if_neg (by simp [hready, hc])).trans ?_
  cases page <;> rfl

theorem State.loseHit_facts (s : State) (c row : Nat) (page : Option Nat) : StoreRegs s (s.loseHit c row page)
    ∧ ∀ p, page = some p → p % 128 = c → p / 128 < 17408 → p ∈ (s.loseHit c row page).store.withheld
        ∧ (s.loseHit c row page).store.frames = (s.pageLost p).store.frames := by
  unfold State.loseHit
  split
  · next p =>
    split
    · have hlost : StoreRegs s (s.pageLost p) := .of (.of ((s.pageLost_keeps p).same .cur rfl))
      obtain ⟨hregs, hheld, hkept, _⟩ := (s.pageLost p).withhold_facts c row p
      refine ⟨hlost.trans hregs, fun q hq _ _ => ?_⟩
      cases hq
      exact ⟨hheld, hkept⟩
    · next h => exact ⟨StoreRegs.refl s, fun q hq hof hin => by cases hq; exact absurd ⟨hof, hin⟩ h⟩
  · exact ⟨StoreRegs.refl s, fun q hq => by cases hq⟩

/-- An uncorrectable error keeps its counts, and withholds and loses the frame page that it hits. -/
theorem State.eccUncorrectable_facts (s : State) {c : Nat} (row : Nat) (page : Option Nat) (hready : s.store.ready = true) (hc : c < 128) :
    StoreRegs (s.countError Reg.PC_UE_CNT Reg.STORE_UE_CNT c 8) (s.eccUncorrectable c row page)
      ∧ ∀ p, page = some p → p % 128 = c → p / 128 < 17408 → p ∈ (s.eccUncorrectable c row page).store.withheld
          ∧ (s.eccUncorrectable c row page).store.frames = (s.pageLost p).store.frames := by
  obtain ⟨htold, hstore⟩ := s.tellUe_facts c page
  rw [s.eccUncorrectable_ready row page hready hc]
  generalize s.tellUe c page = u at htold hstore ⊢
  obtain ⟨hregs, hhit⟩ := u.loseHit_facts c row page
  obtain ⟨hcount, hframes, hwithheld⟩ := (u.loseHit c row page).countUe_facts c
  refine ⟨htold.trans (hregs.trans hcount), fun p hp hof hin => ?_⟩
  obtain ⟨hheld, hlost⟩ := hhit p hp hof hin
  refine ⟨hwithheld ▸ hheld, hframes.trans (hlost.trans ?_)⟩
  unfold State.pageLost
  dsimp only [State.setStore]
  rw [hstore]

/-- A lost page: an open frame that holds it lists its lines, a closed one is bad (R273). -/
theorem State.pageLost_frame (s : State) {p k : Nat} {f : FrameSt} (hf : f ∈ s.store.frames)
    (hk : f.pages.find? (fun e => decide (e.2 = p + 1)) = some (k, p + 1)) :
    if f.phase = .opened ∨ f.phase = .ended then
      ∃ g ∈ (s.pageLost p).store.frames, g.id = f.id ∧ ∀ l ∈ pageLines f k, l ∈ g.damagedLines
    else { f with bad := true } ∈ (s.pageLost p).store.frames := by
  unfold State.pageLost
  split
  · next h =>
    refine ⟨{ f with damagedLines := f.damagedLines ++ (pageLines f k).filter (fun l => !f.damagedLines.contains l) },
      List.mem_map.mpr ⟨f, hf, ?_⟩, rfl, fun l hl => ?_⟩
    · rw [hk]
      exact if_pos h
    · by_cases hm : l ∈ f.damagedLines
      · exact List.mem_append_left _ hm
      · exact List.mem_append_right _ (List.mem_filter.mpr ⟨hl, by simpa using hm⟩)
  · next h =>
    refine List.mem_map.mpr ⟨f, hf, ?_⟩
    rw [hk]
    exact if_neg h

/-! ### Row repair -/

/-- A row is repaired: its page returns, the pseudo-channel has one repair less, and BOOT will repair it again (R272). -/
def State.repairRow (s : State) (c row page : Nat) : State :=
  let fresh := (s.store.pcs.get ({} : PcSt) c).fresh
  ((s.setStore (fun q => { q with
    withheld := q.withheld.filter (fun p => decide (p ≠ page)), repairs := q.repairs ++ [(c, row)],
    pcs := q.pcs.upd {} c (fun x => { x with
      rows := x.rows.filter (fun e => decide (e.2 ≠ page)), rowErrs := x.rowErrs.put 0 row 0,
      back := if page / 128 < fresh then x.back ++ [page / 128] else x.back }) })).setF Reg.PC_STATUS c 31 16 (s.repairsLeft c - 1)).setSvc
        (fun q => { q with softRepairs := q.softRepairs ++ [(c, row)] })

theorem State.rowRepair_repairs (s : State) {c row page : Nat} (hrow : s.repairable c = some (row, page)) (hleft : s.repairsLeft c ≠ 0)
    (hon : bit (s.act Reg.STORE_CTRL) 2 = true) : s.rowRepair c =
      (((s.repairRow c row page).storeEvt [9]).post 7 0x49 (target 0xF c) [(16, 1, 0), (20, 4, page)]).logEntry 0x13 (target 0xF c) row := by
  unfold State.rowRepair
  rw [hrow]
  dsimp only
  rw [if_neg (by simp [hleft, hon])]
  rfl

theorem storeQuiet_pcStatus (c : Nat) : StoreQuiet Reg.PC_STATUS c :=
  ⟨rfl, by simp only [RegRow.addr, Reg.PC_STATUS, Reg.STORE_EVENTS]; omega,
    fun _ => by simp only [RegRow.addr, Reg.PC_STATUS, Reg.PC_RETIRED_PAGES]; omega⟩

theorem State.repairRow_facts (s : State) (c row page : Nat) :
    page ∉ (s.repairRow c row page).store.withheld ∧ (c, row) ∈ (s.repairRow c row page).store.repairs
      ∧ (c, row) ∈ (s.repairRow c row page).svc.softRepairs
      ∧ ((s.repairRow c row page).store.pcs.get ({} : PcSt) c).rowErrs.get 0 row = 0
      ∧ (s.repairRow c row page).repairsLeft c = s.repairsLeft c - 1 := by
  have hlast : ∀ l : List (Nat × Nat), (c, row) ∈ l ++ [(c, row)] := fun l => List.mem_append_right l (List.mem_singleton.mpr rfl)
  have hlt : s.repairsLeft c < 2 ^ (31 + 1 - 16) := Nat.mod_lt _ (by decide)
  refine ⟨fun h => ?_, hlast _, hlast _, ?_, ?_⟩
  · have := (List.mem_filter.mp h).2
    simp at this
  · refine (congrArg (fun x : PcSt => x.rowErrs.get 0 row) (Tab.get_upd_self ({} : PcSt) s.store.pcs c (fun x : PcSt => { x with
      rows := x.rows.filter (fun e => decide (e.2 ≠ page)), rowErrs := x.rowErrs.put 0 row 0,
      back := if page / 128 < (s.store.pcs.get ({} : PcSt) c).fresh then x.back ++ [page / 128] else x.back }))).trans ?_
    exact Tab.get_put_self 0 _ row 0
  · refine (State.fld_setF_self _ Reg.PC_STATUS c 31 16 _ (by decide) (by decide) (by decide)).trans (Nat.mod_eq_of_lt ?_)
    omega

theorem State.logEntry_softRepairs (s : State) (code source detail : Nat) :
    (s.logEntry code source detail).svc.softRepairs = s.svc.softRepairs := rfl

/-- The report of a repair leaves the frame store, the rows to repair at BOOT and the repairs left, and its event stands. -/
theorem State.repairTold_facts (s : State) (c row page : Nat) :
    let t := ((s.storeEvt [9]).post 7 0x49 (target 0xF c) [(16, 1, 0), (20, 4, page)]).logEntry 0x13 (target 0xF c) row
    t.store = s.store ∧ t.svc.softRepairs = s.svc.softRepairs ∧ t.repairsLeft c = s.repairsLeft c
      ∧ bit (t.reg Reg.STORE_EVENTS) 9 = true := by
  have hkeep := s.storeEvt_keeps [9]
  obtain ⟨hregs, hevt⟩ := s.storeEvt_facts [9]
  have htold : StoreRegs (s.storeEvt [9])
      (((s.storeEvt [9]).post 7 0x49 (target 0xF c) [(16, 1, 0), (20, 4, page)]).logEntry 0x13 (target 0xF c) row) :=
    (StoreRegs.of (WinSame.post (w := 8) _ _ _ _ _ _ (by decide) (by decide) (by decide))).trans (.of (.of rfl))
  refine ⟨?_, ?_, ?_, htold.2 9 (hevt 9 (List.mem_singleton.mpr rfl) (by decide))⟩
  · rw [State.logEntry_store, State.post_store]
    exact hkeep.same .store rfl
  · rw [State.logEntry_softRepairs, State.post_svc]
    exact congrArg SvcState.softRepairs (hkeep.same .svc rfl)
  · exact congrArg (fun v : Word => fld v 31 16) ((hregs.trans htold).quiet (storeQuiet_pcStatus c))

/-! ### Thermal samples -/

/-- A level after a reading: it stands at CRIT from that threshold on, and rises no higher (log entry 111). -/
structure LevelAfter (old new : Nat) (crit hottest : Int) : Prop where
  crit : crit ≤ hottest → 3 ≤ new
  le : old < new → new ≤ 3

theorem State.thermLevel_after (s : State) (g old : Nat) (x : Int) (th : List Int) :
    LevelAfter old (s.thermLevel g old x th).1 (8 * th.getD 2 0) x :=
  ⟨s.thermLevel_crit g old x th, s.thermLevel_le g old x th⟩

/-- The readings of a millisecond in SVC_TEMP. -/
def State.showTemps (s : State) (v : List Int) : State :=
  (List.range 32).foldl (fun s i => s.setReg Reg.SVC_TEMP i 0 (BitVec.ofNat 32 (ofSigned 16 (v.getD i 0)))) s

/-- The peaks after the readings of a millisecond. -/
def State.raisePeaks (s : State) (v : List Int) : State :=
  s.setSvc (fun q => { q with
    peaks := (List.range 32).foldl (fun (p : Tab Int) i => p.put (-32768) i (max (p.get (-32768) i) (v.getD i 0))) q.peaks })

def State.readTemps (s : State) (v : List Int) : State := (s.showTemps v).raisePeaks v

theorem State.raisePeaks_facts (s : State) (v : List Int) :
    (∀ i < 32, (s.raisePeaks v).svc.peaks.get (-32768) i = max (s.svc.peaks.get (-32768) i) (v.getD i 0))
      ∧ (s.raisePeaks v).svc.dieLevel = s.svc.dieLevel ∧ (s.raisePeaks v).svc.hbmLevel = s.svc.hbmLevel
      ∧ (s.raisePeaks v).cfg = s.cfg ∧ (s.raisePeaks v).cur = s.cur :=
  ⟨peaks_facts s.svc.peaks v 32, rfl, rfl, rfl, rfl⟩

theorem State.readTemps_facts (s : State) (v : List Int) :
    (∀ i < 32, (s.readTemps v).reg Reg.SVC_TEMP i = BitVec.ofNat 32 (ofSigned 16 (v.getD i 0))
        ∧ (s.readTemps v).svc.peaks.get (-32768) i = max (s.svc.peaks.get (-32768) i) (v.getD i 0))
      ∧ (s.readTemps v).svc.dieLevel = s.svc.dieLevel ∧ (s.readTemps v).svc.hbmLevel = s.svc.hbmLevel
      ∧ (s.readTemps v).cfg = s.cfg := by
  have hshow : (∀ i < 32, (s.showTemps v).reg Reg.SVC_TEMP i = BitVec.ofNat 32 (ofSigned 16 (v.getD i 0)))
      ∧ (s.showTemps v).svc = s.svc ∧ (s.showTemps v).cfg = s.cfg := s.setTemps_facts v
  unfold State.readTemps
  generalize s.showTemps v = u at hshow ⊢
  obtain ⟨htemp, hsvc, hcfg⟩ := hshow
  obtain ⟨hpeaks, hdie, hhbm, hcfg', hcur⟩ := u.raisePeaks_facts v
  rw [hsvc] at hpeaks hdie hhbm
  exact ⟨fun i hi => ⟨(State.reg_cur hcur _ i 0).trans (htemp i hi), hpeaks i hi⟩, hdie, hhbm, hcfg'.trans hcfg⟩

/-- The levels after a sample, with the cooling counts that the rule of falling levels keeps. -/
def State.setLevels (s : State) (cool : Tab Nat) (die hbm : Nat) : State :=
  s.setSvc (fun q => { q with cool := cool, dieLevel := die, hbmLevel := hbm })

theorem State.setLevels_facts (s : State) (cool : Tab Nat) (die hbm : Nat) :
    ((s.setLevels cool die hbm).svc.dieLevel = die ∧ (s.setLevels cool die hbm).svc.hbmLevel = hbm)
      ∧ (s.setLevels cool die hbm).svc.peaks = s.svc.peaks
      ∧ ∀ i, (s.setLevels cool die hbm).reg Reg.SVC_TEMP i = s.reg Reg.SVC_TEMP i :=
  ⟨⟨rfl, rfl⟩, rfl, fun _ => rfl⟩

/-- The CRIT threshold of a group in 0.125 °C. -/
def State.critAt (s : State) (r : RegRow) : Int := 8 * toSigned 8 (s.actF r 0 23 16)

theorem State.critAt_congr {s t : State} (h : t.cfg = s.cfg) (r : RegRow) : t.critAt r = s.critAt r := by
  unfold State.critAt State.actF State.act State.activeSet
  rw [h]

def dieSensors : List Nat := (List.range 28).map (· + 4)

/-- A sample is read, and the levels that its hottest sensors reach are set and raised; THERM_ALERT# changes no more. -/
theorem State.thermal_levels (s : State) (v : List Int) : ∃ cool die hbm,
    LevelAfter s.svc.dieLevel die (s.critAt Reg.SVC_THERM_DIE) (v.getD (hottestOf v dieSensors) 0)
      ∧ LevelAfter s.svc.hbmLevel hbm (s.critAt Reg.SVC_THERM_HBM) (v.getD (hottestOf v (List.range 4)) 0)
      ∧ Keeps 262144 ((((s.readTemps v).setLevels cool die hbm).thermRise s.svc.dieLevel die (hottestOf v dieSensors)).thermRise
          s.svc.hbmLevel hbm (hottestOf v (List.range 4))) (s.thermal v) := by
  obtain ⟨_, hdie, hhbm, hcfg⟩ := s.readTemps_facts v
  unfold State.thermal
  dsimp only
  rw [← State.showTemps, ← State.raisePeaks, ← State.readTemps]
  rw [← s.critAt_congr hcfg, ← s.critAt_congr hcfg, ← hdie, ← hhbm]
  generalize s.readTemps v = u
  unfold dieSensors
  have hd := u.thermLevel_after 0 u.svc.dieLevel (v.getD (hottestOf v ((List.range 28).map (· + 4))) 0)
    (([(7, 0), (15, 8), (23, 16)] : List (Nat × Nat)).map (fun f => toSigned 8 (u.actF Reg.SVC_THERM_DIE 0 f.1 f.2)))
  generalize u.thermLevel 0 _ _ _ = d at hd ⊢
  have hh := (u.setSvc (fun q => { q with cool := d.2 })).thermLevel_after 1 u.svc.hbmLevel (v.getD (hottestOf v (List.range 4)) 0)
    (([(7, 0), (15, 8), (23, 16)] : List (Nat × Nat)).map (fun f => toSigned 8 (u.actF Reg.SVC_THERM_HBM 0 f.1 f.2)))
  generalize State.thermLevel _ 1 _ _ _ = h at hh ⊢
  exact ⟨h.2, d.1, h.1, hd, hh, Keeps.ite (State.emit_keeps ..) (Keeps.ite (State.emit_keeps ..) (Keeps.refl ..))⟩

/-- A sample's readings, peaks and levels, with the events of the levels that rise (R569, R570). -/
theorem State.thermal_facts (s : State) (v : List Int) :
    (∀ i < 32, (s.thermal v).reg Reg.SVC_TEMP i = BitVec.ofNat 32 (ofSigned 16 (v.getD i 0))
        ∧ (s.thermal v).svc.peaks.get (-32768) i = max (s.svc.peaks.get (-32768) i) (v.getD i 0))
      ∧ LevelAfter s.svc.dieLevel (s.thermal v).svc.dieLevel (s.critAt Reg.SVC_THERM_DIE) (v.getD (hottestOf v dieSensors) 0)
      ∧ LevelAfter s.svc.hbmLevel (s.thermal v).svc.hbmLevel (s.critAt Reg.SVC_THERM_HBM) (v.getD (hottestOf v (List.range 4)) 0)
      ∧ (s.svc.dieLevel < (s.thermal v).svc.dieLevel →
          bit ((s.thermal v).reg Reg.SVC_EVENTS) (2 + (s.thermal v).svc.dieLevel) = true)
      ∧ (s.svc.hbmLevel < (s.thermal v).svc.hbmLevel →
          bit ((s.thermal v).reg Reg.SVC_EVENTS) (2 + (s.thermal v).svc.hbmLevel) = true) := by
  obtain ⟨cool, die, hbm, hdie, hhbm, hkeep⟩ := s.thermal_levels v
  obtain ⟨hread, _, _, _⟩ := s.readTemps_facts v
  generalize s.readTemps v = u at hread hkeep
  obtain ⟨hlevels, hpeaks, htemps⟩ := u.setLevels_facts cool die hbm
  generalize u.setLevels cool die hbm = x at hlevels hpeaks htemps hkeep
  obtain ⟨hdieDie, hdieHbm, hdiePeaks, hdieRegs, _, hdieEvt⟩ := x.thermRise_facts s.svc.dieLevel die (hottestOf v dieSensors)
  generalize x.thermRise s.svc.dieLevel die (hottestOf v dieSensors) = y at hdieDie hdieHbm hdiePeaks hdieRegs hdieEvt hkeep
  obtain ⟨hhbmDie, hhbmHbm, hhbmPeaks, hhbmRegs, hhbmKeepsEvt, hhbmEvt⟩ := y.thermRise_facts s.svc.hbmLevel hbm (hottestOf v (List.range 4))
  generalize y.thermRise s.svc.hbmLevel hbm (hottestOf v (List.range 4)) = z at hhbmDie hhbmHbm hhbmPeaks hhbmRegs hhbmKeepsEvt hhbmEvt hkeep
  have hsvc : (s.thermal v).svc = z.svc := hkeep.same .svc rfl
  have hcur : (s.thermal v).cur = z.cur := hkeep.same .cur rfl
  have hdieNow : (s.thermal v).svc.dieLevel = die := by rw [hsvc, hhbmDie, hdieDie, hlevels.1]
  have hhbmNow : (s.thermal v).svc.hbmLevel = hbm := by rw [hsvc, hhbmHbm, hdieHbm, hlevels.2]
  rw [hdieNow, hhbmNow, hsvc]
  refine ⟨fun i hi => ⟨?_, ?_⟩, hdie, hhbm, fun hrise => ?_, fun hrise => ?_⟩
  · rw [State.reg_cur hcur, hhbmRegs, hdieRegs, htemps, (hread i hi).1]
  · rw [hhbmPeaks, hdiePeaks, hpeaks, (hread i hi).2]
  · have := hdie.le hrise
    rw [State.reg_cur hcur]
    exact hhbmKeepsEvt _ (hdieEvt hrise (by omega))
  · have := hhbm.le hrise
    rw [State.reg_cur hcur]
    exact hhbmEvt hrise (by omega)

/-- Settles O40: errors and repairs by what they leave of counts and pages, a sample by the levels that it reaches. That a level
rises at its threshold, and not only above it, is log entry 111. -/
theorem memoryErrorsAndHeat : Obligations.MemoryErrorsAndHeat := by
  refine ⟨?corrected, ?uncorrectable, ?repair, ?sample, ?trip⟩
  case corrected =>
    intro s c row page hs hready hc
    obtain ⟨hpc, hstore, hevt⟩ := s.countError_facts (b := 7) (by decide) (storeQuiet_pcCeCnt c) storeQuiet_storeCeCnt
      (by simp only [RegRow.addr, Reg.PC_CE_CNT, Reg.STORE_CE_CNT]; omega)
    obtain ⟨hregs, hrow, hheld⟩ := s.eccCorrected_facts row page hready hc
    refine ⟨_, (State.go_run _ _ hs : execEccCorrected c row page s = _), ?_, ?_, hregs.2 7 hevt, hrow,
      fun p hp hon hof hin hthresh => hheld p hp ⟨hon, hof, hin, hthresh⟩⟩
    · rw [hregs.quiet (storeQuiet_pcCeCnt c), hpc]
    · rw [hregs.quiet storeQuiet_storeCeCnt, hstore]
  case uncorrectable =>
    intro s c row page hs hready hc
    obtain ⟨hpc, hstore, hevt⟩ := s.countError_facts (b := 8) (by decide) (storeQuiet_pcUeCnt c) storeQuiet_storeUeCnt
      (by simp only [RegRow.addr, Reg.PC_UE_CNT, Reg.STORE_UE_CNT]; omega)
    obtain ⟨hregs, hhit⟩ := s.eccUncorrectable_facts row page hready hc
    refine ⟨_, (State.go_run _ _ hs : execEccUncorrectable c row page s = _), ?_, ?_, hregs.2 8 hevt, fun p hp hof hin => ?_⟩
    · rw [hregs.quiet (storeQuiet_pcUeCnt c), hpc]
    · rw [hregs.quiet storeQuiet_storeUeCnt, hstore]
    · obtain ⟨hheld, hframes⟩ := hhit p hp hof hin
      rw [hframes]
      exact ⟨hheld, fun f hf k hk => s.pageLost_frame hf hk⟩
  case repair =>
    intro s c row page hs hrow hleft hon
    refine ⟨_, (State.go_run _ _ hs : execRowRepair c s = _), ?_⟩
    rw [s.rowRepair_repairs hrow hleft hon]
    obtain ⟨hheld, hrepairs, hboot, herrs, hcount⟩ := s.repairRow_facts c row page
    obtain ⟨hstore, hsoft, htold, hevt⟩ := (s.repairRow c row page).repairTold_facts c row page
    rw [hstore, hsoft, htold]
    exact ⟨hheld, hrepairs, hboot, herrs, hcount, hevt⟩
  case sample =>
    intro s v hs
    obtain ⟨hread, hdie, hhbm, hdieEvt, hhbmEvt⟩ := s.thermal_facts v
    refine ⟨_, (State.go_run _ _ hs : execThermalSample v s = _), hread, fun i hi hcrit => ?_, fun i hi hcrit => ?_, hdieEvt, hhbmEvt⟩
    · have hmem : 4 + i ∈ dieSensors := List.mem_map.mpr ⟨i, List.mem_range.mpr hi, Nat.add_comm i 4⟩
      exact hdie.crit (Int.le_trans hcrit (hottestOf_le v _ _ hmem))
    · exact hhbm.crit (Int.le_trans hcrit (hottestOf_le v _ _ (List.mem_range.mpr hi)))
  case trip =>
    intro s hs
    exact ⟨_, (State.go_run _ _ hs : execThermtrip s = _), rfl, rfl⟩

end Sys2Proof.Machine

/-! SUPPORT. Bays and their latch, failed drives, removed magazines and the unsealed end after zeroisation (R312, R314 to R316, R321). -/

namespace Sys2Proof.Machine

/-! ### Events of bays -/

theorem State.setEvt_keepsBit (s : State) {r : RegRow} {i k : Nat} (b : Nat) (hr : r.win < 16) (h : bit (s.reg r i) k = true) :
    bit ((s.setEvt r i b).reg r i) k = true := by
  unfold State.setEvt State.orReg
  rw [State.reg_setReg_self _ _ _ _ _ hr, bit_or, h]
  rfl

theorem State.bayEvt_bit (s : State) (b : Nat) {k : Nat} (hk : k < 32) : bit ((s.bayEvt b k).reg Reg.BAY_EVENTS b) k = true :=
  s.setEvt_bit Reg.BAY_EVENTS b k (by decide) hk

theorem State.bayEvt_keepsBit (s : State) {b j : Nat} (k : Nat) (h : bit (s.reg Reg.BAY_EVENTS b) j = true) :
    bit ((s.bayEvt b k).reg Reg.BAY_EVENTS b) j = true := s.setEvt_keepsBit k (by decide) h

theorem State.bayEvt_bay (s : State) (b k c : Nat) : (s.bayEvt b k).bay c = s.bay c := rfl

/-! ### DRIVE_FAILURE -/

/-- A drive whose failure has had its effect is no longer due for it. -/
def State.clearDue (s : State) (d : Nat) : State := s.setDrive d (fun q => { q with failDue := false })

theorem State.clearDue_drive (s : State) (d : Nat) : (s.clearDue d).drive d = { s.drive d with failDue := false } :=
  s.drive_setDrive_self d _

theorem State.clearDue_mode (s : State) (d e : Nat) : ((s.clearDue d).drive e).mode = (s.drive e).mode := by
  by_cases h : e = d
  · rw [h, State.clearDue_drive]
  · exact congrArg DriveSt.mode (s.drive_setDrive_ne d e _ h)

theorem State.driveFailure_due (s : State) {d : Nat} (h : (s.drive d).failDue = true) :
    s.driveFailure d = ((s.setsOf d).foldl (fun s m => s.setLoss m 4) (s.clearDue d)).bayFailed (bayOf d) :=
  if_neg (by rw [h]; decide)

/-- With no open take a drive's failure touches its bay alone. -/
theorem State.driveFailure_noTake (s : State) {d : Nat} (h : (s.drive d).failDue = true) (hc : ∀ t ∈ s.takes.takes, t.closed = true) :
    s.driveFailure d = (s.clearDue d).bayFailed (bayOf d) := by
  rw [s.driveFailure_due h, State.setLosses_closed _ (s.clearDue d) 4 hc]

theorem State.driveFailure_degrades (s : State) {d m : Nat} {t : Take} (h : (s.drive d).failDue = true) (hm : s.setsOf d = [m])
    (ht : s.takes.takes = [t]) (hc : t.closed = false) (hr : (s.rec_ t.id).relay = none) (he : (s.rec_ t.id).emerg = none)
    (hg : ∃ g ∈ s.mag.segs, g.take = t.id ∧ g.set = m ∧ g.stage < 7) (ho : s.ridesOut m = true) :
    ((s.driveFailure d).mag.sets.get {} m).degraded = true := by
  rw [s.driveFailure_due h, hm]
  obtain ⟨_, hsets, _⟩ := (([m] : List Nat).foldl (fun s m => s.setLoss m 4) (s.clearDue d)).bayFailed_facts (bayOf d)
  rw [hsets]
  exact (s.clearDue d).setLoss_degrades m 4 t ht hc hr he hg ((s.ridesOut_failDue d m).trans ho)

/-! ### Removal of a magazine -/

/-- A magazine leaves its bay: the switch opens, a bay in use or closing is a surprise, and the drives of one in use fail. -/
def State.unplug (s : State) (b : Nat) : State :=
  let u := s.setBay b (fun q => { q with present := false })
  let v := if (s.bay b).mode = .inUse ∨ (s.bay b).mode = .closing then u.bayEvt b 2 else u
  if (s.bay b).mode = .inUse then
    (slotsOf b).foldl (fun s d => (s.declareFailed d 6).setDrive d (fun q => { q with failDue := false })) v
  else v

theorem State.unplug_facts (s : State) (b : Nat) : (s.unplug b).bay b = { s.bay b with present := false }
    ∧ ((s.bay b).mode = .inUse ∨ (s.bay b).mode = .closing → bit ((s.unplug b).reg Reg.BAY_EVENTS b) 2 = true)
    ∧ ∀ t ∈ (s.unplug b).takes.takes, t ∈ s.takes.takes := by
  have hu := s.bay_setBay_self b (fun q => { q with present := false })
  unfold State.unplug
  dsimp only
  generalize hv : (if (s.bay b).mode = .inUse ∨ (s.bay b).mode = .closing then
    (s.setBay b (fun q => { q with present := false })).bayEvt b 2 else s.setBay b (fun q => { q with present := false })) = v
  have hbay : v.bay b = { s.bay b with present := false } := by
    rw [← hv]
    split <;> exact hu
  have hevt : (s.bay b).mode = .inUse ∨ (s.bay b).mode = .closing → bit (v.reg Reg.BAY_EVENTS b) 2 = true := by
    intro h
    rw [← hv, if_pos h]
    exact State.bayEvt_bit _ b (by decide)
  have htakes : v.takes = s.takes := by
    rw [← hv]
    split <;> rfl
  split
  · obtain ⟨hbays, hreg, hmem⟩ := State.declares_facts (slotsOf b) 6 b (fun q => { q with failDue := false }) v
    refine ⟨?_, fun h => by rw [hreg]; exact hevt h, fun t ht => by rw [← htakes]; exact hmem t ht⟩
    rw [← hbay]
    unfold State.bay
    rw [hbays]
  · exact ⟨hbay, hevt, fun t ht => by rwa [htakes] at ht⟩

/-- The magazine is gone: a bay that was not empty becomes so. -/
def State.removed (s : State) (b : Nat) : State := if (s.bay b).mode = .empty then s.unplug b else (s.unplug b).bayGone b

theorem State.removed_takes (s : State) (b : Nat) : ∀ t ∈ (s.removed b).takes.takes, t ∈ s.takes.takes := by
  obtain ⟨_, _, hmem⟩ := s.unplug_facts b
  obtain ⟨_, _, hgone⟩ := (s.unplug b).bayGone_facts b
  unfold State.removed
  split
  · exact hmem
  · rw [hgone]
    exact hmem

/-- With no open take the removal touches the bay and its drives alone. -/
theorem State.surprise_noTake (s : State) {b : Nat} (hp : (s.bay b).present = true) (hc : ∀ t ∈ s.takes.takes, t.closed = true) :
    s.surprise b = s.removed b := by
  unfold State.surprise
  rw [if_neg (by rw [hp]; decide)]
  show (if (s.bay b).mode = .inUse ∨ (s.bay b).mode = .ready then List.foldl _ (s.removed b) _ else s.removed b) = s.removed b
  split
  · exact State.setLosses_closed _ _ 5 fun t ht => hc t (s.removed_takes b t ht)
  · rfl

/-! ### The latch -/

/-- The latch of a bay opens. -/
def State.latched (s : State) (b : Nat) : State := (s.setBay b (fun q => { q with eject := true })).bayEvt b 3

/-- The bay refuses to let its magazine go. -/
def State.ejectRefused (s : State) (b : Nat) : State := (s.setBay b (fun q => { q with refused := true })).bayEvt b 4

theorem State.latched_bay (s : State) (b : Nat) : (s.latched b).bay b = { s.bay b with eject := true } := s.bay_setBay_self b _

theorem State.latched_mode (s : State) (b : Nat) : ((s.latched b).bay b).mode = (s.bay b).mode := by
  rw [State.latched_bay]

theorem State.latched_event (s : State) (b : Nat) : bit ((s.latched b).reg Reg.BAY_EVENTS b) 3 = true :=
  State.bayEvt_bit _ b (by decide)

theorem State.ejectReq_ready (s : State) {b : Nat} (hm : (s.bay b).mode = .ready) (hr : (s.bay b).released = false) :
    s.ejectReq b = (s.latched b).releaseBay b := by
  have hmode : ((s.latched b).bay b).mode = .ready := (s.latched_mode b).trans hm
  have hrel : ((s.latched b).bay b).released = false := by rw [State.latched_bay]; exact hr
  unfold State.ejectReq
  unfold State.latched at hmode hrel ⊢
  dsimp only
  rw [hmode]
  exact if_neg (by rw [hrel]; decide)

theorem State.ejectReq_refuse (s : State) {b : Nat} (hm : (s.bay b).mode = .inUse) (ha : bit (s.act Reg.BAY_CTRL b) 1 = false) :
    s.ejectReq b = (s.latched b).ejectRefused b := by
  have hmode : ((s.latched b).bay b).mode = .inUse := (s.latched_mode b).trans hm
  have hact : (!bit ((s.latched b).act Reg.BAY_CTRL b) 1) = true := by
    rw [show bit ((s.latched b).act Reg.BAY_CTRL b) 1 = false from ha]
    rfl
  unfold State.ejectReq
  unfold State.latched at hmode hact ⊢
  dsimp only
  rw [hmode]
  exact if_pos hact

/-- A bay that no take uses, or whose take relays already, is due for release (R316). -/
theorem State.latchRelay_due (s : State) {b : Nat} (k : Option Ticket)
    (h : ∀ t, s.bayTake b = some t → (s.rec_ t.id).relay.isSome = true) :
    s.latchRelay b k = .ok (s.setBay b (fun q => { q with releaseDue := true, ticket := k })) := by
  unfold State.latchRelay
  cases ht : s.bayTake b with
  | none => rfl
  | some t => exact if_pos (Or.inl (h t ht))

theorem State.ejectReq_relay (s : State) {b : Nat} (hm : (s.bay b).mode = .inUse) (ha : bit (s.act Reg.BAY_CTRL b) 1 = true)
    (h : ∀ t, s.bayTake b = some t → (s.rec_ t.id).relay.isSome = true) :
    s.ejectReq b = (s.latched b).setBay b (fun q => { q with releaseDue := true, ticket := (s.bay b).ticket }) := by
  have hmode : ((s.latched b).bay b).mode = .inUse := (s.latched_mode b).trans hm
  have hticket : ((s.latched b).bay b).ticket = (s.bay b).ticket := by rw [State.latched_bay]
  have hdue := (s.latched b).latchRelay_due (b := b) (s.bay b).ticket h
  have hact : ¬(!bit ((s.latched b).act Reg.BAY_CTRL b) 1) = true := by
    rw [show bit ((s.latched b).act Reg.BAY_CTRL b) 1 = true from ha]
    decide
  unfold State.ejectReq
  unfold State.latched at hmode hticket hdue hact ⊢
  dsimp only
  rw [hmode, hticket, hdue]
  exact if_neg hact

/-! ### The unsealed end -/

/-- A segment that ends UNSEALED after a frame of a stream: its closing entry is next (R321). -/
def Seg.unsealed (g : Seg) (n st : Nat) : Seg :=
  { g with endKind := 4, endFrame := n, endStream := st, ckpt := 0, stage := 4, manPos := none, takePos := none }

theorem State.unsealed_advance (s : State) {g : Seg} (hseg : s.seg? g.id = some g) (n st : Nat) :
    ∃ h, ((s.setSeg g.id (fun g => g.unsealed n st)).segAdvance g.id 8).seg? g.id = some h ∧ h.endKind = 4 ∧ 4 ≤ h.stage
      ∧ h.placed = g.placed := by
  have hend := State.seg?_setSeg_self (fun g => g.unsealed n st) (fun _ hx => hx) hseg
  obtain ⟨_, _, hadv⟩ := State.segAdvance_facts g.id 8 (s.setSeg g.id (fun g => g.unsealed n st))
  obtain ⟨h, hh, _, _, hkind, _, _, hplaced, hstage, _⟩ := hadv _ hend
  exact ⟨h, hh, hkind, hstage, hplaced⟩

/-- After zeroisation a segment whose set has no command outstanding ends UNSEALED (R321). -/
theorem State.unsealedEnd_facts (s : State) {m : Nat} {g : Seg} (hm : s.dev.mode = .zeroized) (hon : s.segOn m = some g)
    (hseg : s.seg? g.id = some g) (hst : g.stage < 5) (hq : ∀ c ∈ s.mag.cmds, (setDrives s.magSet m).contains c.slot = false) :
    ∃ h, (s.unsealedEnd m).seg? g.id = some h ∧ h.endKind = 4 ∧ 4 ≤ h.stage ∧ h.placed = g.placed := by
  have hgo : ¬(s.dev.mode ≠ .zeroized ∨ 5 ≤ g.stage ∨ s.mag.cmds.any (fun c => (setDrives s.magSet m).contains c.slot) = true) := by
    rintro (c | c | c)
    · exact c hm
    · omega
    · obtain ⟨x, hx, hxs⟩ := List.any_eq_true.mp c
      rw [hq x hx] at hxs
      cases hxs
  unfold State.unsealedEnd
  rw [hon]
  dsimp only
  rw [if_neg hgo]
  exact s.unsealed_advance hseg _ _

/-- Settles O53: each row by the equation of its case, and what the operations it comes to leave. -/
theorem drivesFailAndMagazinesLeave : Obligations.DrivesFailAndMagazinesLeave := by
  refine ⟨?noTake, ?degrades, ?removed, ?ready, ?refuse, ?relay, ?release, ?unsealed⟩
  case noTake =>
    intro s d hs hdue hc
    obtain ⟨hdrive, _, hfail⟩ := (s.clearDue d).bayFailed_facts (bayOf d)
    refine ⟨_, (State.go_run _ _ hs : execDriveFailure d s = _), ?_⟩
    rw [s.driveFailure_noTake hdue hc]
    refine ⟨(hdrive d).trans (s.clearDue_drive d), fun hbay hd hall => hfail hbay ⟨d, mem_slotsOf_bayOf d, ?_⟩ fun e he => ?_⟩
    · rw [State.clearDue_mode, hd]
    · rw [State.clearDue_mode]
      exact hall e he
  case degrades =>
    intro s d m t hs hdue hm ht hc hr he hg ho
    exact ⟨_, (State.go_run _ _ hs : execDriveFailure d s = _), s.driveFailure_degrades hdue hm ht hc hr he hg ho⟩
  case removed =>
    intro s b hs hp hc
    obtain ⟨hbay, hevt, _⟩ := s.unplug_facts b
    obtain ⟨hgone, hkeep, _⟩ := (s.unplug b).bayGone_facts b
    refine ⟨_, (State.go_run _ _ hs : execSurprise b s = _), ?_⟩
    rw [s.surprise_noTake hp hc]
    unfold State.removed
    split
    · next hempty =>
      rw [hbay]
      exact ⟨rfl, hempty, fun h => absurd hempty h, hevt⟩
    · rw [hgone, hbay]
      exact ⟨rfl, rfl, fun _ => ⟨rfl, rfl⟩, fun h => hkeep 2 (hevt h)⟩
  case ready =>
    intro s b hs hm hr
    obtain ⟨u, hu, _, hrel, hmode, _⟩ := (s.latched b).releaseBay_facts b ((s.latched_mode b).trans hm)
    refine ⟨_, (State.go_run _ _ hs : execEjectReq b s = _), ?_⟩
    rw [s.ejectReq_ready hm hr, hu, State.bay_of (State.completeOpt_mag ..)]
    exact ⟨hrel, hmode⟩
  case refuse =>
    intro s b hs hm ha
    refine ⟨_, (State.go_run _ _ hs : execEjectReq b s = _), ?_⟩
    rw [s.ejectReq_refuse hm ha]
    refine ⟨?_, State.bayEvt_keepsBit _ 4 (s.latched_event b), State.bayEvt_bit _ b (by decide)⟩
    exact ((s.latched b).bay_setBay_self b _).trans (by rw [State.latched_bay])
  case relay =>
    intro s b hs hm ha h
    refine ⟨_, (State.go_run _ _ hs : execEjectReq b s = _), ?_⟩
    rw [s.ejectReq_relay hm ha h]
    exact ⟨by rw [State.bay_setBay_self, State.latched_bay], s.latched_event b⟩
  case release =>
    intro s b hs
    exact ⟨_, (State.go_run _ _ hs : execEjectRelease b s = _), s.bay_setBay_self b _, rfl⟩
  case unsealed =>
    intro s m g hs hm hon hseg hst hq
    exact ⟨_, (State.go_run _ _ hs : execUnsealedEnd m s = _), s.unsealedEnd_facts hm hon hseg hst hq⟩

end Sys2Proof.Machine

/-! SUPPORT. Bays and drives: insertion, bring-up, rejection, failure, SMART polls and release (R282, R287, R288, R291, R310, R311, R316,
R635). -/

namespace Sys2Proof.Machine

/-! ### Insertion and bring-up -/

/-- The magazine of a bay is present, with the bytes of its identity EEPROM. -/
def State.plugged (s : State) (b : Nat) (page : List Byte) : State := s.setBay b (fun q => { q with present := true, page := page })

theorem State.bayInsert_new (s : State) {b : Nat} (page : List Byte) (h : (s.bay b).present = false) :
    s.bayInsert b page =
      if bit (s.act Reg.BAY_CTRL b) 0 then ((s.plugged b page).bayEvt b 0).bayStart b page else s.plugged b page :=
  if_neg (by rw [h]; decide)

/-- What the start of bring-up leaves of a bay but its state: t0, and the identity page as it was read (R288). -/
def BaySt.started (q : BaySt) (clk : Nat) (page : List Byte) : BaySt :=
  { q with t0 := clk, released := false, content := 0, breason := 0, idPage := parseIdPage page, refused := false }

theorem State.bayStart_facts (s : State) (b : Nat) (page : List Byte) :
    (s.bayStart b page).bay b = { (s.bay b).started s.time.clk page with mode := .inserting }
    ∧ ∀ k, bit (s.reg Reg.BAY_EVENTS b) k = true → bit ((s.bayStart b page).reg Reg.BAY_EVENTS b) k = true := by
  have hset : ((s.setBay b (fun q => q.started s.time.clk page)).emit (.pin "MB_REFCLK" b true)).bay b = (s.bay b).started s.time.clk page :=
    s.bay_setBay_self b _
  obtain ⟨hbay, _, _, _, hevt⟩ :=
    ((s.setBay b (fun q => q.started s.time.clk page)).emit (.pin "MB_REFCLK" b true)).enterBay_facts b .inserting
  rw [hset] at hbay
  exact ⟨hbay, hevt b⟩

/-- Only a bay that is being inserted trains its drives. -/
theorem State.bayTrain_identify (s : State) {b : Nat} (h : (s.bay b).mode = .identify) : s.bayTrain b = s :=
  if_neg fun c => by
    rw [h] at c
    cases c.1

theorem State.driveLinkUp_trains (s : State) {d gen width : Nat} (hb : (s.bay (bayOf d)).mode = .identify) (hd : (s.drive d).mode = .link)
    (h : (gen = 4 ∨ gen = 5) ∧ (width = 1 ∨ width = 2 ∨ width = 4)) :
    s.driveLinkUp d gen width = s.setDrive d (fun q => { q with mode := .identify, gen := gen, width := width }) := by
  unfold State.driveLinkUp
  rw [s.bayTrain_identify hb]
  exact (if_neg (fun c => c hd)).trans (if_pos h)

theorem State.driveLinkUp_rejects (s : State) {d gen width : Nat} (hb : (s.bay (bayOf d)).mode = .identify) (hd : (s.drive d).mode = .link)
    (h : ¬((gen = 4 ∨ gen = 5) ∧ (width = 1 ∨ width = 2 ∨ width = 4))) :
    s.driveLinkUp d gen width = (s.rejectSlot d 5).bayResolve (bayOf d) := by
  unfold State.driveLinkUp
  rw [s.bayTrain_identify hb]
  exact (if_neg (fun c => c hd)).trans (if_neg h)

/-- A command other than a Write that is issued on a drive that takes commands. -/
theorem State.issue_plain (s : State) {slot : Nat} (kind : DrvKind) {op : DrvOp} (lba blocks queue : Nat) (data : List Byte)
    (hm : ¬((s.drive slot).mode = .empty ∨ (s.drive slot).mode = .failed ∨ (s.drive slot).mode = .rejected)) (hop : ∀ f, op ≠ .write f) :
    s.issue slot kind op lba blocks queue data = (s.setMag (fun m => { m with
      cmds := m.cmds ++ [{
        id := s.mag.nextCmd, slot := slot, kind := kind, op := op, lba := lba, blocks := blocks, queue := queue, data := data,
        at_ := s.time.clk }],
      nextCmd := m.nextCmd + 1 })).emit (.drive slot queue op lba blocks data) := by
  unfold State.issue
  dsimp only
  rw [if_neg hm]
  cases op
  case write f => exact absurd rfl (hop f)
  all_goals rfl

theorem State.controllerReady_identifies (s : State) {d : Nat} (hd : (s.drive d).mode = .identify) (hq : ∀ c ∈ s.mag.cmds, c.slot ≠ d) :
    s.controllerReady d = s.issue d .identify .identify 0 0 0 [] := by
  have hnone : s.mag.cmds.any (fun c => decide (c.slot = d)) = false :=
    List.any_eq_false.mpr fun c hc h => hq c hc (of_decide_eq_true h)
  exact if_pos ⟨hd, by rw [hnone]; rfl⟩

/-- The commands of a slot are abandoned. -/
def State.dropCmds (s : State) (d : Nat) : State := s.setMag (fun m => { m with cmds := m.cmds.filter (fun c => decide (c.slot ≠ d)) })

theorem State.identifyTimeout_rejects (s : State) {d : Nat} (hb : (s.bay (bayOf d)).mode = .identify)
    (ht : (s.bay (bayOf d)).t0 + msClk 10000 ≤ s.time.clk) (hd : (s.drive d).mode = .link ∨ (s.drive d).mode = .identify) :
    s.identifyTimeout d = ((s.dropCmds d).rejectSlot d 6).bayResolve (bayOf d) := by
  unfold State.identifyTimeout
  rw [s.bayTrain_identify hb]
  exact if_pos ⟨hb, ht, hd⟩

/-! ### Failure -/

/-- A working drive is declared FAILED after its cause is flagged, which stays. -/
theorem State.flagged_declareFailed (s : State) {d : Nat} (b cause : Nat) (hb : b < 32)
    (h : (s.drive d).mode = .ready ∨ (s.drive d).mode = .inUse) :
    s.driveFailed ((s.setEvt Reg.MBS_EVENTS d b).declareFailed d cause) d
      ∧ bit (((s.setEvt Reg.MBS_EVENTS d b).declareFailed d cause).reg Reg.MBS_EVENTS d) b = true := by
  obtain ⟨hfailed, hkeep⟩ := (s.setEvt Reg.MBS_EVENTS d b).declareFailed_facts d cause h
  exact ⟨hfailed, hkeep b (s.setEvt_bit _ _ _ (by decide) hb)⟩

theorem State.driveLinkDown_working (s : State) {d : Nat} (hp : (s.bay (bayOf d)).present = true)
    (h : (s.drive d).mode = .ready ∨ (s.drive d).mode = .inUse) :
    s.driveLinkDown d = (s.setEvt Reg.MBS_EVENTS d 3).declareFailed d 3 :=
  (if_neg (by rw [hp]; decide)).trans (if_pos h)

theorem State.driveLinkDown_identify (s : State) {d : Nat} (hp : (s.bay (bayOf d)).present = true) (h : (s.drive d).mode = .identify) :
    s.driveLinkDown d = ((s.dropCmds d).rejectSlot d 5).bayResolve (bayOf d) :=
  (if_neg (by rw [hp]; decide)).trans ((if_neg (by rw [h]; decide)).trans (if_pos h))

/-! ### SMART -/

/-- The critical warnings of a log that were not in the log before it. -/
def newWarns (old warn : Nat) : Nat := (BitVec.ofNat 8 warn &&& ~~~ BitVec.ofNat 8 old).toNat

theorem newWarns_testBit {old warn k : Nat} (h : warn.testBit k = false ∨ old.testBit k = true) : (newWarns old warn).testBit k = false := by
  unfold newWarns
  rw [BitVec.testBit_toNat, BitVec.getLsbD_and, BitVec.getLsbD_not, BitVec.getLsbD_ofNat, BitVec.getLsbD_ofNat]
  rcases h with h | h <;> simp [h]

/-- What a health log leaves: the warnings in the drive, and temperature and use in their registers (R291). -/
def State.smartRead (s : State) (d temp pct warn : Nat) : State :=
  (((s.emit (.drive d 0 .logPage 0 0 [])).setDrive d (fun q => { q with warn := warn % 256 })).setReg Reg.MBS_TEMP d 0
    (BitVec.ofNat 32 (temp % 65536))).setReg Reg.MBS_PCT_USED d 0 (BitVec.ofNat 32 (pct % 256))

/-- New warnings are told. -/
def State.smartTold (s : State) (d temp pct warn new : Nat) : State :=
  if new &&& 0xF7 = 0 then s
  else (s.setEvt Reg.MBS_EVENTS d 4).post 6 0x45 (target 7 d) [(16, 1, warn), (17, 1, pct), (18, 2, temp)]

/-- A poll that finds no drive newly read-only. -/
theorem State.smartPoll_eq (s : State) {d : Nat} (temp pct : Nat) {warn : Nat} (h : (s.drive d).mode = .ready ∨ (s.drive d).mode = .inUse)
    (hw : warn.testBit 3 = false ∨ (s.drive d).warn.testBit 3 = true) :
    s.smartPoll d temp pct warn = (s.smartRead d temp pct warn).smartTold d temp pct warn (newWarns (s.drive d).warn warn) := by
  have hworks : ¬((s.drive d).mode ≠ .ready ∧ (s.drive d).mode ≠ .inUse) := fun c => h.elim c.1 c.2
  have hquiet : ¬(newWarns (s.drive d).warn warn).testBit 3 = true := by
    rw [newWarns_testBit hw]
    decide
  exact (if_neg hworks).trans (if_neg hquiet)

theorem State.smartRead_facts (s : State) (d temp pct warn : Nat) :
    (s.smartRead d temp pct warn).reg Reg.MBS_TEMP d = BitVec.ofNat 32 (temp % 65536)
    ∧ (s.smartRead d temp pct warn).reg Reg.MBS_PCT_USED d = BitVec.ofNat 32 (pct % 256)
    ∧ (s.smartRead d temp pct warn).drive d = { s.drive d with warn := warn % 256 } := by
  refine ⟨?_, State.reg_setReg_self _ _ _ _ _ (by decide), s.drive_setDrive_self d (fun q => { q with warn := warn % 256 })⟩
  unfold State.smartRead
  rw [State.reg_setReg_ne _ Reg.MBS_PCT_USED Reg.MBS_TEMP d 0 d 0 _ (by decide) (Or.inr (RegRow.addr_ne d rfl rfl (by decide)))]
  exact State.reg_setReg_self _ _ _ _ _ (by decide)

/-- The telling leaves the drives and the other registers of the slot. -/
theorem State.smartTold_facts (s : State) (d temp pct warn new : Nat) :
    (∀ q : RegRow, q.win = 9 → q.s1 = 0x1000 → q.base ≠ 4 → (s.smartTold d temp pct warn new).reg q d = s.reg q d)
    ∧ (s.smartTold d temp pct warn new).drive d = s.drive d := by
  unfold State.smartTold
  split
  · exact ⟨fun _ _ _ _ => rfl, rfl⟩
  · refine ⟨fun q hw hs hb => ?_, State.drive_of (State.post_mag ..) d⟩
    rw [(State.post_postSame ..).reg q d 0 (quiet_win q d 0 (by omega) (by omega) (by omega))]
    exact s.reg_setEvt_unit q Reg.MBS_EVENTS d 4 (by decide) hw hs hb

/-! ### Release -/

theorem State.foldl_bays {α : Type} (f : State → α → State) (h : ∀ s x, (f s x).mag.bays = s.mag.bays) (l : List α) (s : State) :
    (l.foldl f s).mag.bays = s.mag.bays := by
  induction l generalizing s with
  | nil => rfl
  | cons x l ih => exact (ih _).trans (h s x)

theorem State.bay_of_bays {s t : State} (h : t.mag.bays = s.mag.bays) (b : Nat) : t.bay b = s.bay b := by
  unfold State.bay
  rw [h]

theorem State.issue_bays (s : State) (slot : Nat) (kind : DrvKind) (op : DrvOp) (lba blocks queue : Nat) (data : List Byte) :
    (s.issue slot kind op lba blocks queue data).mag.bays = s.mag.bays := by
  unfold State.issue
  dsimp only
  split
  · rfl
  · split <;> rfl

/-- The READY drives of a bay are told something. -/
theorem State.tellReady_bays (s : State) (b : Nat) (o : Nat → Out) :
    ((slotsOf b).foldl (fun s d => if (s.drive d).mode = .ready then s.emit (o d) else s) s).mag.bays = s.mag.bays :=
  State.foldl_bays _ (fun s d => by split <;> rfl) _ s

/-- A release from any state of the bay: it is READY and released, RELEASED is flagged, and the command that asked completes. -/
theorem State.releaseBay_eq (s : State) (b : Nat) : ∃ u : State, s.releaseBay b = u.completeOpt (s.bay b).ticket stDone
    ∧ u.bay b = { s.bay b with mode := .ready, released := true, releaseDue := false, ticket := none }
    ∧ bit (u.reg Reg.BAY_EVENTS b) 5 = true := by
  have htell := State.bay_of_bays (s.tellReady_bays b (fun d => .drive d 0 .deleteQueues 0 0 [])) b
  unfold State.releaseBay
  dsimp only
  generalize (slotsOf b).foldl (fun s d => if (s.drive d).mode = .ready then s.emit (.drive d 0 .deleteQueues 0 0 []) else s) s = v
    at htell ⊢
  have hset := (v.holdBay b).bay_setBay_self b (fun q => { q with released := true, releaseDue := false, ticket := none })
  rw [State.bay_of (v.holdBay_facts b).1, htell] at hset
  rw [htell]
  generalize (v.holdBay b).setBay b (fun q => { q with released := true, releaseDue := false, ticket := none }) = w at hset ⊢
  obtain ⟨hbay, _, _, _, hevt⟩ := (w.bayEvt b 5).enterBay_facts b .ready
  refine ⟨_, rfl, hbay.trans ?_, hevt b 5 (w.bayEvt_bit b (by decide))⟩
  rw [State.bayEvt_bay, hset]

theorem State.noCmds {s : State} {b : Nat} (h : ∀ c ∈ s.mag.cmds, bayOf c.slot ≠ b) :
    s.mag.cmds.any (fun c => decide (bayOf c.slot = b)) = false :=
  List.any_eq_false.mpr fun c hc e => h c hc (of_decide_eq_true e)

/-- A CLOSING bay without commands flushes its drives first (R310). -/
theorem State.bayRelease_flush (s : State) {b : Nat} (hm : (s.bay b).mode = .closing) (hq : ∀ c ∈ s.mag.cmds, bayOf c.slot ≠ b)
    (h0 : (s.bay b).closingAt = 0) : (s.bayRelease b).bay b = { s.bay b with closingAt := 1 } := by
  have heq : s.bayRelease b = (slotsOf b).foldl (fun s d => s.issue d .release .flush 0 0 4 []) (s.setBay b (fun q => { q with closingAt := 1 })) :=
    (if_neg (by rw [hm, State.noCmds hq]; decide)).trans (if_pos h0)
  rw [heq, State.bay_of_bays (State.foldl_bays _ (fun s d => s.issue_bays ..) _ _), State.bay_setBay_self]

/-- Once the flushes have completed it shuts its drives down and is released (R310, R635). -/
theorem State.bayRelease_done (s : State) {b : Nat} (hm : (s.bay b).mode = .closing) (hq : ∀ c ∈ s.mag.cmds, bayOf c.slot ≠ b)
    (h0 : (s.bay b).closingAt ≠ 0) :
    (s.bayRelease b).bay b = { s.bay b with mode := .ready, released := true, releaseDue := false, ticket := none, closingAt := 0 }
    ∧ bit ((s.bayRelease b).reg Reg.BAY_EVENTS b) 5 = true := by
  have htell := State.bay_of_bays (s.tellReady_bays b (fun d => .drive d 0 .shutdown 0 0 [])) b
  have heq : s.bayRelease b = (((slotsOf b).foldl (fun s d => if (s.drive d).mode = .ready then s.emit (.drive d 0 .shutdown 0 0 []) else s)
      s).setBay b (fun q => { q with closingAt := 0 })).releaseBay b :=
    (if_neg (by rw [hm, State.noCmds hq]; decide)).trans (if_neg h0)
  rw [heq]
  generalize (slotsOf b).foldl (fun s d => if (s.drive d).mode = .ready then s.emit (.drive d 0 .shutdown 0 0 []) else s) s = v at htell ⊢
  obtain ⟨u, hu, hbay, hevt⟩ := (v.setBay b (fun q => { q with closingAt := 0 })).releaseBay_eq b
  rw [hu, State.bay_of (State.completeOpt_mag ..), State.completeOpt_bayEvents, hbay, State.bay_setBay_self, htell]
  exact ⟨rfl, hevt⟩

/-- Settles O37: each row by the equation of its case, and what the operations it comes to leave of bay, drive and events. -/
theorem baysAndDrives : Obligations.BaysAndDrives := by
  refine ⟨?insert, ?link, ?ready, ?unresolved, ?timeout, ?down, ?fatal, ?smart, ?release⟩
  case insert =>
    intro s b page hs hp _
    have hplug := s.bay_setBay_self b (fun q => { q with present := true, page := page })
    obtain ⟨hbay, hevt⟩ := ((s.plugged b page).bayEvt b 0).bayStart_facts b page
    rw [State.bayEvt_bay, show (s.plugged b page).bay b = _ from hplug] at hbay
    refine ⟨_, (State.go_run _ _ hs : execBayInsert b page s = _), ?_⟩
    rw [s.bayInsert_new page hp]
    cases hc : bit (s.act Reg.BAY_CTRL b) 0
    · rw [if_neg Bool.false_ne_true, show (s.plugged b page).bay b = _ from hplug]
      exact ⟨rfl, rfl, fun h => absurd h Bool.false_ne_true, fun _ => rfl⟩
    · rw [if_pos rfl, hbay]
      exact ⟨rfl, rfl, fun _ => ⟨rfl, rfl, rfl, hevt 0 (State.bayEvt_bit _ b (by decide))⟩, fun h => absurd h.symm Bool.false_ne_true⟩
  case link =>
    intro s d gen width hs hb hd
    refine ⟨_, (State.go_run _ _ hs : execDriveLinkUp d gen width s = _), fun hgen hwidth => ?_, fun h => ?_⟩
    · rw [s.driveLinkUp_trains hb hd ⟨hgen, hwidth⟩, State.drive_setDrive_self]
      exact ⟨rfl, rfl, rfl⟩
    · rw [s.driveLinkUp_rejects hb hd h]
      obtain ⟨hmode, hreason, _⟩ := s.reject_resolve d 5 (bayOf d)
      exact ⟨hmode, hreason⟩
  case ready =>
    intro s d hs hd hq
    refine ⟨_, (State.go_run _ _ hs : execControllerReady d s = _), ?_⟩
    rw [s.controllerReady_identifies hd hq, s.issue_plain _ _ _ _ _ (by rw [hd]; decide) (fun _ => DrvOp.noConfusion)]
    exact ⟨rfl, rfl⟩
  case unresolved =>
    intro s d hs hb ht hd
    refine ⟨_, (State.go_run _ _ hs : execIdentifyTimeout d s = _), ?_⟩
    rw [s.identifyTimeout_rejects hb ht hd]
    exact (s.dropCmds d).reject_resolve d 6 (bayOf d)
  case timeout =>
    intro s d hs hd hc
    refine ⟨_, (State.go_run _ _ hs : execDriveCommandTimeout d s = _), ?_⟩
    rw [show s.cmdTimeout d = _ from if_pos hc]
    exact s.flagged_declareFailed 2 1 (by decide) hd
  case down =>
    intro s d hs hp
    refine ⟨_, (State.go_run _ _ hs : execDriveLinkDown d s = _), fun hd => ?_, fun hd => ?_⟩
    · rw [s.driveLinkDown_working hp hd]
      exact s.flagged_declareFailed 3 3 (by decide) hd
    · rw [s.driveLinkDown_identify hp hd]
      obtain ⟨hmode, hreason, _⟩ := (s.dropCmds d).reject_resolve d 5 (bayOf d)
      exact ⟨hmode, hreason⟩
  case fatal =>
    intro s d hs hd
    exact ⟨_, (State.go_run _ _ hs : execControllerFatalStatus d s = _), (s.declareFailed_facts d 2 hd).1⟩
  case smart =>
    intro s d temp pct warn hs hd hw
    obtain ⟨hregs, hdrive⟩ := (s.smartRead d temp pct warn).smartTold_facts d temp pct warn (newWarns (s.drive d).warn warn)
    obtain ⟨htemp, hpct, hread⟩ := s.smartRead_facts d temp pct warn
    refine ⟨_, (State.go_run _ _ hs : execSmartPoll d temp pct warn s = _), ?_⟩
    rw [s.smartPoll_eq temp pct hd hw, hregs _ rfl rfl (by decide), hregs _ rfl rfl (by decide), hdrive, hread]
    exact ⟨htemp, hpct, rfl, rfl⟩
  case release =>
    intro s b hs hm hq
    refine ⟨_, (State.go_run _ _ hs : execBayRelease b s = _), fun h0 => ?_, fun h0 => ?_⟩
    · rw [s.bayRelease_flush hm hq h0]
      exact ⟨hm, rfl⟩
    · obtain ⟨hbay, hevt⟩ := s.bayRelease_done hm hq h0
      rw [hbay]
      exact ⟨rfl, rfl, rfl, rfl, hevt⟩

end Sys2Proof.Machine

/-! SUPPORT. Recording: the placement of a frame, chunks, checkpoints, the ends of segments and takes, and the boundary of a planned relay
(R297, R299, R300, R304, R305, R309). -/

namespace Sys2Proof.Machine

/-! ### FRAME_PLACE -/

/-- A segment's set has the claims for `n` blocks more (R297, R346). -/
def State.roomFor (s : State) (g : Seg) (n : Nat) : Prop :=
  ceilDiv (g.pos + n) (claimBlocks s.magSet g.set) ≤ ceilDiv g.pos (claimBlocks s.magSet g.set)
    ∨ (s.setExhausted g.set = false ∧ (if g.opened then g.firstClaim else s.setUsed g.set)
        + ceilDiv (g.pos + n) (claimBlocks s.magSet g.set) ≤ s.setClaims g.set)

/-- The segment is open on its set when its first frame comes (R304). -/
def State.segReady (s : State) (g : Seg) : State := if g.opened then s else s.openSeg g.id

theorem State.segReady_facts (s : State) {g : Seg} (h : s.seg? g.id = some g) :
    (∃ k, (s.segReady g).seg? g.id = some k ∧ k.id = g.id ∧ k.opened = true ∧ k.placed = g.placed ∧ k.pos = g.pos)
      ∧ (s.segReady g).store = s.store := by
  unfold State.segReady
  split
  · next ho => exact ⟨⟨g, h, rfl, ho, rfl, rfl⟩, rfl⟩
  · exact State.openSeg_facts h

/-- The next frame of a rig, whose set works and has room, goes into its segment. -/
theorem State.framePlace_next (s : State) {r : Nat} {t : Take} {f : FrameSt} {g : Seg} (hm : s.dev.mode = .operational)
    (hnext : (s.recTakes r).findSome? (fun t => if (s.rec_ t.id).emerg.isSome then none else (s.placeable t).map (fun f => (t, f)))
      = some (t, f))
    (hseg : s.segFor t.id f.frame = some g) (hfail : s.setFailing g.set = false)
    (hroom : s.roomFor g (1 + ceilDiv (frameBytes f.latch f.stream) 4096)) :
    s.framePlace r = (s.segReady g).placeIn (((s.segReady g).seg? g.id).getD g) f := by
  have hhas : (decide (ceilDiv (g.pos + 1 + ceilDiv (frameBytes f.latch f.stream) 4096) (claimBlocks s.magSet g.set)
        ≤ ceilDiv g.pos (claimBlocks s.magSet g.set))
      || (!s.setExhausted g.set && decide ((if g.opened then g.firstClaim else s.setUsed g.set)
        + ceilDiv (g.pos + 1 + ceilDiv (frameBytes f.latch f.stream) 4096) (claimBlocks s.magSet g.set) ≤ s.setClaims g.set))) = true := by
    rw [Nat.add_assoc, Bool.or_eq_true, Bool.and_eq_true, decide_eq_true_eq, decide_eq_true_eq, Bool.not_eq_true']
    exact hroom
  unfold State.framePlace
  rw [if_neg (fun c => c hm), hnext]
  dsimp only
  rw [hseg]
  dsimp only
  rw [if_neg (by rw [hfail]; decide), if_neg (by rw [hhas]; decide)]
  rfl

/-! ### CHUNK_WRITE and CHECKPOINT -/

/-- The chunk is one of a checkpoint, or it is full or aged. -/
theorem State.chunkWrite_open (s : State) {m : Nat} {g : Seg} (hm : s.dev.mode = .operational) (hon : s.segOn m = some g)
    (hst : g.stage = 0) (hend : g.endKind ≠ 3) (hfail : s.setFailing m = false)
    (h : g.ckpt = 1 ∨ (256 - g.written % 256 ≤ g.pos - g.written ∨ s.chunkAged g = true)) :
    s.chunkWrite m = (s.writePiece g.id (decide (g.ckpt = 1 ∨ g.stage = 1 ∨ g.stage = 4))).getD s := by
  unfold State.chunkWrite
  rw [hon]
  refine if_pos ⟨hm, Or.inl (by omega), hend, by rw [hfail]; rfl, ?_⟩
  rcases h with h | h | h
  · exact Or.inr (Or.inr (Or.inl h))
  · exact Or.inl (decide_eq_true h)
  · exact Or.inr (Or.inl h)

/-- The pad run of a checkpoint, and the position that its data reach. -/
def State.ckptBegun (s : State) (id : Nat) : State :=
  (s.appendPad id).setSeg id (fun g => { g with ckpt := 1, ckptTo := g.pos, ckptTick := s.time.tickNum })

theorem State.ckptBegun_facts (s : State) {id : Nat} {g : Seg} (h : s.seg? id = some g) :
    ∃ k, (s.ckptBegun id).seg? id = some k ∧ k.ckptTick = s.time.tickNum ∧ k.ckptTo = k.pos ∧ g.pos ≤ k.pos ∧ k.stage = g.stage
      ∧ k.placed = g.placed := by
  obtain ⟨k, hk, _, _, hplaced, hpos, hstage, _⟩ := State.appendPad_grow h
  exact ⟨_, State.seg?_setSeg_self _ (fun _ hx => hx) hk, rfl, rfl, hpos, hstage, hplaced⟩

theorem State.appendPad_time (s : State) (id : Nat) : (s.appendPad id).time = s.time := (s.appendPad_keeps id).same .time rfl

theorem State.checkpoint_due (s : State) {m : Nat} {g : Seg} (hm : s.dev.mode = .operational) (hon : s.segOn m = some g)
    (hst : g.stage = 0) (hck : g.ckpt = 0) (hfail : s.setFailing m = false) (hdue : s.ckptDue g = true) :
    s.checkpoint m = (s.ckptBegun g.id).segAdvance g.id 8 := by
  have hgo : ¬(g.stage ≠ 0 ∨ g.ckpt ≠ 0 ∨ (!s.ckptDue g) = true ∨ s.dev.mode ≠ .operational ∨ s.setFailing m = true) := by
    simp [hst, hck, hdue, hm, hfail]
  unfold State.checkpoint State.ckptBegun
  rw [hon]
  dsimp only
  rw [if_neg hgo, State.appendPad_time]

/-! ### The ends of segments and takes -/

/-- The old segment of a relay with no frame below its bound left to write ends with kind 2 (R309). -/
theorem State.segmentClose_written (s : State) {m : Nat} {g : Seg} {t : Take} (hm : s.dev.mode = .operational)
    (hold : s.mag.segs.find? (fun g => decide (g.set = m) && decide (g.stage = 0) && g.below.isSome) = some g)
    (ht : s.take? g.take = some t)
    (hframes : ∀ f ∈ s.store.frames, (s.rec_ g.take).owes g.take f = true → g.below.getD 0 ≤ f.frame)
    (hfirst : ∀ n, s.firstUnwritten t = some n → g.below.getD 0 ≤ n) (hck : g.ckpt = 0) (hfail : s.setFailing m = false) :
    s.segmentClose m = s.segEnd g.id 2 false := by
  have hany : s.store.frames.any (fun f => (s.rec_ g.take).owes g.take f && decide (f.frame < g.below.getD 0)) = false :=
    List.any_eq_false.mpr fun f hf c => by
      rw [Bool.and_eq_true, decide_eq_true_eq] at c
      exact absurd (hframes f hf c.1) (Nat.not_le.mpr c.2)
  unfold State.segmentClose
  rw [hold]
  dsimp only
  rw [ht]
  dsimp only
  rw [hany]
  refine if_neg ?_
  rintro (c | c | c | c)
  · cases hn : s.firstUnwritten t with
    | none => rw [hn] at c; cases c
    | some n =>
      rw [hn] at c
      have := hfirst n hn
      have := of_decide_eq_true c
      omega
  · exact c hck
  · exact c hm
  · rw [hfail] at c
    cases c

/-- The record of a take says that its last segment ends. -/
def State.recClosed (s : State) (tid : Nat) : State := s.setRec tid (fun q => { q with closed := true })

theorem State.noSegOf (s : State) {tid : Nat} {p : Seg → Bool} (h : ∀ g ∈ s.mag.segs, g.take = tid → p g = false) :
    (s.mag.segs.filter (fun g => decide (g.take = tid))).any p = false :=
  List.any_eq_false.mpr fun g hg => by
    obtain ⟨hmem, htake⟩ := List.mem_filter.mp hg
    rw [h g hmem (of_decide_eq_true htake)]
    exact Bool.false_ne_true

/-- Nothing of an ended take is left to write or to place, and no segment of it but the last is open (R305). -/
theorem State.takeClose_last (s : State) {r id : Nat} {t : Take} (hm : s.dev.mode = .operational)
    (hfind : (s.recTakes r).find? (fun t => t.last.isSome && !(s.rec_ t.id).closed) = some t)
    (hmore : (s.timer r).running = false ∨ t.last.getD 0 < (s.timer r).next ∨ s.rigMode r = .idle)
    (howed : ∀ f ∈ s.store.frames, (s.rec_ t.id).owes t.id f = false) (hfirst : s.firstUnwritten t = none)
    (hrelay : (s.rec_ t.id).relay = none) (hemerg : (s.rec_ t.id).emerg = none) (hseg : (s.rec_ t.id).seg = some id)
    (hsegs : ∀ g ∈ s.mag.segs, g.take = t.id → g.ckpt = 0 ∧ s.setFailing g.set = false ∧ (7 ≤ g.stage ∨ g.id = id)) :
    s.takeClose r = (s.recClosed t.id).segEnd id 1 true := by
  have hno : ∀ p : Seg → Bool, (∀ g : Seg, g.ckpt = 0 ∧ s.setFailing g.set = false ∧ (7 ≤ g.stage ∨ g.id = id) → p g = false) →
      (s.mag.segs.filter (fun g => decide (g.take = t.id))).any p = false := fun p hp => s.noSegOf fun g hg ht => hp g (hsegs g hg ht)
  have htimer : ((s.timer r).running && decide ((s.timer r).next ≤ t.last.getD 0) && decide (s.rigMode r ≠ .idle)) = false := by
    rcases hmore with h | h | h
    · rw [h]; rfl
    · rw [decide_eq_false (Nat.not_le.mpr h), Bool.and_false]; rfl
    · simp [h]
  have hheld : s.store.frames.any (fun f => (s.rec_ t.id).owes t.id f) = false :=
    List.any_eq_false.mpr fun f hf c => by
      rw [howed f hf] at c
      cases c
  have holder := hno (fun g => decide (g.stage < 7) && decide (some g.id ≠ (s.rec_ t.id).seg)) fun g hg => by
    rw [hseg]
    rcases hg.2.2 with h | h
    · rw [decide_eq_false (Nat.not_lt.mpr h)]; rfl
    · simp [h]
  have hckpt := hno (fun g => decide (g.ckpt ≠ 0)) fun g hg => decide_eq_false fun c => c hg.1
  have hfailing := hno (fun g => s.setFailing g.set) fun g hg => hg.2.1
  unfold State.takeClose
  rw [hfind]
  dsimp only
  rw [if_neg (by rw [htimer, hheld, hfirst, holder, hckpt, hrelay, hemerg, hfailing]; simp [hm]), hseg]
  rfl

/-! ### RELAY_BOUNDARY -/

/-- The relay of a take at its boundary: the old segment is bounded by frame `n`, and the take enters the new one (R309). -/
def State.relayed (s : State) (t : Take) (x : Relay) (id n : Nat) : State :=
  ((s.setSeg id (fun g => { g with below := some n, nextSet := s.setUuid x.set })).setRec t.id (fun q => { q with relay := none })).enterSeg
    t.id x.set (some x.entry) n (s.setUuid ((s.rec_ t.id).set.getD 0xF))

theorem State.relayBoundary_due (s : State) {r id : Nat} {t : Take} {x : Relay} (hrec : s.recTakes r = [t])
    (hrelay : (s.rec_ t.id).relay = some x) (htick : x.tick ≤ s.time.tickNum) (hend : s.takeEndDue r = false)
    (hseg : (s.rec_ t.id).seg = some id) :
    (s.relayBoundary r).mag = (s.relayed t x id (s.firstAt r (s.time.tickStart / 2 ^ 32 : Nat))).mag := by
  have hgo : ¬(s.time.tickNum < x.tick ∨ (!(s.rec_ t.id).offload && s.takeEndDue r) = true) := by
    rw [hend, Bool.and_false]
    rintro (c | c)
    · omega
    · cases c
  unfold State.relayBoundary
  rw [hrec, List.foldl_cons, List.foldl_nil]
  dsimp only
  rw [hrelay]
  dsimp only
  rw [if_neg hgo, hseg]
  exact ((State.postRelay_keeps ..).same .mag rfl).trans ((State.completeOpt_keeps ..).same .mag rfl)

theorem State.relayed_facts (s : State) {t : Take} {x : Relay} {id : Nat} {g : Seg} (n : Nat) (hg : s.seg? id = some g)
    (hfresh : ∀ g ∈ s.mag.segs, g.id ≠ s.mag.nextSeg) :
    ((s.relayed t x id n).rec_ t.id).relay = none ∧ ((s.relayed t x id n).rec_ t.id).set = some x.set
      ∧ ((s.relayed t x id n).rec_ t.id).seg = some s.mag.nextSeg
      ∧ (s.relayed t x id n).seg? id = some { g with below := some n, nextSet := s.setUuid x.set }
      ∧ ∃ h, (s.relayed t x id n).seg? s.mag.nextSeg = some h ∧ h.take = t.id ∧ h.set = x.set ∧ h.number = (s.rec_ t.id).nextSeg
        ∧ h.from_ = n := by
  unfold State.relayed
  generalize hu : (s.setSeg id (fun g => { g with below := some n, nextSet := s.setUuid x.set })).setRec t.id
    (fun q => { q with relay := none }) = u
  have hbound : u.seg? id = some { g with below := some n, nextSet := s.setUuid x.set } := by
    rw [← hu]
    exact State.seg?_setSeg_self _ (fun _ hx => hx) hg
  have hrec : u.rec_ t.id = { s.rec_ t.id with relay := none } := by
    rw [← hu, State.rec_setRec]
    rfl
  have hnext : u.mag.nextSeg = s.mag.nextSeg := by rw [← hu]; rfl
  have hids : ∀ g ∈ u.mag.segs, g.id ≠ u.mag.nextSeg := by
    rw [hnext, ← hu]
    intro k hk
    obtain ⟨y, hy, rfl⟩ := List.mem_map.mp hk
    split <;> exact hfresh y hy
  clear hu
  obtain ⟨⟨h, hh, htake, hset, hnum, hfrom⟩, hkeep, hrel, hrset, hrseg⟩ :=
    u.enterSeg_facts t.id x.set (some x.entry) n (s.setUuid ((s.rec_ t.id).set.getD 0xF)) hids
  rw [hnext] at hh hrseg
  rw [hrec] at hnum hrel
  exact ⟨hrel, hrset, hrseg, hkeep id _ hbound, h, hh, htake, hset, hnum, hfrom⟩

/-- Settles O52: each row by the equation of its case, and what the operations it comes to leave of the segment. The Writes of a
checkpoint and of a segment's end need no job (log entries 82 and 139). -/
theorem recordingAdvances : Obligations.RecordingAdvances := by
  refine ⟨?place, ?chunk, ?checkpoint, ?close, ?takeClose, ?relay⟩
  case place =>
    intro s r n t f g hs hm hnext hfor hseg hfail hf hn hroom
    subst hn
    obtain ⟨⟨k, hk, hid, hopen, hplaced, hpos⟩, hstore⟩ := s.segReady_facts hseg
    have hf' : (s.segReady g).frame? f.id = some f := (State.frame?_store hstore f.id).trans hf
    refine ⟨_, (State.go_run _ _ hs : execFramePlace r s = _), ?_⟩
    rw [s.framePlace_next hm hnext hfor hfail hroom, hk, Option.getD_some]
    obtain ⟨hframe, g', p, hg', hopen', hplaced', hpid, hpframe, hpstream, hppos, hpblocks, hend⟩ :=
      State.placeIn_facts (hid ▸ hk) hf'
    rw [hid] at hg'
    refine ⟨hframe, g', p, hg', hopen'.trans hopen, hplaced ▸ hplaced', hpid, hpframe, hpstream, hppos.trans hpos, hpblocks, fun hr => ?_⟩
    rw [← hpblocks, ← hpos]
    exact hend hr
  case chunk =>
    intro s m lba n ds g hs hm hon hseg hst hend hfail hpiece hn hout hgo
    have hforce : decide (g.ckpt = 1 ∨ g.stage = 1 ∨ g.stage = 4) = true ∨ ∀ d ∈ ds, n ≤ s.granted g d n :=
      hgo.imp (fun h => decide_eq_true (Or.inl h)) And.right
    obtain ⟨t, g', ht, hg', hwritten, htail, hpos, hplaced⟩ := State.writePiece_some hseg hpiece hn hout hforce
    refine ⟨_, (State.go_run _ _ hs : execChunkWrite m s = _), ?_⟩
    rw [s.chunkWrite_open hm hon hst hend hfail (hgo.imp_right And.left), ht]
    exact ⟨g', hg', hwritten, htail, hpos, hplaced⟩
  case checkpoint =>
    intro s m g hs hm hon hseg hst hck hfail hdue
    obtain ⟨k, hk, htick, hto, hpos, hstage, hplaced⟩ := s.ckptBegun_facts hseg
    obtain ⟨_, _, hadv⟩ := State.segAdvance_facts g.id 8 (s.ckptBegun g.id)
    obtain ⟨g', hg', _, _, _, _, htick', hplaced', _, hopen⟩ := hadv k hk
    obtain ⟨hstage', hto', hpos'⟩ := hopen (hstage.trans hst)
    refine ⟨_, (State.go_run _ _ hs : execCheckpoint m s = _), ?_⟩
    rw [s.checkpoint_due hm hon hst hck hfail (decide_eq_true hdue)]
    exact ⟨g', hg', htick'.trans htick, hto'.trans (hto.trans hpos'.symm), hpos'.symm ▸ hpos, hstage', hplaced'.trans hplaced⟩
  case close =>
    intro s m g t hs hm hold hseg ht hframes hfirst hck hfail
    obtain ⟨⟨g', hg', hkind, _, hstage, hplaced⟩, _⟩ := State.segEnd_facts hseg 2 false
    refine ⟨_, (State.go_run _ _ hs : execSegmentClose m s = _), ?_⟩
    rw [s.segmentClose_written hm hold ht hframes hfirst hck hfail]
    exact ⟨g', hg', hkind, hstage, hplaced⟩
  case takeClose =>
    intro s r id t g hs hm hfind hmore howed hfirst hrelay hemerg hrseg hseg hsegs
    have hseg' : (s.recClosed t.id).seg? id = some g := hseg
    obtain ⟨⟨g', hg', hkind, hlast, hstage, _⟩, hrecs⟩ := State.segEnd_facts hseg' 1 true
    refine ⟨_, (State.go_run _ _ hs : execTakeClose r s = _), ?_⟩
    rw [s.takeClose_last hm hfind hmore howed hfirst hrelay hemerg hrseg hsegs]
    refine ⟨?_, g', hg', hkind, hlast, hstage⟩
    unfold State.rec_
    rw [hrecs]
    exact congrArg RecSt.closed (s.rec_setRec t.id (fun q => { q with closed := true }))
  case relay =>
    intro s r n id t x g hs hrec hrelay htick hend hrseg hseg hfresh hn
    subst hn
    have hmag := s.relayBoundary_due hrec hrelay htick hend hrseg
    refine ⟨_, (State.go_run _ _ hs : execRelayBoundary r s = _), ?_⟩
    rw [State.rec_of (MagRest.of hmag), State.seg?_of (MagRest.of hmag), State.seg?_of (MagRest.of hmag)]
    exact s.relayed_facts _ hseg hfresh

end Sys2Proof.Machine

/-! SUPPORT. The magazine commands that their checks let through, and the completion of a drive command (R291, R293, R294, R303, R308,
R310, R316, R323, R330, R350, R412, R635). -/

namespace Sys2Proof.Machine

/-! ### Checks -/

theorem State.any_notReady_bay {s : State} {l : List Nat} (h : ∀ b ∈ l, (s.bay b).mode = .ready) :
    l.any (fun b => (s.bay b).mode ≠ .ready) = false :=
  List.any_eq_false.mpr fun b hb c => of_decide_eq_true c (h b hb)

theorem State.any_notReady_drive {s : State} {l : List Nat} (h : ∀ k ∈ l, (s.drive k).mode = .ready) :
    l.any (fun k => (s.drive k).mode ≠ .ready) = false :=
  List.any_eq_false.mpr fun k hk c => of_decide_eq_true c (h k hk)

theorem SlotMode.works_of {m : SlotMode} (h : m = .ready ∨ m = .inUse) : m.works = true := by
  rcases h with h | h <;> rw [h] <;> rfl

/-- A command in STANDBY or OPERATIONAL that passes the checks of R405 comes to those of its own. -/
theorem State.magCheck_none {s : State} {d : Desc} {tOk : Bool} {used : List (Nat × Nat)} {operands issuer : Bool} {own : Unit → Refuse}
    (hst : structOk d tOk used false = true) (ho : operands = true) (hi : issuer = true)
    (hm : s.dev.mode = .standby ∨ s.dev.mode = .operational) (h : own () = none) :
    ((s.take d).check405 d (structOk d tOk used false) operands issuer ((s.take d).modeIn [.standby, .operational]) none).orElse own
      = none := by
  rw [State.check405_none _ d hst ho hi (s.modes2 d hm)]
  exact h

theorem State.refuseIf_false (s : State) {b : Bool} (h : b = false) : s.refuseIf b = none := by rw [h]; rfl

/-! ### Jobs and the commands that they issue -/

/-- Drive commands issued after a descriptor was taken leave the magazine commands and free values; the descriptor is owed. -/
theorem State.issues_owed (s : State) (d : Desc) {u : State} {α : Type} (f : State → α → State) (l : List α)
    (hf : ∀ s x, (f s x).mag.jobs = s.mag.jobs ∧ (f s x).mag.nextJob = s.mag.nextJob ∧ (f s x).rings = s.rings ∧ (f s x).free = s.free)
    (hu : u.rings = (s.take d).rings) :
    (l.foldl f u).mag.jobs = u.mag.jobs ∧ (l.foldl f u).free = u.free ∧ s.owed (l.foldl f u) d := by
  obtain ⟨hjobs, _, hrings, hfree⟩ := State.issues_facts f l hf u
  exact ⟨hjobs, hfree, s.owed_of _ d (RingSame.of (hrings.trans hu))⟩

/-! ### Relays -/

theorem State.startRelay_ok {s : State} {t : Take} {m e : Nat} {new : List Resv} (reason : Nat) (k : Option Ticket)
    (h : s.chooseSet t (s.rec_ t.id) = .ok (m, e, new)) :
    s.startRelay t reason k = .ok ((s.addResvs new (s.time.tickNum + 2)).setRec t.id (fun q => { q with
      relay := some { reason := reason, set := m, entry := e, tick := s.time.tickNum + 2, ticket := k } })) := by
  unfold State.startRelay
  rw [h]

section Commands
variable {s : State} {d : Desc} (ht : s.takesCmd d)
include ht

/-! ### MAG_RELEASE -/

theorem State.magRelease_ready (hst : structOk d (tIs d 5 4) [] false = true) (hi : s.isSteward d = true) (hboot : s.dev.mode ≠ .boot)
    (hm : (s.bay (tIndex d)).mode = .ready) (hr : (s.bay (tIndex d)).released = false) (hj : ∀ j ∈ s.mag.jobs, tIndex d ∉ s.jobBays j) :
    s.magRelease d = ((s.take d).setBay (tIndex d)
      (fun q => { q with ticket := some { ticketOf d 0x50 with gen := (s.ring d.ring).gen } })).releaseBay (tIndex d) := by
  obtain ⟨_, htk, hk⟩ := ht
  have hmode : (s.take d).modeIn [.provision, .standby, .operational, .zeroized] = true := by
    show List.contains [DevMode.provision, .standby, .operational, .zeroized] s.dev.mode = true
    cases h : s.dev.mode
    case boot => exact absurd h hboot
    all_goals rfl
  have hjobs : s.mag.jobs.any (fun j => (s.jobBays j).contains (tIndex d)) = false :=
    List.any_eq_false.mpr fun j hmem c => hj j hmem (List.contains_iff_mem.mp c)
  have hbay : ((s.take d).bay (tIndex d)).mode = .ready := hm
  unfold State.magRelease
  refine (State.runCmd_run s d 0x50 _ _ htk hk ?_).trans ?_
  · rw [State.check405_none _ d hst rfl (show (s.take d).isSteward d = true from hi) hmode]
    dsimp only
    rw [hbay]
    exact State.refuseIf_false _ hjobs
  · rw [hbay]
    exact if_neg (by rw [show ((s.take d).bay (tIndex d)).released = false from hr]; decide)

/-! ### MAG_FORMAT, MAG_SANITIZE and MAG_REPAIR -/

theorem State.magFormat_starts (hst : structOk d (tIs d 6 8) [] false = true) (hi : s.isSteward d = true)
    (hm : s.dev.mode = .standby ∨ s.dev.mode = .operational) (hheld : s.magHeld (setBays s.magSet (tIndex d)) = false)
    (hset : s.magSet.bit Reg.MSET_CTRL (tIndex d) 0 = true) (hbays : ∀ b ∈ setBays s.magSet (tIndex d), (s.bay b).mode = .ready)
    (hdrives : ∀ k ∈ setDrives s.magSet (tIndex d), (s.drive k).mode = .ready) (hrng : s.sec.drbgBlocked = false) :
    (s.magFormat d).mag.jobs = s.mag.jobs ++ [{
        id := s.mag.nextJob, opcode := 0x51, target := tIndex d, ticket := { ticketOf d 0x51 with gen := (s.ring d.ring).gen },
        uuid := s.freeNat 128 }]
      ∧ (s.magFormat d).free = s.free + 1 ∧ s.owed (s.magFormat d) d := by
  obtain ⟨_, htk, hk⟩ := ht
  have hbusy : (s.magHeld (setBays s.magSet (tIndex d)) || !s.magSet.bit Reg.MSET_CTRL (tIndex d) 0
      || (setBays s.magSet (tIndex d)).any (fun b => (s.bay b).mode ≠ .ready)
      || (setDrives s.magSet (tIndex d)).any (fun k => (s.drive k).mode ≠ .ready)) = false := by
    rw [hheld, hset, State.any_notReady_bay hbays, State.any_notReady_drive hdrives]
    rfl
  unfold State.magFormat
  rw [State.runCmd_run s d 0x51 _ _ htk hk (State.magCheck_none hst rfl hi hm
    ((if_neg (Bool.eq_false_iff.mp hbusy)).trans (if_neg (Bool.eq_false_iff.mp hrng))))]
  exact s.issues_owed d _ _ (fun s x => by
    obtain ⟨hjobs, hnext, hrings, hfree⟩ := State.issue_facts s x (.job _) .writeZeroes 16 262144 4 []
    obtain ⟨hjobs', hnext', hrings', hfree'⟩ := State.issue_facts (s.issue x (.job _) .writeZeroes 16 262144 4 []) x (.job _) .writeZeroes
      262160 131072 4 []
    exact ⟨hjobs'.trans hjobs, hnext'.trans hnext, hrings'.trans hrings, hfree'.trans hfree⟩) rfl

theorem State.magSanitize_starts (hst : structOk d (tIs d 5 4) [] false = true) (hi : s.isSteward d = true)
    (hm : s.dev.mode = .standby ∨ s.dev.mode = .operational) (hheld : s.magHeld [tIndex d] = false) (hbay : (s.bay (tIndex d)).mode = .ready) :
    (s.magSanitize d).mag.jobs = s.mag.jobs ++ [{
        id := s.mag.nextJob, opcode := 0x53, target := tIndex d, ticket := { ticketOf d 0x53 with gen := (s.ring d.ring).gen } }]
      ∧ (s.magSanitize d).free = s.free ∧ s.owed (s.magSanitize d) d := by
  obtain ⟨_, htk, hk⟩ := ht
  have hbusy : (s.magHeld [tIndex d] || decide ((s.bay (tIndex d)).mode ≠ .ready)) = false := by
    rw [hheld, hbay]
    rfl
  unfold State.magSanitize
  rw [State.runCmd_run s d 0x53 _ _ htk hk (State.magCheck_none hst rfl hi hm (State.refuseIf_false _ hbusy))]
  exact s.issues_owed d _ _ (fun s x => State.issue_facts ..) rfl

theorem State.magRepair_starts (hst : structOk d (tIs d 5 4) [] false = true) (hi : s.isSteward d = true)
    (hm : s.dev.mode = .standby ∨ s.dev.mode = .operational) (hheld : s.magHeld [tIndex d] = false) (hbay : (s.bay (tIndex d)).mode = .ready)
    (hcontent : (s.bay (tIndex d)).content = 3) (hread : s.readable (tIndex d) = true) :
    (s.magRepair d).mag.jobs = s.mag.jobs ++ [{
        id := s.mag.nextJob, opcode := 0x52, target := tIndex d, ticket := { ticketOf d 0x52 with gen := (s.ring d.ring).gen } }]
      ∧ s.owed (s.magRepair d) d := by
  obtain ⟨_, htk, hk⟩ := ht
  have hbusy : (s.magHeld [tIndex d] || decide ((s.bay (tIndex d)).mode ≠ .ready) || decide ((s.bay (tIndex d)).content ≠ 3)) = false := by
    rw [hheld, hbay, hcontent]
    rfl
  unfold State.magRepair
  rw [State.runCmd_run s d 0x52 _ _ htk hk (State.magCheck_none hst rfl hi hm (State.refuseIf_false _ hbusy)),
    if_neg (by rw [show (s.take d).readable (tIndex d) = true from hread]; decide)]
  dsimp only
  split
  · obtain ⟨hjobs, _, hrings, _⟩ := State.issue_facts ..
    exact ⟨hjobs, s.owed_of _ d (RingSame.of hrings)⟩
  · exact ⟨rfl, s.owed_of _ d (RingSame.of rfl)⟩

/-! ### MAG_READ -/

theorem State.magRead_starts (hst : structOk d (tIs d 5 4) [(8, 1), (12, 4), (16, 8), (24, 8)] false = true)
    (hm : s.dev.mode = .standby ∨ s.dev.mode = .operational) (hslot : opAt d 8 1 < 4) (hlo : 1 ≤ opAt d 12 4) (hhi : opAt d 12 4 ≤ 65536)
    (haddr : opAt d 24 8 % 64 = 0)
    (hrange : opAt d 16 8 + opAt d 12 4 ≤ s.reg64 Reg.MBS_BLOCKS_LO Reg.MBS_BLOCKS_HI (4 * tIndex d + opAt d 8 1))
    (hheld : s.magHeld [tIndex d] = false) (hbay : (s.bay (tIndex d)).mode = .ready ∨ (s.bay (tIndex d)).mode = .inUse)
    (hdrive : (s.drive (4 * tIndex d + opAt d 8 1)).mode = .ready ∨ (s.drive (4 * tIndex d + opAt d 8 1)).mode = .inUse) :
    (s.magRead d).mag.jobs = s.mag.jobs ++ [{
        id := s.mag.nextJob, opcode := 0x54, target := tIndex d, ticket := { ticketOf d 0x54 with gen := (s.ring d.ring).gen },
        slot := 4 * tIndex d + opAt d 8 1, lba := opAt d 16 8, blocks := opAt d 12 4, addr := opAt d 24 8 }]
      ∧ (s.magRead d).mag.cmds = s.mag.cmds ++ [{
        id := s.mag.nextCmd, slot := 4 * tIndex d + opAt d 8 1, kind := .job s.mag.nextJob, op := .read,
        lba := opAt d 16 8, blocks := min 256 (opAt d 12 4), at_ := s.time.clk }]
      ∧ s.owed (s.magRead d) d := by
  obtain ⟨_, htk, hk⟩ := ht
  have hworks := SlotMode.works_of hdrive
  have hops : (decide (opAt d 8 1 < 4) && decide (1 ≤ opAt d 12 4) && decide (opAt d 12 4 ≤ 65536) && decide (opAt d 24 8 % 64 = 0)
      && (!(s.drive (4 * tIndex d + opAt d 8 1)).mode.works || decide (opAt d 16 8 + opAt d 12 4
        ≤ s.reg64 Reg.MBS_BLOCKS_LO Reg.MBS_BLOCKS_HI (4 * tIndex d + opAt d 8 1)))) = true := by
    simp [hslot, hlo, hhi, haddr, hrange]
  have hbusy : (s.magHeld [tIndex d] || (decide ((s.bay (tIndex d)).mode ≠ .ready) && decide ((s.bay (tIndex d)).mode ≠ .inUse))
      || !(s.drive (4 * tIndex d + opAt d 8 1)).mode.works) = false := by
    rw [hheld, hworks]
    rcases hbay with h | h <;> rw [h] <;> rfl
  have hissue : ¬((s.drive (4 * tIndex d + opAt d 8 1)).mode = .empty ∨ (s.drive (4 * tIndex d + opAt d 8 1)).mode = .failed
      ∨ (s.drive (4 * tIndex d + opAt d 8 1)).mode = .rejected) := by
    rcases hdrive with h | h <;> rw [h] <;> decide
  unfold State.magRead
  dsimp only
  rw [State.runCmd_run s d 0x54 _ _ htk hk (State.magCheck_none hst hops rfl hm (State.refuseIf_false _ hbusy))]
  unfold State.readRun
  rw [if_neg (show ¬opAt d 12 4 ≤ 0 by omega), State.issue_plain]
  · exact ⟨rfl, rfl, s.owed_of _ d (RingSame.of rfl)⟩
  · exact hissue
  · exact fun _ => DrvOp.noConfusion

/-! ### MAG_RELAY -/

theorem State.magRelay_starts {x : Take} {m e : Nat} {new : List Resv} (hst : structOk d (tIs d 1 16) [] false = true)
    (hc : s.isCtl d (tIndex d) = true) (hm : s.dev.mode = .operational) (hrig : s.rigMode (tIndex d) = .record)
    (hx : s.recordingTake (tIndex d) = some x) (hset : (s.take d).chooseSet x (s.rec_ x.id) = .ok (m, e, new)) :
    s.magRelay d = ((s.take d).addResvs new (s.time.tickNum + 2)).setRec x.id (fun q => { q with
      relay := some {
        reason := 0, set := m, entry := e, tick := s.time.tickNum + 2,
        ticket := some { ticketOf d 0x1B with gen := (s.ring d.ring).gen } } }) := by
  obtain ⟨_, htk, hk⟩ := ht
  have htake : (s.take d).recordingTake (tIndex d) = some x := hx
  have hstart := fun k => State.startRelay_ok (s := s.take d) 0 k hset
  have hmode : ((s.take d).modeIn [.operational] && decide ((s.take d).rigMode (tIndex d) = .record)) = true := by
    rw [decide_eq_true (show (s.take d).rigMode (tIndex d) = .record from hrig), Bool.and_true]
    show List.contains [DevMode.operational] s.dev.mode = true
    rw [hm]
    rfl
  unfold State.magRelay
  dsimp only
  rw [State.runCmd_run s d 0x1B _ _ htk hk (by
    rw [State.check405_none _ d hst rfl (show (s.take d).isCtl d (tIndex d) = true from hc) hmode, htake]
    dsimp only
    rw [hstart])]
  rw [htake]
  dsimp only
  rw [hstart]
  rfl

end Commands

/-! ### The completion of a drive command -/

section Completion
variable {s : State} {c : DrvCmd} {r : DrvReply}
  (hc : s.mag.cmds.find? (fun x => decide (x.slot = c.slot) && decide (x.id = c.id)) = some c)
include hc

/-- A command that completes leaves the list before what it was for is done. -/
theorem State.driveComplete_done (job : State → Nat → DrvReply → State) (he : r.error = false) :
    s.driveComplete c.slot c.id r job
      = (s.setMag (fun m => { m with cmds := m.cmds.filter (fun x => decide (x.id ≠ c.id)) })).cmdDone c r job := by
  unfold State.driveComplete
  rw [hc]
  exact if_neg (by rw [he]; decide)

/-- A command that fails for the first time with DNR clear goes to its drive again (R294). -/
theorem State.driveComplete_retry (job : State → Nat → DrvReply → State) (he : r.error = true) (hd : r.dnr = false)
    (hr : c.retried = false) :
    (s.driveComplete c.slot c.id r job).mag.cmds
        = s.mag.cmds.map (fun x => if x.id = c.id then { x with retried := true, at_ := s.time.clk } else x)
      ∧ (s.driveComplete c.slot c.id r job).out
        = .drive c.slot c.queue c.op c.lba c.blocks c.data :: .drive c.slot 0 .logPage 0 0 [] :: s.out := by
  unfold State.driveComplete
  rw [hc]
  dsimp only
  rw [if_pos he, if_neg (by rw [hd, hr]; decide)]
  exact ⟨rfl, rfl⟩

end Completion

/-- A run that MAG_READ has read is kept (R323). -/
theorem State.jobStep_read {s : State} {j : MagJob} {r : DrvReply} (hj : s.mag.jobs = [j]) (hop : j.opcode = 0x54)
    (hf : j.failed = false) (he : r.error = false) :
    (s.jobStep j.id r).mag.jobs = [{ j with data := sliceBytes r.data 0 (min 256 (j.blocks - j.done) * 4096) }] := by
  have hfind : s.mag.jobs.find? (fun x => decide (x.id = j.id)) = some j := by
    rw [hj]
    exact List.find?_cons_of_pos (decide_eq_true rfl)
  have hstep : s.jobStep j.id r = s.readStep j r := by
    unfold State.jobStep
    rw [hfind]
    dsimp only
    rw [hop]
    rfl
  rw [hstep]
  unfold State.readStep
  rw [if_neg (by rw [hf, he]; decide)]
  refine (congrArg MagState.jobs (((State.addWork_keeps ..).same .mag rfl).trans ((State.addWork_keeps ..).same .mag rfl))).trans ?_
  show s.mag.jobs.map _ = _
  rw [hj, List.map_singleton, if_pos rfl]

/-- Settles O34: each command by what it starts, and a completion by its three cases. That MAG_READ is any port's is log entry 87, and
the free UUID of a format log entry 54. -/
theorem magazineCommands : Obligations.MagazineCommands := by
  refine ⟨?release, ?format, ?sanitize, ?repair, ?read, ?relay, ?complete⟩
  case release =>
    intro s d ht hst hi hboot hm hr hj
    obtain ⟨u, hu, hrings, hrel, hmode, hticket⟩ := ((s.take d).setBay (tIndex d) (fun q => { q with
      ticket := some { ticketOf d 0x50 with gen := (s.ring d.ring).gen } })).releaseBay_facts (tIndex d) (by
        rw [State.bay_setBay_self]; exact hm)
    rw [State.bay_setBay_self] at hu
    refine ⟨_, (State.go_run _ _ ht.1 : execMagRelease d s = _), ?_⟩
    rw [State.magRelease_ready ht hst hi hboot hm hr hj, hu, State.bay_of (State.completeOpt_mag ..)]
    exact ⟨hrel, hmode, hticket, s.finished_complete u d _ _ _ _ rfl rfl (RingSame.of hrings)⟩
  case format =>
    intro s d ht hst hi hm hheld hset hbays hdrives hrng
    exact ⟨_, _, (State.go_run _ _ ht.1 : execMagFormat d s = _), rfl, State.magFormat_starts ht hst hi hm hheld hset hbays hdrives hrng⟩
  case sanitize =>
    intro s d ht hst hi hm hheld hbay
    obtain ⟨hjobs, _, howed⟩ := State.magSanitize_starts ht hst hi hm hheld hbay
    exact ⟨_, _, (State.go_run _ _ ht.1 : execMagSanitize d s = _), rfl, hjobs, howed⟩
  case repair =>
    intro s d ht hst hi hm hheld hbay hcontent hread
    exact ⟨_, _, (State.go_run _ _ ht.1 : execMagRepair d s = _), rfl, State.magRepair_starts ht hst hi hm hheld hbay hcontent hread⟩
  case read =>
    intro s d ht hst hm hslot hlo hhi haddr hrange hheld hbay hdrive
    exact ⟨_, _, (State.go_run _ _ ht.1 : execMagRead d s = _), rfl,
      State.magRead_starts ht hst hm hslot hlo hhi haddr hrange hheld hbay hdrive⟩
  case relay =>
    intro s d x m e new ht hst hc hm hrig hx hset
    refine ⟨_, _, (State.go_run _ _ ht.1 : execMagRelay d s = _), rfl, ?_⟩
    rw [State.magRelay_starts ht hst hc hm hrig hx hset, State.rec_setRec]
    exact ⟨rfl, rfl, s.owed_of _ d (RingSame.of rfl)⟩
  case complete =>
    intro s c r hs hc
    refine ⟨_, (State.go_run _ _ hs : execDriveCommandComplete c.slot c.id r s = _), fun he hkind => ?_, fun he hd hr => ?_,
      fun j he hkind hj hop hf => ?_⟩
    · rw [State.driveComplete_done hc _ he]
      unfold State.cmdDone
      rcases hkind with h | h <;> rw [h] <;> rfl
    · exact State.driveComplete_retry hc _ he hd hr
    · rw [State.driveComplete_done hc _ he]
      unfold State.cmdDone
      rw [hkind]
      exact State.jobStep_read hj hop hf he

end Sys2Proof.Machine

/-! SUPPORT. What an empty queue comes to (R375). -/

namespace Sys2Proof.Machine

theorem State.idleClock_running {s : State} (h : s.svc.stopped = none) : s.idleClock = s.setTime (fun t => t.clock) := by
  unfold State.idleClock
  rw [h]

theorem State.idleClock_stopped {s : State} {c : Stop} (h : s.svc.stopped = some c) : s.idleClock = s := by
  unfold State.idleClock
  rw [h]

theorem step_of_pending_nil {s : State} (h : s.pending = []) : step s = .next s.idleClock := by
  unfold step
  rw [h]

/-- Settles O2: with an empty queue a step is the idle clock, which counts while the device runs. -/
theorem emptyQueueLetsOneClockPass : Obligations.EmptyQueueLetsOneClockPass := by
  intro s hp
  rw [step_of_pending_nil hp]
  refine ⟨fun hs => ?running, fun c hs => ?stopped⟩
  case running =>
    rw [State.idleClock_running hs]
    exact ⟨_, rfl, rfl, rfl⟩
  case stopped => rw [State.idleClock_stopped hs]

end Sys2Proof.Machine

/-! SUPPORT. What events, accesses and causes of a shift change leave of host ports: their links, their records, who is live. -/

namespace Sys2Proof.Machine

/-! ### The link and the record of a port -/

theorem State.setPort_reg (s : State) (p : Nat) (f : PortSt → PortSt) (r : RegRow) (i j : Nat) :
    (s.setPort p f).reg r i j = s.reg r i j := rfl

theorem State.setPort_linkUp (s : State) (p : Nat) (f : PortSt → PortSt) (q : Nat) : (s.setPort p f).linkUp q = s.linkUp q := rfl

theorem PostSame.hpStatus {s t : State} (h : PostSame s t) (p : Nat) : t.reg Reg.HP_STATUS p = s.reg Reg.HP_STATUS p :=
  h.reg _ _ _ (quiet_hpStatus p)

/-- What a write of a port's record has put there stays through the posting of records, but for L1 and pending vectors. -/
theorem PostSame.setPort_port {s t : State} {p : Nat} {f : PortSt → PortSt} (h : PostSame (s.setPort p f) t) :
    { t.port p with l1 := (f (s.port p)).l1, pba := (f (s.port p)).pba } = f (s.port p) := by
  have hport := h.port p
  rwa [State.port_setPort_self] at hport

/-! ### Who is live -/

/-- Whether a port is live depends on its link, its D-state, its last heartbeat, the clock and the period. -/
theorem State.isLive_congr {s t : State} {p : Nat} (hl : t.portTalks p = s.portTalks p)
    (hb : (t.port p).beatAt = (s.port p).beatAt) (ht : t.time = s.time) (hc : t.cfg = s.cfg) : t.isLive p = s.isLive p := by
  unfold State.isLive State.liveClk State.actF State.act State.activeSet
  rw [hl, hb, ht, hc]

theorem State.afterAccess_isLive (s : State) (p : Nat) (w : Tab Nat) (q : Nat) : (s.afterAccess p w).isLive q = s.isLive q := by
  have hport : (s.afterAccess p w).port q = (s.wakePort p).port q := rfl
  obtain ⟨l, h⟩ := s.wakePort_port p q
  refine State.isLive_congr ?_ (by rw [hport, h]) rfl rfl
  unfold State.portTalks
  rw [hport, h]
  rfl

/-- A port whose last heartbeat is three periods old is not live (R375). -/
theorem State.isLive_expired {s : State} {p b : Nat} (hb : (s.port p).beatAt = some b) (h : b + s.liveClk ≤ s.time.clk) :
    s.isLive p = false := by
  unfold State.isLive
  rw [hb]
  simp [h]

/-! ### A cause of a shift change -/

theorem State.shiftCause_due {s : State} {p : Nat} (c : Nat) (hp : s.dev.steward = some p) (hn : s.dev.shift = none) :
    s.shiftCause p c = s.setDev (fun d => { d with shift := some c }) := if_pos ⟨hp, hn⟩

theorem State.shiftCause_port (s : State) (p c q : Nat) : (s.shiftCause p c).port q = s.port q :=
  congrArg (fun t : Tab PortSt => t.get ({} : PortSt) q) ((State.shiftCause_keeps s p c).same .ports rfl)

end Sys2Proof.Machine

/-! SUPPORT. Claims, releases, heartbeats and shift changes (R373-R377). -/

namespace Sys2Proof.Machine

/-! ### The writes of STEW_CTRL and HEARTBEAT -/

theorem exec_claim {s : State} {p : Nat} (h : s.writable p Reg.STEW_CTRL 0) :
    ∃ w, exec (.claim p) s = .next ((s.afterAccess p w).claim p) := by
  obtain ⟨w, hw⟩ := s.rowWrite_after p Reg.STEW_CTRL 0 1 h
  exact ⟨w, (State.go_run _ _ h.1 : execClaim p s = _).trans (congrArg _ hw)⟩

theorem exec_release {s : State} {p : Nat} (h : s.writable p Reg.STEW_CTRL 0) :
    ∃ w, exec (.release p) s = .next ((s.afterAccess p w).stewRelease p) := by
  obtain ⟨w, hw⟩ := s.rowWrite_after p Reg.STEW_CTRL 0 2 h
  exact ⟨w, (State.go_run _ _ h.1 : execRelease p s = _).trans (congrArg _ hw)⟩

theorem exec_heartbeat {s : State} {p : Nat} (h : s.writable p Reg.HEARTBEAT 0) :
    ∃ w, exec (.heartbeat p) s = .next ((s.afterAccess p w).heartbeat p) := by
  obtain ⟨w, hw⟩ := s.rowWrite_after p Reg.HEARTBEAT 0 0 h
  exact ⟨w, (State.go_run _ _ h.1 : execHeartbeat p s = _).trans (congrArg _ hw)⟩

/-! ### What they do -/

theorem State.claim_dev {s : State} {p : Nat} (hn : s.dev.steward = none) (hl : s.isLive p = true) :
    (s.claim p).dev = { s.dev with steward := some p, shift := none } := by
  unfold State.claim
  rw [if_pos ⟨hn, hl⟩]
  exact State.stewardChanged_dev ..

theorem State.stewRelease_facts {s : State} {p : Nat} (hp : s.dev.steward = some p) (hn : s.dev.shift = none) :
    (s.stewRelease p).dev = { s.dev with shift := some 3 } ∧ bit ((s.stewRelease p).reg Reg.STEW_CTRL) 1 = true := by
  unfold State.stewRelease
  rw [if_pos hp, State.shiftCause_due _ hp hn]
  exact ⟨State.orReg_dev .., State.setEvt_bit _ Reg.STEW_CTRL 0 1 (by decide) (by decide)⟩

theorem State.foldl_hpEvt_dev (s : State) (l : List Nat) (b : Nat) : (l.foldl (fun (s : State) p => s.hpEvt p b) s).dev = s.dev := by
  induction l generalizing s with
  | nil => rfl
  | cons p l ih => exact (ih _).trans (State.hpEvt_dev ..)

/-- What a shift change makes of the device record; what stands for later boundaries is left open (R376, R377). -/
theorem State.shiftChange_dev {s : State} {old : Nat} (c : Nat) (h : s.dev.steward = some old) :
    ∃ b, (s.shiftChange c).dev = { s.dev with
      steward := (s.successors old).find? (fun p => decide (p ≠ old) && s.portExists p && s.isLive p)
      shift := none, shiftCnt := satAdd 0xFF s.dev.shiftCnt 1, bound := b } := by
  unfold State.shiftChange
  rw [h]
  refine (State.healthFail_dev _ 6).imp fun b hb => hb.trans ?_
  rw [State.stewardChanged_dev, State.foldl_hpEvt_dev]
  rfl

/-- Settles O14: each command's effect on the device record, through the access that a write makes. -/
theorem stewardshipMoves : Obligations.StewardshipMoves := by
  refine ⟨?claim, ?release, ?heartbeat, ?expiry, ?shiftChange⟩
  case claim =>
    intro s p hw hn hl
    obtain ⟨w, he⟩ := exec_claim hw
    have hdev := State.claim_dev (s := s.afterAccess p w) hn ((s.afterAccess_isLive p w p).trans hl)
    exact ⟨_, he, congrArg (·.steward) hdev, congrArg (·.shift) hdev, congrArg (·.shiftCnt) hdev⟩
  case release =>
    intro s p hw hp hn
    obtain ⟨w, he⟩ := exec_release hw
    obtain ⟨hdev, hbit⟩ := State.stewRelease_facts (s := s.afterAccess p w) hp hn
    exact ⟨_, he, (congrArg (·.steward) hdev).trans hp, congrArg (·.shift) hdev, hbit⟩
  case heartbeat =>
    intro s p hw
    obtain ⟨w, he⟩ := exec_heartbeat hw
    exact ⟨_, he, congrArg (·.beatAt) (State.port_setPort_self ..)⟩
  case expiry =>
    intro s p b hs hb hold hp hn
    refine ⟨_, (State.go_run _ _ hs : execPortLivenessExpiry p s = _), ?_⟩
    rw [hb]
    dsimp only
    rw [if_pos hold, State.shiftCause_due _ hp hn]
    exact ⟨rfl, (State.isLive_congr rfl rfl rfl rfl).trans (State.isLive_expired hb hold)⟩
  case shiftChange =>
    intro s c old hs hc hold
    refine ⟨_, (State.go_run _ _ hs : execShiftChange s = _), ?_⟩
    rw [hc]
    obtain ⟨b, hdev⟩ := s.shiftChange_dev c hold
    exact ⟨congrArg (·.steward) hdev, congrArg (·.shift) hdev, congrArg (·.shiftCnt) hdev⟩

end Sys2Proof.Machine

/-! SUPPORT. Host links: up, another width or rate, L1 and D3hot (R353, R354, R360, R362, R363). -/

namespace Sys2Proof.Machine

/-! ### A link that trains -/

/-- The rates and widths that a link trains to. -/
theorem State.linkOk_bounds {s : State} {p rate width : Nat} (h : s.linkOk p rate width = true) : rate < 16 ∧ width < 32 := by
  unfold State.linkOk at h
  simp only [Bool.and_eq_true, decide_eq_true_eq, List.contains_iff_mem] at h
  obtain ⟨⟨⟨-, hrate⟩, hwidth⟩, -⟩ := h
  refine ⟨by omega, ?_⟩
  simp only [List.mem_cons, List.not_mem_nil, or_false] at hwidth
  omega

/-- Events after a link has trained leave it up, at its rate and width. -/
theorem State.linkSet_after {s t : State} {p rate width : Nat} {flit : Bool} (hok : s.linkOk p rate width = true)
    (h : t.reg Reg.HP_STATUS p = (s.linkSet p rate width flit).reg Reg.HP_STATUS p) :
    t.linkUp p = true ∧ fld (t.reg Reg.HP_STATUS p) 19 16 = rate ∧ fld (t.reg Reg.HP_STATUS p) 12 8 = width := by
  obtain ⟨hr, hw⟩ := State.linkOk_bounds hok
  unfold State.linkUp
  rw [h]
  exact s.linkSet_reg p rate width flit hr hw

/-- A link that comes up: it trains, its port takes the host's settings, and its event is set. -/
theorem State.hostLinkUp_trains {s : State} {p rate width : Nat} (flit : Bool) (mps : Nat) (noSnoop relaxed : Bool)
    (hok : s.linkOk p rate width = true) (hdown : s.linkUp p = false) :
    PostSame ((s.linkSet p rate width flit).setPort p (fun q => { q with
        mps := if [128, 256, 512].contains mps then mps else 128, noSnoop := noSnoop, relaxed := relaxed }))
      (s.hostLinkUp p rate width flit mps noSnoop relaxed)
      ∧ bit ((s.hostLinkUp p rate width flit mps noSnoop relaxed).reg Reg.HP_EVENTS p) 0 = true := by
  have hgo : ¬((!s.linkOk p rate width || s.linkUp p) = true) := by
    rw [hok, hdown]
    decide
  unfold State.hostLinkUp
  rw [if_neg hgo]
  exact ⟨State.hpEvt_postSame .., State.hpEvt_bit _ _ _ (by decide)⟩

theorem State.widthChange_run {s : State} {p rate width : Nat} (flit : Bool) (hok : s.linkOk p rate width = true)
    (hup : s.linkUp p = true) (hne : ¬(fld (s.reg Reg.HP_STATUS p) 19 16 = rate ∧ fld (s.reg Reg.HP_STATUS p) 12 8 = width)) :
    s.widthChange p rate width flit = (s.linkSet p rate width flit).hpEvt p 4 := by
  refine if_neg fun c => hne ?_
  simpa [hok, hup] using c

/-- The payload sizes of Device Control: 128 where neither of the larger ones is set. -/
theorem mps_setting (mps : Nat) : (if [128, 256, 512].contains mps then mps else 128) = if mps = 256 ∨ mps = 512 then mps else 128 := by
  by_cases h : mps = 128
  · subst h
    rfl
  · simp [h]

/-! ### D3hot -/

/-- A port in D3hot makes no access. -/
theorem State.portTalks_d3hot {s : State} {p : Nat} (h : (s.port p).d3hot = true) : s.portTalks p = false := by
  unfold State.portTalks
  rw [h]
  exact Bool.and_false _

/-- Settles O15: the commands' effects; the event that a link sets leaves its registers and its port's settings. -/
theorem hostLinkEvents : Obligations.HostLinkEvents := by
  refine ⟨?perstRelease, ?linkUp, ?widthChange, ?l1, ?d3hot⟩
  case perstRelease =>
    intro s p hs he
    refine ⟨_, (State.go_run _ _ hs : execPxPerstRelease p s = _), ?_⟩
    rw [if_pos he, State.port_setPort_self]
  case linkUp =>
    intro s p rate width mps flit noSnoop relaxed hs hok hdown
    refine ⟨_, (State.go_run _ _ hs : execHostLinkUp p rate width flit mps noSnoop relaxed s = _), ?_⟩
    obtain ⟨hpost, hevt⟩ := State.hostLinkUp_trains flit mps noSnoop relaxed hok hdown
    obtain ⟨hl, hr, hw⟩ := State.linkSet_after (flit := flit) hok ((hpost.hpStatus p).trans (State.setPort_reg ..))
    have hport := hpost.setPort_port
    exact ⟨hl, hr, hw, (congrArg (·.mps) hport).trans (mps_setting mps), congrArg (·.noSnoop) hport,
      congrArg (·.relaxed) hport, hevt⟩
  case widthChange =>
    intro s p rate width flit hs hok hup hne
    refine ⟨_, (State.go_run _ _ hs : execWidthChange p rate width flit s = _), ?_⟩
    rw [State.widthChange_run _ hok hup hne]
    obtain ⟨hl, hr, hw⟩ := State.linkSet_after hok ((State.hpEvt_postSame (s.linkSet p rate width flit) p 4).hpStatus p)
    exact ⟨hl, hr, hw, State.hpEvt_bit _ _ _ (by decide)⟩
  case l1 =>
    intro s p hs ht hj
    refine ⟨_, (State.go_run _ _ hs : execAspmL1Entry p s = _), ?_⟩
    rw [if_pos (by rw [ht, hj]; rfl), State.port_setPort_self]
  case d3hot =>
    intro s p hs hup
    refine ⟨_, (State.go_run _ _ hs : execD3hotEntry p s = _), ?_⟩
    rw [if_pos hup]
    refine ⟨(State.shiftCause_port ..).trans (State.port_setPort_self ..), State.portTalks_d3hot ?_, fun hp hn => ?_⟩
    · rw [State.shiftCause_port, State.port_setPort_self]
    · exact congrArg (·.dev.shift) (State.shiftCause_due (s := s.setPort p _) 1 hp hn)

end Sys2Proof.Machine

/-! SUPPORT. MSI-X masks, SPDM sessions and IDE streams of a port (R364, R366, R367). -/

namespace Sys2Proof.Machine

/-! ### MSI-X -/

/-- The messages of vectors that have become free change a port's pending vectors and its L1 state. -/
theorem State.sendPending_postSame (s : State) (p : Nat) : PostSame s (s.sendPending p) := by
  unfold State.sendPending
  dsimp only
  split
  · exact PostSame.refl s
  · exact PostSame.foldl _ (fun s v => State.signal_postSame s p v) (PostSame.setPort s p _ (fun _ => rfl))

theorem State.msixMask_function {s : State} {p : Nat} (enable mask : Bool) (hup : s.linkUp p = true) :
    PostSame (s.setPort p (fun q => { q with msixOn := enable, funcMask := mask })) (s.msixMask p none enable mask) := by
  unfold State.msixMask
  rw [if_neg (by rw [hup]; decide)]
  exact State.sendPending_postSame ..

/-- The vectors of a port that are not masked, after a write of one vector's mask. -/
theorem State.msixMask_vector {s : State} {p : Nat} (v : Nat) (enable mask : Bool) (hup : s.linkUp p = true) :
    ((s.msixMask p (some v) enable mask).port p).unmasked
      = if mask || decide (2048 ≤ v) then (s.port p).unmasked.filter (fun x => decide (x ≠ v))
        else if (s.port p).unmasked.contains v then (s.port p).unmasked else (s.port p).unmasked ++ [v] := by
  unfold State.msixMask
  rw [if_neg (by rw [hup]; decide)]
  exact congrArg (·.unmasked) (State.sendPending_postSame ..).setPort_port

/-! ### SPDM and IDE -/

theorem State.spdmRequest_guard {s : State} {p : Nat} (ht : s.portTalks p = true) (hm : s.dev.mode ≠ .boot) :
    (!s.portTalks p || decide (s.dev.mode = .boot)) = false := by
  rw [ht, decide_eq_false hm]
  rfl

theorem State.spdmRequest_open {s : State} {p : Nat} (ht : s.portTalks p = true) (hm : s.dev.mode ≠ .boot) :
    s.spdmRequest p 1 = (s.emit (.spdm p 1 (s.sec.dik.isSome && !s.sec.drbgBlocked))).setPort p
      (fun q => { q with spdm := s.sec.dik.isSome && !s.sec.drbgBlocked }) :=
  if_neg (Bool.eq_false_iff.mp (State.spdmRequest_guard ht hm))

theorem State.spdmRequest_close {s : State} {p : Nat} (ht : s.portTalks p = true) (hm : s.dev.mode ≠ .boot) :
    s.spdmRequest p 2 = (s.emit (.spdm p 2 true)).setPort p (fun q => { q with spdm := false }) :=
  if_neg (Bool.eq_false_iff.mp (State.spdmRequest_guard ht hm))

theorem State.ideKm_run {s : State} {p n : Nat} (key lo hi : Nat) (ht : s.portTalks p = true) (hk : (s.port p).spdm = true) (hn : n < 4) :
    ((s.ideKm p n key lo hi).port p).ide = ((s.port p).ide ++ List.replicate (n + 1 - (s.port p).ide.length) ({} : IdeStream)).set n
      { secure := true, lo := lo, hi := hi, key := key } := by
  unfold State.ideKm
  rw [if_neg (by rw [ht, hk, decide_eq_false (by omega)]; decide), State.port_setPort_self]

/-- A list made longer than an index takes a value there, and keeps its other entries. -/
theorem getElem?_set_pad {α : Type} (l : List α) (n : Nat) (d x : α) :
    ((l ++ List.replicate (n + 1 - l.length) d).set n x)[n]? = some x
      ∧ ∀ k, k ≠ n → k < l.length → ((l ++ List.replicate (n + 1 - l.length) d).set n x)[k]? = l[k]? := by
  refine ⟨List.getElem?_set_self (by simp; omega), fun k hk hl => ?_⟩
  rw [List.getElem?_set_ne (Ne.symm hk), List.getElem?_append_left hl]

theorem State.ideFail_run {s : State} {p n : Nat} {x : IdeStream} (ht : s.portTalks p = true) (hx : (s.port p).ide[n]? = some x)
    (hsec : x.secure = true) : s.ideFail p n
      = s.setPort p (fun q => { q with ide := q.ide.set n { x with secure := false }, aerIde := q.aerIde + 1 }) := by
  unfold State.ideFail
  dsimp only
  rw [hx]
  exact if_neg (by rw [hsec, ht]; decide)

/-- Settles O16: each command's effect on the port's record, which the messages that leave keep. -/
theorem portSecurityEvents : Obligations.PortSecurityEvents := by
  refine ⟨?functionMask, ?vectorUnmasked, ?vectorMasked, ?opens, ?closes, ?key, ?failure⟩
  case functionMask =>
    intro s p enable mask hs hup
    refine ⟨_, (State.go_run _ _ hs : execMsixUnmask p none enable mask s = _), ?_⟩
    have hport := (State.msixMask_function enable mask hup).setPort_port
    exact ⟨congrArg (·.msixOn) hport, congrArg (·.funcMask) hport⟩
  case vectorUnmasked =>
    intro s p v enable hs hup hv
    refine ⟨_, (State.go_run _ _ hs : execMsixUnmask p (some v) enable false s = _), ?_⟩
    rw [State.msixMask_vector v enable false hup, if_neg (by simpa using hv)]
    split
    next h => exact List.contains_iff_mem.mp h
    next => exact List.mem_append_right _ List.mem_cons_self
  case vectorMasked =>
    intro s p v enable hs hup
    refine ⟨_, (State.go_run _ _ hs : execMsixUnmask p (some v) enable true s = _), ?_⟩
    rw [State.msixMask_vector v enable true hup, if_pos (by rfl), List.mem_filter]
    exact fun h => of_decide_eq_true h.2 rfl
  case opens =>
    intro s p hs ht hm
    refine ⟨_, (State.go_run _ _ hs : execSpdmRequest p 1 s = _), ?_⟩
    rw [State.spdmRequest_open ht hm]
    exact ⟨rfl, State.port_setPort_self ..⟩
  case closes =>
    intro s p hs ht hm
    refine ⟨_, (State.go_run _ _ hs : execSpdmRequest p 2 s = _), ?_⟩
    rw [State.spdmRequest_close ht hm]
    exact ⟨rfl, State.port_setPort_self ..⟩
  case key =>
    intro s p n key lo hi hs ht hk hn
    refine ⟨_, (State.go_run _ _ hs : execIdeKm p n key lo hi s = _), ?_⟩
    rw [State.ideKm_run key lo hi ht hk hn]
    exact getElem?_set_pad ..
  case failure =>
    intro s p n x hs ht hx hsec
    refine ⟨_, (State.go_run _ _ hs : execIdeIntegrityFail p n s = _), ?_⟩
    rw [State.ideFail_run ht hx hsec, State.port_setPort_self]
    exact ⟨List.getElem?_set_self (List.getElem?_eq_some_iff.mp hx).1, rfl⟩

end Sys2Proof.Machine

/-! SUPPORT. The reset of a port (R361, R362). -/

namespace Sys2Proof.Machine

/-- The first part of a port's reset: its rings, subscriptions, spill windows and service transfer end, its link goes down where
the kind takes it down, and its record has its reset values. -/
def State.portCleared (s : State) (p kind : Nat) : State :=
  let s := (s.portRingsOff p).portSubsOff p
  let s := (s.spillDrop p).svcStop (some p)
  let s := if [1, 2, 3].contains kind then s.setReg Reg.HP_STATUS p 0 (s.reg Reg.HP_STATUS p &&& 0x80000000) else s
  s.setPort p (fun q => ({ beatAt := q.beatAt, perst := q.perst || decide (kind = 3) } : PortSt))

/-- The second part: a steward's reset is a shift change, the reset counts, and a link that was lost sets its event. -/
def State.resetCounted (s : State) (p : Nat) (lost : Bool) : State :=
  let s := if s.dev.steward = some p then s.shiftChange 2 else s
  let s := s.count Reg.HP_RESET_CNT p
  if lost then s.hpEvt p 1 else s

/-- The last part: the event of a function-level reset, or of a hot reset or a return from D3hot. -/
def State.resetEvent (s : State) (p kind : Nat) : State :=
  if kind = 0 then s.hpEvt p 2 else if kind = 1 ∨ kind = 4 then s.hpEvt p 3 else s

/-- A reset that takes place is its three parts. -/
theorem State.portReset_parts {s : State} {p kind : Nat} (he : s.portExists p = true) (hk : kind ≤ 4)
    (hup : kind ≤ 2 → s.linkUp p = true) (hd : kind = 4 → (s.port p).d3hot = true) :
    s.portReset p kind = ((s.portCleared p kind).resetCounted p ([1, 2, 3].contains kind && s.linkUp p)).resetEvent p kind := by
  have hgo : (!s.portExists p || decide (4 < kind) || (decide (kind ≤ 2) && !s.linkUp p)
      || (decide (kind = 4) && !(s.port p).d3hot)) = false := by
    simp only [Bool.or_eq_false_iff, Bool.and_eq_false_imp, Bool.not_eq_false', decide_eq_true_eq, decide_eq_false_iff_not]
    exact ⟨⟨⟨he, by omega⟩, hup⟩, hd⟩
  unfold State.portReset
  dsimp only
  rw [if_neg (Bool.eq_false_iff.mp hgo)]
  obtain rfl | rfl | rfl | rfl | rfl : kind = 0 ∨ kind = 1 ∨ kind = 2 ∨ kind = 3 ∨ kind = 4 := by omega
  all_goals rfl

/-! ### What the parts leave -/

theorem State.portCleared_port (s : State) (p kind : Nat) :
    ∃ b c, (s.portCleared p kind).port p = { beatAt := b, perst := c } := ⟨_, _, State.port_setPort_self ..⟩

theorem State.portCleared_linkUp (s : State) {p kind : Nat} (h1 : 1 ≤ kind) (h3 : kind ≤ 3) :
    (s.portCleared p kind).linkUp p = false := by
  have hdrops : [1, 2, 3].contains kind = true := by
    obtain rfl | rfl | rfl : kind = 1 ∨ kind = 2 ∨ kind = 3 := by omega
    all_goals rfl
  unfold State.portCleared
  dsimp only
  rw [State.setPort_linkUp, if_pos hdrops]
  unfold State.linkUp
  rw [State.reg_setReg_self _ _ _ _ _ (by decide), bit_and]
  exact Bool.and_false _

/-- From `s` to `t` the link of every port is up or down as before, and its record is the same but for its L1 state and pending
vectors. -/
structure PortsSame (s t : State) : Prop where
  linkUp : ∀ p, t.linkUp p = s.linkUp p
  port : ∀ p : Nat, { t.port p with l1 := (s.port p).l1, pba := (s.port p).pba } = s.port p

theorem PortsSame.trans {s t u : State} (a : PortsSame s t) (b : PortsSame t u) : PortsSame s u :=
  ⟨fun p => (b.linkUp p).trans (a.linkUp p), fun p => by
    have ha := a.port p
    rw [← b.port p] at ha
    rw [← ha]⟩

theorem PostSame.portsSame {s t : State} (h : PostSame s t) : PortsSame s t :=
  ⟨fun p => congrArg (bit · 30) (h.hpStatus p), h.port⟩

theorem State.count_portsSame (s : State) (p : Nat) : PortsSame s (s.count Reg.HP_RESET_CNT p) := by
  refine ⟨fun q => congrArg (bit · 30) (State.reg_setReg_ne _ _ _ _ _ _ _ _ (by decide) (Or.inr ?_)), fun _ => rfl⟩
  simp only [RegRow.addr, Reg.HP_STATUS, Reg.HP_RESET_CNT]
  omega

theorem State.resetCounted_portsSame (s : State) (p : Nat) (lost : Bool) : PortsSame s (s.resetCounted p lost) := by
  have hshift : PostSame s (if s.dev.steward = some p then s.shiftChange 2 else s) := by
    split
    · exact State.shiftChange_postSame ..
    · exact PostSame.refl s
  have hcount := hshift.portsSame.trans (State.count_portsSame _ p)
  unfold State.resetCounted
  dsimp only
  split
  · exact hcount.trans (State.hpEvt_postSame ..).portsSame
  · exact hcount

theorem State.resetEvent_portsSame (s : State) (p kind : Nat) : PortsSame s (s.resetEvent p kind) := by
  unfold State.resetEvent
  split
  · exact (State.hpEvt_postSame ..).portsSame
  · split
    · exact (State.hpEvt_postSame ..).portsSame
    · exact (PostSame.refl s).portsSame

theorem State.resetEvent_flr (s : State) (p : Nat) : bit ((s.resetEvent p 0).reg Reg.HP_EVENTS p) 2 = true :=
  s.hpEvt_bit p 2 (by decide)

theorem State.resetEvent_hot (s : State) (p : Nat) {kind : Nat} (h : kind = 1 ∨ kind = 4) :
    bit ((s.resetEvent p kind).reg Reg.HP_EVENTS p) 3 = true := by
  unfold State.resetEvent
  rw [if_neg (by omega), if_pos h]
  exact s.hpEvt_bit p 3 (by decide)

/-- Settles O17: the first part of a reset clears the port, and what follows leaves its link and, but for L1 and pending vectors,
its record. -/
theorem portResetClearsThePort : Obligations.PortResetClearsThePort := by
  intro s p kind hs he hk hup hd
  refine ⟨_, (State.go_run _ _ hs : execHostPortReset p kind s = _), ?_⟩
  rw [State.portReset_parts he hk hup hd]
  generalize ([1, 2, 3].contains kind && s.linkUp p) = lost
  have hsame := ((s.portCleared p kind).resetCounted_portsSame p lost).trans (State.resetEvent_portsSame _ p kind)
  obtain ⟨b, c, hport⟩ := s.portCleared_port p kind
  refine ⟨?_, fun h1 h3 => (hsame.linkUp p).trans (s.portCleared_linkUp h1 h3), fun h => ?_, State.resetEvent_hot _ p⟩
  · have hrec := hsame.port p
    rw [hport] at hrec
    exact congrArg (fun q : PortSt => { q with beatAt := none, perst := false, l1 := false, pba := [] }) hrec
  · subst h
    exact State.resetEvent_flr ..

end Sys2Proof.Machine

/-! SUPPORT. What every command answers, and that it leaves the rest of the queue. -/

namespace Sys2Proof.Machine

theorem step_of_pending_cons {c : Instr} {s : State} {rest : List Instr} (h : s.pending = c :: rest) :
    step s = exec c { s with pending := rest } := by
  unfold step
  rw [h]

/-- Every arm of exec is, by its definition, a next state. -/
theorem exec_answers (i : Instr) (s : State) : ∃ t, exec i s = .next t := by
  cases i <;> exact ⟨_, rfl⟩

/-- No command's frame lists the queue. -/
theorem pending_notMem_mayChange (i : Instr) : Part.pending ∉ mayChange i := by
  have hfree : (mayChange i).contains .pending = false := by cases i <;> rfl
  exact fun hmem => Bool.false_ne_true (hfree.symm.trans (List.contains_iff_mem.mpr hmem))

/-- Settles O3: exec answers for every command, and the queue is outside every frame. -/
theorem noCommandTouchesTheQueue : Obligations.NoCommandTouchesTheQueue := by
  intro c s rest hp
  obtain ⟨t, ht⟩ := exec_answers c { s with pending := rest }
  exact ⟨t, (step_of_pending_cons hp).trans ht, (exec_keeps ht).same .pending (partsMask_testBit (pending_notMem_mayChange c))⟩

end Sys2Proof.Machine

/-! SUPPORT. Doorbell writes (R395). -/

namespace Sys2Proof.Machine

/-- A count leaves the other registers of its unit. -/
theorem State.reg_count_unit (s : State) (q r : RegRow) (i : Nat) (hr : r.win < 16) (hw : q.win = r.win) (hs : q.s1 = r.s1)
    (hb : q.base ≠ r.base) : (s.count r i).reg q i = s.reg q i :=
  State.reg_setReg_ne _ _ _ _ _ _ _ _ hr (Or.inr (RegRow.addr_ne i hw hs hb))

theorem State.doorbellOk_iff {s : State} {n : Nat} (v : BitVec 32) (ha : (s.ring n).aborting = false) :
    s.doorbellOk n v = true ↔ (s.ring n).state = .running
      ∧ (if s.ringKind n = 2 then ((s.ring n).dev - v).toNat ≤ s.ringSize n else (v - (s.ring n).dev).toNat ≤ s.ringSize n)
      ∧ (v - (s.ring n).db).toNat ≤ s.ringSize n := by
  unfold State.doorbellOk
  by_cases hk : s.ringKind n = 2
  · simp [ha, hk, and_assoc]
  · simp [ha, hk, and_assoc]

section Doorbell
variable {s : State} {p n : Nat} (v : BitVec 32) (ht : s.portTalks p = true) (hm : s.dev.mode ≠ .boot) (hn : n < 1024)
  (ha : s.ringAssigned n = true) (hp : s.ringPort n = p)
include ht hm hn ha hp

/-- A doorbell write by the ring's owner comes to the conditions of R395. -/
theorem State.doorbell_own : s.doorbell p n v = if s.doorbellOk n v then s.setRing n (fun q => { q with db := v })
    else (s.setEvt Reg.RING_EVENTS n 0).count Reg.RING_DB_BAD_CNT n := by
  unfold State.doorbell
  rw [if_neg (by simp [ht, hm, hn]), if_neg (by simp [ha, hp])]

theorem State.doorbell_accepted (hok : s.doorbellOk n v = true) :
    s.doorbell p n v = s.setRing n (fun q => { q with db := v }) := by
  rw [State.doorbell_own v ht hm hn ha hp, if_pos hok]

theorem State.doorbell_ignored (hok : s.doorbellOk n v ≠ true) :
    s.doorbell p n v = (s.setEvt Reg.RING_EVENTS n 0).count Reg.RING_DB_BAD_CNT n := by
  rw [State.doorbell_own v ht hm hn ha hp, if_neg hok]

end Doorbell

/-- What an ignored doorbell leaves: the rings, its event, and its count (R395). -/
theorem State.doorbellBad_facts (s : State) (n : Nat) :
    ((s.setEvt Reg.RING_EVENTS n 0).count Reg.RING_DB_BAD_CNT n).rings = s.rings
      ∧ bit (((s.setEvt Reg.RING_EVENTS n 0).count Reg.RING_DB_BAD_CNT n).reg Reg.RING_EVENTS n) 0 = true
      ∧ (((s.setEvt Reg.RING_EVENTS n 0).count Reg.RING_DB_BAD_CNT n).reg Reg.RING_DB_BAD_CNT n).toNat
        = min 0xFFFFFFFF ((s.reg Reg.RING_DB_BAD_CNT n).toNat + 1) := by
  refine ⟨rfl, ?_, ?_⟩
  · rw [State.reg_count_unit _ Reg.RING_EVENTS Reg.RING_DB_BAD_CNT n (by decide) rfl rfl (by decide)]
    exact s.setEvt_bit Reg.RING_EVENTS n 0 (by decide) (by decide)
  · rw [State.count_toNat _ _ _ (by decide),
      State.reg_setEvt_unit _ Reg.RING_DB_BAD_CNT Reg.RING_EVENTS n 0 (by decide) rfl rfl (by decide)]

/-- Settles O9: the conditions of R395 decide between the new count and the event with its counter. -/
theorem doorbellAcceptedOrCounted : Obligations.DoorbellAcceptedOrCounted := by
  intro s p n v hs ht hm hn ha hp hab
  refine ⟨_, (State.go_run _ _ hs : execDoorbellWrite p n v s = _), fun hok => ?accepted, fun hbad => ?ignored⟩
  case accepted =>
    rw [State.doorbell_accepted v ht hm hn ha hp ((State.doorbellOk_iff v hab).mpr hok)]
    have hring := s.ring_setRing_self n (fun q => { q with db := v })
    exact ⟨hring, congrArg RingSt.db hring, fun k hk => (s.ring_setRing n k _).trans (if_neg hk), rfl⟩
  case ignored =>
    rw [State.doorbell_ignored v ht hm hn ha hp (mt (State.doorbellOk_iff v hab).mp hbad)]
    exact s.doorbellBad_facts n

end Sys2Proof.Machine

/-! SUPPORT. Completions that are written at once, and NOP (R397, R403, R407). -/

namespace Sys2Proof.Machine

theorem State.ring_take_ne (s : State) {d : Desc} {k : Nat} (h : k ≠ d.ring) : (s.take d).ring k = s.ring k :=
  (s.ring_setRing d.ring k _).trans (if_neg h)

/-- What a ring from which a descriptor can be taken is like. -/
theorem State.takeable_facts {s : State} {d : Desc} {kind : Nat} (h : s.takeable d kind = true) :
    (s.ring d.ring).state = .running ∧ (s.ring (s.evtRing d.ring)).staged = [] ∧ s.dev.mode ≠ .boot := by
  unfold State.takeable at h
  simp only [Bool.and_eq_true, decide_eq_true_eq, List.isEmpty_iff] at h
  obtain ⟨⟨⟨⟨⟨⟨⟨⟨hrun, _⟩, _⟩, _⟩, _⟩, _⟩, hstaged⟩, _⟩, hmode⟩ := h
  exact ⟨hrun, hstaged, hmode⟩

/-- A completion without payload whose EVT ring runs, has room and holds nothing in staging is written at once (R398, R407). -/
theorem State.complete_writes {s : State} {t : Ticket} {e : Nat} (st : Nat) (hg : (s.ring t.ring).gen = t.gen)
    (he : s.evtRing t.ring = e) (hrun : (s.ring e).state = .running) (hstaged : (s.ring e).staged = []) (hroom : s.evtRoom e = true)
    (hpaused : (s.ring t.ring).state ≠ .pausedEvt) :
    s.complete t st = (s.putRec e
      { etype := 1, status := st, tag := t.tag, source := t.target, tick := s.time.tickNum, payload := List.replicate 15 0 }
      t.irq false).setRing t.ring (fun q => q.retire t.barrier) := by
  unfold State.complete
  rw [show s.countRefusal [] = s from rfl, if_neg (not_not_intro hg), he]
  unfold State.postCompletion
  rw [if_pos (by simp [hrun, hstaged, hroom, hpaused])]
  rfl

theorem RingSt.retire_dev (q : RingSt) (b : Bool) : (q.retire b).dev = q.dev := RingSt.settle_dev _

/-- The modes that R411 gives NOP are all but BOOT. -/
theorem nop_modes {m : DevMode} (h : m ≠ .boot) : List.contains [DevMode.provision, .standby, .operational, .zeroized] m = true := by
  cases m with
  | boot => exact absurd rfl h
  | provision | standby | operational | zeroized => rfl

/-- A NOP of good structure that is taken completes DONE (R411). -/
theorem State.nop_done {s : State} {d : Desc} (ht : s.takesCmd d) (hf : d.flags.toNat < 32) (hc : fChain d = false)
    (hz : d.target = 0) (hu : unusedZero d [] = true) :
    execNop d s = .next ((s.take d).complete { ticketOf d 0x00 with gen := (s.ring d.ring).gen } stDone) := by
  obtain ⟨hstop, htk, hk⟩ := ht
  obtain ⟨_, _, hmode⟩ := State.takeable_facts htk
  have hst : structOk d (tNone d) [] false = true := by simp [structOk, tNone, hf, hc, hz, hu]
  unfold execNop
  rw [State.go_run _ _ hstop]
  exact congrArg _ (State.runCmd_run s d 0x00 _ _ htk hk (State.check405_none _ d hst rfl rfl (nop_modes hmode)))

/-- The DONE record of a descriptor, without payload (R397, R407). -/
def doneRecord (d : Desc) (tick : Nat) : Rec :=
  { etype := 1, status := stDone, tag := d.tag.toNat, source := d.target.toNat, tick := tick, payload := List.replicate 15 0 }

/-- Where the EVT ring of a taken descriptor runs, has room and holds nothing, its DONE completion is one record (R397, R407). -/
theorem State.take_done {s : State} {d : Desc} (op : Nat) (ht : s.takeable d 0 = true) (he : (s.ring d.ring).evt ≠ d.ring)
    (hrun : (s.ring (s.ring d.ring).evt).state = .running) (hroom : s.evtRoom (s.ring d.ring).evt = true) :
    (s.take d).complete { ticketOf d op with gen := (s.ring d.ring).gen } stDone
      = ((s.take d).putRec (s.ring d.ring).evt (doneRecord d s.time.tickNum) (fIrq d) false).setRing d.ring
        (fun q => q.retire (fBarrier d)) := by
  obtain ⟨hcmdRun, hstaged, _⟩ := State.takeable_facts ht
  have hcmd := s.ring_take d
  have hevt : (s.take d).evtRing d.ring = (s.ring d.ring).evt := congrArg (·.evt) hcmd
  have hring := s.ring_take_ne he
  have hroom' : (s.take d).evtRoom (s.ring d.ring).evt = true := by
    unfold State.evtRoom
    rw [hring]
    exact hroom
  have hpaused : ((s.take d).ring d.ring).state ≠ .pausedEvt := by
    rw [hcmd]
    exact fun h => by cases hcmdRun.symm.trans h
  exact State.complete_writes (t := { ticketOf d op with gen := (s.ring d.ring).gen }) stDone (congrArg (·.gen) hcmd) hevt
    (by rw [hring]; exact hrun) (by rw [hring]; exact hstaged) hroom' hpaused

/-- Settles O11: NOP's completion is written at once, and its record leaves in one host write. -/
theorem nopWritesItsRecord : Obligations.NopWritesItsRecord := by
  intro s d ht hf hc hz hu
  dsimp only
  intro he _ hrun hroom htalks hide
  have hcmd := s.ring_take d
  have hevt := s.ring_take_ne he
  obtain ⟨⟨msgs, hout, hmsgs⟩, hself, hother⟩ := (s.take d).putRec_writes (s.ring d.ring).evt
    (doneRecord d s.time.tickNum) (fIrq d) false htalks (by rw [hevt]; exact hide)
  rw [hevt] at hout hself
  refine ⟨_, msgs, State.nop_done ht hf hc hz hu, ?_⟩
  have hfin := s.finished_complete (s.take d) d { ticketOf d 0x00 with gen := (s.ring d.ring).gen } stDone [] 1 rfl rfl (RingSame.refl _)
  rw [State.take_done 0x00 ht.2.1 he hrun hroom] at hfin ⊢
  refine ⟨?_, hmsgs, ?_, ?_, ?_, hfin⟩
  · refine hout.trans ?_
    rw [doneRecord, hz]
    rfl
  · rw [State.ring_setRing, if_neg he, hself]
  · rw [State.ring_setRing, if_neg he, hself]
  · rw [State.ring_setRing_self, RingSt.retire_dev, hother _ (Ne.symm he), hcmd]

end Sys2Proof.Machine

/-! SUPPORT. Writes of RING_CTRL: what ENABLE, the clearing of ENABLE, and RESUME do (R389-R392). -/

namespace Sys2Proof.Machine

/-! ### The write -/

theorem State.rowWrite_ringCtrl {s : State} {p n : Nat} (v : Word) (h : s.writable p Reg.RING_CTRL n) :
    ∃ w, s.rowWrite p Reg.RING_CTRL n v = (s.afterAccess p w).ringCtrl n v := s.rowWrite_after p Reg.RING_CTRL n v h

/-- RING_CTRL with the written fields, but for ENABLE, as it stands when ENABLE and RESUME act. -/
def State.ctrlStored (s : State) (n : Nat) (v : Word) : State :=
  s.setReg Reg.RING_CTRL n 0 ((v &&& Reg.RING_CTRL.rwi &&& ~~~ 0x80000000#32) ||| (s.reg Reg.RING_CTRL n &&& 0x80000000#32))

theorem State.ctrlStored_enable (s : State) (n : Nat) (v : Word) :
    bit ((s.ctrlStored n v).reg Reg.RING_CTRL n) 31 = bit (s.reg Reg.RING_CTRL n) 31 := by
  unfold State.ctrlStored
  rw [State.reg_setReg_self _ _ _ _ _ (by decide), ringCtrl_enable]

theorem State.ctrlStored_evt (s : State) (n : Nat) (v : Word) :
    fld ((s.ctrlStored n v).reg Reg.RING_CTRL n) 25 16 = fld v 25 16 := by
  unfold State.ctrlStored
  rw [State.reg_setReg_self _ _ _ _ _ (by decide), ringCtrl_evt]

section Write
variable {s : State} {n : Nat} {v : Word}

theorem State.ringCtrl_off (h : bit (s.reg Reg.RING_CTRL n) 31 = false) (hv : bit v 31 = true) :
    s.ringCtrl n v = if bit v 30 then ((s.ctrlStored n v).ringStart n).ringResume n else (s.ctrlStored n v).ringStart n := by
  unfold State.ringCtrl
  dsimp only
  rw [h, hv]
  rfl

theorem State.ringCtrl_cleared (h : bit (s.reg Reg.RING_CTRL n) 31 = true) (hv : bit v 31 = false) :
    s.ringCtrl n v = (s.ctrlStored n v).ringAbort n := by
  unfold State.ringCtrl
  dsimp only
  rw [h, hv]
  rfl

theorem State.ringCtrl_resume (h : bit (s.reg Reg.RING_CTRL n) 31 = true) (hv : bit v 31 = true) (hr : bit v 30 = true) :
    s.ringCtrl n v = (s.ctrlStored n v).ringResume n := by
  unfold State.ringCtrl
  dsimp only
  rw [h, hv, hr]
  rfl

end Write

/-! ### The words that the commands write -/

theorem bit_setEnable (v : Word) : bit (v ||| 0x80000000#32) 31 = true := by
  rw [bit_or, show bit 0x80000000#32 31 = true by decide, Bool.or_true]

theorem bit_setEnable_resume (v : Word) : bit (v ||| 0x80000000#32) 30 = bit v 30 := by
  rw [bit_or, show bit 0x80000000#32 30 = false by decide, Bool.or_false]

theorem bit_clearEnable (v : Word) : bit (v &&& 0x7FFFFFFF#32) 31 = false := by
  rw [bit_and, show bit 0x7FFFFFFF#32 31 = false by decide, Bool.and_false]

theorem bit_setResume (v : Word) {b : Nat} (hb : bit 0xC0000000#32 b = true) : bit (v ||| 0xC0000000#32) b = true := by
  rw [bit_or, hb, Bool.or_true]

/-- The EVT ring that a write with ENABLE set names. -/
theorem State.ctrlStored_setEnable (s : State) (n : Nat) (v : Word) :
    fld ((s.ctrlStored n (v ||| 0x80000000#32)).reg Reg.RING_CTRL n) 25 16 = fld v 25 16 :=
  (s.ctrlStored_evt ..).trans (fld_top v)

/-! ### The commands -/

/-- RING_ENABLE of a ring that is off: it starts, and a RESUME in the same word acts on it then. -/
theorem exec_ringEnable {s : State} {p n : Nat} (v : Word) (h : s.writable p Reg.RING_CTRL n)
    (hoff : bit (s.reg Reg.RING_CTRL n) 31 = false) :
    ∃ w, exec (.ringEnable p n v) s = .next (if bit v 30
      then (((s.afterAccess p w).ctrlStored n (v ||| 0x80000000#32)).ringStart n).ringResume n
      else ((s.afterAccess p w).ctrlStored n (v ||| 0x80000000#32)).ringStart n) := by
  obtain ⟨w, hw⟩ := State.rowWrite_ringCtrl (v ||| 0x80000000#32) h
  have hctrl := State.ringCtrl_off (s := s.afterAccess p w) hoff (bit_setEnable v)
  rw [bit_setEnable_resume] at hctrl
  exact ⟨w, (State.go_run _ _ h.1 : execRingEnable p n v s = _).trans (congrArg _ (hw.trans hctrl))⟩

theorem exec_ringAbort {s : State} {p n : Nat} (v : Word) (h : s.writable p Reg.RING_CTRL n)
    (hon : bit (s.reg Reg.RING_CTRL n) 31 = true) :
    ∃ w, exec (.ringAbort p n v) s = .next (((s.afterAccess p w).ctrlStored n (v &&& 0x7FFFFFFF#32)).ringAbort n) := by
  obtain ⟨w, hw⟩ := State.rowWrite_ringCtrl (v &&& 0x7FFFFFFF#32) h
  have hctrl := State.ringCtrl_cleared (s := s.afterAccess p w) hon (bit_clearEnable v)
  exact ⟨w, (State.go_run _ _ h.1 : execRingAbort p n v s = _).trans (congrArg _ (hw.trans hctrl))⟩

theorem exec_ringResume {s : State} {p n : Nat} (v : Word) (h : s.writable p Reg.RING_CTRL n)
    (hon : bit (s.reg Reg.RING_CTRL n) 31 = true) :
    ∃ w, exec (.ringResume p n v) s = .next (((s.afterAccess p w).ctrlStored n (v ||| 0xC0000000#32)).ringResume n) := by
  obtain ⟨w, hw⟩ := State.rowWrite_ringCtrl (v ||| 0xC0000000#32) h
  have hctrl := State.ringCtrl_resume (s := s.afterAccess p w) hon (bit_setResume v (by decide)) (bit_setResume v (by decide))
  exact ⟨w, (State.go_run _ _ h.1 : execRingResume p n v s = _).trans (congrArg _ (hw.trans hctrl))⟩

/-! ### ENABLE -/

/-- The conditions of R390 on a ring that is to report to EVT ring `e`. -/
def State.mayStart (s : State) (n e : Nat) : Prop :=
  s.ringAssigned n = true ∧ s.portExists (s.ringPort n) = true ∧ s.ringBase n % 4096 = 0 ∧
    (s.ringKind n = 2 ∨ (s.ringAssigned e = true ∧ s.ringKind e = 2 ∧ s.ringPort e = s.ringPort n ∧ (s.ring e).state = .running))

/-- The conditions depend on nothing that storing RING_CTRL writes. -/
theorem State.ctrlStored_mayStart (s : State) (n e : Nat) (v : Word) : (s.ctrlStored n v).mayStart n e ↔ s.mayStart n e := by
  unfold State.mayStart State.ringAssigned State.ringPort State.ringKind State.ctrlStored
  simp only [ringOwn_setCtrl, portExists_setCtrl, ringBase_setCtrl]
  rfl

/-- The test of a start is the conditions of R390. -/
theorem State.ringStart_test (s : State) (n e : Nat) :
    (s.ringAssigned n && s.portExists (s.ringPort n) && decide (s.ringBase n % 4096 = 0) &&
      (decide (s.ringKind n = 2) || (s.ringAssigned e && decide (s.ringKind e = 2) && decide (s.ringPort e = s.ringPort n)
        && decide ((s.ring e).state = .running)))) = true ↔ s.mayStart n e := by
  unfold State.mayStart
  simp only [Bool.and_eq_true, Bool.or_eq_true, decide_eq_true_eq, and_assoc]

/-- The subscriptions of a delivery ring that starts change the mover alone. -/
theorem State.foldl_mover (s : State) (f : MoverState → Nat → MoverState) (l : List Nat) :
    ∃ m, l.foldl (fun (s : State) k => { s with mover := f s.mover k }) s = { s with mover := m } := by
  induction l generalizing s with
  | nil => exact ⟨s.mover, rfl⟩
  | cons k l ih => exact ih { s with mover := f s.mover k }

/-- A ring as its start leaves it (R390). -/
def RingSt.started (q : RingSt) (base evt : Nat) : RingSt :=
  { q with state := .running, dev := 0, db := 0, base := base, evt := evt, lost := false, aborting := false }

theorem State.ringStart_runs {s : State} {n e : Nat} (he : fld (s.reg Reg.RING_CTRL n) 25 16 = e) (h : s.mayStart n e) :
    ∃ m, s.ringStart n
      = { (s.setF Reg.RING_CTRL n 31 31 1).setRing n (fun q => q.started (s.ringBase n) e) with mover := m } := by
  unfold State.ringStart
  dsimp only
  rw [he, if_pos ((s.ringStart_test n e).mpr h)]
  split
  · exact State.foldl_mover _ (fun m k => { m with subs := m.subs.upd {} k (fun q => { q with blocked := false }) }) _
  · exact ⟨s.mover, rfl⟩

theorem State.ringStart_facts {s : State} {n e : Nat} (he : fld (s.reg Reg.RING_CTRL n) 25 16 = e) (h : s.mayStart n e) :
    (s.ringStart n).ring n = (s.ring n).started (s.ringBase n) e ∧ bit ((s.ringStart n).reg Reg.RING_CTRL n) 31 = true := by
  obtain ⟨m, hm⟩ := State.ringStart_runs he h
  rw [hm]
  exact ⟨s.ring_setRing_self n (fun q => q.started (s.ringBase n) e), s.bit_setF_self Reg.RING_CTRL n 31 1 (by decide) (by decide)⟩

theorem State.ringStart_fails {s : State} {n e : Nat} (he : fld (s.reg Reg.RING_CTRL n) 25 16 = e) (h : ¬s.mayStart n e) :
    s.ringStart n = s.setEvt Reg.RING_EVENTS n 4 := by
  unfold State.ringStart
  dsimp only
  rw [he, if_neg (mt (s.ringStart_test n e).mp h)]

/-- A ring that does not start keeps its state and sets BAD_SETUP (R390). -/
theorem State.ringStart_badSetup {s : State} {n e : Nat} (he : fld (s.reg Reg.RING_CTRL n) 25 16 = e) (h : ¬s.mayStart n e) :
    (s.ringStart n).rings = s.rings ∧ (s.ringStart n).reg Reg.RING_CTRL n = s.reg Reg.RING_CTRL n
      ∧ bit ((s.ringStart n).reg Reg.RING_EVENTS n) 4 = true := by
  rw [State.ringStart_fails he h]
  exact ⟨rfl, s.reg_setEvt_unit Reg.RING_CTRL Reg.RING_EVENTS n 4 (by decide) rfl rfl (by decide),
    s.setEvt_bit Reg.RING_EVENTS n 4 (by decide) (by decide)⟩

/-! ### The clearing of ENABLE, and RESUME -/

/-- An aborted CMD ring takes nothing more, and is disabled once it owes no completion (R391). -/
theorem State.ringAbort_cmd {s : State} {n : Nat} (hk : s.ringKind n = 0) :
    (s.ringAbort n).ring n = { s.ring n with dev := (s.ring n).db, role := none, aborting := true }.settle
      ∧ bit ((s.ringAbort n).reg Reg.RING_CTRL n) 31 = false := by
  have hkind : ((s.setF Reg.RING_CTRL n 31 31 0).setRing n (fun q => { q with dev := q.db, role := none })).ringKind n = 0 :=
    (congrArg (fld · 25 24) (ringOwn_setCtrl s n n _)).trans hk
  unfold State.ringAbort
  dsimp only
  rw [hkind]
  refine ⟨?_, s.bit_setF_self Reg.RING_CTRL n 31 0 (by decide) (by decide)⟩
  exact (State.ring_setRing_self ..).trans (congrArg (fun q : RingSt => { q with aborting := true }.settle) (State.ring_setRing_self ..))

theorem State.ringResume_running {s : State} {n : Nat} (h : (s.ring n).state = .running) : s.ringResume n = s := by
  unfold State.ringResume
  exact if_neg (by simp [h])

theorem State.ringResume_ring {s : State} {n : Nat} (h : (s.ring n).state = .pausedBus
      ∨ ((s.ring n).state = .pausedEvt ∧ (s.ring (s.ring n).evt).state = .running)) :
    (s.ringResume n).ring n = { s.ring n with state := .running } := by
  unfold State.ringResume
  dsimp only
  rw [if_pos (h.imp_right fun hp => ⟨hp.1, decide_eq_true hp.2⟩)]
  exact State.ring_setRing_self ..

/-- Settles O12: a write of RING_CTRL stores its fields, then starts, aborts or resumes the ring. That ENABLE succeeds while an abort's
completions are pending is log entry 39. -/
theorem ringControl : Obligations.RingControl := by
  refine ⟨?enable, ?badSetup, ?abort, ?resume⟩
  case enable =>
    intro s p n v hw hoff
    dsimp only
    intro ha hp hb he
    obtain ⟨w, hexec⟩ := exec_ringEnable v hw hoff
    obtain ⟨hring, hbit⟩ := State.ringStart_facts (State.ctrlStored_setEnable (s.afterAccess p w) n v)
      ((State.ctrlStored_mayStart ..).mpr ⟨ha, hp, hb, he⟩)
    rw [State.ringResume_running (congrArg RingSt.state hring), ite_self] at hexec
    refine ⟨_, hexec, ?_⟩
    rw [hring]
    exact ⟨rfl, rfl, rfl, ringBase_setCtrl .., rfl, hbit⟩
  case badSetup =>
    intro s p n v hw hoff
    dsimp only
    intro hbad hres
    obtain ⟨w, hexec⟩ := exec_ringEnable v hw hoff
    obtain ⟨hrings, hctrl, hevt⟩ := State.ringStart_badSetup (State.ctrlStored_setEnable (s.afterAccess p w) n v)
      (mt (State.ctrlStored_mayStart ..).mp hbad)
    rw [hres, if_neg Bool.false_ne_true] at hexec
    refine ⟨_, hexec, hrings, ?_, hevt⟩
    rw [hctrl, State.ctrlStored_enable]
    exact hoff
  case abort =>
    intro s p n v hw hon hk
    obtain ⟨w, hexec⟩ := exec_ringAbort v hw hon
    obtain ⟨hring, hbit⟩ := State.ringAbort_cmd (s := (s.afterAccess p w).ctrlStored n (v &&& 0x7FFFFFFF#32)) (n := n)
      ((congrArg (fld · 25 24) (ringOwn_setCtrl (s.afterAccess p w) n n _)).trans hk)
    refine ⟨_, hexec, ?_⟩
    rw [hring]
    refine ⟨RingSt.settle_dev _, RingSt.settle_outstanding _, fun h0 => ?_, hbit⟩
    exact congrArg RingSt.state (if_pos (decide_eq_true h0))
  case resume =>
    intro s p n v hw hon hp
    obtain ⟨w, hexec⟩ := exec_ringResume v hw hon
    have hring := State.ringResume_ring (s := (s.afterAccess p w).ctrlStored n (v ||| 0xC0000000#32)) hp
    refine ⟨_, hexec, ?_⟩
    rw [hring]
    exact ⟨rfl, rfl, rfl⟩

end Sys2Proof.Machine

/-! SUPPORT. Ring staging, and bus errors on descriptor reads (R396, R398, R406). -/

namespace Sys2Proof.Machine

theorem State.stagedWrite_next {s : State} {n : Nat} {x : Staged} {rest : List Staged} (hs : (s.ring n).staged = x :: rest)
    (hrun : (s.ring n).state = .running) (hroom : s.evtRoom n = true) (hx : (s.ring x.ring).state ≠ .pausedEvt) :
    s.stagedWrite n = (s.setRing n (fun q => { q with staged := rest })).putRec n
      (if x.named then x.record else { x.record with tick := s.time.tickNum }) x.irq false := by
  unfold State.stagedWrite
  rw [hs]
  exact if_pos ⟨hrun, hroom, hx⟩

theorem State.ringBusError_read {s : State} {n : Nat} (addr : Nat) (hrun : (s.ring n).state = .running)
    (hk : s.ringKind n = 0 ∨ s.ringKind n = 1) (hne : (s.ring n).dev ≠ (s.ring n).db) :
    s.ringBusError n addr none = s.ringBus n addr := by
  unfold State.ringBusError
  dsimp only
  have hgo : ¬((s.ring n).state ≠ .running ∨ s.ringKind n = 2 ∨ s.ringKind n = 3) := fun h => h.elim (fun c => c hrun) (by omega)
  rw [if_neg hgo, if_neg hne]

/-- A pair of registers just written reads as the value written, modulo its width. -/
theorem State.reg64_set64_mod (s : State) (lo hi : RegRow) (i v : Nat) (h1 : lo.win < 16) (h2 : hi.win < 16)
    (hne : lo.win ≠ hi.win ∨ lo.addr i ≠ hi.addr i) : (s.set64 lo hi i v).reg64 lo hi i = v % 2 ^ 64 := by
  unfold State.reg64 State.set64
  rw [State.reg_setReg_ne _ _ _ _ _ _ _ _ h2 hne, State.reg_setReg_self _ _ _ _ _ h1, State.reg_setReg_self _ _ _ _ _ h2]
  simp only [BitVec.toNat_ofNat]
  omega

/-- A bus error changes its ring's state and role, and no other ring. -/
theorem State.ringBus_ring (s : State) (n addr k : Nat) :
    (s.ringBus n addr).ring k = if k = n then { s.ring n with state := .pausedBus, role := none } else s.ring k :=
  s.ring_setRing n k (fun q => { q with state := .pausedBus, role := none })

theorem State.ringBus_addr (s : State) (n addr : Nat) :
    (s.ringBus n addr).reg64 Reg.RING_ERR_ADDR_LO Reg.RING_ERR_ADDR_HI n = addr % 2 ^ 64 := by
  unfold State.ringBus State.reg64
  rw [State.reg_setEvt_unit _ Reg.RING_ERR_ADDR_LO Reg.RING_EVENTS n 1 (by decide) rfl rfl (by decide),
    State.reg_setEvt_unit _ Reg.RING_ERR_ADDR_HI Reg.RING_EVENTS n 1 (by decide) rfl rfl (by decide)]
  exact State.reg64_set64_mod _ Reg.RING_ERR_ADDR_LO Reg.RING_ERR_ADDR_HI n addr (by decide) (by decide)
    (Or.inr (RegRow.addr_ne n rfl rfl (by decide)))

/-- Settles O13: the first record in staging by the write of one record, and a bus error by what it changes of its ring and registers
(the pause is R406's, the end of the role R487's). -/
theorem ringEvents : Obligations.RingEvents := by
  refine ⟨?staged, ?busError⟩
  case staged =>
    intro s n x rest hs hst hrun hroom hx htalks hide
    have hring := s.ring_setRing_self n (fun q => { q with staged := rest })
    obtain ⟨⟨msgs, hout, hmsgs⟩, hself, _⟩ := (s.setRing n (fun q => { q with staged := rest })).putRec_writes n
      (if x.named then x.record else { x.record with tick := s.time.tickNum }) x.irq false htalks (by rw [hring]; exact hide)
    rw [hring] at hout hself
    refine ⟨_, msgs, (State.go_run _ _ hs : execStagedRecordWrite n s = _), ?_⟩
    rw [State.stagedWrite_next hst hrun hroom hx, hself]
    exact ⟨rfl, rfl, hout, hmsgs⟩
  case busError =>
    intro s n addr hs hrun hk hne
    refine ⟨_, (State.go_run _ _ hs : execRingBusError n addr none s = _), ?_⟩
    rw [State.ringBusError_read addr hrun hk hne]
    exact ⟨(s.ringBus_ring n addr n).trans (if_pos rfl), fun k hne => (s.ringBus_ring n addr k).trans (if_neg hne), s.ringBus_addr n addr,
      State.setEvt_bit _ Reg.RING_EVENTS n 1 (by decide) (by decide)⟩

end Sys2Proof.Machine

/-! SUPPORT. Operations on table objects, the capture of a digest, and the transfers of the service channels (R444, R445, R535-R538,
R549). -/

namespace Sys2Proof.Machine

/-! ### The state in which a written operation acts -/

/-- The state that a port's access leaves, once the register written holds its fields. -/
def State.written (s : State) (p : Nat) (w : Tab Nat) (c : RegFile) : State := { s.afterAccess p w with cur := c }

theorem State.written_reg64 {s : State} {p k : Nat} {w : Tab Nat} {c : RegFile} {lo hi : RegRow}
    (hlo : (s.written p w c).reg lo k = s.reg lo k) (hhi : (s.written p w c).reg hi k = s.reg hi k) :
    (s.written p w c).reg64 lo hi k = s.reg64 lo hi k := by
  unfold State.reg64
  rw [hlo, hhi]

/-! ### Table objects -/

/-- A write of TOBJ_CTRL with GO, while no operation runs, starts the operation that OP names. -/
theorem State.rowWrite_tobjCtrl {s : State} {p : Nat} {v : Word} (h : s.writable p Reg.TOBJ_CTRL 0)
    (hidle : bit (s.reg Reg.TOBJ_CTRL) 31 = false) (hgo : bit v 31 = true) :
    ∃ w c, (∀ q : RegRow, q.addr 0 ≠ Reg.TOBJ_CTRL.addr 0 → (s.written p w c).reg q = s.reg q)
      ∧ (s.written p w c).digestRegs = s.digestRegs
      ∧ (fld v 27 24 = 1 → s.rowWrite p Reg.TOBJ_CTRL 0 v = (s.written p w c).tobjAlloc)
      ∧ (fld v 27 24 = 2 → s.rowWrite p Reg.TOBJ_CTRL 0 v = (s.written p w c).tobjSeal)
      ∧ (fld v 27 24 = 3 → s.rowWrite p Reg.TOBJ_CTRL 0 v = (s.written p w c).tobjFree) := by
  obtain ⟨w, hw⟩ := s.rowWrite_after p Reg.TOBJ_CTRL 0 v h
  obtain ⟨c, hreg, hdigest, halloc, hseal, hfree⟩ := (s.afterAccess p w).tobjCtrl_go v hidle hgo
  refine ⟨w, c, hreg, ?_, fun e => hw.trans (halloc e), fun e => hw.trans (hseal e), fun e => hw.trans (hfree e)⟩
  unfold State.digestRegs
  exact congrArg (fun f : Nat → Word => (List.range 12).flatMap (fun i => leBytes 4 (f i).toNat)) (funext hdigest)

/-- The object that ALLOC opens at index `i`: of the next generation, and of the size asked for (R535). -/
def State.newObj (s : State) (i : Nat) : ObjSt :=
  { gen := (s.obj.dir.get {} i).gen % 65535 + 1, phase := .open_, size := (s.reg Reg.TOBJ_SIZE).toNat }

/-- The object at index `i` is allocated, and no bytes of the old one are left. -/
def State.allocated (s : State) (i : Nat) : State :=
  let u := s.setObj i (fun _ => s.newObj i)
  ({ u with obj := { u.obj with heap := u.obj.heap.filter (fun c => decide (c.1 / 2 ^ 32 ≠ i)) } } : State).setReg
    Reg.TOBJ_RESULT_HANDLE 0 0 (BitVec.ofNat 32 ((s.newObj i).gen * 65536 + i))

theorem State.tobjAlloc_opens {s : State} {i : Nat} (hpos : 0 < (s.reg Reg.TOBJ_SIZE).toNat)
    (hmax : (s.reg Reg.TOBJ_SIZE).toNat ≤ 2952790016) (hfree : s.freeObj = some i)
    (hroom : heapUnits (s.reg Reg.TOBJ_SIZE).toNat ≤ s.heapFree) : s.tobjAlloc = (s.allocated i).tobjEnd stDone := by
  unfold State.tobjAlloc
  dsimp only
  rw [if_neg (by omega), hfree]
  exact if_neg (Nat.not_lt.mpr hroom)

theorem State.allocated_facts (s : State) (i : Nat) : (s.allocated i).obj.dir.get {} i = s.newObj i
    ∧ (s.allocated i).reg Reg.TOBJ_RESULT_HANDLE = BitVec.ofNat 32 ((s.newObj i).gen * 65536 + i)
    ∧ ∀ c ∈ (s.allocated i).obj.heap, c.1 / 2 ^ 32 ≠ i :=
  ⟨s.setObj_get i (fun _ => s.newObj i), State.reg_setReg_self _ _ _ _ _ (by decide),
    fun _ hc => of_decide_eq_true (List.mem_filter.mp hc).2⟩

/-- The seal of an open object starts, and GO stays set until its digest is done. -/
theorem State.tobjSeal_starts {s : State} {i : Nat} {o : ObjSt} (ho : s.obj? (s.reg Reg.TOBJ_HANDLE).toNat = some (i, o))
    (hopen : o.phase = .open_) : s.tobjSeal
      = (s.setObj i (fun q => { q with phase := .sealing, want := s.digestRegs })).setF Reg.TOBJ_CTRL 0 31 31 1 := by
  unfold State.tobjSeal
  rw [ho]
  exact if_pos hopen

theorem State.tobjFree_frees {s : State} {i : Nat} {o : ObjSt} (ho : s.obj? (s.reg Reg.TOBJ_HANDLE).toNat = some (i, o))
    (hheld : s.objHeld (s.reg Reg.TOBJ_HANDLE).toNat = false) : s.tobjFree = (s.setObj i (fun q => { gen := q.gen })).tobjEnd stDone := by
  unfold State.tobjFree
  dsimp only
  rw [ho, hheld]
  rfl

/-- A write of TOBJ_DIR_DIGEST of a SEALED object leaves its digest in the digest registers. -/
theorem State.dirDigest_captures {s : State} {i k : Nat} (h : (s.obj.dir.get ({} : ObjSt) i).phase = .sealed_) (hk : k < 12) :
    (s.dirDigest i).reg Reg.TOBJ_DIGEST k = BitVec.ofNat 32 (leAt (s.obj.dir.get ({} : ObjSt) i).digest (4 * k) 4) := by
  have hd : ∀ a ∈ List.range 12, Reg.TOBJ_DIGEST.addr a = Reg.TOBJ_DIGEST.addr k → a = k := fun a _ e => by
    simp only [RegRow.addr, Reg.TOBJ_DIGEST] at e
    omega
  unfold State.dirDigest
  dsimp only
  rw [if_neg (fun c => c h), State.setRegs_foldl _ (fun k => BitVec.ofNat 32 (leAt (s.obj.dir.get ({} : ObjSt) i).digest (4 * k) 4))
    (by decide) _ _ _ hd, if_pos (List.mem_range.mpr hk)]

/-! ### GO and ABORT of a service channel -/

/-- A field of SVC_CTRL below GO is the field written. -/
theorem svcCtrl_field (c v : Word) {hi lo : Nat} (hhi : hi < 31)
    (hm : (List.range 32).all (fun b => decide (b < lo) || decide (hi < b) || bit Reg.SVCCH_CTRL.rwi b) = true) :
    fld ((c &&& ~~~ Reg.SVCCH_CTRL.rwi) ||| ((v ||| 0x80000000) &&& Reg.SVCCH_CTRL.rwi)) hi lo = fld v hi lo :=
  (fld_masked c _ _ hi lo hm (by omega)).trans (fld_top' v _ hi lo fun b _ hb =>
    (bit_pow 31 b (by decide)).trans (decide_eq_false (by omega)))

theorem svcCtrl_noSnoop (c v : Word) :
    bit ((c &&& ~~~ Reg.SVCCH_CTRL.rwi) ||| ((v ||| 0x80000000) &&& Reg.SVCCH_CTRL.rwi)) 21 = bit v 21 := by
  rw [bit_or, bit_and, bit_and, bit_or, bit_not _ _ (by decide), show bit Reg.SVCCH_CTRL.rwi 21 = true by decide,
    show bit 0x80000000 21 = false by decide]
  simp

/-- The transfer that GO with the word `v` takes from the registers of channel `k`. -/
def State.transferOf (s : State) (p k : Nat) (v : Word) : ChanSt := {
  port := p, toHost := decide (fld v 29 28 = 1), pace := fld v 27 26, paceSel := fld v 25 22, noSnoop := bit v 21,
  host := s.reg64 Reg.SVCCH_HOST_LO Reg.SVCCH_HOST_HI k, obj := (s.reg Reg.SVCCH_OBJ k).toNat,
  offset := (s.reg Reg.SVCCH_OFFSET k).toNat, len := (s.reg Reg.SVCCH_LEN k).toNat, goTick := s.time.tickNum }

/-- Channel `k` is busy with the transfer `q`, which has the status word `n`. -/
def State.goTaken (s : State) (k : Nat) (q : ChanSt) (n : Word) : State :=
  (((s.setChan k (fun _ => q)).setReg Reg.SVCCH_DONE_BYTES k 0 0).setChan k (fun q => { q with busy := true })).setReg
    Reg.SVCCH_STATUS k 0 n

theorem State.goTaken_facts (s : State) (k : Nat) (q : ChanSt) (n : Word) : (s.goTaken k q n).chan k = { q with busy := true }
    ∧ (s.goTaken k q n).reg Reg.SVCCH_STATUS k = n ∧ (s.goTaken k q n).reg Reg.SVCCH_DONE_BYTES k = 0
    ∧ (s.goTaken k q n).obj = s.obj := by
  unfold State.goTaken
  refine ⟨?_, State.reg_setReg_self _ _ _ _ _ (by decide), ?_, rfl⟩
  · rw [State.setReg_chan, State.setChan_get, State.setReg_chan, State.setChan_get]
  · rw [State.reg_setReg_ne _ Reg.SVCCH_STATUS Reg.SVCCH_DONE_BYTES _ _ _ _ _ (by decide) (Or.inr (RegRow.addr_ne k rfl rfl (by decide))),
      State.reg_cur (State.setChan_cur ..), State.reg_setReg_self _ _ _ _ _ (by decide)]

/-- GO of an idle channel with good fields takes its transfer (R444). -/
theorem State.rowWrite_svcGo {s : State} {p k i : Nat} {v : Word} {o : ObjSt} (h : s.writable p Reg.SVCCH_CTRL k)
    (hidle : (s.chan k).busy = false) (hmode : s.dev.mode = .standby ∨ s.dev.mode = .operational)
    (ho : s.obj? (s.reg Reg.SVCCH_OBJ k).toNat = some (i, o)) (hpos : 0 < (s.reg Reg.SVCCH_LEN k).toNat)
    (hmax : (s.reg Reg.SVCCH_LEN k).toNat ≤ 1073741824)
    (hfits : (s.reg Reg.SVCCH_OFFSET k).toNat + (s.reg Reg.SVCCH_LEN k).toNat ≤ o.size) (hdir : fld v 29 28 ≤ 1)
    (hpace : fld v 27 26 ≠ 3) (hheld : fld v 29 28 = 1 ∨ s.objHeld (s.reg Reg.SVCCH_OBJ k).toNat = false) :
    ∃ w c, s.rowWrite p Reg.SVCCH_CTRL k (v ||| 0x80000000)
      = (s.written p w c).goTaken k (s.transferOf p k v) (BitVec.ofNat 32 (p * 2 ^ 28)) := by
  obtain ⟨w, hw⟩ := s.rowWrite_after p Reg.SVCCH_CTRL k (v ||| 0x80000000) h
  obtain ⟨c, hreg, hctrl, hgo⟩ := (s.afterAccess p w).svcCtrl_go p k (v ||| 0x80000000) (bit_or_pow v 31 (by decide)) hidle
  have hne : ∀ q : RegRow, q.win = Reg.SVCCH_CTRL.win → q.s1 = Reg.SVCCH_CTRL.s1 → q.base ≠ Reg.SVCCH_CTRL.base →
      (s.written p w c).reg q k = s.reg q k := fun q hwin hs1 hbase => hreg q (RegRow.addr_ne k hwin hs1 hbase)
  have hhost : (s.written p w c).reg64 Reg.SVCCH_HOST_LO Reg.SVCCH_HOST_HI k = s.reg64 Reg.SVCCH_HOST_LO Reg.SVCCH_HOST_HI k :=
    State.written_reg64 (hne _ rfl rfl (by decide)) (hne _ rfl rfl (by decide))
  refine ⟨w, c, (hw.trans hgo).trans ?_⟩
  refine (State.svcGo_ok (s.written p w c) p k i (fld v 29 28) (fld v 27 26) (fld v 25 22) (s.reg Reg.SVCCH_LEN k).toNat
    (s.reg Reg.SVCCH_OBJ k).toNat (s.reg Reg.SVCCH_OFFSET k).toNat (bit v 21) o hidle ?_ ?_ ?_ ?_ ?_ ?_ ?_ ?_ ho ?_ hheld).trans ?_
  · exact (congrArg (fld · 29 28) hctrl).trans (svcCtrl_field _ v (by decide) (by decide))
  · exact (congrArg (fld · 27 26) hctrl).trans (svcCtrl_field _ v (by decide) (by decide))
  · exact (congrArg (fld · 25 22) hctrl).trans (svcCtrl_field _ v (by decide) (by decide))
  · exact (congrArg (bit · 21) hctrl).trans (svcCtrl_noSnoop _ v)
  · rw [hne Reg.SVCCH_LEN rfl rfl (by decide)]
  · rw [hne Reg.SVCCH_OBJ rfl rfl (by decide)]
  · rw [hne Reg.SVCCH_OFFSET rfl rfl (by decide)]
  · exact fun c => hmode.elim c.1 c.2
  · omega
  · rw [hhost]
    rfl

/-- ABORT of a busy channel, without GO, ends its transfer ABORTED (R445). -/
theorem State.svcCtrl_abort {s : State} {p k : Nat} {v : Word} (habort : bit v 30 = true) (hgo : bit v 31 = false)
    (hbusy : (s.chan k).busy = true) : ∃ c, s.svcCtrl p k v = ({ s with cur := c } : State).chanEnd k stAborted := by
  obtain ⟨c, hc⟩ := s.storeBits_rest Reg.SVCCH_CTRL k 0 v (by decide)
  refine ⟨c, ?_⟩
  unfold State.svcCtrl
  rw [hc]
  dsimp only
  rw [habort, hgo, if_pos rfl, if_neg Bool.false_ne_true]
  exact if_pos hbusy

/-! ### The start and the end of a transfer -/

/-- A sealed object into which channel `k` writes is open again (R537). -/
def State.reopened (s : State) (k i : Nat) (o : ObjSt) : State :=
  if (s.chan k).toHost = false ∧ o.phase = .sealed_ then s.setObj i (fun q => { q with phase := .open_ }) else s

theorem State.reopened_facts (s : State) (k : Nat) {i h : Nat} {o : ObjSt} (ho : s.obj? h = some (i, o)) :
    (s.reopened k i o).obj.dir.get {} i
        = (if (s.chan k).toHost = false ∧ o.phase = .sealed_ then { o with phase := .open_ } else o)
      ∧ (s.reopened k i o).chan k = s.chan k ∧ (s.reopened k i o).out = s.out := by
  have hget := State.obj?_some ho
  unfold State.reopened
  split
  · refine ⟨?_, rfl, rfl⟩
    rw [s.setObj_get, ← hget]
  · exact ⟨hget.symm, rfl, rfl⟩

/-- The transfer of channel `k` runs, and its bytes wait for jobs. -/
def State.transferRuns (s : State) (k : Nat) : State :=
  ([8, 9] : List Nat).foldl (fun u r => u.addWork .service r 0 (s.chan k).len)
    (s.setChan k (fun q => { q with started := true, ready := false }))

theorem State.transferRuns_facts (s : State) (k : Nat) : (s.transferRuns k).chan k = { s.chan k with started := true, ready := false }
    ∧ (s.transferRuns k).obj = s.obj ∧ (s.transferRuns k).out = s.out := by
  have hk : Keeps 64 (s.setChan k (fun q => { q with started := true, ready := false })) (s.transferRuns k) :=
    Keeps.foldl (fun x _ h => Keeps.after (x.addWork_keeps _ _ _ _) rfl h) (Keeps.refl 64 _)
  refine ⟨?_, hk.same .obj rfl, hk.same .out rfl⟩
  unfold State.chan
  rw [show (s.transferRuns k).mover = _ from hk.same .mover rfl]
  exact s.setChan_get k _

/-- A transfer that is due, and whose object it may access, starts (R444, R537). -/
theorem State.svcStart_starts {s : State} {k i : Nat} {o : ObjSt} (hbusy : (s.chan k).busy = true) (hnew : (s.chan k).started = false)
    (hdue : if (s.chan k).pace = 0 then (s.chan k).goTick < s.time.tickNum else (s.chan k).ready = true)
    (ho : s.obj? (s.chan k).obj = some (i, o)) (hheld : (s.chan k).toHost = true ∨ s.objHeld (s.chan k).obj = false) :
    s.svcStart k = (s.reopened k i o).transferRuns k := by
  have hdue' : (if (s.chan k).pace = 0 then decide ((s.chan k).goTick < s.time.tickNum) else (s.chan k).ready) = true := by
    split
    next h0 => exact decide_eq_true (by rwa [if_pos h0] at hdue)
    next h0 => rwa [if_neg h0] at hdue
  have hopen : (!(s.chan k).toHost && s.objHeld (s.chan k).obj) = false := by
    rcases hheld with h | h <;> simp [h]
  have hreopen : (if (!(s.chan k).toHost && decide (o.phase = .sealed_)) = true then
      s.setObj i (fun q => { q with phase := .open_ }) else s) = s.reopened k i o := by
    unfold State.reopened
    simp only [Bool.and_eq_true, Bool.not_eq_true', decide_eq_true_eq]
  unfold State.svcStart
  dsimp only
  rw [hbusy, hnew, hdue', ho]
  dsimp only
  rw [if_neg (by decide), hopen, if_neg Bool.false_ne_true, hreopen]
  unfold State.transferRuns
  rw [(s.reopened_facts k ho).2.1]

/-- What the reads of channel `k` returned stands in the object that it writes. -/
def State.landed (s : State) (k : Nat) (data : List Byte) : State :=
  if (s.chan k).toHost then s
  else match s.obj? (s.chan k).obj with
    | some (i, _) => { s with obj := { s.obj with
        heap := hbmWrite s.obj.heap (i * 2 ^ 32 + (s.chan k).offset) (sliceBytes data 0 (s.chan k).len) } }
    | none => s

theorem State.landed_facts (s : State) (k : Nat) (data : List Byte) :
    (s.landed k data).mover = s.mover ∧ (s.landed k data).obj.dir = s.obj.dir
      ∧ ((s.chan k).toHost = true → (s.landed k data).obj.heap = s.obj.heap)
      ∧ ((s.chan k).toHost = false → ∀ i o, s.obj? (s.chan k).obj = some (i, o) →
          (s.landed k data).obj.heap = hbmWrite s.obj.heap (i * 2 ^ 32 + (s.chan k).offset) (sliceBytes data 0 (s.chan k).len)) := by
  unfold State.landed
  cases hto : (s.chan k).toHost with
  | true => exact ⟨rfl, rfl, fun _ => rfl, fun c => absurd c (by decide)⟩
  | false =>
    rw [if_neg Bool.false_ne_true]
    cases ho : s.obj? (s.chan k).obj with
    | none => exact ⟨rfl, rfl, fun c => absurd c (by decide), fun _ _ _ c => absurd c (by simp)⟩
    | some e =>
      refine ⟨rfl, rfl, fun c => absurd c (by decide), fun _ i o c => ?_⟩
      cases c
      rfl

/-- A transfer whose bytes have all moved ends, DONE unless IDE has stopped a request of it (R367, R445). -/
theorem State.svcDone_ends {s : State} {k : Nat} (data : List Byte) (hbusy : (s.chan k).busy = true) (hstarted : (s.chan k).started = true)
    (hall : (s.chan k).len ≤ (s.chan k).done) :
    s.svcDone k data = (s.landed k data).chanEnd k (if (s.chan k).sec = true then stSecurity else stDone) := by
  unfold State.svcDone
  dsimp only
  rw [hbusy, hstarted, decide_eq_false (Nat.not_lt.mpr hall)]
  rfl

/-- Settles O44: each operation by its equation, and what it leaves of objects, registers and channels. That a sealed object opens again
when the transfer into it starts, and that a request stopped by IDE ends a transfer SECURITY, is log entry 92. -/
theorem tableObjectsAndTransfers : Obligations.TableObjectsAndTransfers := by
  refine ⟨?captureDigest, ?alloc, ?sealOpen, ?free, ?go, ?abort, ?start, ?done⟩
  case captureDigest =>
    intro s p i hw hsealed
    obtain ⟨w, e⟩ := s.rowWrite_after p Reg.TOBJ_DIR_DIGEST i 0 hw
    refine ⟨_, (State.go_run _ _ hw.1 : execTobjDirDigestWrite p i s = _), fun k hk => ?_⟩
    rw [e]
    exact State.dirDigest_captures (s := s.afterAccess p w) hsealed hk
  case alloc =>
    intro s p i hw hidle hpos hmax hfree hroom
    obtain ⟨w, c, hreg, _, halloc, _⟩ := State.rowWrite_tobjCtrl (v := 0x81000000) hw hidle (by decide)
    have hsize : (s.written p w c).reg Reg.TOBJ_SIZE = s.reg Reg.TOBJ_SIZE := hreg _ (by decide)
    have hopens := State.tobjAlloc_opens (s := s.written p w c) (i := i) (by rwa [hsize]) (by rwa [hsize]) hfree
      (by rw [hsize]; exact hroom)
    obtain ⟨hresult, hgo, hhandle, hobj⟩ := ((s.written p w c).allocated i).tobjEnd_result stDone
    obtain ⟨hdir, hnew, hheap⟩ := (s.written p w c).allocated_facts i
    unfold State.newObj at hdir hnew
    rw [hsize] at hdir
    refine ⟨_, (State.go_run _ _ hw.1 : execTobjAlloc p s = _), ?_⟩
    rw [halloc (by decide), hopens, hobj]
    exact ⟨hdir, hhandle.trans hnew, hresult, hgo, hheap⟩
  case sealOpen =>
    intro s p i o hw hidle ho hopen
    obtain ⟨w, c, hreg, hdigest, _, hseal, _⟩ := State.rowWrite_tobjCtrl (v := 0x82000000) hw hidle (by decide)
    have hstarts := State.tobjSeal_starts (s := s.written p w c) (o := o) (by rw [hreg Reg.TOBJ_HANDLE (by decide)]; exact ho) hopen
    refine ⟨_, (State.go_run _ _ hw.1 : execTobjSeal p s = _), ?_⟩
    rw [hseal (by decide), hstarts, hdigest, State.setF_obj, State.setObj_get, State.obj?_some ho]
    exact ⟨rfl, State.bit_setF_self _ _ _ _ _ (by decide) (by decide)⟩
  case free =>
    intro s p i o hw hidle ho hheld
    obtain ⟨w, c, hreg, _, _, _, hfree⟩ := State.rowWrite_tobjCtrl (v := 0x83000000) hw hidle (by decide)
    have hhandle : (s.written p w c).reg Reg.TOBJ_HANDLE = s.reg Reg.TOBJ_HANDLE := hreg _ (by decide)
    have hfrees := State.tobjFree_frees (s := s.written p w c) (o := o) (by rw [hhandle]; exact ho) (by rw [hhandle]; exact hheld)
    obtain ⟨hresult, hgo, _, hobj⟩ := ((s.written p w c).setObj i (fun q => { gen := q.gen })).tobjEnd_result stDone
    refine ⟨_, (State.go_run _ _ hw.1 : execTobjFree p s = _), ?_⟩
    rw [hfree (by decide), hfrees, hobj, State.setObj_get, State.obj?_some ho]
    exact ⟨rfl, hresult, hgo⟩
  case go =>
    intro s p k i v o hw hidle hmode ho hpos hmax hfits hdir hpace hheld
    obtain ⟨w, c, e⟩ := State.rowWrite_svcGo hw hidle hmode ho hpos hmax hfits hdir hpace hheld
    refine ⟨_, (State.go_run _ _ hw.1 : execSvcGo p k v s = _), ?_⟩
    rw [e]
    exact (s.written p w c).goTaken_facts k (s.transferOf p k v) _
  case abort =>
    intro s p k v hw hbusy hgo
    obtain ⟨w, hwrite⟩ := s.rowWrite_after p Reg.SVCCH_CTRL k (v ||| 0x40000000) hw
    obtain ⟨c, e⟩ := State.svcCtrl_abort (s := s.afterAccess p w) (p := p) (k := k) (v := v ||| 0x40000000)
      (bit_or_pow v 30 (by decide)) (by rw [bit_or, hgo]; decide) hbusy
    obtain ⟨hchan, hstatus, hevt, hobj, _⟩ := (s.written p w c).chanEnd_facts k stAborted
    refine ⟨_, (State.go_run _ _ hw.1 : execSvcAbort p k v s = _), ?_⟩
    rw [hwrite.trans e]
    exact ⟨hchan, hstatus, hevt, hobj⟩
  case start =>
    intro s k i o hs hbusy hnew hdue ho hheld
    obtain ⟨hdir, hchan, hout⟩ := s.reopened_facts k ho
    obtain ⟨hruns, hobj, hsent⟩ := (s.reopened k i o).transferRuns_facts k
    refine ⟨_, (State.go_run _ _ hs : execSvcTransferStart k s = _), ?_⟩
    rw [State.svcStart_starts hbusy hnew hdue ho hheld, hruns, hchan, hobj]
    exact ⟨rfl, hdir, hsent.trans hout⟩
  case done =>
    intro s k data hs hk hbusy hstarted hall
    obtain ⟨hmover, hdir, hkept, hheap⟩ := s.landed_facts k data
    have hchans : ∀ j, (s.landed k data).chan j = s.chan j := fun j => congrArg (fun m => m.chans.get ({} : ChanSt) j) hmover
    obtain ⟨hchan, _, hevt, hobj, hready⟩ := (s.landed k data).chanEnd_facts k (if (s.chan k).sec = true then stSecurity else stDone)
    simp only [hchans] at hready
    refine ⟨_, (State.go_run _ _ hs : execSvcTransferDone k data s = _), ?_⟩
    rw [State.svcDone_ends data hbusy hstarted hall, hchan, hobj]
    refine ⟨rfl, rfl, rfl, hevt, hdir, hkept, hheap, fun hsec => hready ?_⟩
    rw [hsec]
    rfl

end Sys2Proof.Machine

/-! SUPPORT. Motion channels: the tracks and index of incremental channels, serial and sine reads, standstill, echo steps, probe
edges, trigger inputs and motion samples (R451, R452, R454, R455, R457, R460, R463-R465, R471, R475, R477). -/

namespace Sys2Proof.Machine

/-- Active values are read from the configuration slots alone. -/
theorem State.act_congr {s t : State} (h : t.cfg = s.cfg) (r : RegRow) (i j : Nat) : t.act r i j = s.act r i j := by
  unfold State.act State.activeSet
  rw [h]

theorem State.mchLive_lt {s : State} {ch : Nat} (h : s.mchLive ch = true) : ch < 24 := by
  unfold State.mchLive at h
  simp only [Bool.and_eq_true, decide_eq_true_eq] at h
  obtain ⟨⟨⟨hlt, _⟩, _⟩, _⟩ := h
  exact hlt

/-! ### The registers of one unit -/

/-- A written register leaves every other register of its unit. -/
theorem State.reg_setReg_unit (s : State) (q r : RegRow) (i : Nat) (v : Word) (hr : r.win < 16) (hw : q.win = r.win) (hs : q.s1 = r.s1)
    (hb : q.base ≠ r.base) : (s.setReg r i 0 v).reg q i = s.reg q i :=
  State.reg_setReg_ne _ _ _ _ _ _ _ _ hr (Or.inr (RegRow.addr_ne i hw hs hb))

/-- The words of a pair leave every other register of its unit. -/
theorem State.reg_set64_unit (s : State) (q lo hi : RegRow) (i v : Nat) (hl : lo.win < 16) (hh : hi.win < 16) (h1 : q.win = lo.win)
    (h2 : q.s1 = lo.s1) (h3 : q.base ≠ lo.base) (h4 : q.win = hi.win) (h5 : q.s1 = hi.s1) (h6 : q.base ≠ hi.base) :
    (s.set64 lo hi i v).reg q i = s.reg q i := by
  unfold State.set64
  rw [State.reg_setReg_unit _ q hi i _ hh h4 h5 h6, State.reg_setReg_unit _ q lo i _ hl h1 h2 h3]

/-! ### The tracks of an incremental channel (R451, R452) -/

/-- Both tracks of a quadrature channel at once are no count. -/
theorem countOf_both : ∀ t ≤ 3, ∀ a b : Bool, countOf t a b (!a) (!b) = 0 := by decide

/-- The new levels of A and B stand, with QUAD_ERR where both tracks of a quadrature channel changed. -/
def State.tracks (s : State) (ch : Nat) (a b : Bool) : State :=
  let u := s.setMch ch (fun q => { q with a := a, b := b })
  if s.mchType ch ≤ 3 ∧ a ≠ (s.mch ch).a ∧ b ≠ (s.mch ch).b then
    (u.setMch ch (fun q => { q with suspect := true })).mchAlarm ch 0
  else u

/-- The change of position that new levels give, in the direction that INVERT sets. -/
def State.trackCount (s : State) (ch : Nat) (a b : Bool) : Int :=
  let d := countOf (s.mchType ch) (s.mch ch).a (s.mch ch).b a b
  if bit (s.act Reg.MCH_CTRL ch) 4 then -d else d

theorem State.tracks_cfg (s : State) (ch : Nat) (a b : Bool) : (s.tracks ch a b).cfg = s.cfg := by
  unfold State.tracks
  dsimp only
  split
  · exact (State.mchAlarm_keeps ..).same .cfg rfl
  · rfl

theorem State.tracks_mch (s : State) (ch : Nat) (a b : Bool) :
    ((s.tracks ch a b).mch ch).a = a ∧ ((s.tracks ch a b).mch ch).b = b ∧ ((s.tracks ch a b).mch ch).pos = (s.mch ch).pos
      ∧ ((s.tracks ch a b).mch ch).referenced = (s.mch ch).referenced ∧ ((s.tracks ch a b).mch ch).z = (s.mch ch).z := by
  unfold State.tracks
  dsimp only
  split
  · rw [State.mchAlarm_mch, State.mch_setMch_self, State.mch_setMch_self]
    exact ⟨rfl, rfl, rfl, rfl, rfl⟩
  · rw [State.mch_setMch_self]
    exact ⟨rfl, rfl, rfl, rfl, rfl⟩

/-- Both tracks of a quadrature channel changed at once: the position is in doubt, and QUAD_ERR is raised. -/
theorem State.tracks_both (s : State) {ch : Nat} (ht : s.mchType ch ≤ 3) :
    ((s.tracks ch (!(s.mch ch).a) (!(s.mch ch).b)).mch ch).suspect = true
      ∧ bit ((s.tracks ch (!(s.mch ch).a) (!(s.mch ch).b)).reg Reg.MCH_EVENTS ch) 0 = true := by
  unfold State.tracks
  dsimp only
  rw [if_pos ⟨ht, by simp, by simp⟩, State.mchAlarm_mch, State.mch_setMch_self]
  exact ⟨rfl, State.mchAlarm_bit _ _ _ (by decide)⟩

/-- New levels of a live incremental channel: the count moves it, unless its position was set in this clock. -/
theorem State.incremental_live {s : State} {ch : Nat} (a b : Bool) (hlive : s.mchLive ch = true) (ht : s.mchType ch ≤ 5) :
    s.incremental ch a b = (if (s.mch ch).setAt = s.time.clk + 1 then s.tracks ch a b
      else (s.tracks ch a b).moveBy ch (s.tracks ch a b).time.clk (s.trackCount ch a b) (s.tracks ch a b).now16).indexCheck ch
        (s.mch ch).z := by
  unfold State.incremental State.tracks State.trackCount
  dsimp only
  rw [hlive, decide_eq_false (Nat.not_lt.mpr ht)]
  simp only [Bool.not_true, Bool.or_self, Bool.false_eq_true, if_false, Bool.and_eq_true, decide_eq_true_eq, and_assoc]

/-- Levels that count, with index events off. -/
theorem State.incremental_counts {s : State} {ch : Nat} (a b : Bool) (hlive : s.mchLive ch = true) (ht : s.mchType ch ≤ 5)
    (hoff : fld (s.act Reg.MCH_CTRL ch) 13 12 = 0) (hset : (s.mch ch).setAt ≠ s.time.clk + 1) :
    ((s.incremental ch a b).mch ch).a = a ∧ ((s.incremental ch a b).mch ch).b = b
      ∧ ((s.incremental ch a b).mch ch).pos = (s.mch ch).pos + posOf (s.trackCount ch a b)
      ∧ ((s.incremental ch a b).mch ch).referenced = (s.mch ch).referenced ∧ ((s.incremental ch a b).mch ch).z = (s.mch ch).z := by
  obtain ⟨ha, hb, hpos, href, hz⟩ := s.tracks_mch ch a b
  rw [State.incremental_live a b hlive ht, if_neg hset]
  generalize hu : (s.tracks ch a b).moveBy ch _ _ _ = u
  have hcfg : u.cfg = s.cfg := by
    rw [← hu]
    exact ((State.moveBy_keeps ..).same .cfg rfl).trans (s.tracks_cfg ch a b)
  obtain ⟨x, hcheck⟩ := u.indexCheck_off ch (s.mch ch).z (by rw [State.act_congr hcfg]; exact hoff)
  obtain ⟨hmove, hcore⟩ := (s.tracks ch a b).moveBy_mch ch (s.tracks ch a b).time.clk (s.trackCount ch a b) (s.tracks ch a b).now16
  rw [hu] at hmove hcore
  obtain ⟨ca, cb, cz, cref, _⟩ := MchSt.core_parts hcore
  rw [hcheck, State.mch_setMch_self]
  exact ⟨ca.trans ha, cb.trans hb, hmove.trans (by rw [hpos]), cref.trans href, cz.trans hz⟩

/-- Both tracks of a quadrature channel at once: nothing is counted, whatever the direction. -/
theorem State.incremental_both {s : State} {ch : Nat} (hlive : s.mchLive ch = true) (ht : s.mchType ch ≤ 3)
    (hoff : fld (s.act Reg.MCH_CTRL ch) 13 12 = 0) :
    ∃ x, s.incremental ch (!(s.mch ch).a) (!(s.mch ch).b)
      = (s.tracks ch (!(s.mch ch).a) (!(s.mch ch).b)).setMch ch (fun q => { q with indexOn := x }) := by
  have hzero : s.trackCount ch (!(s.mch ch).a) (!(s.mch ch).b) = 0 := by
    unfold State.trackCount
    rw [countOf_both _ ht]
    exact ite_self _
  have hstays : ∀ (u : State) (t : Nat) (x : Int), u.moveBy ch t 0 x = u := fun _ _ _ => if_pos rfl
  rw [State.incremental_live _ _ hlive (by omega), hzero, hstays, ite_self]
  exact State.indexCheck_off _ _ _ (by rw [State.act_congr (s.tracks_cfg ..)]; exact hoff)

/-! ### The index (R463, R464) -/

/-- The rise of Z is an index event where REF names one and no AB state gates it. -/
theorem State.indexCheck_rise {s : State} {ch : Nat} (ht : s.mchType ch ≤ 5) (hon : fld (s.act Reg.MCH_CTRL ch) 13 12 ≠ 0)
    (hgate : bit (s.act Reg.MCH_CTRL ch) 18 = false) (hz : (s.mch ch).z = true) :
    s.indexCheck ch false = (s.setMch ch (fun q => { q with indexOn := true })).indexEvent ch := by
  unfold State.indexCheck
  dsimp only
  rw [hgate, hz, decide_eq_true ht, decide_eq_true hon]
  rfl

/-- The first index event sets the position. -/
theorem State.indexEvent_first {s : State} {ch : Nat} (h : (s.mch ch).referenced = false) :
    ((s.indexEvent ch).mch ch).referenced = true ∧ ((s.indexEvent ch).mch ch).z = (s.mch ch).z
      ∧ ((s.indexEvent ch).mch ch).pos = pairPos (s.act Reg.MCH_INDEX_POS_LO ch) (s.act Reg.MCH_INDEX_POS_HI ch)
      ∧ (s.indexEvent ch).cur = s.cur := by
  have hz := (MchSt.core_parts (s.settled_core ch).1).2.2.1
  unfold State.indexEvent
  dsimp only
  rw [h, if_pos (by decide)]
  unfold State.placePos State.settle
  rw [State.mch_setMch_self, State.mch_setMch_self, State.mch_setMch_self]
  exact ⟨rfl, hz, rfl, rfl⟩

/-! ### Serial reads (R454, R455) -/

section Serial
variable {s : State} {ch raw ago crc : Nat} {ack nE nW high : Bool} (hlive : s.mchLive ch = true) (hago : ago ≤ s.time.clk)
include hlive hago

/-- A BiSS-C slave that does not acknowledge. -/
theorem State.serialRead_noAck (ht : s.mchType ch = 6) (hack : ack = false) :
    s.serialRead ch raw ack crc nE nW high ago = s.mchAlarm ch 4 := by
  unfold State.serialRead
  dsimp only
  rw [hlive, ht, hack, decide_eq_false (Nat.not_lt.mpr hago), if_neg (by decide), if_pos rfl]
  exact if_pos rfl

/-- An SSI data line that is low when the next read may start. -/
theorem State.serialRead_low (ht : s.mchType ch = 7 ∨ s.mchType ch = 8) (hhigh : high = false) :
    s.serialRead ch raw ack crc nE nW high ago = s.mchAlarm ch 4 := by
  unfold State.serialRead
  dsimp only
  rw [hlive, hhigh, decide_eq_false (Nat.not_lt.mpr hago)]
  rcases ht with ht | ht <;> rw [ht] <;> rfl

theorem State.serialRead_binary (ht : s.mchType ch = 7) (hhigh : high = true) :
    s.serialRead ch raw ack crc nE nW high ago = s.serialGood ch (raw % 2 ^ s.actF Reg.MCH_SERIAL ch 5 0) ago := by
  unfold State.serialRead
  dsimp only
  rw [hlive, hhigh, ht, decide_eq_false (Nat.not_lt.mpr hago), if_neg (by decide), if_neg (by decide), if_neg (by decide),
    if_neg (by decide)]

end Serial

/-- The first good read sets the position to its value and the offset. -/
theorem State.serialGood_first {s : State} {ch : Nat} (v ago : Nat) (hfirst : (s.mch ch).last = none) :
    ((s.serialGood ch v ago).mch ch).pos
        = BitVec.ofNat 48 v + pairPos (s.act Reg.MCH_OFFSET_LO ch) (s.act Reg.MCH_OFFSET_HI ch)
      ∧ ((s.serialGood ch v ago).mch ch).last = some v ∧ ((s.serialGood ch v ago).mch ch).referenced = true := by
  unfold State.serialGood
  dsimp only
  rw [hfirst, State.readDone_mch, State.mch_setMch_self]
  refine ⟨(State.moveBy_mch ..).1.trans ?_, rfl, rfl⟩
  exact posOf_posDiff _ _

/-! ### Sine and cosine samples (R456, R457) -/

theorem State.someVec_of_ne (s : State) {z : Int × Int} (h : z ≠ (0, 0)) : s.someVec z = (z, s) := if_pos h

section Sine
variable {s : State} {ch : Nat} {a b : Int} (hlive : s.mchLive ch = true) (ht : s.mchType ch = 9)
  (hgood : (s.mch ch).ampBad = false) (hvec : s.sinVec ch a b ≠ (0, 0))
include hlive ht hgood hvec

/-- The fourth sample in a row outside the window: AMP_BAD, and the position holds. -/
theorem State.sinSample_fourth (hout : s.ampIn ch (s.sinVec ch a b) = false) (hrun : (s.mch ch).ampRun = 3) :
    s.sinSample ch a b = (((s.setMch ch (fun q => { q with ampRun := 0 })).setMch ch (fun q => { q with ampBad := true })).mchAlarm
      ch 2).readDone ch s.now16 (s.mch ch).pos := by
  unfold State.sinSample
  dsimp only
  rw [hlive, ht, s.someVec_of_ne hvec, hout]
  dsimp only
  rw [hgood, hrun]
  rfl

/-- The first sample that is used moves the channel by its angle. -/
theorem State.sinSample_first (hin : s.ampIn ch (s.sinVec ch a b) = true) (hfirst : (s.mch ch).vec = none)
    (hset : (s.mch ch).setAt ≠ s.time.clk + 1) :
    let u := ((s.setMch ch (fun q => { q with ampRun := 0 })).setMch ch (fun q => { q with vec := some (s.sinVec ch a b) })).moveBy ch
      s.time.clk (anglePart (s.actF Reg.MCH_SINCOS ch 3 0) (s.sinVec ch a b) 0) s.now16
    s.sinSample ch a b = (u.readDone ch s.now16 (u.mch ch).pos).indexCheck ch (s.mch ch).z := by
  unfold State.sinSample
  dsimp only
  rw [hlive, ht, s.someVec_of_ne hvec, hin]
  dsimp only
  rw [hgood, hfirst]
  simp only [Bool.false_eq_true, false_and, if_false, State.setMch_time, decide_eq_false hset]
  rfl

/-- What the first sample that is used leaves, with index events off. -/
theorem State.sinSample_moves (hoff : fld (s.act Reg.MCH_CTRL ch) 13 12 = 0) (hin : s.ampIn ch (s.sinVec ch a b) = true)
    (hfirst : (s.mch ch).vec = none) (hset : (s.mch ch).setAt ≠ s.time.clk + 1) :
    ((s.sinSample ch a b).mch ch).ampBad = false ∧ ((s.sinSample ch a b).mch ch).vec = some (s.sinVec ch a b)
      ∧ ((s.sinSample ch a b).mch ch).pos
        = (s.mch ch).pos + posOf (anglePart (s.actF Reg.MCH_SINCOS ch 3 0) (s.sinVec ch a b) 0) := by
  rw [State.sinSample_first hlive ht hgood hvec hin hfirst hset]
  generalize hx : ((s.setMch ch (fun q => { q with ampRun := 0 })).setMch ch (fun q => { q with vec := some (s.sinVec ch a b) })) = x
  have hmch : x.mch ch = { s.mch ch with ampRun := 0, vec := some (s.sinVec ch a b) } := by
    rw [← hx, State.mch_setMch_self, State.mch_setMch_self]
  have hxcfg : x.cfg = s.cfg := by rw [← hx]; rfl
  obtain ⟨hpos, hcore⟩ := x.moveBy_mch ch s.time.clk (anglePart (s.actF Reg.MCH_SINCOS ch 3 0) (s.sinVec ch a b) 0) s.now16
  obtain ⟨_, _, _, _, _, hamp, _, hvec', _⟩ := MchSt.core_parts hcore
  generalize hu : x.moveBy ch s.time.clk (anglePart (s.actF Reg.MCH_SINCOS ch 3 0) (s.sinVec ch a b) 0) s.now16 = u at *
  have hucfg : u.cfg = s.cfg := by
    rw [← hu]
    exact ((State.moveBy_keeps ..).same .cfg rfl).trans hxcfg
  obtain ⟨i, e⟩ := (u.readDone ch s.now16 (u.mch ch).pos).indexCheck_off ch (s.mch ch).z
    (by rw [State.act_congr (((State.readDone_keeps ..).same .cfg rfl).trans hucfg)]; exact hoff)
  rw [e, State.mch_setMch_self, State.readDone_mch]
  exact ⟨hamp.trans (by rw [hmch]; exact hgood), hvec'.trans (by rw [hmch]), hpos.trans (by rw [hmch])⟩

end Sine

/-! ### Standstill and decay (R460) -/

theorem State.settled_still {s : State} {ch : Nat} (hlt : (s.mch ch).changeAt < s.time.clk)
    (h : s.actF Reg.MCH_TIMING ch 19 0 * 1000 ≤ (s.time.clk - (s.mch ch).changeAt) * 4) :
    s.settled ch = { s.mch ch with speed := 0, still := true, valid := false, run := [] } := by
  unfold State.settled State.settledTo
  dsimp only
  rw [if_neg (by omega), if_pos (by omega)]

theorem State.settled_decays {s : State} {ch : Nat} (hlt : (s.mch ch).changeAt < s.time.clk)
    (h : (s.time.clk - (s.mch ch).changeAt) * 4 < s.actF Reg.MCH_TIMING ch 19 0 * 1000) (hv : (s.mch ch).valid = true)
    (hfast : speedUnit < (s.mch ch).speed.natAbs * ((s.time.clk : Int) - (s.mch ch).changeAt)) :
    s.settled ch = { s.mch ch with
      speed := (if (s.mch ch).runNeg then -speedUnit else speedUnit).tdiv ((s.time.clk : Int) - (s.mch ch).changeAt) } := by
  unfold State.settled State.settledTo
  dsimp only
  rw [if_neg (by omega), if_neg (by omega), if_pos ⟨hv, hfast⟩]

/-- SPEED_STILL and SPEED_DECAY settle the speed of a live channel. -/
theorem exec_speed_settles {s : State} {ch : Nat} {x : Instr} (hx : x ∈ [.speedStill ch, .speedDecay ch]) (hs : s.svc.stopped = none)
    (hlive : s.mchLive ch = true) : exec x s = .next (s.settle ch) := by
  have h : exec x s = s.go (fun s => if s.mchLive ch then s.settle ch else s) := by
    simp only [List.mem_cons, List.not_mem_nil, or_false] at hx
    rcases hx with rfl | rfl <;> rfl
  rw [h, State.go_run _ _ hs, if_pos hlive]

/-! ### Echo outputs (R471) -/

/-- The outputs of an echo that has a step to take and may take it. -/
theorem State.echoStep_echo {s : State} {k : Nat} (hk : k < 8) (hon : bit (s.act Reg.ECHO_CTRL k) 0 = true)
    (hquad : bit (s.act Reg.ECHO_CTRL k) 1 = false) (hne : (s.echo k).pending ≠ 0)
    (hdue : (s.echo k).stepAt = none ∨ (∃ x, (s.echo k).stepAt = some x ∧ x + fld (s.act Reg.ECHO_CTRL k) 15 8 ≤ s.time.clk)) :
    (s.echoStep k).echo k = { s.echo k with
      pending := if decide (0 < (s.echo k).pending) then (s.echo k).pending - 1 else (s.echo k).pending + 1
      phase := if decide (0 < (s.echo k).pending) then ((s.echo k).phase + 1) % 4 else ((s.echo k).phase + 3) % 4
      stepAt := some s.time.clk } := by
  have hemit : ∀ (u : State) (c : Prop) [Decidable c] (x y : Out), (if c then u.emit x else u.emit y).echo k = u.echo k := by
    intro u c _ x y
    split <;> rfl
  unfold State.echoStep
  dsimp only
  rw [hon, hquad]
  rcases hdue with h | ⟨x, h, hx⟩
  · rw [h, if_neg (by simp [hne, Nat.not_le.mpr hk]), hemit, State.echo_setEcho_self]
  · rw [h, if_neg (by simp [hne, hx, Nat.not_le.mpr hk]), hemit, State.echo_setEcho_self]

/-! ### Probe edges (R465) -/

/-- The stamp of a probe's edge: no position of an earlier edge is waited for, the time is kept, and VALID is set. -/
def State.probeStamp (s : State) (k : Nat) (t : Int) : State :=
  (({ s with motion := { s.motion with waits := s.motion.waits.filter (fun w => !(w.forProbe && decide (w.owner = k))) } } : State).set64
    Reg.PRB_TIME_LO Reg.PRB_TIME_HI k (ofSigned 64 (t / 65536))).setEvt Reg.PRB_STATUS k 31

/-- One of the two channels of a probe is latched: its position now, and the wait for its next read. -/
def State.latchChannel (s : State) (k : Nat) (t : Int) (ch i : Nat) : State :=
  let w : PosWait := { channel := ch, forProbe := true, owner := k, index := i, at_ := t, before := none }
  (s.deliverPos w (s.posNow ch) false).waitFor w

theorem State.posNow_unread {s : State} {ch : Nat} (h : s.isRead ch = false) : s.posNow ch = (s.mch ch).pos := by
  unfold State.posNow
  rw [h]
  rfl

theorem State.latchChannel_first {s : State} {ch : Nat} (k : Nat) (t : Int) (h : s.isRead ch = false) :
    s.latchChannel k t ch 0 = s.set64 Reg.PRB_POS0_LO Reg.PRB_POS0_HI k ((s.mch ch).pos.signExtend 64).toNat := by
  rw [← State.posNow_unread h]
  exact State.waitFor_not (s.set64 Reg.PRB_POS0_LO Reg.PRB_POS0_HI k _) _ h

theorem State.latchChannel_second {s : State} {ch : Nat} (k : Nat) (t : Int) (h : s.isRead ch = false) :
    s.latchChannel k t ch 1 = s.set64 Reg.PRB_POS1_LO Reg.PRB_POS1_HI k ((s.mch ch).pos.signExtend 64).toNat := by
  rw [← State.posNow_unread h]
  exact State.waitFor_not (s.set64 Reg.PRB_POS1_LO Reg.PRB_POS1_HI k _) _ h

/-- Both channels of a probe latched, where neither is read. -/
theorem State.latchChannels_unread {s : State} {c0 c1 : Nat} (k : Nat) (t : Int) (h0 : s.isRead c0 = false) (h1 : s.isRead c1 = false) :
    (s.latchChannel k t c0 0).latchChannel k t c1 1
      = (s.set64 Reg.PRB_POS0_LO Reg.PRB_POS0_HI k ((s.mch c0).pos.signExtend 64).toNat).set64 Reg.PRB_POS1_LO Reg.PRB_POS1_HI k
        ((s.mch c1).pos.signExtend 64).toNat := by
  rw [State.latchChannel_first k t h0]
  exact State.latchChannel_second (s := s.set64 Reg.PRB_POS0_LO Reg.PRB_POS0_HI k _) k t h1

/-- A selected edge of a probe that holds no latched one. -/
theorem State.probeEdge_latches {s : State} {k : Nat} {rise : Bool} (hk : k < 8) (hon : bit (s.reg Reg.PRB_CTRL k) 0 = true)
    (hsel : fld (s.reg Reg.PRB_CTRL k) 2 1 = 2 ∨ fld (s.reg Reg.PRB_CTRL k) 2 1 = (if rise then 0 else 1))
    (hfree : bit (s.reg Reg.PRB_STATUS k) 31 = false) :
    let t := (s.now16 : Int) - Config.inputDelay 0 * 65536
    s.probeEdge k rise = ((s.probeStamp k t).latchChannel k t (fld (s.reg Reg.PRB_CTRL k) 12 8) 0).latchChannel k t
      (fld (s.reg Reg.PRB_CTRL k) 20 16) 1 := by
  have hgo : ¬(8 ≤ k ∨ (!bit (s.reg Reg.PRB_CTRL k) 0) = true ∨ (!(decide (fld (s.reg Reg.PRB_CTRL k) 2 1 = 2)
      || decide (fld (s.reg Reg.PRB_CTRL k) 2 1 = (if rise then 0 else 1)))) = true) := by
    rcases hsel with h | h <;> simp [hon, h, Nat.not_le.mpr hk]
  unfold State.probeEdge
  dsimp only
  rw [if_neg hgo, hfree]
  simp only [Bool.false_and, Bool.false_eq_true, if_false]
  generalize (s.now16 : Int) - Config.inputDelay 0 * 65536 = t
  rfl

/-- The two positions of a latch leave its time and its status, and are read back as they were. -/
theorem State.positions_facts (s : State) (k : Nat) (p0 p1 : Pos) :
    let u := (s.set64 Reg.PRB_POS0_LO Reg.PRB_POS0_HI k (p0.signExtend 64).toNat).set64 Reg.PRB_POS1_LO Reg.PRB_POS1_HI k
      (p1.signExtend 64).toNat
    u.reg Reg.PRB_STATUS k = s.reg Reg.PRB_STATUS k
      ∧ u.reg64 Reg.PRB_TIME_LO Reg.PRB_TIME_HI k = s.reg64 Reg.PRB_TIME_LO Reg.PRB_TIME_HI k
      ∧ u.reg64 Reg.PRB_POS0_LO Reg.PRB_POS0_HI k = (p0.signExtend 64).toNat
      ∧ u.reg64 Reg.PRB_POS1_LO Reg.PRB_POS1_HI k = (p1.signExtend 64).toNat := by
  have hpos0 : ∀ (u : State) (q : RegRow) (v : Nat), q.win = 12 → q.s1 = 0x40 → q.base ≠ 0xd3010 → q.base ≠ 0xd3014 →
      (u.set64 Reg.PRB_POS0_LO Reg.PRB_POS0_HI k v).reg q k = u.reg q k := fun u q v hw hs hl hh =>
    u.reg_set64_unit q _ _ k v (by decide) (by decide) hw hs hl hw hs hh
  have hpos1 : ∀ (u : State) (q : RegRow) (v : Nat), q.win = 12 → q.s1 = 0x40 → q.base ≠ 0xd3018 → q.base ≠ 0xd301c →
      (u.set64 Reg.PRB_POS1_LO Reg.PRB_POS1_HI k v).reg q k = u.reg q k := fun u q v hw hs hl hh =>
    u.reg_set64_unit q _ _ k v (by decide) (by decide) hw hs hl hw hs hh
  refine ⟨?_, ?_, ?_, ?_⟩
  · rw [hpos1 _ Reg.PRB_STATUS _ rfl rfl (by decide) (by decide), hpos0 _ Reg.PRB_STATUS _ rfl rfl (by decide) (by decide)]
  · unfold State.reg64
    rw [hpos1 _ Reg.PRB_TIME_LO _ rfl rfl (by decide) (by decide), hpos0 _ Reg.PRB_TIME_LO _ rfl rfl (by decide) (by decide),
      hpos1 _ Reg.PRB_TIME_HI _ rfl rfl (by decide) (by decide), hpos0 _ Reg.PRB_TIME_HI _ rfl rfl (by decide) (by decide)]
  · unfold State.reg64
    rw [hpos1 _ Reg.PRB_POS0_LO _ rfl rfl (by decide) (by decide), hpos1 _ Reg.PRB_POS0_HI _ rfl rfl (by decide) (by decide)]
    exact State.reg64_set64 _ Reg.PRB_POS0_LO Reg.PRB_POS0_HI k _ (by decide) (by decide)
      (Or.inr (RegRow.addr_ne k rfl rfl (by decide))) (p0.signExtend 64).isLt
  · exact State.reg64_set64 _ Reg.PRB_POS1_LO Reg.PRB_POS1_HI k _ (by decide) (by decide)
      (Or.inr (RegRow.addr_ne k rfl rfl (by decide))) (p1.signExtend 64).isLt

theorem State.probeStamp_time (s : State) (k : Nat) (t : Int) :
    (s.probeStamp k t).reg64 Reg.PRB_TIME_LO Reg.PRB_TIME_HI k = ofSigned 64 (t / 65536) % 2 ^ 64 := by
  unfold State.probeStamp State.reg64
  rw [State.reg_setEvt_unit _ Reg.PRB_TIME_LO Reg.PRB_STATUS k 31 (by decide) rfl rfl (by decide),
    State.reg_setEvt_unit _ Reg.PRB_TIME_HI Reg.PRB_STATUS k 31 (by decide) rfl rfl (by decide)]
  exact State.reg64_set64_mod _ Reg.PRB_TIME_LO Reg.PRB_TIME_HI k _ (by decide) (by decide)
    (Or.inr (RegRow.addr_ne k rfl rfl (by decide)))

/-! ### Trigger inputs and bursts (R475) -/

/-- A burst trigger of a LIVE rig with its source armed: a burst without pre-roll begins at the second boundary. -/
theorem State.burstEvent_live {s : State} {r : Nat} (harmed : bit (s.reg Reg.RIG_TRIG_STATUS r) 0 = true) (hlive : s.rigMode r = .live)
    (hproj : (s.projRig r).1 = .live) (hm : s.dev.mode = .operational) (hb : s.dev.bound = [])
    (hfloor : s.underFloor s.takeSecs (s.seqOf 0) = false) :
    s.burstEvent r = ((s.makeTake r s.takeSecs (s.seqOf 0) true false (s.act Reg.RIG_TRIG_POST r).toNat 0).markLeaving r 0x16
      true).pushBound ⟨s.time.tickNum + 2, none,
        .rig r .trigger .burst 0 (s.act Reg.RIG_TRIG_POST r).toNat s.takes.nextTake 0xFF⟩ := by
  unfold State.burstEvent
  dsimp only
  rw [harmed, hlive, hproj, hm, hb, hfloor]
  rfl

/-- A selected edge of a trigger input is an event of its source. -/
theorem State.trigIn_selected {s : State} {k : Nat} {rise : Bool} (hk : k < 8)
    (hedge : (s.actF Reg.TRIG_IN_EDGE 0 (2 * k + 1) (2 * k)).testBit (if rise then 0 else 1) = true) :
    s.trigIn k rise
      = s.rigSource (0x20 + k) ((s.now16 : Int) - Config.inputDelay (s.actF Reg.TRIG_IN_FILT 0 3 0) * 65536) := by
  unfold State.trigIn
  dsimp only
  rw [hedge]
  exact if_neg (by simp [Nat.not_le.mpr hk])

/-! ### Motion samples (R476, R477) -/

/-- The frame with its next sample point taken: the sampled position and the flags of every channel of its mask (R476, R478). -/
def State.sampled (s : State) (k : Nat) (f : FrameSt) : FrameSt := { f with
  msNext := k + 1
  motion := (setBits f.msMask 24).foldl (fun (m : Tab Nat) ch =>
    m.put 0 (ch * 16 + k) ((s.posNow ch).toNat + 2 ^ 48 * s.sampleFlags ch f.rig)) f.motion }

/-- The state after a frame's next point: channels that are read are waited for. -/
def State.pointTaken (s : State) (f : FrameSt) : State :=
  (setBits f.msMask 24).foldl (fun (u : State) ch =>
      u.waitFor { channel := ch, forProbe := false, owner := f.id, index := f.msNext, at_ := f.samplePoint f.msNext, before := none })
    (s.setFrame f.id (fun g => { g with
      msNext := f.msNext + 1
      motion := (setBits f.msMask 24).foldl (fun (m : Tab Nat) ch =>
        m.put 0 (ch * 16 + f.msNext) ((s.posNow ch).toNat + 2 ^ 48 * s.sampleFlags ch g.rig)) g.motion }))

theorem State.pointTaken_facts {s : State} {f : FrameSt} (h : s.store.frames = [f]) :
    (s.pointTaken f).store.frames = [s.sampled f.msNext f] ∧ (s.pointTaken f).time = s.time := by
  have hk := fun u : State => Keeps.foldl (l := setBits f.msMask 24) (f := fun (u : State) ch =>
    u.waitFor { channel := ch, forProbe := false, owner := f.id, index := f.msNext, at_ := f.samplePoint f.msNext, before := none })
    (fun x _ hx => (x.waitFor_keeps _).after rfl hx) (Keeps.refl 32768 u)
  refine ⟨(congrArg StoreState.frames ((hk _).same .store rfl)).trans ?_, (hk _).same .time rfl⟩
  show s.store.frames.map _ = _
  rw [h, List.map_singleton, if_pos rfl]
  rfl

theorem State.frame?_single {s : State} {f : FrameSt} (h : s.store.frames = [f]) : s.frame? f.id = some f := by
  unfold State.frame?
  rw [h, List.find?_cons_of_pos (by simp)]

theorem State.takePoints_stops {s : State} {f : FrameSt} (n : Nat) (h : s.store.frames = [f])
    (hlast : f.msNext = f.msPoints ∨ (s.now16 : Int) < f.samplePoint f.msNext) : s.takePoints f.id n = s := by
  cases n with
  | zero => rfl
  | succ n =>
    unfold State.takePoints
    rw [State.frame?_single h]
    refine if_pos ?_
    simp only [Bool.or_eq_true, decide_eq_true_eq]
    rcases hlast with hlast | hlast
    · exact Or.inl (Or.inr (Nat.le_of_eq hlast.symm))
    · exact Or.inr hlast

/-- A frame of which one point is due takes that point alone. -/
theorem State.takePoints_one {s : State} {f : FrameSt} (n : Nat) (h : s.store.frames = [f])
    (hopen : f.phase = .triggered ∨ f.phase = .opened ∨ f.phase = .ended) (hleft : f.msNext < f.msPoints)
    (hdue : f.samplePoint f.msNext ≤ s.now16)
    (hlast : f.msNext + 1 = f.msPoints ∨ (s.now16 : Int) < f.samplePoint (f.msNext + 1)) :
    (s.takePoints f.id (n + 1)).store.frames = [s.sampled f.msNext f] := by
  obtain ⟨hframes, htime⟩ := State.pointTaken_facts h
  have hnow : (s.pointTaken f).now16 = s.now16 := by
    unfold State.now16
    rw [htime]
  have hstep : s.takePoints f.id (n + 1) = (s.pointTaken f).takePoints f.id n := by
    rw [State.takePoints, State.frame?_single h]
    refine if_neg ?_
    rcases hopen with hp | hp | hp <;> simp [hp, hleft, hdue]
  rw [hstep, show f.id = (s.sampled f.msNext f).id from rfl,
    State.takePoints_stops n hframes (by rw [hnow]; exact hlast), hframes]

theorem State.motionSample_frames {s : State} {f : FrameSt} (h : s.store.frames = [f])
    (hopen : f.phase = .triggered ∨ f.phase = .opened ∨ f.phase = .ended) (hleft : f.msNext < f.msPoints)
    (hdue : f.samplePoint f.msNext ≤ s.now16)
    (hlast : f.msNext + 1 = f.msPoints ∨ (s.now16 : Int) < f.samplePoint (f.msNext + 1)) :
    (s.motionSample f.rig).store.frames = [s.sampled f.msNext f] := by
  have hmine : s.store.frames.filter (fun g => decide (g.rig = f.rig)) = [f] := by
    rw [h, List.filter_cons_of_pos (by simp), List.filter_nil]
  have htold := fun (l : List Nat) (u : State) => Keeps.foldl (l := l) (f := fun (u : State) ch =>
    u.setMch ch (fun q => { q with told := q.told.put 0 f.rig q.alarms })) (fun x _ hx => (x.setMch_keeps _ _).after rfl hx)
    (Keeps.refl 32768 u)
  unfold State.motionSample
  dsimp only
  rw [hmine]
  exact (congrArg StoreState.frames ((htold _ _).same .store rfl)).trans (State.takePoints_one 15 h hopen hleft hdue hlast)

/-- Settles O38: each command by its equation, and what that leaves of the channel, the echo, the probe or the frame. The fixed
delay of a probe's input is log entry 57; that the first reading of a serial or sine channel counts as a change is 106, and what a probe
or a sample takes of a channel that is read is 108. -/
theorem motionChannels : Obligations.MotionChannels := by
  refine ⟨?count, ?quadErr, ?index, ?serial, ?amplitude, ?sine, ?speed, ?echo, ?probe, ?trigger, ?sample⟩
  case count =>
    intro s ch a b d hs hlive ht hoff hset hd
    subst hd
    exact ⟨_, (State.go_run _ _ hs : execPositionCount ch a b s = _), State.incremental_counts a b hlive ht hoff hset⟩
  case quadErr =>
    intro s ch hs hlive ht hoff
    obtain ⟨x, e⟩ := State.incremental_both hlive ht hoff
    obtain ⟨ha, hb, hpos, _, _⟩ := s.tracks_mch ch (!(s.mch ch).a) (!(s.mch ch).b)
    obtain ⟨hsuspect, hevt⟩ := s.tracks_both ht
    refine ⟨_, (State.go_run _ _ hs : execQuadErr ch s = _), ?_⟩
    rw [if_neg (Nat.not_lt.mpr ht), e, State.mch_setMch_self]
    exact ⟨hsuspect, hevt, ha, hb, hpos⟩
  case index =>
    intro s ch hs hlive ht hon hgate hz href
    refine ⟨_, (State.go_run _ _ hs : execIndexEvent ch true s = _), ?_⟩
    rw [hlive, hz, if_neg (by decide)]
    dsimp only
    rw [State.indexCheck_rise (s := s.setMch ch (fun q => { q with z := true })) ht hon hgate (by rw [State.mch_setMch_self])]
    obtain ⟨hnow, hlevel, hpos, hcur⟩ := State.indexEvent_first (s := (s.setMch ch (fun q => { q with z := true })).setMch ch
      (fun q => { q with indexOn := true })) (ch := ch) (by rw [State.mch_setMch_self, State.mch_setMch_self]; exact href)
    exact ⟨hnow, hlevel.trans (by rw [State.mch_setMch_self, State.mch_setMch_self]), hpos, hcur⟩
  case serial =>
    intro s ch raw ack crc nE nW high ago hs hlive hago
    have halarm : bit ((s.mchAlarm ch 4).reg Reg.MCH_EVENTS ch) 4 = true ∧ ((s.mchAlarm ch 4).mch ch).pos = (s.mch ch).pos :=
      ⟨State.mchAlarm_bit _ _ _ (by decide), by rw [State.mchAlarm_mch]⟩
    refine ⟨_, (State.go_run _ _ hs : execSerialRead ch raw ack crc nE nW high ago s = _), fun ht hack => ?_, fun ht hlow => ?_,
      fun ht hhigh hfirst => ?_⟩
    · rw [State.serialRead_noAck hlive hago ht hack]
      exact halarm
    · rw [State.serialRead_low hlive hago ht hlow]
      exact halarm
    · rw [State.serialRead_binary hlive hago ht hhigh]
      exact State.serialGood_first _ _ hfirst
  case amplitude =>
    intro s ch a b hs hlive ht hout hgood hrun hvec
    refine ⟨_, (State.go_run _ _ hs : execSincosSample ch a b s = _), ?_⟩
    rw [State.sinSample_fourth hlive ht hgood hvec hout hrun, State.readDone_mch, State.mchAlarm_mch, State.mch_setMch_self,
      State.mch_setMch_self, State.readDone_events _ _ _ _ _ (State.mchLive_lt hlive)]
    exact ⟨rfl, rfl, State.mchAlarm_bit _ _ _ (by decide)⟩
  case sine =>
    intro s ch a b hs hlive ht hoff hin hgood _ hvec hfirst hset
    exact ⟨_, (State.go_run _ _ hs : execSincosSample ch a b s = _),
      State.sinSample_moves hlive ht hgood hvec hoff hin hfirst hset⟩
  case speed =>
    intro s ch x hx hs hlive hlt
    refine ⟨_, exec_speed_settles hx hs hlive, ?_⟩
    have hmch : (s.settle ch).mch ch = s.settled ch := State.mch_setMch_self ..
    rw [hmch]
    refine ⟨(s.settled_core ch).2, rfl, fun h => ?_, fun h hv hfast => ?_⟩
    · rw [State.settled_still hlt h]
      exact ⟨rfl, rfl, rfl⟩
    · rw [State.settled_decays hlt h hv hfast]
  case echo =>
    intro s k hs hk hon hquad hdue
    refine ⟨_, (State.go_run _ _ hs : execEchoStep k s = _), fun h => ?_, fun h => ?_⟩
    · rw [State.echoStep_echo hk hon hquad (by omega) hdue, decide_eq_true h]
      exact ⟨rfl, rfl, rfl⟩
    · rw [State.echoStep_echo hk hon hquad (by omega) hdue, decide_eq_false (by omega)]
      exact ⟨rfl, rfl, rfl⟩
  case probe =>
    intro s k rise hs hk hon hsel hfree h0 h1
    refine ⟨_, (State.go_run _ _ hs : execProbeEdge k rise s = _), ?_⟩
    rw [State.probeEdge_latches hk hon hsel hfree]
    generalize (s.now16 : Int) - Config.inputDelay 0 * 65536 = t
    rw [State.latchChannels_unread (s := s.probeStamp k t) k t h0 h1]
    obtain ⟨hstatus, htime, hpos⟩ := (s.probeStamp k t).positions_facts k (s.mch (fld (s.reg Reg.PRB_CTRL k) 12 8)).pos
      (s.mch (fld (s.reg Reg.PRB_CTRL k) 20 16)).pos
    refine ⟨(congrArg (bit · 31) hstatus).trans (State.setEvt_bit _ _ _ _ (by decide) (by decide)), ?_, hpos⟩
    exact htime.trans (s.probeStamp_time k t)
  case trigger =>
    intro s k r rise hs hk hr hedge hframe hburst harmed hlive hproj hm hb hfloor
    refine ⟨_, (State.go_run _ _ hs : execTrigInEdge k rise s = _), ?_⟩
    rw [State.trigIn_selected hk hedge, State.rigSource_one _ _ r _ hr hframe hburst,
      State.burstEvent_live harmed hlive hproj hm hb hfloor]
    refine ⟨?_, rfl⟩
    show s.dev.bound ++ [_] = _
    rw [hb]
    rfl
  case sample =>
    intro s r f hs hframes hrig hopen hleft hdue hlast
    subst hrig
    exact ⟨_, _, (State.go_run _ _ hs : execMotionSample f.rig s = _),
      State.motionSample_frames hframes hopen hleft hdue hlast, rfl, rfl⟩

end Sys2Proof.Machine

/-! SUPPORT. Writes of compare units, set positions and probe status; wakes that fail, clocks that stop again, and the end of a lockstep
recovery (R459, R467, R468, R480, R482, R592-R594, R596). -/

namespace Sys2Proof.Machine

/-! ### Compare targets and set positions (R459, R480, R482) -/

/-- A write of the upper half of a pair acts on both halves, the lower as the port holds it. -/
theorem State.rowWrite_pair {s : State} {p i : Nat} {lo hi : RegRow} (v : Word) (h : s.writable p hi i) (hh : hi.half = .hi)
    (hw : hi.rw ||| hi.rwi ≠ 0) (hlo : hi.addr i - 4 = lo.addr i) :
    ∃ w, s.rowWrite p hi i v = (s.afterAccess p w).pairAct hi i 0 ((s.port p).heldLo.get 0 (lo.addr i)) v := by
  obtain ⟨w, e⟩ := s.rowWrite_after p hi i v h
  refine ⟨w, e.trans ?_⟩
  unfold State.regAct
  rw [hh, ← hlo, ← s.afterAccess_heldLo p w]
  exact if_neg hw

theorem State.cmpTargetWrite_facts (s : State) (u : Nat) (lo hi : Word) :
    (s.cmpTargetWrite u lo hi).reg Reg.CMP_TARGET_LO u = lo ∧ (s.cmpTargetWrite u lo hi).reg Reg.CMP_TARGET_HI u = hi
      ∧ ((s.cmpTargetWrite u lo hi).cmp u).wroteAt = s.time.clk + 1
      ∧ ((s.cmp u).wroteAt ≠ s.time.clk + 1 → ((s.cmpTargetWrite u lo hi).cmp u).oldTarget = s.cmpTarget u)
      ∧ (s.cmpTargetWrite u lo hi).reg Reg.CMP_STATUS u = s.reg Reg.CMP_STATUS u ∧ (s.cmpTargetWrite u lo hi).out = s.out := by
  have hreg : ∀ q : RegRow, (s.cmpTargetWrite u lo hi).reg q u
      = ((s.setReg Reg.CMP_TARGET_LO u 0 lo).setReg Reg.CMP_TARGET_HI u 0 hi).reg q u := fun _ => rfl
  have hcmp : (s.cmpTargetWrite u lo hi).cmp u = { s.cmp u with
      wroteAt := s.time.clk + 1
      oldTarget := if (s.cmp u).wroteAt = s.time.clk + 1 then (s.cmp u).oldTarget else s.cmpTarget u } := State.setCmp_get ..
  rw [hreg, hreg, hreg, hcmp]
  refine ⟨?_, State.reg_setReg_self _ _ _ _ _ (by decide), rfl, fun hne => if_neg hne, ?_, rfl⟩
  · rw [State.reg_setReg_unit _ Reg.CMP_TARGET_LO Reg.CMP_TARGET_HI u _ (by decide) rfl rfl (by decide),
      State.reg_setReg_self _ _ _ _ _ (by decide)]
  · rw [State.reg_setReg_unit _ Reg.CMP_STATUS Reg.CMP_TARGET_HI u _ (by decide) rfl rfl (by decide),
      State.reg_setReg_unit _ Reg.CMP_STATUS Reg.CMP_TARGET_LO u _ (by decide) rfl rfl (by decide)]

/-- A set position is written, and taken at once where the channel is powered. -/
theorem State.mchSetPos_facts (s : State) (ch : Nat) (lo hi : Word) :
    (s.mchPowered ch = true → ((s.mchSetPos ch lo hi).mch ch).pos = pairPos lo hi ∧ ((s.mchSetPos ch lo hi).mch ch).referenced = true
        ∧ ((s.mchSetPos ch lo hi).mch ch).suspect = false ∧ ((s.mchSetPos ch lo hi).mch ch).setDue = false)
      ∧ (s.mchPowered ch = false → (s.mchSetPos ch lo hi).mch ch = { s.mch ch with setDue := true })
      ∧ (s.mchSetPos ch lo hi).reg Reg.MCH_SET_POS_LO ch = lo ∧ (s.mchSetPos ch lo hi).reg Reg.MCH_SET_POS_HI ch = hi := by
  generalize hu : (s.setReg Reg.MCH_SET_POS_LO ch 0 lo).setReg Reg.MCH_SET_POS_HI ch 0 hi = u
  have hlo : u.reg Reg.MCH_SET_POS_LO ch = lo := by
    rw [← hu, State.reg_setReg_unit _ Reg.MCH_SET_POS_LO Reg.MCH_SET_POS_HI ch _ (by decide) rfl rfl (by decide),
      State.reg_setReg_self _ _ _ _ _ (by decide)]
  have hhi : u.reg Reg.MCH_SET_POS_HI ch = hi := by rw [← hu, State.reg_setReg_self _ _ _ _ _ (by decide)]
  have hwrite : s.mchSetPos ch lo hi = if s.mchPowered ch then u.takeSetPos ch else u.setMch ch (fun q => { q with setDue := true }) := by
    rw [← hu]
    rfl
  have hmch : u.mch ch = s.mch ch := by
    rw [← hu]
    rfl
  obtain ⟨hpos, href, hsuspect, hdue, hcur⟩ := u.takeSetPos_mch ch
  rw [hlo, hhi] at hpos
  cases hp : s.mchPowered ch with
  | true =>
    rw [hwrite, hp, if_pos rfl, State.reg_cur hcur, State.reg_cur hcur]
    exact ⟨fun _ => ⟨hpos, href, hsuspect, hdue⟩, fun c => absurd c (by decide), hlo, hhi⟩
  | false =>
    rw [hwrite, hp, if_neg (by decide), State.mch_setMch_self, hmch]
    exact ⟨fun c => absurd c (by decide), fun _ => rfl, hlo, hhi⟩

/-! ### EN of a compare unit (R467, R468) -/

/-- The unit as EN that changes to 1 starts it: a table unit at entry 0 of its table. -/
def State.cmpStarted (s : State) (u : Nat) (v : Word) : State :=
  if fld v 2 1 = 2 then
    ((s.setCmp u (fun q => { q with table := (s.reg Reg.CMP_TABLE u).toNat, ended := false })).setReg Reg.CMP_TBL_IDX u 0 0).setCmpTarget u
      (s.pctEntry (s.reg Reg.CMP_TABLE u).toNat 0)
  else s.setCmp u (fun q => { q with table := 0, ended := false })

/-- The unit whose fields are invalid: EN is clear, and ERROR is set. -/
def State.cmpRefused (s : State) (u : Nat) : State :=
  ((s.setF Reg.CMP_CTRL u 0 0 0).setEvt Reg.CMP_STATUS u 2).setCmp u (fun q => { q with table := 0, ended := false })

theorem State.cmpCtrl_enables {s : State} {u : Nat} {v : Word} (hoff : bit (s.reg Reg.CMP_CTRL u) 0 = false) (hv : bit v 0 = true) :
    s.cmpCtrl u v = if (s.storeBits Reg.CMP_CTRL u 0 v).cmpBad u ((s.storeBits Reg.CMP_CTRL u 0 v).reg Reg.CMP_CTRL u)
      then (s.storeBits Reg.CMP_CTRL u 0 v).cmpRefused u else (s.storeBits Reg.CMP_CTRL u 0 v).cmpStarted u v := by
  unfold State.cmpCtrl
  dsimp only
  rw [hoff, hv]
  rfl

theorem State.cmpRefused_facts (s : State) (u : Nat) :
    bit ((s.cmpRefused u).reg Reg.CMP_CTRL u) 0 = false ∧ bit ((s.cmpRefused u).reg Reg.CMP_STATUS u) 2 = true := by
  have hreg : ∀ q : RegRow, (s.cmpRefused u).reg q u = ((s.setF Reg.CMP_CTRL u 0 0 0).setEvt Reg.CMP_STATUS u 2).reg q u := fun _ => rfl
  rw [hreg, hreg]
  refine ⟨?_, State.setEvt_bit _ _ _ _ (by decide) (by decide)⟩
  rw [State.reg_setEvt_unit _ Reg.CMP_CTRL Reg.CMP_STATUS u 2 (by decide) rfl rfl (by decide),
    State.bit_setF_self _ _ _ _ _ (by decide) (by decide)]
  rfl

theorem State.cmpStarted_facts (s : State) (u : Nat) (v : Word) :
    (s.cmpStarted u v).reg Reg.CMP_CTRL u = s.reg Reg.CMP_CTRL u ∧ ((s.cmpStarted u v).cmp u).ended = false
      ∧ (fld v 2 1 = 2 → (s.cmpStarted u v).reg Reg.CMP_TBL_IDX u = 0
        ∧ ((s.cmpStarted u v).cmp u).table = (s.reg Reg.CMP_TABLE u).toNat
        ∧ (s.cmpStarted u v).cmpTarget u = s.pctEntry (s.reg Reg.CMP_TABLE u).toNat 0)
      ∧ (fld v 2 1 ≠ 2 → ((s.cmpStarted u v).cmp u).table = 0 ∧ (s.cmpStarted u v).cmpTarget u = s.cmpTarget u) := by
  have htarget : ∀ (x : State) (q : RegRow) (t : Pos), q.win = 12 → q.s1 = 0x100 → q.base ≠ 0xd0004 → q.base ≠ 0xd0008 →
      (x.setCmpTarget u t).reg q u = x.reg q u := fun x q t hw hs hl hh =>
    x.reg_set64_unit q _ _ u _ (by decide) (by decide) hw hs hl hw hs hh
  have hcmp : ∀ (x : State) (t : Pos), (x.setCmpTarget u t).cmp u = x.cmp u := fun _ _ => rfl
  unfold State.cmpStarted
  by_cases h : fld v 2 1 = 2
  · rw [if_pos h, hcmp, State.setReg_cmp, State.setCmp_get, State.setCmpTarget_get,
      htarget _ Reg.CMP_CTRL _ rfl rfl (by decide) (by decide), htarget _ Reg.CMP_TBL_IDX _ rfl rfl (by decide) (by decide),
      State.reg_setReg_unit _ Reg.CMP_CTRL Reg.CMP_TBL_IDX u _ (by decide) rfl rfl (by decide),
      State.reg_setReg_self _ _ _ _ _ (by decide)]
    exact ⟨rfl, rfl, fun _ => ⟨rfl, rfl, rfl⟩, fun c => absurd h c⟩
  · rw [if_neg h, State.setCmp_get]
    exact ⟨rfl, rfl, fun c => absurd c h, fun _ => ⟨rfl, rfl⟩⟩

/-- The word that a write of CMP_CTRL with EN leaves there. -/
def State.cmpStored (s : State) (u : Nat) (v : Word) : Word :=
  (s.reg Reg.CMP_CTRL u &&& ~~~ Reg.CMP_CTRL.rwi) ||| ((v ||| 1) &&& Reg.CMP_CTRL.rwi)

/-- A write of EN to a unit that is not enabled: once its fields are stored, the unit starts, or is refused where they are invalid. -/
theorem State.rowWrite_cmpEnable {s : State} {p u : Nat} (v : Word) (h : s.writable p Reg.CMP_CTRL u)
    (hoff : bit (s.reg Reg.CMP_CTRL u) 0 = false) :
    ∃ t : State, s.rowWrite p Reg.CMP_CTRL u (v ||| 1)
        = (if s.cmpBad u (s.cmpStored u v) then t.cmpRefused u else t.cmpStarted u (v ||| 1))
      ∧ t.obj = s.obj ∧ t.reg Reg.CMP_CTRL u = s.cmpStored u v
      ∧ ∀ q : RegRow, q.win = 12 → q.s1 = 0x100 → q.base ≠ 0xd0000 → t.reg q u = s.reg q u := by
  obtain ⟨w, hwrite⟩ := s.rowWrite_after p Reg.CMP_CTRL u (v ||| 1) h
  obtain ⟨c, hstore, hctrl, hne⟩ := (s.afterAccess p w).storeBits_now Reg.CMP_CTRL u 0 (v ||| 1) rfl (by decide) rfl
  have hrest : ∀ q : RegRow, q.win = 12 → q.s1 = 0x100 → q.base ≠ 0xd0000 →
      ({ s.afterAccess p w with cur := c } : State).reg q u = s.reg q u := fun q hw hs hb =>
    hne q u 0 (Or.inr (RegRow.addr_ne u hw hs hb))
  have hen := State.cmpCtrl_enables (s := s.afterAccess p w) (u := u) (v := v ||| 1) hoff
    (by rw [bit_or, show bit (1 : Word) 0 = true by decide, Bool.or_true])
  rw [hstore, hctrl, State.cmpBad_congr s { s.afterAccess p w with cur := c } u _ rfl (hrest Reg.CMP_PERIOD_LO rfl rfl (by decide))
    (hrest Reg.CMP_PERIOD_HI rfl rfl (by decide)) (hrest Reg.CMP_TABLE rfl rfl (by decide))] at hen
  exact ⟨_, hwrite.trans hen, rfl, hctrl, hrest⟩

/-! ### Wakes (R592, R594) -/

/-- A wake that an access needs and that fails: the access is flagged, and a read answers 0. -/
theorem State.wakeFail_flags {s : State} {p off kind i : Nat} (write : Bool) (hm : s.dev.mode ≠ .boot) (ht : s.portTalks p = true)
    (hu : unitAt off = some (kind, i)) (hg : s.gated kind i = true) (hw : s.svc.woken.get 0 (unitKey kind i) = 0)
    (hr : regIs off (fun r => decide (r.fields ≠ 0)) = true)
    (hmay : (if write then s.mayWrite p off else s.mayRead p off) = true) :
    s.wakeFail p off write = if write then (s.wakePort p).accFlag p accWakeFail off
      else ((s.wakePort p).accFlag p accWakeFail off).emit (.readData p 0) := by
  unfold State.wakeFail
  simp only [hu, hg, hw, hr, State.wakePort_portTalks, ht, State.wakePort_dev, hm, decide_true, decide_false, Bool.and_self,
    Bool.not_true, Bool.or_self, Bool.false_eq_true, if_false, State.wakePort_mayWrite, State.wakePort_mayRead]
  cases write with
  | true => exact if_pos hmay
  | false => exact if_pos hmay

/-- What is left of the clocks that an access woke, 1 µs after it. -/
theorem woken_regated {t : Tab Nat} (clk k : Nat) (h : t.wf 0 = true) :
    Tab.get 0 (t.filter (fun e => decide (clk < e.2 - 1 + usClk 1))) k = if clk < t.get 0 k - 1 + usClk 1 then t.get 0 k else 0 := by
  simp only [Tab.wf, Bool.and_eq_true] at h
  rw [Tab.get_filter 0 (fun x => decide (clk < x - 1 + usClk 1)) 0 t k h.1]
  simp only [decide_eq_true_eq]

/-! ### The end of a lockstep recovery (R596) -/

/-- The recoveries that last are left, and the queue is empty. -/
def State.pairsResumed (s : State) : State := s.setSvc (fun q => { q with
  recov := q.recov.filter (fun e => decide (s.time.tickNum < e.2 + 3)), queued := [] })

theorem State.lockstepResume_due {s : State} (h : s.svc.recov.any (fun e => decide (e.2 + 3 ≤ s.time.tickNum)) = true)
    (hrec : s.store.recovery = none) :
    s.lockstepResume = (s.svc.queued.foldl (fun u e => u.writeQueued e) s.pairsResumed).takeCkpt := by
  unfold State.lockstepResume
  rw [if_pos h, State.recoveryEnd_none _ (by exact hrec)]
  rfl

theorem State.writeQueued_plain {s : State} {p off i j : Nat} {r : RegRow} (v : Word) (hf : findReg off = some (r, i, j))
    (hh : r.half = .whole) (hx : ∀ x ∈ actingRows, r.is x = false) : s.writeQueued (p, off, v) = s.storeBits r i j v := by
  unfold State.writeQueued
  dsimp only
  rw [hf]
  exact State.regAct_whole _ _ _ _ _ _ _ hh hx

/-- Settles O45: each write by what it does on the state that the access leaves, the wake, the stop of clocks and the resumption by their
equations. The target compared from the next clock is log entry 66, the table's first entry 107, and a set position that waits for the
power of its channel is 30. -/
theorem writesOfMotionUnitsWakesAndResume : Obligations.WritesOfMotionUnitsWakesAndResume := by
  refine ⟨?target, ?enable, ?setPos, ?valid, ?wakeWrite, ?wakeRead, ?regate, ?resume⟩
  case target =>
    intro s p u v hw
    obtain ⟨w, e⟩ := State.rowWrite_pair (lo := Reg.CMP_TARGET_LO) v hw rfl (by decide)
      (by simp only [RegRow.addr, Reg.CMP_TARGET_LO, Reg.CMP_TARGET_HI]; omega)
    refine ⟨_, (State.go_run _ _ hw.1 : execCmpTargetHiWrite p u v s = _), ?_⟩
    rw [e]
    exact (s.afterAccess p w).cmpTargetWrite_facts u _ v
  case enable =>
    intro s p u v c hw hoff hc
    have hstored : s.cmpStored u v = c := hc.symm
    obtain ⟨t, e, hobj, hctrl, hrest⟩ := State.rowWrite_cmpEnable v hw hoff
    have htable : t.reg Reg.CMP_TABLE u = s.reg Reg.CMP_TABLE u := hrest _ rfl rfl (by decide)
    have htarget : t.cmpTarget u = s.cmpTarget u := by
      unfold State.cmpTarget
      rw [hrest Reg.CMP_TARGET_LO rfl rfl (by decide), hrest Reg.CMP_TARGET_HI rfl rfl (by decide)]
    have hmode : fld (v ||| 1) 2 1 = fld v 2 1 := fld_congr fun b hlo _ => by
      rw [bit_or, show bit (1 : Word) b = false from (bit_pow 0 b (by decide)).trans (decide_eq_false (by omega)), Bool.or_false]
    obtain ⟨hkept, hended, htab, hplain⟩ := t.cmpStarted_facts u (v ||| 1)
    rw [hmode, htable, State.pctEntry_congr s t _ _ hobj] at htab
    rw [hmode, htarget] at hplain
    refine ⟨_, (State.go_run _ _ hw.1 : execCmpEnable p u v s = _), fun hok => ?_, fun hbad => ?_⟩
    · rw [e, hstored, hok, if_neg Bool.false_ne_true]
      exact ⟨hkept.trans (hctrl.trans hstored), hended, htab, hplain⟩
    · rw [e, hstored, hbad, if_pos rfl]
      exact t.cmpRefused_facts u
  case setPos =>
    intro s p ch v hw
    obtain ⟨w, e⟩ := State.rowWrite_pair (lo := Reg.MCH_SET_POS_LO) v hw rfl (by decide)
      (by simp only [RegRow.addr, Reg.MCH_SET_POS_LO, Reg.MCH_SET_POS_HI]; omega)
    refine ⟨_, (State.go_run _ _ hw.1 : execMchSetPosHiWrite p ch v s = _), ?_⟩
    rw [e]
    exact (s.afterAccess p w).mchSetPos_facts ch _ v
  case valid =>
    intro s p k hw
    obtain ⟨w, e⟩ := s.rowWrite_after p Reg.PRB_STATUS k 0x80000000 hw
    refine ⟨_, (State.go_run _ _ hw.1 : execProbeValidClear p k s = _), ?_⟩
    rw [e]
    exact ⟨State.reg_setReg_self _ _ _ _ _ (by decide), rfl, rfl⟩
  case wakeWrite =>
    intro s p off kind i hs hm ht hu hg hk hr hmay
    refine ⟨_, (State.go_run _ _ hs : execWakeFail p off true s = _), ?_⟩
    rw [State.wakeFail_flags true hm ht hu hg hk hr hmay]
    exact ⟨accFlag_bit _ _ _ _ (by decide), State.wakePort_cur .., State.wakePort_cfg .., State.wakePort_out ..⟩
  case wakeRead =>
    intro s p off kind i hs hm ht hu hg hk hr hmay
    refine ⟨_, (State.go_run _ _ hs : execWakeFail p off false s = _), ?_⟩
    rw [State.wakeFail_flags false hm ht hu hg hk hr hmay]
    exact ⟨accFlag_bit _ _ _ _ (by decide), congrArg _ (State.wakePort_out ..), State.wakePort_cur ..⟩
  case regate =>
    intro s hs
    exact ⟨_, (State.go_run _ _ hs : execClockRegate s = _), fun h k => woken_regated _ k h, rfl⟩
  case resume =>
    intro s hs hdue hrec
    refine ⟨_, (State.go_run _ _ hs : execLockstepResume s = _), fun hq => ?_, fun p r i j v hq hf hh hx => ?_⟩
    · obtain ⟨hsvc, hcur⟩ := s.pairsResumed.takeCkpt_parts
      rw [State.lockstepResume_due hdue hrec, hq, List.foldl_nil, hsvc, hcur]
      refine ⟨?_, rfl⟩
      unfold State.pairsResumed
      rw [← hq]
      rfl
    · obtain ⟨hsvc, hcur⟩ := (s.pairsResumed.storeBits r i j v).takeCkpt_parts
      have hkeep : (s.pairsResumed.storeBits r i j v).svc = s.pairsResumed.svc := (State.storeBits_keeps ..).same .svc rfl
      rw [State.lockstepResume_due hdue hrec, hq, List.foldl_cons, List.foldl_nil, State.writeQueued_plain v hf hh hx, hsvc, hkeep,
        State.reg_cur hcur]
      exact ⟨rfl, rfl, (State.storeBits_spec _ _ _ _ _ (findReg_addr hf).2.1).1⟩

end Sys2Proof.Machine

/-! SUPPORT. Steps: the command in front, what no step takes back, and what a stopped device ignores (R506, R507, R563, R571, R609). -/

namespace Sys2Proof.Machine

/-! ### Steps -/

/-- Settles O1: with a command in front, a step is that command's. -/
theorem stepRunsTheFrontCommand : Obligations.StepRunsTheFrontCommand := fun _ _ _ hp => step_of_pending_cons hp

/-- Settles O7: what every command's law says of the growth of a state, a step inherits. Free values are counted by the model's own
counter (log entry 53). -/
theorem floorsAndOutputsOnlyGrow : Obligations.FloorsAndOutputsOnlyGrow := by
  intro s t e
  have hgrows := step_grows e
  exact ⟨hgrows.svn, hgrows.free, hgrows.out⟩

/-! ### A stopped device (R563, R571, R609) -/

/-- Every command but pins, JTAG, the release of the internal reset and reads first asks whether the device is stopped. -/
theorem exec_guarded {i : Instr} (hi : reachesHeld i = false) (s : State) :
    ∃ t, exec i s = .next (if s.svc.stopped.isSome then s else t) := by
  cases i <;> cases hi <;> exact ⟨_, rfl⟩

/-- Settles O8: a command that asks whether the device is stopped does nothing where it is. That what the spec does not name there
is ignored is log entry 22. -/
theorem heldDeviceIgnoresCommands : Obligations.HeldDeviceIgnoresCommands := by
  intro i s h hs hi
  obtain ⟨t, e⟩ := exec_guarded hi s
  rw [e, hs]
  rfl

end Sys2Proof.Machine

/-! SUPPORT. The instructions of the JTAG register, and what drives the pins (R153, R620). -/

namespace Sys2Proof.Machine

theorem State.pinDrive_of_porst_high {s : State} (h : s.svc.porstLow = false) : s.pinDrive = 0 := by
  unfold State.pinDrive
  rw [h]
  rfl

theorem State.pinDrive_of_porst_low {s : State} (h : s.svc.porstLow = true) :
    s.pinDrive = if s.svc.jtagIr = 0x00 ∨ s.svc.jtagIr = 0x05 then 1 else if s.svc.jtagIr = 0x04 then 2
      else if s.svc.jtagIr = 0x08 then 3 else if s.svc.jtagIr = 0x09 then 4 else 0 := by
  unfold State.pinDrive
  rw [h]
  generalize s.svc.jtagIr = op
  rw [if_neg (show ¬(!true) = true by decide)]
  split <;> simp_all

/-- Settles O28: each instruction loads the register, from which, while PORST# is low, what drives the pins is read. The levels that
the cells sample are free values (log entries 23 and 138). -/
theorem jtagInstructions : Obligations.JtagInstructions := by
  refine ⟨?load, fun s => ⟨_, rfl, rfl⟩, fun s cells => ⟨_, rfl, rfl, rfl, rfl, rfl⟩⟩
  case load =>
    intro s x hx
    have hhigh := fun h : s.svc.porstLow = false => State.pinDrive_of_porst_high (s := s.jtagLoad x.2) h
    simp only [List.mem_cons, List.not_mem_nil, or_false] at hx
    obtain rfl | rfl | rfl | rfl | rfl | rfl := hx <;>
      exact ⟨_, rfl, rfl, hhigh, fun h => State.pinDrive_of_porst_low (s := s.jtagLoad _) h⟩

end Sys2Proof.Machine

/-! SUPPORT. CONFIG_DISCARD (R530). -/

namespace Sys2Proof.Machine

theorem exec_configDiscard {s : State} {d : Desc} (ht : s.takesCmd d) (hst : structOk d (tNone d) [] false = true)
    (hsteward : s.isSteward d = true) (hm : s.dev.mode = .standby ∨ s.dev.mode = .operational) :
    exec (.configDiscard d) s = .next ((s.take d).discardPending.complete
      { ticketOf d 0x23 with gen := (s.ring d.ring).gen } stDone) := by
  obtain ⟨hs, htk, hk⟩ := ht
  have hcheck := State.check405_none (s.take d) d (rig := none) hst rfl (show (s.take d).isSteward d = true from hsteward)
    (s.modes2 d hm)
  show execConfigDiscard d s = _
  unfold execConfigDiscard
  rw [State.go_run _ _ hs, State.runCmd_run _ _ _ _ _ htk hk hcheck]

/-- Settles O10: the command passes its checks, copies the set in force into the pending set, and completes. -/
theorem configDiscardRestoresPending : Obligations.ConfigDiscardRestoresPending := by
  intro s d ht hst hsteward hm
  refine ⟨_, exec_configDiscard ht hst hsteward hm, ?_, State.complete_dev .., ?_⟩
  · rw [State.complete_cfg]
    show { s.cfg with pending := s.activeSet } = _
    unfold State.activeSet
    cases s.cfg.active <;> rfl
  · exact State.finished_complete s _ d _ _ _ _ rfl rfl (RingSame.of rfl)

end Sys2Proof.Machine

/-! SUPPORT. Roles and credentials: the challenge and its proof, logout, enrolment, the replacement of keys, the lockout, and the tests
of the DRBG (R486-R489, R491, R510, R514). -/

namespace Sys2Proof.Machine

/-! ### Services -/

/-- A service that the device takes and whose checks pass runs its body. -/
theorem State.go_secCmd {s : State} {d : Desc} {used : List (Nat × Nat)} {operands : Bool} {modes : List DevMode}
    {issuer : State → Bool} (op : Nat) (body : Ticket → State → State) (h : s.takesService d used) (ho : operands = true)
    (hm : modes.contains s.dev.mode = true) (hi : issuer (s.take d) = true) :
    s.go (fun s => s.secCmd d op used operands modes issuer body)
      = .next (body { ticketOf d op with gen := (s.ring d.ring).gen } (s.take d)) := by
  have ⟨⟨hrun, _⟩, _⟩ := h
  rw [State.go_run _ _ hrun, State.secCmd_run _ _ _ _ _ _ _ _ h ho hm hi]

/-! ### The challenge (R486) -/

/-- What SEC_AUTH_BEGIN holds for a ring: the nonce, the role and slot it is for, and when it was given. -/
def State.nonceFor (s : State) (d : Desc) : Nonce :=
  { bytes := beBytes 48 (s.freeNat 384), role := opAt d 8 1, slot := opAt d 9 1, at_ := s.time.clk }

theorem exec_secAuthBegin {s : State} {d : Desc} (h : s.takesService d [(8, 2), bufUsed]) (hslot : slotOk d = true)
    (hbuf : bufOk d = true) (hm : s.dev.mode ≠ .boot) (hlock : ∀ x, s.sec.lockAt = some x → x + secClk 60 ≤ s.time.clk)
    (hdrbg : s.sec.drbgBlocked = false) :
    exec (.secAuthBegin d) s = .next (((s.take d).useFree.setSec (fun q => { q with
      nonces := q.nonces.put none d.ring (some (s.nonceFor d)) })).secWrite d { ticketOf d 0x63 with gen := (s.ring d.ring).gen } 0
        (beBytes 48 (s.freeNat 384))) := by
  refine (State.go_secCmd 0x63 _ h (by rw [hslot, hbuf]; rfl) (allModes_mem hm) rfl : execSecAuthBegin d s = _).trans ?_
  have hover : (((s.take d).sec.lockAt.map (fun x => decide ((s.take d).time.clk < x + secClk 60))).getD false) = false :=
    lockout_over _ _ _ hlock
  dsimp only
  rw [hover, if_neg Bool.false_ne_true, State.take_sec, hdrbg, if_neg Bool.false_ne_true]
  rfl

/-! ### The proof (R486-R488) -/

theorem State.proves_take (s : State) (d : Desc) : (s.take d).proves d = s.proves d := rfl

/-- The state in which the proof acts: the ring's nonce is used up. -/
def State.nonceUsed (s : State) (d : Desc) : State := s.setSec (fun q => { q with nonces := q.nonces.put none d.ring none })

theorem State.nonceUsed_nonce (s : State) (d : Desc) : (s.nonceUsed d).sec.nonces.get none d.ring = none :=
  Tab.get_put_self none s.sec.nonces d.ring none

theorem exec_secAuthProve_good {s : State} {d : Desc} (h : s.takesService d [(8, 2), bufUsed]) (hslot : slotOk d = true)
    (hbuf : bufOk d = true) (hm : s.dev.mode ≠ .boot) (hp : s.proves d = true) :
    exec (.secAuthProve d) s = .next (((((s.take d).nonceUsed d).setSec (fun q => { q with fails := 0 })).setRing d.ring (fun q =>
      { q with role := some (if opAt d 8 1 = 0 then .co else .operator) })).secDone
        { ticketOf d 0x64 with gen := (s.ring d.ring).gen } [(16, 1, opAt d 8 1)]) := by
  refine (State.go_secCmd 0x64 _ h (by rw [hslot, hbuf]; rfl) (allModes_mem hm) rfl : execSecAuthProve d s = _).trans ?_
  dsimp only
  rw [State.proves_take, hp, if_pos rfl]
  rfl

theorem exec_secAuthProve_bad {s : State} {d : Desc} (h : s.takesService d [(8, 2), bufUsed]) (hslot : slotOk d = true)
    (hbuf : bufOk d = true) (hm : s.dev.mode ≠ .boot) (hp : s.proves d = false) :
    exec (.secAuthProve d) s = .next ((((s.take d).nonceUsed d).proofFailed d).complete
      { ticketOf d 0x64 with gen := (s.ring d.ring).gen } stSecurity) := by
  refine (State.go_secCmd 0x64 _ h (by rw [hslot, hbuf]; rfl) (allModes_mem hm) rfl : execSecAuthProve d s = _).trans ?_
  dsimp only
  rw [State.proves_take, hp, if_neg Bool.false_ne_true]
  rfl

/-- A service ends with one completion, which gives its ring back what was taken. -/
theorem State.secDone_finished (s u : State) (d : Desc) (op st : Nat) (pl : List (Nat × Nat × Nat))
    (ho : (u.ring d.ring).outstanding = (s.ring d.ring).outstanding + 1) (hg : (u.ring d.ring).gen = (s.ring d.ring).gen) :
    s.finished (u.secDone { ticketOf d op with gen := (s.ring d.ring).gen } pl st) d := by
  refine (State.complete_outstanding u { ticketOf d op with gen := (s.ring d.ring).gen } st _ 1 hg).trans ?_
  show (u.ring d.ring).outstanding - 1 = _
  rw [ho]
  rfl

/-- A ring that was taken from and then got a role. -/
theorem State.ring_take_role (s u : State) (d : Desc) (x : Option Role) (hu : u.rings = (s.take d).rings) :
    (u.setRing d.ring (fun q => { q with role := x })).ring d.ring = { (s.take d).ring d.ring with role := x } := by
  rw [State.ring_setRing_self]
  unfold State.ring
  rw [hu]

/-- A service that sets the role of its ring ends with that role. -/
theorem State.roleSet_facts (s u : State) (d : Desc) (op : Nat) (pl : List (Nat × Nat × Nat)) (x : Option Role)
    (hu : u.rings = (s.take d).rings) :
    let t := (u.setRing d.ring (fun q => { q with role := x })).secDone { ticketOf d op with gen := (s.ring d.ring).gen } pl
    s.finished t d ∧ (t.ring d.ring).role = x ∧ t.sec = u.sec := by
  have hring := State.ring_take_role s u d x hu
  rw [State.ring_take] at hring
  refine ⟨State.secDone_finished s _ d op _ pl (by rw [hring]) (by rw [hring]), ?_, State.complete_sec ..⟩
  unfold State.secDone
  rw [State.complete_role, hring]

/-- The notice of a failed proof posts a record and writes the log. -/
theorem State.secNotice_facts (s : State) (kind : Nat) (pl : List (Nat × Nat × Nat)) :
    (s.secNotice kind pl).sec = s.sec ∧ (s.secNotice kind pl).time = s.time
      ∧ ∀ (q : RegRow) (i : Nat), q.win = 13 → (s.secNotice kind pl).reg q i = s.reg q i := by
  have h := s.secNotice_keeps kind pl
  exact ⟨h.same .sec rfl, h.same .time rfl,
    fun q i hw => (State.post_postSame ..).reg _ _ _ (quiet_win _ _ _ (by omega) (by omega) (by omega))⟩

/-- A failed proof, counted and reported. -/
def State.proofReported (s : State) (d : Desc) : State :=
  ((s.setSec (fun q => { q with fails := q.fails + 1 })).count Reg.SEC_AUTH_FAIL_CNT).secNotice 3
    [(17, 1, s.issuer d), (18, 2, d.ring), (20, 1, opAt d 8 1), (21, 1, opAt d 9 1)]

theorem State.proofReported_facts (s : State) (d : Desc) :
    (s.proofReported d).sec = { s.sec with fails := s.sec.fails + 1 } ∧ (s.proofReported d).time = s.time
      ∧ ((s.proofReported d).reg Reg.SEC_AUTH_FAIL_CNT).toNat = min 0xFFFFFFFF ((s.reg Reg.SEC_AUTH_FAIL_CNT).toNat + 1) := by
  unfold State.proofReported
  obtain ⟨hsec, htime, hreg⟩ := ((s.setSec (fun q => { q with fails := q.fails + 1 })).count Reg.SEC_AUTH_FAIL_CNT).secNotice_facts 3
    [(17, 1, s.issuer d), (18, 2, d.ring), (20, 1, opAt d 8 1), (21, 1, opAt d 9 1)]
  rw [hsec, htime, hreg _ _ rfl]
  exact ⟨State.count_sec .., State.count_time .., State.count_toNat _ _ _ (by decide)⟩

/-- A failed proof is counted; from the fifth in a row on it starts a lockout, with its event (R488). -/
theorem State.proofFailed_facts (s : State) (d : Desc) :
    (s.proofFailed d).sec.fails = s.sec.fails + 1 ∧ (s.proofFailed d).sec.nonces = s.sec.nonces
      ∧ ((s.proofFailed d).reg Reg.SEC_AUTH_FAIL_CNT).toNat = min 0xFFFFFFFF ((s.reg Reg.SEC_AUTH_FAIL_CNT).toNat + 1)
      ∧ (4 ≤ s.sec.fails → (s.proofFailed d).sec.lockAt = some s.time.clk ∧ bit ((s.proofFailed d).reg Reg.SEC_EVENTS) 3 = true) := by
  obtain ⟨hsec, htime, hcnt⟩ := s.proofReported_facts d
  have hdef : s.proofFailed d = if 5 ≤ (s.proofReported d).sec.fails then
      ((s.proofReported d).setSec (fun q => { q with lockAt := some (s.proofReported d).time.clk })).secAlert 3 4 [(17, 4, 60)]
    else s.proofReported d := rfl
  rw [hdef]
  generalize s.proofReported d = u at hsec htime hcnt
  by_cases h : 5 ≤ u.sec.fails
  · obtain ⟨hevt, -, hreg⟩ := (u.setSec (fun q => { q with lockAt := some u.time.clk })).secAlert_facts 3 4 [(17, 4, 60)] (by decide)
    rw [if_pos h, State.secAlert_sec, hreg Reg.SEC_AUTH_FAIL_CNT 0 rfl (by decide), ← htime]
    exact ⟨congrArg (·.fails) hsec, congrArg (·.nonces) hsec, hcnt, fun _ => ⟨rfl, hevt⟩⟩
  · rw [if_neg h, hsec]
    rw [hsec] at h
    exact ⟨rfl, rfl, hcnt, fun hf => absurd (Nat.succ_le_succ hf) h⟩

/-- A refused proof uses the nonce up, leaves the role of the ring, and is counted. -/
theorem State.proofRefused_facts (s : State) (d : Desc) :
    let t := (((s.take d).nonceUsed d).proofFailed d).complete { ticketOf d 0x64 with gen := (s.ring d.ring).gen } stSecurity
    s.finished t d ∧ t.sec.nonces.get none d.ring = none ∧ (t.ring d.ring).role = (s.ring d.ring).role
      ∧ t.sec.fails = s.sec.fails + 1 ∧ (t.reg Reg.SEC_AUTH_FAIL_CNT).toNat = min 0xFFFFFFFF ((s.reg Reg.SEC_AUTH_FAIL_CNT).toNat + 1)
      ∧ (4 ≤ s.sec.fails → t.sec.lockAt = some s.time.clk ∧ bit (t.reg Reg.SEC_EVENTS) 3 = true) := by
  obtain ⟨hfails, hnonces, hcnt, hlock⟩ := ((s.take d).nonceUsed d).proofFailed_facts d
  have hused : RingSame (s.take d) ((s.take d).nonceUsed d) := RingSame.of rfl
  have hring := hused.trans ((((s.take d).nonceUsed d).proofFailed_keeps d).ringSame rfl)
  have hreg : ∀ (u : State) (k : Ticket) (q : RegRow), q.win = 13 → (u.complete k stSecurity).reg q = u.reg q := fun u k q hw =>
    u.complete_reg _ _ _ _ _ _ _ (quiet_win _ _ _ (by omega) (by omega) (by omega)) (by omega)
  have hnone := (s.take d).nonceUsed_nonce d
  obtain ⟨-, -, -, -, -, -, hrole, -, -⟩ := hring.same d.ring
  rw [State.ring_take] at hrole
  generalize ((s.take d).nonceUsed d).proofFailed d = u at *
  dsimp only
  rw [State.complete_sec, hreg u _ _ rfl, hreg u _ _ rfl, State.complete_role, hnonces]
  exact ⟨State.finished_complete s u d _ _ _ _ rfl rfl hring, hnone, hrole, hfails, hcnt, hlock⟩

/-! ### Keys, lockout and the DRBG (R488, R489, R491, R514) -/

theorem exec_secLogout {s : State} {d : Desc} (h : s.takesService d []) (hm : s.dev.mode ≠ .boot) :
    exec (.secLogout d) s = .next (((s.take d).setRing d.ring (fun q => { q with role := none })).secDone
      { ticketOf d 0x65 with gen := (s.ring d.ring).gen }) :=
  (State.go_secCmd 0x65 _ h rfl (allModes_mem hm) rfl : execSecLogout d s = _)

theorem exec_secCoEnrol {s : State} {d : Desc} (h : s.takesService d [(9, 1), bufUsed]) (hslot : opAt d 9 1 < 2) (hbuf : bufOk d = true)
    (hsteward : s.isSteward d = true) (hm : s.dev.mode = .provision) (hco : s.hasCoKey = false) :
    exec (.secCoEnrol d) s = .next (((s.take d).setSec (fun q => { q with
      coKeys := q.coKeys.put [] (opAt d 9 1) (sliceBytes d.buf 0 96) })).secDone { ticketOf d 0x66 with gen := (s.ring d.ring).gen }) := by
  refine (State.go_secCmd 0x66 _ h (by rw [decide_eq_true hslot, hbuf]; rfl) (by rw [hm]; rfl) hsteward : execSecCoEnrol d s = _).trans ?_
  dsimp only
  rw [show (s.take d).hasCoKey = false from hco, if_neg Bool.false_ne_true]

theorem exec_secKeyReplace {s : State} {d : Desc} (h : s.takesService d [(8, 3), bufUsed]) (hslot : slotOk d = true)
    (hop : opAt d 10 1 < 2) (hbuf : bufOk d = true) (hco : s.isCo d = true) (hboot : s.dev.mode ≠ .boot) (hz : s.dev.mode ≠ .zeroized) :
    exec (.secKeyReplace d) s = .next (((s.take d).setSec (fun q =>
      if opAt d 8 1 = 0 then { q with coKeys := q.coKeys.put [] (opAt d 9 1) (if opAt d 10 1 = 1 then [] else sliceBytes d.buf 0 96) }
      else { q with userKeys := q.userKeys.put [] (opAt d 9 1) (if opAt d 10 1 = 1 then [] else sliceBytes d.buf 0 96) })).secDone
        { ticketOf d 0x67 with gen := (s.ring d.ring).gen }) :=
  (State.go_secCmd 0x67 _ h (by rw [hslot, decide_eq_true hop, hbuf]; rfl) (psMode_mem hboot hz) ((s.isCo_take d).trans hco) :
    execSecKeyReplace d s = _)

/-- A service that changes the security state alone, then ends. -/
theorem State.secDone_setSec (s : State) (d : Desc) (op : Nat) (f : SecState → SecState) :
    let t := ((s.take d).setSec f).secDone { ticketOf d op with gen := (s.ring d.ring).gen }
    s.finished t d ∧ t.sec = f s.sec := by
  obtain ⟨hfin, hsec, -, -, -⟩ := State.secDone_facts s ((s.take d).setSec f) d { ticketOf d op with gen := (s.ring d.ring).gen } [] stDone
    rfl rfl (RingSame.of rfl)
  exact ⟨hfin, hsec⟩

/-- Settles O41: each command by its equation, and what the operations it comes to leave. A lockout on every failure from the fifth
in a row on, and a nonce given for an empty slot, are log entry 100; nonces are free values (log entry 54). -/
theorem securityRoles : Obligations.SecurityRoles := by
  refine ⟨?begin, ?prove, ?logout, ?enrol, ?replace, ?lockout, ?health, ?retest⟩
  case begin =>
    intro s d h hslot hbuf hm hlock hdrbg hide
    obtain ⟨hfin, hsec, hfree, hgets⟩ := State.secWrite_facts s ((s.take d).useFree.setSec (fun q => { q with
      nonces := q.nonces.put none d.ring (some (s.nonceFor d)) })) d { ticketOf d 0x63 with gen := (s.ring d.ring).gen } 0
      (beBytes 48 (s.freeNat 384)) [] stDone rfl rfl (RingSame.of rfl) rfl rfl rfl hide
    exact ⟨_, exec_secAuthBegin h hslot hbuf hm hlock hdrbg, hfin, hsec, hgets, hfree⟩
  case prove =>
    intro s d h hslot hbuf hm
    cases hp : s.proves d with
    | true =>
      obtain ⟨hfin, hrole, hsec⟩ := State.roleSet_facts s (((s.take d).nonceUsed d).setSec (fun q => { q with fails := 0 })) d 0x64
        [(16, 1, opAt d 8 1)] (some (if opAt d 8 1 = 0 then .co else .operator)) rfl
      refine ⟨_, exec_secAuthProve_good h hslot hbuf hm hp, hfin, ?_, fun _ => ⟨hrole, ?_⟩, fun c => absurd c (by decide)⟩
      · rw [hsec]
        exact (s.take d).nonceUsed_nonce d
      · rw [hsec]
        rfl
    | false =>
      obtain ⟨hfin, hnonce, hrole, hfails, hcnt, hlock⟩ := s.proofRefused_facts d
      exact ⟨_, exec_secAuthProve_bad h hslot hbuf hm hp, hfin, hnonce, fun c => absurd c (by decide),
        fun _ => ⟨hrole, hfails, hcnt, hlock⟩⟩
  case logout =>
    intro s d h hm
    obtain ⟨hfin, hrole, hsec⟩ := State.roleSet_facts s (s.take d) d 0x65 [] none rfl
    exact ⟨_, exec_secLogout h hm, hfin, hrole, hsec⟩
  case enrol =>
    intro s d h hslot hbuf hsteward hm hco
    exact ⟨_, exec_secCoEnrol h hslot hbuf hsteward hm hco, State.secDone_setSec ..⟩
  case replace =>
    intro s d h hslot hop hbuf hco hboot hz
    obtain ⟨hfin, hsec⟩ := s.secDone_setSec d 0x67 (fun q =>
      if opAt d 8 1 = 0 then { q with coKeys := q.coKeys.put [] (opAt d 9 1) (if opAt d 10 1 = 1 then [] else sliceBytes d.buf 0 96) }
      else { q with userKeys := q.userKeys.put [] (opAt d 9 1) (if opAt d 10 1 = 1 then [] else sliceBytes d.buf 0 96) })
    exact ⟨_, exec_secKeyReplace h hslot hop hbuf hco hboot hz, hfin, fun c => hsec.trans (if_pos c), fun c => hsec.trans (if_neg c)⟩
  case lockout =>
    intro s x hs hx hover
    refine ⟨_, (State.go_run _ _ hs : execLockoutExpiry s = _), ?_⟩
    rw [hx]
    dsimp only
    rw [if_pos hover]
    rfl
  case health =>
    intro s hs hb hm
    refine ⟨_, (State.go_run _ _ hs : execEntropyHealthFail s = _), ?_⟩
    rw [hb, decide_eq_false hm, Bool.or_false, if_neg Bool.false_ne_true, State.secAlert_sec]
    exact ⟨(State.secAlert_facts _ 5 2 _ (by decide)).1, rfl⟩
  case retest =>
    intro s pass hs hb hn hdue
    refine ⟨_, (State.go_run _ _ hs : execEntropyRetest pass s = _), ?_⟩
    rw [hb, decide_eq_false (Nat.not_le.mpr hn), decide_eq_false (Nat.not_lt.mpr hdue), Bool.not_true, Bool.or_false, Bool.or_false,
      if_neg Bool.false_ne_true]
    rfl

end Sys2Proof.Machine

/-! SUPPORT. Keys, identity, attestation, the installation of firmware and the self-test of engines (R494-R496, R499, R506, R509-R511,
R513). -/

namespace Sys2Proof.Machine

/-! ### E_d and the owner key (R490, R496) -/

theorem exec_secEcdhBegin {s : State} {d : Desc} (h : s.takesService d [bufUsed]) (hbuf : bufOk d = true) (hco : s.isCo d = true)
    (hm : s.dev.mode = .provision) (hdrbg : s.sec.drbgBlocked = false) :
    exec (.secEcdhBegin d) s = .next (((s.take d).useFree.setSec (fun q => { q with ed := some (beBytes 48 (s.freeNat 384)) })).secWrite d
      { ticketOf d 0x68 with gen := (s.ring d.ring).gen } 0
      (pubOf (beBytes 48 (s.freeNat 384)) ++ sign Config.fak (pubOf (beBytes 48 (s.freeNat 384))))) := by
  refine (State.go_secCmd 0x68 _ h hbuf (by rw [hm]; rfl) ((s.isCo_take d).trans hco) : execSecEcdhBegin d s = _).trans ?_
  dsimp only
  rw [State.take_sec, hdrbg, if_neg Bool.false_ne_true]
  rfl

section OwnerSet
variable {s : State} {d : Desc} {ed : List Byte} (h : s.takesService d [bufUsed]) (hbuf : bufOk d = true) (hco : s.isCo d = true)
  (hm : s.dev.mode = .provision) (hed : s.sec.ed = some ed)
include h hbuf hco hm hed

theorem exec_secOwnerSet_point (hz : Config.ecdh ed (sliceBytes d.buf 0 96) = none) :
    exec (.secOwnerSet d) s = .next ((s.take d).complete { ticketOf d 0x69 with gen := (s.ring d.ring).gen } stBadParam) := by
  refine (State.go_secCmd 0x69 _ h hbuf (by rw [hm]; rfl) ((s.isCo_take d).trans hco) : execSecOwnerSet d s = _).trans ?_
  dsimp only
  rw [State.take_sec, hed]
  dsimp only
  rw [hz]

theorem exec_secOwnerSet_wrap {z : BitVec 384} (hz : Config.ecdh ed (sliceBytes d.buf 0 96) = some z)
    (hu : Config.keyUnwrap (kekOf ed z) (sliceBytes d.buf 96 40) = none) :
    exec (.secOwnerSet d) s = .next ((s.take d).complete { ticketOf d 0x69 with gen := (s.ring d.ring).gen } stSecurity) := by
  refine (State.go_secCmd 0x69 _ h hbuf (by rw [hm]; rfl) ((s.isCo_take d).trans hco) : execSecOwnerSet d s = _).trans ?_
  dsimp only
  rw [State.take_sec, hed]
  dsimp only
  rw [hz]
  dsimp only
  rw [hu]

theorem exec_secOwnerSet_stores {z : BitVec 384} {owk : List Byte} (hz : Config.ecdh ed (sliceBytes d.buf 0 96) = some z)
    (hu : Config.keyUnwrap (kekOf ed z) (sliceBytes d.buf 96 40) = some owk) :
    exec (.secOwnerSet d) s = .next (((s.take d).setSec (fun q => { q with owk := some (sliceBytes owk 0 32), ed := none })).secDone
      { ticketOf d 0x69 with gen := (s.ring d.ring).gen } [(16, 8, leAt (owkIdOf (sliceBytes owk 0 32)) 0 8)]) := by
  refine (State.go_secCmd 0x69 _ h hbuf (by rw [hm]; rfl) ((s.isCo_take d).trans hco) : execSecOwnerSet d s = _).trans ?_
  dsimp only
  rw [State.take_sec, hed]
  dsimp only
  rw [hz]
  dsimp only
  rw [hu]

end OwnerSet

/-! ### Identity, take keys and attestation (R494, R495, R499) -/

theorem exec_secIdentityGen {s : State} {d : Desc} (h : s.takesService d []) (hco : s.isCo d = true) (hm : s.dev.mode = .provision)
    (hdrbg : s.sec.drbgBlocked = false) :
    exec (.secIdentityGen d) s = .next (((s.take d).useFree.setSec (fun q => { q with dik := some (beBytes 48 (s.freeNat 384)) })).secDone
      { ticketOf d 0x6A with gen := (s.ring d.ring).gen } [(16, 8, leAt (sha384 (pubOf (beBytes 48 (s.freeNat 384)))) 0 8)]) := by
  refine (State.go_secCmd 0x6A _ h rfl (by rw [hm]; rfl) ((s.isCo_take d).trans hco) : execSecIdentityGen d s = _).trans ?_
  dsimp only
  rw [State.take_sec, hdrbg, if_neg Bool.false_ne_true]
  rfl

theorem exec_secGetIdentity {s : State} {d : Desc} (h : s.takesService d [(12, 4), bufUsed]) (hbuf : bufOk d = true)
    (hm : s.dev.mode ≠ .boot) :
    exec (.secGetIdentity d) s = .next ((s.take d).secWrite d { ticketOf d 0x6B with gen := (s.ring d.ring).gen } 0
      (s.identity.take (opAt d 12 4)) [(16, 4, (s.identity.take (opAt d 12 4)).length)]
      (if (s.identity.take (opAt d 12 4)).length < s.identity.length then stPartial else stDone)) :=
  (State.go_secCmd 0x6B _ h hbuf (allModes_mem hm) rfl : execSecGetIdentity d s = _)

theorem exec_secTakeKey {s : State} {d : Desc} (h : s.takesService d [bufUsed, (24, 16)]) (hbuf : bufOk d = true)
    (huser : s.isUser d = true) (hm : s.dev.mode = .standby ∨ s.dev.mode = .operational)
    (hfloor : opAt d 28 6 < s.sec.floorSecs ∨ opAt d 28 6 = s.sec.floorSecs ∧ opAt d 24 4 ≤ s.sec.floorSeq)
    (hserial : opAt d 34 6 = Config.serial.toNat) :
    exec (.secTakeKey d) s = .next ((s.take d).secWrite d { ticketOf d 0x6C with gen := (s.ring d.ring).gen } 0
      (Config.keyWrap (s.sec.owk.getD []) (takeKeyOf (s.sec.owk.getD []) (opAt d 24 16)))) := by
  refine (State.go_secCmd 0x6C _ h hbuf (soMode_mem hm) ((s.isUser_take d).trans huser) : execSecTakeKey d s = _).trans ?_
  have hbelow : (decide (s.sec.floorSecs < opAt d 28 6)
      || (decide (opAt d 28 6 = s.sec.floorSecs) && decide (s.sec.floorSeq < opAt d 24 4))) = false := by
    simp only [Bool.or_eq_false_iff, Bool.and_eq_false_iff, decide_eq_false_iff_not]
    omega
  dsimp only
  rw [State.take_sec, hbelow, decide_eq_false (fun c => c hserial)]
  rfl

theorem exec_secAttest {s : State} {d : Desc} (h : s.takesService d [bufUsed]) (hbuf : bufOk d = true) (huser : s.isUser d = true)
    (hm : s.dev.mode = .standby ∨ s.dev.mode = .operational) :
    exec (.secAttest d) s = .next ((s.take d).secWrite d { ticketOf d 0x6D with gen := (s.ring d.ring).gen } 48
      (s.statement d.buf ++ sign (s.sec.dik.getD []) (s.statement d.buf))) :=
  (State.go_secCmd 0x6D _ h hbuf (soMode_mem hm) ((s.isUser_take d).trans huser) : execSecAttest d s = _)

/-! ### Firmware (R506, R509) -/

/-- An image in the slot that is not active, and PENDING. -/
def SecState.installed (q : SecState) (img : List Byte) (probe : Bool) : SecState :=
  { q with
    slotA := if 1 - q.fwActive = 0 then img else q.slotA, slotB := if 1 - q.fwActive = 0 then q.slotB else img,
    fwPending := some (1 - q.fwActive, probe) }

theorem SecState.installed_slotImage (q : SecState) (img : List Byte) (probe : Bool) :
    (q.installed img probe).slotImage (1 - q.fwActive) = img := by
  unfold SecState.slotImage SecState.installed
  by_cases h : 1 - q.fwActive = 0
  · rw [if_pos h, if_pos h]
  · rw [if_neg h]
    exact if_neg h

section Install
variable {s : State} {d : Desc} {o : Nat × ObjSt} (h : s.takesService d [(8, 1), (12, 4)]) (hop : opAt d 8 1 < 2)
  (hco : s.isCo d = true) (hm : s.dev.mode = .standby ∨ s.dev.mode = .operational) (hobj : s.obj? (opAt d 12 4) = some o)
include h hop hco hm hobj

theorem exec_secFwInstall_bad (himg : imageOk s.sec.svnFloor (s.objBytes (opAt d 12 4) 0 o.2.size) = none) :
    exec (.secFwInstall d) s = .next ((s.take d).complete { ticketOf d 0x6E with gen := (s.ring d.ring).gen } stSecurity) := by
  refine (State.go_secCmd 0x6E _ h (decide_eq_true hop) (soMode_mem hm) ((s.isCo_take d).trans hco) : execSecFwInstall d s = _).trans ?_
  dsimp only
  rw [show (s.take d).obj? (opAt d 12 4) = some o from hobj]
  dsimp only
  rw [show imageOk (s.take d).sec.svnFloor ((s.take d).objBytes (opAt d 12 4) 0 o.2.size) = none from himg]

theorem exec_secFwInstall_good {v n len : Nat}
    (himg : imageOk s.sec.svnFloor (s.objBytes (opAt d 12 4) 0 o.2.size) = some (v, n, len)) :
    exec (.secFwInstall d) s = .next ((((s.take d).setSec (fun q =>
      q.installed ((s.objBytes (opAt d 12 4) 0 o.2.size).take len) (decide (opAt d 8 1 = 1)))).secAlert 7 6
        [(17, 1, 1 - s.sec.fwActive), (18, 1, 0), (20, 4, v)]).secDone { ticketOf d 0x6E with gen := (s.ring d.ring).gen }
          [(16, 4, v), (20, 1, 1 - s.sec.fwActive)]) := by
  refine (State.go_secCmd 0x6E _ h (decide_eq_true hop) (soMode_mem hm) ((s.isCo_take d).trans hco) : execSecFwInstall d s = _).trans ?_
  dsimp only
  rw [show (s.take d).obj? (opAt d 12 4) = some o from hobj]
  dsimp only
  rw [show imageOk (s.take d).sec.svnFloor ((s.take d).objBytes (opAt d 12 4) 0 o.2.size) = some (v, n, len) from himg]
  rfl

end Install

/-- An installed image stands in its slot, PENDING, with its event. -/
theorem State.installed_facts (s : State) (d : Desc) (img : List Byte) (probe : Bool) (alert pl : List (Nat × Nat × Nat)) :
    let t := (((s.take d).setSec (fun q => q.installed img probe)).secAlert 7 6 alert).secDone
      { ticketOf d 0x6E with gen := (s.ring d.ring).gen } pl
    s.finished t d ∧ bit (t.reg Reg.SEC_EVENTS) 7 = true ∧ t.sec = s.sec.installed img probe := by
  obtain ⟨hevt, hring, -⟩ := ((s.take d).setSec (fun q => q.installed img probe)).secAlert_facts 7 6 alert (by decide)
  have hsec := ((s.take d).setSec (fun q => q.installed img probe)).secAlert_sec 7 6 alert
  have htake : RingSame (s.take d) ((s.take d).setSec (fun q => q.installed img probe)) := RingSame.of rfl
  generalize ((s.take d).setSec (fun q => q.installed img probe)).secAlert 7 6 alert = u at hevt hring hsec
  obtain ⟨hfin, hkept, -, -, -⟩ := State.secDone_facts s u d { ticketOf d 0x6E with gen := (s.ring d.ring).gen } pl stDone rfl rfl
    (htake.trans hring)
  refine ⟨hfin, ?_, hkept.trans hsec⟩
  unfold State.secDone
  rw [State.complete_reg _ _ _ _ _ _ _ _ (quiet_win _ _ _ (by decide) (by decide) (by decide)) (by decide)]
  exact hevt

/-! ### Self-tests (R511, R513) -/

theorem exec_secSelftest {s : State} {d : Desc} (fails : List (Nat × Nat)) (h : s.takesService d []) (huser : s.isUser d = true)
    (hm : s.dev.mode = .standby ∨ s.dev.mode = .operational) :
    exec (.secSelftest d fails) s = .next ((s.take d).selftest { ticketOf d 0x6F with gen := (s.ring d.ring).gen } fails) :=
  (State.go_secCmd 0x6F _ h rfl (soMode_mem hm) ((s.isUser_take d).trans huser) : execSecSelftest d fails s = _)

/-- The engines that serve: the spares, then the active ones. -/
def State.enginesServing (s : State) : List Nat := s.unitsIn 0x0D 1 ++ s.unitsIn 0x0D 2

theorem State.mem_unitsIn {s : State} {kind code i : Nat} : i ∈ s.unitsIn kind code ↔ i < unitCount kind ∧ s.unitCode kind i = code := by
  unfold State.unitsIn
  rw [List.mem_filter, List.mem_range, decide_eq_true_iff]

theorem State.mem_enginesServing {s : State} {e : Nat} :
    e ∈ s.enginesServing ↔ e < 18 ∧ (s.unitCode 0x0D e = 1 ∨ s.unitCode 0x0D e = 2) := by
  unfold State.enginesServing
  rw [List.mem_append, State.mem_unitsIn, State.mem_unitsIn, ← and_or_left]
  rfl

theorem State.enginesServing_nodup (s : State) : s.enginesServing.Nodup := by
  have hdup : ∀ code, (s.unitsIn 0x0D code).Nodup := fun code => List.nodup_range.filter _
  refine List.nodup_append'.mpr ⟨hdup 1, hdup 2, fun e h1 h2 => ?_⟩
  rw [State.mem_unitsIn] at h1 h2
  omega

/-- A self-test runs the KATs of every engine that serves, may queue exchanges of engines for the boundary, and ends. -/
theorem State.selftest_eq (s : State) (k : Ticket) (fails : List (Nat × Nat)) :
    ∃ due pl, s.selftest k fails = ((s.kats s.enginesServing fails).setSvc (fun q => { q with due := due })).secDone k pl := by
  unfold State.selftest
  dsimp only
  split
  · exact ⟨_, _, rfl⟩
  · exact ⟨(s.kats s.enginesServing fails).svc.due, _, rfl⟩

/-- KATs that all pass keep every ring. -/
theorem State.kats_pass_ringSame (s : State) (l : List Nat) : RingSame s (s.kats l []) :=
  RingSame.foldl l (fun u e => (u.enginePassed_keeps e).ringSame rfl) (RingSame.refl s)

/-- Settles O42: each command by its equation, and what the operations it comes to leave. An install that completes at once, from any
object, is log entry 102, and a self-test of all engines when it is taken 103. -/
theorem securityKeys : Obligations.SecurityKeys := by
  refine ⟨?ecdh, ?ownerSet, ?identityGen, ?getIdentity, ?takeKey, ?attest, ?install, ?selftest⟩
  case ecdh =>
    intro s d h hbuf hco hm hdrbg hide
    obtain ⟨hfin, hsec, -, hgets⟩ := State.secWrite_facts s ((s.take d).useFree.setSec (fun q => { q with
      ed := some (beBytes 48 (s.freeNat 384)) })) d { ticketOf d 0x68 with gen := (s.ring d.ring).gen } 0 _ [] stDone
      rfl rfl (RingSame.of rfl) rfl rfl rfl (hide _ rfl)
    exact ⟨_, _, exec_secEcdhBegin h hbuf hco hm hdrbg, rfl, hfin, hsec, hgets⟩
  case ownerSet =>
    intro s d ed h hbuf hco hm hed
    have hrefused : ∀ st, s.finished ((s.take d).complete { ticketOf d 0x69 with gen := (s.ring d.ring).gen } st) d :=
      fun st => State.finished_complete s _ d _ _ _ _ rfl rfl (RingSame.refl _)
    cases hz : Config.ecdh ed (sliceBytes d.buf 0 96) with
    | none =>
      exact ⟨_, exec_secOwnerSet_point h hbuf hco hm hed hz, hrefused _, fun z owk c => (nomatch c),
        fun _ => State.complete_sec .., fun z c => (nomatch c)⟩
    | some z =>
      cases hu : Config.keyUnwrap (kekOf ed z) (sliceBytes d.buf 96 40) with
      | none =>
        exact ⟨_, exec_secOwnerSet_wrap h hbuf hco hm hed hz hu, hrefused _,
          fun z' owk e c => (by cases e; rw [hu] at c; cases c), fun c => (nomatch c), fun _ _ _ => State.complete_sec ..⟩
      | some owk =>
        obtain ⟨hfin, hsec, -, -, -⟩ := State.secDone_facts s ((s.take d).setSec (fun q => { q with
          owk := some (sliceBytes owk 0 32), ed := none })) d { ticketOf d 0x69 with gen := (s.ring d.ring).gen }
          [(16, 8, leAt (owkIdOf (sliceBytes owk 0 32)) 0 8)] stDone rfl rfl (RingSame.of rfl)
        exact ⟨_, exec_secOwnerSet_stores h hbuf hco hm hed hz hu, hfin,
          fun z' owk' e c => (by cases e; rw [hu] at c; cases c; exact hsec), fun c => (nomatch c),
          fun z' e c => (by cases e; rw [hu] at c; cases c)⟩
  case identityGen =>
    intro s d h hco hm hdrbg
    obtain ⟨hfin, hsec, -, -, -⟩ := State.secDone_facts s ((s.take d).useFree.setSec (fun q => { q with
      dik := some (beBytes 48 (s.freeNat 384)) })) d { ticketOf d 0x6A with gen := (s.ring d.ring).gen }
      [(16, 8, leAt (sha384 (pubOf (beBytes 48 (s.freeNat 384)))) 0 8)] stDone rfl rfl (RingSame.of rfl)
    exact ⟨_, exec_secIdentityGen h hco hm hdrbg, hfin, hsec⟩
  case getIdentity =>
    intro s d h hbuf hm hide
    obtain ⟨hfin, hsec, -, hgets⟩ := State.secWrite_facts s (s.take d) d { ticketOf d 0x6B with gen := (s.ring d.ring).gen } 0 _ _ _
      rfl rfl (RingSame.refl _) rfl rfl rfl hide
    exact ⟨_, exec_secGetIdentity h hbuf hm, hfin, hsec, hgets⟩
  case takeKey =>
    intro s d h hbuf huser hm hfloor hserial hide
    obtain ⟨hfin, hsec, -, hgets⟩ := State.secWrite_facts s (s.take d) d { ticketOf d 0x6C with gen := (s.ring d.ring).gen } 0 _ [] stDone
      rfl rfl (RingSame.refl _) rfl rfl rfl (hide _ rfl)
    exact ⟨_, _, exec_secTakeKey h hbuf huser hm hfloor hserial, rfl, hfin, hsec, hgets⟩
  case attest =>
    intro s d h hbuf huser hm hide
    obtain ⟨hfin, hsec, -, hgets⟩ := State.secWrite_facts s (s.take d) d { ticketOf d 0x6D with gen := (s.ring d.ring).gen } 48 _ [] stDone
      rfl rfl (RingSame.refl _) rfl rfl rfl (hide _ rfl)
    exact ⟨_, _, exec_secAttest h hbuf huser hm, rfl, hfin, hsec, hgets⟩
  case install =>
    intro s d o h hop hco hm hobj
    cases himg : imageOk s.sec.svnFloor (s.objBytes (opAt d 12 4) 0 o.2.size) with
    | none =>
      exact ⟨_, _, exec_secFwInstall_bad h hop hco hm hobj himg, rfl, State.finished_complete s _ d _ _ _ _ rfl rfl (RingSame.refl _),
        fun _ => State.complete_sec .., fun v n len c => (by rw [himg] at c; cases c)⟩
    | some x =>
      obtain ⟨v, n, len⟩ := x
      obtain ⟨hfin, hevt, hsec⟩ := s.installed_facts d ((s.objBytes (opAt d 12 4) 0 o.2.size).take len) (decide (opAt d 8 1 = 1))
        [(17, 1, 1 - s.sec.fwActive), (18, 1, 0), (20, 4, v)] [(16, 4, v), (20, 1, 1 - s.sec.fwActive)]
      refine ⟨_, _, exec_secFwInstall_good h hop hco hm hobj himg, rfl, hfin, fun c => (by rw [himg] at c; cases c),
        fun v' n' len' c => ?_⟩
      rw [himg] at c
      cases c
      rw [hsec]
      exact ⟨hevt, s.sec.installed_slotImage _ _, rfl⟩
  case selftest =>
    intro s d fails h huser hm
    obtain ⟨due, pl, e⟩ := (s.take d).selftest_eq { ticketOf d 0x6F with gen := (s.ring d.ring).gen } fails
    refine ⟨_, exec_secSelftest fails h huser hm, fun hf => ?_, fun i hi hlt => ?_⟩
    · rw [e, hf]
      have hpass := (s.take d).kats_pass_ringSame (s.take d).enginesServing
      have hdue := RingSame.of (s := (s.take d).kats (s.take d).enginesServing [])
        (t := ((s.take d).kats (s.take d).enginesServing []).setSvc (fun q => { q with due := due })) rfl
      exact (State.secDone_facts s _ d _ pl stDone rfl rfl (hpass.trans hdue)).1
    · obtain ⟨hkats, -⟩ := State.kats_facts fails (s.take d).enginesServing (s.take d) (s.take d).enginesServing_nodup (fun e he => by
        obtain ⟨hlt, hcode⟩ := State.mem_enginesServing.mp he
        exact ⟨hlt, by rcases hcode with hc | hc <;> rw [hc] <;> decide⟩)
      have hserves := hkats i (State.mem_enginesServing.mpr ⟨hlt, hi⟩)
      have hcode : ∀ u : State, ((u.setSvc (fun q => { q with due := due })).secDone
          { ticketOf d 0x6F with gen := (s.ring d.ring).gen } pl).unitCode 0x0D i = u.unitCode 0x0D i := fun u =>
        State.unitCode_of (s := u.setSvc (fun q => { q with due := due })) (State.complete_svc ..) 0x0D i
      rw [e, hcode, show ∀ u : State, (u.secDone { ticketOf d 0x6F with gen := (s.ring d.ring).gen } pl).sec = u.sec from
        fun u => State.complete_sec ..]
      exact hserves

end Sys2Proof.Machine

/-! SUPPORT. Units: what UNIT_DRAIN, UNIT_TEST, UNIT_RETURN and UNIT_RETIRE start, and how tests, drains and failures end (R551 to R556). -/

namespace Sys2Proof.Machine

/-! ### UNIT commands -/

/-- A UNIT command that the service core takes and whose check passes runs its body. -/
theorem State.go_unitCmd {s : State} {d : Desc} (op : Nat) {check : State → Refuse} (body : Ticket → State → State) (h : s.takesCmd d)
    (hr : s.recovering 5 = false) (hc : check (s.take d) = none) :
    s.go (fun s => s.unlessRecovering 5 (fun s => s.runCmd d op check body))
      = .next (body { ticketOf d op with gen := (s.ring d.ring).gen } (s.take d)) := by
  obtain ⟨hs, ht, hk⟩ := h
  rw [State.go_run _ _ hs]
  unfold State.unlessRecovering
  rw [hr, if_neg Bool.false_ne_true]
  exact congrArg _ (State.runCmd_run _ _ _ _ _ ht hk hc)

/-- No change of the unit waits for its boundary. -/
theorem State.noneDue {s : State} {kind i : Nat} (h : ∀ e ∈ s.svc.due, ¬(e.kind = kind ∧ e.index = i)) :
    s.svc.due.any (fun e => decide (e.kind = kind) && decide (e.index = i)) = false :=
  List.any_eq_false.mpr fun e he c => by
    rw [Bool.and_eq_true, decide_eq_true_iff, decide_eq_true_iff] at c
    exact h e he c

/-- What UNIT_RETURN does at once: a drive slot is identified again. -/
def State.returning (s : State) (kind i : Nat) : State := if kind = 7 then s.slotReturn i else s

theorem State.returning_facts (s : State) (kind i : Nat) :
    (s.returning kind i).svc = s.svc ∧ (s.returning kind i).time = s.time ∧ RingSame s (s.returning kind i) := by
  have hk := s.slotReturn_keeps i
  unfold State.returning
  split
  · exact ⟨hk.same .svc rfl, hk.same .time rfl, hk.ringSame rfl⟩
  · exact ⟨rfl, rfl, RingSame.refl s⟩

/-- A return that waits for its boundary. -/
theorem State.returning_setDue (s : State) (kind i : Nat) (e : UnitDue) :
    ((s.returning kind i).setDue e).svc = { s.svc with due := s.svc.due ++ [e] } := by
  obtain ⟨hsvc, -, -⟩ := s.returning_facts kind i
  show { (s.returning kind i).svc with due := (s.returning kind i).svc.due ++ [e] } = _
  rw [hsvc]

/-- What UNIT_RETIRE does to a unit. -/
def State.retire (s : State) (kind i : Nat) : State := (s.changeUnit kind i 6).setSvc (fun q => { q with
  retired := if q.retired.contains (unitKey kind i) then q.retired else q.retired ++ [unitKey kind i] })

section Commands
variable {s : State} {d : Desc} (h : s.takesCmd d) (hr : s.recovering 5 = false) (hsteward : s.isSteward d = true)
  (hm : s.dev.mode = .standby ∨ s.dev.mode = .operational)
include h hr hsteward hm

theorem exec_unitDrain (hst : structOk d (unitTarget d) [] false = true)
    (hcode : s.unitCode (tKind d) (tIndex d) = 1
      ∨ s.unitCode (tKind d) (tIndex d) = 2 ∧ (tKind d = 4 ∨ (s.freeSpare (tKind d)).isSome = true))
    (hdue : ∀ e ∈ s.svc.due, ¬(e.kind = tKind d ∧ e.index = tIndex d)) (hforbids : s.drainForbids (tKind d) (tIndex d) = none) :
    exec (.unitDrain d) s = .next ((s.take d).setDue {
      tick := s.time.tickNum + 2, kind := tKind d, index := tIndex d,
      to_ := if s.unitCode (tKind d) (tIndex d) = 1 then 0 else 3,
      spare := if tKind d = 4 then none else if s.unitCode (tKind d) (tIndex d) = 1 then none else s.freeSpare (tKind d),
      ticket := some { ticketOf d 0x70 with gen := (s.ring d.ring).gen } }) := by
  refine (State.go_unitCmd 0x70 _ h hr ?_ : execUnitDrain d s = _)
  have hserves : ¬(s.unitCode (tKind d) (tIndex d) ≠ 1 ∧ s.unitCode (tKind d) (tIndex d) ≠ 2
      ∨ s.svc.due.any (fun e => decide (e.kind = tKind d) && decide (e.index = tIndex d)) = true) := by
    rw [State.noneDue hdue]
    rintro (⟨h1, h2⟩ | c)
    · exact hcode.elim h1 (fun c => h2 c.1)
    · cases c
  have hspare : ¬(s.unitCode (tKind d) (tIndex d) = 2 ∧ tKind d ≠ 4 ∧ (s.freeSpare (tKind d)).isNone = true) := by
    rintro ⟨h2, h4, hn⟩
    rcases hcode with h1 | ⟨-, h4' | hsome⟩
    · omega
    · exact h4 h4'
    · rw [Option.isNone_iff_eq_none] at hn
      rw [hn] at hsome
      cases hsome
  unfold State.unitDrainCheck
  rw [State.check405_none _ d hst rfl (show (s.take d).isSteward d = true from hsteward) (s.modes2 d hm)]
  refine (if_neg hserves).trans ?_
  rw [show (s.take d).drainForbids (tKind d) (tIndex d) = none from hforbids]
  exact if_neg hspare

theorem exec_unitTest (hst : structOk d (unitTarget d) [(8, 1)] false = true) (hop : opAt d 8 1 ≤ 1)
    (hcode : s.unitCode (tKind d) (tIndex d) ∉ [2, 3, 4]) :
    ∃ t, exec (.unitTest d) s = .next t ∧ RingSame (s.take d) t
      ∧ t.svc = (((s.take d).changeUnit (tKind d) (tIndex d) 4).setSvc (fun q => { q with tests := q.tests ++ [{
          kind := tKind d, index := tIndex d, from_ := s.unitCode (tKind d) (tIndex d),
          ticket := some { ticketOf d 0x71 with gen := (s.ring d.ring).gen } }] })).svc := by
  have hcheck : State.testCheck d (s.take d) = none := by
    unfold State.testCheck
    rw [State.check405_none _ d hst (decide_eq_true hop) (show (s.take d).isSteward d = true from hsteward) (s.modes2 d hm)]
    exact if_neg (fun c => hcode (List.contains_iff_mem.mp c))
  have hexec := (State.go_unitCmd 0x71 _ h hr hcheck : execUnitTest d s = _)
  have hrings := ((s.take d).changeUnit_keeps (tKind d) (tIndex d) 4).ringSame rfl
  dsimp only at hexec
  generalize hu : ((s.take d).changeUnit (tKind d) (tIndex d) 4).setSvc _ = u at hexec
  have hring : RingSame (s.take d) u.mchWake :=
    (hrings.trans (RingSame.of (by rw [← hu]; rfl))).trans (u.mchWake_keeps.ringSame rfl)
  have hsvc : u.mchWake.svc = u.svc := u.mchWake_keeps.same .svc rfl
  refine ⟨_, hexec, ?_⟩
  rw [show (s.take d).unitCode (tKind d) (tIndex d) = s.unitCode (tKind d) (tIndex d) from rfl] at hu
  rw [hu]
  split
  · exact ⟨hring.trans ((State.sendMgmt_keeps ..).ringSame rfl), ((State.sendMgmt_keeps ..).same .svc rfl).trans hsvc⟩
  · exact ⟨hring, hsvc⟩

theorem exec_unitReturn (hst : structOk d (unitTarget d) [] false = true) (hcode : s.unitCode (tKind d) (tIndex d) = 0)
    (hdue : ∀ e ∈ s.svc.due, ¬(e.kind = tKind d ∧ e.index = tIndex d)) (hlane : tKind d = 4 → s.laneReturns (tIndex d) = true) :
    exec (.unitReturn d) s = .next (((s.take d).returning (tKind d) (tIndex d)).setDue {
      tick := s.time.tickNum + 2, kind := tKind d, index := tIndex d,
      to_ := if tKind d = 4 then 1 else if (s.unitsIn (tKind d) 1).length < s.spareTarget (tKind d) then 1 else 2,
      ticket := some { ticketOf d 0x72 with gen := (s.ring d.ring).gen } }) := by
  obtain ⟨-, htime, -⟩ := (s.take d).returning_facts (tKind d) (tIndex d)
  rw [show s.time.tickNum = ((s.take d).returning (tKind d) (tIndex d)).time.tickNum by rw [htime]; rfl]
  refine (State.go_unitCmd 0x72 _ h hr ?_ : execUnitReturn d s = _)
  have hoffline : ¬(s.unitCode (tKind d) (tIndex d) ≠ 0
      ∨ s.svc.due.any (fun e => decide (e.kind = tKind d) && decide (e.index = tIndex d)) = true) := by
    rw [State.noneDue hdue]
    rintro (c | c)
    · exact c hcode
    · cases c
  have hreturns : ¬(tKind d = 4 ∧ (!(s.take d).laneReturns (tIndex d)) = true) := by
    rintro ⟨h4, c⟩
    rw [show (s.take d).laneReturns (tIndex d) = true from hlane h4] at c
    cases c
  unfold State.returnCheck
  rw [State.check405_none _ d hst rfl (show (s.take d).isSteward d = true from hsteward) (s.modes2 d hm)]
  exact (if_neg hoffline).trans (if_neg hreturns)

theorem exec_unitRetire (hst : structOk d (unitTarget d) [] false = true)
    (hcode : s.unitCode (tKind d) (tIndex d) = 0 ∨ s.unitCode (tKind d) (tIndex d) = 5) :
    exec (.unitRetire d) s = .next (((s.take d).retire (tKind d) (tIndex d)).complete
      { ticketOf d 0x73 with gen := (s.ring d.ring).gen } stDone (unitPayload 6)) := by
  refine (State.go_unitCmd 0x73 _ h hr ?_ : execUnitRetire d s = _)
  have hretires : ¬(s.unitCode (tKind d) (tIndex d) ≠ 0 ∧ s.unitCode (tKind d) (tIndex d) ≠ 5) := fun c => hcode.elim c.1 c.2
  unfold State.retireCheck
  rw [State.check405_none _ d hst rfl (show (s.take d).isSteward d = true from hsteward) (s.modes2 d hm)]
  exact if_neg hretires

end Commands

theorem State.retire_facts (s : State) (kind i : Nat) : (s.retire kind i).unitCode kind i = 6
    ∧ unitKey kind i ∈ (s.retire kind i).svc.retired ∧ RingSame s (s.retire kind i) := by
  have hcode := s.changeUnit_code kind i 6
  have hring := (s.changeUnit_keeps kind i 6).ringSame rfl
  have hret : (s.retire kind i).svc.retired = if (s.changeUnit kind i 6).svc.retired.contains (unitKey kind i)
      then (s.changeUnit kind i 6).svc.retired else (s.changeUnit kind i 6).svc.retired ++ [unitKey kind i] := rfl
  refine ⟨hcode, ?_, hring.trans (RingSame.of rfl)⟩
  rw [hret]
  split
  · next hmem => exact List.contains_iff_mem.mp hmem
  · exact List.mem_append_right _ (List.mem_singleton.mpr rfl)

/-! ### The end of a test (R554) -/

/-- What a test's end records of the unit: the test is over, and its result. -/
def State.testRecorded (s : State) (kind i : Nat) (pass : Bool) : State := s.setSvc (fun q => { q with
  tests := q.tests.filter (fun t => !(decide (t.kind = kind) && decide (t.index = i))),
  retired := if pass then q.retired.filter (fun x => decide (x ≠ unitKey kind i)) else q.retired,
  passedAt := if pass then q.passedAt.put 0 (unitKey kind i) s.time.clk else q.passedAt,
  causes := if pass then q.causes else q.causes.put 0 (unitKey kind i) 1,
  testsFailed := if pass then q.testsFailed
    else q.testsFailed.put 0 (unitKey kind i) (satAdd 255 (q.testsFailed.get 0 (unitKey kind i)) 1) })

/-- The state that a test's end leads to: from SPARE back to SPARE, else OFFLINE; on a failure FAILED, or RETIRED again. -/
def testedCode (pass : Bool) (from_ : Nat) : Nat := if pass then (if from_ = 1 then 1 else 0) else if from_ = 6 then 6 else 5

/-- The only test ends: the unit's record and its new state. -/
theorem State.testEnd_svc {s : State} {kind i : Nat} {x : UnitTest} (pass : Bool) (step errs : Nat) (ht : s.svc.tests = [x])
    (hk : x.kind = kind) (hi : x.index = i) :
    (s.testEnd kind i pass step errs).svc = ((s.testRecorded kind i pass).changeUnit kind i (testedCode pass x.from_)).svc := by
  have hfind : s.svc.tests.find? (fun t => decide (t.kind = kind) && decide (t.index = i)) = some x := by
    rw [ht]
    exact List.find?_cons_of_pos (by rw [hk, hi]; simp)
  have hend : s.testEnd kind i pass step errs =
      (if testedCode pass x.from_ = 5 then ((s.testRecorded kind i pass).changeUnit kind i 5).healthFail 7
        else (s.testRecorded kind i pass).changeUnit kind i (testedCode pass x.from_)).completeOpt x.ticket stDone
        (unitPayload (testedCode pass x.from_) ++ [(20, 4, if pass then 2 ^ 31 else step % 256 * 65536 + min 65535 errs)]) := by
    unfold State.testEnd
    rw [hfind]
    rfl
  rw [hend, State.completeOpt_svc]
  split
  · next h5 => rw [h5, State.healthFail_svc]
  · rfl

/-! ### The end of a drain (R553) -/

theorem State.drainDone_idle {s : State} {kind i : Nat} (hc : s.unitCode kind i = 3) (hidle : s.unitIdle kind i = true) :
    s.drainDone kind i = (s.svc.drains.filter (fun e => decide (e.1 = unitKey kind i))).foldl
      (fun u e => u.completeOpt e.2 stDone (unitPayload 0))
      ((s.changeUnit kind i 0).setSvc (fun q => { q with drains := q.drains.filter (fun e => decide (e.1 ≠ unitKey kind i)) })) := by
  unfold State.drainDone
  rw [hc, hidle]
  rfl

/-! ### Failures (R556) -/

/-- What a failure leaves of the service core: the unit FAILED, its tests and drains ended, and an ACTIVE unit's place to fill. -/
def State.failed (s : State) (kind i cause : Nat) : State :=
  ((s.unitFails kind i cause).logEntry 4 (target kind i) cause).setSvc (fun q => { q with
    tests := q.tests.filter (fun t => !(decide (t.kind = kind) && decide (t.index = i))),
    drains := q.drains.filter (fun e => decide (e.1 ≠ unitKey kind i)),
    replace := if s.unitCode kind i = 2 then q.replace ++ [(kind, (s.unitFails kind i cause).time.tickNum, i)] else q.replace })

theorem State.failed_facts (s : State) (kind i cause : Nat) :
    (s.failed kind i cause).unitCode kind i = 5
      ∧ (s.failed kind i cause).svc.causes.get 0 (unitKey kind i) = cause ∧ (s.failed kind i cause).svc.due = s.svc.due
      ∧ (s.failed kind i cause).svc.tests = s.svc.tests.filter (fun x => !(decide (x.kind = kind) && decide (x.index = i)))
      ∧ (s.failed kind i cause).svc.drains = s.svc.drains.filter (fun e => decide (e.1 ≠ unitKey kind i))
      ∧ (s.unitCode kind i = 2 → (kind, s.time.tickNum, i) ∈ (s.failed kind i cause).svc.replace) := by
  obtain ⟨htests, hdrains, hdue, hcause, -⟩ := s.unitFails_svc kind i cause
  refine ⟨s.unitFails_code kind i cause, hcause, hdue, congrArg _ htests, congrArg _ hdrains, fun h2 => ?_⟩
  show (kind, s.time.tickNum, i) ∈ (if s.unitCode kind i = 2
    then (s.unitFails kind i cause).svc.replace ++ [(kind, (s.unitFails kind i cause).time.tickNum, i)]
    else (s.unitFails kind i cause).svc.replace)
  rw [if_pos h2, State.unitFails_time]
  exact List.mem_append_right _ (List.mem_singleton.mpr rfl)

/-- A failure of a working unit of these classes, whose work is lost or moved outside the service core. -/
theorem State.unitFailure_svc {s : State} {kind i : Nat} (cause : Nat) (hk : kind ∈ [0x0B, 0x0C, 0x0D, 0x0E, 0x10, 0x11, 0x12])
    (hi : i < unitCount kind) (hc : s.unitCode kind i ∈ [1, 2, 3, 4]) :
    (s.unitFailure kind i cause).svc = (s.failed kind i cause).svc := by
  have hworks : ¬(unitCount kind ≤ i ∨ kind = 7 ∨ (!([1, 2, 3, 4] : List Nat).contains (s.unitCode kind i)) = true) := by
    rintro (c | rfl | c)
    · exact Nat.not_le.mpr hi c
    · exact absurd hk (by decide)
    · rw [List.contains_iff_mem.mpr hc] at c
      cases c
  unfold State.unitFailure
  dsimp only
  rw [if_neg hworks]
  generalize hv : List.foldl (fun (u : State) (e : Nat × Option Ticket) => u.completeOpt e.2 stUnitFailed (unitPayload 5)) _ _ = v
  have hsvc : v.svc = (s.failed kind i cause).svc := by
    rw [← hv, State.completeOpts_svc, State.completeOpts_svc]
    rfl
  rw [← hsvc]
  simp only [List.mem_cons, List.not_mem_nil, or_false] at hk
  rcases hk with rfl | rfl | rfl | rfl | rfl | rfl | rfl
  · exact v.chooseTp_keeps.same .svc rfl
  · exact (v.puFailed_keeps i).same .svc rfl
  · exact (v.ceFailed_keeps i).same .svc rfl
  · exact (v.moverFailed_keeps i).same .svc rfl
  · rfl
  · rfl
  · rfl

/-- Settles O39: each command by its equation, the end of a test, of a drain and a failure by what they leave of the service core. -/
theorem unitsChangeState : Obligations.UnitsChangeState := by
  refine ⟨?drain, ?test, ?laneReturn, ?unitReturn, ?retire, ?tested, ?drained, ?failure⟩
  case drain =>
    intro s d h hr hst hsteward hm hcode hdue hforbids
    refine ⟨_, _, exec_unitDrain h hr hsteward hm hst hcode hdue hforbids, rfl, State.owed_of s _ d (RingSame.of rfl), ?_⟩
    rw [ite_or]
    rfl
  case test =>
    intro s d h hr hst hop hsteward hm hcode
    obtain ⟨t, hexec, hring, hsvc⟩ := exec_unitTest h hr hsteward hm hst hop hcode
    obtain ⟨htests, -⟩ := (s.take d).changeUnit_svc (tKind d) (tIndex d) 4
    refine ⟨t, _, hexec, rfl, State.owed_of s t d hring, ?_, ?_⟩
    · rw [State.unitCode_of hsvc]
      exact (s.take d).changeUnit_code (tKind d) (tIndex d) 4
    · rw [hsvc]
      exact congrArg (· ++ [_]) htests
  case laneReturn =>
    intro s d h hr hst hsteward hm hcode hdue h4 hlane
    obtain ⟨-, -, hring⟩ := (s.take d).returning_facts (tKind d) (tIndex d)
    refine ⟨_, _, exec_unitReturn h hr hsteward hm hst hcode hdue (fun _ => hlane), rfl,
      State.owed_of s _ d (hring.trans (RingSame.of rfl)), ?_⟩
    rw [State.returning_setDue, if_pos h4, h4]
    rfl
  case unitReturn =>
    intro s d h hr hst hsteward hm hcode hdue h4
    obtain ⟨-, -, hring⟩ := (s.take d).returning_facts (tKind d) (tIndex d)
    refine ⟨_, _, exec_unitReturn h hr hsteward hm hst hcode hdue (fun c => absurd c h4), rfl,
      State.owed_of s _ d (hring.trans (RingSame.of rfl)), ?_⟩
    rw [State.returning_setDue, if_neg h4]
    rfl
  case retire =>
    intro s d h hr hst hsteward hm hcode
    obtain ⟨hcode', hret, hring⟩ := (s.take d).retire_facts (tKind d) (tIndex d)
    refine ⟨_, exec_unitRetire h hr hsteward hm hst hcode, State.finished_complete s _ d _ _ _ _ rfl rfl hring, ?_, ?_⟩
    · rw [State.unitCode_of (State.complete_svc ..)]
      exact hcode'
    · rw [State.complete_svc]
      exact hret
  case tested =>
    intro s kind i step errs pass x hs ht hk hi
    refine ⟨_, (State.go_run _ _ hs : execTestComplete kind i pass step errs s = _), ?_⟩
    have hsvc := State.testEnd_svc pass step errs ht hk hi
    obtain ⟨htests, -, -, hretired, -, hfailed, -⟩ := (s.testRecorded kind i pass).changeUnit_svc kind i (testedCode pass x.from_)
    rw [State.unitCode_of hsvc, State.changeUnit_code, hsvc, htests, hretired, hfailed]
    refine ⟨?_, rfl, fun hp => ?_, fun hp => ?_⟩
    · show s.svc.tests.filter _ = []
      rw [ht]
      exact List.filter_cons_of_neg (by rw [hk, hi]; simp)
    · subst hp
      show unitKey kind i ∉ s.svc.retired.filter (fun y => decide (y ≠ unitKey kind i))
      simp
    · subst hp
      exact ⟨Tab.get_put_self 0 s.svc.testsFailed _ _, rfl⟩
  case drained =>
    intro s kind i hs hc hidle
    refine ⟨_, (State.go_run _ _ hs : execDrainComplete kind i s = _), ?_⟩
    obtain ⟨-, hdrains, -⟩ := s.changeUnit_svc kind i 0
    rw [State.drainDone_idle hc hidle, State.unitCode_of (State.completeOpts_svc ..), State.completeOpts_svc]
    exact ⟨s.changeUnit_code kind i 0, congrArg _ hdrains⟩
  case failure =>
    intro s kind i cause hs hk hi hc
    have hsvc := State.unitFailure_svc (cause % 256) hk hi hc
    refine ⟨_, (State.go_run _ _ hs : execUnitFailure kind i cause s = _), ?_⟩
    rw [State.unitCode_of hsvc, hsvc]
    exact s.failed_facts kind i (cause % 256)

end Sys2Proof.Machine

/-! SUPPORT. The training of a lane: what a frame of a good control word leaves, failures, retries and RETRAIN (R129 to R134). -/

namespace Sys2Proof.Machine

/-! ### Training frames -/

/-- A request of the far end that has not been answered is applied to the transmitter, and its number is kept. -/
theorem LaneSt.answer_request {q : LaneSt} {c : Control} (hcmd : c.reqCmd ≠ 0) (hnew : c.reqSeq ≠ q.rspSeq) :
    ((q.answer c).ffe, (q.answer c).rspStatus) = ffeApply q.ffe c.reqCmd c.reqTap c.reqPreset ∧ (q.answer c).rspSeq = c.reqSeq := by
  unfold LaneSt.answer
  rw [if_neg (not_or.mpr ⟨hcmd, hnew⟩)]
  exact ⟨rfl, rfl⟩

/-- Answering a request changes the transmitter and what is answered, and nothing else. -/
theorem LaneSt.answer_rest (q : LaneSt) (c : Control) :
    (q.answer c).mode = q.mode ∧ (q.answer c).spare = q.spare := by
  unfold LaneSt.answer
  split <;> exact ⟨rfl, rfl⟩

/-- This receiver's own request leaves the transmitter and its answers alone. -/
theorem LaneSt.ask_rest (q : LaneSt) (c : Control) (a : Adapt) :
    (q.ask c a).mode = q.mode ∧ (q.ask c a).spare = q.spare ∧ (q.ask c a).ffe = q.ffe ∧ (q.ask c a).rspStatus = q.rspStatus
      ∧ (q.ask c a).rspSeq = q.rspSeq := by
  unfold LaneSt.ask
  dsimp only
  generalize hu : (if q.reqWait && decide (c.rspSeq = q.reqSeq) then _ else q) = u
  have h : u.mode = q.mode ∧ u.spare = q.spare ∧ u.ffe = q.ffe ∧ u.rspStatus = q.rspStatus ∧ u.rspSeq = q.rspSeq := by
    rw [← hu]
    split <;> exact ⟨rfl, rfl, rfl, rfl, rfl⟩
  split
  · split <;> exact h
  · exact h

/-- What a training frame whose fields match leaves of a lane: `ctl` is its LANE_CTRL (R131, R133, R134). -/
def LaneSt.trained (q : LaneSt) (c : Control) (a : Adapt) (ctl : Word) : LaneSt :=
  { (q.answer c).ask c a with
    mismatch := 0, farReady := if c.rxReady then q.farReady + 1 else 0, txPre := c.precodeReq && bit ctl 5,
    rxPre := c.precodeOn && bit ctl 4, ready := q.ready || a.ready }

theorem LaneSt.trained_rest (q : LaneSt) (c : Control) (a : Adapt) (ctl : Word) :
    (q.trained c a ctl).mode = q.mode ∧ (q.trained c a ctl).spare = q.spare := by
  obtain ⟨hmode, hspare, -⟩ := (q.answer c).ask_rest c a
  obtain ⟨hmode', hspare'⟩ := q.answer_rest c
  exact ⟨hmode.trans hmode', hspare.trans hspare'⟩

theorem LaneSt.trained_answer {q : LaneSt} {c : Control} (a : Adapt) (ctl : Word) (hcmd : c.reqCmd ≠ 0) (hnew : c.reqSeq ≠ q.rspSeq) :
    ((q.trained c a ctl).ffe, (q.trained c a ctl).rspStatus) = ffeApply q.ffe c.reqCmd c.reqTap c.reqPreset
      ∧ (q.trained c a ctl).rspSeq = c.reqSeq := by
  obtain ⟨-, -, hffe, hstatus, hseq⟩ := (q.answer c).ask_rest c a
  obtain ⟨happly, hnum⟩ := LaneSt.answer_request hcmd hnew
  exact ⟨(congrArg₂ Prod.mk hffe hstatus).trans happly, hseq.trans hnum⟩

/-- The state of the lane after the frame, before the frame's consequence. -/
def State.frameTaken (s : State) (n : Nat) (c : Control) (a : Adapt) : State :=
  s.setLane n (fun q => q.trained c (s.adaptation n a) (s.act Reg.LANE_CTRL n))

theorem State.adaptation_skew (s : State) (n : Nat) (a : Adapt) : (s.adaptation n a).skewNs = a.skewNs := by
  unfold State.adaptation
  split <;> rfl

/-- A training frame of a good control word whose fields match: training ends once both sides are ready, within the skew or not;
else the lane sends its next frame. -/
theorem State.trainingFrame_good {s : State} {n : Nat} {w : BitVec 48} {c : Control} (a : Adapt)
    (hon : bit (s.act Reg.LANE_CTRL n) 0 = true) (hm : (s.lane n).mode = .training) (hf : (s.lane n).failAt = none) (hc : parseControl w = some c)
    (hrate : c.rate = (s.txControl n).rate) (htag : c.linkTag = (s.txControl n).linkTag) (hlog : c.logical = (s.txControl n).logical) :
    s.trainingFrame n w a =
      if ((s.lane n).ready || (s.adaptation n a).ready) = true ∧ 8 ≤ (if c.rxReady then (s.lane n).farReady + 1 else 0) then
        (if 80 < a.skewNs then (s.frameTaken n c a).trainFail n else (s.frameTaken n c a).trainDone n)
      else (s.frameTaken n c a).emit (.lane n (.training ((s.frameTaken n c a).txControl n))) := by
  have htail : s.inTail n w = false := by
    unfold State.inTail LaneSt.inData
    rw [hm]
    rfl
  unfold State.trainingFrame
  dsimp only
  simp only [hon, hm, hf, htail, hc, State.adaptation_skew, hrate, htag, hlog, Bool.not_true, ne_eq, not_true_eq_false, decide_false,
    Bool.or_self, Bool.false_and, Bool.false_eq_true, if_false, if_true, reduceCtorEq, Bool.and_false, Option.isSome_none, State.lane_setLane_self, Bool.and_eq_true, decide_eq_true_eq]
  rfl

/-! ### Failures and new starts -/

theorem State.trainTimeout_fails {s : State} {n : Nat} (hm : (s.lane n).mode = .training) (hf : (s.lane n).failAt = none)
    (ht : (s.lane n).trainAt + msClk (s.actF Reg.LANE_TRAIN_CTRL n 31 16) ≤ s.time.clk) : s.trainTimeout n = s.trainFail n :=
  if_pos ⟨hm, hf, ht⟩

theorem State.trainRetry_starts {s : State} {n x : Nat} (hm : (s.lane n).mode = .training) (hf : (s.lane n).failAt = some x)
    (ht : x + 2500000 ≤ s.time.clk) : s.trainRetry n = s.startTraining n := by
  unfold State.trainRetry
  rw [hf]
  exact if_pos ⟨hm, ht⟩

theorem State.relockTimeout_starts {s : State} {n x : Nat} (hm : (s.lane n).mode = .search) (hf : (s.lane n).lockLostAt = some x)
    (ht : x + 2500000 ≤ s.time.clk) : s.relockTimeout n = s.startTraining n := by
  unfold State.relockTimeout
  rw [hf]
  exact if_pos ⟨hm, ht⟩

/-- RETRAIN is pending, and the failures in a row are forgotten (R134). -/
def State.retrainTaken (s : State) (n : Nat) : State :=
  (s.setEvt Reg.LANE_TRAIN_CTRL n 0).setLane n (fun q => { q with fails := 0 })

theorem State.retrain_starts {s : State} {n : Nat} (hon : s.laneOff n = false) (hjoin : s.mayRejoin n = true)
    (hswap : s.swapOf (lanePort n) = none) : s.retrain n = (s.retrainTaken n).startTraining n := by
  obtain ⟨henabled, -⟩ := Bool.or_eq_false_iff.mp
    (show (!bit (s.act Reg.LANE_CTRL n) 0 || decide ((s.lane n).mode = .eidle)) = false from hon)
  unfold State.retrain
  rw [henabled, hjoin, if_neg (by decide)]
  dsimp only
  rw [show (s.setEvt Reg.LANE_TRAIN_CTRL n 0).swapOf (lanePort n) = none from hswap]
  exact if_neg Bool.false_ne_true

/-- A write of RETRAIN to a lane that may train: its fields go to the pending set, and training starts. -/
theorem State.rowWrite_retrain {s : State} {p n : Nat} (v : Word) (h : s.writable p Reg.LANE_TRAIN_CTRL n) (hon : s.laneOff n = false)
    (hjoin : s.mayRejoin n = true) (hswap : s.swapOf (lanePort n) = none) :
    ∃ u : State, s.rowWrite p Reg.LANE_TRAIN_CTRL n (v ||| 1) = (u.retrainTaken n).startTraining n ∧ u.time = s.time := by
  obtain ⟨w, hwrite⟩ := s.rowWrite_after p Reg.LANE_TRAIN_CTRL n (v ||| 1) h
  have hgo : bit (v ||| 1) 0 = true := bit_or_pow v 0 (by decide)
  refine ⟨(s.afterAccess p w).storeBits Reg.LANE_TRAIN_CTRL n 0 (v ||| 1), hwrite.trans ?_, rfl⟩
  show (s.afterAccess p w).laneTrainCtrl p _ n (v ||| 1) = _
  unfold State.laneTrainCtrl State.onLane
  dsimp only
  rw [if_pos hgo, show ((s.afterAccess p w).storeBits Reg.LANE_TRAIN_CTRL n 0 (v ||| 1)).laneOff n = false from hon,
    if_neg Bool.false_ne_true]
  exact State.retrain_starts hon hjoin hswap

/-- Settles O20: a frame by the equation of its case, and what the end, the failure or the start of training leaves of the lane. -/
theorem laneTraining : Obligations.LaneTraining := by
  refine ⟨?frame, ?timeout, ?retry, ?relock, ?retrain⟩
  case frame =>
    intro s n w a c hs hon hm hf hc hrate htag hlog
    refine ⟨_, (State.go_run _ _ hs : execTrainingFrame n w a s = _), ?_, ?_⟩
    all_goals rw [State.trainingFrame_good a hon hm hf hc hrate htag hlog]
    · rintro ⟨hready, hrx, h8, hskew⟩
      rw [if_pos ⟨hready, by rw [if_pos hrx]; exact h8⟩, if_neg (Nat.not_lt.mpr hskew), State.trainDone_lane]
      unfold State.frameTaken
      rw [State.lane_setLane_self, (LaneSt.trained_rest ..).2]
      exact ⟨rfl, rfl, rfl⟩
    · intro hnot
      have hwaits : ¬(((s.lane n).ready || (s.adaptation n a).ready) = true
          ∧ 8 ≤ (if c.rxReady then (s.lane n).farReady + 1 else 0)) := by
        rintro ⟨hready, h8⟩
        split at h8
        · next hrx => exact hnot ⟨hready, hrx, h8⟩
        · omega
      rw [if_neg hwaits, State.emit_lane]
      unfold State.frameTaken
      rw [State.lane_setLane_self]
      exact ⟨(LaneSt.trained_rest ..).1.trans hm, rfl, LaneSt.trained_answer _ _, rfl⟩
  case timeout =>
    intro s n hs hm hf ht
    refine ⟨_, (State.go_run _ _ hs : execTrainTimeout n s = _), ?_⟩
    rw [State.trainTimeout_fails hm hf ht, State.trainFail_lane]
    exact ⟨rfl, rfl, rfl, s.trainFail_bit n⟩
  case retry =>
    intro s n x hs hm hf ht
    obtain ⟨c, out, hout⟩ := s.startTraining_out n
    refine ⟨_, c, out, (State.go_run _ _ hs : execTrainRetry n s = _), ?_⟩
    rw [State.trainRetry_starts hm hf ht, State.startTraining_lane]
    exact ⟨rfl, rfl, rfl, rfl, hout⟩
  case relock =>
    intro s n x hs hm hf ht
    obtain ⟨c, out, hout⟩ := s.startTraining_out n
    refine ⟨_, c, out, (State.go_run _ _ hs : execRelockTimeout n s = _), ?_⟩
    rw [State.relockTimeout_starts hm hf ht, State.startTraining_lane]
    exact ⟨rfl, rfl, rfl, hout⟩
  case retrain =>
    intro s p n v h hon hjoin hswap
    obtain ⟨u, hwrite, htime⟩ := State.rowWrite_retrain v h hon hjoin hswap
    obtain ⟨c, out, hout⟩ := (u.retrainTaken n).startTraining_out n
    refine ⟨_, c, out, (State.go_run _ _ h.1 : execRetrain p n v s = _), ?_⟩
    rw [hwrite, State.startTraining_lane]
    refine ⟨rfl, ?_, ?_, hout⟩
    · exact congrArg LaneSt.fails (State.lane_setLane_self ..)
    · exact congrArg TimeState.clk htime

end Sys2Proof.Machine

/-! SUPPORT. The lock of a lane: commas that lock it, its loss, block starts and wakes (R126 to R128, R136 to R138). -/

namespace Sys2Proof.Machine

/-! ### Lock and its loss -/

/-- Three NORMAL or SWAP commas. -/
theorem commas_lock {commas : List (List Nat)} (h3 : commas.length = 3)
    (hall : ∀ c ∈ commas, c = commaOf .normal ∨ c = commaOf .swap) :
    (decide (commas.length = 3) && commas.all (fun c => c = commaOf .normal || c = commaOf .swap)) = true := by
  rw [h3, Bool.and_eq_true, List.all_eq_true]
  exact ⟨rfl, fun c hc => by simpa using hall c hc⟩

/-- What LOCK leaves of a searching lane: the block and its seed start anew (R123, R127). -/
def LaneSt.locks (q : LaneSt) : LaneSt :=
  { q with
    mode := if q.spare then .spareRun else .locked, commaMiss := 0, lockLostAt := none, uncorr := 0, cw := 0,
    scr := laneSeed (if q.spare then 8 else q.logical), prevP := 0 }

theorem State.lockGained_training {s : State} {n : Nat} {commas : List (List Nat)}
    (hok : (decide (commas.length = 3) && commas.all (fun c => c = commaOf .normal || c = commaOf .swap)) = true)
    (hm : (s.lane n).mode = .training) : s.lockGained n commas = s.laneEvt n [1] := by
  unfold State.lockGained
  dsimp only
  rw [hok, if_neg (by decide), if_pos hm]

theorem State.lockGained_search {s : State} {n : Nat} {commas : List (List Nat)}
    (hok : (decide (commas.length = 3) && commas.all (fun c => c = commaOf .normal || c = commaOf .swap)) = true)
    (hm : (s.lane n).mode = .search) : s.lockGained n commas = (s.setLane n LaneSt.locks).laneEvt n [1] := by
  unfold State.lockGained
  dsimp only
  rw [hok, if_neg (by decide), if_neg (by rw [hm]; decide), if_pos hm]
  rfl

theorem LaneSt.inData_of {q : LaneSt} (h : q.mode = .locked ∨ q.mode = .spareRun) : q.inData = true := by
  unfold LaneSt.inData
  rcases h with h | h <;> rw [h] <;> rfl

/-- A lane that has lost its lock searches from now on, and is no ready spare (R128, R143). -/
def LaneSt.lost (q : LaneSt) (clk : Nat) : LaneSt :=
  { q with mode := .search, lockLostAt := some clk, match_ := 0, spareReady := false }

/-- The spare of a planned swap loses its lock: the swap notes it (R148). -/
def State.spareLoses (s : State) (n : Nat) : State :=
  match s.swapOf (lanePort n) with
  | some w => if w.spare = n ∧ !w.failure then s.setSwap (lanePort n) (some { w with spareLost := true }) else s
  | none => s

theorem State.spareLoses_lane (s : State) (n k : Nat) : (s.spareLoses n).lane k = s.lane k := by
  unfold State.spareLoses
  split
  · split <;> rfl
  · rfl

theorem State.lockLost_searches {s : State} {n : Nat} (hd : (s.lane n).inData = true) (h4 : 4 ≤ (s.lane n).commaMiss) :
    s.lockLost n = ((s.setLane n (fun q => q.lost s.time.clk)).spareLoses n).laneEvt n [2] :=
  if_pos ⟨hd, h4⟩

/-! ### Block starts -/

/-- A block start whose comma is missing (R128). -/
def LaneSt.missed (q : LaneSt) : LaneSt :=
  { q with commaMiss := q.commaMiss + 1, rxBlock := q.rxBlock + 1, cw := 0, prevP := 0, scr := laneSeed (if q.spare then 8 else q.logical) }

/-- A block start with a comma of a variant, at a device time (R126, R129). -/
def LaneSt.opened (q : LaneSt) (v : Comma) (now : Nat) : LaneSt :=
  { q with
    commaMiss := 0, rxBlock := q.rxBlock + 1, cw := 0, prevP := 0, variant := v, tail := none, commaAt := some now,
    scr := laneSeed (if q.spare then 8 else q.logical) }

/-- What a block start brings once its comma is known: the margin, a swap's receive side, and what waits for a block. -/
def State.blockWith (s : State) (n snr : Nat) (v : Comma) : State := ((s.margin n snr).swapComma n v).blockStart n

theorem State.alignmentComma_missed {s : State} {n : Nat} {levels : List Nat} (snr : Nat) (hd : (s.lane n).inData = true)
    (hc : classifyComma levels = none) : s.alignmentComma n levels snr = (s.setLane n LaneSt.missed).blockWith n snr .normal := by
  unfold State.alignmentComma
  dsimp only
  rw [hd, hc]
  rfl

theorem State.alignmentComma_opens {s : State} {n : Nat} {levels : List Nat} {v : Comma} (snr : Nat) (hd : (s.lane n).inData = true)
    (hc : classifyComma levels = some v) (hv : v ≠ .idle) :
    s.alignmentComma n levels snr = (s.setLane n (fun q => q.opened v s.time.now)).blockWith n snr v := by
  unfold State.alignmentComma
  dsimp only
  rw [hd, hc]
  cases v with
  | idle => exact absurd rfl hv
  | normal => rfl
  | swap => rfl

/-- An IDLE comma: the lane is idle from now on, and its place in the block is the start (R136). -/
theorem State.alignmentComma_idle {s : State} {n : Nat} {levels : List Nat} (snr : Nat) (hd : (s.lane n).inData = true)
    (hc : classifyComma levels = some .idle) (hs : (s.lane n).spare = false) :
    (s.alignmentComma n levels snr).lane n = { (s.lane n).opened .idle s.time.now with mode := .eidle, idleAt := s.time.clk } := by
  unfold State.alignmentComma
  dsimp only
  rw [hd, hc, hs, if_neg (by decide)]
  dsimp only
  rw [if_neg Bool.false_ne_true]
  generalize hu : State.setLane _ n (fun q => { q with mode := .eidle, idleAt := _ }) = u
  have hlane : u.lane n = { (s.lane n).opened .idle s.time.now with mode := .eidle, idleAt := s.time.clk } := by
    rw [← hu, State.lane_setLane_self, State.lane_setLane_self]
    rfl
  rw [← hlane]
  split
  · split
    · exact State.setLinkMode_lane ..
    · rfl
  · rfl

/-- With no swap on the port, a block start without a SWAP comma leaves of its lane all but margins and what is being lost. -/
theorem State.blockWith_normal {s : State} {n : Nat} (snr : Nat) (hw : s.swapOf (lanePort n) = none) (hs : (s.lane n).spare = false)
    (h0 : (s.lane n).cw = 0) : ∃ low high b losing, (s.blockWith n snr .normal).lane n =
      { s.lane n with snrLow := low, snrHigh := high, marginLow := b, losing := losing } := by
  obtain ⟨low, high, b, hmargin⟩ := s.margin_lane n snr
  unfold State.blockWith
  rw [State.swapComma_normal _ n (s.margin_swap n snr hw)]
  obtain ⟨c, losing, hstart, hcw⟩ := (s.margin n snr).blockStart_lane n (by rw [hmargin]; exact hs)
  rw [hmargin] at hstart hcw
  have hc : c = 0 := hcw.elim (fun e => e.trans h0) id
  exact ⟨low, high, b, losing, by rw [hstart, hc, ← h0]⟩

/-- With no swap on the port, the lane's place after any block start. -/
theorem State.blockWith_place {s : State} {n : Nat} (snr : Nat) (v : Comma) (hw : s.swapOf (lanePort n) = none)
    (hs : (s.lane n).spare = false) (h0 : (s.lane n).cw = 0) :
    ((s.blockWith n snr v).lane n).rxBlock = (s.lane n).rxBlock ∧ ((s.blockWith n snr v).lane n).cw = 0 := by
  obtain ⟨low, high, b, hmargin⟩ := s.margin_lane n snr
  obtain ⟨hrx, hcw, hspare⟩ := (s.margin n snr).swapComma_place n v n (s.margin_swap n snr hw)
  rw [hmargin] at hrx hcw hspare
  obtain ⟨c, losing, hstart, hc⟩ := ((s.margin n snr).swapComma n v).blockStart_lane n (hspare hs)
  unfold State.blockWith
  rw [hstart]
  exact ⟨hrx, hc.elim (fun e => e.trans (hcw.trans h0)) id⟩

/-! ### Wakes -/

theorem State.wakeBurst_retrains {s : State} {n : Nat} (hm : (s.lane n).mode = .eidle ∨ (s.lane n).mode = .wake)
    (hr : s.wakeRetrains n = true) : s.wakeBurst n = s.startTraining n := by
  unfold State.wakeBurst
  dsimp only
  rw [if_pos hm, if_pos hr]

/-- A lane that wakes on a new block grid (R137). -/
def LaneSt.wakes (q : LaneSt) : LaneSt :=
  { q with
    mode := .locked, cw := 0, rxBlock := 1, txBlock := 0, prevP := 0, scr := laneSeed q.logical, commaMiss := 0, uncorr := 0,
    txIdleAt := none }

/-- The burst that the transmitter of an idle lane answers a wake with. -/
def State.answersWake (s : State) (n : Nat) : State := if (s.lane n).mode = .eidle then s.emit (.lane n .wakeBurst) else s

theorem State.answersWake_lane (s : State) (n k : Nat) : (s.answersWake n).lane k = s.lane k := by
  unfold State.answersWake
  split <;> rfl

/-- A link starts anew once its lanes are awake, with the CAPABILITY that it had (R169). -/
def State.linkWakes (s : State) : Option Nat → State
  | some l => if s.linkReady l then (s.linkStart l).setHl l (fun q => { q with cap := (s.hl l).cap }) else s
  | none => s

theorem State.linkWakes_facts (s : State) (o : Option Nat) (n : Nat) :
    (s.linkWakes o).lane n = s.lane n ∧ s.out <:+ (s.linkWakes o).out := by
  cases o with
  | none => exact ⟨rfl, List.suffix_rfl⟩
  | some l =>
    unfold State.linkWakes
    dsimp only
    split
    · rw [State.lane_setHl, State.setHl_out]
      exact ⟨State.linkStart_lane .., State.linkStart_suffix ..⟩
    · exact ⟨rfl, List.suffix_rfl⟩

/-- A wake that needs no training: the lane's own transmitter wakes, then its link once all lanes are in data mode. -/
theorem State.wakeBurst_wakes {s : State} {n : Nat} (hm : (s.lane n).mode = .eidle ∨ (s.lane n).mode = .wake)
    (hr : s.wakeRetrains n = false) :
    s.wakeBurst n = ((s.answersWake n).setLane n LaneSt.wakes).linkWakes (s.lane n).link := by
  unfold State.wakeBurst
  dsimp only
  rw [if_pos hm, if_neg (by rw [hr]; exact Bool.false_ne_true)]
  cases (s.lane n).link <;> rfl

/-- Settles O21: LOCK and its loss, a block start by its comma, and a wake by whether it trains. -/
theorem laneLock : Obligations.LaneLock := by
  refine ⟨?gained, ?lost, ?comma, ?wake⟩
  case gained =>
    intro s n commas hs h3 hall hm
    have hok := commas_lock h3 hall
    refine ⟨_, (State.go_run _ _ hs : execLockGained n commas s = _), ?_⟩
    rcases hm with hm | hm
    · rw [State.lockGained_search hok hm, State.laneEvt_lane, State.lane_setLane_self]
      exact ⟨State.laneEvt_bit _ _ 1 (by decide), fun _ => ⟨rfl, rfl, rfl⟩, fun c => absurd (hm.symm.trans c) (by decide)⟩
    · rw [State.lockGained_training hok hm]
      exact ⟨State.laneEvt_bit _ _ 1 (by decide), fun c => absurd (hm.symm.trans c) (by decide), fun _ => State.laneEvt_link ..⟩
  case lost =>
    intro s n hs hm h4
    refine ⟨_, (State.go_run _ _ hs : execLockLost n s = _), ?_⟩
    rw [State.lockLost_searches (LaneSt.inData_of hm) h4, State.laneEvt_lane, State.spareLoses_lane, State.lane_setLane_self]
    exact ⟨rfl, rfl, State.laneEvt_bit _ _ 2 (by decide)⟩
  case comma =>
    intro s n levels snr hs hm hspare hw
    have hd := LaneSt.inData_of (Or.inl hm)
    refine ⟨_, (State.go_run _ _ hs : execAlignmentComma n levels snr s = _), ?_⟩
    cases hc : classifyComma levels with
    | none =>
      have hlane : (s.setLane n LaneSt.missed).lane n = (s.lane n).missed := State.lane_setLane_self ..
      obtain ⟨low, high, b, losing, hstart⟩ := (s.setLane n LaneSt.missed).blockWith_normal snr hw (by rw [hlane]; exact hspare)
        (by rw [hlane]; rfl)
      rw [State.alignmentComma_missed snr hd hc, hstart, hlane]
      exact ⟨rfl, rfl, fun _ => ⟨rfl, hm⟩, nofun, nofun⟩
    | some v =>
      have hlane : (s.setLane n (fun q => q.opened v s.time.now)).lane n = (s.lane n).opened v s.time.now := State.lane_setLane_self ..
      cases v with
      | idle =>
        rw [State.alignmentComma_idle snr hd hc hspare]
        exact ⟨rfl, rfl, nofun, fun _ => ⟨rfl, rfl, rfl⟩, nofun⟩
      | normal =>
        obtain ⟨low, high, b, losing, hstart⟩ := (s.setLane n (fun q => q.opened .normal s.time.now)).blockWith_normal snr hw
          (by rw [hlane]; exact hspare) (by rw [hlane]; rfl)
        rw [State.alignmentComma_opens snr hd hc (by decide), hstart, hlane]
        exact ⟨rfl, rfl, nofun, nofun, fun _ => ⟨rfl, hm, rfl, rfl⟩⟩
      | swap =>
        obtain ⟨hrx, hcw⟩ := (s.setLane n (fun q => q.opened .swap s.time.now)).blockWith_place snr .swap hw
          (by rw [hlane]; exact hspare) (by rw [hlane]; rfl)
        rw [State.alignmentComma_opens snr hd hc (by decide), hrx, hcw, hlane]
        exact ⟨rfl, rfl, nofun, nofun, nofun⟩
  case wake =>
    intro s n hs hm
    refine ⟨_, (State.go_run _ _ hs : execWakeBurst n s = _), fun hr => ?_, fun hr => ?_⟩
    · rw [State.wakeBurst_retrains hm hr, State.startTraining_lane]
      exact ⟨rfl, rfl⟩
    · rw [State.wakeBurst_wakes hm hr]
      obtain ⟨hlane, hout⟩ := ((s.answersWake n).setLane n LaneSt.wakes).linkWakes_facts (s.lane n).link n
      rw [hlane, State.lane_setLane_self]
      refine ⟨rfl, rfl, rfl, fun he => sent_of hout ?_⟩
      show .lane n .wakeBurst ∈ (s.answersWake n).out
      unfold State.answersWake
      rw [if_pos he]
      exact List.mem_cons_self ..

end Sys2Proof.Machine

/-! SUPPORT. What lane-management messages act on, and the end of a swap with what waited for it (R144, R148, R159). -/

namespace Sys2Proof.Machine

/-! ### A message that acts -/

/-- The state `u` in which a message acts that `s` receives on link `l` for the first time: it has left the link's queue, and its
number is the link's last one (R159). -/
structure State.Hears (s u : State) (l seq : Nat) : Prop where
  links : ∃ x, u = { s with link := { s.link with links := x } }
  hl : ∃ mrx, u.hl l = { s.hl l with mrx := mrx, lastSeq := some seq }

theorem State.onMgmt_hears {s : State} {n l : Nat} {m : LaneMsg} (h : (s.lane n).link = some l) (hq : (s.hl l).lastSeq ≠ some m.seq) :
    ∃ u, s.Hears u l m.seq ∧ ∀ f, s.onMgmt n m f = f l u := by
  unfold State.onMgmt
  rw [h]
  by_cases hhead : (s.hl l).mrx.head? = some m
  · refine ⟨(s.setHl l (fun q => { q with mrx := q.mrx.drop 1 })).setHl l (fun q => { q with lastSeq := some m.seq }), ⟨⟨_, rfl⟩,
      (s.hl l).mrx.drop 1, ?_⟩, fun f => ?_⟩
    · exact (State.hl_setHl_self ..).trans (congrArg (fun q : LinkSt => { q with lastSeq := some m.seq }) (State.hl_setHl_self ..))
    · dsimp only
      rw [if_pos hhead, if_neg hq]
  · refine ⟨s.setHl l (fun q => { q with lastSeq := some m.seq }), ⟨⟨_, rfl⟩, (s.hl l).mrx, State.hl_setHl_self ..⟩,
      fun f => ?_⟩
    dsimp only
    rw [if_neg hhead, if_neg hq]

section Hears
variable {s u : State} {l seq : Nat} (h : s.Hears u l seq)
include h

theorem State.Hears.out : u.out = s.out := by
  obtain ⟨x, rfl⟩ := h.links
  rfl

theorem State.Hears.time : u.time = s.time := by
  obtain ⟨x, rfl⟩ := h.links
  rfl

theorem State.Hears.cur : u.cur = s.cur := by
  obtain ⟨x, rfl⟩ := h.links
  rfl

theorem State.Hears.rings : u.rings = s.rings := by
  obtain ⟨x, rfl⟩ := h.links
  rfl

theorem State.Hears.lanes : u.link.lanes = s.link.lanes := by
  obtain ⟨x, rfl⟩ := h.links
  rfl

theorem State.Hears.swaps : u.link.swaps = s.link.swaps := by
  obtain ⟨x, rfl⟩ := h.links
  rfl

theorem State.Hears.lane (n : Nat) : u.lane n = s.lane n := State.lane_lanes h.lanes n

theorem State.Hears.swapOf (p : Nat) : u.swapOf p = s.swapOf p := by
  obtain ⟨x, rfl⟩ := h.links
  rfl

theorem State.Hears.spareNow (p : Nat) : u.spareNow p = s.spareNow p := by
  obtain ⟨x, rfl⟩ := h.links
  rfl

theorem State.Hears.carrier (k j : Nat) : u.carrier k j = s.carrier k j := by
  obtain ⟨x, rfl⟩ := h.links
  rfl

theorem State.Hears.spareServes (n : Nat) : u.spareServes n = s.spareServes n := by
  obtain ⟨x, rfl⟩ := h.links
  rfl

theorem State.Hears.linkLanes (k : Nat) : u.linkLanes k = s.linkLanes k := by
  obtain ⟨x, rfl⟩ := h.links
  rfl

theorem State.Hears.msgSeq : (u.hl l).msgSeq = (s.hl l).msgSeq := by
  obtain ⟨mrx, hhl⟩ := h.hl
  rw [hhl]

theorem State.Hears.blockIn2us : u.blockIn2us l = s.blockIn2us l := by
  obtain ⟨mrx, hhl⟩ := h.hl
  obtain ⟨x, rfl⟩ := h.links
  exact s.blockIn2us_mgmt l seq x mrx hhl

end Hears

/-! ### The end of a swap -/

/-- Asking for electrical idle changes of the lanes and links only the link's record. -/
theorem State.eidleEnter_link (s : State) (l : Nat) : ∃ x, (s.eidleEnter l).link = { s.link with links := x } := by
  unfold State.eidleEnter
  dsimp only
  repeat' split
  all_goals exact ⟨_, rfl⟩

/-- The electrical idle of the link of a swap's spare, where it waited for the swap's end (R148). -/
def State.eidleWaited (s : State) (n : Nat) : State :=
  match (s.lane n).link with
  | some l => if (s.hl l).eidleReq then s.eidleEnter l else s
  | none => s

theorem State.eidleWaited_link (s : State) (n : Nat) : ∃ x, (s.eidleWaited n).link = { s.link with links := x } := by
  unfold State.eidleWaited
  split
  · split
    · exact s.eidleEnter_link _
    · exact ⟨s.link.links, rfl⟩
  · exact ⟨s.link.links, rfl⟩

theorem State.eidleWaited_keeps (s : State) (n : Nat) : Keeps 262272 s (s.eidleWaited n) := by
  unfold State.eidleWaited
  split
  · exact .ite (State.eidleEnter_keeps ..) (.refl _ _)
  · exact .refl _ _

/-- A RETRAIN that waited for the end of a swap (R148). -/
def State.retrainWaited (s : State) (n : Nat) : State := if (s.lane n).retrainReq then s.startTraining n else s

theorem State.swapOver_eq (s : State) (w : Swap) :
    s.swapOver w = ((s.retrainWaited w.lane).retrainWaited w.spare).eidleWaited w.spare := rfl

/-- An event bit of any lane that is set stays set when a lane has an event. -/
theorem State.laneEvt_bit_of {s : State} {k b : Nat} (h : bit (s.reg Reg.LANE_EVENTS k) b = true) (n : Nat) (bits : List Nat) :
    bit ((s.laneEvt n bits).reg Reg.LANE_EVENTS k) b = true := by
  have hset : bit ((s.orReg Reg.LANE_EVENTS n (bitsOf bits)).reg Reg.LANE_EVENTS k) b = true := by
    unfold State.orReg
    by_cases e : k = n
    · rw [e, State.reg_setReg_self _ _ _ _ _ (by decide), bit_or, ← e, h]
      rfl
    · rw [State.reg_setReg_ne _ _ _ _ _ _ _ _ (by decide)
        (Or.inr (by simp only [RegRow.addr, Reg.LANE_EVENTS]; omega))]
      exact h
  unfold State.laneEvt
  dsimp only
  split
  · exact hset
  · rw [(State.post_postSame ..).reg Reg.LANE_EVENTS k 0 (quiet_win _ _ _ (by decide) (by decide) (by decide))]
    exact hset

/-- An event bit of any lane that is set stays set when a lane starts training. -/
theorem State.startTraining_bit_of {s : State} {k b : Nat} (h : bit (s.reg Reg.LANE_EVENTS k) b = true) (n : Nat) :
    bit ((s.startTraining n).reg Reg.LANE_EVENTS k) b = true := by
  have hlink : ∀ (t : State) (l : Nat) (m : LinkMode), (t.setLinkMode l m).reg Reg.LANE_EVENTS k = t.reg Reg.LANE_EVENTS k :=
    fun t l m => State.setLinkMode_reg _ _ _ _ _ _ (quiet_win _ _ _ (by decide) (by decide) (by decide))
  unfold State.startTraining
  dsimp only
  rw [show ∀ (t : State) (o : Out), (t.emit o).reg Reg.LANE_EVENTS k = t.reg Reg.LANE_EVENTS k from fun _ _ => rfl]
  generalize hv : s.setLane n _ = v
  have hstart : bit (v.reg Reg.LANE_EVENTS k) b = true := by
    rw [← hv]
    exact h
  generalize he : (if ((s.lane n).inData || (s.lane n).mode = .search || (s.lane n).mode = .wake || (s.lane n).mode = .eidle) = true
    then v.laneEvt n [5] else v) = e
  have hevt : bit (e.reg Reg.LANE_EVENTS k) b = true := by
    rw [← he]
    split
    · exact State.laneEvt_bit_of hstart n [5]
    · exact hstart
  generalize hx : (if (s.lane n).spare = true then e.setSpareNow (lanePort n) (laneInPort n) else e) = x
  have hspare : bit (x.reg Reg.LANE_EVENTS k) b = true := by
    rw [← hx]
    split <;> exact hevt
  split
  · split
    · rw [hlink]
      exact hspare
    · exact hspare
  · exact hspare

theorem State.retrainWaited_bit_of {s : State} {k b : Nat} (h : bit (s.reg Reg.LANE_EVENTS k) b = true) (n : Nat) :
    bit ((s.retrainWaited n).reg Reg.LANE_EVENTS k) b = true := by
  unfold State.retrainWaited
  split
  · exact State.startTraining_bit_of h n
  · exact h

theorem State.swapOver_bit_of {s : State} {k b : Nat} (h : bit (s.reg Reg.LANE_EVENTS k) b = true) (w : Swap) :
    bit ((s.swapOver w).reg Reg.LANE_EVENTS k) b = true := by
  rw [State.swapOver_eq]
  unfold State.reg
  rw [(State.eidleWaited_keeps ..).same .cur rfl]
  exact State.retrainWaited_bit_of (State.retrainWaited_bit_of h w.lane) w.spare

theorem State.retrainWaited_swapOf (s : State) (n p : Nat) : (s.retrainWaited n).swapOf p = s.swapOf p := by
  unfold State.retrainWaited
  split
  · exact State.startTraining_swapOf ..
  · rfl

theorem State.swapOver_swapOf (s : State) (w : Swap) (p : Nat) : (s.swapOver w).swapOf p = s.swapOf p := by
  rw [State.swapOver_eq]
  obtain ⟨x, hx⟩ := ((s.retrainWaited w.lane).retrainWaited w.spare).eidleWaited_link w.spare
  rw [← s.retrainWaited_swapOf w.lane p, ← (s.retrainWaited w.lane).retrainWaited_swapOf w.spare p]
  unfold State.swapOf
  rw [hx]

theorem State.retrainWaited_none {s : State} {n : Nat} (h : (s.lane n).retrainReq = false) : s.retrainWaited n = s :=
  if_neg (by rw [h]; exact Bool.false_ne_true)

/-- With no RETRAIN waiting, the end of a swap leaves every lane. -/
theorem State.swapOver_lanes {s : State} {w : Swap} (hl : (s.lane w.lane).retrainReq = false)
    (hs : (s.lane w.spare).retrainReq = false) : (s.swapOver w).link.lanes = s.link.lanes := by
  rw [State.swapOver_eq, State.retrainWaited_none hl, State.retrainWaited_none hs]
  obtain ⟨x, hx⟩ := s.eidleWaited_link w.spare
  rw [hx]

/-- The end of a swap leaves its lane as it is, where no RETRAIN waits for that. -/
theorem State.swapOver_lane {s : State} {w : Swap} (hl : (s.lane w.lane).retrainReq = false) (hne : w.lane ≠ w.spare) :
    (s.swapOver w).lane w.lane = s.lane w.lane := by
  rw [State.swapOver_eq, State.retrainWaited_none hl]
  obtain ⟨x, hx⟩ := (s.retrainWaited w.spare).eidleWaited_link w.spare
  rw [State.lane_lanes (s := s.retrainWaited w.spare) (by rw [hx])]
  unfold State.retrainWaited
  split
  · exact State.startTraining_lane_ne _ _ _ hne
  · rfl

/-- The end of a swap leaves every lane's register but LANE_EVENTS. -/
theorem State.swapOver_reg (s : State) (w : Swap) (q : RegRow) (k l : Nat) (h : Quiet q k l)
    (hw : ∀ n, q.win ≠ 4 ∨ q.addr k l ≠ Reg.LANE_EVENTS.addr n) : (s.swapOver w).reg q k l = s.reg q k l := by
  have hwait : ∀ (t : State) (n : Nat), (t.retrainWaited n).reg q k l = t.reg q k l := fun t n => by
    unfold State.retrainWaited
    split
    · exact State.startTraining_reg _ _ _ _ _ h (hw n)
    · rfl
  rw [State.swapOver_eq, ← hwait s w.lane, ← hwait (s.retrainWaited w.lane) w.spare]
  unfold State.reg
  rw [(State.eidleWaited_keeps ..).same .cur rfl]

end Sys2Proof.Machine

/-! SUPPORT. The messages of a lane swap: LANE_SWAP, proposals, agreements, refusals and requests of the head (R142 to R145, R159). -/

namespace Sys2Proof.Machine

/-! ### LANE_SWAP -/

theorem State.proposeSwap_sends {s : State} {n sp l : Nat} (k : Option Ticket) (hs : s.spareNow (lanePort n) = some sp)
    (hl : (s.lane n).link = some l) :
    s.proposeSwap n k = (s.setSwap (lanePort n) (some {
      lane := n, spare := sp, logical := (s.lane n).logical, ticket := k, at_ := s.time.clk })).sendMgmt l n
        { opcode := 1, subject := (s.lane n).logical } := by
  unfold State.proposeSwap
  rw [hs, hl]

theorem exec_laneSwap {s : State} {d : Desc} {sp l : Nat} (h : s.takesCmd d) (hc : State.laneSwapCheck d (s.take d) = none)
    (hs : s.spareNow (lanePort (tIndex d)) = some sp) (hl : (s.lane (tIndex d)).link = some l) :
    exec (.laneSwap d) s = .next (((s.take d).setSwap (lanePort (tIndex d)) (some {
      lane := tIndex d, spare := sp, logical := (s.lane (tIndex d)).logical,
      ticket := some { ticketOf d 0x42 with gen := (s.ring d.ring).gen }, at_ := s.time.clk })).sendMgmt l (tIndex d)
        { opcode := 1, subject := (s.lane (tIndex d)).logical }) := by
  obtain ⟨hrun, htake, hknown⟩ := h
  refine (State.go_run _ _ hrun : execLaneSwap d s = _).trans (congrArg _ ?_)
  rw [State.runCmd_run _ _ _ _ _ htake hknown hc]
  exact State.proposeSwap_sends (s := s.take d) _ hs hl

/-! ### Messages of the head -/

theorem State.emit_swapOf (s : State) (o : Out) (p : Nat) : (s.emit o).swapOf p = s.swapOf p := rfl

section Message
variable {s : State} {n l : Nat} {m : LaneMsg} (hrun : s.svc.stopped = none) (hl : (s.lane n).link = some l)
  (hq : (s.hl l).lastSeq ≠ some m.seq)
include hrun hl hq

theorem exec_swapPropose_agrees {a sp : Nat} (ha : s.carrier l m.subject = some a) (hw : s.swapOf (lanePort n) = none)
    (hs : s.spareNow (lanePort n) = some sp) (hr : (s.lane sp).spareReady = true) (hv : s.spareServes a = true) :
    ∃ u, s.Hears u l m.seq ∧ exec (.swapPropose n m) s = .next (((u.setSwap (lanePort n) (some {
      lane := a, spare := sp, logical := m.subject, txBlock := some (s.blockIn2us l) })).sendMgmt l n
        { opcode := 2, subject := m.subject }).emit (.lane sp (.takeOver m.subject (s.blockIn2us l) true))) := by
  obtain ⟨u, hu, hact⟩ := State.onMgmt_hears hl hq
  refine ⟨u, hu, (State.go_run _ _ hrun : execSwapPropose n m s = _).trans (congrArg _ ((hact _).trans ?_))⟩
  dsimp only
  rw [hu.carrier, ha]
  dsimp only
  rw [hu.swapOf, hw, hu.spareNow, hs]
  dsimp only
  rw [hu.lane, hr, hu.spareServes, hv, hu.blockIn2us]
  rfl

theorem exec_swapPropose_busy {a : Nat} (ha : s.carrier l m.subject = some a) (hw : (s.swapOf (lanePort n)).isSome = true) :
    ∃ u, s.Hears u l m.seq ∧ exec (.swapPropose n m) s = .next (u.sendMgmt l n { opcode := 3, subject := m.subject, arg := 2 }) := by
  obtain ⟨u, hu, hact⟩ := State.onMgmt_hears hl hq
  refine ⟨u, hu, (State.go_run _ _ hrun : execSwapPropose n m s = _).trans (congrArg _ ((hact _).trans ?_))⟩
  dsimp only
  rw [hu.carrier, ha]
  dsimp only
  rw [hu.swapOf, if_pos hw]

theorem exec_swapAgree {w : Swap} (hw : s.swapOf (lanePort n) = some w) (hk : w.logical = m.subject) (hb : w.txBlock = none) :
    ∃ u, s.Hears u l m.seq ∧ exec (.swapAgree n m) s = .next ((u.setSwap (lanePort n) (some { w with
      txBlock := some (s.blockIn2us l) })).emit (.lane w.spare (.takeOver w.logical (s.blockIn2us l) true))) := by
  obtain ⟨u, hu, hact⟩ := State.onMgmt_hears hl hq
  refine ⟨u, hu, (State.go_run _ _ hrun : execSwapAgree n m s = _).trans (congrArg _ ((hact _).trans ?_))⟩
  dsimp only
  rw [hu.swapOf, hw]
  dsimp only
  rw [if_pos ⟨hk, hb⟩, hu.blockIn2us]

theorem exec_swapRefuse {w : Swap} (hw : s.swapOf (lanePort n) = some w) (hk : w.logical = m.subject) (hb : w.txBlock = none) :
    ∃ u, s.Hears u l m.seq ∧ exec (.swapRefuse n m) s = .next ((((u.setSwap (lanePort n) none).laneEvt w.lane [9]).completeOpt
      w.ticket stAborted).swapOver w) := by
  obtain ⟨u, hu, hact⟩ := State.onMgmt_hears hl hq
  refine ⟨u, hu, (State.go_run _ _ hrun : execSwapRefuse n m s = _).trans (congrArg _ ((hact _).trans ?_))⟩
  dsimp only
  rw [hu.swapOf, hw]
  exact if_pos ⟨hk, hb⟩

theorem exec_swapRequest {a sp : Nat} (ha : s.carrier l m.subject = some a) (hw : s.swapOf (lanePort n) = none)
    (hs : s.spareNow (lanePort n) = some sp) (hv : s.spareServes a = true) (hm : (s.lane sp).mode = .spareRun) :
    ∃ u, s.Hears u l m.seq ∧ exec (.swapRequest n m) s = .next ((u.setSwap (lanePort n) (some {
      lane := a, spare := sp, logical := m.subject, txBlock := some (s.blockIn2us l) })).emit
        (.lane sp (.takeOver m.subject (s.blockIn2us l) false))) := by
  obtain ⟨u, hu, hact⟩ := State.onMgmt_hears hl hq
  refine ⟨u, hu, (State.go_run _ _ hrun : execSwapRequest n m s = _).trans (congrArg _ ((hact _).trans ?_))⟩
  dsimp only
  rw [hu.carrier, ha, hu.spareNow, hs, hu.swapOf, hw]
  dsimp only
  rw [hu.spareServes, hv, hu.lane, hm, hu.blockIn2us]
  rfl

end Message

/-! ### A swap that is given up -/

/-- A swap of a port is given up: SWAP_ABORT of its lane, and the command that asked for it ends (R144, R148). -/
def State.swapGivenUp (s : State) (p : Nat) (w : Swap) : State := ((s.setSwap p none).laneEvt w.lane [9]).completeOpt w.ticket stAborted

theorem State.swapGivenUp_link (s : State) (p : Nat) (w : Swap) : (s.swapGivenUp p w).link = (s.setSwap p none).link :=
  (State.completeOpt_link ..).trans (State.laneEvt_link ..)

/-- A swap that no command asked for ends with the event; one that a command asked for completes it. -/
theorem State.swapGivenUp_ends (s : State) (p : Nat) (w : Swap) :
    (w.ticket = none → bit ((s.swapGivenUp p w).reg Reg.LANE_EVENTS w.lane) 9 = true)
    ∧ ∀ k, w.ticket = some k → (s.ring k.ring).gen = k.gen →
        ((s.swapGivenUp p w).ring k.ring).outstanding = (s.ring k.ring).outstanding - 1 := by
  unfold State.swapGivenUp
  refine ⟨fun hn => ?_, fun k hk hg => ?_⟩
  · rw [hn]
    exact State.laneEvt_bit _ _ 9 (by decide)
  · have hfree : RingSame s (s.setSwap p none) := RingSame.of rfl
    have hsame := hfree.trans (((s.setSwap p none).laneEvt_keeps w.lane [9]).ringSame rfl)
    obtain ⟨-, -, -, -, hout, -, -, -, hgen⟩ := hsame.same k.ring
    rw [hk]
    exact (State.complete_outstanding _ k _ _ _ (hgen.trans hg)).trans (by rw [hout])

/-- Settles O22: each message by the equation of its case, and what a swap that is given up leaves. That a second proposal is refused
with reason 2, and that copies are known by MSG_SEQ, is log entry 114. -/
theorem laneSwaps : Obligations.LaneSwaps := by
  refine ⟨?command, ?proposed, ?busy, ?agreed, ?refused, ?requested⟩
  case command =>
    intro s d sp l h hc hs hl
    refine ⟨_, _, exec_laneSwap h hc hs hl, rfl, ?_, rfl, State.owed_of s _ d (RingSame.of rfl)⟩
    rw [State.sendMgmt_swapOf, State.setSwap_swapOf]
  case proposed =>
    intro s n l a sp m hrun hl hq ha hw hs hr hv
    obtain ⟨u, hu, hexec⟩ := exec_swapPropose_agrees hrun hl hq ha hw hs hr hv
    refine ⟨_, hexec, ?_, ?_⟩
    · rw [State.emit_swapOf, State.sendMgmt_swapOf, State.setSwap_swapOf]
    · rw [State.emit_out, State.sendMgmt_out, State.setSwap_hl, hu.msgSeq, State.setSwap_out, hu.out]
  case busy =>
    intro s n l a m hrun hl hq ha hw
    obtain ⟨u, hu, hexec⟩ := exec_swapPropose_busy hrun hl hq ha hw
    refine ⟨_, hexec, hu.swaps, ?_⟩
    rw [State.sendMgmt_out, hu.msgSeq, hu.out]
  case agreed =>
    intro s n l m w hrun hl hq hw hk hb
    obtain ⟨u, hu, hexec⟩ := exec_swapAgree hrun hl hq hw hk hb
    refine ⟨_, hexec, (State.emit_swapOf ..).trans (State.setSwap_swapOf ..), ?_⟩
    rw [State.emit_out, State.setSwap_out, hu.out]
  case refused =>
    intro s n l m w hrun hl hq hw hk hb
    obtain ⟨u, hu, hexec⟩ := exec_swapRefuse hrun hl hq hw hk hb
    have hlink := u.swapGivenUp_link (lanePort n) w
    have hlane : ∀ k, (u.swapGivenUp (lanePort n) w).lane k = s.lane k := fun k => (State.lane_of hlink k).trans (hu.lane k)
    obtain ⟨hevt, hdone⟩ := u.swapGivenUp_ends (lanePort n) w
    refine ⟨(u.swapGivenUp (lanePort n) w).swapOver w, hexec, ?_, fun h1 h2 => ?_, fun hn => ?_, fun k hk hg => ?_⟩
    · rw [State.swapOver_swapOf, State.swapOf_of hlink]
      exact State.setSwap_swapOf ..
    · rw [State.swapOver_lanes ((congrArg LaneSt.retrainReq (hlane _)).trans h1) ((congrArg LaneSt.retrainReq (hlane _)).trans h2), hlink]
      exact hu.lanes
    · exact State.swapOver_bit_of (hevt hn) w
    · have hring : u.ring k.ring = s.ring k.ring := by
        unfold State.ring
        rw [hu.rings]
      obtain ⟨-, -, -, -, hout, -⟩ := ((u.swapGivenUp (lanePort n) w).swapOver_keeps w).ringSame rfl |>.same k.ring
      rw [hout, hdone k hk (by rw [hring]; exact hg), hring]
  case requested =>
    intro s n l a sp m hrun hl hq ha hw hs hv hm
    obtain ⟨u, hu, hexec⟩ := exec_swapRequest hrun hl hq ha hw hs hv hm
    refine ⟨_, hexec, (State.emit_swapOf ..).trans (State.setSwap_swapOf ..), ?_⟩
    rw [State.emit_out, State.setSwap_out, hu.out]

end Sys2Proof.Machine

/-! SUPPORT. Answers to lane messages, the lock of the PRBS checker, and error injection (R136, R150, R151, R159, R161). -/

namespace Sys2Proof.Machine

/-! ### Answers of the head -/

/-- The restripe of a link to a set is agreed: the block from which this end sends on it, and the set that the receiver follows
(R161). -/
def State.restripeAgreed (s : State) (l set : Nat) : State :=
  s.setHl l (fun q => { q with
    restripe := none, restripeBlock := some (s.blockIn2us l), restripeGo := some (s.time.clk, set),
    delayValid := if set.testBit 0 then q.delayValid else false,
    delays := if set.testBit 0 then q.delays else [],
    delay := if set.testBit 0 then q.delay else
      match s.carrier l 0, (setBits set 8).head?.bind (fun k => s.carrier l k) with
      | some a, some b => q.delay + s.commaDiff a b
      | _, _ => q.delay })

/-- A transmitter ends its block with an IDLE comma and goes to electrical idle (R136). -/
def State.txIdles (s : State) (a : Nat) : State :=
  ((s.emit (.lane a (.comma .idle))).emit (.lane a .electricalIdle)).setLane a (fun q => { q with txIdleAt := some s.time.clk })

theorem State.txIdles_out (s : State) (a : Nat) : (s.txIdles a).out = .lane a .electricalIdle :: .lane a (.comma .idle) :: s.out := rfl

/-- Transmitters that go idle: each sends both, and no link changes. -/
theorem State.txIdles_foldl (xs : List Nat) (s : State) :
    (∀ l, (xs.foldl State.txIdles s).hl l = s.hl l) ∧ s.out <:+ (xs.foldl State.txIdles s).out
    ∧ ∀ a ∈ xs, .lane a (.comma .idle) ∈ (xs.foldl State.txIdles s).out
      ∧ .lane a .electricalIdle ∈ (xs.foldl State.txIdles s).out := by
  induction xs generalizing s with
  | nil => exact ⟨fun _ => rfl, List.suffix_rfl, nofun⟩
  | cons x xs ih =>
    obtain ⟨hhl, hout, hsent⟩ := ih (s.txIdles x)
    rw [State.txIdles_out] at hout
    refine ⟨hhl, ((List.suffix_cons ..).trans (List.suffix_cons ..)).trans hout, fun a ha => ?_⟩
    rcases List.mem_cons.mp ha with rfl | ha
    · exact ⟨hout.subset (by simp), hout.subset (by simp)⟩
    · exact hsent a ha

section Message
variable {s : State} {n l : Nat} {m : LaneMsg} (hrun : s.svc.stopped = none) (hl : (s.lane n).link = some l)
  (hq : (s.hl l).lastSeq ≠ some m.seq)
include hrun hl hq

theorem exec_restripeAck {set : Nat} (hr : (s.hl l).restripe = some set) :
    ∃ u, s.Hears u l m.seq ∧ exec (.restripeAck n m) s = .next (u.restripeAgreed l set) := by
  obtain ⟨u, hu, hact⟩ := State.onMgmt_hears hl hq
  refine ⟨u, hu, (State.go_run _ _ hrun : execRestripeAck n m s = _).trans (congrArg _ ((hact _).trans ?_))⟩
  obtain ⟨mrx, hhl⟩ := hu.hl
  have hset : (u.hl l).restripe = some set := by rw [hhl]; exact hr
  dsimp only
  rw [hset]
  rfl

theorem exec_eidleAck (he : (s.hl l).eidleReq = true) :
    ∃ u, s.Hears u l m.seq ∧ exec (.eidleAck n m) s = .next ((s.linkLanes l).foldl State.txIdles
      (u.setHl l (fun q => { q with eidleReq := false }))) := by
  obtain ⟨u, hu, hact⟩ := State.onMgmt_hears hl hq
  refine ⟨u, hu, (State.go_run _ _ hrun : execEidleAck n m s = _).trans (congrArg _ ((hact _).trans ?_))⟩
  obtain ⟨mrx, hhl⟩ := hu.hl
  rw [← hu.linkLanes]
  exact if_pos (show (u.hl l).eidleReq = true by rw [hhl]; exact he)

theorem exec_loopbackAck {a : Nat} (ha : s.carrier l m.subject = some a) (hd : (s.lane a).drained = true) :
    ∃ u, s.Hears u l m.seq ∧ exec (.loopbackAck n m) s = .next (u.setLane a (fun q => { q with mode := .loopback })) := by
  obtain ⟨u, hu, hact⟩ := State.onMgmt_hears hl hq
  refine ⟨u, hu, (State.go_run _ _ hrun : execLoopbackAck n m s = _).trans (congrArg _ ((hact _).trans ?_))⟩
  rw [hu.carrier, ha]
  exact if_pos (show (u.lane a).drained = true by rw [hu.lane]; exact hd)

end Message

/-! ### The PRBS checker -/

theorem State.prbsLock_locks {s : State} {n : Nat} {bits : List Bool} (hon : bit (s.reg Reg.LANE_PRBS_CTRL n) 2 = true)
    (hfree : bit (s.reg Reg.LANE_PRBS_CTRL n) 3 = false) (hlen : 159 ≤ bits.length)
    (hclean : fld (s.reg Reg.LANE_PRBS_CTRL n) 11 10 = 3 ∨
      (prbsErrors (fld (s.reg Reg.LANE_PRBS_CTRL n) 11 10) (bits.take 31).reverse (bits.drop 31)).1 = 0) :
    s.prbsLock n bits = (s.setEvt Reg.LANE_PRBS_CTRL n 3).setLane n (fun q => { q with prbs := (bits.reverse).take 31 }) := by
  unfold State.prbsLock
  dsimp only
  rw [hon, hfree, decide_eq_true hlen, ← Bool.decide_or, decide_eq_true hclean]
  rfl

/-! ### Error injection -/

/-- An injection lasts until it is stopped: its parameters, and GO reads 1 (R151). -/
def State.injectionRuns (s : State) (n : Nat) (i : Inject) : State :=
  if i.kind = 3 then (s.setLane n (fun q => { q with inject := some i })).setEvt Reg.LANE_INJ_CTRL n 0 else s

/-- The injection that a word names (R151). -/
def injectOf (v : Word) : Inject := { kind := fld v 3 2, point := fld v 5 4, len := fld v 31 24, exp := fld v 23 20 }

theorem State.injectionGo_sends {s : State} {n : Nat} {v : Word}
    (hm : (s.lane n).mode = .locked ∨ (s.lane n).mode = .spareRun ∨ (s.lane n).mode = .prbsTest)
    (hv : injectOf (s.reg Reg.LANE_INJ_CTRL n) = injectOf v) :
    s.injectionGo n = (s.emit (.lane n (.inject (fld v 3 2) (fld v 5 4) (fld v 31 24) (fld v 23 20)))).injectionRuns n (injectOf v) := by
  have hruns : ((s.lane n).inData || (s.lane n).mode = .prbsTest) = true := by
    unfold LaneSt.inData
    rcases hm with h | h | h <;> rw [h] <;> rfl
  have hgo : s.injectionGo n = if ((s.lane n).inData || (s.lane n).mode = .prbsTest) = true then
      (s.emit (.lane n (.inject (injectOf (s.reg Reg.LANE_INJ_CTRL n)).kind (injectOf (s.reg Reg.LANE_INJ_CTRL n)).point
        (injectOf (s.reg Reg.LANE_INJ_CTRL n)).len (injectOf (s.reg Reg.LANE_INJ_CTRL n)).exp))).injectionRuns n
          (injectOf (s.reg Reg.LANE_INJ_CTRL n)) else s := rfl
  rw [hgo, if_pos hruns, hv]
  rfl

/-- A field of the word that a write with GO or STOP stores: GO and STOP themselves lie outside it. -/
theorem injCtrl_field (c v x : Word) {hi lo : Nat} (hhi : hi < 32)
    (hm : (List.range 32).all (fun b => decide (b < lo) || decide (hi < b) || (bit Reg.LANE_INJ_CTRL.rwi b && !bit x b)) = true) :
    fld ((c &&& ~~~ Reg.LANE_INJ_CTRL.rwi) ||| ((v ||| x) &&& Reg.LANE_INJ_CTRL.rwi)) hi lo = fld v hi lo := by
  refine fld_congr fun b h1 h2 => ?_
  have hb := List.all_eq_true.mp hm b (List.mem_range.mpr (by omega))
  rw [decide_eq_false (by omega), decide_eq_false (by omega), Bool.false_or, Bool.false_or, Bool.and_eq_true, Bool.not_eq_true'] at hb
  obtain ⟨hrw, hx⟩ := hb
  rw [bit_or, bit_and, bit_and, bit_or, bit_not _ _ (by omega), hrw, hx]
  simp

/-- A write of GO alone to a lane that has its clock: its fields are stored, and the injection starts. -/
theorem State.rowWrite_injectionGo {s : State} {p n : Nat} {v : Word} (h : s.writable p Reg.LANE_INJ_CTRL n) (hon : s.laneOff n = false)
    (hstop : bit v 1 = false)
    (hm : (s.lane n).mode = .locked ∨ (s.lane n).mode = .spareRun ∨ (s.lane n).mode = .prbsTest) :
    ∃ u : State, s.rowWrite p Reg.LANE_INJ_CTRL n (v ||| 1)
      = (u.emit (.lane n (.inject (fld v 3 2) (fld v 5 4) (fld v 31 24) (fld v 23 20)))).injectionRuns n (injectOf v)
      ∧ u.out = s.out := by
  obtain ⟨w, hwrite⟩ := s.rowWrite_after p Reg.LANE_INJ_CTRL n (v ||| 1) h
  obtain ⟨c, hstore, hctrl, -⟩ := (s.afterAccess p w).storeBits_now Reg.LANE_INJ_CTRL n 0 (v ||| 1) rfl (by decide) rfl
  refine ⟨{ s.afterAccess p w with cur := c }, hwrite.trans ?_, rfl⟩
  show (s.afterAccess p w).laneInjCtrl p _ n (v ||| 1) = _
  unfold State.laneInjCtrl State.onLane
  dsimp only
  rw [hstore, show bit (v ||| 1) 0 = true from bit_or_pow v 0 (by decide),
    show bit (v ||| 1) 1 = false by rw [bit_or, hstop]; decide, Bool.true_or, if_pos rfl,
    show State.laneOff { s.afterAccess p w with cur := c } n = false from hon, if_neg Bool.false_ne_true, if_neg Bool.false_ne_true,
    if_pos rfl]
  refine State.injectionGo_sends hm ?_
  unfold injectOf
  rw [hctrl, injCtrl_field _ v 1 (by decide) (by decide), injCtrl_field _ v 1 (by decide) (by decide),
    injCtrl_field _ v 1 (by decide) (by decide), injCtrl_field _ v 1 (by decide) (by decide)]

/-- A write of STOP alone to a lane that has its clock and injects: its fields are stored, and the injection ends. -/
theorem State.rowWrite_injectionStop {s : State} {p n : Nat} {v : Word} (h : s.writable p Reg.LANE_INJ_CTRL n)
    (hon : s.laneOff n = false) (hgo : bit v 0 = false) (hi : (s.lane n).inject.isSome = true) :
    ∃ u : State, s.rowWrite p Reg.LANE_INJ_CTRL n (v ||| 2)
      = ((u.setLane n (fun q => { q with inject := none })).clrReg Reg.LANE_INJ_CTRL n 1).emit (.lane n .injectStop) ∧ u.out = s.out := by
  obtain ⟨w, hwrite⟩ := s.rowWrite_after p Reg.LANE_INJ_CTRL n (v ||| 2) h
  obtain ⟨c, hstore, -, -⟩ := (s.afterAccess p w).storeBits_now Reg.LANE_INJ_CTRL n 0 (v ||| 2) rfl (by decide) rfl
  refine ⟨{ s.afterAccess p w with cur := c }, hwrite.trans ?_, rfl⟩
  show (s.afterAccess p w).laneInjCtrl p _ n (v ||| 2) = _
  unfold State.laneInjCtrl State.onLane
  dsimp only
  rw [hstore, show bit (v ||| 2) 1 = true from bit_or_pow v 1 (by decide),
    show bit (v ||| 2) 0 = false by rw [bit_or, hgo]; decide, Bool.or_true, if_pos rfl,
    show State.laneOff { s.afterAccess p w with cur := c } n = false from hon, if_neg Bool.false_ne_true, if_pos rfl,
    if_neg Bool.false_ne_true]
  exact if_pos hi

/-- Settles O24: each answer by the equation of its case, the checker's lock, and each write by what it starts or stops. That the
checker locks on SSPRQ without comparing is log entry 59. -/
theorem laneManagement : Obligations.LaneManagement := by
  refine ⟨?restripe, ?eidle, ?loopback, ?prbs, ?injectGo, ?injectStop⟩
  case restripe =>
    intro s n l set m hrun hl hq hr
    obtain ⟨u, hu, hexec⟩ := exec_restripeAck hrun hl hq hr
    obtain ⟨mrx, hhl⟩ := hu.hl
    refine ⟨_, hexec, ?_⟩
    unfold State.restripeAgreed
    rw [State.hl_setHl_self, hu.blockIn2us, hu.time, hhl]
    exact ⟨rfl, rfl, rfl, rfl, hu.lanes⟩
  case eidle =>
    intro s n l m hrun hl hq he
    obtain ⟨u, hu, hexec⟩ := exec_eidleAck hrun hl hq he
    obtain ⟨hhl, -, hsent⟩ := State.txIdles_foldl (s.linkLanes l) (u.setHl l (fun q => { q with eidleReq := false }))
    refine ⟨_, hexec, ?_, hsent⟩
    rw [hhl, State.hl_setHl_self]
  case loopback =>
    intro s n l a m hrun hl hq ha hd
    obtain ⟨u, hu, hexec⟩ := exec_loopbackAck hrun hl hq ha hd
    refine ⟨_, hexec, ?_, hu.out⟩
    rw [State.lane_setLane_self]
  case prbs =>
    intro s n bits hrun hon hfree hlen hclean
    refine ⟨_, (State.go_run _ _ hrun : execPrbsCheckerLock n bits s = _), ?_⟩
    rw [State.prbsLock_locks hon hfree hlen hclean, State.lane_setLane_self]
    exact ⟨State.setEvt_bit s Reg.LANE_PRBS_CTRL n 3 (by decide) (by decide), rfl⟩
  case injectGo =>
    intro s p n v h hon hstop hm
    obtain ⟨u, hwrite, hout⟩ := State.rowWrite_injectionGo h hon hstop hm
    refine ⟨_, (State.go_run _ _ h.1 : execInjectionGo p n v s = _), ?_⟩
    rw [hwrite, ← hout]
    unfold State.injectionRuns
    refine ⟨?_, fun h3 => ?_⟩
    · split <;> rfl
    · rw [if_pos (show (injectOf v).kind = 3 from h3), State.setEvt_lane, State.lane_setLane_self]
      refine ⟨?_, State.setEvt_bit _ Reg.LANE_INJ_CTRL n 0 (by decide) (by decide)⟩
      unfold injectOf
      rw [h3]
  case injectStop =>
    intro s p n v h hon hgo hi
    obtain ⟨u, hwrite, hout⟩ := State.rowWrite_injectionStop h hon hgo hi
    refine ⟨_, (State.go_run _ _ h.1 : execInjectionStop p n v s = _), ?_⟩
    rw [hwrite, ← hout, State.emit_lane, State.clrReg_lane, State.lane_setLane_self]
    refine ⟨rfl, rfl, ?_⟩
    show bit ((State.clrReg _ Reg.LANE_INJ_CTRL n 1).reg Reg.LANE_INJ_CTRL n) 0 = false
    unfold State.clrReg
    rw [State.reg_setReg_self _ _ _ _ _ (by decide), bit_and, show bit (~~~ (1 : Word)) 0 = false by decide, Bool.and_false]

end Sys2Proof.Machine

/-! SUPPORT. Lanes that fail, the spare that takes over or the restripe that follows, and the end of a swap (R144 to R147, R161). -/

namespace Sys2Proof.Machine

/-! ### A lane fails -/

/-- The lane that carries a logical lane is found by what each lane says of its link, its logical lane and its role. -/
theorem State.carrier_congr {s t : State} (h : ∀ n, (t.lane n).link = (s.lane n).link ∧ (t.lane n).logical = (s.lane n).logical
    ∧ (t.lane n).spare = (s.lane n).spare) (l k : Nat) : t.carrier l k = s.carrier l k := by
  unfold State.carrier
  congr 1
  funext n
  obtain ⟨hlink, hlog, hspare⟩ := h n
  rw [hlink, hlog, hspare]

theorem State.carrier_logical {s : State} {l k a : Nat} (h : s.carrier l k = some a) : (s.lane a).logical = k := by
  have hfound := List.find?_some h
  rw [Bool.and_eq_true, Bool.and_eq_true, decide_eq_true_eq, decide_eq_true_eq] at hfound
  exact hfound.1.2

/-- A lane that has failed: its codewords are being lost, and it is no ready spare (R147). -/
def LaneSt.fallen (q : LaneSt) : LaneSt := { q with mode := .failed, losing := true, spareReady := false }

/-- A lane fails: its event, and the codewords that could not be corrected are counted as lost (R147). -/
def State.laneFails (s : State) (n : Nat) : State :=
  ((s.setLane n LaneSt.fallen).laneEvt n [7]).countN Reg.LANE_LOST_CW n (s.lane n).uncorr

theorem State.laneFails_link (s : State) (n : Nat) : (s.laneFails n).link = (s.setLane n LaneSt.fallen).link :=
  (State.countN_link ..).trans (State.laneEvt_link ..)

theorem State.laneFails_lane (s : State) (n : Nat) : (s.laneFails n).lane n = (s.lane n).fallen :=
  (State.lane_of (s.laneFails_link n) n).trans (State.lane_setLane_self ..)

theorem State.laneFails_lane_ne (s : State) {n k : Nat} (h : k ≠ n) : (s.laneFails n).lane k = s.lane k :=
  (State.lane_of (s.laneFails_link n) k).trans ((State.lane_setLane ..).trans (if_neg h))

/-- What a failure leaves of every lane. -/
theorem State.laneFails_rest (s : State) (n k : Nat) : ((s.laneFails n).lane k).link = (s.lane k).link
    ∧ ((s.laneFails n).lane k).logical = (s.lane k).logical ∧ ((s.laneFails n).lane k).spare = (s.lane k).spare := by
  by_cases e : k = n
  · rw [e, s.laneFails_lane n]
    exact ⟨rfl, rfl, rfl⟩
  · rw [s.laneFails_lane_ne e]
    exact ⟨rfl, rfl, rfl⟩

theorem State.laneFails_hl (s : State) (n l : Nat) : (s.laneFails n).hl l = s.hl l := State.hl_of (s.laneFails_link n) l

theorem State.laneFails_swapOf (s : State) (n p : Nat) : (s.laneFails n).swapOf p = s.swapOf p := State.swapOf_of (s.laneFails_link n) p

theorem State.laneFails_spareNow (s : State) (n p : Nat) : (s.laneFails n).spareNow p = s.spareNow p := by
  unfold State.spareNow
  rw [s.laneFails_link n]
  rfl

theorem State.laneFails_time (s : State) (n : Nat) : (s.laneFails n).time = s.time := (State.countN_time ..).trans (State.laneEvt_time ..)

theorem State.laneFails_cfg (s : State) (n : Nat) : (s.laneFails n).cfg = s.cfg := (State.countN_cfg ..).trans (State.laneEvt_cfg ..)

theorem State.laneFails_act (s : State) (n : Nat) (r : RegRow) (i j : Nat) : (s.laneFails n).act r i j = s.act r i j :=
  State.act_congr (s.laneFails_cfg n) r i j

theorem State.laneFails_blockIn2us (s : State) (n l : Nat) : (s.laneFails n).blockIn2us l = s.blockIn2us l := by
  unfold State.blockIn2us State.now16
  rw [s.laneFails_hl n l, s.laneFails_time n]

theorem State.laneFails_spareServes (s : State) (n a : Nat) : (s.laneFails n).spareServes a = s.spareServes a := by
  obtain ⟨hlink, hlog, hspare⟩ := s.laneFails_rest n a
  unfold State.spareServes State.spareLink State.actF
  rw [hlink, hlog, hspare, s.laneFails_act n]

theorem State.laneFails_bit (s : State) (n : Nat) : bit ((s.laneFails n).reg Reg.LANE_EVENTS n) 7 = true := by
  have hne : Reg.LANE_EVENTS.addr n ≠ Reg.LANE_LOST_CW.addr n := RegRow.addr_ne n rfl rfl (by decide)
  unfold State.laneFails State.countN
  rw [State.reg_setReg_ne _ _ _ _ _ _ _ _ (by decide) (Or.inr hne)]
  exact State.laneEvt_bit _ _ 7 (by decide)

/-- The lanes of a link that work without the logical lane of the lane that failed are those that did before. -/
theorem State.laneFails_remaining (s : State) (n l : Nat) :
    (s.laneFails n).remaining l (s.lane n).logical = s.remaining l (s.lane n).logical := by
  unfold State.remaining
  rw [s.laneFails_hl n l]
  congr 1
  refine List.filter_congr fun j _ => ?_
  by_cases hj : j = (s.lane n).logical
  · simp only [hj, ne_eq, not_true_eq_false, decide_false, Bool.false_and]
  · rw [State.carrier_congr (s.laneFails_rest n)]
    cases hc : s.carrier l j with
    | none => rfl
    | some a =>
      have hne : a ≠ n := fun e => hj ((State.carrier_logical hc).symm.trans (by rw [e]))
      dsimp only
      rw [s.laneFails_lane_ne hne]

/-- The spare of a port that can take a lane over at once: one in spare run (R147). -/
def State.spareRunning (s : State) (p : Nat) : Option Nat :=
  match s.spareNow p with
  | some x => if (s.lane x).mode = .spareRun then some x else none
  | none => none

theorem State.spareRunning_some {s : State} {p x : Nat} (hx : s.spareNow p = some x) (hm : (s.lane x).mode = .spareRun) :
    s.spareRunning p = some x := by
  unfold State.spareRunning
  rw [hx]
  exact if_pos hm

theorem State.spareRunning_none {s : State} {p : Nat} (hx : s.spareNow p = none) : s.spareRunning p = none := by
  unfold State.spareRunning
  rw [hx]

/-- The swap to a spare that a failed lane of logical lane `k` brings (R147). -/
def State.failureSwap (s : State) (n l k x : Nat) : State :=
  s.setSwap (lanePort n) (some { lane := n, spare := x, logical := k, failure := true, txBlock := some (s.blockIn2us l) })

/-- A spare takes the logical lane of a failed lane over, and the head is asked to do so too (R147, R159). -/
def State.spareTakes (s : State) (n l k x : Nat) : State :=
  ((s.failureSwap n l k x).sendMgmt l (((s.failureSwap n l k x).linkLanes l).head?.getD n) { opcode := 4, subject := k }).emit
    (.lane x (.takeOver k (s.blockIn2us l) true))

theorem State.spareTakes_swapOf (s : State) (n l k x : Nat) : (s.spareTakes n l k x).swapOf (lanePort n) =
    some { lane := n, spare := x, logical := k, failure := true, txBlock := some (s.blockIn2us l) } := by
  show ((s.failureSwap n l k x).sendMgmt l _ _).swapOf (lanePort n) = _
  rw [State.sendMgmt_swapOf]
  exact State.setSwap_swapOf ..

/-- What follows the failure of a lane of a link, with no swap under way on its port: a spare in spare run that serves the lane takes it
over, or else the link is restriped. -/
def State.failedOver (s : State) (n l k : Nat) : State :=
  match s.spareRunning (lanePort n) with
  | some x => if bit (s.act Reg.LANE_CTRL n) 6 && s.spareServes n then s.spareTakes n l k x else s.restripe l k
  | none => s.restripe l k

theorem State.failedOver_spare {s : State} {n l k x : Nat} (hx : s.spareRunning (lanePort n) = some x)
    (hauto : bit (s.act Reg.LANE_CTRL n) 6 = true) (hv : s.spareServes n = true) : s.failedOver n l k = s.spareTakes n l k x := by
  unfold State.failedOver
  rw [hx, hauto, hv]
  rfl

theorem State.failedOver_none {s : State} {n l k : Nat} (hx : s.spareRunning (lanePort n) = none) :
    s.failedOver n l k = s.restripe l k := by
  unfold State.failedOver
  rw [hx]

theorem State.laneFailure_unswapped {s : State} {n l : Nat} {noSignal : Bool} (hm : (s.lane n).mode = .locked)
    (hs : (s.lane n).spare = false) (hf : noSignal = true ∨ 8 ≤ (s.lane n).uncorr) (hl : (s.lane n).link = some l)
    (hw : s.swapOf (lanePort n) = none) :
    s.laneFailure n noSignal = (s.laneFails n).failedOver n l (s.lane n).logical := by
  have hgo : ¬((!(s.lane n).inData) = true ∨ ((!noSignal) = true ∧ (s.lane n).uncorr < 8)) := by
    rw [LaneSt.inData_of (Or.inl hm)]
    rintro (c | ⟨c, h8⟩)
    · cases c
    · rcases hf with rfl | h
      · cases c
      · omega
  have hnone : ((s.setLane n LaneSt.fallen).laneEvt n [7]).swapOf (lanePort n) = none :=
    (State.swapOf_of (State.laneEvt_link ..) _).trans hw
  unfold State.laneFailure
  rw [if_neg hgo]
  dsimp only
  rw [hs, if_neg Bool.false_ne_true, show ((s.setLane n fun q => { q with mode := .failed, losing := true, spareReady := false }).laneEvt
    n [7]).swapOf (lanePort n) = none from hnone, hl]
  dsimp only
  rw [if_neg Bool.false_ne_true]
  rfl

/-! ### A restripe is asked for -/

/-- RESTRIPE with a set of logical lanes, on the lane that carries one of them (R161). -/
def State.asksRestripe (l set : Nat) (s : State) (j : Nat) : State :=
  match s.carrier l j with
  | some m => s.sendMgmt l m { opcode := 5, mask := set }
  | none => s

theorem State.asksRestripe_facts (l set : Nat) (s : State) (j : Nat) :
    ((s.asksRestripe l set j).hl l).restripe = (s.hl l).restripe ∧ (s.asksRestripe l set j).link.lanes = s.link.lanes := by
  unfold State.asksRestripe
  split
  · unfold State.sendMgmt
    rw [State.hl_setHl_self]
    exact ⟨rfl, rfl⟩
  · exact ⟨rfl, rfl⟩

theorem State.asksRestripe_foldl (l set : Nat) (js : List Nat) (s : State) :
    ((js.foldl (State.asksRestripe l set) s).hl l).restripe = (s.hl l).restripe
      ∧ (js.foldl (State.asksRestripe l set) s).link.lanes = s.link.lanes := by
  induction js generalizing s with
  | nil => exact ⟨rfl, rfl⟩
  | cons j js ih =>
    obtain ⟨hset, hlanes⟩ := s.asksRestripe_facts l set j
    obtain ⟨hset', hlanes'⟩ := ih (s.asksRestripe l set j)
    exact ⟨hset'.trans hset, hlanes'.trans hlanes⟩

theorem State.restripe_facts {s : State} {l k : Nat} (h : s.remaining l k ≠ 0) :
    ((s.restripe l k).hl l).restripe = some (s.remaining l k) ∧ (s.restripe l k).link.lanes = s.link.lanes := by
  have hasks : s.restripe l k = (setBits (s.remaining l k) 8).foldl (State.asksRestripe l (s.remaining l k))
      ((s.setEvt Reg.HL_EVENTS l 6).setHl l (fun q => { q with restripe := some (s.remaining l k) })) := if_neg h
  rw [hasks]
  obtain ⟨hset, hlanes⟩ := State.asksRestripe_foldl l (s.remaining l k) (setBits (s.remaining l k) 8)
    ((s.setEvt Reg.HL_EVENTS l 6).setHl l (fun q => { q with restripe := some (s.remaining l k) }))
  exact ⟨hset.trans (congrArg LinkSt.restripe (State.hl_setHl_self ..)), hlanes⟩

/-! ### A swap ends -/

/-- A swap of a port is over: SWAP_DONE of the lane that it frees, which counts it (R146; log entry 125). -/
def State.swapCounted (s : State) (p : Nat) (w : Swap) : State :=
  ((s.setSwap p none).laneEvt w.lane [8]).setReg Reg.LANE_SWAP_CNT w.lane 0
    (BitVec.ofNat 32 (satAdd 0xFFFFFFFF (s.reg Reg.LANE_SWAP_CNT w.lane).toNat 1))

/-- The lane that a swap frees is the port's spare, on the link that the old spare carries now (R146). -/
def State.becomesSpare (s : State) (p : Nat) (w : Swap) (l : Nat) : State :=
  (s.setSpareNow p (laneInPort w.lane)).setLane w.lane (fun q => { q with
    spare := true, logical := 15, losing := false, link := some l, drained := false, freed := true })

/-- With logical lane 0 the link's measured delay moves to the other pair of lanes (R175). -/
def State.delayMoves (s : State) (w : Swap) (l : Nat) : State :=
  if w.logical = 0 then s.setHl l (fun q => { q with
    delayValid := false, delays := [], delay := q.delay + s.commaDiff w.lane w.spare }) else s

/-- The freed lane of a swap that is over, as it is when it starts training. -/
def State.swapFrees (s : State) (p : Nat) (w : Swap) : State :=
  (((s.swapCounted p w).becomesSpare p w ((s.lane w.spare).link.getD 0)).delayMoves w ((s.lane w.spare).link.getD 0))

theorem State.swapCounted_svc (s : State) (p : Nat) (w : Swap) : (s.swapCounted p w).svc = s.svc :=
  (State.setReg_svc ..).trans ((State.laneEvt_keeps ..).same .svc rfl)

theorem State.swapCounted_link (s : State) (p : Nat) (w : Swap) : (s.swapCounted p w).link = (s.setSwap p none).link :=
  (State.setReg_link ..).trans (State.laneEvt_link ..)

theorem State.delayMoves_rest (s : State) (w : Swap) (l : Nat) : (s.delayMoves w l).link.lanes = s.link.lanes
    ∧ (s.delayMoves w l).link.swaps = s.link.swaps ∧ (s.delayMoves w l).cur = s.cur ∧ (s.delayMoves w l).time = s.time := by
  unfold State.delayMoves
  split <;> exact ⟨rfl, rfl, rfl, rfl⟩

/-- What the end of a swap leaves: no swap on the port, the freed lane in the spare role, and the swap counted. -/
theorem State.swapFrees_facts (s : State) (p : Nat) (w : Swap) : (s.swapFrees p w).swapOf p = none
    ∧ ((s.swapFrees p w).lane w.lane).spare = true ∧ ((s.swapFrees p w).lane w.lane).logical = 15
    ∧ (s.swapFrees p w).time = s.time ∧ (s.swapFrees p w).reg Reg.LANE_SWAP_CNT w.lane
      = BitVec.ofNat 32 (satAdd 0xFFFFFFFF (s.reg Reg.LANE_SWAP_CNT w.lane).toNat 1) := by
  unfold State.swapFrees
  generalize (s.lane w.spare).link.getD 0 = l
  obtain ⟨hlanes, hswaps, hcur, htime⟩ := ((s.swapCounted p w).becomesSpare p w l).delayMoves_rest w l
  have hlane : (((s.swapCounted p w).becomesSpare p w l).delayMoves w l).lane w.lane = { (s.swapCounted p w).lane w.lane with
      spare := true, logical := 15, losing := false, link := some l, drained := false, freed := true } :=
    (State.lane_lanes hlanes _).trans (State.lane_setLane_self ..)
  refine ⟨?_, ?_, ?_, ?_, ?_⟩
  · have hnone : (s.swapCounted p w).swapOf p = none := (State.swapOf_of (s.swapCounted_link p w) p).trans (State.setSwap_swapOf ..)
    unfold State.swapOf at hnone ⊢
    rw [hswaps]
    exact hnone
  · rw [hlane]
  · rw [hlane]
  · exact htime.trans (State.laneEvt_time ..)
  · unfold State.reg
    rw [hcur]
    exact State.reg_setReg_self ((s.setSwap p none).laneEvt w.lane [8]) Reg.LANE_SWAP_CNT w.lane 0 _ (by decide)

/-- A swap of which both directions have moved, of a lane that has not failed and does not drain: the freed lane trains as spare. -/
theorem State.swapDone_trains {s : State} {p : Nat} {w : Swap} (hw : s.swapOf p = some w) (hr : w.rxDone = true)
    (ht : s.swapTxDone w = true) (hm : (s.lane w.lane).mode ≠ .failed) (hu : s.unitCode 4 w.lane ≠ 3) :
    s.swapDone p = (((s.swapFrees p w).startTraining w.lane).swapOver w).completeOpt w.ticket stDone
      [(16, 1, w.logical), (17, 1, laneInPort w.spare)] := by
  have hcode : ((((s.setSwap p none).laneEvt w.lane [8]).setReg Reg.LANE_SWAP_CNT w.lane 0
      (BitVec.ofNat 32 (satAdd 0xFFFFFFFF (s.reg Reg.LANE_SWAP_CNT w.lane).toNat 1))).unitCode 4 w.lane = 3) = False :=
    eq_false (fun c => hu ((State.unitCode_of (s.swapCounted_svc p w) 4 w.lane).symm.trans c))
  unfold State.swapDone
  rw [hw]
  simp only [hr, ht, Bool.and_self, Bool.not_true, Bool.false_eq_true, if_false, hcode, hm, decide_false, Bool.or_self, Bool.not_false,
    Bool.and_true]
  rfl

/-- Settles O23: a failure by the spare that takes over or the restripe, and the end of a swap by what it frees and trains. That
LANE_SWAP_CNT of the freed lane counts the swap is log entry 125. -/
theorem laneFailures : Obligations.LaneFailures := by
  refine ⟨?spare, ?restripe, ?done⟩
  case spare =>
    intro s n l x noSignal hrun hm hs hf hl hw hx hne hr hauto hv
    have hspare : (s.laneFails n).spareRunning (lanePort n) = some x :=
      State.spareRunning_some ((s.laneFails_spareNow n _).trans hx) (by rw [s.laneFails_lane_ne hne]; exact hr)
    have htakes := State.failedOver_spare (l := l) (k := (s.lane n).logical) hspare (by rw [s.laneFails_act n]; exact hauto)
      ((s.laneFails_spareServes n n).trans hv)
    refine ⟨_, (State.go_run _ _ hrun : execLaneFailure n noSignal s = _), ?_⟩
    rw [State.laneFailure_unswapped hm hs hf hl hw, htakes, ← s.laneFails_blockIn2us n l]
    refine ⟨?_, s.laneFails_bit n, State.spareTakes_swapOf .., List.mem_cons_self ..⟩
    exact congrArg LaneSt.mode (s.laneFails_lane n)
  case restripe =>
    intro s n l noSignal hrun hm hs hf hl hw hx hrest
    rw [← s.laneFails_remaining n l] at hrest ⊢
    obtain ⟨hset, hlanes⟩ := State.restripe_facts hrest
    refine ⟨_, (State.go_run _ _ hrun : execLaneFailure n noSignal s = _), ?_⟩
    rw [State.laneFailure_unswapped hm hs hf hl hw,
      State.failedOver_none (State.spareRunning_none ((s.laneFails_spareNow n _).trans hx))]
    exact ⟨congrArg LaneSt.mode ((State.lane_lanes hlanes n).trans (s.laneFails_lane n)), hset⟩
  case done =>
    intro s p w hrun hw hr ht hne _ hm hu
    obtain ⟨hfree, hspare, hlog, htime, hcnt⟩ := s.swapFrees_facts p w
    have htrain := (s.swapFrees p w).startTraining_lane w.lane
    have hlane : ((((s.swapFrees p w).startTraining w.lane).swapOver w).completeOpt w.ticket stDone
        [(16, 1, w.logical), (17, 1, laneInPort w.spare)]).lane w.lane = ((s.swapFrees p w).startTraining w.lane).lane w.lane :=
      (State.lane_of (State.completeOpt_link ..) _).trans (State.swapOver_lane (by rw [htrain]) hne)
    have hquiet : Quiet Reg.LANE_SWAP_CNT w.lane 0 := quiet_win _ _ _ (by decide) (by decide) (by decide)
    have hevents : ∀ n, Reg.LANE_SWAP_CNT.win ≠ 4 ∨ Reg.LANE_SWAP_CNT.addr w.lane ≠ Reg.LANE_EVENTS.addr n := fun n =>
      Or.inr (by simp only [RegRow.addr, Reg.LANE_SWAP_CNT, Reg.LANE_EVENTS]; omega)
    refine ⟨_, (State.go_run _ _ hrun : execSwapDone p s = _), ?_⟩
    rw [State.swapDone_trains hw hr ht hm hu, hlane, htrain]
    refine ⟨?_, hspare, hlog, rfl, congrArg TimeState.clk htime, ?_⟩
    · rw [State.swapOf_of (State.completeOpt_link ..), State.swapOver_swapOf, State.startTraining_swapOf]
      exact hfree
    · rw [State.completeOpt_reg _ _ _ _ _ _ _ hquiet (by decide), State.swapOver_reg _ _ _ _ _ hquiet hevents,
        State.startTraining_reg _ _ _ _ _ hquiet (hevents _)]
      exact hcnt

end Sys2Proof.Machine

/-! SUPPORT. Packets, credits, settings and register transactions of a head link (R162 to R183), and the codewords of a lane (R121). -/

namespace Sys2Proof.Machine

/-! ### Counters and events of a head link -/

/-- An event of a head link that a counter of the link follows: the event stays set, and the counter goes up by one. -/
theorem State.count_hlEvt (s : State) {l b : Nat} {r : RegRow} (hw : r.win = Reg.HL_EVENTS.win) (hs : r.s1 = Reg.HL_EVENTS.s1)
    (hr : r.base ≠ Reg.HL_EVENTS.base) (hb : b < 32) : bit (((s.hlEvt l b).count r l).reg Reg.HL_EVENTS l) b = true
      ∧ (((s.hlEvt l b).count r l).reg r l).toNat = min 0xFFFFFFFF ((s.reg r l).toNat + 1) := by
  have hwin : r.win < 16 := by rw [hw]; decide
  have hne : r.addr l ≠ Reg.HL_EVENTS.addr l := RegRow.addr_ne l hw hs hr
  constructor
  · unfold State.count State.countN
    rw [State.reg_setReg_ne _ _ _ _ _ _ _ _ hwin (Or.inr hne.symm)]
    exact State.setEvt_bit _ _ _ _ (by decide) hb
  · rw [State.count_toNat _ _ _ hwin]
    unfold State.hlEvt State.setEvt State.orReg
    rw [State.reg_setReg_ne _ _ _ _ _ _ _ _ (by decide) (Or.inr hne)]

theorem State.count_hl (s : State) (r : RegRow) (i l : Nat) : (s.count r i).hl l = s.hl l := State.hl_of (State.count_link ..) l

theorem State.post_hl (s : State) (group etype source : Nat) (pl : List (Nat × Nat × Nat)) (status l : Nat) :
    (s.post group etype source pl status).hl l = s.hl l := State.hl_of (State.post_link ..) l

theorem State.complete_hl (s : State) (k : Ticket) (st : Nat) (pl : List (Nat × Nat × Nat)) (et l : Nat) :
    (s.complete k st pl et).hl l = s.hl l := State.hl_of (State.complete_link ..) l

/-- A register of a head link keeps its value when an event is posted. -/
theorem State.post_hlReg (s : State) {r : RegRow} (l : Nat) (hw : r.win = 5) (group etype source : Nat) (pl : List (Nat × Nat × Nat))
    (status : Nat) : (s.post group etype source pl status).reg r l = s.reg r l :=
  (State.post_postSame ..).reg r l 0 (quiet_win _ _ _ (by omega) (by omega) (by omega))

/-- A register of a head link keeps its value when a command completes. -/
theorem State.complete_hlReg (s : State) {r : RegRow} (l : Nat) (hw : r.win = 5) (k : Ticket) (st : Nat) (pl : List (Nat × Nat × Nat))
    (et : Nat) : (s.complete k st pl et).reg r l = s.reg r l :=
  State.complete_reg _ _ _ _ _ _ _ _ (quiet_win _ _ _ (by omega) (by omega) (by omega)) (by omega)

/-! ### Settings (R180, R182) -/

theorem State.settingsCheck_none {s : State} {d : Desc} (hst : structOk d (tIs d 2 64) settingsUsed false = true)
    (htag : 1 ≤ opAt d 12 2 ∧ opAt d 12 2 ≤ 0xFFFE) (hslip : opAt d 14 1 ≤ 1) (hcnt : 1 ≤ opAt d 15 1 ∧ opAt d 15 1 ≤ 120)
    (haddr : opAt d 16 8 % 8 = 0) (hctl : s.isCtl d (s.streamRig (tIndex d)) = true) (hm : s.dev.mode = .operational)
    (hon : s.streamOn (tIndex d) = true) (hrig : s.rigMode (s.streamRig (tIndex d)) ≠ .idle)
    (hup : (s.hl (s.streamLink (tIndex d))).mode = .up) : State.settingsCheck d s = none := by
  obtain ⟨htag1, htag2⟩ := htag
  obtain ⟨hcnt1, hcnt2⟩ := hcnt
  have hmode : (s.modeIn [.operational] && s.streamOn (tIndex d)
      && decide (s.rigMode (s.streamRig (tIndex d)) ≠ .idle)) = true := by
    unfold State.modeIn
    rw [hm, hon, decide_eq_true hrig]
    rfl
  unfold State.settingsCheck
  dsimp only
  rw [State.check405_none s d hst (by simp [*]) hctl hmode]
  exact if_pos hup

/-- Settings with no others of their stream in their tick are queued for it, and their command completes. -/
theorem State.queueSettings_alone {s : State} {k : Ticket} {st l f posted tag : Nat} {ent : List Byte} {tick : Int}
    (h : (s.hl l).settings.filter (fun x => decide (x.stream = st) && decide ((x.sendTick : Int) = tick)) = []) :
    s.queueSettings k st l f posted tag ent tick false = (s.setHl l (fun q => { q with settings := q.settings ++ [{
      stream := st, run := (s.run (s.streamRig st)).run, frame := f, posted := posted, tag := tag, entries := ent,
      sendTick := tick.toNat, slipped := false }] })).complete k stDone [(16, 4, f), (20, 8, tick.toNat)] := by
  unfold State.queueSettings
  dsimp only
  rw [h]
  rfl

/-- Settings that a link sends when their tick has come, or that a link that carries no packets gives up (R180). -/
def State.sendsSettings (l : Nat) (s : State) (x : Settings) : State :=
  if s.linkCarries l then
    s.sendPkt l (mkPkt 0x0A 1 (s.streamSlot x.stream)
      (leBytes 4 x.frame ++ leBytes 2 x.tag ++ leBytes 1 (x.entries.length / 8)) x.entries)
  else (s.hlEvt l 4).post 2 0x23 (target 2 x.stream) [(16, 4, x.frame), (20, 2, x.tag), (22, 1, 0xFF)]

/-- Sending leaves what the link holds of settings. -/
theorem State.sendsSettings_hl (l : Nat) (s : State) (x : Settings) : ((s.sendsSettings l x).hl l).settings = (s.hl l).settings
    ∧ ((s.sendsSettings l x).hl l).sentSettings = (s.hl l).sentSettings := by
  unfold State.sendsSettings
  split
  · obtain ⟨a, b, c, w, hhl⟩ := s.sendPkt_hl l (mkPkt 0x0A 1 (s.streamSlot x.stream)
      (leBytes 4 x.frame ++ leBytes 2 x.tag ++ leBytes 1 (x.entries.length / 8)) x.entries)
    rw [hhl]
    exact ⟨rfl, rfl⟩
  · rw [State.post_hl, State.hlEvt_hl]
    exact ⟨rfl, rfl⟩

theorem State.sendsSettings_foldl (l : Nat) (xs : List Settings) (s : State) :
    ((xs.foldl (State.sendsSettings l) s).hl l).settings = (s.hl l).settings
      ∧ ((xs.foldl (State.sendsSettings l) s).hl l).sentSettings = (s.hl l).sentSettings := by
  induction xs generalizing s with
  | nil => exact ⟨rfl, rfl⟩
  | cons x xs ih =>
    obtain ⟨hheld, hsent⟩ := s.sendsSettings_hl l x
    obtain ⟨hheld', hsent'⟩ := ih (s.sendsSettings l x)
    exact ⟨hheld'.trans hheld, hsent'.trans hsent⟩

/-- Of the settings a link holds, those whose tick has come go from those that wait to those that were sent. -/
def State.settingsLeave (s : State) (l : Nat) : State := s.setHl l (fun q => { q with
  settings := q.settings.filter (fun x => decide (s.time.tickNum < x.sendTick))
  sentSettings := q.sentSettings ++ (s.hl l).settings.filter (fun x => decide (x.sendTick ≤ s.time.tickNum)) })

theorem State.settingsSend_eq (s : State) (l : Nat) : s.settingsSend l =
    ((s.hl l).settings.filter (fun x => decide (x.sendTick ≤ s.time.tickNum))).foldl (State.sendsSettings l) (s.settingsLeave l) := rfl

theorem State.settingsAck_refused {s : State} {l : Nat} {p : Pkt} (h : leAt p.fields 6 1 ≠ 0) :
    ((s.settingsAck l p).hl l = s.hl l) ∧ bit ((s.settingsAck l p).reg Reg.HL_EVENTS l) 4 = true
      ∧ ((s.settingsAck l p).reg Reg.HL_SETTINGS_NAK_CNT l).toNat
        = min 0xFFFFFFFF ((s.reg Reg.HL_SETTINGS_NAK_CNT l).toNat + 1) := by
  obtain ⟨hevt, hcount⟩ := s.count_hlEvt (l := l) (b := 4) (r := Reg.HL_SETTINGS_NAK_CNT) rfl rfl (by decide) (by decide)
  unfold State.settingsAck
  dsimp only
  rw [if_neg h]
  split
  · rw [State.post_hl, State.count_hl, State.hlEvt_hl, State.post_hlReg _ _ rfl, State.post_hlReg _ _ rfl]
    exact ⟨rfl, hevt, hcount⟩
  · rw [State.count_hl, State.hlEvt_hl]
    exact ⟨rfl, hevt, hcount⟩

/-! ### Register transactions (R183) -/

theorem State.sensorCheck_none {s : State} {d : Desc} (hst : structOk d (tIs d 3 32) [(8, 2), (12, 12)] false = true)
    (hop : opAt d 8 1 ≤ 1) (hw : 1 ≤ opAt d 9 1 ∧ opAt d 9 1 ≤ 64) (haddr : opAt d 16 8 % 4 = 0) (hsteward : s.isSteward d = true)
    (hm : s.modeIn [.standby, .operational] = true) (hup : (s.hl (tIndex d)).mode = .up)
    (hfree : (s.hl (tIndex d)).txns.length < 16) : State.sensorCheck d s = none := by
  obtain ⟨hw1, hw2⟩ := hw
  unfold State.sensorCheck
  dsimp only
  rw [State.check405_none s d hst (by simp [*]) (by rw [hsteward]; rfl) hm]
  dsimp only
  rw [if_neg (not_not_intro hup), if_neg (by omega)]

/-- The answer to the only transaction of a link ends it and completes its command. -/
theorem State.regCompletion_only {s : State} {l : Nat} {p : Pkt} {x : Txn} (hx : (s.hl l).txns = [x]) (hp : x.txn = leAt p.fields 0 2) :
    ∃ u st, s.regCompletion l p = u.complete x.ticket st [(16, 1, leAt p.fields 2 1)] ∧ (u.hl l).txns = [] ∧ RingSame s u := by
  have hends : ((s.setHl l (fun q => { q with txns := q.txns.filter (fun y => decide (y.txn ≠ x.txn)) })).hl l).txns = [] := by
    rw [State.hl_setHl_self]
    simp [hx]
  have hring : RingSame s (s.setHl l (fun q => { q with txns := q.txns.filter (fun y => decide (y.txn ≠ x.txn)) })) := RingSame.of rfl
  unfold State.regCompletion
  rw [hx, List.find?_cons_of_pos (by rw [hp]; exact decide_eq_true rfl)]
  dsimp only
  refine ⟨_, _, rfl, ?_, ?_⟩
  · split
    · rw [State.hl_of (State.hostWrite_link ..) l]
      exact hends
    · exact hends
  · split
    · exact hring.trans ((State.hostWrite_keeps ..).ringSame rfl)
    · exact hring

/-- A transaction that times out: it ends with its event and its count (R183). -/
def State.txnLost (s : State) (l : Nat) (x : Txn) : State :=
  ((s.setHl l (fun q => { q with txns := q.txns.filter (fun y => decide (y.txn ≠ x.txn)) })).hlEvt l 5).count Reg.HL_REG_TIMEOUT_CNT l

theorem State.regTimeout_only {s : State} {l : Nat} {x : Txn} (hx : (s.hl l).txns = [x])
    (ht : x.at_ + usClk (s.act Reg.HL_REG_TIMEOUT l).toNat ≤ s.time.clk) :
    s.regTimeout l = (s.txnLost l x).complete x.ticket stTimeout := by
  unfold State.regTimeout
  dsimp only
  rw [hx, show [x].filter (fun y => decide (y.at_ + usClk (s.act Reg.HL_REG_TIMEOUT l).toNat ≤ s.time.clk)) = [x] from
    List.filter_cons_of_pos (decide_eq_true ht)]
  rfl

theorem State.txnLost_txns {s : State} {l : Nat} {x : Txn} (hx : (s.hl l).txns = [x]) : ((s.txnLost l x).hl l).txns = [] := by
  unfold State.txnLost
  rw [State.count_hl, State.hlEvt_hl, State.hl_setHl_self]
  simp [hx]

/-! ### Credits and the codewords of a lane (R121, R165) -/

theorem State.flushVc1_nil {s : State} {l : Nat} (h : (s.hl l).wait1 = []) (n : Nat) : s.flushVc1 l (n + 1) = s := by
  unfold State.flushVc1
  rw [h]

/-- The pair of counters of a lane that counts up reads one more; another pair of its counters reads as before. -/
theorem State.add64_lane (s : State) (lo hi : RegRow) (i k n : Nat) : (s.add64 lo hi i k).lane n = s.lane n :=
  State.lane_of (State.add64_link ..) n

theorem State.codewordBits_none {s : State} {n : Nat} {bits : List Bool} (hspare : (s.lane n).spare = false)
    (hlink : (s.lane n).link = none) (hbad : rsDecode (symsOf bits) = none) : s.codewordBits n bits =
      (((s.add64 Reg.LANE_CW_CNT_LO Reg.LANE_CW_CNT_HI n 1).add64 Reg.LANE_UNCORR_CNT_LO Reg.LANE_UNCORR_CNT_HI n 1).laneEvt
        n [0]).setLane n (fun q => { q with uncorr := q.uncorr + 1 }) := by
  unfold State.codewordBits
  dsimp only
  rw [State.add64_lane, hspare, hlink, hbad]
  rfl

theorem State.codewordBits_some {s : State} {n k : Nat} {bits : List Bool} {fixed : List Nat} (hspare : (s.lane n).spare = false)
    (hlink : (s.lane n).link = none) (hgood : rsDecode (symsOf bits) = some (fixed, k)) : s.codewordBits n bits =
      ((s.add64 Reg.LANE_CW_CNT_LO Reg.LANE_CW_CNT_HI n 1).add64 Reg.LANE_CORR_SYM_LO Reg.LANE_CORR_SYM_HI n k).setLane
        n (fun q => { q with uncorr := 0 }) := by
  unfold State.codewordBits
  dsimp only
  rw [State.add64_lane, hspare, hlink, hgood]
  rfl

/-- What a count of one pair of a lane's counters leaves of another pair, by the places of the rows. -/
theorem State.reg64_add64_ne (s : State) (lo hi lo' hi' : RegRow) (n k : Nat)
    (hw : ∀ r ∈ [lo, hi, lo', hi'], r.win = 4 ∧ r.s1 = 0x1000)
    (hb : ∀ r ∈ [lo, hi], ∀ q ∈ [lo', hi'], q.base ≠ r.base) : (s.add64 lo hi n k).reg64 lo' hi' n = s.reg64 lo' hi' n := by
  have hne : ∀ r ∈ [lo, hi], ∀ q ∈ [lo', hi'], q.addr n ≠ r.addr n := fun r hr q hq => by
    obtain ⟨hrw, hrs⟩ := hw r (List.mem_append_left [lo', hi'] hr)
    obtain ⟨hqw, hqs⟩ := hw q (List.mem_append_right [lo, hi] hq)
    exact RegRow.addr_ne n (hqw.trans hrw.symm) (hqs.trans hrs.symm) (hb r hr q hq)
  have hwin : ∀ r ∈ [lo, hi, lo', hi'], r.win < 16 := fun r hr => by rw [(hw r hr).1]; decide
  exact State.reg64_set64_ne _ _ _ _ _ _ _ (hwin lo (by simp)) (hwin hi (by simp)) (Or.inr (hne lo (by simp) lo' (by simp)))
    (Or.inr (hne hi (by simp) lo' (by simp))) (Or.inr (hne lo (by simp) hi' (by simp))) (Or.inr (hne hi (by simp) hi' (by simp)))

theorem State.setLane_reg64 (s : State) (m : Nat) (f : LaneSt → LaneSt) (lo hi : RegRow) (n : Nat) :
    (s.setLane m f).reg64 lo hi n = s.reg64 lo hi n := rfl

/-- A codeword counted: LANE_CW_CNT goes up by one. -/
theorem State.cwCount (s : State) (n : Nat) : (s.add64 Reg.LANE_CW_CNT_LO Reg.LANE_CW_CNT_HI n 1).reg64 Reg.LANE_CW_CNT_LO
    Reg.LANE_CW_CNT_HI n = (s.reg64 Reg.LANE_CW_CNT_LO Reg.LANE_CW_CNT_HI n + 1) % 2 ^ 64 :=
  State.reg64_add64 _ _ _ _ _ (by decide) (by decide) (Or.inr (RegRow.addr_ne n rfl rfl (by decide)))

/-- A codeword counted, and then counted in a second pair of the lane's counters. -/
theorem State.cwCount_second (s : State) (n k : Nat) {lo hi : RegRow} (hw : ∀ r ∈ [lo, hi], r.win = 4 ∧ r.s1 = 0x1000)
    (hb : ∀ r ∈ [lo, hi], 0x88 ≤ r.base) (hne : lo.base ≠ hi.base) :
    ((s.add64 Reg.LANE_CW_CNT_LO Reg.LANE_CW_CNT_HI n 1).add64 lo hi n k).reg64 Reg.LANE_CW_CNT_LO Reg.LANE_CW_CNT_HI n
      = (s.reg64 Reg.LANE_CW_CNT_LO Reg.LANE_CW_CNT_HI n + 1) % 2 ^ 64
    ∧ ((s.add64 Reg.LANE_CW_CNT_LO Reg.LANE_CW_CNT_HI n 1).add64 lo hi n k).reg64 lo hi n = (s.reg64 lo hi n + k) % 2 ^ 64 := by
  obtain ⟨⟨hlw, hls⟩, hhw, hhs⟩ : (lo.win = 4 ∧ lo.s1 = 0x1000) ∧ hi.win = 4 ∧ hi.s1 = 0x1000 := by simpa using hw
  obtain ⟨hlb, hhb⟩ : 0x88 ≤ lo.base ∧ 0x88 ≤ hi.base := by simpa using hb
  have hcw : Reg.LANE_CW_CNT_LO.base = 0x80 ∧ Reg.LANE_CW_CNT_HI.base = 0x84 := by decide
  have hrow : ∀ r ∈ [Reg.LANE_CW_CNT_LO, Reg.LANE_CW_CNT_HI], r.win = 4 ∧ r.s1 = 0x1000 := by decide
  constructor
  · rw [State.reg64_add64_ne _ lo hi, State.cwCount]
    · exact fun r hr => (List.mem_append.mp (show r ∈ [lo, hi] ++ [_, _] from hr)).elim (hw r) (hrow r)
    · simp only [List.mem_cons, List.not_mem_nil, or_false, forall_eq_or_imp, forall_eq]
      omega
  · rw [State.reg64_add64 _ lo hi _ _ (by omega) (by omega) (Or.inr (RegRow.addr_ne n (by omega) (by omega) hne)),
      State.reg64_add64_ne]
    · exact fun r hr => (List.mem_append.mp (show r ∈ [_, _] ++ [lo, hi] from hr)).elim (hrow r) (hw r)
    · simp only [List.mem_cons, List.not_mem_nil, or_false, forall_eq_or_imp, forall_eq]
      omega

section Codeword
variable {s : State} {n : Nat} {bits : List Bool} (hspare : (s.lane n).spare = false) (hlink : (s.lane n).link = none)
include hspare hlink

theorem State.codewordBits_uncorrectable (hbad : rsDecode (symsOf bits) = none) :
    (s.codewordBits n bits).lane n = { s.lane n with uncorr := (s.lane n).uncorr + 1 }
    ∧ (s.codewordBits n bits).reg64 Reg.LANE_CW_CNT_LO Reg.LANE_CW_CNT_HI n
      = (s.reg64 Reg.LANE_CW_CNT_LO Reg.LANE_CW_CNT_HI n + 1) % 2 ^ 64
    ∧ bit ((s.codewordBits n bits).reg Reg.LANE_EVENTS n) 0 = true
    ∧ (s.codewordBits n bits).reg64 Reg.LANE_UNCORR_CNT_LO Reg.LANE_UNCORR_CNT_HI n
      = (s.reg64 Reg.LANE_UNCORR_CNT_LO Reg.LANE_UNCORR_CNT_HI n + 1) % 2 ^ 64 := by
  obtain ⟨hcw, hun⟩ := s.cwCount_second n 1 (lo := Reg.LANE_UNCORR_CNT_LO) (hi := Reg.LANE_UNCORR_CNT_HI) (by decide) (by decide)
    (by decide)
  rw [State.codewordBits_none hspare hlink hbad]
  refine ⟨?_, Eq.trans ?_ hcw, State.laneEvt_bit _ _ 0 (by decide), Eq.trans ?_ hun⟩
  · rw [State.lane_setLane_self, State.laneEvt_lane, State.add64_lane, State.add64_lane]
  · rw [State.setLane_reg64, State.laneEvt_reg64 _ n [0] Reg.LANE_CW_CNT_LO Reg.LANE_CW_CNT_HI rfl rfl
      (RegRow.addr_ne n rfl rfl (by decide)) (RegRow.addr_ne n rfl rfl (by decide))]
  · rw [State.setLane_reg64, State.laneEvt_reg64 _ n [0] Reg.LANE_UNCORR_CNT_LO Reg.LANE_UNCORR_CNT_HI rfl rfl
      (RegRow.addr_ne n rfl rfl (by decide)) (RegRow.addr_ne n rfl rfl (by decide))]

theorem State.codewordBits_corrected {fixed : List Nat} {k : Nat} (hgood : rsDecode (symsOf bits) = some (fixed, k)) :
    (s.codewordBits n bits).lane n = { s.lane n with uncorr := 0 }
    ∧ (s.codewordBits n bits).reg64 Reg.LANE_CW_CNT_LO Reg.LANE_CW_CNT_HI n
      = (s.reg64 Reg.LANE_CW_CNT_LO Reg.LANE_CW_CNT_HI n + 1) % 2 ^ 64
    ∧ (s.codewordBits n bits).reg64 Reg.LANE_CORR_SYM_LO Reg.LANE_CORR_SYM_HI n
      = (s.reg64 Reg.LANE_CORR_SYM_LO Reg.LANE_CORR_SYM_HI n + k) % 2 ^ 64 := by
  rw [State.codewordBits_some hspare hlink hgood]
  rw [State.lane_setLane_self, State.add64_lane, State.add64_lane, State.setLane_reg64, State.setLane_reg64]
  exact ⟨rfl, s.cwCount_second n k (lo := Reg.LANE_CORR_SYM_LO) (hi := Reg.LANE_CORR_SYM_HI) (by decide) (by decide) (by decide)⟩

end Codeword

/-- A lane that has taken a codeword's levels in: its descrambler and its count of codewords have moved on (R117, R119). -/
def LaneSt.tookWord (q : LaneSt) (levels : List Nat) (scr : BitVec 31) : LaneSt :=
  { q with scr := scr, prevP := levels.getLast?.getD q.prevP, cw := q.cw + 1 }

theorem State.codeword_locked {s : State} {n : Nat} {levels data : List Nat} {bits : List Bool} {scr : BitVec 31}
    (hm : (s.lane n).mode = .locked) (hcw : (s.lane n).cw < 4096)
    (hdata : data = (if (s.lane n).rxPre then unprecode (s.lane n).prevP levels else levels))
    (hscr : (bits, scr) = scramble (s.lane n).scr (data.flatMap grayBits)) :
    s.codeword n levels = (s.setLane n (fun q => q.tookWord levels scr)).codewordBits n bits := by
  unfold State.codeword
  dsimp only
  rw [if_neg (by rw [hm]; decide), if_neg (by rw [hm]; exact fun c => absurd c.1 (by decide)), LaneSt.inData_of (Or.inl hm),
    decide_eq_false (by omega), if_neg (by decide), ← hdata, ← hscr]
  rfl

/-! ### Commands of packets -/

theorem exec_settingsPost {s : State} {d : Desc} {f : Int} (h : s.takesCmd d) (hc : State.settingsCheck d (s.take d) = none)
    (hf : f = (s.take d).settingsTick (s.streamRig (tIndex d)) (((s.hl (s.streamLink (tIndex d))).cap.map (·.k)).getD 1) (opAt d 8 4))
    (hdue : (s.time.tickNum : Int) + 1 ≤ f) : exec (.settingsPost d) s = .next ((s.take d).queueSettings
      { ticketOf d 0x40 with gen := (s.ring d.ring).gen } (tIndex d) (s.streamLink (tIndex d)) (opAt d 8 4) (opAt d 8 4) (opAt d 12 2)
      (sliceBytes d.buf 0 (8 * opAt d 15 1)) f false) := by
  obtain ⟨hrun, htake, hknown⟩ := h
  refine (State.go_run _ _ hrun : execSettingsPost d s = _).trans (congrArg _ ?_)
  rw [State.runCmd_run _ _ _ _ _ htake hknown hc]
  subst hf
  exact if_pos hdue

theorem exec_sensorReg {s : State} {d : Desc} (h : s.takesCmd d) (hc : State.sensorCheck d (s.take d) = none) :
    exec (.sensorReg d) s = .next ((s.take d).sensorReg d { ticketOf d 0x41 with gen := (s.ring d.ring).gen }) := by
  obtain ⟨hrun, htake, hknown⟩ := h
  refine (State.go_run _ _ hrun : execSensorReg d s = _).trans (congrArg _ ?_)
  rw [State.runCmd_run _ _ _ _ _ htake hknown hc]

/-- The state of a link that takes the place and the times of its next beacon (R171, R173). -/
def State.beaconPlaced (s : State) (l b : Nat) (tNext tAfter : Int) : State := s.setHl l (fun q => { q with
  block := b, beaconBlock := some b, beacons := ({ block := (b + 1) % 65536, next := tNext, after := tAfter } :: q.beacons).take 8 })

theorem exec_beaconSend {s : State} {l b : Nat} {tNext tAfter : Int} (hrun : s.svc.stopped = none) (hl : s.linkCarries l = true)
    (hb : b = (if (s.hl l).beaconBlock = some (s.hl l).block then (s.hl l).block + 1 else (s.hl l).block)) :
    exec (.beaconSend l tNext tAfter) s = .next ((s.beaconPlaced l b tNext tAfter).sendPkt l (mkPkt 3 0 0 (leBytes 2 (b + 1))
      (timeBytes tNext ++ [0, 0] ++ timeBytes tAfter ++ leBytes 1 s.time.epoch
        ++ leBytes 1 (b2n (s.hl l).delayValid + 2 * b2n (decide (s.time.servo = .holdover)))
        ++ leBytes 4 (ofSigned 32 (s.hl l).delay) ++ List.replicate 4 0))) := by
  refine (State.go_run _ _ hrun : execBeaconSend l tNext tAfter s = _).trans (congrArg _ ?_)
  subst hb
  exact if_neg (by rw [hl]; decide)

theorem exec_creditSend {s : State} {l : Nat} (hrun : s.svc.stopped = none) (hl : s.linkCarries l = true)
    (hdue : (s.hl l).creditDue = true ∨ (s.hl l).creditAt + usClk 100 ≤ s.time.clk) :
    exec (.creditSend l) s = .next ((s.sendPkt l (mkPkt 1 0 0 (leBytes 3 (s.hl l).freed1 ++ leBytes 3 (s.hl l).freed2) [])).setHl l
      (fun q => { q with creditDue := false, creditAt := s.time.clk, credited := some (q.freed1, q.freed2) })) := by
  refine (State.go_run _ _ hrun : execCreditSend l s = _).trans (congrArg _ (if_pos ?_))
  rw [hl, Bool.true_and, Bool.or_eq_true, decide_eq_true_eq]
  exact hdue

/-- The loss of TIME_LOCK takes a link that is UP back to CAPABILITY (R169). -/
theorem State.beaconEcho_unlocks {s : State} {l : Nat} {p : Pkt} (at_ : Int) (hm : (s.hl l).mode = .up)
    (hwas : (s.hl l).timeLock = true) (hnow : leAt p.payload 4 1 % 2 = 0) :
    ∃ u : State, s.beaconEcho l p at_ = (u.hlEvt l 7).setLinkMode l .capability ∧ (u.hl l).timeLock = false := by
  unfold State.beaconEcho
  dsimp only
  rw [hm, hwas, hnow]
  refine ⟨_, if_pos rfl, ?_⟩
  rw [State.hl_setHl_self]
  rfl

/-- Settles O36: each command by the equation of its case, and what sending, completing and counting leave of the link. The
codeword is that of a lane of no head link. -/
theorem linkPackets : Obligations.LinkPackets := by
  unfold Obligations.LinkPackets
  refine ⟨?settingsPost, ?sensorReg, ?settingsSend, ?beaconSend, ?creditSend, ?credit, ?lockLost, ?capability, ?settingsAck,
    ?completion, ?timeout, ?codeword⟩
  case settingsPost =>
    intro s d f ht hst htag hslip hcnt haddr hctl hm hon hrig hup hf hdue halone
    have hc : State.settingsCheck d (s.take d) = none := State.settingsCheck_none hst htag hslip hcnt haddr hctl hm hon hrig hup
    refine ⟨_, (exec_settingsPost ht hc hf hdue).trans (congrArg _ (State.queueSettings_alone (s := s.take d) halone)), ?_, ?_⟩
    · exact State.finished_complete _ _ _ _ _ _ _ rfl rfl (RingSame.of rfl)
    · rw [State.complete_hl, State.hl_setHl_self]
      rfl
  case sensorReg =>
    intro s d ht hst hop hw haddr hsteward hm hup hfree
    obtain ⟨hnext, htxns, hring⟩ := (s.take d).sensorReg_facts d { ticketOf d 0x41 with gen := (s.ring d.ring).gen }
    exact ⟨_, _, exec_sensorReg ht (State.sensorCheck_none hst hop hw haddr hsteward (s.modes2 d hm) hup hfree),
      State.owed_of _ _ _ hring, rfl, hnext, htxns⟩
  case settingsSend =>
    intro s l hrun
    obtain ⟨hheld, hsent⟩ := State.sendsSettings_foldl l
      ((s.hl l).settings.filter (fun x => decide (x.sendTick ≤ s.time.tickNum))) (s.settingsLeave l)
    have hleave : (s.settingsLeave l).hl l = { s.hl l with
        settings := (s.hl l).settings.filter (fun x => decide (s.time.tickNum < x.sendTick))
        sentSettings := (s.hl l).sentSettings ++ (s.hl l).settings.filter (fun x => decide (x.sendTick ≤ s.time.tickNum)) } :=
      State.hl_setHl_self ..
    rw [hleave] at hheld hsent
    exact ⟨_, (State.go_run _ _ hrun : execSettingsSend l s = _).trans (congrArg _ (s.settingsSend_eq l)), hheld, hsent⟩
  case beaconSend =>
    intro s l b tNext tAfter hrun hl hb
    have hplaced : (s.beaconPlaced l b tNext tAfter).hl l = { s.hl l with
        block := b, beaconBlock := some b,
        beacons := ({ block := (b + 1) % 65536, next := tNext, after := tAfter } :: (s.hl l).beacons).take 8 } :=
      State.hl_setHl_self ..
    have hcarries : (s.beaconPlaced l b tNext tAfter).linkCarries l = true :=
      (State.linkCarries_of (by rw [hplaced])).trans hl
    refine ⟨_, exec_beaconSend hrun hl hb, ?_⟩
    have hsends := fun fields payload => State.sendPkt_vc0 _ l (mkPkt 3 0 0 fields payload) hcarries rfl
    rw [(hsends _ _).1, (hsends _ _).2, hplaced]
    exact ⟨rfl, rfl, rfl, rfl⟩
  case creditSend =>
    intro s l hrun hl hdue
    refine ⟨_, exec_creditSend hrun hl hdue, ?_⟩
    obtain ⟨hout, hhl⟩ := s.sendPkt_vc0 l (mkPkt 1 0 0 (leBytes 3 (s.hl l).freed1 ++ leBytes 3 (s.hl l).freed2) []) hl rfl
    rw [State.setHl_out, hout, State.hl_setHl_self, hhl]
    exact ⟨rfl, rfl, rfl, rfl⟩
  case credit =>
    intro s l p hrun hl hp hhead hwait
    obtain ⟨u, hu, -, -, hout, -, -, hhl, hrx⟩ := s.onPkt_run l 1 p (fun s =>
      (s.setHl l (fun q => { q with headFreed1 := some (leAt p.fields 0 3) })).flushVc1 l 64) hp hl
    have hnone : ((u.setHl l (fun q => { q with headFreed1 := some (leAt p.fields 0 3) })).hl l).wait1 = [] := by
      rw [State.hl_setHl_self, hhl]
      exact hwait
    refine ⟨_, (State.go_run _ _ hrun : execCredit l p s = _).trans (congrArg _ (hu.trans (State.flushVc1_nil hnone 63))), hout, ?_⟩
    rw [State.hl_setHl_self, hhl, hrx hhead]
  case lockLost =>
    intro s l p at_ hrun hp hm hwas hnow
    have hl : s.linkCarries l = true := by
      unfold State.linkCarries
      rw [hm]
      rfl
    obtain ⟨u, hu, -, -, -, -, -, hhl, -⟩ := s.onPkt_run l 4 p (fun s => s.beaconEcho l p at_) hp hl
    obtain ⟨v, hv, hlock⟩ := State.beaconEcho_unlocks (s := u) (p := p) at_ (by rw [hhl]; exact hm) (by rw [hhl]; exact hwas) hnow
    refine ⟨_, (State.go_run _ _ hrun : execBeaconEcho l p at_ s = _).trans (congrArg _ (hu.trans hv)), ?_, ?_, ?_⟩
    · rw [State.setLinkMode_hl]
    · rw [State.setLinkMode_hl, State.hlEvt_hl]
      exact hlock
    · rw [State.setLinkMode_bit]
      exact State.setEvt_bit _ _ _ _ (by decide) (by decide)
  case capability =>
    intro s l p hrun hp hm hlock
    have hl : s.linkCarries l = true := by
      unfold State.linkCarries
      rw [hm]
      rfl
    obtain ⟨u, hu, -, -, -, -, -, hhl, -⟩ := s.onPkt_run l 0x0F p (fun s =>
      (s.setHl l (fun q => { q with cap := some (parseCap p.payload), capLast := some (parseCap p.payload) })).linkRises l) hp hl
    have hcap : (u.setHl l (fun q => { q with cap := some (parseCap p.payload), capLast := some (parseCap p.payload) })).hl l
        = { u.hl l with cap := some (parseCap p.payload), capLast := some (parseCap p.payload) } := State.hl_setHl_self ..
    refine ⟨_, (State.go_run _ _ hrun : execCapability l p s = _).trans (congrArg _ hu), ?_⟩
    rw [State.linkRises_up _ l (by rw [hcap, hhl]; exact hm) (by rw [hcap]; rfl) (by rw [hcap, hhl]; exact hlock), hcap]
    exact ⟨rfl, rfl, rfl, rfl⟩
  case settingsAck =>
    intro s l p hrun hl hp hhead
    obtain ⟨u, hu, -, hcur, -, -, -, hhl, hrx⟩ := s.onPkt_run l 0x0B p (fun s => s.settingsAck l p) hp hl
    rw [hrx hhead] at hhl
    refine ⟨_, (State.go_run _ _ hrun : execSettingsAck l p s = _).trans (congrArg _ hu), ?_⟩
    by_cases h0 : leAt p.fields 6 1 = 0
    · have hsame : u.settingsAck l p = u := if_pos h0
      rw [hsame]
      exact ⟨hhl, fun _ => hcur, fun c => absurd h0 c⟩
    · obtain ⟨hlink, hevt, hcount⟩ := State.settingsAck_refused (s := u) (l := l) h0
      have hreg : u.reg Reg.HL_SETTINGS_NAK_CNT l = s.reg Reg.HL_SETTINGS_NAK_CNT l := by
        unfold State.reg
        rw [hcur]
      rw [hreg] at hcount
      exact ⟨hlink.trans hhl, fun c => absurd c h0, fun _ => ⟨hevt, hcount⟩⟩
  case completion =>
    intro s l p x hrun hl hp hx hn
    obtain ⟨u, hu, -, -, -, hrings, -, hhl, -⟩ := s.onPkt_run l 0x0E p (fun s => s.regCompletion l p) hp hl
    obtain ⟨v, st, hv, hends, hring⟩ := State.regCompletion_only (s := u) (by rw [hhl]; exact hx) hn
    obtain ⟨-, -, -, -, hout, -, -, -, hgen⟩ := ((RingSame.of hrings).trans hring).same x.ticket.ring
    refine ⟨_, (State.go_run _ _ hrun : execRegCompletion l p s = _).trans (congrArg _ (hu.trans hv)), ?_, fun hg => ?_⟩
    · rw [State.complete_hl]
      exact hends
    · rw [State.complete_outstanding _ _ _ _ _ (hgen.trans hg.symm), hout]
  case timeout =>
    intro s l x hrun hx ht
    have hring : RingSame s (s.txnLost l x) := RingSame.of rfl
    obtain ⟨-, -, -, -, hout, -, -, -, hgen⟩ := hring.same x.ticket.ring
    obtain ⟨hevt, hcount⟩ := (s.setHl l (fun q => { q with txns := q.txns.filter (fun y => decide (y.txn ≠ x.txn)) })).count_hlEvt
      (l := l) (b := 5) (r := Reg.HL_REG_TIMEOUT_CNT) rfl rfl (by decide) (by decide)
    refine ⟨_, (State.go_run _ _ hrun : execRegTimeout l s = _).trans (congrArg _ (State.regTimeout_only hx ht)), ?_, ?_, ?_,
      fun hg => ?_⟩
    · rw [State.complete_hl]
      exact State.txnLost_txns hx
    · rw [State.complete_hlReg _ _ rfl]
      exact hevt
    · rw [State.complete_hlReg _ _ rfl]
      exact hcount
    · rw [State.complete_outstanding _ _ _ _ _ (hgen.trans hg.symm), hout]
  case codeword =>
    intro s n levels data bits scr hrun _ hm hcw hspare hlink hdata hscr
    have htook : (s.setLane n (fun q => q.tookWord levels scr)).lane n = (s.lane n).tookWord levels scr := State.lane_setLane_self ..
    have hspare' : ((s.setLane n (fun q => q.tookWord levels scr)).lane n).spare = false := by rw [htook]; exact hspare
    have hlink' : ((s.setLane n (fun q => q.tookWord levels scr)).lane n).link = none := by rw [htook]; exact hlink
    refine ⟨_, (State.go_run _ _ hrun : execCodewordReceive n levels s = _).trans
      (congrArg _ (State.codeword_locked hm hcw hdata hscr)), ?_⟩
    cases hdec : rsDecode (symsOf bits) with
    | none =>
      obtain ⟨hlane, hcount, hevt, hun⟩ := State.codewordBits_uncorrectable hspare' hlink' hdec
      rw [hlane, htook, hcount]
      exact ⟨rfl, rfl, rfl, fun _ => ⟨rfl, hevt, hun⟩, nofun⟩
    | some r =>
      obtain ⟨fixed, k⟩ := r
      obtain ⟨hlane, hcount, hcorr⟩ := State.codewordBits_corrected hspare' hlink' hdec
      rw [hlane, htook, hcount]
      refine ⟨rfl, rfl, rfl, nofun, fun fixed' k' he => ?_⟩
      obtain ⟨-, rfl⟩ := Prod.mk.inj (Option.some.inj he)
      exact ⟨rfl, hcorr⟩

end Sys2Proof.Machine
